-- ==== Sys2Proof/Word.lean ====
section
/-! DEFINITION. Bytes, byte strings in both byte orders, and the canonical finite map that every
sparse table of the part is held in. -/

namespace Sys2Proof

/-- One byte (spec 00 R9). -/
abbrev Byte := BitVec 8

/-- A string of bytes; byte 0 is the lowest address or the first on the wire (spec 00 R9). -/
abbrev Bytes := List Byte

/-- A 32-bit register word. -/
abbrev Word32 := BitVec 32

/-- The byte that carries a number, taken modulo 256. -/
def byteOf (n : Nat) : Byte := BitVec.ofNat 8 n

/-- The number a byte string spells, most significant byte first (network order, spec 00 R10). -/
def beNat (b : Bytes) : Nat := b.foldl (fun acc x => acc * 256 + x.toNat) 0

/-- The number a byte string spells, least significant byte first (host structures, spec 00 R10). -/
def leNat (b : Bytes) : Nat := beNat b.reverse

/-- `len` bytes of a number, most significant first; higher bits are cut off. -/
def beBytes : (len : Nat) → Nat → Bytes
  | 0, _ => []
  | k + 1, n => beBytes k (n / 256) ++ [byteOf n]

/-- `len` bytes of a number, least significant first. -/
def leBytes (len n : Nat) : Bytes := (beBytes len n).reverse

/-- `len` zero bytes. -/
def zeros (len : Nat) : Bytes := List.replicate len 0#8

/-- Bytes `off` to `off + len - 1`, as many of them as there are. -/
def slice (b : Bytes) (off len : Nat) : Bytes := (b.drop off).take len

/-- The byte at `off` as a number; bytes past the end count as zero. -/
def byteAt (b : Bytes) (off : Nat) : Nat := (b.getD off 0#8).toNat

/-- The network-order field of `len` bytes at `off`. -/
def beField (b : Bytes) (off len : Nat) : Nat := beNat (slice b off len)

/-- The little-endian field of `len` bytes at `off`. -/
def leField (b : Bytes) (off len : Nat) : Nat := leNat (slice b off len)

/-- Byte string `b` with the bytes from `off` on replaced by `x`. -/
def splice (b : Bytes) (off : Nat) (x : Bytes) : Bytes :=
  b.take off ++ x ++ b.drop (off + x.length)

/-- `b` cut or padded with zeros to `len` bytes. -/
def padTo (len : Nat) (b : Bytes) : Bytes := b.take len ++ zeros (len - b.length)

/-- Bit `i` of a number. -/
def bitOf (n i : Nat) : Bool := n.testBit i

/-- Bits `[hi:lo]` of a number. -/
def bitsOf (n hi lo : Nat) : Nat := (n >>> lo) % 2 ^ (hi + 1 - lo)

/-- A number with bit `i` set. -/
def bitSet (n i : Nat) : Nat := n ||| (1 <<< i)

/-- A number with bit `i` clear. -/
def bitClear (n i : Nat) : Nat := if n.testBit i then n - 2 ^ i else n

/-- A number with bit `i` set to `v`. -/
def bitPut (n i : Nat) (v : Bool) : Nat := if v then bitSet n i else bitClear n i

/-- The bits of `a` that are not set in `b` (as a write-one-to-clear leaves them). -/
def bitsMinus (a b : Nat) : Nat := a ^^^ (a &&& b)

/-- Truth as a number. -/
def boolNat (b : Bool) : Nat := if b then 1 else 0

/-- Integer division rounded up. -/
def ceilDiv (a b : Nat) : Nat := (a + b - 1) / b

/-- The two's complement reading of an `n`-bit number. -/
def signedOf (bits n : Nat) : Int :=
  if n % 2 ^ bits < 2 ^ (bits - 1) then (n % 2 ^ bits : Nat) else (n % 2 ^ bits : Nat) - (2 ^ bits : Nat)

/-- The `n`-bit two's complement pattern of an integer. -/
def unsignedOf (bits : Nat) (i : Int) : Nat := (i % (2 ^ bits : Nat)).toNat

/-- Addition that stops at the largest 64-bit value (the counters of every chapter saturate). -/
def satAdd64 (a b : Nat) : Nat := min (a + b) (2 ^ 64 - 1)

/-- Addition that stops at the largest 32-bit value. -/
def satAdd32 (a b : Nat) : Nat := min (a + b) (2 ^ 32 - 1)

/-- Addition that stops at the largest 16-bit value. -/
def satAdd16 (a b : Nat) : Nat := min (a + b) (2 ^ 16 - 1)

/-- Bit `p mod 8` of byte `p div 8`: the port sets and bit maps of the dictionary (spec 02 R69). -/
def mapBit (b : Bytes) (p : Nat) : Bool := (byteAt b (p / 8)).testBit (p % 8)

/-- A finite map with numbers as keys: entries rise strictly by key, and no entry holds the value
that an unlisted key reads as. Equal maps are therefore equal data. -/
abbrev Tab (α : Type) := List (Nat × α)

/-- The value of key `i`; `d` is what an unlisted key reads as. -/
def Tab.get {α : Type} (d : α) : Tab α → Nat → α
  | [], _ => d
  | (k, v) :: t, i => if k = i then v else Tab.get d t i

/-- Is the key listed? -/
def Tab.has {α : Type} (t : Tab α) (i : Nat) : Bool := t.any (fun e => e.1 == i)

/-- The map without key `i`. -/
def Tab.del {α : Type} : Tab α → Nat → Tab α
  | [], _ => []
  | (k, v) :: t, i => if k = i then t else (k, v) :: Tab.del t i

/-- The map with key `i` listed as `v`, at its place in the rising order. -/
def Tab.ins {α : Type} : Tab α → Nat → α → Tab α
  | [], i, v => [(i, v)]
  | (k, w) :: t, i, v =>
    if i < k then (i, v) :: (k, w) :: t
    else if i = k then (i, v) :: t
    else (k, w) :: Tab.ins t i v

/-- The map after key `i` takes value `v`; the default value is never listed. -/
def Tab.set {α : Type} [DecidableEq α] (d : α) (t : Tab α) (i : Nat) (v : α) : Tab α :=
  if v = d then Tab.del t i else Tab.ins t i v

/-- The map after `f` changes the value of key `i`. -/
def Tab.upd {α : Type} [DecidableEq α] (d : α) (t : Tab α) (i : Nat) (f : α → α) : Tab α :=
  Tab.set d t i (f (Tab.get d t i))

/-- The canonical form: keys rise strictly and no listed value is the default. -/
def Tab.wf {α : Type} [DecidableEq α] (d : α) : Tab α → Bool
  | [] => true
  | (k, v) :: t => decide (v ≠ d) && t.all (fun e => decide (k < e.1)) && Tab.wf d t

end Sys2Proof
end

