-- ==== Sys2Proof/Syntax.lean ====
section
/-! DEFINITION. The commands of the block: one constructor per row of spec/opcode_table.json. An
operand is what the part cannot know by itself: what the host, a link partner, a peer, a ball or
host memory gives it. Times are the elapsed femtoseconds since power came on, at which a command
takes place (log entry 2). -/

namespace Sys2Proof

/-- Link states (spec 03 Table 3.3). -/
inductive LinkSt where
  | disabled | down | training | up | localFault | remoteFault | outOfService
deriving DecidableEq, Repr

/-- Where a dictionary message comes from: the request the mailbox has accepted (spec 02 R65), or a
network message of the given field port (none: the management port), sender address and bytes. -/
inductive FdpSrc where
  | mailbox
  | net (port : Option Nat) (addr : Bytes) (msg : Bytes)
deriving DecidableEq, Repr

/-- The operand of every command that carries a dictionary message: when, the message, and whether what
it writes to the boot flash reads back as written (spec 02 R57, R80, 10 R340, R342). -/
structure Rq where
  t : Nat
  src : FdpSrc
  flash : Bool := true
deriving DecidableEq, Repr

/-- A sampled queue: a port queue or a polder's host queue (spec 08 R287). -/
inductive SampleSrc where
  | port (port tc : Nat)
  | host (fn q : Nat)
deriving DecidableEq, Repr

/-- A memory fault of the buffer pool that shows while a frame is enqueued or leaves (spec 07 R251, R252): a
corrected error, a bad free, an error in frame data, cut-through data that is not there in time (spec 08 R274), an
error in the link entry at a place of the frame's chain, in the free-list word at a depth of a Ditch, or in a cell's
owner tag or bitmap bit. -/
inductive BufFault where
  | clean
  | corrected
  | badFree (cell owner : Nat)
  | data
  | underrun
  | link (place : Nat)
  | freeWord (ditch depth : Nat)
  | tag (cell : Nat)
deriving DecidableEq, Repr

/-- What a start takes with it: the eight signatures of the power-on self-test (spec 17 R560), and whether what the start
writes to the boot flash reads back as written (spec 02 R57, R80). -/
structure PowerOn where
  sigs : List Nat
  flash : Bool
deriving DecidableEq, Repr

/-- When, and whether what the command writes to the boot flash reads back as written (spec 02 R57, R80). -/
structure FlashAt where
  t : Nat
  flash : Bool
deriving DecidableEq, Repr

/-- A received frame's queue, and the memory fault that its cells show when they are read (spec 07 R252). -/
structure Delivery where
  q : Nat
  fault : BufFault
deriving DecidableEq, Repr

/-- When, and the memory fault that a packet's cells show when they are read (spec 07 R252). -/
structure PacketAt where
  t : Nat
  fault : BufFault
deriving DecidableEq, Repr

/-- An entry of a die's learn filter (spec 05 R187). -/
structure FilterEntry where
  die : Nat
  key : Nat
deriving DecidableEq, Repr

/-- When, and at which die. -/
structure DieAt where
  t : Nat
  die : Nat
deriving DecidableEq, Repr

/-- What a link settled on: the FEC that a Clause 73 resolution gives, and the rate in Mb/s that SGMII control words
signal (spec 03 R97, R99). -/
structure LinkTerms where
  fec : Nat
  rate : Nat
deriving DecidableEq, Repr

/-- A trigger's condition as it now stands, and for the FEC trigger the codewords since (spec 03 R118). -/
structure Condition where
  present : Bool
  codewords : List Nat
deriving DecidableEq, Repr

/-- When, and of which stream. -/
structure StreamAt where
  t : Nat
  stream : Nat
deriving DecidableEq, Repr

/-- An object of the dictionary and its subindex. -/
structure ObjectSub where
  index : Nat
  sub : Nat
deriving DecidableEq, Repr

/-- A response that a session keeps (spec 02 R81). -/
structure KeptId where
  session : Nat
  reqId : Nat
deriving DecidableEq, Repr

/-- When, and why a slot that is read again is found invalid, 0 where it is not (spec 15 R529). -/
structure CheckAt where
  t : Nat
  reason : Nat
deriving DecidableEq, Repr

/-- When, why the next image is found invalid, 0 where it is not, and the lifecycle action being carried out with
whether its record was written (spec 15 R533, 10 R359). -/
structure Missed where
  t : Nat
  reason : Nat
  during : Option (Rq × Bool)
deriving DecidableEq, Repr

/-- What a cartridge reports of a drained unit: its slot, its mean cycles, segments remapped, and whether its spare
holds a further segment (spec 14 R467). -/
structure Drained where
  slot : Nat
  meanCycles : Nat
  remapped : Nat
  spare : Bool
deriving DecidableEq, Repr

/-- The segment at which a cartridge's self-test failed, and whether the spare holds a further segment (spec 14 R467,
R499). -/
structure TestReport where
  segment : Nat
  spare : Bool
deriving DecidableEq, Repr

/-- A slot whose cartridge goes, and whether CARTs_PRSNT_N rose, or the link went down (spec 14 R470). -/
structure Removal where
  slot : Nat
  rises : Bool
deriving DecidableEq, Repr

/-- Completion Status of a PCIe completion, and whether its data is poisoned (spec 09 R311). -/
inductive CplStatus where
  | ok | ur | ca | poisoned | malformed | ecrc
deriving DecidableEq, Repr

/-- Capabilities that configuration space may hold (spec 09 Table 9.1, R301). -/
inductive CapName where
  | pciExpress | powerManagement | msix | sriov | ari | ats | pageRequest | pasid | acs | aer | serialNumber
  | secondaryPcie | physical16 | physical32 | physical64 | laneMargining
  | msi | resizableBar | ltr | tph | l1PmSubstates | other
deriving DecidableEq, Repr

/-- Values that a capability presents (spec 09 Table 9.1). -/
inductive CapValue where
  | headerType | portType | payloadSupported | extendedTag | tag10Requester | tag10Completer | tag14Requester
  | tag14Completer | functionReset | maxLinkSpeed | maxLinkWidth | aspmSupport | timeoutRanges | timeoutDisable | flitMode
  | d1Support | d2Support | pmeSupport | noSoftReset
  | initialVfs | vfOffset | vfStride | vfDeviceId | pageSizes | ariNext
  | invalidateDepth | pageAligned | globalInvalidate | pageRequestCapacity | pasidWidth | pasidExecute | pasidPrivileged
  | acsValidation | acsBlocking | acsRequestRedirect | acsCompletionRedirect | acsForwarding | acsEgress
  | acsVectorSize | acsDirect
deriving DecidableEq, Repr

/-- Page Request Group responses (spec 09 R325). -/
inductive PrgCode where
  | success | invalidRequest | responseFailure
deriving DecidableEq, Repr

/-- Where a journal command comes from: a JOURNAL queue, or a capsule of a Siphon channel, both
given by number (spec 14 R482). -/
inductive JSrc where
  | queue (fn q : Nat)
  | capsule (chan msg : Nat)
deriving DecidableEq, Repr

/-- Fields of a function's configuration space that a configuration request reads or writes (spec
09 Table 9.1 and the rules that name an enable). -/
inductive CfgField where
  | vendorId | deviceId | revisionId | classCode | interruptPin | interruptStatus
  | memorySpace | busMaster | completionTimeout | relaxedOrdering | tag10 | tag14
  | msixMask | pasidEnable | atsEnable | priEnable | priReset | priAllocation | priFailure
  | acsEgressEnable | acsVectorBit (g : Nat) | msixTableSize | numVfs | totalVfs | vfEnableBit
  | powerState | serialNumber | aerStatus | bar (i : Nat) | vfBar (i : Nat)
  | present (c : CapName) | value (v : CapValue) | systemPageSize | payloadSize | readRequestSize | msixEnable
  | aerCorrectable | ecrcGenerate | ecrcCheck
deriving DecidableEq, Repr

/-- A namespace as the metadata of a cartridge carries it (spec 14 R473, R474). -/
structure MediaNs where
  ns : Nat
  placement : Nat
  size : Nat
  blob : Bytes
  keyCheck : Bytes
  attach : Option (Nat × Nat)
  formatting : Option Nat
deriving DecidableEq, Repr

/-- One block on a cartridge: namespace, LBA, ciphertext. -/
structure MediaBlock where
  ns : Nat
  lba : Nat
  text : Bytes
deriving DecidableEq, Repr

/-- A commit record as it stands on a cartridge: sequence number, namespace, the blocks it commits (none as
text: a deallocation) and its CRC-32C (spec 14 R490). -/
structure CommitRec where
  seq : Nat
  ns : Nat
  blocks : List (Nat × Option Bytes)
  crc : Nat
deriving DecidableEq, Repr

/-- What a cartridge brings with it (spec 14 R473, R490, R502, R503): its namespaces, its blocks at the last
checkpoint, the commit records since, its counters, its wear and whether its spare holds no further segment. -/
structure CartMedia where
  spaces : List MediaNs
  blocks : List MediaBlock
  records : List CommitRec
  written : Nat
  readCount : Nat
  mediaErrors : Nat
  remapped : Nat
  lost : Nat
  meanCycles : Nat
  spareOut : Bool
  sanitizing : Option Nat
deriving DecidableEq, Repr

/-- One constructor per row of the table of operations and events. -/
inductive Instr where
  /-- COLD_START (R520): The internal power-on release after all rails and REFCLK are stable starts the device's
  start sequence. -/
  | coldStart (t : Nat) (w : PowerOn)
  /-- DDR4_TRAINING_DONE (R521): DDR4 training of a memory die ends, and journal area reservation and cartridge
  replay follow. -/
  | ddr4TrainingDone (t md : Nat)
  /-- PF0_READY (R335): PF0 leaves RRS and the mailbox opens once the start sequence reaches its ready point. -/
  | pf0Ready (t : Nat)
  /-- FIELD_IN_SERVICE (R135): The field dies load the persisted configuration, network FDP opens and port bring-up
  begins. -/
  | fieldInService (t : Nat)
  /-- ALL_READY (R512): The journal set-up ends, JournalState becomes 1 and held journal commands proceed. -/
  | allReady (t : Nat)
  /-- PERST_N_ASSERT (R586): A PERST_N low of at least 1 µs starts a full reset or, with FieldRetention 1, a
  host-side reset. -/
  | perstNAssert (t : Nat)
  /-- PERST_N_RELEASE (R316): PERST_N release starts link training and the readiness timeline of the reset that was
  asserted. -/
  | perstNRelease (w : FlashAt)
  /-- FULL_RESET_MARK (R41): PERST_N held for 1 s with FieldRetention 1 begins the full reset while PERST_N is still
  asserted. -/
  | fullResetMark (t : Nat)
  /-- WRITE_CACHE_DRAIN_END (R40): The end of the write-cache drain at a full reset gives the start from which
  readiness bounds count. -/
  | writeCacheDrainEnd (t : Nat) (w : PowerOn)
  /-- HOT_RESET (R319): A Hot Reset from the link gives every function the FLR outcome and resets configuration
  space. -/
  | hotReset (t : Nat)
  /-- LINK_DOWN (R321): The host link leaves DL_Active without Hot Reset, including surprise removal, and is treated
  as a Hot Reset. -/
  | linkDown (t : Nat)
  /-- LINK_UP (R322): The host link retrains after hot insertion or return, with the function configuration at reset
  values. -/
  | linkUp (t speed width : Nat) (flit : Bool)
  /-- AC_FAIL_FALL (R587): A low of AC_FAIL_N of at least 200 ns is latched and starts the emergency drain of the
  journal engines. -/
  | acFailFall (t : Nat)
  /-- EMERGENCY_DRAIN_DONE (R492): Every dirty unit is drained with its commit record, JournalState becomes 4 and
  the journal-power-drained event is raised. -/
  | emergencyDrainDone (w : FlashAt)
  /-- AC_FAIL_RISE (R494): AC_FAIL_N has stayed high for 10 ms after a drain, so JournalState returns to 1 and
  acceptance resumes. -/
  | acFailRise (t : Nat)
  /-- RAIL_FAULT (R581): A rail leaves tolerance and every die is held in reset until a cold start. -/
  | railFault (t rail : Nat)
  /-- REFCLK_LOSS (R583): REFCLK stops for more than 10 µs, the root PLL unlocks and the device acts as for a rail
  fault. -/
  | refclkLoss (t : Nat)
  /-- THERMAL_SAMPLE (R591): The 1 ms sample of the 32 sensors updates JunctionTemp and acts on the warning,
  throttle and limit thresholds. -/
  | thermalSample (t : Nat) (temps : List Int) (power : Nat)
  /-- THERMTRIP (R593): The hardware comparator asserts THERMTRIP_N at 115 °C and starts the emergency drain. -/
  | thermtrip (t : Nat)
  /-- FLIT_RECEIVE (R26): A flit arrives over a Culvert and its check code is verified. -/
  | flitReceive (c : Nat) (ok : Bool)
  /-- CULVERT_DOWN (R26): A flit fails after 16 successive replays, so the Culvert is declared down and its down
  event is raised. -/
  | culvertDown (t c : Nat)
  /-- CULVERT_RETRAIN (R26): The 1 ms retrain of a down Culvert runs and, when it comes up, raises the up event and
  sends the held replica writes. -/
  | culvertRetrain (t c : Nat) (up : Bool)
  /-- REPLICA_RESYNC_DONE (R204): The full copy of a stale far replica ends and its skew is bounded again. -/
  | replicaResyncDone (die : Nat)
  /-- FRAME_RECEIVE (R102): The MAC receives a whole frame, checks it, and the ingress pipeline parses, classifies,
  looks it up and meters it. -/
  | frameReceive (t port : Nat) (bytes : Bytes) (fcsOk : Bool)
  /-- RECIRC_PASS (R160): A recirculated frame leaves the recirculation queue for another pass of its ingress pipe. -/
  | recircPass (t pipe : Nat)
  /-- CONTEXT_REQUEST (R214): A context request reaches the home die and is applied, parked, queued or sent to the
  miss-overflow action. -/
  | contextRequest (t die : Nat)
  /-- FETCH_ISSUE (R216): A fetch for a missed key reserves a victim way and reads the bucket from DDR4. -/
  | fetchIssue (die : Nat)
  /-- FETCH_COMPLETE (R217): A fetch ends, the context is installed or created, and the parked frames of the key are
  served. -/
  | fetchComplete (t die slot : Nat) (eccError : Bool)
  /-- FLOW_AGER_VISIT (R224): The once-per-second visit of a context expires it when its idle timeout has passed. -/
  | flowAgerVisit (t ctx : Nat)
  /-- FRAME_ENQUEUE (R245): A frame at its egress die is admitted to the buffer and enqueued to a port queue or host
  queue. -/
  | frameEnqueue (t ticket : Nat) (fault : BufFault)
  /-- INJECTION_FRAME (R530): The firmware sends a frame to a port's management injection queue within the Dike
  limits. -/
  | injectionFrame (t port : Nat) (bytes : Bytes)
  /-- TX_SELECT (R262): When the port can start a frame, the scheduler chooses the first eligible frame and passes
  it to the egress pipeline. -/
  | txSelect (t port : Nat)
  /-- FRAME_TX_COMPLETE (R244): The last copy of a frame leaves, its cells are freed and a TSREQ transmit entry
  becomes done. -/
  | frameTxComplete (t port : Nat) (fault : BufFault)
  /-- GATE_ENTRY_CHANGE (R270): The next Sluice entry or cycle start of the operational list changes the gate states
  of a port. -/
  | gateEntryChange (t port : Nat)
  /-- GATE_CONFIG_APPLY (R276): At ConfigChangeTime the administrative list becomes operational, with cycle
  extension or cut. -/
  | gateConfigApply (t port : Nat)
  /-- HOST_TX_SELECT (R285): The host-transmit scheduler of a field die selects a polder's fetched frame and sends
  it over the half Culvert. -/
  | hostTxSelect (t die : Nat)
  /-- RX_DELIVER (R371): A frame waiting for an RX queue is placed into posted buffers and receive results are
  written. -/
  | rxDeliver (t fn : Nat) (w : Delivery)
  /-- SAMPLE_PERIOD_EXPIRY (R288): A queue's sample period expires and one latency sample record is written or
  counted as lost. -/
  | samplePeriodExpiry (t : Nat) (src : SampleSrc)
  /-- LEARN (R189): The home die carries out a learn request: install, move, suppress, or fail. -/
  | learn (t die : Nat)
  /-- REPLICA_WRITE (R190): A replica write reaches a field die and is applied as one atomic 16-byte write. -/
  | replicaWrite (src dst : Nat)
  /-- HIT_NOTICE (R191): A hit notice reaches the home die and sets hit and age 0. -/
  | hitNotice (die : Nat)
  /-- LEARN_FILTER_EXPIRY (R187): A key leaves the learn filter 10 µs after it entered. -/
  | learnFilterExpiry (t : Nat) (w : FilterEntry)
  /-- AGER_VISIT (R193): The ager visits an FDB entry every AgeTime ÷ 7, clears hit, ages it and deletes it at age
  7. -/
  | agerVisit (t index : Nat)
  /-- FLUSH_SWEEP (R199): A flush sweep starts with the flagged ports and deletes their dynamic entries. -/
  | flushSweep (w : DieAt)
  /-- FLUSH_SWEEP_END (R199): A flush sweep has visited every bucket and overflow entry, and the next sweep may
  start. -/
  | flushSweepEnd (w : DieAt)
  /-- BANK_RETIRE (R167): No frame stamped with the former bank remains on any die, so the bank becomes inactive and
  bank-retired is raised. -/
  | bankRetire (t die : Nat)
  /-- LINK_STATE_CHANGE (R100): A port's link state changes, with the link-change event and fast-reroute effects on
  primaries and backups. -/
  | linkStateChange (t port : Nat) (st : LinkSt) (w : LinkTerms)
  /-- PORT_RETRY (R100): A port in DOWN retries link bring-up every 100 ms. -/
  | portRetry (t port : Nat)
  /-- FRR_CONDITION_CHANGE (R118): A trigger condition starts or clears on a port, and a clear within the debounce
  is counted in FrrSuppressed. -/
  | frrConditionChange (t port trigger : Nat) (w : Condition)
  /-- FRR_DEBOUNCE_EXPIRY (R118): A trigger condition has held for FrrDebounce and the trigger latches. -/
  | frrDebounceExpiry (t port : Nat) (triggers : List (Nat × Nat))
  /-- FRR_REVERT_HOLD_EXPIRY (R124): A switched primary has stayed UP for FrrRevertHold and is reverted. -/
  | frrRevertHoldExpiry (t port : Nat)
  /-- FRER_RESET_TIMEOUT (R130): The recovery reset timer expires and the stream sets take_any. -/
  | frerResetTimeout (w : StreamAt)
  /-- TIME_SOURCE_LOST (R107): No PTP message for 3 announce intervals or no PPS_IN edge for 1.5 s puts the time
  base in HOLDOVER. -/
  | timeSourceLost (t : Nat)
  /-- PTP_MESSAGE (R109): A PTP message is received, timestamped and handled by the clock instance or forwarded with
  correction. -/
  | ptpMessage (t port : Nat) (bytes : Bytes)
  /-- PPS_IN_EDGE (R114): A PPS_IN edge of the chosen polarity is timestamped into PpsInLastCapture. -/
  | ppsInEdge (t : Nat) (rising : Bool)
  /-- PPS_OUT_RISE (R113): PPS_OUT rises at each whole second of the time base plus PpsOutOffset. -/
  | ppsOutRise (t : Nat)
  /-- PPS_OUT_FALL (R113): PPS_OUT falls after PpsOutWidth. -/
  | ppsOutFall (t : Nat)
  /-- MBX_GO (R65): A write of MBX_CTRL with GO submits the mailbox request, or is ignored and counted. -/
  | mbxGo (t : Nat) (v : Word32)
  /-- REGISTER_WRITE (R305): An aligned write to a BAR register without behaviour of its own stores its value or is
  ignored. -/
  | registerWrite (t fn bar off size value : Nat)
  /-- READ (R71): An FDP or mailbox READ returns one value after role and type checks. -/
  | read (r : Rq)
  /-- WRITE (R52): An FDP or mailbox WRITE sets one value after role, type and range checks. -/
  | write (r : Rq)
  /-- READ_BLOCK (R82): A READ_BLOCK returns bytes of a snapshot and, at offset 0, takes a new snapshot. -/
  | readBlock (r : Rq)
  /-- WRITE_BLOCK (R83): A WRITE_BLOCK stages one block and, on the last block, checks and writes the whole value. -/
  | writeBlock (r : Rq)
  /-- SUBSCRIBE (R84): A SUBSCRIBE creates or replaces a periodic or on-change subscription. -/
  | subscribe (r : Rq)
  /-- SUBSCRIPTION_TIMER (R84): A subscription's period or minimum interval expires and a NOTIFY is sent. -/
  | subscriptionTimer (t number : Nat)
  /-- SNAPSHOT_EXPIRY (R82): A block snapshot ends after 10 s without a request. -/
  | snapshotExpiry (t session : Nat) (w : ObjectSub)
  /-- STAGING_EXPIRY (R83): A WRITE_BLOCK staging is discarded after 10 s without a block. -/
  | stagingExpiry (t session : Nat) (w : ObjectSub)
  /-- KEPT_RESPONSE_EXPIRY (R81): A kept response leaves the per-session store after 1 s. -/
  | keptResponseExpiry (t : Nat) (w : KeptId)
  /-- TOKEN_EXPIRY (R87): The Vendor role ends at the token's not-after time. -/
  | tokenExpiry (t session : Nat)
  /-- SERVICE_TOKEN (R87): A write of ServiceToken verifies the token and raises the writer to Vendor. -/
  | serviceToken (r : Rq)
  /-- KEY_BLOB (R415): A write of a session's KeyBlob unwraps the key into a polder-0 slot and resets the session
  window. -/
  | keyBlob (r : Rq)
  /-- STORE_ALL (R58): StoreAll starts writing every non-default RWP value to the other object-store copy. -/
  | storeAll (r : Rq)
  /-- STORE_ALL_COMPLETE (R58): The object-store copy is written and read back, and the action is answered or ends
  with PERSIST_FAIL. -/
  | storeAllComplete (t : Nat) (readBackOk : Bool)
  /-- RESTORE_DEFAULTS (R59): RestoreDefaults writes a new object-store copy that holds no values. -/
  | restoreDefaults (r : Rq)
  /-- UNSUBSCRIBE (R84): Unsubscribe ends a subscription of the requesting session. -/
  | unsubscribe (r : Rq)
  /-- TIME_SET (R108): TimeSet steps the time base on every timestamp unit. -/
  | timeSet (r : Rq)
  /-- TIME_ADJUST (R108): TimeAdjust steps the time base by a signed number of ns. -/
  | timeAdjust (r : Rq)
  /-- FRR_REVERT (R124): FrrRevert reverts a switched primary at once when it is UP. -/
  | frrRevert (r : Rq)
  /-- FRER_STREAM_WRITE (R132): FrerStreamWrite sets a stream's mode and parameters and resets its state. -/
  | frerStreamWrite (r : Rq)
  /-- FRER_STREAM_READ (R132): FrerStreamRead returns a stream's settings, state and counters. -/
  | frerStreamRead (r : Rq)
  /-- RULE_WRITE (R165): RuleWrite writes one rule slot of a bank on all four field dies. -/
  | ruleWrite (r : Rq)
  /-- RULE_READ (R169): RuleRead returns one rule slot. -/
  | ruleRead (r : Rq)
  /-- RULE_CLEAR_RANGE (R169): RuleClearRange clears a run of slots, one per clock on each die. -/
  | ruleClearRange (r : Rq)
  /-- RULE_COUNTER_READ (R159): RuleCounterRead returns a rule counter summed over the four dies. -/
  | ruleCounterRead (r : Rq)
  /-- RULE_COUNTER_CLEAR (R159): RuleCounterClear sets one rule counter to 0 on all dies. -/
  | ruleCounterClear (r : Rq)
  /-- PARSE_STATE_WRITE (R141): ParseStateWrite writes a programmable state record of the inactive bank. -/
  | parseStateWrite (r : Rq)
  /-- TRANSITION_WRITE (R140): TransitionWrite writes a transition entry of the inactive bank. -/
  | transitionWrite (r : Rq)
  /-- KEY_PROFILE_WRITE (R156): KeyProfileWrite writes a key profile of the inactive bank. -/
  | keyProfileWrite (r : Rq)
  /-- CLASS_MAP_WRITE (R156): ClassMapWrite writes the class map of the inactive bank. -/
  | classMapWrite (r : Rq)
  /-- PROGRAM_READ (R169): ProgramRead returns a state, transition, profile or class map record. -/
  | programRead (r : Rq)
  /-- BANK_SWAP (R167): BankSwap activates the named bank on every die and puts the former bank in retire pending. -/
  | bankSwap (r : Rq)
  /-- TBL_READ (R202): TBL_CMD READ copies the home copy of an entry to TBL_DATA0–3. -/
  | tblRead (t table : Nat) (byIndex : Bool) (index : Nat)
  /-- TBL_WRITE (R202): TBL_CMD WRITE inserts or replaces a table entry, or deletes it when valid is 0. -/
  | tblWrite (t table : Nat) (byIndex : Bool) (index : Nat)
  /-- TBL_DELETE (R202): TBL_CMD DELETE clears a table entry. -/
  | tblDelete (t table : Nat) (byIndex : Bool) (index : Nat)
  /-- TBL_SEARCH (R202): TBL_CMD SEARCH finds the first valid entry that matches under a mask. -/
  | tblSearch (t table : Nat) (byIndex : Bool) (index : Nat)
  /-- FLUSH_BY_DEST (R199): TBL_CMD FLUSH_BY_DEST flags a port for a flush sweep of its dynamic entries. -/
  | flushByDest (t table : Nat) (byIndex : Bool) (index : Nat)
  /-- AGE_NOW (R202): TBL_CMD AGE_NOW makes every home die visit all its entries at once. -/
  | ageNow (t table : Nat) (byIndex : Bool) (index : Nat)
  /-- TABLE_CLEAR (R206): TableClear deletes every entry of the FDB or the stream table. -/
  | tableClear (r : Rq)
  /-- VLAN_WRITE (R177): VlanWrite sets a VLAN table entry on all field dies. -/
  | vlanWrite (r : Rq)
  /-- VLAN_READ (R177): VlanRead returns a VLAN table entry. -/
  | vlanRead (r : Rq)
  /-- GROUP_WRITE (R178): GroupWrite sets a group's member set on all field dies. -/
  | groupWrite (r : Rq)
  /-- GROUP_READ (R178): GroupRead returns a group's member set. -/
  | groupRead (r : Rq)
  /-- FLOW_WRITE (R235): FlowWrite creates or updates a context for a key, optionally pinned. -/
  | flowWrite (r : Rq)
  /-- FLOW_READ (R212): FlowRead returns a context. -/
  | flowRead (r : Rq)
  /-- FLOW_DELETE (R233): FlowDelete deletes a context and frees its number. -/
  | flowDelete (r : Rq)
  /-- FLOW_PIN (R222): FlowPin pins or unpins a context. -/
  | flowPin (r : Rq)
  /-- FLOW_CLEAR (R234): FlowClear starts deleting every context on all four dies. -/
  | flowClear (r : Rq)
  /-- FLOW_CLEAR_COMPLETE (R234): Every context is deleted and FlowClear is answered. -/
  | flowClearComplete (t : Nat)
  /-- BUF_OWNER_READ (R258): BufOwnerRead returns an owner's class, polder, minima, occupancy and discards per die. -/
  | bufOwnerRead (r : Rq)
  /-- BUF_POLDER_OWNER (R258): BufPolderOwner returns the host owner number of a polder. -/
  | bufPolderOwner (r : Rq)
  /-- BUF_ERROR_LATCH_CLEAR (R251): BufErrorLatchClear clears the double-free and foreign-free latches. -/
  | bufErrorLatchClear (r : Rq)
  /-- GATE_CONFIG_CHANGE (R275): GateConfigChange checks the administrative list and sets ConfigChangeTime. -/
  | gateConfigChange (r : Rq)
  /-- QUEUE_LATENCY_MAX (R288): QueueLatencyMax returns and clears a queue's largest sojourn and depth. -/
  | queueLatencyMax (r : Rq)
  /-- WEIR_WRITE (R283): WeirWrite sets a Weir, fills its buckets and clears blocked. -/
  | weirWrite (r : Rq)
  /-- WEIR_READ (R284): WeirRead returns a Weir's settings and counters. -/
  | weirRead (r : Rq)
  /-- WEIR_UNBLOCK (R283): WeirUnblock clears a Weir's blocked state. -/
  | weirUnblock (r : Rq)
  /-- WEIR_COUNTER_CLEAR (R284): WeirCounterClear sets a Weir's counters to 0. -/
  | weirCounterClear (r : Rq)
  /-- STREAM_FILTER_WRITE (R280): StreamFilterWrite sets a stream handle's filter. -/
  | streamFilterWrite (r : Rq)
  /-- STREAM_FILTER_READ (R284): StreamFilterRead returns a stream filter and its counters. -/
  | streamFilterRead (r : Rq)
  /-- FUNCTION_STATUS (R328): FunctionStatus returns a function's enable bits, reads, tags and parked queues. -/
  | functionStatus (r : Rq)
  /-- COMMIT (R340): Commit checks and takes a polder's staged resources at once. -/
  | commit (r : Rq)
  /-- ADJUST (R344): Adjust changes the counts of a committed polder atomically. -/
  | adjust (r : Rq)
  /-- REMOVE (R351): Remove sets a polder removing and starts ending its work and returning its resources. -/
  | remove (r : Rq)
  /-- POLDER_REMOVE_COMPLETE (R351): A removed polder becomes free and the polder-removed event is raised. -/
  | polderRemoveComplete (t polder : Nat)
  /-- HOST_OWNER_RELEASE (R243): A host owner number returns to the free set once its occupancy is 0 on every die. -/
  | hostOwnerRelease (owner : Nat)
  /-- POLDER_FAULT_CLEAR (R350): PolderFaultClear clears a polder's bit, or all bits, of PolderFaultMap. -/
  | polderFaultClear (r : Rq)
  /-- HOST_GROUP_WRITE (R348): HostGroupWrite sets a host queue group on the field dies and the HD. -/
  | hostGroupWrite (r : Rq)
  /-- HOST_GROUP_READ (R354): HostGroupRead returns a host queue group. -/
  | hostGroupRead (r : Rq)
  /-- QUEUE_STATUS_READ (R386): QueueStatusRead returns a queue's status, indices and context. -/
  | queueStatusRead (r : Rq)
  /-- KEY_SLOT_INFO (R414): KeySlotInfo returns a key slot's state, algorithm, usage and users. -/
  | keySlotInfo (r : Rq)
  /-- CHANNEL_INFO (R454): ChannelInfo returns a Siphon channel's state, PSNs and path rates. -/
  | channelInfo (r : Rq)
  /-- QUIESCE (R469): Quiesce starts draining a cartridge slot so the cartridge can be removed. -/
  | quiesce (r : Rq)
  /-- CART_QUIESCED (R469): The slot's drain and flush end, the link idles and CartState becomes QUIESCED. -/
  | cartQuiesced (t slot : Nat)
  /-- SELF_TEST_START (R499): SelfTestStart starts, or aborts, a cartridge self-test of the named slot. -/
  | selfTestStart (r : Rq)
  /-- SANITIZE (R500): The Sanitize action starts erasing every segment of a cartridge. -/
  | sanitize (r : Rq)
  /-- NAMESPACE_CREATE (R473): NamespaceCreate defines a namespace with its placement, size and key blob. -/
  | namespaceCreate (r : Rq)
  /-- NAMESPACE_DELETE (R503): NamespaceDelete erases a detached namespace and clears its key slot. -/
  | namespaceDelete (r : Rq)
  /-- NAMESPACE_READ (R503): NamespaceRead returns a namespace record. -/
  | namespaceRead (r : Rq)
  /-- NAMESPACE_ATTACH (R475): NamespaceAttach binds a namespace to a polder's handle. -/
  | namespaceAttach (r : Rq)
  /-- NAMESPACE_DETACH (R475): NamespaceDetach unbinds a namespace, keeping its contents and key. -/
  | namespaceDetach (r : Rq)
  /-- NAMESPACE_KEY_LOAD (R474): NamespaceKeyLoad takes a new blob of the same key for a namespace. -/
  | namespaceKeyLoad (r : Rq)
  /-- NAMESPACE_FORMAT (R501): NamespaceFormat starts deallocating and erasing one namespace. -/
  | namespaceFormat (r : Rq)
  /-- FIRMWARE_ACTIVATE (R528): FirmwareActivate holds the journal, stops the cores and starts reading the new slot.
  -/
  | firmwareActivate (r : Rq)
  /-- ACTIVATION_CHECK (R529): The new slot has been read and is checked again, and the activation fails if the
  check fails. -/
  | activationCheck (w : CheckAt)
  /-- ACTIVATION_COMPLETE (R528): The new firmware's first heartbeat arrives, the boot control block is written and
  held queues resume. -/
  | activationComplete (w : FlashAt)
  /-- ACTIVATION_TIMEOUT (R529): No heartbeat arrives by 180 ms, and the cores restart on the previous slot. -/
  | activationTimeout (t : Nat)
  /-- ROLLBACK_ADVANCE (R519): RollbackAdvance blows fuse steps up to the running security version. -/
  | rollbackAdvance (r : Rq)
  /-- DIKE_LOG_CLEAR (R532): DikeLogClear clears the Dike log. -/
  | dikeLogClear (r : Rq)
  /-- DIKE_DMA_WINDOWS (R531): A write of DikeDmaWindows through the mailbox sets the firmware's DMA windows. -/
  | dikeDmaWindows (r : Rq)
  /-- HEARTBEAT (R533): The firmware sends a heartbeat to the Dike and the heartbeat period restarts. -/
  | heartbeat (t : Nat)
  /-- DIKE_HEARTBEAT_TIMEOUT (R533): No heartbeat arrives within the period, so the Dike restarts the cores or halts
  them. -/
  | dikeHeartbeatTimeout (w : Missed)
  /-- CORE_RESTART_COMPLETE (R90): The management cores run again, RESTART clears, held mailbox requests are
  answered and journal queues resume. -/
  | coreRestartComplete (t : Nat)
  /-- EVENT_CLEAR (R557): EventClear acts as a W1C write of one or all event status bits. -/
  | eventClear (r : Rq)
  /-- PORT_EVENT_MAP_CLEAR (R543): PortEventMapClear returns and clears PortEventMap in one step. -/
  | portEventMapClear (r : Rq)
  /-- DEVICE_COUNTER_READ (R557): DeviceCounterRead returns a device counter's selection, overflow and value. -/
  | deviceCounterRead (r : Rq)
  /-- POLDER_COUNTER_SELECT (R553): PolderCounterSelect chooses a page counter's event and overflow vector and
  zeroes it. -/
  | polderCounterSelect (r : Rq)
  /-- POLDER_COUNTER_READ (R557): PolderCounterRead returns a polder's counter page. -/
  | polderCounterRead (r : Rq)
  /-- SELF_TEST_RUN (R564): SelfTestRun takes one field or memory die out of service and starts its test. -/
  | selfTestRun (r : Rq)
  /-- SELF_TEST_END (R560): A die's test ends, its signature and result are stored and measured, and events are
  raised. -/
  | selfTestEnd (t die signature : Nat)
  /-- DIE_RETURN (R567): DieReturn brings a die out after a mismatch through the return steps. -/
  | dieReturn (r : Rq)
  /-- DIE_RETURN_COMPLETE (R565): A tested die is restored and back in service. -/
  | dieReturnComplete (t die : Nat)
  /-- JUNCTION_TEMP_MAX_CLEAR (R598): JunctionTempMaxClear clears the highest recorded junction temperature. -/
  | junctionTempMaxClear (r : Rq)
  /-- CONFIG_REQUEST (R316): A configuration request is served, or completed with RRS before the ready time. -/
  | configRequest (t fn : Nat) (field : CfgField) (write : Option Nat)
  /-- VF_ENABLE (R303): Setting VF Enable creates the VFs, which answer RRS for at most 100 ms. -/
  | vfEnable (t numVfs : Nat)
  /-- BUS_MASTER_DISABLE (R314): Clearing Bus Master Enable stops the function's requests and puts its queues in
  MASTER_DISABLED. -/
  | busMasterDisable (t fn : Nat)
  /-- INTERRUPT_DISABLE_WRITE (R313): A write of PF0's Interrupt Disable asserts or deasserts INTA as pending status
  requires. -/
  | interruptDisableWrite (t : Nat) (v : Bool)
  /-- MSIX_ENABLE_WRITE (R313): A write of MSI-X Enable switches PF0 between MSI-X and INTx emulation. -/
  | msixEnableWrite (t fn : Nat) (v : Bool)
  /-- MSIX_UNMASK (R312): The masking condition of a vector ends, and a pending PBA bit sends its message once. -/
  | msixUnmask (t fn vector : Nat)
  /-- POWER_STATE_WRITE (R315): A write of PF0's power state enters or leaves D3hot. -/
  | powerStateWrite (t fn state : Nat)
  /-- FLR_INITIATE (R317): Initiate FLR on a function stops its fetches and starts ending its work. -/
  | flrInitiate (t fn : Nat)
  /-- FLR_DRAIN_CAP (R317): At 90 ms the FLR abandons pending work and counts an overrun. -/
  | flrDrainCap (t fn : Nat)
  /-- FLR_COMPLETE (R317): The FLR ends, RESET_SEEN is set and the function accepts configuration requests. -/
  | flrComplete (t fn : Nat)
  /-- COMPLETION_RECEIVE (R311): A completion for a device read arrives and is delivered, or ends the read with
  ACCESS. -/
  | completionReceive (t tag : Nat) (status : CplStatus) (data : Bytes)
  /-- COMPLETION_TIMEOUT (R309): A read's completion timeout fires, ends the read with TIMEOUT and quarantines its
  tag. -/
  | completionTimeout (t tag : Nat)
  /-- TAG_QUARANTINE_END (R310): Twice the timeout passes and a quarantined tag returns to the pool. -/
  | tagQuarantineEnd (t tag : Nat)
  /-- TRANSLATION_RESPONSE (R325): A translation returns, and one with no access parks the queue and sends a page
  request. -/
  | translationResponse (t fn q page : Nat) (frame : Option Nat)
  /-- PRG_RESPONSE (R325): A Page Request Group response resumes the parked queue or puts it in TRANSLATION_FAULT. -/
  | prgResponse (t fn q : Nat) (code : PrgCode)
  /-- PAGE_REQUEST_TIMEOUT (R325): A parked queue has no response after PageRequestTimeout and enters
  TRANSLATION_FAULT. -/
  | pageRequestTimeout (t fn q : Nat)
  /-- PRI_RESET (R325): A write of PRI Reset clears PRI_STOPPED. -/
  | priReset (fn : Nat)
  /-- INVALIDATE_REQUEST (R324): An Invalidate Request stops use of the invalidated translations. -/
  | invalidateRequest (t fn tag pasid page : Nat)
  /-- INVALIDATE_COMPLETE (R324): Writes are sent and reads are done under the old translations, so the Invalidate
  Completion is sent. -/
  | invalidateComplete (t fn tag : Nat)
  /-- Q_NOP (R379): Q_CTRL command NOP does nothing. -/
  | qNop (fn q : Nat)
  /-- Q_LOAD (R380): Q_CTRL LOAD copies DATA to a context word of a disabled queue. -/
  | qLoad (fn q word : Nat)
  /-- Q_READ (R380): Q_CTRL READ copies a context word of a disabled queue to DATA. -/
  | qRead (fn q word : Nat)
  /-- Q_ENABLE (R364): Q_CTRL ENABLE checks the context and moves the queue to ENABLED. -/
  | qEnable (t fn q : Nat)
  /-- Q_DISABLE (R380): Q_CTRL DISABLE moves the queue to DRAINING until its fetched chains finish. -/
  | qDisable (t fn q : Nat)
  /-- Q_RESET (R380): Q_CTRL RESET ends the queue's work and returns it to DISABLED keeping the context. -/
  | qReset (t fn q : Nat)
  /-- TAIL_DOORBELL (R383): A doorbell write moves a producer queue's tail, or stops it on overrun. -/
  | tailDoorbell (t fn q index : Nat)
  /-- HEAD_DOORBELL (R377): A doorbell write moves the head of a COMPLETION or SAMPLE queue and makes room. -/
  | headDoorbell (t fn q index : Nat)
  /-- ENTRY_FETCH (R384): The work-queue manager fetches entries of a ready queue and checks their chains. -/
  | entryFetch (t fn q count : Nat) (entries : Option (List Bytes))
  /-- CHAIN_DONE (R374): A chain is done and its completion, mirror write or error state is written. -/
  | chainDone (t fn q : Nat)
  /-- HELD_RELEASE (R382): A HELD queue finds room or its completion queue enabled, writes its waiting completion
  and resumes. -/
  | heldRelease (t fn q : Nat)
  /-- MOD_TIME_EXPIRY (R378): MOD_TIME µs after the first uninterrupted element, the queue raises its vector. -/
  | modTimeExpiry (t fn q : Nat)
  /-- TX_FRAME (R370): A TX_FRAME chain fetches a frame for a port and TC and hands it to the host-transmit
  scheduler. -/
  | txFrame (t fn q : Nat) (frame : Option Bytes)
  /-- RX_BUF (R370): An RX_BUF entry posts a receive buffer. -/
  | rxBuf (t fn q : Nat)
  /-- GCM_ENCRYPT (R405): A GCM_ENCRYPT message is read and queued for a cipher core. -/
  | gcmEncrypt (t fn q : Nat) (params source : Option Bytes)
  /-- GCM_DECRYPT (R409): A GCM_DECRYPT message is read and queued, held or streamed. -/
  | gcmDecrypt (t fn q : Nat) (params source : Option Bytes)
  /-- GMAC_GENERATE (R405): A GMAC_GENERATE message is queued for a cipher core. -/
  | gmacGenerate (t fn q : Nat) (params source : Option Bytes)
  /-- GMAC_VERIFY (R410): A GMAC_VERIFY message is queued for a cipher core. -/
  | gmacVerify (t fn q : Nat) (params source : Option Bytes)
  /-- CTR (R405): A CTR message is queued for a cipher core. -/
  | ctr (t fn q : Nat) (params source : Option Bytes)
  /-- XTS_ENCRYPT (R405): An XTS_ENCRYPT message is queued for a cipher core. -/
  | xtsEncrypt (t fn q : Nat) (params source : Option Bytes)
  /-- XTS_DECRYPT (R405): An XTS_DECRYPT message is queued for a cipher core. -/
  | xtsDecrypt (t fn q : Nat) (params source : Option Bytes)
  /-- UNWRAP (R401): UNWRAP checks a blob and loads its key into a slot. -/
  | unwrap (t fn q : Nat) (blob : Option Bytes)
  /-- WRAP (R402): WRAP wraps a plaintext key into a blob for the polder. -/
  | wrap (t fn q : Nat) (key : Option Bytes)
  /-- SLOT_CLEAR (R403): SLOT_CLEAR zeroes and empties an unused key slot. -/
  | slotClear (t fn q : Nat)
  /-- CIPHER_DISPATCH (R411): A free core is given to one waiting message by the dispatcher. -/
  | cipherDispatch (t : Nat)
  /-- CIPHER_MESSAGE_DONE (R409): A message ends on its core, writing output and tag or zeroing the output on
  AUTH_FAIL. -/
  | cipherMessageDone (t core : Nat)
  /-- CIPHER_CORE_FAULT (R395): A core's duplicated rounds mismatch, the core leaves service and the message
  restarts once. -/
  | cipherCoreFault (t core : Nat)
  /-- SIPHON_WRITE (R439): A Siphon WRITE entry sends a message to a remote region. -/
  | siphonWrite (t fn q : Nat) (descriptor : Option Bytes)
  /-- SIPHON_WRITE_IMM (R444): A Siphon WRITE_IMM entry sends a message with an immediate value. -/
  | siphonWriteImm (t fn q : Nat) (descriptor : Option Bytes)
  /-- SIPHON_READ (R439): A Siphon READ entry requests a remote region's bytes. -/
  | siphonRead (t fn q : Nat) (descriptor : Option Bytes)
  /-- JCMD_SEND (R452): JCMD_SEND sends a journal capsule to a remote target. -/
  | jcmdSend (t fn q : Nat) (capsule : Option Bytes)
  /-- RECV_NOTIFY (R444): RECV_NOTIFY posts an entry to receive a WRITE_IMM immediate value. -/
  | recvNotify (t fn q : Nat)
  /-- CHANNEL_MODIFY (R428): CHANNEL_MODIFY changes a channel's state, taking the full record at RESET to INIT. -/
  | channelModify (t fn q : Nat) (record : Option Bytes)
  /-- CHANNEL_QUERY (R438): CHANNEL_QUERY writes the record in force and returns the global channel number. -/
  | channelQuery (t fn q : Nat)
  /-- REGION_REGISTER (R433): REGION_REGISTER validates a region and returns its key. -/
  | regionRegister (t fn q : Nat) (record : Option Bytes)
  /-- REGION_REVOKE (R451): REGION_REVOKE invalidates a region at a revoke point. -/
  | regionRevoke (t fn q : Nat)
  /-- REVOKE_FENCE (R451): Nothing checked under the old epoch can still touch the region, so the revoke completes. -/
  | revokeFence (t fn q region : Nat)
  /-- SIPHON_PACKET_SEND (R440): The engine sends a channel's next or retransmitted packet on an eligible path. -/
  | siphonPacketSend (t chan : Nat) (payload : Option Bytes)
  /-- SIPHON_RX_WRITE (R441): A received WRITE packet is checked, placed and acknowledged. -/
  | siphonRxWrite (w : PacketAt)
  /-- SIPHON_RX_WRITE_IMM (R444): A received WRITE_IMM packet is placed and, when the message completes, delivers
  its value. -/
  | siphonRxWriteImm (w : PacketAt)
  /-- SIPHON_RX_READ_REQ (R445): A received READ_REQ is checked and served with READ_RESP packets. -/
  | siphonRxReadReq (w : PacketAt)
  /-- SIPHON_RX_READ_RESP (R443): A received READ_RESP is placed in the requester's buffer. -/
  | siphonRxReadResp (w : PacketAt)
  /-- SIPHON_RX_ACK (R447): A received ACK acknowledges PSNs and triggers retransmission of reordered gaps. -/
  | siphonRxAck (w : PacketAt)
  /-- SIPHON_RX_NAK (R449): A received NAK ends its message with REMOTE_ERROR and puts the channel in ERROR. -/
  | siphonRxNak (w : PacketAt)
  /-- SIPHON_RX_CNP (R450): A received CNP updates a path's mark estimate and cuts its rate. -/
  | siphonRxCnp (w : PacketAt)
  /-- SIPHON_RX_JCMD (R452): A received JCMD capsule is carried out by the target's journal engine. -/
  | siphonRxJcmd (w : PacketAt)
  /-- SIPHON_RX_XFER_RDY (R452): A received XFER_RDY makes the initiator send the granted bytes. -/
  | siphonRxXferRdy (w : PacketAt)
  /-- SIPHON_RX_JRSP (R452): A received JRSP is written to the capsule buffer and completes JCMD_SEND. -/
  | siphonRxJrsp (w : PacketAt)
  /-- SIPHON_ACK_DELAY (R446): SiphonAckDelay after the first unacknowledged packet, an ACK is sent. -/
  | siphonAckDelay (t chan : Nat)
  /-- SIPHON_RTO_EXPIRY (R447): The retransmission timer expires, retransmits and doubles, or puts the channel in
  ERROR. -/
  | siphonRtoExpiry (t chan : Nat)
  /-- SIPHON_PATH_HOLD (R448): SiphonPathHold after a path went down, it is up for one probe packet. -/
  | siphonPathHold (t chan path : Nat)
  /-- SIPHON_CNP_INTERVAL (R450): The CNP interval ends and a waiting mark is reported in a CNP. -/
  | siphonCnpInterval (t chan : Nat)
  /-- SIPHON_STEP_TIMER (R450): A path's step timer expires and its rate recovers toward the ceiling. -/
  | siphonStepTimer (t chan path : Nat)
  /-- XFER_GRANT (R483): Staging frees and the target sends the next XFER_RDY grant of a capsule write. -/
  | xferGrant (t chan msg : Nat)
  /-- SIPHON_XFER_TIMEOUT (R453): A grant's bytes have not arrived in time, so the command ends with TIMEOUT and
  JRSP is sent. -/
  | siphonXferTimeout (t chan msg : Nat)
  /-- JOURNAL_READ (R491): A journal READ returns blocks from the write cache or media. -/
  | journalRead (t : Nat) (src : JSrc) (badBlocks : List (Nat × Nat))
  /-- JOURNAL_WRITE (R487): A journal WRITE is divided into units for encryption and acceptance. -/
  | journalWrite (t : Nat) (src : JSrc) (data : Option Bytes)
  /-- JOURNAL_FLUSH (R489): A journal FLUSH waits for earlier accepted units of its namespace to be drained. -/
  | journalFlush (t : Nat) (src : JSrc)
  /-- DEALLOCATE (R486): DEALLOCATE sets blocks to read as zeros, unit by unit. -/
  | deallocate (t : Nat) (src : JSrc)
  /-- IDENTIFY (R481): IDENTIFY writes the namespace record and journal limits. -/
  | identify (t : Nat) (src : JSrc)
  /-- LOG_READ (R484): LOG_READ writes a health, self-test or error log page. -/
  | logRead (t : Nat) (src : JSrc)
  /-- JOURNAL_SELF_TEST (R499): The SELF_TEST command starts or aborts a cartridge self-test. -/
  | journalSelfTest (t : Nat) (src : JSrc)
  /-- JOURNAL_SANITIZE (R500): The SANITIZE command from polder 0 erases every segment of a cartridge. -/
  | journalSanitize (t : Nat) (src : JSrc)
  /-- JOURNAL_FORMAT (R501): The FORMAT command from polder 0 deallocates and erases one namespace. -/
  | journalFormat (t : Nat) (src : JSrc)
  /-- UNIT_ACCEPT (R487): A unit's data is on the MD and encrypted and room exists, so it is accepted into the write
  cache. -/
  | unitAccept (t unit : Nat)
  /-- UNIT_DRAIN (R490): A unit's ciphertext and commit record reach the cartridge, completing covered FLUSHes. -/
  | unitDrain (t : Nat) (w : Drained)
  /-- REBUILD_DONE (R472): The mirror copy to a new member ends, namespaces become ONLINE and mirror-rebuilt is
  raised. -/
  | rebuildDone (t slot : Nat)
  /-- CART_SELF_TEST_RESUME (R499): After 10 ms with no command pending, a suspended cartridge self-test resumes. -/
  | cartSelfTestResume (t slot : Nat)
  /-- CART_SELF_TEST_DONE (R499): A cartridge self-test ends and self-test-complete is raised. -/
  | cartSelfTestDone (t slot : Nat) (pass : Bool) (w : TestReport)
  /-- SANITIZE_COMPLETE (R500): A sanitize erase ends and sanitize-complete is raised. -/
  | sanitizeComplete (t slot : Nat)
  /-- FORMAT_COMPLETE (R501): A namespace format ends and the namespace leaves FORMATTING. -/
  | formatComplete (t ns : Nat)
  /-- CART_PRESENT_DEBOUNCE (R464): CARTs_PRSNT_N has been low for 100 ms, power is enabled and link training
  starts. -/
  | cartPresentDebounce (t slot : Nat)
  /-- CART_LINK_TRAINED (R465): The cartridge link trains and the identity block is read and verified. -/
  | cartLinkTrained (t slot : Nat) (identity challenge : Bytes)
  /-- CART_LINK_TIMEOUT (R464): The cartridge link has not trained within 1 s and the cartridge is refused with
  reason 1. -/
  | cartLinkTimeout (t slot : Nat)
  /-- CART_ONLINE (R464): Metadata is loaded and commit records replayed, so the cartridge is online. -/
  | cartOnline (t slot : Nat) (media : Option CartMedia)
  /-- CART_REMOVAL (R470): CARTs_PRSNT_N rises or the link goes down, and the cartridge becomes FAILED. -/
  | cartRemoval (t : Nat) (w : Removal)
  /-- EVT_STAT_WRITE (R545): A W1C write of EVT_STAT clears status bits, with set winning and re-signalling. -/
  | evtStatWrite (t g : Nat) (v coincide : Word32)
  /-- EVT_MASK_WRITE (R546): A write of EVT_MASK enables sources and signals pending status. -/
  | evtMaskWrite (t g : Nat) (v : Word32)
  /-- EVT_VECTOR_WRITE (R544): A write of EVT_VECTOR sets a group's vector, writing 0 for a value out of range. -/
  | evtVectorWrite (t g : Nat) (v : Word32)
  /-- EVT_TEST_WRITE (R544): A write of EVT_TEST raises the chosen sources as occurrences. -/
  | evtTestWrite (t g : Nat) (v : Word32)
  /-- CTR_SEL_WRITE (R550): A write of CTR_SEL chooses a counter's event and qualifier, stored disabled if invalid. -/
  | ctrSelWrite (t n : Nat) (v : Word32)
  /-- CTR_LO_READ (R549): A read of CTR_LO latches the high bits for CTR_HI. -/
  | ctrLoRead (t n : Nat)
  /-- CTR_VALUE_WRITE (R549): A write of CTR_LO or CTR_HI sets a disabled counter's value. -/
  | ctrValueWrite (t n : Nat) (hi : Bool) (v : Word32)
  /-- CTR_OVF_CLEAR (R552): A W1C write of CTR_OVF clears overflow bits unless an overflow coincides. -/
  | ctrOvfClear (t k : Nat) (v coincide : Word32)
  /-- CLEAR_ALL (R548): CTR_CTRL CLEAR_ALL sets all 256 device counter values to 0. -/
  | clearAll (t : Nat)
  /-- FREEZE_ALL (R548): CTR_CTRL FREEZE_ALL stops or restarts counting on every device counter. -/
  | freezeAll (t : Nat) (v : Bool)
  /-- PAGE_OVF_CLEAR (R555): A W1C write of PAGE_OVF clears page overflow bits unless an overflow coincides. -/
  | pageOvfClear (t fn : Nat) (v coincide : Word32)
  /-- SMBUS_JUNCTION_TEMP (R596): SMBus command 0x00 returns JunctionTemp in whole degrees. -/
  | smbusJunctionTemp
  /-- SMBUS_STATUS (R596): SMBus command 0x01 returns the status byte. -/
  | smbusStatus
  /-- SMBUS_POWER_ESTIMATE (R596): SMBus command 0x02 returns PowerEstimate. -/
  | smbusPowerEstimate
  /-- SMBUS_JUNCTION_TEMP_FINE (R596): SMBus command 0x03 returns JunctionTemp in 0.1 °C units. -/
  | smbusJunctionTempFine
  /-- SMBUS_STEPPING (R596): SMBus command 0x04 returns the stepping. -/
  | smbusStepping
  /-- EXTEST (R572): The EXTEST instruction drives and samples boundary cells while PERST_N is asserted. -/
  | extest
  /-- SAMPLE_PRELOAD (R572): The SAMPLE/PRELOAD instruction samples or loads the boundary register. -/
  | samplePreload (cells : Bytes)
  /-- IDCODE (R572): The IDCODE instruction selects the 0x1A51_2E6B identification register. -/
  | idcode
  /-- BYPASS (R572): The BYPASS instruction, or an unlisted code, selects the bypass register. -/
  | bypass (code : BitVec 8)
  /-- CLAMP (R572): The CLAMP instruction holds outputs while PERST_N is asserted. -/
  | clamp
  /-- HIGHZ (R572): The HIGHZ instruction floats outputs while PERST_N is asserted. -/
  | highz
  /-- EXTEST_PULSE (R572): The EXTEST_PULSE instruction of IEEE 1149.6 tests AC-coupled lanes. -/
  | extestPulse
  /-- EXTEST_TRAIN (R572): The EXTEST_TRAIN instruction of IEEE 1149.6 tests AC-coupled lanes. -/
  | extestTrain
  /-- TBL_COMMAND_COMPLETE (R202): An accepted table command's result is in place, so RESULT and INDEX are set and
  BUSY clears. -/
  | tblCommandComplete (t : Nat)
  /-- WRITE_BACK_REACHES_DDR4 (R220): An evicted context's 128-byte write-back reaches DDR4 and leaves the
  write-back buffer. -/
  | writeBackReachesDdr4 (die : Nat)
  /-- AC_FAIL_N_HIGH (R587): AC_FAIL_N goes high after a fall, AcFailState becomes 2 and the 10 ms count of R587
  starts. -/
  | acFailNHigh (t : Nat)
  /-- CART_PRSNT_N_FALL (R464): CARTs_PRSNT_N goes low as a cartridge is seated and the 100 ms debounce starts. -/
  | cartPrsntNFall (t slot : Nat)
deriving DecidableEq, Repr

end Sys2Proof
end

