-- ==== Sys2Proof/Config.lean ====
section
/-! DEFINITION. What an implementation or the outside fixes: the fused values of one part, the
standards' functions the spec names without defining, and the free values the spec leaves open.
No proof can see a value of one: where a definition below has a body, the body only gives an opaque
value the length the spec gives it (log entry 11). -/

namespace Sys2Proof.Config

/-- DeviceSerial of 0x1000.01, fused (spec 15 Table 15.12); 16 bytes are used. -/
opaque deviceSerial : Bytes

/-- Is the order code AKX512-E (spec 00 R1)? Otherwise it is AKX512-C. -/
opaque orderCodeE : Bool

/-- IdentityCertificate, 3,108 bytes, fused (spec 15 R525). -/
opaque identityCertificate : Bytes

/-- The fused 64-byte digest of the firmware public key (spec 15 Table 15.4 reason 2). -/
opaque fusedKeyDigestBytes : Bytes
def fusedKeyDigest : Bytes := padTo 64 fusedKeyDigestBytes

/-- The fused device secret of the security engine (spec 12 R400). -/
opaque deviceSecret : Bytes

/-- The digests of the boot ROM and of the fuse rows, 64 bytes each (spec 15 Table 15.7). -/
opaque romDigestBytes : Bytes
opaque fuseDigestBytes : (rollback : Nat) → Bytes
def romDigest : Bytes := padTo 64 romDigestBytes
def fuseDigest (rollback : Nat) : Bytes := padTo 64 (fuseDigestBytes rollback)

/-- The private half of the identity key, as a signing function (spec 15 R525). -/
opaque identitySign : Bytes → Bytes

/-- SHAKE256 with the given output length in bytes (a standard the spec names). -/
opaque shake256Bytes : (outLen : Nat) → Bytes → Bytes
def shake256 (outLen : Nat) (b : Bytes) : Bytes := padTo outLen (shake256Bytes outLen b)

/-- Falcon-1024 verification: key, message, signature (a standard the spec names). -/
opaque falconVerify : Bytes → Bytes → Bytes → Bool

/-- The Clejo cartridge CA key and the service key that the certificates of an image's stage of target 5
carry (spec 15 Table 15.3; the layout of that stage is not given). -/
opaque cartridgeCaKey : (certs : Bytes) → Bytes
opaque serviceKey : (certs : Bytes) → Bytes

/-- AES-KWP unwrap and wrap under a 256-bit key (spec 12 R399); none when the integrity check fails. -/
opaque kwpUnwrap : (kek : Bytes) → (wrapped : Bytes) → Option Bytes
opaque kwpWrapBytes : (kek : Bytes) → (key : Bytes) → Bytes
def kwpWrap (kek key : Bytes) : Bytes := padTo (key.length + 8) (kwpWrapBytes kek key)

/-- AES-GCM: key, IV, additional data, text. The text and the 16-byte tag (spec 12 R396). -/
opaque gcmEncryptBytes : (key iv aad text : Bytes) → Bytes × Bytes
opaque gcmDecryptBytes : (key iv aad text : Bytes) → Bytes × Bytes
def gcmEncrypt (key iv aad text : Bytes) : Bytes × Bytes :=
  (padTo text.length (gcmEncryptBytes key iv aad text).1, padTo 16 (gcmEncryptBytes key iv aad text).2)
def gcmDecrypt (key iv aad text : Bytes) : Bytes × Bytes :=
  (padTo text.length (gcmDecryptBytes key iv aad text).1, padTo 16 (gcmDecryptBytes key iv aad text).2)

/-- The AES encryption of one block of 16 bytes under a key of 16 or 32 bytes (a standard the spec names). -/
opaque aesBlockBytes : (key block : Bytes) → Bytes
def aesBlock (key block : Bytes) : Bytes := padTo 16 (aesBlockBytes key block)

/-- CTR (spec 12 R396): each 16 bytes of text are combined with the encrypted counter block, which is incremented as
one big-endian number and wraps at 2^128. -/
def ctrFrom (key : Bytes) : (fuel ctr : Nat) → (text : Bytes) → Bytes
  | 0, _, _ => []
  | _ + 1, _, [] => []
  | f + 1, ctr, b :: rest =>
    let text := b :: rest
    (text.take 16).zipWith (· ^^^ ·) (aesBlock key (beBytes 16 (ctr % 2 ^ 128))) ++ ctrFrom key f (ctr + 1) (text.drop 16)
def aesCtr (key block text : Bytes) : Bytes := ctrFrom key (text.length / 16 + 1) (beNat block) text

/-- XTS-AES as IEEE 1619 defines it (spec 12 R396): key, tweak, text. -/
opaque xtsEncryptBytes : (key tweak text : Bytes) → Bytes
opaque xtsDecryptBytes : (key tweak text : Bytes) → Bytes
def xtsEncrypt (key tweak text : Bytes) : Bytes := padTo text.length (xtsEncryptBytes key tweak text)
def xtsDecrypt (key tweak text : Bytes) : Bytes := padTo text.length (xtsDecryptBytes key tweak text)

/-- The encryption of a zero block under the first half of an XTS key (spec 14 R474). -/
def zeroBlockCipher (key : Bytes) : Bytes := aesBlock (key.take (key.length / 2)) (zeros 16)

/-- FREE VALUE: the way chosen among those that may be the victim (spec 06 R219 gives a
pseudo-LRU order and does not state it). -/
opaque victim : Nat → Nat

/-- FREE VALUE: the error of a timestamp, within the 4 ns of spec 03 R104, in units of 2^-16 ns. -/
opaque stampError : Nat → Int

/-- FREE VALUES: what the PTP servo of the firmware computes (spec 03 R109 leaves it to the IEEE
standards): offset from master, mean path delay, rate, and whether a first lock is reached. -/
opaque ptpOffset : Nat → Nat
opaque ptpDelay : Nat → Nat
opaque ptpRate : Nat → Int
opaque ptpLocks : Nat → Bool
/-- FREE VALUE: whether an Announce makes its port the parent (spec 03 R109 leaves the choice to the IEEE
standards). -/
opaque ptpPicks : Nat → Bool

/-- Bytes of a port's receive buffer, which spec 04 R163 does not give. -/
opaque rxBuffer : Nat

/-- FREE VALUE: what the PPS servo makes of an edge (spec 03 R114). -/
opaque ppsRate : Nat → Int
opaque ppsLocks : Nat → Bool

/-- FREE VALUE: a draw of the security engine's random source, `n` bytes (spec 10 R343, 14 R465). -/
opaque randomDraw : (draw n : Nat) → Bytes
def randomBytes (draw n : Nat) : Bytes := padTo n (randomDraw draw n)

/-- FREE VALUE: a result for which the spec states no value. -/
opaque freeNat : Nat → Nat
opaque freeBool : Nat → Bool

/-- FREE VALUE: how far a running erase, copy or test has got, in percent, at an instant (spec 14 R499 to R503 give
no rate). -/
opaque progressAt : (work clock : Nat) → Nat
def progress (work clock : Nat) : Nat := progressAt work clock % 100

/-- FREE VALUE: the source MAC address of the Siphon frames a port sends (spec 13 R421 states none). -/
opaque siphonMac : (port : Nat) → Bytes

/-- The installed DDR4 capacity of a memory die in bytes (spec 13 R434). -/
opaque ddrCapacity : (md : Nat) → Nat

/-- Length of the boundary register, which Clejo's BSDL file gives (spec 17 R572). -/
opaque boundaryLength : Nat

end Sys2Proof.Config
end

