-- ==== Sys2Proof/Machine/State.lean ====
section
/-! DEFINITION. The state of the block: plain data, every register, table, queue, counter and mode
the spec gives the part, and the queue of waiting commands. One structure per chapter's block. Large
tables are canonical finite maps (Word.lean); a key that is not listed holds the reset value. -/

namespace Sys2Proof.Machine

/-! ### What leaves the part -/

/-- One thing the part sends: the model's own record of it, oldest first (log entry 4). -/
inductive Out where
  /-- A frame at a port's balls; `badFcs` when its FCS was inverted (spec 08 R274). -/
  | frame (port : Nat) (bytes : Bytes) (badFcs : Bool)
  /-- An FDP response or NOTIFY of a session at the management port; one on a field port leaves as a frame of
  that port's injection queue (spec 02 R70). -/
  | fdp (session : Nat) (msg : Bytes)
  /-- An MSI-X message of a function's vector (spec 09 R312). -/
  | msix (fn vector : Nat)
  /-- Assert_INTA (true) or Deassert_INTA (spec 16 R547). -/
  | intx (assert : Bool)
  /-- A DMA write of a function to an address (spec 09 R306). -/
  | dma (fn addr : Nat) (pasid : Option Nat) (translated : Bool) (data : Bytes)
  /-- A read request of a function on a tag (spec 09 R306, R307). -/
  | dmaRead (fn tag addr len : Nat) (pasid : Option Nat) (translated relaxed : Bool)
  /-- A configuration read's value, or none for a completion with RRS (spec 09 R316). -/
  | config (fn : Nat) (value : Option Nat)
  /-- A Page Request Group of a queue, with its PASID (spec 09 R325). -/
  | pageRequest (fn q page : Nat) (pasid : Option Nat)
  /-- A translation request for a page (spec 09 R323). -/
  | translationRequest (fn : Nat) (pasid : Option Nat) (page : Nat)
  /-- An Invalidate Completion (spec 09 R324). -/
  | invalidated (fn tag : Nat)
  /-- The address an SMBus read answered at, and the bytes it returns (spec 18 R596). -/
  | smbus (addr : Nat) (bytes : Bytes)
  /-- A register read's value, where the read is a command (spec 16 R549). -/
  | regRead (value : Nat)
  /-- The data register of the TAP a JTAG instruction selects (spec 17 R572). -/
  | tap (bytes : Bytes)
deriving DecidableEq, Repr

/-! ### Frames inside the part -/

/-- What a frame in the part came from; `detached` is a host transmit frame whose queue has been reset. -/
inductive FrameSrc where
  | field
  | hostTx (fn q idx : Nat)
  | siphon (chan psn : Nat)
  | firmware
  | detached
deriving DecidableEq, Repr

/-- A frame's metadata: the sideband of spec 01 R20. `frame` numbers a received frame, 0 for any other. -/
structure Meta where
  inPort : Nat
  stamp : Nat
  hash : Nat
  cls : Nat
  rxFlags : Nat
  reason : Nat
  vid : Nat
  tc : Nat
  yellow : Bool
  stream : Option Nat
  seqNo : Option Nat
  group : Nat
  src : FrameSrc
  edit : Bool
  ptpOther : Bool
  frame : Nat
deriving DecidableEq, Repr

/-- Copies of one frame with equal contents on their way to one die (spec 07 R244). A port copy
names the primary it was redirected from, if any (spec 03 R121). -/
structure Parcel where
  ticket : Nat
  src : Nat
  dst : Nat
  bulk : Bool
  owner : Nat
  info : Meta
  bytes : Bytes
  ports : List (Nat × Nat × Option Nat)
  hosts : List (Nat × Nat)
deriving DecidableEq, Repr

/-- A frame admitted to a die's buffer: its cells in order and the copies still held (07 R244); a received frame with
its number and its bytes, under which further copies with equal contents share it. -/
structure Stored where
  sid : Nat
  die : Nat
  owner : Nat
  cells : List Nat
  refs : Nat
  frame : Nat
  bytes : Bytes
deriving DecidableEq, Repr

/-- A frame in a port queue. `len` is L of spec 08 R264; `fs` and `ff` are the stamp's start and
finish of R266. -/
structure QFrame where
  sid : Nat
  info : Meta
  bytes : Bytes
  len : Nat
  cells : Nat
  enq : Nat
  stamped : Bool
  fs : Nat
  ff : Nat
deriving DecidableEq, Repr

/-- Where a frame for a host queue is held (spec 01 R32). -/
inductive HPlace where
  | fd (die sid cells : Nat)
  | md (die : Nat)
  | notice
deriving DecidableEq, Repr

/-- A received frame, or a flow notification, waiting for an RX queue. -/
structure HFrame where
  place : HPlace
  info : Meta
  bytes : Bytes
  enq : Nat
deriving DecidableEq, Repr

/-- A transmit frame the work-queue manager fetched, waiting for a field die (spec 08 R285). -/
structure HtxFrame where
  fn : Nat
  q : Nat
  idx : Nat
  die : Nat
  port : Nat
  tc : Nat
  tsreq : Bool
  bytes : Bytes
deriving DecidableEq, Repr

/-! ### Board, power, TAP (spec 18, 17 R572) -/

/-- The board side. `perstAt` is when PERST_N was asserted, `acHighAt` when AC_FAIL_N went high again; `startAt`
when the last start began; `resetDue` tells of a full reset that waits for an emergency drain (spec 18 R600); `sigs`
are the signatures the dies give in a start-up test; an armed event of Table 18.6 may be raised. -/
structure Board where
  rails : Nat
  refclk : Bool
  released : Bool
  perstLow : Bool
  perstAt : Nat
  retention : Bool
  fullReset : Bool
  resetDue : Bool
  drainWait : Bool
  startAt : Option Nat
  acFail : Nat
  acHighAt : Nat
  sigs : List Nat
  thermtrip : Bool
  temps : List Int
  jtemp : Int
  jtempMax : Option Int
  warnArmed : Bool
  throttleArmed : Bool
  criticalArmed : Bool
  throttled : Bool
  sampled : Bool
  power : Nat
  gpioPins : Nat
  tapInstr : Nat
  boundary : Bytes
deriving DecidableEq, Repr

/-! ### Boot flash, firmware, measurement, Dike (spec 15) -/

/-- The fields of an image that the part acts on (spec 15 Tables 15.2, 15.3); `certs` is the content of its
stage of target 5, the certificates. -/
structure ImgHdr where
  secVersion : Nat
  version : Bytes
  injRate : Nat
  injFrames : Nat
  heartbeat : Nat
  misr : List Nat
  digest : Bytes
  stages : List (Nat × Bytes)
  certs : Bytes
deriving DecidableEq, Repr

/-- An image slot: empty (0), staging (1) or checked (2); `other` is the first failing check of Table
15.4 apart from the rollback check, which depends on the fuses. -/
structure Slot where
  state : Nat
  other : Nat
  hdr : ImgHdr
deriving DecidableEq, Repr

/-- A copy of the object store (spec 02 R57): its header, and the values it holds. -/
structure StoreCopy where
  magic : Nat
  counter : Nat
  length : Nat
  crc : Nat
  vals : Tab Bytes
deriving DecidableEq, Repr

/-- A copy of the epoch record (spec 02 R80). -/
structure EpochCopy where
  magic : Nat
  epoch : Nat
  wraps : Nat
  crc : Nat
deriving DecidableEq, Repr

/-- A copy of the boot control block (spec 15 R514). -/
structure BcbCopy where
  magic : Nat
  counter : Nat
  slot : Nat
  crc : Nat
deriving DecidableEq, Repr

/-- A polder's counts: queues, vectors, key slots, channels, domains, regions, namespaces, and the
buffer minimum of each field die (spec 10 Table 10.1). -/
structure Counts where
  queues : Nat
  vectors : Nat
  keySlots : Nat
  channels : Nat
  domains : Nat
  regions : Nat
  namespaces : Nat
  minima : List Nat
deriving DecidableEq, Repr

/-- A copy of a polder's record in the polder area (spec 10 R342, 15 R513): its header, then state,
generation, counts, weight, counter access, scheduling class. -/
structure PolderRec where
  magic : Nat
  counter : Nat
  length : Nat
  crc : Nat
  state : Nat
  gen : Nat
  counts : Counts
  weight : Nat
  access : Nat
  cls : Nat
deriving DecidableEq, Repr

/-- A copy of the header of the polder area (spec 10 R343). -/
structure AreaHdr where
  magic : Nat
  counter : Nat
  ident : Bytes
  floor : Nat
  crc : Nat
deriving DecidableEq, Repr

/-- An entry of the measurement log (spec 15 R524). -/
structure Measure where
  kind : Nat
  seq : Nat
  digest : Bytes
deriving DecidableEq, Repr

/-- An entry of the Dike log (spec 15 Table 15.11). -/
structure DikeEntry where
  time : Nat
  seq : Nat
  origin : Nat
  session : Nat
  index : Nat
  sub : Nat
  die : Nat
  cls : Nat
  target : Nat
deriving DecidableEq, Repr

/-- The steps of an activation (spec 15 Table 15.9). -/
inductive ActStage where
  | idle | reading | checked | failed
deriving DecidableEq, Repr

/-- Boot flash, firmware and Dike. `running` is the running image and `datapath` the one whose stages 2 to 4 the
datapath has taken. `area` holds copy c of polder n's record under 2 × n + c. `asideKeys` are the stored session
keys set aside (spec 02 R80), `journalSet` tells that the journal's set-up is done, `hbAt` and `actAt` are when the
heartbeat period and an activation began. -/
structure Boot where
  slots : List Slot
  bcb : List BcbCopy
  store : List StoreCopy
  epochRec : List EpochCopy
  asideKeys : List (Nat × Bytes)
  area : Tab PolderRec
  areaHdr : List AreaHdr
  rollback : Nat
  slot : Nat
  bootStatus : Nat
  running : ImgHdr
  datapath : ImgHdr
  actState : Nat
  actStage : ActStage
  actAt : Nat
  activations : Nat
  log : List Measure
  logOverflow : Bool
  testedAtStart : Bool
  nonces : Tab Bytes
  started : Bool
  ddrTrained : List Bool
  fieldUp : Bool
  journalSet : Bool
  coresUp : Bool
  hbAt : Nat
  dikeState : Nat
  dikeRun : Nat
  dikeLog : List DikeEntry
  dikeSeq : Nat
  dikeOverflowed : Bool
  dmaWindows : Bytes
deriving DecidableEq, Repr

/-! ### Dictionary, mailbox and FDP (spec 02) -/

/-- A kept response (spec 02 R81): what identifies the request, the response's kind, index, abort or
parameters and data, and when it was sent. -/
structure Kept where
  reqId : Nat
  kind : Nat
  index : Nat
  sub : Nat
  data : Bytes
  flags : Nat
  paramA : Nat
  paramB : Nat
  ty : Nat
  body : Bytes
  at_ : Nat
deriving DecidableEq, Repr

/-- A session's running state (spec 02 R75 to R81, R87). -/
structure Session where
  keySlot : Option Nat
  setAside : Bool
  rxHigh : Nat
  rxMap : Nat
  tx : Nat
  exhausted : Bool
  vendorUntil : Option Nat
  epochAnswer : Option Nat
  kept : List Kept
deriving DecidableEq, Repr

/-- A request as its response must echo it (spec 02 R72). -/
structure ReqHead where
  session : Nat
  port : Option Nat
  kind : Nat
  reqId : Nat
  index : Nat
  sub : Nat
  data : Bytes
deriving DecidableEq, Repr

/-- The actions that are answered when they complete (spec 02 R72), and a request that a restart of the cores
interrupts. -/
inductive LongAct where
  | storeAll | restoreDefaults | flowClear | quiesce (slot : Nat) | selfTest (die : Nat) | interrupted
deriving DecidableEq, Repr

/-- An action being carried out: its requester and the repeats that wait for the same answer. -/
structure PendAct where
  act : LongAct
  req : ReqHead
  repeats : Nat
deriving DecidableEq, Repr

/-- A snapshot of READ_BLOCK, and when it was last asked for (spec 02 R82). -/
structure Snapshot where
  session : Nat
  index : Nat
  sub : Nat
  bytes : Bytes
  at_ : Nat
deriving DecidableEq, Repr

/-- A staging of WRITE_BLOCK, and when its latest block came (spec 02 R83). -/
structure Staging where
  session : Nat
  index : Nat
  sub : Nat
  total : Nat
  bytes : Bytes
  at_ : Nat
deriving DecidableEq, Repr

/-- A subscription (spec 02 R84): period and interval in µs, the value last sent and when. -/
structure Subscr where
  number : Nat
  session : Nat
  port : Option Nat
  index : Nat
  sub : Nat
  period : Nat
  interval : Nat
  last : Bytes
  sentAt : Nat
deriving DecidableEq, Repr

/-- A message of the device that waits to leave by a field port's injection queue (spec 02 R70). -/
structure OutMsg where
  port : Nat
  session : Nat
  msg : Bytes
deriving DecidableEq, Repr

/-- The dictionary. `outbox` are the messages the firmware has yet to hand to a field port. `busyAfter` are mailbox
requests that a Dike restart interrupted: they are answered with BUSY once the cores run again (spec 02 R67). -/
structure Dict where
  vals : Tab Bytes
  counters : Tab Nat
  storeStatus : Nat
  storing : Option (Tab Bytes)
  epoch : Nat
  wraps : Nat
  epochStored : Bool
  fdpOpen : Bool
  sessions : Tab Session
  mbxVendor : Option Nat
  nonces : List Bytes
  acts : List PendAct
  busyAfter : List ReqHead
  snaps : List Snapshot
  stagings : List Staging
  subs : List Subscr
  second : Nat
  inSecond : Nat
  outbox : List OutMsg
deriving DecidableEq, Repr

/-- The mailbox. `orphans` are requests accepted before a reset of the mailbox: they are carried out
and their responses discarded (spec 02 R67). -/
structure Mailbox where
  length : Nat
  busy : Bool
  done : Bool
  ignored : Bool
  restart : Bool
  rspLength : Nat
  ignCnt : Nat
  req : Tab Word32
  rsp : Tab Word32
  accepted : Option Bytes
  orphans : List Bytes
deriving DecidableEq, Repr

/-! ### Ports, time, FRER (spec 03) -/

/-- A port. `onset` is when each trigger condition that holds began, `fecWin` the last 8 RS-FEC codewords,
oldest first (uncorrectable or not), `upAt` when the port last came UP or, while UP, was switched, `retryAt`
when bring-up is next tried. -/
structure Port where
  link : LinkSt
  fec : Nat
  frrState : Nat
  redirect : Bool
  suspended : Bool
  conds : Nat
  latch : Nat
  onset : Tab Nat
  fecWin : List Bool
  upAt : Nat
  retryAt : Nat
deriving DecidableEq, Repr

/-- The time base and its servos. `lastMsg` is when the parent's latest Announce or Sync came, `annLog` the
binary logarithm of its announce interval in seconds, `lastEdge` when the latest PPS_IN edge came, `ppsRise`
when PPS_OUT rose (in elapsed time, all). -/
structure TimeBase where
  num : Nat
  state : Nat
  rate : Int
  ppsOut : Bool
  ppsInLast : Nat
  offset : Nat
  delay : Nat
  parent : Nat
  lastMsg : Nat
  annLog : Int
  lastEdge : Nat
  ppsRise : Nat
deriving DecidableEq, Repr

/-- A FRER stream; `acceptAt` is when recovery last accepted a frame, from which the reset timer runs. -/
structure Frer where
  mode : Nat
  port : Nat
  history : Nat
  timeout : Nat
  strip : Bool
  nextSeq : Nat
  takeAny : Bool
  rcv : Nat
  window : Nat
  ctr : Tab Nat
  acceptAt : Nat
deriving DecidableEq, Repr

/-! ### Parser and classifier (spec 04) -/

structure Rule where
  valid : Bool
  value : Nat
  mask : Nat
  action : Bytes
deriving DecidableEq, Repr

structure Transition where
  valid : Bool
  src : Nat
  dst : Nat
  value : Nat
  mask : Nat
deriving DecidableEq, Repr

structure Bank where
  rules : Tab Rule
  states : Tab Bytes
  trans : Tab Transition
  profiles : Tab (List Nat)
  classMap : Tab Nat
deriving DecidableEq, Repr

/-- The FLOW fields of an action record (spec 04 Table 4.6). -/
structure FlowAct where
  op : Nat
  pin : Bool
  notify : Bool
  idle : Nat
  uaOff : Nat
  uaValue : Nat
  uaOp : Nat
deriving DecidableEq, Repr

/-- What the passes so far of a recirculating frame hold (spec 04 R160). -/
structure Held where
  forward : Option Nat
  host : Option Nat
  tc : Option Nat
  flow : Option FlowAct
deriving DecidableEq, Repr

/-- A frame between passes, or one that waits in its port's receive buffer for the first (spec 04 R163): its bytes
after the rewrites so far, and as received. `metered` is whether its last Weir left it yellow, none before its
first. -/
structure RFrame where
  port : Nat
  stamp : Nat
  bytes : Bytes
  bank : Nat
  pass : Nat
  tag : Nat
  held : Held
  counted : Bool
  metered : Option Bool
  orig : Bytes
  frame : Nat
deriving DecidableEq, Repr

/-- Clocks of a pipe in the aligned interval of 640 number `slot`: those first passes and recirculated frames took. -/
structure PipeUse where
  slot : Nat
  first : Nat
  recirc : Nat
deriving DecidableEq, Repr

structure Classifier where
  banks : List Bank
  active : Nat
  retiring : List Nat
  recirc : Tab (List RFrame)
  waiting : Tab (List RFrame)
  pipes : Tab PipeUse
  ruleFrames : Tab Nat
  ruleBytes : Tab Nat
  malformedLast : Bytes
deriving DecidableEq, Repr

/-! ### Exact-match tables (spec 05) -/

structure FdbEntry where
  mac : Nat
  fid : Nat
  dest : Nat
  valid : Bool
  static : Bool
  hit : Bool
  age : Nat
  moveHold : Bool
  recent : Bool
  stamp : Nat
deriving DecidableEq, Repr

structure StreamEntry where
  mac : Nat
  vid : Nat
  kind : Nat
  handle : Nat
  valid : Bool
deriving DecidableEq, Repr

/-- A replica write on its way (spec 05 R190): of the FDB, or of the stream table, with the key it is for (R187).
`flagOnly` only clears the local hit flag (spec 05 R193). -/
structure RepWrite where
  src : Nat
  dst : Nat
  table : Nat
  index : Nat
  fdb : FdbEntry
  stream : StreamEntry
  flagOnly : Bool
  key : Nat
deriving DecidableEq, Repr

structure LearnReq where
  fid : Nat
  mac : Nat
  port : Nat
deriving DecidableEq, Repr

structure Vlan where
  valid : Bool
  learn : Bool
  fid : Nat
  members : Bytes
  untagged : Bytes
deriving DecidableEq, Repr

/-- The scan of a SEARCH (spec 05 R203): its table, first index, mask and masked value, when it started, and the
places it has looked at, a bucket or an overflow entry each. -/
structure TblScan where
  table : Nat
  from_ : Nat
  mask : Nat
  want : Nat
  since : Nat
  place : Nat
deriving DecidableEq, Repr

/-- A table command in progress (spec 05 R201, R202): its OP, the result it will give, the index and
the entry it returns, and the scan that still runs. -/
structure TblBusy where
  op : Nat
  result : Nat
  index : Option Nat
  entry : Option Nat
  scan : Option TblScan
deriving DecidableEq, Repr

/-- The exact-match tables. `fdb` and `stream` are the home copies, `repFdb` and `repStream` the replicas of the
four dies, keyed die × table size + index; `learnZero` is when the learn clocks started, `agerDue` when an entry's
next ager visit falls due, `sweepAt` when the sweep of a die began and the places it has visited. A learn filter
holds keys with the instant each entered. A hit notice names the home die, the index, the key and the die that sends
it. `stale` lists pairs of dies as home × 4 + far. -/
structure Tables where
  fdb : Tab FdbEntry
  stream : Tab StreamEntry
  repFdb : Tab FdbEntry
  repStream : Tab StreamEntry
  localHit : Tab Bool
  vlans : Tab Vlan
  groups : Tab Bytes
  learnQ : Tab (List LearnReq)
  filter : Tab (List (Nat × Nat))
  hits : List (Nat × Nat × Nat × Nat)
  repQ : List RepWrite
  stale : List Nat
  resync : List Nat
  flush : Tab (List Nat)
  sweep : Tab (List Nat)
  sweepAt : Tab (Nat × Nat)
  agerDue : Tab Nat
  cmd : Nat
  stat : Nat
  ignCnt : Nat
  data : Tab Word32
  busy : Option TblBusy
  learnZero : Nat
deriving DecidableEq, Repr

/-! ### Flow contexts (spec 06) -/

structure FlowEntry where
  key : Bytes
  ctx : Nat
deriving DecidableEq, Repr

structure Ctx where
  active : Bool
  pinned : Bool
  notify : Bool
  byWrite : Bool
  setUsed : Bool
  idle : Nat
  polder : Nat
  packets : Nat
  bytes : Nat
  first : Nat
  last : Nat
  group : Nat
  lastPort : Nat
  hash : Nat
  gen : Nat
  stamp : Nat
  user : Bytes
  key : Bytes
deriving DecidableEq, Repr

/-- A context request with the copies its frame sends on at stage 6 (spec 06 R214). -/
structure CtxReq where
  key : Bytes
  hash : Nat
  act : FlowAct
  group : Nat
  length : Nat
  port : Nat
  stamp : Nat
  scheduled : Bool
  parkBytes : Nat
  parcels : List Parcel
deriving DecidableEq, Repr

/-- The pending list of one key: its parked frames, and its fetch: waiting, or issued with the way
it reserved (spec 06 R216). -/
structure Fetch where
  key : Bytes
  hash : Nat
  way : Option Nat
  frames : List CtxReq
deriving DecidableEq, Repr

structure FlowDie where
  requests : List CtxReq
  fetches : List Fetch
  fresh : Nat
  returned : List Nat
  writeBacks : List Nat
deriving DecidableEq, Repr

/-- `recent` is, by die and cache set, the way used last plus 1. -/
structure Flow where
  entries : Tab FlowEntry
  overflow : Tab FlowEntry
  ctxs : Tab Ctx
  cache : Tab Nat
  recent : Tab Nat
  dies : Tab FlowDie
  clearing : Bool
deriving DecidableEq, Repr

/-! ### Buffer pool (spec 07) -/

/-- The buffer of a field die. `served` lists Ditches with a clock in which each served an allocation, `lost` the lost
cells, `stuck` the cells whose frees are ignored. -/
structure BufDie where
  words : Tab Nat
  heads : Tab Nat
  counts : Tab Nat
  lastDitch : Tab Nat
  tags : Tab Nat
  links : Tab Nat
  served : List (Nat × Nat)
  stuck : List Nat
  occ : Tab Nat
  lost : List Nat
  discards : Tab Nat
  lowRaised : Bool
deriving DecidableEq, Repr

structure Buffers where
  dies : Tab BufDie
  stored : List Stored
  transit : List Parcel
  hostQ : Tab (List HFrame)
  owners : Tab Nat
  doubleFree : Bytes
  foreignFree : Bytes
  overflowMiB : Nat
deriving DecidableEq, Repr

/-! ### Scheduling, Weirs (spec 08) -/

/-- A gate control list in force or pending; times in units of 2^-16 ns of the time base. -/
structure GateList where
  base : Nat
  cycle : Nat
  ext : Nat
  entries : List (Nat × Nat)
deriving DecidableEq, Repr

/-- A pending change: the list, its ConfigChangeTime, and the instant of acceptance (08 R276). -/
structure GatePend where
  list : GateList
  change : Nat
  accepted : Nat
deriving DecidableEq, Repr

/-- A frame in transmission on a port; `cut` when it started as cut-through does, before all its data was in the
buffer (spec 08 R274). -/
structure TxFrame where
  frame : QFrame
  tc : Option Nat
  start : Nat
  egress : Nat
  drop : Bool
  cut : Bool
deriving DecidableEq, Repr

/-- What a sampler tracks of one queue between records (spec 08 R288). -/
structure Track where
  sojourn : Nat
  depth : Nat
  dequeued : Nat
  discarded : Nat
  marked : Nat
  lost : Nat
deriving DecidableEq, Repr

/-- A port's scheduler. `spent` and `portSpent` are how far a shaper's bucket is below full, in units of
125e-15 bytes (what 1 kb/s brings in a femtosecond); `injBytes` and `injFrames` are the same of the
injection limiter (spec 15 R530), frames in units of 1e-15. `sending` are the frames on the wire, oldest
first: the next one is selected before the last has left (R263). `wireEnd` is the end of the last one's
wire time. -/
structure PortSched where
  queues : Tab (List QFrame)
  inject : List QFrame
  v : Nat
  fprev : Tab Nat
  fvalid : Nat
  spent : Tab Nat
  portSpent : Nat
  tokTime : Nat
  oper : Option GateList
  pend : Option GatePend
  changeTime : Nat
  gates : Nat
  sending : List TxFrame
  wireEnd : Nat
  counters : Tab Nat
  maxSojourn : Tab Nat
  maxDepth : Tab Nat
  track : Tab Track
  injBytes : Nat
  injFrames : Nat
  injTime : Nat
deriving DecidableEq, Repr

structure Weir where
  valid : Bool
  aware : Bool
  block : Bool
  cir : Nat
  cbs : Nat
  pir : Nat
  pbs : Nat
  maxSdu : Nat
  tc : Nat
  tp : Nat
  last : Nat
  blocked : Bool
  ctr : Tab Nat
deriving DecidableEq, Repr

structure StreamFilter where
  valid : Bool
  prio : Nat
  weir : Nat
  matched : Nat
  mismatch : Nat
deriving DecidableEq, Repr

/-- A host-transmit scheduler of one field die (spec 08 R285): the stamp of each polder's head is
its start and finish, `next` the frame that has it. -/
structure HtxSched where
  frames : List HtxFrame
  v : Nat
  fprev : Tab Nat
  fvalid : Tab Bool
  heads : Tab (Nat × Nat)
  next : Tab HtxFrame
  turn : Tab Nat
deriving DecidableEq, Repr

structure Sched where
  ports : Tab PortSched
  weirs : Tab Weir
  filters : Tab StreamFilter
  htx : Tab HtxSched
deriving DecidableEq, Repr

/-! ### Host endpoint (spec 09) -/

structure Func where
  memSpace : Bool
  busMaster : Bool
  intDisable : Bool
  msixEnable : Bool
  msixMask : Bool
  d3hot : Bool
  timeoutEnc : Nat
  relaxed : Bool
  pasid : Bool
  ats : Bool
  pri : Bool
  priStopped : Bool
  priFailed : Bool
  priAlloc : Nat
  acsEnable : Bool
  acsVector : List Nat
  aer : Nat
  aerCor : Nat
  ecrcGen : Bool
  ecrcCheck : Bool
  payload : Nat
  readRequest : Nat
  resetSeen : Bool
  rrs : Bool
  flr : Bool
  flrAt : Nat
  flrCapped : Bool
  bars : List Nat
deriving DecidableEq, Repr

structure MsixEntry where
  addr : Nat
  data : Nat
  masked : Bool
  pending : Bool
deriving DecidableEq, Repr

/-- Who makes a memory request: a function, the queue where one does, and the PASID the request names (spec 09
R323, 11 R365, 13 R433). -/
structure Requester where
  fn : Nat
  q : Option Nat
  pasid : Option Nat
deriving DecidableEq, Repr

/-- What a device read is for (spec 09 R309): entries of a queue, the host bytes of the chain at a ring index, or
the payload of a Siphon message's next packet (channel, opcode and id of the message, offset). -/
inductive ReadFor where
  | entries (count : Nat)
  | data (first : Nat)
  | packet (chan op msg off : Nat)
deriving DecidableEq, Repr

/-- How a read request stands: waiting for a tag, out on one since an instant, or answered (spec 09 R307). -/
inductive ReadSt where
  | waiting
  | out (tag since : Nat)
  | back (data : Bytes)
deriving DecidableEq, Repr

/-- One read request: part `part` of what it is for (spec 09 R306). -/
structure Read where
  who : Requester
  what : ReadFor
  part : Nat
  addr : Nat
  len : Nat
  translated : Bool
  st : ReadSt
  dropped : Bool
deriving DecidableEq, Repr

/-- A cached translation (spec 09 R323): the page `page` of a function and PASID lies at page `frame`. -/
structure Transl where
  fn : Nat
  pasid : Option Nat
  page : Nat
  frame : Nat
deriving DecidableEq, Repr

/-- A page a parked queue waits for (spec 09 R325): when its request was sent, if it was. -/
structure PageReq where
  fn : Nat
  q : Nat
  page : Nat
  sentAt : Option Nat
deriving DecidableEq, Repr

/-- The endpoint. `quarantine` holds tag, function and end time; `asked` the
translations asked for and not answered; an invalidation in progress the function, its tag and the read tags it waits
for; `lastInval` the latest one and when it came. `pageSize` is SR-IOV's System Page Size. `wasUp` is false
from a host-link-down to the next host-link-up, `vfAt` when VF Enable was set. -/
structure Endpoint where
  link : Nat
  speed : Nat
  width : Nat
  flit : Bool
  wasUp : Bool
  vfEnable : Bool
  vfAt : Nat
  numVfs : Nat
  vfBars : List Nat
  pageSize : Nat
  tag10 : Bool
  tag14 : Bool
  inta : Bool
  funcs : Tab Func
  msix : Tab MsixEntry
  reads : List Read
  quarantine : List (Nat × Nat × Nat)
  cached : List Transl
  asked : List (Requester × Nat)
  invalidations : List (Nat × Nat × List Nat)
  lastInval : Option (Nat × Option Nat × Nat × Nat)
  pageReqs : List PageReq
deriving DecidableEq, Repr

/-! ### Polders and work queues (spec 10, 11) -/

/-- A polder. `maps` gives, for queues, vectors, key slots, channels, domains, regions and
namespace handles in that order, the global number of each local one (spec 10 R339). -/
structure Polder where
  state : Nat
  gen : Nat
  counts : Counts
  staged : Nat
  owner : Option Nat
  maps : List (List Nat)
  lastFault : Bytes
deriving DecidableEq, Repr

structure HostGroup where
  polder : Nat
  first : Nat
  count : Nat
deriving DecidableEq, Repr

structure Polders where
  tab : Tab Polder
  faultMap : Tab Bool
  groups : Tab HostGroup
deriving DecidableEq, Repr

/-- Queue states (spec 11 Table 11.9). -/
inductive QSt where
  | disabled | enabled | draining | error | parked | held
deriving DecidableEq, Repr

/-- A fetched chain (spec 11 R368): ring index of its FIRST entry, its raw entries, and how far the
kind's block has got with it. -/
structure Chain where
  first : Nat
  entries : List Bytes
  started : Bool
  finished : Bool
  status : Nat
  result : Nat
deriving DecidableEq, Repr

/-- A completion that waits to be written (spec 11 R374); its count is worked out when it is written, but
for one that covers no entry (log entry 62). -/
structure Cpl where
  status : Nat
  tag : Nat
  index : Nat
  result : Nat
  count : Option Nat
deriving DecidableEq, Repr

/-- A queue. `ovfEnd` is one more than the clock in which its last frame of an overflow region was delivered (spec 07
R257); `bell` a doorbell recorded while it is parked or held (R381); `errAt` when it entered ERROR (R387). -/
structure Queue where
  ctx : Tab Word32
  st : QSt
  data : Word32
  index : Nat
  bell : Option Nat
  errAt : Nat
  cmd : Nat
  ignored : Bool
  cmdResult : Nat
  status : Nat
  reason : Nat
  errIdx : Nat
  dropped : Nat
  head : Nat
  tail : Nat
  fetched : Nat
  covered : Nat
  doneTag : Nat
  wraps : Nat
  reading : Bool
  partialChain : List Bytes
  chains : List Chain
  posted : List (Nat × Bytes)
  waiting : List Cpl
  journalHold : Bool
  resetting : Bool
  irqCount : Nat
  irqAt : Option Nat
  sampleSeq : Nat
  track : Track
  ovfEnd : Nat
deriving DecidableEq, Repr

/-- The queues; `lastFn` and `turns` the polder, and each polder's queue, that fetching served last (R384). -/
structure Wq where
  queues : Tab Queue
  lastFn : Nat
  turns : Tab Nat
deriving DecidableEq, Repr

/-! ### Cipher (spec 12) -/

structure KeySlot where
  alg : Nat
  usage : Nat
  key : Bytes
  users : Nat
deriving DecidableEq, Repr

/-- The users of the farm (spec 12 R411). -/
inductive CUser where
  | fdp
  | journal
  | siphon
  | polder (n : Nat)
deriving DecidableEq, Repr

/-- A message of the farm. `ref` is the chain's first index for a queue, the unit for the journal. -/
structure CMsg where
  user : CUser
  q : Nat
  ref : Nat
  op : Nat
  slot : Nat
  params : Bytes
  source : Bytes
  aad : Nat
  restarted : Bool
  key : Bytes
deriving DecidableEq, Repr

structure Core where
  out : Bool
  msg : Option CMsg
deriving DecidableEq, Repr

structure Cipher where
  slots : Tab KeySlot
  cores : Tab Core
  waiting : List CMsg
  holdUsed : Nat
  v : Nat
  fprev : Tab Nat
  fvalid : Tab Bool
  heads : Tab (Nat × Nat)
  turn : Tab Nat
deriving DecidableEq, Repr

/-! ### Siphon (spec 13) -/

/-- A path of a channel (spec 13 R440, R448, R450). `tokens` are in units of 125e-15 bytes (what 1 kb/s
brings in a femtosecond), as of `tokTime`. A path on probation is up for one packet. -/
structure SPath where
  port : Nat
  mac : Bytes
  up : Bool
  probing : Bool
  downAt : Nat
  losses : Nat
  tokens : Int
  tokTime : Nat
  rc : Nat
  rh : Nat
  m : Int
  k : Nat
  cnpSeen : Bool
  lastCut : Option Nat
  stepAt : Nat
deriving DecidableEq, Repr

/-- What the receiver counts of one path of the peer, and when its oldest waiting mark came (R450). -/
structure RxPath where
  count : Nat
  marked : Nat
  since : Option Nat
deriving DecidableEq, Repr

/-- A packet of a channel that consumes a PSN, sent and not acknowledged. -/
structure SPkt where
  psn : Nat
  op : Nat
  msg : Nat
  msgLen : Nat
  off : Nat
  key : Nat
  addr : Nat
  imm : Option Nat
  ackReq : Bool
  payload : Bytes
  path : Option Nat
  resend : Bool
deriving DecidableEq, Repr

/-- A message a channel sends. `len` is the message-length field, `total` the bytes of payload to send,
from offset `base` on, `sent` how many have been cut into packets. The payload comes from `laddr` (host
memory or device DDR4) or is `body`. `owner` is the function, queue and ring index of its entry; `part`
marks the data of a granted transfer. -/
structure SMsg where
  id : Nat
  op : Nat
  len : Nat
  key : Nat
  addr : Nat
  imm : Option Nat
  laddr : Nat
  base : Nat
  total : Nat
  sent : Nat
  cut : Bool
  owner : Option (Nat × Nat × Nat)
  part : Bool
  body : Bytes
deriving DecidableEq, Repr

/-- A message being assembled at the receiver (spec 13 R442), under the channel state that accepted
its first packet (R428). -/
structure SAsm where
  msg : Nat
  op : Nat
  len : Nat
  key : Nat
  addr : Nat
  imm : Nat
  state : Nat
  got : List Nat
deriving DecidableEq, Repr

/-- A READ_REQ that waits to be served (spec 13 R445). -/
structure SReq where
  psn : Nat
  msg : Nat
  key : Nat
  addr : Nat
  len : Nat
deriving DecidableEq, Repr

/-- An open grant of a capsule: offset, length, bytes arrived, when it was sent. -/
structure Grant where
  off : Nat
  len : Nat
  got : Nat
  time : Nat
deriving DecidableEq, Repr

/-- A capsule at its target from JCMD on (spec 13 R452, R453, 14 R483): the command, open grants, bytes granted, the
plaintext on the host die, the ciphertext staged, which stretches have arrived, and how far the journal has got with
it. -/
structure Capsule where
  msg : Nat
  cmd : Bytes
  grants : List Grant
  granted : Nat
  hd : Bytes
  staging : Bytes
  arrived : List (Nat × Nat)
  units : Nat
  md : Nat
  started : Bool
  responded : Bool
deriving DecidableEq, Repr

structure Channel where
  fn : Nat
  num : Nat
  state : Nat
  was : Nat
  changedAt : Nat
  record : Bytes
  paths : List SPath
  lastPath : Nat
  nextPsn : Nat
  nextMsg : Nat
  msgs : List SMsg
  sent : List SPkt
  rto : Nat
  rtoAt : Nat
  retries : Nat
  expect : Nat
  rcvd : List Nat
  asm : List SAsm
  refused : List Nat
  rxPaths : Tab RxPath
  notes : List Nat
  recvs : List (Nat × Nat × Nat)
  reads : List SReq
  capsules : List Capsule
  ctlTx : Nat
  ctlRx : Option Nat
  toAck : Nat
  ackSince : Nat
  lastNak : Option Nat
  lastCnp : Option Nat
deriving DecidableEq, Repr

structure Region where
  valid : Bool
  revoking : Bool
  fn : Nat
  num : Nat
  base : Nat
  len : Nat
  domain : Nat
  rights : Nat
  pasid : Option Nat
  count : Nat
  epoch : Nat
deriving DecidableEq, Repr

/-- A Siphon packet the engine has taken from a field die (spec 13 R430). -/
structure SRx where
  sid : Nat
  port : Nat
  ip6 : Bool
  srcAddr : Bytes
  dstAddr : Bytes
  udpPort : Nat
  udpLen : Nat
  ce : Bool
  udpOk : Bool
  at_ : Nat
  bytes : Bytes
deriving DecidableEq, Repr

structure Siphon where
  channels : Tab Channel
  regions : Tab Region
  ddr : Tab Byte
  rx : List SRx
deriving DecidableEq, Repr

/-! ### Journal (spec 14) -/

/-- A block's latest version (spec 14 R486): zero, ciphertext, or lost. -/
inductive Ver where
  | zero
  | text (t : Bytes)
  | lost
deriving DecidableEq, Repr

/-- A unit of a write or a DEALLOCATE (spec 14 R487): blocks with their ciphertext, or none. `job` is
the id of the command's first unit, `before` the blocks of the command ahead of this unit; `src` is none
once nobody is to be answered; `ends` is the status the command ends with once this unit is accepted. -/
structure JUnit where
  id : Nat
  job : Nat
  src : Option JSrc
  ref : Nat
  ns : Nat
  before : Nat
  blocks : List (Nat × Option Bytes)
  slots : List Nat
  ready : Bool
  failed : Bool
  ends : Option Nat
deriving DecidableEq, Repr

/-- A started FLUSH: the units it still waits for (spec 14 R489). -/
structure JFlush where
  src : Option JSrc
  ref : Nat
  ns : Nat
  units : List Nat
deriving DecidableEq, Repr

/-- A cartridge slot. `since` is when its present ball fell or its last self-test segment ran, `lastCmd`
when its last command came or ended, `rebuildAt` when the mirror copy to it began; `failedSerial` is the serial of the
cartridge that last failed in the slot; `verified` holds between the identity check and online. -/
structure CartSlot where
  state : Nat
  reason : Nat
  present : Bool
  since : Nat
  verified : Bool
  lastCmd : Nat
  pwren : Bool
  perst : Bool
  identity : Bytes
  media : CartMedia
  dirty : List JUnit
  drainSeq : Nat
  testState : Nat
  testCode : Nat
  testProgress : Nat
  testResult : Nat
  testSegment : Nat
  testTime : Nat
  lifeWarned : Bool
  sanitizeBy : Option (Option JSrc × Nat)
  sanitizeProgress : Nat
  rebuild : Nat
  rebuildAt : Nat
  failedSerial : Bytes
deriving DecidableEq, Repr

structure Space where
  defined : Bool
  placement : Nat
  size : Nat
  state : Nat
  blob : Bytes
  keyCheck : Bytes
  keySlot : Option Nat
  attach : Option (Nat × Nat)
  formatBy : Option (Option JSrc × Nat)
  progress : Nat
deriving DecidableEq, Repr

structure JErr where
  ns : Nat
  lba : Nat
  status : Nat
  slot : Nat
  seconds : Nat
deriving DecidableEq, Repr

structure Journal where
  state : Nat
  held : Bool
  slots : Tab CartSlot
  spaces : Tab Space
  map : Tab Ver
  units : List JUnit
  flushes : List JFlush
  nextUnit : Nat
  errors : List JErr
deriving DecidableEq, Repr

/-! ### Events, counters, self-test, Culverts (spec 16, 17, 01) -/

structure DevCtr where
  sel : Word32
  value : Nat
  latch : Nat
deriving DecidableEq, Repr

structure PageSel where
  event : Nat
  enable : Bool
  freeze : Bool
deriving DecidableEq, Repr

structure Page where
  values : Tab Nat
  sels : List PageSel
  ovf : Nat
  vector : Nat
deriving DecidableEq, Repr

structure Events where
  stat : Tab Word32
  mask : Tab Word32
  vector : Tab Nat
  count : Tab Nat
  portMap : Tab Bool
  ctrs : Tab DevCtr
  ovf : Tab Word32
  freezeAll : Bool
  pages : Tab Page
deriving DecidableEq, Repr

structure SelfTest where
  die : Tab Nat
  sig : Tab Nat
  result : Tab Nat
  runs : Nat
deriving DecidableEq, Repr

/-- The Culverts. `dataFlits` and `ctlFlits` are kept for each direction of a mesh Culvert (source × 4 +
destination): flits of the frames launched since none waited, and control flits passed since (spec 01 R22). -/
structure Culverts where
  down : Tab Bool
  fails : Tab Nat
  replays : Tab Nat
  dataFlits : Tab Nat
  ctlFlits : Tab Nat
deriving DecidableEq, Repr

/-! ### The value of every record at reset, and of every unlisted key of a table -/

def Board.reset : Board where
  rails := 0
  refclk := false
  released := false
  perstLow := true
  perstAt := 0
  retention := false
  fullReset := false
  resetDue := false
  drainWait := false
  startAt := none
  acFail := 0
  acHighAt := 0
  sigs := []
  thermtrip := false
  temps := List.replicate 32 0
  jtemp := 0
  jtempMax := none
  warnArmed := true
  throttleArmed := true
  criticalArmed := true
  throttled := false
  sampled := false
  power := 0
  gpioPins := 0
  tapInstr := 0x02
  boundary := []

/-- The header of the image the flash comes with (log entry 5). -/
def ImgHdr.shipped : ImgHdr where
  secVersion := 0
  version := zeros 8
  injRate := 20
  injFrames := 8192
  heartbeat := 50
  misr := List.replicate 8 0
  digest := zeros 64
  stages := [(1, zeros 64), (2, zeros 64), (3, zeros 64), (4, zeros 64), (5, zeros 64)]
  certs := []

/-- A header of which nothing was read. -/
def ImgHdr.none : ImgHdr where
  secVersion := 0
  version := zeros 8
  injRate := 0
  injFrames := 0
  heartbeat := 0
  misr := List.replicate 8 0
  digest := zeros 64
  stages := []
  certs := []

def Slot.shipped : Slot := { state := 2, other := 0, hdr := ImgHdr.shipped }

/-- An erased slot: it fails check 1 of Table 15.4. -/
def Slot.erased : Slot := { state := 0, other := 1, hdr := ImgHdr.none }

def Counts.none : Counts where
  queues := 0
  vectors := 1
  keySlots := 0
  channels := 0
  domains := 0
  regions := 0
  namespaces := 0
  minima := [0, 0, 0, 0]

/-- Polder 0's default share (spec 10 Table 10.1). -/
def Counts.polder0 : Counts := { Counts.none with queues := 64, vectors := 64, keySlots := 128 }

/-- Erased flash, which reads as ones: no copy in it is valid. -/
def erasedWord : Nat := 0xFFFFFFFF

def StoreCopy.erased : StoreCopy where
  magic := erasedWord
  counter := erasedWord
  length := erasedWord
  crc := erasedWord
  vals := []

def EpochCopy.erased : EpochCopy where
  magic := erasedWord
  epoch := erasedWord
  wraps := erasedWord
  crc := erasedWord

def BcbCopy.erased : BcbCopy where
  magic := erasedWord
  counter := erasedWord
  slot := 0xFF
  crc := erasedWord

def AreaHdr.erased : AreaHdr where
  magic := erasedWord
  counter := erasedWord
  ident := List.replicate 16 0xFF#8
  floor := erasedWord
  crc := erasedWord

def PolderRec.erased : PolderRec where
  magic := erasedWord
  counter := erasedWord
  length := erasedWord
  crc := erasedWord
  state := 0
  gen := 0
  counts := Counts.none
  weight := 1
  access := 1
  cls := 0

def Boot.reset : Boot where
  slots := [Slot.shipped, Slot.erased]
  bcb := List.replicate 2 BcbCopy.erased
  store := List.replicate 2 StoreCopy.erased
  epochRec := List.replicate 2 EpochCopy.erased
  asideKeys := []
  area := []
  areaHdr := List.replicate 2 AreaHdr.erased
  rollback := 0
  slot := 0
  bootStatus := 0
  running := ImgHdr.shipped
  datapath := ImgHdr.none
  actState := 0
  actStage := .idle
  actAt := 0
  activations := 0
  log := []
  logOverflow := false
  testedAtStart := false
  nonces := []
  started := false
  ddrTrained := [false, false]
  fieldUp := false
  journalSet := false
  coresUp := false
  hbAt := 0
  dikeState := 0
  dikeRun := 0
  dikeLog := []
  dikeSeq := 0
  dikeOverflowed := false
  dmaWindows := zeros 256

def Session.reset : Session where
  keySlot := none
  setAside := false
  rxHigh := 0
  rxMap := 0
  tx := 0
  exhausted := false
  vendorUntil := none
  epochAnswer := none
  kept := []

def Dict.reset : Dict where
  vals := []
  counters := []
  storeStatus := 0
  storing := none
  epoch := 0
  wraps := 0
  epochStored := false
  fdpOpen := false
  sessions := []
  mbxVendor := none
  nonces := []
  acts := []
  busyAfter := []
  snaps := []
  stagings := []
  subs := []
  second := 0
  inSecond := 0
  outbox := []

/-- Table 2.5's reset values, with nothing accepted. -/
def Mailbox.reset : Mailbox where
  length := 0
  busy := false
  done := false
  ignored := false
  restart := false
  rspLength := 0
  ignCnt := 0
  req := []
  rsp := []
  accepted := none
  orphans := []

def Port.reset : Port where
  link := .disabled
  fec := 0
  frrState := 0
  redirect := false
  suspended := false
  conds := 0
  latch := 0
  onset := []
  fecWin := []
  upAt := 0
  retryAt := 0

/-- UNSET, time 0 (spec 03 Table 3.9). -/
def TimeBase.reset : TimeBase where
  num := 0
  state := 0
  rate := 0
  ppsOut := false
  ppsInLast := 0
  offset := 0
  delay := 0
  parent := 0xFFFF
  lastMsg := 0
  annLog := 0
  lastEdge := 0
  ppsRise := 0

/-- Mode 0, HistoryLength 32, ResetTimeout 100 ms (spec 03 Table 3.9). -/
def Frer.reset : Frer where
  mode := 0
  port := 0
  history := 32
  timeout := 100
  strip := false
  nextSeq := 0
  takeAny := true
  rcv := 0
  window := 0
  ctr := []
  acceptAt := 0

def Rule.reset : Rule := { valid := false, value := 0, mask := 0, action := zeros 32 }

def Transition.reset : Transition := { valid := false, src := 0, dst := 0, value := 0, mask := 0 }

def Bank.reset : Bank where
  rules := []
  states := []
  trans := []
  profiles := []
  classMap := []

def PipeUse.reset : PipeUse := { slot := 0, first := 0, recirc := 0 }

def Classifier.reset : Classifier where
  banks := [Bank.reset, Bank.reset]
  active := 0
  retiring := []
  recirc := []
  waiting := []
  pipes := []
  ruleFrames := []
  ruleBytes := []
  malformedLast := zeros 4

def FdbEntry.reset : FdbEntry where
  mac := 0
  fid := 0
  dest := 0
  valid := false
  static := false
  hit := false
  age := 0
  moveHold := false
  recent := false
  stamp := 0

def StreamEntry.reset : StreamEntry := { mac := 0, vid := 0, kind := 0, handle := 0, valid := false }

def Vlan.reset : Vlan where
  valid := false
  learn := false
  fid := 0
  members := zeros 64
  untagged := zeros 64

/-- VID 1 at start-up (spec 05 R177). -/
def Vlan.vid1 : Vlan where
  valid := true
  learn := true
  fid := 1
  members := List.replicate 64 0xFF#8
  untagged := List.replicate 64 0xFF#8

def Tables.reset : Tables where
  fdb := []
  stream := []
  repFdb := []
  repStream := []
  localHit := []
  vlans := [(1, Vlan.vid1)]
  groups := []
  learnQ := []
  filter := []
  hits := []
  repQ := []
  stale := []
  resync := []
  flush := []
  sweep := []
  sweepAt := []
  agerDue := []
  cmd := 0
  stat := 0
  ignCnt := 0
  data := []
  busy := none
  learnZero := 0

def FlowEntry.reset : FlowEntry := { key := [], ctx := 0 }

def Ctx.reset : Ctx where
  active := false
  pinned := false
  notify := false
  byWrite := false
  setUsed := false
  idle := 0
  polder := 0
  packets := 0
  bytes := 0
  first := 0
  last := 0
  group := 0
  lastPort := 0
  hash := 0
  gen := 0
  stamp := 0
  user := zeros 64
  key := []

def FlowDie.reset : FlowDie where
  requests := []
  fetches := []
  fresh := 0
  returned := []
  writeBacks := []

def Flow.reset : Flow where
  entries := []
  overflow := []
  ctxs := []
  cache := []
  recent := []
  dies := []
  clearing := false

/-- The free-list words, heads, counts, tags and links of a die are read with the values of R241 at
every unlisted place (Ops.lean). -/
def BufDie.reset : BufDie where
  words := []
  heads := []
  counts := []
  lastDitch := []
  tags := []
  links := []
  served := []
  stuck := []
  occ := []
  lost := []
  discards := []
  lowRaised := false

def Buffers.reset : Buffers where
  dies := []
  stored := []
  transit := []
  hostQ := []
  owners := [(0, 1)]
  doubleFree := zeros 12
  foreignFree := zeros 12
  overflowMiB := 2048

def Track.reset : Track where
  sojourn := 0
  depth := 0
  dequeued := 0
  discarded := 0
  marked := 0
  lost := 0

/-- Queues empty, V 0, buckets full, gates open (spec 08 Table 8.9). -/
def PortSched.reset : PortSched where
  queues := []
  inject := []
  v := 0
  fprev := []
  fvalid := 0
  spent := []
  portSpent := 0
  tokTime := 0
  oper := none
  pend := none
  changeTime := 0
  gates := 0xFF
  sending := []
  wireEnd := 0
  counters := []
  maxSojourn := []
  maxDepth := []
  track := []
  injBytes := 0
  injFrames := 0
  injTime := 0

def Weir.reset : Weir where
  valid := false
  aware := false
  block := false
  cir := 0
  cbs := 0
  pir := 0
  pbs := 0
  maxSdu := 0
  tc := 0
  tp := 0
  last := 0
  blocked := false
  ctr := []

/-- Not valid; priority any, no Weir (spec 08 Table 8.9, Table 8.8). -/
def StreamFilter.reset : StreamFilter where
  valid := false
  prio := 0
  weir := 0
  matched := 0
  mismatch := 0

def HtxSched.reset : HtxSched where
  frames := []
  v := 0
  fprev := []
  fvalid := []
  heads := []
  next := []
  turn := []

def Sched.reset : Sched := { ports := [], weirs := [], filters := [], htx := [] }

def Func.reset : Func where
  memSpace := false
  busMaster := false
  intDisable := false
  msixEnable := false
  msixMask := false
  d3hot := false
  timeoutEnc := 0
  relaxed := true
  pasid := false
  ats := false
  pri := false
  priStopped := false
  priFailed := false
  priAlloc := 0
  acsEnable := false
  acsVector := []
  aer := 0
  aerCor := 0
  ecrcGen := false
  ecrcCheck := false
  payload := 0
  readRequest := 2
  resetSeen := true
  rrs := true
  flr := false
  flrAt := 0
  flrCapped := false
  bars := [0, 0, 0]

/-- The vector is masked at reset (PRESUMED, log entry 22). -/
def MsixEntry.reset : MsixEntry := { addr := 0, data := 0, masked := true, pending := false }

def Endpoint.reset : Endpoint where
  link := 0
  speed := 0
  width := 0
  flit := false
  wasUp := false
  vfEnable := false
  vfAt := 0
  numVfs := 0
  vfBars := [0, 0, 0]
  pageSize := 1
  tag10 := false
  tag14 := false
  inta := false
  funcs := []
  msix := []
  reads := []
  quarantine := []
  cached := []
  asked := []
  invalidations := []
  lastInval := none
  pageReqs := []

/-- A free polder. -/
def Polder.reset : Polder where
  state := 0
  gen := 0
  counts := Counts.none
  staged := 0
  owner := none
  maps := [[], [], [], [], [], [], []]
  lastFault := zeros 4

/-- Polder 0 from its defaults (spec 10 R360, Table 10.1). -/
def Polder.zero : Polder where
  state := 1
  gen := 0
  counts := Counts.polder0
  staged := 0
  owner := some 0x202
  maps := [List.range 64, List.range 64, List.range 128, [], [], [], []]
  lastFault := zeros 4

def HostGroup.none : HostGroup := { polder := 0, first := 0, count := 0 }

/-- Group 0 names polder 0, queue 0, count 1 (spec 10 R348). -/
def HostGroup.zero : HostGroup := { polder := 0, first := 0, count := 1 }

def Polders.reset : Polders where
  tab := [(0, Polder.zero)]
  faultMap := []
  groups := [(0, HostGroup.zero)]

def Queue.reset : Queue where
  ctx := []
  st := .disabled
  data := 0
  index := 0
  bell := none
  errAt := 0
  cmd := 0
  ignored := false
  cmdResult := 0
  status := 0
  reason := 0
  errIdx := 0
  dropped := 0
  head := 0
  tail := 0
  fetched := 0
  covered := 0
  doneTag := 0
  wraps := 0
  reading := false
  partialChain := []
  chains := []
  posted := []
  waiting := []
  journalHold := false
  resetting := false
  irqCount := 0
  irqAt := none
  sampleSeq := 0
  track := Track.reset
  ovfEnd := 0

def KeySlot.reset : KeySlot := { alg := 0, usage := 0, key := [], users := 0 }

def Core.reset : Core := { out := false, msg := none }

def Cipher.reset : Cipher where
  slots := []
  cores := []
  waiting := []
  holdUsed := 0
  v := 0
  fprev := []
  fvalid := []
  heads := []
  turn := []

/-- A channel in RESET. -/
def RxPath.reset : RxPath := { count := 0, marked := 0, since := none }

def Channel.reset : Channel where
  fn := 0
  num := 0
  state := 0
  was := 0
  changedAt := 0
  record := []
  paths := []
  lastPath := 0
  nextPsn := 0
  nextMsg := 0
  msgs := []
  sent := []
  rto := 0
  rtoAt := 0
  retries := 0
  expect := 0
  rcvd := []
  asm := []
  refused := []
  rxPaths := []
  notes := []
  recvs := []
  reads := []
  capsules := []
  ctlTx := 0
  ctlRx := none
  toAck := 0
  ackSince := 0
  lastNak := none
  lastCnp := none

def Region.reset : Region where
  valid := false
  revoking := false
  fn := 0
  num := 0
  base := 0
  len := 0
  domain := 0
  rights := 0
  pasid := none
  count := 0
  epoch := 0

def Siphon.reset : Siphon := { channels := [], regions := [], ddr := [], rx := [] }

def CartMedia.none : CartMedia where
  spaces := []
  blocks := []
  records := []
  written := 0
  readCount := 0
  mediaErrors := 0
  remapped := 0
  lost := 0
  meanCycles := 0
  spareOut := false
  sanitizing := Option.none

/-- An empty slot; both progress objects read 100 (spec 14 Table 14.12). -/
def CartSlot.reset : CartSlot where
  state := 0
  reason := 0
  present := false
  since := 0
  verified := false
  lastCmd := 0
  pwren := false
  perst := true
  identity := []
  media := CartMedia.none
  dirty := []
  drainSeq := 0
  testState := 0
  testCode := 0
  testProgress := 0
  testResult := 0
  testSegment := 0
  testTime := 0
  lifeWarned := false
  sanitizeBy := none
  sanitizeProgress := 100
  rebuild := 100
  rebuildAt := 0
  failedSerial := zeros 16

def Space.reset : Space where
  defined := false
  placement := 0
  size := 0
  state := 0
  blob := zeros 88
  keyCheck := []
  keySlot := none
  attach := none
  formatBy := none
  progress := 100

def Journal.reset : Journal where
  state := 0
  held := false
  slots := []
  spaces := []
  map := []
  units := []
  flushes := []
  nextUnit := 0
  errors := []

def DevCtr.reset : DevCtr := { sel := 0, value := 0, latch := 0 }

/-- The default selection of a counter page (spec 16 Table 16.8); vector none. -/
def Page.reset : Page where
  values := []
  sels := [0x340, 0x341, 0x342, 0x320, 0x331, 0x400, 0x480, 0x500].map
    (fun e => { event := e, enable := true, freeze := false })
  ovf := 0
  vector := 0xFFFF

def Events.reset : Events where
  stat := []
  mask := []
  vector := []
  count := []
  portMap := []
  ctrs := []
  ovf := []
  freezeAll := false
  pages := []

def SelfTest.reset : SelfTest := { die := [], sig := [], result := [], runs := 0 }

def Culverts.reset : Culverts := { down := [], fails := [], replays := [], dataFlits := [], ctlFlits := [] }

/-- The state of the block. -/
structure State where
  /-- The commands that wait, first in, first out. -/
  pending : List Instr
  /-- Elapsed femtoseconds at the latest timed command (log entry 2). -/
  clock : Nat
  /-- The counter the free values are applied to (log entry 3). -/
  freeCtr : Nat
  /-- The ticket of the next in-flight or stored frame (log entry 4). -/
  nextId : Nat
  /-- What left the part, oldest first (log entry 4). -/
  out : List Out
  board : Board
  boot : Boot
  dict : Dict
  mbx : Mailbox
  ports : Tab Port
  time : TimeBase
  frer : Tab Frer
  cls : Classifier
  tables : Tables
  flow : Flow
  buf : Buffers
  sched : Sched
  ep : Endpoint
  polders : Polders
  wq : Wq
  cipher : Cipher
  siphon : Siphon
  jrn : Journal
  evt : Events
  test : SelfTest
  culv : Culverts
deriving DecidableEq, Repr

/-- The machine right after reset: power just on, nothing started (spec 15 R520, Table 1.7). -/
def State.reset : State where
  pending := []
  clock := 0
  freeCtr := 0
  nextId := 0
  out := []
  board := Board.reset
  boot := Boot.reset
  dict := Dict.reset
  mbx := Mailbox.reset
  ports := []
  time := TimeBase.reset
  frer := []
  cls := Classifier.reset
  tables := Tables.reset
  flow := Flow.reset
  buf := Buffers.reset
  sched := Sched.reset
  ep := Endpoint.reset
  polders := Polders.reset
  wq := { queues := [], lastFn := 4096, turns := [] }
  cipher := Cipher.reset
  siphon := Siphon.reset
  jrn := Journal.reset
  evt := Events.reset
  test := SelfTest.reset
  culv := Culverts.reset

/-- A command stops the machine: the spec gives the block no such outcome, so no command ends
so, and the type has no constructor (log entry 1). -/
inductive Fault where
deriving DecidableEq, Repr

/-- A command has no meaning in the model. -/
inductive Refusal where
  /-- Raised by exec alone, for a row that has no meaning yet; safe: the run stops. -/
  | notModelled (mnemonic : String)
deriving DecidableEq, Repr

end Sys2Proof.Machine
end

