-- ==== Sys2Proof/Machine/Objects.lean ====
section
/-! DEFINITION. The object dictionary's table (spec 02 R46 to R55 and the object table of every
chapter): one row per object, with its type, access, roles, range and default. -/

namespace Sys2Proof.Machine

/-- Access codes (spec 02 Table 2.2). -/
inductive Acc where
  | ro | rw | wo | rwp | act
deriving DecidableEq, Repr

/-- A row: the indices and subindices it stands for, the type code of Table 2.1, the length on the
wire (an ACTION: of its argument), the argument's type code, access, read and write roles (0 where
the table has a dash), the range of a writable scalar, and the default of a writable value. -/
structure ObjRow where
  first : Nat
  last : Nat
  subFirst : Nat
  subLast : Nat
  ty : Nat
  len : Nat
  arg : Nat
  acc : Acc
  rd : Nat
  wr : Nat
  lo : Int
  hi : Int
  dflt : Bytes
deriving DecidableEq, Repr

/-- `n` copies of a byte string, one after the other. -/
def repeatBytes (n : Nat) (b : Bytes) : Bytes := (List.replicate n b).flatten

/-- GateControlList's default: gate states 0xFF for 1,000,000 ns (spec 08 Table 8.2, 8.3). -/
def gateListDefault : Bytes := padTo 8192 ([0, 0xFF, 0, 0] ++ beBytes 4 1000000)

/-- Objects DeviceSerial to TimeSource of the object tables. -/
def objRows0 : List ObjRow := [
  ⟨0x1000, 0x1000, 0x01, 0x01, 9, 16, 0, .ro, 1, 0, 0, 0, []⟩,
  ⟨0x1000, 0x1000, 0x02, 0x02, 10, 16, 0, .ro, 1, 0, 0, 0, []⟩,
  ⟨0x1000, 0x1000, 0x03, 0x03, 2, 1, 0, .ro, 1, 0, 0, 0, []⟩,
  ⟨0x1000, 0x1000, 0x04, 0x04, 9, 3108, 0, .ro, 1, 0, 0, 0, []⟩,
  ⟨0x1100, 0x1100, 0x01, 0x01, 4, 4, 0, .ro, 1, 0, 0, 0, []⟩,
  ⟨0x1100, 0x1100, 0x02, 0x02, 4, 4, 0, .ro, 1, 0, 0, 0, []⟩,
  ⟨0x1100, 0x1100, 0x03, 0x03, 4, 4, 0, .ro, 1, 0, 0, 0, []⟩,
  ⟨0x1101, 0x1101, 0x00, 0x00, 3, 2, 0, .rwp, 1, 3, 1024, 65535, beBytes 2 29317⟩,
  ⟨0x1102, 0x1102, 0x00, 0x00, 9, 64, 0, .rwp, 1, 3, 0, 0, zeros 64⟩,
  ⟨0x1103, 0x1103, 0x00, 0x00, 1, 1, 0, .rwp, 1, 3, 0, 1, beBytes 1 1⟩,
  ⟨0x1104, 0x1104, 0x00, 0x00, 9, 8, 0, .rwp, 1, 3, 0, 0, [169, 254, 1, 1, 16, 0, 0, 0]⟩,
  ⟨0x1105, 0x1105, 0x00, 0x00, 9, 8, 0, .rwp, 1, 3, 0, 0, zeros 8⟩,
  ⟨0x1106, 0x1106, 0x00, 0x00, 9, 20, 0, .rwp, 1, 3, 0, 0, zeros 20⟩,
  ⟨0x1107, 0x1107, 0x00, 0x00, 3, 2, 0, .rwp, 1, 3, 0, 4094, zeros 2⟩,
  ⟨0x1108, 0x1108, 0x00, 0x00, 4, 4, 0, .rwp, 1, 3, 1000, 50000, beBytes 4 20000⟩,
  ⟨0x1110, 0x1110, 0x01, 0x01, 5, 8, 0, .ro, 1, 0, 0, 0, []⟩,
  ⟨0x1110, 0x1110, 0x02, 0x02, 5, 8, 0, .ro, 1, 0, 0, 0, []⟩,
  ⟨0x1110, 0x1110, 0x03, 0x03, 5, 8, 0, .ro, 1, 0, 0, 0, []⟩,
  ⟨0x1110, 0x1110, 0x04, 0x04, 5, 8, 0, .ro, 1, 0, 0, 0, []⟩,
  ⟨0x1110, 0x1110, 0x05, 0x05, 5, 8, 0, .ro, 1, 0, 0, 0, []⟩,
  ⟨0x1110, 0x1110, 0x06, 0x06, 5, 8, 0, .ro, 1, 0, 0, 0, []⟩,
  ⟨0x1120, 0x1120, 0x01, 0x01, 12, 0, 0, .act, 0, 3, 0, 0, []⟩,
  ⟨0x1120, 0x1120, 0x02, 0x02, 12, 0, 0, .act, 0, 3, 0, 0, []⟩,
  ⟨0x1120, 0x1120, 0x03, 0x03, 2, 1, 0, .ro, 1, 0, 0, 0, []⟩,
  ⟨0x1120, 0x1120, 0x04, 0x04, 12, 2, 3, .act, 0, 1, 0, 0, []⟩,
  ⟨0x1140, 0x1140, 0x01, 0x01, 9, 1344, 0, .wo, 0, 3, 0, 0, []⟩,
  ⟨0x1140, 0x1140, 0x02, 0x02, 8, 12, 0, .ro, 3, 0, 0, 0, []⟩,
  ⟨0x1150, 0x118F, 0x01, 0x01, 1, 1, 0, .rwp, 3, 3, 0, 1, zeros 1⟩,
  ⟨0x1150, 0x118F, 0x02, 0x02, 2, 1, 0, .rwp, 3, 3, 1, 3, [1]⟩,
  ⟨0x1150, 0x118F, 0x03, 0x03, 9, 56, 0, .rwp, 3, 3, 0, 0, zeros 56⟩,
  ⟨0x1150, 0x118F, 0x04, 0x04, 9, 16, 0, .rwp, 3, 3, 0, 0, zeros 16⟩,
  ⟨0x1150, 0x118F, 0x05, 0x05, 4, 4, 0, .ro, 3, 0, 0, 0, []⟩,
  ⟨0x1150, 0x118F, 0x06, 0x06, 4, 4, 0, .ro, 3, 0, 0, 0, []⟩,
  ⟨0x1150, 0x118F, 0x07, 0x07, 2, 1, 0, .ro, 3, 0, 0, 0, []⟩,
  ⟨0x1200, 0x1200, 0x01, 0x01, 8, 12, 0, .ro, 1, 0, 0, 0, []⟩,
  ⟨0x1200, 0x1200, 0x02, 0x02, 2, 1, 0, .ro, 1, 0, 0, 0, []⟩,
  ⟨0x1200, 0x1200, 0x03, 0x03, 12, 12, 8, .act, 0, 3, 0, 0, []⟩,
  ⟨0x1200, 0x1200, 0x04, 0x04, 12, 8, 7, .act, 0, 3, 0, 0, []⟩,
  ⟨0x1200, 0x1200, 0x05, 0x05, 6, 4, 0, .rw, 1, 3, (-500000000), 500000000, zeros 4⟩,
  ⟨0x1201, 0x1201, 0x00, 0x00, 2, 1, 0, .rwp, 1, 3, 0, 2, zeros 1⟩]

/-- Objects PtpProfile to SmbusAddress of the object tables. -/
def objRows1 : List ObjRow := [
  ⟨0x1202, 0x1202, 0x01, 0x01, 2, 1, 0, .rwp, 1, 3, 0, 3, zeros 1⟩,
  ⟨0x1202, 0x1202, 0x02, 0x02, 2, 1, 0, .rwp, 1, 3, 1, 3, beBytes 1 2⟩,
  ⟨0x1202, 0x1202, 0x03, 0x03, 2, 1, 0, .rwp, 1, 3, 0, 255, zeros 1⟩,
  ⟨0x1202, 0x1202, 0x04, 0x04, 2, 1, 0, .rwp, 1, 3, 0, 2, zeros 1⟩,
  ⟨0x1202, 0x1202, 0x05, 0x05, 9, 64, 0, .rwp, 1, 3, 0, 0, zeros 64⟩,
  ⟨0x1202, 0x1202, 0x06, 0x06, 6, 4, 0, .rwp, 1, 3, (-7), 4, beBytes 4 (2 ^ 32 - 3)⟩,
  ⟨0x1202, 0x1202, 0x07, 0x07, 2, 1, 0, .rwp, 1, 3, 0, 255, beBytes 1 246⟩,
  ⟨0x1202, 0x1202, 0x08, 0x08, 2, 1, 0, .rwp, 1, 3, 0, 255, beBytes 1 248⟩,
  ⟨0x1202, 0x1202, 0x09, 0x09, 1, 1, 0, .rwp, 1, 3, 0, 1, beBytes 1 1⟩,
  ⟨0x1202, 0x1202, 0x0A, 0x0A, 1, 1, 0, .rwp, 1, 3, 0, 1, beBytes 1 1⟩,
  ⟨0x1202, 0x1202, 0x10, 0x10, 7, 8, 0, .ro, 1, 0, 0, 0, []⟩,
  ⟨0x1202, 0x1202, 0x11, 0x11, 7, 8, 0, .ro, 1, 0, 0, 0, []⟩,
  ⟨0x1202, 0x1202, 0x12, 0x12, 3, 2, 0, .ro, 1, 0, 0, 0, []⟩,
  ⟨0x1203, 0x1203, 0x01, 0x01, 1, 1, 0, .rwp, 1, 3, 0, 1, zeros 1⟩,
  ⟨0x1203, 0x1203, 0x02, 0x02, 4, 4, 0, .rwp, 1, 3, 100, 500000000, beBytes 4 100000000⟩,
  ⟨0x1203, 0x1203, 0x03, 0x03, 6, 4, 0, .rwp, 1, 3, (-500000000), 500000000, zeros 4⟩,
  ⟨0x1203, 0x1203, 0x04, 0x04, 1, 1, 0, .rwp, 1, 3, 0, 1, zeros 1⟩,
  ⟨0x1203, 0x1203, 0x05, 0x05, 6, 4, 0, .rwp, 1, 3, (-1000000), 1000000, zeros 4⟩,
  ⟨0x1203, 0x1203, 0x06, 0x06, 8, 12, 0, .ro, 1, 0, 0, 0, []⟩,
  ⟨0x1204, 0x1204, 0x01, 0x01, 3, 2, 0, .rwp, 1, 3, 0, 65535, [0xFF, 0xFF]⟩,
  ⟨0x1204, 0x1204, 0x02, 0x02, 3, 2, 0, .rwp, 1, 3, 16, 65535, beBytes 2 160⟩,
  ⟨0x1204, 0x1204, 0x03, 0x03, 3, 2, 0, .rwp, 1, 3, 0, 65535, [0xFF, 0xFF]⟩,
  ⟨0x1204, 0x1204, 0x04, 0x04, 3, 2, 0, .rwp, 1, 3, 16, 65535, beBytes 2 160⟩,
  ⟨0x1204, 0x1204, 0x05, 0x05, 1, 1, 0, .rwp, 1, 3, 0, 1, beBytes 1 1⟩,
  ⟨0x1300, 0x1300, 0x01, 0x01, 6, 4, 0, .ro, 1, 0, 0, 0, []⟩,
  ⟨0x1300, 0x1300, 0x02, 0x02, 6, 4, 0, .ro, 1, 0, 0, 0, []⟩,
  ⟨0x1300, 0x1300, 0x03, 0x03, 9, 64, 0, .ro, 1, 0, 0, 0, []⟩,
  ⟨0x1300, 0x1300, 0x04, 0x04, 12, 0, 0, .act, 0, 2, 0, 0, []⟩,
  ⟨0x1300, 0x1300, 0x05, 0x05, 5, 8, 0, .ro, 1, 0, 0, 0, []⟩,
  ⟨0x1301, 0x1301, 0x01, 0x01, 2, 1, 0, .rwp, 1, 3, 60, 104, beBytes 1 95⟩,
  ⟨0x1301, 0x1301, 0x02, 0x02, 2, 1, 0, .rwp, 1, 3, 80, 104, beBytes 1 100⟩,
  ⟨0x1301, 0x1301, 0x03, 0x03, 1, 1, 0, .ro, 1, 0, 0, 0, []⟩,
  ⟨0x1302, 0x1302, 0x01, 0x01, 3, 2, 0, .ro, 1, 0, 0, 0, []⟩,
  ⟨0x1302, 0x1302, 0x02, 0x02, 2, 1, 0, .ro, 1, 0, 0, 0, []⟩,
  ⟨0x1303, 0x1303, 0x01, 0x01, 2, 1, 0, .ro, 1, 0, 0, 0, []⟩,
  ⟨0x1303, 0x1303, 0x02, 0x02, 5, 8, 0, .ro, 1, 0, 0, 0, []⟩,
  ⟨0x1304, 0x1304, 0x01, 0x01, 2, 1, 0, .rwp, 1, 3, 0, 255, zeros 1⟩,
  ⟨0x1304, 0x1304, 0x02, 0x02, 2, 1, 0, .rwp, 1, 2, 0, 255, zeros 1⟩,
  ⟨0x1304, 0x1304, 0x03, 0x03, 2, 1, 0, .ro, 1, 0, 0, 0, []⟩,
  ⟨0x1305, 0x1305, 0x00, 0x00, 2, 1, 0, .rwp, 1, 3, 8, 119, beBytes 1 82⟩]

/-- Objects ActiveSlot to PolderCounterRead of the object tables. -/
def objRows2 : List ObjRow := [
  ⟨0x1400, 0x1400, 0x01, 0x01, 2, 1, 0, .ro, 1, 0, 0, 0, []⟩,
  ⟨0x1400, 0x1400, 0x02, 0x02, 2, 1, 0, .ro, 1, 0, 0, 0, []⟩,
  ⟨0x1400, 0x1400, 0x03, 0x03, 9, 8, 0, .ro, 1, 0, 0, 0, []⟩,
  ⟨0x1400, 0x1400, 0x04, 0x04, 2, 1, 0, .ro, 1, 0, 0, 0, []⟩,
  ⟨0x1400, 0x1400, 0x05, 0x05, 2, 1, 0, .ro, 1, 0, 0, 0, []⟩,
  ⟨0x1400, 0x1400, 0x06, 0x06, 9, 8, 0, .ro, 1, 0, 0, 0, []⟩,
  ⟨0x1400, 0x1400, 0x07, 0x07, 2, 1, 0, .ro, 1, 0, 0, 0, []⟩,
  ⟨0x1401, 0x1402, 0x01, 0x01, 2, 1, 0, .ro, 1, 0, 0, 0, []⟩,
  ⟨0x1401, 0x1402, 0x02, 0x02, 2, 1, 0, .ro, 1, 0, 0, 0, []⟩,
  ⟨0x1401, 0x1402, 0x03, 0x03, 9, 8, 0, .ro, 1, 0, 0, 0, []⟩,
  ⟨0x1401, 0x1402, 0x04, 0x04, 2, 1, 0, .ro, 1, 0, 0, 0, []⟩,
  ⟨0x1410, 0x1410, 0x00, 0x00, 9, 16777216, 0, .wo, 0, 3, 0, 0, []⟩,
  ⟨0x1411, 0x1411, 0x00, 0x00, 12, 0, 0, .act, 0, 3, 0, 0, []⟩,
  ⟨0x1412, 0x1412, 0x00, 0x00, 12, 0, 0, .act, 0, 3, 0, 0, []⟩,
  ⟨0x1420, 0x1420, 0x00, 0x00, 9, 0, 0, .ro, 1, 0, 0, 0, []⟩,
  ⟨0x1421, 0x1421, 0x00, 0x00, 9, 32, 0, .rw, 1, 1, 0, 0, zeros 32⟩,
  ⟨0x1430, 0x1430, 0x01, 0x01, 2, 1, 0, .ro, 1, 0, 0, 0, []⟩,
  ⟨0x1430, 0x1430, 0x02, 0x02, 5, 8, 0, .ro, 1, 0, 0, 0, []⟩,
  ⟨0x1430, 0x1430, 0x03, 0x03, 5, 8, 0, .ro, 1, 0, 0, 0, []⟩,
  ⟨0x1430, 0x1430, 0x04, 0x04, 5, 8, 0, .ro, 1, 0, 0, 0, []⟩,
  ⟨0x1430, 0x1430, 0x05, 0x05, 5, 8, 0, .ro, 1, 0, 0, 0, []⟩,
  ⟨0x1430, 0x1430, 0x06, 0x06, 9, 8, 0, .ro, 1, 0, 0, 0, []⟩,
  ⟨0x1431, 0x1431, 0x00, 0x00, 9, 131072, 0, .ro, 3, 0, 0, 0, []⟩,
  ⟨0x1432, 0x1432, 0x00, 0x00, 12, 0, 0, .act, 0, 3, 0, 0, []⟩,
  ⟨0x1440, 0x1440, 0x00, 0x00, 9, 256, 0, .rw, 3, 3, 0, 0, zeros 256⟩,
  ⟨0x1500, 0x1500, 0x01, 0x01, 1, 1, 0, .rwp, 1, 3, 0, 1, zeros 1⟩,
  ⟨0x1500, 0x1500, 0x02, 0x02, 12, 1, 2, .act, 0, 3, 0, 0, []⟩,
  ⟨0x1500, 0x1500, 0x03, 0x03, 12, 1, 2, .act, 0, 3, 0, 0, []⟩,
  ⟨0x1501, 0x1501, 0x00, 0x00, 9, 8, 0, .ro, 1, 0, 0, 0, []⟩,
  ⟨0x1502, 0x1502, 0x00, 0x00, 9, 64, 0, .ro, 1, 0, 0, 0, []⟩,
  ⟨0x1503, 0x1503, 0x00, 0x00, 9, 8, 0, .ro, 1, 0, 0, 0, []⟩,
  ⟨0x1504, 0x1504, 0x00, 0x00, 5, 8, 0, .ro, 1, 0, 0, 0, []⟩,
  ⟨0x1600, 0x1600, 0x00, 0x00, 9, 2048, 0, .ro, 1, 0, 0, 0, []⟩,
  ⟨0x1601, 0x1601, 0x00, 0x00, 9, 64, 0, .ro, 1, 0, 0, 0, []⟩,
  ⟨0x1602, 0x1602, 0x00, 0x00, 12, 2, 3, .act, 0, 2, 0, 0, []⟩,
  ⟨0x1603, 0x1603, 0x00, 0x00, 9, 64, 0, .ro, 1, 0, 0, 0, []⟩,
  ⟨0x1604, 0x1604, 0x00, 0x00, 12, 0, 0, .act, 0, 2, 0, 0, []⟩,
  ⟨0x1700, 0x1700, 0x00, 0x00, 12, 2, 3, .act, 0, 1, 0, 0, []⟩,
  ⟨0x1710, 0x1710, 0x00, 0x00, 12, 8, 9, .act, 0, 3, 0, 0, []⟩,
  ⟨0x1711, 0x1711, 0x00, 0x00, 12, 2, 3, .act, 0, 1, 0, 0, []⟩]

/-- Objects PortMode to PortShaperBurst of the object tables. -/
def objRows3 : List ObjRow := [
  ⟨0x2000, 0x21FF, 0x01, 0x01, 2, 1, 0, .rwp, 1, 3, 0, 6, zeros 1⟩,
  ⟨0x2000, 0x21FF, 0x02, 0x02, 1, 1, 0, .rwp, 1, 2, 0, 1, zeros 1⟩,
  ⟨0x2000, 0x21FF, 0x03, 0x03, 1, 1, 0, .rwp, 1, 3, 0, 1, beBytes 1 1⟩,
  ⟨0x2000, 0x21FF, 0x04, 0x04, 2, 1, 0, .rwp, 1, 3, 0, 255, [0xFF]⟩,
  ⟨0x2000, 0x21FF, 0x05, 0x05, 3, 2, 0, .rwp, 1, 3, 1518, 9216, beBytes 2 1522⟩,
  ⟨0x2000, 0x21FF, 0x06, 0x06, 6, 4, 0, .rwp, 1, 3, (-100000), 100000, zeros 4⟩,
  ⟨0x2000, 0x21FF, 0x07, 0x07, 6, 4, 0, .rwp, 1, 3, (-100000), 100000, zeros 4⟩,
  ⟨0x2000, 0x21FF, 0x08, 0x08, 3, 2, 0, .rwp, 1, 3, 0, 65535, [0xFF, 0xFF]⟩,
  ⟨0x2000, 0x21FF, 0x09, 0x09, 2, 1, 0, .rwp, 1, 3, 0, 255, beBytes 1 15⟩,
  ⟨0x2000, 0x21FF, 0x0A, 0x0A, 3, 2, 0, .rwp, 1, 3, 0, 10000, beBytes 2 8000⟩,
  ⟨0x2000, 0x21FF, 0x0B, 0x0B, 2, 1, 0, .rwp, 1, 3, 1, 8, beBytes 1 3⟩,
  ⟨0x2000, 0x21FF, 0x0C, 0x0C, 4, 4, 0, .rwp, 1, 3, 0, 600000, zeros 4⟩,
  ⟨0x2000, 0x21FF, 0x0D, 0x0D, 1, 1, 0, .rwp, 1, 3, 0, 1, beBytes 1 1⟩,
  ⟨0x2000, 0x21FF, 0x0E, 0x0E, 12, 0, 0, .act, 0, 2, 0, 0, []⟩,
  ⟨0x2000, 0x21FF, 0x10, 0x10, 2, 1, 0, .ro, 1, 0, 0, 0, []⟩,
  ⟨0x2000, 0x21FF, 0x11, 0x11, 2, 1, 0, .ro, 1, 0, 0, 0, []⟩,
  ⟨0x2000, 0x21FF, 0x12, 0x12, 2, 1, 0, .ro, 1, 0, 0, 0, []⟩,
  ⟨0x2000, 0x21FF, 0x20, 0x20, 5, 8, 0, .ro, 1, 0, 0, 0, []⟩,
  ⟨0x2000, 0x21FF, 0x21, 0x21, 5, 8, 0, .ro, 1, 0, 0, 0, []⟩,
  ⟨0x2000, 0x21FF, 0x22, 0x22, 5, 8, 0, .ro, 1, 0, 0, 0, []⟩,
  ⟨0x2000, 0x21FF, 0x23, 0x23, 5, 8, 0, .ro, 1, 0, 0, 0, []⟩,
  ⟨0x2000, 0x21FF, 0x24, 0x24, 5, 8, 0, .ro, 1, 0, 0, 0, []⟩,
  ⟨0x2000, 0x21FF, 0x25, 0x25, 5, 8, 0, .ro, 1, 0, 0, 0, []⟩,
  ⟨0x2000, 0x21FF, 0x26, 0x26, 5, 8, 0, .ro, 1, 0, 0, 0, []⟩,
  ⟨0x2000, 0x21FF, 0x27, 0x27, 5, 8, 0, .ro, 1, 0, 0, 0, []⟩,
  ⟨0x2000, 0x21FF, 0x28, 0x28, 5, 8, 0, .ro, 1, 0, 0, 0, []⟩,
  ⟨0x2000, 0x21FF, 0x29, 0x29, 5, 8, 0, .ro, 1, 0, 0, 0, []⟩,
  ⟨0x2000, 0x21FF, 0x2A, 0x2A, 5, 8, 0, .ro, 1, 0, 0, 0, []⟩,
  ⟨0x2000, 0x21FF, 0x2B, 0x2B, 5, 8, 0, .ro, 1, 0, 0, 0, []⟩,
  ⟨0x2000, 0x21FF, 0x2C, 0x2C, 5, 8, 0, .ro, 1, 0, 0, 0, []⟩,
  ⟨0x2000, 0x21FF, 0x2D, 0x2D, 5, 8, 0, .ro, 1, 0, 0, 0, []⟩,
  ⟨0x2000, 0x21FF, 0x2E, 0x2E, 5, 8, 0, .ro, 1, 0, 0, 0, []⟩,
  ⟨0x2000, 0x21FF, 0x2F, 0x2F, 5, 8, 0, .ro, 1, 0, 0, 0, []⟩,
  ⟨0x2200, 0x23FF, 0x01, 0x01, 9, 8, 0, .rwp, 1, 3, 0, 0, zeros 8⟩,
  ⟨0x2200, 0x23FF, 0x02, 0x02, 9, 16, 0, .rwp, 1, 3, 0, 0, repeatBytes 8 [0, 1]⟩,
  ⟨0x2200, 0x23FF, 0x03, 0x03, 2, 1, 0, .rwp, 1, 3, 0, 255, zeros 1⟩,
  ⟨0x2200, 0x23FF, 0x04, 0x04, 9, 32, 0, .rwp, 1, 3, 0, 0, zeros 32⟩,
  ⟨0x2200, 0x23FF, 0x05, 0x05, 9, 32, 0, .rwp, 1, 3, 0, 0, repeatBytes 8 (beBytes 4 16384)⟩,
  ⟨0x2200, 0x23FF, 0x06, 0x06, 4, 4, 0, .rwp, 1, 3, 0, 100000000, zeros 4⟩,
  ⟨0x2200, 0x23FF, 0x07, 0x07, 4, 4, 0, .rwp, 1, 3, 1600, 16777216, beBytes 4 16384⟩]

/-- Objects EcnThreshold to ParseDepthLimit of the object tables. -/
def objRows4 : List ObjRow := [
  ⟨0x2200, 0x23FF, 0x08, 0x08, 9, 32, 0, .rwp, 1, 3, 0, 0, zeros 32⟩,
  ⟨0x2200, 0x23FF, 0x09, 0x09, 2, 1, 0, .rwp, 1, 3, 0, 7, zeros 1⟩,
  ⟨0x2200, 0x23FF, 0x0A, 0x0A, 9, 32, 0, .rwp, 1, 3, 0, 0, zeros 32⟩,
  ⟨0x2200, 0x23FF, 0x0B, 0x0B, 9, 8, 0, .rwp, 1, 3, 0, 0, [0, 1, 2, 3, 4, 5, 6, 7]⟩,
  ⟨0x2200, 0x23FF, 0x0C, 0x0C, 2, 1, 0, .rwp, 1, 3, 0, 7, zeros 1⟩,
  ⟨0x2200, 0x23FF, 0x20, 0x20, 9, 320, 0, .ro, 1, 0, 0, 0, []⟩,
  ⟨0x2200, 0x23FF, 0x21, 0x21, 9, 64, 0, .ro, 1, 0, 0, 0, []⟩,
  ⟨0x2200, 0x23FF, 0x22, 0x22, 12, 1, 2, .act, 0, 1, 0, 0, []⟩,
  ⟨0x2200, 0x23FF, 0x23, 0x23, 5, 8, 0, .ro, 1, 0, 0, 0, []⟩,
  ⟨0x2400, 0x25FF, 0x01, 0x01, 1, 1, 0, .rwp, 1, 3, 0, 1, zeros 1⟩,
  ⟨0x2400, 0x25FF, 0x02, 0x02, 4, 4, 0, .rwp, 1, 3, 1000, 1000000000, beBytes 4 1000000⟩,
  ⟨0x2400, 0x25FF, 0x03, 0x03, 8, 12, 0, .rwp, 1, 3, 0, 0, zeros 12⟩,
  ⟨0x2400, 0x25FF, 0x04, 0x04, 4, 4, 0, .rwp, 1, 3, 0, 1000000000, zeros 4⟩,
  ⟨0x2400, 0x25FF, 0x05, 0x05, 3, 2, 0, .rwp, 1, 3, 1, 1024, beBytes 2 1⟩,
  ⟨0x2400, 0x25FF, 0x06, 0x06, 9, 8192, 0, .rwp, 1, 3, 0, 0, gateListDefault⟩,
  ⟨0x2400, 0x25FF, 0x07, 0x07, 12, 0, 0, .act, 0, 3, 0, 0, []⟩,
  ⟨0x2400, 0x25FF, 0x10, 0x10, 1, 1, 0, .ro, 1, 0, 0, 0, []⟩,
  ⟨0x2400, 0x25FF, 0x11, 0x11, 8, 12, 0, .ro, 1, 0, 0, 0, []⟩,
  ⟨0x2400, 0x25FF, 0x12, 0x12, 4, 4, 0, .ro, 1, 0, 0, 0, []⟩,
  ⟨0x2400, 0x25FF, 0x13, 0x13, 8, 12, 0, .ro, 1, 0, 0, 0, []⟩,
  ⟨0x2400, 0x25FF, 0x14, 0x14, 4, 4, 0, .ro, 1, 0, 0, 0, []⟩,
  ⟨0x2400, 0x25FF, 0x15, 0x15, 3, 2, 0, .ro, 1, 0, 0, 0, []⟩,
  ⟨0x2400, 0x25FF, 0x16, 0x16, 9, 8192, 0, .ro, 1, 0, 0, 0, []⟩,
  ⟨0x2400, 0x25FF, 0x17, 0x17, 9, 32, 0, .ro, 1, 0, 0, 0, []⟩,
  ⟨0x2400, 0x25FF, 0x18, 0x18, 5, 8, 0, .ro, 1, 0, 0, 0, []⟩,
  ⟨0x2400, 0x25FF, 0x19, 0x19, 5, 8, 0, .ro, 1, 0, 0, 0, []⟩,
  ⟨0x2600, 0x2600, 0x00, 0x00, 12, 24, 9, .act, 0, 3, 0, 0, []⟩,
  ⟨0x2601, 0x2601, 0x00, 0x00, 12, 4, 9, .act, 0, 1, 0, 0, []⟩,
  ⟨0x2602, 0x2602, 0x00, 0x00, 12, 4, 9, .act, 0, 2, 0, 0, []⟩,
  ⟨0x2603, 0x2603, 0x00, 0x00, 12, 4, 9, .act, 0, 2, 0, 0, []⟩,
  ⟨0x2610, 0x2610, 0x00, 0x00, 12, 8, 9, .act, 0, 3, 0, 0, []⟩,
  ⟨0x2611, 0x2611, 0x00, 0x00, 12, 2, 3, .act, 0, 1, 0, 0, []⟩,
  ⟨0x2780, 0x2780, 0x00, 0x00, 12, 12, 9, .act, 0, 3, 0, 0, []⟩,
  ⟨0x2781, 0x2781, 0x00, 0x00, 12, 2, 3, .act, 0, 1, 0, 0, []⟩,
  ⟨0x2782, 0x2782, 0x00, 0x00, 3, 2, 0, .ro, 1, 0, 0, 0, []⟩,
  ⟨0x2800, 0x2800, 0x01, 0x01, 2, 1, 0, .ro, 1, 0, 0, 0, []⟩,
  ⟨0x2800, 0x2800, 0x02, 0x02, 2, 1, 0, .ro, 1, 0, 0, 0, []⟩,
  ⟨0x2800, 0x2800, 0x03, 0x03, 2, 1, 0, .ro, 1, 0, 0, 0, []⟩,
  ⟨0x2800, 0x2800, 0x04, 0x04, 12, 1, 2, .act, 0, 3, 0, 0, []⟩,
  ⟨0x2801, 0x2801, 0x01, 0x01, 2, 1, 0, .rwp, 1, 3, 2, 16, beBytes 1 16⟩]

/-- Objects ParseByteLimit to StreamEntries of the object tables. -/
def objRows5 : List ObjRow := [
  ⟨0x2801, 0x2801, 0x02, 0x02, 3, 2, 0, .rwp, 1, 3, 64, 256, beBytes 2 256⟩,
  ⟨0x2801, 0x2801, 0x03, 0x03, 2, 1, 0, .rwp, 1, 3, 0, 2, zeros 1⟩,
  ⟨0x2801, 0x2801, 0x04, 0x04, 3, 2, 0, .rwp, 1, 3, 0, 4095, zeros 2⟩,
  ⟨0x2801, 0x2801, 0x05, 0x05, 2, 1, 0, .rwp, 1, 3, 0, 1, zeros 1⟩,
  ⟨0x2801, 0x2801, 0x06, 0x06, 3, 2, 0, .rwp, 1, 3, 0, 4095, zeros 2⟩,
  ⟨0x2801, 0x2801, 0x07, 0x07, 2, 1, 0, .rwp, 1, 3, 0, 255, beBytes 1 6⟩,
  ⟨0x2801, 0x2801, 0x08, 0x08, 2, 1, 0, .rwp, 1, 3, 0, 1, zeros 1⟩,
  ⟨0x2801, 0x2801, 0x09, 0x09, 9, 40, 0, .rwp, 3, 3, 0, 0, repeatBytes 5 [0x3C, 0x96, 0xA5, 0x0F, 0x5A, 0xC3, 0x69, 0xF0]⟩,
  ⟨0x2801, 0x2801, 0x0A, 0x0A, 2, 1, 0, .rwp, 1, 3, 0, 1, zeros 1⟩,
  ⟨0x2801, 0x2801, 0x0B, 0x0B, 3, 2, 0, .rwp, 1, 3, 1, 65535, beBytes 2 4789⟩,
  ⟨0x2801, 0x2801, 0x0C, 0x0C, 3, 2, 0, .rwp, 1, 3, 1, 65535, beBytes 2 6081⟩,
  ⟨0x2802, 0x2802, 0x01, 0x01, 5, 8, 0, .ro, 1, 0, 0, 0, []⟩,
  ⟨0x2802, 0x2802, 0x02, 0x02, 5, 8, 0, .ro, 1, 0, 0, 0, []⟩,
  ⟨0x2802, 0x2802, 0x03, 0x03, 5, 8, 0, .ro, 1, 0, 0, 0, []⟩,
  ⟨0x2802, 0x2802, 0x04, 0x04, 4, 4, 0, .ro, 1, 0, 0, 0, []⟩,
  ⟨0x2803, 0x2803, 0x01, 0x0E, 5, 8, 0, .ro, 1, 0, 0, 0, []⟩,
  ⟨0x2804, 0x2804, 0x00, 0x00, 9, 4, 0, .ro, 1, 0, 0, 0, []⟩,
  ⟨0x2806, 0x2806, 0x01, 0x10, 5, 8, 0, .ro, 1, 0, 0, 0, []⟩,
  ⟨0x2810, 0x2810, 0x00, 0x00, 12, 164, 9, .act, 0, 3, 0, 0, []⟩,
  ⟨0x2811, 0x2811, 0x00, 0x00, 12, 4, 9, .act, 0, 1, 0, 0, []⟩,
  ⟨0x2812, 0x2812, 0x00, 0x00, 12, 6, 9, .act, 0, 3, 0, 0, []⟩,
  ⟨0x2813, 0x2813, 0x00, 0x00, 12, 2, 3, .act, 0, 1, 0, 0, []⟩,
  ⟨0x2814, 0x2814, 0x00, 0x00, 12, 2, 3, .act, 0, 2, 0, 0, []⟩,
  ⟨0x2820, 0x2820, 0x00, 0x00, 12, 34, 9, .act, 0, 3, 0, 0, []⟩,
  ⟨0x2821, 0x2821, 0x00, 0x00, 12, 10, 9, .act, 0, 3, 0, 0, []⟩,
  ⟨0x2822, 0x2822, 0x00, 0x00, 12, 128, 9, .act, 0, 3, 0, 0, []⟩,
  ⟨0x2823, 0x2823, 0x00, 0x00, 12, 258, 9, .act, 0, 3, 0, 0, []⟩,
  ⟨0x2824, 0x2824, 0x00, 0x00, 12, 4, 9, .act, 0, 1, 0, 0, []⟩,
  ⟨0x2900, 0x2900, 0x01, 0x01, 4, 4, 0, .rwp, 1, 3, 10, 1000000, beBytes 4 300⟩,
  ⟨0x2900, 0x2900, 0x02, 0x02, 4, 4, 0, .rwp, 1, 3, 0, 1000000, beBytes 4 1000⟩,
  ⟨0x2900, 0x2900, 0x03, 0x03, 1, 1, 0, .rwp, 1, 3, 0, 1, beBytes 1 1⟩,
  ⟨0x2900, 0x2900, 0x04, 0x04, 9, 64, 0, .rwp, 1, 3, 0, 0, List.replicate 64 0xFF⟩,
  ⟨0x2900, 0x2900, 0x05, 0x05, 9, 40, 0, .rwp, 3, 3, 0, 0, repeatBytes 5 [0xA7, 0x1E, 0x4B, 0xD2, 0x95, 0x3C, 0xE1, 0x78]⟩,
  ⟨0x2900, 0x2900, 0x06, 0x06, 12, 1, 2, .act, 0, 3, 0, 0, []⟩,
  ⟨0x2902, 0x2902, 0x01, 0x01, 9, 1024, 0, .rwp, 1, 3, 0, 0, repeatBytes 512 [0, 1]⟩,
  ⟨0x2902, 0x2902, 0x02, 0x02, 9, 64, 0, .rwp, 1, 3, 0, 0, zeros 64⟩,
  ⟨0x2903, 0x2903, 0x01, 0x01, 4, 4, 0, .ro, 1, 0, 0, 0, []⟩,
  ⟨0x2903, 0x2903, 0x02, 0x02, 4, 4, 0, .ro, 1, 0, 0, 0, []⟩,
  ⟨0x2903, 0x2903, 0x03, 0x03, 3, 2, 0, .ro, 1, 0, 0, 0, []⟩,
  ⟨0x2903, 0x2903, 0x04, 0x04, 3, 2, 0, .ro, 1, 0, 0, 0, []⟩]

/-- Objects LearnsInstalled to BufFirmwareMinimum of the object tables. -/
def objRows6 : List ObjRow := [
  ⟨0x2904, 0x2904, 0x01, 0x01, 5, 8, 0, .ro, 1, 0, 0, 0, []⟩,
  ⟨0x2904, 0x2904, 0x02, 0x02, 5, 8, 0, .ro, 1, 0, 0, 0, []⟩,
  ⟨0x2904, 0x2904, 0x03, 0x03, 5, 8, 0, .ro, 1, 0, 0, 0, []⟩,
  ⟨0x2904, 0x2904, 0x04, 0x04, 5, 8, 0, .ro, 1, 0, 0, 0, []⟩,
  ⟨0x2904, 0x2904, 0x05, 0x05, 5, 8, 0, .ro, 1, 0, 0, 0, []⟩,
  ⟨0x2904, 0x2904, 0x06, 0x06, 5, 8, 0, .ro, 1, 0, 0, 0, []⟩,
  ⟨0x2904, 0x2904, 0x07, 0x07, 5, 8, 0, .ro, 1, 0, 0, 0, []⟩,
  ⟨0x2904, 0x2904, 0x08, 0x08, 5, 8, 0, .ro, 1, 0, 0, 0, []⟩,
  ⟨0x2904, 0x2904, 0x09, 0x09, 5, 8, 0, .ro, 1, 0, 0, 0, []⟩,
  ⟨0x2904, 0x2904, 0x0A, 0x0A, 5, 8, 0, .ro, 1, 0, 0, 0, []⟩,
  ⟨0x2904, 0x2904, 0x0B, 0x0B, 5, 8, 0, .ro, 1, 0, 0, 0, []⟩,
  ⟨0x2910, 0x2910, 0x00, 0x00, 12, 134, 9, .act, 0, 3, 0, 0, []⟩,
  ⟨0x2911, 0x2911, 0x00, 0x00, 12, 2, 3, .act, 0, 1, 0, 0, []⟩,
  ⟨0x2912, 0x2912, 0x00, 0x00, 12, 66, 9, .act, 0, 3, 0, 0, []⟩,
  ⟨0x2913, 0x2913, 0x00, 0x00, 12, 2, 3, .act, 0, 1, 0, 0, []⟩,
  ⟨0x2A00, 0x2A00, 0x01, 0x01, 2, 1, 0, .rwp, 1, 3, 0, 1, zeros 1⟩,
  ⟨0x2A00, 0x2A00, 0x02, 0x02, 3, 2, 0, .rwp, 1, 3, 0, 65535, zeros 2⟩,
  ⟨0x2A01, 0x2A01, 0x01, 0x0F, 4, 4, 0, .rwp, 1, 3, 1000, 86400000, beBytes 4 30000⟩,
  ⟨0x2A02, 0x2A02, 0x01, 0x01, 4, 4, 0, .ro, 1, 0, 0, 0, []⟩,
  ⟨0x2A02, 0x2A02, 0x02, 0x02, 3, 2, 0, .ro, 1, 0, 0, 0, []⟩,
  ⟨0x2A02, 0x2A02, 0x03, 0x03, 3, 2, 0, .ro, 1, 0, 0, 0, []⟩,
  ⟨0x2A03, 0x2A03, 0x01, 0x01, 5, 8, 0, .ro, 1, 0, 0, 0, []⟩,
  ⟨0x2A03, 0x2A03, 0x02, 0x02, 5, 8, 0, .ro, 1, 0, 0, 0, []⟩,
  ⟨0x2A03, 0x2A03, 0x03, 0x03, 5, 8, 0, .ro, 1, 0, 0, 0, []⟩,
  ⟨0x2A03, 0x2A03, 0x04, 0x04, 5, 8, 0, .ro, 1, 0, 0, 0, []⟩,
  ⟨0x2A03, 0x2A03, 0x05, 0x05, 5, 8, 0, .ro, 1, 0, 0, 0, []⟩,
  ⟨0x2A03, 0x2A03, 0x06, 0x06, 5, 8, 0, .ro, 1, 0, 0, 0, []⟩,
  ⟨0x2A03, 0x2A03, 0x07, 0x07, 5, 8, 0, .ro, 1, 0, 0, 0, []⟩,
  ⟨0x2A03, 0x2A03, 0x08, 0x08, 5, 8, 0, .ro, 1, 0, 0, 0, []⟩,
  ⟨0x2A03, 0x2A03, 0x09, 0x09, 5, 8, 0, .ro, 1, 0, 0, 0, []⟩,
  ⟨0x2A03, 0x2A03, 0x0A, 0x0A, 5, 8, 0, .ro, 1, 0, 0, 0, []⟩,
  ⟨0x2A03, 0x2A03, 0x0B, 0x0B, 5, 8, 0, .ro, 1, 0, 0, 0, []⟩,
  ⟨0x2A10, 0x2A10, 0x00, 0x00, 12, 120, 9, .act, 0, 3, 0, 0, []⟩,
  ⟨0x2A11, 0x2A11, 0x00, 0x00, 12, 4, 4, .act, 0, 1, 0, 0, []⟩,
  ⟨0x2A12, 0x2A12, 0x00, 0x00, 12, 4, 4, .act, 0, 3, 0, 0, []⟩,
  ⟨0x2A13, 0x2A13, 0x00, 0x00, 12, 8, 9, .act, 0, 3, 0, 0, []⟩,
  ⟨0x2A14, 0x2A14, 0x00, 0x00, 12, 0, 0, .act, 0, 3, 0, 0, []⟩,
  ⟨0x2B00, 0x2B00, 0x01, 0x01, 2, 1, 0, .rwp, 1, 3, 5, 50, beBytes 1 10⟩,
  ⟨0x2B00, 0x2B00, 0x02, 0x02, 4, 4, 0, .rwp, 1, 3, 0, 65536, beBytes 4 4096⟩,
  ⟨0x2B00, 0x2B00, 0x03, 0x03, 4, 4, 0, .rwp, 1, 3, 256, 4096, beBytes 4 512⟩]

/-- Objects HostOverflowThreshold to RxDiscardNotReady of the object tables. -/
def objRows7 : List ObjRow := [
  ⟨0x2B00, 0x2B00, 0x04, 0x04, 4, 4, 0, .rwp, 1, 3, 16, 65536, beBytes 4 1024⟩,
  ⟨0x2B00, 0x2B00, 0x05, 0x05, 4, 4, 0, .rwp, 1, 3, 256, 65536, beBytes 4 2048⟩,
  ⟨0x2B00, 0x2B00, 0x06, 0x06, 4, 4, 0, .rwp, 1, 3, 0, 65536, beBytes 4 1966⟩,
  ⟨0x2B01, 0x2B01, 0x01, 0x04, 9, 1024, 0, .rwp, 1, 3, 0, 0, repeatBytes 512 [0, 64]⟩,
  ⟨0x2B02, 0x2B02, 0x01, 0x04, 4, 4, 0, .ro, 1, 0, 0, 0, []⟩,
  ⟨0x2B03, 0x2B03, 0x01, 0x04, 4, 4, 0, .ro, 1, 0, 0, 0, []⟩,
  ⟨0x2B04, 0x2B04, 0x01, 0x04, 4, 4, 0, .ro, 1, 0, 0, 0, []⟩,
  ⟨0x2B05, 0x2B05, 0x01, 0x01, 5, 8, 0, .ro, 1, 0, 0, 0, []⟩,
  ⟨0x2B05, 0x2B05, 0x02, 0x02, 5, 8, 0, .ro, 1, 0, 0, 0, []⟩,
  ⟨0x2B05, 0x2B05, 0x03, 0x03, 5, 8, 0, .ro, 1, 0, 0, 0, []⟩,
  ⟨0x2B05, 0x2B05, 0x04, 0x04, 5, 8, 0, .ro, 1, 0, 0, 0, []⟩,
  ⟨0x2B05, 0x2B05, 0x05, 0x05, 5, 8, 0, .ro, 1, 0, 0, 0, []⟩,
  ⟨0x2B05, 0x2B05, 0x06, 0x06, 5, 8, 0, .ro, 1, 0, 0, 0, []⟩,
  ⟨0x2B05, 0x2B05, 0x07, 0x07, 5, 8, 0, .ro, 1, 0, 0, 0, []⟩,
  ⟨0x2B05, 0x2B05, 0x08, 0x08, 5, 8, 0, .ro, 1, 0, 0, 0, []⟩,
  ⟨0x2B05, 0x2B05, 0x09, 0x09, 4, 4, 0, .ro, 1, 0, 0, 0, []⟩,
  ⟨0x2B06, 0x2B06, 0x01, 0x01, 9, 12, 0, .ro, 1, 0, 0, 0, []⟩,
  ⟨0x2B06, 0x2B06, 0x02, 0x02, 9, 12, 0, .ro, 1, 0, 0, 0, []⟩,
  ⟨0x2B10, 0x2B10, 0x00, 0x00, 12, 2, 3, .act, 0, 1, 0, 0, []⟩,
  ⟨0x2B11, 0x2B11, 0x00, 0x00, 12, 2, 3, .act, 0, 1, 0, 0, []⟩,
  ⟨0x2B12, 0x2B12, 0x00, 0x00, 12, 0, 0, .act, 0, 2, 0, 0, []⟩,
  ⟨0x3000, 0x3FFF, 0x01, 0x01, 2, 1, 0, .ro, 1, 0, 0, 0, []⟩,
  ⟨0x3000, 0x3FFF, 0x02, 0x02, 3, 2, 0, .rw, 1, 3, 0, 1024, beBytes 2 0⟩,
  ⟨0x3000, 0x3FFF, 0x03, 0x03, 3, 2, 0, .rw, 1, 3, 1, 2048, beBytes 2 1⟩,
  ⟨0x3000, 0x3FFF, 0x04, 0x04, 3, 2, 0, .rw, 1, 3, 0, 8192, beBytes 2 0⟩,
  ⟨0x3000, 0x3FFF, 0x05, 0x05, 3, 2, 0, .rw, 1, 3, 0, 4096, zeros 2⟩,
  ⟨0x3000, 0x3FFF, 0x06, 0x06, 3, 2, 0, .rw, 1, 3, 0, 1024, zeros 2⟩,
  ⟨0x3000, 0x3FFF, 0x07, 0x07, 4, 4, 0, .rw, 1, 3, 0, 65536, zeros 4⟩,
  ⟨0x3000, 0x3FFF, 0x08, 0x08, 3, 2, 0, .rw, 1, 3, 0, 1024, zeros 2⟩,
  ⟨0x3000, 0x3FFF, 0x09, 0x09, 9, 16, 0, .rw, 1, 3, 0, 0, zeros 16⟩,
  ⟨0x3000, 0x3FFF, 0x0A, 0x0A, 3, 2, 0, .rw, 1, 3, 1, 65535, beBytes 2 1⟩,
  ⟨0x3000, 0x3FFF, 0x0B, 0x0B, 1, 1, 0, .rw, 1, 3, 0, 1, beBytes 1 1⟩,
  ⟨0x3000, 0x3FFF, 0x0C, 0x0C, 2, 1, 0, .rw, 1, 3, 0, 1, zeros 1⟩,
  ⟨0x3000, 0x3FFF, 0x10, 0x10, 12, 0, 0, .act, 0, 3, 0, 0, []⟩,
  ⟨0x3000, 0x3FFF, 0x11, 0x11, 12, 0, 0, .act, 0, 3, 0, 0, []⟩,
  ⟨0x3000, 0x3FFF, 0x12, 0x12, 12, 0, 0, .act, 0, 3, 0, 0, []⟩,
  ⟨0x3000, 0x3FFF, 0x20, 0x20, 4, 4, 0, .ro, 1, 0, 0, 0, []⟩,
  ⟨0x3000, 0x3FFF, 0x21, 0x21, 3, 2, 0, .ro, 1, 0, 0, 0, []⟩,
  ⟨0x3000, 0x3FFF, 0x22, 0x22, 9, 36, 0, .ro, 1, 0, 0, 0, []⟩,
  ⟨0x3000, 0x3FFF, 0x23, 0x23, 5, 8, 0, .ro, 1, 0, 0, 0, []⟩]

/-- Objects FaultCount to QueueStatusRead of the object tables. -/
def objRows8 : List ObjRow := [
  ⟨0x3000, 0x3FFF, 0x24, 0x24, 5, 8, 0, .ro, 1, 0, 0, 0, []⟩,
  ⟨0x3000, 0x3FFF, 0x25, 0x25, 9, 4, 0, .ro, 1, 0, 0, 0, []⟩,
  ⟨0x4000, 0x4000, 0x01, 0x01, 1, 1, 0, .rwp, 1, 3, 0, 1, zeros 1⟩,
  ⟨0x4000, 0x4000, 0x02, 0x02, 4, 4, 0, .rwp, 1, 3, 10, 10000, beBytes 4 1000⟩,
  ⟨0x4001, 0x4001, 0x01, 0x01, 2, 1, 0, .ro, 1, 0, 0, 0, []⟩,
  ⟨0x4001, 0x4001, 0x02, 0x02, 2, 1, 0, .ro, 1, 0, 0, 0, []⟩,
  ⟨0x4001, 0x4001, 0x03, 0x03, 2, 1, 0, .ro, 1, 0, 0, 0, []⟩,
  ⟨0x4001, 0x4001, 0x04, 0x04, 1, 1, 0, .ro, 1, 0, 0, 0, []⟩,
  ⟨0x4002, 0x4002, 0x01, 0x01, 5, 8, 0, .ro, 1, 0, 0, 0, []⟩,
  ⟨0x4002, 0x4002, 0x02, 0x02, 5, 8, 0, .ro, 1, 0, 0, 0, []⟩,
  ⟨0x4002, 0x4002, 0x03, 0x03, 3, 2, 0, .ro, 1, 0, 0, 0, []⟩,
  ⟨0x4002, 0x4002, 0x04, 0x04, 5, 8, 0, .ro, 1, 0, 0, 0, []⟩,
  ⟨0x4002, 0x4002, 0x05, 0x05, 5, 8, 0, .ro, 1, 0, 0, 0, []⟩,
  ⟨0x4002, 0x4002, 0x06, 0x06, 5, 8, 0, .ro, 1, 0, 0, 0, []⟩,
  ⟨0x4002, 0x4002, 0x07, 0x07, 5, 8, 0, .ro, 1, 0, 0, 0, []⟩,
  ⟨0x4002, 0x4002, 0x08, 0x08, 5, 8, 0, .ro, 1, 0, 0, 0, []⟩,
  ⟨0x4002, 0x4002, 0x09, 0x09, 5, 8, 0, .ro, 1, 0, 0, 0, []⟩,
  ⟨0x4002, 0x4002, 0x0A, 0x0A, 5, 8, 0, .ro, 1, 0, 0, 0, []⟩,
  ⟨0x4002, 0x4002, 0x0B, 0x0B, 5, 8, 0, .ro, 1, 0, 0, 0, []⟩,
  ⟨0x4002, 0x4002, 0x0C, 0x0C, 5, 8, 0, .ro, 1, 0, 0, 0, []⟩,
  ⟨0x4010, 0x4010, 0x00, 0x00, 12, 2, 3, .act, 0, 1, 0, 0, []⟩,
  ⟨0x4080, 0x4080, 0x01, 0x01, 4, 4, 0, .ro, 1, 0, 0, 0, []⟩,
  ⟨0x4080, 0x4080, 0x02, 0x02, 4, 4, 0, .ro, 1, 0, 0, 0, []⟩,
  ⟨0x4080, 0x4080, 0x03, 0x03, 4, 4, 0, .ro, 1, 0, 0, 0, []⟩,
  ⟨0x4080, 0x4080, 0x04, 0x04, 4, 4, 0, .ro, 1, 0, 0, 0, []⟩,
  ⟨0x4080, 0x4080, 0x05, 0x05, 4, 4, 0, .ro, 1, 0, 0, 0, []⟩,
  ⟨0x4080, 0x4080, 0x06, 0x06, 4, 4, 0, .ro, 1, 0, 0, 0, []⟩,
  ⟨0x4080, 0x4080, 0x07, 0x07, 4, 4, 0, .ro, 1, 0, 0, 0, []⟩,
  ⟨0x4080, 0x4080, 0x08, 0x08, 3, 2, 0, .ro, 1, 0, 0, 0, []⟩,
  ⟨0x4080, 0x4080, 0x09, 0x09, 3, 2, 0, .ro, 1, 0, 0, 0, []⟩,
  ⟨0x4081, 0x4081, 0x00, 0x00, 9, 512, 0, .ro, 1, 0, 0, 0, []⟩,
  ⟨0x4082, 0x4082, 0x00, 0x00, 12, 2, 3, .act, 0, 2, 0, 0, []⟩,
  ⟨0x4083, 0x4083, 0x00, 0x00, 12, 8, 9, .act, 0, 3, 0, 0, []⟩,
  ⟨0x4084, 0x4084, 0x00, 0x00, 12, 2, 3, .act, 0, 1, 0, 0, []⟩,
  ⟨0x4085, 0x4085, 0x00, 0x00, 5, 8, 0, .ro, 1, 0, 0, 0, []⟩,
  ⟨0x4090, 0x4090, 0x01, 0x01, 5, 8, 0, .ro, 1, 0, 0, 0, []⟩,
  ⟨0x4090, 0x4090, 0x02, 0x02, 5, 8, 0, .ro, 1, 0, 0, 0, []⟩,
  ⟨0x4090, 0x4090, 0x03, 0x03, 5, 8, 0, .ro, 1, 0, 0, 0, []⟩,
  ⟨0x4090, 0x4090, 0x04, 0x04, 4, 4, 0, .ro, 1, 0, 0, 0, []⟩,
  ⟨0x4091, 0x4091, 0x00, 0x00, 12, 4, 9, .act, 0, 1, 0, 0, []⟩]

/-- Objects CipherJournalCores to SiphonAccessRefused of the object tables. -/
def objRows9 : List ObjRow := [
  ⟨0x4100, 0x4100, 0x01, 0x01, 3, 2, 0, .rwp, 1, 3, 0, 64, beBytes 2 8⟩,
  ⟨0x4100, 0x4100, 0x02, 0x02, 3, 2, 0, .rwp, 1, 3, 0, 128, beBytes 2 16⟩,
  ⟨0x4100, 0x4100, 0x03, 0x03, 3, 2, 0, .rwp, 1, 3, 1, 65535, beBytes 2 64⟩,
  ⟨0x4100, 0x4100, 0x04, 0x04, 3, 2, 0, .rwp, 1, 3, 1, 65535, beBytes 2 64⟩,
  ⟨0x4101, 0x4101, 0x01, 0x01, 3, 2, 0, .ro, 1, 0, 0, 0, []⟩,
  ⟨0x4101, 0x4101, 0x02, 0x02, 5, 8, 0, .ro, 1, 0, 0, 0, []⟩,
  ⟨0x4101, 0x4101, 0x03, 0x03, 5, 8, 0, .ro, 1, 0, 0, 0, []⟩,
  ⟨0x4101, 0x4101, 0x04, 0x04, 5, 8, 0, .ro, 1, 0, 0, 0, []⟩,
  ⟨0x4101, 0x4101, 0x05, 0x05, 5, 8, 0, .ro, 1, 0, 0, 0, []⟩,
  ⟨0x4101, 0x4101, 0x06, 0x06, 5, 8, 0, .ro, 1, 0, 0, 0, []⟩,
  ⟨0x4101, 0x4101, 0x07, 0x07, 4, 4, 0, .ro, 1, 0, 0, 0, []⟩,
  ⟨0x4110, 0x4110, 0x00, 0x00, 12, 4, 9, .act, 0, 1, 0, 0, []⟩,
  ⟨0x4200, 0x4200, 0x01, 0x01, 3, 2, 0, .rwp, 1, 3, 1024, 65535, beBytes 2 29318⟩,
  ⟨0x4200, 0x4200, 0x02, 0x02, 9, 64, 0, .rwp, 1, 3, 0, 0, zeros 64⟩,
  ⟨0x4200, 0x4200, 0x03, 0x03, 2, 1, 0, .rwp, 1, 3, 1, 64, beBytes 1 4⟩,
  ⟨0x4200, 0x4200, 0x04, 0x04, 3, 2, 0, .rwp, 1, 3, 1, 100, beBytes 2 4⟩,
  ⟨0x4200, 0x4200, 0x05, 0x05, 2, 1, 0, .rwp, 1, 3, 3, 64, beBytes 1 16⟩,
  ⟨0x4200, 0x4200, 0x06, 0x06, 4, 4, 0, .rwp, 1, 3, 20, 100000, beBytes 4 100⟩,
  ⟨0x4200, 0x4200, 0x07, 0x07, 4, 4, 0, .rwp, 1, 3, 100, 1000000, beBytes 4 10000⟩,
  ⟨0x4200, 0x4200, 0x08, 0x08, 2, 1, 0, .rwp, 1, 3, 1, 15, beBytes 1 7⟩,
  ⟨0x4200, 0x4200, 0x09, 0x09, 2, 1, 0, .rwp, 1, 3, 2, 64, beBytes 1 8⟩,
  ⟨0x4200, 0x4200, 0x0A, 0x0A, 4, 4, 0, .rwp, 1, 3, 1, 10000, beBytes 4 10⟩,
  ⟨0x4200, 0x4200, 0x0B, 0x0B, 4, 4, 0, .rwp, 1, 3, 1, 10000, beBytes 4 10⟩,
  ⟨0x4201, 0x4201, 0x01, 0x01, 1, 1, 0, .rwp, 1, 3, 0, 1, beBytes 1 1⟩,
  ⟨0x4201, 0x4201, 0x02, 0x02, 3, 2, 0, .rwp, 1, 3, 1, 100, beBytes 2 4⟩,
  ⟨0x4201, 0x4201, 0x03, 0x03, 4, 4, 0, .rwp, 1, 3, 1, 65536, beBytes 4 4096⟩,
  ⟨0x4201, 0x4201, 0x04, 0x04, 3, 2, 0, .rwp, 1, 3, 1, 10000, beBytes 2 40⟩,
  ⟨0x4201, 0x4201, 0x05, 0x05, 3, 2, 0, .rwp, 1, 3, 1, 10000, beBytes 2 40⟩,
  ⟨0x4201, 0x4201, 0x06, 0x06, 2, 1, 0, .rwp, 1, 3, 0, 16, beBytes 1 4⟩,
  ⟨0x4201, 0x4201, 0x07, 0x07, 4, 4, 0, .rwp, 1, 3, 1000, 10000000, beBytes 4 25000⟩,
  ⟨0x4201, 0x4201, 0x08, 0x08, 2, 1, 0, .rwp, 1, 3, 1, 64, beBytes 1 16⟩,
  ⟨0x4201, 0x4201, 0x09, 0x09, 4, 4, 0, .rwp, 1, 3, 1000, 1000000, beBytes 4 20000⟩,
  ⟨0x4202, 0x4202, 0x00, 0x00, 9, 32, 0, .ro, 1, 0, 0, 0, []⟩,
  ⟨0x4203, 0x4203, 0x01, 0x01, 5, 8, 0, .ro, 1, 0, 0, 0, []⟩,
  ⟨0x4203, 0x4203, 0x02, 0x02, 5, 8, 0, .ro, 1, 0, 0, 0, []⟩,
  ⟨0x4203, 0x4203, 0x03, 0x03, 5, 8, 0, .ro, 1, 0, 0, 0, []⟩,
  ⟨0x4203, 0x4203, 0x04, 0x04, 5, 8, 0, .ro, 1, 0, 0, 0, []⟩,
  ⟨0x4203, 0x4203, 0x05, 0x05, 5, 8, 0, .ro, 1, 0, 0, 0, []⟩,
  ⟨0x4203, 0x4203, 0x06, 0x06, 5, 8, 0, .ro, 1, 0, 0, 0, []⟩,
  ⟨0x4203, 0x4203, 0x07, 0x07, 5, 8, 0, .ro, 1, 0, 0, 0, []⟩]

/-- Objects SiphonNakSent to NamespaceCreate of the object tables. -/
def objRows10 : List ObjRow := [
  ⟨0x4203, 0x4203, 0x08, 0x08, 5, 8, 0, .ro, 1, 0, 0, 0, []⟩,
  ⟨0x4203, 0x4203, 0x09, 0x09, 5, 8, 0, .ro, 1, 0, 0, 0, []⟩,
  ⟨0x4203, 0x4203, 0x0A, 0x0A, 5, 8, 0, .ro, 1, 0, 0, 0, []⟩,
  ⟨0x4203, 0x4203, 0x0B, 0x0B, 5, 8, 0, .ro, 1, 0, 0, 0, []⟩,
  ⟨0x4203, 0x4203, 0x0C, 0x0C, 5, 8, 0, .ro, 1, 0, 0, 0, []⟩,
  ⟨0x4203, 0x4203, 0x0D, 0x0D, 5, 8, 0, .ro, 1, 0, 0, 0, []⟩,
  ⟨0x4203, 0x4203, 0x0E, 0x0E, 5, 8, 0, .ro, 1, 0, 0, 0, []⟩,
  ⟨0x4210, 0x4210, 0x00, 0x00, 12, 4, 9, .act, 0, 1, 0, 0, []⟩,
  ⟨0x4300, 0x4300, 0x01, 0x01, 2, 1, 0, .rwp, 1, 3, 0, 1, zeros 1⟩,
  ⟨0x4300, 0x4300, 0x02, 0x02, 4, 4, 0, .rwp, 1, 3, 1, 8, beBytes 4 8⟩,
  ⟨0x4300, 0x4300, 0x03, 0x03, 4, 4, 0, .rwp, 1, 3, 100, 6000, beBytes 4 2000⟩,
  ⟨0x4300, 0x4300, 0x04, 0x04, 2, 1, 0, .ro, 1, 0, 0, 0, []⟩,
  ⟨0x4300, 0x4300, 0x05, 0x05, 4, 4, 0, .ro, 1, 0, 0, 0, []⟩,
  ⟨0x4300, 0x4300, 0x10, 0x10, 5, 8, 0, .ro, 1, 0, 0, 0, []⟩,
  ⟨0x4300, 0x4300, 0x11, 0x11, 5, 8, 0, .ro, 1, 0, 0, 0, []⟩,
  ⟨0x4300, 0x4300, 0x12, 0x12, 5, 8, 0, .ro, 1, 0, 0, 0, []⟩,
  ⟨0x4300, 0x4300, 0x13, 0x13, 5, 8, 0, .ro, 1, 0, 0, 0, []⟩,
  ⟨0x4300, 0x4300, 0x14, 0x14, 5, 8, 0, .ro, 1, 0, 0, 0, []⟩,
  ⟨0x4300, 0x4300, 0x15, 0x15, 5, 8, 0, .ro, 1, 0, 0, 0, []⟩,
  ⟨0x4300, 0x4300, 0x16, 0x16, 5, 8, 0, .ro, 1, 0, 0, 0, []⟩,
  ⟨0x4301, 0x4302, 0x01, 0x01, 2, 1, 0, .ro, 1, 0, 0, 0, []⟩,
  ⟨0x4301, 0x4302, 0x02, 0x02, 2, 1, 0, .ro, 1, 0, 0, 0, []⟩,
  ⟨0x4301, 0x4302, 0x03, 0x03, 9, 16, 0, .ro, 1, 0, 0, 0, []⟩,
  ⟨0x4301, 0x4302, 0x04, 0x04, 5, 8, 0, .ro, 1, 0, 0, 0, []⟩,
  ⟨0x4301, 0x4302, 0x05, 0x05, 5, 8, 0, .ro, 1, 0, 0, 0, []⟩,
  ⟨0x4301, 0x4302, 0x06, 0x06, 5, 8, 0, .ro, 1, 0, 0, 0, []⟩,
  ⟨0x4301, 0x4302, 0x07, 0x07, 2, 1, 0, .ro, 1, 0, 0, 0, []⟩,
  ⟨0x4301, 0x4302, 0x08, 0x08, 9, 8192, 0, .ro, 1, 0, 0, 0, []⟩,
  ⟨0x4301, 0x4302, 0x09, 0x09, 12, 0, 0, .act, 0, 2, 0, 0, []⟩,
  ⟨0x4301, 0x4302, 0x0A, 0x0A, 12, 1, 2, .act, 0, 2, 0, 0, []⟩,
  ⟨0x4301, 0x4302, 0x0B, 0x0B, 9, 8, 0, .ro, 1, 0, 0, 0, []⟩,
  ⟨0x4301, 0x4302, 0x0C, 0x0C, 12, 0, 0, .act, 0, 3, 0, 0, []⟩,
  ⟨0x4301, 0x4302, 0x0D, 0x0D, 2, 1, 0, .ro, 1, 0, 0, 0, []⟩,
  ⟨0x4301, 0x4302, 0x0E, 0x0E, 2, 1, 0, .ro, 1, 0, 0, 0, []⟩,
  ⟨0x4301, 0x4302, 0x10, 0x10, 5, 8, 0, .ro, 1, 0, 0, 0, []⟩,
  ⟨0x4301, 0x4302, 0x11, 0x11, 5, 8, 0, .ro, 1, 0, 0, 0, []⟩,
  ⟨0x4301, 0x4302, 0x12, 0x12, 5, 8, 0, .ro, 1, 0, 0, 0, []⟩,
  ⟨0x4301, 0x4302, 0x13, 0x13, 5, 8, 0, .ro, 1, 0, 0, 0, []⟩,
  ⟨0x4301, 0x4302, 0x14, 0x14, 5, 8, 0, .ro, 1, 0, 0, 0, []⟩,
  ⟨0x4310, 0x4310, 0x00, 0x00, 12, 100, 9, .act, 0, 3, 0, 0, []⟩]

/-- Objects NamespaceDelete to NamespaceFormat of the object tables. -/
def objRows11 : List ObjRow := [
  ⟨0x4311, 0x4311, 0x00, 0x00, 12, 2, 3, .act, 0, 3, 0, 0, []⟩,
  ⟨0x4312, 0x4312, 0x00, 0x00, 12, 2, 3, .act, 0, 1, 0, 0, []⟩,
  ⟨0x4313, 0x4313, 0x00, 0x00, 12, 6, 9, .act, 0, 3, 0, 0, []⟩,
  ⟨0x4314, 0x4314, 0x00, 0x00, 12, 2, 3, .act, 0, 3, 0, 0, []⟩,
  ⟨0x4315, 0x4315, 0x00, 0x00, 12, 90, 9, .act, 0, 3, 0, 0, []⟩,
  ⟨0x4316, 0x4316, 0x00, 0x00, 12, 2, 3, .act, 0, 3, 0, 0, []⟩]

/-- Every object of the dictionary but the type definitions and the subindices 0 of records. -/
def objRows : List ObjRow :=
  objRows0 ++ objRows1 ++ objRows2 ++ objRows3 ++ objRows4 ++ objRows5 ++ objRows6 ++ objRows7 ++ objRows8 ++ objRows9 ++ objRows10 ++ objRows11

/-- Table 10.1: the defaults of the staged counts differ for polder 0. -/
def polder0Default (sub : Nat) : Option Bytes :=
  if sub = 2 then some (beBytes 2 64)
  else if sub = 3 then some (beBytes 2 64)
  else if sub = 4 then some (beBytes 2 128)
  else none

/-- The rows of an index. -/
def objRowsAt (idx : Nat) : List ObjRow :=
  objRows.filter (fun r => decide (r.first ≤ idx ∧ idx ≤ r.last))

/-- Is the index allocated (spec 02 R54)? The type definitions stand at their codes (R55). -/
def objKnown (idx : Nat) : Bool := decide (1 ≤ idx ∧ idx ≤ 12) || !(objRowsAt idx).isEmpty

/-- The description of a value, or none where the object lacks the subindex (spec 02 R46, R55). -/
def objDesc (idx sub : Nat) : Option ObjRow :=
  let rows := objRowsAt idx
  if 1 ≤ idx ∧ idx ≤ 12 then
    if sub = 0 then some ⟨idx, idx, 0, 0, 2, 1, 0, .ro, 1, 0, 0, 0, []⟩ else none
  else match rows.find? (fun r => decide (r.subFirst ≤ sub ∧ sub ≤ r.subLast)) with
  | some r => some (if idx = 0x3000 then { r with dflt := (polder0Default sub).getD r.dflt } else r)
  | none =>
    if sub = 0 ∧ !rows.isEmpty then some ⟨idx, idx, 0, 0, 2, 1, 0, .ro, 1, 0, 0, 0, []⟩ else none

/-- The highest subindex in use: the value of a record's subindex 0 (spec 02 R46). -/
def objHighest (idx : Nat) : Nat := (objRowsAt idx).foldl (fun m r => max m r.subLast) 0

/-- The key under which the dictionary holds a value: index and subindex together. -/
def objKey (idx sub : Nat) : Nat := idx * 256 + sub

/-- The default of a value. -/
def objDefault (idx sub : Nat) : Bytes := ((objDesc idx sub).map (·.dflt)).getD []

end Sys2Proof.Machine
end

