-- ==== Sys2Proof/Machine/Ops.lean ====
section
/-! DEFINITION. The named operations every chapter shares: time, free values, what leaves the part,
the running values of the dictionary, counters, events and interrupts, writes to memory. -/

namespace Sys2Proof.Machine

/-! ### One block changes -/

def modBoard (f : Board → Board) (s : State) : State := { s with board := f s.board }
def modBoot (f : Boot → Boot) (s : State) : State := { s with boot := f s.boot }
def modDict (f : Dict → Dict) (s : State) : State := { s with dict := f s.dict }
def modMbx (f : Mailbox → Mailbox) (s : State) : State := { s with mbx := f s.mbx }
def modTime (f : TimeBase → TimeBase) (s : State) : State := { s with time := f s.time }
def modCls (f : Classifier → Classifier) (s : State) : State := { s with cls := f s.cls }
def modTables (f : Tables → Tables) (s : State) : State := { s with tables := f s.tables }
def modFlow (f : Flow → Flow) (s : State) : State := { s with flow := f s.flow }
def modBuf (f : Buffers → Buffers) (s : State) : State := { s with buf := f s.buf }
def modSched (f : Sched → Sched) (s : State) : State := { s with sched := f s.sched }
def modEp (f : Endpoint → Endpoint) (s : State) : State := { s with ep := f s.ep }
def modPolders (f : Polders → Polders) (s : State) : State := { s with polders := f s.polders }
def modCipher (f : Cipher → Cipher) (s : State) : State := { s with cipher := f s.cipher }
def modSiphon (f : Siphon → Siphon) (s : State) : State := { s with siphon := f s.siphon }
def modJrn (f : Journal → Journal) (s : State) : State := { s with jrn := f s.jrn }
def modEvt (f : Events → Events) (s : State) : State := { s with evt := f s.evt }
def modTest (f : SelfTest → SelfTest) (s : State) : State := { s with test := f s.test }
def modCulv (f : Culverts → Culverts) (s : State) : State := { s with culv := f s.culv }

/-! ### Records by number -/

def State.port (s : State) (p : Nat) : Port := Tab.get Port.reset s.ports p
def State.setPort (s : State) (p : Nat) (x : Port) : State :=
  { s with ports := Tab.set Port.reset s.ports p x }
def State.psched (s : State) (p : Nat) : PortSched := Tab.get PortSched.reset s.sched.ports p
def State.setPsched (s : State) (p : Nat) (x : PortSched) : State :=
  modSched (fun b => { b with ports := Tab.set PortSched.reset b.ports p x }) s
def State.func (s : State) (n : Nat) : Func := Tab.get Func.reset s.ep.funcs n
def State.setFunc (s : State) (n : Nat) (x : Func) : State :=
  modEp (fun b => { b with funcs := Tab.set Func.reset b.funcs n x }) s
def State.polder (s : State) (n : Nat) : Polder := Tab.get Polder.reset s.polders.tab n
def State.setPolder (s : State) (n : Nat) (x : Polder) : State :=
  modPolders (fun b => { b with tab := Tab.set Polder.reset b.tab n x }) s

/-- Queues are keyed by function and local number (spec 10 R339). -/
def qKey (fn q : Nat) : Nat := fn * 1024 + q

def State.queue (s : State) (fn q : Nat) : Queue := Tab.get Queue.reset s.wq.queues (qKey fn q)
def State.setQueue (s : State) (fn q : Nat) (x : Queue) : State :=
  { s with wq := { s.wq with queues := Tab.set Queue.reset s.wq.queues (qKey fn q) x } }
def State.session (s : State) (n : Nat) : Session := Tab.get Session.reset s.dict.sessions n
def State.setSession (s : State) (n : Nat) (x : Session) : State :=
  modDict (fun b => { b with sessions := Tab.set Session.reset b.sessions n x }) s
def State.frerAt (s : State) (i : Nat) : Frer := Tab.get Frer.reset s.frer i
def State.setFrer (s : State) (i : Nat) (x : Frer) : State :=
  { s with frer := Tab.set Frer.reset s.frer i x }
def State.bufDie (s : State) (d : Nat) : BufDie := Tab.get BufDie.reset s.buf.dies d
def State.setBufDie (s : State) (d : Nat) (x : BufDie) : State :=
  modBuf (fun b => { b with dies := Tab.set BufDie.reset b.dies d x }) s
def State.flowDie (s : State) (d : Nat) : FlowDie := Tab.get FlowDie.reset s.flow.dies d
def State.setFlowDie (s : State) (d : Nat) (x : FlowDie) : State :=
  modFlow (fun b => { b with dies := Tab.set FlowDie.reset b.dies d x }) s
def State.ctx (s : State) (c : Nat) : Ctx := Tab.get Ctx.reset s.flow.ctxs c
def State.setCtx (s : State) (c : Nat) (x : Ctx) : State :=
  modFlow (fun b => { b with ctxs := Tab.set Ctx.reset b.ctxs c x }) s
def State.htx (s : State) (d : Nat) : HtxSched := Tab.get HtxSched.reset s.sched.htx d
def State.setHtx (s : State) (d : Nat) (x : HtxSched) : State :=
  modSched (fun b => { b with htx := Tab.set HtxSched.reset b.htx d x }) s

/-- Weirs of the four field dies share one table, 16,384 per die (spec 08 R280). -/
def weirKey (die w : Nat) : Nat := die * 16384 + w
def State.weir (s : State) (die w : Nat) : Weir := Tab.get Weir.reset s.sched.weirs (weirKey die w)
def State.setWeir (s : State) (die w : Nat) (x : Weir) : State :=
  modSched (fun b => { b with weirs := Tab.set Weir.reset b.weirs (weirKey die w) x }) s
def State.filterAt (s : State) (h : Nat) : StreamFilter := Tab.get StreamFilter.reset s.sched.filters h
def State.setFilter (s : State) (h : Nat) (x : StreamFilter) : State :=
  modSched (fun b => { b with filters := Tab.set StreamFilter.reset b.filters h x }) s
def State.channel (s : State) (g : Nat) : Channel := Tab.get Channel.reset s.siphon.channels g
def State.setChannel (s : State) (g : Nat) (x : Channel) : State :=
  modSiphon (fun b => { b with channels := Tab.set Channel.reset b.channels g x }) s
def State.region (s : State) (g : Nat) : Region := Tab.get Region.reset s.siphon.regions g
def State.setRegion (s : State) (g : Nat) (x : Region) : State :=
  modSiphon (fun b => { b with regions := Tab.set Region.reset b.regions g x }) s
def State.keySlot (s : State) (g : Nat) : KeySlot := Tab.get KeySlot.reset s.cipher.slots g
def State.setKeySlot (s : State) (g : Nat) (x : KeySlot) : State :=
  modCipher (fun b => { b with slots := Tab.set KeySlot.reset b.slots g x }) s
def State.cart (s : State) (i : Nat) : CartSlot := Tab.get CartSlot.reset s.jrn.slots i
def State.setCart (s : State) (i : Nat) (x : CartSlot) : State :=
  modJrn (fun b => { b with slots := Tab.set CartSlot.reset b.slots i x }) s
def State.space (s : State) (n : Nat) : Space := Tab.get Space.reset s.jrn.spaces n
def State.setSpace (s : State) (n : Nat) (x : Space) : State :=
  modJrn (fun b => { b with spaces := Tab.set Space.reset b.spaces n x }) s
def State.page (s : State) (n : Nat) : Page := Tab.get Page.reset s.evt.pages n
def State.setPage (s : State) (n : Nat) (x : Page) : State :=
  modEvt (fun b => { b with pages := Tab.set Page.reset b.pages n x }) s

/-- MSI-X entries are keyed by function and vector (spec 09 R308). -/
def msixKey (fn v : Nat) : Nat := fn * 2048 + v
def State.msix (s : State) (fn v : Nat) : MsixEntry := Tab.get MsixEntry.reset s.ep.msix (msixKey fn v)
def State.setMsix (s : State) (fn v : Nat) (x : MsixEntry) : State :=
  modEp (fun b => { b with msix := Tab.set MsixEntry.reset b.msix (msixKey fn v) x }) s

/-- The die, pipe and pipe of the die of a port (spec 00 R13). -/
def dieOf (port : Nat) : Nat := port / 128
def pipeOf (port : Nat) : Nat := port / 32

/-! ### Free values, output -/

/-- The next free number and the state past it (log entry 3). -/
def drawNat (s : State) : Nat × State := (Config.freeNat s.freeCtr, { s with freeCtr := s.freeCtr + 1 })

/-- The next free truth value. -/
def drawBool (s : State) : Bool × State := (Config.freeBool s.freeCtr, { s with freeCtr := s.freeCtr + 1 })

/-- `n` bytes of the security engine's random source. -/
def drawBytes (n : Nat) (s : State) : Bytes × State :=
  (Config.randomBytes s.freeCtr n, { s with freeCtr := s.freeCtr + 1 })

/-- Something leaves the part. -/
def emit (o : Out) (s : State) : State := { s with out := s.out ++ [o] }

/-- A fresh ticket. -/
def ticket (s : State) : Nat × State := (s.nextId, { s with nextId := s.nextId + 1 })

/-- Fold of state changes over a list. -/
def forEach {α : Type} (l : List α) (f : α → State → State) (s : State) : State :=
  l.foldl (fun st x => f x st) s

/-! ### Running values of the dictionary (spec 02 R56) -/

/-- A value's running bytes. -/
def cfg (s : State) (idx sub : Nat) : Bytes :=
  if Tab.has s.dict.vals (objKey idx sub) then Tab.get [] s.dict.vals (objKey idx sub)
  else objDefault idx sub

/-- The running value of an unsigned or BOOL object. -/
def cfgN (s : State) (idx sub : Nat) : Nat := beNat (cfg s idx sub)

/-- The running value of an I32 object. -/
def cfgI (s : State) (idx sub : Nat) : Int := signedOf 32 (cfgN s idx sub)

/-- Element `i`, of `len` bytes, of an OCTETS object. -/
def cfgAt (s : State) (idx sub len i : Nat) : Nat := beField (cfg s idx sub) (i * len) len

/-- Sets a running value; the default is not listed. -/
def setVal (idx sub : Nat) (v : Bytes) (s : State) : State :=
  modDict (fun d => { d with
    vals := if v = objDefault idx sub then Tab.del d.vals (objKey idx sub)
      else Tab.ins d.vals (objKey idx sub) v }) s

/-- Per-port settings of spec 03 Table 3.4. -/
def portMode (s : State) (p : Nat) : Nat := cfgN s (0x2000 + p) 1
def adminEnable (s : State) (p : Nat) : Bool := cfgN s (0x2000 + p) 2 == 1
def maxFrameSize (s : State) (p : Nat) : Nat := cfgN s (0x2000 + p) 5
def backupPort (s : State) (p : Nat) : Nat := cfgN s (0x2000 + p) 8

/-- Data rate of a port in kb/s (spec 03 Table 3.1). -/
def portRate (s : State) (p : Nat) : Nat :=
  match portMode s p with
  | 1 => 1000000
  | 2 => 1000000
  | 3 => 2500000
  | 4 => 10000000
  | 5 => 25000000
  | 6 => 100000000
  | _ => 0

/-! ### The time base (spec 03 R103, R106) -/

/-- The reading of the time base in units of 2^-16 ns. -/
def timeNow (s : State) : Nat := s.time.num / 10 ^ 18

/-- Units of 2^-16 ns in a second. -/
def unitsPerSec : Nat := 65536000000000

/-- TIME96 in network order (spec 02 Table 2.1). -/
def time96 (n : Nat) : Bytes :=
  beBytes 6 (n / unitsPerSec) ++ beBytes 4 (n / 65536 % 1000000000) ++ beBytes 2 (n % 65536)

/-- TIME96 in the host layout (spec 11 R372). -/
def time96Host (n : Nat) : Bytes := (time96 n).reverse

/-- The reading a TIME96 value spells. -/
def ofTime96 (b : Bytes) : Nat :=
  beField b 0 6 * unitsPerSec + beField b 6 4 * 65536 + beField b 10 2

/-! ### Occurrences: events, counts and interrupt messages (spec 16, 09 R312) -/

/-- What an occurrence can set off. -/
inductive Occ where
  | event (src : Nat)
  | count (ev n : Nat) (port tc polder : Option Nat)
  | msg (fn vec : Nat)
deriving DecidableEq, Repr

/-- Sources in use (spec 16 Table 16.1 to 16.4); a reserved source never sets its bit (R541). -/
def sourceInUse (n : Nat) : Bool :=
  decide (n ≤ 11) || decide (32 ≤ n ∧ n ≤ 51) || decide (64 ≤ n ∧ n ≤ 83)
  || decide (96 ≤ n ∧ n < 224 ∧ n % 32 ≤ 14)
  || decide (224 ≤ n ∧ n ≤ 226) || decide (256 ≤ n ∧ n ≤ 263) || decide (288 ≤ n ∧ n ≤ 292)
  || decide (320 ≤ n ∧ n ≤ 331) || decide (336 ≤ n ∧ n ≤ 346) || decide (352 ≤ n ∧ n ≤ 356)

/-- The in-use bits of a group: bits of reserved sources read as zero and ignore writes (R544). -/
def groupBits (g : Nat) : Nat :=
  (List.range 32).foldl (fun m i => if sourceInUse (32 * g + i) then bitSet m i else m) 0

def evtStat (s : State) (g : Nat) : Nat := (Tab.get 0#32 s.evt.stat g).toNat
def evtMask (s : State) (g : Nat) : Nat := (Tab.get 0#32 s.evt.mask g).toNat

def setEvtStat (g v : Nat) (s : State) : State :=
  modEvt (fun x => { x with stat := Tab.set 0#32 x.stat g (BitVec.ofNat 32 v) }) s

/-- Some unmasked status (spec 16 R547). -/
def evtPending (s : State) : Bool :=
  (List.range 16).any (fun g => decide (evtStat s g &&& evtMask s g ≠ 0))

/-- The rule of R547, evaluated once: at most one INTx message. -/
def intxEval (s : State) : State :=
  let f := s.func 0
  let want := evtPending s && !f.msixEnable && !f.intDisable && !f.d3hot && decide (s.ep.link = 2)
  if want && !s.ep.inta then
    emit (.intx true) (modEp (fun e => { e with inta := true }) s)
  else if !want && s.ep.inta then
    emit (.intx false) (modEp (fun e => { e with inta := false }) s)
  else s

/-- Does counter selection `sel` count an occurrence of `ev` with these qualifiers (spec 16 Table
16.6, R550)? -/
def selCounts (sel : Nat) (ev : Nat) (port tc polder : Option Nat) : Bool :=
  decide (bitsOf sel 11 0 = ev) && sel.testBit 12 && decide (ev ≠ 0) &&
  (match bitsOf sel 29 28 with
   | 0 => true
   | 1 => decide (port = some (bitsOf sel 24 16))
   | 2 => decide (port = some (bitsOf sel 27 16 / 8)) && decide (tc = some (bitsOf sel 27 16 % 8))
   | _ => decide (polder = some (bitsOf sel 27 16)))

/-- A 48-bit counter that meets `n` occurrences: its value, and whether it overflowed (R551). -/
def addCounter (value n : Nat) (freeze : Bool) : Nat × Bool :=
  if value + n < 2 ^ 48 then (value + n, false)
  else if freeze then (2 ^ 48 - 1, true)
  else ((value + n) % 2 ^ 48, true)

/-- Occurrences reach device counter `k`. -/
def countDevice (ev n : Nat) (port tc polder : Option Nat) (acc : State × List Occ) (e : Nat × DevCtr) :
    State × List Occ :=
  let sel := e.2.sel.toNat
  if acc.1.evt.freezeAll || !selCounts sel ev port tc polder || decide (n = 0) then acc
  else
    let r := addCounter e.2.value n (sel.testBit 13)
    let s := acc.1
    let c := { e.2 with value := r.1 }
    let s1 := modEvt (fun x => { x with ctrs := Tab.ins x.ctrs e.1 c }) s
    if r.2 then
      (modEvt (fun x => { x with
          ovf := Tab.upd 0#32 x.ovf (e.1 / 32)
            (fun w => BitVec.ofNat 32 (bitSet w.toNat (e.1 % 32))) }) s1,
       acc.2 ++ (if sel.testBit 14 then [Occ.event 11] else []))
    else (s1, acc.2)

/-- Occurrences reach counter `k` of a polder's page (spec 16 R553, R555). -/
def countPage (fn ev n : Nat) (acc : State × List Occ) (k : Nat) : State × List Occ :=
  let pg := acc.1.page fn
  match pg.sels[k]? with
  | none => acc
  | some sl =>
    if sl.enable && decide (sl.event = ev) && decide (n ≠ 0) then
      let r := addCounter (Tab.get 0 pg.values k) n sl.freeze
      let pg1 := { pg with
        values := Tab.set 0 pg.values k r.1
        ovf := if r.2 then bitSet pg.ovf k else pg.ovf }
      (acc.1.setPage fn pg1,
       acc.2 ++ (if r.2 && decide (pg.vector ≠ 0xFFFF) then [Occ.msg fn pg.vector] else []))
    else acc

/-- May the message of a vector be sent now (spec 09 R312, R315, R317)? -/
def msixOpen (s : State) (fn vec : Nat) : Bool :=
  let f := s.func fn
  f.busMaster && !f.msixMask && !(s.msix fn vec).masked && !f.d3hot && !f.flr && decide (s.ep.link = 2)

/-- One occurrence: its effect, and what it sets off. -/
def occurStep (o : Occ) (s : State) : State × List Occ :=
  match o with
  | .event n =>
    if sourceInUse n then
      let g := n / 32
      let was := (evtStat s g).testBit (n % 32)
      let s1 := setEvtStat g (bitSet (evtStat s g) (n % 32)) s
      let s2 := modEvt (fun x => { x with count := Tab.upd 0 x.count n (fun c => satAdd32 c 1) }) s1
      (intxEval s2,
       if !was && (evtMask s g).testBit (n % 32) && (s.func 0).msixEnable then
         [Occ.msg 0 (Tab.get 0 s.evt.vector g)] else [])
    else (s, [])
  | .count ev n port tc polder =>
    let r := s.evt.ctrs.foldl (countDevice ev n port tc polder) (s, [])
    match polder with
    | none => r
    | some fn => (List.range 8).foldl (countPage fn ev n) r
  | .msg fn vec =>
    if (s.func fn).msixEnable then
      if msixOpen s fn vec then
        (emit (.msix fn vec) s, [Occ.count 0x342 1 none none (some fn)])
      else (s.setMsix fn vec { s.msix fn vec with pending := true }, [])
    else (s, [])

/-- A list of occurrences with everything they set off; a frozen page counter that counts its own
overflow messages would go on without end, and is cut off (log entry 24). -/
def occur : Nat → List Occ → State → State
  | 0, _, s => s
  | _ + 1, [], s => s
  | k + 1, o :: rest, s =>
    let r := occurStep o s
    occur k (rest ++ r.2) r.1

/-- How many occurrences one command's occurrence may set off. -/
def occurFuel : Nat := 32

/-- Raises an event source (spec 16 R542). -/
def raise (n : Nat) (s : State) : State := occur occurFuel [.event n] s

/-- Counts `n` occurrences of an event number (spec 16 R548, R553). -/
def countEv (ev n : Nat) (port tc polder : Option Nat) (s : State) : State :=
  occur occurFuel [.count ev n port tc polder] s

/-- A source assigned to a vector fires (spec 09 R312). -/
def signal (fn vec : Nat) (s : State) : State := occur occurFuel [.msg fn vec] s

/-- Raises offset `k` of a field die's sources (spec 16 Table 16.3). -/
def raiseDie (die k : Nat) (s : State) : State := raise (96 + 32 * die + k) s

/-- Raises such an event for a port, which also sets the port's bit in PortEventMap (R543). -/
def raisePort (port k : Nat) (s : State) : State :=
  raiseDie (dieOf port) k
    (modEvt (fun x => { x with portMap := Tab.set false x.portMap port true }) s)

/-- Raises source `k` of a journal slot (spec 16 Table 16.4). -/
def raiseSlot (slot k : Nat) (s : State) : State := raise (320 + 16 * slot + k) s

/-! ### Counters of the dictionary -/

/-- The event number of a counter object (spec 16 Table 16.9); 0 where it has none. -/
def eventOf (idx sub : Nat) : Nat :=
  if 0x2000 ≤ idx ∧ idx < 0x2200 then 0x100 + (sub - 0x20)
  else if 0x2200 ≤ idx ∧ idx < 0x2400 then 0x125
  else if 0x3000 ≤ idx ∧ idx < 0x4000 then (if sub = 0x24 then 0x330 else 0x331)
  else if idx = 0x2802 then 0x140 + (sub - 1)
  else if idx = 0x2803 then 0x150 + (sub - 1)
  else if idx = 0x2806 then 0x160 + (sub - 1)
  else if idx = 0x2904 then 0x180 + (sub - 1)
  else if idx = 0x2A03 then 0x1A0 + (sub - 1)
  else if idx = 0x2B05 then (if sub ≤ 8 then 0x1C0 + (sub - 1) else 0)
  else if idx = 0x1110 then 0x200 + (sub - 1)
  else if idx = 0x4002 then 0x300 + (sub - 1)
  else if idx = 0x4090 then 0x320 + (sub - 1)
  else if idx = 0x4101 then 0x400 + (sub - 2)
  else if idx = 0x4203 then 0x480 + (sub - 1)
  else if idx = 0x4300 then 0x500 + (sub - 0x10)
  else if idx = 0x4301 then 0x510 + (sub - 0x10)
  else if idx = 0x4302 then 0x518 + (sub - 0x10)
  else if idx = 0x1430 then 0x600 + (sub - 2)
  else 0

/-- A counter object's value. -/
def counter (s : State) (idx sub : Nat) : Nat := Tab.get 0 s.dict.counters (objKey idx sub)

/-- The bare counter step: the object saturates. -/
def bumpObj (idx sub n : Nat) (s : State) : State :=
  modDict (fun d => { d with
    counters := Tab.upd 0 d.counters (objKey idx sub) (fun c => satAdd64 c n) }) s

/-- Counts `n` in a counter object, and its event with the qualifiers given. -/
def countQ (idx sub n : Nat) (port tc polder : Option Nat) (s : State) : State :=
  if n = 0 then s else countEv (eventOf idx sub) n port tc polder (bumpObj idx sub n s)

/-- Counts one, unqualified. -/
def count (idx sub : Nat) (s : State) : State := countQ idx sub 1 none none none s

/-- Counts for a port (the port's own object, spec 03 Table 3.4). -/
def countPort (port sub n : Nat) (s : State) : State :=
  countQ (0x2000 + port) sub n (some port) none none s

/-- Counts for a polder in a device-wide object. -/
def countFor (idx sub n polder : Nat) (s : State) : State := countQ idx sub n none none (some polder) s

/-- Counts in a polder's own object (spec 10 Table 10.3). -/
def countPolder (polder sub : Nat) (s : State) : State :=
  countQ (0x3000 + polder) sub 1 none none (some polder) s

/-! ### Copies in the boot flash (spec 02 R57, R80, 10 R342, R343, 15 R513, R514) -/

/-- One bit of a CRC-32C (the Castagnoli polynomial, reflected). -/
def crcBit (c : Nat) : Nat := if c.testBit 0 then c / 2 ^^^ 0x82F63B78 else c / 2

def crcByte (c : Nat) (b : Byte) : Nat :=
  crcBit (crcBit (crcBit (crcBit (crcBit (crcBit (crcBit (crcBit (c ^^^ b.toNat))))))))

/-- CRC-32C, the standard's function that the spec names. -/
def crc32c (b : Bytes) : Nat := b.foldl crcByte 0xFFFFFFFF ^^^ 0xFFFFFFFF

/-- Of two copies under the A/B rules, the place of the one that does not hold the higher valid counter, and
the counter it is written with. -/
def otherCopy {α : Type} (l : List α) (valid : α → Bool) (counter : α → Nat) : Nat × Nat :=
  match l with
  | [a, b] =>
    if valid a && (!valid b || decide (counter b ≤ counter a)) then (1, (counter a + 1) % 2 ^ 32)
    else if valid b then (0, (counter b + 1) % 2 ^ 32) else (0, 1)
  | _ => (0, 1)

/-- The valid copy with the higher counter. -/
def bestCopy {α : Type} (l : List α) (valid : α → Bool) (counter : α → Nat) : Option α :=
  (l.filter valid).foldl (fun best x => match best with
    | none => some x
    | some y => if counter y < counter x then some x else some y) none

/-- The stored values as a copy of the object store spells them (log entry 107). -/
def storePayload (vals : Tab Bytes) : Bytes :=
  vals.flatMap (fun e => beBytes 3 e.1 ++ beBytes 4 e.2.length ++ e.2)

def StoreCopy.make (counter : Nat) (vals : Tab Bytes) : StoreCopy where
  magic := 0x46445053
  counter := counter
  length := (storePayload vals).length
  crc := crc32c (storePayload vals)
  vals := vals

def StoreCopy.valid (c : StoreCopy) : Bool :=
  decide (c.magic = 0x46445053) && decide (c.crc = crc32c (storePayload c.vals))

/-- A copy of the object store as it stands in the flash: the header of R57, then the stored values. -/
def StoreCopy.bytes (c : StoreCopy) : Bytes :=
  beBytes 4 c.magic ++ beBytes 4 c.counter ++ beBytes 4 c.length ++ beBytes 4 c.crc ++ storePayload c.vals

def epochCrc (epoch wraps : Nat) : Nat := crc32c (beBytes 4 0x45504F43 ++ beBytes 4 epoch ++ beBytes 4 wraps)

def EpochCopy.make (epoch wraps : Nat) : EpochCopy where
  magic := 0x45504F43
  epoch := epoch
  wraps := wraps
  crc := epochCrc epoch wraps

def EpochCopy.valid (c : EpochCopy) : Bool :=
  decide (c.magic = 0x45504F43) && decide (c.crc = epochCrc c.epoch c.wraps)

def bcbCrc (counter slot : Nat) : Nat := crc32c (beBytes 4 0x424F4F54 ++ beBytes 4 counter ++ [byteOf slot, 0, 0, 0])

def BcbCopy.make (counter slot : Nat) : BcbCopy where
  magic := 0x424F4F54
  counter := counter
  slot := slot
  crc := bcbCrc counter slot

def BcbCopy.valid (c : BcbCopy) : Bool :=
  decide (c.magic = 0x424F4F54) && decide (c.crc = bcbCrc c.counter c.slot)

/-- The committed record of a polder as its copy spells it: the fields of R342 in their order, behind the
state (log entry 107). -/
def PolderRec.payload (r : PolderRec) : Bytes :=
  [byteOf r.state] ++ beBytes 2 r.counts.queues ++ beBytes 2 r.counts.vectors ++ beBytes 2 r.counts.keySlots
  ++ beBytes 2 r.counts.channels ++ beBytes 2 r.counts.domains ++ beBytes 4 r.counts.regions
  ++ beBytes 2 r.counts.namespaces ++ r.counts.minima.flatMap (beBytes 4)
  ++ beBytes 4 r.gen ++ beBytes 2 r.weight ++ [byteOf r.access, byteOf r.cls]

/-- A record with the header of its copy. -/
def PolderRec.seal (counter : Nat) (r : PolderRec) : PolderRec :=
  { r with magic := 0x504F4C44, counter := counter, length := r.payload.length, crc := crc32c r.payload }

def PolderRec.valid (r : PolderRec) : Bool :=
  decide (r.magic = 0x504F4C44) && decide (r.crc = crc32c r.payload)

/-- A copy of a polder's record as it stands in the flash (spec 15 Table 15.1). -/
def PolderRec.bytes (r : PolderRec) : Bytes :=
  beBytes 4 r.magic ++ beBytes 4 r.counter ++ beBytes 4 r.length ++ beBytes 4 r.crc ++ r.payload

/-- The two copies of a polder's record. -/
def Boot.areaCopies (b : Boot) (n : Nat) : List PolderRec :=
  [Tab.get PolderRec.erased b.area (2 * n), Tab.get PolderRec.erased b.area (2 * n + 1)]

/-- The record of a polder in the area: of the valid copies the one with the higher counter. -/
def Boot.areaRec (b : Boot) (n : Nat) : PolderRec :=
  (bestCopy (b.areaCopies n) (·.valid) (·.counter)).getD PolderRec.erased

def areaCrc (counter floor : Nat) (ident : Bytes) : Nat :=
  crc32c (beBytes 4 0x50414844 ++ beBytes 4 counter ++ ident ++ beBytes 4 floor)

def AreaHdr.make (counter floor : Nat) (ident : Bytes) : AreaHdr where
  magic := 0x50414844
  counter := counter
  ident := ident
  floor := floor
  crc := areaCrc counter floor ident

def AreaHdr.valid (h : AreaHdr) : Bool :=
  decide (h.magic = 0x50414844) && decide (h.crc = areaCrc h.counter h.floor h.ident)

/-- The header of the polder area in force: valid, identity and floor. -/
def Boot.areaHead (b : Boot) : Option AreaHdr := bestCopy b.areaHdr (·.valid) (·.counter)
def Boot.areaValid (b : Boot) : Bool := b.areaHead.isSome
def Boot.areaId (b : Boot) : Bytes := (b.areaHead.map (·.ident)).getD (zeros 16)
def Boot.areaFloor (b : Boot) : Nat := (b.areaHead.map (·.floor)).getD 0

/-! ### Time passes -/

/-- A command takes place at elapsed time `t`: the time base advances at its rate (spec 03 R106,
R108), and the clocks counted as events 0x001 and 0x002 pass (spec 16 Table 16.9). -/
def advance (t : Nat) (s : State) : State :=
  if s.clock < t then
    let s1 := { s with
      clock := t
      time := { s.time with num :=
        s.time.num + (t - s.clock) * (65536 * ((10 ^ 12 : Int) + s.time.rate).toNat) } }
    countEv 0x002 (t / 781250 - s.clock / 781250) none none none
      (countEv 0x001 (t / 1250000 - s.clock / 1250000) none none none s1)
  else s

/-! ### The Dike's log (spec 15 R532) -/

/-- Who makes a datapath write: mailbox 1, network 2, the firmware 3; the session; the object. -/
structure Origin where
  kind : Nat
  session : Nat
  index : Nat
  sub : Nat
deriving DecidableEq, Repr

def Origin.firmware : Origin := { kind := 3, session := 0, index := 0, sub := 0 }

/-- Logs one write that crosses a control Culvert to `die`. -/
def dikeLog (o : Origin) (die cls target : Nat) (s : State) : State :=
  let e : DikeEntry :=
    { time := timeNow s, seq := s.boot.dikeSeq, origin := o.kind, session := o.session,
      index := o.index, sub := o.sub, die := die, cls := cls, target := target }
  let full := decide (4096 ≤ s.boot.dikeLog.length)
  let first := full && !s.boot.dikeOverflowed
  let s1 := { s with boot := { s.boot with
    dikeLog := (if full then s.boot.dikeLog.drop 1 else s.boot.dikeLog) ++ [e]
    dikeSeq := (s.boot.dikeSeq + 1) % 2 ^ 32
    dikeOverflowed := s.boot.dikeOverflowed || full } }
  let s2 := if full then count 0x1430 5 s1 else s1
  if first then raise 10 s2 else s2

/-- Logs a write to all four field dies (log entry 25). -/
def dikeLogFields (o : Origin) (cls target : Nat) (s : State) : State :=
  forEach [0, 1, 2, 3] (fun d => dikeLog o d cls target) s

/-! ### Memory outside and device DDR4 -/

/-- Bytes of a function's read of host memory have arrived. -/
def dmaBytesRead (fn n : Nat) (s : State) : State := countEv 0x341 n none none (some fn) s

/-- Is the address of an entry in device DDR4 (spec 11 R367)? -/
def isDdr (addr : Nat) : Bool := addr.testBit 63

/-- Device DDR4, by the address bits [40:0] of R367 (spec 13 R434). -/
def ddrWrite (addr : Nat) (data : Bytes) (s : State) : State :=
  modSiphon (fun x => { x with
    ddr := (data.zipIdx).foldl (fun m e => Tab.set 0#8 m ((addr + e.2) % 2 ^ 41) e.1) x.ddr }) s

/-- `len` bytes of device DDR4. -/
def ddrRead (s : State) (addr len : Nat) : Bytes :=
  (List.range len).map (fun i => Tab.get 0#8 s.siphon.ddr ((addr + i) % 2 ^ 41))

/-- The clock of 1.28 GHz at an instant. -/
def clockOf (t : Nat) : Nat := t / 781250

/-! ### The cores of the cipher farm (spec 12 R393) -/

def coreAt (c : Cipher) (k : Nat) : Core := Tab.get Core.reset c.cores k

/-- The lowest free core in service. -/
def freeCore (c : Cipher) : Option Nat :=
  (List.range 256).find? (fun k => !(coreAt c k).out && (coreAt c k).msg.isNone)

/-- Is a core free? A message that a step both starts and ends runs on the lowest free core, and waits while
there is none (log entry 126). -/
def farmFree (s : State) : Bool := (freeCore s.cipher).isSome

/-! ### Functions and polders -/

/-- Functions in configuration space (spec 09 R303). -/
def fnExists (s : State) (fn : Nat) : Bool := decide (fn = 0) || (s.ep.vfEnable && decide (fn ≤ s.ep.numVfs))

/-- A polder holds resources in states 1 and 2 (spec 10 R336). -/
def polderLive (s : State) (n : Nat) : Bool :=
  decide ((s.polder n).state = 1) || decide ((s.polder n).state = 2)

/-- The global number of a local resource of kind `k` (spec 10 R339; State.Polder names the kinds). -/
def globalOf (s : State) (fn k loc : Nat) : Option Nat := ((s.polder fn).maps.getD k [])[loc]?

/-- A fault of a polder (spec 10 R350): counted, recorded, and its bit set in PolderFaultMap. -/
def polderFault (fn status kind q : Nat) (s : State) : State :=
  let s1 := countPolder fn 0x24 s
  let s2 := s1.setPolder fn { s1.polder fn with
    lastFault := [byteOf status, byteOf kind] ++ beBytes 2 q }
  let was := Tab.get false s2.polders.faultMap fn
  let s3 := modPolders (fun x => { x with faultMap := Tab.set false x.faultMap fn true }) s2
  if was then s3 else raise 261 s3

end Sys2Proof.Machine
end

