-- ==== Sys2Proof/Machine/Operands.lean ====
section
/-! DEFINITION. The operand forms of the dictionary commands: FDP messages, who sends them, the
checks every request meets, and how it is answered (spec 02 R46 to R92). -/

namespace Sys2Proof.Machine

/-! ### Abort codes (spec 02 Table 2.8) -/

def aSTATE : Nat := 0x8
def aNO_OBJECT : Nat := 0x1
def aNO_SUBINDEX : Nat := 0x2
def aROLE : Nat := 0x5
def aREAD_ONLY : Nat := 0x3
def aWRITE_ONLY : Nat := 0x4
def aTYPE : Nat := 0x6
def aRANGE : Nat := 0x7
def aBUSY : Nat := 0x9
def aAUTH : Nat := 0xA
def aPERSIST_FAIL : Nat := 0xB
def aRESOURCE : Nat := 0xC

/-- The order in which abort codes are listed: of several that apply the first is returned (R74). -/
def abortOrder : List Nat :=
  [aSTATE, aNO_OBJECT, aNO_SUBINDEX, aROLE, aREAD_ONLY, aWRITE_ONLY, aTYPE, aRANGE, aBUSY, aAUTH,
   aPERSIST_FAIL, aRESOURCE]

/-- The abort that is returned of those that apply. -/
def firstAbort (l : List Nat) : Option Nat := abortOrder.find? (fun a => l.contains a)

/-- The abort `a`, if its condition holds. -/
def abortIf (c : Bool) (a : Nat) : List Nat := if c then [a] else []

/-! ### Messages (spec 02 Table 2.6) -/

structure Msg where
  version : Nat
  flags : Nat
  kind : Nat
  length : Nat
  session : Nat
  reqId : Nat
  epoch : Nat
  seq : Nat
  index : Nat
  sub : Nat
  ty : Nat
  pa : Nat
  pb : Nat
  data : Bytes
deriving DecidableEq, Repr

/-- The message in a byte string that ends with `tag` bytes of tag. -/
def parseMsg (b : Bytes) (tag : Nat) : Msg where
  version := byteAt b 0 / 16
  flags := byteAt b 0 % 16
  kind := byteAt b 1
  length := beField b 2 2
  session := beField b 4 2
  reqId := beField b 6 2
  epoch := beField b 8 4
  seq := beField b 12 4
  index := beField b 16 2
  sub := byteAt b 18
  ty := byteAt b 19
  pa := beField b 20 4
  pb := beField b 24 4
  data := slice b 28 (b.length - 28 - tag)

/-- A header and its data, without the tag; `total` counts the tag. -/
def buildMsg (flags kind total session reqId epoch seq index sub ty pa pb : Nat) (data : Bytes) : Bytes :=
  [byteOf (16 + flags), byteOf kind] ++ beBytes 2 total ++ beBytes 2 session ++ beBytes 2 reqId
  ++ beBytes 4 epoch ++ beBytes 4 seq ++ beBytes 2 index ++ [byteOf sub, byteOf ty]
  ++ beBytes 4 pa ++ beBytes 4 pb ++ data

/-- The header checks of R73: version, reserved bit, length field, least length, kind. -/
def headerOk (m : Msg) (bytes least : Nat) : Bool :=
  decide (m.version = 1) && !m.flags.testBit 3 && decide (m.length = bytes) && decide (least ≤ bytes)
  && decide (1 ≤ m.kind ∧ m.kind ≤ 6)

/-! ### Requests and replies -/

/-- Who asks, and what (session 0 is the mailbox); `flash`: what the request writes to the boot flash reads
back. -/
structure Req where
  session : Nat
  port : Option Nat
  role : Nat
  limit : Nat
  flash : Bool
  msg : Msg
deriving DecidableEq, Repr

/-- The outcome of a request: an abort, a response, or an answer when the action completes. -/
inductive Reply where
  | abort (code : Nat)
  | ok (pa pb ty : Nat) (data : Bytes)
  | later (act : LongAct)
deriving DecidableEq, Repr

/-- A response that carries nothing. -/
def Reply.done : Reply := .ok 0 0 0 []

/-- A request's effect and its outcome. -/
abbrev Handler := Req → State → State × Reply

/-- The Dike's record of who made a write (spec 15 Table 15.11). -/
def Req.origin (q : Req) : Origin :=
  { kind := if q.session = 0 then 1 else 2, session := q.session, index := q.msg.index, sub := q.msg.sub }

def reqHead (q : Req) : ReqHead :=
  { session := q.session, port := q.port, kind := q.msg.kind, reqId := q.msg.reqId,
    index := q.msg.index, sub := q.msg.sub, data := q.msg.data }

/-! ### Answers -/

/-- Work of the cipher farm for a dictionary message (spec 02 R76, 12 Table 12.5). -/
def gmacWork (n : Nat) (s : State) : State :=
  countQ 0x4101 3 n none none none (count 0x4101 2 s)

/-- The IV of a dictionary message (spec 02 R76); direction 1 is from the device. -/
def fdpIv (epoch seq session dir : Nat) : Bytes :=
  beBytes 4 epoch ++ beBytes 4 seq ++ beBytes 2 session ++ [byteOf dir, 0]

/-- The tag of a dictionary message under a key (spec 02 R76). -/
def fdpTag (key : Bytes) (epoch seq session dir : Nat) (aad : Bytes) : Bytes :=
  (Config.gcmEncrypt key (fdpIv epoch seq session dir) aad []).2

/-- The key a session holds. -/
def sessionKey (s : State) (x : Session) : Bytes :=
  match x.keySlot with
  | some g => (s.keySlot g).key
  | none => []

/-- A buffer of 1,024 words from its bytes: a register's bits [7:0] are its lowest address (00 R10). -/
def wordsOf (b : Bytes) : Tab Word32 :=
  (List.range 1024).foldl (fun t i => Tab.set 0#32 t i (BitVec.ofNat 32 (leField (padTo 4096 b) (4 * i) 4))) []

/-- The response lands in MBX_RSP, BUSY clears, DONE is set and raises the mailbox-done event (spec
02 Table 2.5). -/
def mbxRespond (flags kind reqId index sub ty pa pb : Nat) (data : Bytes) (s : State) : State :=
  let b := buildMsg flags kind (28 + data.length) 0 reqId s.dict.epoch 0 index sub ty pa pb data
  raise 2 (modMbx (fun m => { m with
    rsp := wordsOf b, rspLength := b.length, busy := false, done := true, accepted := none }) s)

/-- Advances a session's send counter; at its top the session is EXHAUSTED (spec 02 R79). What is still due
then is sent on, its 32-bit field starting again at 0 (DESIGN CHOICE, log entry 108). -/
def nextTx (n : Nat) (s : State) : Nat × State :=
  let x := s.session n
  let tx := x.tx + 1
  (tx, s.setSession n { x with tx := tx, exhausted := x.exhausted || decide (0xFFFFFFFF ≤ tx) })

/-- Sends a message of the device on a session, tagged under `key` (spec 02 R76, R79): by the management port
at once, by a field port through that port's injection queue, to which the firmware brings it (R70). -/
def netSend (n : Nat) (port : Option Nat) (key : Bytes) (flags kind reqId index sub ty pa pb : Nat)
    (data : Bytes) (s : State) : State :=
  let r := nextTx n s
  let b := buildMsg flags kind (44 + data.length) n reqId s.dict.epoch r.1 index sub ty pa pb data
  let msg := b ++ fdpTag key s.dict.epoch r.1 n 1 b
  let s1 := gmacWork b.length r.2
  match port with
  | none => emit (.fdp n msg) s1
  | some p => modDict (fun d => { d with outbox := d.outbox ++ [{ port := p, session := n, msg := msg }] }) s1

/-- Keeps a response for a repeat: the last 8 of a session (spec 02 R81). -/
def keepResponse (n : Nat) (k : Kept) (s : State) : State :=
  let x := s.session n
  s.setSession n { x with kept := (x.kept ++ [k]).drop (x.kept.length + 1 - 8) }

/-- RESPONSE, and ABORT with it (spec 02 Table 2.6). -/
def flagResponse : Nat := 1
def flagAbort : Nat := 3

/-- Answers a request: by the mailbox, or on its session, where the response is kept. The number 65
stands for a requester whose response is discarded (spec 02 R67). -/
def answer (h : ReqHead) (flags pa pb ty : Nat) (data : Bytes) (s : State) : State :=
  if h.session = 0 then mbxRespond flags h.kind h.reqId h.index h.sub ty pa pb data s
  else if 64 < h.session then s
  else
    keepResponse h.session
      { reqId := h.reqId, kind := h.kind, index := h.index, sub := h.sub, data := h.data,
        flags := flags, paramA := pa, paramB := pb, ty := ty, body := data, at_ := s.clock }
      (netSend h.session h.port (sessionKey s (s.session h.session)) flags h.kind h.reqId h.index
        h.sub ty pa pb data s)

/-- A copy of an answer without data, for a repeat of its request (spec 02 R72): it is not kept again. -/
def answerCopy (h : ReqHead) (flags pa : Nat) (s : State) : State :=
  if h.session = 0 ∨ 64 < h.session then s
  else netSend h.session h.port (sessionKey s (s.session h.session)) flags h.kind h.reqId h.index h.sub 0 pa 0 [] s

/-- Carries a reply to its requester; a long action is noted until it completes (spec 02 R72). -/
def reply (h : ReqHead) (r : Reply) (s : State) : State :=
  match r with
  | .abort c => answer h flagAbort c 0 0 [] s
  | .ok pa pb ty data => answer h flagResponse pa pb ty data s
  | .later a =>
    let s1 := if h.session = 0 then modMbx (fun m => { m with accepted := none }) s else s
    modDict (fun d => { d with acts := d.acts ++ [{ act := a, req := h, repeats := 0 }] }) s1

/-- The end of a long action: its request is answered, and each repeat with a copy (spec 02 R72). -/
def answerAct (a : LongAct) (abort : Option Nat) (s : State) : State :=
  match s.dict.acts.find? (fun p => decide (p.act = a)) with
  | none => s
  | some p =>
    let s1 := modDict (fun d => { d with acts := d.acts.filter (fun x => decide (x.act ≠ a)) }) s
    let flags := if abort.isSome then flagAbort else flagResponse
    let pa := abort.getD 0
    let h := p.req
    (List.range p.repeats).foldl (fun st _ => answerCopy h flags pa st) (answer h flags pa 0 0 [] s1)

def actRunning (s : State) (a : LongAct) : Bool := s.dict.acts.any (fun p => decide (p.act = a))

/-! ### The mailbox -/

/-- The role of the mailbox: Manager, or Vendor while its token is valid (spec 02 R66, R87). -/
def roleNow (s : State) (base : Nat) (vendorUntil : Option Nat) : Nat :=
  match vendorUntil with
  | some e => if timeNow s < e then 4 else base
  | none => base

/-- What the boot ROM serves in recovery (spec 15 R518). -/
def recoveryServes (m : Msg) : Bool :=
  (decide (m.kind = 1) && (decide (m.index = 0x1000) || decide (0x1400 ≤ m.index ∧ m.index ≤ 0x1402)))
  || (decide (m.kind = 4) && decide (m.index = 0x1410))
  || (decide (m.kind = 5) && decide (m.index = 0x1411))

/-- An unlisted or refused request in recovery is answered STATE (spec 15 R518). -/
def guarded (h : Handler) (q : Req) (s : State) : State × Reply :=
  if s.boot.bootStatus = 2 && !recoveryServes q.msg then (s, .abort aSTATE) else h q s

/-- A mailbox request as the dictionary sees it. -/
def mbxReq (s : State) (flash : Bool) (b : Bytes) : Req where
  session := 0
  port := none
  role := roleNow s 3 s.dict.mbxVendor
  limit := 4068
  flash := flash
  msg := parseMsg b 0

/-- Carries out the request the mailbox has accepted, unless the cores restart (spec 02 R66, R67). A
request accepted before the mailbox's reset goes first, and its response is discarded. -/
def mbxServe (mine : Msg → Bool) (h : Handler) (flash : Bool) (s : State) : State :=
  if s.mbx.restart then s
  else match s.mbx.orphans, s.mbx.accepted with
  | b :: rest, _ =>
    let q := mbxReq s flash b
    if !mine q.msg then s
    else
      let r := guarded h q (modMbx (fun m => { m with orphans := rest }) s)
      reply { reqHead q with session := 65 } r.2 r.1
  | [], some b =>
    let q := mbxReq s flash b
    if !mine q.msg then s
    else
      let r := guarded h q s
      reply (reqHead q) r.2 r.1
  | [], none => s

/-- Does a mailbox request fail the header checks (spec 02 R68)? -/
def badHeader (b : Bytes) : Bool := !headerOk (parseMsg b 0) b.length 28

/-- Requests that fail the header checks are counted and answered with TYPE (R68); one accepted before the
mailbox's reset gets no answer. -/
def mbxHeader (s : State) : State :=
  if s.mbx.restart then s
  else
    let lost := s.mbx.orphans.filter badHeader
    let s1 := forEach lost (fun _ st => count 0x1110 4 st)
      (modMbx (fun m => { m with orphans := m.orphans.filter (fun b => !badHeader b) }) s)
    match s1.mbx.accepted with
    | none => s1
    | some b =>
      if badHeader b then
        let m := parseMsg b 0
        mbxRespond flagAbort m.kind m.reqId m.index m.sub 0 aTYPE 0 [] (count 0x1110 4 s1)
      else s1

/-! ### Network sessions -/

/-- Is an address an IPv4 address in its IPv6 form (spec 02 Table 2.9)? -/
def isV4 (addr : Bytes) : Bool := decide (addr.take 12 = zeros 10 ++ [0xFF, 0xFF])

/-- Is FDP accepted where the message came in (spec 02 R69): on a place that is enabled, under a configured
address of the sender's IP version. -/
def fdpPlace (s : State) (port : Option Nat) (addr : Bytes) : Bool :=
  match port with
  | none => cfgN s 0x1103 0 == 1 && isV4 addr && decide (slice (cfg s 0x1104 0) 0 4 ≠ zeros 4)
  | some p => mapBit (cfg s 0x1102 0) p
    && (if isV4 addr then decide (slice (cfg s 0x1105 0) 0 4 ≠ zeros 4)
      else decide (slice (cfg s 0x1106 0) 0 16 ≠ zeros 16))

/-- A session that accepts messages: enabled, with a key, not exhausted (spec 02 R75, R79, R80). -/
def sessionOpen (s : State) (n : Nat) : Bool :=
  decide (1 ≤ n ∧ n ≤ 64) && cfgN s (0x114F + n) 1 == 1 && (s.session n).keySlot.isSome
  && !(s.session n).setAside && !(s.session n).exhausted

/-- The rate rule of R70: seconds are counted from power-on (log entry 26). -/
def rateRoom (t : Nat) (s : State) : Bool :=
  decide (s.dict.second ≠ t / 10 ^ 15) || decide (s.dict.inSecond < cfgN s 0x1108 0)

def rateTake (t : Nat) (s : State) : State :=
  modDict (fun d => { d with
    second := t / 10 ^ 15
    inSecond := if d.second = t / 10 ^ 15 then d.inSecond + 1 else 1 }) s

/-- The receive window of R77: is sequence `q` accepted? Sequence 0 is no sequence (log entry 26). -/
def windowOk (x : Session) (q : Nat) : Bool :=
  decide (q ≠ 0) && (decide (x.rxHigh < q) ||
    (decide (x.rxHigh < q + 64) && !(x.rxMap.testBit (x.rxHigh - q))))

/-- The window after sequence `q` is accepted; bit i of the map stands for H − i. -/
def windowPut (x : Session) (q : Nat) : Session :=
  if x.rxHigh < q then
    { x with rxHigh := q, rxMap := (x.rxMap * 2 ^ (min (q - x.rxHigh) 64) + 1) % 2 ^ 64,
             exhausted := x.exhausted || decide (0xFFFFFFFF ≤ q) }
  else { x with rxMap := bitSet x.rxMap (x.rxHigh - q) }

/-- A message fails authentication: discarded without response (spec 02 R77). -/
def authFail (sub : Nat) (s : State) : State := raise 3 (count 0x1110 sub s)

/-- Is the request a repeat of a kept or of an unfinished one (spec 02 R72, R81)? -/
def sameReq (m : Msg) (k : Kept) : Bool :=
  decide (k.reqId = m.reqId) && decide (k.kind = m.kind) && decide (k.index = m.index)
  && decide (k.sub = m.sub) && decide (k.data = m.data)

def sameAct (n : Nat) (m : Msg) (p : PendAct) : Bool :=
  decide (p.req.session = n) && decide (p.req.reqId = m.reqId) && decide (p.req.kind = m.kind)
  && decide (p.req.index = m.index) && decide (p.req.sub = m.sub) && decide (p.req.data = m.data)

/-- A response is kept for 1 s (spec 02 R81). -/
def keptLive (s : State) (k : Kept) : Bool := decide (s.clock < k.at_ + 10 ^ 15)

/-- An authenticated, fresh message of session `n` is carried out and answered. `post` takes effect
after the response (spec 02 R94); the response goes under the key held before it. -/
def netCarry (h : Handler) (post : Req → State → State) (flash : Bool) (n : Nat) (port : Option Nat) (m : Msg)
    (s : State) : State :=
  let x := s.session n
  match x.kept.find? (fun k => sameReq m k && keptLive s k) with
  | some k =>
    netSend n port (sessionKey s x) k.flags k.kind k.reqId k.index k.sub k.ty k.paramA k.paramB k.body s
  | none =>
    if s.dict.acts.any (sameAct n m) then
      modDict (fun d => { d with acts := d.acts.map (fun p =>
        if sameAct n m p then { p with repeats := p.repeats + 1 } else p) }) s
    else
      let q : Req := { session := n, port := port, limit := 1356, flash := flash, msg := m
                       role := roleNow s (cfgN s (0x114F + n) 2) x.vendorUntil }
      let r := h q s
      let s1 := reply (reqHead q) r.2 r.1
      match r.2 with
      | .abort _ => s1
      | _ => post q s1

/-- The abort STATE of R78, at most once per session per 100 ms. -/
def epochAnswer (t n : Nat) (port : Option Nat) (m : Msg) (s : State) : State :=
  let s1 := count 0x1110 5 s
  let x := s1.session n
  let due := match x.epochAnswer with
    | none => true
    | some t0 => decide (t0 + 10 ^ 14 ≤ t)
  if due then
    netSend n port (sessionKey s1 x) flagAbort m.kind m.reqId m.index m.sub 0 aSTATE 0 []
      (s1.setSession n { x with epochAnswer := some t })
  else s1

/-- A network message at the CD: rate, header, session, tag, epoch, window, then the request (spec
02 R69, R70, R73, R77, R78, R90). One whose tag is to be checked waits for a core (12 R393, log entry 126). -/
def netServe (mine : Msg → Bool) (h : Handler) (post : Req → State → State) (flash : Bool) (t : Nat)
    (port : Option Nat) (addr b : Bytes) (s : State) : State :=
  let m := parseMsg b 16
  let good := headerOk m b.length 44 && decide (b.length ≤ 1400)
  if good && !mine m then s
  else if !fdpPlace s port addr || !s.dict.fdpOpen then s
  else if s.mbx.restart then count 0x1110 6 s
  else if !rateRoom t s then count 0x1110 6 s
  else if good && sessionOpen s m.session && !farmFree s then s
  else
    let s := rateTake t s
    if !good then count 0x1110 4 s
    else if !sessionOpen s m.session then authFail 2 s
    else
      let peer := cfg s (0x114F + m.session) 4
      if peer ≠ zeros 16 ∧ peer ≠ addr then authFail 2 s
      else
        let x := s.session m.session
        let aad := b.take (b.length - 16)
        let s := gmacWork aad.length s
        if fdpTag (sessionKey s x) m.epoch m.seq m.session 0 aad ≠ b.drop (b.length - 16) then
          authFail 2 (count 0x4101 4 s)
        else if m.epoch ≠ s.dict.epoch then epochAnswer t m.session port m s
        else if !windowOk x m.seq then authFail 3 s
        else
          netCarry h post flash m.session port m
            (count 0x1110 1 (s.setSession m.session (windowPut x m.seq)))

/-- A dictionary command: the message, if it is one that this row carries (`mine`), is carried out
by `h` and answered; any other message leaves the state as it is. -/
def fdpServe (mine : Msg → Bool) (h : Handler) (post : Req → State → State) (r : Rq) (s : State) : State :=
  let s := advance r.t s
  match r.src with
  | .mailbox => mbxServe mine h r.flash s
  | .net port addr msg => netServe mine h post r.flash r.t port addr msg s

/-! ### Encodings and the general checks -/

/-- One byte more of UTF-8: the ranges that the bytes still to come lie in, or none where it is broken. -/
def utf8Step (st : Option (List (Nat × Nat))) (c : Byte) : Option (List (Nat × Nat)) :=
  let tail := (0x80, 0xBF)
  let n := c.toNat
  match st with
  | none => none
  | some ((lo, hi) :: rest) => if lo ≤ n ∧ n ≤ hi then some rest else none
  | some [] =>
    if n < 0x80 then some []
    else if n < 0xC2 then none
    else if n < 0xE0 then some [tail]
    else if n < 0xF0 then some [(if n = 0xE0 then 0xA0 else 0x80, if n = 0xED then 0x9F else 0xBF), tail]
    else if n < 0xF5 then some [(if n = 0xF0 then 0x90 else 0x80, if n = 0xF4 then 0x8F else 0xBF), tail, tail]
    else none

/-- Are the bytes valid UTF-8? -/
def utf8Ok (b : Bytes) : Bool := decide (b.foldl utf8Step (some []) = some [])

/-- Is a value well encoded for its type (spec 02 Table 2.1)? -/
def encodes (ty len : Nat) (b : Bytes) : Bool :=
  match ty with
  | 1 => decide (b = [0]) || decide (b = [1])
  | 8 => decide (b.length = 12) && decide (beField b 6 4 ≤ 999999999)
  | 10 => decide (b.length ≤ len) && utf8Ok b
  | _ => decide (b.length = len)

/-- The value of a scalar as an integer. -/
def scalarOf (ty : Nat) (b : Bytes) : Int :=
  if ty = 6 then signedOf 32 (beNat b) else if ty = 7 then signedOf 64 (beNat b) else (beNat b : Nat)

/-- Does the table give the type a numeric range? -/
def isScalar (ty : Nat) : Bool := decide (1 ≤ ty ∧ ty ≤ 7)

/-- NO_OBJECT or NO_SUBINDEX (spec 02 R54). -/
def missing (idx sub : Nat) : List Nat :=
  if objKnown idx then (if (objDesc idx sub).isSome then [] else [aNO_SUBINDEX]) else [aNO_OBJECT]

/-- Is the object an ACTION? -/
def isAction (idx sub : Nat) : Bool :=
  match objDesc idx sub with
  | some r => decide (r.acc = .act)
  | none => false

/-- The general checks of an ACTION: presence, role, type of object and argument (R50, R51, R604).
The argument of single type must be well encoded (R49). -/
def actionAborts (q : Req) : List Nat :=
  match objDesc q.msg.index q.msg.sub with
  | none => missing q.msg.index q.msg.sub
  | some r =>
    if r.acc ≠ .act then [aTYPE] ++ abortIf (q.role < r.wr) aROLE
    else abortIf (q.role < r.wr) aROLE
      ++ abortIf (q.msg.ty ≠ r.arg || !(encodes r.arg r.len q.msg.data)) aTYPE

/-- An action of the given indices: the owning chapter's checks `own` and effect `go`. A message
whose argument does not fit its type is refused with TYPE unless `own` finds STATE first (R74). -/
def action (own : Req → State → List Nat) (go : Handler) (q : Req) (s : State) : State × Reply :=
  let g := actionAborts q
  let o := if g.contains aTYPE then (own q s).filter (fun a => decide (a = aSTATE)) else own q s
  let all := if g.contains aNO_OBJECT || g.contains aNO_SUBINDEX || !(isAction q.msg.index q.msg.sub)
    then g else g ++ o
  match firstAbort all with
  | some a => (s, .abort a)
  | none => go q s

/-- An action that unwraps a blob of polder 0 (spec 12 R401): the blob is looked at once no other check
fails, and its refusal is counted. -/
def blobOr (blob : Req → Bytes) (bad : State → Bytes → Option Nat) (count : State → Bytes → State) (go : Handler) : Handler :=
  fun q s => match bad s (blob q) with
    | some a => (count s (blob q), .abort a)
    | none => go q s

/-- The messages an action row carries: ACTION requests on its own indices; and those on a value
that is no ACTION of the dictionary, which any action row refuses in the same way (log entry 27). -/
def actMine (own : Nat → Nat → Bool) (m : Msg) : Bool :=
  decide (m.kind = 5) && (own m.index m.sub || !(isAction m.index m.sub))

/-- One action command. -/
def serveAction (mine : Nat → Nat → Bool) (own : Req → State → List Nat) (go : Handler) (r : Rq)
    (s : State) : State :=
  fdpServe (actMine mine) (action own go) (fun _ st => st) r s

/-- An object with one index and subindex. -/
def at0 (i k : Nat) (idx sub : Nat) : Bool := decide (idx = i ∧ sub = k)

/-- No further checks. -/
def noAborts (_ : Req) (_ : State) : List Nat := []

end Sys2Proof.Machine
end

