-- ==== Sys2Proof/Machine/Buffers.lean ====
section
/-! DEFINITION. The buffer pool of a field die: Ditches, owners, admission, frees and memory faults
(spec 07), and its dictionary actions. -/

namespace Sys2Proof.Machine

/-- Cells of a field die and of a Ditch after the build (spec 07 R237, R241). -/
def cellsPerDie : Nat := 196608

/-- Cells of a frame of `len` bytes (spec 07 R237). -/
def cellsOf (len : Nat) : Nat := ceilDiv len 256

/-! ### Ditches (spec 07 R239 to R241) -/

/-- The end of a Ditch. -/
def ditchEnd : Nat := 0x3FFFF

/-- A free cell's next word: each Ditch is built by placing its cells in ascending order on a
last-in, first-out list (DEDUCED, log entry 28). -/
def cellWord (b : BufDie) (c : Nat) : Nat :=
  Tab.get (if c < 16 then ditchEnd else c - 16) b.words c

def ditchHead (b : BufDie) (d : Nat) : Nat := Tab.get (196592 + d) b.heads d
def ditchCount (b : BufDie) (d : Nat) : Nat := Tab.get 12288 b.counts d

/-- The bitmap bit of a cell, and the owner tag while it is allocated (spec 07 R238). -/
def cellTag (b : BufDie) (c : Nat) : Option Nat :=
  match Tab.get 0 b.tags c with
  | 0 => none
  | t + 1 => some t

/-- Free cells: the cells in the Ditches (spec 07 R245). -/
def freeCells (b : BufDie) : Nat := ((List.range 16).map (ditchCount b)).sum

/-- The Ditches a pipe's allocation tries, in order (spec 07 R240). -/
def ditchOrder (b : BufDie) (q : Nat) : List Nat :=
  let last := Tab.get (4 * q + 3) b.lastDitch q
  (List.range 4).map (fun i => 4 * q + (last - 4 * q + 1 + i) % 4)
  ++ (List.range 12).map (fun i => (4 * q + 4 + i) % 16)

/-- The Ditch an allocation in clock `k` takes: not one that has served in that clock, unless no other holds a cell
(log entry 118). -/
def ditchFor (b : BufDie) (q k : Nat) : Option Nat :=
  let l := (ditchOrder b q).filter (fun d => decide (0 < ditchCount b d))
  match l.find? (fun d => !b.served.contains (d, k)) with
  | some d => some d
  | none => l.head?

/-- One cell for a pipe and an owner in clock `k` of 1.28 GHz (spec 07 R240). -/
def allocCell (q owner k : Nat) (b : BufDie) : Option (Nat × BufDie) :=
  match ditchFor b q k with
  | none => none
  | some d =>
    let c := ditchHead b d
    some (c, { b with
      heads := Tab.set (196592 + d) b.heads d (cellWord b c)
      counts := Tab.set 12288 b.counts d (ditchCount b d - 1)
      tags := Tab.set 0 b.tags c (owner + 1)
      served := b.served ++ [(d, k)]
      lastDitch := if d / 4 = q then Tab.set (4 * q + 3) b.lastDitch q d else b.lastDitch })

/-- `n` cells, in the order drawn: cell `i` of a frame when its first byte comes, at 192 bytes a clock (R36) from
clock `k` on. -/
def allocCells (q owner k : Nat) : Nat → Nat → BufDie → List Nat × BufDie
  | _, 0, b => ([], b)
  | i, n + 1, b =>
    match allocCell q owner (k + 256 * i / 192) b with
    | none => ([], b)
    | some (c, b1) =>
      let r := allocCells q owner k (i + 1) n b1
      (c :: r.1, r.2)

/-- Link entries of a frame's chain (spec 07 Table 7.1). -/
def linkCells (len : Nat) : List Nat → BufDie → BufDie
  | [], b => b
  | [c], b => { b with links := Tab.set 0 b.links c (ditchEnd + 2 ^ 18 + len * 2 ^ 19) }
  | c :: d :: rest, b =>
    linkCells (len - 256) (d :: rest) { b with links := Tab.set 0 b.links c (d + 256 * 2 ^ 19) }

/-- The Ditch a freed cell goes to: the emptiest of the pipe's own, or of the die when the HD or the
CD frees; a tie to the lowest number (spec 07 R240). -/
def freeTarget (b : BufDie) (pipe : Option Nat) : Nat :=
  let own := match pipe with
    | some q => (List.range 4).map (fun i => 4 * q + i)
    | none => List.range 16
  own.foldl (fun best d => if ditchCount b d < ditchCount b best then d else best) (own.headD 0)

/-! ### Owners and minima (spec 07 R242 to R249) -/

def ownerSiphon : Nat := 0x200
def ownerFirmware : Nat := 0x201
def ownerHost (i : Nat) : Nat := 0x202 + i

/-- The polder that holds a host owner; `none` while it is free or drains (spec 07 R243). The table
holds polder + 1, and 5000 for an owner that drains. -/
def ownerPolder (s : State) (owner : Nat) : Option Nat :=
  match Tab.get 0 s.buf.owners (owner - 0x202) with
  | 0 => none
  | k + 1 => if k < 4096 then some k else none

/-- M of an owner on a die. -/
def minimumOf (s : State) (die owner : Nat) : Nat :=
  if owner < 512 then cfgAt s 0x2B01 (die + 1) 2 owner
  else if owner = ownerSiphon then cfgN s 0x2B00 2
  else if owner = ownerFirmware then cfgN s 0x2B00 3
  else match ownerPolder s owner with
    | some n => (s.polder n).counts.minima.getD die 0
    | none => 0

/-- The minima of the ports as the bytes of BufPortMinimum spell them. -/
def portMinimaSum (b : Bytes) : Nat :=
  ((List.range 512).map (fun p => beField b (2 * p) 2)).sum

/-- The minima of the host owners of a die. -/
def hostMinimaSum (s : State) (die : Nat) : Nat :=
  (s.buf.owners.map (fun e => minimumOf s die (0x202 + e.1))).sum

/-- ΣM of a die (spec 07 R245). -/
def minimaSum (s : State) (die : Nat) : Nat :=
  portMinimaSum (cfg s 0x2B01 (die + 1)) + cfgN s 0x2B00 2 + cfgN s 0x2B00 3 + hostMinimaSum s die

def occupancy (s : State) (die owner : Nat) : Nat := Tab.get 0 (s.bufDie die).occ owner

/-- S_used of a die (spec 07 R245). -/
def sharedUsed (s : State) (die : Nat) : Nat :=
  ((s.bufDie die).occ.map (fun e => e.2 - minimumOf s die e.1)).sum

/-- S_cap − S_used, which faults and raises can take below 0 (spec 07 R248). -/
def sharedFree (s : State) (die : Nat) : Int :=
  (cellsPerDie : Int) - (s.bufDie die).lost.length - minimaSum s die - sharedUsed s die

/-- The largest ΣM a floor of `pct` per cent allows (spec 07 R246). -/
def minimaCap (pct : Nat) : Nat := cellsPerDie - cellsPerDie * pct / 100

/-- The shared-low event of a die (spec 07 R253). -/
def lowCheck (die : Nat) (s : State) : State :=
  let b := s.bufDie die
  let mark := cfgN s 0x2B00 6
  let free := sharedFree s die
  if free < mark && !b.lowRaised then raiseDie die 11 (s.setBufDie die { b with lowRaised := true })
  else if (2 * mark : Nat) < free && b.lowRaised then s.setBufDie die { b with lowRaised := false }
  else s

/-- The check after minima changed on every die. -/
def lowCheckAll (s : State) : State := forEach [0, 1, 2, 3] lowCheck s

/-- A frame that is not admitted (spec 07 R245). -/
def bufRefuse (die owner : Nat) (s : State) : State :=
  let b := s.bufDie die
  count 0x2B05 1 (s.setBufDie die { b with discards := Tab.upd 0 b.discards owner (fun n => satAdd64 n 1) })

/-- Would `n` cells for an owner be admitted, and if not, is it for want of free cells (R245)? -/
def admits (s : State) (die owner n : Nat) : Bool × Bool :=
  let r := minimumOf s die owner - occupancy s die owner
  let fromSh := n - min n r
  if 0 < fromSh ∧ sharedFree s die < fromSh then (false, false)
  else if freeCells (s.bufDie die) < n then (false, true)
  else (true, false)

/-- Admission of one frame: its cells drawn and chained, its owner charged. Answers the id under
which it is stored, or none when it was refused and counted (spec 07 R244, R245). -/
def admitFrame (die q owner len refs : Nat) (s : State) : Option Nat × State :=
  let n := cellsOf len
  match admits s die owner n with
  | (true, _) =>
    let now := s.clock / 781250
    let b0 := s.bufDie die
    let r := allocCells q owner now 0 n { b0 with served := b0.served.filter (fun e => decide (now ≤ e.2)) }
    let b := linkCells len r.1 r.2
    let id := ticket s
    let b1 := { b with occ := Tab.upd 0 b.occ owner (fun o => o + n) }
    let s1 := modBuf (fun x => { x with
      stored := x.stored ++ [{ sid := id.1, die := die, owner := owner, cells := r.1, refs := refs, frame := 0, bytes := [] }] })
      (id.2.setBufDie die b1)
    (some id.1, lowCheck die s1)
  | (false, short) =>
    (none, bufRefuse die owner (if short then count 0x2B05 2 s else s))

/-! ### Frees (spec 07 R240, R251) -/

/-- The latch record of a bad free (spec 07 Table 7.3). -/
def badFreeRecord (die owner tagged cell : Nat) : Bytes :=
  [byteOf die, 1] ++ beBytes 2 owner ++ beBytes 2 tagged ++ beBytes 2 0 ++ beBytes 4 cell

/-- Frees one cell for an owner; bad frees are counted, raised and latched. -/
def freeCell (die : Nat) (pipe : Option Nat) (owner c : Nat) (s : State) : State :=
  let b := s.bufDie die
  if b.stuck.contains c then s
  else match cellTag b c with
  | none =>
    modBuf (fun x => { x with
        doubleFree := if x.doubleFree = zeros 12 then badFreeRecord die owner 0 c else x.doubleFree })
      (raiseDie die 8 (count 0x2B05 3 s))
  | some t =>
    if t ≠ owner then
      modBuf (fun x => { x with
          foreignFree := if x.foreignFree = zeros 12 then badFreeRecord die owner t c else x.foreignFree })
        (raiseDie die 9 (count 0x2B05 4 s))
    else
      let d := freeTarget b pipe
      s.setBufDie die { b with
        tags := Tab.set 0 b.tags c 0
        words := Tab.set (if c < 16 then ditchEnd else c - 16) b.words c
          (if ditchCount b d = 0 then ditchEnd else ditchHead b d)
        heads := Tab.set (196592 + d) b.heads d c
        counts := Tab.set 12288 b.counts d (ditchCount b d + 1)
        occ := Tab.upd 0 b.occ owner (fun o => o - 1) }

/-- Frees cells in order, then looks at the shared-low mark. -/
def freeCellList (die : Nat) (pipe : Option Nat) (owner : Nat) (cells : List Nat) (s : State) : State :=
  lowCheck die (forEach cells (freeCell die pipe owner) s)

def storedOf (s : State) (sid : Nat) : Option Stored := s.buf.stored.find? (fun x => decide (x.sid = sid))

def dropStored (sid : Nat) (s : State) : State :=
  modBuf (fun x => { x with stored := x.stored.filter (fun y => decide (y.sid ≠ sid)) }) s

/-- One copy of a stored frame leaves or is discarded; with the last, its cells are freed (R244). -/
def releaseCopy (sid : Nat) (pipe : Option Nat) (s : State) : State :=
  match storedOf s sid with
  | none => s
  | some x =>
    if 1 < x.refs then
      modBuf (fun b => { b with
        stored := b.stored.map (fun y => if y.sid = sid then { y with refs := y.refs - 1 } else y) }) s
    else freeCellList x.die pipe x.owner x.cells (dropStored sid s)

/-! ### Copies that share a frame (spec 07 R244) -/

/-- The stored frame that further copies with these contents of a received frame share on a die. -/
def sharedFrame (s : State) (die frame : Nat) (b : Bytes) : Option Nat :=
  if frame = 0 then none
  else (s.buf.stored.find? (fun x => decide (x.die = die ∧ x.frame = frame ∧ x.bytes = b))).map (·.sid)

def changeStored (sid : Nat) (f : Stored → Stored) (s : State) : State :=
  modBuf (fun b => { b with stored := b.stored.map (fun y => if y.sid = sid then f y else y) }) s

/-- `refs` copies of a frame are stored: with the copies of equal contents already there, or as a frame of its own
that is admitted. -/
def storeCopies (die q owner frame : Nat) (b : Bytes) (refs : Nat) (s : State) : Option Nat × State :=
  match sharedFrame s die frame b with
  | some sid => (some sid, changeStored sid (fun y => { y with refs := y.refs + refs }) s)
  | none =>
    match admitFrame die q owner (b.length + 4) refs s with
    | (none, st) => (none, st)
    | (some sid, st) => (some sid, changeStored sid (fun y => { y with frame := frame, bytes := b }) st)

/-! ### Memory faults (spec 07 R252) -/

def eccError (die : Nat) (s : State) : State := raiseDie die 10 (count 0x2B05 8 s)

/-- An error in the link entry at a place of a stored frame's chain: the cells up to it are freed;
the charge of those beyond is released, and they are lost. -/
def linkError (sid place : Nat) (pipe : Option Nat) (s : State) : State :=
  match storedOf s sid with
  | none => s
  | some x =>
    let good := x.cells.take (place + 1)
    let bad := x.cells.drop (place + 1)
    let s1 := freeCellList x.die pipe x.owner good (dropStored sid s)
    let b := s1.bufDie x.die
    let b1 := { b with
      occ := Tab.upd 0 b.occ x.owner (fun o => o - bad.length)
      lost := b.lost ++ bad }
    eccError x.die (lowCheck x.die (s1.setBufDie x.die b1))

/-- The cell at a depth of a Ditch. -/
def ditchCellAt (b : BufDie) (d : Nat) : Nat → Nat
  | 0 => ditchHead b d
  | k + 1 => cellWord b (ditchCellAt b d k)

/-- A fault that shows at a die, apart from those of the frame at hand (R251, R252). -/
def bufFaultAt (die : Nat) (f : BufFault) (s : State) : State :=
  let b := s.bufDie die
  match f with
  | .corrected => count 0x2B05 7 s
  | .badFree cell owner =>
    if b.stuck.contains cell || decide (cellTag b cell = some owner) then s
    else freeCell die none owner cell s
  | .freeWord ditch depth =>
    if depth < ditchCount b ditch then
      let b1 := { b with
        counts := Tab.set 12288 b.counts ditch depth
        lost := b.lost ++ (List.range (ditchCount b ditch - depth)).map (fun i => ditchCellAt b ditch (depth + i)) }
      eccError die (lowCheck die (s.setBufDie die b1))
    else s
  | .tag cell =>
    if b.stuck.contains cell then s
    else eccError die (lowCheck die (s.setBufDie die { b with
      stuck := b.stuck ++ [cell], lost := if b.lost.contains cell then b.lost else b.lost ++ [cell] }))
  | .clean => s
  | .data => s
  | .underrun => s
  | .link _ => s

/-- The cell at `c` or the next below it in its Ditch that is not lost, if there is one in `n` steps. -/
def keptCell (lost : List Nat) : Nat → Nat → Option Nat
  | 0, _ => none
  | n + 1, c => if lost.contains c then (if c < 16 then none else keptCell lost n (c - 16)) else some c

/-- The buffer of a die whose Ditches are built anew (R241) without the lost cells, which do not return (R252). -/
def rebuiltDie (lost stuck : List Nat) : BufDie :=
  let n := lost.length + 1
  let above := (lost.map (· + 16)).filter (fun c => decide (c < cellsPerDie) && !lost.contains c)
  { BufDie.reset with
    lost := lost
    stuck := stuck
    words := above.foldl (fun m c => Tab.set (c - 16) m c ((keptCell lost n (c - 16)).getD ditchEnd)) []
    heads := (List.range 16).foldl (fun m d =>
      Tab.set (196592 + d) m d ((keptCell lost n (196592 + d)).getD ditchEnd)) []
    counts := (List.range 16).foldl (fun m d =>
      Tab.set 12288 m d (12288 - (lost.filter (fun c => decide (c % 16 = d))).length)) [] }

/-! ### Actions (spec 07 Table 7.4) -/

/-- BufOwnerRead's record of an owner. -/
def bufOwnerRecord (s : State) (o : Nat) : Bytes :=
  let cls := if o < 512 then 0 else if o = ownerSiphon then 1 else if o = ownerFirmware then 2 else 3
  let pol := if o < 0x202 then 0xFFFF else (ownerPolder s o).getD 0xFFFF
  [byteOf cls, 0] ++ beBytes 2 pol
  ++ ([0, 1, 2, 3].map (fun d => beBytes 4 (minimumOf s d o) ++ beBytes 4 (occupancy s d o)
      ++ beBytes 8 (Tab.get 0 (s.bufDie d).discards o))).flatten

/-- BufOwnerRead (spec 07 R258). -/
def execBufOwnerRead (r : Rq) (s : State) : Host.Outcome State Fault Refusal :=
  .next (serveAction (at0 0x2B10 0)
    (fun q _ => abortIf (4095 < beNat q.msg.data) aRANGE)
    (fun q s => (s, .ok 0 0 9 (bufOwnerRecord s (beNat q.msg.data)))) r s)

/-- BufPolderOwner (spec 07 R258). -/
def execBufPolderOwner (r : Rq) (s : State) : Host.Outcome State Fault Refusal :=
  .next (serveAction (at0 0x2B11 0)
    (fun q _ => abortIf (4095 < beNat q.msg.data) aRANGE)
    (fun q s => (s, .ok 0 0 3 (beBytes 2 ((s.polder (beNat q.msg.data)).owner.getD 0xFFFF)))) r s)

/-- Clears both latches (spec 07 R251). -/
def clearLatches (s : State) : State :=
  modBuf (fun x => { x with doubleFree := zeros 12, foreignFree := zeros 12 }) s

/-- BufErrorLatchClear (spec 07 R251). -/
def execBufErrorLatchClear (r : Rq) (s : State) : Host.Outcome State Fault Refusal :=
  .next (serveAction (at0 0x2B12 0) noAborts (fun _ s => (clearLatches s, .done)) r s)

/-- Every host owner whose polder is gone returns to the free set once no die holds a cell of it
(spec 07 R243). -/
def releaseOwner (owner : Nat) (s : State) : State :=
  if Tab.get 0 s.buf.owners (owner - 0x202) = 5000 && decide (0x202 ≤ owner)
    && [0, 1, 2, 3].all (fun d => decide (occupancy s d owner = 0)) then
    modBuf (fun x => { x with owners := Tab.set 0 x.owners (owner - 0x202) 0 }) s
  else s

/-- HOST_OWNER_RELEASE (spec 07 R243). -/
def execHostOwnerRelease (owner : Nat) (s : State) : Host.Outcome State Fault Refusal :=
  .next (releaseOwner owner s)

/-- The lowest free host owner (spec 07 R243). -/
def freeOwner (s : State) : Option Nat :=
  (List.range 3582).find? (fun i => decide (Tab.get 0 s.buf.owners i = 0))

end Sys2Proof.Machine
end

