-- ==== Sys2Proof/Machine/Queues.lean ====
section
/-! DEFINITION. Work queues (spec 11): context fields, the state machine, completions, the head
mirror, interrupts, errors; and the memory requests a queue makes (spec 09 R306, R326). -/

namespace Sys2Proof.Machine

/-! ### Status codes (spec 11 Table 11.10) -/

def stOK : Nat := 0x00
def stMALFORMED : Nat := 0x01
def stACCESS : Nat := 0x02
def stAUTH_FAIL : Nat := 0x03
def stABORTED_RESET : Nat := 0x04
def stABORTED_ACTIVATION : Nat := 0x05
def stTIMEOUT : Nat := 0x06
def stNO_RESOURCE : Nat := 0x07
def stMEDIA_ERROR : Nat := 0x08
def stREMOTE_ERROR : Nat := 0x09
def stMASTER_DISABLED : Nat := 0x0A
def stTRANSLATION_FAULT : Nat := 0x0B
def stRANGE : Nat := 0x0C
def stSTATE : Nat := 0x0D
def stSANITIZING : Nat := 0x0E
def stREAD_ONLY : Nat := 0x0F

/-! ### Context (spec 11 Table 11.2) -/

def qWord (x : Queue) (i : Nat) : Nat := (Tab.get 0#32 x.ctx i).toNat
def qKind (x : Queue) : Nat := bitsOf (qWord x 2) 3 0
def qSizeLog (x : Queue) : Nat := bitsOf (qWord x 2) 7 4
def qPasidValid (x : Queue) : Bool := (qWord x 2).testBit 8
def qMirrorOnly (x : Queue) : Bool := (qWord x 2).testBit 9
def qIrqEnable (x : Queue) : Bool := (qWord x 2).testBit 10
def qPasid (x : Queue) : Nat := bitsOf (qWord x 2) 31 12
def qBase (x : Queue) : Nat := qWord x 0 + qWord x 1 * 2 ^ 32
def qCq (x : Queue) : Nat := bitsOf (qWord x 3) 15 0
def qVector (x : Queue) : Nat := bitsOf (qWord x 3) 26 16
def qMirror (x : Queue) : Nat := qWord x 4 + qWord x 5 * 2 ^ 32
def qModCount (x : Queue) : Nat := bitsOf (qWord x 6) 15 0
def qModTime (x : Queue) : Nat := bitsOf (qWord x 6) 31 16
def qSamplePeriod (x : Queue) : Nat := qWord x 7

/-- Elements of the ring. -/
def qSize (x : Queue) : Nat := 64 * 2 ^ qSizeLog x

/-- Kinds (spec 11 Table 11.1). -/
def kTX : Nat := 1
def kRX : Nat := 2
def kCOMPLETION : Nat := 3
def kSAMPLE : Nat := 4
def kCIPHER : Nat := 5
def kSIPHON : Nat := 6
def kJOURNAL : Nat := 7

/-- Does the doorbell carry a tail (spec 11 Table 11.1)? -/
def isProducer (k : Nat) : Bool := decide (k ≠ kCOMPLETION ∧ k ≠ kSAMPLE)

/-- Element size of the ring. -/
def elemSize (k : Nat) : Nat := if k = kCOMPLETION then 16 else if k = kSAMPLE then 64 else 32

/-- Queue states as numbers (spec 11 Table 11.9). -/
def QSt.code : QSt → Nat
  | .disabled => 0
  | .enabled => 1
  | .draining => 2
  | .error => 3
  | .parked => 4
  | .held => 5

/-- A queue that takes work: enabled, or waiting to be so again (spec 10 R349, 11 Table 11.11). -/
def QSt.live (q : QSt) : Bool :=
  match q with
  | .enabled => true
  | .parked => true
  | .held => true
  | .disabled => false
  | .draining => false
  | .error => false

/-! ### Entries (spec 11 Table 11.3) -/

def eOpcode (e : Bytes) : Nat := byteAt e 0
def eFlags (e : Bytes) : Nat := byteAt e 1
def eFirst (e : Bytes) : Bool := (eFlags e).testBit 0
def eLast (e : Bytes) : Bool := (eFlags e).testBit 1
def eCqReq (e : Bytes) : Bool := (eFlags e).testBit 2
def eOrdered (e : Bytes) : Bool := (eFlags e).testBit 3
def eFence (e : Bytes) : Bool := (eFlags e).testBit 4
def eLength (e : Bytes) : Nat := leField e 2 2
def eTag (e : Bytes) : Nat := leField e 4 4
def eAddr (e : Bytes) : Nat := leField e 8 8

/-- The index after the last entry of a chain. -/
def chainEnd (x : Queue) (c : Chain) : Nat := (c.first + c.entries.length) % qSize x

def chainLast (c : Chain) : Bytes := c.entries.getLastD []

/-- The LAST entry's ring index. -/
def chainLastIdx (x : Queue) (c : Chain) : Nat :=
  (c.first + (c.entries.length - 1)) % qSize x

/-! ### Held frames of an RX queue -/

def hostFrames (s : State) (fn q : Nat) : List HFrame := Tab.get [] s.buf.hostQ (qKey fn q)

def setHostFrames (fn q : Nat) (l : List HFrame) (s : State) : State :=
  modBuf (fun b => { b with hostQ := Tab.set [] b.hostQ (qKey fn q) l }) s

/-- The place of one held frame is given up; the HD frees the cells (spec 07 R240). -/
def dropPlace (h : HFrame) (s : State) : State :=
  match h.place with
  | .fd _ sid _ => releaseCopy sid none s
  | .md _ => s
  | .notice => s

/-- The frames held for a queue are discarded and counted (spec 10 R349, R352). -/
def discardHeld (fn q : Nat) (s : State) : State :=
  let l := hostFrames s fn q
  setHostFrames fn q []
    (forEach l (fun h st => match h.place with
      | .notice => st
      | _ => countPolder fn 0x23 (dropPlace h st)) s)

/-! ### Who may make memory requests, and how they are cut (spec 09 R306, R314, R315, R323) -/

/-- May the function make requests? A polder in removal may not (spec 10 R351). -/
def fnRuns (s : State) (fn : Nat) : Bool :=
  let f := s.func fn
  f.busMaster && !f.flr && !f.d3hot && decide (s.ep.link = 2) && fnExists s fn && decide ((s.polder fn).state = 1)

/-- The PASID a queue's requests carry. -/
def pasidOf (x : Queue) : Option Nat := if qPasidValid x then some (qPasid x) else none

/-- The requester that a queue is. -/
def queueReq (s : State) (fn q : Nat) : Requester := { fn := fn, q := some q, pasid := pasidOf (s.queue fn q) }

/-- The bytes [addr, addr + n) cut at `lim` bytes and at every 4 KiB boundary. -/
def cutFrom (lim : Nat) : (fuel addr n : Nat) → List (Nat × Nat)
  | 0, _, _ => []
  | _ + 1, _, 0 => []
  | f + 1, addr, n + 1 =>
    let k := min (n + 1) (min lim (4096 - addr % 4096))
    (addr, k) :: cutFrom lim f (addr + k) (n + 1 - k)

/-- The requests that a transfer is cut into: none is under 64 bytes but at an end or a boundary. -/
def cutAt (lim addr n : Nat) : List (Nat × Nat) := cutFrom lim (n / 64 + 3) addr n

/-- Bytes of a size field of Device Control: 128 × 2^code (PRESUMED, log entry 121). -/
def sizeBytes (code : Nat) : Nat := 128 * 2 ^ code

/-- The longest write and the longest read request (R306). -/
def writeLimit (s : State) (fn : Nat) : Nat := min 512 (sizeBytes (s.func fn).payload)
def readLimit (s : State) (fn : Nat) : Nat := min 4096 (sizeBytes (s.func fn).readRequest)

/-- The cached translation of an address (R323). -/
def cachedPage (s : State) (w : Requester) (addr : Nat) : Option Transl :=
  s.ep.cached.find? (fun c => decide (c.fn = w.fn ∧ c.pasid = w.pasid ∧ c.page = addr / 4096))

/-- The address a request carries, and whether it is translated. -/
def translate (s : State) (w : Requester) (addr : Nat) : Nat × Bool :=
  if !(s.func w.fn).ats then (addr, false)
  else match cachedPage s w addr with
  | some c => (c.frame * 4096 + addr % 4096, true)
  | none => (addr, false)

/-- With ATS Enable 1 a translation is requested for a page that the cache does not hold; meanwhile requests for
it go untranslated (DEDUCED, log entry 122). -/
def askPage (w : Requester) (addr : Nat) (s : State) : State :=
  let page := addr / 4096
  if !(s.func w.fn).ats || (cachedPage s w addr).isSome
      || s.ep.asked.any (fun a => decide (a.1.fn = w.fn ∧ a.1.pasid = w.pasid ∧ a.2 = page)) then s
  else emit (.translationRequest w.fn w.pasid page) (modEp (fun e => { e with asked := e.asked ++ [(w, page)] }) s)

/-- The PASID attached to a request: only while PASID Enable is 1 (R323). -/
def pasidSent (s : State) (w : Requester) : Option Nat := if (s.func w.fn).pasid then w.pasid else none

/-- A DMA write to host memory, with its bytes counted (R306, 16 Table 16.9): cut into requests, which neither carry
Relaxed Ordering nor ID-Based Ordering. A function that may not make requests drops it (R314, R315, R317). -/
def dmaWrite (w : Requester) (addr : Nat) (data : Bytes) (s : State) : State :=
  if !fnRuns s w.fn then s
  else
    countEv 0x340 data.length none none (some w.fn)
      (forEach (cutAt (writeLimit s w.fn) addr data.length) (fun p st =>
        let st1 := askPage w p.1 st
        let a := translate st1 w p.1
        emit (.dma w.fn a.1 (pasidSent st1 w) a.2 (slice data (p.1 - addr) p.2)) st1) s)

/-- A write to a buffer of an entry: host memory or device DDR4 (spec 11 R367). -/
def memWrite (w : Requester) (addr : Nat) (data : Bytes) (s : State) : State :=
  if isDdr addr then ddrWrite addr data s else dmaWrite w addr data s

/-! ### Requests that may not be made (spec 09 R326, 11 R365) -/

/-- The size of a VF's BAR (spec 09 Table 9.2, R304). -/
def vfBarSize (s : State) (i : Nat) : Nat := if i = 1 then (if s.ep.pageSize = 16 then 65536 else 4096) else 65536

/-- Does a range of addresses meet a BAR of function `g` (spec 09 Table 9.2)? VF BARs follow one another. -/
def inBarOf (s : State) (g addr len : Nat) : Bool :=
  let meets := fun base size => decide (base < addr + len) && decide (addr < base + size)
  if g = 0 then
    [0, 1, 2].any (fun i =>
      let base := (s.func 0).bars.getD i 0
      decide (base ≠ 0) && meets base (if i = 0 then 2 ^ 26 else if i = 1 then 4096 else 65536))
  else
    decide (g ≤ s.ep.numVfs) && s.ep.vfEnable && [0, 1, 2].any (fun i =>
      let base := s.ep.vfBars.getD i 0
      decide (base ≠ 0) && meets (base + (g - 1) * vfBarSize s i) (vfBarSize s i))

/-- Is a function's own transfer blocked by its egress control vector, after translation (spec 09 R326)? -/
def acsBlocks (s : State) (w : Requester) (addr len : Nat) : Bool :=
  (s.func w.fn).acsEnable && !(isDdr addr) && (cutAt 4096 addr len).any (fun p =>
    (s.func w.fn).acsVector.any (fun g => inBarOf s g (translate s w p.1).1 p.2))

/-- An ACS Violation is reported and counted (R326, R327). -/
def acsReport (fn : Nat) (s : State) : State :=
  let f := s.func fn
  count 0x4002 8 (s.setFunc fn { f with aer := bitSet f.aer 21 })

/-- A queue names a PASID while its function's PASID Enable is 0 (spec 11 R365). -/
def pasidOff (s : State) (fn : Nat) (x : Queue) : Bool := qPasidValid x && !(s.func fn).pasid

/-! ### Read tags (spec 09 R307) -/

def tagPool (s : State) : Nat := if s.ep.tag14 then 15360 else if s.ep.tag10 then 768 else 256

/-- The tag a read holds. -/
def Read.tag? (r : Read) : Option Nat :=
  match r.st with
  | .waiting => none
  | .out tag _ => some tag
  | .back _ => none

/-- Reads that are outstanding. -/
def readsOut (s : State) : List Read := s.ep.reads.filter (fun r => r.tag?.isSome)

/-- Tags held by functions that `p` picks. -/
def tagsHeld (s : State) (p : Nat → Bool) : Nat := ((readsOut s).filter (fun r => p r.who.fn)).length

def tagFree (s : State) (tag : Nat) : Bool :=
  !(s.ep.reads.any (fun r => decide (r.tag? = some tag))) && !(s.ep.quarantine.any (fun e => decide (e.1 = tag)))

/-- The tag a read of a function takes: the lowest free one (log entry 49), or none. -/
def takeTag (s : State) (fn : Nat) : Option Nat :=
  let n := tagPool s
  if n / 4 ≤ tagsHeld s (fun f => decide (f = fn)) then none
  else if fn ≠ 0 ∧ n - 64 ≤ tagsHeld s (fun f => decide (f ≠ 0)) + s.ep.quarantine.length then none
  else (List.range n).find? (tagFree s)

/-! ### Reads of host memory (spec 09 R306, R307) -/

/-- How a command's host bytes come: they are given with it, they are read on tags, or such reads are back. -/
inductive HostData where
  | now (b : Bytes)
  | tags
  | back (b : Bytes)
deriving DecidableEq, Repr

/-- The operand of a command that reads host memory. -/
def HostData.of : Option Bytes → HostData
  | some b => .now b
  | none => .tags

/-- The operands of a command that reads two regions of host memory: both are given, or both are read on tags. -/
def HostData.both : Option Bytes → Option Bytes → HostData
  | some a, some b => .now (a ++ b)
  | _, _ => .tags

/-- Host bytes of a run of segments. -/
def hostLen (segs : List (Nat × Nat)) : Nat := ((segs.filter (fun g => !isDdr g.1)).map (·.2)).sum

/-- The read requests of the host segments. -/
def readCuts (s : State) (fn : Nat) (segs : List (Nat × Nat)) : List (Nat × Nat) :=
  (segs.filter (fun g => !isDdr g.1)).flatMap (fun g => cutAt (readLimit s fn) g.1 g.2)

/-- A read request goes out on a tag; it carries Relaxed Ordering only while that is enabled. -/
def emitRead (tag : Nat) (w : Requester) (addr len : Nat) (s : State) : State :=
  let s1 := askPage w addr s
  let a := translate s1 w addr
  emit (.dmaRead w.fn tag a.1 len (pasidSent s1 w) a.2 (s1.func w.fn).relaxed) s1

/-- The reads of a command whose completions come in the same step: they need a tag, and the function's right
to make requests. -/
def readNow (w : Requester) (segs : List (Nat × Nat)) (s : State) : Option State :=
  if hostLen segs = 0 then some s
  else if !fnRuns s w.fn then none
  else match takeTag s w.fn with
  | none => none
  | some tag =>
    some (dmaBytesRead w.fn (hostLen segs)
      (forEach (readCuts s w.fn segs) (fun p st => emitRead tag w p.1 p.2 st) s))

/-- A waiting read takes a tag, if there is one. -/
def issuePart (r : Read) (s : State) : State :=
  if !fnRuns s r.who.fn then s
  else match takeTag s r.who.fn with
  | none => s
  | some tag =>
    let tr := (translate (askPage r.who r.addr s) r.who r.addr).2
    modEp (fun e => { e with reads := e.reads.map (fun x =>
      if x = r then { x with st := .out tag s.clock, translated := tr } else x) }) (emitRead tag r.who r.addr r.len s)

/-- Reads that wait for a tag take the free ones, oldest first. -/
def issueParts (s : State) : State := forEach (s.ep.reads.filter (fun r => decide (r.st = .waiting))) issuePart s

/-- Is a read part of what a requester reads for `what`? -/
def Read.isFor (r : Read) (w : Requester) (what : ReadFor) : Bool :=
  decide (r.who.fn = w.fn ∧ r.who.q = w.q ∧ r.what = what) && !r.dropped

/-- The host segments of something are read on tags, as far as tags are free. -/
def startReads (w : Requester) (what : ReadFor) (segs : List (Nat × Nat)) (s : State) : State :=
  if s.ep.reads.any (fun r => r.isFor w what) then issueParts s
  else
    issueParts (modEp (fun e => { e with reads := e.reads ++ (readCuts s w.fn segs).zipIdx.map (fun p =>
      { who := w, what := what, part := p.2, addr := p.1.1, len := p.1.2, translated := false, st := .waiting, dropped := false }) }) s)

/-- The bytes that came back for something, once every part is there. -/
def readsBack (s : State) (w : Requester) (what : ReadFor) : Option Bytes :=
  let l := s.ep.reads.filter (fun r => r.isFor w what)
  if l = [] then none
  else l.foldl (fun a r => match a, r.st with
    | some b, .back d => some (b ++ d)
    | _, _ => none) (some [])

/-- Reads that `p` picks no longer deliver their data: those outstanding keep their tags until their completions
come (R314), the others are gone. -/
def dropReads (p : Read → Bool) (s : State) : State :=
  modEp (fun e => { e with reads := (e.reads.filter (fun r => !p r || r.tag?.isSome)).map (fun r =>
    if p r then { r with dropped := true } else r) }) s

/-! ### Errors (spec 11 R374, R378, 10 R350) -/

/-- Does an index come before `e` in the ring, counted from the head? -/
def beforeIdx (x : Queue) (i e : Nat) : Bool :=
  decide ((i + qSize x - x.head) % qSize x < (e + qSize x - x.head) % qSize x)

/-- The vectors of a queue that enters ERROR, whatever IRQ_ENABLE holds. -/
def errorVectors (fn q : Nat) (s : State) : State :=
  let x := s.queue fn q
  let s1 := signal fn (qVector x) s
  if isProducer (qKind x) && decide (qCq x ≠ 0xFFFF) then
    signal fn (qVector (s.queue fn (qCq x))) s1
  else s1

/-- The queue stops in ERROR: the chains before the entry finish, and an error completion then covers
the entries up to it. `marks` is the stopping entry, or nothing where no entry stands at the index. Receive buffers
that hold no frame are given back: none reaches them any more (log entry 61). -/
def queueError (fn q status reason errIdx kind : Nat) (marks : List Bytes) (s : State) : State :=
  let x := s.queue fn q
  if x.st = .error ∨ x.st = .disabled then s
  else
    let stop : List Chain := if isProducer (qKind x) then
        [{ first := errIdx, entries := marks, started := true, finished := true, status := status, result := 0 }]
      else []
    let x1 := { x with
      st := .error
      status := status
      reason := reason
      errIdx := errIdx
      reading := false
      partialChain := []
      errAt := s.clock
      posted := if qKind x = kRX then [] else x.posted
      chains := x.chains.filter (fun c => beforeIdx x c.first errIdx && (decide (qKind x ≠ kRX) || c.finished)) ++ stop }
    errorVectors fn q
      (polderFault fn status kind q (discardHeld fn q (s.setQueue fn q x1)))

/-- A malformed entry stops the queue (spec 11 R369). -/
def malformed (fn q idx reason : Nat) (e : Bytes) (s : State) : State :=
  queueError fn q stMALFORMED reason idx 1 [e] (countFor 0x4090 1 1 fn s)

/-- Stops a queue without completion: Bus Master Enable was cleared (spec 09 R314, 11 R374). One already in ERROR
keeps its status, and drops what it has not written. -/
def queueMasterOff (fn q : Nat) (s : State) : State :=
  let x := s.queue fn q
  if x.st = .disabled then s
  else if x.st = .error then
    s.setQueue fn q { x with reading := false, partialChain := [], posted := [], chains := [], waiting := [] }
  else
    let x1 := { x with
      st := .error
      status := stMASTER_DISABLED
      reason := 0
      errIdx := x.head
      errAt := s.clock
      reading := false
      partialChain := []
      posted := []
      chains := []
      waiting := [] }
    errorVectors fn q
      (polderFault fn stMASTER_DISABLED 1 q (discardHeld fn q (s.setQueue fn q x1)))

/-- A request of a queue that may not be made: PASID off, or blocked by ACS (R365, R326). -/
def requestRefused (s : State) (fn q addr len : Nat) : Bool :=
  pasidOff s fn (s.queue fn q) || acsBlocks s (queueReq s fn q) addr len

/-- A read of the segments of a chain is refused by PASID or ACS. -/
def readRefused (s : State) (fn q : Nat) (segs : List (Nat × Nat)) : Bool :=
  segs.any (fun g => requestRefused s fn q g.1 g.2)

/-- The error of such a request, at ring index `idx`; a blocked request is reported and counted. -/
def refuseRequest (fn q idx : Nat) (marks : List Bytes) (s : State) : State :=
  if pasidOff s fn (s.queue fn q) then queueError fn q stACCESS 0 idx 1 marks s
  else queueError fn q stACCESS 0 idx 3 marks (acsReport fn s)

/-- A write of queue `q` to a buffer of its chain at ring index `idx`. -/
def queueWrite (fn q idx addr : Nat) (marks : List Bytes) (data : Bytes) (s : State) : State :=
  if data = [] then s
  else if requestRefused s fn q addr data.length then refuseRequest fn q idx marks s
  else memWrite (queueReq s fn q) addr data s

/-! ### Interrupt moderation (spec 11 R378) -/

/-- One element (or mirror word) was written for the queue whose VECTOR counts it. MOD_COUNT 0 and
MOD_TIME 0 each switch their own condition off while the other is set (log entry 29). -/
def moderate (fn q : Nat) (s : State) : State :=
  let x := s.queue fn q
  if !qIrqEnable x then s
  else
    let n := x.irqCount + 1
    if (qModCount x = 0 ∧ qModTime x = 0) ∨ (qModCount x ≠ 0 ∧ qModCount x ≤ n) then
      signal fn (qVector x) (s.setQueue fn q { x with irqCount := 0, irqAt := none })
    else s.setQueue fn q { x with
      irqCount := n
      irqAt := if qModTime x = 0 then none else if x.irqAt = none then some s.clock else x.irqAt }

/-! ### Completions and the head mirror (spec 11 R373 to R377) -/

/-- Is a ring at its N − 1 unconsumed elements (R377)? -/
def ringFull (x : Queue) : Bool :=
  decide ((x.tail + qSize x - x.head) % qSize x = qSize x - 1)

/-- The phase bit of the next element: 1 on the first pass (R373). -/
def phaseBit (x : Queue) : Nat := if x.wraps % 2 = 0 then 1 else 0

/-- The element after a write at the device's tail. -/
def advanceTail (x : Queue) : Queue :=
  if x.tail + 1 = qSize x then { x with tail := 0, wraps := x.wraps + 1 } else { x with tail := x.tail + 1 }

/-- Can a completion be written to the queue's completion queue (R376, R382)? -/
def cqRoom (s : State) (fn q : Nat) : Bool :=
  let c := s.queue fn (qCq (s.queue fn q))
  decide (c.st = .enabled) && !ringFull c

/-- The 16 bytes of a completion (Table 11.8). -/
def completionBytes (phase status q tag index count result : Nat) : Bytes :=
  [byteOf status, byteOf phase] ++ leBytes 2 q ++ leBytes 4 tag ++ leBytes 2 index
  ++ leBytes 2 count ++ leBytes 4 result

/-- Entries a completion up to `index` covers. -/
def coveredCount (x : Queue) (index : Nat) : Nat := (index + 1 + qSize x - x.covered) % qSize x

/-- The count a completion gives. -/
def cplCount (x : Queue) (c : Cpl) : Nat := c.count.getD (coveredCount x c.index)

/-- The address of a completion queue's next element. -/
def cqSlot (s : State) (fn q : Nat) : Nat :=
  let y := s.queue fn (qCq (s.queue fn q))
  qBase y + 16 * y.tail

/-- Is the completion queue's own request refused (R365, R326)? -/
def cqRefused (s : State) (fn q : Nat) : Bool := requestRefused s fn (qCq (s.queue fn q)) (cqSlot s fn q) 16

/-- The completion queue stops at a request that is refused. -/
def cqStops (fn q : Nat) (s : State) : State :=
  refuseRequest fn (qCq (s.queue fn q)) (s.queue fn (qCq (s.queue fn q))).tail [] s

/-- Writes one completion. -/
def writeCompletion (fn q : Nat) (c : Cpl) (n : Nat) (s : State) : State :=
  let x := s.queue fn q
  let cq := qCq x
  let y := s.queue fn cq
  moderate fn cq
    (dmaWrite (queueReq s fn cq) (cqSlot s fn q) (completionBytes (phaseBit y) c.status q c.tag c.index n c.result)
      ((s.setQueue fn q { x with covered := (x.covered + n) % qSize x }).setQueue fn cq (advanceTail y)))

/-- Writes the head mirror with the index after the last entry done (R376). -/
def writeMirror (fn q idx : Nat) (s : State) : State :=
  let x := s.queue fn q
  if requestRefused s fn q (qMirror x) 4 then refuseRequest fn q idx [] s
  else
    let s1 := dmaWrite (queueReq s fn q) (qMirror x) (leBytes 4 ((idx + 1) % qSize x))
      (s.setQueue fn q { x with covered := (idx + 1) % qSize x })
    if qMirrorOnly x then moderate fn q s1 else s1

/-- A completion waits, and holds its queue (R376, R382). -/
def holdCpl (fn q : Nat) (c : Cpl) (s : State) : State :=
  let x := s.queue fn q
  s.setQueue fn q { x with
    waiting := x.waiting ++ [c]
    st := if x.st = .enabled then .held else x.st }

/-- A completion that finds no room: an OK one is given by the mirror, every other one is held (R376, R382). -/
def noRoom (fn q : Nat) (c : Cpl) (s : State) : State :=
  let x := s.queue fn q
  if x.waiting = [] ∧ c.status = stOK ∧ qMirror x ≠ 0 then
    writeMirror fn q c.index (countFor 0x4090 2 1 fn (s.setQueue fn q { x with dropped := satAdd16 x.dropped 1 }))
  else holdCpl fn q c s

/-- A completion that is due: written, given by the mirror, or held (R376, R382). -/
def deliver (fn q : Nat) (c : Cpl) (s : State) : State :=
  let x := s.queue fn q
  if qMirrorOnly x then
    if c.status = stOK then writeMirror fn q c.index s else s
  else if x.waiting = [] ∧ cqRoom s fn q then
    if cqRefused s fn q then noRoom fn q c (cqStops fn q s) else writeCompletion fn q c (cplCount x c) s
  else noRoom fn q c s

/-- A queue after RESET: DISABLED with indices, STATUS, REASON and ERRIDX at 0, its context kept (R380). -/
def queueCleared (x : Queue) : Queue :=
  { Queue.reset with ctx := x.ctx, data := x.data, ignored := x.ignored, cmd := x.cmd, cmdResult := x.cmdResult
                     dropped := x.dropped, sampleSeq := x.sampleSeq }

/-- A draining queue with nothing left becomes DISABLED; the end of a RESET that waited clears it (R380,
spec 14 R496). -/
def drainEnd (fn q : Nat) (s : State) : State :=
  let x := s.queue fn q
  if x.st = .draining ∧ x.chains = [] ∧ (x.waiting = [] ∨ x.resetting) then
    s.setQueue fn q (if x.resetting then queueCleared x else { x with st := .disabled })
  else s

/-- The error completion of a queue that stopped at an index where no entry was fetched: the tag is free.
After an overrun it covers what was done; where that is nothing, the count is free too (log entry 62). -/
def errorCpl (x : Queue) (c : Chain) (s : State) : Cpl × State :=
  let a := drawNat s
  let b := drawNat a.2
  let n := (x.head + qSize x - x.covered) % qSize x
  if x.reason ≠ 10 then
    ({ status := c.status, tag := a.1 % 2 ^ 32, index := c.first, result := 0, count := none }, a.2)
  else if n = 0 then
    ({ status := c.status, tag := a.1 % 2 ^ 32, index := c.first, result := 0, count := some (b.1 % 65536) }, b.2)
  else
    ({ status := c.status, tag := x.doneTag, index := (x.head + qSize x - 1) % qSize x, result := 0, count := none }, s)

/-- The oldest chain is done: the head moves past it, and its completion is due (R374). A non-OK chain under
MIRROR_ONLY stops the queue, and no chain after it runs on (R376). The error marker of `queueError` gives the error
completion. -/
def finishOldest (fn q : Nat) (s : State) : State :=
  let x := s.queue fn q
  match x.chains with
  | [] => s
  | c :: rest =>
    if !c.finished then s
    else if c.entries = [] then deliver fn q (errorCpl x c s).1 ((errorCpl x c s).2.setQueue fn q { x with chains := rest })
    else
      let idx := chainLastIdx x c
      let x1 := { x with chains := rest, head := (idx + 1) % qSize x, doneTag := eTag (chainLast c) }
      let s1 := s.setQueue fn q x1
      let cpl : Cpl := { status := c.status, tag := eTag (chainLast c), index := idx, result := c.result, count := none }
      if x.st = .error ∧ rest = [] ∧ c.status = x.status ∧ c.first = x.errIdx then deliver fn q cpl s1
      else if c.status ≠ stOK ∧ qMirrorOnly x then
        queueError fn q c.status 0 idx 1 [] (s.setQueue fn q { x1 with chains := [] })
      else if c.status ≠ stOK ∨ eCqReq (chainLast c) then drainEnd fn q (deliver fn q cpl s1)
      else drainEnd fn q s1

/-- Writes the waiting completions of a queue while there is room; one that comes after a mirror
write covers only the entries after it (R382). -/
def releaseWaiting (fn q : Nat) : Nat → State → State
  | 0, s => s
  | k + 1, s =>
    let x := s.queue fn q
    match x.waiting with
    | [] => s
    | c :: rest =>
      if !cqRoom s fn q then s
      else if cqRefused s fn q then cqStops fn q s
      else
        releaseWaiting fn q k
          (writeCompletion fn q c (cplCount x c) (s.setQueue fn q { x with waiting := rest }))

/-- A chain of a queue, by the ring index of its FIRST entry. -/
def chainAt (x : Queue) (first : Nat) : Option Chain := x.chains.find? (fun c => decide (c.first = first))

/-- Changes a chain of a queue. -/
def updChain (fn q first : Nat) (f : Chain → Chain) (s : State) : State :=
  let x := s.queue fn q
  s.setQueue fn q { x with chains := x.chains.map (fun c => if c.first = first then f c else c) }

/-- The kind's block has finished a chain with a status and a result. One that is finished, as where a refused write
stopped the queue at it, keeps what it has. -/
def finishChain (fn q first status result : Nat) (s : State) : State :=
  updChain fn q first (fun c =>
    if c.finished then c else { c with started := true, finished := true, status := status, result := result }) s

/-- May a chain start (R368)? FENCE waits for every earlier chain to be done; ORDERED also keeps
every later one from starting before it is done. A TX or RX queue goes in ring order. -/
def mayStart (x : Queue) (c : Chain) : Bool :=
  let before := x.chains.filter (fun d => beforeIdx x d.first c.first)
  !c.started && !c.finished && before.all (fun d => d.finished || !(eOrdered (d.entries.headD [])))
  && (if eFence (c.entries.headD []) || eOrdered (c.entries.headD []) then before.all (·.finished) else true)

/-- The next chain of a queue that may start with an opcode. -/
def nextChain (x : Queue) (op : Nat) : Option Chain :=
  match x.chains.find? (fun c => !c.started && !c.finished) with
  | none => none
  | some c => if mayStart x c && decide (eOpcode (c.entries.headD []) = op) then some c else none

/-! ### Entry checks shared by the kinds (spec 11 Table 11.6) -/

/-- Does a device-DDR4 range lie in a region of the function that grants a right of spec 13 Table 13.5
(0 LOCAL_READ, 1 LOCAL_WRITE)? -/
def ddrGrants (s : State) (fn right addr len : Nat) : Bool :=
  s.siphon.regions.any (fun e =>
    let r := e.2
    r.valid && decide (r.fn = fn) && isDdr r.base && r.rights.testBit right
    && decide (r.base % 2 ^ 41 ≤ addr % 2 ^ 41) && decide (addr % 2 ^ 41 + len ≤ r.base % 2 ^ 41 + r.len))

/-- Is an address range outside the polder, for an access of the given right (R367)? -/
def outside (s : State) (fn right addr len : Nat) : Bool :=
  if isDdr addr then !(ddrGrants s fn right addr len) else decide (2 ^ 63 - 1 < addr + len - 1)

/-- Reasons 2, 5 and 6 of any entry, and the reserved bits of a device-DDR4 address. -/
def commonReasons (e : Bytes) : List Nat :=
  (if 32 ≤ eFlags e then [2] else []) ++ (if isDdr (eAddr e) && decide (bitsOf (eAddr e) 62 41 ≠ 0) then [2] else [])
  ++ (if eLength e = 0 then [5] else []) ++ (if eCqReq e && !eLast e then [6] else [])

/-- Bytes `off` to `off + len - 1` are reserved: reason 2 unless zero. -/
def reserved (e : Bytes) (off len : Nat) : List Nat := if slice e off len = zeros len then [] else [2]

/-- The lowest reason of those that apply (DEDUCED, log entry 30). -/
def leastReason (l : List Nat) : Option Nat :=
  (List.range 11).find? (fun r => l.contains r)

end Sys2Proof.Machine
end

