-- ==== Sys2Proof/Machine/Keys.lean ====
section
/-! DEFINITION. Key slots and blobs (spec 12 R397 to R403): the key-encryption key, UNWRAP and WRAP as
every user of a slot shares them. -/

namespace Sys2Proof.Machine

/-- Key length of an algorithm code, 0 where unknown (spec 12 Table 12.1). -/
def algKeyLen (a : Nat) : Nat :=
  match a with
  | 1 => 16
  | 2 => 32
  | 3 => 16
  | 4 => 32
  | 5 => 16
  | 6 => 32
  | 7 => 32
  | 8 => 64
  | _ => 0

/-- Blob length of an algorithm code (spec 12 Table 12.1). -/
def algBlobLen (a : Nat) : Nat := if algKeyLen a = 0 then 0 else algKeyLen a + 24

/-- Usage bits (spec 12 Table 12.1). -/
def useEncrypt : Nat := 0
def useDecrypt : Nat := 1
def useJournal : Nat := 2
def useSiphon : Nat := 3
def useFdp : Nat := 4

/-- The key-encryption key of polder `n` at generation `g` (spec 12 R400). -/
def kekOf (s : State) (n g : Nat) : Bytes :=
  Config.shake256 32 (Config.deviceSecret ++ (if n = 0 then zeros 16 else s.boot.areaId)
    ++ beBytes 2 n ++ beBytes 4 g)

/-- The check field of a blob header (spec 12 Table 12.2). -/
def blobCheck (kek hdr : Bytes) : Bytes := Config.shake256 4 (kek ++ [1] ++ hdr)

/-- Is a key slot empty? -/
def slotEmpty (s : State) (g : Nat) : Bool := decide ((s.keySlot g).key = [])

/-- The lowest free local slot of a polder. -/
def freeLocalSlot (s : State) (fn : Nat) : Option Nat :=
  (List.range (s.polder fn).counts.keySlots).find? (fun l => match globalOf s fn 2 l with
    | some g => slotEmpty s g
    | none => false)

/-- A blob taken apart: algorithm, usage, slot field, and the key. -/
structure Blob where
  alg : Nat
  usage : Nat
  slot : Nat
  key : Bytes
deriving DecidableEq, Repr

/-- Steps 1 to 4 of R401: the blob, or the status of the first check that fails. -/
def openBlob (s : State) (fn : Nat) (b : Bytes) : Except Nat Blob :=
  let alg := byteAt b 1
  let usage := beField b 2 2
  if byteAt b 0 ≠ 1 ∨ algKeyLen alg = 0 ∨ 32 ≤ usage ∨ b.length ≠ algBlobLen alg then .error stRANGE
  else if beField b 6 2 ≠ fn then .error stACCESS
  else if beField b 8 4 ≠ (s.polder fn).gen then .error stSTATE
  else
    let kek := kekOf s fn (s.polder fn).gen
    match Config.kwpUnwrap kek (b.drop 16) with
    | none => .error stAUTH_FAIL
    | some key =>
      if blobCheck kek (b.take 12) = slice b 12 4 ∧ key.length = algKeyLen alg then
        .ok { alg := alg, usage := usage, slot := beField b 4 2, key := key }
      else .error stAUTH_FAIL

/-- Steps 5 and 6 of R401: the local slot the key goes to, or the status of the refusal. -/
def blobSlot (s : State) (fn : Nat) (b : Blob) : Except Nat Nat :=
  if b.slot = 0xFFFF then
    match freeLocalSlot s fn with
    | some l => .ok l
    | none => .error stNO_RESOURCE
  else if (s.polder fn).counts.keySlots ≤ b.slot then .error stRANGE
  else match globalOf s fn 2 b.slot with
    | none => .error stRANGE
    | some g => if slotEmpty s g then .ok b.slot else .error stSTATE

/-- Every refusal of an UNWRAP is counted, and one at step 4 raises its event (spec 12 R401). -/
def unwrapRefused (fn status : Nat) (s : State) : State :=
  let s1 := countFor 0x4101 5 1 fn s
  if status = stAUTH_FAIL then raise 288 s1 else s1

/-- A key goes into a slot. -/
def loadSlot (g : Nat) (b : Blob) (s : State) : State :=
  s.setKeySlot g { alg := b.alg, usage := b.usage, key := b.key, users := (s.keySlot g).users }

/-- A slot's key is zeroed and the slot is empty (spec 12 R403). -/
def clearSlot (g : Nat) (s : State) : State := s.setKeySlot g KeySlot.reset

/-- UNWRAP for a polder (spec 12 R401): the local slot loaded, or the status of the refusal. -/
def unwrapBlob (fn : Nat) (b : Bytes) (s : State) : Except Nat Nat × State :=
  match openBlob s fn b with
  | .error st => (.error st, unwrapRefused fn st s)
  | .ok x =>
    match blobSlot s fn x with
    | .error st => (.error st, unwrapRefused fn st s)
    | .ok l =>
      match globalOf s fn 2 l with
      | some g => (.ok l, loadSlot g x s)
      | none => (.error stRANGE, unwrapRefused fn stRANGE s)

/-- A blob of the dictionary or the journal is refused, which is unwrapped as polder 0 under R401: by a check
of R401, or for want of a free slot. -/
def blobRefused (s : State) (b : Bytes) : State :=
  match openBlob s 0 b with
  | .error st => unwrapRefused 0 st s
  | .ok _ => if (freeLocalSlot s 0).isNone then unwrapRefused 0 stNO_RESOURCE s else s

/-- The blob WRAP makes of a key (spec 12 R402). -/
def wrapBlob (s : State) (fn slot alg usage : Nat) (key : Bytes) : Bytes :=
  let g := (s.polder fn).gen
  let kek := kekOf s fn g
  let hdr := [1, byteOf alg] ++ beBytes 2 usage ++ beBytes 2 slot ++ beBytes 2 fn ++ beBytes 4 g
  hdr ++ blobCheck kek hdr ++ Config.kwpWrap kek key

/-- A user takes or gives up a slot (spec 12 R398). -/
def addUser (g : Nat) (s : State) : State :=
  s.setKeySlot g { s.keySlot g with users := (s.keySlot g).users + 1 }
def dropUser (g : Nat) (s : State) : State :=
  s.setKeySlot g { s.keySlot g with users := (s.keySlot g).users - 1 }

/-- KeySlotInfo's record (spec 12 Table 12.5). -/
def keySlotRecord (s : State) (g : Nat) : Bytes :=
  let k := s.keySlot g
  [byteOf (if slotEmpty s g then 0 else 1), byteOf k.alg] ++ beBytes 2 k.usage ++ beBytes 2 k.users
  ++ beBytes 2 0

/-- KEY_SLOT_INFO (spec 12 R414). -/
def execKeySlotInfo (r : Rq) (s : State) : Host.Outcome State Fault Refusal :=
  .next (serveAction (at0 0x4110 0)
    (fun q s => abortIf (4095 < beField q.msg.data 0 2
        || decide ((s.polder (beField q.msg.data 0 2)).counts.keySlots ≤ beField q.msg.data 2 2)) aRANGE)
    (fun q s => match globalOf s (beField q.msg.data 0 2) 2 (beField q.msg.data 2 2) with
      | some g => (s, .ok 0 0 9 (keySlotRecord s g))
      | none => (s, .abort aRANGE)) r s)

/-! ### A session's key (spec 12 R415, 02 R75, R79, R85) -/

/-- A session whose key changes: windows and counters return to 0, and its subscriptions end; its Vendor role stays
(DESIGN CHOICE, log entry 135). -/
def sessionRekeyed (n : Nat) (g : Nat) (s : State) : State :=
  modDict (fun d => { d with subs := d.subs.filter (fun u => decide (u.session ≠ n)) })
    (s.setSession n { s.session n with
      keySlot := some g, setAside := false, rxHigh := 0, rxMap := 0, tx := 0, exhausted := false })

/-- The slot of the session's previous key is cleared. -/
def clearSessionKey (n : Nat) (s : State) : State :=
  match (s.session n).keySlot with
  | some g => clearSlot g s
  | none => s

/-- A KeyBlob as R415 asks for it: opened, or the abort. -/
def sessionBlob (s : State) (b : Bytes) : Except Nat Blob :=
  match openBlob s 0 b with
  | .error _ => .error aRANGE
  | .ok x => if x.alg = 4 ∧ x.usage.testBit useFdp ∧ x.slot = 0xFFFF then .ok x else .error aRANGE

/-- Loads a session's key from its blob: none when it is refused. -/
def loadSessionKey (n : Nat) (b : Bytes) (s : State) : State :=
  match sessionBlob s b with
  | .error _ => s
  | .ok x =>
    match freeLocalSlot s 0 with
    | none => s
    | some l =>
      match globalOf s 0 2 l with
      | none => s
      | some g => sessionRekeyed n g (clearSessionKey n (addUser g (loadSlot g x s)))

end Sys2Proof.Machine
end

