-- ==== Sys2Proof/Machine/Wfq.lean ====
section
/-! DEFINITION. Weighted fair queuing (spec 08 R266), as the port schedulers, the host-transmit
schedulers and the cipher dispatcher share it. -/

namespace Sys2Proof.Machine

/-- `later(a, b)` of R266: a after b on the 48-bit circle. -/
def wfqLater (a b : Nat) : Bool :=
  let d := (a + (2 ^ 48 - b % 2 ^ 48)) % 2 ^ 48
  decide (1 ≤ d ∧ d ≤ 2 ^ 47 - 1)

/-- The start and finish of a stamp (R266). -/
def wfqStamp (v fprev : Nat) (valid : Bool) (w weight : Nat) : Nat × Nat :=
  let s := if valid && wfqLater fprev v then fprev else v
  (s, (s + w * 65536 / weight) % 2 ^ 48)

/-- The member with the earliest finish time on the circle; the first of equals in the list. -/
def smallestF {α : Type} : List (α × Nat) → Option α
  | [] => none
  | (a, f) :: rest => some ((rest.foldl (fun best e => if wfqLater best.2 e.2 then e else best) (a, f)).1)

/-- A scheduler whose queues are numbered users: the part the three share. -/
structure Wfq where
  v : Nat
  fprev : Tab Nat
  fvalid : Tab Bool
  heads : Tab (Nat × Nat)
deriving DecidableEq, Repr

/-- Stamps the head of user `u` with wire length `w` and weight. -/
def Wfq.stamp (x : Wfq) (u w weight : Nat) : Wfq :=
  let st := wfqStamp x.v (Tab.get 0 x.fprev u) (Tab.get false x.fvalid u) w weight
  { x with
    fprev := Tab.set 0 x.fprev u st.2
    fvalid := Tab.set false x.fvalid u true
    heads := Tab.ins x.heads u st }

/-- The head of user `u` goes; V moves when it was selected by its finish time, and every user that
holds nothing and whose last finish is not after V becomes stale. -/
def Wfq.select (x : Wfq) (u : Nat) (byF : Bool) (busy : Nat → Bool) : Wfq :=
  let v := if byF then (Tab.get (0, 0) x.heads u).2 else x.v
  { x with
    v := v
    heads := Tab.del x.heads u
    fvalid := x.fvalid.filter (fun e => busy e.1 || wfqLater (Tab.get 0 x.fprev e.1) v) }

end Sys2Proof.Machine
end

