-- ==== Sys2Proof/Machine/Cipher.lean ====
section
/-! DEFINITION. The cipher farm (spec 12): entries of CIPHER queues, messages, the dispatcher, the
cores, and what a message leaves when it ends. -/

namespace Sys2Proof.Machine

/-! ### Entries (spec 12 Table 12.4) -/

def cOpHead (op : Nat) : Bool := decide (0x10 ≤ op ∧ op ≤ 0x16)
def cOpSingle (op : Nat) : Bool := decide (0x18 ≤ op ∧ op ≤ 0x1A)
def cSlot (e : Bytes) : Nat := leField e 16 2
def cAadLen (e : Bytes) : Nat := leField e 20 4
def cDest (e : Bytes) : Nat := leField e 16 8

/-- Is the opcode a GCM encrypt or decrypt; a GMAC; an XTS? -/
def cIsGcm (op : Nat) : Bool := decide (op = 0x10 ∨ op = 0x11)
def cIsGmac (op : Nat) : Bool := decide (op = 0x12 ∨ op = 0x13)
def cIsXts (op : Nat) : Bool := decide (op = 0x15 ∨ op = 0x16)

/-- KIND_WORDS of a CIPHER queue (spec 12 Table 12.3). -/
def cipherContextOk (x : Queue) : Bool :=
  decide (qWord x 8 < 512 ∧ qWord x 8 ≤ 256) && (List.range 7).all (fun i => decide (qWord x (9 + i) = 0))

/-- CORE_LIMIT, 0 for none. -/
def coreLimit (x : Queue) : Nat := bitsOf (qWord x 8) 8 0

/-- Does the AAD length equal the sum of the first k data lengths, for some k? -/
def aadFits : Nat → List Bytes → Bool
  | n, [] => decide (n = 0)
  | n, e :: rest => decide (n = 0) || (decide (eLength e ≤ n) && aadFits (n - eLength e) rest)

/-- Is the data entry at place `i` of a chain (0 the first data entry) authenticated only? -/
def authOnly (head : Bytes) (data : List Bytes) (i : Nat) : Bool :=
  cIsGmac (eOpcode head) || (cIsGcm (eOpcode head) && decide (((data.take i).map eLength).sum < cAadLen head))

/-- The reasons of entry `i` of a chain of a CIPHER queue (spec 11 Table 11.6, 12 R405). -/
def cipherReasons (s : State) (fn : Nat) (chain : List Bytes) (i : Nat) : List Nat :=
  let e := chain.getD i []
  let op := eOpcode e
  let head := chain.headD []
  let data := chain.drop 1
  let slots := (s.polder fn).counts.keySlots
  let known := cOpHead op || cOpSingle op || decide (op = 0x1F)
  (if known then [] else [1])
  ++ (if outside s fn 0 (eAddr e) (eLength e) && op != 0x1A then [7] else [])
  ++ (if (op = 0x10 || op = 0x12) && outside s fn 1 (eAddr e) (eLength e) then [7] else [])
  ++ (if cOpHead op then
        reserved e 18 2 ++ (if cIsGcm op then reserved e 24 8 else reserved e 24 8)
        ++ (if eLength e ≠ 32 ∨ eLast e ∨ !eFirst e then [9] else [])
        ++ (if !cIsGcm op && decide (cAadLen e ≠ 0) then [9] else [])
        ++ (if cIsGcm op && !aadFits (cAadLen e) data then [9] else [])
        ++ (if slots ≤ cSlot e then [8] else [])
      else if op = 0x18 then
        reserved e 16 16
        ++ (if !(eFirst e && eLast e) then [9] else [])
        ++ (if eLength e = 40 ∨ eLength e = 56 ∨ eLength e = 88 then [] else [9])
      else if op = 0x19 then
        reserved e 27 1 ++ reserved e 30 2
        ++ (if !(eFirst e && eLast e) then [9] else [])
        ++ (if algKeyLen (byteAt e 26) = 0 ∨ eLength e ≠ algKeyLen (byteAt e 26) then [9] else [])
        ++ (if slots ≤ leField e 24 2 ∧ leField e 24 2 ≠ 0xFFFF then [8] else [])
        ++ (if outside s fn 1 (cDest e) (algBlobLen (byteAt e 26)) then [7] else [])
      else if op = 0x1A then
        reserved e 18 14
        ++ (if !(eFirst e && eLast e) then [9] else [])
        ++ (if eLength e ≠ 1 ∨ eAddr e ≠ 0 then [9] else [])
        ++ (if slots ≤ cSlot e then [8] else [])
      else if op = 0x1F then
        reserved e 24 8
        ++ (if eFirst e then [9] else [])
        ++ (if authOnly head data (i - 1) && decide (cDest e ≠ 0) then [9] else [])
        ++ (if !(authOnly head data (i - 1)) && outside s fn 1 (cDest e) (eLength e) then [7] else [])
      else [])

/-! ### Reading what a chain names -/

/-- The bytes of a run of segments: host segments are what the read returned, in order, and device
DDR4 is read here. None where the host's bytes are not of the segments' lengths. -/
def gather (s : State) : List (Nat × Nat) → Bytes → Option Bytes
  | [], host => if host = [] then some [] else none
  | (a, n) :: rest, host =>
    if isDdr a then (gather s rest host).map (fun r => ddrRead s (a % 2 ^ 41) n ++ r)
    else if host.length < n then none
    else (gather s rest (host.drop n)).map (fun r => host.take n ++ r)

/-- An operation on the bytes of the segments that the chain at `first` names: refused by PASID or ACS, read on
tags, or carried out once the bytes are there (spec 09 R307, R309). -/
def hostOp (fn q first : Nat) (marks : List Bytes) (segs : List (Nat × Nat)) (h : HostData)
    (go : Bytes → State → State) (s : State) : State :=
  if readRefused s fn q segs then refuseRequest fn q first marks s
  else match h with
  | .now b =>
    (match gather s segs b, readNow (queueReq s fn q) segs s with
      | some d, some s1 => go d s1
      | _, _ => s)
  | .tags =>
    if hostLen segs = 0 then
      (match gather s segs [] with
        | some d => go d s
        | none => s)
    else if fnRuns s fn then startReads (queueReq s fn q) (.data first) segs s
    else s
  | .back b =>
    (match gather s segs b with
      | some d => go d (dmaBytesRead fn (hostLen segs) s)
      | none => s)

/-! ### Waiting messages and stamps (spec 12 R411) -/

/-- The users' order of ties: journal, Siphon, polders ascending. -/
def userKey : CUser → Nat
  | .fdp => 0
  | .journal => 1
  | .siphon => 2
  | .polder n => 3 + n

def userWeight (s : State) : CUser → Nat
  | .fdp => 1
  | .journal => cfgN s 0x4100 3
  | .siphon => cfgN s 0x4100 4
  | .polder n => cfgN s (0x3000 + n) 0xA

/-- P of a message: GCM leaves the AAD out, a GMAC has none. -/
def msgP (m : CMsg) : Nat := if cIsGmac m.op then 0 else m.source.length - m.aad

/-- W of a message (R411): all its bytes plus 64. -/
def msgW (m : CMsg) : Nat := m.source.length + 64

def cipherWfq (c : Cipher) : Wfq := { v := c.v, fprev := c.fprev, fvalid := c.fvalid, heads := c.heads }
def setCipherWfq (w : Wfq) (c : Cipher) : Cipher :=
  { c with v := w.v, fprev := w.fprev, fvalid := w.fvalid, heads := w.heads }

def userWaits (c : Cipher) (k : Nat) : Bool := c.waiting.any (fun m => decide (userKey m.user = k))

/-- The waiting message that a user's turn gives next: within a polder its queues take turns, one
message each, ascending from the one after the last served (R411). -/
def userHead (c : Cipher) (ok : CMsg → Bool) (k : Nat) : Option CMsg :=
  let mine := c.waiting.filter (fun m => decide (userKey m.user = k) && ok m)
  let last := Tab.get 1024 c.turn k
  let rank := fun (m : CMsg) => if last < m.q ∧ last < 1024 then m.q else if last = 1024 then m.q else m.q + 1024
  match mine with
  | [] => none
  | a :: rest => some (rest.foldl (fun best m => if rank m < rank best then m else best) a)

/-- Stamps the head of a user's waiting messages. -/
def stampUser (s : State) (c : Cipher) (u : CUser) : Cipher :=
  match userHead c (fun _ => true) (userKey u) with
  | none => c
  | some m => setCipherWfq ((cipherWfq c).stamp (userKey u) (msgW m) (userWeight s u)) c

/-- A message becomes waiting. -/
def cipherWait (m : CMsg) (s : State) : State :=
  let first := !(userWaits s.cipher (userKey m.user))
  let s1 := modCipher (fun c => { c with waiting := c.waiting ++ [m] }) s
  if first && decide (m.user ≠ .fdp) then modCipher (fun c => stampUser s1 c m.user) s1 else s1

/-! ### Cores (spec 12 R393, R395) -/

def setCore (k : Nat) (x : Core) (s : State) : State :=
  modCipher (fun c => { c with cores := Tab.set Core.reset c.cores k x }) s

/-- Cores that hold a message of which `p` holds. -/
def coresHeld (c : Cipher) (p : CMsg → Bool) : Nat :=
  (c.cores.filter (fun e => match e.2.msg with
    | some m => p m
    | none => false)).length

/-- CipherCoresInService. -/
def coresInService (s : State) : Nat := 256 - (s.cipher.cores.filter (fun e => e.2.out)).length

/-- Room of the hold buffer (R409): 8 MiB. -/
def holdRoom : Nat := 8388608

/-- Is a message held until its tag is compared (R409)? -/
def isHeld (m : CMsg) : Bool := decide (m.op = 0x11 ∧ msgP m ≤ 65536)

/-- May a waiting message start now, as far as its own limits go (R409, R411)? -/
def mayDispatch (s : State) (m : CMsg) : Bool :=
  (!isHeld m || decide (s.cipher.holdUsed + msgP m ≤ holdRoom))
  && (match m.user with
    | .polder n =>
      let lim := coreLimit (s.queue n m.q)
      decide (lim = 0) || decide (coresHeld s.cipher (fun x => decide (x.user = m.user ∧ x.q = m.q)) < lim)
    | .fdp => true
    | .journal => true
    | .siphon => true)

/-- The message the dispatcher takes, and whether by its finish time (R411). -/
def dispatchPick (s : State) : Option (CMsg × Bool) :=
  let c := s.cipher
  let ok := mayDispatch s
  let held := fun u => coresHeld c (fun m => decide (m.user = u))
  match userHead c ok 0 with
  | some m => if held .fdp < 2 then some (m, false) else none
  | none =>
    let jr := if held .journal < cfgN s 0x4100 1 then userHead c ok 1 else none
    match jr with
    | some m => some (m, false)
    | none =>
      let sr := if held .siphon < cfgN s 0x4100 2 then userHead c ok 2 else none
      match sr with
      | some m => some (m, false)
      | none =>
        let ready := c.heads.filter (fun e => (userHead c ok e.1).isSome)
        match smallestF (ready.map (fun e => (e.1, e.2.2))) with
        | none => none
        | some k => (userHead c ok k).map (fun m => (m, true))

/-- Removes a message from those that wait (the first equal one). -/
def dropWaiting (m : CMsg) (c : Cipher) : Cipher := { c with waiting := c.waiting.erase m }

/-- Modes an operation's slot must have (spec 12 R398). -/
def algFits (op alg : Nat) : Bool :=
  if cIsGcm op then decide (alg = 1 ∨ alg = 2)
  else if cIsGmac op then decide (alg = 3 ∨ alg = 4)
  else if op = 0x14 then decide (alg = 5 ∨ alg = 6)
  else decide (alg = 7 ∨ alg = 8)

/-- The usage an operation's slot must carry (spec 12 Table 12.1). -/
def usageFits (op usage : Nat) : Bool :=
  if op = 0x14 then usage.testBit useEncrypt || usage.testBit useDecrypt
  else if op = 0x10 ∨ op = 0x12 ∨ op = 0x15 then usage.testBit useEncrypt
  else usage.testBit useDecrypt

/-- The status with which a message ends at its start, or none (R406, R408, log entry 31). -/
def startStatus (s : State) (m : CMsg) : Option Nat :=
  match m.user with
  | .polder n =>
    match globalOf s n 2 m.slot with
    | none => some stSTATE
    | some g =>
      let k := s.keySlot g
      if slotEmpty s g then some stSTATE
      else if !algFits m.op k.alg || !usageFits m.op k.usage then some stACCESS
      else if (cIsGcm m.op || cIsGmac m.op) && decide (slice m.params 12 4 ≠ zeros 4) then some stRANGE
      else if cIsXts m.op && decide (m.source.length < 16) then some stRANGE
      else none
  | .fdp => none
  | .journal => none
  | .siphon => none

/-- The key a message's core loads at its start. -/
def startKey (s : State) (m : CMsg) : Bytes :=
  match m.user with
  | .polder n => match globalOf s n 2 m.slot with
    | some g => (s.keySlot g).key
    | none => []
  | .fdp => m.key
  | .journal => m.key
  | .siphon => m.key

/-- Ends a message with a status: a queue's chain, or the journal unit it belongs to. -/
def endMsg (m : CMsg) (status : Nat) (s : State) : State :=
  match m.user with
  | .polder n => finishChain n m.q m.ref status 0 s
  | .fdp => s
  | .journal => modJrn (fun j => { j with units := j.units.map (fun u =>
      if u.id = m.ref then { u with failed := true } else u) }) s
  | .siphon => s

/-- One dispatch (R411). -/
def cipherDispatch (s : State) : State :=
  match freeCore s.cipher, dispatchPick s with
  | some k, some (m, byF) =>
    let u := userKey m.user
    let c := dropWaiting m s.cipher
    let c1 := setCipherWfq ((cipherWfq c).select u byF (userWaits c)) { c with turn := Tab.set 1024 c.turn u m.q }
    let c2 := stampUser s c1 m.user
    let s1 := modCipher (fun _ => c2) s
    match startStatus s m with
    | some st => endMsg m st s1
    | none =>
      setCore k { out := false, msg := some { m with key := startKey s m } }
        (modCipher (fun x => { x with holdUsed := x.holdUsed + (if isHeld m then msgP m else 0) }) s1)
  | _, _ => s

/-- CIPHER_DISPATCH (spec 12 R411). -/
def execCipherDispatch (t : Nat) (s : State) : Host.Outcome State Fault Refusal :=
  .next (cipherDispatch (advance t s))

/-! ### The end of a message (spec 12 R405 to R410) -/

/-- The entries of a chain that carry output, with their lengths, after the authenticated-only ones. -/
def outputSegs (chain : List Bytes) : List (Nat × Nat) :=
  let head := chain.headD []
  let data := chain.drop 1
  ((data.zipIdx).filter (fun e => !(authOnly head data e.2))).map (fun e => (cDest e.1, eLength e.1))

/-- Writes a text over segments, in order. -/
def writeSegs (fn q idx : Nat) (marks : List Bytes) : List (Nat × Nat) → Bytes → State → State
  | [], _, s => s
  | (a, n) :: rest, text, s =>
    writeSegs fn q idx marks rest (text.drop n) (queueWrite fn q idx a marks (text.take n) s)

/-- Result of a message on its core: the output text, the tag to write back, and whether it verified. -/
def cipherResult (m : CMsg) : Bytes × Option Bytes × Bool :=
  let iv := m.params.take 12
  let block := m.params.take 16
  let tag := slice m.params 16 16
  let aad := m.source.take m.aad
  let text := m.source.drop m.aad
  if m.op = 0x10 then
    let r := Config.gcmEncrypt m.key iv aad text
    (r.1, some r.2, true)
  else if m.op = 0x11 then
    let r := Config.gcmDecrypt m.key iv aad text
    (r.1, none, decide (r.2 = tag))
  else if m.op = 0x12 then ([], some (Config.gcmEncrypt m.key iv m.source []).2, true)
  else if m.op = 0x13 then ([], none, decide ((Config.gcmEncrypt m.key iv m.source []).2 = tag))
  else if m.op = 0x14 then (Config.aesCtr m.key block m.source, none, true)
  else if m.op = 0x15 then (Config.xtsEncrypt m.key block m.source, none, true)
  else (Config.xtsDecrypt m.key block m.source, none, true)

/-- CipherMessages and CipherBytes of a message (spec 12 Table 12.5). -/
def cipherCount (m : CMsg) (s : State) : State :=
  let pol := match m.user with
    | .polder n => some n
    | .fdp => none
    | .journal => none
    | .siphon => none
  countQ 0x4101 3 m.source.length none none pol (countQ 0x4101 2 1 none none pol s)

/-- The outputs of a queue's message, then its completion. -/
def finishCipher (n : Nat) (m : CMsg) (s : State) : State :=
  match chainAt (s.queue n m.q) m.ref with
  | none => s
  | some ch =>
    let head := ch.entries.headD []
    let r := cipherResult m
    let segs := outputSegs ch.entries
    let text := if r.2.2 then r.1 else zeros ((segs.map (·.2)).sum)
    let s1 := writeSegs n m.q m.ref [head] segs text s
    let s2 := match r.2.1 with
      | some tag => queueWrite n m.q m.ref (eAddr head + 16) [head] tag s1
      | none => s1
    if r.2.2 then finishChain n m.q m.ref stOK 0 s2
    else finishChain n m.q m.ref stAUTH_FAIL 0 (countFor 0x4101 4 1 n s2)

/-- A message leaves its core. -/
def freeCoreOf (k : Nat) (m : CMsg) (s : State) : State :=
  modCipher (fun c => { c with holdUsed := c.holdUsed - (if isHeld m then msgP m else 0) })
    (setCore k { (coreAt s.cipher k) with msg := none } s)

/-- CIPHER_CORE_FAULT (spec 12 R395): the core leaves service; the message goes back to its user's
waiting messages once, and ends with NO_RESOURCE the second time. -/
def coreFault (k : Nat) (s : State) : State :=
  let c := coreAt s.cipher k
  if c.out then s
  else
    let s1 := raise 289 (count 0x4101 6 s)
    match c.msg with
    | none => setCore k { out := true, msg := none } s1
    | some m =>
      let s2 := setCore k { out := true, msg := none } (freeCoreOf k m s1)
      if m.restarted then endMsg m stNO_RESOURCE s2
      else cipherWait { m with restarted := true } s2

def execCipherCoreFault (t core : Nat) (s : State) : Host.Outcome State Fault Refusal :=
  .next (if core < 256 then coreFault core (advance t s) else s)

/-- Ends the messages of queues of a polder that `p` picks: on their cores, held and waiting, with no
further output and no completion (spec 12 Table 12.6). -/
def cipherDrop (p : CMsg → Bool) (s : State) : State :=
  let s1 := s.cipher.cores.foldl (fun st e => match e.2.msg with
    | some m => if p m then freeCoreOf e.1 m st else st
    | none => st) s
  modCipher (fun c =>
    let w := c.waiting.filter (fun m => !p m)
    { c with
      waiting := w
      heads := c.heads.filter (fun e => w.any (fun m => decide (userKey m.user = e.1))) }) s1

/-- A queue RESET also writes zeros over the output of a streamed GCM_DECRYPT on a core (Table 12.6). -/
def cipherQueueReset (fn q : Nat) (s : State) : State :=
  let p := fun (m : CMsg) => decide (m.user = .polder fn ∧ m.q = q)
  let s1 := s.cipher.cores.foldl (fun st e => match e.2.msg with
    | some m =>
      if p m && decide (m.op = 0x11) && !isHeld m then
        match chainAt (st.queue fn q) m.ref with
        | some ch =>
          let segs := outputSegs ch.entries
          segs.foldl (fun x g => memWrite (queueReq st fn q) g.1 (zeros g.2) x) st
        | none => st
      else st
    | none => st) s
  cipherDrop p s1

/-! ### Taking up the chains of a CIPHER queue -/

/-- The oldest startable chain of an enabled CIPHER queue with an opcode. -/
def cipherChain (s : State) (fn q op : Nat) : Option Chain :=
  let x := s.queue fn q
  if qKind x = kCIPHER ∧ x.st ≠ .disabled then nextChain x op else none

/-- A message is read and becomes waiting (R406, R411): parameter block, then the source. -/
def takeMessage (op fn q : Nat) (h : HostData) (s : State) : State :=
  match cipherChain s fn q op with
  | none => s
  | some ch =>
    let head := ch.entries.headD []
    let segs := (eAddr head, 32) :: (ch.entries.drop 1).map (fun e => (eAddr e, eLength e))
    hostOp fn q ch.first [head] segs h (fun d st =>
      cipherWait
        { user := .polder fn, q := q, ref := ch.first, op := op, slot := cSlot head, params := d.take 32, source := d.drop 32,
          aad := if cIsGcm op then cAadLen head else 0, restarted := false, key := [] }
        (updChain fn q ch.first (fun c => { c with started := true }) st)) s

def execGcmEncrypt (t fn q : Nat) (params source : Option Bytes) (s : State) : Host.Outcome State Fault Refusal :=
  .next (takeMessage 0x10 fn q (.both params source) (advance t s))
def execGcmDecrypt (t fn q : Nat) (params source : Option Bytes) (s : State) : Host.Outcome State Fault Refusal :=
  .next (takeMessage 0x11 fn q (.both params source) (advance t s))
def execGmacGenerate (t fn q : Nat) (params source : Option Bytes) (s : State) : Host.Outcome State Fault Refusal :=
  .next (takeMessage 0x12 fn q (.both params source) (advance t s))
def execGmacVerify (t fn q : Nat) (params source : Option Bytes) (s : State) : Host.Outcome State Fault Refusal :=
  .next (takeMessage 0x13 fn q (.both params source) (advance t s))
def execCtr (t fn q : Nat) (params source : Option Bytes) (s : State) : Host.Outcome State Fault Refusal :=
  .next (takeMessage 0x14 fn q (.both params source) (advance t s))
def execXtsEncrypt (t fn q : Nat) (params source : Option Bytes) (s : State) : Host.Outcome State Fault Refusal :=
  .next (takeMessage 0x15 fn q (.both params source) (advance t s))
def execXtsDecrypt (t fn q : Nat) (params source : Option Bytes) (s : State) : Host.Outcome State Fault Refusal :=
  .next (takeMessage 0x16 fn q (.both params source) (advance t s))

/-- A single-entry operation of a CIPHER queue on the bytes at the entry's address. -/
def singleOp (op fn q : Nat) (h : HostData) (go : Chain → Bytes → State → State) (s : State) : State :=
  match cipherChain s fn q op with
  | none => s
  | some ch =>
    let e := ch.entries.headD []
    hostOp fn q ch.first [e] [(eAddr e, eLength e)] h (go ch) s

/-- UNWRAP (spec 12 R401). -/
def unwrapOp (fn q : Nat) (h : HostData) (s : State) : State :=
  singleOp 0x18 fn q h (fun ch d st =>
    match unwrapBlob fn d st with
    | (.ok l, st1) => finishChain fn q ch.first stOK l st1
    | (.error c, st1) => finishChain fn q ch.first c 0 st1) s

def execUnwrap (t fn q : Nat) (blob : Option Bytes) (s : State) : Host.Outcome State Fault Refusal :=
  .next (unwrapOp fn q (.of blob) (advance t s))

/-- WRAP (spec 12 R402): the blob goes to the entry's destination; no slot is written. -/
def wrapOp (fn q : Nat) (h : HostData) (s : State) : State :=
  singleOp 0x19 fn q h (fun ch d st =>
    let e := ch.entries.headD []
    let b := wrapBlob st fn (leField e 24 2) (byteAt e 26) (leField e 28 2) d
    finishChain fn q ch.first stOK b.length (queueWrite fn q ch.first (cDest e) [e] b st)) s

def execWrap (t fn q : Nat) (key : Option Bytes) (s : State) : Host.Outcome State Fault Refusal :=
  .next (wrapOp fn q (.of key) (advance t s))

/-- The host bytes of the CIPHER chain with head `e` came back on tags. -/
def cipherBack (fn q : Nat) (e : Bytes) (b : Bytes) (s : State) : State :=
  let op := eOpcode e
  if cOpHead op then takeMessage op fn q (.back b) s
  else if op = 0x18 then unwrapOp fn q (.back b) s
  else if op = 0x19 then wrapOp fn q (.back b) s
  else s

/-- SLOT_CLEAR (spec 12 R403). -/
def slotClear (fn q : Nat) (s : State) : State :=
  match cipherChain s fn q 0x1A with
  | none => s
  | some ch =>
    match globalOf s fn 2 (cSlot (ch.entries.headD [])) with
    | none => finishChain fn q ch.first stSTATE 0 s
    | some g =>
      if (s.keySlot g).users ≠ 0 then finishChain fn q ch.first stSTATE 0 s
      else finishChain fn q ch.first stOK 0 (clearSlot g s)

def execSlotClear (t fn q : Nat) (s : State) : Host.Outcome State Fault Refusal :=
  .next (slotClear fn q (advance t s))

end Sys2Proof.Machine
end

