-- ==== Sys2Proof/Machine/Sched.lean ====
section
/-! DEFINITION. The port scheduler, Sluice lists, shapers, Weirs and stream filters (spec 08). -/

namespace Sys2Proof.Machine

/-! ### A port's scheduler objects (spec 08 Table 8.5) -/

def queueScheduled (s : State) (port tc : Nat) : Bool := decide (byteAt (cfg s (0x2200 + port) 1) tc = 1)
def queueWeight (s : State) (port tc : Nat) : Nat := cfgAt s (0x2200 + port) 2 2 tc
def cutThroughBit (s : State) (port tc : Nat) : Bool := (cfgN s (0x2200 + port) 3).testBit tc
def shaperRate (s : State) (port tc : Nat) : Nat := cfgAt s (0x2200 + port) 4 4 tc
def shaperBurst (s : State) (port tc : Nat) : Nat := cfgAt s (0x2200 + port) 5 4 tc
def portShaperRate (s : State) (port : Nat) : Nat := cfgN s (0x2200 + port) 6
def portShaperBurst (s : State) (port : Nat) : Nat := cfgN s (0x2200 + port) 7
def ecnThreshold (s : State) (port tc : Nat) : Nat := cfgAt s (0x2200 + port) 8 4 tc
def injectionTc (s : State) (port : Nat) : Nat := cfgN s (0x2200 + port) 9
def samplePeriod (s : State) (port tc : Nat) : Nat := cfgAt s (0x2200 + port) 0xA 4 tc
def pcpToTc (s : State) (port pcp : Nat) : Nat := byteAt (cfg s (0x2200 + port) 0xB) pcp
def defaultTc (s : State) (port : Nat) : Nat := cfgN s (0x2200 + port) 0xC
def gateEnabled (s : State) (port : Nat) : Bool := cfgN s (0x2400 + port) 1 == 1

/-- Picoseconds on the wire of one byte (spec 08 R272); 0 for a port that does not exist. -/
def psPerByte (s : State) (port : Nat) : Nat := 8000000000 / portRate s port

/-- The lead of a selection over the start of the frame (spec 08 R263), in femtoseconds. -/
def selectLead : Nat := 176000000

/-- The time base at elapsed time `t`, not before the clock. -/
def timeAt (s : State) (t : Nat) : Nat :=
  (s.time.num + (t - s.clock) * (65536 * ((10 ^ 12 : Int) + s.time.rate).toNat)) / 10 ^ 18

/-! ### Sluice lists (spec 08 R268 to R276) -/

/-- The spans of a cycle: from, to, gate states. The list is cut at the cycle's end, and the last
entry holds until it (R270). -/
def cutSegs (cycle : Nat) : Nat → List (Nat × Nat) → List (Nat × Nat × Nat)
  | _, [] => []
  | off, [(g, _)] => if off < cycle then [(off, cycle, g)] else []
  | off, (g, iv) :: rest =>
    if off < cycle then (off, min (off + iv) cycle, g) :: cutSegs cycle (min (off + iv) cycle) rest else []

def GateList.segs (l : GateList) : List (Nat × Nat × Nat) := cutSegs l.cycle 0 l.entries

/-- The offset in the cycle at time `x`, also before the base (R296). -/
def GateList.pos (l : GateList) (x : Nat) : Nat := (((x : Int) - l.base) % (l.cycle : Int)).toNat

/-- The gate states at a time, and those that end the cycle. -/
def GateList.at (l : GateList) (x : Nat) : Nat :=
  match l.segs.find? (fun g => decide (g.1 ≤ l.pos x ∧ l.pos x < g.2.1)) with
  | some g => g.2.2
  | none => 0xFF
def GateList.last (l : GateList) : Nat := (l.segs.getLast?.map (·.2.2)).getD 0xFF

/-- Two cycles one after the other. -/
def GateList.twice (l : GateList) : List (Nat × Nat × Nat) :=
  l.segs ++ l.segs.map (fun g => (g.1 + l.cycle, g.2.1 + l.cycle, g.2.2))

/-- Time from `x` to the next closing of gate `tc`: 0 while closed, none if it never closes. -/
def GateList.closing (l : GateList) (tc x : Nat) : Option Nat :=
  let off := l.pos x
  match l.twice.find? (fun g => decide (off < g.2.1) && !g.2.2.testBit tc) with
  | none => none
  | some g => some (g.1 - off)

/-- The longest window of gate `tc` over the cycle and its wrap, none when unbounded (R273). -/
def GateList.longest (l : GateList) (tc : Nat) : Option Nat :=
  if l.segs.all (fun g => g.2.2.testBit tc) then none
  else
    some ((l.twice.foldl (fun (acc : Nat × Nat) g =>
      if g.2.2.testBit tc then (acc.1 + (g.2.1 - g.1), max acc.2 (acc.1 + (g.2.1 - g.1))) else (0, acc.2))
      (0, 0)).2)

/-- Is the cycle before a change extended to it (R276)? -/
def gateExtends (o : GateList) (w : GatePend) : Bool :=
  let start := w.change - o.pos w.change
  decide (0 < o.pos w.change) && decide (o.pos w.change < o.ext) && decide (w.accepted < start)

/-- The instant at which the operational list stops running its entries. -/
def gateOldEnd (o : GateList) (w : GatePend) : Nat :=
  if gateExtends o w then w.change - o.pos w.change else w.change

/-- Adds a wait to a remaining time that may be unbounded. -/
def addOpen (n : Nat) : Option Nat → Option Nat
  | none => none
  | some r => some (n + r)

/-- Time from `x` to the next closing of gate `tc` on the timeline the port will follow (R271, R272);
none if no window closes, 0 while the gate is closed. -/
def remainingOpen (p : PortSched) (tc x : Nat) : Option Nat :=
  match p.oper, p.pend with
  | none, none => none
  | some o, none => o.closing tc x
  | none, some w =>
    if x < w.change then addOpen (w.change - x) (w.list.closing tc w.change) else w.list.closing tc x
  | some o, some w =>
    if w.change ≤ x then w.list.closing tc x
    else
      let fin := gateOldEnd o w
      let after := w.list.closing tc w.change
      let stay := decide (fin = w.change) || o.last.testBit tc
      if x < fin then
        match o.closing tc x with
        | some r =>
          if x + r < fin then some r
          else if stay then addOpen (w.change - x) after else some (fin - x)
        | none => if stay then addOpen (w.change - x) after else some (fin - x)
      else if stay then addOpen (w.change - x) after else some 0

/-- Gate states at a time. -/
def gatesAt (p : PortSched) (x : Nat) : Nat :=
  match p.oper, p.pend with
  | none, none => 0xFF
  | some o, none => o.at x
  | none, some w => if x < w.change then 0xFF else w.list.at x
  | some o, some w =>
    if w.change ≤ x then w.list.at x
    else if x < gateOldEnd o w then o.at x else o.last

/-- LongestWindow of a queue, in ns; none when unbounded (R273). -/
def longestWindow (p : PortSched) (tc : Nat) : Option Nat :=
  match p.oper with
  | none => none
  | some o => (o.longest tc).map (· / 65536)

/-- Does a length exceed the queue's longest window (R273)? -/
def overWindow (s : State) (port tc len : Nat) : Bool :=
  match longestWindow (s.psched port) tc with
  | none => false
  | some w => decide (w * 1000 < (len + 20) * psPerByte s port)

/-- Does cut-through apply to the frames of a queue (R274)? -/
def cutThrough (s : State) (port tc : Nat) : Bool :=
  cutThroughBit s port tc && !queueScheduled s port tc && !overWindow s port tc (maxFrameSize s port)

/-- Gate admission of a length at time-base value `x` (R272, R297). -/
def gateAdmit (s : State) (port tc len x : Nat) : Bool :=
  if !gateEnabled s port then true
  else match remainingOpen (s.psched port) tc x with
  | none => true
  | some r => decide ((len + 20) * psPerByte s port * 65536 ≤ r * 1000)

/-! ### Shapers (spec 08 R277) -/

/-- One byte in the units of `spent`. -/
def byteUnits : Nat := 8000000000000

/-- Buckets after the time since they were last looked at; a shaper that is off stays full. -/
def refillPort (s : State) (port t : Nat) (p : PortSched) : PortSched :=
  let dt := t - p.tokTime
  { p with
    spent := (List.range 8).foldl (fun m tc =>
      let rate := shaperRate s port tc
      Tab.set 0 m tc (if rate = 0 then 0 else Tab.get 0 p.spent tc - rate * dt)) p.spent
    portSpent := if portShaperRate s port = 0 then 0 else p.portSpent - portShaperRate s port * dt
    tokTime := max t p.tokTime }

/-- The tokens of a bucket in steps of 2^-16 byte, rounded down (R277). -/
def tokensOf (burst spent : Nat) : Int := ((burst * byteUnits : Nat) - (spent : Int)) * 65536 / byteUnits

/-- Does the shaper of a queue hold it at start time `t`? Exactly 0 tokens do not (R297). -/
def shaperHolds (s : State) (port tc t : Nat) : Bool :=
  let p := refillPort s port t (s.psched port)
  decide (tokensOf (shaperBurst s port tc) (Tab.get 0 p.spent tc) < 0)
  || (!queueScheduled s port tc && decide (tokensOf (portShaperBurst s port) p.portSpent < 0))

/-- How far a bucket is below full after its burst changes: the tokens stay, capped at the new burst (R277). -/
def spentAfter (old new spent : Nat) : Nat := spent + new * byteUnits - old * byteUnits

/-- A port's buckets after its bursts changed from those of state `old` to those of `s`. -/
def burstsChanged (old : State) (port : Nat) (s : State) : State :=
  let p := refillPort old port s.clock (s.psched port)
  s.setPsched port { p with
    spent := (List.range 8).foldl (fun m tc =>
      Tab.set 0 m tc (spentAfter (shaperBurst old port tc) (shaperBurst s port tc) (Tab.get 0 p.spent tc))) p.spent
    portSpent := spentAfter (portShaperBurst old port) (portShaperBurst s port) p.portSpent }

/-- W bytes leave the queue's bucket and the port's. -/
def takeTokens (s : State) (port : Nat) (tc : Option Nat) (w t : Nat) (p : PortSched) : PortSched :=
  let p := refillPort s port t p
  { p with
    spent := match tc with
      | none => p.spent
      | some k => if shaperRate s port k = 0 then p.spent
        else Tab.upd 0 p.spent k (fun n => n + w * byteUnits)
    portSpent := if portShaperRate s port = 0 then 0 else p.portSpent + w * byteUnits }

/-! ### The Dike's injection limits (spec 15 R530) -/

/-- Per mille of the data rate, and frames per second: the lower of fuse and header. -/
def injPermille (s : State) : Nat := min 20 s.boot.running.injRate
def injPerSec (s : State) : Nat := min 8192 s.boot.running.injFrames

/-- The limiter after the time since it was last looked at. -/
def refillInj (s : State) (port t : Nat) (p : PortSched) : PortSched :=
  let dt := t - p.injTime
  { p with
    injBytes := p.injBytes - portRate s port * injPermille s / 1000 * dt
    injFrames := p.injFrames - injPerSec s * dt
    injTime := max t p.injTime }

/-- May a firmware frame of `len` bytes start at time `t`: bursts of 2 frames of MaxFrameSize and of
16 frames. -/
def injAllowed (s : State) (port t len : Nat) : Bool :=
  let p := refillInj s port t (s.psched port)
  decide (p.injBytes + len * byteUnits ≤ 2 * maxFrameSize s port * byteUnits)
  && decide (p.injFrames + 10 ^ 15 ≤ 16 * 10 ^ 15)

/-- A firmware frame of `len` bytes starts. -/
def takeInj (s : State) (port t len : Nat) (p : PortSched) : PortSched :=
  let p := refillInj s port t p
  { p with injBytes := p.injBytes + len * byteUnits, injFrames := p.injFrames + 10 ^ 15 }

/-! ### Port queues (spec 08 R260 to R267, R273) -/

def portQueue (p : PortSched) (tc : Nat) : List QFrame := Tab.get [] p.queues tc
def setPortQueue (tc : Nat) (l : List QFrame) (p : PortSched) : PortSched :=
  { p with queues := Tab.set [] p.queues tc l }

/-- Depth in cells. -/
def depthCells (l : List QFrame) : Nat := (l.map (·.cells)).sum

/-- Key of QueueCounters: TxFrames, TxOctets, OversizeForGate, EcnMarked, TxOversize per TC. -/
def queueCount (port tc k n : Nat) (s : State) : State :=
  let p := s.psched port
  countEv (0x120 + k) n (some port) (some tc) none
    (s.setPsched port { p with counters := Tab.upd 0 p.counters (tc * 8 + k) (fun c => satAdd64 c n) })

/-- Key of TxUnderrun. -/
def underrunCount (port : Nat) (s : State) : State :=
  let p := s.psched port
  countEv 0x125 1 (some port) none none
    (s.setPsched port { p with counters := Tab.upd 0 p.counters 64 (fun c => satAdd64 c 1) })

/-- Records a change of the track of a sampled port queue. -/
def trackPort (port tc : Nat) (f : Track → Track) (s : State) : State :=
  if samplePeriod s port tc = 0 then s
  else
    let p := s.psched port
    s.setPsched port { p with track := Tab.upd Track.reset p.track tc f }

/-- Stamps the head of a WFQ queue, if it has one that is not stamped (R266). -/
def stampQueue (s : State) (port tc : Nat) (p : PortSched) : PortSched :=
  match portQueue p tc with
  | [] => p
  | f :: rest =>
    if f.stamped || queueScheduled s port tc then p
    else
      let st := wfqStamp p.v (Tab.get 0 p.fprev tc) (p.fvalid.testBit tc) (f.len + 20) (queueWeight s port tc)
      { setPortQueue tc ({ f with stamped := true, fs := st.1, ff := st.2 } :: rest) p with
        fprev := Tab.set 0 p.fprev tc st.2
        fvalid := bitSet p.fvalid tc }

/-- A stamped head that is discarded gives its stamp back (R266). -/
def withdrawStamp (tc : Nat) (p : PortSched) : PortSched :=
  match portQueue p tc with
  | [] => p
  | f :: _ =>
    if f.stamped then { p with fprev := Tab.set 0 p.fprev tc f.fs, fvalid := bitSet p.fvalid tc } else p

/-- A transmit frame's way ends. With TSREQ the egress timestamp, or twelve zero bytes for a frame not
sent, is written into bytes 20 to 31 of the LAST entry (spec 11 R370); then the chain is done. -/
def txDone (fn q idx : Nat) (stamp : Option Nat) (s : State) : State :=
  let x := s.queue fn q
  match chainAt x idx with
  | none => s
  | some c =>
    if !c.started || c.finished then s
    else
      let last := chainLastIdx x c
      let s1 := if (byteAt (c.entries.headD []) 18).testBit 3 then
          queueWrite fn q last (qBase x + 32 * last + 20) [chainLast c]
            (match stamp with
              | some n => time96Host n
              | none => zeros 12) s
        else s
      finishChain fn q idx stOK 0 s1

/-- Does a transmit frame's entry ask for an egress timestamp? -/
def wantsStamp (s : State) (fn q idx : Nat) : Bool :=
  match chainAt (s.queue fn q) idx with
  | some c => (byteAt (c.entries.headD []) 18).testBit 3
  | none => false

/-- A copy is not sent. -/
def txLost (src : FrameSrc) (s : State) : State :=
  match src with
  | .hostTx fn q idx => txDone fn q idx none s
  | .field => s
  | .siphon _ _ => s
  | .firmware => s
  | .detached => s

/-- Copies that leave a queue without being sent give up their cells. -/
def releaseFrames (port : Nat) (l : List QFrame) (s : State) : State :=
  forEach l (fun f st => txLost f.info.src (releaseCopy f.sid (some (pipeOf port % 4)) st)) s

/-- The head of a queue is checked against LongestWindow, oversize heads are discarded, and the head
is stamped (R266, R273). -/
def settleHead (port tc : Nat) (s : State) : State :=
  let p := s.psched port
  let l := portQueue p tc
  let bad := l.takeWhile (fun f => overWindow s port tc f.len)
  let good := l.dropWhile (fun f => overWindow s port tc f.len)
  let p1 := if bad = [] then p else setPortQueue tc good (withdrawStamp tc p)
  let s1 := s.setPsched port (stampQueue s port tc p1)
  releaseFrames port bad (queueCount port tc 2 bad.length s1)

/-- Every head of a port, when a new operational list starts. -/
def settleHeads (port : Nat) (s : State) : State := forEach (List.range 8) (settleHead port) s

/-- All frames of a port's queues are discarded (spec 03 R120 step 3): how many there were. -/
def flushPort (port : Nat) (s : State) : Nat × State :=
  let p := s.psched port
  let all := (List.range 8).flatMap (portQueue p)
  let p1 := (List.range 8).foldl (fun x tc => setPortQueue tc [] (withdrawStamp tc x)) p
  (all.length, releaseFrames port all (s.setPsched port p1))

/-- The start of the IP header behind the tags of a frame, and whether it is version 6 (R278). -/
def outerIp : Nat → Bytes → Nat → Option (Nat × Bool)
  | 0, _, _ => none
  | k + 1, b, off =>
    let ty := beField b off 2
    if ty = 0x0800 ∧ b.length ≥ off + 22 then some (off + 2, false)
    else if ty = 0x86DD ∧ b.length ≥ off + 42 then some (off + 2, true)
    else if ty = 0x8100 ∨ ty = 0x88A8 then outerIp k b (off + 4)
    else if ty = 0xF1C1 then outerIp k b (off + 6)
    else none

/-- The one's complement sum of 16-bit words, folded. -/
def onesSum (b : Bytes) : Nat :=
  let n := ((List.range ((b.length + 1) / 2)).map (fun i => beField (b ++ [0]) (2 * i) 2)).sum
  let f := fun x => x / 65536 + x % 65536
  f (f (f n))

/-- An IPv4 header with its checksum computed again. -/
def ip4Checksum (h : Bytes) : Bytes :=
  splice h 10 (beBytes 2 (0xFFFF - onesSum (splice h 10 [0, 0])))

/-- The ECN field set to CE in an ECN-capable frame, or none (R278). -/
def markCe (b : Bytes) : Option Bytes :=
  match outerIp 8 b 12 with
  | none => none
  | some (off, false) =>
    let tos := byteAt b (off + 1)
    if tos % 4 = 1 ∨ tos % 4 = 2 then
      let n := 4 * (byteAt b off % 16)
      some (splice b off (ip4Checksum (splice (slice b off n) 1 [byteOf (tos / 4 * 4 + 3)])))
    else none
  | some (off, true) =>
    let tc := byteAt b (off + 1)
    let ecn := tc / 16 % 4
    if ecn = 1 ∨ ecn = 2 then some (splice b (off + 1) [byteOf (tc / 64 * 64 + 48 + tc % 16)]) else none

/-- Is the frame from a host transmit queue? -/
def fromHost (src : FrameSrc) : Bool :=
  match src with
  | .hostTx _ _ _ => true
  | .field => false
  | .siphon _ _ => false
  | .firmware => false
  | .detached => true

/-! ### Samples of host queues (spec 08 R287, R288) -/

/-- Changes the sampler's track of a host queue while it is sampled (R288). -/
def trackHost (fn q : Nat) (f : Track → Track) (s : State) : State :=
  let x := s.queue fn q
  if qSamplePeriod x = 0 ∨ x.st = .disabled then s else s.setQueue fn q { x with track := f x.track }

/-- Is it a frame of this transmit queue? -/
def ofQueue (fn q : Nat) (src : FrameSrc) : Bool :=
  match src with
  | .hostTx f k _ => decide (f = fn ∧ k = q)
  | .field => false
  | .siphon _ _ => false
  | .firmware => false
  | .detached => false

/-- The frames of a transmit queue that field dies hold. -/
def txFrames (s : State) (fn q : Nat) : List QFrame :=
  (s.sched.ports.flatMap (fun e => e.2.queues.flatMap (·.2) ++ e.2.sending.map (·.frame))).filter
    (fun f => ofQueue fn q f.info.src)

/-- The track of the transmit queue that a frame is of, if any. -/
def trackTx (src : FrameSrc) (f : Track → Track) (s : State) : State :=
  match src with
  | .hostTx fn q _ => trackHost fn q f s
  | .field => s
  | .siphon _ _ => s
  | .firmware => s
  | .detached => s

/-- The depth of the transmit queue that a frame is of, as it grows. -/
def trackTxDepth (src : FrameSrc) (s : State) : State :=
  match src with
  | .hostTx fn q _ => trackHost fn q (fun x => { x with depth := max x.depth (depthCells (txFrames s fn q)) }) s
  | .field => s
  | .siphon _ _ => s
  | .firmware => s
  | .detached => s

/-! ### Enqueue (spec 08 R264) -/

/-- Where the EtherType behind the VLAN tags stands. -/
def typeAt : Nat → Bytes → Nat → Nat
  | 0, _, off => off
  | k + 1, b, off => if beField b off 2 = 0x8100 ∨ beField b off 2 = 0x88A8 then typeAt k b (off + 4) else off

/-- The R-tag of a frame: where it stands (spec 03 R129). -/
def rtagAt (b : Bytes) : Option Nat :=
  let o := typeAt 8 b 12
  if beField b o 2 = 0xF1C1 ∧ o + 6 ≤ b.length then some o else none

/-- Bytes of the R-tag that recovery will remove at a port (spec 03 R129): L is the length without them (R264). -/
def tagGone (s : State) (port : Nat) (info : Meta) (b : Bytes) : Nat :=
  match info.stream with
  | none => 0
  | some h =>
    let x := s.frerAt h
    if decide (x.mode = 2 ∧ x.port = port) && x.strip && (rtagAt b).isSome then 6 else 0

/-- A discard of a copy at enqueue to a port queue: counted, its cells given up. -/
def dropAtEnqueue (port tc k sid : Nat) (src : FrameSrc) (s : State) : State :=
  let lost : Track → Track := fun x => { x with discarded := satAdd32 x.discarded 1 }
  txLost src (releaseCopy sid (some (pipeOf port % 4)) (trackTx src lost (trackPort port tc lost (queueCount port tc k 1 s))))

/-- One copy of a stored frame is enqueued to a port queue: the length checks, the ECN mark, and the
stamp of a frame that finds the queue empty (R264, R266, R273, R278, R299). -/
def enqueueCopy (t port tc sid cells : Nat) (info : Meta) (bytes : Bytes) (s : State) : State :=
  let len := bytes.length + 4 - tagGone s port info bytes
  if maxFrameSize s port < len then dropAtEnqueue port tc 4 sid info.src s
  else if overWindow s port tc len then dropAtEnqueue port tc 2 sid info.src s
  else
    let l := portQueue (s.psched port) tc
    let thr := ecnThreshold s port tc
    let mark := if 0 < thr ∧ thr ≤ depthCells l ∧ !fromHost info.src then markCe bytes else none
    let s1 := match mark with
      | some _ => trackPort port tc (fun x => { x with marked := satAdd32 x.marked 1 }) (queueCount port tc 3 1 s)
      | none => s
    let f : QFrame :=
      { sid := sid, info := info, bytes := mark.getD bytes, len := len, cells := cells, enq := t,
        stamped := false, fs := 0, ff := 0 }
    let depth := depthCells l + cells
    let p := setPortQueue tc (l ++ [f]) (s1.psched port)
    let p1 := { p with maxDepth := Tab.upd 0 p.maxDepth tc (max depth) }
    trackTxDepth info.src (trackPort port tc (fun x => { x with depth := max x.depth depth })
      (s1.setPsched port (if l = [] then stampQueue s1 port tc p1 else p1)))

/-! ### Selection (spec 08 R262, R263, R265, R266) -/

/-- Is the head of a queue eligible for a start at elapsed time `t`? -/
def headReady (s : State) (port tc t : Nat) (f : QFrame) : Bool :=
  gateAdmit s port tc (if cutThrough s port tc then maxFrameSize s port else f.len) (timeAt s t)
  && !shaperHolds s port tc t

/-- What the port starts at elapsed time `t`: the queue (none: injection) and its head (R262). -/
def portPick (s : State) (port t : Nat) : Option (Option Nat × QFrame) :=
  let p := s.psched port
  let heads := (List.range 8).reverse.filterMap (fun tc => (portQueue p tc).head?.map (fun f => (tc, f)))
  let ready := heads.filter (fun e => headReady s port e.1 t e.2)
  match ready.find? (fun e => queueScheduled s port e.1) with
  | some e => some (some e.1, e.2)
  | none =>
    let inj := match p.inject with
      | [] => none
      | f :: _ =>
        if gateAdmit s port (injectionTc s port) f.len (timeAt s t) && injAllowed s port t f.len then some f
        else none
    match inj with
    | some f => some (none, f)
    | none => (smallestF ((ready.filter (fun e => !queueScheduled s port e.1)).map
        (fun e => (e, e.2.ff)))).map (fun e => (some e.1, e.2))

/-- V and the stale marks after the selection of a WFQ frame (R266). -/
def wfqSelected (s : State) (port : Nat) (f : QFrame) (p : PortSched) : PortSched :=
  { p with
    v := f.ff
    fvalid := (List.range 8).foldl (fun m tc =>
      if !queueScheduled s port tc && decide (portQueue p tc = []) && !wfqLater (Tab.get 0 p.fprev tc) f.ff
      then bitClear m tc else m) p.fvalid }

/-- Sojourn of a frame at elapsed time `t`, in ns, saturating at 32 bits. -/
def sojournNs (t enq : Nat) : Nat := min ((t - enq) / 1000000) (2 ^ 32 - 1)

/-- The picked frame leaves its queue at selection time `t` (start time `start`). -/
def dequeuePick (port t start : Nat) (pick : Option Nat × QFrame) (s : State) : State :=
  let p := s.psched port
  let f := pick.2
  match pick.1 with
  | none => s.setPsched port (takeInj s port start f.len
      (takeTokens s port none (f.len + 20) start { p with inject := p.inject.drop 1 }))
  | some tc =>
    let p1 := setPortQueue tc ((portQueue p tc).drop 1) p
    let p2 := if queueScheduled s port tc then p1 else wfqSelected s port f p1
    let p3 := takeTokens s port (some tc) (f.len + 20) start p2
    let so := sojournNs t f.enq
    let p4 := { p3 with maxSojourn := Tab.upd 0 p3.maxSojourn tc (max so) }
    let left : Track → Track := fun x => { x with sojourn := max x.sojourn so, dequeued := satAdd32 x.dequeued 1 }
    settleHead port tc (trackTx f.info.src left (trackPort port tc left (s.setPsched port p4)))

/-- Every queued copy of a stored frame leaves the queues of its die unsent: its data is lost (spec 07 R252). -/
def dropCopies (die sid : Nat) (s : State) : State :=
  forEach ((s.sched.ports.map (·.1)).filter (fun p => decide (dieOf p = die))) (fun port st =>
    forEach (List.range 8) (fun tc w =>
      let l := portQueue (w.psched port) tc
      let bad := l.filter (fun f => decide (f.sid = sid))
      if bad = [] then w
      else
        let p := w.psched port
        let p1 := if (l.head?.map (·.sid)) = some sid then withdrawStamp tc p else p
        settleHead port tc (releaseFrames port bad
          (w.setPsched port (setPortQueue tc (l.filter (fun f => decide (f.sid ≠ sid))) p1)))) st) s

/-! ### Gate changes (spec 08 R270, R271, R275, R276, R295, R296) -/

/-- GATE_ENTRY_CHANGE: the gate states of the timeline at this moment. -/
def execGateEntryChange (t port : Nat) (s : State) : Host.Outcome State Fault Refusal :=
  let s1 := advance t s
  let p := s1.psched port
  .next (if port < 512 then s1.setPsched port { p with gates := gatesAt p (timeNow s1) } else s1)

/-- The pending list becomes operational; `extended` when the cycle before it was extended. -/
def applyGates (port : Nat) (extended : Bool) (s : State) : State :=
  let p := s.psched port
  match p.pend with
  | none => s
  | some w =>
    let p1 := { p with oper := some w.list, pend := none }
    let s1 := s.setPsched port { p1 with gates := gatesAt p1 (timeNow s) }
    let s2 := bumpObj (0x2400 + port) 0x18 1 s1
    let s3 := if extended then bumpObj (0x2400 + port) 0x19 1 s2 else s2
    raiseDie (dieOf port) 12 (settleHeads port s3)

/-- Was the cycle before a pending change extended? -/
def pendExtends (p : PortSched) : Bool :=
  match p.oper, p.pend with
  | some o, some w => gateExtends o w
  | none, _ => false
  | some _, none => false

/-- GATE_CONFIG_APPLY (R276), at or after ConfigChangeTime. -/
def execGateConfigApply (t port : Nat) (s : State) : Host.Outcome State Fault Refusal :=
  let s1 := advance t s
  let p := s1.psched port
  .next (match p.pend with
    | some w => if port < 512 ∧ w.change ≤ timeNow s1 then applyGates port (pendExtends p) s1 else s1
    | none => s1)

/-- After a step of the time base: pending lists whose time has come are applied without extension
(R296), and every list's position is that of the new time. -/
def gatesAfterStep (s : State) : State :=
  forEach (s.sched.ports.map (·.1)) (fun port st =>
    let p := st.psched port
    match p.pend with
    | some w => if w.change ≤ timeNow st then applyGates port false st
      else st.setPsched port { p with gates := gatesAt p (timeNow st) }
    | none => st.setPsched port { p with gates := gatesAt p (timeNow st) }) s

/-- The entries of the administrative list that are in use. -/
def adminEntries (s : State) (port : Nat) : List Bytes :=
  let b := cfg s (0x2400 + port) 6
  (List.range (cfgN s (0x2400 + port) 5)).map (fun i => slice b (8 * i) 8)

/-- An entry that GateConfigChange refuses (R275). -/
def badGateEntry (e : Bytes) : Bool :=
  decide (byteAt e 0 ≠ 0) || decide (beField e 2 2 ≠ 0)
  || decide (beField e 4 4 < 8) || decide (1000000000 < beField e 4 4)

/-- The checks of GateConfigChange (R275, R295). -/
def gateChangeAborts (s : State) (port : Nat) : List Nat :=
  abortIf (!gateEnabled s port) aSTATE
  ++ abortIf (match (s.psched port).pend with
      | some w => decide (w.change < timeNow s + 10000 * 65536)
      | none => false) aSTATE
  ++ abortIf ((adminEntries s port).any badGateEntry) aRANGE

/-- ConfigChangeTime of a base and a cycle, in units of 2^-16 ns (R275). -/
def changeTimeOf (base cycle now : Nat) : Nat :=
  let least := now + 10000 * 65536
  if least ≤ base then base else base + ceilDiv (least - base) cycle * cycle

/-- GateConfigChange is accepted: the administrative list becomes the pending one. -/
def gateChange (port : Nat) (s : State) : State :=
  let base := ofTime96 (cfg s (0x2400 + port) 3)
  let cycle := cfgN s (0x2400 + port) 2 * 65536
  let l : GateList :=
    { base := base, cycle := cycle, ext := cfgN s (0x2400 + port) 4 * 65536
      entries := (adminEntries s port).map (fun e => (byteAt e 1, beField e 4 4 * 65536)) }
  let now := timeNow s
  let at0 := changeTimeOf base cycle now
  s.setPsched port { s.psched port with
    pend := some { list := l, change := at0, accepted := now }, changeTime := at0 }

/-- GATE_CONFIG_CHANGE (R275). -/
def execGateConfigChange (r : Rq) (s : State) : Host.Outcome State Fault Refusal :=
  .next (serveAction (fun i k => decide (0x2400 ≤ i ∧ i < 0x2600 ∧ k = 7))
    (fun q s => gateChangeAborts s (q.msg.index - 0x2400))
    (fun q s => (dikeLog q.origin (dieOf (q.msg.index - 0x2400)) 5 (q.msg.index - 0x2400)
      (gateChange (q.msg.index - 0x2400) s), .done)) r s)

/-- A write of GateEnabled 0 ends every list (R271). -/
def gatesOff (port : Nat) (s : State) : State :=
  s.setPsched port { s.psched port with oper := none, pend := none, changeTime := 0, gates := 0xFF }

/-- At start-up a stored list is started, or its refusal is reported (spec 08 Table 8.9). -/
def gatesAtStart (port : Nat) (s : State) : State :=
  if gateEnabled s port then
    if gateChangeAborts s port = [] then gateChange port s else raisePort port 14 s
  else s

/-- QUEUE_LATENCY_MAX (spec 08 R288, Table 8.5). -/
def execQueueLatencyMax (r : Rq) (s : State) : Host.Outcome State Fault Refusal :=
  .next (serveAction (fun i k => decide (0x2200 ≤ i ∧ i < 0x2400 ∧ k = 0x22))
    (fun q _ => abortIf (7 < beNat q.msg.data) aRANGE)
    (fun q s =>
      let p := s.psched (q.msg.index - 0x2200)
      let tc := beNat q.msg.data
      (s.setPsched (q.msg.index - 0x2200) { p with
          maxSojourn := Tab.set 0 p.maxSojourn tc 0, maxDepth := Tab.set 0 p.maxDepth tc 0 },
       .ok 0 0 9 (beBytes 4 (Tab.get 0 p.maxSojourn tc) ++ beBytes 4 (Tab.get 0 p.maxDepth tc)))) r s)

/-! ### Weirs and stream filters (spec 08 R280 to R284) -/

/-- Weir counters: green, yellow, red frames; green, yellow, red bytes; MaxSduDiscards;
BlockedDiscards, in the order of event numbers 0x1E0 to 0x1E7. -/
def weirCount (die w k n : Nat) (s : State) : State :=
  let x := s.weir die w
  countEv (0x1E0 + k) n none none none
    (s.setWeir die w { x with ctr := Tab.upd 0 x.ctr k (fun c => satAdd64 c n) })

/-- Tokens, in 2^-16 byte, that a rate in kb/s brings in `n` clocks of 1.28 GHz (log entry 32). -/
def weirAccrual (rate n : Nat) : Nat := rate * n * 4 / 625

/-- Colours: green, yellow, red. -/
inductive Colour where
  | green | yellow | red | discard
deriving DecidableEq, Repr

/-- The outermost VLAN tag: its type and its control field. -/
def outerTag (b : Bytes) : Option (Nat × Nat) :=
  let ty := beField b 12 2
  if (ty = 0x8100 ∨ ty = 0x88A8) ∧ 16 ≤ b.length then some (ty, beField b 14 2) else none

/-- The colour with which a frame enters its first Weir (R281). -/
def entryColour (b : Bytes) : Colour :=
  match outerTag b with
  | some (_, tci) => if tci.testBit 12 then .yellow else .green
  | none => .green

/-- `meter` of R281 at elapsed time `t`. -/
def meter (t die w : Nat) (colour : Colour) (len : Nat) (s : State) : Colour × State :=
  let x := s.weir die w
  if !x.valid then (colour, s)
  else if x.maxSdu ≠ 0 ∧ x.maxSdu < len then
    let s1 := weirCount die w 6 1 s
    if x.block && !x.blocked then
      (.discard, raiseDie die 13 (s1.setWeir die w { s1.weir die w with blocked := true }))
    else (.discard, s1)
  else if x.blocked then (.discard, weirCount die w 7 1 s)
  else
    let now := t / 781250
    let tc := min (x.cbs * 65536) (x.tc + weirAccrual x.cir (now - x.last))
    let tp := min (x.pbs * 65536) (x.tp + weirAccrual x.pir (now - x.last))
    let c := if x.aware then colour else .green
    let b := len * 65536
    let out : Colour := if c = .red ∨ tp < b then .red else if c = .yellow ∨ tc < b then .yellow else .green
    let y := { x with
      last := now
      tc := if out = .green then tc - b else tc
      tp := if out = .red then tp else tp - b }
    let k := match out with
      | .green => 0
      | .yellow => 1
      | .red => 2
      | .discard => 2
    (out, weirCount die w (3 + k) len (weirCount die w k 1 (s.setWeir die w y)))

/-- A Weir meters a frame that has the colour its last Weir left, or none before its first; a Weir that is not valid
meters nothing (R281, R282). -/
def meterAs (t die w : Nat) (m : Option Colour) (b : Bytes) (len : Nat) (s : State) : Option Colour × State :=
  if !(s.weir die w).valid then (m, s)
  else
    let r := meter t die w (m.getD (entryColour b)) len s
    (some r.1, r.2)

/-- A red or discarded frame goes no further (R282). -/
def badColour (m : Option Colour) : Bool := decide (m = some .red) || decide (m = some .discard)

/-- The dies a write's die argument names. -/
def diesOf (d : Nat) : List Nat := if d = 0xFF then [0, 1, 2, 3] else [d]

/-- Is the argument's die valid? -/
def badDie (d : Nat) (all : Bool) : Bool := decide (3 < d) && !(all && decide (d = 0xFF))

/-- The record of WeirWrite. -/
def weirRecord (die w : Nat) (x : Weir) : Bytes :=
  [byteOf die, byteOf (boolNat x.valid + 2 * boolNat x.aware + 4 * boolNat x.block)] ++ beBytes 2 w
  ++ beBytes 4 x.cir ++ beBytes 4 x.cbs ++ beBytes 4 x.pir ++ beBytes 4 x.pbs ++ beBytes 2 x.maxSdu ++ [0, 0]

/-- The checks of WeirWrite (R283, R284); reserved bits are zero (spec 02 R51). -/
def weirWriteAborts (d : Bytes) : List Nat :=
  abortIf (badDie (byteAt d 0) true || decide (7 < byteAt d 1) || decide (16383 < beField d 2 2)
    || decide (beField d 12 4 < beField d 4 4)
    || (decide (beField d 8 4 = 0) && decide (beField d 4 4 ≠ 0))
    || (decide (beField d 16 4 = 0) && decide (beField d 12 4 ≠ 0))
    || decide (beField d 22 2 ≠ 0)) aRANGE

/-- Writes a Weir of a die: buckets full, not blocked; its counters stay. -/
def weirWrite (t : Nat) (d : Bytes) (die : Nat) (s : State) : State :=
  let w := beField d 2 2
  let f := byteAt d 1
  s.setWeir die w { s.weir die w with
    valid := f.testBit 0
    aware := f.testBit 1
    block := f.testBit 2
    cir := beField d 4 4
    cbs := beField d 8 4
    pir := beField d 12 4
    pbs := beField d 16 4
    maxSdu := beField d 20 2
    tc := beField d 8 4 * 65536
    tp := beField d 16 4 * 65536
    last := t / 781250
    blocked := false }

/-- WEIR_WRITE (R283). -/
def execWeirWrite (r : Rq) (s : State) : Host.Outcome State Fault Refusal :=
  .next (serveAction (at0 0x2600 0) (fun q _ => weirWriteAborts q.msg.data)
    (fun q s => (forEach (diesOf (byteAt q.msg.data 0)) (fun d st =>
      dikeLog q.origin d 4 (beField q.msg.data 2 2) (weirWrite st.clock q.msg.data d st)) s, .done)) r s)

/-- The checks of an action that names a Weir. -/
def weirNameAborts (all : Bool) (d : Bytes) : List Nat :=
  abortIf (badDie (byteAt d 0) all || decide (byteAt d 1 ≠ 0) || decide (16383 < beField d 2 2)) aRANGE

/-- WEIR_READ (R284). -/
def execWeirRead (r : Rq) (s : State) : Host.Outcome State Fault Refusal :=
  .next (serveAction (at0 0x2601 0) (fun q _ => weirNameAborts false q.msg.data)
    (fun q s =>
      let die := byteAt q.msg.data 0
      let w := beField q.msg.data 2 2
      let x := s.weir die w
      let c := fun k => beBytes 8 (Tab.get 0 x.ctr k)
      (s, .ok 0 0 9 (weirRecord die w x ++ [byteOf (boolNat x.blocked)] ++ zeros 7
        ++ c 0 ++ c 3 ++ c 1 ++ c 4 ++ c 2 ++ c 5 ++ c 6 ++ c 7))) r s)

/-- WEIR_UNBLOCK (R283). -/
def execWeirUnblock (r : Rq) (s : State) : Host.Outcome State Fault Refusal :=
  .next (serveAction (at0 0x2602 0) (fun q _ => weirNameAborts true q.msg.data)
    (fun q s => (forEach (diesOf (byteAt q.msg.data 0)) (fun d st =>
      let w := beField q.msg.data 2 2
      dikeLog q.origin d 4 w (st.setWeir d w { st.weir d w with blocked := false })) s, .done)) r s)

/-- WEIR_COUNTER_CLEAR (R284). -/
def execWeirCounterClear (r : Rq) (s : State) : Host.Outcome State Fault Refusal :=
  .next (serveAction (at0 0x2603 0) (fun q _ => weirNameAborts true q.msg.data)
    (fun q s => (forEach (diesOf (byteAt q.msg.data 0)) (fun d st =>
      let w := beField q.msg.data 2 2
      dikeLog q.origin d 4 w (st.setWeir d w { st.weir d w with ctr := [] })) s, .done)) r s)

/-- The record of StreamFilterWrite. -/
def filterRecord (h : Nat) (x : StreamFilter) : Bytes :=
  beBytes 2 h ++ [byteOf (boolNat x.valid), byteOf x.prio] ++ beBytes 2 x.weir ++ [0, 0]

/-- STREAM_FILTER_WRITE (R280). The two counters of the handle stay. -/
def execStreamFilterWrite (r : Rq) (s : State) : Host.Outcome State Fault Refusal :=
  .next (serveAction (at0 0x2610 0)
    (fun q _ =>
      let d := q.msg.data
      abortIf (decide (16383 < beField d 0 2) || decide (1 < byteAt d 2)
        || (decide (7 < byteAt d 3) && decide (byteAt d 3 ≠ 0xFF))
        || (decide (16383 < beField d 4 2) && decide (beField d 4 2 ≠ 0xFFFF))
        || decide (beField d 6 2 ≠ 0)) aRANGE)
    (fun q s =>
      let d := q.msg.data
      let h := beField d 0 2
      (dikeLogFields q.origin 4 h (s.setFilter h { s.filterAt h with
        valid := decide (byteAt d 2 = 1), prio := byteAt d 3, weir := beField d 4 2 }), .done)) r s)

/-- STREAM_FILTER_READ (R284). -/
def execStreamFilterRead (r : Rq) (s : State) : Host.Outcome State Fault Refusal :=
  .next (serveAction (at0 0x2611 0) (fun q _ => abortIf (16383 < beNat q.msg.data) aRANGE)
    (fun q s =>
      let h := beNat q.msg.data
      let x := s.filterAt h
      (s, .ok 0 0 9 (filterRecord h x ++ beBytes 8 x.matched ++ beBytes 8 x.mismatch))) r s)

end Sys2Proof.Machine
end

