-- ==== Sys2Proof/Machine/Ports.lean ====
section
/-! DEFINITION. Field ports, fast reroute, the time base and FRER (spec 03). -/

namespace Sys2Proof.Machine

/-- Is a die in service (spec 17 Table 17.1)? -/
def dieServes (s : State) (die : Nat) : Bool := decide (Tab.get 0 s.test.die die = 0)

/-! ### Fast reroute (spec 03 R118 to R127) -/

def portUp (s : State) (p : Nat) : Bool := decide ((s.port p).link = .up)
def portExists (s : State) (p : Nat) : Bool := decide (portMode s p ≠ 0)
def frrTriggers (s : State) (p : Nat) : Nat := cfgN s (0x2000 + p) 9
def portsAll : List Nat := List.range 512

/-- Ports that name `p` as their backup. -/
def primariesOf (s : State) (p : Nat) : List Nat := portsAll.filter (fun x => decide (backupPort s x = p))

/-- Do triggers run on the port (R118)? The FEC trigger never fires without RS-FEC lanes. -/
def triggerRuns (s : State) (p k : Nat) : Bool :=
  portExists s p && adminEnable s p && (frrTriggers s p).testBit k && !(decide (k = 2) && decide (portMode s p ≤ 3))

/-- FrrDebounce in femtoseconds, and FrrFecBurst. -/
def frrDebounce (s : State) (p : Nat) : Nat := cfgN s (0x2000 + p) 0xA * 1000000
def frrFecBurst (s : State) (p : Nat) : Nat := cfgN s (0x2000 + p) 0xB

/-- Has a trigger's condition held for FrrDebounce? -/
def heldLong (s : State) (p k : Nat) : Bool :=
  (s.port p).conds.testBit k && decide (Tab.get 0 (s.port p).onset k + frrDebounce s p ≤ s.clock)

/-- Flags a port for a flush sweep on every home die (spec 05 R199). -/
def flagFlush (port : Nat) (s : State) : State :=
  modTables (fun x => { x with
    flush := [0, 1, 2, 3].foldl (fun m d =>
      let l := Tab.get [] m d
      if l.contains port then m else Tab.set [] m d (l ++ [port])) x.flush }) s

/-- The switchover of R120. -/
def switchover (p : Nat) (s : State) : State :=
  let s1 := countPort p 0x2C 1 s
  let s2 := raisePort p 1 (s1.setPort p { s1.port p with
    frrState := 1, redirect := true, suspended := true, upAt := s1.clock })
  let r := flushPort p s2
  let s3 := countPort p 0x2D r.1 r.2
  if cfgN s (0x2000 + p) 0xD = 1 then flagFlush p s3 else s3

/-- No redirect is possible: FrrState 2 (R123, R126). -/
def backupUnavailable (p : Nat) (s : State) : State :=
  raisePort p 2 (s.setPort p { s.port p with frrState := 2 })

/-- Reversion (R124, R127): the redirect goes, learning resumes. -/
def revert (p : Nat) (s : State) : State :=
  s.setPort p { s.port p with frrState := 0, redirect := false, suspended := false }

/-- A latched primary acts (R120, R123, R125); `same` are the ports that latched in this cycle. -/
def primaryActs (same : List Nat) (p : Nat) (s : State) : State :=
  let b := backupPort s p
  let x := s.port p
  if b = 0xFFFF ∨ x.frrState ≠ 0 then s
  else if portUp s b && !same.contains b then switchover p s
  else backupUnavailable p s

/-- FRR_DEBOUNCE_EXPIRY (R118, R125): the triggers of the list, whose conditions have held for
FrrDebounce, latch in one cycle. -/
def debounceExpiry (pairs : List (Nat × Nat)) (s : State) : State :=
  let good := pairs.filter (fun e => triggerRuns s e.1 e.2 && heldLong s e.1 e.2
    && !(s.port e.1).latch.testBit e.2)
  let s1 := forEach good (fun e st =>
    st.setPort e.1 { st.port e.1 with latch := bitSet (st.port e.1).latch e.2 }) s
  let ports := (good.map (·.1)).dedup
  forEach ports (primaryActs ports) s1

def execFrrDebounceExpiry (t port : Nat) (triggers : List (Nat × Nat)) (s : State) :
    Host.Outcome State Fault Refusal :=
  let s1 := advance t s
  .next (if triggers.any (fun e => decide (e.1 = port)) then
    debounceExpiry (triggers.filter (fun e => decide (e.1 < 512))) s1 else s1)

/-- A trigger's condition begins or clears (R118, R123). With FrrDebounce 0 it fires as it begins. One that has
held for FrrDebounce when it clears has fired before; any other fires nothing and is suppressed. -/
def conditionChange (p k : Nat) (present : Bool) (s : State) : State :=
  let x := s.port p
  if present = x.conds.testBit k ∨ 4 ≤ k then s
  else if present then
    let s1 := s.setPort p { x with conds := bitSet x.conds k, onset := Tab.ins x.onset k s.clock }
    if frrDebounce s p = 0 then debounceExpiry [(p, k)] s1 else s1
  else
    let s0 := if heldLong s p k then debounceExpiry [(p, k)] s else s
    let y := s0.port p
    let latch := bitClear y.latch k
    let s1 := s0.setPort p { y with
      conds := bitClear y.conds k
      latch := latch
      onset := Tab.del y.onset k
      frrState := if y.frrState = 2 && !y.redirect && decide (latch = 0) then 0 else y.frrState }
    if !y.latch.testBit k && triggerRuns s p k then countPort p 0x2E 1 s1 else s1

/-- One FEC codeword: 0 clean, 1 corrected, 2 uncorrectable. It is counted (R117); with RS-FEC the burst condition is
looked at over it and the 7 before it (R118). -/
def fecCodeword (p : Nat) (c : Nat) (s : State) : State :=
  let s1 := if c = 1 then countPort p 0x28 1 s else if c = 2 then countPort p 0x29 1 s else s
  let x := s1.port p
  if x.fec ≠ 2 then s1
  else
    let win := (x.fecWin ++ [decide (c = 2)]).drop (x.fecWin.length + 1 - 8)
    conditionChange p 2 (decide (frrFecBurst s p ≤ (win.filter id).length)) (s1.setPort p { x with fecWin := win })

/-- FRR_CONDITION_CHANGE (R118): the FEC burst condition follows the codewords that have come; the others are what the
port's lanes and its partner show. -/
def execFrrConditionChange (t port trigger : Nat) (w : Condition) (s : State) :
    Host.Outcome State Fault Refusal :=
  let s1 := advance t s
  .next (if 512 ≤ port then s1
    else if trigger = 2 then (if (s1.port port).fec = 0 then s1 else forEach w.codewords (fecCodeword port) s1)
    else conditionChange port trigger w.present s1)

/-- FRR_REVERT_HOLD_EXPIRY (R124): the primary has stayed UP for FrrRevertHold. -/
def execFrrRevertHoldExpiry (t port : Nat) (s : State) : Host.Outcome State Fault Refusal :=
  let s1 := advance t s
  let hold := cfgN s1 (0x2000 + port) 0xC
  .next (if port < 512 && (s1.port port).redirect && decide ((s1.port port).frrState = 1)
      && portUp s1 port && decide (hold ≠ 0) && decide ((s1.port port).upAt + hold * 10 ^ 12 ≤ t) then
    revert port s1 else s1)

/-- FRR_REVERT (R124, R123, R126). -/
def execFrrRevert (r : Rq) (s : State) : Host.Outcome State Fault Refusal :=
  .next (serveAction (fun i k => decide (0x2000 ≤ i ∧ i < 0x2200 ∧ k = 0xE))
    (fun q s => abortIf (!((s.port (q.msg.index - 0x2000)).redirect && portUp s (q.msg.index - 0x2000))) aSTATE)
    (fun q s => (revert (q.msg.index - 0x2000) s, .done)) r s)

/-! ### Link state (spec 03 R100, R126) -/

/-- What a primary does when its backup comes UP (R123, R126). -/
def backupCameUp (p : Nat) (s : State) : State :=
  let x := s.port p
  if x.frrState ≠ 2 then s
  else if x.redirect then s.setPort p { x with frrState := 1 }
  else if x.latch ≠ 0 then switchover p s
  else s

/-- What a switched primary does when its backup leaves UP (R126). -/
def backupWentDown (p : Nat) (s : State) : State :=
  let x := s.port p
  if x.frrState = 1 then
    let s1 := backupUnavailable p s
    if portUp s p then revert p s1 else s1
  else s

/-- The 100 ms between two tries of a port in DOWN (Table 3.3). -/
def retryPeriod : Nat := 10 ^ 14

/-- A port's LinkState changes, with everything the change brings. -/
def setLink (p : Nat) (st : LinkSt) (fec : Nat) (s : State) : State :=
  let x := s.port p
  if x.link = st then s
  else
    let was := decide (x.link = .up)
    let is := decide (st = .up)
    let fresh := decide (x.link = .disabled ∨ x.link = .outOfService)
    let s1 := s.setPort p { x with
      link := st
      fec := if is then fec else 0
      fecWin := []
      upAt := if is then s.clock else x.upAt
      retryAt := if st = .down then (if fresh then s.clock else s.clock + retryPeriod) else x.retryAt }
    if was = is then s1
    else
      let s2 := raisePort p 0 (if was then countPort p 0x2A 1 s1 else s1)
      if is then
        let s3 := forEach (primariesOf s2 p) backupCameUp s2
        let y := s3.port p
        if y.redirect && decide (y.frrState = 2) then revert p s3 else s3
      else forEach (primariesOf s2 p) backupWentDown s2

/-- Is the port one that bring-up works on (R100, R135)? -/
def portActive (s : State) (p : Nat) : Bool :=
  s.boot.fieldUp && portExists s p && adminEnable s p && decide ((s.port p).link ≠ .outOfService)

/-- The FEC modes a port mode allows; 0xFF chooses (Table 3.2). -/
def fecAllowed (mode fec : Nat) : Bool :=
  decide (fec = 0xFF) || (match mode with
    | 0 => decide (fec ≤ 2)
    | 4 => decide (fec ≤ 1)
    | 5 => decide (fec ≤ 2)
    | 6 => decide (fec = 0 ∨ fec = 2)
    | _ => decide (fec = 0))

/-- Does the port negotiate: Clause 37, Clause 73, or the SGMII exchange (Table 3.2)? -/
def negotiates (s : State) (p : Nat) : Bool :=
  let m := portMode s p
  decide (m = 2) || (decide (m = 1 ∨ m = 5 ∨ m = 6) && decide (cfgN s (0x2000 + p) 3 = 1))

/-- The FEC of a port (R99): by Clause 73, what the resolution gives of those advertised; else the FEC set or, with
0xFF, the mode's default. -/
def fecResolved (s : State) (p resolution : Nat) : Nat :=
  let m := portMode s p
  let f := cfgN s (0x2000 + p) 4
  if negotiates s p ∧ 5 ≤ m then
    (if fecAllowed m resolution && decide (resolution < 3) && decide (f = 0xFF ∨ f = resolution) then resolution else 0)
  else if f = 0xFF then (if 5 ≤ m then 2 else 0)
  else f

/-- LINK_STATE_CHANGE (R100): the line and the link partner take the port to another state. DISABLED
and OUT_OF_SERVICE are not theirs to give. An SGMII port whose control words signal another rate
than 1,000 is held in DOWN (R97). -/
def execLinkStateChange (t port : Nat) (st : LinkSt) (w : LinkTerms) (s : State) :
    Host.Outcome State Fault Refusal :=
  let s1 := advance t s
  let next := if portMode s1 port = 2 ∧ w.rate ≠ 1000 then .down else st
  .next (if port < 512 && portActive s1 port && decide (st ≠ .disabled) && decide (st ≠ .outOfService) then
    setLink port next (fecResolved s1 port w.fec) s1 else s1)

/-- PORT_RETRY (R100, Table 3.3): every 100 ms a port in DOWN is tried again. -/
def execPortRetry (t port : Nat) (s : State) : Host.Outcome State Fault Refusal :=
  let s1 := advance t s
  .next (if port < 512 && portActive s1 port && decide ((s1.port port).link = .down)
      && decide ((s1.port port).retryAt ≤ t) then
    let s2 := s1.setPort port { s1.port port with retryAt := t + retryPeriod }
    if negotiates s2 port then setLink port .training 0 s2 else s2
  else s1)

/-- AdminEnable or PortMode has changed: DISABLED while either is 0 (Table 3.3), DOWN when bring-up starts; on a die
that is under test a port that exists is OUT_OF_SERVICE. A switched primary that is disabled loses its redirect
(R127; log entry 112). -/
def portAdminChanged (p : Nat) (s : State) : State :=
  let want := portExists s p && adminEnable s p
  let s1 :=
    if !dieServes s (dieOf p) && s.boot.fieldUp then setLink p (if portExists s p then .outOfService else .disabled) 0 s
    else if want && s.boot.fieldUp then
      (if (s.port p).link = .disabled ∨ (s.port p).link = .outOfService then setLink p .down 0 s else s)
    else setLink p .disabled 0 s
  if !want && decide ((s1.port p).frrState ≠ 0) then revert p s1 else s1

/-! ### The time base (spec 03 R106 to R108, R113, R114) -/

/-- Codes of TimeState. -/
def tsUNSET : Nat := 0
def tsFREE : Nat := 1
def tsLOCKED : Nat := 2
def tsHOLDOVER : Nat := 3

def timeSource (s : State) : Nat := cfgN s 0x1201 0

/-- The largest value TIME96 holds, in units of 2^-16 ns. -/
def time96Max : Nat := 2 ^ 48 * unitsPerSec - 1

/-- The time base steps to a reading; lists whose time has come are applied (spec 08 R296). -/
def stepTime (x : Nat) (s : State) : State :=
  gatesAfterStep (modTime (fun b => { b with
    num := x * 10 ^ 18, state := if b.state = tsUNSET then tsFREE else b.state }) s)

/-- STATE while PTP holds the time base (R108). -/
def timeHeld (s : State) : List Nat := abortIf (timeSource s = 1 && decide (s.time.state = tsLOCKED)) aSTATE

/-- TIME_SET (R108). -/
def execTimeSet (r : Rq) (s : State) : Host.Outcome State Fault Refusal :=
  .next (serveAction (at0 0x1200 3) (fun _ s => timeHeld s)
    (fun q s => (stepTime (ofTime96 q.msg.data) s, .done)) r s)

/-- The reading after a TimeAdjust of `b` nanoseconds. -/
def adjusted (s : State) (b : Bytes) : Int := (timeNow s : Int) + signedOf 64 (beNat b) * 65536

/-- TIME_ADJUST (R108): the fraction below 2^-16 ns is kept. -/
def execTimeAdjust (r : Rq) (s : State) : Host.Outcome State Fault Refusal :=
  .next (serveAction (at0 0x1200 4)
    (fun q s => timeHeld s
      ++ abortIf (decide (adjusted s q.msg.data < 0) || decide ((time96Max : Int) < adjusted s q.msg.data)
        || decide (10 ^ 9 < (signedOf 64 (beNat q.msg.data)).natAbs)) aRANGE)
    (fun q s =>
      let frac := s.time.num % 10 ^ 18
      let unset := s.time.state
      let s1 := modTime (fun b => { b with num := (adjusted s q.msg.data).toNat * 10 ^ 18 + frac, state := unset }) s
      (gatesAfterStep s1, .done)) r s)

/-- The rate of the time base changes; RateAdjust reads it (R106). -/
def setRate (x : Int) (s : State) : State :=
  setVal 0x1200 5 (beBytes 4 (unsignedOf 32 x)) (modTime (fun b => { b with rate := x }) s)

/-- A rate within the bounds of RateAdjust. -/
def clampRate (x : Int) : Int := max (-500000000) (min 500000000 x)

/-- Three announce intervals of 2 to the power `k` seconds, in femtoseconds. -/
def announceLimit (k : Int) : Nat :=
  if 0 ≤ k then 3 * 10 ^ 15 * 2 ^ k.toNat else 3 * 10 ^ 15 / 2 ^ (-k).toNat

/-- Is the selected source lost (R107): no Announce or Sync from the parent for 3 announce intervals, or no PPS_IN
edge for 1.5 s? -/
def sourceGone (s : State) : Bool :=
  match timeSource s with
  | 1 => decide (s.time.lastMsg + announceLimit s.time.annLog ≤ s.clock)
  | 2 => decide (s.time.lastEdge + 1500000000000000 ≤ s.clock)
  | _ => false

/-- TIME_SOURCE_LOST (R107): a source the time base was locked to is lost. -/
def loseSource (s : State) : State :=
  if sourceGone s ∧ s.time.state = tsLOCKED then
    raise 4 (modTime (fun b => { b with state := tsHOLDOVER }) s)
  else s

/-- A restart of the management cores takes the PTP instance away for a while (R134; log entry 113). -/
def ptpStops (s : State) : State :=
  if timeSource s = 1 ∧ s.time.state = tsLOCKED then modTime (fun b => { b with state := tsHOLDOVER }) s else s

def execTimeSourceLost (t : Nat) (s : State) : Host.Outcome State Fault Refusal :=
  .next (loseSource (advance t s))

/-- The error of a timestamp, within 4 ns (R104), and the state past the draw. -/
def drawStampError (s : State) : Int × State :=
  (max (-262144) (min 262144 (Config.stampError s.freeCtr)), { s with freeCtr := s.freeCtr + 1 })

/-- A timestamp of this moment: the time base plus its error, never below zero (R104). -/
def stampNow (s : State) : Nat × State :=
  let e := drawStampError s
  (((timeNow s : Int) + e.1).toNat, e.2)

/-- PPS_IN_EDGE (R114): the capture, and with TimeSource 2 the servo's step (log entry 33). -/
def ppsIn (s : State) : State :=
  let e := stampNow s
  let cap := ((e.1 : Int) - cfgI s 0x1203 5 * 65536).toNat
  let s1 := modTime (fun b => { b with ppsInLast := cap, lastEdge := s.clock }) e.2
  if timeSource s ≠ 2 then s1
  else
    let k := s1.freeCtr
    let locks := Config.ppsLocks k
    let s2 := setRate (clampRate (Config.ppsRate k)) { s1 with freeCtr := k + 1 }
    modTime (fun b => { b with
      state := if b.state = tsUNSET then tsUNSET
        else if locks || decide (b.state = tsHOLDOVER) then tsLOCKED else b.state }) s2

def execPpsInEdge (t : Nat) (rising : Bool) (s : State) : Host.Outcome State Fault Refusal :=
  let s1 := advance t s
  .next (if rising = decide (cfgN s1 0x1203 4 = 0) then ppsIn s1 else s1)

/-- Distance of the time base from the nearest instant at which PPS_OUT rises, within 5 ns (R113)? -/
def ppsDue (s : State) : Bool :=
  let x := ((timeNow s : Int) - cfgI s 0x1203 3 * 65536) % (unitsPerSec : Int)
  decide (x ≤ 327680) || decide ((unitsPerSec : Int) - 327680 ≤ x)

/-- PPS_OUT_RISE (R113). -/
def execPpsOutRise (t : Nat) (s : State) : Host.Outcome State Fault Refusal :=
  let s1 := advance t s
  .next (if cfgN s1 0x1203 1 = 1 ∧ s1.time.state ≠ tsUNSET ∧ ppsDue s1 then
    modTime (fun b => { b with ppsOut := true, ppsRise := t }) s1 else s1)

/-- PPS_OUT_FALL (R113): PPS_OUT has been high for PpsOutWidth. -/
def execPpsOutFall (t : Nat) (s : State) : Host.Outcome State Fault Refusal :=
  let s1 := advance t s
  .next (if s1.time.ppsRise + cfgN s1 0x1203 2 * 1000000 ≤ t then modTime (fun b => { b with ppsOut := false }) s1 else s1)

/-- Is SYNCE_OUT `k` driven with a clock (R115, Table 3.9)? It is held low otherwise. -/
def synceDriven (s : State) (k : Nat) : Bool :=
  let p := cfgN s 0x1204 (if k = 0 then 1 else 3)
  decide (p < 512) && portExists s p && (portUp s p || decide (cfgN s 0x1204 5 = 0)) && decide (s.time.state ≠ tsUNSET)

/-- Line rate per lane of a mode, in kBd (Table 3.1). -/
def laneRate (mode : Nat) : Nat :=
  match mode with
  | 1 => 1250000
  | 2 => 1250000
  | 3 => 3125000
  | 4 => 10312500
  | 5 => 25781250
  | 6 => 25781250
  | _ => 0

/-- What SYNCE_OUT `k` carries: the recovered clock of a lane, in kHz, and its divider; none while the output is
low. -/
def synceClock (s : State) (k : Nat) : Option (Nat × Nat) :=
  if synceDriven s k then
    some (laneRate (portMode s (cfgN s 0x1204 (if k = 0 then 1 else 3))), cfgN s 0x1204 (if k = 0 then 2 else 4))
  else none

/-- Would a recovered clock exceed 200 MHz (R115)? -/
def synceTooFast (mode divider : Nat) : Bool := decide (200000 * divider < laneRate mode)

/-! ### FRER (spec 03 R129 to R132) -/

/-- Counters: Passed, Discarded, OutOfOrder, Rogue, Lost, Tagless, Resets, WrongPort. -/
def frerCount (i k n : Nat) (s : State) : State :=
  let x := s.frerAt i
  s.setFrer i { x with ctr := Tab.upd 0 x.ctr k (fun c => satAdd64 c n) }

/-- Clear bits among the `d` oldest of the window's `h` (R130). -/
def clearBits (h window d : Nat) : Nat :=
  ((List.range (min d h)).filter (fun i => !window.testBit (h - 1 - i))).length + (d - min d h)

/-- A frame is accepted: counted, and the reset timer starts anew (R130). -/
def frerPass (i : Nat) (s : State) : State := frerCount i 0 1 (s.setFrer i { s.frerAt i with acceptAt := s.clock })

/-- Recovery of a frame with a sequence number, or none without R-tag: is it accepted (R130)? -/
def frerRecover (i : Nat) (seq : Option Nat) (s : State) : Bool × State :=
  let x := s.frerAt i
  match seq with
  | none => (false, frerCount i 5 1 s)
  | some n =>
    if x.takeAny then
      (true, frerPass i (s.setFrer i { x with rcv := n, window := 1, takeAny := false }))
    else
      let d := signedOf 16 ((n + 65536 - x.rcv) % 65536)
      if (x.history : Int) ≤ d ∨ d ≤ -(x.history : Int) then (false, frerCount i 3 1 s)
      else if d ≤ 0 then
        let k := (-d).toNat
        if x.window.testBit k then (false, frerCount i 1 1 s)
        else (true, frerPass i (frerCount i 2 1 (s.setFrer i { x with window := bitSet x.window k })))
      else
        let k := d.toNat
        (true, frerPass i (frerCount i 4 (clearBits x.history x.window k)
          (s.setFrer i { x with rcv := n, window := (x.window * 2 ^ k + 1) % 2 ^ x.history })))

/-- FRER_RESET_TIMEOUT (R130): ResetTimeout has passed since the last accepted frame. -/
def execFrerResetTimeout (w : StreamAt) (s : State) : Host.Outcome State Fault Refusal :=
  let s1 := advance w.t s
  let x := s1.frerAt w.stream
  .next (if w.stream < 16384 ∧ x.mode = 2 ∧ !x.takeAny ∧ x.acceptAt + x.timeout * 10 ^ 12 ≤ w.t then
    frerCount w.stream 6 1 (s1.setFrer w.stream { x with takeAny := true }) else s1)

/-- The 12 bytes of FrerStreamWrite. -/
def frerRecord (i : Nat) (x : Frer) : Bytes :=
  beBytes 2 i ++ [byteOf x.mode] ++ beBytes 2 x.port ++ [byteOf x.history] ++ beBytes 2 x.timeout
  ++ [byteOf (boolNat x.strip)] ++ zeros 3

/-- FRER_STREAM_WRITE (R132). -/
def execFrerStreamWrite (r : Rq) (s : State) : Host.Outcome State Fault Refusal :=
  .next (serveAction (at0 0x2780 0)
    (fun q s =>
      let d := q.msg.data
      let p := beField d 3 2
      abortIf (decide (16383 < beField d 0 2) || decide (2 < byteAt d 2)
        || (decide (byteAt d 2 ≠ 0) && (decide (511 < p) || !portExists s p))
        || decide (byteAt d 5 < 2) || decide (64 < byteAt d 5)
        || decide (beField d 6 2 < 1) || decide (10000 < beField d 6 2)
        || decide (slice d 9 3 ≠ zeros 3)) aRANGE ++ abortIf (1 < byteAt d 8) aTYPE)
    (fun q s =>
      let d := q.msg.data
      let i := beField d 0 2
      (dikeLogFields q.origin 4 i (s.setFrer i { Frer.reset with
        mode := byteAt d 2
        port := beField d 3 2
        history := byteAt d 5
        timeout := beField d 6 2
        strip := decide (byteAt d 8 = 1) }), .done)) r s)

/-- FRER_STREAM_READ (R132). -/
def execFrerStreamRead (r : Rq) (s : State) : Host.Outcome State Fault Refusal :=
  .next (serveAction (at0 0x2781 0) (fun q _ => abortIf (16383 < beNat q.msg.data) aRANGE)
    (fun q s =>
      let i := beNat q.msg.data
      let x := s.frerAt i
      (s, .ok 0 0 9 (frerRecord i x ++ [byteOf (boolNat x.takeAny)] ++ beBytes 2 x.rcv ++ [0]
        ++ ((List.range 8).map (fun k => beBytes 8 (Tab.get 0 x.ctr k))).flatten))) r s)

end Sys2Proof.Machine
end

