-- ==== Sys2Proof/Machine/Parser.lean ====
section
/-! DEFINITION. The parse graph, the parse result vector, the symmetric hash and rule matching (spec
04 R136 to R161), and the banks of rules and parse programs with their actions (R164 to R174). -/

namespace Sys2Proof.Machine

/-! ### Banks -/

def bankAt (s : State) (b : Nat) : Bank := s.cls.banks.getD b Bank.reset

def setBank (b : Nat) (x : Bank) (s : State) : State :=
  modCls (fun c => { c with banks := c.banks.set b x }) s

def ruleAt (k : Bank) (slot : Nat) : Rule := Tab.get Rule.reset k.rules slot
def stateRecord (k : Bank) (n : Nat) : Bytes := Tab.get (zeros 32) k.states n
def transitionAt (k : Bank) (n : Nat) : Transition := Tab.get Transition.reset k.trans n

/-- A profile's 63 selectors; an unprogrammed one is all 0xFFFF (R156). -/
def profileAt (k : Bank) (n : Nat) : List Nat := Tab.get (List.replicate 63 0xFFFF) k.profiles n

/-! ### One parse (spec 04 R136 to R149, R605) -/

/-- Where a parse ends. -/
inductive PEnd where
  | malformed (code : Nat)
  | depth
deriving DecidableEq, Repr

/-- What a parse works on. -/
structure PIn where
  b : Bytes
  depthLimit : Nat
  byteLimit : Nat
  vxlan : Nat
  geneve : Nat
  siphon : Nat
  fdp : Nat
  bank : Bank

/-- A walk in progress: `level` is 0 while headers go to the outer set, 1 for the inner set, 2 for
neither; `next` is the state to enter, 64 for none and 65 for a limit of R138. -/
structure Walk where
  prv : Bytes
  off : Nat
  hdrs : Nat
  next : Nat
  level : Nat
  cls : Nat
  flags : Nat
  ipv : Nat
  ipEnd : Nat
  udpEnd : Nat
  tags : Nat
  exts : Nat
  extType : Nat
  inIp : Bool
  overUdp : Bool
  l4 : Nat
  innerEth : Bool
  stop : Bool

def Walk.start (b : Bytes) : Walk where
  prv := splice (zeros 512) 0x40 (List.replicate 16 0xFF#8)
  off := 0
  hdrs := 0
  next := 0
  level := 0
  cls := 0
  flags := 0
  ipv := 0
  ipEnd := b.length
  udpEnd := b.length
  tags := 0
  exts := 0
  extType := 0
  inIp := false
  overUdp := false
  l4 := 0
  innerEth := false
  stop := false

/-- PRV offsets of the L2, L3 and L4 sets (Table 4.3). -/
def l2Base (level : Nat) : Nat := if level = 0 then 0x80 else 0x120
def l3Base (level : Nat) : Nat := if level = 0 then 0xC0 else 0x140
def l4Base (level : Nat) : Nat := if level = 0 then 0xF0 else 0x170

/-- Flag bits of PRV 0x005. -/
def fDepth : Nat := 0
def fV4Frag : Nat := 1
def fV6Frag : Nat := 2
def fTunnel : Nat := 3
def fInner : Nat := 4
def fRtag : Nat := 5
def fHashL4 : Nat := 6

def Walk.put (w : Walk) (at1 : Nat) (b : Bytes) : Walk := { w with prv := splice w.prv at1 b }

/-- Writes into a set, unless the header belongs to neither. -/
def Walk.putSet (w : Walk) (base : Nat → Nat) (at1 : Nat) (b : Bytes) : Walk :=
  if w.level < 2 then
    { w.put (base w.level + at1) b with flags := if w.level = 1 then bitSet w.flags fInner else w.flags }
  else w

/-- A built-in class, plus 0x10 in a tunnel (R145). -/
def Walk.setCls (w : Walk) (c : Nat) : Walk := { w with cls := if w.level = 0 then c else c + 0x10 }

/-- A tunnel header: its fields for the first one, and the next set (R143). -/
def Walk.tunnel (w : Walk) (ty proto key optLen : Nat) (opts : Bytes) : Walk :=
  let w1 := if w.level = 0 then
      { w.put 0x100 ([byteOf ty, 0] ++ beBytes 2 proto ++ beBytes 4 key ++ [byteOf optLen, 0, 0, 0]
          ++ padTo 20 opts) with flags := bitSet w.flags fTunnel }
    else w
  { w1 with level := min 2 (w.level + 1) }

/-- Does a part of `n` bytes at the walk's place lie in the frame and below the byte limit (R605)? -/
def partOk (x : PIn) (w : Walk) (n : Nat) : Option PEnd :=
  if x.b.length < w.off + n then some (.malformed 1)
  else if x.byteLimit < w.off + n then some .depth
  else none

/-- The state a transition entry chooses for a selected value: the lowest matching entry, or none
where its state is not valid (R140, R141). -/
def progNext (k : Bank) (src v : Nat) : Nat :=
  match k.trans.find? (fun e => e.2.valid && decide (e.2.src = src)
      && decide (v &&& e.2.mask = e.2.value &&& e.2.mask)) with
  | some e => if (byteAt (stateRecord k e.2.dst) 0).testBit 0 then e.2.dst else 64
  | none => 64

/-- The state an EtherType chooses (Table 4.1, R138). -/
def etherNext (x : PIn) (w : Walk) (src ty : Nat) : Nat :=
  if ty = 0x8100 then (if 4 ≤ w.tags then 65 else 1)
  else if ty = 0x88A8 then (if 4 ≤ w.tags then 65 else 2)
  else if ty = 0xF1C1 then 3
  else if ty = 0x0800 then 4
  else if ty = 0x86DD then 5
  else if ty = 0x88F7 then 12
  else progNext x.bank src ty

/-- After a header that ends with an EtherType. -/
def Walk.ether (x : PIn) (w : Walk) (src at1 : Nat) : Walk :=
  let ty := beField x.b at1 2
  { w.putSet l2Base 30 (beBytes 2 ty) with next := etherNext x w src ty, overUdp := false }

/-- After an IP header or extension header with protocol or next header `v`; `at1` is where the next
header stands. -/
def Walk.ipNext (x : PIn) (w : Walk) (src v at1 : Nat) (six : Bool) : Walk :=
  if six && (decide (v = 0) || decide (v = 43) || decide (v = 44) || decide (v = 60)) then
    { w with extType := v, next := if 4 ≤ w.exts then 65 else 6 }
  else if v = 17 then { w with next := 7 }
  else if v = 6 then { w with next := 8 }
  else if v = 47 then
    { w with next := if at1 + 2 ≤ x.b.length ∧ byteAt x.b (at1 + 1) % 8 ≠ 0 then 64 else 11 }
  else if v = 4 then { w with next := 4, inIp := true }
  else if v = 41 then { w with next := 5, inIp := true }
  else { w with next := progNext x.bank src v }

/-- An IP header selected by protocol 4 or 41 begins a tunnel (R143). -/
def Walk.enterIp (w : Walk) (proto : Nat) : Walk :=
  if w.inIp then { w.tunnel 4 proto 0 0 [] with inIp := false } else w

/-- The first failing check, or the length of the header (R605 steps 2 to 6 for a header whose fixed
part is `fixed` and whose length is `len`). -/
def checked (x : PIn) (w : Walk) (fixed len : Nat) (fields : Option Nat) : Option PEnd :=
  match partOk x w fixed with
  | some e => some e
  | none => match fields with
    | some c => some (.malformed c)
    | none => partOk x w len

def ip4Checks (x : PIn) (w : Walk) : Option Nat :=
  let p := w.off
  let ihl := byteAt x.b p % 16
  let tot := beField x.b (p + 2) 2
  if byteAt x.b p / 16 ≠ 4 then some 2
  else if ihl < 5 ∨ tot < ihl * 4 then some 3
  else if x.b.length < p + tot then some 4
  else if w.ipv ≠ 0 ∧ w.ipEnd < p + tot then some 0xB
  else none

def ip6Checks (x : PIn) (w : Walk) : Option Nat :=
  let p := w.off
  let pl := beField x.b (p + 4) 2
  if byteAt x.b p / 16 ≠ 6 then some 2
  else if x.b.length < p + 40 + pl then some 5
  else if w.ipv ≠ 0 ∧ w.ipEnd < p + 40 + pl then some 0xB
  else none

/-- Does some option of a GENEVE header run past its options area (Table 4.5)? -/
def badOptions : Nat → Bytes → Nat → Nat → Bool
  | 0, _, _, _ => false
  | k + 1, b, at1, fin =>
    if fin ≤ at1 then false
    else
      let n := at1 + 4 + (byteAt b (at1 + 3) % 32) * 4
      if fin < at1 + 4 ∨ fin < n then true else badOptions k b n fin

/-- The length of a programmable header, and its fixed part (R141, R605). -/
def progLen (x : PIn) (w : Walk) (r : Bytes) : Nat :=
  if (byteAt r 0).testBit 2 then
    (((byteAt x.b (w.off + byteAt r 5)) &&& byteAt r 6) >>> (byteAt r 7 % 8)) <<< (byteAt r 7 / 8 % 8) + byteAt r 4
  else byteAt r 4

def progFixed (r : Bytes) : Nat :=
  let a := if (byteAt r 0).testBit 2 then byteAt r 5 + 1 else byteAt r 4
  if (byteAt r 0).testBit 1 then a else max a (byteAt r 2 + 1 + byteAt r 3)

/-- The four extracts of a programmable state, in ascending order (R142). -/
def progExtract (x : PIn) (off : Nat) (r prv : Bytes) : Bytes :=
  [10, 14, 18, 22].foldl (fun v i =>
    let n := byteAt r (i + 1)
    if n = 0 then v else splice v (beField r (i + 2) 2) (padTo n (slice x.b (off + byteAt r i) n))) prv

/-- Consumes the header of a state: the parse's end, or the walk behind the header and its length. The payload of an
inner Ethernet header ends with the frame, and the fields outside the sets are those of the first R-tag and of the
PTP, Siphon or FDP header, wherever they stand (DESIGN CHOICE, log entry 136). -/
def parseHeader (x : PIn) (w : Walk) (st : Nat) : Except PEnd (Walk × Nat) :=
  let p := w.off
  let b := x.b
  let go := fun (e : Option PEnd) (len : Nat) (y : Walk) =>
    match e with
    | some e => Except.error e
    | none => Except.ok (y, len)
  match st with
  | 0 =>
    let w1 := ({ w.putSet l2Base 0 (slice b p 12) with
      tags := 0, innerEth := w.innerEth || decide (w.level = 1) }).setCls 1
    go (checked x w 14 14 none) 14 (w1.ether x 0 (p + 12))
  | 3 =>
    let w1 := if w.flags.testBit fRtag then w
      else { w.put 0xA0 (slice b (p + 2) 2) with flags := bitSet w.flags fRtag }
    go (checked x w 6 6 none) 6 (w1.ether x 3 (p + 4))
  | 4 =>
    let hl := byteAt b p % 16 * 4
    let w1 := w.enterIp 0x0800
    let w2 := w1.putSet l3Base 0 ([4, b.getD (p + 9) 0, b.getD (p + 8) 0, b.getD (p + 1) 0] ++ zeros 4
      ++ slice b (p + 6) 2 ++ [0, byteOf (byteAt b p % 16)] ++ zeros 4
      ++ zeros 12 ++ slice b (p + 12) 4 ++ zeros 12 ++ slice b (p + 16) 4)
    let w3 := { w2 with ipv := 4, ipEnd := p + beField b (p + 2) 2, exts := 0 }
    let w4 := if beField b (p + 6) 2 % 8192 ≠ 0 then
        { w3.setCls 0xB with flags := bitSet w3.flags fV4Frag, next := 64 }
      else (w3.setCls 2).ipNext x 4 (byteAt b (p + 9)) (p + hl) false
    go (checked x w 20 hl (ip4Checks x w)) hl w4
  | 5 =>
    let w1 := w.enterIp 0x86DD
    let w2 := w1.putSet l3Base 0 ([6, b.getD (p + 6) 0, b.getD (p + 7) 0, byteOf (beField b p 2 / 16)]
      ++ beBytes 4 (beField b p 4 % 1048576) ++ zeros 2 ++ zeros 6 ++ slice b (p + 8) 32)
    let w3 := { w2 with ipv := 6, ipEnd := p + 40 + beField b (p + 4) 2, exts := 0 }
    go (checked x w 40 40 (ip6Checks x w)) 40 ((w3.setCls 5).ipNext x 5 (byteAt b (p + 6)) (p + 40) true)
  | 6 =>
    let frag := decide (w.extType = 44)
    let hl := if frag then 8 else (byteAt b (p + 1) + 1) * 8
    let fo := beField b (p + 2) 2
    let w1 := { w with exts := w.exts + 1 }
    let w2 := (w1.putSet l3Base 1 [b.getD p 0]).putSet l3Base 10 [byteOf w1.exts]
    let w3 := if frag then w2.putSet l3Base 8 (beBytes 2 (fo % 2 * 8192 + fo / 8)) else w2
    let w4 := if frag && decide (fo / 8 ≠ 0) then
        { w3.setCls 0xC with flags := bitSet w3.flags fV6Frag, next := 64 }
      else w3.ipNext x 6 (byteAt b p) (p + hl) true
    go (checked x w 8 hl (if w.ipEnd < p + hl then some 6 else none)) hl w4
  | 7 =>
    let ul := beField b (p + 4) 2
    let dp := beField b (p + 2) 2
    let w1 := (w.putSet l4Base 0 (slice b p 4)).putSet l4Base 6 (slice b (p + 4) 2)
    let w2 := { w1.setCls (if w.ipv = 4 then 3 else 6) with
      udpEnd := p + ul, overUdp := true, l4 := bitSet w1.l4 w.level }
    let nx := if dp = 319 ∨ dp = 320 then 12
      else if dp = x.vxlan then 9
      else if dp = x.geneve then 10
      else if dp = x.siphon then 13
      else if dp = x.fdp then 14
      else progNext x.bank 7 dp
    go (checked x w 8 8 (if ul < 8 ∨ w.ipEnd < p + ul then some 7 else none)) 8 { w2 with next := nx }
  | 8 =>
    let doff := byteAt b (p + 12) / 16
    let w1 := (w.putSet l4Base 0 (slice b p 4)).putSet l4Base 4 [b.getD (p + 13) 0, byteOf doff]
    go (checked x w 20 (doff * 4) (if doff < 5 ∨ w.ipEnd < p + doff * 4 then some 8 else none)) (doff * 4)
      { w1.setCls (if w.ipv = 4 then 4 else 7) with next := 64, l4 := bitSet w1.l4 w.level }
  | 9 =>
    go (checked x w 8 8 none) 8 { w.tunnel 1 0x6558 (beField b (p + 4) 3) 0 [] with next := 0 }
  | 10 =>
    let ol := byteAt b p % 64 * 4
    let proto := beField b (p + 2) 2
    let bad := if w.udpEnd < p + 8 + ol then some 9
      else if badOptions 64 b (p + 8) (p + 8 + ol) then some 0xA else none
    go (checked x w 8 (8 + ol) bad) (8 + ol)
      { w.tunnel 2 proto (beField b (p + 4) 3) ol (slice b (p + 8) (min ol 20)) with
        next := if 64 < ol then 65
          else if proto = 0x6558 then 0 else if proto = 0x0800 then 4 else if proto = 0x86DD then 5 else 64 }
  | 11 =>
    let f := byteAt b p
    let c := boolNat (f.testBit 7)
    let hl := 4 + 4 * (c + boolNat (f.testBit 5) + boolNat (f.testBit 4))
    let proto := beField b (p + 2) 2
    let key := if f.testBit 5 then beField b (p + 4 + 4 * c) 4 else 0
    go (checked x w 4 hl none) hl
      { w.tunnel 3 proto key 0 [] with
        next := if proto = 0x6558 then 0 else if proto = 0x0800 then 4 else if proto = 0x86DD then 5 else 64 }
  | 12 =>
    let ml := beField b (p + 2) 2
    let fin := if w.overUdp then w.udpEnd else b.length
    go (checked x w 34 34 (if ml < 34 ∨ fin < p + ml then some 0xC else none)) 34
      { (w.put 0xA2 ([byteOf (byteAt b p % 16), b.getD (p + 4) 0] ++ slice b (p + 30) 2
          ++ [byteOf (boolNat w.overUdp)])).setCls 8 with next := 64 }
  | 13 =>
    go (checked x w 40 40 (if w.udpEnd < p + 40 + beField b (p + 36) 2 then some 0xD else none)) 40
      { (w.put 0x180 (slice b p 16)).setCls 9 with next := 64 }
  | 14 =>
    go (checked x w 28 28 none) 28 { (w.put 0x190 (slice b p 8)).setCls 0xA with next := 64 }
  | st =>
    if st = 1 ∨ st = 2 then
      let w1 := (w.putSet l2Base (14 + 4 * w.tags)
        (beBytes 2 (if st = 1 then 0x8100 else 0x88A8) ++ slice b p 2)).putSet l2Base 12 [byteOf (w.tags + 1)]
      go (checked x w 4 4 none) 4 (({ w1 with tags := w.tags + 1 }).ether x st (p + 2))
    else
      let r := stateRecord x.bank st
      let hl := progLen x w r
      let sel := if byteAt r 3 = 1 then beNat (padTo 2 (slice b (p + byteAt r 2) 2)) else byteAt b (p + byteAt r 2)
      let w1 := { w with
        prv := progExtract x p r w.prv
        cls := if byteAt r 1 = 0 then w.cls else byteAt r 1
        next := if (byteAt r 0).testBit 1 then 64 else progNext x.bank st sel }
      go (checked x w (progFixed r) hl (if hl < byteAt r 8 then some 0xE else none)) hl w1

/-- Parses until an end: the walk as it stands there, and the end, if a limit or a check made it. -/
def parseRun (x : PIn) : Nat → Walk → Walk × Option PEnd
  | 0, w => (w, none)
  | k + 1, w =>
    if w.next = 64 then (w, none)
    else if w.next = 65 then (w, some .depth)
    else if x.depthLimit ≤ w.hdrs then (w, some .depth)
    else match parseHeader x w w.next with
    | .error e => (w, some e)
    | .ok (y, len) =>
      parseRun x k { y with
        prv := splice (splice y.prv (0x40 + w.hdrs) [byteOf w.next]) (0x50 + w.hdrs) [byteOf w.off]
        off := w.off + len
        hdrs := w.hdrs + 1 }

/-! ### The symmetric hash (spec 04 R150 to R152) -/

/-- The Toeplitz hash of R151. -/
def toeplitz (key input : Bytes) : Nat :=
  let k := beNat (padTo 40 key)
  let kk := k * 2 ^ 320 + k
  let n := beNat input
  let len := 8 * input.length
  (List.range len).foldl (fun h i =>
    if n.testBit (len - 1 - i) then h ^^^ ((kk >>> (608 - i % 320)) % 2 ^ 32) else h) 0

/-- An ordered pair of byte strings of equal length, as numbers. -/
def orderPair (a b : Bytes) : Bytes := if beNat a ≤ beNat b then a ++ b else b ++ a

/-- The input of R150 under hash fields `f` and level `lv`, and whether it takes the ports. -/
def hashInput (w : Walk) (f lv : Nat) (l2Only : Bool) : Bytes × Bool :=
  let inner := !l2Only && decide (lv = 1) && w.flags.testBit fInner
  let set := if inner then 1 else 0
  let l2 := l2Base (if inner && w.innerEth then 1 else 0)
  let l3 := l3Base set
  let l4 := l4Base set
  let ver := byteAt w.prv l3
  let ip := decide (ver ≠ 0) && !l2Only
  let a := if f.testBit 0 || !ip || l2Only then orderPair (slice w.prv l2 6) (slice w.prv (l2 + 6) 6) else []
  if ip && f.testBit 1 then
    let n := if ver = 4 then 4 else 16
    let pair := orderPair (slice w.prv (l3 + 32 - n) n) (slice w.prv (l3 + 48 - n) n)
    let frag := decide (beField w.prv (l3 + 8) 2 % 16384 ≠ 0)
    if f.testBit 2 && w.l4.testBit set && !frag then
      (a ++ pair ++ orderPair (slice w.prv l4 2) (slice w.prv (l4 + 2) 2), true)
    else (a ++ pair, false)
  else (a, false)

/-! ### The PRV of a pass -/

/-- A parse's outcome: the vector, the hash, and the end that a limit or a check made. -/
structure Parsed where
  prv : Bytes
  hash : Nat
  cls : Nat
  flags : Nat
  fin : Option PEnd
deriving DecidableEq, Repr

def parseIn (s : State) (bank : Nat) (b : Bytes) : PIn where
  b := b
  depthLimit := cfgN s 0x2801 1
  byteLimit := cfgN s 0x2801 2
  vxlan := cfgN s 0x2801 0xB
  geneve := cfgN s 0x2801 0xC
  siphon := cfgN s 0x4200 1
  fdp := cfgN s 0x1101 0
  bank := bankAt s bank

/-- Parses a frame: R143's vector with the pass's own fields. -/
def parseFrame (s : State) (bank port pass tag stamp : Nat) (b : Bytes) : Parsed :=
  let x := parseIn s bank b
  let r := parseRun x 17 (Walk.start b)
  let w := r.1
  let bad := match r.2 with
    | some (.malformed _) => true
    | some .depth => false
    | none => false
  let h := hashInput w (cfgN s 0x2801 7) (cfgN s 0x2801 8) bad
  let hash := toeplitz (cfg s 0x2801 9) h.1
  let f1 := if h.2 then bitSet w.flags fHashL4 else w.flags
  let flags := if r.2 = some .depth then bitSet f1 fDepth else f1
  let cls := if w.cls = 0 then 1 else w.cls
  let head := beBytes 2 port ++ [byteOf pass, byteOf bank, byteOf cls, byteOf flags, byteOf w.hdrs, 0]
    ++ beBytes 2 w.off ++ beBytes 2 b.length ++ beBytes 4 hash ++ beBytes 2 tag ++ time96 stamp
  { prv := splice w.prv 0 head, hash := hash, cls := cls, flags := flags, fin := r.2 }

/-! ### Rule matching (spec 04 R154 to R157) -/

/-- The key of a pass (R156). -/
def ruleKey (k : Bank) (x : Parsed) : Bytes :=
  byteOf x.cls :: (profileAt k (Tab.get 0 k.classMap x.cls)).map
    (fun o => if o = 0xFFFF then 0#8 else x.prv.getD o 0#8)

/-- The action record of the rule that matches, or none (R154). -/
def matchRule (k : Bank) (x : Parsed) : Option Bytes :=
  let key := beNat (ruleKey k x)
  (k.rules.find? (fun e => e.2.valid && decide (key &&& e.2.mask = e.2.value))).map (·.2.action)

/-- Fields of an action record (Table 4.6). -/
def actBits (a : Bytes) : Nat := beField a 0 2
def actHas (a : Bytes) (i : Nat) : Bool := (actBits a).testBit i
def actDest (a : Bytes) : Nat := beField a 2 2 % 4096
def actGroup (a : Bytes) : Nat := beField a 4 2 % 4096
def actMirror (a : Bytes) : Nat := beField a 6 2 % 4096
def actWeir (a : Bytes) : Nat := beField a 8 2 % 16384
def actTc (a : Bytes) : Nat := byteAt a 10 % 8
def actVlan (a : Bytes) : Nat := beField a 12 2
def actCounter (a : Bytes) : Nat := beField a 14 2 % 4096
def actMac (a : Bytes) : Bytes := slice a 16 6
def actTag (a : Bytes) : Nat := beField a 28 2

/-- The flow fields (Table 4.6). -/
def actFlow (a : Bytes) : FlowAct where
  op := byteAt a 22 % 4
  pin := (byteAt a 22).testBit 2
  notify := (byteAt a 22).testBit 3
  idle := byteAt a 22 / 16
  uaOff := byteAt a 23
  uaValue := beField a 24 4
  uaOp := byteAt a 30 % 4

/-! ### Bank and rule actions (spec 04 R165 to R169) -/

/-- The status of a bank: 0 inactive, 1 active, 2 retire pending (Table 4.9). -/
def bankStatus (s : State) (b : Nat) : Nat :=
  if s.cls.active = b then 1 else if s.cls.retiring ≠ [] then 2 else 0

/-- Programs are written to the inactive bank only (R166). -/
def programAborts (s : State) (b : Nat) : List Nat :=
  if 1 < b then [aRANGE] else abortIf (bankStatus s b ≠ 0) aSTATE

/-- Rules are refused for a bank in retire pending (R166). -/
def ruleAborts (s : State) (b : Nat) : List Nat :=
  if 1 < b then [aRANGE] else abortIf (bankStatus s b = 2) aSTATE

/-- A reserved bit of an action record is set (Tables 4.6, 4.7). -/
def badActionRecord (a : Bytes) : Bool :=
  decide (16384 ≤ actBits a) || decide (4096 ≤ beField a 2 2) || decide (4 ≤ byteAt a 30) || decide (byteAt a 31 ≠ 0)

/-- RULE_WRITE (R165): value AND mask is stored (R155). -/
def execRuleWrite (r : Rq) (s : State) : Host.Outcome State Fault Refusal :=
  .next (serveAction (at0 0x2810 0)
    (fun q s =>
      let d := q.msg.data
      ruleAborts s (byteAt d 0)
      ++ abortIf (decide (1 < byteAt d 1) || decide (16383 < beField d 2 2) || badActionRecord (slice d 132 32)) aRANGE)
    (fun q s =>
      let d := q.msg.data
      let b := byteAt d 0
      let k := bankAt s b
      let m := beField d 68 64
      let x : Rule := { valid := decide (byteAt d 1 = 1), value := beField d 4 64 &&& m, mask := m, action := slice d 132 32 }
      (dikeLogFields q.origin 1 (beField d 2 2)
        (setBank b { k with rules := Tab.set Rule.reset k.rules (beField d 2 2) x } s), .done)) r s)

/-- RULE_READ (R169). -/
def execRuleRead (r : Rq) (s : State) : Host.Outcome State Fault Refusal :=
  .next (serveAction (at0 0x2811 0)
    (fun q _ => abortIf (decide (1 < byteAt q.msg.data 0) || decide (byteAt q.msg.data 1 ≠ 0)
      || decide (16383 < beField q.msg.data 2 2)) aRANGE)
    (fun q s =>
      let slot := beField q.msg.data 2 2
      let x := ruleAt (bankAt s (byteAt q.msg.data 0)) slot
      (s, .ok 0 0 9 (slice q.msg.data 0 1 ++ [byteOf (boolNat x.valid)] ++ beBytes 2 slot
        ++ beBytes 64 x.value ++ beBytes 64 x.mask ++ x.action))) r s)

/-- RULE_CLEAR_RANGE (R169): a cleared slot reads as one never written (DESIGN CHOICE, log entry 137). -/
def execRuleClearRange (r : Rq) (s : State) : Host.Outcome State Fault Refusal :=
  .next (serveAction (at0 0x2812 0)
    (fun q s =>
      let d := q.msg.data
      ruleAborts s (byteAt d 0)
      ++ abortIf (decide (byteAt d 1 ≠ 0) || decide (beField d 4 2 < 1) || decide (16384 < beField d 4 2)
        || decide (16384 < beField d 2 2 + beField d 4 2)) aRANGE)
    (fun q s =>
      let d := q.msg.data
      let b := byteAt d 0
      let lo := beField d 2 2
      let k := bankAt s b
      (dikeLogFields q.origin 1 lo (setBank b { k with
        rules := k.rules.filter (fun e => decide (e.1 < lo) || decide (lo + beField d 4 2 ≤ e.1)) } s), .done)) r s)

/-- Rule counters of the four dies, 4,096 each. -/
def ruleCounterKey (die c : Nat) : Nat := die * 4096 + c

/-- The sum over the dies, wrapping at 2^64 as each counter does (R159). -/
def ruleCounterSum (t : Tab Nat) (c : Nat) : Nat :=
  (([0, 1, 2, 3].map (fun d => Tab.get 0 t (ruleCounterKey d c))).sum) % 2 ^ 64

/-- RULE_COUNTER_READ (R159). -/
def execRuleCounterRead (r : Rq) (s : State) : Host.Outcome State Fault Refusal :=
  .next (serveAction (at0 0x2813 0) (fun q _ => abortIf (4095 < beNat q.msg.data) aRANGE)
    (fun q s => (s, .ok 0 0 9 (beBytes 8 (ruleCounterSum s.cls.ruleFrames (beNat q.msg.data))
      ++ beBytes 8 (ruleCounterSum s.cls.ruleBytes (beNat q.msg.data))))) r s)

/-- RULE_COUNTER_CLEAR (R159). -/
def execRuleCounterClear (r : Rq) (s : State) : Host.Outcome State Fault Refusal :=
  .next (serveAction (at0 0x2814 0) (fun q _ => abortIf (4095 < beNat q.msg.data) aRANGE)
    (fun q s =>
      let c := beNat q.msg.data
      (dikeLogFields q.origin 1 c (modCls (fun x => { x with
        ruleFrames := x.ruleFrames.filter (fun e => decide (e.1 % 4096 ≠ c))
        ruleBytes := x.ruleBytes.filter (fun e => decide (e.1 % 4096 ≠ c)) }) s), .done)) r s)

/-- A field of a programmable state record is out of range (R141, R142). -/
def badStateRecord (d : Bytes) : Bool :=
  decide (8 ≤ byteAt d 0)
  || (decide (1 ≤ byteAt d 1) && decide (byteAt d 1 ≤ 0x1F))
  || decide (63 < byteAt d 2) || decide (1 < byteAt d 3) || decide (63 < byteAt d 5)
  || decide (64 ≤ byteAt d 7) || decide (byteAt d 8 = 0) || decide (byteAt d 9 ≠ 0)
  || decide (slice d 26 6 ≠ zeros 6)
  || [10, 14, 18, 22].any (fun i =>
      let n := byteAt d (i + 1)
      let dst := beField d (i + 2) 2
      decide (16 < n) || decide (63 < byteAt d i)
      || (decide (n ≠ 0) && (decide (64 < byteAt d i + n) || decide (dst < 0x1A0) || decide (0x200 < dst + n))))

/-- PARSE_STATE_WRITE (R141). -/
def execParseStateWrite (r : Rq) (s : State) : Host.Outcome State Fault Refusal :=
  .next (serveAction (at0 0x2820 0)
    (fun q s =>
      let d := q.msg.data
      programAborts s (byteAt d 0)
      ++ abortIf (decide (byteAt d 1 < 16) || decide (47 < byteAt d 1) || badStateRecord (slice d 2 32)) aRANGE)
    (fun q s =>
      let d := q.msg.data
      let k := bankAt s (byteAt d 0)
      (dikeLogFields q.origin 1 (byteAt d 1) (setBank (byteAt d 0) { k with
        states := Tab.set (zeros 32) k.states (byteAt d 1) (slice d 2 32) } s), .done)) r s)

/-- States that choose their next state by a field (R140). -/
def choosesNext (st : Nat) : Bool := decide (st ≤ 7) || decide (16 ≤ st ∧ st ≤ 47)

/-- TRANSITION_WRITE (R140). -/
def execTransitionWrite (r : Rq) (s : State) : Host.Outcome State Fault Refusal :=
  .next (serveAction (at0 0x2821 0)
    (fun q s =>
      let d := q.msg.data
      programAborts s (byteAt d 0)
      ++ abortIf (!choosesNext (byteAt d 2) || decide (byteAt d 3 < 16) || decide (47 < byteAt d 3)
        || decide (1 < byteAt d 8) || decide (byteAt d 9 ≠ 0)) aRANGE)
    (fun q s =>
      let d := q.msg.data
      let k := bankAt s (byteAt d 0)
      let x : Transition :=
        { valid := decide (byteAt d 8 = 1), src := byteAt d 2, dst := byteAt d 3, value := beField d 4 2
          mask := beField d 6 2 }
      (dikeLogFields q.origin 1 (byteAt d 1) (setBank (byteAt d 0) { k with
        trans := Tab.set Transition.reset k.trans (byteAt d 1) x } s), .done)) r s)

/-- The 63 selectors of a profile write. -/
def selectors (d : Bytes) : List Nat := (List.range 63).map (fun i => beField d (2 * i) 2)

/-- KEY_PROFILE_WRITE (R156). -/
def execKeyProfileWrite (r : Rq) (s : State) : Host.Outcome State Fault Refusal :=
  .next (serveAction (at0 0x2822 0)
    (fun q s =>
      let d := q.msg.data
      programAborts s (byteAt d 0)
      ++ abortIf (decide (15 < byteAt d 1)
        || (selectors (d.drop 2)).any (fun x => decide (511 < x) && decide (x ≠ 0xFFFF))) aRANGE)
    (fun q s =>
      let d := q.msg.data
      let k := bankAt s (byteAt d 0)
      (dikeLogFields q.origin 1 (byteAt d 1) (setBank (byteAt d 0) { k with
        profiles := Tab.set (List.replicate 63 0xFFFF) k.profiles (byteAt d 1) (selectors (d.drop 2)) } s),
       .done)) r s)

/-- CLASS_MAP_WRITE (R156). -/
def execClassMapWrite (r : Rq) (s : State) : Host.Outcome State Fault Refusal :=
  .next (serveAction (at0 0x2823 0)
    (fun q s =>
      let d := q.msg.data
      programAborts s (byteAt d 0)
      ++ abortIf (decide (byteAt d 1 ≠ 0) || (d.drop 2).any (fun x => decide (15 < x.toNat))) aRANGE)
    (fun q s =>
      let d := q.msg.data
      let k := bankAt s (byteAt d 0)
      (dikeLogFields q.origin 1 0 (setBank (byteAt d 0) { k with
        classMap := (List.range 256).foldl (fun m i => Tab.set 0 m i (byteAt d (2 + i))) [] } s), .done)) r s)

/-- A transition as ProgramRead returns it. -/
def transitionRecord (x : Transition) : Bytes :=
  [byteOf x.src, byteOf x.dst] ++ beBytes 2 x.value ++ beBytes 2 x.mask ++ [byteOf (boolNat x.valid), 0]

/-- PROGRAM_READ (R169). A class map is one, whatever its number is. -/
def programRecord (s : State) (b kind n : Nat) : Bytes :=
  let k := bankAt s b
  match kind with
  | 0 => stateRecord k n
  | 1 => transitionRecord (transitionAt k n)
  | 2 => ((profileAt k n).map (beBytes 2)).flatten
  | _ => (List.range 256).map (fun i => byteOf (Tab.get 0 k.classMap i))

def execProgramRead (r : Rq) (s : State) : Host.Outcome State Fault Refusal :=
  .next (serveAction (at0 0x2824 0)
    (fun q _ =>
      let d := q.msg.data
      let n := beField d 2 2
      abortIf (decide (1 < byteAt d 0) || decide (3 < byteAt d 1)
        || (decide (byteAt d 1 = 0) && (decide (n < 16) || decide (47 < n)))
        || (decide (byteAt d 1 = 1) && decide (255 < n))
        || (decide (byteAt d 1 = 2) && decide (15 < n))) aRANGE)
    (fun q s => (s, .ok 0 0 9 (programRecord s (byteAt q.msg.data 0) (byteAt q.msg.data 1)
      (beField q.msg.data 2 2)))) r s)

/-- BANK_SWAP (R167): the former bank retires on every die. -/
def execBankSwap (r : Rq) (s : State) : Host.Outcome State Fault Refusal :=
  .next (serveAction (at0 0x2800 4)
    (fun q s => programAborts s (beNat q.msg.data))
    (fun q s => (dikeLogFields q.origin 1 (beNat q.msg.data)
      (modCls (fun c => { c with active := beNat q.msg.data, retiring := [0, 1, 2, 3] }) s), .done)) r s)

/-- BANK_RETIRE (R167): no frame of the former bank is left in a die's pipes. -/
def bankRetire (die : Nat) (s : State) : State :=
  let busy := s.cls.recirc.any (fun e => decide (e.1 / 4 = die) && e.2.any (fun f => decide (f.bank ≠ s.cls.active)))
  if s.cls.retiring.contains die && !busy then
    let left := s.cls.retiring.filter (fun d => decide (d ≠ die))
    let s1 := modCls (fun c => { c with retiring := left }) s
    if left = [] then raise 224 s1 else s1
  else s

def execBankRetire (t die : Nat) (s : State) : Host.Outcome State Fault Refusal :=
  .next (bankRetire die (advance t s))

end Sys2Proof.Machine
end

