-- ==== Sys2Proof/Machine/Tables.lean ====
section
/-! DEFINITION. The FDB and the stream table, their replicas, learning, aging, flushes and table
commands, and the VLAN and group tables (spec 05). -/

namespace Sys2Proof.Machine

/-! ### Access of the host to a function's registers (spec 09 R303 to R305, R315 to R318) -/

/-- Do memory requests to the function's BARs reach it? -/
def barOpen (s : State) (fn : Nat) : Bool :=
  let f := s.func fn
  decide (s.ep.link = 2) && fnExists s fn && f.memSpace && !f.d3hot && !f.flr && !f.rrs

/-- A memory request that the function does not take is completed with Unsupported Request (R305, R315),
which AER reports on the function, or on PF0 where it does not exist (R327). -/
def barMissed (fn : Nat) (s : State) : State :=
  if barOpen s fn || decide (s.ep.link ≠ 2) then s
  else
    let g := if fnExists s fn then fn else 0
    s.setFunc g { s.func g with aer := bitSet (s.func g).aer 20 }

/-! ### Keys, hash and homes (spec 05 R179 to R181, R205) -/

def fdbSize : Nat := 1052672
def streamSize : Nat := 17408
def tblSize (table : Nat) : Nat := if table = 0 then fdbSize else streamSize
def tblBuckets (table : Nat) : Nat := if table = 0 then 262144 else 4096

def fdbKey (fid mac : Nat) : Nat := fid * 2 ^ 48 + mac
def streamKey (kind vid mac : Nat) : Nat := kind * 2 ^ 63 + vid * 2 ^ 48 + mac

def tblHash (s : State) (key : Nat) : Nat := toeplitz (cfg s 0x2900 5) (beBytes 8 key)
def bucketOf (s : State) (table key : Nat) : Nat := tblHash s key % tblBuckets table

/-- The die that serves the keys homed on `die`: the next one in service, wrapping (R205). -/
def servingDie (s : State) (die : Nat) : Nat :=
  (((List.range 4).map (fun i => (die + i) % 4)).find? (dieServes s)).getD die

def homeOf (s : State) (key : Nat) : Nat := servingDie s (tblHash s key / 2 ^ 30)

/-! ### Culverts (spec 01 Table 1.2, spec 16 Table 16.2) -/

/-- The number of the mesh Culvert between two field dies. -/
def meshCulvert (a b : Nat) : Nat :=
  let lo := min a b
  let hi := max a b
  if lo = 0 then hi - 1 else if lo = 1 then hi + 1 else 5

def culvDown (s : State) (c : Nat) : Bool := Tab.get false s.culv.down c

/-- Can traffic pass between two field dies? -/
def meshOpen (s : State) (a b : Nat) : Bool := decide (a = b) || !culvDown s (meshCulvert a b)

/-- Do frames wait to cross from one field die to another? -/
def dataWaits (s : State) (a b : Nat) : Bool := s.buf.transit.any (fun p => decide (p.src = a ∧ p.dst = b))

/-- May a control flit cross now: while data waits, one flit slot in eight (spec 01 R22; log entry 111)? -/
def ctlRoom (s : State) (a b : Nat) : Bool :=
  decide (a = b) || !dataWaits s a b
  || decide (7 * Tab.get 0 s.culv.ctlFlits (4 * a + b) ≤ Tab.get 0 s.culv.dataFlits (4 * a + b))

/-- A control flit crosses. -/
def ctlCross (a b : Nat) (s : State) : State :=
  if decide (a = b) || !dataWaits s a b then s
  else modCulv (fun x => { x with ctlFlits := Tab.upd 0 x.ctlFlits (4 * a + b) (· + 1) }) s

/-- The flits of a frame that is launched; the count begins anew when none waits. -/
def dataLaunch (a b len : Nat) (s : State) : State :=
  let fresh := !dataWaits s a b
  modCulv (fun x => { x with
    dataFlits := Tab.upd 0 x.dataFlits (4 * a + b) (fun n => (if fresh then 0 else n) + ceilDiv len 96)
    ctlFlits := if fresh then Tab.set 0 x.ctlFlits (4 * a + b) 0 else x.ctlFlits }) s

/-! ### Entries -/

def FdbEntry.key (e : FdbEntry) : Nat := fdbKey e.fid e.mac
def StreamEntry.key (e : StreamEntry) : Nat := streamKey e.kind e.vid e.mac

def homeFdb (s : State) (i : Nat) : FdbEntry := Tab.get FdbEntry.reset s.tables.fdb i
def homeStream (s : State) (i : Nat) : StreamEntry := Tab.get StreamEntry.reset s.tables.stream i

/-- The index of a key among a table's valid entries: a key is present at most once (R179). -/
def findFdb (s : State) (key : Nat) : Option Nat :=
  (s.tables.fdb.find? (fun e => e.2.valid && decide (e.2.key = key))).map (·.1)
def findStream (s : State) (key : Nat) : Option Nat :=
  (s.tables.stream.find? (fun e => e.2.valid && decide (e.2.key = key))).map (·.1)

/-- The entry of a key as a die's replica holds it, with its index. -/
def repFind (s : State) (die key : Nat) : Option (Nat × FdbEntry) :=
  (s.tables.repFdb.find? (fun e => decide (e.1 / fdbSize = die) && e.2.valid && decide (e.2.key = key))).map
    (fun e => (e.1 % fdbSize, e.2))
def repFindStream (s : State) (die key : Nat) : Option StreamEntry :=
  (s.tables.repStream.find? (fun e =>
    decide (e.1 / streamSize = die) && e.2.valid && decide (e.2.key = key))).map (·.2)

/-- Is an index of a table in use? -/
def tblValid (s : State) (table i : Nat) : Bool :=
  if table = 0 then (homeFdb s i).valid else (homeStream s i).valid

/-- Are the four ways of a key's bucket in use? -/
def bucketFull (s : State) (table bucket : Nat) : Bool :=
  [0, 1, 2, 3].all (fun w => tblValid s table (4 * bucket + w))

/-- Overflow entries in use. -/
def overflowUsed (s : State) (table : Nat) : Nat :=
  let base := 4 * tblBuckets table
  if table = 0 then (s.tables.fdb.filter (fun e => decide (base ≤ e.1) && e.2.valid)).length
  else (s.tables.stream.filter (fun e => decide (base ≤ e.1) && e.2.valid)).length

/-- The slot a new key takes: the first invalid way, else the first invalid overflow entry (R189). -/
def freeSlot (s : State) (table key : Nat) : Option Nat :=
  let b := bucketOf s table key
  match [0, 1, 2, 3].find? (fun w => !tblValid s table (4 * b + w)) with
  | some w => some (4 * b + w)
  | none =>
    let base := 4 * tblBuckets table
    ((List.range (tblSize table - base)).find? (fun i => !tblValid s table (base + i))).map (· + base)

/-- An entry's 128 bits (Tables 5.1, 5.2). -/
def FdbEntry.bits (e : FdbEntry) : Nat :=
  e.mac + e.fid * 2 ^ 48 + e.dest * 2 ^ 64 + boolNat e.valid * 2 ^ 80 + boolNat e.static * 2 ^ 81
  + boolNat e.hit * 2 ^ 82 + e.age * 2 ^ 83 + boolNat e.moveHold * 2 ^ 86 + boolNat e.recent * 2 ^ 87
  + e.stamp * 2 ^ 88

def StreamEntry.bits (e : StreamEntry) : Nat :=
  e.mac + e.vid * 2 ^ 48 + e.kind * 2 ^ 60 + e.handle * 2 ^ 64 + boolNat e.valid * 2 ^ 80

/-! ### Replica writes (spec 05 R190, R204) -/

/-- The fields of an entry that a replica holds (R182). -/
def FdbEntry.replica (e : FdbEntry) : FdbEntry :=
  { e with hit := false, age := 0, moveHold := false, recent := false, stamp := 0 }

/-- How long a key stays in a learn filter (R187): 10 µs. -/
def filterTime : Nat := 10000000000

/-- The keys in a die's learn filter. -/
def filterKeys (s : State) (die : Nat) : List (Nat × Nat) :=
  (Tab.get [] s.tables.filter die).filter (fun e => decide (s.clock < e.2 + filterTime))

/-- A key leaves a die's learn filter. -/
def filterDrop (die key : Nat) (s : State) : State :=
  modTables (fun x => { x with
    filter := Tab.set [] x.filter die ((Tab.get [] x.filter die).filter (fun e => decide (e.1 ≠ key))) }) s

/-! ### The scan of a SEARCH (spec 05 R203) -/

/-- Places a scan or a sweep of a table visits, one a clock: its buckets, then its overflow entries. -/
def tblPlaces (table : Nat) : Nat := tblBuckets table + (tblSize table - 4 * tblBuckets table)
def placeOf (table i : Nat) : Nat :=
  if i < 4 * tblBuckets table then i / 4 else tblBuckets table + (i - 4 * tblBuckets table)

/-- Places visited at one a clock of 1.28 GHz between two instants. -/
def placesIn (since now : Nat) : Nat := ceilDiv (now - since) 781250

/-- The valid entries of a table: index and bits. -/
def tblEntries (s : State) (table : Nat) : List (Nat × Nat) :=
  if table = 0 then (s.tables.fdb.filter (·.2.valid)).map (fun e => (e.1, e.2.bits))
  else (s.tables.stream.filter (·.2.valid)).map (fun e => (e.1, e.2.bits))

/-- What a scan finds among the places from the one it is at up to `upTo`: the lowest index. -/
def scanHit (s : State) (c : TblScan) (upTo : Nat) : Option (Nat × Nat) :=
  (tblEntries s c.table).find? (fun e => decide (c.from_ ≤ e.1 ∧ c.place ≤ placeOf c.table e.1 ∧ placeOf c.table e.1 < upTo)
    && decide (e.2 &&& c.mask = c.want))

/-- The scan goes on to the present clock; it ends at the first entry that fits, or at the table's end. -/
def scanRun (s : State) : State :=
  match s.tables.busy with
  | none => s
  | some b =>
    match b.scan with
    | none => s
    | some c =>
      let upTo := min (tblPlaces c.table) (placeOf c.table c.from_ + placesIn c.since s.clock)
      let b1 : TblBusy := match scanHit s c upTo with
        | some e => { b with result := 0, index := some e.1, entry := some e.2, scan := none }
        | none => if upTo = tblPlaces c.table then { b with result := 1, scan := none }
          else { b with scan := some { c with place := max c.place upTo } }
      modTables (fun x => { x with busy := some b1 }) s

/-- A replica write lands on its die. -/
def applyRep (w : RepWrite) (s : State) : State :=
  if w.table = 0 then
    let i := w.dst * fdbSize + w.index
    let s1 := modTables (fun x => { x with
      repFdb := if w.flagOnly then x.repFdb else Tab.set FdbEntry.reset x.repFdb i w.fdb
      localHit := if w.flagOnly then Tab.set false x.localHit i false else x.localHit }) s
    if w.flagOnly then s1 else filterDrop w.dst w.key s1
  else
    modTables (fun x => { x with
      repStream := Tab.set StreamEntry.reset x.repStream (w.dst * streamSize + w.index) w.stream }) s

/-- A write of home die `src` on its way to the other replicas: its own takes it at once; one behind
a Culvert that is down waits in a hold of 1,024, and then the far replica is stale (R204). -/
def replicate (w : RepWrite) (s : State) : State :=
  forEach [0, 1, 2, 3] (fun d st =>
    let x := { w with dst := d }
    if d = w.src then applyRep x st
    else if st.tables.stale.contains (w.src * 4 + d) || !dieServes st d then st
    else if !meshOpen st w.src d
        && decide (1024 ≤ (st.tables.repQ.filter (fun y => decide (y.src = w.src ∧ y.dst = d))).length) then
      raiseDie d 5 (modTables (fun y => { y with
        stale := y.stale ++ [w.src * 4 + d]
        repQ := y.repQ.filter (fun z => !(decide (z.src = w.src ∧ z.dst = d))) }) st)
    else modTables (fun y => { y with repQ := y.repQ ++ [x] }) st) s

/-- A change of the fields that only the home copy holds; a scan sees the entry as it was up to now. -/
def putHome (i : Nat) (e : FdbEntry) (s : State) : State :=
  modTables (fun x => { x with fdb := Tab.set FdbEntry.reset x.fdb i e }) (scanRun s)

/-- The home copy of an FDB entry changes for a key, and every replica with it. -/
def putFdb (home i key : Nat) (e : FdbEntry) (s : State) : State :=
  replicate { src := home, dst := 0, table := 0, index := i, fdb := e.replica, stream := StreamEntry.reset
              flagOnly := false, key := key } (putHome i e s)

def putStream (home i key : Nat) (e : StreamEntry) (s : State) : State :=
  replicate { src := home, dst := 0, table := 1, index := i, fdb := FdbEntry.reset, stream := e
              flagOnly := false, key := key }
    (modTables (fun x => { x with stream := Tab.set StreamEntry.reset x.stream i e }) (scanRun s))

/-- An FDB entry is deleted: the delete carries its key to the learn filters. -/
def dropFdb (i : Nat) (s : State) : State :=
  let k := (homeFdb s i).key
  putFdb (homeOf s k) i k FdbEntry.reset s

def dropStream (i : Nat) (s : State) : State :=
  let k := (homeStream s i).key
  putStream (homeOf s k) i k StreamEntry.reset s

/-- REPLICA_WRITE (R190): the oldest write of one home die to one replica lands. -/
def replicaWrite (src dst : Nat) (s : State) : State :=
  if !meshOpen s src dst || !ctlRoom s src dst then s
  else match s.tables.repQ.find? (fun w => decide (w.src = src ∧ w.dst = dst)) with
  | none => s
  | some w => applyRep w (ctlCross src dst (modTables (fun x => { x with repQ := x.repQ.erase w }) s))

def execReplicaWrite (src dst : Nat) (s : State) : Host.Outcome State Fault Refusal :=
  .next (replicaWrite src dst s)

/-- A replica becomes a copy of the home dies' entries (R204, R205). -/
def copyReplica (die : Nat) (s : State) : State :=
  modTables (fun x => { x with
    repFdb := x.fdb.foldl (fun m e => Tab.set FdbEntry.reset m (die * fdbSize + e.1) e.2.replica)
      (x.repFdb.filter (fun e => decide (e.1 / fdbSize ≠ die)))
    repStream := x.stream.foldl (fun m e => Tab.set StreamEntry.reset m (die * streamSize + e.1) e.2)
      (x.repStream.filter (fun e => decide (e.1 / streamSize ≠ die)))
    localHit := x.localHit.filter (fun e => decide (e.1 / fdbSize ≠ die))
    repQ := x.repQ.filter (fun w => decide (w.dst ≠ die)) }) s

/-- REPLICA_RESYNC_DONE (R204). -/
def execReplicaResyncDone (die : Nat) (s : State) : Host.Outcome State Fault Refusal :=
  .next (if s.tables.resync.contains die then
    copyReplica die (modTables (fun x => { x with
      resync := x.resync.filter (fun d => decide (d ≠ die))
      stale := x.stale.filter (fun p => decide (p % 4 ≠ die)) }) s)
  else s)

/-! ### Learning (spec 05 R186 to R192) -/

/-- The learn clock: µs since the start, 40 bits (R189). -/
def learnClock (s : State) : Nat := (s.clock - s.tables.learnZero) / 1000000000 % 2 ^ 40

def sinceStamp (s : State) (e : FdbEntry) : Nat := (learnClock s + 2 ^ 40 - e.stamp) % 2 ^ 40

/-- A learn request is sent to its home die (R187, R188). -/
def sendLearn (die : Nat) (q : LearnReq) (s : State) : State :=
  let key := fdbKey q.fid q.mac
  let fl := filterKeys s die
  if fl.any (fun e => decide (e.1 = key)) then s
  else
    let s1 := if fl.length < 1024 then
        modTables (fun x => { x with filter := Tab.set [] x.filter die (fl ++ [(key, s.clock)]) }) s
      else s
    let home := homeOf s key
    let lq := Tab.get [] s.tables.learnQ home
    if !meshOpen s die home || decide (256 ≤ lq.length) then count 0x2904 5 s1
    else modTables (fun x => { x with learnQ := Tab.set [] x.learnQ home (lq ++ [q]) }) s1

/-- A source hit at an ingress die (R191). -/
def sourceHit (die i : Nat) (e : FdbEntry) (s : State) : State :=
  let k := die * fdbSize + i
  if Tab.get false s.tables.localHit k then s
  else
    let s1 := modTables (fun x => { x with localHit := Tab.set false x.localHit k true }) s
    let home := homeOf s e.key
    if meshOpen s die home then modTables (fun x => { x with hits := x.hits ++ [(home, i, e.key, die)] }) s1
    else count 0x2904 5 s1

/-- HIT_NOTICE (R191, R196). -/
def hitNotice (die : Nat) (s : State) : State :=
  match s.tables.hits.find? (fun h => decide (h.1 = die) && ctlRoom s h.2.2.2 die) with
  | none => s
  | some h =>
    let s1 := ctlCross h.2.2.2 die (modTables (fun x => { x with hits := x.hits.erase h }) s)
    let e := homeFdb s1 h.2.1
    if e.valid ∧ e.key = h.2.2.1 then putHome h.2.1 { e with hit := true, age := 0 } s1 else s1

def execHitNotice (die : Nat) (s : State) : Host.Outcome State Fault Refusal :=
  .next (hitNotice die s)

/-! ### Flush sweeps (spec 05 R199) -/

/-- The sweep of a die goes on to the present clock, one place a clock, and deletes at each place it visits the
dynamic entries of the die's own keys with a destination in its set (log entry 34). -/
def sweepRun (die : Nat) (s : State) : State :=
  let set := Tab.get [] s.tables.sweep die
  if set = [] then s
  else
    let w := Tab.get (0, 0) s.tables.sweepAt die
    let upTo := min (tblPlaces 0) (placesIn w.1 s.clock)
    let goes := (s.tables.fdb.filter (fun e => e.2.valid && !e.2.static && set.contains e.2.dest
      && decide (w.2 ≤ placeOf 0 e.1 ∧ placeOf 0 e.1 < upTo) && decide (homeOf s e.2.key = die))).map (·.1)
    forEach goes dropFdb (modTables (fun x => { x with
      sweepAt := Tab.set (0, 0) x.sweepAt die (w.1, max w.2 upTo) }) s)

/-- Every sweep goes on to the present clock. -/
def sweepAll (s : State) : State := forEach [0, 1, 2, 3] sweepRun s

/-- A learn request is carried out on its home die (R189). -/
def learnOne (die : Nat) (q : LearnReq) (s : State) : State :=
  let key := fdbKey q.fid q.mac
  let now := learnClock s
  match findFdb s key with
  | none =>
    match freeSlot s 0 key with
    | none => raise 225 (count 0x2904 6 s)
    | some i =>
      count 0x2904 1 (putFdb die i key
        { mac := q.mac, fid := q.fid, dest := q.port, valid := true, static := false, hit := true, age := 0
          moveHold := false, recent := true, stamp := now } s)
  | some i =>
    let e := homeFdb s i
    if e.static then s
    else if e.dest = q.port then putHome i { e with hit := true, age := 0 } s
    else if e.recent && decide (sinceStamp s e < cfgN s 0x2900 2) then
      count 0x2904 3 (putHome i { e with moveHold := true } s)
    else
      count 0x2904 2 (putFdb die i key { e with
        dest := q.port, stamp := now, recent := true, moveHold := false, hit := true, age := 0 } s)

/-- LEARN (R189); a sweep of the die has come as far as the clock before (R197). -/
def learn (die : Nat) (s : State) : State :=
  match Tab.get [] s.tables.learnQ die with
  | [] => s
  | q :: rest =>
    if !ctlRoom s (dieOf q.port) die then s
    else
    let s := ctlCross (dieOf q.port) die (modTables (fun x => { x with learnQ := Tab.set [] x.learnQ die rest }) s)
    learnOne die q (sweepRun die s)

def execLearn (t die : Nat) (s : State) : Host.Outcome State Fault Refusal :=
  .next (learn die (advance t s))

/-- LEARN_FILTER_EXPIRY (R187): the key entered 10 µs ago or earlier. -/
def learnFilterExpiry (die key : Nat) (s : State) : State :=
  if (filterKeys s die).any (fun e => decide (e.1 = key)) then s else filterDrop die key s

def execLearnFilterExpiry (t : Nat) (w : FilterEntry) (s : State) : Host.Outcome State Fault Refusal :=
  .next (learnFilterExpiry w.die w.key (advance t s))

/-! ### Aging and flushes (spec 05 R193, R199) -/

/-- AGER_VISIT (R192, R193) of one entry. -/
def agerVisit (i : Nat) (s : State) : State :=
  let e := homeFdb s i
  if !e.valid then s
  else
    let home := homeOf s e.key
    let s1 := replicate { src := home, dst := 0, table := 0, index := i, fdb := FdbEntry.reset
                          stream := StreamEntry.reset, flagOnly := true, key := e.key } s
    let e1 := { e with
      hit := false
      recent := e.recent && decide (sinceStamp s e < cfgN s 0x2900 2)
      age := if e.static then e.age else e.age + 1 }
    if !e.static && decide (7 ≤ e1.age) then count 0x2904 9 (dropFdb i s1) else putHome i e1 s1

/-- A visit of the ager falls due AgeTime ÷ 7 after the one before it; a change of AgeTime counts from the next
visit (R193). -/
def agerComes (t i : Nat) (s : State) : State :=
  if t < Tab.get 0 s.tables.agerDue i then s
  else agerVisit i (sweepAll (modTables (fun x => { x with
    agerDue := Tab.set 0 x.agerDue i (t + cfgN s 0x2900 1 * 10 ^ 15 / 7) }) s))

def execAgerVisit (t index : Nat) (s : State) : Host.Outcome State Fault Refusal :=
  .next (agerComes t index (advance t s))

/-- FLUSH_SWEEP (R199): a sweep starts with the flagged ports; one that runs goes on to the present clock. -/
def flushSweep (die : Nat) (s : State) : State :=
  let set := Tab.get [] s.tables.flush die
  if Tab.get [] s.tables.sweep die ≠ [] ∨ set = [] then sweepRun die s
  else modTables (fun x => { x with
    flush := Tab.set [] x.flush die [], sweep := Tab.set [] x.sweep die set
    sweepAt := Tab.set (0, 0) x.sweepAt die (s.clock, 0) }) s

def execFlushSweep (w : DieAt) (s : State) : Host.Outcome State Fault Refusal :=
  .next (flushSweep w.die (advance w.t s))

/-- FLUSH_SWEEP_END (R199): the sweep has visited every place. -/
def flushSweepEnd (die : Nat) (s : State) : State :=
  let s1 := sweepRun die s
  if tblPlaces 0 ≤ (Tab.get (0, 0) s1.tables.sweepAt die).2 then
    modTables (fun x => { x with
      sweep := Tab.set [] x.sweep die [], sweepAt := Tab.set (0, 0) x.sweepAt die (0, 0) }) s1
  else s1

def execFlushSweepEnd (w : DieAt) (s : State) : Host.Outcome State Fault Refusal :=
  .next (flushSweepEnd w.die (advance w.t s))

/-! ### Table commands (spec 05 R200 to R203) -/

/-- TBL_DATA0–3 as an entry, TBL_DATA4–7 as a mask. -/
def tblData (s : State) (k : Nat) : Nat :=
  ((List.range 4).map (fun i => (Tab.get 0#32 s.tables.data (k + i)).toNat * 2 ^ (32 * i))).sum

def tblBits (s : State) (table i : Nat) : Nat :=
  if table = 0 then (homeFdb s i).bits else (homeStream s i).bits

/-- The key the operand names, or none where a field of it is out of range (Table 5.2). -/
def operandKey (table d : Nat) : Option Nat :=
  let hi := bitsOf d 59 48
  if table = 0 then some (fdbKey hi (bitsOf d 47 0))
  else if hi = 0 ∨ hi = 4095 then none
  else some (streamKey (bitsOf d 60 60) hi (bitsOf d 47 0))

def tblFind (s : State) (table key : Nat) : Option Nat :=
  if table = 0 then findFdb s key else findStream s key

def tblDrop (table i : Nat) (s : State) : State :=
  if !tblValid s table i then s else if table = 0 then dropFdb i s else dropStream i s

/-- The entry a WRITE makes of its operand (Table 5.4). -/
def tblPut (table i key d : Nat) (s : State) : State :=
  if table = 0 then
    putFdb (homeOf s key) i key
      { mac := bitsOf d 47 0, fid := bitsOf d 59 48, dest := bitsOf d 75 64, valid := true
        static := d.testBit 81, hit := false, age := 0, moveHold := false, recent := false
        stamp := learnClock s } s
  else
    putStream (homeOf s key) i key
      { mac := bitsOf d 47 0, vid := bitsOf d 59 48, kind := bitsOf d 60 60, handle := bitsOf d 77 64
        valid := true } s

/-- What a command answers: RESULT, INDEX, entry. -/
abbrev TblAnswer := Nat × Option Nat × Option Nat

def rOK : Nat := 0
def rNOT_FOUND : Nat := 1
def rFULL : Nat := 2
def rINVALID : Nat := 3

def tblInvalid (s : State) : TblAnswer × State := ((rINVALID, none, none), s)

/-- The index a READ or DELETE addresses. -/
def tblAddress (s : State) (table : Nat) (byIndex : Bool) (index : Nat) : Except Nat Nat :=
  if byIndex then (if tblSize table ≤ index then .error rINVALID else .ok index)
  else match operandKey table (tblData s 0) with
  | none => .error rINVALID
  | some k => match tblFind s table k with
    | none => .error rNOT_FOUND
    | some i => .ok i

def tblReadCmd (table : Nat) (byIndex : Bool) (index : Nat) (s : State) : TblAnswer × State :=
  match tblAddress s table byIndex index with
  | .error r => ((r, none, none), s)
  | .ok i => ((rOK, some i, some (tblBits s table i)), s)

def tblDeleteCmd (table : Nat) (byIndex : Bool) (index : Nat) (s : State) : TblAnswer × State :=
  match tblAddress s table byIndex index with
  | .error r => ((r, none, none), s)
  | .ok i => ((rOK, some i, none), tblDrop table i s)

/-- WRITE with the valid bit set. -/
def tblWriteCmd (table : Nat) (byIndex : Bool) (index : Nat) (s : State) : TblAnswer × State :=
  let d := tblData s 0
  if !d.testBit 80 then tblDeleteCmd table byIndex index s
  else match operandKey table d with
  | none => tblInvalid s
  | some key =>
    let cur := tblFind s table key
    let b := bucketOf s table key
    if byIndex then
      let base := 4 * tblBuckets table
      if tblSize table ≤ index || decide (cur.isSome ∧ cur ≠ some index)
          || (decide (index < base) && decide (index / 4 ≠ b))
          || (decide (base ≤ index) && !bucketFull s table b) then tblInvalid s
      else ((rOK, some index, none), tblPut table index key d s)
    else match cur with
    | some i => ((rOK, some i, none), tblPut table i key d s)
    | none => match freeSlot s table key with
      | some i => ((rOK, some i, none), tblPut table i key d s)
      | none => ((rFULL, none, none),
          if table = 0 then raise 225 (count 0x2904 6 s) else raise 226 (count 0x2904 7 s))

/-- SEARCH starts its scan at INDEX (R203). -/
def tblSearchCmd (table index : Nat) (s : State) : TblAnswer × State :=
  if tblSize table ≤ index then tblInvalid s else ((rOK, none, none), s)

/-- The scan that a SEARCH starts. -/
def tblScanOf (op table index : Nat) (s : State) : Option TblScan :=
  if op = 4 ∧ table ≤ 1 ∧ index < tblSize table then
    some { table := table, from_ := index, mask := tblData s 4, want := tblData s 0 &&& tblData s 4
           since := s.clock, place := placeOf table index }
  else none

def flushCmd (index : Nat) (s : State) : TblAnswer × State :=
  if 511 < index then tblInvalid s else ((rOK, none, none), flagFlush index s)

def ageNowCmd (s : State) : TblAnswer × State :=
  ((rOK, none, none), forEach (s.tables.fdb.map (·.1)) agerVisit s)

/-- A write of TBL_CMD (R201): ignored and counted while BUSY, else accepted with its operands; an OP
or TABLE that is not listed gives INVALID. -/
def tblCommand (op table : Nat) (byIndex : Bool) (index : Nat) (run : State → TblAnswer × State) (s : State) :
    State :=
  if !barOpen s 0 then barMissed 0 s
  else if s.tables.busy.isSome then modTables (fun x => { x with ignCnt := satAdd32 x.ignCnt 1 }) s
  else
    let fdbOnly := decide (op = 5 ∨ op = 6)
    let r := if op = 0 ∨ 6 < op ∨ 1 < table ∨ (table = 1 ∧ fdbOnly) then tblInvalid s else run (sweepAll s)
    modTables (fun x => { x with
      cmd := op % 16 + table % 4 * 16 + boolNat byIndex * 64 + index % 2 ^ 24 * 256
      busy := some { op := op, result := r.1.1, index := r.1.2.1, entry := r.1.2.2
                     scan := tblScanOf op table index s } }) r.2

/-- What command OP does (Table 5.4). -/
def tblRun (op table : Nat) (byIndex : Bool) (index : Nat) : State → TblAnswer × State :=
  if op = 1 then tblReadCmd table byIndex index
  else if op = 2 then tblWriteCmd table byIndex index
  else if op = 3 then tblDeleteCmd table byIndex index
  else if op = 4 then tblSearchCmd table index
  else if op = 5 then flushCmd index
  else if op = 6 then ageNowCmd
  else tblInvalid

def execTblRead (t table : Nat) (byIndex : Bool) (index : Nat) (s : State) : Host.Outcome State Fault Refusal :=
  .next (tblCommand 1 table byIndex index (tblRun 1 table byIndex index) (advance t s))
def execTblWrite (t table : Nat) (byIndex : Bool) (index : Nat) (s : State) : Host.Outcome State Fault Refusal :=
  .next (tblCommand 2 table byIndex index (tblRun 2 table byIndex index) (advance t s))
def execTblDelete (t table : Nat) (byIndex : Bool) (index : Nat) (s : State) : Host.Outcome State Fault Refusal :=
  .next (tblCommand 3 table byIndex index (tblRun 3 table byIndex index) (advance t s))
def execTblSearch (t table : Nat) (byIndex : Bool) (index : Nat) (s : State) : Host.Outcome State Fault Refusal :=
  .next (tblCommand 4 table byIndex index (tblRun 4 table byIndex index) (advance t s))
def execFlushByDest (t table : Nat) (byIndex : Bool) (index : Nat) (s : State) : Host.Outcome State Fault Refusal :=
  .next (tblCommand 5 table byIndex index (tblRun 5 table byIndex index) (advance t s))
def execAgeNow (t table : Nat) (byIndex : Bool) (index : Nat) (s : State) : Host.Outcome State Fault Refusal :=
  .next (tblCommand 6 table byIndex index (tblRun 6 table byIndex index) (advance t s))

/-- Has the command's result reached every replica (R203)? -/
def tblSettled (s : State) (b : TblBusy) : Bool :=
  if b.scan.isSome then false
  else if b.result ≠ rOK then true
  else if b.op = 2 ∨ b.op = 3 then s.tables.repQ.all (fun w => decide (some w.index ≠ b.index) || w.flagOnly)
  else if b.op = 5 then
    s.tables.repQ.isEmpty && [0, 1, 2, 3].all (fun d =>
      decide (Tab.get [] s.tables.flush d = []) && decide (Tab.get [] s.tables.sweep d = []))
  else if b.op = 6 then s.tables.repQ.isEmpty
  else true

/-- TBL_COMMAND_COMPLETE (R202, R203). -/
def tblComplete (s0 : State) : State :=
  let s := scanRun s0
  match s.tables.busy with
  | none => s
  | some b =>
    if !tblSettled s b then s
    else modTables (fun x => { x with
      busy := none
      stat := b.result * 16 + (b.index.getD (x.stat / 256)) * 256
      data := match b.entry with
        | none => x.data
        | some e => (List.range 4).foldl (fun m i =>
            Tab.set 0#32 m i (BitVec.ofNat 32 (e / 2 ^ (32 * i)))) x.data }) s

def execTblCommandComplete (t : Nat) (s : State) : Host.Outcome State Fault Refusal :=
  .next (tblComplete (advance t s))

/-! ### VLANs and groups (spec 05 R176 to R178, Table 5.7), TableClear (R206) -/

/-- A member bit of a port with PortMode 0 (Table 5.7). -/
def badMembers (s : State) (b : Bytes) : Bool := portsAll.any (fun p => mapBit b p && !portExists s p)

def vlanAt (s : State) (vid : Nat) : Vlan := Tab.get Vlan.reset s.tables.vlans vid
def groupAt (s : State) (g : Nat) : Bytes := Tab.get (zeros 64) s.tables.groups g

/-- VLAN_WRITE. -/
def execVlanWrite (r : Rq) (s : State) : Host.Outcome State Fault Refusal :=
  .next (serveAction (at0 0x2910 0)
    (fun q s =>
      let d := q.msg.data
      let vid := beField d 0 2
      abortIf (decide (vid = 0) || decide (4094 < vid) || decide (4095 < beField d 2 2)
        || decide (3 < byteAt d 4) || decide (byteAt d 5 ≠ 0) || badMembers s (slice d 6 64)) aRANGE)
    (fun q s =>
      let d := q.msg.data
      let vid := beField d 0 2
      let v : Vlan :=
        { valid := (byteAt d 4).testBit 0, learn := (byteAt d 4).testBit 1, fid := beField d 2 2
          members := slice d 6 64, untagged := slice d 70 64 }
      (dikeLogFields q.origin 2 vid (modTables (fun x => { x with
        vlans := Tab.set Vlan.reset x.vlans vid v }) s), .done)) r s)

/-- VLAN_READ. -/
def execVlanRead (r : Rq) (s : State) : Host.Outcome State Fault Refusal :=
  .next (serveAction (at0 0x2911 0)
    (fun q _ => abortIf (decide (beNat q.msg.data = 0) || decide (4094 < beNat q.msg.data)) aRANGE)
    (fun q s =>
      let v := vlanAt s (beNat q.msg.data)
      (s, .ok 0 0 9 (beBytes 2 (beNat q.msg.data) ++ beBytes 2 v.fid
        ++ [byteOf (boolNat v.valid + 2 * boolNat v.learn), 0] ++ v.members ++ v.untagged))) r s)

def badGroup (g : Nat) : Bool := decide (g < 512) || decide (4095 < g)

/-- GROUP_WRITE. -/
def execGroupWrite (r : Rq) (s : State) : Host.Outcome State Fault Refusal :=
  .next (serveAction (at0 0x2912 0)
    (fun q s => abortIf (badGroup (beField q.msg.data 0 2) || badMembers s (slice q.msg.data 2 64)) aRANGE)
    (fun q s => (dikeLogFields q.origin 2 (beField q.msg.data 0 2) (modTables (fun x => { x with
      groups := Tab.set (zeros 64) x.groups (beField q.msg.data 0 2) (slice q.msg.data 2 64) }) s), .done)) r s)

/-- GROUP_READ. -/
def execGroupRead (r : Rq) (s : State) : Host.Outcome State Fault Refusal :=
  .next (serveAction (at0 0x2913 0) (fun q _ => abortIf (badGroup (beNat q.msg.data)) aRANGE)
    (fun q s => (s, .ok 0 0 9 (beBytes 2 (beNat q.msg.data) ++ groupAt s (beNat q.msg.data)))) r s)

/-- Every entry of a table is deleted on all dies (R206). -/
def clearTable (table : Nat) (s0 : State) : State :=
  let s := scanRun s0
  modTables (fun x => if table = 0 then
      { x with fdb := [], repFdb := [], localHit := [], repQ := x.repQ.filter (fun w => decide (w.table ≠ 0)) }
    else { x with stream := [], repStream := [], repQ := x.repQ.filter (fun w => decide (w.table = 0)) }) s

/-- TABLE_CLEAR (R206). -/
def execTableClear (r : Rq) (s : State) : Host.Outcome State Fault Refusal :=
  .next (serveAction (at0 0x2900 6) (fun q _ => abortIf (1 < beNat q.msg.data) aRANGE)
    (fun q s => (dikeLogFields q.origin 2 (beNat q.msg.data) (clearTable (beNat q.msg.data) s), .done)) r s)

end Sys2Proof.Machine
end

