-- ==== Sys2Proof/Machine/Transit.lean ====
section
/-! DEFINITION. Copies of frames on their way to a die: crossing queues and Culverts (spec 01 R24 to
R26), host queue groups (spec 10 R348, R349), and what the Culverts report. -/

namespace Sys2Proof.Machine

/-- A frame record with nothing known. -/
def Meta.blank : Meta where
  inPort := 0xFFFF
  stamp := 0
  hash := 0
  cls := 0
  rxFlags := 0
  reason := 0
  vid := 0
  tc := 0
  yellow := false
  stream := none
  seqNo := none
  group := 0
  src := .firmware
  edit := false
  ptpOther := false
  frame := 0

/-! ### Crossing (spec 01 R25, R26) -/

/-- The number of the half Culvert between a field die and the HD, and of those to the MDs. -/
def hdCulvert (fd : Nat) : Nat := 6 + fd
def mdCulvert (fd md : Nat) : Nat := 10 + 2 * fd + md

/-- A discard at the crossing from one field die to another (spec 16 Table 16.9). -/
def crossDiscard (a b : Nat) (s : State) : State :=
  raiseDie a 4 (countEv (0x720 + 3 * a + (if a < b then b - 1 else b)) 1 none none none s)

/-- Bytes of bulk frames from one die to another. -/
def crossingUse (s : State) (a b : Nat) : Nat :=
  ((s.buf.transit.filter (fun p => p.bulk && decide (p.src = a ∧ p.dst = b))).map (fun p => p.bytes.length + 4)).sum

/-- A parcel is lost on its way (for a transmit frame, its entry ends: spec 11 R370). -/
def loseParcel (p : Parcel) (s : State) : State := if p.ports = [] then s else txLost p.info.src s

/-- A parcel leaves its die. Field dies are 0 to 3 and the HD is 4; frames the HD sends are never
discarded for want of room. -/
def launch (p : Parcel) (s : State) : State :=
  let add := fun st =>
    let k := ticket st
    modBuf (fun b => { b with transit := b.transit ++ [{ p with ticket := k.1 }] }) k.2
  if p.src = p.dst then add s
  else if p.src = 4 then (if culvDown s (hdCulvert p.dst) then loseParcel p s else add s)
  else if !meshOpen s p.src p.dst then loseParcel p (crossDiscard p.src p.dst s)
  else if p.bulk && decide (262144 < crossingUse s p.src p.dst + p.bytes.length + 4) then
    loseParcel p (crossDiscard p.src p.dst s)
  else add (dataLaunch p.src p.dst (p.bytes.length + 4) s)

/-- Must parcel `q`, launched before `p`, arrive before it? At one Culvert an express frame goes before every
bulk frame that waits (R22), and the frames of one transmit queue for a port and traffic class, and the
packets of one Siphon channel, keep their order (spec 11 R370, 13 R440). -/
def arrivesFirst (q p : Parcel) : Bool :=
  decide (q.src = p.src ∧ q.dst = p.dst) &&
  ((decide (p.src ≠ p.dst) && !q.bulk && p.bulk) ||
    (match q.info.src, p.info.src with
      | .hostTx f1 q1 _, .hostTx f2 q2 _ => decide (f1 = f2 ∧ q1 = q2 ∧ q.ports = p.ports)
      | .siphon c1 _, .siphon c2 _ => decide (c1 = c2 ∧ q.ports = p.ports)
      | _, _ => false))

/-- Nothing on the way must arrive before this parcel. -/
def isNext (s : State) (p : Parcel) : Bool :=
  (s.buf.transit.filter (fun q => decide (q.ticket < p.ticket))).all (fun q => !arrivesFirst q p)

def launchAll (l : List Parcel) (s : State) : State := forEach l launch s

/-! ### Culvert flits (spec 01 R26, spec 16 Table 16.9) -/

/-- FLIT_RECEIVE: a flit with an error is replayed; the 17th failure in a row is CULVERT_DOWN's. -/
def flitReceive (c : Nat) (ok : Bool) (s : State) : State :=
  if culvDown s c then s
  else if ok then modCulv (fun x => { x with fails := Tab.set 0 x.fails c 0 }) s
  else if Tab.get 0 s.culv.fails c < 16 then
    countEv (0x700 + c) 1 none none none (modCulv (fun x => { x with
      fails := Tab.upd 0 x.fails c (· + 1), replays := Tab.upd 0 x.replays c (· + 1) }) s)
  else modCulv (fun x => { x with fails := Tab.set 0 x.fails c 17 }) s

def execFlitReceive (c : Nat) (ok : Bool) (s : State) : Host.Outcome State Fault Refusal :=
  .next (if c < 20 then flitReceive c ok s else s)

/-- The dies a mesh Culvert joins. -/
def meshEnds (c : Nat) : Nat × Nat :=
  match c with
  | 0 => (0, 1)
  | 1 => (0, 2)
  | 2 => (0, 3)
  | 3 => (1, 2)
  | 4 => (1, 3)
  | _ => (2, 3)

/-- Frames on a Culvert that goes down are lost; at a mesh Culvert each is counted (R26). -/
def loseTransit (c : Nat) (s : State) : State :=
  let on := fun (p : Parcel) =>
    if c < 6 then decide (p.src ≠ p.dst) && decide (p.src < 4) && decide (meshCulvert p.src p.dst = c)
    else decide (p.src = 4) && decide (hdCulvert p.dst = c)
  let lost := s.buf.transit.filter on
  let s1 := modBuf (fun b => { b with transit := b.transit.filter (fun p => !on p) }) s
  forEach lost (fun p st => loseParcel p (if c < 6 then crossDiscard p.src p.dst st else st)) s1

/-- CULVERT_DOWN (R26): after 16 replays of one flit have failed. -/
def culvertDown (c : Nat) (s : State) : State :=
  if culvDown s c ∨ Tab.get 0 s.culv.fails c < 16 then s
  else
    raise (32 + c) (loseTransit c (modCulv (fun x => { x with
      down := Tab.set false x.down c true, fails := Tab.set 0 x.fails c 0 }) s))

def execCulvertDown (t c : Nat) (s : State) : Host.Outcome State Fault Refusal :=
  .next (if c < 20 then culvertDown c (advance t s) else advance t s)

/-- CULVERT_RETRAIN (R26, spec 05 R204): a stale far replica is now copied in full. -/
def culvertRetrain (c : Nat) (up : Bool) (s : State) : State :=
  if !culvDown s c || !up then s
  else
    let s1 := raise (64 + c) (modCulv (fun x => { x with down := Tab.set false x.down c false }) s)
    if 6 ≤ c then s1
    else
      let e := meshEnds c
      let back := s1.tables.stale.filter (fun p =>
        decide (p = e.1 * 4 + e.2) || decide (p = e.2 * 4 + e.1))
      modTables (fun x => { x with resync := (x.resync ++ back.map (· % 4)).dedup }) s1

def execCulvertRetrain (t c : Nat) (up : Bool) (s : State) : Host.Outcome State Fault Refusal :=
  .next (if c < 20 then culvertRetrain c up (advance t s) else advance t s)

/-! ### Host queue groups (spec 10 R348, R349, spec 04 R152) -/

/-- The queue a group's hash selects, or none when the group is invalid. -/
def groupMember (s : State) (g hash : Nat) : Option (Nat × Nat) :=
  let x := Tab.get HostGroup.none s.polders.groups g
  if x.count = 0 then none else some (x.polder, x.first + hash % 65536 % x.count)

/-- May a frame be held for a queue (R349)? -/
def hostTakes (s : State) (fn q : Nat) : Bool :=
  let x := s.queue fn q
  decide (qKind x = kRX) && x.st.live && !s.board.perstLow && (s.func fn).busMaster && !(s.func fn).flr
  && !(decide (fn = 0) && (s.func 0).d3hot)

/-- A frame that a queue cannot take is counted in its polder (R349). -/
def hostRefuses (fn : Nat) (s : State) : State := countPolder fn 0x23 s

end Sys2Proof.Machine
end

