-- ==== Sys2Proof/Machine/Flow.lean ====
section
/-! DEFINITION. Flow contexts and their paging (spec 06). -/

namespace Sys2Proof.Machine

/-! ### Places (spec 06 R209 to R211) -/

/-- Partition, bucket and cache set of a hash. -/
def flowPart (hash : Nat) : Nat := hash / 2 ^ 30 % 4
def flowBucket (hash : Nat) : Nat := flowPart hash * 65536 + hash % 65536
def flowSet (hash : Nat) : Nat := hash / 65536 % 4096

/-- The die that serves a hash (R230). -/
def flowHome (s : State) (hash : Nat) : Nat := servingDie s (flowPart hash)

/-- The 52-byte key of an input string (Table 6.1). -/
def flowKey (input : Bytes) (sel fid : Nat) : Bytes :=
  [byteOf input.length, byteOf sel] ++ beBytes 2 fid ++ padTo 48 input

/-- The context of a key: the entry in its bucket or in the overflow store. -/
def ctxOfKey (s : State) (key : Bytes) : Option Nat :=
  match s.flow.entries.find? (fun e => decide (e.2.key = key)) with
  | some e => some e.2.ctx
  | none => (s.flow.overflow.find? (fun e => decide (e.2.key = key))).map (·.2.ctx)

/-- Key of a cache way. -/
def cacheKey (die set way : Nat) : Nat := (die * 4096 + set) * 16 + way

/-- The cache way a context is in. -/
def cachedAt (s : State) (n : Nat) : Option Nat :=
  (s.flow.cache.find? (fun e => decide (e.2 = n + 1))).map (·.1)

/-- The learn clock in ms, 32 bits (R212). -/
def learnMs (s : State) : Nat := (s.clock - s.tables.learnZero) / 1000000000000 % 2 ^ 32

/-- Does the flow table hold any context (spec 04 R153)? It does until a FlowClear has ended (R234). -/
def flowUsed (s : State) : Bool := s.flow.clearing || s.flow.ctxs.any (fun e => e.2.active)

/-! ### Leaving stage 5 -/

/-- A frame's copies go on to stage 6. -/
def releaseReq (r : CtxReq) (s : State) : State := launchAll r.parcels s

/-- The miss-overflow action (R218); while FlowClear runs the frame is forwarded whatever it is (R234). -/
def missOverflow (r : CtxReq) (s : State) : State :=
  let s1 := count 0x2A03 4 s
  if cfgN s 0x2A00 1 = 0 ∨ s.flow.clearing then releaseReq r s1 else s1

/-! ### Notifications (R225) -/

/-- The record of Table 6.3. -/
def flowRecord (n ty : Nat) (c : Ctx) : Bytes :=
  [byteOf ty, byteOf c.idle] ++ leBytes 2 c.polder ++ leBytes 4 n ++ leBytes 4 c.gen ++ leBytes 4 c.hash
  ++ leBytes 8 c.packets ++ leBytes 8 c.bytes ++ time96Host c.first ++ time96Host c.last
  ++ leBytes 4 (beField c.user 0 4) ++ zeros 4

def flowNotify (t n ty : Nat) (s : State) : State :=
  let c := s.ctx n
  match groupMember s c.group c.hash with
  | none => count 0x2A03 0xA s
  | some (fn, q) =>
    let x := s.queue fn q
    if !hostTakes s fn q then count 0x2A03 0xA s
    else if x.posted = [] then
      count 0x2A03 0xA (s.setQueue fn q { x with dropped := satAdd16 x.dropped 1 })
    else
      let f : HFrame :=
        { place := .notice, info := { Meta.blank with group := c.group }, bytes := flowRecord n ty c, enq := t }
      setHostFrames fn q (hostFrames s fn q ++ [f]) s

/-! ### Contexts: allocation, deletion, pins (R210, R217, R221, R222) -/

/-- The next number of a partition's free pool, and the pool without it. -/
def takeCtx (part : Nat) (s : State) : Option (Nat × State) :=
  let d := s.flowDie part
  if d.fresh < 262144 then
    some (part * 262144 + d.fresh, s.setFlowDie part { d with fresh := d.fresh + 1 })
  else match d.returned with
  | [] => none
  | n :: rest => some (n, s.setFlowDie part { d with returned := rest })

/-- The first invalid way of a bucket (left), else of the overflow store (right). -/
def freeEntry (s : State) (hash : Nat) : Option (Bool × Nat) :=
  let b := 4 * flowBucket hash
  match [0, 1, 2, 3].find? (fun w => !Tab.has s.flow.entries (b + w)) with
  | some w => some (false, b + w)
  | none =>
    let o := 4096 * flowPart hash
    ((List.range 4096).find? (fun i => !Tab.has s.flow.overflow (o + i))).map (fun i => (true, o + i))

/-- Writes a flow-table entry. -/
def putEntry (place : Bool × Nat) (e : FlowEntry) (s : State) : State :=
  modFlow (fun f => if place.1 then { f with overflow := Tab.ins f.overflow place.2 e }
    else { f with entries := Tab.ins f.entries place.2 e }) s

/-- Creates a context for a key, with the fields `c` gives; none when the pool, or the bucket and the
overflow store, have no room (R217). The generation grows with each allocation (R210). -/
def createCtx (key : Bytes) (hash : Nat) (c : Ctx) (s : State) : Option (Nat × State) :=
  match freeEntry s hash with
  | none => none
  | some place =>
    match takeCtx (flowPart hash) s with
    | none => none
    | some (n, s1) =>
      let g := ((s1.ctx n).gen + 1) % 2 ^ 32
      some (n, putEntry place { key := key, ctx := n }
        (s1.setCtx n { c with active := true, gen := g, key := key, hash := hash }))

/-- The cached copy of a context goes without write-back. -/
def uncache (n : Nat) (s : State) : State :=
  modFlow (fun f => { f with cache := f.cache.filter (fun e => decide (e.2 ≠ n + 1)) }) s

/-- A context is deleted and its number freed (R224, R233). -/
def deleteCtx (n : Nat) (s : State) : State :=
  let s1 := uncache n s
  let s2 := modFlow (fun f => { f with
    entries := f.entries.filter (fun e => decide (e.2.ctx ≠ n))
    overflow := f.overflow.filter (fun e => decide (e.2.ctx ≠ n)) }) s1
  let d := s2.flowDie (n / 262144)
  (s2.setCtx n { Ctx.reset with gen := (s2.ctx n).gen }).setFlowDie (n / 262144)
    { d with returned := d.returned ++ [n] }

/-- Pinned contexts that a die serves, and those in a cache set. -/
def pinnedOn (s : State) (die : Nat) : Nat :=
  (s.flow.ctxs.filter (fun e => e.2.pinned && decide (flowHome s e.2.hash = die))).length
def pinnedIn (s : State) (die set : Nat) : Nat :=
  (s.flow.ctxs.filter (fun e => e.2.pinned && decide (flowHome s e.2.hash = die ∧ flowSet e.2.hash = set))).length

/-- May another context of this hash be pinned (R222)? -/
def pinRoom (s : State) (hash : Nat) : Bool :=
  let d := flowHome s hash
  decide (pinnedOn s d < 4096) && decide (pinnedIn s d (flowSet hash) < 8)

/-! ### The cache (R219, R220) -/

/-- May the way be a victim, or is it empty? -/
def victimOk (s : State) (die set way : Nat) : Bool :=
  let d := s.flowDie die
  !d.fetches.any (fun f => decide (f.way = some way) && decide (flowSet f.hash = set))
  && (match Tab.get 0 s.flow.cache (cacheKey die set way) with
    | 0 => true
    | n + 1 =>
      let c := s.ctx n
      !c.pinned && !d.fetches.any (fun f => decide (f.key = c.key)) && decide (d.writeBacks.length < 64))

/-- The ways a victim is chosen from: no pseudo-LRU order gives the way used last while there is another (log entry
117). -/
def victimWays (s : State) (die set : Nat) : List Nat :=
  let ok := (List.range 16).filter (victimOk s die set)
  let old := ok.filter (fun w => decide (Tab.get 0 s.flow.recent (die * 4096 + set) ≠ w + 1))
  if old = [] then ok else old

/-- A way of the set is used. -/
def useWay (key : Nat) (s : State) : State :=
  modFlow (fun f => { f with recent := Tab.set 0 f.recent (key / 16) (key % 16 + 1) }) s

/-- A way of the set is chosen: among those that may be the victim the choice is free. -/
def reserveWay (die set : Nat) (s : State) : Option (Nat × State) :=
  let ok := victimWays s die set
  if ok = [] then none
  else
    let w := ok.getD (Config.victim s.freeCtr % ok.length) 0
    let s1 := { s with freeCtr := s.freeCtr + 1 }
    match Tab.get 0 s.flow.cache (cacheKey die set w) with
    | 0 => some (w, s1)
    | n + 1 =>
      let d := s1.flowDie die
      some (w, count 0x2A03 3 ((uncache n s1).setFlowDie die { d with writeBacks := d.writeBacks ++ [n] }))

/-- A context goes into a cache way. -/
def installCtx (die set way n : Nat) (s : State) : State :=
  useWay (cacheKey die set way) (modFlow (fun f => { f with cache := Tab.ins f.cache (cacheKey die set way) (n + 1) }) s)

/-! ### Access (R214) -/

/-- `apply` of R214, and the frame goes on. -/
def applyCtx (n : Nat) (r : CtxReq) (s : State) : State :=
  let c := s.ctx n
  let old := beField c.user r.act.uaOff 4
  let user := match r.act.uaOp with
    | 1 => splice c.user r.act.uaOff (beBytes 4 r.act.uaValue)
    | 2 => splice c.user r.act.uaOff (beBytes 4 (old + r.act.uaValue))
    | 3 => splice c.user r.act.uaOff (beBytes 4 (old ||| r.act.uaValue))
    | _ => c.user
  let wants := r.act.pin && !c.pinned
  let room := pinRoom s c.hash
  let c1 := { c with
    packets := (c.packets + 1) % 2 ^ 64
    bytes := (c.bytes + r.length) % 2 ^ 64
    last := r.stamp
    lastPort := r.port
    stamp := learnMs s
    user := user
    pinned := c.pinned || (wants && room) }
  let s0 := match cachedAt s n with
    | some k => useWay k s
    | none => s
  let s1 := s0.setCtx n c1
  releaseReq r (if wants && !room then count 0x2A03 7 s1 else s1)

/-- Bytes parked in the park store of an ingress die (R216). -/
def parkedBytes (s : State) (die : Nat) : Nat :=
  ((s.flow.dies.flatMap (fun e => e.2.fetches.flatMap (fun f =>
    (f.frames.filter (fun r => decide (dieOf r.port = die))).map (·.parkBytes))))).sum

/-- Frames in a home die's pending list. -/
def pendingCount (d : FlowDie) : Nat := (d.fetches.map (fun f => f.frames.length)).sum

def parkFull (s : State) (die : Nat) (r : CtxReq) : Bool :=
  decide (4096 ≤ pendingCount (s.flowDie die))
  || decide (8388608 < parkedBytes s (dieOf r.port) + r.parkBytes)

/-- One request at its home die (R214, R218, R223, R234). -/
def serveRequest (die : Nat) (r : CtxReq) (s : State) : State :=
  if s.flow.clearing then releaseReq r (count 0x2A03 4 s)
  else if r.scheduled then
    match ctxOfKey s r.key with
    | none => releaseReq r (count 0x2A03 8 s)
    | some n =>
      if (s.ctx n).pinned && (cachedAt s n).isSome then applyCtx n r (count 0x2A03 1 s)
      else releaseReq r (count 0x2A03 8 s)
  else
    let d := s.flowDie die
    if d.fetches.any (fun f => decide (f.key = r.key)) then
      if parkFull s die r then missOverflow r s
      else s.setFlowDie die { d with fetches := d.fetches.map (fun f =>
        if f.key = r.key then { f with frames := f.frames ++ [r] } else f) }
    else
      let hit := match ctxOfKey s r.key with
        | none => none
        | some n => if (cachedAt s n).isSome then some n else none
      match hit with
      | some n => applyCtx n r (count 0x2A03 1 s)
      | none =>
        let s1 := count 0x2A03 2 s
        if parkFull s die r then missOverflow r s1
        else
          let d1 := s1.flowDie die
          s1.setFlowDie die { d1 with
            fetches := d1.fetches ++ [{ key := r.key, hash := r.hash, way := none, frames := [r] }] }

/-- Where a request joins the queue: one bound for a SCHEDULED queue goes before every request of other flows, but not
before one of its own flow, nor before the earlier such requests at the queue's front (R215; log entry 116). -/
def queueRequest (r : CtxReq) (l : List CtxReq) : List CtxReq :=
  if !r.scheduled then l ++ [r]
  else
    let own := (l.zipIdx.filter (fun e => decide (e.1.key = r.key))).foldl (fun m e => max m (e.2 + 1)) 0
    let keep := max own (l.takeWhile (·.scheduled)).length
    l.take keep ++ [r] ++ l.drop keep

/-- A request is sent to its home die (R215, R229). -/
def sendRequest (src : Nat) (r : CtxReq) (s : State) : State :=
  let die := flowHome s r.hash
  let d := s.flowDie die
  if !meshOpen s src die || decide (1024 ≤ d.requests.length) then missOverflow r s
  else s.setFlowDie die { d with requests := queueRequest r d.requests }

/-- CONTEXT_REQUEST (R214). -/
def execContextRequest (t die : Nat) (s : State) : Host.Outcome State Fault Refusal :=
  let s1 := advance t s
  let d := s1.flowDie die
  .next (match d.requests with
    | [] => s1
    | r :: rest =>
      if ctlRoom s1 (dieOf r.port) die then
        serveRequest die r (ctlCross (dieOf r.port) die (s1.setFlowDie die { d with requests := rest }))
      else s1)

/-! ### Fetches (R216 to R219, R228, R229) -/

/-- The first fetch of a list that waits and for which a way can be reserved. -/
def issueFrom (die : Nat) (s : State) : List Fetch → Option (Fetch × Nat × State)
  | [] => none
  | f :: rest =>
    match f.way with
    | some _ => issueFrom die s rest
    | none => match reserveWay die (flowSet f.hash) s with
      | some (w, s1) => some (f, w, s1)
      | none => issueFrom die s rest

/-- FETCH_ISSUE (R216). -/
def fetchIssue (die : Nat) (s : State) : State :=
  let d := s.flowDie die
  if 128 ≤ (d.fetches.filter (fun f => f.way.isSome)).length then s
  else match issueFrom die s d.fetches with
  | none => s
  | some (f, w, s1) =>
    let d1 := s1.flowDie die
    s1.setFlowDie die { d1 with fetches := d1.fetches.map (fun g =>
      if g.key = f.key then { g with way := some w } else g) }

def execFetchIssue (die : Nat) (s : State) : Host.Outcome State Fault Refusal :=
  .next (fetchIssue die s)

/-- The context a frame's flow operation creates (R217). -/
def newCtx (s : State) (r : CtxReq) (setUsed : Bool) : Ctx :=
  { Ctx.reset with
    notify := r.act.notify
    setUsed := setUsed
    idle := r.act.idle
    polder := (Tab.get HostGroup.none s.polders.groups r.group).polder
    first := r.stamp
    last := r.stamp
    group := r.group
    lastPort := r.port
    stamp := learnMs s }

/-- The parked frames of a key are served in order; `way` is the way the fetch reserved (R217). -/
def serveParked (t die set way : Nat) : List CtxReq → State → State
  | [], s => s
  | r :: rest, s =>
    if s.flow.clearing then serveParked t die set way rest (releaseReq r (count 0x2A03 4 s))
    else match ctxOfKey s r.key with
    | some n => serveParked t die set way rest (applyCtx n r s)
    | none =>
      if r.act.op = 2 then
        match createCtx r.key r.hash (newCtx s r (bitOf (byteAt r.key 1) 3)) s with
        | none =>
          serveParked t die set way rest (missOverflow r (raiseDie die 6 (count 0x2A03 5 s)))
        | some (n, s1) =>
          let s2 := installCtx die set way n s1
          let s3 := if r.act.notify then flowNotify t n 1 s2 else s2
          serveParked t die set way rest (applyCtx n r s3)
      else serveParked t die set way rest (releaseReq r (count 0x2A03 6 s))

/-- The parked frames of a key take the miss-overflow action. -/
def overflowAll (l : List CtxReq) (s : State) : State := forEach l missOverflow s

/-- The contexts that a fetch of a key reads: those whose entries stand in the bucket, and the key's own (R228). -/
def fetchedCtxs (s : State) (hash : Nat) (key : Bytes) : List Nat :=
  let l := (s.flow.entries.filter (fun e => decide (e.1 / 4 = flowBucket hash))).map (·.2.ctx)
  match ctxOfKey s key with
  | some n => if l.contains n then l else l ++ [n]
  | none => l

/-- FETCH_COMPLETE: the fetch that reserved cache slot `slot` (set × 16 + way) of a die ends. -/
def fetchComplete (t die slot : Nat) (ecc : Bool) (s : State) : State :=
  let d := s.flowDie die
  match d.fetches.find? (fun f => decide (f.way = some (slot % 16)) && decide (flowSet f.hash = slot / 16)) with
  | none => s
  | some f =>
    let s1 := s.setFlowDie die { d with fetches := d.fetches.filter (fun g => decide (g.key ≠ f.key)) }
    let md := flowBucket f.hash % 2
    let cut := culvDown s (mdCulvert die md)
      || (match ctxOfKey s f.key with
        | some n => culvDown s (mdCulvert die (n % 2)) && !d.writeBacks.contains n
        | none => false)
    if cut then overflowAll f.frames s1
    else if ecc then
      overflowAll f.frames (raiseDie die 7 (count 0x2A03 0xB
        (forEach (fetchedCtxs s1 f.hash f.key) deleteCtx s1)))
    else
      let s2 := match ctxOfKey s1 f.key with
        | some n => installCtx die (slot / 16) (slot % 16) n s1
        | none => s1
      serveParked t die (slot / 16) (slot % 16) f.frames s2

def execFetchComplete (t die slot : Nat) (eccError : Bool) (s : State) : Host.Outcome State Fault Refusal :=
  .next (fetchComplete t die slot eccError (advance t s))

/-- WRITE_BACK_REACHES_DDR4 (R220). -/
def execWriteBackReachesDdr4 (die : Nat) (s : State) : Host.Outcome State Fault Refusal :=
  let d := s.flowDie die
  .next (s.setFlowDie die { d with writeBacks := d.writeBacks.drop 1 })

/-! ### Idle expiry (R224) -/

/-- FLOW_AGER_VISIT; a context whose fetch or write-back is in flight is left out. -/
def flowAgerVisit (t n : Nat) (s : State) : State :=
  let c := s.ctx n
  let busy := s.flow.dies.any (fun e => e.2.writeBacks.contains n || e.2.fetches.any (fun f => f.way.isSome && decide (f.key = c.key)))
  if !c.active || decide (c.idle = 0) || busy then s
  else if (learnMs s + 2 ^ 32 - c.stamp) % 2 ^ 32 < cfgN s 0x2A01 c.idle then s
  else
    let s1 := if (cfgN s 0x2A00 2).testBit c.idle then flowNotify t n 2 s else s
    count 0x2A03 9 (deleteCtx n s1)

def execFlowAgerVisit (t ctx : Nat) (s : State) : Host.Outcome State Fault Refusal :=
  .next (flowAgerVisit t ctx (advance t s))

/-! ### Actions (R235, Table 6.5) -/

/-- The input string and the hash of a key. -/
def keyInput (k : Bytes) : Bytes := slice k 4 (byteAt k 0)
def keyHash (s : State) (k : Bytes) : Nat := toeplitz (cfg s 0x2801 9) (keyInput k)

/-- A context becomes resident so that it can be pinned: none where no way can be reserved. -/
def makeResident (n hash : Nat) (s : State) : Option State :=
  if (cachedAt s n).isSome then some s
  else
    let die := flowHome s hash
    (reserveWay die (flowSet hash) s).map (fun r => installCtx die (flowSet hash) r.1 n r.2)

/-- Sets or clears the pin of a context; none where the limits refuse it (R221, R222). -/
def pinCtx (n : Nat) (pin : Bool) (s : State) : Option State :=
  let c := s.ctx n
  if !pin then some (s.setCtx n { c with pinned := false })
  else if c.pinned then makeResident n c.hash s
  else if !pinRoom s c.hash then none
  else (makeResident n c.hash s).map (fun st => st.setCtx n { st.ctx n with pinned := true })

/-- The checks of FlowWrite's argument (R235). -/
def flowWriteAborts (s : State) (d : Bytes) : List Nat :=
  let sel := byteAt d 1
  abortIf (decide (byteAt d 0 < 8) || decide (48 < byteAt d 0) || decide (sel % 8 ≠ cfgN s 0x2801 7)
    || decide (16 ≤ sel) || (sel.testBit 3 && decide (cfgN s 0x2801 8 = 0))
    || decide (4096 ≤ beField d 2 2) || decide (byteAt d 52 % 16 ≥ 2) || decide (byteAt d 53 ≠ 0)
    || decide (4096 ≤ beField d 54 2)) aRANGE

/-- FlowWrite: the context's number and generation, or RESOURCE. -/
def flowWrite (d : Bytes) (s : State) : State × Reply :=
  let key := d.take 52
  let hash := keyHash s key
  let pin := (byteAt d 52).testBit 0
  let made := match ctxOfKey s key with
    | some n => some (n, s.setCtx n { s.ctx n with
        idle := byteAt d 52 / 16, group := beField d 54 2, user := slice d 56 64 })
    | none => createCtx key hash { Ctx.reset with
        byWrite := true
        setUsed := (byteAt d 1).testBit 3
        idle := byteAt d 52 / 16
        polder := (Tab.get HostGroup.none s.polders.groups (beField d 54 2)).polder
        first := timeNow s
        group := beField d 54 2
        stamp := learnMs s
        user := slice d 56 64 } s
  match made with
  | none => (s, .abort aRESOURCE)
  | some (n, s1) =>
    match pinCtx n pin s1 with
    | none => (s, .abort aRESOURCE)
    | some s2 => (s2, .ok 0 0 9 (beBytes 4 n ++ beBytes 4 (s2.ctx n).gen))

/-- FLOW_WRITE. -/
def execFlowWrite (r : Rq) (s : State) : Host.Outcome State Fault Refusal :=
  .next (serveAction (at0 0x2A10 0) (fun q s => flowWriteAborts s q.msg.data)
    (fun q s =>
      let x := flowWrite q.msg.data s
      (match x.2 with
        | .abort _ => x.1
        | _ => dikeLog q.origin (flowHome s (keyHash s (q.msg.data.take 52))) 3 0 x.1, x.2)) r s)

/-- The checks of an action that names a context. -/
def ctxAborts (s : State) (n : Nat) : List Nat :=
  if 1048575 < n then [aRANGE] else abortIf (!(s.ctx n).active) aSTATE

/-- The 128 bytes of Table 6.2. -/
def ctxRecord (n : Nat) (c : Ctx) : Bytes :=
  [byteOf (boolNat c.active),
   byteOf (boolNat c.pinned + 2 * boolNat c.notify + 4 * boolNat c.byWrite + 8 * boolNat c.setUsed + 16 * c.idle)]
  ++ beBytes 2 c.polder ++ beBytes 4 n ++ beBytes 8 c.packets ++ beBytes 8 c.bytes ++ time96 c.first ++ time96 c.last
  ++ beBytes 2 c.group ++ beBytes 2 c.lastPort ++ beBytes 4 c.hash ++ beBytes 4 c.gen ++ beBytes 4 c.stamp ++ c.user

/-- FLOW_READ. -/
def execFlowRead (r : Rq) (s : State) : Host.Outcome State Fault Refusal :=
  .next (serveAction (at0 0x2A11 0) (fun q s => ctxAborts s (beNat q.msg.data))
    (fun q s => (s, .ok 0 0 9 (ctxRecord (beNat q.msg.data) (s.ctx (beNat q.msg.data))))) r s)

/-- FLOW_DELETE (R233). -/
def execFlowDelete (r : Rq) (s : State) : Host.Outcome State Fault Refusal :=
  .next (serveAction (at0 0x2A12 0) (fun q s => ctxAborts s (beNat q.msg.data))
    (fun q s => (dikeLog q.origin (flowHome s (s.ctx (beNat q.msg.data)).hash) 3 0
      (deleteCtx (beNat q.msg.data) s), .done)) r s)

/-- FLOW_PIN (R222). -/
def execFlowPin (r : Rq) (s : State) : Host.Outcome State Fault Refusal :=
  .next (serveAction (at0 0x2A13 0)
    (fun q s =>
      let d := q.msg.data
      ctxAborts s (beField d 0 4) ++ abortIf (decide (1 < byteAt d 4) || decide (slice d 5 3 ≠ zeros 3)) aRANGE)
    (fun q s =>
      let n := beField q.msg.data 0 4
      match pinCtx n (decide (byteAt q.msg.data 4 = 1)) s with
      | none => (s, .abort aRESOURCE)
      | some s1 => (dikeLog q.origin (flowHome s (s.ctx n).hash) 3 0 s1, .done)) r s)

/-- FLOW_CLEAR (R234): answered when it ends. -/
def execFlowClear (r : Rq) (s : State) : Host.Outcome State Fault Refusal :=
  .next (serveAction (at0 0x2A14 0) (fun _ s => abortIf s.flow.clearing aBUSY)
    (fun q s => (dikeLogFields q.origin 3 0 (modFlow (fun f => { f with clearing := true }) s),
      .later .flowClear)) r s)

/-- Every context is deleted on all four dies; numbers return in ascending order. -/
def clearContexts (s : State) : State :=
  modFlow (fun f => { f with cache := [], clearing := false })
    (forEach ((s.flow.ctxs.filter (fun e => e.2.active)).map (·.1)) deleteCtx s)

/-- FLOW_CLEAR_COMPLETE (R234). -/
def execFlowClearComplete (t : Nat) (s : State) : Host.Outcome State Fault Refusal :=
  let s1 := advance t s
  .next (if s1.flow.clearing then answerAct .flowClear none (clearContexts s1) else s1)

end Sys2Proof.Machine
end

