-- ==== Sys2Proof/Machine/Frames.lean ====
section
/-! DEFINITION. The way of a frame: MAC, passes of the ingress pipe, lookups, meters and copies; arrival
at a die; selection and the egress pipeline (spec 01 R29 to R34, 03 R101 to R111, 04 R146 to R163, 05
R176 to R187, 07 R244 to R250, 08 R260 to R274). -/

namespace Sys2Proof.Machine

/-! ### Tags (spec 05 R176) -/

/-- The tag type of a port. -/
def tagType (s : State) (port : Nat) : Nat := if mapBit (cfg s 0x2902 2) port then 0x88A8 else 0x8100

/-- The control field of the outermost tag when it is of the port's type. -/
def ownTag (s : State) (port : Nat) (b : Bytes) : Option Nat :=
  match outerTag b with
  | some (ty, tci) => if ty = tagType s port then some tci else none
  | none => none

/-- A frame's VID. -/
def vidOf (s : State) (port : Nat) (b : Bytes) : Nat :=
  match ownTag s port b with
  | some tci => if tci % 4096 = 0 then cfgAt s 0x2902 1 2 port else tci % 4096
  | none => cfgAt s 0x2902 1 2 port

/-- A frame's PCP, none without such a tag. -/
def pcpOf (s : State) (port : Nat) (b : Bytes) : Option Nat := (ownTag s port b).map (· / 8192)

/-- The traffic class of a field frame (spec 08 R260). -/
def classOf (s : State) (port : Nat) (set : Option Nat) (b : Bytes) : Nat :=
  match set, pcpOf s port b with
  | some t, _ => t
  | none, some p => pcpToTc s port p
  | none, none => defaultTc s port

def pushTag (ty tci : Nat) (b : Bytes) : Bytes := b.take 12 ++ beBytes 2 ty ++ beBytes 2 tci ++ b.drop 12
def popTag (at_ : Nat) (b : Bytes) : Bytes := b.take at_ ++ b.drop (at_ + 4)
def setTci (tci : Nat) (b : Bytes) : Bytes := splice b 14 (beBytes 2 tci)

/-- Where the first VLAN tag of a type stands. -/
def tagAt : Nat → Nat → Bytes → Nat → Option Nat
  | 0, _, _, _ => none
  | k + 1, ty, b, off =>
    let x := beField b off 2
    if b.length < off + 4 ∨ (x ≠ 0x8100 ∧ x ≠ 0x88A8) then none
    else if x = ty then some off
    else tagAt k ty b (off + 4)

/-- The frame with an R-tag that carries `n`: its own with a new number, or one behind the VLAN tags. -/
def putRtag (n : Nat) (b : Bytes) : Bytes :=
  match rtagAt b with
  | some o => splice b (o + 4) (beBytes 2 n)
  | none =>
    let o := typeAt 8 b 12
    b.take o ++ [0xF1, 0xC1, 0, 0] ++ beBytes 2 n ++ b.drop o

def dropRtag (b : Bytes) : Bytes :=
  match rtagAt b with
  | some o => b.take o ++ b.drop (o + 6)
  | none => b

/-! ### Rewrites of a pass (spec 04 Table 4.7, R158) -/

/-- DSCP and ECN rewritten in the outermost IP header; ECN only in an ECN-capable frame. -/
def rewriteTos (dscp ecn : Option Nat) (b : Bytes) : Bytes :=
  let new := fun old =>
    let e := if old % 4 = 0 then 0 else ecn.getD (old % 4)
    dscp.getD (old / 4) * 4 + e
  match outerIp 8 b 12 with
  | none => b
  | some (off, false) =>
    let n := 4 * (byteAt b off % 16)
    splice b off (ip4Checksum (splice (slice b off n) 1 [byteOf (new (byteAt b (off + 1)))]))
  | some (off, true) =>
    let w := beField b off 2
    splice b off (beBytes 2 (w / 4096 * 4096 + new (w / 16 % 256) * 16 + w % 16))

/-- The rewrites of one action on a frame of a port. -/
def rewrite (s : State) (port : Nat) (a b : Bytes) : Bytes :=
  let b1 := if actHas a 6 || actHas a 7 then
      rewriteTos (if actHas a 6 then some (byteAt a 11 / 4) else none)
        (if actHas a 7 then some (byteAt a 11 % 4) else none) b
    else b
  let b2 := if actHas a 8 then
      (match ownTag s port b1 with
        | some _ => setTci (actVlan a) b1
        | none => pushTag (tagType s port) (actVlan a) b1)
    else b1
  let b3 := if actHas a 9 then splice b2 0 (actMac a) else b2
  if actHas a 10 then splice b3 6 (actMac a) else b3

/-! ### Copies (spec 03 R121, 05 R178, R185) -/

/-- The ports that exist among a port set, without the ingress port. -/
def setPorts (s : State) (set : Bytes) (port : Nat) : List Nat :=
  portsAll.filter (fun p => mapBit set p && decide (p ≠ port) && portExists s p)

/-- The ports a FORWARD or MIRROR destination names. -/
def destPorts (s : State) (dest port : Nat) : List Nat :=
  if dest < 512 then [dest] else setPorts s (groupAt s dest) port

/-- Where the copies for a list of ports go while redirects are installed: each port with the primary
it stands in for. Copies for one backup are merged; a redirect is applied once. -/
def redirectPorts (s : State) : List Nat → List Nat → List (Nat × Option Nat) → State → List (Nat × Option Nat) × State
  | [], _, out, st => (out, st)
  | p :: rest, all, out, st =>
    let b := backupPort s p
    if !(s.port p).redirect then
      redirectPorts s rest all (if out.any (fun e => decide (e.1 = p)) then out else out ++ [(p, none)]) st
    else if (s.port b).redirect || !portUp s b then
      redirectPorts s rest all out (countPort p 0x2D 1 st)
    else if all.contains b || out.any (fun e => decide (e.1 = b)) then redirectPorts s rest all out st
    else redirectPorts s rest all (out ++ [(b, some p)]) st

/-- The parcels of one frame's port copies, one for each egress die. -/
def portParcels (s : State) (src owner : Nat) (info : Meta) (b : Bytes) (l : List (Nat × Option Nat)) : List Parcel :=
  [0, 1, 2, 3].filterMap (fun d =>
    let here := l.filter (fun e => decide (dieOf e.1 = d))
    if here = [] then none
    else some { ticket := 0, src := src, dst := d, owner := owner, info := info, bytes := b, hosts := []
                bulk := !here.any (fun e => queueScheduled s e.1 info.tc)
                ports := here.map (fun e => (e.1, info.tc, e.2)) })

/-- Copies with equal contents for one die are one parcel (spec 07 R244). -/
def mergeParcels : List Parcel → List Parcel → List Parcel
  | [], out => out
  | p :: rest, out =>
    let same := fun (q : Parcel) => decide (q.dst = p.dst ∧ q.hosts = [] ∧ p.hosts = []
      ∧ q.info = p.info ∧ q.bytes = p.bytes)
    if out.any same then
      mergeParcels rest (out.map (fun q => if same q then { q with ports := q.ports ++ p.ports, bulk := q.bulk && p.bulk } else q))
    else mergeParcels rest (out ++ [p])

/-- A copy for a host queue group: its parcel, or the count of what discards it (spec 10 R349). -/
def hostParcel (s0 : State) (die : Nat) (info : Meta) (b : Bytes) (g : Nat) (s : State) : List Parcel × State :=
  match groupMember s0 g info.hash with
  | none => ([], count 0x4085 0 s)
  | some (fn, q) =>
    if !hostTakes s0 fn q then ([], hostRefuses fn s)
    else
      ([{ ticket := 0, src := die, dst := die, bulk := true, owner := ((s0.polder fn).owner.getD 0xFFF)
          info := { info with group := g, edit := false }, bytes := b, ports := [], hosts := [(fn, q)] }], s)

/-! ### Frames the part takes itself -/

/-- The place of a header of a kind in a parse, or none. -/
def headerAt (prv : Bytes) (kind : Nat) : Option Nat :=
  ((List.range 16).find? (fun i => decide (byteAt prv (0x40 + i) = kind) && decide (i < byteAt prv 6))).map
    (fun i => byteAt prv (0x50 + i))

/-- Is an FDP frame on a field port for the dictionary (spec 02 R69, Table 2.9)? Its message is then the command of
its own that carries it. A frame is in FieldVlan by its outermost tag (DESIGN CHOICE, log entry 125). -/
def fdpTaken (s : State) (port : Nat) (x : Parsed) (b : Bytes) : Bool :=
  let dst := slice x.prv 0xE0 16
  let v4 := slice (cfg s 0x1105 0) 0 4
  let v6 := slice (cfg s 0x1106 0) 0 16
  let vlan := cfgN s 0x1107 0
  decide (x.cls = 0x0A) && mapBit (cfg s 0x1102 0) port
  && (if byteAt x.prv 0xC0 = 4 then decide (v4 ≠ zeros 4 ∧ dst.drop 12 = v4) else decide (v6 ≠ zeros 16 ∧ dst = v6))
  && (match outerTag b with
    | none => decide (vlan = 0)
    | some (_, tci) => decide (vlan ≠ 0 ∧ tci % 4096 = vlan))

/-- The PTP header's place, when the frame is a PTP message. -/
def ptpAt (x : Parsed) : Option Nat := if x.cls = 8 then headerAt x.prv 12 else none

/-- Does a PTP message belong to the clock instance (spec 03 R109 to R112)? -/
def ptpMine (s : State) (port : Nat) (x : Parsed) : Bool :=
  let profile := cfgN s 0x1202 1
  let transport := if byteAt x.prv 0xA6 = 0 then 0 else if byteAt x.prv 0xC0 = 4 then 1 else 2
  decide (profile ≠ 0) && mapBit (cfg s 0x1202 5) port && decide (byteAt x.prv 0xA3 = cfgN s 0x1202 3)
  && decide (transport = if profile = 3 then 0 else cfgN s 0x1202 4)

/-- The type of a PTP message. -/
def ptpType (x : Parsed) : Nat := byteAt x.prv 0xA2

/-- Is it an event message of another domain that is forwarded with correction (R110)? -/
def ptpOther (s : State) (x : Parsed) : Bool :=
  decide (x.cls = 8) && decide (ptpType x ≤ 3) && decide (cfgN s 0x1202 1 ≠ 0)
  && decide (byteAt x.prv 0xA3 ≠ cfgN s 0x1202 3) && decide (cfgN s 0x1202 9 = 1)

/-- Does a transparent clock forward a message of its own domain: all but the peer-delay messages, which end at each
port (R109; log entry 113)? -/
def ptpThrough (s : State) (port : Nat) (x : Parsed) : Bool :=
  ptpMine s port x && decide (cfgN s 0x1202 1 = 2 ∧ cfgN s 0x1202 2 = 3) && !([2, 3, 10].contains (ptpType x))

/-- Is the message's correction field increased by the residence time (R109, R110)? -/
def ptpResides (s : State) (port : Nat) (x : Parsed) : Bool :=
  ptpOther s x || ((ptpAt x).isSome && ptpThrough s port x && decide (ptpType x ≤ 1))

/-- An Announce may make its port the parent's: the choice is free (log entry 113). -/
def ptpParent (port ty k : Nat) (s : State) : State :=
  if ty = 11 ∧ (s.time.parent = 0xFFFF ∨ Config.ptpPicks k) then modTime (fun b => { b with parent := port }) s else s

/-- What the clock instance makes of a message of type `ty` with announce interval 2 to the power `log` seconds: the
values the servo of the firmware computes are free (log entry 35). A first lock, or an Announce or Sync of the
parent in HOLDOVER, gives LOCKED (R106, R107). -/
def ptpServo (port ty : Nat) (log : Int) (s : State) : State :=
  let k := s.freeCtr
  let s1 := ptpParent port ty k { s with freeCtr := k + 1 }
  if !s.boot.coresUp then s
  else if s1.time.parent ≠ port then s1
  else
    let live := decide (ty = 0 ∨ ty = 11)
    let s2 := modTime (fun b => { b with
      offset := Config.ptpOffset k % 2 ^ 64, delay := Config.ptpDelay k % 2 ^ 64
      lastMsg := if live then s.clock else b.lastMsg
      annLog := if ty = 11 then log else b.annLog }) s1
    if timeSource s ≠ 1 then s2
    else
      let s3 := setRate (clampRate (Config.ptpRate k)) s2
      if s.time.state = tsHOLDOVER then (if live then modTime (fun b => { b with state := tsLOCKED }) s3 else s3)
      else if Config.ptpLocks k && decide (s.time.state ≠ tsLOCKED) then
        let r := drawNat s3
        modTime (fun b => { b with state := tsLOCKED }) (stepTime (r.1 % (time96Max + 1)) r.2)
      else s3

/-- The message of a frame goes to the clock instance. -/
def ptpTake (port : Nat) (x : Parsed) (b : Bytes) (s : State) : State :=
  match ptpAt x with
  | none => s
  | some o => ptpServo port (ptpType x) (signedOf 8 (byteAt b (o + 33))) s

/-! ### Siphon packets (spec 13 R421, R430) -/

/-- The checksum of a UDP datagram over its pseudo header: 0xFFFF when it verifies. -/
def udpSum (six : Bool) (srcA dstA dgram : Bytes) : Nat :=
  onesSum (srcA ++ dstA ++ (if six then beBytes 4 dgram.length ++ [0, 0, 0, 17] else [0, 17] ++ beBytes 2 dgram.length) ++ dgram)

/-- Is a packet's outer destination the local address of a channel not in RESET? -/
def siphonLocal (s : State) (r : SRx) : Bool :=
  s.siphon.channels.any (fun e => decide (e.2.state ≠ 0) && decide ((byteAt e.2.record 1).testBit 0 = r.ip6)
    && decide (slice e.2.record 32 16 = r.dstAddr))

/-- The Siphon packet of a frame, as the engine takes it from the field die. -/
def siphonRx (sid port : Nat) (x : Parsed) (b : Bytes) : SRx :=
  let six := decide (byteAt x.prv 0xC0 = 6)
  let u := (headerAt x.prv 7).getD 0
  let h := (headerAt x.prv 13).getD 0
  let n := beField b (u + 4) 2
  let a4 := fun (o : Nat) => if six then slice x.prv o 16 else zeros 12 ++ slice x.prv (o + 12) 4
  let raw := fun (o : Nat) => if six then slice x.prv o 16 else slice x.prv (o + 12) 4
  { sid := sid, port := port, ip6 := six, srcAddr := a4 0xD0, dstAddr := a4 0xE0, udpPort := beField b (u + 2) 2
    udpLen := n, ce := decide (byteAt x.prv 0xC3 % 4 = 3)
    udpOk := !six || decide (udpSum six (raw 0xD0) (raw 0xE0) (slice b u n) = 0xFFFF)
    at_ := 0, bytes := slice b h (n - 8) }

/-- A packet joins those that wait for the engine. Of two copies of one PSN in the same clock, the one on the lower
path id goes first (spec 13 R456). -/
def rxInsert (r : SRx) : List SRx → List SRx
  | [] => [r]
  | x :: rest =>
    let same := fun (off len : Nat) => decide (slice x.bytes off len = slice r.bytes off len)
    if clockOf x.at_ = clockOf r.at_ && same 1 1 && same 4 8 && decide (byteAt r.bytes 2 < byteAt x.bytes 2) then r :: x :: rest
    else x :: rxInsert r rest

/-- A memory fault as the cells of a frame for the HD are read (spec 07 R252): is the frame lost? -/
def cellFault (die sid : Nat) (fault : BufFault) (s : State) : Bool × State :=
  match fault with
  | .data => (true, releaseCopy sid none (eccError die s))
  | .link place => (true, linkError sid place none s)
  | .clean => (false, s)
  | .underrun => (false, s)
  | .corrected => (false, bufFaultAt die fault s)
  | .badFree _ _ => (false, bufFaultAt die fault s)
  | .freeWord _ _ => (false, bufFaultAt die fault s)
  | .tag _ => (false, bufFaultAt die fault s)

/-- A packet for the Siphon engine waits in cells of its ingress die (R34, spec 07 Table 7.2). -/
def siphonTake (port : Nat) (x : Parsed) (b : Bytes) (s : State) : State :=
  match admitFrame (dieOf port) (pipeOf port % 4) ownerSiphon (b.length + 4) 1 s with
  | (none, s1) => s1
  | (some sid, s1) => modSiphon (fun y => { y with rx := rxInsert { siphonRx sid port x b with at_ := s.clock } y.rx }) s1

/-! ### The final pass (spec 05 R177 to R187, 08 R280 to R282, 03 R129) -/

/-- The source side of R186 and R187. -/
def learnFrom (die port : Nat) (v : Vlan) (smac : Nat) (s : State) : State :=
  if cfgN s 0x2900 3 = 1 ∧ mapBit (cfg s 0x2900 4) port ∧ v.learn ∧ !(s.port port).suspended
      ∧ !smac.testBit 40 ∧ smac ≠ 0 then
    match repFind s die (fdbKey v.fid smac) with
    | none => sendLearn die { fid := v.fid, mac := smac, port := port } s
    | some (i, e) =>
      if e.dest = port then (if e.static then s else sourceHit die i e s)
      else if e.static then count 0x2904 4 s
      else sendLearn die { fid := v.fid, mac := smac, port := port } s
  else s

/-- Do a die's replica entries leave a key no place (R185)? -/
def spilled (s : State) (die key : Nat) : Bool :=
  let b := bucketOf s 0 key
  let used := (s.tables.repFdb.filter (fun e => decide (e.1 / fdbSize = die) && e.2.valid)).map (·.1 % fdbSize)
  decide ((used.filter (fun i => decide (i / 4 = b))).length = 4)
  && decide (4096 ≤ (used.filter (fun i => decide (1048576 ≤ i))).length)

/-- The ports the FDB gives a frame, or none for a frame it discards (R185). -/
def bridged (die port : Nat) (v : Vlan) (dmac : Nat) (s : State) : Option (List Nat) × State :=
  match repFind s die (fdbKey v.fid dmac) with
  | some (_, e) =>
    if e.dest = port then (none, count 0x2904 0xA s)
    else if e.dest < 512 then (some (if mapBit v.members e.dest then [e.dest] else []), s)
    else (some ((setPorts s (groupAt s e.dest) port).filter (fun p => mapBit v.members p)), s)
  | none =>
    (some (setPorts s v.members port),
      if !dmac.testBit 40 && spilled s die (fdbKey v.fid dmac) then count 0x2904 8 s else s)

/-- The stream handle of a frame (R184). -/
def streamOf (s : State) (die vid dmac smac : Nat) : Option Nat :=
  match repFindStream s die (streamKey 0 vid dmac), repFindStream s die (streamKey 1 vid smac) with
  | some e, _ => some e.handle
  | none, some e => some e.handle
  | none, none => none

/-- The stream filter of a frame (spec 08 R280): its colour after it. A frame that its pass's Weir discarded is
counted, and leaves at the end of the stage (R282; log entry 115). -/
def streamMeter (t die h pcp : Nat) (m : Option Colour) (b : Bytes) (len : Nat) (s : State) : Option Colour × State :=
  let x := s.filterAt h
  if !x.valid then (m, s)
  else if x.prio ≠ 0xFF ∧ x.prio ≠ pcp then
    (m, s.setFilter h { x with mismatch := satAdd64 x.mismatch 1 })
  else
    let s1 := s.setFilter h { x with matched := satAdd64 x.matched 1 }
    if x.weir = 0xFFFF ∨ m = some .discard then (m, s1) else meterAs t die x.weir m b len s1

/-- FRER at ingress (spec 03 R129): the sequence number of a generated frame, or none of the outer kind
for a frame from a wrong port. -/
def frerIngress (h port : Nat) (s : State) : Option (Option Nat) × State :=
  let x := s.frerAt h
  if x.mode ≠ 1 then (some none, s)
  else if x.port ≠ port then (none, frerCount h 7 1 s)
  else (some (some x.nextSeq), s.setFrer h { x with nextSeq := (x.nextSeq + 1) % 65536 })

/-- The copies of a frame go on to the crossing, or to its flow context first (spec 06 R213, R214). -/
def sendOn (f : RFrame) (x : Parsed) (v : Vlan) (parcels : List Parcel) (s : State) : State :=
  match f.held.flow with
  | none => launchAll parcels s
  | some a =>
    if a.op = 0 ∨ a.op = 3 then launchAll parcels s
    else
      let p := parseIn s f.bank f.bytes
      let w := (parseRun p 17 (Walk.start f.bytes)).1
      let fields := cfgN s 0x2801 7
      let inner := decide (cfgN s 0x2801 8 = 1) && w.flags.testBit fInner
      sendRequest (dieOf f.port)
        { key := flowKey (hashInput w fields (cfgN s 0x2801 8) false).1 (fields + 8 * boolNat inner) v.fid
          hash := x.hash, act := a, group := f.held.host.getD 0, length := f.bytes.length, port := f.port
          stamp := f.stamp, scheduled := parcels.any (fun q => decide (q.ports ≠ []) && !q.bulk)
          parkBytes := f.bytes.length + 4, parcels := parcels } s

/-- What a frame's copies carry with them. -/
def infoOf (s : State) (f : RFrame) (x : Parsed) (b : Bytes) : Meta where
  inPort := f.port
  stamp := f.stamp
  hash := x.hash
  cls := x.cls
  rxFlags := if x.flags.testBit fDepth then 4 else 0
  reason := 0
  vid := vidOf s f.port b
  tc := classOf s f.port f.held.tc b
  yellow := false
  stream := none
  seqNo := none
  group := 0
  src := .field
  edit := true
  ptpOther := ptpResides s f.port x
  frame := f.frame

/-- The copies of a frame that its meters and FRER let pass: `seq` is its number of R129, `m` its colour. -/
def sendCopies (f : RFrame) (x : Parsed) (v : Vlan) (b : Bytes) (mirrors : List Parcel) (handle seq : Option Nat)
    (m : Option Colour) (s : State) : State :=
  let die := dieOf f.port
  let d := match f.held.forward with
    | some dest => (some (destPorts s dest f.port), s)
    | none => bridged die f.port v (beField f.bytes 0 6) s
  match d.1 with
  | none => launchAll mirrors d.2
  | some l =>
    let info : Meta := { infoOf s f x b with yellow := decide (m = some .yellow), stream := handle, seqNo := seq }
    let r := redirectPorts d.2 l l [] d.2
    let out := portParcels r.2 die f.port info b r.1
    let h := match f.held.host with
      | some grp => hostParcel r.2 die info b grp r.2
      | none => ([], r.2)
    match f.held.flow with
    | some _ => sendOn f x v (out ++ h.1) (launchAll mirrors h.2)
    | none => launchAll (mergeParcels (out ++ mirrors ++ h.1) []) h.2

/-- The final pass of a frame: `b` holds its bytes after the pass's rewrites, `mirrors` the copies that
the pass's MIRROR makes, `m0` the colour its last Weir left. -/
def finalPass (t : Nat) (f : RFrame) (x : Parsed) (b : Bytes) (mirrors : List Parcel) (m0 : Option Colour)
    (s : State) : State :=
  let die := dieOf f.port
  let vid := vidOf s f.port b
  let v := vlanAt s vid
  if x.cls = 9 ∧ mapBit (cfg s 0x4200 2) f.port ∧ siphonLocal s (siphonRx 0 f.port x b) then
    (if badColour m0 then launchAll mirrors s else siphonTake f.port x b (launchAll mirrors s))
  else if !v.valid || !mapBit v.members f.port then count 0x2904 0xB (launchAll mirrors s)
  else
    let dmac := beField f.bytes 0 6
    let smac := beField f.bytes 6 6
    let handle := if vid = 0 ∨ 4094 < vid then none else streamOf s die vid dmac smac
    let m : Option Colour × State := match handle with
      | some h => streamMeter t die h ((pcpOf s f.port b).getD 0) m0 b f.bytes.length s
      | none => (m0, s)
    if badColour m.1 then launchAll mirrors m.2
    else
      let g := match handle with
        | some h => frerIngress h f.port m.2
        | none => (some none, m.2)
      match g.1 with
      | none => launchAll mirrors g.2
      | some seq => sendCopies f x v b mirrors handle seq m.1 (learnFrom die f.port v smac g.2)

/-! ### A pass (spec 04 R146 to R149, R157 to R162) -/

/-- The parcels of a MIRROR: the frame as received, in the frame's traffic class (R158). -/
def mirrorParcels (s : State) (f : RFrame) (x : Parsed) (dest : Nat) (b : Bytes) : List Parcel × State :=
  let info : Meta := { infoOf s f x b with vid := vidOf s f.port f.orig }
  let l := destPorts s dest f.port
  let r := redirectPorts s l l [] s
  (portParcels r.2 (dieOf f.port) f.port info f.orig r.1, r.2)

/-- A frame that MalformedAction or DepthAction sends to a host group. -/
def toGroup (f : RFrame) (x : Parsed) (flags reason g : Nat) (s : State) : State :=
  let info : Meta := { Meta.blank with
    inPort := f.port, stamp := f.stamp, hash := x.hash, cls := x.cls, rxFlags := flags, reason := reason, src := .field }
  let r := hostParcel s (dieOf f.port) info f.bytes g s
  launchAll r.1 r.2

/-- A malformed frame (R149). -/
def malformedFrame (f : RFrame) (x : Parsed) (code : Nat) (s : State) : State :=
  let s1 := raiseDie (dieOf f.port) 3
    (modCls (fun c => { c with malformedLast := beBytes 2 f.port ++ [byteOf code, byteOf (dieOf f.port)] })
      (countQ 0x2803 code 1 (some f.port) none none s))
  if cfgN s 0x2801 5 = 1 then toGroup f x 8 code (cfgN s 0x2801 6) s1 else s1

/-- A held field that a later pass sets replaces the earlier (R160). -/
def heldBy (a : Bytes) (h : Held) : Held where
  forward := if actHas a 1 then some (actDest a) else h.forward
  host := if actHas a 2 then some (actGroup a) else h.host
  tc := if actHas a 5 then some (actTc a) else h.tc
  flow := if actHas a 12 then some (actFlow a) else h.flow

/-- The rule counter of an action (R159). -/
def ruleCount (die len : Nat) (a : Bytes) (s : State) : State :=
  if actHas a 11 then
    let k := ruleCounterKey die (actCounter a)
    modCls (fun c => { c with
      ruleFrames := Tab.upd 0 c.ruleFrames k (fun n => (n + 1) % 2 ^ 64)
      ruleBytes := Tab.upd 0 c.ruleBytes k (fun n => (n + len) % 2 ^ 64) }) s
  else s

/-- The recirculation queue of a pipe. -/
def recircOf (s : State) (pipe : Nat) : List RFrame := Tab.get [] s.cls.recirc pipe

/-- The frame goes to the recirculation queue of its pipe for one more pass, or takes RecircOverflowAction (R160,
R162). -/
def recirculate (t : Nat) (f : RFrame) (x : Parsed) (a b : Bytes) (mirrors : List Parcel) (m : Option Colour)
    (s : State) : State :=
  let pipe := pipeOf f.port
  if badColour m then launchAll mirrors s
  else if (recircOf s pipe).length < 16 then
    let s1 := launchAll mirrors s
    modCls (fun y => { y with recirc := Tab.set [] y.recirc pipe (recircOf s1 pipe ++
      [{ f with bytes := b, pass := f.pass + 1, tag := actTag a, metered := m.map (fun c => decide (c = .yellow)) }]) }) s1
  else
    let s1 := count 0x2802 3 s
    if cfgN s 0x2801 0xA = 1 then finalPass t f x b mirrors m s1 else launchAll mirrors s1

/-- The actions of a pass; a frame without a matching rule has none (R154). -/
def passActions (t : Nat) (f : RFrame) (x : Parsed) (a : Bytes) (s : State) : State :=
  let die := dieOf f.port
  let m0 : Option Colour := f.metered.map (fun y => if y then .yellow else .green)
  let m : Option Colour × State := if actHas a 4 then meterAs t die (actWeir a) m0 f.bytes f.bytes.length s else (m0, s)
  let s1 := ruleCount die f.bytes.length a m.2
  let b := rewrite s f.port a f.bytes
  let f1 := { f with held := heldBy a f.held }
  let mir := if actHas a 3 && !badColour m.1 then mirrorParcels s1 f1 x (actMirror a) b else ([], s1)
  let again := actHas a 13 && !actHas a 0
  if actHas a 0 then launchAll mir.1 mir.2
  else if again && decide (f.pass < 2) then recirculate t f1 x a b mir.1 m.1 mir.2
  else finalPass t f1 x b mir.1 m.1 (if again then count 0x2802 2 mir.2 else mir.2)

/-- One pass of a frame through its ingress pipe. -/
def onePass (t : Nat) (f : RFrame) (s : State) : State :=
  let x := parseFrame s f.bank f.port f.pass f.tag f.stamp f.bytes
  let deep := x.flags.testBit fDepth
  let s1 := if deep && !f.counted then count 0x2802 1 s else s
  let f1 := { f with counted := f.counted || deep }
  match x.fin with
  | some (.malformed c) => malformedFrame f1 x c s1
  | some .depth =>
    if cfgN s 0x2801 3 = 1 then s1
    else if cfgN s 0x2801 3 = 2 then toGroup f1 x (4 + 16) 0 (cfgN s 0x2801 4) s1
    else passActions t f1 x ((matchRule (bankAt s f.bank) x).getD (zeros 32)) s1
  | none =>
    let mine := (ptpAt x).isSome && ptpMine s f.port x
    if fdpTaken s f.port x f.bytes then s1
    else if mine && !ptpThrough s f.port x then ptpTake f.port x f.bytes s1
    else
      passActions t f1 x ((matchRule (bankAt s f.bank) x).getD (zeros 32))
        (if mine then ptpTake f.port x f.bytes s1 else s1)

/-! ### The clocks of a pipe (spec 01 R36, 04 R162, R163) -/

/-- Clocks of its ingress pipe that a frame takes (R36). -/
def pipeClocks (b : Bytes) : Nat := ceilDiv (b.length + 4) 192

/-- The clocks a pipe has given in the present interval of 640. -/
def pipeUse (s : State) (pipe : Nat) : PipeUse :=
  let u := Tab.get PipeUse.reset s.cls.pipes pipe
  let slot := s.clock / 781250 / 640
  if u.slot = slot then u else { slot := slot, first := 0, recirc := 0 }

def setPipeUse (pipe : Nat) (u : PipeUse) (s : State) : State :=
  modCls (fun c => { c with pipes := Tab.set PipeUse.reset c.pipes pipe u }) s

def waitingOf (s : State) (pipe : Nat) : List RFrame := Tab.get [] s.cls.waiting pipe
def setWaiting (pipe : Nat) (l : List RFrame) (s : State) : State :=
  modCls (fun c => { c with waiting := Tab.set [] c.waiting pipe l }) s

/-- Has the pipe clocks for a first pass? Without recirculated frames it always has (R37; log entry 114). -/
def pipeFits (s : State) (pipe : Nat) (b : Bytes) : Bool :=
  let u := pipeUse s pipe
  decide (u.recirc = 0) || decide (u.first + u.recirc + pipeClocks b ≤ 640)

/-- A frame makes its first pass, with the bank active on its die then (R164). -/
def firstPass (t : Nat) (f : RFrame) (s : State) : State :=
  let pipe := pipeOf f.port
  let u := pipeUse s pipe
  onePass t { f with bank := s.cls.active } (setPipeUse pipe { u with first := u.first + pipeClocks f.bytes } s)

/-- Frames that wait in the receive buffers of a pipe's ports make their first pass while the pipe has clocks. -/
def runWaiting (t pipe : Nat) : List RFrame → State → State
  | [], s => s
  | f :: rest, s =>
    if pipeFits s pipe f.bytes then runWaiting t pipe rest (firstPass t f (setWaiting pipe rest s)) else s

/-- A received frame makes its first pass, or waits in its port's receive buffer; one that finds the buffer full is
discarded (R163). -/
def intoPipe (t : Nat) (f : RFrame) (s0 : State) : State :=
  let pipe := pipeOf f.port
  let s := runWaiting t pipe (waitingOf s0 pipe) s0
  let l := waitingOf s pipe
  let held := ((l.filter (fun g => decide (g.port = f.port))).map (fun g => g.bytes.length + 4)).sum
  if decide (l = []) && pipeFits s pipe f.bytes then firstPass t f s
  else if Config.rxBuffer < held + f.bytes.length + 4 then count 0x2806 (pipe + 1) s
  else setWaiting pipe (l ++ [f]) s

/-! ### The MAC (spec 03 R102, R104) -/

/-- Units of 2^-16 ns, of the time base, that `n` bytes take on a port's wire. -/
def wireUnits (s : State) (port n : Nat) : Nat :=
  n * psPerByte s port * 65536 * ((10 ^ 12 : Int) + s.time.rate).toNat / 10 ^ 15

/-- The ingress timestamp of a frame whose last bit arrives now. -/
def ingressStamp (port len : Nat) (s : State) : Nat × State :=
  let e := stampNow s
  (((e.1 : Int) - wireUnits s port len + cfgI s (0x2000 + port) 6 * 65536 / 1000).toNat, e.2)

/-- The receive checks: what a frame is counted as, none for a frame that is accepted. -/
def rxVerdict (s : State) (port : Nat) (b : Bytes) (fcsOk : Bool) : Option Nat :=
  let len := b.length + 4
  if !fcsOk then some 0x24
  else if len < 64 then some 0x25
  else if maxFrameSize s port < len then some 0x26
  else if beField b 12 2 = 0x8808 then some 0x27
  else if !portUp s port then some 0x2F
  else none

/-- A port receives while its lanes are in use. -/
def portReceives (s : State) (port : Nat) : Bool :=
  decide ((s.port port).link ≠ .disabled) && decide ((s.port port).link ≠ .outOfService) && s.boot.fieldUp

/-- A whole frame at a port. -/
def receiveFrame (t port : Nat) (b : Bytes) (fcsOk : Bool) (s : State) : State :=
  if !portReceives s port then s
  else match rxVerdict s port b fcsOk with
  | some k => countPort port k 1 s
  | none =>
    let len := b.length + 4
    let r := ingressStamp port len (countPort port 0x21 len (countPort port 0x20 1 s))
    let k := ticket r.2
    intoPipe t { port := port, stamp := r.1, bytes := b, bank := s.cls.active, pass := 0, tag := 0
                 held := { forward := none, host := none, tc := none, flow := none }, counted := false
                 metered := none, orig := b, frame := k.1 + 1 } k.2

/-- FRAME_RECEIVE (R102). -/
def execFrameReceive (t port : Nat) (bytes : Bytes) (fcsOk : Bool) (s : State) : Host.Outcome State Fault Refusal :=
  .next (if port < 512 then receiveFrame t port bytes fcsOk (advance t s) else advance t s)

/-- PTP_MESSAGE (R109, R110): a frame that is a PTP message; any other is FRAME_RECEIVE's. -/
def ptpMessage (t port : Nat) (b : Bytes) (s : State) : State :=
  let x := parseFrame s s.cls.active port 0 0 0 b
  if (ptpAt x).isSome then receiveFrame t port b true s else s

def execPtpMessage (t port : Nat) (bytes : Bytes) (s : State) : Host.Outcome State Fault Refusal :=
  .next (if port < 512 then ptpMessage t port bytes (advance t s) else advance t s)

/-- RECIRC_PASS (R160, R162): the oldest frame of the pipe's recirculation queue makes its next pass, if the pipe's
share of 64 clocks in 640 has room for it; frames that wait for a first pass go after it. -/
def recircPass (t pipe : Nat) (s : State) : State :=
  let u := pipeUse s pipe
  let s1 := match recircOf s pipe with
    | [] => s
    | f :: rest =>
      if u.recirc + pipeClocks f.bytes ≤ 64 then
        onePass t f (modCls (fun c => { c with recirc := Tab.set [] c.recirc pipe rest })
          (setPipeUse pipe { u with recirc := u.recirc + pipeClocks f.bytes } s))
      else s
  runWaiting t pipe (waitingOf s1 pipe) s1

def execRecircPass (t pipe : Nat) (s : State) : Host.Outcome State Fault Refusal :=
  .next (recircPass t pipe (advance t s))

/-! ### Arrival at a die (spec 03 R101, R121, 07 R244 to R250, 05 R178, 08 R282) -/

/-- The egress edits of a copy: the tag of the port's type, DEI of a yellow frame, the R-tag. -/
def editCopy (s : State) (port tc : Nat) (info : Meta) (b : Bytes) : Bytes :=
  if !info.edit then b
  else
    let ty := tagType s port
    let b1 := match tagAt 8 ty b 12 with
      | some o => if mapBit (vlanAt s info.vid).untagged port then popTag o b else b
      | none => if mapBit (vlanAt s info.vid).untagged port then b
        else pushTag ty (tc % 8 * 8192 + info.vid % 4096) b
    let b2 := if info.yellow then
        (match outerTag b1 with
          | some (_, tci) => setTci (bitSet tci 12) b1
          | none => b1)
      else b1
    match info.seqNo with
    | some n => putRtag n b2
    | none => b2

/-- What becomes of one port copy at its die: kept, on to the backup's die, or discarded. -/
inductive Arrive where
  | keep (port tc : Nat) (primary : Option Nat)
  | move (port tc primary : Nat)
  | drop
deriving DecidableEq, Repr

/-- The redirect at egress enqueue and the checks of R101 and R121. -/
def arriveCopy (die : Nat) (e : Nat × Nat × Option Nat) (s : State) : Arrive × State :=
  let p := e.1
  match e.2.2 with
  | some prim =>
    if (s.port p).redirect || !portUp s p then (.drop, countPort prim 0x2D 1 s) else (.keep p e.2.1 (some prim), s)
  | none =>
    if (s.port p).redirect then
      let b := backupPort s p
      if (s.port b).redirect || !portUp s b then (.drop, countPort p 0x2D 1 s)
      else if dieOf b = die then (.keep b e.2.1 (some p), s)
      else (.move b e.2.1 p, s)
    else if !portUp s p then (.drop, countPort p 0x2B 1 s)
    else (.keep p e.2.1 none, s)

/-- All copies of a parcel in turn. -/
def arriveAll (die : Nat) : List (Nat × Nat × Option Nat) → State → List Arrive × State
  | [], s => ([], s)
  | e :: rest, s =>
    let r := arriveCopy die e s
    let q := arriveAll die rest r.2
    (r.1 :: q.1, q.2)

/-- The port copies of a parcel are stored once and enqueued. A transmit entry without TSREQ is done
with this, one with TSREQ only when its frame is lost (spec 11 R370). -/
def arrivePorts (t : Nat) (p : Parcel) (s : State) : State :=
  let r := arriveAll p.dst p.ports s
  let keep := r.1.filterMap (fun a => match a with
    | .keep q tc prim => some (q, tc, prim)
    | .move _ _ _ => none
    | .drop => none)
  let move := r.1.filterMap (fun a => match a with
    | .move q tc prim => some (q, tc, prim)
    | .keep _ _ _ => none
    | .drop => none)
  let s1 := forEach move (fun e => launch { p with
    src := p.dst, dst := dieOf e.1, bulk := !queueScheduled s e.1 e.2.1, ports := [(e.1, e.2.1, some e.2.2)] }) r.2
  let s2 := if keep = [] then s1
    else
      let len := p.bytes.length + 4
      match storeCopies p.dst (pipeOf (keep.headD (0, 0, none)).1 % 4) p.owner p.info.frame p.bytes keep.length s1 with
      | (none, st) => txLost p.info.src st
      | (some sid, st) =>
        forEach keep (fun e => enqueueCopy t e.1 e.2.1 sid (cellsOf len) p.info (editCopy s e.1 e.2.1 p.info p.bytes)) st
  match p.info.src with
  | .hostTx fn q idx =>
    if (move = [] ∧ keep = []) ∨ (move = [] ∧ !wantsStamp s fn q idx) then txDone fn q idx none s2 else s2
  | .field => s2
  | .siphon _ _ => s2
  | .firmware => s2
  | .detached => s2

/-- Cells a queue's received frames hold on a die (spec 07 R250). -/
def queueCells (s : State) (die fn q : Nat) : Nat :=
  ((hostFrames s fn q).map (fun h => match h.place with
    | .fd d _ n => if d = die then n else 0
    | .md _ => 0
    | .notice => 0)).sum

/-- Does a frame of the queue take the overflow path: while frames of it wait in an overflow region, or in the clock
in which the last of them is delivered? Such a frame does not keep the queue on that path (R250, R257; log entry
119). -/
def inOverflow (s : State) (fn q : Nat) : Bool :=
  let done := (s.queue fn q).ovfEnd
  decide (clockOf s.clock + 1 = done) || (hostFrames s fn q).any (fun h => match h.place with
    | .md _ => decide (clockOf h.enq + 1 ≠ done)
    | .fd _ _ _ => false
    | .notice => false)

/-- Bytes the frames of a memory die's overflow region hold. -/
def overflowBytes (s : State) (md : Nat) : Nat :=
  ((s.buf.hostQ.flatMap (·.2)).map (fun h => match h.place with
    | .md d => if d = md then h.bytes.length + 4 else 0
    | .fd _ _ _ => 0
    | .notice => 0)).sum

/-- Depth of a receive queue in cells: on the field dies, and what its overflow frames would take. -/
def hostDepth (s : State) (fn q : Nat) : Nat :=
  ((hostFrames s fn q).map (fun h => match h.place with
    | .fd _ _ n => n
    | .md _ => cellsOf (h.bytes.length + 4)
    | .notice => 0)).sum

/-- A received frame joins its queue. -/
def holdFrame (t fn q : Nat) (place : HPlace) (info : Meta) (b : Bytes) (s : State) : State :=
  let s1 := setHostFrames fn q (hostFrames s fn q ++ [{ place := place, info := info, bytes := b, enq := t }]) s
  trackHost fn q (fun x => { x with depth := max x.depth (hostDepth s1 fn q) }) s1

/-- A host copy at its ingress die (R349, spec 07 R250, 01 R32). -/
def arriveHost (t : Nat) (p : Parcel) (e : Nat × Nat) (s : State) : State :=
  let fn := e.1
  let q := e.2
  let n := cellsOf (p.bytes.length + 4)
  let lost := trackHost fn q (fun x => { x with discarded := satAdd32 x.discarded 1 })
  if !hostTakes s fn q then hostRefuses fn (lost s)
  else if inOverflow s fn q || decide (cfgN s 0x2B00 4 < queueCells s p.dst fn q + n) then
    let md := q % 2
    if culvDown s (mdCulvert p.dst md) then s
    else if !dieServes s (4 + md) || decide (s.buf.overflowMiB * 1048576 < overflowBytes s md + p.bytes.length + 4) then count 0x2B05 6 (lost s)
    else count 0x2B05 5 (holdFrame t fn q (.md md) p.info p.bytes s)
  else match admitFrame p.dst (pipeOf p.info.inPort % 4) p.owner (p.bytes.length + 4) 1 s with
    | (none, st) => lost st
    | (some sid, st) => holdFrame t fn q (.fd p.dst sid n) p.info p.bytes st

/-- FRAME_ENQUEUE (R245): the parcel with this ticket arrives, once nothing must arrive before it. -/
def frameEnqueue (t ticket : Nat) (fault : BufFault) (s : State) : State :=
  match s.buf.transit.find? (fun p => decide (p.ticket = ticket) && isNext s p) with
  | none => s
  | some p =>
    let s1 := bufFaultAt p.dst fault
      (modBuf (fun b => { b with transit := b.transit.filter (fun q => decide (q.ticket ≠ ticket)) }) s)
    let s2 := if p.ports = [] then s1 else arrivePorts t p s1
    forEach p.hosts (arriveHost t p) s2

def execFrameEnqueue (t ticket : Nat) (fault : BufFault) (s : State) : Host.Outcome State Fault Refusal :=
  .next (frameEnqueue t ticket fault (advance t s))

/-- The frame carries the oldest dictionary message that waits for its port, if its payload is that message
(spec 02 R70; what the firmware puts before it is not given). -/
def takeOutbox (port : Nat) (b : Bytes) (s : State) : State :=
  match s.dict.outbox.find? (fun m => decide (m.port = port)) with
  | none => s
  | some m =>
    if b.drop (b.length - m.msg.length) = m.msg then modDict (fun d => { d with outbox := d.outbox.erase m }) s
    else s

/-- INJECTION_FRAME (spec 08 R265, 15 R530, 02 R70). While the cores are down only a message that was sent before they
stopped comes through. -/
def injectionFrame (t port : Nat) (b : Bytes) (s0 : State) : State :=
  let s := takeOutbox port b s0
  let p := s.psched port
  let len := b.length + 4
  let sent := decide (s.dict.outbox.length < s0.dict.outbox.length)
  if (!s.boot.coresUp && !sent) || !s.boot.fieldUp || !portExists s port then s
  else if 64 ≤ p.inject.length then count 0x1430 3 s
  else if !portUp s port then countPort port 0x2B 1 s
  else if maxFrameSize s port < len then s
  else match admitFrame (dieOf port) (pipeOf port % 4) ownerFirmware len 1 s with
    | (none, st) => st
    | (some sid, st) =>
      st.setPsched port { st.psched port with inject := (st.psched port).inject ++
        [{ sid := sid, info := Meta.blank, bytes := b, len := len, cells := cellsOf len, enq := t
           stamped := false, fs := 0, ff := 0 }] }

def execInjectionFrame (t port : Nat) (bytes : Bytes) (s : State) : Host.Outcome State Fault Refusal :=
  .next (if port < 512 then injectionFrame t port bytes (advance t s) else advance t s)

/-! ### Selection and the egress pipeline (spec 08 R262, R263, 03 R105, R110, R111, R129 to R131) -/

/-- The UDP checksum of a frame computed again, unless it is 0 over IPv4. -/
def fixUdp (x : Parsed) (b : Bytes) : Bytes :=
  match headerAt x.prv 7 with
  | none => b
  | some u =>
    let six := decide (byteAt x.prv 0xC0 = 6)
    let raw := fun (o : Nat) => if six then slice x.prv o 16 else slice x.prv (o + 12) 4
    if beField b (u + 6) 2 = 0 ∧ !six then b
    else
      let z := splice b (u + 6) [0, 0]
      let c := 0xFFFF - udpSum six (raw 0xD0) (raw 0xE0) (slice z u (beField z (u + 4) 2))
      splice z (u + 6) (beBytes 2 (if c = 0 then 0xFFFF else c))

/-- The ten bytes of a PTP timestamp. -/
def ptpStamp (stamp : Nat) : Bytes := beBytes 6 (stamp / unitsPerSec) ++ beBytes 4 (stamp / 65536 % 1000000000)

/-- Is a frame the instance's own Sync? -/
def ptpSync (src : FrameSrc) (b : Bytes) (o : Nat) : Bool := decide (src = .firmware) && decide (byteAt b o % 16 = 0)

/-- What the egress pipeline writes into a PTP message: the residence time of a forwarded event message (R109,
R110), or the origin timestamp of the instance's own Sync (R111). -/
def ptpEgress (s : State) (info : Meta) (stamp : Nat) (b : Bytes) : Bytes :=
  let x := parseFrame s s.cls.active 0 0 0 0 b
  match ptpAt x with
  | none => b
  | some o =>
    if info.ptpOther then
      let c := (beField b (o + 8) 8 + stamp + 2 ^ 64 - info.stamp) % 2 ^ 64
      fixUdp x (splice b (o + 8) (beBytes 8 c))
    else if ptpSync info.src b o && decide (cfgN s 0x1202 0xA = 1) then fixUdp x (splice b (o + 34) (ptpStamp stamp))
    else b

/-- The Follow_Up of a Sync that left at `stamp` with OneStep 0 (R111): the Sync's frame as a message of type 8 with
control field 2, to UDP port 320, with the precise timestamp (PRESUMED, IEEE 1588; log entry 113). -/
def followUp (s : State) (info : Meta) (stamp : Nat) (b : Bytes) : Option Bytes :=
  let x := parseFrame s s.cls.active 0 0 0 0 b
  match ptpAt x with
  | none => none
  | some o =>
    if ptpSync info.src b o && decide (cfgN s 0x1202 1 ≠ 0 ∧ cfgN s 0x1202 0xA = 0) then
      let b1 := splice (splice (splice b o [byteOf (byteAt b o / 16 * 16 + 8)]) (o + 32) [2]) (o + 34) (ptpStamp stamp)
      some (fixUdp x (match headerAt x.prv 7 with
        | some u => splice b1 (u + 2) (beBytes 2 320)
        | none => b1))
    else none

/-- The egress timestamp of a frame whose first bit reaches the balls at elapsed time `start`. -/
def egressStamp (port start : Nat) (s : State) : Nat × State :=
  let e := drawStampError s
  ((((timeAt s start + wireUnits s port 8 : Nat) : Int) + e.1 + cfgI s (0x2000 + port) 7 * 65536 / 1000).toNat, e.2)

/-- FRER recovery of a selected frame: does it pass, and its bytes then (R129 to R131). -/
def frerEgress (port : Nat) (info : Meta) (b : Bytes) (s : State) : Bool × Bytes × State :=
  match info.stream with
  | none => (true, b, s)
  | some h =>
    let x := s.frerAt h
    if x.mode ≠ 2 ∨ x.port ≠ port then (true, b, s)
    else
      let r := frerRecover h ((rtagAt b).map (fun o => beField b (o + 4) 2)) s
      (r.1, if x.strip then dropRtag b else b, r.2)

/-- Does a frame start before all its data must be in the buffer: cut-through, beyond the first 512 bytes (R274)? -/
def startsCut (s : State) (port : Nat) (pick : Option Nat × QFrame) : Bool :=
  match pick.1 with
  | none => false
  | some tc => cutThrough s port tc && decide (512 < pick.2.bytes.length + 4)

/-- TX_SELECT (R262): the port starts the frame that is due. -/
def txSelect (t port : Nat) (s : State) : State :=
  let start := t + selectLead
  if start < (s.psched port).wireEnd then s
  else match portPick s port start with
  | none => s
  | some pick =>
    let f := pick.2
    let s1 := dequeuePick port t start pick s
    let gone := fun st => releaseCopy f.sid (some (pipeOf port % 4)) st
    if !portUp s port then txLost f.info.src (gone (countPort port 0x2B 1 s1))
    else
      let r := frerEgress port f.info f.bytes s1
      let slot := fun (b : Bytes) (st : State) => st.setPsched port { st.psched port with
        wireEnd := start + (b.length + 24) * psPerByte s port * 1000 }
      if !r.1 then gone (slot f.bytes r.2.2)
      else
        let e := egressStamp port start r.2.2
        let b := ptpEgress e.2 f.info e.1 r.2.1
        let s2 := slot b e.2
        s2.setPsched port { s2.psched port with sending := (s2.psched port).sending ++
          [{ frame := { f with bytes := b }, tc := pick.1, start := start, egress := e.1, drop := false
             cut := startsCut s port pick }] }

def execTxSelect (t port : Nat) (s : State) : Host.Outcome State Fault Refusal :=
  .next (if port < 512 then txSelect t port (advance t s) else advance t s)

/-- A frame has left the port, whole or with an inverted FCS. -/
def frameSent (port : Nat) (x : TxFrame) (bad : Bool) (s : State) : State :=
  let len := x.frame.bytes.length + 4
  let s1 := countPort port 0x23 len (countPort port 0x22 1 (emit (.frame port x.frame.bytes bad) s))
  let s2 := match x.tc with
    | none => s1
    | some tc => queueCount port tc 1 len (queueCount port tc 0 1 s1)
  match x.frame.info.src with
  | .hostTx fn q idx => txDone fn q idx (some x.egress) s2
  | .field => s2
  | .siphon _ _ => s2
  | .detached => s2
  | .firmware =>
    match followUp s2 x.frame.info x.egress x.frame.bytes with
    | some b => injectionFrame s2.clock port b s2
    | none => s2

/-- FRAME_TX_COMPLETE (spec 07 R244, R252, 08 R274): the oldest frame on the wire has left. -/
def frameTxComplete (port : Nat) (fault : BufFault) (s : State) : State :=
  let p := s.psched port
  match p.sending with
  | [] => s
  | x :: rest =>
    let die := dieOf port
    let pipe := some (pipeOf port % 4)
    let s1 := s.setPsched port { p with sending := rest }
    let sid := x.frame.sid
    match fault with
    | .data => txLost x.frame.info.src (releaseCopy sid pipe (eccError die s1))
    | .link place => txLost x.frame.info.src (linkError sid place pipe (dropCopies die sid s1))
    | .underrun =>
      releaseCopy sid pipe (frameSent port x x.cut (if x.cut then underrunCount port s1 else s1))
    | .clean => releaseCopy sid pipe (frameSent port x false s1)
    | .corrected => releaseCopy sid pipe (frameSent port x false (bufFaultAt die fault s1))
    | .badFree _ _ => releaseCopy sid pipe (frameSent port x false (bufFaultAt die fault s1))
    | .freeWord _ _ => releaseCopy sid pipe (frameSent port x false (bufFaultAt die fault s1))
    | .tag _ => releaseCopy sid pipe (frameSent port x false (bufFaultAt die fault s1))

def execFrameTxComplete (t port : Nat) (fault : BufFault) (s : State) : Host.Outcome State Fault Refusal :=
  .next (if port < 512 then frameTxComplete port fault (advance t s) else advance t s)

/-! ### Host transmit across polders (spec 08 R285, R286) -/

def hostWeight (s : State) (fn : Nat) : Nat := cfgN s (0x3000 + fn) 0xA
def hostClass (s : State) (fn : Nat) : Nat := cfgN s (0x3000 + fn) 0xC

/-- The frame a polder sends next: its queues take turns, ascending from the one after the last. -/
def htxHead (x : HtxSched) (fn : Nat) : Option HtxFrame :=
  let last := Tab.get 1024 x.turn fn
  let rank := fun (f : HtxFrame) => if last < f.q ∨ last = 1024 then f.q else f.q + 1024
  match x.frames.filter (fun f => decide (f.fn = fn)) with
  | [] => none
  | a :: rest => some (rest.foldl (fun best f => if rank f < rank best then f else best) a)

def htxWfq (x : HtxSched) : Wfq := { v := x.v, fprev := x.fprev, fvalid := x.fvalid, heads := x.heads }
def setHtxWfq (w : Wfq) (x : HtxSched) : HtxSched :=
  { x with v := w.v, fprev := w.fprev, fvalid := w.fvalid, heads := w.heads }

/-- Stamps the frame a polder sends next. -/
def htxStamp (s : State) (fn : Nat) (x : HtxSched) : HtxSched :=
  match htxHead x fn with
  | none => x
  | some f => setHtxWfq ((htxWfq x).stamp fn (f.bytes.length + 24) (hostWeight s fn)) { x with next := Tab.ins x.next fn f }

/-- The frame of a polder that has its stamp. -/
def htxNext (x : HtxSched) (fn : Nat) : Option HtxFrame := (x.next.find? (fun e => decide (e.1 = fn))).map (·.2)

/-- The frames of a polder that `p` picks leave its scheduler; a head that has its stamp gives it back (R266). -/
def htxDrop (s : State) (fn : Nat) (p : Nat → Bool) (x : HtxSched) : HtxSched :=
  let gone : HtxFrame → Bool := fun f => decide (f.fn = fn) && p f.q
  let x1 : HtxSched := { x with frames := x.frames.filter (fun f => !gone f) }
  match htxNext x fn with
  | none => x1
  | some f =>
    if !gone f then x1
    else
      let x2 : HtxSched := { x1 with
        fprev := Tab.set 0 x1.fprev fn (Tab.get (0, 0) x1.heads fn).1
        fvalid := Tab.set false x1.fvalid fn true
        heads := Tab.del x1.heads fn
        next := Tab.del x1.next fn }
      htxStamp s fn x2

/-- A fetched frame joins the scheduler of its die. -/
def htxWait (f : HtxFrame) (s : State) : State :=
  let x := s.htx f.die
  let first := !x.frames.any (fun g => decide (g.fn = f.fn))
  let x1 := { x with frames := x.frames ++ [f] }
  s.setHtx f.die (if first then htxStamp s f.fn x1 else x1)

/-- The polder whose head goes next: class 1 first, then the smallest finish time; the lower number
of equals. -/
def htxPick (s : State) (x : HtxSched) : Option Nat :=
  let of := fun c => smallestF ((x.heads.filter (fun e => decide (hostClass s e.1 = c))).map (fun e => (e.1, e.2.2)))
  match of 1 with
  | some n => some n
  | none => of 0

/-- HOST_TX_SELECT (R285). -/
def hostTxSelect (die : Nat) (s : State) : State :=
  let x := s.htx die
  match htxPick s x with
  | none => s
  | some fn =>
    match htxNext x fn with
    | none => s
    | some f =>
      let x1 : HtxSched := { x with frames := x.frames.erase f, turn := Tab.ins x.turn fn f.q, next := Tab.del x.next fn }
      let busy : Nat → Bool := fun n => x1.frames.any (fun g => decide (g.fn = n))
      let x2 : HtxSched := setHtxWfq ((htxWfq x1).select fn true busy) x1
      let x3 : HtxSched := if busy fn then htxStamp s fn x2 else x2
      launch { ticket := 0, src := 4, dst := die, bulk := !queueScheduled s f.port f.tc
               owner := (s.polder fn).owner.getD 0xFFF
               info := { Meta.blank with tc := f.tc, src := .hostTx fn f.q f.idx }
               bytes := f.bytes, ports := [(f.port, f.tc, none)], hosts := [] } (s.setHtx die x3)

def execHostTxSelect (t die : Nat) (s : State) : Host.Outcome State Fault Refusal :=
  .next (if die < 4 then hostTxSelect die (advance t s) else advance t s)

/-! ### Latency samples (spec 08 R287 to R289, 11 R377) -/

/-- The enabled SAMPLE queue of a polder. -/
def sampleRing (s : State) (fn : Nat) : Option Nat :=
  (List.range (s.polder fn).counts.queues).find? (fun q =>
    decide (qKind (s.queue fn q) = kSAMPLE) && decide ((s.queue fn q).st = .enabled))

/-- What a sample shows of its queue. -/
structure Sample where
  kind : Nat
  flags : Nat
  who : Nat
  what : Nat
  cells : Nat
  frames : Nat
  head : Nat
  track : Track
deriving DecidableEq, Repr

/-- The 64 bytes of Table 8.7. -/
def sampleBytes (s : State) (x : Sample) (phase seq : Nat) : Bytes :=
  [byteOf (x.kind + 128 * phase), byteOf x.flags] ++ leBytes 2 x.who ++ leBytes 2 x.what ++ leBytes 2 x.track.lost
  ++ time96Host (timeNow s) ++ leBytes 4 x.cells ++ leBytes 4 x.frames ++ leBytes 4 x.head
  ++ leBytes 4 x.track.sojourn ++ leBytes 4 x.track.depth ++ leBytes 4 x.track.dequeued
  ++ leBytes 4 x.track.discarded ++ leBytes 4 x.track.marked ++ leBytes 4 seq ++ zeros 8

/-- Writes a record to the ring of polder `fn`: written or lost. -/
def writeSample (fn : Nat) (x : Sample) (s : State) : Bool × State :=
  match sampleRing s fn with
  | none => (false, s)
  | some q =>
    let y := s.queue fn q
    if ringFull y then (false, s.setQueue fn q { y with dropped := satAdd16 y.dropped 1 })
    else
      let addr := qBase y + 64 * y.tail
      if requestRefused s fn q addr 64 then (false, refuseRequest fn q y.tail [] s)
      else
        (true, moderate fn q (dmaWrite (queueReq s fn q) addr (sampleBytes s x (phaseBit y) y.sampleSeq)
          (s.setQueue fn q { advanceTail y with sampleSeq := (y.sampleSeq + 1) % 2 ^ 32 })))

/-- The track after a record was written or lost. -/
def trackNext (written : Bool) (x : Track) : Track :=
  if written then Track.reset else { x with lost := satAdd16 x.lost 1 }

/-- A sample of a port queue. -/
def samplePort (t port tc : Nat) (s : State) : State :=
  let p := s.psched port
  let l := portQueue p tc
  let x : Sample :=
    { kind := 1
      flags := boolNat (queueScheduled s port tc) + 2 * boolNat ((gatesAt p (timeNow s)).testBit tc)
        + 4 * boolNat (shaperHolds s port tc t) + 8 * boolNat (!portUp s port)
      who := port, what := tc, cells := depthCells l, frames := l.length
      head := (l.head?.map (fun f => sojournNs t f.enq)).getD 0
      track := Tab.get Track.reset p.track tc }
  let r := writeSample 0 x s
  r.2.setPsched port { r.2.psched port with track := Tab.upd Track.reset (r.2.psched port).track tc (trackNext r.1) }

/-- The cells a host queue holds and when each of its frames was enqueued (R287): of a receive queue, those that
wait for it; of a transmit queue, its frames that field dies hold. -/
def hostHeld (s : State) (fn q : Nat) : Nat × List Nat :=
  if qKind (s.queue fn q) = kTX then (depthCells (txFrames s fn q), (txFrames s fn q).map (·.enq))
  else (hostDepth s fn q, (hostFrames s fn q).map (·.enq))

/-- A sample of a host queue. -/
def sampleHost (t fn q : Nat) (s : State) : State :=
  let l := hostHeld s fn q
  let x : Sample :=
    { kind := 2, flags := 0, who := fn, what := q, cells := l.1, frames := l.2.length
      head := (l.2.min?.map (sojournNs t)).getD 0, track := (s.queue fn q).track }
  let r := writeSample fn x s
  r.2.setQueue fn q { r.2.queue fn q with track := trackNext r.1 (r.2.queue fn q).track }

/-- SAMPLE_PERIOD_EXPIRY (R288). -/
def execSamplePeriodExpiry (t : Nat) (src : SampleSrc) (s : State) : Host.Outcome State Fault Refusal :=
  let s1 := advance t s
  .next (match src with
    | .port port tc =>
      if port < 512 ∧ tc < 8 ∧ samplePeriod s1 port tc ≠ 0 then samplePort t port tc s1 else s1
    | .host fn q =>
      if fn < 4096 ∧ q < 1024 ∧ qSamplePeriod (s1.queue fn q) ≠ 0 ∧ (s1.queue fn q).st ≠ .disabled then
        sampleHost t fn q s1
      else s1)

end Sys2Proof.Machine
end

