-- ==== Sys2Proof/Machine/Siphon.lean ====
section
/-! DEFINITION. The Siphon engine (spec 13), first half: regions, channels, packets and their sending,
congestion control, and the entries of SIPHON queues. -/

namespace Sys2Proof.Machine

/-! ### Entries (spec 13 Table 13.6) -/

def sChan (e : Bytes) : Nat := leField e 16 2
def sRegion (e : Bytes) : Nat := leField e 16 4
def sDataLen (e : Bytes) : Nat := leField e 20 4
def sDataAddr (e : Bytes) : Nat := leField e 24 8

/-- Length of an opcode's entry, and whether its address must be 0. -/
def sEntryLen (op : Nat) : Nat :=
  match op with
  | 0x20 => 32
  | 0x21 => 32
  | 0x22 => 32
  | 0x23 => 80
  | 0x24 => 1
  | 0x28 => 128
  | 0x29 => 128
  | 0x2A => 32
  | 0x2B => 1
  | _ => 0

/-- KIND_WORDS of a SIPHON queue (R437). -/
def siphonContextOk (x : Queue) : Bool := (List.range 8).all (fun i => decide (qWord x (8 + i) = 0))

/-- The reasons of an entry of a SIPHON queue (spec 11 Table 11.6, 13 R437). -/
def siphonReasons (s : State) (fn : Nat) (e : Bytes) : List Nat :=
  let op := eOpcode e
  let c := (s.polder fn).counts
  let noAddr := decide (op = 0x24 ∨ op = 0x2B)
  (if sEntryLen op = 0 then [1] else [])
  ++ (if op = 0x2A ∨ op = 0x2B then reserved e 20 12
      else if op = 0x23 then reserved e 18 2 else reserved e 18 14)
  ++ (if !(eFirst e && eLast e) || decide (eLength e ≠ sEntryLen op) || (noAddr && decide (eAddr e ≠ 0)) then [9]
      else [])
  ++ (if op = 0x2A ∨ op = 0x2B then (if c.regions ≤ sRegion e then [8] else [])
      else (if c.channels ≤ sChan e then [8] else []))
  ++ (if noAddr then []
      else if op = 0x29 then (if outside s fn 1 (eAddr e) 128 then [7] else [])
      else if op = 0x23 then
        (if outside s fn 0 (eAddr e) 80 || outside s fn 1 (eAddr e) 80 then [7] else [])
      else (if outside s fn 0 (eAddr e) (eLength e) then [7] else []))

/-- The oldest startable chain of a live SIPHON queue with an opcode. -/
def siphonChain (s : State) (fn q op : Nat) : Option Chain :=
  let x := s.queue fn q
  if qKind x = kSIPHON ∧ x.st ≠ .disabled then nextChain x op else none

/-! ### Records (spec 13 Table 13.4, 13.5, 13.7) -/

/-- The global number of a function's local channel, region. -/
def chanOf (s : State) (fn loc : Nat) : Option Nat := globalOf s fn 3 loc
def regionOf (s : State) (fn loc : Nat) : Option Nat := globalOf s fn 5 loc

def chIp6 (c : Channel) : Bool := (byteAt c.record 1).testBit 0
def chEnc (c : Channel) : Bool := (byteAt c.record 1).testBit 1
def chTag (c : Channel) : Bool := (byteAt c.record 1).testBit 2
def chRole (c : Channel) : Nat := boolNat ((byteAt c.record 1).testBit 3)
def chDomain (c : Channel) : Nat := leField c.record 2 2
def chPeer (c : Channel) : Nat := leField c.record 4 4
def chTc (c : Channel) : Nat := byteAt c.record 8
def chDscp (c : Channel) : Nat := byteAt c.record 9
def chPayload (c : Channel) : Nat := 1024 * 2 ^ byteAt c.record 10
def chSlot (c : Channel) : Nat := leField c.record 12 2
def chPortBase (c : Channel) : Nat := leField c.record 14 2
def chPeerAddr (c : Channel) : Bytes := slice c.record 16 16
def chLocalAddr (c : Channel) : Bytes := slice c.record 32 16
def chTci (c : Channel) : Nat := leField c.record 48 2
def chHops (c : Channel) : Nat := byteAt c.record 50

/-- Is an operation sent, and an opcode accepted, in a state (Table 13.3)? -/
def chRuns (st : Nat) : Bool := decide (st = 1 ∨ st = 2 ∨ st = 3 ∨ st = 5)

/-- Bytes of a frame with `n` bytes of payload, FCS included (R421). -/
def sFrameLen (c : Channel) (n : Nat) (imm : Bool) : Nat :=
  14 + (if chTag c then 4 else 0) + (if chIp6 c then 40 else 20) + 8 + 40 + n + (if imm then 4 else 0)
    + (if chEnc c then 16 else 0) + 4

/-- The burst of a path's bucket in units of 125e-15 bytes (R440). -/
def sBurst (c : Channel) : Int := ((16384 + sFrameLen c (chPayload c) true + 20) * byteUnits : Nat)

/-- Counts in a Siphon counter, for the polder that owns the channel. -/
def sipCount (sub fn : Nat) (s : State) : State := countFor 0x4203 sub 1 fn s

/-- The key of an encrypted channel. -/
def chKey (s : State) (c : Channel) : Bytes :=
  match globalOf s c.fn 2 (chSlot c) with
  | some g => (s.keySlot g).key
  | none => []

/-! ### Packets (R421 to R426) -/

/-- The base header of Table 13.1. -/
def sHeader (flags op path dst psn msg len off key addr n : Nat) : Bytes :=
  [byteOf (16 + flags), byteOf op, byteOf path, 0] ++ beBytes 4 dst ++ beBytes 4 psn ++ beBytes 4 msg
  ++ beBytes 4 len ++ beBytes 4 off ++ beBytes 4 key ++ beBytes 8 addr ++ beBytes 2 n ++ [0, 0]

/-- Opcodes that consume a PSN (R423). -/
def usesPsn (op : Nat) : Bool := decide (1 ≤ op ∧ op ≤ 4) || decide (8 ≤ op ∧ op ≤ 10)

/-- The IV of a packet (R425): destination channel, PSN or control sequence, its kind, role of the sender. -/
def sIv (dst op psn ctl role : Nat) : Bytes :=
  beBytes 4 dst ++ beBytes 4 (if usesPsn op then psn else ctl) ++ [byteOf (boolNat (!usesPsn op)), byteOf role, 0, 0]

/-- What is authenticated beside the payload: the header without its path byte, and the immediate. -/
def sAad (hdr imm : Bytes) : Bytes := splice hdr 2 [0] ++ imm

/-- Farm work of one packet: its header and immediate as additional data, and its payload (spec 12 Table 12.5). -/
def sFarm (fn n : Nat) (s : State) : State :=
  countQ 0x4101 3 n none none (some fn) (countQ 0x4101 2 1 none none (some fn) s)

/-- The packet of a channel: base header, payload, immediate, tag. -/
def sSeal (s : State) (c : Channel) (hdr payload : Bytes) (op psn ctl : Nat) (imm : Option Nat) : Bytes :=
  let im := match imm with
    | some v => beBytes 4 v
    | none => []
  if chEnc c then
    let r := Config.gcmEncrypt (chKey s c) (sIv (chPeer c) op psn ctl (chRole c)) (sAad hdr im) payload
    hdr ++ r.1 ++ im ++ r.2
  else hdr ++ payload ++ im

/-- The frame that carries a packet on a path. The source MAC, the IPv4 identification and the flow label
are free values: the spec states none (log entry 40). -/
def sFrame (s : State) (c : Channel) (i : Nat) (p : SPath) (pkt : Bytes) (ect : Bool) (free : Nat) : Bytes :=
  let six := chIp6 c
  let a := chLocalAddr c
  let b := chPeerAddr c
  let raw := fun (x : Bytes) => if six then x else x.drop 12
  let tos := chDscp c * 4 + (if ect then 2 else 0)
  let udp0 := beBytes 2 (chPortBase c + i) ++ beBytes 2 (cfgN s 0x4200 1) ++ beBytes 2 (8 + pkt.length) ++ [0, 0] ++ pkt
  let sum := 0xFFFF - udpSum six (raw a) (raw b) udp0
  let udp := if six then splice udp0 6 (beBytes 2 (if sum = 0 then 0xFFFF else sum)) else udp0
  let ip := if six then
      beBytes 4 (6 * 2 ^ 28 + tos * 2 ^ 20 + free % 2 ^ 20) ++ beBytes 2 udp.length ++ [17, byteOf (chHops c)] ++ a ++ b
    else
      ip4Checksum ([0x45, byteOf tos] ++ beBytes 2 (20 + udp.length) ++ beBytes 2 (free % 65536)
        ++ [0x40, 0, byteOf (chHops c), 17, 0, 0] ++ raw a ++ raw b)
  padTo 6 p.mac ++ padTo 6 (Config.siphonMac p.port)
  ++ (if chTag c then [0x81, 0x00] ++ beBytes 2 (chTci c) else [])
  ++ (if six then [0x86, 0xDD] else [0x08, 0x00]) ++ ip ++ udp

/-- A packet goes to the field die of its path's port, into the channel's TC queue (R33, R440). -/
def sLaunch (g i : Nat) (p : SPath) (pkt : Bytes) (ect : Bool) (psn : Nat) (s : State) : State :=
  let c := s.channel g
  let r := drawNat s
  let s1 := sipCount 1 c.fn (if chEnc c then sFarm c.fn (pkt.length - 16) r.2 else r.2)
  launch { ticket := 0, src := 4, dst := dieOf p.port, bulk := !queueScheduled s p.port (chTc c)
           owner := ownerSiphon, info := { Meta.blank with tc := chTc c, src := .siphon g psn }
           bytes := sFrame s c i p pkt ect r.1, ports := [(p.port, chTc c, none)], hosts := [] } s1

/-! ### A channel leaves service (R431, R449, R460) -/

/-- Messages that are this end's own: WRITE, WRITE_IMM, READ_REQ and JCMD of its entries. -/
def ownMsg (m : SMsg) : Bool := !m.part && decide (m.op = 1 ∨ m.op = 2 ∨ m.op = 3 ∨ m.op = 8)

/-- The entries of messages in flight end with a status, except message `named`, which also has a result. -/
def endMsgs (l : List SMsg) (status : Nat) (named : Option (Nat × Nat)) (s : State) : State :=
  forEach l (fun m st => match m.owner with
    | none => st
    | some o =>
      let res := match named with
        | some (id, r) => if m.id = id then r else 0
        | none => 0
      finishChain o.1 o.2.1 o.2.2 status res st) s

/-- Posted RECV_NOTIFY entries of a channel that stops end with STATE (R438). -/
def endRecvs (l : List (Nat × Nat × Nat)) (s : State) : State :=
  forEach l (fun o st => finishChain o.1 o.2.1 o.2.2 stSTATE 0 st) s

/-- What a channel that leaves service no longer holds. -/
def chStop (c : Channel) (state : Nat) : Channel :=
  { c with state := state, msgs := [], sent := [], asm := [], notes := [], recvs := [], reads := [],
           capsules := [], toAck := 0, retries := 0, rto := 0 }

/-! ### Journal commands that nobody waits for (spec 14 R495, R498) -/

/-- The units of started writes from the first whose data is not on the memory die, for the sources that `p`
picks: they are dropped, and the messages that wait for them. -/
def journalCut (p : JSrc → Bool) (s : State) : State :=
  let missing := fun (u : JUnit) => u.src.any p
    && s.jrn.units.any (fun x => decide (x.job = u.job ∧ x.id ≤ u.id) && !x.ready)
  let ids := (s.jrn.units.filter missing).map (·.id)
  cipherDrop (fun m => decide (m.user = .journal) && ids.contains m.ref)
    (modJrn (fun j => { j with units := j.units.filter (fun u => !missing u) }) s)

/-- Nobody is answered any more for the commands of a source that `p` picks. -/
def journalDetach (p : JSrc → Bool) (s : State) : State :=
  let cut := fun (o : Option JSrc) => match o with
    | some x => if p x then none else some x
    | none => none
  let s1 := modJrn (fun j => { j with
    units := j.units.map (fun u => { u with src := cut u.src })
    flushes := j.flushes.map (fun f => { f with src := cut f.src })
    spaces := j.spaces.map (fun e => (e.1, { e.2 with formatBy := e.2.formatBy.map (fun b => (cut b.1, b.2)) })) }) s
  forEach [0, 1] (fun i st => st.setCart i { st.cart i with
    sanitizeBy := (st.cart i).sanitizeBy.map (fun b => (cut b.1, b.2)) }) s1

/-- The commands of the sources that `p` picks end as R495 says. -/
def journalDrop (p : JSrc → Bool) (s : State) : State := journalDetach p (journalCut p s)

/-- Is a journal command one of a channel's capsules? -/
def ofChannel (g : Nat) (x : JSrc) : Bool :=
  match x with
  | .queue _ _ => false
  | .capsule k _ => decide (k = g)

/-- Every entry of a channel into ERROR is counted and raises its event (R431, Table 13.8). `quiet` is
where no completion is written (Table 13.9). -/
def channelError (g status : Nat) (named : Option (Nat × Nat)) (quiet : Bool) (s : State) : State :=
  let c := s.channel g
  if c.state = 4 then s
  else
    let s1 := raise 292 (sipCount 0xD c.fn (journalDrop (ofChannel g) (s.setChannel g (chStop c 4))))
    if quiet then s1 else endRecvs c.recvs (endMsgs (c.msgs.filter ownMsg) status named s1)

/-! ### Control packets (R423, R446, R449, R450) -/

/-- The lowest path of a channel that is up. -/
def lowestUp (c : Channel) : Option (Nat × SPath) :=
  ((List.range 8).zip c.paths).find? (fun e => e.2.up)

/-- Sends ACK, NAK or CNP with the next control sequence; at its top the channel enters ERROR, with a
status the spec does not state (log entry 41). `path` is the path byte, if it is not the path taken. -/
def sendControl (g op psn len off addr : Nat) (path : Option Nat) (s : State) : State :=
  let c := s.channel g
  match lowestUp c with
  | none => s
  | some (i, p) =>
    if 0xFFFFFFFF ≤ c.ctlTx then s
    else
      let hdr := sHeader (if chEnc c then 2 else 0) op (path.getD i) (chPeer c) psn c.ctlTx len off 0 addr 0
      let s1 := sLaunch g i p (sSeal s c hdr [] op psn c.ctlTx none) false 0
        (s.setChannel g { c with ctlTx := c.ctlTx + 1 })
      if c.ctlTx + 1 = 0xFFFFFFFF then
        let r := drawNat s1
        channelError g (r.1 % 256) none false r.2
      else s1

/-- The SACK bitmap: bit i stands for PSN E + 1 + i (R446). -/
def sackMap (c : Channel) : Nat :=
  (List.range 64).foldl (fun m i => if c.rcvd.contains ((c.expect + 1 + i) % 2 ^ 32) then bitSet m i else m) 0

/-- Sends an ACK of all that was accepted. -/
def sendAck (g : Nat) (s : State) : State :=
  let c := s.channel g
  sendControl g 5 c.expect 0 0 (sackMap c) none (s.setChannel g { c with toAck := 0 })

/-- One more packet was accepted (R446). -/
def scheduleAck (t g : Nat) (now : Bool) (s : State) : State :=
  let c := s.channel g
  let s1 := s.setChannel g { c with toAck := c.toAck + 1, ackSince := if c.toAck = 0 then t else c.ackSince }
  if now || decide (cfgN s 0x4200 3 ≤ c.toAck + 1) then sendAck g s1 else s1

/-- SIPHON_ACK_DELAY (R446). -/
def execSiphonAckDelay (t chan : Nat) (s : State) : Host.Outcome State Fault Refusal :=
  let s1 := advance t s
  let c := s1.channel chan
  .next (if chRuns c.state && (!chEnc c || farmFree s1) && decide (c.toAck ≠ 0) && decide (c.ackSince + cfgN s1 0x4200 4 * 10 ^ 9 ≤ t) then
    sendAck chan s1 else s1)

/-- Sends a NAK for a packet (R441, R449); the other packets of its message are discarded from now on. -/
def sendNak (g op psn msg status : Nat) (s : State) : State :=
  let c := s.channel g
  let id := if op = 4 ∨ 8 < op then msg + 2 ^ 32 else msg
  sipCount 8 c.fn (sendControl g 6 psn status msg 0 none
    (s.setChannel g { c with refused := if c.refused.contains id then c.refused else c.refused ++ [id] }))

/-- Sends the CNP of the path whose waiting mark is the oldest, and clears its counts (R450). -/
def sendCnp (t g : Nat) (s : State) : State :=
  let c := s.channel g
  let waiting := c.rxPaths.filterMap (fun e => e.2.since.map (fun x => (e.1, x, e.2)))
  match waiting with
  | [] => s
  | a :: rest =>
    let w := rest.foldl (fun best e => if e.2.1 < best.2.1 then e else best) a
    sipCount 0xA c.fn (sendControl g 7 0 w.2.2.count w.2.2.marked 0 (some w.1)
      (s.setChannel g { c with rxPaths := Tab.set RxPath.reset c.rxPaths w.1 RxPath.reset, lastCnp := some t }))

/-- May a channel send a CNP (R450)? -/
def cnpDue (s : State) (c : Channel) (t : Nat) : Bool :=
  match c.lastCnp with
  | none => true
  | some t0 => decide (t0 + cfgN s 0x4201 2 * 10 ^ 9 ≤ t)

/-- SIPHON_CNP_INTERVAL (R450). -/
def execSiphonCnpInterval (t chan : Nat) (s : State) : Host.Outcome State Fault Refusal :=
  let s1 := advance t s
  let c := s1.channel chan
  .next (if chRuns c.state && cnpDue s1 c t && (!chEnc c || farmFree s1) then sendCnp t chan s1 else s1)

/-! ### Paths (R440, R448, R450) -/

def setPath (g i : Nat) (f : SPath → SPath) (s : State) : State :=
  let c := s.channel g
  s.setChannel g { c with paths := (c.paths.zipIdx).map (fun e => if e.2 = i then f e.1 else e.1) }

/-- The rate a path is paced at: the port rate while congestion control is off (R450). -/
def pathRate (s : State) (p : SPath) : Nat := if cfgN s 0x4201 1 = 1 then p.rc else portRate s p.port

/-- The bucket of a path at time `t`. -/
def pathTokens (s : State) (c : Channel) (p : SPath) (t : Nat) : Int :=
  min (sBurst c) (p.tokens + ((t - p.tokTime) * pathRate s p : Nat))

/-- `pick_path` of R440. -/
def pickPath (s : State) (c : Channel) (orig : Option Nat) (t : Nat) : Option (Nat × SPath) :=
  let n := c.paths.length
  let start := orig.getD c.lastPath
  ((List.range n).map (fun k => (start + 1 + k) % n)).findSome? (fun i =>
    match c.paths[i]? with
    | none => none
    | some p => if p.up && decide (0 ≤ pathTokens s c p t) && portUp s p.port then some (i, p) else none)

/-- A path goes down (R448). -/
def pathDown (t g i : Nat) (s : State) : State :=
  raise 291 (sipCount 0xE (s.channel g).fn
    (setPath g i (fun p => { p with up := false, probing := false, downAt := t, losses := 0 }) s))

/-- A packet counts as lost on the path of its last send (R448). -/
def pathLost (t g i : Nat) (s : State) : State :=
  match (s.channel g).paths[i]? with
  | none => s
  | some p =>
    if p.probing then pathDown t g i s
    else if cfgN s 0x4200 9 ≤ p.losses + 1 ∧ p.up then pathDown t g i s
    else setPath g i (fun p => { p with losses := p.losses + 1 }) s

/-- A packet sent on the path is acknowledged. -/
def pathAcked (g i : Nat) (s : State) : State :=
  setPath g i (fun p => if p.probing then { p with up := true, probing := false, losses := 0 } else { p with losses := 0 }) s

/-- SIPHON_PATH_HOLD (R448). -/
def execSiphonPathHold (t chan path : Nat) (s : State) : Host.Outcome State Fault Refusal :=
  let s1 := advance t s
  let c := s1.channel chan
  .next (match c.paths[path]? with
    | none => s1
    | some p =>
      if !p.up && !p.probing && decide (p.downAt + cfgN s1 0x4200 0xA * 10 ^ 12 ≤ t) then
        setPath chan path (fun p => { p with up := true, probing := true }) s1
      else s1)

/-- While SiphonCcEnable is 0 the rate of every path is the port rate: it is what control starts from when it is
enabled again (R450). -/
def ratesFromPorts (s : State) : State :=
  modSiphon (fun x => { x with channels := x.channels.map (fun e =>
    (e.1, { e.2 with paths := e.2.paths.map (fun p => { p with rc := portRate s p.port, rh := portRate s p.port }) })) }) s

/-- The sender's side of a CNP (R450); while SiphonCcEnable is 0 it changes nothing. -/
def onCnp (t g i received marked : Nat) (s : State) : State :=
  let w : Int := cfgN s 0x4201 3
  if cfgN s 0x4201 1 ≠ 1 then s
  else setPath g i (fun p =>
    let f : Int := (marked * 65536 / received : Nat)
    let m : Int := p.m + Int.tdiv ((f - p.m) * w) 65536
    let p1 := { p with m := m, cnpSeen := true, stepAt := t }
    let due := match p.lastCut with
      | none => true
      | some t0 => decide (t0 + cfgN s 0x4201 4 * 10 ^ 9 ≤ t)
    if due then
      { p1 with rh := p.rc, k := 0, lastCut := some t,
                rc := max (cfgN s 0x4201 9) (((p.rc : Int) - Int.tdiv ((p.rc : Int) * m) 131072).toNat) }
    else p1) s

/-- One expiry of a path's step timer (R450). -/
def stepPath (s : State) (t : Nat) (p : SPath) : SPath :=
  let m : Int := if p.cnpSeen then p.m else p.m - Int.tdiv (p.m * (cfgN s 0x4201 3 : Int)) 65536
  let k := p.k + 1
  let conv := cfgN s 0x4201 6
  let rh := if conv < k then
      min (portRate s p.port) (p.rh + min (cfgN s 0x4201 8) (k - conv) * cfgN s 0x4201 7)
    else p.rh
  { p with m := m, cnpSeen := false, k := k, rh := rh, stepAt := t,
           rc := ((p.rc : Int) + Int.tdiv ((rh : Int) - (p.rc : Int)) 4).toNat }

/-- SIPHON_STEP_TIMER (R450); while congestion control is off the rate stays at the port rate. -/
def execSiphonStepTimer (t chan path : Nat) (s : State) : Host.Outcome State Fault Refusal :=
  let s1 := advance t s
  let c := s1.channel chan
  .next (match c.paths[path]? with
    | none => s1
    | some p =>
      if chRuns c.state && decide (cfgN s1 0x4201 1 = 1) && decide (p.stepAt + cfgN s1 0x4201 5 * 10 ^ 9 ≤ t) then
        setPath chan path (stepPath s1 t) s1
      else s1)

/-! ### Sending (R439, R440, R447) -/

/-- Places between two PSNs. -/
def psnDist (a b : Nat) : Nat := (a + 2 ^ 32 - b % 2 ^ 32) % 2 ^ 32

/-- The lowest unacknowledged PSN. -/
def lowestSent (c : Channel) : Option SPkt := c.sent.head?

/-- Carries a packet on a path: tokens, its record, the timer. -/
def sendPkt (t g i : Nat) (p : SPath) (k : SPkt) (fresh : Bool) (s : State) : State :=
  let c := s.channel g
  let flags := (if k.imm.isSome then 1 else 0) + (if chEnc c then 2 else 0) + (if k.ackReq then 4 else 0)
  let hdr := sHeader flags k.op i (chPeer c) k.psn k.msg k.msgLen k.off k.key k.addr k.payload.length
  let wire := sFrameLen c k.payload.length k.imm.isSome + 20
  let k1 := { k with path := some i, resend := false }
  let c1 := { c with
    sent := if fresh then c.sent ++ [k1] else c.sent.map (fun x => if x.psn = k.psn then k1 else x)
    rtoAt := if c.sent = [] then t else c.rtoAt
    lastPath := if fresh then i else c.lastPath
    nextPsn := if fresh then (c.nextPsn + 1) % 2 ^ 32 else c.nextPsn }
  let s1 := setPath g i (fun p => { p with
    tokens := pathTokens s c p t - (wire * byteUnits : Nat), tokTime := t
    up := p.up && !p.probing }) (s.setChannel g c1)
  sLaunch g i p (sSeal s1 c hdr k.payload k.op k.psn 0 k.imm) (decide (k.payload ≠ [])) k.psn s1

/-- May a message be cut into its next packet now? JRSP waits for its data to be acknowledged and for
the grants of its command (R452, R461). -/
def sendable (c : Channel) (m : SMsg) : Bool :=
  !m.cut && (decide (m.op ≠ 0xA) ||
    (!(c.sent.any (fun k => decide ((k.op = 4 ∨ k.op = 9) ∧ k.msg = m.id)))
      && !(c.msgs.any (fun x => !x.cut && decide ((x.op = 4 ∨ x.op = 9) ∧ x.id = m.id)))))

/-- The payload of a message's next packet: from its own bytes, device DDR4, or what the host returned;
none where the host's bytes are not of the length. -/
def nextPayload (s : State) (c : Channel) (m : SMsg) (host : Bytes) : Option Bytes :=
  let n := min (chPayload c) (m.total - m.sent)
  if m.body ≠ [] ∨ n = 0 then (if host = [] then some (slice m.body m.sent n) else none)
  else if isDdr m.laddr then (if host = [] then some (ddrRead s ((m.laddr + m.sent) % 2 ^ 41) n) else none)
  else if host.length = n then some host else none

/-- A message after its next packet took `n` bytes. -/
def cutMsg (c : Channel) (m : SMsg) (n : Nat) : SMsg :=
  { m with sent := m.sent + n, cut := decide (m.total ≤ m.sent + n) || decide (chPayload c = 0) }

/-- Who reads a message's bytes: the queue of its entry, or the engine for a region, with its PASID (R433). -/
def msgReq (s : State) (c : Channel) (m : SMsg) : Requester :=
  match m.owner with
  | some o => queueReq s o.1 o.2.1
  | none => { fn := c.fn, q := none, pasid := (s.region (m.key % 2 ^ 20)).pasid }

/-- Is the read of a message's host bytes refused (spec 11 R365, 09 R326)? -/
def msgRefused (s : State) (c : Channel) (m : SMsg) : Bool :=
  !isDdr m.laddr && decide (m.body = [] ∧ m.sent < m.total) && (match m.owner with
    | some o => requestRefused s o.1 o.2.1 (m.laddr + m.sent) (min (chPayload c) (m.total - m.sent))
    | none => acsBlocks s (msgReq s c m) (m.laddr + m.sent) (min (chPayload c) (m.total - m.sent)))

/-- Does the next packet of a message need bytes of host memory? -/
def needsHost (c : Channel) (m : SMsg) : Bool :=
  decide (m.body = []) && !isDdr m.laddr && decide (min (chPayload c) (m.total - m.sent) ≠ 0)

/-- The host bytes of a message's next packet: given with the command, or read on tags; reads for another packet of
the channel are given up. -/
def packetBytes (g : Nat) (c : Channel) (m : SMsg) (host : Option Bytes) (s : State) : Option Bytes × State :=
  let w := msgReq s c m
  let segs := [(m.laddr + m.sent, min (chPayload c) (m.total - m.sent))]
  let what := ReadFor.packet g m.op m.id (m.base + m.sent)
  if !needsHost c m then (some [], s)
  else match host with
  | some b => match readNow w segs s with
    | some s1 => (some b, s1)
    | none => (none, s)
  | none => match readsBack s w what with
    | some b => (some b, dmaBytesRead w.fn b.length (dropReads (fun r => r.isFor w what) s))
    | none =>
      let stale := fun (r : Read) => match r.what with
        | .packet k _ _ _ => decide (k = g ∧ r.what ≠ what)
        | .entries _ => false
        | .data _ => false
      (none, if fnRuns s w.fn then startReads w what segs (dropReads stale s) else s)

/-- A message of a channel ends without an answer. -/
def eraseMsg (g : Nat) (m : SMsg) (s : State) : State :=
  let c := s.channel g
  s.setChannel g { c with msgs := c.msgs.erase m }

/-- The next packet of a message goes out on a path (R440). -/
def sendPart (t g i : Nat) (p : SPath) (m : SMsg) (d : Bytes) (s : State) : State :=
  let c := s.channel g
  let k : SPkt :=
    { psn := c.nextPsn, op := m.op, msg := m.id, msgLen := m.len, off := m.base + m.sent
      key := if m.op = 4 then 0 else m.key
      addr := m.addr, imm := m.imm, ackReq := decide (m.base + m.sent + d.length = m.len) || decide (d = [])
      payload := d, path := none, resend := false }
  sendPkt t g i p k true (s.setChannel g { c with
    msgs := c.msgs.map (fun x => if x = m then cutMsg c m d.length else x) })

/-- The next new packet of a channel (R440). -/
def sendNew (t g : Nat) (host : Option Bytes) (s : State) : State :=
  let c := s.channel g
  let open' := match lowestSent c with
    | none => true
    | some k => decide (psnDist c.nextPsn k.psn < 1024)
  match c.msgs.find? (sendable c), open' with
  | some m, true =>
    match pickPath s c none t with
    | none => s
    | some (i, p) =>
      if msgRefused s c m then
        match m.owner with
        | some o => refuseRequest o.1 o.2.1 o.2.2 [] (eraseMsg g m s)
        | none => polderFault c.fn stACCESS 3 0xFFFF (acsReport c.fn (eraseMsg g m s))
      else
        let r := packetBytes g c m host s
        match r.1.bind (nextPayload s c m) with
        | none => if host.isSome then s else r.2
        | some d => sendPart t g i p m d r.2
  | _, _ => s

/-- SIPHON_PACKET_SEND (R440): a retransmission before a new packet. A packet to be encrypted waits for a core
(12 R393). -/
def siphonSend (t g : Nat) (host : Option Bytes) (s : State) : State :=
  let c := s.channel g
  if !chRuns c.state || (chEnc c && !farmFree s) then s
  else match c.sent.find? (·.resend) with
  | some k =>
    let s1 := match k.path with
      | some i => pathLost t g i s
      | none => s
    match pickPath s1 (s1.channel g) k.path t with
    | none => s
    | some (i, p) => sipCount 3 c.fn (sendPkt t g i p k false s1)
  | none => sendNew t g host s

def execSiphonPacketSend (t chan : Nat) (payload : Option Bytes) (s : State) : Host.Outcome State Fault Refusal :=
  .next (siphonSend t chan payload (advance t s))

/-- SIPHON_RTO_EXPIRY (R447). -/
def rtoExpiry (t g : Nat) (s : State) : State :=
  let c := s.channel g
  let now := max c.rto (cfgN s 0x4200 6)
  match c.sent with
  | [] => s
  | k :: rest =>
    if !chRuns c.state || decide (t < c.rtoAt + now * 10 ^ 9) then s
    else if cfgN s 0x4200 8 ≤ c.retries + 1 then channelError g stTIMEOUT none false s
    else s.setChannel g { c with
      sent := { k with resend := true } :: rest, retries := c.retries + 1, rtoAt := t
      rto := min (2 * now) (cfgN s 0x4200 7) }

def execSiphonRtoExpiry (t chan : Nat) (s : State) : Host.Outcome State Fault Refusal :=
  .next (rtoExpiry t chan (advance t s))

/-! ### A message is submitted (R438, R439, R452) -/

/-- A new message of an entry; it takes the next message id. -/
def addMsg (g : Nat) (m : SMsg) (s : State) : State :=
  let c := s.channel g
  s.setChannel g { c with msgs := c.msgs ++ [{ m with id := c.nextMsg }], nextMsg := (c.nextMsg + 1) % 2 ^ 32 }

/-- A message that answers the peer, under the peer's message id. -/
def addReply (g : Nat) (m : SMsg) (s : State) : State :=
  let c := s.channel g
  s.setChannel g { c with msgs := c.msgs ++ [m] }

def SMsg.blank : SMsg where
  id := 0
  op := 0
  len := 0
  key := 0
  addr := 0
  imm := none
  laddr := 0
  base := 0
  total := 0
  sent := 0
  cut := false
  owner := none
  part := false
  body := []

/-- Can an entry act on a channel in its state (R438, Table 13.3)? -/
def chanUsable (c : Channel) (op : Nat) : Bool := chRuns c.state && !(decide (op = 0x21) && decide (c.state = 3))

/-- A SIPHON entry with `len` bytes at its address. -/
def siphonOp (op fn q : Nat) (h : HostData) (len : Nat) (go : Chain → Bytes → State → State) (s : State) : State :=
  match siphonChain s fn q op with
  | none => s
  | some ch =>
    let e := ch.entries.headD []
    hostOp fn q ch.first [e] (if len = 0 then [] else [(eAddr e, len)]) h (go ch) s

/-- WRITE, WRITE_IMM and READ (R437 to R439). -/
def submitMsg (op wire fn q : Nat) (ch : Chain) (d : Bytes) (s : State) : State :=
  let e := ch.entries.headD []
  let len := leField d 0 4
  let laddr := leField d 16 8
  let fin := fun st x => finishChain fn q ch.first st 0 x
  match chanOf s fn (sChan e) with
  | none => fin stSTATE s
  | some g =>
    if !chanUsable (s.channel g) op then fin stSTATE s
    else if len = 0 ∨ 67108864 < len ∨ slice d 28 4 ≠ zeros 4 ∨ (op ≠ 0x21 ∧ leField d 24 4 ≠ 0) then fin stRANGE s
    else if (isDdr laddr && decide (bitsOf laddr 62 41 ≠ 0))
        || outside s fn (if op = 0x22 then 1 else 0) laddr len then fin stACCESS s
    else
      addMsg g { SMsg.blank with
        op := wire, len := len, key := leField d 4 4, addr := leField d 8 8, laddr := laddr
        imm := if op = 0x21 then some (leField d 24 4) else none
        total := if op = 0x22 then 0 else len, owner := some (fn, q, ch.first) }
        (updChain fn q ch.first (fun c => { c with started := true }) s)

def siphonWriteOp (_t fn q : Nat) (h : HostData) (s : State) : State := siphonOp 0x20 fn q h 32 (submitMsg 0x20 1 fn q) s
def execSiphonWrite (t fn q : Nat) (descriptor : Option Bytes) (s : State) : Host.Outcome State Fault Refusal :=
  .next (siphonWriteOp t fn q (.of descriptor) (advance t s))
def siphonWriteImmOp (_t fn q : Nat) (h : HostData) (s : State) : State := siphonOp 0x21 fn q h 32 (submitMsg 0x21 2 fn q) s
def execSiphonWriteImm (t fn q : Nat) (descriptor : Option Bytes) (s : State) : Host.Outcome State Fault Refusal :=
  .next (siphonWriteImmOp t fn q (.of descriptor) (advance t s))
def siphonReadOp (_t fn q : Nat) (h : HostData) (s : State) : State := siphonOp 0x22 fn q h 32 (submitMsg 0x22 3 fn q) s
def execSiphonRead (t fn q : Nat) (descriptor : Option Bytes) (s : State) : Host.Outcome State Fault Refusal :=
  .next (siphonReadOp t fn q (.of descriptor) (advance t s))

/-- Opcodes of a capsule that fill the initiator's data buffer (R452, spec 14 Table 14.6). -/
def capsuleReads (op : Nat) : Bool := decide (op = 0x30 ∨ op = 0x34 ∨ op = 0x35)

/-- JCMD_SEND (R452): the first 64 bytes of the buffer are the command. -/
def submitCapsule (fn q : Nat) (ch : Chain) (d : Bytes) (s : State) : State :=
  let e := ch.entries.headD []
  let right := if capsuleReads (byteAt d 0) then 1 else 0
  match chanOf s fn (sChan e) with
  | none => finishChain fn q ch.first stSTATE 0 s
  | some g =>
    if !chanUsable (s.channel g) 0x23 then finishChain fn q ch.first stSTATE 0 s
    else if sDataLen e ≠ 0 ∧ ((isDdr (sDataAddr e) && decide (bitsOf (sDataAddr e) 62 41 ≠ 0))
        || outside s fn right (sDataAddr e) (sDataLen e)) then finishChain fn q ch.first stACCESS 0 s
    else
      addMsg g { SMsg.blank with op := 8, len := 64, total := 64, body := d, owner := some (fn, q, ch.first) }
        (updChain fn q ch.first (fun c => { c with started := true }) s)

def jcmdSendOp (_t fn q : Nat) (h : HostData) (s : State) : State := siphonOp 0x23 fn q h 64 (submitCapsule fn q) s
def execJcmdSend (t fn q : Nat) (capsule : Option Bytes) (s : State) : Host.Outcome State Fault Refusal :=
  .next (jcmdSendOp t fn q (.of capsule) (advance t s))

/-- Held notifications meet posted RECV_NOTIFY entries, oldest with oldest (R444). -/
def matchNotes (g : Nat) : Nat → State → State
  | 0, s => s
  | k + 1, s =>
    let c := s.channel g
    match c.notes, c.recvs with
    | v :: vs, o :: os =>
      matchNotes g k (finishChain o.1 o.2.1 o.2.2 stOK v (s.setChannel g { c with notes := vs, recvs := os }))
    | _, _ => s

/-- RECV_NOTIFY (R444). -/
def recvNotify (fn q : Nat) (s : State) : State :=
  match siphonChain s fn q 0x24 with
  | none => s
  | some ch =>
    match chanOf s fn (sChan (ch.entries.headD [])) with
    | none => finishChain fn q ch.first stSTATE 0 s
    | some g =>
      let c := s.channel g
      if !chRuns c.state then finishChain fn q ch.first stSTATE 0 s
      else
        matchNotes g 1 ((updChain fn q ch.first (fun x => { x with started := true }) s).setChannel g
          { c with recvs := c.recvs ++ [(fn, q, ch.first)] })

def execRecvNotify (t fn q : Nat) (s : State) : Host.Outcome State Fault Refusal :=
  .next (recvNotify fn q (advance t s))

/-! ### Channel state (R427 to R431) -/

/-- The transitions of R428. -/
def chMay (a b : Nat) : Bool :=
  decide (b = 0 ∨ b = 4) || decide (a = 0 ∧ b = 1) || decide (a = 1 ∧ (b = 3 ∨ b = 2 ∨ b = 5))
  || decide (a = 3 ∧ b = 2) || decide (a = 2 ∧ b = 3) || decide (a = 5 ∧ b = 1)

/-- The paths a record names. -/
def recordPaths (r : Bytes) : List (Nat × Bytes) :=
  (List.range (byteAt r 11)).map (fun i => (leField r (64 + 8 * i) 2, slice r (66 + 8 * i) 6))

/-- Is a record refused at RESET to INIT (R429)? Fields outside the ranges of Table 13.4 are refused
with it (log entry 42). -/
def recordBad (s : State) (fn : Nat) (r : Bytes) : Bool :=
  let c := { Channel.reset with record := r }
  decide (16 ≤ byteAt r 1) || decide (2 ^ 24 ≤ leField r 4 4) || decide (8 ≤ byteAt r 8) || decide (64 ≤ byteAt r 9)
  || decide (byteAt r 51 ≠ 0) || decide (slice r 60 4 ≠ zeros 4)
  || decide (3 < byteAt r 10) || decide (byteAt r 11 = 0 ∨ 8 < byteAt r 11)
  || decide (chPortBase c < 1024 ∨ 65528 < chPortBase c) || decide (chHops c = 0)
  || (!chIp6 c && decide (slice r 16 12 ≠ zeros 12 ∨ slice r 32 12 ≠ zeros 12))
  || (recordPaths r).any (fun p => decide (511 < p.1) || decide (portMode s p.1 = 0)
        || decide (maxFrameSize s p.1 < sFrameLen c (chPayload c) true))
  || decide ((s.polder fn).counts.domains ≤ chDomain c)
  || (chEnc c && (match globalOf s fn 2 (chSlot c) with
      | none => true
      | some g => slotEmpty s g || decide ((s.keySlot g).alg ≠ 2) || !((s.keySlot g).usage.testBit useSiphon)))

/-- A path at RESET to INIT (R440, R450); its bucket is full (log entry 43). -/
def freshPath (s : State) (t : Nat) (c : Channel) (p : Nat × Bytes) : SPath where
  port := p.1
  mac := p.2
  up := true
  probing := false
  downAt := 0
  losses := 0
  tokens := sBurst c
  tokTime := t
  rc := portRate s p.1
  rh := portRate s p.1
  m := 65536
  k := 0
  cnpSeen := false
  lastCut := none
  stepAt := t

/-- A channel in INIT under a record. -/
def chInit (s : State) (t fn num : Nat) (r : Bytes) : Channel :=
  let c := { Channel.reset with fn := fn, num := num, state := 1, record := splice r 0 [0] }
  let ps := (recordPaths r).map (freshPath s t c)
  { c with paths := ps, lastPath := ps.length - 1, nextPsn := leField r 52 4, expect := leField r 56 4 }

/-- The key slot of an encrypted channel is given up when the channel returns to RESET. -/
def chFreeSlot (c : Channel) (s : State) : State :=
  if c.state ≠ 0 ∧ chEnc c then
    match globalOf s c.fn 2 (chSlot c) with
    | some g => dropUser g s
    | none => s
  else s

/-- A channel returns to RESET; its entries end with `status`, or with no completion. The commands of its capsules end
as where it enters ERROR (log entry 124). -/
def channelReset (g : Nat) (status : Option Nat) (s : State) : State :=
  let c := s.channel g
  let s1 := journalDrop (ofChannel g) (chFreeSlot c (s.setChannel g { Channel.reset with fn := c.fn, num := c.num }))
  match status with
  | none => s1
  | some st => endRecvs c.recvs (endMsgs (c.msgs.filter ownMsg) st none s1)

/-- CHANNEL_MODIFY (R428, R429). -/
def channelModify (t fn q : Nat) (ch : Chain) (d : Bytes) (s : State) : State :=
  let num := sChan (ch.entries.headD [])
  let b := byteAt d 0
  let fin := fun st res x => finishChain fn q ch.first st res x
  match chanOf s fn num with
  | none => fin stSTATE 0 s
  | some g =>
    let c := s.channel g
    if !chMay c.state b then fin stSTATE 0 s
    else if c.state = 0 ∧ b = 1 then
      if recordBad s fn d then fin stRANGE 0 s
      else
        let s1 := s.setChannel g (chInit s t fn num d)
        fin stOK 1 (if chEnc (s1.channel g) then
          match globalOf s fn 2 (chSlot (s1.channel g)) with
          | some k => addUser k s1
          | none => s1
        else s1)
    else if b = 0 then fin stOK 0 (channelReset g (some stABORTED_RESET) s)
    else if b = 4 then fin stOK 4 (channelError g stSTATE none false s)
    else fin stOK b (s.setChannel g { c with state := b, was := c.state, changedAt := s.clock })

def channelModifyOp (t fn q : Nat) (h : HostData) (s : State) : State := siphonOp 0x28 fn q h 128 (channelModify t fn q) s
def execChannelModify (t fn q : Nat) (record : Option Bytes) (s : State) : Host.Outcome State Fault Refusal :=
  .next (channelModifyOp t fn q (.of record) (advance t s))

/-- CHANNEL_QUERY (R438). -/
def channelQuery (fn q : Nat) (s : State) : State :=
  match siphonChain s fn q 0x29 with
  | none => s
  | some ch =>
    let e := ch.entries.headD []
    match chanOf s fn (sChan e) with
    | none => finishChain fn q ch.first stSTATE 0 s
    | some g =>
      let c := s.channel g
      finishChain fn q ch.first stOK g
        (queueWrite fn q ch.first (eAddr e) [e] (splice (padTo 128 c.record) 0 [byteOf c.state]) s)

def execChannelQuery (t fn q : Nat) (s : State) : Host.Outcome State Fault Refusal :=
  .next (channelQuery fn q (advance t s))

/-- CHANNEL_INFO (R454). -/
def channelInfo (s : State) (g : Nat) : Bytes :=
  let c := s.channel g
  beBytes 4 g
  ++ [byteOf c.state, byteOf ((c.paths.zipIdx).foldl (fun m e => if e.1.up then bitSet m e.2 else m) 0), 0, 0]
  ++ beBytes 4 c.nextPsn ++ beBytes 4 c.expect
  ++ (List.range 8).flatMap (fun i => beBytes 4 ((c.paths[i]?.map (pathRate s)).getD 0))

def execChannelInfo (r : Rq) (s : State) : Host.Outcome State Fault Refusal :=
  .next (serveAction (at0 0x4210 0)
    (fun q s => abortIf (4095 < beField q.msg.data 0 2
        || decide ((s.polder (beField q.msg.data 0 2)).counts.channels ≤ beField q.msg.data 2 2)) aRANGE)
    (fun q s => match chanOf s (beField q.msg.data 0 2) (beField q.msg.data 2 2) with
      | some g => (s, .ok 0 0 9 (channelInfo s g))
      | none => (s, .abort aRANGE)) r s)

/-! ### Regions (R432 to R435, R451) -/

/-- The region window of a memory die: first and last offset (R434, spec 06 R208, 07 R250, 14 R477). -/
def ddrFirst (s : State) : Nat := (96 + s.buf.overflowMiB + 1024) * 1048576
def ddrWindow (s : State) (md : Nat) : Nat × Nat := (ddrFirst s, Config.ddrCapacity md - 1)

/-- The record of Table 13.5 taken apart. -/
def regRights (d : Bytes) : Nat := byteAt d 18

/-- Is a registration refused, and how (R433)? Several apply: ACCESS only where nothing gives RANGE. -/
def registerStatus (s : State) (fn num : Nat) (d : Bytes) : Nat :=
  let base := leField d 0 8
  let len := leField d 8 8
  let w := ddrWindow s (boolNat (base.testBit 40))
  let off := base % 2 ^ 40
  match regionOf s fn num with
  | none => stRANGE
  | some g =>
    if (s.region g).valid || decide (len = 0 ∨ 2 ^ 40 < len) || decide (16 ≤ regRights d) || decide (slice d 19 13 ≠ zeros 13)
 then stRANGE
    else if isDdr base then
      if bitsOf base 62 41 ≠ 0 ∨ off < w.1 ∨ w.2 + 1 < off + len
          ∨ s.siphon.regions.any (fun e => e.2.valid && isDdr e.2.base && decide (e.2.fn ≠ fn)
              && decide (e.2.base % 2 ^ 41 < base % 2 ^ 41 + len) && decide (base % 2 ^ 41 < e.2.base % 2 ^ 41 + e.2.len))
      then stRANGE else stOK
    else if 2 ^ 63 - 1 < base + len - 1 then stACCESS else stOK

/-- The next registration count of a global number (R435). -/
def nextRegCount (g n : Nat) : Nat :=
  let k := (n + 1) % 4096
  if g = 0 ∧ k = 0 then 1 else k

/-- The key of a region (R435). -/
def regionKey (g : Nat) (r : Region) : Nat := r.count * 2 ^ 20 + g

/-- REGION_REGISTER (R433, R435). A protection domain at or above the committed count is malformed (10 R339). -/
def regionRegister (fn q : Nat) (ch : Chain) (d : Bytes) (s : State) : State :=
  let num := sRegion (ch.entries.headD [])
  let st := registerStatus s fn num d
  if (s.polder fn).counts.domains ≤ leField d 16 2 then malformed fn q ch.first 8 (ch.entries.headD []) s
  else if st ≠ stOK then finishChain fn q ch.first st 0 s
  else match regionOf s fn num with
  | none => finishChain fn q ch.first stRANGE 0 s
  | some g =>
    let x := s.queue fn q
    let r : Region := { s.region g with
      valid := true, fn := fn, num := num, base := leField d 0 8, len := leField d 8 8
      domain := leField d 16 2, rights := regRights d
      pasid := if qPasidValid x then some (qPasid x) else none
      count := nextRegCount g (s.region g).count }
    finishChain fn q ch.first stOK (regionKey g r) (s.setRegion g r)

def regionRegisterOp (_t fn q : Nat) (h : HostData) (s : State) : State := siphonOp 0x2A fn q h 32 (regionRegister fn q) s
def execRegionRegister (t fn q : Nat) (record : Option Bytes) (s : State) : Host.Outcome State Fault Refusal :=
  .next (regionRegisterOp t fn q (.of record) (advance t s))

/-- The revoke point of a region (R451). -/
def revokeRegion (g : Nat) (revoking : Bool) (s : State) : State :=
  let r := s.region g
  s.setRegion g { r with valid := false, revoking := revoking, epoch := r.epoch + 1 }

/-- REGION_REVOKE (R451). -/
def regionRevoke (fn q : Nat) (s : State) : State :=
  match siphonChain s fn q 0x2B with
  | none => s
  | some ch =>
    match regionOf s fn (sRegion (ch.entries.headD [])) with
    | none => finishChain fn q ch.first stOK 0 s
    | some g =>
      if (s.region g).valid then
        revokeRegion g true (updChain fn q ch.first (fun c => { c with started := true }) s)
      else finishChain fn q ch.first stOK 0 s

def execRegionRevoke (t fn q : Nat) (s : State) : Host.Outcome State Fault Refusal :=
  .next (regionRevoke fn q (advance t s))

/-- Does a message still read or write a region it was checked against before the revoke point? -/
def msgUses (s : State) (g : Nat) (r : Region) (c : Channel) (m : SMsg) : Bool :=
  let within := fun (a : Nat) => decide (c.fn = r.fn) && isDdr r.base && isDdr a
    && decide (r.base % 2 ^ 41 ≤ a % 2 ^ 41 ∧ a % 2 ^ 41 < r.base % 2 ^ 41 + r.len)
  let buffer := match m.owner with
    | some o => ((chainAt (s.queue o.1 o.2.1) o.2.2).map (fun ch => sDataAddr (ch.entries.headD []))).getD 0
    | none => 0
  (decide (m.op = 4 ∧ m.key = regionKey g r) && !m.cut)
  || ((ownMsg m || m.part) && within m.laddr && (!m.cut || decide (m.op = 3)))
  || (decide (m.op = 8) && within buffer)

/-- Is nothing checked under the old epoch left? -/
def revokeQuiet (s : State) (g : Nat) : Bool :=
  let r := s.region g
  s.siphon.channels.all (fun e => e.2.msgs.all (fun m => !msgUses s g r e.2 m)
    && e.2.reads.all (fun x => decide (x.key ≠ regionKey g r)))

/-- REVOKE_FENCE (R451): the revoke of local region `region` completes. -/
def revokeFence (fn q region : Nat) (s : State) : State :=
  match regionOf s fn region with
  | none => s
  | some g =>
    match (s.queue fn q).chains.find? (fun c => c.started && !c.finished
        && decide (eOpcode (c.entries.headD []) = 0x2B) && decide (sRegion (c.entries.headD []) = region)) with
    | none => s
    | some ch =>
      if (s.region g).revoking && revokeQuiet s g then
        finishChain fn q ch.first stOK 0 (s.setRegion g { s.region g with revoking := false })
      else s

def execRevokeFence (t fn q region : Nat) (s : State) : Host.Outcome State Fault Refusal :=
  .next (revokeFence fn q region (advance t s))

/-! ### Capsules at their target (R452, R453, spec 14 R482, R483) -/

def capAt (c : Channel) (msg : Nat) : Option Capsule := c.capsules.find? (fun x => decide (x.msg = msg))

def updCap (g msg : Nat) (f : Capsule → Capsule) (s : State) : State :=
  let c := s.channel g
  s.setChannel g { c with capsules := c.capsules.map (fun x => if x.msg = msg then f x else x) }

/-- The response of Table 14.7. -/
def jrspBytes (status cmdId result : Nat) : Bytes :=
  [byteOf status, 0, 0, 0] ++ beBytes 4 cmdId ++ beBytes 4 result ++ zeros 4

/-- The command of a capsule ends: JRSP is sent (R452); its open grants close. -/
def capRespond (g msg status result : Nat) (s : State) : State :=
  match capAt (s.channel g) msg with
  | none => s
  | some x =>
    if x.responded then s
    else
      addReply g { SMsg.blank with id := msg, op := 0xA, len := 16, total := 16
                                   body := jrspBytes status (beField x.cmd 4 4) result }
        (updCap g msg (fun y => { y with responded := true, grants := [] }) s)

/-- Data for the initiator of a reading capsule (R452). -/
def capData (g msg : Nat) (data : Bytes) (s : State) : State :=
  if data = [] then s
  else addReply g { SMsg.blank with id := msg, op := 4, len := data.length, total := data.length, body := data } s

/-- Staging taken on a memory die: that of the slot that serves the namespace (spec 14 R477). -/
def stagingUsed (s : State) (md : Nat) : Nat :=
  (s.siphon.channels.map (fun e => ((e.2.capsules.filter (fun x => decide (x.md = md))).map (·.granted)).sum)).sum

/-- The next XFER_RDY of a writing capsule, as staging of 256 MiB frees (spec 14 R483, Table 14.5). -/
def grantNext (t g msg : Nat) (s : State) : State :=
  match capAt (s.channel g) msg with
  | none => s
  | some x =>
    let len := beField x.cmd 20 4
    let n := min 262144 (len - x.granted)
    if !x.started || x.responded || decide (n = 0) || decide (4 ≤ x.grants.length)
        || decide (268435456 < stagingUsed s (x.md) + n) then s
    else
      addReply g { SMsg.blank with id := msg, op := 9, len := n, base := x.granted, cut := false }
        (updCap g msg (fun y => { y with
          granted := y.granted + n
          grants := y.grants ++ [{ off := y.granted, len := n, got := 0, time := t }] }) s)

/-- XFER_GRANT (spec 14 R483). -/
def execXferGrant (t chan msg : Nat) (s : State) : Host.Outcome State Fault Refusal :=
  .next (grantNext t chan msg (advance t s))

/-- A queue RESET ends its Siphon messages with ABORTED_RESET, without completion, and takes its posted
RECV_NOTIFY entries back (spec 11 R380): nothing more of a message is read or cut, while the packets sent stay the
channel's, to be acknowledged (log entry 44). -/
def siphonQueueEnd (fn q : Nat) (s : State) : State :=
  let mine := fun (o : Nat × Nat × Nat) => decide (o.1 = fn ∧ o.2.1 = q)
  s.siphon.channels.foldl (fun st e =>
    if decide (e.2.fn = fn) then
      st.setChannel e.1 { e.2 with
        msgs := (e.2.msgs.filter (fun m => m.cut || !(m.owner.any mine))).map (fun m =>
          if m.owner.any mine then { m with owner := none } else m)
        recvs := e.2.recvs.filter (fun o => !mine o) }
    else st) s

/-- Every channel of a function enters ERROR with no completion (R431, Table 13.9). -/
def siphonEnd (fn : Nat) (s : State) : State :=
  s.siphon.channels.foldl (fun st e =>
    if e.2.fn = fn ∧ e.2.state ≠ 0 then channelError e.1 stSTATE none true st else st) s

/-- Every region of a function is invalidated, with revocation complete (Table 13.9). -/
def siphonRegionsEnd (fn : Nat) (s : State) : State :=
  s.siphon.regions.foldl (fun st e =>
    if e.2.fn = fn ∧ (e.2.valid ∨ e.2.revoking) then revokeRegion e.1 false st else st) s

end Sys2Proof.Machine
end

