-- ==== Sys2Proof/Machine/Journal.lean ====
section
/-! DEFINITION. The journal (spec 14): cartridge slots, namespaces, commands from queues and capsules,
units, the write cache, FLUSH, draining, self-test, sanitize and format. -/

namespace Sys2Proof.Machine

/-! ### Commands (R479 to R482) -/

/-- A journal command, from a queue's chain or a capsule. `dlen` is a capsule's data length. -/
structure JCmd where
  fn : Nat
  op : Nat
  handle : Nat
  param : Nat
  count : Nat
  lba : Nat
  ref : Nat
deriving DecidableEq, Repr

/-- The command of a FIRST entry (R479). -/
def entryCmd (fn first : Nat) (e : Bytes) : JCmd where
  fn := fn
  op := eOpcode e
  handle := leField e 16 2
  param := byteAt e 18
  count := leField e 20 4
  lba := leField e 24 8
  ref := first

/-- The command of a capsule (Table 14.7). -/
def capsuleCmd (fn : Nat) (b : Bytes) : JCmd where
  fn := fn
  op := byteAt b 0
  handle := beField b 2 2
  param := byteAt b 24
  count := beField b 16 4
  lba := beField b 8 8
  ref := 0

/-- Length of a log page, 0 where unknown (Table 14.8). -/
def logPageLen (p : Nat) : Nat :=
  match p with
  | 1 => 64
  | 2 => 32
  | 3 => 256
  | _ => 0

def jOpKnown (op : Nat) : Bool := decide (0x30 ≤ op ∧ op ≤ 0x38)
def jIsData (op : Nat) : Bool := decide (op = 0x30 ∨ op = 0x31)

/-- The namespace bound to a polder's handle (R475). -/
def boundNs (s : State) (fn handle : Nat) : Option Nat :=
  (s.jrn.spaces.find? (fun e => e.2.defined && decide (e.2.attach = some (fn, handle)))).map (·.1)

/-- Are parameter and block count outside Table 14.6 (R480)? -/
def jFieldsBad (s : State) (c : JCmd) : Bool :=
  let paramOk := if c.op = 0x35 then decide (logPageLen c.param ≠ 0)
    else if c.op = 0x36 then decide (c.param = 1 ∨ c.param = 2 ∨ c.param = 0x0F) else decide (c.param = 0)
  let countOk := if jIsData c.op then decide (1 ≤ c.count ∧ c.count ≤ 1024)
    else if c.op = 0x33 then decide (1 ≤ c.count) && (match boundNs s c.fn c.handle with
      | some n => decide (c.count ≤ (s.space n).size)
      | none => true)
    else decide (c.count = 0)
  !(paramOk && countOk)

/-- Word 8 of a JOURNAL queue's context (R478). -/
def journalContextOk (x : Queue) : Bool :=
  decide (1 ≤ qWord x 8 ∧ qWord x 8 ≤ 4096) && (List.range 7).all (fun i => decide (qWord x (9 + i) = 0))

def maxOutstanding (x : Queue) : Nat := bitsOf (qWord x 8) 12 0

/-- The reasons of entry `i` of a chain of a JOURNAL queue (spec 11 Table 11.6, 14 R480). -/
def journalReasons (s : State) (fn : Nat) (chain : List Bytes) (i : Nat) : List Nat :=
  let e := chain.getD i []
  let op := eOpcode e
  let head := chain.headD []
  let c := entryCmd fn 0 e
  let right := if eOpcode head = 0x31 then 0 else 1
  (if jOpKnown op || decide (op = 0x3F) then [] else [1])
  ++ (if op = 0x3F then
        (if eFirst e || i = 0 || !jIsData (eOpcode head) then [9] else [])
        ++ (if outside s fn right (eAddr e) (eLength e) then [7] else [])
      else if jOpKnown op then
        reserved e 19 1
        ++ (if (s.polder fn).counts.namespaces ≤ c.handle then [8] else [])
        ++ (if jFieldsBad s c then [9] else [])
        ++ (if jIsData op then
              (if i = 0 ∧ (chain.map eLength).sum ≠ c.count * 4096 then [9] else [])
              ++ (if i ≠ 0 then [9] else [])
              ++ (if outside s fn right (eAddr e) (eLength e) then [7] else [])
            else
              (if eFirst e && eLast e then [] else [9])
              ++ (if op = 0x34 then (if eLength e = 64 then [] else [9])
                  else if op = 0x35 then (if eLength e = logPageLen c.param then [] else [9])
                  else (if eLength e = 1 ∧ eAddr e = 0 then [] else [9]))
              ++ (if (op = 0x34 || op = 0x35) && outside s fn 1 (eAddr e) (eLength e) then [7] else []))
      else [])

/-- Is a capsule refused as MALFORMED (R482, R480)? A handle outside the count ends with RANGE. -/
def capsuleMalformed (s : State) (fn : Nat) (b : Bytes) : Bool :=
  let c := capsuleCmd fn b
  let dlen := if jIsData c.op then c.count * 4096 else if c.op = 0x35 then logPageLen c.param else 0
  decide (4 ≤ byteAt b 1) || decide (slice b 25 39 ≠ zeros 39) || !jOpKnown c.op || decide (beField b 20 4 ≠ dlen)
  || jFieldsBad s c

/-- The command of a source that may start now with an opcode (R485, spec 11 R368). -/
def jFind (s : State) (src : JSrc) (op : Nat) : Option JCmd :=
  match src with
  | .queue fn q =>
    let x := s.queue fn q
    if qKind x = kJOURNAL ∧ x.st ≠ .disabled ∧ !x.resetting then
      (x.chains.find? (fun c => mayStart x c && decide (eOpcode (c.entries.headD []) = op))).map
        (fun c => entryCmd fn c.first (c.entries.headD []))
    else none
  | .capsule g msg =>
    let c := s.channel g
    match capAt c msg with
    | none => none
    | some k =>
      let before := c.capsules.filter (fun y => decide (y.msg ≠ msg ∧ (msg + 2 ^ 32 - y.msg) % 2 ^ 32 < 2 ^ 31))
      let flag := fun (y : Capsule) i => (byteAt y.cmd 1).testBit i
      if !k.started && !k.responded && decide (byteAt k.cmd 0 = op)
          && before.all (fun y => y.responded || !flag y 0)
          && (!(flag k 0 || flag k 1) || before.all (·.responded)) then some (capsuleCmd c.fn k.cmd) else none

/-- Marks a command as started. -/
def jStart (src : JSrc) (c : JCmd) (s : State) : State :=
  match src with
  | .queue fn q => updChain fn q c.ref (fun x => { x with started := true }) s
  | .capsule g msg => updCap g msg (fun x => { x with started := true }) s

/-! ### Slots and namespaces as commands see them (R466, R471, R476) -/

/-- Keys of the block map. -/
def mapKey (ns lba : Nat) : Nat := ns * 2 ^ 64 + lba

def mirroredMode (s : State) : Bool := cfgN s 0x4300 1 == 1

/-- The slots that hold a namespace by its placement. -/
def nsSlots (p : Space) : List Nat := if p.placement = 2 then [0, 1] else [p.placement]

/-- Does a cartridge serve data? -/
def cartServes (st : Nat) : Bool := decide (st = 3 ∨ st = 4)

/-- The first of a namespace's slots whose cartridge is in a state that `p` picks. -/
def slotWhere (s : State) (p : Space) (f : CartSlot → Bool) : Option Nat := (nsSlots p).find? (fun i => f (s.cart i))

/-- The slot a namespace's commands are judged and served by: a member online that holds every block, then one
online, then one read-only, then one with a cartridge (R471, R472). -/
def judgeSlot (s : State) (p : Space) : Nat :=
  ((((slotWhere s p (fun c => decide (c.state = 3 ∧ c.rebuild = 100))).or
    (slotWhere s p (fun c => decide (c.state = 3)))).or
    (slotWhere s p (fun c => cartServes c.state))).or
    (slotWhere s p (fun c => decide (c.state ≠ 0)))).getD ((nsSlots p).headD 0)

/-- The members that take a namespace's writes: those online. -/
def writeSlots (s : State) (p : Space) : List Nat := (nsSlots p).filter (fun i => decide ((s.cart i).state = 3))

/-- A command as its source holds it. -/
def srcCmd (s : State) (src : JSrc) (ref : Nat) : Option JCmd :=
  match src with
  | .queue fn q => (chainAt (s.queue fn q) ref).map (fun c => entryCmd fn ref (c.entries.headD []))
  | .capsule g msg => (capAt (s.channel g) msg).map (fun x => capsuleCmd (s.channel g).fn x.cmd)

/-- A running self-test is suspended by any command for its cartridge (R499, R508). -/
def suspendTests (t n : Nat) (s : State) : State :=
  forEach (nsSlots (s.space n)) (fun i st =>
    let c := st.cart i
    st.setCart i { c with lastCmd := t, testState := if c.testState = 1 then 2 else c.testState }) s

/-- A command has come for a handle: tests of its cartridges are suspended. -/
def commandComes (fn : Nat) (c : JCmd) (s : State) : State :=
  match boundNs s fn c.handle with
  | none => s
  | some n => suspendTests s.clock n s

/-- A command ends with a status and a result: a completion, or JRSP. The 10 ms of R499 count from then. -/
def jEnd (src : Option JSrc) (ref status result : Nat) (s : State) : State :=
  match src with
  | none => s
  | some x =>
    let s1 := match (srcCmd s x ref).bind (fun c => boundNs s c.fn c.handle) with
      | none => s
      | some n => forEach (nsSlots (s.space n)) (fun i st => st.setCart i { st.cart i with lastCmd := s.clock }) s
    match x with
    | .queue fn q => finishChain fn q ref status result s1
    | .capsule g msg => capRespond g msg status result s1

/-- How a command on a namespace stands: held, refused with a status, or served. -/
inductive JGo where
  | wait
  | refuse (status : Nat)
  | go (ns : Nat)
deriving DecidableEq, Repr

/-- Commands that end with READ_ONLY on a cartridge at its end of life (Table 14.3). -/
def jWrites (op : Nat) : Bool := decide (op = 0x31 ∨ op = 0x33 ∨ op = 0x38)

/-- What a cartridge's state makes of a command, where it is not served (Table 14.3). -/
def cartAnswer (st op : Nat) : Option JGo :=
  match st with
  | 1 => some .wait
  | 3 => none
  | 4 => if jWrites op then some (.refuse stREAD_ONLY) else none
  | 7 => some (.refuse stMEDIA_ERROR)
  | 8 => some (.refuse stSANITIZING)
  | _ => some (.refuse stSTATE)

/-- Table 14.3, then Table 14.4, then the range of LBAs (R476, R480). -/
def jJudge (s : State) (src : JSrc) (c : JCmd) : JGo :=
  let foreign : Bool := match src with
    | .queue fn _ => decide (fn ≠ 0)
    | .capsule _ _ => true
  if (c.op = 0x37 ∨ c.op = 0x38) ∧ foreign then .refuse stACCESS
  else if s.jrn.state = 0 ∨ s.jrn.held then .wait
  else if (s.polder c.fn).counts.namespaces ≤ c.handle then .refuse stRANGE
  else match boundNs s c.fn c.handle with
  | none => .refuse stSTATE
  | some n =>
    let p := s.space n
    match cartAnswer (s.cart (judgeSlot s p)).state c.op with
    | some a => a
    | none =>
      if p.state = 5 then .refuse stSANITIZING
      else if p.state ≠ 1 ∧ p.state ≠ 2 then .refuse stSTATE
      else if p.size < c.lba + c.count then .refuse stRANGE
      else .go n

/-- A command of a source: held, refused, or carried out on its namespace. -/
def jRun (t : Nat) (src : JSrc) (op : Nat) (go : JCmd → Nat → State → State) (s : State) : State :=
  match jFind s src op with
  | none => s
  | some c =>
    match jJudge s src c with
    | .wait => s
    | .refuse st => jEnd (some src) c.ref st 0 s
    | .go n => go c n (suspendTests t n s)

/-! ### Counters that follow a cartridge (R503) -/

/-- Counts `n` in counter 0x4301 + slot, sub 0x10 + k. -/
def cartCount (i k n : Nat) (s : State) : State :=
  let c := s.cart i
  let m := c.media
  let m1 := match k with
    | 0 => { m with written := satAdd64 m.written n }
    | 1 => { m with readCount := satAdd64 m.readCount n }
    | 2 => { m with mediaErrors := satAdd64 m.mediaErrors n }
    | 3 => { m with remapped := satAdd64 m.remapped n }
    | _ => { m with lost := satAdd64 m.lost n }
  countEv (0x510 + 8 * i + k) n none none none (s.setCart i { c with media := m1 })

def raiseCart (i k : Nat) (s : State) : State := raiseSlot i k s

def cartCapacity (c : CartSlot) : Nat := beField c.identity 24 8
def cartUsable (c : CartSlot) : Nat := cartCapacity c * 15 / 16
def cartEndurance (c : CartSlot) : Nat := beField c.identity 32 8

/-- CartLifeRemaining (R468). -/
def cartLife (c : CartSlot) : Nat :=
  let e := cartEndurance c
  if e = 0 then 0 else 100 - min 100 (ceilDiv (100 * c.media.meanCycles) e)

/-! ### Keys (R474) -/

/-- The tweak of a block as IEEE 1619 encodes it. -/
def blockTweak (ns lba : Nat) : Bytes := leBytes 16 (ns * 2 ^ 64 + lba)

def nsKey (s : State) (n : Nat) : Bytes :=
  match (s.space n).keySlot with
  | some g => (s.keySlot g).key
  | none => []

def keyCheckOf (key : Bytes) : Bytes := (Config.zeroBlockCipher (key.take 32)).take 4

/-- A namespace's blob: the key and the slot it goes to, or the abort (R474). -/
def journalBlob (s : State) (b : Bytes) : Except Nat (Blob × Nat) :=
  match openBlob s 0 b with
  | .error _ => .error aRANGE
  | .ok x =>
    if x.alg = 8 ∧ x.usage.testBit useJournal ∧ x.slot = 0xFFFF then
      match freeLocalSlot s 0 with
      | none => .error aRESOURCE
      | some l => match globalOf s 0 2 l with
        | some g => .ok (x, g)
        | none => .error aRESOURCE
    else .error aRANGE

/-- The abort of a namespace's blob. -/
def journalBlobBad (s : State) (b : Bytes) : Option Nat :=
  match journalBlob s b with
  | .error a => some a
  | .ok _ => none

/-- The namespace's key slot is cleared. -/
def nsDropKey (n : Nat) (s : State) : State :=
  match (s.space n).keySlot with
  | none => s
  | some g => clearSlot g (s.setSpace n { s.space n with keySlot := none })

/-- A namespace's key goes into a slot and is used by the namespace (spec 12 R398). -/
def nsTakeKey (n g : Nat) (x : Blob) (s : State) : State :=
  addUser g (loadSlot g x (s.setSpace n { s.space n with keySlot := some g }))

/-! ### Units (R486, R487, R504) -/

def dirtyBytes (c : CartSlot) : Nat :=
  (c.dirty.map (fun u => ((u.blocks.filter (fun b => b.2.isSome)).length) * 4096)).sum

def dirtyLimit (s : State) : Nat := cfgN s 0x4300 2 * 1048576

/-- Cuts blocks into units of 16. -/
def chunk16 {α : Type} : Nat → List α → List (List α)
  | 0, _ => []
  | k + 1, l => if l = [] then [] else l.take 16 :: chunk16 k (l.drop 16)

/-- The latest versions after a unit is committed. -/
def commitUnit (u : JUnit) (s : State) : State :=
  let put : Tab Ver → Nat × Option Bytes → Tab Ver := fun m b =>
    Tab.set Ver.zero m (mapKey u.ns b.1) (match b.2 with
      | some x => Ver.text x
      | none => Ver.zero)
  modJrn (fun j => { j with map := u.blocks.foldl put j.map }) s

/-- One unit of a write: its blocks wait for the farm, one message each (R487, spec 12 R411). -/
def addUnit (src : JSrc) (ref job ns before : Nat) (blocks : List (Nat × Bytes)) (last : Bool) (s : State) : State :=
  let id := s.jrn.nextUnit
  let u : JUnit :=
    { id := id, job := job, src := some src, ref := ref, ns := ns, before := before
      blocks := blocks.map (fun b => (b.1, none)), slots := writeSlots s (s.space ns), ready := false, failed := false
      ends := if last then some stOK else none }
  let s1 := modJrn (fun j => { j with units := j.units ++ [u], nextUnit := id + 1 }) s
  forEach blocks.zipIdx (fun b st => cipherWait
    { user := .journal, q := b.2, ref := id, op := 0x15, slot := 0
      params := padTo 32 (blockTweak ns b.1.1), source := (b.1.2 : Bytes), aad := 0, restarted := false, key := nsKey st ns } st) s1

/-- The blocks of a run of bytes from an LBA on. -/
def blocksOf (lba : Nat) (data : Bytes) : List (Nat × Bytes) :=
  (List.range (data.length / 4096)).map (fun i => (lba + i, slice data (4096 * i) 4096))

/-- All units of a write whose data is there. -/
def addUnits (src : JSrc) (c : JCmd) (ns : Nat) (data : Bytes) (s : State) : State :=
  let units := chunk16 64 (blocksOf c.lba data)
  let job := s.jrn.nextUnit
  forEach units.zipIdx (fun u st =>
    addUnit src c.ref job ns (16 * u.2) u.1 (decide (16 * u.2 + u.1.length = c.count)) st) s

/-- A capsule's block lands in staging as ciphertext (01 R35). -/
def stageBlock (u : JUnit) (i : Nat) (text : Bytes) (s : State) : State :=
  match u.src with
  | some (.capsule g msg) => updCap g msg (fun y => { y with staging := splice y.staging (4096 * (u.before + i)) text }) s
  | _ => s

/-- The farm has encrypted block `i` of a unit. -/
def blockDone (id i : Nat) (text : Bytes) (s : State) : State :=
  let s1 := match s.jrn.units.find? (fun u => decide (u.id = id)) with
    | some u => stageBlock u i text s
    | none => s
  modJrn (fun j => { j with units := j.units.map (fun u =>
    if u.id = id then
      let bs := (u.blocks.zipIdx).map (fun e => if e.2 = i then (e.1.1, some text) else e.1)
      { u with blocks := bs, ready := bs.all (·.2.isSome) }
    else u) }) s1

/-- A command's units that are not accepted are dropped, and its waiting messages with them. -/
def dropJob (job : Nat) (s : State) : State :=
  let ids := (s.jrn.units.filter (fun u => decide (u.job = job))).map (·.id)
  cipherDrop (fun m => decide (m.user = .journal) && ids.contains m.ref)
    (modJrn (fun j => { j with units := j.units.filter (fun u => decide (u.job ≠ job)) }) s)

/-- A write ends before all of its units are accepted: its result is the blocks accepted. -/
def endJob (u : JUnit) (status : Nat) (s : State) : State :=
  jEnd u.src u.ref status u.before (dropJob u.job s)

/-- May units be accepted (R487, R492, R497)? -/
def acceptOpen (s : State) : Bool := decide (s.jrn.state = 1 ∨ s.jrn.state = 2)

/-- The cartridges a unit is accepted for: the members online, and one that is quiesced since the write began. -/
def unitTargets (s : State) (u : JUnit) : List Nat :=
  (nsSlots (s.space u.ns)).filter (fun i =>
    decide ((s.cart i).state = 3) || (decide ((s.cart i).state = 5) && u.slots.contains i))

/-- UNIT_ACCEPT (R486 to R488, R510). -/
def unitAccept (id : Nat) (s : State) : State :=
  match s.jrn.units.find? (fun u => decide (u.id = id)) with
  | none => s
  | some u =>
    if s.jrn.units.any (fun x => decide (x.job = u.job ∧ x.id < u.id)) || !acceptOpen s then s
    else if u.failed then endJob u stNO_RESOURCE s
    else
      match unitTargets s u, cartAnswer (s.cart (judgeSlot s (s.space u.ns))).state 0x31 with
      | [], some (.refuse code) => endJob u code s
      | slots, _ =>
        if slots = [] ∨ !u.ready ∨ slots.any (fun i =>
            decide (dirtyLimit s < dirtyBytes (s.cart i) + 4096 * u.blocks.length)) then s
        else
          let s1 := commitUnit u (modJrn (fun j => { j with units := j.units.filter (fun x => decide (x.id ≠ id)) }) s)
          let s2 := forEach slots (fun i st =>
            let c := st.cart i
            st.setCart i { c with dirty := c.dirty ++ [{ u with slots := slots }] }) s1
          match u.ends with
          | some code => jEnd u.src u.ref code (u.before + u.blocks.length) s2
          | none => s2

def execUnitAccept (t unit : Nat) (s : State) : Host.Outcome State Fault Refusal :=
  .next (unitAccept unit (advance t s))

/-! ### Draining and FLUSH (R489, R490) -/

/-- Is a unit still in some write cache? -/
def unitDirty (s : State) (id : Nat) : Bool :=
  [0, 1].any (fun i => (s.cart i).dirty.any (fun u => decide (u.id = id)))

/-- FLUSHes whose units have all been drained complete. -/
def flushDone (s : State) : State :=
  let done := s.jrn.flushes.filter (fun f => f.units.all (fun id => !unitDirty s id))
  forEach done (fun f st => jEnd f.src f.ref stOK 0 st)
    (modJrn (fun j => { j with flushes := j.flushes.filter (fun f => !done.contains f) }) s)

/-- What the CRC-32C of a commit record covers (log entry 127). -/
def commitBytes (seq ns : Nat) (blocks : List (Nat × Option Bytes)) : Bytes :=
  beBytes 8 seq ++ beBytes 2 ns ++ blocks.flatMap (fun b => beBytes 8 b.1 ++ [if b.2.isSome then 1 else 0])

/-- The commit record of a unit (R490). -/
def mkCommit (seq ns : Nat) (blocks : List (Nat × Option Bytes)) : CommitRec :=
  { seq := seq, ns := ns, blocks := blocks, crc := crc32c (commitBytes seq ns blocks) }

def commitOk (r : CommitRec) : Bool := decide (r.crc = crc32c (commitBytes r.seq r.ns r.blocks))

/-- A commit record is applied to the blocks of a cartridge. -/
def applyRec (l : List MediaBlock) (r : CommitRec) : List MediaBlock :=
  r.blocks.foldl (fun m b =>
    let rest := m.filter (fun x => !decide (x.ns = r.ns ∧ x.lba = b.1))
    match b.2 with
    | some x => rest ++ [{ ns := r.ns, lba := b.1, text := x }]
    | none => rest) l

/-- The oldest dirty unit of a slot reaches the cartridge with its commit record. -/
def drainOne (i : Nat) (s : State) : State :=
  let c := s.cart i
  match c.dirty with
  | [] => s
  | u :: rest =>
    let r := mkCommit (c.drainSeq + 1) u.ns u.blocks
    cartCount i 0 ((u.blocks.filter (fun b => b.2.isSome)).length)
      (s.setCart i { c with
        dirty := rest, drainSeq := c.drainSeq + 1
        media := { c.media with blocks := if commitOk r then applyRec c.media.blocks r else c.media.blocks } })

/-- Every dirty unit of a slot is drained. -/
def drainAll (i : Nat) (s : State) : State :=
  (s.cart i).dirty.foldl (fun st _ => drainOne i st) s

/-- After a drain, once AC_FAIL_N has stayed high for its 10 ms, acceptance resumes (R494); not after
THERMTRIP_N (spec 18 R599). -/
def powerResume (s : State) : State :=
  if s.jrn.state = 4 ∧ s.board.acFail = 0 ∧ !s.board.thermtrip then
    modJrn (fun j => { j with state := if !s.boot.journalSet then 0 else if j.held then 2 else 1 }) s
  else s

/-- The emergency drain ends (R492, R506): what is still dirty is drained; then JournalState 4. -/
def emergencyDrained (s : State) : State :=
  powerResume (raise 331 (count 0x4300 0x15 (modJrn (fun j => { j with state := 4 }) (flushDone (drainAll 1 (drainAll 0 s))))))

/-! ### WRITE and READ (R486, R487, R491) -/

/-- The host segments of a command of a queue. -/
def jSegs (s : State) (fn q ref : Nat) : List (Nat × Nat) :=
  match chainAt (s.queue fn q) ref with
  | none => []
  | some ch => ch.entries.map (fun e => (eAddr e, eLength e))

/-- JOURNAL_WRITE: a queue's data is read; a capsule's is granted and arrives (R483). -/
def journalWrite (t : Nat) (src : JSrc) (h : HostData) (c : JCmd) (n : Nat) (s : State) : State :=
  match src with
  | .queue fn q =>
    hostOp fn q c.ref [] (jSegs s fn q c.ref) h (fun d st =>
      addUnits src c n d (jStart src c (countQ 0x4300 0x10 1 none none (some fn) st))) s
  | .capsule g msg =>
    let md := (nsSlots (s.space n)).headD 0
    let s1 := updCap g msg (fun x => { x with started := true, md := md, hd := zeros (c.count * 4096), staging := zeros (c.count * 4096) })
      (countQ 0x4300 0x10 1 none none (some c.fn) s)
    grantNext t g msg (grantNext t g msg (grantNext t g msg (grantNext t g msg s1)))

/-- A WRITE with its host bytes. -/
def journalWriteOp (t : Nat) (src : JSrc) (h : HostData) (s : State) : State := jRun t src 0x31 (journalWrite t src h) s

def execJournalWrite (t : Nat) (src : JSrc) (data : Option Bytes) (s : State) : Host.Outcome State Fault Refusal :=
  .next (journalWriteOp t src (.of data) (advance t s))

/-- An error of the media or of a dirty line, as it is reported (R491, page 0x03). -/
def mediaError (ns lba slot status : Nat) (s : State) : State :=
  raiseCart slot 8 (cartCount slot 2 1 (modJrn (fun j => { j with
    errors := ({ ns := ns, lba := lba, status := status, slot := slot, seconds := timeNow s / unitsPerSec }
      :: j.errors) }) s))

/-- Is the block's latest version still a dirty line of a slot? -/
def dirtyBlock (s : State) (i ns lba : Nat) : Bool :=
  (s.cart i).dirty.any (fun u => decide (u.ns = ns) && u.blocks.any (fun b => decide (b.1 = lba) && b.2.isSome))

/-- A dirty line is lost: its block is no longer drained, is counted, and reads with MEDIA_ERROR (R491). -/
def loseLine (i ns lba : Nat) (s : State) : State :=
  let c := s.cart i
  mediaError ns lba i stMEDIA_ERROR (cartCount i 4 1
    (modJrn (fun j => { j with map := Tab.set Ver.zero j.map (mapKey ns lba) .lost })
      (s.setCart i { c with dirty := c.dirty.map (fun u =>
        if u.ns = ns then { u with blocks := u.blocks.filter (fun b => decide (b.1 ≠ lba)) } else u) })))

/-- Reads one block: its plaintext, or none with MEDIA_ERROR. `bad` gives the slots whose copy of the block cannot be
read; the other member is read before the block is given up, and the failed one is rewritten (R471, R491). -/
def readBlock (ns lba : Nat) (bad : List Nat) (s : State) : Option Bytes × State :=
  let p := s.space ns
  let i := judgeSlot s p
  let v := Tab.get Ver.zero s.jrn.map (mapKey ns lba)
  let other := (nsSlots p).find? (fun k => decide (k ≠ i ∧ (s.cart k).state = 3 ∧ (s.cart k).rebuild = 100) && !bad.contains k)
  match v with
  | .zero => (some (zeros 4096), s)
  | .lost => (none, mediaError ns lba i stMEDIA_ERROR s)
  | .text x =>
    let plain := some (Config.xtsDecrypt (nsKey s ns) (blockTweak ns lba) x)
    if !bad.contains i then (plain, cartCount i 1 1 s)
    else match other, dirtyBlock s i ns lba with
      | some k, true => (plain, cartCount k 1 1 (cartCount i 4 1 s))
      | some k, false => (plain, cartCount i 0 1 (cartCount k 1 1 (mediaError ns lba i stMEDIA_ERROR s)))
      | none, true => (none, loseLine i ns lba s)
      | none, false => (none, mediaError ns lba i stMEDIA_ERROR s)

/-- Reads blocks until one fails. -/
def readBlocks (ns : Nat) (bad : List (Nat × Nat)) : List Nat → State → Bytes × Bool × State
  | [], s => ([], true, s)
  | b :: rest, s =>
    match readBlock ns b ((bad.filter (fun e => decide (e.2 = b))).map (·.1)) s with
    | (none, s1) => ([], false, s1)
    | (some d, s1) =>
      let r := readBlocks ns bad rest s1
      (d ++ r.1, r.2)

/-- Bytes a command writes to its requester: over a chain's segments, or to a capsule's initiator. -/
def jOutput (src : JSrc) (c : JCmd) (data : Bytes) (s : State) : State :=
  match src with
  | .queue fn q => writeSegs fn q c.ref [] (jSegs s fn q c.ref) data s
  | .capsule g msg => capData g msg data s

/-- JOURNAL_READ (R491): its blocks are decrypted one after another on a core, for which it waits (12 R393), and a
queue's are written to host memory, while its function may make requests. -/
def journalRead (src : JSrc) (bad : List (Nat × Nat)) (c : JCmd) (n : Nat) (s : State) : State :=
  if !farmFree s || (match src with
      | .queue fn _ => !fnRuns s fn
      | .capsule _ _ => false) then s
  else
  let r := readBlocks n bad ((List.range c.count).map (c.lba + ·))
    (countQ 0x4300 0x11 1 none none (some c.fn) (jStart src c s))
  jEnd (some src) c.ref (if r.2.1 then stOK else stMEDIA_ERROR) 0 (jOutput src c r.1 r.2.2)

def execJournalRead (t : Nat) (src : JSrc) (badBlocks : List (Nat × Nat)) (s : State) : Host.Outcome State Fault Refusal :=
  .next (jRun t src 0x30 (journalRead src badBlocks) (advance t s))

/-- JOURNAL_FLUSH (R489). -/
def journalFlush (src : JSrc) (c : JCmd) (n : Nat) (s : State) : State :=
  let ids := ([0, 1].flatMap (fun i => ((s.cart i).dirty.filter (fun u => decide (u.ns = n))).map (·.id))).dedup
  let s1 := countQ 0x4300 0x12 1 none none (some c.fn) (jStart src c s)
  if ids = [] then jEnd (some src) c.ref stOK 0 s1
  else modJrn (fun j => { j with
    flushes := j.flushes ++ [{ src := some src, ref := c.ref, ns := n, units := ids }] }) s1

def execJournalFlush (t : Nat) (src : JSrc) (s : State) : Host.Outcome State Fault Refusal :=
  .next (jRun t src 0x32 (journalFlush src) (advance t s))

/-- DEALLOCATE (R486): its units are accepted in order and drained with commit records. -/
def deallocate (src : JSrc) (c : JCmd) (n : Nat) (s : State) : State :=
  if !acceptOpen s then s
  else
    let slots := writeSlots s (s.space n)
    let blocks := (List.range c.count).map (fun i => (c.lba + i, (none : Option Bytes)))
    let job := s.jrn.nextUnit
    let s1 := forEach (chunk16 c.count blocks).zipIdx (fun b st =>
      let u : JUnit :=
        { id := st.jrn.nextUnit, job := job, src := none, ref := 0, ns := n, before := 16 * b.2, blocks := b.1
          slots := slots, ready := true, failed := false, ends := none }
      forEach slots (fun i x =>
          let k := x.cart i
          x.setCart i { k with dirty := k.dirty ++ [u] })
        (commitUnit u (modJrn (fun j => { j with nextUnit := j.nextUnit + 1 }) st))) s
    jEnd (some src) c.ref stOK c.count (jStart src c s1)

def execDeallocate (t : Nat) (src : JSrc) (s : State) : Host.Outcome State Fault Refusal :=
  .next (jRun t src 0x33 (deallocate src) (advance t s))

/-! ### IDENTIFY and LOG_READ (R481, R484) -/

/-- Blocks allocated: those whose latest version is not zero. -/
def nsAllocated (s : State) (n : Nat) : Nat :=
  (s.jrn.map.filter (fun e => decide (e.1 / 2 ^ 64 = n))).length

/-- A number in the byte order a structure takes. -/
def ordBytes (little : Bool) (len n : Nat) : Bytes := if little then leBytes len n else beBytes len n

/-- Progress of a namespace's format: while it runs, at least the percent it began at. -/
def formatShown (s : State) (n : Nat) : Nat :=
  if (s.space n).formatBy.isSome then max (s.space n).progress (Config.progress (8 + n) s.clock) else (s.space n).progress

/-- The namespace record of Table 14.9. -/
def nsRecord (little : Bool) (s : State) (n : Nat) : Bytes :=
  let p := s.space n
  ordBytes little 2 n ++ [byteOf p.placement, byteOf p.state] ++ ordBytes little 8 p.size
  ++ ordBytes little 2 ((p.attach.map (·.1)).getD 0xFFFF) ++ ordBytes little 2 ((p.attach.map (·.2)).getD 0)
  ++ padTo 4 p.keyCheck ++ ordBytes little 8 (nsAllocated s n) ++ [byteOf (formatShown s n), 0, 0, 0]

/-- CartLifeRemaining as IDENTIFY gives it: 0xFF for a slot without a cartridge. -/
def lifeByte (s : State) (i : Nat) : Byte := if (s.cart i).present then byteOf (cartLife (s.cart i)) else 0xFF

def identify (src : JSrc) (c : JCmd) (n : Nat) (s : State) : State :=
  let d := nsRecord true s n ++ leBytes 4 4096 ++ leBytes 4 1024 ++ leBytes 4 16 ++ [lifeByte s 0, lifeByte s 1] ++ zeros 18
  jEnd (some src) c.ref stOK 64 (jOutput src c d (jStart src c s))

def execIdentify (t : Nat) (src : JSrc) (s : State) : Host.Outcome State Fault Refusal :=
  .next (jRun t src 0x34 (identify src) (advance t s))

/-- Progress of a slot's self-test, sanitize and mirror copy. -/
def testShown (s : State) (i : Nat) : Nat :=
  if (s.cart i).testState = 0 then (s.cart i).testProgress else Config.progress i s.clock
def sanitizeShown (s : State) (i : Nat) : Nat :=
  if (s.cart i).state = 8 then max (s.cart i).sanitizeProgress (Config.progress (2 + i) s.clock) else 100
def rebuildShown (s : State) (i : Nat) : Nat :=
  if (s.cart i).rebuild = 100 then 100 else Config.progress (4 + i) s.clock

/-- SelfTestStatus of a slot (Table 14.12). -/
def testStatus (little : Bool) (s : State) (i : Nat) : Bytes :=
  let c := s.cart i
  [byteOf c.testState, byteOf c.testCode, byteOf (testShown s i), byteOf c.testResult] ++ ordBytes little 4 c.testSegment

/-- Namespaces of a slot. -/
def slotSpaces (s : State) (i : Nat) : List (Nat × Space) :=
  s.jrn.spaces.filter (fun e => e.2.defined && (nsSlots e.2).contains i)

def healthBytes (s : State) (i : Nat) : Bytes :=
  let c := s.cart i
  [byteOf c.state, byteOf (cartLife c)] ++ leBytes 2 (slotSpaces s i).length ++ zeros 4 ++ leBytes 8 c.media.written
  ++ leBytes 8 c.media.mediaErrors ++ leBytes 8 c.media.remapped

def logPage (s : State) (n page : Nat) : Bytes :=
  if page = 1 then healthBytes s 0 ++ healthBytes s 1
  else if page = 2 then
    [0, 1].flatMap (fun i => testStatus true s i ++ leBytes 8 (s.cart i).testTime)
  else
    padTo 256 (((s.jrn.errors.filter (fun e => decide (e.ns = n))).take 16).flatMap (fun e =>
      leBytes 8 e.lba ++ [byteOf e.status, byteOf e.slot, 0, 0] ++ leBytes 4 e.seconds))

def logRead (src : JSrc) (c : JCmd) (n : Nat) (s : State) : State :=
  let d := logPage s n c.param
  jEnd (some src) c.ref stOK d.length (jOutput src c d (jStart src c s))

def execLogRead (t : Nat) (src : JSrc) (s : State) : Host.Outcome State Fault Refusal :=
  .next (jRun t src 0x35 (logRead src) (advance t s))

/-! ### Self-tests (R499) -/

/-- Ends a running or suspended self-test with a result. -/
def testEnd (i result segment : Nat) (s : State) : State :=
  let c := s.cart i
  raiseCart i 9 (s.setCart i { c with
    testState := 0, testResult := result, testSegment := segment, testTime := timeNow s / unitsPerSec
    testProgress := if result = 3 then testShown s i else 100 })

/-- A test starts, or the running one is aborted; false where R499 refuses it with STATE. -/
def testStart (i code : Nat) (s : State) : Bool × State :=
  let c := s.cart i
  if code = 0x0F then (if c.testState = 0 then (false, s) else (true, testEnd i 3 0 s))
  else if c.testState ≠ 0 ∨ !cartServes c.state then (false, s)
  else (true, s.setCart i { c with testState := 1, testCode := code, testProgress := 0, testResult := 0, testSegment := 0 })

/-- JOURNAL_SELF_TEST: the cartridge of the command's namespace. -/
def journalSelfTest (src : JSrc) (c : JCmd) (n : Nat) (s : State) : State :=
  let r := testStart (judgeSlot s (s.space n)) c.param (jStart src c s)
  jEnd (some src) c.ref (if r.1 then stOK else stSTATE) 0 r.2

def execJournalSelfTest (t : Nat) (src : JSrc) (s : State) : Host.Outcome State Fault Refusal :=
  .next (jRun t src 0x36 (journalSelfTest src) (advance t s))

/-- The slot of an object index, and its actions' indices. -/
def slotOf (idx : Nat) : Nat := idx - 0x4301
def slotAct (k idx sub : Nat) : Bool := decide ((idx = 0x4301 ∨ idx = 0x4302) ∧ sub = k)

/-- SELF_TEST_START (R499). -/
def execSelfTestStart (r : Rq) (s : State) : Host.Outcome State Fault Refusal :=
  .next (serveAction (slotAct 0xA)
    (fun q s =>
      let code := byteAt q.msg.data 0
      abortIf (code ≠ 1 && code ≠ 2 && code ≠ 0x0F) aRANGE
      ++ abortIf (!(testStart (slotOf q.msg.index) code s).1) aSTATE)
    (fun q s => ((testStart (slotOf q.msg.index) (byteAt q.msg.data 0) s).2, .done)) r s)

/-- Commands of queues and capsules that are not done: the namespace of each, and whether it has started. -/
def jPending (s : State) : List (Nat × Bool) :=
  s.wq.queues.flatMap (fun e => if qKind e.2 = kJOURNAL then
      (e.2.chains.filter (!·.finished)).filterMap (fun c =>
        (boundNs s (e.1 / 1024) (entryCmd 0 0 (c.entries.headD [])).handle).map (fun n => (n, c.started)))
    else [])
  ++ s.siphon.channels.flatMap (fun e => (e.2.capsules.filter (!·.responded)).filterMap (fun x =>
      (boundNs s e.2.fn (capsuleCmd 0 x.cmd).handle).map (fun n => (n, x.started))))

/-- Commands of a slot's namespaces whose units or flushes still stand. -/
def slotBusy (s : State) (i : Nat) : Bool :=
  s.jrn.units.any (fun u => (nsSlots (s.space u.ns)).contains i) || s.jrn.flushes.any (fun f => (nsSlots (s.space f.ns)).contains i)

/-- Is a command for a slot's cartridge pending? Has one started that is not done? -/
def slotPending (s : State) (i : Nat) : Bool := slotBusy s i || (jPending s).any (fun e => (nsSlots (s.space e.1)).contains i)
def slotStarted (s : State) (i : Nat) : Bool :=
  slotBusy s i || (jPending s).any (fun e => e.2 && (nsSlots (s.space e.1)).contains i)

/-- Commands a journal engine holds (R484). -/
def engineHolds (s : State) (i : Nat) : Nat := ((jPending s).filter (fun e => (nsSlots (s.space e.1)).contains i)).length

/-- CART_SELF_TEST_RESUME (R499). -/
def execCartSelfTestResume (t slot : Nat) (s : State) : Host.Outcome State Fault Refusal :=
  let s1 := advance t s
  let c := s1.cart slot
  .next (if slot < 2 ∧ c.testState = 2 ∧ s1.jrn.state = 1 ∧ !slotPending s1 slot ∧ c.lastCmd + 10 ^ 13 ≤ t then
    s1.setCart slot { c with testState := 1 } else s1)

/-! ### Members that leave and come (R472, R476) -/

/-- The state of a namespace whose key and cartridges are there (R472, R476). -/
def liveState (s : State) (p : Space) : Nat :=
  let on := (nsSlots p).filter (fun i => cartServes (s.cart i).state || decide ((s.cart i).state = 5 ∨ (s.cart i).state = 8))
  let whole := (nsSlots p).all (fun i => decide (((s.cart i).state = 3 ∨ (s.cart i).state = 8) ∧ (s.cart i).rebuild = 100))
  if p.keySlot.isNone then 3
  else if on = [] then 4
  else if p.placement = 2 ∧ !whole then 2
  else 1

/-- States of a slot's namespaces follow its cartridges and keys. -/
def settleSpaces (s : State) : State :=
  modJrn (fun j => { j with spaces := j.spaces.map (fun e =>
    if e.2.defined ∧ e.2.state ≠ 6 then
      (e.1, { e.2 with state := if e.2.formatBy.isSome ∧ e.2.keySlot.isSome then 5 else liveState s e.2 })
    else e) }) s

/-- A slot's cartridge is no longer ONLINE: where the other member is, the namespaces are DEGRADED (R472). -/
def leaveMirror (i : Nat) (s : State) : State :=
  let s1 := settleSpaces s
  if mirroredMode s ∧ (s.cart (1 - i)).state = 3 then raiseCart i 6 s1 else s1

/-- The last step of a cartridge's life (R468): warning at 10, read-only at 0 or with no spare left. -/
def lifeCheck (i : Nat) (s : State) : State :=
  let c := s.cart i
  let s1 := if cartLife c ≤ 10 ∧ !c.lifeWarned then raiseCart i 2 (s.setCart i { c with lifeWarned := true }) else s
  let c1 := s1.cart i
  if (cartLife c1 = 0 ∨ c1.media.spareOut) ∧ c1.state = 3 then leaveMirror i (raiseCart i 3 (s1.setCart i { c1 with state := 4 })) else s1

/-- Segments remapped, the mean write cycles and whether the spare holds a further segment, as the cartridge has them
(R467, R468). -/
def cartWear (i cycles remapped : Nat) (spare : Bool) (s : State) : State :=
  let s1 := if remapped = 0 then s else cartCount i 3 remapped s
  let c := s1.cart i
  lifeCheck i (s1.setCart i { c with media := { c.media with
    meanCycles := max c.media.meanCycles cycles, spareOut := c.media.spareOut || !spare } })

/-- UNIT_DRAIN (R490, R467, R468). -/
def execUnitDrain (t : Nat) (w : Drained) (s : State) : Host.Outcome State Fault Refusal :=
  let s1 := advance t s
  .next (if w.slot < 2 ∧ (s1.cart w.slot).dirty ≠ [] then
    cartWear w.slot w.meanCycles w.remapped w.spare (flushDone (drainOne w.slot s1)) else s1)

/-- CART_SELF_TEST_DONE (R499): a failing segment is remapped. -/
def execCartSelfTestDone (t slot : Nat) (pass : Bool) (w : TestReport) (s : State) :
    Host.Outcome State Fault Refusal :=
  let s1 := advance t s
  .next (if slot < 2 ∧ (s1.cart slot).testState = 1 ∧ s1.jrn.state = 1 then
    (if pass then testEnd slot 1 0 s1 else cartWear slot 0 1 w.spare (testEnd slot 2 w.segment s1))
  else s1)

/-! ### Sanitize and format (R500 to R502) -/

/-- Started commands on the namespaces that `hit` picks end with a status (R470, R500, R501). -/
def endStarted (hit : Nat → Bool) (status : Nat) (s : State) : State :=
  let us := s.jrn.units.filter (fun u => hit u.ns)
  let heads := us.filter (fun u => !(us.any (fun x => decide (x.job = u.job ∧ x.id < u.id))))
  let s1 := forEach heads (fun u st => endJob u status st) s
  let fs := s1.jrn.flushes.filter (fun f => hit f.ns)
  let s2 := forEach fs (fun f st => jEnd f.src f.ref status 0 st)
    (modJrn (fun j => { j with flushes := j.flushes.filter (fun f => !fs.contains f) }) s1)
  s2.siphon.channels.foldl (fun st e =>
    forEach (e.2.capsules.filter (fun x => x.started && !x.responded
        && (boundNs s e.2.fn (capsuleCmd 0 x.cmd).handle).any hit))
      (fun x y => jEnd (some (.capsule e.1 x.msg)) 0 status (min (16 * x.units) (beField x.cmd 16 4)) y) st) s2

/-- Is a namespace on a slot? -/
def onSlot (s : State) (i n : Nat) : Bool := (nsSlots (s.space n)).contains i

/-- The cartridges one sanitize erases: both in mirrored mode. -/
def sanitizeSlots (s : State) (i : Nat) : List Nat := if mirroredMode s then [0, 1] else [i]

/-- A sanitize starts; `by'` is the command to be answered when it ends. -/
def sanitizeStart (i : Nat) (by' : Option JSrc × Nat) (s : State) : State :=
  forEach (sanitizeSlots s i) (fun k st =>
    if cartServes (st.cart k).state then
      let st0 := if (st.cart k).testState ≠ 0 then testEnd k 3 0 st else st
      let st1 := endStarted (onSlot st0 k) stSANITIZING st0
      st1.setCart k { st1.cart k with
        state := 8, sanitizeBy := some (if k = i then by' else (none, 0)), sanitizeProgress := 0 }
    else st) s

/-- JOURNAL_SANITIZE (R500). -/
def journalSanitize (src : JSrc) (c : JCmd) (n : Nat) (s : State) : State :=
  sanitizeStart (judgeSlot s (s.space n)) (some src, c.ref) (jStart src c s)

def execJournalSanitize (t : Nat) (src : JSrc) (s : State) : Host.Outcome State Fault Refusal :=
  .next (jRun t src 0x37 (journalSanitize src) (advance t s))

/-- SANITIZE (R500). -/
def execSanitize (r : Rq) (s : State) : Host.Outcome State Fault Refusal :=
  .next (serveAction (slotAct 0xC)
    (fun q s => abortIf (!cartServes (s.cart (slotOf q.msg.index)).state) aSTATE)
    (fun q s => (sanitizeStart (slotOf q.msg.index) (none, 0) s, .done)) r s)

/-- Removes every block of the namespaces that `p` picks from the map, the caches and the cartridges. -/
def clearBlocks (p : Nat → Bool) (s : State) : State :=
  let cut := fun (i : Nat) (st : State) =>
    let c := st.cart i
    st.setCart i { c with
      dirty := c.dirty.filter (fun u => !p u.ns)
      media := { c.media with blocks := c.media.blocks.filter (fun b => !p b.ns) } }
  flushDone (cut 1 (cut 0 (modJrn (fun j => { j with map := j.map.filter (fun e => !p (e.1 / 2 ^ 64)) }) s)))

/-- A cartridge of a sanitize that has ended is online again, and the command that asked is answered. -/
def sanitizeEnd (i : Nat) (s : State) : State :=
  let c := s.cart i
  let s1 := raiseCart i 10 (s.setCart i { c with state := 3, sanitizeBy := none, sanitizeProgress := 100 })
  lifeCheck i (settleSpaces (match c.sanitizeBy with
    | some (src, ref) => jEnd src ref stOK 0 s1
    | none => s1))

/-- SANITIZE_COMPLETE (R500): every block reads as zeros. In mirrored mode the sanitize ends with the later of its two
erases. -/
def sanitizeComplete (slot : Nat) (s : State) : State :=
  let s1 := s.setCart slot { s.cart slot with sanitizeProgress := 100 }
  let mine := (sanitizeSlots s slot).filter (fun k => decide ((s1.cart k).state = 8))
  if mine.any (fun k => decide ((s1.cart k).sanitizeProgress ≠ 100)) then s1
  else forEach mine sanitizeEnd (clearBlocks (fun n => mine.any (fun k => onSlot s1 k n)) s1)

def execSanitizeComplete (t slot : Nat) (s : State) : Host.Outcome State Fault Refusal :=
  let s1 := advance t s
  .next (if slot < 2 ∧ (s1.cart slot).state = 8 ∧ s1.jrn.state = 1 then sanitizeComplete slot s1 else s1)

/-- A format starts. -/
def formatStart (n : Nat) (by' : Option JSrc × Nat) (s : State) : State :=
  let s1 := endStarted (fun k => decide (k = n)) stSANITIZING s
  s1.setSpace n { s1.space n with state := 5, formatBy := some by', progress := 0 }

/-- JOURNAL_FORMAT (R501). -/
def journalFormat (src : JSrc) (c : JCmd) (n : Nat) (s : State) : State :=
  jStart src c (formatStart n (some src, c.ref) s)

def execJournalFormat (t : Nat) (src : JSrc) (s : State) : Host.Outcome State Fault Refusal :=
  .next (jRun t src 0x38 (journalFormat src) (advance t s))

/-- FORMAT_COMPLETE (R501). -/
def execFormatComplete (t ns : Nat) (s : State) : Host.Outcome State Fault Refusal :=
  let s1 := advance t s
  let p := s1.space ns
  .next (if ns < 4096 ∧ p.state = 5 ∧ s1.jrn.state = 1 then
    let s2 := clearBlocks (fun n => decide (n = ns)) (s1.setSpace ns { p with
      state := liveState s1 p, formatBy := none, progress := 100 })
    match p.formatBy with
    | some (src, ref) => jEnd src ref stOK 0 s2
    | none => s2
  else s1)

/-! ### Bring-up (R464 to R466, R474, R490, R512) -/

/-- CART_PRSNT_N_FALL (R464). -/
def execCartPrsntNFall (t slot : Nat) (s : State) : Host.Outcome State Fault Refusal :=
  let s1 := advance t s
  let c := s1.cart slot
  .next (if slot < 2 ∧ !c.present then
    s1.setCart slot { CartSlot.reset with present := true, since := t, failedSerial := c.failedSerial } else s1)

/-- CART_PRESENT_DEBOUNCE (R464): low for 100 ms; power comes on and the link trains (18 R585). -/
def execCartPresentDebounce (t slot : Nat) (s : State) : Host.Outcome State Fault Refusal :=
  let s1 := advance t s
  let c := s1.cart slot
  .next (if slot < 2 ∧ c.present ∧ c.state = 0 ∧ c.since + 10 ^ 14 ≤ t ∧ s1.boot.started ∧ s1.boot.bootStatus ≠ 2 ∧ dieServes s1 (4 + slot) then
    s1.setCart slot { c with state := 1, pwren := true, perst := false, since := t } else s1)

/-- CARTs_REFCLK runs while CARTs_PWREN is high, derived from REFCLK (18 R584). -/
def cartRefclk (s : State) (i : Nat) : Bool := (s.cart i).pwren && s.board.refclk

/-- CARTs_PERST_N is low: held by the device, or not yet 20 ms after CARTs_PWREN rose (18 R585). -/
def cartPerstLow (s : State) (i : Nat) : Bool := (s.cart i).perst || decide (s.clock < (s.cart i).since + 20 * 10 ^ 12)

/-- A cartridge is refused (R465). -/
def cartRefuse (i reason : Nat) (s : State) : State :=
  raiseCart i 1 (s.setCart i { s.cart i with state := 2, reason := reason, verified := false, pwren := false, perst := true })

/-- CART_LINK_TIMEOUT (R464). -/
def execCartLinkTimeout (t slot : Nat) (s : State) : Host.Outcome State Fault Refusal :=
  let s1 := advance t s
  let c := s1.cart slot
  .next (if slot < 2 ∧ c.state = 1 ∧ !c.verified ∧ c.since + 10 ^ 15 ≤ t then cartRefuse slot 1 s1 else s1)

/-- A certificate of Table 14.1 under an issuer's key; what is signed is what stands before the signature
(log entry 45). -/
def certOk (key cert : Bytes) : Bool := Config.falconVerify key (cert.take 1828) (slice cert 1828 1280)

/-- The first identity check that fails (Table 14.2). -/
def identityReason (s : State) (slot : Nat) (nonce id challenge : Bytes) : Nat :=
  let cert := slice id 64 3108
  let inter := slice id 3172 3108
  let size := beField id 40 2
  let cap := beField id 24 8
  if beField id 0 4 ≠ 0x4A434944 ∨ beField id 4 2 ≠ 1 ∨ slice id 6 2 ≠ zeros 2 ∨ slice id 42 6 ≠ zeros 6
      ∨ beField id 60 4 ≠ 6216 ∨ id.length ≠ 6280 then 2
  else if !certOk (Config.cartridgeCaKey s.boot.running.certs) inter || !certOk (slice inter 16 1793) cert
      || decide (cert.take 16 ≠ slice id 8 16) then 3
  else if !Config.falconVerify (slice cert 16 1793) (nonce ++ slice id 8 16) challenge then 4
  else if beField id 32 8 < 10 ^ 8 then 5
  else if (size ≠ 128 ∧ size ≠ 256 ∧ size ≠ 512) ∨ cap ≠ size * 262144 then 6
  else if mirroredMode s ∧ cap * 15 / 16 < ((slotSpaces s (1 - slot)).map (·.2.size)).sum then 7
  else 0

/-- CART_LINK_TRAINED (R465), once the slot's clock runs and its reset is released; a link that trains after 1 s is
refused (R464). -/
def execCartLinkTrained (t slot : Nat) (identity challenge : Bytes) (s : State) : Host.Outcome State Fault Refusal :=
  let s1 := advance t s
  let c := s1.cart slot
  .next (if slot < 2 ∧ c.state = 1 ∧ !c.verified ∧ cartRefclk s1 slot ∧ !cartPerstLow s1 slot then
    if c.since + 10 ^ 15 < t then cartRefuse slot 1 s1
    else
    let r := drawBytes 32 s1
    let s2 := r.2.setCart slot { r.2.cart slot with identity := identity }
    let why := identityReason s2 slot r.1 identity challenge
    if why ≠ 0 then cartRefuse slot why s2 else s2.setCart slot { s2.cart slot with verified := true }
  else s1)

/-- Puts a record at its place by sequence number. -/
def insertRec (r : CommitRec) : List CommitRec → List CommitRec
  | [] => [r]
  | x :: rest => if r.seq < x.seq then r :: x :: rest else x :: insertRec r rest

/-- The commit records that are applied: valid, in sequence, up to the first gap (R490). -/
def replayRecords (l : List CommitRec) : List CommitRec :=
  let sorted := (l.filter commitOk).foldl (fun acc r => insertRec r acc) []
  let rec go : Option Nat → List CommitRec → List CommitRec
    | _, [] => []
    | none, r :: rest => r :: go (some r.seq) rest
    | some n, r :: rest => if r.seq = n + 1 then r :: go (some r.seq) rest else []
  go none sorted

/-- The blocks a cartridge holds after replay. -/
def replayed (m : CartMedia) : List MediaBlock := (replayRecords m.records).foldl applyRec m.blocks

/-- The blocks of a cartridge become the latest versions, for the namespaces `p` picks. -/
def loadBlocks (l : List MediaBlock) (p : Nat → Bool) (s : State) : State :=
  modJrn (fun j => { j with map := l.foldl (fun t b =>
    if p b.ns then Tab.set Ver.zero t (mapKey b.ns b.lba) (.text b.text) else t) j.map }) s

/-- A namespace's blob is unwrapped again; a namespace whose blob does not unwrap is KEY_MISSING (R474). -/
def nsUnwrap (n : Nat) (s : State) : State :=
  match journalBlob s (s.space n).blob with
  | .error _ => s
  | .ok (x, g) => if keyCheckOf x.key = (s.space n).keyCheck then nsTakeKey n g x s else s

/-- Is an attachment restored (R475)? -/
def attachOk (s : State) (a : Nat × Nat) : Bool :=
  polderLive s a.1 && decide (a.2 < (s.polder a.1).counts.namespaces) && (boundNs s a.1 a.2).isNone

/-- One namespace of a cartridge's table is defined (R473). -/
def loadSpace (slot : Nat) (m : MediaNs) (s : State) : State :=
  let old := s.space m.ns
  if old.defined ∧ !(nsSlots old).contains slot then
    s.setSpace m.ns { old with state := 6 }
  else if old.defined ∧ old.placement = 2 ∧ old.keySlot.isSome then s
  else
    let s0 := nsDropKey m.ns s
    let s1 := s0.setSpace m.ns { Space.reset with
      defined := true, placement := m.placement, size := m.size, blob := m.blob, keyCheck := m.keyCheck
      attach := match m.attach with
        | some a => if attachOk s0 a then some a else none
        | none => none
      progress := m.formatting.getD 100, formatBy := if m.formatting.isSome then some (none, 0) else none }
    nsUnwrap m.ns s1

/-- Blocks the mapping must take from this cartridge: those of namespaces the other member does not serve. -/
def bringsBlocks (s : State) (slot n : Nat) : Bool :=
  let p := s.space n
  (nsSlots p).contains slot && decide (p.state ≠ 6) && !(decide (p.placement = 2) && cartServes (s.cart (1 - slot)).state)

/-- CART_ONLINE (R464, R472, R490, R502). Blocks lost when this cartridge failed stay lost (R470). -/
def cartOnline (slot : Nat) (m : CartMedia) (s : State) : State :=
  let partner := mirroredMode s && cartServes (s.cart (1 - slot)).state
  let again := decide (slice (s.cart slot).identity 8 16 = (s.cart slot).failedSerial)
  let gone := fun (n : Nat) => !(m.spaces.any (fun x => decide (x.ns = n)))
  let stale := s.jrn.spaces.filter (fun e => e.2.defined && decide (e.2.placement = slot) && gone e.1)
  let s0 := forEach stale (fun e st => (nsDropKey e.1 st).setSpace e.1 Space.reset) s
  let s1 := s0.setCart slot { s0.cart slot with
    media := { m with blocks := replayed m, records := [], sanitizing := none }
    drainSeq := ((replayRecords m.records).getLast?.map (·.seq)).getD 0
    verified := false
    rebuild := if partner then 0 else 100, rebuildAt := s.clock
    state := if m.sanitizing.isSome then 8 else 3
    sanitizeProgress := m.sanitizing.getD 100, sanitizeBy := if m.sanitizing.isSome then some (none, 0) else none }
  let s2 := forEach m.spaces (loadSpace slot) s1
  let mine := (m.spaces.map (·.ns)).filter (bringsBlocks s2 slot)
  let lost := s2.jrn.map.filter (fun e => again && decide (e.2 = .lost) && mine.contains (e.1 / 2 ^ 64))
  let s2' := modJrn (fun j => { j with map := j.map.filter (fun e => !mine.contains (e.1 / 2 ^ 64)) }) s2
  let s3' := loadBlocks (replayed m) (fun n => mine.contains n) s2'
  let s3 := modJrn (fun j => { j with map := lost.foldl (fun t e => Tab.set Ver.zero t e.1 .lost) j.map }) s3'
  let s4 := raiseCart slot 0 (settleSpaces s3)
  let s5 := if mirroredMode s4 ∧ !partner ∧ (slotSpaces s4 slot).any (fun e => decide (e.2.placement = 2)) then raiseCart (1 - slot) 6 s4 else s4
  lifeCheck slot s5

/-- What a slot's cartridge holds (R473, R502): the namespace table as it stands, and an erase in progress. -/
def cartKeeps (s : State) (i : Nat) : CartMedia :=
  let c := s.cart i
  let mine := (slotSpaces s i).map (fun e => ({
    ns := e.1, placement := e.2.placement, size := e.2.size, blob := e.2.blob, keyCheck := e.2.keyCheck
    attach := e.2.attach, formatting := if e.2.formatBy.isSome then some e.2.progress else none } : MediaNs))
  let other := c.media.spaces.filter (fun x => decide ((s.space x.ns).state = 6) && !onSlot s i x.ns)
  { c.media with
    spaces := if c.state = 0 ∨ c.state = 1 ∨ c.state = 2 then c.media.spaces else mine ++ other
    sanitizing := if c.state = 8 then some c.sanitizeProgress else c.media.sanitizing }

/-- A slot whose cartridge is to be brought up again. -/
def cartAgain (s : State) (i : Nat) : CartSlot :=
  { CartSlot.reset with present := (s.cart i).present, since := s.clock, media := cartKeeps s i }

/-- CART_ONLINE: with `media`, that is what the cartridge brings; without, what it held when it was last in use. -/
def execCartOnline (t slot : Nat) (media : Option CartMedia) (s : State) : Host.Outcome State Fault Refusal :=
  let s1 := advance t s
  .next (if slot < 2 ∧ (s1.cart slot).state = 1 ∧ (s1.cart slot).verified
      ∧ s1.boot.ddrTrained.getD slot false then cartOnline slot (media.getD (s1.cart slot).media) s1 else s1)

/-- The time a mirror copy takes at JournalRebuildRate, in fs. -/
def rebuildTime (s : State) : Nat :=
  (s.jrn.map.filter (fun e => decide ((s.space (e.1 / 2 ^ 64)).placement = 2))).length * 4096 * 10 ^ 9 / max 1 (cfgN s 0x4300 3)

/-- The blocks of the mirrored namespaces, as the copy leaves them on a cartridge. -/
def mirrorBlocks (s : State) : List MediaBlock :=
  s.jrn.map.filterMap (fun e => match e.2 with
    | .text x => if (s.space (e.1 / 2 ^ 64)).placement = 2 then
        some { ns := e.1 / 2 ^ 64, lba := e.1 % 2 ^ 64, text := x } else none
    | _ => none)

/-- REBUILD_DONE (R472): not before the copy at JournalRebuildRate can have ended. -/
def execRebuildDone (t slot : Nat) (s : State) : Host.Outcome State Fault Refusal :=
  let s1 := advance t s
  let c := s1.cart slot
  .next (if slot < 2 ∧ c.rebuild ≠ 100 ∧ cartServes c.state ∧ c.rebuildAt + rebuildTime s1 ≤ t then
    raiseCart slot 7 (settleSpaces (s1.setCart slot { c with
      rebuild := 100, media := { c.media with blocks := mirrorBlocks s1 } })) else s1)

/-! ### Quiesce and removal (R469, R470) -/

/-- QUIESCE (R469); answered when the cartridge is quiesced. -/
def execQuiesce (r : Rq) (s : State) : Host.Outcome State Fault Refusal :=
  .next (serveAction (slotAct 9)
    (fun q s => abortIf (!cartServes (s.cart (slotOf q.msg.index)).state) aSTATE)
    (fun q s =>
      let i := slotOf q.msg.index
      let s1 := s.setCart i { s.cart i with state := 5 }
      (if (s.cart i).state = 3 then leaveMirror i s1 else settleSpaces s1, .later (.quiesce i))) r s)

/-- Does a command that started before the Quiesce still run on the slot? In mirrored mode the other member serves on,
and only units meant for this one count. -/
def quiesceWaits (s : State) (i : Nat) : Bool :=
  if mirroredMode s ∧ cartServes (s.cart (1 - i)).state then s.jrn.units.any (fun u => u.slots.contains i)
  else slotStarted s i

/-- CART_QUIESCED (R469): commands that had started are done and the cache is drained. -/
def execCartQuiesced (t slot : Nat) (s : State) : Host.Outcome State Fault Refusal :=
  let s1 := advance t s
  let c := s1.cart slot
  .next (if slot < 2 ∧ c.state = 5 ∧ c.dirty = [] ∧ !quiesceWaits s1 slot then
    answerAct (.quiesce slot) none (raiseCart slot 4 (settleSpaces (s1.setCart slot { c with state := 6, pwren := false, perst := true })))
  else s1)

/-- Commands that wait for a format of the namespaces that `hit` picks end with a status. -/
def endFormats (hit : Nat → Bool) (status : Nat) (s : State) : State :=
  forEach (s.jrn.spaces.filter (fun e => hit e.1)) (fun e st => match e.2.formatBy with
    | some (some src, ref) => jEnd (some src) ref status 0 (st.setSpace e.1 { st.space e.1 with formatBy := some (none, 0) })
    | _ => st) s

/-- CART_REMOVAL (R470, R507): the ball rises, or the link goes down. -/
def cartRemoval (i : Nat) (rises : Bool) (s : State) : State :=
  let c := s.cart i
  if !c.present then s
  else if c.state = 0 ∨ c.state = 2 ∨ c.state = 6 ∨ c.state = 7 then
    (if rises then settleSpaces (s.setCart i { CartSlot.reset with failedSerial := c.failedSerial }) else s)
  else
    let lost := c.dirty.flatMap (fun u => u.blocks.map (fun b => (u.ns, b.1)))
    let s1 := s.setCart i { c with
      state := 7, present := !rises, pwren := false, perst := true, dirty := [], verified := false, testState := 0
      failedSerial := slice c.identity 8 16, sanitizeBy := none }
    let s2 := cartCount i 4 lost.length s1
    let put : Tab Ver → Nat × Nat → Tab Ver := fun m b =>
      if (s.space b.1).placement = 2 ∧ cartServes (s.cart (1 - i)).state then m
      else Tab.set Ver.zero m (mapKey b.1 b.2) .lost
    let s3 := modJrn (fun j => { j with map := lost.foldl put j.map }) s2
    let alone := !(mirroredMode s && cartServes (s.cart (1 - i)).state)
    let s4 := if alone then endFormats (onSlot s3 i) stMEDIA_ERROR (endStarted (onSlot s3 i) stMEDIA_ERROR s3) else flushDone s3
    let s5 := match c.sanitizeBy with
      | some (src, ref) => jEnd src ref stMEDIA_ERROR 0 s4
      | none => s4
    let s6 := raiseCart i 5 (settleSpaces s5)
    let s7 := if actRunning s6 (.quiesce i) then answerAct (.quiesce i) (some aSTATE) s6 else s6
    if alone then s7 else raiseCart i 6 s7

def execCartRemoval (t : Nat) (w : Removal) (s : State) : Host.Outcome State Fault Refusal :=
  .next (if w.slot < 2 then cartRemoval w.slot w.rises (advance t s) else advance t s)

/-! ### Namespace actions (R473 to R475, R501, R503) -/

/-- NAMESPACE_CREATE (R473, R474). -/
def execNamespaceCreate (r : Rq) (s : State) : Host.Outcome State Fault Refusal :=
  .next (serveAction (at0 0x4310 0)
    (fun q s =>
      let d := q.msg.data
      let n := beField d 0 2
      let pl := byteAt d 2
      let size := beField d 4 8
      let slots := if pl = 2 then [0, 1] else [pl]
      abortIf (4095 < n || 2 < pl || decide (byteAt d 3 ≠ 0) || decide (size = 0)
          || decide (mirroredMode s ≠ decide (pl = 2))) aRANGE
      ++ abortIf ((s.space n).defined || (pl ≤ 2 && slots.any (fun i => decide ((s.cart i).state ≠ 3)))) aSTATE
      ++ abortIf (pl ≤ 2 && slots.any (fun i =>
          decide (cartUsable (s.cart i) < size + ((slotSpaces s i).map (·.2.size)).sum))) aRESOURCE)
    (blobOr (fun q => slice q.msg.data 12 88) journalBlobBad blobRefused fun q s =>
      let d := q.msg.data
      let n := beField d 0 2
      match journalBlob s (slice d 12 88) with
      | .error a => (s, .abort a)
      | .ok (x, g) =>
        let s1 := s.setSpace n { Space.reset with
          defined := true, placement := byteAt d 2, size := beField d 4 8, blob := slice d 12 88, keyCheck := keyCheckOf x.key }
        (settleSpaces (nsTakeKey n g x s1), .done)) r s)

/-- A namespace number that is out of range, or not defined. -/
def nsAborts (s : State) (n : Nat) : List Nat := abortIf (4095 < n) aRANGE ++ abortIf (!(s.space n).defined) aSTATE

/-- NAMESPACE_DELETE (R473, R503): a namespace in CONFLICT keeps the copy defined first (log entry 46). -/
def execNamespaceDelete (r : Rq) (s : State) : Host.Outcome State Fault Refusal :=
  .next (serveAction (at0 0x4311 0)
    (fun q s =>
      let n := beNat q.msg.data
      nsAborts s n ++ abortIf (s.space n).attach.isSome aSTATE)
    (fun q s =>
      let n := beNat q.msg.data
      let p := s.space n
      if p.state = 6 then (settleSpaces (s.setSpace n { p with state := 4 }), .done)
      else
        let us := s.jrn.units.filter (fun u => decide (u.ns = n))
        let s1 := forEach us (fun u st => dropJob u.job st) s
        ((clearBlocks (fun k => decide (k = n)) (nsDropKey n s1)).setSpace n Space.reset, .done)) r s)

/-- NAMESPACE_READ (R503). -/
def execNamespaceRead (r : Rq) (s : State) : Host.Outcome State Fault Refusal :=
  .next (serveAction (at0 0x4312 0)
    (fun q _ => abortIf (4095 < beNat q.msg.data) aRANGE)
    (fun q s => (s, .ok 0 0 9 (nsRecord false s (beNat q.msg.data)))) r s)

/-- NAMESPACE_ATTACH (R475). -/
def execNamespaceAttach (r : Rq) (s : State) : Host.Outcome State Fault Refusal :=
  .next (serveAction (at0 0x4313 0)
    (fun q s =>
      let d := q.msg.data
      let n := beField d 0 2
      let fn := beField d 2 2
      let h := beField d 4 2
      nsAborts s n
      ++ abortIf (4095 < fn || decide ((s.polder fn).counts.namespaces ≤ h) || !polderLive s fn) aRANGE
      ++ abortIf ((s.space n).attach.isSome || (boundNs s fn h).isSome) aSTATE)
    (fun q s =>
      let d := q.msg.data
      let n := beField d 0 2
      (s.setSpace n { s.space n with attach := some (beField d 2 2, beField d 4 2) }, .done)) r s)

/-- NAMESPACE_DETACH (R475). -/
def execNamespaceDetach (r : Rq) (s : State) : Host.Outcome State Fault Refusal :=
  .next (serveAction (at0 0x4314 0)
    (fun q s => nsAborts s (beNat q.msg.data))
    (fun q s =>
      let n := beNat q.msg.data
      (s.setSpace n { s.space n with attach := none }, .done)) r s)

/-- NAMESPACE_KEY_LOAD (R474): the same key, in a blob made on this device. -/
def execNamespaceKeyLoad (r : Rq) (s : State) : Host.Outcome State Fault Refusal :=
  .next (serveAction (at0 0x4315 0)
    (fun q s =>
      let n := beField q.msg.data 0 2
      nsAborts s n ++ (match journalBlob s (slice q.msg.data 2 88) with
        | .error _ => []
        | .ok (x, _) => abortIf (keyCheckOf x.key ≠ (s.space n).keyCheck) aRANGE))
    (blobOr (fun q => slice q.msg.data 2 88) journalBlobBad blobRefused fun q s =>
      let n := beField q.msg.data 0 2
      let b := slice q.msg.data 2 88
      match journalBlob s b with
      | .error a => (s, .abort a)
      | .ok (x, g) =>
        let s1 := nsDropKey n s
        (settleSpaces (nsTakeKey n g x (s1.setSpace n { s1.space n with blob := b })), .done)) r s)

/-- NAMESPACE_FORMAT (R501). -/
def execNamespaceFormat (r : Rq) (s : State) : Host.Outcome State Fault Refusal :=
  .next (serveAction (at0 0x4316 0)
    (fun q s =>
      let n := beNat q.msg.data
      nsAborts s n ++ abortIf ((s.space n).state ≠ 1 && (s.space n).state ≠ 2) aSTATE
      ++ abortIf ((nsSlots (s.space n)).any (fun i => decide ((s.cart i).state = 4))) aSTATE)
    (fun q s => (formatStart (beNat q.msg.data) (none, 0) s, .done)) r s)

/-! ### Capsule data, timeouts (R453, R483) -/

/-- Have the bytes of unit `k` of a capsule's data all arrived? -/
def unitThere (x : Capsule) (k len : Nat) : Bool :=
  decide ((((x.arrived.filter (fun a => decide (65536 * k ≤ a.1 ∧ a.1 < 65536 * (k + 1)))).map (·.2)).sum)
    = min 65536 (len - 65536 * k))

/-- Units of a capsule whose data is on the host die are handed to the farm, in order (01 R35, R483, R487). -/
def capsuleUnits (g msg ns : Nat) : Nat → State → State
  | 0, s => s
  | fuel + 1, s =>
    match capAt (s.channel g) msg with
    | none => s
    | some x =>
      let c := capsuleCmd (s.channel g).fn x.cmd
      let len := c.count * 4096
      let k := x.units
      if len ≤ 65536 * k ∨ !unitThere x k len then s
      else
        let data := slice x.hd (65536 * k) (min 65536 (len - 65536 * k))
        let job := match s.jrn.units.find? (fun u => decide (u.src = some (.capsule g msg))) with
          | some u => u.job
          | none => s.jrn.nextUnit
        capsuleUnits g msg ns fuel
          (addUnit (.capsule g msg) 0 job ns (16 * k) (blocksOf (c.lba + 16 * k) data)
            (decide (len ≤ 65536 * (k + 1))) (updCap g msg (fun y => { y with units := k + 1, hd := splice y.hd (65536 * k) (zeros data.length) }) s))

/-- Data of a granted transfer arrives on the host die, and units are made of it; only ciphertext is staged (01
R35). -/
def stageData (g msg off : Nat) (data : Bytes) (s : State) : State :=
  let s1 := updCap g msg (fun y => { y with
    hd := splice y.hd off data
    arrived := y.arrived ++ [(off, data.length)]
    grants := ((y.grants.map (fun w => if w.off ≤ off ∧ off < w.off + w.len then
        { w with got := w.got + data.length } else w)).filter (fun w => decide (w.got < w.len))) }) s
  match capAt (s1.channel g) msg with
  | none => s1
  | some x => match boundNs s1 (s1.channel g).fn (capsuleCmd 0 x.cmd).handle with
    | some n => capsuleUnits g msg n 64 s1
    | none => s1

/-- SIPHON_XFER_TIMEOUT (R453, R483): the command stops; units accepted stay. -/
def xferTimeout (t g msg : Nat) (s : State) : State :=
  match capAt (s.channel g) msg with
  | none => s
  | some x =>
    if x.responded || !(x.grants.any (fun w => decide (w.time + cfgN s 0x4200 0xB * 10 ^ 12 ≤ t))) then s
    else
      let s1 := count 0x4300 0x14 s
      match s1.jrn.units.find? (fun u => decide (u.src = some (.capsule g msg))) with
      | some u => endJob u stTIMEOUT s1
      | none => capRespond g msg stTIMEOUT (min (16 * x.units) (beField x.cmd 16 4)) s1

def execSiphonXferTimeout (t chan msg : Nat) (s : State) : Host.Outcome State Fault Refusal :=
  .next (xferTimeout t chan msg (advance t s))

/-! ### The end of a message on a core -/

/-- CIPHER_MESSAGE_DONE (spec 12 R405 to R410): a queue's message, which stays on its core while its function may make
no request (09 R315), or a block of a journal unit. -/
def cipherMessageDone (k : Nat) (s : State) : State :=
  match (coreAt s.cipher k).msg with
  | none => s
  | some m =>
    let s1 := cipherCount m (freeCoreOf k m s)
    match m.user with
    | .polder n => if fnRuns s n then finishCipher n m s1 else s
    | .journal => blockDone m.ref m.q (cipherResult m).1 s1
    | .fdp => s1
    | .siphon => s1

def execCipherMessageDone (t core : Nat) (s : State) : Host.Outcome State Fault Refusal :=
  .next (cipherMessageDone core (advance t s))

/-! ### Holds, and the end of a function's commands (R495 to R498) -/

/-- An FLR of a function, or Bus Master Enable cleared (R495, R498). -/
def journalEnd (fn : Nat) (s : State) : State :=
  journalDrop (fun x => match x with
    | .queue f _ => decide (f = fn)
    | .capsule g _ => decide ((s.channel g).fn = fn)) s

/-- Is a queue one that a journal hold stops? -/
def holdable (x : Queue) : Bool :=
  decide (qKind x = kJOURNAL) && (x.st.live || decide (x.st = .draining))

/-- Every JOURNAL queue that is not in ERROR or DISABLED enters HELD (R497). -/
def journalHold (s : State) : State :=
  let s1 := s.wq.queues.foldl (fun st e =>
    let x := st.queue (e.1 / 1024) (e.1 % 1024)
    if holdable x then st.setQueue (e.1 / 1024) (e.1 % 1024) { x with
      journalHold := true, st := if x.st = .enabled then .held else x.st } else st) s
  count 0x4300 0x16 (modJrn (fun j => { j with held := true, state := if j.state = 1 then 2 else j.state }) s1)

/-- A held JOURNAL queue goes back to ENABLED. -/
def unhold (x : Queue) : Queue :=
  { x with journalHold := false, st := if x.st = .held ∧ x.waiting = [] then .enabled else x.st }

/-- The queues return to ENABLED; after a failed activation the held commands end with `fail` (R497). -/
def journalRelease (fail : Option Nat) (s : State) : State :=
  let s0 := modJrn (fun j => { j with held := false, state := if j.state = 2 then 1 else j.state }) s
  let s1 := s0.wq.queues.foldl (fun st e =>
    let fn := e.1 / 1024
    let q := e.1 % 1024
    let x := st.queue fn q
    if x.journalHold then
      let st1 := st.setQueue fn q (unhold x)
      match fail with
      | none => st1
      | some code => forEach (x.chains.filter (fun c => !c.started && !c.finished))
          (fun c y => finishChain fn q c.first code 0 y) st1
    else st) s0
  match fail with
  | none => s1
  | some code => s1.siphon.channels.foldl (fun st e =>
      forEach (e.2.capsules.filter (fun x => !x.started && !x.responded))
        (fun x y => capRespond e.1 x.msg code 0 y) st) s1

/-- The writes of a queue that R495 cuts short end with ABORTED_RESET and the blocks accepted as their result, at once
or with the last unit that stays (log entry 128). -/
def resetWrites (src : JSrc) (s : State) : State :=
  let mine := s.jrn.units.filter (fun u => decide (u.src = some src))
  let stays := fun (u : JUnit) => !(mine.any (fun x => decide (x.job = u.job ∧ x.id ≤ u.id) && !x.ready))
  let cut := mine.filter (fun u => !stays u && !(mine.any (fun x => decide (x.job = u.job ∧ x.id < u.id) && !stays x)))
  let s1 := journalCut (fun x => decide (x = src)) s
  forEach cut (fun u st =>
    if st.jrn.units.any (fun x => decide (x.job = u.job)) then
      modJrn (fun j => { j with units := j.units.map (fun x =>
        if x.job = u.job ∧ x.before + x.blocks.length = u.before then { x with ends := some stABORTED_RESET } else x) }) st
    else jEnd (some src) u.ref stABORTED_RESET u.before st) s1

/-- A queue RESET of a JOURNAL queue (R496): what has not started ends with ABORTED_RESET. -/
def journalQueueReset (fn q : Nat) (s : State) : State :=
  forEach ((s.queue fn q).chains.filter (fun c => !c.started && !c.finished))
    (fun c st => finishChain fn q c.first stABORTED_RESET 0 st) (resetWrites (.queue fn q) s)

end Sys2Proof.Machine
end

