-- ==== Sys2Proof/Machine/SiphonRx.lean ====
section
/-! DEFINITION. The Siphon engine (spec 13), second half: received packets, placement, acknowledgement,
and the capsules' messages. -/

namespace Sys2Proof.Machine

/-! ### A received packet (R421 to R426, R430) -/

/-- A packet taken apart. `op` is its opcode, `payload` still ciphertext on an encrypted channel. -/
structure SPacket where
  flags : Nat
  op : Nat
  path : Nat
  chan : Nat
  psn : Nat
  msg : Nat
  len : Nat
  off : Nat
  key : Nat
  addr : Nat
  payload : Bytes
  imm : Bytes
  tag : Bytes
  hdr : Bytes
deriving DecidableEq, Repr

def pImm (p : SPacket) : Bool := p.flags.testBit 0
def pEnc (p : SPacket) : Bool := p.flags.testBit 1
def pAckReq (p : SPacket) : Bool := p.flags.testBit 2

def parsePacket (b : Bytes) : SPacket :=
  let flags := byteAt b 0 % 16
  let n := beField b 36 2
  let im := if flags.testBit 0 then 4 else 0
  { flags := flags, op := byteAt b 1, path := byteAt b 2, chan := beField b 4 4, psn := beField b 8 4
    msg := beField b 12 4, len := beField b 16 4, off := beField b 20 4, key := beField b 24 4, addr := beField b 28 8
    payload := slice b 40 n, imm := slice b (40 + n) im, tag := slice b (40 + n + im) 16, hdr := b.take 40 }

/-- Is the packet discarded for its header (R421, R422)? -/
def packetBad (r : SRx) : Bool :=
  let b := r.bytes
  let p := parsePacket b
  !r.udpOk || decide (byteAt b 0 / 16 ≠ 1) || p.flags.testBit 3 || decide (8 ≤ p.path) || decide (byteAt b 3 ≠ 0)
  || decide (2 ^ 24 ≤ p.chan) || decide (slice b 38 2 ≠ zeros 2) || !(decide (1 ≤ p.op ∧ p.op ≤ 10))
  || decide (r.udpLen ≠ 8 + 40 + beField b 36 2 + (if pImm p then 4 else 0) + (if pEnc p then 16 else 0))

/-- Do the frame's addresses and port fit the channel it names (R430)? -/
def packetFits (s : State) (c : Channel) (r : SRx) : Bool :=
  decide (chIp6 c = r.ip6) && decide (chPeerAddr c = r.srcAddr) && decide (chLocalAddr c = r.dstAddr)
  && decide (r.udpPort = cfgN s 0x4200 1)

/-- Removes the front packet; its cells are freed. -/
def rxPop (sid : Nat) (s : State) : State :=
  releaseCopy sid none (modSiphon (fun x => { x with rx := x.rx.drop 1 }) s)

/-- The payload after decryption, or none when the tag fails. A packet whose ENC flag differs from the
channel's encryption fails in the same way (log entry 47). -/
def rxOpen (s : State) (c : Channel) (p : SPacket) : Option Bytes :=
  if chEnc c then
    if pEnc p then
      let r := Config.gcmDecrypt (chKey s c) (sIv p.chan p.op p.psn p.msg (1 - chRole c)) (sAad p.hdr p.imm) p.payload
      if r.2 = p.tag then some r.1 else none
    else none
  else if pEnc p then none else some p.payload

/-- Marks and counts of the path a packet came on; a CNP follows where one may be sent (R450). -/
def rxMark (t g : Nat) (p : SPacket) (ce : Bool) (s : State) : State :=
  let c := s.channel g
  let x := Tab.get RxPath.reset c.rxPaths p.path
  let x1 : RxPath :=
    { count := x.count + 1, marked := x.marked + boolNat ce
      since := if ce ∧ x.since = none then some t else x.since }
  let s1 := s.setChannel g { c with rxPaths := Tab.set RxPath.reset c.rxPaths p.path x1 }
  if ce && cnpDue s1 (s1.channel g) t then sendCnp t g s1 else s1

/-- NAK STATE of a channel in ERROR, at most one per 100 µs (R431). -/
def rxInError (t g : Nat) (p : SPacket) (s : State) : State :=
  let c := s.channel g
  let due := match c.lastNak with
    | none => true
    | some t0 => decide (t0 + 10 ^ 11 ≤ t)
  if usesPsn p.op && due then sendNak g p.op p.psn p.msg stSTATE (s.setChannel g { c with lastNak := some t }) else s

/-- The front packet is gone from the engine's list. -/
def rxGone (s : State) : State := modSiphon (fun x => { x with rx := x.rx.drop 1 }) s

/-- One received packet (R430, R425, R431): `mine` is the opcode of the command; a packet that no
opcode's command may carry out is discarded by any of them. It crosses the half Culvert of its die, and is lost where
that is down or its cells fail (01 R26, 07 R252); one to be decrypted waits for a core (12 R393). -/
def rxServe (t op : Nat) (fault : BufFault) (go : Nat → SPacket → State → State) (s : State) : State :=
  match s.siphon.rx with
  | [] => s
  | r :: _ =>
    let p := parsePacket r.bytes
    if packetBad r then sipCount 6 0 (rxPop r.sid s)
    else if p.op ≠ op ∨ (chEnc (s.channel p.chan) && pEnc p && !farmFree s) then s
    else if culvDown s (hdCulvert (dieOf r.port)) then rxPop r.sid s
    else if (cellFault (dieOf r.port) r.sid fault s).1 then rxGone (cellFault (dieOf r.port) r.sid fault s).2
    else
      let s1 := rxPop r.sid (cellFault (dieOf r.port) r.sid fault s).2
      let c := s1.channel p.chan
      if c.state = 0 then count 0x4203 6 s1
      else if !packetFits s1 c r then sipCount 6 c.fn s1
      else
      let ran := chEnc c && pEnc p
      let s2 := if ran then sFarm c.fn (40 + p.imm.length + p.payload.length) s1 else s1
      match rxOpen s1 c p with
      | none => raise 290 (sipCount 0xC c.fn (if ran then countFor 0x4101 4 1 c.fn s2 else s2))
      | some d =>
        if c.state = 4 then rxInError t p.chan p s2
        else go p.chan { p with payload := d } (rxMark t p.chan p r.ce s2)

/-! ### PSNs (R441, R442, R446) -/

/-- What becomes of a packet that consumes a PSN: discarded and counted or not, refused, or accepted. -/
inductive RxDo where
  | drop (counted : Bool)
  | refuse (status : Nat)
  | take (change : State → State)

/-- E advances over what has arrived; the bitmap slides with it. -/
def slideE (c : Channel) : Nat → Channel
  | 0 => c
  | k + 1 =>
    if c.rcvd.contains c.expect then
      slideE { c with rcvd := c.rcvd.erase c.expect, expect := (c.expect + 1) % 2 ^ 32 } k
    else c

/-- The handling of R441: duplicates, the window, refused messages, then `judge`. -/
def rxPsn (t g : Nat) (p : SPacket) (judge : Channel → RxDo) (s : State) : State :=
  let c := s.channel g
  let d := psnDist p.psn c.expect
  let id := if p.op = 4 ∨ 8 < p.op then p.msg + 2 ^ 32 else p.msg
  if c.refused.contains id then s
  else if 2 ^ 31 ≤ d ∨ (d < 1024 ∧ c.rcvd.contains p.psn) then scheduleAck t g true (sipCount 4 c.fn s)
  else if 1024 ≤ d then sipCount 5 c.fn s
  else match judge c with
  | .drop counted => if counted then sipCount 6 c.fn s else s
  | .refuse st => sendNak g p.op p.psn p.msg st (if st = stACCESS then sipCount 7 c.fn s else s)
  | .take change =>
    let s1 := change s
    let c1 := s1.channel g
    let s2 := s1.setChannel g (slideE { c1 with rcvd := p.psn :: c1.rcvd } 1025)
    scheduleAck t g (pAckReq p) (sipCount 2 c.fn s2)

/-! ### Region checks and placement (R433 to R436) -/

/-- The region a key names, if the checks of R436 pass for a range and a right (2 REMOTE_READ, 3
REMOTE_WRITE). -/
def keyRegion (s : State) (c : Channel) (key right addr len : Nat) : Option Region :=
  let g := key % 2 ^ 20
  let r := s.region g
  if key ≠ 0 ∧ r.valid ∧ regionKey g r = key ∧ r.domain = chDomain c ∧ r.fn = c.fn ∧ r.rights.testBit right
      ∧ r.base ≤ addr ∧ addr + len ≤ r.base + r.len then some r else none

/-- A write of the engine to a region: host memory with the region's PASID, or device DDR4 (R433, R436). One that is
blocked is a fault of the polder (09 R326, 10 R350). -/
def regionWrite (w : Requester) (addr : Nat) (data : Bytes) (s : State) : State :=
  if data = [] then s
  else if acsBlocks s w addr data.length then polderFault w.fn stACCESS 3 0xFFFF (acsReport w.fn s)
  else memWrite w addr data s

/-- Number of packets of a message (R424). -/
def msgPackets (c : Channel) (len : Nat) : Nat := ceilDiv len (chPayload c)

/-- Does a packet fit the message it belongs to (R424)? -/
def packetSized (c : Channel) (p : SPacket) (len : Nat) : Bool :=
  decide (p.off % chPayload c = 0) && decide (p.off < len) && decide (p.payload.length = min (chPayload c) (len - p.off))

def asmAt (c : Channel) (op msg : Nat) : Option SAsm := c.asm.find? (fun a => decide (a.op = op ∧ a.msg = msg))

/-- An assembly entry with one more packet (R442). -/
def asmPut (g : Nat) (a : SAsm) (i : Nat) (s : State) : State :=
  let c := s.channel g
  let a1 := { a with got := if a.got.contains i then a.got else a.got ++ [i] }
  s.setChannel g { c with asm := (c.asm.filter (fun x => decide (x.op ≠ a.op ∨ x.msg ≠ a.msg))) ++ [a1] }

def asmDrop (g op msg : Nat) (s : State) : State :=
  let c := s.channel g
  s.setChannel g { c with asm := c.asm.filter (fun x => decide (x.op ≠ op ∨ x.msg ≠ msg)) }

/-- A message's bitmap is full (R443). -/
def asmFull (c : Channel) (op msg len : Nat) : Bool :=
  match asmAt c op msg with
  | some a => decide (a.got.length = msgPackets c len)
  | none => false

/-- The assembly entry of a packet: the one there is, a new one, or none when a 65th would start (R442). -/
def asmFor (c : Channel) (p : SPacket) : Option SAsm :=
  match asmAt c p.op p.msg with
  | some a => some a
  | none =>
    if 64 ≤ c.asm.length then none
    else some { msg := p.msg, op := p.op, len := p.len, key := p.key, addr := p.addr, imm := beNat p.imm
                state := c.state, got := [] }

/-! ### WRITE and WRITE_IMM (R427, R436, R441 to R444, R453) -/

/-- Data of a journal capsule: checked against its grants (R453). -/
def judgeStaging (g : Nat) (p : SPacket) (c : Channel) : RxDo :=
  match capAt c p.msg with
  | none => .refuse stRANGE
  | some x =>
    if x.responded || !(x.grants.any (fun w =>
        decide (w.off ≤ p.off ∧ p.off + p.payload.length ≤ w.off + w.len))) then .refuse stRANGE
    else .take (stageData g p.msg p.off p.payload)

/-- The state a message's first packet is checked in: in the clock in which CHANNEL_MODIFY takes a channel out of
INIT, RECOVERY or TEST, the old one (R458). -/
def stateSeen (s : State) (c : Channel) : Nat :=
  if clockOf c.changedAt = clockOf s.clock ∧ (c.was = 1 ∨ c.was = 2 ∨ c.was = 5) ∧ chRuns c.state then c.was else c.state

/-- A WRITE or WRITE_IMM packet at its region. -/
def judgeWrite (g : Nat) (p : SPacket) (s : State) (c : Channel) : RxDo :=
  match asmFor (if p.op = 2 then { c with state := stateSeen s c } else c) p with
  | none => .drop true
  | some a =>
    let starts := a.got = []
    if starts ∧ p.op = 2 ∧ stateSeen s c = 3 then .refuse stSTATE
    else if starts ∧ p.op = 2 ∧ 32 ≤ c.notes.length then .refuse stNO_RESOURCE
    else if a.len ≠ p.len ∨ a.key ≠ p.key ∨ a.addr ≠ p.addr ∨ !packetSized c p p.len then .refuse stRANGE
    else match keyRegion s c p.key 3 (p.addr + p.off) p.payload.length with
    | none => .refuse stACCESS
    | some r => .take (fun st =>
        let w : Requester := { fn := c.fn, q := none, pasid := r.pasid }
        let s1 := if a.state = 5 then st else regionWrite w (p.addr + p.off) p.payload st
        let s2 := asmPut g a (p.off / chPayload c) s1
        if asmFull (s2.channel g) p.op p.msg p.len then
          let s3 := asmDrop g p.op p.msg s2
          if p.op = 2 then
            let c3 := s3.channel g
            matchNotes g 1 (s3.setChannel g { c3 with notes := c3.notes ++ [a.imm] })
          else s3
        else s2)

/-- SIPHON_RX_WRITE (R441). -/
def execSiphonRxWrite (w : PacketAt) (s : State) : Host.Outcome State Fault Refusal :=
  .next (rxServe w.t 1 w.fault (fun g p st =>
    rxPsn w.t g p (fun c => if p.key = 0 then judgeStaging g p c else judgeWrite g p st c) st) (advance w.t s))

/-- SIPHON_RX_WRITE_IMM (R444). -/
def execSiphonRxWriteImm (w : PacketAt) (s : State) : Host.Outcome State Fault Refusal :=
  .next (rxServe w.t 2 w.fault (fun g p st => rxPsn w.t g p (judgeWrite g p st) st) (advance w.t s))

/-! ### READ_REQ and READ_RESP (R445) -/

/-- READ_RESP messages being sent for READ_REQs; those of capsules carry key 0. -/
def readsServed (c : Channel) : Nat := (c.msgs.filter (fun m => decide (m.op = 4 ∧ m.key ≠ 0))).length

/-- Serves waiting READ_REQs in PSN order, at most 16 at once, each once every earlier PSN is there. -/
def serveReads (g : Nat) : Nat → State → State
  | 0, s => s
  | k + 1, s =>
    let c := s.channel g
    let ready := c.reads.filter (fun x => decide (2 ^ 31 ≤ psnDist x.psn c.expect))
    if 16 ≤ readsServed c then s
    else match ready with
    | [] => s
    | a :: rest =>
      let x := rest.foldl (fun best y => if 2 ^ 31 ≤ psnDist y.psn best.psn then y else best) a
      serveReads g k (addReply g { SMsg.blank with id := x.msg, op := 4, len := x.len, key := x.key, laddr := x.addr, total := x.len }
        (s.setChannel g { c with reads := c.reads.erase x }))

/-- SIPHON_RX_READ_REQ (R436, R445). A READ_RESP carries key 0 on the wire (Table 13.2). -/
def execSiphonRxReadReq (w : PacketAt) (s : State) : Host.Outcome State Fault Refusal :=
  .next (rxServe w.t 3 w.fault (fun g p st =>
    serveReads g 16 (rxPsn w.t g p (fun c =>
      match keyRegion st c p.key 2 p.addr p.len with
      | none => .refuse stACCESS
      | some _ =>
        if 80 ≤ readsServed c + c.reads.length then .refuse stNO_RESOURCE
        else .take (fun x =>
          let c1 := x.channel g
          x.setChannel g { c1 with
            reads := c1.reads ++ [{ psn := p.psn, msg := p.msg, key := p.key, addr := p.addr, len := p.len }] })) st))
    (advance w.t s))

/-- The own message that a READ_RESP answers: a READ, or a JCMD that reads. -/
def askedBy (c : Channel) (msg : Nat) : Option SMsg :=
  c.msgs.find? (fun m => ownMsg m && decide (m.id = msg) && decide (m.op = 3 ∨ m.op = 8))

/-- Where a READ_RESP goes and how long it must be: a READ's buffer, or the data buffer of a JCMD_SEND. -/
def readTarget (s : State) (m : SMsg) : Nat × Nat :=
  match m.op, m.owner with
  | 8, some o => match chainAt (s.queue o.1 o.2.1) o.2.2 with
    | some ch => (sDataAddr (ch.entries.headD []), sDataLen (ch.entries.headD []))
    | none => (0, 0)
  | _, _ => (m.laddr, m.len)

/-- A READ whose packets are all placed is done (R439, R443). -/
def readDone (g : Nat) (m : SMsg) (s : State) : State :=
  let c := s.channel g
  if m.op = 3 then
    let s1 := s.setChannel g { c with msgs := c.msgs.filter (fun x => decide (x ≠ m)) }
    match m.owner with
    | some o => finishChain o.1 o.2.1 o.2.2 stOK 0 s1
    | none => s1
  else s

/-- SIPHON_RX_READ_RESP (R443, R445): no region check is made of the place. -/
def execSiphonRxReadResp (pk : PacketAt) (s : State) : Host.Outcome State Fault Refusal :=
  .next (rxServe pk.t 4 pk.fault (fun g p st =>
    rxPsn pk.t g p (fun c =>
      match askedBy c p.msg with
      | none => .drop true
      | some m =>
        let w := readTarget st m
        match asmFor c p with
        | none => .drop true
        | some a =>
          if a.len ≠ p.len ∨ p.len ≠ w.2 ∨ !packetSized c p p.len then .refuse stRANGE
          else .take (fun x =>
            let s1 := match m.owner with
              | some o => queueWrite o.1 o.2.1 o.2.2 (w.1 + p.off) [] p.payload x
              | none => x
            let s2 := asmPut g a (p.off / chPayload c) s1
            if asmFull (s2.channel g) 4 p.msg p.len then readDone g m (asmDrop g 4 p.msg s2) else s2)) st)
    (advance pk.t s))

/-! ### ACK, NAK, CNP (R446 to R450) -/

/-- A control packet is carried out only with a sequence above the highest accepted (R449). -/
def rxControl (g : Nat) (p : SPacket) (go : State → State) (s : State) : State :=
  let c := s.channel g
  let fresh := match c.ctlRx with
    | none => true
    | some n => decide (n < p.msg)
  if fresh then go (sipCount 2 c.fn (s.setChannel g { c with ctlRx := some p.msg })) else s

/-- Does an ACK with E and a SACK bitmap acknowledge a PSN (R447)? -/
def acked (e map psn : Nat) : Bool :=
  let d := psnDist psn e
  decide (2 ^ 31 ≤ d) || (decide (1 ≤ d ∧ d ≤ 64) && map.testBit (d - 1))

/-- The highest PSN an ACK shows as received, as a distance from E − 1. -/
def ackTop (map : Nat) : Nat := (List.range 64).foldl (fun m i => if map.testBit i then i + 2 else m) 0

/-- Messages of a channel that are done once their packets are acknowledged (R439, R453). -/
def settleMsgs (g : Nat) (s : State) : State :=
  let c := s.channel g
  let pending := fun (m : SMsg) => c.sent.any (fun k => decide (k.op = m.op ∧ k.msg = m.id)
    && (!m.part || decide (m.base ≤ k.off ∧ k.off < m.base + m.total)))
  let ended := c.msgs.filter (fun m => m.cut && !pending m && (m.part || decide (m.op ≠ 3 ∧ m.op ≠ 8)))
  let s1 := s.setChannel g { c with
    msgs := c.msgs.filter (fun m => !ended.contains m)
    capsules := c.capsules.filter (fun x => !(ended.any (fun m => decide (m.op = 0xA ∧ m.id = x.msg)))) }
  forEach ended (fun m st => match m.owner with
    | some o => if ownMsg m then finishChain o.1 o.2.1 o.2.2 stOK 0 st else st
    | none => st) s1

/-- An ACK (R447, R448, R455). -/
def onAck (t g : Nat) (p : SPacket) (s : State) : State :=
  let c := s.channel g
  let e := p.psn
  let low := c.sent.head?.map (·.psn)
  let gone := c.sent.filter (fun k => acked e p.addr k.psn)
  let left := (c.sent.filter (fun k => !acked e p.addr k.psn)).map (fun k =>
    let above := psnDist k.psn e + 1 + cfgN s 0x4200 5
    if above ≤ ackTop p.addr then { k with resend := true } else k)
  let moved := decide (low ≠ left.head?.map (·.psn))
  let c1 := { c with
    sent := left
    retries := if moved then 0 else c.retries
    rto := if moved then 0 else c.rto
    rtoAt := if moved then t else c.rtoAt }
  let s1 := forEach gone (fun k st => match k.path with
    | some i => pathAcked g i st
    | none => st) (s.setChannel g c1)
  serveReads g 16 (settleMsgs g s1)

/-- SIPHON_RX_ACK (R447). -/
def execSiphonRxAck (w : PacketAt) (s : State) : Host.Outcome State Fault Refusal :=
  .next (rxServe w.t 5 w.fault (fun g p st => rxControl g p (onAck w.t g p) st) (advance w.t s))

/-- SIPHON_RX_NAK (R449): the named message ends, and the channel enters ERROR. -/
def execSiphonRxNak (w : PacketAt) (s : State) : Host.Outcome State Fault Refusal :=
  .next (rxServe w.t 6 w.fault (fun g p st =>
    rxControl g p (fun x => channelError g stREMOTE_ERROR (some (p.off, p.len % 256)) false
      (sipCount 9 (x.channel g).fn x)) st) (advance w.t s))

/-- SIPHON_RX_CNP (R450). -/
def execSiphonRxCnp (w : PacketAt) (s : State) : Host.Outcome State Fault Refusal :=
  .next (rxServe w.t 7 w.fault (fun g p st =>
    rxControl g p (fun x => onCnp w.t g p.path p.len p.off (sipCount 0xB (x.channel g).fn x)) st) (advance w.t s))

/-! ### Journal capsules (R452, R453, spec 14 R482) -/

/-- SIPHON_RX_JCMD: the capsule waits for the journal; one that R482 refuses is answered at once. -/
def execSiphonRxJcmd (w : PacketAt) (s : State) : Host.Outcome State Fault Refusal :=
  .next (rxServe w.t 8 w.fault (fun g p st =>
    rxPsn w.t g p (fun c =>
      if p.payload.length ≠ 64 ∨ p.len ≠ 64 then .refuse stRANGE
      else if 256 ≤ (c.capsules.filter (fun x => !x.responded)).length then .refuse stNO_RESOURCE
      else .take (fun x =>
        let c1 := x.channel g
        let k : Capsule :=
          { msg := p.msg, cmd := p.payload, grants := [], granted := 0, hd := [], staging := [], arrived := [], units := 0
            md := 0, started := false, responded := false }
        let s1 := countQ 0x4300 0x13 1 none none (some c.fn) (x.setChannel g { c1 with capsules := c1.capsules ++ [k] })
        if capsuleMalformed s1 c.fn p.payload then capRespond g p.msg stMALFORMED 0 s1
        else commandComes c.fn (capsuleCmd c.fn p.payload) s1)) st) (advance w.t s))

/-- SIPHON_RX_XFER_RDY: the granted bytes are sent from the data buffer (R452). -/
def execSiphonRxXferRdy (pk : PacketAt) (s : State) : Host.Outcome State Fault Refusal :=
  .next (rxServe pk.t 9 pk.fault (fun g p st =>
    rxPsn pk.t g p (fun c =>
      match c.msgs.find? (fun m => ownMsg m && decide (m.id = p.msg ∧ m.op = 8)) with
      | none => .drop true
      | some m =>
        let w := readTarget st m
        if w.2 < p.off + p.len ∨ p.len = 0 then .refuse stRANGE
        else .take (addReply g { SMsg.blank with
          id := p.msg, op := 1, len := w.2, laddr := w.1 + p.off, base := p.off, total := p.len, owner := m.owner, part := true }))
      st) (advance pk.t s))

/-- SIPHON_RX_JRSP: the response goes into the capsule buffer and completes JCMD_SEND (R452). -/
def execSiphonRxJrsp (w : PacketAt) (s : State) : Host.Outcome State Fault Refusal :=
  .next (rxServe w.t 0xA w.fault (fun g p st =>
    rxPsn w.t g p (fun c =>
      match c.msgs.find? (fun m => ownMsg m && decide (m.id = p.msg ∧ m.op = 8)) with
      | none => .drop true
      | some m =>
        if p.payload.length ≠ 16 then .refuse stRANGE
        else .take (fun x =>
          let c1 := x.channel g
          let s1 := x.setChannel g { c1 with msgs := c1.msgs.filter (fun y => !(decide (y.id = p.msg) && (y.part || decide (y.op = 8)))) }
          match m.owner with
          | none => s1
          | some o => match chainAt (s1.queue o.1 o.2.1) o.2.2 with
            | none => s1
            | some ch =>
              finishChain o.1 o.2.1 o.2.2 stOK 0
                (queueWrite o.1 o.2.1 o.2.2 (eAddr (ch.entries.headD []) + 64) [ch.entries.headD []] p.payload s1))) st)
    (advance w.t s))

end Sys2Proof.Machine
end

