-- ==== Sys2Proof/Machine/WorkQueues.lean ====
section
/-! DEFINITION. Work queues (spec 11): the commands of Q_CTRL, doorbells, fetching and checking entries,
transmit and receive entries, completions that were held. -/

namespace Sys2Proof.Machine

/-! ### Registers (R379, R381) -/

/-- Is a queue's register block there (spec 09 R305)? -/
def queueThere (s : State) (fn q : Nat) : Bool :=
  barOpen s fn && polderLive s fn && decide (q < (s.polder fn).counts.queues)

/-- Results of Q_CTRL (Table 11.9). -/
def crOK : Nat := 0
def crSTATE : Nat := 1
def crCONTEXT : Nat := 2
def crRESOURCE : Nat := 3

/-- A write of Q_CTRL: ignored while a command is carried out, otherwise recorded and carried out (R381). A command
that is accepted clears IGNORED (R379). -/
def qctrl (fn q cmd word : Nat) (go : Queue → State → Nat × State) (s : State) : State :=
  if !queueThere s fn q then barMissed fn s
  else
    let x := s.queue fn q
    if x.resetting then s.setQueue fn q { x with ignored := true }
    else
      let x1 := { x with cmd := cmd + 16 * (word % 16) }
      let r := go x1 (s.setQueue fn q x1)
      r.2.setQueue fn q { r.2.queue fn q with cmdResult := r.1, ignored := decide (r.1 ≠ crOK) && x.ignored }

/-- Q_NOP (R379). -/
def execQNop (fn q : Nat) (s : State) : Host.Outcome State Fault Refusal :=
  .next (qctrl fn q 0 0 (fun _ st => (crOK, st)) s)

/-- LOAD (R380): DATA to the context word. -/
def qLoad (fn q word : Nat) (x : Queue) (s : State) : Nat × State :=
  if x.st = .disabled then (crOK, s.setQueue fn q { x with ctx := Tab.set 0#32 x.ctx (word % 16) x.data })
  else (crSTATE, s)

/-- READ (R380): the context word to DATA. -/
def qRead (fn q word : Nat) (x : Queue) (s : State) : Nat × State :=
  if x.st = .disabled then (crOK, s.setQueue fn q { x with data := Tab.get 0#32 x.ctx (word % 16) })
  else (crSTATE, s)

/-- Q_LOAD. -/
def execQLoad (fn q word : Nat) (s : State) : Host.Outcome State Fault Refusal :=
  .next (qctrl fn q 1 word (qLoad fn q word) s)

/-- Q_READ. -/
def execQRead (fn q word : Nat) (s : State) : Host.Outcome State Fault Refusal :=
  .next (qctrl fn q 2 word (qRead fn q word) s)

/-! ### ENABLE (R364) -/

/-- Queues of a polder that are not DISABLED and fit `p`. -/
def activeQueue (s : State) (fn : Nat) (p : Nat → Queue → Bool) : Bool :=
  (List.range (s.polder fn).counts.queues).any (fun i =>
    decide ((s.queue fn i).st ≠ .disabled) && p i (s.queue fn i))

/-- Are the KIND_WORDS those of the kind (R363, spec 12 Table 12.3, 13 R437, 14 R478)? -/
def kindWordsOk (x : Queue) : Bool :=
  if qKind x = kCIPHER then cipherContextOk x
  else if qKind x = kSIPHON then siphonContextOk x
  else if qKind x = kJOURNAL then journalContextOk x
  else (List.range 8).all (fun i => decide (qWord x (8 + i) = 0))

/-- Does a context fail a check of R364? -/
def contextBad (s : State) (fn q : Nat) (x : Queue) : Bool :=
  let k := qKind x
  let mirror := qMirror x
  decide (k = 0 ∨ 7 < k) || decide (10 < qSizeLog x) || (qWord x 2).testBit 11 || decide (bitsOf (qWord x 3) 31 27 ≠ 0)
  || decide (qWord x 0 % 4096 ≠ 0) || decide (qWord x 4 % 4 ≠ 0)
  || decide ((s.polder fn).counts.vectors ≤ qVector x) || !kindWordsOk x
  || (if isProducer k then
        let c := s.queue fn (qCq x)
        (if qCq x = 0xFFFF then !qMirrorOnly x
         else decide ((s.polder fn).counts.queues ≤ qCq x) || decide (qKind c ≠ kCOMPLETION) || decide (c.st ≠ .enabled))
        || (qMirrorOnly x && decide (mirror = 0))
      else decide (qCq x ≠ 0xFFFF) || decide (mirror ≠ 0) || qMirrorOnly x)
  || (decide (qSamplePeriod x ≠ 0) && decide (k ≠ kTX ∧ k ≠ kRX))
  || decide (1000000 < qSamplePeriod x)
  || (decide (k = kSAMPLE) && activeQueue s fn (fun i y => decide (i ≠ q) && decide (qKind y = kSAMPLE)))
  || pasidOff s fn x

/-- A sum of reciprocals as a fraction. -/
def sumRecip (l : List Nat) : Nat × Nat := l.foldl (fun a p => (a.1 * p + a.2, a.2 * p)) (0, 1)

/-- Would the sampled host queues, with one more of the given period in µs, exceed the HD sampler's
budget of 16 M records per second (spec 08 R289)? -/
def hostSampleOver (s : State) (period : Nat) : Bool :=
  let r := sumRecip (period :: ((s.wq.queues.filter (fun e =>
    decide (e.2.st ≠ .disabled) && decide (qSamplePeriod e.2 ≠ 0))).map (fun e => qSamplePeriod e.2)))
  decide (16 * r.2 < r.1)

/-- A queue that ENABLE takes into service (R380). -/
def queueEnabled (x : Queue) : Queue :=
  { Queue.reset with ctx := x.ctx, data := x.data, cmd := x.cmd, sampleSeq := x.sampleSeq, st := .enabled }

/-- ENABLE (R364, R380). -/
def qEnable (fn q : Nat) (x : Queue) (s : State) : Nat × State :=
  if x.st ≠ .disabled then (crSTATE, s)
  else if contextBad s fn q x then (crCONTEXT, s)
  else if qSamplePeriod x ≠ 0 ∧ hostSampleOver s (qSamplePeriod x) then (crRESOURCE, s)
  else (crOK, s.setQueue fn q (queueEnabled x))

/-- Q_ENABLE. -/
def execQEnable (t fn q : Nat) (s : State) : Host.Outcome State Fault Refusal :=
  .next (qctrl fn q 3 0 (qEnable fn q) (advance t s))

/-! ### Work that a queue's end takes with it -/

/-- Transmit frames of a queue: those the scheduler still holds are dropped, those on their way no longer
answer an entry. -/
def detachTx (fn : Nat) (p : Nat → Bool) (s : State) : State :=
  let cut : FrameSrc → FrameSrc := fun src => match src with
    | .hostTx f q i => if f = fn ∧ p q then .detached else .hostTx f q i
    | .field => .field
    | .siphon c n => .siphon c n
    | .firmware => .firmware
    | .detached => .detached
  let qf : QFrame → QFrame := fun f => { f with info := { f.info with src := cut f.info.src } }
  let s1 := modBuf (fun b => { b with
    transit := b.transit.map (fun x => { x with info := { x.info with src := cut x.info.src } }) }) s
  modSched (fun b => { b with
    ports := b.ports.map (fun e => (e.1, { e.2 with
      queues := e.2.queues.map (fun l => (l.1, l.2.map qf))
      sending := e.2.sending.map (fun f => { f with frame := qf f.frame }) }))
    htx := b.htx.map (fun e => (e.1, htxDrop s fn p e.2)) }) s1

/-- The kind's block ends the work of one queue at its RESET (R380, spec 12 Table 12.6, 13, 14 R496). -/
def endQueueWork (fn q : Nat) (s : State) : State :=
  let k := qKind (s.queue fn q)
  let s1 := dropReads (fun r => decide (r.who.fn = fn ∧ r.who.q = some q)) s
  if k = kTX then detachTx fn (fun i => decide (i = q)) s1
  else if k = kRX then discardHeld fn q s1
  else if k = kCIPHER then cipherQueueReset fn q s1
  else if k = kSIPHON then siphonQueueEnd fn q s1
  else s1

/-- RESET of a JOURNAL queue waits for its started commands (spec 14 R496); what has not started ends
with ABORTED_RESET. -/
def resetJournal (fn q : Nat) (s : State) : State :=
  let s1 := journalQueueReset fn q s
  let x := s1.queue fn q
  s1.setQueue fn q { x with st := .draining, resetting := true, reading := false, partialChain := [], journalHold := false }

/-- RESET (R380). -/
def qReset (fn q : Nat) (x : Queue) (s : State) : Nat × State :=
  let s1 := endQueueWork fn q s
  if qKind x = kJOURNAL ∧ x.chains ≠ [] ∧ x.st ≠ .disabled then (crOK, drainEnd fn q (resetJournal fn q s1))
  else (crOK, s1.setQueue fn q (queueCleared (s1.queue fn q)))

/-- Q_RESET. -/
def execQReset (t fn q : Nat) (s : State) : Host.Outcome State Fault Refusal :=
  .next (qctrl fn q 5 0 (qReset fn q) (advance t s))

/-- DISABLE (R380): receive buffers that hold no frame are given back (log entry 48). -/
def qDisable (fn q : Nat) (x : Queue) (s : State) : Nat × State :=
  let producers := activeQueue s fn (fun _ y => isProducer (qKind y) && decide (qCq y = q))
  if !x.st.live || (decide (qKind x = kCOMPLETION) && producers) then (crSTATE, s)
  else
    let s1 := discardHeld fn q (dropReads (fun r => decide (r.who.fn = fn ∧ r.who.q = some q) && (match r.what with
      | .entries _ => true
      | .data _ => false
      | .packet _ _ _ _ => false)) s)
    (crOK, drainEnd fn q (s1.setQueue fn q { x with
      st := .draining, reading := false, partialChain := [], posted := []
      chains := if qKind x = kRX then x.chains.filter (·.finished) else x.chains }))

/-- Q_DISABLE. -/
def execQDisable (t fn q : Nat) (s : State) : Host.Outcome State Fault Refusal :=
  .next (qctrl fn q 4 0 (qDisable fn q) (advance t s))

/-! ### Doorbells (R381, R383) -/

/-- A queue stops at an overrun: what was fetched finishes (R383). -/
def queueOverrun (fn q idx : Nat) (s : State) : State :=
  let x := s.queue fn q
  let stop : List Chain := if isProducer (qKind x) then
      [{ first := idx, entries := [], started := true, finished := true, status := stMALFORMED, result := 0 }] else []
  let x1 := { x with
    st := .error, status := stMALFORMED, reason := 10, errIdx := idx, errAt := s.clock, reading := false, partialChain := []
    posted := if qKind x = kRX then [] else x.posted
    chains := (if qKind x = kRX then x.chains.filter (·.finished) else x.chains) ++ stop }
  errorVectors fn q (polderFault fn stMALFORMED 1 q (discardHeld fn q
    (countFor 0x4090 3 1 fn (s.setQueue fn q x1))))

/-- A producer's doorbell is acted on (R383). -/
def applyTail (fn q idx : Nat) (s : State) : State :=
  let x := s.queue fn q
  let n := qSize x
  if n ≤ idx ∨ n - 1 - (x.tail + n - x.head) % n < (idx + n - x.tail) % n then queueOverrun fn q idx s
  else s.setQueue fn q { x with tail := idx }

/-- A doorbell of a queue that takes it: acted on, or recorded until the queue resumes (R381). -/
def takeBell (apply : Nat → State → State) (fn q idx : Nat) (s : State) : State :=
  let x := s.queue fn q
  if x.st = .parked ∨ x.st = .held then s.setQueue fn q { x with index := idx, bell := some idx }
  else apply idx (s.setQueue fn q { x with index := idx })

/-- A consumer's doorbell is acted on (R377, R383). -/
def applyHead (fn q idx : Nat) (s : State) : State :=
  let x := s.queue fn q
  let n := qSize x
  if n ≤ idx ∨ (x.tail + n - x.head) % n < (idx + n - x.head) % n then queueOverrun fn q idx s
  else s.setQueue fn q { x with head := idx }

/-- A doorbell word at a queue: a DISABLED queue takes it as DATA (R379). One in ERROR or DRAINING ignores it, but
in the clock in which it entered ERROR it is recorded (R387), and in the tail where Bus Master Enable was cleared
(09 R332). -/
def doorbell (tail : Bool) (apply : Nat → State → State) (fn q v : Nat) (s : State) : State :=
  if !queueThere s fn q then barMissed fn s
  else
    let x := s.queue fn q
    let idx := v % 65536
    match x.st with
    | .disabled => s.setQueue fn q { x with data := BitVec.ofNat 32 v }
    | .error =>
      if clockOf x.errAt = clockOf s.clock then
        s.setQueue fn q { x with index := idx, tail := if tail && decide (x.status = stMASTER_DISABLED) then idx else x.tail }
      else s.setQueue fn q { x with ignored := true }
    | .draining => s.setQueue fn q { x with ignored := true }
    | .parked => if isProducer (qKind x) = tail then takeBell apply fn q idx s else s
    | .held => if isProducer (qKind x) = tail then takeBell apply fn q idx s else s
    | .enabled => if isProducer (qKind x) = tail then takeBell apply fn q idx s else s

/-- TAIL_DOORBELL (R379, R381, R383). -/
def tailDoorbell (fn q v : Nat) (s : State) : State := doorbell true (applyTail fn q) fn q v s

def execTailDoorbell (t fn q index : Nat) (s : State) : Host.Outcome State Fault Refusal :=
  .next (tailDoorbell fn q index (advance t s))

/-- HEAD_DOORBELL (R377, R381, R383). -/
def headDoorbell (fn q v : Nat) (s : State) : State := doorbell false (applyHead fn q) fn q v s

def execHeadDoorbell (t fn q index : Nat) (s : State) : Host.Outcome State Fault Refusal :=
  .next (headDoorbell fn q index (advance t s))

/-- A queue returns to ENABLED and acts on a doorbell written meanwhile (R381). -/
def resumeQueue (fn q : Nat) (s : State) : State :=
  let x := s.queue fn q
  let s1 := s.setQueue fn q { x with st := .enabled, bell := none }
  match x.bell with
  | none => s1
  | some i => if isProducer (qKind x) then applyTail fn q i s1 else applyHead fn q i s1

/-! ### Entries and their checks (R366 to R371) -/

/-- A TX entry's own reasons (Table 11.5). -/
def txReasons (s : State) (fn : Nat) (e : Bytes) (i : Nat) : List Nat :=
  (if eOpcode e = 1 then [] else [1])
  ++ (if i = 0 then
        (if leField e 16 2 < 1024 ∧ byteAt e 18 < 16 ∧ byteAt e 19 = 0 then [] else [2])
        ++ (if 511 < leField e 16 2 % 1024 then [9] else [])
      else [])
  ++ reserved e 20 12 ++ (if outside s fn 0 (eAddr e) (eLength e) then [7] else [])

/-- An RX entry's own reasons (R370). -/
def rxReasons (s : State) (fn : Nat) (e : Bytes) : List Nat :=
  (if eOpcode e = 2 then [] else [1]) ++ reserved e 16 16
  ++ (if outside s fn 1 (eAddr e) (eLength e) then [7] else [])
  ++ (if !eFirst e then [3] else []) ++ (if !eLast e || decide (eLength e < 64) then [9] else [])

/-- The reasons of entry `i` of a chain, by kind (Table 11.6). -/
def entryReasons (s : State) (fn k : Nat) (chain : List Bytes) (i : Nat) : List Nat :=
  let e := chain.getD i []
  commonReasons e ++
  (if k = kTX then txReasons s fn e i
   else if k = kRX then rxReasons s fn e
   else if k = kCIPHER then cipherReasons s fn chain i
   else if k = kSIPHON then siphonReasons s fn e
   else journalReasons s fn chain i)

/-- The first malformed entry of a chain and its reason. -/
def chainBad (s : State) (fn k : Nat) (chain : List Bytes) : Option (Nat × Nat) :=
  (List.range chain.length).findSome? (fun i => (leastReason (entryReasons s fn k chain i)).map (fun r => (i, r)))

/-- The first malformed entry of a chain stops the queue; a chain without one goes on with `next`. -/
def chainChecked (fn q first : Nat) (chain : List Bytes) (next : State → State) (s : State) : State :=
  let x := s.queue fn q
  match chainBad s fn (qKind x) chain with
  | some (i, r) => malformed fn q ((first + i) % qSize x) r (chain.getD i []) s
  | none => next s

/-- One fetched entry, at ring index `idx` (R368, R369). -/
def takeEntry (fn q idx : Nat) (e : Bytes) (s : State) : State :=
  let x := s.queue fn q
  let k := qKind x
  let part := x.partialChain
  let first := (idx + qSize x - part.length) % qSize x
  let chain := part ++ [e]
  let order := if part = [] then !eFirst e else eFirst e
  let stops := fun r st => malformed fn q idx ((leastReason (r :: entryReasons s fn k chain part.length)).getD r) e st
  if x.st = .error ∨ x.st = .disabled ∨ x.st = .draining then s
  else if order && k != kRX then chainChecked fn q first part (stops 3) s
  else if 256 < chain.length then chainChecked fn q first part (stops 4) s
  else if eLast e || k = kRX then
    chainChecked fn q first chain (fun st =>
      let st1 := st.setQueue fn q { x with
        partialChain := []
        chains := x.chains ++ [{ first := first, entries := chain, started := false, finished := false, status := 0, result := 0 }] }
      if k = kJOURNAL then commandComes fn (entryCmd fn first (chain.headD [])) st1 else st1) s
  else s.setQueue fn q { x with partialChain := chain }

/-- Entries that a read returned, in ring order from the index fetched next. -/
def takeEntries (fn q : Nat) : List Bytes → State → State
  | [], s => s
  | e :: rest, s =>
    let x := s.queue fn q
    takeEntries fn q rest (takeEntry fn q x.fetched e (s.setQueue fn q { x with fetched := (x.fetched + 1) % qSize x }))

/-- A JOURNAL queue whose commands the journal does not take yet waits in HELD (spec 14 R497, R512). -/
def journalWaits (fn q : Nat) (s : State) : State :=
  let x := s.queue fn q
  if qKind x = kJOURNAL ∧ x.st = .enabled ∧ x.chains ≠ [] ∧ (s.jrn.state = 0 ∨ s.jrn.held) then
    s.setQueue fn q { x with st := .held, journalHold := true } else s

/-! ### Fetching (R384) -/

/-- Entries that wait to be fetched, to the end of the ring. -/
def fetchable (x : Queue) : Nat := min ((x.tail + qSize x - x.fetched) % qSize x) (qSize x - x.fetched)

/-- Entries of a JOURNAL queue that may be fetched: MAX_OUTSTANDING commands of the queue, and 65,536 of each engine,
may be fetched and not done (spec 14 R478, R484). -/
def journalRoom (s : State) (x : Queue) : Nat :=
  min (maxOutstanding x - x.chains.length) (65536 - max (engineHolds s 0) (engineHolds s 1))

/-- Is a queue ready: may a read of its entries go out now? -/
def fetchReady (s : State) (fn q : Nat) : Bool :=
  let x := s.queue fn q
  fnRuns s fn && decide (x.st = .enabled) && isProducer (qKind x) && !x.reading && decide (x.tail ≠ x.fetched)
  && (decide (qKind x ≠ kJOURNAL) || decide (0 < journalRoom s x)) && (takeTag s fn).isSome

/-- The least of some numbers that comes after `last`, or the least of all. -/
def turnAfter (last : Nat) (l : List Nat) : Option Nat :=
  match (l.filter (fun n => decide (last < n))).min? with
  | some n => some n
  | none => l.min?

/-- The queue whose turn it is: round robin first among polders, then among the queues of a polder (R384). -/
def fetchTurn (s : State) : Option (Nat × Nat) :=
  let ready := (s.wq.queues.filter (fun e => fetchReady s (e.1 / 1024) (e.1 % 1024))).map (fun e => (e.1 / 1024, e.1 % 1024))
  match turnAfter (if s.wq.lastFn < 4096 then s.wq.lastFn else 4096) (ready.map (·.1)) with
  | none => none
  | some fn => (turnAfter (Tab.get 1024 s.wq.turns fn) ((ready.filter (fun e => decide (e.1 = fn))).map (·.2))).map (fun q => (fn, q))

/-- A turn is taken. -/
def takeTurn (fn q : Nat) (s : State) : State :=
  { s with wq := { s.wq with lastFn := fn, turns := Tab.set 1024 s.wq.turns fn q } }

/-- Entries came back for a queue that fetches no more. -/
def entriesBack (fn q : Nat) (n : Nat) (b : Bytes) (s : State) : State :=
  journalWaits fn q (takeEntries fn q ((List.range n).map (fun i => slice b (32 * i) 32)) s)

/-- ENTRY_FETCH (R384, R369): one read of at most 1,024 bytes within Max_Read_Request_Size, for the queue whose turn
it is. With `entries` it returns at once; without, it is issued on a tag. -/
def entryFetch (fn q count : Nat) (entries : Option (List Bytes)) (s : State) : State :=
  let x := s.queue fn q
  let segs := [(qBase x + 32 * x.fetched, 32 * count)]
  if fetchTurn s ≠ some (fn, q) ∨ count = 0 ∨ 32 < count ∨ fetchable x < count ∨ readLimit s fn < 32 * count
      ∨ (qKind x = kJOURNAL ∧ journalRoom s x < count) then s
  else if readRefused s fn q segs then refuseRequest fn q x.fetched [] (takeTurn fn q s)
  else match entries with
  | some l =>
    if l.length ≠ count ∨ l.any (fun e => decide (e.length ≠ 32)) then s
    else match readNow (queueReq s fn q) segs s with
    | some s1 => entriesBack fn q count l.flatten (takeTurn fn q s1)
    | none => s
  | none =>
    startReads (queueReq s fn q) (.entries count) segs
      (takeTurn fn q (s.setQueue fn q { x with reading := true }))

def execEntryFetch (t fn q count : Nat) (entries : Option (List Bytes)) (s : State) : Host.Outcome State Fault Refusal :=
  .next (entryFetch fn q count entries (advance t s))

/-- CHAIN_DONE (R374): a function that may make no request writes nothing (09 R315). -/
def execChainDone (t fn q : Nat) (s : State) : Host.Outcome State Fault Refusal :=
  let s1 := advance t s
  .next (if fnRuns s1 fn then finishOldest fn q s1 else s1)

/-- Does a lower-numbered producer of the same completion queue wait (R389)? -/
def lowerWaits (s : State) (fn q : Nat) : Bool :=
  (List.range q).any (fun i =>
    let y := s.queue fn i
    decide (y.waiting ≠ []) && decide (qCq y = qCq (s.queue fn q)))

/-- HELD_RELEASE (R376, R382, R389, R391). -/
def heldRelease (fn q : Nat) (s : State) : State :=
  if !fnRuns s fn || lowerWaits s fn q then s
  else
    let s1 := releaseWaiting fn q (s.queue fn q).waiting.length s
    let x := s1.queue fn q
    if x.waiting = [] ∧ x.st = .held ∧ !x.journalHold then resumeQueue fn q s1 else drainEnd fn q s1

def execHeldRelease (t fn q : Nat) (s : State) : Host.Outcome State Fault Refusal :=
  .next (heldRelease fn q (advance t s))

/-- MOD_TIME_EXPIRY (R378). -/
def modTimer (t fn q : Nat) (s : State) : State :=
  let x := s.queue fn q
  match x.irqAt with
  | none => s
  | some t0 =>
    if t0 + qModTime x * 10 ^ 9 ≤ t then signal fn (qVector x) (s.setQueue fn q { x with irqCount := 0, irqAt := none })
    else s

def execModTimeExpiry (t fn q : Nat) (s : State) : Host.Outcome State Fault Refusal :=
  .next (modTimer t fn q (advance t s))

/-! ### Transmit (R370) -/

def txPort (e : Bytes) : Nat := leField e 16 2 % 1024
def txTc (e : Bytes) : Nat := byteAt e 18 % 8
def txTsreq (e : Bytes) : Bool := (byteAt e 18).testBit 3

/-- The next TX chain of a queue that serves it. -/
def txChain (s : State) (fn q : Nat) : Option Chain :=
  let x := s.queue fn q
  if qKind x = kTX ∧ x.st ≠ .disabled ∧ fnRuns s fn then nextChain x 1 else none

/-- A whole frame is there: it waits for the host-transmit scheduler of its port's die (spec 08 R285). -/
def txReady (fn q : Nat) (ch : Chain) (b : Bytes) (s : State) : State :=
  let e := ch.entries.headD []
  htxWait { fn := fn, q := q, idx := ch.first, die := dieOf (txPort e), port := txPort e, tc := txTc e
            tsreq := txTsreq e, bytes := b }
    (updChain fn q ch.first (fun c => { c with started := true }) s)

/-- TX_FRAME (R370): with `frame` the host bytes are there; without, they are read on tags. -/
def txFrame (fn q : Nat) (h : HostData) (s : State) : State :=
  match txChain s fn q with
  | none => s
  | some ch =>
    let e := ch.entries.headD []
    let segs := ch.entries.map (fun x => (eAddr x, eLength x))
    let total := (segs.map (·.2)).sum
    if total < 60 ∨ maxFrameSize s (txPort e) - 4 < total ∨ portMode s (txPort e) = 0 then
      finishChain fn q ch.first stRANGE 0 s
    else hostOp fn q ch.first [e] segs h (txReady fn q ch) s

def execTxFrame (t fn q : Nat) (frame : Option Bytes) (s : State) : Host.Outcome State Fault Refusal :=
  .next (txFrame fn q (.of frame) (advance t s))

/-! ### Receive (R370, R371) -/

/-- RX_BUF (R370): the next buffer is posted. -/
def rxBuf (fn q : Nat) (s : State) : State :=
  let x := s.queue fn q
  if qKind x ≠ kRX ∨ !x.st.live then s
  else match nextChain x 2 with
  | none => s
  | some ch =>
    let s1 := updChain fn q ch.first (fun c => { c with started := true }) s
    let x1 := s1.queue fn q
    s1.setQueue fn q { x1 with posted := x1.posted ++ [(ch.first, ch.entries.headD [])] }

def execRxBuf (t fn q : Nat) (s : State) : Host.Outcome State Fault Refusal :=
  .next (rxBuf fn q (advance t s))

/-- The buffers a frame of `n` bytes fills, oldest first; none while too few are posted. -/
def takeBuffers : List (Nat × Bytes) → Nat → Option (List (Nat × Bytes))
  | _, 0 => some []
  | [], _ => none
  | b :: rest, n => (takeBuffers rest (n - eLength b.2)).map (b :: ·)

/-- A receive result of Table 11.7. -/
def rxResult (h : HFrame) (first last : Bool) (placed : Nat) (tag : Nat) : Bytes :=
  let i := h.info
  let ce := match outerIp 8 h.bytes 12 with
    | some (o, six) => if six then decide (beField h.bytes o 2 / 16 % 4 = 3) else decide (byteAt h.bytes (o + 1) % 4 = 3)
    | none => false
  if h.place = .notice then
    [0x81, 3] ++ leBytes 2 64 ++ leBytes 4 tag ++ zeros 22 ++ leBytes 2 i.group
  else
    [0x80, byteOf (boolNat first + 2 * boolNat last + i.rxFlags % 32 / 4 * 4 + (if ce then 32 else 0))]
    ++ leBytes 2 placed ++ leBytes 4 tag ++ leBytes 4 i.hash ++ leBytes 2 i.inPort ++ [byteOf i.cls, byteOf i.reason]
    ++ time96Host i.stamp ++ leBytes 2 (if last then h.bytes.length else 0) ++ leBytes 2 i.group

/-- Fills buffers with a frame's bytes, each with its receive result over its entry (R371); a refused write stops
the queue there, and nothing after it is filled. -/
def fillBuffers (fn q : Nat) (h : HFrame) (first : Bool) : List (Nat × Bytes) → Bytes → State → State
  | [], _, s => s
  | (idx, e) :: rest, b, s =>
    let n := min (eLength e) b.length
    let s1 := queueWrite fn q idx (eAddr e) [e] (b.take n) s
    let s2 := if (s1.queue fn q).st = .error then s1
      else queueWrite fn q idx (qBase (s.queue fn q) + 32 * idx) [e] (rxResult h first (rest.isEmpty) n (eTag e)) s1
    if (s2.queue fn q).st = .error then s2
    else fillBuffers fn q h false rest (b.drop n) (finishChain fn q idx stOK 0 s2)

/-- Must a frame cross a Culvert that is down to be delivered (spec 01 R26)? -/
def deliveryCut (s : State) (h : HFrame) : Bool :=
  match h.place with
  | .fd die _ _ => culvDown s (hdCulvert die)
  | .md md => culvDown s (18 + md)
  | .notice => false

/-- A memory fault as the frame's cells are read (spec 07 R252): is the frame lost? -/
def deliveryFault (h : HFrame) (fault : BufFault) (s : State) : Bool × State :=
  match h.place with
  | .fd die sid _ => cellFault die sid fault s
  | .md _ => (false, s)
  | .notice => (false, s)

/-- The queue's oldest frame leaves what holds it. After its last frame in an overflow region the queue returns to
field-die cells (spec 07 R257). -/
def leaveHold (fn q : Nat) (h : HFrame) (rest : List HFrame) (s : State) : State :=
  let s1 := setHostFrames fn q rest s
  let more := rest.any (fun g => match g.place with
    | .md _ => decide (clockOf g.enq ≠ clockOf s.clock)
    | .fd _ _ _ => false
    | .notice => false)
  match h.place with
  | .md _ => if more then s1 else s1.setQueue fn q { s1.queue fn q with ovfEnd := clockOf s.clock + 1 }
  | .fd _ _ _ => s1
  | .notice => s1

/-- RX_DELIVER (R371): the oldest frame waiting for the queue; a notification without a buffer is
discarded and counted in DROPPED and, by spec 06 R225, in NotifyDropped. -/
def rxDeliver (t fn q : Nat) (fault : BufFault) (s : State) : State :=
  let x := s.queue fn q
  match hostFrames s fn q with
  | [] => s
  | h :: rest =>
    if qKind x ≠ kRX ∨ x.st ≠ .enabled ∨ !fnRuns s fn then s
    else
      match takeBuffers x.posted h.bytes.length with
      | none => if h.place = .notice then
          count 0x2A03 0xA (setHostFrames fn q rest (s.setQueue fn q { x with dropped := satAdd16 x.dropped 1 })) else s
      | some bs =>
        let lost := trackHost fn q (fun k => { k with discarded := satAdd32 k.discarded 1 })
        let hit := deliveryFault h fault s
        if deliveryCut s h then lost (leaveHold fn q h rest (dropPlace h s))
        else if hit.1 then lost (leaveHold fn q h rest hit.2)
        else
          let s1 := leaveHold fn q h rest (dropPlace h hit.2)
          let s2 := fillBuffers fn q h true bs h.bytes
            (s1.setQueue fn q { s1.queue fn q with posted := x.posted.drop bs.length })
          trackHost fn q (fun k => { k with
            dequeued := satAdd32 k.dequeued 1, sojourn := max k.sojourn (sojournNs t h.enq) }) s2

def execRxDeliver (t fn : Nat) (w : Delivery) (s : State) : Host.Outcome State Fault Refusal :=
  .next (rxDeliver t fn w.q w.fault (advance t s))

/-! ### Status (R379, R386) -/

/-- Q_STAT (Table 11.9). -/
def qStatWord (x : Queue) : Nat :=
  let err := decide (x.st = .error)
  x.st.code + 8 * boolNat x.resetting + 16 * boolNat x.ignored + 32 * (x.cmdResult % 4)
  + 256 * (if err then x.status % 256 else 0)
  + 65536 * (if err && decide (x.status = stMALFORMED) then x.reason % 16 else 0)

/-- Q_ERRIDX (Table 11.9). -/
def qErrIdxWord (x : Queue) : Nat := x.errIdx % 65536 + 65536 * (x.dropped % 65536)

/-- QUEUE_STATUS_READ (R386). -/
def execQueueStatusRead (r : Rq) (s : State) : Host.Outcome State Fault Refusal :=
  .next (serveAction (at0 0x4091 0)
    (fun q s => abortIf (4095 < beField q.msg.data 0 2
        || decide ((s.polder (beField q.msg.data 0 2)).counts.queues ≤ beField q.msg.data 2 2)) aRANGE)
    (fun q s =>
      let x := s.queue (beField q.msg.data 0 2) (beField q.msg.data 2 2)
      (s, .ok 0 0 9 (beBytes 4 (qStatWord x) ++ beBytes 4 (qErrIdxWord x) ++ beBytes 2 x.head ++ beBytes 2 x.tail
        ++ (List.range 16).flatMap (fun i => beBytes 4 (qWord x i))))) r s)

end Sys2Proof.Machine
end

