-- ==== Sys2Proof/Machine/Endpoint.lean ====
section
/-! DEFINITION. The host endpoint (spec 09): configuration requests, interrupts, Bus Master Enable,
power states, function level resets and the resets of the host side, completions and timeouts of reads,
translations, page requests and invalidations. -/

namespace Sys2Proof.Machine

/-! ### Read tags: timeouts and quarantine (R307 to R311) -/

/-- Completion timeout of a function in femtoseconds (Table 9.5). -/
def timeoutFs (s : State) (fn : Nat) : Nat :=
  match (s.func fn).timeoutEnc with
  | 0x6 => 128 * 10 ^ 12
  | 0x9 => 512 * 10 ^ 12
  | 0xA => 2000 * 10 ^ 12
  | 0xD => 8000 * 10 ^ 12
  | 0xE => 32000 * 10 ^ 12
  | _ => 32 * 10 ^ 12

/-- Sets a bit of a function's AER uncorrectable status (R327). No request of the device is ever completed with CA, so
Completer Abort is never reported. -/
def aerSet (fn bit : Nat) (s : State) : State := s.setFunc fn { s.func fn with aer := bitSet (s.func fn).aer bit }

/-- Reports an advisory non-fatal error: its own bit, and bit 13 of the correctable status (R311, PRESUMED log entry
121). -/
def aerAdvise (fn bit : Nat) (s : State) : State :=
  let s1 := aerSet fn bit s
  s1.setFunc fn { s1.func fn with aerCor := bitSet (s1.func fn).aerCor 13 }

/-- No invalidation waits for a tag any more (R324). -/
def tagDone (tag : Nat) (s : State) : State :=
  modEp (fun e => { e with
    invalidations := e.invalidations.map (fun i => (i.1, i.2.1, i.2.2.filter (fun x => decide (x ≠ tag)))) }) s

/-- A read is over: it is listed no more. -/
def endRead (tag : Nat) (s : State) : State :=
  tagDone tag (modEp (fun e => { e with reads := e.reads.filter (fun r => decide (r.tag? ≠ some tag)) }) s)

/-- A read keeps its data until every part of what it is for is there; its tag is free again. -/
def keepRead (tag : Nat) (data : Bytes) (s : State) : State :=
  tagDone tag (modEp (fun e => { e with reads := e.reads.map (fun r =>
    if r.tag? = some tag then { r with st := .back data } else r) }) s)

/-- A tag enters quarantine (R310); the event of TagsQuarantined counts the rise of the level (16 R556). -/
def quarantineTag (t fn tag : Nat) (s : State) : State :=
  countEv 0x302 1 none none none
    (modEp (fun e => { e with quarantine := e.quarantine ++ [(tag, fn, t + 2 * timeoutFs s fn)] }) s)

/-- The reads of a function are squashed (R317): tags in use are quarantined. -/
def squashReads (t fn : Nat) (s : State) : State :=
  modEp (fun e => { e with reads := e.reads.filter (fun r => decide (r.who.fn ≠ fn)) })
    (forEach (s.ep.reads.filter (fun r => decide (r.who.fn = fn)))
      (fun r st => match r.tag? with
        | some tag => quarantineTag t fn tag (endRead tag st)
        | none => st) s)

/-- A read that failed ends the work that issued it: the other reads for it deliver nothing more, and its queue stops
with a status (R309, R311). The message of a region's READ_RESP ends (log entry 123). -/
def readFailed (r : Read) (status : Nat) (s : State) : State :=
  if r.dropped then s
  else
    let s1 := dropReads (fun x => x.isFor r.who r.what) s
    match r.what, r.who.q with
    | .entries _, some q =>
      let s2 := s1.setQueue r.who.fn q { s1.queue r.who.fn q with reading := false }
      queueError r.who.fn q status 0 (s2.queue r.who.fn q).fetched 1 [] s2
    | .data first, some q =>
      queueError r.who.fn q status 0 first 1
        (((chainAt (s1.queue r.who.fn q) first).map (fun c => c.entries.take 1)).getD []) s1
    | .packet g op msg _, _ =>
      match (s1.channel g).msgs.find? (fun m => decide (m.op = op ∧ m.id = msg)) with
      | none => s1
      | some m => match m.owner with
        | some o => queueError o.1 o.2.1 status 0 o.2.2 1 [] (eraseMsg g m s1)
        | none => eraseMsg g m s1
    | _, none => s1

def readAt (s : State) (tag : Nat) : Option Read := s.ep.reads.find? (fun r => decide (r.tag? = some tag))

/-- When a read was issued. -/
def Read.since (r : Read) : Nat :=
  match r.st with
  | .waiting => 0
  | .out _ t => t
  | .back _ => 0

/-- COMPLETION_TIMEOUT (R309, R310). -/
def completionTimeout (t tag : Nat) (s : State) : State :=
  match readAt s tag with
  | none => s
  | some r =>
    if t < r.since + timeoutFs s r.who.fn then s
    else issueParts (readFailed r stTIMEOUT
      (raise 258 (count 0x4002 1 (aerSet r.who.fn 14 (quarantineTag t r.who.fn tag (endRead tag s))))))

def execCompletionTimeout (t tag : Nat) (s : State) : Host.Outcome State Fault Refusal :=
  .next (completionTimeout t tag (advance t s))

/-- TAG_QUARANTINE_END (R310). -/
def tagQuarantineEnd (t tag : Nat) (s : State) : State :=
  modEp (fun e => { e with quarantine := e.quarantine.filter (fun x => !(decide (x.1 = tag ∧ x.2.2 ≤ t))) }) s

def execTagQuarantineEnd (t tag : Nat) (s : State) : Host.Outcome State Fault Refusal :=
  .next (tagQuarantineEnd t tag (advance t s))

/-- A completion for a tag that no read holds (R311): discarded, counted, and reported as advisory. -/
def lateCompletion (tag : Nat) (s : State) : State :=
  let fn := ((s.ep.quarantine.find? (fun x => decide (x.1 = tag))).map (·.2.1)).getD 0
  count 0x4002 2 (aerAdvise fn 16
    (modEp (fun e => { e with quarantine := e.quarantine.filter (fun x => decide (x.1 ≠ tag)) }) s))

/-- The host bytes of the chain at `first` of a queue came back, by the queue's kind. -/
def dataBack (t fn q first : Nat) (b : Bytes) (s : State) : State :=
  let x := s.queue fn q
  match chainAt x first with
  | none => s
  | some c =>
    let e := c.entries.headD []
    let k := qKind x
    if c.started ∨ c.finished then s
    else if k = kTX then txFrame fn q (.back b) s
    else if k = kCIPHER then cipherBack fn q e b s
    else if k = kJOURNAL then journalWriteOp t (.queue fn q) (.back b) s
    else match eOpcode e with
      | 0x20 => siphonWriteOp t fn q (.back b) s
      | 0x21 => siphonWriteImmOp t fn q (.back b) s
      | 0x22 => siphonReadOp t fn q (.back b) s
      | 0x23 => jcmdSendOp t fn q (.back b) s
      | 0x28 => channelModifyOp t fn q (.back b) s
      | 0x2A => regionRegisterOp t fn q (.back b) s
      | _ => s

/-- What was read is there: it goes to its queue. A packet's payload waits for its SIPHON_PACKET_SEND. -/
def readsDone (t : Nat) (r : Read) (s : State) : State :=
  match readsBack s r.who r.what with
  | none => s
  | some b =>
    let gone := dropReads (fun x => x.isFor r.who r.what) s
    match r.what, r.who.q with
    | .entries n, some q =>
      entriesBack r.who.fn q n b (dmaBytesRead r.who.fn (32 * n)
        (gone.setQueue r.who.fn q { gone.queue r.who.fn q with reading := false }))
    | .data first, some q => dataBack t r.who.fn q first b gone
    | .packet g op msg _, _ =>
      if (s.channel g).msgs.any (fun m => decide (m.op = op ∧ m.id = msg)) then s else gone
    | _, none => gone

/-- COMPLETION_RECEIVE (R309, R311, R327): the last completion of a read request, with all its data. One that is
malformed, of another length or with a failing ECRC is discarded, and its read stays outstanding (log entry 123). -/
def completionReceive (t tag : Nat) (status : CplStatus) (data : Bytes) (s : State) : State :=
  if s.ep.link ≠ 2 then s
  else match readAt s tag with
  | none => lateCompletion tag s
  | some r =>
    let s1 := endRead tag s
    match status with
    | .ok =>
      if r.dropped then issueParts s1
      else if data.length ≠ r.len then aerSet r.who.fn 18 s
      else issueParts (readsDone t r (keepRead tag data s))
    | .ur => issueParts (readFailed r stACCESS s1)
    | .ca => issueParts (readFailed r stACCESS s1)
    | .poisoned => issueParts (readFailed r stACCESS (count 0x4002 4 (aerAdvise r.who.fn 12 s1)))
    | .malformed => aerSet r.who.fn 18 s
    | .ecrc => if (s.func r.who.fn).ecrcCheck then aerSet r.who.fn 19 s else s

def execCompletionReceive (t tag : Nat) (status : CplStatus) (data : Bytes) (s : State) : Host.Outcome State Fault Refusal :=
  .next (completionReceive t tag status data (advance t s))

/-! ### Interrupts (R312, R313) -/

/-- The pending messages of a function that may leave now are sent once (R312). -/
def msixFlush (fn : Nat) (s : State) : State :=
  if !(s.func fn).msixEnable then s
  else s.ep.msix.foldl (fun st e =>
    let v := e.1 % 2048
    let x := st.msix fn v
    if e.1 / 2048 = fn ∧ x.pending ∧ msixOpen st fn v then signal fn v (st.setMsix fn v { x with pending := false })
    else st) s

/-- A function that serves configuration requests now. -/
def fnServed (s : State) (fn : Nat) : Bool :=
  decide (s.ep.link = 2) && fnExists s fn && !(s.func fn).rrs && !(s.func fn).flr

/-- MSI-X Table Size (R308). -/
def msixSize (s : State) (fn : Nat) : Nat := if polderLive s fn then (s.polder fn).counts.vectors else 1

/-- MSIX_UNMASK (R312). -/
def msixUnmask (fn v : Nat) (s : State) : State :=
  if barOpen s fn && decide (v < msixSize s fn) then msixFlush fn (s.setMsix fn v { s.msix fn v with masked := false })
  else barMissed fn s

def execMsixUnmask (t fn vector : Nat) (s : State) : Host.Outcome State Fault Refusal :=
  .next (msixUnmask fn vector (advance t s))

/-- MSI-X Enable is written (R313). -/
def msixEnableSet (fn : Nat) (v : Bool) (s : State) : State :=
  msixFlush fn (intxEval (s.setFunc fn { s.func fn with msixEnable := v }))

def execMsixEnableWrite (t fn : Nat) (v : Bool) (s : State) : Host.Outcome State Fault Refusal :=
  .next (if fnServed s fn then msixEnableSet fn v (advance t s) else advance t s)

/-- PF0's Interrupt Disable is written (R313). -/
def intDisableSet (v : Bool) (s : State) : State := intxEval (s.setFunc 0 { s.func 0 with intDisable := v })

def execInterruptDisableWrite (t : Nat) (v : Bool) (s : State) : Host.Outcome State Fault Refusal :=
  .next (if fnServed s 0 then intDisableSet v (advance t s) else advance t s)

/-! ### The end of a function's work -/

/-- The queues of a function that a table lists. -/
def queuesOf (s : State) (fn : Nat) : List Nat :=
  (s.wq.queues.filter (fun e => decide (e.1 / 1024 = fn))).map (fun e => e.1 % 1024)

/-- Every frame held for a function's receive queues is discarded (spec 10 R349). -/
def discardAllHeld (fn : Nat) (s : State) : State :=
  forEach ((s.buf.hostQ.filter (fun e => decide (e.1 / 1024 = fn))).map (fun e => e.1 % 1024))
    (fun q st => discardHeld fn q st) s

/-- BUS_MASTER_DISABLE (R314): during an FLR the FLR governs (R330). -/
def busMasterOff (fn : Nat) (s : State) : State :=
  let s1 := s.setFunc fn { s.func fn with busMaster := false }
  if !(s.func fn).busMaster || (s.func fn).flr then s1
  else
    let s2 := detachTx fn (fun _ => true) (dropReads (fun r => decide (r.who.fn = fn)) s1)
    let s3 := forEach (queuesOf s fn) (fun q st => queueMasterOff fn q st) s2
    journalEnd fn (siphonEnd fn (cipherDrop (fun m => decide (m.user = .polder fn)) (discardAllHeld fn s3)))

def execBusMasterDisable (t fn : Nat) (s : State) : Host.Outcome State Fault Refusal :=
  .next (if fnServed s fn then busMasterOff fn (advance t s) else advance t s)

/-- Bus Master Enable is set: queues stay as they are, pending messages leave (R312, R314). -/
def busMasterOn (fn : Nat) (s : State) : State := msixFlush fn (s.setFunc fn { s.func fn with busMaster := true })

/-- A function's work ends by the FLR outcome (R317, spec 10 Table 10.2); resources, mapping, key slots,
minima and groups stay. -/
def endWork (t fn : Nat) (s : State) : State :=
  let s1 := discardAllHeld fn (detachTx fn (fun _ => true) (squashReads t fn s))
  let s2 := cipherDrop (fun m => decide (m.user = .polder fn)) s1
  let s3 := journalEnd fn (siphonRegionsEnd fn (siphonEnd fn s2))
  let s4 := { s3 with wq := { s3.wq with queues := s3.wq.queues.filter (fun e => decide (e.1 / 1024 ≠ fn)) } }
  let s5 := s4.setPage fn { s4.page fn with values := [], ovf := 0 }
  modEp (fun e => { e with
    cached := e.cached.filter (fun x => decide (x.fn ≠ fn))
    asked := e.asked.filter (fun x => decide (x.1.fn ≠ fn))
    pageReqs := e.pageReqs.filter (fun x => decide (x.fn ≠ fn))
    msix := e.msix.filter (fun x => decide (x.1 / 2048 ≠ fn)) }) s5

/-- Functions that can hold work: those with a polder record. -/
def workFns (s : State) : List Nat := s.polders.tab.map (·.1)

/-- The mailbox returns to its reset values; what was accepted is carried out and its response discarded
(spec 02 R67). -/
def mailboxReset (s : State) : State :=
  let s1 := modMbx (fun m => { Mailbox.reset with
    restart := m.restart
    orphans := m.orphans ++ m.accepted.toList }) s
  let gone : ReqHead → ReqHead := fun h => if h.session = 0 then { h with session := 65 } else h
  modDict (fun d => { d with
    acts := d.acts.map (fun p => { p with req := gone p.req })
    busyAfter := d.busyAfter.map gone }) s1

/-- The TBL_ registers return to their reset values (spec 05 Table 5.8). -/
def tblReset (s : State) : State :=
  modTables (fun x => { x with cmd := 0, stat := 0, ignCnt := 0, data := [], busy := none }) s

/-- What a reset of the host side or of PF0 does to the registers of PF0 (spec 16 Table 16.11, 15 R531). -/
def pf0RegsReset (s : State) : State :=
  let s1 := tblReset (mailboxReset (modEvt (fun e => { e with mask := [], vector := [] }) s))
  modBoot (fun b => { b with dmaWindows := zeros 256 }) s1

/-- Every VF ends and VF Enable is 0 (R318). -/
def endVfs (t : Nat) (s : State) : State :=
  let s1 := forEach ((workFns s).filter (fun n => decide (n ≠ 0))) (endWork t)
    (forEach ((workFns s).filter (fun n => decide (n ≠ 0))) (squashReads t) s)
  modEp (fun e => { e with
    vfEnable := false
    funcs := e.funcs.filter (fun x => decide (x.1 = 0))
    msix := e.msix.filter (fun x => decide (x.1 / 2048 = 0)) }) s1

/-! ### FLR (R317, R318) -/

/-- FLR_INITIATE. -/
def flrInitiate (t fn : Nat) (s : State) : State :=
  if !fnServed s fn then s
  else
    let f := s.func fn
    let s1 := squashReads t fn (count 0x4002 9 s)
    let s2 := if fn = 0 then intxEval (pf0RegsReset s1) else s1
    let s3 := s2.setFunc fn { Func.reset with rrs := false, flr := true, flrAt := t, resetSeen := f.resetSeen }
    let s4 := endWork t fn s3
    if fn = 0 then
      modEp (fun e => { e with numVfs := 0, vfBars := [0, 0, 0], pageSize := 1, tag10 := false, tag14 := false }) (endVfs t s4)
    else s4

def execFlrInitiate (t fn : Nat) (s : State) : Host.Outcome State Fault Refusal :=
  .next (flrInitiate t fn (advance t s))

/-- FLR_DRAIN_CAP (R317): the status that LastFault then records is not stated (log entry 50). -/
def flrDrainCap (t fn : Nat) (s : State) : State :=
  let f := s.func fn
  if f.flr && !f.flrCapped && decide (f.flrAt + 90 * 10 ^ 12 ≤ t) then
    let r := drawNat (s.setFunc fn { f with flrCapped := true })
    polderFault fn (r.1 % 256) 2 0xFFFF (raise 260 (count 0x4002 0xC r.2))
  else s

def execFlrDrainCap (t fn : Nat) (s : State) : Host.Outcome State Fault Refusal :=
  .next (flrDrainCap t fn (advance t s))

/-- FLR_COMPLETE (R317). -/
def flrComplete (fn : Nat) (s : State) : State :=
  let f := s.func fn
  if f.flr then s.setFunc fn { f with flr := false, flrCapped := false, resetSeen := true } else s

def execFlrComplete (t fn : Nat) (s : State) : Host.Outcome State Fault Refusal :=
  .next (flrComplete fn (advance t s))

/-! ### Resets of the host side (R316, R319, R321, R322) -/

/-- The steps of R317 for every function at once, reset values in configuration space, and the host-transmit
schedulers as at the start (spec 08 R300). -/
def hostSideEnd (t : Nat) (s : State) : State :=
  let s1 := forEach (workFns s) (squashReads t) s
  let s2 := modEp (fun e => { e with
    inta := false, vfEnable := false, numVfs := 0, vfBars := [0, 0, 0], pageSize := 1, tag10 := false, tag14 := false
    funcs := [], msix := [], cached := [], asked := [], invalidations := [], lastInval := none, pageReqs := [] }) (pf0RegsReset s1)
  modSched (fun b => { b with htx := [] }) (forEach (workFns s) (endWork t) s2)

/-- host-link-down, once while the link is away (spec 09 R328). -/
def linkLost (s : State) : State :=
  if s.ep.wasUp then raise 256 (modEp (fun e => { e with wasUp := false }) s) else s

/-- HOT_RESET (R319). -/
def hotReset (t : Nat) (s : State) : State :=
  if s.ep.link ≠ 2 then s
  else hostSideEnd t (count 0x4002 0xB (modEp (fun e => { e with link := 1, inta := false }) s))

def execHotReset (t : Nat) (s : State) : Host.Outcome State Fault Refusal :=
  .next (hotReset t (advance t s))

/-- LINK_DOWN (R319, R321); during a host-side reset it is not repeated (R334). -/
def linkDown (t : Nat) (s : State) : State :=
  if s.ep.link = 3 ∨ s.ep.link = 0 then s
  else linkLost (hostSideEnd t (count 0x4002 0xA (modEp (fun e => { e with link := 0, inta := false }) s)))

def execLinkDown (t : Nat) (s : State) : Host.Outcome State Fault Refusal :=
  .next (linkDown t (advance t s))

/-- LINK_UP (R301, R322): not while the host side is in reset or before the start (R316). -/
def linkUp (speed width : Nat) (flit : Bool) (s : State) : State :=
  if s.ep.link = 2 ∨ s.ep.link = 3 ∨ !s.boot.started ∨ !(decide (1 ≤ speed ∧ speed ≤ 6)) ∨ !([1, 2, 4, 8, 16].contains width)
      ∨ (speed = 6 ∧ !flit) then s
  else
    let s1 := modEp (fun e => { e with link := 2, speed := speed, width := width, flit := flit, wasUp := true }) s
    if s.ep.wasUp then intxEval s1 else raise 257 s1

def execLinkUp (t speed width : Nat) (flit : Bool) (s : State) : Host.Outcome State Fault Refusal :=
  .next (linkUp speed width flit (advance t s))

/-! ### Power states (R315) -/

/-- POWER_STATE_WRITE: 0 is D0, 3 is D3hot; any other state, or a VF, leaves it unchanged. -/
def powerStateSet (fn state : Nat) (s : State) : State :=
  if fn ≠ 0 then s
  else if state = 3 then
    let s1 := intxEval (s.setFunc 0 { s.func 0 with d3hot := true })
    if (s.func 0).d3hot then s1 else discardAllHeld 0 s1
  else if state = 0 then msixFlush 0 (intxEval (s.setFunc 0 { s.func 0 with d3hot := false }))
  else s

def execPowerStateWrite (t fn state : Nat) (s : State) : Host.Outcome State Fault Refusal :=
  .next (if fnServed s fn then powerStateSet fn state (advance t s) else advance t s)

/-! ### VF Enable (R303) -/

/-- VF_ENABLE: NumVFs is taken while VF Enable is 0. -/
def vfEnableSet (t n : Nat) (s : State) : State :=
  if s.ep.vfEnable ∨ 4095 < n then s
  else modEp (fun e => { e with vfEnable := true, numVfs := n, vfAt := t }) s

def execVfEnable (t numVfs : Nat) (s : State) : Host.Outcome State Fault Refusal :=
  .next (if fnServed s 0 then vfEnableSet t numVfs (advance t s) else advance t s)

/-! ### PRI Reset (R325) -/

def priReset (fn : Nat) (s : State) : State := s.setFunc fn { s.func fn with priStopped := false }

def execPriReset (fn : Nat) (s : State) : Host.Outcome State Fault Refusal :=
  .next (if fnServed s fn then priReset fn s else s)

/-! ### Configuration requests (R302, R303, R316) -/

/-- BAR sizes of Table 9.2: PF0's, and one VF's. -/
def barSize (s : State) (pf : Bool) (i : Nat) : Nat :=
  if pf then (if i = 0 then 2 ^ 26 else if i = 1 then 4096 else 65536) else vfBarSize s i

/-- The low bits of a BAR: 64-bit memory, BAR2 prefetchable (R304; PRESUMED, log entry 121). -/
def barBits (i : Nat) : Nat := if i = 1 then 0xC else 4

/-- Capabilities present: those of Table 9.1, of PF0 alone or of all functions (R302). -/
def capPresent (fn : Nat) : CapName → Bool
  | .pciExpress => true
  | .powerManagement => decide (fn = 0)
  | .msix => true
  | .sriov => decide (fn = 0)
  | .ari => true
  | .ats => true
  | .pageRequest => true
  | .pasid => true
  | .acs => true
  | .aer => true
  | .serialNumber => decide (fn = 0)
  | .secondaryPcie => decide (fn = 0)
  | .physical16 => decide (fn = 0)
  | .physical32 => decide (fn = 0)
  | .physical64 => decide (fn = 0)
  | .laneMargining => decide (fn = 0)
  | .msi => false
  | .resizableBar => false
  | .ltr => false
  | .tph => false
  | .l1PmSubstates => false
  | .other => false

/-- The capability that presents a value; the header is none. -/
def valueOf : CapValue → Option CapName
  | .headerType => none
  | .portType | .payloadSupported | .extendedTag | .tag10Requester | .tag10Completer | .tag14Requester
  | .tag14Completer | .functionReset | .maxLinkSpeed | .maxLinkWidth | .aspmSupport | .timeoutRanges
  | .timeoutDisable | .flitMode => some .pciExpress
  | .d1Support | .d2Support | .pmeSupport | .noSoftReset => some .powerManagement
  | .initialVfs | .vfOffset | .vfStride | .vfDeviceId | .pageSizes => some .sriov
  | .ariNext => some .ari
  | .invalidateDepth | .pageAligned | .globalInvalidate => some .ats
  | .pageRequestCapacity => some .pageRequest
  | .pasidWidth | .pasidExecute | .pasidPrivileged => some .pasid
  | .acsValidation | .acsBlocking | .acsRequestRedirect | .acsCompletionRedirect | .acsForwarding | .acsEgress
  | .acsVectorSize | .acsDirect => some .acs

/-- The values of Table 9.1: sizes, widths and counts as they are, code fields by the base specification (the payload
size's 2 is 512 bytes, the timeout ranges' 0xE is B, C and D, the page sizes' 0x11 is 4 KiB and 64 KiB). -/
def capValue : CapValue → Nat
  | .headerType => 0
  | .portType => 0
  | .payloadSupported => 2
  | .extendedTag => 1
  | .tag10Requester => 1
  | .tag10Completer => 1
  | .tag14Requester => 1
  | .tag14Completer => 1
  | .functionReset => 1
  | .maxLinkSpeed => 6
  | .maxLinkWidth => 16
  | .aspmSupport => 0
  | .timeoutRanges => 0xE
  | .timeoutDisable => 0
  | .flitMode => 1
  | .d1Support => 0
  | .d2Support => 0
  | .pmeSupport => 0
  | .noSoftReset => 1
  | .initialVfs => 4095
  | .vfOffset => 1
  | .vfStride => 1
  | .vfDeviceId => 0xA513
  | .pageSizes => 0x11
  | .ariNext => 0
  | .invalidateDepth => 0
  | .pageAligned => 1
  | .globalInvalidate => 0
  | .pageRequestCapacity => 512
  | .pasidWidth => 20
  | .pasidExecute => 0
  | .pasidPrivileged => 0
  | .acsValidation => 0
  | .acsBlocking => 0
  | .acsRequestRedirect => 1
  | .acsCompletionRedirect => 1
  | .acsForwarding => 0
  | .acsEgress => 1
  | .acsVectorSize => 4096
  | .acsDirect => 1

/-- What a read of a field returns. -/
def cfgFieldRead (s : State) (fn : Nat) (x : CfgField) : Nat :=
  let f := s.func fn
  match x with
  | .vendorId => 0x1E7A
  | .deviceId => if fn = 0 then 0xA512 else 0xA513
  | .revisionId => 0xB0
  | .classCode => 0x028000
  | .interruptPin => if fn = 0 then 1 else 0
  | .interruptStatus => boolNat (decide (fn = 0) && s.ep.inta)
  | .memorySpace => boolNat f.memSpace
  | .busMaster => boolNat f.busMaster
  | .completionTimeout => f.timeoutEnc
  | .relaxedOrdering => boolNat f.relaxed
  | .tag10 => boolNat (decide (fn = 0) && s.ep.tag10)
  | .tag14 => boolNat (decide (fn = 0) && s.ep.tag14)
  | .msixMask => boolNat f.msixMask
  | .pasidEnable => boolNat f.pasid
  | .atsEnable => boolNat f.ats
  | .priEnable => boolNat f.pri
  | .priReset => 0
  | .priAllocation => f.priAlloc
  | .priFailure => boolNat f.priFailed
  | .acsEgressEnable => boolNat f.acsEnable
  | .acsVectorBit g => boolNat (f.acsVector.contains g)
  | .msixTableSize => msixSize s fn
  | .numVfs => if fn = 0 then s.ep.numVfs else 0
  | .totalVfs => if fn = 0 then 4095 else 0
  | .vfEnableBit => boolNat (decide (fn = 0) && s.ep.vfEnable)
  | .powerState => if f.d3hot then 3 else 0
  | .serialNumber => if fn = 0 then beNat (slice Config.deviceSerial 8 8) else 0
  | .aerStatus => f.aer
  | .bar i => if fn = 0 ∧ i < 3 then f.bars.getD i 0 + barBits i else 0
  | .vfBar i => if fn = 0 ∧ i < 3 then s.ep.vfBars.getD i 0 + barBits i else 0
  | .present c => boolNat (capPresent fn c)
  | .value v => match valueOf v with
    | some c => if capPresent fn c then capValue v else 0
    | none => capValue v
  | .systemPageSize => if fn = 0 then s.ep.pageSize else 0
  | .payloadSize => f.payload
  | .readRequestSize => f.readRequest
  | .msixEnable => boolNat f.msixEnable
  | .aerCorrectable => f.aerCor
  | .ecrcGenerate => boolNat f.ecrcGen
  | .ecrcCheck => boolNat f.ecrcCheck

/-- What a write of a field does; read-only fields ignore it. -/
def cfgFieldWrite (t fn : Nat) (x : CfgField) (v : Nat) (s : State) : State :=
  let f := s.func fn
  let on := v.testBit 0
  match x with
  | .vendorId => s
  | .deviceId => s
  | .revisionId => s
  | .classCode => s
  | .interruptPin => s
  | .interruptStatus => s
  | .memorySpace => s.setFunc fn { f with memSpace := on }
  | .busMaster => if on then busMasterOn fn s else busMasterOff fn s
  | .completionTimeout => s.setFunc fn { f with timeoutEnc := v % 16 }
  | .relaxedOrdering => s.setFunc fn { f with relaxed := on }
  | .tag10 => if fn = 0 then modEp (fun e => { e with tag10 := on }) s else s
  | .tag14 => if fn = 0 then modEp (fun e => { e with tag14 := on }) s else s
  | .msixMask => msixFlush fn (s.setFunc fn { f with msixMask := on })
  | .pasidEnable => s.setFunc fn { f with pasid := on }
  | .atsEnable => s.setFunc fn { f with ats := on }
  | .priEnable => s.setFunc fn { f with pri := on }
  | .priReset => if on then priReset fn s else s
  | .priAllocation => s.setFunc fn { f with priAlloc := v % 2 ^ 32 }
  | .priFailure => if on then s.setFunc fn { f with priFailed := false } else s
  | .acsEgressEnable => s.setFunc fn { f with acsEnable := on }
  | .acsVectorBit g =>
    if 4095 < g then s
    else s.setFunc fn { f with acsVector :=
      (if on then (f.acsVector.filter (fun y => decide (y < g))) ++ [g] ++ (f.acsVector.filter (fun y => decide (g < y)))
       else f.acsVector.filter (fun y => decide (y ≠ g))) }
  | .msixTableSize => s
  | .numVfs => if fn = 0 ∧ !s.ep.vfEnable ∧ v ≤ 4095 then modEp (fun e => { e with numVfs := v }) s else s
  | .totalVfs => s
  | .vfEnableBit => if fn ≠ 0 then s else if on then vfEnableSet t s.ep.numVfs s else if s.ep.vfEnable then endVfs t s else s
  | .powerState => powerStateSet fn (v % 4) s
  | .serialNumber => s
  | .aerStatus => s.setFunc fn { f with aer := bitsMinus f.aer v }
  | .bar i =>
    if fn = 0 ∧ i < 3 then s.setFunc fn { f with bars := f.bars.set i (v % 2 ^ 64 / barSize s true i * barSize s true i) } else s
  | .vfBar i =>
    if fn = 0 ∧ i < 3 then
      modEp (fun e => { e with vfBars := e.vfBars.set i (v % 2 ^ 64 / barSize s false i * barSize s false i) }) s
    else s
  | .present _ => s
  | .value _ => s
  | .systemPageSize =>
    if fn = 0 ∧ !s.ep.vfEnable ∧ (v = 1 ∨ v = 16) then modEp (fun e => { e with pageSize := v }) s else s
  | .payloadSize => if v ≤ 2 then s.setFunc fn { f with payload := v } else s
  | .readRequestSize => if v ≤ 5 then s.setFunc fn { f with readRequest := v } else s
  | .msixEnable => msixEnableSet fn on s
  | .aerCorrectable => s.setFunc fn { f with aerCor := bitsMinus f.aerCor v }
  | .ecrcGenerate => s.setFunc fn { f with ecrcGen := on }
  | .ecrcCheck => s.setFunc fn { f with ecrcCheck := on }

/-- A VF answers RRS for at most 100 ms after VF Enable: when within them it first serves is free (R303). -/
def vfSettle (t fn : Nat) (s : State) : State :=
  let f := s.func fn
  if fn = 0 ∨ !fnExists s fn ∨ !f.rrs then s
  else if s.ep.vfAt + 10 ^ 14 ≤ t then s.setFunc fn { f with rrs := false }
  else
    let r := drawBool s
    if r.1 then r.2.setFunc fn { f with rrs := false } else r.2

/-- CONFIG_REQUEST (R303, R305, R316). -/
def configRequest (t fn : Nat) (x : CfgField) (w : Option Nat) (s : State) : State :=
  if s.ep.link ≠ 2 ∨ !fnExists s fn then s
  else
    let s1 := vfSettle t fn s
    let f := s1.func fn
    if f.rrs ∨ f.flr then emit (.config fn none) s1
    else match w with
    | none => emit (.config fn (some (cfgFieldRead s1 fn x))) s1
    | some v => cfgFieldWrite t fn x v s1

def execConfigRequest (t fn : Nat) (field : CfgField) (write : Option Nat) (s : State) : Host.Outcome State Fault Refusal :=
  .next (configRequest t fn field write (advance t s))

/-! ### Translations and page requests (R323, R325) -/

/-- The ring index at which a queue's fault stops it: its oldest chain in work, or the next fetch. -/
def faultIndex (x : Queue) : Nat :=
  if isProducer (qKind x) then ((x.chains.find? (fun c => !c.finished)).map (·.first)).getD x.fetched else x.tail

/-- A queue that waited for a translation ends in TRANSLATION_FAULT (R325). -/
def translationFailed (fn q : Nat) (s : State) : State :=
  let x := s.queue fn q
  let c := (x.chains.find? (fun c => !c.finished)).map (fun c => c.entries.take 1)
  queueError fn q stTRANSLATION_FAULT 0 (faultIndex x) 1 (c.getD []) s

def sentReqs (s : State) (fn : Nat) : Nat :=
  (s.ep.pageReqs.filter (fun r => decide (r.fn = fn) && r.sentAt.isSome)).length

/-- A waiting page request of a function is sent while its allocation has room (R325). -/
def sendPageReq (t fn : Nat) (s : State) : State :=
  match s.ep.pageReqs.find? (fun r => decide (r.fn = fn) && r.sentAt.isNone) with
  | none => s
  | some r =>
    if (s.func fn).priAlloc ≤ sentReqs s fn || !fnRuns s fn then s
    else
      let s1 := modEp (fun e => { e with pageReqs := e.pageReqs.map (fun x =>
        if x = r then { x with sentAt := some t } else x) }) s
      emit (.pageRequest fn r.q r.page (pasidSent s (queueReq s fn r.q))) (count 0x4002 6 s1)

/-- A queue parks at a translation fault. -/
def parkQueue (fn q : Nat) (s : State) : State :=
  let x := s.queue fn q
  if x.st = .enabled ∨ x.st = .held then s.setQueue fn q { x with st := .parked } else s

/-- A parked queue goes on (R325, 11 R391). -/
def unparkQueue (fn q : Nat) (s : State) : State :=
  let x := s.queue fn q
  if x.st ≠ .parked then s
  else if x.waiting ≠ [] ∨ x.journalHold then s.setQueue fn q { x with st := .held }
  else resumeQueue fn q s

/-- A translation is kept; a full cache gives one up, which is free (log entry 51). -/
def cacheTranslation (x : Transl) (s : State) : State :=
  let old := s.ep.cached.filter (fun y => decide (y.fn ≠ x.fn ∨ y.pasid ≠ x.pasid ∨ y.page ≠ x.page))
  if old.length < 16384 then modEp (fun e => { e with cached := old ++ [x] }) s
  else
    let r := drawNat s
    modEp (fun e => { e with cached := old.eraseIdx (r.1 % 16384) ++ [x] }) r.2

/-- The translation request that a response for a queue's page answers; one of the Siphon engine has no queue. -/
def askedFor (s : State) (fn q page : Nat) : Option (Requester × Nat) :=
  match s.ep.asked.find? (fun a => decide (a.1.fn = fn ∧ a.1.q = some q ∧ a.2 = page)) with
  | some a => some a
  | none => s.ep.asked.find? (fun a => decide (a.1.fn = fn ∧ a.1.q = none ∧ a.2 = page))

/-- A page is asked for again, whatever was asked before. -/
def askAgain (w : Requester) (page : Nat) (s : State) : State := askPage w (4096 * page) s

/-- A queue's translation gave no access (R325): it is parked and a page request sent, or it stops. -/
def translationFault (t fn q page : Nat) (s : State) : State :=
  let f := s.func fn
  let x := s.queue fn q
  let s1 := raise 259 (count 0x4002 5 s)
  if x.st = .disabled ∨ x.st = .error ∨ s.ep.pageReqs.any (fun r => decide (r.fn = fn ∧ r.q = q)) then s1
  else if !f.pri ∨ f.priStopped then translationFailed fn q s1
  else
    sendPageReq t fn (modEp (fun e => { e with
      pageReqs := e.pageReqs ++ [{ fn := fn, q := q, page := page, sentAt := none }] }) (parkQueue fn q s1))

/-- Was the page invalidated in this clock (R333)? -/
def justInvalidated (s : State) (w : Requester) (page : Nat) : Bool :=
  match s.ep.lastInval with
  | some i => decide (i.1 = w.fn ∧ i.2.1 = w.pasid ∧ i.2.2.1 = page ∧ clockOf i.2.2.2 = clockOf s.clock)
  | none => false

/-- TRANSLATION_RESPONSE (R323, R325, R333): the page's place, or no access. -/
def translationResponse (t fn q page : Nat) (frame : Option Nat) (s : State) : State :=
  match askedFor s fn q page with
  | none => s
  | some a =>
    let s1 := modEp (fun e => { e with asked := e.asked.erase a }) s
    match frame with
    | some g => cacheTranslation { fn := fn, pasid := a.1.pasid, page := page, frame := g } s1
    | none =>
      if justInvalidated s a.1 page then askAgain a.1 page s1
      else match a.1.q with
      | some i => translationFault t fn i page s1
      | none => raise 259 (count 0x4002 5 s1)

def execTranslationResponse (t fn q page : Nat) (frame : Option Nat) (s : State) : Host.Outcome State Fault Refusal :=
  .next (translationResponse t fn q page frame (advance t s))

def pageReqOf (s : State) (fn q : Nat) : Option PageReq :=
  s.ep.pageReqs.find? (fun r => decide (r.fn = fn ∧ r.q = q) && r.sentAt.isSome)

def dropPageReq (r : PageReq) (s : State) : State := modEp (fun e => { e with pageReqs := e.pageReqs.erase r }) s

/-- PRG_RESPONSE (R325, R333). -/
def prgResponse (t fn q : Nat) (code : PrgCode) (s : State) : State :=
  if s.ep.link ≠ 2 then s
  else match pageReqOf s fn q with
  | none => count 0x4002 7 s
  | some r =>
    let s1 := dropPageReq r s
    let st := (s.queue fn q).st
    if st ≠ .parked ∧ st ≠ .draining then sendPageReq t fn (count 0x4002 7 s1)
    else match code with
    | .success => sendPageReq t fn (unparkQueue fn q (askAgain (queueReq s1 fn q) r.page s1))
    | .invalidRequest => sendPageReq t fn (translationFailed fn q (count 0x4002 7 s1))
    | .responseFailure =>
      let s2 := count 0x4002 7 (s1.setFunc fn { s1.func fn with priStopped := true, priFailed := true })
      let qs := (queuesOf s2 fn).filter (fun i => decide ((s2.queue fn i).st = .parked) || decide (i = q))
      modEp (fun e => { e with pageReqs := e.pageReqs.filter (fun x => decide (x.fn ≠ fn)) })
        (forEach qs (translationFailed fn) s2)

def execPrgResponse (t fn q : Nat) (code : PrgCode) (s : State) : Host.Outcome State Fault Refusal :=
  .next (prgResponse t fn q code (advance t s))

/-- PAGE_REQUEST_TIMEOUT (R325). -/
def pageRequestTimeout (t fn q : Nat) (s : State) : State :=
  match pageReqOf s fn q with
  | none => s
  | some r =>
    if t < r.sentAt.getD 0 + cfgN s 0x4000 2 * 10 ^ 12 then s
    else sendPageReq t fn (translationFailed fn q (count 0x4002 7 (dropPageReq r s)))

def execPageRequestTimeout (t fn q : Nat) (s : State) : Host.Outcome State Fault Refusal :=
  .next (pageRequestTimeout t fn q (advance t s))

/-! ### Invalidations (R324) -/

/-- INVALIDATE_REQUEST: the translation is used no more; reads issued under it are waited for. A request beyond the
32 in progress waits outside. `pasid` 2^20 is none. -/
def invalidateRequest (fn tag pasid page : Nat) (s : State) : State :=
  if !fnServed s fn ∨ 32 ≤ s.ep.invalidations.length then s
  else
    let p := if pasid < 2 ^ 20 then some pasid else none
    modEp (fun e => { e with
      cached := e.cached.filter (fun x => decide (x.fn ≠ fn ∨ x.pasid ≠ p ∨ x.page ≠ page))
      lastInval := some (fn, p, page, s.clock)
      invalidations := e.invalidations ++ [(fn, tag, (e.reads.filter (fun r =>
        decide (r.who.fn = fn ∧ r.who.pasid = p ∧ r.addr / 4096 = page) && r.translated)).filterMap (·.tag?))] }) s

def execInvalidateRequest (t fn tag pasid page : Nat) (s : State) : Host.Outcome State Fault Refusal :=
  .next (invalidateRequest fn tag pasid page (advance t s))

/-- INVALIDATE_COMPLETE: once no read issued before is outstanding. -/
def invalidateComplete (fn tag : Nat) (s : State) : State :=
  if s.ep.invalidations.contains (fn, tag, []) then
    emit (.invalidated fn tag) (modEp (fun e => { e with invalidations := e.invalidations.erase (fn, tag, []) }) s)
  else s

def execInvalidateComplete (t fn tag : Nat) (s : State) : Host.Outcome State Fault Refusal :=
  .next (invalidateComplete fn tag (advance t s))

/-! ### FunctionStatus (R328) -/

def parkedOf (s : State) (fn : Nat) : Nat := ((queuesOf s fn).filter (fun q => decide ((s.queue fn q).st = .parked))).length

def functionRecord (s : State) (fn : Nat) : Bytes :=
  let f := s.func fn
  [byteOf (boolNat f.busMaster), byteOf (boolNat f.msixEnable), byteOf (boolNat f.flr), byteOf (boolNat f.priStopped)]
  ++ beBytes 2 ((readsOut s).filter (fun r => decide (r.who.fn = fn))).length
  ++ beBytes 2 (s.ep.quarantine.filter (fun x => decide (x.2.1 = fn))).length ++ beBytes 2 (parkedOf s fn) ++ [0, 0]

def execFunctionStatus (r : Rq) (s : State) : Host.Outcome State Fault Refusal :=
  .next (serveAction (at0 0x4010 0)
    (fun q _ => abortIf (4095 < beNat q.msg.data) aRANGE)
    (fun q s => (s, .ok 0 0 9 (functionRecord s (beNat q.msg.data)))) r s)

end Sys2Proof.Machine
end

