-- ==== Sys2Proof/Machine/Polders.lean ====
section
/-! DEFINITION. Polders (spec 10): pools, Commit, Adjust, Remove, the polder area, host queue groups and
faults. -/

namespace Sys2Proof.Machine

/-! ### Pools and shares (R338, R339) -/

/-- The pools of Table 10.1, by resource kind (State.Polder names the kinds). -/
def poolSize (k : Nat) : Nat := [65536, 131072, 65536, 65536, 16384, 1048576, 4096].getD k 0

/-- The counts of a share, by resource kind. -/
def Counts.list (c : Counts) : List Nat :=
  [c.queues, c.vectors, c.keySlots, c.channels, c.domains, c.regions, c.namespaces]

/-- How much of a pool is taken. -/
def poolUsed (s : State) (k : Nat) : Nat :=
  ((s.polders.tab.filter (fun e => decide (e.2.state = 1 ∨ e.2.state = 2))).map (fun e => e.2.counts.list.getD k 0)).sum

/-- The lowest `n` numbers from `i` on that are not in use. -/
def lowestFree (used : List Nat) : (fuel i n : Nat) → List Nat
  | _, _, 0 => []
  | 0, _, _ => []
  | f + 1, i, n + 1 => if used.contains i then lowestFree used f (i + 1) (n + 1) else i :: lowestFree used f (i + 1) n

/-- The global numbers that polders hold of a kind. -/
def globalsUsed (s : State) (k : Nat) : List Nat := s.polders.tab.flatMap (fun e => e.2.maps.getD k [])

/-- A mapping brought to `n` local numbers: cut, or grown by the lowest free global numbers (R339). -/
def fitMap (s : State) (k n : Nat) (m : List Nat) : List Nat :=
  let used := globalsUsed s k
  m.take n ++ lowestFree used (used.length + n) 0 (n - m.length)

/-- A share as the record's staged subindices give it (R337). -/
def stagedCounts (s : State) (n : Nat) : Counts where
  queues := cfgN s (0x3000 + n) 2
  vectors := cfgN s (0x3000 + n) 3
  keySlots := cfgN s (0x3000 + n) 4
  channels := cfgN s (0x3000 + n) 5
  domains := cfgN s (0x3000 + n) 6
  regions := cfgN s (0x3000 + n) 7
  namespaces := cfgN s (0x3000 + n) 8
  minima := (List.range 4).map (cfgAt s (0x3000 + n) 9 4)

/-- A share of a free polder: nothing is drawn from a pool. -/
def Counts.zero : Counts := { Counts.none with vectors := 0 }

def noMinima (c : Counts) : Bool := c.minima.all (fun m => decide (m = 0))

/-- Do the pools, the host owners and R246 allow a polder that holds `old` to hold `new` (R340, R344)? -/
def shareFits (s : State) (owned : Bool) (old new : Counts) : Bool :=
  (List.range 7).all (fun k => decide (poolUsed s k - old.list.getD k 0 + new.list.getD k 0 ≤ poolSize k))
  && (owned || decide (new.queues = 0) || (freeOwner s).isSome)
  && (List.range 4).all (fun d =>
    decide (minimaSum s d - old.minima.getD d 0 + new.minima.getD d 0 ≤ minimaCap (cfgN s 0x2B00 1)
      ∨ new.minima.getD d 0 ≤ old.minima.getD d 0))

/-! ### The polder area (R341 to R343) -/

/-- Writes a copy under the A/B rules; one that does not read back is not valid. -/
def putArea (n : Nat) (r : PolderRec) (flash : Bool) (s : State) : State :=
  let k := otherCopy (s.boot.areaCopies n) (·.valid) (·.counter)
  modBoot (fun b => { b with
    area := Tab.set PolderRec.erased b.area (2 * n + k.1) (if flash then r.seal k.2 else PolderRec.erased) }) s

/-- Writes a polder's committed record, with the state given (R342). -/
def savePolder (n st : Nat) (flash : Bool) (s : State) : State :=
  let p := s.polder n
  putArea n { PolderRec.erased with
    state := st, gen := p.gen, counts := p.counts, weight := cfgN s (0x3000 + n) 0xA
    access := cfgN s (0x3000 + n) 0xB, cls := cfgN s (0x3000 + n) 0xC } flash s

/-- Writes the area header: the copy that does not hold the higher valid counter (R343). -/
def writeAreaHdr (floor : Nat) (ident : Bytes) (s : State) : State :=
  let k := otherCopy s.boot.areaHdr (·.valid) (·.counter)
  modBoot (fun b => { b with areaHdr := b.areaHdr.set k.1 (AreaHdr.make k.2 floor ident) }) s

/-- The generation floor rises to a Generation that is higher (R343). -/
def raiseFloor (g : Nat) (s : State) : State :=
  if s.boot.areaFloor < g then writeAreaHdr g s.boot.areaId s else s

/-! ### Shares are taken and given back -/

/-- A polder takes a share, its mapping and, with queues, a host owner (R339, R347, 07 R243). -/
def takeShare (n : Nat) (c : Counts) (s : State) : State :=
  let p := s.polder n
  let maps := (List.range 7).map (fun k => fitMap s k (c.list.getD k 0) (p.maps.getD k []))
  let owner := if c.queues = 0 then none else match p.owner with
    | some o => some o
    | none => (freeOwner s).map ownerHost
  let s1 := match p.owner, owner with
    | none, some o => modBuf (fun b => { b with owners := Tab.set 0 b.owners (o - 0x202) (n + 1) }) s
    | some o, none => modBuf (fun b => { b with owners := Tab.set 0 b.owners (o - 0x202) 5000 }) s
    | _, _ => s
  lowCheckAll (s1.setPolder n { p with counts := c, maps := maps, owner := owner, staged := 0 })

/-- The Dike logs a change of a polder: at the HD, and at the field dies for the minima (15 R530). -/
def logPolder (o : Origin) (n : Nat) (fields : Bool) (s : State) : State :=
  let s1 := dikeLog o 6 7 n s
  if fields then dikeLogFields o 7 n s1 else s1

/-- A polder is committed with a share. -/
def installPolder (n : Nat) (c : Counts) (s : State) : State :=
  let s1 := takeShare n c s
  s1.setPolder n { s1.polder n with state := 1 }

def polderIdx (k idx sub : Nat) : Bool := decide (0x3000 ≤ idx ∧ idx ≤ 0x3FFF ∧ sub = k)

/-- Commit, Adjust and Remove wait for no FLR: they are refused with BUSY (R356). -/
def flrBusy (s : State) (n : Nat) : List Nat := abortIf ((s.func n).flr) aBUSY

/-! ### Commit (R340, R347) -/

/-- The first of several refusals that are looked at in an order of their own. -/
def firstOf : List (List Nat) → List Nat
  | [] => []
  | [] :: rest => firstOf rest
  | (a :: _) :: _ => [a]

/-- The refusals of Commit: the range of R347 first, then those of R340 in their order. -/
def commitAborts (s : State) (flash : Bool) (n : Nat) : List Nat :=
  let p := s.polder n
  let c := stagedCounts s n
  firstOf [abortIf (decide (c.queues = 0) && !noMinima c) aRANGE,
    abortIf (!(decide (p.state = 0 ∨ p.state = 3))) aSTATE, flrBusy s n,
    abortIf (decide (0xFFFFFFFF ≤ p.gen) || !shareFits s false Counts.zero c) aRESOURCE,
    abortIf (!flash) aPERSIST_FAIL]

def commitPolder (o : Origin) (n : Nat) (s : State) : State :=
  let s1 := installPolder n (stagedCounts s n) s
  let g := (s1.polder n).gen + 1
  let s2 := s1.setPolder n { s1.polder n with gen := g }
  logPolder o n (!noMinima (stagedCounts s n)) (raiseFloor g (savePolder n 1 true s2))

def commitReq : Handler :=
  action (fun q s => commitAborts s q.flash (q.msg.index - 0x3000))
    (fun q s => (commitPolder q.origin (q.msg.index - 0x3000) s, .done))

/-- COMMIT. -/
def execCommit (r : Rq) (s : State) : Host.Outcome State Fault Refusal :=
  .next (fdpServe (actMine (polderIdx 0x10)) commitReq (fun _ st => st) r s)

/-! ### Adjust (R344, R347) -/

/-- The counts an Adjust gives: only written subindices change. -/
def adjustedCounts (s : State) (n : Nat) : Counts :=
  let p := s.polder n
  let c := p.counts
  let x := stagedCounts s n
  let pick := fun (k old new : Nat) => if p.staged.testBit k then new else old
  { queues := pick 2 c.queues x.queues, vectors := pick 3 c.vectors x.vectors, keySlots := pick 4 c.keySlots x.keySlots
    channels := pick 5 c.channels x.channels, domains := pick 6 c.domains x.domains, regions := pick 7 c.regions x.regions
    namespaces := pick 8 c.namespaces x.namespaces, minima := if p.staged.testBit 9 then x.minima else c.minima }

/-- Local numbers that a lowering removes. -/
def lowered (old new : Nat) : List Nat := (List.range (old - new)).map (fun i => new + i)

/-- Is a queue in use (R344)? -/
def queueInUse (s : State) (n q : Nat) : Bool :=
  decide ((s.queue n q).st ≠ .disabled)
  || s.polders.groups.any (fun e => decide (e.2.polder = n ∧ e.2.first ≤ q ∧ q < e.2.first + e.2.count))

/-- Does a channel or region of the polder name a protection domain? -/
def domainInUse (s : State) (n d : Nat) : Bool :=
  s.siphon.channels.any (fun e => decide (e.2.fn = n ∧ e.2.state ≠ 0 ∧ chDomain e.2 = d))
  || s.siphon.regions.any (fun e => (e.2.valid || e.2.revoking) && decide (e.2.fn = n ∧ e.2.domain = d))

/-- A resource that a lowering removes is in use (R344). -/
def loweredInUse (s : State) (n : Nat) (c : Counts) : Bool :=
  let o := (s.polder n).counts
  let glob := fun (k i : Nat) (f : Nat → Bool) => match globalOf s n k i with
    | some g => f g
    | none => false
  (lowered o.queues c.queues).any (queueInUse s n)
  || (lowered o.keySlots c.keySlots).any (fun i => glob 2 i (fun g => !slotEmpty s g))
  || (lowered o.channels c.channels).any (fun i => glob 3 i (fun g => decide ((s.channel g).state ≠ 0)))
  || (lowered o.domains c.domains).any (domainInUse s n)
  || (lowered o.regions c.regions).any (fun i => glob 5 i (fun g => (s.region g).valid || (s.region g).revoking))
  || (lowered o.namespaces c.namespaces).any (fun i => s.jrn.spaces.any (fun e => decide (e.2.attach = some (n, i))))

/-- The refusals of Adjust: those of R344 with the checks of R340 in their order. -/
def adjustAborts (s : State) (flash : Bool) (n : Nat) : List Nat :=
  let p := s.polder n
  let c := adjustedCounts s n
  firstOf [abortIf (decide (p.state ≠ 1) || decide (c.vectors ≠ p.counts.vectors) || loweredInUse s n c
      || (decide (c.queues = 0) && !noMinima c)) aSTATE,
    flrBusy s n, abortIf (decide (0xFFFFFFFF ≤ p.gen)) aRESOURCE,
    abortIf (!shareFits s p.owner.isSome p.counts c) aRESOURCE, abortIf (!flash) aPERSIST_FAIL]

def adjustPolder (o : Origin) (n : Nat) (s : State) : State :=
  let c := adjustedCounts s n
  let old := (s.polder n).counts
  let gone := lowered old.queues c.queues
  let s1 := { s with wq := { s.wq with queues := s.wq.queues.filter (fun e =>
    !(decide (e.1 / 1024 = n) && gone.contains (e.1 % 1024))) } }
  logPolder o n (decide (c.minima ≠ old.minima)) (savePolder n 1 true (takeShare n c s1))

def adjustReq : Handler :=
  action (fun q s => adjustAborts s q.flash (q.msg.index - 0x3000))
    (fun q s => (adjustPolder q.origin (q.msg.index - 0x3000) s, .done))

/-- ADJUST. -/
def execAdjust (r : Rq) (s : State) : Host.Outcome State Fault Refusal :=
  .next (fdpServe (actMine (polderIdx 0x11)) adjustReq (fun _ st => st) r s)

/-! ### Remove (R351) -/

/-- Every host queue group that names a polder becomes invalid (R348). -/
def dropGroups (n : Nat) (s : State) : State :=
  modPolders (fun x => { x with groups := x.groups.filter (fun e => decide (e.2.polder ≠ n ∨ e.2.count = 0)) }) s

def removeAborts (s : State) (n : Nat) : List Nat :=
  abortIf (decide (n = 0) || decide ((s.polder n).state ≠ 1)) aSTATE ++ flrBusy s n

/-- Remove is accepted: the polder is removing, and its work ends. -/
def removePolder (o : Origin) (flash : Bool) (n : Nat) (s : State) : State :=
  let s1 := logPolder o n true (savePolder n 0 flash (s.setPolder n { s.polder n with state := 2 }))
  dropGroups n (endWork s1.clock n s1)

/-- REMOVE. -/
def execRemove (r : Rq) (s : State) : Host.Outcome State Fault Refusal :=
  .next (serveAction (polderIdx 0x12)
    (fun q s => removeAborts s (q.msg.index - 0x3000))
    (fun q s => (removePolder q.origin q.flash (q.msg.index - 0x3000) s, .done)) r s)

/-- POLDER_REMOVE_COMPLETE: queues in their reset state, key slots cleared, channels, domains and regions returned,
namespaces detached, minima 0, counts returned. -/
def polderRemoved (n : Nat) (s : State) : State :=
  let p := s.polder n
  if p.state ≠ 2 then s
  else
    let s1 := forEach (p.maps.getD 3 []) (fun g st => (channelReset g none st).setChannel g Channel.reset) s
    let s2 := forEach (p.maps.getD 5 []) (fun g st => st.setRegion g { Region.reset with epoch := (st.region g).epoch }) s1
    let s3 := forEach (p.maps.getD 2 []) clearSlot s2
    let s3 := { s3 with wq := { s3.wq with queues := s3.wq.queues.filter (fun e => decide (e.1 / 1024 ≠ n)) } }
    let s4 := modJrn (fun j => { j with spaces := j.spaces.map (fun e => match e.2.attach with
      | some a => if a.1 = n then (e.1, { e.2 with attach := none }) else e
      | none => e) }) s3
    let s5 := takeShare n Counts.zero s4
    raise 262 (s5.setPolder n { s5.polder n with state := 0, counts := Counts.none })

def execPolderRemoveComplete (t polder : Nat) (s : State) : Host.Outcome State Fault Refusal :=
  .next (polderRemoved polder (advance t s))

/-! ### Faults, groups (R348, R350, R354) -/

/-- POLDER_FAULT_CLEAR. -/
def execPolderFaultClear (r : Rq) (s : State) : Host.Outcome State Fault Refusal :=
  .next (serveAction (at0 0x4082 0)
    (fun q _ => abortIf (decide (4095 < beNat q.msg.data) && decide (beNat q.msg.data ≠ 0xFFFF)) aRANGE)
    (fun q s =>
      let n := beNat q.msg.data
      (modPolders (fun x => { x with
        faultMap := if n = 0xFFFF then [] else Tab.set false x.faultMap n false }) s, .done)) r s)

def groupAborts (s : State) (d : Bytes) : List Nat :=
  let g := beField d 0 2
  let n := beField d 2 2
  let first := beField d 4 2
  let cnt := beField d 6 2
  abortIf (decide (n ≤ 4095) && decide ((s.polder n).state ≠ 1)) aSTATE
  ++ abortIf (decide (4095 < g) || decide (4095 < n) || decide (1024 < cnt) || decide ((s.polder n).counts.queues < first + cnt)) aRANGE

/-- HOST_GROUP_WRITE. -/
def execHostGroupWrite (r : Rq) (s : State) : Host.Outcome State Fault Refusal :=
  .next (serveAction (at0 0x4083 0)
    (fun q s => groupAborts s q.msg.data)
    (fun q s =>
      let d := q.msg.data
      let x : HostGroup := { polder := beField d 2 2, first := beField d 4 2, count := beField d 6 2 }
      let s1 := modPolders (fun y => { y with groups := Tab.set HostGroup.none y.groups (beField d 0 2) x }) s
      (dikeLog q.origin 6 8 (beField d 0 2) (dikeLogFields q.origin 8 (beField d 0 2) s1), .done)) r s)

/-- HOST_GROUP_READ. -/
def execHostGroupRead (r : Rq) (s : State) : Host.Outcome State Fault Refusal :=
  .next (serveAction (at0 0x4084 0)
    (fun q _ => abortIf (4095 < beNat q.msg.data) aRANGE)
    (fun q s =>
      let g := beNat q.msg.data
      let x := Tab.get HostGroup.none s.polders.groups g
      (s, .ok 0 0 9 (beBytes 2 g ++ beBytes 2 x.polder ++ beBytes 2 x.first ++ beBytes 2 x.count))) r s)

/-- The committed record as CommittedRecord reads (Table 10.3). -/
def committedRecord (s : State) (n : Nat) : Bytes :=
  if !polderLive s n then zeros 36
  else
    let c := (s.polder n).counts
    beBytes 2 c.queues ++ beBytes 2 c.vectors ++ beBytes 2 c.keySlots ++ beBytes 2 c.channels ++ beBytes 2 c.domains
    ++ [0, 0] ++ beBytes 4 c.regions ++ beBytes 2 c.namespaces ++ [0, 0] ++ c.minima.flatMap (beBytes 4)

/-! ### Load at start (R343, R360) -/

/-- The staged values of a polder's record take the values stored. -/
def loadValues (n : Nat) (r : PolderRec) (s : State) : State :=
  setVal (0x3000 + n) 0xA (beBytes 2 r.weight) (setVal (0x3000 + n) 0xB (beBytes 1 r.access)
    (setVal (0x3000 + n) 0xC (beBytes 1 r.cls) s))

/-- One stored polder: committed, free, or failed. -/
def loadPolder (n : Nat) (s : State) : State :=
  let r := s.boot.areaRec n
  if !r.valid then s
  else
    let s1 := s.setPolder n { s.polder n with gen := r.gen }
    if r.state ≠ 1 then s1
    else if shareFits s1 false Counts.zero r.counts && !(decide (r.counts.queues = 0) && !noMinima r.counts) then
      logPolder { Origin.firmware with index := 0x3000 + n } n (!noMinima r.counts)
        (installPolder n r.counts (loadValues n r s1))
    else raise 263 (s1.setPolder n { s1.polder n with state := 3 })

/-- Polder 0: from its record or, when it has none or it fails, from its defaults. -/
def loadPolder0 (s : State) : State :=
  let s1 := loadPolder 0 s
  if (s1.polder 0).state = 1 then s1 else installPolder 0 Counts.polder0 s1

/-- The polder area is loaded, from no polders at all. -/
def loadPolders (s : State) : State :=
  let s0 := { s with polders := { tab := [], faultMap := [], groups := [(0, HostGroup.zero)] } }
  let s1 := modBuf (fun b => { b with owners := [] }) s0
  let s2 :=
    if s1.boot.areaValid then
      let f := s1.boot.areaFloor
      if f = 0 then s1
      else forEach ((List.range 4096).filter (fun n => !(s1.boot.areaRec n).valid))
        (fun n st => st.setPolder n { Polder.reset with gen := f }) s1
    else
      let r := drawBytes 16 s1
      writeAreaHdr ((r.2.boot.area.filter (fun e => e.2.valid)).foldl (fun m e => max m e.2.gen) 0) r.1 r.2
  forEach (((s2.boot.area.map (fun e => e.1 / 2)).dedup).filter (fun n => decide (n ≠ 0))) loadPolder (loadPolder0 s2)

end Sys2Proof.Machine
end

