-- ==== Sys2Proof/Machine/Startup.lean ====
section
/-! DEFINITION. Start-up, firmware and the Dike (spec 15), and the resets of the whole part (spec 01 R39 to
R45, 18 R580 to R586): the start sequence, image slots, measurements, activation, heartbeats. -/

namespace Sys2Proof.Machine

/-! ### Images (R515, R516, R519) -/

/-- One entry of the stage table: offset, length, target, digest. -/
structure StageEntry where
  off : Nat
  len : Nat
  target : Nat
  rsv : Bytes
  digest : Bytes
deriving DecidableEq, Repr

def stageAt (b : Bytes) (i : Nat) : StageEntry :=
  let o := 0x80 + 80 * i
  { off := beField b o 4, len := beField b (o + 4) 4, target := byteAt b (o + 8), rsv := slice b (o + 9) 7, digest := slice b (o + 16) 64 }

/-- The header of an image. -/
def parseHdr (b : Bytes) : ImgHdr where
  secVersion := beField b 0xC 4
  version := slice b 0x10 8
  injRate := beField b 0x20 2
  injFrames := beField b 0x22 2
  heartbeat := beField b 0x24 2
  misr := (List.range 8).map (fun i => beField b (0x40 + 8 * i) 8)
  digest := Config.shake256 64 (b.take 4096)
  stages := (List.range (beField b 6 2)).map (fun i => ((stageAt b i).target, (stageAt b i).digest))
  certs := match ((List.range (beField b 6 2)).map (stageAt b)).find? (fun x => decide (x.target = 5)) with
    | some x => slice b x.off x.len
    | none => []

/-- Check 1 of Table 15.4. -/
def imageShape (b : Bytes) : Bool :=
  let n := beField b 6 2
  let len := beField b 8 4
  let st := (List.range n).map (stageAt b)
  decide (4096 ≤ b.length) && decide (beField b 0 4 = 0x414B5849) && decide (beField b 4 2 = 1) && decide (1 ≤ n ∧ n ≤ 8)
  && decide (4096 ≤ len ∧ len ≤ 16777216 ∧ len ≤ b.length)
  && decide (slice b 0x19 7 = zeros 7) && decide (slice b 0x26 26 = zeros 26) && decide (slice b 0xA01 255 = zeros 255)
  && st.all (fun x => decide (x.rsv = zeros 7) && decide (x.off + x.len ≤ len))
  && decide (slice b (0x80 + 80 * n) (640 - 80 * n) = zeros (640 - 80 * n))

/-- Check 6: every digest is right, and each target from 1 to 5 is there once. -/
def imageStages (b : Bytes) : Bool :=
  let st := (List.range (beField b 6 2)).map (stageAt b)
  st.all (fun x => decide (Config.shake256 64 (slice b x.off x.len) = x.digest) && decide (1 ≤ x.target ∧ x.target ≤ 5))
  && [1, 2, 3, 4, 5].all (fun k => decide ((st.filter (fun x => decide (x.target = k))).length = 1))

/-- Check 7. -/
def limitsOk (h : ImgHdr) : Bool :=
  decide (1 ≤ h.injRate ∧ h.injRate ≤ 20) && decide (1 ≤ h.injFrames ∧ h.injFrames ≤ 8192)
  && decide (10 ≤ h.heartbeat ∧ h.heartbeat ≤ 50)

/-- The first check of Table 15.4 that fails, apart from the rollback check; 0 when none does. -/
def imageOther (b : Bytes) : Nat :=
  let key := slice b 0x300 1793
  if !imageShape b then 1
  else if Config.shake256 64 key ≠ Config.fusedKeyDigest then 2
  else if !Config.falconVerify key (b.take 0xB00) (slice b 0xB00 1280) then 3
  else if byteAt b 0x18 ≠ 0xB0 ∧ byteAt b 0x18 ≠ 0xFF then 4
  else if !imageStages b then 6
  else if !limitsOk (parseHdr b) then 7
  else 0

/-- A slot that an image has just been written to. -/
def slotOfImage (b : Bytes) : Slot := { state := 2, other := imageOther b, hdr := parseHdr b }

/-- SlotReason (Table 15.4), with the rollback check in its place. -/
def slotReason (rollback : Nat) (x : Slot) : Nat :=
  if x.other ≠ 0 ∧ x.other < 5 then x.other
  else if x.hdr.secVersion < rollback ∨ 64 < x.hdr.secVersion then 5
  else x.other

/-- SlotState (Table 15.12). -/
def slotState (rollback : Nat) (x : Slot) : Nat :=
  if x.state = 0 then 0 else if x.state = 1 then 1 else if slotReason rollback x = 0 then 2 else 3

def slotNo (s : State) (i : Nat) : Slot := s.boot.slots.getD i Slot.erased
def slotValid (s : State) (i : Nat) : Bool := decide (slotState s.boot.rollback (slotNo s i) = 2)
def setSlot (i : Nat) (x : Slot) (s : State) : State := modBoot (fun b => { b with slots := b.slots.set i x }) s

/-- The slot of the boot control block (R514). -/
def bcbSlot (l : List BcbCopy) : Nat :=
  match l.filter (·.valid) with
  | [] => 0
  | c :: rest => (rest.foldl (fun best x => if best.counter < x.counter then x else best) c).slot

/-- The copy that does not hold the higher valid counter is written with the next one (R514); a copy that was not
written whole is not valid (R537). -/
def writeBcb (slot : Nat) (flash : Bool) (s : State) : State :=
  let r := otherCopy s.boot.bcb (·.valid) (·.counter)
  modBoot (fun b => { b with bcb := b.bcb.set r.1 (if flash then BcbCopy.make r.2 slot else BcbCopy.erased) }) s

/-- A slot is read and checked again: the first check of Table 15.4 that fails now, 0 where it reads as before. -/
def recheckSlot (i reason : Nat) (s : State) : State :=
  if reason = 0 then s else setSlot i { slotNo s i with state := 2, other := reason } s

/-! ### Measurements (R524) -/

def appendLog (kind seq : Nat) (digest : Bytes) (s : State) : State :=
  modBoot (fun b => if b.log.length < 48 then { b with log := b.log ++ [{ kind := kind, seq := seq, digest := digest }] }
    else { b with logOverflow := true }) s

/-- IMAGE_HEADER and one IMAGE_STAGE per stage. -/
def logImage (h : ImgHdr) (s : State) : State :=
  forEach h.stages.zipIdx (fun e st => appendLog 4 e.2 e.1.2 st) (appendLog 3 0 h.digest s)

/-- SELF_TEST: the digest of the eight latest signatures (17 R560). -/
def logSelfTest (s : State) : State :=
  appendLog 7 0 (Config.shake256 64 ((List.range 8).flatMap (fun d => beBytes 8 (Tab.get 0 s.test.sig d)))) s

/-- The valid polder copies, in polder order: the bytes that kind 6 measures. -/
def areaBytes (b : Boot) : Bytes :=
  (b.area.filter (fun e => e.2.valid)).flatMap (fun e => e.2.bytes)

/-! ### Self-test results (17 R559, R560) -/

/-- A die's test has ended with a signature. -/
def testResult (die sig : Nat) (s : State) : State :=
  let ok := decide (sig % 2 ^ 64 = s.boot.running.misr.getD die 0)
  let s1 := raise 352 (modTest (fun x => { x with
    sig := Tab.set 0 x.sig die (sig % 2 ^ 64)
    result := Tab.set 0 x.result die (if ok then 1 else 2)
    runs := satAdd64 x.runs 1 }) s)
  if ok then s1 else raise 353 s1

/-- Results that a full reset leaves: a test it breaks off is abandoned (17 R569), until the die is tested again. -/
def abandonedTests (s : State) : Tab Nat :=
  (List.range 8).foldl (fun m d =>
    if (s.boot.started && decide (Tab.get 0 s.test.die d = 1)) || (!s.boot.started && decide (Tab.get 0 s.test.result d = 3)) then
      Tab.set 0 m d 3
    else m) []

/-! ### The part held in reset -/

/-- What a reset of the whole part leaves: the fuses, the boot flash, the balls and sensors, what has left
the part; every other state returns to its start-up value (01 R39). `slots` keeps whether cartridges are
seated. -/
def deviceReset (s : State) : State :=
  let b := s.boot
  { State.reset with
    pending := s.pending
    clock := s.clock
    freeCtr := s.freeCtr
    nextId := s.nextId
    out := s.out
    board := s.board
    test := { SelfTest.reset with result := abandonedTests s }
    boot := { Boot.reset with
      slots := b.slots.map (fun x => if x.state = 1 then { x with state := 2, other := 1 } else x)
      bcb := b.bcb, store := b.store, epochRec := b.epochRec
      asideKeys := b.asideKeys, area := b.area, areaHdr := b.areaHdr
      rollback := b.rollback }
    jrn := { Journal.reset with
      slots := Tab.set CartSlot.reset (Tab.set CartSlot.reset [] 0 (cartAgain s 0)) 1 (cartAgain s 1) } }

/-! ### Load of the stores (02 R56, R57, R78, R80) -/

/-- The valid copy with the higher counter. -/
def loadedStore (l : List StoreCopy) : Option StoreCopy := bestCopy l (·.valid) (·.counter)

/-- The object store is loaded and measured (R524 kind 5). -/
def loadStore (s : State) : State :=
  match loadedStore s.boot.store with
  | some c => appendLog 5 0 (Config.shake256 64 c.bytes) (modDict (fun d => { d with vals := c.vals }) s)
  | none => appendLog 5 0 (Config.shake256 64 []) (raise 0 s)

/-- Does one epoch copy come before another? -/
def epochLess (a b : EpochCopy) : Bool := decide (a.wraps < b.wraps ∨ (a.wraps = b.wraps ∧ a.epoch < b.epoch))

/-- Every stored session key is set aside (02 R80). -/
def setKeysAside (s : State) : State :=
  let keys := ((List.range 64).map (fun i => (i + 1, cfg s (0x1150 + i) 3))).filter (fun e => decide (e.2 ≠ zeros 56))
  modBoot (fun b => { b with asideKeys := b.asideKeys ++ keys.filter (fun e => !b.asideKeys.contains e) }) s

/-- The epoch record in force (02 R80). -/
def bestEpoch (l : List EpochCopy) : Option EpochCopy :=
  (l.filter (·.valid)).foldl (fun (m : Option EpochCopy) x => match m with
    | none => some x
    | some y => if epochLess y x then some x else some y) none

/-- The epoch after one, with the count of wraps; 1 where no copy is valid. -/
def nextEpoch (l : List EpochCopy) : Nat × Nat :=
  match bestEpoch l with
  | none => (1, 0)
  | some y => if 0xFFFFFFFF ≤ y.epoch then (1, (y.wraps + 1) % 2 ^ 32) else (y.epoch + 1, y.wraps)

/-- StartEpoch increases, and the other copy is written (02 R78, R80). A copy that does not read back is not
valid: network FDP then stays closed, and the object-store event is raised. -/
def loadEpoch (flash : Bool) (s : State) : State :=
  let l := s.boot.epochRec
  let next := nextEpoch l
  let place := match l with
    | [a, b] => if a.valid && (!b.valid || !epochLess a b) then 1 else 0
    | _ => 0
  let copy := if flash then EpochCopy.make next.1 next.2 else EpochCopy.erased
  let s1 := modBoot (fun b => { b with epochRec := b.epochRec.set place copy }) s
  let s2 := modDict (fun d => { d with epoch := next.1, wraps := next.2, epochStored := flash }) s1
  let s3 := if flash then s2 else raise 1 s2
  if next.1 = 1 then setKeysAside s3 else s3

/-- Sessions start in the state their stored objects give (02 R91). -/
def loadSessions (s : State) : State :=
  forEach (List.range 64) (fun i st =>
    let n := i + 1
    let b := cfg st (0x1150 + i) 3
    if b = zeros 56 then st
    else if st.boot.asideKeys.contains (n, b) then st.setSession n { st.session n with setAside := true }
    else loadSessionKey n b st) s

/-! ### The start sequence (R517, R518, R520, R521) -/

/-- The start-up test of every die, when SelfTestAtStart is stored as 1 (17 R561). A signature that the
command did not give is free. -/
def startTest (sigs : List Nat) (s : State) : State :=
  if cfgN s 0x1500 1 ≠ 1 then s
  else
    let one := fun (d : Nat) (st : State) => match sigs[d]? with
      | some x => testResult d x st
      | none => let r := drawNat st; testResult d r.1 r.2
    logSelfTest (forEach (List.range 8) one (modBoot (fun b => { b with testedAtStart := true }) s))

/-- The start sequence after an image is selected. -/
def startFrom (t slot : Nat) (flash : Bool) (s : State) : State :=
  let h := (slotNo s slot).hdr
  let s1 := modBoot (fun b => { b with
    slot := slot, running := h, datapath := h, coresUp := true, hbAt := t }) s
  let s2 := loadEpoch flash (loadStore (logImage h s1))
  let s3 := appendLog 6 0 (Config.shake256 64 (areaBytes s2.boot)) (loadPolders s2)
  let s4 := loadSessions s3
  startTest s.board.sigs (modBuf (fun b => { b with overflowMiB := cfgN s4 0x2B00 5 }) s4)

/-- The start of a cold start or full reset: PERST_N is released, power is on, no drain runs. -/
def deviceStart (t : Nat) (flash : Bool) (s : State) : State :=
  if s.board.perstLow ∨ !s.board.released ∨ s.board.drainWait ∨ s.boot.started then s
  else
    let s0 := modBoard (fun b => { b with fullReset := false, startAt := some t }) (deviceReset s)
    let s1 := appendLog 2 0 (Config.fuseDigest s.boot.rollback) (appendLog 1 0 Config.romDigest
      (modEp (fun e => { e with link := 1 }) (modTables (fun x => { x with learnZero := t })
        (modBoot (fun b => { b with started := true }) s0))))
    let a := bcbSlot s1.boot.bcb
    if slotValid s1 a then startFrom t a flash s1
    else if slotValid s1 (1 - a) then
      raise 5 (startFrom t (1 - a) flash (modBoot (fun b => { b with bootStatus := 1 }) s1))
    else modBoot (fun b => { b with bootStatus := 2 }) s1

/-- OSPI_RESET_N is low for the first 10 µs of every cold start and full reset (18 R595). -/
def ospiResetLow (s : State) : Bool := s.board.startAt.any (fun t => decide (s.clock < t + 10 ^ 10))

/-- COLD_START (R520): every rail is in tolerance and REFCLK is stable; the start waits for PERST_N. -/
def coldStart (t : Nat) (sigs : List Nat) (flash : Bool) (s : State) : State :=
  if s.board.released then s
  else
    deviceStart t flash (modBoard (fun b => { b with
      rails := 0xFF, refclk := true, released := true, sigs := sigs, fullReset := false, drainWait := false
      jtempMax := none, sampled := false, warnArmed := true, throttleArmed := true, criticalArmed := true, throttled := false }) s)

def execColdStart (t : Nat) (w : PowerOn) (s : State) : Host.Outcome State Fault Refusal :=
  .next (coldStart t w.sigs w.flash (advance t s))

/-- DDR4_TRAINING_DONE (R521): the MD's journal area is reserved. -/
def ddr4TrainingDone (md : Nat) (s : State) : State :=
  if s.boot.started ∧ s.boot.bootStatus ≠ 2 ∧ md < 2 then
    modBoot (fun b => { b with ddrTrained := b.ddrTrained.set md true }) s
  else s

def execDdr4TrainingDone (t md : Nat) (s : State) : Host.Outcome State Fault Refusal :=
  .next (ddr4TrainingDone md (advance t s))

/-- PF0_READY (R335): PF0 leaves RRS. -/
def pf0Ready (s : State) : State :=
  if s.boot.started ∧ s.ep.link ≠ 3 then s.setFunc 0 { s.func 0 with rrs := false } else s

def execPf0Ready (t : Nat) (s : State) : Host.Outcome State Fault Refusal := .next (pf0Ready (advance t s))

/-- What a write of an object crosses to, for the Dike's log: dies, class and target (R530, R532; log entry
55). -/
def dikeOfObject (idx sub : Nat) : Option (List Nat × Nat × Nat) :=
  let all := [0, 1, 2, 3]
  if 0x1101 ≤ idx ∧ idx ≤ 0x1107 then some (all, 1, 0)
  else if 0x2000 ≤ idx ∧ idx < 0x2200 then some ([dieOf (idx - 0x2000)], 6, idx - 0x2000)
  else if 0x2200 ≤ idx ∧ idx < 0x2400 then some ([dieOf (idx - 0x2200)], 6, idx - 0x2200)
  else if 0x2400 ≤ idx ∧ idx < 0x2600 then some ([dieOf (idx - 0x2400)], 5, idx - 0x2400)
  else if 0x2600 ≤ idx ∧ idx < 0x2800 then some (all, 4, 0)
  else if 0x2800 ≤ idx ∧ idx < 0x2900 then some (all, 1, 0)
  else if 0x2900 ≤ idx ∧ idx < 0x2A00 then some (all, 2, 0)
  else if 0x2A00 ≤ idx ∧ idx < 0x2B00 then some (all, 3, 0)
  else if 0x2B00 ≤ idx ∧ idx < 0x2C00 then some (all, 6, 0)
  else if idx = 0x4200 ∧ sub ≤ 2 then some (all, 1, 0)
  else none

/-- Logs a write of an object that crosses to a field die. -/
def logObject (o : Origin) (s : State) : State :=
  match dikeOfObject o.index o.sub with
  | none => s
  | some (dies, cls, target) => forEach dies (fun d st => dikeLog o d cls target st) s

/-- FIELD_IN_SERVICE (R521, 02 R91, 03 R135, 08 Table 8.9): the stored configuration reaches the field dies,
network FDP opens, stored Sluice lists start and port bring-up begins. -/
def fieldInService (s : State) : State :=
  if !s.boot.started ∨ s.boot.bootStatus = 2 ∨ s.boot.fieldUp ∨ s.boot.ddrTrained ≠ [true, true] then s
  else
    let s1 := forEach s.dict.vals (fun e st =>
      logObject { Origin.firmware with index := e.1 / 256, sub := e.1 % 256 } st) s
    let s2 := modDict (fun d => { d with fdpOpen := d.epochStored }) (modBoot (fun b => { b with fieldUp := true }) s1)
    let ports := portsAll.filter (portExists s2)
    lowCheckAll (forEach ports (fun p st => portAdminChanged p (gatesAtStart p st)) s2)

def execFieldInService (t : Nat) (s : State) : Host.Outcome State Fault Refusal :=
  .next (fieldInService (advance t s))

/-- Is every seated cartridge online or refused, on a memory die that serves (14 R512)? -/
def cartsSettled (s : State) : Bool :=
  [0, 1].all (fun i => !(s.cart i).present || !dieServes s (4 + i) || decide ((s.cart i).state ≠ 0 ∧ (s.cart i).state ≠ 1))

/-- ALL_READY (14 R512). -/
def allReady (s : State) : State :=
  if !s.boot.fieldUp ∨ s.boot.journalSet ∨ !cartsSettled s then s
  else
    let s1 := modBoot (fun b => { b with journalSet := true }) s
    if s1.jrn.state ≠ 0 then s1
    else
      let s2 := modJrn (fun j => { j with state := if j.held then 2 else 1 }) s1
      if s2.jrn.held then s2 else journalRelease none s2

def execAllReady (t : Nat) (s : State) : Host.Outcome State Fault Refusal := .next (allReady (advance t s))

/-! ### PERST_N (R586, 01 R39 to R45, 09 R316, R319) -/

/-- Does the write cache hold data? -/
def cacheDirty (s : State) : Bool := decide ((s.cart 0).dirty ≠ []) || decide ((s.cart 1).dirty ≠ [])

/-- A full reset begins: the journal drains first if it holds data (01 R40); nobody is answered any more. -/
def fullResetBegin (s : State) : State :=
  let keep := cacheDirty s
  let j := (journalDetach (fun _ => true) s).jrn
  let s1 := modBoard (fun b => { b with fullReset := true, drainWait := keep }) (deviceReset s)
  if keep then { s1 with jrn := { j with state := 0, held := false, units := j.units.filter (fun u =>
    j.slots.any (fun e => e.2.dirty.contains u)) } } else s1

/-- A full reset begins at once, or when the emergency drain that runs has ended (18 R600). -/
def fullResetAsk (s : State) : State :=
  if s.jrn.state = 3 then modBoard (fun b => { b with resetDue := true }) s else fullResetBegin s

/-- PERST_N_ASSERT (R586, 01 R42, R45, 09 R320). -/
def perstNAssert (t : Nat) (s : State) : State :=
  if s.board.perstLow then s
  else
    let keep := decide (cfgN s 0x4000 1 = 1)
    let s1 := modBoard (fun b => { b with perstLow := true, perstAt := t, retention := keep }) s
    if !s.boot.started then s1
    else if !keep || !s.boot.fieldUp then fullResetAsk s1
    else
      linkLost (modEp (fun e => { e with reads := [], quarantine := [] })
        (hostSideEnd t (modEp (fun e => { e with link := 3, inta := false }) s1)))

def execPerstNAssert (t : Nat) (s : State) : Host.Outcome State Fault Refusal :=
  .next (perstNAssert t (advance t s))

/-- FULL_RESET_MARK (01 R41): 1 s of assertion with FieldRetention 1. -/
def fullResetMark (t : Nat) (s : State) : State :=
  if s.board.perstLow ∧ s.board.retention ∧ s.boot.started ∧ s.board.perstAt + 10 ^ 15 ≤ t then fullResetAsk s else s

def execFullResetMark (t : Nat) (s : State) : Host.Outcome State Fault Refusal :=
  .next (fullResetMark t (advance t s))

/-- PERST_N_RELEASE (09 R316, R520; past the 1 s of R41 it ends a full reset): the host side trains again, or the
start sequence begins. -/
def perstNRelease (t : Nat) (flash : Bool) (s : State) : State :=
  if !s.board.perstLow then s
  else
    let s1 := modBoard (fun b => { b with perstLow := false }) (fullResetMark t s)
    if s1.board.resetDue then s1
    else if s1.boot.started then modEp (fun e => { e with link := 1 }) s1 else deviceStart t flash s1

def execPerstNRelease (w : FlashAt) (s : State) : Host.Outcome State Fault Refusal :=
  .next (perstNRelease w.t w.flash (advance w.t s))

/-- WRITE_CACHE_DRAIN_END (01 R40). -/
def writeCacheDrainEnd (t : Nat) (sigs : List Nat) (flash : Bool) (s : State) : State :=
  if !s.board.drainWait then s
  else
    let s1 := flushDone (drainAll 1 (drainAll 0 s))
    deviceStart t flash (modBoard (fun b => { b with drainWait := false, sigs := sigs }) (deviceReset s1))

def execWriteCacheDrainEnd (t : Nat) (w : PowerOn) (s : State) : Host.Outcome State Fault Refusal :=
  .next (writeCacheDrainEnd t w.sigs w.flash (advance t s))

/-- EMERGENCY_DRAIN_DONE (14 R492); a full reset that waited for it then begins (18 R600). -/
def emergencyDrainDone (t : Nat) (flash : Bool) (s : State) : State :=
  if s.jrn.state ≠ 3 then s
  else
    let s1 := emergencyDrained s
    if s1.board.resetDue then deviceStart t flash (fullResetBegin (modBoard (fun b => { b with resetDue := false }) s1)) else s1

def execEmergencyDrainDone (w : FlashAt) (s : State) : Host.Outcome State Fault Refusal :=
  .next (emergencyDrainDone w.t w.flash (advance w.t s))

/-! ### Power and clock faults (18 R581, R583) -/

/-- Every die is held in reset until a cold start; units not drained are lost. THERMTRIP_N is released when
VDD_AUX goes (18 R593). -/
def powerLost (s : State) : State :=
  modTest (fun x => { x with result := [] }) (modBoard (fun b => { b with
    released := false, fullReset := false, resetDue := false, drainWait := false
    thermtrip := b.thermtrip && b.rails.testBit 7 }) (deviceReset s))

/-- RAIL_FAULT. -/
def railFault (rail : Nat) (s : State) : State :=
  if rail < 8 then powerLost (modBoard (fun b => { b with rails := bitClear b.rails rail }) s) else s

def execRailFault (t rail : Nat) (s : State) : Host.Outcome State Fault Refusal :=
  .next (railFault rail (advance t s))

/-- REFCLK_LOSS. -/
def refclkLoss (s : State) : State := powerLost (modBoard (fun b => { b with refclk := false }) s)

def execRefclkLoss (t : Nat) (s : State) : Host.Outcome State Fault Refusal :=
  .next (refclkLoss (advance t s))

/-! ### Restarts of the management cores (02 R90, R67, R63) -/

/-- The cores stop: block transfers and subscriptions end, network requests in progress get no response,
the journal holds its queues, and MBX_STAT RESTART is 1. `sent` are messages that still go out. -/
def coresStop (sent : List OutMsg) (s : State) : State :=
  let s1 := modDict (fun d => { d with
    snaps := [], stagings := [], subs := [], outbox := sent
    acts := d.acts.map (fun p => if p.req.session = 0 then p else { p with req := { p.req with session := 65 } }) }) s
  let s2 := modBoot (fun b => { b with
    slots := b.slots.map (fun x => if x.state = 1 then { x with state := 2, other := 1 } else x) }) s1
  journalHold (ptpStops (modMbx (fun m => { m with restart := true }) s2))

/-- A Dike restart abandons a store that runs, and mailbox requests in progress are answered with BUSY
after it (02 R63, R67). -/
def dikeInterrupts (s : State) : State :=
  let mine := s.dict.acts.filter (fun p => decide (p.req.session = 0))
  let ended := fun (p : PendAct) => decide (p.act = .storeAll ∨ p.act = .restoreDefaults ∨ p.act = .interrupted)
  modDict (fun d => { d with
    busyAfter := d.busyAfter ++ mine.map (·.req)
    storeStatus := if d.storing.isSome then 2 else d.storeStatus
    storing := none
    acts := (d.acts.filter (fun p => !ended p)).map (fun p =>
      { p with req := { p.req with session := 65 } }) }) s

/-- The cores run again: held requests are answered. -/
def coresRun (t : Nat) (s : State) : State :=
  let s1 := modMbx (fun m => { m with restart := false })
    (modBoot (fun b => { b with coresUp := decide (b.bootStatus ≠ 2), hbAt := t }) s)
  let heads := s1.dict.busyAfter
  mbxHeader (forEach heads (fun h st => answer h flagAbort aBUSY 0 0 [] st) (modDict (fun d => { d with busyAfter := [] }) s1))

/-! ### Firmware activation (R527 to R529) -/

def inactiveSlot (s : State) : Nat := 1 - s.boot.slot

def activating (s : State) : Bool := decide (s.boot.actStage ≠ .idle)

/-- An activation does not begin while an earlier request is being carried out (02 R67, R92): the request
waits; a store under way refuses it (R528; log entry 110). -/
def heldOff (s : State) : Bool :=
  s.dict.acts.any (fun p => decide (p.act ≠ .storeAll ∧ p.act ≠ .restoreDefaults))

/-- FIRMWARE_ACTIVATE: the response is sent first (R528), with what else was handed to a field port by then. -/
def execFirmwareActivate (r : Rq) (s : State) : Host.Outcome State Fault Refusal :=
  let own := fun (_ : Req) (s : State) =>
    abortIf (!slotValid s (inactiveSlot s)) aSTATE
    ++ abortIf (actRunning s .storeAll || actRunning s .restoreDefaults || s.polders.tab.any (fun e => decide (e.2.state = 2))
        || activating s) aBUSY
  let go : Handler := fun _ s => (modBoot (fun b => { b with actStage := .reading, actAt := s.clock, coresUp := false }) s, .done)
  let s1 := if heldOff s then advance r.t s else serveAction (at0 0x1411 0) own go r s
  .next (if s1.boot.actStage = .reading ∧ s.boot.actStage = .idle then coresStop s1.dict.outbox s1 else s1)

/-- An activation fails: the cores restart on the previous slot (R529). -/
def activationFails (s : State) : State :=
  raise 7 (modBoot (fun b => { b with actStage := .failed, actState := 3 }) s)

/-- ACTIVATION_CHECK (R529). -/
def activationCheck (reason : Nat) (s : State) : State :=
  if s.boot.actStage ≠ .reading then s
  else
    let s1 := recheckSlot (inactiveSlot s) reason s
    if slotValid s1 (inactiveSlot s1) then modBoot (fun b => { b with actStage := .checked }) s1
    else activationFails s1

def execActivationCheck (w : CheckAt) (s : State) : Host.Outcome State Fault Refusal :=
  .next (activationCheck w.reason (advance w.t s))

/-- ACTIVATION_TIMEOUT (R529): no heartbeat within 180 ms. -/
def activationTimeout (t : Nat) (s : State) : State :=
  if (s.boot.actStage = .reading ∨ s.boot.actStage = .checked) ∧ s.boot.actAt + 180 * 10 ^ 12 ≤ t then activationFails s else s

def execActivationTimeout (t : Nat) (s : State) : Host.Outcome State Fault Refusal :=
  .next (activationTimeout t (advance t s))

/-- ACTIVATION_COMPLETE (R528): the new firmware's first heartbeat; one after 180 ms comes too late (R529). Out of
recovery the start sequence goes on from the step after image selection (R518). -/
def activationComplete (t : Nat) (flash : Bool) (s : State) : State :=
  if s.boot.actStage ≠ .checked then s
  else if s.boot.actAt + 180 * 10 ^ 12 < t then activationFails s
  else
    let n := inactiveSlot s
    let h := (slotNo s n).hdr
    let rec' := decide (s.boot.bootStatus = 2)
    let s1 := appendLog 8 0 h.digest (writeBcb n flash (modBoot (fun b => { b with
      actStage := .idle, actState := 0, activations := satAdd32 b.activations 1, dikeRun := 0, bootStatus := if rec' then 0 else b.bootStatus }) s))
    let s2 := if rec' then startFrom t n flash s1 else logImage h (modBoot (fun b => { b with slot := n, running := h }) s1)
    raise 6 (journalRelease none (coresRun t s2))

def execActivationComplete (w : FlashAt) (s : State) : Host.Outcome State Fault Refusal :=
  .next (activationComplete w.t w.flash (advance w.t s))

/-- ROLLBACK_ADVANCE (R519). -/
def execRollbackAdvance (r : Rq) (s : State) : Host.Outcome State Fault Refusal :=
  .next (serveAction (at0 0x1412 0)
    (fun _ s => abortIf (decide (s.boot.rollback = s.boot.running.secVersion) || decide (s.boot.bootStatus = 2)) aSTATE)
    (fun _ s => (modBoot (fun b => { b with rollback := b.running.secVersion }) s, .done)) r s)

/-! ### The Dike (R531 to R533) -/

/-- DIKE_LOG_CLEAR (R532). -/
def execDikeLogClear (r : Rq) (s : State) : Host.Outcome State Fault Refusal :=
  .next (serveAction (at0 0x1432 0) noAborts
    (fun _ s => (modBoot (fun b => { b with dikeLog := [], dikeOverflowed := false }) s, .done)) r s)

/-- The heartbeat period in ms: the lower of the fused ceiling and the header (R530). -/
def heartbeatMs (s : State) : Nat := min 50 s.boot.running.heartbeat

/-- HEARTBEAT (R533): one after the period is none. -/
def heartbeat (t : Nat) (s : State) : State :=
  if s.boot.coresUp ∧ s.boot.dikeState = 0 ∧ t ≤ s.boot.hbAt + heartbeatMs s * 10 ^ 12 then modBoot (fun b => { b with hbAt := t, dikeRun := 0 }) s else s

def execHeartbeat (t : Nat) (s : State) : Host.Outcome State Fault Refusal := .next (heartbeat t (advance t s))

/-- The Dike holds the cores in reset (R533). -/
def dikeHalt (s : State) : State := raise 9 (modBoot (fun b => { b with dikeState := 2 }) s)

/-- Is a restart by the Dike due (R533, R535)? -/
def dikeDue (t : Nat) (s : State) : Bool :=
  s.boot.started && s.boot.coresUp && decide (s.boot.dikeState = 0) && !activating s
  && decide (s.boot.hbAt + heartbeatMs s * 10 ^ 12 ≤ t)

/-- The Dike restarts the cores or halts them (R533). -/
def dikeRestart (reason : Nat) (s : State) : State :=
  let s1 := dikeInterrupts (coresStop [] (modBoot (fun b => { b with coresUp := false, dikeRun := b.dikeRun + 1 }) s))
  if 4 ≤ s.boot.dikeRun then dikeHalt s1
  else
    let s2 := recheckSlot s.boot.slot reason (raise 8 (count 0x1430 2 (modBoot (fun b => { b with dikeState := 1 }) s1)))
    if slotValid s2 s2.boot.slot then s2 else dikeHalt s2

/-- CORE_RESTART_COMPLETE (R529, R533, 02 R90): after a Dike restart, or after a failed activation. -/
def coreRestartComplete (t : Nat) (s : State) : State :=
  if s.boot.actStage = .failed then
    let s1 := modBoot (fun b => { b with actStage := .idle, dikeRun := 0 }) s
    let s2 := if s.boot.bootStatus = 2 then s1 else logImage s.boot.running s1
    journalRelease (some stABORTED_ACTIVATION) (coresRun t s2)
  else if s.boot.dikeState = 1 then
    let h := s.boot.running
    journalRelease none (coresRun t (logImage h (appendLog 9 0 h.digest (modBoot (fun b => { b with dikeState := 0 }) s))))
  else s

def execCoreRestartComplete (t : Nat) (s : State) : Host.Outcome State Fault Refusal :=
  .next (coreRestartComplete t (advance t s))

/-- DIKE_DMA_WINDOWS (R531): only the mailbox may write the windows. -/
def setDmaWindows (b : Bytes) (q : Req) (s : State) : State :=
  dikeLog q.origin 7 9 0 (modBoot (fun x => { x with dmaWindows := b }) s)

end Sys2Proof.Machine
end

