-- ==== Sys2Proof/Machine/Counters.lean ====
section
/-! DEFINITION. Counters and events (spec 16): the EVT_ and CTR_ registers, counter pages, and their
actions. A clear and an occurrence of one clock are two commands; `coincide` gives the bits whose set came
in the clock of the clear, and wins (R545, R552, R555). -/

namespace Sys2Proof.Machine

/-! ### Event registers (R544 to R547) -/

/-- Group `g` signals its vector while PF0's MSI-X Enable is 1 (R546). -/
def groupSignal (g : Nat) (s : State) : State :=
  if (s.func 0).msixEnable then signal 0 (Tab.get 0 s.evt.vector g) s else s

/-- A W1C write of EVT_STAT: bits set in the same clock stay (R545, R546). -/
def evtClear (g v keep : Nat) (s : State) : State :=
  let left := bitsMinus (evtStat s g) (bitsMinus v keep)
  let s1 := intxEval (setEvtStat g left s)
  if left &&& evtMask s g ≠ 0 then groupSignal g s1 else s1

/-- EVT_STAT_WRITE. -/
def execEvtStatWrite (t g : Nat) (v coincide : Word32) (s : State) : Host.Outcome State Fault Refusal :=
  .next (if barOpen s 0 && decide (g < 16) then evtClear g v.toNat coincide.toNat (advance t s) else barMissed 0 (advance t s))

/-- A write of EVT_MASK (R546). -/
def evtMaskSet (g v : Nat) (s : State) : State :=
  let m := v &&& groupBits g
  let fresh := bitsMinus m (evtMask s g) &&& evtStat s g
  let s1 := intxEval (modEvt (fun x => { x with mask := Tab.set 0#32 x.mask g (BitVec.ofNat 32 m) }) s)
  if fresh ≠ 0 then groupSignal g s1 else s1

/-- EVT_MASK_WRITE. -/
def execEvtMaskWrite (t g : Nat) (v : Word32) (s : State) : Host.Outcome State Fault Refusal :=
  .next (if barOpen s 0 && decide (g < 16) then evtMaskSet g v.toNat (advance t s) else barMissed 0 (advance t s))

/-- A write of EVT_VECTOR: a value at or above PF0's VectorCount is written as 0 (Table 16.5). -/
def evtVectorSet (g v : Nat) (s : State) : State :=
  let x := v % 2048
  modEvt (fun e => { e with vector := Tab.set 0 e.vector g (if x < msixSize s 0 then x else 0) }) s

/-- EVT_VECTOR_WRITE. -/
def execEvtVectorWrite (t g : Nat) (v : Word32) (s : State) : Host.Outcome State Fault Refusal :=
  .next (if barOpen s 0 && decide (g < 16) then evtVectorSet g v.toNat (advance t s) else barMissed 0 (advance t s))

/-- A write of EVT_TEST raises the chosen sources (Table 16.5). -/
def evtTest (g v : Nat) (s : State) : State :=
  forEach ((List.range 32).filter (fun i => v.testBit i)) (fun i st => raise (32 * g + i) st) s

/-- EVT_TEST_WRITE. -/
def execEvtTestWrite (t g : Nat) (v : Word32) (s : State) : Host.Outcome State Fault Refusal :=
  .next (if barOpen s 0 && decide (g < 16) then evtTest g v.toNat (advance t s) else barMissed 0 (advance t s))

/-- EVENT_CLEAR (R557): a W1C write of one bit, or of every group. -/
def execEventClear (r : Rq) (s : State) : Host.Outcome State Fault Refusal :=
  .next (serveAction (at0 0x1602 0)
    (fun q _ => abortIf (decide (511 < beNat q.msg.data) && decide (beNat q.msg.data ≠ 0xFFFF)) aRANGE)
    (fun q s =>
      let n := beNat q.msg.data
      (if n = 0xFFFF then forEach (List.range 16) (fun g st => evtClear g (2 ^ 32 - 1) 0 st) s
       else evtClear (n / 32) (2 ^ (n % 32)) 0 s, .done)) r s)

/-- A set of ports as 64 bytes (R543). -/
def portMapBytes (m : Tab Bool) : Bytes :=
  (List.range 64).map (fun b => byteOf ((List.range 8).foldl (fun a i =>
    if Tab.get false m (8 * b + i) then bitSet a i else a) 0))

/-- PORT_EVENT_MAP_CLEAR (R543). -/
def execPortEventMapClear (r : Rq) (s : State) : Host.Outcome State Fault Refusal :=
  .next (serveAction (at0 0x1604 0) noAborts
    (fun _ s => (modEvt (fun x => { x with portMap := [] }) s, .ok 0 0 9 (portMapBytes s.evt.portMap))) r s)

/-! ### Event numbers and their qualifiers (Table 16.9) -/

/-- How an event number may be qualified: none (0), port (1), port and port queue (2), polder (3). -/
def eventQual (ev : Nat) : Option Nat :=
  let within := fun (lo hi : Nat) => decide (lo ≤ ev ∧ ev ≤ hi)
  if within 0x000 0x002 then some 0
  else if within 0x100 0x10F || decide (ev = 0x125) || within 0x150 0x15D then some 1
  else if within 0x120 0x124 then some 2
  else if within 0x140 0x142 || within 0x160 0x16F || within 0x180 0x18A || within 0x1A0 0x1AA || within 0x1C0 0x1C7
      || within 0x1E0 0x1E7 || within 0x200 0x205 || within 0x300 0x30B || within 0x403 0x404 || within 0x504 0x506
      || within 0x510 0x514 || within 0x518 0x51C || within 0x600 0x603 || within 0x700 0x713 || within 0x720 0x72B
  then some 0
  else if within 0x320 0x322 || within 0x330 0x331 || within 0x340 0x342 || within 0x400 0x402 || within 0x480 0x48D
      || within 0x500 0x503
  then some 3
  else none

/-- Does an event allow a QUAL_KIND (R550)? -/
def qualOk (ev kind : Nat) : Bool :=
  match eventQual ev with
  | none => false
  | some k => decide (kind = 0) || (decide (kind = 1) && decide (k = 1 ∨ k = 2)) || (decide (kind = 2) && decide (k = 2))
      || (decide (kind = 3) && decide (k = 3))

/-! ### Device counters (R548 to R552) -/

def devCtr (s : State) (n : Nat) : DevCtr := Tab.get DevCtr.reset s.evt.ctrs n
def setDevCtr (n : Nat) (x : DevCtr) (s : State) : State :=
  modEvt (fun e => { e with ctrs := Tab.set DevCtr.reset e.ctrs n x }) s

/-- A write of CTR_SEL (R550): reserved bits stay 0. -/
def ctrSelSet (n v : Nat) (s : State) : State :=
  let w := v &&& 0x3FFF7FFF
  let sel := if qualOk (bitsOf w 11 0) (bitsOf w 29 28) then w else bitClear w 12
  setDevCtr n { devCtr s n with sel := BitVec.ofNat 32 sel } s

/-- CTR_SEL_WRITE. -/
def execCtrSelWrite (t n : Nat) (v : Word32) (s : State) : Host.Outcome State Fault Refusal :=
  .next (if barOpen s 0 && decide (n < 256) then ctrSelSet n v.toNat (advance t s) else barMissed 0 (advance t s))

/-- A read of CTR_LO latches the high bits (R549). -/
def ctrLatch (n : Nat) (s : State) : State :=
  setDevCtr n { devCtr s n with latch := (devCtr s n).value / 2 ^ 32 } s

/-- CTR_LO_READ. -/
def execCtrLoRead (t n : Nat) (s : State) : Host.Outcome State Fault Refusal :=
  .next (if barOpen s 0 && decide (n < 256) then
    let s1 := advance t s
    emit (.regRead ((devCtr s1 n).value % 2 ^ 32)) (ctrLatch n s1)
  else barMissed 0 (advance t s))

/-- A write of CTR_LO or CTR_HI is applied only while ENABLE is 0 (R549). -/
def ctrValueSet (n : Nat) (hi : Bool) (v : Nat) (s : State) : State :=
  let c := devCtr s n
  if c.sel.toNat.testBit 12 then s
  else if hi then setDevCtr n { c with value := c.value % 2 ^ 32 + v % 2 ^ 16 * 2 ^ 32 } s
  else setDevCtr n { c with value := c.value / 2 ^ 32 * 2 ^ 32 + v % 2 ^ 32 } s

/-- CTR_VALUE_WRITE. -/
def execCtrValueWrite (t n : Nat) (hi : Bool) (v : Word32) (s : State) : Host.Outcome State Fault Refusal :=
  .next (if barOpen s 0 && decide (n < 256) then ctrValueSet n hi v.toNat (advance t s) else barMissed 0 (advance t s))

/-- A W1C write of CTR_OVF (R552). -/
def ctrOvfClear (k v keep : Nat) (s : State) : State :=
  modEvt (fun x => { x with ovf := Tab.upd 0#32 x.ovf k (fun w => BitVec.ofNat 32 (bitsMinus w.toNat (bitsMinus v keep))) }) s

/-- CTR_OVF_CLEAR. -/
def execCtrOvfClear (t k : Nat) (v coincide : Word32) (s : State) : Host.Outcome State Fault Refusal :=
  .next (if barOpen s 0 && decide (k < 8) then ctrOvfClear k v.toNat coincide.toNat (advance t s) else barMissed 0 (advance t s))

/-- All 256 values become 0 (Table 16.6). -/
def clearCounters (s : State) : State :=
  modEvt (fun x => { x with ctrs := x.ctrs.foldl (fun m e => Tab.set DevCtr.reset m e.1 { e.2 with value := 0 }) [] }) s

/-- CLEAR_ALL. -/
def execClearAll (t : Nat) (s : State) : Host.Outcome State Fault Refusal :=
  .next (if barOpen s 0 then clearCounters (advance t s) else barMissed 0 (advance t s))

/-- FREEZE_ALL (Table 16.6). -/
def execFreezeAll (t : Nat) (v : Bool) (s : State) : Host.Outcome State Fault Refusal :=
  .next (if barOpen s 0 then modEvt (fun x => { x with freezeAll := v }) (advance t s) else barMissed 0 (advance t s))

/-- Counter `n`'s overflow bit. -/
def ctrOverflowed (s : State) (n : Nat) : Bool := (Tab.get 0#32 s.evt.ovf (n / 32)).toNat.testBit (n % 32)

/-- DEVICE_COUNTER_READ (R557). -/
def execDeviceCounterRead (r : Rq) (s : State) : Host.Outcome State Fault Refusal :=
  .next (serveAction (at0 0x1700 0)
    (fun q _ => abortIf (255 < beNat q.msg.data) aRANGE)
    (fun q s =>
      let n := beNat q.msg.data
      (s, .ok 0 0 9 (beBytes 4 (devCtr s n).sel.toNat ++ [byteOf (boolNat (ctrOverflowed s n)), 0, 0, 0]
        ++ beBytes 8 (devCtr s n).value))) r s)

/-! ### Counter pages (R553 to R555) -/

/-- Is a polder's page open to its tenant? -/
def pageOpen (s : State) (fn : Nat) : Bool := decide (cfgN s (0x3000 + fn) 0xB = 1)

/-- A W1C write of PAGE_OVF (R555). -/
def pageOvfClear (fn v keep : Nat) (s : State) : State :=
  s.setPage fn { s.page fn with ovf := bitsMinus (s.page fn).ovf (bitsMinus v keep) }

/-- PAGE_OVF_CLEAR. -/
def execPageOvfClear (t fn : Nat) (v coincide : Word32) (s : State) : Host.Outcome State Fault Refusal :=
  .next (if barOpen s fn && pageOpen s fn then pageOvfClear fn v.toNat coincide.toNat (advance t s) else barMissed fn (advance t s))

/-- POLDER_COUNTER_SELECT (R557). -/
def execPolderCounterSelect (r : Rq) (s : State) : Host.Outcome State Fault Refusal :=
  .next (serveAction (at0 0x1710 0)
    (fun q s =>
      let d := q.msg.data
      let n := beField d 0 2
      let vec := beField d 6 2
      abortIf (decide (4095 < n) || decide (7 < byteAt d 2) || decide (3 < byteAt d 3) || !qualOk (beField d 4 2) 3
        || (decide (vec ≠ 0xFFFF) && decide ((s.polder n).counts.vectors ≤ vec))) aRANGE)
    (fun q s =>
      let d := q.msg.data
      let n := beField d 0 2
      let k := byteAt d 2
      let pg := s.page n
      (s.setPage n { pg with
        values := Tab.set 0 pg.values k 0
        ovf := bitClear pg.ovf k
        sels := pg.sels.set k { event := beField d 4 2, enable := (byteAt d 3).testBit 0, freeze := (byteAt d 3).testBit 1 }
        vector := beField d 6 2 }, .done)) r s)

/-- POLDER_COUNTER_READ (R557). -/
def execPolderCounterRead (r : Rq) (s : State) : Host.Outcome State Fault Refusal :=
  .next (serveAction (at0 0x1711 0)
    (fun q _ => abortIf (4095 < beNat q.msg.data) aRANGE)
    (fun q s =>
      let pg := s.page (beNat q.msg.data)
      (s, .ok 0 0 9 ([byteOf pg.ovf] ++ zeros 7 ++ pg.sels.zipIdx.flatMap (fun e =>
        beBytes 2 e.1.event ++ [byteOf (boolNat e.1.enable + 2 * boolNat e.1.freeze), 0]
        ++ beBytes 8 (Tab.get 0 pg.values e.2))))) r s)

end Sys2Proof.Machine
end

