-- ==== Sys2Proof/Machine/SelfTests.lean ====
section
/-! DEFINITION. Built-in self-test (spec 17): tests of a die in service, what leaves service with it and
how it returns, and the board test through the JTAG TAP. Dies 0 to 3 are FD0 to FD3, 4 and 5 MD0 and MD1. -/

namespace Sys2Proof.Machine

def setTestDie (die st : Nat) (s : State) : State := modTest (fun x => { x with die := Tab.set 0 x.die die st }) s
def testDie (s : State) (die : Nat) : Nat := Tab.get 0 s.test.die die

/-! ### What a field die takes out of service with it (R565, 05 R205, 06 R230) -/

/-- Every request and fetch of a context waits at the die that now serves it, and no die caches a context
it does not serve. -/
def rehomeFlow (s : State) : State :=
  let dies := [0, 1, 2, 3]
  let requests := dies.flatMap (fun d => (s.flowDie d).requests)
  let fetches := dies.flatMap (fun d => (s.flowDie d).fetches.map (fun f =>
    if flowHome s f.hash = d then f else { f with way := none }))
  let s1 := forEach dies (fun d st =>
    let x := st.flowDie d
    st.setFlowDie d { x with
      requests := requests.filter (fun r => decide (flowHome s r.hash = d))
      fetches := fetches.filter (fun f => decide (flowHome s f.hash = d)) }) s
  modFlow (fun f => { f with cache := f.cache.filter (fun e =>
    decide (flowHome s (s.ctx (e.2 - 1)).hash = e.1 / 65536)) }) s1

/-- Learn requests and hit notices go to the die that now serves their keys; a learn queue that is full takes no
more (05 R188). -/
def rehomeTables (s : State) : State :=
  let dies := [0, 1, 2, 3]
  let all := dies.flatMap (fun d => Tab.get [] s.tables.learnQ d)
  let of : Nat → List LearnReq := fun d => all.filter (fun q => decide (homeOf s (fdbKey q.fid q.mac) = d))
  let s1 := modTables (fun x => { x with
    learnQ := dies.foldl (fun m d => Tab.set [] m d ((of d).take 256)) x.learnQ
    hits := x.hits.map (fun h => (homeOf s h.2.2.1, h.2)) }) s
  countQ 0x2904 5 ((dies.map (fun d => (of d).length - 256)).sum) none none none s1

/-- A die's queues, frames on their way from or to it and frames between passes are discarded. -/
def dieFramesLost (die : Nat) (s : State) : State :=
  let ports := (List.range 128).map (fun i => die * 128 + i)
  let s1 := forEach ports (fun p st =>
    let r := (flushPort p st).2
    let x := r.psched p
    releaseFrames p (x.sending.map (·.frame)) (r.setPsched p { x with inject := [], sending := [] })) s
  let gone : Parcel → Bool := fun p => decide (p.src = die) || decide (p.dst = die)
  let lost := s1.buf.transit.filter gone
  let s2 := forEach lost loseParcel (modBuf (fun b => { b with transit := b.transit.filter (fun p => !gone p) }) s1)
  let s3 := modCls (fun c => { c with 
    recirc := c.recirc.filter (fun e => decide (e.1 / 4 ≠ die))
    waiting := c.waiting.filter (fun e => decide (e.1 / 4 ≠ die)) }) s2
  let drop : CtxReq → CtxReq := fun r => if dieOf r.port = die then { r with parcels := [], parkBytes := 0 } else r
  let s4 := forEach [0, 1, 2, 3] (fun d st =>
    let x := st.flowDie d
    st.setFlowDie d { x with
      requests := x.requests.map drop, fetches := x.fetches.map (fun f => { f with frames := f.frames.map drop }) }) s3
  modBuf (fun b => { b with
    hostQ := (b.hostQ.map (fun e => (e.1, e.2.filter (fun h => match h.place with
      | .fd d _ _ => decide (d ≠ die)
      | _ => true)))).filter (fun e => decide (e.2 ≠ []))
    stored := b.stored.filter (fun x => decide (x.die ≠ die)) }) s4

/-- Siphon packets that wait in the die's cells are lost. -/
def dieSiphonLost (die : Nat) (s : State) : State :=
  modSiphon (fun x => { x with rx := x.rx.filter (fun r => decide (dieOf r.port ≠ die)) }) s

/-- A field die leaves service: its ports first. -/
def fieldDieOut (die : Nat) (s : State) : State :=
  let ports := ((List.range 128).map (fun i => die * 128 + i)).filter (portExists s)
  let s1 := forEach ports (fun p st => setLink p .outOfService 0 st) s
  let s2 := setTestDie die 1 (dieSiphonLost die (dieFramesLost die s1))
  let s3 := modTables (fun x => { x with
    filter := Tab.set [] x.filter die [], repQ := x.repQ.filter (fun w => decide (w.dst ≠ die)) }) s2
  let x := s3.flowDie die
  rehomeTables (rehomeFlow ((s3.setFlowDie die { x with writeBacks := [] }).setBufDie die
    (rebuiltDie (s3.bufDie die).lost (s3.bufDie die).stuck)))

/-- A memory die leaves service: frames in its overflow region are lost. -/
def memoryDieOut (md : Nat) (s : State) : State :=
  let keep : HFrame → Bool := fun h => decide (h.place ≠ .md md)
  let s1 := modBuf (fun b => { b with
    hostQ := (b.hostQ.map (fun e => (e.1, e.2.filter keep))).filter (fun e => decide (e.2 ≠ [])) }) s
  setTestDie (4 + md) 1 (modBoot (fun b => { b with ddrTrained := b.ddrTrained.set md false }) s1)

/-! ### SELF_TEST_RUN (R564) -/

/-- Does a valid region lie in device DDR4 of this die? -/
def regionOn (s : State) (md : Nat) : Bool :=
  s.siphon.regions.any (fun e => e.2.valid && isDdr e.2.base && decide (e.2.base / 2 ^ 40 % 2 = md))

def selfTestAborts (q : Req) (s : State) : List Nat :=
  let d := beNat q.msg.data
  let c := (s.cart (d - 4)).state
  abortIf (7 < d) aRANGE
  ++ abortIf (decide (d = 6 ∨ d = 7) || s.test.die.any (fun e => decide (e.2 ≠ 0))) aSTATE
  ++ abortIf (decide (d = 4 ∨ d = 5) &&
      (flowUsed s || decide (c ≠ 0 ∧ c ≠ 2 ∧ c ≠ 6 ∧ c ≠ 7) || regionOn s (d - 4))) aSTATE

def execSelfTestRun (r : Rq) (s : State) : Host.Outcome State Fault Refusal :=
  .next (serveAction (at0 0x1500 2) selfTestAborts
    (fun q s =>
      let d := beNat q.msg.data
      (if d < 4 then fieldDieOut d s else memoryDieOut (d - 4) s, .later (.selfTest d))) r s)

/-! ### SELF_TEST_END (R559, R560, R565, R567) -/

def selfTestEnd (die sig : Nat) (s : State) : State :=
  if testDie s die ≠ 1 then s
  else
    let s1 := logSelfTest (testResult die sig s)
    answerAct (.selfTest die) none (setTestDie die (if sig % 2 ^ 64 = s.boot.running.misr.getD die 0 then 2 else 3) s1)

def execSelfTestEnd (t die signature : Nat) (s : State) : Host.Outcome State Fault Refusal :=
  .next (selfTestEnd die signature (advance t s))

/-- DIE_RETURN (R567). -/
def execDieReturn (r : Rq) (s : State) : Host.Outcome State Fault Refusal :=
  .next (serveAction (at0 0x1500 3)
    (fun q s => abortIf (7 < beNat q.msg.data) aRANGE ++ abortIf (testDie s (beNat q.msg.data) ≠ 3) aSTATE)
    (fun q s => (setTestDie (beNat q.msg.data) 2 s, .done)) r s)

/-! ### The return of a die (R565, R566) -/

/-- Counters that a port or a field die holds are 0 (log entry 56), and token buckets are full. -/
def dieCountersReset (die : Nat) (s : State) : State :=
  let port : Nat → Bool := fun k =>
    let i := k / 256
    (decide (0x2000 ≤ i ∧ i < 0x2200) && decide (dieOf (i - 0x2000) = die))
    || (decide (0x2200 ≤ i ∧ i < 0x2400) && decide (dieOf (i - 0x2200) = die))
  let s1 := modDict (fun d => { d with counters := d.counters.filter (fun e => !port e.1) }) s
  let s2 := modCls (fun c => { c with
    ruleFrames := c.ruleFrames.filter (fun e => decide (e.1 / 4096 ≠ die))
    ruleBytes := c.ruleBytes.filter (fun e => decide (e.1 / 4096 ≠ die)) }) s1
  let full : Weir → Weir := fun w => { w with ctr := [], tc := w.cbs * 65536, tp := w.pbs * 65536, last := s.clock / 781250 }
  modSched (fun b => { b with weirs := b.weirs.foldl (fun m e =>
    Tab.set Weir.reset m e.1 (if e.1 / 16384 = die then full e.2 else e.2)) [] }) s2

/-- A port's scheduler as it returns: its gate lists are kept, all else is as at the start. -/
def portSchedReturn (p : PortSched) : PortSched :=
  { PortSched.reset with oper := p.oper, pend := p.pend, changeTime := p.changeTime, gates := p.gates }

/-- FRER streams whose SourcePort or RecoveryPort lies on the die restart (03 R129). -/
def frerRestart (die : Nat) (s : State) : State :=
  { s with frer := s.frer.foldl (fun m e =>
    Tab.set Frer.reset m e.1 (if dieOf e.2.port = die then { e.2 with takeAny := true, ctr := [] } else e.2)) [] }

/-- The firmware's writes of the stored configuration to the die are logged (15 R532). -/
def restoreLogged (die : Nat) (s : State) : State :=
  forEach s.dict.vals (fun e st =>
    match dikeOfObject (e.1 / 256) (e.1 % 256) with
    | some (dies, cls, target) =>
      if dies.contains die then dikeLog { Origin.firmware with index := e.1 / 256, sub := e.1 % 256 } die cls target st else st
    | none => st) s

def fieldDieReturn (die : Nat) (s : State) : State :=
  let ports := (List.range 128).map (fun i => die * 128 + i)
  let s1 := frerRestart die (dieCountersReset die (copyReplica die (restoreLogged die s)))
  let s2 := forEach ports (fun p st => st.setPsched p (portSchedReturn (st.psched p))) s1
  let s3 := rehomeTables (rehomeFlow (setTestDie die 0 s2))
  lowCheck die (forEach (ports.filter (fun p => decide ((s3.port p).link = .outOfService)))
    portAdminChanged s3)

/-- A memory die returns with its DDR4 contents lost; a quiesced cartridge in its slot is brought up again. -/
def memoryDieReturn (md : Nat) (s : State) : State :=
  let c := s.cart md
  let s1 := modSiphon (fun x => { x with ddr := x.ddr.filter (fun e => decide (e.1 / 2 ^ 40 ≠ md)) }) s
  let s2 := setTestDie (4 + md) 0 (modBoot (fun b => { b with ddrTrained := b.ddrTrained.set md true }) s1)
  if c.state = 6 ∧ c.present then s2.setCart md (cartAgain s md) else s2

/-- DIE_RETURN_COMPLETE. -/
def dieReturnComplete (die : Nat) (s : State) : State :=
  if testDie s die ≠ 2 then s else if die < 4 then fieldDieReturn die s else memoryDieReturn (die - 4) s

def execDieReturnComplete (t die : Nat) (s : State) : Host.Outcome State Fault Refusal :=
  .next (dieReturnComplete die (advance t s))

/-! ### The TAP (R572) -/

/-- The instruction register takes a code; what the instruction then does. -/
def tapLoad (code : Nat) (s : State) : State := modBoard (fun b => { b with tapInstr := code }) s

/-- BYPASS: one bit, captured as 0 (IEEE 1149.1). -/
def tapBypass (code : Nat) (s : State) : State := emit (.tap [0]) (tapLoad code s)

/-- An instruction that takes effect only while PERST_N is asserted, and acts as BYPASS otherwise. -/
def tapBoard (code : Nat) (s : State) : State :=
  if s.board.perstLow then tapLoad code s else tapBypass code s

/-- The boundary register shifts out what the balls show: values that the spec does not give (log entry 21). -/
def tapSample (s : State) : State :=
  let r := drawBytes (ceilDiv Config.boundaryLength 8) s
  emit (.tap r.1) r.2

def execExtest (s : State) : Host.Outcome State Fault Refusal :=
  .next (if s.board.perstLow then tapSample (tapLoad 0x00 s) else tapBypass 0x00 s)

def execSamplePreload (cells : Bytes) (s : State) : Host.Outcome State Fault Refusal :=
  .next (modBoard (fun b => { b with boundary := cells }) (tapSample (tapLoad 0x01 s)))

def execIdcode (s : State) : Host.Outcome State Fault Refusal :=
  .next (emit (.tap [0x6B, 0x2E, 0x51, 0x1A]) (tapLoad 0x02 s))

def execBypass (code : BitVec 8) (s : State) : Host.Outcome State Fault Refusal :=
  .next (tapBypass code.toNat s)

def execClamp (s : State) : Host.Outcome State Fault Refusal := .next (tapBoard 0x05 s)

def execHighz (s : State) : Host.Outcome State Fault Refusal := .next (tapBoard 0x06 s)

def execExtestPulse (s : State) : Host.Outcome State Fault Refusal :=
  .next (if s.board.perstLow then tapSample (tapLoad 0x08 s) else tapBypass 0x08 s)

def execExtestTrain (s : State) : Host.Outcome State Fault Refusal :=
  .next (if s.board.perstLow then tapSample (tapLoad 0x09 s) else tapBypass 0x09 s)

end Sys2Proof.Machine
end

