-- ==== Sys2Proof/Machine/Boards.lean ====
section
/-! DEFINITION. Power, temperature and the board balls (spec 18): AC_FAIL_N, THERMTRIP_N, the thermal
samples and the SMBus target. -/

namespace Sys2Proof.Machine

/-- VDD_AUX is in tolerance; so are the seven other rails. -/
def auxUp (s : State) : Bool := s.board.rails.testBit 7
def mainUp (s : State) : Bool := decide (s.board.rails % 128 = 127)

/-! ### AC_FAIL_N and THERMTRIP_N (R587, R593, R599, R601, 14 R492) -/

/-- The emergency drain begins, unless no journal area is reserved (15 R539) or one runs already: self-tests
of the cartridges stop. -/
def drainBegin (s : State) : State :=
  let st := s.jrn.state
  if st = 3 ∨ (st = 0 ∧ s.boot.ddrTrained = [false, false]) then s
  else
    let stop : Nat → State → State := fun i x =>
      let c := x.cart i
      if c.testState = 1 then x.setCart i { c with testState := 2 } else x
    modJrn (fun j => { j with state := 3 }) (stop 1 (stop 0 s))

/-- AC_FAIL_FALL. -/
def acFailFall (s : State) : State :=
  if !auxUp s ∨ s.board.acFail = 1 then s
  else
    let s1 := modBoard (fun b => { b with acFail := 1 }) s
    if s.board.released then drainBegin (count 0x1303 2 s1) else s1

def execAcFailFall (t : Nat) (s : State) : Host.Outcome State Fault Refusal := .next (acFailFall (advance t s))

/-- AC_FAIL_N_HIGH: the 10 ms of R587 start. -/
def execAcFailNHigh (t : Nat) (s : State) : Host.Outcome State Fault Refusal :=
  let s1 := advance t s
  .next (if s1.board.acFail = 1 then modBoard (fun b => { b with acFail := 2, acHighAt := t }) s1 else s1)

/-- AC_FAIL_RISE (R587, 14 R494): acceptance resumes once the drain has ended. -/
def execAcFailRise (t : Nat) (s : State) : Host.Outcome State Fault Refusal :=
  let s1 := advance t s
  .next (if s1.board.acFail = 2 ∧ s1.board.acHighAt + 10 ^ 13 ≤ t then
    powerResume (modBoard (fun b => { b with acFail := 0 }) s1) else s1)

/-- THERMTRIP. -/
def thermtrip (s : State) : State :=
  if !auxUp s ∨ s.board.thermtrip then s
  else
    let s1 := modBoard (fun b => { b with thermtrip := true }) s
    if s.board.released then drainBegin s1 else s1

def execThermtrip (t : Nat) (s : State) : Host.Outcome State Fault Refusal := .next (thermtrip (advance t s))

/-! ### THERMAL_SAMPLE (R590, R591) -/

/-- The thresholds in units of 0.1 °C. -/
def warnAt (s : State) : Int := (cfgN s 0x1301 1 : Int) * 10
def throttleAt (s : State) : Int := (cfgN s 0x1301 2 : Int) * 10
def limitAt : Int := 1050

/-- A threshold meets a sample: is its event raised, and is it armed afterwards? -/
def crossing (armed : Bool) (temp limit : Int) : Bool × Bool :=
  if armed && decide (limit ≤ temp) then (true, false)
  else (false, armed || decide (temp ≤ limit - 30))

def highest : List Int → Int
  | [] => 0
  | x :: rest => rest.foldl max x

def thermalSample (temps : List Int) (power : Nat) (s : State) : State :=
  if !s.board.released then s
  else
    let l := (temps ++ List.replicate 32 0).take 32
    let j := highest l
    let w := crossing s.board.warnArmed j (warnAt s)
    let h := crossing s.board.throttleArmed j (throttleAt s)
    let c := crossing s.board.criticalArmed j limitAt
    let s1 := modBoard (fun b => { b with
      temps := l, jtemp := j, sampled := true, power := power
      jtempMax := some (match b.jtempMax with
        | none => j
        | some m => max m j)
      warnArmed := w.2, throttleArmed := h.2, criticalArmed := c.2
      throttled := decide (throttleAt s ≤ j) || (b.throttled && decide (throttleAt s - 50 < j)) }) s
    let s2 := if limitAt < j then count 0x1300 5 s1 else s1
    let s3 := if w.1 then raise 354 s2 else s2
    let s4 := if c.1 then raise 355 s3 else s3
    if h.1 then raise 356 s4 else s4

def execThermalSample (t : Nat) (temps : List Int) (power : Nat) (s : State) : Host.Outcome State Fault Refusal :=
  .next (thermalSample temps power (advance t s))

/-- JUNCTION_TEMP_MAX_CLEAR (R598). -/
def execJunctionTempMaxClear (r : Rq) (s : State) : Host.Outcome State Fault Refusal :=
  .next (serveAction (at0 0x1300 4) noAborts
    (fun _ s => (modBoard (fun b => { b with jtempMax := none }) s, .done)) r s)

/-! ### SMBus (R596) -/

/-- Is JunctionTemp known over SMBus? -/
def tempKnown (s : State) : Bool := mainUp s && s.board.sampled

/-- SMB_ALERT_N is low. -/
def smbAlert (s : State) : Bool := (tempKnown s && decide (warnAt s ≤ s.board.jtemp)) || s.board.thermtrip

/-- The SMBus target answers on VDD_AUX alone, at SmbusAddress: a read of another address is no command of it. -/
def smbusRead (b : Bytes) (s : State) : State := if auxUp s then emit (.smbus (cfgN s 0x1305 0) b) s else s

/-- Whole degrees: the spec does not say how tenths are rounded (log entry 57). -/
def wholeDegrees (j : Int) (up : Bool) : Int := if up then -((-j) / 10) else j / 10

def execSmbusJunctionTemp (s : State) : Host.Outcome State Fault Refusal :=
  .next (if tempKnown s then
    let r := drawBool s
    smbusRead [byteOf (unsignedOf 8 (wholeDegrees s.board.jtemp r.1))] r.2
  else smbusRead [0x80] s)

/-- The status byte of Table 18.8. -/
def smbusStatusByte (s : State) : Nat :=
  boolNat (mainUp s) + boolNat (tempKnown s && decide (warnAt s ≤ s.board.jtemp)) * 2 + boolNat (mainUp s && s.board.throttled) * 4
  + boolNat (tempKnown s && decide (limitAt < s.board.jtemp)) * 8 + boolNat s.board.thermtrip * 16
  + boolNat (decide (s.board.acFail = 1)) * 32 + boolNat s.boot.fieldUp * 64

def execSmbusStatus (s : State) : Host.Outcome State Fault Refusal :=
  .next (smbusRead [byteOf (smbusStatusByte s)] s)

def execSmbusPowerEstimate (s : State) : Host.Outcome State Fault Refusal :=
  .next (smbusRead (leBytes 2 s.board.power) s)

def execSmbusJunctionTempFine (s : State) : Host.Outcome State Fault Refusal :=
  .next (smbusRead (leBytes 2 (if tempKnown s then unsignedOf 16 s.board.jtemp else 0x8000)) s)

def execSmbusStepping (s : State) : Host.Outcome State Fault Refusal := .next (smbusRead [0xB0] s)

end Sys2Proof.Machine
end

