-- ==== Sys2Proof/Machine/Values.lean ====
section
/-! DEFINITION. What the objects of the dictionary read as: the computed values of read-only objects (the
object table of every chapter), the attestation report and the Dike log. A requester is a session number,
0 for the mailbox. -/

namespace Sys2Proof.Machine

/-- The bytes of a text. -/
def textBytes (t : String) : Bytes := t.toList.map (fun c => byteOf c.toNat)

/-- `n` elements, each of `len` bytes. -/
def arrayOf (n len : Nat) (f : Nat → Nat) : Bytes := (List.range n).flatMap (fun i => beBytes len (f i))

/-- LinkState (spec 03 Table 3.3). -/
def linkCode : LinkSt → Nat
  | .disabled => 0
  | .down => 1
  | .training => 2
  | .up => 3
  | .localFault => 4
  | .remoteFault => 5
  | .outOfService => 6

/-! ### Identity, dictionary, sessions (spec 15 Table 15.12, 02 Table 2.9) -/

def valIdentity (sub : Nat) : Bytes :=
  match sub with
  | 1 => padTo 16 Config.deviceSerial
  | 2 => textBytes (if Config.orderCodeE then "AKX512-E" else "AKX512-C")
  | 3 => [0xB0]
  | _ => padTo 3108 Config.identityCertificate

/-- TokenExpiry of a requester. -/
def tokenOf (s : State) (who : Nat) : Option Nat :=
  if who = 0 then s.dict.mbxVendor else (s.session who).vendorUntil

/-- SessionState: 0 disabled, 3 no key, 2 exhausted, 1 ready. -/
def sessionState (s : State) (n : Nat) : Nat :=
  let x := s.session n
  if cfgN s (0x114F + n) 1 = 0 then 0
  else if x.keySlot.isNone ∨ x.setAside then 3
  else if x.exhausted then 2 else 1

def valSession (s : State) (n sub : Nat) : Bytes :=
  match sub with
  | 5 => beBytes 4 (s.session n).rxHigh
  | 6 => beBytes 4 (s.session n).tx
  | _ => [byteOf (sessionState s n)]

/-! ### Board, firmware, self-test, events (spec 18, 15, 17, 16) -/

/-- GpioIn: an output reads what drives it (spec 18 R597). -/
def gpioIn (s : State) : Nat :=
  let d := cfgN s 0x1304 1
  (cfgN s 0x1304 2 &&& d) ||| bitsMinus s.board.gpioPins d

def valBoard (s : State) (idx sub : Nat) : Bytes :=
  match idx, sub with
  | 0x1300, 1 => beBytes 4 (unsignedOf 32 s.board.jtemp)
  | 0x1300, 2 => beBytes 4 (unsignedOf 32 (s.board.jtempMax.getD 0))
  | 0x1300, 3 => s.board.temps.flatMap (fun x => beBytes 2 (unsignedOf 16 x))
  | 0x1301, _ => [byteOf (boolNat s.board.throttled)]
  | 0x1302, 1 => beBytes 2 s.board.power
  | 0x1302, _ => [byteOf s.board.rails]
  | 0x1303, _ => [byteOf s.board.acFail]
  | _, _ => [byteOf (gpioIn s)]

/-- ActivationState (spec 15 Table 15.12). -/
def activationState (s : State) : Nat :=
  if activating s then 2
  else if s.dict.stagings.any (fun x => decide (x.index = 0x1410)) then 1 else s.boot.actState

def valFirmware (s : State) (sub : Nat) : Bytes :=
  match sub with
  | 1 => [byteOf s.boot.slot]
  | 2 => [byteOf s.boot.bootStatus]
  | 3 => s.boot.running.version
  | 4 => [byteOf s.boot.running.secVersion]
  | 5 => [byteOf s.boot.rollback]
  | 6 => s.boot.datapath.version
  | _ => [byteOf (activationState s)]

def valSlot (s : State) (i sub : Nat) : Bytes :=
  let x := slotNo s i
  match sub with
  | 1 => [byteOf (slotState s.boot.rollback x)]
  | 2 => [byteOf (slotReason s.boot.rollback x)]
  | 3 => x.hdr.version
  | _ => [byteOf x.hdr.secVersion]

/-- An entry of the Dike log (spec 15 Table 15.11). -/
def DikeEntry.bytes (e : DikeEntry) : Bytes :=
  time96 e.time ++ beBytes 4 e.seq ++ [byteOf e.origin, byteOf e.session] ++ beBytes 2 e.index
  ++ [byteOf e.sub, byteOf e.die, byteOf e.cls, 0] ++ beBytes 4 e.target ++ zeros 4

def dikeLogBytes (s : State) : Bytes := padTo 131072 (s.boot.dikeLog.flatMap DikeEntry.bytes)

/-- DikeLimits: the limits in force (spec 15 R530). -/
def dikeLimits (s : State) : Bytes :=
  beBytes 2 (injPermille s) ++ beBytes 2 (injPerSec s) ++ beBytes 2 (heartbeatMs s) ++ [0, 0]

/-- Do the stages that take effect only at a start (R528: targets 2, 3 and 4) differ from the running image? -/
def datapathStale (s : State) : Bool :=
  let stage : ImgHdr → List (Nat × Bytes) := fun h => h.stages.filter (fun e => decide (2 ≤ e.1 ∧ e.1 ≤ 4))
  decide (stage s.boot.datapath ≠ stage s.boot.running)

/-- Every byte of the attestation report before its signature (spec 15 Table 15.8). -/
def reportBody (s : State) (who : Nat) : Bytes :=
  let e := s.boot.log
  let flags := boolNat s.boot.logOverflow + 2 * boolNat (decide (s.boot.bootStatus = 1)) + 4 * boolNat s.boot.testedAtStart
    + 8 * boolNat (datapathStale s)
  beBytes 4 0x41545354 ++ beBytes 2 1 ++ beBytes 2 e.length ++ beBytes 4 (4516 + 72 * e.length) ++ beBytes 4 s.dict.epoch
  ++ [byteOf s.boot.slot, byteOf s.boot.running.secVersion, byteOf s.boot.rollback, byteOf flags]
  ++ padTo 8 s.boot.running.version ++ padTo 16 Config.deviceSerial ++ time96 (timeNow s)
  ++ beBytes 4 (min (counter s 0x1430 2) 0xFFFFFFFF) ++ beBytes 4 s.boot.activations ++ zeros 32
  ++ Tab.get (zeros 32) s.boot.nonces who
  ++ e.flatMap (fun m => beBytes 2 m.kind ++ beBytes 2 m.seq ++ zeros 4 ++ padTo 64 m.digest)
  ++ padTo 3108 Config.identityCertificate

/-- The attestation report (R526), signed with the identity key. -/
def attestationReport (s : State) (who : Nat) : Bytes :=
  let b := reportBody s who
  b ++ padTo 1280 (Config.identitySign b)

/-! ### Ports, queues, gate lists (spec 03 Table 3.4, 08 Tables 8.1 and 8.5) -/

def valPort (s : State) (p sub : Nat) : Bytes :=
  let x := s.port p
  match sub with
  | 0x10 => [byteOf (linkCode x.link)]
  | 0x11 => [byteOf x.fec]
  | 0x12 => [byteOf x.frrState]
  | _ => beBytes 8 (counter s (0x2000 + p) sub)

def valQueues (s : State) (p sub : Nat) : Bytes :=
  let x := s.psched p
  match sub with
  | 0x20 => (List.range 8).flatMap (fun tc => arrayOf 5 8 (fun k => Tab.get 0 x.counters (tc * 8 + k)))
  | 0x21 => (List.range 8).flatMap (fun tc =>
      beBytes 4 (depthCells (portQueue x tc)) ++ beBytes 4 (portQueue x tc).length)
  | _ => beBytes 8 (Tab.get 0 x.counters 64)

def valGates (s : State) (p sub : Nat) : Bytes :=
  let x := s.psched p
  let o := x.oper.getD { base := 0, cycle := 0, ext := 0, entries := [] }
  match sub with
  | 0x10 => [byteOf (boolNat x.pend.isSome)]
  | 0x11 => time96 x.changeTime
  | 0x12 => beBytes 4 (o.cycle / 65536)
  | 0x13 => time96 o.base
  | 0x14 => beBytes 4 (o.ext / 65536)
  | 0x15 => beBytes 2 o.entries.length
  | 0x16 => padTo 8192 (o.entries.flatMap (fun e => [0, byteOf e.1, 0, 0] ++ beBytes 4 (e.2 / 65536)))
  | 0x17 => arrayOf 8 4 (fun tc => match longestWindow x tc with
      | some n => min n 0xFFFFFFFE
      | none => 0xFFFFFFFF)
  | _ => beBytes 8 (counter s (0x2400 + p) sub)

/-! ### Classifier, tables, flows, buffers (spec 04 to 07) -/

def countWhere {α : Type} (t : Tab α) (f : α → Bool) : Nat := (t.filter (fun e => f e.2)).length

def valClassifier (s : State) (idx sub : Nat) : Bytes :=
  match idx, sub with
  | 0x2800, 1 => [byteOf s.cls.active]
  | 0x2800, k => [byteOf (bankStatus s (k - 2))]
  | 0x2802, 4 => beBytes 4 (countWhere (bankAt s s.cls.active).rules (fun r => r.valid))
  | 0x2804, _ => s.cls.malformedLast
  | i, k => beBytes 8 (counter s i k)

def valTables (s : State) (sub : Nat) : Bytes :=
  match sub with
  | 1 => beBytes 4 (countWhere s.tables.fdb (fun e => e.valid))
  | 2 => beBytes 4 (countWhere s.tables.fdb (fun e => e.valid && e.static))
  | 3 => beBytes 2 (overflowUsed s 0)
  | _ => beBytes 2 (countWhere s.tables.stream (fun e => e.valid))

def valFlow (s : State) (sub : Nat) : Bytes :=
  match sub with
  | 1 => beBytes 4 (countWhere s.flow.ctxs (fun c => c.active))
  | 2 => beBytes 2 (countWhere s.flow.ctxs (fun c => c.pinned))
  | _ => beBytes 2 s.flow.overflow.length

def valBuffers (s : State) (idx sub : Nat) : Bytes :=
  match idx, sub with
  | 0x2B02, k => beBytes 4 (freeCells (s.bufDie (k - 1)))
  | 0x2B03, k => beBytes 4 (sharedUsed s (k - 1))
  | 0x2B04, k => beBytes 4 (minimaSum s (k - 1))
  | 0x2B05, 9 => beBytes 4 (((List.range 4).map (fun d => (s.bufDie d).lost.length)).sum)
  | 0x2B06, 1 => s.buf.doubleFree
  | 0x2B06, _ => s.buf.foreignFree
  | i, k => beBytes 8 (counter s i k)

/-! ### Polders, endpoint, queues, cipher, Siphon, journal (spec 09 to 14) -/

def valPolder (s : State) (n sub : Nat) : Bytes :=
  let x := s.polder n
  match sub with
  | 1 => [byteOf x.state]
  | 0x20 => beBytes 4 x.gen
  | 0x21 => beBytes 2 (x.owner.getD 0xFFFF)
  | 0x22 => committedRecord s n
  | 0x25 => x.lastFault
  | k => beBytes 8 (counter s (0x3000 + n) k)

def valPools (s : State) (sub : Nat) : Bytes :=
  match sub with
  | 8 => beBytes 2 (3582 - s.buf.owners.length)
  | 9 => beBytes 2 (countWhere s.polders.tab (fun p => decide (p.state = 1)))
  | k => beBytes 4 (poolSize (k - 1) - poolUsed s (k - 1))

def valHostLink (s : State) (sub : Nat) : Bytes :=
  match sub with
  | 1 => [byteOf s.ep.link]
  | 2 => [byteOf s.ep.speed]
  | 3 => [byteOf s.ep.width]
  | _ => [byteOf (boolNat s.ep.flit)]

/-- JournalHoldUpRequired in µs (spec 14 R492). -/
def holdUpRequired (s : State) : Nat := 400 + ceilDiv (cfgN s 0x4300 2 * 1048576) 6000

def valCart (s : State) (i sub : Nat) : Bytes :=
  let c := s.cart i
  match sub with
  | 1 => [byteOf c.state]
  | 2 => [byteOf c.reason]
  | 3 => padTo 16 (slice c.identity 8 16)
  | 4 => beBytes 8 (cartCapacity c)
  | 5 => beBytes 8 (cartUsable c)
  | 6 => beBytes 8 (cartEndurance c)
  | 7 => [byteOf (cartLife c)]
  | 8 => padTo 8192 c.identity
  | 0xB => testStatus false s i
  | 0xD => [byteOf (sanitizeShown s i)]
  | 0xE => [byteOf (rebuildShown s i)]
  | 0x10 => beBytes 8 c.media.written
  | 0x11 => beBytes 8 c.media.readCount
  | 0x12 => beBytes 8 c.media.mediaErrors
  | 0x13 => beBytes 8 c.media.remapped
  | _ => beBytes 8 c.media.lost

/-! ### Every object -/

/-- The value of a read-only object, for a requester. -/
def roValue (s : State) (who idx sub : Nat) : Bytes :=
  if idx = 0x1000 then valIdentity sub
  else if idx = 0x1100 then
    (match sub with
      | 1 => beBytes 4 0x10000
      | 2 => beBytes 4 s.dict.epoch
      | _ => beBytes 4 (((loadedStore s.boot.store).map (·.counter)).getD 0))
  else if idx = 0x1120 then [byteOf s.dict.storeStatus]
  else if idx = 0x1140 then time96 ((tokenOf s who).getD 0)
  else if 0x1150 ≤ idx ∧ idx ≤ 0x118F then valSession s (idx - 0x114F) sub
  else if idx = 0x1200 then (if sub = 1 then time96 (timeNow s) else [byteOf s.time.state])
  else if idx = 0x1202 then
    (match sub with
      | 0x10 => beBytes 8 s.time.offset
      | 0x11 => beBytes 8 s.time.delay
      | _ => beBytes 2 s.time.parent)
  else if idx = 0x1203 then time96 s.time.ppsInLast
  else if (idx = 0x1300 ∧ sub ≤ 3) ∨ idx = 0x1301 ∨ idx = 0x1302 ∨ (idx = 0x1303 ∧ sub = 1) ∨ idx = 0x1304 then valBoard s idx sub
  else if idx = 0x1400 then valFirmware s sub
  else if idx = 0x1401 ∨ idx = 0x1402 then valSlot s (idx - 0x1401) sub
  else if idx = 0x1420 then attestationReport s who
  else if idx = 0x1430 ∧ sub = 1 then [byteOf s.boot.dikeState]
  else if idx = 0x1430 ∧ sub = 6 then dikeLimits s
  else if idx = 0x1431 then dikeLogBytes s
  else if idx = 0x1501 then arrayOf 8 1 (testDie s)
  else if idx = 0x1502 then arrayOf 8 8 (fun d => Tab.get 0 s.test.sig d)
  else if idx = 0x1503 then arrayOf 8 1 (fun d => Tab.get 0 s.test.result d)
  else if idx = 0x1504 then beBytes 8 s.test.runs
  else if idx = 0x1600 then arrayOf 512 4 (fun n => Tab.get 0 s.evt.count n)
  else if idx = 0x1601 then arrayOf 16 4 (evtStat s)
  else if idx = 0x1603 then portMapBytes s.evt.portMap
  else if 0x2000 ≤ idx ∧ idx < 0x2200 then valPort s (idx - 0x2000) sub
  else if 0x2200 ≤ idx ∧ idx < 0x2400 then valQueues s (idx - 0x2200) sub
  else if 0x2400 ≤ idx ∧ idx < 0x2600 then valGates s (idx - 0x2400) sub
  else if idx = 0x2782 then beBytes 2 (countWhere s.frer (fun f => decide (f.mode = 1 ∨ f.mode = 2)))
  else if 0x2800 ≤ idx ∧ idx < 0x2900 then valClassifier s idx sub
  else if idx = 0x2903 then valTables s sub
  else if idx = 0x2A02 then valFlow s sub
  else if 0x2B02 ≤ idx ∧ idx ≤ 0x2B06 then valBuffers s idx sub
  else if 0x3000 ≤ idx ∧ idx ≤ 0x3FFF then valPolder s (idx - 0x3000) sub
  else if idx = 0x4001 then valHostLink s sub
  else if idx = 0x4002 ∧ sub = 3 then beBytes 2 s.ep.quarantine.length
  else if idx = 0x4080 then valPools s sub
  else if idx = 0x4081 then (List.range 512).map (fun b => byteOf ((List.range 8).foldl (fun a i =>
      if Tab.get false s.polders.faultMap (8 * b + i) then bitSet a i else a) 0))
  else if idx = 0x4090 ∧ sub = 4 then beBytes 4 (countWhere s.wq.queues (fun q => decide (q.st ≠ .disabled)))
  else if idx = 0x4101 ∧ sub = 1 then beBytes 2 (coresInService s)
  else if idx = 0x4101 ∧ sub = 7 then beBytes 4 (countWhere s.cipher.slots (fun k => decide (k.key ≠ [])))
  else if idx = 0x4202 then (List.range 2).flatMap (fun md => beBytes 8 (ddrWindow s md).1 ++ beBytes 8 (ddrWindow s md).2)
  else if idx = 0x4300 ∧ sub = 4 then [byteOf s.jrn.state]
  else if idx = 0x4300 ∧ sub = 5 then beBytes 4 (holdUpRequired s)
  else if idx = 0x4301 ∨ idx = 0x4302 then valCart s (idx - 0x4301) sub
  else beBytes 8 (counter s idx sub)

/-- The value of an object, for a requester: type definitions, subindex 0 of a record (spec 02 R46, R55),
read-only objects, AttestationNonce and DikeDmaWindows, and the running values. -/
def objValue (s : State) (who idx sub : Nat) (r : ObjRow) : Bytes :=
  if 1 ≤ idx ∧ idx ≤ 12 then [byteOf idx]
  else if sub = 0 ∧ (objRowsAt idx).all (fun x => decide (x.subFirst ≠ 0)) then [byteOf (objHighest idx)]
  else if r.acc = .ro then roValue s who idx sub
  else if idx = 0x1421 then Tab.get (zeros 32) s.boot.nonces who
  else if idx = 0x1440 then s.boot.dmaWindows
  else cfg s idx sub

end Sys2Proof.Machine
end

