-- ==== Sys2Proof/Machine/Dictionary.lean ====
section
/-! DEFINITION. The requests of the object dictionary (spec 02): reads and writes of values, block transfers,
subscriptions, the store, service tokens, session keys, and the mailbox's GO. What a written value must
meet, and what it sets off, is the owning chapter's. -/

namespace Sys2Proof.Machine

/-! ### Ranges of values (the object table of every chapter; R52) -/

/-- The elements of an array value. -/
def elems (len : Nat) (b : Bytes) : List Nat := (List.range (b.length / len)).map (fun i => beField b (i * len) len)

/-- An address object: prefix length, and three zero bytes (Table 2.9). -/
def addressOk (len bits : Nat) (v : Bytes) : Bool := decide (byteAt v len ≤ bits) && decide (slice v (len + 1) 3 = zeros 3)

/-- Is a well-encoded value in the range its table gives, beyond the bounds of its row? -/
def rangeOf (idx sub : Nat) (v : Bytes) : Bool :=
  let n := beNat v
  let all := fun (len : Nat) (f : Nat → Bool) => (elems len v).all f
  let portNo := decide (n < 512 ∨ n = 0xFFFF)
  if 0x2000 ≤ idx ∧ idx < 0x2200 then
    (match sub with
      | 4 => decide (n ≤ 2 ∨ n = 0xFF)
      | 8 => portNo
      | 9 => decide (n < 16)
      | 0xC => decide (n = 0 ∨ 100 ≤ n)
      | _ => true)
  else if 0x2200 ≤ idx ∧ idx < 0x2400 then
    (match sub with
      | 1 => all 1 (fun x => decide (x ≤ 1))
      | 2 => all 2 (fun x => decide (1 ≤ x))
      | 4 => all 4 (fun x => decide (x = 0 ∨ (64 ≤ x ∧ x ≤ 100000000)))
      | 5 => all 4 (fun x => decide (1600 ≤ x ∧ x ≤ 16777216))
      | 6 => decide (n = 0 ∨ 64 ≤ n)
      | 8 => all 4 (fun x => decide (x ≤ 196608))
      | 0xA => all 4 (fun x => decide (x ≤ 1000000))
      | 0xB => all 1 (fun x => decide (x ≤ 7))
      | _ => true)
  else if idx = 0x1104 ∨ idx = 0x1105 then addressOk 4 32 v
  else if idx = 0x1106 then addressOk 16 128 v
  else if idx = 0x1204 ∧ (sub = 1 ∨ sub = 3) then portNo
  else if idx = 0x2801 ∧ sub = 7 then decide (1 ≤ n ∧ n ≤ 7)
  else if idx = 0x2902 ∧ sub = 1 then all 2 (fun x => decide (1 ≤ x ∧ x ≤ 4094))
  else if idx = 0x2A00 ∧ sub = 2 then decide (n % 2 = 0)
  else if idx = 0x2B01 then all 2 (fun x => decide (x ≤ 8192))
  else if 0x3000 ≤ idx ∧ idx ≤ 0x3FFF ∧ sub = 9 then all 4 (fun x => decide (x ≤ 65536))
  else true

/-- Is a well-encoded value in its range? -/
def inRange (idx sub : Nat) (r : ObjRow) (v : Bytes) : Bool :=
  (!isScalar r.ty || (decide (r.lo ≤ scalarOf r.ty v) && decide (scalarOf r.ty v ≤ r.hi))) && rangeOf idx sub v

/-! ### What the owning blocks refuse (R53) -/

def tablesUsed (s : State) : Bool := s.tables.fdb.any (fun e => e.2.valid) || s.tables.stream.any (fun e => e.2.valid)

/-- STATE, whatever value is written. -/
def stateAborts (s : State) (idx sub : Nat) : Bool :=
  if 0x2000 ≤ idx ∧ idx < 0x2200 then
    let p := idx - 0x2000
    (decide (sub = 1 ∨ sub = 3 ∨ sub = 4) && adminEnable s p) || (decide (sub = 8) && decide ((s.port p).frrState = 1))
  else if 0x2200 ≤ idx ∧ idx < 0x2400 then
    decide (sub = 1 ∨ sub = 3 ∨ sub = 9 ∨ sub = 0xB ∨ sub = 0xC) && adminEnable s (idx - 0x2200)
  else if idx = 0x1200 then decide (timeSource s ≠ 0)
  else if idx = 0x2801 ∧ 7 ≤ sub ∧ sub ≤ 9 then flowUsed s
  else if idx = 0x2900 ∧ sub = 5 then tablesUsed s
  else if idx = 0x4300 ∧ sub = 1 then s.jrn.spaces.any (fun e => e.2.defined)
  else if idx = 0x1140 then decide (s.time.state = tsUNSET)
  else if idx = 0x1410 then activating s
  else false

/-- The UDP ports that the parser recognizes, no two of which may be equal (R89, 04 R168, 13 R454). -/
def udpTaken (s : State) (idx sub n : Nat) : Bool :=
  let others := ([(0x1101, 0), (0x2801, 0xB), (0x2801, 0xC), (0x4200, 1)] : List (Nat × Nat)).filter (fun e => decide (e ≠ (idx, sub)))
  decide (n = 319 ∨ n = 320) || others.any (fun e => decide (cfgN s e.1 e.2 = n))

/-- PortMode `m` of port `p` (03 R95, R99, R115, R119). -/
def portModeAborts (s : State) (p m : Nat) : List Nat :=
  let lane := p % 4
  let base := p - lane
  abortIf ((decide (m = 6) && decide (lane = 0) && [1, 2, 3].any (fun i => portExists s (p + i)))
      || (decide (m ≠ 0) && decide (lane ≠ 0) && decide (portMode s base = 6))
      || (decide (m = 0) && decide (primariesOf s p ≠ []))) aSTATE
  ++ abortIf ((decide (m = 6) && decide (lane ≠ 0)) || !fecAllowed m (cfgN s (0x2000 + p) 4)
      || (decide (cfgN s 0x1204 1 = p) && synceTooFast m (cfgN s 0x1204 2))
      || (decide (cfgN s 0x1204 3 = p) && synceTooFast m (cfgN s 0x1204 4))) aRANGE

/-- The combinations of profile, role and domain that R109 disallows. -/
def ptpBad (profile role domain : Nat) : Bool := decide (profile = 1 ∧ role = 3) || decide (profile = 3 ∧ 127 < domain)

/-- ΣM with a change of one of its terms on every die, under a floor (07 R246). -/
def minimaOver (s : State) (new old pct : Nat) : Bool :=
  (List.range 4).any (fun d => decide (minimaCap pct < minimaSum s d + new - old)) && decide (old < new)

/-- The records per µs that the sampler of a die writes, with new periods for one port (08 R289). -/
def sampleRate (s : State) (port : Nat) (periods : List Nat) : Rat :=
  let die := dieOf port
  let of : Nat → List Nat := fun p => if p = port then periods else elems 4 (cfg s (0x2200 + p) 0xA)
  (((List.range 128).flatMap (fun i => of (die * 128 + i))).map (fun (x : Nat) => if x = 0 then (0 : Rat) else 1 / (x : Rat))).sum

/-- Service tokens (R86, R87); the key is that of the running image's certificates. -/
def tokenBad (s : State) (who : Nat) (v : Bytes) : Bool :=
  let from' := ofTime96 (slice v 20 12)
  let until' := ofTime96 (slice v 32 12)
  !(Config.falconVerify (Config.serviceKey s.boot.running.certs) (v.take 64) (slice v 64 1280)
    && decide (slice v 0 16 = padTo 16 Config.deviceSerial) && decide (beField v 16 2 = who)
    && decide (from' ≤ timeNow s ∧ timeNow s ≤ until') && decide (until' ≤ from' + 28800 * unitsPerSec)
    && !s.dict.nonces.contains (slice v 44 20))

/-- What the owning block refuses of a well-encoded value (R53, R89 and the rules of each chapter). -/
def ownerAborts (s : State) (who idx sub : Nat) (v : Bytes) : List Nat :=
  let n := beNat v
  let profile := cfgN s 0x1202 1
  let role := cfgN s 0x1202 2
  let domain := cfgN s 0x1202 3
  if idx = 0x1101 ∨ (idx = 0x2801 ∧ (sub = 0xB ∨ sub = 0xC)) ∨ (idx = 0x4200 ∧ sub = 1) then abortIf (udpTaken s idx sub n) aRANGE
  else if 0x2000 ≤ idx ∧ idx < 0x2200 then
    let p := idx - 0x2000
    (match sub with
      | 1 => portModeAborts s p n
      | 4 => abortIf (!fecAllowed (portMode s p) n) aRANGE
      | 8 => abortIf (decide (n < 512) && (decide (n = p) || !portExists s n)) aRANGE
      | _ => [])
  else if 0x2200 ≤ idx ∧ idx < 0x2400 then
    let p := idx - 0x2200
    (match sub with
      | 1 => abortIf (byteAt v (injectionTc s p) = 1) aSTATE
      | 9 => abortIf (queueScheduled s p n) aSTATE
      | 0xA => abortIf (decide (16 < sampleRate s p (elems 4 v))) aRESOURCE
      | _ => [])
  else if idx = 0x1202 then
    (match sub with
      | 1 => abortIf (ptpBad n role domain) aRANGE
      | 2 => abortIf (ptpBad profile n domain) aRANGE
      | 3 => abortIf (ptpBad profile role n) aRANGE
      | _ => [])
  else if idx = 0x1204 then
    (match sub with
      | 1 => abortIf (decide (n < 512) && synceTooFast (portMode s n) (cfgN s 0x1204 2)) aRANGE
      | 2 => abortIf (decide (cfgN s 0x1204 1 < 512) && synceTooFast (portMode s (cfgN s 0x1204 1)) n) aRANGE
      | 3 => abortIf (decide (n < 512) && synceTooFast (portMode s n) (cfgN s 0x1204 4)) aRANGE
      | 4 => abortIf (decide (cfgN s 0x1204 3 < 512) && synceTooFast (portMode s (cfgN s 0x1204 3)) n) aRANGE
      | _ => [])
  else if idx = 0x2B00 then
    (match sub with
      | 1 => abortIf ((List.range 4).any (fun d => decide (minimaCap n < minimaSum s d))) aRESOURCE
      | 2 => abortIf (minimaOver s n (cfgN s 0x2B00 2) (cfgN s 0x2B00 1)) aRESOURCE
      | 3 => abortIf (minimaOver s n (cfgN s 0x2B00 3) (cfgN s 0x2B00 1)) aRESOURCE
      | _ => [])
  else if idx = 0x2B01 then
    let old := portMinimaSum (cfg s idx sub)
    let new := portMinimaSum v
    abortIf (decide (old < new) && decide (minimaCap (cfgN s 0x2B00 1) < minimaSum s (sub - 1) + new - old)) aRESOURCE
  else if idx = 0x4100 then
    (match sub with
      | 1 => abortIf (decide (192 < n + cfgN s 0x4100 2)) aRANGE
      | 2 => abortIf (decide (192 < cfgN s 0x4100 1 + n)) aRANGE
      | _ => [])
  else if idx = 0x1140 then abortIf (tokenBad s who v) aAUTH
  else []

/-! ### Access checks (R50, R51, R54) -/

/-- A write is refused before its value is looked at. -/
def writeAccess (q : Req) (r : ObjRow) : List Nat :=
  if r.acc = .ro then [aREAD_ONLY]
  else abortIf (decide (q.role < r.wr) || (decide (q.msg.index = 0x1440) && decide (q.session ≠ 0))) aROLE
    ++ abortIf (decide (r.acc = .act)) aTYPE

/-- A read is refused (R50, R51, R55): a READ carries type 0, or the value's own. -/
def readAccess (q : Req) (r : ObjRow) : List Nat :=
  abortIf (decide (r.acc = .wo ∨ r.acc = .act)) aWRITE_ONLY ++ abortIf (q.role < r.rd) aROLE
  ++ abortIf (decide (r.acc = .act) || decide (q.msg.ty ≠ 0 ∧ q.msg.ty ≠ r.ty)) aTYPE

/-- Everything that refuses a value, apart from a session key's blob. -/
def valueAborts (q : Req) (s : State) (r : ObjRow) (v : Bytes) : List Nat :=
  let idx := q.msg.index
  let sub := q.msg.sub
  if r.acc = .ro ∨ r.acc = .act then []
  else abortIf (stateAborts s idx sub) aSTATE
    ++ (if encodes r.ty r.len v then abortIf (!inRange idx sub r v) aRANGE ++ ownerAborts s q.session idx sub v else [aTYPE])

/-- Is the object a session's KeyBlob? -/
def isKeyBlob (idx sub : Nat) : Bool := decide (0x1150 ≤ idx ∧ idx ≤ 0x118F ∧ sub = 3)

/-- A KeyBlob is refused (12 R415, 02 R88). -/
def keyBlobBad (s : State) (v : Bytes) : Option Nat :=
  match sessionBlob s v with
  | .error a => some a
  | .ok _ => if (freeLocalSlot s 0).isNone then some aRESOURCE else none

/-! ### The effect of a write -/

/-- A session ends: its Vendor role and its subscriptions (R85, R87). -/
def sessionEnd (n : Nat) (s : State) : State :=
  modDict (fun d => { d with subs := d.subs.filter (fun u => decide (u.session ≠ n)) })
    (s.setSession n { s.session n with vendorUntil := none })

/-- The queues of a port whose mode changes begin anew (08 R266). -/
def requeue (s0 : State) (p : Nat) (s : State) : State :=
  forEach ((List.range 8).filter (fun tc => decide (queueScheduled s0 p tc ≠ queueScheduled s p tc))) (fun tc st =>
    let x := withdrawStamp tc (st.psched p)
    let bare := setPortQueue tc ((portQueue x tc).map (fun f => { f with stamped := false })) x
    st.setPsched p (stampQueue st p tc { bare with fvalid := bitClear bare.fvalid tc })) s

/-- Samplers whose period changes begin a new track (08 R288). -/
def retrack (s0 : State) (p : Nat) (s : State) : State :=
  forEach ((List.range 8).filter (fun tc => decide (samplePeriod s0 p tc ≠ samplePeriod s p tc))) (fun tc st =>
    st.setPsched p { st.psched p with track := Tab.set Track.reset (st.psched p).track tc Track.reset }) s

/-- A service token is accepted (R87). -/
def takeToken (who : Nat) (v : Bytes) (s : State) : State :=
  let until' := ofTime96 (slice v 32 12)
  let s1 := modDict (fun d => { d with nonces := d.nonces ++ [slice v 44 20] }) s
  if who = 0 then modDict (fun d => { d with mbxVendor := some until' }) s1
  else s1.setSession who { s1.session who with vendorUntil := some until' }

/-- A session's key is loaded from a KeyBlob that passes its checks (R79, R80, 12 R415). -/
def takeKeyBlob (n : Nat) (v : Bytes) (s : State) : State :=
  loadSessionKey n v (setVal (0x114F + n) 3 v
    (modBoot (fun b => { b with asideKeys := b.asideKeys.filter (fun e => decide (e ≠ (n, v))) }) s))

/-- What a written value sets off in the block that owns it; `s0` is the state before the write. -/
def writeEffect (q : Req) (s0 : State) (s : State) : State :=
  let idx := q.msg.index
  let sub := q.msg.sub
  if 0x2000 ≤ idx ∧ idx < 0x2200 then (if sub ≤ 2 then portAdminChanged (idx - 0x2000) s else s)
  else if 0x2200 ≤ idx ∧ idx < 0x2400 then
    (match sub with
      | 1 => requeue s0 (idx - 0x2200) s
      | 5 => burstsChanged s0 (idx - 0x2200) s
      | 7 => burstsChanged s0 (idx - 0x2200) s
      | 0xA => retrack s0 (idx - 0x2200) s
      | _ => s)
  else if 0x2400 ≤ idx ∧ idx < 0x2600 ∧ sub = 1 then
    (if gateEnabled s (idx - 0x2400) then s else gatesOff (idx - 0x2400) s)
  else if idx = 0x1200 then setRate (cfgI s 0x1200 5) s
  else if idx = 0x1201 then
    (if timeSource s0 ≠ timeSource s ∧ s.time.state ≠ tsUNSET then modTime (fun b => { b with state := tsFREE }) s else s)
  else if idx = 0x2B00 ∨ idx = 0x2B01 then lowCheckAll s
  else if idx = 0x4201 ∧ sub = 1 then (if cfgN s0 idx 1 = 0 ∨ cfgN s idx 1 = 0 then ratesFromPorts s else s)
  else if 0x3000 ≤ idx ∧ idx ≤ 0x3FFF then
    let n := idx - 0x3000
    let p := s.polder n
    if sub ≤ 9 then s.setPolder n { p with staged := bitSet p.staged sub }
    else if p.state = 1 then logPolder q.origin n false (savePolder n 1 q.flash s) else s
  else if 0x1150 ≤ idx ∧ idx ≤ 0x118F ∧ sub = 1 then
    (if cfgN s idx 1 = 0 then sessionEnd (idx - 0x114F) s else s)
  else s

/-- A value that has passed its checks is written. -/
def writeValue (q : Req) (v : Bytes) (s : State) : State :=
  let idx := q.msg.index
  let sub := q.msg.sub
  if idx = 0x1140 then takeToken q.session v s
  else if idx = 0x1421 then modBoot (fun b => { b with nonces := Tab.set (zeros 32) b.nonces q.session v }) s
  else if idx = 0x1440 then setDmaWindows v q s
  else if isKeyBlob idx sub then takeKeyBlob (idx - 0x114F) v s
  else writeEffect q s (logObject q.origin (setVal idx sub v s))

/-- KeyBlob and SessionEnable of a session, written by the session itself, take effect after the response (R94). -/
def afterResponse (q : Req) : Bool :=
  decide (q.session ≠ 0 ∧ q.msg.index = 0x114F + q.session ∧ (q.msg.sub = 1 ∨ q.msg.sub = 3))

/-! ### READ and WRITE -/

def readValue : Handler := fun q s =>
  match objDesc q.msg.index q.msg.sub with
  | none => (s, .abort ((firstAbort (missing q.msg.index q.msg.sub)).getD aNO_OBJECT))
  | some r =>
    let v := objValue s q.session q.msg.index q.msg.sub r
    match firstAbort (readAccess q r ++ abortIf (q.limit < v.length) aTYPE) with
    | some a => (s, .abort a)
    | none => (s, .ok 0 v.length r.ty v)

def kindIs (k : Nat) (m : Msg) : Bool := decide (m.kind = k)

/-- READ (R71, R50, R51). -/
def execRead (r : Rq) (s : State) : Host.Outcome State Fault Refusal :=
  .next (fdpServe (kindIs 1) readValue (fun _ st => st) r s)

/-- The end of a write: its effect now, or after the response. -/
def writeNow (q : Req) (v : Bytes) (s : State) : State := if afterResponse q then s else writeValue q v s

def writeOne : Handler := fun q s =>
  match objDesc q.msg.index q.msg.sub with
  | none => (s, .abort ((firstAbort (missing q.msg.index q.msg.sub)).getD aNO_OBJECT))
  | some r =>
    let v := q.msg.data
    match firstAbort (writeAccess q r ++ abortIf (q.msg.ty ≠ r.ty) aTYPE ++ valueAborts q s r v) with
    | some a => (s, .abort a)
    | none =>
      match if isKeyBlob q.msg.index q.msg.sub then keyBlobBad s v else none with
      | some a => (blobRefused s v, .abort a)
      | none => (writeNow q v s, .done)

/-- What a write does after its response. -/
def writePost (q : Req) (s : State) : State := if afterResponse q then writeValue q q.msg.data s else s

/-! ### Subscriptions (R84, R85) -/

/-- A NOTIFY of a subscription with a value. -/
def notify (t : Nat) (u : Subscr) (v : Bytes) (s : State) : State :=
  match objDesc u.index u.sub with
  | none => s
  | some r =>
    let s1 := modDict (fun d => { d with subs := d.subs.map (fun x =>
      if x.number = u.number then { x with last := v, sentAt := t } else x) }) s
    if sessionOpen s u.session then
      netSend u.session u.port (sessionKey s (s.session u.session)) 0 7 0 u.index u.sub r.ty u.number v.length v s1
    else s1

/-- The value of a subscription's object. -/
def subValue (s : State) (u : Subscr) : Bytes :=
  match objDesc u.index u.sub with
  | none => []
  | some r => objValue s u.session u.index u.sub r

/-- Sends what is due of one subscription: at the end of its period, or when the value has changed and the
minimum interval has passed. -/
def notifyOne (t : Nat) (u : Subscr) (s : State) : State :=
  let v := subValue s u
  if u.period ≠ 0 then (if u.sentAt + u.period * 10 ^ 9 ≤ t then notify t u v s else s)
  else if v ≠ u.last ∧ u.sentAt + u.interval * 10 ^ 9 ≤ t then notify t u v s else s

/-- On-change subscriptions meet a write at once (log entry 58). -/
def notifyChanges (s : State) : State :=
  forEach (s.dict.subs.filter (fun u => decide (u.period = 0))) (fun u st => notifyOne st.clock u st) s

/-- SUBSCRIPTION_TIMER. -/
def execSubscriptionTimer (t number : Nat) (s : State) : Host.Outcome State Fault Refusal :=
  let s1 := advance t s
  .next (match s1.dict.subs.find? (fun u => decide (u.number = number)) with
    | some u => notifyOne t u s1
    | none => s1)

/-- A number that no subscription holds; the spec does not say which is given (log entry 59). -/
def newNumber (s : State) : Nat × State :=
  let r := drawNat s
  (((List.range 257).map (fun i => (r.1 + i) % 65536)).find? (fun n => !s.dict.subs.any (fun u => decide (u.number = n))) |>.getD 0, r.2)

/-- A subscription is made or replaced (R84). The first minimum interval of one on change runs from the
SUBSCRIBE (DESIGN CHOICE, log entry 109). -/
def subscribeOne : Handler := fun q s =>
  let m := q.msg
  match objDesc m.index m.sub with
  | none => (s, .abort ((firstAbort (missing m.index m.sub ++ abortIf (q.session = 0) aSTATE)).getD aNO_OBJECT))
  | some r =>
    let v := objValue s q.session m.index m.sub r
    let mine := s.dict.subs.filter (fun u => decide (u.session = q.session))
    let old := if m.pa = 0 then mine.find? (fun u => decide (u.index = m.index ∧ u.sub = m.sub)) else none
    let bad := abortIf (q.session = 0) aSTATE ++ readAccess q r ++ abortIf (q.limit < v.length) aTYPE
      ++ abortIf (decide (1 ≤ m.pa ∧ m.pa ≤ 999) || decide (1 ≤ m.pb ∧ m.pb ≤ 999)) aRANGE
      ++ abortIf (old.isNone && (decide (256 ≤ s.dict.subs.length) || decide (32 ≤ mine.length))) aBUSY
    match firstAbort bad with
    | some a => (s, .abort a)
    | none =>
      let k : Nat × State := match old with
        | some u => (u.number, s)
        | none => newNumber s
      let u : Subscr :=
        { number := k.1, session := q.session, port := q.port, index := m.index, sub := m.sub, period := m.pa
          interval := if m.pb = 0 then 1000 else m.pb, last := v, sentAt := s.clock }
      (modDict (fun d => { d with subs := d.subs.filter (fun x => decide (x.number ≠ k.1)) ++ [u] }) k.2, .ok k.1 0 0 [])

/-- SUBSCRIBE (R84). -/
def execSubscribe (r : Rq) (s : State) : Host.Outcome State Fault Refusal :=
  .next (fdpServe (kindIs 6) subscribeOne (fun _ st => st) r s)

/-- UNSUBSCRIBE (R84). -/
def execUnsubscribe (r : Rq) (s : State) : Host.Outcome State Fault Refusal :=
  .next (serveAction (at0 0x1120 4)
    (fun q s => abortIf (!s.dict.subs.any (fun u => decide (u.number = beNat q.msg.data)
      && (decide (q.session = 0) || decide (u.session = q.session)))) aRANGE)
    (fun q s => (modDict (fun d => { d with subs := d.subs.filter (fun u => decide (u.number ≠ beNat q.msg.data)) }) s, .done)) r s)

/-! ### Writes -/

/-- Objects that have a write command of their own. -/
def ownWrite (m : Msg) : Bool := isKeyBlob m.index m.sub || decide (m.index = 0x1140 ∧ m.sub = 1) || decide (m.index = 0x1440)

/-- WRITE (R52). -/
def execWrite (r : Rq) (s : State) : Host.Outcome State Fault Refusal :=
  .next (notifyChanges (fdpServe (fun m => kindIs 2 m && !ownWrite m) writeOne writePost r s))

/-- KEY_BLOB (12 R415, R75, R79, R94). -/
def execKeyBlob (r : Rq) (s : State) : Host.Outcome State Fault Refusal :=
  .next (notifyChanges (fdpServe (fun m => kindIs 2 m && isKeyBlob m.index m.sub) writeOne writePost r s))

/-- SERVICE_TOKEN (R87). -/
def execServiceToken (r : Rq) (s : State) : Host.Outcome State Fault Refusal :=
  .next (notifyChanges (fdpServe (fun m => kindIs 2 m && decide (m.index = 0x1140 ∧ m.sub = 1)) writeOne writePost r s))

/-- DIKE_DMA_WINDOWS (15 R531). -/
def execDikeDmaWindows (r : Rq) (s : State) : Host.Outcome State Fault Refusal :=
  .next (notifyChanges (fdpServe (fun m => kindIs 2 m && decide (m.index = 0x1440)) writeOne writePost r s))

/-- TOKEN_EXPIRY (R87). -/
def tokenExpiry (session : Nat) (s : State) : State :=
  match tokenOf s session with
  | none => s
  | some e =>
    if timeNow s < e then s
    else if session = 0 then modDict (fun d => { d with mbxVendor := none }) s
    else s.setSession session { s.session session with vendorUntil := none }

def execTokenExpiry (t session : Nat) (s : State) : Host.Outcome State Fault Refusal :=
  .next (tokenExpiry session (advance t s))

/-! ### Block transfers (R82, R83, 15 R526, R527) -/

/-- The 10 s after which a block transfer that nobody goes on with ends (R82, R83). -/
def blockIdle : Nat := 10 ^ 16

/-- A snapshot, unless 10 s have passed without a request (R82). -/
def snapOf (s : State) (who idx sub : Nat) : Option Bytes :=
  (s.dict.snaps.find? (fun x => decide (x.session = who ∧ x.index = idx ∧ x.sub = sub)
    && decide (s.clock < x.at_ + blockIdle))).map (·.bytes)

def dropSnap (who idx sub : Nat) (s : State) : State :=
  modDict (fun d => { d with snaps := d.snaps.filter (fun x => !decide (x.session = who ∧ x.index = idx ∧ x.sub = sub)) }) s

def readBlockOne : Handler := fun q s =>
  let m := q.msg
  let held := snapOf s q.session m.index m.sub
  let broken := abortIf (decide (m.pa ≠ 0) && held.isNone) aSTATE
  match objDesc m.index m.sub with
  | none => (s, .abort ((firstAbort (missing m.index m.sub ++ broken)).getD aNO_OBJECT))
  | some r =>
    let bad := readAccess q r ++ broken
      ++ abortIf (match held with
        | some b => decide (m.pa ≠ 0) && decide (b.length < m.pa)
        | none => false) aRANGE
    match firstAbort bad with
    | some a => (s, .abort a)
    | none =>
      let b := match held with
        | some b => if m.pa = 0 then objValue s q.session m.index m.sub r else b
        | none => objValue s q.session m.index m.sub r
      let s1 := modDict (fun d => { d with snaps := d.snaps ++
          [{ session := q.session, index := m.index, sub := m.sub, bytes := b, at_ := s.clock }] })
        (dropSnap q.session m.index m.sub s)
      let out := slice b m.pa (min m.pb q.limit)
      (s1, .ok m.pa b.length (if out = [] then 0 else r.ty) out)

/-- READ_BLOCK (R82). -/
def execReadBlock (r : Rq) (s : State) : Host.Outcome State Fault Refusal :=
  .next (fdpServe (kindIs 3) readBlockOne (fun _ st => st) r s)

/-- SNAPSHOT_EXPIRY (R82): a snapshot that 10 s have passed over ends. -/
def execSnapshotExpiry (t session : Nat) (w : ObjectSub) (s : State) : Host.Outcome State Fault Refusal :=
  let s1 := advance t s
  .next (if (snapOf s1 session w.index w.sub).isNone then dropSnap session w.index w.sub s1 else s1)

/-- A staging, unless 10 s have passed without a block (R83). -/
def stagedOf (s : State) (who idx sub : Nat) : Option Bytes :=
  (s.dict.stagings.find? (fun x => decide (x.session = who ∧ x.index = idx ∧ x.sub = sub)
    && decide (s.clock < x.at_ + blockIdle))).map (·.bytes)

def clearStaging (who idx sub : Nat) (s : State) : State :=
  modDict (fun d => { d with stagings := d.stagings.filter (fun x => !decide (x.session = who ∧ x.index = idx ∧ x.sub = sub)) }) s

/-- A staging is discarded; a slot being staged becomes invalid with reason 1 (15 R527). -/
def dropStaging (who idx sub : Nat) (s : State) : State :=
  if !s.dict.stagings.any (fun x => decide (x.session = who ∧ x.index = idx ∧ x.sub = sub)) then s
  else
    let s1 := clearStaging who idx sub s
    if idx = 0x1410 then setSlot (inactiveSlot s) { state := 2, other := 1, hdr := ImgHdr.none } s1 else s1

/-- A staging grows; the first block of an image erases the inactive slot (15 R527). -/
def putStaging (q : Req) (b : Bytes) (s : State) : State :=
  let s1 := modDict (fun d => { d with stagings := d.stagings ++
      [{ session := q.session, index := q.msg.index, sub := q.msg.sub, total := q.msg.pb, bytes := b, at_ := s.clock }] })
    (clearStaging q.session q.msg.index q.msg.sub s)
  if q.msg.index = 0x1410 then setSlot (inactiveSlot s) { state := 1, other := 1, hdr := ImgHdr.none } s1 else s1

/-- BUSY: another requester's staging of FirmwareStage is open (15 R527). -/
def stageBusy (q : Req) (s : State) : Bool :=
  decide (q.msg.index = 0x1410 ∧ q.msg.pa = 0)
  && s.dict.stagings.any (fun x => decide (x.index = 0x1410 ∧ x.session ≠ q.session) && decide (s.clock < x.at_ + blockIdle))

/-- The whole value has come: it is checked and written (R83). -/
def finishBlocks (q : Req) (v : Bytes) (s : State) : State × Reply :=
  let m := q.msg
  let done : Reply := .ok m.pa v.length 0 []
  if m.index = 0x1410 then
    let x := slotOfImage v
    let s1 := setSlot (inactiveSlot s) x (clearStaging q.session m.index m.sub s)
    (s1, if slotReason s.boot.rollback x = 0 then done else .abort aAUTH)
  else
    match if isKeyBlob m.index m.sub then keyBlobBad s v else none with
    | some a => (clearStaging q.session m.index m.sub (blobRefused s v), .abort a)
    | none =>
      if afterResponse q then (putStaging q v s, done)
      else (writeValue q v (clearStaging q.session m.index m.sub s), done)

/-- A block of a write (R83). A block of offset 0 starts the staging anew, a last block's total is the length
staged, and a service token comes in one WRITE only, R87 (log entry 79). -/
def writeBlockOne : Handler := fun q s =>
  let m := q.msg
  let held := stagedOf s q.session m.index m.sub
  let broken := decide (m.pa ≠ 0) && decide (held.map (·.length) ≠ some m.pa)
  match objDesc m.index m.sub with
  | none => (s, .abort ((firstAbort (missing m.index m.sub ++ abortIf broken aSTATE)).getD aNO_OBJECT))
  | some r =>
    let more := m.flags.testBit 2
    let v := if m.pa = 0 then m.data else held.getD [] ++ m.data
    let early := writeAccess q r ++ abortIf ((decide (m.ty ≠ r.ty) && (decide (m.ty ≠ 0) || decide (m.data ≠ [])))
        || decide (m.index = 0x1140 ∧ m.sub = 1)) aTYPE
      ++ abortIf (broken || (decide (m.index = 0x1410) && activating s)) aSTATE
      ++ abortIf (decide (m.pb < v.length) || (!more && decide (m.pb ≠ v.length))) aRANGE
      ++ abortIf (stageBusy q s) aBUSY
    match firstAbort (early ++ (if more || broken then [] else valueAborts q s r v)) with
    | some a => (if broken || (!more && !stageBusy q s) then dropStaging q.session m.index m.sub s else s, .abort a)
    | none => if more then (putStaging q v s, .ok m.pa v.length 0 []) else finishBlocks q v s

/-- A staged write of a session's own key or enable takes effect after the response (R94). -/
def blockPost (q : Req) (s : State) : State :=
  if afterResponse q ∧ !q.msg.flags.testBit 2 then
    match stagedOf s q.session q.msg.index q.msg.sub with
    | some v => writeValue q v (clearStaging q.session q.msg.index q.msg.sub s)
    | none => s
  else s

/-- WRITE_BLOCK (R83). -/
def execWriteBlock (r : Rq) (s : State) : Host.Outcome State Fault Refusal :=
  .next (notifyChanges (fdpServe (kindIs 4) writeBlockOne blockPost r s))

/-- STAGING_EXPIRY (R83): a staging that 10 s have passed over is discarded. -/
def execStagingExpiry (t session : Nat) (w : ObjectSub) (s : State) : Host.Outcome State Fault Refusal :=
  let s1 := advance t s
  .next (if (stagedOf s1 session w.index w.sub).isNone then dropStaging session w.index w.sub s1 else s1)

/-- KEPT_RESPONSE_EXPIRY (R81): a response kept for 1 s leaves. -/
def execKeptResponseExpiry (t : Nat) (w : KeptId) (s : State) : Host.Outcome State Fault Refusal :=
  let s1 := advance t s
  let x := s1.session w.session
  .next (match x.kept.find? (fun k => decide (k.reqId = w.reqId) && !keptLive s1 k) with
    | some k => s1.setSession w.session { x with kept := x.kept.erase k }
    | none => s1)

/-! ### The store (R57 to R63) -/

/-- StoreAll or RestoreDefaults begins: the copy it writes is invalid until it is complete (R62). -/
def storeBegin (vals : Tab Bytes) (s : State) : State :=
  let r := otherCopy s.boot.store (·.valid) (·.counter)
  modBoot (fun b => { b with store := b.store.set r.1 StoreCopy.erased })
    (modDict (fun d => { d with storing := some vals, storeStatus := 1 }) s)

/-- The RWP values that differ from their default (R58). -/
def storedVals (s : State) : Tab Bytes :=
  s.dict.vals.filter (fun e => match objDesc (e.1 / 256) (e.1 % 256) with
    | some r => decide (r.acc = .rwp)
    | none => false)

def storeBusy (_ : Req) (s : State) : List Nat := abortIf s.dict.storing.isSome aBUSY

/-- STORE_ALL. -/
def execStoreAll (r : Rq) (s : State) : Host.Outcome State Fault Refusal :=
  .next (serveAction (at0 0x1120 1) storeBusy (fun _ s => (storeBegin (storedVals s) s, .later .storeAll)) r s)

/-- RESTORE_DEFAULTS (R59). -/
def execRestoreDefaults (r : Rq) (s : State) : Host.Outcome State Fault Refusal :=
  .next (serveAction (at0 0x1120 2) storeBusy (fun _ s => (storeBegin [] s, .later .restoreDefaults)) r s)

/-- The copy is written and read back; or the store fails, for its size or at the read-back (R58). -/
def storeEnd (ok : Bool) (s : State) : State :=
  match s.dict.storing with
  | none => s
  | some vals =>
    let fits := decide ((storePayload vals).length ≤ 1048576)
    let good := ok && fits
    let s1 := modDict (fun d => { d with storing := none, storeStatus := if good then 0 else 2 }) s
    let r := otherCopy s.boot.store (·.valid) (·.counter)
    let s2 := if good then
        modBoot (fun b => { b with store := b.store.set r.1 (StoreCopy.make r.2 vals) }) s1
      else raise 1 s1
    let res := if good then none else some aPERSIST_FAIL
    answerAct .restoreDefaults res (answerAct .storeAll res s2)

/-- STORE_ALL_COMPLETE. -/
def execStoreAllComplete (t : Nat) (readBackOk : Bool) (s : State) : Host.Outcome State Fault Refusal :=
  .next (storeEnd readBackOk (advance t s))

/-! ### A restart of the cores by the Dike (R63, R67, 10 R359, 15 R533) -/

/-- Is a request a Commit, an Adjust, or a write of R345? -/
def polderChange (m : Msg) : Bool :=
  (decide (m.kind = 5) && (polderIdx 0x10 m.index m.sub || polderIdx 0x11 m.index m.sub))
  || (decide (m.kind = 2) && [0xA, 0xB, 0xC].any (fun k => polderIdx k m.index m.sub))

/-- The change that a Commit, an Adjust or a write of R345 makes. -/
def polderChangeReq : Handler := fun q s =>
  if q.msg.kind = 2 then writeOne q s else if q.msg.sub = 0x10 then commitReq q s else adjustReq q s

/-- A change that the restart interrupts takes effect if its record reached the polder area, and has none otherwise;
its answer is that of R67 and R90. -/
def interrupted (stored : Bool) : Handler := fun q s =>
  (if stored then (polderChangeReq { q with flash := true } s).1 else s, .later .interrupted)

/-- DIKE_HEARTBEAT_TIMEOUT (15 R533, R535): `during` is a polder change that was being carried out, and whether its
record was stored (10 R359). -/
def dikeHeartbeatTimeout (t reason : Nat) (during : Option (Rq × Bool)) (s : State) : State :=
  if !dikeDue t s then s
  else dikeRestart reason (match during with
    | some (r, stored) => fdpServe polderChange (interrupted stored) (fun _ st => st) r s
    | none => s)

def execDikeHeartbeatTimeout (w : Missed) (s : State) : Host.Outcome State Fault Refusal :=
  .next (dikeHeartbeatTimeout w.t w.reason w.during (advance w.t s))

/-! ### The mailbox (R65, R68) -/

/-- MBX_REQ as bytes: a register's bits [7:0] are its lowest address (00 R10). -/
def mbxBytes (s : State) (len : Nat) : Bytes :=
  ((List.range (ceilDiv len 4)).flatMap (fun i => leBytes 4 (Tab.get 0#32 s.mbx.req i).toNat)).take len

/-- A write of MBX_CTRL: LENGTH, and with GO the request (R65). -/
def mbxCtrl (v : Nat) (s : State) : State :=
  let len := bitsOf v 28 16
  let s1 := modMbx (fun m => { m with length := len }) s
  if !v.testBit 0 then s1
  else if s1.mbx.busy ∨ len < 28 ∨ 4096 < len then
    modMbx (fun m => { m with ignored := true, ignCnt := satAdd32 m.ignCnt 1 }) s1
  else mbxHeader (modMbx (fun m => { m with busy := true, accepted := some (mbxBytes s1 len) }) s1)

/-- MBX_GO. -/
def execMbxGo (t : Nat) (v : Word32) (s : State) : Host.Outcome State Fault Refusal :=
  .next (if barOpen s 0 then mbxCtrl v.toNat (advance t s) else barMissed 0 (advance t s))

end Sys2Proof.Machine
end

