-- ==== Sys2Proof/Machine/Flags.lean ====
section
/-! DEFINITION. The registers of the BARs as words: what a read returns, each status register's flags
computed from the state (spec 02 Table 2.5, 05 Table 5.3, 09 Tables 9.2 to 9.4, 11 Table 11.9, 16 Tables
16.5 to 16.7), and REGISTER_WRITE. -/

namespace Sys2Proof.Machine

def allOnes (size : Nat) : Nat := 2 ^ (8 * size) - 1

/-! ### Status words -/

/-- The four registers of a queue, by register number (Table 11.9). -/
def queueWord (x : Queue) (r : Nat) : Nat :=
  if r = 0 then (if x.st = .disabled then x.data.toNat else x.index % 65536)
  else if r = 1 then x.cmd % 256
  else if r = 2 then qStatWord x
  else if r = 3 then qErrIdxWord x
  else 0

/-- Queues a function may use (R305, Table 9.4 QUEUES). -/
def fnQueues (s : State) (fn : Nat) : Nat := if polderLive s fn then (s.polder fn).counts.queues else 0

/-- Q_FUNCINFO (Table 9.4). -/
def funcInfo (s : State) (fn : Nat) : Nat :=
  fn % 4096 + fnQueues s fn % 2048 * 65536 + boolNat (polderLive s fn) * 2 ^ 31

/-- Queues of a function parked for translation (Table 9.4 PARKED). -/
def parkedQueues (s : State) (fn : Nat) : Nat :=
  ((List.range (fnQueues s fn)).filter (fun q => decide ((s.queue fn q).st = .parked))).length

/-- Q_FUNCSTAT (Table 9.4). -/
def funcStat (s : State) (fn : Nat) : Nat :=
  boolNat (s.func fn).busMaster + 2 * boolNat (s.func fn).resetSeen + 4 * boolNat (s.func fn).priStopped
  + parkedQueues s fn % 65536 * 65536

/-- A word of a function block (Table 9.4). -/
def funcWord (s : State) (fn off : Nat) : Nat :=
  if off < 0x8000 then
    (if off / 32 < fnQueues s fn then queueWord (s.queue fn (off / 32)) (off % 32 / 4) else 0)
  else if off = 0x8000 then funcInfo s fn
  else if off = 0x8004 then funcStat s fn
  else 0

/-- TBL_STAT (Table 5.3). -/
def tblStatWord (s : State) : Nat :=
  boolNat s.tables.busy.isSome + s.tables.stat / 16 % 16 * 16 + s.tables.stat / 256 % 2 ^ 24 * 256

/-- A word of the TBL_ block (Table 5.3). -/
def tblWord (s : State) (off : Nat) : Nat :=
  if off = 0 then s.tables.cmd
  else if off = 4 then tblStatWord s
  else if off = 8 then s.tables.ignCnt
  else if 0x10 ≤ off ∧ off < 0x30 then (Tab.get 0#32 s.tables.data (off / 4 - 4)).toNat
  else 0

/-- MBX_STAT (Table 2.5). -/
def mbxStatWord (m : Mailbox) : Nat :=
  boolNat m.busy + 2 * boolNat m.done + 4 * boolNat m.ignored + 8 * boolNat m.restart + m.rspLength % 65536 * 65536

/-- A word of the MBX_ block (Table 2.5). -/
def mbxWord (s : State) (off : Nat) : Nat :=
  if off = 0 then s.mbx.length % 8192 * 65536
  else if off = 4 then mbxStatWord s.mbx
  else if off = 8 then s.mbx.ignCnt
  else if 0x1000 ≤ off ∧ off < 0x2000 then (Tab.get 0#32 s.mbx.req ((off - 0x1000) / 4)).toNat
  else if 0x2000 ≤ off ∧ off < 0x3000 then (Tab.get 0#32 s.mbx.rsp ((off - 0x2000) / 4)).toNat
  else 0

/-- EVT_SUMMARY (Table 16.5). -/
def evtSummary (s : State) : Nat :=
  (List.range 16).foldl (fun a g => if evtStat s g &&& evtMask s g ≠ 0 then bitSet a g else a) 0

/-- A word of the EVT_ block (Table 16.5). -/
def evtWord (s : State) (off : Nat) : Nat :=
  if off < 0x40 then evtStat s (off / 4)
  else if off < 0x80 then evtMask s (off / 4 - 16)
  else if off = 0x80 then evtSummary s
  else if 0x100 ≤ off ∧ off < 0x140 then Tab.get 0 s.evt.vector (off / 4 - 64)
  else 0

/-- A word of the CTR_ block (Table 16.6): CTR_HI gives what the last read of CTR_LO latched. -/
def ctrWord (s : State) (off : Nat) : Nat :=
  if off < 0x1000 then
    let c := devCtr s (off / 16)
    if off % 16 = 0 then c.sel.toNat
    else if off % 16 = 8 then c.value % 2 ^ 32
    else if off % 16 = 12 then c.latch % 2 ^ 16
    else 0
  else if off < 0x1020 then (Tab.get 0#32 s.evt.ovf ((off - 0x1000) / 4)).toNat
  else if off = 0x1020 then 2 * boolNat s.evt.freezeAll
  else 0

/-- A word of BAR0 (Table 9.3). -/
def bar0Word (s : State) (fn off : Nat) : Nat :=
  if off < 0x10000 then funcWord s fn off
  else if fn ≠ 0 then 0
  else if off < 0x20000 then tblWord s (off - 0x10000)
  else if off < 0x30000 then mbxWord s (off - 0x20000)
  else if off < 0x40000 then evtWord s (off - 0x30000)
  else if off < 0x50000 then ctrWord s (off - 0x40000)
  else 0

/-- A word of the counter page (Table 16.7, R555). -/
def pageWord (s : State) (fn off : Nat) : Nat :=
  if !pageOpen s fn then 0
  else
    let p := s.page fn
    if off < 0x40 then Tab.get 0 p.values (off / 8) / 2 ^ (off % 8 * 8) % 2 ^ 32
    else if off = 0x40 then p.ovf % 256
    else if 0x80 ≤ off ∧ off < 0xA0 then
      (match p.sels[(off - 0x80) / 4]? with
       | none => 0
       | some e => e.event % 4096 + boolNat e.enable * 4096 + boolNat e.freeze * 8192)
    else 0

/-- A word of the MSI-X table or the PBA (Table 9.2). -/
def msixWord (s : State) (fn off : Nat) : Nat :=
  if off < 0x8000 then
    (let v := off / 16
     let x := s.msix fn v
     if msixSize s fn ≤ v then 0
     else if off % 16 = 0 then x.addr % 2 ^ 32
     else if off % 16 = 4 then x.addr / 2 ^ 32 % 2 ^ 32
     else if off % 16 = 8 then x.data % 2 ^ 32
     else boolNat x.masked)
  else if off < 0x8100 then
    (List.range 32).foldl (fun a i =>
      let v := (off - 0x8000) * 8 + i
      if decide (v < msixSize s fn) && (s.msix fn v).pending then bitSet a i else a) 0
  else 0

/-! ### Reads (R305) -/

/-- A BAR register by its word. -/
def barWord (s : State) (fn bar off : Nat) : Nat :=
  if bar = 0 then bar0Word s fn off else if bar = 2 then pageWord s fn off else msixWord s fn off

/-- The bytes of a BAR of a function; the BARs are 64 bits wide, so the odd ones are upper halves. -/
def barBytes (s : State) (fn bar : Nat) : Nat := if bar = 1 ∨ bar = 3 ∨ 4 < bar then 0 else barSize s (decide (fn = 0)) (bar / 2)

/-- Is an access of this size and alignment carried out (R305)? -/
def accessOk (bar off size : Nat) : Bool :=
  (decide (size = 4) && decide (off % 4 = 0)) || (decide (bar ≠ 0) && decide (size = 8) && decide (off % 8 = 0))

/-- What a read of a BAR returns: none is Unsupported Request. A read of CTR_LO also latches, and is
CTR_LO_READ. -/
def barRead (s : State) (fn bar off size : Nat) : Option Nat :=
  if !barOpen s fn || decide (barBytes s fn bar < off + size) then none
  else if !accessOk bar off size then some (allOnes size)
  else if size = 8 then some (barWord s fn bar off + barWord s fn bar (off + 4) * 2 ^ 32)
  else some (barWord s fn bar off)

/-! ### Writes -/

/-- A write of Q_CTRL by its command (R380): what a command that Table 11.9 does not list answers is free
(log entry 60). -/
def qctrlWrite (fn q v : Nat) (s : State) : State :=
  let cmd := bitsOf v 3 0
  let w := bitsOf v 7 4
  let go : Queue → State → Nat × State :=
    if cmd = 0 then fun _ st => (crOK, st)
    else if cmd = 1 then qLoad fn q w
    else if cmd = 2 then qRead fn q w
    else if cmd = 3 then qEnable fn q
    else if cmd = 4 then qDisable fn q
    else if cmd = 5 then qReset fn q
    else fun _ st =>
      let k := drawNat st
      (k.1 % 4, k.2)
  qctrl fn q cmd w go s

/-- A word written to a function block (Table 9.4). -/
def funcWrite (fn off v : Nat) (s : State) : State :=
  if off < 0x8000 then
    let q := off / 32
    let x := s.queue fn q
    if off % 32 = 0 then (if isProducer (qKind x) then tailDoorbell fn q v s else headDoorbell fn q v s)
    else if off % 32 = 4 then qctrlWrite fn q v s
    else s
  else if off = 0x8004 ∧ v.testBit 1 then s.setFunc fn { s.func fn with resetSeen := false }
  else s

/-- A word written to the TBL_ block (R200, R201). -/
def tblWriteReg (off v : Nat) (s : State) : State :=
  if off = 0 then
    let op := bitsOf v 3 0
    let table := bitsOf v 5 4
    let byIndex := v.testBit 6
    let index := bitsOf v 31 8
    tblCommand op table byIndex index (tblRun op table byIndex index) s
  else if 0x10 ≤ off ∧ off < 0x30 then
    if s.tables.busy.isSome then modTables (fun x => { x with ignCnt := satAdd32 x.ignCnt 1 }) s
    else modTables (fun x => { x with data := Tab.set 0#32 x.data (off / 4 - 4) (BitVec.ofNat 32 v) }) s
  else s

/-- A word written to the MBX_ block (Table 2.5). -/
def mbxWriteReg (off v : Nat) (s : State) : State :=
  if off = 0 then mbxCtrl v s
  else if off = 4 then modMbx (fun m => { m with
    done := m.done && !v.testBit 1, ignored := m.ignored && !v.testBit 2 }) s
  else if 0x1000 ≤ off ∧ off < 0x2000 then
    modMbx (fun m => { m with req := Tab.set 0#32 m.req ((off - 0x1000) / 4) (BitVec.ofNat 32 v) }) s
  else s

/-- A word written to the EVT_ block (Table 16.5). -/
def evtWriteReg (off v : Nat) (s : State) : State :=
  if off < 0x40 then evtClear (off / 4) v 0 s
  else if off < 0x80 then evtMaskSet (off / 4 - 16) v s
  else if 0x100 ≤ off ∧ off < 0x140 then evtVectorSet (off / 4 - 64) v s
  else if 0x180 ≤ off ∧ off < 0x1C0 then evtTest (off / 4 - 96) v s
  else s

/-- A word written to the CTR_ block (Table 16.6). -/
def ctrWriteReg (off v : Nat) (s : State) : State :=
  if off < 0x1000 then
    let n := off / 16
    if off % 16 = 0 then ctrSelSet n v s
    else if off % 16 = 8 then ctrValueSet n false v s
    else if off % 16 = 12 then ctrValueSet n true v s
    else s
  else if off < 0x1020 then ctrOvfClear ((off - 0x1000) / 4) v 0 s
  else if off = 0x1020 then
    modEvt (fun x => { x with freezeAll := v.testBit 1 }) (if v.testBit 0 then clearCounters s else s)
  else s

/-- A word written to BAR0 (Table 9.3). -/
def bar0Write (fn off v : Nat) (s : State) : State :=
  if off < 0x10000 then funcWrite fn off v s
  else if fn ≠ 0 then s
  else if off < 0x20000 then tblWriteReg (off - 0x10000) v s
  else if off < 0x30000 then mbxWriteReg (off - 0x20000) v s
  else if off < 0x40000 then evtWriteReg (off - 0x30000) v s
  else if off < 0x50000 then ctrWriteReg (off - 0x40000) v s
  else s

/-- A word written to the MSI-X table (Table 9.2): the PBA and entries past the table ignore writes. -/
def msixWrite (fn off v : Nat) (s : State) : State :=
  let k := off / 16
  let x := s.msix fn k
  if 0x8000 ≤ off ∨ msixSize s fn ≤ k then s
  else if off % 16 = 0 then s.setMsix fn k { x with addr := x.addr / 2 ^ 32 * 2 ^ 32 + v / 4 * 4 }
  else if off % 16 = 4 then s.setMsix fn k { x with addr := x.addr % 2 ^ 32 + v * 2 ^ 32 }
  else if off % 16 = 8 then s.setMsix fn k { x with data := v }
  else if v.testBit 0 then s.setMsix fn k { x with masked := true }
  else msixUnmask fn k s

/-- A word written to a BAR register: its own behaviour where it has one, else stored or ignored. -/
def wordWrite (fn bar off v : Nat) (s : State) : State :=
  if bar = 0 then bar0Write fn off v s
  else if bar = 2 then (if off = 0x40 ∧ pageOpen s fn then pageOvfClear fn v 0 s else s)
  else msixWrite fn off v s

/-- REGISTER_WRITE (R305): an access of another size or alignment is ignored. -/
def registerWrite (fn bar off size value : Nat) (s : State) : State :=
  if !barOpen s fn || decide (barBytes s fn bar < off + size) then (if barOpen s fn then aerSet fn 20 s else barMissed fn s)
  else if !accessOk bar off size then s
  else
    let s1 := wordWrite fn bar off (value % 2 ^ 32) s
    if size = 8 then wordWrite fn bar (off + 4) (value / 2 ^ 32 % 2 ^ 32) s1 else s1

def execRegisterWrite (t fn bar off size value : Nat) (s : State) : Host.Outcome State Fault Refusal :=
  .next (registerWrite fn bar off size value (advance t s))

end Sys2Proof.Machine
end

