-- ==== Sys2Proof/Machine/Dispatch.lean ====
section
/-! DEFINITION. The meaning of every command, one arm each. -/

namespace Sys2Proof.Machine

def exec (i : Instr) (s : State) : Host.Outcome State Fault Refusal :=
  match i with
  | .coldStart t w => Sys2Proof.Machine.execColdStart t w s
  | .ddr4TrainingDone t md => Sys2Proof.Machine.execDdr4TrainingDone t md s
  | .pf0Ready t => Sys2Proof.Machine.execPf0Ready t s
  | .fieldInService t => Sys2Proof.Machine.execFieldInService t s
  | .allReady t => Sys2Proof.Machine.execAllReady t s
  | .perstNAssert t => Sys2Proof.Machine.execPerstNAssert t s
  | .perstNRelease w => Sys2Proof.Machine.execPerstNRelease w s
  | .fullResetMark t => Sys2Proof.Machine.execFullResetMark t s
  | .writeCacheDrainEnd t w => Sys2Proof.Machine.execWriteCacheDrainEnd t w s
  | .hotReset t => Sys2Proof.Machine.execHotReset t s
  | .linkDown t => Sys2Proof.Machine.execLinkDown t s
  | .linkUp t speed width flit => Sys2Proof.Machine.execLinkUp t speed width flit s
  | .acFailFall t => Sys2Proof.Machine.execAcFailFall t s
  | .emergencyDrainDone w => Sys2Proof.Machine.execEmergencyDrainDone w s
  | .acFailRise t => Sys2Proof.Machine.execAcFailRise t s
  | .railFault t rail => Sys2Proof.Machine.execRailFault t rail s
  | .refclkLoss t => Sys2Proof.Machine.execRefclkLoss t s
  | .thermalSample t temps power => Sys2Proof.Machine.execThermalSample t temps power s
  | .thermtrip t => Sys2Proof.Machine.execThermtrip t s
  | .flitReceive c ok => Sys2Proof.Machine.execFlitReceive c ok s
  | .culvertDown t c => Sys2Proof.Machine.execCulvertDown t c s
  | .culvertRetrain t c up => Sys2Proof.Machine.execCulvertRetrain t c up s
  | .replicaResyncDone die => Sys2Proof.Machine.execReplicaResyncDone die s
  | .frameReceive t port bytes fcsOk => Sys2Proof.Machine.execFrameReceive t port bytes fcsOk s
  | .recircPass t pipe => Sys2Proof.Machine.execRecircPass t pipe s
  | .contextRequest t die => Sys2Proof.Machine.execContextRequest t die s
  | .fetchIssue die => Sys2Proof.Machine.execFetchIssue die s
  | .fetchComplete t die slot eccError => Sys2Proof.Machine.execFetchComplete t die slot eccError s
  | .flowAgerVisit t ctx => Sys2Proof.Machine.execFlowAgerVisit t ctx s
  | .frameEnqueue t ticket fault => Sys2Proof.Machine.execFrameEnqueue t ticket fault s
  | .injectionFrame t port bytes => Sys2Proof.Machine.execInjectionFrame t port bytes s
  | .txSelect t port => Sys2Proof.Machine.execTxSelect t port s
  | .frameTxComplete t port fault => Sys2Proof.Machine.execFrameTxComplete t port fault s
  | .gateEntryChange t port => Sys2Proof.Machine.execGateEntryChange t port s
  | .gateConfigApply t port => Sys2Proof.Machine.execGateConfigApply t port s
  | .hostTxSelect t die => Sys2Proof.Machine.execHostTxSelect t die s
  | .rxDeliver t fn w => Sys2Proof.Machine.execRxDeliver t fn w s
  | .samplePeriodExpiry t src => Sys2Proof.Machine.execSamplePeriodExpiry t src s
  | .learn t die => Sys2Proof.Machine.execLearn t die s
  | .replicaWrite src dst => Sys2Proof.Machine.execReplicaWrite src dst s
  | .hitNotice die => Sys2Proof.Machine.execHitNotice die s
  | .learnFilterExpiry t w => Sys2Proof.Machine.execLearnFilterExpiry t w s
  | .agerVisit t index => Sys2Proof.Machine.execAgerVisit t index s
  | .flushSweep w => Sys2Proof.Machine.execFlushSweep w s
  | .flushSweepEnd w => Sys2Proof.Machine.execFlushSweepEnd w s
  | .bankRetire t die => Sys2Proof.Machine.execBankRetire t die s
  | .linkStateChange t port st w => Sys2Proof.Machine.execLinkStateChange t port st w s
  | .portRetry t port => Sys2Proof.Machine.execPortRetry t port s
  | .frrConditionChange t port trigger w => Sys2Proof.Machine.execFrrConditionChange t port trigger w s
  | .frrDebounceExpiry t port triggers => Sys2Proof.Machine.execFrrDebounceExpiry t port triggers s
  | .frrRevertHoldExpiry t port => Sys2Proof.Machine.execFrrRevertHoldExpiry t port s
  | .frerResetTimeout w => Sys2Proof.Machine.execFrerResetTimeout w s
  | .timeSourceLost t => Sys2Proof.Machine.execTimeSourceLost t s
  | .ptpMessage t port bytes => Sys2Proof.Machine.execPtpMessage t port bytes s
  | .ppsInEdge t rising => Sys2Proof.Machine.execPpsInEdge t rising s
  | .ppsOutRise t => Sys2Proof.Machine.execPpsOutRise t s
  | .ppsOutFall t => Sys2Proof.Machine.execPpsOutFall t s
  | .mbxGo t v => Sys2Proof.Machine.execMbxGo t v s
  | .registerWrite t fn bar off size value => Sys2Proof.Machine.execRegisterWrite t fn bar off size value s
  | .read r => Sys2Proof.Machine.execRead r s
  | .write r => Sys2Proof.Machine.execWrite r s
  | .readBlock r => Sys2Proof.Machine.execReadBlock r s
  | .writeBlock r => Sys2Proof.Machine.execWriteBlock r s
  | .subscribe r => Sys2Proof.Machine.execSubscribe r s
  | .subscriptionTimer t number => Sys2Proof.Machine.execSubscriptionTimer t number s
  | .snapshotExpiry t session w => Sys2Proof.Machine.execSnapshotExpiry t session w s
  | .stagingExpiry t session w => Sys2Proof.Machine.execStagingExpiry t session w s
  | .keptResponseExpiry t w => Sys2Proof.Machine.execKeptResponseExpiry t w s
  | .tokenExpiry t session => Sys2Proof.Machine.execTokenExpiry t session s
  | .serviceToken r => Sys2Proof.Machine.execServiceToken r s
  | .keyBlob r => Sys2Proof.Machine.execKeyBlob r s
  | .storeAll r => Sys2Proof.Machine.execStoreAll r s
  | .storeAllComplete t readBackOk => Sys2Proof.Machine.execStoreAllComplete t readBackOk s
  | .restoreDefaults r => Sys2Proof.Machine.execRestoreDefaults r s
  | .unsubscribe r => Sys2Proof.Machine.execUnsubscribe r s
  | .timeSet r => Sys2Proof.Machine.execTimeSet r s
  | .timeAdjust r => Sys2Proof.Machine.execTimeAdjust r s
  | .frrRevert r => Sys2Proof.Machine.execFrrRevert r s
  | .frerStreamWrite r => Sys2Proof.Machine.execFrerStreamWrite r s
  | .frerStreamRead r => Sys2Proof.Machine.execFrerStreamRead r s
  | .ruleWrite r => Sys2Proof.Machine.execRuleWrite r s
  | .ruleRead r => Sys2Proof.Machine.execRuleRead r s
  | .ruleClearRange r => Sys2Proof.Machine.execRuleClearRange r s
  | .ruleCounterRead r => Sys2Proof.Machine.execRuleCounterRead r s
  | .ruleCounterClear r => Sys2Proof.Machine.execRuleCounterClear r s
  | .parseStateWrite r => Sys2Proof.Machine.execParseStateWrite r s
  | .transitionWrite r => Sys2Proof.Machine.execTransitionWrite r s
  | .keyProfileWrite r => Sys2Proof.Machine.execKeyProfileWrite r s
  | .classMapWrite r => Sys2Proof.Machine.execClassMapWrite r s
  | .programRead r => Sys2Proof.Machine.execProgramRead r s
  | .bankSwap r => Sys2Proof.Machine.execBankSwap r s
  | .tblRead t table byIndex index => Sys2Proof.Machine.execTblRead t table byIndex index s
  | .tblWrite t table byIndex index => Sys2Proof.Machine.execTblWrite t table byIndex index s
  | .tblDelete t table byIndex index => Sys2Proof.Machine.execTblDelete t table byIndex index s
  | .tblSearch t table byIndex index => Sys2Proof.Machine.execTblSearch t table byIndex index s
  | .flushByDest t table byIndex index => Sys2Proof.Machine.execFlushByDest t table byIndex index s
  | .ageNow t table byIndex index => Sys2Proof.Machine.execAgeNow t table byIndex index s
  | .tableClear r => Sys2Proof.Machine.execTableClear r s
  | .vlanWrite r => Sys2Proof.Machine.execVlanWrite r s
  | .vlanRead r => Sys2Proof.Machine.execVlanRead r s
  | .groupWrite r => Sys2Proof.Machine.execGroupWrite r s
  | .groupRead r => Sys2Proof.Machine.execGroupRead r s
  | .flowWrite r => Sys2Proof.Machine.execFlowWrite r s
  | .flowRead r => Sys2Proof.Machine.execFlowRead r s
  | .flowDelete r => Sys2Proof.Machine.execFlowDelete r s
  | .flowPin r => Sys2Proof.Machine.execFlowPin r s
  | .flowClear r => Sys2Proof.Machine.execFlowClear r s
  | .flowClearComplete t => Sys2Proof.Machine.execFlowClearComplete t s
  | .bufOwnerRead r => Sys2Proof.Machine.execBufOwnerRead r s
  | .bufPolderOwner r => Sys2Proof.Machine.execBufPolderOwner r s
  | .bufErrorLatchClear r => Sys2Proof.Machine.execBufErrorLatchClear r s
  | .gateConfigChange r => Sys2Proof.Machine.execGateConfigChange r s
  | .queueLatencyMax r => Sys2Proof.Machine.execQueueLatencyMax r s
  | .weirWrite r => Sys2Proof.Machine.execWeirWrite r s
  | .weirRead r => Sys2Proof.Machine.execWeirRead r s
  | .weirUnblock r => Sys2Proof.Machine.execWeirUnblock r s
  | .weirCounterClear r => Sys2Proof.Machine.execWeirCounterClear r s
  | .streamFilterWrite r => Sys2Proof.Machine.execStreamFilterWrite r s
  | .streamFilterRead r => Sys2Proof.Machine.execStreamFilterRead r s
  | .functionStatus r => Sys2Proof.Machine.execFunctionStatus r s
  | .commit r => Sys2Proof.Machine.execCommit r s
  | .adjust r => Sys2Proof.Machine.execAdjust r s
  | .remove r => Sys2Proof.Machine.execRemove r s
  | .polderRemoveComplete t polder => Sys2Proof.Machine.execPolderRemoveComplete t polder s
  | .hostOwnerRelease owner => Sys2Proof.Machine.execHostOwnerRelease owner s
  | .polderFaultClear r => Sys2Proof.Machine.execPolderFaultClear r s
  | .hostGroupWrite r => Sys2Proof.Machine.execHostGroupWrite r s
  | .hostGroupRead r => Sys2Proof.Machine.execHostGroupRead r s
  | .queueStatusRead r => Sys2Proof.Machine.execQueueStatusRead r s
  | .keySlotInfo r => Sys2Proof.Machine.execKeySlotInfo r s
  | .channelInfo r => Sys2Proof.Machine.execChannelInfo r s
  | .quiesce r => Sys2Proof.Machine.execQuiesce r s
  | .cartQuiesced t slot => Sys2Proof.Machine.execCartQuiesced t slot s
  | .selfTestStart r => Sys2Proof.Machine.execSelfTestStart r s
  | .sanitize r => Sys2Proof.Machine.execSanitize r s
  | .namespaceCreate r => Sys2Proof.Machine.execNamespaceCreate r s
  | .namespaceDelete r => Sys2Proof.Machine.execNamespaceDelete r s
  | .namespaceRead r => Sys2Proof.Machine.execNamespaceRead r s
  | .namespaceAttach r => Sys2Proof.Machine.execNamespaceAttach r s
  | .namespaceDetach r => Sys2Proof.Machine.execNamespaceDetach r s
  | .namespaceKeyLoad r => Sys2Proof.Machine.execNamespaceKeyLoad r s
  | .namespaceFormat r => Sys2Proof.Machine.execNamespaceFormat r s
  | .firmwareActivate r => Sys2Proof.Machine.execFirmwareActivate r s
  | .activationCheck w => Sys2Proof.Machine.execActivationCheck w s
  | .activationComplete w => Sys2Proof.Machine.execActivationComplete w s
  | .activationTimeout t => Sys2Proof.Machine.execActivationTimeout t s
  | .rollbackAdvance r => Sys2Proof.Machine.execRollbackAdvance r s
  | .dikeLogClear r => Sys2Proof.Machine.execDikeLogClear r s
  | .dikeDmaWindows r => Sys2Proof.Machine.execDikeDmaWindows r s
  | .heartbeat t => Sys2Proof.Machine.execHeartbeat t s
  | .dikeHeartbeatTimeout w => Sys2Proof.Machine.execDikeHeartbeatTimeout w s
  | .coreRestartComplete t => Sys2Proof.Machine.execCoreRestartComplete t s
  | .eventClear r => Sys2Proof.Machine.execEventClear r s
  | .portEventMapClear r => Sys2Proof.Machine.execPortEventMapClear r s
  | .deviceCounterRead r => Sys2Proof.Machine.execDeviceCounterRead r s
  | .polderCounterSelect r => Sys2Proof.Machine.execPolderCounterSelect r s
  | .polderCounterRead r => Sys2Proof.Machine.execPolderCounterRead r s
  | .selfTestRun r => Sys2Proof.Machine.execSelfTestRun r s
  | .selfTestEnd t die signature => Sys2Proof.Machine.execSelfTestEnd t die signature s
  | .dieReturn r => Sys2Proof.Machine.execDieReturn r s
  | .dieReturnComplete t die => Sys2Proof.Machine.execDieReturnComplete t die s
  | .junctionTempMaxClear r => Sys2Proof.Machine.execJunctionTempMaxClear r s
  | .configRequest t fn field write => Sys2Proof.Machine.execConfigRequest t fn field write s
  | .vfEnable t numVfs => Sys2Proof.Machine.execVfEnable t numVfs s
  | .busMasterDisable t fn => Sys2Proof.Machine.execBusMasterDisable t fn s
  | .interruptDisableWrite t v => Sys2Proof.Machine.execInterruptDisableWrite t v s
  | .msixEnableWrite t fn v => Sys2Proof.Machine.execMsixEnableWrite t fn v s
  | .msixUnmask t fn vector => Sys2Proof.Machine.execMsixUnmask t fn vector s
  | .powerStateWrite t fn state => Sys2Proof.Machine.execPowerStateWrite t fn state s
  | .flrInitiate t fn => Sys2Proof.Machine.execFlrInitiate t fn s
  | .flrDrainCap t fn => Sys2Proof.Machine.execFlrDrainCap t fn s
  | .flrComplete t fn => Sys2Proof.Machine.execFlrComplete t fn s
  | .completionReceive t tag status data => Sys2Proof.Machine.execCompletionReceive t tag status data s
  | .completionTimeout t tag => Sys2Proof.Machine.execCompletionTimeout t tag s
  | .tagQuarantineEnd t tag => Sys2Proof.Machine.execTagQuarantineEnd t tag s
  | .translationResponse t fn q page frame => Sys2Proof.Machine.execTranslationResponse t fn q page frame s
  | .prgResponse t fn q code => Sys2Proof.Machine.execPrgResponse t fn q code s
  | .pageRequestTimeout t fn q => Sys2Proof.Machine.execPageRequestTimeout t fn q s
  | .priReset fn => Sys2Proof.Machine.execPriReset fn s
  | .invalidateRequest t fn tag pasid page => Sys2Proof.Machine.execInvalidateRequest t fn tag pasid page s
  | .invalidateComplete t fn tag => Sys2Proof.Machine.execInvalidateComplete t fn tag s
  | .qNop fn q => Sys2Proof.Machine.execQNop fn q s
  | .qLoad fn q word => Sys2Proof.Machine.execQLoad fn q word s
  | .qRead fn q word => Sys2Proof.Machine.execQRead fn q word s
  | .qEnable t fn q => Sys2Proof.Machine.execQEnable t fn q s
  | .qDisable t fn q => Sys2Proof.Machine.execQDisable t fn q s
  | .qReset t fn q => Sys2Proof.Machine.execQReset t fn q s
  | .tailDoorbell t fn q index => Sys2Proof.Machine.execTailDoorbell t fn q index s
  | .headDoorbell t fn q index => Sys2Proof.Machine.execHeadDoorbell t fn q index s
  | .entryFetch t fn q count entries => Sys2Proof.Machine.execEntryFetch t fn q count entries s
  | .chainDone t fn q => Sys2Proof.Machine.execChainDone t fn q s
  | .heldRelease t fn q => Sys2Proof.Machine.execHeldRelease t fn q s
  | .modTimeExpiry t fn q => Sys2Proof.Machine.execModTimeExpiry t fn q s
  | .txFrame t fn q frame => Sys2Proof.Machine.execTxFrame t fn q frame s
  | .rxBuf t fn q => Sys2Proof.Machine.execRxBuf t fn q s
  | .gcmEncrypt t fn q params source => Sys2Proof.Machine.execGcmEncrypt t fn q params source s
  | .gcmDecrypt t fn q params source => Sys2Proof.Machine.execGcmDecrypt t fn q params source s
  | .gmacGenerate t fn q params source => Sys2Proof.Machine.execGmacGenerate t fn q params source s
  | .gmacVerify t fn q params source => Sys2Proof.Machine.execGmacVerify t fn q params source s
  | .ctr t fn q params source => Sys2Proof.Machine.execCtr t fn q params source s
  | .xtsEncrypt t fn q params source => Sys2Proof.Machine.execXtsEncrypt t fn q params source s
  | .xtsDecrypt t fn q params source => Sys2Proof.Machine.execXtsDecrypt t fn q params source s
  | .unwrap t fn q blob => Sys2Proof.Machine.execUnwrap t fn q blob s
  | .wrap t fn q key => Sys2Proof.Machine.execWrap t fn q key s
  | .slotClear t fn q => Sys2Proof.Machine.execSlotClear t fn q s
  | .cipherDispatch t => Sys2Proof.Machine.execCipherDispatch t s
  | .cipherMessageDone t core => Sys2Proof.Machine.execCipherMessageDone t core s
  | .cipherCoreFault t core => Sys2Proof.Machine.execCipherCoreFault t core s
  | .siphonWrite t fn q descriptor => Sys2Proof.Machine.execSiphonWrite t fn q descriptor s
  | .siphonWriteImm t fn q descriptor => Sys2Proof.Machine.execSiphonWriteImm t fn q descriptor s
  | .siphonRead t fn q descriptor => Sys2Proof.Machine.execSiphonRead t fn q descriptor s
  | .jcmdSend t fn q capsule => Sys2Proof.Machine.execJcmdSend t fn q capsule s
  | .recvNotify t fn q => Sys2Proof.Machine.execRecvNotify t fn q s
  | .channelModify t fn q record => Sys2Proof.Machine.execChannelModify t fn q record s
  | .channelQuery t fn q => Sys2Proof.Machine.execChannelQuery t fn q s
  | .regionRegister t fn q record => Sys2Proof.Machine.execRegionRegister t fn q record s
  | .regionRevoke t fn q => Sys2Proof.Machine.execRegionRevoke t fn q s
  | .revokeFence t fn q region => Sys2Proof.Machine.execRevokeFence t fn q region s
  | .siphonPacketSend t chan payload => Sys2Proof.Machine.execSiphonPacketSend t chan payload s
  | .siphonRxWrite w => Sys2Proof.Machine.execSiphonRxWrite w s
  | .siphonRxWriteImm w => Sys2Proof.Machine.execSiphonRxWriteImm w s
  | .siphonRxReadReq w => Sys2Proof.Machine.execSiphonRxReadReq w s
  | .siphonRxReadResp w => Sys2Proof.Machine.execSiphonRxReadResp w s
  | .siphonRxAck w => Sys2Proof.Machine.execSiphonRxAck w s
  | .siphonRxNak w => Sys2Proof.Machine.execSiphonRxNak w s
  | .siphonRxCnp w => Sys2Proof.Machine.execSiphonRxCnp w s
  | .siphonRxJcmd w => Sys2Proof.Machine.execSiphonRxJcmd w s
  | .siphonRxXferRdy w => Sys2Proof.Machine.execSiphonRxXferRdy w s
  | .siphonRxJrsp w => Sys2Proof.Machine.execSiphonRxJrsp w s
  | .siphonAckDelay t chan => Sys2Proof.Machine.execSiphonAckDelay t chan s
  | .siphonRtoExpiry t chan => Sys2Proof.Machine.execSiphonRtoExpiry t chan s
  | .siphonPathHold t chan path => Sys2Proof.Machine.execSiphonPathHold t chan path s
  | .siphonCnpInterval t chan => Sys2Proof.Machine.execSiphonCnpInterval t chan s
  | .siphonStepTimer t chan path => Sys2Proof.Machine.execSiphonStepTimer t chan path s
  | .xferGrant t chan msg => Sys2Proof.Machine.execXferGrant t chan msg s
  | .siphonXferTimeout t chan msg => Sys2Proof.Machine.execSiphonXferTimeout t chan msg s
  | .journalRead t src badBlocks => Sys2Proof.Machine.execJournalRead t src badBlocks s
  | .journalWrite t src data => Sys2Proof.Machine.execJournalWrite t src data s
  | .journalFlush t src => Sys2Proof.Machine.execJournalFlush t src s
  | .deallocate t src => Sys2Proof.Machine.execDeallocate t src s
  | .identify t src => Sys2Proof.Machine.execIdentify t src s
  | .logRead t src => Sys2Proof.Machine.execLogRead t src s
  | .journalSelfTest t src => Sys2Proof.Machine.execJournalSelfTest t src s
  | .journalSanitize t src => Sys2Proof.Machine.execJournalSanitize t src s
  | .journalFormat t src => Sys2Proof.Machine.execJournalFormat t src s
  | .unitAccept t unit => Sys2Proof.Machine.execUnitAccept t unit s
  | .unitDrain t w => Sys2Proof.Machine.execUnitDrain t w s
  | .rebuildDone t slot => Sys2Proof.Machine.execRebuildDone t slot s
  | .cartSelfTestResume t slot => Sys2Proof.Machine.execCartSelfTestResume t slot s
  | .cartSelfTestDone t slot pass w => Sys2Proof.Machine.execCartSelfTestDone t slot pass w s
  | .sanitizeComplete t slot => Sys2Proof.Machine.execSanitizeComplete t slot s
  | .formatComplete t ns => Sys2Proof.Machine.execFormatComplete t ns s
  | .cartPresentDebounce t slot => Sys2Proof.Machine.execCartPresentDebounce t slot s
  | .cartLinkTrained t slot identity challenge => Sys2Proof.Machine.execCartLinkTrained t slot identity challenge s
  | .cartLinkTimeout t slot => Sys2Proof.Machine.execCartLinkTimeout t slot s
  | .cartOnline t slot media => Sys2Proof.Machine.execCartOnline t slot media s
  | .cartRemoval t w => Sys2Proof.Machine.execCartRemoval t w s
  | .evtStatWrite t g v coincide => Sys2Proof.Machine.execEvtStatWrite t g v coincide s
  | .evtMaskWrite t g v => Sys2Proof.Machine.execEvtMaskWrite t g v s
  | .evtVectorWrite t g v => Sys2Proof.Machine.execEvtVectorWrite t g v s
  | .evtTestWrite t g v => Sys2Proof.Machine.execEvtTestWrite t g v s
  | .ctrSelWrite t n v => Sys2Proof.Machine.execCtrSelWrite t n v s
  | .ctrLoRead t n => Sys2Proof.Machine.execCtrLoRead t n s
  | .ctrValueWrite t n hi v => Sys2Proof.Machine.execCtrValueWrite t n hi v s
  | .ctrOvfClear t k v coincide => Sys2Proof.Machine.execCtrOvfClear t k v coincide s
  | .clearAll t => Sys2Proof.Machine.execClearAll t s
  | .freezeAll t v => Sys2Proof.Machine.execFreezeAll t v s
  | .pageOvfClear t fn v coincide => Sys2Proof.Machine.execPageOvfClear t fn v coincide s
  | .smbusJunctionTemp => Sys2Proof.Machine.execSmbusJunctionTemp s
  | .smbusStatus => Sys2Proof.Machine.execSmbusStatus s
  | .smbusPowerEstimate => Sys2Proof.Machine.execSmbusPowerEstimate s
  | .smbusJunctionTempFine => Sys2Proof.Machine.execSmbusJunctionTempFine s
  | .smbusStepping => Sys2Proof.Machine.execSmbusStepping s
  | .extest => Sys2Proof.Machine.execExtest s
  | .samplePreload cells => Sys2Proof.Machine.execSamplePreload cells s
  | .idcode => Sys2Proof.Machine.execIdcode s
  | .bypass code => Sys2Proof.Machine.execBypass code s
  | .clamp => Sys2Proof.Machine.execClamp s
  | .highz => Sys2Proof.Machine.execHighz s
  | .extestPulse => Sys2Proof.Machine.execExtestPulse s
  | .extestTrain => Sys2Proof.Machine.execExtestTrain s
  | .tblCommandComplete t => Sys2Proof.Machine.execTblCommandComplete t s
  | .writeBackReachesDdr4 die => Sys2Proof.Machine.execWriteBackReachesDdr4 die s
  | .acFailNHigh t => Sys2Proof.Machine.execAcFailNHigh t s
  | .cartPrsntNFall t slot => Sys2Proof.Machine.execCartPrsntNFall t slot s

end Sys2Proof.Machine
end

