-- ==== Sys2Proof/WellFormed.lean ====
section
/-! DEFINITION. The checks on a command's operands: every number names something the part has (spec
00 R13 and the tables of each chapter), and every byte string has the length its format gives. The
meanings are total: a command that fails these names nothing of the part. -/

namespace Sys2Proof

/-- A network message comes from a field port or the management port, with a 16-byte address. -/
def Rq.wf (r : Rq) : Bool :=
  match r.src with
  | .mailbox => true
  | .net port addr _ => decide (addr.length = 16) && (match port with
      | none => true
      | some p => decide (p < 512))

/-- A fault names a cell, place or Ditch the die has (spec 07 R237, R239). -/
def BufFault.wf (f : BufFault) : Bool :=
  match f with
  | .clean => true
  | .corrected => true
  | .badFree cell owner => decide (cell < 196608) && decide (owner < 4096)
  | .data => true
  | .underrun => true
  | .link k => decide (k < 36)
  | .freeWord ditch depth => decide (ditch < 16) && decide (depth < 196608)
  | .tag cell => decide (cell < 196608)

def SampleSrc.wf (x : SampleSrc) : Bool :=
  match x with
  | .port p tc => decide (p < 512) && decide (tc < 8)
  | .host fn q => decide (fn < 4096) && decide (q < 1024)

def JSrc.wf (x : JSrc) : Bool :=
  match x with
  | .queue fn q => decide (fn < 4096) && decide (q < 1024)
  | .capsule chan msg => decide (chan < 65536) && decide (msg < 4294967296)

/-- Is a command well formed? -/
def Instr.wf (i : Instr) : Bool :=
  match i with
  | .coldStart _ w => decide (w.sigs.length = 8)
  | .ddr4TrainingDone _ md => decide (md < 2)
  | .pf0Ready _ => true
  | .fieldInService _ => true
  | .allReady _ => true
  | .perstNAssert _ => true
  | .perstNRelease _ => true
  | .fullResetMark _ => true
  | .writeCacheDrainEnd _ w => decide (w.sigs.length = 8)
  | .hotReset _ => true
  | .linkDown _ => true
  | .linkUp _ speed width _ => decide (speed < 7) && decide (width < 17)
  | .acFailFall _ => true
  | .emergencyDrainDone _ => true
  | .acFailRise _ => true
  | .railFault _ rail => decide (rail < 8)
  | .refclkLoss _ => true
  | .thermalSample _ temps power => decide (temps.length = 32) && decide (power < 65536)
  | .thermtrip _ => true
  | .flitReceive c _ => decide (c < 20)
  | .culvertDown _ c => decide (c < 20)
  | .culvertRetrain _ c _ => decide (c < 20)
  | .replicaResyncDone die => decide (die < 4)
  | .frameReceive _ port _ _ => decide (port < 512)
  | .recircPass _ pipe => decide (pipe < 16)
  | .contextRequest _ die => decide (die < 4)
  | .fetchIssue die => decide (die < 4)
  | .fetchComplete _ die slot _ => decide (die < 4) && decide (slot < 65536)
  | .flowAgerVisit _ ctx => decide (ctx < 1048576)
  | .frameEnqueue _ _ fault => fault.wf
  | .injectionFrame _ port _ => decide (port < 512)
  | .txSelect _ port => decide (port < 512)
  | .frameTxComplete _ port fault => decide (port < 512) && fault.wf
  | .gateEntryChange _ port => decide (port < 512)
  | .gateConfigApply _ port => decide (port < 512)
  | .hostTxSelect _ die => decide (die < 4)
  | .rxDeliver _ fn w => decide (fn < 4096) && decide (w.q < 1024) && w.fault.wf
  | .samplePeriodExpiry _ src => src.wf
  | .learn _ die => decide (die < 4)
  | .replicaWrite src dst => decide (src < 4) && decide (dst < 4)
  | .hitNotice die => decide (die < 4)
  | .learnFilterExpiry _ w => decide (w.die < 4) && decide (w.key < 1152921504606846976)
  | .agerVisit _ index => decide (index < 1052672)
  | .flushSweep w => decide (w.die < 4)
  | .flushSweepEnd w => decide (w.die < 4)
  | .bankRetire _ die => decide (die < 4)
  | .linkStateChange _ port _ w => decide (port < 512) && decide (w.fec < 3) && decide (w.rate < 65536)
  | .portRetry _ port => decide (port < 512)
  | .frrConditionChange _ port trigger w => decide (port < 512) && decide (trigger < 4)
    && w.codewords.all (fun c => decide (c < 3))
  | .frrDebounceExpiry _ port triggers => decide (port < 512) && triggers.all (fun x => decide (x.2 < 4) && decide (x.1 < 512))
  | .frrRevertHoldExpiry _ port => decide (port < 512)
  | .frerResetTimeout w => decide (w.stream < 16384)
  | .timeSourceLost _ => true
  | .ptpMessage _ port _ => decide (port < 512)
  | .ppsInEdge _ _ => true
  | .ppsOutRise _ => true
  | .ppsOutFall _ => true
  | .mbxGo _ _ => true
  | .registerWrite _ fn bar off size value => decide (fn < 4096) && decide (bar < 6) && decide (off < 67108864) && decide (size < 9) && decide (value < 18446744073709551616)
  | .read r => r.wf
  | .write r => r.wf
  | .readBlock r => r.wf
  | .writeBlock r => r.wf
  | .subscribe r => r.wf
  | .subscriptionTimer _ number => decide (number < 65536)
  | .snapshotExpiry _ session w => decide (session < 65) && decide (w.index < 65536) && decide (w.sub < 256)
  | .stagingExpiry _ session w => decide (session < 65) && decide (w.index < 65536) && decide (w.sub < 256)
  | .keptResponseExpiry _ w => decide (w.session < 65) && decide (w.reqId < 65536)
  | .tokenExpiry _ session => decide (session < 65)
  | .serviceToken r => r.wf
  | .keyBlob r => r.wf
  | .storeAll r => r.wf
  | .storeAllComplete _ _ => true
  | .restoreDefaults r => r.wf
  | .unsubscribe r => r.wf
  | .timeSet r => r.wf
  | .timeAdjust r => r.wf
  | .frrRevert r => r.wf
  | .frerStreamWrite r => r.wf
  | .frerStreamRead r => r.wf
  | .ruleWrite r => r.wf
  | .ruleRead r => r.wf
  | .ruleClearRange r => r.wf
  | .ruleCounterRead r => r.wf
  | .ruleCounterClear r => r.wf
  | .parseStateWrite r => r.wf
  | .transitionWrite r => r.wf
  | .keyProfileWrite r => r.wf
  | .classMapWrite r => r.wf
  | .programRead r => r.wf
  | .bankSwap r => r.wf
  | .tblRead _ table _ index => decide (table < 16) && decide (index < 16777216)
  | .tblWrite _ table _ index => decide (table < 16) && decide (index < 16777216)
  | .tblDelete _ table _ index => decide (table < 16) && decide (index < 16777216)
  | .tblSearch _ table _ index => decide (table < 16) && decide (index < 16777216)
  | .flushByDest _ table _ index => decide (table < 16) && decide (index < 16777216)
  | .ageNow _ table _ index => decide (table < 16) && decide (index < 16777216)
  | .tableClear r => r.wf
  | .vlanWrite r => r.wf
  | .vlanRead r => r.wf
  | .groupWrite r => r.wf
  | .groupRead r => r.wf
  | .flowWrite r => r.wf
  | .flowRead r => r.wf
  | .flowDelete r => r.wf
  | .flowPin r => r.wf
  | .flowClear r => r.wf
  | .flowClearComplete _ => true
  | .bufOwnerRead r => r.wf
  | .bufPolderOwner r => r.wf
  | .bufErrorLatchClear r => r.wf
  | .gateConfigChange r => r.wf
  | .queueLatencyMax r => r.wf
  | .weirWrite r => r.wf
  | .weirRead r => r.wf
  | .weirUnblock r => r.wf
  | .weirCounterClear r => r.wf
  | .streamFilterWrite r => r.wf
  | .streamFilterRead r => r.wf
  | .functionStatus r => r.wf
  | .commit r => r.wf
  | .adjust r => r.wf
  | .remove r => r.wf
  | .polderRemoveComplete _ polder => decide (polder < 4096)
  | .hostOwnerRelease owner => decide (owner < 4096)
  | .polderFaultClear r => r.wf
  | .hostGroupWrite r => r.wf
  | .hostGroupRead r => r.wf
  | .queueStatusRead r => r.wf
  | .keySlotInfo r => r.wf
  | .channelInfo r => r.wf
  | .quiesce r => r.wf
  | .cartQuiesced _ slot => decide (slot < 2)
  | .selfTestStart r => r.wf
  | .sanitize r => r.wf
  | .namespaceCreate r => r.wf
  | .namespaceDelete r => r.wf
  | .namespaceRead r => r.wf
  | .namespaceAttach r => r.wf
  | .namespaceDetach r => r.wf
  | .namespaceKeyLoad r => r.wf
  | .namespaceFormat r => r.wf
  | .firmwareActivate r => r.wf
  | .activationCheck w => decide (w.reason ≤ 7)
  | .activationComplete _ => true
  | .activationTimeout _ => true
  | .rollbackAdvance r => r.wf
  | .dikeLogClear r => r.wf
  | .dikeDmaWindows r => r.wf
  | .heartbeat _ => true
  | .dikeHeartbeatTimeout w => decide (w.reason ≤ 7) && w.during.all (fun d => d.1.wf)
  | .coreRestartComplete _ => true
  | .eventClear r => r.wf
  | .portEventMapClear r => r.wf
  | .deviceCounterRead r => r.wf
  | .polderCounterSelect r => r.wf
  | .polderCounterRead r => r.wf
  | .selfTestRun r => r.wf
  | .selfTestEnd _ die signature => decide (die < 8) && decide (signature < 18446744073709551616)
  | .dieReturn r => r.wf
  | .dieReturnComplete _ die => decide (die < 8)
  | .junctionTempMaxClear r => r.wf
  | .configRequest _ fn _ _ => decide (fn < 4096)
  | .vfEnable _ numVfs => decide (numVfs < 65536)
  | .busMasterDisable _ fn => decide (fn < 4096)
  | .interruptDisableWrite _ _ => true
  | .msixEnableWrite _ fn _ => decide (fn < 4096)
  | .msixUnmask _ fn vector => decide (fn < 4096) && decide (vector < 2048)
  | .powerStateWrite _ fn state => decide (fn < 4096) && decide (state < 4)
  | .flrInitiate _ fn => decide (fn < 4096)
  | .flrDrainCap _ fn => decide (fn < 4096)
  | .flrComplete _ fn => decide (fn < 4096)
  | .completionReceive _ tag _ _ => decide (tag < 15360)
  | .completionTimeout _ tag => decide (tag < 15360)
  | .tagQuarantineEnd _ tag => decide (tag < 15360)
  | .translationResponse _ fn q page _ => decide (fn < 4096) && decide (q < 1024) && decide (page < 4503599627370496)
  | .prgResponse _ fn q _ => decide (fn < 4096) && decide (q < 1024)
  | .pageRequestTimeout _ fn q => decide (fn < 4096) && decide (q < 1024)
  | .priReset fn => decide (fn < 4096)
  | .invalidateRequest _ fn tag pasid page => decide (fn < 4096) && decide (tag < 32) && decide (pasid < 2097152) && decide (page < 4503599627370496)
  | .invalidateComplete _ fn tag => decide (fn < 4096) && decide (tag < 32)
  | .qNop fn q => decide (fn < 4096) && decide (q < 1024)
  | .qLoad fn q word => decide (fn < 4096) && decide (q < 1024) && decide (word < 16)
  | .qRead fn q word => decide (fn < 4096) && decide (q < 1024) && decide (word < 16)
  | .qEnable _ fn q => decide (fn < 4096) && decide (q < 1024)
  | .qDisable _ fn q => decide (fn < 4096) && decide (q < 1024)
  | .qReset _ fn q => decide (fn < 4096) && decide (q < 1024)
  | .tailDoorbell _ fn q index => decide (fn < 4096) && decide (q < 1024) && decide (index < 65536)
  | .headDoorbell _ fn q index => decide (fn < 4096) && decide (q < 1024) && decide (index < 65536)
  | .entryFetch _ fn q count entries => decide (fn < 4096) && decide (q < 1024) && decide (count < 33) && ((entries.getD []).all (fun e => decide (e.length = 32)))
  | .chainDone _ fn q => decide (fn < 4096) && decide (q < 1024)
  | .heldRelease _ fn q => decide (fn < 4096) && decide (q < 1024)
  | .modTimeExpiry _ fn q => decide (fn < 4096) && decide (q < 1024)
  | .txFrame _ fn q _ => decide (fn < 4096) && decide (q < 1024)
  | .rxBuf _ fn q => decide (fn < 4096) && decide (q < 1024)
  | .gcmEncrypt _ fn q _ _ => decide (fn < 4096) && decide (q < 1024)
  | .gcmDecrypt _ fn q _ _ => decide (fn < 4096) && decide (q < 1024)
  | .gmacGenerate _ fn q _ _ => decide (fn < 4096) && decide (q < 1024)
  | .gmacVerify _ fn q _ _ => decide (fn < 4096) && decide (q < 1024)
  | .ctr _ fn q _ _ => decide (fn < 4096) && decide (q < 1024)
  | .xtsEncrypt _ fn q _ _ => decide (fn < 4096) && decide (q < 1024)
  | .xtsDecrypt _ fn q _ _ => decide (fn < 4096) && decide (q < 1024)
  | .unwrap _ fn q _ => decide (fn < 4096) && decide (q < 1024)
  | .wrap _ fn q _ => decide (fn < 4096) && decide (q < 1024)
  | .slotClear _ fn q => decide (fn < 4096) && decide (q < 1024)
  | .cipherDispatch _ => true
  | .cipherMessageDone _ core => decide (core < 256)
  | .cipherCoreFault _ core => decide (core < 256)
  | .siphonWrite _ fn q _ => decide (fn < 4096) && decide (q < 1024)
  | .siphonWriteImm _ fn q _ => decide (fn < 4096) && decide (q < 1024)
  | .siphonRead _ fn q _ => decide (fn < 4096) && decide (q < 1024)
  | .jcmdSend _ fn q _ => decide (fn < 4096) && decide (q < 1024)
  | .recvNotify _ fn q => decide (fn < 4096) && decide (q < 1024)
  | .channelModify _ fn q _ => decide (fn < 4096) && decide (q < 1024)
  | .channelQuery _ fn q => decide (fn < 4096) && decide (q < 1024)
  | .regionRegister _ fn q _ => decide (fn < 4096) && decide (q < 1024)
  | .regionRevoke _ fn q => decide (fn < 4096) && decide (q < 1024)
  | .revokeFence _ fn q region => decide (fn < 4096) && decide (q < 1024) && decide (region < 1048576)
  | .siphonPacketSend _ chan _ => decide (chan < 65536)
  | .siphonRxWrite w => w.fault.wf
  | .siphonRxWriteImm w => w.fault.wf
  | .siphonRxReadReq w => w.fault.wf
  | .siphonRxReadResp w => w.fault.wf
  | .siphonRxAck w => w.fault.wf
  | .siphonRxNak w => w.fault.wf
  | .siphonRxCnp w => w.fault.wf
  | .siphonRxJcmd w => w.fault.wf
  | .siphonRxXferRdy w => w.fault.wf
  | .siphonRxJrsp w => w.fault.wf
  | .siphonAckDelay _ chan => decide (chan < 65536)
  | .siphonRtoExpiry _ chan => decide (chan < 65536)
  | .siphonPathHold _ chan path => decide (chan < 65536) && decide (path < 8)
  | .siphonCnpInterval _ chan => decide (chan < 65536)
  | .siphonStepTimer _ chan path => decide (chan < 65536) && decide (path < 8)
  | .xferGrant _ chan msg => decide (chan < 65536) && decide (msg < 4294967296)
  | .siphonXferTimeout _ chan msg => decide (chan < 65536) && decide (msg < 4294967296)
  | .journalRead _ src _ => src.wf
  | .journalWrite _ src _ => src.wf
  | .journalFlush _ src => src.wf
  | .deallocate _ src => src.wf
  | .identify _ src => src.wf
  | .logRead _ src => src.wf
  | .journalSelfTest _ src => src.wf
  | .journalSanitize _ src => src.wf
  | .journalFormat _ src => src.wf
  | .unitAccept _ _ => true
  | .unitDrain _ w => decide (w.slot < 2)
  | .rebuildDone _ slot => decide (slot < 2)
  | .cartSelfTestResume _ slot => decide (slot < 2)
  | .cartSelfTestDone _ slot _ w => decide (slot < 2) && decide (w.segment < 4294967296)
  | .sanitizeComplete _ slot => decide (slot < 2)
  | .formatComplete _ ns => decide (ns < 4096)
  | .cartPresentDebounce _ slot => decide (slot < 2)
  | .cartLinkTrained _ slot _ _ => decide (slot < 2)
  | .cartLinkTimeout _ slot => decide (slot < 2)
  | .cartOnline _ slot _ => decide (slot < 2)
  | .cartRemoval _ w => decide (w.slot < 2)
  | .evtStatWrite _ g _ _ => decide (g < 16)
  | .evtMaskWrite _ g _ => decide (g < 16)
  | .evtVectorWrite _ g _ => decide (g < 16)
  | .evtTestWrite _ g _ => decide (g < 16)
  | .ctrSelWrite _ n _ => decide (n < 256)
  | .ctrLoRead _ n => decide (n < 256)
  | .ctrValueWrite _ n _ _ => decide (n < 256)
  | .ctrOvfClear _ k _ _ => decide (k < 8)
  | .clearAll _ => true
  | .freezeAll _ _ => true
  | .pageOvfClear _ fn _ _ => decide (fn < 4096)
  | .smbusJunctionTemp => true
  | .smbusStatus => true
  | .smbusPowerEstimate => true
  | .smbusJunctionTempFine => true
  | .smbusStepping => true
  | .extest => true
  | .samplePreload _ => true
  | .idcode => true
  | .bypass _ => true
  | .clamp => true
  | .highz => true
  | .extestPulse => true
  | .extestTrain => true
  | .tblCommandComplete _ => true
  | .writeBackReachesDdr4 die => decide (die < 4)
  | .acFailNHigh _ => true
  | .cartPrsntNFall _ slot => decide (slot < 2)

end Sys2Proof
end

