-- ==== Sys2Proof/Safety.lean ====
section
/-! DEFINITION. What counts as a safe step and as a state in canonical form, in the terms the
statements use. -/

namespace Sys2Proof
open Machine

/-- Every waiting command is well formed. -/
def QueueOk (s : Machine.State) : Prop := s.pending.all Instr.wf = true

/-- A step answers a next state. -/
def Proceeds (s : Machine.State) : Prop := ∃ t, Machine.step s = .next t

/-- The mailbox's two buffers are canonical. -/
def MailboxForm (m : Mailbox) : Prop := Tab.wf 0#32 m.req = true ∧ Tab.wf 0#32 m.rsp = true

/-- The counters and the sessions of the dictionary are canonical. -/
def DictForm (d : Dict) : Prop := Tab.wf 0 d.counters = true ∧ Tab.wf Session.reset d.sessions = true

/-- The home copies, the replicas and their hit flags, and the VLAN table are canonical. -/
def TablesForm (x : Tables) : Prop :=
  Tab.wf FdbEntry.reset x.fdb = true ∧ Tab.wf StreamEntry.reset x.stream = true
  ∧ Tab.wf FdbEntry.reset x.repFdb = true ∧ Tab.wf StreamEntry.reset x.repStream = true
  ∧ Tab.wf false x.localHit = true ∧ Tab.wf Vlan.reset x.vlans = true

/-- The flow contexts are canonical. -/
def FlowForm (x : Flow) : Prop := Tab.wf Ctx.reset x.ctxs = true ∧ Tab.wf FlowDie.reset x.dies = true

/-- The buffer pool of each die and the host owners are canonical. -/
def BufForm (x : Buffers) : Prop := Tab.wf BufDie.reset x.dies = true ∧ Tab.wf 0 x.owners = true

/-- The Weirs and stream filters are canonical. -/
def SchedForm (x : Sched) : Prop := Tab.wf Weir.reset x.weirs = true ∧ Tab.wf StreamFilter.reset x.filters = true

/-- The functions' registers and the MSI-X table are canonical. -/
def EndpointForm (e : Endpoint) : Prop := Tab.wf Func.reset e.funcs = true ∧ Tab.wf MsixEntry.reset e.msix = true

/-- The polders, their fault map and the host queue groups are canonical. -/
def PoldersForm (x : Polders) : Prop :=
  Tab.wf Polder.reset x.tab = true ∧ Tab.wf false x.faultMap = true ∧ Tab.wf HostGroup.none x.groups = true

/-- The key slots and the cores are canonical. -/
def CipherForm (x : Cipher) : Prop := Tab.wf KeySlot.reset x.slots = true ∧ Tab.wf Core.reset x.cores = true

/-- Channels, regions and device DDR4 are canonical. -/
def SiphonForm (x : Siphon) : Prop :=
  Tab.wf Channel.reset x.channels = true ∧ Tab.wf Region.reset x.regions = true ∧ Tab.wf 0#8 x.ddr = true

/-- The block map of the journal is canonical. -/
def JournalForm (x : Journal) : Prop := Tab.wf Ver.zero x.map = true

/-- The event registers and the counter pages are canonical. -/
def EventsForm (e : Events) : Prop :=
  Tab.wf 0#32 e.stat = true ∧ Tab.wf 0#32 e.mask = true ∧ Tab.wf 0 e.vector = true
  ∧ Tab.wf 0 e.count = true ∧ Tab.wf Page.reset e.pages = true

/-- The addressed memory of the part and its tables are in canonical form: keys rise strictly, and no
entry holds what an unlisted key reads as. So equal contents are equal data. -/
def Canonical (s : Machine.State) : Prop :=
  MailboxForm s.mbx ∧ DictForm s.dict ∧ Tab.wf Port.reset s.ports = true ∧ Tab.wf Frer.reset s.frer = true
  ∧ TablesForm s.tables ∧ FlowForm s.flow ∧ BufForm s.buf ∧ SchedForm s.sched ∧ EndpointForm s.ep
  ∧ PoldersForm s.polders ∧ Tab.wf Queue.reset s.wq.queues = true ∧ CipherForm s.cipher
  ∧ SiphonForm s.siphon ∧ JournalForm s.jrn ∧ EventsForm s.evt

/-! ### Requests of the dictionary through the mailbox (spec 02) -/

/-- The mailbox holds an accepted request for the action `idx`.`sub`, the cores run, and no general check
refuses it: role, type and encoding of the argument (spec 02 R50, R51, R66, R68, R604). -/
def Asks (s : State) (b : Bytes) (idx sub : Nat) : Prop :=
  s.mbx.restart = false ∧ s.mbx.orphans = [] ∧ s.mbx.accepted = some b
  ∧ (s.boot.bootStatus = 2 → recoveryServes (parseMsg b 0) = true)
  ∧ (parseMsg b 0).kind = 5 ∧ (parseMsg b 0).index = idx ∧ (parseMsg b 0).sub = sub
  ∧ isAction idx sub = true ∧ actionAborts (mbxReq s true b) = []

/-- The response in MBX_RSP carries `data` of type `ty`, without ABORT: it echoes kind, request, index and
subindex, BUSY is clear and DONE is set (spec 02 Table 2.5, Table 2.6). -/
def Answered (u : State) (b : Bytes) (ty : Nat) (data : Bytes) : Prop :=
  u.mbx.accepted = none ∧ u.mbx.busy = false ∧ u.mbx.done = true ∧ u.mbx.rspLength = 28 + data.length
  ∧ u.mbx.rsp = wordsOf (buildMsg 1 (parseMsg b 0).kind (28 + data.length) 0 (parseMsg b 0).reqId u.dict.epoch 0
      (parseMsg b 0).index (parseMsg b 0).sub ty 0 0 data)

/-- The response in MBX_RSP is ABORT with a code (spec 02 Table 2.6, Table 2.8). -/
def Aborted (u : State) (b : Bytes) (code : Nat) : Prop :=
  u.mbx.accepted = none ∧ u.mbx.busy = false ∧ u.mbx.done = true ∧ u.mbx.rspLength = 28
  ∧ u.mbx.rsp = wordsOf (buildMsg 3 (parseMsg b 0).kind 28 0 (parseMsg b 0).reqId u.dict.epoch 0
      (parseMsg b 0).index (parseMsg b 0).sub 0 code 0 [])

/-- From `s` to `u` only occurrences had an effect: event status and counters, the INTx line, pending MSI-X
messages and the output. Masks, vectors and the freeze are kept. -/
def SignalsOnly (s u : State) : Prop :=
  { u with ep := s.ep, evt := s.evt, out := s.out } = s
  ∧ { u.ep with inta := s.ep.inta, msix := s.ep.msix } = s.ep
  ∧ u.evt.mask = s.evt.mask ∧ u.evt.vector = s.evt.vector ∧ u.evt.freezeAll = s.evt.freezeAll

/-- The mailbox changed as a response changes it. -/
def MailboxAnswers (m n : Mailbox) : Prop :=
  { n with rsp := m.rsp, rspLength := m.rspLength, busy := m.busy, done := m.done, accepted := m.accepted } = m

/-- From `s` to `u` only the mailbox was answered, with what an occurrence changes. -/
def AnswersOnly (s u : State) : Prop := SignalsOnly { s with mbx := u.mbx } u ∧ MailboxAnswers s.mbx u.mbx

/-- The same, with records in the Dike's log and their counter. -/
def AnswersAndLogs (s u : State) : Prop :=
  AnswersOnly { s with
    boot := { s.boot with
      dikeLog := u.boot.dikeLog, dikeSeq := u.boot.dikeSeq, dikeOverflowed := u.boot.dikeOverflowed }
    dict := { s.dict with counters := u.dict.counters } } u

/-- Asked through the mailbox at time `t`, with `ok` of the argument and the state at that time, the action
`idx`.`sub` completes: it is answered with `data` of type `ty`, and `done` holds of the argument, the
state at that time and the next state. -/
def ServesAction (mk : Rq → Instr) (idx sub : Nat) (ok : Bytes → State → Prop) (ty : Nat)
    (data : Bytes → State → Bytes) (done : Bytes → State → State → Prop) : Prop :=
  ∀ (t : Nat) (f : Bool) (s : State) (b : Bytes), Asks (advance t s) b idx sub → ok (parseMsg b 0).data (advance t s) →
    ∃ u, exec (mk { t := t, src := .mailbox, flash := f }) s = .next u
      ∧ Answered u b ty (data (parseMsg b 0).data (advance t s)) ∧ done (parseMsg b 0).data (advance t s) u

/-- The same for an action that is answered when it ends (spec 02 R72): the request is taken from the mailbox
and noted with its requester. -/
def TakesAction (mk : Rq → Instr) (idx sub : Nat) (ok : Bytes → State → Prop) (act : LongAct)
    (done : Bytes → State → State → Prop) : Prop :=
  ∀ (t : Nat) (f : Bool) (s : State) (b : Bytes), Asks (advance t s) b idx sub → ok (parseMsg b 0).data (advance t s) →
    ∃ u, exec (mk { t := t, src := .mailbox, flash := f }) s = .next u ∧ u.mbx.accepted = none ∧ u.mbx.busy = (advance t s).mbx.busy
      ∧ u.dict.acts = (advance t s).dict.acts
        ++ [{ act := act, req := reqHead (mbxReq (advance t s) true b), repeats := 0 }]
      ∧ done (parseMsg b 0).data (advance t s) u

/-- An action that is not carried out: ABORT with `code`, and nothing changes but the mailbox (spec 02 R74). -/
def RefusesAction (mk : Rq → Instr) (idx sub : Nat) (bad : Bytes → State → Prop) (code : Nat) : Prop :=
  ∀ (t : Nat) (f : Bool) (s : State) (b : Bytes), Asks (advance t s) b idx sub → bad (parseMsg b 0).data (advance t s) →
    ∃ u, exec (mk { t := t, src := .mailbox, flash := f }) s = .next u ∧ Aborted u b code ∧ AnswersOnly (advance t s) u

/-- The command answers a next state of which `P` holds. -/
def Runs (c : Instr) (s : State) (P : State → Prop) : Prop := ∃ u, exec c s = .next u ∧ P u

/-- From `s` to `u` only the dictionary's counters changed, with what an occurrence changes. -/
def CountsOnly (s u : State) : Prop :=
  SignalsOnly { s with dict := { s.dict with counters := u.dict.counters } } u

/-- A context after a request for it is served at learn-clock time `ms` (spec 06 R214). -/
def servedCtx (c : Ctx) (r : CtxReq) (ms : Nat) : Ctx :=
  { c with
    packets := (c.packets + 1) % 2 ^ 64, bytes := (c.bytes + r.length) % 2 ^ 64, last := r.stamp, lastPort := r.port
    stamp := ms
    user := match r.act.uaOp with
      | 1 => splice c.user r.act.uaOff (beBytes 4 r.act.uaValue)
      | 2 => splice c.user r.act.uaOff (beBytes 4 (beField c.user r.act.uaOff 4 + r.act.uaValue))
      | 3 => splice c.user r.act.uaOff (beBytes 4 (beField c.user r.act.uaOff 4 ||| r.act.uaValue))
      | _ => c.user }

/-- From `s` to `u` only queue `q` of function `fn` changed, to `x`. -/
def QueueSet (fn q : Nat) (x : Queue) (s u : State) : Prop :=
  u = { s with wq := u.wq } ∧ u.queue fn q = x ∧ ∀ g p, qKey g p ≠ qKey fn q → u.queue g p = s.queue g p

/-- The chain of a queue that starts at `first`, ended with a status and a result; one that is finished keeps its
own. -/
def endChain (x : Queue) (first status result : Nat) : List Chain :=
  x.chains.map (fun c => if c.first = first then
    (if c.finished then c else { c with started := true, finished := true, status := status, result := result }) else c)

/-- Queue `q` of a function that may make requests wrote `data` from the host address `addr` on: the writes, cut at
Max_Payload_Size and at 4 KiB, went out, each with its translation and PASID (spec 09 R306, R323). -/
def Writes (s : State) (fn q addr : Nat) (data : Bytes) (u : State) : Prop :=
  fnRuns s fn = true → ∀ p ∈ cutAt (writeLimit s fn) addr data.length,
    .dma fn (translate s (queueReq s fn q) p.1).1 (pasidSent s (queueReq s fn q)) (translate s (queueReq s fn q) p.1).2
      (slice data (p.1 - addr) p.2) ∈ u.out

/-- The same for the Siphon engine, which writes for a region and not for a queue. -/
def EngineWrites (s : State) (w : Requester) (addr : Nat) (data : Bytes) (u : State) : Prop :=
  fnRuns s w.fn = true → ∀ p ∈ cutAt (writeLimit s w.fn) addr data.length,
    .dma w.fn (translate s w p.1).1 (pasidSent s w) (translate s w p.1).2 (slice data (p.1 - addr) p.2) ∈ u.out

/-- The chain of a queue that starts at `first`, started. -/
def startChain (x : Queue) (first : Nat) : List Chain :=
  x.chains.map (fun c => if c.first = first then { c with started := true } else c)

/-- The bytes of the segments are there at once: neither PASID nor ACS refuses the reads, the host's bytes are of the
segments' lengths and are `d` with those of device DDR4, the reads have a tag where the host's memory is read, and
`s1` is the state once they went out (spec 09 R307, R309, R326). -/
def HostBytes (s : State) (fn q : Nat) (segs : List (Nat × Nat)) (host d : Bytes) (s1 : State) : Prop :=
  readRefused s fn q segs = false ∧ gather s segs host = some d ∧ readNow (queueReq s fn q) segs s = some s1

/-- The segments a cipher message reads: its parameter block, then its source (spec 12 R406). -/
def messageSegs (ch : Chain) : List (Nat × Nat) :=
  (eAddr (ch.entries.headD []), 32) :: (ch.entries.drop 1).map (fun e => (eAddr e, eLength e))

/-- A cipher entry whose bytes are there becomes a waiting message of its polder; while they are still to be read,
the reads go out on tags and the chain stays (spec 09 R307, 12 R406, R411). -/
def TakesMessage (mk : Nat → Nat → Nat → Option Bytes → Option Bytes → Instr) (op : Nat) : Prop :=
  ∀ (t fn q : Nat) (ch : Chain) (s : State), Canonical s → cipherChain s fn q op = some ch →
    (∀ (params source d : Bytes) (s1 : State), HostBytes (advance t s) fn q (messageSegs ch) (params ++ source) d s1 →
      Runs (mk t fn q (some params) (some source)) s (fun u =>
        u.cipher.waiting = s.cipher.waiting ++ [{
          user := .polder fn, q := q, ref := ch.first, op := op, slot := cSlot (ch.entries.headD []), params := d.take 32
          source := d.drop 32, aad := if op = 0x10 ∨ op = 0x11 then cAadLen (ch.entries.headD []) else 0
          restarted := false, key := [] }]
        ∧ u.cipher.slots = s.cipher.slots ∧ u.cipher.cores = s.cipher.cores
        ∧ u.queue fn q = { s.queue fn q with chains := startChain (s.queue fn q) ch.first }
        ∧ (∀ g p, qKey g p ≠ qKey fn q → u.queue g p = s.queue g p)
        ∧ SignalsOnly { s1 with cipher := u.cipher, wq := u.wq } u))
    ∧ (∀ params source : Option Bytes, params = none ∨ source = none → readRefused s fn q (messageSegs ch) = false →
      hostLen (messageSegs ch) ≠ 0 → fnRuns s fn = true →
      Runs (mk t fn q params source) s (fun u =>
        u = startReads (queueReq s fn q) (.data ch.first) (messageSegs ch) (advance t s)
        ∧ u.cipher = s.cipher ∧ u.wq = s.wq))

/-- The front packet of the Siphon engine is `p` with opcode `op`, clear and unmarked; its half Culvert is up, and its
channel takes packets (spec 01 R26, 13 R421, R422, R430). -/
def Receives (s : State) (op : Nat) (p : SPacket) : Prop :=
  ∃ r rest, s.siphon.rx = r :: rest ∧ packetBad r = false ∧ parsePacket r.bytes = p ∧ p.op = op ∧ r.ce = false
    ∧ culvDown s (hdCulvert (dieOf r.port)) = false
    ∧ pEnc p = false ∧ chEnc (s.channel p.chan) = false ∧ (s.channel p.chan).state ≠ 0 ∧ (s.channel p.chan).state ≠ 4
    ∧ packetFits s (s.channel p.chan) r = true

/-- A received packet is the next one its channel expects, and nothing came after it (spec 13 R441, R446). -/
def InOrder (s : State) (p : SPacket) : Prop :=
  p.psn = (s.channel p.chan).expect ∧ p.psn < 2 ^ 32 ∧ (s.channel p.chan).rcvd = [] ∧ (s.channel p.chan).refused = []
    ∧ (s.channel p.chan).ctlTx < 0xFFFFFFFE

/-- The commands that receive a packet, each with its opcode (spec 13 Table 13.2). -/
def siphonRxCommands : List ((PacketAt → Instr) × Nat) :=
  [(.siphonRxWrite, 1), (.siphonRxWriteImm, 2), (.siphonRxReadReq, 3), (.siphonRxReadResp, 4), (.siphonRxAck, 5),
   (.siphonRxNak, 6), (.siphonRxCnp, 7), (.siphonRxJcmd, 8), (.siphonRxXferRdy, 9), (.siphonRxJrsp, 0xA)]

/-- The front packet left the engine's list for channel `g`; no other channel and no region changed. -/
def TakesPacket (g : Nat) (s u : State) : Prop :=
  u.siphon.rx = s.siphon.rx.drop 1 ∧ u.siphon.regions = s.siphon.regions ∧ ∀ j, j ≠ g → u.channel j = s.channel j

/-- The bytes `data` went to `addr`: to host memory as writes of `w`, or to device DDR4 (spec 13 R433, R436). -/
def Places (s : State) (w : Requester) (addr : Nat) (data : Bytes) (u : State) : Prop :=
  (isDdr addr = false → EngineWrites s w addr data u)
  ∧ (isDdr addr = true → ddrRead u addr data.length = data)

/-- Every other chain and queue is as before. -/
def OtherQueues (fn q : Nat) (s u : State) : Prop := ∀ f p, qKey f p ≠ qKey fn q → u.queue f p = s.queue f p

/-- A WRITE, WRITE_IMM or READ entry becomes a message of its channel, in every state that takes it; a descriptor out
of range, or a place the polder may not use, ends the entry (spec 13 R437 to R439). -/
def SubmitsMessage (mk : Nat → Nat → Nat → Option Bytes → Instr) (op wire : Nat) : Prop :=
  ∀ (t fn q g : Nat) (host d : Bytes) (ch : Chain) (s s1 : State), Canonical s → siphonChain s fn q op = some ch →
    HostBytes (advance t s) fn q [(eAddr (ch.entries.headD []), 32)] host d s1 →
    chanOf s fn (sChan (ch.entries.headD [])) = some g → chanUsable (s.channel g) op = true →
    (0 < leField d 0 4 → leField d 0 4 ≤ 67108864 → slice d 28 4 = zeros 4 → (op ≠ 0x21 → leField d 24 4 = 0) →
      (isDdr (leField d 16 8) = true → bitsOf (leField d 16 8) 62 41 = 0) →
      outside s fn (if op = 0x22 then 1 else 0) (leField d 16 8) (leField d 0 4) = false →
      Runs (mk t fn q (some host)) s (fun u =>
        u.channel g = { s.channel g with
          nextMsg := ((s.channel g).nextMsg + 1) % 2 ^ 32
          msgs := (s.channel g).msgs ++ [{ SMsg.blank with
            id := (s.channel g).nextMsg, op := wire, len := leField d 0 4, key := leField d 4 4, addr := leField d 8 8
            imm := if op = 0x21 then some (leField d 24 4) else none, laddr := leField d 16 8
            total := if op = 0x22 then 0 else leField d 0 4, owner := some (fn, q, ch.first) }] }
        ∧ (∀ j, j ≠ g → u.channel j = s.channel j)
        ∧ u.queue fn q = { s.queue fn q with chains := startChain (s.queue fn q) ch.first }
        ∧ (∀ f p, qKey f p ≠ qKey fn q → u.queue f p = s.queue f p)
        ∧ SignalsOnly { s1 with siphon := u.siphon, wq := u.wq } u))
    ∧ (leField d 0 4 = 0 ∨ 67108864 < leField d 0 4 ∨ slice d 28 4 ≠ zeros 4 →
      Runs (mk t fn q (some host)) s (fun u => u.siphon = s.siphon
        ∧ u.queue fn q = { s.queue fn q with chains := endChain (s.queue fn q) ch.first stRANGE 0 }))

/-- The chain at `first` of a queue ended with a status and a result; the rest of the queue is the same. -/
def EndsChain (fn q first status result : Nat) (s u : State) : Prop :=
  u.queue fn q = { s.queue fn q with chains := endChain (s.queue fn q) first status result }

/-- The oldest startable entry of a SIPHON queue has opcode `op`, and the `n` bytes at its address are there and are
`d`; `s1` is the state once they were read (spec 13 R437, R438, 09 R307). -/
def SiphonEntry (s : State) (fn q op n : Nat) (host d : Bytes) (ch : Chain) (s1 : State) : Prop :=
  siphonChain s fn q op = some ch ∧ HostBytes s fn q [(eAddr (ch.entries.headD []), n)] host d s1

/-- A journal command of a source ended with a status and a result: its chain did, or the JRSP of its capsule is sent,
after the data for the initiator (spec 14 R485, spec 13 R452). -/
def JEnds (src : JSrc) (ref status result : Nat) (data : Bytes) (s u : State) : Prop :=
  match src with
  | .queue fn q => EndsChain fn q ref status result s u
  | .capsule g msg => ∀ x, capAt (s.channel g) msg = some x → x.responded = false →
      (u.channel g).msgs = (s.channel g).msgs
        ++ (if data = [] then [] else
            [{ SMsg.blank with id := msg, op := 4, len := data.length, total := data.length, body := data }])
        ++ [{ SMsg.blank with
              id := msg, op := 0xA, len := 16, total := 16, body := jrspBytes status (beField x.cmd 4 4) result }]

/-- A source's next command has opcode `op` and is carried out on namespace `n` (spec 14 R480, R485). -/
def JGoes (s : State) (src : JSrc) (op : Nat) (c : JCmd) (n : Nat) : Prop :=
  jFind s src op = some c ∧ jJudge s src c = .go n

/-- A journal command that is refused ends with its status and changes nothing else of the journal but the instant
of the last command of a cartridge; one that must wait changes nothing (spec 14 R470, R476, R480). -/
def JRefuses (mk : Nat → JSrc → Instr) (op : Nat) : Prop :=
  ∀ (t : Nat) (src : JSrc) (c : JCmd) (s : State), Canonical s → jFind s src op = some c →
    (∀ st, jJudge s src c = .refuse st →
      Runs (mk t src) s (fun u => JEnds src c.ref st 0 [] s u ∧ u.jrn = { s.jrn with slots := u.jrn.slots }
        ∧ ∀ i, u.cart i = { s.cart i with lastCmd := (u.cart i).lastCmd }))
    ∧ (jJudge s src c = .wait → Runs (mk t src) s (fun u => u = advance t s))

/-- The source of a journal command may be served now: a core is free, and a queue's function may make requests. -/
def JServes (s : State) (src : JSrc) : Prop :=
  farmFree s = true ∧ ∀ fn q, src = .queue fn q → fnRuns s fn = true

/-- Bit `k` of a cartridge slot's events is set (spec 16 Table 16.4). -/
def SlotEvent (u : State) (slot k : Nat) : Prop := (evtStat u 10).testBit (16 * slot + k) = true

/-- A table command while another is busy is ignored and counted (spec 05 R201). -/
def TblIgnored (mk : Nat → Nat → Bool → Nat → Instr) : Prop :=
  ∀ (t table i : Nat) (b : Bool) (s : State), barOpen s 0 = true → s.tables.busy.isSome = true →
    Runs (mk t table b i) s (fun u =>
      u = { advance t s with tables := { s.tables with ignCnt := satAdd32 s.tables.ignCnt 1 } })

/-- The mailbox holds an accepted request of a kind, in turn, and the cores that serve it run (spec 02 R65 to
R67, 15 R518). -/
def MbxHolds (s : State) (b : Bytes) (kind : Nat) : Prop :=
  s.mbx.restart = false ∧ s.mbx.orphans = [] ∧ s.mbx.accepted = some b ∧ s.boot.bootStatus ≠ 2
    ∧ (parseMsg b 0).kind = kind

/-- The response in MBX_RSP carries the two parameters, a type and data, without ABORT (spec 02 Table 2.6). -/
def Responds (u : State) (b : Bytes) (pa pb ty : Nat) (data : Bytes) : Prop :=
  u.mbx.accepted = none ∧ u.mbx.busy = false ∧ u.mbx.done = true ∧ u.mbx.rspLength = 28 + data.length
  ∧ u.mbx.rsp = wordsOf (buildMsg 1 (parseMsg b 0).kind (28 + data.length) 0 (parseMsg b 0).reqId u.dict.epoch 0
      (parseMsg b 0).index (parseMsg b 0).sub ty pa pb data)

/-- The role of the mailbox (spec 02 R66, R87). -/
def mbxRole (s : State) : Nat := roleNow s 3 s.dict.mbxVendor

/-- A message of the device on session `n`, sent as number `seq` under the session's key (spec 02 R76, R79): by the
management port, or handed to the injection queue of field port `p` (R70). -/
def Sends (s u : State) (n : Nat) (port : Option Nat) (flags kind reqId seq index sub ty pa pb : Nat) (data : Bytes) :
    Prop :=
  let b := buildMsg flags kind (44 + data.length) n reqId s.dict.epoch seq index sub ty pa pb data
  let msg := b ++ fdpTag (sessionKey s (s.session n)) s.dict.epoch seq n 1 b
  match port with
  | none => .fdp n msg ∈ u.out
  | some p => ∃ l, u.dict.outbox = s.dict.outbox ++ { port := p, session := n, msg := msg } :: l

/-- A network message of a kind that meets every check before its tag's, with a core free to check the tag (spec 02
R69, R70, R73, R75, R89, R90, 12 R393). -/
def NetAsks (s : State) (t : Nat) (port : Option Nat) (addr b : Bytes) (kind : Nat) : Prop :=
  let m := parseMsg b 16
  headerOk m b.length 44 = true ∧ b.length ≤ 1400 ∧ m.kind = kind ∧ fdpPlace s port addr = true ∧ s.dict.fdpOpen = true
    ∧ s.mbx.restart = false ∧ farmFree s = true ∧ rateRoom t s = true ∧ sessionOpen s m.session = true
    ∧ (cfg s (0x114F + m.session) 4 = zeros 16 ∨ cfg s (0x114F + m.session) 4 = addr)

/-- The tag of a network message is right (spec 02 R76). -/
def NetTag (s : State) (b : Bytes) : Prop :=
  let m := parseMsg b 16
  fdpTag (sessionKey s (s.session m.session)) m.epoch m.seq m.session 0 (b.take (b.length - 16)) = b.drop (b.length - 16)

/-- The message is fresh, and repeats none that is answered or under way (spec 02 R72, R77, R78, R81). -/
def NetFresh (s : State) (b : Bytes) : Prop :=
  let m := parseMsg b 16
  m.epoch = s.dict.epoch ∧ windowOk (s.session m.session) m.seq = true
    ∧ (s.session m.session).kept.find? (fun k => sameReq m k && keptLive s k) = none ∧ s.dict.acts = []

/-- The role of a session (spec 02 R75, R87). -/
def netRole (s : State) (n : Nat) : Nat := roleNow s (cfgN s (0x114F + n) 2) (s.session n).vendorUntil

/-- No subscription is on change, so a write sends no NOTIFY of its own (spec 02 R84, log entry 58). -/
def NoOnChange (s : State) : Prop := ∀ x ∈ s.dict.subs, x.period ≠ 0

/-- The part has started on image slot `a` with a boot status: the image runs, the stores are loaded, the start is
measured, StartEpoch has increased, its new copy is as the flash holds it (`flash`: it reads back), and PF0 answers
RRS (spec 15 R517, R520, R521, R524, 02 R56, R78, R80, 09 R316). -/
def Started (s u : State) (t a status : Nat) (flash : Bool) : Prop :=
  u.boot.started = true ∧ u.boot.slot = a ∧ u.boot.bootStatus = status ∧ u.boot.running = (slotNo s a).hdr
  ∧ u.boot.datapath = (slotNo s a).hdr ∧ u.boot.coresUp = true ∧ u.boot.hbAt = t ∧ u.boot.fieldUp = false
  ∧ u.boot.rollback = s.boot.rollback ∧ u.ep.link = 1 ∧ (u.func 0).rrs = true ∧ u.dict.fdpOpen = false
  ∧ u.boot.log.take 3 = [{ kind := 1, seq := 0, digest := Config.romDigest }, { kind := 2, seq := 0, digest := Config.fuseDigest s.boot.rollback },
                         { kind := 3, seq := 0, digest := (slotNo s a).hdr.digest }]
  ∧ (∀ c, loadedStore s.boot.store = some c → u.dict.vals = c.vals)
  ∧ (loadedStore s.boot.store = none → u.dict.vals = [] ∧ (evtStat u 0).testBit 0 = true)
  ∧ (∀ x y, s.boot.epochRec = [x, y] → x.valid = true → y.valid = false → x.epoch < 0xFFFFFFFF →
      u.dict.epoch = x.epoch + 1
      ∧ u.boot.epochRec = [x, if flash then EpochCopy.make (x.epoch + 1) x.wraps else EpochCopy.erased])
  ∧ ((∀ x ∈ s.boot.epochRec, x.valid = false) → u.dict.epoch = 1)
  ∧ u.dict.epochStored = flash ∧ (flash = false → (evtStat u 0).testBit 1 = true)

/-! ### Frames by block -/

/-- The blocks of the state, as frames speak of them. The dictionary's counters and the functions' registers
of the endpoint are named apart from the rest of their blocks. -/
inductive Blk where
  | free | id | board | boot | counters | dict | mbx | ports | time | frer | cls | tables | flow | buf | sched
  | ep | funcs | polders | wq | cipher | siphon | jrn | test | culv
deriving DecidableEq, Repr

/-- The block is the same in both states. What every occurrence and the passage of time may change is no part
of a block: the clock, the time base's reading, the output, the event and counter registers of chapter 16,
the INTx line and the MSI-X entries, whose pending bits an occurrence sets. -/
def Same (s t : State) : Blk → Prop
  | .free => t.freeCtr = s.freeCtr
  | .id => t.nextId = s.nextId
  | .board => t.board = s.board
  | .boot => t.boot = s.boot
  | .counters => t.dict.counters = s.dict.counters
  | .dict => { t.dict with counters := s.dict.counters } = s.dict
  | .mbx => t.mbx = s.mbx
  | .ports => t.ports = s.ports
  | .time => { t.time with num := s.time.num } = s.time
  | .frer => t.frer = s.frer
  | .cls => t.cls = s.cls
  | .tables => t.tables = s.tables
  | .flow => t.flow = s.flow
  | .buf => t.buf = s.buf
  | .sched => t.sched = s.sched
  | .ep => { t.ep with funcs := s.ep.funcs, msix := s.ep.msix, inta := s.ep.inta } = s.ep
  | .funcs => t.ep.funcs = s.ep.funcs
  | .polders => t.polders = s.polders
  | .wq => t.wq = s.wq
  | .cipher => t.cipher = s.cipher
  | .siphon => t.siphon = s.siphon
  | .jrn => t.jrn = s.jrn
  | .test => t.test = s.test
  | .culv => t.culv = s.culv

/-- From `s` to `t` no block outside `l` changed, and the waiting commands are the same. -/
def Frame (l : List Blk) (s t : State) : Prop := t.pending = s.pending ∧ ∀ b, b ∉ l → Same s t b

/-- The blocks each command may change, whatever its operands and the state. -/
def touches : Instr → List Blk
  | .coldStart .. | .perstNRelease .. | .writeCacheDrainEnd .. | .emergencyDrainDone .. =>
      [.free, .board, .boot, .counters, .dict, .mbx, .ports, .time, .frer, .cls, .tables, .flow, .buf,
       .sched, .ep, .funcs, .polders, .wq, .cipher, .siphon, .jrn, .test, .culv]
  | .ddr4TrainingDone .. | .activationCheck .. | .activationTimeout .. | .heartbeat .. =>
      [.boot]
  | .pf0Ready .. | .interruptDisableWrite .. | .msixEnableWrite .. | .msixUnmask .. | .flrComplete ..
  | .priReset .. | .evtStatWrite .. | .evtMaskWrite .. | .evtVectorWrite .. | .evtTestWrite ..
  | .ctrSelWrite .. | .ctrLoRead .. | .ctrValueWrite .. | .ctrOvfClear .. | .clearAll .. | .freezeAll ..
  | .pageOvfClear .. =>
      [.funcs]
  | .fieldInService .. =>
      [.boot, .counters, .dict, .ports, .tables, .buf, .sched, .ep, .funcs, .polders, .wq, .siphon]
  | .allReady .. =>
      [.boot, .wq, .siphon, .jrn]
  | .perstNAssert .. | .fullResetMark .. | .railFault .. | .refclkLoss .. =>
      [.board, .boot, .counters, .dict, .mbx, .ports, .time, .frer, .cls, .tables, .flow, .buf, .sched,
       .ep, .funcs, .polders, .wq, .cipher, .siphon, .jrn, .test, .culv]
  | .hotReset .. | .linkDown .. | .flrInitiate .. =>
      [.boot, .counters, .dict, .mbx, .tables, .buf, .sched, .ep, .funcs, .wq, .cipher, .siphon, .jrn]
  | .linkUp .. | .vfEnable .. | .tagQuarantineEnd .. | .invalidateRequest .. | .invalidateComplete .. =>
      [.ep]
  | .acFailFall .. =>
      [.board, .counters, .jrn]
  | .acFailRise .. | .thermtrip .. =>
      [.board, .jrn]
  | .thermalSample .. =>
      [.board, .counters]
  | .flitReceive .. =>
      [.culv]
  | .culvertDown .. =>
      [.counters, .buf, .ep, .funcs, .polders, .wq, .siphon, .culv]
  | .culvertRetrain .. | .replicaWrite .. | .hitNotice .. =>
      [.tables, .culv]
  | .replicaResyncDone .. | .learnFilterExpiry .. | .flushSweep .. | .flushSweepEnd ..
  | .tblCommandComplete .. =>
      [.tables]
  | .frameReceive .. | .recircPass .. | .ptpMessage .. =>
      [.free, .id, .counters, .dict, .time, .frer, .cls, .tables, .flow, .buf, .sched, .ep, .funcs,
       .polders, .wq, .siphon, .culv]
  | .contextRequest .. | .fetchComplete .. =>
      [.id, .counters, .flow, .buf, .ep, .funcs, .polders, .wq, .siphon, .culv]
  | .fetchIssue .. =>
      [.free, .counters, .flow]
  | .flowAgerVisit .. =>
      [.counters, .flow, .buf, .wq]
  | .frameEnqueue .. | .hostTxSelect .. =>
      [.id, .counters, .buf, .sched, .ep, .funcs, .polders, .wq, .siphon, .culv]
  | .injectionFrame .. =>
      [.id, .counters, .dict, .buf, .sched]
  | .txSelect .. =>
      [.free, .counters, .frer, .buf, .sched, .ep, .funcs, .polders, .wq, .siphon]
  | .frameTxComplete .. =>
      [.id, .counters, .dict, .buf, .sched, .ep, .funcs, .polders, .wq, .siphon]
  | .gateEntryChange .. =>
      [.sched]
  | .gateConfigApply .. =>
      [.counters, .buf, .sched, .ep, .funcs, .polders, .wq, .siphon]
  | .rxDeliver .. | .completionTimeout .. | .wrap .. | .siphonWrite .. | .siphonWriteImm .. | .siphonRead ..
  | .jcmdSend .. | .channelQuery .. | .regionRegister .. =>
      [.counters, .buf, .ep, .funcs, .polders, .wq, .siphon]
  | .samplePeriodExpiry .. | .txFrame .. =>
      [.counters, .buf, .sched, .ep, .funcs, .polders, .wq]
  | .learn .. =>
      [.counters, .tables, .culv]
  | .agerVisit .. =>
      [.counters, .tables]
  | .bankRetire .. =>
      [.cls]
  | .linkStateChange .. | .portRetry .. | .frrConditionChange .. | .frrDebounceExpiry .. =>
      [.counters, .ports, .tables, .buf, .sched, .ep, .funcs, .polders, .wq, .siphon]
  | .frrRevertHoldExpiry .. =>
      [.ports]
  | .frerResetTimeout .. =>
      [.frer]
  | .timeSourceLost .. | .ppsOutRise .. | .ppsOutFall .. =>
      [.time]
  | .ppsInEdge .. =>
      [.free, .dict, .time]
  | .mbxGo .. =>
      [.counters, .mbx, .funcs]
  | .registerWrite .. =>
      [.free, .counters, .mbx, .tables, .buf, .sched, .ep, .funcs, .polders, .wq, .cipher, .siphon, .jrn]
  | .read .. | .readBlock .. | .unsubscribe .. | .frerStreamRead .. | .ruleRead .. | .ruleCounterRead ..
  | .programRead .. | .vlanRead .. | .groupRead .. | .flowRead .. | .bufOwnerRead .. | .bufPolderOwner ..
  | .weirRead .. | .streamFilterRead .. | .functionStatus .. | .hostGroupRead .. | .queueStatusRead ..
  | .keySlotInfo .. | .channelInfo .. | .namespaceRead .. | .eventClear .. | .portEventMapClear ..
  | .deviceCounterRead .. | .polderCounterSelect .. | .polderCounterRead .. =>
      [.counters, .dict, .mbx]
  | .write .. | .writeBlock .. | .serviceToken .. | .keyBlob .. | .dikeDmaWindows .. =>
      [.boot, .counters, .dict, .mbx, .ports, .time, .tables, .buf, .sched, .ep, .funcs, .polders, .wq,
       .cipher, .siphon]
  | .subscribe .. =>
      [.free, .counters, .dict, .mbx]
  | .subscriptionTimer .. =>
      [.counters, .dict]
  | .snapshotExpiry .. | .keptResponseExpiry .. | .tokenExpiry .. =>
      [.dict]
  | .stagingExpiry .. =>
      [.boot, .dict]
  | .storeAll .. | .storeAllComplete .. | .restoreDefaults .. | .rollbackAdvance .. | .dikeLogClear .. =>
      [.boot, .counters, .dict, .mbx]
  | .timeSet .. | .timeAdjust .. =>
      [.counters, .dict, .mbx, .time, .buf, .sched, .ep, .funcs, .polders, .wq, .siphon]
  | .frrRevert .. =>
      [.counters, .dict, .mbx, .ports]
  | .frerStreamWrite .. =>
      [.boot, .counters, .dict, .mbx, .frer]
  | .ruleWrite .. | .ruleClearRange .. | .ruleCounterClear .. | .parseStateWrite .. | .transitionWrite ..
  | .keyProfileWrite .. | .classMapWrite .. | .bankSwap .. =>
      [.boot, .counters, .dict, .mbx, .cls]
  | .tblRead .. | .tblWrite .. | .tblDelete .. | .tblSearch .. | .flushByDest .. | .ageNow .. =>
      [.counters, .tables, .funcs]
  | .tableClear .. | .vlanWrite .. | .groupWrite .. =>
      [.boot, .counters, .dict, .mbx, .tables]
  | .flowWrite .. | .flowPin .. =>
      [.free, .boot, .counters, .dict, .mbx, .flow]
  | .flowDelete .. | .flowClear .. =>
      [.boot, .counters, .dict, .mbx, .flow]
  | .flowClearComplete .. =>
      [.counters, .dict, .mbx, .flow]
  | .bufErrorLatchClear .. =>
      [.counters, .dict, .mbx, .buf]
  | .gateConfigChange .. | .weirWrite .. | .weirUnblock .. | .weirCounterClear .. | .streamFilterWrite .. =>
      [.boot, .counters, .dict, .mbx, .sched]
  | .queueLatencyMax .. =>
      [.counters, .dict, .mbx, .sched]
  | .commit .. =>
      [.boot, .counters, .dict, .mbx, .buf, .polders]
  | .adjust .. =>
      [.boot, .counters, .dict, .mbx, .buf, .polders, .wq]
  | .remove .. =>
      [.boot, .counters, .dict, .mbx, .buf, .sched, .ep, .polders, .wq, .cipher, .siphon, .jrn]
  | .polderRemoveComplete .. =>
      [.buf, .polders, .wq, .cipher, .siphon, .jrn]
  | .hostOwnerRelease .. =>
      [.buf]
  | .polderFaultClear .. =>
      [.counters, .dict, .mbx, .polders]
  | .hostGroupWrite .. =>
      [.boot, .counters, .dict, .mbx, .polders]
  | .quiesce .. | .cartQuiesced .. | .selfTestStart .. | .namespaceAttach .. | .namespaceDetach .. =>
      [.counters, .dict, .mbx, .jrn]
  | .sanitize .. | .namespaceDelete .. | .namespaceFormat .. | .cartRemoval .. =>
      [.counters, .dict, .mbx, .wq, .cipher, .siphon, .jrn]
  | .namespaceCreate .. | .namespaceKeyLoad .. =>
      [.counters, .dict, .mbx, .cipher, .jrn]
  | .firmwareActivate .. =>
      [.boot, .counters, .dict, .mbx, .time, .wq, .jrn]
  | .activationComplete .. =>
      [.free, .boot, .counters, .dict, .mbx, .buf, .polders, .wq, .cipher, .siphon, .jrn, .test]
  | .dikeHeartbeatTimeout .. =>
      [.boot, .counters, .dict, .mbx, .ports, .time, .tables, .buf, .sched, .ep, .funcs, .polders, .wq,
       .cipher, .siphon, .jrn]
  | .coreRestartComplete .. =>
      [.boot, .counters, .dict, .mbx, .wq, .siphon, .jrn]
  | .selfTestRun .. =>
      [.boot, .counters, .dict, .mbx, .ports, .cls, .tables, .flow, .buf, .sched, .ep, .funcs, .polders,
       .wq, .siphon, .test]
  | .selfTestEnd .. =>
      [.boot, .counters, .dict, .mbx, .test]
  | .dieReturn .. =>
      [.counters, .dict, .mbx, .test]
  | .dieReturnComplete .. =>
      [.boot, .counters, .ports, .frer, .cls, .tables, .flow, .buf, .sched, .ep, .funcs, .polders, .wq,
       .siphon, .jrn, .test]
  | .junctionTempMaxClear .. =>
      [.board, .counters, .dict, .mbx]
  | .configRequest .. =>
      [.free, .counters, .buf, .sched, .ep, .funcs, .polders, .wq, .cipher, .siphon, .jrn]
  | .busMasterDisable .. | .completionReceive .. =>
      [.counters, .buf, .sched, .ep, .funcs, .polders, .wq, .cipher, .siphon, .jrn]
  | .powerStateWrite .. =>
      [.counters, .buf, .funcs]
  | .flrDrainCap .. =>
      [.free, .counters, .funcs, .polders]
  | .translationResponse .. =>
      [.free, .counters, .buf, .ep, .polders, .wq]
  | .prgResponse .. | .heldRelease .. =>
      [.counters, .buf, .ep, .funcs, .polders, .wq]
  | .pageRequestTimeout .. =>
      [.counters, .buf, .ep, .polders, .wq]
  | .qNop .. | .qLoad .. | .qRead .. | .qEnable .. =>
      [.funcs, .wq]
  | .qDisable .. =>
      [.counters, .buf, .ep, .funcs, .wq]
  | .qReset .. =>
      [.counters, .buf, .sched, .ep, .funcs, .wq, .cipher, .siphon, .jrn]
  | .tailDoorbell .. | .headDoorbell .. =>
      [.counters, .buf, .funcs, .polders, .wq]
  | .entryFetch .. =>
      [.counters, .buf, .ep, .funcs, .polders, .wq, .jrn]
  | .chainDone .. =>
      [.free, .counters, .buf, .ep, .funcs, .polders, .wq]
  | .modTimeExpiry .. | .rxBuf .. =>
      [.wq]
  | .gcmEncrypt .. | .gcmDecrypt .. | .gmacGenerate .. | .gmacVerify .. | .ctr .. | .xtsEncrypt ..
  | .xtsDecrypt .. | .unwrap .. =>
      [.counters, .buf, .ep, .funcs, .polders, .wq, .cipher]
  | .slotClear .. =>
      [.wq, .cipher]
  | .cipherDispatch .. =>
      [.wq, .cipher, .jrn]
  | .cipherMessageDone .. | .channelModify .. | .journalWrite .. =>
      [.counters, .buf, .ep, .funcs, .polders, .wq, .cipher, .siphon, .jrn]
  | .cipherCoreFault .. =>
      [.counters, .wq, .cipher, .jrn]
  | .recvNotify .. | .regionRevoke .. | .revokeFence .. =>
      [.wq, .siphon]
  | .siphonPacketSend .. =>
      [.free, .id, .counters, .buf, .ep, .funcs, .polders, .wq, .siphon, .culv]
  | .siphonRxWrite .. | .siphonRxWriteImm .. | .siphonRxReadReq .. | .siphonRxReadResp .. | .siphonRxAck ..
  | .siphonRxNak .. | .siphonRxCnp .. | .siphonRxJcmd .. | .siphonRxXferRdy .. | .siphonRxJrsp ..
  | .siphonAckDelay .. | .siphonCnpInterval .. =>
      [.free, .id, .counters, .buf, .ep, .funcs, .polders, .wq, .cipher, .siphon, .jrn, .culv]
  | .siphonRtoExpiry .. | .siphonXferTimeout .. =>
      [.counters, .wq, .cipher, .siphon, .jrn]
  | .siphonPathHold .. | .siphonStepTimer .. | .xferGrant .. =>
      [.siphon]
  | .journalRead .. | .identify .. | .logRead .. =>
      [.counters, .buf, .ep, .funcs, .polders, .wq, .siphon, .jrn]
  | .journalFlush .. =>
      [.counters, .wq, .siphon, .jrn]
  | .deallocate .. | .journalSelfTest .. | .unitDrain .. | .sanitizeComplete .. | .formatComplete .. =>
      [.wq, .siphon, .jrn]
  | .journalSanitize .. | .journalFormat .. | .unitAccept .. =>
      [.wq, .cipher, .siphon, .jrn]
  | .rebuildDone .. | .cartSelfTestResume .. | .cartSelfTestDone .. | .cartPresentDebounce ..
  | .cartLinkTimeout .. | .cartPrsntNFall .. =>
      [.jrn]
  | .cartLinkTrained .. =>
      [.free, .jrn]
  | .cartOnline .. =>
      [.cipher, .jrn]
  | .smbusJunctionTemp =>
      [.free]
  | .smbusStatus | .smbusPowerEstimate | .smbusJunctionTempFine | .smbusStepping =>
      []
  | .extest | .samplePreload .. | .extestPulse | .extestTrain =>
      [.free, .board]
  | .idcode | .bypass .. | .clamp | .highz | .acFailNHigh .. =>
      [.board]
  | .writeBackReachesDdr4 .. =>
      [.flow]

end Sys2Proof
end

