-- ==== Sys2Proof/Certificates/Slice0/Obligations.lean ====
section
/-! DEFINITION. What is stated of the model, for the provers. A time `t` is the instant a command takes
place; `advance t s` is the state at that instant, before the command's effect. -/

open Sys2Proof Sys2Proof.Machine

/-! ### Actions of the classifier, the tables, streams, Weirs, flows, buffers and ports -/

/-- 04 R140, R155, R156, R165, R166: writes of a bank that is not active complete and change that bank alone; a rule
may also be written to the active bank; its stored value is value AND mask; BankSwap makes the named bank active and
retires the other on the four dies. Readings the model took: log entries 27, 82. -/
def Obligations.ClassifierWrites : Prop :=
  ServesAction .ruleWrite 0x2810 0
    (fun d s => byteAt d 0 ≤ 1 ∧ bankStatus s (byteAt d 0) ≠ 2 ∧ byteAt d 1 ≤ 1 ∧ beField d 2 2 ≤ 16383
      ∧ badActionRecord (slice d 132 32) = false) 0 (fun _ _ => [])
    (fun d s u => u.cls = { s.cls with banks := s.cls.banks.set (byteAt d 0) { bankAt s (byteAt d 0) with
        rules := Tab.set Rule.reset (bankAt s (byteAt d 0)).rules (beField d 2 2)
          { valid := decide (byteAt d 1 = 1), value := beField d 4 64 &&& beField d 68 64, mask := beField d 68 64,
            action := slice d 132 32 } } }
      ∧ AnswersAndLogs { s with cls := u.cls } u)
  ∧ ServesAction .ruleClearRange 0x2812 0
    (fun d s => byteAt d 0 ≤ 1 ∧ bankStatus s (byteAt d 0) ≠ 2 ∧ byteAt d 1 = 0 ∧ 1 ≤ beField d 4 2
      ∧ beField d 2 2 + beField d 4 2 ≤ 16384) 0 (fun _ _ => [])
    (fun d s u => u.cls = { s.cls with banks := s.cls.banks.set (byteAt d 0) { bankAt s (byteAt d 0) with
        rules := (bankAt s (byteAt d 0)).rules.filter
          (fun e => decide (e.1 < beField d 2 2) || decide (beField d 2 2 + beField d 4 2 ≤ e.1)) } }
      ∧ AnswersAndLogs { s with cls := u.cls } u)
  ∧ ServesAction .parseStateWrite 0x2820 0
    (fun d s => byteAt d 0 ≤ 1 ∧ bankStatus s (byteAt d 0) = 0 ∧ 16 ≤ byteAt d 1 ∧ byteAt d 1 ≤ 47
      ∧ badStateRecord (slice d 2 32) = false) 0 (fun _ _ => [])
    (fun d s u => u.cls = { s.cls with banks := s.cls.banks.set (byteAt d 0) { bankAt s (byteAt d 0) with
        states := Tab.set (zeros 32) (bankAt s (byteAt d 0)).states (byteAt d 1) (slice d 2 32) } }
      ∧ AnswersAndLogs { s with cls := u.cls } u)
  ∧ ServesAction .transitionWrite 0x2821 0
    (fun d s => byteAt d 0 ≤ 1 ∧ bankStatus s (byteAt d 0) = 0 ∧ choosesNext (byteAt d 2) = true
      ∧ 16 ≤ byteAt d 3 ∧ byteAt d 3 ≤ 47 ∧ byteAt d 8 ≤ 1 ∧ byteAt d 9 = 0) 0 (fun _ _ => [])
    (fun d s u => u.cls = { s.cls with banks := s.cls.banks.set (byteAt d 0) { bankAt s (byteAt d 0) with
        trans := Tab.set Transition.reset (bankAt s (byteAt d 0)).trans (byteAt d 1)
          { valid := decide (byteAt d 8 = 1), src := byteAt d 2, dst := byteAt d 3, value := beField d 4 2,
            mask := beField d 6 2 } } }
      ∧ AnswersAndLogs { s with cls := u.cls } u)
  ∧ ServesAction .keyProfileWrite 0x2822 0
    (fun d s => byteAt d 0 ≤ 1 ∧ bankStatus s (byteAt d 0) = 0 ∧ byteAt d 1 ≤ 15
      ∧ ∀ x ∈ selectors (d.drop 2), x ≤ 511 ∨ x = 0xFFFF) 0 (fun _ _ => [])
    (fun d s u => u.cls = { s.cls with banks := s.cls.banks.set (byteAt d 0) { bankAt s (byteAt d 0) with
        profiles := Tab.set (List.replicate 63 0xFFFF) (bankAt s (byteAt d 0)).profiles (byteAt d 1)
          (selectors (d.drop 2)) } }
      ∧ AnswersAndLogs { s with cls := u.cls } u)
  ∧ ServesAction .classMapWrite 0x2823 0
    (fun d s => byteAt d 0 ≤ 1 ∧ bankStatus s (byteAt d 0) = 0 ∧ byteAt d 1 = 0 ∧ ∀ x ∈ d.drop 2, x.toNat ≤ 15)
    0 (fun _ _ => [])
    (fun d s u => u.cls = { s.cls with banks := s.cls.banks.set (byteAt d 0) { bankAt s (byteAt d 0) with
        classMap := (List.range 256).foldl (fun m i => Tab.set 0 m i (byteAt d (2 + i))) [] } }
      ∧ AnswersAndLogs { s with cls := u.cls } u)
  ∧ ServesAction .bankSwap 0x2800 4
    (fun d s => beNat d ≤ 1 ∧ bankStatus s (beNat d) = 0) 0 (fun _ _ => [])
    (fun d s u => u.cls = { s.cls with active := beNat d, retiring := [0, 1, 2, 3] }
      ∧ AnswersAndLogs { s with cls := u.cls } u)

/-- 04 R159, R165, R168: the reads of the classifier answer what the bank holds and change nothing but the mailbox;
RuleCounterClear zeroes a counter of the four dies. Readings the model took: log entries 27, 82. -/
def Obligations.ClassifierReads : Prop :=
  ServesAction .ruleRead 0x2811 0
    (fun d _ => byteAt d 0 ≤ 1 ∧ byteAt d 1 = 0 ∧ beField d 2 2 ≤ 16383) 9
    (fun d s => slice d 0 1 ++ [byteOf (boolNat (ruleAt (bankAt s (byteAt d 0)) (beField d 2 2)).valid)]
      ++ beBytes 2 (beField d 2 2) ++ beBytes 64 (ruleAt (bankAt s (byteAt d 0)) (beField d 2 2)).value
      ++ beBytes 64 (ruleAt (bankAt s (byteAt d 0)) (beField d 2 2)).mask
      ++ (ruleAt (bankAt s (byteAt d 0)) (beField d 2 2)).action)
    (fun _ s u => AnswersOnly s u)
  ∧ ServesAction .ruleCounterRead 0x2813 0 (fun d _ => beNat d ≤ 4095) 9
    (fun d s => beBytes 8 (ruleCounterSum s.cls.ruleFrames (beNat d)) ++ beBytes 8 (ruleCounterSum s.cls.ruleBytes (beNat d)))
    (fun _ s u => AnswersOnly s u)
  ∧ ServesAction .programRead 0x2824 0
    (fun d _ => byteAt d 0 ≤ 1 ∧ byteAt d 1 ≤ 3 ∧ (byteAt d 1 = 0 → 16 ≤ beField d 2 2 ∧ beField d 2 2 ≤ 47)
      ∧ (byteAt d 1 = 1 → beField d 2 2 ≤ 255) ∧ (byteAt d 1 = 2 → beField d 2 2 ≤ 15)) 9
    (fun d s => programRecord s (byteAt d 0) (byteAt d 1) (beField d 2 2))
    (fun _ s u => AnswersOnly s u)
  ∧ ServesAction .ruleCounterClear 0x2814 0 (fun d _ => beNat d ≤ 4095) 0 (fun _ _ => [])
    (fun d s u => (∀ die < 4, Tab.get 0 u.cls.ruleFrames (ruleCounterKey die (beNat d)) = 0
        ∧ Tab.get 0 u.cls.ruleBytes (ruleCounterKey die (beNat d)) = 0)
      ∧ AnswersAndLogs { s with cls := { s.cls with ruleFrames := u.cls.ruleFrames, ruleBytes := u.cls.ruleBytes } } u)

/-- 05 R177, R178, R206: the VLAN table, the group table and TableClear.
Readings the model took: log entries 27, 82. -/
def Obligations.TableActions : Prop :=
  ServesAction .vlanWrite 0x2910 0
    (fun d s => 1 ≤ beField d 0 2 ∧ beField d 0 2 ≤ 4094 ∧ beField d 2 2 ≤ 4095 ∧ byteAt d 4 ≤ 3 ∧ byteAt d 5 = 0
      ∧ badMembers s (slice d 6 64) = false) 0 (fun _ _ => [])
    (fun d s u => u.tables = { s.tables with
        vlans := Tab.set Vlan.reset s.tables.vlans (beField d 0 2)
          { valid := (byteAt d 4).testBit 0, learn := (byteAt d 4).testBit 1, fid := beField d 2 2,
            members := slice d 6 64, untagged := slice d 70 64 } }
      ∧ AnswersAndLogs { s with tables := u.tables } u)
  ∧ ServesAction .vlanRead 0x2911 0 (fun d _ => 1 ≤ beNat d ∧ beNat d ≤ 4094) 9
    (fun d s => beBytes 2 (beNat d) ++ beBytes 2 (vlanAt s (beNat d)).fid
      ++ [byteOf (boolNat (vlanAt s (beNat d)).valid + 2 * boolNat (vlanAt s (beNat d)).learn), 0]
      ++ (vlanAt s (beNat d)).members ++ (vlanAt s (beNat d)).untagged)
    (fun _ s u => AnswersOnly s u)
  ∧ ServesAction .groupWrite 0x2912 0
    (fun d s => 512 ≤ beField d 0 2 ∧ beField d 0 2 ≤ 4095 ∧ badMembers s (slice d 2 64) = false) 0 (fun _ _ => [])
    (fun d s u => u.tables = { s.tables with
        groups := Tab.set (zeros 64) s.tables.groups (beField d 0 2) (slice d 2 64) }
      ∧ AnswersAndLogs { s with tables := u.tables } u)
  ∧ ServesAction .groupRead 0x2913 0 (fun d _ => 512 ≤ beNat d ∧ beNat d ≤ 4095) 9
    (fun d s => beBytes 2 (beNat d) ++ groupAt s (beNat d)) (fun _ s u => AnswersOnly s u)
  ∧ ServesAction .tableClear 0x2900 6 (fun d _ => beNat d ≤ 1) 0 (fun _ _ => [])
    (fun d s u => (beNat d = 0 → u.tables.fdb = [] ∧ u.tables.repFdb = [] ∧ u.tables.localHit = []
        ∧ u.tables.stream = s.tables.stream ∧ u.tables.repStream = s.tables.repStream
        ∧ u.tables.repQ = s.tables.repQ.filter (fun w => decide (w.table ≠ 0)))
      ∧ (beNat d = 1 → u.tables.stream = [] ∧ u.tables.repStream = [] ∧ u.tables.fdb = s.tables.fdb
        ∧ u.tables.repFdb = s.tables.repFdb ∧ u.tables.localHit = s.tables.localHit
        ∧ u.tables.repQ = s.tables.repQ.filter (fun w => decide (w.table = 0)))
      ∧ u.tables.vlans = s.tables.vlans ∧ u.tables.groups = s.tables.groups
      ∧ AnswersAndLogs { s with tables := u.tables } u)

/-- 03 R128 to R134: a write of a FRER stream sets its record and restarts its recovery and counters; a read answers
it; once ResetTimeout has passed since the last accepted frame the next frame of the stream is taken, and not
before. Readings the model took: log entries 19, 27, 82. -/
def Obligations.FrerStreams : Prop :=
  ServesAction .frerStreamWrite 0x2780 0
    (fun d s => beField d 0 2 ≤ 16383 ∧ byteAt d 2 ≤ 2
      ∧ (byteAt d 2 ≠ 0 → beField d 3 2 ≤ 511 ∧ portExists s (beField d 3 2) = true)
      ∧ 2 ≤ byteAt d 5 ∧ byteAt d 5 ≤ 64 ∧ 1 ≤ beField d 6 2 ∧ beField d 6 2 ≤ 10000 ∧ slice d 9 3 = zeros 3
      ∧ byteAt d 8 ≤ 1) 0 (fun _ _ => [])
    (fun d s u => u.frer = Tab.set Frer.reset s.frer (beField d 0 2) { Frer.reset with
        mode := byteAt d 2, port := beField d 3 2, history := byteAt d 5, timeout := beField d 6 2,
        strip := decide (byteAt d 8 = 1) }
      ∧ AnswersAndLogs { s with frer := u.frer } u)
  ∧ ServesAction .frerStreamRead 0x2781 0 (fun d _ => beNat d ≤ 16383) 9
    (fun d s => frerRecord (beNat d) (s.frerAt (beNat d)) ++ [byteOf (boolNat (s.frerAt (beNat d)).takeAny)]
      ++ beBytes 2 (s.frerAt (beNat d)).rcv ++ [0]
      ++ ((List.range 8).map (fun k => beBytes 8 (Tab.get 0 (s.frerAt (beNat d)).ctr k))).flatten)
    (fun _ s u => AnswersOnly s u)
  ∧ (∀ (t i : Nat) (s : State), i < 16384 → (s.frerAt i).mode = 2 → (s.frerAt i).takeAny = false →
    (s.frerAt i).acceptAt + (s.frerAt i).timeout * 10 ^ 12 ≤ t →
    Runs (.frerResetTimeout ⟨t, i⟩) s (fun u =>
      u.frerAt i = { s.frerAt i with takeAny := true, ctr := (u.frerAt i).ctr }
      ∧ Tab.get 0 (u.frerAt i).ctr 6 = satAdd64 (Tab.get 0 (s.frerAt i).ctr 6) 1
      ∧ (∀ j, j ≠ i → u.frerAt j = s.frerAt j)
      ∧ SignalsOnly { advance t s with frer := u.frer } u))
  ∧ (∀ (t i : Nat) (s : State), t < (s.frerAt i).acceptAt + (s.frerAt i).timeout * 10 ^ 12 →
    Runs (.frerResetTimeout ⟨t, i⟩) s (fun u => u = advance t s))

/-- 08 R280 to R284: the actions of the Weirs of one die or of all four, and of the stream filters. A write fills
both buckets to their bursts and clears blocked, its counters stay; every Weir that is not named is as before; an
argument that R283 or R284 refuses is answered RANGE. Readings the model took: log entries 27, 82. -/
def Obligations.WeirActions : Prop :=
  ServesAction .weirWrite 0x2600 0
    (fun d s => (byteAt d 0 ≤ 3 ∨ byteAt d 0 = 0xFF) ∧ byteAt d 1 ≤ 7 ∧ beField d 2 2 ≤ 16383
      ∧ beField d 4 4 ≤ beField d 12 4 ∧ (beField d 4 4 ≠ 0 → beField d 8 4 ≠ 0)
      ∧ (beField d 12 4 ≠ 0 → beField d 16 4 ≠ 0) ∧ beField d 22 2 = 0 ∧ Canonical s) 0 (fun _ _ => [])
    (fun d s u => (∀ die ∈ diesOf (byteAt d 0), u.weir die (beField d 2 2) = { s.weir die (beField d 2 2) with
          valid := (byteAt d 1).testBit 0, aware := (byteAt d 1).testBit 1, block := (byteAt d 1).testBit 2,
          cir := beField d 4 4, cbs := beField d 8 4, pir := beField d 12 4, pbs := beField d 16 4,
          maxSdu := beField d 20 2, tc := beField d 8 4 * 65536, tp := beField d 16 4 * 65536,
          last := s.clock / 781250, blocked := false })
      ∧ (∀ die < 4, ∀ w < 16384, (die ∈ diesOf (byteAt d 0) → w ≠ beField d 2 2) → u.weir die w = s.weir die w)
      ∧ AnswersAndLogs { s with sched := { s.sched with weirs := u.sched.weirs } } u)
  ∧ ServesAction .weirRead 0x2601 0 (fun d _ => byteAt d 0 ≤ 3 ∧ byteAt d 1 = 0 ∧ beField d 2 2 ≤ 16383) 9
    (fun d s => weirRecord (byteAt d 0) (beField d 2 2) (s.weir (byteAt d 0) (beField d 2 2))
      ++ [byteOf (boolNat (s.weir (byteAt d 0) (beField d 2 2)).blocked)] ++ zeros 7
      ++ [0, 3, 1, 4, 2, 5, 6, 7].flatMap (fun k => beBytes 8 (Tab.get 0 (s.weir (byteAt d 0) (beField d 2 2)).ctr k)))
    (fun _ s u => AnswersOnly s u)
  ∧ ServesAction .weirUnblock 0x2602 0
    (fun d s => (byteAt d 0 ≤ 3 ∨ byteAt d 0 = 0xFF) ∧ byteAt d 1 = 0 ∧ beField d 2 2 ≤ 16383
      ∧ Canonical s) 0 (fun _ _ => [])
    (fun d s u => (∀ die ∈ diesOf (byteAt d 0),
        u.weir die (beField d 2 2) = { s.weir die (beField d 2 2) with blocked := false })
      ∧ (∀ die < 4, ∀ w < 16384, (die ∈ diesOf (byteAt d 0) → w ≠ beField d 2 2) → u.weir die w = s.weir die w)
      ∧ AnswersAndLogs { s with sched := { s.sched with weirs := u.sched.weirs } } u)
  ∧ ServesAction .weirCounterClear 0x2603 0
    (fun d s => (byteAt d 0 ≤ 3 ∨ byteAt d 0 = 0xFF) ∧ byteAt d 1 = 0 ∧ beField d 2 2 ≤ 16383
      ∧ Canonical s) 0 (fun _ _ => [])
    (fun d s u => (∀ die ∈ diesOf (byteAt d 0),
        u.weir die (beField d 2 2) = { s.weir die (beField d 2 2) with ctr := [] })
      ∧ (∀ die < 4, ∀ w < 16384, (die ∈ diesOf (byteAt d 0) → w ≠ beField d 2 2) → u.weir die w = s.weir die w)
      ∧ AnswersAndLogs { s with sched := { s.sched with weirs := u.sched.weirs } } u)
  ∧ ServesAction .streamFilterWrite 0x2610 0
    (fun d _ => beField d 0 2 ≤ 16383 ∧ byteAt d 2 ≤ 1 ∧ (byteAt d 3 ≤ 7 ∨ byteAt d 3 = 0xFF)
      ∧ (beField d 4 2 ≤ 16383 ∨ beField d 4 2 = 0xFFFF) ∧ beField d 6 2 = 0) 0 (fun _ _ => [])
    (fun d s u => u.sched = { s.sched with
        filters := Tab.set StreamFilter.reset s.sched.filters (beField d 0 2)
          { s.filterAt (beField d 0 2) with valid := decide (byteAt d 2 = 1), prio := byteAt d 3, weir := beField d 4 2 } }
      ∧ AnswersAndLogs { s with sched := u.sched } u)
  ∧ RefusesAction .weirWrite 0x2600 0 (fun d _ => (3 < byteAt d 0 ∧ byteAt d 0 ≠ 0xFF) ∨ 16383 < beField d 2 2
      ∨ beField d 12 4 < beField d 4 4 ∨ (beField d 8 4 = 0 ∧ beField d 4 4 ≠ 0)
      ∨ (beField d 16 4 = 0 ∧ beField d 12 4 ≠ 0)) 7
  ∧ RefusesAction .weirRead 0x2601 0 (fun d _ => 3 < byteAt d 0 ∨ 16383 < beField d 2 2) 7
  ∧ RefusesAction .weirUnblock 0x2602 0
    (fun d _ => (3 < byteAt d 0 ∧ byteAt d 0 ≠ 0xFF) ∨ 16383 < beField d 2 2) 7
  ∧ RefusesAction .weirCounterClear 0x2603 0
    (fun d _ => (3 < byteAt d 0 ∧ byteAt d 0 ≠ 0xFF) ∨ 16383 < beField d 2 2) 7
  ∧ RefusesAction .streamFilterWrite 0x2610 0 (fun d _ => 16383 < beField d 0 2) 7
  ∧ RefusesAction .streamFilterRead 0x2611 0 (fun d _ => 16383 < beNat d) 7
  ∧ ServesAction .streamFilterRead 0x2611 0 (fun d _ => beNat d ≤ 16383) 9
    (fun d s => filterRecord (beNat d) (s.filterAt (beNat d)) ++ beBytes 8 (s.filterAt (beNat d)).matched
      ++ beBytes 8 (s.filterAt (beNat d)).mismatch)
    (fun _ s u => AnswersOnly s u)

/-- 06 R209, R210, R222, R233 to R235: the actions of the flow contexts. A write of a new key takes a way and a
number, and starts a generation; a write of a known key keeps its counters; a deletion frees the number.
Readings the model took: log entries 27, 39, 82. -/
def Obligations.FlowActions : Prop :=
  ServesAction .flowWrite 0x2A10 0
    (fun d s => Canonical s ∧ flowWriteAborts s d = [] ∧ ctxOfKey s (d.take 52) = none ∧ (byteAt d 52).testBit 0 = false
      ∧ (freeEntry s (keyHash s (d.take 52))).isSome = true
      ∧ (takeCtx (flowPart (keyHash s (d.take 52))) s).isSome = true) 9
    (fun d s => match takeCtx (flowPart (keyHash s (d.take 52))) s with
      | some r => beBytes 4 r.1 ++ beBytes 4 (((r.2.ctx r.1).gen + 1) % 2 ^ 32)
      | none => [])
    (fun d s u => ∀ n s1 over1 i, takeCtx (flowPart (keyHash s (d.take 52))) s = some (n, s1) →
      freeEntry s (keyHash s (d.take 52)) = some (over1, i) →
        u.ctx n = { Ctx.reset with
          active := true, gen := ((s1.ctx n).gen + 1) % 2 ^ 32, key := d.take 52, hash := keyHash s (d.take 52),
          byWrite := true, setUsed := (byteAt d 1).testBit 3, idle := byteAt d 52 / 16,
          polder := (Tab.get HostGroup.none s.polders.groups (beField d 54 2)).polder, first := timeNow s,
          group := beField d 54 2, stamp := learnMs s, user := slice d 56 64 }
        ∧ (∀ m, m ≠ n → u.ctx m = s.ctx m)
        ∧ u.flow.entries = (if over1 then s.flow.entries else Tab.ins s.flow.entries i { key := d.take 52, ctx := n })
        ∧ u.flow.overflow = (if over1 then Tab.ins s.flow.overflow i { key := d.take 52, ctx := n } else s.flow.overflow)
        ∧ u.flow.cache = s.flow.cache
        ∧ AnswersAndLogs { s with flow := u.flow } u)
  ∧ ServesAction .flowWrite 0x2A10 0
    (fun d s => Canonical s ∧ flowWriteAborts s d = [] ∧ (ctxOfKey s (d.take 52)).isSome = true
      ∧ (byteAt d 52).testBit 0 = false) 9
    (fun d s => match ctxOfKey s (d.take 52) with
      | some n => beBytes 4 n ++ beBytes 4 (s.ctx n).gen
      | none => [])
    (fun d s u => ∀ n, ctxOfKey s (d.take 52) = some n →
        u.ctx n = { s.ctx n with
          idle := byteAt d 52 / 16, group := beField d 54 2, user := slice d 56 64, pinned := false }
        ∧ (∀ m, m ≠ n → u.ctx m = s.ctx m)
        ∧ AnswersAndLogs { s with flow := { s.flow with ctxs := u.flow.ctxs } } u)
  ∧ ServesAction .flowRead 0x2A11 0 (fun d s => beNat d ≤ 1048575 ∧ (s.ctx (beNat d)).active = true) 9
    (fun d s => ctxRecord (beNat d) (s.ctx (beNat d))) (fun _ s u => AnswersOnly s u)
  ∧ ServesAction .flowDelete 0x2A12 0
    (fun d s => Canonical s ∧ beNat d ≤ 1048575 ∧ (s.ctx (beNat d)).active = true) 0 (fun _ _ => [])
    (fun d s u => u.ctx (beNat d) = { Ctx.reset with gen := (s.ctx (beNat d)).gen }
      ∧ (∀ m, m ≠ beNat d → u.ctx m = s.ctx m)
      ∧ (∀ e ∈ u.flow.entries, e.2.ctx ≠ beNat d) ∧ (∀ e ∈ u.flow.overflow, e.2.ctx ≠ beNat d)
      ∧ (u.flowDie (beNat d / 262144)).returned = (s.flowDie (beNat d / 262144)).returned ++ [beNat d]
      ∧ (∀ e ∈ u.flow.cache, e.2 ≠ beNat d + 1)
      ∧ AnswersAndLogs { s with flow := u.flow } u)
  ∧ ServesAction .flowPin 0x2A13 0
    (fun d s => Canonical s ∧ beField d 0 4 ≤ 1048575 ∧ (s.ctx (beField d 0 4)).active = true ∧ byteAt d 4 ≤ 1
      ∧ slice d 5 3 = zeros 3
      ∧ (byteAt d 4 = 1 → (cachedAt s (beField d 0 4)).isSome = true)
      ∧ (byteAt d 4 = 1 → (s.ctx (beField d 0 4)).pinned = false →
          pinRoom s (s.ctx (beField d 0 4)).hash = true)) 0 (fun _ _ => [])
    (fun d s u => u.ctx (beField d 0 4) = { s.ctx (beField d 0 4) with pinned := decide (byteAt d 4 = 1) }
      ∧ (∀ m, m ≠ beField d 0 4 → u.ctx m = s.ctx m)
      ∧ AnswersAndLogs { s with flow := { s.flow with ctxs := u.flow.ctxs } } u)
  ∧ TakesAction .flowClear 0x2A14 0 (fun _ s => s.flow.clearing = false) .flowClear
    (fun _ s u => u.flow = { s.flow with clearing := true }
      ∧ AnswersAndLogs { s with flow := u.flow, dict := { s.dict with acts := u.dict.acts } } u)
  ∧ ∀ (t : Nat) (s : State), Canonical s → s.flow.clearing = true →
      Runs (.flowClearComplete t) s (fun u => u.flow.clearing = false ∧ u.flow.cache = []
        ∧ ∀ n, (s.ctx n).active = true → u.ctx n = { Ctx.reset with gen := (s.ctx n).gen }
          ∧ (∀ e ∈ u.flow.entries, e.2.ctx ≠ n) ∧ (∀ e ∈ u.flow.overflow, e.2.ctx ≠ n))

/-- 06 R214 to R220, R224, 01 R22: a request that may cross and hits its context updates it and its frame goes on; a
miss parks the frame and notes a fetch; the fetch reserves a way, brings the context and serves what is parked; an
expired context is deleted, a write-back leaves its buffer. Readings the model took: log entries 12, 36, 37, 38. -/
def Obligations.FlowSteps : Prop :=
  (∀ (t die : Nat) (s : State) (r : CtxReq) (rest : List CtxReq) (n k : Nat),
    (s.flowDie die).requests = r :: rest → ctlRoom s (dieOf r.port) die = true → s.flow.clearing = false →
    r.scheduled = false → (∀ f ∈ (s.flowDie die).fetches, f.key ≠ r.key) → ctxOfKey s r.key = some n →
    cachedAt s n = some k → r.act.pin = false → Canonical s →
    Runs (.contextRequest t die) s (fun u => ∃ v, u = launchAll r.parcels v
      ∧ (v.flowDie die).requests = rest
      ∧ v.ctx n = servedCtx (s.ctx n) r (learnMs (advance t s))
      ∧ (∀ m, m ≠ n → v.ctx m = s.ctx m)
      ∧ v.flow.recent = Tab.set 0 s.flow.recent (k / 16) (k % 16 + 1)
      ∧ v.culv = (ctlCross (dieOf r.port) die s).culv
      ∧ CountsOnly { advance t s with
          flow := { s.flow with ctxs := v.flow.ctxs, dies := v.flow.dies, recent := v.flow.recent }, culv := v.culv } v))
  ∧ (∀ (t die : Nat) (s : State) (r : CtxReq) (rest : List CtxReq),
    (s.flowDie die).requests = r :: rest → ctlRoom s (dieOf r.port) die = true → s.flow.clearing = false →
    r.scheduled = false → (∀ f ∈ (s.flowDie die).fetches, f.key ≠ r.key) → ctxOfKey s r.key = none →
    parkFull (s.setFlowDie die { s.flowDie die with requests := rest }) die r = false → Canonical s →
    Runs (.contextRequest t die) s (fun u => u.flowDie die = { s.flowDie die with
          requests := rest
          fetches := (s.flowDie die).fetches ++ [{ key := r.key, hash := r.hash, way := none, frames := [r] }] }
      ∧ (∀ d, d ≠ die → u.flowDie d = s.flowDie d)
      ∧ u.culv = (ctlCross (dieOf r.port) die s).culv
      ∧ CountsOnly { advance t s with flow := { s.flow with dies := u.flow.dies }, culv := u.culv } u))
  ∧ (∀ (t die : Nat) (s : State) (r : CtxReq) (rest : List CtxReq),
    (s.flowDie die).requests = r :: rest → ctlRoom s (dieOf r.port) die = false →
    Runs (.contextRequest t die) s (fun u => u = advance t s))
  ∧ (∀ (die : Nat) (s : State) (f : Fetch) (rest : List Fetch) (w : Nat) (s1 : State),
    (s.flowDie die).fetches = f :: rest → f.way = none → (∀ g ∈ rest, g.key ≠ f.key) →
    ((s.flowDie die).fetches.filter (fun g => g.way.isSome)).length < 128 →
    reserveWay die (flowSet f.hash) s = some (w, s1) → (s1.flowDie die).fetches = f :: rest →
    Runs (.fetchIssue die) s (fun u => (u.flowDie die).fetches = { f with way := some w } :: rest
      ∧ u = { s1 with flow := u.flow } ∧ u.flow = { s1.flow with dies := u.flow.dies }))
  ∧ (∀ (t die slot : Nat) (s : State) (f : Fetch) (n : Nat) (r : CtxReq),
    (s.flowDie die).fetches.find? (fun g => decide (g.way = some (slot % 16)) && decide (flowSet g.hash = slot / 16))
      = some f →
    culvDown s (mdCulvert die (flowBucket f.hash % 2)) = false → ctxOfKey s f.key = some n →
    culvDown s (mdCulvert die (n % 2)) = false → s.flow.clearing = false →
    f.frames = [r] → r.key = f.key → r.act.pin = false → Canonical s →
    Runs (.fetchComplete t die slot false) s (fun u => ∃ v, u = launchAll r.parcels v
      ∧ (v.flowDie die).fetches = (s.flowDie die).fetches.filter (fun g => decide (g.key ≠ f.key))
      ∧ v.flow.cache = Tab.ins s.flow.cache (cacheKey die (slot / 16) (slot % 16)) (n + 1)
      ∧ v.ctx n = servedCtx (s.ctx n) r (learnMs (advance t s)) ∧ (∀ m, m ≠ n → v.ctx m = s.ctx m)
      ∧ v = { advance t s with
          flow := { s.flow with
            cache := v.flow.cache, dies := v.flow.dies, ctxs := v.flow.ctxs, recent := v.flow.recent } }))
  ∧ (∀ (die : Nat) (s : State), Canonical s →
    Runs (.writeBackReachesDdr4 die) s (fun u =>
      u.flowDie die = { s.flowDie die with writeBacks := (s.flowDie die).writeBacks.drop 1 }
      ∧ (∀ d, d ≠ die → u.flowDie d = s.flowDie d)
      ∧ u = { s with flow := { s.flow with dies := u.flow.dies } }))
  ∧ (∀ (t n : Nat) (s : State), Canonical s → (s.ctx n).active = true → (s.ctx n).idle ≠ 0 →
    s.flow.dies.any (fun e => e.2.writeBacks.contains n || e.2.fetches.any (fun f => f.way.isSome && decide (f.key = (s.ctx n).key)))
      = false →
    cfgN s 0x2A01 (s.ctx n).idle ≤ (learnMs (advance t s) + 2 ^ 32 - (s.ctx n).stamp) % 2 ^ 32 →
    (cfgN s 0x2A00 2).testBit (s.ctx n).idle = false →
    Runs (.flowAgerVisit t n) s (fun u => u.ctx n = { Ctx.reset with gen := (s.ctx n).gen }
      ∧ (∀ m, m ≠ n → u.ctx m = s.ctx m)
      ∧ (∀ e ∈ u.flow.entries, e.2.ctx ≠ n) ∧ (∀ e ∈ u.flow.overflow, e.2.ctx ≠ n)
      ∧ (u.flowDie (n / 262144)).returned = (s.flowDie (n / 262144)).returned ++ [n]
      ∧ CountsOnly { advance t s with flow := u.flow } u))

/-- 07 R243, R251, R258: the actions of the buffer pool, and the return of a host owner whose cells are gone.
Readings the model took: log entries 27, 70, 82. -/
def Obligations.BufferActions : Prop :=
  ServesAction .bufOwnerRead 0x2B10 0 (fun d _ => beNat d ≤ 4095) 9
    (fun d s => bufOwnerRecord s (beNat d)) (fun _ s u => AnswersOnly s u)
  ∧ ServesAction .bufPolderOwner 0x2B11 0 (fun d _ => beNat d ≤ 4095) 3
    (fun d s => beBytes 2 ((s.polder (beNat d)).owner.getD 0xFFFF)) (fun _ s u => AnswersOnly s u)
  ∧ ServesAction .bufErrorLatchClear 0x2B12 0 (fun _ _ => True) 0 (fun _ _ => [])
    (fun _ s u => u.buf = { s.buf with doubleFree := zeros 12, foreignFree := zeros 12 }
      ∧ AnswersOnly { s with buf := u.buf } u)
  ∧ (∀ (owner : Nat) (s : State), Canonical s → 0x202 ≤ owner → Tab.get 0 s.buf.owners (owner - 0x202) = 5000 →
    (∀ die < 4, occupancy s die owner = 0) →
    Runs (.hostOwnerRelease owner) s (fun u => Tab.get 0 u.buf.owners (owner - 0x202) = 0
      ∧ (∀ i, i ≠ owner - 0x202 → Tab.get 0 u.buf.owners i = Tab.get 0 s.buf.owners i)
      ∧ u = { s with buf := { s.buf with owners := u.buf.owners } }))
  ∧ (∀ (owner die : Nat) (s : State), die < 4 → occupancy s die owner ≠ 0 →
    Runs (.hostOwnerRelease owner) s (fun u => u = s))

/-- 03 R97, R99, R100, Table 3.3: a link state the line brings takes hold, with the FEC that is resolved; SGMII
control words of another rate hold the port in DOWN; coming UP or leaving UP raises link-change and marks the port;
a port that is down is tried again every 100 ms. Readings the model took: log entries 112. -/
def Obligations.LinkStates : Prop :=
  (∀ (t p fec rate : Nat) (st : LinkSt) (s : State), p < 512 → portActive s p = true → st ≠ .disabled →
    st ≠ .outOfService → st ≠ .up → (portMode s p = 2 → rate = 1000) → (s.port p).link ≠ .up → (s.port p).link ≠ st →
    Runs (.linkStateChange t p st ⟨fec, rate⟩) s (fun u =>
      u = (advance t s).setPort p { s.port p with
        link := st, fec := 0, fecWin := []
        retryAt := if st = .down then
            (if (s.port p).link = .disabled then (advance t s).clock else (advance t s).clock + retryPeriod)
          else (s.port p).retryAt }))
  ∧ (∀ (t p fec rate : Nat) (s : State), p < 512 → portActive s p = true → (portMode s p = 2 → rate = 1000) →
    (s.port p).link ≠ .up → primariesOf s p = [] → ((s.port p).redirect = false ∨ (s.port p).frrState ≠ 2) →
    Runs (.linkStateChange t p .up ⟨fec, rate⟩) s (fun u =>
      u.ports = Tab.set Port.reset s.ports p { s.port p with
        link := .up, fec := fecResolved s p fec, fecWin := [], upAt := (advance t s).clock }
      ∧ (evtStat u (3 + dieOf p)).testBit 0 = true ∧ Tab.get false u.evt.portMap p = true
      ∧ SignalsOnly { advance t s with ports := u.ports } u))
  ∧ (∀ (t p fec rate : Nat) (st : LinkSt) (s : State), p < 512 → portActive s p = true → st ≠ .disabled →
    st ≠ .outOfService → st ≠ .up → (portMode s p = 2 → rate = 1000) → (s.port p).link = .up → primariesOf s p = [] →
    Runs (.linkStateChange t p st ⟨fec, rate⟩) s (fun u =>
      u.ports = Tab.set Port.reset s.ports p { s.port p with
        link := st, fec := 0, fecWin := []
        retryAt := if st = .down then (advance t s).clock + retryPeriod else (s.port p).retryAt }
      ∧ (evtStat u (3 + dieOf p)).testBit 0 = true ∧ Tab.get false u.evt.portMap p = true
      ∧ counter u (0x2000 + p) 0x2A = satAdd64 (counter s (0x2000 + p) 0x2A) 1
      ∧ CountsOnly { advance t s with ports := u.ports } u))
  ∧ (∀ (t p fec rate : Nat) (st : LinkSt) (s : State), portMode s p = 2 → rate ≠ 1000 → (s.port p).link = .down →
    Runs (.linkStateChange t p st ⟨fec, rate⟩) s (fun u => u = advance t s))
  ∧ (∀ (t p : Nat) (s : State), p < 512 → portActive s p = true → (s.port p).link = .down → (s.port p).retryAt ≤ t →
    negotiates s p = true →
    Runs (.portRetry t p) s (fun u => u = (advance t s).setPort p { s.port p with
      link := .training, fec := 0, fecWin := [], retryAt := t + retryPeriod }))
  ∧ (∀ (t p : Nat) (s : State), p < 512 → portActive s p = true → (s.port p).link = .down → (s.port p).retryAt ≤ t →
    negotiates s p = false →
    Runs (.portRetry t p) s (fun u => u = (advance t s).setPort p { s.port p with retryAt := t + retryPeriod }))
  ∧ (∀ (t p : Nat) (s : State), ((s.port p).link ≠ .down ∨ t < (s.port p).retryAt) →
    Runs (.portRetry t p) s (fun u => u = advance t s))

/-- 03 R117, R118 to R124, R127: conditions, the latch once a condition has held for FrrDebounce, FEC codewords and
their counters, switchover to a backup that is UP, FrrState 2 where it is not, and reversion after the hold or on
request. Readings the model took: log entries 112. -/
def Obligations.FastReroute : Prop :=
  (∀ (t p k : Nat) (c : List Nat) (s : State), p < 512 → k < 4 → k ≠ 2 → (s.port p).conds.testBit k = false →
    frrDebounce s p ≠ 0 →
    Runs (.frrConditionChange t p k ⟨true, c⟩) s (fun u =>
      u = (advance t s).setPort p { s.port p with
        conds := bitSet (s.port p).conds k, onset := Tab.ins (s.port p).onset k (advance t s).clock }))
  ∧ (∀ (t p k : Nat) (c : List Nat) (s : State), p < 512 → k < 4 → k ≠ 2 → (s.port p).conds.testBit k = false →
    frrDebounce s p = 0 →
    Runs (.frrConditionChange t p k ⟨true, c⟩) s (fun u =>
      u = debounceExpiry [(p, k)] ((advance t s).setPort p { s.port p with
        conds := bitSet (s.port p).conds k, onset := Tab.ins (s.port p).onset k (advance t s).clock })))
  ∧ (∀ (t p k : Nat) (c : List Nat) (s : State), p < 512 → k < 4 → k ≠ 2 → (s.port p).conds.testBit k = true →
    (advance t s).clock < Tab.get 0 (s.port p).onset k + frrDebounce s p →
    Runs (.frrConditionChange t p k ⟨false, c⟩) s (fun u =>
      u.ports = Tab.set Port.reset s.ports p { s.port p with
          conds := bitClear (s.port p).conds k, latch := bitClear (s.port p).latch k,
          onset := Tab.del (s.port p).onset k,
          frrState := if (s.port p).frrState = 2 ∧ (s.port p).redirect = false ∧ bitClear (s.port p).latch k = 0
            then 0 else (s.port p).frrState }
      ∧ counter u (0x2000 + p) 0x2E = (if (s.port p).latch.testBit k = false ∧ triggerRuns s p k = true
          then satAdd64 (counter s (0x2000 + p) 0x2E) 1 else counter s (0x2000 + p) 0x2E)
      ∧ CountsOnly { advance t s with ports := u.ports } u))
  ∧ (∀ (t p : Nat) (b : Bool) (s : State), p < 512 → (s.port p).fec = 1 →
    Runs (.frrConditionChange t p 2 ⟨b, [1]⟩) s (fun u =>
      counter u (0x2000 + p) 0x28 = satAdd64 (counter s (0x2000 + p) 0x28) 1 ∧ CountsOnly (advance t s) u)
    ∧ Runs (.frrConditionChange t p 2 ⟨b, [2]⟩) s (fun u =>
      counter u (0x2000 + p) 0x29 = satAdd64 (counter s (0x2000 + p) 0x29) 1 ∧ CountsOnly (advance t s) u)
    ∧ Runs (.frrConditionChange t p 2 ⟨b, [0]⟩) s (fun u => u = advance t s))
  ∧ (∀ (t p : Nat) (b : Bool) (c : List Nat) (s : State), p < 512 → (s.port p).fec = 0 →
    Runs (.frrConditionChange t p 2 ⟨b, c⟩) s (fun u => u = advance t s))
  ∧ (∀ (t p k : Nat) (s : State), p < 512 → triggerRuns s p k = true → heldLong (advance t s) p k = true →
    (s.port p).latch.testBit k = false → backupPort s p = 0xFFFF →
    Runs (.frrDebounceExpiry t p [(p, k)]) s (fun u =>
      u = (advance t s).setPort p { s.port p with latch := bitSet (s.port p).latch k }))
  ∧ (∀ (t p k : Nat) (s : State), heldLong (advance t s) p k = false →
    Runs (.frrDebounceExpiry t p [(p, k)]) s (fun u => u = advance t s))
  ∧ (∀ (t p k : Nat) (s : State), Canonical s → p < 512 → triggerRuns s p k = true → heldLong (advance t s) p k = true →
    (s.port p).latch.testBit k = false → backupPort s p ≠ 0xFFFF → backupPort s p ≠ p → (s.port p).frrState = 0 →
    portUp s (backupPort s p) = true → cfgN s (0x2000 + p) 0xD = 0 →
    Runs (.frrDebounceExpiry t p [(p, k)]) s (fun u =>
      u.port p = { s.port p with
        latch := bitSet (s.port p).latch k, frrState := 1, redirect := true, suspended := true
        upAt := (advance t s).clock }
      ∧ (∀ q, q ≠ p → u.port q = s.port q)
      ∧ (evtStat u (3 + dieOf p)).testBit 1 = true ∧ Tab.get false u.evt.portMap p = true
      ∧ u.cls = s.cls ∧ u.tables = s.tables ∧ u.flow = s.flow))
  ∧ (∀ (t p k : Nat) (s : State), Canonical s → p < 512 → triggerRuns s p k = true → heldLong (advance t s) p k = true →
    (s.port p).latch.testBit k = false → backupPort s p ≠ 0xFFFF → backupPort s p ≠ p → (s.port p).frrState = 0 →
    portUp s (backupPort s p) = false →
    Runs (.frrDebounceExpiry t p [(p, k)]) s (fun u =>
      u.port p = { s.port p with latch := bitSet (s.port p).latch k, frrState := 2 }
      ∧ (∀ q, q ≠ p → u.port q = s.port q)
      ∧ (evtStat u (3 + dieOf p)).testBit 2 = true ∧ Tab.get false u.evt.portMap p = true
      ∧ SignalsOnly { advance t s with ports := u.ports } u))
  ∧ (∀ (t p : Nat) (s : State), p < 512 → (s.port p).redirect = true → (s.port p).frrState = 1 → portUp s p = true →
    cfgN s (0x2000 + p) 0xC ≠ 0 → (s.port p).upAt + cfgN s (0x2000 + p) 0xC * 10 ^ 12 ≤ t →
    Runs (.frrRevertHoldExpiry t p) s (fun u =>
      u = (advance t s).setPort p { s.port p with frrState := 0, redirect := false, suspended := false }))
  ∧ (∀ (t p : Nat) (s : State),
    (cfgN s (0x2000 + p) 0xC = 0 ∨ t < (s.port p).upAt + cfgN s (0x2000 + p) 0xC * 10 ^ 12) →
    Runs (.frrRevertHoldExpiry t p) s (fun u => u = advance t s))
  ∧ (∀ p < 512, ServesAction .frrRevert (0x2000 + p) 0xE
      (fun _ s => (s.port p).redirect = true ∧ portUp s p = true) 0 (fun _ _ => [])
      (fun _ s u => u.ports = Tab.set Port.reset s.ports p
          { s.port p with frrState := 0, redirect := false, suspended := false }
        ∧ AnswersOnly { s with ports := u.ports } u))
  ∧ (∀ p < 512, RefusesAction .frrRevert (0x2000 + p) 0xE
      (fun _ s => (s.port p).redirect = false ∨ portUp s p = false) 8)

/-- 03 R106 to R108, R113, R114: TimeSet and TimeAdjust step the time base, PTP keeps it while it is locked, the
loss of its source (no Announce or Sync of the parent for 3 announce intervals, no PPS_IN edge for 1.5 s) puts it in
HOLDOVER, PPS_IN is captured with an error of at most 4 ns, PPS_OUT rises at its instant and falls after its width.
Readings the model took: log entries 13, 33, 35, 64, 113. -/
def Obligations.TimeBaseSteps : Prop :=
  ServesAction .timeSet 0x1200 3 (fun _ s => timeSource s ≠ 1 ∨ s.time.state ≠ 2) 0 (fun _ _ => [])
    (fun d s u => u.time = { s.time with
        num := ofTime96 d * 10 ^ 18, state := if s.time.state = 0 then 1 else s.time.state }
      ∧ (s.sched.ports = [] → AnswersOnly { s with time := u.time } u))
  ∧ RefusesAction .timeSet 0x1200 3 (fun _ s => timeSource s = 1 ∧ s.time.state = 2) 8
  ∧ ServesAction .timeAdjust 0x1200 4
    (fun d s => (timeSource s ≠ 1 ∨ s.time.state ≠ 2) ∧ 0 ≤ adjusted s d ∧ adjusted s d ≤ 2 ^ 48 * unitsPerSec - 1
      ∧ (signedOf 64 (beNat d)).natAbs ≤ 10 ^ 9) 0 (fun _ _ => [])
    (fun d s u => u.time = { s.time with num := (adjusted s d).toNat * 10 ^ 18 + s.time.num % 10 ^ 18 }
      ∧ (s.sched.ports = [] → AnswersOnly { s with time := u.time } u))
  ∧ RefusesAction .timeAdjust 0x1200 4
    (fun d s => (timeSource s ≠ 1 ∨ s.time.state ≠ 2)
      ∧ (adjusted s d < 0 ∨ 10 ^ 9 < (signedOf 64 (beNat d)).natAbs)) 7
  ∧ (∀ (t : Nat) (s : State), s.time.state = 2 →
    ((timeSource s = 1 ∧ s.time.lastMsg + announceLimit s.time.annLog ≤ max s.clock t)
      ∨ (timeSource s = 2 ∧ s.time.lastEdge + 1500000000000000 ≤ max s.clock t)) →
    Runs (.timeSourceLost t) s (fun u => u.time = { (advance t s).time with state := 3 }
      ∧ (evtStat u 0).testBit 4 = true ∧ SignalsOnly { advance t s with time := u.time } u))
  ∧ (∀ (t : Nat) (s : State), (s.time.state ≠ 2 ∨ timeSource s = 0
      ∨ (timeSource s = 1 ∧ max s.clock t < s.time.lastMsg + announceLimit s.time.annLog)
      ∨ (timeSource s = 2 ∧ max s.clock t < s.time.lastEdge + 1500000000000000)) →
    Runs (.timeSourceLost t) s (fun u => u = advance t s))
  ∧ (∀ (t : Nat) (s : State) (rising : Bool), rising = decide (cfgN s 0x1203 4 = 0) → timeSource s ≠ 2 →
    Runs (.ppsInEdge t rising) s (fun u => ∃ e : Int, -262144 ≤ e ∧ e ≤ 262144
      ∧ u = { advance t s with
          freeCtr := s.freeCtr + 1
          time := { (advance t s).time with
            ppsInLast := ((((timeNow (advance t s) : Int) + e).toNat : Int) - cfgI s 0x1203 5 * 65536).toNat
            lastEdge := (advance t s).clock } }))
  ∧ (∀ (t : Nat) (s : State) (rising : Bool), rising ≠ decide (cfgN s 0x1203 4 = 0) →
    Runs (.ppsInEdge t rising) s (fun u => u = advance t s))
  ∧ (∀ (t : Nat) (s : State), cfgN s 0x1203 1 = 1 → s.time.state ≠ 0 → ppsDue (advance t s) = true →
    Runs (.ppsOutRise t) s (fun u => u = modTime (fun b => { b with ppsOut := true, ppsRise := t }) (advance t s)))
  ∧ (∀ (t : Nat) (s : State), (cfgN s 0x1203 1 ≠ 1 ∨ s.time.state = 0 ∨ ppsDue (advance t s) = false) →
    Runs (.ppsOutRise t) s (fun u => u = advance t s))
  ∧ (∀ (t : Nat) (s : State), s.time.ppsRise + cfgN s 0x1203 2 * 1000000 ≤ t →
    Runs (.ppsOutFall t) s (fun u => u = modTime (fun b => { b with ppsOut := false }) (advance t s)))
  ∧ (∀ (t : Nat) (s : State), t < s.time.ppsRise + cfgN s 0x1203 2 * 1000000 →
    Runs (.ppsOutFall t) s (fun u => u = advance t s))

/-- 08 R270, R271, R275, R276, R288: a gate list is accepted with its ConfigChangeTime, becomes operational at that
time, and gives the gate states of every instant; QueueLatencyMax returns and clears two maxima.
Readings the model took: log entries 27, 63. -/
def Obligations.GateLists : Prop :=
  (∀ p < 512, ServesAction .gateConfigChange (0x2400 + p) 7
      (fun _ s => gateEnabled s p = true ∧ (s.psched p).pend = none ∧ (adminEntries s p).any badGateEntry = false)
      0 (fun _ _ => [])
      (fun _ s u => ∃ l : GateList, u.sched = { s.sched with
            ports := Tab.set PortSched.reset s.sched.ports p { s.psched p with
              pend := some { list := l, change := changeTimeOf l.base l.cycle (timeNow s), accepted := timeNow s },
              changeTime := changeTimeOf l.base l.cycle (timeNow s) } }
        ∧ l.base = ofTime96 (cfg s (0x2400 + p) 3) ∧ l.cycle = cfgN s (0x2400 + p) 2 * 65536
        ∧ l.ext = cfgN s (0x2400 + p) 4 * 65536
        ∧ l.entries = (adminEntries s p).map (fun e => (byteAt e 1, beField e 4 4 * 65536))
        ∧ AnswersAndLogs { s with sched := u.sched } u))
  ∧ (∀ p < 512, RefusesAction .gateConfigChange (0x2400 + p) 7 (fun _ s => gateEnabled s p = false) 8)
  ∧ (∀ base cycle now : Nat, 0 < cycle → now + 10000 * 65536 ≤ changeTimeOf base cycle now
      ∧ base ≤ changeTimeOf base cycle now ∧ (changeTimeOf base cycle now - base) % cycle = 0)
  ∧ (∀ (t p : Nat) (s : State) (w : GatePend), Canonical s → p < 512 → (s.psched p).pend = some w →
    w.change ≤ timeNow (advance t s) → (∀ tc < 8, portQueue (s.psched p) tc = []) →
    Runs (.gateConfigApply t p) s (fun u => (u.psched p).oper = some w.list ∧ (u.psched p).pend = none
      ∧ (u.psched p).gates = gatesAt { s.psched p with oper := some w.list, pend := none } (timeNow (advance t s))
      ∧ counter u (0x2400 + p) 0x18 = satAdd64 (counter s (0x2400 + p) 0x18) 1
      ∧ (evtStat u (3 + dieOf p)).testBit 12 = true
      ∧ u.cls = s.cls ∧ u.tables = s.tables ∧ u.flow = s.flow ∧ u.buf = s.buf ∧ u.ports = s.ports))
  ∧ (∀ (t p : Nat) (s : State), p < 512 →
    Runs (.gateEntryChange t p) s (fun u => u = (advance t s).setPsched p { s.psched p with
      gates := gatesAt (s.psched p) (timeNow (advance t s)) }))
  ∧ (∀ p < 512, ServesAction .queueLatencyMax (0x2200 + p) 0x22 (fun d _ => beNat d ≤ 7) 9
      (fun d s => beBytes 4 (Tab.get 0 (s.psched p).maxSojourn (beNat d))
        ++ beBytes 4 (Tab.get 0 (s.psched p).maxDepth (beNat d)))
      (fun d s u => u.sched = { s.sched with
          ports := Tab.set PortSched.reset s.sched.ports p { s.psched p with
            maxSojourn := Tab.set 0 (s.psched p).maxSojourn (beNat d) 0,
            maxDepth := Tab.set 0 (s.psched p).maxDepth (beNat d) 0 } }
        ∧ AnswersOnly { s with sched := u.sched } u))

/-- 18 R587, R593, 14 R492, R494: a low AC_FAIL_N is latched and, with the part running, starts the emergency drain,
which ends the wait for a self-test; it rises again after 10 ms; THERMTRIP_N starts the drain too.
Readings the model took: log entries 86, 105. -/
def Obligations.PowerBalls : Prop :=
  (∀ (t : Nat) (s : State), auxUp s = true → s.board.acFail ≠ 1 → s.board.released = false →
    Runs (.acFailFall t) s (fun u => u = modBoard (fun b => { b with acFail := 1 }) (advance t s)))
  ∧ (∀ (t : Nat) (s : State), auxUp s = true → s.board.acFail ≠ 1 → s.board.released = true → s.jrn.state ≠ 3 →
    s.jrn.state ≠ 0 →
    Runs (.acFailFall t) s (fun u => u.board = { s.board with acFail := 1 } ∧ u.jrn.state = 3
      ∧ (∀ i < 2, (u.cart i).testState = if (s.cart i).testState = 1 then 2 else (s.cart i).testState)
      ∧ counter u 0x1303 2 = satAdd64 (counter s 0x1303 2) 1
      ∧ CountsOnly { advance t s with board := u.board, jrn := { s.jrn with state := 3, slots := u.jrn.slots } } u))
  ∧ (∀ (t : Nat) (s : State), s.board.acFail = 1 → Runs (.acFailFall t) s (fun u => u = advance t s))
  ∧ (∀ (t : Nat) (s : State), s.board.acFail = 1 →
    Runs (.acFailNHigh t) s (fun u => u = modBoard (fun b => { b with acFail := 2, acHighAt := t }) (advance t s)))
  ∧ (∀ (t : Nat) (s : State), s.board.acFail = 2 → s.board.acHighAt + 10 ^ 13 ≤ t → s.jrn.state = 4 →
    s.board.thermtrip = false → s.boot.journalSet = true → s.jrn.held = false →
    Runs (.acFailRise t) s (fun u => u = modJrn (fun j => { j with state := 1 })
      (modBoard (fun b => { b with acFail := 0 }) (advance t s))))
  ∧ (∀ (t : Nat) (s : State), t < s.board.acHighAt + 10 ^ 13 → Runs (.acFailRise t) s (fun u => u = advance t s))
  ∧ (∀ (t : Nat) (s : State), auxUp s = true → s.board.thermtrip = false → s.board.released = false →
    Runs (.thermtrip t) s (fun u => u = modBoard (fun b => { b with thermtrip := true }) (advance t s)))
  ∧ (∀ (t : Nat) (s : State), auxUp s = true → s.board.thermtrip = false → s.board.released = true →
    s.jrn.state = 1 →
    Runs (.thermtrip t) s (fun u => u.board = { s.board with thermtrip := true } ∧ u.jrn.state = 3
      ∧ u = { advance t s with board := u.board, jrn := { s.jrn with state := 3, slots := u.jrn.slots } }))

/-- 18 R590, R591, R596, R598: a thermal sample gives the junction temperature as the highest of 32 sensors, keeps
its maximum and counts what is above the limit; the SMBus commands answer at SmbusAddress with temperature, status,
power and stepping and change nothing; the maximum is cleared on request. Readings the model took: log entries 57, 85. -/
def Obligations.ThermalAndSmbus : Prop :=
  (∀ (t power : Nat) (temps : List Int) (s : State), s.board.released = true → temps.length = 32 →
    Runs (.thermalSample t temps power) s (fun u => (∀ x ∈ temps, x ≤ u.board.jtemp) ∧ u.board.jtemp ∈ temps
      ∧ u.board.temps = temps ∧ u.board.power = power ∧ u.board.sampled = true
      ∧ u.board.jtempMax = some (match s.board.jtempMax with
        | none => u.board.jtemp
        | some m => max m u.board.jtemp)
      ∧ u.board.throttled = (decide (throttleAt s ≤ u.board.jtemp)
          || (s.board.throttled && decide (throttleAt s - 50 < u.board.jtemp)))
      ∧ counter u 0x1300 5 = (if 1050 < u.board.jtemp then satAdd64 (counter s 0x1300 5) 1 else counter s 0x1300 5)
      ∧ (s.board.warnArmed = true → warnAt s ≤ u.board.jtemp → (evtStat u 11).testBit 2 = true)
      ∧ (s.board.criticalArmed = true → 1050 ≤ u.board.jtemp → (evtStat u 11).testBit 3 = true)
      ∧ (s.board.throttleArmed = true → throttleAt s ≤ u.board.jtemp → (evtStat u 11).testBit 4 = true)
      ∧ CountsOnly { advance t s with board := u.board } u))
  ∧ (∀ s : State, auxUp s = true → tempKnown s = true →
    Runs .smbusJunctionTemp s (fun u =>
      ∃ j : Int, (10 * j ≤ s.board.jtemp + 9 ∧ s.board.jtemp ≤ 10 * j + 9)
        ∧ u = { s with freeCtr := s.freeCtr + 1, out := s.out ++ [.smbus (cfgN s 0x1305 0) [byteOf (unsignedOf 8 j)]] }))
  ∧ (∀ s : State, auxUp s = true → tempKnown s = false →
    Runs .smbusJunctionTemp s (fun u => u = emit (.smbus (cfgN s 0x1305 0) [0x80]) s))
  ∧ (∀ s : State, auxUp s = true → Runs .smbusStatus s (fun u =>
      u = emit (.smbus (cfgN s 0x1305 0) [byteOf (smbusStatusByte s)]) s))
  ∧ (∀ s : State, auxUp s = true → Runs .smbusPowerEstimate s (fun u =>
      u = emit (.smbus (cfgN s 0x1305 0) (leBytes 2 s.board.power)) s))
  ∧ (∀ s : State, auxUp s = true → Runs .smbusJunctionTempFine s (fun u =>
      u = emit (.smbus (cfgN s 0x1305 0) (leBytes 2 (if tempKnown s then unsignedOf 16 s.board.jtemp else 0x8000))) s))
  ∧ (∀ s : State, auxUp s = true →
    Runs .smbusStepping s (fun u => u = emit (.smbus (cfgN s 0x1305 0) [0xB0]) s))
  ∧ (∀ s : State, auxUp s = false →
    Runs .smbusStatus s (fun u => u = s) ∧ Runs .smbusPowerEstimate s (fun u => u = s)
    ∧ Runs .smbusJunctionTempFine s (fun u => u = s) ∧ Runs .smbusStepping s (fun u => u = s))
  ∧ ServesAction .junctionTempMaxClear 0x1300 4 (fun _ _ => True) 0 (fun _ _ => [])
    (fun _ s u => u.board = { s.board with jtempMax := none } ∧ AnswersOnly { s with board := u.board } u)

/-- 16 R541 to R546: the writes of the event registers. A clear clears what is written and not set in the same clock,
and signals again what stays pending; a mask keeps bits of sources in use; EVT_TEST raises; EventClear is a clear.
Readings the model took: log entries 10. -/
def Obligations.EventRegisters : Prop :=
  (∀ (t g : Nat) (v c : Word32) (s : State), Canonical s → barOpen s 0 = true → g < 16 →
    (bitsMinus (evtStat (advance t s) g) (bitsMinus v.toNat c.toNat) &&& evtMask s g = 0 ∨ (s.func 0).msixEnable = false) →
    Runs (.evtStatWrite t g v c) s (fun u =>
      evtStat u g = bitsMinus (evtStat (advance t s) g) (bitsMinus v.toNat c.toNat)
      ∧ (∀ h, h ≠ g → evtStat u h = evtStat (advance t s) h) ∧ SignalsOnly (advance t s) u))
  ∧ (∀ (t g : Nat) (v c : Word32) (s : State), Canonical s → barOpen s 0 = true → g < 16 →
    bitsMinus (evtStat (advance t s) g) (bitsMinus v.toNat c.toNat) &&& evtMask s g ≠ 0 → (s.func 0).msixEnable = true →
    msixOpen s 0 (Tab.get 0 s.evt.vector g) = true →
    Runs (.evtStatWrite t g v c) s (fun u => SignalsOnly (advance t s) u
      ∧ ∃ l1 l2, u.out = (advance t s).out ++ l1 ++ [.msix 0 (Tab.get 0 s.evt.vector g)] ++ l2))
  ∧ (∀ (t g : Nat) (v : Word32) (s : State), Canonical s → barOpen s 0 = true → g < 16 →
    Runs (.evtMaskWrite t g v) s (fun u => evtMask u g = v.toNat &&& groupBits g
      ∧ (∀ h, h ≠ g → evtMask u h = evtMask s h)
      ∧ (∀ h i, (evtStat (advance t s) h).testBit i = true → (evtStat u h).testBit i = true)
      ∧ SignalsOnly { advance t s with evt := { (advance t s).evt with mask := u.evt.mask } } u))
  ∧ (∀ (t g : Nat) (v : Word32) (s : State), barOpen s 0 = true → g < 16 →
    Runs (.evtVectorWrite t g v) s (fun u => u = modEvt (fun e => { e with
      vector := Tab.set 0 e.vector g (if v.toNat % 2048 < msixSize s 0 then v.toNat % 2048 else 0) }) (advance t s)))
  ∧ (∀ (t g : Nat) (v : Word32) (s : State), barOpen s 0 = true → g < 16 →
    Runs (.evtTestWrite t g v) s (fun u =>
      (∀ i < 32, v.toNat.testBit i = true → sourceInUse (32 * g + i) = true → (evtStat u g).testBit i = true)
      ∧ SignalsOnly (advance t s) u))
  ∧ ServesAction .eventClear 0x1602 0
    (fun d s => Canonical s ∧ (beNat d ≤ 511 ∨ beNat d = 0xFFFF) ∧ (s.func 0).msixEnable = false) 0 (fun _ _ => [])
    (fun d s u => (beNat d ≤ 511 → beNat d ≠ 2 → (evtStat u (beNat d / 32)).testBit (beNat d % 32) = false)
      ∧ (beNat d = 0xFFFF → ∀ g < 16, ∀ i, (g = 0 → i ≠ 2) → (evtStat u g).testBit i = false)
      ∧ AnswersOnly s u)
  ∧ ServesAction .portEventMapClear 0x1604 0 (fun _ _ => True) 9 (fun _ s => portMapBytes s.evt.portMap)
    (fun _ s u => u.evt.portMap = [] ∧ AnswersOnly s u)

/-- 16 R548 to R557: the device counters and the counter pages. A counter that is enabled ignores writes; a selection
that is not valid is stored disabled; CTR_LO latches the high bits; overflow bits that coincide stay.
Readings the model took: log entries 10, 24. -/
def Obligations.CounterRegisters : Prop :=
  (∀ (t n : Nat) (v : Word32) (s : State), barOpen s 0 = true → n < 256 →
    qualOk (bitsOf (v.toNat &&& 0x3FFF7FFF) 11 0) (bitsOf (v.toNat &&& 0x3FFF7FFF) 29 28) = true →
    Runs (.ctrSelWrite t n v) s (fun u =>
      u = setDevCtr n { devCtr (advance t s) n with sel := v &&& 0x3FFF7FFF#32 } (advance t s)))
  ∧ (∀ (t n : Nat) (v : Word32) (s : State), barOpen s 0 = true → n < 256 →
    qualOk (bitsOf (v.toNat &&& 0x3FFF7FFF) 11 0) (bitsOf (v.toNat &&& 0x3FFF7FFF) 29 28) = false →
    Runs (.ctrSelWrite t n v) s (fun u => ∃ w : Word32, w.toNat.testBit 12 = false
      ∧ u = setDevCtr n { devCtr (advance t s) n with sel := w } (advance t s)))
  ∧ (∀ (t n : Nat) (s : State), barOpen s 0 = true → n < 256 →
    Runs (.ctrLoRead t n) s (fun u =>
      u = emit (.regRead ((devCtr (advance t s) n).value % 2 ^ 32))
        (setDevCtr n { devCtr (advance t s) n with latch := (devCtr (advance t s) n).value / 2 ^ 32 } (advance t s))))
  ∧ (∀ (t n : Nat) (hi : Bool) (v : Word32) (s : State), barOpen s 0 = true → n < 256 →
    (devCtr (advance t s) n).sel.toNat.testBit 12 = true →
    Runs (.ctrValueWrite t n hi v) s (fun u => u = advance t s))
  ∧ (∀ (t n : Nat) (v : Word32) (s : State), barOpen s 0 = true → n < 256 →
    (devCtr (advance t s) n).sel.toNat.testBit 12 = false →
    Runs (.ctrValueWrite t n false v) s (fun u => u = setDevCtr n { devCtr (advance t s) n with
        value := (devCtr (advance t s) n).value / 2 ^ 32 * 2 ^ 32 + v.toNat } (advance t s))
    ∧ Runs (.ctrValueWrite t n true v) s (fun u => u = setDevCtr n { devCtr (advance t s) n with
        value := (devCtr (advance t s) n).value % 2 ^ 32 + v.toNat % 2 ^ 16 * 2 ^ 32 } (advance t s)))
  ∧ (∀ (t k : Nat) (v c : Word32) (s : State), barOpen s 0 = true → k < 8 →
    Runs (.ctrOvfClear t k v c) s (fun u => u = modEvt (fun x => { x with
      ovf := Tab.set 0#32 x.ovf k (BitVec.ofNat 32 (bitsMinus (Tab.get 0#32 x.ovf k).toNat
        (bitsMinus v.toNat c.toNat))) }) (advance t s)))
  ∧ (∀ (t : Nat) (s : State), barOpen s 0 = true →
    Runs (.clearAll t) s (fun u => (∀ n, (devCtr u n).value = 0)
      ∧ u = { advance t s with evt := { (advance t s).evt with ctrs := u.evt.ctrs } }))
  ∧ (∀ (t : Nat) (v : Bool) (s : State), barOpen s 0 = true →
    Runs (.freezeAll t v) s (fun u => u = modEvt (fun x => { x with freezeAll := v }) (advance t s)))
  ∧ ServesAction .deviceCounterRead 0x1700 0 (fun d _ => beNat d ≤ 255) 9
    (fun d s => beBytes 4 (devCtr s (beNat d)).sel.toNat ++ [byteOf (boolNat (ctrOverflowed s (beNat d))), 0, 0, 0]
      ++ beBytes 8 (devCtr s (beNat d)).value) (fun _ s u => AnswersOnly s u)
  ∧ (∀ (t fn : Nat) (v c : Word32) (s : State), barOpen s fn = true → pageOpen s fn = true →
    Runs (.pageOvfClear t fn v c) s (fun u => u = (advance t s).setPage fn { (advance t s).page fn with
      ovf := bitsMinus ((advance t s).page fn).ovf (bitsMinus v.toNat c.toNat) }))
  ∧ ServesAction .polderCounterSelect 0x1710 0
    (fun d s => beField d 0 2 ≤ 4095 ∧ byteAt d 2 ≤ 7 ∧ byteAt d 3 ≤ 3 ∧ qualOk (beField d 4 2) 3 = true
      ∧ (beField d 6 2 = 0xFFFF ∨ beField d 6 2 < (s.polder (beField d 0 2)).counts.vectors)) 0 (fun _ _ => [])
    (fun d s u => AnswersOnly (s.setPage (beField d 0 2) { s.page (beField d 0 2) with
        values := Tab.set 0 (s.page (beField d 0 2)).values (byteAt d 2) 0,
        ovf := bitClear (s.page (beField d 0 2)).ovf (byteAt d 2),
        sels := (s.page (beField d 0 2)).sels.set (byteAt d 2)
          { event := beField d 4 2, enable := (byteAt d 3).testBit 0, freeze := (byteAt d 3).testBit 1 },
        vector := beField d 6 2 }) u)
  ∧ ServesAction .polderCounterRead 0x1711 0 (fun d _ => beNat d ≤ 4095) 9
    (fun d s => [byteOf (s.page (beNat d)).ovf] ++ zeros 7 ++ (s.page (beNat d)).sels.zipIdx.flatMap (fun e =>
      beBytes 2 e.1.event ++ [byteOf (boolNat e.1.enable + 2 * boolNat e.1.freeze), 0]
      ++ beBytes 8 (Tab.get 0 (s.page (beNat d)).values e.2))) (fun _ s u => AnswersOnly s u)

/-- 10 R339, R340, R344, R347, R351: Commit takes the staged share for a free or failed polder and raises its
Generation; Adjust changes the share of a committed polder and what was not written stays; Remove makes it removing;
when its work has ended the share goes back. Readings the model took: log entries 27, 52, 78, 107. -/
def Obligations.PolderLifecycle : Prop :=
  (∀ n < 4096, ServesAction (fun r => .commit { r with flash := true }) (0x3000 + n) 0x10
    (fun _ s => Canonical s ∧ ((s.polder n).state = 0 ∨ (s.polder n).state = 3)
      ∧ ((stagedCounts s n).queues ≠ 0 ∨ noMinima (stagedCounts s n) = true) ∧ (s.func n).flr = false
      ∧ (s.polder n).gen < 0xFFFFFFFF ∧ shareFits s false Counts.zero (stagedCounts s n) = true) 0 (fun _ _ => [])
    (fun _ s u => u.polder n = { s.polder n with
          state := 1, gen := (s.polder n).gen + 1, counts := stagedCounts s n, staged := 0
          maps := (List.range 7).map (fun k =>
            fitMap s k ((stagedCounts s n).list.getD k 0) ((s.polder n).maps.getD k []))
          owner := if (stagedCounts s n).queues = 0 then none else match (s.polder n).owner with
            | some o => some o
            | none => (freeOwner s).map ownerHost }
      ∧ (∀ m, m ≠ n → u.polder m = s.polder m)
      ∧ (∀ k, k = otherCopy (s.boot.areaCopies n) (·.valid) (·.counter) →
          Tab.get PolderRec.erased u.boot.area (2 * n + k.1) = PolderRec.seal k.2 { PolderRec.erased with
            state := 1, gen := (s.polder n).gen + 1, counts := stagedCounts s n, weight := cfgN s (0x3000 + n) 0xA
            access := cfgN s (0x3000 + n) 0xB, cls := cfgN s (0x3000 + n) 0xC }
          ∧ ∀ j, j ≠ 2 * n + k.1 → Tab.get PolderRec.erased u.boot.area j = Tab.get PolderRec.erased s.boot.area j)
      ∧ (∀ x y, s.boot.areaHdr = [x, y] → x.counter < 0xFFFFFFFF → y.counter < 0xFFFFFFFF →
          u.boot.areaFloor = max s.boot.areaFloor ((s.polder n).gen + 1)
          ∧ (s.boot.areaValid = true → u.boot.areaId = s.boot.areaId))))
  ∧ (∀ n < 4096, RefusesAction .commit (0x3000 + n) 0x10
    (fun _ s => (stagedCounts s n).queues = 0 ∧ noMinima (stagedCounts s n) = false) 7)
  ∧ (∀ n < 4096, RefusesAction .commit (0x3000 + n) 0x10
    (fun _ s => ((stagedCounts s n).queues ≠ 0 ∨ noMinima (stagedCounts s n) = true)
      ∧ (s.polder n).state ≠ 0 ∧ (s.polder n).state ≠ 3) 8)
  ∧ (∀ n < 4096, RefusesAction .commit (0x3000 + n) 0x10
    (fun _ s => ((s.polder n).state = 0 ∨ (s.polder n).state = 3) ∧ (s.func n).flr = false
      ∧ ((stagedCounts s n).queues ≠ 0 ∨ noMinima (stagedCounts s n) = true)
      ∧ (0xFFFFFFFF ≤ (s.polder n).gen ∨ shareFits s false Counts.zero (stagedCounts s n) = false)) 0xC)
  ∧ (∀ n < 4096, RefusesAction (fun r => .commit { r with flash := false }) (0x3000 + n) 0x10
    (fun _ s => ((s.polder n).state = 0 ∨ (s.polder n).state = 3) ∧ (s.func n).flr = false
      ∧ ((stagedCounts s n).queues ≠ 0 ∨ noMinima (stagedCounts s n) = true)
      ∧ (s.polder n).gen < 0xFFFFFFFF ∧ shareFits s false Counts.zero (stagedCounts s n) = true) 0xB)
  ∧ (∀ n < 4096, ServesAction (fun r => .adjust { r with flash := true }) (0x3000 + n) 0x11
    (fun _ s => Canonical s ∧ (s.polder n).state = 1 ∧ (adjustedCounts s n).vectors = (s.polder n).counts.vectors
      ∧ loweredInUse s n (adjustedCounts s n) = false
      ∧ ((adjustedCounts s n).queues ≠ 0 ∨ noMinima (adjustedCounts s n) = true) ∧ (s.func n).flr = false
      ∧ (s.polder n).gen < 0xFFFFFFFF
      ∧ shareFits s (s.polder n).owner.isSome (s.polder n).counts (adjustedCounts s n) = true) 0 (fun _ _ => [])
    (fun _ s u => (u.polder n).counts = adjustedCounts s n ∧ (u.polder n).state = 1
      ∧ (u.polder n).gen = (s.polder n).gen ∧ (u.polder n).staged = 0
      ∧ (u.polder n).maps = (List.range 7).map (fun k =>
          fitMap s k ((adjustedCounts s n).list.getD k 0) ((s.polder n).maps.getD k []))
      ∧ (∀ m, m ≠ n → u.polder m = s.polder m)
      ∧ (∀ m q, q < 1024 → (m ≠ n ∨ q < (adjustedCounts s n).queues ∨ (s.polder n).counts.queues ≤ q) →
          u.queue m q = s.queue m q)
      ∧ (∀ k, k = otherCopy (s.boot.areaCopies n) (·.valid) (·.counter) →
          Tab.get PolderRec.erased u.boot.area (2 * n + k.1) = PolderRec.seal k.2 { PolderRec.erased with
            state := 1, gen := (s.polder n).gen, counts := adjustedCounts s n, weight := cfgN s (0x3000 + n) 0xA
            access := cfgN s (0x3000 + n) 0xB, cls := cfgN s (0x3000 + n) 0xC })))
  ∧ (∀ n < 4096, RefusesAction .adjust (0x3000 + n) 0x11
    (fun _ s => (s.polder n).state ≠ 1 ∨ (adjustedCounts s n).vectors ≠ (s.polder n).counts.vectors
      ∨ loweredInUse s n (adjustedCounts s n) = true) 8)
  ∧ (∀ n, 0 < n → n < 4096 → ServesAction (fun r => .remove { r with flash := true }) (0x3000 + n) 0x12
    (fun _ s => Canonical s ∧ (s.polder n).state = 1 ∧ (s.func n).flr = false) 0 (fun _ _ => [])
    (fun _ s u => u.polder n = { s.polder n with state := 2 } ∧ (∀ m, m ≠ n → u.polder m = s.polder m)
      ∧ (∀ e ∈ u.polders.groups, e.2.polder = n → e.2.count = 0)
      ∧ (∀ q < 1024, u.queue n q = Queue.reset) ∧ (∀ r ∈ u.ep.reads, r.who.fn ≠ n)
      ∧ (∀ x ∈ u.ep.cached, x.fn ≠ n) ∧ (∀ x ∈ u.ep.pageReqs, x.fn ≠ n)
      ∧ (∀ k, k = otherCopy (s.boot.areaCopies n) (·.valid) (·.counter) →
          Tab.get PolderRec.erased u.boot.area (2 * n + k.1) = PolderRec.seal k.2 { PolderRec.erased with
            state := 0, gen := (s.polder n).gen, counts := (s.polder n).counts, weight := cfgN s (0x3000 + n) 0xA
            access := cfgN s (0x3000 + n) 0xB, cls := cfgN s (0x3000 + n) 0xC })))
  ∧ (∀ n < 4096, RefusesAction .remove (0x3000 + n) 0x12 (fun _ s => n = 0 ∨ (s.polder n).state ≠ 1) 8)
  ∧ (∀ (t n : Nat) (s : State), Canonical s → 0 < n → n < 4096 → (s.polder n).state = 2 →
    Runs (.polderRemoveComplete t n) s (fun u => (u.polder n).state = 0 ∧ (u.polder n).counts = Counts.none
      ∧ (u.polder n).gen = (s.polder n).gen ∧ (u.polder n).owner = none ∧ (∀ m ∈ (u.polder n).maps, m = [])
      ∧ (∀ m, m ≠ n → u.polder m = s.polder m) ∧ (∀ e ∈ u.jrn.spaces, ∀ i, e.2.attach ≠ some (n, i))
      ∧ (∀ g ∈ (s.polder n).maps.getD 2 [], u.keySlot g = KeySlot.reset)
      ∧ (∀ g ∈ (s.polder n).maps.getD 3 [], u.channel g = Channel.reset)
      ∧ (∀ g ∈ (s.polder n).maps.getD 5 [], (u.region g).valid = false ∧ (u.region g).epoch = (s.region g).epoch)
      ∧ (∀ q < 1024, u.queue n q = Queue.reset)
      ∧ (evtStat u 8).testBit 6 = true))
  ∧ (∀ (t n : Nat) (s : State), (s.polder n).state ≠ 2 → Runs (.polderRemoveComplete t n) s (fun u => u = advance t s))

/-- 10 R348, R354, 09 R328, 11 R386, 12 R414, 13 R454: the fault map is cleared, a host group is written and read,
and the records of a function, a queue, a key slot and a channel are read; a read changes nothing.
Readings the model took: log entries 52. -/
def Obligations.PolderRecords : Prop :=
  ServesAction .polderFaultClear 0x4082 0 (fun d _ => beNat d ≤ 4095 ∨ beNat d = 0xFFFF) 0 (fun _ _ => [])
    (fun d s u => (beNat d = 0xFFFF → ∀ n, Tab.get false u.polders.faultMap n = false)
      ∧ (beNat d ≤ 4095 → (Canonical s → Tab.get false u.polders.faultMap (beNat d) = false)
        ∧ ∀ n, n ≠ beNat d → Tab.get false u.polders.faultMap n = Tab.get false s.polders.faultMap n)
      ∧ AnswersOnly { s with polders := { s.polders with faultMap := u.polders.faultMap } } u)
  ∧ ServesAction .hostGroupWrite 0x4083 0
    (fun d s => beField d 0 2 ≤ 4095 ∧ beField d 2 2 ≤ 4095 ∧ (s.polder (beField d 2 2)).state = 1 ∧ beField d 6 2 ≤ 1024
      ∧ beField d 4 2 + beField d 6 2 ≤ (s.polder (beField d 2 2)).counts.queues) 0 (fun _ _ => [])
    (fun d s u => u.polders = { s.polders with
        groups := Tab.set HostGroup.none s.polders.groups (beField d 0 2)
          { polder := beField d 2 2, first := beField d 4 2, count := beField d 6 2 } }
      ∧ AnswersAndLogs { s with polders := u.polders } u)
  ∧ RefusesAction .hostGroupWrite 0x4083 0
    (fun d s => beField d 2 2 ≤ 4095 ∧ (s.polder (beField d 2 2)).state ≠ 1) 8
  ∧ ServesAction .hostGroupRead 0x4084 0 (fun d _ => beNat d ≤ 4095) 9
    (fun d s => beBytes 2 (beNat d) ++ beBytes 2 (Tab.get HostGroup.none s.polders.groups (beNat d)).polder
      ++ beBytes 2 (Tab.get HostGroup.none s.polders.groups (beNat d)).first
      ++ beBytes 2 (Tab.get HostGroup.none s.polders.groups (beNat d)).count) (fun _ s u => AnswersOnly s u)
  ∧ ServesAction .functionStatus 0x4010 0 (fun d _ => beNat d ≤ 4095) 9
    (fun d s => [byteOf (boolNat (s.func (beNat d)).busMaster), byteOf (boolNat (s.func (beNat d)).msixEnable),
        byteOf (boolNat (s.func (beNat d)).flr), byteOf (boolNat (s.func (beNat d)).priStopped)]
      ++ beBytes 2 ((readsOut s).filter (fun r => decide (r.who.fn = beNat d))).length
      ++ beBytes 2 (s.ep.quarantine.filter (fun x => decide (x.2.1 = beNat d))).length
      ++ beBytes 2 (parkedOf s (beNat d)) ++ [0, 0]) (fun _ s u => AnswersOnly s u)
  ∧ ServesAction .queueStatusRead 0x4091 0
    (fun d s => beField d 0 2 ≤ 4095 ∧ beField d 2 2 < (s.polder (beField d 0 2)).counts.queues) 9
    (fun d s => beBytes 4 (qStatWord (s.queue (beField d 0 2) (beField d 2 2)))
      ++ beBytes 4 (qErrIdxWord (s.queue (beField d 0 2) (beField d 2 2)))
      ++ beBytes 2 (s.queue (beField d 0 2) (beField d 2 2)).head
      ++ beBytes 2 (s.queue (beField d 0 2) (beField d 2 2)).tail
      ++ (List.range 16).flatMap (fun i => beBytes 4 (qWord (s.queue (beField d 0 2) (beField d 2 2)) i)))
    (fun _ s u => AnswersOnly s u)
  ∧ (∀ g : Nat, ServesAction .keySlotInfo 0x4110 0
    (fun d s => beField d 0 2 ≤ 4095 ∧ beField d 2 2 < (s.polder (beField d 0 2)).counts.keySlots
      ∧ globalOf s (beField d 0 2) 2 (beField d 2 2) = some g) 9
    (fun _ s => [byteOf (if slotEmpty s g then 0 else 1), byteOf (s.keySlot g).alg] ++ beBytes 2 (s.keySlot g).usage
      ++ beBytes 2 (s.keySlot g).users ++ beBytes 2 0) (fun _ s u => AnswersOnly s u))
  ∧ (∀ g : Nat, ServesAction .channelInfo 0x4210 0
    (fun d s => beField d 0 2 ≤ 4095 ∧ beField d 2 2 < (s.polder (beField d 0 2)).counts.channels
      ∧ globalOf s (beField d 0 2) 3 (beField d 2 2) = some g) 9
    (fun _ s => channelInfo s g) (fun _ s u => AnswersOnly s u))

/-- 09 R302, R303, R305, R308, R312 to R316: a configuration request of a function that serves is answered, or RRS
during an FLR; its writes set what they name; VF Enable, Bus Master Enable, the interrupt disables, MSI-X Enable, a
vector's mask and the power state take effect at once. Readings the model took: log entries 77, 121. -/
def Obligations.ConfigurationRequests : Prop :=
  (∀ (t fn : Nat) (x : CfgField) (s : State), s.ep.link = 2 → fnExists s fn = true → (s.func fn).rrs = false →
    (s.func fn).flr = false →
    Runs (.configRequest t fn x none) s (fun u =>
      u = emit (.config fn (some (cfgFieldRead (advance t s) fn x))) (advance t s)))
  ∧ (∀ (t fn : Nat) (x : CfgField) (w : Option Nat) (s : State), s.ep.link = 2 → fnExists s fn = true →
    (s.func fn).rrs = false → (s.func fn).flr = true →
    Runs (.configRequest t fn x w) s (fun u => u = emit (.config fn none) (advance t s)))
  ∧ (∀ s : State, cfgFieldRead s 0 .vendorId = 0x1E7A ∧ cfgFieldRead s 0 .deviceId = 0xA512
      ∧ cfgFieldRead s 0 .revisionId = 0xB0 ∧ cfgFieldRead s 0 .classCode = 0x028000
      ∧ cfgFieldRead s 0 .totalVfs = 4095
      ∧ cfgFieldRead s 0 (.value .maxLinkSpeed) = 6 ∧ cfgFieldRead s 0 (.value .maxLinkWidth) = 16
      ∧ cfgFieldRead s 0 (.value .initialVfs) = 4095 ∧ cfgFieldRead s 0 (.value .vfOffset) = 1
      ∧ cfgFieldRead s 0 (.value .vfStride) = 1 ∧ cfgFieldRead s 0 (.value .vfDeviceId) = 0xA513
      ∧ cfgFieldRead s 0 (.value .pageRequestCapacity) = 512 ∧ cfgFieldRead s 0 (.value .pasidWidth) = 20
      ∧ cfgFieldRead s 0 (.value .acsVectorSize) = 4096
      ∧ ∀ fn, cfgFieldRead s fn .busMaster = boolNat (s.func fn).busMaster
        ∧ cfgFieldRead s fn .aerStatus = (s.func fn).aer)
  ∧ (∀ (t fn v : Nat) (s : State), s.ep.link = 2 → fnExists s fn = true → (s.func fn).rrs = false →
    (s.func fn).flr = false →
    Runs (.configRequest t fn .memorySpace (some v)) s (fun u =>
      u = (advance t s).setFunc fn { s.func fn with memSpace := v.testBit 0 })
    ∧ Runs (.configRequest t fn .completionTimeout (some v)) s (fun u =>
      u = (advance t s).setFunc fn { s.func fn with timeoutEnc := v % 16 })
    ∧ Runs (.configRequest t fn .atsEnable (some v)) s (fun u =>
      u = (advance t s).setFunc fn { s.func fn with ats := v.testBit 0 })
    ∧ Runs (.configRequest t fn .aerStatus (some v)) s (fun u =>
      u = (advance t s).setFunc fn { s.func fn with aer := bitsMinus (s.func fn).aer v })
    ∧ Runs (.configRequest t fn .aerCorrectable (some v)) s (fun u =>
      u = (advance t s).setFunc fn { s.func fn with aerCor := bitsMinus (s.func fn).aerCor v })
    ∧ (v ≤ 2 → Runs (.configRequest t fn .payloadSize (some v)) s (fun u =>
      u = (advance t s).setFunc fn { s.func fn with payload := v }))
    ∧ (v ≤ 5 → Runs (.configRequest t fn .readRequestSize (some v)) s (fun u =>
      u = (advance t s).setFunc fn { s.func fn with readRequest := v }))
    ∧ Runs (.configRequest t fn .vendorId (some v)) s (fun u => u = advance t s))
  ∧ (∀ (t fn : Nat) (x : CfgField) (s : State), s.ep.link = 2 → fnExists s fn = true → fn ≠ 0 →
    (s.func fn).rrs = true → (s.func fn).flr = false → s.ep.vfAt + 10 ^ 14 ≤ t →
    Runs (.configRequest t fn x none) s (fun u => (Canonical s → (u.func fn).rrs = false)
      ∧ ∃ v, .config fn (some v) ∈ u.out))
  ∧ (∀ (t n : Nat) (s : State), fnServed s 0 = true → s.ep.vfEnable = false → n ≤ 4095 →
    Runs (.vfEnable t n) s (fun u =>
      u = modEp (fun e => { e with vfEnable := true, numVfs := n, vfAt := t }) (advance t s)))
  ∧ (∀ (t fn : Nat) (s : State), Canonical s → fnServed s fn = true → (s.func fn).busMaster = true →
    Runs (.busMasterDisable t fn) s (fun u => (u.func fn).busMaster = false
      ∧ (∀ g, g ≠ fn → u.func g = s.func g)
      ∧ (∀ q < 1024, (s.queue fn q).st ≠ .error → (s.queue fn q).st ≠ .disabled →
          (u.queue fn q).st = .error ∧ (u.queue fn q).status = 0xA)
      ∧ (∀ q < 1024, (s.queue fn q).st = .disabled → (u.queue fn q).st = .disabled)))
  ∧ (∀ (t : Nat) (v : Bool) (s : State), fnServed s 0 = true →
    Runs (.interruptDisableWrite t v) s (fun u =>
      u = intxEval ((advance t s).setFunc 0 { s.func 0 with intDisable := v })
      ∧ (v = true → u.ep.inta = false)))
  ∧ (∀ (t fn : Nat) (v : Bool) (s : State), Canonical s → fnServed s fn = true →
    Runs (.msixEnableWrite t fn v) s (fun u => (u.func fn).msixEnable = v ∧ (∀ g, g ≠ fn → u.func g = s.func g)
      ∧ (fn = 0 → v = true → u.ep.inta = false)
      ∧ SignalsOnly { advance t s with ep := { (advance t s).ep with funcs := u.ep.funcs } } u))
  ∧ (∀ (t fn vec : Nat) (s : State), Canonical s → barOpen s fn = true → vec < msixSize s fn →
    (s.func fn).msixEnable = false →
    Runs (.msixUnmask t fn vec) s (fun u =>
      u = (advance t s).setMsix fn vec { (advance t s).msix fn vec with masked := false }))
  ∧ (∀ (t fn vec : Nat) (s : State), Canonical s → barOpen s fn = true → vec < msixSize s fn → vec < 2048 →
    (s.func fn).msixEnable = true →
    Runs (.msixUnmask t fn vec) s (fun u => (u.msix fn vec).masked = false
      ∧ SignalsOnly { advance t s with ep := { (advance t s).ep with msix := u.ep.msix } } u))
  ∧ (∀ (t fn vec : Nat) (x : MsixEntry) (s : State), t ≤ s.clock → barOpen s fn = true → vec < msixSize s fn → vec < 2048 →
    (s.func fn).msixEnable = true → (s.func fn).busMaster = true → (s.func fn).msixMask = false →
    (s.func fn).d3hot = false → (s.func fn).flr = false → s.ep.link = 2 →
    s.ep.msix = [(msixKey fn vec, x)] → x.pending = true →
    Runs (.msixUnmask t fn vec) s (fun u => (u.msix fn vec).masked = false ∧ (u.msix fn vec).pending = false
      ∧ .msix fn vec ∈ u.out))
  ∧ (∀ (t : Nat) (s : State), Canonical s → fnServed s 0 = true →
    Runs (.powerStateWrite t 0 3) s (fun u => (u.func 0).d3hot = true
      ∧ (s.buf.hostQ = [] → u.ep.inta = false))
    ∧ Runs (.powerStateWrite t 0 0) s (fun u => (u.func 0).d3hot = false)
    ∧ Runs (.powerStateWrite t 0 1) s (fun u => u = advance t s))

/-- 09 R317 to R322, R328, 10 R350: an FLR returns a function to its reset values and ends its work; PF0's FLR ends
every VF and resets the mailbox; a drain past 90 ms is a fault; a Hot Reset and a link that goes down end the work
of every function; a link that comes up is recorded. Readings the model took: log entries 83, 84. -/
def Obligations.HostResets : Prop :=
  (∀ (t fn : Nat) (s : State), Canonical s → fnServed s fn = true → fn ≠ 0 →
    Runs (.flrInitiate t fn) s (fun u =>
      u.func fn = { Func.reset with rrs := false, flr := true, flrAt := t, resetSeen := (s.func fn).resetSeen }
      ∧ (∀ g, g ≠ fn → u.func g = s.func g)
      ∧ (∀ q < 1024, u.queue fn q = Queue.reset) ∧ (∀ r ∈ u.ep.reads, r.who.fn ≠ fn)
      ∧ (∀ x ∈ u.ep.pageReqs, x.fn ≠ fn) ∧ (∀ x ∈ u.ep.cached, x.fn ≠ fn) ∧ (∀ x ∈ u.ep.asked, x.1.fn ≠ fn)
      ∧ u.polders = s.polders ∧ u.mbx = s.mbx))
  ∧ (∀ (t : Nat) (s : State), Canonical s → fnServed s 0 = true →
    Runs (.flrInitiate t 0) s (fun u =>
      u.func 0 = { Func.reset with rrs := false, flr := true, flrAt := t, resetSeen := (s.func 0).resetSeen }
      ∧ (∀ g, g ≠ 0 → u.func g = Func.reset) ∧ u.ep.vfEnable = false ∧ u.ep.numVfs = 0 ∧ u.ep.vfBars = [0, 0, 0]
      ∧ u.ep.pageSize = 1 ∧ u.ep.tag10 = false ∧ u.ep.tag14 = false ∧ u.boot.dmaWindows = zeros 256
      ∧ u.mbx = { Mailbox.reset with restart := s.mbx.restart, orphans := s.mbx.orphans ++ s.mbx.accepted.toList }
      ∧ u.evt.mask = [] ∧ u.evt.vector = [] ∧ u.polders = s.polders))
  ∧ (∀ (t fn : Nat) (s : State), Canonical s → (s.func fn).flr = true → (s.func fn).flrCapped = false →
    (s.func fn).flrAt + 90 * 10 ^ 12 ≤ t →
    Runs (.flrDrainCap t fn) s (fun u => u.func fn = { s.func fn with flrCapped := true }
      ∧ counter u 0x4002 0xC = satAdd64 (counter s 0x4002 0xC) 1 ∧ (evtStat u 8).testBit 4 = true
      ∧ Tab.get false u.polders.faultMap fn = true ∧ (∀ m, m ≠ fn → u.polder m = s.polder m) ∧ u.wq = s.wq))
  ∧ (∀ (t fn : Nat) (s : State), fnServed s fn = false → Runs (.flrInitiate t fn) s (fun u => u = advance t s))
  ∧ (∀ (t fn : Nat) (s : State), (s.func fn).flr = false → Runs (.flrDrainCap t fn) s (fun u => u = advance t s)
    ∧ Runs (.flrComplete t fn) s (fun u => u = advance t s))
  ∧ (∀ (t fn : Nat) (s : State), (s.func fn).flr = true → t < (s.func fn).flrAt + 90 * 10 ^ 12 →
    Runs (.flrDrainCap t fn) s (fun u => u = advance t s))
  ∧ (∀ (t fn : Nat) (s : State), (s.func fn).flr = true →
    Runs (.flrComplete t fn) s (fun u => u = (advance t s).setFunc fn { s.func fn with
      flr := false, flrCapped := false, resetSeen := true }))
  ∧ (∀ (t : Nat) (s : State), s.ep.link = 2 →
    Runs (.hotReset t) s (fun u => u.ep.link = 1 ∧ u.ep.funcs = [] ∧ u.ep.vfEnable = false ∧ u.ep.numVfs = 0
      ∧ u.ep.cached = [] ∧ u.ep.asked = [] ∧ u.ep.pageReqs = [] ∧ u.ep.invalidations = [] ∧ u.sched.htx = []
      ∧ u.evt.mask = [] ∧ u.evt.vector = []
      ∧ u.polders = s.polders ∧ ∀ e ∈ s.polders.tab, ∀ q < 1024, u.queue e.1 q = Queue.reset))
  ∧ (∀ (t : Nat) (s : State), s.ep.link = 2 ∨ s.ep.link = 1 →
    Runs (.linkDown t) s (fun u => u.ep.link = 0 ∧ u.ep.funcs = [] ∧ u.ep.vfEnable = false ∧ u.ep.wasUp = false
      ∧ (s.ep.wasUp = true → (evtStat u 8).testBit 0 = true)
      ∧ u.polders = s.polders ∧ ∀ e ∈ s.polders.tab, ∀ q < 1024, u.queue e.1 q = Queue.reset))
  ∧ (∀ (t : Nat) (s : State), s.ep.link = 0 ∨ s.ep.link = 3 → Runs (.linkDown t) s (fun u => u = advance t s))
  ∧ (∀ (t speed width : Nat) (flit : Bool) (s : State), s.ep.link = 0 ∨ s.ep.link = 1 → s.boot.started = true →
    1 ≤ speed → speed ≤ 6 → width ∈ [1, 2, 4, 8, 16] → (speed = 6 → flit = true) →
    Runs (.linkUp t speed width flit) s (fun u => u.ep.link = 2 ∧ u.ep.speed = speed ∧ u.ep.width = width
      ∧ u.ep.flit = flit ∧ u.ep.wasUp = true ∧ (s.ep.wasUp = false → (evtStat u 8).testBit 1 = true)
      ∧ SignalsOnly { advance t s with ep := { u.ep with inta := (advance t s).ep.inta, msix := (advance t s).ep.msix } } u))

/-- 09 R307 to R311, R327: the completion of the last part ends its read and delivers the data; UR, CA and a
poisoned one stop the queue with ACCESS; a malformed one, or one whose ECRC fails, is reported and discarded; a read
that is not answered in time stops its queue with TIMEOUT and puts the tag in quarantine for twice the timeout; a
completion for a tag that no read holds is counted and reported as advisory. Readings the model took: log entries
49, 121, 123. -/
def Obligations.ReadCompletions : Prop :=
  (∀ (t tag n q fn : Nat) (data : Bytes) (s : State) (r : Read), Canonical s → s.ep.link = 2 →
    readAt s tag = some r → r.dropped = false → r.what = .entries n → r.who.fn = fn → r.who.q = some q →
    data.length = r.len → s.ep.reads.filter (fun x => x.isFor r.who r.what) = [r] → (∀ x ∈ s.ep.reads, x.st ≠ .waiting) →
    0 < n → (s.queue fn q).fetched < qSize (s.queue fn q) →
    Runs (.completionReceive t tag .ok data) s (fun u => readAt u tag = none
      ∧ (u.queue fn q).reading = false
      ∧ (u.queue fn q).fetched = ((s.queue fn q).fetched + n) % qSize (s.queue fn q)
      ∧ (n = 1 → data.length = 32 → (s.queue fn q).st = .enabled → qKind (s.queue fn q) = kTX →
          (s.queue fn q).partialChain = [] → eFirst data = true → eLast data = true →
          chainBad (advance t s) fn kTX [data] = none →
          (u.queue fn q).chains = (s.queue fn q).chains ++ [{
            first := (s.queue fn q).fetched, entries := [data], started := false, finished := false, status := 0
            result := 0 }])
      ∧ u.ep.funcs = s.ep.funcs ∧ u.ep.quarantine = s.ep.quarantine))
  ∧ (∀ (t tag q fn : Nat) (data b : Bytes) (ch : Chain) (s : State) (r : Read), Canonical s → s.ep.link = 2 →
    readAt s tag = some r → r.dropped = false → r.what = .data ch.first → r.who.fn = fn → r.who.q = some q →
    data.length = r.len → s.ep.reads.filter (fun x => x.isFor r.who r.what) = [r] → (∀ x ∈ s.ep.reads, x.st ≠ .waiting) →
    txChain s fn q = some ch → chainAt (s.queue fn q) ch.first = some ch → 60 ≤ (ch.entries.map eLength).sum →
    (ch.entries.map eLength).sum + 4 ≤ maxFrameSize s (txPort (ch.entries.headD [])) →
    portMode s (txPort (ch.entries.headD [])) ≠ 0 →
    readRefused s fn q (ch.entries.map (fun e => (eAddr e, eLength e))) = false →
    gather s (ch.entries.map (fun e => (eAddr e, eLength e))) data = some b →
    Runs (.completionReceive t tag .ok data) s (fun u => readAt u tag = none
      ∧ (u.queue fn q).chains = startChain (s.queue fn q) ch.first
      ∧ (u.htx (dieOf (txPort (ch.entries.headD [])))).frames = (s.htx (dieOf (txPort (ch.entries.headD [])))).frames
        ++ [{ fn := fn, q := q, idx := ch.first, die := dieOf (txPort (ch.entries.headD []))
              port := txPort (ch.entries.headD []), tc := txTc (ch.entries.headD [])
              tsreq := txTsreq (ch.entries.headD []), bytes := b }]))
  ∧ (∀ (t tag q fn : Nat) (data : Bytes) (st : CplStatus) (s : State) (r : Read), Canonical s → s.ep.link = 2 →
    readAt s tag = some r → r.dropped = false → (∃ n, r.what = .entries n ∨ r.what = .data n) → r.who.fn = fn →
    r.who.q = some q → (∀ x ∈ s.ep.reads, x.st ≠ .waiting) → st = .ur ∨ st = .ca ∨ st = .poisoned →
    (s.queue fn q).st ≠ .error → (s.queue fn q).st ≠ .disabled →
    Runs (.completionReceive t tag st data) s (fun u => readAt u tag = none
      ∧ (u.queue fn q).st = .error ∧ (u.queue fn q).status = 2
      ∧ (∀ x ∈ u.ep.reads, x.isFor r.who r.what = false)
      ∧ Tab.get false u.polders.faultMap fn = true
      ∧ (st = .poisoned → (u.func fn).aer.testBit 12 = true ∧ (u.func fn).aerCor.testBit 13 = true
          ∧ counter u 0x4002 4 = satAdd64 (counter s 0x4002 4) 1)
      ∧ (st ≠ .poisoned → u.ep.funcs = s.ep.funcs)))
  ∧ (∀ (t tag : Nat) (data : Bytes) (st : CplStatus) (s : State) (r : Read), s.ep.link = 2 → readAt s tag = some r →
    r.dropped = true → (∀ x ∈ s.ep.reads, x.st ≠ .waiting) → st = .ok ∨ st = .ur ∨ st = .ca →
    Runs (.completionReceive t tag st data) s (fun u => readAt u tag = none ∧ u.wq = s.wq ∧ u.polders = s.polders))
  ∧ (∀ (t tag : Nat) (data : Bytes) (s : State) (r : Read), Canonical s → s.ep.link = 2 → readAt s tag = some r →
    (Runs (.completionReceive t tag .malformed data) s (fun u => (u.func r.who.fn).aer.testBit 18 = true
      ∧ u.ep.reads = s.ep.reads ∧ u.wq = s.wq))
    ∧ (r.dropped = false → data.length ≠ r.len → Runs (.completionReceive t tag .ok data) s (fun u =>
      (u.func r.who.fn).aer.testBit 18 = true ∧ u.ep.reads = s.ep.reads ∧ u.wq = s.wq))
    ∧ ((s.func r.who.fn).ecrcCheck = true → Runs (.completionReceive t tag .ecrc data) s (fun u =>
      (u.func r.who.fn).aer.testBit 19 = true ∧ u.ep.reads = s.ep.reads ∧ u.wq = s.wq))
    ∧ ((s.func r.who.fn).ecrcCheck = false → Runs (.completionReceive t tag .ecrc data) s (fun u => u = advance t s)))
  ∧ (∀ (t tag : Nat) (data : Bytes) (st : CplStatus) (s : State), Canonical s → s.ep.link = 2 → readAt s tag = none →
    Runs (.completionReceive t tag st data) s (fun u => u.ep.reads = s.ep.reads
      ∧ (∀ x ∈ u.ep.quarantine, x.1 ≠ tag) ∧ counter u 0x4002 2 = satAdd64 (counter s 0x4002 2) 1
      ∧ (∀ x, s.ep.quarantine.find? (fun x => decide (x.1 = tag)) = some x →
          (u.func x.2.1).aer.testBit 16 = true ∧ (u.func x.2.1).aerCor.testBit 13 = true)
      ∧ u.wq = s.wq ∧ u.polders = s.polders))
  ∧ (∀ (t tag q fn : Nat) (s : State) (r : Read), Canonical s → readAt s tag = some r → r.dropped = false →
    (∃ n, r.what = .entries n ∨ r.what = .data n) → r.who.fn = fn → r.who.q = some q →
    r.since + timeoutFs s fn ≤ t → (s.queue fn q).st ≠ .error → (s.queue fn q).st ≠ .disabled →
    Runs (.completionTimeout t tag) s (fun u => readAt u tag = none
      ∧ (tag, fn, t + 2 * timeoutFs s fn) ∈ u.ep.quarantine ∧ (u.func fn).aer.testBit 14 = true
      ∧ counter u 0x4002 1 = satAdd64 (counter s 0x4002 1) 1 ∧ (evtStat u 8).testBit 2 = true
      ∧ (u.queue fn q).st = .error ∧ (u.queue fn q).status = 6))
  ∧ (∀ (t tag : Nat) (s : State) (r : Read), readAt s tag = some r → t < r.since + timeoutFs s r.who.fn →
    Runs (.completionTimeout t tag) s (fun u => u = advance t s))
  ∧ (∀ (t tag : Nat) (s : State), Runs (.tagQuarantineEnd t tag) s (fun u =>
      (∀ x, x ∈ u.ep.quarantine ↔ x ∈ s.ep.quarantine ∧ ¬(x.1 = tag ∧ x.2.2 ≤ t))
      ∧ u = modEp (fun e => { e with quarantine := u.ep.quarantine }) (advance t s)))

/-- 09 R323 to R325, R333: a granted translation is kept; a denied one stops the queue with TRANSLATION_FAULT or,
with PRI, parks it and sends a page request, and one that coincides with an invalidation of the page is asked for
again; a page response resumes the queue, whose page is asked for again, or stops it, a failure stops page requests
until PRI Reset; no response in time stops the queue; an invalidation drops the translation and completes after the
reads under it. Readings the model took: log entries 51, 74, 122. -/
def Obligations.TranslationServices : Prop :=
  (∀ (t fn q page g : Nat) (a : Requester × Nat) (s : State), askedFor s fn q page = some a →
    (s.ep.cached.filter (fun y => decide (y.fn ≠ fn ∨ y.pasid ≠ a.1.pasid ∨ y.page ≠ page))).length < 16384 →
    Runs (.translationResponse t fn q page (some g)) s (fun u => u = modEp (fun e => { e with
      asked := e.asked.erase a
      cached := e.cached.filter (fun y => decide (y.fn ≠ fn ∨ y.pasid ≠ a.1.pasid ∨ y.page ≠ page))
        ++ [{ fn := fn, pasid := a.1.pasid, page := page, frame := g }] }) (advance t s)))
  ∧ (∀ (t fn q page : Nat) (f : Option Nat) (s : State), askedFor s fn q page = none →
    Runs (.translationResponse t fn q page f) s (fun u => u = advance t s))
  ∧ (∀ (t fn q page : Nat) (a : Requester × Nat) (s : State), Canonical s → askedFor s fn q page = some a →
    a.1.q = some q → justInvalidated (advance t s) a.1 page = false → (s.queue fn q).st ≠ .disabled →
    (s.queue fn q).st ≠ .error →
    s.ep.pageReqs.any (fun r => decide (r.fn = fn ∧ r.q = q)) = false → (s.func fn).pri = false ∨ (s.func fn).priStopped = true →
    Runs (.translationResponse t fn q page none) s (fun u => (u.queue fn q).st = .error
      ∧ (u.queue fn q).status = 0xB ∧ counter u 0x4002 5 = satAdd64 (counter s 0x4002 5) 1
      ∧ (evtStat u 8).testBit 3 = true ∧ u.ep.pageReqs = s.ep.pageReqs ∧ u.ep.cached = s.ep.cached
      ∧ u.ep.asked = s.ep.asked.erase a))
  ∧ (∀ (t fn q page : Nat) (a : Requester × Nat) (s : State), Canonical s → askedFor s fn q page = some a →
    a.1.q = some q → justInvalidated (advance t s) a.1 page = false → fnRuns s fn = true →
    (s.queue fn q).st = .enabled → (∀ r ∈ s.ep.pageReqs, r.fn ≠ fn) → (s.func fn).pri = true →
    (s.func fn).priStopped = false → 1 ≤ (s.func fn).priAlloc →
    Runs (.translationResponse t fn q page none) s (fun u => u.queue fn q = { s.queue fn q with st := .parked }
      ∧ u.ep.pageReqs = s.ep.pageReqs ++ [{ fn := fn, q := q, page := page, sentAt := some t }]
      ∧ counter u 0x4002 6 = satAdd64 (counter s 0x4002 6) 1
      ∧ .pageRequest fn q page (pasidSent s (queueReq s fn q)) ∈ u.out))
  ∧ (∀ (t fn q page : Nat) (a : Requester × Nat) (s : State), askedFor s fn q page = some a → s.ep.asked = [a] →
    justInvalidated (advance t s) a.1 page = true → (s.func fn).ats = true → cachedPage s a.1 (4096 * page) = none →
    Runs (.translationResponse t fn q page none) s (fun u => u.ep.asked = [a] ∧ u.wq = s.wq
      ∧ .translationRequest fn a.1.pasid page ∈ u.out))
  ∧ (∀ (t fn q : Nat) (s : State) (r : PageReq), Canonical s → s.ep.link = 2 → s.ep.pageReqs = [r] → r.fn = fn →
    r.q = q → r.sentAt.isSome = true → (s.queue fn q).st = .parked → (s.queue fn q).waiting = [] →
    (s.queue fn q).journalHold = false → (s.queue fn q).bell = none →
    Runs (.prgResponse t fn q .success) s (fun u => u.queue fn q = { s.queue fn q with st := .enabled }
      ∧ u.ep.pageReqs = []
      ∧ ((s.func fn).ats = true → cachedPage s (queueReq s fn q) (4096 * r.page) = none → s.ep.asked = [] →
          u.ep.asked = [(queueReq s fn q, r.page)]
          ∧ .translationRequest fn (pasidOf (s.queue fn q)) r.page ∈ u.out)
      ∧ (∀ g p, (g ≠ fn ∨ p ≠ q) → g < 4096 → p < 1024 → q < 1024 → u.queue g p = s.queue g p)))
  ∧ (∀ (t fn q : Nat) (s : State) (r : PageReq), Canonical s → s.ep.link = 2 → s.ep.pageReqs = [r] → r.fn = fn →
    r.q = q → r.sentAt.isSome = true → (s.queue fn q).st = .parked →
    Runs (.prgResponse t fn q .invalidRequest) s (fun u => (u.queue fn q).st = .error
      ∧ (u.queue fn q).status = 0xB ∧ u.ep.pageReqs = [] ∧ counter u 0x4002 7 = satAdd64 (counter s 0x4002 7) 1)
    ∧ Runs (.prgResponse t fn q .responseFailure) s (fun u => (u.queue fn q).st = .error
      ∧ (u.queue fn q).status = 0xB ∧ u.ep.pageReqs = [] ∧ (u.func fn).priStopped = true
      ∧ (u.func fn).priFailed = true))
  ∧ (∀ (t fn q : Nat) (code : PrgCode) (s : State), s.ep.link = 2 → pageReqOf s fn q = none →
    Runs (.prgResponse t fn q code) s (fun u => counter u 0x4002 7 = satAdd64 (counter s 0x4002 7) 1
      ∧ CountsOnly (advance t s) u))
  ∧ (∀ (t fn q : Nat) (s : State) (r : PageReq), Canonical s → pageReqOf s fn q = some r → s.ep.pageReqs = [r] →
    r.sentAt.getD 0 + cfgN s 0x4000 2 * 10 ^ 12 ≤ t → (s.queue fn q).st = .parked →
    Runs (.pageRequestTimeout t fn q) s (fun u => (u.queue fn q).st = .error ∧ (u.queue fn q).status = 0xB
      ∧ u.ep.pageReqs = [] ∧ counter u 0x4002 7 = satAdd64 (counter s 0x4002 7) 1))
  ∧ (∀ (t fn q : Nat) (s : State) (r : PageReq), pageReqOf s fn q = some r →
    t < r.sentAt.getD 0 + cfgN s 0x4000 2 * 10 ^ 12 →
    Runs (.pageRequestTimeout t fn q) s (fun u => u = advance t s))
  ∧ (∀ (fn : Nat) (s : State), fnServed s fn = true →
    Runs (.priReset fn) s (fun u => u = s.setFunc fn { s.func fn with priStopped := false }))
  ∧ (∀ (t fn tag pasid page : Nat) (s : State), fnServed s fn = true → s.ep.invalidations.length < 32 → pasid < 2 ^ 20 →
    Runs (.invalidateRequest t fn tag pasid page) s (fun u => (∀ x ∈ u.ep.cached, ¬(x.fn = fn ∧ x.pasid = some pasid ∧ x.page = page))
      ∧ u = modEp (fun e => { e with
          cached := e.cached.filter (fun x => decide (x.fn ≠ fn ∨ x.pasid ≠ some pasid ∨ x.page ≠ page))
          lastInval := some (fn, some pasid, page, (advance t s).clock)
          invalidations := e.invalidations ++ [(fn, tag, (e.reads.filter (fun r =>
            decide (r.who.fn = fn ∧ r.who.pasid = some pasid ∧ r.addr / 4096 = page) && r.translated)).filterMap (·.tag?))] })
        (advance t s)))
  ∧ (∀ (t fn tag : Nat) (s : State), (fn, tag, []) ∈ s.ep.invalidations →
    Runs (.invalidateComplete t fn tag) s (fun u => u = emit (.invalidated fn tag) (modEp (fun e => { e with
      invalidations := e.invalidations.erase (fn, tag, []) }) (advance t s))))
  ∧ (∀ (t fn tag : Nat) (s : State), (fn, tag, []) ∉ s.ep.invalidations →
    Runs (.invalidateComplete t fn tag) s (fun u => u = advance t s))

/-- 11 R363, R364, R379, R380: the commands of Q_CTRL. NOP records itself; LOAD and READ move a context word of a
DISABLED queue; ENABLE takes a queue with a good context into service, with indices 0; RESET and DISABLE end it; in
another state LOAD, READ, ENABLE and DISABLE give result 1 and change nothing else.
Readings the model took: log entries 44, 48, 60. -/
def Obligations.QueueControl : Prop :=
  (∀ (fn q : Nat) (s : State), Canonical s → queueThere s fn q = true → (s.queue fn q).resetting = false →
    Runs (.qNop fn q) s (QueueSet fn q { s.queue fn q with ignored := false, cmd := 0, cmdResult := 0 } s))
  ∧ (∀ (fn q : Nat) (s : State), queueThere s fn q = true → (s.queue fn q).resetting = true →
    Runs (.qNop fn q) s (fun u => u = s.setQueue fn q { s.queue fn q with ignored := true }))
  ∧ (∀ (fn q w : Nat) (s : State), Canonical s → queueThere s fn q = true → (s.queue fn q).resetting = false →
    (s.queue fn q).st = .disabled → w < 16 →
    Runs (.qLoad fn q w) s (QueueSet fn q { s.queue fn q with
      ignored := false, cmd := 1 + 16 * w, cmdResult := 0
      ctx := Tab.set 0#32 (s.queue fn q).ctx w (s.queue fn q).data } s)
    ∧ Runs (.qRead fn q w) s (QueueSet fn q { s.queue fn q with
      ignored := false, cmd := 2 + 16 * w, cmdResult := 0, data := Tab.get 0#32 (s.queue fn q).ctx w } s))
  ∧ (∀ (t fn q w : Nat) (s : State), Canonical s → queueThere s fn q = true → (s.queue fn q).resetting = false →
    (s.queue fn q).st ≠ .disabled → w < 16 →
    Runs (.qLoad fn q w) s (QueueSet fn q { s.queue fn q with cmd := 1 + 16 * w, cmdResult := 1 } s)
    ∧ Runs (.qRead fn q w) s (QueueSet fn q { s.queue fn q with cmd := 2 + 16 * w, cmdResult := 1 } s)
    ∧ Runs (.qEnable t fn q) s (QueueSet fn q { s.queue fn q with cmd := 3, cmdResult := 1 } (advance t s)))
  ∧ (∀ (t fn q : Nat) (x : Queue) (s : State), Canonical s → queueThere s fn q = true →
    (s.queue fn q).resetting = false → (s.queue fn q).st = .disabled →
    x = { s.queue fn q with cmd := 3 } → contextBad ((advance t s).setQueue fn q x) fn q x = false →
    qSamplePeriod x = 0 ∨ hostSampleOver ((advance t s).setQueue fn q x) (qSamplePeriod x) = false →
    Runs (.qEnable t fn q) s (QueueSet fn q { Queue.reset with
      ctx := (s.queue fn q).ctx, data := (s.queue fn q).data, cmd := 3, sampleSeq := (s.queue fn q).sampleSeq
      st := .enabled, cmdResult := 0 } (advance t s)))
  ∧ (∀ (t fn q : Nat) (x : Queue) (s : State), Canonical s → queueThere s fn q = true →
    (s.queue fn q).resetting = false → (s.queue fn q).st = .disabled →
    x = { s.queue fn q with cmd := 3 } →
    (contextBad ((advance t s).setQueue fn q x) fn q x = true →
      Runs (.qEnable t fn q) s (QueueSet fn q { x with cmdResult := 2 } (advance t s)))
    ∧ (contextBad ((advance t s).setQueue fn q x) fn q x = false → qSamplePeriod x ≠ 0 →
      hostSampleOver ((advance t s).setQueue fn q x) (qSamplePeriod x) = true →
      Runs (.qEnable t fn q) s (QueueSet fn q { x with cmdResult := 3 } (advance t s))))
  ∧ (∀ (t fn q : Nat) (s : State), Canonical s → queueThere s fn q = true → (s.queue fn q).resetting = false →
    qKind (s.queue fn q) ≠ kJOURNAL ∨ (s.queue fn q).chains = [] ∨ (s.queue fn q).st = .disabled →
    Runs (.qReset t fn q) s (fun u => (u.queue fn q).st = .disabled ∧ (u.queue fn q).head = 0
      ∧ (u.queue fn q).tail = 0 ∧ (u.queue fn q).status = 0 ∧ (u.queue fn q).reason = 0 ∧ (u.queue fn q).errIdx = 0
      ∧ (u.queue fn q).chains = [] ∧ (u.queue fn q).waiting = [] ∧ (u.queue fn q).cmdResult = 0
      ∧ (u.queue fn q).ctx = (s.queue fn q).ctx ∧ (∀ g p, qKey g p ≠ qKey fn q → u.queue g p = s.queue g p)
      ∧ u.polders = s.polders))
  ∧ (∀ (t fn q : Nat) (s : State), Canonical s → queueThere s fn q = true → (s.queue fn q).resetting = false →
    qKind (s.queue fn q) = kJOURNAL → (s.queue fn q).chains ≠ [] → (s.queue fn q).st ≠ .disabled →
    Runs (.qReset t fn q) s (fun u => (u.queue fn q).cmdResult = 0
      ∧ (((u.queue fn q).st = .draining ∧ (u.queue fn q).resetting = true) ∨ (u.queue fn q).st = .disabled)
      ∧ (u.queue fn q).ctx = (s.queue fn q).ctx))
  ∧ (∀ (t fn q : Nat) (s : State), Canonical s → queueThere s fn q = true → (s.queue fn q).resetting = false →
    (s.queue fn q).st.live = true → (s.queue fn q).waiting = [] →
    qKind (s.queue fn q) ≠ kCOMPLETION
      ∨ activeQueue s fn (fun _ y => isProducer (qKind y) && decide (qCq y = q)) = false →
    Runs (.qDisable t fn q) s (fun u => (u.queue fn q).cmdResult = 0
      ∧ (u.queue fn q).st = (if (u.queue fn q).chains = [] then .disabled else .draining)
      ∧ (u.queue fn q).chains = (if qKind (s.queue fn q) = kRX then (s.queue fn q).chains.filter (·.finished)
          else (s.queue fn q).chains)
      ∧ (u.queue fn q).ctx = (s.queue fn q).ctx ∧ (u.queue fn q).posted = []
      ∧ ∀ g p, qKey g p ≠ qKey fn q → u.queue g p = s.queue g p))
  ∧ (∀ (t fn q : Nat) (s : State), Canonical s → queueThere s fn q = true → (s.queue fn q).resetting = false →
    (s.queue fn q).st.live = false ∨ (qKind (s.queue fn q) = kCOMPLETION
      ∧ activeQueue s fn (fun _ y => isProducer (qKind y) && decide (qCq y = q)) = true) →
    Runs (.qDisable t fn q) s (QueueSet fn q { s.queue fn q with cmd := 4, cmdResult := 1 } (advance t s)))

/-- 11 R377, R381, R383, R387: a doorbell of a DISABLED queue is its DATA register; in ERROR or DRAINING it is
ignored and said so, but recorded in the clock in which the queue entered ERROR; in HELD or PARKED it is kept until
the queue resumes; an index within the ring moves the tail of a producer or the head of a consumer; one beyond it
stops the queue with MALFORMED, reason 10. Readings the model took: log entries 76, 84. -/
def Obligations.Doorbells : Prop :=
  (∀ (t fn q v : Nat) (s : State), queueThere s fn q = true → (s.queue fn q).st = .disabled →
    Runs (.tailDoorbell t fn q v) s (fun u =>
      u = (advance t s).setQueue fn q { s.queue fn q with data := BitVec.ofNat 32 v })
    ∧ Runs (.headDoorbell t fn q v) s (fun u =>
      u = (advance t s).setQueue fn q { s.queue fn q with data := BitVec.ofNat 32 v }))
  ∧ (∀ (t fn q v : Nat) (s : State), queueThere s fn q = true →
    ((s.queue fn q).st = .error ∧ clockOf (s.queue fn q).errAt ≠ clockOf (advance t s).clock)
      ∨ (s.queue fn q).st = .draining →
    Runs (.tailDoorbell t fn q v) s (fun u =>
      u = (advance t s).setQueue fn q { s.queue fn q with ignored := true })
    ∧ Runs (.headDoorbell t fn q v) s (fun u =>
      u = (advance t s).setQueue fn q { s.queue fn q with ignored := true }))
  ∧ (∀ (t fn q v : Nat) (s : State), queueThere s fn q = true → (s.queue fn q).st = .error →
    clockOf (s.queue fn q).errAt = clockOf (advance t s).clock → v < 65536 → (s.queue fn q).status ≠ stMASTER_DISABLED →
    Runs (.tailDoorbell t fn q v) s (fun u =>
      u = (advance t s).setQueue fn q { s.queue fn q with index := v })
    ∧ Runs (.headDoorbell t fn q v) s (fun u =>
      u = (advance t s).setQueue fn q { s.queue fn q with index := v }))
  ∧ (∀ (t fn q v : Nat) (s : State), queueThere s fn q = true →
    (s.queue fn q).st = .held ∨ (s.queue fn q).st = .parked → v < 65536 →
    (isProducer (qKind (s.queue fn q)) = true → Runs (.tailDoorbell t fn q v) s (fun u =>
      u = (advance t s).setQueue fn q { s.queue fn q with index := v, bell := some v }))
    ∧ (isProducer (qKind (s.queue fn q)) = false → Runs (.headDoorbell t fn q v) s (fun u =>
      u = (advance t s).setQueue fn q { s.queue fn q with index := v, bell := some v })))
  ∧ (∀ (t fn q v : Nat) (s : State), Canonical s → queueThere s fn q = true →
    isProducer (qKind (s.queue fn q)) = true → (s.queue fn q).st = .enabled → v < qSize (s.queue fn q) → v < 65536 →
    (v + qSize (s.queue fn q) - (s.queue fn q).tail) % qSize (s.queue fn q)
      ≤ qSize (s.queue fn q) - 1
        - ((s.queue fn q).tail + qSize (s.queue fn q) - (s.queue fn q).head) % qSize (s.queue fn q) →
    Runs (.tailDoorbell t fn q v) s (QueueSet fn q { s.queue fn q with index := v, tail := v } (advance t s)))
  ∧ (∀ (t fn q v : Nat) (s : State), Canonical s → queueThere s fn q = true →
    isProducer (qKind (s.queue fn q)) = true → (s.queue fn q).st = .enabled → v < 65536 →
    qSize (s.queue fn q) ≤ v ∨ qSize (s.queue fn q) - 1
        - ((s.queue fn q).tail + qSize (s.queue fn q) - (s.queue fn q).head) % qSize (s.queue fn q)
      < (v + qSize (s.queue fn q) - (s.queue fn q).tail) % qSize (s.queue fn q) →
    Runs (.tailDoorbell t fn q v) s (fun u => (u.queue fn q).st = .error ∧ (u.queue fn q).status = 1
      ∧ (u.queue fn q).reason = 10 ∧ (u.queue fn q).errIdx = v ∧ (u.queue fn q).tail = (s.queue fn q).tail
      ∧ counter u 0x4090 3 = satAdd64 (counter s 0x4090 3) 1 ∧ Tab.get false u.polders.faultMap fn = true
      ∧ ∀ g p, qKey g p ≠ qKey fn q → u.queue g p = s.queue g p))
  ∧ (∀ (t fn q v : Nat) (s : State), Canonical s → queueThere s fn q = true →
    isProducer (qKind (s.queue fn q)) = false → (s.queue fn q).st = .enabled → v < 65536 →
    (v < qSize (s.queue fn q) → (v + qSize (s.queue fn q) - (s.queue fn q).head) % qSize (s.queue fn q)
        ≤ ((s.queue fn q).tail + qSize (s.queue fn q) - (s.queue fn q).head) % qSize (s.queue fn q) →
      Runs (.headDoorbell t fn q v) s (QueueSet fn q { s.queue fn q with index := v, head := v } (advance t s)))
    ∧ (qSize (s.queue fn q) ≤ v →
      Runs (.headDoorbell t fn q v) s (fun u => (u.queue fn q).st = .error ∧ (u.queue fn q).status = 1
        ∧ (u.queue fn q).reason = 10 ∧ (u.queue fn q).head = (s.queue fn q).head
        ∧ counter u 0x4090 3 = satAdd64 (counter s 0x4090 3) 1)))
  ∧ (∀ (t fn q v : Nat) (s : State), queueThere s fn q = true → (s.queue fn q).st.live = true →
    (isProducer (qKind (s.queue fn q)) = true → Runs (.headDoorbell t fn q v) s (fun u => u = advance t s))
    ∧ (isProducer (qKind (s.queue fn q)) = false → Runs (.tailDoorbell t fn q v) s (fun u => u = advance t s)))

/-- 11 R365, R366, R368, R369, R374, R376, R378, R382, R384, R389, 09 R307: the queue whose turn it is fetches its
entries in ring order, at once or by a read on a free tag; a TX entry out of chain order stops the queue; a done
chain moves the head and writes its completion where one is due; held completions are written once there is room,
and a queue that resumes acts on the doorbell kept for it; moderated interrupts leave when their time is up.
Readings the model took: log entries 49, 61, 62, 67. -/
def Obligations.QueueEngine : Prop :=
  (∀ (t fn q : Nat) (e : Bytes) (s s1 : State), Canonical s → fetchTurn (advance t s) = some (fn, q) →
    1 ≤ fetchable (s.queue fn q) →
    readRefused (advance t s) fn q [(qBase (s.queue fn q) + 32 * (s.queue fn q).fetched, 32)] = false →
    readNow (queueReq (advance t s) fn q) [(qBase (s.queue fn q) + 32 * (s.queue fn q).fetched, 32)] (advance t s) = some s1 →
    e.length = 32 → (s.queue fn q).partialChain = [] → (s.queue fn q).fetched < qSize (s.queue fn q) →
    (qKind (s.queue fn q) = kTX → eFirst e = true → eLast e = true → chainBad (advance t s) fn kTX [e] = none →
      Runs (.entryFetch t fn q 1 (some [e])) s (fun u => u.queue fn q = { s.queue fn q with
            fetched := ((s.queue fn q).fetched + 1) % qSize (s.queue fn q), partialChain := []
            chains := (s.queue fn q).chains ++ [{ first := (s.queue fn q).fetched, entries := [e], started := false
                                                  finished := false, status := 0, result := 0 }] }
        ∧ (∀ g p, qKey g p ≠ qKey fn q → u.queue g p = s.queue g p)
        ∧ u.wq.lastFn = fn ∧ Tab.get 1024 u.wq.turns fn = q
        ∧ SignalsOnly { s1 with wq := u.wq } u))
    ∧ (qKind (s.queue fn q) ≠ kRX → eFirst e = false →
      Runs (.entryFetch t fn q 1 (some [e])) s (fun u => (u.queue fn q).st = .error ∧ (u.queue fn q).status = 1
        ∧ (u.queue fn q).reason ≤ 3 ∧ (u.queue fn q).errIdx = (s.queue fn q).fetched
        ∧ counter u 0x4090 1 = satAdd64 (counter s 0x4090 1) 1)))
  ∧ (∀ (t fn q count tag addr : Nat) (s : State), Canonical s → fetchTurn (advance t s) = some (fn, q) →
    1 ≤ count → count ≤ 32 → count ≤ fetchable (s.queue fn q) →
    (qKind (s.queue fn q) = kJOURNAL → count ≤ journalRoom (advance t s) (s.queue fn q)) →
    addr = qBase (s.queue fn q) + 32 * (s.queue fn q).fetched → readCuts s fn [(addr, 32 * count)] = [(addr, 32 * count)] →
    32 * count ≤ readLimit s fn → readRefused (advance t s) fn q [(addr, 32 * count)] = false →
    takeTag s fn = some tag → (∀ r ∈ s.ep.reads, r.st ≠ .waiting) →
    (∀ r ∈ s.ep.reads, r.isFor (queueReq s fn q) (.entries count) = false) →
    Runs (.entryFetch t fn q count none) s (fun u => u.queue fn q = { s.queue fn q with reading := true }
      ∧ u.ep.reads = s.ep.reads ++ [{
          who := queueReq s fn q, what := .entries count, part := 0, addr := addr, len := 32 * count
          translated := (translate s (queueReq s fn q) addr).2, st := .out tag (advance t s).clock, dropped := false }]
      ∧ .dmaRead fn tag (translate s (queueReq s fn q) addr).1 (32 * count) (pasidSent s (queueReq s fn q))
          (translate s (queueReq s fn q) addr).2 (s.func fn).relaxed ∈ u.out))
  ∧ (∀ (t fn q count : Nat) (l : Option (List Bytes)) (s : State), fetchTurn (advance t s) ≠ some (fn, q) →
    Runs (.entryFetch t fn q count l) s (fun u => u = advance t s))
  ∧ (∀ (t fn q : Nat) (c : Chain) (s : State), Canonical s → fnRuns s fn = true → (s.queue fn q).chains = [c] →
    c.finished = true → c.entries ≠ [] → c.status = 0 → eCqReq (chainLast c) = false → (s.queue fn q).st = .enabled →
    Runs (.chainDone t fn q) s (fun u => u = (advance t s).setQueue fn q { s.queue fn q with
      chains := [], head := (chainLastIdx (s.queue fn q) c + 1) % qSize (s.queue fn q), doneTag := eTag (chainLast c) }))
  ∧ (∀ (t fn q : Nat) (c : Chain) (y : Queue) (s : State), Canonical s → fnRuns s fn = true → (s.queue fn q).chains = [c] →
    c.finished = true → c.entries ≠ [] → eCqReq (chainLast c) = true → (s.queue fn q).st = .enabled →
    (s.queue fn q).waiting = [] → qMirrorOnly (s.queue fn q) = false → qCq (s.queue fn q) ≠ q → qCq (s.queue fn q) < 1024 →
    q < 1024 → y = s.queue fn (qCq (s.queue fn q)) → y.st = .enabled → ringFull y = false → qIrqEnable y = false →
    cqRefused s fn q = false →
    Runs (.chainDone t fn q) s (fun u => (u.queue fn q).chains = []
      ∧ (u.queue fn q).head = (chainLastIdx (s.queue fn q) c + 1) % qSize (s.queue fn q)
      ∧ u.queue fn (qCq (s.queue fn q)) = advanceTail y
      ∧ Writes s fn (qCq (s.queue fn q)) (qBase y + 16 * y.tail)
          (completionBytes (phaseBit y) c.status q (eTag (chainLast c)) (chainLastIdx (s.queue fn q) c)
            (coveredCount (s.queue fn q) (chainLastIdx (s.queue fn q) c)) c.result) u))
  ∧ (∀ (t fn q : Nat) (s : State), fnRuns s fn = false → Runs (.chainDone t fn q) s (fun u => u = advance t s)
    ∧ Runs (.heldRelease t fn q) s (fun u => u = advance t s))
  ∧ (∀ (t fn q : Nat) (s : State), Canonical s → fnRuns s fn = true → lowerWaits s fn q = false →
    (s.queue fn q).waiting = [] → (s.queue fn q).st = .held → (s.queue fn q).journalHold = false →
    ((s.queue fn q).bell = none →
      Runs (.heldRelease t fn q) s (QueueSet fn q { s.queue fn q with st := .enabled } (advance t s)))
    ∧ (∀ i, (s.queue fn q).bell = some i → isProducer (qKind (s.queue fn q)) = true → i < qSize (s.queue fn q) →
      (i + qSize (s.queue fn q) - (s.queue fn q).tail) % qSize (s.queue fn q) ≤ qSize (s.queue fn q) - 1
        - ((s.queue fn q).tail + qSize (s.queue fn q) - (s.queue fn q).head) % qSize (s.queue fn q) →
      Runs (.heldRelease t fn q) s (QueueSet fn q { s.queue fn q with st := .enabled, bell := none, tail := i }
        (advance t s))))
  ∧ (∀ (t fn q : Nat) (c : Cpl) (y : Queue) (s : State), Canonical s → fnRuns s fn = true → lowerWaits s fn q = false →
    (s.queue fn q).waiting = [c] → (s.queue fn q).st = .error → qCq (s.queue fn q) ≠ q → qCq (s.queue fn q) < 1024 →
    q < 1024 → y = s.queue fn (qCq (s.queue fn q)) → y.st = .enabled → ringFull y = false → qIrqEnable y = false →
    cqRefused s fn q = false →
    Runs (.heldRelease t fn q) s (fun u => (u.queue fn q).waiting = [] ∧ (u.queue fn q).st = .error
      ∧ u.queue fn (qCq (s.queue fn q)) = advanceTail y
      ∧ Writes s fn (qCq (s.queue fn q)) (qBase y + 16 * y.tail)
          (completionBytes (phaseBit y) c.status q c.tag c.index (cplCount (s.queue fn q) c) c.result) u))
  ∧ (∀ (t fn q : Nat) (s : State), lowerWaits s fn q = true → Runs (.heldRelease t fn q) s (fun u => u = advance t s))
  ∧ (∀ (t t0 fn q : Nat) (s : State), Canonical s → (s.queue fn q).irqAt = some t0 →
    t0 + qModTime (s.queue fn q) * 10 ^ 9 ≤ t →
    Runs (.modTimeExpiry t fn q) s (fun u => u.queue fn q = { s.queue fn q with irqCount := 0, irqAt := none }
      ∧ (∀ g p, qKey g p ≠ qKey fn q → u.queue g p = s.queue g p)
      ∧ ((s.func fn).msixEnable = true → msixOpen (advance t s) fn (qVector (s.queue fn q)) = true →
          .msix fn (qVector (s.queue fn q)) ∈ u.out)
      ∧ SignalsOnly { advance t s with wq := u.wq } u))
  ∧ (∀ (t fn q : Nat) (s : State), (∀ t0, (s.queue fn q).irqAt = some t0 → t < t0 + qModTime (s.queue fn q) * 10 ^ 9) →
    Runs (.modTimeExpiry t fn q) s (fun u => u = advance t s))

/-- 11 R366, R370, R371, 08 R285, 01 R26: a transmit chain is gathered, at once or by reads on tags, and waits for
the scheduler of its port's die, or ends with RANGE where its length is not allowed; receive buffers are posted in
order; a frame fills the oldest buffers, with a receive result over each entry; one that must cross a Culvert that
is down, or whose cells have a fault, is lost, and one without buffers waits. Readings the model took: log entries
75, 99. -/
def Obligations.HostFrames : Prop :=
  (∀ (t fn q : Nat) (ch : Chain) (segs : List (Nat × Nat)) (s : State), Canonical s → txChain s fn q = some ch →
    segs = ch.entries.map (fun e => (eAddr e, eLength e)) → 60 ≤ (ch.entries.map eLength).sum →
    (ch.entries.map eLength).sum + 4 ≤ maxFrameSize s (txPort (ch.entries.headD [])) →
    portMode s (txPort (ch.entries.headD [])) ≠ 0 →
    (∀ (h b : Bytes) (s1 : State), HostBytes (advance t s) fn q segs h b s1 →
      Runs (.txFrame t fn q (some h)) s (fun u =>
        (u.htx (dieOf (txPort (ch.entries.headD [])))).frames = (s.htx (dieOf (txPort (ch.entries.headD [])))).frames
          ++ [{ fn := fn, q := q, idx := ch.first, die := dieOf (txPort (ch.entries.headD []))
                port := txPort (ch.entries.headD []), tc := txTc (ch.entries.headD [])
                tsreq := txTsreq (ch.entries.headD []), bytes := b }]
        ∧ u.queue fn q = { s.queue fn q with chains := startChain (s.queue fn q) ch.first }
        ∧ (∀ g p, qKey g p ≠ qKey fn q → u.queue g p = s.queue g p) ∧ u.buf = s.buf ∧ u.ports = s.ports))
    ∧ (readRefused s fn q segs = false → hostLen segs ≠ 0 → fnRuns s fn = true →
      Runs (.txFrame t fn q none) s (fun u =>
        u = startReads (queueReq s fn q) (.data ch.first) segs (advance t s) ∧ u.wq = s.wq ∧ u.sched = s.sched)))
  ∧ (∀ (t fn q : Nat) (ch : Chain) (f : Option Bytes) (s : State), Canonical s → txChain s fn q = some ch →
    (ch.entries.map eLength).sum < 60
      ∨ maxFrameSize s (txPort (ch.entries.headD [])) < (ch.entries.map eLength).sum + 4
      ∨ portMode s (txPort (ch.entries.headD [])) = 0 → 4 ≤ maxFrameSize s (txPort (ch.entries.headD [])) →
    Runs (.txFrame t fn q f) s (QueueSet fn q { s.queue fn q with
      chains := endChain (s.queue fn q) ch.first stRANGE 0 } (advance t s)))
  ∧ (∀ (t fn q : Nat) (ch : Chain) (s : State), Canonical s → qKind (s.queue fn q) = kRX →
    (s.queue fn q).st.live = true → nextChain (s.queue fn q) 2 = some ch →
    Runs (.rxBuf t fn q) s (QueueSet fn q { s.queue fn q with
      chains := startChain (s.queue fn q) ch.first
      posted := (s.queue fn q).posted ++ [(ch.first, ch.entries.headD [])] } (advance t s)))
  ∧ (∀ (t fn q : Nat) (s : State), qKind (s.queue fn q) ≠ kRX ∨ (s.queue fn q).st.live = false
      ∨ nextChain (s.queue fn q) 2 = none → Runs (.rxBuf t fn q) s (fun u => u = advance t s))
  ∧ (∀ (t fn q idx : Nat) (fault : BufFault) (e : Bytes) (post : List (Nat × Bytes)) (h : HFrame) (rest : List HFrame)
    (s : State), Canonical s → Tab.wf [] s.buf.hostQ = true → hostFrames s fn q = h :: rest → qKind (s.queue fn q) = kRX →
    (s.queue fn q).st = .enabled → fnRuns s fn = true → (s.queue fn q).posted = (idx, e) :: post → h.bytes ≠ [] →
    h.bytes.length ≤ eLength e →
    (deliveryCut s h = false → (deliveryFault h fault (advance t s)).1 = false →
      requestRefused s fn q (eAddr e) h.bytes.length = false → isDdr (eAddr e) = false →
      requestRefused s fn q (qBase (s.queue fn q) + 32 * idx) 32 = false → isDdr (qBase (s.queue fn q) + 32 * idx) = false →
      Runs (.rxDeliver t fn ⟨q, fault⟩) s (fun u => hostFrames u fn q = rest ∧ (u.queue fn q).posted = post
        ∧ Writes s fn q (eAddr e) h.bytes u
        ∧ Writes s fn q (qBase (s.queue fn q) + 32 * idx) (rxResult h true true h.bytes.length (eTag e)) u
        ∧ (u.queue fn q).chains = endChain (s.queue fn q) idx 0 0
        ∧ (u.queue fn q).st = .enabled ∧ u.polders = s.polders))
    ∧ (deliveryCut s h = true ∨ (deliveryFault h fault (advance t s)).1 = true →
      Runs (.rxDeliver t fn ⟨q, fault⟩) s (fun u => hostFrames u fn q = rest
        ∧ (u.queue fn q).posted = (s.queue fn q).posted ∧ (u.queue fn q).chains = (s.queue fn q).chains)))
  ∧ (∀ (t fn q : Nat) (fault : BufFault) (h : HFrame) (rest : List HFrame) (s : State), Canonical s →
    Tab.wf [] s.buf.hostQ = true → hostFrames s fn q = h :: rest → qKind (s.queue fn q) = kRX →
    (s.queue fn q).st = .enabled → fnRuns s fn = true → takeBuffers (s.queue fn q).posted h.bytes.length = none →
    (h.place ≠ .notice → Runs (.rxDeliver t fn ⟨q, fault⟩) s (fun u => u = advance t s))
    ∧ (h.place = .notice → Runs (.rxDeliver t fn ⟨q, fault⟩) s (fun u => hostFrames u fn q = rest
      ∧ (u.queue fn q).dropped = satAdd16 (s.queue fn q).dropped 1
      ∧ counter u 0x2A03 0xA = satAdd64 (counter s 0x2A03 0xA) 1)))
  ∧ (∀ (t fn q : Nat) (fault : BufFault) (s : State), hostFrames s fn q = [] →
    Runs (.rxDeliver t fn ⟨q, fault⟩) s (fun u => u = advance t s))

/-- 12 R395, R405 to R411: an entry becomes a waiting message; a free core takes the message whose turn it is with its
key, or the message ends with the status its start gives; the end of a message frees its core, counts it, writes its
output and tag, and a tag that does not match ends it with AUTH_FAIL; a core that fails leaves service.
Readings the model took: log entries 11, 31. -/
def Obligations.CipherMessages : Prop :=
  TakesMessage .gcmEncrypt 0x10 ∧ TakesMessage .gcmDecrypt 0x11 ∧ TakesMessage .gmacGenerate 0x12
  ∧ TakesMessage .gmacVerify 0x13 ∧ TakesMessage .ctr 0x14 ∧ TakesMessage .xtsEncrypt 0x15
  ∧ TakesMessage .xtsDecrypt 0x16
  ∧ (∀ (t k : Nat) (m : CMsg) (byF : Bool) (s : State), freeCore s.cipher = some k → dispatchPick s = some (m, byF) →
    startStatus s m = none →
    Runs (.cipherDispatch t) s (fun u => coreAt u.cipher k = { out := false, msg := some { m with key := startKey s m } }
      ∧ (∀ j, j ≠ k → coreAt u.cipher j = coreAt s.cipher j)
      ∧ u.cipher.waiting = s.cipher.waiting.erase m
      ∧ u.cipher.holdUsed = s.cipher.holdUsed + (if isHeld m then msgP m else 0)
      ∧ u.cipher.slots = s.cipher.slots ∧ u = { advance t s with cipher := u.cipher }))
  ∧ (∀ (t k n st : Nat) (m : CMsg) (byF : Bool) (s : State), Canonical s → freeCore s.cipher = some k →
    dispatchPick s = some (m, byF) → m.user = .polder n → startStatus s m = some st →
    Runs (.cipherDispatch t) s (fun u => u.cipher.cores = s.cipher.cores
      ∧ u.cipher.waiting = s.cipher.waiting.erase m
      ∧ u.queue n m.q = { s.queue n m.q with chains := endChain (s.queue n m.q) m.ref st 0 }
      ∧ u = { advance t s with cipher := u.cipher, wq := u.wq }))
  ∧ (∀ (t : Nat) (s : State), freeCore s.cipher = none ∨ dispatchPick s = none →
    Runs (.cipherDispatch t) s (fun u => u = advance t s))
  ∧ (∀ (t k n : Nat) (m : CMsg) (ch : Chain) (s : State), Canonical s → (coreAt s.cipher k).msg = some m →
    m.user = .polder n → fnRuns s n = true → m.op = 0x13 → chainAt (s.queue n m.q) m.ref = some ch → ch.entries.length = 1 →
    Runs (.cipherMessageDone t k) s (fun u => (coreAt u.cipher k).msg = none
      ∧ (coreAt u.cipher k).out = (coreAt s.cipher k).out
      ∧ counter u 0x4101 2 = satAdd64 (counter s 0x4101 2) 1
      ∧ counter u 0x4101 3 = (if m.source = [] then counter s 0x4101 3 else
          satAdd64 (counter s 0x4101 3) m.source.length)
      ∧ ((Config.gcmEncrypt m.key (m.params.take 12) m.source []).2 = slice m.params 16 16 →
          u.queue n m.q = { s.queue n m.q with chains := endChain (s.queue n m.q) m.ref 0 0 }
          ∧ counter u 0x4101 4 = counter s 0x4101 4)
      ∧ ((Config.gcmEncrypt m.key (m.params.take 12) m.source []).2 ≠ slice m.params 16 16 →
          u.queue n m.q = { s.queue n m.q with chains := endChain (s.queue n m.q) m.ref 3 0 }
          ∧ counter u 0x4101 4 = satAdd64 (counter s 0x4101 4) 1)))
  ∧ (∀ (t k n : Nat) (m : CMsg) (hd d : Bytes) (r : Bytes × Bytes) (ch : Chain) (s : State), Canonical s →
    (coreAt s.cipher k).msg = some m → m.user = .polder n → fnRuns s n = true → m.op = 0x10 → m.aad = 0 →
    chainAt (s.queue n m.q) m.ref = some ch → ch.entries = [hd, d] → eOpcode hd = 0x10 → cAadLen hd = 0 →
    r = Config.gcmEncrypt m.key (m.params.take 12) [] m.source →
    requestRefused s n m.q (cDest d) (r.1.take (eLength d)).length = false → isDdr (cDest d) = false →
    requestRefused s n m.q (eAddr hd + 16) r.2.length = false → isDdr (eAddr hd + 16) = false →
    Runs (.cipherMessageDone t k) s (fun u => (coreAt u.cipher k).msg = none
      ∧ Writes s n m.q (cDest d) (r.1.take (eLength d)) u ∧ Writes s n m.q (eAddr hd + 16) r.2 u
      ∧ u.queue n m.q = { s.queue n m.q with chains := endChain (s.queue n m.q) m.ref 0 0 }))
  ∧ (∀ (t k n : Nat) (m : CMsg) (hd d r : Bytes) (ch : Chain) (s : State), Canonical s →
    (coreAt s.cipher k).msg = some m → m.user = .polder n → fnRuns s n = true → m.aad = 0 →
    chainAt (s.queue n m.q) m.ref = some ch → ch.entries = [hd, d] → eOpcode hd = m.op →
    (m.op = 0x14 ∧ r = Config.aesCtr m.key (m.params.take 16) m.source)
      ∨ (m.op = 0x15 ∧ r = Config.xtsEncrypt m.key (m.params.take 16) m.source)
      ∨ (m.op = 0x16 ∧ r = Config.xtsDecrypt m.key (m.params.take 16) m.source) →
    requestRefused s n m.q (cDest d) (r.take (eLength d)).length = false → isDdr (cDest d) = false →
    Runs (.cipherMessageDone t k) s (fun u => (coreAt u.cipher k).msg = none
      ∧ Writes s n m.q (cDest d) (r.take (eLength d)) u
      ∧ u.queue n m.q = { s.queue n m.q with chains := endChain (s.queue n m.q) m.ref 0 0 }))
  ∧ (∀ (t k n : Nat) (m : CMsg) (s : State), (coreAt s.cipher k).msg = some m → m.user = .polder n →
    fnRuns s n = false → Runs (.cipherMessageDone t k) s (fun u => u = advance t s))
  ∧ (∀ (t k : Nat) (s : State), (coreAt s.cipher k).msg = none →
    Runs (.cipherMessageDone t k) s (fun u => u = advance t s))
  ∧ (∀ (t k : Nat) (s : State), Canonical s → k < 256 → (coreAt s.cipher k).out = false →
    Runs (.cipherCoreFault t k) s (fun u => coreAt u.cipher k = { out := true, msg := none }
      ∧ counter u 0x4101 6 = satAdd64 (counter s 0x4101 6) 1 ∧ (evtStat u 9).testBit 1 = true
      ∧ (∀ m, (coreAt s.cipher k).msg = some m → m.restarted = false →
          u.cipher.waiting = s.cipher.waiting ++ [{ m with restarted := true }])
      ∧ (∀ m n, (coreAt s.cipher k).msg = some m → m.restarted = true → m.user = .polder n →
          u.queue n m.q = { s.queue n m.q with chains := endChain (s.queue n m.q) m.ref stNO_RESOURCE 0 })))

/-- 12 R398, R401 to R403: UNWRAP loads the key of a blob that passes its checks into a slot, and otherwise ends
with the status of the check that fails and counts it; WRAP writes the blob of a key and no slot; SLOT_CLEAR empties
a slot that no user holds. Readings the model took: log entries 11, 98. -/
def Obligations.KeySlots : Prop :=
  (∀ (t fn q : Nat) (blob d : Bytes) (ch : Chain) (s s1 : State), Canonical s → cipherChain s fn q 0x18 = some ch →
    HostBytes (advance t s) fn q [(eAddr (ch.entries.headD []), eLength (ch.entries.headD []))] blob d s1 →
    Runs (.unwrap t fn q (some blob)) s (fun u =>
      (∀ (x : Blob) (l g : Nat), openBlob s fn d = .ok x → blobSlot s fn x = .ok l → globalOf s fn 2 l = some g →
        u.keySlot g = { alg := x.alg, usage := x.usage, key := x.key, users := (s.keySlot g).users }
        ∧ (∀ j, j ≠ g → u.keySlot j = s.keySlot j)
        ∧ u.queue fn q = { s.queue fn q with chains := endChain (s.queue fn q) ch.first 0 l })
      ∧ (∀ st : Nat, openBlob s fn d = .error st →
        u.cipher = s.cipher ∧ counter u 0x4101 5 = satAdd64 (counter s 0x4101 5) 1
        ∧ (st = 3 → (evtStat u 9).testBit 0 = true)
        ∧ u.queue fn q = { s.queue fn q with chains := endChain (s.queue fn q) ch.first st 0 })
      ∧ (∀ (x : Blob) (st : Nat), openBlob s fn d = .ok x → blobSlot s fn x = .error st →
        u.cipher = s.cipher ∧ counter u 0x4101 5 = satAdd64 (counter s 0x4101 5) 1
        ∧ u.queue fn q = { s.queue fn q with chains := endChain (s.queue fn q) ch.first st 0 })))
  ∧ (∀ (fn : Nat) (b : Bytes) (s : State), (byteAt b 0 ≠ 1 → openBlob s fn b = .error 0xC)
      ∧ (byteAt b 0 = 1 → byteAt b 1 = 2 → b.length = 56 → beField b 2 2 < 32 → beField b 6 2 ≠ fn →
          openBlob s fn b = .error 2)
      ∧ (byteAt b 0 = 1 → byteAt b 1 = 2 → b.length = 56 → beField b 2 2 < 32 → beField b 6 2 = fn →
          beField b 8 4 ≠ (s.polder fn).gen → openBlob s fn b = .error 0xD)
      ∧ (byteAt b 0 = 1 → byteAt b 1 = 2 → b.length = 56 → beField b 2 2 < 32 → beField b 6 2 = fn →
          beField b 8 4 = (s.polder fn).gen →
          openBlob s fn b = .error 3 ∨ (Config.kwpUnwrap (kekOf s fn (s.polder fn).gen) (b.drop 16)).isSome = true))
  ∧ (∀ (t fn q : Nat) (key d b : Bytes) (ch : Chain) (s s1 : State), Canonical s → cipherChain s fn q 0x19 = some ch →
    HostBytes (advance t s) fn q [(eAddr (ch.entries.headD []), eLength (ch.entries.headD []))] key d s1 →
    b = wrapBlob s fn (leField (ch.entries.headD []) 24 2) (byteAt (ch.entries.headD []) 26)
      (leField (ch.entries.headD []) 28 2) d →
    requestRefused s fn q (cDest (ch.entries.headD [])) b.length = false → isDdr (cDest (ch.entries.headD [])) = false →
    Runs (.wrap t fn q (some key)) s (fun u => u.cipher = s.cipher
      ∧ Writes s fn q (cDest (ch.entries.headD [])) b u
      ∧ u.queue fn q = { s.queue fn q with chains := endChain (s.queue fn q) ch.first 0 b.length }))
  ∧ (∀ (t fn q : Nat) (ch : Chain) (s : State), Canonical s → fnRuns s fn = true →
    readRefused s fn q [(eAddr (ch.entries.headD []), eLength (ch.entries.headD []))] = false →
    hostLen [(eAddr (ch.entries.headD []), eLength (ch.entries.headD []))] ≠ 0 →
    (cipherChain s fn q 0x18 = some ch → Runs (.unwrap t fn q none) s (fun u =>
      u = startReads (queueReq s fn q) (.data ch.first) [(eAddr (ch.entries.headD []), eLength (ch.entries.headD []))]
        (advance t s) ∧ u.cipher = s.cipher ∧ u.wq = s.wq))
    ∧ (cipherChain s fn q 0x19 = some ch → Runs (.wrap t fn q none) s (fun u =>
      u = startReads (queueReq s fn q) (.data ch.first) [(eAddr (ch.entries.headD []), eLength (ch.entries.headD []))]
        (advance t s) ∧ u.cipher = s.cipher ∧ u.wq = s.wq)))
  ∧ (∀ (fn slot alg usage : Nat) (key : Bytes) (s : State), alg < 256 → usage < 65536 → slot < 65536 → fn < 65536 →
    byteAt (wrapBlob s fn slot alg usage key) 0 = 1 ∧ byteAt (wrapBlob s fn slot alg usage key) 1 = alg
      ∧ beField (wrapBlob s fn slot alg usage key) 2 2 = usage ∧ beField (wrapBlob s fn slot alg usage key) 4 2 = slot
      ∧ beField (wrapBlob s fn slot alg usage key) 6 2 = fn)
  ∧ (∀ (t fn q g : Nat) (ch : Chain) (s : State), Canonical s → cipherChain s fn q 0x1A = some ch →
    globalOf s fn 2 (cSlot (ch.entries.headD [])) = some g → (s.keySlot g).users = 0 →
    Runs (.slotClear t fn q) s (fun u => u.keySlot g = KeySlot.reset ∧ (∀ j, j ≠ g → u.keySlot j = s.keySlot j)
      ∧ u.queue fn q = { s.queue fn q with chains := endChain (s.queue fn q) ch.first 0 0 }
      ∧ u = { advance t s with cipher := u.cipher, wq := u.wq }))
  ∧ (∀ (t fn q g : Nat) (ch : Chain) (s : State), Canonical s → cipherChain s fn q 0x1A = some ch →
    globalOf s fn 2 (cSlot (ch.entries.headD [])) = some g → (s.keySlot g).users ≠ 0 →
    Runs (.slotClear t fn q) s (QueueSet fn q { s.queue fn q with
      chains := endChain (s.queue fn q) ch.first stSTATE 0 } (advance t s)))

/-- 13 R428, R429, R432 to R439, R444, R451, R452: the entries of SIPHON queues. WRITE, WRITE_IMM, READ and
JCMD_SEND become messages; RECV_NOTIFY meets a held notification or is posted; CHANNEL_MODIFY goes through the
states; CHANNEL_QUERY writes the record; a region is registered under a new key, and its revoke ends at the fence.
Every other channel, region and queue stays as it was. Readings the model took: log entries 42, 43, 93, 124. -/
def Obligations.SiphonEntries : Prop :=
  SubmitsMessage .siphonWrite 0x20 1 ∧ SubmitsMessage .siphonWriteImm 0x21 2 ∧ SubmitsMessage .siphonRead 0x22 3
  ∧ (∀ (t fn q g : Nat) (host d : Bytes) (ch : Chain) (s s1 : State), Canonical s →
    SiphonEntry (advance t s) fn q 0x23 64 host d ch s1 → chanOf s fn (sChan (ch.entries.headD [])) = some g →
    chRuns (s.channel g).state = true → sDataLen (ch.entries.headD []) = 0 →
    Runs (.jcmdSend t fn q (some host)) s (fun u =>
      u.channel g = { s.channel g with
        nextMsg := ((s.channel g).nextMsg + 1) % 2 ^ 32
        msgs := (s.channel g).msgs ++ [{ SMsg.blank with
          id := (s.channel g).nextMsg, op := 8, len := 64, total := 64, body := d, owner := some (fn, q, ch.first) }] }
      ∧ (∀ j, j ≠ g → u.channel j = s.channel j)
      ∧ u.queue fn q = { s.queue fn q with chains := startChain (s.queue fn q) ch.first } ∧ OtherQueues fn q s u
      ∧ SignalsOnly { s1 with siphon := u.siphon, wq := u.wq } u))
  ∧ (∀ (e : (Nat → Nat → Nat → Option Bytes → Instr) × Nat × Nat),
    e ∈ [(.siphonWrite, 0x20, 32), (.siphonWriteImm, 0x21, 32), (.siphonRead, 0x22, 32), (.jcmdSend, 0x23, 64),
         (.channelModify, 0x28, 128), (.regionRegister, 0x2A, 32)] →
    ∀ (t fn q : Nat) (ch : Chain) (s : State), siphonChain s fn q e.2.1 = some ch →
      readRefused s fn q [(eAddr (ch.entries.headD []), e.2.2)] = false → isDdr (eAddr (ch.entries.headD [])) = false →
      fnRuns s fn = true →
      Runs (e.1 t fn q none) s (fun u =>
        u = startReads (queueReq s fn q) (.data ch.first) [(eAddr (ch.entries.headD []), e.2.2)] (advance t s)))
  ∧ (∀ (t fn q g : Nat) (ch : Chain) (s : State), Canonical s → siphonChain s fn q 0x24 = some ch →
    chanOf s fn (sChan (ch.entries.headD [])) = some g → chRuns (s.channel g).state = true →
    Runs (.recvNotify t fn q) s (fun u => u = { advance t s with siphon := u.siphon, wq := u.wq }
      ∧ (∀ j, j ≠ g → u.channel j = s.channel j)
      ∧ ((s.channel g).notes = [] →
          u.channel g = { s.channel g with recvs := (s.channel g).recvs ++ [(fn, q, ch.first)] }
          ∧ u.queue fn q = { s.queue fn q with chains := startChain (s.queue fn q) ch.first })
      ∧ (∀ v vs, (s.channel g).notes = v :: vs → (s.channel g).recvs = [] →
          u.channel g = { s.channel g with notes := vs } ∧ EndsChain fn q ch.first 0 v s u)))
  ∧ (∀ (t fn q g : Nat) (host d : Bytes) (ch : Chain) (s s1 : State), Canonical s →
    SiphonEntry (advance t s) fn q 0x28 128 host d ch s1 → chanOf s fn (sChan (ch.entries.headD [])) = some g →
    (s.channel g).msgs = [] → (s.channel g).recvs = [] → chEnc (s.channel g) = false → (byteAt d 1).testBit 1 = false →
    Runs (.channelModify t fn q (some host)) s (fun u =>
      ((s.channel g).state = 0 ∧ byteAt d 0 = 1 ∧ recordBad s fn d = false →
        u.channel g = chInit s t fn (sChan (ch.entries.headD [])) d ∧ EndsChain fn q ch.first 0 1 s u)
      ∧ ((s.channel g).state = 0 ∧ byteAt d 0 = 1 ∧ recordBad s fn d = true →
        u.siphon = s.siphon ∧ EndsChain fn q ch.first stRANGE 0 s u)
      ∧ (byteAt d 0 = 0 →
        u.channel g = { Channel.reset with fn := (s.channel g).fn, num := (s.channel g).num }
        ∧ EndsChain fn q ch.first 0 0 s u)
      ∧ (byteAt d 0 = 4 ∧ (s.channel g).state ≠ 4 →
        u.channel g = chStop (s.channel g) 4 ∧ counter u 0x4203 0xD = satAdd64 (counter s 0x4203 0xD) 1
        ∧ (evtStat u 9).testBit 4 = true ∧ EndsChain fn q ch.first 0 4 s u)
      ∧ ((s.channel g).state ≠ 0 ∧ byteAt d 0 ≠ 0 ∧ byteAt d 0 ≠ 4 ∧ chMay (s.channel g).state (byteAt d 0) = true →
        u.channel g = { s.channel g with
          state := byteAt d 0, was := (s.channel g).state, changedAt := (advance t s).clock }
        ∧ u.jrn = s.jrn ∧ EndsChain fn q ch.first 0 (byteAt d 0) s u)
      ∧ (chMay (s.channel g).state (byteAt d 0) = false →
        u.siphon = s.siphon ∧ EndsChain fn q ch.first stSTATE 0 s u)
      ∧ (∀ j, j ≠ g → u.channel j = s.channel j) ∧ OtherQueues fn q s u ∧ u.siphon.regions = s.siphon.regions))
  ∧ (∀ (t fn q g : Nat) (ch : Chain) (s : State), Canonical s → siphonChain s fn q 0x29 = some ch →
    chanOf s fn (sChan (ch.entries.headD [])) = some g →
    requestRefused s fn q (eAddr (ch.entries.headD [])) 128 = false → isDdr (eAddr (ch.entries.headD [])) = false →
    Runs (.channelQuery t fn q) s (fun u => u.siphon = s.siphon ∧ EndsChain fn q ch.first 0 g s u ∧ OtherQueues fn q s u
      ∧ Writes s fn q (eAddr (ch.entries.headD []))
          (splice (padTo 128 (s.channel g).record) 0 [byteOf (s.channel g).state]) u))
  ∧ (∀ (t fn q g : Nat) (host d : Bytes) (ch : Chain) (s s1 : State), Canonical s →
    SiphonEntry (advance t s) fn q 0x2A 32 host d ch s1 → regionOf s fn (sRegion (ch.entries.headD [])) = some g →
    leField d 16 2 < (s.polder fn).counts.domains → registerStatus s fn (sRegion (ch.entries.headD [])) d = 0 →
    Runs (.regionRegister t fn q (some host)) s (fun u =>
      u.region g = { s.region g with
        valid := true, fn := fn, num := sRegion (ch.entries.headD []), base := leField d 0 8, len := leField d 8 8
        domain := leField d 16 2, rights := byteAt d 18
        pasid := if qPasidValid (s.queue fn q) then some (qPasid (s.queue fn q)) else none
        count := nextRegCount g (s.region g).count }
      ∧ (∀ j, j ≠ g → u.region j = s.region j) ∧ u.siphon.channels = s.siphon.channels ∧ OtherQueues fn q s u
      ∧ EndsChain fn q ch.first 0 (regionKey g (u.region g)) s u))
  ∧ (∀ (t fn q : Nat) (host d : Bytes) (ch : Chain) (s s1 : State), Canonical s →
    SiphonEntry (advance t s) fn q 0x2A 32 host d ch s1 → leField d 16 2 < (s.polder fn).counts.domains →
    registerStatus s fn (sRegion (ch.entries.headD [])) d ≠ 0 →
    Runs (.regionRegister t fn q (some host)) s (fun u => u.siphon = s.siphon ∧ OtherQueues fn q s u
      ∧ EndsChain fn q ch.first (registerStatus s fn (sRegion (ch.entries.headD [])) d) 0 s u))
  ∧ (∀ (t fn q : Nat) (host d : Bytes) (ch : Chain) (s s1 : State), Canonical s →
    SiphonEntry (advance t s) fn q 0x2A 32 host d ch s1 → (s.polder fn).counts.domains ≤ leField d 16 2 →
    (s.queue fn q).st = .enabled →
    Runs (.regionRegister t fn q (some host)) s (fun u => u.siphon = s.siphon
      ∧ (u.queue fn q).st = .error ∧ (u.queue fn q).status = stMALFORMED ∧ (u.queue fn q).reason = 8
      ∧ (u.queue fn q).errIdx = ch.first))
  ∧ (∀ (t fn q g : Nat) (ch : Chain) (s : State), Canonical s → siphonChain s fn q 0x2B = some ch →
    regionOf s fn (sRegion (ch.entries.headD [])) = some g →
    Runs (.regionRevoke t fn q) s (fun u => (∀ j, j ≠ g → u.region j = s.region j)
      ∧ u = { advance t s with siphon := u.siphon, wq := u.wq } ∧ OtherQueues fn q s u
      ∧ ((s.region g).valid = true →
        u.region g = { s.region g with valid := false, revoking := true, epoch := (s.region g).epoch + 1 }
        ∧ u.queue fn q = { s.queue fn q with chains := startChain (s.queue fn q) ch.first })
      ∧ ((s.region g).valid = false → u.region g = s.region g ∧ EndsChain fn q ch.first 0 0 s u)))
  ∧ (∀ (t fn q r g : Nat) (ch : Chain) (s : State), Canonical s → regionOf s fn r = some g →
    (s.queue fn q).chains.find? (fun c => c.started && !c.finished
      && decide (eOpcode (c.entries.headD []) = 0x2B) && decide (sRegion (c.entries.headD []) = r)) = some ch →
    Runs (.revokeFence t fn q r) s (fun u =>
      ((s.region g).revoking = true ∧ revokeQuiet s g = true →
        u.region g = { s.region g with revoking := false } ∧ (∀ j, j ≠ g → u.region j = s.region j)
        ∧ EndsChain fn q ch.first 0 0 s u ∧ OtherQueues fn q s u)
      ∧ (revokeQuiet s g = false → u = advance t s)))

/-- 13 R440, R446 to R448, R450, R453, and 14 R483: sending. A packet marked for retransmission goes before a new
one; an ACK follows its delay; the retransmission timer marks the oldest packet, doubles up to its limit and at last
ends the channel with TIMEOUT; a path comes back for a probe after its hold; a CNP follows its interval; a rate
moves at its step timer; a write capsule gets its next grant, and a grant without its data ends the command with
TIMEOUT. Readings the model took: log entries 40, 93. -/
def Obligations.SiphonPackets : Prop :=
  (∀ (t g i : Nat) (host b : Bytes) (d : Bytes) (p : SPath) (m : SMsg) (s s1 : State), Canonical s →
    chRuns (s.channel g).state = true → (chEnc (s.channel g) = true → farmFree s = true) → (s.channel g).sent = [] →
    (s.channel g).msgs = [m] → sendable (s.channel g) m = true → pickPath s (s.channel g) none t = some (i, p) →
    msgRefused s (s.channel g) m = false → packetBytes g (s.channel g) m (some host) (advance t s) = (some b, s1) →
    nextPayload s (s.channel g) m b = some d →
    Runs (.siphonPacketSend t g (some host)) s (fun u =>
      (∃ k, (u.channel g).sent = [k] ∧ k.psn = (s.channel g).nextPsn ∧ k.op = m.op ∧ k.msg = m.id ∧ k.msgLen = m.len
        ∧ k.off = m.base + m.sent ∧ k.payload = d ∧ k.path = some i ∧ k.resend = false)
      ∧ (u.channel g).msgs = [cutMsg (s.channel g) m d.length]
      ∧ (u.channel g).nextPsn = ((s.channel g).nextPsn + 1) % 2 ^ 32 ∧ (u.channel g).lastPath = i
      ∧ (u.channel g).rtoAt = t ∧ counter u 0x4203 1 = satAdd64 (counter s 0x4203 1) 1
      ∧ (∀ j, j ≠ g → u.channel j = s.channel j) ∧ u.wq = s.wq ∧ u.siphon.regions = s.siphon.regions))
  ∧ (∀ (t g i : Nat) (p : SPath) (m : SMsg) (s : State), Canonical s →
    chRuns (s.channel g).state = true → (chEnc (s.channel g) = true → farmFree s = true) → (s.channel g).sent = [] →
    (s.channel g).msgs = [m] → sendable (s.channel g) m = true → pickPath s (s.channel g) none t = some (i, p) →
    msgRefused s (s.channel g) m = false → needsHost (s.channel g) m = true →
    readsBack s (msgReq s (s.channel g) m) (.packet g m.op m.id (m.base + m.sent)) = none →
    Runs (.siphonPacketSend t g none) s (fun u =>
      u = (packetBytes g (s.channel g) m none (advance t s)).2 ∧ u.siphon = s.siphon ∧ u.wq = s.wq))
  ∧ (∀ (t g j i : Nat) (host : Option Bytes) (k : SPkt) (p0 p : SPath) (s : State), Canonical s →
    chRuns (s.channel g).state = true → (chEnc (s.channel g) = true → farmFree s = true) →
    (s.channel g).sent.find? (·.resend) = some k → k.path = some j →
    (s.channel g).paths[j]? = some p0 → p0.probing = false → p0.losses + 1 < cfgN s 0x4200 9 →
    pickPath s (s.channel g) (some j) t = some (i, p) →
    Runs (.siphonPacketSend t g host) s (fun u =>
      (u.channel g).sent = (s.channel g).sent.map (fun x =>
        if x.psn = k.psn then { k with path := some i, resend := false } else x)
      ∧ (u.channel g).msgs = (s.channel g).msgs ∧ (u.channel g).nextPsn = (s.channel g).nextPsn
      ∧ (u.channel g).lastPath = (s.channel g).lastPath
      ∧ counter u 0x4203 3 = satAdd64 (counter s 0x4203 3) 1 ∧ counter u 0x4203 1 = satAdd64 (counter s 0x4203 1) 1))
  ∧ (∀ (t g : Nat) (host : Option Bytes) (s : State),
    chRuns (s.channel g).state = false ∨ (chEnc (s.channel g) = true ∧ farmFree s = false) →
    Runs (.siphonPacketSend t g host) s (fun u => u = advance t s))
  ∧ (∀ (t g : Nat) (e : Nat × SPath) (s : State), Canonical s → chRuns (s.channel g).state = true →
    (s.channel g).toAck ≠ 0 → lowestUp (s.channel g) = some e → e.2.port < 512 →
    (s.channel g).ctlTx < 0xFFFFFFFE → (chEnc (s.channel g) = true → farmFree s = true) →
    Runs (.siphonAckDelay t g) s (fun u =>
      ((s.channel g).ackSince + cfgN s 0x4200 4 * 10 ^ 9 ≤ t →
        u.channel g = { s.channel g with toAck := 0, ctlTx := (s.channel g).ctlTx + 1 }
        ∧ u.buf.transit.length = s.buf.transit.length + (if culvDown s (hdCulvert (dieOf e.2.port)) then 0 else 1))
      ∧ (t < (s.channel g).ackSince + cfgN s 0x4200 4 * 10 ^ 9 → u = advance t s)))
  ∧ (∀ (t g now : Nat) (k : SPkt) (rest : List SPkt) (s : State), Canonical s → chRuns (s.channel g).state = true →
    (s.channel g).sent = k :: rest → now = max (s.channel g).rto (cfgN s 0x4200 6) →
    Runs (.siphonRtoExpiry t g) s (fun u =>
      (t < (s.channel g).rtoAt + now * 10 ^ 9 → u = advance t s)
      ∧ ((s.channel g).rtoAt + now * 10 ^ 9 ≤ t ∧ (s.channel g).retries + 1 < cfgN s 0x4200 8 →
        u.channel g = { s.channel g with
          sent := { k with resend := true } :: rest, retries := (s.channel g).retries + 1, rtoAt := t
          rto := min (2 * now) (cfgN s 0x4200 7) }
        ∧ u = { advance t s with siphon := u.siphon })
      ∧ ((s.channel g).rtoAt + now * 10 ^ 9 ≤ t ∧ cfgN s 0x4200 8 ≤ (s.channel g).retries + 1 →
        u.channel g = chStop (s.channel g) 4 ∧ counter u 0x4203 0xD = satAdd64 (counter s 0x4203 0xD) 1
        ∧ (evtStat u 9).testBit 4 = true
        ∧ ∀ m o, (s.channel g).msgs = [m] → ownMsg m = true → m.owner = some o → (s.channel g).recvs = [] →
          EndsChain o.1 o.2.1 o.2.2 stTIMEOUT 0 s u)))
  ∧ (∀ (t g i : Nat) (p : SPath) (s : State), Canonical s → (s.channel g).paths[i]? = some p → p.up = false →
    p.probing = false → p.downAt + cfgN s 0x4200 0xA * 10 ^ 12 ≤ t →
    Runs (.siphonPathHold t g i) s (fun u =>
      u.channel g = { s.channel g with paths := (u.channel g).paths }
      ∧ (u.channel g).paths[i]? = some { p with up := true, probing := true }
      ∧ ∀ j, j ≠ i → (u.channel g).paths[j]? = (s.channel g).paths[j]?))
  ∧ (∀ (t g i t0 : Nat) (e : Nat × SPath) (x : RxPath) (s : State), Canonical s → chRuns (s.channel g).state = true →
    cnpDue s (s.channel g) t = true → (s.channel g).rxPaths = [(i, x)] → x.since = some t0 →
    lowestUp (s.channel g) = some e → (s.channel g).ctlTx < 0xFFFFFFFE →
    (chEnc (s.channel g) = true → farmFree s = true) →
    Runs (.siphonCnpInterval t g) s (fun u =>
      u.channel g = { s.channel g with rxPaths := [], lastCnp := some t, ctlTx := (s.channel g).ctlTx + 1 }
      ∧ counter u 0x4203 0xA = satAdd64 (counter s 0x4203 0xA) 1 ∧ ∀ j, j ≠ g → u.channel j = s.channel j))
  ∧ (∀ (t g i : Nat) (p : SPath) (s : State), Canonical s → chRuns (s.channel g).state = true → cfgN s 0x4201 1 = 1 →
    (s.channel g).paths[i]? = some p → p.stepAt + cfgN s 0x4201 5 * 10 ^ 9 ≤ t →
    Runs (.siphonStepTimer t g i) s (fun u => ∃ w, (u.channel g).paths[i]? = some w ∧ w.k = p.k + 1 ∧ w.stepAt = t
      ∧ w.cnpSeen = false ∧ w.port = p.port ∧ w.up = p.up
      ∧ (p.k + 1 ≤ cfgN s 0x4201 6 → w.rh = p.rh)
      ∧ (cfgN s 0x4201 6 < p.k + 1 → w.rh = min (portRate s p.port)
          (p.rh + min (cfgN s 0x4201 8) (p.k + 1 - cfgN s 0x4201 6) * cfgN s 0x4201 7))
      ∧ w.rc = ((p.rc : Int) + Int.tdiv ((w.rh : Int) - (p.rc : Int)) 4).toNat
      ∧ (p.cnpSeen = true → w.m = p.m)
      ∧ (p.cnpSeen = false → w.m = p.m - Int.tdiv (p.m * (cfgN s 0x4201 3 : Int)) 65536)))
  ∧ (∀ (t g msg n : Nat) (x : Capsule) (s : State), Canonical s → capAt (s.channel g) msg = some x →
    x.started = true → x.responded = false → n = min 262144 (beField x.cmd 20 4 - x.granted) →
    Runs (.xferGrant t g msg) s (fun u =>
      (0 < n ∧ x.grants.length < 4 ∧ stagingUsed s x.md + n ≤ 268435456 →
        u.channel g = { s.channel g with
          msgs := (s.channel g).msgs ++ [{ SMsg.blank with id := msg, op := 9, len := n, base := x.granted }]
          capsules := (s.channel g).capsules.map (fun y => if y.msg = msg then { y with
            granted := y.granted + n, grants := y.grants ++ [{ off := y.granted, len := n, got := 0, time := t }] }
            else y) })
      ∧ (n = 0 ∨ 4 ≤ x.grants.length ∨ 268435456 < stagingUsed s x.md + n → u = advance t s)))
  ∧ (∀ (t g msg : Nat) (x : Capsule) (s : State), Canonical s → capAt (s.channel g) msg = some x →
    x.responded = false → x.grants.any (fun w => decide (w.time + cfgN s 0x4200 0xB * 10 ^ 12 ≤ t)) = true →
    s.jrn.units = [] →
    Runs (.siphonXferTimeout t g msg) s (fun u => counter u 0x4300 0x14 = satAdd64 (counter s 0x4300 0x14) 1
      ∧ (u.channel g).msgs = (s.channel g).msgs ++ [{ SMsg.blank with
          id := msg, op := 0xA, len := 16, total := 16
          body := jrspBytes stTIMEOUT (beField x.cmd 4 4) (min (16 * x.units) (beField x.cmd 16 4)) }]
      ∧ ∃ y, capAt (u.channel g) msg = some y ∧ y.responded = true ∧ y.grants = []))

/-- 13 R425, R430, R436, R441 to R450, R452, R453: receiving. A packet in order is accepted: the next expected PSN
moves on, and it is counted; its data go to their place, its message ends when all of it is there, and the entry it
serves is completed. An ACK ends messages, a NAK stops the channel, a CNP cuts the rate of its path; capsules wait
for the journal, and XFER_RDY and JRSP serve the JCMD_SEND they answer. A packet that is malformed, or lost at its
half Culvert or in its cells, changes nothing of any channel; every packet leaves the other channels as they were.
Readings the model took: log entries 47, 93. -/
def Obligations.SiphonReceive : Prop :=
  (∀ (t : Nat) (p : SPacket) (r : Region) (s : State), Canonical s → Receives s 1 p → InOrder s p → p.key ≠ 0 →
    p.off = 0 → 0 < p.len → p.len ≤ chPayload (s.channel p.chan) → p.payload.length = p.len →
    (s.channel p.chan).asm = [] → (s.channel p.chan).state ≠ 5 →
    keyRegion s (s.channel p.chan) p.key 3 p.addr p.len = some r →
    acsBlocks s { fn := (s.channel p.chan).fn, q := none, pasid := r.pasid } p.addr p.len = false →
    Runs (.siphonRxWrite ⟨t, .clean⟩) s (fun u => TakesPacket p.chan s u ∧ u.wq = s.wq ∧ u.jrn = s.jrn
      ∧ Places s { fn := (s.channel p.chan).fn, q := none, pasid := r.pasid } p.addr p.payload u
      ∧ (u.channel p.chan).expect = (p.psn + 1) % 2 ^ 32 ∧ (u.channel p.chan).rcvd = []
      ∧ (u.channel p.chan).asm = [] ∧ (u.channel p.chan).msgs = (s.channel p.chan).msgs
      ∧ counter u 0x4203 2 = satAdd64 (counter s 0x4203 2) 1))
  ∧ (∀ (t : Nat) (p : SPacket) (s : State), Canonical s → Receives s 1 p → InOrder s p → p.key ≠ 0 →
    p.off = 0 → 0 < p.len → p.len ≤ chPayload (s.channel p.chan) → p.payload.length = p.len →
    (s.channel p.chan).asm = [] → keyRegion s (s.channel p.chan) p.key 3 p.addr p.len = none →
    Runs (.siphonRxWrite ⟨t, .clean⟩) s (fun u => TakesPacket p.chan s u ∧ (u.channel p.chan).expect = p.psn
      ∧ (u.channel p.chan).refused = [p.msg] ∧ u.siphon.ddr = s.siphon.ddr
      ∧ counter u 0x4203 7 = satAdd64 (counter s 0x4203 7) 1
      ∧ counter u 0x4203 8 = satAdd64 (counter s 0x4203 8) 1))
  ∧ (∀ (t : Nat) (p : SPacket) (r : Region) (s : State), Canonical s → Receives s 2 p → InOrder s p →
    p.off = 0 → 0 < p.len → p.len ≤ chPayload (s.channel p.chan) → p.payload.length = p.len →
    (s.channel p.chan).asm = [] → (s.channel p.chan).notes.length < 32 →
    (stateSeen (advance t s) (s.channel p.chan) = 1 ∨ stateSeen (advance t s) (s.channel p.chan) = 2) →
    keyRegion s (s.channel p.chan) p.key 3 p.addr p.len = some r →
    acsBlocks s { fn := (s.channel p.chan).fn, q := none, pasid := r.pasid } p.addr p.len = false →
    Runs (.siphonRxWriteImm ⟨t, .clean⟩) s (fun u => TakesPacket p.chan s u ∧ u.jrn = s.jrn
      ∧ Places s { fn := (s.channel p.chan).fn, q := none, pasid := r.pasid } p.addr p.payload u
      ∧ (u.channel p.chan).expect = (p.psn + 1) % 2 ^ 32 ∧ counter u 0x4203 2 = satAdd64 (counter s 0x4203 2) 1
      ∧ ((s.channel p.chan).recvs = [] → (u.channel p.chan).notes = (s.channel p.chan).notes ++ [beNat p.imm]
          ∧ u.wq = s.wq)
      ∧ (∀ o os, (s.channel p.chan).recvs = o :: os → (s.channel p.chan).notes = [] →
          (u.channel p.chan).notes = [] ∧ (u.channel p.chan).recvs = os
          ∧ EndsChain o.1 o.2.1 o.2.2 0 (beNat p.imm) s u ∧ OtherQueues o.1 o.2.1 s u)))
  ∧ (∀ (t : Nat) (p : SPacket) (s : State), Canonical s → Receives s 2 p → InOrder s p → (s.channel p.chan).asm = [] →
    stateSeen (advance t s) (s.channel p.chan) = 3 ∨ 32 ≤ (s.channel p.chan).notes.length →
    Runs (.siphonRxWriteImm ⟨t, .clean⟩) s (fun u => TakesPacket p.chan s u ∧ u.wq = s.wq
      ∧ (u.channel p.chan).expect = p.psn ∧ (u.channel p.chan).refused = [p.msg]
      ∧ (u.channel p.chan).notes = (s.channel p.chan).notes
      ∧ counter u 0x4203 8 = satAdd64 (counter s 0x4203 8) 1))
  ∧ (∀ (t : Nat) (p : SPacket) (r : Region) (s : State), Canonical s → Receives s 3 p → InOrder s p →
    (s.channel p.chan).reads = [] → readsServed (s.channel p.chan) = 0 →
    keyRegion s (s.channel p.chan) p.key 2 p.addr p.len = some r →
    Runs (.siphonRxReadReq ⟨t, .clean⟩) s (fun u => TakesPacket p.chan s u ∧ u.wq = s.wq ∧ u.jrn = s.jrn
      ∧ (u.channel p.chan).reads = []
      ∧ (u.channel p.chan).msgs = (s.channel p.chan).msgs ++ [{ SMsg.blank with
          id := p.msg, op := 4, len := p.len, key := p.key, laddr := p.addr, total := p.len }]
      ∧ (u.channel p.chan).expect = (p.psn + 1) % 2 ^ 32))
  ∧ (∀ (t : Nat) (p : SPacket) (m : SMsg) (o : Nat × Nat × Nat) (s : State), Canonical s → Receives s 4 p →
    InOrder s p → askedBy (s.channel p.chan) p.msg = some m → m.op = 3 → m.owner = some o → p.off = 0 →
    p.len = m.len → 0 < p.len → p.len ≤ chPayload (s.channel p.chan) → p.payload.length = p.len →
    (s.channel p.chan).asm = [] → requestRefused s o.1 o.2.1 m.laddr p.len = false → isDdr m.laddr = false →
    Runs (.siphonRxReadResp ⟨t, .clean⟩) s (fun u => TakesPacket p.chan s u ∧ Writes s o.1 o.2.1 m.laddr p.payload u
      ∧ EndsChain o.1 o.2.1 o.2.2 0 0 s u ∧ OtherQueues o.1 o.2.1 s u ∧ u.jrn = s.jrn
      ∧ (u.channel p.chan).msgs = (s.channel p.chan).msgs.filter (fun x => decide (x ≠ m))
      ∧ (u.channel p.chan).expect = (p.psn + 1) % 2 ^ 32))
  ∧ (∀ (t : Nat) (p : SPacket) (k : SPkt) (m : SMsg) (o : Nat × Nat × Nat) (s : State), Canonical s →
    Receives s 5 p → (s.channel p.chan).ctlRx = none → (s.channel p.chan).sent = [k] →
    acked p.psn p.addr k.psn = true → (s.channel p.chan).msgs = [m] → m.cut = true → ownMsg m = true →
    (m.op = 1 ∨ m.op = 2) → m.owner = some o → (s.channel p.chan).reads = [] →
    Runs (.siphonRxAck ⟨t, .clean⟩) s (fun u => TakesPacket p.chan s u ∧ (u.channel p.chan).sent = []
      ∧ (u.channel p.chan).msgs = [] ∧ (u.channel p.chan).retries = 0 ∧ (u.channel p.chan).rto = 0
      ∧ (u.channel p.chan).ctlRx = some p.msg ∧ (u.channel p.chan).expect = (s.channel p.chan).expect
      ∧ counter u 0x4203 2 = satAdd64 (counter s 0x4203 2) 1 ∧ EndsChain o.1 o.2.1 o.2.2 0 0 s u
      ∧ OtherQueues o.1 o.2.1 s u ∧ u.jrn = s.jrn))
  ∧ (∀ (t : Nat) (p : SPacket) (m : SMsg) (o : Nat × Nat × Nat) (s : State), Canonical s →
    Receives s 6 p → (s.channel p.chan).ctlRx = none → (s.channel p.chan).msgs = [m] → ownMsg m = true →
    m.owner = some o → (s.channel p.chan).recvs = [] →
    Runs (.siphonRxNak ⟨t, .clean⟩) s (fun u => TakesPacket p.chan s u ∧ (u.channel p.chan).state = 4
      ∧ (u.channel p.chan).msgs = [] ∧ (u.channel p.chan).sent = []
      ∧ counter u 0x4203 9 = satAdd64 (counter s 0x4203 9) 1
      ∧ counter u 0x4203 0xD = satAdd64 (counter s 0x4203 0xD) 1 ∧ (evtStat u 9).testBit 4 = true
      ∧ EndsChain o.1 o.2.1 o.2.2 stREMOTE_ERROR (if m.id = p.off then p.len % 256 else 0) s u
      ∧ OtherQueues o.1 o.2.1 s u))
  ∧ (∀ (e : (PacketAt → Instr) × Nat), e ∈ siphonRxCommands → e.2 = 5 ∨ e.2 = 6 ∨ e.2 = 7 →
    ∀ (t n : Nat) (p : SPacket) (s : State), Canonical s → Receives s e.2 p → (s.channel p.chan).ctlRx = some n →
    p.msg ≤ n →
    Runs (e.1 ⟨t, .clean⟩) s (fun u => TakesPacket p.chan s u ∧ u.wq = s.wq ∧ u.jrn = s.jrn
      ∧ u.channel p.chan = { s.channel p.chan with rxPaths := (u.channel p.chan).rxPaths }
      ∧ counter u 0x4203 2 = counter s 0x4203 2))
  ∧ (∀ (t : Nat) (p : SPacket) (p0 : SPath) (s : State), Canonical s → Receives s 7 p → cfgN s 0x4201 1 = 1 →
    (s.channel p.chan).ctlRx = none → (s.channel p.chan).paths[p.path]? = some p0 → 0 < p.len →
    Runs (.siphonRxCnp ⟨t, .clean⟩) s (fun u => TakesPacket p.chan s u ∧ u.wq = s.wq ∧ u.jrn = s.jrn
      ∧ counter u 0x4203 0xB = satAdd64 (counter s 0x4203 0xB) 1
      ∧ (∀ i, i ≠ p.path → (u.channel p.chan).paths[i]? = (s.channel p.chan).paths[i]?)
      ∧ ∃ w, (u.channel p.chan).paths[p.path]? = some w ∧ w.cnpSeen = true ∧ w.stepAt = t
        ∧ w.m = p0.m + Int.tdiv ((((p.off * 65536 / p.len : Nat) : Int) - p0.m) * (cfgN s 0x4201 3 : Int)) 65536
        ∧ (p0.lastCut = none → w.rh = p0.rc ∧ w.k = 0 ∧ w.lastCut = some t
            ∧ w.rc = max (cfgN s 0x4201 9) (((p0.rc : Int) - Int.tdiv ((p0.rc : Int) * w.m) 131072).toNat))
        ∧ (∀ t0, p0.lastCut = some t0 → t < t0 + cfgN s 0x4201 4 * 10 ^ 9 →
            w.rc = p0.rc ∧ w.rh = p0.rh ∧ w.k = p0.k)))
  ∧ (∀ (t : Nat) (p : SPacket) (s : State), Canonical s → Receives s 8 p → InOrder s p → p.payload.length = 64 →
    p.len = 64 → (s.channel p.chan).capsules = [] →
    Runs (.siphonRxJcmd ⟨t, .clean⟩) s (fun u => TakesPacket p.chan s u ∧ u.wq = s.wq
      ∧ (u.channel p.chan).expect = (p.psn + 1) % 2 ^ 32
      ∧ counter u 0x4300 0x13 = satAdd64 (counter s 0x4300 0x13) 1
      ∧ (u.channel p.chan).capsules = [{
          msg := p.msg, cmd := p.payload, grants := [], granted := 0, hd := [], staging := [], arrived := [], units := 0
          md := 0, started := false, responded := capsuleMalformed s (s.channel p.chan).fn p.payload }]
      ∧ (u.channel p.chan).msgs = (s.channel p.chan).msgs
        ++ (if capsuleMalformed s (s.channel p.chan).fn p.payload then [{ SMsg.blank with
              id := p.msg, op := 0xA, len := 16, total := 16
              body := jrspBytes stMALFORMED (beField p.payload 4 4) 0 }] else [])))
  ∧ (∀ (t : Nat) (p : SPacket) (m : SMsg) (s : State), Canonical s → Receives s 9 p → InOrder s p →
    (s.channel p.chan).msgs.find? (fun m => ownMsg m && decide (m.id = p.msg ∧ m.op = 8)) = some m → 0 < p.len →
    p.off + p.len ≤ (readTarget s m).2 →
    Runs (.siphonRxXferRdy ⟨t, .clean⟩) s (fun u => TakesPacket p.chan s u ∧ u.wq = s.wq ∧ u.jrn = s.jrn
      ∧ (u.channel p.chan).expect = (p.psn + 1) % 2 ^ 32
      ∧ (u.channel p.chan).msgs = (s.channel p.chan).msgs ++ [{ SMsg.blank with
          id := p.msg, op := 1, len := (readTarget s m).2, laddr := (readTarget s m).1 + p.off, base := p.off
          total := p.len, owner := m.owner, part := true }]))
  ∧ (∀ (t : Nat) (p : SPacket) (m : SMsg) (o : Nat × Nat × Nat) (ch : Chain) (s : State), Canonical s →
    Receives s 0xA p → InOrder s p → (s.channel p.chan).msgs = [m] → ownMsg m = true → m.id = p.msg → m.op = 8 →
    m.owner = some o → p.payload.length = 16 → chainAt (s.queue o.1 o.2.1) o.2.2 = some ch →
    requestRefused s o.1 o.2.1 (eAddr (ch.entries.headD []) + 64) 16 = false →
    isDdr (eAddr (ch.entries.headD []) + 64) = false →
    Runs (.siphonRxJrsp ⟨t, .clean⟩) s (fun u => TakesPacket p.chan s u ∧ (u.channel p.chan).msgs = []
      ∧ Writes s o.1 o.2.1 (eAddr (ch.entries.headD []) + 64) p.payload u ∧ EndsChain o.1 o.2.1 o.2.2 0 0 s u
      ∧ OtherQueues o.1 o.2.1 s u ∧ u.jrn = s.jrn ∧ (u.channel p.chan).expect = (p.psn + 1) % 2 ^ 32))
  ∧ (∀ (e : (PacketAt → Instr) × Nat), e ∈ siphonRxCommands →
    ∀ (t : Nat) (fault : BufFault) (r : SRx) (rest : List SRx) (s : State), Canonical s →
    s.siphon.rx = r :: rest →
      (packetBad r = true →
        Runs (e.1 ⟨t, fault⟩) s (fun u => u.siphon = { s.siphon with rx := rest } ∧ u.wq = s.wq ∧ u.jrn = s.jrn
          ∧ counter u 0x4203 6 = satAdd64 (counter s 0x4203 6) 1))
      ∧ (packetBad r = false → (parsePacket r.bytes).op = e.2 →
        (chEnc (s.channel (parsePacket r.bytes).chan) = true → farmFree s = true) →
        culvDown s (hdCulvert (dieOf r.port)) = true ∨ fault = .data ∨ (∃ place, fault = .link place) →
        Runs (e.1 ⟨t, fault⟩) s (fun u => u.siphon = { s.siphon with rx := rest } ∧ u.wq = s.wq ∧ u.jrn = s.jrn))
      ∧ (packetBad r = false → (parsePacket r.bytes).op ≠ e.2 → Runs (e.1 ⟨t, fault⟩) s (fun u => u = advance t s)))

/-- 14 R470, R476, R480 to R491, R499 to R501: the commands of JOURNAL queues and capsules. One that is refused ends
with its status; a write becomes units that wait for the farm, a read returns what the block map holds, a flush ends
when nothing of its namespace is dirty, deallocated blocks read as zeros, and the others do as their table says.
Readings the model took: log entries 94, 126, 128, 132. -/
def Obligations.JournalCommands : Prop :=
  (∀ bad, JRefuses (fun t src => .journalRead t src bad) 0x30)
  ∧ (∀ host, JRefuses (fun t src => .journalWrite t src host) 0x31)
  ∧ JRefuses .journalFlush 0x32 ∧ JRefuses .deallocate 0x33 ∧ JRefuses .identify 0x34 ∧ JRefuses .logRead 0x35
  ∧ JRefuses .journalSelfTest 0x36 ∧ JRefuses .journalSanitize 0x37 ∧ JRefuses .journalFormat 0x38
  ∧ (∀ (t fn q n : Nat) (c : JCmd) (s : State), Canonical s → JGoes s (.queue fn q) 0x31 c n →
    (∀ (host d : Bytes) (s1 : State), HostBytes (suspendTests t n (advance t s)) fn q (jSegs s fn q c.ref) host d s1 →
      1 ≤ c.count → c.count ≤ 16 → d.length = 4096 * c.count →
      Runs (.journalWrite t (.queue fn q) (some host)) s (fun u =>
        u.jrn.units = s.jrn.units ++ [{
          id := s.jrn.nextUnit, job := s.jrn.nextUnit, src := some (.queue fn q), ref := c.ref, ns := n, before := 0
          blocks := (List.range c.count).map (fun i => (c.lba + i, none)), slots := writeSlots s (s.space n)
          ready := false, failed := false, ends := some 0 }]
        ∧ u.cipher.waiting.length = s.cipher.waiting.length + c.count
        ∧ u.jrn.map = s.jrn.map ∧ counter u 0x4300 0x10 = satAdd64 (counter s 0x4300 0x10) 1
        ∧ u.queue fn q = { s.queue fn q with chains := startChain (s.queue fn q) c.ref }
        ∧ ∀ g p, qKey g p ≠ qKey fn q → u.queue g p = s.queue g p))
    ∧ (readRefused s fn q (jSegs s fn q c.ref) = false → hostLen (jSegs s fn q c.ref) ≠ 0 → fnRuns s fn = true →
      Runs (.journalWrite t (.queue fn q) none) s (fun u =>
        u = startReads (queueReq s fn q) (.data c.ref) (jSegs s fn q c.ref) (suspendTests t n (advance t s))
        ∧ u.jrn.units = s.jrn.units ∧ u.jrn.map = s.jrn.map ∧ u.wq = s.wq)))
  ∧ (∀ (t g msg n : Nat) (c : JCmd) (host : Option Bytes) (s : State), Canonical s → JGoes s (.capsule g msg) 0x31 c n →
    Runs (.journalWrite t (.capsule g msg) host) s (fun u => u.jrn.units = s.jrn.units ∧ u.jrn.map = s.jrn.map
      ∧ counter u 0x4300 0x10 = satAdd64 (counter s 0x4300 0x10) 1
      ∧ ∃ y, capAt (u.channel g) msg = some y ∧ y.started = true ∧ y.responded = false
        ∧ y.md = (nsSlots (s.space n)).headD 0 ∧ y.staging = zeros (c.count * 4096) ∧ y.hd = zeros (c.count * 4096)))
  ∧ (∀ (t fn q n a : Nat) (c : JCmd) (s : State), Canonical s → JGoes s (.queue fn q) 0x30 c n → JServes s (.queue fn q) →
    1 ≤ c.count → jSegs s fn q c.ref = [(a, 4096 * c.count)] → requestRefused s fn q a (4096 * c.count) = false →
    isDdr a = false → (∀ i, i < c.count → Tab.get Ver.zero s.jrn.map (mapKey n (c.lba + i)) = .zero) →
    Runs (.journalRead t (.queue fn q) []) s (fun u => Writes s fn q a (zeros (4096 * c.count)) u
      ∧ EndsChain fn q c.ref 0 0 s u ∧ counter u 0x4300 0x11 = satAdd64 (counter s 0x4300 0x11) 1
      ∧ u.jrn.map = s.jrn.map))
  ∧ (∀ (t fn q n a : Nat) (c : JCmd) (x d : Bytes) (s : State), Canonical s → JGoes s (.queue fn q) 0x30 c n →
    JServes s (.queue fn q) → c.count = 1 → jSegs s fn q c.ref = [(a, 4096)] →
    (∀ k, requestRefused s fn q a k = false) → isDdr a = false →
    Tab.get Ver.zero s.jrn.map (mapKey n c.lba) = .text x → d = Config.xtsDecrypt (nsKey s n) (blockTweak n c.lba) x →
    Runs (.journalRead t (.queue fn q) []) s (fun u => EndsChain fn q c.ref 0 0 s u ∧ u.jrn.map = s.jrn.map
      ∧ Writes s fn q a (d.take 4096) u))
  ∧ (∀ (t n : Nat) (src : JSrc) (bad : List (Nat × Nat)) (c : JCmd) (s : State), Canonical s → JGoes s src 0x30 c n →
    JServes s src → c.count = 1 → judgeSlot s (s.space n) < 2 → Tab.get Ver.zero s.jrn.map (mapKey n c.lba) = .lost →
    Runs (.journalRead t src bad) s (fun u => JEnds src c.ref stMEDIA_ERROR 0 [] s u
      ∧ SlotEvent u (judgeSlot s (s.space n)) 8 ∧ (∃ e, u.jrn.errors = e :: s.jrn.errors ∧ e.ns = n ∧ e.lba = c.lba
        ∧ e.status = stMEDIA_ERROR ∧ e.slot = judgeSlot s (s.space n))))
  ∧ (∀ (t n : Nat) (src : JSrc) (bad : List (Nat × Nat)) (c : JCmd) (s : State), JGoes s src 0x30 c n →
    farmFree s = false → Runs (.journalRead t src bad) s (fun u => u = suspendTests t n (advance t s)))
  ∧ (∀ (t g msg n : Nat) (c : JCmd) (s : State), Canonical s → JGoes s (.capsule g msg) 0x30 c n →
    farmFree s = true → 1 ≤ c.count →
    (∀ i, i < c.count → Tab.get Ver.zero s.jrn.map (mapKey n (c.lba + i)) = .zero) →
    Runs (.journalRead t (.capsule g msg) []) s (fun u =>
      JEnds (.capsule g msg) c.ref 0 0 (zeros (4096 * c.count)) s u))
  ∧ (∀ (t n : Nat) (src : JSrc) (c : JCmd) (s : State), Canonical s → JGoes s src 0x32 c n →
    Runs (.journalFlush t src) s (fun u => counter u 0x4300 0x12 = satAdd64 (counter s 0x4300 0x12) 1
      ∧ u.jrn.map = s.jrn.map ∧ u.jrn.units = s.jrn.units
      ∧ ((∀ i v, i < 2 → v ∈ (s.cart i).dirty → v.ns ≠ n) →
          JEnds src c.ref 0 0 [] s u ∧ u.jrn.flushes = s.jrn.flushes)
      ∧ (∀ v, (s.cart 0).dirty = [v] → v.ns = n → (s.cart 1).dirty = [] →
          u.jrn.flushes = s.jrn.flushes ++ [{ src := some src, ref := c.ref, ns := n, units := [v.id] }])))
  ∧ (∀ (t n : Nat) (src : JSrc) (c : JCmd) (s : State), Canonical s → JGoes s src 0x33 c n → s.jrn.state = 1 →
    Runs (.deallocate t src) s (fun u => JEnds src c.ref 0 c.count [] s u
      ∧ (∀ i, i < c.count → Tab.get Ver.zero u.jrn.map (mapKey n (c.lba + i)) = .zero)
      ∧ ∀ k, (∀ i, i < c.count → k ≠ mapKey n (c.lba + i)) →
          Tab.get Ver.zero u.jrn.map k = Tab.get Ver.zero s.jrn.map k))
  ∧ (∀ (t fn q n a : Nat) (c : JCmd) (s : State), Canonical s → JGoes s (.queue fn q) 0x34 c n →
    Tab.wf CartSlot.reset s.jrn.slots = true →
    jSegs s fn q c.ref = [(a, 64)] → requestRefused s fn q a 64 = false → isDdr a = false →
    Runs (.identify t (.queue fn q)) s (fun u => EndsChain fn q c.ref 0 64 s u ∧ u.jrn.map = s.jrn.map
      ∧ Writes s fn q a (nsRecord true (advance t s) n ++ leBytes 4 4096 ++ leBytes 4 1024 ++ leBytes 4 16
          ++ [lifeByte s 0, lifeByte s 1] ++ zeros 18) u))
  ∧ (∀ (t fn q n a : Nat) (c : JCmd) (s : State), Canonical s → JGoes s (.queue fn q) 0x35 c n →
    (c.param = 1 ∨ c.param = 2 ∨ c.param = 3) →
    jSegs s fn q c.ref = [(a, logPageLen c.param)] → requestRefused s fn q a (logPageLen c.param) = false →
    isDdr a = false →
    Runs (.logRead t (.queue fn q)) s (fun u => EndsChain fn q c.ref 0 (logPageLen c.param) s u
      ∧ u.jrn.map = s.jrn.map ∧ Writes s fn q a (logPage (suspendTests t n (advance t s)) n c.param) u))
  ∧ (∀ (t n i : Nat) (src : JSrc) (c : JCmd) (s : State), Canonical s → JGoes s src 0x36 c n →
    i = judgeSlot s (s.space n) → i < 2 →
    Runs (.journalSelfTest t src) s (fun u =>
      (c.param ≠ 0x0F ∧ (s.cart i).testState = 0 → JEnds src c.ref 0 0 [] s u
        ∧ (u.cart i).testState = 1 ∧ (u.cart i).testCode = c.param ∧ (u.cart i).testProgress = 0)
      ∧ (c.param ≠ 0x0F ∧ (s.cart i).testState ≠ 0 → JEnds src c.ref stSTATE 0 [] s u)
      ∧ (c.param = 0x0F ∧ (s.cart i).testState ≠ 0 → JEnds src c.ref 0 0 [] s u
        ∧ (u.cart i).testState = 0 ∧ (u.cart i).testResult = 3 ∧ SlotEvent u i 9)
      ∧ (c.param = 0x0F ∧ (s.cart i).testState = 0 → JEnds src c.ref stSTATE 0 [] s u)))
  ∧ (∀ (t n i : Nat) (src : JSrc) (c : JCmd) (s : State), Canonical s → JGoes s src 0x37 c n →
    i = judgeSlot s (s.space n) → i < 2 →
    Runs (.journalSanitize t src) s (fun u => (u.cart i).state = 8 ∧ (u.cart i).sanitizeProgress = 0
      ∧ (u.cart i).sanitizeBy = some (some src, c.ref)))
  ∧ (∀ (t n : Nat) (src : JSrc) (c : JCmd) (s : State), Canonical s → JGoes s src 0x38 c n →
    Runs (.journalFormat t src) s (fun u => (u.space n).state = 5 ∧ (u.space n).progress = 0
      ∧ (u.space n).formatBy = some (some src, c.ref) ∧ u.jrn.map = s.jrn.map
      ∧ ∀ m, m ≠ n → u.space m = s.space m))

/-- 14 R472, R486 to R490, R499 to R501: the journal's own steps. A unit that is ready is accepted into the cache of
its cartridge and its blocks become the latest versions; the oldest dirty unit is drained and FLUSHes end with the
last of theirs; a rebuild, a self-test, a sanitize and a format end. Readings the model took: log entries 94, 95,
105, 127, 129, 131. -/
def Obligations.JournalSteps : Prop :=
  (∀ (t id i : Nat) (v : JUnit) (s : State), Canonical s → s.jrn.units.find? (fun u => decide (u.id = id)) = some v →
    (∀ x, x ∈ s.jrn.units → x.job = v.job → v.id ≤ x.id) → s.jrn.state = 1 → v.failed = false → v.ready = true →
    nsSlots (s.space v.ns) = [i] → (s.cart i).state = 3 → (v.blocks.map (·.1)).Nodup →
    dirtyBytes (s.cart i) + 4096 * v.blocks.length ≤ dirtyLimit s →
    Runs (.unitAccept t id) s (fun u => (u.cart i).dirty = (s.cart i).dirty ++ [{ v with slots := [i] }]
      ∧ u.jrn.units = s.jrn.units.filter (fun x => decide (x.id ≠ id))
      ∧ (∀ l d, (l, some d) ∈ v.blocks → Tab.get Ver.zero u.jrn.map (mapKey v.ns l) = .text d)
      ∧ (∀ src code, v.ends = some code → v.src = some src → JEnds src v.ref code (v.before + v.blocks.length) [] s u)))
  ∧ (∀ (t id : Nat) (v : JUnit) (s : State), Canonical s → s.jrn.units.find? (fun u => decide (u.id = id)) = some v →
    (∀ x, x ∈ s.jrn.units → x.job = v.job → v.id ≤ x.id) → s.jrn.state = 1 → v.failed = true →
    Runs (.unitAccept t id) s (fun u => u.jrn.map = s.jrn.map
      ∧ u.jrn.units = s.jrn.units.filter (fun x => decide (x.job ≠ v.job))
      ∧ ∀ src, v.src = some src → JEnds src v.ref stNO_RESOURCE v.before [] s u))
  ∧ (∀ (t id : Nat) (s : State), s.jrn.units.find? (fun u => decide (u.id = id)) = none →
    Runs (.unitAccept t id) s (fun u => u = advance t s))
  ∧ (∀ (t id : Nat) (v x : JUnit) (s : State), s.jrn.units.find? (fun u => decide (u.id = id)) = some v →
    x ∈ s.jrn.units → x.job = v.job → x.id < v.id → Runs (.unitAccept t id) s (fun u => u = advance t s))
  ∧ (∀ (t i cycles remapped : Nat) (spare : Bool) (v : JUnit) (rest : List JUnit) (s : State), Canonical s → i < 2 →
    (s.cart i).dirty = v :: rest →
    Runs (.unitDrain t ⟨i, cycles, remapped, spare⟩) s (fun u => (u.cart i).dirty = rest
      ∧ (u.cart i).drainSeq = (s.cart i).drainSeq + 1
      ∧ (u.cart i).media.written = satAdd64 (s.cart i).media.written ((v.blocks.filter (fun b => b.2.isSome)).length)
      ∧ (u.cart i).media.blocks
        = applyRec (s.cart i).media.blocks (mkCommit ((s.cart i).drainSeq + 1) v.ns v.blocks)
      ∧ (u.cart i).media.meanCycles = max (s.cart i).media.meanCycles cycles
      ∧ (u.cart i).media.spareOut = ((s.cart i).media.spareOut || !spare)
      ∧ u.cart (1 - i) = { s.cart (1 - i) with lastCmd := (u.cart (1 - i)).lastCmd } ∧ u.jrn.map = s.jrn.map
      ∧ (∀ f src, s.jrn.flushes = [f] → f.units = [v.id] → rest = [] → (s.cart (1 - i)).dirty = [] →
          f.src = some src → u.jrn.flushes = [] ∧ JEnds src f.ref 0 0 [] s u)))
  ∧ (∀ (t i cycles remapped : Nat) (spare : Bool) (s : State), (s.cart i).dirty = [] →
    Runs (.unitDrain t ⟨i, cycles, remapped, spare⟩) s (fun u => u = advance t s))
  ∧ (∀ (t i : Nat) (s : State), Canonical s → i < 2 → (s.cart i).rebuild ≠ 100 → cartServes (s.cart i).state = true →
    ((s.cart i).rebuildAt + rebuildTime s ≤ t →
      Runs (.rebuildDone t i) s (fun u => u.cart i = { s.cart i with
          rebuild := 100, media := { (s.cart i).media with blocks := mirrorBlocks s } }
        ∧ u.cart (1 - i) = s.cart (1 - i) ∧ SlotEvent u i 7))
    ∧ (t < (s.cart i).rebuildAt + rebuildTime s → Runs (.rebuildDone t i) s (fun u => u = advance t s)))
  ∧ (∀ (t i : Nat) (s : State), i < 2 → (s.cart i).testState = 2 →
    s.jrn.state = 1 → slotPending s i = false →
    Runs (.cartSelfTestResume t i) s (fun u =>
      ((s.cart i).lastCmd + 10 ^ 13 ≤ t → u.cart i = { s.cart i with testState := 1 })
      ∧ (t < (s.cart i).lastCmd + 10 ^ 13 → u = advance t s)))
  ∧ (∀ (t i seg : Nat) (spare : Bool) (s : State), i < 2 → (s.cart i).testState = 1 → s.jrn.state = 1 →
    Runs (.cartSelfTestDone t i true ⟨seg, spare⟩) s (fun u => u.cart i = { s.cart i with
        testState := 0, testResult := 1, testSegment := 0, testProgress := 100
        testTime := timeNow (advance t s) / unitsPerSec }
      ∧ SlotEvent u i 9)
    ∧ Runs (.cartSelfTestDone t i false ⟨seg, spare⟩) s (fun u => (u.cart i).testState = 0 ∧ (u.cart i).testResult = 2
      ∧ (u.cart i).testSegment = seg ∧ SlotEvent u i 9 ∧ (spare = false → (u.cart i).media.spareOut = true)
      ∧ (u.cart i).media.remapped = satAdd64 (s.cart i).media.remapped 1))
  ∧ (∀ (t i : Nat) (s : State), i < 2 → (s.cart i).testState ≠ 1 ∨ s.jrn.state ≠ 1 → ∀ pass seg spare,
    Runs (.cartSelfTestDone t i pass ⟨seg, spare⟩) s (fun u => u = advance t s))
  ∧ (∀ (t i : Nat) (s : State), Canonical s → i < 2 → (s.cart i).state = 8 → s.jrn.state = 1 →
    (mirroredMode s = true → (s.cart (1 - i)).state = 8 → (s.cart (1 - i)).sanitizeProgress ≠ 100 →
      Runs (.sanitizeComplete t i) s (fun u => u = (advance t s).setCart i { s.cart i with sanitizeProgress := 100 })))
  ∧ (∀ (t i : Nat) (s : State), Canonical s → i < 2 → (s.cart i).state = 8 → s.jrn.state = 1 →
    (mirroredMode s = false ∨ (s.cart (1 - i)).state ≠ 8) → s.jrn.flushes = [] → (s.cart i).media.spareOut = false →
    0 < cartLife (s.cart i) → (∀ v ∈ (s.cart i).dirty, (nsSlots (s.space v.ns)).contains i = true) →
    Runs (.sanitizeComplete t i) s (fun u => (u.cart i).state = 3 ∧ (u.cart i).dirty = []
      ∧ (u.cart i).sanitizeBy = none ∧ SlotEvent u i 10
      ∧ (∀ n l, (nsSlots (s.space n)).contains i = true → l < 2 ^ 64 →
          Tab.get Ver.zero u.jrn.map (mapKey n l) = .zero)
      ∧ (∀ src ref, (s.cart i).sanitizeBy = some (some src, ref) → JEnds src ref 0 0 [] s u)))
  ∧ (∀ (t n : Nat) (s : State), (s.space n).state ≠ 5 ∨ s.jrn.state ≠ 1 →
    Runs (.formatComplete t n) s (fun u => u = advance t s))
  ∧ (∀ (t n : Nat) (s : State), n < 4096 → (s.space n).state = 5 → s.jrn.state = 1 → s.jrn.flushes = [] →
    Runs (.formatComplete t n) s (fun u => (u.space n).formatBy = none ∧ (u.space n).progress = 100
      ∧ (∀ src ref, (s.space n).formatBy = some (some src, ref) → JEnds src ref 0 0 [] s u)
      ∧ (u.space n).state = liveState s (s.space n)
      ∧ (∀ l, l < 2 ^ 64 → Tab.get Ver.zero u.jrn.map (mapKey n l) = .zero)
      ∧ (∀ m l, m ≠ n → l < 2 ^ 64 →
          Tab.get Ver.zero u.jrn.map (mapKey m l) = Tab.get Ver.zero s.jrn.map (mapKey m l))))

/-- 14 R464, R465, R468 to R470, R490, R499, R500, 18 R584, R585: a cartridge's life. It is present once its contact
has been low for 100 ms, and its clock runs while its power is on; it is refused when its link or its identity
fails; online it serves what its media holds; quiesced it may be pulled; removed without that, what was dirty is
lost; its self-test and its sanitize are started and refused. Readings the model took: log entries 45, 94, 131. -/
def Obligations.Cartridges : Prop :=
  (∀ (t i : Nat) (s : State), i < 2 →
    ((s.cart i).present = false → Runs (.cartPrsntNFall t i) s (fun u =>
      u = (advance t s).setCart i { CartSlot.reset with
        present := true, since := t, failedSerial := (s.cart i).failedSerial }))
    ∧ ((s.cart i).present = true → Runs (.cartPrsntNFall t i) s (fun u => u = advance t s)))
  ∧ (∀ (t i : Nat) (s : State), i < 2 → (s.cart i).present = true → (s.cart i).state = 0 → s.boot.started = true →
    s.boot.bootStatus ≠ 2 → dieServes s (4 + i) = true →
    Runs (.cartPresentDebounce t i) s (fun u =>
      ((s.cart i).since + 10 ^ 14 ≤ t →
        u = (advance t s).setCart i { s.cart i with state := 1, pwren := true, perst := false, since := t }
        ∧ cartRefclk u i = s.board.refclk)
      ∧ (t < (s.cart i).since + 10 ^ 14 → u = advance t s)))
  ∧ (∀ (t i : Nat) (s : State), i < 2 → (s.cart i).state = 1 → (s.cart i).verified = false →
    Runs (.cartLinkTimeout t i) s (fun u =>
      ((s.cart i).since + 10 ^ 15 ≤ t →
        u.cart i = { s.cart i with state := 2, reason := 1, verified := false, pwren := false, perst := true }
        ∧ u.cart (1 - i) = s.cart (1 - i) ∧ SlotEvent u i 1)
      ∧ (t < (s.cart i).since + 10 ^ 15 → u = advance t s)))
  ∧ (∀ (t i : Nat) (s : State), (s.cart i).state ≠ 1 ∨ (s.cart i).verified = true →
    Runs (.cartLinkTimeout t i) s (fun u => u = advance t s))
  ∧ (∀ (t i : Nat) (id ch : Bytes) (s : State), i < 2 → (s.cart i).state = 1 → (s.cart i).verified = false →
    cartRefclk s i = true → cartPerstLow (advance t s) i = false →
    (t ≤ (s.cart i).since + 10 ^ 15 → Runs (.cartLinkTrained t i id ch) s (fun u => (u.cart i).identity = id
      ∧ (((u.cart i).state = 1 ∧ (u.cart i).verified = true)
        ∨ ((u.cart i).state = 2 ∧ (u.cart i).reason ≠ 0 ∧ (u.cart i).pwren = false ∧ SlotEvent u i 1))
      ∧ (beField id 0 4 ≠ 0x4A434944 ∨ beField id 4 2 ≠ 1 ∨ id.length ≠ 6280 →
          (u.cart i).state = 2 ∧ (u.cart i).reason = 2)
      ∧ u.cart (1 - i) = s.cart (1 - i)))
    ∧ ((s.cart i).since + 10 ^ 15 < t → Runs (.cartLinkTrained t i id ch) s (fun u => (u.cart i).state = 2
      ∧ (u.cart i).reason = 1 ∧ (u.cart i).pwren = false ∧ SlotEvent u i 1)))
  ∧ (∀ (t i : Nat) (id ch : Bytes) (s : State), cartRefclk s i = false ∨ cartPerstLow (advance t s) i = true →
    Runs (.cartLinkTrained t i id ch) s (fun u => u = advance t s))
  ∧ (∀ (t i : Nat) (media : Option CartMedia) (m : CartMedia) (s : State), i < 2 → (s.cart i).state = 1 →
    (s.cart i).verified = true → s.boot.ddrTrained.getD i false = true → m = media.getD (s.cart i).media →
    Runs (.cartOnline t i media) s (fun u =>
      (u.cart i).media = { m with blocks := replayed m, records := [], sanitizing := none }
      ∧ (u.cart i).rebuild = (if mirroredMode s && cartServes (s.cart (1 - i)).state then 0 else 100)
      ∧ (u.cart i).state = (if m.sanitizing.isSome then 8
          else if cartLife { s.cart i with media := m } = 0 ∨ m.spareOut = true then 4 else 3)
      ∧ u.cart (1 - i) = s.cart (1 - i) ∧ SlotEvent u i 0))
  ∧ (∀ (t i : Nat) (media : Option CartMedia) (s : State),
    (s.cart i).state ≠ 1 ∨ (s.cart i).verified = false ∨ s.boot.ddrTrained.getD i false = false →
    Runs (.cartOnline t i media) s (fun u => u = advance t s))
  ∧ (∀ i < 2, TakesAction .quiesce (0x4301 + i) 9 (fun _ s => cartServes (s.cart i).state = true) (.quiesce i)
    (fun _ s u => u.cart i = { s.cart i with state := 5 } ∧ u.cart (1 - i) = s.cart (1 - i)))
  ∧ (∀ i < 2, RefusesAction .quiesce (0x4301 + i) 9 (fun _ s => cartServes (s.cart i).state = false) 8)
  ∧ (∀ (t i : Nat) (s : State), i < 2 → (s.cart i).state = 5 → (s.cart i).dirty = [] →
    (quiesceWaits s i = false →
      Runs (.cartQuiesced t i) s (fun u => u.cart i = { s.cart i with state := 6, pwren := false, perst := true }
        ∧ u.cart (1 - i) = s.cart (1 - i) ∧ SlotEvent u i 4 ∧ (∀ a, a ∈ u.dict.acts → a.act ≠ .quiesce i)))
    ∧ (quiesceWaits s i = true → Runs (.cartQuiesced t i) s (fun u => u = advance t s)))
  ∧ (∀ (t i : Nat) (s : State), (s.cart i).state ≠ 5 ∨ (s.cart i).dirty ≠ [] →
    Runs (.cartQuiesced t i) s (fun u => u = advance t s))
  ∧ (∀ (t i : Nat) (rises : Bool) (s : State), Canonical s → i < 2 → (s.cart i).present = true →
    ((s.cart i).state = 1 ∨ (s.cart i).state = 3 ∨ (s.cart i).state = 4 ∨ (s.cart i).state = 5 ∨ (s.cart i).state = 8) →
    Runs (.cartRemoval t ⟨i, rises⟩) s (fun u => (u.cart i).state = 7 ∧ (u.cart i).present = !rises ∧ (u.cart i).dirty = []
      ∧ (u.cart i).pwren = false ∧ (u.cart i).perst = true ∧ (u.cart i).testState = 0
      ∧ (u.cart i).failedSerial = slice (s.cart i).identity 8 16 ∧ SlotEvent u i 5
      ∧ (u.cart i).media.lost = satAdd64 (s.cart i).media.lost
          ((s.cart i).dirty.flatMap (fun v => v.blocks.map (fun b => (v.ns, b.1)))).length
      ∧ (∀ v l, v ∈ (s.cart i).dirty → l ∈ v.blocks.map (·.1) → (s.space v.ns).placement ≠ 2 →
          Tab.get Ver.zero u.jrn.map (mapKey v.ns l) = .lost)))
  ∧ (∀ (t i : Nat) (s : State), i < 2 → Tab.wf CartSlot.reset s.jrn.slots = true → (s.cart i).present = true →
    ((s.cart i).state = 0 ∨ (s.cart i).state = 2 ∨ (s.cart i).state = 6 ∨ (s.cart i).state = 7) →
    Runs (.cartRemoval t ⟨i, true⟩) s (fun u =>
      u.cart i = { CartSlot.reset with failedSerial := (s.cart i).failedSerial } ∧ u.cart (1 - i) = s.cart (1 - i))
    ∧ Runs (.cartRemoval t ⟨i, false⟩) s (fun u => u = advance t s))
  ∧ (∀ (t i : Nat) (rises : Bool) (s : State), (s.cart i).present = false →
    Runs (.cartRemoval t ⟨i, rises⟩) s (fun u => u = advance t s))
  ∧ (∀ i < 2, ServesAction .selfTestStart (0x4301 + i) 0xA
    (fun d s => (byteAt d 0 = 1 ∨ byteAt d 0 = 2) ∧ (s.cart i).testState = 0 ∧ cartServes (s.cart i).state = true) 0
    (fun _ _ => [])
    (fun d s u => u.cart i = { s.cart i with
        testState := 1, testCode := byteAt d 0, testProgress := 0, testResult := 0, testSegment := 0 }
      ∧ u.cart (1 - i) = s.cart (1 - i)))
  ∧ (∀ i < 2, ServesAction .selfTestStart (0x4301 + i) 0xA (fun d s => byteAt d 0 = 0xF ∧ (s.cart i).testState ≠ 0) 0
    (fun _ _ => [])
    (fun _ _ u => (u.cart i).testState = 0 ∧ (u.cart i).testResult = 3 ∧ SlotEvent u i 9))
  ∧ (∀ i < 2, RefusesAction .selfTestStart (0x4301 + i) 0xA
    (fun d s => ((byteAt d 0 = 1 ∨ byteAt d 0 = 2)
      ∧ ((s.cart i).testState ≠ 0 ∨ cartServes (s.cart i).state = false))
      ∨ (byteAt d 0 = 0xF ∧ (s.cart i).testState = 0)) 8)
  ∧ (∀ i < 2, ServesAction .sanitize (0x4301 + i) 0xC (fun _ s => cartServes (s.cart i).state = true) 0
    (fun _ _ => [])
    (fun _ s u => (u.cart i).state = 8 ∧ (u.cart i).sanitizeBy = some (none, 0) ∧ (u.cart i).sanitizeProgress = 0
      ∧ (mirroredMode s = true → cartServes (s.cart (1 - i)).state = true → (u.cart (1 - i)).state = 8)))
  ∧ (∀ i < 2, RefusesAction .sanitize (0x4301 + i) 0xC (fun _ s => cartServes (s.cart i).state = false) 8)

/-- 14 R473 to R475, R501, R503: a namespace is created with its key in a slot, read, attached to one handle of a live
polder, detached, given its key again, formatted, and deleted with all its blocks.
Readings the model took: log entries 46, 82. -/
def Obligations.Namespaces : Prop :=
  (∀ (t n : Nat) (f : Bool) (s : State) (b d : Bytes), Asks (advance t s) b 0x4310 0 → Canonical s → d = (parseMsg b 0).data →
    n = beField d 0 2 → n < 4096 → byteAt d 2 < 2 → byteAt d 3 = 0 → beField d 4 8 ≠ 0 → mirroredMode s = false →
    (s.space n).defined = false → (s.cart (byteAt d 2)).state = 3 →
    beField d 4 8 + ((slotSpaces s (byteAt d 2)).map (·.2.size)).sum ≤ cartUsable (s.cart (byteAt d 2)) →
    Runs (.namespaceCreate { t := t, src := .mailbox, flash := f }) s (fun u =>
      (∀ x g, journalBlob s (slice d 12 88) = .ok (x, g) → Answered u b 0 []
        ∧ (u.space n).defined = true ∧ (u.space n).placement = byteAt d 2 ∧ (u.space n).size = beField d 4 8
        ∧ (u.space n).state = 1 ∧ (u.space n).keySlot = some g ∧ (u.space n).attach = none
        ∧ (u.keySlot g).key = x.key ∧ (u.keySlot g).users = (s.keySlot g).users + 1)
      ∧ (∀ a, journalBlob s (slice d 12 88) = .error a → Aborted u b a ∧ u.jrn = s.jrn)))
  ∧ (∀ (t n : Nat) (f : Bool) (s : State) (b d : Bytes), Asks (advance t s) b 0x4315 0 → Canonical s → d = (parseMsg b 0).data →
    n = beField d 0 2 → n < 4096 → (s.space n).defined = true → (s.space n).keySlot = none → (s.space n).state ≠ 6 →
    Runs (.namespaceKeyLoad { t := t, src := .mailbox, flash := f }) s (fun u =>
      (∀ x g, journalBlob s (slice d 2 88) = .ok (x, g) → keyCheckOf x.key = (s.space n).keyCheck → Answered u b 0 []
        ∧ (u.space n).keySlot = some g ∧ (u.space n).blob = slice d 2 88 ∧ (u.keySlot g).key = x.key)
      ∧ (∀ x g, journalBlob s (slice d 2 88) = .ok (x, g) → keyCheckOf x.key ≠ (s.space n).keyCheck →
          Aborted u b aRANGE ∧ u.jrn = s.jrn)
      ∧ (∀ a, journalBlob s (slice d 2 88) = .error a → Aborted u b a ∧ u.jrn = s.jrn)))
  ∧ ServesAction .namespaceRead 0x4312 0 (fun d _ => beNat d < 4096) 9 (fun d s => nsRecord false s (beNat d))
    (fun _ s u => u.jrn = s.jrn)
  ∧ ServesAction .namespaceDelete 0x4311 0
    (fun d s => beNat d < 4096 ∧ (s.space (beNat d)).defined = true ∧ (s.space (beNat d)).attach = none
      ∧ (s.space (beNat d)).state ≠ 6 ∧ Tab.wf Space.reset s.jrn.spaces = true
      ∧ Tab.wf CartSlot.reset s.jrn.slots = true) 0 (fun _ _ => [])
    (fun d _ u => u.space (beNat d) = Space.reset
      ∧ (∀ l, l < 2 ^ 64 → Tab.get Ver.zero u.jrn.map (mapKey (beNat d) l) = .zero)
      ∧ (∀ i v, i < 2 → v ∈ (u.cart i).dirty → v.ns ≠ beNat d))
  ∧ RefusesAction .namespaceDelete 0x4311 0
    (fun d s => beNat d < 4096 ∧ (s.space (beNat d)).defined = true ∧ (s.space (beNat d)).attach ≠ none) 8
  ∧ ServesAction .namespaceAttach 0x4313 0
    (fun d s => beField d 0 2 < 4096 ∧ (s.space (beField d 0 2)).defined = true
      ∧ (s.space (beField d 0 2)).attach = none ∧ beField d 2 2 < 4096 ∧ polderLive s (beField d 2 2) = true
      ∧ beField d 4 2 < (s.polder (beField d 2 2)).counts.namespaces
      ∧ boundNs s (beField d 2 2) (beField d 4 2) = none) 0 (fun _ _ => [])
    (fun d s u => u.space (beField d 0 2) = { s.space (beField d 0 2) with
        attach := some (beField d 2 2, beField d 4 2) }
      ∧ ∀ m, m ≠ beField d 0 2 → u.space m = s.space m)
  ∧ RefusesAction .namespaceAttach 0x4313 0
    (fun d s => beField d 0 2 < 4096 ∧ (s.space (beField d 0 2)).defined = true
      ∧ beField d 2 2 < 4096 ∧ polderLive s (beField d 2 2) = true
      ∧ beField d 4 2 < (s.polder (beField d 2 2)).counts.namespaces
      ∧ ((s.space (beField d 0 2)).attach ≠ none ∨ boundNs s (beField d 2 2) (beField d 4 2) ≠ none)) 8
  ∧ ServesAction .namespaceDetach 0x4314 0
    (fun d s => beNat d < 4096 ∧ (s.space (beNat d)).defined = true) 0 (fun _ _ => [])
    (fun d s u => u.space (beNat d) = { s.space (beNat d) with attach := none }
      ∧ ∀ m, m ≠ beNat d → u.space m = s.space m)
  ∧ ServesAction .namespaceFormat 0x4316 0
    (fun d s => beNat d < 4096 ∧ (s.space (beNat d)).defined = true
      ∧ ((s.space (beNat d)).state = 1 ∨ (s.space (beNat d)).state = 2)
      ∧ (nsSlots (s.space (beNat d))).any (fun i => decide ((s.cart i).state = 4)) = false) 0 (fun _ _ => [])
    (fun d s u => u.space (beNat d) = { s.space (beNat d) with
        state := 5, formatBy := some (none, 0), progress := 0 }
      ∧ ∀ m, m ≠ beNat d → u.space m = s.space m)

/-- 05 R186 to R193, R196, R197, R199, R203 to R205, 01 R22: the engines of the exact-match tables. A learn request
makes, refreshes or moves an entry, or is held back; a hit notice and the ager, when its visit is due, keep an entry
young or let it age to its deletion; a sweep deletes, place by place, what its flagged ports learned; replica writes
and a resync bring the copies up. While data waits to cross, a control flit waits for its share.
Readings the model took: log entries 34, 65, 66, 111, 120. -/
def Obligations.TableEngine : Prop :=
  (∀ (src dst : Nat) (w : RepWrite) (s : State), Canonical s → meshOpen s src dst = true → ctlRoom s src dst = true →
    s.tables.repQ.find? (fun w => decide (w.src = src ∧ w.dst = dst)) = some w →
    Runs (.replicaWrite src dst) s (fun u => u.tables.repQ = s.tables.repQ.erase w
      ∧ u.tables.fdb = s.tables.fdb ∧ u.tables.stream = s.tables.stream
      ∧ (w.table = 0 ∧ w.flagOnly = false →
          Tab.get FdbEntry.reset u.tables.repFdb (dst * fdbSize + w.index) = w.fdb
          ∧ (Tab.wf [] s.tables.filter = true → ∀ e, e ∈ Tab.get [] u.tables.filter dst → e.1 ≠ w.key))
      ∧ (w.table = 0 ∧ w.flagOnly = true → Tab.get false u.tables.localHit (dst * fdbSize + w.index) = false
          ∧ u.tables.repFdb = s.tables.repFdb)
      ∧ (w.table ≠ 0 → Tab.get StreamEntry.reset u.tables.repStream (dst * streamSize + w.index) = w.stream)))
  ∧ (∀ (src dst : Nat) (s : State), meshOpen s src dst = false ∨ ctlRoom s src dst = false →
    Runs (.replicaWrite src dst) s (fun u => u = s))
  ∧ (∀ (die : Nat) (s : State), Canonical s → s.tables.resync.contains die = true →
    Runs (.replicaResyncDone die) s (fun u => u.tables.resync.contains die = false
      ∧ u.tables.fdb = s.tables.fdb
      ∧ (∀ i, i < fdbSize → Tab.get FdbEntry.reset u.tables.repFdb (die * fdbSize + i) = (homeFdb s i).replica)
      ∧ (∀ w, w ∈ u.tables.repQ → w.dst ≠ die) ∧ (∀ p, p ∈ u.tables.stale → p % 4 ≠ die)))
  ∧ (∀ (t die key now : Nat) (q : LearnReq) (rest : List LearnReq) (s s1 : State), Canonical s →
    Tab.get [] s.tables.learnQ die = q :: rest → ctlRoom s (dieOf q.port) die = true →
    s1 = sweepRun die (advance t s) → key = fdbKey q.fid q.mac → now = learnClock (advance t s) →
    Runs (.learn t die) s (fun u =>
      (Tab.wf [] s.tables.learnQ = true → Tab.get [] u.tables.learnQ die = rest)
      ∧ (∀ i, findFdb s1 key = none → freeSlot s1 0 key = some i →
        homeFdb u i = { mac := q.mac, fid := q.fid, dest := q.port, valid := true, static := false, hit := true, age := 0
                        moveHold := false, recent := true, stamp := now }
        ∧ (∀ j, j ≠ i → homeFdb u j = homeFdb s1 j) ∧ counter u 0x2904 1 = satAdd64 (counter s 0x2904 1) 1)
      ∧ (findFdb s1 key = none → freeSlot s1 0 key = none → u.tables.fdb = s1.tables.fdb
        ∧ counter u 0x2904 6 = satAdd64 (counter s 0x2904 6) 1 ∧ (evtStat u 7).testBit 1 = true)
      ∧ (∀ i e, findFdb s1 key = some i → e = homeFdb s1 i → e.valid = true → (∀ j, j ≠ i → homeFdb u j = homeFdb s1 j)
        ∧ (e.static = true → u.tables.fdb = s1.tables.fdb)
        ∧ (e.static = false → e.dest = q.port → homeFdb u i = { e with hit := true, age := 0 })
        ∧ (e.static = false → e.dest ≠ q.port → e.recent = true →
            (now + 2 ^ 40 - e.stamp) % 2 ^ 40 < cfgN s 0x2900 2 →
            homeFdb u i = { e with moveHold := true } ∧ counter u 0x2904 3 = satAdd64 (counter s 0x2904 3) 1)
        ∧ (e.static = false → e.dest ≠ q.port →
            (e.recent = false ∨ cfgN s 0x2900 2 ≤ (now + 2 ^ 40 - e.stamp) % 2 ^ 40) →
            homeFdb u i = { e with
              dest := q.port, stamp := now, recent := true, moveHold := false, hit := true, age := 0 }
            ∧ counter u 0x2904 2 = satAdd64 (counter s 0x2904 2) 1))))
  ∧ (∀ (t die : Nat) (q : LearnReq) (rest : List LearnReq) (s : State), Tab.get [] s.tables.learnQ die = q :: rest →
    ctlRoom s (dieOf q.port) die = false → Runs (.learn t die) s (fun u => u = advance t s))
  ∧ (∀ (die : Nat) (h : Nat × Nat × Nat × Nat) (s : State), Canonical s →
    s.tables.hits.find? (fun h => decide (h.1 = die) && ctlRoom s h.2.2.2 die) = some h →
    Runs (.hitNotice die) s (fun u => u.tables.hits = s.tables.hits.erase h
      ∧ homeFdb u h.2.1 = (if (homeFdb s h.2.1).valid = true ∧ (homeFdb s h.2.1).key = h.2.2.1 then
          { homeFdb s h.2.1 with hit := true, age := 0 } else homeFdb s h.2.1)
      ∧ ∀ j, j ≠ h.2.1 → homeFdb u j = homeFdb s j))
  ∧ (∀ (t die key : Nat) (s : State), Tab.wf [] s.tables.filter = true →
    Runs (.learnFilterExpiry t ⟨die, key⟩) s (fun u =>
      u = { advance t s with tables := { s.tables with filter := u.tables.filter } }
      ∧ ((filterKeys (advance t s) die).any (fun e => decide (e.1 = key)) = true → u = advance t s)
      ∧ ((filterKeys (advance t s) die).any (fun e => decide (e.1 = key)) = false →
        Tab.get [] u.tables.filter die = (Tab.get [] s.tables.filter die).filter (fun e => decide (e.1 ≠ key)))
      ∧ ∀ d, d ≠ die → Tab.get [] u.tables.filter d = Tab.get [] s.tables.filter d))
  ∧ (∀ (t i : Nat) (s : State), t < Tab.get 0 s.tables.agerDue i → Runs (.agerVisit t i) s (fun u => u = advance t s))
  ∧ (∀ (t i : Nat) (e : FdbEntry) (s s1 : State), Canonical s → Tab.get 0 s.tables.agerDue i ≤ t →
    s1 = sweepAll (advance t s) → e = homeFdb s1 i →
    Runs (.agerVisit t i) s (fun u => (∀ j, j ≠ i → homeFdb u j = homeFdb s1 j)
      ∧ (Tab.wf 0 s.tables.agerDue = true →
          Tab.get 0 u.tables.agerDue i = t + cfgN s 0x2900 1 * 10 ^ 15 / 7)
      ∧ (e.valid = false → homeFdb u i = e)
      ∧ (e.valid = true ∧ e.static = false ∧ 6 ≤ e.age → homeFdb u i = FdbEntry.reset
          ∧ counter u 0x2904 9 = satAdd64 (counter s 0x2904 9) 1)
      ∧ (e.valid = true ∧ (e.static = true ∨ e.age < 6) → homeFdb u i = { e with
          hit := false, age := if e.static then e.age else e.age + 1
          recent := e.recent && decide ((learnClock (advance t s) + 2 ^ 40 - e.stamp) % 2 ^ 40 < cfgN s 0x2900 2) })))
  ∧ (∀ (t die : Nat) (s : State), Canonical s → Tab.get [] s.tables.sweep die = [] →
    Tab.get [] s.tables.flush die ≠ [] → Tab.wf [] s.tables.flush = true →
    Runs (.flushSweep ⟨t, die⟩) s (fun u => Tab.get [] u.tables.sweep die = Tab.get [] s.tables.flush die
      ∧ Tab.get [] u.tables.flush die = [] ∧ u.tables.fdb = s.tables.fdb
      ∧ (0 < t → Tab.get (0, 0) u.tables.sweepAt die = ((advance t s).clock, 0))))
  ∧ (∀ (t die upTo : Nat) (w : Nat × Nat) (s : State), Canonical s → Tab.get [] s.tables.sweep die ≠ [] →
    w = Tab.get (0, 0) s.tables.sweepAt die → upTo = min (tblPlaces 0) (placesIn w.1 (advance t s).clock) →
    Runs (.flushSweep ⟨t, die⟩) s (fun u => u.tables.sweep = s.tables.sweep ∧ u.tables.flush = s.tables.flush
      ∧ ∀ i, homeFdb u i = (if (homeFdb s i).valid = true ∧ (homeFdb s i).static = false
          ∧ (Tab.get [] s.tables.sweep die).contains (homeFdb s i).dest = true ∧ homeOf s (homeFdb s i).key = die
          ∧ w.2 ≤ placeOf 0 i ∧ placeOf 0 i < upTo then FdbEntry.reset else homeFdb s i)))
  ∧ (∀ (t die : Nat) (s s1 : State), Canonical s → Tab.wf [] s.tables.sweep = true → s1 = sweepRun die (advance t s) →
    Runs (.flushSweepEnd ⟨t, die⟩) s (fun u =>
      ((Tab.get (0, 0) s1.tables.sweepAt die).2 < tblPlaces 0 → u = s1)
      ∧ (tblPlaces 0 ≤ (Tab.get (0, 0) s1.tables.sweepAt die).2 → Tab.get [] u.tables.sweep die = []
        ∧ u = { s1 with tables := { s1.tables with sweep := u.tables.sweep, sweepAt := u.tables.sweepAt } })
      ∧ ((Tab.get (0, 0) s.tables.sweepAt die).1 + tblPlaces 0 * 781250 ≤ (advance t s).clock →
        Tab.get [] u.tables.sweep die = [])))

/-- 05 R181, R200 to R203, R206: table commands through PF0's registers. A command while another runs is ignored and
counted; one that is not listed, or whose index no entry of its key may take, gives INVALID; READ, WRITE, DELETE,
FLUSH_BY_DEST and AGE_NOW do what their table says, SEARCH scans place by place, and the result stands in TBL_STAT
and TBL_DATA when the command completes. Readings the model took: log entries 65, 120. -/
def Obligations.TableCommands : Prop :=
  TblIgnored .tblRead ∧ TblIgnored .tblWrite ∧ TblIgnored .tblDelete ∧ TblIgnored .tblSearch ∧ TblIgnored .flushByDest
  ∧ TblIgnored .ageNow
  ∧ (∀ (t i tb : Nat) (s s1 : State), barOpen s 0 = true → s.tables.busy = none → s1 = sweepAll (advance t s) →
    tb < 2 → i < tblSize tb →
    Runs (.tblRead t tb true i) s (fun u =>
      u.tables.busy = some { op := 1, result := 0, index := some i, entry := some (tblBits s1 tb i), scan := none }
      ∧ u.tables.fdb = s1.tables.fdb ∧ u.tables.stream = s.tables.stream))
  ∧ (∀ (t i tb k : Nat) (s s1 : State), barOpen s 0 = true → s.tables.busy = none → s1 = sweepAll (advance t s) →
    tb < 2 → operandKey tb (tblData s 0) = some k →
    Runs (.tblRead t tb false i) s (fun u => u.tables.fdb = s1.tables.fdb ∧ u.tables.stream = s.tables.stream
      ∧ (∀ j, tblFind s1 tb k = some j → u.tables.busy = some {
          op := 1, result := 0, index := some j, entry := some (tblBits s1 tb j), scan := none })
      ∧ (tblFind s1 tb k = none →
          u.tables.busy = some { op := 1, result := 1, index := none, entry := none, scan := none })))
  ∧ (∀ (t i j k d : Nat) (s s1 : State), Canonical s → barOpen s 0 = true → s.tables.busy = none →
    s1 = sweepAll (advance t s) → d = tblData s 0 → d.testBit 80 = true → operandKey 0 d = some k →
    (findFdb s1 k = some j ∨ (findFdb s1 k = none ∧ freeSlot s1 0 k = some j)) →
    Runs (.tblWrite t 0 false i) s (fun u =>
      u.tables.busy = some { op := 2, result := 0, index := some j, entry := none, scan := none }
      ∧ homeFdb u j = { mac := bitsOf d 47 0, fid := bitsOf d 59 48, dest := bitsOf d 75 64, valid := true
                        static := d.testBit 81, hit := false, age := 0, moveHold := false, recent := false
                        stamp := learnClock (advance t s) }
      ∧ ∀ m, m ≠ j → homeFdb u m = homeFdb s1 m))
  ∧ (∀ (t i j k d : Nat) (s : State), Canonical s → barOpen s 0 = true → s.tables.busy = none → d = tblData s 0 →
    d.testBit 80 = true → operandKey 1 d = some k →
    (findStream s k = some j ∨ (findStream s k = none ∧ freeSlot s 1 k = some j)) →
    Runs (.tblWrite t 1 false i) s (fun u =>
      u.tables.busy = some { op := 2, result := 0, index := some j, entry := none, scan := none }
      ∧ homeStream u j = { mac := bitsOf d 47 0, vid := bitsOf d 59 48, kind := bitsOf d 60 60
                           handle := bitsOf d 77 64, valid := true }
      ∧ ∀ m, m ≠ j → homeStream u m = homeStream s m))
  ∧ (∀ (t i k d : Nat) (s s1 : State), Canonical s → barOpen s 0 = true → s.tables.busy = none →
    s1 = sweepAll (advance t s) → d = tblData s 0 → d.testBit 80 = true → operandKey 0 d = some k →
    Runs (.tblWrite t 0 true i) s (fun u =>
      (fdbSize ≤ i ∨ (∃ j, findFdb s1 k = some j ∧ j ≠ i) ∨ (i < 1048576 ∧ i / 4 ≠ bucketOf s 0 k)
          ∨ (1048576 ≤ i ∧ bucketFull s1 0 (bucketOf s 0 k) = false) →
        u.tables.busy = some { op := 2, result := 3, index := none, entry := none, scan := none }
        ∧ u.tables.fdb = s1.tables.fdb)
      ∧ (i < fdbSize → (findFdb s1 k = none ∨ findFdb s1 k = some i) → (i < 1048576 → i / 4 = bucketOf s 0 k) →
          (1048576 ≤ i → bucketFull s1 0 (bucketOf s 0 k) = true) →
        u.tables.busy = some { op := 2, result := 0, index := some i, entry := none, scan := none }
        ∧ (homeFdb u i).key = k ∧ (homeFdb u i).dest = bitsOf d 75 64 ∧ (homeFdb u i).valid = true
        ∧ ∀ m, m ≠ i → homeFdb u m = homeFdb s1 m)))
  ∧ (∀ (t i k d : Nat) (s s1 : State), Canonical s → barOpen s 0 = true → s.tables.busy = none →
    s1 = sweepAll (advance t s) → d = tblData s 0 →
    d.testBit 80 = true → operandKey 0 d = some k → findFdb s1 k = none → freeSlot s1 0 k = none →
    Runs (.tblWrite t 0 false i) s (fun u => u.tables.fdb = s1.tables.fdb
      ∧ u.tables.busy = some { op := 2, result := 2, index := none, entry := none, scan := none }
      ∧ (evtStat u 7).testBit 1 = true))
  ∧ (∀ (t i : Nat) (s s1 : State), Canonical s → barOpen s 0 = true → s.tables.busy = none →
    s1 = sweepAll (advance t s) → i < fdbSize →
    Runs (.tblDelete t 0 true i) s (fun u => (homeFdb u i).valid = false
      ∧ u.tables.busy = some { op := 3, result := 0, index := some i, entry := none, scan := none }
      ∧ ∀ m, m ≠ i → homeFdb u m = homeFdb s1 m))
  ∧ (∀ (t i : Nat) (s : State), Canonical s → barOpen s 0 = true → s.tables.busy = none → i < streamSize →
    Runs (.tblDelete t 1 true i) s (fun u => (homeStream u i).valid = false
      ∧ u.tables.busy = some { op := 3, result := 0, index := some i, entry := none, scan := none }
      ∧ ∀ m, m ≠ i → homeStream u m = homeStream s m))
  ∧ (∀ (t i tb : Nat) (s s1 : State), barOpen s 0 = true → s.tables.busy = none → s1 = sweepAll (advance t s) →
    tb < 2 → i < tblSize tb →
    Runs (.tblSearch t tb true i) s (fun u => u.tables.fdb = s1.tables.fdb ∧ u.tables.stream = s.tables.stream
      ∧ u.tables.busy = some { op := 4, result := 0, index := none, entry := none, scan := some {
          table := tb, from_ := i, mask := tblData s 4, want := tblData s 0 &&& tblData s 4
          since := (advance t s).clock, place := placeOf tb i } }))
  ∧ (∀ (t i : Nat) (b : Bool) (s s1 : State), barOpen s 0 = true → s.tables.busy = none →
    s1 = sweepAll (advance t s) →
    Runs (.flushByDest t 0 b i) s (fun u => u.tables.fdb = s1.tables.fdb
      ∧ (i < 512 → u.tables.busy = some { op := 5, result := 0, index := none, entry := none, scan := none }
          ∧ ∀ d, d < 4 → (Tab.get [] u.tables.flush d).contains i = true)
      ∧ (512 ≤ i → u.tables.busy = some { op := 5, result := 3, index := none, entry := none, scan := none }))
    ∧ Runs (.flushByDest t 1 b i) s (fun u => u.tables.fdb = s.tables.fdb ∧ u.tables.flush = s.tables.flush
      ∧ u.tables.busy = some { op := 5, result := 3, index := none, entry := none, scan := none }))
  ∧ (∀ (t i : Nat) (b : Bool) (s s1 : State), Canonical s → barOpen s 0 = true → s.tables.busy = none →
    s1 = sweepAll (advance t s) →
    Runs (.ageNow t 0 b i) s (fun u =>
      u.tables.busy = some { op := 6, result := 0, index := none, entry := none, scan := none }
      ∧ ∀ j, (homeFdb s1 j).valid = true →
        ((homeFdb s1 j).static = true → (homeFdb u j).age = (homeFdb s1 j).age ∧ (homeFdb u j).valid = true)
        ∧ ((homeFdb s1 j).static = false ∧ (homeFdb s1 j).age < 6 →
            (homeFdb u j).age = (homeFdb s1 j).age + 1 ∧ (homeFdb u j).hit = false ∧ (homeFdb u j).valid = true)
        ∧ ((homeFdb s1 j).static = false ∧ 6 ≤ (homeFdb s1 j).age → homeFdb u j = FdbEntry.reset)))
  ∧ (∀ (t : Nat) (b : TblBusy) (s : State), s.tables.busy = some b → b.scan = none → tblSettled s b = true →
    Tab.wf 0#32 s.tables.data = true →
    Runs (.tblCommandComplete t) s (fun u => u.tables.busy = none
      ∧ u.tables.stat = b.result * 16 + (b.index.getD (s.tables.stat / 256)) * 256
      ∧ (∀ e i, b.entry = some e → i < 4 →
          Tab.get 0#32 u.tables.data i = BitVec.ofNat 32 (e / 2 ^ (32 * i)))
      ∧ (b.entry = none → u.tables.data = s.tables.data)))
  ∧ (∀ (t : Nat) (b : TblBusy) (s : State), s.tables.busy = some b → b.scan = none → tblSettled s b = false →
    Runs (.tblCommandComplete t) s (fun u => u = advance t s))
  ∧ (∀ (t upTo : Nat) (b : TblBusy) (c : TblScan) (s : State), s.tables.busy = some b → b.op = 4 → b.scan = some c →
    upTo = min (tblPlaces c.table) (placeOf c.table c.from_ + placesIn c.since (advance t s).clock) →
    Tab.wf 0#32 s.tables.data = true →
    Runs (.tblCommandComplete t) s (fun u => u.tables.fdb = s.tables.fdb ∧ u.tables.stream = s.tables.stream
      ∧ (∀ e, scanHit s c upTo = some e → u.tables.busy = none ∧ u.tables.stat = e.1 * 256
        ∧ ∀ i, i < 4 → Tab.get 0#32 u.tables.data i = BitVec.ofNat 32 (e.2 / 2 ^ (32 * i)))
      ∧ (scanHit s c upTo = none → upTo = tblPlaces c.table → b.index = none → b.entry = none →
        u.tables.busy = none ∧ u.tables.stat = 16 + s.tables.stat / 256 * 256 ∧ u.tables.data = s.tables.data)
      ∧ (scanHit s c upTo = none → upTo ≠ tblPlaces c.table → u.tables.stat = s.tables.stat
        ∧ u.tables.busy = some { b with scan := some { c with place := max c.place upTo } })))

/-- 01 R26, 05 R204: a flit is taken or replayed; after the sixteenth failed replay the Culvert goes down and what
is on it is lost; trained again, its far replicas that are stale are copied. Readings the model took: log entries
66. -/
def Obligations.CulvertLinks : Prop :=
  (∀ (c : Nat) (s : State), c < 20 → culvDown s c = false →
    Runs (.flitReceive c false) s (fun u =>
      (Tab.get 0 s.culv.fails c < 16 → Tab.get 0 u.culv.fails c = Tab.get 0 s.culv.fails c + 1
        ∧ Tab.get 0 u.culv.replays c = Tab.get 0 s.culv.replays c + 1)
      ∧ culvDown u c = false)
    ∧ Runs (.flitReceive c true) s (fun u => (Tab.wf 0 s.culv.fails = true → Tab.get 0 u.culv.fails c = 0)
      ∧ u.culv.replays = s.culv.replays ∧ u.culv.down = s.culv.down))
  ∧ (∀ (c : Nat) (ok : Bool) (s : State), culvDown s c = true → Runs (.flitReceive c ok) s (fun u => u = s))
  ∧ (∀ (t c : Nat) (s : State), c < 20 → culvDown s c = false → 16 ≤ Tab.get 0 s.culv.fails c →
    (∀ p, p ∈ s.buf.transit → p.info.src = .field) →
    Runs (.culvertDown t c) s (fun u => culvDown u c = true ∧ (evtStat u 1).testBit c = true
      ∧ (∀ d, d ≠ c → culvDown u d = culvDown s d)
      ∧ (c < 6 → u.buf.transit = s.buf.transit.filter (fun p =>
          !(decide (p.src ≠ p.dst) && decide (p.src < 4) && decide (meshCulvert p.src p.dst = c))))
      ∧ (6 ≤ c → u.buf.transit = s.buf.transit.filter (fun p =>
          !(decide (p.src = 4) && decide (hdCulvert p.dst = c))))))
  ∧ (∀ (t c : Nat) (s : State), c < 20 → Tab.get 0 s.culv.fails c < 16 →
    Runs (.culvertDown t c) s (fun u => u = advance t s))
  ∧ (∀ (t c : Nat) (s : State), c < 20 → Tab.wf false s.culv.down = true → culvDown s c = true →
    Runs (.culvertRetrain t c true) s (fun u => culvDown u c = false ∧ (evtStat u 2).testBit c = true
      ∧ (∀ d, d ≠ c → culvDown u d = culvDown s d)
      ∧ (c < 6 → ∀ p, p ∈ s.tables.stale →
          (p = (meshEnds c).1 * 4 + (meshEnds c).2 ∨ p = (meshEnds c).2 * 4 + (meshEnds c).1) →
          p % 4 ∈ u.tables.resync))
    ∧ Runs (.culvertRetrain t c false) s (fun u => u = advance t s))

/-- 03 R101, R102, R104, R109, 04 R148, R149, R160, R162, R163, 05 R177: the way in. A frame that fails a receive
check is counted under that check's counter and goes no further; one that passes is counted and makes its first pass
under the bank in use, waits for its pipe in the receive buffer, or is discarded there and counted; a frame in
recirculation makes its next within the pipe's share; a malformed one is counted; a PTP message of the clock's own
instance feeds the servo, and a transparent clock forwards it too. Readings the model took: log entries 30, 35, 69,
89, 90, 113, 114. -/
def Obligations.FrameReceipt : Prop :=
  (∀ (t port k : Nat) (b : Bytes) (ok : Bool) (s : State), port < 512 → portReceives s port = true →
    rxVerdict s port b ok = some k →
    Runs (.frameReceive t port b ok) s (fun u => CountsOnly (advance t s) u
      ∧ counter u (0x2000 + port) k = satAdd64 (counter s (0x2000 + port) k) 1))
  ∧ (∀ (s : State) (port : Nat) (b : Bytes), rxVerdict s port b false = some 0x24
    ∧ (b.length + 4 < 64 → rxVerdict s port b true = some 0x25)
    ∧ (64 ≤ b.length + 4 → maxFrameSize s port < b.length + 4 → rxVerdict s port b true = some 0x26)
    ∧ (64 ≤ b.length + 4 → b.length + 4 ≤ maxFrameSize s port → beField b 12 2 = 0x8808 →
        rxVerdict s port b true = some 0x27)
    ∧ (64 ≤ b.length + 4 → b.length + 4 ≤ maxFrameSize s port → beField b 12 2 ≠ 0x8808 → portUp s port = true →
        rxVerdict s port b true = none))
  ∧ (∀ (t port : Nat) (b : Bytes) (s : State), port < 512 → portReceives s port = true → rxVerdict s port b true = none →
    Runs (.frameReceive t port b true) s (fun u => ∃ (z : State) (f : RFrame),
      f.port = port ∧ f.bytes = b ∧ f.orig = b ∧ f.pass = 0 ∧ f.metered = none ∧ f.counted = false
      ∧ f.held = { forward := none, host := none, tc := none, flow := none }
      ∧ CountsOnly { advance t s with freeCtr := z.freeCtr, nextId := z.nextId } z
      ∧ counter z (0x2000 + port) 0x20 = satAdd64 (counter s (0x2000 + port) 0x20) 1
      ∧ counter z (0x2000 + port) 0x21 = satAdd64 (counter s (0x2000 + port) 0x21) (b.length + 4)
      ∧ (waitingOf s (pipeOf port) = [] → pipeFits (advance t s) (pipeOf port) b = true →
          u = onePass t { f with bank := s.cls.active } (setPipeUse (pipeOf port)
            { pipeUse z (pipeOf port) with first := (pipeUse z (pipeOf port)).first + pipeClocks b } z))
      ∧ (((waitingOf s (pipeOf port) = [] ∧ pipeFits (advance t s) (pipeOf port) b = false)
            ∨ ∃ g rest, waitingOf s (pipeOf port) = g :: rest
                ∧ pipeFits (advance t s) (pipeOf port) g.bytes = false) →
          (((waitingOf s (pipeOf port)).filter (fun g => decide (g.port = port))).map
              (fun g => g.bytes.length + 4)).sum + b.length + 4 ≤ Config.rxBuffer →
          u = setWaiting (pipeOf port) (waitingOf s (pipeOf port) ++ [f]) z)
      ∧ (((waitingOf s (pipeOf port) = [] ∧ pipeFits (advance t s) (pipeOf port) b = false)
            ∨ ∃ g rest, waitingOf s (pipeOf port) = g :: rest
                ∧ pipeFits (advance t s) (pipeOf port) g.bytes = false) →
          Config.rxBuffer < (((waitingOf s (pipeOf port)).filter (fun g => decide (g.port = port))).map
              (fun g => g.bytes.length + 4)).sum + b.length + 4 →
          CountsOnly z u
          ∧ counter u 0x2806 (pipeOf port + 1) = satAdd64 (counter s 0x2806 (pipeOf port + 1)) 1)))
  ∧ (∀ (t port : Nat) (b : Bytes) (ok : Bool) (s : State), port < 512 → portReceives s port = false →
    Runs (.frameReceive t port b ok) s (fun u => u = advance t s))
  ∧ (∀ (t port : Nat) (b : Bytes) (s : State), port < 512 →
    (ptpAt (parseFrame s s.cls.active port 0 0 0 b)).isSome = true →
    ∃ u, exec (.ptpMessage t port b) s = .next u ∧ exec (.frameReceive t port b true) s = .next u)
  ∧ (∀ (t par : Nat) (f : RFrame) (x : Parsed) (s : State),
    x = parseFrame s f.bank f.port f.pass f.tag f.stamp f.bytes →
    x.fin = none → fdpTaken s f.port x f.bytes = false → (ptpAt x).isSome = true → ptpMine s f.port x = true →
    ptpThrough s f.port x = false → s.boot.coresUp = true →
    (timeSource s ≠ 1 ∨ s.time.state = tsLOCKED ∨ s.time.state = tsHOLDOVER) →
    par = (if ptpType x = 11 ∧ (s.time.parent = 0xFFFF ∨ Config.ptpPicks s.freeCtr = true) then f.port
      else s.time.parent) →
    (onePass t f s).time.parent = par ∧ (onePass t f s).freeCtr ≠ s.freeCtr ∧ (onePass t f s).buf = s.buf
      ∧ (onePass t f s).tables = s.tables
      ∧ (par ≠ f.port → (onePass t f s).time = { s.time with parent := par })
      ∧ (par = f.port → (onePass t f s).time.offset = Config.ptpOffset s.freeCtr % 2 ^ 64
          ∧ (onePass t f s).time.delay = Config.ptpDelay s.freeCtr % 2 ^ 64
          ∧ (ptpType x = 0 ∨ ptpType x = 11 → (onePass t f s).time.lastMsg = s.clock
              ∧ (timeSource s = 1 → (onePass t f s).time.state = tsLOCKED))))
  ∧ (∀ (t : Nat) (f : RFrame) (x : Parsed) (s : State), x = parseFrame s f.bank f.port f.pass f.tag f.stamp f.bytes →
    x.fin = none → fdpTaken s f.port x f.bytes = false → x.flags.testBit fDepth = false →
    (ptpAt x).isSome = true → ptpThrough s f.port x = true →
    onePass t f s = passActions t f x ((matchRule (bankAt s f.bank) x).getD (zeros 32)) (ptpTake f.port x f.bytes s))
  ∧ (∀ (t pipe : Nat) (s : State),
    (∀ f rest z, recircOf s pipe = f :: rest →
      (pipeUse (advance t s) pipe).recirc + pipeClocks f.bytes ≤ 64 →
      z = onePass t f (modCls (fun c => { c with recirc := Tab.set [] c.recirc pipe rest })
        (setPipeUse pipe { pipeUse (advance t s) pipe with
          recirc := (pipeUse (advance t s) pipe).recirc + pipeClocks f.bytes } (advance t s))) →
      Runs (.recircPass t pipe) s (fun u => u = runWaiting t pipe (waitingOf z pipe) z))
    ∧ (recircOf s pipe = [] ∨ (∃ f rest, recircOf s pipe = f :: rest
        ∧ 64 < (pipeUse (advance t s) pipe).recirc + pipeClocks f.bytes) →
      Runs (.recircPass t pipe) s (fun u =>
        (waitingOf s pipe = [] → u = advance t s)
        ∧ (∀ g rest, waitingOf s pipe = g :: rest → pipeFits (advance t s) pipe g.bytes = false → u = advance t s)
        ∧ (∀ g, waitingOf s pipe = [g] → pipeFits (advance t s) pipe g.bytes = true →
            u = firstPass t g (setWaiting pipe [] (advance t s))))))
  ∧ (∀ (t c : Nat) (f : RFrame) (x : Parsed) (s : State), x = parseFrame s f.bank f.port f.pass f.tag f.stamp f.bytes →
    x.fin = some (.malformed c) → cfgN s 0x2801 5 ≠ 1 →
    counter (onePass t f s) 0x2803 c = satAdd64 (counter s 0x2803 c) 1 ∧ (onePass t f s).buf = s.buf
      ∧ (onePass t f s).tables = s.tables
      ∧ (onePass t f s).cls.malformedLast = beBytes 2 f.port ++ [byteOf c, byteOf (dieOf f.port)])
  ∧ (∀ (t : Nat) (f : RFrame) (x : Parsed) (s : State), x = parseFrame s f.bank f.port f.pass f.tag f.stamp f.bytes →
    x.fin = none → fdpTaken s f.port x f.bytes = false → ptpAt x = none → x.flags.testBit fDepth = false →
    onePass t f s = passActions t f x ((matchRule (bankAt s f.bank) x).getD (zeros 32)) s)
  ∧ (∀ (t die : Nat) (s : State), s.cls.retiring = [die] →
    s.cls.recirc.any (fun e => decide (e.1 / 4 = die) && e.2.any (fun f => decide (f.bank ≠ s.cls.active))) = false →
    Runs (.bankRetire t die) s (fun u => u.cls.retiring = [] ∧ (evtStat u 7).testBit 0 = true))

/-- 04 R157 to R160, 05 R177, R182, R185, 08 R282: what an action does with a frame. DISCARD ends it; a rule counter
counts it; RECIRCULATE queues it for its pipe's next pass; FORWARD sends one copy to its port; a frame outside its
VLAN is discarded and counted; a known address gives the entry's port, never the port the frame came from. Readings
the model took: log entries 69, 89. -/
def Obligations.PassActions : Prop :=
  (∀ (t : Nat) (f : RFrame) (x : Parsed) (a : Bytes) (s : State), actHas a 0 = true → actHas a 3 = false →
    actHas a 4 = false →
    (passActions t f x a s).buf = s.buf ∧ (passActions t f x a s).tables = s.tables
      ∧ (passActions t f x a s).sched = s.sched ∧ (passActions t f x a s).cls.recirc = s.cls.recirc
      ∧ (actHas a 11 = false → passActions t f x a s = s))
  ∧ (∀ (die len : Nat) (a : Bytes) (s : State), actHas a 11 = true →
    Tab.wf 0 s.cls.ruleFrames = true → Tab.wf 0 s.cls.ruleBytes = true →
    Tab.get 0 (ruleCount die len a s).cls.ruleFrames (ruleCounterKey die (actCounter a))
        = (Tab.get 0 s.cls.ruleFrames (ruleCounterKey die (actCounter a)) + 1) % 2 ^ 64
      ∧ Tab.get 0 (ruleCount die len a s).cls.ruleBytes (ruleCounterKey die (actCounter a))
        = (Tab.get 0 s.cls.ruleBytes (ruleCounterKey die (actCounter a)) + len) % 2 ^ 64)
  ∧ (∀ (t : Nat) (f : RFrame) (x : Parsed) (a : Bytes) (s : State), actHas a 13 = true → actHas a 0 = false →
    actHas a 3 = false → actHas a 4 = false → f.pass < 2 → (recircOf s (pipeOf f.port)).length < 16 →
    (passActions t f x a s).buf = s.buf ∧ (passActions t f x a s).tables = s.tables
      ∧ ∃ g, recircOf (passActions t f x a s) (pipeOf f.port) = recircOf s (pipeOf f.port) ++ [g]
        ∧ g.pass = f.pass + 1 ∧ g.tag = actTag a ∧ g.bytes = rewrite s f.port a f.bytes ∧ g.held = heldBy a f.held
        ∧ g.bank = f.bank ∧ g.orig = f.orig ∧ g.metered = f.metered)
  ∧ (∀ (t : Nat) (f : RFrame) (x : Parsed) (b : Bytes) (c : Option Colour) (s : State), x.cls ≠ 9 →
    ((vlanAt s (vidOf s f.port b)).valid = false ∨ mapBit (vlanAt s (vidOf s f.port b)).members f.port = false) →
    counter (finalPass t f x b [] c s) 0x2904 0xB = satAdd64 (counter s 0x2904 0xB) 1
      ∧ (finalPass t f x b [] c s).buf = s.buf ∧ (finalPass t f x b [] c s).tables = s.tables)
  ∧ (∀ (t dest : Nat) (f : RFrame) (x : Parsed) (b : Bytes) (s : State), x.cls ≠ 9 →
    (vlanAt s (vidOf s f.port b)).valid = true → mapBit (vlanAt s (vidOf s f.port b)).members f.port = true →
    cfgN s 0x2900 3 ≠ 1 →
    streamOf s (dieOf f.port) (vidOf s f.port b) (beField f.bytes 0 6) (beField f.bytes 6 6) = none →
    f.held.forward = some dest → f.held.host = none → f.held.flow = none →
    dest < 512 → dieOf dest = dieOf f.port → (s.port dest).redirect = false →
    ∃ p, (finalPass t f x b [] none s).buf.transit = s.buf.transit ++ [p] ∧ p.bytes = b ∧ p.src = dieOf f.port
      ∧ p.dst = dieOf f.port ∧ p.hosts = [] ∧ p.ports = [(dest, classOf s f.port f.held.tc b, none)]
      ∧ p.owner = f.port ∧ p.info.inPort = f.port ∧ p.info.stamp = f.stamp ∧ p.info.yellow = false
      ∧ p.ticket = s.nextId)
  ∧ (∀ (t : Nat) (f : RFrame) (x : Parsed) (b : Bytes) (c : Option Colour) (s : State),
    c = some .discard ∨ (c = some .red
      ∧ streamOf s (dieOf f.port) (vidOf s f.port b) (beField f.bytes 0 6) (beField f.bytes 6 6) = none) →
    (vlanAt s (vidOf s f.port b)).valid = true → mapBit (vlanAt s (vidOf s f.port b)).members f.port = true →
    (finalPass t f x b [] c s).buf = s.buf ∧ (finalPass t f x b [] c s).tables = s.tables
      ∧ (finalPass t f x b [] c s).siphon = s.siphon)
  ∧ (∀ (die port i dmac : Nat) (v : Vlan) (e : FdbEntry) (s : State), repFind s die (fdbKey v.fid dmac) = some (i, e) →
    (e.dest = port → (bridged die port v dmac s).1 = none
      ∧ counter (bridged die port v dmac s).2 0x2904 0xA = satAdd64 (counter s 0x2904 0xA) 1)
    ∧ (e.dest ≠ port → e.dest < 512 → bridged die port v dmac s = (some (if mapBit v.members e.dest then [e.dest] else []), s)))

/-- 01 R22, 02 R70, 03 R101, R105, R120, 07 R244, R245, R252, 08 R262, R264, R265, R273, R274, R285, 15 R530: the
way out. A parcel that arrives in its turn is stored, once for equal copies, and enqueued to its ports; the port
starts the frame that is due; on completion it has left and is counted; injected frames and the frames of polders
join their own schedulers. Readings the model took: log entries 17, 18, 91. -/
def Obligations.FrameDeparture : Prop :=
  (∀ (t k port tc len : Nat) (p : Parcel) (s : State),
    s.buf.transit.find? (fun p => decide (p.ticket = k) && isNext s p) = some p → p.ports = [(port, tc, none)] →
    p.hosts = [] → p.info.src = .field → (s.port port).redirect = false → portUp s port = true →
    len = (editCopy s port tc p.info p.bytes).length + 4
      - tagGone s port p.info (editCopy s port tc p.info p.bytes) → len ≤ maxFrameSize s port →
    overWindow s port tc len = false → ecnThreshold s port tc = 0 →
    (admits s p.dst p.owner (cellsOf (p.bytes.length + 4))).1 = true →
    Runs (.frameEnqueue t k .clean) s (fun u =>
      u.buf.transit = s.buf.transit.filter (fun q => decide (q.ticket ≠ k))
      ∧ ∃ f, portQueue (u.psched port) tc = portQueue (s.psched port) tc ++ [f]
        ∧ f.bytes = editCopy s port tc p.info p.bytes ∧ f.enq = t ∧ f.info = p.info
        ∧ f.cells = cellsOf (p.bytes.length + 4) ∧ f.len = len
        ∧ (sharedFrame s p.dst p.info.frame p.bytes = none → f.sid = s.nextId)
        ∧ (∀ sid, sharedFrame s p.dst p.info.frame p.bytes = some sid → f.sid = sid ∧ u.buf.dies = s.buf.dies)))
  ∧ (∀ (t k port tc : Nat) (p : Parcel) (s : State),
    s.buf.transit.find? (fun p => decide (p.ticket = k) && isNext s p) = some p → p.ports = [(port, tc, none)] → p.hosts = [] →
    p.info.src = .field → (s.port port).redirect = false → portUp s port = false →
    Runs (.frameEnqueue t k .clean) s (fun u => u.sched = s.sched
      ∧ u.buf = { s.buf with transit := s.buf.transit.filter (fun q => decide (q.ticket ≠ k)) }
      ∧ counter u (0x2000 + port) 0x2B = satAdd64 (counter s (0x2000 + port) 0x2B) 1))
  ∧ (∀ (t k : Nat) (fault : BufFault) (s : State),
    s.buf.transit.find? (fun p => decide (p.ticket = k) && isNext s p) = none →
    Runs (.frameEnqueue t k fault) s (fun u => u = advance t s))
  ∧ (∀ (t port : Nat) (b : Bytes) (s : State), port < 512 →
    s.boot.coresUp = true ∨ (∃ m, s.dict.outbox.find? (fun m => decide (m.port = port)) = some m
      ∧ b.drop (b.length - m.msg.length) = m.msg) → s.boot.fieldUp = true →
    portExists s port = true → (s.psched port).inject.length < 64 → portUp s port = true →
    b.length + 4 ≤ maxFrameSize s port →
    (admits s (dieOf port) ownerFirmware (cellsOf (b.length + 4))).1 = true →
    Runs (.injectionFrame t port b) s (fun u => ∃ f, (u.psched port).inject = (s.psched port).inject ++ [f]
      ∧ f.bytes = b ∧ f.enq = t ∧ f.len = b.length + 4
      ∧ (∀ m, s.dict.outbox.find? (fun m => decide (m.port = port)) = some m →
          u.dict.outbox = (if b.drop (b.length - m.msg.length) = m.msg then s.dict.outbox.erase m else s.dict.outbox))
      ∧ (s.dict.outbox.find? (fun m => decide (m.port = port)) = none → u.dict.outbox = s.dict.outbox)))
  ∧ (∀ (t port : Nat) (b : Bytes) (s : State), port < 512 → s.boot.coresUp = true → s.boot.fieldUp = true →
    portExists s port = true → 64 ≤ (s.psched port).inject.length →
    Runs (.injectionFrame t port b) s (fun u => CountsOnly (takeOutbox port b (advance t s)) u
      ∧ counter u 0x1430 3 = satAdd64 (counter s 0x1430 3) 1))
  ∧ (∀ (t port : Nat) (b : Bytes) (s : State), s.boot.coresUp = false →
    (∀ m, s.dict.outbox.find? (fun m => decide (m.port = port)) = some m → b.drop (b.length - m.msg.length) ≠ m.msg) →
    Runs (.injectionFrame t port b) s (fun u => u = advance t s))
  ∧ (∀ (t port : Nat) (pick : Option Nat × QFrame) (s : State), port < 512 →
    (s.psched port).wireEnd ≤ t + selectLead → portPick (advance t s) port (t + selectLead) = some pick →
    portUp s port = true → pick.2.info.stream = none → Tab.wf PortSched.reset s.sched.ports = true →
    Runs (.txSelect t port) s (fun u => ∃ x, (u.psched port).sending = (s.psched port).sending ++ [x]
      ∧ x.tc = pick.1 ∧ x.start = t + selectLead ∧ x.frame.sid = pick.2.sid ∧ x.frame.info = pick.2.info
      ∧ x.cut = startsCut (advance t s) port pick
      ∧ (u.psched port).wireEnd = t + selectLead + (x.frame.bytes.length + 24) * psPerByte s port * 1000))
  ∧ (∀ (t port : Nat) (s : State), port < 512 →
    (t + selectLead < (s.psched port).wireEnd ∨ portPick (advance t s) port (t + selectLead) = none) →
    Runs (.txSelect t port) s (fun u => u = advance t s))
  ∧ (∀ (t port : Nat) (x : TxFrame) (rest : List TxFrame) (s : State), port < 512 →
    Tab.wf PortSched.reset s.sched.ports = true → (s.psched port).sending = x :: rest →
    Runs (.frameTxComplete t port .clean) s (fun u => .frame port x.frame.bytes false ∈ u.out
      ∧ (u.psched port).sending = rest
      ∧ counter u (0x2000 + port) 0x22 = satAdd64 (counter s (0x2000 + port) 0x22) 1
      ∧ counter u (0x2000 + port) 0x23 = satAdd64 (counter s (0x2000 + port) 0x23) (x.frame.bytes.length + 4))
    ∧ Runs (.frameTxComplete t port .underrun) s (fun u => .frame port x.frame.bytes x.cut ∈ u.out
      ∧ (u.psched port).sending = rest)
    ∧ (x.frame.info.src = .field → Runs (.frameTxComplete t port .data) s (fun u => (u.psched port).sending = rest
      ∧ counter u (0x2000 + port) 0x22 = counter s (0x2000 + port) 0x22
      ∧ counter u 0x2B05 8 = satAdd64 (counter s 0x2B05 8) 1)))
  ∧ (∀ (t port : Nat) (fault : BufFault) (s : State), port < 512 → (s.psched port).sending = [] →
    Runs (.frameTxComplete t port fault) s (fun u => u = advance t s))
  ∧ (∀ (t die fn : Nat) (f : HtxFrame) (s : State), die < 4 → htxPick s (s.htx die) = some fn →
    htxNext (s.htx die) fn = some f → culvDown s (hdCulvert die) = false →
    Runs (.hostTxSelect t die) s (fun u => (u.htx die).frames = (s.htx die).frames.erase f
      ∧ ∃ p, u.buf.transit = s.buf.transit ++ [p] ∧ p.src = 4 ∧ p.dst = die ∧ p.bytes = f.bytes ∧ p.hosts = []
        ∧ p.ports = [(f.port, f.tc, none)] ∧ p.info.src = .hostTx fn f.q f.idx
        ∧ p.owner = (s.polder fn).owner.getD 0xFFF))
  ∧ (∀ (t die : Nat) (s : State), htxPick s (s.htx die) = none →
    Runs (.hostTxSelect t die) s (fun u => u = advance t s))

/-- 08 R287, R288, 11 R377: a sample period that expires writes a record of its queue to the SAMPLE ring of the
polder that owns it, or adds to the records lost. Readings the model took: log entries 99. -/
def Obligations.LatencySamples : Prop :=
  (∀ (t port tc q : Nat) (s : State), Canonical s → port < 512 → tc < 8 → samplePeriod s port tc ≠ 0 →
    sampleRing s 0 = some q → ringFull (s.queue 0 q) = false →
    requestRefused s 0 q (qBase (s.queue 0 q) + 64 * (s.queue 0 q).tail) 64 = false →
    Runs (.samplePeriodExpiry t (.port port tc)) s (fun u =>
      (∃ b, Writes s 0 q (qBase (s.queue 0 q) + 64 * (s.queue 0 q).tail) b u ∧ b.length = 64
        ∧ byteAt b 0 = 1 + 128 * phaseBit (s.queue 0 q) ∧ leField b 2 2 = port ∧ leField b 4 2 = tc)
      ∧ (u.queue 0 q).sampleSeq = ((s.queue 0 q).sampleSeq + 1) % 2 ^ 32
      ∧ (u.queue 0 q).tail = (if (s.queue 0 q).tail + 1 = qSize (s.queue 0 q) then 0 else (s.queue 0 q).tail + 1)))
  ∧ (∀ (t port tc : Nat) (s : State), port < 512 → tc < 8 → samplePeriod s port tc ≠ 0 → sampleRing s 0 = none →
    Runs (.samplePeriodExpiry t (.port port tc)) s (fun u =>
      Tab.get Track.reset (u.psched port).track tc = (let x := Tab.get Track.reset (s.psched port).track tc
        { x with lost := satAdd16 x.lost 1 })
      ∧ u.wq = s.wq))
  ∧ (∀ (t fn q r : Nat) (s : State), Canonical s → fn < 4096 → q < 1024 → qSamplePeriod (s.queue fn q) ≠ 0 →
    (s.queue fn q).st ≠ .disabled → sampleRing s fn = some r → ringFull (s.queue fn r) = false →
    requestRefused s fn r (qBase (s.queue fn r) + 64 * (s.queue fn r).tail) 64 = false →
    Runs (.samplePeriodExpiry t (.host fn q)) s (fun u =>
      (∃ b, Writes s fn r (qBase (s.queue fn r) + 64 * (s.queue fn r).tail) b u ∧ b.length = 64
        ∧ byteAt b 0 = 2 + 128 * phaseBit (s.queue fn r) ∧ leField b 2 2 = fn ∧ leField b 4 2 = q)
      ∧ (u.queue fn r).sampleSeq = ((s.queue fn r).sampleSeq + 1) % 2 ^ 32))

/-! ### Requests of the object dictionary (spec 02) -/

/-- 02 R50 to R54, R71, R74: READ of a value the requester may read answers it; WRITE of one it may write, that its
owner takes, sets it and no other; the abort codes of what is refused, in the order of Table 2.8.
Readings the model took: log entries 78, 79, 80. -/
def Obligations.ValueRequests : Prop :=
  (∀ (t : Nat) (f : Bool) (b : Bytes) (s : State) (m : Msg) (r : ObjRow), m = parseMsg b 0 → MbxHolds s b 1 →
    objDesc m.index m.sub = some r → r.acc ≠ .wo → r.acc ≠ .act → m.ty = 0 ∨ m.ty = r.ty →
    (r.rd ≤ mbxRole (advance t s) → (objValue (advance t s) 0 m.index m.sub r).length ≤ 4068 →
      Runs (.read ⟨t, .mailbox, f⟩) s (fun u =>
        Responds u b 0 (objValue (advance t s) 0 m.index m.sub r).length r.ty (objValue (advance t s) 0 m.index m.sub r)
        ∧ AnswersOnly (advance t s) u))
    ∧ (r.rd ≤ mbxRole (advance t s) → 4068 < (objValue (advance t s) 0 m.index m.sub r).length →
      Runs (.read ⟨t, .mailbox, f⟩) s (fun u => Aborted u b 6 ∧ AnswersOnly (advance t s) u)))
  ∧ (∀ (t : Nat) (f : Bool) (b : Bytes) (s : State) (m : Msg), m = parseMsg b 0 → MbxHolds s b 1 →
    (objKnown m.index = false →
      Runs (.read ⟨t, .mailbox, f⟩) s (fun u => Aborted u b 1 ∧ AnswersOnly (advance t s) u))
    ∧ (objKnown m.index = true → objDesc m.index m.sub = none →
      Runs (.read ⟨t, .mailbox, f⟩) s (fun u => Aborted u b 2 ∧ AnswersOnly (advance t s) u))
    ∧ (∀ r, objDesc m.index m.sub = some r → r.acc = .wo ∨ r.acc = .act → r.rd ≤ mbxRole (advance t s) →
      Runs (.read ⟨t, .mailbox, f⟩) s (fun u => Aborted u b 4 ∧ AnswersOnly (advance t s) u)))
  ∧ (∀ (t : Nat) (f : Bool) (b : Bytes) (s : State) (m : Msg) (r : ObjRow), m = parseMsg b 0 → MbxHolds s b 2 →
    (s.dict.vals.map (·.1)).Nodup → NoOnChange s →
    ownWrite m = false → m.index ≠ 0x1421 → objDesc m.index m.sub = some r → r.acc = .rw ∨ r.acc = .rwp →
    r.wr ≤ mbxRole (advance t s) → m.ty = r.ty → stateAborts (advance t s) m.index m.sub = false →
    encodes r.ty r.len m.data = true → inRange m.index m.sub r m.data = true →
    ownerAborts (advance t s) 0 m.index m.sub m.data = [] →
    Runs (.write ⟨t, .mailbox, f⟩) s (fun u => Answered u b 0 [] ∧ cfg u m.index m.sub = m.data
      ∧ (∀ i k, k < 256 → (i, k) ≠ (m.index, m.sub) → cfg u i k = cfg s i k)))
  ∧ (∀ (t : Nat) (f : Bool) (b : Bytes) (s : State) (m : Msg), m = parseMsg b 0 → MbxHolds s b 2 → NoOnChange s →
    m.index = 0x1421 → m.sub = 0 → m.ty = 9 → m.data.length = 32 →
    Runs (.write ⟨t, .mailbox, f⟩) s (fun u => Answered u b 0 [] ∧ Tab.get (zeros 32) u.boot.nonces 0 = m.data))
  ∧ (∀ (t : Nat) (f : Bool) (b : Bytes) (s : State) (m : Msg) (r : ObjRow), m = parseMsg b 0 → MbxHolds s b 2 → NoOnChange s →
    ownWrite m = false → objDesc m.index m.sub = some r →
    (r.acc = .ro → Runs (.write ⟨t, .mailbox, f⟩) s (fun u => Aborted u b 3 ∧ AnswersOnly (advance t s) u))
    ∧ (r.acc = .act → r.wr ≤ mbxRole (advance t s) →
      Runs (.write ⟨t, .mailbox, f⟩) s (fun u => Aborted u b 6 ∧ AnswersOnly (advance t s) u))
    ∧ (r.acc = .rw ∨ r.acc = .rwp →
      (stateAborts (advance t s) m.index m.sub = true →
        Runs (.write ⟨t, .mailbox, f⟩) s (fun u => Aborted u b 8 ∧ AnswersOnly (advance t s) u))
      ∧ (stateAborts (advance t s) m.index m.sub = false → ownerAborts (advance t s) 0 m.index m.sub m.data = [] →
        (r.wr ≤ mbxRole (advance t s) → m.ty ≠ r.ty ∨ encodes r.ty r.len m.data = false →
          Runs (.write ⟨t, .mailbox, f⟩) s (fun u => Aborted u b 6 ∧ AnswersOnly (advance t s) u))
        ∧ (r.wr ≤ mbxRole (advance t s) → m.ty = r.ty → encodes r.ty r.len m.data = true →
          inRange m.index m.sub r m.data = false →
          Runs (.write ⟨t, .mailbox, f⟩) s (fun u => Aborted u b 7 ∧ AnswersOnly (advance t s) u)))))

/-- 02 R82, R83, Table 2.6: READ_BLOCK takes a snapshot and answers its blocks, with type 0 where a block has no data;
WRITE_BLOCK collects blocks while MORE is set and writes the whole value at the last; a block that does not follow is
answered STATE and ends the transfer; snapshots and stagings that go unused for 10 s are dropped, and not before.
Readings the model took: log entries 78, 79. -/
def Obligations.BlockTransfers : Prop :=
  (∀ (t : Nat) (f : Bool) (b : Bytes) (s : State) (m : Msg), m = parseMsg b 0 → MbxHolds s b 3 →
    (∀ r, objDesc m.index m.sub = some r → r.acc ≠ .wo → r.acc ≠ .act → m.ty = 0 ∨ m.ty = r.ty →
      r.rd ≤ mbxRole (advance t s) →
      (∀ v, (m.pa = 0 ∧ v = objValue (advance t s) 0 m.index m.sub r)
          ∨ (m.pa ≠ 0 ∧ snapOf (advance t s) 0 m.index m.sub = some v ∧ m.pa ≤ v.length) →
        Runs (.readBlock ⟨t, .mailbox, f⟩) s (fun u =>
          Responds u b m.pa v.length (if slice v m.pa (min m.pb 4068) = [] then 0 else r.ty)
            (slice v m.pa (min m.pb 4068))
          ∧ snapOf u 0 m.index m.sub = some v
          ∧ (∀ w i k, (w, i, k) ≠ (0, m.index, m.sub) → snapOf u w i k = snapOf (advance t s) w i k)
          ∧ AnswersOnly { advance t s with dict := { s.dict with snaps := u.dict.snaps } } u))
      ∧ (∀ v, m.pa ≠ 0 → snapOf (advance t s) 0 m.index m.sub = some v → v.length < m.pa →
        Runs (.readBlock ⟨t, .mailbox, f⟩) s (fun u => Aborted u b 7 ∧ AnswersOnly (advance t s) u)))
    ∧ (m.pa ≠ 0 → snapOf (advance t s) 0 m.index m.sub = none →
      Runs (.readBlock ⟨t, .mailbox, f⟩) s (fun u => Aborted u b 8 ∧ AnswersOnly (advance t s) u))
    ∧ (m.pa = 0 → objDesc m.index m.sub = none → Runs (.readBlock ⟨t, .mailbox, f⟩) s (fun u =>
      Aborted u b (if objKnown m.index then 2 else 1) ∧ AnswersOnly (advance t s) u)))
  ∧ (∀ (t w i k : Nat) (s : State),
    ((∀ x ∈ s.dict.snaps, x.session = w → x.index = i → x.sub = k → x.at_ + 10 ^ 16 ≤ (advance t s).clock) →
      Runs (.snapshotExpiry t w ⟨i, k⟩) s (fun u =>
        u = modDict (fun d => { d with snaps := u.dict.snaps }) (advance t s)
        ∧ ∀ x, x ∈ u.dict.snaps ↔ x ∈ s.dict.snaps ∧ ¬(x.session = w ∧ x.index = i ∧ x.sub = k)))
    ∧ ((∃ x ∈ s.dict.snaps, x.session = w ∧ x.index = i ∧ x.sub = k ∧ (advance t s).clock < x.at_ + 10 ^ 16) →
      Runs (.snapshotExpiry t w ⟨i, k⟩) s (fun u => u = advance t s)))
  ∧ (∀ (t : Nat) (f : Bool) (b v : Bytes) (s : State) (m : Msg) (r : ObjRow), m = parseMsg b 0 → MbxHolds s b 4 →
    NoOnChange s → (s.dict.vals.map (·.1)).Nodup → objDesc m.index m.sub = some r →
    r.acc = .rw ∨ r.acc = .rwp ∨ r.acc = .wo → r.wr ≤ mbxRole (advance t s) → m.ty = r.ty →
    (m.pa = 0 ∧ v = m.data)
      ∨ (m.pa ≠ 0 ∧ ∃ w, stagedOf (advance t s) 0 m.index m.sub = some w ∧ w.length = m.pa ∧ v = w ++ m.data) →
    m.index ≠ 0x1410 → ¬(m.index = 0x1140 ∧ m.sub = 1) →
    (m.flags.testBit 2 = true → v.length ≤ m.pb → Runs (.writeBlock ⟨t, .mailbox, f⟩) s (fun u =>
      Responds u b m.pa v.length 0 [] ∧ stagedOf u 0 m.index m.sub = some v
      ∧ (∀ w i k, (w, i, k) ≠ (0, m.index, m.sub) → stagedOf u w i k = stagedOf (advance t s) w i k)
      ∧ AnswersOnly { advance t s with dict := { s.dict with stagings := u.dict.stagings } } u))
    ∧ (m.flags.testBit 2 = true → m.pb < v.length →
      Runs (.writeBlock ⟨t, .mailbox, f⟩) s (fun u => Aborted u b 7 ∧ AnswersOnly (advance t s) u))
    ∧ (m.flags.testBit 2 = false → ownWrite m = false → m.index ≠ 0x1421 →
      stateAborts (advance t s) m.index m.sub = false → encodes r.ty r.len v = true →
      ownerAborts (advance t s) 0 m.index m.sub v = [] →
      (m.pb = v.length → inRange m.index m.sub r v = true → Runs (.writeBlock ⟨t, .mailbox, f⟩) s (fun u =>
        Responds u b m.pa v.length 0 [] ∧ cfg u m.index m.sub = v
        ∧ (∀ i k, k < 256 → (i, k) ≠ (m.index, m.sub) → cfg u i k = cfg s i k)
        ∧ stagedOf u 0 m.index m.sub = none))
      ∧ (m.pb ≠ v.length ∨ inRange m.index m.sub r v = false → Runs (.writeBlock ⟨t, .mailbox, f⟩) s (fun u =>
        Aborted u b 7 ∧ u.dict.vals = s.dict.vals ∧ stagedOf u 0 m.index m.sub = none))))
  ∧ (∀ (t : Nat) (f : Bool) (b : Bytes) (s : State) (m : Msg), m = parseMsg b 0 → MbxHolds s b 4 → NoOnChange s →
    (m.pa ≠ 0 → (stagedOf (advance t s) 0 m.index m.sub).map (·.length) ≠ some m.pa →
      Runs (.writeBlock ⟨t, .mailbox, f⟩) s (fun u => Aborted u b 8 ∧ u.dict.vals = s.dict.vals
        ∧ ((objDesc m.index m.sub).isSome = true → stagedOf u 0 m.index m.sub = none)))
    ∧ (m.pa = 0 → objDesc m.index m.sub = none → Runs (.writeBlock ⟨t, .mailbox, f⟩) s (fun u =>
      Aborted u b (if objKnown m.index then 2 else 1) ∧ AnswersOnly (advance t s) u)))
  ∧ (∀ (t w i k : Nat) (s : State),
    ((∀ x ∈ s.dict.stagings, x.session = w → x.index = i → x.sub = k → x.at_ + 10 ^ 16 ≤ (advance t s).clock) →
      Runs (.stagingExpiry t w ⟨i, k⟩) s (fun u =>
        (∀ x, x ∈ u.dict.stagings ↔ x ∈ s.dict.stagings ∧ ¬(x.session = w ∧ x.index = i ∧ x.sub = k))
        ∧ (i ≠ 0x1410 → u = modDict (fun d => { d with stagings := u.dict.stagings }) (advance t s))
        ∧ (i = 0x1410 → s.boot.slots.length = 2 → s.boot.slot ≤ 1 →
          (∃ x ∈ s.dict.stagings, x.session = w ∧ x.index = i ∧ x.sub = k) →
          slotNo u (1 - s.boot.slot) = { state := 2, other := 1, hdr := ImgHdr.none }
          ∧ slotNo u s.boot.slot = slotNo s s.boot.slot)))
    ∧ ((∃ x ∈ s.dict.stagings, x.session = w ∧ x.index = i ∧ x.sub = k ∧ (advance t s).clock < x.at_ + 10 ^ 16) →
      Runs (.stagingExpiry t w ⟨i, k⟩) s (fun u => u = advance t s)))

/-- 02 R69 to R81, R84, R85: a network message that meets every check is counted, moves its session's window and is
answered under the session's key with the next number, and refused where its role is too low; one that fails a check
is discarded and counted, one of another epoch answered STATE; a repeat gets the kept response; SUBSCRIBE is
answered with a number, and NOTIFY is sent. Readings the model took: log entries 26, 59, 71, 79, 96. -/
def Obligations.NetworkRequests : Prop :=
  (∀ (t : Nat) (f : Bool) (port : Option Nat) (addr b : Bytes) (s : State) (m : Msg) (r : ObjRow), Canonical s →
    m = parseMsg b 16 → NetAsks s t port addr b 1 → NetFresh s b → objDesc m.index m.sub = some r → r.acc = .rwp →
    12 < m.index → m.index ≠ 0x1421 → m.index ≠ 0x1440 → m.sub ≠ 0 → r.rd ≤ netRole (advance t s) m.session → m.ty = 0 ∨ m.ty = r.ty →
    (cfg s m.index m.sub).length ≤ 1356 →
    Runs (.read ⟨t, .net port addr b, f⟩) s (fun u =>
      (NetTag s b → Sends s u m.session port 1 1 m.reqId ((s.session m.session).tx + 1) m.index m.sub r.ty 0
            (cfg s m.index m.sub).length (cfg s m.index m.sub)
        ∧ (u.session m.session).tx = (s.session m.session).tx + 1
        ∧ (u.session m.session).rxHigh = max (s.session m.session).rxHigh m.seq
        ∧ windowOk (u.session m.session) m.seq = false
        ∧ (∃ k ∈ (u.session m.session).kept, k.reqId = m.reqId ∧ k.body = cfg s m.index m.sub)
        ∧ counter u 0x1110 1 = satAdd64 (counter s 0x1110 1) 1
        ∧ (∀ n, n ≠ m.session → u.session n = s.session n))
      ∧ (¬ NetTag s b → counter u 0x1110 2 = satAdd64 (counter s 0x1110 2) 1
        ∧ counter u 0x4101 4 = satAdd64 (counter s 0x4101 4) 1 ∧ (evtStat u 0).testBit 3 = true
        ∧ ∀ n, u.session n = s.session n)))
  ∧ (∀ (t : Nat) (f : Bool) (port : Option Nat) (addr b : Bytes) (s : State) (m : Msg) (k : Kept), Canonical s →
    m = parseMsg b 16 → NetAsks s t port addr b 1 → m.epoch = s.dict.epoch →
    windowOk (s.session m.session) m.seq = true → (s.session m.session).kept.find? (fun x => sameReq m x && keptLive (advance t s) x) = some k →
    Runs (.read ⟨t, .net port addr b, f⟩) s (fun u => NetTag s b →
      Sends s u m.session port k.flags k.kind k.reqId ((s.session m.session).tx + 1) k.index k.sub k.ty k.paramA k.paramB
        k.body ∧ (u.session m.session).kept = (s.session m.session).kept))
  ∧ (∀ (t : Nat) (f : Bool) (port : Option Nat) (addr b : Bytes) (s : State) (m : Msg), Canonical s →
    m = parseMsg b 16 → NetAsks s t port addr b 1 →
    (m.epoch ≠ s.dict.epoch → (s.session m.session).epochAnswer = none →
      Runs (.read ⟨t, .net port addr b, f⟩) s (fun u => NetTag s b →
        Sends s u m.session port 3 1 m.reqId ((s.session m.session).tx + 1) m.index m.sub 0 8 0 []
        ∧ counter u 0x1110 5 = satAdd64 (counter s 0x1110 5) 1 ∧ (u.session m.session).epochAnswer = some t))
    ∧ (∀ e, m.epoch ≠ s.dict.epoch → (s.session m.session).epochAnswer = some e → t < e + 10 ^ 14 →
      Runs (.read ⟨t, .net port addr b, f⟩) s (fun u => NetTag s b →
        counter u 0x1110 5 = satAdd64 (counter s 0x1110 5) 1 ∧ u.dict.sessions = s.dict.sessions
        ∧ u.dict.outbox = s.dict.outbox))
    ∧ (m.epoch = s.dict.epoch → windowOk (s.session m.session) m.seq = false →
      Runs (.read ⟨t, .net port addr b, f⟩) s (fun u => NetTag s b →
        counter u 0x1110 3 = satAdd64 (counter s 0x1110 3) 1 ∧ (evtStat u 0).testBit 3 = true
        ∧ ∀ n, u.session n = s.session n)))
  ∧ (∀ (t : Nat) (f : Bool) (port : Option Nat) (addr b : Bytes) (s : State) (m : Msg) (r : ObjRow), Canonical s → NoOnChange s →
    m = parseMsg b 16 → NetFresh s b → objDesc m.index m.sub = some r →
    (NetAsks s t port addr b 1 → r.acc ≠ .wo → r.acc ≠ .act → netRole (advance t s) m.session < r.rd →
      Runs (.read ⟨t, .net port addr b, f⟩) s (fun u => u.dict.vals = s.dict.vals ∧ (NetTag s b →
        Sends s u m.session port 3 1 m.reqId ((s.session m.session).tx + 1) m.index m.sub 0 5 0 [])))
    ∧ (NetAsks s t port addr b 2 → ownWrite m = false → r.acc = .rw ∨ r.acc = .rwp →
      stateAborts (advance t s) m.index m.sub = false → ownerAborts (advance t s) m.session m.index m.sub m.data = [] →
      netRole (advance t s) m.session < r.wr →
      Runs (.write ⟨t, .net port addr b, f⟩) s (fun u => u.dict.vals = s.dict.vals ∧ (NetTag s b →
        Sends s u m.session port 3 2 m.reqId ((s.session m.session).tx + 1) m.index m.sub 0 5 0 []))))
  ∧ (∀ (t : Nat) (f : Bool) (port : Option Nat) (addr b : Bytes) (s : State) (m : Msg), Canonical s → m = parseMsg b 16 →
    m.kind = 1 →
    (fdpPlace s port addr = false ∨ s.dict.fdpOpen = false →
      Runs (.read ⟨t, .net port addr b, f⟩) s (fun u => u = advance t s))
    ∧ (fdpPlace s port addr = true → s.dict.fdpOpen = true →
      (s.mbx.restart = true ∨ rateRoom t s = false → Runs (.read ⟨t, .net port addr b, f⟩) s (fun u => CountsOnly (advance t s) u
        ∧ counter u 0x1110 6 = satAdd64 (counter s 0x1110 6) 1))
      ∧ (s.mbx.restart = false → rateRoom t s = true → headerOk m b.length 44 = false ∨ 1400 < b.length →
        Runs (.read ⟨t, .net port addr b, f⟩) s (fun u => counter u 0x1110 4 = satAdd64 (counter s 0x1110 4) 1
          ∧ u.dict.sessions = s.dict.sessions))
      ∧ (s.mbx.restart = false → rateRoom t s = true → headerOk m b.length 44 = true → b.length ≤ 1400 →
        sessionOpen s m.session = true → farmFree s = false →
        Runs (.read ⟨t, .net port addr b, f⟩) s (fun u => u = advance t s))
      ∧ (s.mbx.restart = false → rateRoom t s = true → headerOk m b.length 44 = true → b.length ≤ 1400 →
        sessionOpen s m.session = false
          ∨ (farmFree s = true ∧ cfg s (0x114F + m.session) 4 ≠ zeros 16 ∧ cfg s (0x114F + m.session) 4 ≠ addr) →
        Runs (.read ⟨t, .net port addr b, f⟩) s (fun u => counter u 0x1110 2 = satAdd64 (counter s 0x1110 2) 1
          ∧ (evtStat u 0).testBit 3 = true ∧ u.dict.sessions = s.dict.sessions))))
  ∧ (∀ (t : Nat) (f : Bool) (port : Option Nat) (addr b : Bytes) (s : State) (m : Msg) (r : ObjRow), Canonical s →
    m = parseMsg b 16 → NetAsks s t port addr b 6 → NetFresh s b → objDesc m.index m.sub = some r → r.acc = .rwp →
    12 < m.index → m.index ≠ 0x1421 → m.index ≠ 0x1440 → m.sub ≠ 0 → r.rd ≤ netRole (advance t s) m.session → m.ty = 0 ∨ m.ty = r.ty →
    (cfg s m.index m.sub).length ≤ 1356 → s.dict.subs.length < 256 →
    (s.dict.subs.filter (fun x => decide (x.session = m.session))).length < 32 →
    m.pa = 0 → m.pb = 0 ∨ 1000 ≤ m.pb → (∀ x ∈ s.dict.subs, ¬(x.session = m.session ∧ x.index = m.index ∧ x.sub = m.sub)) →
    Runs (.subscribe ⟨t, .net port addr b, f⟩) s (fun u => NetTag s b → ∃ n, (∀ x ∈ s.dict.subs, x.number ≠ n)
      ∧ u.dict.subs = s.dict.subs ++ [{ number := n, session := m.session, port := port, index := m.index, sub := m.sub
                                        period := 0, interval := if m.pb = 0 then 1000 else m.pb
                                        last := cfg s m.index m.sub, sentAt := u.clock }]
      ∧ Sends s u m.session port 1 6 m.reqId ((s.session m.session).tx + 1) m.index m.sub 0 n 0 []))
  ∧ (∀ (t : Nat) (f : Bool) (b : Bytes) (s : State), MbxHolds s b 6 →
    Runs (.subscribe ⟨t, .mailbox, f⟩) s (fun u => Aborted u b 8 ∧ AnswersOnly (advance t s) u))
  ∧ ServesAction .unsubscribe 0x1120 4 (fun d s => ∃ x ∈ s.dict.subs, x.number = beNat d) 0 (fun _ _ => [])
      (fun d s u => ∀ x, x ∈ u.dict.subs ↔ x ∈ s.dict.subs ∧ x.number ≠ beNat d)
  ∧ RefusesAction .unsubscribe 0x1120 4 (fun d s => ∀ x ∈ s.dict.subs, x.number ≠ beNat d) 7
  ∧ (∀ (t n : Nat) (s : State) (x : Subscr) (r : ObjRow), Canonical s →
    s.dict.subs.find? (fun y => decide (y.number = n)) = some x → x.period ≠ 0 →
    (t < x.sentAt + x.period * 10 ^ 9 → Runs (.subscriptionTimer t n) s (fun u => u = advance t s))
    ∧ (x.sentAt + x.period * 10 ^ 9 ≤ t → objDesc x.index x.sub = some r → sessionOpen s x.session = true →
      Runs (.subscriptionTimer t n) s (fun u =>
        Sends s u x.session x.port 0 7 0 ((s.session x.session).tx + 1) x.index x.sub r.ty n
          (subValue (advance t s) x).length (subValue (advance t s) x)
        ∧ (∀ y ∈ u.dict.subs, y.number = n → y.sentAt = t ∧ y.last = subValue (advance t s) x))))
  ∧ (∀ (t n : Nat) (s : State) (x : Subscr) (r : ObjRow), Canonical s →
    s.dict.subs.find? (fun y => decide (y.number = n)) = some x → x.period = 0 →
    (subValue (advance t s) x = x.last ∨ t < x.sentAt + x.interval * 10 ^ 9 →
      Runs (.subscriptionTimer t n) s (fun u => u = advance t s))
    ∧ (subValue (advance t s) x ≠ x.last → x.sentAt + x.interval * 10 ^ 9 ≤ t → objDesc x.index x.sub = some r →
      sessionOpen s x.session = true → Runs (.subscriptionTimer t n) s (fun u =>
        Sends s u x.session x.port 0 7 0 ((s.session x.session).tx + 1) x.index x.sub r.ty n
          (subValue (advance t s) x).length (subValue (advance t s) x)
        ∧ (∀ y ∈ u.dict.subs, y.number = n → y.sentAt = t ∧ y.last = subValue (advance t s) x))))
  ∧ (∀ (t n q : Nat) (s : State) (k : Kept), Canonical s →
    (s.session n).kept.find? (fun y => decide (y.reqId = q) && decide (y.at_ + 10 ^ 15 ≤ (advance t s).clock)) = some k →
    Runs (.keptResponseExpiry t ⟨n, q⟩) s (fun u => (u.session n).kept = (s.session n).kept.erase k
      ∧ (∀ j, j ≠ n → u.session j = s.session j)))
  ∧ (∀ (t n q : Nat) (s : State), (∀ y ∈ (s.session n).kept, y.reqId = q → (advance t s).clock < y.at_ + 10 ^ 15) →
    Runs (.keptResponseExpiry t ⟨n, q⟩) s (fun u => u = advance t s))

/-- 02 R57 to R62, R86 to R88, R94, 12 R415, 15 R531: StoreAll and RestoreDefaults write the other copy and are
answered at their end, with PERSIST_FAIL where it fails; a service token that passes its checks gives the Vendor
role until it expires; a KeyBlob loads a session's key, after the response where the session writes its own; the
Dike's windows are written through the mailbox alone. Readings the model took: log entries 58, 81, 98. -/
def Obligations.StoreAndTokens : Prop :=
  TakesAction .storeAll 0x1120 1 (fun _ s => s.dict.storing = none) .storeAll (fun _ s u =>
      u.dict.storing = some (storedVals s) ∧ u.dict.storeStatus = 1 ∧ u.dict.vals = s.dict.vals
      ∧ u.boot.store = s.boot.store.set (otherCopy s.boot.store (·.valid) (·.counter)).1
          StoreCopy.erased)
  ∧ TakesAction .restoreDefaults 0x1120 2 (fun _ s => s.dict.storing = none) .restoreDefaults (fun _ s u =>
      u.dict.storing = some [] ∧ u.dict.storeStatus = 1 ∧ u.dict.vals = s.dict.vals
      ∧ u.boot.store = s.boot.store.set (otherCopy s.boot.store (·.valid) (·.counter)).1 StoreCopy.erased)
  ∧ (∀ (t : Nat) (vals : Tab Bytes) (s : State), s.dict.storing = some vals →
    (storePayload vals).length ≤ 1048576 →
    Runs (.storeAllComplete t true) s (fun u => u.dict.storing = none ∧ u.dict.storeStatus = 0
      ∧ u.boot.store = s.boot.store.set (otherCopy s.boot.store (·.valid) (·.counter)).1
          (StoreCopy.make (otherCopy s.boot.store (·.valid) (·.counter)).2 vals)
      ∧ u.dict.vals = s.dict.vals
      ∧ (∀ p, p ∈ u.dict.acts ↔ p ∈ s.dict.acts ∧ p.act ≠ .storeAll ∧ p.act ≠ .restoreDefaults)
      ∧ (∀ p, s.dict.acts = [p] → p.act = .storeAll → p.req.session = 0 → u.mbx.busy = false ∧ u.mbx.done = true
          ∧ u.mbx.rsp = wordsOf (buildMsg 1 p.req.kind 28 0 p.req.reqId u.dict.epoch 0 p.req.index p.req.sub 0 0 0 []))))
  ∧ (∀ (t : Nat) (ok : Bool) (vals : Tab Bytes) (s : State), s.dict.storing = some vals →
    ok = false ∨ 1048576 < (storePayload vals).length →
    Runs (.storeAllComplete t ok) s (fun u => u.dict.storing = none ∧ u.dict.storeStatus = 2 ∧ u.boot = s.boot
      ∧ (evtStat u 0).testBit 1 = true
      ∧ (∀ p, s.dict.acts = [p] → p.act = .restoreDefaults → p.req.session = 0 → u.mbx.busy = false ∧ u.mbx.done = true
          ∧ u.mbx.rsp = wordsOf (buildMsg 3 p.req.kind 28 0 p.req.reqId u.dict.epoch 0 p.req.index p.req.sub 0 0xB 0 []))))
  ∧ (∀ (t n : Nat) (s : State), Canonical s →
    (∀ e, tokenOf s n = some e → e ≤ timeNow (advance t s) → Runs (.tokenExpiry t n) s (fun u => tokenOf u n = none
      ∧ (∀ j, j ≠ n → tokenOf u j = tokenOf s j)))
    ∧ (∀ e, tokenOf s n = some e → timeNow (advance t s) < e → Runs (.tokenExpiry t n) s (fun u => u = advance t s))
    ∧ (tokenOf s n = none → Runs (.tokenExpiry t n) s (fun u => u = advance t s)))
  ∧ (∀ (t : Nat) (f : Bool) (b : Bytes) (s : State) (m : Msg), m = parseMsg b 0 → MbxHolds s b 2 → NoOnChange s →
    m.index = 0x1140 → m.sub = 1 → m.ty = 9 → m.data.length = 1344 → s.time.state ≠ tsUNSET →
    Runs (.serviceToken ⟨t, .mailbox, f⟩) s (fun u =>
      (tokenBad (advance t s) 0 m.data = false → Answered u b 0 []
        ∧ u.dict.mbxVendor = some (ofTime96 (slice m.data 32 12))
        ∧ u.dict.nonces = s.dict.nonces ++ [slice m.data 44 20])
      ∧ (tokenBad (advance t s) 0 m.data = true → Aborted u b 0xA ∧ AnswersOnly (advance t s) u)))
  ∧ (∀ (t : Nat) (f : Bool) (b : Bytes) (s : State) (m : Msg), m = parseMsg b 0 → MbxHolds s b 2 → NoOnChange s →
    m.index = 0x1140 → m.sub = 1 → s.time.state = tsUNSET →
    Runs (.serviceToken ⟨t, .mailbox, f⟩) s (fun u => Aborted u b 8 ∧ AnswersOnly (advance t s) u))
  ∧ (∀ (t n : Nat) (f : Bool) (b : Bytes) (s : State) (m : Msg), Canonical s → m = parseMsg b 0 → MbxHolds s b 2 → NoOnChange s →
    1 ≤ n → n ≤ 64 → m.index = 0x114F + n → m.sub = 3 → m.ty = 9 → m.data.length = 56 →
    Runs (.keyBlob ⟨t, .mailbox, f⟩) s (fun u =>
      (∀ x l g, sessionBlob s m.data = .ok x → freeLocalSlot s 0 = some l → globalOf s 0 2 l = some g →
        (s.session n).keySlot ≠ some g →
        Answered u b 0 [] ∧ (u.session n).keySlot = some g ∧ (u.session n).rxHigh = 0 ∧ (u.session n).rxMap = 0
        ∧ (u.session n).tx = 0 ∧ (u.session n).exhausted = false ∧ (∀ j, j ≠ n → u.session j = s.session j)
        ∧ u.keySlot g = { alg := x.alg, usage := x.usage, key := x.key, users := (s.keySlot g).users + 1 }
        ∧ (∀ h, (s.session n).keySlot = some h → u.keySlot h = KeySlot.reset)
        ∧ (∀ y ∈ u.dict.subs, y.session ≠ n))
      ∧ (∀ a, sessionBlob s m.data = .error a → Aborted u b 7 ∧ u.cipher = s.cipher ∧ u.session n = s.session n)
      ∧ (∀ x, sessionBlob s m.data = .ok x → freeLocalSlot s 0 = none → Aborted u b 0xC ∧ u.cipher = s.cipher)))
  ∧ (∀ (t : Nat) (f : Bool) (port : Option Nat) (addr b : Bytes) (s : State) (m : Msg), Canonical s → NoOnChange s →
    m = parseMsg b 16 → NetAsks s t port addr b 2 → NetFresh s b → m.index = 0x114F + m.session → m.sub = 3 → m.ty = 9 →
    m.data.length = 56 → 3 ≤ netRole (advance t s) m.session →
    Runs (.keyBlob ⟨t, .net port addr b, f⟩) s (fun u => NetTag s b → ∀ x l g, sessionBlob s m.data = .ok x →
      freeLocalSlot s 0 = some l → globalOf s 0 2 l = some g → (s.session m.session).keySlot ≠ some g →
      Sends s u m.session port 1 2 m.reqId ((s.session m.session).tx + 1) m.index 3 0 0 0 []
      ∧ (u.session m.session).keySlot = some g ∧ (u.session m.session).tx = 0 ∧ (u.session m.session).rxHigh = 0))
  ∧ (∀ (t : Nat) (f : Bool) (port : Option Nat) (addr b : Bytes) (s : State) (m : Msg), Canonical s → NoOnChange s →
    m = parseMsg b 16 → NetAsks s t port addr b 2 → NetFresh s b → m.index = 0x114F + m.session → m.sub = 1 → m.ty = 1 →
    m.data = [0] → 3 ≤ netRole (advance t s) m.session → (s.dict.vals.map (·.1)).Nodup →
    Runs (.write ⟨t, .net port addr b, f⟩) s (fun u => NetTag s b →
      Sends s u m.session port 1 2 m.reqId ((s.session m.session).tx + 1) m.index 1 0 0 0 []
      ∧ cfg u m.index 1 = [0] ∧ (∀ x ∈ u.dict.subs, x.session ≠ m.session)))
  ∧ (∀ (t : Nat) (f : Bool) (b : Bytes) (s : State) (m : Msg), m = parseMsg b 0 → MbxHolds s b 2 → NoOnChange s →
    m.index = 0x1440 → m.sub = 0 → m.ty = 9 → m.data.length = 256 →
    Runs (.dikeDmaWindows ⟨t, .mailbox, f⟩) s (fun u => Answered u b 0 [] ∧ u.boot.dmaWindows = m.data))
  ∧ (∀ (t : Nat) (f : Bool) (port : Option Nat) (addr b : Bytes) (s : State) (m : Msg), Canonical s → NoOnChange s →
    m = parseMsg b 16 → NetAsks s t port addr b 2 → NetFresh s b → m.index = 0x1440 → m.sub = 0 →
    Runs (.dikeDmaWindows ⟨t, .net port addr b, f⟩) s (fun u => u.boot = s.boot ∧ (NetTag s b →
      Sends s u m.session port 3 2 m.reqId ((s.session m.session).tx + 1) m.index m.sub 0 5 0 [])))

/-- 02 R65, R68, 09 R303 to R305, Tables 9.2 to 9.4: a write of MBX_CTRL with GO takes the request or is ignored and
counted; a write of a BAR register is the command that register has; a write of another size is ignored in BAR0; one
outside the BAR, or that the function does not take, is an Unsupported Request (AER: 09 R305, R327). Readings the
model took: log entries 77. -/
def Obligations.RegisterAccess : Prop :=
  (∀ (t : Nat) (v : Word32) (s : State) (n : Nat), n = bitsOf v.toNat 28 16 → barOpen s 0 = true →
    (v.toNat.testBit 0 = false → Runs (.mbxGo t v) s (fun u => u = modMbx (fun m => { m with length := n }) (advance t s)))
    ∧ (v.toNat.testBit 0 = true → s.mbx.busy = true ∨ n < 28 ∨ 4096 < n → Runs (.mbxGo t v) s (fun u =>
      u = modMbx (fun m => { m with length := n, ignored := true, ignCnt := satAdd32 m.ignCnt 1 }) (advance t s)))
    ∧ (v.toNat.testBit 0 = true → s.mbx.busy = false → 28 ≤ n → n ≤ 4096 → s.mbx.orphans = [] →
      (badHeader (mbxBytes s n) = false ∨ s.mbx.restart = true → Runs (.mbxGo t v) s (fun u =>
        u = modMbx (fun m => { m with length := n, busy := true, accepted := some (mbxBytes s n) }) (advance t s)))
      ∧ (badHeader (mbxBytes s n) = true → s.mbx.restart = false → Runs (.mbxGo t v) s (fun u =>
        Aborted u (mbxBytes s n) 6 ∧ counter u 0x1110 4 = satAdd64 (counter s 0x1110 4) 1))))
  ∧ (∀ (t : Nat) (v : Word32) (s : State), barOpen s 0 = false → s.ep.link = 2 →
    Runs (.mbxGo t v) s (fun u => u = (advance t s).setFunc 0 { s.func 0 with aer := bitSet (s.func 0).aer 20 }))
  ∧ (∀ (t v : Nat) (s : State), v < 2 ^ 32 → barOpen s 0 = true →
    (∀ k < 1024, Runs (.registerWrite t 0 0 (0x21000 + 4 * k) 4 v) s (fun u =>
      u = modMbx (fun m => { m with req := Tab.set 0#32 m.req k (BitVec.ofNat 32 v) }) (advance t s)))
    ∧ Runs (.registerWrite t 0 0 0x20004 4 v) s (fun u => u = modMbx (fun m => { m with
        done := m.done && !v.testBit 1, ignored := m.ignored && !v.testBit 2 }) (advance t s))
    ∧ exec (.registerWrite t 0 0 0x20000 4 v) s = exec (.mbxGo t (BitVec.ofNat 32 v)) s
    ∧ (∀ g < 16, exec (.registerWrite t 0 0 (0x30000 + 4 * g) 4 v) s = exec (.evtStatWrite t g (BitVec.ofNat 32 v) 0) s
      ∧ exec (.registerWrite t 0 0 (0x30040 + 4 * g) 4 v) s = exec (.evtMaskWrite t g (BitVec.ofNat 32 v)) s
      ∧ exec (.registerWrite t 0 0 (0x30100 + 4 * g) 4 v) s = exec (.evtVectorWrite t g (BitVec.ofNat 32 v)) s
      ∧ exec (.registerWrite t 0 0 (0x30180 + 4 * g) 4 v) s = exec (.evtTestWrite t g (BitVec.ofNat 32 v)) s)
    ∧ (∀ n < 256, exec (.registerWrite t 0 0 (0x40000 + 16 * n) 4 v) s = exec (.ctrSelWrite t n (BitVec.ofNat 32 v)) s
      ∧ ∀ hi : Bool, exec (.registerWrite t 0 0 (0x40008 + 16 * n + (if hi then 4 else 0)) 4 v) s
          = exec (.ctrValueWrite t n hi (BitVec.ofNat 32 v)) s)
    ∧ (∀ table i b, table < 4 → i < 2 ^ 24 → ∀ op (mk : Nat → Nat → Bool → Nat → Instr),
      (op, mk) ∈ [(1, .tblRead), (2, .tblWrite), (3, .tblDelete), (4, .tblSearch), (5, .flushByDest), (6, .ageNow)] →
      exec (.registerWrite t 0 0 0x10000 4 (op + 16 * table + 64 * boolNat b + 256 * i)) s = exec (mk t table b i) s)
    ∧ (∀ k < 8, s.tables.busy = none → Runs (.registerWrite t 0 0 (0x10010 + 4 * k) 4 v) s (fun u =>
      u = modTables (fun x => { x with data := Tab.set 0#32 x.data k (BitVec.ofNat 32 v) }) (advance t s))))
  ∧ (∀ (t fn q v : Nat) (s : State), v < 2 ^ 32 → barOpen s fn = true → q < 1024 →
    (isProducer (qKind (s.queue fn q)) = true →
      exec (.registerWrite t fn 0 (32 * q) 4 v) s = exec (.tailDoorbell t fn q v) s)
    ∧ (isProducer (qKind (s.queue fn q)) = false →
      exec (.registerWrite t fn 0 (32 * q) 4 v) s = exec (.headDoorbell t fn q v) s)
    ∧ exec (.registerWrite t fn 0 (32 * q + 4) 4 3) s = exec (.qEnable t fn q) s
    ∧ exec (.registerWrite t fn 0 (32 * q + 4) 4 4) s = exec (.qDisable t fn q) s
    ∧ exec (.registerWrite t fn 0 (32 * q + 4) 4 5) s = exec (.qReset t fn q) s
    ∧ Runs (.registerWrite t fn 0 (32 * q + 8) 4 v) s (fun u => u = advance t s))
  ∧ (∀ (t fn k v : Nat) (s : State), v < 2 ^ 32 → barOpen s fn = true → k < msixSize s fn → k < 2048 →
    Runs (.registerWrite t fn 4 (16 * k + 8) 4 v) s (fun u =>
      u = (advance t s).setMsix fn k { (advance t s).msix fn k with data := v }))
  ∧ (∀ (t fn off size v : Nat) (s : State), barOpen s fn = true → off + size ≤ 2 ^ 16 → size ≠ 4 ∨ off % 4 ≠ 0 →
    Runs (.registerWrite t fn 0 off size v) s (fun u => u = advance t s))
  ∧ (∀ (t fn off size v : Nat) (s : State), barOpen s fn = true → 2 ^ 26 < off + size →
    Runs (.registerWrite t fn 0 off size v) s (fun u =>
      u = (advance t s).setFunc fn { s.func fn with aer := bitSet (s.func fn).aer 20 }))
  ∧ (∀ (t fn bar off size v : Nat) (s : State), barOpen s fn = false → s.ep.link = 2 → fnExists s fn = true →
    Runs (.registerWrite t fn bar off size v) s (fun u =>
      u = (advance t s).setFunc fn { s.func fn with aer := bitSet (s.func fn).aer 20 }))

/-- 02 R61, the whole rule: an ACTION on StoreAll or RestoreDefaults while either of them runs is refused with BUSY,
through the mailbox and over the network, and the store runs on. -/
def Obligations.StoreIsBusy : Prop :=
  RefusesAction .storeAll 0x1120 1 (fun _ s => s.dict.storing.isSome = true) 9
  ∧ RefusesAction .restoreDefaults 0x1120 2 (fun _ s => s.dict.storing.isSome = true) 9
  ∧ (∀ (k : Nat) (mk : Rq → Instr), (k, mk) ∈ [(1, Instr.storeAll), (2, .restoreDefaults)] →
    ∀ (t : Nat) (f : Bool) (port : Option Nat) (addr b : Bytes) (s : State) (m : Msg), Canonical s → m = parseMsg b 16 →
    NetAsks s t port addr b 5 → m.epoch = s.dict.epoch → windowOk (s.session m.session) m.seq = true →
    (s.session m.session).kept.find? (fun x => sameReq m x && keptLive (advance t s) x) = none → s.dict.acts.any (sameAct m.session m) = false →
    m.index = 0x1120 → m.sub = k → m.ty = 0 → m.data = [] → 3 ≤ netRole (advance t s) m.session →
    s.dict.storing.isSome = true →
    Runs (mk ⟨t, .net port addr b, f⟩) s (fun u => u.dict.storing = s.dict.storing ∧ u.boot = s.boot ∧ (NetTag s b →
      Sends s u m.session port 3 5 m.reqId ((s.session m.session).tx + 1) 0x1120 k 0 9 0 [])))

/-- 03 R96, the whole rule: a write of PortMode, AutoNeg or FecMode to a port whose AdminEnable is 1 is refused with
STATE, by WRITE or by the last block of a WRITE_BLOCK, through the mailbox and over the network; no value changes. -/
def Obligations.EnabledPortRefuses : Prop :=
  (∀ (p k t : Nat) (f : Bool) (b : Bytes) (s : State) (m : Msg), p < 512 → k = 1 ∨ k = 3 ∨ k = 4 → adminEnable s p = true →
    m = parseMsg b 0 → m.index = 0x2000 + p → m.sub = k →
    (MbxHolds s b 2 → Runs (.write ⟨t, .mailbox, f⟩) s (fun u => Aborted u b 8 ∧ u.dict.vals = s.dict.vals
      ∧ u.ports = s.ports))
    ∧ (MbxHolds s b 4 → m.flags.testBit 2 = false → Runs (.writeBlock ⟨t, .mailbox, f⟩) s (fun u => Aborted u b 8
      ∧ u.dict.vals = s.dict.vals ∧ u.ports = s.ports)))
  ∧ (∀ (p k t kind : Nat) (f : Bool) (mk : Rq → Instr) (port : Option Nat) (addr b : Bytes) (s : State) (m : Msg), Canonical s →
    (kind, mk) ∈ [(2, Instr.write), (4, .writeBlock)] → p < 512 → k = 1 ∨ k = 3 ∨ k = 4 → adminEnable s p = true →
    m = parseMsg b 16 → m.index = 0x2000 + p → m.sub = k → m.flags.testBit 2 = false → NetAsks s t port addr b kind →
    NetFresh s b →
    Runs (mk ⟨t, .net port addr b, f⟩) s (fun u => u.dict.vals = s.dict.vals ∧ u.ports = s.ports ∧ (NetTag s b →
      Sends s u m.session port 3 kind m.reqId ((s.session m.session).tx + 1) (0x2000 + p) k 0 8 0 [])))

/-! ### Start and resets (spec 01, 15, 18) -/

/-- 15 R517, R518, R520, R521, 14 R512, 09 R316, R335: a cold start waits for PERST_N, then runs the boot control
block's slot if it is valid, the other one if not, and neither is recovery; DDR4, PF0, the field dies and the
journal follow. Readings the model took: log entries 73, 102. -/
def Obligations.StartSequence : Prop :=
  (∀ (t : Nat) (sigs : List Nat) (flash : Bool) (s : State), s.board.released = false → s.board.perstLow = true →
    Runs (.coldStart t ⟨sigs, flash⟩) s (fun u => u.board.released = true ∧ u.board.rails = 0xFF ∧ u.board.refclk = true
      ∧ u.board.perstLow = true ∧ u = modBoard (fun _ => u.board) (advance t s)))
  ∧ (∀ (t : Nat) (sigs : List Nat) (flash : Bool) (s : State), s.board.released = true →
    Runs (.coldStart t ⟨sigs, flash⟩) s (fun u => u = advance t s))
  ∧ (∀ (t : Nat) (sigs : List Nat) (flash : Bool) (s : State), s.board.released = false → s.board.perstLow = false →
    s.boot.started = false →
    (slotValid s (bcbSlot s.boot.bcb) = true →
      Runs (.coldStart t ⟨sigs, flash⟩) s (fun u => Started s u t (bcbSlot s.boot.bcb) 0 flash
        ∧ u.board.startAt = some t))
    ∧ (slotValid s (bcbSlot s.boot.bcb) = false → slotValid s (1 - bcbSlot s.boot.bcb) = true →
      Runs (.coldStart t ⟨sigs, flash⟩) s (fun u =>
        Started s u t (1 - bcbSlot s.boot.bcb) 1 flash ∧ (evtStat u 0).testBit 5 = true))
    ∧ (slotValid s (bcbSlot s.boot.bcb) = false → slotValid s (1 - bcbSlot s.boot.bcb) = false →
      Runs (.coldStart t ⟨sigs, flash⟩) s (fun u => u.boot.started = true ∧ u.boot.bootStatus = 2 ∧ u.boot.coresUp = false
        ∧ u.ep.link = 1)))
  ∧ (∀ (t : Nat) (flash : Bool) (s : State), s.board.perstLow = true → s.board.resetDue = false →
    (s.boot.started = true → s.board.retention = false ∨ t < s.board.perstAt + 10 ^ 15 →
      Runs (.perstNRelease ⟨t, flash⟩) s (fun u =>
        u = modEp (fun e => { e with link := 1 }) (modBoard (fun b => { b with perstLow := false }) (advance t s))))
    ∧ (s.boot.started = true → s.board.retention = true → s.board.perstAt + 10 ^ 15 ≤ t →
      (s.jrn.state ≠ 3 → cacheDirty s = false → s.board.released = true → slotValid s (bcbSlot s.boot.bcb) = true →
        Runs (.perstNRelease ⟨t, flash⟩) s (fun u => Started s u t (bcbSlot s.boot.bcb) 0 flash))
      ∧ (s.jrn.state ≠ 3 → cacheDirty s = true → Runs (.perstNRelease ⟨t, flash⟩) s (fun u =>
          u.board.perstLow = false ∧ u.board.fullReset = true ∧ u.board.drainWait = true ∧ u.boot.started = false))
      ∧ (s.jrn.state = 3 → Runs (.perstNRelease ⟨t, flash⟩) s (fun u =>
          u = modBoard (fun b => { b with perstLow := false, resetDue := true }) (advance t s))))
    ∧ (s.boot.started = false → s.board.released = false ∨ s.board.drainWait = true →
      Runs (.perstNRelease ⟨t, flash⟩) s (fun u => u = modBoard (fun b => { b with perstLow := false }) (advance t s)))
    ∧ (s.boot.started = false → s.board.released = true → s.board.drainWait = false →
      slotValid s (bcbSlot s.boot.bcb) = true → Runs (.perstNRelease ⟨t, flash⟩) s (fun u =>
        Started s u t (bcbSlot s.boot.bcb) 0 flash ∧ u.board.fullReset = false)))
  ∧ (∀ (t : Nat) (flash : Bool) (s : State), s.board.perstLow = true → s.board.resetDue = true → s.jrn.state = 3 →
    Runs (.perstNRelease ⟨t, flash⟩) s (fun u => u = modBoard (fun b => { b with perstLow := false }) (advance t s)))
  ∧ (∀ (t : Nat) (flash : Bool) (s : State), s.board.perstLow = false →
    Runs (.perstNRelease ⟨t, flash⟩) s (fun u => u = advance t s))
  ∧ (∀ (t md : Nat) (s : State), s.boot.started = true → s.boot.bootStatus ≠ 2 → md < 2 →
    Runs (.ddr4TrainingDone t md) s (fun u =>
      u = modBoot (fun b => { b with ddrTrained := b.ddrTrained.set md true }) (advance t s)))
  ∧ (∀ (t md : Nat) (s : State), s.boot.started = false ∨ s.boot.bootStatus = 2 →
    Runs (.ddr4TrainingDone t md) s (fun u => u = advance t s))
  ∧ (∀ (t : Nat) (s : State), s.boot.started = true → s.ep.link ≠ 3 →
    Runs (.pf0Ready t) s (fun u => u = (advance t s).setFunc 0 { s.func 0 with rrs := false }))
  ∧ (∀ (t : Nat) (s : State), s.boot.started = true → s.boot.bootStatus ≠ 2 → s.boot.fieldUp = false →
    s.boot.ddrTrained = [true, true] →
    Runs (.fieldInService t) s (fun u => u.boot.fieldUp = true ∧ u.dict.fdpOpen = s.dict.epochStored
      ∧ u.dict.vals = s.dict.vals ∧ u.jrn = s.jrn ∧ u.frer = s.frer))
  ∧ (∀ (t : Nat) (s : State), s.boot.started = false ∨ s.boot.bootStatus = 2 ∨ s.boot.fieldUp = true
      ∨ s.boot.ddrTrained ≠ [true, true] → Runs (.fieldInService t) s (fun u => u = advance t s))
  ∧ (∀ (t : Nat) (s : State), s.boot.fieldUp = true → s.boot.journalSet = false →
    (∀ i < 2, (s.cart i).present = true → dieServes s (4 + i) = true → (s.cart i).state ≠ 0 ∧ (s.cart i).state ≠ 1) →
    (s.jrn.state = 0 → Runs (.allReady t) s (fun u => u.boot = { s.boot with journalSet := true }
      ∧ u.jrn = { s.jrn with state := if s.jrn.held then 2 else 1 } ∧ u.siphon = s.siphon))
    ∧ (s.jrn.state ≠ 0 → Runs (.allReady t) s (fun u =>
        u = modBoot (fun b => { b with journalSet := true }) (advance t s))))
  ∧ (∀ (t : Nat) (s : State), s.boot.fieldUp = false ∨ s.boot.journalSet = true
      ∨ (∃ i < 2, (s.cart i).present = true ∧ dieServes s (4 + i) = true ∧ ((s.cart i).state = 0 ∨ (s.cart i).state = 1)) →
    Runs (.allReady t) s (fun u => u = advance t s))

/-- 01 R39 to R45, 09 R319, 14 R492, R494, R506, 18 R581, R583, R586: a reset of the part leaves what the fuses and
the boot flash hold; PERST_N with FieldRetention resets the host side alone until it has been low for 1 s; otherwise
a full reset begins, after the journal's drain, and one that an emergency drain holds up begins at its end (18
R600); a rail or the clock that goes resets everything; an emergency drain ends. Readings the model took: log
entries 83, 86, 87. -/
def Obligations.ResetsAndFaults : Prop :=
  (∀ s : State, (deviceReset s).boot.rollback = s.boot.rollback ∧ (deviceReset s).boot.store = s.boot.store
      ∧ (deviceReset s).boot.bcb = s.boot.bcb ∧ (deviceReset s).boot.epochRec = s.boot.epochRec
      ∧ (deviceReset s).boot.area = s.boot.area ∧ (deviceReset s).boot.areaHdr = s.boot.areaHdr
      ∧ (deviceReset s).boot.asideKeys = s.boot.asideKeys ∧ (deviceReset s).boot.slots.length = s.boot.slots.length
      ∧ (∀ i, (slotNo s i).state ≠ 1 → slotNo (deviceReset s) i = slotNo s i)
      ∧ (∀ i, (slotNo s i).state = 1 → slotNo (deviceReset s) i = { slotNo s i with state := 2, other := 1 })
      ∧ (deviceReset s).boot.started = false ∧ (deviceReset s).dict = State.reset.dict
      ∧ (deviceReset s).mbx = State.reset.mbx ∧ (deviceReset s).ports = State.reset.ports
      ∧ (deviceReset s).tables = State.reset.tables ∧ (deviceReset s).flow = State.reset.flow
      ∧ (deviceReset s).cls = State.reset.cls ∧ (deviceReset s).buf = State.reset.buf
      ∧ (deviceReset s).sched = State.reset.sched ∧ (deviceReset s).ep = State.reset.ep
      ∧ (deviceReset s).wq = State.reset.wq ∧ (deviceReset s).cipher = State.reset.cipher
      ∧ (deviceReset s).siphon = State.reset.siphon ∧ (deviceReset s).evt = State.reset.evt
      ∧ (deviceReset s).time = State.reset.time ∧ (deviceReset s).board = s.board
      ∧ (∀ i < 2, ((deviceReset s).cart i).present = (s.cart i).present ∧ ((deviceReset s).cart i).dirty = []))
  ∧ (∀ (t : Nat) (s : State), s.board.perstLow = true → Runs (.perstNAssert t) s (fun u => u = advance t s))
  ∧ (∀ (t : Nat) (keep : Bool) (s : State), s.board.perstLow = false → keep = decide (cfgN s 0x4000 1 = 1) →
    (s.boot.started = false → Runs (.perstNAssert t) s (fun u => u = modBoard (fun b => { b with
      perstLow := true, perstAt := t, retention := keep }) (advance t s)))
    ∧ (s.boot.started = true → keep = true → s.boot.fieldUp = true → Runs (.perstNAssert t) s (fun u =>
      u.board = { s.board with perstLow := true, perstAt := t, retention := true } ∧ u.boot.started = true
      ∧ u.ep.link = 3 ∧ u.ep.funcs = [] ∧ u.ep.vfEnable = false ∧ u.ep.reads = [] ∧ u.ep.wasUp = false
      ∧ (s.ep.wasUp = true → (evtStat u 8).testBit 0 = true) ∧ u.ports = s.ports ∧ u.flow = s.flow ∧ u.cls = s.cls
      ∧ u.frer = s.frer ∧ u.polders = s.polders ∧ (∀ e ∈ s.polders.tab, ∀ q < 1024, u.queue e.1 q = Queue.reset)))
    ∧ (s.boot.started = true → keep = false ∨ s.boot.fieldUp = false → s.jrn.state = 3 →
      Runs (.perstNAssert t) s (fun u => u = modBoard (fun b => { b with
        perstLow := true, perstAt := t, retention := keep, resetDue := true }) (advance t s)))
    ∧ (s.boot.started = true → keep = false ∨ s.boot.fieldUp = false → s.jrn.state ≠ 3 → cacheDirty s = false →
      Runs (.perstNAssert t) s (fun u => u = modBoard (fun b => { b with
        perstLow := true, perstAt := t, retention := keep, fullReset := true, drainWait := false })
        (deviceReset (advance t s))))
    ∧ (s.boot.started = true → keep = false ∨ s.boot.fieldUp = false → s.jrn.state ≠ 3 → cacheDirty s = true →
      Tab.wf CartSlot.reset s.jrn.slots = true →
      Runs (.perstNAssert t) s (fun u => u.board.fullReset = true ∧ u.board.drainWait = true ∧ u.boot.started = false
        ∧ (∀ i < 2, (u.cart i).dirty = (s.cart i).dirty) ∧ u.jrn.state = 0 ∧ u.ports = State.reset.ports
        ∧ u.dict = State.reset.dict ∧ u.ep = State.reset.ep)))
  ∧ (∀ (t : Nat) (s : State), s.board.perstLow = true → s.board.retention = true → s.boot.started = true →
    s.board.perstAt + 10 ^ 15 ≤ t →
    (s.jrn.state ≠ 3 → cacheDirty s = false → Runs (.fullResetMark t) s (fun u =>
      u = modBoard (fun b => { b with fullReset := true, drainWait := false }) (deviceReset (advance t s))))
    ∧ (s.jrn.state ≠ 3 → cacheDirty s = true → Tab.wf CartSlot.reset s.jrn.slots = true →
      Runs (.fullResetMark t) s (fun u => u.board = { s.board with fullReset := true, drainWait := true }
        ∧ u.boot.started = false ∧ (∀ i < 2, (u.cart i).dirty = (s.cart i).dirty) ∧ u.jrn.state = 0
        ∧ u.ports = State.reset.ports ∧ u.dict = State.reset.dict ∧ u.ep = State.reset.ep))
    ∧ (s.jrn.state = 3 → Runs (.fullResetMark t) s (fun u =>
      u = modBoard (fun b => { b with resetDue := true }) (advance t s))))
  ∧ (∀ (t : Nat) (s : State), s.board.perstLow = false ∨ s.board.retention = false ∨ s.boot.started = false
      ∨ t < s.board.perstAt + 10 ^ 15 → Runs (.fullResetMark t) s (fun u => u = advance t s))
  ∧ (∀ (t : Nat) (sigs : List Nat) (flash : Bool) (s : State),
    (s.board.drainWait = false → Runs (.writeCacheDrainEnd t ⟨sigs, flash⟩) s (fun u => u = advance t s))
    ∧ (s.board.drainWait = true → s.board.perstLow = true → Runs (.writeCacheDrainEnd t ⟨sigs, flash⟩) s (fun u =>
        u.board = { s.board with drainWait := false, sigs := sigs } ∧ u.boot.started = false
        ∧ (∀ i < 2, (u.cart i).dirty = []) ∧ u.dict = State.reset.dict ∧ u.wq = State.reset.wq))
    ∧ (s.board.drainWait = true → s.board.perstLow = false → s.board.released = true →
        slotValid s (bcbSlot s.boot.bcb) = true → Runs (.writeCacheDrainEnd t ⟨sigs, flash⟩) s (fun u =>
        Started s u t (bcbSlot s.boot.bcb) 0 flash ∧ u.board.drainWait = false ∧ u.board.fullReset = false
        ∧ ∀ i < 2, (u.cart i).dirty = [])))
  ∧ (∀ (t : Nat) (flash : Bool) (s : State), s.jrn.state = 3 →
    (s.board.resetDue = false → Runs (.emergencyDrainDone ⟨t, flash⟩) s (fun u => (∀ i < 2, (u.cart i).dirty = [])
      ∧ counter u 0x4300 0x15 = satAdd64 (counter s 0x4300 0x15) 1 ∧ (evtStat u 10).testBit 11 = true
      ∧ u.jrn.state = (if s.board.acFail = 0 ∧ s.board.thermtrip = false then
          (if s.boot.journalSet = false then 0 else if s.jrn.held then 2 else 1) else 4)))
    ∧ (s.board.resetDue = true → s.board.perstLow = true → Runs (.emergencyDrainDone ⟨t, flash⟩) s (fun u =>
      u.board = { s.board with resetDue := false, fullReset := true, drainWait := false } ∧ u.boot.started = false
      ∧ (∀ i < 2, (u.cart i).dirty = []) ∧ u.ports = State.reset.ports ∧ u.dict = State.reset.dict
      ∧ u.ep = State.reset.ep))
    ∧ (s.board.resetDue = true → s.board.perstLow = false → s.board.released = true →
      slotValid s (bcbSlot s.boot.bcb) = true → Runs (.emergencyDrainDone ⟨t, flash⟩) s (fun u =>
        Started s u t (bcbSlot s.boot.bcb) 0 flash ∧ u.board.resetDue = false)))
  ∧ (∀ (t : Nat) (flash : Bool) (s : State), s.jrn.state ≠ 3 →
    Runs (.emergencyDrainDone ⟨t, flash⟩) s (fun u => u = advance t s))
  ∧ (∀ (t rail : Nat) (s : State), rail < 8 → Runs (.railFault t rail) s (fun u =>
      u = modTest (fun x => { x with result := [] }) (modBoard (fun b => { b with
        rails := bitClear b.rails rail, released := false, fullReset := false, resetDue := false, drainWait := false
        thermtrip := b.thermtrip && (bitClear b.rails rail).testBit 7 }) (deviceReset (advance t s)))))
  ∧ (∀ (t rail : Nat) (s : State), 8 ≤ rail → Runs (.railFault t rail) s (fun u => u = advance t s))
  ∧ (∀ (t : Nat) (s : State), Runs (.refclkLoss t) s (fun u =>
      u = modTest (fun x => { x with result := [] }) (modBoard (fun b => { b with
        refclk := false, released := false, fullReset := false, resetDue := false, drainWait := false
        thermtrip := b.thermtrip && b.rails.testBit 7 }) (deviceReset (advance t s)))))

/-- 01 R41, the whole rule: with FieldRetention 1 when PERST_N is asserted, the field in service, the full reset
begins once PERST_N has been low for 1 s, while it is still low, and not before. During an emergency drain it is due
then, and begins at the drain's end (18 R600, stated in ResetsAndFaults). -/
def Obligations.FullResetAtOneSecond : Prop :=
  ∀ (t₀ t : Nat) (s : State), s.board.perstLow = false → cfgN s 0x4000 1 = 1 → s.boot.started = true →
    s.boot.fieldUp = true →
    Runs (.perstNAssert t₀) s (fun v => v.boot.started = true
      ∧ (t < t₀ + 10 ^ 15 → Runs (.fullResetMark t) v (fun u => u = advance t v))
      ∧ (t₀ + 10 ^ 15 ≤ t → s.jrn.state ≠ 3 →
        Runs (.fullResetMark t) v (fun u => u.board.fullReset = true ∧ u.board.perstLow = true
          ∧ u.boot.started = false ∧ u.ports = State.reset.ports ∧ u.dict = State.reset.dict ∧ u.ep = State.reset.ep
          ∧ u.tables = State.reset.tables ∧ u.buf = State.reset.buf))
      ∧ (t₀ + 10 ^ 15 ≤ t → s.jrn.state = 3 → Runs (.fullResetMark t) v (fun u =>
          u = modBoard (fun b => { b with resetDue := true }) (advance t v))))

/-! ### Firmware, the Dike, self-test and the board test (spec 15, 17) -/

/-- 15 R518, R519, R527 to R529, R532: an activation stops the cores and reads the staged image again; its first
heartbeat makes it the running one; an image that fails, or none in 180 ms, ends it; it waits for an action that
runs; the rollback counter and the Dike log. Readings the model took: log entries 104, 110, 133. -/
def Obligations.FirmwareActivation : Prop :=
  ServesAction .firmwareActivate 0x1411 0 (fun _ s => slotValid s (1 - s.boot.slot) = true ∧ s.boot.actStage = .idle
      ∧ s.dict.acts = [] ∧ (∀ e ∈ s.polders.tab, e.2.state ≠ 2))
      0 (fun _ _ => []) (fun _ s u => u.boot.actStage = .reading ∧ u.boot.actAt = s.clock ∧ u.boot.coresUp = false
        ∧ u.mbx.restart = true ∧ u.jrn.held = true ∧ u.dict.subs = [] ∧ u.dict.snaps = [] ∧ u.dict.stagings = []
        ∧ u.dict.outbox = s.dict.outbox
        ∧ counter u 0x4300 0x16 = satAdd64 (counter s 0x4300 0x16) 1 ∧ u.boot.running = s.boot.running)
  ∧ RefusesAction .firmwareActivate 0x1411 0 (fun _ s => slotValid s (1 - s.boot.slot) = false
      ∧ ∀ p ∈ s.dict.acts, p.act = .storeAll ∨ p.act = .restoreDefaults) 8
  ∧ RefusesAction .firmwareActivate 0x1411 0 (fun _ s => slotValid s (1 - s.boot.slot) = true
      ∧ (∀ p ∈ s.dict.acts, p.act = .storeAll ∨ p.act = .restoreDefaults)
      ∧ (s.dict.acts ≠ [] ∨ (∃ e ∈ s.polders.tab, e.2.state = 2) ∨ s.boot.actStage ≠ .idle)) 9
  ∧ (∀ (r : Rq) (s : State), (∃ p ∈ s.dict.acts, p.act ≠ .storeAll ∧ p.act ≠ .restoreDefaults) →
    Runs (.firmwareActivate r) s (fun u => u = advance r.t s))
  ∧ (∀ (t reason : Nat) (s : State), s.boot.actStage = .reading →
    (reason = 0 → slotValid s (1 - s.boot.slot) = true → Runs (.activationCheck ⟨t, reason⟩) s (fun u =>
      u = modBoot (fun b => { b with actStage := .checked }) (advance t s)))
    ∧ (reason = 0 → slotValid s (1 - s.boot.slot) = false → Runs (.activationCheck ⟨t, reason⟩) s (fun u =>
      u.boot = { s.boot with actStage := .failed, actState := 3 } ∧ (evtStat u 0).testBit 7 = true
      ∧ SignalsOnly { advance t s with boot := u.boot } u))
    ∧ (reason ≠ 0 → s.boot.slots.length = 2 → s.boot.slot ≤ 1 → Runs (.activationCheck ⟨t, reason⟩) s (fun u =>
      u.boot = { s.boot with
        actStage := .failed, actState := 3
        slots := s.boot.slots.set (1 - s.boot.slot)
          { slotNo s (1 - s.boot.slot) with state := 2, other := reason } }
      ∧ (evtStat u 0).testBit 7 = true ∧ SignalsOnly { advance t s with boot := u.boot } u)))
  ∧ (∀ (t reason : Nat) (s : State), s.boot.actStage ≠ .reading →
    Runs (.activationCheck ⟨t, reason⟩) s (fun u => u = advance t s))
  ∧ (∀ (t : Nat) (s : State), s.boot.actStage = .reading ∨ s.boot.actStage = .checked →
    (s.boot.actAt + 180 * 10 ^ 12 ≤ t → Runs (.activationTimeout t) s (fun u =>
      u.boot = { s.boot with actStage := .failed, actState := 3 } ∧ (evtStat u 0).testBit 7 = true
      ∧ SignalsOnly { advance t s with boot := u.boot } u))
    ∧ (t < s.boot.actAt + 180 * 10 ^ 12 → Runs (.activationTimeout t) s (fun u => u = advance t s)))
  ∧ (∀ (t : Nat) (s : State), s.boot.actStage = .idle ∨ s.boot.actStage = .failed →
    Runs (.activationTimeout t) s (fun u => u = advance t s))
  ∧ (∀ (t : Nat) (flash : Bool) (s : State) (n : Nat), n = 1 - s.boot.slot → s.boot.actStage = .checked →
    t ≤ s.boot.actAt + 180 * 10 ^ 12 → s.boot.bootStatus ≠ 2 →
    Runs (.activationComplete ⟨t, flash⟩) s (fun u => u.boot.slot = n ∧ u.boot.running = (slotNo s n).hdr
      ∧ u.boot.datapath = s.boot.datapath ∧ u.boot.actStage = .idle ∧ u.boot.actState = 0
      ∧ u.boot.activations = satAdd32 s.boot.activations 1 ∧ u.boot.coresUp = true ∧ u.boot.hbAt = t
      ∧ u.boot.bootStatus = s.boot.bootStatus ∧ u.mbx.restart = false ∧ u.jrn.held = false ∧ (evtStat u 0).testBit 6 = true
      ∧ (∀ x y, s.boot.bcb = [x, y] → x.valid = true → y.valid = false →
          u.boot.bcb = [x, if flash then BcbCopy.make ((x.counter + 1) % 2 ^ 32) n else BcbCopy.erased])
      ∧ (s.boot.log.length < 48 → u.boot.log[s.boot.log.length]?
          = some { kind := 8, seq := 0, digest := (slotNo s n).hdr.digest })))
  ∧ (∀ (t : Nat) (flash : Bool) (s : State) (n : Nat), n = 1 - s.boot.slot → s.boot.actStage = .checked →
    t ≤ s.boot.actAt + 180 * 10 ^ 12 → s.boot.bootStatus = 2 →
    Runs (.activationComplete ⟨t, flash⟩) s (fun u => u.boot.slot = n ∧ u.boot.running = (slotNo s n).hdr
      ∧ u.boot.datapath = (slotNo s n).hdr ∧ u.boot.bootStatus = 0 ∧ u.boot.coresUp = true ∧ u.dict.epochStored = flash
      ∧ (∀ c, loadedStore s.boot.store = some c → u.dict.vals = c.vals) ∧ (evtStat u 0).testBit 6 = true))
  ∧ (∀ (t : Nat) (flash : Bool) (s : State), s.boot.actStage = .checked → s.boot.actAt + 180 * 10 ^ 12 < t →
    Runs (.activationComplete ⟨t, flash⟩) s (fun u =>
      u.boot = { s.boot with actStage := .failed, actState := 3 } ∧ (evtStat u 0).testBit 7 = true
      ∧ SignalsOnly { advance t s with boot := u.boot } u))
  ∧ (∀ (t : Nat) (flash : Bool) (s : State), s.boot.actStage ≠ .checked →
    Runs (.activationComplete ⟨t, flash⟩) s (fun u => u = advance t s))
  ∧ ServesAction .rollbackAdvance 0x1412 0
      (fun _ s => s.boot.rollback ≠ s.boot.running.secVersion ∧ s.boot.bootStatus ≠ 2) 0 (fun _ _ => [])
      (fun _ s u => u.boot = { s.boot with rollback := s.boot.running.secVersion })
  ∧ RefusesAction .rollbackAdvance 0x1412 0 (fun _ s => s.boot.rollback = s.boot.running.secVersion) 8
  ∧ ServesAction .dikeLogClear 0x1432 0 (fun _ _ => True) 0 (fun _ _ => [])
      (fun _ s u => u.boot = { s.boot with dikeLog := [], dikeOverflowed := false })

/-- 15 R529, R530, R533, R535, 02 R63, R67, R90: a heartbeat restarts the Dike's time; without one the cores are
restarted, unless the image fails or it is the fifth in a row: then the Dike halts them; work that the cores did is
abandoned, and a polder change they were making took effect if its record was stored, and only then (10 R359).
Readings the model took: log entries 55, 133. -/
def Obligations.DikeRestarts : Prop :=
  (∀ (t : Nat) (s : State), s.boot.coresUp = true → s.boot.dikeState = 0 →
    (t ≤ s.boot.hbAt + min 50 s.boot.running.heartbeat * 10 ^ 12 → Runs (.heartbeat t) s (fun u =>
      u = modBoot (fun b => { b with hbAt := t, dikeRun := 0 }) (advance t s)))
    ∧ (s.boot.hbAt + min 50 s.boot.running.heartbeat * 10 ^ 12 < t → Runs (.heartbeat t) s (fun u => u = advance t s)))
  ∧ (∀ (t : Nat) (s : State), s.boot.coresUp = false ∨ s.boot.dikeState ≠ 0 →
    Runs (.heartbeat t) s (fun u => u = advance t s))
  ∧ (∀ (t reason : Nat) (s : State), s.boot.started = true → s.boot.coresUp = true → s.boot.dikeState = 0 →
    s.boot.actStage = .idle →
    (∀ d, t < s.boot.hbAt + min 50 s.boot.running.heartbeat * 10 ^ 12 →
      Runs (.dikeHeartbeatTimeout ⟨t, reason, d⟩) s (fun u => u = advance t s))
    ∧ (s.boot.hbAt + min 50 s.boot.running.heartbeat * 10 ^ 12 ≤ t →
      s.boot.slots.length = 2 → s.boot.slot ≤ 1 →
      Runs (.dikeHeartbeatTimeout ⟨t, reason, none⟩) s (fun u => u.boot.coresUp = false ∧ u.boot.dikeRun = s.boot.dikeRun + 1
        ∧ u.mbx.restart = true ∧ u.jrn.held = true ∧ u.dict.subs = [] ∧ u.dict.snaps = [] ∧ u.dict.stagings = []
        ∧ u.dict.outbox = [] ∧ u.polders = s.polders
        ∧ u.dict.storing = none ∧ (s.dict.storing.isSome = true → u.dict.storeStatus = 2)
        ∧ (∀ p ∈ s.dict.acts, p.req.session = 0 → p.req ∈ u.dict.busyAfter)
        ∧ (s.boot.dikeRun < 4 → counter u 0x1430 2 = satAdd64 (counter s 0x1430 2) 1 ∧ (evtStat u 0).testBit 8 = true)
        ∧ (s.boot.dikeRun < 4 → slotValid s s.boot.slot = true → reason = 0 → u.boot.dikeState = 1)
        ∧ (4 ≤ s.boot.dikeRun ∨ slotValid s s.boot.slot = false ∨ reason ≠ 0 →
            u.boot.dikeState = 2 ∧ (evtStat u 0).testBit 9 = true))))
  ∧ (∀ (t reason n : Nat) (f stored : Bool) (b : Bytes) (s : State), Canonical s → n < 4096 → s.boot.started = true →
    s.boot.coresUp = true → s.boot.dikeState = 0 → s.boot.actStage = .idle →
    s.boot.hbAt + min 50 s.boot.running.heartbeat * 10 ^ 12 ≤ t → Asks (advance t s) b (0x3000 + n) 0x10 →
    commitAborts (advance t s) true n = [] →
    Runs (.dikeHeartbeatTimeout ⟨t, reason, some (⟨t, .mailbox, f⟩, stored)⟩) s (fun u =>
      u.boot.coresUp = false ∧ u.mbx.restart = true ∧ reqHead (mbxReq (advance t s) f b) ∈ u.dict.busyAfter
      ∧ (stored = false → u.polders = s.polders ∧ u.boot.area = s.boot.area)
      ∧ (stored = true → (u.polder n).state = 1 ∧ (u.polder n).gen = (s.polder n).gen + 1
          ∧ (u.polder n).counts = stagedCounts s n)))
  ∧ (∀ (t reason : Nat) (d : Option (Rq × Bool)) (s : State), s.boot.started = false ∨ s.boot.coresUp = false
      ∨ s.boot.dikeState ≠ 0 ∨ s.boot.actStage ≠ .idle →
    Runs (.dikeHeartbeatTimeout ⟨t, reason, d⟩) s (fun u => u = advance t s))
  ∧ (∀ (t : Nat) (s : State), s.boot.actStage = .failed →
    Runs (.coreRestartComplete t) s (fun u => u.boot.actStage = .idle ∧ u.boot.dikeRun = 0 ∧ u.boot.hbAt = t
      ∧ u.boot.coresUp = decide (s.boot.bootStatus ≠ 2) ∧ u.boot.slot = s.boot.slot ∧ u.boot.running = s.boot.running
      ∧ u.mbx.restart = false ∧ u.jrn.held = false))
  ∧ (∀ (t : Nat) (s : State), s.boot.actStage ≠ .failed → s.boot.dikeState = 1 →
    Runs (.coreRestartComplete t) s (fun u => u.boot.dikeState = 0 ∧ u.boot.dikeRun = s.boot.dikeRun ∧ u.boot.hbAt = t
      ∧ u.boot.coresUp = decide (s.boot.bootStatus ≠ 2) ∧ u.boot.running = s.boot.running
      ∧ u.mbx.restart = false ∧ u.jrn.held = false ∧ u.dict.busyAfter = []
      ∧ (s.boot.log.length < 48 → u.boot.log[s.boot.log.length]?
          = some { kind := 9, seq := 0, digest := s.boot.running.digest })
      ∧ (∀ h, s.dict.busyAfter = [h] → h.session = 0 → u.mbx.busy = false ∧ u.mbx.done = true
          ∧ u.mbx.rsp = wordsOf (buildMsg 3 h.kind 28 0 h.reqId u.dict.epoch 0 h.index h.sub 0 9 0 []))))
  ∧ (∀ (t : Nat) (s : State), s.boot.actStage ≠ .failed → s.boot.dikeState ≠ 1 →
    Runs (.coreRestartComplete t) s (fun u => u = advance t s))

/-- 17 R559, R560, R564 to R567, R572: a test takes its die out of service, one at a time, with its ports; its end
compares the signature and answers the request; a die that failed returns at request, and every die returns with its
state empty. At the test access port IDCODE and SAMPLE/PRELOAD act at any time, BYPASS shifts one 0, and every other
instruction acts as BYPASS unless PERST_N is asserted; what a sample of the balls shows is free (log entry 21).
Readings the model took: log entries 56, 88. -/
def Obligations.SelfTests : Prop :=
  (∀ d < 4, TakesAction .selfTestRun 0x1500 2 (fun x s => beNat x = d ∧ ∀ e ∈ s.test.die, e.2 = 0) (.selfTest d)
    (fun _ s u => testDie u d = 1 ∧ (∀ j, j ≠ d → testDie u j = testDie s j)
      ∧ (∀ i < 128, portExists s (d * 128 + i) = true → (u.port (d * 128 + i)).link = .outOfService)))
  ∧ (∀ md < 2, TakesAction .selfTestRun 0x1500 2 (fun x s => beNat x = 4 + md ∧ (∀ e ∈ s.test.die, e.2 = 0)
      ∧ flowUsed s = false ∧ (s.cart md).state ∈ [0, 2, 6, 7] ∧ regionOn s md = false) (.selfTest (4 + md))
    (fun _ s u => testDie u (4 + md) = 1 ∧ (∀ j, j ≠ 4 + md → testDie u j = testDie s j)
      ∧ u.boot = { s.boot with ddrTrained := s.boot.ddrTrained.set md false }))
  ∧ RefusesAction .selfTestRun 0x1500 2 (fun x s => 7 < beNat x ∧ ∀ e ∈ s.test.die, e.2 = 0) 7
  ∧ RefusesAction .selfTestRun 0x1500 2 (fun x s => beNat x = 6 ∨ beNat x = 7 ∨ ∃ e ∈ s.test.die, e.2 ≠ 0) 8
  ∧ RefusesAction .selfTestRun 0x1500 2 (fun x s => (beNat x = 4 ∨ beNat x = 5) ∧ (flowUsed s = true
      ∨ (s.cart (beNat x - 4)).state ∉ [0, 2, 6, 7] ∨ regionOn s (beNat x - 4) = true)) 8
  ∧ (∀ (t die sig : Nat) (s : State) (good : Bool), testDie s die = 1 →
    good = decide (sig % 2 ^ 64 = s.boot.running.misr.getD die 0) → Tab.wf 0 s.test.sig = true →
    Runs (.selfTestEnd t die sig) s (fun u => testDie u die = (if good then 2 else 3)
      ∧ (∀ j, j ≠ die → testDie u j = testDie s j) ∧ Tab.get 0 u.test.sig die = sig % 2 ^ 64
      ∧ Tab.get 0 u.test.result die = (if good then 1 else 2) ∧ u.test.runs = satAdd64 s.test.runs 1
      ∧ (evtStat u 11).testBit 0 = true ∧ (good = false → (evtStat u 11).testBit 1 = true)
      ∧ (∀ p, p ∈ u.dict.acts ↔ p ∈ s.dict.acts ∧ p.act ≠ .selfTest die)))
  ∧ (∀ (t die sig : Nat) (s : State), testDie s die ≠ 1 → Runs (.selfTestEnd t die sig) s (fun u => u = advance t s))
  ∧ ServesAction .dieReturn 0x1500 3 (fun x s => beNat x ≤ 7 ∧ testDie s (beNat x) = 3) 0 (fun _ _ => [])
      (fun x s u => testDie u (beNat x) = 2 ∧ ∀ j, j ≠ beNat x → testDie u j = testDie s j)
  ∧ RefusesAction .dieReturn 0x1500 3 (fun x s => testDie s (beNat x) ≠ 3) 8
  ∧ (∀ (t die : Nat) (s : State), Canonical s → Tab.wf 0 s.test.die = true → testDie s die = 2 → die < 4 →
    Runs (.dieReturnComplete t die) s (fun u => testDie u die = 0 ∧ (∀ j, j ≠ die → testDie u j = testDie s j)
      ∧ (∀ i < 128, (u.port (die * 128 + i)).link ≠ .outOfService) ∧ u.dict.vals = s.dict.vals))
  ∧ (∀ (t md : Nat) (s : State), Tab.wf 0 s.test.die = true → testDie s (4 + md) = 2 → md < 2 →
    Runs (.dieReturnComplete t (4 + md)) s (fun u => testDie u (4 + md) = 0
      ∧ (∀ j, j ≠ 4 + md → testDie u j = testDie s j) ∧ u.boot.ddrTrained = s.boot.ddrTrained.set md true
      ∧ (∀ e, e ∈ u.siphon.ddr ↔ e ∈ s.siphon.ddr ∧ e.1 / 2 ^ 40 ≠ md)))
  ∧ (∀ (t die : Nat) (s : State), testDie s die ≠ 2 → Runs (.dieReturnComplete t die) s (fun u => u = advance t s))
  ∧ (∀ s : State, Runs .idcode s (fun u =>
    u = emit (.tap [0x6B, 0x2E, 0x51, 0x1A]) (modBoard (fun b => { b with tapInstr := 2 }) s)))
  ∧ (∀ (code : BitVec 8) (s : State), Runs (.bypass code) s (fun u =>
    u = emit (.tap [0]) (modBoard (fun b => { b with tapInstr := code.toNat }) s)))
  ∧ (∀ (cells : Bytes) (s : State), Runs (.samplePreload cells) s (fun u => ∃ b,
    u = emit (.tap b) { s with freeCtr := s.freeCtr + 1, board := { s.board with tapInstr := 1, boundary := cells } }))
  ∧ (∀ (k : Nat) (c : Instr) (s : State), (k, c) ∈ [(0, .extest), (8, .extestPulse), (9, .extestTrain)] →
    (s.board.perstLow = true → Runs c s (fun u => ∃ b, u = emit (.tap b)
      { s with freeCtr := s.freeCtr + 1, board := { s.board with tapInstr := k } }))
    ∧ (s.board.perstLow = false → Runs c s (fun u =>
      u = emit (.tap [0]) (modBoard (fun b => { b with tapInstr := k }) s))))
  ∧ (∀ (k : Nat) (c : Instr) (s : State), (k, c) ∈ [(5, .clamp), (6, .highz)] →
    (s.board.perstLow = true → Runs c s (fun u => u = modBoard (fun b => { b with tapInstr := k }) s))
    ∧ (s.board.perstLow = false → Runs c s (fun u =>
      u = emit (.tap [0]) (modBoard (fun b => { b with tapInstr := k }) s))))

/-! ### Every command -/

/-- One step takes the command at the front of the queue and is exec of it with the queue's rest; on an empty queue
the part idles (the model's choice, log entry 7). No command stops: each has a next state from every state. -/
def Obligations.StepTakesFront : Prop :=
  (∀ (c : Instr) (rest : List Instr) (s : State), s.pending = c :: rest → step s = exec c { s with pending := rest })
  ∧ (∀ s : State, s.pending = [] → step s = .next s)
  ∧ (∀ (c : Instr) (s : State), ∃ u, exec c s = .next u)

/-- Every step keeps the canonical form of the addressed memories and tables: keys rise strictly and nothing is listed
that reads as its default. -/
def Obligations.StepKeepsCanonical : Prop :=
  ∀ s u : State, Canonical s → step s = .next u → Canonical u

/-- The part after reset: its memories and tables are in canonical form, nothing waits, nothing runs, no interrupt is
raised, every function waits for configuration, and the registers read as their reset values (02 Table 2.5, 09 R316,
16 Tables 16.5, 16.6; what the spec leaves open is the model's: log entries 1 to 7, 20 to 23, 101 and 102). -/
def Obligations.ResetState : Prop :=
  Canonical State.reset ∧ State.reset.pending = [] ∧ State.reset.out = [] ∧ State.reset.boot.started = false
  ∧ (∀ g, evtStat State.reset g = 0 ∧ evtMask State.reset g = 0) ∧ State.reset.ep.inta = false
  ∧ (∀ fn, (State.reset.func fn).rrs = true ∧ (State.reset.func fn).busMaster = false
      ∧ (State.reset.func fn).memSpace = false ∧ (State.reset.func fn).msixEnable = false)
  ∧ State.reset.ep.vfEnable = false ∧ (∀ fn q, (State.reset.queue fn q).st = .disabled)
  ∧ mbxStatWord State.reset.mbx = 0 ∧ (∀ k, mbxWord State.reset (4 * k) = 0)
  ∧ (∀ p, (State.reset.port p).link = .disabled ∧ (State.reset.port p).frrState = 0)
  ∧ (∀ idx sub, counter State.reset idx sub = 0 ∧ cfg State.reset idx sub = objDefault idx sub)
  ∧ (∀ g, State.reset.keySlot g = KeySlot.reset) ∧ State.reset.time.state = tsUNSET ∧ State.reset.jrn.state = 0

/-- A command changes no block of the state outside those named for it, whatever its operands and whatever the
state: no frame changes a key, no cipher message changes a table, no read of a value changes what it reads. What an
occurrence sets anywhere (event status, counters of chapter 16, interrupts, the output) and the clock are no part of
a block. -/
def Obligations.FramesByBlock : Prop :=
  ∀ (c : Instr) (s u : State), exec c s = .next u → Frame (touches c) s u

/-- A step takes one command and no other from the queue, never turns time back, and takes back nothing that left the
part. -/
def Obligations.StepGoesForward : Prop :=
  ∀ s u : State, step s = .next u →
    u.pending = s.pending.tail ∧ s.clock ≤ u.clock ∧ ∃ l, u.out = s.out ++ l
end

