-- ==== Sys2Proof/Laws/Tab.lean ====
section
/-! SUPPORT. The laws of the canonical finite map: a read after a write gives the value written, a write
leaves every other key alone, and every write keeps the canonical form. -/

namespace Sys2Proof

variable {α : Type}

/-- Keys rise strictly: the half of the canonical form that does not depend on the default. -/
def Tab.sorted : Tab α → Bool
  | [] => true
  | (k, _) :: t => t.all (fun e => decide (k < e.1)) && Tab.sorted t

theorem Tab.get_of_below (d : α) (t : Tab α) (i : Nat) (h : t.all (fun e => decide (i < e.1)) = true) :
    Tab.get d t i = d := by
  induction t with
  | nil => rfl
  | cons e t ih =>
    obtain ⟨k, v⟩ := e
    simp only [List.all_cons, Bool.and_eq_true, decide_eq_true_eq] at h
    simp only [Tab.get]
    rw [if_neg (by omega)]
    exact ih h.2

theorem Tab.ins_all {t : Tab α} {i b : Nat} {v : α} (hb : b < i)
    (h : t.all (fun e => decide (b < e.1)) = true) :
    (Tab.ins t i v).all (fun e => decide (b < e.1)) = true := by
  induction t with
  | nil => simpa [Tab.ins] using hb
  | cons e t ih =>
    obtain ⟨k, w⟩ := e
    simp only [List.all_cons, Bool.and_eq_true, decide_eq_true_eq] at h
    simp only [Tab.ins]
    split
    · simp only [List.all_cons, Bool.and_eq_true, decide_eq_true_eq]
      exact ⟨hb, h⟩
    · split
      · simp only [List.all_cons, Bool.and_eq_true, decide_eq_true_eq]
        exact ⟨hb, h.2⟩
      · simp only [List.all_cons, Bool.and_eq_true, decide_eq_true_eq]
        exact ⟨h.1, ih h.2⟩

theorem Tab.del_all {t : Tab α} {i b : Nat} (h : t.all (fun e => decide (b < e.1)) = true) :
    (Tab.del t i).all (fun e => decide (b < e.1)) = true := by
  induction t with
  | nil => rfl
  | cons e t ih =>
    obtain ⟨k, w⟩ := e
    simp only [List.all_cons, Bool.and_eq_true, decide_eq_true_eq] at h
    simp only [Tab.del]
    split
    · exact h.2
    · simp only [List.all_cons, Bool.and_eq_true, decide_eq_true_eq]
      exact ⟨h.1, ih h.2⟩

section Canonical
variable [DecidableEq α] {d : α}

@[simp] theorem Tab.wf_nil : Tab.wf d ([] : Tab α) = true := rfl

theorem Tab.wf_cons {k : Nat} {v : α} {t : Tab α} :
    Tab.wf d ((k, v) :: t) = true ↔
      v ≠ d ∧ t.all (fun e => decide (k < e.1)) = true ∧ Tab.wf d t = true := by
  simp [Tab.wf, and_assoc]

/-- Taking a key out keeps the canonical form. -/
theorem Tab.wf_del {t : Tab α} (i : Nat) (h : Tab.wf d t = true) : Tab.wf d (Tab.del t i) = true := by
  induction t with
  | nil => rfl
  | cons e t ih =>
    obtain ⟨k, w⟩ := e
    obtain ⟨h1, h2, h3⟩ := Tab.wf_cons.mp h
    simp only [Tab.del]
    split
    · exact h3
    · exact Tab.wf_cons.mpr ⟨h1, Tab.del_all h2, ih h3⟩

/-- Listing a value that is not the default keeps the canonical form. -/
theorem Tab.wf_ins {t : Tab α} (i : Nat) {v : α} (hv : v ≠ d) (h : Tab.wf d t = true) :
    Tab.wf d (Tab.ins t i v) = true := by
  induction t with
  | nil => exact Tab.wf_cons.mpr ⟨hv, rfl, rfl⟩
  | cons e t ih =>
    obtain ⟨k, w⟩ := e
    obtain ⟨h1, h2, h3⟩ := Tab.wf_cons.mp h
    simp only [Tab.ins]
    split
    · rename_i hlt
      refine Tab.wf_cons.mpr ⟨hv, ?_, h⟩
      simp only [List.all_cons, Bool.and_eq_true, decide_eq_true_eq]
      refine ⟨hlt, ?_⟩
      rw [List.all_eq_true] at h2 ⊢
      intro e he
      have := h2 e he
      simp only [decide_eq_true_eq] at this ⊢
      omega
    · split
      · rename_i heq
        subst heq
        exact Tab.wf_cons.mpr ⟨hv, h2, h3⟩
      · exact Tab.wf_cons.mpr ⟨h1, Tab.ins_all (by omega) h2, ih h3⟩

/-- Every write keeps the canonical form. -/
theorem Tab.wf_set {t : Tab α} (i : Nat) (v : α) (h : Tab.wf d t = true) :
    Tab.wf d (Tab.set d t i v) = true := by
  unfold Tab.set
  split
  · exact Tab.wf_del i h
  · exact Tab.wf_ins i ‹_› h

theorem Tab.wf_upd {t : Tab α} (i : Nat) (f : α → α) (h : Tab.wf d t = true) :
    Tab.wf d (Tab.upd d t i f) = true := Tab.wf_set i _ h

theorem Tab.wf_ite {a b : Tab α} {c : Prop} [Decidable c] (ha : Tab.wf d a = true) (hb : Tab.wf d b = true) :
    Tab.wf d (if c then a else b) = true := by split <;> assumption

/-- A selection of a map's entries keeps the canonical form. -/
theorem Tab.wf_filter {t : Tab α} (p : Nat × α → Bool) (h : Tab.wf d t = true) :
    Tab.wf d (t.filter p) = true := by
  induction t with
  | nil => rfl
  | cons e t ih =>
    obtain ⟨k, w⟩ := e
    obtain ⟨h1, h2, h3⟩ := Tab.wf_cons.mp h
    rw [List.filter_cons]
    split
    · refine Tab.wf_cons.mpr ⟨h1, ?_, ih h3⟩
      rw [List.all_eq_true] at h2 ⊢
      intro e he
      exact h2 e (List.mem_filter.mp he).1
    · exact ih h3

/-- A change of every listed value that never gives the default keeps the canonical form. -/
theorem Tab.wf_map {t : Tab α} (f : α → α) (hf : ∀ v, v ≠ d → f v ≠ d) (h : Tab.wf d t = true) :
    Tab.wf d (t.map (fun e => (e.1, f e.2))) = true := by
  induction t with
  | nil => rfl
  | cons e t ih =>
    obtain ⟨k, v⟩ := e
    rw [Tab.wf_cons] at h
    exact Tab.wf_cons.mpr ⟨hf v h.1, by simpa using h.2.1, ih h.2.2⟩

/-- A fold of writes keeps the canonical form. -/
theorem Tab.wf_foldl {β : Type} (l : List β) (f : Tab α → β → Tab α) {t : Tab α}
    (hf : ∀ m b, Tab.wf d m = true → Tab.wf d (f m b) = true) (h : Tab.wf d t = true) :
    Tab.wf d (l.foldl f t) = true := by
  induction l generalizing t with
  | nil => exact h
  | cons b l ih => exact ih (hf t b h)

omit [DecidableEq α] in
theorem Tab.get_ins_same (t : Tab α) (i : Nat) (v : α) : Tab.get d (Tab.ins t i v) i = v := by
  induction t with
  | nil => simp [Tab.ins, Tab.get]
  | cons e t ih =>
    obtain ⟨k, w⟩ := e
    simp only [Tab.ins]
    split
    · simp [Tab.get]
    · split
      · simp [Tab.get]
      · simp only [Tab.get]
        rw [if_neg (by omega)]
        exact ih

omit [DecidableEq α] in
theorem Tab.get_ins_other (t : Tab α) {i j : Nat} (v : α) (h : i ≠ j) :
    Tab.get d (Tab.ins t i v) j = Tab.get d t j := by
  induction t with
  | nil => simp [Tab.ins, Tab.get, h]
  | cons e t ih =>
    obtain ⟨k, w⟩ := e
    simp only [Tab.ins]
    split
    · simp only [Tab.get]; rw [if_neg h]
    · split
      · rename_i heq; subst heq; simp only [Tab.get]; rw [if_neg h, if_neg h]
      · simp only [Tab.get]; rw [ih]

omit [DecidableEq α] in
theorem Tab.get_del_other (t : Tab α) {i j : Nat} (h : i ≠ j) :
    Tab.get d (Tab.del t i) j = Tab.get d t j := by
  induction t with
  | nil => rfl
  | cons e t ih =>
    obtain ⟨k, w⟩ := e
    simp only [Tab.del]
    split
    · rename_i heq; subst heq; simp only [Tab.get]; rw [if_neg h]
    · simp only [Tab.get]; rw [ih]

theorem Tab.get_del_same {t : Tab α} (i : Nat) (h : Tab.wf d t = true) : Tab.get d (Tab.del t i) i = d := by
  induction t with
  | nil => rfl
  | cons e t ih =>
    obtain ⟨k, w⟩ := e
    obtain ⟨_, h2, h3⟩ := Tab.wf_cons.mp h
    simp only [Tab.del]
    split
    · rename_i heq; subst heq; exact Tab.get_of_below d t k h2
    · simp only [Tab.get]; rw [if_neg ‹_›]; exact ih h3

/-- A read after a write to the same key gives the value written. -/
theorem Tab.get_set_same {t : Tab α} (i : Nat) (v : α) (h : Tab.wf d t = true) :
    Tab.get d (Tab.set d t i v) i = v := by
  unfold Tab.set
  split
  · rename_i hv; rw [hv]; exact Tab.get_del_same i h
  · exact Tab.get_ins_same t i v

/-- A write leaves every other key alone. -/
@[simp] theorem Tab.get_set_other (t : Tab α) {i j : Nat} (v : α) (h : i ≠ j) :
    Tab.get d (Tab.set d t i v) j = Tab.get d t j := by
  unfold Tab.set
  split
  · exact Tab.get_del_other t h
  · exact Tab.get_ins_other t v h

/-- Writing a value that is not the default reads back in any map. -/
theorem Tab.get_set_of_ne (t : Tab α) (i : Nat) {v : α} (h : v ≠ d) :
    Tab.get d (Tab.set d t i v) i = v := by
  unfold Tab.set
  rw [if_neg h]
  exact Tab.get_ins_same t i v

/-- What a filter keeps reads as before. -/
theorem Tab.get_filter (t : Tab α) (p : Nat × α → Bool) (i : Nat) (h : ∀ v, p (i, v) = true) :
    Tab.get d (t.filter p) i = Tab.get d t i := by
  induction t with
  | nil => rfl
  | cons e t ih =>
    obtain ⟨k, v⟩ := e
    by_cases hk : k = i
    · subst hk
      rw [List.filter_cons_of_pos (h v)]
      simp [Tab.get]
    · by_cases hp : p (k, v) = true
      · rw [List.filter_cons_of_pos hp]
        simp [Tab.get, hk, ih]
      · rw [List.filter_cons_of_neg hp]
        simp [Tab.get, hk, ih]

/-- What a filter drops reads as the default. -/
theorem Tab.get_filter_none (t : Tab α) (p : Nat × α → Bool) (i : Nat) (h : ∀ v, p (i, v) = false) :
    Tab.get d (t.filter p) i = d := by
  induction t with
  | nil => rfl
  | cons e t ih =>
    obtain ⟨k, v⟩ := e
    by_cases hp : p (k, v) = true
    · have hk : k ≠ i := fun e => by subst e; rw [h v] at hp; exact absurd hp (by decide)
      rw [List.filter_cons_of_pos hp]
      simp [Tab.get, hk, ih]
    · rw [List.filter_cons_of_neg hp]
      exact ih

end Canonical
end Sys2Proof
end

