-- ==== Sys2Proof/Laws/State.lean ====
section
/-! SUPPORT. The fields of the state after each update of one block or one record: every other field is as
before. True by computation, and used by simp, so that no proof unfolds an update of the state. -/

namespace Sys2Proof.Machine

section Updates
variable (s : State)

@[simp] theorem modBoard_pending (f : Board → Board) : (modBoard f s).pending = s.pending := rfl
@[simp] theorem modBoard_clock (f : Board → Board) : (modBoard f s).clock = s.clock := rfl
@[simp] theorem modBoard_freeCtr (f : Board → Board) : (modBoard f s).freeCtr = s.freeCtr := rfl
@[simp] theorem modBoard_nextId (f : Board → Board) : (modBoard f s).nextId = s.nextId := rfl
@[simp] theorem modBoard_out (f : Board → Board) : (modBoard f s).out = s.out := rfl
@[simp] theorem modBoard_board (f : Board → Board) : (modBoard f s).board = f s.board := rfl
@[simp] theorem modBoard_boot (f : Board → Board) : (modBoard f s).boot = s.boot := rfl
@[simp] theorem modBoard_dict (f : Board → Board) : (modBoard f s).dict = s.dict := rfl
@[simp] theorem modBoard_mbx (f : Board → Board) : (modBoard f s).mbx = s.mbx := rfl
@[simp] theorem modBoard_ports (f : Board → Board) : (modBoard f s).ports = s.ports := rfl
@[simp] theorem modBoard_time (f : Board → Board) : (modBoard f s).time = s.time := rfl
@[simp] theorem modBoard_frer (f : Board → Board) : (modBoard f s).frer = s.frer := rfl
@[simp] theorem modBoard_cls (f : Board → Board) : (modBoard f s).cls = s.cls := rfl
@[simp] theorem modBoard_tables (f : Board → Board) : (modBoard f s).tables = s.tables := rfl
@[simp] theorem modBoard_flow (f : Board → Board) : (modBoard f s).flow = s.flow := rfl
@[simp] theorem modBoard_buf (f : Board → Board) : (modBoard f s).buf = s.buf := rfl
@[simp] theorem modBoard_sched (f : Board → Board) : (modBoard f s).sched = s.sched := rfl
@[simp] theorem modBoard_ep (f : Board → Board) : (modBoard f s).ep = s.ep := rfl
@[simp] theorem modBoard_polders (f : Board → Board) : (modBoard f s).polders = s.polders := rfl
@[simp] theorem modBoard_wq (f : Board → Board) : (modBoard f s).wq = s.wq := rfl
@[simp] theorem modBoard_cipher (f : Board → Board) : (modBoard f s).cipher = s.cipher := rfl
@[simp] theorem modBoard_siphon (f : Board → Board) : (modBoard f s).siphon = s.siphon := rfl
@[simp] theorem modBoard_jrn (f : Board → Board) : (modBoard f s).jrn = s.jrn := rfl
@[simp] theorem modBoard_evt (f : Board → Board) : (modBoard f s).evt = s.evt := rfl
@[simp] theorem modBoard_test (f : Board → Board) : (modBoard f s).test = s.test := rfl
@[simp] theorem modBoard_culv (f : Board → Board) : (modBoard f s).culv = s.culv := rfl

@[simp] theorem modBoot_pending (f : Boot → Boot) : (modBoot f s).pending = s.pending := rfl
@[simp] theorem modBoot_clock (f : Boot → Boot) : (modBoot f s).clock = s.clock := rfl
@[simp] theorem modBoot_freeCtr (f : Boot → Boot) : (modBoot f s).freeCtr = s.freeCtr := rfl
@[simp] theorem modBoot_nextId (f : Boot → Boot) : (modBoot f s).nextId = s.nextId := rfl
@[simp] theorem modBoot_out (f : Boot → Boot) : (modBoot f s).out = s.out := rfl
@[simp] theorem modBoot_board (f : Boot → Boot) : (modBoot f s).board = s.board := rfl
@[simp] theorem modBoot_boot (f : Boot → Boot) : (modBoot f s).boot = f s.boot := rfl
@[simp] theorem modBoot_dict (f : Boot → Boot) : (modBoot f s).dict = s.dict := rfl
@[simp] theorem modBoot_mbx (f : Boot → Boot) : (modBoot f s).mbx = s.mbx := rfl
@[simp] theorem modBoot_ports (f : Boot → Boot) : (modBoot f s).ports = s.ports := rfl
@[simp] theorem modBoot_time (f : Boot → Boot) : (modBoot f s).time = s.time := rfl
@[simp] theorem modBoot_frer (f : Boot → Boot) : (modBoot f s).frer = s.frer := rfl
@[simp] theorem modBoot_cls (f : Boot → Boot) : (modBoot f s).cls = s.cls := rfl
@[simp] theorem modBoot_tables (f : Boot → Boot) : (modBoot f s).tables = s.tables := rfl
@[simp] theorem modBoot_flow (f : Boot → Boot) : (modBoot f s).flow = s.flow := rfl
@[simp] theorem modBoot_buf (f : Boot → Boot) : (modBoot f s).buf = s.buf := rfl
@[simp] theorem modBoot_sched (f : Boot → Boot) : (modBoot f s).sched = s.sched := rfl
@[simp] theorem modBoot_ep (f : Boot → Boot) : (modBoot f s).ep = s.ep := rfl
@[simp] theorem modBoot_polders (f : Boot → Boot) : (modBoot f s).polders = s.polders := rfl
@[simp] theorem modBoot_wq (f : Boot → Boot) : (modBoot f s).wq = s.wq := rfl
@[simp] theorem modBoot_cipher (f : Boot → Boot) : (modBoot f s).cipher = s.cipher := rfl
@[simp] theorem modBoot_siphon (f : Boot → Boot) : (modBoot f s).siphon = s.siphon := rfl
@[simp] theorem modBoot_jrn (f : Boot → Boot) : (modBoot f s).jrn = s.jrn := rfl
@[simp] theorem modBoot_evt (f : Boot → Boot) : (modBoot f s).evt = s.evt := rfl
@[simp] theorem modBoot_test (f : Boot → Boot) : (modBoot f s).test = s.test := rfl
@[simp] theorem modBoot_culv (f : Boot → Boot) : (modBoot f s).culv = s.culv := rfl

@[simp] theorem modDict_pending (f : Dict → Dict) : (modDict f s).pending = s.pending := rfl
@[simp] theorem modDict_clock (f : Dict → Dict) : (modDict f s).clock = s.clock := rfl
@[simp] theorem modDict_freeCtr (f : Dict → Dict) : (modDict f s).freeCtr = s.freeCtr := rfl
@[simp] theorem modDict_nextId (f : Dict → Dict) : (modDict f s).nextId = s.nextId := rfl
@[simp] theorem modDict_out (f : Dict → Dict) : (modDict f s).out = s.out := rfl
@[simp] theorem modDict_board (f : Dict → Dict) : (modDict f s).board = s.board := rfl
@[simp] theorem modDict_boot (f : Dict → Dict) : (modDict f s).boot = s.boot := rfl
@[simp] theorem modDict_dict (f : Dict → Dict) : (modDict f s).dict = f s.dict := rfl
@[simp] theorem modDict_mbx (f : Dict → Dict) : (modDict f s).mbx = s.mbx := rfl
@[simp] theorem modDict_ports (f : Dict → Dict) : (modDict f s).ports = s.ports := rfl
@[simp] theorem modDict_time (f : Dict → Dict) : (modDict f s).time = s.time := rfl
@[simp] theorem modDict_frer (f : Dict → Dict) : (modDict f s).frer = s.frer := rfl
@[simp] theorem modDict_cls (f : Dict → Dict) : (modDict f s).cls = s.cls := rfl
@[simp] theorem modDict_tables (f : Dict → Dict) : (modDict f s).tables = s.tables := rfl
@[simp] theorem modDict_flow (f : Dict → Dict) : (modDict f s).flow = s.flow := rfl
@[simp] theorem modDict_buf (f : Dict → Dict) : (modDict f s).buf = s.buf := rfl
@[simp] theorem modDict_sched (f : Dict → Dict) : (modDict f s).sched = s.sched := rfl
@[simp] theorem modDict_ep (f : Dict → Dict) : (modDict f s).ep = s.ep := rfl
@[simp] theorem modDict_polders (f : Dict → Dict) : (modDict f s).polders = s.polders := rfl
@[simp] theorem modDict_wq (f : Dict → Dict) : (modDict f s).wq = s.wq := rfl
@[simp] theorem modDict_cipher (f : Dict → Dict) : (modDict f s).cipher = s.cipher := rfl
@[simp] theorem modDict_siphon (f : Dict → Dict) : (modDict f s).siphon = s.siphon := rfl
@[simp] theorem modDict_jrn (f : Dict → Dict) : (modDict f s).jrn = s.jrn := rfl
@[simp] theorem modDict_evt (f : Dict → Dict) : (modDict f s).evt = s.evt := rfl
@[simp] theorem modDict_test (f : Dict → Dict) : (modDict f s).test = s.test := rfl
@[simp] theorem modDict_culv (f : Dict → Dict) : (modDict f s).culv = s.culv := rfl

@[simp] theorem modMbx_pending (f : Mailbox → Mailbox) : (modMbx f s).pending = s.pending := rfl
@[simp] theorem modMbx_clock (f : Mailbox → Mailbox) : (modMbx f s).clock = s.clock := rfl
@[simp] theorem modMbx_freeCtr (f : Mailbox → Mailbox) : (modMbx f s).freeCtr = s.freeCtr := rfl
@[simp] theorem modMbx_nextId (f : Mailbox → Mailbox) : (modMbx f s).nextId = s.nextId := rfl
@[simp] theorem modMbx_out (f : Mailbox → Mailbox) : (modMbx f s).out = s.out := rfl
@[simp] theorem modMbx_board (f : Mailbox → Mailbox) : (modMbx f s).board = s.board := rfl
@[simp] theorem modMbx_boot (f : Mailbox → Mailbox) : (modMbx f s).boot = s.boot := rfl
@[simp] theorem modMbx_dict (f : Mailbox → Mailbox) : (modMbx f s).dict = s.dict := rfl
@[simp] theorem modMbx_mbx (f : Mailbox → Mailbox) : (modMbx f s).mbx = f s.mbx := rfl
@[simp] theorem modMbx_ports (f : Mailbox → Mailbox) : (modMbx f s).ports = s.ports := rfl
@[simp] theorem modMbx_time (f : Mailbox → Mailbox) : (modMbx f s).time = s.time := rfl
@[simp] theorem modMbx_frer (f : Mailbox → Mailbox) : (modMbx f s).frer = s.frer := rfl
@[simp] theorem modMbx_cls (f : Mailbox → Mailbox) : (modMbx f s).cls = s.cls := rfl
@[simp] theorem modMbx_tables (f : Mailbox → Mailbox) : (modMbx f s).tables = s.tables := rfl
@[simp] theorem modMbx_flow (f : Mailbox → Mailbox) : (modMbx f s).flow = s.flow := rfl
@[simp] theorem modMbx_buf (f : Mailbox → Mailbox) : (modMbx f s).buf = s.buf := rfl
@[simp] theorem modMbx_sched (f : Mailbox → Mailbox) : (modMbx f s).sched = s.sched := rfl
@[simp] theorem modMbx_ep (f : Mailbox → Mailbox) : (modMbx f s).ep = s.ep := rfl
@[simp] theorem modMbx_polders (f : Mailbox → Mailbox) : (modMbx f s).polders = s.polders := rfl
@[simp] theorem modMbx_wq (f : Mailbox → Mailbox) : (modMbx f s).wq = s.wq := rfl
@[simp] theorem modMbx_cipher (f : Mailbox → Mailbox) : (modMbx f s).cipher = s.cipher := rfl
@[simp] theorem modMbx_siphon (f : Mailbox → Mailbox) : (modMbx f s).siphon = s.siphon := rfl
@[simp] theorem modMbx_jrn (f : Mailbox → Mailbox) : (modMbx f s).jrn = s.jrn := rfl
@[simp] theorem modMbx_evt (f : Mailbox → Mailbox) : (modMbx f s).evt = s.evt := rfl
@[simp] theorem modMbx_test (f : Mailbox → Mailbox) : (modMbx f s).test = s.test := rfl
@[simp] theorem modMbx_culv (f : Mailbox → Mailbox) : (modMbx f s).culv = s.culv := rfl

@[simp] theorem modTime_pending (f : TimeBase → TimeBase) : (modTime f s).pending = s.pending := rfl
@[simp] theorem modTime_clock (f : TimeBase → TimeBase) : (modTime f s).clock = s.clock := rfl
@[simp] theorem modTime_freeCtr (f : TimeBase → TimeBase) : (modTime f s).freeCtr = s.freeCtr := rfl
@[simp] theorem modTime_nextId (f : TimeBase → TimeBase) : (modTime f s).nextId = s.nextId := rfl
@[simp] theorem modTime_out (f : TimeBase → TimeBase) : (modTime f s).out = s.out := rfl
@[simp] theorem modTime_board (f : TimeBase → TimeBase) : (modTime f s).board = s.board := rfl
@[simp] theorem modTime_boot (f : TimeBase → TimeBase) : (modTime f s).boot = s.boot := rfl
@[simp] theorem modTime_dict (f : TimeBase → TimeBase) : (modTime f s).dict = s.dict := rfl
@[simp] theorem modTime_mbx (f : TimeBase → TimeBase) : (modTime f s).mbx = s.mbx := rfl
@[simp] theorem modTime_ports (f : TimeBase → TimeBase) : (modTime f s).ports = s.ports := rfl
@[simp] theorem modTime_time (f : TimeBase → TimeBase) : (modTime f s).time = f s.time := rfl
@[simp] theorem modTime_frer (f : TimeBase → TimeBase) : (modTime f s).frer = s.frer := rfl
@[simp] theorem modTime_cls (f : TimeBase → TimeBase) : (modTime f s).cls = s.cls := rfl
@[simp] theorem modTime_tables (f : TimeBase → TimeBase) : (modTime f s).tables = s.tables := rfl
@[simp] theorem modTime_flow (f : TimeBase → TimeBase) : (modTime f s).flow = s.flow := rfl
@[simp] theorem modTime_buf (f : TimeBase → TimeBase) : (modTime f s).buf = s.buf := rfl
@[simp] theorem modTime_sched (f : TimeBase → TimeBase) : (modTime f s).sched = s.sched := rfl
@[simp] theorem modTime_ep (f : TimeBase → TimeBase) : (modTime f s).ep = s.ep := rfl
@[simp] theorem modTime_polders (f : TimeBase → TimeBase) : (modTime f s).polders = s.polders := rfl
@[simp] theorem modTime_wq (f : TimeBase → TimeBase) : (modTime f s).wq = s.wq := rfl
@[simp] theorem modTime_cipher (f : TimeBase → TimeBase) : (modTime f s).cipher = s.cipher := rfl
@[simp] theorem modTime_siphon (f : TimeBase → TimeBase) : (modTime f s).siphon = s.siphon := rfl
@[simp] theorem modTime_jrn (f : TimeBase → TimeBase) : (modTime f s).jrn = s.jrn := rfl
@[simp] theorem modTime_evt (f : TimeBase → TimeBase) : (modTime f s).evt = s.evt := rfl
@[simp] theorem modTime_test (f : TimeBase → TimeBase) : (modTime f s).test = s.test := rfl
@[simp] theorem modTime_culv (f : TimeBase → TimeBase) : (modTime f s).culv = s.culv := rfl

@[simp] theorem modCls_pending (f : Classifier → Classifier) : (modCls f s).pending = s.pending := rfl
@[simp] theorem modCls_clock (f : Classifier → Classifier) : (modCls f s).clock = s.clock := rfl
@[simp] theorem modCls_freeCtr (f : Classifier → Classifier) : (modCls f s).freeCtr = s.freeCtr := rfl
@[simp] theorem modCls_nextId (f : Classifier → Classifier) : (modCls f s).nextId = s.nextId := rfl
@[simp] theorem modCls_out (f : Classifier → Classifier) : (modCls f s).out = s.out := rfl
@[simp] theorem modCls_board (f : Classifier → Classifier) : (modCls f s).board = s.board := rfl
@[simp] theorem modCls_boot (f : Classifier → Classifier) : (modCls f s).boot = s.boot := rfl
@[simp] theorem modCls_dict (f : Classifier → Classifier) : (modCls f s).dict = s.dict := rfl
@[simp] theorem modCls_mbx (f : Classifier → Classifier) : (modCls f s).mbx = s.mbx := rfl
@[simp] theorem modCls_ports (f : Classifier → Classifier) : (modCls f s).ports = s.ports := rfl
@[simp] theorem modCls_time (f : Classifier → Classifier) : (modCls f s).time = s.time := rfl
@[simp] theorem modCls_frer (f : Classifier → Classifier) : (modCls f s).frer = s.frer := rfl
@[simp] theorem modCls_cls (f : Classifier → Classifier) : (modCls f s).cls = f s.cls := rfl
@[simp] theorem modCls_tables (f : Classifier → Classifier) : (modCls f s).tables = s.tables := rfl
@[simp] theorem modCls_flow (f : Classifier → Classifier) : (modCls f s).flow = s.flow := rfl
@[simp] theorem modCls_buf (f : Classifier → Classifier) : (modCls f s).buf = s.buf := rfl
@[simp] theorem modCls_sched (f : Classifier → Classifier) : (modCls f s).sched = s.sched := rfl
@[simp] theorem modCls_ep (f : Classifier → Classifier) : (modCls f s).ep = s.ep := rfl
@[simp] theorem modCls_polders (f : Classifier → Classifier) : (modCls f s).polders = s.polders := rfl
@[simp] theorem modCls_wq (f : Classifier → Classifier) : (modCls f s).wq = s.wq := rfl
@[simp] theorem modCls_cipher (f : Classifier → Classifier) : (modCls f s).cipher = s.cipher := rfl
@[simp] theorem modCls_siphon (f : Classifier → Classifier) : (modCls f s).siphon = s.siphon := rfl
@[simp] theorem modCls_jrn (f : Classifier → Classifier) : (modCls f s).jrn = s.jrn := rfl
@[simp] theorem modCls_evt (f : Classifier → Classifier) : (modCls f s).evt = s.evt := rfl
@[simp] theorem modCls_test (f : Classifier → Classifier) : (modCls f s).test = s.test := rfl
@[simp] theorem modCls_culv (f : Classifier → Classifier) : (modCls f s).culv = s.culv := rfl

@[simp] theorem modTables_pending (f : Tables → Tables) : (modTables f s).pending = s.pending := rfl
@[simp] theorem modTables_clock (f : Tables → Tables) : (modTables f s).clock = s.clock := rfl
@[simp] theorem modTables_freeCtr (f : Tables → Tables) : (modTables f s).freeCtr = s.freeCtr := rfl
@[simp] theorem modTables_nextId (f : Tables → Tables) : (modTables f s).nextId = s.nextId := rfl
@[simp] theorem modTables_out (f : Tables → Tables) : (modTables f s).out = s.out := rfl
@[simp] theorem modTables_board (f : Tables → Tables) : (modTables f s).board = s.board := rfl
@[simp] theorem modTables_boot (f : Tables → Tables) : (modTables f s).boot = s.boot := rfl
@[simp] theorem modTables_dict (f : Tables → Tables) : (modTables f s).dict = s.dict := rfl
@[simp] theorem modTables_mbx (f : Tables → Tables) : (modTables f s).mbx = s.mbx := rfl
@[simp] theorem modTables_ports (f : Tables → Tables) : (modTables f s).ports = s.ports := rfl
@[simp] theorem modTables_time (f : Tables → Tables) : (modTables f s).time = s.time := rfl
@[simp] theorem modTables_frer (f : Tables → Tables) : (modTables f s).frer = s.frer := rfl
@[simp] theorem modTables_cls (f : Tables → Tables) : (modTables f s).cls = s.cls := rfl
@[simp] theorem modTables_tables (f : Tables → Tables) : (modTables f s).tables = f s.tables := rfl
@[simp] theorem modTables_flow (f : Tables → Tables) : (modTables f s).flow = s.flow := rfl
@[simp] theorem modTables_buf (f : Tables → Tables) : (modTables f s).buf = s.buf := rfl
@[simp] theorem modTables_sched (f : Tables → Tables) : (modTables f s).sched = s.sched := rfl
@[simp] theorem modTables_ep (f : Tables → Tables) : (modTables f s).ep = s.ep := rfl
@[simp] theorem modTables_polders (f : Tables → Tables) : (modTables f s).polders = s.polders := rfl
@[simp] theorem modTables_wq (f : Tables → Tables) : (modTables f s).wq = s.wq := rfl
@[simp] theorem modTables_cipher (f : Tables → Tables) : (modTables f s).cipher = s.cipher := rfl
@[simp] theorem modTables_siphon (f : Tables → Tables) : (modTables f s).siphon = s.siphon := rfl
@[simp] theorem modTables_jrn (f : Tables → Tables) : (modTables f s).jrn = s.jrn := rfl
@[simp] theorem modTables_evt (f : Tables → Tables) : (modTables f s).evt = s.evt := rfl
@[simp] theorem modTables_test (f : Tables → Tables) : (modTables f s).test = s.test := rfl
@[simp] theorem modTables_culv (f : Tables → Tables) : (modTables f s).culv = s.culv := rfl

@[simp] theorem modFlow_pending (f : Flow → Flow) : (modFlow f s).pending = s.pending := rfl
@[simp] theorem modFlow_clock (f : Flow → Flow) : (modFlow f s).clock = s.clock := rfl
@[simp] theorem modFlow_freeCtr (f : Flow → Flow) : (modFlow f s).freeCtr = s.freeCtr := rfl
@[simp] theorem modFlow_nextId (f : Flow → Flow) : (modFlow f s).nextId = s.nextId := rfl
@[simp] theorem modFlow_out (f : Flow → Flow) : (modFlow f s).out = s.out := rfl
@[simp] theorem modFlow_board (f : Flow → Flow) : (modFlow f s).board = s.board := rfl
@[simp] theorem modFlow_boot (f : Flow → Flow) : (modFlow f s).boot = s.boot := rfl
@[simp] theorem modFlow_dict (f : Flow → Flow) : (modFlow f s).dict = s.dict := rfl
@[simp] theorem modFlow_mbx (f : Flow → Flow) : (modFlow f s).mbx = s.mbx := rfl
@[simp] theorem modFlow_ports (f : Flow → Flow) : (modFlow f s).ports = s.ports := rfl
@[simp] theorem modFlow_time (f : Flow → Flow) : (modFlow f s).time = s.time := rfl
@[simp] theorem modFlow_frer (f : Flow → Flow) : (modFlow f s).frer = s.frer := rfl
@[simp] theorem modFlow_cls (f : Flow → Flow) : (modFlow f s).cls = s.cls := rfl
@[simp] theorem modFlow_tables (f : Flow → Flow) : (modFlow f s).tables = s.tables := rfl
@[simp] theorem modFlow_flow (f : Flow → Flow) : (modFlow f s).flow = f s.flow := rfl
@[simp] theorem modFlow_buf (f : Flow → Flow) : (modFlow f s).buf = s.buf := rfl
@[simp] theorem modFlow_sched (f : Flow → Flow) : (modFlow f s).sched = s.sched := rfl
@[simp] theorem modFlow_ep (f : Flow → Flow) : (modFlow f s).ep = s.ep := rfl
@[simp] theorem modFlow_polders (f : Flow → Flow) : (modFlow f s).polders = s.polders := rfl
@[simp] theorem modFlow_wq (f : Flow → Flow) : (modFlow f s).wq = s.wq := rfl
@[simp] theorem modFlow_cipher (f : Flow → Flow) : (modFlow f s).cipher = s.cipher := rfl
@[simp] theorem modFlow_siphon (f : Flow → Flow) : (modFlow f s).siphon = s.siphon := rfl
@[simp] theorem modFlow_jrn (f : Flow → Flow) : (modFlow f s).jrn = s.jrn := rfl
@[simp] theorem modFlow_evt (f : Flow → Flow) : (modFlow f s).evt = s.evt := rfl
@[simp] theorem modFlow_test (f : Flow → Flow) : (modFlow f s).test = s.test := rfl
@[simp] theorem modFlow_culv (f : Flow → Flow) : (modFlow f s).culv = s.culv := rfl

@[simp] theorem modBuf_pending (f : Buffers → Buffers) : (modBuf f s).pending = s.pending := rfl
@[simp] theorem modBuf_clock (f : Buffers → Buffers) : (modBuf f s).clock = s.clock := rfl
@[simp] theorem modBuf_freeCtr (f : Buffers → Buffers) : (modBuf f s).freeCtr = s.freeCtr := rfl
@[simp] theorem modBuf_nextId (f : Buffers → Buffers) : (modBuf f s).nextId = s.nextId := rfl
@[simp] theorem modBuf_out (f : Buffers → Buffers) : (modBuf f s).out = s.out := rfl
@[simp] theorem modBuf_board (f : Buffers → Buffers) : (modBuf f s).board = s.board := rfl
@[simp] theorem modBuf_boot (f : Buffers → Buffers) : (modBuf f s).boot = s.boot := rfl
@[simp] theorem modBuf_dict (f : Buffers → Buffers) : (modBuf f s).dict = s.dict := rfl
@[simp] theorem modBuf_mbx (f : Buffers → Buffers) : (modBuf f s).mbx = s.mbx := rfl
@[simp] theorem modBuf_ports (f : Buffers → Buffers) : (modBuf f s).ports = s.ports := rfl
@[simp] theorem modBuf_time (f : Buffers → Buffers) : (modBuf f s).time = s.time := rfl
@[simp] theorem modBuf_frer (f : Buffers → Buffers) : (modBuf f s).frer = s.frer := rfl
@[simp] theorem modBuf_cls (f : Buffers → Buffers) : (modBuf f s).cls = s.cls := rfl
@[simp] theorem modBuf_tables (f : Buffers → Buffers) : (modBuf f s).tables = s.tables := rfl
@[simp] theorem modBuf_flow (f : Buffers → Buffers) : (modBuf f s).flow = s.flow := rfl
@[simp] theorem modBuf_buf (f : Buffers → Buffers) : (modBuf f s).buf = f s.buf := rfl
@[simp] theorem modBuf_sched (f : Buffers → Buffers) : (modBuf f s).sched = s.sched := rfl
@[simp] theorem modBuf_ep (f : Buffers → Buffers) : (modBuf f s).ep = s.ep := rfl
@[simp] theorem modBuf_polders (f : Buffers → Buffers) : (modBuf f s).polders = s.polders := rfl
@[simp] theorem modBuf_wq (f : Buffers → Buffers) : (modBuf f s).wq = s.wq := rfl
@[simp] theorem modBuf_cipher (f : Buffers → Buffers) : (modBuf f s).cipher = s.cipher := rfl
@[simp] theorem modBuf_siphon (f : Buffers → Buffers) : (modBuf f s).siphon = s.siphon := rfl
@[simp] theorem modBuf_jrn (f : Buffers → Buffers) : (modBuf f s).jrn = s.jrn := rfl
@[simp] theorem modBuf_evt (f : Buffers → Buffers) : (modBuf f s).evt = s.evt := rfl
@[simp] theorem modBuf_test (f : Buffers → Buffers) : (modBuf f s).test = s.test := rfl
@[simp] theorem modBuf_culv (f : Buffers → Buffers) : (modBuf f s).culv = s.culv := rfl

@[simp] theorem modSched_pending (f : Sched → Sched) : (modSched f s).pending = s.pending := rfl
@[simp] theorem modSched_clock (f : Sched → Sched) : (modSched f s).clock = s.clock := rfl
@[simp] theorem modSched_freeCtr (f : Sched → Sched) : (modSched f s).freeCtr = s.freeCtr := rfl
@[simp] theorem modSched_nextId (f : Sched → Sched) : (modSched f s).nextId = s.nextId := rfl
@[simp] theorem modSched_out (f : Sched → Sched) : (modSched f s).out = s.out := rfl
@[simp] theorem modSched_board (f : Sched → Sched) : (modSched f s).board = s.board := rfl
@[simp] theorem modSched_boot (f : Sched → Sched) : (modSched f s).boot = s.boot := rfl
@[simp] theorem modSched_dict (f : Sched → Sched) : (modSched f s).dict = s.dict := rfl
@[simp] theorem modSched_mbx (f : Sched → Sched) : (modSched f s).mbx = s.mbx := rfl
@[simp] theorem modSched_ports (f : Sched → Sched) : (modSched f s).ports = s.ports := rfl
@[simp] theorem modSched_time (f : Sched → Sched) : (modSched f s).time = s.time := rfl
@[simp] theorem modSched_frer (f : Sched → Sched) : (modSched f s).frer = s.frer := rfl
@[simp] theorem modSched_cls (f : Sched → Sched) : (modSched f s).cls = s.cls := rfl
@[simp] theorem modSched_tables (f : Sched → Sched) : (modSched f s).tables = s.tables := rfl
@[simp] theorem modSched_flow (f : Sched → Sched) : (modSched f s).flow = s.flow := rfl
@[simp] theorem modSched_buf (f : Sched → Sched) : (modSched f s).buf = s.buf := rfl
@[simp] theorem modSched_sched (f : Sched → Sched) : (modSched f s).sched = f s.sched := rfl
@[simp] theorem modSched_ep (f : Sched → Sched) : (modSched f s).ep = s.ep := rfl
@[simp] theorem modSched_polders (f : Sched → Sched) : (modSched f s).polders = s.polders := rfl
@[simp] theorem modSched_wq (f : Sched → Sched) : (modSched f s).wq = s.wq := rfl
@[simp] theorem modSched_cipher (f : Sched → Sched) : (modSched f s).cipher = s.cipher := rfl
@[simp] theorem modSched_siphon (f : Sched → Sched) : (modSched f s).siphon = s.siphon := rfl
@[simp] theorem modSched_jrn (f : Sched → Sched) : (modSched f s).jrn = s.jrn := rfl
@[simp] theorem modSched_evt (f : Sched → Sched) : (modSched f s).evt = s.evt := rfl
@[simp] theorem modSched_test (f : Sched → Sched) : (modSched f s).test = s.test := rfl
@[simp] theorem modSched_culv (f : Sched → Sched) : (modSched f s).culv = s.culv := rfl

@[simp] theorem modEp_pending (f : Endpoint → Endpoint) : (modEp f s).pending = s.pending := rfl
@[simp] theorem modEp_clock (f : Endpoint → Endpoint) : (modEp f s).clock = s.clock := rfl
@[simp] theorem modEp_freeCtr (f : Endpoint → Endpoint) : (modEp f s).freeCtr = s.freeCtr := rfl
@[simp] theorem modEp_nextId (f : Endpoint → Endpoint) : (modEp f s).nextId = s.nextId := rfl
@[simp] theorem modEp_out (f : Endpoint → Endpoint) : (modEp f s).out = s.out := rfl
@[simp] theorem modEp_board (f : Endpoint → Endpoint) : (modEp f s).board = s.board := rfl
@[simp] theorem modEp_boot (f : Endpoint → Endpoint) : (modEp f s).boot = s.boot := rfl
@[simp] theorem modEp_dict (f : Endpoint → Endpoint) : (modEp f s).dict = s.dict := rfl
@[simp] theorem modEp_mbx (f : Endpoint → Endpoint) : (modEp f s).mbx = s.mbx := rfl
@[simp] theorem modEp_ports (f : Endpoint → Endpoint) : (modEp f s).ports = s.ports := rfl
@[simp] theorem modEp_time (f : Endpoint → Endpoint) : (modEp f s).time = s.time := rfl
@[simp] theorem modEp_frer (f : Endpoint → Endpoint) : (modEp f s).frer = s.frer := rfl
@[simp] theorem modEp_cls (f : Endpoint → Endpoint) : (modEp f s).cls = s.cls := rfl
@[simp] theorem modEp_tables (f : Endpoint → Endpoint) : (modEp f s).tables = s.tables := rfl
@[simp] theorem modEp_flow (f : Endpoint → Endpoint) : (modEp f s).flow = s.flow := rfl
@[simp] theorem modEp_buf (f : Endpoint → Endpoint) : (modEp f s).buf = s.buf := rfl
@[simp] theorem modEp_sched (f : Endpoint → Endpoint) : (modEp f s).sched = s.sched := rfl
@[simp] theorem modEp_ep (f : Endpoint → Endpoint) : (modEp f s).ep = f s.ep := rfl
@[simp] theorem modEp_polders (f : Endpoint → Endpoint) : (modEp f s).polders = s.polders := rfl
@[simp] theorem modEp_wq (f : Endpoint → Endpoint) : (modEp f s).wq = s.wq := rfl
@[simp] theorem modEp_cipher (f : Endpoint → Endpoint) : (modEp f s).cipher = s.cipher := rfl
@[simp] theorem modEp_siphon (f : Endpoint → Endpoint) : (modEp f s).siphon = s.siphon := rfl
@[simp] theorem modEp_jrn (f : Endpoint → Endpoint) : (modEp f s).jrn = s.jrn := rfl
@[simp] theorem modEp_evt (f : Endpoint → Endpoint) : (modEp f s).evt = s.evt := rfl
@[simp] theorem modEp_test (f : Endpoint → Endpoint) : (modEp f s).test = s.test := rfl
@[simp] theorem modEp_culv (f : Endpoint → Endpoint) : (modEp f s).culv = s.culv := rfl

@[simp] theorem modPolders_pending (f : Polders → Polders) : (modPolders f s).pending = s.pending := rfl
@[simp] theorem modPolders_clock (f : Polders → Polders) : (modPolders f s).clock = s.clock := rfl
@[simp] theorem modPolders_freeCtr (f : Polders → Polders) : (modPolders f s).freeCtr = s.freeCtr := rfl
@[simp] theorem modPolders_nextId (f : Polders → Polders) : (modPolders f s).nextId = s.nextId := rfl
@[simp] theorem modPolders_out (f : Polders → Polders) : (modPolders f s).out = s.out := rfl
@[simp] theorem modPolders_board (f : Polders → Polders) : (modPolders f s).board = s.board := rfl
@[simp] theorem modPolders_boot (f : Polders → Polders) : (modPolders f s).boot = s.boot := rfl
@[simp] theorem modPolders_dict (f : Polders → Polders) : (modPolders f s).dict = s.dict := rfl
@[simp] theorem modPolders_mbx (f : Polders → Polders) : (modPolders f s).mbx = s.mbx := rfl
@[simp] theorem modPolders_ports (f : Polders → Polders) : (modPolders f s).ports = s.ports := rfl
@[simp] theorem modPolders_time (f : Polders → Polders) : (modPolders f s).time = s.time := rfl
@[simp] theorem modPolders_frer (f : Polders → Polders) : (modPolders f s).frer = s.frer := rfl
@[simp] theorem modPolders_cls (f : Polders → Polders) : (modPolders f s).cls = s.cls := rfl
@[simp] theorem modPolders_tables (f : Polders → Polders) : (modPolders f s).tables = s.tables := rfl
@[simp] theorem modPolders_flow (f : Polders → Polders) : (modPolders f s).flow = s.flow := rfl
@[simp] theorem modPolders_buf (f : Polders → Polders) : (modPolders f s).buf = s.buf := rfl
@[simp] theorem modPolders_sched (f : Polders → Polders) : (modPolders f s).sched = s.sched := rfl
@[simp] theorem modPolders_ep (f : Polders → Polders) : (modPolders f s).ep = s.ep := rfl
@[simp] theorem modPolders_polders (f : Polders → Polders) : (modPolders f s).polders = f s.polders := rfl
@[simp] theorem modPolders_wq (f : Polders → Polders) : (modPolders f s).wq = s.wq := rfl
@[simp] theorem modPolders_cipher (f : Polders → Polders) : (modPolders f s).cipher = s.cipher := rfl
@[simp] theorem modPolders_siphon (f : Polders → Polders) : (modPolders f s).siphon = s.siphon := rfl
@[simp] theorem modPolders_jrn (f : Polders → Polders) : (modPolders f s).jrn = s.jrn := rfl
@[simp] theorem modPolders_evt (f : Polders → Polders) : (modPolders f s).evt = s.evt := rfl
@[simp] theorem modPolders_test (f : Polders → Polders) : (modPolders f s).test = s.test := rfl
@[simp] theorem modPolders_culv (f : Polders → Polders) : (modPolders f s).culv = s.culv := rfl

@[simp] theorem modCipher_pending (f : Cipher → Cipher) : (modCipher f s).pending = s.pending := rfl
@[simp] theorem modCipher_clock (f : Cipher → Cipher) : (modCipher f s).clock = s.clock := rfl
@[simp] theorem modCipher_freeCtr (f : Cipher → Cipher) : (modCipher f s).freeCtr = s.freeCtr := rfl
@[simp] theorem modCipher_nextId (f : Cipher → Cipher) : (modCipher f s).nextId = s.nextId := rfl
@[simp] theorem modCipher_out (f : Cipher → Cipher) : (modCipher f s).out = s.out := rfl
@[simp] theorem modCipher_board (f : Cipher → Cipher) : (modCipher f s).board = s.board := rfl
@[simp] theorem modCipher_boot (f : Cipher → Cipher) : (modCipher f s).boot = s.boot := rfl
@[simp] theorem modCipher_dict (f : Cipher → Cipher) : (modCipher f s).dict = s.dict := rfl
@[simp] theorem modCipher_mbx (f : Cipher → Cipher) : (modCipher f s).mbx = s.mbx := rfl
@[simp] theorem modCipher_ports (f : Cipher → Cipher) : (modCipher f s).ports = s.ports := rfl
@[simp] theorem modCipher_time (f : Cipher → Cipher) : (modCipher f s).time = s.time := rfl
@[simp] theorem modCipher_frer (f : Cipher → Cipher) : (modCipher f s).frer = s.frer := rfl
@[simp] theorem modCipher_cls (f : Cipher → Cipher) : (modCipher f s).cls = s.cls := rfl
@[simp] theorem modCipher_tables (f : Cipher → Cipher) : (modCipher f s).tables = s.tables := rfl
@[simp] theorem modCipher_flow (f : Cipher → Cipher) : (modCipher f s).flow = s.flow := rfl
@[simp] theorem modCipher_buf (f : Cipher → Cipher) : (modCipher f s).buf = s.buf := rfl
@[simp] theorem modCipher_sched (f : Cipher → Cipher) : (modCipher f s).sched = s.sched := rfl
@[simp] theorem modCipher_ep (f : Cipher → Cipher) : (modCipher f s).ep = s.ep := rfl
@[simp] theorem modCipher_polders (f : Cipher → Cipher) : (modCipher f s).polders = s.polders := rfl
@[simp] theorem modCipher_wq (f : Cipher → Cipher) : (modCipher f s).wq = s.wq := rfl
@[simp] theorem modCipher_cipher (f : Cipher → Cipher) : (modCipher f s).cipher = f s.cipher := rfl
@[simp] theorem modCipher_siphon (f : Cipher → Cipher) : (modCipher f s).siphon = s.siphon := rfl
@[simp] theorem modCipher_jrn (f : Cipher → Cipher) : (modCipher f s).jrn = s.jrn := rfl
@[simp] theorem modCipher_evt (f : Cipher → Cipher) : (modCipher f s).evt = s.evt := rfl
@[simp] theorem modCipher_test (f : Cipher → Cipher) : (modCipher f s).test = s.test := rfl
@[simp] theorem modCipher_culv (f : Cipher → Cipher) : (modCipher f s).culv = s.culv := rfl

@[simp] theorem modSiphon_pending (f : Siphon → Siphon) : (modSiphon f s).pending = s.pending := rfl
@[simp] theorem modSiphon_clock (f : Siphon → Siphon) : (modSiphon f s).clock = s.clock := rfl
@[simp] theorem modSiphon_freeCtr (f : Siphon → Siphon) : (modSiphon f s).freeCtr = s.freeCtr := rfl
@[simp] theorem modSiphon_nextId (f : Siphon → Siphon) : (modSiphon f s).nextId = s.nextId := rfl
@[simp] theorem modSiphon_out (f : Siphon → Siphon) : (modSiphon f s).out = s.out := rfl
@[simp] theorem modSiphon_board (f : Siphon → Siphon) : (modSiphon f s).board = s.board := rfl
@[simp] theorem modSiphon_boot (f : Siphon → Siphon) : (modSiphon f s).boot = s.boot := rfl
@[simp] theorem modSiphon_dict (f : Siphon → Siphon) : (modSiphon f s).dict = s.dict := rfl
@[simp] theorem modSiphon_mbx (f : Siphon → Siphon) : (modSiphon f s).mbx = s.mbx := rfl
@[simp] theorem modSiphon_ports (f : Siphon → Siphon) : (modSiphon f s).ports = s.ports := rfl
@[simp] theorem modSiphon_time (f : Siphon → Siphon) : (modSiphon f s).time = s.time := rfl
@[simp] theorem modSiphon_frer (f : Siphon → Siphon) : (modSiphon f s).frer = s.frer := rfl
@[simp] theorem modSiphon_cls (f : Siphon → Siphon) : (modSiphon f s).cls = s.cls := rfl
@[simp] theorem modSiphon_tables (f : Siphon → Siphon) : (modSiphon f s).tables = s.tables := rfl
@[simp] theorem modSiphon_flow (f : Siphon → Siphon) : (modSiphon f s).flow = s.flow := rfl
@[simp] theorem modSiphon_buf (f : Siphon → Siphon) : (modSiphon f s).buf = s.buf := rfl
@[simp] theorem modSiphon_sched (f : Siphon → Siphon) : (modSiphon f s).sched = s.sched := rfl
@[simp] theorem modSiphon_ep (f : Siphon → Siphon) : (modSiphon f s).ep = s.ep := rfl
@[simp] theorem modSiphon_polders (f : Siphon → Siphon) : (modSiphon f s).polders = s.polders := rfl
@[simp] theorem modSiphon_wq (f : Siphon → Siphon) : (modSiphon f s).wq = s.wq := rfl
@[simp] theorem modSiphon_cipher (f : Siphon → Siphon) : (modSiphon f s).cipher = s.cipher := rfl
@[simp] theorem modSiphon_siphon (f : Siphon → Siphon) : (modSiphon f s).siphon = f s.siphon := rfl
@[simp] theorem modSiphon_jrn (f : Siphon → Siphon) : (modSiphon f s).jrn = s.jrn := rfl
@[simp] theorem modSiphon_evt (f : Siphon → Siphon) : (modSiphon f s).evt = s.evt := rfl
@[simp] theorem modSiphon_test (f : Siphon → Siphon) : (modSiphon f s).test = s.test := rfl
@[simp] theorem modSiphon_culv (f : Siphon → Siphon) : (modSiphon f s).culv = s.culv := rfl

@[simp] theorem modJrn_pending (f : Journal → Journal) : (modJrn f s).pending = s.pending := rfl
@[simp] theorem modJrn_clock (f : Journal → Journal) : (modJrn f s).clock = s.clock := rfl
@[simp] theorem modJrn_freeCtr (f : Journal → Journal) : (modJrn f s).freeCtr = s.freeCtr := rfl
@[simp] theorem modJrn_nextId (f : Journal → Journal) : (modJrn f s).nextId = s.nextId := rfl
@[simp] theorem modJrn_out (f : Journal → Journal) : (modJrn f s).out = s.out := rfl
@[simp] theorem modJrn_board (f : Journal → Journal) : (modJrn f s).board = s.board := rfl
@[simp] theorem modJrn_boot (f : Journal → Journal) : (modJrn f s).boot = s.boot := rfl
@[simp] theorem modJrn_dict (f : Journal → Journal) : (modJrn f s).dict = s.dict := rfl
@[simp] theorem modJrn_mbx (f : Journal → Journal) : (modJrn f s).mbx = s.mbx := rfl
@[simp] theorem modJrn_ports (f : Journal → Journal) : (modJrn f s).ports = s.ports := rfl
@[simp] theorem modJrn_time (f : Journal → Journal) : (modJrn f s).time = s.time := rfl
@[simp] theorem modJrn_frer (f : Journal → Journal) : (modJrn f s).frer = s.frer := rfl
@[simp] theorem modJrn_cls (f : Journal → Journal) : (modJrn f s).cls = s.cls := rfl
@[simp] theorem modJrn_tables (f : Journal → Journal) : (modJrn f s).tables = s.tables := rfl
@[simp] theorem modJrn_flow (f : Journal → Journal) : (modJrn f s).flow = s.flow := rfl
@[simp] theorem modJrn_buf (f : Journal → Journal) : (modJrn f s).buf = s.buf := rfl
@[simp] theorem modJrn_sched (f : Journal → Journal) : (modJrn f s).sched = s.sched := rfl
@[simp] theorem modJrn_ep (f : Journal → Journal) : (modJrn f s).ep = s.ep := rfl
@[simp] theorem modJrn_polders (f : Journal → Journal) : (modJrn f s).polders = s.polders := rfl
@[simp] theorem modJrn_wq (f : Journal → Journal) : (modJrn f s).wq = s.wq := rfl
@[simp] theorem modJrn_cipher (f : Journal → Journal) : (modJrn f s).cipher = s.cipher := rfl
@[simp] theorem modJrn_siphon (f : Journal → Journal) : (modJrn f s).siphon = s.siphon := rfl
@[simp] theorem modJrn_jrn (f : Journal → Journal) : (modJrn f s).jrn = f s.jrn := rfl
@[simp] theorem modJrn_evt (f : Journal → Journal) : (modJrn f s).evt = s.evt := rfl
@[simp] theorem modJrn_test (f : Journal → Journal) : (modJrn f s).test = s.test := rfl
@[simp] theorem modJrn_culv (f : Journal → Journal) : (modJrn f s).culv = s.culv := rfl

@[simp] theorem modEvt_pending (f : Events → Events) : (modEvt f s).pending = s.pending := rfl
@[simp] theorem modEvt_clock (f : Events → Events) : (modEvt f s).clock = s.clock := rfl
@[simp] theorem modEvt_freeCtr (f : Events → Events) : (modEvt f s).freeCtr = s.freeCtr := rfl
@[simp] theorem modEvt_nextId (f : Events → Events) : (modEvt f s).nextId = s.nextId := rfl
@[simp] theorem modEvt_out (f : Events → Events) : (modEvt f s).out = s.out := rfl
@[simp] theorem modEvt_board (f : Events → Events) : (modEvt f s).board = s.board := rfl
@[simp] theorem modEvt_boot (f : Events → Events) : (modEvt f s).boot = s.boot := rfl
@[simp] theorem modEvt_dict (f : Events → Events) : (modEvt f s).dict = s.dict := rfl
@[simp] theorem modEvt_mbx (f : Events → Events) : (modEvt f s).mbx = s.mbx := rfl
@[simp] theorem modEvt_ports (f : Events → Events) : (modEvt f s).ports = s.ports := rfl
@[simp] theorem modEvt_time (f : Events → Events) : (modEvt f s).time = s.time := rfl
@[simp] theorem modEvt_frer (f : Events → Events) : (modEvt f s).frer = s.frer := rfl
@[simp] theorem modEvt_cls (f : Events → Events) : (modEvt f s).cls = s.cls := rfl
@[simp] theorem modEvt_tables (f : Events → Events) : (modEvt f s).tables = s.tables := rfl
@[simp] theorem modEvt_flow (f : Events → Events) : (modEvt f s).flow = s.flow := rfl
@[simp] theorem modEvt_buf (f : Events → Events) : (modEvt f s).buf = s.buf := rfl
@[simp] theorem modEvt_sched (f : Events → Events) : (modEvt f s).sched = s.sched := rfl
@[simp] theorem modEvt_ep (f : Events → Events) : (modEvt f s).ep = s.ep := rfl
@[simp] theorem modEvt_polders (f : Events → Events) : (modEvt f s).polders = s.polders := rfl
@[simp] theorem modEvt_wq (f : Events → Events) : (modEvt f s).wq = s.wq := rfl
@[simp] theorem modEvt_cipher (f : Events → Events) : (modEvt f s).cipher = s.cipher := rfl
@[simp] theorem modEvt_siphon (f : Events → Events) : (modEvt f s).siphon = s.siphon := rfl
@[simp] theorem modEvt_jrn (f : Events → Events) : (modEvt f s).jrn = s.jrn := rfl
@[simp] theorem modEvt_evt (f : Events → Events) : (modEvt f s).evt = f s.evt := rfl
@[simp] theorem modEvt_test (f : Events → Events) : (modEvt f s).test = s.test := rfl
@[simp] theorem modEvt_culv (f : Events → Events) : (modEvt f s).culv = s.culv := rfl

@[simp] theorem modTest_pending (f : SelfTest → SelfTest) : (modTest f s).pending = s.pending := rfl
@[simp] theorem modTest_clock (f : SelfTest → SelfTest) : (modTest f s).clock = s.clock := rfl
@[simp] theorem modTest_freeCtr (f : SelfTest → SelfTest) : (modTest f s).freeCtr = s.freeCtr := rfl
@[simp] theorem modTest_nextId (f : SelfTest → SelfTest) : (modTest f s).nextId = s.nextId := rfl
@[simp] theorem modTest_out (f : SelfTest → SelfTest) : (modTest f s).out = s.out := rfl
@[simp] theorem modTest_board (f : SelfTest → SelfTest) : (modTest f s).board = s.board := rfl
@[simp] theorem modTest_boot (f : SelfTest → SelfTest) : (modTest f s).boot = s.boot := rfl
@[simp] theorem modTest_dict (f : SelfTest → SelfTest) : (modTest f s).dict = s.dict := rfl
@[simp] theorem modTest_mbx (f : SelfTest → SelfTest) : (modTest f s).mbx = s.mbx := rfl
@[simp] theorem modTest_ports (f : SelfTest → SelfTest) : (modTest f s).ports = s.ports := rfl
@[simp] theorem modTest_time (f : SelfTest → SelfTest) : (modTest f s).time = s.time := rfl
@[simp] theorem modTest_frer (f : SelfTest → SelfTest) : (modTest f s).frer = s.frer := rfl
@[simp] theorem modTest_cls (f : SelfTest → SelfTest) : (modTest f s).cls = s.cls := rfl
@[simp] theorem modTest_tables (f : SelfTest → SelfTest) : (modTest f s).tables = s.tables := rfl
@[simp] theorem modTest_flow (f : SelfTest → SelfTest) : (modTest f s).flow = s.flow := rfl
@[simp] theorem modTest_buf (f : SelfTest → SelfTest) : (modTest f s).buf = s.buf := rfl
@[simp] theorem modTest_sched (f : SelfTest → SelfTest) : (modTest f s).sched = s.sched := rfl
@[simp] theorem modTest_ep (f : SelfTest → SelfTest) : (modTest f s).ep = s.ep := rfl
@[simp] theorem modTest_polders (f : SelfTest → SelfTest) : (modTest f s).polders = s.polders := rfl
@[simp] theorem modTest_wq (f : SelfTest → SelfTest) : (modTest f s).wq = s.wq := rfl
@[simp] theorem modTest_cipher (f : SelfTest → SelfTest) : (modTest f s).cipher = s.cipher := rfl
@[simp] theorem modTest_siphon (f : SelfTest → SelfTest) : (modTest f s).siphon = s.siphon := rfl
@[simp] theorem modTest_jrn (f : SelfTest → SelfTest) : (modTest f s).jrn = s.jrn := rfl
@[simp] theorem modTest_evt (f : SelfTest → SelfTest) : (modTest f s).evt = s.evt := rfl
@[simp] theorem modTest_test (f : SelfTest → SelfTest) : (modTest f s).test = f s.test := rfl
@[simp] theorem modTest_culv (f : SelfTest → SelfTest) : (modTest f s).culv = s.culv := rfl

@[simp] theorem modCulv_pending (f : Culverts → Culverts) : (modCulv f s).pending = s.pending := rfl
@[simp] theorem modCulv_clock (f : Culverts → Culverts) : (modCulv f s).clock = s.clock := rfl
@[simp] theorem modCulv_freeCtr (f : Culverts → Culverts) : (modCulv f s).freeCtr = s.freeCtr := rfl
@[simp] theorem modCulv_nextId (f : Culverts → Culverts) : (modCulv f s).nextId = s.nextId := rfl
@[simp] theorem modCulv_out (f : Culverts → Culverts) : (modCulv f s).out = s.out := rfl
@[simp] theorem modCulv_board (f : Culverts → Culverts) : (modCulv f s).board = s.board := rfl
@[simp] theorem modCulv_boot (f : Culverts → Culverts) : (modCulv f s).boot = s.boot := rfl
@[simp] theorem modCulv_dict (f : Culverts → Culverts) : (modCulv f s).dict = s.dict := rfl
@[simp] theorem modCulv_mbx (f : Culverts → Culverts) : (modCulv f s).mbx = s.mbx := rfl
@[simp] theorem modCulv_ports (f : Culverts → Culverts) : (modCulv f s).ports = s.ports := rfl
@[simp] theorem modCulv_time (f : Culverts → Culverts) : (modCulv f s).time = s.time := rfl
@[simp] theorem modCulv_frer (f : Culverts → Culverts) : (modCulv f s).frer = s.frer := rfl
@[simp] theorem modCulv_cls (f : Culverts → Culverts) : (modCulv f s).cls = s.cls := rfl
@[simp] theorem modCulv_tables (f : Culverts → Culverts) : (modCulv f s).tables = s.tables := rfl
@[simp] theorem modCulv_flow (f : Culverts → Culverts) : (modCulv f s).flow = s.flow := rfl
@[simp] theorem modCulv_buf (f : Culverts → Culverts) : (modCulv f s).buf = s.buf := rfl
@[simp] theorem modCulv_sched (f : Culverts → Culverts) : (modCulv f s).sched = s.sched := rfl
@[simp] theorem modCulv_ep (f : Culverts → Culverts) : (modCulv f s).ep = s.ep := rfl
@[simp] theorem modCulv_polders (f : Culverts → Culverts) : (modCulv f s).polders = s.polders := rfl
@[simp] theorem modCulv_wq (f : Culverts → Culverts) : (modCulv f s).wq = s.wq := rfl
@[simp] theorem modCulv_cipher (f : Culverts → Culverts) : (modCulv f s).cipher = s.cipher := rfl
@[simp] theorem modCulv_siphon (f : Culverts → Culverts) : (modCulv f s).siphon = s.siphon := rfl
@[simp] theorem modCulv_jrn (f : Culverts → Culverts) : (modCulv f s).jrn = s.jrn := rfl
@[simp] theorem modCulv_evt (f : Culverts → Culverts) : (modCulv f s).evt = s.evt := rfl
@[simp] theorem modCulv_test (f : Culverts → Culverts) : (modCulv f s).test = s.test := rfl
@[simp] theorem modCulv_culv (f : Culverts → Culverts) : (modCulv f s).culv = f s.culv := rfl

@[simp] theorem setPort_pending (p : Nat) (x : Port) : (s.setPort p x).pending = s.pending := rfl
@[simp] theorem setPort_clock (p : Nat) (x : Port) : (s.setPort p x).clock = s.clock := rfl
@[simp] theorem setPort_freeCtr (p : Nat) (x : Port) : (s.setPort p x).freeCtr = s.freeCtr := rfl
@[simp] theorem setPort_nextId (p : Nat) (x : Port) : (s.setPort p x).nextId = s.nextId := rfl
@[simp] theorem setPort_out (p : Nat) (x : Port) : (s.setPort p x).out = s.out := rfl
@[simp] theorem setPort_board (p : Nat) (x : Port) : (s.setPort p x).board = s.board := rfl
@[simp] theorem setPort_boot (p : Nat) (x : Port) : (s.setPort p x).boot = s.boot := rfl
@[simp] theorem setPort_dict (p : Nat) (x : Port) : (s.setPort p x).dict = s.dict := rfl
@[simp] theorem setPort_mbx (p : Nat) (x : Port) : (s.setPort p x).mbx = s.mbx := rfl
@[simp] theorem setPort_time (p : Nat) (x : Port) : (s.setPort p x).time = s.time := rfl
@[simp] theorem setPort_frer (p : Nat) (x : Port) : (s.setPort p x).frer = s.frer := rfl
@[simp] theorem setPort_cls (p : Nat) (x : Port) : (s.setPort p x).cls = s.cls := rfl
@[simp] theorem setPort_tables (p : Nat) (x : Port) : (s.setPort p x).tables = s.tables := rfl
@[simp] theorem setPort_flow (p : Nat) (x : Port) : (s.setPort p x).flow = s.flow := rfl
@[simp] theorem setPort_buf (p : Nat) (x : Port) : (s.setPort p x).buf = s.buf := rfl
@[simp] theorem setPort_sched (p : Nat) (x : Port) : (s.setPort p x).sched = s.sched := rfl
@[simp] theorem setPort_ep (p : Nat) (x : Port) : (s.setPort p x).ep = s.ep := rfl
@[simp] theorem setPort_polders (p : Nat) (x : Port) : (s.setPort p x).polders = s.polders := rfl
@[simp] theorem setPort_wq (p : Nat) (x : Port) : (s.setPort p x).wq = s.wq := rfl
@[simp] theorem setPort_cipher (p : Nat) (x : Port) : (s.setPort p x).cipher = s.cipher := rfl
@[simp] theorem setPort_siphon (p : Nat) (x : Port) : (s.setPort p x).siphon = s.siphon := rfl
@[simp] theorem setPort_jrn (p : Nat) (x : Port) : (s.setPort p x).jrn = s.jrn := rfl
@[simp] theorem setPort_evt (p : Nat) (x : Port) : (s.setPort p x).evt = s.evt := rfl
@[simp] theorem setPort_test (p : Nat) (x : Port) : (s.setPort p x).test = s.test := rfl
@[simp] theorem setPort_culv (p : Nat) (x : Port) : (s.setPort p x).culv = s.culv := rfl

@[simp] theorem setQueue_pending (fn q : Nat) (x : Queue) : (s.setQueue fn q x).pending = s.pending := rfl
@[simp] theorem setQueue_clock (fn q : Nat) (x : Queue) : (s.setQueue fn q x).clock = s.clock := rfl
@[simp] theorem setQueue_freeCtr (fn q : Nat) (x : Queue) : (s.setQueue fn q x).freeCtr = s.freeCtr := rfl
@[simp] theorem setQueue_nextId (fn q : Nat) (x : Queue) : (s.setQueue fn q x).nextId = s.nextId := rfl
@[simp] theorem setQueue_out (fn q : Nat) (x : Queue) : (s.setQueue fn q x).out = s.out := rfl
@[simp] theorem setQueue_board (fn q : Nat) (x : Queue) : (s.setQueue fn q x).board = s.board := rfl
@[simp] theorem setQueue_boot (fn q : Nat) (x : Queue) : (s.setQueue fn q x).boot = s.boot := rfl
@[simp] theorem setQueue_dict (fn q : Nat) (x : Queue) : (s.setQueue fn q x).dict = s.dict := rfl
@[simp] theorem setQueue_mbx (fn q : Nat) (x : Queue) : (s.setQueue fn q x).mbx = s.mbx := rfl
@[simp] theorem setQueue_ports (fn q : Nat) (x : Queue) : (s.setQueue fn q x).ports = s.ports := rfl
@[simp] theorem setQueue_time (fn q : Nat) (x : Queue) : (s.setQueue fn q x).time = s.time := rfl
@[simp] theorem setQueue_frer (fn q : Nat) (x : Queue) : (s.setQueue fn q x).frer = s.frer := rfl
@[simp] theorem setQueue_cls (fn q : Nat) (x : Queue) : (s.setQueue fn q x).cls = s.cls := rfl
@[simp] theorem setQueue_tables (fn q : Nat) (x : Queue) : (s.setQueue fn q x).tables = s.tables := rfl
@[simp] theorem setQueue_flow (fn q : Nat) (x : Queue) : (s.setQueue fn q x).flow = s.flow := rfl
@[simp] theorem setQueue_buf (fn q : Nat) (x : Queue) : (s.setQueue fn q x).buf = s.buf := rfl
@[simp] theorem setQueue_sched (fn q : Nat) (x : Queue) : (s.setQueue fn q x).sched = s.sched := rfl
@[simp] theorem setQueue_ep (fn q : Nat) (x : Queue) : (s.setQueue fn q x).ep = s.ep := rfl
@[simp] theorem setQueue_polders (fn q : Nat) (x : Queue) : (s.setQueue fn q x).polders = s.polders := rfl
@[simp] theorem setQueue_cipher (fn q : Nat) (x : Queue) : (s.setQueue fn q x).cipher = s.cipher := rfl
@[simp] theorem setQueue_siphon (fn q : Nat) (x : Queue) : (s.setQueue fn q x).siphon = s.siphon := rfl
@[simp] theorem setQueue_jrn (fn q : Nat) (x : Queue) : (s.setQueue fn q x).jrn = s.jrn := rfl
@[simp] theorem setQueue_evt (fn q : Nat) (x : Queue) : (s.setQueue fn q x).evt = s.evt := rfl
@[simp] theorem setQueue_test (fn q : Nat) (x : Queue) : (s.setQueue fn q x).test = s.test := rfl
@[simp] theorem setQueue_culv (fn q : Nat) (x : Queue) : (s.setQueue fn q x).culv = s.culv := rfl

@[simp] theorem setFrer_pending (i : Nat) (x : Frer) : (s.setFrer i x).pending = s.pending := rfl
@[simp] theorem setFrer_clock (i : Nat) (x : Frer) : (s.setFrer i x).clock = s.clock := rfl
@[simp] theorem setFrer_freeCtr (i : Nat) (x : Frer) : (s.setFrer i x).freeCtr = s.freeCtr := rfl
@[simp] theorem setFrer_nextId (i : Nat) (x : Frer) : (s.setFrer i x).nextId = s.nextId := rfl
@[simp] theorem setFrer_out (i : Nat) (x : Frer) : (s.setFrer i x).out = s.out := rfl
@[simp] theorem setFrer_board (i : Nat) (x : Frer) : (s.setFrer i x).board = s.board := rfl
@[simp] theorem setFrer_boot (i : Nat) (x : Frer) : (s.setFrer i x).boot = s.boot := rfl
@[simp] theorem setFrer_dict (i : Nat) (x : Frer) : (s.setFrer i x).dict = s.dict := rfl
@[simp] theorem setFrer_mbx (i : Nat) (x : Frer) : (s.setFrer i x).mbx = s.mbx := rfl
@[simp] theorem setFrer_ports (i : Nat) (x : Frer) : (s.setFrer i x).ports = s.ports := rfl
@[simp] theorem setFrer_time (i : Nat) (x : Frer) : (s.setFrer i x).time = s.time := rfl
@[simp] theorem setFrer_cls (i : Nat) (x : Frer) : (s.setFrer i x).cls = s.cls := rfl
@[simp] theorem setFrer_tables (i : Nat) (x : Frer) : (s.setFrer i x).tables = s.tables := rfl
@[simp] theorem setFrer_flow (i : Nat) (x : Frer) : (s.setFrer i x).flow = s.flow := rfl
@[simp] theorem setFrer_buf (i : Nat) (x : Frer) : (s.setFrer i x).buf = s.buf := rfl
@[simp] theorem setFrer_sched (i : Nat) (x : Frer) : (s.setFrer i x).sched = s.sched := rfl
@[simp] theorem setFrer_ep (i : Nat) (x : Frer) : (s.setFrer i x).ep = s.ep := rfl
@[simp] theorem setFrer_polders (i : Nat) (x : Frer) : (s.setFrer i x).polders = s.polders := rfl
@[simp] theorem setFrer_wq (i : Nat) (x : Frer) : (s.setFrer i x).wq = s.wq := rfl
@[simp] theorem setFrer_cipher (i : Nat) (x : Frer) : (s.setFrer i x).cipher = s.cipher := rfl
@[simp] theorem setFrer_siphon (i : Nat) (x : Frer) : (s.setFrer i x).siphon = s.siphon := rfl
@[simp] theorem setFrer_jrn (i : Nat) (x : Frer) : (s.setFrer i x).jrn = s.jrn := rfl
@[simp] theorem setFrer_evt (i : Nat) (x : Frer) : (s.setFrer i x).evt = s.evt := rfl
@[simp] theorem setFrer_test (i : Nat) (x : Frer) : (s.setFrer i x).test = s.test := rfl
@[simp] theorem setFrer_culv (i : Nat) (x : Frer) : (s.setFrer i x).culv = s.culv := rfl

@[simp] theorem setPsched_pending (p : Nat) (x : PortSched) : (s.setPsched p x).pending = s.pending := rfl
@[simp] theorem setPsched_clock (p : Nat) (x : PortSched) : (s.setPsched p x).clock = s.clock := rfl
@[simp] theorem setPsched_freeCtr (p : Nat) (x : PortSched) : (s.setPsched p x).freeCtr = s.freeCtr := rfl
@[simp] theorem setPsched_nextId (p : Nat) (x : PortSched) : (s.setPsched p x).nextId = s.nextId := rfl
@[simp] theorem setPsched_out (p : Nat) (x : PortSched) : (s.setPsched p x).out = s.out := rfl
@[simp] theorem setPsched_board (p : Nat) (x : PortSched) : (s.setPsched p x).board = s.board := rfl
@[simp] theorem setPsched_boot (p : Nat) (x : PortSched) : (s.setPsched p x).boot = s.boot := rfl
@[simp] theorem setPsched_dict (p : Nat) (x : PortSched) : (s.setPsched p x).dict = s.dict := rfl
@[simp] theorem setPsched_mbx (p : Nat) (x : PortSched) : (s.setPsched p x).mbx = s.mbx := rfl
@[simp] theorem setPsched_ports (p : Nat) (x : PortSched) : (s.setPsched p x).ports = s.ports := rfl
@[simp] theorem setPsched_time (p : Nat) (x : PortSched) : (s.setPsched p x).time = s.time := rfl
@[simp] theorem setPsched_frer (p : Nat) (x : PortSched) : (s.setPsched p x).frer = s.frer := rfl
@[simp] theorem setPsched_cls (p : Nat) (x : PortSched) : (s.setPsched p x).cls = s.cls := rfl
@[simp] theorem setPsched_tables (p : Nat) (x : PortSched) : (s.setPsched p x).tables = s.tables := rfl
@[simp] theorem setPsched_flow (p : Nat) (x : PortSched) : (s.setPsched p x).flow = s.flow := rfl
@[simp] theorem setPsched_buf (p : Nat) (x : PortSched) : (s.setPsched p x).buf = s.buf := rfl
@[simp] theorem setPsched_ep (p : Nat) (x : PortSched) : (s.setPsched p x).ep = s.ep := rfl
@[simp] theorem setPsched_polders (p : Nat) (x : PortSched) : (s.setPsched p x).polders = s.polders := rfl
@[simp] theorem setPsched_wq (p : Nat) (x : PortSched) : (s.setPsched p x).wq = s.wq := rfl
@[simp] theorem setPsched_cipher (p : Nat) (x : PortSched) : (s.setPsched p x).cipher = s.cipher := rfl
@[simp] theorem setPsched_siphon (p : Nat) (x : PortSched) : (s.setPsched p x).siphon = s.siphon := rfl
@[simp] theorem setPsched_jrn (p : Nat) (x : PortSched) : (s.setPsched p x).jrn = s.jrn := rfl
@[simp] theorem setPsched_evt (p : Nat) (x : PortSched) : (s.setPsched p x).evt = s.evt := rfl
@[simp] theorem setPsched_test (p : Nat) (x : PortSched) : (s.setPsched p x).test = s.test := rfl
@[simp] theorem setPsched_culv (p : Nat) (x : PortSched) : (s.setPsched p x).culv = s.culv := rfl

@[simp] theorem setHtx_pending (d : Nat) (x : HtxSched) : (s.setHtx d x).pending = s.pending := rfl
@[simp] theorem setHtx_clock (d : Nat) (x : HtxSched) : (s.setHtx d x).clock = s.clock := rfl
@[simp] theorem setHtx_freeCtr (d : Nat) (x : HtxSched) : (s.setHtx d x).freeCtr = s.freeCtr := rfl
@[simp] theorem setHtx_nextId (d : Nat) (x : HtxSched) : (s.setHtx d x).nextId = s.nextId := rfl
@[simp] theorem setHtx_out (d : Nat) (x : HtxSched) : (s.setHtx d x).out = s.out := rfl
@[simp] theorem setHtx_board (d : Nat) (x : HtxSched) : (s.setHtx d x).board = s.board := rfl
@[simp] theorem setHtx_boot (d : Nat) (x : HtxSched) : (s.setHtx d x).boot = s.boot := rfl
@[simp] theorem setHtx_dict (d : Nat) (x : HtxSched) : (s.setHtx d x).dict = s.dict := rfl
@[simp] theorem setHtx_mbx (d : Nat) (x : HtxSched) : (s.setHtx d x).mbx = s.mbx := rfl
@[simp] theorem setHtx_ports (d : Nat) (x : HtxSched) : (s.setHtx d x).ports = s.ports := rfl
@[simp] theorem setHtx_time (d : Nat) (x : HtxSched) : (s.setHtx d x).time = s.time := rfl
@[simp] theorem setHtx_frer (d : Nat) (x : HtxSched) : (s.setHtx d x).frer = s.frer := rfl
@[simp] theorem setHtx_cls (d : Nat) (x : HtxSched) : (s.setHtx d x).cls = s.cls := rfl
@[simp] theorem setHtx_tables (d : Nat) (x : HtxSched) : (s.setHtx d x).tables = s.tables := rfl
@[simp] theorem setHtx_flow (d : Nat) (x : HtxSched) : (s.setHtx d x).flow = s.flow := rfl
@[simp] theorem setHtx_buf (d : Nat) (x : HtxSched) : (s.setHtx d x).buf = s.buf := rfl
@[simp] theorem setHtx_ep (d : Nat) (x : HtxSched) : (s.setHtx d x).ep = s.ep := rfl
@[simp] theorem setHtx_polders (d : Nat) (x : HtxSched) : (s.setHtx d x).polders = s.polders := rfl
@[simp] theorem setHtx_wq (d : Nat) (x : HtxSched) : (s.setHtx d x).wq = s.wq := rfl
@[simp] theorem setHtx_cipher (d : Nat) (x : HtxSched) : (s.setHtx d x).cipher = s.cipher := rfl
@[simp] theorem setHtx_siphon (d : Nat) (x : HtxSched) : (s.setHtx d x).siphon = s.siphon := rfl
@[simp] theorem setHtx_jrn (d : Nat) (x : HtxSched) : (s.setHtx d x).jrn = s.jrn := rfl
@[simp] theorem setHtx_evt (d : Nat) (x : HtxSched) : (s.setHtx d x).evt = s.evt := rfl
@[simp] theorem setHtx_test (d : Nat) (x : HtxSched) : (s.setHtx d x).test = s.test := rfl
@[simp] theorem setHtx_culv (d : Nat) (x : HtxSched) : (s.setHtx d x).culv = s.culv := rfl

@[simp] theorem setWeir_pending (d w : Nat) (x : Weir) : (s.setWeir d w x).pending = s.pending := rfl
@[simp] theorem setWeir_clock (d w : Nat) (x : Weir) : (s.setWeir d w x).clock = s.clock := rfl
@[simp] theorem setWeir_freeCtr (d w : Nat) (x : Weir) : (s.setWeir d w x).freeCtr = s.freeCtr := rfl
@[simp] theorem setWeir_nextId (d w : Nat) (x : Weir) : (s.setWeir d w x).nextId = s.nextId := rfl
@[simp] theorem setWeir_out (d w : Nat) (x : Weir) : (s.setWeir d w x).out = s.out := rfl
@[simp] theorem setWeir_board (d w : Nat) (x : Weir) : (s.setWeir d w x).board = s.board := rfl
@[simp] theorem setWeir_boot (d w : Nat) (x : Weir) : (s.setWeir d w x).boot = s.boot := rfl
@[simp] theorem setWeir_dict (d w : Nat) (x : Weir) : (s.setWeir d w x).dict = s.dict := rfl
@[simp] theorem setWeir_mbx (d w : Nat) (x : Weir) : (s.setWeir d w x).mbx = s.mbx := rfl
@[simp] theorem setWeir_ports (d w : Nat) (x : Weir) : (s.setWeir d w x).ports = s.ports := rfl
@[simp] theorem setWeir_time (d w : Nat) (x : Weir) : (s.setWeir d w x).time = s.time := rfl
@[simp] theorem setWeir_frer (d w : Nat) (x : Weir) : (s.setWeir d w x).frer = s.frer := rfl
@[simp] theorem setWeir_cls (d w : Nat) (x : Weir) : (s.setWeir d w x).cls = s.cls := rfl
@[simp] theorem setWeir_tables (d w : Nat) (x : Weir) : (s.setWeir d w x).tables = s.tables := rfl
@[simp] theorem setWeir_flow (d w : Nat) (x : Weir) : (s.setWeir d w x).flow = s.flow := rfl
@[simp] theorem setWeir_buf (d w : Nat) (x : Weir) : (s.setWeir d w x).buf = s.buf := rfl
@[simp] theorem setWeir_ep (d w : Nat) (x : Weir) : (s.setWeir d w x).ep = s.ep := rfl
@[simp] theorem setWeir_polders (d w : Nat) (x : Weir) : (s.setWeir d w x).polders = s.polders := rfl
@[simp] theorem setWeir_wq (d w : Nat) (x : Weir) : (s.setWeir d w x).wq = s.wq := rfl
@[simp] theorem setWeir_cipher (d w : Nat) (x : Weir) : (s.setWeir d w x).cipher = s.cipher := rfl
@[simp] theorem setWeir_siphon (d w : Nat) (x : Weir) : (s.setWeir d w x).siphon = s.siphon := rfl
@[simp] theorem setWeir_jrn (d w : Nat) (x : Weir) : (s.setWeir d w x).jrn = s.jrn := rfl
@[simp] theorem setWeir_evt (d w : Nat) (x : Weir) : (s.setWeir d w x).evt = s.evt := rfl
@[simp] theorem setWeir_test (d w : Nat) (x : Weir) : (s.setWeir d w x).test = s.test := rfl
@[simp] theorem setWeir_culv (d w : Nat) (x : Weir) : (s.setWeir d w x).culv = s.culv := rfl

@[simp] theorem setFilter_pending (h : Nat) (x : StreamFilter) : (s.setFilter h x).pending = s.pending := rfl
@[simp] theorem setFilter_clock (h : Nat) (x : StreamFilter) : (s.setFilter h x).clock = s.clock := rfl
@[simp] theorem setFilter_freeCtr (h : Nat) (x : StreamFilter) : (s.setFilter h x).freeCtr = s.freeCtr := rfl
@[simp] theorem setFilter_nextId (h : Nat) (x : StreamFilter) : (s.setFilter h x).nextId = s.nextId := rfl
@[simp] theorem setFilter_out (h : Nat) (x : StreamFilter) : (s.setFilter h x).out = s.out := rfl
@[simp] theorem setFilter_board (h : Nat) (x : StreamFilter) : (s.setFilter h x).board = s.board := rfl
@[simp] theorem setFilter_boot (h : Nat) (x : StreamFilter) : (s.setFilter h x).boot = s.boot := rfl
@[simp] theorem setFilter_dict (h : Nat) (x : StreamFilter) : (s.setFilter h x).dict = s.dict := rfl
@[simp] theorem setFilter_mbx (h : Nat) (x : StreamFilter) : (s.setFilter h x).mbx = s.mbx := rfl
@[simp] theorem setFilter_ports (h : Nat) (x : StreamFilter) : (s.setFilter h x).ports = s.ports := rfl
@[simp] theorem setFilter_time (h : Nat) (x : StreamFilter) : (s.setFilter h x).time = s.time := rfl
@[simp] theorem setFilter_frer (h : Nat) (x : StreamFilter) : (s.setFilter h x).frer = s.frer := rfl
@[simp] theorem setFilter_cls (h : Nat) (x : StreamFilter) : (s.setFilter h x).cls = s.cls := rfl
@[simp] theorem setFilter_tables (h : Nat) (x : StreamFilter) : (s.setFilter h x).tables = s.tables := rfl
@[simp] theorem setFilter_flow (h : Nat) (x : StreamFilter) : (s.setFilter h x).flow = s.flow := rfl
@[simp] theorem setFilter_buf (h : Nat) (x : StreamFilter) : (s.setFilter h x).buf = s.buf := rfl
@[simp] theorem setFilter_ep (h : Nat) (x : StreamFilter) : (s.setFilter h x).ep = s.ep := rfl
@[simp] theorem setFilter_polders (h : Nat) (x : StreamFilter) : (s.setFilter h x).polders = s.polders := rfl
@[simp] theorem setFilter_wq (h : Nat) (x : StreamFilter) : (s.setFilter h x).wq = s.wq := rfl
@[simp] theorem setFilter_cipher (h : Nat) (x : StreamFilter) : (s.setFilter h x).cipher = s.cipher := rfl
@[simp] theorem setFilter_siphon (h : Nat) (x : StreamFilter) : (s.setFilter h x).siphon = s.siphon := rfl
@[simp] theorem setFilter_jrn (h : Nat) (x : StreamFilter) : (s.setFilter h x).jrn = s.jrn := rfl
@[simp] theorem setFilter_evt (h : Nat) (x : StreamFilter) : (s.setFilter h x).evt = s.evt := rfl
@[simp] theorem setFilter_test (h : Nat) (x : StreamFilter) : (s.setFilter h x).test = s.test := rfl
@[simp] theorem setFilter_culv (h : Nat) (x : StreamFilter) : (s.setFilter h x).culv = s.culv := rfl

@[simp] theorem setFunc_pending (n : Nat) (x : Func) : (s.setFunc n x).pending = s.pending := rfl
@[simp] theorem setFunc_clock (n : Nat) (x : Func) : (s.setFunc n x).clock = s.clock := rfl
@[simp] theorem setFunc_freeCtr (n : Nat) (x : Func) : (s.setFunc n x).freeCtr = s.freeCtr := rfl
@[simp] theorem setFunc_nextId (n : Nat) (x : Func) : (s.setFunc n x).nextId = s.nextId := rfl
@[simp] theorem setFunc_out (n : Nat) (x : Func) : (s.setFunc n x).out = s.out := rfl
@[simp] theorem setFunc_board (n : Nat) (x : Func) : (s.setFunc n x).board = s.board := rfl
@[simp] theorem setFunc_boot (n : Nat) (x : Func) : (s.setFunc n x).boot = s.boot := rfl
@[simp] theorem setFunc_dict (n : Nat) (x : Func) : (s.setFunc n x).dict = s.dict := rfl
@[simp] theorem setFunc_mbx (n : Nat) (x : Func) : (s.setFunc n x).mbx = s.mbx := rfl
@[simp] theorem setFunc_ports (n : Nat) (x : Func) : (s.setFunc n x).ports = s.ports := rfl
@[simp] theorem setFunc_time (n : Nat) (x : Func) : (s.setFunc n x).time = s.time := rfl
@[simp] theorem setFunc_frer (n : Nat) (x : Func) : (s.setFunc n x).frer = s.frer := rfl
@[simp] theorem setFunc_cls (n : Nat) (x : Func) : (s.setFunc n x).cls = s.cls := rfl
@[simp] theorem setFunc_tables (n : Nat) (x : Func) : (s.setFunc n x).tables = s.tables := rfl
@[simp] theorem setFunc_flow (n : Nat) (x : Func) : (s.setFunc n x).flow = s.flow := rfl
@[simp] theorem setFunc_buf (n : Nat) (x : Func) : (s.setFunc n x).buf = s.buf := rfl
@[simp] theorem setFunc_sched (n : Nat) (x : Func) : (s.setFunc n x).sched = s.sched := rfl
@[simp] theorem setFunc_polders (n : Nat) (x : Func) : (s.setFunc n x).polders = s.polders := rfl
@[simp] theorem setFunc_wq (n : Nat) (x : Func) : (s.setFunc n x).wq = s.wq := rfl
@[simp] theorem setFunc_cipher (n : Nat) (x : Func) : (s.setFunc n x).cipher = s.cipher := rfl
@[simp] theorem setFunc_siphon (n : Nat) (x : Func) : (s.setFunc n x).siphon = s.siphon := rfl
@[simp] theorem setFunc_jrn (n : Nat) (x : Func) : (s.setFunc n x).jrn = s.jrn := rfl
@[simp] theorem setFunc_evt (n : Nat) (x : Func) : (s.setFunc n x).evt = s.evt := rfl
@[simp] theorem setFunc_test (n : Nat) (x : Func) : (s.setFunc n x).test = s.test := rfl
@[simp] theorem setFunc_culv (n : Nat) (x : Func) : (s.setFunc n x).culv = s.culv := rfl

@[simp] theorem setMsix_pending (fn v : Nat) (x : MsixEntry) : (s.setMsix fn v x).pending = s.pending := rfl
@[simp] theorem setMsix_clock (fn v : Nat) (x : MsixEntry) : (s.setMsix fn v x).clock = s.clock := rfl
@[simp] theorem setMsix_freeCtr (fn v : Nat) (x : MsixEntry) : (s.setMsix fn v x).freeCtr = s.freeCtr := rfl
@[simp] theorem setMsix_nextId (fn v : Nat) (x : MsixEntry) : (s.setMsix fn v x).nextId = s.nextId := rfl
@[simp] theorem setMsix_out (fn v : Nat) (x : MsixEntry) : (s.setMsix fn v x).out = s.out := rfl
@[simp] theorem setMsix_board (fn v : Nat) (x : MsixEntry) : (s.setMsix fn v x).board = s.board := rfl
@[simp] theorem setMsix_boot (fn v : Nat) (x : MsixEntry) : (s.setMsix fn v x).boot = s.boot := rfl
@[simp] theorem setMsix_dict (fn v : Nat) (x : MsixEntry) : (s.setMsix fn v x).dict = s.dict := rfl
@[simp] theorem setMsix_mbx (fn v : Nat) (x : MsixEntry) : (s.setMsix fn v x).mbx = s.mbx := rfl
@[simp] theorem setMsix_ports (fn v : Nat) (x : MsixEntry) : (s.setMsix fn v x).ports = s.ports := rfl
@[simp] theorem setMsix_time (fn v : Nat) (x : MsixEntry) : (s.setMsix fn v x).time = s.time := rfl
@[simp] theorem setMsix_frer (fn v : Nat) (x : MsixEntry) : (s.setMsix fn v x).frer = s.frer := rfl
@[simp] theorem setMsix_cls (fn v : Nat) (x : MsixEntry) : (s.setMsix fn v x).cls = s.cls := rfl
@[simp] theorem setMsix_tables (fn v : Nat) (x : MsixEntry) : (s.setMsix fn v x).tables = s.tables := rfl
@[simp] theorem setMsix_flow (fn v : Nat) (x : MsixEntry) : (s.setMsix fn v x).flow = s.flow := rfl
@[simp] theorem setMsix_buf (fn v : Nat) (x : MsixEntry) : (s.setMsix fn v x).buf = s.buf := rfl
@[simp] theorem setMsix_sched (fn v : Nat) (x : MsixEntry) : (s.setMsix fn v x).sched = s.sched := rfl
@[simp] theorem setMsix_polders (fn v : Nat) (x : MsixEntry) : (s.setMsix fn v x).polders = s.polders := rfl
@[simp] theorem setMsix_wq (fn v : Nat) (x : MsixEntry) : (s.setMsix fn v x).wq = s.wq := rfl
@[simp] theorem setMsix_cipher (fn v : Nat) (x : MsixEntry) : (s.setMsix fn v x).cipher = s.cipher := rfl
@[simp] theorem setMsix_siphon (fn v : Nat) (x : MsixEntry) : (s.setMsix fn v x).siphon = s.siphon := rfl
@[simp] theorem setMsix_jrn (fn v : Nat) (x : MsixEntry) : (s.setMsix fn v x).jrn = s.jrn := rfl
@[simp] theorem setMsix_evt (fn v : Nat) (x : MsixEntry) : (s.setMsix fn v x).evt = s.evt := rfl
@[simp] theorem setMsix_test (fn v : Nat) (x : MsixEntry) : (s.setMsix fn v x).test = s.test := rfl
@[simp] theorem setMsix_culv (fn v : Nat) (x : MsixEntry) : (s.setMsix fn v x).culv = s.culv := rfl

@[simp] theorem setPolder_pending (n : Nat) (x : Polder) : (s.setPolder n x).pending = s.pending := rfl
@[simp] theorem setPolder_clock (n : Nat) (x : Polder) : (s.setPolder n x).clock = s.clock := rfl
@[simp] theorem setPolder_freeCtr (n : Nat) (x : Polder) : (s.setPolder n x).freeCtr = s.freeCtr := rfl
@[simp] theorem setPolder_nextId (n : Nat) (x : Polder) : (s.setPolder n x).nextId = s.nextId := rfl
@[simp] theorem setPolder_out (n : Nat) (x : Polder) : (s.setPolder n x).out = s.out := rfl
@[simp] theorem setPolder_board (n : Nat) (x : Polder) : (s.setPolder n x).board = s.board := rfl
@[simp] theorem setPolder_boot (n : Nat) (x : Polder) : (s.setPolder n x).boot = s.boot := rfl
@[simp] theorem setPolder_dict (n : Nat) (x : Polder) : (s.setPolder n x).dict = s.dict := rfl
@[simp] theorem setPolder_mbx (n : Nat) (x : Polder) : (s.setPolder n x).mbx = s.mbx := rfl
@[simp] theorem setPolder_ports (n : Nat) (x : Polder) : (s.setPolder n x).ports = s.ports := rfl
@[simp] theorem setPolder_time (n : Nat) (x : Polder) : (s.setPolder n x).time = s.time := rfl
@[simp] theorem setPolder_frer (n : Nat) (x : Polder) : (s.setPolder n x).frer = s.frer := rfl
@[simp] theorem setPolder_cls (n : Nat) (x : Polder) : (s.setPolder n x).cls = s.cls := rfl
@[simp] theorem setPolder_tables (n : Nat) (x : Polder) : (s.setPolder n x).tables = s.tables := rfl
@[simp] theorem setPolder_flow (n : Nat) (x : Polder) : (s.setPolder n x).flow = s.flow := rfl
@[simp] theorem setPolder_buf (n : Nat) (x : Polder) : (s.setPolder n x).buf = s.buf := rfl
@[simp] theorem setPolder_sched (n : Nat) (x : Polder) : (s.setPolder n x).sched = s.sched := rfl
@[simp] theorem setPolder_ep (n : Nat) (x : Polder) : (s.setPolder n x).ep = s.ep := rfl
@[simp] theorem setPolder_wq (n : Nat) (x : Polder) : (s.setPolder n x).wq = s.wq := rfl
@[simp] theorem setPolder_cipher (n : Nat) (x : Polder) : (s.setPolder n x).cipher = s.cipher := rfl
@[simp] theorem setPolder_siphon (n : Nat) (x : Polder) : (s.setPolder n x).siphon = s.siphon := rfl
@[simp] theorem setPolder_jrn (n : Nat) (x : Polder) : (s.setPolder n x).jrn = s.jrn := rfl
@[simp] theorem setPolder_evt (n : Nat) (x : Polder) : (s.setPolder n x).evt = s.evt := rfl
@[simp] theorem setPolder_test (n : Nat) (x : Polder) : (s.setPolder n x).test = s.test := rfl
@[simp] theorem setPolder_culv (n : Nat) (x : Polder) : (s.setPolder n x).culv = s.culv := rfl

@[simp] theorem setSession_pending (n : Nat) (x : Session) : (s.setSession n x).pending = s.pending := rfl
@[simp] theorem setSession_clock (n : Nat) (x : Session) : (s.setSession n x).clock = s.clock := rfl
@[simp] theorem setSession_freeCtr (n : Nat) (x : Session) : (s.setSession n x).freeCtr = s.freeCtr := rfl
@[simp] theorem setSession_nextId (n : Nat) (x : Session) : (s.setSession n x).nextId = s.nextId := rfl
@[simp] theorem setSession_out (n : Nat) (x : Session) : (s.setSession n x).out = s.out := rfl
@[simp] theorem setSession_board (n : Nat) (x : Session) : (s.setSession n x).board = s.board := rfl
@[simp] theorem setSession_boot (n : Nat) (x : Session) : (s.setSession n x).boot = s.boot := rfl
@[simp] theorem setSession_mbx (n : Nat) (x : Session) : (s.setSession n x).mbx = s.mbx := rfl
@[simp] theorem setSession_ports (n : Nat) (x : Session) : (s.setSession n x).ports = s.ports := rfl
@[simp] theorem setSession_time (n : Nat) (x : Session) : (s.setSession n x).time = s.time := rfl
@[simp] theorem setSession_frer (n : Nat) (x : Session) : (s.setSession n x).frer = s.frer := rfl
@[simp] theorem setSession_cls (n : Nat) (x : Session) : (s.setSession n x).cls = s.cls := rfl
@[simp] theorem setSession_tables (n : Nat) (x : Session) : (s.setSession n x).tables = s.tables := rfl
@[simp] theorem setSession_flow (n : Nat) (x : Session) : (s.setSession n x).flow = s.flow := rfl
@[simp] theorem setSession_buf (n : Nat) (x : Session) : (s.setSession n x).buf = s.buf := rfl
@[simp] theorem setSession_sched (n : Nat) (x : Session) : (s.setSession n x).sched = s.sched := rfl
@[simp] theorem setSession_ep (n : Nat) (x : Session) : (s.setSession n x).ep = s.ep := rfl
@[simp] theorem setSession_polders (n : Nat) (x : Session) : (s.setSession n x).polders = s.polders := rfl
@[simp] theorem setSession_wq (n : Nat) (x : Session) : (s.setSession n x).wq = s.wq := rfl
@[simp] theorem setSession_cipher (n : Nat) (x : Session) : (s.setSession n x).cipher = s.cipher := rfl
@[simp] theorem setSession_siphon (n : Nat) (x : Session) : (s.setSession n x).siphon = s.siphon := rfl
@[simp] theorem setSession_jrn (n : Nat) (x : Session) : (s.setSession n x).jrn = s.jrn := rfl
@[simp] theorem setSession_evt (n : Nat) (x : Session) : (s.setSession n x).evt = s.evt := rfl
@[simp] theorem setSession_test (n : Nat) (x : Session) : (s.setSession n x).test = s.test := rfl
@[simp] theorem setSession_culv (n : Nat) (x : Session) : (s.setSession n x).culv = s.culv := rfl

@[simp] theorem setBufDie_pending (d : Nat) (x : BufDie) : (s.setBufDie d x).pending = s.pending := rfl
@[simp] theorem setBufDie_clock (d : Nat) (x : BufDie) : (s.setBufDie d x).clock = s.clock := rfl
@[simp] theorem setBufDie_freeCtr (d : Nat) (x : BufDie) : (s.setBufDie d x).freeCtr = s.freeCtr := rfl
@[simp] theorem setBufDie_nextId (d : Nat) (x : BufDie) : (s.setBufDie d x).nextId = s.nextId := rfl
@[simp] theorem setBufDie_out (d : Nat) (x : BufDie) : (s.setBufDie d x).out = s.out := rfl
@[simp] theorem setBufDie_board (d : Nat) (x : BufDie) : (s.setBufDie d x).board = s.board := rfl
@[simp] theorem setBufDie_boot (d : Nat) (x : BufDie) : (s.setBufDie d x).boot = s.boot := rfl
@[simp] theorem setBufDie_dict (d : Nat) (x : BufDie) : (s.setBufDie d x).dict = s.dict := rfl
@[simp] theorem setBufDie_mbx (d : Nat) (x : BufDie) : (s.setBufDie d x).mbx = s.mbx := rfl
@[simp] theorem setBufDie_ports (d : Nat) (x : BufDie) : (s.setBufDie d x).ports = s.ports := rfl
@[simp] theorem setBufDie_time (d : Nat) (x : BufDie) : (s.setBufDie d x).time = s.time := rfl
@[simp] theorem setBufDie_frer (d : Nat) (x : BufDie) : (s.setBufDie d x).frer = s.frer := rfl
@[simp] theorem setBufDie_cls (d : Nat) (x : BufDie) : (s.setBufDie d x).cls = s.cls := rfl
@[simp] theorem setBufDie_tables (d : Nat) (x : BufDie) : (s.setBufDie d x).tables = s.tables := rfl
@[simp] theorem setBufDie_flow (d : Nat) (x : BufDie) : (s.setBufDie d x).flow = s.flow := rfl
@[simp] theorem setBufDie_sched (d : Nat) (x : BufDie) : (s.setBufDie d x).sched = s.sched := rfl
@[simp] theorem setBufDie_ep (d : Nat) (x : BufDie) : (s.setBufDie d x).ep = s.ep := rfl
@[simp] theorem setBufDie_polders (d : Nat) (x : BufDie) : (s.setBufDie d x).polders = s.polders := rfl
@[simp] theorem setBufDie_wq (d : Nat) (x : BufDie) : (s.setBufDie d x).wq = s.wq := rfl
@[simp] theorem setBufDie_cipher (d : Nat) (x : BufDie) : (s.setBufDie d x).cipher = s.cipher := rfl
@[simp] theorem setBufDie_siphon (d : Nat) (x : BufDie) : (s.setBufDie d x).siphon = s.siphon := rfl
@[simp] theorem setBufDie_jrn (d : Nat) (x : BufDie) : (s.setBufDie d x).jrn = s.jrn := rfl
@[simp] theorem setBufDie_evt (d : Nat) (x : BufDie) : (s.setBufDie d x).evt = s.evt := rfl
@[simp] theorem setBufDie_test (d : Nat) (x : BufDie) : (s.setBufDie d x).test = s.test := rfl
@[simp] theorem setBufDie_culv (d : Nat) (x : BufDie) : (s.setBufDie d x).culv = s.culv := rfl

@[simp] theorem setFlowDie_pending (d : Nat) (x : FlowDie) : (s.setFlowDie d x).pending = s.pending := rfl
@[simp] theorem setFlowDie_clock (d : Nat) (x : FlowDie) : (s.setFlowDie d x).clock = s.clock := rfl
@[simp] theorem setFlowDie_freeCtr (d : Nat) (x : FlowDie) : (s.setFlowDie d x).freeCtr = s.freeCtr := rfl
@[simp] theorem setFlowDie_nextId (d : Nat) (x : FlowDie) : (s.setFlowDie d x).nextId = s.nextId := rfl
@[simp] theorem setFlowDie_out (d : Nat) (x : FlowDie) : (s.setFlowDie d x).out = s.out := rfl
@[simp] theorem setFlowDie_board (d : Nat) (x : FlowDie) : (s.setFlowDie d x).board = s.board := rfl
@[simp] theorem setFlowDie_boot (d : Nat) (x : FlowDie) : (s.setFlowDie d x).boot = s.boot := rfl
@[simp] theorem setFlowDie_dict (d : Nat) (x : FlowDie) : (s.setFlowDie d x).dict = s.dict := rfl
@[simp] theorem setFlowDie_mbx (d : Nat) (x : FlowDie) : (s.setFlowDie d x).mbx = s.mbx := rfl
@[simp] theorem setFlowDie_ports (d : Nat) (x : FlowDie) : (s.setFlowDie d x).ports = s.ports := rfl
@[simp] theorem setFlowDie_time (d : Nat) (x : FlowDie) : (s.setFlowDie d x).time = s.time := rfl
@[simp] theorem setFlowDie_frer (d : Nat) (x : FlowDie) : (s.setFlowDie d x).frer = s.frer := rfl
@[simp] theorem setFlowDie_cls (d : Nat) (x : FlowDie) : (s.setFlowDie d x).cls = s.cls := rfl
@[simp] theorem setFlowDie_tables (d : Nat) (x : FlowDie) : (s.setFlowDie d x).tables = s.tables := rfl
@[simp] theorem setFlowDie_buf (d : Nat) (x : FlowDie) : (s.setFlowDie d x).buf = s.buf := rfl
@[simp] theorem setFlowDie_sched (d : Nat) (x : FlowDie) : (s.setFlowDie d x).sched = s.sched := rfl
@[simp] theorem setFlowDie_ep (d : Nat) (x : FlowDie) : (s.setFlowDie d x).ep = s.ep := rfl
@[simp] theorem setFlowDie_polders (d : Nat) (x : FlowDie) : (s.setFlowDie d x).polders = s.polders := rfl
@[simp] theorem setFlowDie_wq (d : Nat) (x : FlowDie) : (s.setFlowDie d x).wq = s.wq := rfl
@[simp] theorem setFlowDie_cipher (d : Nat) (x : FlowDie) : (s.setFlowDie d x).cipher = s.cipher := rfl
@[simp] theorem setFlowDie_siphon (d : Nat) (x : FlowDie) : (s.setFlowDie d x).siphon = s.siphon := rfl
@[simp] theorem setFlowDie_jrn (d : Nat) (x : FlowDie) : (s.setFlowDie d x).jrn = s.jrn := rfl
@[simp] theorem setFlowDie_evt (d : Nat) (x : FlowDie) : (s.setFlowDie d x).evt = s.evt := rfl
@[simp] theorem setFlowDie_test (d : Nat) (x : FlowDie) : (s.setFlowDie d x).test = s.test := rfl
@[simp] theorem setFlowDie_culv (d : Nat) (x : FlowDie) : (s.setFlowDie d x).culv = s.culv := rfl

@[simp] theorem setCtx_pending (c : Nat) (x : Ctx) : (s.setCtx c x).pending = s.pending := rfl
@[simp] theorem setCtx_clock (c : Nat) (x : Ctx) : (s.setCtx c x).clock = s.clock := rfl
@[simp] theorem setCtx_freeCtr (c : Nat) (x : Ctx) : (s.setCtx c x).freeCtr = s.freeCtr := rfl
@[simp] theorem setCtx_nextId (c : Nat) (x : Ctx) : (s.setCtx c x).nextId = s.nextId := rfl
@[simp] theorem setCtx_out (c : Nat) (x : Ctx) : (s.setCtx c x).out = s.out := rfl
@[simp] theorem setCtx_board (c : Nat) (x : Ctx) : (s.setCtx c x).board = s.board := rfl
@[simp] theorem setCtx_boot (c : Nat) (x : Ctx) : (s.setCtx c x).boot = s.boot := rfl
@[simp] theorem setCtx_dict (c : Nat) (x : Ctx) : (s.setCtx c x).dict = s.dict := rfl
@[simp] theorem setCtx_mbx (c : Nat) (x : Ctx) : (s.setCtx c x).mbx = s.mbx := rfl
@[simp] theorem setCtx_ports (c : Nat) (x : Ctx) : (s.setCtx c x).ports = s.ports := rfl
@[simp] theorem setCtx_time (c : Nat) (x : Ctx) : (s.setCtx c x).time = s.time := rfl
@[simp] theorem setCtx_frer (c : Nat) (x : Ctx) : (s.setCtx c x).frer = s.frer := rfl
@[simp] theorem setCtx_cls (c : Nat) (x : Ctx) : (s.setCtx c x).cls = s.cls := rfl
@[simp] theorem setCtx_tables (c : Nat) (x : Ctx) : (s.setCtx c x).tables = s.tables := rfl
@[simp] theorem setCtx_buf (c : Nat) (x : Ctx) : (s.setCtx c x).buf = s.buf := rfl
@[simp] theorem setCtx_sched (c : Nat) (x : Ctx) : (s.setCtx c x).sched = s.sched := rfl
@[simp] theorem setCtx_ep (c : Nat) (x : Ctx) : (s.setCtx c x).ep = s.ep := rfl
@[simp] theorem setCtx_polders (c : Nat) (x : Ctx) : (s.setCtx c x).polders = s.polders := rfl
@[simp] theorem setCtx_wq (c : Nat) (x : Ctx) : (s.setCtx c x).wq = s.wq := rfl
@[simp] theorem setCtx_cipher (c : Nat) (x : Ctx) : (s.setCtx c x).cipher = s.cipher := rfl
@[simp] theorem setCtx_siphon (c : Nat) (x : Ctx) : (s.setCtx c x).siphon = s.siphon := rfl
@[simp] theorem setCtx_jrn (c : Nat) (x : Ctx) : (s.setCtx c x).jrn = s.jrn := rfl
@[simp] theorem setCtx_evt (c : Nat) (x : Ctx) : (s.setCtx c x).evt = s.evt := rfl
@[simp] theorem setCtx_test (c : Nat) (x : Ctx) : (s.setCtx c x).test = s.test := rfl
@[simp] theorem setCtx_culv (c : Nat) (x : Ctx) : (s.setCtx c x).culv = s.culv := rfl

@[simp] theorem setChannel_pending (g : Nat) (x : Channel) : (s.setChannel g x).pending = s.pending := rfl
@[simp] theorem setChannel_clock (g : Nat) (x : Channel) : (s.setChannel g x).clock = s.clock := rfl
@[simp] theorem setChannel_freeCtr (g : Nat) (x : Channel) : (s.setChannel g x).freeCtr = s.freeCtr := rfl
@[simp] theorem setChannel_nextId (g : Nat) (x : Channel) : (s.setChannel g x).nextId = s.nextId := rfl
@[simp] theorem setChannel_out (g : Nat) (x : Channel) : (s.setChannel g x).out = s.out := rfl
@[simp] theorem setChannel_board (g : Nat) (x : Channel) : (s.setChannel g x).board = s.board := rfl
@[simp] theorem setChannel_boot (g : Nat) (x : Channel) : (s.setChannel g x).boot = s.boot := rfl
@[simp] theorem setChannel_dict (g : Nat) (x : Channel) : (s.setChannel g x).dict = s.dict := rfl
@[simp] theorem setChannel_mbx (g : Nat) (x : Channel) : (s.setChannel g x).mbx = s.mbx := rfl
@[simp] theorem setChannel_ports (g : Nat) (x : Channel) : (s.setChannel g x).ports = s.ports := rfl
@[simp] theorem setChannel_time (g : Nat) (x : Channel) : (s.setChannel g x).time = s.time := rfl
@[simp] theorem setChannel_frer (g : Nat) (x : Channel) : (s.setChannel g x).frer = s.frer := rfl
@[simp] theorem setChannel_cls (g : Nat) (x : Channel) : (s.setChannel g x).cls = s.cls := rfl
@[simp] theorem setChannel_tables (g : Nat) (x : Channel) : (s.setChannel g x).tables = s.tables := rfl
@[simp] theorem setChannel_flow (g : Nat) (x : Channel) : (s.setChannel g x).flow = s.flow := rfl
@[simp] theorem setChannel_buf (g : Nat) (x : Channel) : (s.setChannel g x).buf = s.buf := rfl
@[simp] theorem setChannel_sched (g : Nat) (x : Channel) : (s.setChannel g x).sched = s.sched := rfl
@[simp] theorem setChannel_ep (g : Nat) (x : Channel) : (s.setChannel g x).ep = s.ep := rfl
@[simp] theorem setChannel_polders (g : Nat) (x : Channel) : (s.setChannel g x).polders = s.polders := rfl
@[simp] theorem setChannel_wq (g : Nat) (x : Channel) : (s.setChannel g x).wq = s.wq := rfl
@[simp] theorem setChannel_cipher (g : Nat) (x : Channel) : (s.setChannel g x).cipher = s.cipher := rfl
@[simp] theorem setChannel_jrn (g : Nat) (x : Channel) : (s.setChannel g x).jrn = s.jrn := rfl
@[simp] theorem setChannel_evt (g : Nat) (x : Channel) : (s.setChannel g x).evt = s.evt := rfl
@[simp] theorem setChannel_test (g : Nat) (x : Channel) : (s.setChannel g x).test = s.test := rfl
@[simp] theorem setChannel_culv (g : Nat) (x : Channel) : (s.setChannel g x).culv = s.culv := rfl

@[simp] theorem setRegion_pending (g : Nat) (x : Region) : (s.setRegion g x).pending = s.pending := rfl
@[simp] theorem setRegion_clock (g : Nat) (x : Region) : (s.setRegion g x).clock = s.clock := rfl
@[simp] theorem setRegion_freeCtr (g : Nat) (x : Region) : (s.setRegion g x).freeCtr = s.freeCtr := rfl
@[simp] theorem setRegion_nextId (g : Nat) (x : Region) : (s.setRegion g x).nextId = s.nextId := rfl
@[simp] theorem setRegion_out (g : Nat) (x : Region) : (s.setRegion g x).out = s.out := rfl
@[simp] theorem setRegion_board (g : Nat) (x : Region) : (s.setRegion g x).board = s.board := rfl
@[simp] theorem setRegion_boot (g : Nat) (x : Region) : (s.setRegion g x).boot = s.boot := rfl
@[simp] theorem setRegion_dict (g : Nat) (x : Region) : (s.setRegion g x).dict = s.dict := rfl
@[simp] theorem setRegion_mbx (g : Nat) (x : Region) : (s.setRegion g x).mbx = s.mbx := rfl
@[simp] theorem setRegion_ports (g : Nat) (x : Region) : (s.setRegion g x).ports = s.ports := rfl
@[simp] theorem setRegion_time (g : Nat) (x : Region) : (s.setRegion g x).time = s.time := rfl
@[simp] theorem setRegion_frer (g : Nat) (x : Region) : (s.setRegion g x).frer = s.frer := rfl
@[simp] theorem setRegion_cls (g : Nat) (x : Region) : (s.setRegion g x).cls = s.cls := rfl
@[simp] theorem setRegion_tables (g : Nat) (x : Region) : (s.setRegion g x).tables = s.tables := rfl
@[simp] theorem setRegion_flow (g : Nat) (x : Region) : (s.setRegion g x).flow = s.flow := rfl
@[simp] theorem setRegion_buf (g : Nat) (x : Region) : (s.setRegion g x).buf = s.buf := rfl
@[simp] theorem setRegion_sched (g : Nat) (x : Region) : (s.setRegion g x).sched = s.sched := rfl
@[simp] theorem setRegion_ep (g : Nat) (x : Region) : (s.setRegion g x).ep = s.ep := rfl
@[simp] theorem setRegion_polders (g : Nat) (x : Region) : (s.setRegion g x).polders = s.polders := rfl
@[simp] theorem setRegion_wq (g : Nat) (x : Region) : (s.setRegion g x).wq = s.wq := rfl
@[simp] theorem setRegion_cipher (g : Nat) (x : Region) : (s.setRegion g x).cipher = s.cipher := rfl
@[simp] theorem setRegion_jrn (g : Nat) (x : Region) : (s.setRegion g x).jrn = s.jrn := rfl
@[simp] theorem setRegion_evt (g : Nat) (x : Region) : (s.setRegion g x).evt = s.evt := rfl
@[simp] theorem setRegion_test (g : Nat) (x : Region) : (s.setRegion g x).test = s.test := rfl
@[simp] theorem setRegion_culv (g : Nat) (x : Region) : (s.setRegion g x).culv = s.culv := rfl

@[simp] theorem setKeySlot_pending (g : Nat) (x : KeySlot) : (s.setKeySlot g x).pending = s.pending := rfl
@[simp] theorem setKeySlot_clock (g : Nat) (x : KeySlot) : (s.setKeySlot g x).clock = s.clock := rfl
@[simp] theorem setKeySlot_freeCtr (g : Nat) (x : KeySlot) : (s.setKeySlot g x).freeCtr = s.freeCtr := rfl
@[simp] theorem setKeySlot_nextId (g : Nat) (x : KeySlot) : (s.setKeySlot g x).nextId = s.nextId := rfl
@[simp] theorem setKeySlot_out (g : Nat) (x : KeySlot) : (s.setKeySlot g x).out = s.out := rfl
@[simp] theorem setKeySlot_board (g : Nat) (x : KeySlot) : (s.setKeySlot g x).board = s.board := rfl
@[simp] theorem setKeySlot_boot (g : Nat) (x : KeySlot) : (s.setKeySlot g x).boot = s.boot := rfl
@[simp] theorem setKeySlot_dict (g : Nat) (x : KeySlot) : (s.setKeySlot g x).dict = s.dict := rfl
@[simp] theorem setKeySlot_mbx (g : Nat) (x : KeySlot) : (s.setKeySlot g x).mbx = s.mbx := rfl
@[simp] theorem setKeySlot_ports (g : Nat) (x : KeySlot) : (s.setKeySlot g x).ports = s.ports := rfl
@[simp] theorem setKeySlot_time (g : Nat) (x : KeySlot) : (s.setKeySlot g x).time = s.time := rfl
@[simp] theorem setKeySlot_frer (g : Nat) (x : KeySlot) : (s.setKeySlot g x).frer = s.frer := rfl
@[simp] theorem setKeySlot_cls (g : Nat) (x : KeySlot) : (s.setKeySlot g x).cls = s.cls := rfl
@[simp] theorem setKeySlot_tables (g : Nat) (x : KeySlot) : (s.setKeySlot g x).tables = s.tables := rfl
@[simp] theorem setKeySlot_flow (g : Nat) (x : KeySlot) : (s.setKeySlot g x).flow = s.flow := rfl
@[simp] theorem setKeySlot_buf (g : Nat) (x : KeySlot) : (s.setKeySlot g x).buf = s.buf := rfl
@[simp] theorem setKeySlot_sched (g : Nat) (x : KeySlot) : (s.setKeySlot g x).sched = s.sched := rfl
@[simp] theorem setKeySlot_ep (g : Nat) (x : KeySlot) : (s.setKeySlot g x).ep = s.ep := rfl
@[simp] theorem setKeySlot_polders (g : Nat) (x : KeySlot) : (s.setKeySlot g x).polders = s.polders := rfl
@[simp] theorem setKeySlot_wq (g : Nat) (x : KeySlot) : (s.setKeySlot g x).wq = s.wq := rfl
@[simp] theorem setKeySlot_siphon (g : Nat) (x : KeySlot) : (s.setKeySlot g x).siphon = s.siphon := rfl
@[simp] theorem setKeySlot_jrn (g : Nat) (x : KeySlot) : (s.setKeySlot g x).jrn = s.jrn := rfl
@[simp] theorem setKeySlot_evt (g : Nat) (x : KeySlot) : (s.setKeySlot g x).evt = s.evt := rfl
@[simp] theorem setKeySlot_test (g : Nat) (x : KeySlot) : (s.setKeySlot g x).test = s.test := rfl
@[simp] theorem setKeySlot_culv (g : Nat) (x : KeySlot) : (s.setKeySlot g x).culv = s.culv := rfl

@[simp] theorem setCart_pending (i : Nat) (x : CartSlot) : (s.setCart i x).pending = s.pending := rfl
@[simp] theorem setCart_clock (i : Nat) (x : CartSlot) : (s.setCart i x).clock = s.clock := rfl
@[simp] theorem setCart_freeCtr (i : Nat) (x : CartSlot) : (s.setCart i x).freeCtr = s.freeCtr := rfl
@[simp] theorem setCart_nextId (i : Nat) (x : CartSlot) : (s.setCart i x).nextId = s.nextId := rfl
@[simp] theorem setCart_out (i : Nat) (x : CartSlot) : (s.setCart i x).out = s.out := rfl
@[simp] theorem setCart_board (i : Nat) (x : CartSlot) : (s.setCart i x).board = s.board := rfl
@[simp] theorem setCart_boot (i : Nat) (x : CartSlot) : (s.setCart i x).boot = s.boot := rfl
@[simp] theorem setCart_dict (i : Nat) (x : CartSlot) : (s.setCart i x).dict = s.dict := rfl
@[simp] theorem setCart_mbx (i : Nat) (x : CartSlot) : (s.setCart i x).mbx = s.mbx := rfl
@[simp] theorem setCart_ports (i : Nat) (x : CartSlot) : (s.setCart i x).ports = s.ports := rfl
@[simp] theorem setCart_time (i : Nat) (x : CartSlot) : (s.setCart i x).time = s.time := rfl
@[simp] theorem setCart_frer (i : Nat) (x : CartSlot) : (s.setCart i x).frer = s.frer := rfl
@[simp] theorem setCart_cls (i : Nat) (x : CartSlot) : (s.setCart i x).cls = s.cls := rfl
@[simp] theorem setCart_tables (i : Nat) (x : CartSlot) : (s.setCart i x).tables = s.tables := rfl
@[simp] theorem setCart_flow (i : Nat) (x : CartSlot) : (s.setCart i x).flow = s.flow := rfl
@[simp] theorem setCart_buf (i : Nat) (x : CartSlot) : (s.setCart i x).buf = s.buf := rfl
@[simp] theorem setCart_sched (i : Nat) (x : CartSlot) : (s.setCart i x).sched = s.sched := rfl
@[simp] theorem setCart_ep (i : Nat) (x : CartSlot) : (s.setCart i x).ep = s.ep := rfl
@[simp] theorem setCart_polders (i : Nat) (x : CartSlot) : (s.setCart i x).polders = s.polders := rfl
@[simp] theorem setCart_wq (i : Nat) (x : CartSlot) : (s.setCart i x).wq = s.wq := rfl
@[simp] theorem setCart_cipher (i : Nat) (x : CartSlot) : (s.setCart i x).cipher = s.cipher := rfl
@[simp] theorem setCart_siphon (i : Nat) (x : CartSlot) : (s.setCart i x).siphon = s.siphon := rfl
@[simp] theorem setCart_evt (i : Nat) (x : CartSlot) : (s.setCart i x).evt = s.evt := rfl
@[simp] theorem setCart_test (i : Nat) (x : CartSlot) : (s.setCart i x).test = s.test := rfl
@[simp] theorem setCart_culv (i : Nat) (x : CartSlot) : (s.setCart i x).culv = s.culv := rfl

@[simp] theorem setSpace_pending (n : Nat) (x : Space) : (s.setSpace n x).pending = s.pending := rfl
@[simp] theorem setSpace_clock (n : Nat) (x : Space) : (s.setSpace n x).clock = s.clock := rfl
@[simp] theorem setSpace_freeCtr (n : Nat) (x : Space) : (s.setSpace n x).freeCtr = s.freeCtr := rfl
@[simp] theorem setSpace_nextId (n : Nat) (x : Space) : (s.setSpace n x).nextId = s.nextId := rfl
@[simp] theorem setSpace_out (n : Nat) (x : Space) : (s.setSpace n x).out = s.out := rfl
@[simp] theorem setSpace_board (n : Nat) (x : Space) : (s.setSpace n x).board = s.board := rfl
@[simp] theorem setSpace_boot (n : Nat) (x : Space) : (s.setSpace n x).boot = s.boot := rfl
@[simp] theorem setSpace_dict (n : Nat) (x : Space) : (s.setSpace n x).dict = s.dict := rfl
@[simp] theorem setSpace_mbx (n : Nat) (x : Space) : (s.setSpace n x).mbx = s.mbx := rfl
@[simp] theorem setSpace_ports (n : Nat) (x : Space) : (s.setSpace n x).ports = s.ports := rfl
@[simp] theorem setSpace_time (n : Nat) (x : Space) : (s.setSpace n x).time = s.time := rfl
@[simp] theorem setSpace_frer (n : Nat) (x : Space) : (s.setSpace n x).frer = s.frer := rfl
@[simp] theorem setSpace_cls (n : Nat) (x : Space) : (s.setSpace n x).cls = s.cls := rfl
@[simp] theorem setSpace_tables (n : Nat) (x : Space) : (s.setSpace n x).tables = s.tables := rfl
@[simp] theorem setSpace_flow (n : Nat) (x : Space) : (s.setSpace n x).flow = s.flow := rfl
@[simp] theorem setSpace_buf (n : Nat) (x : Space) : (s.setSpace n x).buf = s.buf := rfl
@[simp] theorem setSpace_sched (n : Nat) (x : Space) : (s.setSpace n x).sched = s.sched := rfl
@[simp] theorem setSpace_ep (n : Nat) (x : Space) : (s.setSpace n x).ep = s.ep := rfl
@[simp] theorem setSpace_polders (n : Nat) (x : Space) : (s.setSpace n x).polders = s.polders := rfl
@[simp] theorem setSpace_wq (n : Nat) (x : Space) : (s.setSpace n x).wq = s.wq := rfl
@[simp] theorem setSpace_cipher (n : Nat) (x : Space) : (s.setSpace n x).cipher = s.cipher := rfl
@[simp] theorem setSpace_siphon (n : Nat) (x : Space) : (s.setSpace n x).siphon = s.siphon := rfl
@[simp] theorem setSpace_evt (n : Nat) (x : Space) : (s.setSpace n x).evt = s.evt := rfl
@[simp] theorem setSpace_test (n : Nat) (x : Space) : (s.setSpace n x).test = s.test := rfl
@[simp] theorem setSpace_culv (n : Nat) (x : Space) : (s.setSpace n x).culv = s.culv := rfl

@[simp] theorem setPage_pending (n : Nat) (x : Page) : (s.setPage n x).pending = s.pending := rfl
@[simp] theorem setPage_clock (n : Nat) (x : Page) : (s.setPage n x).clock = s.clock := rfl
@[simp] theorem setPage_freeCtr (n : Nat) (x : Page) : (s.setPage n x).freeCtr = s.freeCtr := rfl
@[simp] theorem setPage_nextId (n : Nat) (x : Page) : (s.setPage n x).nextId = s.nextId := rfl
@[simp] theorem setPage_out (n : Nat) (x : Page) : (s.setPage n x).out = s.out := rfl
@[simp] theorem setPage_board (n : Nat) (x : Page) : (s.setPage n x).board = s.board := rfl
@[simp] theorem setPage_boot (n : Nat) (x : Page) : (s.setPage n x).boot = s.boot := rfl
@[simp] theorem setPage_dict (n : Nat) (x : Page) : (s.setPage n x).dict = s.dict := rfl
@[simp] theorem setPage_mbx (n : Nat) (x : Page) : (s.setPage n x).mbx = s.mbx := rfl
@[simp] theorem setPage_ports (n : Nat) (x : Page) : (s.setPage n x).ports = s.ports := rfl
@[simp] theorem setPage_time (n : Nat) (x : Page) : (s.setPage n x).time = s.time := rfl
@[simp] theorem setPage_frer (n : Nat) (x : Page) : (s.setPage n x).frer = s.frer := rfl
@[simp] theorem setPage_cls (n : Nat) (x : Page) : (s.setPage n x).cls = s.cls := rfl
@[simp] theorem setPage_tables (n : Nat) (x : Page) : (s.setPage n x).tables = s.tables := rfl
@[simp] theorem setPage_flow (n : Nat) (x : Page) : (s.setPage n x).flow = s.flow := rfl
@[simp] theorem setPage_buf (n : Nat) (x : Page) : (s.setPage n x).buf = s.buf := rfl
@[simp] theorem setPage_sched (n : Nat) (x : Page) : (s.setPage n x).sched = s.sched := rfl
@[simp] theorem setPage_ep (n : Nat) (x : Page) : (s.setPage n x).ep = s.ep := rfl
@[simp] theorem setPage_polders (n : Nat) (x : Page) : (s.setPage n x).polders = s.polders := rfl
@[simp] theorem setPage_wq (n : Nat) (x : Page) : (s.setPage n x).wq = s.wq := rfl
@[simp] theorem setPage_cipher (n : Nat) (x : Page) : (s.setPage n x).cipher = s.cipher := rfl
@[simp] theorem setPage_siphon (n : Nat) (x : Page) : (s.setPage n x).siphon = s.siphon := rfl
@[simp] theorem setPage_jrn (n : Nat) (x : Page) : (s.setPage n x).jrn = s.jrn := rfl
@[simp] theorem setPage_test (n : Nat) (x : Page) : (s.setPage n x).test = s.test := rfl
@[simp] theorem setPage_culv (n : Nat) (x : Page) : (s.setPage n x).culv = s.culv := rfl

@[simp] theorem emit_pending (o : Out) : (emit o s).pending = s.pending := rfl
@[simp] theorem emit_clock (o : Out) : (emit o s).clock = s.clock := rfl
@[simp] theorem emit_freeCtr (o : Out) : (emit o s).freeCtr = s.freeCtr := rfl
@[simp] theorem emit_nextId (o : Out) : (emit o s).nextId = s.nextId := rfl
@[simp] theorem emit_out (o : Out) : (emit o s).out = s.out ++ [o] := rfl
@[simp] theorem emit_board (o : Out) : (emit o s).board = s.board := rfl
@[simp] theorem emit_boot (o : Out) : (emit o s).boot = s.boot := rfl
@[simp] theorem emit_dict (o : Out) : (emit o s).dict = s.dict := rfl
@[simp] theorem emit_mbx (o : Out) : (emit o s).mbx = s.mbx := rfl
@[simp] theorem emit_ports (o : Out) : (emit o s).ports = s.ports := rfl
@[simp] theorem emit_time (o : Out) : (emit o s).time = s.time := rfl
@[simp] theorem emit_frer (o : Out) : (emit o s).frer = s.frer := rfl
@[simp] theorem emit_cls (o : Out) : (emit o s).cls = s.cls := rfl
@[simp] theorem emit_tables (o : Out) : (emit o s).tables = s.tables := rfl
@[simp] theorem emit_flow (o : Out) : (emit o s).flow = s.flow := rfl
@[simp] theorem emit_buf (o : Out) : (emit o s).buf = s.buf := rfl
@[simp] theorem emit_sched (o : Out) : (emit o s).sched = s.sched := rfl
@[simp] theorem emit_ep (o : Out) : (emit o s).ep = s.ep := rfl
@[simp] theorem emit_polders (o : Out) : (emit o s).polders = s.polders := rfl
@[simp] theorem emit_wq (o : Out) : (emit o s).wq = s.wq := rfl
@[simp] theorem emit_cipher (o : Out) : (emit o s).cipher = s.cipher := rfl
@[simp] theorem emit_siphon (o : Out) : (emit o s).siphon = s.siphon := rfl
@[simp] theorem emit_jrn (o : Out) : (emit o s).jrn = s.jrn := rfl
@[simp] theorem emit_evt (o : Out) : (emit o s).evt = s.evt := rfl
@[simp] theorem emit_test (o : Out) : (emit o s).test = s.test := rfl
@[simp] theorem emit_culv (o : Out) : (emit o s).culv = s.culv := rfl

end Updates

/-! ### Reads of the record just written -/

section Reads
variable (s : State)

theorem port_setPort (p : Nat) (x : Port) (h : x ≠ Port.reset) : (s.setPort p x).port p = x :=
  Tab.get_set_of_ne _ _ h
theorem queue_setQueue (fn q : Nat) (x : Queue) (h : x ≠ Queue.reset) : (s.setQueue fn q x).queue fn q = x :=
  Tab.get_set_of_ne _ _ h
theorem func_setFunc (n : Nat) (x : Func) (h : x ≠ Func.reset) : (s.setFunc n x).func n = x :=
  Tab.get_set_of_ne _ _ h
theorem queue_setQueue_other (fn q fn' q' : Nat) (x : Queue) (h : qKey fn q ≠ qKey fn' q') :
    (s.setQueue fn q x).queue fn' q' = s.queue fn' q' := Tab.get_set_other _ _ h
theorem port_setPort_other (p p' : Nat) (x : Port) (h : p ≠ p') : (s.setPort p x).port p' = s.port p' :=
  Tab.get_set_other _ _ h
theorem func_setFunc_other (n n' : Nat) (x : Func) (h : n ≠ n') : (s.setFunc n x).func n' = s.func n' :=
  Tab.get_set_other _ _ h

end Reads
end Sys2Proof.Machine
end

