-- ==== Sys2Proof/Laws/Ops.lean ====
section
/-! SUPPORT. What an occurrence, a count, a record in the Dike's log and the passage of time can do: which
fields they change, and that they change nothing else. -/

namespace Sys2Proof.Machine

/-- From `s` to `t` only events, counters of events, INTx, pending MSI-X messages and the output changed. -/
structure Signals (s t : State) : Prop where
  rest : { t with ep := s.ep, evt := s.evt, out := s.out } = s
  ep : { t.ep with inta := s.ep.inta, msix := s.ep.msix } = s.ep
  mask : t.evt.mask = s.evt.mask
  vector : t.evt.vector = s.evt.vector
  freeze : t.evt.freezeAll = s.evt.freezeAll

theorem Signals.refl (s : State) : Signals s s := ⟨rfl, rfl, rfl, rfl, rfl⟩

theorem Signals.trans {s t u : State} (a : Signals s t) (b : Signals t u) : Signals s u := by
  obtain ⟨a1, a2, a3, a4, a5⟩ := a
  obtain ⟨b1, b2, b3, b4, b5⟩ := b
  refine ⟨?_, ?_, b3.trans a3, b4.trans a4, b5.trans a5⟩
  · have h := congrArg (fun x : State => { x with ep := s.ep, evt := s.evt, out := s.out }) b1
    exact h.trans a1
  · have h := congrArg (fun x : Endpoint => { x with inta := s.ep.inta, msix := s.ep.msix }) b2
    exact h.trans a2

theorem Signals.evt {s : State} (f : Events → Events) (h1 : (f s.evt).mask = s.evt.mask)
    (h2 : (f s.evt).vector = s.evt.vector) (h3 : (f s.evt).freezeAll = s.evt.freezeAll) : Signals s (modEvt f s) :=
  ⟨rfl, rfl, h1, h2, h3⟩

/-- A change of event fields after `t`. -/
theorem Signals.of_upd {s t u : State} (h : Signals s t) (h1 : { u with ep := t.ep, evt := t.evt, out := t.out } = t)
    (h2 : { u.ep with inta := t.ep.inta, msix := t.ep.msix } = t.ep) (h3 : u.evt.mask = t.evt.mask)
    (h4 : u.evt.vector = t.evt.vector) (h5 : u.evt.freezeAll = t.evt.freezeAll) : Signals s u :=
  h.trans ⟨h1, h2, h3, h4, h5⟩

theorem signals_emit (o : Out) (s : State) : Signals s (emit o s) := ⟨rfl, rfl, rfl, rfl, rfl⟩

theorem signals_intxEval (s : State) : Signals s (intxEval s) := by
  unfold intxEval
  dsimp only
  split
  · exact Signals.trans (t := modEp (fun e => { e with inta := true }) s) ⟨rfl, rfl, rfl, rfl, rfl⟩ (signals_emit _ _)
  · split
    · exact Signals.trans (t := modEp (fun e => { e with inta := false }) s) ⟨rfl, rfl, rfl, rfl, rfl⟩ (signals_emit _ _)
    · exact Signals.refl s

theorem signals_foldl {α β : Type} {s : State} (l : List α) (f : State × β → α → State × β) (x : State × β)
    (hf : ∀ y a, Signals s y.1 → Signals s (f y a).1) (h : Signals s x.1) : Signals s (l.foldl f x).1 := by
  induction l generalizing x with
  | nil => exact h
  | cons a l ih => exact ih (f x a) (hf x a h)

theorem signals_countDevice {s : State} (ev n : Nat) (port tc polder : Option Nat) (acc : State × List Occ)
    (e : Nat × DevCtr) (h : Signals s acc.1) : Signals s (countDevice ev n port tc polder acc e).1 := by
  unfold countDevice
  dsimp only
  split
  · exact h
  · split
    · exact Signals.of_upd (Signals.of_upd h rfl rfl rfl rfl rfl) rfl rfl rfl rfl rfl
    · exact Signals.of_upd h rfl rfl rfl rfl rfl

theorem signals_countPage {s : State} (fn ev n : Nat) (acc : State × List Occ) (k : Nat) (h : Signals s acc.1) :
    Signals s (countPage fn ev n acc k).1 := by
  unfold countPage
  dsimp only
  split
  · exact h
  · split
    · exact Signals.of_upd h rfl rfl rfl rfl rfl
    · exact h

theorem signals_occurStep (o : Occ) (s : State) : Signals s (occurStep o s).1 := by
  cases o with
  | event n =>
    unfold occurStep
    dsimp only
    split
    · exact Signals.trans (Signals.trans (t := setEvtStat _ _ s) (Signals.evt _ rfl rfl rfl)
        (Signals.evt _ rfl rfl rfl)) (signals_intxEval _)
    · exact Signals.refl s
  | count ev n port tc polder =>
    unfold occurStep
    have h := signals_foldl s.evt.ctrs (countDevice ev n port tc polder) (s, ([] : List Occ))
      (fun y a h => signals_countDevice ev n port tc polder y a h) (Signals.refl s)
    dsimp only
    split
    · exact h
    · exact signals_foldl _ _ _ (fun y a h => signals_countPage _ ev n y a h) h
  | msg fn vec =>
    unfold occurStep
    dsimp only
    split
    · split
      · exact signals_emit _ _
      · exact ⟨rfl, rfl, rfl, rfl, rfl⟩
    · exact Signals.refl s

theorem signals_occur (n : Nat) (l : List Occ) (s : State) : Signals s (occur n l s) := by
  induction n generalizing l s with
  | zero => exact Signals.refl s
  | succ n ih =>
    cases l with
    | nil => exact Signals.refl s
    | cons o rest => exact (signals_occurStep o s).trans (ih _ _)

theorem signals_raise (n : Nat) (s : State) : Signals s (raise n s) := signals_occur _ _ s
theorem signals_countEv (ev n : Nat) (port tc polder : Option Nat) (s : State) :
    Signals s (countEv ev n port tc polder s) := signals_occur _ _ s
theorem signals_signal (fn vec : Nat) (s : State) : Signals s (signal fn vec s) := signals_occur _ _ s
theorem signals_raiseDie (die k : Nat) (s : State) : Signals s (raiseDie die k s) := signals_raise _ s
theorem signals_raiseSlot (slot k : Nat) (s : State) : Signals s (raiseSlot slot k s) := signals_raise _ s
theorem signals_raisePort (port k : Nat) (s : State) : Signals s (raisePort port k s) :=
  Signals.trans (Signals.evt _ rfl rfl rfl) (signals_raiseDie _ k _)
theorem signals_dmaBytesRead (fn n : Nat) (s : State) : Signals s (dmaBytesRead fn n s) := signals_countEv _ _ _ _ _ s

/-- A count in the dictionary's counters changes those, and signals. -/
theorem signals_countQ (idx sub n : Nat) (port tc polder : Option Nat) (s : State) :
    ∃ c, Signals (modDict (fun d => { d with counters := c }) s) (countQ idx sub n port tc polder s) := by
  unfold countQ
  split
  · exact ⟨s.dict.counters, Signals.refl s⟩
  · exact ⟨_, signals_countEv _ _ _ _ _ (bumpObj idx sub n s)⟩

theorem signals_full (x : State) (full first : Bool) :
    ∃ c, Signals (modDict (fun d => { d with counters := c }) x)
      (if first then raise 10 (if full then count 0x1430 5 x else x) else if full then count 0x1430 5 x else x) := by
  obtain ⟨c, h⟩ := signals_countQ 0x1430 5 1 none none none x
  cases full <;> cases first
  · exact ⟨x.dict.counters, Signals.refl x⟩
  · exact ⟨x.dict.counters, signals_raise 10 x⟩
  · exact ⟨c, h⟩
  · exact ⟨c, h.trans (signals_raise 10 _)⟩

/-- A record of the Dike's log changes that log and its counter, and signals. -/
theorem signals_dikeLog (o : Origin) (die cls target : Nat) (s : State) :
    ∃ c l q v, Signals { s with
        dict := { s.dict with counters := c }
        boot := { s.boot with dikeLog := l, dikeSeq := q, dikeOverflowed := v } } (dikeLog o die cls target s) := by
  obtain ⟨c, h⟩ := signals_full { s with boot := { s.boot with
    dikeLog := (if decide (4096 ≤ s.boot.dikeLog.length) then s.boot.dikeLog.drop 1 else s.boot.dikeLog) ++
      [{ time := timeNow s, seq := s.boot.dikeSeq, origin := o.kind, session := o.session, index := o.index,
         sub := o.sub, die := die, cls := cls, target := target }]
    dikeSeq := (s.boot.dikeSeq + 1) % 2 ^ 32
    dikeOverflowed := s.boot.dikeOverflowed || decide (4096 ≤ s.boot.dikeLog.length) } }
    (decide (4096 ≤ s.boot.dikeLog.length)) (decide (4096 ≤ s.boot.dikeLog.length) && !s.boot.dikeOverflowed)
  exact ⟨c, _, _, _, h⟩

/-- Time passes: the clock and the time base advance, clocks are counted, and nothing else changes. -/
theorem signals_advance (t : Nat) (s : State) :
    ∃ n, Signals { s with clock := max s.clock t, time := { s.time with num := n } } (advance t s) := by
  unfold advance
  split
  · rename_i h
    refine ⟨s.time.num + (t - s.clock) * (65536 * ((10 ^ 12 : Int) + s.time.rate).toNat), ?_⟩
    rw [Nat.max_eq_right (Nat.le_of_lt h)]
    exact (signals_countEv _ _ _ _ _ _).trans (signals_countEv _ _ _ _ _ _)
  · rename_i h
    refine ⟨s.time.num, ?_⟩
    rw [Nat.max_eq_left (by omega)]
    exact Signals.refl s

/-! ### The fields that stay -/

section Fields
variable {s t : State}

theorem Signals.pending (h : Signals s t) : t.pending = s.pending := by
  have := congrArg State.pending h.rest; exact this
theorem Signals.clock (h : Signals s t) : t.clock = s.clock := by
  have := congrArg State.clock h.rest; exact this
theorem Signals.freeCtr (h : Signals s t) : t.freeCtr = s.freeCtr := by
  have := congrArg State.freeCtr h.rest; exact this
theorem Signals.nextId (h : Signals s t) : t.nextId = s.nextId := by
  have := congrArg State.nextId h.rest; exact this
theorem Signals.board (h : Signals s t) : t.board = s.board := by
  have := congrArg State.board h.rest; exact this
theorem Signals.boot (h : Signals s t) : t.boot = s.boot := by
  have := congrArg State.boot h.rest; exact this
theorem Signals.dict (h : Signals s t) : t.dict = s.dict := by
  have := congrArg State.dict h.rest; exact this
theorem Signals.mbx (h : Signals s t) : t.mbx = s.mbx := by
  have := congrArg State.mbx h.rest; exact this
theorem Signals.ports (h : Signals s t) : t.ports = s.ports := by
  have := congrArg State.ports h.rest; exact this
theorem Signals.time (h : Signals s t) : t.time = s.time := by
  have := congrArg State.time h.rest; exact this
theorem Signals.frer (h : Signals s t) : t.frer = s.frer := by
  have := congrArg State.frer h.rest; exact this
theorem Signals.cls (h : Signals s t) : t.cls = s.cls := by
  have := congrArg State.cls h.rest; exact this
theorem Signals.tables (h : Signals s t) : t.tables = s.tables := by
  have := congrArg State.tables h.rest; exact this
theorem Signals.flow (h : Signals s t) : t.flow = s.flow := by
  have := congrArg State.flow h.rest; exact this
theorem Signals.buf (h : Signals s t) : t.buf = s.buf := by
  have := congrArg State.buf h.rest; exact this
theorem Signals.sched (h : Signals s t) : t.sched = s.sched := by
  have := congrArg State.sched h.rest; exact this
theorem Signals.polders (h : Signals s t) : t.polders = s.polders := by
  have := congrArg State.polders h.rest; exact this
theorem Signals.wq (h : Signals s t) : t.wq = s.wq := by
  have := congrArg State.wq h.rest; exact this
theorem Signals.cipher (h : Signals s t) : t.cipher = s.cipher := by
  have := congrArg State.cipher h.rest; exact this
theorem Signals.siphon (h : Signals s t) : t.siphon = s.siphon := by
  have := congrArg State.siphon h.rest; exact this
theorem Signals.jrn (h : Signals s t) : t.jrn = s.jrn := by
  have := congrArg State.jrn h.rest; exact this
theorem Signals.test (h : Signals s t) : t.test = s.test := by
  have := congrArg State.test h.rest; exact this
theorem Signals.culv (h : Signals s t) : t.culv = s.culv := by
  have := congrArg State.culv h.rest; exact this
theorem Signals.ep_link (h : Signals s t) : t.ep.link = s.ep.link := by
  have := congrArg Endpoint.link h.ep; exact this
theorem Signals.ep_speed (h : Signals s t) : t.ep.speed = s.ep.speed := by
  have := congrArg Endpoint.speed h.ep; exact this
theorem Signals.ep_width (h : Signals s t) : t.ep.width = s.ep.width := by
  have := congrArg Endpoint.width h.ep; exact this
theorem Signals.ep_flit (h : Signals s t) : t.ep.flit = s.ep.flit := by
  have := congrArg Endpoint.flit h.ep; exact this
theorem Signals.ep_wasUp (h : Signals s t) : t.ep.wasUp = s.ep.wasUp := by
  have := congrArg Endpoint.wasUp h.ep; exact this
theorem Signals.ep_vfEnable (h : Signals s t) : t.ep.vfEnable = s.ep.vfEnable := by
  have := congrArg Endpoint.vfEnable h.ep; exact this
theorem Signals.ep_numVfs (h : Signals s t) : t.ep.numVfs = s.ep.numVfs := by
  have := congrArg Endpoint.numVfs h.ep; exact this
theorem Signals.ep_vfAt (h : Signals s t) : t.ep.vfAt = s.ep.vfAt := by
  have := congrArg Endpoint.vfAt h.ep; exact this
theorem Signals.ep_vfBars (h : Signals s t) : t.ep.vfBars = s.ep.vfBars := by
  have := congrArg Endpoint.vfBars h.ep; exact this
theorem Signals.ep_pageSize (h : Signals s t) : t.ep.pageSize = s.ep.pageSize := by
  have := congrArg Endpoint.pageSize h.ep; exact this
theorem Signals.ep_funcs (h : Signals s t) : t.ep.funcs = s.ep.funcs := by
  have := congrArg Endpoint.funcs h.ep; exact this
theorem Signals.ep_reads (h : Signals s t) : t.ep.reads = s.ep.reads := by
  have := congrArg Endpoint.reads h.ep; exact this
theorem Signals.ep_quarantine (h : Signals s t) : t.ep.quarantine = s.ep.quarantine := by
  have := congrArg Endpoint.quarantine h.ep; exact this
theorem Signals.ep_cached (h : Signals s t) : t.ep.cached = s.ep.cached := by
  have := congrArg Endpoint.cached h.ep; exact this
theorem Signals.ep_asked (h : Signals s t) : t.ep.asked = s.ep.asked := by
  have := congrArg Endpoint.asked h.ep; exact this
theorem Signals.ep_invalidations (h : Signals s t) : t.ep.invalidations = s.ep.invalidations := by
  have := congrArg Endpoint.invalidations h.ep; exact this
theorem Signals.ep_lastInval (h : Signals s t) : t.ep.lastInval = s.ep.lastInval := by
  have := congrArg Endpoint.lastInval h.ep; exact this
theorem Signals.ep_pageReqs (h : Signals s t) : t.ep.pageReqs = s.ep.pageReqs := by
  have := congrArg Endpoint.pageReqs h.ep; exact this
theorem Signals.ep_tag10 (h : Signals s t) : t.ep.tag10 = s.ep.tag10 := by
  have := congrArg Endpoint.tag10 h.ep; exact this
theorem Signals.ep_tag14 (h : Signals s t) : t.ep.tag14 = s.ep.tag14 := by
  have := congrArg Endpoint.tag14 h.ep; exact this

variable (s : State)

@[simp] theorem raise_pending (n : Nat) : (raise n s).pending = s.pending := (signals_raise n s).pending
@[simp] theorem raise_clock (n : Nat) : (raise n s).clock = s.clock := (signals_raise n s).clock
@[simp] theorem raise_freeCtr (n : Nat) : (raise n s).freeCtr = s.freeCtr := (signals_raise n s).freeCtr
@[simp] theorem raise_nextId (n : Nat) : (raise n s).nextId = s.nextId := (signals_raise n s).nextId
@[simp] theorem raise_board (n : Nat) : (raise n s).board = s.board := (signals_raise n s).board
@[simp] theorem raise_boot (n : Nat) : (raise n s).boot = s.boot := (signals_raise n s).boot
@[simp] theorem raise_dict (n : Nat) : (raise n s).dict = s.dict := (signals_raise n s).dict
@[simp] theorem raise_mbx (n : Nat) : (raise n s).mbx = s.mbx := (signals_raise n s).mbx
@[simp] theorem raise_ports (n : Nat) : (raise n s).ports = s.ports := (signals_raise n s).ports
@[simp] theorem raise_time (n : Nat) : (raise n s).time = s.time := (signals_raise n s).time
@[simp] theorem raise_frer (n : Nat) : (raise n s).frer = s.frer := (signals_raise n s).frer
@[simp] theorem raise_cls (n : Nat) : (raise n s).cls = s.cls := (signals_raise n s).cls
@[simp] theorem raise_tables (n : Nat) : (raise n s).tables = s.tables := (signals_raise n s).tables
@[simp] theorem raise_flow (n : Nat) : (raise n s).flow = s.flow := (signals_raise n s).flow
@[simp] theorem raise_buf (n : Nat) : (raise n s).buf = s.buf := (signals_raise n s).buf
@[simp] theorem raise_sched (n : Nat) : (raise n s).sched = s.sched := (signals_raise n s).sched
@[simp] theorem raise_polders (n : Nat) : (raise n s).polders = s.polders := (signals_raise n s).polders
@[simp] theorem raise_wq (n : Nat) : (raise n s).wq = s.wq := (signals_raise n s).wq
@[simp] theorem raise_cipher (n : Nat) : (raise n s).cipher = s.cipher := (signals_raise n s).cipher
@[simp] theorem raise_siphon (n : Nat) : (raise n s).siphon = s.siphon := (signals_raise n s).siphon
@[simp] theorem raise_jrn (n : Nat) : (raise n s).jrn = s.jrn := (signals_raise n s).jrn
@[simp] theorem raise_test (n : Nat) : (raise n s).test = s.test := (signals_raise n s).test
@[simp] theorem raise_culv (n : Nat) : (raise n s).culv = s.culv := (signals_raise n s).culv
@[simp] theorem raise_evt_mask (n : Nat) : (raise n s).evt.mask = s.evt.mask := (signals_raise n s).mask
@[simp] theorem raise_evt_vector (n : Nat) : (raise n s).evt.vector = s.evt.vector := (signals_raise n s).vector
@[simp] theorem raise_ep_link (n : Nat) : (raise n s).ep.link = s.ep.link := (signals_raise n s).ep_link
@[simp] theorem raise_ep_speed (n : Nat) : (raise n s).ep.speed = s.ep.speed := (signals_raise n s).ep_speed
@[simp] theorem raise_ep_width (n : Nat) : (raise n s).ep.width = s.ep.width := (signals_raise n s).ep_width
@[simp] theorem raise_ep_flit (n : Nat) : (raise n s).ep.flit = s.ep.flit := (signals_raise n s).ep_flit
@[simp] theorem raise_ep_wasUp (n : Nat) : (raise n s).ep.wasUp = s.ep.wasUp := (signals_raise n s).ep_wasUp
@[simp] theorem raise_ep_vfEnable (n : Nat) : (raise n s).ep.vfEnable = s.ep.vfEnable := (signals_raise n s).ep_vfEnable
@[simp] theorem raise_ep_numVfs (n : Nat) : (raise n s).ep.numVfs = s.ep.numVfs := (signals_raise n s).ep_numVfs
@[simp] theorem raise_ep_vfAt (n : Nat) : (raise n s).ep.vfAt = s.ep.vfAt := (signals_raise n s).ep_vfAt
@[simp] theorem raise_ep_vfBars (n : Nat) : (raise n s).ep.vfBars = s.ep.vfBars := (signals_raise n s).ep_vfBars
@[simp] theorem raise_ep_pageSize (n : Nat) : (raise n s).ep.pageSize = s.ep.pageSize := (signals_raise n s).ep_pageSize
@[simp] theorem raise_ep_funcs (n : Nat) : (raise n s).ep.funcs = s.ep.funcs := (signals_raise n s).ep_funcs
@[simp] theorem raise_ep_reads (n : Nat) : (raise n s).ep.reads = s.ep.reads := (signals_raise n s).ep_reads
@[simp] theorem raise_ep_quarantine (n : Nat) : (raise n s).ep.quarantine = s.ep.quarantine := (signals_raise n s).ep_quarantine
@[simp] theorem raise_ep_cached (n : Nat) : (raise n s).ep.cached = s.ep.cached := (signals_raise n s).ep_cached
@[simp] theorem raise_ep_asked (n : Nat) : (raise n s).ep.asked = s.ep.asked := (signals_raise n s).ep_asked
@[simp] theorem raise_ep_invalidations (n : Nat) : (raise n s).ep.invalidations = s.ep.invalidations := (signals_raise n s).ep_invalidations
@[simp] theorem raise_ep_lastInval (n : Nat) : (raise n s).ep.lastInval = s.ep.lastInval := (signals_raise n s).ep_lastInval
@[simp] theorem raise_ep_pageReqs (n : Nat) : (raise n s).ep.pageReqs = s.ep.pageReqs := (signals_raise n s).ep_pageReqs
@[simp] theorem raise_ep_tag10 (n : Nat) : (raise n s).ep.tag10 = s.ep.tag10 := (signals_raise n s).ep_tag10
@[simp] theorem raise_ep_tag14 (n : Nat) : (raise n s).ep.tag14 = s.ep.tag14 := (signals_raise n s).ep_tag14

@[simp] theorem countEv_pending (ev n : Nat) (port tc polder : Option Nat) : (countEv ev n port tc polder s).pending = s.pending := (signals_countEv ev n port tc polder s).pending
@[simp] theorem countEv_clock (ev n : Nat) (port tc polder : Option Nat) : (countEv ev n port tc polder s).clock = s.clock := (signals_countEv ev n port tc polder s).clock
@[simp] theorem countEv_freeCtr (ev n : Nat) (port tc polder : Option Nat) : (countEv ev n port tc polder s).freeCtr = s.freeCtr := (signals_countEv ev n port tc polder s).freeCtr
@[simp] theorem countEv_nextId (ev n : Nat) (port tc polder : Option Nat) : (countEv ev n port tc polder s).nextId = s.nextId := (signals_countEv ev n port tc polder s).nextId
@[simp] theorem countEv_board (ev n : Nat) (port tc polder : Option Nat) : (countEv ev n port tc polder s).board = s.board := (signals_countEv ev n port tc polder s).board
@[simp] theorem countEv_boot (ev n : Nat) (port tc polder : Option Nat) : (countEv ev n port tc polder s).boot = s.boot := (signals_countEv ev n port tc polder s).boot
@[simp] theorem countEv_dict (ev n : Nat) (port tc polder : Option Nat) : (countEv ev n port tc polder s).dict = s.dict := (signals_countEv ev n port tc polder s).dict
@[simp] theorem countEv_mbx (ev n : Nat) (port tc polder : Option Nat) : (countEv ev n port tc polder s).mbx = s.mbx := (signals_countEv ev n port tc polder s).mbx
@[simp] theorem countEv_ports (ev n : Nat) (port tc polder : Option Nat) : (countEv ev n port tc polder s).ports = s.ports := (signals_countEv ev n port tc polder s).ports
@[simp] theorem countEv_time (ev n : Nat) (port tc polder : Option Nat) : (countEv ev n port tc polder s).time = s.time := (signals_countEv ev n port tc polder s).time
@[simp] theorem countEv_frer (ev n : Nat) (port tc polder : Option Nat) : (countEv ev n port tc polder s).frer = s.frer := (signals_countEv ev n port tc polder s).frer
@[simp] theorem countEv_cls (ev n : Nat) (port tc polder : Option Nat) : (countEv ev n port tc polder s).cls = s.cls := (signals_countEv ev n port tc polder s).cls
@[simp] theorem countEv_tables (ev n : Nat) (port tc polder : Option Nat) : (countEv ev n port tc polder s).tables = s.tables := (signals_countEv ev n port tc polder s).tables
@[simp] theorem countEv_flow (ev n : Nat) (port tc polder : Option Nat) : (countEv ev n port tc polder s).flow = s.flow := (signals_countEv ev n port tc polder s).flow
@[simp] theorem countEv_buf (ev n : Nat) (port tc polder : Option Nat) : (countEv ev n port tc polder s).buf = s.buf := (signals_countEv ev n port tc polder s).buf
@[simp] theorem countEv_sched (ev n : Nat) (port tc polder : Option Nat) : (countEv ev n port tc polder s).sched = s.sched := (signals_countEv ev n port tc polder s).sched
@[simp] theorem countEv_polders (ev n : Nat) (port tc polder : Option Nat) : (countEv ev n port tc polder s).polders = s.polders := (signals_countEv ev n port tc polder s).polders
@[simp] theorem countEv_wq (ev n : Nat) (port tc polder : Option Nat) : (countEv ev n port tc polder s).wq = s.wq := (signals_countEv ev n port tc polder s).wq
@[simp] theorem countEv_cipher (ev n : Nat) (port tc polder : Option Nat) : (countEv ev n port tc polder s).cipher = s.cipher := (signals_countEv ev n port tc polder s).cipher
@[simp] theorem countEv_siphon (ev n : Nat) (port tc polder : Option Nat) : (countEv ev n port tc polder s).siphon = s.siphon := (signals_countEv ev n port tc polder s).siphon
@[simp] theorem countEv_jrn (ev n : Nat) (port tc polder : Option Nat) : (countEv ev n port tc polder s).jrn = s.jrn := (signals_countEv ev n port tc polder s).jrn
@[simp] theorem countEv_test (ev n : Nat) (port tc polder : Option Nat) : (countEv ev n port tc polder s).test = s.test := (signals_countEv ev n port tc polder s).test
@[simp] theorem countEv_culv (ev n : Nat) (port tc polder : Option Nat) : (countEv ev n port tc polder s).culv = s.culv := (signals_countEv ev n port tc polder s).culv
@[simp] theorem countEv_evt_mask (ev n : Nat) (port tc polder : Option Nat) : (countEv ev n port tc polder s).evt.mask = s.evt.mask := (signals_countEv ev n port tc polder s).mask
@[simp] theorem countEv_evt_vector (ev n : Nat) (port tc polder : Option Nat) : (countEv ev n port tc polder s).evt.vector = s.evt.vector := (signals_countEv ev n port tc polder s).vector
@[simp] theorem countEv_ep_link (ev n : Nat) (port tc polder : Option Nat) : (countEv ev n port tc polder s).ep.link = s.ep.link := (signals_countEv ev n port tc polder s).ep_link
@[simp] theorem countEv_ep_speed (ev n : Nat) (port tc polder : Option Nat) : (countEv ev n port tc polder s).ep.speed = s.ep.speed := (signals_countEv ev n port tc polder s).ep_speed
@[simp] theorem countEv_ep_width (ev n : Nat) (port tc polder : Option Nat) : (countEv ev n port tc polder s).ep.width = s.ep.width := (signals_countEv ev n port tc polder s).ep_width
@[simp] theorem countEv_ep_flit (ev n : Nat) (port tc polder : Option Nat) : (countEv ev n port tc polder s).ep.flit = s.ep.flit := (signals_countEv ev n port tc polder s).ep_flit
@[simp] theorem countEv_ep_wasUp (ev n : Nat) (port tc polder : Option Nat) : (countEv ev n port tc polder s).ep.wasUp = s.ep.wasUp := (signals_countEv ev n port tc polder s).ep_wasUp
@[simp] theorem countEv_ep_vfEnable (ev n : Nat) (port tc polder : Option Nat) : (countEv ev n port tc polder s).ep.vfEnable = s.ep.vfEnable := (signals_countEv ev n port tc polder s).ep_vfEnable
@[simp] theorem countEv_ep_numVfs (ev n : Nat) (port tc polder : Option Nat) : (countEv ev n port tc polder s).ep.numVfs = s.ep.numVfs := (signals_countEv ev n port tc polder s).ep_numVfs
@[simp] theorem countEv_ep_vfAt (ev n : Nat) (port tc polder : Option Nat) : (countEv ev n port tc polder s).ep.vfAt = s.ep.vfAt := (signals_countEv ev n port tc polder s).ep_vfAt
@[simp] theorem countEv_ep_vfBars (ev n : Nat) (port tc polder : Option Nat) : (countEv ev n port tc polder s).ep.vfBars = s.ep.vfBars := (signals_countEv ev n port tc polder s).ep_vfBars
@[simp] theorem countEv_ep_pageSize (ev n : Nat) (port tc polder : Option Nat) : (countEv ev n port tc polder s).ep.pageSize = s.ep.pageSize := (signals_countEv ev n port tc polder s).ep_pageSize
@[simp] theorem countEv_ep_funcs (ev n : Nat) (port tc polder : Option Nat) : (countEv ev n port tc polder s).ep.funcs = s.ep.funcs := (signals_countEv ev n port tc polder s).ep_funcs
@[simp] theorem countEv_ep_reads (ev n : Nat) (port tc polder : Option Nat) : (countEv ev n port tc polder s).ep.reads = s.ep.reads := (signals_countEv ev n port tc polder s).ep_reads
@[simp] theorem countEv_ep_quarantine (ev n : Nat) (port tc polder : Option Nat) : (countEv ev n port tc polder s).ep.quarantine = s.ep.quarantine := (signals_countEv ev n port tc polder s).ep_quarantine
@[simp] theorem countEv_ep_cached (ev n : Nat) (port tc polder : Option Nat) : (countEv ev n port tc polder s).ep.cached = s.ep.cached := (signals_countEv ev n port tc polder s).ep_cached
@[simp] theorem countEv_ep_asked (ev n : Nat) (port tc polder : Option Nat) : (countEv ev n port tc polder s).ep.asked = s.ep.asked := (signals_countEv ev n port tc polder s).ep_asked
@[simp] theorem countEv_ep_invalidations (ev n : Nat) (port tc polder : Option Nat) : (countEv ev n port tc polder s).ep.invalidations = s.ep.invalidations := (signals_countEv ev n port tc polder s).ep_invalidations
@[simp] theorem countEv_ep_lastInval (ev n : Nat) (port tc polder : Option Nat) : (countEv ev n port tc polder s).ep.lastInval = s.ep.lastInval := (signals_countEv ev n port tc polder s).ep_lastInval
@[simp] theorem countEv_ep_pageReqs (ev n : Nat) (port tc polder : Option Nat) : (countEv ev n port tc polder s).ep.pageReqs = s.ep.pageReqs := (signals_countEv ev n port tc polder s).ep_pageReqs
@[simp] theorem countEv_ep_tag10 (ev n : Nat) (port tc polder : Option Nat) : (countEv ev n port tc polder s).ep.tag10 = s.ep.tag10 := (signals_countEv ev n port tc polder s).ep_tag10
@[simp] theorem countEv_ep_tag14 (ev n : Nat) (port tc polder : Option Nat) : (countEv ev n port tc polder s).ep.tag14 = s.ep.tag14 := (signals_countEv ev n port tc polder s).ep_tag14

@[simp] theorem signal_pending (fn vec : Nat) : (signal fn vec s).pending = s.pending := (signals_signal fn vec s).pending
@[simp] theorem signal_clock (fn vec : Nat) : (signal fn vec s).clock = s.clock := (signals_signal fn vec s).clock
@[simp] theorem signal_freeCtr (fn vec : Nat) : (signal fn vec s).freeCtr = s.freeCtr := (signals_signal fn vec s).freeCtr
@[simp] theorem signal_nextId (fn vec : Nat) : (signal fn vec s).nextId = s.nextId := (signals_signal fn vec s).nextId
@[simp] theorem signal_board (fn vec : Nat) : (signal fn vec s).board = s.board := (signals_signal fn vec s).board
@[simp] theorem signal_boot (fn vec : Nat) : (signal fn vec s).boot = s.boot := (signals_signal fn vec s).boot
@[simp] theorem signal_dict (fn vec : Nat) : (signal fn vec s).dict = s.dict := (signals_signal fn vec s).dict
@[simp] theorem signal_mbx (fn vec : Nat) : (signal fn vec s).mbx = s.mbx := (signals_signal fn vec s).mbx
@[simp] theorem signal_ports (fn vec : Nat) : (signal fn vec s).ports = s.ports := (signals_signal fn vec s).ports
@[simp] theorem signal_time (fn vec : Nat) : (signal fn vec s).time = s.time := (signals_signal fn vec s).time
@[simp] theorem signal_frer (fn vec : Nat) : (signal fn vec s).frer = s.frer := (signals_signal fn vec s).frer
@[simp] theorem signal_cls (fn vec : Nat) : (signal fn vec s).cls = s.cls := (signals_signal fn vec s).cls
@[simp] theorem signal_tables (fn vec : Nat) : (signal fn vec s).tables = s.tables := (signals_signal fn vec s).tables
@[simp] theorem signal_flow (fn vec : Nat) : (signal fn vec s).flow = s.flow := (signals_signal fn vec s).flow
@[simp] theorem signal_buf (fn vec : Nat) : (signal fn vec s).buf = s.buf := (signals_signal fn vec s).buf
@[simp] theorem signal_sched (fn vec : Nat) : (signal fn vec s).sched = s.sched := (signals_signal fn vec s).sched
@[simp] theorem signal_polders (fn vec : Nat) : (signal fn vec s).polders = s.polders := (signals_signal fn vec s).polders
@[simp] theorem signal_wq (fn vec : Nat) : (signal fn vec s).wq = s.wq := (signals_signal fn vec s).wq
@[simp] theorem signal_cipher (fn vec : Nat) : (signal fn vec s).cipher = s.cipher := (signals_signal fn vec s).cipher
@[simp] theorem signal_siphon (fn vec : Nat) : (signal fn vec s).siphon = s.siphon := (signals_signal fn vec s).siphon
@[simp] theorem signal_jrn (fn vec : Nat) : (signal fn vec s).jrn = s.jrn := (signals_signal fn vec s).jrn
@[simp] theorem signal_test (fn vec : Nat) : (signal fn vec s).test = s.test := (signals_signal fn vec s).test
@[simp] theorem signal_culv (fn vec : Nat) : (signal fn vec s).culv = s.culv := (signals_signal fn vec s).culv
@[simp] theorem signal_evt_mask (fn vec : Nat) : (signal fn vec s).evt.mask = s.evt.mask := (signals_signal fn vec s).mask
@[simp] theorem signal_evt_vector (fn vec : Nat) : (signal fn vec s).evt.vector = s.evt.vector := (signals_signal fn vec s).vector
@[simp] theorem signal_ep_link (fn vec : Nat) : (signal fn vec s).ep.link = s.ep.link := (signals_signal fn vec s).ep_link
@[simp] theorem signal_ep_speed (fn vec : Nat) : (signal fn vec s).ep.speed = s.ep.speed := (signals_signal fn vec s).ep_speed
@[simp] theorem signal_ep_width (fn vec : Nat) : (signal fn vec s).ep.width = s.ep.width := (signals_signal fn vec s).ep_width
@[simp] theorem signal_ep_flit (fn vec : Nat) : (signal fn vec s).ep.flit = s.ep.flit := (signals_signal fn vec s).ep_flit
@[simp] theorem signal_ep_wasUp (fn vec : Nat) : (signal fn vec s).ep.wasUp = s.ep.wasUp := (signals_signal fn vec s).ep_wasUp
@[simp] theorem signal_ep_vfEnable (fn vec : Nat) : (signal fn vec s).ep.vfEnable = s.ep.vfEnable := (signals_signal fn vec s).ep_vfEnable
@[simp] theorem signal_ep_numVfs (fn vec : Nat) : (signal fn vec s).ep.numVfs = s.ep.numVfs := (signals_signal fn vec s).ep_numVfs
@[simp] theorem signal_ep_vfAt (fn vec : Nat) : (signal fn vec s).ep.vfAt = s.ep.vfAt := (signals_signal fn vec s).ep_vfAt
@[simp] theorem signal_ep_vfBars (fn vec : Nat) : (signal fn vec s).ep.vfBars = s.ep.vfBars := (signals_signal fn vec s).ep_vfBars
@[simp] theorem signal_ep_pageSize (fn vec : Nat) : (signal fn vec s).ep.pageSize = s.ep.pageSize := (signals_signal fn vec s).ep_pageSize
@[simp] theorem signal_ep_funcs (fn vec : Nat) : (signal fn vec s).ep.funcs = s.ep.funcs := (signals_signal fn vec s).ep_funcs
@[simp] theorem signal_ep_reads (fn vec : Nat) : (signal fn vec s).ep.reads = s.ep.reads := (signals_signal fn vec s).ep_reads
@[simp] theorem signal_ep_quarantine (fn vec : Nat) : (signal fn vec s).ep.quarantine = s.ep.quarantine := (signals_signal fn vec s).ep_quarantine
@[simp] theorem signal_ep_cached (fn vec : Nat) : (signal fn vec s).ep.cached = s.ep.cached := (signals_signal fn vec s).ep_cached
@[simp] theorem signal_ep_asked (fn vec : Nat) : (signal fn vec s).ep.asked = s.ep.asked := (signals_signal fn vec s).ep_asked
@[simp] theorem signal_ep_invalidations (fn vec : Nat) : (signal fn vec s).ep.invalidations = s.ep.invalidations := (signals_signal fn vec s).ep_invalidations
@[simp] theorem signal_ep_lastInval (fn vec : Nat) : (signal fn vec s).ep.lastInval = s.ep.lastInval := (signals_signal fn vec s).ep_lastInval
@[simp] theorem signal_ep_pageReqs (fn vec : Nat) : (signal fn vec s).ep.pageReqs = s.ep.pageReqs := (signals_signal fn vec s).ep_pageReqs
@[simp] theorem signal_ep_tag10 (fn vec : Nat) : (signal fn vec s).ep.tag10 = s.ep.tag10 := (signals_signal fn vec s).ep_tag10
@[simp] theorem signal_ep_tag14 (fn vec : Nat) : (signal fn vec s).ep.tag14 = s.ep.tag14 := (signals_signal fn vec s).ep_tag14

@[simp] theorem raiseDie_pending (die k : Nat) : (raiseDie die k s).pending = s.pending := (signals_raiseDie die k s).pending
@[simp] theorem raiseDie_clock (die k : Nat) : (raiseDie die k s).clock = s.clock := (signals_raiseDie die k s).clock
@[simp] theorem raiseDie_freeCtr (die k : Nat) : (raiseDie die k s).freeCtr = s.freeCtr := (signals_raiseDie die k s).freeCtr
@[simp] theorem raiseDie_nextId (die k : Nat) : (raiseDie die k s).nextId = s.nextId := (signals_raiseDie die k s).nextId
@[simp] theorem raiseDie_board (die k : Nat) : (raiseDie die k s).board = s.board := (signals_raiseDie die k s).board
@[simp] theorem raiseDie_boot (die k : Nat) : (raiseDie die k s).boot = s.boot := (signals_raiseDie die k s).boot
@[simp] theorem raiseDie_dict (die k : Nat) : (raiseDie die k s).dict = s.dict := (signals_raiseDie die k s).dict
@[simp] theorem raiseDie_mbx (die k : Nat) : (raiseDie die k s).mbx = s.mbx := (signals_raiseDie die k s).mbx
@[simp] theorem raiseDie_ports (die k : Nat) : (raiseDie die k s).ports = s.ports := (signals_raiseDie die k s).ports
@[simp] theorem raiseDie_time (die k : Nat) : (raiseDie die k s).time = s.time := (signals_raiseDie die k s).time
@[simp] theorem raiseDie_frer (die k : Nat) : (raiseDie die k s).frer = s.frer := (signals_raiseDie die k s).frer
@[simp] theorem raiseDie_cls (die k : Nat) : (raiseDie die k s).cls = s.cls := (signals_raiseDie die k s).cls
@[simp] theorem raiseDie_tables (die k : Nat) : (raiseDie die k s).tables = s.tables := (signals_raiseDie die k s).tables
@[simp] theorem raiseDie_flow (die k : Nat) : (raiseDie die k s).flow = s.flow := (signals_raiseDie die k s).flow
@[simp] theorem raiseDie_buf (die k : Nat) : (raiseDie die k s).buf = s.buf := (signals_raiseDie die k s).buf
@[simp] theorem raiseDie_sched (die k : Nat) : (raiseDie die k s).sched = s.sched := (signals_raiseDie die k s).sched
@[simp] theorem raiseDie_polders (die k : Nat) : (raiseDie die k s).polders = s.polders := (signals_raiseDie die k s).polders
@[simp] theorem raiseDie_wq (die k : Nat) : (raiseDie die k s).wq = s.wq := (signals_raiseDie die k s).wq
@[simp] theorem raiseDie_cipher (die k : Nat) : (raiseDie die k s).cipher = s.cipher := (signals_raiseDie die k s).cipher
@[simp] theorem raiseDie_siphon (die k : Nat) : (raiseDie die k s).siphon = s.siphon := (signals_raiseDie die k s).siphon
@[simp] theorem raiseDie_jrn (die k : Nat) : (raiseDie die k s).jrn = s.jrn := (signals_raiseDie die k s).jrn
@[simp] theorem raiseDie_test (die k : Nat) : (raiseDie die k s).test = s.test := (signals_raiseDie die k s).test
@[simp] theorem raiseDie_culv (die k : Nat) : (raiseDie die k s).culv = s.culv := (signals_raiseDie die k s).culv
@[simp] theorem raiseDie_evt_mask (die k : Nat) : (raiseDie die k s).evt.mask = s.evt.mask := (signals_raiseDie die k s).mask
@[simp] theorem raiseDie_evt_vector (die k : Nat) : (raiseDie die k s).evt.vector = s.evt.vector := (signals_raiseDie die k s).vector
@[simp] theorem raiseDie_ep_link (die k : Nat) : (raiseDie die k s).ep.link = s.ep.link := (signals_raiseDie die k s).ep_link
@[simp] theorem raiseDie_ep_speed (die k : Nat) : (raiseDie die k s).ep.speed = s.ep.speed := (signals_raiseDie die k s).ep_speed
@[simp] theorem raiseDie_ep_width (die k : Nat) : (raiseDie die k s).ep.width = s.ep.width := (signals_raiseDie die k s).ep_width
@[simp] theorem raiseDie_ep_flit (die k : Nat) : (raiseDie die k s).ep.flit = s.ep.flit := (signals_raiseDie die k s).ep_flit
@[simp] theorem raiseDie_ep_wasUp (die k : Nat) : (raiseDie die k s).ep.wasUp = s.ep.wasUp := (signals_raiseDie die k s).ep_wasUp
@[simp] theorem raiseDie_ep_vfEnable (die k : Nat) : (raiseDie die k s).ep.vfEnable = s.ep.vfEnable := (signals_raiseDie die k s).ep_vfEnable
@[simp] theorem raiseDie_ep_numVfs (die k : Nat) : (raiseDie die k s).ep.numVfs = s.ep.numVfs := (signals_raiseDie die k s).ep_numVfs
@[simp] theorem raiseDie_ep_vfAt (die k : Nat) : (raiseDie die k s).ep.vfAt = s.ep.vfAt := (signals_raiseDie die k s).ep_vfAt
@[simp] theorem raiseDie_ep_vfBars (die k : Nat) : (raiseDie die k s).ep.vfBars = s.ep.vfBars := (signals_raiseDie die k s).ep_vfBars
@[simp] theorem raiseDie_ep_pageSize (die k : Nat) : (raiseDie die k s).ep.pageSize = s.ep.pageSize := (signals_raiseDie die k s).ep_pageSize
@[simp] theorem raiseDie_ep_funcs (die k : Nat) : (raiseDie die k s).ep.funcs = s.ep.funcs := (signals_raiseDie die k s).ep_funcs
@[simp] theorem raiseDie_ep_reads (die k : Nat) : (raiseDie die k s).ep.reads = s.ep.reads := (signals_raiseDie die k s).ep_reads
@[simp] theorem raiseDie_ep_quarantine (die k : Nat) : (raiseDie die k s).ep.quarantine = s.ep.quarantine := (signals_raiseDie die k s).ep_quarantine
@[simp] theorem raiseDie_ep_cached (die k : Nat) : (raiseDie die k s).ep.cached = s.ep.cached := (signals_raiseDie die k s).ep_cached
@[simp] theorem raiseDie_ep_asked (die k : Nat) : (raiseDie die k s).ep.asked = s.ep.asked := (signals_raiseDie die k s).ep_asked
@[simp] theorem raiseDie_ep_invalidations (die k : Nat) : (raiseDie die k s).ep.invalidations = s.ep.invalidations := (signals_raiseDie die k s).ep_invalidations
@[simp] theorem raiseDie_ep_lastInval (die k : Nat) : (raiseDie die k s).ep.lastInval = s.ep.lastInval := (signals_raiseDie die k s).ep_lastInval
@[simp] theorem raiseDie_ep_pageReqs (die k : Nat) : (raiseDie die k s).ep.pageReqs = s.ep.pageReqs := (signals_raiseDie die k s).ep_pageReqs
@[simp] theorem raiseDie_ep_tag10 (die k : Nat) : (raiseDie die k s).ep.tag10 = s.ep.tag10 := (signals_raiseDie die k s).ep_tag10
@[simp] theorem raiseDie_ep_tag14 (die k : Nat) : (raiseDie die k s).ep.tag14 = s.ep.tag14 := (signals_raiseDie die k s).ep_tag14

@[simp] theorem raiseSlot_pending (slot k : Nat) : (raiseSlot slot k s).pending = s.pending := (signals_raiseSlot slot k s).pending
@[simp] theorem raiseSlot_clock (slot k : Nat) : (raiseSlot slot k s).clock = s.clock := (signals_raiseSlot slot k s).clock
@[simp] theorem raiseSlot_freeCtr (slot k : Nat) : (raiseSlot slot k s).freeCtr = s.freeCtr := (signals_raiseSlot slot k s).freeCtr
@[simp] theorem raiseSlot_nextId (slot k : Nat) : (raiseSlot slot k s).nextId = s.nextId := (signals_raiseSlot slot k s).nextId
@[simp] theorem raiseSlot_board (slot k : Nat) : (raiseSlot slot k s).board = s.board := (signals_raiseSlot slot k s).board
@[simp] theorem raiseSlot_boot (slot k : Nat) : (raiseSlot slot k s).boot = s.boot := (signals_raiseSlot slot k s).boot
@[simp] theorem raiseSlot_dict (slot k : Nat) : (raiseSlot slot k s).dict = s.dict := (signals_raiseSlot slot k s).dict
@[simp] theorem raiseSlot_mbx (slot k : Nat) : (raiseSlot slot k s).mbx = s.mbx := (signals_raiseSlot slot k s).mbx
@[simp] theorem raiseSlot_ports (slot k : Nat) : (raiseSlot slot k s).ports = s.ports := (signals_raiseSlot slot k s).ports
@[simp] theorem raiseSlot_time (slot k : Nat) : (raiseSlot slot k s).time = s.time := (signals_raiseSlot slot k s).time
@[simp] theorem raiseSlot_frer (slot k : Nat) : (raiseSlot slot k s).frer = s.frer := (signals_raiseSlot slot k s).frer
@[simp] theorem raiseSlot_cls (slot k : Nat) : (raiseSlot slot k s).cls = s.cls := (signals_raiseSlot slot k s).cls
@[simp] theorem raiseSlot_tables (slot k : Nat) : (raiseSlot slot k s).tables = s.tables := (signals_raiseSlot slot k s).tables
@[simp] theorem raiseSlot_flow (slot k : Nat) : (raiseSlot slot k s).flow = s.flow := (signals_raiseSlot slot k s).flow
@[simp] theorem raiseSlot_buf (slot k : Nat) : (raiseSlot slot k s).buf = s.buf := (signals_raiseSlot slot k s).buf
@[simp] theorem raiseSlot_sched (slot k : Nat) : (raiseSlot slot k s).sched = s.sched := (signals_raiseSlot slot k s).sched
@[simp] theorem raiseSlot_polders (slot k : Nat) : (raiseSlot slot k s).polders = s.polders := (signals_raiseSlot slot k s).polders
@[simp] theorem raiseSlot_wq (slot k : Nat) : (raiseSlot slot k s).wq = s.wq := (signals_raiseSlot slot k s).wq
@[simp] theorem raiseSlot_cipher (slot k : Nat) : (raiseSlot slot k s).cipher = s.cipher := (signals_raiseSlot slot k s).cipher
@[simp] theorem raiseSlot_siphon (slot k : Nat) : (raiseSlot slot k s).siphon = s.siphon := (signals_raiseSlot slot k s).siphon
@[simp] theorem raiseSlot_jrn (slot k : Nat) : (raiseSlot slot k s).jrn = s.jrn := (signals_raiseSlot slot k s).jrn
@[simp] theorem raiseSlot_test (slot k : Nat) : (raiseSlot slot k s).test = s.test := (signals_raiseSlot slot k s).test
@[simp] theorem raiseSlot_culv (slot k : Nat) : (raiseSlot slot k s).culv = s.culv := (signals_raiseSlot slot k s).culv
@[simp] theorem raiseSlot_evt_mask (slot k : Nat) : (raiseSlot slot k s).evt.mask = s.evt.mask := (signals_raiseSlot slot k s).mask
@[simp] theorem raiseSlot_evt_vector (slot k : Nat) : (raiseSlot slot k s).evt.vector = s.evt.vector := (signals_raiseSlot slot k s).vector
@[simp] theorem raiseSlot_ep_link (slot k : Nat) : (raiseSlot slot k s).ep.link = s.ep.link := (signals_raiseSlot slot k s).ep_link
@[simp] theorem raiseSlot_ep_speed (slot k : Nat) : (raiseSlot slot k s).ep.speed = s.ep.speed := (signals_raiseSlot slot k s).ep_speed
@[simp] theorem raiseSlot_ep_width (slot k : Nat) : (raiseSlot slot k s).ep.width = s.ep.width := (signals_raiseSlot slot k s).ep_width
@[simp] theorem raiseSlot_ep_flit (slot k : Nat) : (raiseSlot slot k s).ep.flit = s.ep.flit := (signals_raiseSlot slot k s).ep_flit
@[simp] theorem raiseSlot_ep_wasUp (slot k : Nat) : (raiseSlot slot k s).ep.wasUp = s.ep.wasUp := (signals_raiseSlot slot k s).ep_wasUp
@[simp] theorem raiseSlot_ep_vfEnable (slot k : Nat) : (raiseSlot slot k s).ep.vfEnable = s.ep.vfEnable := (signals_raiseSlot slot k s).ep_vfEnable
@[simp] theorem raiseSlot_ep_numVfs (slot k : Nat) : (raiseSlot slot k s).ep.numVfs = s.ep.numVfs := (signals_raiseSlot slot k s).ep_numVfs
@[simp] theorem raiseSlot_ep_vfAt (slot k : Nat) : (raiseSlot slot k s).ep.vfAt = s.ep.vfAt := (signals_raiseSlot slot k s).ep_vfAt
@[simp] theorem raiseSlot_ep_vfBars (slot k : Nat) : (raiseSlot slot k s).ep.vfBars = s.ep.vfBars := (signals_raiseSlot slot k s).ep_vfBars
@[simp] theorem raiseSlot_ep_pageSize (slot k : Nat) : (raiseSlot slot k s).ep.pageSize = s.ep.pageSize := (signals_raiseSlot slot k s).ep_pageSize
@[simp] theorem raiseSlot_ep_funcs (slot k : Nat) : (raiseSlot slot k s).ep.funcs = s.ep.funcs := (signals_raiseSlot slot k s).ep_funcs
@[simp] theorem raiseSlot_ep_reads (slot k : Nat) : (raiseSlot slot k s).ep.reads = s.ep.reads := (signals_raiseSlot slot k s).ep_reads
@[simp] theorem raiseSlot_ep_quarantine (slot k : Nat) : (raiseSlot slot k s).ep.quarantine = s.ep.quarantine := (signals_raiseSlot slot k s).ep_quarantine
@[simp] theorem raiseSlot_ep_cached (slot k : Nat) : (raiseSlot slot k s).ep.cached = s.ep.cached := (signals_raiseSlot slot k s).ep_cached
@[simp] theorem raiseSlot_ep_asked (slot k : Nat) : (raiseSlot slot k s).ep.asked = s.ep.asked := (signals_raiseSlot slot k s).ep_asked
@[simp] theorem raiseSlot_ep_invalidations (slot k : Nat) : (raiseSlot slot k s).ep.invalidations = s.ep.invalidations := (signals_raiseSlot slot k s).ep_invalidations
@[simp] theorem raiseSlot_ep_lastInval (slot k : Nat) : (raiseSlot slot k s).ep.lastInval = s.ep.lastInval := (signals_raiseSlot slot k s).ep_lastInval
@[simp] theorem raiseSlot_ep_pageReqs (slot k : Nat) : (raiseSlot slot k s).ep.pageReqs = s.ep.pageReqs := (signals_raiseSlot slot k s).ep_pageReqs
@[simp] theorem raiseSlot_ep_tag10 (slot k : Nat) : (raiseSlot slot k s).ep.tag10 = s.ep.tag10 := (signals_raiseSlot slot k s).ep_tag10
@[simp] theorem raiseSlot_ep_tag14 (slot k : Nat) : (raiseSlot slot k s).ep.tag14 = s.ep.tag14 := (signals_raiseSlot slot k s).ep_tag14

@[simp] theorem raisePort_pending (port k : Nat) : (raisePort port k s).pending = s.pending := (signals_raisePort port k s).pending
@[simp] theorem raisePort_clock (port k : Nat) : (raisePort port k s).clock = s.clock := (signals_raisePort port k s).clock
@[simp] theorem raisePort_freeCtr (port k : Nat) : (raisePort port k s).freeCtr = s.freeCtr := (signals_raisePort port k s).freeCtr
@[simp] theorem raisePort_nextId (port k : Nat) : (raisePort port k s).nextId = s.nextId := (signals_raisePort port k s).nextId
@[simp] theorem raisePort_board (port k : Nat) : (raisePort port k s).board = s.board := (signals_raisePort port k s).board
@[simp] theorem raisePort_boot (port k : Nat) : (raisePort port k s).boot = s.boot := (signals_raisePort port k s).boot
@[simp] theorem raisePort_dict (port k : Nat) : (raisePort port k s).dict = s.dict := (signals_raisePort port k s).dict
@[simp] theorem raisePort_mbx (port k : Nat) : (raisePort port k s).mbx = s.mbx := (signals_raisePort port k s).mbx
@[simp] theorem raisePort_ports (port k : Nat) : (raisePort port k s).ports = s.ports := (signals_raisePort port k s).ports
@[simp] theorem raisePort_time (port k : Nat) : (raisePort port k s).time = s.time := (signals_raisePort port k s).time
@[simp] theorem raisePort_frer (port k : Nat) : (raisePort port k s).frer = s.frer := (signals_raisePort port k s).frer
@[simp] theorem raisePort_cls (port k : Nat) : (raisePort port k s).cls = s.cls := (signals_raisePort port k s).cls
@[simp] theorem raisePort_tables (port k : Nat) : (raisePort port k s).tables = s.tables := (signals_raisePort port k s).tables
@[simp] theorem raisePort_flow (port k : Nat) : (raisePort port k s).flow = s.flow := (signals_raisePort port k s).flow
@[simp] theorem raisePort_buf (port k : Nat) : (raisePort port k s).buf = s.buf := (signals_raisePort port k s).buf
@[simp] theorem raisePort_sched (port k : Nat) : (raisePort port k s).sched = s.sched := (signals_raisePort port k s).sched
@[simp] theorem raisePort_polders (port k : Nat) : (raisePort port k s).polders = s.polders := (signals_raisePort port k s).polders
@[simp] theorem raisePort_wq (port k : Nat) : (raisePort port k s).wq = s.wq := (signals_raisePort port k s).wq
@[simp] theorem raisePort_cipher (port k : Nat) : (raisePort port k s).cipher = s.cipher := (signals_raisePort port k s).cipher
@[simp] theorem raisePort_siphon (port k : Nat) : (raisePort port k s).siphon = s.siphon := (signals_raisePort port k s).siphon
@[simp] theorem raisePort_jrn (port k : Nat) : (raisePort port k s).jrn = s.jrn := (signals_raisePort port k s).jrn
@[simp] theorem raisePort_test (port k : Nat) : (raisePort port k s).test = s.test := (signals_raisePort port k s).test
@[simp] theorem raisePort_culv (port k : Nat) : (raisePort port k s).culv = s.culv := (signals_raisePort port k s).culv
@[simp] theorem raisePort_evt_mask (port k : Nat) : (raisePort port k s).evt.mask = s.evt.mask := (signals_raisePort port k s).mask
@[simp] theorem raisePort_evt_vector (port k : Nat) : (raisePort port k s).evt.vector = s.evt.vector := (signals_raisePort port k s).vector
@[simp] theorem raisePort_ep_link (port k : Nat) : (raisePort port k s).ep.link = s.ep.link := (signals_raisePort port k s).ep_link
@[simp] theorem raisePort_ep_speed (port k : Nat) : (raisePort port k s).ep.speed = s.ep.speed := (signals_raisePort port k s).ep_speed
@[simp] theorem raisePort_ep_width (port k : Nat) : (raisePort port k s).ep.width = s.ep.width := (signals_raisePort port k s).ep_width
@[simp] theorem raisePort_ep_flit (port k : Nat) : (raisePort port k s).ep.flit = s.ep.flit := (signals_raisePort port k s).ep_flit
@[simp] theorem raisePort_ep_wasUp (port k : Nat) : (raisePort port k s).ep.wasUp = s.ep.wasUp := (signals_raisePort port k s).ep_wasUp
@[simp] theorem raisePort_ep_vfEnable (port k : Nat) : (raisePort port k s).ep.vfEnable = s.ep.vfEnable := (signals_raisePort port k s).ep_vfEnable
@[simp] theorem raisePort_ep_numVfs (port k : Nat) : (raisePort port k s).ep.numVfs = s.ep.numVfs := (signals_raisePort port k s).ep_numVfs
@[simp] theorem raisePort_ep_vfAt (port k : Nat) : (raisePort port k s).ep.vfAt = s.ep.vfAt := (signals_raisePort port k s).ep_vfAt
@[simp] theorem raisePort_ep_vfBars (port k : Nat) : (raisePort port k s).ep.vfBars = s.ep.vfBars := (signals_raisePort port k s).ep_vfBars
@[simp] theorem raisePort_ep_pageSize (port k : Nat) : (raisePort port k s).ep.pageSize = s.ep.pageSize := (signals_raisePort port k s).ep_pageSize
@[simp] theorem raisePort_ep_funcs (port k : Nat) : (raisePort port k s).ep.funcs = s.ep.funcs := (signals_raisePort port k s).ep_funcs
@[simp] theorem raisePort_ep_reads (port k : Nat) : (raisePort port k s).ep.reads = s.ep.reads := (signals_raisePort port k s).ep_reads
@[simp] theorem raisePort_ep_quarantine (port k : Nat) : (raisePort port k s).ep.quarantine = s.ep.quarantine := (signals_raisePort port k s).ep_quarantine
@[simp] theorem raisePort_ep_cached (port k : Nat) : (raisePort port k s).ep.cached = s.ep.cached := (signals_raisePort port k s).ep_cached
@[simp] theorem raisePort_ep_asked (port k : Nat) : (raisePort port k s).ep.asked = s.ep.asked := (signals_raisePort port k s).ep_asked
@[simp] theorem raisePort_ep_invalidations (port k : Nat) : (raisePort port k s).ep.invalidations = s.ep.invalidations := (signals_raisePort port k s).ep_invalidations
@[simp] theorem raisePort_ep_lastInval (port k : Nat) : (raisePort port k s).ep.lastInval = s.ep.lastInval := (signals_raisePort port k s).ep_lastInval
@[simp] theorem raisePort_ep_pageReqs (port k : Nat) : (raisePort port k s).ep.pageReqs = s.ep.pageReqs := (signals_raisePort port k s).ep_pageReqs
@[simp] theorem raisePort_ep_tag10 (port k : Nat) : (raisePort port k s).ep.tag10 = s.ep.tag10 := (signals_raisePort port k s).ep_tag10
@[simp] theorem raisePort_ep_tag14 (port k : Nat) : (raisePort port k s).ep.tag14 = s.ep.tag14 := (signals_raisePort port k s).ep_tag14

@[simp] theorem dmaBytesRead_pending (fn n : Nat) : (dmaBytesRead fn n s).pending = s.pending := (signals_dmaBytesRead fn n s).pending
@[simp] theorem dmaBytesRead_clock (fn n : Nat) : (dmaBytesRead fn n s).clock = s.clock := (signals_dmaBytesRead fn n s).clock
@[simp] theorem dmaBytesRead_freeCtr (fn n : Nat) : (dmaBytesRead fn n s).freeCtr = s.freeCtr := (signals_dmaBytesRead fn n s).freeCtr
@[simp] theorem dmaBytesRead_nextId (fn n : Nat) : (dmaBytesRead fn n s).nextId = s.nextId := (signals_dmaBytesRead fn n s).nextId
@[simp] theorem dmaBytesRead_board (fn n : Nat) : (dmaBytesRead fn n s).board = s.board := (signals_dmaBytesRead fn n s).board
@[simp] theorem dmaBytesRead_boot (fn n : Nat) : (dmaBytesRead fn n s).boot = s.boot := (signals_dmaBytesRead fn n s).boot
@[simp] theorem dmaBytesRead_dict (fn n : Nat) : (dmaBytesRead fn n s).dict = s.dict := (signals_dmaBytesRead fn n s).dict
@[simp] theorem dmaBytesRead_mbx (fn n : Nat) : (dmaBytesRead fn n s).mbx = s.mbx := (signals_dmaBytesRead fn n s).mbx
@[simp] theorem dmaBytesRead_ports (fn n : Nat) : (dmaBytesRead fn n s).ports = s.ports := (signals_dmaBytesRead fn n s).ports
@[simp] theorem dmaBytesRead_time (fn n : Nat) : (dmaBytesRead fn n s).time = s.time := (signals_dmaBytesRead fn n s).time
@[simp] theorem dmaBytesRead_frer (fn n : Nat) : (dmaBytesRead fn n s).frer = s.frer := (signals_dmaBytesRead fn n s).frer
@[simp] theorem dmaBytesRead_cls (fn n : Nat) : (dmaBytesRead fn n s).cls = s.cls := (signals_dmaBytesRead fn n s).cls
@[simp] theorem dmaBytesRead_tables (fn n : Nat) : (dmaBytesRead fn n s).tables = s.tables := (signals_dmaBytesRead fn n s).tables
@[simp] theorem dmaBytesRead_flow (fn n : Nat) : (dmaBytesRead fn n s).flow = s.flow := (signals_dmaBytesRead fn n s).flow
@[simp] theorem dmaBytesRead_buf (fn n : Nat) : (dmaBytesRead fn n s).buf = s.buf := (signals_dmaBytesRead fn n s).buf
@[simp] theorem dmaBytesRead_sched (fn n : Nat) : (dmaBytesRead fn n s).sched = s.sched := (signals_dmaBytesRead fn n s).sched
@[simp] theorem dmaBytesRead_polders (fn n : Nat) : (dmaBytesRead fn n s).polders = s.polders := (signals_dmaBytesRead fn n s).polders
@[simp] theorem dmaBytesRead_wq (fn n : Nat) : (dmaBytesRead fn n s).wq = s.wq := (signals_dmaBytesRead fn n s).wq
@[simp] theorem dmaBytesRead_cipher (fn n : Nat) : (dmaBytesRead fn n s).cipher = s.cipher := (signals_dmaBytesRead fn n s).cipher
@[simp] theorem dmaBytesRead_siphon (fn n : Nat) : (dmaBytesRead fn n s).siphon = s.siphon := (signals_dmaBytesRead fn n s).siphon
@[simp] theorem dmaBytesRead_jrn (fn n : Nat) : (dmaBytesRead fn n s).jrn = s.jrn := (signals_dmaBytesRead fn n s).jrn
@[simp] theorem dmaBytesRead_test (fn n : Nat) : (dmaBytesRead fn n s).test = s.test := (signals_dmaBytesRead fn n s).test
@[simp] theorem dmaBytesRead_culv (fn n : Nat) : (dmaBytesRead fn n s).culv = s.culv := (signals_dmaBytesRead fn n s).culv
@[simp] theorem dmaBytesRead_evt_mask (fn n : Nat) : (dmaBytesRead fn n s).evt.mask = s.evt.mask := (signals_dmaBytesRead fn n s).mask
@[simp] theorem dmaBytesRead_evt_vector (fn n : Nat) : (dmaBytesRead fn n s).evt.vector = s.evt.vector := (signals_dmaBytesRead fn n s).vector
@[simp] theorem dmaBytesRead_ep_link (fn n : Nat) : (dmaBytesRead fn n s).ep.link = s.ep.link := (signals_dmaBytesRead fn n s).ep_link
@[simp] theorem dmaBytesRead_ep_speed (fn n : Nat) : (dmaBytesRead fn n s).ep.speed = s.ep.speed := (signals_dmaBytesRead fn n s).ep_speed
@[simp] theorem dmaBytesRead_ep_width (fn n : Nat) : (dmaBytesRead fn n s).ep.width = s.ep.width := (signals_dmaBytesRead fn n s).ep_width
@[simp] theorem dmaBytesRead_ep_flit (fn n : Nat) : (dmaBytesRead fn n s).ep.flit = s.ep.flit := (signals_dmaBytesRead fn n s).ep_flit
@[simp] theorem dmaBytesRead_ep_wasUp (fn n : Nat) : (dmaBytesRead fn n s).ep.wasUp = s.ep.wasUp := (signals_dmaBytesRead fn n s).ep_wasUp
@[simp] theorem dmaBytesRead_ep_vfEnable (fn n : Nat) : (dmaBytesRead fn n s).ep.vfEnable = s.ep.vfEnable := (signals_dmaBytesRead fn n s).ep_vfEnable
@[simp] theorem dmaBytesRead_ep_numVfs (fn n : Nat) : (dmaBytesRead fn n s).ep.numVfs = s.ep.numVfs := (signals_dmaBytesRead fn n s).ep_numVfs
@[simp] theorem dmaBytesRead_ep_vfAt (fn n : Nat) : (dmaBytesRead fn n s).ep.vfAt = s.ep.vfAt := (signals_dmaBytesRead fn n s).ep_vfAt
@[simp] theorem dmaBytesRead_ep_vfBars (fn n : Nat) : (dmaBytesRead fn n s).ep.vfBars = s.ep.vfBars := (signals_dmaBytesRead fn n s).ep_vfBars
@[simp] theorem dmaBytesRead_ep_pageSize (fn n : Nat) : (dmaBytesRead fn n s).ep.pageSize = s.ep.pageSize := (signals_dmaBytesRead fn n s).ep_pageSize
@[simp] theorem dmaBytesRead_ep_funcs (fn n : Nat) : (dmaBytesRead fn n s).ep.funcs = s.ep.funcs := (signals_dmaBytesRead fn n s).ep_funcs
@[simp] theorem dmaBytesRead_ep_reads (fn n : Nat) : (dmaBytesRead fn n s).ep.reads = s.ep.reads := (signals_dmaBytesRead fn n s).ep_reads
@[simp] theorem dmaBytesRead_ep_quarantine (fn n : Nat) : (dmaBytesRead fn n s).ep.quarantine = s.ep.quarantine := (signals_dmaBytesRead fn n s).ep_quarantine
@[simp] theorem dmaBytesRead_ep_cached (fn n : Nat) : (dmaBytesRead fn n s).ep.cached = s.ep.cached := (signals_dmaBytesRead fn n s).ep_cached
@[simp] theorem dmaBytesRead_ep_asked (fn n : Nat) : (dmaBytesRead fn n s).ep.asked = s.ep.asked := (signals_dmaBytesRead fn n s).ep_asked
@[simp] theorem dmaBytesRead_ep_invalidations (fn n : Nat) : (dmaBytesRead fn n s).ep.invalidations = s.ep.invalidations := (signals_dmaBytesRead fn n s).ep_invalidations
@[simp] theorem dmaBytesRead_ep_lastInval (fn n : Nat) : (dmaBytesRead fn n s).ep.lastInval = s.ep.lastInval := (signals_dmaBytesRead fn n s).ep_lastInval
@[simp] theorem dmaBytesRead_ep_pageReqs (fn n : Nat) : (dmaBytesRead fn n s).ep.pageReqs = s.ep.pageReqs := (signals_dmaBytesRead fn n s).ep_pageReqs
@[simp] theorem dmaBytesRead_ep_tag10 (fn n : Nat) : (dmaBytesRead fn n s).ep.tag10 = s.ep.tag10 := (signals_dmaBytesRead fn n s).ep_tag10
@[simp] theorem dmaBytesRead_ep_tag14 (fn n : Nat) : (dmaBytesRead fn n s).ep.tag14 = s.ep.tag14 := (signals_dmaBytesRead fn n s).ep_tag14

@[simp] theorem intxEval_pending : (intxEval s).pending = s.pending := (signals_intxEval s).pending
@[simp] theorem intxEval_clock : (intxEval s).clock = s.clock := (signals_intxEval s).clock
@[simp] theorem intxEval_freeCtr : (intxEval s).freeCtr = s.freeCtr := (signals_intxEval s).freeCtr
@[simp] theorem intxEval_nextId : (intxEval s).nextId = s.nextId := (signals_intxEval s).nextId
@[simp] theorem intxEval_board : (intxEval s).board = s.board := (signals_intxEval s).board
@[simp] theorem intxEval_boot : (intxEval s).boot = s.boot := (signals_intxEval s).boot
@[simp] theorem intxEval_dict : (intxEval s).dict = s.dict := (signals_intxEval s).dict
@[simp] theorem intxEval_mbx : (intxEval s).mbx = s.mbx := (signals_intxEval s).mbx
@[simp] theorem intxEval_ports : (intxEval s).ports = s.ports := (signals_intxEval s).ports
@[simp] theorem intxEval_time : (intxEval s).time = s.time := (signals_intxEval s).time
@[simp] theorem intxEval_frer : (intxEval s).frer = s.frer := (signals_intxEval s).frer
@[simp] theorem intxEval_cls : (intxEval s).cls = s.cls := (signals_intxEval s).cls
@[simp] theorem intxEval_tables : (intxEval s).tables = s.tables := (signals_intxEval s).tables
@[simp] theorem intxEval_flow : (intxEval s).flow = s.flow := (signals_intxEval s).flow
@[simp] theorem intxEval_buf : (intxEval s).buf = s.buf := (signals_intxEval s).buf
@[simp] theorem intxEval_sched : (intxEval s).sched = s.sched := (signals_intxEval s).sched
@[simp] theorem intxEval_polders : (intxEval s).polders = s.polders := (signals_intxEval s).polders
@[simp] theorem intxEval_wq : (intxEval s).wq = s.wq := (signals_intxEval s).wq
@[simp] theorem intxEval_cipher : (intxEval s).cipher = s.cipher := (signals_intxEval s).cipher
@[simp] theorem intxEval_siphon : (intxEval s).siphon = s.siphon := (signals_intxEval s).siphon
@[simp] theorem intxEval_jrn : (intxEval s).jrn = s.jrn := (signals_intxEval s).jrn
@[simp] theorem intxEval_test : (intxEval s).test = s.test := (signals_intxEval s).test
@[simp] theorem intxEval_culv : (intxEval s).culv = s.culv := (signals_intxEval s).culv
@[simp] theorem intxEval_evt_mask : (intxEval s).evt.mask = s.evt.mask := (signals_intxEval s).mask
@[simp] theorem intxEval_evt_vector : (intxEval s).evt.vector = s.evt.vector := (signals_intxEval s).vector
@[simp] theorem intxEval_ep_link : (intxEval s).ep.link = s.ep.link := (signals_intxEval s).ep_link
@[simp] theorem intxEval_ep_speed : (intxEval s).ep.speed = s.ep.speed := (signals_intxEval s).ep_speed
@[simp] theorem intxEval_ep_width : (intxEval s).ep.width = s.ep.width := (signals_intxEval s).ep_width
@[simp] theorem intxEval_ep_flit : (intxEval s).ep.flit = s.ep.flit := (signals_intxEval s).ep_flit
@[simp] theorem intxEval_ep_wasUp : (intxEval s).ep.wasUp = s.ep.wasUp := (signals_intxEval s).ep_wasUp
@[simp] theorem intxEval_ep_vfEnable : (intxEval s).ep.vfEnable = s.ep.vfEnable := (signals_intxEval s).ep_vfEnable
@[simp] theorem intxEval_ep_numVfs : (intxEval s).ep.numVfs = s.ep.numVfs := (signals_intxEval s).ep_numVfs
@[simp] theorem intxEval_ep_vfAt : (intxEval s).ep.vfAt = s.ep.vfAt := (signals_intxEval s).ep_vfAt
@[simp] theorem intxEval_ep_vfBars : (intxEval s).ep.vfBars = s.ep.vfBars := (signals_intxEval s).ep_vfBars
@[simp] theorem intxEval_ep_pageSize : (intxEval s).ep.pageSize = s.ep.pageSize := (signals_intxEval s).ep_pageSize
@[simp] theorem intxEval_ep_funcs : (intxEval s).ep.funcs = s.ep.funcs := (signals_intxEval s).ep_funcs
@[simp] theorem intxEval_ep_reads : (intxEval s).ep.reads = s.ep.reads := (signals_intxEval s).ep_reads
@[simp] theorem intxEval_ep_quarantine : (intxEval s).ep.quarantine = s.ep.quarantine := (signals_intxEval s).ep_quarantine
@[simp] theorem intxEval_ep_cached : (intxEval s).ep.cached = s.ep.cached := (signals_intxEval s).ep_cached
@[simp] theorem intxEval_ep_asked : (intxEval s).ep.asked = s.ep.asked := (signals_intxEval s).ep_asked
@[simp] theorem intxEval_ep_invalidations : (intxEval s).ep.invalidations = s.ep.invalidations := (signals_intxEval s).ep_invalidations
@[simp] theorem intxEval_ep_lastInval : (intxEval s).ep.lastInval = s.ep.lastInval := (signals_intxEval s).ep_lastInval
@[simp] theorem intxEval_ep_pageReqs : (intxEval s).ep.pageReqs = s.ep.pageReqs := (signals_intxEval s).ep_pageReqs
@[simp] theorem intxEval_ep_tag10 : (intxEval s).ep.tag10 = s.ep.tag10 := (signals_intxEval s).ep_tag10
@[simp] theorem intxEval_ep_tag14 : (intxEval s).ep.tag14 = s.ep.tag14 := (signals_intxEval s).ep_tag14

@[simp] theorem countQ_pending (idx sub n : Nat) (port tc polder : Option Nat) : (countQ idx sub n port tc polder s).pending = s.pending := (signals_countQ idx sub n port tc polder s).elim fun _ h => h.pending
@[simp] theorem countQ_clock (idx sub n : Nat) (port tc polder : Option Nat) : (countQ idx sub n port tc polder s).clock = s.clock := (signals_countQ idx sub n port tc polder s).elim fun _ h => h.clock
@[simp] theorem countQ_freeCtr (idx sub n : Nat) (port tc polder : Option Nat) : (countQ idx sub n port tc polder s).freeCtr = s.freeCtr := (signals_countQ idx sub n port tc polder s).elim fun _ h => h.freeCtr
@[simp] theorem countQ_nextId (idx sub n : Nat) (port tc polder : Option Nat) : (countQ idx sub n port tc polder s).nextId = s.nextId := (signals_countQ idx sub n port tc polder s).elim fun _ h => h.nextId
@[simp] theorem countQ_board (idx sub n : Nat) (port tc polder : Option Nat) : (countQ idx sub n port tc polder s).board = s.board := (signals_countQ idx sub n port tc polder s).elim fun _ h => h.board
@[simp] theorem countQ_boot (idx sub n : Nat) (port tc polder : Option Nat) : (countQ idx sub n port tc polder s).boot = s.boot := (signals_countQ idx sub n port tc polder s).elim fun _ h => h.boot
@[simp] theorem countQ_mbx (idx sub n : Nat) (port tc polder : Option Nat) : (countQ idx sub n port tc polder s).mbx = s.mbx := (signals_countQ idx sub n port tc polder s).elim fun _ h => h.mbx
@[simp] theorem countQ_ports (idx sub n : Nat) (port tc polder : Option Nat) : (countQ idx sub n port tc polder s).ports = s.ports := (signals_countQ idx sub n port tc polder s).elim fun _ h => h.ports
@[simp] theorem countQ_time (idx sub n : Nat) (port tc polder : Option Nat) : (countQ idx sub n port tc polder s).time = s.time := (signals_countQ idx sub n port tc polder s).elim fun _ h => h.time
@[simp] theorem countQ_frer (idx sub n : Nat) (port tc polder : Option Nat) : (countQ idx sub n port tc polder s).frer = s.frer := (signals_countQ idx sub n port tc polder s).elim fun _ h => h.frer
@[simp] theorem countQ_cls (idx sub n : Nat) (port tc polder : Option Nat) : (countQ idx sub n port tc polder s).cls = s.cls := (signals_countQ idx sub n port tc polder s).elim fun _ h => h.cls
@[simp] theorem countQ_tables (idx sub n : Nat) (port tc polder : Option Nat) : (countQ idx sub n port tc polder s).tables = s.tables := (signals_countQ idx sub n port tc polder s).elim fun _ h => h.tables
@[simp] theorem countQ_flow (idx sub n : Nat) (port tc polder : Option Nat) : (countQ idx sub n port tc polder s).flow = s.flow := (signals_countQ idx sub n port tc polder s).elim fun _ h => h.flow
@[simp] theorem countQ_buf (idx sub n : Nat) (port tc polder : Option Nat) : (countQ idx sub n port tc polder s).buf = s.buf := (signals_countQ idx sub n port tc polder s).elim fun _ h => h.buf
@[simp] theorem countQ_sched (idx sub n : Nat) (port tc polder : Option Nat) : (countQ idx sub n port tc polder s).sched = s.sched := (signals_countQ idx sub n port tc polder s).elim fun _ h => h.sched
@[simp] theorem countQ_polders (idx sub n : Nat) (port tc polder : Option Nat) : (countQ idx sub n port tc polder s).polders = s.polders := (signals_countQ idx sub n port tc polder s).elim fun _ h => h.polders
@[simp] theorem countQ_wq (idx sub n : Nat) (port tc polder : Option Nat) : (countQ idx sub n port tc polder s).wq = s.wq := (signals_countQ idx sub n port tc polder s).elim fun _ h => h.wq
@[simp] theorem countQ_cipher (idx sub n : Nat) (port tc polder : Option Nat) : (countQ idx sub n port tc polder s).cipher = s.cipher := (signals_countQ idx sub n port tc polder s).elim fun _ h => h.cipher
@[simp] theorem countQ_siphon (idx sub n : Nat) (port tc polder : Option Nat) : (countQ idx sub n port tc polder s).siphon = s.siphon := (signals_countQ idx sub n port tc polder s).elim fun _ h => h.siphon
@[simp] theorem countQ_jrn (idx sub n : Nat) (port tc polder : Option Nat) : (countQ idx sub n port tc polder s).jrn = s.jrn := (signals_countQ idx sub n port tc polder s).elim fun _ h => h.jrn
@[simp] theorem countQ_test (idx sub n : Nat) (port tc polder : Option Nat) : (countQ idx sub n port tc polder s).test = s.test := (signals_countQ idx sub n port tc polder s).elim fun _ h => h.test
@[simp] theorem countQ_culv (idx sub n : Nat) (port tc polder : Option Nat) : (countQ idx sub n port tc polder s).culv = s.culv := (signals_countQ idx sub n port tc polder s).elim fun _ h => h.culv
@[simp] theorem countQ_dict_vals (idx sub n : Nat) (port tc polder : Option Nat) : (countQ idx sub n port tc polder s).dict.vals = s.dict.vals := (signals_countQ idx sub n port tc polder s).elim fun _ h => (congrArg Dict.vals h.dict).trans rfl
@[simp] theorem countQ_dict_storeStatus (idx sub n : Nat) (port tc polder : Option Nat) : (countQ idx sub n port tc polder s).dict.storeStatus = s.dict.storeStatus := (signals_countQ idx sub n port tc polder s).elim fun _ h => (congrArg Dict.storeStatus h.dict).trans rfl
@[simp] theorem countQ_dict_storing (idx sub n : Nat) (port tc polder : Option Nat) : (countQ idx sub n port tc polder s).dict.storing = s.dict.storing := (signals_countQ idx sub n port tc polder s).elim fun _ h => (congrArg Dict.storing h.dict).trans rfl
@[simp] theorem countQ_dict_epoch (idx sub n : Nat) (port tc polder : Option Nat) : (countQ idx sub n port tc polder s).dict.epoch = s.dict.epoch := (signals_countQ idx sub n port tc polder s).elim fun _ h => (congrArg Dict.epoch h.dict).trans rfl
@[simp] theorem countQ_dict_wraps (idx sub n : Nat) (port tc polder : Option Nat) : (countQ idx sub n port tc polder s).dict.wraps = s.dict.wraps := (signals_countQ idx sub n port tc polder s).elim fun _ h => (congrArg Dict.wraps h.dict).trans rfl
@[simp] theorem countQ_dict_epochStored (idx sub n : Nat) (port tc polder : Option Nat) : (countQ idx sub n port tc polder s).dict.epochStored = s.dict.epochStored := (signals_countQ idx sub n port tc polder s).elim fun _ h => (congrArg Dict.epochStored h.dict).trans rfl
@[simp] theorem countQ_dict_fdpOpen (idx sub n : Nat) (port tc polder : Option Nat) : (countQ idx sub n port tc polder s).dict.fdpOpen = s.dict.fdpOpen := (signals_countQ idx sub n port tc polder s).elim fun _ h => (congrArg Dict.fdpOpen h.dict).trans rfl
@[simp] theorem countQ_dict_sessions (idx sub n : Nat) (port tc polder : Option Nat) : (countQ idx sub n port tc polder s).dict.sessions = s.dict.sessions := (signals_countQ idx sub n port tc polder s).elim fun _ h => (congrArg Dict.sessions h.dict).trans rfl
@[simp] theorem countQ_dict_mbxVendor (idx sub n : Nat) (port tc polder : Option Nat) : (countQ idx sub n port tc polder s).dict.mbxVendor = s.dict.mbxVendor := (signals_countQ idx sub n port tc polder s).elim fun _ h => (congrArg Dict.mbxVendor h.dict).trans rfl
@[simp] theorem countQ_dict_acts (idx sub n : Nat) (port tc polder : Option Nat) : (countQ idx sub n port tc polder s).dict.acts = s.dict.acts := (signals_countQ idx sub n port tc polder s).elim fun _ h => (congrArg Dict.acts h.dict).trans rfl
@[simp] theorem countQ_dict_snaps (idx sub n : Nat) (port tc polder : Option Nat) : (countQ idx sub n port tc polder s).dict.snaps = s.dict.snaps := (signals_countQ idx sub n port tc polder s).elim fun _ h => (congrArg Dict.snaps h.dict).trans rfl
@[simp] theorem countQ_dict_stagings (idx sub n : Nat) (port tc polder : Option Nat) : (countQ idx sub n port tc polder s).dict.stagings = s.dict.stagings := (signals_countQ idx sub n port tc polder s).elim fun _ h => (congrArg Dict.stagings h.dict).trans rfl
@[simp] theorem countQ_dict_subs (idx sub n : Nat) (port tc polder : Option Nat) : (countQ idx sub n port tc polder s).dict.subs = s.dict.subs := (signals_countQ idx sub n port tc polder s).elim fun _ h => (congrArg Dict.subs h.dict).trans rfl
@[simp] theorem countQ_dict_outbox (idx sub n : Nat) (port tc polder : Option Nat) : (countQ idx sub n port tc polder s).dict.outbox = s.dict.outbox := (signals_countQ idx sub n port tc polder s).elim fun _ h => (congrArg Dict.outbox h.dict).trans rfl
@[simp] theorem countQ_ep_link (idx sub n : Nat) (port tc polder : Option Nat) : (countQ idx sub n port tc polder s).ep.link = s.ep.link := (signals_countQ idx sub n port tc polder s).elim fun _ h => h.ep_link
@[simp] theorem countQ_ep_speed (idx sub n : Nat) (port tc polder : Option Nat) : (countQ idx sub n port tc polder s).ep.speed = s.ep.speed := (signals_countQ idx sub n port tc polder s).elim fun _ h => h.ep_speed
@[simp] theorem countQ_ep_width (idx sub n : Nat) (port tc polder : Option Nat) : (countQ idx sub n port tc polder s).ep.width = s.ep.width := (signals_countQ idx sub n port tc polder s).elim fun _ h => h.ep_width
@[simp] theorem countQ_ep_flit (idx sub n : Nat) (port tc polder : Option Nat) : (countQ idx sub n port tc polder s).ep.flit = s.ep.flit := (signals_countQ idx sub n port tc polder s).elim fun _ h => h.ep_flit
@[simp] theorem countQ_ep_wasUp (idx sub n : Nat) (port tc polder : Option Nat) : (countQ idx sub n port tc polder s).ep.wasUp = s.ep.wasUp := (signals_countQ idx sub n port tc polder s).elim fun _ h => h.ep_wasUp
@[simp] theorem countQ_ep_vfEnable (idx sub n : Nat) (port tc polder : Option Nat) : (countQ idx sub n port tc polder s).ep.vfEnable = s.ep.vfEnable := (signals_countQ idx sub n port tc polder s).elim fun _ h => h.ep_vfEnable
@[simp] theorem countQ_ep_numVfs (idx sub n : Nat) (port tc polder : Option Nat) : (countQ idx sub n port tc polder s).ep.numVfs = s.ep.numVfs := (signals_countQ idx sub n port tc polder s).elim fun _ h => h.ep_numVfs
@[simp] theorem countQ_ep_vfAt (idx sub n : Nat) (port tc polder : Option Nat) : (countQ idx sub n port tc polder s).ep.vfAt = s.ep.vfAt := (signals_countQ idx sub n port tc polder s).elim fun _ h => h.ep_vfAt
@[simp] theorem countQ_ep_vfBars (idx sub n : Nat) (port tc polder : Option Nat) : (countQ idx sub n port tc polder s).ep.vfBars = s.ep.vfBars := (signals_countQ idx sub n port tc polder s).elim fun _ h => h.ep_vfBars
@[simp] theorem countQ_ep_pageSize (idx sub n : Nat) (port tc polder : Option Nat) : (countQ idx sub n port tc polder s).ep.pageSize = s.ep.pageSize := (signals_countQ idx sub n port tc polder s).elim fun _ h => h.ep_pageSize
@[simp] theorem countQ_ep_funcs (idx sub n : Nat) (port tc polder : Option Nat) : (countQ idx sub n port tc polder s).ep.funcs = s.ep.funcs := (signals_countQ idx sub n port tc polder s).elim fun _ h => h.ep_funcs
@[simp] theorem countQ_ep_reads (idx sub n : Nat) (port tc polder : Option Nat) : (countQ idx sub n port tc polder s).ep.reads = s.ep.reads := (signals_countQ idx sub n port tc polder s).elim fun _ h => h.ep_reads
@[simp] theorem countQ_ep_quarantine (idx sub n : Nat) (port tc polder : Option Nat) : (countQ idx sub n port tc polder s).ep.quarantine = s.ep.quarantine := (signals_countQ idx sub n port tc polder s).elim fun _ h => h.ep_quarantine
@[simp] theorem countQ_ep_cached (idx sub n : Nat) (port tc polder : Option Nat) : (countQ idx sub n port tc polder s).ep.cached = s.ep.cached := (signals_countQ idx sub n port tc polder s).elim fun _ h => h.ep_cached
@[simp] theorem countQ_ep_asked (idx sub n : Nat) (port tc polder : Option Nat) : (countQ idx sub n port tc polder s).ep.asked = s.ep.asked := (signals_countQ idx sub n port tc polder s).elim fun _ h => h.ep_asked
@[simp] theorem countQ_ep_invalidations (idx sub n : Nat) (port tc polder : Option Nat) : (countQ idx sub n port tc polder s).ep.invalidations = s.ep.invalidations := (signals_countQ idx sub n port tc polder s).elim fun _ h => h.ep_invalidations
@[simp] theorem countQ_ep_lastInval (idx sub n : Nat) (port tc polder : Option Nat) : (countQ idx sub n port tc polder s).ep.lastInval = s.ep.lastInval := (signals_countQ idx sub n port tc polder s).elim fun _ h => h.ep_lastInval
@[simp] theorem countQ_ep_pageReqs (idx sub n : Nat) (port tc polder : Option Nat) : (countQ idx sub n port tc polder s).ep.pageReqs = s.ep.pageReqs := (signals_countQ idx sub n port tc polder s).elim fun _ h => h.ep_pageReqs
@[simp] theorem countQ_ep_tag10 (idx sub n : Nat) (port tc polder : Option Nat) : (countQ idx sub n port tc polder s).ep.tag10 = s.ep.tag10 := (signals_countQ idx sub n port tc polder s).elim fun _ h => h.ep_tag10
@[simp] theorem countQ_ep_tag14 (idx sub n : Nat) (port tc polder : Option Nat) : (countQ idx sub n port tc polder s).ep.tag14 = s.ep.tag14 := (signals_countQ idx sub n port tc polder s).elim fun _ h => h.ep_tag14

@[simp] theorem count_pending (idx sub : Nat) : (count idx sub s).pending = s.pending := by
  unfold count; exact countQ_pending s _ _ _ _ _ _
@[simp] theorem count_clock (idx sub : Nat) : (count idx sub s).clock = s.clock := by
  unfold count; exact countQ_clock s _ _ _ _ _ _
@[simp] theorem count_freeCtr (idx sub : Nat) : (count idx sub s).freeCtr = s.freeCtr := by
  unfold count; exact countQ_freeCtr s _ _ _ _ _ _
@[simp] theorem count_nextId (idx sub : Nat) : (count idx sub s).nextId = s.nextId := by
  unfold count; exact countQ_nextId s _ _ _ _ _ _
@[simp] theorem count_board (idx sub : Nat) : (count idx sub s).board = s.board := by
  unfold count; exact countQ_board s _ _ _ _ _ _
@[simp] theorem count_boot (idx sub : Nat) : (count idx sub s).boot = s.boot := by
  unfold count; exact countQ_boot s _ _ _ _ _ _
@[simp] theorem count_mbx (idx sub : Nat) : (count idx sub s).mbx = s.mbx := by
  unfold count; exact countQ_mbx s _ _ _ _ _ _
@[simp] theorem count_ports (idx sub : Nat) : (count idx sub s).ports = s.ports := by
  unfold count; exact countQ_ports s _ _ _ _ _ _
@[simp] theorem count_time (idx sub : Nat) : (count idx sub s).time = s.time := by
  unfold count; exact countQ_time s _ _ _ _ _ _
@[simp] theorem count_frer (idx sub : Nat) : (count idx sub s).frer = s.frer := by
  unfold count; exact countQ_frer s _ _ _ _ _ _
@[simp] theorem count_cls (idx sub : Nat) : (count idx sub s).cls = s.cls := by
  unfold count; exact countQ_cls s _ _ _ _ _ _
@[simp] theorem count_tables (idx sub : Nat) : (count idx sub s).tables = s.tables := by
  unfold count; exact countQ_tables s _ _ _ _ _ _
@[simp] theorem count_flow (idx sub : Nat) : (count idx sub s).flow = s.flow := by
  unfold count; exact countQ_flow s _ _ _ _ _ _
@[simp] theorem count_buf (idx sub : Nat) : (count idx sub s).buf = s.buf := by
  unfold count; exact countQ_buf s _ _ _ _ _ _
@[simp] theorem count_sched (idx sub : Nat) : (count idx sub s).sched = s.sched := by
  unfold count; exact countQ_sched s _ _ _ _ _ _
@[simp] theorem count_polders (idx sub : Nat) : (count idx sub s).polders = s.polders := by
  unfold count; exact countQ_polders s _ _ _ _ _ _
@[simp] theorem count_wq (idx sub : Nat) : (count idx sub s).wq = s.wq := by
  unfold count; exact countQ_wq s _ _ _ _ _ _
@[simp] theorem count_cipher (idx sub : Nat) : (count idx sub s).cipher = s.cipher := by
  unfold count; exact countQ_cipher s _ _ _ _ _ _
@[simp] theorem count_siphon (idx sub : Nat) : (count idx sub s).siphon = s.siphon := by
  unfold count; exact countQ_siphon s _ _ _ _ _ _
@[simp] theorem count_jrn (idx sub : Nat) : (count idx sub s).jrn = s.jrn := by
  unfold count; exact countQ_jrn s _ _ _ _ _ _
@[simp] theorem count_test (idx sub : Nat) : (count idx sub s).test = s.test := by
  unfold count; exact countQ_test s _ _ _ _ _ _
@[simp] theorem count_culv (idx sub : Nat) : (count idx sub s).culv = s.culv := by
  unfold count; exact countQ_culv s _ _ _ _ _ _
@[simp] theorem count_dict_vals (idx sub : Nat) : (count idx sub s).dict.vals = s.dict.vals := by
  unfold count; exact countQ_dict_vals s _ _ _ _ _ _
@[simp] theorem count_dict_storeStatus (idx sub : Nat) : (count idx sub s).dict.storeStatus = s.dict.storeStatus := by
  unfold count; exact countQ_dict_storeStatus s _ _ _ _ _ _
@[simp] theorem count_dict_storing (idx sub : Nat) : (count idx sub s).dict.storing = s.dict.storing := by
  unfold count; exact countQ_dict_storing s _ _ _ _ _ _
@[simp] theorem count_dict_epoch (idx sub : Nat) : (count idx sub s).dict.epoch = s.dict.epoch := by
  unfold count; exact countQ_dict_epoch s _ _ _ _ _ _
@[simp] theorem count_dict_wraps (idx sub : Nat) : (count idx sub s).dict.wraps = s.dict.wraps := by
  unfold count; exact countQ_dict_wraps s _ _ _ _ _ _
@[simp] theorem count_dict_epochStored (idx sub : Nat) : (count idx sub s).dict.epochStored = s.dict.epochStored := by
  unfold count; exact countQ_dict_epochStored s _ _ _ _ _ _
@[simp] theorem count_dict_fdpOpen (idx sub : Nat) : (count idx sub s).dict.fdpOpen = s.dict.fdpOpen := by
  unfold count; exact countQ_dict_fdpOpen s _ _ _ _ _ _
@[simp] theorem count_dict_sessions (idx sub : Nat) : (count idx sub s).dict.sessions = s.dict.sessions := by
  unfold count; exact countQ_dict_sessions s _ _ _ _ _ _
@[simp] theorem count_dict_mbxVendor (idx sub : Nat) : (count idx sub s).dict.mbxVendor = s.dict.mbxVendor := by
  unfold count; exact countQ_dict_mbxVendor s _ _ _ _ _ _
@[simp] theorem count_dict_acts (idx sub : Nat) : (count idx sub s).dict.acts = s.dict.acts := by
  unfold count; exact countQ_dict_acts s _ _ _ _ _ _
@[simp] theorem count_dict_snaps (idx sub : Nat) : (count idx sub s).dict.snaps = s.dict.snaps := by
  unfold count; exact countQ_dict_snaps s _ _ _ _ _ _
@[simp] theorem count_dict_stagings (idx sub : Nat) : (count idx sub s).dict.stagings = s.dict.stagings := by
  unfold count; exact countQ_dict_stagings s _ _ _ _ _ _
@[simp] theorem count_dict_subs (idx sub : Nat) : (count idx sub s).dict.subs = s.dict.subs := by
  unfold count; exact countQ_dict_subs s _ _ _ _ _ _
@[simp] theorem count_dict_outbox (idx sub : Nat) : (count idx sub s).dict.outbox = s.dict.outbox := by
  unfold count; exact countQ_dict_outbox s _ _ _ _ _ _
@[simp] theorem count_ep_link (idx sub : Nat) : (count idx sub s).ep.link = s.ep.link := by
  unfold count; exact countQ_ep_link s _ _ _ _ _ _
@[simp] theorem count_ep_speed (idx sub : Nat) : (count idx sub s).ep.speed = s.ep.speed := by
  unfold count; exact countQ_ep_speed s _ _ _ _ _ _
@[simp] theorem count_ep_width (idx sub : Nat) : (count idx sub s).ep.width = s.ep.width := by
  unfold count; exact countQ_ep_width s _ _ _ _ _ _
@[simp] theorem count_ep_flit (idx sub : Nat) : (count idx sub s).ep.flit = s.ep.flit := by
  unfold count; exact countQ_ep_flit s _ _ _ _ _ _
@[simp] theorem count_ep_wasUp (idx sub : Nat) : (count idx sub s).ep.wasUp = s.ep.wasUp := by
  unfold count; exact countQ_ep_wasUp s _ _ _ _ _ _
@[simp] theorem count_ep_vfEnable (idx sub : Nat) : (count idx sub s).ep.vfEnable = s.ep.vfEnable := by
  unfold count; exact countQ_ep_vfEnable s _ _ _ _ _ _
@[simp] theorem count_ep_numVfs (idx sub : Nat) : (count idx sub s).ep.numVfs = s.ep.numVfs := by
  unfold count; exact countQ_ep_numVfs s _ _ _ _ _ _
@[simp] theorem count_ep_vfAt (idx sub : Nat) : (count idx sub s).ep.vfAt = s.ep.vfAt := by
  unfold count; exact countQ_ep_vfAt s _ _ _ _ _ _
@[simp] theorem count_ep_vfBars (idx sub : Nat) : (count idx sub s).ep.vfBars = s.ep.vfBars := by
  unfold count; exact countQ_ep_vfBars s _ _ _ _ _ _
@[simp] theorem count_ep_pageSize (idx sub : Nat) : (count idx sub s).ep.pageSize = s.ep.pageSize := by
  unfold count; exact countQ_ep_pageSize s _ _ _ _ _ _
@[simp] theorem count_ep_funcs (idx sub : Nat) : (count idx sub s).ep.funcs = s.ep.funcs := by
  unfold count; exact countQ_ep_funcs s _ _ _ _ _ _
@[simp] theorem count_ep_reads (idx sub : Nat) : (count idx sub s).ep.reads = s.ep.reads := by
  unfold count; exact countQ_ep_reads s _ _ _ _ _ _
@[simp] theorem count_ep_quarantine (idx sub : Nat) : (count idx sub s).ep.quarantine = s.ep.quarantine := by
  unfold count; exact countQ_ep_quarantine s _ _ _ _ _ _
@[simp] theorem count_ep_cached (idx sub : Nat) : (count idx sub s).ep.cached = s.ep.cached := by
  unfold count; exact countQ_ep_cached s _ _ _ _ _ _
@[simp] theorem count_ep_asked (idx sub : Nat) : (count idx sub s).ep.asked = s.ep.asked := by
  unfold count; exact countQ_ep_asked s _ _ _ _ _ _
@[simp] theorem count_ep_invalidations (idx sub : Nat) : (count idx sub s).ep.invalidations = s.ep.invalidations := by
  unfold count; exact countQ_ep_invalidations s _ _ _ _ _ _
@[simp] theorem count_ep_lastInval (idx sub : Nat) : (count idx sub s).ep.lastInval = s.ep.lastInval := by
  unfold count; exact countQ_ep_lastInval s _ _ _ _ _ _
@[simp] theorem count_ep_pageReqs (idx sub : Nat) : (count idx sub s).ep.pageReqs = s.ep.pageReqs := by
  unfold count; exact countQ_ep_pageReqs s _ _ _ _ _ _
@[simp] theorem count_ep_tag10 (idx sub : Nat) : (count idx sub s).ep.tag10 = s.ep.tag10 := by
  unfold count; exact countQ_ep_tag10 s _ _ _ _ _ _
@[simp] theorem count_ep_tag14 (idx sub : Nat) : (count idx sub s).ep.tag14 = s.ep.tag14 := by
  unfold count; exact countQ_ep_tag14 s _ _ _ _ _ _

@[simp] theorem countPort_pending (port sub n : Nat) : (countPort port sub n s).pending = s.pending := by
  unfold countPort; exact countQ_pending s _ _ _ _ _ _
@[simp] theorem countPort_clock (port sub n : Nat) : (countPort port sub n s).clock = s.clock := by
  unfold countPort; exact countQ_clock s _ _ _ _ _ _
@[simp] theorem countPort_freeCtr (port sub n : Nat) : (countPort port sub n s).freeCtr = s.freeCtr := by
  unfold countPort; exact countQ_freeCtr s _ _ _ _ _ _
@[simp] theorem countPort_nextId (port sub n : Nat) : (countPort port sub n s).nextId = s.nextId := by
  unfold countPort; exact countQ_nextId s _ _ _ _ _ _
@[simp] theorem countPort_board (port sub n : Nat) : (countPort port sub n s).board = s.board := by
  unfold countPort; exact countQ_board s _ _ _ _ _ _
@[simp] theorem countPort_boot (port sub n : Nat) : (countPort port sub n s).boot = s.boot := by
  unfold countPort; exact countQ_boot s _ _ _ _ _ _
@[simp] theorem countPort_mbx (port sub n : Nat) : (countPort port sub n s).mbx = s.mbx := by
  unfold countPort; exact countQ_mbx s _ _ _ _ _ _
@[simp] theorem countPort_ports (port sub n : Nat) : (countPort port sub n s).ports = s.ports := by
  unfold countPort; exact countQ_ports s _ _ _ _ _ _
@[simp] theorem countPort_time (port sub n : Nat) : (countPort port sub n s).time = s.time := by
  unfold countPort; exact countQ_time s _ _ _ _ _ _
@[simp] theorem countPort_frer (port sub n : Nat) : (countPort port sub n s).frer = s.frer := by
  unfold countPort; exact countQ_frer s _ _ _ _ _ _
@[simp] theorem countPort_cls (port sub n : Nat) : (countPort port sub n s).cls = s.cls := by
  unfold countPort; exact countQ_cls s _ _ _ _ _ _
@[simp] theorem countPort_tables (port sub n : Nat) : (countPort port sub n s).tables = s.tables := by
  unfold countPort; exact countQ_tables s _ _ _ _ _ _
@[simp] theorem countPort_flow (port sub n : Nat) : (countPort port sub n s).flow = s.flow := by
  unfold countPort; exact countQ_flow s _ _ _ _ _ _
@[simp] theorem countPort_buf (port sub n : Nat) : (countPort port sub n s).buf = s.buf := by
  unfold countPort; exact countQ_buf s _ _ _ _ _ _
@[simp] theorem countPort_sched (port sub n : Nat) : (countPort port sub n s).sched = s.sched := by
  unfold countPort; exact countQ_sched s _ _ _ _ _ _
@[simp] theorem countPort_polders (port sub n : Nat) : (countPort port sub n s).polders = s.polders := by
  unfold countPort; exact countQ_polders s _ _ _ _ _ _
@[simp] theorem countPort_wq (port sub n : Nat) : (countPort port sub n s).wq = s.wq := by
  unfold countPort; exact countQ_wq s _ _ _ _ _ _
@[simp] theorem countPort_cipher (port sub n : Nat) : (countPort port sub n s).cipher = s.cipher := by
  unfold countPort; exact countQ_cipher s _ _ _ _ _ _
@[simp] theorem countPort_siphon (port sub n : Nat) : (countPort port sub n s).siphon = s.siphon := by
  unfold countPort; exact countQ_siphon s _ _ _ _ _ _
@[simp] theorem countPort_jrn (port sub n : Nat) : (countPort port sub n s).jrn = s.jrn := by
  unfold countPort; exact countQ_jrn s _ _ _ _ _ _
@[simp] theorem countPort_test (port sub n : Nat) : (countPort port sub n s).test = s.test := by
  unfold countPort; exact countQ_test s _ _ _ _ _ _
@[simp] theorem countPort_culv (port sub n : Nat) : (countPort port sub n s).culv = s.culv := by
  unfold countPort; exact countQ_culv s _ _ _ _ _ _
@[simp] theorem countPort_dict_vals (port sub n : Nat) : (countPort port sub n s).dict.vals = s.dict.vals := by
  unfold countPort; exact countQ_dict_vals s _ _ _ _ _ _
@[simp] theorem countPort_dict_storeStatus (port sub n : Nat) : (countPort port sub n s).dict.storeStatus = s.dict.storeStatus := by
  unfold countPort; exact countQ_dict_storeStatus s _ _ _ _ _ _
@[simp] theorem countPort_dict_storing (port sub n : Nat) : (countPort port sub n s).dict.storing = s.dict.storing := by
  unfold countPort; exact countQ_dict_storing s _ _ _ _ _ _
@[simp] theorem countPort_dict_epoch (port sub n : Nat) : (countPort port sub n s).dict.epoch = s.dict.epoch := by
  unfold countPort; exact countQ_dict_epoch s _ _ _ _ _ _
@[simp] theorem countPort_dict_wraps (port sub n : Nat) : (countPort port sub n s).dict.wraps = s.dict.wraps := by
  unfold countPort; exact countQ_dict_wraps s _ _ _ _ _ _
@[simp] theorem countPort_dict_epochStored (port sub n : Nat) : (countPort port sub n s).dict.epochStored = s.dict.epochStored := by
  unfold countPort; exact countQ_dict_epochStored s _ _ _ _ _ _
@[simp] theorem countPort_dict_fdpOpen (port sub n : Nat) : (countPort port sub n s).dict.fdpOpen = s.dict.fdpOpen := by
  unfold countPort; exact countQ_dict_fdpOpen s _ _ _ _ _ _
@[simp] theorem countPort_dict_sessions (port sub n : Nat) : (countPort port sub n s).dict.sessions = s.dict.sessions := by
  unfold countPort; exact countQ_dict_sessions s _ _ _ _ _ _
@[simp] theorem countPort_dict_mbxVendor (port sub n : Nat) : (countPort port sub n s).dict.mbxVendor = s.dict.mbxVendor := by
  unfold countPort; exact countQ_dict_mbxVendor s _ _ _ _ _ _
@[simp] theorem countPort_dict_acts (port sub n : Nat) : (countPort port sub n s).dict.acts = s.dict.acts := by
  unfold countPort; exact countQ_dict_acts s _ _ _ _ _ _
@[simp] theorem countPort_dict_snaps (port sub n : Nat) : (countPort port sub n s).dict.snaps = s.dict.snaps := by
  unfold countPort; exact countQ_dict_snaps s _ _ _ _ _ _
@[simp] theorem countPort_dict_stagings (port sub n : Nat) : (countPort port sub n s).dict.stagings = s.dict.stagings := by
  unfold countPort; exact countQ_dict_stagings s _ _ _ _ _ _
@[simp] theorem countPort_dict_subs (port sub n : Nat) : (countPort port sub n s).dict.subs = s.dict.subs := by
  unfold countPort; exact countQ_dict_subs s _ _ _ _ _ _
@[simp] theorem countPort_dict_outbox (port sub n : Nat) : (countPort port sub n s).dict.outbox = s.dict.outbox := by
  unfold countPort; exact countQ_dict_outbox s _ _ _ _ _ _
@[simp] theorem countPort_ep_link (port sub n : Nat) : (countPort port sub n s).ep.link = s.ep.link := by
  unfold countPort; exact countQ_ep_link s _ _ _ _ _ _
@[simp] theorem countPort_ep_speed (port sub n : Nat) : (countPort port sub n s).ep.speed = s.ep.speed := by
  unfold countPort; exact countQ_ep_speed s _ _ _ _ _ _
@[simp] theorem countPort_ep_width (port sub n : Nat) : (countPort port sub n s).ep.width = s.ep.width := by
  unfold countPort; exact countQ_ep_width s _ _ _ _ _ _
@[simp] theorem countPort_ep_flit (port sub n : Nat) : (countPort port sub n s).ep.flit = s.ep.flit := by
  unfold countPort; exact countQ_ep_flit s _ _ _ _ _ _
@[simp] theorem countPort_ep_wasUp (port sub n : Nat) : (countPort port sub n s).ep.wasUp = s.ep.wasUp := by
  unfold countPort; exact countQ_ep_wasUp s _ _ _ _ _ _
@[simp] theorem countPort_ep_vfEnable (port sub n : Nat) : (countPort port sub n s).ep.vfEnable = s.ep.vfEnable := by
  unfold countPort; exact countQ_ep_vfEnable s _ _ _ _ _ _
@[simp] theorem countPort_ep_numVfs (port sub n : Nat) : (countPort port sub n s).ep.numVfs = s.ep.numVfs := by
  unfold countPort; exact countQ_ep_numVfs s _ _ _ _ _ _
@[simp] theorem countPort_ep_vfAt (port sub n : Nat) : (countPort port sub n s).ep.vfAt = s.ep.vfAt := by
  unfold countPort; exact countQ_ep_vfAt s _ _ _ _ _ _
@[simp] theorem countPort_ep_vfBars (port sub n : Nat) : (countPort port sub n s).ep.vfBars = s.ep.vfBars := by
  unfold countPort; exact countQ_ep_vfBars s _ _ _ _ _ _
@[simp] theorem countPort_ep_pageSize (port sub n : Nat) : (countPort port sub n s).ep.pageSize = s.ep.pageSize := by
  unfold countPort; exact countQ_ep_pageSize s _ _ _ _ _ _
@[simp] theorem countPort_ep_funcs (port sub n : Nat) : (countPort port sub n s).ep.funcs = s.ep.funcs := by
  unfold countPort; exact countQ_ep_funcs s _ _ _ _ _ _
@[simp] theorem countPort_ep_reads (port sub n : Nat) : (countPort port sub n s).ep.reads = s.ep.reads := by
  unfold countPort; exact countQ_ep_reads s _ _ _ _ _ _
@[simp] theorem countPort_ep_quarantine (port sub n : Nat) : (countPort port sub n s).ep.quarantine = s.ep.quarantine := by
  unfold countPort; exact countQ_ep_quarantine s _ _ _ _ _ _
@[simp] theorem countPort_ep_cached (port sub n : Nat) : (countPort port sub n s).ep.cached = s.ep.cached := by
  unfold countPort; exact countQ_ep_cached s _ _ _ _ _ _
@[simp] theorem countPort_ep_asked (port sub n : Nat) : (countPort port sub n s).ep.asked = s.ep.asked := by
  unfold countPort; exact countQ_ep_asked s _ _ _ _ _ _
@[simp] theorem countPort_ep_invalidations (port sub n : Nat) : (countPort port sub n s).ep.invalidations = s.ep.invalidations := by
  unfold countPort; exact countQ_ep_invalidations s _ _ _ _ _ _
@[simp] theorem countPort_ep_lastInval (port sub n : Nat) : (countPort port sub n s).ep.lastInval = s.ep.lastInval := by
  unfold countPort; exact countQ_ep_lastInval s _ _ _ _ _ _
@[simp] theorem countPort_ep_pageReqs (port sub n : Nat) : (countPort port sub n s).ep.pageReqs = s.ep.pageReqs := by
  unfold countPort; exact countQ_ep_pageReqs s _ _ _ _ _ _
@[simp] theorem countPort_ep_tag10 (port sub n : Nat) : (countPort port sub n s).ep.tag10 = s.ep.tag10 := by
  unfold countPort; exact countQ_ep_tag10 s _ _ _ _ _ _
@[simp] theorem countPort_ep_tag14 (port sub n : Nat) : (countPort port sub n s).ep.tag14 = s.ep.tag14 := by
  unfold countPort; exact countQ_ep_tag14 s _ _ _ _ _ _

@[simp] theorem countFor_pending (idx sub n polder : Nat) : (countFor idx sub n polder s).pending = s.pending := by
  unfold countFor; exact countQ_pending s _ _ _ _ _ _
@[simp] theorem countFor_clock (idx sub n polder : Nat) : (countFor idx sub n polder s).clock = s.clock := by
  unfold countFor; exact countQ_clock s _ _ _ _ _ _
@[simp] theorem countFor_freeCtr (idx sub n polder : Nat) : (countFor idx sub n polder s).freeCtr = s.freeCtr := by
  unfold countFor; exact countQ_freeCtr s _ _ _ _ _ _
@[simp] theorem countFor_nextId (idx sub n polder : Nat) : (countFor idx sub n polder s).nextId = s.nextId := by
  unfold countFor; exact countQ_nextId s _ _ _ _ _ _
@[simp] theorem countFor_board (idx sub n polder : Nat) : (countFor idx sub n polder s).board = s.board := by
  unfold countFor; exact countQ_board s _ _ _ _ _ _
@[simp] theorem countFor_boot (idx sub n polder : Nat) : (countFor idx sub n polder s).boot = s.boot := by
  unfold countFor; exact countQ_boot s _ _ _ _ _ _
@[simp] theorem countFor_mbx (idx sub n polder : Nat) : (countFor idx sub n polder s).mbx = s.mbx := by
  unfold countFor; exact countQ_mbx s _ _ _ _ _ _
@[simp] theorem countFor_ports (idx sub n polder : Nat) : (countFor idx sub n polder s).ports = s.ports := by
  unfold countFor; exact countQ_ports s _ _ _ _ _ _
@[simp] theorem countFor_time (idx sub n polder : Nat) : (countFor idx sub n polder s).time = s.time := by
  unfold countFor; exact countQ_time s _ _ _ _ _ _
@[simp] theorem countFor_frer (idx sub n polder : Nat) : (countFor idx sub n polder s).frer = s.frer := by
  unfold countFor; exact countQ_frer s _ _ _ _ _ _
@[simp] theorem countFor_cls (idx sub n polder : Nat) : (countFor idx sub n polder s).cls = s.cls := by
  unfold countFor; exact countQ_cls s _ _ _ _ _ _
@[simp] theorem countFor_tables (idx sub n polder : Nat) : (countFor idx sub n polder s).tables = s.tables := by
  unfold countFor; exact countQ_tables s _ _ _ _ _ _
@[simp] theorem countFor_flow (idx sub n polder : Nat) : (countFor idx sub n polder s).flow = s.flow := by
  unfold countFor; exact countQ_flow s _ _ _ _ _ _
@[simp] theorem countFor_buf (idx sub n polder : Nat) : (countFor idx sub n polder s).buf = s.buf := by
  unfold countFor; exact countQ_buf s _ _ _ _ _ _
@[simp] theorem countFor_sched (idx sub n polder : Nat) : (countFor idx sub n polder s).sched = s.sched := by
  unfold countFor; exact countQ_sched s _ _ _ _ _ _
@[simp] theorem countFor_polders (idx sub n polder : Nat) : (countFor idx sub n polder s).polders = s.polders := by
  unfold countFor; exact countQ_polders s _ _ _ _ _ _
@[simp] theorem countFor_wq (idx sub n polder : Nat) : (countFor idx sub n polder s).wq = s.wq := by
  unfold countFor; exact countQ_wq s _ _ _ _ _ _
@[simp] theorem countFor_cipher (idx sub n polder : Nat) : (countFor idx sub n polder s).cipher = s.cipher := by
  unfold countFor; exact countQ_cipher s _ _ _ _ _ _
@[simp] theorem countFor_siphon (idx sub n polder : Nat) : (countFor idx sub n polder s).siphon = s.siphon := by
  unfold countFor; exact countQ_siphon s _ _ _ _ _ _
@[simp] theorem countFor_jrn (idx sub n polder : Nat) : (countFor idx sub n polder s).jrn = s.jrn := by
  unfold countFor; exact countQ_jrn s _ _ _ _ _ _
@[simp] theorem countFor_test (idx sub n polder : Nat) : (countFor idx sub n polder s).test = s.test := by
  unfold countFor; exact countQ_test s _ _ _ _ _ _
@[simp] theorem countFor_culv (idx sub n polder : Nat) : (countFor idx sub n polder s).culv = s.culv := by
  unfold countFor; exact countQ_culv s _ _ _ _ _ _
@[simp] theorem countFor_dict_vals (idx sub n polder : Nat) : (countFor idx sub n polder s).dict.vals = s.dict.vals := by
  unfold countFor; exact countQ_dict_vals s _ _ _ _ _ _
@[simp] theorem countFor_dict_storeStatus (idx sub n polder : Nat) : (countFor idx sub n polder s).dict.storeStatus = s.dict.storeStatus := by
  unfold countFor; exact countQ_dict_storeStatus s _ _ _ _ _ _
@[simp] theorem countFor_dict_storing (idx sub n polder : Nat) : (countFor idx sub n polder s).dict.storing = s.dict.storing := by
  unfold countFor; exact countQ_dict_storing s _ _ _ _ _ _
@[simp] theorem countFor_dict_epoch (idx sub n polder : Nat) : (countFor idx sub n polder s).dict.epoch = s.dict.epoch := by
  unfold countFor; exact countQ_dict_epoch s _ _ _ _ _ _
@[simp] theorem countFor_dict_wraps (idx sub n polder : Nat) : (countFor idx sub n polder s).dict.wraps = s.dict.wraps := by
  unfold countFor; exact countQ_dict_wraps s _ _ _ _ _ _
@[simp] theorem countFor_dict_epochStored (idx sub n polder : Nat) : (countFor idx sub n polder s).dict.epochStored = s.dict.epochStored := by
  unfold countFor; exact countQ_dict_epochStored s _ _ _ _ _ _
@[simp] theorem countFor_dict_fdpOpen (idx sub n polder : Nat) : (countFor idx sub n polder s).dict.fdpOpen = s.dict.fdpOpen := by
  unfold countFor; exact countQ_dict_fdpOpen s _ _ _ _ _ _
@[simp] theorem countFor_dict_sessions (idx sub n polder : Nat) : (countFor idx sub n polder s).dict.sessions = s.dict.sessions := by
  unfold countFor; exact countQ_dict_sessions s _ _ _ _ _ _
@[simp] theorem countFor_dict_mbxVendor (idx sub n polder : Nat) : (countFor idx sub n polder s).dict.mbxVendor = s.dict.mbxVendor := by
  unfold countFor; exact countQ_dict_mbxVendor s _ _ _ _ _ _
@[simp] theorem countFor_dict_acts (idx sub n polder : Nat) : (countFor idx sub n polder s).dict.acts = s.dict.acts := by
  unfold countFor; exact countQ_dict_acts s _ _ _ _ _ _
@[simp] theorem countFor_dict_snaps (idx sub n polder : Nat) : (countFor idx sub n polder s).dict.snaps = s.dict.snaps := by
  unfold countFor; exact countQ_dict_snaps s _ _ _ _ _ _
@[simp] theorem countFor_dict_stagings (idx sub n polder : Nat) : (countFor idx sub n polder s).dict.stagings = s.dict.stagings := by
  unfold countFor; exact countQ_dict_stagings s _ _ _ _ _ _
@[simp] theorem countFor_dict_subs (idx sub n polder : Nat) : (countFor idx sub n polder s).dict.subs = s.dict.subs := by
  unfold countFor; exact countQ_dict_subs s _ _ _ _ _ _
@[simp] theorem countFor_dict_outbox (idx sub n polder : Nat) : (countFor idx sub n polder s).dict.outbox = s.dict.outbox := by
  unfold countFor; exact countQ_dict_outbox s _ _ _ _ _ _
@[simp] theorem countFor_ep_link (idx sub n polder : Nat) : (countFor idx sub n polder s).ep.link = s.ep.link := by
  unfold countFor; exact countQ_ep_link s _ _ _ _ _ _
@[simp] theorem countFor_ep_speed (idx sub n polder : Nat) : (countFor idx sub n polder s).ep.speed = s.ep.speed := by
  unfold countFor; exact countQ_ep_speed s _ _ _ _ _ _
@[simp] theorem countFor_ep_width (idx sub n polder : Nat) : (countFor idx sub n polder s).ep.width = s.ep.width := by
  unfold countFor; exact countQ_ep_width s _ _ _ _ _ _
@[simp] theorem countFor_ep_flit (idx sub n polder : Nat) : (countFor idx sub n polder s).ep.flit = s.ep.flit := by
  unfold countFor; exact countQ_ep_flit s _ _ _ _ _ _
@[simp] theorem countFor_ep_wasUp (idx sub n polder : Nat) : (countFor idx sub n polder s).ep.wasUp = s.ep.wasUp := by
  unfold countFor; exact countQ_ep_wasUp s _ _ _ _ _ _
@[simp] theorem countFor_ep_vfEnable (idx sub n polder : Nat) : (countFor idx sub n polder s).ep.vfEnable = s.ep.vfEnable := by
  unfold countFor; exact countQ_ep_vfEnable s _ _ _ _ _ _
@[simp] theorem countFor_ep_numVfs (idx sub n polder : Nat) : (countFor idx sub n polder s).ep.numVfs = s.ep.numVfs := by
  unfold countFor; exact countQ_ep_numVfs s _ _ _ _ _ _
@[simp] theorem countFor_ep_vfAt (idx sub n polder : Nat) : (countFor idx sub n polder s).ep.vfAt = s.ep.vfAt := by
  unfold countFor; exact countQ_ep_vfAt s _ _ _ _ _ _
@[simp] theorem countFor_ep_vfBars (idx sub n polder : Nat) : (countFor idx sub n polder s).ep.vfBars = s.ep.vfBars := by
  unfold countFor; exact countQ_ep_vfBars s _ _ _ _ _ _
@[simp] theorem countFor_ep_pageSize (idx sub n polder : Nat) : (countFor idx sub n polder s).ep.pageSize = s.ep.pageSize := by
  unfold countFor; exact countQ_ep_pageSize s _ _ _ _ _ _
@[simp] theorem countFor_ep_funcs (idx sub n polder : Nat) : (countFor idx sub n polder s).ep.funcs = s.ep.funcs := by
  unfold countFor; exact countQ_ep_funcs s _ _ _ _ _ _
@[simp] theorem countFor_ep_reads (idx sub n polder : Nat) : (countFor idx sub n polder s).ep.reads = s.ep.reads := by
  unfold countFor; exact countQ_ep_reads s _ _ _ _ _ _
@[simp] theorem countFor_ep_quarantine (idx sub n polder : Nat) : (countFor idx sub n polder s).ep.quarantine = s.ep.quarantine := by
  unfold countFor; exact countQ_ep_quarantine s _ _ _ _ _ _
@[simp] theorem countFor_ep_cached (idx sub n polder : Nat) : (countFor idx sub n polder s).ep.cached = s.ep.cached := by
  unfold countFor; exact countQ_ep_cached s _ _ _ _ _ _
@[simp] theorem countFor_ep_asked (idx sub n polder : Nat) : (countFor idx sub n polder s).ep.asked = s.ep.asked := by
  unfold countFor; exact countQ_ep_asked s _ _ _ _ _ _
@[simp] theorem countFor_ep_invalidations (idx sub n polder : Nat) : (countFor idx sub n polder s).ep.invalidations = s.ep.invalidations := by
  unfold countFor; exact countQ_ep_invalidations s _ _ _ _ _ _
@[simp] theorem countFor_ep_lastInval (idx sub n polder : Nat) : (countFor idx sub n polder s).ep.lastInval = s.ep.lastInval := by
  unfold countFor; exact countQ_ep_lastInval s _ _ _ _ _ _
@[simp] theorem countFor_ep_pageReqs (idx sub n polder : Nat) : (countFor idx sub n polder s).ep.pageReqs = s.ep.pageReqs := by
  unfold countFor; exact countQ_ep_pageReqs s _ _ _ _ _ _
@[simp] theorem countFor_ep_tag10 (idx sub n polder : Nat) : (countFor idx sub n polder s).ep.tag10 = s.ep.tag10 := by
  unfold countFor; exact countQ_ep_tag10 s _ _ _ _ _ _
@[simp] theorem countFor_ep_tag14 (idx sub n polder : Nat) : (countFor idx sub n polder s).ep.tag14 = s.ep.tag14 := by
  unfold countFor; exact countQ_ep_tag14 s _ _ _ _ _ _

@[simp] theorem countPolder_pending (polder sub : Nat) : (countPolder polder sub s).pending = s.pending := by
  unfold countPolder; exact countQ_pending s _ _ _ _ _ _
@[simp] theorem countPolder_clock (polder sub : Nat) : (countPolder polder sub s).clock = s.clock := by
  unfold countPolder; exact countQ_clock s _ _ _ _ _ _
@[simp] theorem countPolder_freeCtr (polder sub : Nat) : (countPolder polder sub s).freeCtr = s.freeCtr := by
  unfold countPolder; exact countQ_freeCtr s _ _ _ _ _ _
@[simp] theorem countPolder_nextId (polder sub : Nat) : (countPolder polder sub s).nextId = s.nextId := by
  unfold countPolder; exact countQ_nextId s _ _ _ _ _ _
@[simp] theorem countPolder_board (polder sub : Nat) : (countPolder polder sub s).board = s.board := by
  unfold countPolder; exact countQ_board s _ _ _ _ _ _
@[simp] theorem countPolder_boot (polder sub : Nat) : (countPolder polder sub s).boot = s.boot := by
  unfold countPolder; exact countQ_boot s _ _ _ _ _ _
@[simp] theorem countPolder_mbx (polder sub : Nat) : (countPolder polder sub s).mbx = s.mbx := by
  unfold countPolder; exact countQ_mbx s _ _ _ _ _ _
@[simp] theorem countPolder_ports (polder sub : Nat) : (countPolder polder sub s).ports = s.ports := by
  unfold countPolder; exact countQ_ports s _ _ _ _ _ _
@[simp] theorem countPolder_time (polder sub : Nat) : (countPolder polder sub s).time = s.time := by
  unfold countPolder; exact countQ_time s _ _ _ _ _ _
@[simp] theorem countPolder_frer (polder sub : Nat) : (countPolder polder sub s).frer = s.frer := by
  unfold countPolder; exact countQ_frer s _ _ _ _ _ _
@[simp] theorem countPolder_cls (polder sub : Nat) : (countPolder polder sub s).cls = s.cls := by
  unfold countPolder; exact countQ_cls s _ _ _ _ _ _
@[simp] theorem countPolder_tables (polder sub : Nat) : (countPolder polder sub s).tables = s.tables := by
  unfold countPolder; exact countQ_tables s _ _ _ _ _ _
@[simp] theorem countPolder_flow (polder sub : Nat) : (countPolder polder sub s).flow = s.flow := by
  unfold countPolder; exact countQ_flow s _ _ _ _ _ _
@[simp] theorem countPolder_buf (polder sub : Nat) : (countPolder polder sub s).buf = s.buf := by
  unfold countPolder; exact countQ_buf s _ _ _ _ _ _
@[simp] theorem countPolder_sched (polder sub : Nat) : (countPolder polder sub s).sched = s.sched := by
  unfold countPolder; exact countQ_sched s _ _ _ _ _ _
@[simp] theorem countPolder_polders (polder sub : Nat) : (countPolder polder sub s).polders = s.polders := by
  unfold countPolder; exact countQ_polders s _ _ _ _ _ _
@[simp] theorem countPolder_wq (polder sub : Nat) : (countPolder polder sub s).wq = s.wq := by
  unfold countPolder; exact countQ_wq s _ _ _ _ _ _
@[simp] theorem countPolder_cipher (polder sub : Nat) : (countPolder polder sub s).cipher = s.cipher := by
  unfold countPolder; exact countQ_cipher s _ _ _ _ _ _
@[simp] theorem countPolder_siphon (polder sub : Nat) : (countPolder polder sub s).siphon = s.siphon := by
  unfold countPolder; exact countQ_siphon s _ _ _ _ _ _
@[simp] theorem countPolder_jrn (polder sub : Nat) : (countPolder polder sub s).jrn = s.jrn := by
  unfold countPolder; exact countQ_jrn s _ _ _ _ _ _
@[simp] theorem countPolder_test (polder sub : Nat) : (countPolder polder sub s).test = s.test := by
  unfold countPolder; exact countQ_test s _ _ _ _ _ _
@[simp] theorem countPolder_culv (polder sub : Nat) : (countPolder polder sub s).culv = s.culv := by
  unfold countPolder; exact countQ_culv s _ _ _ _ _ _
@[simp] theorem countPolder_dict_vals (polder sub : Nat) : (countPolder polder sub s).dict.vals = s.dict.vals := by
  unfold countPolder; exact countQ_dict_vals s _ _ _ _ _ _
@[simp] theorem countPolder_dict_storeStatus (polder sub : Nat) : (countPolder polder sub s).dict.storeStatus = s.dict.storeStatus := by
  unfold countPolder; exact countQ_dict_storeStatus s _ _ _ _ _ _
@[simp] theorem countPolder_dict_storing (polder sub : Nat) : (countPolder polder sub s).dict.storing = s.dict.storing := by
  unfold countPolder; exact countQ_dict_storing s _ _ _ _ _ _
@[simp] theorem countPolder_dict_epoch (polder sub : Nat) : (countPolder polder sub s).dict.epoch = s.dict.epoch := by
  unfold countPolder; exact countQ_dict_epoch s _ _ _ _ _ _
@[simp] theorem countPolder_dict_wraps (polder sub : Nat) : (countPolder polder sub s).dict.wraps = s.dict.wraps := by
  unfold countPolder; exact countQ_dict_wraps s _ _ _ _ _ _
@[simp] theorem countPolder_dict_epochStored (polder sub : Nat) : (countPolder polder sub s).dict.epochStored = s.dict.epochStored := by
  unfold countPolder; exact countQ_dict_epochStored s _ _ _ _ _ _
@[simp] theorem countPolder_dict_fdpOpen (polder sub : Nat) : (countPolder polder sub s).dict.fdpOpen = s.dict.fdpOpen := by
  unfold countPolder; exact countQ_dict_fdpOpen s _ _ _ _ _ _
@[simp] theorem countPolder_dict_sessions (polder sub : Nat) : (countPolder polder sub s).dict.sessions = s.dict.sessions := by
  unfold countPolder; exact countQ_dict_sessions s _ _ _ _ _ _
@[simp] theorem countPolder_dict_mbxVendor (polder sub : Nat) : (countPolder polder sub s).dict.mbxVendor = s.dict.mbxVendor := by
  unfold countPolder; exact countQ_dict_mbxVendor s _ _ _ _ _ _
@[simp] theorem countPolder_dict_acts (polder sub : Nat) : (countPolder polder sub s).dict.acts = s.dict.acts := by
  unfold countPolder; exact countQ_dict_acts s _ _ _ _ _ _
@[simp] theorem countPolder_dict_snaps (polder sub : Nat) : (countPolder polder sub s).dict.snaps = s.dict.snaps := by
  unfold countPolder; exact countQ_dict_snaps s _ _ _ _ _ _
@[simp] theorem countPolder_dict_stagings (polder sub : Nat) : (countPolder polder sub s).dict.stagings = s.dict.stagings := by
  unfold countPolder; exact countQ_dict_stagings s _ _ _ _ _ _
@[simp] theorem countPolder_dict_subs (polder sub : Nat) : (countPolder polder sub s).dict.subs = s.dict.subs := by
  unfold countPolder; exact countQ_dict_subs s _ _ _ _ _ _
@[simp] theorem countPolder_dict_outbox (polder sub : Nat) : (countPolder polder sub s).dict.outbox = s.dict.outbox := by
  unfold countPolder; exact countQ_dict_outbox s _ _ _ _ _ _
@[simp] theorem countPolder_ep_link (polder sub : Nat) : (countPolder polder sub s).ep.link = s.ep.link := by
  unfold countPolder; exact countQ_ep_link s _ _ _ _ _ _
@[simp] theorem countPolder_ep_speed (polder sub : Nat) : (countPolder polder sub s).ep.speed = s.ep.speed := by
  unfold countPolder; exact countQ_ep_speed s _ _ _ _ _ _
@[simp] theorem countPolder_ep_width (polder sub : Nat) : (countPolder polder sub s).ep.width = s.ep.width := by
  unfold countPolder; exact countQ_ep_width s _ _ _ _ _ _
@[simp] theorem countPolder_ep_flit (polder sub : Nat) : (countPolder polder sub s).ep.flit = s.ep.flit := by
  unfold countPolder; exact countQ_ep_flit s _ _ _ _ _ _
@[simp] theorem countPolder_ep_wasUp (polder sub : Nat) : (countPolder polder sub s).ep.wasUp = s.ep.wasUp := by
  unfold countPolder; exact countQ_ep_wasUp s _ _ _ _ _ _
@[simp] theorem countPolder_ep_vfEnable (polder sub : Nat) : (countPolder polder sub s).ep.vfEnable = s.ep.vfEnable := by
  unfold countPolder; exact countQ_ep_vfEnable s _ _ _ _ _ _
@[simp] theorem countPolder_ep_numVfs (polder sub : Nat) : (countPolder polder sub s).ep.numVfs = s.ep.numVfs := by
  unfold countPolder; exact countQ_ep_numVfs s _ _ _ _ _ _
@[simp] theorem countPolder_ep_vfAt (polder sub : Nat) : (countPolder polder sub s).ep.vfAt = s.ep.vfAt := by
  unfold countPolder; exact countQ_ep_vfAt s _ _ _ _ _ _
@[simp] theorem countPolder_ep_vfBars (polder sub : Nat) : (countPolder polder sub s).ep.vfBars = s.ep.vfBars := by
  unfold countPolder; exact countQ_ep_vfBars s _ _ _ _ _ _
@[simp] theorem countPolder_ep_pageSize (polder sub : Nat) : (countPolder polder sub s).ep.pageSize = s.ep.pageSize := by
  unfold countPolder; exact countQ_ep_pageSize s _ _ _ _ _ _
@[simp] theorem countPolder_ep_funcs (polder sub : Nat) : (countPolder polder sub s).ep.funcs = s.ep.funcs := by
  unfold countPolder; exact countQ_ep_funcs s _ _ _ _ _ _
@[simp] theorem countPolder_ep_reads (polder sub : Nat) : (countPolder polder sub s).ep.reads = s.ep.reads := by
  unfold countPolder; exact countQ_ep_reads s _ _ _ _ _ _
@[simp] theorem countPolder_ep_quarantine (polder sub : Nat) : (countPolder polder sub s).ep.quarantine = s.ep.quarantine := by
  unfold countPolder; exact countQ_ep_quarantine s _ _ _ _ _ _
@[simp] theorem countPolder_ep_cached (polder sub : Nat) : (countPolder polder sub s).ep.cached = s.ep.cached := by
  unfold countPolder; exact countQ_ep_cached s _ _ _ _ _ _
@[simp] theorem countPolder_ep_asked (polder sub : Nat) : (countPolder polder sub s).ep.asked = s.ep.asked := by
  unfold countPolder; exact countQ_ep_asked s _ _ _ _ _ _
@[simp] theorem countPolder_ep_invalidations (polder sub : Nat) : (countPolder polder sub s).ep.invalidations = s.ep.invalidations := by
  unfold countPolder; exact countQ_ep_invalidations s _ _ _ _ _ _
@[simp] theorem countPolder_ep_lastInval (polder sub : Nat) : (countPolder polder sub s).ep.lastInval = s.ep.lastInval := by
  unfold countPolder; exact countQ_ep_lastInval s _ _ _ _ _ _
@[simp] theorem countPolder_ep_pageReqs (polder sub : Nat) : (countPolder polder sub s).ep.pageReqs = s.ep.pageReqs := by
  unfold countPolder; exact countQ_ep_pageReqs s _ _ _ _ _ _
@[simp] theorem countPolder_ep_tag10 (polder sub : Nat) : (countPolder polder sub s).ep.tag10 = s.ep.tag10 := by
  unfold countPolder; exact countQ_ep_tag10 s _ _ _ _ _ _
@[simp] theorem countPolder_ep_tag14 (polder sub : Nat) : (countPolder polder sub s).ep.tag14 = s.ep.tag14 := by
  unfold countPolder; exact countQ_ep_tag14 s _ _ _ _ _ _

@[simp] theorem dikeLog_pending (o : Origin) (die cls target : Nat) : (dikeLog o die cls target s).pending = s.pending := by
  obtain ⟨_, _, _, _, h⟩ := signals_dikeLog o die cls target s; exact h.pending
@[simp] theorem dikeLog_clock (o : Origin) (die cls target : Nat) : (dikeLog o die cls target s).clock = s.clock := by
  obtain ⟨_, _, _, _, h⟩ := signals_dikeLog o die cls target s; exact h.clock
@[simp] theorem dikeLog_freeCtr (o : Origin) (die cls target : Nat) : (dikeLog o die cls target s).freeCtr = s.freeCtr := by
  obtain ⟨_, _, _, _, h⟩ := signals_dikeLog o die cls target s; exact h.freeCtr
@[simp] theorem dikeLog_nextId (o : Origin) (die cls target : Nat) : (dikeLog o die cls target s).nextId = s.nextId := by
  obtain ⟨_, _, _, _, h⟩ := signals_dikeLog o die cls target s; exact h.nextId
@[simp] theorem dikeLog_board (o : Origin) (die cls target : Nat) : (dikeLog o die cls target s).board = s.board := by
  obtain ⟨_, _, _, _, h⟩ := signals_dikeLog o die cls target s; exact h.board
@[simp] theorem dikeLog_mbx (o : Origin) (die cls target : Nat) : (dikeLog o die cls target s).mbx = s.mbx := by
  obtain ⟨_, _, _, _, h⟩ := signals_dikeLog o die cls target s; exact h.mbx
@[simp] theorem dikeLog_ports (o : Origin) (die cls target : Nat) : (dikeLog o die cls target s).ports = s.ports := by
  obtain ⟨_, _, _, _, h⟩ := signals_dikeLog o die cls target s; exact h.ports
@[simp] theorem dikeLog_time (o : Origin) (die cls target : Nat) : (dikeLog o die cls target s).time = s.time := by
  obtain ⟨_, _, _, _, h⟩ := signals_dikeLog o die cls target s; exact h.time
@[simp] theorem dikeLog_frer (o : Origin) (die cls target : Nat) : (dikeLog o die cls target s).frer = s.frer := by
  obtain ⟨_, _, _, _, h⟩ := signals_dikeLog o die cls target s; exact h.frer
@[simp] theorem dikeLog_cls (o : Origin) (die cls target : Nat) : (dikeLog o die cls target s).cls = s.cls := by
  obtain ⟨_, _, _, _, h⟩ := signals_dikeLog o die cls target s; exact h.cls
@[simp] theorem dikeLog_tables (o : Origin) (die cls target : Nat) : (dikeLog o die cls target s).tables = s.tables := by
  obtain ⟨_, _, _, _, h⟩ := signals_dikeLog o die cls target s; exact h.tables
@[simp] theorem dikeLog_flow (o : Origin) (die cls target : Nat) : (dikeLog o die cls target s).flow = s.flow := by
  obtain ⟨_, _, _, _, h⟩ := signals_dikeLog o die cls target s; exact h.flow
@[simp] theorem dikeLog_buf (o : Origin) (die cls target : Nat) : (dikeLog o die cls target s).buf = s.buf := by
  obtain ⟨_, _, _, _, h⟩ := signals_dikeLog o die cls target s; exact h.buf
@[simp] theorem dikeLog_sched (o : Origin) (die cls target : Nat) : (dikeLog o die cls target s).sched = s.sched := by
  obtain ⟨_, _, _, _, h⟩ := signals_dikeLog o die cls target s; exact h.sched
@[simp] theorem dikeLog_polders (o : Origin) (die cls target : Nat) : (dikeLog o die cls target s).polders = s.polders := by
  obtain ⟨_, _, _, _, h⟩ := signals_dikeLog o die cls target s; exact h.polders
@[simp] theorem dikeLog_wq (o : Origin) (die cls target : Nat) : (dikeLog o die cls target s).wq = s.wq := by
  obtain ⟨_, _, _, _, h⟩ := signals_dikeLog o die cls target s; exact h.wq
@[simp] theorem dikeLog_cipher (o : Origin) (die cls target : Nat) : (dikeLog o die cls target s).cipher = s.cipher := by
  obtain ⟨_, _, _, _, h⟩ := signals_dikeLog o die cls target s; exact h.cipher
@[simp] theorem dikeLog_siphon (o : Origin) (die cls target : Nat) : (dikeLog o die cls target s).siphon = s.siphon := by
  obtain ⟨_, _, _, _, h⟩ := signals_dikeLog o die cls target s; exact h.siphon
@[simp] theorem dikeLog_jrn (o : Origin) (die cls target : Nat) : (dikeLog o die cls target s).jrn = s.jrn := by
  obtain ⟨_, _, _, _, h⟩ := signals_dikeLog o die cls target s; exact h.jrn
@[simp] theorem dikeLog_test (o : Origin) (die cls target : Nat) : (dikeLog o die cls target s).test = s.test := by
  obtain ⟨_, _, _, _, h⟩ := signals_dikeLog o die cls target s; exact h.test
@[simp] theorem dikeLog_culv (o : Origin) (die cls target : Nat) : (dikeLog o die cls target s).culv = s.culv := by
  obtain ⟨_, _, _, _, h⟩ := signals_dikeLog o die cls target s; exact h.culv
@[simp] theorem dikeLog_dict_epoch (o : Origin) (die cls target : Nat) : (dikeLog o die cls target s).dict.epoch = s.dict.epoch := by
  obtain ⟨_, _, _, _, h⟩ := signals_dikeLog o die cls target s; exact (congrArg Dict.epoch h.dict).trans rfl
@[simp] theorem dikeLog_dict_vals (o : Origin) (die cls target : Nat) : (dikeLog o die cls target s).dict.vals = s.dict.vals := by
  obtain ⟨_, _, _, _, h⟩ := signals_dikeLog o die cls target s; exact (congrArg Dict.vals h.dict).trans rfl
@[simp] theorem dikeLog_dict_sessions (o : Origin) (die cls target : Nat) : (dikeLog o die cls target s).dict.sessions = s.dict.sessions := by
  obtain ⟨_, _, _, _, h⟩ := signals_dikeLog o die cls target s; exact (congrArg Dict.sessions h.dict).trans rfl
@[simp] theorem dikeLog_ep_funcs (o : Origin) (die cls target : Nat) : (dikeLog o die cls target s).ep.funcs = s.ep.funcs := by
  obtain ⟨_, _, _, _, h⟩ := signals_dikeLog o die cls target s; exact h.ep_funcs

theorem dikeLogFields_eq (o : Origin) (cls target : Nat) : dikeLogFields o cls target s =
    dikeLog o 3 cls target (dikeLog o 2 cls target (dikeLog o 1 cls target (dikeLog o 0 cls target s))) := by
  unfold dikeLogFields forEach
  simp only [List.foldl_cons, List.foldl_nil]

@[simp] theorem dikeLogFields_pending (o : Origin) (cls target : Nat) : (dikeLogFields o cls target s).pending = s.pending := by
  simp only [dikeLogFields_eq, dikeLog_pending]
@[simp] theorem dikeLogFields_clock (o : Origin) (cls target : Nat) : (dikeLogFields o cls target s).clock = s.clock := by
  simp only [dikeLogFields_eq, dikeLog_clock]
@[simp] theorem dikeLogFields_freeCtr (o : Origin) (cls target : Nat) : (dikeLogFields o cls target s).freeCtr = s.freeCtr := by
  simp only [dikeLogFields_eq, dikeLog_freeCtr]
@[simp] theorem dikeLogFields_nextId (o : Origin) (cls target : Nat) : (dikeLogFields o cls target s).nextId = s.nextId := by
  simp only [dikeLogFields_eq, dikeLog_nextId]
@[simp] theorem dikeLogFields_board (o : Origin) (cls target : Nat) : (dikeLogFields o cls target s).board = s.board := by
  simp only [dikeLogFields_eq, dikeLog_board]
@[simp] theorem dikeLogFields_mbx (o : Origin) (cls target : Nat) : (dikeLogFields o cls target s).mbx = s.mbx := by
  simp only [dikeLogFields_eq, dikeLog_mbx]
@[simp] theorem dikeLogFields_ports (o : Origin) (cls target : Nat) : (dikeLogFields o cls target s).ports = s.ports := by
  simp only [dikeLogFields_eq, dikeLog_ports]
@[simp] theorem dikeLogFields_time (o : Origin) (cls target : Nat) : (dikeLogFields o cls target s).time = s.time := by
  simp only [dikeLogFields_eq, dikeLog_time]
@[simp] theorem dikeLogFields_frer (o : Origin) (cls target : Nat) : (dikeLogFields o cls target s).frer = s.frer := by
  simp only [dikeLogFields_eq, dikeLog_frer]
@[simp] theorem dikeLogFields_cls (o : Origin) (cls target : Nat) : (dikeLogFields o cls target s).cls = s.cls := by
  simp only [dikeLogFields_eq, dikeLog_cls]
@[simp] theorem dikeLogFields_tables (o : Origin) (cls target : Nat) : (dikeLogFields o cls target s).tables = s.tables := by
  simp only [dikeLogFields_eq, dikeLog_tables]
@[simp] theorem dikeLogFields_flow (o : Origin) (cls target : Nat) : (dikeLogFields o cls target s).flow = s.flow := by
  simp only [dikeLogFields_eq, dikeLog_flow]
@[simp] theorem dikeLogFields_buf (o : Origin) (cls target : Nat) : (dikeLogFields o cls target s).buf = s.buf := by
  simp only [dikeLogFields_eq, dikeLog_buf]
@[simp] theorem dikeLogFields_sched (o : Origin) (cls target : Nat) : (dikeLogFields o cls target s).sched = s.sched := by
  simp only [dikeLogFields_eq, dikeLog_sched]
@[simp] theorem dikeLogFields_polders (o : Origin) (cls target : Nat) : (dikeLogFields o cls target s).polders = s.polders := by
  simp only [dikeLogFields_eq, dikeLog_polders]
@[simp] theorem dikeLogFields_wq (o : Origin) (cls target : Nat) : (dikeLogFields o cls target s).wq = s.wq := by
  simp only [dikeLogFields_eq, dikeLog_wq]
@[simp] theorem dikeLogFields_cipher (o : Origin) (cls target : Nat) : (dikeLogFields o cls target s).cipher = s.cipher := by
  simp only [dikeLogFields_eq, dikeLog_cipher]
@[simp] theorem dikeLogFields_siphon (o : Origin) (cls target : Nat) : (dikeLogFields o cls target s).siphon = s.siphon := by
  simp only [dikeLogFields_eq, dikeLog_siphon]
@[simp] theorem dikeLogFields_jrn (o : Origin) (cls target : Nat) : (dikeLogFields o cls target s).jrn = s.jrn := by
  simp only [dikeLogFields_eq, dikeLog_jrn]
@[simp] theorem dikeLogFields_test (o : Origin) (cls target : Nat) : (dikeLogFields o cls target s).test = s.test := by
  simp only [dikeLogFields_eq, dikeLog_test]
@[simp] theorem dikeLogFields_culv (o : Origin) (cls target : Nat) : (dikeLogFields o cls target s).culv = s.culv := by
  simp only [dikeLogFields_eq, dikeLog_culv]
@[simp] theorem dikeLogFields_dict_epoch (o : Origin) (cls target : Nat) : (dikeLogFields o cls target s).dict.epoch = s.dict.epoch := by
  simp only [dikeLogFields_eq, dikeLog_dict_epoch]
@[simp] theorem dikeLogFields_dict_vals (o : Origin) (cls target : Nat) : (dikeLogFields o cls target s).dict.vals = s.dict.vals := by
  simp only [dikeLogFields_eq, dikeLog_dict_vals]
@[simp] theorem dikeLogFields_dict_sessions (o : Origin) (cls target : Nat) : (dikeLogFields o cls target s).dict.sessions = s.dict.sessions := by
  simp only [dikeLogFields_eq, dikeLog_dict_sessions]

@[simp] theorem advance_pending (t : Nat) : (advance t s).pending = s.pending := (signals_advance t s).elim fun _ h => h.pending
@[simp] theorem advance_freeCtr (t : Nat) : (advance t s).freeCtr = s.freeCtr := (signals_advance t s).elim fun _ h => h.freeCtr
@[simp] theorem advance_nextId (t : Nat) : (advance t s).nextId = s.nextId := (signals_advance t s).elim fun _ h => h.nextId
@[simp] theorem advance_board (t : Nat) : (advance t s).board = s.board := (signals_advance t s).elim fun _ h => h.board
@[simp] theorem advance_boot (t : Nat) : (advance t s).boot = s.boot := (signals_advance t s).elim fun _ h => h.boot
@[simp] theorem advance_dict (t : Nat) : (advance t s).dict = s.dict := (signals_advance t s).elim fun _ h => h.dict
@[simp] theorem advance_mbx (t : Nat) : (advance t s).mbx = s.mbx := (signals_advance t s).elim fun _ h => h.mbx
@[simp] theorem advance_ports (t : Nat) : (advance t s).ports = s.ports := (signals_advance t s).elim fun _ h => h.ports
@[simp] theorem advance_frer (t : Nat) : (advance t s).frer = s.frer := (signals_advance t s).elim fun _ h => h.frer
@[simp] theorem advance_cls (t : Nat) : (advance t s).cls = s.cls := (signals_advance t s).elim fun _ h => h.cls
@[simp] theorem advance_tables (t : Nat) : (advance t s).tables = s.tables := (signals_advance t s).elim fun _ h => h.tables
@[simp] theorem advance_flow (t : Nat) : (advance t s).flow = s.flow := (signals_advance t s).elim fun _ h => h.flow
@[simp] theorem advance_buf (t : Nat) : (advance t s).buf = s.buf := (signals_advance t s).elim fun _ h => h.buf
@[simp] theorem advance_sched (t : Nat) : (advance t s).sched = s.sched := (signals_advance t s).elim fun _ h => h.sched
@[simp] theorem advance_polders (t : Nat) : (advance t s).polders = s.polders := (signals_advance t s).elim fun _ h => h.polders
@[simp] theorem advance_wq (t : Nat) : (advance t s).wq = s.wq := (signals_advance t s).elim fun _ h => h.wq
@[simp] theorem advance_cipher (t : Nat) : (advance t s).cipher = s.cipher := (signals_advance t s).elim fun _ h => h.cipher
@[simp] theorem advance_siphon (t : Nat) : (advance t s).siphon = s.siphon := (signals_advance t s).elim fun _ h => h.siphon
@[simp] theorem advance_jrn (t : Nat) : (advance t s).jrn = s.jrn := (signals_advance t s).elim fun _ h => h.jrn
@[simp] theorem advance_test (t : Nat) : (advance t s).test = s.test := (signals_advance t s).elim fun _ h => h.test
@[simp] theorem advance_culv (t : Nat) : (advance t s).culv = s.culv := (signals_advance t s).elim fun _ h => h.culv
@[simp] theorem advance_clock (t : Nat) : (advance t s).clock = max s.clock t := (signals_advance t s).elim fun _ h => h.clock
@[simp] theorem advance_time_state (t : Nat) : (advance t s).time.state = s.time.state :=
  (signals_advance t s).elim fun _ h => (congrArg TimeBase.state h.time).trans rfl
@[simp] theorem advance_time_rate (t : Nat) : (advance t s).time.rate = s.time.rate :=
  (signals_advance t s).elim fun _ h => (congrArg TimeBase.rate h.time).trans rfl
@[simp] theorem advance_time_ppsOut (t : Nat) : (advance t s).time.ppsOut = s.time.ppsOut :=
  (signals_advance t s).elim fun _ h => (congrArg TimeBase.ppsOut h.time).trans rfl
@[simp] theorem advance_time_ppsInLast (t : Nat) : (advance t s).time.ppsInLast = s.time.ppsInLast :=
  (signals_advance t s).elim fun _ h => (congrArg TimeBase.ppsInLast h.time).trans rfl
@[simp] theorem advance_time_offset (t : Nat) : (advance t s).time.offset = s.time.offset :=
  (signals_advance t s).elim fun _ h => (congrArg TimeBase.offset h.time).trans rfl
@[simp] theorem advance_time_delay (t : Nat) : (advance t s).time.delay = s.time.delay :=
  (signals_advance t s).elim fun _ h => (congrArg TimeBase.delay h.time).trans rfl
@[simp] theorem advance_time_parent (t : Nat) : (advance t s).time.parent = s.time.parent :=
  (signals_advance t s).elim fun _ h => (congrArg TimeBase.parent h.time).trans rfl
@[simp] theorem advance_time_lastMsg (t : Nat) : (advance t s).time.lastMsg = s.time.lastMsg :=
  (signals_advance t s).elim fun _ h => (congrArg TimeBase.lastMsg h.time).trans rfl
@[simp] theorem advance_time_annLog (t : Nat) : (advance t s).time.annLog = s.time.annLog :=
  (signals_advance t s).elim fun _ h => (congrArg TimeBase.annLog h.time).trans rfl
@[simp] theorem advance_time_lastEdge (t : Nat) : (advance t s).time.lastEdge = s.time.lastEdge :=
  (signals_advance t s).elim fun _ h => (congrArg TimeBase.lastEdge h.time).trans rfl
@[simp] theorem advance_time_ppsRise (t : Nat) : (advance t s).time.ppsRise = s.time.ppsRise :=
  (signals_advance t s).elim fun _ h => (congrArg TimeBase.ppsRise h.time).trans rfl
@[simp] theorem advance_ep_link (t : Nat) : (advance t s).ep.link = s.ep.link := (signals_advance t s).elim fun _ h => h.ep_link
@[simp] theorem advance_ep_speed (t : Nat) : (advance t s).ep.speed = s.ep.speed := (signals_advance t s).elim fun _ h => h.ep_speed
@[simp] theorem advance_ep_width (t : Nat) : (advance t s).ep.width = s.ep.width := (signals_advance t s).elim fun _ h => h.ep_width
@[simp] theorem advance_ep_flit (t : Nat) : (advance t s).ep.flit = s.ep.flit := (signals_advance t s).elim fun _ h => h.ep_flit
@[simp] theorem advance_ep_wasUp (t : Nat) : (advance t s).ep.wasUp = s.ep.wasUp := (signals_advance t s).elim fun _ h => h.ep_wasUp
@[simp] theorem advance_ep_vfEnable (t : Nat) : (advance t s).ep.vfEnable = s.ep.vfEnable := (signals_advance t s).elim fun _ h => h.ep_vfEnable
@[simp] theorem advance_ep_numVfs (t : Nat) : (advance t s).ep.numVfs = s.ep.numVfs := (signals_advance t s).elim fun _ h => h.ep_numVfs
@[simp] theorem advance_ep_vfAt (t : Nat) : (advance t s).ep.vfAt = s.ep.vfAt := (signals_advance t s).elim fun _ h => h.ep_vfAt
@[simp] theorem advance_ep_vfBars (t : Nat) : (advance t s).ep.vfBars = s.ep.vfBars := (signals_advance t s).elim fun _ h => h.ep_vfBars
@[simp] theorem advance_ep_pageSize (t : Nat) : (advance t s).ep.pageSize = s.ep.pageSize := (signals_advance t s).elim fun _ h => h.ep_pageSize
@[simp] theorem advance_ep_funcs (t : Nat) : (advance t s).ep.funcs = s.ep.funcs := (signals_advance t s).elim fun _ h => h.ep_funcs
@[simp] theorem advance_ep_reads (t : Nat) : (advance t s).ep.reads = s.ep.reads := (signals_advance t s).elim fun _ h => h.ep_reads
@[simp] theorem advance_ep_quarantine (t : Nat) : (advance t s).ep.quarantine = s.ep.quarantine := (signals_advance t s).elim fun _ h => h.ep_quarantine
@[simp] theorem advance_ep_cached (t : Nat) : (advance t s).ep.cached = s.ep.cached := (signals_advance t s).elim fun _ h => h.ep_cached
@[simp] theorem advance_ep_asked (t : Nat) : (advance t s).ep.asked = s.ep.asked := (signals_advance t s).elim fun _ h => h.ep_asked
@[simp] theorem advance_ep_invalidations (t : Nat) : (advance t s).ep.invalidations = s.ep.invalidations := (signals_advance t s).elim fun _ h => h.ep_invalidations
@[simp] theorem advance_ep_lastInval (t : Nat) : (advance t s).ep.lastInval = s.ep.lastInval := (signals_advance t s).elim fun _ h => h.ep_lastInval
@[simp] theorem advance_ep_pageReqs (t : Nat) : (advance t s).ep.pageReqs = s.ep.pageReqs := (signals_advance t s).elim fun _ h => h.ep_pageReqs
@[simp] theorem advance_ep_tag10 (t : Nat) : (advance t s).ep.tag10 = s.ep.tag10 := (signals_advance t s).elim fun _ h => h.ep_tag10
@[simp] theorem advance_ep_tag14 (t : Nat) : (advance t s).ep.tag14 = s.ep.tag14 := (signals_advance t s).elim fun _ h => h.ep_tag14
@[simp] theorem advance_evt_mask (t : Nat) : (advance t s).evt.mask = s.evt.mask := (signals_advance t s).elim fun _ h => h.mask
@[simp] theorem advance_evt_vector (t : Nat) : (advance t s).evt.vector = s.evt.vector := (signals_advance t s).elim fun _ h => h.vector

end Fields

/-- From `s` to `u` the Dike's log and the dictionary's counters changed, and signals were raised. -/
def Logs (s u : State) : Prop :=
  Signals { s with
    boot := { s.boot with
      dikeLog := u.boot.dikeLog, dikeSeq := u.boot.dikeSeq, dikeOverflowed := u.boot.dikeOverflowed }
    dict := { s.dict with counters := u.dict.counters } } u

theorem Logs.trans {s t u : State} (a : Logs s t) (b : Logs t u) : Logs s u := by
  obtain ⟨a1, a2, a3, a4, a5⟩ := a
  obtain ⟨b1, b2, b3, b4, b5⟩ := b
  refine ⟨?_, ?_, b3.trans a3, b4.trans a4, b5.trans a5⟩
  · have h := congrArg (fun x : State => { x with
        ep := s.ep, evt := s.evt, out := s.out
        boot := { x.boot with dikeLog := u.boot.dikeLog, dikeSeq := u.boot.dikeSeq, dikeOverflowed := u.boot.dikeOverflowed }
        dict := { x.dict with counters := u.dict.counters } }) b1
    have g := congrArg (fun x : State => { x with
        boot := { x.boot with dikeLog := u.boot.dikeLog, dikeSeq := u.boot.dikeSeq, dikeOverflowed := u.boot.dikeOverflowed }
        dict := { x.dict with counters := u.dict.counters } }) a1
    exact h.trans g
  · have h := congrArg (fun x : Endpoint => { x with inta := s.ep.inta, msix := s.ep.msix }) b2
    exact h.trans a2

theorem logs_dikeLog (o : Origin) (die cls target : Nat) (s : State) : Logs s (dikeLog o die cls target s) := by
  obtain ⟨c, l, q, v, h⟩ := signals_dikeLog o die cls target s
  have hb := congrArg State.boot h.rest
  have hd := congrArg State.dict h.rest
  unfold Logs
  dsimp only at hb hd
  rw [hb, hd]
  exact h

theorem logs_dikeLogFields (o : Origin) (cls target : Nat) (s : State) : Logs s (dikeLogFields o cls target s) := by
  rw [dikeLogFields_eq]
  exact (((logs_dikeLog o 0 cls target s).trans (logs_dikeLog o 1 cls target _)).trans
    (logs_dikeLog o 2 cls target _)).trans (logs_dikeLog o 3 cls target _)

end Sys2Proof.Machine
end

