-- ==== Sys2Proof/Laws/Events.lean ====
section
/-! SUPPORT. What an occurrence does to the status bits: a raised source in use has its bit set, and no
occurrence clears one. -/

namespace Sys2Proof.Machine

/-- No status bit is cleared from `s` to `t`, and the map of ports stays. -/
structure StatGrows (s t : State) : Prop where
  bits : ∀ g i, (evtStat s g).testBit i = true → (evtStat t g).testBit i = true
  map : t.evt.portMap = s.evt.portMap

theorem StatGrows.refl (s : State) : StatGrows s s := ⟨fun _ _ h => h, rfl⟩

theorem StatGrows.trans {s t u : State} (a : StatGrows s t) (b : StatGrows t u) : StatGrows s u :=
  ⟨fun g i h => b.bits g i (a.bits g i h), b.map.trans a.map⟩

theorem StatGrows.of_eq {s t : State} (h : t.evt.stat = s.evt.stat) (m : t.evt.portMap = s.evt.portMap) :
    StatGrows s t := ⟨fun g i hb => by unfold evtStat at hb ⊢; rw [h]; exact hb, m⟩

theorem evtStat_lt (s : State) (g : Nat) : evtStat s g < 2 ^ 32 := (Tab.get 0#32 s.evt.stat g).isLt

theorem testBit_bitSet (n i j : Nat) : (bitSet n i).testBit j = (n.testBit j || decide (i = j)) := by
  rw [bitSet, Nat.testBit_or, Nat.one_shiftLeft, Nat.testBit_two_pow]

/-- Setting a bit of a group sets it and clears none. -/
theorem setEvtStat_grows (s : State) (g i : Nat) (hi : i < 32) :
    StatGrows s (setEvtStat g (bitSet (evtStat s g) i) s)
      ∧ (evtStat (setEvtStat g (bitSet (evtStat s g) i) s) g).testBit i = true := by
  have hlt : bitSet (evtStat s g) i < 2 ^ 32 := by
    apply Nat.lt_pow_two_of_testBit
    intro j hj
    rw [testBit_bitSet, Nat.testBit_lt_two_pow (lt_of_lt_of_le (evtStat_lt s g) (Nat.pow_le_pow_right (by decide) hj))]
    simp; omega
  have hv : (BitVec.ofNat 32 (bitSet (evtStat s g) i)) ≠ 0#32 := by
    intro h
    have h2 := congrArg BitVec.toNat h
    rw [BitVec.toNat_ofNat, Nat.mod_eq_of_lt hlt] at h2
    have h3 : (bitSet (evtStat s g) i).testBit i = true := by rw [testBit_bitSet]; simp
    rw [h2] at h3
    simp at h3
  have same : evtStat (setEvtStat g (bitSet (evtStat s g) i) s) g = bitSet (evtStat s g) i := by
    show (Tab.get 0#32 (Tab.set 0#32 s.evt.stat g _) g).toNat = _
    rw [Tab.get_set_of_ne _ _ hv, BitVec.toNat_ofNat, Nat.mod_eq_of_lt hlt]
  refine ⟨⟨fun g2 j h => ?_, rfl⟩, ?_⟩
  · by_cases hg : g2 = g
    · subst hg
      rw [same, testBit_bitSet, h]
      rfl
    · have other : evtStat (setEvtStat g (bitSet (evtStat s g) i) s) g2 = evtStat s g2 := by
        show (Tab.get 0#32 (Tab.set 0#32 s.evt.stat g _) g2).toNat = _
        rw [Tab.get_set_other _ _ (Ne.symm hg)]
        rfl
      rw [other]
      exact h
  · rw [same, testBit_bitSet]
    simp

theorem statGrows_intxEval (s : State) : StatGrows s (intxEval s) := by
  unfold intxEval
  dsimp only
  split
  · exact .of_eq rfl rfl
  · split
    · exact .of_eq rfl rfl
    · exact .refl s

theorem statGrows_foldl {α β : Type} {s : State} (l : List α) (f : State × β → α → State × β) (x : State × β)
    (hf : ∀ y a, StatGrows s y.1 → StatGrows s (f y a).1) (h : StatGrows s x.1) : StatGrows s (l.foldl f x).1 := by
  induction l generalizing x with
  | nil => exact h
  | cons a l ih => exact ih (f x a) (hf x a h)

theorem statGrows_occurStep (o : Occ) (s : State) : StatGrows s (occurStep o s).1 := by
  cases o with
  | event n =>
    unfold occurStep
    dsimp only
    split
    · refine (setEvtStat_grows s (n / 32) (n % 32) (Nat.mod_lt _ (by decide))).1.trans ?_
      refine StatGrows.trans ?_ (statGrows_intxEval _)
      exact .of_eq rfl rfl
    · exact .refl s
  | count ev n port tc polder =>
    have hd : ∀ y (a : Nat × DevCtr), StatGrows s y.1 → StatGrows s (countDevice ev n port tc polder y a).1 := by
      intro y a h
      unfold countDevice
      dsimp only
      split
      · exact h
      · split
        · exact h.trans (.of_eq rfl rfl)
        · exact h.trans (.of_eq rfl rfl)
    have h1 := statGrows_foldl s.evt.ctrs (countDevice ev n port tc polder) (s, []) hd (.refl s)
    unfold occurStep
    dsimp only
    cases polder with
    | none => exact h1
    | some fn =>
      refine statGrows_foldl _ _ _ (fun y a h => ?_) h1
      unfold countPage
      dsimp only
      split
      · exact h
      · split
        · exact h.trans (.of_eq rfl rfl)
        · exact h
  | msg fn vec =>
    unfold occurStep
    dsimp only
    split
    · split
      · exact .of_eq rfl rfl
      · exact .of_eq rfl rfl
    · exact .refl s

theorem statGrows_occur (n : Nat) (l : List Occ) (s : State) : StatGrows s (occur n l s) := by
  induction n generalizing l s with
  | zero => exact .refl s
  | succ n ih =>
    cases l with
    | nil => exact .refl s
    | cons o rest => exact (statGrows_occurStep o s).trans (ih _ _)

theorem statGrows_raise (n : Nat) (s : State) : StatGrows s (raise n s) := statGrows_occur _ _ s
theorem statGrows_countEv (ev n : Nat) (port tc polder : Option Nat) (s : State) :
    StatGrows s (countEv ev n port tc polder s) := statGrows_occur _ _ s
theorem statGrows_signal (fn vec : Nat) (s : State) : StatGrows s (signal fn vec s) := statGrows_occur _ _ s

theorem statGrows_countQ (idx sub n : Nat) (port tc polder : Option Nat) (s : State) :
    StatGrows s (countQ idx sub n port tc polder s) := by
  unfold countQ
  split
  · exact .refl s
  · exact StatGrows.trans (t := bumpObj idx sub n s) (.of_eq rfl rfl) (statGrows_countEv _ _ _ _ _ _)

/-- A source in use that is raised has its status bit set (spec 16 R542). -/
theorem raise_sets {n : Nat} (h : sourceInUse n = true) (s : State) :
    (evtStat (raise n s) (n / 32)).testBit (n % 32) = true := by
  have e : raise n s = occur 31 (occurStep (.event n) s).2 (occurStep (.event n) s).1 := rfl
  rw [e]
  apply (statGrows_occur 31 _ _).bits
  unfold occurStep
  dsimp only
  simp only [h, if_true]
  apply (statGrows_intxEval _).bits
  exact (setEvtStat_grows s (n / 32) (n % 32) (Nat.mod_lt _ (by decide))).2

end Sys2Proof.Machine
end

