-- ==== Sys2Proof/Laws/Frame.lean ====
section
/-! SUPPORT. Frames by block: how they compose, and what one change of the state leaves alone. Every
operation has one lemma in Laws/Frame<file>.lean, which takes a frame from the state before the operation
to the state after, once the blocks the operation may change are among those allowed. -/

namespace Sys2Proof
open Machine

/-- The blocks of `a` are among those of `l`. -/
def Sub (a l : List Blk) : Prop := ∀ b ∈ a, b ∈ l

theorem Sub.of {a b l : List Blk} (h : Sub a l) (hb : b.all (fun x => a.contains x) = true) : Sub b l := by
  intro x hx
  exact h x (by simpa using (List.all_eq_true.1 hb) x hx)

theorem Sub.not {a l : List Blk} {b : Blk} (h : Sub a l) (hb : a.contains b = true) {p : Prop} (n : b ∉ l) : p :=
  absurd (h b (by simpa using hb)) n

theorem Same.refl (s : State) (b : Blk) : Same s s b := by cases b <;> rfl

theorem Same.trans {s t u : State} {b : Blk} (h : Same s t b) (g : Same t u b) : Same s u b := by
  cases b with
  | dict =>
    have g1 : { u.dict with counters := t.dict.counters } = t.dict := g
    have h1 : { t.dict with counters := s.dict.counters } = s.dict := h
    have e := congrArg (fun x : Dict => { x with counters := s.dict.counters }) g1
    exact e.trans h1
  | time =>
    have g1 : { u.time with num := t.time.num } = t.time := g
    have h1 : { t.time with num := s.time.num } = s.time := h
    have e := congrArg (fun x : TimeBase => { x with num := s.time.num }) g1
    exact e.trans h1
  | ep =>
    have g1 : { u.ep with funcs := t.ep.funcs, msix := t.ep.msix, inta := t.ep.inta } = t.ep := g
    have h1 : { t.ep with funcs := s.ep.funcs, msix := s.ep.msix, inta := s.ep.inta } = s.ep := h
    have e := congrArg (fun x : Endpoint => { x with funcs := s.ep.funcs, msix := s.ep.msix, inta := s.ep.inta }) g1
    exact e.trans h1
  | _ => exact Eq.trans g h

theorem Frame.refl (l : List Blk) (s : State) : Frame l s s := ⟨rfl, fun b _ => .refl s b⟩

theorem Frame.trans {l : List Blk} {s t u : State} (h : Frame l s t) (g : Frame l t u) : Frame l s u :=
  ⟨g.1.trans h.1, fun b n => (h.2 b n).trans (g.2 b n)⟩

theorem Frame.mono {l m : List Blk} {s t : State} (h : Frame l s t) (g : Sub l m) : Frame m s t :=
  ⟨h.1, fun b n => h.2 b (fun hb => n (g b hb))⟩

section Change
variable {l : List Blk} {s x : State}

theorem Frame.ite {a b : State} {c : Prop} [Decidable c] (ha : Frame l s a) (hb : Frame l s b) :
    Frame l s (if c then a else b) := by split <;> assumption

theorem Frame.foldl {α : Type} {f : State → α → State} (as : List α)
    (hf : ∀ y a, Frame l s y → Frame l s (f y a)) (k : Frame l s x) : Frame l s (as.foldl f x) := by
  induction as generalizing x with
  | nil => exact k
  | cons a as ih => exact ih (hf x a k)

/-- A fold over a state and something beside it. -/
theorem Frame.foldl_fst {α β : Type} {x : State × β} {f : State × β → α → State × β} (as : List α)
    (hf : ∀ y a, Frame l s y.1 → Frame l s (f y a).1) (k : Frame l s x.1) : Frame l s (as.foldl f x).1 := by
  induction as generalizing x with
  | nil => exact k
  | cons a as ih => exact ih (hf x a k)

theorem Frame.foldl_snd {α β : Type} {x : β × State} {f : β × State → α → β × State} (as : List α)
    (hf : ∀ y a, Frame l s y.2 → Frame l s (f y a).2) (k : Frame l s x.2) : Frame l s (as.foldl f x).2 := by
  induction as generalizing x with
  | nil => exact k
  | cons a as ih => exact ih (hf x a k)

theorem Frame.ite_fst {β : Type} {a b : State × β} {c : Prop} [Decidable c] (ha : Frame l s a.1)
    (hb : Frame l s b.1) : Frame l s (if c then a else b).1 := by split <;> assumption

theorem Frame.ite_snd {β : Type} {a b : β × State} {c : Prop} [Decidable c] (ha : Frame l s a.2)
    (hb : Frame l s b.2) : Frame l s (if c then a else b).2 := by split <;> assumption

theorem Frame.forEach {α : Type} {f : α → State → State} (as : List α)
    (hf : ∀ a y, Frame l s y → Frame l s (f a y)) (k : Frame l s x) : Frame l s (Machine.forEach as f x) :=
  Frame.foldl as (fun y a => hf a y) k

/-- A pair that is taken apart by a match. -/
theorem Frame.of_eq_snd {β : Type} {y : State} {p : β × State} {b : β} (h : p = (b, y)) (k : Frame l s p.2) :
    Frame l s y := by subst h; exact k

theorem Frame.of_eq_fst {β : Type} {y : State} {p : State × β} {b : β} (h : p = (y, b)) (k : Frame l s p.1) :
    Frame l s y := by subst h; exact k

/-- A change given block by block. -/
theorem Frame.upd {y : State} (k : Frame l s x) (hp : y.pending = x.pending) (h : ∀ b, b ∉ l → Same x y b) :
    Frame l s y := k.trans ⟨hp, h⟩

/-! ### One block changes -/

theorem Frame.modBoard {f} (hl : Sub [.board] l) (k : Frame l s x) : Frame l s (Machine.modBoard f x) :=
  k.upd rfl (fun b n => by cases b <;> first | rfl | exact hl.not rfl n)
theorem Frame.modBoot {f} (hl : Sub [.boot] l) (k : Frame l s x) : Frame l s (Machine.modBoot f x) :=
  k.upd rfl (fun b n => by cases b <;> first | rfl | exact hl.not rfl n)
theorem Frame.modMbx {f} (hl : Sub [.mbx] l) (k : Frame l s x) : Frame l s (Machine.modMbx f x) :=
  k.upd rfl (fun b n => by cases b <;> first | rfl | exact hl.not rfl n)
theorem Frame.modCls {f} (hl : Sub [.cls] l) (k : Frame l s x) : Frame l s (Machine.modCls f x) :=
  k.upd rfl (fun b n => by cases b <;> first | rfl | exact hl.not rfl n)
theorem Frame.modTables {f} (hl : Sub [.tables] l) (k : Frame l s x) : Frame l s (Machine.modTables f x) :=
  k.upd rfl (fun b n => by cases b <;> first | rfl | exact hl.not rfl n)
theorem Frame.modFlow {f} (hl : Sub [.flow] l) (k : Frame l s x) : Frame l s (Machine.modFlow f x) :=
  k.upd rfl (fun b n => by cases b <;> first | rfl | exact hl.not rfl n)
theorem Frame.modBuf {f} (hl : Sub [.buf] l) (k : Frame l s x) : Frame l s (Machine.modBuf f x) :=
  k.upd rfl (fun b n => by cases b <;> first | rfl | exact hl.not rfl n)
theorem Frame.modSched {f} (hl : Sub [.sched] l) (k : Frame l s x) : Frame l s (Machine.modSched f x) :=
  k.upd rfl (fun b n => by cases b <;> first | rfl | exact hl.not rfl n)
theorem Frame.modPolders {f} (hl : Sub [.polders] l) (k : Frame l s x) : Frame l s (Machine.modPolders f x) :=
  k.upd rfl (fun b n => by cases b <;> first | rfl | exact hl.not rfl n)
theorem Frame.modCipher {f} (hl : Sub [.cipher] l) (k : Frame l s x) : Frame l s (Machine.modCipher f x) :=
  k.upd rfl (fun b n => by cases b <;> first | rfl | exact hl.not rfl n)
theorem Frame.modSiphon {f} (hl : Sub [.siphon] l) (k : Frame l s x) : Frame l s (Machine.modSiphon f x) :=
  k.upd rfl (fun b n => by cases b <;> first | rfl | exact hl.not rfl n)
theorem Frame.modJrn {f} (hl : Sub [.jrn] l) (k : Frame l s x) : Frame l s (Machine.modJrn f x) :=
  k.upd rfl (fun b n => by cases b <;> first | rfl | exact hl.not rfl n)
theorem Frame.modTest {f} (hl : Sub [.test] l) (k : Frame l s x) : Frame l s (Machine.modTest f x) :=
  k.upd rfl (fun b n => by cases b <;> first | rfl | exact hl.not rfl n)
theorem Frame.modCulv {f} (hl : Sub [.culv] l) (k : Frame l s x) : Frame l s (Machine.modCulv f x) :=
  k.upd rfl (fun b n => by cases b <;> first | rfl | exact hl.not rfl n)
theorem Frame.modEvt {f} (_ : Sub [] l) (k : Frame l s x) : Frame l s (Machine.modEvt f x) :=
  k.upd rfl (fun b _ => by cases b <;> rfl)
theorem Frame.modDict {f} (k : Frame l s x) (hc : .counters ∉ l → ∀ d, (f d).counters = d.counters)
    (hd : .dict ∉ l → ∀ d, { f d with counters := d.counters } = d) : Frame l s (Machine.modDict f x) :=
  k.upd rfl (fun b n => by
    cases b with
    | counters => exact hc n _
    | dict => exact hd n _
    | _ => rfl)
theorem Frame.modTime {f} (k : Frame l s x) (h : .time ∉ l → ∀ d, { f d with num := d.num } = d) :
    Frame l s (Machine.modTime f x) :=
  k.upd rfl (fun b n => by
    cases b with
    | time => exact h n _
    | _ => rfl)
theorem Frame.modEp {f} (k : Frame l s x) (hf : .funcs ∉ l → ∀ d, (f d).funcs = d.funcs)
    (he : .ep ∉ l → ∀ d, { f d with funcs := d.funcs, msix := d.msix, inta := d.inta } = d) :
    Frame l s (Machine.modEp f x) :=
  k.upd rfl (fun b n => by
    cases b with
    | funcs => exact hf n _
    | ep => exact he n _
    | _ => rfl)

/-! ### Records by number -/

theorem Frame.setPort (hl : Sub [.ports] l) (k : Frame l s x) (p : Nat) (v : Port) : Frame l s (x.setPort p v) :=
  k.upd rfl (fun b n => by cases b <;> first | rfl | exact hl.not rfl n)
theorem Frame.setFrer (hl : Sub [.frer] l) (k : Frame l s x) (p : Nat) (v : Frer) : Frame l s (x.setFrer p v) :=
  k.upd rfl (fun b n => by cases b <;> first | rfl | exact hl.not rfl n)
theorem Frame.setQueue (hl : Sub [.wq] l) (k : Frame l s x) (p q : Nat) (v : Queue) : Frame l s (x.setQueue p q v) :=
  k.upd rfl (fun b n => by cases b <;> first | rfl | exact hl.not rfl n)
theorem Frame.setPsched (hl : Sub [.sched] l) (k : Frame l s x) (p : Nat) (v : PortSched) : Frame l s (x.setPsched p v) :=
  k.upd rfl (fun b n => by cases b <;> first | rfl | exact hl.not rfl n)
theorem Frame.setHtx (hl : Sub [.sched] l) (k : Frame l s x) (p : Nat) (v : HtxSched) : Frame l s (x.setHtx p v) :=
  k.upd rfl (fun b n => by cases b <;> first | rfl | exact hl.not rfl n)
theorem Frame.setWeir (hl : Sub [.sched] l) (k : Frame l s x) (p q : Nat) (v : Weir) : Frame l s (x.setWeir p q v) :=
  k.upd rfl (fun b n => by cases b <;> first | rfl | exact hl.not rfl n)
theorem Frame.setFilter (hl : Sub [.sched] l) (k : Frame l s x) (p : Nat) (v : StreamFilter) : Frame l s (x.setFilter p v) :=
  k.upd rfl (fun b n => by cases b <;> first | rfl | exact hl.not rfl n)
theorem Frame.setFunc (hl : Sub [.funcs] l) (k : Frame l s x) (p : Nat) (v : Func) : Frame l s (x.setFunc p v) :=
  k.upd rfl (fun b n => by cases b <;> first | rfl | exact hl.not rfl n)
theorem Frame.setMsix (_ : Sub [] l) (k : Frame l s x) (p q : Nat) (v : MsixEntry) : Frame l s (x.setMsix p q v) :=
  k.upd rfl (fun b _ => by cases b <;> rfl)
theorem Frame.setPolder (hl : Sub [.polders] l) (k : Frame l s x) (p : Nat) (v : Polder) : Frame l s (x.setPolder p v) :=
  k.upd rfl (fun b n => by cases b <;> first | rfl | exact hl.not rfl n)
theorem Frame.setSession (hl : Sub [.dict] l) (k : Frame l s x) (p : Nat) (v : Session) : Frame l s (x.setSession p v) :=
  k.upd rfl (fun b n => by cases b <;> first | rfl | exact hl.not rfl n)
theorem Frame.setBufDie (hl : Sub [.buf] l) (k : Frame l s x) (p : Nat) (v : BufDie) : Frame l s (x.setBufDie p v) :=
  k.upd rfl (fun b n => by cases b <;> first | rfl | exact hl.not rfl n)
theorem Frame.setFlowDie (hl : Sub [.flow] l) (k : Frame l s x) (p : Nat) (v : FlowDie) : Frame l s (x.setFlowDie p v) :=
  k.upd rfl (fun b n => by cases b <;> first | rfl | exact hl.not rfl n)
theorem Frame.setCtx (hl : Sub [.flow] l) (k : Frame l s x) (p : Nat) (v : Ctx) : Frame l s (x.setCtx p v) :=
  k.upd rfl (fun b n => by cases b <;> first | rfl | exact hl.not rfl n)
theorem Frame.setChannel (hl : Sub [.siphon] l) (k : Frame l s x) (p : Nat) (v : Channel) : Frame l s (x.setChannel p v) :=
  k.upd rfl (fun b n => by cases b <;> first | rfl | exact hl.not rfl n)
theorem Frame.setRegion (hl : Sub [.siphon] l) (k : Frame l s x) (p : Nat) (v : Region) : Frame l s (x.setRegion p v) :=
  k.upd rfl (fun b n => by cases b <;> first | rfl | exact hl.not rfl n)
theorem Frame.setKeySlot (hl : Sub [.cipher] l) (k : Frame l s x) (p : Nat) (v : KeySlot) : Frame l s (x.setKeySlot p v) :=
  k.upd rfl (fun b n => by cases b <;> first | rfl | exact hl.not rfl n)
theorem Frame.setCart (hl : Sub [.jrn] l) (k : Frame l s x) (p : Nat) (v : CartSlot) : Frame l s (x.setCart p v) :=
  k.upd rfl (fun b n => by cases b <;> first | rfl | exact hl.not rfl n)
theorem Frame.setSpace (hl : Sub [.jrn] l) (k : Frame l s x) (p : Nat) (v : Space) : Frame l s (x.setSpace p v) :=
  k.upd rfl (fun b n => by cases b <;> first | rfl | exact hl.not rfl n)
theorem Frame.setPage (_ : Sub [] l) (k : Frame l s x) (p : Nat) (v : Page) : Frame l s (x.setPage p v) :=
  k.upd rfl (fun b _ => by cases b <;> rfl)

/-! ### Output, free values, tickets -/

theorem Frame.emit (_ : Sub [] l) (k : Frame l s x) (o : Out) : Frame l s (Machine.emit o x) :=
  k.upd rfl (fun b _ => by cases b <;> rfl)
theorem Frame.drawNat (hl : Sub [.free] l) (k : Frame l s x) : Frame l s (Machine.drawNat x).2 :=
  k.upd rfl (fun b n => by cases b <;> first | rfl | exact hl.not rfl n)
theorem Frame.drawBool (hl : Sub [.free] l) (k : Frame l s x) : Frame l s (Machine.drawBool x).2 :=
  k.upd rfl (fun b n => by cases b <;> first | rfl | exact hl.not rfl n)
theorem Frame.drawBytes (hl : Sub [.free] l) (k : Frame l s x) (n : Nat) : Frame l s (Machine.drawBytes n x).2 :=
  k.upd rfl (fun b n => by cases b <;> first | rfl | exact hl.not rfl n)
theorem Frame.ticket (hl : Sub [.id] l) (k : Frame l s x) : Frame l s (Machine.ticket x).2 :=
  k.upd rfl (fun b n => by cases b <;> first | rfl | exact hl.not rfl n)

end Change
end Sys2Proof
end

