-- ==== Sys2Proof/Laws/FrameOps.lean ====
section
/-! SUPPORT. Which blocks the operations of Machine/Ops.lean may change. -/

namespace Sys2Proof
open Machine

theorem Frame.setVal {l : List Blk} {s z : State} (hl : Sub [.dict] l)
    (hk : Frame l s z) (idx sub : Nat) (v : Bytes) :
    Frame l s (Machine.setVal idx sub v z) := by
  unfold Machine.setVal
  repeat' first
    | with_reducible assumption
    | exact hl.of rfl
    | ((with_reducible apply Frame.modDict) <;> first | exact fun _ _ => rfl | exact fun h => hl.not rfl h | skip)

theorem Frame.setEvtStat {l : List Blk} {s z : State} (hk : Frame l s z) (hl : Sub [] l) (g v : Nat) :
    Frame l s (Machine.setEvtStat g v z) := Frame.modEvt hl hk

theorem Frame.intxEval {l : List Blk} {s z : State} (hl : Sub [] l)
    (hk : Frame l s z) :
    Frame l s (Machine.intxEval z) := by
  unfold Machine.intxEval
  repeat' first
    | with_reducible assumption
    | exact hl.of rfl
    | ((with_reducible apply Frame.modEp) <;> first | exact fun _ _ => rfl | exact fun h => hl.not rfl h | skip)
    | (with_reducible apply Frame.emit)
    | (with_reducible apply Frame.ite)

theorem Frame.countDevice {l : List Blk} {s : State} {acc : State × List Occ} (hk : Frame l s acc.1) (hl : Sub [] l)
    (ev n : Nat) (port tc polder : Option Nat) (e : Nat × DevCtr) :
    Frame l s (Machine.countDevice ev n port tc polder acc e).1 := by
  unfold Machine.countDevice
  repeat' first
    | with_reducible assumption
    | exact hl
    | (with_reducible apply Frame.ite_fst)
    | (with_reducible apply Frame.modEvt)

theorem Frame.countPage {l : List Blk} {s : State} {acc : State × List Occ} (hk : Frame l s acc.1) (hl : Sub [] l)
    (fn ev n i : Nat) : Frame l s (Machine.countPage fn ev n acc i).1 := by
  unfold Machine.countPage
  dsimp only
  split
  repeat' first
    | with_reducible assumption
    | exact hl
    | (with_reducible apply Frame.ite_fst)
    | (with_reducible apply Frame.setPage)

theorem Frame.occurStep {l : List Blk} {s z : State} (hl : Sub [] l) (hk : Frame l s z) (o : Occ) :
    Frame l s (Machine.occurStep o z).1 := by
  cases o with
  | event n =>
    unfold Machine.occurStep
    dsimp only
    split
    · exact Frame.intxEval hl (Frame.modEvt hl (hk.setEvtStat hl _ _))
    · exact hk
  | count ev n port tc polder =>
    unfold Machine.occurStep
    have h := Frame.foldl_fst (f := Machine.countDevice ev n port tc polder) z.evt.ctrs
      (x := (z, ([] : List Occ))) (fun y a ky => ky.countDevice hl ev n port tc polder a) hk
    dsimp only
    split
    · exact h
    · exact Frame.foldl_fst (f := Machine.countPage _ ev n) _ (fun y a ky => ky.countPage hl _ ev n a) h
  | msg fn vec =>
    unfold Machine.occurStep
    repeat' first
      | with_reducible assumption
      | exact hl.of rfl
      | (with_reducible apply Frame.ite_fst)
      | (with_reducible apply Frame.emit)
      | (with_reducible apply Frame.setMsix)

theorem Frame.occur {l : List Blk} {s z : State} (hl : Sub [] l) (hk : Frame l s z) (n : Nat) (os : List Occ) :
    Frame l s (Machine.occur n os z) := by
  induction n generalizing os z with
  | zero => exact hk
  | succ n ih =>
    cases os with
    | nil => exact hk
    | cons o rest => exact ih (Frame.occurStep hl hk o) _

theorem Frame.raise {l : List Blk} {s z : State} (hl : Sub [] l)
    (hk : Frame l s z) (n : Nat) :
    Frame l s (Machine.raise n z) := by
  unfold Machine.raise
  repeat' first
    | with_reducible assumption
    | exact hl.of rfl
    | (with_reducible apply Frame.occur)

theorem Frame.countEv {l : List Blk} {s z : State} (hl : Sub [] l)
    (hk : Frame l s z) (ev n : Nat) (port tc polder : Option Nat) :
    Frame l s (Machine.countEv ev n port tc polder z) := by
  unfold Machine.countEv
  repeat' first
    | with_reducible assumption
    | exact hl.of rfl
    | (with_reducible apply Frame.occur)

theorem Frame.signal {l : List Blk} {s z : State} (hl : Sub [] l)
    (hk : Frame l s z) (fn vec : Nat) :
    Frame l s (Machine.signal fn vec z) := by
  unfold Machine.signal
  repeat' first
    | with_reducible assumption
    | exact hl.of rfl
    | (with_reducible apply Frame.occur)

theorem Frame.raiseDie {l : List Blk} {s z : State} (hl : Sub [] l)
    (hk : Frame l s z) (die k : Nat) :
    Frame l s (Machine.raiseDie die k z) := by
  unfold Machine.raiseDie
  repeat' first
    | with_reducible assumption
    | exact hl.of rfl
    | (with_reducible apply Frame.raise)

theorem Frame.raisePort {l : List Blk} {s z : State} (hl : Sub [] l)
    (hk : Frame l s z) (port k : Nat) :
    Frame l s (Machine.raisePort port k z) := by
  unfold Machine.raisePort
  repeat' first
    | with_reducible assumption
    | exact hl.of rfl
    | (with_reducible apply Frame.raiseDie)
    | (with_reducible apply Frame.modEvt)

theorem Frame.raiseSlot {l : List Blk} {s z : State} (hl : Sub [] l)
    (hk : Frame l s z) (slot k : Nat) :
    Frame l s (Machine.raiseSlot slot k z) := by
  unfold Machine.raiseSlot
  repeat' first
    | with_reducible assumption
    | exact hl.of rfl
    | (with_reducible apply Frame.raise)

theorem Frame.bumpObj {l : List Blk} {s z : State} (hl : Sub [.counters] l)
    (hk : Frame l s z) (idx sub n : Nat) :
    Frame l s (Machine.bumpObj idx sub n z) := by
  unfold Machine.bumpObj
  repeat' first
    | with_reducible assumption
    | exact hl.of rfl
    | ((with_reducible apply Frame.modDict) <;> first | exact fun _ _ => rfl | exact fun h => hl.not rfl h | skip)

theorem Frame.countQ {l : List Blk} {s z : State} (hl : Sub [.counters] l)
    (hk : Frame l s z) (idx sub n : Nat) (port tc polder : Option Nat) :
    Frame l s (Machine.countQ idx sub n port tc polder z) := by
  unfold Machine.countQ
  repeat' first
    | with_reducible assumption
    | exact hl.of rfl
    | (with_reducible apply Frame.countEv)
    | (with_reducible apply Frame.bumpObj)
    | (with_reducible apply Frame.ite)

theorem Frame.count {l : List Blk} {s z : State} (hl : Sub [.counters] l)
    (hk : Frame l s z) (idx sub : Nat) :
    Frame l s (Machine.count idx sub z) := by
  unfold Machine.count
  repeat' first
    | with_reducible assumption
    | exact hl.of rfl
    | (with_reducible apply Frame.countQ)

theorem Frame.countPort {l : List Blk} {s z : State} (hl : Sub [.counters] l)
    (hk : Frame l s z) (port sub n : Nat) :
    Frame l s (Machine.countPort port sub n z) := by
  unfold Machine.countPort
  repeat' first
    | with_reducible assumption
    | exact hl.of rfl
    | (with_reducible apply Frame.countQ)

theorem Frame.countFor {l : List Blk} {s z : State} (hl : Sub [.counters] l)
    (hk : Frame l s z) (idx sub n polder : Nat) :
    Frame l s (Machine.countFor idx sub n polder z) := by
  unfold Machine.countFor
  repeat' first
    | with_reducible assumption
    | exact hl.of rfl
    | (with_reducible apply Frame.countQ)

theorem Frame.countPolder {l : List Blk} {s z : State} (hl : Sub [.counters] l)
    (hk : Frame l s z) (polder sub : Nat) :
    Frame l s (Machine.countPolder polder sub z) := by
  unfold Machine.countPolder
  repeat' first
    | with_reducible assumption
    | exact hl.of rfl
    | (with_reducible apply Frame.countQ)

theorem Frame.advance {l : List Blk} {s z : State} (hl : Sub [] l) (hk : Frame l s z) (t : Nat) :
    Frame l s (Machine.advance t z) := by
  unfold Machine.advance
  split
  · apply Frame.countEv hl
    apply Frame.countEv hl
    exact hk.upd rfl (fun b _ => by cases b <;> rfl)
  · exact hk

theorem Frame.dikeLog {l : List Blk} {s z : State} (hl : Sub [.boot, .counters] l)
    (hk : Frame l s z) (o : Origin) (die cls target : Nat) :
    Frame l s (Machine.dikeLog o die cls target z) := by
  unfold Machine.dikeLog
  repeat' first
    | with_reducible assumption
    | exact hl.of rfl
    | (with_reducible apply Frame.raise)
    | (with_reducible apply Frame.count)
    | (with_reducible apply Frame.ite)
    | exact Frame.upd hk rfl (fun b n => by cases b <;> first | rfl | exact hl.not rfl n)

theorem Frame.dikeLogFields {l : List Blk} {s z : State} (hl : Sub [.boot, .counters] l)
    (hk : Frame l s z) (o : Origin) (cls target : Nat) :
    Frame l s (Machine.dikeLogFields o cls target z) := by
  unfold Machine.dikeLogFields
  repeat' first
    | with_reducible assumption
    | exact hl.of rfl
    | (with_reducible apply Frame.dikeLog)
    | (with_reducible refine Frame.forEach _ (fun _ _ _ => ?_) ?_)

theorem Frame.dmaBytesRead {l : List Blk} {s z : State} (hl : Sub [] l)
    (hk : Frame l s z) (fn n : Nat) :
    Frame l s (Machine.dmaBytesRead fn n z) := by
  unfold Machine.dmaBytesRead
  repeat' first
    | with_reducible assumption
    | exact hl.of rfl
    | (with_reducible apply Frame.countEv)

theorem Frame.ddrWrite {l : List Blk} {s z : State} (hl : Sub [.siphon] l)
    (hk : Frame l s z) (addr : Nat) (data : Bytes) :
    Frame l s (Machine.ddrWrite addr data z) := by
  unfold Machine.ddrWrite
  repeat' first
    | with_reducible assumption
    | exact hl.of rfl
    | (with_reducible apply Frame.modSiphon)

theorem Frame.polderFault {l : List Blk} {s z : State} (hl : Sub [.counters, .polders] l)
    (hk : Frame l s z) (fn status kind q : Nat) :
    Frame l s (Machine.polderFault fn status kind q z) := by
  unfold Machine.polderFault
  repeat' first
    | with_reducible assumption
    | exact hl.of rfl
    | (with_reducible apply Frame.setPolder)
    | (with_reducible apply Frame.raise)
    | (with_reducible apply Frame.countPolder)
    | (with_reducible apply Frame.modPolders)
    | (with_reducible apply Frame.setPolder)
    | (with_reducible apply Frame.ite)

end Sys2Proof
end

