-- ==== Sys2Proof/Laws/FrameOperands.lean ====
section
/-! SUPPORT. Which blocks the operations of Machine/Operands.lean may change. -/

namespace Sys2Proof
open Machine

theorem Frame.gmacWork {l : List Blk} {s z : State} (hl : Sub [.counters] l)
    (hk : Frame l s z) (n : Nat) :
    Frame l s (Machine.gmacWork n z) := by
  unfold Machine.gmacWork
  repeat' first
    | with_reducible assumption
    | exact hl.of rfl
    | (with_reducible apply Frame.countQ)
    | (with_reducible apply Frame.count)

theorem Frame.mbxRespond {l : List Blk} {s z : State} (hl : Sub [.mbx] l)
    (hk : Frame l s z) (flags kind reqId index sub ty pa pb : Nat) (data : Bytes) :
    Frame l s (Machine.mbxRespond flags kind reqId index sub ty pa pb data z) := by
  unfold Machine.mbxRespond
  repeat' first
    | with_reducible assumption
    | exact hl.of rfl
    | (with_reducible apply Frame.raise)
    | (with_reducible apply Frame.modMbx)

theorem Frame.nextTx {l : List Blk} {s z : State} (hl : Sub [.dict] l)
    (hk : Frame l s z) (n : Nat) :
    Frame l s (Machine.nextTx n z).2 := by
  unfold Machine.nextTx
  repeat' first
    | with_reducible assumption
    | exact hl.of rfl
    | (with_reducible apply Frame.setSession)

theorem Frame.netSend {l : List Blk} {s z : State} (hl : Sub [.counters, .dict] l)
    (hk : Frame l s z) (n : Nat) (port : Option Nat) (key : Bytes) (flags kind reqId index sub ty pa pb : Nat) (data : Bytes) :
    Frame l s (Machine.netSend n port key flags kind reqId index sub ty pa pb data z) := by
  unfold Machine.netSend
  repeat' first
    | with_reducible assumption
    | exact hl.of rfl
    | (with_reducible apply Frame.gmacWork)
    | (with_reducible apply Frame.nextTx)
    | ((with_reducible apply Frame.modDict) <;> first | exact fun _ _ => rfl | exact fun h => hl.not rfl h | skip)
    | (with_reducible apply Frame.emit)
    | split

theorem Frame.keepResponse {l : List Blk} {s z : State} (hl : Sub [.dict] l)
    (hk : Frame l s z) (n : Nat) (k : Kept) :
    Frame l s (Machine.keepResponse n k z) := by
  unfold Machine.keepResponse
  repeat' first
    | with_reducible assumption
    | exact hl.of rfl
    | (with_reducible apply Frame.setSession)

theorem Frame.answer {l : List Blk} {s z : State} (hl : Sub [.counters, .dict, .mbx] l)
    (hk : Frame l s z) (h : ReqHead) (flags pa pb ty : Nat) (data : Bytes) :
    Frame l s (Machine.answer h flags pa pb ty data z) := by
  unfold Machine.answer
  repeat' first
    | with_reducible assumption
    | exact hl.of rfl
    | (with_reducible apply Frame.mbxRespond)
    | (with_reducible apply Frame.netSend)
    | (with_reducible apply Frame.keepResponse)
    | (with_reducible apply Frame.ite)

theorem Frame.answerCopy {l : List Blk} {s z : State} (hl : Sub [.counters, .dict] l)
    (hk : Frame l s z) (h : ReqHead) (flags pa : Nat) :
    Frame l s (Machine.answerCopy h flags pa z) := by
  unfold Machine.answerCopy
  repeat' first
    | with_reducible assumption
    | exact hl.of rfl
    | (with_reducible apply Frame.netSend)
    | (with_reducible apply Frame.ite)

theorem Frame.reply {l : List Blk} {s z : State} (hl : Sub [.counters, .dict, .mbx] l)
    (hk : Frame l s z) (h : ReqHead) (r : Reply) :
    Frame l s (Machine.reply h r z) := by
  unfold Machine.reply
  repeat' first
    | with_reducible assumption
    | exact hl.of rfl
    | (with_reducible apply Frame.answer)
    | (with_reducible apply Frame.modMbx)
    | ((with_reducible apply Frame.modDict) <;> first | exact fun _ _ => rfl | exact fun h => hl.not rfl h | skip)
    | (with_reducible apply Frame.ite)
    | split

theorem Frame.answerAct {l : List Blk} {s z : State} (hl : Sub [.counters, .dict, .mbx] l)
    (hk : Frame l s z) (a : LongAct) (abort : Option Nat) :
    Frame l s (Machine.answerAct a abort z) := by
  unfold Machine.answerAct
  repeat' first
    | with_reducible assumption
    | exact hl.of rfl
    | (with_reducible apply Frame.answer)
    | (with_reducible apply Frame.answerCopy)
    | ((with_reducible apply Frame.modDict) <;> first | exact fun _ _ => rfl | exact fun h => hl.not rfl h | skip)
    | (with_reducible apply Frame.ite)
    | (with_reducible refine Frame.foldl _ (fun _ _ _ => ?_) ?_)
    | (with_reducible refine Frame.foldl_fst _ (fun _ _ _ => ?_) ?_)
    | (with_reducible refine Frame.foldl_snd _ (fun _ _ _ => ?_) ?_)
    | split

theorem Frame.guarded {l : List Blk} {s z : State} (_ : Sub [] l) (hk : Frame l s z) (h : Handler) (hh : ∀ q y, Frame l s y → Frame l s (h q y).1) (q : Req) :
    Frame l s (Machine.guarded h q z).1 := by
  unfold Machine.guarded
  split
  · exact hk
  · exact hh q z hk

theorem Frame.mbxServe {l : List Blk} {s z : State} (hl : Sub [.counters, .dict, .mbx] l) (hk : Frame l s z) (mine : Msg → Bool) (h : Handler)
    (hh : ∀ q y, Frame l s y → Frame l s (h q y).1) (flash : Bool) : Frame l s (Machine.mbxServe mine h flash z) := by
  unfold Machine.mbxServe
  repeat' first
    | with_reducible assumption
    | exact hl.of rfl
    | (with_reducible apply Frame.ite)
    | (with_reducible apply Frame.reply)
    | (with_reducible refine Frame.guarded ?_ ?_ h hh _)
    | (with_reducible apply Frame.modMbx)
    | split

theorem Frame.mbxHeader {l : List Blk} {s z : State} (hl : Sub [.counters, .mbx] l)
    (hk : Frame l s z) :
    Frame l s (Machine.mbxHeader z) := by
  unfold Machine.mbxHeader
  repeat' first
    | with_reducible assumption
    | exact hl.of rfl
    | (with_reducible apply Frame.count)
    | (with_reducible apply Frame.mbxRespond)
    | (with_reducible apply Frame.modMbx)
    | (with_reducible refine Frame.forEach _ (fun _ _ _ => ?_) ?_)
    | (with_reducible apply Frame.ite)
    | split
    | exact Frame.upd hk rfl (fun b n => by cases b <;> first | rfl | exact hl.not rfl n)
    | dsimp only

theorem Frame.rateTake {l : List Blk} {s z : State} (hl : Sub [.dict] l)
    (hk : Frame l s z) (t : Nat) :
    Frame l s (Machine.rateTake t z) := by
  unfold Machine.rateTake
  repeat' first
    | with_reducible assumption
    | exact hl.of rfl
    | ((with_reducible apply Frame.modDict) <;> first | exact fun _ _ => rfl | exact fun h => hl.not rfl h | skip)

theorem Frame.authFail {l : List Blk} {s z : State} (hl : Sub [.counters] l)
    (hk : Frame l s z) (sub : Nat) :
    Frame l s (Machine.authFail sub z) := by
  unfold Machine.authFail
  repeat' first
    | with_reducible assumption
    | exact hl.of rfl
    | (with_reducible apply Frame.raise)
    | (with_reducible apply Frame.count)

theorem Frame.netCarry {l : List Blk} {s z : State} (hl : Sub [.counters, .dict, .mbx] l) (hk : Frame l s z) (h : Handler) (post : Req → State → State)
    (hh : ∀ q y, Frame l s y → Frame l s (h q y).1)
    (hp : ∀ q y, Frame l s y → Frame l s (post q y)) (flash : Bool) (n : Nat) (port : Option Nat) (m : Msg) :
    Frame l s (Machine.netCarry h post flash n port m z) := by
  unfold Machine.netCarry
  dsimp only
  repeat' first
    | with_reducible assumption
    | exact hl.of rfl
    | (with_reducible apply Frame.netSend)
    | (with_reducible apply Frame.ite)
    | ((with_reducible apply Frame.modDict) <;> first | exact fun _ _ => rfl | exact fun h => hl.not rfl h | skip)
    | (with_reducible apply Frame.reply)
    | (with_reducible refine hh _ _ ?_)
    | (with_reducible refine hp _ _ ?_)
    | split

theorem Frame.epochAnswer {l : List Blk} {s z : State} (hl : Sub [.counters, .dict] l)
    (hk : Frame l s z) (t n : Nat) (port : Option Nat) (m : Msg) :
    Frame l s (Machine.epochAnswer t n port m z) := by
  unfold Machine.epochAnswer
  repeat' first
    | with_reducible assumption
    | exact hl.of rfl
    | (with_reducible apply Frame.setSession)
    | (with_reducible apply Frame.count)
    | (with_reducible apply Frame.netSend)
    | (with_reducible apply Frame.setSession)
    | (with_reducible apply Frame.ite)

theorem Frame.netServe {l : List Blk} {s z : State} (hl : Sub [.counters, .dict, .mbx] l) (hk : Frame l s z) (mine : Msg → Bool) (h : Handler)
    (post : Req → State → State) (hh : ∀ q y, Frame l s y → Frame l s (h q y).1)
    (hp : ∀ q y, Frame l s y → Frame l s (post q y)) (flash : Bool) (t : Nat) (port : Option Nat) (addr b : Bytes) :
    Frame l s (Machine.netServe mine h post flash t port addr b z) := by
  unfold Machine.netServe
  repeat' first
    | with_reducible assumption
    | exact hl.of rfl
    | (with_reducible apply Frame.ite)
    | (with_reducible apply Frame.count)
    | (with_reducible apply Frame.authFail)
    | (with_reducible apply Frame.gmacWork)
    | (with_reducible apply Frame.rateTake)
    | (with_reducible apply Frame.epochAnswer)
    | (with_reducible apply Frame.setSession)
    | (with_reducible refine Frame.netCarry ?_ ?_ h post hh hp _ _ _ _)

theorem Frame.fdpServe {l : List Blk} {s z : State} (hl : Sub [.counters, .dict, .mbx] l) (hk : Frame l s z) (mine : Msg → Bool) (h : Handler)
    (post : Req → State → State) (hh : ∀ q y, Frame l s y → Frame l s (h q y).1)
    (hp : ∀ q y, Frame l s y → Frame l s (post q y)) (r : Rq) : Frame l s (Machine.fdpServe mine h post r z) := by
  unfold Machine.fdpServe
  dsimp only
  split
  · exact Frame.mbxServe (hl.of rfl) (Frame.advance (hl.of rfl) hk _) mine h hh _
  · exact Frame.netServe (hl.of rfl) (Frame.advance (hl.of rfl) hk _) mine h post hh hp _ _ _ _ _

theorem Frame.action {l : List Blk} {s z : State} (_ : Sub [] l) (hk : Frame l s z) (own : Req → State → List Nat) (go : Handler)
    (hgo : ∀ q y, Frame l s y → Frame l s (go q y).1) (q : Req) : Frame l s (Machine.action own go q z).1 := by
  unfold Machine.action
  dsimp only
  split
  · exact hk
  · exact hgo q z hk

theorem Frame.blobOr {l : List Blk} {s : State}
    (blob : Req → Bytes) (bad : State → Bytes → Option Nat)
    (count : State → Bytes → State) (go : Handler) (hc : ∀ y b, Frame l s y → Frame l s (count y b))
    (hgo : ∀ q y, Frame l s y → Frame l s (go q y).1) (q : Req) (y : State) (k : Frame l s y) :
    Frame l s (Machine.blobOr blob bad count go q y).1 := by
  unfold Machine.blobOr
  split
  · exact hc _ _ k
  · exact hgo q y k

theorem Frame.serveAction {l : List Blk} {s z : State} (hl : Sub [.counters, .dict, .mbx] l) (hk : Frame l s z) (mine : Nat → Nat → Bool)
    (own : Req → State → List Nat) (go : Handler) (hgo : ∀ q y, Frame l s y → Frame l s (go q y).1) (r : Rq) :
    Frame l s (Machine.serveAction mine own go r z) :=
  Frame.fdpServe hl hk _ _ _ (fun q _ ky => Frame.action (hl.of rfl) ky own go hgo q) (fun _ _ ky => ky) r

end Sys2Proof
end

