-- ==== Sys2Proof/Laws/FrameBuffers.lean ====
section
/-! SUPPORT. Which blocks the operations of Machine/Buffers.lean may change. -/

namespace Sys2Proof
open Machine

theorem Frame.lowCheck {l : List Blk} {s z : State} (hl : Sub [.buf] l)
    (hk : Frame l s z) (die : Nat) :
    Frame l s (Machine.lowCheck die z) := by
  unfold Machine.lowCheck
  repeat' first
    | with_reducible assumption
    | exact hl.of rfl
    | (with_reducible apply Frame.setBufDie)
    | (with_reducible apply Frame.raiseDie)
    | (with_reducible apply Frame.setBufDie)
    | (with_reducible apply Frame.ite)

theorem Frame.lowCheckAll {l : List Blk} {s z : State} (hl : Sub [.buf] l)
    (hk : Frame l s z) :
    Frame l s (Machine.lowCheckAll z) := by
  unfold Machine.lowCheckAll
  repeat' first
    | with_reducible assumption
    | exact hl.of rfl
    | (with_reducible apply Frame.lowCheck)
    | (with_reducible refine Frame.forEach _ (fun _ _ _ => ?_) ?_)

theorem Frame.bufRefuse {l : List Blk} {s z : State} (hl : Sub [.counters, .buf] l)
    (hk : Frame l s z) (die owner : Nat) :
    Frame l s (Machine.bufRefuse die owner z) := by
  unfold Machine.bufRefuse
  repeat' first
    | with_reducible assumption
    | exact hl.of rfl
    | (with_reducible apply Frame.setBufDie)
    | (with_reducible apply Frame.count)

theorem Frame.admitFrame {l : List Blk} {s z : State} (hl : Sub [.id, .counters, .buf] l)
    (hk : Frame l s z) (die q owner len refs : Nat) :
    Frame l s (Machine.admitFrame die q owner len refs z).2 := by
  unfold Machine.admitFrame
  repeat' first
    | with_reducible assumption
    | exact hl.of rfl
    | (with_reducible apply Frame.setBufDie)
    | (with_reducible apply Frame.count)
    | (with_reducible apply Frame.lowCheck)
    | (with_reducible apply Frame.bufRefuse)
    | (with_reducible apply Frame.modBuf)
    | (with_reducible apply Frame.setBufDie)
    | (with_reducible apply Frame.ticket)
    | (with_reducible apply Frame.ite)
    | (with_reducible apply Frame.ite_fst)
    | (with_reducible apply Frame.ite_snd)
    | (refine Frame.of_eq_snd (by assumption) ?_)
    | split
    | exact Frame.upd hk rfl (fun b n => by cases b <;> first | rfl | exact hl.not rfl n)
    | dsimp only

theorem Frame.freeCell {l : List Blk} {s z : State} (hl : Sub [.counters, .buf] l)
    (hk : Frame l s z) (die : Nat) (pipe : Option Nat) (owner c : Nat) :
    Frame l s (Machine.freeCell die pipe owner c z) := by
  unfold Machine.freeCell
  repeat' first
    | with_reducible assumption
    | exact hl.of rfl
    | (with_reducible apply Frame.setBufDie)
    | (with_reducible apply Frame.raiseDie)
    | (with_reducible apply Frame.count)
    | (with_reducible apply Frame.modBuf)
    | (with_reducible apply Frame.setBufDie)
    | (with_reducible apply Frame.ite)
    | split

theorem Frame.freeCellList {l : List Blk} {s z : State} (hl : Sub [.counters, .buf] l)
    (hk : Frame l s z) (die : Nat) (pipe : Option Nat) (owner : Nat) (cells : List Nat) :
    Frame l s (Machine.freeCellList die pipe owner cells z) := by
  unfold Machine.freeCellList
  repeat' first
    | with_reducible assumption
    | exact hl.of rfl
    | (with_reducible apply Frame.lowCheck)
    | (with_reducible apply Frame.freeCell)
    | (with_reducible refine Frame.forEach _ (fun _ _ _ => ?_) ?_)

theorem Frame.dropStored {l : List Blk} {s z : State} (hl : Sub [.buf] l)
    (hk : Frame l s z) (sid : Nat) :
    Frame l s (Machine.dropStored sid z) := by
  unfold Machine.dropStored
  repeat' first
    | with_reducible assumption
    | exact hl.of rfl
    | (with_reducible apply Frame.modBuf)

theorem Frame.releaseCopy {l : List Blk} {s z : State} (hl : Sub [.counters, .buf] l)
    (hk : Frame l s z) (sid : Nat) (pipe : Option Nat) :
    Frame l s (Machine.releaseCopy sid pipe z) := by
  unfold Machine.releaseCopy
  repeat' first
    | with_reducible assumption
    | exact hl.of rfl
    | (with_reducible apply Frame.freeCellList)
    | (with_reducible apply Frame.dropStored)
    | (with_reducible apply Frame.modBuf)
    | (with_reducible apply Frame.ite)
    | split

theorem Frame.changeStored {l : List Blk} {s z : State} (hl : Sub [.buf] l)
    (hk : Frame l s z) (sid : Nat) (f : Stored → Stored) :
    Frame l s (Machine.changeStored sid f z) := by
  unfold Machine.changeStored
  repeat' first
    | with_reducible assumption
    | exact hl.of rfl
    | (with_reducible apply Frame.modBuf)

theorem Frame.storeCopies {l : List Blk} {s z : State} (hl : Sub [.id, .counters, .buf] l)
    (hk : Frame l s z) (die q owner frame : Nat) (b : Bytes) (refs : Nat) :
    Frame l s (Machine.storeCopies die q owner frame b refs z).2 := by
  unfold Machine.storeCopies
  repeat' first
    | with_reducible assumption
    | exact hl.of rfl
    | (with_reducible apply Frame.admitFrame)
    | (with_reducible apply Frame.changeStored)
    | (refine Frame.of_eq_snd (by assumption) ?_)
    | split

theorem Frame.eccError {l : List Blk} {s z : State} (hl : Sub [.counters] l)
    (hk : Frame l s z) (die : Nat) :
    Frame l s (Machine.eccError die z) := by
  unfold Machine.eccError
  repeat' first
    | with_reducible assumption
    | exact hl.of rfl
    | (with_reducible apply Frame.raiseDie)
    | (with_reducible apply Frame.count)

theorem Frame.linkError {l : List Blk} {s z : State} (hl : Sub [.counters, .buf] l)
    (hk : Frame l s z) (sid place : Nat) (pipe : Option Nat) :
    Frame l s (Machine.linkError sid place pipe z) := by
  unfold Machine.linkError
  repeat' first
    | with_reducible assumption
    | exact hl.of rfl
    | (with_reducible apply Frame.setBufDie)
    | (with_reducible apply Frame.lowCheck)
    | (with_reducible apply Frame.freeCellList)
    | (with_reducible apply Frame.dropStored)
    | (with_reducible apply Frame.eccError)
    | (with_reducible apply Frame.setBufDie)
    | split

theorem Frame.bufFaultAt {l : List Blk} {s z : State} (hl : Sub [.counters, .buf] l)
    (hk : Frame l s z) (die : Nat) (f : BufFault) :
    Frame l s (Machine.bufFaultAt die f z) := by
  unfold Machine.bufFaultAt
  repeat' first
    | with_reducible assumption
    | exact hl.of rfl
    | (with_reducible apply Frame.setBufDie)
    | (with_reducible apply Frame.count)
    | (with_reducible apply Frame.lowCheck)
    | (with_reducible apply Frame.freeCell)
    | (with_reducible apply Frame.eccError)
    | (with_reducible apply Frame.setBufDie)
    | (with_reducible apply Frame.ite)
    | split

theorem Frame.clearLatches {l : List Blk} {s z : State} (hl : Sub [.buf] l)
    (hk : Frame l s z) :
    Frame l s (Machine.clearLatches z) := by
  unfold Machine.clearLatches
  repeat' first
    | with_reducible assumption
    | exact hl.of rfl
    | (with_reducible apply Frame.modBuf)

theorem Frame.releaseOwner {l : List Blk} {s z : State} (hl : Sub [.buf] l)
    (hk : Frame l s z) (owner : Nat) :
    Frame l s (Machine.releaseOwner owner z) := by
  unfold Machine.releaseOwner
  repeat' first
    | with_reducible assumption
    | exact hl.of rfl
    | (with_reducible apply Frame.modBuf)
    | (with_reducible apply Frame.ite)

end Sys2Proof
end

