-- ==== Sys2Proof/Laws/FrameQueues.lean ====
section
/-! SUPPORT. Which blocks the operations of Machine/Queues.lean may change. -/

namespace Sys2Proof
open Machine

theorem Frame.setHostFrames {l : List Blk} {s z : State} (hl : Sub [.buf] l)
    (hk : Frame l s z) (fn q : Nat) (l1 : List HFrame) :
    Frame l s (Machine.setHostFrames fn q l1 z) := by
  unfold Machine.setHostFrames
  repeat' first
    | with_reducible assumption
    | exact hl.of rfl
    | (with_reducible apply Frame.modBuf)

theorem Frame.dropPlace {l : List Blk} {s z : State} (hl : Sub [.counters, .buf] l)
    (hk : Frame l s z) (h : HFrame) :
    Frame l s (Machine.dropPlace h z) := by
  unfold Machine.dropPlace
  repeat' first
    | with_reducible assumption
    | exact hl.of rfl
    | (with_reducible apply Frame.releaseCopy)
    | split

theorem Frame.discardHeld {l : List Blk} {s z : State} (hl : Sub [.counters, .buf] l)
    (hk : Frame l s z) (fn q : Nat) :
    Frame l s (Machine.discardHeld fn q z) := by
  unfold Machine.discardHeld
  repeat' first
    | with_reducible assumption
    | exact hl.of rfl
    | (with_reducible apply Frame.countPolder)
    | (with_reducible apply Frame.setHostFrames)
    | (with_reducible apply Frame.dropPlace)
    | (with_reducible refine Frame.forEach _ (fun _ _ _ => ?_) ?_)
    | split

theorem Frame.askPage {l : List Blk} {s z : State} (hl : Sub [.ep] l)
    (hk : Frame l s z) (w : Requester) (addr : Nat) :
    Frame l s (Machine.askPage w addr z) := by
  unfold Machine.askPage
  repeat' first
    | with_reducible assumption
    | exact hl.of rfl
    | (with_reducible apply Frame.emit)
    | ((with_reducible apply Frame.modEp) <;> first | exact fun _ _ => rfl | exact fun h => hl.not rfl h | skip)
    | (with_reducible apply Frame.ite)

theorem Frame.dmaWrite {l : List Blk} {s z : State} (hl : Sub [.ep] l)
    (hk : Frame l s z) (w : Requester) (addr : Nat) (data : Bytes) :
    Frame l s (Machine.dmaWrite w addr data z) := by
  unfold Machine.dmaWrite
  repeat' first
    | with_reducible assumption
    | exact hl.of rfl
    | (with_reducible apply Frame.countEv)
    | (with_reducible apply Frame.askPage)
    | (with_reducible apply Frame.emit)
    | (with_reducible refine Frame.forEach _ (fun _ _ _ => ?_) ?_)
    | (with_reducible apply Frame.ite)

theorem Frame.memWrite {l : List Blk} {s z : State} (hl : Sub [.ep, .siphon] l)
    (hk : Frame l s z) (w : Requester) (addr : Nat) (data : Bytes) :
    Frame l s (Machine.memWrite w addr data z) := by
  unfold Machine.memWrite
  repeat' first
    | with_reducible assumption
    | exact hl.of rfl
    | (with_reducible apply Frame.ddrWrite)
    | (with_reducible apply Frame.dmaWrite)
    | (with_reducible apply Frame.ite)

theorem Frame.acsReport {l : List Blk} {s z : State} (hl : Sub [.counters, .funcs] l)
    (hk : Frame l s z) (fn : Nat) :
    Frame l s (Machine.acsReport fn z) := by
  unfold Machine.acsReport
  repeat' first
    | with_reducible assumption
    | exact hl.of rfl
    | (with_reducible apply Frame.setFunc)
    | (with_reducible apply Frame.count)

theorem Frame.emitRead {l : List Blk} {s z : State} (hl : Sub [.ep] l)
    (hk : Frame l s z) (tag : Nat) (w : Requester) (addr len : Nat) :
    Frame l s (Machine.emitRead tag w addr len z) := by
  unfold Machine.emitRead
  repeat' first
    | with_reducible assumption
    | exact hl.of rfl
    | (with_reducible apply Frame.askPage)
    | (with_reducible apply Frame.emit)

theorem Frame.readNow {l : List Blk} {s z y : State} (hl : Sub [.ep] l) (hk : Frame l s z) {w : Requester} {segs : List (Nat × Nat)}
    (h : Machine.readNow w segs z = some y) : Frame l s y := by
  unfold Machine.readNow at h
  repeat' split at h
  all_goals simp only [reduceCtorEq, Option.some.injEq] at h
  · subst h; exact hk
  · subst h
    with_reducible apply Frame.dmaBytesRead (hl.of rfl)
    with_reducible refine Frame.forEach _ (fun _ _ h => ?_) hk
    exact Frame.emitRead (hl.of rfl) h _ _ _ _

theorem Frame.issuePart {l : List Blk} {s z : State} (hl : Sub [.ep] l)
    (hk : Frame l s z) (r : Read) :
    Frame l s (Machine.issuePart r z) := by
  unfold Machine.issuePart
  repeat' first
    | with_reducible assumption
    | exact hl.of rfl
    | (with_reducible apply Frame.askPage)
    | (with_reducible apply Frame.emitRead)
    | ((with_reducible apply Frame.modEp) <;> first | exact fun _ _ => rfl | exact fun h => hl.not rfl h | skip)
    | (with_reducible apply Frame.ite)
    | (with_reducible apply Frame.ite_fst)
    | (with_reducible apply Frame.ite_snd)
    | split

theorem Frame.issueParts {l : List Blk} {s z : State} (hl : Sub [.ep] l)
    (hk : Frame l s z) :
    Frame l s (Machine.issueParts z) := by
  unfold Machine.issueParts
  repeat' first
    | with_reducible assumption
    | exact hl.of rfl
    | (with_reducible apply Frame.issuePart)
    | (with_reducible refine Frame.forEach _ (fun _ _ _ => ?_) ?_)

theorem Frame.startReads {l : List Blk} {s z : State} (hl : Sub [.ep] l)
    (hk : Frame l s z) (w : Requester) (what : ReadFor) (segs : List (Nat × Nat)) :
    Frame l s (Machine.startReads w what segs z) := by
  unfold Machine.startReads
  repeat' first
    | with_reducible assumption
    | exact hl.of rfl
    | (with_reducible apply Frame.issueParts)
    | ((with_reducible apply Frame.modEp) <;> first | exact fun _ _ => rfl | exact fun h => hl.not rfl h | skip)
    | (with_reducible apply Frame.ite)

theorem Frame.dropReads {l : List Blk} {s z : State} (hl : Sub [.ep] l)
    (hk : Frame l s z) (p : Read → Bool) :
    Frame l s (Machine.dropReads p z) := by
  unfold Machine.dropReads
  repeat' first
    | with_reducible assumption
    | exact hl.of rfl
    | ((with_reducible apply Frame.modEp) <;> first | exact fun _ _ => rfl | exact fun h => hl.not rfl h | skip)

theorem Frame.errorVectors {l : List Blk} {s z : State} (hl : Sub [] l)
    (hk : Frame l s z) (fn q : Nat) :
    Frame l s (Machine.errorVectors fn q z) := by
  unfold Machine.errorVectors
  repeat' first
    | with_reducible assumption
    | exact hl.of rfl
    | (with_reducible apply Frame.signal)
    | (with_reducible apply Frame.ite)

theorem Frame.queueError {l : List Blk} {s z : State} (hl : Sub [.counters, .buf, .polders, .wq] l)
    (hk : Frame l s z) (fn q status reason errIdx kind : Nat) (marks : List Bytes) :
    Frame l s (Machine.queueError fn q status reason errIdx kind marks z) := by
  unfold Machine.queueError
  repeat' first
    | with_reducible assumption
    | exact hl.of rfl
    | (with_reducible apply Frame.setQueue)
    | (with_reducible apply Frame.polderFault)
    | (with_reducible apply Frame.discardHeld)
    | (with_reducible apply Frame.errorVectors)
    | (with_reducible apply Frame.setQueue)
    | (with_reducible apply Frame.ite)

theorem Frame.malformed {l : List Blk} {s z : State} (hl : Sub [.counters, .buf, .polders, .wq] l)
    (hk : Frame l s z) (fn q idx reason : Nat) (e : Bytes) :
    Frame l s (Machine.malformed fn q idx reason e z) := by
  unfold Machine.malformed
  repeat' first
    | with_reducible assumption
    | exact hl.of rfl
    | (with_reducible apply Frame.countFor)
    | (with_reducible apply Frame.queueError)

theorem Frame.queueMasterOff {l : List Blk} {s z : State} (hl : Sub [.counters, .buf, .polders, .wq] l)
    (hk : Frame l s z) (fn q : Nat) :
    Frame l s (Machine.queueMasterOff fn q z) := by
  unfold Machine.queueMasterOff
  repeat' first
    | with_reducible assumption
    | exact hl.of rfl
    | (with_reducible apply Frame.setQueue)
    | (with_reducible apply Frame.polderFault)
    | (with_reducible apply Frame.discardHeld)
    | (with_reducible apply Frame.errorVectors)
    | (with_reducible apply Frame.setQueue)
    | (with_reducible apply Frame.ite)

theorem Frame.refuseRequest {l : List Blk} {s z : State} (hl : Sub [.counters, .buf, .funcs, .polders, .wq] l)
    (hk : Frame l s z) (fn q idx : Nat) (marks : List Bytes) :
    Frame l s (Machine.refuseRequest fn q idx marks z) := by
  unfold Machine.refuseRequest
  repeat' first
    | with_reducible assumption
    | exact hl.of rfl
    | (with_reducible apply Frame.acsReport)
    | (with_reducible apply Frame.queueError)
    | (with_reducible apply Frame.ite)

theorem Frame.queueWrite {l : List Blk} {s z : State} (hl : Sub [.counters, .buf, .ep, .funcs, .polders, .wq, .siphon] l)
    (hk : Frame l s z) (fn q idx addr : Nat) (marks : List Bytes) (data : Bytes) :
    Frame l s (Machine.queueWrite fn q idx addr marks data z) := by
  unfold Machine.queueWrite
  repeat' first
    | with_reducible assumption
    | exact hl.of rfl
    | (with_reducible apply Frame.memWrite)
    | (with_reducible apply Frame.refuseRequest)
    | (with_reducible apply Frame.ite)

theorem Frame.moderate {l : List Blk} {s z : State} (hl : Sub [.wq] l)
    (hk : Frame l s z) (fn q : Nat) :
    Frame l s (Machine.moderate fn q z) := by
  unfold Machine.moderate
  repeat' first
    | with_reducible assumption
    | exact hl.of rfl
    | (with_reducible apply Frame.setQueue)
    | (with_reducible apply Frame.signal)
    | (with_reducible apply Frame.setQueue)
    | (with_reducible apply Frame.ite)

theorem Frame.cqStops {l : List Blk} {s z : State} (hl : Sub [.counters, .buf, .funcs, .polders, .wq] l)
    (hk : Frame l s z) (fn q : Nat) :
    Frame l s (Machine.cqStops fn q z) := by
  unfold Machine.cqStops
  repeat' first
    | with_reducible assumption
    | exact hl.of rfl
    | (with_reducible apply Frame.refuseRequest)

theorem Frame.writeCompletion {l : List Blk} {s z : State} (hl : Sub [.ep, .wq] l)
    (hk : Frame l s z) (fn q : Nat) (c : Cpl) (n : Nat) :
    Frame l s (Machine.writeCompletion fn q c n z) := by
  unfold Machine.writeCompletion
  repeat' first
    | with_reducible assumption
    | exact hl.of rfl
    | (with_reducible apply Frame.setQueue)
    | (with_reducible apply Frame.dmaWrite)
    | (with_reducible apply Frame.moderate)

theorem Frame.writeMirror {l : List Blk} {s z : State} (hl : Sub [.counters, .buf, .ep, .funcs, .polders, .wq] l)
    (hk : Frame l s z) (fn q idx : Nat) :
    Frame l s (Machine.writeMirror fn q idx z) := by
  unfold Machine.writeMirror
  repeat' first
    | with_reducible assumption
    | exact hl.of rfl
    | (with_reducible apply Frame.setQueue)
    | (with_reducible apply Frame.dmaWrite)
    | (with_reducible apply Frame.refuseRequest)
    | (with_reducible apply Frame.moderate)
    | (with_reducible apply Frame.setQueue)
    | (with_reducible apply Frame.ite)

theorem Frame.holdCpl {l : List Blk} {s z : State} (hl : Sub [.wq] l)
    (hk : Frame l s z) (fn q : Nat) (c : Cpl) :
    Frame l s (Machine.holdCpl fn q c z) := by
  unfold Machine.holdCpl
  repeat' first
    | with_reducible assumption
    | exact hl.of rfl
    | (with_reducible apply Frame.setQueue)

theorem Frame.noRoom {l : List Blk} {s z : State} (hl : Sub [.counters, .buf, .ep, .funcs, .polders, .wq] l)
    (hk : Frame l s z) (fn q : Nat) (c : Cpl) :
    Frame l s (Machine.noRoom fn q c z) := by
  unfold Machine.noRoom
  repeat' first
    | with_reducible assumption
    | exact hl.of rfl
    | (with_reducible apply Frame.setQueue)
    | (with_reducible apply Frame.countFor)
    | (with_reducible apply Frame.writeMirror)
    | (with_reducible apply Frame.holdCpl)
    | (with_reducible apply Frame.setQueue)
    | (with_reducible apply Frame.ite)

theorem Frame.deliver {l : List Blk} {s z : State} (hl : Sub [.counters, .buf, .ep, .funcs, .polders, .wq] l)
    (hk : Frame l s z) (fn q : Nat) (c : Cpl) :
    Frame l s (Machine.deliver fn q c z) := by
  unfold Machine.deliver
  repeat' first
    | with_reducible assumption
    | exact hl.of rfl
    | (with_reducible apply Frame.cqStops)
    | (with_reducible apply Frame.writeCompletion)
    | (with_reducible apply Frame.writeMirror)
    | (with_reducible apply Frame.noRoom)
    | (with_reducible apply Frame.ite)

theorem Frame.drainEnd {l : List Blk} {s z : State} (hl : Sub [.wq] l)
    (hk : Frame l s z) (fn q : Nat) :
    Frame l s (Machine.drainEnd fn q z) := by
  unfold Machine.drainEnd
  repeat' first
    | with_reducible assumption
    | exact hl.of rfl
    | (with_reducible apply Frame.setQueue)
    | (with_reducible apply Frame.setQueue)
    | (with_reducible apply Frame.ite)

theorem Frame.errorCpl {l : List Blk} {s z : State} (hl : Sub [.free] l)
    (hk : Frame l s z) (x : Queue) (c : Chain) :
    Frame l s (Machine.errorCpl x c z).2 := by
  unfold Machine.errorCpl
  repeat' first
    | with_reducible assumption
    | exact hl.of rfl
    | (with_reducible apply Frame.drawNat)
    | (with_reducible apply Frame.ite)
    | (with_reducible apply Frame.ite_fst)
    | (with_reducible apply Frame.ite_snd)

theorem Frame.finishOldest {l : List Blk} {s z : State} (hl : Sub [.free, .counters, .buf, .ep, .funcs, .polders, .wq] l)
    (hk : Frame l s z) (fn q : Nat) :
    Frame l s (Machine.finishOldest fn q z) := by
  unfold Machine.finishOldest
  repeat' first
    | with_reducible assumption
    | exact hl.of rfl
    | (with_reducible apply Frame.setQueue)
    | (with_reducible apply Frame.queueError)
    | (with_reducible apply Frame.deliver)
    | (with_reducible apply Frame.drainEnd)
    | (with_reducible apply Frame.errorCpl)
    | (with_reducible apply Frame.setQueue)
    | (with_reducible apply Frame.ite)
    | (with_reducible apply Frame.ite_fst)
    | (with_reducible apply Frame.ite_snd)
    | split
    | exact Frame.upd hk rfl (fun b n => by cases b <;> first | rfl | exact hl.not rfl n)
    | dsimp only

theorem Frame.releaseWaiting {l : List Blk} {s z : State} (hl : Sub [.counters, .buf, .ep, .funcs, .polders, .wq] l)
    (hk : Frame l s z) (fn q : Nat) (a0 : Nat) :
    Frame l s (Machine.releaseWaiting fn q a0 z) := by
  induction a0 generalizing z with
  | zero => exact hk
  | succ n ih =>
    unfold Machine.releaseWaiting
    try dsimp only
    repeat' first
      | with_reducible assumption
      | exact hl.of rfl
      | (with_reducible apply ih)
      | (with_reducible apply Frame.setQueue)
      | (with_reducible apply Frame.cqStops)
      | (with_reducible apply Frame.writeCompletion)
      | (with_reducible apply Frame.setQueue)
      | (with_reducible apply Frame.ite)
      | split

theorem Frame.updChain {l : List Blk} {s z : State} (hl : Sub [.wq] l)
    (hk : Frame l s z) (fn q first : Nat) (f : Chain → Chain) :
    Frame l s (Machine.updChain fn q first f z) := by
  unfold Machine.updChain
  repeat' first
    | with_reducible assumption
    | exact hl.of rfl
    | (with_reducible apply Frame.setQueue)

theorem Frame.finishChain {l : List Blk} {s z : State} (hl : Sub [.wq] l)
    (hk : Frame l s z) (fn q first status result : Nat) :
    Frame l s (Machine.finishChain fn q first status result z) := by
  unfold Machine.finishChain
  repeat' first
    | with_reducible assumption
    | exact hl.of rfl
    | (with_reducible apply Frame.updChain)

end Sys2Proof
end

