-- ==== Sys2Proof/Laws/FrameKeys.lean ====
section
/-! SUPPORT. Which blocks the operations of Machine/Keys.lean may change. -/

namespace Sys2Proof
open Machine

theorem Frame.unwrapRefused {l : List Blk} {s z : State} (hl : Sub [.counters] l)
    (hk : Frame l s z) (fn status : Nat) :
    Frame l s (Machine.unwrapRefused fn status z) := by
  unfold Machine.unwrapRefused
  repeat' first
    | with_reducible assumption
    | exact hl.of rfl
    | (with_reducible apply Frame.raise)
    | (with_reducible apply Frame.countFor)
    | (with_reducible apply Frame.ite)

theorem Frame.loadSlot {l : List Blk} {s z : State} (hl : Sub [.cipher] l)
    (hk : Frame l s z) (g : Nat) (b : Blob) :
    Frame l s (Machine.loadSlot g b z) := by
  unfold Machine.loadSlot
  repeat' first
    | with_reducible assumption
    | exact hl.of rfl
    | (with_reducible apply Frame.setKeySlot)

theorem Frame.clearSlot {l : List Blk} {s z : State} (hl : Sub [.cipher] l)
    (hk : Frame l s z) (g : Nat) :
    Frame l s (Machine.clearSlot g z) := by
  unfold Machine.clearSlot
  repeat' first
    | with_reducible assumption
    | exact hl.of rfl
    | (with_reducible apply Frame.setKeySlot)

theorem Frame.unwrapBlob {l : List Blk} {s z : State} (hl : Sub [.counters, .cipher] l)
    (hk : Frame l s z) (fn : Nat) (b : Bytes) :
    Frame l s (Machine.unwrapBlob fn b z).2 := by
  unfold Machine.unwrapBlob
  repeat' first
    | with_reducible assumption
    | exact hl.of rfl
    | (with_reducible apply Frame.unwrapRefused)
    | (with_reducible apply Frame.loadSlot)
    | split

theorem Frame.blobRefused {l : List Blk} {s z : State} (hl : Sub [.counters] l)
    (hk : Frame l s z) (b : Bytes) :
    Frame l s (Machine.blobRefused z b) := by
  unfold Machine.blobRefused
  repeat' first
    | with_reducible assumption
    | exact hl.of rfl
    | (with_reducible apply Frame.unwrapRefused)
    | (with_reducible apply Frame.ite)
    | split

theorem Frame.addUser {l : List Blk} {s z : State} (hl : Sub [.cipher] l)
    (hk : Frame l s z) (g : Nat) :
    Frame l s (Machine.addUser g z) := by
  unfold Machine.addUser
  repeat' first
    | with_reducible assumption
    | exact hl.of rfl
    | (with_reducible apply Frame.setKeySlot)

theorem Frame.dropUser {l : List Blk} {s z : State} (hl : Sub [.cipher] l)
    (hk : Frame l s z) (g : Nat) :
    Frame l s (Machine.dropUser g z) := by
  unfold Machine.dropUser
  repeat' first
    | with_reducible assumption
    | exact hl.of rfl
    | (with_reducible apply Frame.setKeySlot)

theorem Frame.sessionRekeyed {l : List Blk} {s z : State} (hl : Sub [.dict] l)
    (hk : Frame l s z) (n : Nat) (g : Nat) :
    Frame l s (Machine.sessionRekeyed n g z) := by
  unfold Machine.sessionRekeyed
  repeat' first
    | with_reducible assumption
    | exact hl.of rfl
    | (with_reducible apply Frame.setSession)
    | ((with_reducible apply Frame.modDict) <;> first | exact fun _ _ => rfl | exact fun h => hl.not rfl h | skip)

theorem Frame.clearSessionKey {l : List Blk} {s z : State} (hl : Sub [.cipher] l)
    (hk : Frame l s z) (n : Nat) :
    Frame l s (Machine.clearSessionKey n z) := by
  unfold Machine.clearSessionKey
  repeat' first
    | with_reducible assumption
    | exact hl.of rfl
    | (with_reducible apply Frame.clearSlot)
    | split

theorem Frame.loadSessionKey {l : List Blk} {s z : State} (hl : Sub [.dict, .cipher] l)
    (hk : Frame l s z) (n : Nat) (b : Bytes) :
    Frame l s (Machine.loadSessionKey n b z) := by
  unfold Machine.loadSessionKey
  repeat' first
    | with_reducible assumption
    | exact hl.of rfl
    | (with_reducible apply Frame.loadSlot)
    | (with_reducible apply Frame.addUser)
    | (with_reducible apply Frame.sessionRekeyed)
    | (with_reducible apply Frame.clearSessionKey)
    | split

end Sys2Proof
end

