-- ==== Sys2Proof/Laws/FrameWfq.lean ====
section
/-! SUPPORT. Which blocks the operations of Machine/Wfq.lean may change. -/

namespace Sys2Proof
open Machine

end Sys2Proof
end

