-- ==== Sys2Proof/Laws/FrameCipher.lean ====
section
/-! SUPPORT. Which blocks the operations of Machine/Cipher.lean may change. -/

namespace Sys2Proof
open Machine

theorem Frame.hostOp {l : List Blk} {s z : State} (hl : Sub [.counters, .buf, .ep, .funcs, .polders, .wq] l)
    (hk : Frame l s z) (fn q first : Nat) (marks : List Bytes) (segs : List (Nat × Nat)) (h : HostData) (go : Bytes → State → State) (h_go : ∀ b0 y, Frame l s y → Frame l s (go b0 y)) :
    Frame l s (Machine.hostOp fn q first marks segs h go z) := by
  unfold Machine.hostOp
  repeat' first
    | with_reducible assumption
    | exact hl.of rfl
    | (with_reducible apply h_go)
    | (with_reducible apply Frame.dmaBytesRead)
    | (with_reducible apply Frame.startReads)
    | (with_reducible apply Frame.refuseRequest)
    | (with_reducible apply Frame.ite)
    | (refine Frame.readNow ?_ ?_ (by assumption))
    | split

theorem Frame.cipherWait {l : List Blk} {s z : State} (hl : Sub [.cipher] l)
    (hk : Frame l s z) (m : CMsg) :
    Frame l s (Machine.cipherWait m z) := by
  unfold Machine.cipherWait
  repeat' first
    | with_reducible assumption
    | exact hl.of rfl
    | (with_reducible apply Frame.modCipher)
    | (with_reducible apply Frame.ite)

theorem Frame.setCore {l : List Blk} {s z : State} (hl : Sub [.cipher] l)
    (hk : Frame l s z) (k : Nat) (x : Core) :
    Frame l s (Machine.setCore k x z) := by
  unfold Machine.setCore
  repeat' first
    | with_reducible assumption
    | exact hl.of rfl
    | (with_reducible apply Frame.modCipher)

theorem Frame.endMsg {l : List Blk} {s z : State} (hl : Sub [.wq, .jrn] l)
    (hk : Frame l s z) (m : CMsg) (status : Nat) :
    Frame l s (Machine.endMsg m status z) := by
  unfold Machine.endMsg
  repeat' first
    | with_reducible assumption
    | exact hl.of rfl
    | (with_reducible apply Frame.finishChain)
    | (with_reducible apply Frame.modJrn)
    | (with_reducible apply Frame.ite)
    | split

theorem Frame.cipherDispatch {l : List Blk} {s z : State} (hl : Sub [.wq, .cipher, .jrn] l)
    (hk : Frame l s z) :
    Frame l s (Machine.cipherDispatch z) := by
  unfold Machine.cipherDispatch
  repeat' first
    | with_reducible assumption
    | exact hl.of rfl
    | (with_reducible apply Frame.setCore)
    | (with_reducible apply Frame.endMsg)
    | (with_reducible apply Frame.modCipher)
    | (with_reducible apply Frame.ite)
    | split

theorem Frame.writeSegs {l : List Blk} {s z : State} (hl : Sub [.counters, .buf, .ep, .funcs, .polders, .wq, .siphon] l)
    (hk : Frame l s z) (fn q idx : Nat) (marks : List Bytes) (a0 : List (Nat × Nat)) (a1 : Bytes) :
    Frame l s (Machine.writeSegs fn q idx marks a0 a1 z) := by
  induction a0 generalizing z a1 with
  | nil => exact hk
  | cons hd tl ih =>
    unfold Machine.writeSegs
    try dsimp only
    repeat' first
      | with_reducible assumption
      | exact hl.of rfl
      | (with_reducible apply ih)
      | (with_reducible apply Frame.queueWrite)

theorem Frame.cipherCount {l : List Blk} {s z : State} (hl : Sub [.counters] l)
    (hk : Frame l s z) (m : CMsg) :
    Frame l s (Machine.cipherCount m z) := by
  unfold Machine.cipherCount
  repeat' first
    | with_reducible assumption
    | exact hl.of rfl
    | (with_reducible apply Frame.countQ)

theorem Frame.finishCipher {l : List Blk} {s z : State} (hl : Sub [.counters, .buf, .ep, .funcs, .polders, .wq, .siphon] l)
    (hk : Frame l s z) (n : Nat) (m : CMsg) :
    Frame l s (Machine.finishCipher n m z) := by
  unfold Machine.finishCipher
  repeat' first
    | with_reducible assumption
    | exact hl.of rfl
    | (with_reducible apply Frame.countFor)
    | (with_reducible apply Frame.queueWrite)
    | (with_reducible apply Frame.finishChain)
    | (with_reducible apply Frame.writeSegs)
    | (with_reducible apply Frame.ite)
    | (with_reducible apply Frame.ite_fst)
    | (with_reducible apply Frame.ite_snd)
    | split

theorem Frame.freeCoreOf {l : List Blk} {s z : State} (hl : Sub [.cipher] l)
    (hk : Frame l s z) (k : Nat) (m : CMsg) :
    Frame l s (Machine.freeCoreOf k m z) := by
  unfold Machine.freeCoreOf
  repeat' first
    | with_reducible assumption
    | exact hl.of rfl
    | (with_reducible apply Frame.setCore)
    | (with_reducible apply Frame.modCipher)

theorem Frame.coreFault {l : List Blk} {s z : State} (hl : Sub [.counters, .wq, .cipher, .jrn] l)
    (hk : Frame l s z) (k : Nat) :
    Frame l s (Machine.coreFault k z) := by
  unfold Machine.coreFault
  repeat' first
    | with_reducible assumption
    | exact hl.of rfl
    | (with_reducible apply Frame.raise)
    | (with_reducible apply Frame.count)
    | (with_reducible apply Frame.cipherWait)
    | (with_reducible apply Frame.setCore)
    | (with_reducible apply Frame.endMsg)
    | (with_reducible apply Frame.freeCoreOf)
    | (with_reducible apply Frame.ite)
    | split

theorem Frame.cipherDrop {l : List Blk} {s z : State} (hl : Sub [.cipher] l)
    (hk : Frame l s z) (p : CMsg → Bool) :
    Frame l s (Machine.cipherDrop p z) := by
  unfold Machine.cipherDrop
  repeat' first
    | with_reducible assumption
    | exact hl.of rfl
    | (with_reducible apply Frame.freeCoreOf)
    | (with_reducible apply Frame.modCipher)
    | (with_reducible apply Frame.ite)
    | (with_reducible apply Frame.ite_fst)
    | (with_reducible apply Frame.ite_snd)
    | (with_reducible refine Frame.foldl _ (fun _ _ _ => ?_) ?_)
    | (with_reducible refine Frame.foldl_fst _ (fun _ _ _ => ?_) ?_)
    | (with_reducible refine Frame.foldl_snd _ (fun _ _ _ => ?_) ?_)
    | split

theorem Frame.cipherQueueReset {l : List Blk} {s z : State} (hl : Sub [.ep, .cipher, .siphon] l)
    (hk : Frame l s z) (fn q : Nat) :
    Frame l s (Machine.cipherQueueReset fn q z) := by
  unfold Machine.cipherQueueReset
  repeat' first
    | with_reducible assumption
    | exact hl.of rfl
    | (with_reducible apply Frame.memWrite)
    | (with_reducible apply Frame.cipherDrop)
    | (with_reducible apply Frame.ite)
    | (with_reducible apply Frame.ite_fst)
    | (with_reducible apply Frame.ite_snd)
    | (with_reducible refine Frame.foldl _ (fun _ _ _ => ?_) ?_)
    | (with_reducible refine Frame.foldl_fst _ (fun _ _ _ => ?_) ?_)
    | (with_reducible refine Frame.foldl_snd _ (fun _ _ _ => ?_) ?_)
    | split

theorem Frame.takeMessage {l : List Blk} {s z : State} (hl : Sub [.counters, .buf, .ep, .funcs, .polders, .wq, .cipher] l)
    (hk : Frame l s z) (op fn q : Nat) (h : HostData) :
    Frame l s (Machine.takeMessage op fn q h z) := by
  unfold Machine.takeMessage
  repeat' first
    | with_reducible assumption
    | exact hl.of rfl
    | (with_reducible apply Frame.updChain)
    | (with_reducible apply Frame.hostOp)
    | (with_reducible apply Frame.cipherWait)
    | (with_reducible apply Frame.ite)
    | split
    | (with_reducible intro _; try beta_reduce)

theorem Frame.singleOp {l : List Blk} {s z : State} (hl : Sub [.counters, .buf, .ep, .funcs, .polders, .wq] l)
    (hk : Frame l s z) (op fn q : Nat) (h : HostData) (go : Chain → Bytes → State → State) (h_go : ∀ b0 b1 y, Frame l s y → Frame l s (go b0 b1 y)) :
    Frame l s (Machine.singleOp op fn q h go z) := by
  unfold Machine.singleOp
  repeat' first
    | with_reducible assumption
    | exact hl.of rfl
    | (with_reducible apply h_go)
    | (with_reducible apply Frame.hostOp)
    | split

theorem Frame.unwrapOp {l : List Blk} {s z : State} (hl : Sub [.counters, .buf, .ep, .funcs, .polders, .wq, .cipher] l)
    (hk : Frame l s z) (fn q : Nat) (h : HostData) :
    Frame l s (Machine.unwrapOp fn q h z) := by
  unfold Machine.unwrapOp
  repeat' first
    | with_reducible assumption
    | exact hl.of rfl
    | (with_reducible apply Frame.finishChain)
    | (with_reducible apply Frame.unwrapBlob)
    | (with_reducible apply Frame.singleOp)
    | (refine Frame.of_eq_snd (by assumption) ?_)
    | split
    | (with_reducible intro _; try beta_reduce)

theorem Frame.wrapOp {l : List Blk} {s z : State} (hl : Sub [.counters, .buf, .ep, .funcs, .polders, .wq, .siphon] l)
    (hk : Frame l s z) (fn q : Nat) (h : HostData) :
    Frame l s (Machine.wrapOp fn q h z) := by
  unfold Machine.wrapOp
  repeat' first
    | with_reducible assumption
    | exact hl.of rfl
    | (with_reducible apply Frame.queueWrite)
    | (with_reducible apply Frame.finishChain)
    | (with_reducible apply Frame.singleOp)
    | (with_reducible intro _; try beta_reduce)

theorem Frame.cipherBack {l : List Blk} {s z : State} (hl : Sub [.counters, .buf, .ep, .funcs, .polders, .wq, .cipher, .siphon] l)
    (hk : Frame l s z) (fn q : Nat) (e : Bytes) (b : Bytes) :
    Frame l s (Machine.cipherBack fn q e b z) := by
  unfold Machine.cipherBack
  repeat' first
    | with_reducible assumption
    | exact hl.of rfl
    | (with_reducible apply Frame.takeMessage)
    | (with_reducible apply Frame.unwrapOp)
    | (with_reducible apply Frame.wrapOp)
    | (with_reducible apply Frame.ite)

theorem Frame.slotClear {l : List Blk} {s z : State} (hl : Sub [.wq, .cipher] l)
    (hk : Frame l s z) (fn q : Nat) :
    Frame l s (Machine.slotClear fn q z) := by
  unfold Machine.slotClear
  repeat' first
    | with_reducible assumption
    | exact hl.of rfl
    | (with_reducible apply Frame.finishChain)
    | (with_reducible apply Frame.clearSlot)
    | (with_reducible apply Frame.ite)
    | split

end Sys2Proof
end

