-- ==== Sys2Proof/Laws/FrameSched.lean ====
section
/-! SUPPORT. Which blocks the operations of Machine/Sched.lean may change. -/

namespace Sys2Proof
open Machine

theorem Frame.burstsChanged {l : List Blk} {s z : State} (hl : Sub [.sched] l)
    (hk : Frame l s z) (old : (State)) (port : Nat) :
    Frame l s (Machine.burstsChanged old port z) := by
  unfold Machine.burstsChanged
  repeat' first
    | with_reducible assumption
    | exact hl.of rfl
    | (with_reducible apply Frame.setPsched)

theorem Frame.queueCount {l : List Blk} {s z : State} (hl : Sub [.sched] l)
    (hk : Frame l s z) (port tc k n : Nat) :
    Frame l s (Machine.queueCount port tc k n z) := by
  unfold Machine.queueCount
  repeat' first
    | with_reducible assumption
    | exact hl.of rfl
    | (with_reducible apply Frame.setPsched)
    | (with_reducible apply Frame.countEv)

theorem Frame.underrunCount {l : List Blk} {s z : State} (hl : Sub [.sched] l)
    (hk : Frame l s z) (port : Nat) :
    Frame l s (Machine.underrunCount port z) := by
  unfold Machine.underrunCount
  repeat' first
    | with_reducible assumption
    | exact hl.of rfl
    | (with_reducible apply Frame.setPsched)
    | (with_reducible apply Frame.countEv)

theorem Frame.trackPort {l : List Blk} {s z : State} (hl : Sub [.sched] l)
    (hk : Frame l s z) (port tc : Nat) (f : Track → Track) :
    Frame l s (Machine.trackPort port tc f z) := by
  unfold Machine.trackPort
  repeat' first
    | with_reducible assumption
    | exact hl.of rfl
    | (with_reducible apply Frame.setPsched)
    | (with_reducible apply Frame.setPsched)
    | (with_reducible apply Frame.ite)

theorem Frame.txDone {l : List Blk} {s z : State} (hl : Sub [.counters, .buf, .ep, .funcs, .polders, .wq, .siphon] l)
    (hk : Frame l s z) (fn q idx : Nat) (stamp : Option Nat) :
    Frame l s (Machine.txDone fn q idx stamp z) := by
  unfold Machine.txDone
  repeat' first
    | with_reducible assumption
    | exact hl.of rfl
    | (with_reducible apply Frame.queueWrite)
    | (with_reducible apply Frame.finishChain)
    | (with_reducible apply Frame.ite)
    | split
    | dsimp only

theorem Frame.txLost {l : List Blk} {s z : State} (hl : Sub [.counters, .buf, .ep, .funcs, .polders, .wq, .siphon] l)
    (hk : Frame l s z) (src : FrameSrc) :
    Frame l s (Machine.txLost src z) := by
  unfold Machine.txLost
  repeat' first
    | with_reducible assumption
    | exact hl.of rfl
    | (with_reducible apply Frame.txDone)
    | split

theorem Frame.releaseFrames {l : List Blk} {s z : State} (hl : Sub [.counters, .buf, .ep, .funcs, .polders, .wq, .siphon] l)
    (hk : Frame l s z) (port : Nat) (l1 : List QFrame) :
    Frame l s (Machine.releaseFrames port l1 z) := by
  unfold Machine.releaseFrames
  repeat' first
    | with_reducible assumption
    | exact hl.of rfl
    | (with_reducible apply Frame.releaseCopy)
    | (with_reducible apply Frame.txLost)
    | (with_reducible refine Frame.forEach _ (fun _ _ _ => ?_) ?_)

theorem Frame.settleHead {l : List Blk} {s z : State} (hl : Sub [.counters, .buf, .sched, .ep, .funcs, .polders, .wq, .siphon] l)
    (hk : Frame l s z) (port tc : Nat) :
    Frame l s (Machine.settleHead port tc z) := by
  unfold Machine.settleHead
  repeat' first
    | with_reducible assumption
    | exact hl.of rfl
    | (with_reducible apply Frame.setPsched)
    | (with_reducible apply Frame.queueCount)
    | (with_reducible apply Frame.releaseFrames)

theorem Frame.settleHeads {l : List Blk} {s z : State} (hl : Sub [.counters, .buf, .sched, .ep, .funcs, .polders, .wq, .siphon] l)
    (hk : Frame l s z) (port : Nat) :
    Frame l s (Machine.settleHeads port z) := by
  unfold Machine.settleHeads
  repeat' first
    | with_reducible assumption
    | exact hl.of rfl
    | (with_reducible apply Frame.settleHead)
    | (with_reducible refine Frame.forEach _ (fun _ _ _ => ?_) ?_)

theorem Frame.flushPort {l : List Blk} {s z : State} (hl : Sub [.counters, .buf, .sched, .ep, .funcs, .polders, .wq, .siphon] l)
    (hk : Frame l s z) (port : Nat) :
    Frame l s (Machine.flushPort port z).2 := by
  unfold Machine.flushPort
  repeat' first
    | with_reducible assumption
    | exact hl.of rfl
    | (with_reducible apply Frame.setPsched)
    | (with_reducible apply Frame.releaseFrames)

theorem Frame.trackHost {l : List Blk} {s z : State} (hl : Sub [.wq] l)
    (hk : Frame l s z) (fn q : Nat) (f : Track → Track) :
    Frame l s (Machine.trackHost fn q f z) := by
  unfold Machine.trackHost
  repeat' first
    | with_reducible assumption
    | exact hl.of rfl
    | (with_reducible apply Frame.setQueue)
    | (with_reducible apply Frame.setQueue)
    | (with_reducible apply Frame.ite)

theorem Frame.trackTx {l : List Blk} {s z : State} (hl : Sub [.wq] l)
    (hk : Frame l s z) (src : FrameSrc) (f : Track → Track) :
    Frame l s (Machine.trackTx src f z) := by
  unfold Machine.trackTx
  repeat' first
    | with_reducible assumption
    | exact hl.of rfl
    | (with_reducible apply Frame.trackHost)
    | split

theorem Frame.trackTxDepth {l : List Blk} {s z : State} (hl : Sub [.wq] l)
    (hk : Frame l s z) (src : FrameSrc) :
    Frame l s (Machine.trackTxDepth src z) := by
  unfold Machine.trackTxDepth
  repeat' first
    | with_reducible assumption
    | exact hl.of rfl
    | (with_reducible apply Frame.trackHost)
    | split

theorem Frame.dropAtEnqueue {l : List Blk} {s z : State} (hl : Sub [.counters, .buf, .sched, .ep, .funcs, .polders, .wq, .siphon] l)
    (hk : Frame l s z) (port tc k sid : Nat) (src : FrameSrc) :
    Frame l s (Machine.dropAtEnqueue port tc k sid src z) := by
  unfold Machine.dropAtEnqueue
  repeat' first
    | with_reducible assumption
    | exact hl.of rfl
    | (with_reducible apply Frame.releaseCopy)
    | (with_reducible apply Frame.queueCount)
    | (with_reducible apply Frame.trackPort)
    | (with_reducible apply Frame.txLost)
    | (with_reducible apply Frame.trackTx)

theorem Frame.enqueueCopy {l : List Blk} {s z : State} (hl : Sub [.counters, .buf, .sched, .ep, .funcs, .polders, .wq, .siphon] l)
    (hk : Frame l s z) (t port tc sid cells : Nat) (info : Meta) (bytes : Bytes) :
    Frame l s (Machine.enqueueCopy t port tc sid cells info bytes z) := by
  unfold Machine.enqueueCopy
  repeat' first
    | with_reducible assumption
    | exact hl.of rfl
    | (with_reducible apply Frame.setPsched)
    | (with_reducible apply Frame.queueCount)
    | (with_reducible apply Frame.trackPort)
    | (with_reducible apply Frame.trackTxDepth)
    | (with_reducible apply Frame.dropAtEnqueue)
    | (with_reducible apply Frame.setPsched)
    | (with_reducible apply Frame.ite)
    | split

theorem Frame.dequeuePick {l : List Blk} {s z : State} (hl : Sub [.counters, .buf, .sched, .ep, .funcs, .polders, .wq, .siphon] l)
    (hk : Frame l s z) (port t start : Nat) (pick : Option Nat × QFrame) :
    Frame l s (Machine.dequeuePick port t start pick z) := by
  unfold Machine.dequeuePick
  repeat' first
    | with_reducible assumption
    | exact hl.of rfl
    | (with_reducible apply Frame.setPsched)
    | (with_reducible apply Frame.trackPort)
    | (with_reducible apply Frame.settleHead)
    | (with_reducible apply Frame.trackTx)
    | (with_reducible apply Frame.setPsched)
    | (with_reducible apply Frame.ite)
    | (with_reducible apply Frame.ite_fst)
    | (with_reducible apply Frame.ite_snd)
    | split

theorem Frame.dropCopies {l : List Blk} {s z : State} (hl : Sub [.counters, .buf, .sched, .ep, .funcs, .polders, .wq, .siphon] l)
    (hk : Frame l s z) (die sid : Nat) :
    Frame l s (Machine.dropCopies die sid z) := by
  unfold Machine.dropCopies
  repeat' first
    | with_reducible assumption
    | exact hl.of rfl
    | (with_reducible apply Frame.setPsched)
    | (with_reducible apply Frame.releaseFrames)
    | (with_reducible apply Frame.settleHead)
    | (with_reducible apply Frame.setPsched)
    | (with_reducible refine Frame.forEach _ (fun _ _ _ => ?_) ?_)
    | (with_reducible apply Frame.ite)

theorem Frame.applyGates {l : List Blk} {s z : State} (hl : Sub [.counters, .buf, .sched, .ep, .funcs, .polders, .wq, .siphon] l)
    (hk : Frame l s z) (port : Nat) (extended : Bool) :
    Frame l s (Machine.applyGates port extended z) := by
  unfold Machine.applyGates
  repeat' first
    | with_reducible assumption
    | exact hl.of rfl
    | (with_reducible apply Frame.setPsched)
    | (with_reducible apply Frame.raiseDie)
    | (with_reducible apply Frame.bumpObj)
    | (with_reducible apply Frame.settleHeads)
    | (with_reducible apply Frame.setPsched)
    | (with_reducible apply Frame.ite)
    | split
    | exact Frame.upd hk rfl (fun b n => by cases b <;> first | rfl | exact hl.not rfl n)
    | dsimp only

theorem Frame.gatesAfterStep {l : List Blk} {s z : State} (hl : Sub [.counters, .buf, .sched, .ep, .funcs, .polders, .wq, .siphon] l)
    (hk : Frame l s z) :
    Frame l s (Machine.gatesAfterStep z) := by
  unfold Machine.gatesAfterStep
  repeat' first
    | with_reducible assumption
    | exact hl.of rfl
    | (with_reducible apply Frame.setPsched)
    | (with_reducible apply Frame.applyGates)
    | (with_reducible apply Frame.setPsched)
    | (with_reducible refine Frame.forEach _ (fun _ _ _ => ?_) ?_)
    | (with_reducible apply Frame.ite)
    | (with_reducible apply Frame.ite_fst)
    | (with_reducible apply Frame.ite_snd)
    | split
    | exact Frame.upd hk rfl (fun b n => by cases b <;> first | rfl | exact hl.not rfl n)
    | dsimp only

theorem Frame.gateChange {l : List Blk} {s z : State} (hl : Sub [.sched] l)
    (hk : Frame l s z) (port : Nat) :
    Frame l s (Machine.gateChange port z) := by
  unfold Machine.gateChange
  repeat' first
    | with_reducible assumption
    | exact hl.of rfl
    | (with_reducible apply Frame.setPsched)

theorem Frame.gatesOff {l : List Blk} {s z : State} (hl : Sub [.sched] l)
    (hk : Frame l s z) (port : Nat) :
    Frame l s (Machine.gatesOff port z) := by
  unfold Machine.gatesOff
  repeat' first
    | with_reducible assumption
    | exact hl.of rfl
    | (with_reducible apply Frame.setPsched)

theorem Frame.gatesAtStart {l : List Blk} {s z : State} (hl : Sub [.sched] l)
    (hk : Frame l s z) (port : Nat) :
    Frame l s (Machine.gatesAtStart port z) := by
  unfold Machine.gatesAtStart
  repeat' first
    | with_reducible assumption
    | exact hl.of rfl
    | (with_reducible apply Frame.raisePort)
    | (with_reducible apply Frame.gateChange)
    | (with_reducible apply Frame.ite)

theorem Frame.weirCount {l : List Blk} {s z : State} (hl : Sub [.sched] l)
    (hk : Frame l s z) (die w k n : Nat) :
    Frame l s (Machine.weirCount die w k n z) := by
  unfold Machine.weirCount
  repeat' first
    | with_reducible assumption
    | exact hl.of rfl
    | (with_reducible apply Frame.setWeir)
    | (with_reducible apply Frame.countEv)

theorem Frame.meter {l : List Blk} {s z : State} (hl : Sub [.sched] l)
    (hk : Frame l s z) (t die w : Nat) (colour : Colour) (len : Nat) :
    Frame l s (Machine.meter t die w colour len z).2 := by
  unfold Machine.meter
  repeat' first
    | with_reducible assumption
    | exact hl.of rfl
    | (with_reducible apply Frame.setWeir)
    | (with_reducible apply Frame.raiseDie)
    | (with_reducible apply Frame.weirCount)
    | (with_reducible apply Frame.setWeir)
    | (with_reducible apply Frame.ite)
    | (with_reducible apply Frame.ite_fst)
    | (with_reducible apply Frame.ite_snd)

theorem Frame.meterAs {l : List Blk} {s z : State} (hl : Sub [.sched] l)
    (hk : Frame l s z) (t die w : Nat) (m : Option Colour) (b : Bytes) (len : Nat) :
    Frame l s (Machine.meterAs t die w m b len z).2 := by
  unfold Machine.meterAs
  repeat' first
    | with_reducible assumption
    | exact hl.of rfl
    | (with_reducible apply Frame.meter)
    | (with_reducible apply Frame.ite)
    | (with_reducible apply Frame.ite_fst)
    | (with_reducible apply Frame.ite_snd)

theorem Frame.weirWrite {l : List Blk} {s z : State} (hl : Sub [.sched] l)
    (hk : Frame l s z) (t : Nat) (d : Bytes) (die : Nat) :
    Frame l s (Machine.weirWrite t d die z) := by
  unfold Machine.weirWrite
  repeat' first
    | with_reducible assumption
    | exact hl.of rfl
    | (with_reducible apply Frame.setWeir)

end Sys2Proof
end

