-- ==== Sys2Proof/Laws/FramePorts.lean ====
section
/-! SUPPORT. Which blocks the operations of Machine/Ports.lean may change. -/

namespace Sys2Proof
open Machine

theorem Frame.flagFlush {l : List Blk} {s z : State} (hl : Sub [.tables] l)
    (hk : Frame l s z) (port : Nat) :
    Frame l s (Machine.flagFlush port z) := by
  unfold Machine.flagFlush
  repeat' first
    | with_reducible assumption
    | exact hl.of rfl
    | (with_reducible apply Frame.modTables)

theorem Frame.switchover {l : List Blk} {s z : State} (hl : Sub [.counters, .ports, .tables, .buf, .sched, .ep, .funcs, .polders, .wq, .siphon] l)
    (hk : Frame l s z) (p : Nat) :
    Frame l s (Machine.switchover p z) := by
  unfold Machine.switchover
  repeat' first
    | with_reducible assumption
    | exact hl.of rfl
    | (with_reducible apply Frame.setPort)
    | (with_reducible apply Frame.raisePort)
    | (with_reducible apply Frame.countPort)
    | (with_reducible apply Frame.flushPort)
    | (with_reducible apply Frame.flagFlush)
    | (with_reducible apply Frame.setPort)
    | (with_reducible apply Frame.ite)

theorem Frame.backupUnavailable {l : List Blk} {s z : State} (hl : Sub [.ports] l)
    (hk : Frame l s z) (p : Nat) :
    Frame l s (Machine.backupUnavailable p z) := by
  unfold Machine.backupUnavailable
  repeat' first
    | with_reducible assumption
    | exact hl.of rfl
    | (with_reducible apply Frame.setPort)
    | (with_reducible apply Frame.raisePort)

theorem Frame.revert {l : List Blk} {s z : State} (hl : Sub [.ports] l)
    (hk : Frame l s z) (p : Nat) :
    Frame l s (Machine.revert p z) := by
  unfold Machine.revert
  repeat' first
    | with_reducible assumption
    | exact hl.of rfl
    | (with_reducible apply Frame.setPort)

theorem Frame.primaryActs {l : List Blk} {s z : State} (hl : Sub [.counters, .ports, .tables, .buf, .sched, .ep, .funcs, .polders, .wq, .siphon] l)
    (hk : Frame l s z) (same : List Nat) (p : Nat) :
    Frame l s (Machine.primaryActs same p z) := by
  unfold Machine.primaryActs
  repeat' first
    | with_reducible assumption
    | exact hl.of rfl
    | (with_reducible apply Frame.switchover)
    | (with_reducible apply Frame.backupUnavailable)
    | (with_reducible apply Frame.ite)

theorem Frame.debounceExpiry {l : List Blk} {s z : State} (hl : Sub [.counters, .ports, .tables, .buf, .sched, .ep, .funcs, .polders, .wq, .siphon] l)
    (hk : Frame l s z) (pairs : List (Nat × Nat)) :
    Frame l s (Machine.debounceExpiry pairs z) := by
  unfold Machine.debounceExpiry
  repeat' first
    | with_reducible assumption
    | exact hl.of rfl
    | (with_reducible apply Frame.setPort)
    | (with_reducible apply Frame.primaryActs)
    | (with_reducible apply Frame.setPort)
    | (with_reducible refine Frame.forEach _ (fun _ _ _ => ?_) ?_)

theorem Frame.conditionChange {l : List Blk} {s z : State} (hl : Sub [.counters, .ports, .tables, .buf, .sched, .ep, .funcs, .polders, .wq, .siphon] l)
    (hk : Frame l s z) (p k : Nat) (present : Bool) :
    Frame l s (Machine.conditionChange p k present z) := by
  unfold Machine.conditionChange
  repeat' first
    | with_reducible assumption
    | exact hl.of rfl
    | (with_reducible apply Frame.setPort)
    | (with_reducible apply Frame.countPort)
    | (with_reducible apply Frame.debounceExpiry)
    | (with_reducible apply Frame.setPort)
    | (with_reducible apply Frame.ite)

theorem Frame.fecCodeword {l : List Blk} {s z : State} (hl : Sub [.counters, .ports, .tables, .buf, .sched, .ep, .funcs, .polders, .wq, .siphon] l)
    (hk : Frame l s z) (p : Nat) (c : Nat) :
    Frame l s (Machine.fecCodeword p c z) := by
  unfold Machine.fecCodeword
  repeat' first
    | with_reducible assumption
    | exact hl.of rfl
    | (with_reducible apply Frame.setPort)
    | (with_reducible apply Frame.countPort)
    | (with_reducible apply Frame.conditionChange)
    | (with_reducible apply Frame.setPort)
    | (with_reducible apply Frame.ite)

theorem Frame.backupCameUp {l : List Blk} {s z : State} (hl : Sub [.counters, .ports, .tables, .buf, .sched, .ep, .funcs, .polders, .wq, .siphon] l)
    (hk : Frame l s z) (p : Nat) :
    Frame l s (Machine.backupCameUp p z) := by
  unfold Machine.backupCameUp
  repeat' first
    | with_reducible assumption
    | exact hl.of rfl
    | (with_reducible apply Frame.setPort)
    | (with_reducible apply Frame.switchover)
    | (with_reducible apply Frame.setPort)
    | (with_reducible apply Frame.ite)

theorem Frame.backupWentDown {l : List Blk} {s z : State} (hl : Sub [.ports] l)
    (hk : Frame l s z) (p : Nat) :
    Frame l s (Machine.backupWentDown p z) := by
  unfold Machine.backupWentDown
  repeat' first
    | with_reducible assumption
    | exact hl.of rfl
    | (with_reducible apply Frame.backupUnavailable)
    | (with_reducible apply Frame.revert)
    | (with_reducible apply Frame.ite)

theorem Frame.setLink {l : List Blk} {s z : State} (hl : Sub [.counters, .ports, .tables, .buf, .sched, .ep, .funcs, .polders, .wq, .siphon] l)
    (hk : Frame l s z) (p : Nat) (st : LinkSt) (fec : Nat) :
    Frame l s (Machine.setLink p st fec z) := by
  unfold Machine.setLink
  repeat' first
    | with_reducible assumption
    | exact hl.of rfl
    | (with_reducible apply Frame.setPort)
    | (with_reducible apply Frame.raisePort)
    | (with_reducible apply Frame.countPort)
    | (with_reducible apply Frame.revert)
    | (with_reducible apply Frame.backupCameUp)
    | (with_reducible apply Frame.backupWentDown)
    | (with_reducible apply Frame.setPort)
    | (with_reducible refine Frame.forEach _ (fun _ _ _ => ?_) ?_)
    | (with_reducible apply Frame.ite)

theorem Frame.portAdminChanged {l : List Blk} {s z : State} (hl : Sub [.counters, .ports, .tables, .buf, .sched, .ep, .funcs, .polders, .wq, .siphon] l)
    (hk : Frame l s z) (p : Nat) :
    Frame l s (Machine.portAdminChanged p z) := by
  unfold Machine.portAdminChanged
  repeat' first
    | with_reducible assumption
    | exact hl.of rfl
    | (with_reducible apply Frame.revert)
    | (with_reducible apply Frame.setLink)
    | (with_reducible apply Frame.ite)

theorem Frame.stepTime {l : List Blk} {s z : State} (hl : Sub [.counters, .time, .buf, .sched, .ep, .funcs, .polders, .wq, .siphon] l)
    (hk : Frame l s z) (x : Nat) :
    Frame l s (Machine.stepTime x z) := by
  unfold Machine.stepTime
  repeat' first
    | with_reducible assumption
    | exact hl.of rfl
    | (with_reducible apply Frame.gatesAfterStep)
    | ((with_reducible apply Frame.modTime) <;> first | exact fun _ _ => rfl | exact fun h => hl.not rfl h | skip)

theorem Frame.setRate {l : List Blk} {s z : State} (hl : Sub [.dict, .time] l)
    (hk : Frame l s z) (x : Int) :
    Frame l s (Machine.setRate x z) := by
  unfold Machine.setRate
  repeat' first
    | with_reducible assumption
    | exact hl.of rfl
    | (with_reducible apply Frame.setVal)
    | ((with_reducible apply Frame.modTime) <;> first | exact fun _ _ => rfl | exact fun h => hl.not rfl h | skip)

theorem Frame.loseSource {l : List Blk} {s z : State} (hl : Sub [.time] l)
    (hk : Frame l s z) :
    Frame l s (Machine.loseSource z) := by
  unfold Machine.loseSource
  repeat' first
    | with_reducible assumption
    | exact hl.of rfl
    | (with_reducible apply Frame.raise)
    | ((with_reducible apply Frame.modTime) <;> first | exact fun _ _ => rfl | exact fun h => hl.not rfl h | skip)
    | (with_reducible apply Frame.ite)

theorem Frame.ptpStops {l : List Blk} {s z : State} (hl : Sub [.time] l)
    (hk : Frame l s z) :
    Frame l s (Machine.ptpStops z) := by
  unfold Machine.ptpStops
  repeat' first
    | with_reducible assumption
    | exact hl.of rfl
    | ((with_reducible apply Frame.modTime) <;> first | exact fun _ _ => rfl | exact fun h => hl.not rfl h | skip)
    | (with_reducible apply Frame.ite)

theorem Frame.drawStampError {l : List Blk} {s z : State} (hl : Sub [.free] l)
    (hk : Frame l s z) :
    Frame l s (Machine.drawStampError z).2 := by
  unfold Machine.drawStampError
  repeat' first
    | with_reducible assumption
    | exact hl.of rfl
    | exact Frame.upd hk rfl (fun b n => by cases b <;> first | rfl | exact hl.not rfl n)

theorem Frame.stampNow {l : List Blk} {s z : State} (hl : Sub [.free] l)
    (hk : Frame l s z) :
    Frame l s (Machine.stampNow z).2 := by
  unfold Machine.stampNow
  repeat' first
    | with_reducible assumption
    | exact hl.of rfl
    | (with_reducible apply Frame.drawStampError)

theorem Frame.ppsIn {l : List Blk} {s z : State} (hl : Sub [.free, .dict, .time] l)
    (hk : Frame l s z) :
    Frame l s (Machine.ppsIn z) := by
  unfold Machine.ppsIn
  repeat' first
    | with_reducible assumption
    | exact hl.of rfl
    | (with_reducible apply Frame.setRate)
    | (with_reducible apply Frame.stampNow)
    | ((with_reducible apply Frame.modTime) <;> first | exact fun _ _ => rfl | exact fun h => hl.not rfl h | skip)
    | (with_reducible apply Frame.ite)
    | (with_reducible apply Frame.ite_fst)
    | (with_reducible apply Frame.ite_snd)
    | exact Frame.upd hk rfl (fun b n => by cases b <;> first | rfl | exact hl.not rfl n)

theorem Frame.frerCount {l : List Blk} {s z : State} (hl : Sub [.frer] l)
    (hk : Frame l s z) (i k n : Nat) :
    Frame l s (Machine.frerCount i k n z) := by
  unfold Machine.frerCount
  repeat' first
    | with_reducible assumption
    | exact hl.of rfl
    | (with_reducible apply Frame.setFrer)

theorem Frame.frerPass {l : List Blk} {s z : State} (hl : Sub [.frer] l)
    (hk : Frame l s z) (i : Nat) :
    Frame l s (Machine.frerPass i z) := by
  unfold Machine.frerPass
  repeat' first
    | with_reducible assumption
    | exact hl.of rfl
    | (with_reducible apply Frame.setFrer)
    | (with_reducible apply Frame.frerCount)

theorem Frame.frerRecover {l : List Blk} {s z : State} (hl : Sub [.frer] l)
    (hk : Frame l s z) (i : Nat) (seq : Option Nat) :
    Frame l s (Machine.frerRecover i seq z).2 := by
  unfold Machine.frerRecover
  repeat' first
    | with_reducible assumption
    | exact hl.of rfl
    | (with_reducible apply Frame.setFrer)
    | (with_reducible apply Frame.frerCount)
    | (with_reducible apply Frame.frerPass)
    | (with_reducible apply Frame.setFrer)
    | (with_reducible apply Frame.ite)
    | (with_reducible apply Frame.ite_fst)
    | (with_reducible apply Frame.ite_snd)
    | split

end Sys2Proof
end

