-- ==== Sys2Proof/Laws/FrameParser.lean ====
section
/-! SUPPORT. Which blocks the operations of Machine/Parser.lean may change. -/

namespace Sys2Proof
open Machine

theorem Frame.setBank {l : List Blk} {s z : State} (hl : Sub [.cls] l)
    (hk : Frame l s z) (b : Nat) (x : Bank) :
    Frame l s (Machine.setBank b x z) := by
  unfold Machine.setBank
  repeat' first
    | with_reducible assumption
    | exact hl.of rfl
    | (with_reducible apply Frame.modCls)

theorem Frame.bankRetire {l : List Blk} {s z : State} (hl : Sub [.cls] l)
    (hk : Frame l s z) (die : Nat) :
    Frame l s (Machine.bankRetire die z) := by
  unfold Machine.bankRetire
  repeat' first
    | with_reducible assumption
    | exact hl.of rfl
    | (with_reducible apply Frame.raise)
    | (with_reducible apply Frame.modCls)
    | (with_reducible apply Frame.ite)

end Sys2Proof
end

