-- ==== Sys2Proof/Laws/FrameTables.lean ====
section
/-! SUPPORT. Which blocks the operations of Machine/Tables.lean may change. -/

namespace Sys2Proof
open Machine

theorem Frame.barMissed {l : List Blk} {s z : State} (hl : Sub [.funcs] l)
    (hk : Frame l s z) (fn : Nat) :
    Frame l s (Machine.barMissed fn z) := by
  unfold Machine.barMissed
  repeat' first
    | with_reducible assumption
    | exact hl.of rfl
    | (with_reducible apply Frame.setFunc)
    | (with_reducible apply Frame.setFunc)
    | (with_reducible apply Frame.ite)

theorem Frame.ctlCross {l : List Blk} {s z : State} (hl : Sub [.culv] l)
    (hk : Frame l s z) (a b : Nat) :
    Frame l s (Machine.ctlCross a b z) := by
  unfold Machine.ctlCross
  repeat' first
    | with_reducible assumption
    | exact hl.of rfl
    | (with_reducible apply Frame.modCulv)
    | (with_reducible apply Frame.ite)

theorem Frame.dataLaunch {l : List Blk} {s z : State} (hl : Sub [.culv] l)
    (hk : Frame l s z) (a b len : Nat) :
    Frame l s (Machine.dataLaunch a b len z) := by
  unfold Machine.dataLaunch
  repeat' first
    | with_reducible assumption
    | exact hl.of rfl
    | (with_reducible apply Frame.modCulv)

theorem Frame.filterDrop {l : List Blk} {s z : State} (hl : Sub [.tables] l)
    (hk : Frame l s z) (die key : Nat) :
    Frame l s (Machine.filterDrop die key z) := by
  unfold Machine.filterDrop
  repeat' first
    | with_reducible assumption
    | exact hl.of rfl
    | (with_reducible apply Frame.modTables)

theorem Frame.scanRun {l : List Blk} {s z : State} (hl : Sub [.tables] l)
    (hk : Frame l s z) :
    Frame l s (Machine.scanRun z) := by
  unfold Machine.scanRun
  repeat' first
    | with_reducible assumption
    | exact hl.of rfl
    | (with_reducible apply Frame.modTables)
    | (with_reducible apply Frame.ite)
    | (with_reducible apply Frame.ite_fst)
    | (with_reducible apply Frame.ite_snd)
    | split

theorem Frame.applyRep {l : List Blk} {s z : State} (hl : Sub [.tables] l)
    (hk : Frame l s z) (w : RepWrite) :
    Frame l s (Machine.applyRep w z) := by
  unfold Machine.applyRep
  repeat' first
    | with_reducible assumption
    | exact hl.of rfl
    | (with_reducible apply Frame.filterDrop)
    | (with_reducible apply Frame.modTables)
    | (with_reducible apply Frame.ite)

theorem Frame.replicate {l : List Blk} {s z : State} (hl : Sub [.tables] l)
    (hk : Frame l s z) (w : RepWrite) :
    Frame l s (Machine.replicate w z) := by
  unfold Machine.replicate
  repeat' first
    | with_reducible assumption
    | exact hl.of rfl
    | (with_reducible apply Frame.raiseDie)
    | (with_reducible apply Frame.applyRep)
    | (with_reducible apply Frame.modTables)
    | (with_reducible refine Frame.forEach _ (fun _ _ _ => ?_) ?_)
    | (with_reducible apply Frame.ite)

theorem Frame.putHome {l : List Blk} {s z : State} (hl : Sub [.tables] l)
    (hk : Frame l s z) (i : Nat) (e : FdbEntry) :
    Frame l s (Machine.putHome i e z) := by
  unfold Machine.putHome
  repeat' first
    | with_reducible assumption
    | exact hl.of rfl
    | (with_reducible apply Frame.scanRun)
    | (with_reducible apply Frame.modTables)

theorem Frame.putFdb {l : List Blk} {s z : State} (hl : Sub [.tables] l)
    (hk : Frame l s z) (home i key : Nat) (e : FdbEntry) :
    Frame l s (Machine.putFdb home i key e z) := by
  unfold Machine.putFdb
  repeat' first
    | with_reducible assumption
    | exact hl.of rfl
    | (with_reducible apply Frame.replicate)
    | (with_reducible apply Frame.putHome)

theorem Frame.putStream {l : List Blk} {s z : State} (hl : Sub [.tables] l)
    (hk : Frame l s z) (home i key : Nat) (e : StreamEntry) :
    Frame l s (Machine.putStream home i key e z) := by
  unfold Machine.putStream
  repeat' first
    | with_reducible assumption
    | exact hl.of rfl
    | (with_reducible apply Frame.scanRun)
    | (with_reducible apply Frame.replicate)
    | (with_reducible apply Frame.modTables)

theorem Frame.dropFdb {l : List Blk} {s z : State} (hl : Sub [.tables] l)
    (hk : Frame l s z) (i : Nat) :
    Frame l s (Machine.dropFdb i z) := by
  unfold Machine.dropFdb
  repeat' first
    | with_reducible assumption
    | exact hl.of rfl
    | (with_reducible apply Frame.putFdb)

theorem Frame.dropStream {l : List Blk} {s z : State} (hl : Sub [.tables] l)
    (hk : Frame l s z) (i : Nat) :
    Frame l s (Machine.dropStream i z) := by
  unfold Machine.dropStream
  repeat' first
    | with_reducible assumption
    | exact hl.of rfl
    | (with_reducible apply Frame.putStream)

theorem Frame.replicaWrite {l : List Blk} {s z : State} (hl : Sub [.tables, .culv] l)
    (hk : Frame l s z) (src dst : Nat) :
    Frame l s (Machine.replicaWrite src dst z) := by
  unfold Machine.replicaWrite
  repeat' first
    | with_reducible assumption
    | exact hl.of rfl
    | (with_reducible apply Frame.ctlCross)
    | (with_reducible apply Frame.applyRep)
    | (with_reducible apply Frame.modTables)
    | (with_reducible apply Frame.ite)
    | split

theorem Frame.copyReplica {l : List Blk} {s z : State} (hl : Sub [.tables] l)
    (hk : Frame l s z) (die : Nat) :
    Frame l s (Machine.copyReplica die z) := by
  unfold Machine.copyReplica
  repeat' first
    | with_reducible assumption
    | exact hl.of rfl
    | (with_reducible apply Frame.modTables)

theorem Frame.sendLearn {l : List Blk} {s z : State} (hl : Sub [.counters, .tables] l)
    (hk : Frame l s z) (die : Nat) (q : LearnReq) :
    Frame l s (Machine.sendLearn die q z) := by
  unfold Machine.sendLearn
  repeat' first
    | with_reducible assumption
    | exact hl.of rfl
    | (with_reducible apply Frame.count)
    | (with_reducible apply Frame.modTables)
    | (with_reducible apply Frame.ite)

theorem Frame.sourceHit {l : List Blk} {s z : State} (hl : Sub [.counters, .tables] l)
    (hk : Frame l s z) (die i : Nat) (e : FdbEntry) :
    Frame l s (Machine.sourceHit die i e z) := by
  unfold Machine.sourceHit
  repeat' first
    | with_reducible assumption
    | exact hl.of rfl
    | (with_reducible apply Frame.count)
    | (with_reducible apply Frame.modTables)
    | (with_reducible apply Frame.ite)

theorem Frame.hitNotice {l : List Blk} {s z : State} (hl : Sub [.tables, .culv] l)
    (hk : Frame l s z) (die : Nat) :
    Frame l s (Machine.hitNotice die z) := by
  unfold Machine.hitNotice
  repeat' first
    | with_reducible assumption
    | exact hl.of rfl
    | (with_reducible apply Frame.ctlCross)
    | (with_reducible apply Frame.putHome)
    | (with_reducible apply Frame.modTables)
    | (with_reducible apply Frame.ite)
    | (with_reducible apply Frame.ite_fst)
    | (with_reducible apply Frame.ite_snd)
    | split

theorem Frame.sweepRun {l : List Blk} {s z : State} (hl : Sub [.tables] l)
    (hk : Frame l s z) (die : Nat) :
    Frame l s (Machine.sweepRun die z) := by
  unfold Machine.sweepRun
  repeat' first
    | with_reducible assumption
    | exact hl.of rfl
    | (with_reducible apply Frame.dropFdb)
    | (with_reducible apply Frame.modTables)
    | (with_reducible refine Frame.forEach _ (fun _ _ _ => ?_) ?_)
    | (with_reducible apply Frame.ite)

theorem Frame.sweepAll {l : List Blk} {s z : State} (hl : Sub [.tables] l)
    (hk : Frame l s z) :
    Frame l s (Machine.sweepAll z) := by
  unfold Machine.sweepAll
  repeat' first
    | with_reducible assumption
    | exact hl.of rfl
    | (with_reducible apply Frame.sweepRun)
    | (with_reducible refine Frame.forEach _ (fun _ _ _ => ?_) ?_)

theorem Frame.learnOne {l : List Blk} {s z : State} (hl : Sub [.counters, .tables] l)
    (hk : Frame l s z) (die : Nat) (q : LearnReq) :
    Frame l s (Machine.learnOne die q z) := by
  unfold Machine.learnOne
  repeat' first
    | with_reducible assumption
    | exact hl.of rfl
    | (with_reducible apply Frame.raise)
    | (with_reducible apply Frame.count)
    | (with_reducible apply Frame.putHome)
    | (with_reducible apply Frame.putFdb)
    | (with_reducible apply Frame.ite)
    | split
    | exact Frame.upd hk rfl (fun b n => by cases b <;> first | rfl | exact hl.not rfl n)
    | dsimp only

theorem Frame.learn {l : List Blk} {s z : State} (hl : Sub [.counters, .tables, .culv] l)
    (hk : Frame l s z) (die : Nat) :
    Frame l s (Machine.learn die z) := by
  unfold Machine.learn
  repeat' first
    | with_reducible assumption
    | exact hl.of rfl
    | (with_reducible apply Frame.ctlCross)
    | (with_reducible apply Frame.sweepRun)
    | (with_reducible apply Frame.learnOne)
    | (with_reducible apply Frame.modTables)
    | (with_reducible apply Frame.ite)
    | split

theorem Frame.learnFilterExpiry {l : List Blk} {s z : State} (hl : Sub [.tables] l)
    (hk : Frame l s z) (die key : Nat) :
    Frame l s (Machine.learnFilterExpiry die key z) := by
  unfold Machine.learnFilterExpiry
  repeat' first
    | with_reducible assumption
    | exact hl.of rfl
    | (with_reducible apply Frame.filterDrop)
    | (with_reducible apply Frame.ite)

theorem Frame.agerVisit {l : List Blk} {s z : State} (hl : Sub [.counters, .tables] l)
    (hk : Frame l s z) (i : Nat) :
    Frame l s (Machine.agerVisit i z) := by
  unfold Machine.agerVisit
  repeat' first
    | with_reducible assumption
    | exact hl.of rfl
    | (with_reducible apply Frame.count)
    | (with_reducible apply Frame.replicate)
    | (with_reducible apply Frame.putHome)
    | (with_reducible apply Frame.dropFdb)
    | (with_reducible apply Frame.ite)

theorem Frame.agerComes {l : List Blk} {s z : State} (hl : Sub [.counters, .tables] l)
    (hk : Frame l s z) (t i : Nat) :
    Frame l s (Machine.agerComes t i z) := by
  unfold Machine.agerComes
  repeat' first
    | with_reducible assumption
    | exact hl.of rfl
    | (with_reducible apply Frame.sweepAll)
    | (with_reducible apply Frame.agerVisit)
    | (with_reducible apply Frame.modTables)
    | (with_reducible apply Frame.ite)

theorem Frame.flushSweep {l : List Blk} {s z : State} (hl : Sub [.tables] l)
    (hk : Frame l s z) (die : Nat) :
    Frame l s (Machine.flushSweep die z) := by
  unfold Machine.flushSweep
  repeat' first
    | with_reducible assumption
    | exact hl.of rfl
    | (with_reducible apply Frame.sweepRun)
    | (with_reducible apply Frame.modTables)
    | (with_reducible apply Frame.ite)

theorem Frame.flushSweepEnd {l : List Blk} {s z : State} (hl : Sub [.tables] l)
    (hk : Frame l s z) (die : Nat) :
    Frame l s (Machine.flushSweepEnd die z) := by
  unfold Machine.flushSweepEnd
  repeat' first
    | with_reducible assumption
    | exact hl.of rfl
    | (with_reducible apply Frame.sweepRun)
    | (with_reducible apply Frame.modTables)
    | (with_reducible apply Frame.ite)

theorem Frame.tblDrop {l : List Blk} {s z : State} (hl : Sub [.tables] l)
    (hk : Frame l s z) (table i : Nat) :
    Frame l s (Machine.tblDrop table i z) := by
  unfold Machine.tblDrop
  repeat' first
    | with_reducible assumption
    | exact hl.of rfl
    | (with_reducible apply Frame.dropFdb)
    | (with_reducible apply Frame.dropStream)
    | (with_reducible apply Frame.ite)

theorem Frame.tblPut {l : List Blk} {s z : State} (hl : Sub [.tables] l)
    (hk : Frame l s z) (table i key d : Nat) :
    Frame l s (Machine.tblPut table i key d z) := by
  unfold Machine.tblPut
  repeat' first
    | with_reducible assumption
    | exact hl.of rfl
    | (with_reducible apply Frame.putFdb)
    | (with_reducible apply Frame.putStream)
    | (with_reducible apply Frame.ite)

theorem Frame.tblInvalid {l : List Blk} {s z : State} (hl : Sub [] l)
    (hk : Frame l s z) :
    Frame l s (Machine.tblInvalid z).2 := by
  unfold Machine.tblInvalid
  repeat' first
    | with_reducible assumption

theorem Frame.tblReadCmd {l : List Blk} {s z : State} (hl : Sub [] l)
    (hk : Frame l s z) (table : Nat) (byIndex : Bool) (index : Nat) :
    Frame l s (Machine.tblReadCmd table byIndex index z).2 := by
  unfold Machine.tblReadCmd
  repeat' first
    | with_reducible assumption
    | exact hl.of rfl
    | split

theorem Frame.tblDeleteCmd {l : List Blk} {s z : State} (hl : Sub [.tables] l)
    (hk : Frame l s z) (table : Nat) (byIndex : Bool) (index : Nat) :
    Frame l s (Machine.tblDeleteCmd table byIndex index z).2 := by
  unfold Machine.tblDeleteCmd
  repeat' first
    | with_reducible assumption
    | exact hl.of rfl
    | (with_reducible apply Frame.tblDrop)
    | split

theorem Frame.tblWriteCmd {l : List Blk} {s z : State} (hl : Sub [.counters, .tables] l)
    (hk : Frame l s z) (table : Nat) (byIndex : Bool) (index : Nat) :
    Frame l s (Machine.tblWriteCmd table byIndex index z).2 := by
  unfold Machine.tblWriteCmd
  repeat' first
    | with_reducible assumption
    | exact hl.of rfl
    | (with_reducible apply Frame.raise)
    | (with_reducible apply Frame.count)
    | (with_reducible apply Frame.tblPut)
    | (with_reducible apply Frame.tblInvalid)
    | (with_reducible apply Frame.tblDeleteCmd)
    | (with_reducible apply Frame.ite)
    | (with_reducible apply Frame.ite_fst)
    | (with_reducible apply Frame.ite_snd)
    | split

theorem Frame.tblSearchCmd {l : List Blk} {s z : State} (hl : Sub [] l)
    (hk : Frame l s z) (table index : Nat) :
    Frame l s (Machine.tblSearchCmd table index z).2 := by
  unfold Machine.tblSearchCmd
  repeat' first
    | with_reducible assumption
    | exact hl.of rfl
    | (with_reducible apply Frame.tblInvalid)
    | (with_reducible apply Frame.ite)
    | (with_reducible apply Frame.ite_fst)
    | (with_reducible apply Frame.ite_snd)

theorem Frame.flushCmd {l : List Blk} {s z : State} (hl : Sub [.tables] l)
    (hk : Frame l s z) (index : Nat) :
    Frame l s (Machine.flushCmd index z).2 := by
  unfold Machine.flushCmd
  repeat' first
    | with_reducible assumption
    | exact hl.of rfl
    | (with_reducible apply Frame.flagFlush)
    | (with_reducible apply Frame.tblInvalid)
    | (with_reducible apply Frame.ite)
    | (with_reducible apply Frame.ite_fst)
    | (with_reducible apply Frame.ite_snd)

theorem Frame.ageNowCmd {l : List Blk} {s z : State} (hl : Sub [.counters, .tables] l)
    (hk : Frame l s z) :
    Frame l s (Machine.ageNowCmd z).2 := by
  unfold Machine.ageNowCmd
  repeat' first
    | with_reducible assumption
    | exact hl.of rfl
    | (with_reducible apply Frame.agerVisit)
    | (with_reducible refine Frame.forEach _ (fun _ _ _ => ?_) ?_)

theorem Frame.tblCommand {l : List Blk} {s z : State} (hl : Sub [.tables, .funcs] l)
    (hk : Frame l s z) (op table : Nat) (byIndex : Bool) (index : Nat) (run : State → TblAnswer × State) (h_run : ∀ y, Frame l s y → Frame l s (run y).2) :
    Frame l s (Machine.tblCommand op table byIndex index run z) := by
  unfold Machine.tblCommand
  repeat' first
    | with_reducible assumption
    | exact hl.of rfl
    | (with_reducible apply h_run)
    | (with_reducible apply Frame.barMissed)
    | (with_reducible apply Frame.sweepAll)
    | (with_reducible apply Frame.tblInvalid)
    | (with_reducible apply Frame.modTables)
    | (with_reducible apply Frame.ite)
    | (with_reducible apply Frame.ite_fst)
    | (with_reducible apply Frame.ite_snd)

theorem Frame.tblRun {l : List Blk} {s z : State} (hl : Sub [.counters, .tables] l) (hk : Frame l s z) (op table : Nat) (byIndex : Bool) (index : Nat) :
    Frame l s (Machine.tblRun op table byIndex index z).2 := by
  unfold Machine.tblRun
  split_ifs
  · exact Frame.tblReadCmd (hl.of rfl) hk _ _ _
  · exact Frame.tblWriteCmd (hl.of rfl) hk _ _ _
  · exact Frame.tblDeleteCmd (hl.of rfl) hk _ _ _
  · exact Frame.tblSearchCmd (hl.of rfl) hk _ _
  · exact Frame.flushCmd (hl.of rfl) hk _
  · exact Frame.ageNowCmd (hl.of rfl) hk
  · exact Frame.tblInvalid (hl.of rfl) hk

theorem Frame.tblComplete {l : List Blk} {s z : State} (hl : Sub [.tables] l)
    (hk : Frame l s z) :
    Frame l s (Machine.tblComplete z) := by
  unfold Machine.tblComplete
  repeat' first
    | with_reducible assumption
    | exact hl.of rfl
    | (with_reducible apply Frame.scanRun)
    | (with_reducible apply Frame.modTables)
    | (with_reducible apply Frame.ite)
    | (with_reducible refine Frame.foldl _ (fun _ _ _ => ?_) ?_)
    | (with_reducible refine Frame.foldl_fst _ (fun _ _ _ => ?_) ?_)
    | (with_reducible refine Frame.foldl_snd _ (fun _ _ _ => ?_) ?_)
    | split
    | exact Frame.upd hk rfl (fun b n => by cases b <;> first | rfl | exact hl.not rfl n)
    | dsimp only

theorem Frame.clearTable {l : List Blk} {s z : State} (hl : Sub [.tables] l)
    (hk : Frame l s z) (table : Nat) :
    Frame l s (Machine.clearTable table z) := by
  unfold Machine.clearTable
  repeat' first
    | with_reducible assumption
    | exact hl.of rfl
    | (with_reducible apply Frame.scanRun)
    | (with_reducible apply Frame.modTables)

end Sys2Proof
end

