-- ==== Sys2Proof/Laws/FrameTransit.lean ====
section
/-! SUPPORT. Which blocks the operations of Machine/Transit.lean may change. -/

namespace Sys2Proof
open Machine

theorem Frame.crossDiscard {l : List Blk} {s z : State} (hl : Sub [] l)
    (hk : Frame l s z) (a b : Nat) :
    Frame l s (Machine.crossDiscard a b z) := by
  unfold Machine.crossDiscard
  repeat' first
    | with_reducible assumption
    | exact hl.of rfl
    | (with_reducible apply Frame.countEv)
    | (with_reducible apply Frame.raiseDie)

theorem Frame.loseParcel {l : List Blk} {s z : State} (hl : Sub [.counters, .buf, .ep, .funcs, .polders, .wq, .siphon] l)
    (hk : Frame l s z) (p : Parcel) :
    Frame l s (Machine.loseParcel p z) := by
  unfold Machine.loseParcel
  repeat' first
    | with_reducible assumption
    | exact hl.of rfl
    | (with_reducible apply Frame.txLost)
    | (with_reducible apply Frame.ite)

theorem Frame.launch {l : List Blk} {s z : State} (hl : Sub [.id, .counters, .buf, .ep, .funcs, .polders, .wq, .siphon, .culv] l)
    (hk : Frame l s z) (p : Parcel) :
    Frame l s (Machine.launch p z) := by
  unfold Machine.launch
  repeat' first
    | with_reducible assumption
    | exact hl.of rfl
    | (with_reducible apply Frame.dataLaunch)
    | (with_reducible apply Frame.crossDiscard)
    | (with_reducible apply Frame.loseParcel)
    | (with_reducible apply Frame.modBuf)
    | (with_reducible apply Frame.ticket)
    | (with_reducible apply Frame.ite)

theorem Frame.launchAll {l : List Blk} {s z : State} (hl : Sub [.id, .counters, .buf, .ep, .funcs, .polders, .wq, .siphon, .culv] l)
    (hk : Frame l s z) (l1 : List Parcel) :
    Frame l s (Machine.launchAll l1 z) := by
  unfold Machine.launchAll
  repeat' first
    | with_reducible assumption
    | exact hl.of rfl
    | (with_reducible apply Frame.launch)
    | (with_reducible refine Frame.forEach _ (fun _ _ _ => ?_) ?_)

theorem Frame.flitReceive {l : List Blk} {s z : State} (hl : Sub [.culv] l)
    (hk : Frame l s z) (c : Nat) (ok : Bool) :
    Frame l s (Machine.flitReceive c ok z) := by
  unfold Machine.flitReceive
  repeat' first
    | with_reducible assumption
    | exact hl.of rfl
    | (with_reducible apply Frame.countEv)
    | (with_reducible apply Frame.modCulv)
    | (with_reducible apply Frame.ite)

theorem Frame.loseTransit {l : List Blk} {s z : State} (hl : Sub [.counters, .buf, .ep, .funcs, .polders, .wq, .siphon] l)
    (hk : Frame l s z) (c : Nat) :
    Frame l s (Machine.loseTransit c z) := by
  unfold Machine.loseTransit
  repeat' first
    | with_reducible assumption
    | exact hl.of rfl
    | (with_reducible apply Frame.crossDiscard)
    | (with_reducible apply Frame.loseParcel)
    | (with_reducible apply Frame.modBuf)
    | (with_reducible refine Frame.forEach _ (fun _ _ _ => ?_) ?_)
    | (with_reducible apply Frame.ite)

theorem Frame.culvertDown {l : List Blk} {s z : State} (hl : Sub [.counters, .buf, .ep, .funcs, .polders, .wq, .siphon, .culv] l)
    (hk : Frame l s z) (c : Nat) :
    Frame l s (Machine.culvertDown c z) := by
  unfold Machine.culvertDown
  repeat' first
    | with_reducible assumption
    | exact hl.of rfl
    | (with_reducible apply Frame.raise)
    | (with_reducible apply Frame.loseTransit)
    | (with_reducible apply Frame.modCulv)
    | (with_reducible apply Frame.ite)

theorem Frame.culvertRetrain {l : List Blk} {s z : State} (hl : Sub [.tables, .culv] l)
    (hk : Frame l s z) (c : Nat) (up : Bool) :
    Frame l s (Machine.culvertRetrain c up z) := by
  unfold Machine.culvertRetrain
  repeat' first
    | with_reducible assumption
    | exact hl.of rfl
    | (with_reducible apply Frame.raise)
    | (with_reducible apply Frame.modCulv)
    | (with_reducible apply Frame.modTables)
    | (with_reducible apply Frame.ite)

theorem Frame.hostRefuses {l : List Blk} {s z : State} (hl : Sub [.counters] l)
    (hk : Frame l s z) (fn : Nat) :
    Frame l s (Machine.hostRefuses fn z) := by
  unfold Machine.hostRefuses
  repeat' first
    | with_reducible assumption
    | exact hl.of rfl
    | (with_reducible apply Frame.countPolder)

end Sys2Proof
end

