-- ==== Sys2Proof/Laws/FrameFlow.lean ====
section
/-! SUPPORT. Which blocks the operations of Machine/Flow.lean may change. -/

namespace Sys2Proof
open Machine

theorem Frame.releaseReq {l : List Blk} {s z : State} (hl : Sub [.id, .counters, .buf, .ep, .funcs, .polders, .wq, .siphon, .culv] l)
    (hk : Frame l s z) (r : CtxReq) :
    Frame l s (Machine.releaseReq r z) := by
  unfold Machine.releaseReq
  repeat' first
    | with_reducible assumption
    | exact hl.of rfl
    | (with_reducible apply Frame.launchAll)

theorem Frame.missOverflow {l : List Blk} {s z : State} (hl : Sub [.id, .counters, .buf, .ep, .funcs, .polders, .wq, .siphon, .culv] l)
    (hk : Frame l s z) (r : CtxReq) :
    Frame l s (Machine.missOverflow r z) := by
  unfold Machine.missOverflow
  repeat' first
    | with_reducible assumption
    | exact hl.of rfl
    | (with_reducible apply Frame.count)
    | (with_reducible apply Frame.releaseReq)
    | (with_reducible apply Frame.ite)

theorem Frame.flowNotify {l : List Blk} {s z : State} (hl : Sub [.counters, .buf, .wq] l)
    (hk : Frame l s z) (t n ty : Nat) :
    Frame l s (Machine.flowNotify t n ty z) := by
  unfold Machine.flowNotify
  repeat' first
    | with_reducible assumption
    | exact hl.of rfl
    | (with_reducible apply Frame.setQueue)
    | (with_reducible apply Frame.count)
    | (with_reducible apply Frame.setHostFrames)
    | (with_reducible apply Frame.setQueue)
    | (with_reducible apply Frame.ite)
    | split
    | exact Frame.upd hk rfl (fun b n => by cases b <;> first | rfl | exact hl.not rfl n)
    | dsimp only

theorem Frame.takeCtx {l : List Blk} {s z y : State} (hl : Sub [.flow] l) (hk : Frame l s z) {part n : Nat} (h : Machine.takeCtx part z = some (n, y)) :
    Frame l s y := by
  unfold Machine.takeCtx at h
  dsimp only at h
  repeat' split at h
  all_goals simp only [reduceCtorEq, Option.some.injEq, Prod.mk.injEq] at h
  all_goals
    obtain ⟨-, rfl⟩ := h
    exact Frame.setFlowDie (hl.of rfl) hk _ _

theorem Frame.putEntry {l : List Blk} {s z : State} (hl : Sub [.flow] l)
    (hk : Frame l s z) (place : Bool × Nat) (e : FlowEntry) :
    Frame l s (Machine.putEntry place e z) := by
  unfold Machine.putEntry
  repeat' first
    | with_reducible assumption
    | exact hl.of rfl
    | (with_reducible apply Frame.modFlow)

theorem Frame.createCtx {l : List Blk} {s z y : State} (hl : Sub [.flow] l) (hk : Frame l s z) {key : Bytes} {hash n : Nat} {c : Ctx}
    (h : Machine.createCtx key hash c z = some (n, y)) : Frame l s y := by
  unfold Machine.createCtx at h
  dsimp only at h
  repeat' split at h
  · exact absurd h (by simp)
  · exact absurd h (by simp)
  · rename_i heq
    cases h
    with_reducible apply Frame.putEntry (hl.of rfl)
    with_reducible apply Frame.setCtx (hl.of rfl)
    exact Frame.takeCtx (hl.of rfl) hk heq

theorem Frame.uncache {l : List Blk} {s z : State} (hl : Sub [.flow] l)
    (hk : Frame l s z) (n : Nat) :
    Frame l s (Machine.uncache n z) := by
  unfold Machine.uncache
  repeat' first
    | with_reducible assumption
    | exact hl.of rfl
    | (with_reducible apply Frame.modFlow)

theorem Frame.deleteCtx {l : List Blk} {s z : State} (hl : Sub [.flow] l)
    (hk : Frame l s z) (n : Nat) :
    Frame l s (Machine.deleteCtx n z) := by
  unfold Machine.deleteCtx
  repeat' first
    | with_reducible assumption
    | exact hl.of rfl
    | (with_reducible apply Frame.setFlowDie)
    | (with_reducible apply Frame.setCtx)
    | (with_reducible apply Frame.uncache)
    | (with_reducible apply Frame.setCtx)
    | (with_reducible apply Frame.setFlowDie)
    | (with_reducible apply Frame.modFlow)

theorem Frame.useWay {l : List Blk} {s z : State} (hl : Sub [.flow] l)
    (hk : Frame l s z) (key : Nat) :
    Frame l s (Machine.useWay key z) := by
  unfold Machine.useWay
  repeat' first
    | with_reducible assumption
    | exact hl.of rfl
    | (with_reducible apply Frame.modFlow)

theorem Frame.reserveWay {l : List Blk} {s z y : State} (hl : Sub [.free, .counters, .flow] l) (hk : Frame l s z) {die set n : Nat}
    (h : Machine.reserveWay die set z = some (n, y)) : Frame l s y := by
  have k1 : Frame l s { z with freeCtr := z.freeCtr + 1 } :=
    hk.upd rfl (fun b n => by cases b <;> first | rfl | exact hl.not rfl n)
  unfold Machine.reserveWay at h
  dsimp only at h
  repeat' split at h
  · exact absurd h (by simp)
  · cases h; exact k1
  · cases h
    with_reducible apply Frame.count (hl.of rfl)
    with_reducible apply Frame.setFlowDie (hl.of rfl)
    with_reducible apply Frame.uncache (hl.of rfl)
    exact k1

theorem Frame.installCtx {l : List Blk} {s z : State} (hl : Sub [.flow] l)
    (hk : Frame l s z) (die set way n : Nat) :
    Frame l s (Machine.installCtx die set way n z) := by
  unfold Machine.installCtx
  repeat' first
    | with_reducible assumption
    | exact hl.of rfl
    | (with_reducible apply Frame.useWay)
    | (with_reducible apply Frame.modFlow)

theorem Frame.applyCtx {l : List Blk} {s z : State} (hl : Sub [.id, .counters, .flow, .buf, .ep, .funcs, .polders, .wq, .siphon, .culv] l)
    (hk : Frame l s z) (n : Nat) (r : CtxReq) :
    Frame l s (Machine.applyCtx n r z) := by
  unfold Machine.applyCtx
  repeat' first
    | with_reducible assumption
    | exact hl.of rfl
    | (with_reducible apply Frame.setCtx)
    | (with_reducible apply Frame.count)
    | (with_reducible apply Frame.releaseReq)
    | (with_reducible apply Frame.useWay)
    | (with_reducible apply Frame.setCtx)
    | (with_reducible apply Frame.ite)
    | split

theorem Frame.serveRequest {l : List Blk} {s z : State} (hl : Sub [.id, .counters, .flow, .buf, .ep, .funcs, .polders, .wq, .siphon, .culv] l)
    (hk : Frame l s z) (die : Nat) (r : CtxReq) :
    Frame l s (Machine.serveRequest die r z) := by
  unfold Machine.serveRequest
  repeat' first
    | with_reducible assumption
    | exact hl.of rfl
    | (with_reducible apply Frame.setFlowDie)
    | (with_reducible apply Frame.count)
    | (with_reducible apply Frame.releaseReq)
    | (with_reducible apply Frame.missOverflow)
    | (with_reducible apply Frame.applyCtx)
    | (with_reducible apply Frame.setFlowDie)
    | (with_reducible apply Frame.ite)
    | split

theorem Frame.sendRequest {l : List Blk} {s z : State} (hl : Sub [.id, .counters, .flow, .buf, .ep, .funcs, .polders, .wq, .siphon, .culv] l)
    (hk : Frame l s z) (src : Nat) (r : CtxReq) :
    Frame l s (Machine.sendRequest src r z) := by
  unfold Machine.sendRequest
  repeat' first
    | with_reducible assumption
    | exact hl.of rfl
    | (with_reducible apply Frame.setFlowDie)
    | (with_reducible apply Frame.missOverflow)
    | (with_reducible apply Frame.setFlowDie)
    | (with_reducible apply Frame.ite)

theorem Frame.issueFrom {l : List Blk} {s z y : State} (hl : Sub [.free, .counters, .flow] l) (hk : Frame l s z) {die w : Nat} {f : Fetch} (as : List Fetch)
    (h : Machine.issueFrom die z as = some (f, w, y)) : Frame l s y := by
  induction as with
  | nil => exact absurd h (by simp [Machine.issueFrom])
  | cons g rest ih =>
    unfold Machine.issueFrom at h
    repeat' split at h
    · exact ih h
    · rename_i heq
      cases h
      exact Frame.reserveWay (hl.of rfl) hk heq
    · exact ih h

theorem Frame.fetchIssue {l : List Blk} {s z : State} (hl : Sub [.free, .counters, .flow] l) (hk : Frame l s z) (die : Nat) : Frame l s (Machine.fetchIssue die z) := by
  unfold Machine.fetchIssue
  dsimp only
  repeat' split
  · exact hk
  · exact hk
  · rename_i heq
    with_reducible apply Frame.setFlowDie (hl.of rfl)
    exact Frame.issueFrom (hl.of rfl) hk _ heq

theorem Frame.serveParked {l : List Blk} {s z : State} (hl : Sub [.id, .counters, .flow, .buf, .ep, .funcs, .polders, .wq, .siphon, .culv] l)
    (hk : Frame l s z) (t die set way : Nat) (a0 : List CtxReq) :
    Frame l s (Machine.serveParked t die set way a0 z) := by
  induction a0 generalizing z with
  | nil => exact hk
  | cons hd tl ih =>
    unfold Machine.serveParked
    try dsimp only
    repeat' first
      | with_reducible assumption
      | exact hl.of rfl
      | (with_reducible apply ih)
      | (with_reducible apply Frame.raiseDie)
      | (with_reducible apply Frame.count)
      | (with_reducible apply Frame.releaseReq)
      | (with_reducible apply Frame.missOverflow)
      | (with_reducible apply Frame.flowNotify)
      | (with_reducible apply Frame.installCtx)
      | (with_reducible apply Frame.applyCtx)
      | (with_reducible apply Frame.ite)
      | (refine Frame.createCtx ?_ ?_ (by assumption))
      | split

theorem Frame.overflowAll {l : List Blk} {s z : State} (hl : Sub [.id, .counters, .buf, .ep, .funcs, .polders, .wq, .siphon, .culv] l)
    (hk : Frame l s z) (l1 : List CtxReq) :
    Frame l s (Machine.overflowAll l1 z) := by
  unfold Machine.overflowAll
  repeat' first
    | with_reducible assumption
    | exact hl.of rfl
    | (with_reducible apply Frame.missOverflow)
    | (with_reducible refine Frame.forEach _ (fun _ _ _ => ?_) ?_)

theorem Frame.fetchComplete {l : List Blk} {s z : State} (hl : Sub [.id, .counters, .flow, .buf, .ep, .funcs, .polders, .wq, .siphon, .culv] l)
    (hk : Frame l s z) (t die slot : Nat) (ecc : Bool) :
    Frame l s (Machine.fetchComplete t die slot ecc z) := by
  unfold Machine.fetchComplete
  repeat' first
    | with_reducible assumption
    | exact hl.of rfl
    | (with_reducible apply Frame.setFlowDie)
    | (with_reducible apply Frame.raiseDie)
    | (with_reducible apply Frame.count)
    | (with_reducible apply Frame.deleteCtx)
    | (with_reducible apply Frame.installCtx)
    | (with_reducible apply Frame.serveParked)
    | (with_reducible apply Frame.overflowAll)
    | (with_reducible refine Frame.forEach _ (fun _ _ _ => ?_) ?_)
    | (with_reducible apply Frame.setFlowDie)
    | (with_reducible apply Frame.ite)
    | split
    | exact Frame.upd hk rfl (fun b n => by cases b <;> first | rfl | exact hl.not rfl n)
    | dsimp only

theorem Frame.flowAgerVisit {l : List Blk} {s z : State} (hl : Sub [.counters, .flow, .buf, .wq] l)
    (hk : Frame l s z) (t n : Nat) :
    Frame l s (Machine.flowAgerVisit t n z) := by
  unfold Machine.flowAgerVisit
  repeat' first
    | with_reducible assumption
    | exact hl.of rfl
    | (with_reducible apply Frame.count)
    | (with_reducible apply Frame.flowNotify)
    | (with_reducible apply Frame.deleteCtx)
    | (with_reducible apply Frame.ite)

theorem Frame.makeResident {l : List Blk} {s z y : State} (hl : Sub [.free, .counters, .flow] l) (hk : Frame l s z) {n hash : Nat}
    (h : Machine.makeResident n hash z = some y) : Frame l s y := by
  unfold Machine.makeResident at h
  split at h
  · cases h; exact hk
  · obtain ⟨r, hr, rfl⟩ := Option.map_eq_some_iff.mp h
    with_reducible apply Frame.installCtx (hl.of rfl)
    exact Frame.reserveWay (hl.of rfl) hk hr

theorem Frame.pinCtx {l : List Blk} {s z y : State} (hl : Sub [.free, .counters, .flow] l) (hk : Frame l s z) {n : Nat} {pin : Bool}
    (h : Machine.pinCtx n pin z = some y) : Frame l s y := by
  unfold Machine.pinCtx at h
  dsimp only at h
  repeat' split at h
  · cases h; exact Frame.setCtx (hl.of rfl) hk _ _
  · exact Frame.makeResident (hl.of rfl) hk h
  · exact absurd h (by simp)
  · obtain ⟨r, hr, rfl⟩ := Option.map_eq_some_iff.mp h
    exact Frame.setCtx (hl.of rfl) (Frame.makeResident (hl.of rfl) hk hr) _ _

theorem Frame.flowWrite {l : List Blk} {s z : State} (hl : Sub [.free, .counters, .flow] l) (hk : Frame l s z) (d : Bytes) : Frame l s (Machine.flowWrite d z).1 := by
  have h : ∀ (m : Option (Nat × State)), (∀ n y, m = some (n, y) → Frame l s y) → ∀ (pin : Bool),
      Frame l s (match m with
        | none => (z, Reply.abort aRESOURCE)
        | some (n, s1) => match Machine.pinCtx n pin s1 with
          | none => (z, .abort aRESOURCE)
          | some s2 => (s2, .ok 0 0 9 (beBytes 4 n ++ beBytes 4 (s2.ctx n).gen))).1 := by
    intro m hm pin
    split
    · exact hk
    · split
      · exact hk
      · exact Frame.pinCtx (hl.of rfl) (hm _ _ rfl) (by assumption)
  refine h _ (fun n y hy => ?_) _
  split at hy
  · simp only [Option.some.injEq, Prod.mk.injEq] at hy
    obtain ⟨-, rfl⟩ := hy
    exact Frame.setCtx (hl.of rfl) hk _ _
  · exact Frame.createCtx (hl.of rfl) hk hy

theorem Frame.clearContexts {l : List Blk} {s z : State} (hl : Sub [.flow] l)
    (hk : Frame l s z) :
    Frame l s (Machine.clearContexts z) := by
  unfold Machine.clearContexts
  repeat' first
    | with_reducible assumption
    | exact hl.of rfl
    | (with_reducible apply Frame.deleteCtx)
    | (with_reducible refine Frame.forEach _ (fun _ _ _ => ?_) ?_)
    | (with_reducible apply Frame.modFlow)

end Sys2Proof
end

