-- ==== Sys2Proof/Laws/FrameFrames.lean ====
section
/-! SUPPORT. Which blocks the operations of Machine/Frames.lean may change. -/

namespace Sys2Proof
open Machine

theorem Frame.redirectPorts {l : List Blk} {s z : State} (hl : Sub [.counters] l) (hk : Frame l s z) (x : State) (as all : List Nat)
    (out : List (Nat × Option Nat)) : Frame l s (Machine.redirectPorts x as all out z).2 := by
  induction as generalizing z out with
  | nil => exact hk
  | cons p rest ih =>
    unfold Machine.redirectPorts
    repeat' first
      | with_reducible assumption
      | exact hl.of rfl
      | (with_reducible apply ih)
      | (with_reducible apply Frame.countPort)
      | (with_reducible apply Frame.ite_snd)

theorem Frame.hostParcel {l : List Blk} {s z : State} (hl : Sub [.counters] l)
    (hk : Frame l s z) (s0 : (State)) (die : Nat) (info : Meta) (b : Bytes) (g : Nat) :
    Frame l s (Machine.hostParcel s0 die info b g z).2 := by
  unfold Machine.hostParcel
  repeat' first
    | with_reducible assumption
    | exact hl.of rfl
    | (with_reducible apply Frame.count)
    | (with_reducible apply Frame.hostRefuses)
    | (with_reducible apply Frame.ite)
    | (with_reducible apply Frame.ite_fst)
    | (with_reducible apply Frame.ite_snd)
    | split

theorem Frame.ptpParent {l : List Blk} {s z : State} (hl : Sub [.time] l)
    (hk : Frame l s z) (port ty k : Nat) :
    Frame l s (Machine.ptpParent port ty k z) := by
  unfold Machine.ptpParent
  repeat' first
    | with_reducible assumption
    | exact hl.of rfl
    | ((with_reducible apply Frame.modTime) <;> first | exact fun _ _ => rfl | exact fun h => hl.not rfl h | skip)
    | (with_reducible apply Frame.ite)

theorem Frame.ptpServo {l : List Blk} {s z : State} (hl : Sub [.free, .counters, .dict, .time, .buf, .sched, .ep, .funcs, .polders, .wq, .siphon] l)
    (hk : Frame l s z) (port ty : Nat) (log : Int) :
    Frame l s (Machine.ptpServo port ty log z) := by
  unfold Machine.ptpServo
  repeat' first
    | with_reducible assumption
    | exact hl.of rfl
    | (with_reducible apply Frame.stepTime)
    | (with_reducible apply Frame.setRate)
    | (with_reducible apply Frame.ptpParent)
    | (with_reducible apply Frame.drawNat)
    | ((with_reducible apply Frame.modTime) <;> first | exact fun _ _ => rfl | exact fun h => hl.not rfl h | skip)
    | (with_reducible apply Frame.ite)
    | (with_reducible apply Frame.ite_fst)
    | (with_reducible apply Frame.ite_snd)
    | exact Frame.upd hk rfl (fun b n => by cases b <;> first | rfl | exact hl.not rfl n)

theorem Frame.ptpTake {l : List Blk} {s z : State} (hl : Sub [.free, .counters, .dict, .time, .buf, .sched, .ep, .funcs, .polders, .wq, .siphon] l)
    (hk : Frame l s z) (port : Nat) (x : Parsed) (b : Bytes) :
    Frame l s (Machine.ptpTake port x b z) := by
  unfold Machine.ptpTake
  repeat' first
    | with_reducible assumption
    | exact hl.of rfl
    | (with_reducible apply Frame.ptpServo)
    | split

theorem Frame.cellFault {l : List Blk} {s z : State} (hl : Sub [.counters, .buf] l)
    (hk : Frame l s z) (die sid : Nat) (fault : BufFault) :
    Frame l s (Machine.cellFault die sid fault z).2 := by
  unfold Machine.cellFault
  repeat' first
    | with_reducible assumption
    | exact hl.of rfl
    | (with_reducible apply Frame.releaseCopy)
    | (with_reducible apply Frame.eccError)
    | (with_reducible apply Frame.linkError)
    | (with_reducible apply Frame.bufFaultAt)
    | split

theorem Frame.siphonTake {l : List Blk} {s z : State} (hl : Sub [.id, .counters, .buf, .siphon] l)
    (hk : Frame l s z) (port : Nat) (x : Parsed) (b : Bytes) :
    Frame l s (Machine.siphonTake port x b z) := by
  unfold Machine.siphonTake
  repeat' first
    | with_reducible assumption
    | exact hl.of rfl
    | (with_reducible apply Frame.admitFrame)
    | (with_reducible apply Frame.modSiphon)
    | (refine Frame.of_eq_snd (by assumption) ?_)
    | split

theorem Frame.learnFrom {l : List Blk} {s z : State} (hl : Sub [.counters, .tables] l)
    (hk : Frame l s z) (die port : Nat) (v : Vlan) (smac : Nat) :
    Frame l s (Machine.learnFrom die port v smac z) := by
  unfold Machine.learnFrom
  repeat' first
    | with_reducible assumption
    | exact hl.of rfl
    | (with_reducible apply Frame.count)
    | (with_reducible apply Frame.sendLearn)
    | (with_reducible apply Frame.sourceHit)
    | (with_reducible apply Frame.ite)
    | split

theorem Frame.bridged {l : List Blk} {s z : State} (hl : Sub [.counters] l)
    (hk : Frame l s z) (die port : Nat) (v : Vlan) (dmac : Nat) :
    Frame l s (Machine.bridged die port v dmac z).2 := by
  unfold Machine.bridged
  repeat' first
    | with_reducible assumption
    | exact hl.of rfl
    | (with_reducible apply Frame.count)
    | (with_reducible apply Frame.ite)
    | (with_reducible apply Frame.ite_fst)
    | (with_reducible apply Frame.ite_snd)
    | split

theorem Frame.streamMeter {l : List Blk} {s z : State} (hl : Sub [.sched] l)
    (hk : Frame l s z) (t die h pcp : Nat) (m : Option Colour) (b : Bytes) (len : Nat) :
    Frame l s (Machine.streamMeter t die h pcp m b len z).2 := by
  unfold Machine.streamMeter
  repeat' first
    | with_reducible assumption
    | exact hl.of rfl
    | (with_reducible apply Frame.setFilter)
    | (with_reducible apply Frame.meterAs)
    | (with_reducible apply Frame.setFilter)
    | (with_reducible apply Frame.ite)
    | (with_reducible apply Frame.ite_fst)
    | (with_reducible apply Frame.ite_snd)

theorem Frame.frerIngress {l : List Blk} {s z : State} (hl : Sub [.frer] l)
    (hk : Frame l s z) (h port : Nat) :
    Frame l s (Machine.frerIngress h port z).2 := by
  unfold Machine.frerIngress
  repeat' first
    | with_reducible assumption
    | exact hl.of rfl
    | (with_reducible apply Frame.setFrer)
    | (with_reducible apply Frame.frerCount)
    | (with_reducible apply Frame.setFrer)
    | (with_reducible apply Frame.ite)
    | (with_reducible apply Frame.ite_fst)
    | (with_reducible apply Frame.ite_snd)

theorem Frame.sendOn {l : List Blk} {s z : State} (hl : Sub [.id, .counters, .flow, .buf, .ep, .funcs, .polders, .wq, .siphon, .culv] l)
    (hk : Frame l s z) (f : RFrame) (x : Parsed) (v : Vlan) (parcels : List Parcel) :
    Frame l s (Machine.sendOn f x v parcels z) := by
  unfold Machine.sendOn
  repeat' first
    | with_reducible assumption
    | exact hl.of rfl
    | (with_reducible apply Frame.launchAll)
    | (with_reducible apply Frame.sendRequest)
    | (with_reducible apply Frame.ite)
    | (with_reducible apply Frame.ite_fst)
    | (with_reducible apply Frame.ite_snd)
    | split

theorem Frame.sendCopies {l : List Blk} {s z : State} (hl : Sub [.id, .counters, .flow, .buf, .ep, .funcs, .polders, .wq, .siphon, .culv] l)
    (hk : Frame l s z) (f : RFrame) (x : Parsed) (v : Vlan) (b : Bytes) (mirrors : List Parcel) (handle seq : Option Nat) (m : Option Colour) :
    Frame l s (Machine.sendCopies f x v b mirrors handle seq m z) := by
  unfold Machine.sendCopies
  repeat' first
    | with_reducible assumption
    | exact hl.of rfl
    | (with_reducible apply Frame.launchAll)
    | (with_reducible apply Frame.redirectPorts)
    | (with_reducible apply Frame.hostParcel)
    | (with_reducible apply Frame.bridged)
    | (with_reducible apply Frame.sendOn)
    | split
    | dsimp only

theorem Frame.finalPass {l : List Blk} {s z : State} (hl : Sub [.id, .counters, .frer, .tables, .flow, .buf, .sched, .ep, .funcs, .polders, .wq, .siphon, .culv] l)
    (hk : Frame l s z) (t : Nat) (f : RFrame) (x : Parsed) (b : Bytes) (mirrors : List Parcel) (m0 : Option Colour) :
    Frame l s (Machine.finalPass t f x b mirrors m0 z) := by
  unfold Machine.finalPass
  repeat' first
    | with_reducible assumption
    | exact hl.of rfl
    | (with_reducible apply Frame.count)
    | (with_reducible apply Frame.launchAll)
    | (with_reducible apply Frame.siphonTake)
    | (with_reducible apply Frame.learnFrom)
    | (with_reducible apply Frame.streamMeter)
    | (with_reducible apply Frame.frerIngress)
    | (with_reducible apply Frame.sendCopies)
    | (with_reducible apply Frame.ite)
    | (with_reducible apply Frame.ite_fst)
    | (with_reducible apply Frame.ite_snd)
    | split
    | dsimp only

theorem Frame.mirrorParcels {l : List Blk} {s z : State} (hl : Sub [.counters] l)
    (hk : Frame l s z) (f : RFrame) (x : Parsed) (dest : Nat) (b : Bytes) :
    Frame l s (Machine.mirrorParcels z f x dest b).2 := by
  unfold Machine.mirrorParcels
  repeat' first
    | with_reducible assumption
    | exact hl.of rfl
    | (with_reducible apply Frame.redirectPorts)

theorem Frame.toGroup {l : List Blk} {s z : State} (hl : Sub [.id, .counters, .buf, .ep, .funcs, .polders, .wq, .siphon, .culv] l)
    (hk : Frame l s z) (f : RFrame) (x : Parsed) (flags reason g : Nat) :
    Frame l s (Machine.toGroup f x flags reason g z) := by
  unfold Machine.toGroup
  repeat' first
    | with_reducible assumption
    | exact hl.of rfl
    | (with_reducible apply Frame.launchAll)
    | (with_reducible apply Frame.hostParcel)

theorem Frame.malformedFrame {l : List Blk} {s z : State} (hl : Sub [.id, .counters, .cls, .buf, .ep, .funcs, .polders, .wq, .siphon, .culv] l)
    (hk : Frame l s z) (f : RFrame) (x : Parsed) (code : Nat) :
    Frame l s (Machine.malformedFrame f x code z) := by
  unfold Machine.malformedFrame
  repeat' first
    | with_reducible assumption
    | exact hl.of rfl
    | (with_reducible apply Frame.raiseDie)
    | (with_reducible apply Frame.countQ)
    | (with_reducible apply Frame.toGroup)
    | (with_reducible apply Frame.modCls)
    | (with_reducible apply Frame.ite)

theorem Frame.ruleCount {l : List Blk} {s z : State} (hl : Sub [.cls] l)
    (hk : Frame l s z) (die len : Nat) (a : Bytes) :
    Frame l s (Machine.ruleCount die len a z) := by
  unfold Machine.ruleCount
  repeat' first
    | with_reducible assumption
    | exact hl.of rfl
    | (with_reducible apply Frame.modCls)
    | (with_reducible apply Frame.ite)

theorem Frame.recirculate {l : List Blk} {s z : State} (hl : Sub [.id, .counters, .frer, .cls, .tables, .flow, .buf, .sched, .ep, .funcs, .polders, .wq, .siphon, .culv] l)
    (hk : Frame l s z) (t : Nat) (f : RFrame) (x : Parsed) (a b : Bytes) (mirrors : List Parcel) (m : Option Colour) :
    Frame l s (Machine.recirculate t f x a b mirrors m z) := by
  unfold Machine.recirculate
  repeat' first
    | with_reducible assumption
    | exact hl.of rfl
    | (with_reducible apply Frame.count)
    | (with_reducible apply Frame.launchAll)
    | (with_reducible apply Frame.finalPass)
    | (with_reducible apply Frame.modCls)
    | (with_reducible apply Frame.ite)

theorem Frame.passActions {l : List Blk} {s z : State} (hl : Sub [.id, .counters, .frer, .cls, .tables, .flow, .buf, .sched, .ep, .funcs, .polders, .wq, .siphon, .culv] l)
    (hk : Frame l s z) (t : Nat) (f : RFrame) (x : Parsed) (a : Bytes) :
    Frame l s (Machine.passActions t f x a z) := by
  unfold Machine.passActions
  repeat' first
    | with_reducible assumption
    | exact hl.of rfl
    | (with_reducible apply Frame.count)
    | (with_reducible apply Frame.meterAs)
    | (with_reducible apply Frame.launchAll)
    | (with_reducible apply Frame.finalPass)
    | (with_reducible apply Frame.mirrorParcels)
    | (with_reducible apply Frame.ruleCount)
    | (with_reducible apply Frame.recirculate)
    | (with_reducible apply Frame.ite)
    | (with_reducible apply Frame.ite_fst)
    | (with_reducible apply Frame.ite_snd)

theorem Frame.onePass {l : List Blk} {s z : State} (hl : Sub [.free, .id, .counters, .dict, .time, .frer, .cls, .tables, .flow, .buf, .sched, .ep, .funcs, .polders, .wq, .siphon, .culv] l)
    (hk : Frame l s z) (t : Nat) (f : RFrame) :
    Frame l s (Machine.onePass t f z) := by
  unfold Machine.onePass
  repeat' first
    | with_reducible assumption
    | exact hl.of rfl
    | (with_reducible apply Frame.count)
    | (with_reducible apply Frame.ptpTake)
    | (with_reducible apply Frame.toGroup)
    | (with_reducible apply Frame.malformedFrame)
    | (with_reducible apply Frame.passActions)
    | (with_reducible apply Frame.ite)
    | split
    | exact Frame.upd hk rfl (fun b n => by cases b <;> first | rfl | exact hl.not rfl n)
    | dsimp only

theorem Frame.setPipeUse {l : List Blk} {s z : State} (hl : Sub [.cls] l)
    (hk : Frame l s z) (pipe : Nat) (u : PipeUse) :
    Frame l s (Machine.setPipeUse pipe u z) := by
  unfold Machine.setPipeUse
  repeat' first
    | with_reducible assumption
    | exact hl.of rfl
    | (with_reducible apply Frame.modCls)

theorem Frame.setWaiting {l : List Blk} {s z : State} (hl : Sub [.cls] l)
    (hk : Frame l s z) (pipe : Nat) (l1 : List RFrame) :
    Frame l s (Machine.setWaiting pipe l1 z) := by
  unfold Machine.setWaiting
  repeat' first
    | with_reducible assumption
    | exact hl.of rfl
    | (with_reducible apply Frame.modCls)

theorem Frame.firstPass {l : List Blk} {s z : State} (hl : Sub [.free, .id, .counters, .dict, .time, .frer, .cls, .tables, .flow, .buf, .sched, .ep, .funcs, .polders, .wq, .siphon, .culv] l)
    (hk : Frame l s z) (t : Nat) (f : RFrame) :
    Frame l s (Machine.firstPass t f z) := by
  unfold Machine.firstPass
  repeat' first
    | with_reducible assumption
    | exact hl.of rfl
    | (with_reducible apply Frame.onePass)
    | (with_reducible apply Frame.setPipeUse)

theorem Frame.runWaiting {l : List Blk} {s z : State} (hl : Sub [.free, .id, .counters, .dict, .time, .frer, .cls, .tables, .flow, .buf, .sched, .ep, .funcs, .polders, .wq, .siphon, .culv] l)
    (hk : Frame l s z) (t pipe : Nat) (a0 : List RFrame) :
    Frame l s (Machine.runWaiting t pipe a0 z) := by
  induction a0 generalizing z with
  | nil => exact hk
  | cons hd tl ih =>
    unfold Machine.runWaiting
    try dsimp only
    repeat' first
      | with_reducible assumption
      | exact hl.of rfl
      | (with_reducible apply ih)
      | (with_reducible apply Frame.setWaiting)
      | (with_reducible apply Frame.firstPass)
      | (with_reducible apply Frame.ite)

theorem Frame.intoPipe {l : List Blk} {s z : State} (hl : Sub [.free, .id, .counters, .dict, .time, .frer, .cls, .tables, .flow, .buf, .sched, .ep, .funcs, .polders, .wq, .siphon, .culv] l)
    (hk : Frame l s z) (t : Nat) (f : RFrame) :
    Frame l s (Machine.intoPipe t f z) := by
  unfold Machine.intoPipe
  repeat' first
    | with_reducible assumption
    | exact hl.of rfl
    | (with_reducible apply Frame.count)
    | (with_reducible apply Frame.setWaiting)
    | (with_reducible apply Frame.firstPass)
    | (with_reducible apply Frame.runWaiting)
    | (with_reducible apply Frame.ite)

theorem Frame.ingressStamp {l : List Blk} {s z : State} (hl : Sub [.free] l)
    (hk : Frame l s z) (port len : Nat) :
    Frame l s (Machine.ingressStamp port len z).2 := by
  unfold Machine.ingressStamp
  repeat' first
    | with_reducible assumption
    | exact hl.of rfl
    | (with_reducible apply Frame.stampNow)

theorem Frame.receiveFrame {l : List Blk} {s z : State} (hl : Sub [.free, .id, .counters, .dict, .time, .frer, .cls, .tables, .flow, .buf, .sched, .ep, .funcs, .polders, .wq, .siphon, .culv] l)
    (hk : Frame l s z) (t port : Nat) (b : Bytes) (fcsOk : Bool) :
    Frame l s (Machine.receiveFrame t port b fcsOk z) := by
  unfold Machine.receiveFrame
  repeat' first
    | with_reducible assumption
    | exact hl.of rfl
    | (with_reducible apply Frame.countPort)
    | (with_reducible apply Frame.intoPipe)
    | (with_reducible apply Frame.ingressStamp)
    | (with_reducible apply Frame.ticket)
    | (with_reducible apply Frame.ite)
    | (with_reducible apply Frame.ite_fst)
    | (with_reducible apply Frame.ite_snd)
    | split

theorem Frame.ptpMessage {l : List Blk} {s z : State} (hl : Sub [.free, .id, .counters, .dict, .time, .frer, .cls, .tables, .flow, .buf, .sched, .ep, .funcs, .polders, .wq, .siphon, .culv] l)
    (hk : Frame l s z) (t port : Nat) (b : Bytes) :
    Frame l s (Machine.ptpMessage t port b z) := by
  unfold Machine.ptpMessage
  repeat' first
    | with_reducible assumption
    | exact hl.of rfl
    | (with_reducible apply Frame.receiveFrame)
    | (with_reducible apply Frame.ite)

theorem Frame.recircPass {l : List Blk} {s z : State} (hl : Sub [.free, .id, .counters, .dict, .time, .frer, .cls, .tables, .flow, .buf, .sched, .ep, .funcs, .polders, .wq, .siphon, .culv] l)
    (hk : Frame l s z) (t pipe : Nat) :
    Frame l s (Machine.recircPass t pipe z) := by
  unfold Machine.recircPass
  repeat' first
    | with_reducible assumption
    | exact hl.of rfl
    | (with_reducible apply Frame.onePass)
    | (with_reducible apply Frame.setPipeUse)
    | (with_reducible apply Frame.runWaiting)
    | (with_reducible apply Frame.modCls)
    | (with_reducible apply Frame.ite)
    | split

theorem Frame.arriveCopy {l : List Blk} {s z : State} (hl : Sub [.counters] l)
    (hk : Frame l s z) (die : Nat) (e : Nat × Nat × Option Nat) :
    Frame l s (Machine.arriveCopy die e z).2 := by
  unfold Machine.arriveCopy
  repeat' first
    | with_reducible assumption
    | exact hl.of rfl
    | (with_reducible apply Frame.countPort)
    | (with_reducible apply Frame.ite)
    | (with_reducible apply Frame.ite_fst)
    | (with_reducible apply Frame.ite_snd)
    | split

theorem Frame.arriveAll {l : List Blk} {s z : State} (hl : Sub [.counters] l)
    (hk : Frame l s z) (die : Nat) (a0 : List (Nat × Nat × Option Nat)) :
    Frame l s (Machine.arriveAll die a0 z).2 := by
  induction a0 generalizing z with
  | nil => exact hk
  | cons hd tl ih =>
    unfold Machine.arriveAll
    try dsimp only
    repeat' first
      | with_reducible assumption
      | exact hl.of rfl
      | (with_reducible apply ih)
      | (with_reducible apply Frame.arriveCopy)

theorem Frame.arrivePorts {l : List Blk} {s z : State} (hl : Sub [.id, .counters, .buf, .sched, .ep, .funcs, .polders, .wq, .siphon, .culv] l)
    (hk : Frame l s z) (t : Nat) (p : Parcel) :
    Frame l s (Machine.arrivePorts t p z) := by
  unfold Machine.arrivePorts
  repeat' first
    | with_reducible assumption
    | exact hl.of rfl
    | (with_reducible apply Frame.storeCopies)
    | (with_reducible apply Frame.txDone)
    | (with_reducible apply Frame.txLost)
    | (with_reducible apply Frame.enqueueCopy)
    | (with_reducible apply Frame.launch)
    | (with_reducible apply Frame.arriveAll)
    | (with_reducible refine Frame.forEach _ (fun _ _ _ => ?_) ?_)
    | (with_reducible apply Frame.ite)
    | (with_reducible apply Frame.ite_fst)
    | (with_reducible apply Frame.ite_snd)
    | (refine Frame.of_eq_snd (by assumption) ?_)
    | split

theorem Frame.holdFrame {l : List Blk} {s z : State} (hl : Sub [.buf, .wq] l)
    (hk : Frame l s z) (t fn q : Nat) (place : HPlace) (info : Meta) (b : Bytes) :
    Frame l s (Machine.holdFrame t fn q place info b z) := by
  unfold Machine.holdFrame
  repeat' first
    | with_reducible assumption
    | exact hl.of rfl
    | (with_reducible apply Frame.setHostFrames)
    | (with_reducible apply Frame.trackHost)

theorem Frame.arriveHost {l : List Blk} {s z : State} (hl : Sub [.id, .counters, .buf, .wq] l)
    (hk : Frame l s z) (t : Nat) (p : Parcel) (e : Nat × Nat) :
    Frame l s (Machine.arriveHost t p e z) := by
  unfold Machine.arriveHost
  repeat' first
    | with_reducible assumption
    | exact hl.of rfl
    | (with_reducible apply Frame.count)
    | (with_reducible apply Frame.admitFrame)
    | (with_reducible apply Frame.trackHost)
    | (with_reducible apply Frame.hostRefuses)
    | (with_reducible apply Frame.holdFrame)
    | (with_reducible apply Frame.ite)
    | (with_reducible apply Frame.ite_fst)
    | (with_reducible apply Frame.ite_snd)
    | (refine Frame.of_eq_snd (by assumption) ?_)
    | split

theorem Frame.frameEnqueue {l : List Blk} {s z : State} (hl : Sub [.id, .counters, .buf, .sched, .ep, .funcs, .polders, .wq, .siphon, .culv] l)
    (hk : Frame l s z) (t ticket : Nat) (fault : BufFault) :
    Frame l s (Machine.frameEnqueue t ticket fault z) := by
  unfold Machine.frameEnqueue
  repeat' first
    | with_reducible assumption
    | exact hl.of rfl
    | (with_reducible apply Frame.bufFaultAt)
    | (with_reducible apply Frame.arrivePorts)
    | (with_reducible apply Frame.arriveHost)
    | (with_reducible apply Frame.ticket)
    | (with_reducible refine Frame.forEach _ (fun _ _ _ => ?_) ?_)
    | (with_reducible apply Frame.modBuf)
    | (with_reducible apply Frame.ite)
    | split

theorem Frame.takeOutbox {l : List Blk} {s z : State} (hl : Sub [.dict] l)
    (hk : Frame l s z) (port : Nat) (b : Bytes) :
    Frame l s (Machine.takeOutbox port b z) := by
  unfold Machine.takeOutbox
  repeat' first
    | with_reducible assumption
    | exact hl.of rfl
    | ((with_reducible apply Frame.modDict) <;> first | exact fun _ _ => rfl | exact fun h => hl.not rfl h | skip)
    | (with_reducible apply Frame.ite)
    | split

theorem Frame.injectionFrame {l : List Blk} {s z : State} (hl : Sub [.id, .counters, .dict, .buf, .sched] l)
    (hk : Frame l s z) (t port : Nat) (b : Bytes) :
    Frame l s (Machine.injectionFrame t port b z) := by
  unfold Machine.injectionFrame
  repeat' first
    | with_reducible assumption
    | exact hl.of rfl
    | (with_reducible apply Frame.setPsched)
    | (with_reducible apply Frame.count)
    | (with_reducible apply Frame.countPort)
    | (with_reducible apply Frame.admitFrame)
    | (with_reducible apply Frame.takeOutbox)
    | (with_reducible apply Frame.setPsched)
    | (with_reducible apply Frame.ite)
    | (refine Frame.of_eq_snd (by assumption) ?_)
    | split

theorem Frame.egressStamp {l : List Blk} {s z : State} (hl : Sub [.free] l)
    (hk : Frame l s z) (port start : Nat) :
    Frame l s (Machine.egressStamp port start z).2 := by
  unfold Machine.egressStamp
  repeat' first
    | with_reducible assumption
    | exact hl.of rfl
    | (with_reducible apply Frame.drawStampError)

theorem Frame.frerEgress {l : List Blk} {s z : State} (hl : Sub [.frer] l)
    (hk : Frame l s z) (port : Nat) (info : Meta) (b : Bytes) :
    Frame l s (Machine.frerEgress port info b z).2.2 := by
  unfold Machine.frerEgress
  repeat' first
    | with_reducible assumption
    | exact hl.of rfl
    | (with_reducible apply Frame.frerRecover)
    | (with_reducible apply Frame.ite)
    | (with_reducible apply Frame.ite_fst)
    | (with_reducible apply Frame.ite_snd)
    | split
    | dsimp only

theorem Frame.txSelect {l : List Blk} {s z : State} (hl : Sub [.free, .counters, .frer, .buf, .sched, .ep, .funcs, .polders, .wq, .siphon] l)
    (hk : Frame l s z) (t port : Nat) :
    Frame l s (Machine.txSelect t port z) := by
  unfold Machine.txSelect
  repeat' first
    | with_reducible assumption
    | exact hl.of rfl
    | (with_reducible apply Frame.setPsched)
    | (with_reducible apply Frame.countPort)
    | (with_reducible apply Frame.releaseCopy)
    | (with_reducible apply Frame.txLost)
    | (with_reducible apply Frame.dequeuePick)
    | (with_reducible apply Frame.egressStamp)
    | (with_reducible apply Frame.frerEgress)
    | (with_reducible apply Frame.setPsched)
    | (with_reducible apply Frame.ite)
    | (with_reducible apply Frame.ite_fst)
    | (with_reducible apply Frame.ite_snd)
    | split

theorem Frame.frameSent {l : List Blk} {s z : State} (hl : Sub [.id, .counters, .dict, .buf, .sched, .ep, .funcs, .polders, .wq, .siphon] l)
    (hk : Frame l s z) (port : Nat) (x : TxFrame) (bad : Bool) :
    Frame l s (Machine.frameSent port x bad z) := by
  unfold Machine.frameSent
  repeat' first
    | with_reducible assumption
    | exact hl.of rfl
    | (with_reducible apply Frame.countPort)
    | (with_reducible apply Frame.queueCount)
    | (with_reducible apply Frame.txDone)
    | (with_reducible apply Frame.injectionFrame)
    | (with_reducible apply Frame.emit)
    | split
    | dsimp only

theorem Frame.frameTxComplete {l : List Blk} {s z : State} (hl : Sub [.id, .counters, .dict, .buf, .sched, .ep, .funcs, .polders, .wq, .siphon] l)
    (hk : Frame l s z) (port : Nat) (fault : BufFault) :
    Frame l s (Machine.frameTxComplete port fault z) := by
  unfold Machine.frameTxComplete
  repeat' first
    | with_reducible assumption
    | exact hl.of rfl
    | (with_reducible apply Frame.setPsched)
    | (with_reducible apply Frame.releaseCopy)
    | (with_reducible apply Frame.eccError)
    | (with_reducible apply Frame.linkError)
    | (with_reducible apply Frame.bufFaultAt)
    | (with_reducible apply Frame.underrunCount)
    | (with_reducible apply Frame.txLost)
    | (with_reducible apply Frame.dropCopies)
    | (with_reducible apply Frame.frameSent)
    | (with_reducible apply Frame.setPsched)
    | (with_reducible apply Frame.ite)
    | split
    | exact Frame.upd hk rfl (fun b n => by cases b <;> first | rfl | exact hl.not rfl n)
    | dsimp only

theorem Frame.htxWait {l : List Blk} {s z : State} (hl : Sub [.sched] l)
    (hk : Frame l s z) (f : HtxFrame) :
    Frame l s (Machine.htxWait f z) := by
  unfold Machine.htxWait
  repeat' first
    | with_reducible assumption
    | exact hl.of rfl
    | (with_reducible apply Frame.setHtx)

theorem Frame.hostTxSelect {l : List Blk} {s z : State} (hl : Sub [.id, .counters, .buf, .sched, .ep, .funcs, .polders, .wq, .siphon, .culv] l)
    (hk : Frame l s z) (die : Nat) :
    Frame l s (Machine.hostTxSelect die z) := by
  unfold Machine.hostTxSelect
  repeat' first
    | with_reducible assumption
    | exact hl.of rfl
    | (with_reducible apply Frame.setHtx)
    | (with_reducible apply Frame.launch)
    | (with_reducible apply Frame.setHtx)
    | (with_reducible apply Frame.ite)
    | split
    | exact Frame.upd hk rfl (fun b n => by cases b <;> first | rfl | exact hl.not rfl n)
    | dsimp only

theorem Frame.writeSample {l : List Blk} {s z : State} (hl : Sub [.counters, .buf, .ep, .funcs, .polders, .wq] l)
    (hk : Frame l s z) (fn : Nat) (x : Sample) :
    Frame l s (Machine.writeSample fn x z).2 := by
  unfold Machine.writeSample
  repeat' first
    | with_reducible assumption
    | exact hl.of rfl
    | (with_reducible apply Frame.setQueue)
    | (with_reducible apply Frame.dmaWrite)
    | (with_reducible apply Frame.refuseRequest)
    | (with_reducible apply Frame.moderate)
    | (with_reducible apply Frame.setQueue)
    | (with_reducible apply Frame.ite)
    | (with_reducible apply Frame.ite_fst)
    | (with_reducible apply Frame.ite_snd)
    | split

theorem Frame.samplePort {l : List Blk} {s z : State} (hl : Sub [.counters, .buf, .sched, .ep, .funcs, .polders, .wq] l)
    (hk : Frame l s z) (t port tc : Nat) :
    Frame l s (Machine.samplePort t port tc z) := by
  unfold Machine.samplePort
  repeat' first
    | with_reducible assumption
    | exact hl.of rfl
    | (with_reducible apply Frame.setPsched)
    | (with_reducible apply Frame.writeSample)

theorem Frame.sampleHost {l : List Blk} {s z : State} (hl : Sub [.counters, .buf, .ep, .funcs, .polders, .wq] l)
    (hk : Frame l s z) (t fn q : Nat) :
    Frame l s (Machine.sampleHost t fn q z) := by
  unfold Machine.sampleHost
  repeat' first
    | with_reducible assumption
    | exact hl.of rfl
    | (with_reducible apply Frame.setQueue)
    | (with_reducible apply Frame.writeSample)

end Sys2Proof
end

