-- ==== Sys2Proof/Laws/FrameSiphon.lean ====
section
/-! SUPPORT. Which blocks the operations of Machine/Siphon.lean may change. -/

namespace Sys2Proof
open Machine

theorem Frame.sipCount {l : List Blk} {s z : State} (hl : Sub [.counters] l)
    (hk : Frame l s z) (sub fn : Nat) :
    Frame l s (Machine.sipCount sub fn z) := by
  unfold Machine.sipCount
  repeat' first
    | with_reducible assumption
    | exact hl.of rfl
    | (with_reducible apply Frame.countFor)

theorem Frame.sFarm {l : List Blk} {s z : State} (hl : Sub [.counters] l)
    (hk : Frame l s z) (fn n : Nat) :
    Frame l s (Machine.sFarm fn n z) := by
  unfold Machine.sFarm
  repeat' first
    | with_reducible assumption
    | exact hl.of rfl
    | (with_reducible apply Frame.countQ)

theorem Frame.sLaunch {l : List Blk} {s z : State} (hl : Sub [.free, .id, .counters, .buf, .ep, .funcs, .polders, .wq, .siphon, .culv] l)
    (hk : Frame l s z) (g i : Nat) (p : SPath) (pkt : Bytes) (ect : Bool) (psn : Nat) :
    Frame l s (Machine.sLaunch g i p pkt ect psn z) := by
  unfold Machine.sLaunch
  repeat' first
    | with_reducible assumption
    | exact hl.of rfl
    | (with_reducible apply Frame.launch)
    | (with_reducible apply Frame.sipCount)
    | (with_reducible apply Frame.sFarm)
    | (with_reducible apply Frame.drawNat)
    | (with_reducible apply Frame.ite)

theorem Frame.endMsgs {l : List Blk} {s z : State} (hl : Sub [.wq] l)
    (hk : Frame l s z) (l1 : List SMsg) (status : Nat) (named : Option (Nat × Nat)) :
    Frame l s (Machine.endMsgs l1 status named z) := by
  unfold Machine.endMsgs
  repeat' first
    | with_reducible assumption
    | exact hl.of rfl
    | (with_reducible apply Frame.finishChain)
    | (with_reducible refine Frame.forEach _ (fun _ _ _ => ?_) ?_)
    | (with_reducible apply Frame.ite)
    | (with_reducible apply Frame.ite_fst)
    | (with_reducible apply Frame.ite_snd)
    | split

theorem Frame.endRecvs {l : List Blk} {s z : State} (hl : Sub [.wq] l)
    (hk : Frame l s z) (l1 : List (Nat × Nat × Nat)) :
    Frame l s (Machine.endRecvs l1 z) := by
  unfold Machine.endRecvs
  repeat' first
    | with_reducible assumption
    | exact hl.of rfl
    | (with_reducible apply Frame.finishChain)
    | (with_reducible refine Frame.forEach _ (fun _ _ _ => ?_) ?_)

theorem Frame.journalCut {l : List Blk} {s z : State} (hl : Sub [.cipher, .jrn] l)
    (hk : Frame l s z) (p : JSrc → Bool) :
    Frame l s (Machine.journalCut p z) := by
  unfold Machine.journalCut
  repeat' first
    | with_reducible assumption
    | exact hl.of rfl
    | (with_reducible apply Frame.cipherDrop)
    | (with_reducible apply Frame.modJrn)

theorem Frame.journalDetach {l : List Blk} {s z : State} (hl : Sub [.jrn] l)
    (hk : Frame l s z) (p : JSrc → Bool) :
    Frame l s (Machine.journalDetach p z) := by
  unfold Machine.journalDetach
  repeat' first
    | with_reducible assumption
    | exact hl.of rfl
    | (with_reducible apply Frame.setCart)
    | (with_reducible apply Frame.setCart)
    | (with_reducible refine Frame.forEach _ (fun _ _ _ => ?_) ?_)
    | (with_reducible apply Frame.modJrn)

theorem Frame.journalDrop {l : List Blk} {s z : State} (hl : Sub [.cipher, .jrn] l)
    (hk : Frame l s z) (p : JSrc → Bool) :
    Frame l s (Machine.journalDrop p z) := by
  unfold Machine.journalDrop
  repeat' first
    | with_reducible assumption
    | exact hl.of rfl
    | (with_reducible apply Frame.journalCut)
    | (with_reducible apply Frame.journalDetach)

theorem Frame.channelError {l : List Blk} {s z : State} (hl : Sub [.counters, .wq, .cipher, .siphon, .jrn] l)
    (hk : Frame l s z) (g status : Nat) (named : Option (Nat × Nat)) (quiet : Bool) :
    Frame l s (Machine.channelError g status named quiet z) := by
  unfold Machine.channelError
  repeat' first
    | with_reducible assumption
    | exact hl.of rfl
    | (with_reducible apply Frame.setChannel)
    | (with_reducible apply Frame.raise)
    | (with_reducible apply Frame.sipCount)
    | (with_reducible apply Frame.endMsgs)
    | (with_reducible apply Frame.endRecvs)
    | (with_reducible apply Frame.journalDrop)
    | (with_reducible apply Frame.setChannel)
    | (with_reducible apply Frame.ite)

theorem Frame.sendControl {l : List Blk} {s z : State} (hl : Sub [.free, .id, .counters, .buf, .ep, .funcs, .polders, .wq, .cipher, .siphon, .jrn, .culv] l)
    (hk : Frame l s z) (g op psn len off addr : Nat) (path : Option Nat) :
    Frame l s (Machine.sendControl g op psn len off addr path z) := by
  unfold Machine.sendControl
  repeat' first
    | with_reducible assumption
    | exact hl.of rfl
    | (with_reducible apply Frame.setChannel)
    | (with_reducible apply Frame.sLaunch)
    | (with_reducible apply Frame.channelError)
    | (with_reducible apply Frame.drawNat)
    | (with_reducible apply Frame.setChannel)
    | (with_reducible apply Frame.ite)
    | (with_reducible apply Frame.ite_fst)
    | (with_reducible apply Frame.ite_snd)
    | split
    | exact Frame.upd hk rfl (fun b n => by cases b <;> first | rfl | exact hl.not rfl n)
    | dsimp only

theorem Frame.sendAck {l : List Blk} {s z : State} (hl : Sub [.free, .id, .counters, .buf, .ep, .funcs, .polders, .wq, .cipher, .siphon, .jrn, .culv] l)
    (hk : Frame l s z) (g : Nat) :
    Frame l s (Machine.sendAck g z) := by
  unfold Machine.sendAck
  repeat' first
    | with_reducible assumption
    | exact hl.of rfl
    | (with_reducible apply Frame.setChannel)
    | (with_reducible apply Frame.sendControl)

theorem Frame.scheduleAck {l : List Blk} {s z : State} (hl : Sub [.free, .id, .counters, .buf, .ep, .funcs, .polders, .wq, .cipher, .siphon, .jrn, .culv] l)
    (hk : Frame l s z) (t g : Nat) (now : Bool) :
    Frame l s (Machine.scheduleAck t g now z) := by
  unfold Machine.scheduleAck
  repeat' first
    | with_reducible assumption
    | exact hl.of rfl
    | (with_reducible apply Frame.setChannel)
    | (with_reducible apply Frame.sendAck)
    | (with_reducible apply Frame.setChannel)
    | (with_reducible apply Frame.ite)

theorem Frame.sendNak {l : List Blk} {s z : State} (hl : Sub [.free, .id, .counters, .buf, .ep, .funcs, .polders, .wq, .cipher, .siphon, .jrn, .culv] l)
    (hk : Frame l s z) (g op psn msg status : Nat) :
    Frame l s (Machine.sendNak g op psn msg status z) := by
  unfold Machine.sendNak
  repeat' first
    | with_reducible assumption
    | exact hl.of rfl
    | (with_reducible apply Frame.setChannel)
    | (with_reducible apply Frame.sipCount)
    | (with_reducible apply Frame.sendControl)

theorem Frame.sendCnp {l : List Blk} {s z : State} (hl : Sub [.free, .id, .counters, .buf, .ep, .funcs, .polders, .wq, .cipher, .siphon, .jrn, .culv] l)
    (hk : Frame l s z) (t g : Nat) :
    Frame l s (Machine.sendCnp t g z) := by
  unfold Machine.sendCnp
  repeat' first
    | with_reducible assumption
    | exact hl.of rfl
    | (with_reducible apply Frame.setChannel)
    | (with_reducible apply Frame.sipCount)
    | (with_reducible apply Frame.sendControl)
    | (with_reducible apply Frame.setChannel)
    | (with_reducible apply Frame.ite)
    | (with_reducible apply Frame.ite_fst)
    | (with_reducible apply Frame.ite_snd)
    | (with_reducible refine Frame.foldl _ (fun _ _ _ => ?_) ?_)
    | (with_reducible refine Frame.foldl_fst _ (fun _ _ _ => ?_) ?_)
    | (with_reducible refine Frame.foldl_snd _ (fun _ _ _ => ?_) ?_)
    | split
    | exact Frame.upd hk rfl (fun b n => by cases b <;> first | rfl | exact hl.not rfl n)
    | dsimp only

theorem Frame.setPath {l : List Blk} {s z : State} (hl : Sub [.siphon] l)
    (hk : Frame l s z) (g i : Nat) (f : SPath → SPath) :
    Frame l s (Machine.setPath g i f z) := by
  unfold Machine.setPath
  repeat' first
    | with_reducible assumption
    | exact hl.of rfl
    | (with_reducible apply Frame.setChannel)

theorem Frame.pathDown {l : List Blk} {s z : State} (hl : Sub [.counters, .siphon] l)
    (hk : Frame l s z) (t g i : Nat) :
    Frame l s (Machine.pathDown t g i z) := by
  unfold Machine.pathDown
  repeat' first
    | with_reducible assumption
    | exact hl.of rfl
    | (with_reducible apply Frame.raise)
    | (with_reducible apply Frame.sipCount)
    | (with_reducible apply Frame.setPath)

theorem Frame.pathLost {l : List Blk} {s z : State} (hl : Sub [.counters, .siphon] l)
    (hk : Frame l s z) (t g i : Nat) :
    Frame l s (Machine.pathLost t g i z) := by
  unfold Machine.pathLost
  repeat' first
    | with_reducible assumption
    | exact hl.of rfl
    | (with_reducible apply Frame.setPath)
    | (with_reducible apply Frame.pathDown)
    | (with_reducible apply Frame.ite)
    | split

theorem Frame.pathAcked {l : List Blk} {s z : State} (hl : Sub [.siphon] l)
    (hk : Frame l s z) (g i : Nat) :
    Frame l s (Machine.pathAcked g i z) := by
  unfold Machine.pathAcked
  repeat' first
    | with_reducible assumption
    | exact hl.of rfl
    | (with_reducible apply Frame.setPath)

theorem Frame.ratesFromPorts {l : List Blk} {s z : State} (hl : Sub [.siphon] l)
    (hk : Frame l s z) :
    Frame l s (Machine.ratesFromPorts z) := by
  unfold Machine.ratesFromPorts
  repeat' first
    | with_reducible assumption
    | exact hl.of rfl
    | (with_reducible apply Frame.modSiphon)

theorem Frame.onCnp {l : List Blk} {s z : State} (hl : Sub [.siphon] l)
    (hk : Frame l s z) (t g i received marked : Nat) :
    Frame l s (Machine.onCnp t g i received marked z) := by
  unfold Machine.onCnp
  repeat' first
    | with_reducible assumption
    | exact hl.of rfl
    | (with_reducible apply Frame.setPath)
    | (with_reducible apply Frame.ite)

theorem Frame.sendPkt {l : List Blk} {s z : State} (hl : Sub [.free, .id, .counters, .buf, .ep, .funcs, .polders, .wq, .siphon, .culv] l)
    (hk : Frame l s z) (t g i : Nat) (p : SPath) (k : SPkt) (fresh : Bool) :
    Frame l s (Machine.sendPkt t g i p k fresh z) := by
  unfold Machine.sendPkt
  repeat' first
    | with_reducible assumption
    | exact hl.of rfl
    | (with_reducible apply Frame.setChannel)
    | (with_reducible apply Frame.sLaunch)
    | (with_reducible apply Frame.setPath)

theorem Frame.packetBytes {l : List Blk} {s z : State} (hl : Sub [.ep] l)
    (hk : Frame l s z) (g : Nat) (c : Channel) (m : SMsg) (host : Option Bytes) :
    Frame l s (Machine.packetBytes g c m host z).2 := by
  unfold Machine.packetBytes
  repeat' first
    | with_reducible assumption
    | exact hl.of rfl
    | (with_reducible apply Frame.dmaBytesRead)
    | (with_reducible apply Frame.startReads)
    | (with_reducible apply Frame.dropReads)
    | (with_reducible apply Frame.ite)
    | (with_reducible apply Frame.ite_fst)
    | (with_reducible apply Frame.ite_snd)
    | (refine Frame.readNow ?_ ?_ (by assumption))
    | split

theorem Frame.eraseMsg {l : List Blk} {s z : State} (hl : Sub [.siphon] l)
    (hk : Frame l s z) (g : Nat) (m : SMsg) :
    Frame l s (Machine.eraseMsg g m z) := by
  unfold Machine.eraseMsg
  repeat' first
    | with_reducible assumption
    | exact hl.of rfl
    | (with_reducible apply Frame.setChannel)

theorem Frame.sendPart {l : List Blk} {s z : State} (hl : Sub [.free, .id, .counters, .buf, .ep, .funcs, .polders, .wq, .siphon, .culv] l)
    (hk : Frame l s z) (t g i : Nat) (p : SPath) (m : SMsg) (d : Bytes) :
    Frame l s (Machine.sendPart t g i p m d z) := by
  unfold Machine.sendPart
  repeat' first
    | with_reducible assumption
    | exact hl.of rfl
    | (with_reducible apply Frame.setChannel)
    | (with_reducible apply Frame.sendPkt)

theorem Frame.sendNew {l : List Blk} {s z : State} (hl : Sub [.free, .id, .counters, .buf, .ep, .funcs, .polders, .wq, .siphon, .culv] l)
    (hk : Frame l s z) (t g : Nat) (host : Option Bytes) :
    Frame l s (Machine.sendNew t g host z) := by
  unfold Machine.sendNew
  repeat' first
    | with_reducible assumption
    | exact hl.of rfl
    | (with_reducible apply Frame.polderFault)
    | (with_reducible apply Frame.acsReport)
    | (with_reducible apply Frame.refuseRequest)
    | (with_reducible apply Frame.packetBytes)
    | (with_reducible apply Frame.eraseMsg)
    | (with_reducible apply Frame.sendPart)
    | (with_reducible apply Frame.ite)
    | (with_reducible apply Frame.ite_fst)
    | (with_reducible apply Frame.ite_snd)
    | split
    | dsimp only

theorem Frame.siphonSend {l : List Blk} {s z : State} (hl : Sub [.free, .id, .counters, .buf, .ep, .funcs, .polders, .wq, .siphon, .culv] l)
    (hk : Frame l s z) (t g : Nat) (host : Option Bytes) :
    Frame l s (Machine.siphonSend t g host z) := by
  unfold Machine.siphonSend
  repeat' first
    | with_reducible assumption
    | exact hl.of rfl
    | (with_reducible apply Frame.sipCount)
    | (with_reducible apply Frame.pathLost)
    | (with_reducible apply Frame.sendPkt)
    | (with_reducible apply Frame.sendNew)
    | (with_reducible apply Frame.ite)
    | split
    | dsimp only

theorem Frame.rtoExpiry {l : List Blk} {s z : State} (hl : Sub [.counters, .wq, .cipher, .siphon, .jrn] l)
    (hk : Frame l s z) (t g : Nat) :
    Frame l s (Machine.rtoExpiry t g z) := by
  unfold Machine.rtoExpiry
  repeat' first
    | with_reducible assumption
    | exact hl.of rfl
    | (with_reducible apply Frame.setChannel)
    | (with_reducible apply Frame.channelError)
    | (with_reducible apply Frame.setChannel)
    | (with_reducible apply Frame.ite)
    | split
    | exact Frame.upd hk rfl (fun b n => by cases b <;> first | rfl | exact hl.not rfl n)
    | dsimp only

theorem Frame.addMsg {l : List Blk} {s z : State} (hl : Sub [.siphon] l)
    (hk : Frame l s z) (g : Nat) (m : SMsg) :
    Frame l s (Machine.addMsg g m z) := by
  unfold Machine.addMsg
  repeat' first
    | with_reducible assumption
    | exact hl.of rfl
    | (with_reducible apply Frame.setChannel)

theorem Frame.addReply {l : List Blk} {s z : State} (hl : Sub [.siphon] l)
    (hk : Frame l s z) (g : Nat) (m : SMsg) :
    Frame l s (Machine.addReply g m z) := by
  unfold Machine.addReply
  repeat' first
    | with_reducible assumption
    | exact hl.of rfl
    | (with_reducible apply Frame.setChannel)

theorem Frame.siphonOp {l : List Blk} {s z : State} (hl : Sub [.counters, .buf, .ep, .funcs, .polders, .wq] l)
    (hk : Frame l s z) (op fn q : Nat) (h : HostData) (len : Nat) (go : Chain → Bytes → State → State) (h_go : ∀ b0 b1 y, Frame l s y → Frame l s (go b0 b1 y)) :
    Frame l s (Machine.siphonOp op fn q h len go z) := by
  unfold Machine.siphonOp
  repeat' first
    | with_reducible assumption
    | exact hl.of rfl
    | (with_reducible apply h_go)
    | (with_reducible apply Frame.hostOp)
    | (with_reducible apply Frame.ite)
    | split

theorem Frame.submitMsg {l : List Blk} {s z : State} (hl : Sub [.wq, .siphon] l)
    (hk : Frame l s z) (op wire fn q : Nat) (ch : Chain) (d : Bytes) :
    Frame l s (Machine.submitMsg op wire fn q ch d z) := by
  unfold Machine.submitMsg
  repeat' first
    | with_reducible assumption
    | exact hl.of rfl
    | (with_reducible apply Frame.updChain)
    | (with_reducible apply Frame.finishChain)
    | (with_reducible apply Frame.addMsg)
    | (with_reducible apply Frame.ite)
    | split
    | exact Frame.upd hk rfl (fun b n => by cases b <;> first | rfl | exact hl.not rfl n)
    | dsimp only

theorem Frame.siphonWriteOp {l : List Blk} {s z : State} (hl : Sub [.counters, .buf, .ep, .funcs, .polders, .wq, .siphon] l)
    (hk : Frame l s z) (_t fn q : Nat) (h : HostData) :
    Frame l s (Machine.siphonWriteOp _t fn q h z) := by
  unfold Machine.siphonWriteOp
  repeat' first
    | with_reducible assumption
    | exact hl.of rfl
    | (with_reducible apply Frame.siphonOp)
    | (with_reducible apply Frame.submitMsg)
    | (with_reducible intro _; try beta_reduce)

theorem Frame.siphonWriteImmOp {l : List Blk} {s z : State} (hl : Sub [.counters, .buf, .ep, .funcs, .polders, .wq, .siphon] l)
    (hk : Frame l s z) (_t fn q : Nat) (h : HostData) :
    Frame l s (Machine.siphonWriteImmOp _t fn q h z) := by
  unfold Machine.siphonWriteImmOp
  repeat' first
    | with_reducible assumption
    | exact hl.of rfl
    | (with_reducible apply Frame.siphonOp)
    | (with_reducible apply Frame.submitMsg)
    | (with_reducible intro _; try beta_reduce)

theorem Frame.siphonReadOp {l : List Blk} {s z : State} (hl : Sub [.counters, .buf, .ep, .funcs, .polders, .wq, .siphon] l)
    (hk : Frame l s z) (_t fn q : Nat) (h : HostData) :
    Frame l s (Machine.siphonReadOp _t fn q h z) := by
  unfold Machine.siphonReadOp
  repeat' first
    | with_reducible assumption
    | exact hl.of rfl
    | (with_reducible apply Frame.siphonOp)
    | (with_reducible apply Frame.submitMsg)
    | (with_reducible intro _; try beta_reduce)

theorem Frame.submitCapsule {l : List Blk} {s z : State} (hl : Sub [.wq, .siphon] l)
    (hk : Frame l s z) (fn q : Nat) (ch : Chain) (d : Bytes) :
    Frame l s (Machine.submitCapsule fn q ch d z) := by
  unfold Machine.submitCapsule
  repeat' first
    | with_reducible assumption
    | exact hl.of rfl
    | (with_reducible apply Frame.updChain)
    | (with_reducible apply Frame.finishChain)
    | (with_reducible apply Frame.addMsg)
    | (with_reducible apply Frame.ite)
    | split
    | exact Frame.upd hk rfl (fun b n => by cases b <;> first | rfl | exact hl.not rfl n)
    | dsimp only

theorem Frame.jcmdSendOp {l : List Blk} {s z : State} (hl : Sub [.counters, .buf, .ep, .funcs, .polders, .wq, .siphon] l)
    (hk : Frame l s z) (_t fn q : Nat) (h : HostData) :
    Frame l s (Machine.jcmdSendOp _t fn q h z) := by
  unfold Machine.jcmdSendOp
  repeat' first
    | with_reducible assumption
    | exact hl.of rfl
    | (with_reducible apply Frame.siphonOp)
    | (with_reducible apply Frame.submitCapsule)
    | (with_reducible intro _; try beta_reduce)

theorem Frame.matchNotes {l : List Blk} {s z : State} (hl : Sub [.wq, .siphon] l)
    (hk : Frame l s z) (g : Nat) (a0 : Nat) :
    Frame l s (Machine.matchNotes g a0 z) := by
  induction a0 generalizing z with
  | zero => exact hk
  | succ n ih =>
    unfold Machine.matchNotes
    try dsimp only
    repeat' first
      | with_reducible assumption
      | exact hl.of rfl
      | (with_reducible apply ih)
      | (with_reducible apply Frame.setChannel)
      | (with_reducible apply Frame.finishChain)
      | (with_reducible apply Frame.setChannel)
      | split

theorem Frame.recvNotify {l : List Blk} {s z : State} (hl : Sub [.wq, .siphon] l)
    (hk : Frame l s z) (fn q : Nat) :
    Frame l s (Machine.recvNotify fn q z) := by
  unfold Machine.recvNotify
  repeat' first
    | with_reducible assumption
    | exact hl.of rfl
    | (with_reducible apply Frame.setChannel)
    | (with_reducible apply Frame.updChain)
    | (with_reducible apply Frame.finishChain)
    | (with_reducible apply Frame.matchNotes)
    | (with_reducible apply Frame.setChannel)
    | (with_reducible apply Frame.ite)
    | split

theorem Frame.chFreeSlot {l : List Blk} {s z : State} (hl : Sub [.cipher] l)
    (hk : Frame l s z) (c : Channel) :
    Frame l s (Machine.chFreeSlot c z) := by
  unfold Machine.chFreeSlot
  repeat' first
    | with_reducible assumption
    | exact hl.of rfl
    | (with_reducible apply Frame.dropUser)
    | (with_reducible apply Frame.ite)
    | split

theorem Frame.channelReset {l : List Blk} {s z : State} (hl : Sub [.wq, .cipher, .siphon, .jrn] l)
    (hk : Frame l s z) (g : Nat) (status : Option Nat) :
    Frame l s (Machine.channelReset g status z) := by
  unfold Machine.channelReset
  repeat' first
    | with_reducible assumption
    | exact hl.of rfl
    | (with_reducible apply Frame.setChannel)
    | (with_reducible apply Frame.endMsgs)
    | (with_reducible apply Frame.endRecvs)
    | (with_reducible apply Frame.journalDrop)
    | (with_reducible apply Frame.chFreeSlot)
    | (with_reducible apply Frame.setChannel)
    | split

theorem Frame.channelModify {l : List Blk} {s z : State} (hl : Sub [.counters, .wq, .cipher, .siphon, .jrn] l)
    (hk : Frame l s z) (t fn q : Nat) (ch : Chain) (d : Bytes) :
    Frame l s (Machine.channelModify t fn q ch d z) := by
  unfold Machine.channelModify
  repeat' first
    | with_reducible assumption
    | exact hl.of rfl
    | (with_reducible apply Frame.setChannel)
    | (with_reducible apply Frame.finishChain)
    | (with_reducible apply Frame.addUser)
    | (with_reducible apply Frame.channelError)
    | (with_reducible apply Frame.channelReset)
    | (with_reducible apply Frame.setChannel)
    | (with_reducible apply Frame.ite)
    | split
    | exact Frame.upd hk rfl (fun b n => by cases b <;> first | rfl | exact hl.not rfl n)
    | dsimp only

theorem Frame.channelModifyOp {l : List Blk} {s z : State} (hl : Sub [.counters, .buf, .ep, .funcs, .polders, .wq, .cipher, .siphon, .jrn] l)
    (hk : Frame l s z) (t fn q : Nat) (h : HostData) :
    Frame l s (Machine.channelModifyOp t fn q h z) := by
  unfold Machine.channelModifyOp
  repeat' first
    | with_reducible assumption
    | exact hl.of rfl
    | (with_reducible apply Frame.siphonOp)
    | (with_reducible apply Frame.channelModify)
    | (with_reducible intro _; try beta_reduce)

theorem Frame.channelQuery {l : List Blk} {s z : State} (hl : Sub [.counters, .buf, .ep, .funcs, .polders, .wq, .siphon] l)
    (hk : Frame l s z) (fn q : Nat) :
    Frame l s (Machine.channelQuery fn q z) := by
  unfold Machine.channelQuery
  repeat' first
    | with_reducible assumption
    | exact hl.of rfl
    | (with_reducible apply Frame.queueWrite)
    | (with_reducible apply Frame.finishChain)
    | split
    | dsimp only

theorem Frame.regionRegister {l : List Blk} {s z : State} (hl : Sub [.counters, .buf, .polders, .wq, .siphon] l)
    (hk : Frame l s z) (fn q : Nat) (ch : Chain) (d : Bytes) :
    Frame l s (Machine.regionRegister fn q ch d z) := by
  unfold Machine.regionRegister
  repeat' first
    | with_reducible assumption
    | exact hl.of rfl
    | (with_reducible apply Frame.setRegion)
    | (with_reducible apply Frame.malformed)
    | (with_reducible apply Frame.finishChain)
    | (with_reducible apply Frame.setRegion)
    | (with_reducible apply Frame.ite)
    | split

theorem Frame.regionRegisterOp {l : List Blk} {s z : State} (hl : Sub [.counters, .buf, .ep, .funcs, .polders, .wq, .siphon] l)
    (hk : Frame l s z) (_t fn q : Nat) (h : HostData) :
    Frame l s (Machine.regionRegisterOp _t fn q h z) := by
  unfold Machine.regionRegisterOp
  repeat' first
    | with_reducible assumption
    | exact hl.of rfl
    | (with_reducible apply Frame.siphonOp)
    | (with_reducible apply Frame.regionRegister)
    | (with_reducible intro _; try beta_reduce)

theorem Frame.revokeRegion {l : List Blk} {s z : State} (hl : Sub [.siphon] l)
    (hk : Frame l s z) (g : Nat) (revoking : Bool) :
    Frame l s (Machine.revokeRegion g revoking z) := by
  unfold Machine.revokeRegion
  repeat' first
    | with_reducible assumption
    | exact hl.of rfl
    | (with_reducible apply Frame.setRegion)

theorem Frame.regionRevoke {l : List Blk} {s z : State} (hl : Sub [.wq, .siphon] l)
    (hk : Frame l s z) (fn q : Nat) :
    Frame l s (Machine.regionRevoke fn q z) := by
  unfold Machine.regionRevoke
  repeat' first
    | with_reducible assumption
    | exact hl.of rfl
    | (with_reducible apply Frame.updChain)
    | (with_reducible apply Frame.finishChain)
    | (with_reducible apply Frame.revokeRegion)
    | (with_reducible apply Frame.ite)
    | split

theorem Frame.revokeFence {l : List Blk} {s z : State} (hl : Sub [.wq, .siphon] l)
    (hk : Frame l s z) (fn q region : Nat) :
    Frame l s (Machine.revokeFence fn q region z) := by
  unfold Machine.revokeFence
  repeat' first
    | with_reducible assumption
    | exact hl.of rfl
    | (with_reducible apply Frame.setRegion)
    | (with_reducible apply Frame.finishChain)
    | (with_reducible apply Frame.setRegion)
    | (with_reducible apply Frame.ite)
    | split

theorem Frame.updCap {l : List Blk} {s z : State} (hl : Sub [.siphon] l)
    (hk : Frame l s z) (g msg : Nat) (f : Capsule → Capsule) :
    Frame l s (Machine.updCap g msg f z) := by
  unfold Machine.updCap
  repeat' first
    | with_reducible assumption
    | exact hl.of rfl
    | (with_reducible apply Frame.setChannel)

theorem Frame.capRespond {l : List Blk} {s z : State} (hl : Sub [.siphon] l)
    (hk : Frame l s z) (g msg status result : Nat) :
    Frame l s (Machine.capRespond g msg status result z) := by
  unfold Machine.capRespond
  repeat' first
    | with_reducible assumption
    | exact hl.of rfl
    | (with_reducible apply Frame.addReply)
    | (with_reducible apply Frame.updCap)
    | (with_reducible apply Frame.ite)
    | split

theorem Frame.capData {l : List Blk} {s z : State} (hl : Sub [.siphon] l)
    (hk : Frame l s z) (g msg : Nat) (data : Bytes) :
    Frame l s (Machine.capData g msg data z) := by
  unfold Machine.capData
  repeat' first
    | with_reducible assumption
    | exact hl.of rfl
    | (with_reducible apply Frame.addReply)
    | (with_reducible apply Frame.ite)

theorem Frame.grantNext {l : List Blk} {s z : State} (hl : Sub [.siphon] l)
    (hk : Frame l s z) (t g msg : Nat) :
    Frame l s (Machine.grantNext t g msg z) := by
  unfold Machine.grantNext
  repeat' first
    | with_reducible assumption
    | exact hl.of rfl
    | (with_reducible apply Frame.addReply)
    | (with_reducible apply Frame.updCap)
    | (with_reducible apply Frame.ite)
    | split

theorem Frame.siphonQueueEnd {l : List Blk} {s z : State} (hl : Sub [.siphon] l)
    (hk : Frame l s z) (fn q : Nat) :
    Frame l s (Machine.siphonQueueEnd fn q z) := by
  unfold Machine.siphonQueueEnd
  repeat' first
    | with_reducible assumption
    | exact hl.of rfl
    | (with_reducible apply Frame.setChannel)
    | (with_reducible apply Frame.setChannel)
    | (with_reducible apply Frame.ite)
    | (with_reducible apply Frame.ite_fst)
    | (with_reducible apply Frame.ite_snd)
    | (with_reducible refine Frame.foldl _ (fun _ _ _ => ?_) ?_)

theorem Frame.siphonEnd {l : List Blk} {s z : State} (hl : Sub [.counters, .wq, .cipher, .siphon, .jrn] l)
    (hk : Frame l s z) (fn : Nat) :
    Frame l s (Machine.siphonEnd fn z) := by
  unfold Machine.siphonEnd
  repeat' first
    | with_reducible assumption
    | exact hl.of rfl
    | (with_reducible apply Frame.channelError)
    | (with_reducible apply Frame.ite)
    | (with_reducible apply Frame.ite_fst)
    | (with_reducible apply Frame.ite_snd)
    | (with_reducible refine Frame.foldl _ (fun _ _ _ => ?_) ?_)

theorem Frame.siphonRegionsEnd {l : List Blk} {s z : State} (hl : Sub [.siphon] l)
    (hk : Frame l s z) (fn : Nat) :
    Frame l s (Machine.siphonRegionsEnd fn z) := by
  unfold Machine.siphonRegionsEnd
  repeat' first
    | with_reducible assumption
    | exact hl.of rfl
    | (with_reducible apply Frame.revokeRegion)
    | (with_reducible apply Frame.ite)
    | (with_reducible apply Frame.ite_fst)
    | (with_reducible apply Frame.ite_snd)
    | (with_reducible refine Frame.foldl _ (fun _ _ _ => ?_) ?_)

end Sys2Proof
end

