-- ==== Sys2Proof/Laws/FrameJournal.lean ====
section
/-! SUPPORT. Which blocks the operations of Machine/Journal.lean may change. -/

namespace Sys2Proof
open Machine

theorem Frame.jStart {l : List Blk} {s z : State} (hl : Sub [.wq, .siphon] l)
    (hk : Frame l s z) (src : JSrc) (c : JCmd) :
    Frame l s (Machine.jStart src c z) := by
  unfold Machine.jStart
  repeat' first
    | with_reducible assumption
    | exact hl.of rfl
    | (with_reducible apply Frame.updChain)
    | (with_reducible apply Frame.updCap)
    | split

theorem Frame.suspendTests {l : List Blk} {s z : State} (hl : Sub [.jrn] l)
    (hk : Frame l s z) (t n : Nat) :
    Frame l s (Machine.suspendTests t n z) := by
  unfold Machine.suspendTests
  repeat' first
    | with_reducible assumption
    | exact hl.of rfl
    | (with_reducible apply Frame.setCart)
    | (with_reducible refine Frame.forEach _ (fun _ _ _ => ?_) ?_)

theorem Frame.commandComes {l : List Blk} {s z : State} (hl : Sub [.jrn] l)
    (hk : Frame l s z) (fn : Nat) (c : JCmd) :
    Frame l s (Machine.commandComes fn c z) := by
  unfold Machine.commandComes
  repeat' first
    | with_reducible assumption
    | exact hl.of rfl
    | (with_reducible apply Frame.suspendTests)
    | split

theorem Frame.jEnd {l : List Blk} {s z : State} (hl : Sub [.wq, .siphon, .jrn] l)
    (hk : Frame l s z) (src : Option JSrc) (ref status result : Nat) :
    Frame l s (Machine.jEnd src ref status result z) := by
  unfold Machine.jEnd
  repeat' first
    | with_reducible assumption
    | exact hl.of rfl
    | (with_reducible apply Frame.setCart)
    | (with_reducible apply Frame.finishChain)
    | (with_reducible apply Frame.capRespond)
    | (with_reducible refine Frame.forEach _ (fun _ _ _ => ?_) ?_)
    | (with_reducible apply Frame.setCart)
    | split

theorem Frame.jRun {l : List Blk} {s z : State} (hl : Sub [.wq, .siphon, .jrn] l)
    (hk : Frame l s z) (t : Nat) (src : JSrc) (op : Nat) (go : JCmd → Nat → State → State) (h_go : ∀ b0 b1 y, Frame l s y → Frame l s (go b0 b1 y)) :
    Frame l s (Machine.jRun t src op go z) := by
  unfold Machine.jRun
  repeat' first
    | with_reducible assumption
    | exact hl.of rfl
    | (with_reducible apply h_go)
    | (with_reducible apply Frame.suspendTests)
    | (with_reducible apply Frame.jEnd)
    | split

theorem Frame.cartCount {l : List Blk} {s z : State} (hl : Sub [.jrn] l)
    (hk : Frame l s z) (i k n : Nat) :
    Frame l s (Machine.cartCount i k n z) := by
  unfold Machine.cartCount
  repeat' first
    | with_reducible assumption
    | exact hl.of rfl
    | (with_reducible apply Frame.setCart)
    | (with_reducible apply Frame.countEv)

theorem Frame.raiseCart {l : List Blk} {s z : State} (hl : Sub [] l)
    (hk : Frame l s z) (i k : Nat) :
    Frame l s (Machine.raiseCart i k z) := by
  unfold Machine.raiseCart
  repeat' first
    | with_reducible assumption
    | exact hl.of rfl
    | (with_reducible apply Frame.raiseSlot)

theorem Frame.nsDropKey {l : List Blk} {s z : State} (hl : Sub [.cipher, .jrn] l)
    (hk : Frame l s z) (n : Nat) :
    Frame l s (Machine.nsDropKey n z) := by
  unfold Machine.nsDropKey
  repeat' first
    | with_reducible assumption
    | exact hl.of rfl
    | (with_reducible apply Frame.setSpace)
    | (with_reducible apply Frame.clearSlot)
    | (with_reducible apply Frame.setSpace)
    | split

theorem Frame.nsTakeKey {l : List Blk} {s z : State} (hl : Sub [.cipher, .jrn] l)
    (hk : Frame l s z) (n g : Nat) (x : Blob) :
    Frame l s (Machine.nsTakeKey n g x z) := by
  unfold Machine.nsTakeKey
  repeat' first
    | with_reducible assumption
    | exact hl.of rfl
    | (with_reducible apply Frame.setSpace)
    | (with_reducible apply Frame.loadSlot)
    | (with_reducible apply Frame.addUser)

theorem Frame.commitUnit {l : List Blk} {s z : State} (hl : Sub [.jrn] l)
    (hk : Frame l s z) (u : JUnit) :
    Frame l s (Machine.commitUnit u z) := by
  unfold Machine.commitUnit
  repeat' first
    | with_reducible assumption
    | exact hl.of rfl
    | (with_reducible apply Frame.modJrn)

theorem Frame.addUnit {l : List Blk} {s z : State} (hl : Sub [.cipher, .jrn] l)
    (hk : Frame l s z) (src : JSrc) (ref job ns before : Nat) (blocks : List (Nat × Bytes)) (last : Bool) :
    Frame l s (Machine.addUnit src ref job ns before blocks last z) := by
  unfold Machine.addUnit
  repeat' first
    | with_reducible assumption
    | exact hl.of rfl
    | (with_reducible apply Frame.cipherWait)
    | (with_reducible apply Frame.modJrn)
    | (with_reducible refine Frame.forEach _ (fun _ _ _ => ?_) ?_)

theorem Frame.addUnits {l : List Blk} {s z : State} (hl : Sub [.cipher, .jrn] l)
    (hk : Frame l s z) (src : JSrc) (c : JCmd) (ns : Nat) (data : Bytes) :
    Frame l s (Machine.addUnits src c ns data z) := by
  unfold Machine.addUnits
  repeat' first
    | with_reducible assumption
    | exact hl.of rfl
    | (with_reducible apply Frame.addUnit)
    | (with_reducible refine Frame.forEach _ (fun _ _ _ => ?_) ?_)

theorem Frame.stageBlock {l : List Blk} {s z : State} (hl : Sub [.siphon] l)
    (hk : Frame l s z) (u : JUnit) (i : Nat) (text : Bytes) :
    Frame l s (Machine.stageBlock u i text z) := by
  unfold Machine.stageBlock
  repeat' first
    | with_reducible assumption
    | exact hl.of rfl
    | (with_reducible apply Frame.updCap)
    | split

theorem Frame.blockDone {l : List Blk} {s z : State} (hl : Sub [.siphon, .jrn] l)
    (hk : Frame l s z) (id i : Nat) (text : Bytes) :
    Frame l s (Machine.blockDone id i text z) := by
  unfold Machine.blockDone
  repeat' first
    | with_reducible assumption
    | exact hl.of rfl
    | (with_reducible apply Frame.stageBlock)
    | (with_reducible apply Frame.modJrn)
    | (with_reducible apply Frame.ite)
    | (with_reducible apply Frame.ite_fst)
    | (with_reducible apply Frame.ite_snd)
    | split

theorem Frame.dropJob {l : List Blk} {s z : State} (hl : Sub [.cipher, .jrn] l)
    (hk : Frame l s z) (job : Nat) :
    Frame l s (Machine.dropJob job z) := by
  unfold Machine.dropJob
  repeat' first
    | with_reducible assumption
    | exact hl.of rfl
    | (with_reducible apply Frame.cipherDrop)
    | (with_reducible apply Frame.modJrn)

theorem Frame.endJob {l : List Blk} {s z : State} (hl : Sub [.wq, .cipher, .siphon, .jrn] l)
    (hk : Frame l s z) (u : JUnit) (status : Nat) :
    Frame l s (Machine.endJob u status z) := by
  unfold Machine.endJob
  repeat' first
    | with_reducible assumption
    | exact hl.of rfl
    | (with_reducible apply Frame.jEnd)
    | (with_reducible apply Frame.dropJob)

theorem Frame.unitAccept {l : List Blk} {s z : State} (hl : Sub [.wq, .cipher, .siphon, .jrn] l)
    (hk : Frame l s z) (id : Nat) :
    Frame l s (Machine.unitAccept id z) := by
  unfold Machine.unitAccept
  repeat' first
    | with_reducible assumption
    | exact hl.of rfl
    | (with_reducible apply Frame.setCart)
    | (with_reducible apply Frame.jEnd)
    | (with_reducible apply Frame.commitUnit)
    | (with_reducible apply Frame.endJob)
    | (with_reducible apply Frame.modJrn)
    | (with_reducible refine Frame.forEach _ (fun _ _ _ => ?_) ?_)
    | (with_reducible apply Frame.setCart)
    | (with_reducible apply Frame.ite)
    | split

theorem Frame.flushDone {l : List Blk} {s z : State} (hl : Sub [.wq, .siphon, .jrn] l)
    (hk : Frame l s z) :
    Frame l s (Machine.flushDone z) := by
  unfold Machine.flushDone
  repeat' first
    | with_reducible assumption
    | exact hl.of rfl
    | (with_reducible apply Frame.jEnd)
    | (with_reducible apply Frame.modJrn)
    | (with_reducible refine Frame.forEach _ (fun _ _ _ => ?_) ?_)

theorem Frame.drainOne {l : List Blk} {s z : State} (hl : Sub [.jrn] l)
    (hk : Frame l s z) (i : Nat) :
    Frame l s (Machine.drainOne i z) := by
  unfold Machine.drainOne
  repeat' first
    | with_reducible assumption
    | exact hl.of rfl
    | (with_reducible apply Frame.setCart)
    | (with_reducible apply Frame.cartCount)
    | (with_reducible apply Frame.setCart)
    | (with_reducible apply Frame.ite)
    | (with_reducible apply Frame.ite_fst)
    | (with_reducible apply Frame.ite_snd)
    | split
    | exact Frame.upd hk rfl (fun b n => by cases b <;> first | rfl | exact hl.not rfl n)
    | dsimp only

theorem Frame.drainAll {l : List Blk} {s z : State} (hl : Sub [.jrn] l)
    (hk : Frame l s z) (i : Nat) :
    Frame l s (Machine.drainAll i z) := by
  unfold Machine.drainAll
  repeat' first
    | with_reducible assumption
    | exact hl.of rfl
    | (with_reducible apply Frame.drainOne)
    | (with_reducible refine Frame.foldl _ (fun _ _ _ => ?_) ?_)

theorem Frame.powerResume {l : List Blk} {s z : State} (hl : Sub [.jrn] l)
    (hk : Frame l s z) :
    Frame l s (Machine.powerResume z) := by
  unfold Machine.powerResume
  repeat' first
    | with_reducible assumption
    | exact hl.of rfl
    | (with_reducible apply Frame.modJrn)
    | (with_reducible apply Frame.ite)

theorem Frame.emergencyDrained {l : List Blk} {s z : State} (hl : Sub [.counters, .wq, .siphon, .jrn] l)
    (hk : Frame l s z) :
    Frame l s (Machine.emergencyDrained z) := by
  unfold Machine.emergencyDrained
  repeat' first
    | with_reducible assumption
    | exact hl.of rfl
    | (with_reducible apply Frame.raise)
    | (with_reducible apply Frame.count)
    | (with_reducible apply Frame.flushDone)
    | (with_reducible apply Frame.drainAll)
    | (with_reducible apply Frame.powerResume)
    | (with_reducible apply Frame.modJrn)

theorem Frame.journalWrite {l : List Blk} {s z : State} (hl : Sub [.counters, .buf, .ep, .funcs, .polders, .wq, .cipher, .siphon, .jrn] l)
    (hk : Frame l s z) (t : Nat) (src : JSrc) (h : HostData) (c : JCmd) (n : Nat) :
    Frame l s (Machine.journalWrite t src h c n z) := by
  unfold Machine.journalWrite
  repeat' first
    | with_reducible assumption
    | exact hl.of rfl
    | (with_reducible apply Frame.countQ)
    | (with_reducible apply Frame.hostOp)
    | (with_reducible apply Frame.updCap)
    | (with_reducible apply Frame.grantNext)
    | (with_reducible apply Frame.jStart)
    | (with_reducible apply Frame.addUnits)
    | split
    | (with_reducible intro _; try beta_reduce)

theorem Frame.journalWriteOp {l : List Blk} {s z : State} (hl : Sub [.counters, .buf, .ep, .funcs, .polders, .wq, .cipher, .siphon, .jrn] l)
    (hk : Frame l s z) (t : Nat) (src : JSrc) (h : HostData) :
    Frame l s (Machine.journalWriteOp t src h z) := by
  unfold Machine.journalWriteOp
  repeat' first
    | with_reducible assumption
    | exact hl.of rfl
    | (with_reducible apply Frame.jRun)
    | (with_reducible apply Frame.journalWrite)
    | (with_reducible intro _; try beta_reduce)

theorem Frame.mediaError {l : List Blk} {s z : State} (hl : Sub [.jrn] l)
    (hk : Frame l s z) (ns lba slot status : Nat) :
    Frame l s (Machine.mediaError ns lba slot status z) := by
  unfold Machine.mediaError
  repeat' first
    | with_reducible assumption
    | exact hl.of rfl
    | (with_reducible apply Frame.cartCount)
    | (with_reducible apply Frame.raiseCart)
    | (with_reducible apply Frame.modJrn)

theorem Frame.loseLine {l : List Blk} {s z : State} (hl : Sub [.jrn] l)
    (hk : Frame l s z) (i ns lba : Nat) :
    Frame l s (Machine.loseLine i ns lba z) := by
  unfold Machine.loseLine
  repeat' first
    | with_reducible assumption
    | exact hl.of rfl
    | (with_reducible apply Frame.setCart)
    | (with_reducible apply Frame.cartCount)
    | (with_reducible apply Frame.mediaError)
    | (with_reducible apply Frame.modJrn)

theorem Frame.readBlock {l : List Blk} {s z : State} (hl : Sub [.jrn] l)
    (hk : Frame l s z) (ns lba : Nat) (bad : List Nat) :
    Frame l s (Machine.readBlock ns lba bad z).2 := by
  unfold Machine.readBlock
  repeat' first
    | with_reducible assumption
    | exact hl.of rfl
    | (with_reducible apply Frame.cartCount)
    | (with_reducible apply Frame.mediaError)
    | (with_reducible apply Frame.loseLine)
    | (with_reducible apply Frame.ite)
    | (with_reducible apply Frame.ite_fst)
    | (with_reducible apply Frame.ite_snd)
    | split
    | dsimp only

theorem Frame.readBlocks {l : List Blk} {s z : State} (hl : Sub [.jrn] l) (hk : Frame l s z) (ns : Nat) (bad : List (Nat × Nat)) (as : List Nat) :
    Frame l s (Machine.readBlocks ns bad as z).2.2 := by
  induction as generalizing z with
  | nil => exact hk
  | cons b rest ih =>
    have h := Frame.readBlock (hl.of rfl) hk ns b ((bad.filter (fun e => decide (e.2 = b))).map (·.1))
    unfold Machine.readBlocks
    split
    · rename_i heq; rw [heq] at h; exact h
    · rename_i heq; rw [heq] at h; exact ih h

theorem Frame.jOutput {l : List Blk} {s z : State} (hl : Sub [.counters, .buf, .ep, .funcs, .polders, .wq, .siphon] l)
    (hk : Frame l s z) (src : JSrc) (c : JCmd) (data : Bytes) :
    Frame l s (Machine.jOutput src c data z) := by
  unfold Machine.jOutput
  repeat' first
    | with_reducible assumption
    | exact hl.of rfl
    | (with_reducible apply Frame.writeSegs)
    | (with_reducible apply Frame.capData)
    | split

theorem Frame.journalRead {l : List Blk} {s z : State} (hl : Sub [.counters, .buf, .ep, .funcs, .polders, .wq, .siphon, .jrn] l)
    (hk : Frame l s z) (src : JSrc) (bad : List (Nat × Nat)) (c : JCmd) (n : Nat) :
    Frame l s (Machine.journalRead src bad c n z) := by
  unfold Machine.journalRead
  repeat' first
    | with_reducible assumption
    | exact hl.of rfl
    | (with_reducible apply Frame.countQ)
    | (with_reducible apply Frame.jStart)
    | (with_reducible apply Frame.jEnd)
    | (with_reducible apply Frame.readBlocks)
    | (with_reducible apply Frame.jOutput)
    | (with_reducible apply Frame.ite)

theorem Frame.journalFlush {l : List Blk} {s z : State} (hl : Sub [.counters, .wq, .siphon, .jrn] l)
    (hk : Frame l s z) (src : JSrc) (c : JCmd) (n : Nat) :
    Frame l s (Machine.journalFlush src c n z) := by
  unfold Machine.journalFlush
  repeat' first
    | with_reducible assumption
    | exact hl.of rfl
    | (with_reducible apply Frame.countQ)
    | (with_reducible apply Frame.jStart)
    | (with_reducible apply Frame.jEnd)
    | (with_reducible apply Frame.modJrn)
    | (with_reducible apply Frame.ite)

theorem Frame.deallocate {l : List Blk} {s z : State} (hl : Sub [.wq, .siphon, .jrn] l)
    (hk : Frame l s z) (src : JSrc) (c : JCmd) (n : Nat) :
    Frame l s (Machine.deallocate src c n z) := by
  unfold Machine.deallocate
  repeat' first
    | with_reducible assumption
    | exact hl.of rfl
    | (with_reducible apply Frame.setCart)
    | (with_reducible apply Frame.jStart)
    | (with_reducible apply Frame.jEnd)
    | (with_reducible apply Frame.commitUnit)
    | (with_reducible apply Frame.modJrn)
    | (with_reducible refine Frame.forEach _ (fun _ _ _ => ?_) ?_)
    | (with_reducible apply Frame.setCart)
    | (with_reducible apply Frame.ite)

theorem Frame.identify {l : List Blk} {s z : State} (hl : Sub [.counters, .buf, .ep, .funcs, .polders, .wq, .siphon, .jrn] l)
    (hk : Frame l s z) (src : JSrc) (c : JCmd) (n : Nat) :
    Frame l s (Machine.identify src c n z) := by
  unfold Machine.identify
  repeat' first
    | with_reducible assumption
    | exact hl.of rfl
    | (with_reducible apply Frame.jStart)
    | (with_reducible apply Frame.jEnd)
    | (with_reducible apply Frame.jOutput)

theorem Frame.logRead {l : List Blk} {s z : State} (hl : Sub [.counters, .buf, .ep, .funcs, .polders, .wq, .siphon, .jrn] l)
    (hk : Frame l s z) (src : JSrc) (c : JCmd) (n : Nat) :
    Frame l s (Machine.logRead src c n z) := by
  unfold Machine.logRead
  repeat' first
    | with_reducible assumption
    | exact hl.of rfl
    | (with_reducible apply Frame.jStart)
    | (with_reducible apply Frame.jEnd)
    | (with_reducible apply Frame.jOutput)

theorem Frame.testEnd {l : List Blk} {s z : State} (hl : Sub [.jrn] l)
    (hk : Frame l s z) (i result segment : Nat) :
    Frame l s (Machine.testEnd i result segment z) := by
  unfold Machine.testEnd
  repeat' first
    | with_reducible assumption
    | exact hl.of rfl
    | (with_reducible apply Frame.setCart)
    | (with_reducible apply Frame.raiseCart)

theorem Frame.testStart {l : List Blk} {s z : State} (hl : Sub [.jrn] l)
    (hk : Frame l s z) (i code : Nat) :
    Frame l s (Machine.testStart i code z).2 := by
  unfold Machine.testStart
  repeat' first
    | with_reducible assumption
    | exact hl.of rfl
    | (with_reducible apply Frame.setCart)
    | (with_reducible apply Frame.testEnd)
    | (with_reducible apply Frame.setCart)
    | (with_reducible apply Frame.ite)
    | (with_reducible apply Frame.ite_fst)
    | (with_reducible apply Frame.ite_snd)

theorem Frame.journalSelfTest {l : List Blk} {s z : State} (hl : Sub [.wq, .siphon, .jrn] l)
    (hk : Frame l s z) (src : JSrc) (c : JCmd) (n : Nat) :
    Frame l s (Machine.journalSelfTest src c n z) := by
  unfold Machine.journalSelfTest
  repeat' first
    | with_reducible assumption
    | exact hl.of rfl
    | (with_reducible apply Frame.jStart)
    | (with_reducible apply Frame.jEnd)
    | (with_reducible apply Frame.testStart)

theorem Frame.settleSpaces {l : List Blk} {s z : State} (hl : Sub [.jrn] l)
    (hk : Frame l s z) :
    Frame l s (Machine.settleSpaces z) := by
  unfold Machine.settleSpaces
  repeat' first
    | with_reducible assumption
    | exact hl.of rfl
    | (with_reducible apply Frame.modJrn)

theorem Frame.leaveMirror {l : List Blk} {s z : State} (hl : Sub [.jrn] l)
    (hk : Frame l s z) (i : Nat) :
    Frame l s (Machine.leaveMirror i z) := by
  unfold Machine.leaveMirror
  repeat' first
    | with_reducible assumption
    | exact hl.of rfl
    | (with_reducible apply Frame.raiseCart)
    | (with_reducible apply Frame.settleSpaces)
    | (with_reducible apply Frame.ite)

theorem Frame.lifeCheck {l : List Blk} {s z : State} (hl : Sub [.jrn] l)
    (hk : Frame l s z) (i : Nat) :
    Frame l s (Machine.lifeCheck i z) := by
  unfold Machine.lifeCheck
  repeat' first
    | with_reducible assumption
    | exact hl.of rfl
    | (with_reducible apply Frame.setCart)
    | (with_reducible apply Frame.raiseCart)
    | (with_reducible apply Frame.leaveMirror)
    | (with_reducible apply Frame.setCart)
    | (with_reducible apply Frame.ite)

theorem Frame.cartWear {l : List Blk} {s z : State} (hl : Sub [.jrn] l)
    (hk : Frame l s z) (i cycles remapped : Nat) (spare : Bool) :
    Frame l s (Machine.cartWear i cycles remapped spare z) := by
  unfold Machine.cartWear
  repeat' first
    | with_reducible assumption
    | exact hl.of rfl
    | (with_reducible apply Frame.setCart)
    | (with_reducible apply Frame.cartCount)
    | (with_reducible apply Frame.lifeCheck)
    | (with_reducible apply Frame.setCart)
    | (with_reducible apply Frame.ite)

theorem Frame.endStarted {l : List Blk} {s z : State} (hl : Sub [.wq, .cipher, .siphon, .jrn] l)
    (hk : Frame l s z) (hit : Nat → Bool) (status : Nat) :
    Frame l s (Machine.endStarted hit status z) := by
  unfold Machine.endStarted
  repeat' first
    | with_reducible assumption
    | exact hl.of rfl
    | (with_reducible apply Frame.jEnd)
    | (with_reducible apply Frame.endJob)
    | (with_reducible apply Frame.modJrn)
    | (with_reducible refine Frame.forEach _ (fun _ _ _ => ?_) ?_)
    | (with_reducible refine Frame.foldl _ (fun _ _ _ => ?_) ?_)

theorem Frame.sanitizeStart {l : List Blk} {s z : State} (hl : Sub [.wq, .cipher, .siphon, .jrn] l)
    (hk : Frame l s z) (i : Nat) (by' : Option JSrc × Nat) :
    Frame l s (Machine.sanitizeStart i by' z) := by
  unfold Machine.sanitizeStart
  repeat' first
    | with_reducible assumption
    | exact hl.of rfl
    | (with_reducible apply Frame.setCart)
    | (with_reducible apply Frame.testEnd)
    | (with_reducible apply Frame.endStarted)
    | (with_reducible refine Frame.forEach _ (fun _ _ _ => ?_) ?_)
    | (with_reducible apply Frame.setCart)
    | (with_reducible apply Frame.ite)

theorem Frame.journalSanitize {l : List Blk} {s z : State} (hl : Sub [.wq, .cipher, .siphon, .jrn] l)
    (hk : Frame l s z) (src : JSrc) (c : JCmd) (n : Nat) :
    Frame l s (Machine.journalSanitize src c n z) := by
  unfold Machine.journalSanitize
  repeat' first
    | with_reducible assumption
    | exact hl.of rfl
    | (with_reducible apply Frame.jStart)
    | (with_reducible apply Frame.sanitizeStart)

theorem Frame.clearBlocks {l : List Blk} {s z : State} (hl : Sub [.wq, .siphon, .jrn] l)
    (hk : Frame l s z) (p : Nat → Bool) :
    Frame l s (Machine.clearBlocks p z) := by
  unfold Machine.clearBlocks
  repeat' first
    | with_reducible assumption
    | exact hl.of rfl
    | (with_reducible apply Frame.setCart)
    | (with_reducible apply Frame.flushDone)
    | (with_reducible apply Frame.modJrn)

theorem Frame.sanitizeEnd {l : List Blk} {s z : State} (hl : Sub [.wq, .siphon, .jrn] l)
    (hk : Frame l s z) (i : Nat) :
    Frame l s (Machine.sanitizeEnd i z) := by
  unfold Machine.sanitizeEnd
  repeat' first
    | with_reducible assumption
    | exact hl.of rfl
    | (with_reducible apply Frame.setCart)
    | (with_reducible apply Frame.jEnd)
    | (with_reducible apply Frame.raiseCart)
    | (with_reducible apply Frame.settleSpaces)
    | (with_reducible apply Frame.lifeCheck)
    | (with_reducible apply Frame.setCart)
    | split

theorem Frame.sanitizeComplete {l : List Blk} {s z : State} (hl : Sub [.wq, .siphon, .jrn] l)
    (hk : Frame l s z) (slot : Nat) :
    Frame l s (Machine.sanitizeComplete slot z) := by
  unfold Machine.sanitizeComplete
  repeat' first
    | with_reducible assumption
    | exact hl.of rfl
    | (with_reducible apply Frame.setCart)
    | (with_reducible apply Frame.clearBlocks)
    | (with_reducible apply Frame.sanitizeEnd)
    | (with_reducible refine Frame.forEach _ (fun _ _ _ => ?_) ?_)
    | (with_reducible apply Frame.setCart)
    | (with_reducible apply Frame.ite)

theorem Frame.formatStart {l : List Blk} {s z : State} (hl : Sub [.wq, .cipher, .siphon, .jrn] l)
    (hk : Frame l s z) (n : Nat) (by' : Option JSrc × Nat) :
    Frame l s (Machine.formatStart n by' z) := by
  unfold Machine.formatStart
  repeat' first
    | with_reducible assumption
    | exact hl.of rfl
    | (with_reducible apply Frame.setSpace)
    | (with_reducible apply Frame.endStarted)

theorem Frame.journalFormat {l : List Blk} {s z : State} (hl : Sub [.wq, .cipher, .siphon, .jrn] l)
    (hk : Frame l s z) (src : JSrc) (c : JCmd) (n : Nat) :
    Frame l s (Machine.journalFormat src c n z) := by
  unfold Machine.journalFormat
  repeat' first
    | with_reducible assumption
    | exact hl.of rfl
    | (with_reducible apply Frame.jStart)
    | (with_reducible apply Frame.formatStart)

theorem Frame.cartRefuse {l : List Blk} {s z : State} (hl : Sub [.jrn] l)
    (hk : Frame l s z) (i reason : Nat) :
    Frame l s (Machine.cartRefuse i reason z) := by
  unfold Machine.cartRefuse
  repeat' first
    | with_reducible assumption
    | exact hl.of rfl
    | (with_reducible apply Frame.setCart)
    | (with_reducible apply Frame.raiseCart)

theorem Frame.loadBlocks {l : List Blk} {s z : State} (hl : Sub [.jrn] l)
    (hk : Frame l s z) (l1 : List MediaBlock) (p : Nat → Bool) :
    Frame l s (Machine.loadBlocks l1 p z) := by
  unfold Machine.loadBlocks
  repeat' first
    | with_reducible assumption
    | exact hl.of rfl
    | (with_reducible apply Frame.modJrn)

theorem Frame.nsUnwrap {l : List Blk} {s z : State} (hl : Sub [.cipher, .jrn] l)
    (hk : Frame l s z) (n : Nat) :
    Frame l s (Machine.nsUnwrap n z) := by
  unfold Machine.nsUnwrap
  repeat' first
    | with_reducible assumption
    | exact hl.of rfl
    | (with_reducible apply Frame.nsTakeKey)
    | (with_reducible apply Frame.ite)
    | split

theorem Frame.loadSpace {l : List Blk} {s z : State} (hl : Sub [.cipher, .jrn] l)
    (hk : Frame l s z) (slot : Nat) (m : MediaNs) :
    Frame l s (Machine.loadSpace slot m z) := by
  unfold Machine.loadSpace
  repeat' first
    | with_reducible assumption
    | exact hl.of rfl
    | (with_reducible apply Frame.setSpace)
    | (with_reducible apply Frame.nsDropKey)
    | (with_reducible apply Frame.nsUnwrap)
    | (with_reducible apply Frame.setSpace)
    | (with_reducible apply Frame.ite)

theorem Frame.cartOnline {l : List Blk} {s z : State} (hl : Sub [.cipher, .jrn] l)
    (hk : Frame l s z) (slot : Nat) (m : CartMedia) :
    Frame l s (Machine.cartOnline slot m z) := by
  unfold Machine.cartOnline
  repeat' first
    | with_reducible assumption
    | exact hl.of rfl
    | (with_reducible apply Frame.setCart)
    | (with_reducible apply Frame.setSpace)
    | (with_reducible apply Frame.raiseCart)
    | (with_reducible apply Frame.nsDropKey)
    | (with_reducible apply Frame.settleSpaces)
    | (with_reducible apply Frame.lifeCheck)
    | (with_reducible apply Frame.loadBlocks)
    | (with_reducible apply Frame.loadSpace)
    | (with_reducible apply Frame.modJrn)
    | (with_reducible refine Frame.forEach _ (fun _ _ _ => ?_) ?_)
    | (with_reducible apply Frame.setSpace)
    | (with_reducible apply Frame.setCart)
    | (with_reducible apply Frame.ite)

theorem Frame.endFormats {l : List Blk} {s z : State} (hl : Sub [.wq, .siphon, .jrn] l)
    (hk : Frame l s z) (hit : Nat → Bool) (status : Nat) :
    Frame l s (Machine.endFormats hit status z) := by
  unfold Machine.endFormats
  repeat' first
    | with_reducible assumption
    | exact hl.of rfl
    | (with_reducible apply Frame.setSpace)
    | (with_reducible apply Frame.jEnd)
    | (with_reducible refine Frame.forEach _ (fun _ _ _ => ?_) ?_)
    | (with_reducible apply Frame.setSpace)
    | split

theorem Frame.cartRemoval {l : List Blk} {s z : State} (hl : Sub [.counters, .dict, .mbx, .wq, .cipher, .siphon, .jrn] l)
    (hk : Frame l s z) (i : Nat) (rises : Bool) :
    Frame l s (Machine.cartRemoval i rises z) := by
  unfold Machine.cartRemoval
  repeat' first
    | with_reducible assumption
    | exact hl.of rfl
    | (with_reducible apply Frame.setCart)
    | (with_reducible apply Frame.answerAct)
    | (with_reducible apply Frame.jEnd)
    | (with_reducible apply Frame.cartCount)
    | (with_reducible apply Frame.raiseCart)
    | (with_reducible apply Frame.flushDone)
    | (with_reducible apply Frame.settleSpaces)
    | (with_reducible apply Frame.endStarted)
    | (with_reducible apply Frame.endFormats)
    | (with_reducible apply Frame.modJrn)
    | (with_reducible apply Frame.setCart)
    | (with_reducible apply Frame.ite)
    | (with_reducible apply Frame.ite_fst)
    | (with_reducible apply Frame.ite_snd)
    | (with_reducible refine Frame.foldl _ (fun _ _ _ => ?_) ?_)
    | (with_reducible refine Frame.foldl_fst _ (fun _ _ _ => ?_) ?_)
    | (with_reducible refine Frame.foldl_snd _ (fun _ _ _ => ?_) ?_)
    | split

theorem Frame.capsuleUnits {l : List Blk} {s z : State} (hl : Sub [.cipher, .siphon, .jrn] l)
    (hk : Frame l s z) (g msg ns : Nat) (a0 : Nat) :
    Frame l s (Machine.capsuleUnits g msg ns a0 z) := by
  induction a0 generalizing z with
  | zero => exact hk
  | succ n ih =>
    unfold Machine.capsuleUnits
    try dsimp only
    repeat' first
      | with_reducible assumption
      | exact hl.of rfl
      | (with_reducible apply ih)
      | (with_reducible apply Frame.updCap)
      | (with_reducible apply Frame.addUnit)
      | (with_reducible apply Frame.ite)
      | split

theorem Frame.stageData {l : List Blk} {s z : State} (hl : Sub [.cipher, .siphon, .jrn] l)
    (hk : Frame l s z) (g msg off : Nat) (data : Bytes) :
    Frame l s (Machine.stageData g msg off data z) := by
  unfold Machine.stageData
  repeat' first
    | with_reducible assumption
    | exact hl.of rfl
    | (with_reducible apply Frame.updCap)
    | (with_reducible apply Frame.capsuleUnits)
    | (with_reducible apply Frame.ite)
    | split
    | exact Frame.upd hk rfl (fun b n => by cases b <;> first | rfl | exact hl.not rfl n)
    | dsimp only

theorem Frame.xferTimeout {l : List Blk} {s z : State} (hl : Sub [.counters, .wq, .cipher, .siphon, .jrn] l)
    (hk : Frame l s z) (t g msg : Nat) :
    Frame l s (Machine.xferTimeout t g msg z) := by
  unfold Machine.xferTimeout
  repeat' first
    | with_reducible assumption
    | exact hl.of rfl
    | (with_reducible apply Frame.count)
    | (with_reducible apply Frame.capRespond)
    | (with_reducible apply Frame.endJob)
    | (with_reducible apply Frame.ite)
    | split
    | dsimp only

theorem Frame.cipherMessageDone {l : List Blk} {s z : State} (hl : Sub [.counters, .buf, .ep, .funcs, .polders, .wq, .cipher, .siphon, .jrn] l)
    (hk : Frame l s z) (k : Nat) :
    Frame l s (Machine.cipherMessageDone k z) := by
  unfold Machine.cipherMessageDone
  repeat' first
    | with_reducible assumption
    | exact hl.of rfl
    | (with_reducible apply Frame.cipherCount)
    | (with_reducible apply Frame.finishCipher)
    | (with_reducible apply Frame.freeCoreOf)
    | (with_reducible apply Frame.blockDone)
    | (with_reducible apply Frame.ite)
    | (with_reducible apply Frame.ite_fst)
    | (with_reducible apply Frame.ite_snd)
    | split

theorem Frame.journalEnd {l : List Blk} {s z : State} (hl : Sub [.cipher, .jrn] l)
    (hk : Frame l s z) (fn : Nat) :
    Frame l s (Machine.journalEnd fn z) := by
  unfold Machine.journalEnd
  repeat' first
    | with_reducible assumption
    | exact hl.of rfl
    | (with_reducible apply Frame.journalDrop)

theorem Frame.journalHold {l : List Blk} {s z : State} (hl : Sub [.counters, .wq, .jrn] l)
    (hk : Frame l s z) :
    Frame l s (Machine.journalHold z) := by
  unfold Machine.journalHold
  repeat' first
    | with_reducible assumption
    | exact hl.of rfl
    | (with_reducible apply Frame.setQueue)
    | (with_reducible apply Frame.count)
    | (with_reducible apply Frame.modJrn)
    | (with_reducible apply Frame.setQueue)
    | (with_reducible apply Frame.ite)
    | (with_reducible apply Frame.ite_fst)
    | (with_reducible apply Frame.ite_snd)
    | (with_reducible refine Frame.foldl _ (fun _ _ _ => ?_) ?_)

theorem Frame.journalRelease {l : List Blk} {s z : State} (hl : Sub [.wq, .siphon, .jrn] l)
    (hk : Frame l s z) (fail : Option Nat) :
    Frame l s (Machine.journalRelease fail z) := by
  unfold Machine.journalRelease
  repeat' first
    | with_reducible assumption
    | exact hl.of rfl
    | (with_reducible apply Frame.setQueue)
    | (with_reducible apply Frame.finishChain)
    | (with_reducible apply Frame.capRespond)
    | (with_reducible apply Frame.modJrn)
    | (with_reducible refine Frame.forEach _ (fun _ _ _ => ?_) ?_)
    | (with_reducible apply Frame.setQueue)
    | (with_reducible apply Frame.ite)
    | (with_reducible apply Frame.ite_fst)
    | (with_reducible apply Frame.ite_snd)
    | (with_reducible refine Frame.foldl _ (fun _ _ _ => ?_) ?_)
    | (with_reducible refine Frame.foldl_fst _ (fun _ _ _ => ?_) ?_)
    | (with_reducible refine Frame.foldl_snd _ (fun _ _ _ => ?_) ?_)
    | split

theorem Frame.resetWrites {l : List Blk} {s z : State} (hl : Sub [.wq, .cipher, .siphon, .jrn] l)
    (hk : Frame l s z) (src : JSrc) :
    Frame l s (Machine.resetWrites src z) := by
  unfold Machine.resetWrites
  repeat' first
    | with_reducible assumption
    | exact hl.of rfl
    | (with_reducible apply Frame.journalCut)
    | (with_reducible apply Frame.jEnd)
    | (with_reducible apply Frame.modJrn)
    | (with_reducible refine Frame.forEach _ (fun _ _ _ => ?_) ?_)
    | (with_reducible apply Frame.ite)

theorem Frame.journalQueueReset {l : List Blk} {s z : State} (hl : Sub [.wq, .cipher, .siphon, .jrn] l)
    (hk : Frame l s z) (fn q : Nat) :
    Frame l s (Machine.journalQueueReset fn q z) := by
  unfold Machine.journalQueueReset
  repeat' first
    | with_reducible assumption
    | exact hl.of rfl
    | (with_reducible apply Frame.finishChain)
    | (with_reducible apply Frame.resetWrites)
    | (with_reducible refine Frame.forEach _ (fun _ _ _ => ?_) ?_)

end Sys2Proof
end

