-- ==== Sys2Proof/Laws/FrameSiphonRx.lean ====
section
/-! SUPPORT. Which blocks the operations of Machine/SiphonRx.lean may change. -/

namespace Sys2Proof
open Machine

theorem Frame.rxPop {l : List Blk} {s z : State} (hl : Sub [.counters, .buf, .siphon] l)
    (hk : Frame l s z) (sid : Nat) :
    Frame l s (Machine.rxPop sid z) := by
  unfold Machine.rxPop
  repeat' first
    | with_reducible assumption
    | exact hl.of rfl
    | (with_reducible apply Frame.releaseCopy)
    | (with_reducible apply Frame.modSiphon)

theorem Frame.rxMark {l : List Blk} {s z : State} (hl : Sub [.free, .id, .counters, .buf, .ep, .funcs, .polders, .wq, .cipher, .siphon, .jrn, .culv] l)
    (hk : Frame l s z) (t g : Nat) (p : SPacket) (ce : Bool) :
    Frame l s (Machine.rxMark t g p ce z) := by
  unfold Machine.rxMark
  repeat' first
    | with_reducible assumption
    | exact hl.of rfl
    | (with_reducible apply Frame.setChannel)
    | (with_reducible apply Frame.sendCnp)
    | (with_reducible apply Frame.setChannel)
    | (with_reducible apply Frame.ite)

theorem Frame.rxInError {l : List Blk} {s z : State} (hl : Sub [.free, .id, .counters, .buf, .ep, .funcs, .polders, .wq, .cipher, .siphon, .jrn, .culv] l)
    (hk : Frame l s z) (t g : Nat) (p : SPacket) :
    Frame l s (Machine.rxInError t g p z) := by
  unfold Machine.rxInError
  repeat' first
    | with_reducible assumption
    | exact hl.of rfl
    | (with_reducible apply Frame.setChannel)
    | (with_reducible apply Frame.sendNak)
    | (with_reducible apply Frame.setChannel)
    | (with_reducible apply Frame.ite)

theorem Frame.rxGone {l : List Blk} {s z : State} (hl : Sub [.siphon] l)
    (hk : Frame l s z) :
    Frame l s (Machine.rxGone z) := by
  unfold Machine.rxGone
  repeat' first
    | with_reducible assumption
    | exact hl.of rfl
    | (with_reducible apply Frame.modSiphon)

theorem Frame.rxServe {l : List Blk} {s z : State} (hl : Sub [.free, .id, .counters, .buf, .ep, .funcs, .polders, .wq, .cipher, .siphon, .jrn, .culv] l)
    (hk : Frame l s z) (t op : Nat) (fault : BufFault) (go : Nat → SPacket → State → State) (h_go : ∀ b0 b1 y, Frame l s y → Frame l s (go b0 b1 y)) :
    Frame l s (Machine.rxServe t op fault go z) := by
  unfold Machine.rxServe
  repeat' first
    | with_reducible assumption
    | exact hl.of rfl
    | (with_reducible apply h_go)
    | (with_reducible apply Frame.raise)
    | (with_reducible apply Frame.count)
    | (with_reducible apply Frame.countFor)
    | (with_reducible apply Frame.cellFault)
    | (with_reducible apply Frame.sipCount)
    | (with_reducible apply Frame.sFarm)
    | (with_reducible apply Frame.rxPop)
    | (with_reducible apply Frame.rxMark)
    | (with_reducible apply Frame.rxInError)
    | (with_reducible apply Frame.rxGone)
    | (with_reducible apply Frame.ite)
    | (with_reducible apply Frame.ite_fst)
    | (with_reducible apply Frame.ite_snd)
    | split

/-- What the engine does for a packet it takes stays within the blocks `l`. -/
def RxWithin (l : List Blk) : RxDo → Prop
  | .drop _ => True
  | .refuse _ => True
  | .take change => ∀ s y, Frame l s y → Frame l s (change y)

theorem Frame.rxPsn {l : List Blk} {s z : State} (hl : Sub [.free, .id, .counters, .buf, .ep, .funcs, .polders, .wq, .cipher, .siphon, .jrn, .culv] l) (hk : Frame l s z) (t g : Nat) (p : SPacket) (judge : Channel → RxDo)
    (hj : ∀ c, RxWithin l (judge c)) : Frame l s (Machine.rxPsn t g p judge z) := by
  unfold Machine.rxPsn
  dsimp only
  repeat' first
    | with_reducible assumption
    | exact hl.of rfl
    | (with_reducible apply Frame.ite)
    | (with_reducible apply Frame.scheduleAck)
    | (with_reducible apply Frame.sipCount)
    | (with_reducible apply Frame.sendNak)
    | (with_reducible apply Frame.setChannel)
    | split
  all_goals
    rename_i change heq
    have := hj (z.channel g)
    rw [heq] at this
    exact this s z hk

theorem RxWithin.take {l : List Blk} {change : State → State}
    (h : ∀ s y, Frame l s y → Frame l s (change y)) : RxWithin l (.take change) := h

theorem RxWithin.ite {l : List Blk} {a b : RxDo} {c : Prop} [Decidable c] (ha : RxWithin l a)
    (hb : RxWithin l b) : RxWithin l (if c then a else b) := by split <;> assumption

theorem Frame.regionWrite {l : List Blk} {s z : State} (hl : Sub [.counters, .ep, .funcs, .polders, .siphon] l)
    (hk : Frame l s z) (w : Requester) (addr : Nat) (data : Bytes) :
    Frame l s (Machine.regionWrite w addr data z) := by
  unfold Machine.regionWrite
  repeat' first
    | with_reducible assumption
    | exact hl.of rfl
    | (with_reducible apply Frame.polderFault)
    | (with_reducible apply Frame.memWrite)
    | (with_reducible apply Frame.acsReport)
    | (with_reducible apply Frame.ite)

theorem Frame.asmPut {l : List Blk} {s z : State} (hl : Sub [.siphon] l)
    (hk : Frame l s z) (g : Nat) (a : SAsm) (i : Nat) :
    Frame l s (Machine.asmPut g a i z) := by
  unfold Machine.asmPut
  repeat' first
    | with_reducible assumption
    | exact hl.of rfl
    | (with_reducible apply Frame.setChannel)

theorem Frame.asmDrop {l : List Blk} {s z : State} (hl : Sub [.siphon] l)
    (hk : Frame l s z) (g op msg : Nat) :
    Frame l s (Machine.asmDrop g op msg z) := by
  unfold Machine.asmDrop
  repeat' first
    | with_reducible assumption
    | exact hl.of rfl
    | (with_reducible apply Frame.setChannel)

theorem Frame.serveReads {l : List Blk} {s z : State} (hl : Sub [.siphon] l)
    (hk : Frame l s z) (g : Nat) (a0 : Nat) :
    Frame l s (Machine.serveReads g a0 z) := by
  induction a0 generalizing z with
  | zero => exact hk
  | succ n ih =>
    unfold Machine.serveReads
    try dsimp only
    repeat' first
      | with_reducible assumption
      | exact hl.of rfl
      | (with_reducible apply ih)
      | (with_reducible apply Frame.setChannel)
      | (with_reducible apply Frame.addReply)
      | (with_reducible apply Frame.setChannel)
      | (with_reducible apply Frame.ite)
      | (with_reducible refine Frame.foldl _ (fun _ _ _ => ?_) ?_)
      | (with_reducible refine Frame.foldl_fst _ (fun _ _ _ => ?_) ?_)
      | (with_reducible refine Frame.foldl_snd _ (fun _ _ _ => ?_) ?_)
      | split

theorem Frame.readDone {l : List Blk} {s z : State} (hl : Sub [.wq, .siphon] l)
    (hk : Frame l s z) (g : Nat) (m : SMsg) :
    Frame l s (Machine.readDone g m z) := by
  unfold Machine.readDone
  repeat' first
    | with_reducible assumption
    | exact hl.of rfl
    | (with_reducible apply Frame.setChannel)
    | (with_reducible apply Frame.finishChain)
    | (with_reducible apply Frame.setChannel)
    | (with_reducible apply Frame.ite)
    | (with_reducible apply Frame.ite_fst)
    | (with_reducible apply Frame.ite_snd)
    | split

theorem Frame.rxControl {l : List Blk} {s z : State} (hl : Sub [.counters, .siphon] l)
    (hk : Frame l s z) (g : Nat) (p : SPacket) (go : State → State) (h_go : ∀ y, Frame l s y → Frame l s (go y)) :
    Frame l s (Machine.rxControl g p go z) := by
  unfold Machine.rxControl
  repeat' first
    | with_reducible assumption
    | exact hl.of rfl
    | (with_reducible apply h_go)
    | (with_reducible apply Frame.setChannel)
    | (with_reducible apply Frame.sipCount)
    | (with_reducible apply Frame.setChannel)
    | (with_reducible apply Frame.ite)

theorem Frame.settleMsgs {l : List Blk} {s z : State} (hl : Sub [.wq, .siphon] l)
    (hk : Frame l s z) (g : Nat) :
    Frame l s (Machine.settleMsgs g z) := by
  unfold Machine.settleMsgs
  repeat' first
    | with_reducible assumption
    | exact hl.of rfl
    | (with_reducible apply Frame.setChannel)
    | (with_reducible apply Frame.finishChain)
    | (with_reducible apply Frame.setChannel)
    | (with_reducible refine Frame.forEach _ (fun _ _ _ => ?_) ?_)
    | (with_reducible apply Frame.ite)
    | (with_reducible apply Frame.ite_fst)
    | (with_reducible apply Frame.ite_snd)
    | split

theorem Frame.onAck {l : List Blk} {s z : State} (hl : Sub [.wq, .siphon] l)
    (hk : Frame l s z) (t g : Nat) (p : SPacket) :
    Frame l s (Machine.onAck t g p z) := by
  unfold Machine.onAck
  repeat' first
    | with_reducible assumption
    | exact hl.of rfl
    | (with_reducible apply Frame.setChannel)
    | (with_reducible apply Frame.pathAcked)
    | (with_reducible apply Frame.serveReads)
    | (with_reducible apply Frame.settleMsgs)
    | (with_reducible apply Frame.setChannel)
    | (with_reducible refine Frame.forEach _ (fun _ _ _ => ?_) ?_)
    | (with_reducible apply Frame.ite)
    | split

end Sys2Proof
end

