-- ==== Sys2Proof/Laws/FrameWorkQueues.lean ====
section
/-! SUPPORT. Which blocks the operations of Machine/WorkQueues.lean may change. -/

namespace Sys2Proof
open Machine

theorem Frame.qctrl {l : List Blk} {s z : State} (hl : Sub [.funcs, .wq] l)
    (hk : Frame l s z) (fn q cmd word : Nat) (go : Queue → State → Nat × State) (h_go : ∀ b0 y, Frame l s y → Frame l s (go b0 y).2) :
    Frame l s (Machine.qctrl fn q cmd word go z) := by
  unfold Machine.qctrl
  repeat' first
    | with_reducible assumption
    | exact hl.of rfl
    | (with_reducible apply h_go)
    | (with_reducible apply Frame.setQueue)
    | (with_reducible apply Frame.barMissed)
    | (with_reducible apply Frame.setQueue)
    | (with_reducible apply Frame.ite)

theorem Frame.qLoad {l : List Blk} {s z : State} (hl : Sub [.wq] l)
    (hk : Frame l s z) (fn q word : Nat) (x : Queue) :
    Frame l s (Machine.qLoad fn q word x z).2 := by
  unfold Machine.qLoad
  repeat' first
    | with_reducible assumption
    | exact hl.of rfl
    | (with_reducible apply Frame.setQueue)
    | (with_reducible apply Frame.setQueue)
    | (with_reducible apply Frame.ite)
    | (with_reducible apply Frame.ite_fst)
    | (with_reducible apply Frame.ite_snd)

theorem Frame.qRead {l : List Blk} {s z : State} (hl : Sub [.wq] l)
    (hk : Frame l s z) (fn q word : Nat) (x : Queue) :
    Frame l s (Machine.qRead fn q word x z).2 := by
  unfold Machine.qRead
  repeat' first
    | with_reducible assumption
    | exact hl.of rfl
    | (with_reducible apply Frame.setQueue)
    | (with_reducible apply Frame.setQueue)
    | (with_reducible apply Frame.ite)
    | (with_reducible apply Frame.ite_fst)
    | (with_reducible apply Frame.ite_snd)

theorem Frame.qEnable {l : List Blk} {s z : State} (hl : Sub [.wq] l)
    (hk : Frame l s z) (fn q : Nat) (x : Queue) :
    Frame l s (Machine.qEnable fn q x z).2 := by
  unfold Machine.qEnable
  repeat' first
    | with_reducible assumption
    | exact hl.of rfl
    | (with_reducible apply Frame.setQueue)
    | (with_reducible apply Frame.setQueue)
    | (with_reducible apply Frame.ite)
    | (with_reducible apply Frame.ite_fst)
    | (with_reducible apply Frame.ite_snd)

theorem Frame.detachTx {l : List Blk} {s z : State} (hl : Sub [.buf, .sched] l)
    (hk : Frame l s z) (fn : Nat) (p : Nat → Bool) :
    Frame l s (Machine.detachTx fn p z) := by
  unfold Machine.detachTx
  repeat' first
    | with_reducible assumption
    | exact hl.of rfl
    | (with_reducible apply Frame.modBuf)
    | (with_reducible apply Frame.modSched)

theorem Frame.endQueueWork {l : List Blk} {s z : State} (hl : Sub [.counters, .buf, .sched, .ep, .cipher, .siphon] l)
    (hk : Frame l s z) (fn q : Nat) :
    Frame l s (Machine.endQueueWork fn q z) := by
  unfold Machine.endQueueWork
  repeat' first
    | with_reducible assumption
    | exact hl.of rfl
    | (with_reducible apply Frame.discardHeld)
    | (with_reducible apply Frame.dropReads)
    | (with_reducible apply Frame.cipherQueueReset)
    | (with_reducible apply Frame.siphonQueueEnd)
    | (with_reducible apply Frame.detachTx)
    | (with_reducible apply Frame.ite)

theorem Frame.resetJournal {l : List Blk} {s z : State} (hl : Sub [.wq, .cipher, .siphon, .jrn] l)
    (hk : Frame l s z) (fn q : Nat) :
    Frame l s (Machine.resetJournal fn q z) := by
  unfold Machine.resetJournal
  repeat' first
    | with_reducible assumption
    | exact hl.of rfl
    | (with_reducible apply Frame.setQueue)
    | (with_reducible apply Frame.journalQueueReset)

theorem Frame.qReset {l : List Blk} {s z : State} (hl : Sub [.counters, .buf, .sched, .ep, .wq, .cipher, .siphon, .jrn] l)
    (hk : Frame l s z) (fn q : Nat) (x : Queue) :
    Frame l s (Machine.qReset fn q x z).2 := by
  unfold Machine.qReset
  repeat' first
    | with_reducible assumption
    | exact hl.of rfl
    | (with_reducible apply Frame.setQueue)
    | (with_reducible apply Frame.drainEnd)
    | (with_reducible apply Frame.endQueueWork)
    | (with_reducible apply Frame.resetJournal)
    | (with_reducible apply Frame.setQueue)
    | (with_reducible apply Frame.ite)
    | (with_reducible apply Frame.ite_fst)
    | (with_reducible apply Frame.ite_snd)

theorem Frame.qDisable {l : List Blk} {s z : State} (hl : Sub [.counters, .buf, .ep, .wq] l)
    (hk : Frame l s z) (fn q : Nat) (x : Queue) :
    Frame l s (Machine.qDisable fn q x z).2 := by
  unfold Machine.qDisable
  repeat' first
    | with_reducible assumption
    | exact hl.of rfl
    | (with_reducible apply Frame.setQueue)
    | (with_reducible apply Frame.discardHeld)
    | (with_reducible apply Frame.dropReads)
    | (with_reducible apply Frame.drainEnd)
    | (with_reducible apply Frame.setQueue)
    | (with_reducible apply Frame.ite)
    | (with_reducible apply Frame.ite_fst)
    | (with_reducible apply Frame.ite_snd)

theorem Frame.queueOverrun {l : List Blk} {s z : State} (hl : Sub [.counters, .buf, .polders, .wq] l)
    (hk : Frame l s z) (fn q idx : Nat) :
    Frame l s (Machine.queueOverrun fn q idx z) := by
  unfold Machine.queueOverrun
  repeat' first
    | with_reducible assumption
    | exact hl.of rfl
    | (with_reducible apply Frame.setQueue)
    | (with_reducible apply Frame.countFor)
    | (with_reducible apply Frame.polderFault)
    | (with_reducible apply Frame.discardHeld)
    | (with_reducible apply Frame.errorVectors)

theorem Frame.applyTail {l : List Blk} {s z : State} (hl : Sub [.counters, .buf, .polders, .wq] l)
    (hk : Frame l s z) (fn q idx : Nat) :
    Frame l s (Machine.applyTail fn q idx z) := by
  unfold Machine.applyTail
  repeat' first
    | with_reducible assumption
    | exact hl.of rfl
    | (with_reducible apply Frame.setQueue)
    | (with_reducible apply Frame.queueOverrun)
    | (with_reducible apply Frame.setQueue)
    | (with_reducible apply Frame.ite)

theorem Frame.takeBell {l : List Blk} {s z : State} (hl : Sub [.wq] l)
    (hk : Frame l s z) (apply : Nat → State → State) (h_apply : ∀ b0 y, Frame l s y → Frame l s (apply b0 y)) (fn q idx : Nat) :
    Frame l s (Machine.takeBell apply fn q idx z) := by
  unfold Machine.takeBell
  repeat' first
    | with_reducible assumption
    | exact hl.of rfl
    | (with_reducible apply h_apply)
    | (with_reducible apply Frame.setQueue)
    | (with_reducible apply Frame.setQueue)
    | (with_reducible apply Frame.ite)

theorem Frame.applyHead {l : List Blk} {s z : State} (hl : Sub [.counters, .buf, .polders, .wq] l)
    (hk : Frame l s z) (fn q idx : Nat) :
    Frame l s (Machine.applyHead fn q idx z) := by
  unfold Machine.applyHead
  repeat' first
    | with_reducible assumption
    | exact hl.of rfl
    | (with_reducible apply Frame.setQueue)
    | (with_reducible apply Frame.queueOverrun)
    | (with_reducible apply Frame.setQueue)
    | (with_reducible apply Frame.ite)

theorem Frame.doorbell {l : List Blk} {s z : State} (hl : Sub [.funcs, .wq] l)
    (hk : Frame l s z) (tail : Bool) (apply : Nat → State → State) (h_apply : ∀ b0 y, Frame l s y → Frame l s (apply b0 y)) (fn q v : Nat) :
    Frame l s (Machine.doorbell tail apply fn q v z) := by
  unfold Machine.doorbell
  repeat' first
    | with_reducible assumption
    | exact hl.of rfl
    | (with_reducible apply h_apply)
    | (with_reducible apply Frame.setQueue)
    | (with_reducible apply Frame.barMissed)
    | (with_reducible apply Frame.takeBell)
    | (with_reducible apply Frame.setQueue)
    | (with_reducible apply Frame.ite)
    | split
    | exact Frame.upd hk rfl (fun b n => by cases b <;> first | rfl | exact hl.not rfl n)
    | dsimp only

theorem Frame.tailDoorbell {l : List Blk} {s z : State} (hl : Sub [.counters, .buf, .funcs, .polders, .wq] l)
    (hk : Frame l s z) (fn q v : Nat) :
    Frame l s (Machine.tailDoorbell fn q v z) := by
  unfold Machine.tailDoorbell
  repeat' first
    | with_reducible assumption
    | exact hl.of rfl
    | (with_reducible apply Frame.applyTail)
    | (with_reducible apply Frame.doorbell)
    | (with_reducible intro _; try beta_reduce)

theorem Frame.headDoorbell {l : List Blk} {s z : State} (hl : Sub [.counters, .buf, .funcs, .polders, .wq] l)
    (hk : Frame l s z) (fn q v : Nat) :
    Frame l s (Machine.headDoorbell fn q v z) := by
  unfold Machine.headDoorbell
  repeat' first
    | with_reducible assumption
    | exact hl.of rfl
    | (with_reducible apply Frame.applyHead)
    | (with_reducible apply Frame.doorbell)
    | (with_reducible intro _; try beta_reduce)

theorem Frame.resumeQueue {l : List Blk} {s z : State} (hl : Sub [.counters, .buf, .polders, .wq] l)
    (hk : Frame l s z) (fn q : Nat) :
    Frame l s (Machine.resumeQueue fn q z) := by
  unfold Machine.resumeQueue
  repeat' first
    | with_reducible assumption
    | exact hl.of rfl
    | (with_reducible apply Frame.setQueue)
    | (with_reducible apply Frame.applyTail)
    | (with_reducible apply Frame.applyHead)
    | (with_reducible apply Frame.setQueue)
    | (with_reducible apply Frame.ite)
    | split
    | exact Frame.upd hk rfl (fun b n => by cases b <;> first | rfl | exact hl.not rfl n)
    | dsimp only

theorem Frame.chainChecked {l : List Blk} {s z : State} (hl : Sub [.counters, .buf, .polders, .wq] l)
    (hk : Frame l s z) (fn q first : Nat) (chain : List Bytes) (next : State → State) (h_next : ∀ y, Frame l s y → Frame l s (next y)) :
    Frame l s (Machine.chainChecked fn q first chain next z) := by
  unfold Machine.chainChecked
  repeat' first
    | with_reducible assumption
    | exact hl.of rfl
    | (with_reducible apply h_next)
    | (with_reducible apply Frame.malformed)
    | split
    | dsimp only

theorem Frame.takeEntry {l : List Blk} {s z : State} (hl : Sub [.counters, .buf, .polders, .wq, .jrn] l)
    (hk : Frame l s z) (fn q idx : Nat) (e : Bytes) :
    Frame l s (Machine.takeEntry fn q idx e z) := by
  unfold Machine.takeEntry
  repeat' first
    | with_reducible assumption
    | exact hl.of rfl
    | (with_reducible apply Frame.setQueue)
    | (with_reducible apply Frame.malformed)
    | (with_reducible apply Frame.commandComes)
    | (with_reducible apply Frame.chainChecked)
    | (with_reducible apply Frame.setQueue)
    | (with_reducible apply Frame.ite)
    | (with_reducible intro _; try beta_reduce)

theorem Frame.takeEntries {l : List Blk} {s z : State} (hl : Sub [.counters, .buf, .polders, .wq, .jrn] l)
    (hk : Frame l s z) (fn q : Nat) (a0 : List Bytes) :
    Frame l s (Machine.takeEntries fn q a0 z) := by
  induction a0 generalizing z with
  | nil => exact hk
  | cons hd tl ih =>
    unfold Machine.takeEntries
    try dsimp only
    repeat' first
      | with_reducible assumption
      | exact hl.of rfl
      | (with_reducible apply ih)
      | (with_reducible apply Frame.setQueue)
      | (with_reducible apply Frame.takeEntry)

theorem Frame.journalWaits {l : List Blk} {s z : State} (hl : Sub [.wq] l)
    (hk : Frame l s z) (fn q : Nat) :
    Frame l s (Machine.journalWaits fn q z) := by
  unfold Machine.journalWaits
  repeat' first
    | with_reducible assumption
    | exact hl.of rfl
    | (with_reducible apply Frame.setQueue)
    | (with_reducible apply Frame.setQueue)
    | (with_reducible apply Frame.ite)

theorem Frame.takeTurn {l : List Blk} {s z : State} (hl : Sub [.wq] l)
    (hk : Frame l s z) (fn q : Nat) :
    Frame l s (Machine.takeTurn fn q z) := by
  unfold Machine.takeTurn
  repeat' first
    | with_reducible assumption
    | exact hl.of rfl
    | exact Frame.upd hk rfl (fun b n => by cases b <;> first | rfl | exact hl.not rfl n)

theorem Frame.entriesBack {l : List Blk} {s z : State} (hl : Sub [.counters, .buf, .polders, .wq, .jrn] l)
    (hk : Frame l s z) (fn q : Nat) (n : Nat) (b : Bytes) :
    Frame l s (Machine.entriesBack fn q n b z) := by
  unfold Machine.entriesBack
  repeat' first
    | with_reducible assumption
    | exact hl.of rfl
    | (with_reducible apply Frame.takeEntries)
    | (with_reducible apply Frame.journalWaits)

theorem Frame.entryFetch {l : List Blk} {s z : State} (hl : Sub [.counters, .buf, .ep, .funcs, .polders, .wq, .jrn] l)
    (hk : Frame l s z) (fn q count : Nat) (entries : Option (List Bytes)) :
    Frame l s (Machine.entryFetch fn q count entries z) := by
  unfold Machine.entryFetch
  repeat' first
    | with_reducible assumption
    | exact hl.of rfl
    | (with_reducible apply Frame.setQueue)
    | (with_reducible apply Frame.count)
    | (with_reducible apply Frame.startReads)
    | (with_reducible apply Frame.refuseRequest)
    | (with_reducible apply Frame.takeTurn)
    | (with_reducible apply Frame.entriesBack)
    | (with_reducible apply Frame.setQueue)
    | (with_reducible apply Frame.ite)
    | (refine Frame.readNow ?_ ?_ (by assumption))
    | split

theorem Frame.heldRelease {l : List Blk} {s z : State} (hl : Sub [.counters, .buf, .ep, .funcs, .polders, .wq] l)
    (hk : Frame l s z) (fn q : Nat) :
    Frame l s (Machine.heldRelease fn q z) := by
  unfold Machine.heldRelease
  repeat' first
    | with_reducible assumption
    | exact hl.of rfl
    | (with_reducible apply Frame.drainEnd)
    | (with_reducible apply Frame.releaseWaiting)
    | (with_reducible apply Frame.resumeQueue)
    | (with_reducible apply Frame.ite)

theorem Frame.modTimer {l : List Blk} {s z : State} (hl : Sub [.wq] l)
    (hk : Frame l s z) (t fn q : Nat) :
    Frame l s (Machine.modTimer t fn q z) := by
  unfold Machine.modTimer
  repeat' first
    | with_reducible assumption
    | exact hl.of rfl
    | (with_reducible apply Frame.setQueue)
    | (with_reducible apply Frame.signal)
    | (with_reducible apply Frame.setQueue)
    | (with_reducible apply Frame.ite)
    | split
    | exact Frame.upd hk rfl (fun b n => by cases b <;> first | rfl | exact hl.not rfl n)
    | dsimp only

theorem Frame.txReady {l : List Blk} {s z : State} (hl : Sub [.sched, .wq] l)
    (hk : Frame l s z) (fn q : Nat) (ch : Chain) (b : Bytes) :
    Frame l s (Machine.txReady fn q ch b z) := by
  unfold Machine.txReady
  repeat' first
    | with_reducible assumption
    | exact hl.of rfl
    | (with_reducible apply Frame.updChain)
    | (with_reducible apply Frame.htxWait)

theorem Frame.txFrame {l : List Blk} {s z : State} (hl : Sub [.counters, .buf, .sched, .ep, .funcs, .polders, .wq] l)
    (hk : Frame l s z) (fn q : Nat) (h : HostData) :
    Frame l s (Machine.txFrame fn q h z) := by
  unfold Machine.txFrame
  repeat' first
    | with_reducible assumption
    | exact hl.of rfl
    | (with_reducible apply Frame.finishChain)
    | (with_reducible apply Frame.hostOp)
    | (with_reducible apply Frame.txReady)
    | (with_reducible apply Frame.ite)
    | (with_reducible apply Frame.ite_fst)
    | (with_reducible apply Frame.ite_snd)
    | split
    | (with_reducible intro _; try beta_reduce)

theorem Frame.rxBuf {l : List Blk} {s z : State} (hl : Sub [.wq] l)
    (hk : Frame l s z) (fn q : Nat) :
    Frame l s (Machine.rxBuf fn q z) := by
  unfold Machine.rxBuf
  repeat' first
    | with_reducible assumption
    | exact hl.of rfl
    | (with_reducible apply Frame.setQueue)
    | (with_reducible apply Frame.updChain)
    | (with_reducible apply Frame.setQueue)
    | (with_reducible apply Frame.ite)
    | split

theorem Frame.fillBuffers {l : List Blk} {s z : State} (hl : Sub [.counters, .buf, .ep, .funcs, .polders, .wq, .siphon] l) (hk : Frame l s z) (fn q : Nat) (h : HFrame) (first : Bool)
    (as : List (Nat × Bytes)) (b : Bytes) : Frame l s (Machine.fillBuffers fn q h first as b z) := by
  induction as generalizing z first b with
  | nil => exact hk
  | cons e rest ih =>
    obtain ⟨idx, e⟩ := e
    unfold Machine.fillBuffers
    dsimp only
    have k1 := Frame.queueWrite (l := l) (hl.of rfl) hk fn q idx (eAddr e) [e] (b.take (min (eLength e) b.length))
    refine Frame.ite ?_ (ih (Frame.finishChain (hl.of rfl) ?_ _ _ _ _ _) _ _) <;>
      exact Frame.ite k1 (Frame.queueWrite (hl.of rfl) k1 _ _ _ _ _ _)

theorem Frame.deliveryFault {l : List Blk} {s z : State} (hl : Sub [.counters, .buf] l)
    (hk : Frame l s z) (h : HFrame) (fault : BufFault) :
    Frame l s (Machine.deliveryFault h fault z).2 := by
  unfold Machine.deliveryFault
  repeat' first
    | with_reducible assumption
    | exact hl.of rfl
    | (with_reducible apply Frame.cellFault)
    | split

theorem Frame.leaveHold {l : List Blk} {s z : State} (hl : Sub [.buf, .wq] l)
    (hk : Frame l s z) (fn q : Nat) (h : HFrame) (rest : List HFrame) :
    Frame l s (Machine.leaveHold fn q h rest z) := by
  unfold Machine.leaveHold
  repeat' first
    | with_reducible assumption
    | exact hl.of rfl
    | (with_reducible apply Frame.setQueue)
    | (with_reducible apply Frame.setHostFrames)
    | (with_reducible apply Frame.setQueue)
    | (with_reducible apply Frame.ite)
    | split

theorem Frame.rxDeliver {l : List Blk} {s z : State} (hl : Sub [.counters, .buf, .ep, .funcs, .polders, .wq, .siphon] l)
    (hk : Frame l s z) (t fn q : Nat) (fault : BufFault) :
    Frame l s (Machine.rxDeliver t fn q fault z) := by
  unfold Machine.rxDeliver
  repeat' first
    | with_reducible assumption
    | exact hl.of rfl
    | (with_reducible apply Frame.setQueue)
    | (with_reducible apply Frame.count)
    | (with_reducible apply Frame.setHostFrames)
    | (with_reducible apply Frame.dropPlace)
    | (with_reducible apply Frame.trackHost)
    | (with_reducible apply Frame.fillBuffers)
    | (with_reducible apply Frame.deliveryFault)
    | (with_reducible apply Frame.leaveHold)
    | (with_reducible apply Frame.setQueue)
    | (with_reducible apply Frame.ite)
    | (with_reducible apply Frame.ite_fst)
    | (with_reducible apply Frame.ite_snd)
    | split

end Sys2Proof
end

