-- ==== Sys2Proof/Laws/FrameEndpoint.lean ====
section
/-! SUPPORT. Which blocks the operations of Machine/Endpoint.lean may change. -/

namespace Sys2Proof
open Machine

theorem Frame.filterQueues {l : List Blk} {s z : State} (hl : Sub [.wq] l) (hk : Frame l s z)
    (p : Nat × Queue → Bool) : Frame l s { z with wq := { z.wq with queues := z.wq.queues.filter p } } :=
  hk.upd rfl (fun b n => by cases b <;> first | rfl | exact hl.not rfl n)

theorem Frame.aerSet {l : List Blk} {s z : State} (hl : Sub [.funcs] l)
    (hk : Frame l s z) (fn bit : Nat) :
    Frame l s (Machine.aerSet fn bit z) := by
  unfold Machine.aerSet
  repeat' first
    | with_reducible assumption
    | exact hl.of rfl
    | (with_reducible apply Frame.setFunc)

theorem Frame.aerAdvise {l : List Blk} {s z : State} (hl : Sub [.funcs] l)
    (hk : Frame l s z) (fn bit : Nat) :
    Frame l s (Machine.aerAdvise fn bit z) := by
  unfold Machine.aerAdvise
  repeat' first
    | with_reducible assumption
    | exact hl.of rfl
    | (with_reducible apply Frame.setFunc)
    | (with_reducible apply Frame.aerSet)

theorem Frame.tagDone {l : List Blk} {s z : State} (hl : Sub [.ep] l)
    (hk : Frame l s z) (tag : Nat) :
    Frame l s (Machine.tagDone tag z) := by
  unfold Machine.tagDone
  repeat' first
    | with_reducible assumption
    | exact hl.of rfl
    | ((with_reducible apply Frame.modEp) <;> first | exact fun _ _ => rfl | exact fun h => hl.not rfl h | skip)

theorem Frame.endRead {l : List Blk} {s z : State} (hl : Sub [.ep] l)
    (hk : Frame l s z) (tag : Nat) :
    Frame l s (Machine.endRead tag z) := by
  unfold Machine.endRead
  repeat' first
    | with_reducible assumption
    | exact hl.of rfl
    | (with_reducible apply Frame.tagDone)
    | ((with_reducible apply Frame.modEp) <;> first | exact fun _ _ => rfl | exact fun h => hl.not rfl h | skip)

theorem Frame.keepRead {l : List Blk} {s z : State} (hl : Sub [.ep] l)
    (hk : Frame l s z) (tag : Nat) (data : Bytes) :
    Frame l s (Machine.keepRead tag data z) := by
  unfold Machine.keepRead
  repeat' first
    | with_reducible assumption
    | exact hl.of rfl
    | (with_reducible apply Frame.tagDone)
    | ((with_reducible apply Frame.modEp) <;> first | exact fun _ _ => rfl | exact fun h => hl.not rfl h | skip)

theorem Frame.quarantineTag {l : List Blk} {s z : State} (hl : Sub [.ep] l)
    (hk : Frame l s z) (t fn tag : Nat) :
    Frame l s (Machine.quarantineTag t fn tag z) := by
  unfold Machine.quarantineTag
  repeat' first
    | with_reducible assumption
    | exact hl.of rfl
    | (with_reducible apply Frame.countEv)
    | ((with_reducible apply Frame.modEp) <;> first | exact fun _ _ => rfl | exact fun h => hl.not rfl h | skip)

theorem Frame.squashReads {l : List Blk} {s z : State} (hl : Sub [.ep] l)
    (hk : Frame l s z) (t fn : Nat) :
    Frame l s (Machine.squashReads t fn z) := by
  unfold Machine.squashReads
  repeat' first
    | with_reducible assumption
    | exact hl.of rfl
    | (with_reducible apply Frame.endRead)
    | (with_reducible apply Frame.quarantineTag)
    | ((with_reducible apply Frame.modEp) <;> first | exact fun _ _ => rfl | exact fun h => hl.not rfl h | skip)
    | (with_reducible refine Frame.forEach _ (fun _ _ _ => ?_) ?_)
    | split

theorem Frame.readFailed {l : List Blk} {s z : State} (hl : Sub [.counters, .buf, .ep, .polders, .wq, .siphon] l)
    (hk : Frame l s z) (r : Read) (status : Nat) :
    Frame l s (Machine.readFailed r status z) := by
  unfold Machine.readFailed
  repeat' first
    | with_reducible assumption
    | exact hl.of rfl
    | (with_reducible apply Frame.setQueue)
    | (with_reducible apply Frame.dropReads)
    | (with_reducible apply Frame.queueError)
    | (with_reducible apply Frame.eraseMsg)
    | (with_reducible apply Frame.setQueue)
    | (with_reducible apply Frame.ite)
    | (with_reducible apply Frame.ite_fst)
    | (with_reducible apply Frame.ite_snd)
    | split
    | dsimp only

theorem Frame.completionTimeout {l : List Blk} {s z : State} (hl : Sub [.counters, .buf, .ep, .funcs, .polders, .wq, .siphon] l)
    (hk : Frame l s z) (t tag : Nat) :
    Frame l s (Machine.completionTimeout t tag z) := by
  unfold Machine.completionTimeout
  repeat' first
    | with_reducible assumption
    | exact hl.of rfl
    | (with_reducible apply Frame.raise)
    | (with_reducible apply Frame.count)
    | (with_reducible apply Frame.issueParts)
    | (with_reducible apply Frame.aerSet)
    | (with_reducible apply Frame.endRead)
    | (with_reducible apply Frame.quarantineTag)
    | (with_reducible apply Frame.readFailed)
    | (with_reducible apply Frame.ite)
    | split

theorem Frame.tagQuarantineEnd {l : List Blk} {s z : State} (hl : Sub [.ep] l)
    (hk : Frame l s z) (t tag : Nat) :
    Frame l s (Machine.tagQuarantineEnd t tag z) := by
  unfold Machine.tagQuarantineEnd
  repeat' first
    | with_reducible assumption
    | exact hl.of rfl
    | ((with_reducible apply Frame.modEp) <;> first | exact fun _ _ => rfl | exact fun h => hl.not rfl h | skip)

theorem Frame.lateCompletion {l : List Blk} {s z : State} (hl : Sub [.counters, .ep, .funcs] l)
    (hk : Frame l s z) (tag : Nat) :
    Frame l s (Machine.lateCompletion tag z) := by
  unfold Machine.lateCompletion
  repeat' first
    | with_reducible assumption
    | exact hl.of rfl
    | (with_reducible apply Frame.count)
    | (with_reducible apply Frame.aerAdvise)
    | ((with_reducible apply Frame.modEp) <;> first | exact fun _ _ => rfl | exact fun h => hl.not rfl h | skip)

theorem Frame.dataBack {l : List Blk} {s z : State} (hl : Sub [.counters, .buf, .sched, .ep, .funcs, .polders, .wq, .cipher, .siphon, .jrn] l)
    (hk : Frame l s z) (t fn q first : Nat) (b : Bytes) :
    Frame l s (Machine.dataBack t fn q first b z) := by
  unfold Machine.dataBack
  repeat' first
    | with_reducible assumption
    | exact hl.of rfl
    | (with_reducible apply Frame.cipherBack)
    | (with_reducible apply Frame.siphonWriteOp)
    | (with_reducible apply Frame.siphonWriteImmOp)
    | (with_reducible apply Frame.siphonReadOp)
    | (with_reducible apply Frame.jcmdSendOp)
    | (with_reducible apply Frame.channelModifyOp)
    | (with_reducible apply Frame.regionRegisterOp)
    | (with_reducible apply Frame.journalWriteOp)
    | (with_reducible apply Frame.txFrame)
    | (with_reducible apply Frame.ite)
    | split
    | dsimp only

theorem Frame.readsDone {l : List Blk} {s z : State} (hl : Sub [.counters, .buf, .sched, .ep, .funcs, .polders, .wq, .cipher, .siphon, .jrn] l)
    (hk : Frame l s z) (t : Nat) (r : Read) :
    Frame l s (Machine.readsDone t r z) := by
  unfold Machine.readsDone
  repeat' first
    | with_reducible assumption
    | exact hl.of rfl
    | (with_reducible apply Frame.setQueue)
    | (with_reducible apply Frame.dmaBytesRead)
    | (with_reducible apply Frame.dropReads)
    | (with_reducible apply Frame.entriesBack)
    | (with_reducible apply Frame.dataBack)
    | (with_reducible apply Frame.setQueue)
    | (with_reducible apply Frame.ite)
    | split

theorem Frame.completionReceive {l : List Blk} {s z : State} (hl : Sub [.counters, .buf, .sched, .ep, .funcs, .polders, .wq, .cipher, .siphon, .jrn] l)
    (hk : Frame l s z) (t tag : Nat) (status : CplStatus) (data : Bytes) :
    Frame l s (Machine.completionReceive t tag status data z) := by
  unfold Machine.completionReceive
  repeat' first
    | with_reducible assumption
    | exact hl.of rfl
    | (with_reducible apply Frame.count)
    | (with_reducible apply Frame.issueParts)
    | (with_reducible apply Frame.aerSet)
    | (with_reducible apply Frame.aerAdvise)
    | (with_reducible apply Frame.endRead)
    | (with_reducible apply Frame.keepRead)
    | (with_reducible apply Frame.readFailed)
    | (with_reducible apply Frame.lateCompletion)
    | (with_reducible apply Frame.readsDone)
    | (with_reducible apply Frame.ite)
    | split

theorem Frame.msixFlush {l : List Blk} {s z : State} (hl : Sub [] l)
    (hk : Frame l s z) (fn : Nat) :
    Frame l s (Machine.msixFlush fn z) := by
  unfold Machine.msixFlush
  repeat' first
    | with_reducible assumption
    | exact hl.of rfl
    | (with_reducible apply Frame.setMsix)
    | (with_reducible apply Frame.signal)
    | (with_reducible apply Frame.setMsix)
    | (with_reducible apply Frame.ite)
    | (with_reducible apply Frame.ite_fst)
    | (with_reducible apply Frame.ite_snd)
    | (with_reducible refine Frame.foldl _ (fun _ _ _ => ?_) ?_)

theorem Frame.msixUnmask {l : List Blk} {s z : State} (hl : Sub [.funcs] l)
    (hk : Frame l s z) (fn v : Nat) :
    Frame l s (Machine.msixUnmask fn v z) := by
  unfold Machine.msixUnmask
  repeat' first
    | with_reducible assumption
    | exact hl.of rfl
    | (with_reducible apply Frame.setMsix)
    | (with_reducible apply Frame.barMissed)
    | (with_reducible apply Frame.msixFlush)
    | (with_reducible apply Frame.setMsix)
    | (with_reducible apply Frame.ite)

theorem Frame.msixEnableSet {l : List Blk} {s z : State} (hl : Sub [.funcs] l)
    (hk : Frame l s z) (fn : Nat) (v : Bool) :
    Frame l s (Machine.msixEnableSet fn v z) := by
  unfold Machine.msixEnableSet
  repeat' first
    | with_reducible assumption
    | exact hl.of rfl
    | (with_reducible apply Frame.setFunc)
    | (with_reducible apply Frame.intxEval)
    | (with_reducible apply Frame.msixFlush)

theorem Frame.intDisableSet {l : List Blk} {s z : State} (hl : Sub [.funcs] l)
    (hk : Frame l s z) (v : Bool) :
    Frame l s (Machine.intDisableSet v z) := by
  unfold Machine.intDisableSet
  repeat' first
    | with_reducible assumption
    | exact hl.of rfl
    | (with_reducible apply Frame.setFunc)
    | (with_reducible apply Frame.intxEval)

theorem Frame.discardAllHeld {l : List Blk} {s z : State} (hl : Sub [.counters, .buf] l)
    (hk : Frame l s z) (fn : Nat) :
    Frame l s (Machine.discardAllHeld fn z) := by
  unfold Machine.discardAllHeld
  repeat' first
    | with_reducible assumption
    | exact hl.of rfl
    | (with_reducible apply Frame.discardHeld)
    | (with_reducible refine Frame.forEach _ (fun _ _ _ => ?_) ?_)

theorem Frame.busMasterOff {l : List Blk} {s z : State} (hl : Sub [.counters, .buf, .sched, .ep, .funcs, .polders, .wq, .cipher, .siphon, .jrn] l)
    (hk : Frame l s z) (fn : Nat) :
    Frame l s (Machine.busMasterOff fn z) := by
  unfold Machine.busMasterOff
  repeat' first
    | with_reducible assumption
    | exact hl.of rfl
    | (with_reducible apply Frame.setFunc)
    | (with_reducible apply Frame.dropReads)
    | (with_reducible apply Frame.queueMasterOff)
    | (with_reducible apply Frame.cipherDrop)
    | (with_reducible apply Frame.siphonEnd)
    | (with_reducible apply Frame.journalEnd)
    | (with_reducible apply Frame.detachTx)
    | (with_reducible apply Frame.discardAllHeld)
    | (with_reducible apply Frame.setFunc)
    | (with_reducible refine Frame.forEach _ (fun _ _ _ => ?_) ?_)
    | (with_reducible apply Frame.ite)

theorem Frame.busMasterOn {l : List Blk} {s z : State} (hl : Sub [.funcs] l)
    (hk : Frame l s z) (fn : Nat) :
    Frame l s (Machine.busMasterOn fn z) := by
  unfold Machine.busMasterOn
  repeat' first
    | with_reducible assumption
    | exact hl.of rfl
    | (with_reducible apply Frame.setFunc)
    | (with_reducible apply Frame.msixFlush)

theorem Frame.endWork {l : List Blk} {s z : State} (hl : Sub [.counters, .buf, .sched, .ep, .wq, .cipher, .siphon, .jrn] l)
    (hk : Frame l s z) (t fn : Nat) :
    Frame l s (Machine.endWork t fn z) := by
  unfold Machine.endWork
  repeat' first
    | with_reducible assumption
    | exact hl.of rfl
    | (with_reducible apply Frame.filterQueues)
    | (with_reducible apply Frame.setPage)
    | (with_reducible apply Frame.cipherDrop)
    | (with_reducible apply Frame.siphonEnd)
    | (with_reducible apply Frame.siphonRegionsEnd)
    | (with_reducible apply Frame.journalEnd)
    | (with_reducible apply Frame.detachTx)
    | (with_reducible apply Frame.squashReads)
    | (with_reducible apply Frame.discardAllHeld)
    | (with_reducible apply Frame.setPage)
    | ((with_reducible apply Frame.modEp) <;> first | exact fun _ _ => rfl | exact fun h => hl.not rfl h | skip)

theorem Frame.mailboxReset {l : List Blk} {s z : State} (hl : Sub [.dict, .mbx] l)
    (hk : Frame l s z) :
    Frame l s (Machine.mailboxReset z) := by
  unfold Machine.mailboxReset
  repeat' first
    | with_reducible assumption
    | exact hl.of rfl
    | (with_reducible apply Frame.modMbx)
    | ((with_reducible apply Frame.modDict) <;> first | exact fun _ _ => rfl | exact fun h => hl.not rfl h | skip)

theorem Frame.tblReset {l : List Blk} {s z : State} (hl : Sub [.tables] l)
    (hk : Frame l s z) :
    Frame l s (Machine.tblReset z) := by
  unfold Machine.tblReset
  repeat' first
    | with_reducible assumption
    | exact hl.of rfl
    | (with_reducible apply Frame.modTables)

theorem Frame.pf0RegsReset {l : List Blk} {s z : State} (hl : Sub [.boot, .dict, .mbx, .tables] l)
    (hk : Frame l s z) :
    Frame l s (Machine.pf0RegsReset z) := by
  unfold Machine.pf0RegsReset
  repeat' first
    | with_reducible assumption
    | exact hl.of rfl
    | (with_reducible apply Frame.mailboxReset)
    | (with_reducible apply Frame.tblReset)
    | (with_reducible apply Frame.modBoot)
    | (with_reducible apply Frame.modEvt)

theorem Frame.endVfs {l : List Blk} {s z : State} (hl : Sub [.counters, .buf, .sched, .ep, .funcs, .wq, .cipher, .siphon, .jrn] l)
    (hk : Frame l s z) (t : Nat) :
    Frame l s (Machine.endVfs t z) := by
  unfold Machine.endVfs
  repeat' first
    | with_reducible assumption
    | exact hl.of rfl
    | (with_reducible apply Frame.squashReads)
    | (with_reducible apply Frame.endWork)
    | ((with_reducible apply Frame.modEp) <;> first | exact fun _ _ => rfl | exact fun h => hl.not rfl h | skip)
    | (with_reducible refine Frame.forEach _ (fun _ _ _ => ?_) ?_)

theorem Frame.flrInitiate {l : List Blk} {s z : State} (hl : Sub [.boot, .counters, .dict, .mbx, .tables, .buf, .sched, .ep, .funcs, .wq, .cipher, .siphon, .jrn] l)
    (hk : Frame l s z) (t fn : Nat) :
    Frame l s (Machine.flrInitiate t fn z) := by
  unfold Machine.flrInitiate
  repeat' first
    | with_reducible assumption
    | exact hl.of rfl
    | (with_reducible apply Frame.setFunc)
    | (with_reducible apply Frame.intxEval)
    | (with_reducible apply Frame.count)
    | (with_reducible apply Frame.squashReads)
    | (with_reducible apply Frame.endWork)
    | (with_reducible apply Frame.pf0RegsReset)
    | (with_reducible apply Frame.endVfs)
    | ((with_reducible apply Frame.modEp) <;> first | exact fun _ _ => rfl | exact fun h => hl.not rfl h | skip)
    | (with_reducible apply Frame.setFunc)
    | (with_reducible apply Frame.ite)

theorem Frame.flrDrainCap {l : List Blk} {s z : State} (hl : Sub [.free, .counters, .funcs, .polders] l)
    (hk : Frame l s z) (t fn : Nat) :
    Frame l s (Machine.flrDrainCap t fn z) := by
  unfold Machine.flrDrainCap
  repeat' first
    | with_reducible assumption
    | exact hl.of rfl
    | (with_reducible apply Frame.setFunc)
    | (with_reducible apply Frame.raise)
    | (with_reducible apply Frame.count)
    | (with_reducible apply Frame.polderFault)
    | (with_reducible apply Frame.drawNat)
    | (with_reducible apply Frame.setFunc)
    | (with_reducible apply Frame.ite)

theorem Frame.flrComplete {l : List Blk} {s z : State} (hl : Sub [.funcs] l)
    (hk : Frame l s z) (fn : Nat) :
    Frame l s (Machine.flrComplete fn z) := by
  unfold Machine.flrComplete
  repeat' first
    | with_reducible assumption
    | exact hl.of rfl
    | (with_reducible apply Frame.setFunc)
    | (with_reducible apply Frame.setFunc)
    | (with_reducible apply Frame.ite)

theorem Frame.hostSideEnd {l : List Blk} {s z : State} (hl : Sub [.boot, .counters, .dict, .mbx, .tables, .buf, .sched, .ep, .funcs, .wq, .cipher, .siphon, .jrn] l)
    (hk : Frame l s z) (t : Nat) :
    Frame l s (Machine.hostSideEnd t z) := by
  unfold Machine.hostSideEnd
  repeat' first
    | with_reducible assumption
    | exact hl.of rfl
    | (with_reducible apply Frame.squashReads)
    | (with_reducible apply Frame.endWork)
    | (with_reducible apply Frame.pf0RegsReset)
    | ((with_reducible apply Frame.modEp) <;> first | exact fun _ _ => rfl | exact fun h => hl.not rfl h | skip)
    | (with_reducible apply Frame.modSched)
    | (with_reducible refine Frame.forEach _ (fun _ _ _ => ?_) ?_)

theorem Frame.linkLost {l : List Blk} {s z : State} (hl : Sub [.ep] l)
    (hk : Frame l s z) :
    Frame l s (Machine.linkLost z) := by
  unfold Machine.linkLost
  repeat' first
    | with_reducible assumption
    | exact hl.of rfl
    | (with_reducible apply Frame.raise)
    | ((with_reducible apply Frame.modEp) <;> first | exact fun _ _ => rfl | exact fun h => hl.not rfl h | skip)
    | (with_reducible apply Frame.ite)

theorem Frame.hotReset {l : List Blk} {s z : State} (hl : Sub [.boot, .counters, .dict, .mbx, .tables, .buf, .sched, .ep, .funcs, .wq, .cipher, .siphon, .jrn] l)
    (hk : Frame l s z) (t : Nat) :
    Frame l s (Machine.hotReset t z) := by
  unfold Machine.hotReset
  repeat' first
    | with_reducible assumption
    | exact hl.of rfl
    | (with_reducible apply Frame.count)
    | (with_reducible apply Frame.hostSideEnd)
    | ((with_reducible apply Frame.modEp) <;> first | exact fun _ _ => rfl | exact fun h => hl.not rfl h | skip)
    | (with_reducible apply Frame.ite)

theorem Frame.linkDown {l : List Blk} {s z : State} (hl : Sub [.boot, .counters, .dict, .mbx, .tables, .buf, .sched, .ep, .funcs, .wq, .cipher, .siphon, .jrn] l)
    (hk : Frame l s z) (t : Nat) :
    Frame l s (Machine.linkDown t z) := by
  unfold Machine.linkDown
  repeat' first
    | with_reducible assumption
    | exact hl.of rfl
    | (with_reducible apply Frame.count)
    | (with_reducible apply Frame.hostSideEnd)
    | (with_reducible apply Frame.linkLost)
    | ((with_reducible apply Frame.modEp) <;> first | exact fun _ _ => rfl | exact fun h => hl.not rfl h | skip)
    | (with_reducible apply Frame.ite)

theorem Frame.linkUp {l : List Blk} {s z : State} (hl : Sub [.ep] l)
    (hk : Frame l s z) (speed width : Nat) (flit : Bool) :
    Frame l s (Machine.linkUp speed width flit z) := by
  unfold Machine.linkUp
  repeat' first
    | with_reducible assumption
    | exact hl.of rfl
    | (with_reducible apply Frame.intxEval)
    | (with_reducible apply Frame.raise)
    | ((with_reducible apply Frame.modEp) <;> first | exact fun _ _ => rfl | exact fun h => hl.not rfl h | skip)
    | (with_reducible apply Frame.ite)

theorem Frame.powerStateSet {l : List Blk} {s z : State} (hl : Sub [.counters, .buf, .funcs] l)
    (hk : Frame l s z) (fn state : Nat) :
    Frame l s (Machine.powerStateSet fn state z) := by
  unfold Machine.powerStateSet
  repeat' first
    | with_reducible assumption
    | exact hl.of rfl
    | (with_reducible apply Frame.setFunc)
    | (with_reducible apply Frame.intxEval)
    | (with_reducible apply Frame.msixFlush)
    | (with_reducible apply Frame.discardAllHeld)
    | (with_reducible apply Frame.setFunc)
    | (with_reducible apply Frame.ite)

theorem Frame.vfEnableSet {l : List Blk} {s z : State} (hl : Sub [.ep] l)
    (hk : Frame l s z) (t n : Nat) :
    Frame l s (Machine.vfEnableSet t n z) := by
  unfold Machine.vfEnableSet
  repeat' first
    | with_reducible assumption
    | exact hl.of rfl
    | ((with_reducible apply Frame.modEp) <;> first | exact fun _ _ => rfl | exact fun h => hl.not rfl h | skip)
    | (with_reducible apply Frame.ite)

theorem Frame.priReset {l : List Blk} {s z : State} (hl : Sub [.funcs] l)
    (hk : Frame l s z) (fn : Nat) :
    Frame l s (Machine.priReset fn z) := by
  unfold Machine.priReset
  repeat' first
    | with_reducible assumption
    | exact hl.of rfl
    | (with_reducible apply Frame.setFunc)

theorem Frame.cfgFieldWrite {l : List Blk} {s z : State} (hl : Sub [.counters, .buf, .sched, .ep, .funcs, .polders, .wq, .cipher, .siphon, .jrn] l)
    (hk : Frame l s z) (t fn : Nat) (x : CfgField) (v : Nat) :
    Frame l s (Machine.cfgFieldWrite t fn x v z) := by
  unfold Machine.cfgFieldWrite
  repeat' first
    | with_reducible assumption
    | exact hl.of rfl
    | (with_reducible apply Frame.setFunc)
    | (with_reducible apply Frame.msixFlush)
    | (with_reducible apply Frame.msixEnableSet)
    | (with_reducible apply Frame.busMasterOff)
    | (with_reducible apply Frame.busMasterOn)
    | (with_reducible apply Frame.endVfs)
    | (with_reducible apply Frame.powerStateSet)
    | (with_reducible apply Frame.vfEnableSet)
    | (with_reducible apply Frame.priReset)
    | ((with_reducible apply Frame.modEp) <;> first | exact fun _ _ => rfl | exact fun h => hl.not rfl h | skip)
    | (with_reducible apply Frame.setFunc)
    | (with_reducible apply Frame.ite)
    | split

theorem Frame.vfSettle {l : List Blk} {s z : State} (hl : Sub [.free, .funcs] l)
    (hk : Frame l s z) (t fn : Nat) :
    Frame l s (Machine.vfSettle t fn z) := by
  unfold Machine.vfSettle
  repeat' first
    | with_reducible assumption
    | exact hl.of rfl
    | (with_reducible apply Frame.setFunc)
    | (with_reducible apply Frame.drawBool)
    | (with_reducible apply Frame.setFunc)
    | (with_reducible apply Frame.ite)

theorem Frame.configRequest {l : List Blk} {s z : State} (hl : Sub [.free, .counters, .buf, .sched, .ep, .funcs, .polders, .wq, .cipher, .siphon, .jrn] l)
    (hk : Frame l s z) (t fn : Nat) (x : CfgField) (w : Option Nat) :
    Frame l s (Machine.configRequest t fn x w z) := by
  unfold Machine.configRequest
  repeat' first
    | with_reducible assumption
    | exact hl.of rfl
    | (with_reducible apply Frame.cfgFieldWrite)
    | (with_reducible apply Frame.vfSettle)
    | (with_reducible apply Frame.emit)
    | (with_reducible apply Frame.ite)
    | split

theorem Frame.translationFailed {l : List Blk} {s z : State} (hl : Sub [.counters, .buf, .polders, .wq] l)
    (hk : Frame l s z) (fn q : Nat) :
    Frame l s (Machine.translationFailed fn q z) := by
  unfold Machine.translationFailed
  repeat' first
    | with_reducible assumption
    | exact hl.of rfl
    | (with_reducible apply Frame.queueError)

theorem Frame.sendPageReq {l : List Blk} {s z : State} (hl : Sub [.counters, .ep] l)
    (hk : Frame l s z) (t fn : Nat) :
    Frame l s (Machine.sendPageReq t fn z) := by
  unfold Machine.sendPageReq
  repeat' first
    | with_reducible assumption
    | exact hl.of rfl
    | (with_reducible apply Frame.count)
    | ((with_reducible apply Frame.modEp) <;> first | exact fun _ _ => rfl | exact fun h => hl.not rfl h | skip)
    | (with_reducible apply Frame.emit)
    | (with_reducible apply Frame.ite)
    | split

theorem Frame.parkQueue {l : List Blk} {s z : State} (hl : Sub [.wq] l)
    (hk : Frame l s z) (fn q : Nat) :
    Frame l s (Machine.parkQueue fn q z) := by
  unfold Machine.parkQueue
  repeat' first
    | with_reducible assumption
    | exact hl.of rfl
    | (with_reducible apply Frame.setQueue)
    | (with_reducible apply Frame.setQueue)
    | (with_reducible apply Frame.ite)

theorem Frame.unparkQueue {l : List Blk} {s z : State} (hl : Sub [.counters, .buf, .polders, .wq] l)
    (hk : Frame l s z) (fn q : Nat) :
    Frame l s (Machine.unparkQueue fn q z) := by
  unfold Machine.unparkQueue
  repeat' first
    | with_reducible assumption
    | exact hl.of rfl
    | (with_reducible apply Frame.setQueue)
    | (with_reducible apply Frame.resumeQueue)
    | (with_reducible apply Frame.setQueue)
    | (with_reducible apply Frame.ite)

theorem Frame.cacheTranslation {l : List Blk} {s z : State} (hl : Sub [.free, .ep] l)
    (hk : Frame l s z) (x : Transl) :
    Frame l s (Machine.cacheTranslation x z) := by
  unfold Machine.cacheTranslation
  repeat' first
    | with_reducible assumption
    | exact hl.of rfl
    | ((with_reducible apply Frame.modEp) <;> first | exact fun _ _ => rfl | exact fun h => hl.not rfl h | skip)
    | (with_reducible apply Frame.drawNat)
    | (with_reducible apply Frame.ite)

theorem Frame.askAgain {l : List Blk} {s z : State} (hl : Sub [.ep] l)
    (hk : Frame l s z) (w : Requester) (page : Nat) :
    Frame l s (Machine.askAgain w page z) := by
  unfold Machine.askAgain
  repeat' first
    | with_reducible assumption
    | exact hl.of rfl
    | (with_reducible apply Frame.askPage)

theorem Frame.translationFault {l : List Blk} {s z : State} (hl : Sub [.counters, .buf, .ep, .polders, .wq] l)
    (hk : Frame l s z) (t fn q page : Nat) :
    Frame l s (Machine.translationFault t fn q page z) := by
  unfold Machine.translationFault
  repeat' first
    | with_reducible assumption
    | exact hl.of rfl
    | (with_reducible apply Frame.raise)
    | (with_reducible apply Frame.count)
    | (with_reducible apply Frame.translationFailed)
    | (with_reducible apply Frame.sendPageReq)
    | (with_reducible apply Frame.parkQueue)
    | ((with_reducible apply Frame.modEp) <;> first | exact fun _ _ => rfl | exact fun h => hl.not rfl h | skip)
    | (with_reducible apply Frame.ite)

theorem Frame.translationResponse {l : List Blk} {s z : State} (hl : Sub [.free, .counters, .buf, .ep, .polders, .wq] l)
    (hk : Frame l s z) (t fn q page : Nat) (frame : Option Nat) :
    Frame l s (Machine.translationResponse t fn q page frame z) := by
  unfold Machine.translationResponse
  repeat' first
    | with_reducible assumption
    | exact hl.of rfl
    | (with_reducible apply Frame.raise)
    | (with_reducible apply Frame.count)
    | (with_reducible apply Frame.cacheTranslation)
    | (with_reducible apply Frame.askAgain)
    | (with_reducible apply Frame.translationFault)
    | ((with_reducible apply Frame.modEp) <;> first | exact fun _ _ => rfl | exact fun h => hl.not rfl h | skip)
    | (with_reducible apply Frame.ite)
    | (with_reducible apply Frame.ite_fst)
    | (with_reducible apply Frame.ite_snd)
    | split

theorem Frame.dropPageReq {l : List Blk} {s z : State} (hl : Sub [.ep] l)
    (hk : Frame l s z) (r : PageReq) :
    Frame l s (Machine.dropPageReq r z) := by
  unfold Machine.dropPageReq
  repeat' first
    | with_reducible assumption
    | exact hl.of rfl
    | ((with_reducible apply Frame.modEp) <;> first | exact fun _ _ => rfl | exact fun h => hl.not rfl h | skip)

theorem Frame.prgResponse {l : List Blk} {s z : State} (hl : Sub [.counters, .buf, .ep, .funcs, .polders, .wq] l)
    (hk : Frame l s z) (t fn q : Nat) (code : PrgCode) :
    Frame l s (Machine.prgResponse t fn q code z) := by
  unfold Machine.prgResponse
  repeat' first
    | with_reducible assumption
    | exact hl.of rfl
    | (with_reducible apply Frame.setFunc)
    | (with_reducible apply Frame.count)
    | (with_reducible apply Frame.translationFailed)
    | (with_reducible apply Frame.sendPageReq)
    | (with_reducible apply Frame.unparkQueue)
    | (with_reducible apply Frame.askAgain)
    | (with_reducible apply Frame.dropPageReq)
    | ((with_reducible apply Frame.modEp) <;> first | exact fun _ _ => rfl | exact fun h => hl.not rfl h | skip)
    | (with_reducible apply Frame.setFunc)
    | (with_reducible refine Frame.forEach _ (fun _ _ _ => ?_) ?_)
    | (with_reducible apply Frame.ite)
    | split

theorem Frame.pageRequestTimeout {l : List Blk} {s z : State} (hl : Sub [.counters, .buf, .ep, .polders, .wq] l)
    (hk : Frame l s z) (t fn q : Nat) :
    Frame l s (Machine.pageRequestTimeout t fn q z) := by
  unfold Machine.pageRequestTimeout
  repeat' first
    | with_reducible assumption
    | exact hl.of rfl
    | (with_reducible apply Frame.count)
    | (with_reducible apply Frame.translationFailed)
    | (with_reducible apply Frame.sendPageReq)
    | (with_reducible apply Frame.dropPageReq)
    | (with_reducible apply Frame.ite)
    | split

theorem Frame.invalidateRequest {l : List Blk} {s z : State} (hl : Sub [.ep] l)
    (hk : Frame l s z) (fn tag pasid page : Nat) :
    Frame l s (Machine.invalidateRequest fn tag pasid page z) := by
  unfold Machine.invalidateRequest
  repeat' first
    | with_reducible assumption
    | exact hl.of rfl
    | ((with_reducible apply Frame.modEp) <;> first | exact fun _ _ => rfl | exact fun h => hl.not rfl h | skip)
    | (with_reducible apply Frame.ite)

theorem Frame.invalidateComplete {l : List Blk} {s z : State} (hl : Sub [.ep] l)
    (hk : Frame l s z) (fn tag : Nat) :
    Frame l s (Machine.invalidateComplete fn tag z) := by
  unfold Machine.invalidateComplete
  repeat' first
    | with_reducible assumption
    | exact hl.of rfl
    | ((with_reducible apply Frame.modEp) <;> first | exact fun _ _ => rfl | exact fun h => hl.not rfl h | skip)
    | (with_reducible apply Frame.emit)
    | (with_reducible apply Frame.ite)

end Sys2Proof
end

