-- ==== Sys2Proof/Laws/FramePolders.lean ====
section
/-! SUPPORT. Which blocks the operations of Machine/Polders.lean may change. -/

namespace Sys2Proof
open Machine

/-- No polder, and host group 0 alone. -/
theorem Frame.noPolders {l : List Blk} {s z : State} (hl : Sub [.polders] l) (hk : Frame l s z) :
    Frame l s { z with polders := { tab := [], faultMap := [], groups := [(0, HostGroup.zero)] } } :=
  hk.upd rfl (fun b n => by cases b <;> first | rfl | exact hl.not rfl n)

theorem Frame.putArea {l : List Blk} {s z : State} (hl : Sub [.boot] l)
    (hk : Frame l s z) (n : Nat) (r : PolderRec) (flash : Bool) :
    Frame l s (Machine.putArea n r flash z) := by
  unfold Machine.putArea
  repeat' first
    | with_reducible assumption
    | exact hl.of rfl
    | (with_reducible apply Frame.modBoot)

theorem Frame.savePolder {l : List Blk} {s z : State} (hl : Sub [.boot] l)
    (hk : Frame l s z) (n st : Nat) (flash : Bool) :
    Frame l s (Machine.savePolder n st flash z) := by
  unfold Machine.savePolder
  repeat' first
    | with_reducible assumption
    | exact hl.of rfl
    | (with_reducible apply Frame.putArea)

theorem Frame.writeAreaHdr {l : List Blk} {s z : State} (hl : Sub [.boot] l)
    (hk : Frame l s z) (floor : Nat) (ident : Bytes) :
    Frame l s (Machine.writeAreaHdr floor ident z) := by
  unfold Machine.writeAreaHdr
  repeat' first
    | with_reducible assumption
    | exact hl.of rfl
    | (with_reducible apply Frame.modBoot)

theorem Frame.raiseFloor {l : List Blk} {s z : State} (hl : Sub [.boot] l)
    (hk : Frame l s z) (g : Nat) :
    Frame l s (Machine.raiseFloor g z) := by
  unfold Machine.raiseFloor
  repeat' first
    | with_reducible assumption
    | exact hl.of rfl
    | (with_reducible apply Frame.writeAreaHdr)
    | (with_reducible apply Frame.ite)

theorem Frame.takeShare {l : List Blk} {s z : State} (hl : Sub [.buf, .polders] l)
    (hk : Frame l s z) (n : Nat) (c : Counts) :
    Frame l s (Machine.takeShare n c z) := by
  unfold Machine.takeShare
  repeat' first
    | with_reducible assumption
    | exact hl.of rfl
    | (with_reducible apply Frame.setPolder)
    | (with_reducible apply Frame.lowCheckAll)
    | (with_reducible apply Frame.setPolder)
    | (with_reducible apply Frame.modBuf)
    | (with_reducible apply Frame.ite)
    | split

theorem Frame.logPolder {l : List Blk} {s z : State} (hl : Sub [.boot, .counters] l)
    (hk : Frame l s z) (o : Origin) (n : Nat) (fields : Bool) :
    Frame l s (Machine.logPolder o n fields z) := by
  unfold Machine.logPolder
  repeat' first
    | with_reducible assumption
    | exact hl.of rfl
    | (with_reducible apply Frame.dikeLog)
    | (with_reducible apply Frame.dikeLogFields)
    | (with_reducible apply Frame.ite)

theorem Frame.installPolder {l : List Blk} {s z : State} (hl : Sub [.buf, .polders] l)
    (hk : Frame l s z) (n : Nat) (c : Counts) :
    Frame l s (Machine.installPolder n c z) := by
  unfold Machine.installPolder
  repeat' first
    | with_reducible assumption
    | exact hl.of rfl
    | (with_reducible apply Frame.setPolder)
    | (with_reducible apply Frame.takeShare)

theorem Frame.commitPolder {l : List Blk} {s z : State} (hl : Sub [.boot, .counters, .buf, .polders] l)
    (hk : Frame l s z) (o : Origin) (n : Nat) :
    Frame l s (Machine.commitPolder o n z) := by
  unfold Machine.commitPolder
  repeat' first
    | with_reducible assumption
    | exact hl.of rfl
    | (with_reducible apply Frame.setPolder)
    | (with_reducible apply Frame.savePolder)
    | (with_reducible apply Frame.raiseFloor)
    | (with_reducible apply Frame.logPolder)
    | (with_reducible apply Frame.installPolder)

theorem Frame.commitReq {l : List Blk} {s z : State} (hl : Sub [.boot, .counters, .buf, .polders] l)
    (hk : Frame l s z) (a0 : Req) :
    Frame l s (Machine.commitReq a0 z).1 := by
  unfold Machine.commitReq
  repeat' first
    | with_reducible assumption
    | exact hl.of rfl
    | (with_reducible apply Frame.action)
    | (with_reducible apply Frame.commitPolder)
    | (with_reducible intro _; try beta_reduce)

theorem Frame.adjustPolder {l : List Blk} {s z : State} (hl : Sub [.boot, .counters, .buf, .polders, .wq] l)
    (hk : Frame l s z) (o : Origin) (n : Nat) :
    Frame l s (Machine.adjustPolder o n z) := by
  unfold Machine.adjustPolder
  repeat' first
    | with_reducible assumption
    | exact hl.of rfl
    | (with_reducible apply Frame.filterQueues)
    | (with_reducible apply Frame.savePolder)
    | (with_reducible apply Frame.takeShare)
    | (with_reducible apply Frame.logPolder)

theorem Frame.adjustReq {l : List Blk} {s z : State} (hl : Sub [.boot, .counters, .buf, .polders, .wq] l)
    (hk : Frame l s z) (a0 : Req) :
    Frame l s (Machine.adjustReq a0 z).1 := by
  unfold Machine.adjustReq
  repeat' first
    | with_reducible assumption
    | exact hl.of rfl
    | (with_reducible apply Frame.action)
    | (with_reducible apply Frame.adjustPolder)
    | (with_reducible intro _; try beta_reduce)

theorem Frame.dropGroups {l : List Blk} {s z : State} (hl : Sub [.polders] l)
    (hk : Frame l s z) (n : Nat) :
    Frame l s (Machine.dropGroups n z) := by
  unfold Machine.dropGroups
  repeat' first
    | with_reducible assumption
    | exact hl.of rfl
    | (with_reducible apply Frame.modPolders)

theorem Frame.removePolder {l : List Blk} {s z : State} (hl : Sub [.boot, .counters, .buf, .sched, .ep, .polders, .wq, .cipher, .siphon, .jrn] l)
    (hk : Frame l s z) (o : Origin) (flash : Bool) (n : Nat) :
    Frame l s (Machine.removePolder o flash n z) := by
  unfold Machine.removePolder
  repeat' first
    | with_reducible assumption
    | exact hl.of rfl
    | (with_reducible apply Frame.setPolder)
    | (with_reducible apply Frame.endWork)
    | (with_reducible apply Frame.savePolder)
    | (with_reducible apply Frame.logPolder)
    | (with_reducible apply Frame.dropGroups)

theorem Frame.polderRemoved {l : List Blk} {s z : State} (hl : Sub [.buf, .polders, .wq, .cipher, .siphon, .jrn] l)
    (hk : Frame l s z) (n : Nat) :
    Frame l s (Machine.polderRemoved n z) := by
  unfold Machine.polderRemoved
  repeat' first
    | with_reducible assumption
    | exact hl.of rfl
    | (with_reducible apply Frame.filterQueues)
    | (with_reducible apply Frame.setPolder)
    | (with_reducible apply Frame.setChannel)
    | (with_reducible apply Frame.setRegion)
    | (with_reducible apply Frame.raise)
    | (with_reducible apply Frame.clearSlot)
    | (with_reducible apply Frame.channelReset)
    | (with_reducible apply Frame.takeShare)
    | (with_reducible apply Frame.setRegion)
    | (with_reducible apply Frame.setChannel)
    | (with_reducible apply Frame.modJrn)
    | (with_reducible refine Frame.forEach _ (fun _ _ _ => ?_) ?_)
    | (with_reducible apply Frame.setPolder)
    | (with_reducible apply Frame.ite)

theorem Frame.loadValues {l : List Blk} {s z : State} (hl : Sub [.dict] l)
    (hk : Frame l s z) (n : Nat) (r : PolderRec) :
    Frame l s (Machine.loadValues n r z) := by
  unfold Machine.loadValues
  repeat' first
    | with_reducible assumption
    | exact hl.of rfl
    | (with_reducible apply Frame.setVal)

theorem Frame.loadPolder {l : List Blk} {s z : State} (hl : Sub [.boot, .counters, .dict, .buf, .polders] l)
    (hk : Frame l s z) (n : Nat) :
    Frame l s (Machine.loadPolder n z) := by
  unfold Machine.loadPolder
  repeat' first
    | with_reducible assumption
    | exact hl.of rfl
    | (with_reducible apply Frame.setPolder)
    | (with_reducible apply Frame.raise)
    | (with_reducible apply Frame.logPolder)
    | (with_reducible apply Frame.installPolder)
    | (with_reducible apply Frame.loadValues)
    | (with_reducible apply Frame.setPolder)
    | (with_reducible apply Frame.ite)

theorem Frame.loadPolder0 {l : List Blk} {s z : State} (hl : Sub [.boot, .counters, .dict, .buf, .polders] l)
    (hk : Frame l s z) :
    Frame l s (Machine.loadPolder0 z) := by
  unfold Machine.loadPolder0
  repeat' first
    | with_reducible assumption
    | exact hl.of rfl
    | (with_reducible apply Frame.installPolder)
    | (with_reducible apply Frame.loadPolder)
    | (with_reducible apply Frame.ite)

theorem Frame.loadPolders {l : List Blk} {s z : State} (hl : Sub [.free, .boot, .counters, .dict, .buf, .polders] l)
    (hk : Frame l s z) :
    Frame l s (Machine.loadPolders z) := by
  unfold Machine.loadPolders
  repeat' first
    | with_reducible assumption
    | exact hl.of rfl
    | (with_reducible apply Frame.noPolders)
    | (with_reducible apply Frame.setPolder)
    | (with_reducible apply Frame.writeAreaHdr)
    | (with_reducible apply Frame.loadPolder)
    | (with_reducible apply Frame.loadPolder0)
    | (with_reducible refine Frame.forEach _ (fun _ _ _ => ?_) ?_)
    | (with_reducible apply Frame.setPolder)
    | (with_reducible apply Frame.drawBytes)
    | (with_reducible apply Frame.modBuf)
    | (with_reducible apply Frame.ite)

end Sys2Proof
end

