-- ==== Sys2Proof/Laws/FrameStartup.lean ====
section
/-! SUPPORT. Which blocks the operations of Machine/Startup.lean may change. -/

namespace Sys2Proof
open Machine

theorem Frame.setSlot {l : List Blk} {s z : State} (hl : Sub [.boot] l)
    (hk : Frame l s z) (i : Nat) (x : Slot) :
    Frame l s (Machine.setSlot i x z) := by
  unfold Machine.setSlot
  repeat' first
    | with_reducible assumption
    | exact hl.of rfl
    | (with_reducible apply Frame.modBoot)

theorem Frame.writeBcb {l : List Blk} {s z : State} (hl : Sub [.boot] l)
    (hk : Frame l s z) (slot : Nat) (flash : Bool) :
    Frame l s (Machine.writeBcb slot flash z) := by
  unfold Machine.writeBcb
  repeat' first
    | with_reducible assumption
    | exact hl.of rfl
    | (with_reducible apply Frame.modBoot)

theorem Frame.recheckSlot {l : List Blk} {s z : State} (hl : Sub [.boot] l)
    (hk : Frame l s z) (i reason : Nat) :
    Frame l s (Machine.recheckSlot i reason z) := by
  unfold Machine.recheckSlot
  repeat' first
    | with_reducible assumption
    | exact hl.of rfl
    | (with_reducible apply Frame.setSlot)
    | (with_reducible apply Frame.ite)

theorem Frame.appendLog {l : List Blk} {s z : State} (hl : Sub [.boot] l)
    (hk : Frame l s z) (kind seq : Nat) (digest : Bytes) :
    Frame l s (Machine.appendLog kind seq digest z) := by
  unfold Machine.appendLog
  repeat' first
    | with_reducible assumption
    | exact hl.of rfl
    | (with_reducible apply Frame.modBoot)

theorem Frame.logImage {l : List Blk} {s z : State} (hl : Sub [.boot] l)
    (hk : Frame l s z) (h : ImgHdr) :
    Frame l s (Machine.logImage h z) := by
  unfold Machine.logImage
  repeat' first
    | with_reducible assumption
    | exact hl.of rfl
    | (with_reducible apply Frame.appendLog)
    | (with_reducible refine Frame.forEach _ (fun _ _ _ => ?_) ?_)

theorem Frame.logSelfTest {l : List Blk} {s z : State} (hl : Sub [.boot] l)
    (hk : Frame l s z) :
    Frame l s (Machine.logSelfTest z) := by
  unfold Machine.logSelfTest
  repeat' first
    | with_reducible assumption
    | exact hl.of rfl
    | (with_reducible apply Frame.appendLog)

theorem Frame.testResult {l : List Blk} {s z : State} (hl : Sub [.test] l)
    (hk : Frame l s z) (die sig : Nat) :
    Frame l s (Machine.testResult die sig z) := by
  unfold Machine.testResult
  repeat' first
    | with_reducible assumption
    | exact hl.of rfl
    | (with_reducible apply Frame.raise)
    | (with_reducible apply Frame.modTest)
    | (with_reducible apply Frame.ite)

theorem Frame.deviceReset {l : List Blk} {s z : State} (hl : Sub [.boot, .counters, .dict, .mbx, .ports, .time, .frer, .cls, .tables, .flow, .buf, .sched, .ep, .funcs, .polders, .wq, .cipher, .siphon, .jrn, .test, .culv] l)
    (hk : Frame l s z) :
    Frame l s (Machine.deviceReset z) := by
  unfold Machine.deviceReset
  repeat' first
    | with_reducible assumption
    | exact hl.of rfl
    | (with_reducible apply Frame.ite)
    | exact Frame.upd hk rfl (fun b n => by cases b <;> first | rfl | exact hl.not rfl n)

theorem Frame.loadStore {l : List Blk} {s z : State} (hl : Sub [.boot, .dict] l)
    (hk : Frame l s z) :
    Frame l s (Machine.loadStore z) := by
  unfold Machine.loadStore
  repeat' first
    | with_reducible assumption
    | exact hl.of rfl
    | (with_reducible apply Frame.raise)
    | (with_reducible apply Frame.appendLog)
    | ((with_reducible apply Frame.modDict) <;> first | exact fun _ _ => rfl | exact fun h => hl.not rfl h | skip)
    | split

theorem Frame.setKeysAside {l : List Blk} {s z : State} (hl : Sub [.boot] l)
    (hk : Frame l s z) :
    Frame l s (Machine.setKeysAside z) := by
  unfold Machine.setKeysAside
  repeat' first
    | with_reducible assumption
    | exact hl.of rfl
    | (with_reducible apply Frame.modBoot)

theorem Frame.loadEpoch {l : List Blk} {s z : State} (hl : Sub [.boot, .dict] l)
    (hk : Frame l s z) (flash : Bool) :
    Frame l s (Machine.loadEpoch flash z) := by
  unfold Machine.loadEpoch
  repeat' first
    | with_reducible assumption
    | exact hl.of rfl
    | (with_reducible apply Frame.raise)
    | (with_reducible apply Frame.setKeysAside)
    | ((with_reducible apply Frame.modDict) <;> first | exact fun _ _ => rfl | exact fun h => hl.not rfl h | skip)
    | (with_reducible apply Frame.modBoot)
    | (with_reducible apply Frame.ite)

theorem Frame.loadSessions {l : List Blk} {s z : State} (hl : Sub [.dict, .cipher] l)
    (hk : Frame l s z) :
    Frame l s (Machine.loadSessions z) := by
  unfold Machine.loadSessions
  repeat' first
    | with_reducible assumption
    | exact hl.of rfl
    | (with_reducible apply Frame.setSession)
    | (with_reducible apply Frame.loadSessionKey)
    | (with_reducible apply Frame.setSession)
    | (with_reducible refine Frame.forEach _ (fun _ _ _ => ?_) ?_)
    | (with_reducible apply Frame.ite)

theorem Frame.startTest {l : List Blk} {s z : State} (hl : Sub [.free, .boot, .test] l)
    (hk : Frame l s z) (sigs : List Nat) :
    Frame l s (Machine.startTest sigs z) := by
  unfold Machine.startTest
  repeat' first
    | with_reducible assumption
    | exact hl.of rfl
    | (with_reducible apply Frame.logSelfTest)
    | (with_reducible apply Frame.testResult)
    | (with_reducible apply Frame.modBoot)
    | (with_reducible apply Frame.drawNat)
    | (with_reducible refine Frame.forEach _ (fun _ _ _ => ?_) ?_)
    | (with_reducible apply Frame.ite)
    | (with_reducible apply Frame.ite_fst)
    | (with_reducible apply Frame.ite_snd)
    | split

theorem Frame.startFrom {l : List Blk} {s z : State} (hl : Sub [.free, .boot, .counters, .dict, .buf, .polders, .cipher, .test] l)
    (hk : Frame l s z) (t slot : Nat) (flash : Bool) :
    Frame l s (Machine.startFrom t slot flash z) := by
  unfold Machine.startFrom
  repeat' first
    | with_reducible assumption
    | exact hl.of rfl
    | (with_reducible apply Frame.loadPolders)
    | (with_reducible apply Frame.appendLog)
    | (with_reducible apply Frame.logImage)
    | (with_reducible apply Frame.loadStore)
    | (with_reducible apply Frame.loadEpoch)
    | (with_reducible apply Frame.loadSessions)
    | (with_reducible apply Frame.startTest)
    | (with_reducible apply Frame.modBoot)
    | (with_reducible apply Frame.modBuf)

theorem Frame.deviceStart {l : List Blk} {s z : State} (hl : Sub [.free, .board, .boot, .counters, .dict, .mbx, .ports, .time, .frer, .cls, .tables, .flow, .buf, .sched, .ep, .funcs, .polders, .wq, .cipher, .siphon, .jrn, .test, .culv] l)
    (hk : Frame l s z) (t : Nat) (flash : Bool) :
    Frame l s (Machine.deviceStart t flash z) := by
  unfold Machine.deviceStart
  repeat' first
    | with_reducible assumption
    | exact hl.of rfl
    | (with_reducible apply Frame.raise)
    | (with_reducible apply Frame.appendLog)
    | (with_reducible apply Frame.deviceReset)
    | (with_reducible apply Frame.startFrom)
    | (with_reducible apply Frame.modBoot)
    | (with_reducible apply Frame.modBoard)
    | (with_reducible apply Frame.modTables)
    | ((with_reducible apply Frame.modEp) <;> first | exact fun _ _ => rfl | exact fun h => hl.not rfl h | skip)
    | (with_reducible apply Frame.ite)

theorem Frame.coldStart {l : List Blk} {s z : State} (hl : Sub [.free, .board, .boot, .counters, .dict, .mbx, .ports, .time, .frer, .cls, .tables, .flow, .buf, .sched, .ep, .funcs, .polders, .wq, .cipher, .siphon, .jrn, .test, .culv] l)
    (hk : Frame l s z) (t : Nat) (sigs : List Nat) (flash : Bool) :
    Frame l s (Machine.coldStart t sigs flash z) := by
  unfold Machine.coldStart
  repeat' first
    | with_reducible assumption
    | exact hl.of rfl
    | (with_reducible apply Frame.deviceStart)
    | (with_reducible apply Frame.modBoard)
    | (with_reducible apply Frame.ite)

theorem Frame.ddr4TrainingDone {l : List Blk} {s z : State} (hl : Sub [.boot] l)
    (hk : Frame l s z) (md : Nat) :
    Frame l s (Machine.ddr4TrainingDone md z) := by
  unfold Machine.ddr4TrainingDone
  repeat' first
    | with_reducible assumption
    | exact hl.of rfl
    | (with_reducible apply Frame.modBoot)
    | (with_reducible apply Frame.ite)

theorem Frame.pf0Ready {l : List Blk} {s z : State} (hl : Sub [.funcs] l)
    (hk : Frame l s z) :
    Frame l s (Machine.pf0Ready z) := by
  unfold Machine.pf0Ready
  repeat' first
    | with_reducible assumption
    | exact hl.of rfl
    | (with_reducible apply Frame.setFunc)
    | (with_reducible apply Frame.setFunc)
    | (with_reducible apply Frame.ite)

theorem Frame.logObject {l : List Blk} {s z : State} (hl : Sub [.boot, .counters] l)
    (hk : Frame l s z) (o : Origin) :
    Frame l s (Machine.logObject o z) := by
  unfold Machine.logObject
  repeat' first
    | with_reducible assumption
    | exact hl.of rfl
    | (with_reducible apply Frame.dikeLog)
    | (with_reducible refine Frame.forEach _ (fun _ _ _ => ?_) ?_)
    | split

theorem Frame.fieldInService {l : List Blk} {s z : State} (hl : Sub [.boot, .counters, .dict, .ports, .tables, .buf, .sched, .ep, .funcs, .polders, .wq, .siphon] l)
    (hk : Frame l s z) :
    Frame l s (Machine.fieldInService z) := by
  unfold Machine.fieldInService
  repeat' first
    | with_reducible assumption
    | exact hl.of rfl
    | (with_reducible apply Frame.lowCheckAll)
    | (with_reducible apply Frame.gatesAtStart)
    | (with_reducible apply Frame.portAdminChanged)
    | (with_reducible apply Frame.logObject)
    | ((with_reducible apply Frame.modDict) <;> first | exact fun _ _ => rfl | exact fun h => hl.not rfl h | skip)
    | (with_reducible apply Frame.modBoot)
    | (with_reducible refine Frame.forEach _ (fun _ _ _ => ?_) ?_)
    | (with_reducible apply Frame.ite)

theorem Frame.allReady {l : List Blk} {s z : State} (hl : Sub [.boot, .wq, .siphon, .jrn] l)
    (hk : Frame l s z) :
    Frame l s (Machine.allReady z) := by
  unfold Machine.allReady
  repeat' first
    | with_reducible assumption
    | exact hl.of rfl
    | (with_reducible apply Frame.journalRelease)
    | (with_reducible apply Frame.modBoot)
    | (with_reducible apply Frame.modJrn)
    | (with_reducible apply Frame.ite)

theorem Frame.fullResetBegin {l : List Blk} {s z : State} (hl : Sub [.board, .boot, .counters, .dict, .mbx, .ports, .time, .frer, .cls, .tables, .flow, .buf, .sched, .ep, .funcs, .polders, .wq, .cipher, .siphon, .jrn, .test, .culv] l) (hk : Frame l s z) : Frame l s (Machine.fullResetBegin z) := by
  have k1 : ∀ b, Frame l s (Machine.modBoard (fun x => { x with fullReset := true, drainWait := b }) (Machine.deviceReset z)) :=
    fun b => Frame.modBoard (hl.of rfl) (Frame.deviceReset (hl.of rfl) hk)
  unfold Machine.fullResetBegin
  dsimp only
  split
  · exact (k1 (cacheDirty z)).upd rfl (fun b n => by cases b <;> first | rfl | exact hl.not rfl n)
  · exact k1 _

theorem Frame.fullResetAsk {l : List Blk} {s z : State} (hl : Sub [.board, .boot, .counters, .dict, .mbx, .ports, .time, .frer, .cls, .tables, .flow, .buf, .sched, .ep, .funcs, .polders, .wq, .cipher, .siphon, .jrn, .test, .culv] l)
    (hk : Frame l s z) :
    Frame l s (Machine.fullResetAsk z) := by
  unfold Machine.fullResetAsk
  repeat' first
    | with_reducible assumption
    | exact hl.of rfl
    | (with_reducible apply Frame.fullResetBegin)
    | (with_reducible apply Frame.modBoard)
    | (with_reducible apply Frame.ite)

theorem Frame.perstNAssert {l : List Blk} {s z : State} (hl : Sub [.board, .boot, .counters, .dict, .mbx, .ports, .time, .frer, .cls, .tables, .flow, .buf, .sched, .ep, .funcs, .polders, .wq, .cipher, .siphon, .jrn, .test, .culv] l)
    (hk : Frame l s z) (t : Nat) :
    Frame l s (Machine.perstNAssert t z) := by
  unfold Machine.perstNAssert
  repeat' first
    | with_reducible assumption
    | exact hl.of rfl
    | (with_reducible apply Frame.hostSideEnd)
    | (with_reducible apply Frame.linkLost)
    | (with_reducible apply Frame.fullResetAsk)
    | (with_reducible apply Frame.modBoard)
    | ((with_reducible apply Frame.modEp) <;> first | exact fun _ _ => rfl | exact fun h => hl.not rfl h | skip)
    | (with_reducible apply Frame.ite)

theorem Frame.fullResetMark {l : List Blk} {s z : State} (hl : Sub [.board, .boot, .counters, .dict, .mbx, .ports, .time, .frer, .cls, .tables, .flow, .buf, .sched, .ep, .funcs, .polders, .wq, .cipher, .siphon, .jrn, .test, .culv] l)
    (hk : Frame l s z) (t : Nat) :
    Frame l s (Machine.fullResetMark t z) := by
  unfold Machine.fullResetMark
  repeat' first
    | with_reducible assumption
    | exact hl.of rfl
    | (with_reducible apply Frame.fullResetAsk)
    | (with_reducible apply Frame.ite)

theorem Frame.perstNRelease {l : List Blk} {s z : State} (hl : Sub [.free, .board, .boot, .counters, .dict, .mbx, .ports, .time, .frer, .cls, .tables, .flow, .buf, .sched, .ep, .funcs, .polders, .wq, .cipher, .siphon, .jrn, .test, .culv] l)
    (hk : Frame l s z) (t : Nat) (flash : Bool) :
    Frame l s (Machine.perstNRelease t flash z) := by
  unfold Machine.perstNRelease
  repeat' first
    | with_reducible assumption
    | exact hl.of rfl
    | (with_reducible apply Frame.deviceStart)
    | (with_reducible apply Frame.fullResetMark)
    | (with_reducible apply Frame.modBoard)
    | ((with_reducible apply Frame.modEp) <;> first | exact fun _ _ => rfl | exact fun h => hl.not rfl h | skip)
    | (with_reducible apply Frame.ite)

theorem Frame.writeCacheDrainEnd {l : List Blk} {s z : State} (hl : Sub [.free, .board, .boot, .counters, .dict, .mbx, .ports, .time, .frer, .cls, .tables, .flow, .buf, .sched, .ep, .funcs, .polders, .wq, .cipher, .siphon, .jrn, .test, .culv] l)
    (hk : Frame l s z) (t : Nat) (sigs : List Nat) (flash : Bool) :
    Frame l s (Machine.writeCacheDrainEnd t sigs flash z) := by
  unfold Machine.writeCacheDrainEnd
  repeat' first
    | with_reducible assumption
    | exact hl.of rfl
    | (with_reducible apply Frame.flushDone)
    | (with_reducible apply Frame.drainAll)
    | (with_reducible apply Frame.deviceReset)
    | (with_reducible apply Frame.deviceStart)
    | (with_reducible apply Frame.modBoard)
    | (with_reducible apply Frame.ite)

theorem Frame.emergencyDrainDone {l : List Blk} {s z : State} (hl : Sub [.free, .board, .boot, .counters, .dict, .mbx, .ports, .time, .frer, .cls, .tables, .flow, .buf, .sched, .ep, .funcs, .polders, .wq, .cipher, .siphon, .jrn, .test, .culv] l)
    (hk : Frame l s z) (t : Nat) (flash : Bool) :
    Frame l s (Machine.emergencyDrainDone t flash z) := by
  unfold Machine.emergencyDrainDone
  repeat' first
    | with_reducible assumption
    | exact hl.of rfl
    | (with_reducible apply Frame.emergencyDrained)
    | (with_reducible apply Frame.deviceStart)
    | (with_reducible apply Frame.fullResetBegin)
    | (with_reducible apply Frame.modBoard)
    | (with_reducible apply Frame.ite)

theorem Frame.powerLost {l : List Blk} {s z : State} (hl : Sub [.board, .boot, .counters, .dict, .mbx, .ports, .time, .frer, .cls, .tables, .flow, .buf, .sched, .ep, .funcs, .polders, .wq, .cipher, .siphon, .jrn, .test, .culv] l)
    (hk : Frame l s z) :
    Frame l s (Machine.powerLost z) := by
  unfold Machine.powerLost
  repeat' first
    | with_reducible assumption
    | exact hl.of rfl
    | (with_reducible apply Frame.deviceReset)
    | (with_reducible apply Frame.modBoard)
    | (with_reducible apply Frame.modTest)

theorem Frame.railFault {l : List Blk} {s z : State} (hl : Sub [.board, .boot, .counters, .dict, .mbx, .ports, .time, .frer, .cls, .tables, .flow, .buf, .sched, .ep, .funcs, .polders, .wq, .cipher, .siphon, .jrn, .test, .culv] l)
    (hk : Frame l s z) (rail : Nat) :
    Frame l s (Machine.railFault rail z) := by
  unfold Machine.railFault
  repeat' first
    | with_reducible assumption
    | exact hl.of rfl
    | (with_reducible apply Frame.powerLost)
    | (with_reducible apply Frame.modBoard)
    | (with_reducible apply Frame.ite)

theorem Frame.refclkLoss {l : List Blk} {s z : State} (hl : Sub [.board, .boot, .counters, .dict, .mbx, .ports, .time, .frer, .cls, .tables, .flow, .buf, .sched, .ep, .funcs, .polders, .wq, .cipher, .siphon, .jrn, .test, .culv] l)
    (hk : Frame l s z) :
    Frame l s (Machine.refclkLoss z) := by
  unfold Machine.refclkLoss
  repeat' first
    | with_reducible assumption
    | exact hl.of rfl
    | (with_reducible apply Frame.powerLost)
    | (with_reducible apply Frame.modBoard)

theorem Frame.coresStop {l : List Blk} {sent : List OutMsg} {s z : State} (hl : Sub [.boot, .counters, .dict, .mbx, .time, .wq, .jrn] l)
    (hk : Frame l s z) :
    Frame l s (Machine.coresStop sent z) := by
  unfold Machine.coresStop
  repeat' first
    | with_reducible assumption
    | exact hl.of rfl
    | (with_reducible apply Frame.ptpStops)
    | (with_reducible apply Frame.journalHold)
    | ((with_reducible apply Frame.modDict) <;> first | exact fun _ _ => rfl | exact fun h => hl.not rfl h | skip)
    | (with_reducible apply Frame.modBoot)
    | (with_reducible apply Frame.modMbx)

theorem Frame.dikeInterrupts {l : List Blk} {s z : State} (hl : Sub [.dict] l)
    (hk : Frame l s z) :
    Frame l s (Machine.dikeInterrupts z) := by
  unfold Machine.dikeInterrupts
  repeat' first
    | with_reducible assumption
    | exact hl.of rfl
    | ((with_reducible apply Frame.modDict) <;> first | exact fun _ _ => rfl | exact fun h => hl.not rfl h | skip)

theorem Frame.coresRun {l : List Blk} {s z : State} (hl : Sub [.boot, .counters, .dict, .mbx] l)
    (hk : Frame l s z) (t : Nat) :
    Frame l s (Machine.coresRun t z) := by
  unfold Machine.coresRun
  repeat' first
    | with_reducible assumption
    | exact hl.of rfl
    | (with_reducible apply Frame.answer)
    | (with_reducible apply Frame.mbxHeader)
    | ((with_reducible apply Frame.modDict) <;> first | exact fun _ _ => rfl | exact fun h => hl.not rfl h | skip)
    | (with_reducible apply Frame.modBoot)
    | (with_reducible apply Frame.modMbx)
    | (with_reducible refine Frame.forEach _ (fun _ _ _ => ?_) ?_)

theorem Frame.activationFails {l : List Blk} {s z : State} (hl : Sub [.boot] l)
    (hk : Frame l s z) :
    Frame l s (Machine.activationFails z) := by
  unfold Machine.activationFails
  repeat' first
    | with_reducible assumption
    | exact hl.of rfl
    | (with_reducible apply Frame.raise)
    | (with_reducible apply Frame.modBoot)

theorem Frame.activationCheck {l : List Blk} {s z : State} (hl : Sub [.boot] l)
    (hk : Frame l s z) (reason : Nat) :
    Frame l s (Machine.activationCheck reason z) := by
  unfold Machine.activationCheck
  repeat' first
    | with_reducible assumption
    | exact hl.of rfl
    | (with_reducible apply Frame.recheckSlot)
    | (with_reducible apply Frame.activationFails)
    | (with_reducible apply Frame.modBoot)
    | (with_reducible apply Frame.ite)

theorem Frame.activationTimeout {l : List Blk} {s z : State} (hl : Sub [.boot] l)
    (hk : Frame l s z) (t : Nat) :
    Frame l s (Machine.activationTimeout t z) := by
  unfold Machine.activationTimeout
  repeat' first
    | with_reducible assumption
    | exact hl.of rfl
    | (with_reducible apply Frame.activationFails)
    | (with_reducible apply Frame.ite)

theorem Frame.activationComplete {l : List Blk} {s z : State} (hl : Sub [.free, .boot, .counters, .dict, .mbx, .buf, .polders, .wq, .cipher, .siphon, .jrn, .test] l)
    (hk : Frame l s z) (t : Nat) (flash : Bool) :
    Frame l s (Machine.activationComplete t flash z) := by
  unfold Machine.activationComplete
  repeat' first
    | with_reducible assumption
    | exact hl.of rfl
    | (with_reducible apply Frame.raise)
    | (with_reducible apply Frame.journalRelease)
    | (with_reducible apply Frame.writeBcb)
    | (with_reducible apply Frame.appendLog)
    | (with_reducible apply Frame.logImage)
    | (with_reducible apply Frame.startFrom)
    | (with_reducible apply Frame.coresRun)
    | (with_reducible apply Frame.activationFails)
    | (with_reducible apply Frame.modBoot)
    | (with_reducible apply Frame.ite)

theorem Frame.heartbeat {l : List Blk} {s z : State} (hl : Sub [.boot] l)
    (hk : Frame l s z) (t : Nat) :
    Frame l s (Machine.heartbeat t z) := by
  unfold Machine.heartbeat
  repeat' first
    | with_reducible assumption
    | exact hl.of rfl
    | (with_reducible apply Frame.modBoot)
    | (with_reducible apply Frame.ite)

theorem Frame.dikeHalt {l : List Blk} {s z : State} (hl : Sub [.boot] l)
    (hk : Frame l s z) :
    Frame l s (Machine.dikeHalt z) := by
  unfold Machine.dikeHalt
  repeat' first
    | with_reducible assumption
    | exact hl.of rfl
    | (with_reducible apply Frame.raise)
    | (with_reducible apply Frame.modBoot)

theorem Frame.dikeRestart {l : List Blk} {s z : State} (hl : Sub [.boot, .counters, .dict, .mbx, .time, .wq, .jrn] l)
    (hk : Frame l s z) (reason : Nat) :
    Frame l s (Machine.dikeRestart reason z) := by
  unfold Machine.dikeRestart
  repeat' first
    | with_reducible assumption
    | exact hl.of rfl
    | (with_reducible apply Frame.raise)
    | (with_reducible apply Frame.count)
    | (with_reducible apply Frame.recheckSlot)
    | (with_reducible apply Frame.coresStop)
    | (with_reducible apply Frame.dikeInterrupts)
    | (with_reducible apply Frame.dikeHalt)
    | (with_reducible apply Frame.modBoot)
    | (with_reducible apply Frame.ite)

theorem Frame.coreRestartComplete {l : List Blk} {s z : State} (hl : Sub [.boot, .counters, .dict, .mbx, .wq, .siphon, .jrn] l)
    (hk : Frame l s z) (t : Nat) :
    Frame l s (Machine.coreRestartComplete t z) := by
  unfold Machine.coreRestartComplete
  repeat' first
    | with_reducible assumption
    | exact hl.of rfl
    | (with_reducible apply Frame.journalRelease)
    | (with_reducible apply Frame.appendLog)
    | (with_reducible apply Frame.logImage)
    | (with_reducible apply Frame.coresRun)
    | (with_reducible apply Frame.modBoot)
    | (with_reducible apply Frame.ite)

theorem Frame.setDmaWindows {l : List Blk} {s z : State} (hl : Sub [.boot, .counters] l)
    (hk : Frame l s z) (b : Bytes) (q : Req) :
    Frame l s (Machine.setDmaWindows b q z) := by
  unfold Machine.setDmaWindows
  repeat' first
    | with_reducible assumption
    | exact hl.of rfl
    | (with_reducible apply Frame.dikeLog)
    | (with_reducible apply Frame.modBoot)

end Sys2Proof
end

