-- ==== Sys2Proof/Laws/FrameCounters.lean ====
section
/-! SUPPORT. Which blocks the operations of Machine/Counters.lean may change. -/

namespace Sys2Proof
open Machine

theorem Frame.groupSignal {l : List Blk} {s z : State} (hl : Sub [] l)
    (hk : Frame l s z) (g : Nat) :
    Frame l s (Machine.groupSignal g z) := by
  unfold Machine.groupSignal
  repeat' first
    | with_reducible assumption
    | exact hl.of rfl
    | (with_reducible apply Frame.signal)
    | (with_reducible apply Frame.ite)

theorem Frame.evtClear {l : List Blk} {s z : State} (hl : Sub [] l)
    (hk : Frame l s z) (g v keep : Nat) :
    Frame l s (Machine.evtClear g v keep z) := by
  unfold Machine.evtClear
  repeat' first
    | with_reducible assumption
    | exact hl.of rfl
    | (with_reducible apply Frame.setEvtStat)
    | (with_reducible apply Frame.intxEval)
    | (with_reducible apply Frame.groupSignal)
    | (with_reducible apply Frame.ite)

theorem Frame.evtMaskSet {l : List Blk} {s z : State} (hl : Sub [] l)
    (hk : Frame l s z) (g v : Nat) :
    Frame l s (Machine.evtMaskSet g v z) := by
  unfold Machine.evtMaskSet
  repeat' first
    | with_reducible assumption
    | exact hl.of rfl
    | (with_reducible apply Frame.intxEval)
    | (with_reducible apply Frame.groupSignal)
    | (with_reducible apply Frame.modEvt)
    | (with_reducible apply Frame.ite)

theorem Frame.evtVectorSet {l : List Blk} {s z : State} (hl : Sub [] l)
    (hk : Frame l s z) (g v : Nat) :
    Frame l s (Machine.evtVectorSet g v z) := by
  unfold Machine.evtVectorSet
  repeat' first
    | with_reducible assumption
    | exact hl.of rfl
    | (with_reducible apply Frame.modEvt)

theorem Frame.evtTest {l : List Blk} {s z : State} (hl : Sub [] l)
    (hk : Frame l s z) (g v : Nat) :
    Frame l s (Machine.evtTest g v z) := by
  unfold Machine.evtTest
  repeat' first
    | with_reducible assumption
    | exact hl.of rfl
    | (with_reducible apply Frame.raise)
    | (with_reducible refine Frame.forEach _ (fun _ _ _ => ?_) ?_)

theorem Frame.setDevCtr {l : List Blk} {s z : State} (hl : Sub [] l)
    (hk : Frame l s z) (n : Nat) (x : DevCtr) :
    Frame l s (Machine.setDevCtr n x z) := by
  unfold Machine.setDevCtr
  repeat' first
    | with_reducible assumption
    | exact hl.of rfl
    | (with_reducible apply Frame.modEvt)

theorem Frame.ctrSelSet {l : List Blk} {s z : State} (hl : Sub [] l)
    (hk : Frame l s z) (n v : Nat) :
    Frame l s (Machine.ctrSelSet n v z) := by
  unfold Machine.ctrSelSet
  repeat' first
    | with_reducible assumption
    | exact hl.of rfl
    | (with_reducible apply Frame.setDevCtr)

theorem Frame.ctrLatch {l : List Blk} {s z : State} (hl : Sub [] l)
    (hk : Frame l s z) (n : Nat) :
    Frame l s (Machine.ctrLatch n z) := by
  unfold Machine.ctrLatch
  repeat' first
    | with_reducible assumption
    | exact hl.of rfl
    | (with_reducible apply Frame.setDevCtr)

theorem Frame.ctrValueSet {l : List Blk} {s z : State} (hl : Sub [] l)
    (hk : Frame l s z) (n : Nat) (hi : Bool) (v : Nat) :
    Frame l s (Machine.ctrValueSet n hi v z) := by
  unfold Machine.ctrValueSet
  repeat' first
    | with_reducible assumption
    | exact hl.of rfl
    | (with_reducible apply Frame.setDevCtr)
    | (with_reducible apply Frame.ite)

theorem Frame.ctrOvfClear {l : List Blk} {s z : State} (hl : Sub [] l)
    (hk : Frame l s z) (k v keep : Nat) :
    Frame l s (Machine.ctrOvfClear k v keep z) := by
  unfold Machine.ctrOvfClear
  repeat' first
    | with_reducible assumption
    | exact hl.of rfl
    | (with_reducible apply Frame.modEvt)

theorem Frame.clearCounters {l : List Blk} {s z : State} (hl : Sub [] l)
    (hk : Frame l s z) :
    Frame l s (Machine.clearCounters z) := by
  unfold Machine.clearCounters
  repeat' first
    | with_reducible assumption
    | exact hl.of rfl
    | (with_reducible apply Frame.modEvt)

theorem Frame.pageOvfClear {l : List Blk} {s z : State} (hl : Sub [] l)
    (hk : Frame l s z) (fn v keep : Nat) :
    Frame l s (Machine.pageOvfClear fn v keep z) := by
  unfold Machine.pageOvfClear
  repeat' first
    | with_reducible assumption
    | exact hl.of rfl
    | (with_reducible apply Frame.setPage)

end Sys2Proof
end

