-- ==== Sys2Proof/Laws/FrameSelfTests.lean ====
section
/-! SUPPORT. Which blocks the operations of Machine/SelfTests.lean may change. -/

namespace Sys2Proof
open Machine

theorem Frame.setTestDie {l : List Blk} {s z : State} (hl : Sub [.test] l)
    (hk : Frame l s z) (die st : Nat) :
    Frame l s (Machine.setTestDie die st z) := by
  unfold Machine.setTestDie
  repeat' first
    | with_reducible assumption
    | exact hl.of rfl
    | (with_reducible apply Frame.modTest)

theorem Frame.rehomeFlow {l : List Blk} {s z : State} (hl : Sub [.flow] l)
    (hk : Frame l s z) :
    Frame l s (Machine.rehomeFlow z) := by
  unfold Machine.rehomeFlow
  repeat' first
    | with_reducible assumption
    | exact hl.of rfl
    | (with_reducible apply Frame.setFlowDie)
    | (with_reducible refine Frame.forEach _ (fun _ _ _ => ?_) ?_)
    | (with_reducible apply Frame.modFlow)

theorem Frame.rehomeTables {l : List Blk} {s z : State} (hl : Sub [.counters, .tables] l)
    (hk : Frame l s z) :
    Frame l s (Machine.rehomeTables z) := by
  unfold Machine.rehomeTables
  repeat' first
    | with_reducible assumption
    | exact hl.of rfl
    | (with_reducible apply Frame.countQ)
    | (with_reducible apply Frame.modTables)

theorem Frame.dieFramesLost {l : List Blk} {s z : State} (hl : Sub [.counters, .cls, .flow, .buf, .sched, .ep, .funcs, .polders, .wq, .siphon] l)
    (hk : Frame l s z) (die : Nat) :
    Frame l s (Machine.dieFramesLost die z) := by
  unfold Machine.dieFramesLost
  repeat' first
    | with_reducible assumption
    | exact hl.of rfl
    | (with_reducible apply Frame.setPsched)
    | (with_reducible apply Frame.setFlowDie)
    | (with_reducible apply Frame.releaseFrames)
    | (with_reducible apply Frame.flushPort)
    | (with_reducible apply Frame.loseParcel)
    | (with_reducible apply Frame.setPsched)
    | (with_reducible refine Frame.forEach _ (fun _ _ _ => ?_) ?_)
    | (with_reducible apply Frame.modCls)
    | (with_reducible apply Frame.modBuf)

theorem Frame.dieSiphonLost {l : List Blk} {s z : State} (hl : Sub [.siphon] l)
    (hk : Frame l s z) (die : Nat) :
    Frame l s (Machine.dieSiphonLost die z) := by
  unfold Machine.dieSiphonLost
  repeat' first
    | with_reducible assumption
    | exact hl.of rfl
    | (with_reducible apply Frame.modSiphon)

theorem Frame.fieldDieOut {l : List Blk} {s z : State} (hl : Sub [.counters, .ports, .cls, .tables, .flow, .buf, .sched, .ep, .funcs, .polders, .wq, .siphon, .test] l)
    (hk : Frame l s z) (die : Nat) :
    Frame l s (Machine.fieldDieOut die z) := by
  unfold Machine.fieldDieOut
  repeat' first
    | with_reducible assumption
    | exact hl.of rfl
    | (with_reducible apply Frame.setBufDie)
    | (with_reducible apply Frame.setFlowDie)
    | (with_reducible apply Frame.setLink)
    | (with_reducible apply Frame.setTestDie)
    | (with_reducible apply Frame.rehomeFlow)
    | (with_reducible apply Frame.rehomeTables)
    | (with_reducible apply Frame.dieFramesLost)
    | (with_reducible apply Frame.dieSiphonLost)
    | (with_reducible refine Frame.forEach _ (fun _ _ _ => ?_) ?_)
    | (with_reducible apply Frame.modTables)

theorem Frame.memoryDieOut {l : List Blk} {s z : State} (hl : Sub [.boot, .buf, .test] l)
    (hk : Frame l s z) (md : Nat) :
    Frame l s (Machine.memoryDieOut md z) := by
  unfold Machine.memoryDieOut
  repeat' first
    | with_reducible assumption
    | exact hl.of rfl
    | (with_reducible apply Frame.setTestDie)
    | (with_reducible apply Frame.modBuf)
    | (with_reducible apply Frame.modBoot)

theorem Frame.selfTestEnd {l : List Blk} {s z : State} (hl : Sub [.boot, .counters, .dict, .mbx, .test] l)
    (hk : Frame l s z) (die sig : Nat) :
    Frame l s (Machine.selfTestEnd die sig z) := by
  unfold Machine.selfTestEnd
  repeat' first
    | with_reducible assumption
    | exact hl.of rfl
    | (with_reducible apply Frame.answerAct)
    | (with_reducible apply Frame.logSelfTest)
    | (with_reducible apply Frame.testResult)
    | (with_reducible apply Frame.setTestDie)
    | (with_reducible apply Frame.ite)

theorem Frame.dieCountersReset {l : List Blk} {s z : State} (hl : Sub [.counters, .cls, .sched] l)
    (hk : Frame l s z) (die : Nat) :
    Frame l s (Machine.dieCountersReset die z) := by
  unfold Machine.dieCountersReset
  repeat' first
    | with_reducible assumption
    | exact hl.of rfl
    | (with_reducible apply Frame.modSched)
    | (with_reducible apply Frame.modCls)
    | ((with_reducible apply Frame.modDict) <;> first | exact fun _ _ => rfl | exact fun h => hl.not rfl h | skip)

theorem Frame.frerRestart {l : List Blk} {s z : State} (hl : Sub [.frer] l)
    (hk : Frame l s z) (die : Nat) :
    Frame l s (Machine.frerRestart die z) := by
  unfold Machine.frerRestart
  repeat' first
    | with_reducible assumption
    | exact hl.of rfl
    | (with_reducible apply Frame.ite)
    | (with_reducible apply Frame.ite_fst)
    | (with_reducible apply Frame.ite_snd)
    | (with_reducible refine Frame.foldl _ (fun _ _ _ => ?_) ?_)
    | (with_reducible refine Frame.foldl_fst _ (fun _ _ _ => ?_) ?_)
    | (with_reducible refine Frame.foldl_snd _ (fun _ _ _ => ?_) ?_)
    | exact Frame.upd hk rfl (fun b n => by cases b <;> first | rfl | exact hl.not rfl n)

theorem Frame.restoreLogged {l : List Blk} {s z : State} (hl : Sub [.boot, .counters] l)
    (hk : Frame l s z) (die : Nat) :
    Frame l s (Machine.restoreLogged die z) := by
  unfold Machine.restoreLogged
  repeat' first
    | with_reducible assumption
    | exact hl.of rfl
    | (with_reducible apply Frame.dikeLog)
    | (with_reducible refine Frame.forEach _ (fun _ _ _ => ?_) ?_)
    | (with_reducible apply Frame.ite)
    | (with_reducible apply Frame.ite_fst)
    | (with_reducible apply Frame.ite_snd)
    | split

theorem Frame.fieldDieReturn {l : List Blk} {s z : State} (hl : Sub [.boot, .counters, .ports, .frer, .cls, .tables, .flow, .buf, .sched, .ep, .funcs, .polders, .wq, .siphon, .test] l)
    (hk : Frame l s z) (die : Nat) :
    Frame l s (Machine.fieldDieReturn die z) := by
  unfold Machine.fieldDieReturn
  repeat' first
    | with_reducible assumption
    | exact hl.of rfl
    | (with_reducible apply Frame.setPsched)
    | (with_reducible apply Frame.lowCheck)
    | (with_reducible apply Frame.portAdminChanged)
    | (with_reducible apply Frame.copyReplica)
    | (with_reducible apply Frame.setTestDie)
    | (with_reducible apply Frame.rehomeFlow)
    | (with_reducible apply Frame.rehomeTables)
    | (with_reducible apply Frame.dieCountersReset)
    | (with_reducible apply Frame.frerRestart)
    | (with_reducible apply Frame.restoreLogged)
    | (with_reducible apply Frame.setPsched)
    | (with_reducible refine Frame.forEach _ (fun _ _ _ => ?_) ?_)

theorem Frame.memoryDieReturn {l : List Blk} {s z : State} (hl : Sub [.boot, .siphon, .jrn, .test] l)
    (hk : Frame l s z) (md : Nat) :
    Frame l s (Machine.memoryDieReturn md z) := by
  unfold Machine.memoryDieReturn
  repeat' first
    | with_reducible assumption
    | exact hl.of rfl
    | (with_reducible apply Frame.setCart)
    | (with_reducible apply Frame.setTestDie)
    | (with_reducible apply Frame.setCart)
    | (with_reducible apply Frame.modSiphon)
    | (with_reducible apply Frame.modBoot)
    | (with_reducible apply Frame.ite)

theorem Frame.dieReturnComplete {l : List Blk} {s z : State} (hl : Sub [.boot, .counters, .ports, .frer, .cls, .tables, .flow, .buf, .sched, .ep, .funcs, .polders, .wq, .siphon, .jrn, .test] l)
    (hk : Frame l s z) (die : Nat) :
    Frame l s (Machine.dieReturnComplete die z) := by
  unfold Machine.dieReturnComplete
  repeat' first
    | with_reducible assumption
    | exact hl.of rfl
    | (with_reducible apply Frame.fieldDieReturn)
    | (with_reducible apply Frame.memoryDieReturn)
    | (with_reducible apply Frame.ite)

theorem Frame.tapLoad {l : List Blk} {s z : State} (hl : Sub [.board] l)
    (hk : Frame l s z) (code : Nat) :
    Frame l s (Machine.tapLoad code z) := by
  unfold Machine.tapLoad
  repeat' first
    | with_reducible assumption
    | exact hl.of rfl
    | (with_reducible apply Frame.modBoard)

theorem Frame.tapBypass {l : List Blk} {s z : State} (hl : Sub [.board] l)
    (hk : Frame l s z) (code : Nat) :
    Frame l s (Machine.tapBypass code z) := by
  unfold Machine.tapBypass
  repeat' first
    | with_reducible assumption
    | exact hl.of rfl
    | (with_reducible apply Frame.tapLoad)
    | (with_reducible apply Frame.emit)

theorem Frame.tapBoard {l : List Blk} {s z : State} (hl : Sub [.board] l)
    (hk : Frame l s z) (code : Nat) :
    Frame l s (Machine.tapBoard code z) := by
  unfold Machine.tapBoard
  repeat' first
    | with_reducible assumption
    | exact hl.of rfl
    | (with_reducible apply Frame.tapLoad)
    | (with_reducible apply Frame.tapBypass)
    | (with_reducible apply Frame.ite)

theorem Frame.tapSample {l : List Blk} {s z : State} (hl : Sub [.free] l)
    (hk : Frame l s z) :
    Frame l s (Machine.tapSample z) := by
  unfold Machine.tapSample
  repeat' first
    | with_reducible assumption
    | exact hl.of rfl
    | (with_reducible apply Frame.drawBytes)
    | (with_reducible apply Frame.emit)

end Sys2Proof
end

