-- ==== Sys2Proof/Laws/FrameBoards.lean ====
section
/-! SUPPORT. Which blocks the operations of Machine/Boards.lean may change. -/

namespace Sys2Proof
open Machine

theorem Frame.drainBegin {l : List Blk} {s z : State} (hl : Sub [.jrn] l)
    (hk : Frame l s z) :
    Frame l s (Machine.drainBegin z) := by
  unfold Machine.drainBegin
  repeat' first
    | with_reducible assumption
    | exact hl.of rfl
    | (with_reducible apply Frame.setCart)
    | (with_reducible apply Frame.setCart)
    | (with_reducible apply Frame.modJrn)
    | (with_reducible apply Frame.ite)

theorem Frame.acFailFall {l : List Blk} {s z : State} (hl : Sub [.board, .counters, .jrn] l)
    (hk : Frame l s z) :
    Frame l s (Machine.acFailFall z) := by
  unfold Machine.acFailFall
  repeat' first
    | with_reducible assumption
    | exact hl.of rfl
    | (with_reducible apply Frame.count)
    | (with_reducible apply Frame.drainBegin)
    | (with_reducible apply Frame.modBoard)
    | (with_reducible apply Frame.ite)

theorem Frame.thermtrip {l : List Blk} {s z : State} (hl : Sub [.board, .jrn] l)
    (hk : Frame l s z) :
    Frame l s (Machine.thermtrip z) := by
  unfold Machine.thermtrip
  repeat' first
    | with_reducible assumption
    | exact hl.of rfl
    | (with_reducible apply Frame.drainBegin)
    | (with_reducible apply Frame.modBoard)
    | (with_reducible apply Frame.ite)

theorem Frame.thermalSample {l : List Blk} {s z : State} (hl : Sub [.board, .counters] l)
    (hk : Frame l s z) (temps : List Int) (power : Nat) :
    Frame l s (Machine.thermalSample temps power z) := by
  unfold Machine.thermalSample
  repeat' first
    | with_reducible assumption
    | exact hl.of rfl
    | (with_reducible apply Frame.raise)
    | (with_reducible apply Frame.count)
    | (with_reducible apply Frame.modBoard)
    | (with_reducible apply Frame.ite)

theorem Frame.smbusRead {l : List Blk} {s z : State} (hl : Sub [] l)
    (hk : Frame l s z) (b : Bytes) :
    Frame l s (Machine.smbusRead b z) := by
  unfold Machine.smbusRead
  repeat' first
    | with_reducible assumption
    | exact hl.of rfl
    | (with_reducible apply Frame.emit)
    | (with_reducible apply Frame.ite)

end Sys2Proof
end

