-- ==== Sys2Proof/Laws/FrameValues.lean ====
section
/-! SUPPORT. Which blocks the operations of Machine/Values.lean may change. -/

namespace Sys2Proof
open Machine

end Sys2Proof
end

