-- ==== Sys2Proof/Laws/FrameDictionary.lean ====
section
/-! SUPPORT. Which blocks the operations of Machine/Dictionary.lean may change. -/

namespace Sys2Proof
open Machine

theorem Frame.sessionEnd {l : List Blk} {s z : State} (hl : Sub [.dict] l)
    (hk : Frame l s z) (n : Nat) :
    Frame l s (Machine.sessionEnd n z) := by
  unfold Machine.sessionEnd
  repeat' first
    | with_reducible assumption
    | exact hl.of rfl
    | (with_reducible apply Frame.setSession)
    | (with_reducible apply Frame.setSession)
    | ((with_reducible apply Frame.modDict) <;> first | exact fun _ _ => rfl | exact fun h => hl.not rfl h | skip)

theorem Frame.requeue {l : List Blk} {s z : State} (hl : Sub [.sched] l)
    (hk : Frame l s z) (s0 : (State)) (p : Nat) :
    Frame l s (Machine.requeue s0 p z) := by
  unfold Machine.requeue
  repeat' first
    | with_reducible assumption
    | exact hl.of rfl
    | (with_reducible apply Frame.setPsched)
    | (with_reducible refine Frame.forEach _ (fun _ _ _ => ?_) ?_)

theorem Frame.retrack {l : List Blk} {s z : State} (hl : Sub [.sched] l)
    (hk : Frame l s z) (s0 : (State)) (p : Nat) :
    Frame l s (Machine.retrack s0 p z) := by
  unfold Machine.retrack
  repeat' first
    | with_reducible assumption
    | exact hl.of rfl
    | (with_reducible apply Frame.setPsched)
    | (with_reducible refine Frame.forEach _ (fun _ _ _ => ?_) ?_)

theorem Frame.takeToken {l : List Blk} {s z : State} (hl : Sub [.dict] l)
    (hk : Frame l s z) (who : Nat) (v : Bytes) :
    Frame l s (Machine.takeToken who v z) := by
  unfold Machine.takeToken
  repeat' first
    | with_reducible assumption
    | exact hl.of rfl
    | (with_reducible apply Frame.setSession)
    | (with_reducible apply Frame.setSession)
    | ((with_reducible apply Frame.modDict) <;> first | exact fun _ _ => rfl | exact fun h => hl.not rfl h | skip)
    | (with_reducible apply Frame.ite)

theorem Frame.takeKeyBlob {l : List Blk} {s z : State} (hl : Sub [.boot, .dict, .cipher] l)
    (hk : Frame l s z) (n : Nat) (v : Bytes) :
    Frame l s (Machine.takeKeyBlob n v z) := by
  unfold Machine.takeKeyBlob
  repeat' first
    | with_reducible assumption
    | exact hl.of rfl
    | (with_reducible apply Frame.setVal)
    | (with_reducible apply Frame.loadSessionKey)
    | (with_reducible apply Frame.modBoot)

theorem Frame.writeEffect {l : List Blk} {s z : State} (hl : Sub [.boot, .counters, .dict, .ports, .time, .tables, .buf, .sched, .ep, .funcs, .polders, .wq, .siphon] l)
    (hk : Frame l s z) (q : Req) (s0 : (State)) :
    Frame l s (Machine.writeEffect q s0 z) := by
  unfold Machine.writeEffect
  repeat' first
    | with_reducible assumption
    | exact hl.of rfl
    | (with_reducible apply Frame.setPolder)
    | (with_reducible apply Frame.lowCheckAll)
    | (with_reducible apply Frame.burstsChanged)
    | (with_reducible apply Frame.gatesOff)
    | (with_reducible apply Frame.portAdminChanged)
    | (with_reducible apply Frame.setRate)
    | (with_reducible apply Frame.ratesFromPorts)
    | (with_reducible apply Frame.savePolder)
    | (with_reducible apply Frame.logPolder)
    | (with_reducible apply Frame.sessionEnd)
    | (with_reducible apply Frame.requeue)
    | (with_reducible apply Frame.retrack)
    | (with_reducible apply Frame.setPolder)
    | ((with_reducible apply Frame.modTime) <;> first | exact fun _ _ => rfl | exact fun h => hl.not rfl h | skip)
    | (with_reducible apply Frame.ite)
    | split

theorem Frame.writeValue {l : List Blk} {s z : State} (hl : Sub [.boot, .counters, .dict, .ports, .time, .tables, .buf, .sched, .ep, .funcs, .polders, .wq, .cipher, .siphon] l)
    (hk : Frame l s z) (q : Req) (v : Bytes) :
    Frame l s (Machine.writeValue q v z) := by
  unfold Machine.writeValue
  repeat' first
    | with_reducible assumption
    | exact hl.of rfl
    | (with_reducible apply Frame.setVal)
    | (with_reducible apply Frame.logObject)
    | (with_reducible apply Frame.setDmaWindows)
    | (with_reducible apply Frame.takeToken)
    | (with_reducible apply Frame.takeKeyBlob)
    | (with_reducible apply Frame.writeEffect)
    | (with_reducible apply Frame.modBoot)
    | (with_reducible apply Frame.ite)

theorem Frame.readValue {l : List Blk} {s z : State} (hl : Sub [] l)
    (hk : Frame l s z) (a0 : Req) :
    Frame l s (Machine.readValue a0 z).1 := by
  unfold Machine.readValue
  repeat' first
    | with_reducible assumption
    | exact hl.of rfl
    | split
    | dsimp only

theorem Frame.writeNow {l : List Blk} {s z : State} (hl : Sub [.boot, .counters, .dict, .ports, .time, .tables, .buf, .sched, .ep, .funcs, .polders, .wq, .cipher, .siphon] l)
    (hk : Frame l s z) (q : Req) (v : Bytes) :
    Frame l s (Machine.writeNow q v z) := by
  unfold Machine.writeNow
  repeat' first
    | with_reducible assumption
    | exact hl.of rfl
    | (with_reducible apply Frame.writeValue)
    | (with_reducible apply Frame.ite)

theorem Frame.writeOne {l : List Blk} {s z : State} (hl : Sub [.boot, .counters, .dict, .ports, .time, .tables, .buf, .sched, .ep, .funcs, .polders, .wq, .cipher, .siphon] l)
    (hk : Frame l s z) (a0 : Req) :
    Frame l s (Machine.writeOne a0 z).1 := by
  unfold Machine.writeOne
  repeat' first
    | with_reducible assumption
    | exact hl.of rfl
    | (with_reducible apply Frame.blobRefused)
    | (with_reducible apply Frame.writeNow)
    | (with_reducible apply Frame.ite)
    | (with_reducible apply Frame.ite_fst)
    | (with_reducible apply Frame.ite_snd)
    | split
    | dsimp only

theorem Frame.writePost {l : List Blk} {s z : State} (hl : Sub [.boot, .counters, .dict, .ports, .time, .tables, .buf, .sched, .ep, .funcs, .polders, .wq, .cipher, .siphon] l)
    (hk : Frame l s z) (q : Req) :
    Frame l s (Machine.writePost q z) := by
  unfold Machine.writePost
  repeat' first
    | with_reducible assumption
    | exact hl.of rfl
    | (with_reducible apply Frame.writeValue)
    | (with_reducible apply Frame.ite)

theorem Frame.notify {l : List Blk} {s z : State} (hl : Sub [.counters, .dict] l)
    (hk : Frame l s z) (t : Nat) (u : Subscr) (v : Bytes) :
    Frame l s (Machine.notify t u v z) := by
  unfold Machine.notify
  repeat' first
    | with_reducible assumption
    | exact hl.of rfl
    | (with_reducible apply Frame.netSend)
    | ((with_reducible apply Frame.modDict) <;> first | exact fun _ _ => rfl | exact fun h => hl.not rfl h | skip)
    | (with_reducible apply Frame.ite)
    | split

theorem Frame.notifyOne {l : List Blk} {s z : State} (hl : Sub [.counters, .dict] l)
    (hk : Frame l s z) (t : Nat) (u : Subscr) :
    Frame l s (Machine.notifyOne t u z) := by
  unfold Machine.notifyOne
  repeat' first
    | with_reducible assumption
    | exact hl.of rfl
    | (with_reducible apply Frame.notify)
    | (with_reducible apply Frame.ite)

theorem Frame.notifyChanges {l : List Blk} {s z : State} (hl : Sub [.counters, .dict] l)
    (hk : Frame l s z) :
    Frame l s (Machine.notifyChanges z) := by
  unfold Machine.notifyChanges
  repeat' first
    | with_reducible assumption
    | exact hl.of rfl
    | (with_reducible apply Frame.notifyOne)
    | (with_reducible refine Frame.forEach _ (fun _ _ _ => ?_) ?_)

theorem Frame.newNumber {l : List Blk} {s z : State} (hl : Sub [.free] l)
    (hk : Frame l s z) :
    Frame l s (Machine.newNumber z).2 := by
  unfold Machine.newNumber
  repeat' first
    | with_reducible assumption
    | exact hl.of rfl
    | (with_reducible apply Frame.drawNat)

theorem Frame.subscribeOne {l : List Blk} {s z : State} (hl : Sub [.free, .dict] l)
    (hk : Frame l s z) (a0 : Req) :
    Frame l s (Machine.subscribeOne a0 z).1 := by
  unfold Machine.subscribeOne
  repeat' first
    | with_reducible assumption
    | exact hl.of rfl
    | (with_reducible apply Frame.newNumber)
    | ((with_reducible apply Frame.modDict) <;> first | exact fun _ _ => rfl | exact fun h => hl.not rfl h | skip)
    | (with_reducible apply Frame.ite)
    | (with_reducible apply Frame.ite_fst)
    | (with_reducible apply Frame.ite_snd)
    | split
    | exact Frame.upd hk rfl (fun b n => by cases b <;> first | rfl | exact hl.not rfl n)
    | dsimp only

theorem Frame.tokenExpiry {l : List Blk} {s z : State} (hl : Sub [.dict] l)
    (hk : Frame l s z) (session : Nat) :
    Frame l s (Machine.tokenExpiry session z) := by
  unfold Machine.tokenExpiry
  repeat' first
    | with_reducible assumption
    | exact hl.of rfl
    | (with_reducible apply Frame.setSession)
    | (with_reducible apply Frame.setSession)
    | ((with_reducible apply Frame.modDict) <;> first | exact fun _ _ => rfl | exact fun h => hl.not rfl h | skip)
    | (with_reducible apply Frame.ite)
    | split

theorem Frame.dropSnap {l : List Blk} {s z : State} (hl : Sub [.dict] l)
    (hk : Frame l s z) (who idx sub : Nat) :
    Frame l s (Machine.dropSnap who idx sub z) := by
  unfold Machine.dropSnap
  repeat' first
    | with_reducible assumption
    | exact hl.of rfl
    | ((with_reducible apply Frame.modDict) <;> first | exact fun _ _ => rfl | exact fun h => hl.not rfl h | skip)

theorem Frame.readBlockOne {l : List Blk} {s z : State} (hl : Sub [.dict] l)
    (hk : Frame l s z) (a0 : Req) :
    Frame l s (Machine.readBlockOne a0 z).1 := by
  unfold Machine.readBlockOne
  repeat' first
    | with_reducible assumption
    | exact hl.of rfl
    | (with_reducible apply Frame.dropSnap)
    | ((with_reducible apply Frame.modDict) <;> first | exact fun _ _ => rfl | exact fun h => hl.not rfl h | skip)
    | (with_reducible apply Frame.ite)
    | (with_reducible apply Frame.ite_fst)
    | (with_reducible apply Frame.ite_snd)
    | split
    | exact Frame.upd hk rfl (fun b n => by cases b <;> first | rfl | exact hl.not rfl n)
    | dsimp only

theorem Frame.clearStaging {l : List Blk} {s z : State} (hl : Sub [.dict] l)
    (hk : Frame l s z) (who idx sub : Nat) :
    Frame l s (Machine.clearStaging who idx sub z) := by
  unfold Machine.clearStaging
  repeat' first
    | with_reducible assumption
    | exact hl.of rfl
    | ((with_reducible apply Frame.modDict) <;> first | exact fun _ _ => rfl | exact fun h => hl.not rfl h | skip)

theorem Frame.dropStaging {l : List Blk} {s z : State} (hl : Sub [.boot, .dict] l)
    (hk : Frame l s z) (who idx sub : Nat) :
    Frame l s (Machine.dropStaging who idx sub z) := by
  unfold Machine.dropStaging
  repeat' first
    | with_reducible assumption
    | exact hl.of rfl
    | (with_reducible apply Frame.setSlot)
    | (with_reducible apply Frame.clearStaging)
    | (with_reducible apply Frame.ite)

theorem Frame.putStaging {l : List Blk} {s z : State} (hl : Sub [.boot, .dict] l)
    (hk : Frame l s z) (q : Req) (b : Bytes) :
    Frame l s (Machine.putStaging q b z) := by
  unfold Machine.putStaging
  repeat' first
    | with_reducible assumption
    | exact hl.of rfl
    | (with_reducible apply Frame.setSlot)
    | (with_reducible apply Frame.clearStaging)
    | ((with_reducible apply Frame.modDict) <;> first | exact fun _ _ => rfl | exact fun h => hl.not rfl h | skip)
    | (with_reducible apply Frame.ite)

theorem Frame.finishBlocks {l : List Blk} {s z : State} (hl : Sub [.boot, .counters, .dict, .ports, .time, .tables, .buf, .sched, .ep, .funcs, .polders, .wq, .cipher, .siphon] l)
    (hk : Frame l s z) (q : Req) (v : Bytes) :
    Frame l s (Machine.finishBlocks q v z).1 := by
  unfold Machine.finishBlocks
  repeat' first
    | with_reducible assumption
    | exact hl.of rfl
    | (with_reducible apply Frame.blobRefused)
    | (with_reducible apply Frame.setSlot)
    | (with_reducible apply Frame.writeValue)
    | (with_reducible apply Frame.clearStaging)
    | (with_reducible apply Frame.putStaging)
    | (with_reducible apply Frame.ite)
    | (with_reducible apply Frame.ite_fst)
    | (with_reducible apply Frame.ite_snd)
    | split

theorem Frame.writeBlockOne {l : List Blk} {s z : State} (hl : Sub [.boot, .counters, .dict, .ports, .time, .tables, .buf, .sched, .ep, .funcs, .polders, .wq, .cipher, .siphon] l)
    (hk : Frame l s z) (a0 : Req) :
    Frame l s (Machine.writeBlockOne a0 z).1 := by
  unfold Machine.writeBlockOne
  repeat' first
    | with_reducible assumption
    | exact hl.of rfl
    | (with_reducible apply Frame.dropStaging)
    | (with_reducible apply Frame.putStaging)
    | (with_reducible apply Frame.finishBlocks)
    | (with_reducible apply Frame.ite)
    | (with_reducible apply Frame.ite_fst)
    | (with_reducible apply Frame.ite_snd)
    | split
    | dsimp only

theorem Frame.blockPost {l : List Blk} {s z : State} (hl : Sub [.boot, .counters, .dict, .ports, .time, .tables, .buf, .sched, .ep, .funcs, .polders, .wq, .cipher, .siphon] l)
    (hk : Frame l s z) (q : Req) :
    Frame l s (Machine.blockPost q z) := by
  unfold Machine.blockPost
  repeat' first
    | with_reducible assumption
    | exact hl.of rfl
    | (with_reducible apply Frame.writeValue)
    | (with_reducible apply Frame.clearStaging)
    | (with_reducible apply Frame.ite)
    | split

theorem Frame.storeBegin {l : List Blk} {s z : State} (hl : Sub [.boot, .dict] l)
    (hk : Frame l s z) (vals : Tab Bytes) :
    Frame l s (Machine.storeBegin vals z) := by
  unfold Machine.storeBegin
  repeat' first
    | with_reducible assumption
    | exact hl.of rfl
    | (with_reducible apply Frame.modBoot)
    | ((with_reducible apply Frame.modDict) <;> first | exact fun _ _ => rfl | exact fun h => hl.not rfl h | skip)

theorem Frame.storeEnd {l : List Blk} {s z : State} (hl : Sub [.boot, .counters, .dict, .mbx] l)
    (hk : Frame l s z) (ok : Bool) :
    Frame l s (Machine.storeEnd ok z) := by
  unfold Machine.storeEnd
  repeat' first
    | with_reducible assumption
    | exact hl.of rfl
    | (with_reducible apply Frame.raise)
    | (with_reducible apply Frame.answerAct)
    | (with_reducible apply Frame.modBoot)
    | ((with_reducible apply Frame.modDict) <;> first | exact fun _ _ => rfl | exact fun h => hl.not rfl h | skip)
    | (with_reducible apply Frame.ite)
    | (with_reducible apply Frame.ite_fst)
    | (with_reducible apply Frame.ite_snd)
    | split

theorem Frame.polderChangeReq {l : List Blk} {s z : State} (hl : Sub [.boot, .counters, .dict, .ports, .time, .tables, .buf, .sched, .ep, .funcs, .polders, .wq, .cipher, .siphon] l)
    (hk : Frame l s z) (a0 : Req) :
    Frame l s (Machine.polderChangeReq a0 z).1 := by
  unfold Machine.polderChangeReq
  repeat' first
    | with_reducible assumption
    | exact hl.of rfl
    | (with_reducible apply Frame.commitReq)
    | (with_reducible apply Frame.adjustReq)
    | (with_reducible apply Frame.writeOne)
    | (with_reducible apply Frame.ite)
    | (with_reducible apply Frame.ite_fst)

theorem Frame.interrupted {l : List Blk} {s z : State} (hl : Sub [.boot, .counters, .dict, .ports, .time, .tables, .buf, .sched, .ep, .funcs, .polders, .wq, .cipher, .siphon] l)
    (hk : Frame l s z) (stored : Bool) (a0 : Req) :
    Frame l s (Machine.interrupted stored a0 z).1 := by
  unfold Machine.interrupted
  repeat' first
    | with_reducible assumption
    | exact hl.of rfl
    | (with_reducible apply Frame.polderChangeReq)
    | (with_reducible apply Frame.ite)

theorem Frame.dikeHeartbeatTimeout {l : List Blk} {s z : State} (hl : Sub [.boot, .counters, .dict, .mbx, .ports, .time, .tables, .buf, .sched, .ep, .funcs, .polders, .wq, .cipher, .siphon, .jrn] l)
    (hk : Frame l s z) (t reason : Nat) (during : Option (Rq × Bool)) :
    Frame l s (Machine.dikeHeartbeatTimeout t reason during z) := by
  unfold Machine.dikeHeartbeatTimeout
  repeat' first
    | with_reducible assumption
    | exact hl.of rfl
    | (with_reducible apply Frame.fdpServe)
    | (with_reducible apply Frame.dikeRestart)
    | (with_reducible apply Frame.interrupted)
    | (with_reducible apply Frame.ite)
    | split
    | (with_reducible intro _; try beta_reduce)

theorem Frame.mbxCtrl {l : List Blk} {s z : State} (hl : Sub [.counters, .mbx] l)
    (hk : Frame l s z) (v : Nat) :
    Frame l s (Machine.mbxCtrl v z) := by
  unfold Machine.mbxCtrl
  repeat' first
    | with_reducible assumption
    | exact hl.of rfl
    | (with_reducible apply Frame.mbxHeader)
    | (with_reducible apply Frame.modMbx)
    | (with_reducible apply Frame.ite)

end Sys2Proof
end

