-- ==== Sys2Proof/Laws/FrameFlags.lean ====
section
/-! SUPPORT. Which blocks the operations of Machine/Flags.lean may change. -/

namespace Sys2Proof
open Machine

theorem Frame.qctrlWrite {l : List Blk} {s z : State} (hl : Sub [.free, .counters, .buf, .sched, .ep, .funcs, .wq, .cipher, .siphon, .jrn] l)
    (hk : Frame l s z) (fn q v : Nat) :
    Frame l s (Machine.qctrlWrite fn q v z) := by
  unfold Machine.qctrlWrite
  repeat' first
    | with_reducible assumption
    | exact hl.of rfl
    | intro _ _ _
    | (rw [apply_ite (fun g : Queue → State → Nat × State => g _ _)])
    | split
    | (with_reducible apply Frame.qctrl)
    | (with_reducible apply Frame.qLoad)
    | (with_reducible apply Frame.qRead)
    | (with_reducible apply Frame.qEnable)
    | (with_reducible apply Frame.qReset)
    | (with_reducible apply Frame.qDisable)
    | (with_reducible apply Frame.drawNat)

theorem Frame.funcWrite {l : List Blk} {s z : State} (hl : Sub [.free, .counters, .buf, .sched, .ep, .funcs, .polders, .wq, .cipher, .siphon, .jrn] l)
    (hk : Frame l s z) (fn off v : Nat) :
    Frame l s (Machine.funcWrite fn off v z) := by
  unfold Machine.funcWrite
  repeat' first
    | with_reducible assumption
    | exact hl.of rfl
    | (with_reducible apply Frame.setFunc)
    | (with_reducible apply Frame.tailDoorbell)
    | (with_reducible apply Frame.headDoorbell)
    | (with_reducible apply Frame.qctrlWrite)
    | (with_reducible apply Frame.setFunc)
    | (with_reducible apply Frame.ite)

theorem Frame.tblWriteReg {l : List Blk} {s z : State} (hl : Sub [.counters, .tables, .funcs] l)
    (hk : Frame l s z) (off v : Nat) :
    Frame l s (Machine.tblWriteReg off v z) := by
  unfold Machine.tblWriteReg
  repeat' first
    | with_reducible assumption
    | exact hl.of rfl
    | intro _ _
    | (with_reducible apply Frame.tblCommand)
    | (with_reducible apply Frame.tblRun)
    | (with_reducible apply Frame.modTables)
    | (with_reducible apply Frame.ite)

theorem Frame.mbxWriteReg {l : List Blk} {s z : State} (hl : Sub [.counters, .mbx] l)
    (hk : Frame l s z) (off v : Nat) :
    Frame l s (Machine.mbxWriteReg off v z) := by
  unfold Machine.mbxWriteReg
  repeat' first
    | with_reducible assumption
    | exact hl.of rfl
    | (with_reducible apply Frame.mbxCtrl)
    | (with_reducible apply Frame.modMbx)
    | (with_reducible apply Frame.ite)

theorem Frame.evtWriteReg {l : List Blk} {s z : State} (hl : Sub [] l)
    (hk : Frame l s z) (off v : Nat) :
    Frame l s (Machine.evtWriteReg off v z) := by
  unfold Machine.evtWriteReg
  repeat' first
    | with_reducible assumption
    | exact hl.of rfl
    | (with_reducible apply Frame.evtClear)
    | (with_reducible apply Frame.evtMaskSet)
    | (with_reducible apply Frame.evtVectorSet)
    | (with_reducible apply Frame.evtTest)
    | (with_reducible apply Frame.ite)

theorem Frame.ctrWriteReg {l : List Blk} {s z : State} (hl : Sub [] l)
    (hk : Frame l s z) (off v : Nat) :
    Frame l s (Machine.ctrWriteReg off v z) := by
  unfold Machine.ctrWriteReg
  repeat' first
    | with_reducible assumption
    | exact hl.of rfl
    | (with_reducible apply Frame.ctrSelSet)
    | (with_reducible apply Frame.ctrValueSet)
    | (with_reducible apply Frame.ctrOvfClear)
    | (with_reducible apply Frame.clearCounters)
    | (with_reducible apply Frame.modEvt)
    | (with_reducible apply Frame.ite)

theorem Frame.bar0Write {l : List Blk} {s z : State} (hl : Sub [.free, .counters, .mbx, .tables, .buf, .sched, .ep, .funcs, .polders, .wq, .cipher, .siphon, .jrn] l)
    (hk : Frame l s z) (fn off v : Nat) :
    Frame l s (Machine.bar0Write fn off v z) := by
  unfold Machine.bar0Write
  repeat' first
    | with_reducible assumption
    | exact hl.of rfl
    | (with_reducible apply Frame.funcWrite)
    | (with_reducible apply Frame.tblWriteReg)
    | (with_reducible apply Frame.mbxWriteReg)
    | (with_reducible apply Frame.evtWriteReg)
    | (with_reducible apply Frame.ctrWriteReg)
    | (with_reducible apply Frame.ite)

theorem Frame.msixWrite {l : List Blk} {s z : State} (hl : Sub [.funcs] l)
    (hk : Frame l s z) (fn off v : Nat) :
    Frame l s (Machine.msixWrite fn off v z) := by
  unfold Machine.msixWrite
  repeat' first
    | with_reducible assumption
    | exact hl.of rfl
    | (with_reducible apply Frame.setMsix)
    | (with_reducible apply Frame.msixUnmask)
    | (with_reducible apply Frame.setMsix)
    | (with_reducible apply Frame.ite)

theorem Frame.wordWrite {l : List Blk} {s z : State} (hl : Sub [.free, .counters, .mbx, .tables, .buf, .sched, .ep, .funcs, .polders, .wq, .cipher, .siphon, .jrn] l)
    (hk : Frame l s z) (fn bar off v : Nat) :
    Frame l s (Machine.wordWrite fn bar off v z) := by
  unfold Machine.wordWrite
  repeat' first
    | with_reducible assumption
    | exact hl.of rfl
    | (with_reducible apply Frame.pageOvfClear)
    | (with_reducible apply Frame.bar0Write)
    | (with_reducible apply Frame.msixWrite)
    | (with_reducible apply Frame.ite)

theorem Frame.registerWrite {l : List Blk} {s z : State} (hl : Sub [.free, .counters, .mbx, .tables, .buf, .sched, .ep, .funcs, .polders, .wq, .cipher, .siphon, .jrn] l)
    (hk : Frame l s z) (fn bar off size value : Nat) :
    Frame l s (Machine.registerWrite fn bar off size value z) := by
  unfold Machine.registerWrite
  repeat' first
    | with_reducible assumption
    | exact hl.of rfl
    | (with_reducible apply Frame.barMissed)
    | (with_reducible apply Frame.aerSet)
    | (with_reducible apply Frame.wordWrite)
    | (with_reducible apply Frame.ite)

end Sys2Proof
end

