-- ==== Sys2Proof/Laws/FrameExec.lean ====
section
/-! SUPPORT. Which blocks each command may change. -/

namespace Sys2Proof
open Machine

theorem RxWithin.judgeStaging {l : List Blk} (hl : Sub [.cipher, .siphon, .jrn] l) (g : Nat) (p : SPacket) (c : Channel) :
    RxWithin l (Machine.judgeStaging g p c) := by
  unfold Machine.judgeStaging
  repeat' first
    | with_reducible assumption
    | exact hl.of rfl
    | exact trivial
    | (with_reducible apply RxWithin.ite)
    | (refine RxWithin.take (fun _ _ _ => ?_))
    | (with_reducible apply Frame.ite)
    | (with_reducible apply Frame.stageData)
    | (with_reducible apply Frame.ite)
    | split

theorem RxWithin.judgeWrite {l : List Blk} (hl : Sub [.counters, .ep, .funcs, .polders, .wq, .siphon] l) (g : Nat) (p : SPacket) (z : State) (c : Channel) :
    RxWithin l (Machine.judgeWrite g p z c) := by
  unfold Machine.judgeWrite
  repeat' first
    | with_reducible assumption
    | exact hl.of rfl
    | exact trivial
    | (with_reducible apply RxWithin.ite)
    | (refine RxWithin.take (fun _ _ _ => ?_))
    | (with_reducible apply Frame.ite)
    | (with_reducible apply Frame.setChannel)
    | (with_reducible apply Frame.matchNotes)
    | (with_reducible apply Frame.regionWrite)
    | (with_reducible apply Frame.asmPut)
    | (with_reducible apply Frame.asmDrop)
    | (with_reducible apply Frame.setChannel)
    | (with_reducible apply Frame.ite)
    | split

theorem Frame.execBufOwnerRead {z : State} (r : Rq) {u : State} {l : List Blk}
    (hl : Sub [.counters, .dict, .mbx] l)
    (h : Machine.execBufOwnerRead r z = .next u) : Frame l z u := by
  have hk := Frame.refl l z
  unfold Machine.execBufOwnerRead at h
  simp only [Host.Outcome.next.injEq] at h
  subst h
  repeat' first
    | with_reducible assumption
    | exact hl.of rfl
    | (intro _ _ _ _)
    | (intro _ _ _)
    | (intro _ _)
    | (with_reducible apply Frame.ite_fst)
    | (with_reducible apply Frame.serveAction)

theorem Frame.execBufPolderOwner {z : State} (r : Rq) {u : State} {l : List Blk}
    (hl : Sub [.counters, .dict, .mbx] l)
    (h : Machine.execBufPolderOwner r z = .next u) : Frame l z u := by
  have hk := Frame.refl l z
  unfold Machine.execBufPolderOwner at h
  simp only [Host.Outcome.next.injEq] at h
  subst h
  repeat' first
    | with_reducible assumption
    | exact hl.of rfl
    | (intro _ _ _ _)
    | (intro _ _ _)
    | (intro _ _)
    | (with_reducible apply Frame.ite_fst)
    | (with_reducible apply Frame.serveAction)

theorem Frame.execBufErrorLatchClear {z : State} (r : Rq) {u : State} {l : List Blk}
    (hl : Sub [.counters, .dict, .mbx, .buf] l)
    (h : Machine.execBufErrorLatchClear r z = .next u) : Frame l z u := by
  have hk := Frame.refl l z
  unfold Machine.execBufErrorLatchClear at h
  simp only [Host.Outcome.next.injEq] at h
  subst h
  repeat' first
    | with_reducible assumption
    | exact hl.of rfl
    | (intro _ _ _ _)
    | (intro _ _ _)
    | (intro _ _)
    | (with_reducible apply Frame.ite_fst)
    | (with_reducible apply Frame.serveAction)
    | (with_reducible apply Frame.clearLatches)

theorem Frame.execHostOwnerRelease {z : State} (owner : Nat) {u : State} {l : List Blk}
    (hl : Sub [.buf] l)
    (h : Machine.execHostOwnerRelease owner z = .next u) : Frame l z u := by
  have hk := Frame.refl l z
  unfold Machine.execHostOwnerRelease at h
  simp only [Host.Outcome.next.injEq] at h
  subst h
  repeat' first
    | with_reducible assumption
    | exact hl.of rfl
    | (intro _ _ _ _)
    | (intro _ _ _)
    | (intro _ _)
    | (with_reducible apply Frame.ite_fst)
    | (with_reducible apply Frame.releaseOwner)

theorem Frame.execKeySlotInfo {z : State} (r : Rq) {u : State} {l : List Blk}
    (hl : Sub [.counters, .dict, .mbx] l)
    (h : Machine.execKeySlotInfo r z = .next u) : Frame l z u := by
  have hk := Frame.refl l z
  unfold Machine.execKeySlotInfo at h
  simp only [Host.Outcome.next.injEq] at h
  subst h
  repeat' first
    | with_reducible assumption
    | exact hl.of rfl
    | (intro _ _ _ _)
    | (intro _ _ _)
    | (intro _ _)
    | (with_reducible apply Frame.ite_fst)
    | (with_reducible apply Frame.serveAction)
    | split

theorem Frame.execCipherDispatch {z : State} (t : Nat) {u : State} {l : List Blk}
    (hl : Sub [.wq, .cipher, .jrn] l)
    (h : Machine.execCipherDispatch t z = .next u) : Frame l z u := by
  have hk := Frame.refl l z
  unfold Machine.execCipherDispatch at h
  simp only [Host.Outcome.next.injEq] at h
  subst h
  repeat' first
    | with_reducible assumption
    | exact hl.of rfl
    | (intro _ _ _ _)
    | (intro _ _ _)
    | (intro _ _)
    | (with_reducible apply Frame.ite_fst)
    | (with_reducible apply Frame.advance)
    | (with_reducible apply Frame.cipherDispatch)

theorem Frame.execCipherCoreFault {z : State} (t core : Nat) {u : State} {l : List Blk}
    (hl : Sub [.counters, .wq, .cipher, .jrn] l)
    (h : Machine.execCipherCoreFault t core z = .next u) : Frame l z u := by
  have hk := Frame.refl l z
  unfold Machine.execCipherCoreFault at h
  simp only [Host.Outcome.next.injEq] at h
  subst h
  repeat' first
    | with_reducible assumption
    | exact hl.of rfl
    | (intro _ _ _ _)
    | (intro _ _ _)
    | (intro _ _)
    | (with_reducible apply Frame.ite_fst)
    | (with_reducible apply Frame.advance)
    | (with_reducible apply Frame.coreFault)
    | (with_reducible apply Frame.ite)

theorem Frame.execGcmEncrypt {z : State} (t fn q : Nat) (params source : Option Bytes) {u : State} {l : List Blk}
    (hl : Sub [.counters, .buf, .ep, .funcs, .polders, .wq, .cipher] l)
    (h : Machine.execGcmEncrypt t fn q params source z = .next u) : Frame l z u := by
  have hk := Frame.refl l z
  unfold Machine.execGcmEncrypt at h
  simp only [Host.Outcome.next.injEq] at h
  subst h
  repeat' first
    | with_reducible assumption
    | exact hl.of rfl
    | (intro _ _ _ _)
    | (intro _ _ _)
    | (intro _ _)
    | (with_reducible apply Frame.ite_fst)
    | (with_reducible apply Frame.advance)
    | (with_reducible apply Frame.takeMessage)

theorem Frame.execGcmDecrypt {z : State} (t fn q : Nat) (params source : Option Bytes) {u : State} {l : List Blk}
    (hl : Sub [.counters, .buf, .ep, .funcs, .polders, .wq, .cipher] l)
    (h : Machine.execGcmDecrypt t fn q params source z = .next u) : Frame l z u := by
  have hk := Frame.refl l z
  unfold Machine.execGcmDecrypt at h
  simp only [Host.Outcome.next.injEq] at h
  subst h
  repeat' first
    | with_reducible assumption
    | exact hl.of rfl
    | (intro _ _ _ _)
    | (intro _ _ _)
    | (intro _ _)
    | (with_reducible apply Frame.ite_fst)
    | (with_reducible apply Frame.advance)
    | (with_reducible apply Frame.takeMessage)

theorem Frame.execGmacGenerate {z : State} (t fn q : Nat) (params source : Option Bytes) {u : State} {l : List Blk}
    (hl : Sub [.counters, .buf, .ep, .funcs, .polders, .wq, .cipher] l)
    (h : Machine.execGmacGenerate t fn q params source z = .next u) : Frame l z u := by
  have hk := Frame.refl l z
  unfold Machine.execGmacGenerate at h
  simp only [Host.Outcome.next.injEq] at h
  subst h
  repeat' first
    | with_reducible assumption
    | exact hl.of rfl
    | (intro _ _ _ _)
    | (intro _ _ _)
    | (intro _ _)
    | (with_reducible apply Frame.ite_fst)
    | (with_reducible apply Frame.advance)
    | (with_reducible apply Frame.takeMessage)

theorem Frame.execGmacVerify {z : State} (t fn q : Nat) (params source : Option Bytes) {u : State} {l : List Blk}
    (hl : Sub [.counters, .buf, .ep, .funcs, .polders, .wq, .cipher] l)
    (h : Machine.execGmacVerify t fn q params source z = .next u) : Frame l z u := by
  have hk := Frame.refl l z
  unfold Machine.execGmacVerify at h
  simp only [Host.Outcome.next.injEq] at h
  subst h
  repeat' first
    | with_reducible assumption
    | exact hl.of rfl
    | (intro _ _ _ _)
    | (intro _ _ _)
    | (intro _ _)
    | (with_reducible apply Frame.ite_fst)
    | (with_reducible apply Frame.advance)
    | (with_reducible apply Frame.takeMessage)

theorem Frame.execCtr {z : State} (t fn q : Nat) (params source : Option Bytes) {u : State} {l : List Blk}
    (hl : Sub [.counters, .buf, .ep, .funcs, .polders, .wq, .cipher] l)
    (h : Machine.execCtr t fn q params source z = .next u) : Frame l z u := by
  have hk := Frame.refl l z
  unfold Machine.execCtr at h
  simp only [Host.Outcome.next.injEq] at h
  subst h
  repeat' first
    | with_reducible assumption
    | exact hl.of rfl
    | (intro _ _ _ _)
    | (intro _ _ _)
    | (intro _ _)
    | (with_reducible apply Frame.ite_fst)
    | (with_reducible apply Frame.advance)
    | (with_reducible apply Frame.takeMessage)

theorem Frame.execXtsEncrypt {z : State} (t fn q : Nat) (params source : Option Bytes) {u : State} {l : List Blk}
    (hl : Sub [.counters, .buf, .ep, .funcs, .polders, .wq, .cipher] l)
    (h : Machine.execXtsEncrypt t fn q params source z = .next u) : Frame l z u := by
  have hk := Frame.refl l z
  unfold Machine.execXtsEncrypt at h
  simp only [Host.Outcome.next.injEq] at h
  subst h
  repeat' first
    | with_reducible assumption
    | exact hl.of rfl
    | (intro _ _ _ _)
    | (intro _ _ _)
    | (intro _ _)
    | (with_reducible apply Frame.ite_fst)
    | (with_reducible apply Frame.advance)
    | (with_reducible apply Frame.takeMessage)

theorem Frame.execXtsDecrypt {z : State} (t fn q : Nat) (params source : Option Bytes) {u : State} {l : List Blk}
    (hl : Sub [.counters, .buf, .ep, .funcs, .polders, .wq, .cipher] l)
    (h : Machine.execXtsDecrypt t fn q params source z = .next u) : Frame l z u := by
  have hk := Frame.refl l z
  unfold Machine.execXtsDecrypt at h
  simp only [Host.Outcome.next.injEq] at h
  subst h
  repeat' first
    | with_reducible assumption
    | exact hl.of rfl
    | (intro _ _ _ _)
    | (intro _ _ _)
    | (intro _ _)
    | (with_reducible apply Frame.ite_fst)
    | (with_reducible apply Frame.advance)
    | (with_reducible apply Frame.takeMessage)

theorem Frame.execUnwrap {z : State} (t fn q : Nat) (blob : Option Bytes) {u : State} {l : List Blk}
    (hl : Sub [.counters, .buf, .ep, .funcs, .polders, .wq, .cipher] l)
    (h : Machine.execUnwrap t fn q blob z = .next u) : Frame l z u := by
  have hk := Frame.refl l z
  unfold Machine.execUnwrap at h
  simp only [Host.Outcome.next.injEq] at h
  subst h
  repeat' first
    | with_reducible assumption
    | exact hl.of rfl
    | (intro _ _ _ _)
    | (intro _ _ _)
    | (intro _ _)
    | (with_reducible apply Frame.ite_fst)
    | (with_reducible apply Frame.advance)
    | (with_reducible apply Frame.unwrapOp)

theorem Frame.execWrap {z : State} (t fn q : Nat) (key : Option Bytes) {u : State} {l : List Blk}
    (hl : Sub [.counters, .buf, .ep, .funcs, .polders, .wq, .siphon] l)
    (h : Machine.execWrap t fn q key z = .next u) : Frame l z u := by
  have hk := Frame.refl l z
  unfold Machine.execWrap at h
  simp only [Host.Outcome.next.injEq] at h
  subst h
  repeat' first
    | with_reducible assumption
    | exact hl.of rfl
    | (intro _ _ _ _)
    | (intro _ _ _)
    | (intro _ _)
    | (with_reducible apply Frame.ite_fst)
    | (with_reducible apply Frame.advance)
    | (with_reducible apply Frame.wrapOp)

theorem Frame.execSlotClear {z : State} (t fn q : Nat) {u : State} {l : List Blk}
    (hl : Sub [.wq, .cipher] l)
    (h : Machine.execSlotClear t fn q z = .next u) : Frame l z u := by
  have hk := Frame.refl l z
  unfold Machine.execSlotClear at h
  simp only [Host.Outcome.next.injEq] at h
  subst h
  repeat' first
    | with_reducible assumption
    | exact hl.of rfl
    | (intro _ _ _ _)
    | (intro _ _ _)
    | (intro _ _)
    | (with_reducible apply Frame.ite_fst)
    | (with_reducible apply Frame.advance)
    | (with_reducible apply Frame.slotClear)

theorem Frame.execGateEntryChange {z : State} (t port : Nat) {u : State} {l : List Blk}
    (hl : Sub [.sched] l)
    (h : Machine.execGateEntryChange t port z = .next u) : Frame l z u := by
  have hk := Frame.refl l z
  unfold Machine.execGateEntryChange at h
  simp only [Host.Outcome.next.injEq] at h
  subst h
  repeat' first
    | with_reducible assumption
    | exact hl.of rfl
    | (intro _ _ _ _)
    | (intro _ _ _)
    | (intro _ _)
    | (with_reducible apply Frame.ite_fst)
    | (with_reducible apply Frame.setPsched)
    | (with_reducible apply Frame.advance)
    | (with_reducible apply Frame.setPsched)
    | (with_reducible apply Frame.ite)

theorem Frame.execGateConfigApply {z : State} (t port : Nat) {u : State} {l : List Blk}
    (hl : Sub [.counters, .buf, .sched, .ep, .funcs, .polders, .wq, .siphon] l)
    (h : Machine.execGateConfigApply t port z = .next u) : Frame l z u := by
  have hk := Frame.refl l z
  unfold Machine.execGateConfigApply at h
  simp only [Host.Outcome.next.injEq] at h
  subst h
  repeat' first
    | with_reducible assumption
    | exact hl.of rfl
    | (intro _ _ _ _)
    | (intro _ _ _)
    | (intro _ _)
    | (with_reducible apply Frame.ite_fst)
    | (with_reducible apply Frame.advance)
    | (with_reducible apply Frame.applyGates)
    | (with_reducible apply Frame.ite)
    | split

theorem Frame.execGateConfigChange {z : State} (r : Rq) {u : State} {l : List Blk}
    (hl : Sub [.boot, .counters, .dict, .mbx, .sched] l)
    (h : Machine.execGateConfigChange r z = .next u) : Frame l z u := by
  have hk := Frame.refl l z
  unfold Machine.execGateConfigChange at h
  simp only [Host.Outcome.next.injEq] at h
  subst h
  repeat' first
    | with_reducible assumption
    | exact hl.of rfl
    | (intro _ _ _ _)
    | (intro _ _ _)
    | (intro _ _)
    | (with_reducible apply Frame.ite_fst)
    | (with_reducible apply Frame.dikeLog)
    | (with_reducible apply Frame.serveAction)
    | (with_reducible apply Frame.gateChange)

theorem Frame.execQueueLatencyMax {z : State} (r : Rq) {u : State} {l : List Blk}
    (hl : Sub [.counters, .dict, .mbx, .sched] l)
    (h : Machine.execQueueLatencyMax r z = .next u) : Frame l z u := by
  have hk := Frame.refl l z
  unfold Machine.execQueueLatencyMax at h
  simp only [Host.Outcome.next.injEq] at h
  subst h
  repeat' first
    | with_reducible assumption
    | exact hl.of rfl
    | (intro _ _ _ _)
    | (intro _ _ _)
    | (intro _ _)
    | (with_reducible apply Frame.ite_fst)
    | (with_reducible apply Frame.setPsched)
    | (with_reducible apply Frame.serveAction)

theorem Frame.execWeirWrite {z : State} (r : Rq) {u : State} {l : List Blk}
    (hl : Sub [.boot, .counters, .dict, .mbx, .sched] l)
    (h : Machine.execWeirWrite r z = .next u) : Frame l z u := by
  have hk := Frame.refl l z
  unfold Machine.execWeirWrite at h
  simp only [Host.Outcome.next.injEq] at h
  subst h
  repeat' first
    | with_reducible assumption
    | exact hl.of rfl
    | (intro _ _ _ _)
    | (intro _ _ _)
    | (intro _ _)
    | (with_reducible apply Frame.ite_fst)
    | (with_reducible apply Frame.dikeLog)
    | (with_reducible apply Frame.serveAction)
    | (with_reducible apply Frame.weirWrite)
    | (with_reducible refine Frame.forEach _ (fun _ _ _ => ?_) ?_)

theorem Frame.execWeirRead {z : State} (r : Rq) {u : State} {l : List Blk}
    (hl : Sub [.counters, .dict, .mbx] l)
    (h : Machine.execWeirRead r z = .next u) : Frame l z u := by
  have hk := Frame.refl l z
  unfold Machine.execWeirRead at h
  simp only [Host.Outcome.next.injEq] at h
  subst h
  repeat' first
    | with_reducible assumption
    | exact hl.of rfl
    | (intro _ _ _ _)
    | (intro _ _ _)
    | (intro _ _)
    | (with_reducible apply Frame.ite_fst)
    | (with_reducible apply Frame.serveAction)

theorem Frame.execWeirUnblock {z : State} (r : Rq) {u : State} {l : List Blk}
    (hl : Sub [.boot, .counters, .dict, .mbx, .sched] l)
    (h : Machine.execWeirUnblock r z = .next u) : Frame l z u := by
  have hk := Frame.refl l z
  unfold Machine.execWeirUnblock at h
  simp only [Host.Outcome.next.injEq] at h
  subst h
  repeat' first
    | with_reducible assumption
    | exact hl.of rfl
    | (intro _ _ _ _)
    | (intro _ _ _)
    | (intro _ _)
    | (with_reducible apply Frame.ite_fst)
    | (with_reducible apply Frame.setWeir)
    | (with_reducible apply Frame.dikeLog)
    | (with_reducible apply Frame.serveAction)
    | (with_reducible refine Frame.forEach _ (fun _ _ _ => ?_) ?_)

theorem Frame.execWeirCounterClear {z : State} (r : Rq) {u : State} {l : List Blk}
    (hl : Sub [.boot, .counters, .dict, .mbx, .sched] l)
    (h : Machine.execWeirCounterClear r z = .next u) : Frame l z u := by
  have hk := Frame.refl l z
  unfold Machine.execWeirCounterClear at h
  simp only [Host.Outcome.next.injEq] at h
  subst h
  repeat' first
    | with_reducible assumption
    | exact hl.of rfl
    | (intro _ _ _ _)
    | (intro _ _ _)
    | (intro _ _)
    | (with_reducible apply Frame.ite_fst)
    | (with_reducible apply Frame.setWeir)
    | (with_reducible apply Frame.dikeLog)
    | (with_reducible apply Frame.serveAction)
    | (with_reducible refine Frame.forEach _ (fun _ _ _ => ?_) ?_)

theorem Frame.execStreamFilterWrite {z : State} (r : Rq) {u : State} {l : List Blk}
    (hl : Sub [.boot, .counters, .dict, .mbx, .sched] l)
    (h : Machine.execStreamFilterWrite r z = .next u) : Frame l z u := by
  have hk := Frame.refl l z
  unfold Machine.execStreamFilterWrite at h
  simp only [Host.Outcome.next.injEq] at h
  subst h
  repeat' first
    | with_reducible assumption
    | exact hl.of rfl
    | (intro _ _ _ _)
    | (intro _ _ _)
    | (intro _ _)
    | (with_reducible apply Frame.ite_fst)
    | (with_reducible apply Frame.setFilter)
    | (with_reducible apply Frame.dikeLogFields)
    | (with_reducible apply Frame.serveAction)

theorem Frame.execStreamFilterRead {z : State} (r : Rq) {u : State} {l : List Blk}
    (hl : Sub [.counters, .dict, .mbx] l)
    (h : Machine.execStreamFilterRead r z = .next u) : Frame l z u := by
  have hk := Frame.refl l z
  unfold Machine.execStreamFilterRead at h
  simp only [Host.Outcome.next.injEq] at h
  subst h
  repeat' first
    | with_reducible assumption
    | exact hl.of rfl
    | (intro _ _ _ _)
    | (intro _ _ _)
    | (intro _ _)
    | (with_reducible apply Frame.ite_fst)
    | (with_reducible apply Frame.serveAction)

theorem Frame.execFrrDebounceExpiry {z : State} (t port : Nat) (triggers : List (Nat × Nat)) {u : State} {l : List Blk}
    (hl : Sub [.counters, .ports, .tables, .buf, .sched, .ep, .funcs, .polders, .wq, .siphon] l)
    (h : Machine.execFrrDebounceExpiry t port triggers z = .next u) : Frame l z u := by
  have hk := Frame.refl l z
  unfold Machine.execFrrDebounceExpiry at h
  simp only [Host.Outcome.next.injEq] at h
  subst h
  repeat' first
    | with_reducible assumption
    | exact hl.of rfl
    | (intro _ _ _ _)
    | (intro _ _ _)
    | (intro _ _)
    | (with_reducible apply Frame.ite_fst)
    | (with_reducible apply Frame.advance)
    | (with_reducible apply Frame.debounceExpiry)
    | (with_reducible apply Frame.ite)

theorem Frame.execFrrConditionChange {z : State} (t port trigger : Nat) (w : Condition) {u : State} {l : List Blk}
    (hl : Sub [.counters, .ports, .tables, .buf, .sched, .ep, .funcs, .polders, .wq, .siphon] l)
    (h : Machine.execFrrConditionChange t port trigger w z = .next u) : Frame l z u := by
  have hk := Frame.refl l z
  unfold Machine.execFrrConditionChange at h
  simp only [Host.Outcome.next.injEq] at h
  subst h
  repeat' first
    | with_reducible assumption
    | exact hl.of rfl
    | (intro _ _ _ _)
    | (intro _ _ _)
    | (intro _ _)
    | (with_reducible apply Frame.ite_fst)
    | (with_reducible apply Frame.advance)
    | (with_reducible apply Frame.conditionChange)
    | (with_reducible apply Frame.fecCodeword)
    | (with_reducible refine Frame.forEach _ (fun _ _ _ => ?_) ?_)
    | (with_reducible apply Frame.ite)

theorem Frame.execFrrRevertHoldExpiry {z : State} (t port : Nat) {u : State} {l : List Blk}
    (hl : Sub [.ports] l)
    (h : Machine.execFrrRevertHoldExpiry t port z = .next u) : Frame l z u := by
  have hk := Frame.refl l z
  unfold Machine.execFrrRevertHoldExpiry at h
  simp only [Host.Outcome.next.injEq] at h
  subst h
  repeat' first
    | with_reducible assumption
    | exact hl.of rfl
    | (intro _ _ _ _)
    | (intro _ _ _)
    | (intro _ _)
    | (with_reducible apply Frame.ite_fst)
    | (with_reducible apply Frame.advance)
    | (with_reducible apply Frame.revert)
    | (with_reducible apply Frame.ite)

theorem Frame.execFrrRevert {z : State} (r : Rq) {u : State} {l : List Blk}
    (hl : Sub [.counters, .dict, .mbx, .ports] l)
    (h : Machine.execFrrRevert r z = .next u) : Frame l z u := by
  have hk := Frame.refl l z
  unfold Machine.execFrrRevert at h
  simp only [Host.Outcome.next.injEq] at h
  subst h
  repeat' first
    | with_reducible assumption
    | exact hl.of rfl
    | (intro _ _ _ _)
    | (intro _ _ _)
    | (intro _ _)
    | (with_reducible apply Frame.ite_fst)
    | (with_reducible apply Frame.serveAction)
    | (with_reducible apply Frame.revert)

theorem Frame.execLinkStateChange {z : State} (t port : Nat) (st : LinkSt) (w : LinkTerms) {u : State} {l : List Blk}
    (hl : Sub [.counters, .ports, .tables, .buf, .sched, .ep, .funcs, .polders, .wq, .siphon] l)
    (h : Machine.execLinkStateChange t port st w z = .next u) : Frame l z u := by
  have hk := Frame.refl l z
  unfold Machine.execLinkStateChange at h
  simp only [Host.Outcome.next.injEq] at h
  subst h
  repeat' first
    | with_reducible assumption
    | exact hl.of rfl
    | (intro _ _ _ _)
    | (intro _ _ _)
    | (intro _ _)
    | (with_reducible apply Frame.ite_fst)
    | (with_reducible apply Frame.advance)
    | (with_reducible apply Frame.setLink)
    | (with_reducible apply Frame.ite)

theorem Frame.execPortRetry {z : State} (t port : Nat) {u : State} {l : List Blk}
    (hl : Sub [.counters, .ports, .tables, .buf, .sched, .ep, .funcs, .polders, .wq, .siphon] l)
    (h : Machine.execPortRetry t port z = .next u) : Frame l z u := by
  have hk := Frame.refl l z
  unfold Machine.execPortRetry at h
  simp only [Host.Outcome.next.injEq] at h
  subst h
  repeat' first
    | with_reducible assumption
    | exact hl.of rfl
    | (intro _ _ _ _)
    | (intro _ _ _)
    | (intro _ _)
    | (with_reducible apply Frame.ite_fst)
    | (with_reducible apply Frame.setPort)
    | (with_reducible apply Frame.advance)
    | (with_reducible apply Frame.setLink)
    | (with_reducible apply Frame.setPort)
    | (with_reducible apply Frame.ite)

theorem Frame.execTimeSet {z : State} (r : Rq) {u : State} {l : List Blk}
    (hl : Sub [.counters, .dict, .mbx, .time, .buf, .sched, .ep, .funcs, .polders, .wq, .siphon] l)
    (h : Machine.execTimeSet r z = .next u) : Frame l z u := by
  have hk := Frame.refl l z
  unfold Machine.execTimeSet at h
  simp only [Host.Outcome.next.injEq] at h
  subst h
  repeat' first
    | with_reducible assumption
    | exact hl.of rfl
    | (intro _ _ _ _)
    | (intro _ _ _)
    | (intro _ _)
    | (with_reducible apply Frame.ite_fst)
    | (with_reducible apply Frame.serveAction)
    | (with_reducible apply Frame.stepTime)

theorem Frame.execTimeAdjust {z : State} (r : Rq) {u : State} {l : List Blk}
    (hl : Sub [.counters, .dict, .mbx, .time, .buf, .sched, .ep, .funcs, .polders, .wq, .siphon] l)
    (h : Machine.execTimeAdjust r z = .next u) : Frame l z u := by
  have hk := Frame.refl l z
  unfold Machine.execTimeAdjust at h
  simp only [Host.Outcome.next.injEq] at h
  subst h
  repeat' first
    | with_reducible assumption
    | exact hl.of rfl
    | (intro _ _ _ _)
    | (intro _ _ _)
    | (intro _ _)
    | (with_reducible apply Frame.ite_fst)
    | (with_reducible apply Frame.serveAction)
    | (with_reducible apply Frame.gatesAfterStep)
    | ((with_reducible apply Frame.modTime) <;> first | exact fun _ _ => rfl | exact fun h => hl.not rfl h | skip)

theorem Frame.execTimeSourceLost {z : State} (t : Nat) {u : State} {l : List Blk}
    (hl : Sub [.time] l)
    (h : Machine.execTimeSourceLost t z = .next u) : Frame l z u := by
  have hk := Frame.refl l z
  unfold Machine.execTimeSourceLost at h
  simp only [Host.Outcome.next.injEq] at h
  subst h
  repeat' first
    | with_reducible assumption
    | exact hl.of rfl
    | (intro _ _ _ _)
    | (intro _ _ _)
    | (intro _ _)
    | (with_reducible apply Frame.ite_fst)
    | (with_reducible apply Frame.advance)
    | (with_reducible apply Frame.loseSource)

theorem Frame.execPpsInEdge {z : State} (t : Nat) (rising : Bool) {u : State} {l : List Blk}
    (hl : Sub [.free, .dict, .time] l)
    (h : Machine.execPpsInEdge t rising z = .next u) : Frame l z u := by
  have hk := Frame.refl l z
  unfold Machine.execPpsInEdge at h
  simp only [Host.Outcome.next.injEq] at h
  subst h
  repeat' first
    | with_reducible assumption
    | exact hl.of rfl
    | (intro _ _ _ _)
    | (intro _ _ _)
    | (intro _ _)
    | (with_reducible apply Frame.ite_fst)
    | (with_reducible apply Frame.advance)
    | (with_reducible apply Frame.ppsIn)
    | (with_reducible apply Frame.ite)

theorem Frame.execPpsOutRise {z : State} (t : Nat) {u : State} {l : List Blk}
    (hl : Sub [.time] l)
    (h : Machine.execPpsOutRise t z = .next u) : Frame l z u := by
  have hk := Frame.refl l z
  unfold Machine.execPpsOutRise at h
  simp only [Host.Outcome.next.injEq] at h
  subst h
  repeat' first
    | with_reducible assumption
    | exact hl.of rfl
    | (intro _ _ _ _)
    | (intro _ _ _)
    | (intro _ _)
    | (with_reducible apply Frame.ite_fst)
    | (with_reducible apply Frame.advance)
    | ((with_reducible apply Frame.modTime) <;> first | exact fun _ _ => rfl | exact fun h => hl.not rfl h | skip)
    | (with_reducible apply Frame.ite)

theorem Frame.execPpsOutFall {z : State} (t : Nat) {u : State} {l : List Blk}
    (hl : Sub [.time] l)
    (h : Machine.execPpsOutFall t z = .next u) : Frame l z u := by
  have hk := Frame.refl l z
  unfold Machine.execPpsOutFall at h
  simp only [Host.Outcome.next.injEq] at h
  subst h
  repeat' first
    | with_reducible assumption
    | exact hl.of rfl
    | (intro _ _ _ _)
    | (intro _ _ _)
    | (intro _ _)
    | (with_reducible apply Frame.ite_fst)
    | (with_reducible apply Frame.advance)
    | ((with_reducible apply Frame.modTime) <;> first | exact fun _ _ => rfl | exact fun h => hl.not rfl h | skip)
    | (with_reducible apply Frame.ite)

theorem Frame.execFrerResetTimeout {z : State} (w : StreamAt) {u : State} {l : List Blk}
    (hl : Sub [.frer] l)
    (h : Machine.execFrerResetTimeout w z = .next u) : Frame l z u := by
  have hk := Frame.refl l z
  unfold Machine.execFrerResetTimeout at h
  simp only [Host.Outcome.next.injEq] at h
  subst h
  repeat' first
    | with_reducible assumption
    | exact hl.of rfl
    | (intro _ _ _ _)
    | (intro _ _ _)
    | (intro _ _)
    | (with_reducible apply Frame.ite_fst)
    | (with_reducible apply Frame.setFrer)
    | (with_reducible apply Frame.advance)
    | (with_reducible apply Frame.frerCount)
    | (with_reducible apply Frame.setFrer)
    | (with_reducible apply Frame.ite)

theorem Frame.execFrerStreamWrite {z : State} (r : Rq) {u : State} {l : List Blk}
    (hl : Sub [.boot, .counters, .dict, .mbx, .frer] l)
    (h : Machine.execFrerStreamWrite r z = .next u) : Frame l z u := by
  have hk := Frame.refl l z
  unfold Machine.execFrerStreamWrite at h
  simp only [Host.Outcome.next.injEq] at h
  subst h
  repeat' first
    | with_reducible assumption
    | exact hl.of rfl
    | (intro _ _ _ _)
    | (intro _ _ _)
    | (intro _ _)
    | (with_reducible apply Frame.ite_fst)
    | (with_reducible apply Frame.setFrer)
    | (with_reducible apply Frame.dikeLogFields)
    | (with_reducible apply Frame.serveAction)

theorem Frame.execFrerStreamRead {z : State} (r : Rq) {u : State} {l : List Blk}
    (hl : Sub [.counters, .dict, .mbx] l)
    (h : Machine.execFrerStreamRead r z = .next u) : Frame l z u := by
  have hk := Frame.refl l z
  unfold Machine.execFrerStreamRead at h
  simp only [Host.Outcome.next.injEq] at h
  subst h
  repeat' first
    | with_reducible assumption
    | exact hl.of rfl
    | (intro _ _ _ _)
    | (intro _ _ _)
    | (intro _ _)
    | (with_reducible apply Frame.ite_fst)
    | (with_reducible apply Frame.serveAction)

theorem Frame.execRuleWrite {z : State} (r : Rq) {u : State} {l : List Blk}
    (hl : Sub [.boot, .counters, .dict, .mbx, .cls] l)
    (h : Machine.execRuleWrite r z = .next u) : Frame l z u := by
  have hk := Frame.refl l z
  unfold Machine.execRuleWrite at h
  simp only [Host.Outcome.next.injEq] at h
  subst h
  repeat' first
    | with_reducible assumption
    | exact hl.of rfl
    | (intro _ _ _ _)
    | (intro _ _ _)
    | (intro _ _)
    | (with_reducible apply Frame.ite_fst)
    | (with_reducible apply Frame.dikeLogFields)
    | (with_reducible apply Frame.serveAction)
    | (with_reducible apply Frame.setBank)

theorem Frame.execRuleRead {z : State} (r : Rq) {u : State} {l : List Blk}
    (hl : Sub [.counters, .dict, .mbx] l)
    (h : Machine.execRuleRead r z = .next u) : Frame l z u := by
  have hk := Frame.refl l z
  unfold Machine.execRuleRead at h
  simp only [Host.Outcome.next.injEq] at h
  subst h
  repeat' first
    | with_reducible assumption
    | exact hl.of rfl
    | (intro _ _ _ _)
    | (intro _ _ _)
    | (intro _ _)
    | (with_reducible apply Frame.ite_fst)
    | (with_reducible apply Frame.serveAction)

theorem Frame.execRuleClearRange {z : State} (r : Rq) {u : State} {l : List Blk}
    (hl : Sub [.boot, .counters, .dict, .mbx, .cls] l)
    (h : Machine.execRuleClearRange r z = .next u) : Frame l z u := by
  have hk := Frame.refl l z
  unfold Machine.execRuleClearRange at h
  simp only [Host.Outcome.next.injEq] at h
  subst h
  repeat' first
    | with_reducible assumption
    | exact hl.of rfl
    | (intro _ _ _ _)
    | (intro _ _ _)
    | (intro _ _)
    | (with_reducible apply Frame.ite_fst)
    | (with_reducible apply Frame.dikeLogFields)
    | (with_reducible apply Frame.serveAction)
    | (with_reducible apply Frame.setBank)

theorem Frame.execRuleCounterRead {z : State} (r : Rq) {u : State} {l : List Blk}
    (hl : Sub [.counters, .dict, .mbx] l)
    (h : Machine.execRuleCounterRead r z = .next u) : Frame l z u := by
  have hk := Frame.refl l z
  unfold Machine.execRuleCounterRead at h
  simp only [Host.Outcome.next.injEq] at h
  subst h
  repeat' first
    | with_reducible assumption
    | exact hl.of rfl
    | (intro _ _ _ _)
    | (intro _ _ _)
    | (intro _ _)
    | (with_reducible apply Frame.ite_fst)
    | (with_reducible apply Frame.serveAction)

theorem Frame.execRuleCounterClear {z : State} (r : Rq) {u : State} {l : List Blk}
    (hl : Sub [.boot, .counters, .dict, .mbx, .cls] l)
    (h : Machine.execRuleCounterClear r z = .next u) : Frame l z u := by
  have hk := Frame.refl l z
  unfold Machine.execRuleCounterClear at h
  simp only [Host.Outcome.next.injEq] at h
  subst h
  repeat' first
    | with_reducible assumption
    | exact hl.of rfl
    | (intro _ _ _ _)
    | (intro _ _ _)
    | (intro _ _)
    | (with_reducible apply Frame.ite_fst)
    | (with_reducible apply Frame.dikeLogFields)
    | (with_reducible apply Frame.serveAction)
    | (with_reducible apply Frame.modCls)

theorem Frame.execParseStateWrite {z : State} (r : Rq) {u : State} {l : List Blk}
    (hl : Sub [.boot, .counters, .dict, .mbx, .cls] l)
    (h : Machine.execParseStateWrite r z = .next u) : Frame l z u := by
  have hk := Frame.refl l z
  unfold Machine.execParseStateWrite at h
  simp only [Host.Outcome.next.injEq] at h
  subst h
  repeat' first
    | with_reducible assumption
    | exact hl.of rfl
    | (intro _ _ _ _)
    | (intro _ _ _)
    | (intro _ _)
    | (with_reducible apply Frame.ite_fst)
    | (with_reducible apply Frame.dikeLogFields)
    | (with_reducible apply Frame.serveAction)
    | (with_reducible apply Frame.setBank)

theorem Frame.execTransitionWrite {z : State} (r : Rq) {u : State} {l : List Blk}
    (hl : Sub [.boot, .counters, .dict, .mbx, .cls] l)
    (h : Machine.execTransitionWrite r z = .next u) : Frame l z u := by
  have hk := Frame.refl l z
  unfold Machine.execTransitionWrite at h
  simp only [Host.Outcome.next.injEq] at h
  subst h
  repeat' first
    | with_reducible assumption
    | exact hl.of rfl
    | (intro _ _ _ _)
    | (intro _ _ _)
    | (intro _ _)
    | (with_reducible apply Frame.ite_fst)
    | (with_reducible apply Frame.dikeLogFields)
    | (with_reducible apply Frame.serveAction)
    | (with_reducible apply Frame.setBank)

theorem Frame.execKeyProfileWrite {z : State} (r : Rq) {u : State} {l : List Blk}
    (hl : Sub [.boot, .counters, .dict, .mbx, .cls] l)
    (h : Machine.execKeyProfileWrite r z = .next u) : Frame l z u := by
  have hk := Frame.refl l z
  unfold Machine.execKeyProfileWrite at h
  simp only [Host.Outcome.next.injEq] at h
  subst h
  repeat' first
    | with_reducible assumption
    | exact hl.of rfl
    | (intro _ _ _ _)
    | (intro _ _ _)
    | (intro _ _)
    | (with_reducible apply Frame.ite_fst)
    | (with_reducible apply Frame.dikeLogFields)
    | (with_reducible apply Frame.serveAction)
    | (with_reducible apply Frame.setBank)

theorem Frame.execClassMapWrite {z : State} (r : Rq) {u : State} {l : List Blk}
    (hl : Sub [.boot, .counters, .dict, .mbx, .cls] l)
    (h : Machine.execClassMapWrite r z = .next u) : Frame l z u := by
  have hk := Frame.refl l z
  unfold Machine.execClassMapWrite at h
  simp only [Host.Outcome.next.injEq] at h
  subst h
  repeat' first
    | with_reducible assumption
    | exact hl.of rfl
    | (intro _ _ _ _)
    | (intro _ _ _)
    | (intro _ _)
    | (with_reducible apply Frame.ite_fst)
    | (with_reducible apply Frame.dikeLogFields)
    | (with_reducible apply Frame.serveAction)
    | (with_reducible apply Frame.setBank)

theorem Frame.execProgramRead {z : State} (r : Rq) {u : State} {l : List Blk}
    (hl : Sub [.counters, .dict, .mbx] l)
    (h : Machine.execProgramRead r z = .next u) : Frame l z u := by
  have hk := Frame.refl l z
  unfold Machine.execProgramRead at h
  simp only [Host.Outcome.next.injEq] at h
  subst h
  repeat' first
    | with_reducible assumption
    | exact hl.of rfl
    | (intro _ _ _ _)
    | (intro _ _ _)
    | (intro _ _)
    | (with_reducible apply Frame.ite_fst)
    | (with_reducible apply Frame.serveAction)

theorem Frame.execBankSwap {z : State} (r : Rq) {u : State} {l : List Blk}
    (hl : Sub [.boot, .counters, .dict, .mbx, .cls] l)
    (h : Machine.execBankSwap r z = .next u) : Frame l z u := by
  have hk := Frame.refl l z
  unfold Machine.execBankSwap at h
  simp only [Host.Outcome.next.injEq] at h
  subst h
  repeat' first
    | with_reducible assumption
    | exact hl.of rfl
    | (intro _ _ _ _)
    | (intro _ _ _)
    | (intro _ _)
    | (with_reducible apply Frame.ite_fst)
    | (with_reducible apply Frame.dikeLogFields)
    | (with_reducible apply Frame.serveAction)
    | (with_reducible apply Frame.modCls)

theorem Frame.execBankRetire {z : State} (t die : Nat) {u : State} {l : List Blk}
    (hl : Sub [.cls] l)
    (h : Machine.execBankRetire t die z = .next u) : Frame l z u := by
  have hk := Frame.refl l z
  unfold Machine.execBankRetire at h
  simp only [Host.Outcome.next.injEq] at h
  subst h
  repeat' first
    | with_reducible assumption
    | exact hl.of rfl
    | (intro _ _ _ _)
    | (intro _ _ _)
    | (intro _ _)
    | (with_reducible apply Frame.ite_fst)
    | (with_reducible apply Frame.advance)
    | (with_reducible apply Frame.bankRetire)

theorem Frame.execReplicaWrite {z : State} (src dst : Nat) {u : State} {l : List Blk}
    (hl : Sub [.tables, .culv] l)
    (h : Machine.execReplicaWrite src dst z = .next u) : Frame l z u := by
  have hk := Frame.refl l z
  unfold Machine.execReplicaWrite at h
  simp only [Host.Outcome.next.injEq] at h
  subst h
  repeat' first
    | with_reducible assumption
    | exact hl.of rfl
    | (intro _ _ _ _)
    | (intro _ _ _)
    | (intro _ _)
    | (with_reducible apply Frame.ite_fst)
    | (with_reducible apply Frame.replicaWrite)

theorem Frame.execReplicaResyncDone {z : State} (die : Nat) {u : State} {l : List Blk}
    (hl : Sub [.tables] l)
    (h : Machine.execReplicaResyncDone die z = .next u) : Frame l z u := by
  have hk := Frame.refl l z
  unfold Machine.execReplicaResyncDone at h
  simp only [Host.Outcome.next.injEq] at h
  subst h
  repeat' first
    | with_reducible assumption
    | exact hl.of rfl
    | (intro _ _ _ _)
    | (intro _ _ _)
    | (intro _ _)
    | (with_reducible apply Frame.ite_fst)
    | (with_reducible apply Frame.copyReplica)
    | (with_reducible apply Frame.modTables)
    | (with_reducible apply Frame.ite)

theorem Frame.execHitNotice {z : State} (die : Nat) {u : State} {l : List Blk}
    (hl : Sub [.tables, .culv] l)
    (h : Machine.execHitNotice die z = .next u) : Frame l z u := by
  have hk := Frame.refl l z
  unfold Machine.execHitNotice at h
  simp only [Host.Outcome.next.injEq] at h
  subst h
  repeat' first
    | with_reducible assumption
    | exact hl.of rfl
    | (intro _ _ _ _)
    | (intro _ _ _)
    | (intro _ _)
    | (with_reducible apply Frame.ite_fst)
    | (with_reducible apply Frame.hitNotice)

theorem Frame.execLearn {z : State} (t die : Nat) {u : State} {l : List Blk}
    (hl : Sub [.counters, .tables, .culv] l)
    (h : Machine.execLearn t die z = .next u) : Frame l z u := by
  have hk := Frame.refl l z
  unfold Machine.execLearn at h
  simp only [Host.Outcome.next.injEq] at h
  subst h
  repeat' first
    | with_reducible assumption
    | exact hl.of rfl
    | (intro _ _ _ _)
    | (intro _ _ _)
    | (intro _ _)
    | (with_reducible apply Frame.ite_fst)
    | (with_reducible apply Frame.advance)
    | (with_reducible apply Frame.learn)

theorem Frame.execLearnFilterExpiry {z : State} (t : Nat) (w : FilterEntry) {u : State} {l : List Blk}
    (hl : Sub [.tables] l)
    (h : Machine.execLearnFilterExpiry t w z = .next u) : Frame l z u := by
  have hk := Frame.refl l z
  unfold Machine.execLearnFilterExpiry at h
  simp only [Host.Outcome.next.injEq] at h
  subst h
  repeat' first
    | with_reducible assumption
    | exact hl.of rfl
    | (intro _ _ _ _)
    | (intro _ _ _)
    | (intro _ _)
    | (with_reducible apply Frame.ite_fst)
    | (with_reducible apply Frame.advance)
    | (with_reducible apply Frame.learnFilterExpiry)

theorem Frame.execAgerVisit {z : State} (t index : Nat) {u : State} {l : List Blk}
    (hl : Sub [.counters, .tables] l)
    (h : Machine.execAgerVisit t index z = .next u) : Frame l z u := by
  have hk := Frame.refl l z
  unfold Machine.execAgerVisit at h
  simp only [Host.Outcome.next.injEq] at h
  subst h
  repeat' first
    | with_reducible assumption
    | exact hl.of rfl
    | (intro _ _ _ _)
    | (intro _ _ _)
    | (intro _ _)
    | (with_reducible apply Frame.ite_fst)
    | (with_reducible apply Frame.advance)
    | (with_reducible apply Frame.agerComes)

theorem Frame.execFlushSweep {z : State} (w : DieAt) {u : State} {l : List Blk}
    (hl : Sub [.tables] l)
    (h : Machine.execFlushSweep w z = .next u) : Frame l z u := by
  have hk := Frame.refl l z
  unfold Machine.execFlushSweep at h
  simp only [Host.Outcome.next.injEq] at h
  subst h
  repeat' first
    | with_reducible assumption
    | exact hl.of rfl
    | (intro _ _ _ _)
    | (intro _ _ _)
    | (intro _ _)
    | (with_reducible apply Frame.ite_fst)
    | (with_reducible apply Frame.advance)
    | (with_reducible apply Frame.flushSweep)

theorem Frame.execFlushSweepEnd {z : State} (w : DieAt) {u : State} {l : List Blk}
    (hl : Sub [.tables] l)
    (h : Machine.execFlushSweepEnd w z = .next u) : Frame l z u := by
  have hk := Frame.refl l z
  unfold Machine.execFlushSweepEnd at h
  simp only [Host.Outcome.next.injEq] at h
  subst h
  repeat' first
    | with_reducible assumption
    | exact hl.of rfl
    | (intro _ _ _ _)
    | (intro _ _ _)
    | (intro _ _)
    | (with_reducible apply Frame.ite_fst)
    | (with_reducible apply Frame.advance)
    | (with_reducible apply Frame.flushSweepEnd)

theorem Frame.execTblRead {z : State} (t table : Nat) (byIndex : Bool) (index : Nat) {u : State} {l : List Blk}
    (hl : Sub [.counters, .tables, .funcs] l)
    (h : Machine.execTblRead t table byIndex index z = .next u) : Frame l z u := by
  have hk := Frame.refl l z
  unfold Machine.execTblRead at h
  simp only [Host.Outcome.next.injEq] at h
  subst h
  repeat' first
    | with_reducible assumption
    | exact hl.of rfl
    | (intro _ _ _ _)
    | (intro _ _ _)
    | (intro _ _)
    | (with_reducible apply Frame.ite_fst)
    | (with_reducible apply Frame.advance)
    | (with_reducible apply Frame.tblCommand)
    | (with_reducible apply Frame.tblRun)

theorem Frame.execTblWrite {z : State} (t table : Nat) (byIndex : Bool) (index : Nat) {u : State} {l : List Blk}
    (hl : Sub [.counters, .tables, .funcs] l)
    (h : Machine.execTblWrite t table byIndex index z = .next u) : Frame l z u := by
  have hk := Frame.refl l z
  unfold Machine.execTblWrite at h
  simp only [Host.Outcome.next.injEq] at h
  subst h
  repeat' first
    | with_reducible assumption
    | exact hl.of rfl
    | (intro _ _ _ _)
    | (intro _ _ _)
    | (intro _ _)
    | (with_reducible apply Frame.ite_fst)
    | (with_reducible apply Frame.advance)
    | (with_reducible apply Frame.tblCommand)
    | (with_reducible apply Frame.tblRun)

theorem Frame.execTblDelete {z : State} (t table : Nat) (byIndex : Bool) (index : Nat) {u : State} {l : List Blk}
    (hl : Sub [.counters, .tables, .funcs] l)
    (h : Machine.execTblDelete t table byIndex index z = .next u) : Frame l z u := by
  have hk := Frame.refl l z
  unfold Machine.execTblDelete at h
  simp only [Host.Outcome.next.injEq] at h
  subst h
  repeat' first
    | with_reducible assumption
    | exact hl.of rfl
    | (intro _ _ _ _)
    | (intro _ _ _)
    | (intro _ _)
    | (with_reducible apply Frame.ite_fst)
    | (with_reducible apply Frame.advance)
    | (with_reducible apply Frame.tblCommand)
    | (with_reducible apply Frame.tblRun)

theorem Frame.execTblSearch {z : State} (t table : Nat) (byIndex : Bool) (index : Nat) {u : State} {l : List Blk}
    (hl : Sub [.counters, .tables, .funcs] l)
    (h : Machine.execTblSearch t table byIndex index z = .next u) : Frame l z u := by
  have hk := Frame.refl l z
  unfold Machine.execTblSearch at h
  simp only [Host.Outcome.next.injEq] at h
  subst h
  repeat' first
    | with_reducible assumption
    | exact hl.of rfl
    | (intro _ _ _ _)
    | (intro _ _ _)
    | (intro _ _)
    | (with_reducible apply Frame.ite_fst)
    | (with_reducible apply Frame.advance)
    | (with_reducible apply Frame.tblCommand)
    | (with_reducible apply Frame.tblRun)

theorem Frame.execFlushByDest {z : State} (t table : Nat) (byIndex : Bool) (index : Nat) {u : State} {l : List Blk}
    (hl : Sub [.counters, .tables, .funcs] l)
    (h : Machine.execFlushByDest t table byIndex index z = .next u) : Frame l z u := by
  have hk := Frame.refl l z
  unfold Machine.execFlushByDest at h
  simp only [Host.Outcome.next.injEq] at h
  subst h
  repeat' first
    | with_reducible assumption
    | exact hl.of rfl
    | (intro _ _ _ _)
    | (intro _ _ _)
    | (intro _ _)
    | (with_reducible apply Frame.ite_fst)
    | (with_reducible apply Frame.advance)
    | (with_reducible apply Frame.tblCommand)
    | (with_reducible apply Frame.tblRun)

theorem Frame.execAgeNow {z : State} (t table : Nat) (byIndex : Bool) (index : Nat) {u : State} {l : List Blk}
    (hl : Sub [.counters, .tables, .funcs] l)
    (h : Machine.execAgeNow t table byIndex index z = .next u) : Frame l z u := by
  have hk := Frame.refl l z
  unfold Machine.execAgeNow at h
  simp only [Host.Outcome.next.injEq] at h
  subst h
  repeat' first
    | with_reducible assumption
    | exact hl.of rfl
    | (intro _ _ _ _)
    | (intro _ _ _)
    | (intro _ _)
    | (with_reducible apply Frame.ite_fst)
    | (with_reducible apply Frame.advance)
    | (with_reducible apply Frame.tblCommand)
    | (with_reducible apply Frame.tblRun)

theorem Frame.execTblCommandComplete {z : State} (t : Nat) {u : State} {l : List Blk}
    (hl : Sub [.tables] l)
    (h : Machine.execTblCommandComplete t z = .next u) : Frame l z u := by
  have hk := Frame.refl l z
  unfold Machine.execTblCommandComplete at h
  simp only [Host.Outcome.next.injEq] at h
  subst h
  repeat' first
    | with_reducible assumption
    | exact hl.of rfl
    | (intro _ _ _ _)
    | (intro _ _ _)
    | (intro _ _)
    | (with_reducible apply Frame.ite_fst)
    | (with_reducible apply Frame.advance)
    | (with_reducible apply Frame.tblComplete)

theorem Frame.execVlanWrite {z : State} (r : Rq) {u : State} {l : List Blk}
    (hl : Sub [.boot, .counters, .dict, .mbx, .tables] l)
    (h : Machine.execVlanWrite r z = .next u) : Frame l z u := by
  have hk := Frame.refl l z
  unfold Machine.execVlanWrite at h
  simp only [Host.Outcome.next.injEq] at h
  subst h
  repeat' first
    | with_reducible assumption
    | exact hl.of rfl
    | (intro _ _ _ _)
    | (intro _ _ _)
    | (intro _ _)
    | (with_reducible apply Frame.ite_fst)
    | (with_reducible apply Frame.dikeLogFields)
    | (with_reducible apply Frame.serveAction)
    | (with_reducible apply Frame.modTables)

theorem Frame.execVlanRead {z : State} (r : Rq) {u : State} {l : List Blk}
    (hl : Sub [.counters, .dict, .mbx] l)
    (h : Machine.execVlanRead r z = .next u) : Frame l z u := by
  have hk := Frame.refl l z
  unfold Machine.execVlanRead at h
  simp only [Host.Outcome.next.injEq] at h
  subst h
  repeat' first
    | with_reducible assumption
    | exact hl.of rfl
    | (intro _ _ _ _)
    | (intro _ _ _)
    | (intro _ _)
    | (with_reducible apply Frame.ite_fst)
    | (with_reducible apply Frame.serveAction)

theorem Frame.execGroupWrite {z : State} (r : Rq) {u : State} {l : List Blk}
    (hl : Sub [.boot, .counters, .dict, .mbx, .tables] l)
    (h : Machine.execGroupWrite r z = .next u) : Frame l z u := by
  have hk := Frame.refl l z
  unfold Machine.execGroupWrite at h
  simp only [Host.Outcome.next.injEq] at h
  subst h
  repeat' first
    | with_reducible assumption
    | exact hl.of rfl
    | (intro _ _ _ _)
    | (intro _ _ _)
    | (intro _ _)
    | (with_reducible apply Frame.ite_fst)
    | (with_reducible apply Frame.dikeLogFields)
    | (with_reducible apply Frame.serveAction)
    | (with_reducible apply Frame.modTables)

theorem Frame.execGroupRead {z : State} (r : Rq) {u : State} {l : List Blk}
    (hl : Sub [.counters, .dict, .mbx] l)
    (h : Machine.execGroupRead r z = .next u) : Frame l z u := by
  have hk := Frame.refl l z
  unfold Machine.execGroupRead at h
  simp only [Host.Outcome.next.injEq] at h
  subst h
  repeat' first
    | with_reducible assumption
    | exact hl.of rfl
    | (intro _ _ _ _)
    | (intro _ _ _)
    | (intro _ _)
    | (with_reducible apply Frame.ite_fst)
    | (with_reducible apply Frame.serveAction)

theorem Frame.execTableClear {z : State} (r : Rq) {u : State} {l : List Blk}
    (hl : Sub [.boot, .counters, .dict, .mbx, .tables] l)
    (h : Machine.execTableClear r z = .next u) : Frame l z u := by
  have hk := Frame.refl l z
  unfold Machine.execTableClear at h
  simp only [Host.Outcome.next.injEq] at h
  subst h
  repeat' first
    | with_reducible assumption
    | exact hl.of rfl
    | (intro _ _ _ _)
    | (intro _ _ _)
    | (intro _ _)
    | (with_reducible apply Frame.ite_fst)
    | (with_reducible apply Frame.dikeLogFields)
    | (with_reducible apply Frame.serveAction)
    | (with_reducible apply Frame.clearTable)

theorem Frame.execFlitReceive {z : State} (c : Nat) (ok : Bool) {u : State} {l : List Blk}
    (hl : Sub [.culv] l)
    (h : Machine.execFlitReceive c ok z = .next u) : Frame l z u := by
  have hk := Frame.refl l z
  unfold Machine.execFlitReceive at h
  simp only [Host.Outcome.next.injEq] at h
  subst h
  repeat' first
    | with_reducible assumption
    | exact hl.of rfl
    | (intro _ _ _ _)
    | (intro _ _ _)
    | (intro _ _)
    | (with_reducible apply Frame.ite_fst)
    | (with_reducible apply Frame.flitReceive)
    | (with_reducible apply Frame.ite)

theorem Frame.execCulvertDown {z : State} (t c : Nat) {u : State} {l : List Blk}
    (hl : Sub [.counters, .buf, .ep, .funcs, .polders, .wq, .siphon, .culv] l)
    (h : Machine.execCulvertDown t c z = .next u) : Frame l z u := by
  have hk := Frame.refl l z
  unfold Machine.execCulvertDown at h
  simp only [Host.Outcome.next.injEq] at h
  subst h
  repeat' first
    | with_reducible assumption
    | exact hl.of rfl
    | (intro _ _ _ _)
    | (intro _ _ _)
    | (intro _ _)
    | (with_reducible apply Frame.ite_fst)
    | (with_reducible apply Frame.advance)
    | (with_reducible apply Frame.culvertDown)
    | (with_reducible apply Frame.ite)

theorem Frame.execCulvertRetrain {z : State} (t c : Nat) (up : Bool) {u : State} {l : List Blk}
    (hl : Sub [.tables, .culv] l)
    (h : Machine.execCulvertRetrain t c up z = .next u) : Frame l z u := by
  have hk := Frame.refl l z
  unfold Machine.execCulvertRetrain at h
  simp only [Host.Outcome.next.injEq] at h
  subst h
  repeat' first
    | with_reducible assumption
    | exact hl.of rfl
    | (intro _ _ _ _)
    | (intro _ _ _)
    | (intro _ _)
    | (with_reducible apply Frame.ite_fst)
    | (with_reducible apply Frame.advance)
    | (with_reducible apply Frame.culvertRetrain)
    | (with_reducible apply Frame.ite)

theorem Frame.execContextRequest {z : State} (t die : Nat) {u : State} {l : List Blk}
    (hl : Sub [.id, .counters, .flow, .buf, .ep, .funcs, .polders, .wq, .siphon, .culv] l)
    (h : Machine.execContextRequest t die z = .next u) : Frame l z u := by
  have hk := Frame.refl l z
  unfold Machine.execContextRequest at h
  simp only [Host.Outcome.next.injEq] at h
  subst h
  repeat' first
    | with_reducible assumption
    | exact hl.of rfl
    | (intro _ _ _ _)
    | (intro _ _ _)
    | (intro _ _)
    | (with_reducible apply Frame.ite_fst)
    | (with_reducible apply Frame.setFlowDie)
    | (with_reducible apply Frame.advance)
    | (with_reducible apply Frame.ctlCross)
    | (with_reducible apply Frame.serveRequest)
    | (with_reducible apply Frame.setFlowDie)
    | (with_reducible apply Frame.ite)
    | split

theorem Frame.execFetchIssue {z : State} (die : Nat) {u : State} {l : List Blk}
    (hl : Sub [.free, .counters, .flow] l)
    (h : Machine.execFetchIssue die z = .next u) : Frame l z u := by
  have hk := Frame.refl l z
  unfold Machine.execFetchIssue at h
  simp only [Host.Outcome.next.injEq] at h
  subst h
  repeat' first
    | with_reducible assumption
    | exact hl.of rfl
    | (intro _ _ _ _)
    | (intro _ _ _)
    | (intro _ _)
    | (with_reducible apply Frame.ite_fst)
    | (with_reducible apply Frame.fetchIssue)

theorem Frame.execFetchComplete {z : State} (t die slot : Nat) (eccError : Bool) {u : State} {l : List Blk}
    (hl : Sub [.id, .counters, .flow, .buf, .ep, .funcs, .polders, .wq, .siphon, .culv] l)
    (h : Machine.execFetchComplete t die slot eccError z = .next u) : Frame l z u := by
  have hk := Frame.refl l z
  unfold Machine.execFetchComplete at h
  simp only [Host.Outcome.next.injEq] at h
  subst h
  repeat' first
    | with_reducible assumption
    | exact hl.of rfl
    | (intro _ _ _ _)
    | (intro _ _ _)
    | (intro _ _)
    | (with_reducible apply Frame.ite_fst)
    | (with_reducible apply Frame.advance)
    | (with_reducible apply Frame.eccError)
    | (with_reducible apply Frame.fetchComplete)

theorem Frame.execWriteBackReachesDdr4 {z : State} (die : Nat) {u : State} {l : List Blk}
    (hl : Sub [.flow] l)
    (h : Machine.execWriteBackReachesDdr4 die z = .next u) : Frame l z u := by
  have hk := Frame.refl l z
  unfold Machine.execWriteBackReachesDdr4 at h
  simp only [Host.Outcome.next.injEq] at h
  subst h
  repeat' first
    | with_reducible assumption
    | exact hl.of rfl
    | (intro _ _ _ _)
    | (intro _ _ _)
    | (intro _ _)
    | (with_reducible apply Frame.ite_fst)
    | (with_reducible apply Frame.setFlowDie)

theorem Frame.execFlowAgerVisit {z : State} (t ctx : Nat) {u : State} {l : List Blk}
    (hl : Sub [.counters, .flow, .buf, .wq] l)
    (h : Machine.execFlowAgerVisit t ctx z = .next u) : Frame l z u := by
  have hk := Frame.refl l z
  unfold Machine.execFlowAgerVisit at h
  simp only [Host.Outcome.next.injEq] at h
  subst h
  repeat' first
    | with_reducible assumption
    | exact hl.of rfl
    | (intro _ _ _ _)
    | (intro _ _ _)
    | (intro _ _)
    | (with_reducible apply Frame.ite_fst)
    | (with_reducible apply Frame.advance)
    | (with_reducible apply Frame.flowAgerVisit)

theorem Frame.execFlowWrite {z : State} (r : Rq) {u : State} {l : List Blk}
    (hl : Sub [.free, .boot, .counters, .dict, .mbx, .flow] l)
    (h : Machine.execFlowWrite r z = .next u) : Frame l z u := by
  have hk := Frame.refl l z
  unfold Machine.execFlowWrite at h
  simp only [Host.Outcome.next.injEq] at h
  subst h
  repeat' first
    | with_reducible assumption
    | exact hl.of rfl
    | (intro _ _ _ _)
    | (intro _ _ _)
    | (intro _ _)
    | (with_reducible apply Frame.ite_fst)
    | (with_reducible apply Frame.dikeLog)
    | (with_reducible apply Frame.serveAction)
    | (with_reducible apply Frame.flowWrite)
    | split

theorem Frame.execFlowRead {z : State} (r : Rq) {u : State} {l : List Blk}
    (hl : Sub [.counters, .dict, .mbx] l)
    (h : Machine.execFlowRead r z = .next u) : Frame l z u := by
  have hk := Frame.refl l z
  unfold Machine.execFlowRead at h
  simp only [Host.Outcome.next.injEq] at h
  subst h
  repeat' first
    | with_reducible assumption
    | exact hl.of rfl
    | (intro _ _ _ _)
    | (intro _ _ _)
    | (intro _ _)
    | (with_reducible apply Frame.ite_fst)
    | (with_reducible apply Frame.serveAction)

theorem Frame.execFlowDelete {z : State} (r : Rq) {u : State} {l : List Blk}
    (hl : Sub [.boot, .counters, .dict, .mbx, .flow] l)
    (h : Machine.execFlowDelete r z = .next u) : Frame l z u := by
  have hk := Frame.refl l z
  unfold Machine.execFlowDelete at h
  simp only [Host.Outcome.next.injEq] at h
  subst h
  repeat' first
    | with_reducible assumption
    | exact hl.of rfl
    | (intro _ _ _ _)
    | (intro _ _ _)
    | (intro _ _)
    | (with_reducible apply Frame.ite_fst)
    | (with_reducible apply Frame.dikeLog)
    | (with_reducible apply Frame.serveAction)
    | (with_reducible apply Frame.deleteCtx)

theorem Frame.execFlowPin {z : State} (r : Rq) {u : State} {l : List Blk}
    (hl : Sub [.free, .boot, .counters, .dict, .mbx, .flow] l)
    (h : Machine.execFlowPin r z = .next u) : Frame l z u := by
  have hk := Frame.refl l z
  unfold Machine.execFlowPin at h
  simp only [Host.Outcome.next.injEq] at h
  subst h
  repeat' first
    | with_reducible assumption
    | exact hl.of rfl
    | (intro _ _ _ _)
    | (intro _ _ _)
    | (intro _ _)
    | (with_reducible apply Frame.ite_fst)
    | (with_reducible apply Frame.dikeLog)
    | (with_reducible apply Frame.serveAction)
    | (refine Frame.pinCtx ?_ ?_ (by assumption))
    | split

theorem Frame.execFlowClear {z : State} (r : Rq) {u : State} {l : List Blk}
    (hl : Sub [.boot, .counters, .dict, .mbx, .flow] l)
    (h : Machine.execFlowClear r z = .next u) : Frame l z u := by
  have hk := Frame.refl l z
  unfold Machine.execFlowClear at h
  simp only [Host.Outcome.next.injEq] at h
  subst h
  repeat' first
    | with_reducible assumption
    | exact hl.of rfl
    | (intro _ _ _ _)
    | (intro _ _ _)
    | (intro _ _)
    | (with_reducible apply Frame.ite_fst)
    | (with_reducible apply Frame.dikeLogFields)
    | (with_reducible apply Frame.serveAction)
    | (with_reducible apply Frame.modFlow)

theorem Frame.execFlowClearComplete {z : State} (t : Nat) {u : State} {l : List Blk}
    (hl : Sub [.counters, .dict, .mbx, .flow] l)
    (h : Machine.execFlowClearComplete t z = .next u) : Frame l z u := by
  have hk := Frame.refl l z
  unfold Machine.execFlowClearComplete at h
  simp only [Host.Outcome.next.injEq] at h
  subst h
  repeat' first
    | with_reducible assumption
    | exact hl.of rfl
    | (intro _ _ _ _)
    | (intro _ _ _)
    | (intro _ _)
    | (with_reducible apply Frame.ite_fst)
    | (with_reducible apply Frame.advance)
    | (with_reducible apply Frame.answerAct)
    | (with_reducible apply Frame.clearContexts)
    | (with_reducible apply Frame.ite)

theorem Frame.execFrameReceive {z : State} (t port : Nat) (bytes : Bytes) (fcsOk : Bool) {u : State} {l : List Blk}
    (hl : Sub [.free, .id, .counters, .dict, .time, .frer, .cls, .tables, .flow, .buf, .sched, .ep, .funcs, .polders, .wq, .siphon, .culv] l)
    (h : Machine.execFrameReceive t port bytes fcsOk z = .next u) : Frame l z u := by
  have hk := Frame.refl l z
  unfold Machine.execFrameReceive at h
  simp only [Host.Outcome.next.injEq] at h
  subst h
  repeat' first
    | with_reducible assumption
    | exact hl.of rfl
    | (intro _ _ _ _)
    | (intro _ _ _)
    | (intro _ _)
    | (with_reducible apply Frame.ite_fst)
    | (with_reducible apply Frame.advance)
    | (with_reducible apply Frame.receiveFrame)
    | (with_reducible apply Frame.ite)

theorem Frame.execPtpMessage {z : State} (t port : Nat) (bytes : Bytes) {u : State} {l : List Blk}
    (hl : Sub [.free, .id, .counters, .dict, .time, .frer, .cls, .tables, .flow, .buf, .sched, .ep, .funcs, .polders, .wq, .siphon, .culv] l)
    (h : Machine.execPtpMessage t port bytes z = .next u) : Frame l z u := by
  have hk := Frame.refl l z
  unfold Machine.execPtpMessage at h
  simp only [Host.Outcome.next.injEq] at h
  subst h
  repeat' first
    | with_reducible assumption
    | exact hl.of rfl
    | (intro _ _ _ _)
    | (intro _ _ _)
    | (intro _ _)
    | (with_reducible apply Frame.ite_fst)
    | (with_reducible apply Frame.advance)
    | (with_reducible apply Frame.ptpMessage)
    | (with_reducible apply Frame.ite)

theorem Frame.execRecircPass {z : State} (t pipe : Nat) {u : State} {l : List Blk}
    (hl : Sub [.free, .id, .counters, .dict, .time, .frer, .cls, .tables, .flow, .buf, .sched, .ep, .funcs, .polders, .wq, .siphon, .culv] l)
    (h : Machine.execRecircPass t pipe z = .next u) : Frame l z u := by
  have hk := Frame.refl l z
  unfold Machine.execRecircPass at h
  simp only [Host.Outcome.next.injEq] at h
  subst h
  repeat' first
    | with_reducible assumption
    | exact hl.of rfl
    | (intro _ _ _ _)
    | (intro _ _ _)
    | (intro _ _)
    | (with_reducible apply Frame.ite_fst)
    | (with_reducible apply Frame.advance)
    | (with_reducible apply Frame.recircPass)

theorem Frame.execFrameEnqueue {z : State} (t ticket : Nat) (fault : BufFault) {u : State} {l : List Blk}
    (hl : Sub [.id, .counters, .buf, .sched, .ep, .funcs, .polders, .wq, .siphon, .culv] l)
    (h : Machine.execFrameEnqueue t ticket fault z = .next u) : Frame l z u := by
  have hk := Frame.refl l z
  unfold Machine.execFrameEnqueue at h
  simp only [Host.Outcome.next.injEq] at h
  subst h
  repeat' first
    | with_reducible assumption
    | exact hl.of rfl
    | (intro _ _ _ _)
    | (intro _ _ _)
    | (intro _ _)
    | (with_reducible apply Frame.ite_fst)
    | (with_reducible apply Frame.advance)
    | (with_reducible apply Frame.frameEnqueue)

theorem Frame.execInjectionFrame {z : State} (t port : Nat) (bytes : Bytes) {u : State} {l : List Blk}
    (hl : Sub [.id, .counters, .dict, .buf, .sched] l)
    (h : Machine.execInjectionFrame t port bytes z = .next u) : Frame l z u := by
  have hk := Frame.refl l z
  unfold Machine.execInjectionFrame at h
  simp only [Host.Outcome.next.injEq] at h
  subst h
  repeat' first
    | with_reducible assumption
    | exact hl.of rfl
    | (intro _ _ _ _)
    | (intro _ _ _)
    | (intro _ _)
    | (with_reducible apply Frame.ite_fst)
    | (with_reducible apply Frame.advance)
    | (with_reducible apply Frame.injectionFrame)
    | (with_reducible apply Frame.ite)

theorem Frame.execTxSelect {z : State} (t port : Nat) {u : State} {l : List Blk}
    (hl : Sub [.free, .counters, .frer, .buf, .sched, .ep, .funcs, .polders, .wq, .siphon] l)
    (h : Machine.execTxSelect t port z = .next u) : Frame l z u := by
  have hk := Frame.refl l z
  unfold Machine.execTxSelect at h
  simp only [Host.Outcome.next.injEq] at h
  subst h
  repeat' first
    | with_reducible assumption
    | exact hl.of rfl
    | (intro _ _ _ _)
    | (intro _ _ _)
    | (intro _ _)
    | (with_reducible apply Frame.ite_fst)
    | (with_reducible apply Frame.advance)
    | (with_reducible apply Frame.txSelect)
    | (with_reducible apply Frame.ite)

theorem Frame.execFrameTxComplete {z : State} (t port : Nat) (fault : BufFault) {u : State} {l : List Blk}
    (hl : Sub [.id, .counters, .dict, .buf, .sched, .ep, .funcs, .polders, .wq, .siphon] l)
    (h : Machine.execFrameTxComplete t port fault z = .next u) : Frame l z u := by
  have hk := Frame.refl l z
  unfold Machine.execFrameTxComplete at h
  simp only [Host.Outcome.next.injEq] at h
  subst h
  repeat' first
    | with_reducible assumption
    | exact hl.of rfl
    | (intro _ _ _ _)
    | (intro _ _ _)
    | (intro _ _)
    | (with_reducible apply Frame.ite_fst)
    | (with_reducible apply Frame.advance)
    | (with_reducible apply Frame.frameTxComplete)
    | (with_reducible apply Frame.ite)

theorem Frame.execHostTxSelect {z : State} (t die : Nat) {u : State} {l : List Blk}
    (hl : Sub [.id, .counters, .buf, .sched, .ep, .funcs, .polders, .wq, .siphon, .culv] l)
    (h : Machine.execHostTxSelect t die z = .next u) : Frame l z u := by
  have hk := Frame.refl l z
  unfold Machine.execHostTxSelect at h
  simp only [Host.Outcome.next.injEq] at h
  subst h
  repeat' first
    | with_reducible assumption
    | exact hl.of rfl
    | (intro _ _ _ _)
    | (intro _ _ _)
    | (intro _ _)
    | (with_reducible apply Frame.ite_fst)
    | (with_reducible apply Frame.advance)
    | (with_reducible apply Frame.hostTxSelect)
    | (with_reducible apply Frame.ite)

theorem Frame.execSamplePeriodExpiry {z : State} (t : Nat) (src : SampleSrc) {u : State} {l : List Blk}
    (hl : Sub [.counters, .buf, .sched, .ep, .funcs, .polders, .wq] l)
    (h : Machine.execSamplePeriodExpiry t src z = .next u) : Frame l z u := by
  have hk := Frame.refl l z
  unfold Machine.execSamplePeriodExpiry at h
  simp only [Host.Outcome.next.injEq] at h
  subst h
  repeat' first
    | with_reducible assumption
    | exact hl.of rfl
    | (intro _ _ _ _)
    | (intro _ _ _)
    | (intro _ _)
    | (with_reducible apply Frame.ite_fst)
    | (with_reducible apply Frame.advance)
    | (with_reducible apply Frame.samplePort)
    | (with_reducible apply Frame.sampleHost)
    | (with_reducible apply Frame.ite)
    | split

theorem Frame.execSiphonAckDelay {z : State} (t chan : Nat) {u : State} {l : List Blk}
    (hl : Sub [.free, .id, .counters, .buf, .ep, .funcs, .polders, .wq, .cipher, .siphon, .jrn, .culv] l)
    (h : Machine.execSiphonAckDelay t chan z = .next u) : Frame l z u := by
  have hk := Frame.refl l z
  unfold Machine.execSiphonAckDelay at h
  simp only [Host.Outcome.next.injEq] at h
  subst h
  repeat' first
    | with_reducible assumption
    | exact hl.of rfl
    | (intro _ _ _ _)
    | (intro _ _ _)
    | (intro _ _)
    | (with_reducible apply Frame.ite_fst)
    | (with_reducible apply Frame.advance)
    | (with_reducible apply Frame.sendAck)
    | (with_reducible apply Frame.ite)

theorem Frame.execSiphonCnpInterval {z : State} (t chan : Nat) {u : State} {l : List Blk}
    (hl : Sub [.free, .id, .counters, .buf, .ep, .funcs, .polders, .wq, .cipher, .siphon, .jrn, .culv] l)
    (h : Machine.execSiphonCnpInterval t chan z = .next u) : Frame l z u := by
  have hk := Frame.refl l z
  unfold Machine.execSiphonCnpInterval at h
  simp only [Host.Outcome.next.injEq] at h
  subst h
  repeat' first
    | with_reducible assumption
    | exact hl.of rfl
    | (intro _ _ _ _)
    | (intro _ _ _)
    | (intro _ _)
    | (with_reducible apply Frame.ite_fst)
    | (with_reducible apply Frame.advance)
    | (with_reducible apply Frame.sendCnp)
    | (with_reducible apply Frame.ite)

theorem Frame.execSiphonPathHold {z : State} (t chan path : Nat) {u : State} {l : List Blk}
    (hl : Sub [.siphon] l)
    (h : Machine.execSiphonPathHold t chan path z = .next u) : Frame l z u := by
  have hk := Frame.refl l z
  unfold Machine.execSiphonPathHold at h
  simp only [Host.Outcome.next.injEq] at h
  subst h
  repeat' first
    | with_reducible assumption
    | exact hl.of rfl
    | (intro _ _ _ _)
    | (intro _ _ _)
    | (intro _ _)
    | (with_reducible apply Frame.ite_fst)
    | (with_reducible apply Frame.advance)
    | (with_reducible apply Frame.setPath)
    | (with_reducible apply Frame.ite)
    | split

theorem Frame.execSiphonStepTimer {z : State} (t chan path : Nat) {u : State} {l : List Blk}
    (hl : Sub [.siphon] l)
    (h : Machine.execSiphonStepTimer t chan path z = .next u) : Frame l z u := by
  have hk := Frame.refl l z
  unfold Machine.execSiphonStepTimer at h
  simp only [Host.Outcome.next.injEq] at h
  subst h
  repeat' first
    | with_reducible assumption
    | exact hl.of rfl
    | (intro _ _ _ _)
    | (intro _ _ _)
    | (intro _ _)
    | (with_reducible apply Frame.ite_fst)
    | (with_reducible apply Frame.advance)
    | (with_reducible apply Frame.setPath)
    | (with_reducible apply Frame.ite)
    | split

theorem Frame.execSiphonPacketSend {z : State} (t chan : Nat) (payload : Option Bytes) {u : State} {l : List Blk}
    (hl : Sub [.free, .id, .counters, .buf, .ep, .funcs, .polders, .wq, .siphon, .culv] l)
    (h : Machine.execSiphonPacketSend t chan payload z = .next u) : Frame l z u := by
  have hk := Frame.refl l z
  unfold Machine.execSiphonPacketSend at h
  simp only [Host.Outcome.next.injEq] at h
  subst h
  repeat' first
    | with_reducible assumption
    | exact hl.of rfl
    | (intro _ _ _ _)
    | (intro _ _ _)
    | (intro _ _)
    | (with_reducible apply Frame.ite_fst)
    | (with_reducible apply Frame.advance)
    | (with_reducible apply Frame.siphonSend)

theorem Frame.execSiphonRtoExpiry {z : State} (t chan : Nat) {u : State} {l : List Blk}
    (hl : Sub [.counters, .wq, .cipher, .siphon, .jrn] l)
    (h : Machine.execSiphonRtoExpiry t chan z = .next u) : Frame l z u := by
  have hk := Frame.refl l z
  unfold Machine.execSiphonRtoExpiry at h
  simp only [Host.Outcome.next.injEq] at h
  subst h
  repeat' first
    | with_reducible assumption
    | exact hl.of rfl
    | (intro _ _ _ _)
    | (intro _ _ _)
    | (intro _ _)
    | (with_reducible apply Frame.ite_fst)
    | (with_reducible apply Frame.advance)
    | (with_reducible apply Frame.rtoExpiry)

theorem Frame.execSiphonWrite {z : State} (t fn q : Nat) (descriptor : Option Bytes) {u : State} {l : List Blk}
    (hl : Sub [.counters, .buf, .ep, .funcs, .polders, .wq, .siphon] l)
    (h : Machine.execSiphonWrite t fn q descriptor z = .next u) : Frame l z u := by
  have hk := Frame.refl l z
  unfold Machine.execSiphonWrite at h
  simp only [Host.Outcome.next.injEq] at h
  subst h
  repeat' first
    | with_reducible assumption
    | exact hl.of rfl
    | (intro _ _ _ _)
    | (intro _ _ _)
    | (intro _ _)
    | (with_reducible apply Frame.ite_fst)
    | (with_reducible apply Frame.advance)
    | (with_reducible apply Frame.siphonWriteOp)

theorem Frame.execSiphonWriteImm {z : State} (t fn q : Nat) (descriptor : Option Bytes) {u : State} {l : List Blk}
    (hl : Sub [.counters, .buf, .ep, .funcs, .polders, .wq, .siphon] l)
    (h : Machine.execSiphonWriteImm t fn q descriptor z = .next u) : Frame l z u := by
  have hk := Frame.refl l z
  unfold Machine.execSiphonWriteImm at h
  simp only [Host.Outcome.next.injEq] at h
  subst h
  repeat' first
    | with_reducible assumption
    | exact hl.of rfl
    | (intro _ _ _ _)
    | (intro _ _ _)
    | (intro _ _)
    | (with_reducible apply Frame.ite_fst)
    | (with_reducible apply Frame.advance)
    | (with_reducible apply Frame.siphonWriteImmOp)

theorem Frame.execSiphonRead {z : State} (t fn q : Nat) (descriptor : Option Bytes) {u : State} {l : List Blk}
    (hl : Sub [.counters, .buf, .ep, .funcs, .polders, .wq, .siphon] l)
    (h : Machine.execSiphonRead t fn q descriptor z = .next u) : Frame l z u := by
  have hk := Frame.refl l z
  unfold Machine.execSiphonRead at h
  simp only [Host.Outcome.next.injEq] at h
  subst h
  repeat' first
    | with_reducible assumption
    | exact hl.of rfl
    | (intro _ _ _ _)
    | (intro _ _ _)
    | (intro _ _)
    | (with_reducible apply Frame.ite_fst)
    | (with_reducible apply Frame.advance)
    | (with_reducible apply Frame.siphonReadOp)

theorem Frame.execJcmdSend {z : State} (t fn q : Nat) (capsule : Option Bytes) {u : State} {l : List Blk}
    (hl : Sub [.counters, .buf, .ep, .funcs, .polders, .wq, .siphon] l)
    (h : Machine.execJcmdSend t fn q capsule z = .next u) : Frame l z u := by
  have hk := Frame.refl l z
  unfold Machine.execJcmdSend at h
  simp only [Host.Outcome.next.injEq] at h
  subst h
  repeat' first
    | with_reducible assumption
    | exact hl.of rfl
    | (intro _ _ _ _)
    | (intro _ _ _)
    | (intro _ _)
    | (with_reducible apply Frame.ite_fst)
    | (with_reducible apply Frame.advance)
    | (with_reducible apply Frame.jcmdSendOp)

theorem Frame.execRecvNotify {z : State} (t fn q : Nat) {u : State} {l : List Blk}
    (hl : Sub [.wq, .siphon] l)
    (h : Machine.execRecvNotify t fn q z = .next u) : Frame l z u := by
  have hk := Frame.refl l z
  unfold Machine.execRecvNotify at h
  simp only [Host.Outcome.next.injEq] at h
  subst h
  repeat' first
    | with_reducible assumption
    | exact hl.of rfl
    | (intro _ _ _ _)
    | (intro _ _ _)
    | (intro _ _)
    | (with_reducible apply Frame.ite_fst)
    | (with_reducible apply Frame.advance)
    | (with_reducible apply Frame.recvNotify)

theorem Frame.execChannelModify {z : State} (t fn q : Nat) (record : Option Bytes) {u : State} {l : List Blk}
    (hl : Sub [.counters, .buf, .ep, .funcs, .polders, .wq, .cipher, .siphon, .jrn] l)
    (h : Machine.execChannelModify t fn q record z = .next u) : Frame l z u := by
  have hk := Frame.refl l z
  unfold Machine.execChannelModify at h
  simp only [Host.Outcome.next.injEq] at h
  subst h
  repeat' first
    | with_reducible assumption
    | exact hl.of rfl
    | (intro _ _ _ _)
    | (intro _ _ _)
    | (intro _ _)
    | (with_reducible apply Frame.ite_fst)
    | (with_reducible apply Frame.advance)
    | (with_reducible apply Frame.channelModifyOp)

theorem Frame.execChannelQuery {z : State} (t fn q : Nat) {u : State} {l : List Blk}
    (hl : Sub [.counters, .buf, .ep, .funcs, .polders, .wq, .siphon] l)
    (h : Machine.execChannelQuery t fn q z = .next u) : Frame l z u := by
  have hk := Frame.refl l z
  unfold Machine.execChannelQuery at h
  simp only [Host.Outcome.next.injEq] at h
  subst h
  repeat' first
    | with_reducible assumption
    | exact hl.of rfl
    | (intro _ _ _ _)
    | (intro _ _ _)
    | (intro _ _)
    | (with_reducible apply Frame.ite_fst)
    | (with_reducible apply Frame.advance)
    | (with_reducible apply Frame.channelQuery)

theorem Frame.execChannelInfo {z : State} (r : Rq) {u : State} {l : List Blk}
    (hl : Sub [.counters, .dict, .mbx] l)
    (h : Machine.execChannelInfo r z = .next u) : Frame l z u := by
  have hk := Frame.refl l z
  unfold Machine.execChannelInfo at h
  simp only [Host.Outcome.next.injEq] at h
  subst h
  repeat' first
    | with_reducible assumption
    | exact hl.of rfl
    | (intro _ _ _ _)
    | (intro _ _ _)
    | (intro _ _)
    | (with_reducible apply Frame.ite_fst)
    | (with_reducible apply Frame.serveAction)
    | split

theorem Frame.execRegionRegister {z : State} (t fn q : Nat) (record : Option Bytes) {u : State} {l : List Blk}
    (hl : Sub [.counters, .buf, .ep, .funcs, .polders, .wq, .siphon] l)
    (h : Machine.execRegionRegister t fn q record z = .next u) : Frame l z u := by
  have hk := Frame.refl l z
  unfold Machine.execRegionRegister at h
  simp only [Host.Outcome.next.injEq] at h
  subst h
  repeat' first
    | with_reducible assumption
    | exact hl.of rfl
    | (intro _ _ _ _)
    | (intro _ _ _)
    | (intro _ _)
    | (with_reducible apply Frame.ite_fst)
    | (with_reducible apply Frame.advance)
    | (with_reducible apply Frame.regionRegisterOp)

theorem Frame.execRegionRevoke {z : State} (t fn q : Nat) {u : State} {l : List Blk}
    (hl : Sub [.wq, .siphon] l)
    (h : Machine.execRegionRevoke t fn q z = .next u) : Frame l z u := by
  have hk := Frame.refl l z
  unfold Machine.execRegionRevoke at h
  simp only [Host.Outcome.next.injEq] at h
  subst h
  repeat' first
    | with_reducible assumption
    | exact hl.of rfl
    | (intro _ _ _ _)
    | (intro _ _ _)
    | (intro _ _)
    | (with_reducible apply Frame.ite_fst)
    | (with_reducible apply Frame.advance)
    | (with_reducible apply Frame.regionRevoke)

theorem Frame.execRevokeFence {z : State} (t fn q region : Nat) {u : State} {l : List Blk}
    (hl : Sub [.wq, .siphon] l)
    (h : Machine.execRevokeFence t fn q region z = .next u) : Frame l z u := by
  have hk := Frame.refl l z
  unfold Machine.execRevokeFence at h
  simp only [Host.Outcome.next.injEq] at h
  subst h
  repeat' first
    | with_reducible assumption
    | exact hl.of rfl
    | (intro _ _ _ _)
    | (intro _ _ _)
    | (intro _ _)
    | (with_reducible apply Frame.ite_fst)
    | (with_reducible apply Frame.advance)
    | (with_reducible apply Frame.revokeFence)

theorem Frame.execXferGrant {z : State} (t chan msg : Nat) {u : State} {l : List Blk}
    (hl : Sub [.siphon] l)
    (h : Machine.execXferGrant t chan msg z = .next u) : Frame l z u := by
  have hk := Frame.refl l z
  unfold Machine.execXferGrant at h
  simp only [Host.Outcome.next.injEq] at h
  subst h
  repeat' first
    | with_reducible assumption
    | exact hl.of rfl
    | (intro _ _ _ _)
    | (intro _ _ _)
    | (intro _ _)
    | (with_reducible apply Frame.ite_fst)
    | (with_reducible apply Frame.advance)
    | (with_reducible apply Frame.grantNext)

theorem Frame.execUnitAccept {z : State} (t unit : Nat) {u : State} {l : List Blk}
    (hl : Sub [.wq, .cipher, .siphon, .jrn] l)
    (h : Machine.execUnitAccept t unit z = .next u) : Frame l z u := by
  have hk := Frame.refl l z
  unfold Machine.execUnitAccept at h
  simp only [Host.Outcome.next.injEq] at h
  subst h
  repeat' first
    | with_reducible assumption
    | exact hl.of rfl
    | (intro _ _ _ _)
    | (intro _ _ _)
    | (intro _ _)
    | (with_reducible apply Frame.ite_fst)
    | (with_reducible apply Frame.advance)
    | (with_reducible apply Frame.unitAccept)

theorem Frame.execJournalWrite {z : State} (t : Nat) (src : JSrc) (data : Option Bytes) {u : State} {l : List Blk}
    (hl : Sub [.counters, .buf, .ep, .funcs, .polders, .wq, .cipher, .siphon, .jrn] l)
    (h : Machine.execJournalWrite t src data z = .next u) : Frame l z u := by
  have hk := Frame.refl l z
  unfold Machine.execJournalWrite at h
  simp only [Host.Outcome.next.injEq] at h
  subst h
  repeat' first
    | with_reducible assumption
    | exact hl.of rfl
    | (intro _ _ _ _)
    | (intro _ _ _)
    | (intro _ _)
    | (with_reducible apply Frame.ite_fst)
    | (with_reducible apply Frame.advance)
    | (with_reducible apply Frame.journalWriteOp)

theorem Frame.execJournalRead {z : State} (t : Nat) (src : JSrc) (badBlocks : List (Nat × Nat)) {u : State} {l : List Blk}
    (hl : Sub [.counters, .buf, .ep, .funcs, .polders, .wq, .siphon, .jrn] l)
    (h : Machine.execJournalRead t src badBlocks z = .next u) : Frame l z u := by
  have hk := Frame.refl l z
  unfold Machine.execJournalRead at h
  simp only [Host.Outcome.next.injEq] at h
  subst h
  repeat' first
    | with_reducible assumption
    | exact hl.of rfl
    | (intro _ _ _ _)
    | (intro _ _ _)
    | (intro _ _)
    | (with_reducible apply Frame.ite_fst)
    | (with_reducible apply Frame.advance)
    | (with_reducible apply Frame.jRun)
    | (with_reducible apply Frame.journalRead)

theorem Frame.execJournalFlush {z : State} (t : Nat) (src : JSrc) {u : State} {l : List Blk}
    (hl : Sub [.counters, .wq, .siphon, .jrn] l)
    (h : Machine.execJournalFlush t src z = .next u) : Frame l z u := by
  have hk := Frame.refl l z
  unfold Machine.execJournalFlush at h
  simp only [Host.Outcome.next.injEq] at h
  subst h
  repeat' first
    | with_reducible assumption
    | exact hl.of rfl
    | (intro _ _ _ _)
    | (intro _ _ _)
    | (intro _ _)
    | (with_reducible apply Frame.ite_fst)
    | (with_reducible apply Frame.advance)
    | (with_reducible apply Frame.jRun)
    | (with_reducible apply Frame.journalFlush)

theorem Frame.execDeallocate {z : State} (t : Nat) (src : JSrc) {u : State} {l : List Blk}
    (hl : Sub [.wq, .siphon, .jrn] l)
    (h : Machine.execDeallocate t src z = .next u) : Frame l z u := by
  have hk := Frame.refl l z
  unfold Machine.execDeallocate at h
  simp only [Host.Outcome.next.injEq] at h
  subst h
  repeat' first
    | with_reducible assumption
    | exact hl.of rfl
    | (intro _ _ _ _)
    | (intro _ _ _)
    | (intro _ _)
    | (with_reducible apply Frame.ite_fst)
    | (with_reducible apply Frame.advance)
    | (with_reducible apply Frame.jRun)
    | (with_reducible apply Frame.deallocate)

theorem Frame.execIdentify {z : State} (t : Nat) (src : JSrc) {u : State} {l : List Blk}
    (hl : Sub [.counters, .buf, .ep, .funcs, .polders, .wq, .siphon, .jrn] l)
    (h : Machine.execIdentify t src z = .next u) : Frame l z u := by
  have hk := Frame.refl l z
  unfold Machine.execIdentify at h
  simp only [Host.Outcome.next.injEq] at h
  subst h
  repeat' first
    | with_reducible assumption
    | exact hl.of rfl
    | (intro _ _ _ _)
    | (intro _ _ _)
    | (intro _ _)
    | (with_reducible apply Frame.ite_fst)
    | (with_reducible apply Frame.advance)
    | (with_reducible apply Frame.jRun)
    | (with_reducible apply Frame.identify)

theorem Frame.execLogRead {z : State} (t : Nat) (src : JSrc) {u : State} {l : List Blk}
    (hl : Sub [.counters, .buf, .ep, .funcs, .polders, .wq, .siphon, .jrn] l)
    (h : Machine.execLogRead t src z = .next u) : Frame l z u := by
  have hk := Frame.refl l z
  unfold Machine.execLogRead at h
  simp only [Host.Outcome.next.injEq] at h
  subst h
  repeat' first
    | with_reducible assumption
    | exact hl.of rfl
    | (intro _ _ _ _)
    | (intro _ _ _)
    | (intro _ _)
    | (with_reducible apply Frame.ite_fst)
    | (with_reducible apply Frame.advance)
    | (with_reducible apply Frame.jRun)
    | (with_reducible apply Frame.logRead)

theorem Frame.execJournalSelfTest {z : State} (t : Nat) (src : JSrc) {u : State} {l : List Blk}
    (hl : Sub [.wq, .siphon, .jrn] l)
    (h : Machine.execJournalSelfTest t src z = .next u) : Frame l z u := by
  have hk := Frame.refl l z
  unfold Machine.execJournalSelfTest at h
  simp only [Host.Outcome.next.injEq] at h
  subst h
  repeat' first
    | with_reducible assumption
    | exact hl.of rfl
    | (intro _ _ _ _)
    | (intro _ _ _)
    | (intro _ _)
    | (with_reducible apply Frame.ite_fst)
    | (with_reducible apply Frame.advance)
    | (with_reducible apply Frame.jRun)
    | (with_reducible apply Frame.journalSelfTest)

theorem Frame.execSelfTestStart {z : State} (r : Rq) {u : State} {l : List Blk}
    (hl : Sub [.counters, .dict, .mbx, .jrn] l)
    (h : Machine.execSelfTestStart r z = .next u) : Frame l z u := by
  have hk := Frame.refl l z
  unfold Machine.execSelfTestStart at h
  simp only [Host.Outcome.next.injEq] at h
  subst h
  repeat' first
    | with_reducible assumption
    | exact hl.of rfl
    | (intro _ _ _ _)
    | (intro _ _ _)
    | (intro _ _)
    | (with_reducible apply Frame.ite_fst)
    | (with_reducible apply Frame.serveAction)
    | (with_reducible apply Frame.testStart)

theorem Frame.execCartSelfTestResume {z : State} (t slot : Nat) {u : State} {l : List Blk}
    (hl : Sub [.jrn] l)
    (h : Machine.execCartSelfTestResume t slot z = .next u) : Frame l z u := by
  have hk := Frame.refl l z
  unfold Machine.execCartSelfTestResume at h
  simp only [Host.Outcome.next.injEq] at h
  subst h
  repeat' first
    | with_reducible assumption
    | exact hl.of rfl
    | (intro _ _ _ _)
    | (intro _ _ _)
    | (intro _ _)
    | (with_reducible apply Frame.ite_fst)
    | (with_reducible apply Frame.setCart)
    | (with_reducible apply Frame.advance)
    | (with_reducible apply Frame.setCart)
    | (with_reducible apply Frame.ite)

theorem Frame.execUnitDrain {z : State} (t : Nat) (w : Drained) {u : State} {l : List Blk}
    (hl : Sub [.wq, .siphon, .jrn] l)
    (h : Machine.execUnitDrain t w z = .next u) : Frame l z u := by
  have hk := Frame.refl l z
  unfold Machine.execUnitDrain at h
  simp only [Host.Outcome.next.injEq] at h
  subst h
  repeat' first
    | with_reducible assumption
    | exact hl.of rfl
    | (intro _ _ _ _)
    | (intro _ _ _)
    | (intro _ _)
    | (with_reducible apply Frame.ite_fst)
    | (with_reducible apply Frame.advance)
    | (with_reducible apply Frame.flushDone)
    | (with_reducible apply Frame.drainOne)
    | (with_reducible apply Frame.cartWear)
    | (with_reducible apply Frame.ite)

theorem Frame.execCartSelfTestDone {z : State} (t slot : Nat) (pass : Bool) (w : TestReport) {u : State} {l : List Blk}
    (hl : Sub [.jrn] l)
    (h : Machine.execCartSelfTestDone t slot pass w z = .next u) : Frame l z u := by
  have hk := Frame.refl l z
  unfold Machine.execCartSelfTestDone at h
  simp only [Host.Outcome.next.injEq] at h
  subst h
  repeat' first
    | with_reducible assumption
    | exact hl.of rfl
    | (intro _ _ _ _)
    | (intro _ _ _)
    | (intro _ _)
    | (with_reducible apply Frame.ite_fst)
    | (with_reducible apply Frame.advance)
    | (with_reducible apply Frame.testEnd)
    | (with_reducible apply Frame.cartWear)
    | (with_reducible apply Frame.ite)

theorem Frame.execJournalSanitize {z : State} (t : Nat) (src : JSrc) {u : State} {l : List Blk}
    (hl : Sub [.wq, .cipher, .siphon, .jrn] l)
    (h : Machine.execJournalSanitize t src z = .next u) : Frame l z u := by
  have hk := Frame.refl l z
  unfold Machine.execJournalSanitize at h
  simp only [Host.Outcome.next.injEq] at h
  subst h
  repeat' first
    | with_reducible assumption
    | exact hl.of rfl
    | (intro _ _ _ _)
    | (intro _ _ _)
    | (intro _ _)
    | (with_reducible apply Frame.ite_fst)
    | (with_reducible apply Frame.advance)
    | (with_reducible apply Frame.jRun)
    | (with_reducible apply Frame.journalSanitize)

theorem Frame.execSanitize {z : State} (r : Rq) {u : State} {l : List Blk}
    (hl : Sub [.counters, .dict, .mbx, .wq, .cipher, .siphon, .jrn] l)
    (h : Machine.execSanitize r z = .next u) : Frame l z u := by
  have hk := Frame.refl l z
  unfold Machine.execSanitize at h
  simp only [Host.Outcome.next.injEq] at h
  subst h
  repeat' first
    | with_reducible assumption
    | exact hl.of rfl
    | (intro _ _ _ _)
    | (intro _ _ _)
    | (intro _ _)
    | (with_reducible apply Frame.ite_fst)
    | (with_reducible apply Frame.serveAction)
    | (with_reducible apply Frame.sanitizeStart)

theorem Frame.execSanitizeComplete {z : State} (t slot : Nat) {u : State} {l : List Blk}
    (hl : Sub [.wq, .siphon, .jrn] l)
    (h : Machine.execSanitizeComplete t slot z = .next u) : Frame l z u := by
  have hk := Frame.refl l z
  unfold Machine.execSanitizeComplete at h
  simp only [Host.Outcome.next.injEq] at h
  subst h
  repeat' first
    | with_reducible assumption
    | exact hl.of rfl
    | (intro _ _ _ _)
    | (intro _ _ _)
    | (intro _ _)
    | (with_reducible apply Frame.ite_fst)
    | (with_reducible apply Frame.advance)
    | (with_reducible apply Frame.sanitizeComplete)
    | (with_reducible apply Frame.ite)

theorem Frame.execJournalFormat {z : State} (t : Nat) (src : JSrc) {u : State} {l : List Blk}
    (hl : Sub [.wq, .cipher, .siphon, .jrn] l)
    (h : Machine.execJournalFormat t src z = .next u) : Frame l z u := by
  have hk := Frame.refl l z
  unfold Machine.execJournalFormat at h
  simp only [Host.Outcome.next.injEq] at h
  subst h
  repeat' first
    | with_reducible assumption
    | exact hl.of rfl
    | (intro _ _ _ _)
    | (intro _ _ _)
    | (intro _ _)
    | (with_reducible apply Frame.ite_fst)
    | (with_reducible apply Frame.advance)
    | (with_reducible apply Frame.jRun)
    | (with_reducible apply Frame.journalFormat)

theorem Frame.execFormatComplete {z : State} (t ns : Nat) {u : State} {l : List Blk}
    (hl : Sub [.wq, .siphon, .jrn] l)
    (h : Machine.execFormatComplete t ns z = .next u) : Frame l z u := by
  have hk := Frame.refl l z
  unfold Machine.execFormatComplete at h
  simp only [Host.Outcome.next.injEq] at h
  subst h
  repeat' first
    | with_reducible assumption
    | exact hl.of rfl
    | (intro _ _ _ _)
    | (intro _ _ _)
    | (intro _ _)
    | (with_reducible apply Frame.ite_fst)
    | (with_reducible apply Frame.setSpace)
    | (with_reducible apply Frame.advance)
    | (with_reducible apply Frame.jEnd)
    | (with_reducible apply Frame.clearBlocks)
    | (with_reducible apply Frame.setSpace)
    | (with_reducible apply Frame.ite)
    | split

theorem Frame.execCartPrsntNFall {z : State} (t slot : Nat) {u : State} {l : List Blk}
    (hl : Sub [.jrn] l)
    (h : Machine.execCartPrsntNFall t slot z = .next u) : Frame l z u := by
  have hk := Frame.refl l z
  unfold Machine.execCartPrsntNFall at h
  simp only [Host.Outcome.next.injEq] at h
  subst h
  repeat' first
    | with_reducible assumption
    | exact hl.of rfl
    | (intro _ _ _ _)
    | (intro _ _ _)
    | (intro _ _)
    | (with_reducible apply Frame.ite_fst)
    | (with_reducible apply Frame.setCart)
    | (with_reducible apply Frame.advance)
    | (with_reducible apply Frame.setCart)
    | (with_reducible apply Frame.ite)

theorem Frame.execCartPresentDebounce {z : State} (t slot : Nat) {u : State} {l : List Blk}
    (hl : Sub [.jrn] l)
    (h : Machine.execCartPresentDebounce t slot z = .next u) : Frame l z u := by
  have hk := Frame.refl l z
  unfold Machine.execCartPresentDebounce at h
  simp only [Host.Outcome.next.injEq] at h
  subst h
  repeat' first
    | with_reducible assumption
    | exact hl.of rfl
    | (intro _ _ _ _)
    | (intro _ _ _)
    | (intro _ _)
    | (with_reducible apply Frame.ite_fst)
    | (with_reducible apply Frame.setCart)
    | (with_reducible apply Frame.advance)
    | (with_reducible apply Frame.setCart)
    | (with_reducible apply Frame.ite)

theorem Frame.execCartLinkTimeout {z : State} (t slot : Nat) {u : State} {l : List Blk}
    (hl : Sub [.jrn] l)
    (h : Machine.execCartLinkTimeout t slot z = .next u) : Frame l z u := by
  have hk := Frame.refl l z
  unfold Machine.execCartLinkTimeout at h
  simp only [Host.Outcome.next.injEq] at h
  subst h
  repeat' first
    | with_reducible assumption
    | exact hl.of rfl
    | (intro _ _ _ _)
    | (intro _ _ _)
    | (intro _ _)
    | (with_reducible apply Frame.ite_fst)
    | (with_reducible apply Frame.advance)
    | (with_reducible apply Frame.cartRefuse)
    | (with_reducible apply Frame.ite)

theorem Frame.execCartLinkTrained {z : State} (t slot : Nat) (identity challenge : Bytes) {u : State} {l : List Blk}
    (hl : Sub [.free, .jrn] l)
    (h : Machine.execCartLinkTrained t slot identity challenge z = .next u) : Frame l z u := by
  have hk := Frame.refl l z
  unfold Machine.execCartLinkTrained at h
  simp only [Host.Outcome.next.injEq] at h
  subst h
  repeat' first
    | with_reducible assumption
    | exact hl.of rfl
    | (intro _ _ _ _)
    | (intro _ _ _)
    | (intro _ _)
    | (with_reducible apply Frame.ite_fst)
    | (with_reducible apply Frame.setCart)
    | (with_reducible apply Frame.advance)
    | (with_reducible apply Frame.cartRefuse)
    | (with_reducible apply Frame.drawBytes)
    | (with_reducible apply Frame.setCart)
    | (with_reducible apply Frame.ite)

theorem Frame.execCartOnline {z : State} (t slot : Nat) (media : Option CartMedia) {u : State} {l : List Blk}
    (hl : Sub [.cipher, .jrn] l)
    (h : Machine.execCartOnline t slot media z = .next u) : Frame l z u := by
  have hk := Frame.refl l z
  unfold Machine.execCartOnline at h
  simp only [Host.Outcome.next.injEq] at h
  subst h
  repeat' first
    | with_reducible assumption
    | exact hl.of rfl
    | (intro _ _ _ _)
    | (intro _ _ _)
    | (intro _ _)
    | (with_reducible apply Frame.ite_fst)
    | (with_reducible apply Frame.advance)
    | (with_reducible apply Frame.cartOnline)
    | (with_reducible apply Frame.ite)

theorem Frame.execRebuildDone {z : State} (t slot : Nat) {u : State} {l : List Blk}
    (hl : Sub [.jrn] l)
    (h : Machine.execRebuildDone t slot z = .next u) : Frame l z u := by
  have hk := Frame.refl l z
  unfold Machine.execRebuildDone at h
  simp only [Host.Outcome.next.injEq] at h
  subst h
  repeat' first
    | with_reducible assumption
    | exact hl.of rfl
    | (intro _ _ _ _)
    | (intro _ _ _)
    | (intro _ _)
    | (with_reducible apply Frame.ite_fst)
    | (with_reducible apply Frame.setCart)
    | (with_reducible apply Frame.advance)
    | (with_reducible apply Frame.raiseCart)
    | (with_reducible apply Frame.settleSpaces)
    | (with_reducible apply Frame.setCart)
    | (with_reducible apply Frame.ite)

theorem Frame.execQuiesce {z : State} (r : Rq) {u : State} {l : List Blk}
    (hl : Sub [.counters, .dict, .mbx, .jrn] l)
    (h : Machine.execQuiesce r z = .next u) : Frame l z u := by
  have hk := Frame.refl l z
  unfold Machine.execQuiesce at h
  simp only [Host.Outcome.next.injEq] at h
  subst h
  repeat' first
    | with_reducible assumption
    | exact hl.of rfl
    | (intro _ _ _ _)
    | (intro _ _ _)
    | (intro _ _)
    | (with_reducible apply Frame.ite_fst)
    | (with_reducible apply Frame.setCart)
    | (with_reducible apply Frame.serveAction)
    | (with_reducible apply Frame.settleSpaces)
    | (with_reducible apply Frame.leaveMirror)
    | (with_reducible apply Frame.setCart)
    | (with_reducible apply Frame.ite)

theorem Frame.execCartQuiesced {z : State} (t slot : Nat) {u : State} {l : List Blk}
    (hl : Sub [.counters, .dict, .mbx, .jrn] l)
    (h : Machine.execCartQuiesced t slot z = .next u) : Frame l z u := by
  have hk := Frame.refl l z
  unfold Machine.execCartQuiesced at h
  simp only [Host.Outcome.next.injEq] at h
  subst h
  repeat' first
    | with_reducible assumption
    | exact hl.of rfl
    | (intro _ _ _ _)
    | (intro _ _ _)
    | (intro _ _)
    | (with_reducible apply Frame.ite_fst)
    | (with_reducible apply Frame.setCart)
    | (with_reducible apply Frame.advance)
    | (with_reducible apply Frame.answerAct)
    | (with_reducible apply Frame.raiseCart)
    | (with_reducible apply Frame.settleSpaces)
    | (with_reducible apply Frame.setCart)
    | (with_reducible apply Frame.ite)

theorem Frame.execCartRemoval {z : State} (t : Nat) (w : Removal) {u : State} {l : List Blk}
    (hl : Sub [.counters, .dict, .mbx, .wq, .cipher, .siphon, .jrn] l)
    (h : Machine.execCartRemoval t w z = .next u) : Frame l z u := by
  have hk := Frame.refl l z
  unfold Machine.execCartRemoval at h
  simp only [Host.Outcome.next.injEq] at h
  subst h
  repeat' first
    | with_reducible assumption
    | exact hl.of rfl
    | (intro _ _ _ _)
    | (intro _ _ _)
    | (intro _ _)
    | (with_reducible apply Frame.ite_fst)
    | (with_reducible apply Frame.advance)
    | (with_reducible apply Frame.cartRemoval)
    | (with_reducible apply Frame.ite)

theorem Frame.execNamespaceCreate {z : State} (r : Rq) {u : State} {l : List Blk}
    (hl : Sub [.counters, .dict, .mbx, .cipher, .jrn] l)
    (h : Machine.execNamespaceCreate r z = .next u) : Frame l z u := by
  have hk := Frame.refl l z
  unfold Machine.execNamespaceCreate at h
  simp only [Host.Outcome.next.injEq] at h
  subst h
  repeat' first
    | with_reducible assumption
    | exact hl.of rfl
    | (intro _ _ _ _)
    | (intro _ _ _)
    | (intro _ _)
    | (with_reducible apply Frame.ite_fst)
    | (with_reducible apply Frame.setSpace)
    | (with_reducible apply Frame.blobOr)
    | (with_reducible apply Frame.serveAction)
    | (with_reducible apply Frame.blobRefused)
    | (with_reducible apply Frame.nsTakeKey)
    | (with_reducible apply Frame.settleSpaces)
    | (with_reducible apply Frame.setSpace)
    | (with_reducible apply Frame.ite)
    | (with_reducible apply Frame.ite_fst)
    | (with_reducible apply Frame.ite_snd)
    | split

theorem Frame.execNamespaceDelete {z : State} (r : Rq) {u : State} {l : List Blk}
    (hl : Sub [.counters, .dict, .mbx, .wq, .cipher, .siphon, .jrn] l)
    (h : Machine.execNamespaceDelete r z = .next u) : Frame l z u := by
  have hk := Frame.refl l z
  unfold Machine.execNamespaceDelete at h
  simp only [Host.Outcome.next.injEq] at h
  subst h
  repeat' first
    | with_reducible assumption
    | exact hl.of rfl
    | (intro _ _ _ _)
    | (intro _ _ _)
    | (intro _ _)
    | (with_reducible apply Frame.ite_fst)
    | (with_reducible apply Frame.setSpace)
    | (with_reducible apply Frame.serveAction)
    | (with_reducible apply Frame.nsDropKey)
    | (with_reducible apply Frame.dropJob)
    | (with_reducible apply Frame.settleSpaces)
    | (with_reducible apply Frame.clearBlocks)
    | (with_reducible apply Frame.setSpace)
    | (with_reducible refine Frame.forEach _ (fun _ _ _ => ?_) ?_)

theorem Frame.execNamespaceRead {z : State} (r : Rq) {u : State} {l : List Blk}
    (hl : Sub [.counters, .dict, .mbx] l)
    (h : Machine.execNamespaceRead r z = .next u) : Frame l z u := by
  have hk := Frame.refl l z
  unfold Machine.execNamespaceRead at h
  simp only [Host.Outcome.next.injEq] at h
  subst h
  repeat' first
    | with_reducible assumption
    | exact hl.of rfl
    | (intro _ _ _ _)
    | (intro _ _ _)
    | (intro _ _)
    | (with_reducible apply Frame.ite_fst)
    | (with_reducible apply Frame.serveAction)

theorem Frame.execNamespaceAttach {z : State} (r : Rq) {u : State} {l : List Blk}
    (hl : Sub [.counters, .dict, .mbx, .jrn] l)
    (h : Machine.execNamespaceAttach r z = .next u) : Frame l z u := by
  have hk := Frame.refl l z
  unfold Machine.execNamespaceAttach at h
  simp only [Host.Outcome.next.injEq] at h
  subst h
  repeat' first
    | with_reducible assumption
    | exact hl.of rfl
    | (intro _ _ _ _)
    | (intro _ _ _)
    | (intro _ _)
    | (with_reducible apply Frame.ite_fst)
    | (with_reducible apply Frame.setSpace)
    | (with_reducible apply Frame.serveAction)

theorem Frame.execNamespaceDetach {z : State} (r : Rq) {u : State} {l : List Blk}
    (hl : Sub [.counters, .dict, .mbx, .jrn] l)
    (h : Machine.execNamespaceDetach r z = .next u) : Frame l z u := by
  have hk := Frame.refl l z
  unfold Machine.execNamespaceDetach at h
  simp only [Host.Outcome.next.injEq] at h
  subst h
  repeat' first
    | with_reducible assumption
    | exact hl.of rfl
    | (intro _ _ _ _)
    | (intro _ _ _)
    | (intro _ _)
    | (with_reducible apply Frame.ite_fst)
    | (with_reducible apply Frame.setSpace)
    | (with_reducible apply Frame.serveAction)

theorem Frame.execNamespaceKeyLoad {z : State} (r : Rq) {u : State} {l : List Blk}
    (hl : Sub [.counters, .dict, .mbx, .cipher, .jrn] l)
    (h : Machine.execNamespaceKeyLoad r z = .next u) : Frame l z u := by
  have hk := Frame.refl l z
  unfold Machine.execNamespaceKeyLoad at h
  simp only [Host.Outcome.next.injEq] at h
  subst h
  repeat' first
    | with_reducible assumption
    | exact hl.of rfl
    | (intro _ _ _ _)
    | (intro _ _ _)
    | (intro _ _)
    | (with_reducible apply Frame.ite_fst)
    | (with_reducible apply Frame.setSpace)
    | (with_reducible apply Frame.blobOr)
    | (with_reducible apply Frame.serveAction)
    | (with_reducible apply Frame.blobRefused)
    | (with_reducible apply Frame.nsDropKey)
    | (with_reducible apply Frame.nsTakeKey)
    | (with_reducible apply Frame.settleSpaces)
    | (with_reducible apply Frame.setSpace)
    | split

theorem Frame.execNamespaceFormat {z : State} (r : Rq) {u : State} {l : List Blk}
    (hl : Sub [.counters, .dict, .mbx, .wq, .cipher, .siphon, .jrn] l)
    (h : Machine.execNamespaceFormat r z = .next u) : Frame l z u := by
  have hk := Frame.refl l z
  unfold Machine.execNamespaceFormat at h
  simp only [Host.Outcome.next.injEq] at h
  subst h
  repeat' first
    | with_reducible assumption
    | exact hl.of rfl
    | (intro _ _ _ _)
    | (intro _ _ _)
    | (intro _ _)
    | (with_reducible apply Frame.ite_fst)
    | (with_reducible apply Frame.serveAction)
    | (with_reducible apply Frame.formatStart)

theorem Frame.execSiphonXferTimeout {z : State} (t chan msg : Nat) {u : State} {l : List Blk}
    (hl : Sub [.counters, .wq, .cipher, .siphon, .jrn] l)
    (h : Machine.execSiphonXferTimeout t chan msg z = .next u) : Frame l z u := by
  have hk := Frame.refl l z
  unfold Machine.execSiphonXferTimeout at h
  simp only [Host.Outcome.next.injEq] at h
  subst h
  repeat' first
    | with_reducible assumption
    | exact hl.of rfl
    | (intro _ _ _ _)
    | (intro _ _ _)
    | (intro _ _)
    | (with_reducible apply Frame.ite_fst)
    | (with_reducible apply Frame.advance)
    | (with_reducible apply Frame.xferTimeout)

theorem Frame.execCipherMessageDone {z : State} (t core : Nat) {u : State} {l : List Blk}
    (hl : Sub [.counters, .buf, .ep, .funcs, .polders, .wq, .cipher, .siphon, .jrn] l)
    (h : Machine.execCipherMessageDone t core z = .next u) : Frame l z u := by
  have hk := Frame.refl l z
  unfold Machine.execCipherMessageDone at h
  simp only [Host.Outcome.next.injEq] at h
  subst h
  repeat' first
    | with_reducible assumption
    | exact hl.of rfl
    | (intro _ _ _ _)
    | (intro _ _ _)
    | (intro _ _)
    | (with_reducible apply Frame.ite_fst)
    | (with_reducible apply Frame.advance)
    | (with_reducible apply Frame.cipherMessageDone)

theorem Frame.execSiphonRxWrite {z : State} (w : PacketAt) {u : State} {l : List Blk}
    (hl : Sub [.free, .id, .counters, .buf, .ep, .funcs, .polders, .wq, .cipher, .siphon, .jrn, .culv] l)
    (h : Machine.execSiphonRxWrite w z = .next u) : Frame l z u := by
  have hk := Frame.refl l z
  unfold Machine.execSiphonRxWrite at h
  simp only [Host.Outcome.next.injEq] at h
  subst h
  repeat' first
    | with_reducible assumption
    | exact hl.of rfl
    | exact trivial
    | (with_reducible apply RxWithin.ite)
    | (refine RxWithin.take (fun _ _ _ => ?_))
    | (with_reducible apply RxWithin.judgeStaging)
    | (with_reducible apply RxWithin.judgeWrite)
    | (refine fun (_ : Channel) => ?_)
    | (intro _ _ _ _)
    | (intro _ _ _)
    | (intro _ _)
    | (with_reducible apply Frame.ite_fst)
    | (with_reducible apply Frame.advance)
    | (with_reducible apply Frame.rxServe)
    | (with_reducible apply Frame.rxPsn)

theorem Frame.execSiphonRxWriteImm {z : State} (w : PacketAt) {u : State} {l : List Blk}
    (hl : Sub [.free, .id, .counters, .buf, .ep, .funcs, .polders, .wq, .cipher, .siphon, .jrn, .culv] l)
    (h : Machine.execSiphonRxWriteImm w z = .next u) : Frame l z u := by
  have hk := Frame.refl l z
  unfold Machine.execSiphonRxWriteImm at h
  simp only [Host.Outcome.next.injEq] at h
  subst h
  repeat' first
    | with_reducible assumption
    | exact hl.of rfl
    | exact trivial
    | (with_reducible apply RxWithin.ite)
    | (refine RxWithin.take (fun _ _ _ => ?_))
    | (with_reducible apply RxWithin.judgeStaging)
    | (with_reducible apply RxWithin.judgeWrite)
    | (refine fun (_ : Channel) => ?_)
    | (intro _ _ _ _)
    | (intro _ _ _)
    | (intro _ _)
    | (with_reducible apply Frame.ite_fst)
    | (with_reducible apply Frame.advance)
    | (with_reducible apply Frame.rxServe)
    | (with_reducible apply Frame.rxPsn)

theorem Frame.execSiphonRxReadReq {z : State} (w : PacketAt) {u : State} {l : List Blk}
    (hl : Sub [.free, .id, .counters, .buf, .ep, .funcs, .polders, .wq, .cipher, .siphon, .jrn, .culv] l)
    (h : Machine.execSiphonRxReadReq w z = .next u) : Frame l z u := by
  have hk := Frame.refl l z
  unfold Machine.execSiphonRxReadReq at h
  simp only [Host.Outcome.next.injEq] at h
  subst h
  repeat' first
    | with_reducible assumption
    | exact hl.of rfl
    | exact trivial
    | (with_reducible apply RxWithin.ite)
    | (refine RxWithin.take (fun _ _ _ => ?_))
    | (with_reducible apply RxWithin.judgeStaging)
    | (with_reducible apply RxWithin.judgeWrite)
    | (refine fun (_ : Channel) => ?_)
    | (intro _ _ _ _)
    | (intro _ _ _)
    | (intro _ _)
    | (with_reducible apply Frame.ite_fst)
    | (with_reducible apply Frame.setChannel)
    | (with_reducible apply Frame.advance)
    | (with_reducible apply Frame.rxServe)
    | (with_reducible apply Frame.rxPsn)
    | (with_reducible apply Frame.serveReads)
    | (with_reducible apply Frame.setChannel)
    | (with_reducible apply Frame.ite)
    | split

theorem Frame.execSiphonRxReadResp {z : State} (pk : PacketAt) {u : State} {l : List Blk}
    (hl : Sub [.free, .id, .counters, .buf, .ep, .funcs, .polders, .wq, .cipher, .siphon, .jrn, .culv] l)
    (h : Machine.execSiphonRxReadResp pk z = .next u) : Frame l z u := by
  have hk := Frame.refl l z
  unfold Machine.execSiphonRxReadResp at h
  simp only [Host.Outcome.next.injEq] at h
  subst h
  repeat' first
    | with_reducible assumption
    | exact hl.of rfl
    | exact trivial
    | (with_reducible apply RxWithin.ite)
    | (refine RxWithin.take (fun _ _ _ => ?_))
    | (with_reducible apply RxWithin.judgeStaging)
    | (with_reducible apply RxWithin.judgeWrite)
    | (refine fun (_ : Channel) => ?_)
    | (intro _ _ _ _)
    | (intro _ _ _)
    | (intro _ _)
    | (with_reducible apply Frame.ite_fst)
    | (with_reducible apply Frame.advance)
    | (with_reducible apply Frame.queueWrite)
    | (with_reducible apply Frame.rxServe)
    | (with_reducible apply Frame.rxPsn)
    | (with_reducible apply Frame.asmPut)
    | (with_reducible apply Frame.asmDrop)
    | (with_reducible apply Frame.readDone)
    | (with_reducible apply Frame.ite)
    | (with_reducible apply Frame.ite_fst)
    | (with_reducible apply Frame.ite_snd)
    | split

theorem Frame.execSiphonRxAck {z : State} (w : PacketAt) {u : State} {l : List Blk}
    (hl : Sub [.free, .id, .counters, .buf, .ep, .funcs, .polders, .wq, .cipher, .siphon, .jrn, .culv] l)
    (h : Machine.execSiphonRxAck w z = .next u) : Frame l z u := by
  have hk := Frame.refl l z
  unfold Machine.execSiphonRxAck at h
  simp only [Host.Outcome.next.injEq] at h
  subst h
  repeat' first
    | with_reducible assumption
    | exact hl.of rfl
    | (intro _ _ _ _)
    | (intro _ _ _)
    | (intro _ _)
    | (with_reducible apply Frame.ite_fst)
    | (with_reducible apply Frame.advance)
    | (with_reducible apply Frame.rxServe)
    | (with_reducible apply Frame.rxControl)
    | (with_reducible apply Frame.onAck)

theorem Frame.execSiphonRxNak {z : State} (w : PacketAt) {u : State} {l : List Blk}
    (hl : Sub [.free, .id, .counters, .buf, .ep, .funcs, .polders, .wq, .cipher, .siphon, .jrn, .culv] l)
    (h : Machine.execSiphonRxNak w z = .next u) : Frame l z u := by
  have hk := Frame.refl l z
  unfold Machine.execSiphonRxNak at h
  simp only [Host.Outcome.next.injEq] at h
  subst h
  repeat' first
    | with_reducible assumption
    | exact hl.of rfl
    | (intro _ _ _ _)
    | (intro _ _ _)
    | (intro _ _)
    | (with_reducible apply Frame.ite_fst)
    | (with_reducible apply Frame.advance)
    | (with_reducible apply Frame.sipCount)
    | (with_reducible apply Frame.channelError)
    | (with_reducible apply Frame.rxServe)
    | (with_reducible apply Frame.rxControl)

theorem Frame.execSiphonRxCnp {z : State} (w : PacketAt) {u : State} {l : List Blk}
    (hl : Sub [.free, .id, .counters, .buf, .ep, .funcs, .polders, .wq, .cipher, .siphon, .jrn, .culv] l)
    (h : Machine.execSiphonRxCnp w z = .next u) : Frame l z u := by
  have hk := Frame.refl l z
  unfold Machine.execSiphonRxCnp at h
  simp only [Host.Outcome.next.injEq] at h
  subst h
  repeat' first
    | with_reducible assumption
    | exact hl.of rfl
    | (intro _ _ _ _)
    | (intro _ _ _)
    | (intro _ _)
    | (with_reducible apply Frame.ite_fst)
    | (with_reducible apply Frame.advance)
    | (with_reducible apply Frame.sipCount)
    | (with_reducible apply Frame.onCnp)
    | (with_reducible apply Frame.rxServe)
    | (with_reducible apply Frame.rxControl)

theorem Frame.execSiphonRxJcmd {z : State} (w : PacketAt) {u : State} {l : List Blk}
    (hl : Sub [.free, .id, .counters, .buf, .ep, .funcs, .polders, .wq, .cipher, .siphon, .jrn, .culv] l)
    (h : Machine.execSiphonRxJcmd w z = .next u) : Frame l z u := by
  have hk := Frame.refl l z
  unfold Machine.execSiphonRxJcmd at h
  simp only [Host.Outcome.next.injEq] at h
  subst h
  repeat' first
    | with_reducible assumption
    | exact hl.of rfl
    | exact trivial
    | (with_reducible apply RxWithin.ite)
    | (refine RxWithin.take (fun _ _ _ => ?_))
    | (with_reducible apply RxWithin.judgeStaging)
    | (with_reducible apply RxWithin.judgeWrite)
    | (refine fun (_ : Channel) => ?_)
    | (intro _ _ _ _)
    | (intro _ _ _)
    | (intro _ _)
    | (with_reducible apply Frame.ite_fst)
    | (with_reducible apply Frame.setChannel)
    | (with_reducible apply Frame.countQ)
    | (with_reducible apply Frame.advance)
    | (with_reducible apply Frame.capRespond)
    | (with_reducible apply Frame.commandComes)
    | (with_reducible apply Frame.rxServe)
    | (with_reducible apply Frame.rxPsn)
    | (with_reducible apply Frame.setChannel)
    | (with_reducible apply Frame.ite)

theorem Frame.execSiphonRxXferRdy {z : State} (pk : PacketAt) {u : State} {l : List Blk}
    (hl : Sub [.free, .id, .counters, .buf, .ep, .funcs, .polders, .wq, .cipher, .siphon, .jrn, .culv] l)
    (h : Machine.execSiphonRxXferRdy pk z = .next u) : Frame l z u := by
  have hk := Frame.refl l z
  unfold Machine.execSiphonRxXferRdy at h
  simp only [Host.Outcome.next.injEq] at h
  subst h
  repeat' first
    | with_reducible assumption
    | exact hl.of rfl
    | exact trivial
    | (with_reducible apply RxWithin.ite)
    | (refine RxWithin.take (fun _ _ _ => ?_))
    | (with_reducible apply RxWithin.judgeStaging)
    | (with_reducible apply RxWithin.judgeWrite)
    | (refine fun (_ : Channel) => ?_)
    | (intro _ _ _ _)
    | (intro _ _ _)
    | (intro _ _)
    | (with_reducible apply Frame.ite_fst)
    | (with_reducible apply Frame.advance)
    | (with_reducible apply Frame.addReply)
    | (with_reducible apply Frame.rxServe)
    | (with_reducible apply Frame.rxPsn)
    | (with_reducible apply Frame.ite)
    | (with_reducible apply Frame.ite_fst)
    | (with_reducible apply Frame.ite_snd)
    | split

theorem Frame.execSiphonRxJrsp {z : State} (w : PacketAt) {u : State} {l : List Blk}
    (hl : Sub [.free, .id, .counters, .buf, .ep, .funcs, .polders, .wq, .cipher, .siphon, .jrn, .culv] l)
    (h : Machine.execSiphonRxJrsp w z = .next u) : Frame l z u := by
  have hk := Frame.refl l z
  unfold Machine.execSiphonRxJrsp at h
  simp only [Host.Outcome.next.injEq] at h
  subst h
  repeat' first
    | with_reducible assumption
    | exact hl.of rfl
    | exact trivial
    | (with_reducible apply RxWithin.ite)
    | (refine RxWithin.take (fun _ _ _ => ?_))
    | (with_reducible apply RxWithin.judgeStaging)
    | (with_reducible apply RxWithin.judgeWrite)
    | (refine fun (_ : Channel) => ?_)
    | (intro _ _ _ _)
    | (intro _ _ _)
    | (intro _ _)
    | (with_reducible apply Frame.ite_fst)
    | (with_reducible apply Frame.setChannel)
    | (with_reducible apply Frame.advance)
    | (with_reducible apply Frame.queueWrite)
    | (with_reducible apply Frame.finishChain)
    | (with_reducible apply Frame.rxServe)
    | (with_reducible apply Frame.rxPsn)
    | (with_reducible apply Frame.setChannel)
    | (with_reducible apply Frame.ite)
    | (with_reducible apply Frame.ite_fst)
    | (with_reducible apply Frame.ite_snd)
    | split

theorem Frame.execQNop {z : State} (fn q : Nat) {u : State} {l : List Blk}
    (hl : Sub [.funcs, .wq] l)
    (h : Machine.execQNop fn q z = .next u) : Frame l z u := by
  have hk := Frame.refl l z
  unfold Machine.execQNop at h
  simp only [Host.Outcome.next.injEq] at h
  subst h
  repeat' first
    | with_reducible assumption
    | exact hl.of rfl
    | (intro _ _ _ _)
    | (intro _ _ _)
    | (intro _ _)
    | (with_reducible apply Frame.ite_fst)
    | (with_reducible apply Frame.qctrl)

theorem Frame.execQLoad {z : State} (fn q word : Nat) {u : State} {l : List Blk}
    (hl : Sub [.funcs, .wq] l)
    (h : Machine.execQLoad fn q word z = .next u) : Frame l z u := by
  have hk := Frame.refl l z
  unfold Machine.execQLoad at h
  simp only [Host.Outcome.next.injEq] at h
  subst h
  repeat' first
    | with_reducible assumption
    | exact hl.of rfl
    | (intro _ _ _ _)
    | (intro _ _ _)
    | (intro _ _)
    | (with_reducible apply Frame.ite_fst)
    | (with_reducible apply Frame.qctrl)
    | (with_reducible apply Frame.qLoad)

theorem Frame.execQRead {z : State} (fn q word : Nat) {u : State} {l : List Blk}
    (hl : Sub [.funcs, .wq] l)
    (h : Machine.execQRead fn q word z = .next u) : Frame l z u := by
  have hk := Frame.refl l z
  unfold Machine.execQRead at h
  simp only [Host.Outcome.next.injEq] at h
  subst h
  repeat' first
    | with_reducible assumption
    | exact hl.of rfl
    | (intro _ _ _ _)
    | (intro _ _ _)
    | (intro _ _)
    | (with_reducible apply Frame.ite_fst)
    | (with_reducible apply Frame.qctrl)
    | (with_reducible apply Frame.qRead)

theorem Frame.execQEnable {z : State} (t fn q : Nat) {u : State} {l : List Blk}
    (hl : Sub [.funcs, .wq] l)
    (h : Machine.execQEnable t fn q z = .next u) : Frame l z u := by
  have hk := Frame.refl l z
  unfold Machine.execQEnable at h
  simp only [Host.Outcome.next.injEq] at h
  subst h
  repeat' first
    | with_reducible assumption
    | exact hl.of rfl
    | (intro _ _ _ _)
    | (intro _ _ _)
    | (intro _ _)
    | (with_reducible apply Frame.ite_fst)
    | (with_reducible apply Frame.advance)
    | (with_reducible apply Frame.qctrl)
    | (with_reducible apply Frame.qEnable)

theorem Frame.execQReset {z : State} (t fn q : Nat) {u : State} {l : List Blk}
    (hl : Sub [.counters, .buf, .sched, .ep, .funcs, .wq, .cipher, .siphon, .jrn] l)
    (h : Machine.execQReset t fn q z = .next u) : Frame l z u := by
  have hk := Frame.refl l z
  unfold Machine.execQReset at h
  simp only [Host.Outcome.next.injEq] at h
  subst h
  repeat' first
    | with_reducible assumption
    | exact hl.of rfl
    | (intro _ _ _ _)
    | (intro _ _ _)
    | (intro _ _)
    | (with_reducible apply Frame.ite_fst)
    | (with_reducible apply Frame.advance)
    | (with_reducible apply Frame.qctrl)
    | (with_reducible apply Frame.qReset)

theorem Frame.execQDisable {z : State} (t fn q : Nat) {u : State} {l : List Blk}
    (hl : Sub [.counters, .buf, .ep, .funcs, .wq] l)
    (h : Machine.execQDisable t fn q z = .next u) : Frame l z u := by
  have hk := Frame.refl l z
  unfold Machine.execQDisable at h
  simp only [Host.Outcome.next.injEq] at h
  subst h
  repeat' first
    | with_reducible assumption
    | exact hl.of rfl
    | (intro _ _ _ _)
    | (intro _ _ _)
    | (intro _ _)
    | (with_reducible apply Frame.ite_fst)
    | (with_reducible apply Frame.advance)
    | (with_reducible apply Frame.qctrl)
    | (with_reducible apply Frame.qDisable)

theorem Frame.execTailDoorbell {z : State} (t fn q index : Nat) {u : State} {l : List Blk}
    (hl : Sub [.counters, .buf, .funcs, .polders, .wq] l)
    (h : Machine.execTailDoorbell t fn q index z = .next u) : Frame l z u := by
  have hk := Frame.refl l z
  unfold Machine.execTailDoorbell at h
  simp only [Host.Outcome.next.injEq] at h
  subst h
  repeat' first
    | with_reducible assumption
    | exact hl.of rfl
    | (intro _ _ _ _)
    | (intro _ _ _)
    | (intro _ _)
    | (with_reducible apply Frame.ite_fst)
    | (with_reducible apply Frame.advance)
    | (with_reducible apply Frame.tailDoorbell)

theorem Frame.execHeadDoorbell {z : State} (t fn q index : Nat) {u : State} {l : List Blk}
    (hl : Sub [.counters, .buf, .funcs, .polders, .wq] l)
    (h : Machine.execHeadDoorbell t fn q index z = .next u) : Frame l z u := by
  have hk := Frame.refl l z
  unfold Machine.execHeadDoorbell at h
  simp only [Host.Outcome.next.injEq] at h
  subst h
  repeat' first
    | with_reducible assumption
    | exact hl.of rfl
    | (intro _ _ _ _)
    | (intro _ _ _)
    | (intro _ _)
    | (with_reducible apply Frame.ite_fst)
    | (with_reducible apply Frame.advance)
    | (with_reducible apply Frame.headDoorbell)

theorem Frame.execEntryFetch {z : State} (t fn q count : Nat) (entries : Option (List Bytes)) {u : State} {l : List Blk}
    (hl : Sub [.counters, .buf, .ep, .funcs, .polders, .wq, .jrn] l)
    (h : Machine.execEntryFetch t fn q count entries z = .next u) : Frame l z u := by
  have hk := Frame.refl l z
  unfold Machine.execEntryFetch at h
  simp only [Host.Outcome.next.injEq] at h
  subst h
  repeat' first
    | with_reducible assumption
    | exact hl.of rfl
    | (intro _ _ _ _)
    | (intro _ _ _)
    | (intro _ _)
    | (with_reducible apply Frame.ite_fst)
    | (with_reducible apply Frame.count)
    | (with_reducible apply Frame.advance)
    | (with_reducible apply Frame.entryFetch)

theorem Frame.execChainDone {z : State} (t fn q : Nat) {u : State} {l : List Blk}
    (hl : Sub [.free, .counters, .buf, .ep, .funcs, .polders, .wq] l)
    (h : Machine.execChainDone t fn q z = .next u) : Frame l z u := by
  have hk := Frame.refl l z
  unfold Machine.execChainDone at h
  simp only [Host.Outcome.next.injEq] at h
  subst h
  repeat' first
    | with_reducible assumption
    | exact hl.of rfl
    | (intro _ _ _ _)
    | (intro _ _ _)
    | (intro _ _)
    | (with_reducible apply Frame.ite_fst)
    | (with_reducible apply Frame.advance)
    | (with_reducible apply Frame.finishOldest)
    | (with_reducible apply Frame.ite)

theorem Frame.execHeldRelease {z : State} (t fn q : Nat) {u : State} {l : List Blk}
    (hl : Sub [.counters, .buf, .ep, .funcs, .polders, .wq] l)
    (h : Machine.execHeldRelease t fn q z = .next u) : Frame l z u := by
  have hk := Frame.refl l z
  unfold Machine.execHeldRelease at h
  simp only [Host.Outcome.next.injEq] at h
  subst h
  repeat' first
    | with_reducible assumption
    | exact hl.of rfl
    | (intro _ _ _ _)
    | (intro _ _ _)
    | (intro _ _)
    | (with_reducible apply Frame.ite_fst)
    | (with_reducible apply Frame.advance)
    | (with_reducible apply Frame.heldRelease)

theorem Frame.execModTimeExpiry {z : State} (t fn q : Nat) {u : State} {l : List Blk}
    (hl : Sub [.wq] l)
    (h : Machine.execModTimeExpiry t fn q z = .next u) : Frame l z u := by
  have hk := Frame.refl l z
  unfold Machine.execModTimeExpiry at h
  simp only [Host.Outcome.next.injEq] at h
  subst h
  repeat' first
    | with_reducible assumption
    | exact hl.of rfl
    | (intro _ _ _ _)
    | (intro _ _ _)
    | (intro _ _)
    | (with_reducible apply Frame.ite_fst)
    | (with_reducible apply Frame.advance)
    | (with_reducible apply Frame.modTimer)

theorem Frame.execTxFrame {z : State} (t fn q : Nat) (frame : Option Bytes) {u : State} {l : List Blk}
    (hl : Sub [.counters, .buf, .sched, .ep, .funcs, .polders, .wq] l)
    (h : Machine.execTxFrame t fn q frame z = .next u) : Frame l z u := by
  have hk := Frame.refl l z
  unfold Machine.execTxFrame at h
  simp only [Host.Outcome.next.injEq] at h
  subst h
  repeat' first
    | with_reducible assumption
    | exact hl.of rfl
    | (intro _ _ _ _)
    | (intro _ _ _)
    | (intro _ _)
    | (with_reducible apply Frame.ite_fst)
    | (with_reducible apply Frame.advance)
    | (with_reducible apply Frame.txFrame)

theorem Frame.execRxBuf {z : State} (t fn q : Nat) {u : State} {l : List Blk}
    (hl : Sub [.wq] l)
    (h : Machine.execRxBuf t fn q z = .next u) : Frame l z u := by
  have hk := Frame.refl l z
  unfold Machine.execRxBuf at h
  simp only [Host.Outcome.next.injEq] at h
  subst h
  repeat' first
    | with_reducible assumption
    | exact hl.of rfl
    | (intro _ _ _ _)
    | (intro _ _ _)
    | (intro _ _)
    | (with_reducible apply Frame.ite_fst)
    | (with_reducible apply Frame.advance)
    | (with_reducible apply Frame.rxBuf)

theorem Frame.execRxDeliver {z : State} (t fn : Nat) (w : Delivery) {u : State} {l : List Blk}
    (hl : Sub [.counters, .buf, .ep, .funcs, .polders, .wq, .siphon] l)
    (h : Machine.execRxDeliver t fn w z = .next u) : Frame l z u := by
  have hk := Frame.refl l z
  unfold Machine.execRxDeliver at h
  simp only [Host.Outcome.next.injEq] at h
  subst h
  repeat' first
    | with_reducible assumption
    | exact hl.of rfl
    | (intro _ _ _ _)
    | (intro _ _ _)
    | (intro _ _)
    | (with_reducible apply Frame.ite_fst)
    | (with_reducible apply Frame.advance)
    | (with_reducible apply Frame.rxDeliver)

theorem Frame.execQueueStatusRead {z : State} (r : Rq) {u : State} {l : List Blk}
    (hl : Sub [.counters, .dict, .mbx] l)
    (h : Machine.execQueueStatusRead r z = .next u) : Frame l z u := by
  have hk := Frame.refl l z
  unfold Machine.execQueueStatusRead at h
  simp only [Host.Outcome.next.injEq] at h
  subst h
  repeat' first
    | with_reducible assumption
    | exact hl.of rfl
    | (intro _ _ _ _)
    | (intro _ _ _)
    | (intro _ _)
    | (with_reducible apply Frame.ite_fst)
    | (with_reducible apply Frame.serveAction)

theorem Frame.execCompletionTimeout {z : State} (t tag : Nat) {u : State} {l : List Blk}
    (hl : Sub [.counters, .buf, .ep, .funcs, .polders, .wq, .siphon] l)
    (h : Machine.execCompletionTimeout t tag z = .next u) : Frame l z u := by
  have hk := Frame.refl l z
  unfold Machine.execCompletionTimeout at h
  simp only [Host.Outcome.next.injEq] at h
  subst h
  repeat' first
    | with_reducible assumption
    | exact hl.of rfl
    | (intro _ _ _ _)
    | (intro _ _ _)
    | (intro _ _)
    | (with_reducible apply Frame.ite_fst)
    | (with_reducible apply Frame.advance)
    | (with_reducible apply Frame.completionTimeout)

theorem Frame.execTagQuarantineEnd {z : State} (t tag : Nat) {u : State} {l : List Blk}
    (hl : Sub [.ep] l)
    (h : Machine.execTagQuarantineEnd t tag z = .next u) : Frame l z u := by
  have hk := Frame.refl l z
  unfold Machine.execTagQuarantineEnd at h
  simp only [Host.Outcome.next.injEq] at h
  subst h
  repeat' first
    | with_reducible assumption
    | exact hl.of rfl
    | (intro _ _ _ _)
    | (intro _ _ _)
    | (intro _ _)
    | (with_reducible apply Frame.ite_fst)
    | (with_reducible apply Frame.advance)
    | (with_reducible apply Frame.tagQuarantineEnd)

theorem Frame.execCompletionReceive {z : State} (t tag : Nat) (status : CplStatus) (data : Bytes) {u : State} {l : List Blk}
    (hl : Sub [.counters, .buf, .sched, .ep, .funcs, .polders, .wq, .cipher, .siphon, .jrn] l)
    (h : Machine.execCompletionReceive t tag status data z = .next u) : Frame l z u := by
  have hk := Frame.refl l z
  unfold Machine.execCompletionReceive at h
  simp only [Host.Outcome.next.injEq] at h
  subst h
  repeat' first
    | with_reducible assumption
    | exact hl.of rfl
    | (intro _ _ _ _)
    | (intro _ _ _)
    | (intro _ _)
    | (with_reducible apply Frame.ite_fst)
    | (with_reducible apply Frame.advance)
    | (with_reducible apply Frame.completionReceive)

theorem Frame.execMsixUnmask {z : State} (t fn vector : Nat) {u : State} {l : List Blk}
    (hl : Sub [.funcs] l)
    (h : Machine.execMsixUnmask t fn vector z = .next u) : Frame l z u := by
  have hk := Frame.refl l z
  unfold Machine.execMsixUnmask at h
  simp only [Host.Outcome.next.injEq] at h
  subst h
  repeat' first
    | with_reducible assumption
    | exact hl.of rfl
    | (intro _ _ _ _)
    | (intro _ _ _)
    | (intro _ _)
    | (with_reducible apply Frame.ite_fst)
    | (with_reducible apply Frame.advance)
    | (with_reducible apply Frame.msixUnmask)

theorem Frame.execMsixEnableWrite {z : State} (t fn : Nat) (v : Bool) {u : State} {l : List Blk}
    (hl : Sub [.funcs] l)
    (h : Machine.execMsixEnableWrite t fn v z = .next u) : Frame l z u := by
  have hk := Frame.refl l z
  unfold Machine.execMsixEnableWrite at h
  simp only [Host.Outcome.next.injEq] at h
  subst h
  repeat' first
    | with_reducible assumption
    | exact hl.of rfl
    | (intro _ _ _ _)
    | (intro _ _ _)
    | (intro _ _)
    | (with_reducible apply Frame.ite_fst)
    | (with_reducible apply Frame.advance)
    | (with_reducible apply Frame.msixEnableSet)
    | (with_reducible apply Frame.ite)

theorem Frame.execInterruptDisableWrite {z : State} (t : Nat) (v : Bool) {u : State} {l : List Blk}
    (hl : Sub [.funcs] l)
    (h : Machine.execInterruptDisableWrite t v z = .next u) : Frame l z u := by
  have hk := Frame.refl l z
  unfold Machine.execInterruptDisableWrite at h
  simp only [Host.Outcome.next.injEq] at h
  subst h
  repeat' first
    | with_reducible assumption
    | exact hl.of rfl
    | (intro _ _ _ _)
    | (intro _ _ _)
    | (intro _ _)
    | (with_reducible apply Frame.ite_fst)
    | (with_reducible apply Frame.advance)
    | (with_reducible apply Frame.intDisableSet)
    | (with_reducible apply Frame.ite)

theorem Frame.execBusMasterDisable {z : State} (t fn : Nat) {u : State} {l : List Blk}
    (hl : Sub [.counters, .buf, .sched, .ep, .funcs, .polders, .wq, .cipher, .siphon, .jrn] l)
    (h : Machine.execBusMasterDisable t fn z = .next u) : Frame l z u := by
  have hk := Frame.refl l z
  unfold Machine.execBusMasterDisable at h
  simp only [Host.Outcome.next.injEq] at h
  subst h
  repeat' first
    | with_reducible assumption
    | exact hl.of rfl
    | (intro _ _ _ _)
    | (intro _ _ _)
    | (intro _ _)
    | (with_reducible apply Frame.ite_fst)
    | (with_reducible apply Frame.advance)
    | (with_reducible apply Frame.busMasterOff)
    | (with_reducible apply Frame.ite)

theorem Frame.execFlrInitiate {z : State} (t fn : Nat) {u : State} {l : List Blk}
    (hl : Sub [.boot, .counters, .dict, .mbx, .tables, .buf, .sched, .ep, .funcs, .wq, .cipher, .siphon, .jrn] l)
    (h : Machine.execFlrInitiate t fn z = .next u) : Frame l z u := by
  have hk := Frame.refl l z
  unfold Machine.execFlrInitiate at h
  simp only [Host.Outcome.next.injEq] at h
  subst h
  repeat' first
    | with_reducible assumption
    | exact hl.of rfl
    | (intro _ _ _ _)
    | (intro _ _ _)
    | (intro _ _)
    | (with_reducible apply Frame.ite_fst)
    | (with_reducible apply Frame.advance)
    | (with_reducible apply Frame.flrInitiate)

theorem Frame.execFlrDrainCap {z : State} (t fn : Nat) {u : State} {l : List Blk}
    (hl : Sub [.free, .counters, .funcs, .polders] l)
    (h : Machine.execFlrDrainCap t fn z = .next u) : Frame l z u := by
  have hk := Frame.refl l z
  unfold Machine.execFlrDrainCap at h
  simp only [Host.Outcome.next.injEq] at h
  subst h
  repeat' first
    | with_reducible assumption
    | exact hl.of rfl
    | (intro _ _ _ _)
    | (intro _ _ _)
    | (intro _ _)
    | (with_reducible apply Frame.ite_fst)
    | (with_reducible apply Frame.advance)
    | (with_reducible apply Frame.flrDrainCap)

theorem Frame.execFlrComplete {z : State} (t fn : Nat) {u : State} {l : List Blk}
    (hl : Sub [.funcs] l)
    (h : Machine.execFlrComplete t fn z = .next u) : Frame l z u := by
  have hk := Frame.refl l z
  unfold Machine.execFlrComplete at h
  simp only [Host.Outcome.next.injEq] at h
  subst h
  repeat' first
    | with_reducible assumption
    | exact hl.of rfl
    | (intro _ _ _ _)
    | (intro _ _ _)
    | (intro _ _)
    | (with_reducible apply Frame.ite_fst)
    | (with_reducible apply Frame.advance)
    | (with_reducible apply Frame.flrComplete)

theorem Frame.execHotReset {z : State} (t : Nat) {u : State} {l : List Blk}
    (hl : Sub [.boot, .counters, .dict, .mbx, .tables, .buf, .sched, .ep, .funcs, .wq, .cipher, .siphon, .jrn] l)
    (h : Machine.execHotReset t z = .next u) : Frame l z u := by
  have hk := Frame.refl l z
  unfold Machine.execHotReset at h
  simp only [Host.Outcome.next.injEq] at h
  subst h
  repeat' first
    | with_reducible assumption
    | exact hl.of rfl
    | (intro _ _ _ _)
    | (intro _ _ _)
    | (intro _ _)
    | (with_reducible apply Frame.ite_fst)
    | (with_reducible apply Frame.advance)
    | (with_reducible apply Frame.hotReset)

theorem Frame.execLinkDown {z : State} (t : Nat) {u : State} {l : List Blk}
    (hl : Sub [.boot, .counters, .dict, .mbx, .tables, .buf, .sched, .ep, .funcs, .wq, .cipher, .siphon, .jrn] l)
    (h : Machine.execLinkDown t z = .next u) : Frame l z u := by
  have hk := Frame.refl l z
  unfold Machine.execLinkDown at h
  simp only [Host.Outcome.next.injEq] at h
  subst h
  repeat' first
    | with_reducible assumption
    | exact hl.of rfl
    | (intro _ _ _ _)
    | (intro _ _ _)
    | (intro _ _)
    | (with_reducible apply Frame.ite_fst)
    | (with_reducible apply Frame.advance)
    | (with_reducible apply Frame.linkDown)

theorem Frame.execLinkUp {z : State} (t speed width : Nat) (flit : Bool) {u : State} {l : List Blk}
    (hl : Sub [.ep] l)
    (h : Machine.execLinkUp t speed width flit z = .next u) : Frame l z u := by
  have hk := Frame.refl l z
  unfold Machine.execLinkUp at h
  simp only [Host.Outcome.next.injEq] at h
  subst h
  repeat' first
    | with_reducible assumption
    | exact hl.of rfl
    | (intro _ _ _ _)
    | (intro _ _ _)
    | (intro _ _)
    | (with_reducible apply Frame.ite_fst)
    | (with_reducible apply Frame.advance)
    | (with_reducible apply Frame.linkUp)

theorem Frame.execPowerStateWrite {z : State} (t fn state : Nat) {u : State} {l : List Blk}
    (hl : Sub [.counters, .buf, .funcs] l)
    (h : Machine.execPowerStateWrite t fn state z = .next u) : Frame l z u := by
  have hk := Frame.refl l z
  unfold Machine.execPowerStateWrite at h
  simp only [Host.Outcome.next.injEq] at h
  subst h
  repeat' first
    | with_reducible assumption
    | exact hl.of rfl
    | (intro _ _ _ _)
    | (intro _ _ _)
    | (intro _ _)
    | (with_reducible apply Frame.ite_fst)
    | (with_reducible apply Frame.advance)
    | (with_reducible apply Frame.powerStateSet)
    | (with_reducible apply Frame.ite)

theorem Frame.execVfEnable {z : State} (t numVfs : Nat) {u : State} {l : List Blk}
    (hl : Sub [.ep] l)
    (h : Machine.execVfEnable t numVfs z = .next u) : Frame l z u := by
  have hk := Frame.refl l z
  unfold Machine.execVfEnable at h
  simp only [Host.Outcome.next.injEq] at h
  subst h
  repeat' first
    | with_reducible assumption
    | exact hl.of rfl
    | (intro _ _ _ _)
    | (intro _ _ _)
    | (intro _ _)
    | (with_reducible apply Frame.ite_fst)
    | (with_reducible apply Frame.advance)
    | (with_reducible apply Frame.vfEnableSet)
    | (with_reducible apply Frame.ite)

theorem Frame.execPriReset {z : State} (fn : Nat) {u : State} {l : List Blk}
    (hl : Sub [.funcs] l)
    (h : Machine.execPriReset fn z = .next u) : Frame l z u := by
  have hk := Frame.refl l z
  unfold Machine.execPriReset at h
  simp only [Host.Outcome.next.injEq] at h
  subst h
  repeat' first
    | with_reducible assumption
    | exact hl.of rfl
    | (intro _ _ _ _)
    | (intro _ _ _)
    | (intro _ _)
    | (with_reducible apply Frame.ite_fst)
    | (with_reducible apply Frame.priReset)
    | (with_reducible apply Frame.ite)

theorem Frame.execConfigRequest {z : State} (t fn : Nat) (field : CfgField) (write : Option Nat) {u : State} {l : List Blk}
    (hl : Sub [.free, .counters, .buf, .sched, .ep, .funcs, .polders, .wq, .cipher, .siphon, .jrn] l)
    (h : Machine.execConfigRequest t fn field write z = .next u) : Frame l z u := by
  have hk := Frame.refl l z
  unfold Machine.execConfigRequest at h
  simp only [Host.Outcome.next.injEq] at h
  subst h
  repeat' first
    | with_reducible assumption
    | exact hl.of rfl
    | (intro _ _ _ _)
    | (intro _ _ _)
    | (intro _ _)
    | (with_reducible apply Frame.ite_fst)
    | (with_reducible apply Frame.advance)
    | (with_reducible apply Frame.configRequest)

theorem Frame.execTranslationResponse {z : State} (t fn q page : Nat) (frame : Option Nat) {u : State} {l : List Blk}
    (hl : Sub [.free, .counters, .buf, .ep, .polders, .wq] l)
    (h : Machine.execTranslationResponse t fn q page frame z = .next u) : Frame l z u := by
  have hk := Frame.refl l z
  unfold Machine.execTranslationResponse at h
  simp only [Host.Outcome.next.injEq] at h
  subst h
  repeat' first
    | with_reducible assumption
    | exact hl.of rfl
    | (intro _ _ _ _)
    | (intro _ _ _)
    | (intro _ _)
    | (with_reducible apply Frame.ite_fst)
    | (with_reducible apply Frame.advance)
    | (with_reducible apply Frame.translationResponse)

theorem Frame.execPrgResponse {z : State} (t fn q : Nat) (code : PrgCode) {u : State} {l : List Blk}
    (hl : Sub [.counters, .buf, .ep, .funcs, .polders, .wq] l)
    (h : Machine.execPrgResponse t fn q code z = .next u) : Frame l z u := by
  have hk := Frame.refl l z
  unfold Machine.execPrgResponse at h
  simp only [Host.Outcome.next.injEq] at h
  subst h
  repeat' first
    | with_reducible assumption
    | exact hl.of rfl
    | (intro _ _ _ _)
    | (intro _ _ _)
    | (intro _ _)
    | (with_reducible apply Frame.ite_fst)
    | (with_reducible apply Frame.advance)
    | (with_reducible apply Frame.prgResponse)

theorem Frame.execPageRequestTimeout {z : State} (t fn q : Nat) {u : State} {l : List Blk}
    (hl : Sub [.counters, .buf, .ep, .polders, .wq] l)
    (h : Machine.execPageRequestTimeout t fn q z = .next u) : Frame l z u := by
  have hk := Frame.refl l z
  unfold Machine.execPageRequestTimeout at h
  simp only [Host.Outcome.next.injEq] at h
  subst h
  repeat' first
    | with_reducible assumption
    | exact hl.of rfl
    | (intro _ _ _ _)
    | (intro _ _ _)
    | (intro _ _)
    | (with_reducible apply Frame.ite_fst)
    | (with_reducible apply Frame.advance)
    | (with_reducible apply Frame.pageRequestTimeout)

theorem Frame.execInvalidateRequest {z : State} (t fn tag pasid page : Nat) {u : State} {l : List Blk}
    (hl : Sub [.ep] l)
    (h : Machine.execInvalidateRequest t fn tag pasid page z = .next u) : Frame l z u := by
  have hk := Frame.refl l z
  unfold Machine.execInvalidateRequest at h
  simp only [Host.Outcome.next.injEq] at h
  subst h
  repeat' first
    | with_reducible assumption
    | exact hl.of rfl
    | (intro _ _ _ _)
    | (intro _ _ _)
    | (intro _ _)
    | (with_reducible apply Frame.ite_fst)
    | (with_reducible apply Frame.advance)
    | (with_reducible apply Frame.invalidateRequest)

theorem Frame.execInvalidateComplete {z : State} (t fn tag : Nat) {u : State} {l : List Blk}
    (hl : Sub [.ep] l)
    (h : Machine.execInvalidateComplete t fn tag z = .next u) : Frame l z u := by
  have hk := Frame.refl l z
  unfold Machine.execInvalidateComplete at h
  simp only [Host.Outcome.next.injEq] at h
  subst h
  repeat' first
    | with_reducible assumption
    | exact hl.of rfl
    | (intro _ _ _ _)
    | (intro _ _ _)
    | (intro _ _)
    | (with_reducible apply Frame.ite_fst)
    | (with_reducible apply Frame.advance)
    | (with_reducible apply Frame.invalidateComplete)

theorem Frame.execFunctionStatus {z : State} (r : Rq) {u : State} {l : List Blk}
    (hl : Sub [.counters, .dict, .mbx] l)
    (h : Machine.execFunctionStatus r z = .next u) : Frame l z u := by
  have hk := Frame.refl l z
  unfold Machine.execFunctionStatus at h
  simp only [Host.Outcome.next.injEq] at h
  subst h
  repeat' first
    | with_reducible assumption
    | exact hl.of rfl
    | (intro _ _ _ _)
    | (intro _ _ _)
    | (intro _ _)
    | (with_reducible apply Frame.ite_fst)
    | (with_reducible apply Frame.serveAction)

theorem Frame.execCommit {z : State} (r : Rq) {u : State} {l : List Blk}
    (hl : Sub [.boot, .counters, .dict, .mbx, .buf, .polders] l)
    (h : Machine.execCommit r z = .next u) : Frame l z u := by
  have hk := Frame.refl l z
  unfold Machine.execCommit at h
  simp only [Host.Outcome.next.injEq] at h
  subst h
  repeat' first
    | with_reducible assumption
    | exact hl.of rfl
    | (intro _ _ _ _)
    | (intro _ _ _)
    | (intro _ _)
    | (with_reducible apply Frame.ite_fst)
    | (with_reducible apply Frame.fdpServe)
    | (with_reducible apply Frame.commitReq)

theorem Frame.execAdjust {z : State} (r : Rq) {u : State} {l : List Blk}
    (hl : Sub [.boot, .counters, .dict, .mbx, .buf, .polders, .wq] l)
    (h : Machine.execAdjust r z = .next u) : Frame l z u := by
  have hk := Frame.refl l z
  unfold Machine.execAdjust at h
  simp only [Host.Outcome.next.injEq] at h
  subst h
  repeat' first
    | with_reducible assumption
    | exact hl.of rfl
    | (intro _ _ _ _)
    | (intro _ _ _)
    | (intro _ _)
    | (with_reducible apply Frame.ite_fst)
    | (with_reducible apply Frame.fdpServe)
    | (with_reducible apply Frame.adjustReq)

theorem Frame.execRemove {z : State} (r : Rq) {u : State} {l : List Blk}
    (hl : Sub [.boot, .counters, .dict, .mbx, .buf, .sched, .ep, .polders, .wq, .cipher, .siphon, .jrn] l)
    (h : Machine.execRemove r z = .next u) : Frame l z u := by
  have hk := Frame.refl l z
  unfold Machine.execRemove at h
  simp only [Host.Outcome.next.injEq] at h
  subst h
  repeat' first
    | with_reducible assumption
    | exact hl.of rfl
    | (intro _ _ _ _)
    | (intro _ _ _)
    | (intro _ _)
    | (with_reducible apply Frame.ite_fst)
    | (with_reducible apply Frame.serveAction)
    | (with_reducible apply Frame.removePolder)

theorem Frame.execPolderRemoveComplete {z : State} (t polder : Nat) {u : State} {l : List Blk}
    (hl : Sub [.buf, .polders, .wq, .cipher, .siphon, .jrn] l)
    (h : Machine.execPolderRemoveComplete t polder z = .next u) : Frame l z u := by
  have hk := Frame.refl l z
  unfold Machine.execPolderRemoveComplete at h
  simp only [Host.Outcome.next.injEq] at h
  subst h
  repeat' first
    | with_reducible assumption
    | exact hl.of rfl
    | (intro _ _ _ _)
    | (intro _ _ _)
    | (intro _ _)
    | (with_reducible apply Frame.ite_fst)
    | (with_reducible apply Frame.advance)
    | (with_reducible apply Frame.polderRemoved)

theorem Frame.execPolderFaultClear {z : State} (r : Rq) {u : State} {l : List Blk}
    (hl : Sub [.counters, .dict, .mbx, .polders] l)
    (h : Machine.execPolderFaultClear r z = .next u) : Frame l z u := by
  have hk := Frame.refl l z
  unfold Machine.execPolderFaultClear at h
  simp only [Host.Outcome.next.injEq] at h
  subst h
  repeat' first
    | with_reducible assumption
    | exact hl.of rfl
    | (intro _ _ _ _)
    | (intro _ _ _)
    | (intro _ _)
    | (with_reducible apply Frame.ite_fst)
    | (with_reducible apply Frame.serveAction)
    | (with_reducible apply Frame.modPolders)

theorem Frame.execHostGroupWrite {z : State} (r : Rq) {u : State} {l : List Blk}
    (hl : Sub [.boot, .counters, .dict, .mbx, .polders] l)
    (h : Machine.execHostGroupWrite r z = .next u) : Frame l z u := by
  have hk := Frame.refl l z
  unfold Machine.execHostGroupWrite at h
  simp only [Host.Outcome.next.injEq] at h
  subst h
  repeat' first
    | with_reducible assumption
    | exact hl.of rfl
    | (intro _ _ _ _)
    | (intro _ _ _)
    | (intro _ _)
    | (with_reducible apply Frame.ite_fst)
    | (with_reducible apply Frame.dikeLog)
    | (with_reducible apply Frame.dikeLogFields)
    | (with_reducible apply Frame.serveAction)
    | (with_reducible apply Frame.modPolders)

theorem Frame.execHostGroupRead {z : State} (r : Rq) {u : State} {l : List Blk}
    (hl : Sub [.counters, .dict, .mbx] l)
    (h : Machine.execHostGroupRead r z = .next u) : Frame l z u := by
  have hk := Frame.refl l z
  unfold Machine.execHostGroupRead at h
  simp only [Host.Outcome.next.injEq] at h
  subst h
  repeat' first
    | with_reducible assumption
    | exact hl.of rfl
    | (intro _ _ _ _)
    | (intro _ _ _)
    | (intro _ _)
    | (with_reducible apply Frame.ite_fst)
    | (with_reducible apply Frame.serveAction)

theorem Frame.execColdStart {z : State} (t : Nat) (w : PowerOn) {u : State} {l : List Blk}
    (hl : Sub [.free, .board, .boot, .counters, .dict, .mbx, .ports, .time, .frer, .cls, .tables, .flow, .buf, .sched, .ep, .funcs, .polders, .wq, .cipher, .siphon, .jrn, .test, .culv] l)
    (h : Machine.execColdStart t w z = .next u) : Frame l z u := by
  have hk := Frame.refl l z
  unfold Machine.execColdStart at h
  simp only [Host.Outcome.next.injEq] at h
  subst h
  repeat' first
    | with_reducible assumption
    | exact hl.of rfl
    | (intro _ _ _ _)
    | (intro _ _ _)
    | (intro _ _)
    | (with_reducible apply Frame.ite_fst)
    | (with_reducible apply Frame.advance)
    | (with_reducible apply Frame.coldStart)

theorem Frame.execDdr4TrainingDone {z : State} (t md : Nat) {u : State} {l : List Blk}
    (hl : Sub [.boot] l)
    (h : Machine.execDdr4TrainingDone t md z = .next u) : Frame l z u := by
  have hk := Frame.refl l z
  unfold Machine.execDdr4TrainingDone at h
  simp only [Host.Outcome.next.injEq] at h
  subst h
  repeat' first
    | with_reducible assumption
    | exact hl.of rfl
    | (intro _ _ _ _)
    | (intro _ _ _)
    | (intro _ _)
    | (with_reducible apply Frame.ite_fst)
    | (with_reducible apply Frame.advance)
    | (with_reducible apply Frame.ddr4TrainingDone)

theorem Frame.execPf0Ready {z : State} (t : Nat) {u : State} {l : List Blk}
    (hl : Sub [.funcs] l)
    (h : Machine.execPf0Ready t z = .next u) : Frame l z u := by
  have hk := Frame.refl l z
  unfold Machine.execPf0Ready at h
  simp only [Host.Outcome.next.injEq] at h
  subst h
  repeat' first
    | with_reducible assumption
    | exact hl.of rfl
    | (intro _ _ _ _)
    | (intro _ _ _)
    | (intro _ _)
    | (with_reducible apply Frame.ite_fst)
    | (with_reducible apply Frame.advance)
    | (with_reducible apply Frame.pf0Ready)

theorem Frame.execFieldInService {z : State} (t : Nat) {u : State} {l : List Blk}
    (hl : Sub [.boot, .counters, .dict, .ports, .tables, .buf, .sched, .ep, .funcs, .polders, .wq, .siphon] l)
    (h : Machine.execFieldInService t z = .next u) : Frame l z u := by
  have hk := Frame.refl l z
  unfold Machine.execFieldInService at h
  simp only [Host.Outcome.next.injEq] at h
  subst h
  repeat' first
    | with_reducible assumption
    | exact hl.of rfl
    | (intro _ _ _ _)
    | (intro _ _ _)
    | (intro _ _)
    | (with_reducible apply Frame.ite_fst)
    | (with_reducible apply Frame.advance)
    | (with_reducible apply Frame.fieldInService)

theorem Frame.execAllReady {z : State} (t : Nat) {u : State} {l : List Blk}
    (hl : Sub [.boot, .wq, .siphon, .jrn] l)
    (h : Machine.execAllReady t z = .next u) : Frame l z u := by
  have hk := Frame.refl l z
  unfold Machine.execAllReady at h
  simp only [Host.Outcome.next.injEq] at h
  subst h
  repeat' first
    | with_reducible assumption
    | exact hl.of rfl
    | (intro _ _ _ _)
    | (intro _ _ _)
    | (intro _ _)
    | (with_reducible apply Frame.ite_fst)
    | (with_reducible apply Frame.advance)
    | (with_reducible apply Frame.allReady)

theorem Frame.execPerstNAssert {z : State} (t : Nat) {u : State} {l : List Blk}
    (hl : Sub [.board, .boot, .counters, .dict, .mbx, .ports, .time, .frer, .cls, .tables, .flow, .buf, .sched, .ep, .funcs, .polders, .wq, .cipher, .siphon, .jrn, .test, .culv] l)
    (h : Machine.execPerstNAssert t z = .next u) : Frame l z u := by
  have hk := Frame.refl l z
  unfold Machine.execPerstNAssert at h
  simp only [Host.Outcome.next.injEq] at h
  subst h
  repeat' first
    | with_reducible assumption
    | exact hl.of rfl
    | (intro _ _ _ _)
    | (intro _ _ _)
    | (intro _ _)
    | (with_reducible apply Frame.ite_fst)
    | (with_reducible apply Frame.advance)
    | (with_reducible apply Frame.perstNAssert)

theorem Frame.execFullResetMark {z : State} (t : Nat) {u : State} {l : List Blk}
    (hl : Sub [.board, .boot, .counters, .dict, .mbx, .ports, .time, .frer, .cls, .tables, .flow, .buf, .sched, .ep, .funcs, .polders, .wq, .cipher, .siphon, .jrn, .test, .culv] l)
    (h : Machine.execFullResetMark t z = .next u) : Frame l z u := by
  have hk := Frame.refl l z
  unfold Machine.execFullResetMark at h
  simp only [Host.Outcome.next.injEq] at h
  subst h
  repeat' first
    | with_reducible assumption
    | exact hl.of rfl
    | (intro _ _ _ _)
    | (intro _ _ _)
    | (intro _ _)
    | (with_reducible apply Frame.ite_fst)
    | (with_reducible apply Frame.advance)
    | (with_reducible apply Frame.fullResetMark)

theorem Frame.execPerstNRelease {z : State} (w : FlashAt) {u : State} {l : List Blk}
    (hl : Sub [.free, .board, .boot, .counters, .dict, .mbx, .ports, .time, .frer, .cls, .tables, .flow, .buf, .sched, .ep, .funcs, .polders, .wq, .cipher, .siphon, .jrn, .test, .culv] l)
    (h : Machine.execPerstNRelease w z = .next u) : Frame l z u := by
  have hk := Frame.refl l z
  unfold Machine.execPerstNRelease at h
  simp only [Host.Outcome.next.injEq] at h
  subst h
  repeat' first
    | with_reducible assumption
    | exact hl.of rfl
    | (intro _ _ _ _)
    | (intro _ _ _)
    | (intro _ _)
    | (with_reducible apply Frame.ite_fst)
    | (with_reducible apply Frame.advance)
    | (with_reducible apply Frame.perstNRelease)

theorem Frame.execWriteCacheDrainEnd {z : State} (t : Nat) (w : PowerOn) {u : State} {l : List Blk}
    (hl : Sub [.free, .board, .boot, .counters, .dict, .mbx, .ports, .time, .frer, .cls, .tables, .flow, .buf, .sched, .ep, .funcs, .polders, .wq, .cipher, .siphon, .jrn, .test, .culv] l)
    (h : Machine.execWriteCacheDrainEnd t w z = .next u) : Frame l z u := by
  have hk := Frame.refl l z
  unfold Machine.execWriteCacheDrainEnd at h
  simp only [Host.Outcome.next.injEq] at h
  subst h
  repeat' first
    | with_reducible assumption
    | exact hl.of rfl
    | (intro _ _ _ _)
    | (intro _ _ _)
    | (intro _ _)
    | (with_reducible apply Frame.ite_fst)
    | (with_reducible apply Frame.advance)
    | (with_reducible apply Frame.writeCacheDrainEnd)

theorem Frame.execEmergencyDrainDone {z : State} (w : FlashAt) {u : State} {l : List Blk}
    (hl : Sub [.free, .board, .boot, .counters, .dict, .mbx, .ports, .time, .frer, .cls, .tables, .flow, .buf, .sched, .ep, .funcs, .polders, .wq, .cipher, .siphon, .jrn, .test, .culv] l)
    (h : Machine.execEmergencyDrainDone w z = .next u) : Frame l z u := by
  have hk := Frame.refl l z
  unfold Machine.execEmergencyDrainDone at h
  simp only [Host.Outcome.next.injEq] at h
  subst h
  repeat' first
    | with_reducible assumption
    | exact hl.of rfl
    | (intro _ _ _ _)
    | (intro _ _ _)
    | (intro _ _)
    | (with_reducible apply Frame.ite_fst)
    | (with_reducible apply Frame.advance)
    | (with_reducible apply Frame.emergencyDrainDone)

theorem Frame.execRailFault {z : State} (t rail : Nat) {u : State} {l : List Blk}
    (hl : Sub [.board, .boot, .counters, .dict, .mbx, .ports, .time, .frer, .cls, .tables, .flow, .buf, .sched, .ep, .funcs, .polders, .wq, .cipher, .siphon, .jrn, .test, .culv] l)
    (h : Machine.execRailFault t rail z = .next u) : Frame l z u := by
  have hk := Frame.refl l z
  unfold Machine.execRailFault at h
  simp only [Host.Outcome.next.injEq] at h
  subst h
  repeat' first
    | with_reducible assumption
    | exact hl.of rfl
    | (intro _ _ _ _)
    | (intro _ _ _)
    | (intro _ _)
    | (with_reducible apply Frame.ite_fst)
    | (with_reducible apply Frame.advance)
    | (with_reducible apply Frame.railFault)

theorem Frame.execRefclkLoss {z : State} (t : Nat) {u : State} {l : List Blk}
    (hl : Sub [.board, .boot, .counters, .dict, .mbx, .ports, .time, .frer, .cls, .tables, .flow, .buf, .sched, .ep, .funcs, .polders, .wq, .cipher, .siphon, .jrn, .test, .culv] l)
    (h : Machine.execRefclkLoss t z = .next u) : Frame l z u := by
  have hk := Frame.refl l z
  unfold Machine.execRefclkLoss at h
  simp only [Host.Outcome.next.injEq] at h
  subst h
  repeat' first
    | with_reducible assumption
    | exact hl.of rfl
    | (intro _ _ _ _)
    | (intro _ _ _)
    | (intro _ _)
    | (with_reducible apply Frame.ite_fst)
    | (with_reducible apply Frame.advance)
    | (with_reducible apply Frame.refclkLoss)

theorem Frame.execFirmwareActivate {z : State} (r : Rq) {u : State} {l : List Blk}
    (hl : Sub [.boot, .counters, .dict, .mbx, .time, .wq, .jrn] l)
    (h : Machine.execFirmwareActivate r z = .next u) : Frame l z u := by
  have hk := Frame.refl l z
  unfold Machine.execFirmwareActivate at h
  simp only [Host.Outcome.next.injEq] at h
  subst h
  repeat' first
    | with_reducible assumption
    | exact hl.of rfl
    | (intro _ _ _ _)
    | (intro _ _ _)
    | (intro _ _)
    | (with_reducible apply Frame.ite_fst)
    | (with_reducible apply Frame.advance)
    | (with_reducible apply Frame.serveAction)
    | (with_reducible apply Frame.coresStop)
    | (with_reducible apply Frame.modBoot)
    | (with_reducible apply Frame.ite)

theorem Frame.execActivationCheck {z : State} (w : CheckAt) {u : State} {l : List Blk}
    (hl : Sub [.boot] l)
    (h : Machine.execActivationCheck w z = .next u) : Frame l z u := by
  have hk := Frame.refl l z
  unfold Machine.execActivationCheck at h
  simp only [Host.Outcome.next.injEq] at h
  subst h
  repeat' first
    | with_reducible assumption
    | exact hl.of rfl
    | (intro _ _ _ _)
    | (intro _ _ _)
    | (intro _ _)
    | (with_reducible apply Frame.ite_fst)
    | (with_reducible apply Frame.advance)
    | (with_reducible apply Frame.activationCheck)

theorem Frame.execActivationTimeout {z : State} (t : Nat) {u : State} {l : List Blk}
    (hl : Sub [.boot] l)
    (h : Machine.execActivationTimeout t z = .next u) : Frame l z u := by
  have hk := Frame.refl l z
  unfold Machine.execActivationTimeout at h
  simp only [Host.Outcome.next.injEq] at h
  subst h
  repeat' first
    | with_reducible assumption
    | exact hl.of rfl
    | (intro _ _ _ _)
    | (intro _ _ _)
    | (intro _ _)
    | (with_reducible apply Frame.ite_fst)
    | (with_reducible apply Frame.advance)
    | (with_reducible apply Frame.activationTimeout)

theorem Frame.execActivationComplete {z : State} (w : FlashAt) {u : State} {l : List Blk}
    (hl : Sub [.free, .boot, .counters, .dict, .mbx, .buf, .polders, .wq, .cipher, .siphon, .jrn, .test] l)
    (h : Machine.execActivationComplete w z = .next u) : Frame l z u := by
  have hk := Frame.refl l z
  unfold Machine.execActivationComplete at h
  simp only [Host.Outcome.next.injEq] at h
  subst h
  repeat' first
    | with_reducible assumption
    | exact hl.of rfl
    | (intro _ _ _ _)
    | (intro _ _ _)
    | (intro _ _)
    | (with_reducible apply Frame.ite_fst)
    | (with_reducible apply Frame.advance)
    | (with_reducible apply Frame.activationComplete)

theorem Frame.execRollbackAdvance {z : State} (r : Rq) {u : State} {l : List Blk}
    (hl : Sub [.boot, .counters, .dict, .mbx] l)
    (h : Machine.execRollbackAdvance r z = .next u) : Frame l z u := by
  have hk := Frame.refl l z
  unfold Machine.execRollbackAdvance at h
  simp only [Host.Outcome.next.injEq] at h
  subst h
  repeat' first
    | with_reducible assumption
    | exact hl.of rfl
    | (intro _ _ _ _)
    | (intro _ _ _)
    | (intro _ _)
    | (with_reducible apply Frame.ite_fst)
    | (with_reducible apply Frame.serveAction)
    | (with_reducible apply Frame.modBoot)

theorem Frame.execDikeLogClear {z : State} (r : Rq) {u : State} {l : List Blk}
    (hl : Sub [.boot, .counters, .dict, .mbx] l)
    (h : Machine.execDikeLogClear r z = .next u) : Frame l z u := by
  have hk := Frame.refl l z
  unfold Machine.execDikeLogClear at h
  simp only [Host.Outcome.next.injEq] at h
  subst h
  repeat' first
    | with_reducible assumption
    | exact hl.of rfl
    | (intro _ _ _ _)
    | (intro _ _ _)
    | (intro _ _)
    | (with_reducible apply Frame.ite_fst)
    | (with_reducible apply Frame.serveAction)
    | (with_reducible apply Frame.modBoot)

theorem Frame.execHeartbeat {z : State} (t : Nat) {u : State} {l : List Blk}
    (hl : Sub [.boot] l)
    (h : Machine.execHeartbeat t z = .next u) : Frame l z u := by
  have hk := Frame.refl l z
  unfold Machine.execHeartbeat at h
  simp only [Host.Outcome.next.injEq] at h
  subst h
  repeat' first
    | with_reducible assumption
    | exact hl.of rfl
    | (intro _ _ _ _)
    | (intro _ _ _)
    | (intro _ _)
    | (with_reducible apply Frame.ite_fst)
    | (with_reducible apply Frame.advance)
    | (with_reducible apply Frame.heartbeat)

theorem Frame.execCoreRestartComplete {z : State} (t : Nat) {u : State} {l : List Blk}
    (hl : Sub [.boot, .counters, .dict, .mbx, .wq, .siphon, .jrn] l)
    (h : Machine.execCoreRestartComplete t z = .next u) : Frame l z u := by
  have hk := Frame.refl l z
  unfold Machine.execCoreRestartComplete at h
  simp only [Host.Outcome.next.injEq] at h
  subst h
  repeat' first
    | with_reducible assumption
    | exact hl.of rfl
    | (intro _ _ _ _)
    | (intro _ _ _)
    | (intro _ _)
    | (with_reducible apply Frame.ite_fst)
    | (with_reducible apply Frame.advance)
    | (with_reducible apply Frame.coreRestartComplete)

theorem Frame.execEvtStatWrite {z : State} (t g : Nat) (v coincide : Word32) {u : State} {l : List Blk}
    (hl : Sub [.funcs] l)
    (h : Machine.execEvtStatWrite t g v coincide z = .next u) : Frame l z u := by
  have hk := Frame.refl l z
  unfold Machine.execEvtStatWrite at h
  simp only [Host.Outcome.next.injEq] at h
  subst h
  repeat' first
    | with_reducible assumption
    | exact hl.of rfl
    | (intro _ _ _ _)
    | (intro _ _ _)
    | (intro _ _)
    | (with_reducible apply Frame.ite_fst)
    | (with_reducible apply Frame.advance)
    | (with_reducible apply Frame.barMissed)
    | (with_reducible apply Frame.evtClear)
    | (with_reducible apply Frame.ite)

theorem Frame.execEvtMaskWrite {z : State} (t g : Nat) (v : Word32) {u : State} {l : List Blk}
    (hl : Sub [.funcs] l)
    (h : Machine.execEvtMaskWrite t g v z = .next u) : Frame l z u := by
  have hk := Frame.refl l z
  unfold Machine.execEvtMaskWrite at h
  simp only [Host.Outcome.next.injEq] at h
  subst h
  repeat' first
    | with_reducible assumption
    | exact hl.of rfl
    | (intro _ _ _ _)
    | (intro _ _ _)
    | (intro _ _)
    | (with_reducible apply Frame.ite_fst)
    | (with_reducible apply Frame.advance)
    | (with_reducible apply Frame.barMissed)
    | (with_reducible apply Frame.evtMaskSet)
    | (with_reducible apply Frame.ite)

theorem Frame.execEvtVectorWrite {z : State} (t g : Nat) (v : Word32) {u : State} {l : List Blk}
    (hl : Sub [.funcs] l)
    (h : Machine.execEvtVectorWrite t g v z = .next u) : Frame l z u := by
  have hk := Frame.refl l z
  unfold Machine.execEvtVectorWrite at h
  simp only [Host.Outcome.next.injEq] at h
  subst h
  repeat' first
    | with_reducible assumption
    | exact hl.of rfl
    | (intro _ _ _ _)
    | (intro _ _ _)
    | (intro _ _)
    | (with_reducible apply Frame.ite_fst)
    | (with_reducible apply Frame.advance)
    | (with_reducible apply Frame.barMissed)
    | (with_reducible apply Frame.evtVectorSet)
    | (with_reducible apply Frame.ite)

theorem Frame.execEvtTestWrite {z : State} (t g : Nat) (v : Word32) {u : State} {l : List Blk}
    (hl : Sub [.funcs] l)
    (h : Machine.execEvtTestWrite t g v z = .next u) : Frame l z u := by
  have hk := Frame.refl l z
  unfold Machine.execEvtTestWrite at h
  simp only [Host.Outcome.next.injEq] at h
  subst h
  repeat' first
    | with_reducible assumption
    | exact hl.of rfl
    | (intro _ _ _ _)
    | (intro _ _ _)
    | (intro _ _)
    | (with_reducible apply Frame.ite_fst)
    | (with_reducible apply Frame.advance)
    | (with_reducible apply Frame.barMissed)
    | (with_reducible apply Frame.evtTest)
    | (with_reducible apply Frame.ite)

theorem Frame.execEventClear {z : State} (r : Rq) {u : State} {l : List Blk}
    (hl : Sub [.counters, .dict, .mbx] l)
    (h : Machine.execEventClear r z = .next u) : Frame l z u := by
  have hk := Frame.refl l z
  unfold Machine.execEventClear at h
  simp only [Host.Outcome.next.injEq] at h
  subst h
  repeat' first
    | with_reducible assumption
    | exact hl.of rfl
    | (intro _ _ _ _)
    | (intro _ _ _)
    | (intro _ _)
    | (with_reducible apply Frame.ite_fst)
    | (with_reducible apply Frame.serveAction)
    | (with_reducible apply Frame.evtClear)
    | (with_reducible refine Frame.forEach _ (fun _ _ _ => ?_) ?_)
    | (with_reducible apply Frame.ite)

theorem Frame.execPortEventMapClear {z : State} (r : Rq) {u : State} {l : List Blk}
    (hl : Sub [.counters, .dict, .mbx] l)
    (h : Machine.execPortEventMapClear r z = .next u) : Frame l z u := by
  have hk := Frame.refl l z
  unfold Machine.execPortEventMapClear at h
  simp only [Host.Outcome.next.injEq] at h
  subst h
  repeat' first
    | with_reducible assumption
    | exact hl.of rfl
    | (intro _ _ _ _)
    | (intro _ _ _)
    | (intro _ _)
    | (with_reducible apply Frame.ite_fst)
    | (with_reducible apply Frame.serveAction)
    | (with_reducible apply Frame.modEvt)

theorem Frame.execCtrSelWrite {z : State} (t n : Nat) (v : Word32) {u : State} {l : List Blk}
    (hl : Sub [.funcs] l)
    (h : Machine.execCtrSelWrite t n v z = .next u) : Frame l z u := by
  have hk := Frame.refl l z
  unfold Machine.execCtrSelWrite at h
  simp only [Host.Outcome.next.injEq] at h
  subst h
  repeat' first
    | with_reducible assumption
    | exact hl.of rfl
    | (intro _ _ _ _)
    | (intro _ _ _)
    | (intro _ _)
    | (with_reducible apply Frame.ite_fst)
    | (with_reducible apply Frame.advance)
    | (with_reducible apply Frame.barMissed)
    | (with_reducible apply Frame.ctrSelSet)
    | (with_reducible apply Frame.ite)

theorem Frame.execCtrLoRead {z : State} (t n : Nat) {u : State} {l : List Blk}
    (hl : Sub [.funcs] l)
    (h : Machine.execCtrLoRead t n z = .next u) : Frame l z u := by
  have hk := Frame.refl l z
  unfold Machine.execCtrLoRead at h
  simp only [Host.Outcome.next.injEq] at h
  subst h
  repeat' first
    | with_reducible assumption
    | exact hl.of rfl
    | (intro _ _ _ _)
    | (intro _ _ _)
    | (intro _ _)
    | (with_reducible apply Frame.ite_fst)
    | (with_reducible apply Frame.advance)
    | (with_reducible apply Frame.barMissed)
    | (with_reducible apply Frame.ctrLatch)
    | (with_reducible apply Frame.emit)
    | (with_reducible apply Frame.ite)

theorem Frame.execCtrValueWrite {z : State} (t n : Nat) (hi : Bool) (v : Word32) {u : State} {l : List Blk}
    (hl : Sub [.funcs] l)
    (h : Machine.execCtrValueWrite t n hi v z = .next u) : Frame l z u := by
  have hk := Frame.refl l z
  unfold Machine.execCtrValueWrite at h
  simp only [Host.Outcome.next.injEq] at h
  subst h
  repeat' first
    | with_reducible assumption
    | exact hl.of rfl
    | (intro _ _ _ _)
    | (intro _ _ _)
    | (intro _ _)
    | (with_reducible apply Frame.ite_fst)
    | (with_reducible apply Frame.advance)
    | (with_reducible apply Frame.barMissed)
    | (with_reducible apply Frame.ctrValueSet)
    | (with_reducible apply Frame.ite)

theorem Frame.execCtrOvfClear {z : State} (t k : Nat) (v coincide : Word32) {u : State} {l : List Blk}
    (hl : Sub [.funcs] l)
    (h : Machine.execCtrOvfClear t k v coincide z = .next u) : Frame l z u := by
  have hk := Frame.refl l z
  unfold Machine.execCtrOvfClear at h
  simp only [Host.Outcome.next.injEq] at h
  subst h
  repeat' first
    | with_reducible assumption
    | exact hl.of rfl
    | (intro _ _ _ _)
    | (intro _ _ _)
    | (intro _ _)
    | (with_reducible apply Frame.ite_fst)
    | (with_reducible apply Frame.advance)
    | (with_reducible apply Frame.barMissed)
    | (with_reducible apply Frame.ctrOvfClear)
    | (with_reducible apply Frame.ite)

theorem Frame.execClearAll {z : State} (t : Nat) {u : State} {l : List Blk}
    (hl : Sub [.funcs] l)
    (h : Machine.execClearAll t z = .next u) : Frame l z u := by
  have hk := Frame.refl l z
  unfold Machine.execClearAll at h
  simp only [Host.Outcome.next.injEq] at h
  subst h
  repeat' first
    | with_reducible assumption
    | exact hl.of rfl
    | (intro _ _ _ _)
    | (intro _ _ _)
    | (intro _ _)
    | (with_reducible apply Frame.ite_fst)
    | (with_reducible apply Frame.advance)
    | (with_reducible apply Frame.barMissed)
    | (with_reducible apply Frame.clearCounters)
    | (with_reducible apply Frame.ite)

theorem Frame.execFreezeAll {z : State} (t : Nat) (v : Bool) {u : State} {l : List Blk}
    (hl : Sub [.funcs] l)
    (h : Machine.execFreezeAll t v z = .next u) : Frame l z u := by
  have hk := Frame.refl l z
  unfold Machine.execFreezeAll at h
  simp only [Host.Outcome.next.injEq] at h
  subst h
  repeat' first
    | with_reducible assumption
    | exact hl.of rfl
    | (intro _ _ _ _)
    | (intro _ _ _)
    | (intro _ _)
    | (with_reducible apply Frame.ite_fst)
    | (with_reducible apply Frame.advance)
    | (with_reducible apply Frame.barMissed)
    | (with_reducible apply Frame.modEvt)
    | (with_reducible apply Frame.ite)

theorem Frame.execDeviceCounterRead {z : State} (r : Rq) {u : State} {l : List Blk}
    (hl : Sub [.counters, .dict, .mbx] l)
    (h : Machine.execDeviceCounterRead r z = .next u) : Frame l z u := by
  have hk := Frame.refl l z
  unfold Machine.execDeviceCounterRead at h
  simp only [Host.Outcome.next.injEq] at h
  subst h
  repeat' first
    | with_reducible assumption
    | exact hl.of rfl
    | (intro _ _ _ _)
    | (intro _ _ _)
    | (intro _ _)
    | (with_reducible apply Frame.ite_fst)
    | (with_reducible apply Frame.serveAction)

theorem Frame.execPageOvfClear {z : State} (t fn : Nat) (v coincide : Word32) {u : State} {l : List Blk}
    (hl : Sub [.funcs] l)
    (h : Machine.execPageOvfClear t fn v coincide z = .next u) : Frame l z u := by
  have hk := Frame.refl l z
  unfold Machine.execPageOvfClear at h
  simp only [Host.Outcome.next.injEq] at h
  subst h
  repeat' first
    | with_reducible assumption
    | exact hl.of rfl
    | (intro _ _ _ _)
    | (intro _ _ _)
    | (intro _ _)
    | (with_reducible apply Frame.ite_fst)
    | (with_reducible apply Frame.advance)
    | (with_reducible apply Frame.barMissed)
    | (with_reducible apply Frame.pageOvfClear)
    | (with_reducible apply Frame.ite)

theorem Frame.execPolderCounterSelect {z : State} (r : Rq) {u : State} {l : List Blk}
    (hl : Sub [.counters, .dict, .mbx] l)
    (h : Machine.execPolderCounterSelect r z = .next u) : Frame l z u := by
  have hk := Frame.refl l z
  unfold Machine.execPolderCounterSelect at h
  simp only [Host.Outcome.next.injEq] at h
  subst h
  repeat' first
    | with_reducible assumption
    | exact hl.of rfl
    | (intro _ _ _ _)
    | (intro _ _ _)
    | (intro _ _)
    | (with_reducible apply Frame.ite_fst)
    | (with_reducible apply Frame.setPage)
    | (with_reducible apply Frame.serveAction)

theorem Frame.execPolderCounterRead {z : State} (r : Rq) {u : State} {l : List Blk}
    (hl : Sub [.counters, .dict, .mbx] l)
    (h : Machine.execPolderCounterRead r z = .next u) : Frame l z u := by
  have hk := Frame.refl l z
  unfold Machine.execPolderCounterRead at h
  simp only [Host.Outcome.next.injEq] at h
  subst h
  repeat' first
    | with_reducible assumption
    | exact hl.of rfl
    | (intro _ _ _ _)
    | (intro _ _ _)
    | (intro _ _)
    | (with_reducible apply Frame.ite_fst)
    | (with_reducible apply Frame.serveAction)

theorem Frame.execSelfTestRun {z : State} (r : Rq) {u : State} {l : List Blk}
    (hl : Sub [.boot, .counters, .dict, .mbx, .ports, .cls, .tables, .flow, .buf, .sched, .ep, .funcs, .polders, .wq, .siphon, .test] l)
    (h : Machine.execSelfTestRun r z = .next u) : Frame l z u := by
  have hk := Frame.refl l z
  unfold Machine.execSelfTestRun at h
  simp only [Host.Outcome.next.injEq] at h
  subst h
  repeat' first
    | with_reducible assumption
    | exact hl.of rfl
    | (intro _ _ _ _)
    | (intro _ _ _)
    | (intro _ _)
    | (with_reducible apply Frame.ite_fst)
    | (with_reducible apply Frame.serveAction)
    | (with_reducible apply Frame.fieldDieOut)
    | (with_reducible apply Frame.memoryDieOut)
    | (with_reducible apply Frame.ite)

theorem Frame.execSelfTestEnd {z : State} (t die signature : Nat) {u : State} {l : List Blk}
    (hl : Sub [.boot, .counters, .dict, .mbx, .test] l)
    (h : Machine.execSelfTestEnd t die signature z = .next u) : Frame l z u := by
  have hk := Frame.refl l z
  unfold Machine.execSelfTestEnd at h
  simp only [Host.Outcome.next.injEq] at h
  subst h
  repeat' first
    | with_reducible assumption
    | exact hl.of rfl
    | (intro _ _ _ _)
    | (intro _ _ _)
    | (intro _ _)
    | (with_reducible apply Frame.ite_fst)
    | (with_reducible apply Frame.advance)
    | (with_reducible apply Frame.selfTestEnd)

theorem Frame.execDieReturn {z : State} (r : Rq) {u : State} {l : List Blk}
    (hl : Sub [.counters, .dict, .mbx, .test] l)
    (h : Machine.execDieReturn r z = .next u) : Frame l z u := by
  have hk := Frame.refl l z
  unfold Machine.execDieReturn at h
  simp only [Host.Outcome.next.injEq] at h
  subst h
  repeat' first
    | with_reducible assumption
    | exact hl.of rfl
    | (intro _ _ _ _)
    | (intro _ _ _)
    | (intro _ _)
    | (with_reducible apply Frame.ite_fst)
    | (with_reducible apply Frame.serveAction)
    | (with_reducible apply Frame.setTestDie)

theorem Frame.execDieReturnComplete {z : State} (t die : Nat) {u : State} {l : List Blk}
    (hl : Sub [.boot, .counters, .ports, .frer, .cls, .tables, .flow, .buf, .sched, .ep, .funcs, .polders, .wq, .siphon, .jrn, .test] l)
    (h : Machine.execDieReturnComplete t die z = .next u) : Frame l z u := by
  have hk := Frame.refl l z
  unfold Machine.execDieReturnComplete at h
  simp only [Host.Outcome.next.injEq] at h
  subst h
  repeat' first
    | with_reducible assumption
    | exact hl.of rfl
    | (intro _ _ _ _)
    | (intro _ _ _)
    | (intro _ _)
    | (with_reducible apply Frame.ite_fst)
    | (with_reducible apply Frame.advance)
    | (with_reducible apply Frame.dieReturnComplete)

theorem Frame.execExtest {z : State}  {u : State} {l : List Blk}
    (hl : Sub [.free, .board] l)
    (h : Machine.execExtest z = .next u) : Frame l z u := by
  have hk := Frame.refl l z
  unfold Machine.execExtest at h
  simp only [Host.Outcome.next.injEq] at h
  subst h
  repeat' first
    | with_reducible assumption
    | exact hl.of rfl
    | (intro _ _ _ _)
    | (intro _ _ _)
    | (intro _ _)
    | (with_reducible apply Frame.ite_fst)
    | (with_reducible apply Frame.tapLoad)
    | (with_reducible apply Frame.tapBypass)
    | (with_reducible apply Frame.tapSample)
    | (with_reducible apply Frame.ite)

theorem Frame.execSamplePreload {z : State} (cells : Bytes) {u : State} {l : List Blk}
    (hl : Sub [.free, .board] l)
    (h : Machine.execSamplePreload cells z = .next u) : Frame l z u := by
  have hk := Frame.refl l z
  unfold Machine.execSamplePreload at h
  simp only [Host.Outcome.next.injEq] at h
  subst h
  repeat' first
    | with_reducible assumption
    | exact hl.of rfl
    | (intro _ _ _ _)
    | (intro _ _ _)
    | (intro _ _)
    | (with_reducible apply Frame.ite_fst)
    | (with_reducible apply Frame.tapLoad)
    | (with_reducible apply Frame.tapSample)
    | (with_reducible apply Frame.modBoard)

theorem Frame.execIdcode {z : State}  {u : State} {l : List Blk}
    (hl : Sub [.board] l)
    (h : Machine.execIdcode z = .next u) : Frame l z u := by
  have hk := Frame.refl l z
  unfold Machine.execIdcode at h
  simp only [Host.Outcome.next.injEq] at h
  subst h
  repeat' first
    | with_reducible assumption
    | exact hl.of rfl
    | (intro _ _ _ _)
    | (intro _ _ _)
    | (intro _ _)
    | (with_reducible apply Frame.ite_fst)
    | (with_reducible apply Frame.tapLoad)
    | (with_reducible apply Frame.emit)

theorem Frame.execBypass {z : State} (code : BitVec 8) {u : State} {l : List Blk}
    (hl : Sub [.board] l)
    (h : Machine.execBypass code z = .next u) : Frame l z u := by
  have hk := Frame.refl l z
  unfold Machine.execBypass at h
  simp only [Host.Outcome.next.injEq] at h
  subst h
  repeat' first
    | with_reducible assumption
    | exact hl.of rfl
    | (intro _ _ _ _)
    | (intro _ _ _)
    | (intro _ _)
    | (with_reducible apply Frame.ite_fst)
    | (with_reducible apply Frame.tapBypass)

theorem Frame.execClamp {z : State}  {u : State} {l : List Blk}
    (hl : Sub [.board] l)
    (h : Machine.execClamp z = .next u) : Frame l z u := by
  have hk := Frame.refl l z
  unfold Machine.execClamp at h
  simp only [Host.Outcome.next.injEq] at h
  subst h
  repeat' first
    | with_reducible assumption
    | exact hl.of rfl
    | (intro _ _ _ _)
    | (intro _ _ _)
    | (intro _ _)
    | (with_reducible apply Frame.ite_fst)
    | (with_reducible apply Frame.tapBoard)

theorem Frame.execHighz {z : State}  {u : State} {l : List Blk}
    (hl : Sub [.board] l)
    (h : Machine.execHighz z = .next u) : Frame l z u := by
  have hk := Frame.refl l z
  unfold Machine.execHighz at h
  simp only [Host.Outcome.next.injEq] at h
  subst h
  repeat' first
    | with_reducible assumption
    | exact hl.of rfl
    | (intro _ _ _ _)
    | (intro _ _ _)
    | (intro _ _)
    | (with_reducible apply Frame.ite_fst)
    | (with_reducible apply Frame.tapBoard)

theorem Frame.execExtestPulse {z : State}  {u : State} {l : List Blk}
    (hl : Sub [.free, .board] l)
    (h : Machine.execExtestPulse z = .next u) : Frame l z u := by
  have hk := Frame.refl l z
  unfold Machine.execExtestPulse at h
  simp only [Host.Outcome.next.injEq] at h
  subst h
  repeat' first
    | with_reducible assumption
    | exact hl.of rfl
    | (intro _ _ _ _)
    | (intro _ _ _)
    | (intro _ _)
    | (with_reducible apply Frame.ite_fst)
    | (with_reducible apply Frame.tapLoad)
    | (with_reducible apply Frame.tapBypass)
    | (with_reducible apply Frame.tapSample)
    | (with_reducible apply Frame.ite)

theorem Frame.execExtestTrain {z : State}  {u : State} {l : List Blk}
    (hl : Sub [.free, .board] l)
    (h : Machine.execExtestTrain z = .next u) : Frame l z u := by
  have hk := Frame.refl l z
  unfold Machine.execExtestTrain at h
  simp only [Host.Outcome.next.injEq] at h
  subst h
  repeat' first
    | with_reducible assumption
    | exact hl.of rfl
    | (intro _ _ _ _)
    | (intro _ _ _)
    | (intro _ _)
    | (with_reducible apply Frame.ite_fst)
    | (with_reducible apply Frame.tapLoad)
    | (with_reducible apply Frame.tapBypass)
    | (with_reducible apply Frame.tapSample)
    | (with_reducible apply Frame.ite)

theorem Frame.execAcFailFall {z : State} (t : Nat) {u : State} {l : List Blk}
    (hl : Sub [.board, .counters, .jrn] l)
    (h : Machine.execAcFailFall t z = .next u) : Frame l z u := by
  have hk := Frame.refl l z
  unfold Machine.execAcFailFall at h
  simp only [Host.Outcome.next.injEq] at h
  subst h
  repeat' first
    | with_reducible assumption
    | exact hl.of rfl
    | (intro _ _ _ _)
    | (intro _ _ _)
    | (intro _ _)
    | (with_reducible apply Frame.ite_fst)
    | (with_reducible apply Frame.advance)
    | (with_reducible apply Frame.acFailFall)

theorem Frame.execAcFailNHigh {z : State} (t : Nat) {u : State} {l : List Blk}
    (hl : Sub [.board] l)
    (h : Machine.execAcFailNHigh t z = .next u) : Frame l z u := by
  have hk := Frame.refl l z
  unfold Machine.execAcFailNHigh at h
  simp only [Host.Outcome.next.injEq] at h
  subst h
  repeat' first
    | with_reducible assumption
    | exact hl.of rfl
    | (intro _ _ _ _)
    | (intro _ _ _)
    | (intro _ _)
    | (with_reducible apply Frame.ite_fst)
    | (with_reducible apply Frame.advance)
    | (with_reducible apply Frame.modBoard)
    | (with_reducible apply Frame.ite)

theorem Frame.execAcFailRise {z : State} (t : Nat) {u : State} {l : List Blk}
    (hl : Sub [.board, .jrn] l)
    (h : Machine.execAcFailRise t z = .next u) : Frame l z u := by
  have hk := Frame.refl l z
  unfold Machine.execAcFailRise at h
  simp only [Host.Outcome.next.injEq] at h
  subst h
  repeat' first
    | with_reducible assumption
    | exact hl.of rfl
    | (intro _ _ _ _)
    | (intro _ _ _)
    | (intro _ _)
    | (with_reducible apply Frame.ite_fst)
    | (with_reducible apply Frame.advance)
    | (with_reducible apply Frame.powerResume)
    | (with_reducible apply Frame.modBoard)
    | (with_reducible apply Frame.ite)

theorem Frame.execThermtrip {z : State} (t : Nat) {u : State} {l : List Blk}
    (hl : Sub [.board, .jrn] l)
    (h : Machine.execThermtrip t z = .next u) : Frame l z u := by
  have hk := Frame.refl l z
  unfold Machine.execThermtrip at h
  simp only [Host.Outcome.next.injEq] at h
  subst h
  repeat' first
    | with_reducible assumption
    | exact hl.of rfl
    | (intro _ _ _ _)
    | (intro _ _ _)
    | (intro _ _)
    | (with_reducible apply Frame.ite_fst)
    | (with_reducible apply Frame.advance)
    | (with_reducible apply Frame.thermtrip)

theorem Frame.execThermalSample {z : State} (t : Nat) (temps : List Int) (power : Nat) {u : State} {l : List Blk}
    (hl : Sub [.board, .counters] l)
    (h : Machine.execThermalSample t temps power z = .next u) : Frame l z u := by
  have hk := Frame.refl l z
  unfold Machine.execThermalSample at h
  simp only [Host.Outcome.next.injEq] at h
  subst h
  repeat' first
    | with_reducible assumption
    | exact hl.of rfl
    | (intro _ _ _ _)
    | (intro _ _ _)
    | (intro _ _)
    | (with_reducible apply Frame.ite_fst)
    | (with_reducible apply Frame.advance)
    | (with_reducible apply Frame.thermalSample)

theorem Frame.execJunctionTempMaxClear {z : State} (r : Rq) {u : State} {l : List Blk}
    (hl : Sub [.board, .counters, .dict, .mbx] l)
    (h : Machine.execJunctionTempMaxClear r z = .next u) : Frame l z u := by
  have hk := Frame.refl l z
  unfold Machine.execJunctionTempMaxClear at h
  simp only [Host.Outcome.next.injEq] at h
  subst h
  repeat' first
    | with_reducible assumption
    | exact hl.of rfl
    | (intro _ _ _ _)
    | (intro _ _ _)
    | (intro _ _)
    | (with_reducible apply Frame.ite_fst)
    | (with_reducible apply Frame.serveAction)
    | (with_reducible apply Frame.modBoard)

theorem Frame.execSmbusJunctionTemp {z : State} {u : State} {l : List Blk}
    (hl : Sub [.free] l)
    (h : Machine.execSmbusJunctionTemp z = .next u) : Frame l z u := by
  have hk := Frame.refl l z
  unfold Machine.execSmbusJunctionTemp at h
  simp only [Host.Outcome.next.injEq] at h
  subst h
  repeat' first
    | with_reducible assumption
    | exact hl.of rfl
    | (intro _ _ _ _)
    | (intro _ _ _)
    | (intro _ _)
    | (with_reducible apply Frame.ite_fst)
    | (with_reducible apply Frame.smbusRead)
    | (with_reducible apply Frame.drawBool)
    | (with_reducible apply Frame.ite)

theorem Frame.execSmbusStatus {z : State} {u : State} {l : List Blk}
    (hl : Sub [] l)
    (h : Machine.execSmbusStatus z = .next u) : Frame l z u := by
  have hk := Frame.refl l z
  unfold Machine.execSmbusStatus at h
  simp only [Host.Outcome.next.injEq] at h
  subst h
  repeat' first
    | with_reducible assumption
    | exact hl.of rfl
    | (intro _ _ _ _)
    | (intro _ _ _)
    | (intro _ _)
    | (with_reducible apply Frame.ite_fst)
    | (with_reducible apply Frame.smbusRead)

theorem Frame.execSmbusPowerEstimate {z : State} {u : State} {l : List Blk}
    (hl : Sub [] l)
    (h : Machine.execSmbusPowerEstimate z = .next u) : Frame l z u := by
  have hk := Frame.refl l z
  unfold Machine.execSmbusPowerEstimate at h
  simp only [Host.Outcome.next.injEq] at h
  subst h
  repeat' first
    | with_reducible assumption
    | exact hl.of rfl
    | (intro _ _ _ _)
    | (intro _ _ _)
    | (intro _ _)
    | (with_reducible apply Frame.ite_fst)
    | (with_reducible apply Frame.smbusRead)

theorem Frame.execSmbusJunctionTempFine {z : State} {u : State} {l : List Blk}
    (hl : Sub [] l)
    (h : Machine.execSmbusJunctionTempFine z = .next u) : Frame l z u := by
  have hk := Frame.refl l z
  unfold Machine.execSmbusJunctionTempFine at h
  simp only [Host.Outcome.next.injEq] at h
  subst h
  repeat' first
    | with_reducible assumption
    | exact hl.of rfl
    | (intro _ _ _ _)
    | (intro _ _ _)
    | (intro _ _)
    | (with_reducible apply Frame.ite_fst)
    | (with_reducible apply Frame.smbusRead)

theorem Frame.execSmbusStepping {z : State} {u : State} {l : List Blk}
    (hl : Sub [] l)
    (h : Machine.execSmbusStepping z = .next u) : Frame l z u := by
  have hk := Frame.refl l z
  unfold Machine.execSmbusStepping at h
  simp only [Host.Outcome.next.injEq] at h
  subst h
  repeat' first
    | with_reducible assumption
    | exact hl.of rfl
    | (intro _ _ _ _)
    | (intro _ _ _)
    | (intro _ _)
    | (with_reducible apply Frame.ite_fst)
    | (with_reducible apply Frame.smbusRead)

theorem Frame.execRead {z : State} (r : Rq) {u : State} {l : List Blk}
    (hl : Sub [.counters, .dict, .mbx] l)
    (h : Machine.execRead r z = .next u) : Frame l z u := by
  have hk := Frame.refl l z
  unfold Machine.execRead at h
  simp only [Host.Outcome.next.injEq] at h
  subst h
  repeat' first
    | with_reducible assumption
    | exact hl.of rfl
    | (intro _ _ _ _)
    | (intro _ _ _)
    | (intro _ _)
    | (with_reducible apply Frame.ite_fst)
    | (with_reducible apply Frame.fdpServe)
    | (with_reducible apply Frame.readValue)

theorem Frame.execSubscriptionTimer {z : State} (t number : Nat) {u : State} {l : List Blk}
    (hl : Sub [.counters, .dict] l)
    (h : Machine.execSubscriptionTimer t number z = .next u) : Frame l z u := by
  have hk := Frame.refl l z
  unfold Machine.execSubscriptionTimer at h
  simp only [Host.Outcome.next.injEq] at h
  subst h
  repeat' first
    | with_reducible assumption
    | exact hl.of rfl
    | (intro _ _ _ _)
    | (intro _ _ _)
    | (intro _ _)
    | (with_reducible apply Frame.ite_fst)
    | (with_reducible apply Frame.advance)
    | (with_reducible apply Frame.notifyOne)
    | split

theorem Frame.execSubscribe {z : State} (r : Rq) {u : State} {l : List Blk}
    (hl : Sub [.free, .counters, .dict, .mbx] l)
    (h : Machine.execSubscribe r z = .next u) : Frame l z u := by
  have hk := Frame.refl l z
  unfold Machine.execSubscribe at h
  simp only [Host.Outcome.next.injEq] at h
  subst h
  repeat' first
    | with_reducible assumption
    | exact hl.of rfl
    | (intro _ _ _ _)
    | (intro _ _ _)
    | (intro _ _)
    | (with_reducible apply Frame.ite_fst)
    | (with_reducible apply Frame.fdpServe)
    | (with_reducible apply Frame.subscribeOne)

theorem Frame.execUnsubscribe {z : State} (r : Rq) {u : State} {l : List Blk}
    (hl : Sub [.counters, .dict, .mbx] l)
    (h : Machine.execUnsubscribe r z = .next u) : Frame l z u := by
  have hk := Frame.refl l z
  unfold Machine.execUnsubscribe at h
  simp only [Host.Outcome.next.injEq] at h
  subst h
  repeat' first
    | with_reducible assumption
    | exact hl.of rfl
    | (intro _ _ _ _)
    | (intro _ _ _)
    | (intro _ _)
    | (with_reducible apply Frame.ite_fst)
    | (with_reducible apply Frame.serveAction)
    | ((with_reducible apply Frame.modDict) <;> first | exact fun _ _ => rfl | exact fun h => hl.not rfl h | skip)

theorem Frame.execWrite {z : State} (r : Rq) {u : State} {l : List Blk}
    (hl : Sub [.boot, .counters, .dict, .mbx, .ports, .time, .tables, .buf, .sched, .ep, .funcs, .polders, .wq, .cipher, .siphon] l)
    (h : Machine.execWrite r z = .next u) : Frame l z u := by
  have hk := Frame.refl l z
  unfold Machine.execWrite at h
  simp only [Host.Outcome.next.injEq] at h
  subst h
  repeat' first
    | with_reducible assumption
    | exact hl.of rfl
    | (intro _ _ _ _)
    | (intro _ _ _)
    | (intro _ _)
    | (with_reducible apply Frame.ite_fst)
    | (with_reducible apply Frame.fdpServe)
    | (with_reducible apply Frame.writeOne)
    | (with_reducible apply Frame.writePost)
    | (with_reducible apply Frame.notifyChanges)

theorem Frame.execKeyBlob {z : State} (r : Rq) {u : State} {l : List Blk}
    (hl : Sub [.boot, .counters, .dict, .mbx, .ports, .time, .tables, .buf, .sched, .ep, .funcs, .polders, .wq, .cipher, .siphon] l)
    (h : Machine.execKeyBlob r z = .next u) : Frame l z u := by
  have hk := Frame.refl l z
  unfold Machine.execKeyBlob at h
  simp only [Host.Outcome.next.injEq] at h
  subst h
  repeat' first
    | with_reducible assumption
    | exact hl.of rfl
    | (intro _ _ _ _)
    | (intro _ _ _)
    | (intro _ _)
    | (with_reducible apply Frame.ite_fst)
    | (with_reducible apply Frame.fdpServe)
    | (with_reducible apply Frame.writeOne)
    | (with_reducible apply Frame.writePost)
    | (with_reducible apply Frame.notifyChanges)

theorem Frame.execServiceToken {z : State} (r : Rq) {u : State} {l : List Blk}
    (hl : Sub [.boot, .counters, .dict, .mbx, .ports, .time, .tables, .buf, .sched, .ep, .funcs, .polders, .wq, .cipher, .siphon] l)
    (h : Machine.execServiceToken r z = .next u) : Frame l z u := by
  have hk := Frame.refl l z
  unfold Machine.execServiceToken at h
  simp only [Host.Outcome.next.injEq] at h
  subst h
  repeat' first
    | with_reducible assumption
    | exact hl.of rfl
    | (intro _ _ _ _)
    | (intro _ _ _)
    | (intro _ _)
    | (with_reducible apply Frame.ite_fst)
    | (with_reducible apply Frame.fdpServe)
    | (with_reducible apply Frame.writeOne)
    | (with_reducible apply Frame.writePost)
    | (with_reducible apply Frame.notifyChanges)

theorem Frame.execDikeDmaWindows {z : State} (r : Rq) {u : State} {l : List Blk}
    (hl : Sub [.boot, .counters, .dict, .mbx, .ports, .time, .tables, .buf, .sched, .ep, .funcs, .polders, .wq, .cipher, .siphon] l)
    (h : Machine.execDikeDmaWindows r z = .next u) : Frame l z u := by
  have hk := Frame.refl l z
  unfold Machine.execDikeDmaWindows at h
  simp only [Host.Outcome.next.injEq] at h
  subst h
  repeat' first
    | with_reducible assumption
    | exact hl.of rfl
    | (intro _ _ _ _)
    | (intro _ _ _)
    | (intro _ _)
    | (with_reducible apply Frame.ite_fst)
    | (with_reducible apply Frame.fdpServe)
    | (with_reducible apply Frame.writeOne)
    | (with_reducible apply Frame.writePost)
    | (with_reducible apply Frame.notifyChanges)

theorem Frame.execTokenExpiry {z : State} (t session : Nat) {u : State} {l : List Blk}
    (hl : Sub [.dict] l)
    (h : Machine.execTokenExpiry t session z = .next u) : Frame l z u := by
  have hk := Frame.refl l z
  unfold Machine.execTokenExpiry at h
  simp only [Host.Outcome.next.injEq] at h
  subst h
  repeat' first
    | with_reducible assumption
    | exact hl.of rfl
    | (intro _ _ _ _)
    | (intro _ _ _)
    | (intro _ _)
    | (with_reducible apply Frame.ite_fst)
    | (with_reducible apply Frame.advance)
    | (with_reducible apply Frame.tokenExpiry)

theorem Frame.execReadBlock {z : State} (r : Rq) {u : State} {l : List Blk}
    (hl : Sub [.counters, .dict, .mbx] l)
    (h : Machine.execReadBlock r z = .next u) : Frame l z u := by
  have hk := Frame.refl l z
  unfold Machine.execReadBlock at h
  simp only [Host.Outcome.next.injEq] at h
  subst h
  repeat' first
    | with_reducible assumption
    | exact hl.of rfl
    | (intro _ _ _ _)
    | (intro _ _ _)
    | (intro _ _)
    | (with_reducible apply Frame.ite_fst)
    | (with_reducible apply Frame.fdpServe)
    | (with_reducible apply Frame.readBlockOne)

theorem Frame.execSnapshotExpiry {z : State} (t session : Nat) (w : ObjectSub) {u : State} {l : List Blk}
    (hl : Sub [.dict] l)
    (h : Machine.execSnapshotExpiry t session w z = .next u) : Frame l z u := by
  have hk := Frame.refl l z
  unfold Machine.execSnapshotExpiry at h
  simp only [Host.Outcome.next.injEq] at h
  subst h
  repeat' first
    | with_reducible assumption
    | exact hl.of rfl
    | (intro _ _ _ _)
    | (intro _ _ _)
    | (intro _ _)
    | (with_reducible apply Frame.ite_fst)
    | (with_reducible apply Frame.advance)
    | (with_reducible apply Frame.dropSnap)
    | (with_reducible apply Frame.ite)

theorem Frame.execWriteBlock {z : State} (r : Rq) {u : State} {l : List Blk}
    (hl : Sub [.boot, .counters, .dict, .mbx, .ports, .time, .tables, .buf, .sched, .ep, .funcs, .polders, .wq, .cipher, .siphon] l)
    (h : Machine.execWriteBlock r z = .next u) : Frame l z u := by
  have hk := Frame.refl l z
  unfold Machine.execWriteBlock at h
  simp only [Host.Outcome.next.injEq] at h
  subst h
  repeat' first
    | with_reducible assumption
    | exact hl.of rfl
    | (intro _ _ _ _)
    | (intro _ _ _)
    | (intro _ _)
    | (with_reducible apply Frame.ite_fst)
    | (with_reducible apply Frame.fdpServe)
    | (with_reducible apply Frame.notifyChanges)
    | (with_reducible apply Frame.writeBlockOne)
    | (with_reducible apply Frame.blockPost)

theorem Frame.execStagingExpiry {z : State} (t session : Nat) (w : ObjectSub) {u : State} {l : List Blk}
    (hl : Sub [.boot, .dict] l)
    (h : Machine.execStagingExpiry t session w z = .next u) : Frame l z u := by
  have hk := Frame.refl l z
  unfold Machine.execStagingExpiry at h
  simp only [Host.Outcome.next.injEq] at h
  subst h
  repeat' first
    | with_reducible assumption
    | exact hl.of rfl
    | (intro _ _ _ _)
    | (intro _ _ _)
    | (intro _ _)
    | (with_reducible apply Frame.ite_fst)
    | (with_reducible apply Frame.advance)
    | (with_reducible apply Frame.dropStaging)
    | (with_reducible apply Frame.ite)

theorem Frame.execKeptResponseExpiry {z : State} (t : Nat) (w : KeptId) {u : State} {l : List Blk}
    (hl : Sub [.dict] l)
    (h : Machine.execKeptResponseExpiry t w z = .next u) : Frame l z u := by
  have hk := Frame.refl l z
  unfold Machine.execKeptResponseExpiry at h
  simp only [Host.Outcome.next.injEq] at h
  subst h
  repeat' first
    | with_reducible assumption
    | exact hl.of rfl
    | (intro _ _ _ _)
    | (intro _ _ _)
    | (intro _ _)
    | (with_reducible apply Frame.ite_fst)
    | (with_reducible apply Frame.setSession)
    | (with_reducible apply Frame.advance)
    | (with_reducible apply Frame.setSession)
    | split

theorem Frame.execStoreAll {z : State} (r : Rq) {u : State} {l : List Blk}
    (hl : Sub [.boot, .counters, .dict, .mbx] l)
    (h : Machine.execStoreAll r z = .next u) : Frame l z u := by
  have hk := Frame.refl l z
  unfold Machine.execStoreAll at h
  simp only [Host.Outcome.next.injEq] at h
  subst h
  repeat' first
    | with_reducible assumption
    | exact hl.of rfl
    | (intro _ _ _ _)
    | (intro _ _ _)
    | (intro _ _)
    | (with_reducible apply Frame.ite_fst)
    | (with_reducible apply Frame.serveAction)
    | (with_reducible apply Frame.storeBegin)

theorem Frame.execRestoreDefaults {z : State} (r : Rq) {u : State} {l : List Blk}
    (hl : Sub [.boot, .counters, .dict, .mbx] l)
    (h : Machine.execRestoreDefaults r z = .next u) : Frame l z u := by
  have hk := Frame.refl l z
  unfold Machine.execRestoreDefaults at h
  simp only [Host.Outcome.next.injEq] at h
  subst h
  repeat' first
    | with_reducible assumption
    | exact hl.of rfl
    | (intro _ _ _ _)
    | (intro _ _ _)
    | (intro _ _)
    | (with_reducible apply Frame.ite_fst)
    | (with_reducible apply Frame.serveAction)
    | (with_reducible apply Frame.storeBegin)

theorem Frame.execStoreAllComplete {z : State} (t : Nat) (readBackOk : Bool) {u : State} {l : List Blk}
    (hl : Sub [.boot, .counters, .dict, .mbx] l)
    (h : Machine.execStoreAllComplete t readBackOk z = .next u) : Frame l z u := by
  have hk := Frame.refl l z
  unfold Machine.execStoreAllComplete at h
  simp only [Host.Outcome.next.injEq] at h
  subst h
  repeat' first
    | with_reducible assumption
    | exact hl.of rfl
    | (intro _ _ _ _)
    | (intro _ _ _)
    | (intro _ _)
    | (with_reducible apply Frame.ite_fst)
    | (with_reducible apply Frame.advance)
    | (with_reducible apply Frame.storeEnd)

theorem Frame.execDikeHeartbeatTimeout {z : State} (w : Missed) {u : State} {l : List Blk}
    (hl : Sub [.boot, .counters, .dict, .mbx, .ports, .time, .tables, .buf, .sched, .ep, .funcs, .polders, .wq, .cipher, .siphon, .jrn] l)
    (h : Machine.execDikeHeartbeatTimeout w z = .next u) : Frame l z u := by
  have hk := Frame.refl l z
  unfold Machine.execDikeHeartbeatTimeout at h
  simp only [Host.Outcome.next.injEq] at h
  subst h
  repeat' first
    | with_reducible assumption
    | exact hl.of rfl
    | (intro _ _ _ _)
    | (intro _ _ _)
    | (intro _ _)
    | (with_reducible apply Frame.ite_fst)
    | (with_reducible apply Frame.advance)
    | (with_reducible apply Frame.dikeHeartbeatTimeout)

theorem Frame.execMbxGo {z : State} (t : Nat) (v : Word32) {u : State} {l : List Blk}
    (hl : Sub [.counters, .mbx, .funcs] l)
    (h : Machine.execMbxGo t v z = .next u) : Frame l z u := by
  have hk := Frame.refl l z
  unfold Machine.execMbxGo at h
  simp only [Host.Outcome.next.injEq] at h
  subst h
  repeat' first
    | with_reducible assumption
    | exact hl.of rfl
    | (intro _ _ _ _)
    | (intro _ _ _)
    | (intro _ _)
    | (with_reducible apply Frame.ite_fst)
    | (with_reducible apply Frame.advance)
    | (with_reducible apply Frame.barMissed)
    | (with_reducible apply Frame.mbxCtrl)
    | (with_reducible apply Frame.ite)

theorem Frame.execRegisterWrite {z : State} (t fn bar off size value : Nat) {u : State} {l : List Blk}
    (hl : Sub [.free, .counters, .mbx, .tables, .buf, .sched, .ep, .funcs, .polders, .wq, .cipher, .siphon, .jrn] l)
    (h : Machine.execRegisterWrite t fn bar off size value z = .next u) : Frame l z u := by
  have hk := Frame.refl l z
  unfold Machine.execRegisterWrite at h
  simp only [Host.Outcome.next.injEq] at h
  subst h
  repeat' first
    | with_reducible assumption
    | exact hl.of rfl
    | (intro _ _ _ _)
    | (intro _ _ _)
    | (intro _ _)
    | (with_reducible apply Frame.ite_fst)
    | (with_reducible apply Frame.advance)
    | (with_reducible apply Frame.registerWrite)

end Sys2Proof
end

