-- ==== Sys2Proof/Laws/Keeps.lean ====
section
/-! SUPPORT. What every operation of the part keeps: the waiting commands, the passage of time, what
has left the part, and the canonical form of memory and tables. The relation is stated once; each
operation has one lemma, which takes it from the state before the operation to the state after. -/

namespace Sys2Proof.Machine
open Sys2Proof

/-- From `s` the part came to `t` without touching the waiting commands, turning time back or taking
back what it sent, and a canonical `s` gives a canonical `t`. -/
structure Keeps (s t : State) : Prop where
  pending : t.pending = s.pending
  clock : s.clock ≤ t.clock
  out : ∃ l, t.out = s.out ++ l
  form : Canonical s → Canonical t

theorem Keeps.refl (s : State) : Keeps s s := ⟨rfl, le_refl _, ⟨[], by simp⟩, id⟩

theorem Keeps.trans {s x t : State} (a : Keeps s x) (b : Keeps x t) : Keeps s t :=
  ⟨b.pending.trans a.pending, a.clock.trans b.clock,
   by obtain ⟨l, hl⟩ := a.out; obtain ⟨m, hm⟩ := b.out; exact ⟨l ++ m, by rw [hm, hl, List.append_assoc]⟩,
   fun h => b.form (a.form h)⟩

/-- A change of the state that leaves the queue, the clock and the record of what was sent alone. -/
theorem Keeps.upd {s x t : State} (k : Keeps s x) (hp : t.pending = x.pending) (hc : t.clock = x.clock)
    (ho : t.out = x.out) (hf : Canonical x → Canonical t) : Keeps s t :=
  k.trans ⟨hp, le_of_eq hc.symm, ⟨[], by rw [ho, List.append_nil]⟩, hf⟩

/-- A change of fields that carry no canonical table. -/
theorem Keeps.plain {s x t : State} (k : Keeps s x) (hp : t.pending = x.pending) (hc : t.clock = x.clock)
    (ho : t.out = x.out) (h1 : t.mbx = x.mbx) (h2 : t.dict = x.dict) (h3 : t.ports = x.ports)
    (h4 : t.frer = x.frer) (h5 : t.tables = x.tables) (h6 : t.flow = x.flow) (h7 : t.buf = x.buf)
    (h8 : t.sched = x.sched) (h9 : t.ep = x.ep) (h10 : t.polders = x.polders) (h11 : t.wq = x.wq)
    (h12 : t.cipher = x.cipher) (h13 : t.siphon = x.siphon) (h14 : t.jrn = x.jrn) (h15 : t.evt = x.evt) :
    Keeps s t :=
  k.upd hp hc ho (by unfold Canonical; rw [h1, h2, h3, h4, h5, h6, h7, h8, h9, h10, h11, h12, h13, h14, h15]; exact id)

theorem Keeps.ite {s a b : State} {c : Prop} [Decidable c] (ha : Keeps s a) (hb : Keeps s b) :
    Keeps s (if c then a else b) := by split <;> assumption

theorem Keeps.cond {s a b : State} {c : Bool} (ha : Keeps s a) (hb : Keeps s b) :
    Keeps s (bif c then a else b) := by cases c <;> assumption

theorem Keeps.foldl {α : Type} {s x : State} {f : State → α → State} (l : List α)
    (hf : ∀ y a, Keeps s y → Keeps s (f y a)) (k : Keeps s x) : Keeps s (l.foldl f x) := by
  induction l generalizing x with
  | nil => exact k
  | cons a l ih => exact ih (hf x a k)

/-- A fold over a state and something beside it. -/
theorem Keeps.foldl_fst {α β : Type} {s : State} {x : State × β} {f : State × β → α → State × β} (l : List α)
    (hf : ∀ y a, Keeps s y.1 → Keeps s (f y a).1) (k : Keeps s x.1) : Keeps s (l.foldl f x).1 := by
  induction l generalizing x with
  | nil => exact k
  | cons a l ih => exact ih (hf x a k)

theorem Keeps.foldl_snd {α β : Type} {s : State} {x : β × State} {f : β × State → α → β × State} (l : List α)
    (hf : ∀ y a, Keeps s y.2 → Keeps s (f y a).2) (k : Keeps s x.2) : Keeps s (l.foldl f x).2 := by
  induction l generalizing x with
  | nil => exact k
  | cons a l ih => exact ih (hf x a k)

theorem Keeps.ite_fst {β : Type} {s : State} {a b : State × β} {c : Prop} [Decidable c] (ha : Keeps s a.1)
    (hb : Keeps s b.1) : Keeps s (if c then a else b).1 := by split <;> assumption

theorem Keeps.ite_snd {β : Type} {s : State} {a b : β × State} {c : Prop} [Decidable c] (ha : Keeps s a.2)
    (hb : Keeps s b.2) : Keeps s (if c then a else b).2 := by split <;> assumption

theorem Keeps.forEach {α : Type} {s x : State} {f : α → State → State} (l : List α)
    (hf : ∀ a y, Keeps s y → Keeps s (f a y)) (k : Keeps s x) : Keeps s (forEach l f x) :=
  Keeps.foldl l (fun y a => hf a y) k

/-- A pair that is taken apart by a match. -/
theorem Keeps.of_eq_snd {β : Type} {s y : State} {p : β × State} {b : β} (h : p = (b, y)) (k : Keeps s p.2) :
    Keeps s y := by subst h; exact k

theorem Keeps.of_eq_fst {β : Type} {s y : State} {p : State × β} {b : β} (h : p = (y, b)) (k : Keeps s p.1) :
    Keeps s y := by subst h; exact k

/-! ### One block changes -/

section Blocks
variable {s x : State}

theorem Keeps.modBoard {f} (k : Keeps s x) : Keeps s (modBoard f x) := by
  exact k.plain rfl rfl rfl rfl rfl rfl rfl rfl rfl rfl rfl rfl rfl rfl rfl rfl rfl rfl
theorem Keeps.modBoot {f} (k : Keeps s x) : Keeps s (modBoot f x) := by
  exact k.plain rfl rfl rfl rfl rfl rfl rfl rfl rfl rfl rfl rfl rfl rfl rfl rfl rfl rfl
theorem Keeps.modTime {f} (k : Keeps s x) : Keeps s (modTime f x) := by
  exact k.plain rfl rfl rfl rfl rfl rfl rfl rfl rfl rfl rfl rfl rfl rfl rfl rfl rfl rfl
theorem Keeps.modCls {f} (k : Keeps s x) : Keeps s (modCls f x) := by
  exact k.plain rfl rfl rfl rfl rfl rfl rfl rfl rfl rfl rfl rfl rfl rfl rfl rfl rfl rfl
theorem Keeps.modTest {f} (k : Keeps s x) : Keeps s (modTest f x) := by
  exact k.plain rfl rfl rfl rfl rfl rfl rfl rfl rfl rfl rfl rfl rfl rfl rfl rfl rfl rfl
theorem Keeps.modCulv {f} (k : Keeps s x) : Keeps s (modCulv f x) := by
  exact k.plain rfl rfl rfl rfl rfl rfl rfl rfl rfl rfl rfl rfl rfl rfl rfl rfl rfl rfl

theorem Keeps.modDict {f} (k : Keeps s x) (h : DictForm x.dict → DictForm (f x.dict)) : Keeps s (modDict f x) :=
  k.upd rfl rfl rfl (fun ⟨a, b, c⟩ => ⟨a, h b, c⟩)
theorem Keeps.modMbx {f} (k : Keeps s x) (h : MailboxForm x.mbx → MailboxForm (f x.mbx)) : Keeps s (modMbx f x) :=
  k.upd rfl rfl rfl (fun ⟨a, c⟩ => ⟨h a, c⟩)
theorem Keeps.modTables {f} (k : Keeps s x) (h : TablesForm x.tables → TablesForm (f x.tables)) :
    Keeps s (modTables f x) :=
  k.upd rfl rfl rfl (fun ⟨a, b, c, d, e, r⟩ => ⟨a, b, c, d, h e, r⟩)
theorem Keeps.modFlow {f} (k : Keeps s x) (h : FlowForm x.flow → FlowForm (f x.flow)) : Keeps s (modFlow f x) :=
  k.upd rfl rfl rfl (fun ⟨a, b, c, d, e, g, r⟩ => ⟨a, b, c, d, e, h g, r⟩)
theorem Keeps.modBuf {f} (k : Keeps s x) (h : BufForm x.buf → BufForm (f x.buf)) : Keeps s (modBuf f x) :=
  k.upd rfl rfl rfl (fun ⟨a, b, c, d, e, g, i, r⟩ => ⟨a, b, c, d, e, g, h i, r⟩)
theorem Keeps.modSched {f} (k : Keeps s x) (h : SchedForm x.sched → SchedForm (f x.sched)) : Keeps s (modSched f x) :=
  k.upd rfl rfl rfl (fun ⟨a, b, c, d, e, g, i, j, r⟩ => ⟨a, b, c, d, e, g, i, h j, r⟩)
theorem Keeps.modEp {f} (k : Keeps s x) (h : EndpointForm x.ep → EndpointForm (f x.ep)) : Keeps s (modEp f x) :=
  k.upd rfl rfl rfl (fun ⟨a, b, c, d, e, g, i, j, l, r⟩ => ⟨a, b, c, d, e, g, i, j, h l, r⟩)
theorem Keeps.modPolders {f} (k : Keeps s x) (h : PoldersForm x.polders → PoldersForm (f x.polders)) :
    Keeps s (modPolders f x) :=
  k.upd rfl rfl rfl (fun ⟨a, b, c, d, e, g, i, j, l, m, r⟩ => ⟨a, b, c, d, e, g, i, j, l, h m, r⟩)
theorem Keeps.modCipher {f} (k : Keeps s x) (h : CipherForm x.cipher → CipherForm (f x.cipher)) :
    Keeps s (modCipher f x) :=
  k.upd rfl rfl rfl (fun ⟨a, b, c, d, e, g, i, j, l, m, n, o, r⟩ => ⟨a, b, c, d, e, g, i, j, l, m, n, h o, r⟩)
theorem Keeps.modSiphon {f} (k : Keeps s x) (h : SiphonForm x.siphon → SiphonForm (f x.siphon)) :
    Keeps s (modSiphon f x) :=
  k.upd rfl rfl rfl (fun ⟨a, b, c, d, e, g, i, j, l, m, n, o, p, r⟩ => ⟨a, b, c, d, e, g, i, j, l, m, n, o, h p, r⟩)
theorem Keeps.modJrn {f} (k : Keeps s x) (h : JournalForm x.jrn → JournalForm (f x.jrn)) : Keeps s (modJrn f x) :=
  k.upd rfl rfl rfl
    (fun ⟨a, b, c, d, e, g, i, j, l, m, n, o, p, q, r⟩ => ⟨a, b, c, d, e, g, i, j, l, m, n, o, p, h q, r⟩)
theorem Keeps.modEvt {f} (k : Keeps s x) (h : EventsForm x.evt → EventsForm (f x.evt)) : Keeps s (modEvt f x) :=
  k.upd rfl rfl rfl
    (fun ⟨a, b, c, d, e, g, i, j, l, m, n, o, p, q, r⟩ => ⟨a, b, c, d, e, g, i, j, l, m, n, o, p, q, h r⟩)

/-! ### Records by number -/

theorem Keeps.setPort (k : Keeps s x) (p : Nat) (v : Port) : Keeps s (x.setPort p v) :=
  k.upd rfl rfl rfl (fun ⟨a, b, c, r⟩ => ⟨a, b, Tab.wf_set p v c, r⟩)
theorem Keeps.setFrer (k : Keeps s x) (i : Nat) (v : Frer) : Keeps s (x.setFrer i v) :=
  k.upd rfl rfl rfl (fun ⟨a, b, c, d, r⟩ => ⟨a, b, c, Tab.wf_set i v d, r⟩)
theorem Keeps.setQueue (k : Keeps s x) (fn q : Nat) (v : Queue) : Keeps s (x.setQueue fn q v) :=
  k.upd rfl rfl rfl (fun ⟨a, b, c, d, e, g, i, j, l, m, n, r⟩ =>
    ⟨a, b, c, d, e, g, i, j, l, m, Tab.wf_set _ v n, r⟩)
theorem Keeps.setPsched (k : Keeps s x) (p : Nat) (v : PortSched) : Keeps s (x.setPsched p v) := k.modSched id
theorem Keeps.setHtx (k : Keeps s x) (d : Nat) (v : HtxSched) : Keeps s (x.setHtx d v) := k.modSched id
theorem Keeps.setWeir (k : Keeps s x) (d w : Nat) (v : Weir) : Keeps s (x.setWeir d w v) :=
  k.modSched (fun ⟨a, b⟩ => ⟨Tab.wf_set _ v a, b⟩)
theorem Keeps.setFilter (k : Keeps s x) (h : Nat) (v : StreamFilter) : Keeps s (x.setFilter h v) :=
  k.modSched (fun ⟨a, b⟩ => ⟨a, Tab.wf_set _ v b⟩)
theorem Keeps.setFunc (k : Keeps s x) (n : Nat) (v : Func) : Keeps s (x.setFunc n v) :=
  k.modEp (fun ⟨a, b⟩ => ⟨Tab.wf_set n v a, b⟩)
theorem Keeps.setMsix (k : Keeps s x) (fn n : Nat) (v : MsixEntry) : Keeps s (x.setMsix fn n v) :=
  k.modEp (fun ⟨a, b⟩ => ⟨a, Tab.wf_set _ v b⟩)
theorem Keeps.setPolder (k : Keeps s x) (n : Nat) (v : Polder) : Keeps s (x.setPolder n v) :=
  k.modPolders (fun ⟨a, b⟩ => ⟨Tab.wf_set n v a, b⟩)
theorem Keeps.setSession (k : Keeps s x) (n : Nat) (v : Session) : Keeps s (x.setSession n v) :=
  k.modDict (fun ⟨a, b⟩ => ⟨a, Tab.wf_set n v b⟩)
theorem Keeps.setBufDie (k : Keeps s x) (d : Nat) (v : BufDie) : Keeps s (x.setBufDie d v) :=
  k.modBuf (fun ⟨a, b⟩ => ⟨Tab.wf_set d v a, b⟩)
theorem Keeps.setFlowDie (k : Keeps s x) (d : Nat) (v : FlowDie) : Keeps s (x.setFlowDie d v) :=
  k.modFlow (fun ⟨a, b⟩ => ⟨a, Tab.wf_set d v b⟩)
theorem Keeps.setCtx (k : Keeps s x) (c : Nat) (v : Ctx) : Keeps s (x.setCtx c v) :=
  k.modFlow (fun ⟨a, b⟩ => ⟨Tab.wf_set c v a, b⟩)
theorem Keeps.setChannel (k : Keeps s x) (g : Nat) (v : Channel) : Keeps s (x.setChannel g v) :=
  k.modSiphon (fun ⟨a, b⟩ => ⟨Tab.wf_set g v a, b⟩)
theorem Keeps.setRegion (k : Keeps s x) (g : Nat) (v : Region) : Keeps s (x.setRegion g v) :=
  k.modSiphon (fun ⟨a, b, c⟩ => ⟨a, Tab.wf_set g v b, c⟩)
theorem Keeps.setKeySlot (k : Keeps s x) (g : Nat) (v : KeySlot) : Keeps s (x.setKeySlot g v) :=
  k.modCipher (fun ⟨a, b⟩ => ⟨Tab.wf_set g v a, b⟩)
theorem Keeps.setCart (k : Keeps s x) (i : Nat) (v : CartSlot) : Keeps s (x.setCart i v) := k.modJrn id
theorem Keeps.setSpace (k : Keeps s x) (n : Nat) (v : Space) : Keeps s (x.setSpace n v) := k.modJrn id
theorem Keeps.setPage (k : Keeps s x) (n : Nat) (v : Page) : Keeps s (x.setPage n v) :=
  k.modEvt (fun ⟨a, b, c, d, e⟩ => ⟨a, b, c, d, Tab.wf_set n v e⟩)

/-! ### Output, free values, tickets -/

theorem Keeps.emit (k : Keeps s x) (o : Out) : Keeps s (emit o x) :=
  k.trans ⟨rfl, le_refl _, ⟨[o], rfl⟩, id⟩
theorem Keeps.drawNat (k : Keeps s x) : Keeps s (drawNat x).2 :=
  k.plain rfl rfl rfl rfl rfl rfl rfl rfl rfl rfl rfl rfl rfl rfl rfl rfl rfl rfl
theorem Keeps.drawBool (k : Keeps s x) : Keeps s (drawBool x).2 :=
  k.plain rfl rfl rfl rfl rfl rfl rfl rfl rfl rfl rfl rfl rfl rfl rfl rfl rfl rfl
theorem Keeps.drawBytes (k : Keeps s x) (n : Nat) : Keeps s (drawBytes n x).2 :=
  k.plain rfl rfl rfl rfl rfl rfl rfl rfl rfl rfl rfl rfl rfl rfl rfl rfl rfl rfl
theorem Keeps.ticket (k : Keeps s x) : Keeps s (ticket x).2 :=
  k.plain rfl rfl rfl rfl rfl rfl rfl rfl rfl rfl rfl rfl rfl rfl rfl rfl rfl rfl

end Blocks
end Sys2Proof.Machine
end

