-- ==== Sys2Proof/Laws/KeepsOps.lean ====
section
/-! SUPPORT. What the operations of Machine/Ops.lean keep. -/

namespace Sys2Proof.Machine
open Sys2Proof

theorem Keeps.setVal {s z : State} (hk : Keeps s z) (idx sub : Nat) (v : Bytes) :
    Keeps s (Machine.setVal idx sub v z) := by
  unfold Machine.setVal
  repeat' first
    | with_reducible assumption
    | ((with_reducible refine Keeps.modDict ?_ ?_) <;> [skip; (generalize State.dict _ = b; exact fun h => h)])
    | ((with_reducible refine Keeps.modDict ?_ ?_) <;> [skip; (intro h; unfold DictForm at h ⊢; simp_all [Tab.wf_set, Tab.wf_upd, Tab.wf_filter, Tab.wf_ite])])
    | ((with_reducible refine Keeps.modDict ?_ ?_) <;> [skip; (intro h; unfold DictForm at h ⊢; split <;> simp_all [Tab.wf_set, Tab.wf_upd, Tab.wf_filter, Tab.wf_ite])])
    | (with_reducible apply Keeps.ite)
    | exact Keeps.plain hk rfl rfl rfl rfl rfl rfl rfl rfl rfl rfl rfl rfl rfl rfl rfl rfl rfl rfl

theorem Keeps.setEvtStat {s x : State} (k : Keeps s x) (g v : Nat) : Keeps s (setEvtStat g v x) :=
  k.modEvt (fun ⟨a, b⟩ => ⟨Tab.wf_set _ _ a, b⟩)

theorem Keeps.intxEval {s z : State} (hk : Keeps s z) :
    Keeps s (Machine.intxEval z) := by
  unfold Machine.intxEval
  repeat' first
    | with_reducible assumption
    | (with_reducible apply Keeps.emit)
    | ((with_reducible refine Keeps.modEp ?_ ?_) <;> [skip; (generalize State.ep _ = b; exact fun h => h)])
    | ((with_reducible refine Keeps.modEp ?_ ?_) <;> [skip; (intro h; unfold EndpointForm at h ⊢; simp_all [Tab.wf_set, Tab.wf_upd, Tab.wf_filter, Tab.wf_ite])])
    | ((with_reducible refine Keeps.modEp ?_ ?_) <;> [skip; (intro h; unfold EndpointForm at h ⊢; split <;> simp_all [Tab.wf_set, Tab.wf_upd, Tab.wf_filter, Tab.wf_ite])])
    | (with_reducible apply Keeps.ite)
    | exact Keeps.plain hk rfl rfl rfl rfl rfl rfl rfl rfl rfl rfl rfl rfl rfl rfl rfl rfl rfl rfl

theorem Keeps.countDevice {s : State} {acc : State × List Occ} (k : Keeps s acc.1) (ev n : Nat)
    (port tc polder : Option Nat) (e : Nat × DevCtr) : Keeps s (countDevice ev n port tc polder acc e).1 := by
  unfold Machine.countDevice
  repeat' first
    | with_reducible assumption
    | (with_reducible apply Keeps.ite_fst)
    | ((with_reducible refine Keeps.modEvt ?_ ?_) <;> [skip; exact fun h => h])

theorem Keeps.countPage {s : State} {acc : State × List Occ} (k : Keeps s acc.1) (fn ev n i : Nat) :
    Keeps s (countPage fn ev n acc i).1 := by
  unfold Machine.countPage
  dsimp only
  split
  repeat' first
    | with_reducible assumption
    | (with_reducible apply Keeps.ite_fst)
    | (with_reducible apply Keeps.setPage)
    | split

theorem Keeps.occurStep {s x : State} (k : Keeps s x) (o : Occ) : Keeps s (occurStep o x).1 := by
  cases o with
  | event n =>
    unfold Machine.occurStep
    dsimp only
    split
    · exact Keeps.intxEval (Keeps.modEvt (k.setEvtStat _ _)
        (fun ⟨a, b, c, d, e⟩ => ⟨a, b, c, by dsimp only; exact Tab.wf_upd _ _ d, e⟩))
    · exact k
  | count ev n port tc polder =>
    unfold Machine.occurStep
    have h := Keeps.foldl_fst (f := Machine.countDevice ev n port tc polder) x.evt.ctrs
      (x := (x, ([] : List Occ))) (fun y a ky => ky.countDevice ev n port tc polder a) k
    dsimp only
    split
    · exact h
    · exact Keeps.foldl_fst (f := Machine.countPage _ ev n) _ (fun y a ky => ky.countPage _ ev n a) h
  | msg fn vec =>
    unfold Machine.occurStep
    repeat' first
      | with_reducible assumption
      | (with_reducible apply Keeps.ite_fst)
      | (with_reducible apply Keeps.emit)
      | (with_reducible apply Keeps.setMsix)

theorem Keeps.occur {s x : State} (k : Keeps s x) (n : Nat) (l : List Occ) : Keeps s (occur n l x) := by
  induction n generalizing l x with
  | zero => exact k
  | succ n ih =>
    cases l with
    | nil => exact k
    | cons o rest => exact ih (k.occurStep o) _

theorem Keeps.raise {s z : State} (hk : Keeps s z) (n : Nat) :
    Keeps s (Machine.raise n z) := by
  unfold Machine.raise
  repeat' first
    | with_reducible assumption
    | (with_reducible apply Keeps.occur)

theorem Keeps.countEv {s z : State} (hk : Keeps s z) (ev n : Nat) (port tc polder : Option Nat) :
    Keeps s (Machine.countEv ev n port tc polder z) := by
  unfold Machine.countEv
  repeat' first
    | with_reducible assumption
    | (with_reducible apply Keeps.occur)
    | (with_reducible apply Keeps.count)

theorem Keeps.signal {s z : State} (hk : Keeps s z) (fn vec : Nat) :
    Keeps s (Machine.signal fn vec z) := by
  unfold Machine.signal
  repeat' first
    | with_reducible assumption
    | (with_reducible apply Keeps.occur)

theorem Keeps.raiseDie {s z : State} (hk : Keeps s z) (die k : Nat) :
    Keeps s (Machine.raiseDie die k z) := by
  unfold Machine.raiseDie
  repeat' first
    | with_reducible assumption
    | (with_reducible apply Keeps.raise)

theorem Keeps.raisePort {s x : State} (k : Keeps s x) (port n : Nat) : Keeps s (raisePort port n x) :=
  Keeps.raiseDie (Keeps.modEvt k (fun h => h)) _ _

theorem Keeps.raiseSlot {s z : State} (hk : Keeps s z) (slot k : Nat) :
    Keeps s (Machine.raiseSlot slot k z) := by
  unfold Machine.raiseSlot
  repeat' first
    | with_reducible assumption
    | (with_reducible apply Keeps.raise)

theorem Keeps.bumpObj {s x : State} (k : Keeps s x) (idx sub n : Nat) : Keeps s (bumpObj idx sub n x) :=
  k.modDict (fun ⟨a, b⟩ => ⟨by dsimp only; exact Tab.wf_upd _ _ a, b⟩)

theorem Keeps.countQ {s z : State} (hk : Keeps s z) (idx sub n : Nat) (port tc polder : Option Nat) :
    Keeps s (Machine.countQ idx sub n port tc polder z) := by
  unfold Machine.countQ
  repeat' first
    | with_reducible assumption
    | (with_reducible apply Keeps.countEv)
    | (with_reducible apply Keeps.bumpObj)
    | (with_reducible apply Keeps.ite)

theorem Keeps.count {s z : State} (hk : Keeps s z) (idx sub : Nat) :
    Keeps s (Machine.count idx sub z) := by
  unfold Machine.count
  repeat' first
    | with_reducible assumption
    | (with_reducible apply Keeps.countQ)

theorem Keeps.countPort {s z : State} (hk : Keeps s z) (port sub n : Nat) :
    Keeps s (Machine.countPort port sub n z) := by
  unfold Machine.countPort
  repeat' first
    | with_reducible assumption
    | (with_reducible apply Keeps.countQ)

theorem Keeps.countFor {s z : State} (hk : Keeps s z) (idx sub n polder : Nat) :
    Keeps s (Machine.countFor idx sub n polder z) := by
  unfold Machine.countFor
  repeat' first
    | with_reducible assumption
    | (with_reducible apply Keeps.countQ)

theorem Keeps.countPolder {s z : State} (hk : Keeps s z) (polder sub : Nat) :
    Keeps s (Machine.countPolder polder sub z) := by
  unfold Machine.countPolder
  repeat' first
    | with_reducible assumption
    | (with_reducible apply Keeps.countQ)

theorem Keeps.advance {s x : State} (k : Keeps s x) (t : Nat) : Keeps s (advance t x) := by
  unfold Machine.advance
  split
  · apply Keeps.countEv
    apply Keeps.countEv
    exact k.trans ⟨rfl, Nat.le_of_lt ‹_›, ⟨[], by simp⟩, id⟩
  · exact k

theorem Keeps.dikeLog {s z : State} (hk : Keeps s z) (o : Origin) (die cls target : Nat) :
    Keeps s (Machine.dikeLog o die cls target z) := by
  unfold Machine.dikeLog
  repeat' first
    | with_reducible assumption
    | (with_reducible apply Keeps.raise)
    | (with_reducible apply Keeps.count)
    | (with_reducible apply Keeps.ite)
    | exact Keeps.plain hk rfl rfl rfl rfl rfl rfl rfl rfl rfl rfl rfl rfl rfl rfl rfl rfl rfl rfl

theorem Keeps.dikeLogFields {s z : State} (hk : Keeps s z) (o : Origin) (cls target : Nat) :
    Keeps s (Machine.dikeLogFields o cls target z) := by
  unfold Machine.dikeLogFields
  repeat' first
    | with_reducible assumption
    | (with_reducible apply Keeps.dikeLog)
    | (with_reducible refine Keeps.forEach _ (fun _ _ _ => ?_) ?_)

theorem Keeps.dmaBytesRead {s z : State} (hk : Keeps s z) (fn n : Nat) :
    Keeps s (Machine.dmaBytesRead fn n z) := by
  unfold Machine.dmaBytesRead
  repeat' first
    | with_reducible assumption
    | (with_reducible apply Keeps.countEv)

theorem Keeps.ddrWrite {s x : State} (k : Keeps s x) (addr : Nat) (data : Bytes) : Keeps s (ddrWrite addr data x) :=
  k.modSiphon (fun ⟨a, b, c⟩ => ⟨a, b, Tab.wf_foldl _ _ (fun _ _ h => Tab.wf_set _ _ h) c⟩)

theorem Keeps.markFault {s x : State} (k : Keeps s x) (fn : Nat) (v : Bool) :
    Keeps s (Machine.modPolders (fun y => { y with faultMap := Tab.set false y.faultMap fn v }) x) :=
  k.modPolders (fun ⟨a, b, c⟩ => ⟨a, Tab.wf_set _ _ b, c⟩)

theorem Keeps.polderFault {s x : State} (k : Keeps s x) (fn status kind q : Nat) :
    Keeps s (polderFault fn status kind q x) := by
  unfold Machine.polderFault
  repeat' first
    | with_reducible assumption
    | (with_reducible apply Keeps.ite)
    | (with_reducible apply Keeps.raise)
    | (with_reducible apply Keeps.markFault)
    | (with_reducible apply Keeps.setPolder)
    | (with_reducible apply Keeps.countPolder)

end Sys2Proof.Machine
end

