-- ==== Sys2Proof/Laws/Interrupts.lean ====
section
/-! SUPPORT. Interrupts: an open vector's message leaves, no occurrence masks or unmasks a vector, and INTA stays
deasserted while nothing may assert it. -/

namespace Sys2Proof.Machine

/-- A signal of an open vector sends its message (spec 09 R312). -/
theorem signal_sends {fn vec : Nat} {s : State} (he : (s.func fn).msixEnable = true) (ho : msixOpen s fn vec = true) :
    .msix fn vec ∈ (signal fn vec s).out := by
  have e : signal fn vec s = occur 31 [.count 0x342 1 none none (some fn)] (emit (.msix fn vec) s) := by
    show occur 31 ([] ++ (occurStep (.msg fn vec) s).2) (occurStep (.msg fn vec) s).1 = _
    unfold occurStep
    simp only [he, ho, if_true]
    rfl
  obtain ⟨l, hl⟩ := (Keeps.occur (Keeps.refl (emit (.msix fn vec) s)) 31 [.count 0x342 1 none none (some fn)]).out
  rw [e, hl]
  exact List.mem_append_left _ (List.mem_append_right _ (List.mem_singleton.2 rfl))

/-- INTA may not be asserted (spec 09 R313). -/
def IntxBarred (s : State) : Prop :=
  ((s.func 0).msixEnable || (s.func 0).intDisable || (s.func 0).d3hot || decide (s.ep.link ≠ 2)) = true

/-- The registers INTA depends on, beside the event registers. -/
theorem IntxBarred.of_eq {s t : State} (h : IntxBarred s) (hf : t.ep.funcs = s.ep.funcs) (hl : t.ep.link = s.ep.link) :
    IntxBarred t := by
  unfold IntxBarred State.func at h ⊢
  rw [hf, hl]
  exact h

theorem inta_intxEval {s : State} (h : IntxBarred s) : (intxEval s).ep.inta = false := by
  have hw : (evtPending s && !(s.func 0).msixEnable && !(s.func 0).intDisable && !(s.func 0).d3hot
      && decide (s.ep.link = 2)) = false := by
    have h1 := h
    unfold IntxBarred at h1
    revert h1
    cases (s.func 0).msixEnable <;> cases (s.func 0).intDisable <;> cases (s.func 0).d3hot <;> cases evtPending s <;>
      by_cases hl : s.ep.link = 2 <;> simp [hl]
  unfold intxEval
  simp only [hw, Bool.false_and, Bool.not_false, Bool.true_and]
  by_cases hi : s.ep.inta = true
  · rw [if_neg (by decide), if_pos hi]; rfl
  · rw [if_neg (by decide), if_neg hi]; exact Bool.eq_false_iff.2 hi

/-- What an occurrence keeps of the endpoint when nothing may assert INTA. -/
def Barred (s : State) : Prop := IntxBarred s ∧ s.ep.inta = false

theorem Barred.of_eq {s t : State} (h : Barred s) (e : t.ep.funcs = s.ep.funcs) (l : t.ep.link = s.ep.link)
    (i : t.ep.inta = s.ep.inta) : Barred t := ⟨h.1.of_eq e l, i.trans h.2⟩

theorem Barred.foldl {α β : Type} (l : List α) (f : State × β → α → State × β) (x : State × β)
    (hf : ∀ y a, Barred y.1 → Barred (f y a).1) (h : Barred x.1) : Barred (l.foldl f x).1 := by
  induction l generalizing x with
  | nil => exact h
  | cons a l ih => exact ih (f x a) (hf x a h)

theorem Barred.occurStep {s : State} (h : Barred s) (o : Occ) : Barred (occurStep o s).1 := by
  cases o with
  | event n =>
    unfold Machine.occurStep
    dsimp only
    split
    · refine ⟨?_, inta_intxEval (h.1.of_eq rfl rfl)⟩
      exact h.1.of_eq (signals_intxEval _).ep_funcs (signals_intxEval _).ep_link
    · exact h
  | count ev n port tc polder =>
    have hd : ∀ y (a : Nat × DevCtr), Barred y.1 → Barred (countDevice ev n port tc polder y a).1 := by
      intro y a h
      unfold countDevice
      dsimp only
      split
      · exact h
      · split
        · exact h.of_eq rfl rfl rfl
        · exact h.of_eq rfl rfl rfl
    have h1 := Barred.foldl s.evt.ctrs (countDevice ev n port tc polder) (s, []) hd h
    unfold Machine.occurStep
    dsimp only
    cases polder with
    | none => exact h1
    | some fn =>
      refine Barred.foldl _ _ _ (fun y a h => ?_) h1
      unfold countPage
      dsimp only
      split
      · exact h
      · split
        · exact h.of_eq rfl rfl rfl
        · exact h
  | msg fn vec =>
    unfold Machine.occurStep
    dsimp only
    split
    · split
      · exact h.of_eq rfl rfl rfl
      · exact h.of_eq rfl rfl rfl
    · exact h

/-- INTA stays deasserted through every occurrence (spec 09 R313). -/
theorem Barred.occur {s : State} (h : Barred s) (n : Nat) (l : List Occ) : Barred (occur n l s) := by
  induction n generalizing l s with
  | zero => exact h
  | succ n ih =>
    cases l with
    | nil => exact h
    | cons o rest => exact ih (h.occurStep o) _

theorem Barred.raise {s : State} (h : Barred s) (n : Nat) : Barred (raise n s) := h.occur _ _
theorem Barred.signal {s : State} (h : Barred s) (fn vec : Nat) : Barred (signal fn vec s) := h.occur _ _
theorem Barred.countEv {s : State} (h : Barred s) (ev n : Nat) (port tc polder : Option Nat) :
    Barred (countEv ev n port tc polder s) := h.occur _ _

/-- No vector is masked or unmasked from `s` to `t`. -/
def MasksKept (s t : State) : Prop := ∀ fn vec, (t.msix fn vec).masked = (s.msix fn vec).masked

theorem MasksKept.refl (s : State) : MasksKept s s := fun _ _ => rfl

theorem MasksKept.trans {s t u : State} (a : MasksKept s t) (b : MasksKept t u) : MasksKept s u :=
  fun fn vec => (b fn vec).trans (a fn vec)

theorem MasksKept.of_eq {s t : State} (h : t.ep.msix = s.ep.msix) : MasksKept s t := by
  intro fn vec
  unfold State.msix
  rw [h]

/-- A vector's entry changes, but not its mask; the entry is listed after it. -/
theorem MasksKept.setMsix (s : State) (fn vec : Nat) {x : MsixEntry} (h : x.masked = (s.msix fn vec).masked)
    (hx : x ≠ MsixEntry.reset) : MasksKept s (s.setMsix fn vec x) := by
  intro f w
  show (Tab.get MsixEntry.reset (Tab.set MsixEntry.reset s.ep.msix (msixKey fn vec) x) (msixKey f w)).masked = _
  by_cases hk : msixKey fn vec = msixKey f w
  · rw [← hk, Tab.get_set_of_ne _ _ hx, h]
    show (Tab.get MsixEntry.reset s.ep.msix (msixKey fn vec)).masked = (Tab.get MsixEntry.reset s.ep.msix (msixKey f w)).masked
    rw [hk]
  · rw [Tab.get_set_other _ _ hk]
    rfl

theorem MasksKept.foldl {α β : Type} {s : State} (l : List α) (f : State × β → α → State × β) (x : State × β)
    (hf : ∀ y a, MasksKept s y.1 → MasksKept s (f y a).1) (h : MasksKept s x.1) : MasksKept s (l.foldl f x).1 := by
  induction l generalizing x with
  | nil => exact h
  | cons a l ih => exact ih (f x a) (hf x a h)

theorem masks_occurStep (o : Occ) (s : State) : MasksKept s (occurStep o s).1 := by
  cases o with
  | event n =>
    unfold occurStep
    dsimp only
    split
    · refine MasksKept.of_eq ?_
      unfold intxEval
      dsimp only
      split
      · rfl
      · split <;> rfl
    · exact .refl s
  | count ev n port tc polder =>
    have hd : ∀ y (a : Nat × DevCtr), MasksKept s y.1 → MasksKept s (countDevice ev n port tc polder y a).1 := by
      intro y a h
      unfold countDevice
      dsimp only
      split
      · exact h
      · split
        · exact h.trans (.of_eq rfl)
        · exact h.trans (.of_eq rfl)
    have h1 := MasksKept.foldl s.evt.ctrs (countDevice ev n port tc polder) (s, []) hd (.refl s)
    unfold occurStep
    dsimp only
    cases polder with
    | none => exact h1
    | some fn =>
      refine MasksKept.foldl _ _ _ (fun y a h => ?_) h1
      unfold countPage
      dsimp only
      split
      · exact h
      · split
        · exact h.trans (.of_eq rfl)
        · exact h
  | msg fn vec =>
    unfold occurStep
    dsimp only
    split
    · split
      · exact .of_eq rfl
      · exact .setMsix s fn vec rfl (fun h => Bool.noConfusion (congrArg MsixEntry.pending h))
    · exact .refl s

/-- No occurrence masks or unmasks a vector. -/
theorem masks_occur (n : Nat) (l : List Occ) (s : State) : MasksKept s (occur n l s) := by
  induction n generalizing l s with
  | zero => exact .refl s
  | succ n ih =>
    cases l with
    | nil => exact .refl s
    | cons o rest => exact (masks_occurStep o s).trans (ih _ _)

theorem masks_signal (fn vec : Nat) (s : State) : MasksKept s (signal fn vec s) := masks_occur _ _ s
theorem masks_raise (n : Nat) (s : State) : MasksKept s (raise n s) := masks_occur _ _ s
theorem masks_countEv (ev n : Nat) (port tc polder : Option Nat) (s : State) :
    MasksKept s (countEv ev n port tc polder s) := masks_occur _ _ s

end Sys2Proof.Machine
end

