-- ==== Sys2Proof/Laws/KeepsOperands.lean ====
section
/-! SUPPORT. What the operations of Machine/Operands.lean keep. -/

namespace Sys2Proof.Machine
open Sys2Proof

theorem Keeps.gmacWork {s z : State} (hk : Keeps s z) (n : Nat) :
    Keeps s (Machine.gmacWork n z) := by
  unfold Machine.gmacWork
  repeat' first
    | with_reducible assumption
    | (with_reducible apply Keeps.countQ)
    | (with_reducible apply Keeps.count)

theorem wf_wordsOf (b : Bytes) : Tab.wf 0#32 (wordsOf b) = true := by
  unfold wordsOf
  generalize List.range 1024 = l
  exact Tab.wf_foldl _ _ (fun _ _ h => Tab.wf_set _ _ h) Tab.wf_nil

theorem Keeps.mbxAnswered {s x : State} (k : Keeps s x) {w : Tab Word32} (h : Tab.wf 0#32 w = true) (n : Nat) :
    Keeps s (Machine.modMbx (fun m => { m with
      rsp := w, rspLength := n, busy := false, done := true, accepted := none }) x) :=
  k.modMbx (fun ⟨a, _⟩ => ⟨a, h⟩)

theorem Keeps.mbxRespond {s x : State} (k : Keeps s x) (flags kind reqId index sub ty pa pb : Nat) (data : Bytes) :
    Keeps s (Machine.mbxRespond flags kind reqId index sub ty pa pb data x) := by
  unfold Machine.mbxRespond
  with_reducible apply Keeps.raise
  with_reducible exact Keeps.mbxAnswered k (wf_wordsOf _) _

theorem Keeps.nextTx {s z : State} (hk : Keeps s z) (n : Nat) :
    Keeps s (Machine.nextTx n z).2 := by
  unfold Machine.nextTx
  repeat' first
    | with_reducible assumption
    | (with_reducible apply Keeps.setSession)
    | (with_reducible apply Keeps.setSession)
    | exact Keeps.plain hk rfl rfl rfl rfl rfl rfl rfl rfl rfl rfl rfl rfl rfl rfl rfl rfl rfl rfl

theorem Keeps.netSend {s z : State} (hk : Keeps s z) (n : Nat) (port : Option Nat) (key : Bytes) (flags kind reqId index sub ty pa pb : Nat) (data : Bytes) :
    Keeps s (Machine.netSend n port key flags kind reqId index sub ty pa pb data z) := by
  unfold Machine.netSend
  repeat' first
    | with_reducible assumption
    | (with_reducible apply Keeps.gmacWork)
    | (with_reducible apply Keeps.nextTx)
    | ((with_reducible refine Keeps.modDict ?_ ?_) <;> [skip; (generalize State.dict _ = b; exact fun h => h)])
    | (with_reducible apply Keeps.emit)
    | ((with_reducible refine Keeps.modDict ?_ ?_) <;> [skip; (intro h; unfold DictForm at h ⊢; simp_all [Tab.wf_set, Tab.wf_upd, Tab.wf_filter, Tab.wf_ite])])
    | split
    | exact Keeps.plain hk rfl rfl rfl rfl rfl rfl rfl rfl rfl rfl rfl rfl rfl rfl rfl rfl rfl rfl
    | dsimp only

theorem Keeps.keepResponse {s z : State} (hk : Keeps s z) (n : Nat) (k : Kept) :
    Keeps s (Machine.keepResponse n k z) := by
  unfold Machine.keepResponse
  repeat' first
    | with_reducible assumption
    | (with_reducible apply Keeps.setSession)
    | (with_reducible apply Keeps.setSession)
    | exact Keeps.plain hk rfl rfl rfl rfl rfl rfl rfl rfl rfl rfl rfl rfl rfl rfl rfl rfl rfl rfl

theorem Keeps.answer {s z : State} (hk : Keeps s z) (h : ReqHead) (flags pa pb ty : Nat) (data : Bytes) :
    Keeps s (Machine.answer h flags pa pb ty data z) := by
  unfold Machine.answer
  repeat' first
    | with_reducible assumption
    | (with_reducible apply Keeps.mbxRespond)
    | (with_reducible apply Keeps.netSend)
    | (with_reducible apply Keeps.keepResponse)
    | (with_reducible apply Keeps.ite)

theorem Keeps.answerCopy {s z : State} (hk : Keeps s z) (h : ReqHead) (flags pa : Nat) :
    Keeps s (Machine.answerCopy h flags pa z) := by
  unfold Machine.answerCopy
  repeat' first
    | with_reducible assumption
    | (with_reducible apply Keeps.netSend)
    | (with_reducible apply Keeps.ite)

theorem Keeps.reply {s z : State} (hk : Keeps s z) (h : ReqHead) (r : Reply) :
    Keeps s (Machine.reply h r z) := by
  unfold Machine.reply
  repeat' first
    | with_reducible assumption
    | (with_reducible apply Keeps.answer)
    | ((with_reducible refine Keeps.modMbx ?_ ?_) <;> [skip; (generalize State.mbx _ = b; exact fun h => h)])
    | ((with_reducible refine Keeps.modDict ?_ ?_) <;> [skip; (generalize State.dict _ = b; exact fun h => h)])
    | ((with_reducible refine Keeps.modMbx ?_ ?_) <;> [skip; (intro h; unfold MailboxForm at h ⊢; simp_all [Tab.wf_set, Tab.wf_upd, Tab.wf_filter, Tab.wf_ite])])
    | ((with_reducible refine Keeps.modDict ?_ ?_) <;> [skip; (intro h; unfold DictForm at h ⊢; simp_all [Tab.wf_set, Tab.wf_upd, Tab.wf_filter, Tab.wf_ite])])
    | ((with_reducible refine Keeps.modMbx ?_ ?_) <;> [skip; (intro h; unfold MailboxForm at h ⊢; split <;> simp_all [Tab.wf_set, Tab.wf_upd, Tab.wf_filter, Tab.wf_ite])])
    | ((with_reducible refine Keeps.modDict ?_ ?_) <;> [skip; (intro h; unfold DictForm at h ⊢; split <;> simp_all [Tab.wf_set, Tab.wf_upd, Tab.wf_filter, Tab.wf_ite])])
    | (with_reducible apply Keeps.ite)
    | split
    | exact Keeps.plain hk rfl rfl rfl rfl rfl rfl rfl rfl rfl rfl rfl rfl rfl rfl rfl rfl rfl rfl
    | dsimp only

theorem Keeps.answerAct {s z : State} (hk : Keeps s z) (a : LongAct) (abort : Option Nat) :
    Keeps s (Machine.answerAct a abort z) := by
  unfold Machine.answerAct
  repeat' first
    | with_reducible assumption
    | (with_reducible apply Keeps.answer)
    | (with_reducible apply Keeps.answerCopy)
    | ((with_reducible refine Keeps.modDict ?_ ?_) <;> [skip; (generalize State.dict _ = b; exact fun h => h)])
    | ((with_reducible refine Keeps.modDict ?_ ?_) <;> [skip; (intro h; unfold DictForm at h ⊢; simp_all [Tab.wf_set, Tab.wf_upd, Tab.wf_filter, Tab.wf_ite])])
    | ((with_reducible refine Keeps.modDict ?_ ?_) <;> [skip; (intro h; unfold DictForm at h ⊢; split <;> simp_all [Tab.wf_set, Tab.wf_upd, Tab.wf_filter, Tab.wf_ite])])
    | (with_reducible apply Keeps.ite)
    | (with_reducible refine Keeps.foldl _ (fun _ _ _ => ?_) ?_)
    | (with_reducible refine Keeps.foldl_fst _ (fun _ _ _ => ?_) ?_)
    | (with_reducible refine Keeps.foldl_snd _ (fun _ _ _ => ?_) ?_)
    | split
    | exact Keeps.plain hk rfl rfl rfl rfl rfl rfl rfl rfl rfl rfl rfl rfl rfl rfl rfl rfl rfl rfl
    | dsimp only

theorem Keeps.guarded {s x : State} (k : Keeps s x) (h : Handler) (hh : ∀ q y, Keeps s y → Keeps s (h q y).1) (q : Req) :
    Keeps s (Machine.guarded h q x).1 := by
  unfold Machine.guarded
  split
  · exact k
  · exact hh q x k

theorem Keeps.mbxServe {s x : State} (k : Keeps s x) (mine : Msg → Bool) (h : Handler)
    (hh : ∀ q y, Keeps s y → Keeps s (h q y).1) (flash : Bool) : Keeps s (Machine.mbxServe mine h flash x) := by
  unfold Machine.mbxServe
  repeat' first
    | with_reducible assumption
    | (with_reducible apply Keeps.ite)
    | (with_reducible apply Keeps.reply)
    | (with_reducible refine Keeps.guarded ?_ h hh _)
    | ((with_reducible refine Keeps.modMbx ?_ ?_) <;> [skip; exact fun h => h])
    | split

theorem Keeps.mbxHeader {s z : State} (hk : Keeps s z) :
    Keeps s (Machine.mbxHeader z) := by
  unfold Machine.mbxHeader
  repeat' first
    | with_reducible assumption
    | (with_reducible apply Keeps.count)
    | (with_reducible apply Keeps.mbxRespond)
    | ((with_reducible refine Keeps.modMbx ?_ ?_) <;> [skip; (generalize State.mbx _ = b; exact fun h => h)])
    | (with_reducible refine Keeps.forEach _ (fun _ _ _ => ?_) ?_)
    | ((with_reducible refine Keeps.modMbx ?_ ?_) <;> [skip; (intro h; unfold MailboxForm at h ⊢; simp_all [Tab.wf_set, Tab.wf_upd, Tab.wf_filter, Tab.wf_ite])])
    | ((with_reducible refine Keeps.modMbx ?_ ?_) <;> [skip; (intro h; unfold MailboxForm at h ⊢; split <;> simp_all [Tab.wf_set, Tab.wf_upd, Tab.wf_filter, Tab.wf_ite])])
    | (with_reducible apply Keeps.ite)
    | split
    | exact Keeps.plain hk rfl rfl rfl rfl rfl rfl rfl rfl rfl rfl rfl rfl rfl rfl rfl rfl rfl rfl
    | dsimp only

theorem Keeps.rateTake {s z : State} (hk : Keeps s z) (t : Nat) :
    Keeps s (Machine.rateTake t z) := by
  unfold Machine.rateTake
  repeat' first
    | with_reducible assumption
    | ((with_reducible refine Keeps.modDict ?_ ?_) <;> [skip; (generalize State.dict _ = b; exact fun h => h)])
    | ((with_reducible refine Keeps.modDict ?_ ?_) <;> [skip; (intro h; unfold DictForm at h ⊢; simp_all [Tab.wf_set, Tab.wf_upd, Tab.wf_filter, Tab.wf_ite])])
    | ((with_reducible refine Keeps.modDict ?_ ?_) <;> [skip; (intro h; unfold DictForm at h ⊢; split <;> simp_all [Tab.wf_set, Tab.wf_upd, Tab.wf_filter, Tab.wf_ite])])
    | (with_reducible apply Keeps.ite)
    | exact Keeps.plain hk rfl rfl rfl rfl rfl rfl rfl rfl rfl rfl rfl rfl rfl rfl rfl rfl rfl rfl

theorem Keeps.authFail {s z : State} (hk : Keeps s z) (sub : Nat) :
    Keeps s (Machine.authFail sub z) := by
  unfold Machine.authFail
  repeat' first
    | with_reducible assumption
    | (with_reducible apply Keeps.raise)
    | (with_reducible apply Keeps.count)

theorem Keeps.netCarry {s x : State} (k : Keeps s x) (h : Handler) (post : Req → State → State)
    (hh : ∀ q y, Keeps s y → Keeps s (h q y).1)
    (hp : ∀ q y, Keeps s y → Keeps s (post q y)) (flash : Bool) (n : Nat) (port : Option Nat) (m : Msg) :
    Keeps s (Machine.netCarry h post flash n port m x) := by
  unfold Machine.netCarry
  dsimp only
  repeat' first
    | with_reducible assumption
    | (with_reducible apply Keeps.netSend)
    | (with_reducible apply Keeps.ite)
    | ((with_reducible refine Keeps.modDict ?_ ?_) <;> [skip; exact fun h => h])
    | (with_reducible apply Keeps.reply)
    | (with_reducible refine hh _ _ ?_)
    | (with_reducible refine hp _ _ ?_)
    | split

theorem Keeps.epochAnswer {s z : State} (hk : Keeps s z) (t n : Nat) (port : Option Nat) (m : Msg) :
    Keeps s (Machine.epochAnswer t n port m z) := by
  unfold Machine.epochAnswer
  repeat' first
    | with_reducible assumption
    | (with_reducible apply Keeps.setSession)
    | (with_reducible apply Keeps.count)
    | (with_reducible apply Keeps.netSend)
    | (with_reducible apply Keeps.setSession)
    | (with_reducible apply Keeps.ite)
    | split
    | exact Keeps.plain hk rfl rfl rfl rfl rfl rfl rfl rfl rfl rfl rfl rfl rfl rfl rfl rfl rfl rfl
    | dsimp only

theorem Keeps.netServe {s x : State} (k : Keeps s x) (mine : Msg → Bool) (h : Handler)
    (post : Req → State → State) (hh : ∀ q y, Keeps s y → Keeps s (h q y).1)
    (hp : ∀ q y, Keeps s y → Keeps s (post q y)) (flash : Bool) (t : Nat) (port : Option Nat) (addr b : Bytes) :
    Keeps s (Machine.netServe mine h post flash t port addr b x) := by
  unfold Machine.netServe
  repeat' first
    | with_reducible assumption
    | (with_reducible apply Keeps.ite)
    | (with_reducible apply Keeps.count)
    | (with_reducible apply Keeps.authFail)
    | (with_reducible apply Keeps.gmacWork)
    | (with_reducible apply Keeps.rateTake)
    | (with_reducible apply Keeps.epochAnswer)
    | (with_reducible apply Keeps.setSession)
    | (with_reducible refine Keeps.netCarry ?_ h post hh hp _ _ _ _)

theorem Keeps.fdpServe {s x : State} (k : Keeps s x) (mine : Msg → Bool) (h : Handler)
    (post : Req → State → State) (hh : ∀ q y, Keeps s y → Keeps s (h q y).1)
    (hp : ∀ q y, Keeps s y → Keeps s (post q y)) (r : Rq) : Keeps s (Machine.fdpServe mine h post r x) := by
  unfold Machine.fdpServe
  dsimp only
  split
  · exact (k.advance _).mbxServe mine h hh _
  · exact (k.advance _).netServe mine h post hh hp _ _ _ _ _

theorem Keeps.action {s x : State} (k : Keeps s x) (own : Req → State → List Nat) (go : Handler)
    (hgo : ∀ q y, Keeps s y → Keeps s (go q y).1) (q : Req) : Keeps s (Machine.action own go q x).1 := by
  unfold Machine.action
  dsimp only
  split
  · exact k
  · exact hgo q x k

theorem Keeps.blobOr {s : State} (blob : Req → Bytes) (bad : State → Bytes → Option Nat)
    (count : State → Bytes → State) (go : Handler) (hc : ∀ y b, Keeps s y → Keeps s (count y b))
    (hgo : ∀ q y, Keeps s y → Keeps s (go q y).1) (q : Req) (y : State) (k : Keeps s y) :
    Keeps s (Machine.blobOr blob bad count go q y).1 := by
  unfold Machine.blobOr
  split
  · exact hc _ _ k
  · exact hgo q y k

theorem Keeps.serveAction {s x : State} (k : Keeps s x) (mine : Nat → Nat → Bool)
    (own : Req → State → List Nat) (go : Handler) (hgo : ∀ q y, Keeps s y → Keeps s (go q y).1) (r : Rq) :
    Keeps s (Machine.serveAction mine own go r x) :=
  k.fdpServe _ _ _ (fun q _ ky => ky.action own go hgo q) (fun _ _ ky => ky) r

end Sys2Proof.Machine
end

