-- ==== Sys2Proof/Laws/KeepsBuffers.lean ====
section
/-! SUPPORT. What the operations of Machine/Buffers.lean keep. -/

namespace Sys2Proof.Machine
open Sys2Proof

theorem Keeps.lowCheck {s z : State} (hk : Keeps s z) (die : Nat) :
    Keeps s (Machine.lowCheck die z) := by
  unfold Machine.lowCheck
  repeat' first
    | with_reducible assumption
    | (with_reducible apply Keeps.setBufDie)
    | (with_reducible apply Keeps.raiseDie)
    | (with_reducible apply Keeps.setBufDie)
    | (with_reducible apply Keeps.ite)
    | exact Keeps.plain hk rfl rfl rfl rfl rfl rfl rfl rfl rfl rfl rfl rfl rfl rfl rfl rfl rfl rfl

theorem Keeps.lowCheckAll {s z : State} (hk : Keeps s z) :
    Keeps s (Machine.lowCheckAll z) := by
  unfold Machine.lowCheckAll
  repeat' first
    | with_reducible assumption
    | (with_reducible apply Keeps.lowCheck)
    | (with_reducible refine Keeps.forEach _ (fun _ _ _ => ?_) ?_)

theorem Keeps.bufRefuse {s z : State} (hk : Keeps s z) (die owner : Nat) :
    Keeps s (Machine.bufRefuse die owner z) := by
  unfold Machine.bufRefuse
  repeat' first
    | with_reducible assumption
    | (with_reducible apply Keeps.setBufDie)
    | (with_reducible apply Keeps.count)
    | (with_reducible apply Keeps.setBufDie)
    | exact Keeps.plain hk rfl rfl rfl rfl rfl rfl rfl rfl rfl rfl rfl rfl rfl rfl rfl rfl rfl rfl

theorem Keeps.admitFrame {s z : State} (hk : Keeps s z) (die q owner len refs : Nat) :
    Keeps s (Machine.admitFrame die q owner len refs z).2 := by
  unfold Machine.admitFrame
  repeat' first
    | with_reducible assumption
    | (with_reducible apply Keeps.setBufDie)
    | (with_reducible apply Keeps.count)
    | (with_reducible apply Keeps.lowCheck)
    | (with_reducible apply Keeps.bufRefuse)
    | ((with_reducible refine Keeps.modBuf ?_ ?_) <;> [skip; (generalize State.buf _ = b; exact fun h => h)])
    | (with_reducible apply Keeps.setBufDie)
    | (with_reducible apply Keeps.ticket)
    | ((with_reducible refine Keeps.modBuf ?_ ?_) <;> [skip; (intro h; unfold BufForm at h ⊢; simp_all [Tab.wf_set, Tab.wf_upd, Tab.wf_filter, Tab.wf_ite])])
    | ((with_reducible refine Keeps.modBuf ?_ ?_) <;> [skip; (intro h; unfold BufForm at h ⊢; split <;> simp_all [Tab.wf_set, Tab.wf_upd, Tab.wf_filter, Tab.wf_ite])])
    | (with_reducible apply Keeps.ite)
    | (with_reducible apply Keeps.ite_fst)
    | (with_reducible apply Keeps.ite_snd)
    | (refine Keeps.of_eq_snd (by assumption) ?_)
    | split
    | exact Keeps.plain hk rfl rfl rfl rfl rfl rfl rfl rfl rfl rfl rfl rfl rfl rfl rfl rfl rfl rfl
    | dsimp only

theorem Keeps.freeCell {s z : State} (hk : Keeps s z) (die : Nat) (pipe : Option Nat) (owner c : Nat) :
    Keeps s (Machine.freeCell die pipe owner c z) := by
  unfold Machine.freeCell
  repeat' first
    | with_reducible assumption
    | (with_reducible apply Keeps.setBufDie)
    | (with_reducible apply Keeps.raiseDie)
    | (with_reducible apply Keeps.count)
    | ((with_reducible refine Keeps.modBuf ?_ ?_) <;> [skip; (generalize State.buf _ = b; exact fun h => h)])
    | (with_reducible apply Keeps.setBufDie)
    | ((with_reducible refine Keeps.modBuf ?_ ?_) <;> [skip; (intro h; unfold BufForm at h ⊢; simp_all [Tab.wf_set, Tab.wf_upd, Tab.wf_filter, Tab.wf_ite])])
    | ((with_reducible refine Keeps.modBuf ?_ ?_) <;> [skip; (intro h; unfold BufForm at h ⊢; split <;> simp_all [Tab.wf_set, Tab.wf_upd, Tab.wf_filter, Tab.wf_ite])])
    | (with_reducible apply Keeps.ite)
    | split
    | exact Keeps.plain hk rfl rfl rfl rfl rfl rfl rfl rfl rfl rfl rfl rfl rfl rfl rfl rfl rfl rfl
    | dsimp only

theorem Keeps.freeCellList {s z : State} (hk : Keeps s z) (die : Nat) (pipe : Option Nat) (owner : Nat) (cells : List Nat) :
    Keeps s (Machine.freeCellList die pipe owner cells z) := by
  unfold Machine.freeCellList
  repeat' first
    | with_reducible assumption
    | (with_reducible apply Keeps.lowCheck)
    | (with_reducible apply Keeps.freeCell)
    | (with_reducible refine Keeps.forEach _ (fun _ _ _ => ?_) ?_)

theorem Keeps.dropStored {s z : State} (hk : Keeps s z) (sid : Nat) :
    Keeps s (Machine.dropStored sid z) := by
  unfold Machine.dropStored
  repeat' first
    | with_reducible assumption
    | ((with_reducible refine Keeps.modBuf ?_ ?_) <;> [skip; (generalize State.buf _ = b; exact fun h => h)])
    | ((with_reducible refine Keeps.modBuf ?_ ?_) <;> [skip; (intro h; unfold BufForm at h ⊢; simp_all [Tab.wf_set, Tab.wf_upd, Tab.wf_filter, Tab.wf_ite])])
    | exact Keeps.plain hk rfl rfl rfl rfl rfl rfl rfl rfl rfl rfl rfl rfl rfl rfl rfl rfl rfl rfl

theorem Keeps.releaseCopy {s z : State} (hk : Keeps s z) (sid : Nat) (pipe : Option Nat) :
    Keeps s (Machine.releaseCopy sid pipe z) := by
  unfold Machine.releaseCopy
  repeat' first
    | with_reducible assumption
    | (with_reducible apply Keeps.freeCellList)
    | (with_reducible apply Keeps.dropStored)
    | ((with_reducible refine Keeps.modBuf ?_ ?_) <;> [skip; (generalize State.buf _ = b; exact fun h => h)])
    | ((with_reducible refine Keeps.modBuf ?_ ?_) <;> [skip; (intro h; unfold BufForm at h ⊢; simp_all [Tab.wf_set, Tab.wf_upd, Tab.wf_filter, Tab.wf_ite])])
    | ((with_reducible refine Keeps.modBuf ?_ ?_) <;> [skip; (intro h; unfold BufForm at h ⊢; split <;> simp_all [Tab.wf_set, Tab.wf_upd, Tab.wf_filter, Tab.wf_ite])])
    | (with_reducible apply Keeps.ite)
    | split
    | exact Keeps.plain hk rfl rfl rfl rfl rfl rfl rfl rfl rfl rfl rfl rfl rfl rfl rfl rfl rfl rfl
    | dsimp only

theorem Keeps.changeStored {s z : State} (hk : Keeps s z) (sid : Nat) (f : Stored → Stored) :
    Keeps s (Machine.changeStored sid f z) := by
  unfold Machine.changeStored
  repeat' first
    | with_reducible assumption
    | ((with_reducible refine Keeps.modBuf ?_ ?_) <;> [skip; (generalize State.buf _ = b; exact fun h => h)])
    | ((with_reducible refine Keeps.modBuf ?_ ?_) <;> [skip; (intro h; unfold BufForm at h ⊢; simp_all [Tab.wf_set, Tab.wf_upd, Tab.wf_filter, Tab.wf_ite])])
    | ((with_reducible refine Keeps.modBuf ?_ ?_) <;> [skip; (intro h; unfold BufForm at h ⊢; split <;> simp_all [Tab.wf_set, Tab.wf_upd, Tab.wf_filter, Tab.wf_ite])])
    | (with_reducible apply Keeps.ite)
    | exact Keeps.plain hk rfl rfl rfl rfl rfl rfl rfl rfl rfl rfl rfl rfl rfl rfl rfl rfl rfl rfl

theorem Keeps.storeCopies {s z : State} (hk : Keeps s z) (die q owner frame : Nat) (b : Bytes) (refs : Nat) :
    Keeps s (Machine.storeCopies die q owner frame b refs z).2 := by
  unfold Machine.storeCopies
  repeat' first
    | with_reducible assumption
    | (with_reducible apply Keeps.admitFrame)
    | (with_reducible apply Keeps.changeStored)
    | (refine Keeps.of_eq_snd (by assumption) ?_)
    | split
    | exact Keeps.plain hk rfl rfl rfl rfl rfl rfl rfl rfl rfl rfl rfl rfl rfl rfl rfl rfl rfl rfl
    | dsimp only

theorem Keeps.eccError {s z : State} (hk : Keeps s z) (die : Nat) :
    Keeps s (Machine.eccError die z) := by
  unfold Machine.eccError
  repeat' first
    | with_reducible assumption
    | (with_reducible apply Keeps.raiseDie)
    | (with_reducible apply Keeps.count)

theorem Keeps.linkError {s z : State} (hk : Keeps s z) (sid place : Nat) (pipe : Option Nat) :
    Keeps s (Machine.linkError sid place pipe z) := by
  unfold Machine.linkError
  repeat' first
    | with_reducible assumption
    | (with_reducible apply Keeps.setBufDie)
    | (with_reducible apply Keeps.lowCheck)
    | (with_reducible apply Keeps.freeCellList)
    | (with_reducible apply Keeps.dropStored)
    | (with_reducible apply Keeps.eccError)
    | (with_reducible apply Keeps.setBufDie)
    | split
    | exact Keeps.plain hk rfl rfl rfl rfl rfl rfl rfl rfl rfl rfl rfl rfl rfl rfl rfl rfl rfl rfl
    | dsimp only

theorem Keeps.bufFaultAt {s z : State} (hk : Keeps s z) (die : Nat) (f : BufFault) :
    Keeps s (Machine.bufFaultAt die f z) := by
  unfold Machine.bufFaultAt
  repeat' first
    | with_reducible assumption
    | (with_reducible apply Keeps.setBufDie)
    | (with_reducible apply Keeps.count)
    | (with_reducible apply Keeps.lowCheck)
    | (with_reducible apply Keeps.freeCell)
    | (with_reducible apply Keeps.eccError)
    | (with_reducible apply Keeps.setBufDie)
    | (with_reducible apply Keeps.ite)
    | split
    | exact Keeps.plain hk rfl rfl rfl rfl rfl rfl rfl rfl rfl rfl rfl rfl rfl rfl rfl rfl rfl rfl
    | dsimp only

theorem Keeps.clearLatches {s z : State} (hk : Keeps s z) :
    Keeps s (Machine.clearLatches z) := by
  unfold Machine.clearLatches
  repeat' first
    | with_reducible assumption
    | ((with_reducible refine Keeps.modBuf ?_ ?_) <;> [skip; (generalize State.buf _ = b; exact fun h => h)])
    | ((with_reducible refine Keeps.modBuf ?_ ?_) <;> [skip; (intro h; unfold BufForm at h ⊢; simp_all [Tab.wf_set, Tab.wf_upd, Tab.wf_filter, Tab.wf_ite])])
    | exact Keeps.plain hk rfl rfl rfl rfl rfl rfl rfl rfl rfl rfl rfl rfl rfl rfl rfl rfl rfl rfl

theorem Keeps.releaseOwner {s z : State} (hk : Keeps s z) (owner : Nat) :
    Keeps s (Machine.releaseOwner owner z) := by
  unfold Machine.releaseOwner
  repeat' first
    | with_reducible assumption
    | ((with_reducible refine Keeps.modBuf ?_ ?_) <;> [skip; (generalize State.buf _ = b; exact fun h => h)])
    | ((with_reducible refine Keeps.modBuf ?_ ?_) <;> [skip; (intro h; unfold BufForm at h ⊢; simp_all [Tab.wf_set, Tab.wf_upd, Tab.wf_filter, Tab.wf_ite])])
    | ((with_reducible refine Keeps.modBuf ?_ ?_) <;> [skip; (intro h; unfold BufForm at h ⊢; split <;> simp_all [Tab.wf_set, Tab.wf_upd, Tab.wf_filter, Tab.wf_ite])])
    | (with_reducible apply Keeps.ite)
    | exact Keeps.plain hk rfl rfl rfl rfl rfl rfl rfl rfl rfl rfl rfl rfl rfl rfl rfl rfl rfl rfl

end Sys2Proof.Machine
end

