-- ==== Sys2Proof/Laws/KeepsQueues.lean ====
section
/-! SUPPORT. What the operations of Machine/Queues.lean keep. -/

namespace Sys2Proof.Machine
open Sys2Proof

theorem Keeps.setHostFrames {s z : State} (hk : Keeps s z) (fn q : Nat) (l : List HFrame) :
    Keeps s (Machine.setHostFrames fn q l z) := by
  unfold Machine.setHostFrames
  repeat' first
    | with_reducible assumption
    | ((with_reducible refine Keeps.modBuf ?_ ?_) <;> [skip; (generalize State.buf _ = b; exact fun h => h)])
    | ((with_reducible refine Keeps.modBuf ?_ ?_) <;> [skip; (intro h; unfold BufForm at h ⊢; simp_all [Tab.wf_set, Tab.wf_upd, Tab.wf_filter, Tab.wf_ite])])
    | exact Keeps.plain hk rfl rfl rfl rfl rfl rfl rfl rfl rfl rfl rfl rfl rfl rfl rfl rfl rfl rfl

theorem Keeps.dropPlace {s z : State} (hk : Keeps s z) (h : HFrame) :
    Keeps s (Machine.dropPlace h z) := by
  unfold Machine.dropPlace
  repeat' first
    | with_reducible assumption
    | (with_reducible apply Keeps.releaseCopy)
    | split
    | dsimp only

theorem Keeps.discardHeld {s z : State} (hk : Keeps s z) (fn q : Nat) :
    Keeps s (Machine.discardHeld fn q z) := by
  unfold Machine.discardHeld
  repeat' first
    | with_reducible assumption
    | (with_reducible apply Keeps.countPolder)
    | (with_reducible apply Keeps.setHostFrames)
    | (with_reducible apply Keeps.dropPlace)
    | (with_reducible refine Keeps.forEach _ (fun _ _ _ => ?_) ?_)
    | split
    | dsimp only

theorem Keeps.askPage {s z : State} (hk : Keeps s z) (w : Requester) (addr : Nat) :
    Keeps s (Machine.askPage w addr z) := by
  unfold Machine.askPage
  repeat' first
    | with_reducible assumption
    | ((with_reducible refine Keeps.modEp ?_ ?_) <;> [skip; (generalize State.ep _ = b; exact fun h => h)])
    | (with_reducible apply Keeps.emit)
    | ((with_reducible refine Keeps.modEp ?_ ?_) <;> [skip; (intro h; unfold EndpointForm at h ⊢; simp_all [Tab.wf_set, Tab.wf_upd, Tab.wf_filter, Tab.wf_ite])])
    | ((with_reducible refine Keeps.modEp ?_ ?_) <;> [skip; (intro h; unfold EndpointForm at h ⊢; split <;> simp_all [Tab.wf_set, Tab.wf_upd, Tab.wf_filter, Tab.wf_ite])])
    | (with_reducible apply Keeps.ite)
    | (with_reducible apply Keeps.ite_fst)
    | (with_reducible apply Keeps.ite_snd)
    | split
    | exact Keeps.plain hk rfl rfl rfl rfl rfl rfl rfl rfl rfl rfl rfl rfl rfl rfl rfl rfl rfl rfl
    | dsimp only

theorem Keeps.dmaWrite {s z : State} (hk : Keeps s z) (w : Requester) (addr : Nat) (data : Bytes) :
    Keeps s (Machine.dmaWrite w addr data z) := by
  unfold Machine.dmaWrite
  repeat' first
    | with_reducible assumption
    | (with_reducible apply Keeps.countEv)
    | (with_reducible apply Keeps.askPage)
    | (with_reducible apply Keeps.emit)
    | (with_reducible refine Keeps.forEach _ (fun _ _ _ => ?_) ?_)
    | (with_reducible apply Keeps.ite)
    | (with_reducible apply Keeps.ite_fst)
    | (with_reducible apply Keeps.ite_snd)

theorem Keeps.memWrite {s z : State} (hk : Keeps s z) (w : Requester) (addr : Nat) (data : Bytes) :
    Keeps s (Machine.memWrite w addr data z) := by
  unfold Machine.memWrite
  repeat' first
    | with_reducible assumption
    | (with_reducible apply Keeps.ddrWrite)
    | (with_reducible apply Keeps.dmaWrite)
    | (with_reducible apply Keeps.ite)

theorem Keeps.acsReport {s z : State} (hk : Keeps s z) (fn : Nat) :
    Keeps s (Machine.acsReport fn z) := by
  unfold Machine.acsReport
  repeat' first
    | with_reducible assumption
    | (with_reducible apply Keeps.setFunc)
    | (with_reducible apply Keeps.count)
    | (with_reducible apply Keeps.setFunc)
    | exact Keeps.plain hk rfl rfl rfl rfl rfl rfl rfl rfl rfl rfl rfl rfl rfl rfl rfl rfl rfl rfl

theorem Keeps.emitRead {s z : State} (hk : Keeps s z) (tag : Nat) (w : Requester) (addr len : Nat) :
    Keeps s (Machine.emitRead tag w addr len z) := by
  unfold Machine.emitRead
  repeat' first
    | with_reducible assumption
    | (with_reducible apply Keeps.askPage)
    | (with_reducible apply Keeps.emit)

theorem Keeps.readNow {s z y : State} (k : Keeps s z) {w : Requester} {segs : List (Nat × Nat)}
    (h : Machine.readNow w segs z = some y) : Keeps s y := by
  unfold Machine.readNow at h
  repeat' split at h
  all_goals simp only [reduceCtorEq, Option.some.injEq] at h
  · subst h; exact k
  · subst h
    with_reducible apply Keeps.dmaBytesRead
    with_reducible refine Keeps.forEach _ (fun _ _ h => ?_) k
    exact h.emitRead _ _ _ _

theorem Keeps.issuePart {s z : State} (hk : Keeps s z) (r : Read) :
    Keeps s (Machine.issuePart r z) := by
  unfold Machine.issuePart
  repeat' first
    | with_reducible assumption
    | (with_reducible apply Keeps.askPage)
    | (with_reducible apply Keeps.emitRead)
    | ((with_reducible refine Keeps.modEp ?_ ?_) <;> [skip; (generalize State.ep _ = b; exact fun h => h)])
    | ((with_reducible refine Keeps.modEp ?_ ?_) <;> [skip; (intro h; unfold EndpointForm at h ⊢; simp_all [Tab.wf_set, Tab.wf_upd, Tab.wf_filter, Tab.wf_ite])])
    | ((with_reducible refine Keeps.modEp ?_ ?_) <;> [skip; (intro h; unfold EndpointForm at h ⊢; split <;> simp_all [Tab.wf_set, Tab.wf_upd, Tab.wf_filter, Tab.wf_ite])])
    | (with_reducible apply Keeps.ite)
    | (with_reducible apply Keeps.ite_fst)
    | (with_reducible apply Keeps.ite_snd)
    | split
    | exact Keeps.plain hk rfl rfl rfl rfl rfl rfl rfl rfl rfl rfl rfl rfl rfl rfl rfl rfl rfl rfl
    | dsimp only

theorem Keeps.issueParts {s z : State} (hk : Keeps s z) :
    Keeps s (Machine.issueParts z) := by
  unfold Machine.issueParts
  repeat' first
    | with_reducible assumption
    | (with_reducible apply Keeps.issuePart)
    | (with_reducible refine Keeps.forEach _ (fun _ _ _ => ?_) ?_)

theorem Keeps.startReads {s z : State} (hk : Keeps s z) (w : Requester) (what : ReadFor) (segs : List (Nat × Nat)) :
    Keeps s (Machine.startReads w what segs z) := by
  unfold Machine.startReads
  repeat' first
    | with_reducible assumption
    | (with_reducible apply Keeps.issueParts)
    | ((with_reducible refine Keeps.modEp ?_ ?_) <;> [skip; (generalize State.ep _ = b; exact fun h => h)])
    | ((with_reducible refine Keeps.modEp ?_ ?_) <;> [skip; (intro h; unfold EndpointForm at h ⊢; simp_all [Tab.wf_set, Tab.wf_upd, Tab.wf_filter, Tab.wf_ite])])
    | ((with_reducible refine Keeps.modEp ?_ ?_) <;> [skip; (intro h; unfold EndpointForm at h ⊢; split <;> simp_all [Tab.wf_set, Tab.wf_upd, Tab.wf_filter, Tab.wf_ite])])
    | (with_reducible apply Keeps.ite)
    | (with_reducible apply Keeps.ite_fst)
    | (with_reducible apply Keeps.ite_snd)
    | exact Keeps.plain hk rfl rfl rfl rfl rfl rfl rfl rfl rfl rfl rfl rfl rfl rfl rfl rfl rfl rfl

theorem Keeps.dropReads {s z : State} (hk : Keeps s z) (p : Read → Bool) :
    Keeps s (Machine.dropReads p z) := by
  unfold Machine.dropReads
  repeat' first
    | with_reducible assumption
    | ((with_reducible refine Keeps.modEp ?_ ?_) <;> [skip; (generalize State.ep _ = b; exact fun h => h)])
    | ((with_reducible refine Keeps.modEp ?_ ?_) <;> [skip; (intro h; unfold EndpointForm at h ⊢; simp_all [Tab.wf_set, Tab.wf_upd, Tab.wf_filter, Tab.wf_ite])])
    | ((with_reducible refine Keeps.modEp ?_ ?_) <;> [skip; (intro h; unfold EndpointForm at h ⊢; split <;> simp_all [Tab.wf_set, Tab.wf_upd, Tab.wf_filter, Tab.wf_ite])])
    | (with_reducible apply Keeps.ite)
    | exact Keeps.plain hk rfl rfl rfl rfl rfl rfl rfl rfl rfl rfl rfl rfl rfl rfl rfl rfl rfl rfl

theorem Keeps.errorVectors {s z : State} (hk : Keeps s z) (fn q : Nat) :
    Keeps s (Machine.errorVectors fn q z) := by
  unfold Machine.errorVectors
  repeat' first
    | with_reducible assumption
    | (with_reducible apply Keeps.signal)
    | (with_reducible apply Keeps.ite)

theorem Keeps.queueError {s z : State} (hk : Keeps s z) (fn q status reason errIdx kind : Nat) (marks : List Bytes) :
    Keeps s (Machine.queueError fn q status reason errIdx kind marks z) := by
  unfold Machine.queueError
  repeat' first
    | with_reducible assumption
    | (with_reducible apply Keeps.setQueue)
    | (with_reducible apply Keeps.polderFault)
    | (with_reducible apply Keeps.discardHeld)
    | (with_reducible apply Keeps.errorVectors)
    | (with_reducible apply Keeps.setQueue)
    | (with_reducible apply Keeps.ite)
    | exact Keeps.plain hk rfl rfl rfl rfl rfl rfl rfl rfl rfl rfl rfl rfl rfl rfl rfl rfl rfl rfl

theorem Keeps.malformed {s z : State} (hk : Keeps s z) (fn q idx reason : Nat) (e : Bytes) :
    Keeps s (Machine.malformed fn q idx reason e z) := by
  unfold Machine.malformed
  repeat' first
    | with_reducible assumption
    | (with_reducible apply Keeps.countFor)
    | (with_reducible apply Keeps.queueError)

theorem Keeps.queueMasterOff {s z : State} (hk : Keeps s z) (fn q : Nat) :
    Keeps s (Machine.queueMasterOff fn q z) := by
  unfold Machine.queueMasterOff
  repeat' first
    | with_reducible assumption
    | (with_reducible apply Keeps.setQueue)
    | (with_reducible apply Keeps.polderFault)
    | (with_reducible apply Keeps.discardHeld)
    | (with_reducible apply Keeps.errorVectors)
    | (with_reducible apply Keeps.setQueue)
    | (with_reducible apply Keeps.ite)
    | exact Keeps.plain hk rfl rfl rfl rfl rfl rfl rfl rfl rfl rfl rfl rfl rfl rfl rfl rfl rfl rfl

theorem Keeps.refuseRequest {s z : State} (hk : Keeps s z) (fn q idx : Nat) (marks : List Bytes) :
    Keeps s (Machine.refuseRequest fn q idx marks z) := by
  unfold Machine.refuseRequest
  repeat' first
    | with_reducible assumption
    | (with_reducible apply Keeps.acsReport)
    | (with_reducible apply Keeps.queueError)
    | (with_reducible apply Keeps.ite)

theorem Keeps.queueWrite {s z : State} (hk : Keeps s z) (fn q idx addr : Nat) (marks : List Bytes) (data : Bytes) :
    Keeps s (Machine.queueWrite fn q idx addr marks data z) := by
  unfold Machine.queueWrite
  repeat' first
    | with_reducible assumption
    | (with_reducible apply Keeps.memWrite)
    | (with_reducible apply Keeps.refuseRequest)
    | (with_reducible apply Keeps.ite)

theorem Keeps.moderate {s z : State} (hk : Keeps s z) (fn q : Nat) :
    Keeps s (Machine.moderate fn q z) := by
  unfold Machine.moderate
  repeat' first
    | with_reducible assumption
    | (with_reducible apply Keeps.setQueue)
    | (with_reducible apply Keeps.signal)
    | (with_reducible apply Keeps.setQueue)
    | (with_reducible apply Keeps.ite)
    | exact Keeps.plain hk rfl rfl rfl rfl rfl rfl rfl rfl rfl rfl rfl rfl rfl rfl rfl rfl rfl rfl

theorem Keeps.cqStops {s z : State} (hk : Keeps s z) (fn q : Nat) :
    Keeps s (Machine.cqStops fn q z) := by
  unfold Machine.cqStops
  repeat' first
    | with_reducible assumption
    | (with_reducible apply Keeps.refuseRequest)

theorem Keeps.writeCompletion {s z : State} (hk : Keeps s z) (fn q : Nat) (c : Cpl) (n : Nat) :
    Keeps s (Machine.writeCompletion fn q c n z) := by
  unfold Machine.writeCompletion
  repeat' first
    | with_reducible assumption
    | (with_reducible apply Keeps.setQueue)
    | (with_reducible apply Keeps.dmaWrite)
    | (with_reducible apply Keeps.moderate)
    | (with_reducible apply Keeps.setQueue)
    | exact Keeps.plain hk rfl rfl rfl rfl rfl rfl rfl rfl rfl rfl rfl rfl rfl rfl rfl rfl rfl rfl

theorem Keeps.writeMirror {s z : State} (hk : Keeps s z) (fn q idx : Nat) :
    Keeps s (Machine.writeMirror fn q idx z) := by
  unfold Machine.writeMirror
  repeat' first
    | with_reducible assumption
    | (with_reducible apply Keeps.setQueue)
    | (with_reducible apply Keeps.dmaWrite)
    | (with_reducible apply Keeps.refuseRequest)
    | (with_reducible apply Keeps.moderate)
    | (with_reducible apply Keeps.setQueue)
    | (with_reducible apply Keeps.ite)
    | exact Keeps.plain hk rfl rfl rfl rfl rfl rfl rfl rfl rfl rfl rfl rfl rfl rfl rfl rfl rfl rfl

theorem Keeps.holdCpl {s z : State} (hk : Keeps s z) (fn q : Nat) (c : Cpl) :
    Keeps s (Machine.holdCpl fn q c z) := by
  unfold Machine.holdCpl
  repeat' first
    | with_reducible assumption
    | (with_reducible apply Keeps.setQueue)
    | (with_reducible apply Keeps.setQueue)
    | (with_reducible apply Keeps.ite)
    | exact Keeps.plain hk rfl rfl rfl rfl rfl rfl rfl rfl rfl rfl rfl rfl rfl rfl rfl rfl rfl rfl

theorem Keeps.noRoom {s z : State} (hk : Keeps s z) (fn q : Nat) (c : Cpl) :
    Keeps s (Machine.noRoom fn q c z) := by
  unfold Machine.noRoom
  repeat' first
    | with_reducible assumption
    | (with_reducible apply Keeps.setQueue)
    | (with_reducible apply Keeps.countFor)
    | (with_reducible apply Keeps.writeMirror)
    | (with_reducible apply Keeps.holdCpl)
    | (with_reducible apply Keeps.setQueue)
    | (with_reducible apply Keeps.ite)
    | exact Keeps.plain hk rfl rfl rfl rfl rfl rfl rfl rfl rfl rfl rfl rfl rfl rfl rfl rfl rfl rfl

theorem Keeps.deliver {s z : State} (hk : Keeps s z) (fn q : Nat) (c : Cpl) :
    Keeps s (Machine.deliver fn q c z) := by
  unfold Machine.deliver
  repeat' first
    | with_reducible assumption
    | (with_reducible apply Keeps.cqStops)
    | (with_reducible apply Keeps.writeCompletion)
    | (with_reducible apply Keeps.writeMirror)
    | (with_reducible apply Keeps.noRoom)
    | (with_reducible apply Keeps.ite)

theorem Keeps.drainEnd {s z : State} (hk : Keeps s z) (fn q : Nat) :
    Keeps s (Machine.drainEnd fn q z) := by
  unfold Machine.drainEnd
  repeat' first
    | with_reducible assumption
    | (with_reducible apply Keeps.setQueue)
    | (with_reducible apply Keeps.setQueue)
    | (with_reducible apply Keeps.ite)
    | exact Keeps.plain hk rfl rfl rfl rfl rfl rfl rfl rfl rfl rfl rfl rfl rfl rfl rfl rfl rfl rfl

theorem Keeps.errorCpl {s z : State} (hk : Keeps s z) (x : Queue) (c : Chain) :
    Keeps s (Machine.errorCpl x c z).2 := by
  unfold Machine.errorCpl
  repeat' first
    | with_reducible assumption
    | (with_reducible apply Keeps.count)
    | (with_reducible apply Keeps.drawNat)
    | (with_reducible apply Keeps.ite)
    | (with_reducible apply Keeps.ite_fst)
    | (with_reducible apply Keeps.ite_snd)

theorem Keeps.finishOldest {s z : State} (hk : Keeps s z) (fn q : Nat) :
    Keeps s (Machine.finishOldest fn q z) := by
  unfold Machine.finishOldest
  repeat' first
    | with_reducible assumption
    | (with_reducible apply Keeps.setQueue)
    | (with_reducible apply Keeps.count)
    | (with_reducible apply Keeps.queueError)
    | (with_reducible apply Keeps.deliver)
    | (with_reducible apply Keeps.drainEnd)
    | (with_reducible apply Keeps.errorCpl)
    | (with_reducible apply Keeps.setQueue)
    | (with_reducible apply Keeps.ite)
    | (with_reducible apply Keeps.ite_fst)
    | (with_reducible apply Keeps.ite_snd)
    | split
    | exact Keeps.plain hk rfl rfl rfl rfl rfl rfl rfl rfl rfl rfl rfl rfl rfl rfl rfl rfl rfl rfl
    | dsimp only

theorem Keeps.releaseWaiting {s z : State} (hk : Keeps s z) (fn q : Nat) (a0 : Nat) :
    Keeps s (Machine.releaseWaiting fn q a0 z) := by
  induction a0 generalizing z with
  | zero => exact hk
  | succ n ih =>
    unfold Machine.releaseWaiting
    try dsimp only
    repeat' first
      | with_reducible assumption
      | (with_reducible apply ih)
      | (with_reducible apply Keeps.setQueue)
      | (with_reducible apply Keeps.cqStops)
      | (with_reducible apply Keeps.writeCompletion)
      | (with_reducible apply Keeps.setQueue)
      | (with_reducible apply Keeps.ite)
      | split
      | exact Keeps.plain hk rfl rfl rfl rfl rfl rfl rfl rfl rfl rfl rfl rfl rfl rfl rfl rfl rfl rfl
      | dsimp only

theorem Keeps.updChain {s z : State} (hk : Keeps s z) (fn q first : Nat) (f : Chain → Chain) :
    Keeps s (Machine.updChain fn q first f z) := by
  unfold Machine.updChain
  repeat' first
    | with_reducible assumption
    | (with_reducible apply Keeps.setQueue)
    | (with_reducible apply Keeps.setQueue)
    | (with_reducible apply Keeps.ite)
    | exact Keeps.plain hk rfl rfl rfl rfl rfl rfl rfl rfl rfl rfl rfl rfl rfl rfl rfl rfl rfl rfl

theorem Keeps.finishChain {s z : State} (hk : Keeps s z) (fn q first status result : Nat) :
    Keeps s (Machine.finishChain fn q first status result z) := by
  unfold Machine.finishChain
  repeat' first
    | with_reducible assumption
    | (with_reducible apply Keeps.updChain)
    | (with_reducible apply Keeps.ite)
    | exact Keeps.plain hk rfl rfl rfl rfl rfl rfl rfl rfl rfl rfl rfl rfl rfl rfl rfl rfl rfl rfl

end Sys2Proof.Machine
end

