-- ==== Sys2Proof/Laws/KeepsKeys.lean ====
section
/-! SUPPORT. What the operations of Machine/Keys.lean keep. -/

namespace Sys2Proof.Machine
open Sys2Proof

theorem Keeps.unwrapRefused {s z : State} (hk : Keeps s z) (fn status : Nat) :
    Keeps s (Machine.unwrapRefused fn status z) := by
  unfold Machine.unwrapRefused
  repeat' first
    | with_reducible assumption
    | (with_reducible apply Keeps.raise)
    | (with_reducible apply Keeps.countFor)
    | (with_reducible apply Keeps.ite)

theorem Keeps.loadSlot {s z : State} (hk : Keeps s z) (g : Nat) (b : Blob) :
    Keeps s (Machine.loadSlot g b z) := by
  unfold Machine.loadSlot
  repeat' first
    | with_reducible assumption
    | (with_reducible apply Keeps.setKeySlot)
    | (with_reducible apply Keeps.setKeySlot)

theorem Keeps.clearSlot {s z : State} (hk : Keeps s z) (g : Nat) :
    Keeps s (Machine.clearSlot g z) := by
  unfold Machine.clearSlot
  repeat' first
    | with_reducible assumption
    | (with_reducible apply Keeps.setKeySlot)
    | (with_reducible apply Keeps.setKeySlot)

theorem Keeps.unwrapBlob {s z : State} (hk : Keeps s z) (fn : Nat) (b : Bytes) :
    Keeps s (Machine.unwrapBlob fn b z).2 := by
  unfold Machine.unwrapBlob
  repeat' first
    | with_reducible assumption
    | (with_reducible apply Keeps.unwrapRefused)
    | (with_reducible apply Keeps.loadSlot)
    | split
    | dsimp only

theorem Keeps.blobRefused {s z : State} (hk : Keeps s z) (b : Bytes) :
    Keeps s (Machine.blobRefused z b) := by
  unfold Machine.blobRefused
  repeat' first
    | with_reducible assumption
    | (with_reducible apply Keeps.unwrapRefused)
    | (with_reducible apply Keeps.ite)
    | split
    | dsimp only

theorem Keeps.addUser {s z : State} (hk : Keeps s z) (g : Nat) :
    Keeps s (Machine.addUser g z) := by
  unfold Machine.addUser
  repeat' first
    | with_reducible assumption
    | (with_reducible apply Keeps.setKeySlot)
    | (with_reducible apply Keeps.setKeySlot)

theorem Keeps.dropUser {s z : State} (hk : Keeps s z) (g : Nat) :
    Keeps s (Machine.dropUser g z) := by
  unfold Machine.dropUser
  repeat' first
    | with_reducible assumption
    | (with_reducible apply Keeps.setKeySlot)
    | (with_reducible apply Keeps.setKeySlot)

theorem Keeps.sessionRekeyed {s z : State} (hk : Keeps s z) (n : Nat) (g : Nat) :
    Keeps s (Machine.sessionRekeyed n g z) := by
  unfold Machine.sessionRekeyed
  repeat' first
    | with_reducible assumption
    | (with_reducible apply Keeps.setSession)
    | ((with_reducible refine Keeps.modDict ?_ ?_) <;> [skip; (generalize State.dict _ = b; exact fun h => h)])
    | (with_reducible apply Keeps.setSession)
    | ((with_reducible refine Keeps.modDict ?_ ?_) <;> [skip; (intro h; unfold DictForm at h ⊢; simp_all [Tab.wf_set, Tab.wf_upd, Tab.wf_filter, Tab.wf_ite])])
    | exact Keeps.plain hk rfl rfl rfl rfl rfl rfl rfl rfl rfl rfl rfl rfl rfl rfl rfl rfl rfl rfl

theorem Keeps.clearSessionKey {s z : State} (hk : Keeps s z) (n : Nat) :
    Keeps s (Machine.clearSessionKey n z) := by
  unfold Machine.clearSessionKey
  repeat' first
    | with_reducible assumption
    | (with_reducible apply Keeps.clearSlot)
    | split
    | dsimp only

theorem Keeps.loadSessionKey {s z : State} (hk : Keeps s z) (n : Nat) (b : Bytes) :
    Keeps s (Machine.loadSessionKey n b z) := by
  unfold Machine.loadSessionKey
  repeat' first
    | with_reducible assumption
    | (with_reducible apply Keeps.loadSlot)
    | (with_reducible apply Keeps.addUser)
    | (with_reducible apply Keeps.sessionRekeyed)
    | (with_reducible apply Keeps.clearSessionKey)
    | split
    | dsimp only

end Sys2Proof.Machine
end

