-- ==== Sys2Proof/Laws/KeepsWfq.lean ====
section
/-! SUPPORT. What the operations of Machine/Wfq.lean keep. -/

namespace Sys2Proof.Machine
open Sys2Proof

end Sys2Proof.Machine
end

