-- ==== Sys2Proof/Laws/KeepsCipher.lean ====
section
/-! SUPPORT. What the operations of Machine/Cipher.lean keep. -/

namespace Sys2Proof.Machine
open Sys2Proof

theorem CipherForm.setWfq {w : Wfq} {c : Cipher} (h : CipherForm c) : CipherForm (setCipherWfq w c) := h

theorem CipherForm.stampUser {x : State} {c : Cipher} {u : CUser} (h : CipherForm c) : CipherForm (stampUser x c u) := by
  unfold Machine.stampUser
  split
  · exact h
  · exact CipherForm.setWfq h

theorem CipherForm.dropWaiting {m : CMsg} {c : Cipher} (h : CipherForm c) : CipherForm (dropWaiting m c) := h

theorem Keeps.hostOp {s z : State} (hk : Keeps s z) (fn q first : Nat) (marks : List Bytes) (segs : List (Nat × Nat)) (h : HostData) (go : Bytes → State → State) (h_go : ∀ b0 y, Keeps s y → Keeps s (go b0 y)) :
    Keeps s (Machine.hostOp fn q first marks segs h go z) := by
  unfold Machine.hostOp
  repeat' first
    | with_reducible assumption
    | (with_reducible apply h_go)
    | (with_reducible apply Keeps.dmaBytesRead)
    | (with_reducible apply Keeps.startReads)
    | (with_reducible apply Keeps.refuseRequest)
    | (with_reducible apply Keeps.ite)
    | (refine Keeps.readNow ?_ (by assumption))
    | split
    | dsimp only

theorem Keeps.cipherWait {s z : State} (hk : Keeps s z) (m : CMsg) :
    Keeps s (Machine.cipherWait m z) := by
  unfold Machine.cipherWait
  repeat' first
    | with_reducible assumption
    | ((with_reducible refine Keeps.modCipher ?_ ?_) <;> [skip; exact fun h => CipherForm.stampUser h])
    | ((with_reducible refine Keeps.modCipher ?_ ?_) <;> [skip; (generalize State.cipher _ = b; exact fun h => h)])
    | ((with_reducible refine Keeps.modCipher ?_ ?_) <;> [skip; (intro h; unfold CipherForm at h ⊢; simp_all [Tab.wf_set, Tab.wf_upd, Tab.wf_filter, Tab.wf_ite])])
    | ((with_reducible refine Keeps.modCipher ?_ ?_) <;> [skip; (intro h; unfold CipherForm at h ⊢; split <;> simp_all [Tab.wf_set, Tab.wf_upd, Tab.wf_filter, Tab.wf_ite])])
    | (with_reducible apply Keeps.ite)
    | exact Keeps.plain hk rfl rfl rfl rfl rfl rfl rfl rfl rfl rfl rfl rfl rfl rfl rfl rfl rfl rfl

theorem Keeps.setCore {s z : State} (hk : Keeps s z) (k : Nat) (x : Core) :
    Keeps s (Machine.setCore k x z) := by
  unfold Machine.setCore
  repeat' first
    | with_reducible assumption
    | ((with_reducible refine Keeps.modCipher ?_ ?_) <;> [skip; (generalize State.cipher _ = b; exact fun h => h)])
    | ((with_reducible refine Keeps.modCipher ?_ ?_) <;> [skip; (intro h; unfold CipherForm at h ⊢; simp_all [Tab.wf_set, Tab.wf_upd, Tab.wf_filter, Tab.wf_ite])])
    | exact Keeps.plain hk rfl rfl rfl rfl rfl rfl rfl rfl rfl rfl rfl rfl rfl rfl rfl rfl rfl rfl

theorem Keeps.endMsg {s z : State} (hk : Keeps s z) (m : CMsg) (status : Nat) :
    Keeps s (Machine.endMsg m status z) := by
  unfold Machine.endMsg
  repeat' first
    | with_reducible assumption
    | (with_reducible apply Keeps.finishChain)
    | ((with_reducible refine Keeps.modJrn ?_ ?_) <;> [skip; (generalize State.jrn _ = b; exact fun h => h)])
    | ((with_reducible refine Keeps.modJrn ?_ ?_) <;> [skip; (intro h; unfold JournalForm at h ⊢; simp_all [Tab.wf_set, Tab.wf_upd, Tab.wf_filter, Tab.wf_ite])])
    | ((with_reducible refine Keeps.modJrn ?_ ?_) <;> [skip; (intro h; unfold JournalForm at h ⊢; split <;> simp_all [Tab.wf_set, Tab.wf_upd, Tab.wf_filter, Tab.wf_ite])])
    | (with_reducible apply Keeps.ite)
    | split
    | exact Keeps.plain hk rfl rfl rfl rfl rfl rfl rfl rfl rfl rfl rfl rfl rfl rfl rfl rfl rfl rfl
    | dsimp only

theorem Keeps.cipherDispatch {s z : State} (hk : Keeps s z) : Keeps s (Machine.cipherDispatch z) := by
  have h1 : ∀ c : Cipher, (CipherForm z.cipher → CipherForm c) → Keeps s (Machine.modCipher (fun _ => c) z) :=
    fun c h => hk.modCipher h
  unfold Machine.cipherDispatch
  split
  · try dsimp only
    split
    · with_reducible apply Keeps.endMsg
      exact h1 _ (fun h => CipherForm.stampUser h)
    · with_reducible apply Keeps.setCore
      exact Keeps.modCipher (h1 _ (fun h => CipherForm.stampUser h)) (fun h => h)
  · exact hk

theorem Keeps.writeSegs {s z : State} (hk : Keeps s z) (fn q idx : Nat) (marks : List Bytes) (a0 : List (Nat × Nat)) (a1 : Bytes) :
    Keeps s (Machine.writeSegs fn q idx marks a0 a1 z) := by
  induction a0 generalizing z a1 with
  | nil => exact hk
  | cons hd tl ih =>
    unfold Machine.writeSegs
    try dsimp only
    repeat' first
      | with_reducible assumption
      | (with_reducible apply ih)
      | (with_reducible apply Keeps.queueWrite)
      | split
      | dsimp only

theorem Keeps.cipherCount {s z : State} (hk : Keeps s z) (m : CMsg) :
    Keeps s (Machine.cipherCount m z) := by
  unfold Machine.cipherCount
  repeat' first
    | with_reducible assumption
    | (with_reducible apply Keeps.countQ)
    | split
    | dsimp only

theorem Keeps.finishCipher {s z : State} (hk : Keeps s z) (n : Nat) (m : CMsg) :
    Keeps s (Machine.finishCipher n m z) := by
  unfold Machine.finishCipher
  repeat' first
    | with_reducible assumption
    | (with_reducible apply Keeps.countFor)
    | (with_reducible apply Keeps.queueWrite)
    | (with_reducible apply Keeps.finishChain)
    | (with_reducible apply Keeps.writeSegs)
    | (with_reducible apply Keeps.ite)
    | (with_reducible apply Keeps.ite_fst)
    | (with_reducible apply Keeps.ite_snd)
    | split
    | dsimp only

theorem Keeps.freeCoreOf {s z : State} (hk : Keeps s z) (k : Nat) (m : CMsg) :
    Keeps s (Machine.freeCoreOf k m z) := by
  unfold Machine.freeCoreOf
  repeat' first
    | with_reducible assumption
    | (with_reducible apply Keeps.setCore)
    | ((with_reducible refine Keeps.modCipher ?_ ?_) <;> [skip; (generalize State.cipher _ = b; exact fun h => h)])
    | ((with_reducible refine Keeps.modCipher ?_ ?_) <;> [skip; (intro h; unfold CipherForm at h ⊢; simp_all [Tab.wf_set, Tab.wf_upd, Tab.wf_filter, Tab.wf_ite])])
    | ((with_reducible refine Keeps.modCipher ?_ ?_) <;> [skip; (intro h; unfold CipherForm at h ⊢; split <;> simp_all [Tab.wf_set, Tab.wf_upd, Tab.wf_filter, Tab.wf_ite])])
    | (with_reducible apply Keeps.ite)
    | exact Keeps.plain hk rfl rfl rfl rfl rfl rfl rfl rfl rfl rfl rfl rfl rfl rfl rfl rfl rfl rfl

theorem Keeps.coreFault {s z : State} (hk : Keeps s z) (k : Nat) :
    Keeps s (Machine.coreFault k z) := by
  unfold Machine.coreFault
  repeat' first
    | with_reducible assumption
    | (with_reducible apply Keeps.raise)
    | (with_reducible apply Keeps.count)
    | (with_reducible apply Keeps.cipherWait)
    | (with_reducible apply Keeps.setCore)
    | (with_reducible apply Keeps.endMsg)
    | (with_reducible apply Keeps.freeCoreOf)
    | (with_reducible apply Keeps.ite)
    | split
    | exact Keeps.plain hk rfl rfl rfl rfl rfl rfl rfl rfl rfl rfl rfl rfl rfl rfl rfl rfl rfl rfl
    | dsimp only

theorem Keeps.cipherDrop {s z : State} (hk : Keeps s z) (p : CMsg → Bool) :
    Keeps s (Machine.cipherDrop p z) := by
  unfold Machine.cipherDrop
  repeat' first
    | with_reducible assumption
    | (with_reducible apply Keeps.freeCoreOf)
    | ((with_reducible refine Keeps.modCipher ?_ ?_) <;> [skip; (generalize State.cipher _ = b; exact fun h => h)])
    | ((with_reducible refine Keeps.modCipher ?_ ?_) <;> [skip; (intro h; unfold CipherForm at h ⊢; simp_all [Tab.wf_set, Tab.wf_upd, Tab.wf_filter, Tab.wf_ite])])
    | ((with_reducible refine Keeps.modCipher ?_ ?_) <;> [skip; (intro h; unfold CipherForm at h ⊢; split <;> simp_all [Tab.wf_set, Tab.wf_upd, Tab.wf_filter, Tab.wf_ite])])
    | (with_reducible apply Keeps.ite)
    | (with_reducible apply Keeps.ite_fst)
    | (with_reducible apply Keeps.ite_snd)
    | (with_reducible refine Keeps.foldl _ (fun _ _ _ => ?_) ?_)
    | (with_reducible refine Keeps.foldl_fst _ (fun _ _ _ => ?_) ?_)
    | (with_reducible refine Keeps.foldl_snd _ (fun _ _ _ => ?_) ?_)
    | split
    | exact Keeps.plain hk rfl rfl rfl rfl rfl rfl rfl rfl rfl rfl rfl rfl rfl rfl rfl rfl rfl rfl
    | dsimp only

theorem Keeps.cipherQueueReset {s z : State} (hk : Keeps s z) (fn q : Nat) :
    Keeps s (Machine.cipherQueueReset fn q z) := by
  unfold Machine.cipherQueueReset
  repeat' first
    | with_reducible assumption
    | (with_reducible apply Keeps.memWrite)
    | (with_reducible apply Keeps.cipherDrop)
    | (with_reducible apply Keeps.ite)
    | (with_reducible apply Keeps.ite_fst)
    | (with_reducible apply Keeps.ite_snd)
    | (with_reducible refine Keeps.foldl _ (fun _ _ _ => ?_) ?_)
    | (with_reducible refine Keeps.foldl_fst _ (fun _ _ _ => ?_) ?_)
    | (with_reducible refine Keeps.foldl_snd _ (fun _ _ _ => ?_) ?_)
    | split
    | dsimp only

theorem Keeps.takeMessage {s z : State} (hk : Keeps s z) (op fn q : Nat) (h : HostData) :
    Keeps s (Machine.takeMessage op fn q h z) := by
  unfold Machine.takeMessage
  repeat' first
    | with_reducible assumption
    | (with_reducible apply Keeps.updChain)
    | (with_reducible apply Keeps.hostOp)
    | (with_reducible apply Keeps.cipherWait)
    | (with_reducible apply Keeps.ite)
    | split
    | exact Keeps.plain hk rfl rfl rfl rfl rfl rfl rfl rfl rfl rfl rfl rfl rfl rfl rfl rfl rfl rfl
    | (with_reducible intro _; try beta_reduce)
    | dsimp only

theorem Keeps.singleOp {s z : State} (hk : Keeps s z) (op fn q : Nat) (h : HostData) (go : Chain → Bytes → State → State) (h_go : ∀ b0 b1 y, Keeps s y → Keeps s (go b0 b1 y)) :
    Keeps s (Machine.singleOp op fn q h go z) := by
  unfold Machine.singleOp
  repeat' first
    | with_reducible assumption
    | (with_reducible apply h_go)
    | (with_reducible apply Keeps.hostOp)
    | split
    | (with_reducible intro _; try beta_reduce)
    | dsimp only

theorem Keeps.unwrapOp {s z : State} (hk : Keeps s z) (fn q : Nat) (h : HostData) :
    Keeps s (Machine.unwrapOp fn q h z) := by
  unfold Machine.unwrapOp
  repeat' first
    | with_reducible assumption
    | (with_reducible apply Keeps.finishChain)
    | (with_reducible apply Keeps.unwrapBlob)
    | (with_reducible apply Keeps.singleOp)
    | (refine Keeps.of_eq_snd (by assumption) ?_)
    | split
    | (with_reducible intro _; try beta_reduce)
    | dsimp only

theorem Keeps.wrapOp {s z : State} (hk : Keeps s z) (fn q : Nat) (h : HostData) :
    Keeps s (Machine.wrapOp fn q h z) := by
  unfold Machine.wrapOp
  repeat' first
    | with_reducible assumption
    | (with_reducible apply Keeps.queueWrite)
    | (with_reducible apply Keeps.finishChain)
    | (with_reducible apply Keeps.singleOp)
    | (with_reducible intro _; try beta_reduce)

theorem Keeps.cipherBack {s z : State} (hk : Keeps s z) (fn q : Nat) (e : Bytes) (b : Bytes) :
    Keeps s (Machine.cipherBack fn q e b z) := by
  unfold Machine.cipherBack
  repeat' first
    | with_reducible assumption
    | (with_reducible apply Keeps.takeMessage)
    | (with_reducible apply Keeps.unwrapOp)
    | (with_reducible apply Keeps.wrapOp)
    | (with_reducible apply Keeps.ite)

theorem Keeps.slotClear {s z : State} (hk : Keeps s z) (fn q : Nat) :
    Keeps s (Machine.slotClear fn q z) := by
  unfold Machine.slotClear
  repeat' first
    | with_reducible assumption
    | (with_reducible apply Keeps.finishChain)
    | (with_reducible apply Keeps.clearSlot)
    | (with_reducible apply Keeps.ite)
    | split
    | dsimp only

end Sys2Proof.Machine
end

