-- ==== Sys2Proof/Laws/KeepsSched.lean ====
section
/-! SUPPORT. What the operations of Machine/Sched.lean keep. -/

namespace Sys2Proof.Machine
open Sys2Proof

theorem Keeps.burstsChanged {s z : State} (hk : Keeps s z) (old : (State)) (port : Nat) :
    Keeps s (Machine.burstsChanged old port z) := by
  unfold Machine.burstsChanged
  repeat' first
    | with_reducible assumption
    | (with_reducible apply Keeps.setPsched)
    | (with_reducible apply Keeps.setPsched)
    | (with_reducible refine Keeps.foldl _ (fun _ _ _ => ?_) ?_)
    | (with_reducible refine Keeps.foldl_fst _ (fun _ _ _ => ?_) ?_)
    | (with_reducible refine Keeps.foldl_snd _ (fun _ _ _ => ?_) ?_)
    | exact Keeps.plain hk rfl rfl rfl rfl rfl rfl rfl rfl rfl rfl rfl rfl rfl rfl rfl rfl rfl rfl

theorem Keeps.queueCount {s z : State} (hk : Keeps s z) (port tc k n : Nat) :
    Keeps s (Machine.queueCount port tc k n z) := by
  unfold Machine.queueCount
  repeat' first
    | with_reducible assumption
    | (with_reducible apply Keeps.setPsched)
    | (with_reducible apply Keeps.countEv)
    | (with_reducible apply Keeps.setPsched)
    | exact Keeps.plain hk rfl rfl rfl rfl rfl rfl rfl rfl rfl rfl rfl rfl rfl rfl rfl rfl rfl rfl

theorem Keeps.underrunCount {s z : State} (hk : Keeps s z) (port : Nat) :
    Keeps s (Machine.underrunCount port z) := by
  unfold Machine.underrunCount
  repeat' first
    | with_reducible assumption
    | (with_reducible apply Keeps.setPsched)
    | (with_reducible apply Keeps.countEv)
    | (with_reducible apply Keeps.setPsched)
    | exact Keeps.plain hk rfl rfl rfl rfl rfl rfl rfl rfl rfl rfl rfl rfl rfl rfl rfl rfl rfl rfl

theorem Keeps.trackPort {s z : State} (hk : Keeps s z) (port tc : Nat) (f : Track → Track) :
    Keeps s (Machine.trackPort port tc f z) := by
  unfold Machine.trackPort
  repeat' first
    | with_reducible assumption
    | (with_reducible apply Keeps.setPsched)
    | (with_reducible apply Keeps.setPsched)
    | (with_reducible apply Keeps.ite)
    | exact Keeps.plain hk rfl rfl rfl rfl rfl rfl rfl rfl rfl rfl rfl rfl rfl rfl rfl rfl rfl rfl

theorem Keeps.txDone {s z : State} (hk : Keeps s z) (fn q idx : Nat) (stamp : Option Nat) :
    Keeps s (Machine.txDone fn q idx stamp z) := by
  unfold Machine.txDone
  repeat' first
    | with_reducible assumption
    | (with_reducible apply Keeps.queueWrite)
    | (with_reducible apply Keeps.finishChain)
    | (with_reducible apply Keeps.ite)
    | split
    | dsimp only

theorem Keeps.txLost {s z : State} (hk : Keeps s z) (src : FrameSrc) :
    Keeps s (Machine.txLost src z) := by
  unfold Machine.txLost
  repeat' first
    | with_reducible assumption
    | (with_reducible apply Keeps.txDone)
    | split
    | dsimp only

theorem Keeps.releaseFrames {s z : State} (hk : Keeps s z) (port : Nat) (l : List QFrame) :
    Keeps s (Machine.releaseFrames port l z) := by
  unfold Machine.releaseFrames
  repeat' first
    | with_reducible assumption
    | (with_reducible apply Keeps.releaseCopy)
    | (with_reducible apply Keeps.txLost)
    | (with_reducible refine Keeps.forEach _ (fun _ _ _ => ?_) ?_)

theorem Keeps.settleHead {s z : State} (hk : Keeps s z) (port tc : Nat) :
    Keeps s (Machine.settleHead port tc z) := by
  unfold Machine.settleHead
  repeat' first
    | with_reducible assumption
    | (with_reducible apply Keeps.setPsched)
    | (with_reducible apply Keeps.queueCount)
    | (with_reducible apply Keeps.releaseFrames)
    | (with_reducible apply Keeps.setPsched)
    | (with_reducible apply Keeps.ite)

theorem Keeps.settleHeads {s z : State} (hk : Keeps s z) (port : Nat) :
    Keeps s (Machine.settleHeads port z) := by
  unfold Machine.settleHeads
  repeat' first
    | with_reducible assumption
    | (with_reducible apply Keeps.settleHead)
    | (with_reducible refine Keeps.forEach _ (fun _ _ _ => ?_) ?_)

theorem Keeps.flushPort {s z : State} (hk : Keeps s z) (port : Nat) :
    Keeps s (Machine.flushPort port z).2 := by
  unfold Machine.flushPort
  repeat' first
    | with_reducible assumption
    | (with_reducible apply Keeps.setPsched)
    | (with_reducible apply Keeps.releaseFrames)
    | (with_reducible apply Keeps.setPsched)
    | (with_reducible refine Keeps.foldl _ (fun _ _ _ => ?_) ?_)
    | (with_reducible refine Keeps.foldl_fst _ (fun _ _ _ => ?_) ?_)
    | (with_reducible refine Keeps.foldl_snd _ (fun _ _ _ => ?_) ?_)

theorem Keeps.trackHost {s z : State} (hk : Keeps s z) (fn q : Nat) (f : Track → Track) :
    Keeps s (Machine.trackHost fn q f z) := by
  unfold Machine.trackHost
  repeat' first
    | with_reducible assumption
    | (with_reducible apply Keeps.setQueue)
    | (with_reducible apply Keeps.setQueue)
    | (with_reducible apply Keeps.ite)
    | exact Keeps.plain hk rfl rfl rfl rfl rfl rfl rfl rfl rfl rfl rfl rfl rfl rfl rfl rfl rfl rfl

theorem Keeps.trackTx {s z : State} (hk : Keeps s z) (src : FrameSrc) (f : Track → Track) :
    Keeps s (Machine.trackTx src f z) := by
  unfold Machine.trackTx
  repeat' first
    | with_reducible assumption
    | (with_reducible apply Keeps.trackHost)
    | split
    | dsimp only

theorem Keeps.trackTxDepth {s z : State} (hk : Keeps s z) (src : FrameSrc) :
    Keeps s (Machine.trackTxDepth src z) := by
  unfold Machine.trackTxDepth
  repeat' first
    | with_reducible assumption
    | (with_reducible apply Keeps.trackHost)
    | split
    | exact Keeps.plain hk rfl rfl rfl rfl rfl rfl rfl rfl rfl rfl rfl rfl rfl rfl rfl rfl rfl rfl
    | dsimp only

theorem Keeps.dropAtEnqueue {s z : State} (hk : Keeps s z) (port tc k sid : Nat) (src : FrameSrc) :
    Keeps s (Machine.dropAtEnqueue port tc k sid src z) := by
  unfold Machine.dropAtEnqueue
  repeat' first
    | with_reducible assumption
    | (with_reducible apply Keeps.releaseCopy)
    | (with_reducible apply Keeps.queueCount)
    | (with_reducible apply Keeps.trackPort)
    | (with_reducible apply Keeps.txLost)
    | (with_reducible apply Keeps.trackTx)
    | exact Keeps.plain hk rfl rfl rfl rfl rfl rfl rfl rfl rfl rfl rfl rfl rfl rfl rfl rfl rfl rfl

theorem Keeps.enqueueCopy {s z : State} (hk : Keeps s z) (t port tc sid cells : Nat) (info : Meta) (bytes : Bytes) :
    Keeps s (Machine.enqueueCopy t port tc sid cells info bytes z) := by
  unfold Machine.enqueueCopy
  repeat' first
    | with_reducible assumption
    | (with_reducible apply Keeps.setPsched)
    | (with_reducible apply Keeps.queueCount)
    | (with_reducible apply Keeps.trackPort)
    | (with_reducible apply Keeps.trackTxDepth)
    | (with_reducible apply Keeps.dropAtEnqueue)
    | (with_reducible apply Keeps.setPsched)
    | (with_reducible apply Keeps.ite)
    | split
    | exact Keeps.plain hk rfl rfl rfl rfl rfl rfl rfl rfl rfl rfl rfl rfl rfl rfl rfl rfl rfl rfl
    | dsimp only

theorem Keeps.dequeuePick {s z : State} (hk : Keeps s z) (port t start : Nat) (pick : Option Nat × QFrame) :
    Keeps s (Machine.dequeuePick port t start pick z) := by
  unfold Machine.dequeuePick
  repeat' first
    | with_reducible assumption
    | (with_reducible apply Keeps.setPsched)
    | (with_reducible apply Keeps.trackPort)
    | (with_reducible apply Keeps.settleHead)
    | (with_reducible apply Keeps.trackTx)
    | (with_reducible apply Keeps.setPsched)
    | (with_reducible apply Keeps.ite)
    | (with_reducible apply Keeps.ite_fst)
    | (with_reducible apply Keeps.ite_snd)
    | split
    | exact Keeps.plain hk rfl rfl rfl rfl rfl rfl rfl rfl rfl rfl rfl rfl rfl rfl rfl rfl rfl rfl
    | dsimp only

theorem Keeps.dropCopies {s z : State} (hk : Keeps s z) (die sid : Nat) :
    Keeps s (Machine.dropCopies die sid z) := by
  unfold Machine.dropCopies
  repeat' first
    | with_reducible assumption
    | (with_reducible apply Keeps.setPsched)
    | (with_reducible apply Keeps.releaseFrames)
    | (with_reducible apply Keeps.settleHead)
    | (with_reducible refine Keeps.forEach _ (fun _ _ _ => ?_) ?_)
    | (with_reducible apply Keeps.setPsched)
    | (with_reducible apply Keeps.ite)
    | (with_reducible apply Keeps.ite_fst)
    | (with_reducible apply Keeps.ite_snd)

theorem Keeps.applyGates {s z : State} (hk : Keeps s z) (port : Nat) (extended : Bool) :
    Keeps s (Machine.applyGates port extended z) := by
  unfold Machine.applyGates
  repeat' first
    | with_reducible assumption
    | (with_reducible apply Keeps.setPsched)
    | (with_reducible apply Keeps.raiseDie)
    | (with_reducible apply Keeps.bumpObj)
    | (with_reducible apply Keeps.settleHeads)
    | (with_reducible apply Keeps.setPsched)
    | (with_reducible apply Keeps.ite)
    | split
    | exact Keeps.plain hk rfl rfl rfl rfl rfl rfl rfl rfl rfl rfl rfl rfl rfl rfl rfl rfl rfl rfl
    | dsimp only

theorem Keeps.gatesAfterStep {s z : State} (hk : Keeps s z) :
    Keeps s (Machine.gatesAfterStep z) := by
  unfold Machine.gatesAfterStep
  repeat' first
    | with_reducible assumption
    | (with_reducible apply Keeps.setPsched)
    | (with_reducible apply Keeps.applyGates)
    | (with_reducible refine Keeps.forEach _ (fun _ _ _ => ?_) ?_)
    | (with_reducible apply Keeps.setPsched)
    | (with_reducible apply Keeps.ite)
    | (with_reducible apply Keeps.ite_fst)
    | (with_reducible apply Keeps.ite_snd)
    | split
    | exact Keeps.plain hk rfl rfl rfl rfl rfl rfl rfl rfl rfl rfl rfl rfl rfl rfl rfl rfl rfl rfl
    | dsimp only

theorem Keeps.gateChange {s z : State} (hk : Keeps s z) (port : Nat) :
    Keeps s (Machine.gateChange port z) := by
  unfold Machine.gateChange
  repeat' first
    | with_reducible assumption
    | (with_reducible apply Keeps.setPsched)
    | (with_reducible apply Keeps.setPsched)

theorem Keeps.gatesOff {s z : State} (hk : Keeps s z) (port : Nat) :
    Keeps s (Machine.gatesOff port z) := by
  unfold Machine.gatesOff
  repeat' first
    | with_reducible assumption
    | (with_reducible apply Keeps.setPsched)
    | (with_reducible apply Keeps.setPsched)

theorem Keeps.gatesAtStart {s z : State} (hk : Keeps s z) (port : Nat) :
    Keeps s (Machine.gatesAtStart port z) := by
  unfold Machine.gatesAtStart
  repeat' first
    | with_reducible assumption
    | (with_reducible apply Keeps.raisePort)
    | (with_reducible apply Keeps.gateChange)
    | (with_reducible apply Keeps.ite)

theorem Keeps.weirCount {s z : State} (hk : Keeps s z) (die w k n : Nat) :
    Keeps s (Machine.weirCount die w k n z) := by
  unfold Machine.weirCount
  repeat' first
    | with_reducible assumption
    | (with_reducible apply Keeps.setWeir)
    | (with_reducible apply Keeps.countEv)
    | (with_reducible apply Keeps.setWeir)
    | exact Keeps.plain hk rfl rfl rfl rfl rfl rfl rfl rfl rfl rfl rfl rfl rfl rfl rfl rfl rfl rfl

theorem Keeps.meter {s z : State} (hk : Keeps s z) (t die w : Nat) (colour : Colour) (len : Nat) :
    Keeps s (Machine.meter t die w colour len z).2 := by
  unfold Machine.meter
  repeat' first
    | with_reducible assumption
    | (with_reducible apply Keeps.setWeir)
    | (with_reducible apply Keeps.raiseDie)
    | (with_reducible apply Keeps.weirCount)
    | (with_reducible apply Keeps.setWeir)
    | (with_reducible apply Keeps.ite)
    | (with_reducible apply Keeps.ite_fst)
    | (with_reducible apply Keeps.ite_snd)
    | split
    | exact Keeps.plain hk rfl rfl rfl rfl rfl rfl rfl rfl rfl rfl rfl rfl rfl rfl rfl rfl rfl rfl
    | dsimp only

theorem Keeps.meterAs {s z : State} (hk : Keeps s z) (t die w : Nat) (m : Option Colour) (b : Bytes) (len : Nat) :
    Keeps s (Machine.meterAs t die w m b len z).2 := by
  unfold Machine.meterAs
  repeat' first
    | with_reducible assumption
    | (with_reducible apply Keeps.meter)
    | (with_reducible apply Keeps.ite)
    | (with_reducible apply Keeps.ite_fst)
    | (with_reducible apply Keeps.ite_snd)

theorem Keeps.weirWrite {s z : State} (hk : Keeps s z) (t : Nat) (d : Bytes) (die : Nat) :
    Keeps s (Machine.weirWrite t d die z) := by
  unfold Machine.weirWrite
  repeat' first
    | with_reducible assumption
    | (with_reducible apply Keeps.setWeir)
    | (with_reducible apply Keeps.setWeir)

end Sys2Proof.Machine
end

