-- ==== Sys2Proof/Laws/KeepsPorts.lean ====
section
/-! SUPPORT. What the operations of Machine/Ports.lean keep. -/

namespace Sys2Proof.Machine
open Sys2Proof

theorem Keeps.flagFlush {s z : State} (hk : Keeps s z) (port : Nat) :
    Keeps s (Machine.flagFlush port z) := by
  unfold Machine.flagFlush
  repeat' first
    | with_reducible assumption
    | ((with_reducible refine Keeps.modTables ?_ ?_) <;> [skip; (generalize State.tables _ = b; exact fun h => h)])
    | ((with_reducible refine Keeps.modTables ?_ ?_) <;> [skip; (intro h; unfold TablesForm at h ⊢; simp_all [Tab.wf_set, Tab.wf_upd, Tab.wf_filter, Tab.wf_ite])])
    | ((with_reducible refine Keeps.modTables ?_ ?_) <;> [skip; (intro h; unfold TablesForm at h ⊢; split <;> simp_all [Tab.wf_set, Tab.wf_upd, Tab.wf_filter, Tab.wf_ite])])
    | (with_reducible apply Keeps.ite)
    | (with_reducible refine Keeps.foldl _ (fun _ _ _ => ?_) ?_)
    | (with_reducible refine Keeps.foldl_fst _ (fun _ _ _ => ?_) ?_)
    | (with_reducible refine Keeps.foldl_snd _ (fun _ _ _ => ?_) ?_)
    | exact Keeps.plain hk rfl rfl rfl rfl rfl rfl rfl rfl rfl rfl rfl rfl rfl rfl rfl rfl rfl rfl

theorem Keeps.switchover {s z : State} (hk : Keeps s z) (p : Nat) :
    Keeps s (Machine.switchover p z) := by
  unfold Machine.switchover
  repeat' first
    | with_reducible assumption
    | (with_reducible apply Keeps.setPort)
    | (with_reducible apply Keeps.raisePort)
    | (with_reducible apply Keeps.countPort)
    | (with_reducible apply Keeps.flushPort)
    | (with_reducible apply Keeps.flagFlush)
    | (with_reducible apply Keeps.setPort)
    | (with_reducible apply Keeps.ite)
    | (with_reducible apply Keeps.ite_fst)
    | (with_reducible apply Keeps.ite_snd)

theorem Keeps.backupUnavailable {s z : State} (hk : Keeps s z) (p : Nat) :
    Keeps s (Machine.backupUnavailable p z) := by
  unfold Machine.backupUnavailable
  repeat' first
    | with_reducible assumption
    | (with_reducible apply Keeps.setPort)
    | (with_reducible apply Keeps.raisePort)
    | (with_reducible apply Keeps.setPort)

theorem Keeps.revert {s z : State} (hk : Keeps s z) (p : Nat) :
    Keeps s (Machine.revert p z) := by
  unfold Machine.revert
  repeat' first
    | with_reducible assumption
    | (with_reducible apply Keeps.setPort)
    | (with_reducible apply Keeps.setPort)

theorem Keeps.primaryActs {s z : State} (hk : Keeps s z) (same : List Nat) (p : Nat) :
    Keeps s (Machine.primaryActs same p z) := by
  unfold Machine.primaryActs
  repeat' first
    | with_reducible assumption
    | (with_reducible apply Keeps.switchover)
    | (with_reducible apply Keeps.backupUnavailable)
    | (with_reducible apply Keeps.ite)

theorem Keeps.debounceExpiry {s z : State} (hk : Keeps s z) (pairs : List (Nat × Nat)) :
    Keeps s (Machine.debounceExpiry pairs z) := by
  unfold Machine.debounceExpiry
  repeat' first
    | with_reducible assumption
    | (with_reducible apply Keeps.setPort)
    | (with_reducible apply Keeps.primaryActs)
    | (with_reducible apply Keeps.setPort)
    | (with_reducible refine Keeps.forEach _ (fun _ _ _ => ?_) ?_)

theorem Keeps.conditionChange {s z : State} (hk : Keeps s z) (p k : Nat) (present : Bool) :
    Keeps s (Machine.conditionChange p k present z) := by
  unfold Machine.conditionChange
  repeat' first
    | with_reducible assumption
    | (with_reducible apply Keeps.setPort)
    | (with_reducible apply Keeps.countPort)
    | (with_reducible apply Keeps.debounceExpiry)
    | (with_reducible apply Keeps.setPort)
    | (with_reducible apply Keeps.ite)
    | exact Keeps.plain hk rfl rfl rfl rfl rfl rfl rfl rfl rfl rfl rfl rfl rfl rfl rfl rfl rfl rfl

theorem Keeps.fecCodeword {s z : State} (hk : Keeps s z) (p : Nat) (c : Nat) :
    Keeps s (Machine.fecCodeword p c z) := by
  unfold Machine.fecCodeword
  repeat' first
    | with_reducible assumption
    | (with_reducible apply Keeps.setPort)
    | (with_reducible apply Keeps.countPort)
    | (with_reducible apply Keeps.conditionChange)
    | (with_reducible apply Keeps.setPort)
    | (with_reducible apply Keeps.ite)
    | exact Keeps.plain hk rfl rfl rfl rfl rfl rfl rfl rfl rfl rfl rfl rfl rfl rfl rfl rfl rfl rfl

theorem Keeps.backupCameUp {s z : State} (hk : Keeps s z) (p : Nat) :
    Keeps s (Machine.backupCameUp p z) := by
  unfold Machine.backupCameUp
  repeat' first
    | with_reducible assumption
    | (with_reducible apply Keeps.setPort)
    | (with_reducible apply Keeps.switchover)
    | (with_reducible apply Keeps.setPort)
    | (with_reducible apply Keeps.ite)
    | exact Keeps.plain hk rfl rfl rfl rfl rfl rfl rfl rfl rfl rfl rfl rfl rfl rfl rfl rfl rfl rfl

theorem Keeps.backupWentDown {s z : State} (hk : Keeps s z) (p : Nat) :
    Keeps s (Machine.backupWentDown p z) := by
  unfold Machine.backupWentDown
  repeat' first
    | with_reducible assumption
    | (with_reducible apply Keeps.backupUnavailable)
    | (with_reducible apply Keeps.revert)
    | (with_reducible apply Keeps.ite)

theorem Keeps.setLink {s z : State} (hk : Keeps s z) (p : Nat) (st : LinkSt) (fec : Nat) :
    Keeps s (Machine.setLink p st fec z) := by
  unfold Machine.setLink
  repeat' first
    | with_reducible assumption
    | (with_reducible apply Keeps.setPort)
    | (with_reducible apply Keeps.raisePort)
    | (with_reducible apply Keeps.countPort)
    | (with_reducible apply Keeps.revert)
    | (with_reducible apply Keeps.backupCameUp)
    | (with_reducible apply Keeps.backupWentDown)
    | (with_reducible apply Keeps.setPort)
    | (with_reducible refine Keeps.forEach _ (fun _ _ _ => ?_) ?_)
    | (with_reducible apply Keeps.ite)
    | exact Keeps.plain hk rfl rfl rfl rfl rfl rfl rfl rfl rfl rfl rfl rfl rfl rfl rfl rfl rfl rfl

theorem Keeps.portAdminChanged {s z : State} (hk : Keeps s z) (p : Nat) :
    Keeps s (Machine.portAdminChanged p z) := by
  unfold Machine.portAdminChanged
  repeat' first
    | with_reducible assumption
    | (with_reducible apply Keeps.revert)
    | (with_reducible apply Keeps.setLink)
    | (with_reducible apply Keeps.ite)

theorem Keeps.stepTime {s z : State} (hk : Keeps s z) (x : Nat) :
    Keeps s (Machine.stepTime x z) := by
  unfold Machine.stepTime
  repeat' first
    | with_reducible assumption
    | (with_reducible apply Keeps.gatesAfterStep)
    | (with_reducible apply Keeps.modTime)
    | (with_reducible apply Keeps.ite)
    | exact Keeps.plain hk rfl rfl rfl rfl rfl rfl rfl rfl rfl rfl rfl rfl rfl rfl rfl rfl rfl rfl

theorem Keeps.setRate {s z : State} (hk : Keeps s z) (x : Int) :
    Keeps s (Machine.setRate x z) := by
  unfold Machine.setRate
  repeat' first
    | with_reducible assumption
    | (with_reducible apply Keeps.setVal)
    | (with_reducible apply Keeps.modTime)
    | exact Keeps.plain hk rfl rfl rfl rfl rfl rfl rfl rfl rfl rfl rfl rfl rfl rfl rfl rfl rfl rfl

theorem Keeps.loseSource {s z : State} (hk : Keeps s z) :
    Keeps s (Machine.loseSource z) := by
  unfold Machine.loseSource
  repeat' first
    | with_reducible assumption
    | (with_reducible apply Keeps.raise)
    | (with_reducible apply Keeps.modTime)
    | (with_reducible apply Keeps.ite)
    | exact Keeps.plain hk rfl rfl rfl rfl rfl rfl rfl rfl rfl rfl rfl rfl rfl rfl rfl rfl rfl rfl

theorem Keeps.ptpStops {s z : State} (hk : Keeps s z) :
    Keeps s (Machine.ptpStops z) := by
  unfold Machine.ptpStops
  repeat' first
    | with_reducible assumption
    | (with_reducible apply Keeps.modTime)
    | (with_reducible apply Keeps.ite)
    | exact Keeps.plain hk rfl rfl rfl rfl rfl rfl rfl rfl rfl rfl rfl rfl rfl rfl rfl rfl rfl rfl

theorem Keeps.drawStampError {s z : State} (hk : Keeps s z) :
    Keeps s (Machine.drawStampError z).2 := by
  unfold Machine.drawStampError
  repeat' first
    | with_reducible assumption
    | exact Keeps.plain hk rfl rfl rfl rfl rfl rfl rfl rfl rfl rfl rfl rfl rfl rfl rfl rfl rfl rfl

theorem Keeps.stampNow {s z : State} (hk : Keeps s z) :
    Keeps s (Machine.stampNow z).2 := by
  unfold Machine.stampNow
  repeat' first
    | with_reducible assumption
    | (with_reducible apply Keeps.drawStampError)

theorem Keeps.ppsIn {s z : State} (hk : Keeps s z) :
    Keeps s (Machine.ppsIn z) := by
  unfold Machine.ppsIn
  repeat' first
    | with_reducible assumption
    | (with_reducible apply Keeps.setRate)
    | (with_reducible apply Keeps.stampNow)
    | (with_reducible apply Keeps.modTime)
    | (with_reducible apply Keeps.ite)
    | (with_reducible apply Keeps.ite_fst)
    | (with_reducible apply Keeps.ite_snd)
    | exact Keeps.plain hk rfl rfl rfl rfl rfl rfl rfl rfl rfl rfl rfl rfl rfl rfl rfl rfl rfl rfl

theorem Keeps.frerCount {s z : State} (hk : Keeps s z) (i k n : Nat) :
    Keeps s (Machine.frerCount i k n z) := by
  unfold Machine.frerCount
  repeat' first
    | with_reducible assumption
    | (with_reducible apply Keeps.setFrer)
    | (with_reducible apply Keeps.setFrer)
    | exact Keeps.plain hk rfl rfl rfl rfl rfl rfl rfl rfl rfl rfl rfl rfl rfl rfl rfl rfl rfl rfl

theorem Keeps.frerPass {s z : State} (hk : Keeps s z) (i : Nat) :
    Keeps s (Machine.frerPass i z) := by
  unfold Machine.frerPass
  repeat' first
    | with_reducible assumption
    | (with_reducible apply Keeps.setFrer)
    | (with_reducible apply Keeps.frerCount)
    | (with_reducible apply Keeps.setFrer)

theorem Keeps.frerRecover {s z : State} (hk : Keeps s z) (i : Nat) (seq : Option Nat) :
    Keeps s (Machine.frerRecover i seq z).2 := by
  unfold Machine.frerRecover
  repeat' first
    | with_reducible assumption
    | (with_reducible apply Keeps.setFrer)
    | (with_reducible apply Keeps.frerCount)
    | (with_reducible apply Keeps.frerPass)
    | (with_reducible apply Keeps.setFrer)
    | (with_reducible apply Keeps.ite)
    | (with_reducible apply Keeps.ite_fst)
    | (with_reducible apply Keeps.ite_snd)
    | split
    | exact Keeps.plain hk rfl rfl rfl rfl rfl rfl rfl rfl rfl rfl rfl rfl rfl rfl rfl rfl rfl rfl
    | dsimp only

end Sys2Proof.Machine
end

