-- ==== Sys2Proof/Laws/KeepsParser.lean ====
section
/-! SUPPORT. What the operations of Machine/Parser.lean keep. -/

namespace Sys2Proof.Machine
open Sys2Proof

theorem Keeps.setBank {s z : State} (hk : Keeps s z) (b : Nat) (x : Bank) :
    Keeps s (Machine.setBank b x z) := by
  unfold Machine.setBank
  repeat' first
    | with_reducible assumption
    | (with_reducible apply Keeps.modCls)
    | exact Keeps.plain hk rfl rfl rfl rfl rfl rfl rfl rfl rfl rfl rfl rfl rfl rfl rfl rfl rfl rfl

theorem Keeps.bankRetire {s z : State} (hk : Keeps s z) (die : Nat) :
    Keeps s (Machine.bankRetire die z) := by
  unfold Machine.bankRetire
  repeat' first
    | with_reducible assumption
    | (with_reducible apply Keeps.raise)
    | (with_reducible apply Keeps.modCls)
    | (with_reducible apply Keeps.ite)
    | (with_reducible apply Keeps.ite_fst)
    | (with_reducible apply Keeps.ite_snd)
    | exact Keeps.plain hk rfl rfl rfl rfl rfl rfl rfl rfl rfl rfl rfl rfl rfl rfl rfl rfl rfl rfl

end Sys2Proof.Machine
end

