-- ==== Sys2Proof/Laws/KeepsTables.lean ====
section
/-! SUPPORT. What the operations of Machine/Tables.lean keep. -/

namespace Sys2Proof.Machine
open Sys2Proof

theorem Keeps.barMissed {s z : State} (hk : Keeps s z) (fn : Nat) :
    Keeps s (Machine.barMissed fn z) := by
  unfold Machine.barMissed
  repeat' first
    | with_reducible assumption
    | (with_reducible apply Keeps.setFunc)
    | (with_reducible apply Keeps.setFunc)
    | (with_reducible apply Keeps.ite)

theorem Keeps.ctlCross {s z : State} (hk : Keeps s z) (a b : Nat) :
    Keeps s (Machine.ctlCross a b z) := by
  unfold Machine.ctlCross
  repeat' first
    | with_reducible assumption
    | (with_reducible apply Keeps.modCulv)
    | (with_reducible apply Keeps.ite)
    | exact Keeps.plain hk rfl rfl rfl rfl rfl rfl rfl rfl rfl rfl rfl rfl rfl rfl rfl rfl rfl rfl

theorem Keeps.dataLaunch {s z : State} (hk : Keeps s z) (a b len : Nat) :
    Keeps s (Machine.dataLaunch a b len z) := by
  unfold Machine.dataLaunch
  repeat' first
    | with_reducible assumption
    | (with_reducible apply Keeps.modCulv)
    | (with_reducible apply Keeps.ite)
    | exact Keeps.plain hk rfl rfl rfl rfl rfl rfl rfl rfl rfl rfl rfl rfl rfl rfl rfl rfl rfl rfl

theorem Keeps.filterDrop {s z : State} (hk : Keeps s z) (die key : Nat) :
    Keeps s (Machine.filterDrop die key z) := by
  unfold Machine.filterDrop
  repeat' first
    | with_reducible assumption
    | ((with_reducible refine Keeps.modTables ?_ ?_) <;> [skip; (generalize State.tables _ = b; exact fun h => h)])
    | ((with_reducible refine Keeps.modTables ?_ ?_) <;> [skip; (intro h; unfold TablesForm at h ⊢; simp_all [Tab.wf_set, Tab.wf_upd, Tab.wf_filter, Tab.wf_ite])])
    | exact Keeps.plain hk rfl rfl rfl rfl rfl rfl rfl rfl rfl rfl rfl rfl rfl rfl rfl rfl rfl rfl

theorem Keeps.scanRun {s z : State} (hk : Keeps s z) :
    Keeps s (Machine.scanRun z) := by
  unfold Machine.scanRun
  repeat' first
    | with_reducible assumption
    | ((with_reducible refine Keeps.modTables ?_ ?_) <;> [skip; (generalize State.tables _ = b; exact fun h => h)])
    | ((with_reducible refine Keeps.modTables ?_ ?_) <;> [skip; (intro h; unfold TablesForm at h ⊢; simp_all [Tab.wf_set, Tab.wf_upd, Tab.wf_filter, Tab.wf_ite])])
    | ((with_reducible refine Keeps.modTables ?_ ?_) <;> [skip; (intro h; unfold TablesForm at h ⊢; split <;> simp_all [Tab.wf_set, Tab.wf_upd, Tab.wf_filter, Tab.wf_ite])])
    | (with_reducible apply Keeps.ite)
    | (with_reducible apply Keeps.ite_fst)
    | (with_reducible apply Keeps.ite_snd)
    | split
    | exact Keeps.plain hk rfl rfl rfl rfl rfl rfl rfl rfl rfl rfl rfl rfl rfl rfl rfl rfl rfl rfl
    | dsimp only

theorem Keeps.applyRep {s z : State} (hk : Keeps s z) (w : RepWrite) :
    Keeps s (Machine.applyRep w z) := by
  unfold Machine.applyRep
  repeat' first
    | with_reducible assumption
    | (with_reducible apply Keeps.filterDrop)
    | ((with_reducible refine Keeps.modTables ?_ ?_) <;> [skip; (generalize State.tables _ = b; exact fun h => h)])
    | ((with_reducible refine Keeps.modTables ?_ ?_) <;> [skip; (intro h; unfold TablesForm at h ⊢; simp_all [Tab.wf_set, Tab.wf_upd, Tab.wf_filter, Tab.wf_ite])])
    | ((with_reducible refine Keeps.modTables ?_ ?_) <;> [skip; (intro h; unfold TablesForm at h ⊢; split <;> simp_all [Tab.wf_set, Tab.wf_upd, Tab.wf_filter, Tab.wf_ite])])
    | (with_reducible apply Keeps.ite)
    | exact Keeps.plain hk rfl rfl rfl rfl rfl rfl rfl rfl rfl rfl rfl rfl rfl rfl rfl rfl rfl rfl

theorem Keeps.replicate {s z : State} (hk : Keeps s z) (w : RepWrite) :
    Keeps s (Machine.replicate w z) := by
  unfold Machine.replicate
  repeat' first
    | with_reducible assumption
    | (with_reducible apply Keeps.raiseDie)
    | (with_reducible apply Keeps.applyRep)
    | (with_reducible refine Keeps.forEach _ (fun _ _ _ => ?_) ?_)
    | ((with_reducible refine Keeps.modTables ?_ ?_) <;> [skip; (generalize State.tables _ = b; exact fun h => h)])
    | ((with_reducible refine Keeps.modTables ?_ ?_) <;> [skip; (intro h; unfold TablesForm at h ⊢; simp_all [Tab.wf_set, Tab.wf_upd, Tab.wf_filter, Tab.wf_ite])])
    | ((with_reducible refine Keeps.modTables ?_ ?_) <;> [skip; (intro h; unfold TablesForm at h ⊢; split <;> simp_all [Tab.wf_set, Tab.wf_upd, Tab.wf_filter, Tab.wf_ite])])
    | (with_reducible apply Keeps.ite)
    | exact Keeps.plain hk rfl rfl rfl rfl rfl rfl rfl rfl rfl rfl rfl rfl rfl rfl rfl rfl rfl rfl

theorem Keeps.putHome {s z : State} (hk : Keeps s z) (i : Nat) (e : FdbEntry) :
    Keeps s (Machine.putHome i e z) := by
  unfold Machine.putHome
  repeat' first
    | with_reducible assumption
    | (with_reducible apply Keeps.scanRun)
    | ((with_reducible refine Keeps.modTables ?_ ?_) <;> [skip; (generalize State.tables _ = b; exact fun h => h)])
    | ((with_reducible refine Keeps.modTables ?_ ?_) <;> [skip; (intro h; unfold TablesForm at h ⊢; simp_all [Tab.wf_set, Tab.wf_upd, Tab.wf_filter, Tab.wf_ite])])
    | exact Keeps.plain hk rfl rfl rfl rfl rfl rfl rfl rfl rfl rfl rfl rfl rfl rfl rfl rfl rfl rfl

theorem Keeps.putFdb {s z : State} (hk : Keeps s z) (home i key : Nat) (e : FdbEntry) :
    Keeps s (Machine.putFdb home i key e z) := by
  unfold Machine.putFdb
  repeat' first
    | with_reducible assumption
    | (with_reducible apply Keeps.replicate)
    | (with_reducible apply Keeps.putHome)

theorem Keeps.putStream {s z : State} (hk : Keeps s z) (home i key : Nat) (e : StreamEntry) :
    Keeps s (Machine.putStream home i key e z) := by
  unfold Machine.putStream
  repeat' first
    | with_reducible assumption
    | (with_reducible apply Keeps.scanRun)
    | (with_reducible apply Keeps.replicate)
    | ((with_reducible refine Keeps.modTables ?_ ?_) <;> [skip; (generalize State.tables _ = b; exact fun h => h)])
    | ((with_reducible refine Keeps.modTables ?_ ?_) <;> [skip; (intro h; unfold TablesForm at h ⊢; simp_all [Tab.wf_set, Tab.wf_upd, Tab.wf_filter, Tab.wf_ite])])
    | exact Keeps.plain hk rfl rfl rfl rfl rfl rfl rfl rfl rfl rfl rfl rfl rfl rfl rfl rfl rfl rfl

theorem Keeps.dropFdb {s z : State} (hk : Keeps s z) (i : Nat) :
    Keeps s (Machine.dropFdb i z) := by
  unfold Machine.dropFdb
  repeat' first
    | with_reducible assumption
    | (with_reducible apply Keeps.putFdb)

theorem Keeps.dropStream {s z : State} (hk : Keeps s z) (i : Nat) :
    Keeps s (Machine.dropStream i z) := by
  unfold Machine.dropStream
  repeat' first
    | with_reducible assumption
    | (with_reducible apply Keeps.putStream)

theorem Keeps.replicaWrite {s z : State} (hk : Keeps s z) (src dst : Nat) :
    Keeps s (Machine.replicaWrite src dst z) := by
  unfold Machine.replicaWrite
  repeat' first
    | with_reducible assumption
    | (with_reducible apply Keeps.ctlCross)
    | (with_reducible apply Keeps.applyRep)
    | ((with_reducible refine Keeps.modTables ?_ ?_) <;> [skip; (generalize State.tables _ = b; exact fun h => h)])
    | ((with_reducible refine Keeps.modTables ?_ ?_) <;> [skip; (intro h; unfold TablesForm at h ⊢; simp_all [Tab.wf_set, Tab.wf_upd, Tab.wf_filter, Tab.wf_ite])])
    | ((with_reducible refine Keeps.modTables ?_ ?_) <;> [skip; (intro h; unfold TablesForm at h ⊢; split <;> simp_all [Tab.wf_set, Tab.wf_upd, Tab.wf_filter, Tab.wf_ite])])
    | (with_reducible apply Keeps.ite)
    | split
    | exact Keeps.plain hk rfl rfl rfl rfl rfl rfl rfl rfl rfl rfl rfl rfl rfl rfl rfl rfl rfl rfl
    | dsimp only

theorem Keeps.copyReplica {s z : State} (hk : Keeps s z) (die : Nat) : Keeps s (Machine.copyReplica die z) :=
  hk.modTables (fun ⟨a, b, c, d, e, f⟩ =>
    ⟨a, b, Tab.wf_foldl _ _ (fun _ _ h => Tab.wf_set _ _ h) (Tab.wf_filter _ c),
      Tab.wf_foldl _ _ (fun _ _ h => Tab.wf_set _ _ h) (Tab.wf_filter _ d), Tab.wf_filter _ e, f⟩)

theorem Keeps.sendLearn {s z : State} (hk : Keeps s z) (die : Nat) (q : LearnReq) :
    Keeps s (Machine.sendLearn die q z) := by
  unfold Machine.sendLearn
  repeat' first
    | with_reducible assumption
    | (with_reducible apply Keeps.count)
    | ((with_reducible refine Keeps.modTables ?_ ?_) <;> [skip; (generalize State.tables _ = b; exact fun h => h)])
    | ((with_reducible refine Keeps.modTables ?_ ?_) <;> [skip; (intro h; unfold TablesForm at h ⊢; simp_all [Tab.wf_set, Tab.wf_upd, Tab.wf_filter, Tab.wf_ite])])
    | ((with_reducible refine Keeps.modTables ?_ ?_) <;> [skip; (intro h; unfold TablesForm at h ⊢; split <;> simp_all [Tab.wf_set, Tab.wf_upd, Tab.wf_filter, Tab.wf_ite])])
    | (with_reducible apply Keeps.ite)
    | (with_reducible apply Keeps.ite_fst)
    | (with_reducible apply Keeps.ite_snd)
    | exact Keeps.plain hk rfl rfl rfl rfl rfl rfl rfl rfl rfl rfl rfl rfl rfl rfl rfl rfl rfl rfl

theorem Keeps.sourceHit {s z : State} (hk : Keeps s z) (die i : Nat) (e : FdbEntry) :
    Keeps s (Machine.sourceHit die i e z) := by
  unfold Machine.sourceHit
  repeat' first
    | with_reducible assumption
    | (with_reducible apply Keeps.count)
    | ((with_reducible refine Keeps.modTables ?_ ?_) <;> [skip; (generalize State.tables _ = b; exact fun h => h)])
    | ((with_reducible refine Keeps.modTables ?_ ?_) <;> [skip; (intro h; unfold TablesForm at h ⊢; simp_all [Tab.wf_set, Tab.wf_upd, Tab.wf_filter, Tab.wf_ite])])
    | ((with_reducible refine Keeps.modTables ?_ ?_) <;> [skip; (intro h; unfold TablesForm at h ⊢; split <;> simp_all [Tab.wf_set, Tab.wf_upd, Tab.wf_filter, Tab.wf_ite])])
    | (with_reducible apply Keeps.ite)
    | exact Keeps.plain hk rfl rfl rfl rfl rfl rfl rfl rfl rfl rfl rfl rfl rfl rfl rfl rfl rfl rfl

theorem Keeps.hitNotice {s z : State} (hk : Keeps s z) (die : Nat) :
    Keeps s (Machine.hitNotice die z) := by
  unfold Machine.hitNotice
  repeat' first
    | with_reducible assumption
    | (with_reducible apply Keeps.ctlCross)
    | (with_reducible apply Keeps.putHome)
    | ((with_reducible refine Keeps.modTables ?_ ?_) <;> [skip; (generalize State.tables _ = b; exact fun h => h)])
    | ((with_reducible refine Keeps.modTables ?_ ?_) <;> [skip; (intro h; unfold TablesForm at h ⊢; simp_all [Tab.wf_set, Tab.wf_upd, Tab.wf_filter, Tab.wf_ite])])
    | ((with_reducible refine Keeps.modTables ?_ ?_) <;> [skip; (intro h; unfold TablesForm at h ⊢; split <;> simp_all [Tab.wf_set, Tab.wf_upd, Tab.wf_filter, Tab.wf_ite])])
    | (with_reducible apply Keeps.ite)
    | (with_reducible apply Keeps.ite_fst)
    | (with_reducible apply Keeps.ite_snd)
    | split
    | exact Keeps.plain hk rfl rfl rfl rfl rfl rfl rfl rfl rfl rfl rfl rfl rfl rfl rfl rfl rfl rfl
    | dsimp only

theorem Keeps.sweepRun {s z : State} (hk : Keeps s z) (die : Nat) :
    Keeps s (Machine.sweepRun die z) := by
  unfold Machine.sweepRun
  repeat' first
    | with_reducible assumption
    | (with_reducible apply Keeps.dropFdb)
    | (with_reducible refine Keeps.forEach _ (fun _ _ _ => ?_) ?_)
    | ((with_reducible refine Keeps.modTables ?_ ?_) <;> [skip; (generalize State.tables _ = b; exact fun h => h)])
    | ((with_reducible refine Keeps.modTables ?_ ?_) <;> [skip; (intro h; unfold TablesForm at h ⊢; simp_all [Tab.wf_set, Tab.wf_upd, Tab.wf_filter, Tab.wf_ite])])
    | ((with_reducible refine Keeps.modTables ?_ ?_) <;> [skip; (intro h; unfold TablesForm at h ⊢; split <;> simp_all [Tab.wf_set, Tab.wf_upd, Tab.wf_filter, Tab.wf_ite])])
    | (with_reducible apply Keeps.ite)
    | (with_reducible apply Keeps.ite_fst)
    | (with_reducible apply Keeps.ite_snd)
    | exact Keeps.plain hk rfl rfl rfl rfl rfl rfl rfl rfl rfl rfl rfl rfl rfl rfl rfl rfl rfl rfl

theorem Keeps.sweepAll {s z : State} (hk : Keeps s z) :
    Keeps s (Machine.sweepAll z) := by
  unfold Machine.sweepAll
  repeat' first
    | with_reducible assumption
    | (with_reducible apply Keeps.sweepRun)
    | (with_reducible refine Keeps.forEach _ (fun _ _ _ => ?_) ?_)

theorem Keeps.learnOne {s z : State} (hk : Keeps s z) (die : Nat) (q : LearnReq) :
    Keeps s (Machine.learnOne die q z) := by
  unfold Machine.learnOne
  repeat' first
    | with_reducible assumption
    | (with_reducible apply Keeps.raise)
    | (with_reducible apply Keeps.count)
    | (with_reducible apply Keeps.putHome)
    | (with_reducible apply Keeps.putFdb)
    | (with_reducible apply Keeps.ite)
    | split
    | exact Keeps.plain hk rfl rfl rfl rfl rfl rfl rfl rfl rfl rfl rfl rfl rfl rfl rfl rfl rfl rfl
    | dsimp only

theorem Keeps.learn {s z : State} (hk : Keeps s z) (die : Nat) :
    Keeps s (Machine.learn die z) := by
  unfold Machine.learn
  repeat' first
    | with_reducible assumption
    | (with_reducible apply Keeps.ctlCross)
    | (with_reducible apply Keeps.sweepRun)
    | (with_reducible apply Keeps.learnOne)
    | ((with_reducible refine Keeps.modTables ?_ ?_) <;> [skip; (generalize State.tables _ = b; exact fun h => h)])
    | ((with_reducible refine Keeps.modTables ?_ ?_) <;> [skip; (intro h; unfold TablesForm at h ⊢; simp_all [Tab.wf_set, Tab.wf_upd, Tab.wf_filter, Tab.wf_ite])])
    | ((with_reducible refine Keeps.modTables ?_ ?_) <;> [skip; (intro h; unfold TablesForm at h ⊢; split <;> simp_all [Tab.wf_set, Tab.wf_upd, Tab.wf_filter, Tab.wf_ite])])
    | (with_reducible apply Keeps.ite)
    | split
    | exact Keeps.plain hk rfl rfl rfl rfl rfl rfl rfl rfl rfl rfl rfl rfl rfl rfl rfl rfl rfl rfl
    | dsimp only

theorem Keeps.learnFilterExpiry {s z : State} (hk : Keeps s z) (die key : Nat) :
    Keeps s (Machine.learnFilterExpiry die key z) := by
  unfold Machine.learnFilterExpiry
  repeat' first
    | with_reducible assumption
    | (with_reducible apply Keeps.filterDrop)
    | (with_reducible apply Keeps.ite)
    | (with_reducible apply Keeps.ite_fst)
    | (with_reducible apply Keeps.ite_snd)

theorem Keeps.agerVisit {s z : State} (hk : Keeps s z) (i : Nat) :
    Keeps s (Machine.agerVisit i z) := by
  unfold Machine.agerVisit
  repeat' first
    | with_reducible assumption
    | (with_reducible apply Keeps.count)
    | (with_reducible apply Keeps.replicate)
    | (with_reducible apply Keeps.putHome)
    | (with_reducible apply Keeps.dropFdb)
    | (with_reducible apply Keeps.ite)
    | exact Keeps.plain hk rfl rfl rfl rfl rfl rfl rfl rfl rfl rfl rfl rfl rfl rfl rfl rfl rfl rfl

theorem Keeps.agerComes {s z : State} (hk : Keeps s z) (t i : Nat) : Keeps s (Machine.agerComes t i z) := by
  unfold Machine.agerComes
  split
  · exact hk
  · exact ((hk.modTables (fun ⟨a, b, c, d, e, f⟩ => ⟨a, b, c, d, e, f⟩)).sweepAll).agerVisit i

theorem Keeps.flushSweep {s z : State} (hk : Keeps s z) (die : Nat) :
    Keeps s (Machine.flushSweep die z) := by
  unfold Machine.flushSweep
  repeat' first
    | with_reducible assumption
    | (with_reducible apply Keeps.sweepRun)
    | ((with_reducible refine Keeps.modTables ?_ ?_) <;> [skip; (generalize State.tables _ = b; exact fun h => h)])
    | ((with_reducible refine Keeps.modTables ?_ ?_) <;> [skip; (intro h; unfold TablesForm at h ⊢; simp_all [Tab.wf_set, Tab.wf_upd, Tab.wf_filter, Tab.wf_ite])])
    | ((with_reducible refine Keeps.modTables ?_ ?_) <;> [skip; (intro h; unfold TablesForm at h ⊢; split <;> simp_all [Tab.wf_set, Tab.wf_upd, Tab.wf_filter, Tab.wf_ite])])
    | (with_reducible apply Keeps.ite)
    | exact Keeps.plain hk rfl rfl rfl rfl rfl rfl rfl rfl rfl rfl rfl rfl rfl rfl rfl rfl rfl rfl

theorem Keeps.flushSweepEnd {s z : State} (hk : Keeps s z) (die : Nat) :
    Keeps s (Machine.flushSweepEnd die z) := by
  unfold Machine.flushSweepEnd
  repeat' first
    | with_reducible assumption
    | (with_reducible apply Keeps.sweepRun)
    | ((with_reducible refine Keeps.modTables ?_ ?_) <;> [skip; (generalize State.tables _ = b; exact fun h => h)])
    | ((with_reducible refine Keeps.modTables ?_ ?_) <;> [skip; (intro h; unfold TablesForm at h ⊢; simp_all [Tab.wf_set, Tab.wf_upd, Tab.wf_filter, Tab.wf_ite])])
    | ((with_reducible refine Keeps.modTables ?_ ?_) <;> [skip; (intro h; unfold TablesForm at h ⊢; split <;> simp_all [Tab.wf_set, Tab.wf_upd, Tab.wf_filter, Tab.wf_ite])])
    | (with_reducible apply Keeps.ite)
    | (with_reducible apply Keeps.ite_fst)
    | (with_reducible apply Keeps.ite_snd)
    | exact Keeps.plain hk rfl rfl rfl rfl rfl rfl rfl rfl rfl rfl rfl rfl rfl rfl rfl rfl rfl rfl

theorem Keeps.tblDrop {s z : State} (hk : Keeps s z) (table i : Nat) :
    Keeps s (Machine.tblDrop table i z) := by
  unfold Machine.tblDrop
  repeat' first
    | with_reducible assumption
    | (with_reducible apply Keeps.dropFdb)
    | (with_reducible apply Keeps.dropStream)
    | (with_reducible apply Keeps.ite)

theorem Keeps.tblPut {s z : State} (hk : Keeps s z) (table i key d : Nat) :
    Keeps s (Machine.tblPut table i key d z) := by
  unfold Machine.tblPut
  repeat' first
    | with_reducible assumption
    | (with_reducible apply Keeps.putFdb)
    | (with_reducible apply Keeps.putStream)
    | (with_reducible apply Keeps.ite)

theorem Keeps.tblInvalid {s z : State} (hk : Keeps s z) :
    Keeps s (Machine.tblInvalid z).2 := by
  unfold Machine.tblInvalid
  repeat' first
    | with_reducible assumption

theorem Keeps.tblReadCmd {s z : State} (hk : Keeps s z) (table : Nat) (byIndex : Bool) (index : Nat) :
    Keeps s (Machine.tblReadCmd table byIndex index z).2 := by
  unfold Machine.tblReadCmd
  repeat' first
    | with_reducible assumption
    | split
    | dsimp only

theorem Keeps.tblDeleteCmd {s z : State} (hk : Keeps s z) (table : Nat) (byIndex : Bool) (index : Nat) :
    Keeps s (Machine.tblDeleteCmd table byIndex index z).2 := by
  unfold Machine.tblDeleteCmd
  repeat' first
    | with_reducible assumption
    | (with_reducible apply Keeps.tblDrop)
    | split
    | dsimp only

theorem Keeps.tblWriteCmd {s z : State} (hk : Keeps s z) (table : Nat) (byIndex : Bool) (index : Nat) :
    Keeps s (Machine.tblWriteCmd table byIndex index z).2 := by
  unfold Machine.tblWriteCmd
  repeat' first
    | with_reducible assumption
    | (with_reducible apply Keeps.raise)
    | (with_reducible apply Keeps.count)
    | (with_reducible apply Keeps.tblPut)
    | (with_reducible apply Keeps.tblInvalid)
    | (with_reducible apply Keeps.tblDeleteCmd)
    | (with_reducible apply Keeps.ite)
    | (with_reducible apply Keeps.ite_fst)
    | (with_reducible apply Keeps.ite_snd)
    | split
    | dsimp only

theorem Keeps.tblSearchCmd {s z : State} (hk : Keeps s z) (table index : Nat) :
    Keeps s (Machine.tblSearchCmd table index z).2 := by
  unfold Machine.tblSearchCmd
  repeat' first
    | with_reducible assumption
    | (with_reducible apply Keeps.tblInvalid)
    | (with_reducible apply Keeps.ite)
    | (with_reducible apply Keeps.ite_fst)
    | (with_reducible apply Keeps.ite_snd)

theorem Keeps.flushCmd {s z : State} (hk : Keeps s z) (index : Nat) :
    Keeps s (Machine.flushCmd index z).2 := by
  unfold Machine.flushCmd
  repeat' first
    | with_reducible assumption
    | (with_reducible apply Keeps.flagFlush)
    | (with_reducible apply Keeps.tblInvalid)
    | (with_reducible apply Keeps.ite)
    | (with_reducible apply Keeps.ite_fst)
    | (with_reducible apply Keeps.ite_snd)

theorem Keeps.ageNowCmd {s z : State} (hk : Keeps s z) :
    Keeps s (Machine.ageNowCmd z).2 := by
  unfold Machine.ageNowCmd
  repeat' first
    | with_reducible assumption
    | (with_reducible apply Keeps.agerVisit)
    | (with_reducible refine Keeps.forEach _ (fun _ _ _ => ?_) ?_)

theorem Keeps.tblCommand {s z : State} (hk : Keeps s z) (op table : Nat) (byIndex : Bool) (index : Nat) (run : State → TblAnswer × State) (h_run : ∀ y, Keeps s y → Keeps s (run y).2) :
    Keeps s (Machine.tblCommand op table byIndex index run z) := by
  unfold Machine.tblCommand
  repeat' first
    | with_reducible assumption
    | (with_reducible apply h_run)
    | (with_reducible apply Keeps.barMissed)
    | (with_reducible apply Keeps.sweepAll)
    | (with_reducible apply Keeps.tblInvalid)
    | ((with_reducible refine Keeps.modTables ?_ ?_) <;> [skip; (generalize State.tables _ = b; exact fun h => h)])
    | ((with_reducible refine Keeps.modTables ?_ ?_) <;> [skip; (intro h; unfold TablesForm at h ⊢; simp_all [Tab.wf_set, Tab.wf_upd, Tab.wf_filter, Tab.wf_ite])])
    | ((with_reducible refine Keeps.modTables ?_ ?_) <;> [skip; (intro h; unfold TablesForm at h ⊢; split <;> simp_all [Tab.wf_set, Tab.wf_upd, Tab.wf_filter, Tab.wf_ite])])
    | (with_reducible apply Keeps.ite)
    | (with_reducible apply Keeps.ite_fst)
    | (with_reducible apply Keeps.ite_snd)
    | exact Keeps.plain hk rfl rfl rfl rfl rfl rfl rfl rfl rfl rfl rfl rfl rfl rfl rfl rfl rfl rfl

theorem Keeps.tblRun {s z : State} (k : Keeps s z) (op table : Nat) (byIndex : Bool) (index : Nat) :
    Keeps s (Machine.tblRun op table byIndex index z).2 := by
  unfold Machine.tblRun
  split_ifs
  · exact k.tblReadCmd _ _ _
  · exact k.tblWriteCmd _ _ _
  · exact k.tblDeleteCmd _ _ _
  · exact k.tblSearchCmd _ _
  · exact k.flushCmd _
  · exact k.ageNowCmd
  · exact k.tblInvalid

theorem Keeps.tblComplete {s z : State} (hk : Keeps s z) :
    Keeps s (Machine.tblComplete z) := by
  unfold Machine.tblComplete
  repeat' first
    | with_reducible assumption
    | (with_reducible apply Keeps.scanRun)
    | ((with_reducible refine Keeps.modTables ?_ ?_) <;> [skip; (generalize State.tables _ = b; exact fun h => h)])
    | ((with_reducible refine Keeps.modTables ?_ ?_) <;> [skip; (intro h; unfold TablesForm at h ⊢; simp_all [Tab.wf_set, Tab.wf_upd, Tab.wf_filter, Tab.wf_ite])])
    | ((with_reducible refine Keeps.modTables ?_ ?_) <;> [skip; (intro h; unfold TablesForm at h ⊢; split <;> simp_all [Tab.wf_set, Tab.wf_upd, Tab.wf_filter, Tab.wf_ite])])
    | (with_reducible apply Keeps.ite)
    | (with_reducible refine Keeps.foldl _ (fun _ _ _ => ?_) ?_)
    | (with_reducible refine Keeps.foldl_fst _ (fun _ _ _ => ?_) ?_)
    | (with_reducible refine Keeps.foldl_snd _ (fun _ _ _ => ?_) ?_)
    | split
    | exact Keeps.plain hk rfl rfl rfl rfl rfl rfl rfl rfl rfl rfl rfl rfl rfl rfl rfl rfl rfl rfl
    | dsimp only

theorem Keeps.clearTable {s z : State} (hk : Keeps s z) (table : Nat) : Keeps s (Machine.clearTable table z) := by
  unfold Machine.clearTable
  dsimp only
  refine (Keeps.scanRun hk).modTables (fun ⟨a, b, c, d, e, f⟩ => ?_)
  split
  · exact ⟨rfl, b, rfl, d, rfl, f⟩
  · exact ⟨a, rfl, c, rfl, e, f⟩

end Sys2Proof.Machine
end

