-- ==== Sys2Proof/Laws/KeepsTransit.lean ====
section
/-! SUPPORT. What the operations of Machine/Transit.lean keep. -/

namespace Sys2Proof.Machine
open Sys2Proof

theorem Keeps.crossDiscard {s z : State} (hk : Keeps s z) (a b : Nat) :
    Keeps s (Machine.crossDiscard a b z) := by
  unfold Machine.crossDiscard
  repeat' first
    | with_reducible assumption
    | (with_reducible apply Keeps.countEv)
    | (with_reducible apply Keeps.raiseDie)
    | (with_reducible apply Keeps.ite)

theorem Keeps.loseParcel {s z : State} (hk : Keeps s z) (p : Parcel) :
    Keeps s (Machine.loseParcel p z) := by
  unfold Machine.loseParcel
  repeat' first
    | with_reducible assumption
    | (with_reducible apply Keeps.txLost)
    | (with_reducible apply Keeps.ite)

theorem Keeps.launch {s z : State} (hk : Keeps s z) (p : Parcel) :
    Keeps s (Machine.launch p z) := by
  unfold Machine.launch
  repeat' first
    | with_reducible assumption
    | (with_reducible apply Keeps.dataLaunch)
    | (with_reducible apply Keeps.crossDiscard)
    | (with_reducible apply Keeps.loseParcel)
    | (with_reducible apply Keeps.ticket)
    | ((with_reducible refine Keeps.modBuf ?_ ?_) <;> [skip; (generalize State.buf _ = b; exact fun h => h)])
    | ((with_reducible refine Keeps.modBuf ?_ ?_) <;> [skip; (intro h; unfold BufForm at h ⊢; simp_all [Tab.wf_set, Tab.wf_upd, Tab.wf_filter, Tab.wf_ite])])
    | ((with_reducible refine Keeps.modBuf ?_ ?_) <;> [skip; (intro h; unfold BufForm at h ⊢; split <;> simp_all [Tab.wf_set, Tab.wf_upd, Tab.wf_filter, Tab.wf_ite])])
    | (with_reducible apply Keeps.ite)
    | (with_reducible apply Keeps.ite_fst)
    | (with_reducible apply Keeps.ite_snd)
    | exact Keeps.plain hk rfl rfl rfl rfl rfl rfl rfl rfl rfl rfl rfl rfl rfl rfl rfl rfl rfl rfl

theorem Keeps.launchAll {s z : State} (hk : Keeps s z) (l : List Parcel) :
    Keeps s (Machine.launchAll l z) := by
  unfold Machine.launchAll
  repeat' first
    | with_reducible assumption
    | (with_reducible apply Keeps.launch)
    | (with_reducible refine Keeps.forEach _ (fun _ _ _ => ?_) ?_)

theorem Keeps.flitReceive {s z : State} (hk : Keeps s z) (c : Nat) (ok : Bool) :
    Keeps s (Machine.flitReceive c ok z) := by
  unfold Machine.flitReceive
  repeat' first
    | with_reducible assumption
    | (with_reducible apply Keeps.countEv)
    | (with_reducible apply Keeps.modCulv)
    | (with_reducible apply Keeps.ite)
    | exact Keeps.plain hk rfl rfl rfl rfl rfl rfl rfl rfl rfl rfl rfl rfl rfl rfl rfl rfl rfl rfl

theorem Keeps.loseTransit {s z : State} (hk : Keeps s z) (c : Nat) :
    Keeps s (Machine.loseTransit c z) := by
  unfold Machine.loseTransit
  repeat' first
    | with_reducible assumption
    | (with_reducible apply Keeps.crossDiscard)
    | (with_reducible apply Keeps.loseParcel)
    | (with_reducible refine Keeps.forEach _ (fun _ _ _ => ?_) ?_)
    | ((with_reducible refine Keeps.modBuf ?_ ?_) <;> [skip; (generalize State.buf _ = b; exact fun h => h)])
    | ((with_reducible refine Keeps.modBuf ?_ ?_) <;> [skip; (intro h; unfold BufForm at h ⊢; simp_all [Tab.wf_set, Tab.wf_upd, Tab.wf_filter, Tab.wf_ite])])
    | ((with_reducible refine Keeps.modBuf ?_ ?_) <;> [skip; (intro h; unfold BufForm at h ⊢; split <;> simp_all [Tab.wf_set, Tab.wf_upd, Tab.wf_filter, Tab.wf_ite])])
    | (with_reducible apply Keeps.ite)
    | exact Keeps.plain hk rfl rfl rfl rfl rfl rfl rfl rfl rfl rfl rfl rfl rfl rfl rfl rfl rfl rfl

theorem Keeps.culvertDown {s z : State} (hk : Keeps s z) (c : Nat) :
    Keeps s (Machine.culvertDown c z) := by
  unfold Machine.culvertDown
  repeat' first
    | with_reducible assumption
    | (with_reducible apply Keeps.raise)
    | (with_reducible apply Keeps.loseTransit)
    | (with_reducible apply Keeps.modCulv)
    | (with_reducible apply Keeps.ite)
    | exact Keeps.plain hk rfl rfl rfl rfl rfl rfl rfl rfl rfl rfl rfl rfl rfl rfl rfl rfl rfl rfl

theorem Keeps.culvertRetrain {s z : State} (hk : Keeps s z) (c : Nat) (up : Bool) :
    Keeps s (Machine.culvertRetrain c up z) := by
  unfold Machine.culvertRetrain
  repeat' first
    | with_reducible assumption
    | (with_reducible apply Keeps.raise)
    | (with_reducible apply Keeps.modCulv)
    | ((with_reducible refine Keeps.modTables ?_ ?_) <;> [skip; (generalize State.tables _ = b; exact fun h => h)])
    | ((with_reducible refine Keeps.modTables ?_ ?_) <;> [skip; (intro h; unfold TablesForm at h ⊢; simp_all [Tab.wf_set, Tab.wf_upd, Tab.wf_filter, Tab.wf_ite])])
    | ((with_reducible refine Keeps.modTables ?_ ?_) <;> [skip; (intro h; unfold TablesForm at h ⊢; split <;> simp_all [Tab.wf_set, Tab.wf_upd, Tab.wf_filter, Tab.wf_ite])])
    | (with_reducible apply Keeps.ite)
    | (with_reducible apply Keeps.ite_fst)
    | (with_reducible apply Keeps.ite_snd)
    | exact Keeps.plain hk rfl rfl rfl rfl rfl rfl rfl rfl rfl rfl rfl rfl rfl rfl rfl rfl rfl rfl

theorem Keeps.hostRefuses {s z : State} (hk : Keeps s z) (fn : Nat) :
    Keeps s (Machine.hostRefuses fn z) := by
  unfold Machine.hostRefuses
  repeat' first
    | with_reducible assumption
    | (with_reducible apply Keeps.countPolder)

end Sys2Proof.Machine
end

