-- ==== Sys2Proof/Laws/KeepsFlow.lean ====
section
/-! SUPPORT. What the operations of Machine/Flow.lean keep. -/

namespace Sys2Proof.Machine
open Sys2Proof

theorem Keeps.releaseReq {s z : State} (hk : Keeps s z) (r : CtxReq) :
    Keeps s (Machine.releaseReq r z) := by
  unfold Machine.releaseReq
  repeat' first
    | with_reducible assumption
    | (with_reducible apply Keeps.launchAll)

theorem Keeps.missOverflow {s z : State} (hk : Keeps s z) (r : CtxReq) :
    Keeps s (Machine.missOverflow r z) := by
  unfold Machine.missOverflow
  repeat' first
    | with_reducible assumption
    | (with_reducible apply Keeps.count)
    | (with_reducible apply Keeps.releaseReq)
    | (with_reducible apply Keeps.ite)

theorem Keeps.flowNotify {s z : State} (hk : Keeps s z) (t n ty : Nat) :
    Keeps s (Machine.flowNotify t n ty z) := by
  unfold Machine.flowNotify
  repeat' first
    | with_reducible assumption
    | (with_reducible apply Keeps.setQueue)
    | (with_reducible apply Keeps.count)
    | (with_reducible apply Keeps.setHostFrames)
    | (with_reducible apply Keeps.setQueue)
    | (with_reducible apply Keeps.ite)
    | split
    | exact Keeps.plain hk rfl rfl rfl rfl rfl rfl rfl rfl rfl rfl rfl rfl rfl rfl rfl rfl rfl rfl
    | dsimp only

theorem Keeps.takeCtx {s z y : State} {part n : Nat} (k : Keeps s z) (h : Machine.takeCtx part z = some (n, y)) :
    Keeps s y := by
  unfold Machine.takeCtx at h
  dsimp only at h
  repeat' split at h
  all_goals simp only [reduceCtorEq, Option.some.injEq, Prod.mk.injEq] at h
  all_goals
    obtain ⟨-, rfl⟩ := h
    exact k.setFlowDie _ _

theorem Keeps.putEntry {s z : State} (hk : Keeps s z) (place : Bool × Nat) (e : FlowEntry) :
    Keeps s (Machine.putEntry place e z) := by
  unfold Machine.putEntry
  repeat' first
    | with_reducible assumption
    | ((with_reducible refine Keeps.modFlow ?_ ?_) <;> [skip; (generalize State.flow _ = b; exact fun h => h)])
    | ((with_reducible refine Keeps.modFlow ?_ ?_) <;> [skip; (intro h; unfold FlowForm at h ⊢; simp_all [Tab.wf_set, Tab.wf_upd, Tab.wf_filter, Tab.wf_ite])])
    | ((with_reducible refine Keeps.modFlow ?_ ?_) <;> [skip; (intro h; unfold FlowForm at h ⊢; split <;> simp_all [Tab.wf_set, Tab.wf_upd, Tab.wf_filter, Tab.wf_ite])])
    | (with_reducible apply Keeps.ite)
    | (with_reducible apply Keeps.ite_fst)
    | (with_reducible apply Keeps.ite_snd)
    | exact Keeps.plain hk rfl rfl rfl rfl rfl rfl rfl rfl rfl rfl rfl rfl rfl rfl rfl rfl rfl rfl

theorem Keeps.createCtx {s z y : State} {key : Bytes} {hash n : Nat} {c : Ctx} (k : Keeps s z)
    (h : Machine.createCtx key hash c z = some (n, y)) : Keeps s y := by
  unfold Machine.createCtx at h
  dsimp only at h
  repeat' split at h
  · exact absurd h (by simp)
  · exact absurd h (by simp)
  · rename_i heq
    cases h
    with_reducible apply Keeps.putEntry
    with_reducible apply Keeps.setCtx
    exact k.takeCtx heq

theorem Keeps.uncache {s z : State} (hk : Keeps s z) (n : Nat) :
    Keeps s (Machine.uncache n z) := by
  unfold Machine.uncache
  repeat' first
    | with_reducible assumption
    | ((with_reducible refine Keeps.modFlow ?_ ?_) <;> [skip; (generalize State.flow _ = b; exact fun h => h)])
    | ((with_reducible refine Keeps.modFlow ?_ ?_) <;> [skip; (intro h; unfold FlowForm at h ⊢; simp_all [Tab.wf_set, Tab.wf_upd, Tab.wf_filter, Tab.wf_ite])])
    | exact Keeps.plain hk rfl rfl rfl rfl rfl rfl rfl rfl rfl rfl rfl rfl rfl rfl rfl rfl rfl rfl

theorem Keeps.deleteCtx {s z : State} (hk : Keeps s z) (n : Nat) :
    Keeps s (Machine.deleteCtx n z) := by
  unfold Machine.deleteCtx
  repeat' first
    | with_reducible assumption
    | (with_reducible apply Keeps.setFlowDie)
    | (with_reducible apply Keeps.setCtx)
    | (with_reducible apply Keeps.uncache)
    | (with_reducible apply Keeps.setFlowDie)
    | ((with_reducible refine Keeps.modFlow ?_ ?_) <;> [skip; (generalize State.flow _ = b; exact fun h => h)])
    | (with_reducible apply Keeps.setCtx)
    | ((with_reducible refine Keeps.modFlow ?_ ?_) <;> [skip; (intro h; unfold FlowForm at h ⊢; simp_all [Tab.wf_set, Tab.wf_upd, Tab.wf_filter, Tab.wf_ite])])
    | exact Keeps.plain hk rfl rfl rfl rfl rfl rfl rfl rfl rfl rfl rfl rfl rfl rfl rfl rfl rfl rfl

theorem Keeps.useWay {s z : State} (hk : Keeps s z) (key : Nat) :
    Keeps s (Machine.useWay key z) := by
  unfold Machine.useWay
  repeat' first
    | with_reducible assumption
    | ((with_reducible refine Keeps.modFlow ?_ ?_) <;> [skip; (generalize State.flow _ = b; exact fun h => h)])
    | ((with_reducible refine Keeps.modFlow ?_ ?_) <;> [skip; (intro h; unfold FlowForm at h ⊢; simp_all [Tab.wf_set, Tab.wf_upd, Tab.wf_filter, Tab.wf_ite])])
    | exact Keeps.plain hk rfl rfl rfl rfl rfl rfl rfl rfl rfl rfl rfl rfl rfl rfl rfl rfl rfl rfl

theorem Keeps.reserveWay {s z y : State} {die set n : Nat} (k : Keeps s z)
    (h : Machine.reserveWay die set z = some (n, y)) : Keeps s y := by
  have k1 : Keeps s { z with freeCtr := z.freeCtr + 1 } :=
    Keeps.plain k rfl rfl rfl rfl rfl rfl rfl rfl rfl rfl rfl rfl rfl rfl rfl rfl rfl rfl
  unfold Machine.reserveWay at h
  dsimp only at h
  repeat' split at h
  · exact absurd h (by simp)
  · cases h; exact k1
  · cases h
    with_reducible apply Keeps.count
    with_reducible apply Keeps.setFlowDie
    with_reducible apply Keeps.uncache
    exact k1

theorem Keeps.installCtx {s z : State} (hk : Keeps s z) (die set way n : Nat) :
    Keeps s (Machine.installCtx die set way n z) := by
  unfold Machine.installCtx
  repeat' first
    | with_reducible assumption
    | (with_reducible apply Keeps.useWay)
    | ((with_reducible refine Keeps.modFlow ?_ ?_) <;> [skip; (generalize State.flow _ = b; exact fun h => h)])
    | ((with_reducible refine Keeps.modFlow ?_ ?_) <;> [skip; (intro h; unfold FlowForm at h ⊢; simp_all [Tab.wf_set, Tab.wf_upd, Tab.wf_filter, Tab.wf_ite])])
    | exact Keeps.plain hk rfl rfl rfl rfl rfl rfl rfl rfl rfl rfl rfl rfl rfl rfl rfl rfl rfl rfl

theorem Keeps.applyCtx {s z : State} (hk : Keeps s z) (n : Nat) (r : CtxReq) :
    Keeps s (Machine.applyCtx n r z) := by
  unfold Machine.applyCtx
  repeat' first
    | with_reducible assumption
    | (with_reducible apply Keeps.setCtx)
    | (with_reducible apply Keeps.count)
    | (with_reducible apply Keeps.releaseReq)
    | (with_reducible apply Keeps.useWay)
    | (with_reducible apply Keeps.setCtx)
    | (with_reducible apply Keeps.ite)
    | split
    | exact Keeps.plain hk rfl rfl rfl rfl rfl rfl rfl rfl rfl rfl rfl rfl rfl rfl rfl rfl rfl rfl
    | dsimp only

theorem Keeps.serveRequest {s z : State} (hk : Keeps s z) (die : Nat) (r : CtxReq) :
    Keeps s (Machine.serveRequest die r z) := by
  unfold Machine.serveRequest
  repeat' first
    | with_reducible assumption
    | (with_reducible apply Keeps.setFlowDie)
    | (with_reducible apply Keeps.count)
    | (with_reducible apply Keeps.releaseReq)
    | (with_reducible apply Keeps.missOverflow)
    | (with_reducible apply Keeps.applyCtx)
    | (with_reducible apply Keeps.setFlowDie)
    | (with_reducible apply Keeps.ite)
    | split
    | exact Keeps.plain hk rfl rfl rfl rfl rfl rfl rfl rfl rfl rfl rfl rfl rfl rfl rfl rfl rfl rfl
    | dsimp only

theorem Keeps.sendRequest {s z : State} (hk : Keeps s z) (src : Nat) (r : CtxReq) :
    Keeps s (Machine.sendRequest src r z) := by
  unfold Machine.sendRequest
  repeat' first
    | with_reducible assumption
    | (with_reducible apply Keeps.setFlowDie)
    | (with_reducible apply Keeps.missOverflow)
    | (with_reducible apply Keeps.setFlowDie)
    | (with_reducible apply Keeps.ite)
    | exact Keeps.plain hk rfl rfl rfl rfl rfl rfl rfl rfl rfl rfl rfl rfl rfl rfl rfl rfl rfl rfl

theorem Keeps.issueFrom {s z y : State} {die w : Nat} {f : Fetch} (k : Keeps s z) (l : List Fetch)
    (h : Machine.issueFrom die z l = some (f, w, y)) : Keeps s y := by
  induction l with
  | nil => exact absurd h (by simp [Machine.issueFrom])
  | cons g rest ih =>
    unfold Machine.issueFrom at h
    repeat' split at h
    · exact ih h
    · rename_i heq
      cases h
      exact k.reserveWay heq
    · exact ih h

theorem Keeps.fetchIssue {s z : State} (k : Keeps s z) (die : Nat) : Keeps s (Machine.fetchIssue die z) := by
  unfold Machine.fetchIssue
  dsimp only
  repeat' split
  · exact k
  · exact k
  · rename_i heq
    with_reducible apply Keeps.setFlowDie
    exact k.issueFrom _ heq

theorem Keeps.serveParked {s z : State} (hk : Keeps s z) (t die set way : Nat) (a0 : List CtxReq) :
    Keeps s (Machine.serveParked t die set way a0 z) := by
  induction a0 generalizing z with
  | nil => exact hk
  | cons hd tl ih =>
    unfold Machine.serveParked
    try dsimp only
    repeat' first
      | with_reducible assumption
      | (with_reducible apply ih)
      | (with_reducible apply Keeps.raiseDie)
      | (with_reducible apply Keeps.count)
      | (with_reducible apply Keeps.releaseReq)
      | (with_reducible apply Keeps.missOverflow)
      | (with_reducible apply Keeps.flowNotify)
      | (with_reducible apply Keeps.installCtx)
      | (with_reducible apply Keeps.applyCtx)
      | (with_reducible apply Keeps.notify)
      | (with_reducible apply Keeps.ite)
      | (refine Keeps.createCtx ?_ (by assumption))
      | split
      | dsimp only

theorem Keeps.overflowAll {s z : State} (hk : Keeps s z) (l : List CtxReq) :
    Keeps s (Machine.overflowAll l z) := by
  unfold Machine.overflowAll
  repeat' first
    | with_reducible assumption
    | (with_reducible apply Keeps.missOverflow)
    | (with_reducible refine Keeps.forEach _ (fun _ _ _ => ?_) ?_)

theorem Keeps.fetchComplete {s z : State} (hk : Keeps s z) (t die slot : Nat) (ecc : Bool) :
    Keeps s (Machine.fetchComplete t die slot ecc z) := by
  unfold Machine.fetchComplete
  repeat' first
    | with_reducible assumption
    | (with_reducible apply Keeps.setFlowDie)
    | (with_reducible apply Keeps.raiseDie)
    | (with_reducible apply Keeps.count)
    | (with_reducible apply Keeps.deleteCtx)
    | (with_reducible apply Keeps.installCtx)
    | (with_reducible apply Keeps.serveParked)
    | (with_reducible apply Keeps.overflowAll)
    | (with_reducible refine Keeps.forEach _ (fun _ _ _ => ?_) ?_)
    | (with_reducible apply Keeps.setFlowDie)
    | (with_reducible apply Keeps.ite)
    | split
    | exact Keeps.plain hk rfl rfl rfl rfl rfl rfl rfl rfl rfl rfl rfl rfl rfl rfl rfl rfl rfl rfl
    | dsimp only

theorem Keeps.flowAgerVisit {s z : State} (hk : Keeps s z) (t n : Nat) :
    Keeps s (Machine.flowAgerVisit t n z) := by
  unfold Machine.flowAgerVisit
  repeat' first
    | with_reducible assumption
    | (with_reducible apply Keeps.count)
    | (with_reducible apply Keeps.flowNotify)
    | (with_reducible apply Keeps.deleteCtx)
    | (with_reducible apply Keeps.ite)
    | (with_reducible apply Keeps.ite_fst)
    | (with_reducible apply Keeps.ite_snd)

theorem Keeps.makeResident {s z y : State} {n hash : Nat} (k : Keeps s z)
    (h : Machine.makeResident n hash z = some y) : Keeps s y := by
  unfold Machine.makeResident at h
  split at h
  · cases h; exact k
  · obtain ⟨r, hr, rfl⟩ := Option.map_eq_some_iff.mp h
    with_reducible apply Keeps.installCtx
    exact Keeps.reserveWay k hr

theorem Keeps.pinCtx {s z y : State} {n : Nat} {pin : Bool} (k : Keeps s z)
    (h : Machine.pinCtx n pin z = some y) : Keeps s y := by
  unfold Machine.pinCtx at h
  dsimp only at h
  repeat' split at h
  · cases h; exact k.setCtx _ _
  · exact k.makeResident h
  · exact absurd h (by simp)
  · obtain ⟨r, hr, rfl⟩ := Option.map_eq_some_iff.mp h
    exact (k.makeResident hr).setCtx _ _

theorem Keeps.flowWrite {s z : State} (hk : Keeps s z) (d : Bytes) : Keeps s (Machine.flowWrite d z).1 := by
  have h : ∀ (m : Option (Nat × State)), (∀ n y, m = some (n, y) → Keeps s y) → ∀ (pin : Bool),
      Keeps s (match m with
        | none => (z, Reply.abort aRESOURCE)
        | some (n, s1) => match Machine.pinCtx n pin s1 with
          | none => (z, .abort aRESOURCE)
          | some s2 => (s2, .ok 0 0 9 (beBytes 4 n ++ beBytes 4 (s2.ctx n).gen))).1 := by
    intro m hm pin
    split
    · exact hk
    · split
      · exact hk
      · exact (hm _ _ rfl).pinCtx (by assumption)
  refine h _ (fun n y hy => ?_) _
  split at hy
  · simp only [Option.some.injEq, Prod.mk.injEq] at hy
    obtain ⟨-, rfl⟩ := hy
    exact hk.setCtx _ _
  · exact hk.createCtx hy

theorem Keeps.clearContexts {s z : State} (hk : Keeps s z) :
    Keeps s (Machine.clearContexts z) := by
  unfold Machine.clearContexts
  repeat' first
    | with_reducible assumption
    | (with_reducible apply Keeps.deleteCtx)
    | (with_reducible refine Keeps.forEach _ (fun _ _ _ => ?_) ?_)
    | ((with_reducible refine Keeps.modFlow ?_ ?_) <;> [skip; (generalize State.flow _ = b; exact fun h => h)])
    | ((with_reducible refine Keeps.modFlow ?_ ?_) <;> [skip; (intro h; unfold FlowForm at h ⊢; simp_all [Tab.wf_set, Tab.wf_upd, Tab.wf_filter, Tab.wf_ite])])
    | exact Keeps.plain hk rfl rfl rfl rfl rfl rfl rfl rfl rfl rfl rfl rfl rfl rfl rfl rfl rfl rfl

end Sys2Proof.Machine
end

