-- ==== Sys2Proof/Laws/KeepsFrames.lean ====
section
/-! SUPPORT. What the operations of Machine/Frames.lean keep. -/

namespace Sys2Proof.Machine
open Sys2Proof

theorem Keeps.redirectPorts {s z : State} (hk : Keeps s z) (x : State) (l all : List Nat)
    (out : List (Nat × Option Nat)) : Keeps s (Machine.redirectPorts x l all out z).2 := by
  induction l generalizing z out with
  | nil => exact hk
  | cons p rest ih =>
    unfold Machine.redirectPorts
    repeat' first
      | with_reducible assumption
      | (with_reducible apply ih)
      | (with_reducible apply Keeps.countPort)
      | (with_reducible apply Keeps.ite_snd)

theorem Keeps.hostParcel {s z : State} (hk : Keeps s z) (s0 : (State)) (die : Nat) (info : Meta) (b : Bytes) (g : Nat) :
    Keeps s (Machine.hostParcel s0 die info b g z).2 := by
  unfold Machine.hostParcel
  repeat' first
    | with_reducible assumption
    | (with_reducible apply Keeps.count)
    | (with_reducible apply Keeps.hostRefuses)
    | (with_reducible apply Keeps.ticket)
    | (with_reducible apply Keeps.ite)
    | (with_reducible apply Keeps.ite_fst)
    | (with_reducible apply Keeps.ite_snd)
    | split
    | exact Keeps.plain hk rfl rfl rfl rfl rfl rfl rfl rfl rfl rfl rfl rfl rfl rfl rfl rfl rfl rfl
    | dsimp only

theorem Keeps.ptpParent {s z : State} (hk : Keeps s z) (port ty k : Nat) :
    Keeps s (Machine.ptpParent port ty k z) := by
  unfold Machine.ptpParent
  repeat' first
    | with_reducible assumption
    | (with_reducible apply Keeps.modTime)
    | (with_reducible apply Keeps.ite)
    | exact Keeps.plain hk rfl rfl rfl rfl rfl rfl rfl rfl rfl rfl rfl rfl rfl rfl rfl rfl rfl rfl

theorem Keeps.ptpServo {s z : State} (hk : Keeps s z) (port ty : Nat) (log : Int) :
    Keeps s (Machine.ptpServo port ty log z) := by
  unfold Machine.ptpServo
  repeat' first
    | with_reducible assumption
    | (with_reducible apply Keeps.stepTime)
    | (with_reducible apply Keeps.setRate)
    | (with_reducible apply Keeps.ptpParent)
    | (with_reducible apply Keeps.drawNat)
    | (with_reducible apply Keeps.modTime)
    | (with_reducible apply Keeps.ite)
    | (with_reducible apply Keeps.ite_fst)
    | (with_reducible apply Keeps.ite_snd)
    | exact Keeps.plain hk rfl rfl rfl rfl rfl rfl rfl rfl rfl rfl rfl rfl rfl rfl rfl rfl rfl rfl

theorem Keeps.ptpTake {s z : State} (hk : Keeps s z) (port : Nat) (x : Parsed) (b : Bytes) :
    Keeps s (Machine.ptpTake port x b z) := by
  unfold Machine.ptpTake
  repeat' first
    | with_reducible assumption
    | (with_reducible apply Keeps.ptpServo)
    | split
    | dsimp only

theorem Keeps.cellFault {s z : State} (hk : Keeps s z) (die sid : Nat) (fault : BufFault) :
    Keeps s (Machine.cellFault die sid fault z).2 := by
  unfold Machine.cellFault
  repeat' first
    | with_reducible assumption
    | (with_reducible apply Keeps.releaseCopy)
    | (with_reducible apply Keeps.eccError)
    | (with_reducible apply Keeps.linkError)
    | (with_reducible apply Keeps.bufFaultAt)
    | split
    | dsimp only

theorem Keeps.siphonTake {s z : State} (hk : Keeps s z) (port : Nat) (x : Parsed) (b : Bytes) :
    Keeps s (Machine.siphonTake port x b z) := by
  unfold Machine.siphonTake
  repeat' first
    | with_reducible assumption
    | (with_reducible apply Keeps.admitFrame)
    | ((with_reducible refine Keeps.modSiphon ?_ ?_) <;> [skip; (generalize State.siphon _ = b; exact fun h => h)])
    | ((with_reducible refine Keeps.modSiphon ?_ ?_) <;> [skip; (intro h; unfold SiphonForm at h ⊢; simp_all [Tab.wf_set, Tab.wf_upd, Tab.wf_filter, Tab.wf_ite])])
    | (refine Keeps.of_eq_snd (by assumption) ?_)
    | split
    | exact Keeps.plain hk rfl rfl rfl rfl rfl rfl rfl rfl rfl rfl rfl rfl rfl rfl rfl rfl rfl rfl
    | dsimp only

theorem Keeps.learnFrom {s z : State} (hk : Keeps s z) (die port : Nat) (v : Vlan) (smac : Nat) :
    Keeps s (Machine.learnFrom die port v smac z) := by
  unfold Machine.learnFrom
  repeat' first
    | with_reducible assumption
    | (with_reducible apply Keeps.count)
    | (with_reducible apply Keeps.sendLearn)
    | (with_reducible apply Keeps.sourceHit)
    | (with_reducible apply Keeps.learn)
    | (with_reducible apply Keeps.ite)
    | split
    | dsimp only

theorem Keeps.bridged {s z : State} (hk : Keeps s z) (die port : Nat) (v : Vlan) (dmac : Nat) :
    Keeps s (Machine.bridged die port v dmac z).2 := by
  unfold Machine.bridged
  repeat' first
    | with_reducible assumption
    | (with_reducible apply Keeps.count)
    | (with_reducible apply Keeps.ite)
    | (with_reducible apply Keeps.ite_fst)
    | (with_reducible apply Keeps.ite_snd)
    | split
    | dsimp only

theorem Keeps.streamMeter {s z : State} (hk : Keeps s z) (t die h pcp : Nat) (m : Option Colour) (b : Bytes) (len : Nat) :
    Keeps s (Machine.streamMeter t die h pcp m b len z).2 := by
  unfold Machine.streamMeter
  repeat' first
    | with_reducible assumption
    | (with_reducible apply Keeps.setFilter)
    | (with_reducible apply Keeps.meterAs)
    | (with_reducible apply Keeps.setFilter)
    | (with_reducible apply Keeps.ite)
    | (with_reducible apply Keeps.ite_fst)
    | (with_reducible apply Keeps.ite_snd)
    | exact Keeps.plain hk rfl rfl rfl rfl rfl rfl rfl rfl rfl rfl rfl rfl rfl rfl rfl rfl rfl rfl

theorem Keeps.frerIngress {s z : State} (hk : Keeps s z) (h port : Nat) :
    Keeps s (Machine.frerIngress h port z).2 := by
  unfold Machine.frerIngress
  repeat' first
    | with_reducible assumption
    | (with_reducible apply Keeps.setFrer)
    | (with_reducible apply Keeps.frerCount)
    | (with_reducible apply Keeps.setFrer)
    | (with_reducible apply Keeps.ite)
    | (with_reducible apply Keeps.ite_fst)
    | (with_reducible apply Keeps.ite_snd)
    | exact Keeps.plain hk rfl rfl rfl rfl rfl rfl rfl rfl rfl rfl rfl rfl rfl rfl rfl rfl rfl rfl

theorem Keeps.sendOn {s z : State} (hk : Keeps s z) (f : RFrame) (x : Parsed) (v : Vlan) (parcels : List Parcel) :
    Keeps s (Machine.sendOn f x v parcels z) := by
  unfold Machine.sendOn
  repeat' first
    | with_reducible assumption
    | (with_reducible apply Keeps.launchAll)
    | (with_reducible apply Keeps.sendRequest)
    | (with_reducible apply Keeps.ite)
    | (with_reducible apply Keeps.ite_fst)
    | (with_reducible apply Keeps.ite_snd)
    | split
    | dsimp only

theorem Keeps.sendCopies {s z : State} (hk : Keeps s z) (f : RFrame) (x : Parsed) (v : Vlan) (b : Bytes) (mirrors : List Parcel) (handle seq : Option Nat) (m : Option Colour) :
    Keeps s (Machine.sendCopies f x v b mirrors handle seq m z) := by
  unfold Machine.sendCopies
  repeat' first
    | with_reducible assumption
    | (with_reducible apply Keeps.launchAll)
    | (with_reducible apply Keeps.redirectPorts)
    | (with_reducible apply Keeps.hostParcel)
    | (with_reducible apply Keeps.bridged)
    | (with_reducible apply Keeps.sendOn)
    | split
    | dsimp only

theorem Keeps.finalPass {s z : State} (hk : Keeps s z) (t : Nat) (f : RFrame) (x : Parsed) (b : Bytes) (mirrors : List Parcel) (m0 : Option Colour) :
    Keeps s (Machine.finalPass t f x b mirrors m0 z) := by
  unfold Machine.finalPass
  repeat' first
    | with_reducible assumption
    | (with_reducible apply Keeps.count)
    | (with_reducible apply Keeps.launchAll)
    | (with_reducible apply Keeps.siphonTake)
    | (with_reducible apply Keeps.learnFrom)
    | (with_reducible apply Keeps.streamMeter)
    | (with_reducible apply Keeps.frerIngress)
    | (with_reducible apply Keeps.sendCopies)
    | (with_reducible apply Keeps.ite)
    | (with_reducible apply Keeps.ite_fst)
    | (with_reducible apply Keeps.ite_snd)
    | split
    | dsimp only

theorem Keeps.mirrorParcels {s z : State} (hk : Keeps s z) (f : RFrame) (x : Parsed) (dest : Nat) (b : Bytes) :
    Keeps s (Machine.mirrorParcels z f x dest b).2 := by
  unfold Machine.mirrorParcels
  repeat' first
    | with_reducible assumption
    | (with_reducible apply Keeps.redirectPorts)

theorem Keeps.toGroup {s z : State} (hk : Keeps s z) (f : RFrame) (x : Parsed) (flags reason g : Nat) :
    Keeps s (Machine.toGroup f x flags reason g z) := by
  unfold Machine.toGroup
  repeat' first
    | with_reducible assumption
    | (with_reducible apply Keeps.launchAll)
    | (with_reducible apply Keeps.hostParcel)
    | exact Keeps.plain hk rfl rfl rfl rfl rfl rfl rfl rfl rfl rfl rfl rfl rfl rfl rfl rfl rfl rfl

theorem Keeps.malformedFrame {s z : State} (hk : Keeps s z) (f : RFrame) (x : Parsed) (code : Nat) :
    Keeps s (Machine.malformedFrame f x code z) := by
  unfold Machine.malformedFrame
  repeat' first
    | with_reducible assumption
    | (with_reducible apply Keeps.raiseDie)
    | (with_reducible apply Keeps.countQ)
    | (with_reducible apply Keeps.toGroup)
    | (with_reducible apply Keeps.modCls)
    | (with_reducible apply Keeps.ite)
    | exact Keeps.plain hk rfl rfl rfl rfl rfl rfl rfl rfl rfl rfl rfl rfl rfl rfl rfl rfl rfl rfl

theorem Keeps.ruleCount {s z : State} (hk : Keeps s z) (die len : Nat) (a : Bytes) :
    Keeps s (Machine.ruleCount die len a z) := by
  unfold Machine.ruleCount
  repeat' first
    | with_reducible assumption
    | (with_reducible apply Keeps.modCls)
    | (with_reducible apply Keeps.ite)
    | exact Keeps.plain hk rfl rfl rfl rfl rfl rfl rfl rfl rfl rfl rfl rfl rfl rfl rfl rfl rfl rfl

theorem Keeps.recirculate {s z : State} (hk : Keeps s z) (t : Nat) (f : RFrame) (x : Parsed) (a b : Bytes) (mirrors : List Parcel) (m : Option Colour) :
    Keeps s (Machine.recirculate t f x a b mirrors m z) := by
  unfold Machine.recirculate
  repeat' first
    | with_reducible assumption
    | (with_reducible apply Keeps.count)
    | (with_reducible apply Keeps.launchAll)
    | (with_reducible apply Keeps.finalPass)
    | (with_reducible apply Keeps.modCls)
    | (with_reducible apply Keeps.ite)
    | exact Keeps.plain hk rfl rfl rfl rfl rfl rfl rfl rfl rfl rfl rfl rfl rfl rfl rfl rfl rfl rfl

theorem Keeps.passActions {s z : State} (hk : Keeps s z) (t : Nat) (f : RFrame) (x : Parsed) (a : Bytes) :
    Keeps s (Machine.passActions t f x a z) := by
  unfold Machine.passActions
  repeat' first
    | with_reducible assumption
    | (with_reducible apply Keeps.count)
    | (with_reducible apply Keeps.meterAs)
    | (with_reducible apply Keeps.launchAll)
    | (with_reducible apply Keeps.finalPass)
    | (with_reducible apply Keeps.mirrorParcels)
    | (with_reducible apply Keeps.ruleCount)
    | (with_reducible apply Keeps.recirculate)
    | (with_reducible apply Keeps.ite)
    | (with_reducible apply Keeps.ite_fst)
    | (with_reducible apply Keeps.ite_snd)
    | exact Keeps.plain hk rfl rfl rfl rfl rfl rfl rfl rfl rfl rfl rfl rfl rfl rfl rfl rfl rfl rfl

theorem Keeps.onePass {s z : State} (hk : Keeps s z) (t : Nat) (f : RFrame) :
    Keeps s (Machine.onePass t f z) := by
  unfold Machine.onePass
  repeat' first
    | with_reducible assumption
    | (with_reducible apply Keeps.count)
    | (with_reducible apply Keeps.malformed)
    | (with_reducible apply Keeps.ptpTake)
    | (with_reducible apply Keeps.toGroup)
    | (with_reducible apply Keeps.malformedFrame)
    | (with_reducible apply Keeps.passActions)
    | (with_reducible apply Keeps.ite)
    | split
    | exact Keeps.plain hk rfl rfl rfl rfl rfl rfl rfl rfl rfl rfl rfl rfl rfl rfl rfl rfl rfl rfl
    | dsimp only

theorem Keeps.setPipeUse {s z : State} (hk : Keeps s z) (pipe : Nat) (u : PipeUse) :
    Keeps s (Machine.setPipeUse pipe u z) := by
  unfold Machine.setPipeUse
  repeat' first
    | with_reducible assumption
    | (with_reducible apply Keeps.modCls)
    | exact Keeps.plain hk rfl rfl rfl rfl rfl rfl rfl rfl rfl rfl rfl rfl rfl rfl rfl rfl rfl rfl

theorem Keeps.setWaiting {s z : State} (hk : Keeps s z) (pipe : Nat) (l : List RFrame) :
    Keeps s (Machine.setWaiting pipe l z) := by
  unfold Machine.setWaiting
  repeat' first
    | with_reducible assumption
    | (with_reducible apply Keeps.modCls)
    | exact Keeps.plain hk rfl rfl rfl rfl rfl rfl rfl rfl rfl rfl rfl rfl rfl rfl rfl rfl rfl rfl

theorem Keeps.firstPass {s z : State} (hk : Keeps s z) (t : Nat) (f : RFrame) :
    Keeps s (Machine.firstPass t f z) := by
  unfold Machine.firstPass
  repeat' first
    | with_reducible assumption
    | (with_reducible apply Keeps.onePass)
    | (with_reducible apply Keeps.setPipeUse)
    | exact Keeps.plain hk rfl rfl rfl rfl rfl rfl rfl rfl rfl rfl rfl rfl rfl rfl rfl rfl rfl rfl

theorem Keeps.runWaiting {s z : State} (hk : Keeps s z) (t pipe : Nat) (a0 : List RFrame) :
    Keeps s (Machine.runWaiting t pipe a0 z) := by
  induction a0 generalizing z with
  | nil => exact hk
  | cons hd tl ih =>
    unfold Machine.runWaiting
    try dsimp only
    repeat' first
      | with_reducible assumption
      | (with_reducible apply ih)
      | (with_reducible apply Keeps.setWaiting)
      | (with_reducible apply Keeps.firstPass)
      | (with_reducible apply Keeps.ite)
      | split
      | dsimp only

theorem Keeps.intoPipe {s z : State} (hk : Keeps s z) (t : Nat) (f : RFrame) :
    Keeps s (Machine.intoPipe t f z) := by
  unfold Machine.intoPipe
  repeat' first
    | with_reducible assumption
    | (with_reducible apply Keeps.count)
    | (with_reducible apply Keeps.setWaiting)
    | (with_reducible apply Keeps.firstPass)
    | (with_reducible apply Keeps.runWaiting)
    | (with_reducible apply Keeps.ite)

theorem Keeps.ingressStamp {s z : State} (hk : Keeps s z) (port len : Nat) :
    Keeps s (Machine.ingressStamp port len z).2 := by
  unfold Machine.ingressStamp
  repeat' first
    | with_reducible assumption
    | (with_reducible apply Keeps.stampNow)

theorem Keeps.receiveFrame {s z : State} (hk : Keeps s z) (t port : Nat) (b : Bytes) (fcsOk : Bool) :
    Keeps s (Machine.receiveFrame t port b fcsOk z) := by
  unfold Machine.receiveFrame
  repeat' first
    | with_reducible assumption
    | (with_reducible apply Keeps.countPort)
    | (with_reducible apply Keeps.intoPipe)
    | (with_reducible apply Keeps.ingressStamp)
    | (with_reducible apply Keeps.ticket)
    | (with_reducible apply Keeps.ite)
    | (with_reducible apply Keeps.ite_fst)
    | (with_reducible apply Keeps.ite_snd)
    | split
    | dsimp only

theorem Keeps.ptpMessage {s z : State} (hk : Keeps s z) (t port : Nat) (b : Bytes) :
    Keeps s (Machine.ptpMessage t port b z) := by
  unfold Machine.ptpMessage
  repeat' first
    | with_reducible assumption
    | (with_reducible apply Keeps.receiveFrame)
    | (with_reducible apply Keeps.ite)

theorem Keeps.recircPass {s z : State} (hk : Keeps s z) (t pipe : Nat) :
    Keeps s (Machine.recircPass t pipe z) := by
  unfold Machine.recircPass
  repeat' first
    | with_reducible assumption
    | (with_reducible apply Keeps.onePass)
    | (with_reducible apply Keeps.setPipeUse)
    | (with_reducible apply Keeps.runWaiting)
    | (with_reducible apply Keeps.modCls)
    | (with_reducible apply Keeps.ite)
    | split
    | exact Keeps.plain hk rfl rfl rfl rfl rfl rfl rfl rfl rfl rfl rfl rfl rfl rfl rfl rfl rfl rfl
    | dsimp only

theorem Keeps.arriveCopy {s z : State} (hk : Keeps s z) (die : Nat) (e : Nat × Nat × Option Nat) :
    Keeps s (Machine.arriveCopy die e z).2 := by
  unfold Machine.arriveCopy
  repeat' first
    | with_reducible assumption
    | (with_reducible apply Keeps.countPort)
    | (with_reducible apply Keeps.ite)
    | (with_reducible apply Keeps.ite_fst)
    | (with_reducible apply Keeps.ite_snd)
    | split
    | dsimp only

theorem Keeps.arriveAll {s z : State} (hk : Keeps s z) (die : Nat) (a0 : List (Nat × Nat × Option Nat)) :
    Keeps s (Machine.arriveAll die a0 z).2 := by
  induction a0 generalizing z with
  | nil => exact hk
  | cons hd tl ih =>
    unfold Machine.arriveAll
    try dsimp only
    repeat' first
      | with_reducible assumption
      | (with_reducible apply ih)
      | (with_reducible apply Keeps.arriveCopy)
      | split
      | dsimp only

theorem Keeps.arrivePorts {s z : State} (hk : Keeps s z) (t : Nat) (p : Parcel) :
    Keeps s (Machine.arrivePorts t p z) := by
  unfold Machine.arrivePorts
  repeat' first
    | with_reducible assumption
    | (with_reducible apply Keeps.storeCopies)
    | (with_reducible apply Keeps.txDone)
    | (with_reducible apply Keeps.txLost)
    | (with_reducible apply Keeps.enqueueCopy)
    | (with_reducible apply Keeps.launch)
    | (with_reducible apply Keeps.arriveAll)
    | (with_reducible refine Keeps.forEach _ (fun _ _ _ => ?_) ?_)
    | (with_reducible apply Keeps.ite)
    | (with_reducible apply Keeps.ite_fst)
    | (with_reducible apply Keeps.ite_snd)
    | (refine Keeps.of_eq_snd (by assumption) ?_)
    | split
    | exact Keeps.plain hk rfl rfl rfl rfl rfl rfl rfl rfl rfl rfl rfl rfl rfl rfl rfl rfl rfl rfl
    | dsimp only

theorem Keeps.holdFrame {s z : State} (hk : Keeps s z) (t fn q : Nat) (place : HPlace) (info : Meta) (b : Bytes) :
    Keeps s (Machine.holdFrame t fn q place info b z) := by
  unfold Machine.holdFrame
  repeat' first
    | with_reducible assumption
    | (with_reducible apply Keeps.setHostFrames)
    | (with_reducible apply Keeps.trackHost)
    | exact Keeps.plain hk rfl rfl rfl rfl rfl rfl rfl rfl rfl rfl rfl rfl rfl rfl rfl rfl rfl rfl

theorem Keeps.arriveHost {s z : State} (hk : Keeps s z) (t : Nat) (p : Parcel) (e : Nat × Nat) :
    Keeps s (Machine.arriveHost t p e z) := by
  unfold Machine.arriveHost
  repeat' first
    | with_reducible assumption
    | (with_reducible apply Keeps.count)
    | (with_reducible apply Keeps.admitFrame)
    | (with_reducible apply Keeps.trackHost)
    | (with_reducible apply Keeps.hostRefuses)
    | (with_reducible apply Keeps.holdFrame)
    | (with_reducible apply Keeps.ite)
    | (with_reducible apply Keeps.ite_fst)
    | (with_reducible apply Keeps.ite_snd)
    | (refine Keeps.of_eq_snd (by assumption) ?_)
    | split
    | exact Keeps.plain hk rfl rfl rfl rfl rfl rfl rfl rfl rfl rfl rfl rfl rfl rfl rfl rfl rfl rfl
    | dsimp only

theorem Keeps.frameEnqueue {s z : State} (hk : Keeps s z) (t ticket : Nat) (fault : BufFault) :
    Keeps s (Machine.frameEnqueue t ticket fault z) := by
  unfold Machine.frameEnqueue
  repeat' first
    | with_reducible assumption
    | (with_reducible apply Keeps.bufFaultAt)
    | (with_reducible apply Keeps.arrivePorts)
    | (with_reducible apply Keeps.arriveHost)
    | (with_reducible refine Keeps.forEach _ (fun _ _ _ => ?_) ?_)
    | ((with_reducible refine Keeps.modBuf ?_ ?_) <;> [skip; (generalize State.buf _ = b; exact fun h => h)])
    | (with_reducible apply Keeps.ticket)
    | ((with_reducible refine Keeps.modBuf ?_ ?_) <;> [skip; (intro h; unfold BufForm at h ⊢; simp_all [Tab.wf_set, Tab.wf_upd, Tab.wf_filter, Tab.wf_ite])])
    | ((with_reducible refine Keeps.modBuf ?_ ?_) <;> [skip; (intro h; unfold BufForm at h ⊢; split <;> simp_all [Tab.wf_set, Tab.wf_upd, Tab.wf_filter, Tab.wf_ite])])
    | (with_reducible apply Keeps.ite)
    | split
    | exact Keeps.plain hk rfl rfl rfl rfl rfl rfl rfl rfl rfl rfl rfl rfl rfl rfl rfl rfl rfl rfl
    | dsimp only

theorem Keeps.takeOutbox {s z : State} (hk : Keeps s z) (port : Nat) (b : Bytes) :
    Keeps s (Machine.takeOutbox port b z) := by
  unfold Machine.takeOutbox
  repeat' first
    | with_reducible assumption
    | ((with_reducible refine Keeps.modDict ?_ ?_) <;> [skip; (generalize State.dict _ = b; exact fun h => h)])
    | ((with_reducible refine Keeps.modDict ?_ ?_) <;> [skip; (intro h; unfold DictForm at h ⊢; simp_all [Tab.wf_set, Tab.wf_upd, Tab.wf_filter, Tab.wf_ite])])
    | ((with_reducible refine Keeps.modDict ?_ ?_) <;> [skip; (intro h; unfold DictForm at h ⊢; split <;> simp_all [Tab.wf_set, Tab.wf_upd, Tab.wf_filter, Tab.wf_ite])])
    | (with_reducible apply Keeps.ite)
    | split
    | exact Keeps.plain hk rfl rfl rfl rfl rfl rfl rfl rfl rfl rfl rfl rfl rfl rfl rfl rfl rfl rfl
    | dsimp only

theorem Keeps.injectionFrame {s z : State} (hk : Keeps s z) (t port : Nat) (b : Bytes) :
    Keeps s (Machine.injectionFrame t port b z) := by
  unfold Machine.injectionFrame
  repeat' first
    | with_reducible assumption
    | (with_reducible apply Keeps.setPsched)
    | (with_reducible apply Keeps.count)
    | (with_reducible apply Keeps.countPort)
    | (with_reducible apply Keeps.admitFrame)
    | (with_reducible apply Keeps.takeOutbox)
    | (with_reducible apply Keeps.setPsched)
    | (with_reducible apply Keeps.ite)
    | (refine Keeps.of_eq_snd (by assumption) ?_)
    | split
    | dsimp only

theorem Keeps.egressStamp {s z : State} (hk : Keeps s z) (port start : Nat) :
    Keeps s (Machine.egressStamp port start z).2 := by
  unfold Machine.egressStamp
  repeat' first
    | with_reducible assumption
    | (with_reducible apply Keeps.drawStampError)

theorem Keeps.frerEgress {s z : State} (hk : Keeps s z) (port : Nat) (info : Meta) (b : Bytes) :
    Keeps s (Machine.frerEgress port info b z).2.2 := by
  unfold Machine.frerEgress
  repeat' first
    | with_reducible assumption
    | (with_reducible apply Keeps.frerRecover)
    | (with_reducible apply Keeps.ite)
    | (with_reducible apply Keeps.ite_fst)
    | (with_reducible apply Keeps.ite_snd)
    | split
    | dsimp only

theorem Keeps.txSelect {s z : State} (hk : Keeps s z) (t port : Nat) :
    Keeps s (Machine.txSelect t port z) := by
  unfold Machine.txSelect
  repeat' first
    | with_reducible assumption
    | (with_reducible apply Keeps.setPsched)
    | (with_reducible apply Keeps.countPort)
    | (with_reducible apply Keeps.releaseCopy)
    | (with_reducible apply Keeps.txLost)
    | (with_reducible apply Keeps.dequeuePick)
    | (with_reducible apply Keeps.egressStamp)
    | (with_reducible apply Keeps.frerEgress)
    | (with_reducible apply Keeps.setPsched)
    | (with_reducible apply Keeps.ite)
    | (with_reducible apply Keeps.ite_fst)
    | (with_reducible apply Keeps.ite_snd)
    | split
    | exact Keeps.plain hk rfl rfl rfl rfl rfl rfl rfl rfl rfl rfl rfl rfl rfl rfl rfl rfl rfl rfl
    | dsimp only

theorem Keeps.frameSent {s z : State} (hk : Keeps s z) (port : Nat) (x : TxFrame) (bad : Bool) :
    Keeps s (Machine.frameSent port x bad z) := by
  unfold Machine.frameSent
  repeat' first
    | with_reducible assumption
    | (with_reducible apply Keeps.countPort)
    | (with_reducible apply Keeps.queueCount)
    | (with_reducible apply Keeps.txDone)
    | (with_reducible apply Keeps.injectionFrame)
    | (with_reducible apply Keeps.emit)
    | split
    | dsimp only

theorem Keeps.frameTxComplete {s z : State} (hk : Keeps s z) (port : Nat) (fault : BufFault) :
    Keeps s (Machine.frameTxComplete port fault z) := by
  unfold Machine.frameTxComplete
  repeat' first
    | with_reducible assumption
    | (with_reducible apply Keeps.setPsched)
    | (with_reducible apply Keeps.releaseCopy)
    | (with_reducible apply Keeps.eccError)
    | (with_reducible apply Keeps.linkError)
    | (with_reducible apply Keeps.bufFaultAt)
    | (with_reducible apply Keeps.underrunCount)
    | (with_reducible apply Keeps.txLost)
    | (with_reducible apply Keeps.dropCopies)
    | (with_reducible apply Keeps.frameSent)
    | (with_reducible apply Keeps.setPsched)
    | (with_reducible apply Keeps.ite)
    | split
    | exact Keeps.plain hk rfl rfl rfl rfl rfl rfl rfl rfl rfl rfl rfl rfl rfl rfl rfl rfl rfl rfl
    | dsimp only

theorem Keeps.htxWait {s z : State} (hk : Keeps s z) (f : HtxFrame) :
    Keeps s (Machine.htxWait f z) := by
  unfold Machine.htxWait
  repeat' first
    | with_reducible assumption
    | (with_reducible apply Keeps.setHtx)
    | (with_reducible apply Keeps.setHtx)
    | (with_reducible apply Keeps.ite)
    | exact Keeps.plain hk rfl rfl rfl rfl rfl rfl rfl rfl rfl rfl rfl rfl rfl rfl rfl rfl rfl rfl

theorem Keeps.hostTxSelect {s z : State} (hk : Keeps s z) (die : Nat) :
    Keeps s (Machine.hostTxSelect die z) := by
  unfold Machine.hostTxSelect
  repeat' first
    | with_reducible assumption
    | (with_reducible apply Keeps.setHtx)
    | (with_reducible apply Keeps.launch)
    | (with_reducible apply Keeps.setHtx)
    | (with_reducible apply Keeps.ticket)
    | (with_reducible apply Keeps.ite)
    | split
    | exact Keeps.plain hk rfl rfl rfl rfl rfl rfl rfl rfl rfl rfl rfl rfl rfl rfl rfl rfl rfl rfl
    | dsimp only

theorem Keeps.writeSample {s z : State} (hk : Keeps s z) (fn : Nat) (x : Sample) :
    Keeps s (Machine.writeSample fn x z).2 := by
  unfold Machine.writeSample
  repeat' first
    | with_reducible assumption
    | (with_reducible apply Keeps.setQueue)
    | (with_reducible apply Keeps.dmaWrite)
    | (with_reducible apply Keeps.refuseRequest)
    | (with_reducible apply Keeps.moderate)
    | (with_reducible apply Keeps.setQueue)
    | (with_reducible apply Keeps.ite)
    | (with_reducible apply Keeps.ite_fst)
    | (with_reducible apply Keeps.ite_snd)
    | split
    | exact Keeps.plain hk rfl rfl rfl rfl rfl rfl rfl rfl rfl rfl rfl rfl rfl rfl rfl rfl rfl rfl
    | dsimp only

theorem Keeps.samplePort {s z : State} (hk : Keeps s z) (t port tc : Nat) :
    Keeps s (Machine.samplePort t port tc z) := by
  unfold Machine.samplePort
  repeat' first
    | with_reducible assumption
    | (with_reducible apply Keeps.setPsched)
    | (with_reducible apply Keeps.writeSample)
    | (with_reducible apply Keeps.setPsched)

theorem Keeps.sampleHost {s z : State} (hk : Keeps s z) (t fn q : Nat) :
    Keeps s (Machine.sampleHost t fn q z) := by
  unfold Machine.sampleHost
  repeat' first
    | with_reducible assumption
    | (with_reducible apply Keeps.setQueue)
    | (with_reducible apply Keeps.writeSample)
    | (with_reducible apply Keeps.setQueue)

end Sys2Proof.Machine
end

