-- ==== Sys2Proof/Laws/KeepsSiphon.lean ====
section
/-! SUPPORT. What the operations of Machine/Siphon.lean keep. -/

namespace Sys2Proof.Machine
open Sys2Proof

theorem Keeps.sipCount {s z : State} (hk : Keeps s z) (sub fn : Nat) :
    Keeps s (Machine.sipCount sub fn z) := by
  unfold Machine.sipCount
  repeat' first
    | with_reducible assumption
    | (with_reducible apply Keeps.countFor)

theorem Keeps.sFarm {s z : State} (hk : Keeps s z) (fn n : Nat) :
    Keeps s (Machine.sFarm fn n z) := by
  unfold Machine.sFarm
  repeat' first
    | with_reducible assumption
    | (with_reducible apply Keeps.countQ)

theorem Keeps.sLaunch {s z : State} (hk : Keeps s z) (g i : Nat) (p : SPath) (pkt : Bytes) (ect : Bool) (psn : Nat) :
    Keeps s (Machine.sLaunch g i p pkt ect psn z) := by
  unfold Machine.sLaunch
  repeat' first
    | with_reducible assumption
    | (with_reducible apply Keeps.launch)
    | (with_reducible apply Keeps.sipCount)
    | (with_reducible apply Keeps.sFarm)
    | (with_reducible apply Keeps.ticket)
    | (with_reducible apply Keeps.drawNat)
    | (with_reducible apply Keeps.ite)
    | (with_reducible apply Keeps.ite_fst)
    | (with_reducible apply Keeps.ite_snd)
    | exact Keeps.plain hk rfl rfl rfl rfl rfl rfl rfl rfl rfl rfl rfl rfl rfl rfl rfl rfl rfl rfl

theorem Keeps.endMsgs {s z : State} (hk : Keeps s z) (l : List SMsg) (status : Nat) (named : Option (Nat × Nat)) :
    Keeps s (Machine.endMsgs l status named z) := by
  unfold Machine.endMsgs
  repeat' first
    | with_reducible assumption
    | (with_reducible apply Keeps.finishChain)
    | (with_reducible refine Keeps.forEach _ (fun _ _ _ => ?_) ?_)
    | (with_reducible apply Keeps.ite)
    | (with_reducible apply Keeps.ite_fst)
    | (with_reducible apply Keeps.ite_snd)
    | split
    | dsimp only

theorem Keeps.endRecvs {s z : State} (hk : Keeps s z) (l : List (Nat × Nat × Nat)) :
    Keeps s (Machine.endRecvs l z) := by
  unfold Machine.endRecvs
  repeat' first
    | with_reducible assumption
    | (with_reducible apply Keeps.finishChain)
    | (with_reducible refine Keeps.forEach _ (fun _ _ _ => ?_) ?_)

theorem Keeps.journalCut {s z : State} (hk : Keeps s z) (p : JSrc → Bool) :
    Keeps s (Machine.journalCut p z) := by
  unfold Machine.journalCut
  repeat' first
    | with_reducible assumption
    | (with_reducible apply Keeps.cipherDrop)
    | ((with_reducible refine Keeps.modJrn ?_ ?_) <;> [skip; (generalize State.jrn _ = b; exact fun h => h)])
    | ((with_reducible refine Keeps.modJrn ?_ ?_) <;> [skip; (intro h; unfold JournalForm at h ⊢; simp_all [Tab.wf_set, Tab.wf_upd, Tab.wf_filter, Tab.wf_ite])])
    | exact Keeps.plain hk rfl rfl rfl rfl rfl rfl rfl rfl rfl rfl rfl rfl rfl rfl rfl rfl rfl rfl

theorem Keeps.journalDetach {s z : State} (hk : Keeps s z) (p : JSrc → Bool) :
    Keeps s (Machine.journalDetach p z) := by
  unfold Machine.journalDetach
  repeat' first
    | with_reducible assumption
    | (with_reducible apply Keeps.setCart)
    | ((with_reducible refine Keeps.modJrn ?_ ?_) <;> [skip; (generalize State.jrn _ = b; exact fun h => h)])
    | (with_reducible apply Keeps.setCart)
    | (with_reducible refine Keeps.forEach _ (fun _ _ _ => ?_) ?_)
    | ((with_reducible refine Keeps.modJrn ?_ ?_) <;> [skip; (intro h; unfold JournalForm at h ⊢; simp_all [Tab.wf_set, Tab.wf_upd, Tab.wf_filter, Tab.wf_ite])])
    | ((with_reducible refine Keeps.modJrn ?_ ?_) <;> [skip; (intro h; unfold JournalForm at h ⊢; split <;> simp_all [Tab.wf_set, Tab.wf_upd, Tab.wf_filter, Tab.wf_ite])])
    | (with_reducible apply Keeps.ite)
    | (with_reducible apply Keeps.ite_fst)
    | (with_reducible apply Keeps.ite_snd)
    | split
    | exact Keeps.plain hk rfl rfl rfl rfl rfl rfl rfl rfl rfl rfl rfl rfl rfl rfl rfl rfl rfl rfl
    | dsimp only

theorem Keeps.journalDrop {s z : State} (hk : Keeps s z) (p : JSrc → Bool) :
    Keeps s (Machine.journalDrop p z) := by
  unfold Machine.journalDrop
  repeat' first
    | with_reducible assumption
    | (with_reducible apply Keeps.journalCut)
    | (with_reducible apply Keeps.journalDetach)

theorem Keeps.channelError {s z : State} (hk : Keeps s z) (g status : Nat) (named : Option (Nat × Nat)) (quiet : Bool) :
    Keeps s (Machine.channelError g status named quiet z) := by
  unfold Machine.channelError
  repeat' first
    | with_reducible assumption
    | (with_reducible apply Keeps.setChannel)
    | (with_reducible apply Keeps.raise)
    | (with_reducible apply Keeps.sipCount)
    | (with_reducible apply Keeps.endMsgs)
    | (with_reducible apply Keeps.endRecvs)
    | (with_reducible apply Keeps.journalDrop)
    | (with_reducible apply Keeps.setChannel)
    | (with_reducible apply Keeps.ite)

theorem Keeps.sendControl {s z : State} (hk : Keeps s z) (g op psn len off addr : Nat) (path : Option Nat) :
    Keeps s (Machine.sendControl g op psn len off addr path z) := by
  unfold Machine.sendControl
  repeat' first
    | with_reducible assumption
    | (with_reducible apply Keeps.setChannel)
    | (with_reducible apply Keeps.sLaunch)
    | (with_reducible apply Keeps.channelError)
    | (with_reducible apply Keeps.setChannel)
    | (with_reducible apply Keeps.drawNat)
    | (with_reducible apply Keeps.ite)
    | (with_reducible apply Keeps.ite_fst)
    | (with_reducible apply Keeps.ite_snd)
    | split
    | exact Keeps.plain hk rfl rfl rfl rfl rfl rfl rfl rfl rfl rfl rfl rfl rfl rfl rfl rfl rfl rfl
    | dsimp only

theorem Keeps.sendAck {s z : State} (hk : Keeps s z) (g : Nat) :
    Keeps s (Machine.sendAck g z) := by
  unfold Machine.sendAck
  repeat' first
    | with_reducible assumption
    | (with_reducible apply Keeps.setChannel)
    | (with_reducible apply Keeps.sendControl)
    | (with_reducible apply Keeps.setChannel)
    | exact Keeps.plain hk rfl rfl rfl rfl rfl rfl rfl rfl rfl rfl rfl rfl rfl rfl rfl rfl rfl rfl

theorem Keeps.scheduleAck {s z : State} (hk : Keeps s z) (t g : Nat) (now : Bool) :
    Keeps s (Machine.scheduleAck t g now z) := by
  unfold Machine.scheduleAck
  repeat' first
    | with_reducible assumption
    | (with_reducible apply Keeps.setChannel)
    | (with_reducible apply Keeps.sendAck)
    | (with_reducible apply Keeps.setChannel)
    | (with_reducible apply Keeps.ite)
    | exact Keeps.plain hk rfl rfl rfl rfl rfl rfl rfl rfl rfl rfl rfl rfl rfl rfl rfl rfl rfl rfl

theorem Keeps.sendNak {s z : State} (hk : Keeps s z) (g op psn msg status : Nat) :
    Keeps s (Machine.sendNak g op psn msg status z) := by
  unfold Machine.sendNak
  repeat' first
    | with_reducible assumption
    | (with_reducible apply Keeps.setChannel)
    | (with_reducible apply Keeps.sipCount)
    | (with_reducible apply Keeps.sendControl)
    | (with_reducible apply Keeps.setChannel)
    | (with_reducible apply Keeps.ite)
    | exact Keeps.plain hk rfl rfl rfl rfl rfl rfl rfl rfl rfl rfl rfl rfl rfl rfl rfl rfl rfl rfl

theorem Keeps.sendCnp {s z : State} (hk : Keeps s z) (t g : Nat) :
    Keeps s (Machine.sendCnp t g z) := by
  unfold Machine.sendCnp
  repeat' first
    | with_reducible assumption
    | (with_reducible apply Keeps.setChannel)
    | (with_reducible apply Keeps.count)
    | (with_reducible apply Keeps.sipCount)
    | (with_reducible apply Keeps.sendControl)
    | (with_reducible apply Keeps.setChannel)
    | (with_reducible apply Keeps.ite)
    | (with_reducible apply Keeps.ite_fst)
    | (with_reducible apply Keeps.ite_snd)
    | (with_reducible refine Keeps.foldl _ (fun _ _ _ => ?_) ?_)
    | (with_reducible refine Keeps.foldl_fst _ (fun _ _ _ => ?_) ?_)
    | (with_reducible refine Keeps.foldl_snd _ (fun _ _ _ => ?_) ?_)
    | split
    | exact Keeps.plain hk rfl rfl rfl rfl rfl rfl rfl rfl rfl rfl rfl rfl rfl rfl rfl rfl rfl rfl
    | dsimp only

theorem Keeps.setPath {s z : State} (hk : Keeps s z) (g i : Nat) (f : SPath → SPath) :
    Keeps s (Machine.setPath g i f z) := by
  unfold Machine.setPath
  repeat' first
    | with_reducible assumption
    | (with_reducible apply Keeps.setChannel)
    | (with_reducible apply Keeps.setChannel)
    | (with_reducible apply Keeps.ite)
    | (with_reducible apply Keeps.ite_fst)
    | (with_reducible apply Keeps.ite_snd)
    | exact Keeps.plain hk rfl rfl rfl rfl rfl rfl rfl rfl rfl rfl rfl rfl rfl rfl rfl rfl rfl rfl

theorem Keeps.pathDown {s z : State} (hk : Keeps s z) (t g i : Nat) :
    Keeps s (Machine.pathDown t g i z) := by
  unfold Machine.pathDown
  repeat' first
    | with_reducible assumption
    | (with_reducible apply Keeps.raise)
    | (with_reducible apply Keeps.sipCount)
    | (with_reducible apply Keeps.setPath)
    | exact Keeps.plain hk rfl rfl rfl rfl rfl rfl rfl rfl rfl rfl rfl rfl rfl rfl rfl rfl rfl rfl

theorem Keeps.pathLost {s z : State} (hk : Keeps s z) (t g i : Nat) :
    Keeps s (Machine.pathLost t g i z) := by
  unfold Machine.pathLost
  repeat' first
    | with_reducible assumption
    | (with_reducible apply Keeps.setPath)
    | (with_reducible apply Keeps.pathDown)
    | (with_reducible apply Keeps.ite)
    | split
    | exact Keeps.plain hk rfl rfl rfl rfl rfl rfl rfl rfl rfl rfl rfl rfl rfl rfl rfl rfl rfl rfl
    | dsimp only

theorem Keeps.pathAcked {s z : State} (hk : Keeps s z) (g i : Nat) :
    Keeps s (Machine.pathAcked g i z) := by
  unfold Machine.pathAcked
  repeat' first
    | with_reducible assumption
    | (with_reducible apply Keeps.setPath)
    | (with_reducible apply Keeps.ite)
    | exact Keeps.plain hk rfl rfl rfl rfl rfl rfl rfl rfl rfl rfl rfl rfl rfl rfl rfl rfl rfl rfl

theorem Keeps.ratesFromPorts {s z : State} (hk : Keeps s z) : Keeps s (Machine.ratesFromPorts z) := by
  refine hk.modSiphon (fun ⟨a, b, c⟩ => ⟨Tab.wf_map (fun v => { v with
    paths := v.paths.map (fun p => { p with rc := portRate z p.port, rh := portRate z p.port }) }) (fun v hv e => hv ?_) a, b, c⟩)
  have h : v.paths = [] := List.map_eq_nil_iff.mp (congrArg Channel.paths e)
  rw [← e, h]
  exact congrArg (fun l => { v with paths := l }) h

theorem Keeps.onCnp {s z : State} (hk : Keeps s z) (t g i received marked : Nat) :
    Keeps s (Machine.onCnp t g i received marked z) := by
  unfold Machine.onCnp
  repeat' first
    | with_reducible assumption
    | (with_reducible apply Keeps.setPath)
    | (with_reducible apply Keeps.ite)
    | split
    | exact Keeps.plain hk rfl rfl rfl rfl rfl rfl rfl rfl rfl rfl rfl rfl rfl rfl rfl rfl rfl rfl
    | dsimp only

theorem Keeps.sendPkt {s z : State} (hk : Keeps s z) (t g i : Nat) (p : SPath) (k : SPkt) (fresh : Bool) :
    Keeps s (Machine.sendPkt t g i p k fresh z) := by
  unfold Machine.sendPkt
  repeat' first
    | with_reducible assumption
    | (with_reducible apply Keeps.setChannel)
    | (with_reducible apply Keeps.sLaunch)
    | (with_reducible apply Keeps.setPath)
    | (with_reducible apply Keeps.setChannel)
    | (with_reducible apply Keeps.ite)
    | exact Keeps.plain hk rfl rfl rfl rfl rfl rfl rfl rfl rfl rfl rfl rfl rfl rfl rfl rfl rfl rfl

theorem Keeps.packetBytes {s z : State} (hk : Keeps s z) (g : Nat) (c : Channel) (m : SMsg) (host : Option Bytes) :
    Keeps s (Machine.packetBytes g c m host z).2 := by
  unfold Machine.packetBytes
  repeat' first
    | with_reducible assumption
    | (with_reducible apply Keeps.dmaBytesRead)
    | (with_reducible apply Keeps.startReads)
    | (with_reducible apply Keeps.dropReads)
    | (with_reducible apply Keeps.ite)
    | (with_reducible apply Keeps.ite_fst)
    | (with_reducible apply Keeps.ite_snd)
    | (refine Keeps.readNow ?_ (by assumption))
    | split
    | dsimp only

theorem Keeps.eraseMsg {s z : State} (hk : Keeps s z) (g : Nat) (m : SMsg) :
    Keeps s (Machine.eraseMsg g m z) := by
  unfold Machine.eraseMsg
  repeat' first
    | with_reducible assumption
    | (with_reducible apply Keeps.setChannel)
    | (with_reducible apply Keeps.setChannel)
    | exact Keeps.plain hk rfl rfl rfl rfl rfl rfl rfl rfl rfl rfl rfl rfl rfl rfl rfl rfl rfl rfl

theorem Keeps.sendPart {s z : State} (hk : Keeps s z) (t g i : Nat) (p : SPath) (m : SMsg) (d : Bytes) :
    Keeps s (Machine.sendPart t g i p m d z) := by
  unfold Machine.sendPart
  repeat' first
    | with_reducible assumption
    | (with_reducible apply Keeps.setChannel)
    | (with_reducible apply Keeps.sendPkt)
    | (with_reducible apply Keeps.setChannel)
    | (with_reducible apply Keeps.ite)
    | exact Keeps.plain hk rfl rfl rfl rfl rfl rfl rfl rfl rfl rfl rfl rfl rfl rfl rfl rfl rfl rfl

theorem Keeps.sendNew {s z : State} (hk : Keeps s z) (t g : Nat) (host : Option Bytes) :
    Keeps s (Machine.sendNew t g host z) := by
  unfold Machine.sendNew
  repeat' first
    | with_reducible assumption
    | (with_reducible apply Keeps.polderFault)
    | (with_reducible apply Keeps.acsReport)
    | (with_reducible apply Keeps.refuseRequest)
    | (with_reducible apply Keeps.packetBytes)
    | (with_reducible apply Keeps.eraseMsg)
    | (with_reducible apply Keeps.sendPart)
    | (with_reducible apply Keeps.ite)
    | (with_reducible apply Keeps.ite_fst)
    | (with_reducible apply Keeps.ite_snd)
    | split
    | dsimp only

theorem Keeps.siphonSend {s z : State} (hk : Keeps s z) (t g : Nat) (host : Option Bytes) :
    Keeps s (Machine.siphonSend t g host z) := by
  unfold Machine.siphonSend
  repeat' first
    | with_reducible assumption
    | (with_reducible apply Keeps.sipCount)
    | (with_reducible apply Keeps.pathLost)
    | (with_reducible apply Keeps.sendPkt)
    | (with_reducible apply Keeps.sendNew)
    | (with_reducible apply Keeps.ite)
    | split
    | dsimp only

theorem Keeps.rtoExpiry {s z : State} (hk : Keeps s z) (t g : Nat) :
    Keeps s (Machine.rtoExpiry t g z) := by
  unfold Machine.rtoExpiry
  repeat' first
    | with_reducible assumption
    | (with_reducible apply Keeps.setChannel)
    | (with_reducible apply Keeps.channelError)
    | (with_reducible apply Keeps.setChannel)
    | (with_reducible apply Keeps.ite)
    | split
    | exact Keeps.plain hk rfl rfl rfl rfl rfl rfl rfl rfl rfl rfl rfl rfl rfl rfl rfl rfl rfl rfl
    | dsimp only

theorem Keeps.addMsg {s z : State} (hk : Keeps s z) (g : Nat) (m : SMsg) :
    Keeps s (Machine.addMsg g m z) := by
  unfold Machine.addMsg
  repeat' first
    | with_reducible assumption
    | (with_reducible apply Keeps.setChannel)
    | (with_reducible apply Keeps.setChannel)
    | exact Keeps.plain hk rfl rfl rfl rfl rfl rfl rfl rfl rfl rfl rfl rfl rfl rfl rfl rfl rfl rfl

theorem Keeps.addReply {s z : State} (hk : Keeps s z) (g : Nat) (m : SMsg) :
    Keeps s (Machine.addReply g m z) := by
  unfold Machine.addReply
  repeat' first
    | with_reducible assumption
    | (with_reducible apply Keeps.setChannel)
    | (with_reducible apply Keeps.setChannel)
    | exact Keeps.plain hk rfl rfl rfl rfl rfl rfl rfl rfl rfl rfl rfl rfl rfl rfl rfl rfl rfl rfl

theorem Keeps.siphonOp {s z : State} (hk : Keeps s z) (op fn q : Nat) (h : HostData) (len : Nat) (go : Chain → Bytes → State → State) (h_go : ∀ b0 b1 y, Keeps s y → Keeps s (go b0 b1 y)) :
    Keeps s (Machine.siphonOp op fn q h len go z) := by
  unfold Machine.siphonOp
  repeat' first
    | with_reducible assumption
    | (with_reducible apply h_go)
    | (with_reducible apply Keeps.hostOp)
    | (with_reducible apply Keeps.ite)
    | split
    | (with_reducible intro _; try beta_reduce)
    | dsimp only

theorem Keeps.submitMsg {s z : State} (hk : Keeps s z) (op wire fn q : Nat) (ch : Chain) (d : Bytes) :
    Keeps s (Machine.submitMsg op wire fn q ch d z) := by
  unfold Machine.submitMsg
  repeat' first
    | with_reducible assumption
    | (with_reducible apply Keeps.updChain)
    | (with_reducible apply Keeps.finishChain)
    | (with_reducible apply Keeps.addMsg)
    | (with_reducible apply Keeps.ite)
    | split
    | exact Keeps.plain hk rfl rfl rfl rfl rfl rfl rfl rfl rfl rfl rfl rfl rfl rfl rfl rfl rfl rfl
    | dsimp only

theorem Keeps.siphonWriteOp {s z : State} (hk : Keeps s z) (_t fn q : Nat) (h : HostData) :
    Keeps s (Machine.siphonWriteOp _t fn q h z) := by
  unfold Machine.siphonWriteOp
  repeat' first
    | with_reducible assumption
    | (with_reducible apply Keeps.siphonOp)
    | (with_reducible apply Keeps.submitMsg)
    | (with_reducible intro _; try beta_reduce)

theorem Keeps.siphonWriteImmOp {s z : State} (hk : Keeps s z) (_t fn q : Nat) (h : HostData) :
    Keeps s (Machine.siphonWriteImmOp _t fn q h z) := by
  unfold Machine.siphonWriteImmOp
  repeat' first
    | with_reducible assumption
    | (with_reducible apply Keeps.siphonOp)
    | (with_reducible apply Keeps.submitMsg)
    | (with_reducible intro _; try beta_reduce)

theorem Keeps.siphonReadOp {s z : State} (hk : Keeps s z) (_t fn q : Nat) (h : HostData) :
    Keeps s (Machine.siphonReadOp _t fn q h z) := by
  unfold Machine.siphonReadOp
  repeat' first
    | with_reducible assumption
    | (with_reducible apply Keeps.siphonOp)
    | (with_reducible apply Keeps.submitMsg)
    | (with_reducible intro _; try beta_reduce)

theorem Keeps.submitCapsule {s z : State} (hk : Keeps s z) (fn q : Nat) (ch : Chain) (d : Bytes) :
    Keeps s (Machine.submitCapsule fn q ch d z) := by
  unfold Machine.submitCapsule
  repeat' first
    | with_reducible assumption
    | (with_reducible apply Keeps.updChain)
    | (with_reducible apply Keeps.finishChain)
    | (with_reducible apply Keeps.addMsg)
    | (with_reducible apply Keeps.ite)
    | split
    | exact Keeps.plain hk rfl rfl rfl rfl rfl rfl rfl rfl rfl rfl rfl rfl rfl rfl rfl rfl rfl rfl
    | dsimp only

theorem Keeps.jcmdSendOp {s z : State} (hk : Keeps s z) (_t fn q : Nat) (h : HostData) :
    Keeps s (Machine.jcmdSendOp _t fn q h z) := by
  unfold Machine.jcmdSendOp
  repeat' first
    | with_reducible assumption
    | (with_reducible apply Keeps.siphonOp)
    | (with_reducible apply Keeps.submitCapsule)
    | (with_reducible intro _; try beta_reduce)

theorem Keeps.matchNotes {s z : State} (hk : Keeps s z) (g : Nat) (a0 : Nat) :
    Keeps s (Machine.matchNotes g a0 z) := by
  induction a0 generalizing z with
  | zero => exact hk
  | succ n ih =>
    unfold Machine.matchNotes
    try dsimp only
    repeat' first
      | with_reducible assumption
      | (with_reducible apply ih)
      | (with_reducible apply Keeps.setChannel)
      | (with_reducible apply Keeps.finishChain)
      | (with_reducible apply Keeps.setChannel)
      | split
      | exact Keeps.plain hk rfl rfl rfl rfl rfl rfl rfl rfl rfl rfl rfl rfl rfl rfl rfl rfl rfl rfl
      | dsimp only

theorem Keeps.recvNotify {s z : State} (hk : Keeps s z) (fn q : Nat) :
    Keeps s (Machine.recvNotify fn q z) := by
  unfold Machine.recvNotify
  repeat' first
    | with_reducible assumption
    | (with_reducible apply Keeps.setChannel)
    | (with_reducible apply Keeps.updChain)
    | (with_reducible apply Keeps.finishChain)
    | (with_reducible apply Keeps.matchNotes)
    | (with_reducible apply Keeps.setChannel)
    | (with_reducible apply Keeps.ite)
    | split
    | exact Keeps.plain hk rfl rfl rfl rfl rfl rfl rfl rfl rfl rfl rfl rfl rfl rfl rfl rfl rfl rfl
    | dsimp only

theorem Keeps.chFreeSlot {s z : State} (hk : Keeps s z) (c : Channel) :
    Keeps s (Machine.chFreeSlot c z) := by
  unfold Machine.chFreeSlot
  repeat' first
    | with_reducible assumption
    | (with_reducible apply Keeps.dropUser)
    | (with_reducible apply Keeps.ite)
    | split
    | dsimp only

theorem Keeps.channelReset {s z : State} (hk : Keeps s z) (g : Nat) (status : Option Nat) :
    Keeps s (Machine.channelReset g status z) := by
  unfold Machine.channelReset
  repeat' first
    | with_reducible assumption
    | (with_reducible apply Keeps.setChannel)
    | (with_reducible apply Keeps.endMsgs)
    | (with_reducible apply Keeps.endRecvs)
    | (with_reducible apply Keeps.journalDrop)
    | (with_reducible apply Keeps.chFreeSlot)
    | (with_reducible apply Keeps.setChannel)
    | split
    | exact Keeps.plain hk rfl rfl rfl rfl rfl rfl rfl rfl rfl rfl rfl rfl rfl rfl rfl rfl rfl rfl
    | dsimp only

theorem Keeps.channelModify {s z : State} (hk : Keeps s z) (t fn q : Nat) (ch : Chain) (d : Bytes) :
    Keeps s (Machine.channelModify t fn q ch d z) := by
  unfold Machine.channelModify
  repeat' first
    | with_reducible assumption
    | (with_reducible apply Keeps.setChannel)
    | (with_reducible apply Keeps.finishChain)
    | (with_reducible apply Keeps.addUser)
    | (with_reducible apply Keeps.channelError)
    | (with_reducible apply Keeps.channelReset)
    | (with_reducible apply Keeps.setChannel)
    | (with_reducible apply Keeps.ite)
    | split
    | exact Keeps.plain hk rfl rfl rfl rfl rfl rfl rfl rfl rfl rfl rfl rfl rfl rfl rfl rfl rfl rfl
    | dsimp only

theorem Keeps.channelModifyOp {s z : State} (hk : Keeps s z) (t fn q : Nat) (h : HostData) :
    Keeps s (Machine.channelModifyOp t fn q h z) := by
  unfold Machine.channelModifyOp
  repeat' first
    | with_reducible assumption
    | (with_reducible apply Keeps.siphonOp)
    | (with_reducible apply Keeps.channelModify)
    | (with_reducible intro _; try beta_reduce)

theorem Keeps.channelQuery {s z : State} (hk : Keeps s z) (fn q : Nat) :
    Keeps s (Machine.channelQuery fn q z) := by
  unfold Machine.channelQuery
  repeat' first
    | with_reducible assumption
    | (with_reducible apply Keeps.queueWrite)
    | (with_reducible apply Keeps.finishChain)
    | split
    | dsimp only

theorem Keeps.regionRegister {s z : State} (hk : Keeps s z) (fn q : Nat) (ch : Chain) (d : Bytes) :
    Keeps s (Machine.regionRegister fn q ch d z) := by
  unfold Machine.regionRegister
  repeat' first
    | with_reducible assumption
    | (with_reducible apply Keeps.setRegion)
    | (with_reducible apply Keeps.count)
    | (with_reducible apply Keeps.malformed)
    | (with_reducible apply Keeps.finishChain)
    | (with_reducible apply Keeps.setRegion)
    | (with_reducible apply Keeps.ite)
    | split
    | dsimp only

theorem Keeps.regionRegisterOp {s z : State} (hk : Keeps s z) (_t fn q : Nat) (h : HostData) :
    Keeps s (Machine.regionRegisterOp _t fn q h z) := by
  unfold Machine.regionRegisterOp
  repeat' first
    | with_reducible assumption
    | (with_reducible apply Keeps.siphonOp)
    | (with_reducible apply Keeps.regionRegister)
    | (with_reducible intro _; try beta_reduce)

theorem Keeps.revokeRegion {s z : State} (hk : Keeps s z) (g : Nat) (revoking : Bool) :
    Keeps s (Machine.revokeRegion g revoking z) := by
  unfold Machine.revokeRegion
  repeat' first
    | with_reducible assumption
    | (with_reducible apply Keeps.setRegion)
    | (with_reducible apply Keeps.setRegion)
    | exact Keeps.plain hk rfl rfl rfl rfl rfl rfl rfl rfl rfl rfl rfl rfl rfl rfl rfl rfl rfl rfl

theorem Keeps.regionRevoke {s z : State} (hk : Keeps s z) (fn q : Nat) :
    Keeps s (Machine.regionRevoke fn q z) := by
  unfold Machine.regionRevoke
  repeat' first
    | with_reducible assumption
    | (with_reducible apply Keeps.updChain)
    | (with_reducible apply Keeps.finishChain)
    | (with_reducible apply Keeps.revokeRegion)
    | (with_reducible apply Keeps.ite)
    | split
    | exact Keeps.plain hk rfl rfl rfl rfl rfl rfl rfl rfl rfl rfl rfl rfl rfl rfl rfl rfl rfl rfl
    | dsimp only

theorem Keeps.revokeFence {s z : State} (hk : Keeps s z) (fn q region : Nat) :
    Keeps s (Machine.revokeFence fn q region z) := by
  unfold Machine.revokeFence
  repeat' first
    | with_reducible assumption
    | (with_reducible apply Keeps.setRegion)
    | (with_reducible apply Keeps.finishChain)
    | (with_reducible apply Keeps.setRegion)
    | (with_reducible apply Keeps.ite)
    | split
    | dsimp only

theorem Keeps.updCap {s z : State} (hk : Keeps s z) (g msg : Nat) (f : Capsule → Capsule) :
    Keeps s (Machine.updCap g msg f z) := by
  unfold Machine.updCap
  repeat' first
    | with_reducible assumption
    | (with_reducible apply Keeps.setChannel)
    | (with_reducible apply Keeps.setChannel)
    | (with_reducible apply Keeps.ite)
    | exact Keeps.plain hk rfl rfl rfl rfl rfl rfl rfl rfl rfl rfl rfl rfl rfl rfl rfl rfl rfl rfl

theorem Keeps.capRespond {s z : State} (hk : Keeps s z) (g msg status result : Nat) :
    Keeps s (Machine.capRespond g msg status result z) := by
  unfold Machine.capRespond
  repeat' first
    | with_reducible assumption
    | (with_reducible apply Keeps.addReply)
    | (with_reducible apply Keeps.updCap)
    | (with_reducible apply Keeps.ite)
    | split
    | exact Keeps.plain hk rfl rfl rfl rfl rfl rfl rfl rfl rfl rfl rfl rfl rfl rfl rfl rfl rfl rfl
    | dsimp only

theorem Keeps.capData {s z : State} (hk : Keeps s z) (g msg : Nat) (data : Bytes) :
    Keeps s (Machine.capData g msg data z) := by
  unfold Machine.capData
  repeat' first
    | with_reducible assumption
    | (with_reducible apply Keeps.addReply)
    | (with_reducible apply Keeps.ite)
    | exact Keeps.plain hk rfl rfl rfl rfl rfl rfl rfl rfl rfl rfl rfl rfl rfl rfl rfl rfl rfl rfl

theorem Keeps.grantNext {s z : State} (hk : Keeps s z) (t g msg : Nat) :
    Keeps s (Machine.grantNext t g msg z) := by
  unfold Machine.grantNext
  repeat' first
    | with_reducible assumption
    | (with_reducible apply Keeps.addReply)
    | (with_reducible apply Keeps.updCap)
    | (with_reducible apply Keeps.ite)
    | split
    | exact Keeps.plain hk rfl rfl rfl rfl rfl rfl rfl rfl rfl rfl rfl rfl rfl rfl rfl rfl rfl rfl
    | dsimp only

theorem Keeps.siphonQueueEnd {s z : State} (hk : Keeps s z) (fn q : Nat) :
    Keeps s (Machine.siphonQueueEnd fn q z) := by
  unfold Machine.siphonQueueEnd
  repeat' first
    | with_reducible assumption
    | (with_reducible apply Keeps.setChannel)
    | (with_reducible apply Keeps.setChannel)
    | (with_reducible apply Keeps.ite)
    | (with_reducible apply Keeps.ite_fst)
    | (with_reducible apply Keeps.ite_snd)
    | (with_reducible refine Keeps.foldl _ (fun _ _ _ => ?_) ?_)
    | (with_reducible refine Keeps.foldl_fst _ (fun _ _ _ => ?_) ?_)
    | (with_reducible refine Keeps.foldl_snd _ (fun _ _ _ => ?_) ?_)
    | exact Keeps.plain hk rfl rfl rfl rfl rfl rfl rfl rfl rfl rfl rfl rfl rfl rfl rfl rfl rfl rfl

theorem Keeps.siphonEnd {s z : State} (hk : Keeps s z) (fn : Nat) :
    Keeps s (Machine.siphonEnd fn z) := by
  unfold Machine.siphonEnd
  repeat' first
    | with_reducible assumption
    | (with_reducible apply Keeps.channelError)
    | (with_reducible apply Keeps.ite)
    | (with_reducible apply Keeps.ite_fst)
    | (with_reducible apply Keeps.ite_snd)
    | (with_reducible refine Keeps.foldl _ (fun _ _ _ => ?_) ?_)
    | (with_reducible refine Keeps.foldl_fst _ (fun _ _ _ => ?_) ?_)
    | (with_reducible refine Keeps.foldl_snd _ (fun _ _ _ => ?_) ?_)

theorem Keeps.siphonRegionsEnd {s z : State} (hk : Keeps s z) (fn : Nat) :
    Keeps s (Machine.siphonRegionsEnd fn z) := by
  unfold Machine.siphonRegionsEnd
  repeat' first
    | with_reducible assumption
    | (with_reducible apply Keeps.revokeRegion)
    | (with_reducible apply Keeps.ite)
    | (with_reducible apply Keeps.ite_fst)
    | (with_reducible apply Keeps.ite_snd)
    | (with_reducible refine Keeps.foldl _ (fun _ _ _ => ?_) ?_)
    | (with_reducible refine Keeps.foldl_fst _ (fun _ _ _ => ?_) ?_)
    | (with_reducible refine Keeps.foldl_snd _ (fun _ _ _ => ?_) ?_)

end Sys2Proof.Machine
end

