-- ==== Sys2Proof/Laws/KeepsJournal.lean ====
section
/-! SUPPORT. What the operations of Machine/Journal.lean keep. -/

namespace Sys2Proof.Machine
open Sys2Proof

/-- A fold of block versions into the map keeps its form. -/
theorem Keeps.putBlocks {β : Type} {s z : State} (hk : Keeps s z) (l : List β) (key : β → Nat) (v : β → Ver) :
    Keeps s (Machine.modJrn (fun j => { j with map := l.foldl (fun m b => Tab.set Ver.zero m (key b) (v b)) j.map }) z) :=
  hk.modJrn (fun h => Tab.wf_foldl _ _ (fun _ _ h => Tab.wf_set _ _ h) h)

theorem Keeps.jStart {s z : State} (hk : Keeps s z) (src : JSrc) (c : JCmd) :
    Keeps s (Machine.jStart src c z) := by
  unfold Machine.jStart
  repeat' first
    | with_reducible assumption
    | (with_reducible apply Keeps.updChain)
    | (with_reducible apply Keeps.updCap)
    | split
    | exact Keeps.plain hk rfl rfl rfl rfl rfl rfl rfl rfl rfl rfl rfl rfl rfl rfl rfl rfl rfl rfl
    | dsimp only

theorem Keeps.suspendTests {s z : State} (hk : Keeps s z) (t n : Nat) :
    Keeps s (Machine.suspendTests t n z) := by
  unfold Machine.suspendTests
  repeat' first
    | with_reducible assumption
    | (with_reducible apply Keeps.setCart)
    | (with_reducible apply Keeps.setCart)
    | (with_reducible refine Keeps.forEach _ (fun _ _ _ => ?_) ?_)
    | (with_reducible apply Keeps.ite)
    | exact Keeps.plain hk rfl rfl rfl rfl rfl rfl rfl rfl rfl rfl rfl rfl rfl rfl rfl rfl rfl rfl

theorem Keeps.commandComes {s z : State} (hk : Keeps s z) (fn : Nat) (c : JCmd) :
    Keeps s (Machine.commandComes fn c z) := by
  unfold Machine.commandComes
  repeat' first
    | with_reducible assumption
    | (with_reducible apply Keeps.suspendTests)
    | split
    | dsimp only

theorem Keeps.jEnd {s z : State} (hk : Keeps s z) (src : Option JSrc) (ref status result : Nat) :
    Keeps s (Machine.jEnd src ref status result z) := by
  unfold Machine.jEnd
  repeat' first
    | with_reducible assumption
    | (with_reducible apply Keeps.setCart)
    | (with_reducible apply Keeps.finishChain)
    | (with_reducible apply Keeps.capRespond)
    | (with_reducible apply Keeps.setCart)
    | (with_reducible refine Keeps.forEach _ (fun _ _ _ => ?_) ?_)
    | split
    | dsimp only

theorem Keeps.jRun {s z : State} (hk : Keeps s z) (t : Nat) (src : JSrc) (op : Nat) (go : JCmd → Nat → State → State) (h_go : ∀ b0 b1 y, Keeps s y → Keeps s (go b0 b1 y)) :
    Keeps s (Machine.jRun t src op go z) := by
  unfold Machine.jRun
  repeat' first
    | with_reducible assumption
    | (with_reducible apply h_go)
    | (with_reducible apply Keeps.suspendTests)
    | (with_reducible apply Keeps.jEnd)
    | split
    | dsimp only

theorem Keeps.cartCount {s z : State} (hk : Keeps s z) (i k n : Nat) :
    Keeps s (Machine.cartCount i k n z) := by
  unfold Machine.cartCount
  repeat' first
    | with_reducible assumption
    | (with_reducible apply Keeps.setCart)
    | (with_reducible apply Keeps.countEv)
    | (with_reducible apply Keeps.setCart)
    | split
    | exact Keeps.plain hk rfl rfl rfl rfl rfl rfl rfl rfl rfl rfl rfl rfl rfl rfl rfl rfl rfl rfl
    | dsimp only

theorem Keeps.raiseCart {s z : State} (hk : Keeps s z) (i k : Nat) :
    Keeps s (Machine.raiseCart i k z) := by
  unfold Machine.raiseCart
  repeat' first
    | with_reducible assumption
    | (with_reducible apply Keeps.raiseSlot)

theorem Keeps.nsDropKey {s z : State} (hk : Keeps s z) (n : Nat) :
    Keeps s (Machine.nsDropKey n z) := by
  unfold Machine.nsDropKey
  repeat' first
    | with_reducible assumption
    | (with_reducible apply Keeps.setSpace)
    | (with_reducible apply Keeps.clearSlot)
    | (with_reducible apply Keeps.setSpace)
    | split
    | dsimp only

theorem Keeps.nsTakeKey {s z : State} (hk : Keeps s z) (n g : Nat) (x : Blob) :
    Keeps s (Machine.nsTakeKey n g x z) := by
  unfold Machine.nsTakeKey
  repeat' first
    | with_reducible assumption
    | (with_reducible apply Keeps.setSpace)
    | (with_reducible apply Keeps.loadSlot)
    | (with_reducible apply Keeps.addUser)
    | (with_reducible apply Keeps.setSpace)

theorem Keeps.commitUnit {s z : State} (hk : Keeps s z) (u : JUnit) : Keeps s (Machine.commitUnit u z) :=
  hk.putBlocks _ _ _

theorem Keeps.addUnit {s z : State} (hk : Keeps s z) (src : JSrc) (ref job ns before : Nat) (blocks : List (Nat × Bytes)) (last : Bool) :
    Keeps s (Machine.addUnit src ref job ns before blocks last z) := by
  unfold Machine.addUnit
  repeat' first
    | with_reducible assumption
    | (with_reducible apply Keeps.cipherWait)
    | (with_reducible refine Keeps.forEach _ (fun _ _ _ => ?_) ?_)
    | ((with_reducible refine Keeps.modJrn ?_ ?_) <;> [skip; (generalize State.jrn _ = b; exact fun h => h)])
    | ((with_reducible refine Keeps.modJrn ?_ ?_) <;> [skip; (intro h; unfold JournalForm at h ⊢; simp_all [Tab.wf_set, Tab.wf_upd, Tab.wf_filter, Tab.wf_ite])])
    | ((with_reducible refine Keeps.modJrn ?_ ?_) <;> [skip; (intro h; unfold JournalForm at h ⊢; split <;> simp_all [Tab.wf_set, Tab.wf_upd, Tab.wf_filter, Tab.wf_ite])])
    | (with_reducible apply Keeps.ite)
    | (with_reducible apply Keeps.ite_fst)
    | (with_reducible apply Keeps.ite_snd)
    | exact Keeps.plain hk rfl rfl rfl rfl rfl rfl rfl rfl rfl rfl rfl rfl rfl rfl rfl rfl rfl rfl

theorem Keeps.addUnits {s z : State} (hk : Keeps s z) (src : JSrc) (c : JCmd) (ns : Nat) (data : Bytes) :
    Keeps s (Machine.addUnits src c ns data z) := by
  unfold Machine.addUnits
  repeat' first
    | with_reducible assumption
    | (with_reducible apply Keeps.count)
    | (with_reducible apply Keeps.addUnit)
    | (with_reducible refine Keeps.forEach _ (fun _ _ _ => ?_) ?_)

theorem Keeps.stageBlock {s z : State} (hk : Keeps s z) (u : JUnit) (i : Nat) (text : Bytes) :
    Keeps s (Machine.stageBlock u i text z) := by
  unfold Machine.stageBlock
  repeat' first
    | with_reducible assumption
    | (with_reducible apply Keeps.updCap)
    | split
    | exact Keeps.plain hk rfl rfl rfl rfl rfl rfl rfl rfl rfl rfl rfl rfl rfl rfl rfl rfl rfl rfl
    | dsimp only

theorem Keeps.blockDone {s z : State} (hk : Keeps s z) (id i : Nat) (text : Bytes) :
    Keeps s (Machine.blockDone id i text z) := by
  unfold Machine.blockDone
  repeat' first
    | with_reducible assumption
    | (with_reducible apply Keeps.stageBlock)
    | ((with_reducible refine Keeps.modJrn ?_ ?_) <;> [skip; (generalize State.jrn _ = b; exact fun h => h)])
    | ((with_reducible refine Keeps.modJrn ?_ ?_) <;> [skip; (intro h; unfold JournalForm at h ⊢; simp_all [Tab.wf_set, Tab.wf_upd, Tab.wf_filter, Tab.wf_ite])])
    | ((with_reducible refine Keeps.modJrn ?_ ?_) <;> [skip; (intro h; unfold JournalForm at h ⊢; split <;> simp_all [Tab.wf_set, Tab.wf_upd, Tab.wf_filter, Tab.wf_ite])])
    | (with_reducible apply Keeps.ite)
    | (with_reducible apply Keeps.ite_fst)
    | (with_reducible apply Keeps.ite_snd)
    | split
    | exact Keeps.plain hk rfl rfl rfl rfl rfl rfl rfl rfl rfl rfl rfl rfl rfl rfl rfl rfl rfl rfl
    | dsimp only

theorem Keeps.dropJob {s z : State} (hk : Keeps s z) (job : Nat) :
    Keeps s (Machine.dropJob job z) := by
  unfold Machine.dropJob
  repeat' first
    | with_reducible assumption
    | (with_reducible apply Keeps.cipherDrop)
    | ((with_reducible refine Keeps.modJrn ?_ ?_) <;> [skip; (generalize State.jrn _ = b; exact fun h => h)])
    | ((with_reducible refine Keeps.modJrn ?_ ?_) <;> [skip; (intro h; unfold JournalForm at h ⊢; simp_all [Tab.wf_set, Tab.wf_upd, Tab.wf_filter, Tab.wf_ite])])
    | exact Keeps.plain hk rfl rfl rfl rfl rfl rfl rfl rfl rfl rfl rfl rfl rfl rfl rfl rfl rfl rfl

theorem Keeps.endJob {s z : State} (hk : Keeps s z) (u : JUnit) (status : Nat) :
    Keeps s (Machine.endJob u status z) := by
  unfold Machine.endJob
  repeat' first
    | with_reducible assumption
    | (with_reducible apply Keeps.jEnd)
    | (with_reducible apply Keeps.dropJob)

theorem Keeps.unitAccept {s z : State} (hk : Keeps s z) (id : Nat) :
    Keeps s (Machine.unitAccept id z) := by
  unfold Machine.unitAccept
  repeat' first
    | with_reducible assumption
    | (with_reducible apply Keeps.setCart)
    | (with_reducible apply Keeps.jEnd)
    | (with_reducible apply Keeps.commitUnit)
    | (with_reducible apply Keeps.endJob)
    | (with_reducible apply Keeps.setCart)
    | (with_reducible refine Keeps.forEach _ (fun _ _ _ => ?_) ?_)
    | ((with_reducible refine Keeps.modJrn ?_ ?_) <;> [skip; (generalize State.jrn _ = b; exact fun h => h)])
    | ((with_reducible refine Keeps.modJrn ?_ ?_) <;> [skip; (intro h; unfold JournalForm at h ⊢; simp_all [Tab.wf_set, Tab.wf_upd, Tab.wf_filter, Tab.wf_ite])])
    | ((with_reducible refine Keeps.modJrn ?_ ?_) <;> [skip; (intro h; unfold JournalForm at h ⊢; split <;> simp_all [Tab.wf_set, Tab.wf_upd, Tab.wf_filter, Tab.wf_ite])])
    | (with_reducible apply Keeps.ite)
    | split
    | exact Keeps.plain hk rfl rfl rfl rfl rfl rfl rfl rfl rfl rfl rfl rfl rfl rfl rfl rfl rfl rfl
    | dsimp only

theorem Keeps.flushDone {s z : State} (hk : Keeps s z) :
    Keeps s (Machine.flushDone z) := by
  unfold Machine.flushDone
  repeat' first
    | with_reducible assumption
    | (with_reducible apply Keeps.jEnd)
    | (with_reducible refine Keeps.forEach _ (fun _ _ _ => ?_) ?_)
    | ((with_reducible refine Keeps.modJrn ?_ ?_) <;> [skip; (generalize State.jrn _ = b; exact fun h => h)])
    | ((with_reducible refine Keeps.modJrn ?_ ?_) <;> [skip; (intro h; unfold JournalForm at h ⊢; simp_all [Tab.wf_set, Tab.wf_upd, Tab.wf_filter, Tab.wf_ite])])
    | exact Keeps.plain hk rfl rfl rfl rfl rfl rfl rfl rfl rfl rfl rfl rfl rfl rfl rfl rfl rfl rfl

theorem Keeps.drainOne {s z : State} (hk : Keeps s z) (i : Nat) :
    Keeps s (Machine.drainOne i z) := by
  unfold Machine.drainOne
  repeat' first
    | with_reducible assumption
    | (with_reducible apply Keeps.setCart)
    | (with_reducible apply Keeps.cartCount)
    | (with_reducible apply Keeps.setCart)
    | (with_reducible apply Keeps.ite)
    | (with_reducible apply Keeps.ite_fst)
    | (with_reducible apply Keeps.ite_snd)
    | split
    | exact Keeps.plain hk rfl rfl rfl rfl rfl rfl rfl rfl rfl rfl rfl rfl rfl rfl rfl rfl rfl rfl
    | dsimp only

theorem Keeps.drainAll {s z : State} (hk : Keeps s z) (i : Nat) :
    Keeps s (Machine.drainAll i z) := by
  unfold Machine.drainAll
  repeat' first
    | with_reducible assumption
    | (with_reducible apply Keeps.drainOne)
    | (with_reducible refine Keeps.foldl _ (fun _ _ _ => ?_) ?_)
    | (with_reducible refine Keeps.foldl_fst _ (fun _ _ _ => ?_) ?_)
    | (with_reducible refine Keeps.foldl_snd _ (fun _ _ _ => ?_) ?_)

theorem Keeps.powerResume {s z : State} (hk : Keeps s z) :
    Keeps s (Machine.powerResume z) := by
  unfold Machine.powerResume
  repeat' first
    | with_reducible assumption
    | (with_reducible apply Keeps.thermtrip)
    | ((with_reducible refine Keeps.modJrn ?_ ?_) <;> [skip; (generalize State.jrn _ = b; exact fun h => h)])
    | ((with_reducible refine Keeps.modJrn ?_ ?_) <;> [skip; (intro h; unfold JournalForm at h ⊢; simp_all [Tab.wf_set, Tab.wf_upd, Tab.wf_filter, Tab.wf_ite])])
    | ((with_reducible refine Keeps.modJrn ?_ ?_) <;> [skip; (intro h; unfold JournalForm at h ⊢; split <;> simp_all [Tab.wf_set, Tab.wf_upd, Tab.wf_filter, Tab.wf_ite])])
    | (with_reducible apply Keeps.ite)
    | exact Keeps.plain hk rfl rfl rfl rfl rfl rfl rfl rfl rfl rfl rfl rfl rfl rfl rfl rfl rfl rfl

theorem Keeps.emergencyDrained {s z : State} (hk : Keeps s z) :
    Keeps s (Machine.emergencyDrained z) := by
  unfold Machine.emergencyDrained
  repeat' first
    | with_reducible assumption
    | (with_reducible apply Keeps.raise)
    | (with_reducible apply Keeps.count)
    | (with_reducible apply Keeps.flushDone)
    | (with_reducible apply Keeps.drainAll)
    | (with_reducible apply Keeps.powerResume)
    | ((with_reducible refine Keeps.modJrn ?_ ?_) <;> [skip; (generalize State.jrn _ = b; exact fun h => h)])
    | ((with_reducible refine Keeps.modJrn ?_ ?_) <;> [skip; (intro h; unfold JournalForm at h ⊢; simp_all [Tab.wf_set, Tab.wf_upd, Tab.wf_filter, Tab.wf_ite])])
    | exact Keeps.plain hk rfl rfl rfl rfl rfl rfl rfl rfl rfl rfl rfl rfl rfl rfl rfl rfl rfl rfl

theorem Keeps.journalWrite {s z : State} (hk : Keeps s z) (t : Nat) (src : JSrc) (h : HostData) (c : JCmd) (n : Nat) :
    Keeps s (Machine.journalWrite t src h c n z) := by
  unfold Machine.journalWrite
  repeat' first
    | with_reducible assumption
    | (with_reducible apply Keeps.countQ)
    | (with_reducible apply Keeps.count)
    | (with_reducible apply Keeps.hostOp)
    | (with_reducible apply Keeps.updCap)
    | (with_reducible apply Keeps.grantNext)
    | (with_reducible apply Keeps.jStart)
    | (with_reducible apply Keeps.addUnits)
    | split
    | exact Keeps.plain hk rfl rfl rfl rfl rfl rfl rfl rfl rfl rfl rfl rfl rfl rfl rfl rfl rfl rfl
    | (with_reducible intro _; try beta_reduce)
    | dsimp only

theorem Keeps.journalWriteOp {s z : State} (hk : Keeps s z) (t : Nat) (src : JSrc) (h : HostData) :
    Keeps s (Machine.journalWriteOp t src h z) := by
  unfold Machine.journalWriteOp
  repeat' first
    | with_reducible assumption
    | (with_reducible apply Keeps.jRun)
    | (with_reducible apply Keeps.journalWrite)
    | (with_reducible intro _; try beta_reduce)

theorem Keeps.mediaError {s z : State} (hk : Keeps s z) (ns lba slot status : Nat) :
    Keeps s (Machine.mediaError ns lba slot status z) := by
  unfold Machine.mediaError
  repeat' first
    | with_reducible assumption
    | (with_reducible apply Keeps.cartCount)
    | (with_reducible apply Keeps.raiseCart)
    | ((with_reducible refine Keeps.modJrn ?_ ?_) <;> [skip; (generalize State.jrn _ = b; exact fun h => h)])
    | ((with_reducible refine Keeps.modJrn ?_ ?_) <;> [skip; (intro h; unfold JournalForm at h ⊢; simp_all [Tab.wf_set, Tab.wf_upd, Tab.wf_filter, Tab.wf_ite])])
    | exact Keeps.plain hk rfl rfl rfl rfl rfl rfl rfl rfl rfl rfl rfl rfl rfl rfl rfl rfl rfl rfl

theorem Keeps.loseLine {s z : State} (hk : Keeps s z) (i ns lba : Nat) :
    Keeps s (Machine.loseLine i ns lba z) := by
  unfold Machine.loseLine
  repeat' first
    | with_reducible assumption
    | (with_reducible apply Keeps.setCart)
    | (with_reducible apply Keeps.cartCount)
    | (with_reducible apply Keeps.mediaError)
    | (with_reducible apply Keeps.setCart)
    | ((with_reducible refine Keeps.modJrn ?_ ?_) <;> [skip; (generalize State.jrn _ = b; exact fun h => h)])
    | ((with_reducible refine Keeps.modJrn ?_ ?_) <;> [skip; (intro h; unfold JournalForm at h ⊢; simp_all [Tab.wf_set, Tab.wf_upd, Tab.wf_filter, Tab.wf_ite])])
    | ((with_reducible refine Keeps.modJrn ?_ ?_) <;> [skip; (intro h; unfold JournalForm at h ⊢; split <;> simp_all [Tab.wf_set, Tab.wf_upd, Tab.wf_filter, Tab.wf_ite])])
    | (with_reducible apply Keeps.ite)
    | (with_reducible apply Keeps.ite_fst)
    | (with_reducible apply Keeps.ite_snd)
    | exact Keeps.plain hk rfl rfl rfl rfl rfl rfl rfl rfl rfl rfl rfl rfl rfl rfl rfl rfl rfl rfl

theorem Keeps.readBlock {s z : State} (hk : Keeps s z) (ns lba : Nat) (bad : List Nat) :
    Keeps s (Machine.readBlock ns lba bad z).2 := by
  unfold Machine.readBlock
  repeat' first
    | with_reducible assumption
    | (with_reducible apply Keeps.cartCount)
    | (with_reducible apply Keeps.mediaError)
    | (with_reducible apply Keeps.loseLine)
    | (with_reducible apply Keeps.ite)
    | (with_reducible apply Keeps.ite_fst)
    | (with_reducible apply Keeps.ite_snd)
    | split
    | dsimp only

theorem Keeps.readBlocks {s z : State} (k : Keeps s z) (ns : Nat) (bad : List (Nat × Nat)) (l : List Nat) :
    Keeps s (Machine.readBlocks ns bad l z).2.2 := by
  induction l generalizing z with
  | nil => exact k
  | cons b rest ih =>
    have h := k.readBlock ns b ((bad.filter (fun e => decide (e.2 = b))).map (·.1))
    unfold Machine.readBlocks
    split
    · rename_i heq; rw [heq] at h; exact h
    · rename_i heq; rw [heq] at h; exact ih h

theorem Keeps.jOutput {s z : State} (hk : Keeps s z) (src : JSrc) (c : JCmd) (data : Bytes) :
    Keeps s (Machine.jOutput src c data z) := by
  unfold Machine.jOutput
  repeat' first
    | with_reducible assumption
    | (with_reducible apply Keeps.writeSegs)
    | (with_reducible apply Keeps.capData)
    | split
    | dsimp only

theorem Keeps.journalRead {s z : State} (hk : Keeps s z) (src : JSrc) (bad : List (Nat × Nat)) (c : JCmd) (n : Nat) :
    Keeps s (Machine.journalRead src bad c n z) := by
  unfold Machine.journalRead
  repeat' first
    | with_reducible assumption
    | (with_reducible apply Keeps.countQ)
    | (with_reducible apply Keeps.count)
    | (with_reducible apply Keeps.jStart)
    | (with_reducible apply Keeps.jEnd)
    | (with_reducible apply Keeps.readBlocks)
    | (with_reducible apply Keeps.jOutput)
    | (with_reducible apply Keeps.ite)
    | (with_reducible apply Keeps.ite_fst)
    | (with_reducible apply Keeps.ite_snd)
    | split
    | dsimp only

theorem Keeps.journalFlush {s z : State} (hk : Keeps s z) (src : JSrc) (c : JCmd) (n : Nat) :
    Keeps s (Machine.journalFlush src c n z) := by
  unfold Machine.journalFlush
  repeat' first
    | with_reducible assumption
    | (with_reducible apply Keeps.countQ)
    | (with_reducible apply Keeps.jStart)
    | (with_reducible apply Keeps.jEnd)
    | ((with_reducible refine Keeps.modJrn ?_ ?_) <;> [skip; (generalize State.jrn _ = b; exact fun h => h)])
    | ((with_reducible refine Keeps.modJrn ?_ ?_) <;> [skip; (intro h; unfold JournalForm at h ⊢; simp_all [Tab.wf_set, Tab.wf_upd, Tab.wf_filter, Tab.wf_ite])])
    | ((with_reducible refine Keeps.modJrn ?_ ?_) <;> [skip; (intro h; unfold JournalForm at h ⊢; split <;> simp_all [Tab.wf_set, Tab.wf_upd, Tab.wf_filter, Tab.wf_ite])])
    | (with_reducible apply Keeps.ite)
    | exact Keeps.plain hk rfl rfl rfl rfl rfl rfl rfl rfl rfl rfl rfl rfl rfl rfl rfl rfl rfl rfl

theorem Keeps.deallocate {s z : State} (hk : Keeps s z) (src : JSrc) (c : JCmd) (n : Nat) :
    Keeps s (Machine.deallocate src c n z) := by
  unfold Machine.deallocate
  repeat' first
    | with_reducible assumption
    | (with_reducible apply Keeps.setCart)
    | (with_reducible apply Keeps.count)
    | (with_reducible apply Keeps.jStart)
    | (with_reducible apply Keeps.jEnd)
    | (with_reducible apply Keeps.commitUnit)
    | (with_reducible apply Keeps.setCart)
    | (with_reducible refine Keeps.forEach _ (fun _ _ _ => ?_) ?_)
    | ((with_reducible refine Keeps.modJrn ?_ ?_) <;> [skip; (generalize State.jrn _ = b; exact fun h => h)])
    | ((with_reducible refine Keeps.modJrn ?_ ?_) <;> [skip; (intro h; unfold JournalForm at h ⊢; simp_all [Tab.wf_set, Tab.wf_upd, Tab.wf_filter, Tab.wf_ite])])
    | ((with_reducible refine Keeps.modJrn ?_ ?_) <;> [skip; (intro h; unfold JournalForm at h ⊢; split <;> simp_all [Tab.wf_set, Tab.wf_upd, Tab.wf_filter, Tab.wf_ite])])
    | (with_reducible apply Keeps.ite)
    | (with_reducible apply Keeps.ite_fst)
    | (with_reducible apply Keeps.ite_snd)
    | exact Keeps.plain hk rfl rfl rfl rfl rfl rfl rfl rfl rfl rfl rfl rfl rfl rfl rfl rfl rfl rfl

theorem Keeps.identify {s z : State} (hk : Keeps s z) (src : JSrc) (c : JCmd) (n : Nat) :
    Keeps s (Machine.identify src c n z) := by
  unfold Machine.identify
  repeat' first
    | with_reducible assumption
    | (with_reducible apply Keeps.jStart)
    | (with_reducible apply Keeps.jEnd)
    | (with_reducible apply Keeps.jOutput)

theorem Keeps.logRead {s z : State} (hk : Keeps s z) (src : JSrc) (c : JCmd) (n : Nat) :
    Keeps s (Machine.logRead src c n z) := by
  unfold Machine.logRead
  repeat' first
    | with_reducible assumption
    | (with_reducible apply Keeps.jStart)
    | (with_reducible apply Keeps.jEnd)
    | (with_reducible apply Keeps.jOutput)

theorem Keeps.testEnd {s z : State} (hk : Keeps s z) (i result segment : Nat) :
    Keeps s (Machine.testEnd i result segment z) := by
  unfold Machine.testEnd
  repeat' first
    | with_reducible assumption
    | (with_reducible apply Keeps.setCart)
    | (with_reducible apply Keeps.raiseCart)
    | (with_reducible apply Keeps.testResult)
    | (with_reducible apply Keeps.setCart)
    | (with_reducible apply Keeps.ite)
    | exact Keeps.plain hk rfl rfl rfl rfl rfl rfl rfl rfl rfl rfl rfl rfl rfl rfl rfl rfl rfl rfl

theorem Keeps.testStart {s z : State} (hk : Keeps s z) (i code : Nat) :
    Keeps s (Machine.testStart i code z).2 := by
  unfold Machine.testStart
  repeat' first
    | with_reducible assumption
    | (with_reducible apply Keeps.setCart)
    | (with_reducible apply Keeps.testEnd)
    | (with_reducible apply Keeps.testResult)
    | (with_reducible apply Keeps.setCart)
    | (with_reducible apply Keeps.ite)
    | (with_reducible apply Keeps.ite_fst)
    | (with_reducible apply Keeps.ite_snd)
    | exact Keeps.plain hk rfl rfl rfl rfl rfl rfl rfl rfl rfl rfl rfl rfl rfl rfl rfl rfl rfl rfl

theorem Keeps.journalSelfTest {s z : State} (hk : Keeps s z) (src : JSrc) (c : JCmd) (n : Nat) :
    Keeps s (Machine.journalSelfTest src c n z) := by
  unfold Machine.journalSelfTest
  repeat' first
    | with_reducible assumption
    | (with_reducible apply Keeps.jStart)
    | (with_reducible apply Keeps.jEnd)
    | (with_reducible apply Keeps.testStart)
    | (with_reducible apply Keeps.ite)
    | (with_reducible apply Keeps.ite_fst)
    | (with_reducible apply Keeps.ite_snd)

theorem Keeps.settleSpaces {s z : State} (hk : Keeps s z) :
    Keeps s (Machine.settleSpaces z) := by
  unfold Machine.settleSpaces
  repeat' first
    | with_reducible assumption
    | ((with_reducible refine Keeps.modJrn ?_ ?_) <;> [skip; (generalize State.jrn _ = b; exact fun h => h)])
    | ((with_reducible refine Keeps.modJrn ?_ ?_) <;> [skip; (intro h; unfold JournalForm at h ⊢; simp_all [Tab.wf_set, Tab.wf_upd, Tab.wf_filter, Tab.wf_ite])])
    | ((with_reducible refine Keeps.modJrn ?_ ?_) <;> [skip; (intro h; unfold JournalForm at h ⊢; split <;> simp_all [Tab.wf_set, Tab.wf_upd, Tab.wf_filter, Tab.wf_ite])])
    | (with_reducible apply Keeps.ite)
    | (with_reducible apply Keeps.ite_fst)
    | (with_reducible apply Keeps.ite_snd)
    | exact Keeps.plain hk rfl rfl rfl rfl rfl rfl rfl rfl rfl rfl rfl rfl rfl rfl rfl rfl rfl rfl

theorem Keeps.leaveMirror {s z : State} (hk : Keeps s z) (i : Nat) :
    Keeps s (Machine.leaveMirror i z) := by
  unfold Machine.leaveMirror
  repeat' first
    | with_reducible assumption
    | (with_reducible apply Keeps.raiseCart)
    | (with_reducible apply Keeps.settleSpaces)
    | (with_reducible apply Keeps.ite)

theorem Keeps.lifeCheck {s z : State} (hk : Keeps s z) (i : Nat) :
    Keeps s (Machine.lifeCheck i z) := by
  unfold Machine.lifeCheck
  repeat' first
    | with_reducible assumption
    | (with_reducible apply Keeps.setCart)
    | (with_reducible apply Keeps.raiseCart)
    | (with_reducible apply Keeps.leaveMirror)
    | (with_reducible apply Keeps.setCart)
    | (with_reducible apply Keeps.ite)
    | exact Keeps.plain hk rfl rfl rfl rfl rfl rfl rfl rfl rfl rfl rfl rfl rfl rfl rfl rfl rfl rfl

theorem Keeps.cartWear {s z : State} (hk : Keeps s z) (i cycles remapped : Nat) (spare : Bool) :
    Keeps s (Machine.cartWear i cycles remapped spare z) := by
  unfold Machine.cartWear
  repeat' first
    | with_reducible assumption
    | (with_reducible apply Keeps.setCart)
    | (with_reducible apply Keeps.cartCount)
    | (with_reducible apply Keeps.lifeCheck)
    | (with_reducible apply Keeps.setCart)
    | (with_reducible apply Keeps.ite)
    | exact Keeps.plain hk rfl rfl rfl rfl rfl rfl rfl rfl rfl rfl rfl rfl rfl rfl rfl rfl rfl rfl

theorem Keeps.endStarted {s z : State} (hk : Keeps s z) (hit : Nat → Bool) (status : Nat) :
    Keeps s (Machine.endStarted hit status z) := by
  unfold Machine.endStarted
  repeat' first
    | with_reducible assumption
    | (with_reducible apply Keeps.jEnd)
    | (with_reducible apply Keeps.endJob)
    | (with_reducible refine Keeps.forEach _ (fun _ _ _ => ?_) ?_)
    | ((with_reducible refine Keeps.modJrn ?_ ?_) <;> [skip; (generalize State.jrn _ = b; exact fun h => h)])
    | ((with_reducible refine Keeps.modJrn ?_ ?_) <;> [skip; (intro h; unfold JournalForm at h ⊢; simp_all [Tab.wf_set, Tab.wf_upd, Tab.wf_filter, Tab.wf_ite])])
    | (with_reducible refine Keeps.foldl _ (fun _ _ _ => ?_) ?_)
    | (with_reducible refine Keeps.foldl_fst _ (fun _ _ _ => ?_) ?_)
    | (with_reducible refine Keeps.foldl_snd _ (fun _ _ _ => ?_) ?_)
    | exact Keeps.plain hk rfl rfl rfl rfl rfl rfl rfl rfl rfl rfl rfl rfl rfl rfl rfl rfl rfl rfl

theorem Keeps.sanitizeStart {s z : State} (hk : Keeps s z) (i : Nat) (by' : Option JSrc × Nat) :
    Keeps s (Machine.sanitizeStart i by' z) := by
  unfold Machine.sanitizeStart
  repeat' first
    | with_reducible assumption
    | (with_reducible apply Keeps.setCart)
    | (with_reducible apply Keeps.testEnd)
    | (with_reducible apply Keeps.endStarted)
    | (with_reducible apply Keeps.setCart)
    | (with_reducible refine Keeps.forEach _ (fun _ _ _ => ?_) ?_)
    | (with_reducible apply Keeps.ite)

theorem Keeps.journalSanitize {s z : State} (hk : Keeps s z) (src : JSrc) (c : JCmd) (n : Nat) :
    Keeps s (Machine.journalSanitize src c n z) := by
  unfold Machine.journalSanitize
  repeat' first
    | with_reducible assumption
    | (with_reducible apply Keeps.jStart)
    | (with_reducible apply Keeps.sanitizeStart)

theorem Keeps.clearBlocks {s z : State} (hk : Keeps s z) (p : Nat → Bool) :
    Keeps s (Machine.clearBlocks p z) := by
  unfold Machine.clearBlocks
  repeat' first
    | with_reducible assumption
    | (with_reducible apply Keeps.setCart)
    | (with_reducible apply Keeps.flushDone)
    | (with_reducible apply Keeps.setCart)
    | ((with_reducible refine Keeps.modJrn ?_ ?_) <;> [skip; (generalize State.jrn _ = b; exact fun h => h)])
    | ((with_reducible refine Keeps.modJrn ?_ ?_) <;> [skip; (intro h; unfold JournalForm at h ⊢; simp_all [Tab.wf_set, Tab.wf_upd, Tab.wf_filter, Tab.wf_ite])])
    | exact Keeps.plain hk rfl rfl rfl rfl rfl rfl rfl rfl rfl rfl rfl rfl rfl rfl rfl rfl rfl rfl

theorem Keeps.sanitizeEnd {s z : State} (hk : Keeps s z) (i : Nat) :
    Keeps s (Machine.sanitizeEnd i z) := by
  unfold Machine.sanitizeEnd
  repeat' first
    | with_reducible assumption
    | (with_reducible apply Keeps.setCart)
    | (with_reducible apply Keeps.jEnd)
    | (with_reducible apply Keeps.raiseCart)
    | (with_reducible apply Keeps.settleSpaces)
    | (with_reducible apply Keeps.lifeCheck)
    | (with_reducible apply Keeps.setCart)
    | split
    | exact Keeps.plain hk rfl rfl rfl rfl rfl rfl rfl rfl rfl rfl rfl rfl rfl rfl rfl rfl rfl rfl
    | dsimp only

theorem Keeps.sanitizeComplete {s z : State} (hk : Keeps s z) (slot : Nat) :
    Keeps s (Machine.sanitizeComplete slot z) := by
  unfold Machine.sanitizeComplete
  repeat' first
    | with_reducible assumption
    | (with_reducible apply Keeps.setCart)
    | (with_reducible apply Keeps.clearBlocks)
    | (with_reducible apply Keeps.sanitizeEnd)
    | (with_reducible apply Keeps.setCart)
    | (with_reducible refine Keeps.forEach _ (fun _ _ _ => ?_) ?_)
    | (with_reducible apply Keeps.ite)

theorem Keeps.formatStart {s z : State} (hk : Keeps s z) (n : Nat) (by' : Option JSrc × Nat) :
    Keeps s (Machine.formatStart n by' z) := by
  unfold Machine.formatStart
  repeat' first
    | with_reducible assumption
    | (with_reducible apply Keeps.setSpace)
    | (with_reducible apply Keeps.endStarted)
    | (with_reducible apply Keeps.setSpace)

theorem Keeps.journalFormat {s z : State} (hk : Keeps s z) (src : JSrc) (c : JCmd) (n : Nat) :
    Keeps s (Machine.journalFormat src c n z) := by
  unfold Machine.journalFormat
  repeat' first
    | with_reducible assumption
    | (with_reducible apply Keeps.jStart)
    | (with_reducible apply Keeps.formatStart)

theorem Keeps.cartRefuse {s z : State} (hk : Keeps s z) (i reason : Nat) :
    Keeps s (Machine.cartRefuse i reason z) := by
  unfold Machine.cartRefuse
  repeat' first
    | with_reducible assumption
    | (with_reducible apply Keeps.setCart)
    | (with_reducible apply Keeps.raiseCart)
    | (with_reducible apply Keeps.setCart)

theorem Keeps.loadBlocks {s z : State} (hk : Keeps s z) (l : List MediaBlock) (p : Nat → Bool) :
    Keeps s (Machine.loadBlocks l p z) := by
  refine hk.modJrn (fun h => Tab.wf_foldl _ _ (fun t b ht => ?_) h)
  split
  · exact Tab.wf_set _ _ ht
  · exact ht

theorem Keeps.nsUnwrap {s z : State} (hk : Keeps s z) (n : Nat) :
    Keeps s (Machine.nsUnwrap n z) := by
  unfold Machine.nsUnwrap
  repeat' first
    | with_reducible assumption
    | (with_reducible apply Keeps.nsTakeKey)
    | (with_reducible apply Keeps.ite)
    | split
    | dsimp only

theorem Keeps.loadSpace {s z : State} (hk : Keeps s z) (slot : Nat) (m : MediaNs) :
    Keeps s (Machine.loadSpace slot m z) := by
  unfold Machine.loadSpace
  repeat' first
    | with_reducible assumption
    | (with_reducible apply Keeps.setSpace)
    | (with_reducible apply Keeps.nsDropKey)
    | (with_reducible apply Keeps.nsUnwrap)
    | (with_reducible apply Keeps.setSpace)
    | (with_reducible apply Keeps.ite)
    | split
    | exact Keeps.plain hk rfl rfl rfl rfl rfl rfl rfl rfl rfl rfl rfl rfl rfl rfl rfl rfl rfl rfl
    | dsimp only

theorem Keeps.cartOnline {s z : State} (hk : Keeps s z) (slot : Nat) (m : CartMedia) :
    Keeps s (Machine.cartOnline slot m z) := by
  unfold Machine.cartOnline
  repeat' first
    | with_reducible assumption
    | ((with_reducible refine Keeps.modJrn ?_ ?_) <;> [skip; exact fun h => Tab.wf_foldl _ _ (fun _ _ h => Tab.wf_set _ _ h) h])
    | ((with_reducible refine Keeps.modJrn ?_ ?_) <;> [skip; exact fun h => Tab.wf_filter _ h])
    | (with_reducible apply Keeps.setCart)
    | (with_reducible apply Keeps.setSpace)
    | (with_reducible apply Keeps.raiseCart)
    | (with_reducible apply Keeps.nsDropKey)
    | (with_reducible apply Keeps.settleSpaces)
    | (with_reducible apply Keeps.lifeCheck)
    | (with_reducible apply Keeps.loadBlocks)
    | (with_reducible apply Keeps.loadSpace)
    | (with_reducible apply Keeps.setSpace)
    | (with_reducible apply Keeps.setCart)
    | (with_reducible refine Keeps.forEach _ (fun _ _ _ => ?_) ?_)
    | ((with_reducible refine Keeps.modJrn ?_ ?_) <;> [skip; (generalize State.jrn _ = b; exact fun h => h)])
    | ((with_reducible refine Keeps.modJrn ?_ ?_) <;> [skip; (intro h; unfold JournalForm at h ⊢; simp_all [Tab.wf_set, Tab.wf_upd, Tab.wf_filter, Tab.wf_ite])])
    | ((with_reducible refine Keeps.modJrn ?_ ?_) <;> [skip; (intro h; unfold JournalForm at h ⊢; split <;> simp_all [Tab.wf_set, Tab.wf_upd, Tab.wf_filter, Tab.wf_ite])])
    | (with_reducible apply Keeps.ite)
    | (with_reducible apply Keeps.ite_fst)
    | (with_reducible apply Keeps.ite_snd)
    | (with_reducible refine Keeps.foldl _ (fun _ _ _ => ?_) ?_)
    | (with_reducible refine Keeps.foldl_fst _ (fun _ _ _ => ?_) ?_)
    | (with_reducible refine Keeps.foldl_snd _ (fun _ _ _ => ?_) ?_)
    | exact Keeps.plain hk rfl rfl rfl rfl rfl rfl rfl rfl rfl rfl rfl rfl rfl rfl rfl rfl rfl rfl

theorem Keeps.endFormats {s z : State} (hk : Keeps s z) (hit : Nat → Bool) (status : Nat) :
    Keeps s (Machine.endFormats hit status z) := by
  unfold Machine.endFormats
  repeat' first
    | with_reducible assumption
    | (with_reducible apply Keeps.setSpace)
    | (with_reducible apply Keeps.jEnd)
    | (with_reducible apply Keeps.setSpace)
    | (with_reducible refine Keeps.forEach _ (fun _ _ _ => ?_) ?_)
    | split
    | dsimp only

theorem Keeps.cartRemoval {s z : State} (hk : Keeps s z) (i : Nat) (rises : Bool) :
    Keeps s (Machine.cartRemoval i rises z) := by
  have hm : ∀ (x y : State) (l : List (Nat × Nat)), Keeps s y → Keeps s (Machine.modJrn (fun j => { j with
      map := l.foldl (fun m b => if (x.space b.1).placement = 2 ∧ cartServes (x.cart (1 - i)).state then m
        else Tab.set Ver.zero m (mapKey b.1 b.2) .lost) j.map }) y) := by
    intro x y l ky
    refine ky.modJrn (fun h => Tab.wf_foldl _ _ (fun m b hm => ?_) h)
    split
    · exact hm
    · exact Tab.wf_set _ _ hm
  unfold Machine.cartRemoval
  repeat' first
    | with_reducible assumption
    | (with_reducible apply settleSpaces)
    | (with_reducible apply flushDone)
    | (with_reducible apply endStarted)
    | (with_reducible apply endFormats)
    | (with_reducible apply jEnd)
    | (with_reducible apply cartCount)
    | (with_reducible apply raiseCart)
    | (with_reducible apply answerAct)
    | (with_reducible apply Keeps.setCart)
    | (with_reducible apply hm)
    | (with_reducible apply Keeps.ite)
    | split
    | dsimp only

theorem Keeps.capsuleUnits {s z : State} (hk : Keeps s z) (g msg ns : Nat) (a0 : Nat) :
    Keeps s (Machine.capsuleUnits g msg ns a0 z) := by
  induction a0 generalizing z with
  | zero => exact hk
  | succ n ih =>
    unfold Machine.capsuleUnits
    try dsimp only
    repeat' first
      | with_reducible assumption
      | (with_reducible apply ih)
      | (with_reducible apply Keeps.count)
      | (with_reducible apply Keeps.updCap)
      | (with_reducible apply Keeps.addUnit)
      | (with_reducible apply Keeps.ite)
      | split
      | exact Keeps.plain hk rfl rfl rfl rfl rfl rfl rfl rfl rfl rfl rfl rfl rfl rfl rfl rfl rfl rfl
      | dsimp only

theorem Keeps.stageData {s z : State} (hk : Keeps s z) (g msg off : Nat) (data : Bytes) :
    Keeps s (Machine.stageData g msg off data z) := by
  unfold Machine.stageData
  repeat' first
    | with_reducible assumption
    | (with_reducible apply Keeps.updCap)
    | (with_reducible apply Keeps.capsuleUnits)
    | (with_reducible apply Keeps.ite)
    | split
    | exact Keeps.plain hk rfl rfl rfl rfl rfl rfl rfl rfl rfl rfl rfl rfl rfl rfl rfl rfl rfl rfl
    | dsimp only

theorem Keeps.xferTimeout {s z : State} (hk : Keeps s z) (t g msg : Nat) :
    Keeps s (Machine.xferTimeout t g msg z) := by
  unfold Machine.xferTimeout
  repeat' first
    | with_reducible assumption
    | (with_reducible apply Keeps.count)
    | (with_reducible apply Keeps.capRespond)
    | (with_reducible apply Keeps.endJob)
    | (with_reducible apply Keeps.ite)
    | split
    | dsimp only

theorem Keeps.cipherMessageDone {s z : State} (hk : Keeps s z) (k : Nat) :
    Keeps s (Machine.cipherMessageDone k z) := by
  unfold Machine.cipherMessageDone
  repeat' first
    | with_reducible assumption
    | (with_reducible apply Keeps.cipherCount)
    | (with_reducible apply Keeps.finishCipher)
    | (with_reducible apply Keeps.freeCoreOf)
    | (with_reducible apply Keeps.blockDone)
    | (with_reducible apply Keeps.ite)
    | (with_reducible apply Keeps.ite_fst)
    | (with_reducible apply Keeps.ite_snd)
    | split
    | dsimp only

theorem Keeps.journalEnd {s z : State} (hk : Keeps s z) (fn : Nat) :
    Keeps s (Machine.journalEnd fn z) := by
  unfold Machine.journalEnd
  repeat' first
    | with_reducible assumption
    | (with_reducible apply Keeps.journalDrop)
    | split
    | dsimp only

theorem Keeps.journalHold {s z : State} (hk : Keeps s z) :
    Keeps s (Machine.journalHold z) := by
  unfold Machine.journalHold
  repeat' first
    | with_reducible assumption
    | (with_reducible apply Keeps.setQueue)
    | (with_reducible apply Keeps.count)
    | ((with_reducible refine Keeps.modJrn ?_ ?_) <;> [skip; (generalize State.jrn _ = b; exact fun h => h)])
    | (with_reducible apply Keeps.setQueue)
    | ((with_reducible refine Keeps.modJrn ?_ ?_) <;> [skip; (intro h; unfold JournalForm at h ⊢; simp_all [Tab.wf_set, Tab.wf_upd, Tab.wf_filter, Tab.wf_ite])])
    | ((with_reducible refine Keeps.modJrn ?_ ?_) <;> [skip; (intro h; unfold JournalForm at h ⊢; split <;> simp_all [Tab.wf_set, Tab.wf_upd, Tab.wf_filter, Tab.wf_ite])])
    | (with_reducible apply Keeps.ite)
    | (with_reducible apply Keeps.ite_fst)
    | (with_reducible apply Keeps.ite_snd)
    | (with_reducible refine Keeps.foldl _ (fun _ _ _ => ?_) ?_)
    | (with_reducible refine Keeps.foldl_fst _ (fun _ _ _ => ?_) ?_)
    | (with_reducible refine Keeps.foldl_snd _ (fun _ _ _ => ?_) ?_)
    | exact Keeps.plain hk rfl rfl rfl rfl rfl rfl rfl rfl rfl rfl rfl rfl rfl rfl rfl rfl rfl rfl

theorem Keeps.journalRelease {s z : State} (hk : Keeps s z) (fail : Option Nat) :
    Keeps s (Machine.journalRelease fail z) := by
  unfold Machine.journalRelease
  repeat' first
    | with_reducible assumption
    | (with_reducible apply Keeps.setQueue)
    | (with_reducible apply Keeps.finishChain)
    | (with_reducible apply Keeps.capRespond)
    | (with_reducible apply Keeps.journalHold)
    | (with_reducible refine Keeps.forEach _ (fun _ _ _ => ?_) ?_)
    | ((with_reducible refine Keeps.modJrn ?_ ?_) <;> [skip; (generalize State.jrn _ = b; exact fun h => h)])
    | (with_reducible apply Keeps.setQueue)
    | ((with_reducible refine Keeps.modJrn ?_ ?_) <;> [skip; (intro h; unfold JournalForm at h ⊢; simp_all [Tab.wf_set, Tab.wf_upd, Tab.wf_filter, Tab.wf_ite])])
    | ((with_reducible refine Keeps.modJrn ?_ ?_) <;> [skip; (intro h; unfold JournalForm at h ⊢; split <;> simp_all [Tab.wf_set, Tab.wf_upd, Tab.wf_filter, Tab.wf_ite])])
    | (with_reducible apply Keeps.ite)
    | (with_reducible apply Keeps.ite_fst)
    | (with_reducible apply Keeps.ite_snd)
    | (with_reducible refine Keeps.foldl _ (fun _ _ _ => ?_) ?_)
    | (with_reducible refine Keeps.foldl_fst _ (fun _ _ _ => ?_) ?_)
    | (with_reducible refine Keeps.foldl_snd _ (fun _ _ _ => ?_) ?_)
    | split
    | exact Keeps.plain hk rfl rfl rfl rfl rfl rfl rfl rfl rfl rfl rfl rfl rfl rfl rfl rfl rfl rfl
    | dsimp only

theorem Keeps.resetWrites {s z : State} (hk : Keeps s z) (src : JSrc) :
    Keeps s (Machine.resetWrites src z) := by
  unfold Machine.resetWrites
  repeat' first
    | with_reducible assumption
    | (with_reducible apply Keeps.journalCut)
    | (with_reducible apply Keeps.jEnd)
    | (with_reducible refine Keeps.forEach _ (fun _ _ _ => ?_) ?_)
    | ((with_reducible refine Keeps.modJrn ?_ ?_) <;> [skip; (generalize State.jrn _ = b; exact fun h => h)])
    | ((with_reducible refine Keeps.modJrn ?_ ?_) <;> [skip; (intro h; unfold JournalForm at h ⊢; simp_all [Tab.wf_set, Tab.wf_upd, Tab.wf_filter, Tab.wf_ite])])
    | ((with_reducible refine Keeps.modJrn ?_ ?_) <;> [skip; (intro h; unfold JournalForm at h ⊢; split <;> simp_all [Tab.wf_set, Tab.wf_upd, Tab.wf_filter, Tab.wf_ite])])
    | (with_reducible apply Keeps.ite)
    | exact Keeps.plain hk rfl rfl rfl rfl rfl rfl rfl rfl rfl rfl rfl rfl rfl rfl rfl rfl rfl rfl

theorem Keeps.journalQueueReset {s z : State} (hk : Keeps s z) (fn q : Nat) :
    Keeps s (Machine.journalQueueReset fn q z) := by
  unfold Machine.journalQueueReset
  repeat' first
    | with_reducible assumption
    | (with_reducible apply Keeps.finishChain)
    | (with_reducible apply Keeps.resetWrites)
    | (with_reducible refine Keeps.forEach _ (fun _ _ _ => ?_) ?_)

end Sys2Proof.Machine
end

