-- ==== Sys2Proof/Laws/KeepsSiphonRx.lean ====
section
/-! SUPPORT. What the operations of Machine/SiphonRx.lean keep. -/

namespace Sys2Proof.Machine
open Sys2Proof

theorem Keeps.rxPop {s z : State} (hk : Keeps s z) (sid : Nat) :
    Keeps s (Machine.rxPop sid z) := by
  unfold Machine.rxPop
  repeat' first
    | with_reducible assumption
    | (with_reducible apply Keeps.releaseCopy)
    | ((with_reducible refine Keeps.modSiphon ?_ ?_) <;> [skip; (generalize State.siphon _ = b; exact fun h => h)])
    | ((with_reducible refine Keeps.modSiphon ?_ ?_) <;> [skip; (intro h; unfold SiphonForm at h ⊢; simp_all [Tab.wf_set, Tab.wf_upd, Tab.wf_filter, Tab.wf_ite])])
    | exact Keeps.plain hk rfl rfl rfl rfl rfl rfl rfl rfl rfl rfl rfl rfl rfl rfl rfl rfl rfl rfl

theorem Keeps.rxMark {s z : State} (hk : Keeps s z) (t g : Nat) (p : SPacket) (ce : Bool) :
    Keeps s (Machine.rxMark t g p ce z) := by
  unfold Machine.rxMark
  repeat' first
    | with_reducible assumption
    | (with_reducible apply Keeps.setChannel)
    | (with_reducible apply Keeps.count)
    | (with_reducible apply Keeps.sendCnp)
    | (with_reducible apply Keeps.setChannel)
    | (with_reducible apply Keeps.ite)
    | exact Keeps.plain hk rfl rfl rfl rfl rfl rfl rfl rfl rfl rfl rfl rfl rfl rfl rfl rfl rfl rfl

theorem Keeps.rxInError {s z : State} (hk : Keeps s z) (t g : Nat) (p : SPacket) :
    Keeps s (Machine.rxInError t g p z) := by
  unfold Machine.rxInError
  repeat' first
    | with_reducible assumption
    | (with_reducible apply Keeps.setChannel)
    | (with_reducible apply Keeps.sendNak)
    | (with_reducible apply Keeps.setChannel)
    | (with_reducible apply Keeps.ite)
    | split
    | exact Keeps.plain hk rfl rfl rfl rfl rfl rfl rfl rfl rfl rfl rfl rfl rfl rfl rfl rfl rfl rfl
    | dsimp only

theorem Keeps.rxGone {s z : State} (hk : Keeps s z) :
    Keeps s (Machine.rxGone z) := by
  unfold Machine.rxGone
  repeat' first
    | with_reducible assumption
    | ((with_reducible refine Keeps.modSiphon ?_ ?_) <;> [skip; (generalize State.siphon _ = b; exact fun h => h)])
    | ((with_reducible refine Keeps.modSiphon ?_ ?_) <;> [skip; (intro h; unfold SiphonForm at h ⊢; simp_all [Tab.wf_set, Tab.wf_upd, Tab.wf_filter, Tab.wf_ite])])
    | exact Keeps.plain hk rfl rfl rfl rfl rfl rfl rfl rfl rfl rfl rfl rfl rfl rfl rfl rfl rfl rfl

theorem Keeps.rxServe {s z : State} (hk : Keeps s z) (t op : Nat) (fault : BufFault) (go : Nat → SPacket → State → State) (h_go : ∀ b0 b1 y, Keeps s y → Keeps s (go b0 b1 y)) :
    Keeps s (Machine.rxServe t op fault go z) := by
  unfold Machine.rxServe
  repeat' first
    | with_reducible assumption
    | (with_reducible apply h_go)
    | (with_reducible apply Keeps.raise)
    | (with_reducible apply Keeps.count)
    | (with_reducible apply Keeps.countFor)
    | (with_reducible apply Keeps.cellFault)
    | (with_reducible apply Keeps.sipCount)
    | (with_reducible apply Keeps.sFarm)
    | (with_reducible apply Keeps.rxPop)
    | (with_reducible apply Keeps.rxMark)
    | (with_reducible apply Keeps.rxInError)
    | (with_reducible apply Keeps.rxGone)
    | (with_reducible apply Keeps.ite)
    | (with_reducible apply Keeps.ite_fst)
    | (with_reducible apply Keeps.ite_snd)
    | split
    | exact Keeps.plain hk rfl rfl rfl rfl rfl rfl rfl rfl rfl rfl rfl rfl rfl rfl rfl rfl rfl rfl
    | dsimp only

/-- What the engine does for a packet it takes keeps the state's form. -/
def RxDo.Keeps : RxDo → Prop
  | .drop _ => True
  | .refuse _ => True
  | .take change => ∀ s y, Machine.Keeps s y → Machine.Keeps s (change y)

theorem Keeps.rxPsn {s z : State} (hk : Keeps s z) (t g : Nat) (p : SPacket) (judge : Channel → RxDo)
    (hj : ∀ c, (judge c).Keeps) : Keeps s (Machine.rxPsn t g p judge z) := by
  unfold Machine.rxPsn
  dsimp only
  repeat' first
    | with_reducible assumption
    | (with_reducible apply Keeps.ite)
    | (with_reducible apply Keeps.scheduleAck)
    | (with_reducible apply Keeps.sipCount)
    | (with_reducible apply Keeps.sendNak)
    | (with_reducible apply Keeps.setChannel)
    | split
  all_goals
    rename_i change heq
    have := hj (z.channel g)
    rw [heq] at this
    exact this s z hk

theorem Keeps.regionWrite {s z : State} (hk : Keeps s z) (w : Requester) (addr : Nat) (data : Bytes) :
    Keeps s (Machine.regionWrite w addr data z) := by
  unfold Machine.regionWrite
  repeat' first
    | with_reducible assumption
    | (with_reducible apply Keeps.polderFault)
    | (with_reducible apply Keeps.memWrite)
    | (with_reducible apply Keeps.acsReport)
    | (with_reducible apply Keeps.ite)

theorem Keeps.asmPut {s z : State} (hk : Keeps s z) (g : Nat) (a : SAsm) (i : Nat) :
    Keeps s (Machine.asmPut g a i z) := by
  unfold Machine.asmPut
  repeat' first
    | with_reducible assumption
    | (with_reducible apply Keeps.setChannel)
    | (with_reducible apply Keeps.setChannel)
    | (with_reducible apply Keeps.ite)
    | exact Keeps.plain hk rfl rfl rfl rfl rfl rfl rfl rfl rfl rfl rfl rfl rfl rfl rfl rfl rfl rfl

theorem Keeps.asmDrop {s z : State} (hk : Keeps s z) (g op msg : Nat) :
    Keeps s (Machine.asmDrop g op msg z) := by
  unfold Machine.asmDrop
  repeat' first
    | with_reducible assumption
    | (with_reducible apply Keeps.setChannel)
    | (with_reducible apply Keeps.setChannel)
    | exact Keeps.plain hk rfl rfl rfl rfl rfl rfl rfl rfl rfl rfl rfl rfl rfl rfl rfl rfl rfl rfl

theorem Keeps.serveReads {s z : State} (hk : Keeps s z) (g : Nat) (a0 : Nat) :
    Keeps s (Machine.serveReads g a0 z) := by
  induction a0 generalizing z with
  | zero => exact hk
  | succ n ih =>
    unfold Machine.serveReads
    try dsimp only
    repeat' first
      | with_reducible assumption
      | (with_reducible apply ih)
      | (with_reducible apply Keeps.setChannel)
      | (with_reducible apply Keeps.addReply)
      | (with_reducible apply Keeps.setChannel)
      | (with_reducible apply Keeps.ite)
      | (with_reducible refine Keeps.foldl _ (fun _ _ _ => ?_) ?_)
      | (with_reducible refine Keeps.foldl_fst _ (fun _ _ _ => ?_) ?_)
      | (with_reducible refine Keeps.foldl_snd _ (fun _ _ _ => ?_) ?_)
      | split
      | exact Keeps.plain hk rfl rfl rfl rfl rfl rfl rfl rfl rfl rfl rfl rfl rfl rfl rfl rfl rfl rfl
      | dsimp only

theorem Keeps.readDone {s z : State} (hk : Keeps s z) (g : Nat) (m : SMsg) :
    Keeps s (Machine.readDone g m z) := by
  unfold Machine.readDone
  repeat' first
    | with_reducible assumption
    | (with_reducible apply Keeps.setChannel)
    | (with_reducible apply Keeps.finishChain)
    | (with_reducible apply Keeps.setChannel)
    | (with_reducible apply Keeps.ite)
    | (with_reducible apply Keeps.ite_fst)
    | (with_reducible apply Keeps.ite_snd)
    | split
    | exact Keeps.plain hk rfl rfl rfl rfl rfl rfl rfl rfl rfl rfl rfl rfl rfl rfl rfl rfl rfl rfl
    | dsimp only

theorem Keeps.rxControl {s z : State} (hk : Keeps s z) (g : Nat) (p : SPacket) (go : State → State) (h_go : ∀ y, Keeps s y → Keeps s (go y)) :
    Keeps s (Machine.rxControl g p go z) := by
  unfold Machine.rxControl
  repeat' first
    | with_reducible assumption
    | (with_reducible apply h_go)
    | (with_reducible apply Keeps.setChannel)
    | (with_reducible apply Keeps.sipCount)
    | (with_reducible apply Keeps.setChannel)
    | (with_reducible apply Keeps.ite)
    | split
    | exact Keeps.plain hk rfl rfl rfl rfl rfl rfl rfl rfl rfl rfl rfl rfl rfl rfl rfl rfl rfl rfl
    | dsimp only

theorem Keeps.settleMsgs {s z : State} (hk : Keeps s z) (g : Nat) :
    Keeps s (Machine.settleMsgs g z) := by
  unfold Machine.settleMsgs
  repeat' first
    | with_reducible assumption
    | (with_reducible apply Keeps.setChannel)
    | (with_reducible apply Keeps.finishChain)
    | (with_reducible refine Keeps.forEach _ (fun _ _ _ => ?_) ?_)
    | (with_reducible apply Keeps.setChannel)
    | (with_reducible apply Keeps.ite)
    | (with_reducible apply Keeps.ite_fst)
    | (with_reducible apply Keeps.ite_snd)
    | split
    | exact Keeps.plain hk rfl rfl rfl rfl rfl rfl rfl rfl rfl rfl rfl rfl rfl rfl rfl rfl rfl rfl
    | dsimp only

theorem Keeps.onAck {s z : State} (hk : Keeps s z) (t g : Nat) (p : SPacket) :
    Keeps s (Machine.onAck t g p z) := by
  unfold Machine.onAck
  repeat' first
    | with_reducible assumption
    | (with_reducible apply Keeps.setChannel)
    | (with_reducible apply Keeps.pathAcked)
    | (with_reducible apply Keeps.serveReads)
    | (with_reducible apply Keeps.settleMsgs)
    | (with_reducible refine Keeps.forEach _ (fun _ _ _ => ?_) ?_)
    | (with_reducible apply Keeps.setChannel)
    | (with_reducible apply Keeps.ite)
    | split
    | exact Keeps.plain hk rfl rfl rfl rfl rfl rfl rfl rfl rfl rfl rfl rfl rfl rfl rfl rfl rfl rfl
    | dsimp only

end Sys2Proof.Machine
end

