-- ==== Sys2Proof/Laws/KeepsWorkQueues.lean ====
section
/-! SUPPORT. What the operations of Machine/WorkQueues.lean keep. -/

namespace Sys2Proof.Machine
open Sys2Proof

theorem Keeps.qctrl {s z : State} (hk : Keeps s z) (fn q cmd word : Nat) (go : Queue → State → Nat × State) (h_go : ∀ b0 y, Keeps s y → Keeps s (go b0 y).2) :
    Keeps s (Machine.qctrl fn q cmd word go z) := by
  unfold Machine.qctrl
  repeat' first
    | with_reducible assumption
    | (with_reducible apply h_go)
    | (with_reducible apply Keeps.setQueue)
    | (with_reducible apply Keeps.barMissed)
    | (with_reducible apply Keeps.setQueue)
    | (with_reducible apply Keeps.ite)
    | (with_reducible apply Keeps.ite_fst)
    | (with_reducible apply Keeps.ite_snd)
    | exact Keeps.plain hk rfl rfl rfl rfl rfl rfl rfl rfl rfl rfl rfl rfl rfl rfl rfl rfl rfl rfl

theorem Keeps.qLoad {s z : State} (hk : Keeps s z) (fn q word : Nat) (x : Queue) :
    Keeps s (Machine.qLoad fn q word x z).2 := by
  unfold Machine.qLoad
  repeat' first
    | with_reducible assumption
    | (with_reducible apply Keeps.setQueue)
    | (with_reducible apply Keeps.setQueue)
    | (with_reducible apply Keeps.ite)
    | (with_reducible apply Keeps.ite_fst)
    | (with_reducible apply Keeps.ite_snd)
    | exact Keeps.plain hk rfl rfl rfl rfl rfl rfl rfl rfl rfl rfl rfl rfl rfl rfl rfl rfl rfl rfl

theorem Keeps.qRead {s z : State} (hk : Keeps s z) (fn q word : Nat) (x : Queue) :
    Keeps s (Machine.qRead fn q word x z).2 := by
  unfold Machine.qRead
  repeat' first
    | with_reducible assumption
    | (with_reducible apply Keeps.setQueue)
    | (with_reducible apply Keeps.setQueue)
    | (with_reducible apply Keeps.ite)
    | (with_reducible apply Keeps.ite_fst)
    | (with_reducible apply Keeps.ite_snd)
    | exact Keeps.plain hk rfl rfl rfl rfl rfl rfl rfl rfl rfl rfl rfl rfl rfl rfl rfl rfl rfl rfl

theorem Keeps.qEnable {s z : State} (hk : Keeps s z) (fn q : Nat) (x : Queue) :
    Keeps s (Machine.qEnable fn q x z).2 := by
  unfold Machine.qEnable
  repeat' first
    | with_reducible assumption
    | (with_reducible apply Keeps.setQueue)
    | (with_reducible apply Keeps.setQueue)
    | (with_reducible apply Keeps.ite)
    | (with_reducible apply Keeps.ite_fst)
    | (with_reducible apply Keeps.ite_snd)

theorem Keeps.detachTx {s z : State} (hk : Keeps s z) (fn : Nat) (p : Nat → Bool) :
    Keeps s (Machine.detachTx fn p z) := by
  unfold Machine.detachTx
  repeat' first
    | with_reducible assumption
    | ((with_reducible refine Keeps.modSched ?_ ?_) <;> [skip; (generalize State.sched _ = b; exact fun h => h)])
    | ((with_reducible refine Keeps.modBuf ?_ ?_) <;> [skip; (generalize State.buf _ = b; exact fun h => h)])
    | ((with_reducible refine Keeps.modSched ?_ ?_) <;> [skip; (intro h; unfold SchedForm at h ⊢; simp_all [Tab.wf_set, Tab.wf_upd, Tab.wf_filter, Tab.wf_ite])])
    | ((with_reducible refine Keeps.modBuf ?_ ?_) <;> [skip; (intro h; unfold BufForm at h ⊢; simp_all [Tab.wf_set, Tab.wf_upd, Tab.wf_filter, Tab.wf_ite])])
    | ((with_reducible refine Keeps.modSched ?_ ?_) <;> [skip; (intro h; unfold SchedForm at h ⊢; split <;> simp_all [Tab.wf_set, Tab.wf_upd, Tab.wf_filter, Tab.wf_ite])])
    | ((with_reducible refine Keeps.modBuf ?_ ?_) <;> [skip; (intro h; unfold BufForm at h ⊢; split <;> simp_all [Tab.wf_set, Tab.wf_upd, Tab.wf_filter, Tab.wf_ite])])
    | (with_reducible apply Keeps.ite)
    | (with_reducible apply Keeps.ite_fst)
    | (with_reducible apply Keeps.ite_snd)
    | split
    | exact Keeps.plain hk rfl rfl rfl rfl rfl rfl rfl rfl rfl rfl rfl rfl rfl rfl rfl rfl rfl rfl
    | dsimp only

theorem Keeps.endQueueWork {s z : State} (hk : Keeps s z) (fn q : Nat) :
    Keeps s (Machine.endQueueWork fn q z) := by
  unfold Machine.endQueueWork
  repeat' first
    | with_reducible assumption
    | (with_reducible apply Keeps.discardHeld)
    | (with_reducible apply Keeps.dropReads)
    | (with_reducible apply Keeps.cipherQueueReset)
    | (with_reducible apply Keeps.siphonQueueEnd)
    | (with_reducible apply Keeps.detachTx)
    | (with_reducible apply Keeps.ite)

theorem Keeps.resetJournal {s z : State} (hk : Keeps s z) (fn q : Nat) :
    Keeps s (Machine.resetJournal fn q z) := by
  unfold Machine.resetJournal
  repeat' first
    | with_reducible assumption
    | (with_reducible apply Keeps.setQueue)
    | (with_reducible apply Keeps.journalHold)
    | (with_reducible apply Keeps.journalQueueReset)
    | (with_reducible apply Keeps.setQueue)
    | exact Keeps.plain hk rfl rfl rfl rfl rfl rfl rfl rfl rfl rfl rfl rfl rfl rfl rfl rfl rfl rfl

theorem Keeps.qReset {s z : State} (hk : Keeps s z) (fn q : Nat) (x : Queue) :
    Keeps s (Machine.qReset fn q x z).2 := by
  unfold Machine.qReset
  repeat' first
    | with_reducible assumption
    | (with_reducible apply Keeps.setQueue)
    | (with_reducible apply Keeps.drainEnd)
    | (with_reducible apply Keeps.endQueueWork)
    | (with_reducible apply Keeps.resetJournal)
    | (with_reducible apply Keeps.setQueue)
    | (with_reducible apply Keeps.ite)
    | (with_reducible apply Keeps.ite_fst)
    | (with_reducible apply Keeps.ite_snd)

theorem Keeps.qDisable {s z : State} (hk : Keeps s z) (fn q : Nat) (x : Queue) :
    Keeps s (Machine.qDisable fn q x z).2 := by
  unfold Machine.qDisable
  repeat' first
    | with_reducible assumption
    | (with_reducible apply Keeps.setQueue)
    | (with_reducible apply Keeps.discardHeld)
    | (with_reducible apply Keeps.dropReads)
    | (with_reducible apply Keeps.drainEnd)
    | (with_reducible apply Keeps.setQueue)
    | (with_reducible apply Keeps.ite)
    | (with_reducible apply Keeps.ite_fst)
    | (with_reducible apply Keeps.ite_snd)
    | split
    | exact Keeps.plain hk rfl rfl rfl rfl rfl rfl rfl rfl rfl rfl rfl rfl rfl rfl rfl rfl rfl rfl
    | dsimp only

theorem Keeps.queueOverrun {s z : State} (hk : Keeps s z) (fn q idx : Nat) :
    Keeps s (Machine.queueOverrun fn q idx z) := by
  unfold Machine.queueOverrun
  repeat' first
    | with_reducible assumption
    | (with_reducible apply Keeps.setQueue)
    | (with_reducible apply Keeps.countFor)
    | (with_reducible apply Keeps.polderFault)
    | (with_reducible apply Keeps.discardHeld)
    | (with_reducible apply Keeps.errorVectors)
    | (with_reducible apply Keeps.setQueue)
    | (with_reducible apply Keeps.ite)
    | exact Keeps.plain hk rfl rfl rfl rfl rfl rfl rfl rfl rfl rfl rfl rfl rfl rfl rfl rfl rfl rfl

theorem Keeps.applyTail {s z : State} (hk : Keeps s z) (fn q idx : Nat) :
    Keeps s (Machine.applyTail fn q idx z) := by
  unfold Machine.applyTail
  repeat' first
    | with_reducible assumption
    | (with_reducible apply Keeps.setQueue)
    | (with_reducible apply Keeps.queueOverrun)
    | (with_reducible apply Keeps.setQueue)
    | (with_reducible apply Keeps.ite)
    | exact Keeps.plain hk rfl rfl rfl rfl rfl rfl rfl rfl rfl rfl rfl rfl rfl rfl rfl rfl rfl rfl

theorem Keeps.takeBell {s z : State} (hk : Keeps s z) (apply : Nat → State → State) (h_apply : ∀ b0 y, Keeps s y → Keeps s (apply b0 y)) (fn q idx : Nat) :
    Keeps s (Machine.takeBell apply fn q idx z) := by
  unfold Machine.takeBell
  repeat' first
    | with_reducible assumption
    | (with_reducible apply h_apply)
    | (with_reducible apply Keeps.setQueue)
    | (with_reducible apply Keeps.setQueue)
    | (with_reducible apply Keeps.ite)
    | exact Keeps.plain hk rfl rfl rfl rfl rfl rfl rfl rfl rfl rfl rfl rfl rfl rfl rfl rfl rfl rfl

theorem Keeps.applyHead {s z : State} (hk : Keeps s z) (fn q idx : Nat) :
    Keeps s (Machine.applyHead fn q idx z) := by
  unfold Machine.applyHead
  repeat' first
    | with_reducible assumption
    | (with_reducible apply Keeps.setQueue)
    | (with_reducible apply Keeps.queueOverrun)
    | (with_reducible apply Keeps.setQueue)
    | (with_reducible apply Keeps.ite)
    | exact Keeps.plain hk rfl rfl rfl rfl rfl rfl rfl rfl rfl rfl rfl rfl rfl rfl rfl rfl rfl rfl

theorem Keeps.doorbell {s z : State} (hk : Keeps s z) (tail : Bool) (apply : Nat → State → State) (h_apply : ∀ b0 y, Keeps s y → Keeps s (apply b0 y)) (fn q v : Nat) :
    Keeps s (Machine.doorbell tail apply fn q v z) := by
  unfold Machine.doorbell
  repeat' first
    | with_reducible assumption
    | (with_reducible apply h_apply)
    | (with_reducible apply Keeps.setQueue)
    | (with_reducible apply Keeps.barMissed)
    | (with_reducible apply Keeps.takeBell)
    | (with_reducible apply Keeps.setQueue)
    | (with_reducible apply Keeps.ite)
    | split
    | exact Keeps.plain hk rfl rfl rfl rfl rfl rfl rfl rfl rfl rfl rfl rfl rfl rfl rfl rfl rfl rfl
    | (with_reducible intro _; try beta_reduce)
    | dsimp only

theorem Keeps.tailDoorbell {s z : State} (hk : Keeps s z) (fn q v : Nat) :
    Keeps s (Machine.tailDoorbell fn q v z) := by
  unfold Machine.tailDoorbell
  repeat' first
    | with_reducible assumption
    | (with_reducible apply Keeps.applyTail)
    | (with_reducible apply Keeps.doorbell)
    | (with_reducible intro _; try beta_reduce)

theorem Keeps.headDoorbell {s z : State} (hk : Keeps s z) (fn q v : Nat) :
    Keeps s (Machine.headDoorbell fn q v z) := by
  unfold Machine.headDoorbell
  repeat' first
    | with_reducible assumption
    | (with_reducible apply Keeps.applyHead)
    | (with_reducible apply Keeps.doorbell)
    | (with_reducible intro _; try beta_reduce)

theorem Keeps.resumeQueue {s z : State} (hk : Keeps s z) (fn q : Nat) :
    Keeps s (Machine.resumeQueue fn q z) := by
  unfold Machine.resumeQueue
  repeat' first
    | with_reducible assumption
    | (with_reducible apply Keeps.setQueue)
    | (with_reducible apply Keeps.applyTail)
    | (with_reducible apply Keeps.applyHead)
    | (with_reducible apply Keeps.setQueue)
    | (with_reducible apply Keeps.ite)
    | split
    | exact Keeps.plain hk rfl rfl rfl rfl rfl rfl rfl rfl rfl rfl rfl rfl rfl rfl rfl rfl rfl rfl
    | dsimp only

theorem Keeps.chainChecked {s z : State} (hk : Keeps s z) (fn q first : Nat) (chain : List Bytes) (next : State → State) (h_next : ∀ y, Keeps s y → Keeps s (next y)) :
    Keeps s (Machine.chainChecked fn q first chain next z) := by
  unfold Machine.chainChecked
  repeat' first
    | with_reducible assumption
    | (with_reducible apply h_next)
    | (with_reducible apply Keeps.malformed)
    | split
    | dsimp only

theorem Keeps.takeEntry {s z : State} (hk : Keeps s z) (fn q idx : Nat) (e : Bytes) :
    Keeps s (Machine.takeEntry fn q idx e z) := by
  unfold Machine.takeEntry
  repeat' first
    | with_reducible assumption
    | (with_reducible apply Keeps.setQueue)
    | (with_reducible apply Keeps.malformed)
    | (with_reducible apply Keeps.commandComes)
    | (with_reducible apply Keeps.chainChecked)
    | (with_reducible apply Keeps.setQueue)
    | (with_reducible apply Keeps.ite)
    | exact Keeps.plain hk rfl rfl rfl rfl rfl rfl rfl rfl rfl rfl rfl rfl rfl rfl rfl rfl rfl rfl
    | (with_reducible intro _; try beta_reduce)

theorem Keeps.takeEntries {s z : State} (hk : Keeps s z) (fn q : Nat) (a0 : List Bytes) :
    Keeps s (Machine.takeEntries fn q a0 z) := by
  induction a0 generalizing z with
  | nil => exact hk
  | cons hd tl ih =>
    unfold Machine.takeEntries
    try dsimp only
    repeat' first
      | with_reducible assumption
      | (with_reducible apply ih)
      | (with_reducible apply Keeps.setQueue)
      | (with_reducible apply Keeps.takeEntry)
      | (with_reducible apply Keeps.setQueue)
      | split
      | exact Keeps.plain hk rfl rfl rfl rfl rfl rfl rfl rfl rfl rfl rfl rfl rfl rfl rfl rfl rfl rfl
      | dsimp only

theorem Keeps.journalWaits {s z : State} (hk : Keeps s z) (fn q : Nat) :
    Keeps s (Machine.journalWaits fn q z) := by
  unfold Machine.journalWaits
  repeat' first
    | with_reducible assumption
    | (with_reducible apply Keeps.setQueue)
    | (with_reducible apply Keeps.journalHold)
    | (with_reducible apply Keeps.setQueue)
    | (with_reducible apply Keeps.ite)
    | exact Keeps.plain hk rfl rfl rfl rfl rfl rfl rfl rfl rfl rfl rfl rfl rfl rfl rfl rfl rfl rfl

theorem Keeps.takeTurn {s z : State} (hk : Keeps s z) (fn q : Nat) : Keeps s (Machine.takeTurn fn q z) :=
  hk.upd rfl rfl rfl id

theorem Keeps.entriesBack {s z : State} (hk : Keeps s z) (fn q : Nat) (n : Nat) (b : Bytes) :
    Keeps s (Machine.entriesBack fn q n b z) := by
  unfold Machine.entriesBack
  repeat' first
    | with_reducible assumption
    | (with_reducible apply Keeps.takeEntries)
    | (with_reducible apply Keeps.journalWaits)

theorem Keeps.entryFetch {s z : State} (hk : Keeps s z) (fn q count : Nat) (entries : Option (List Bytes)) :
    Keeps s (Machine.entryFetch fn q count entries z) := by
  unfold Machine.entryFetch
  repeat' first
    | with_reducible assumption
    | (with_reducible apply Keeps.setQueue)
    | (with_reducible apply Keeps.count)
    | (with_reducible apply Keeps.startReads)
    | (with_reducible apply Keeps.refuseRequest)
    | (with_reducible apply Keeps.takeTurn)
    | (with_reducible apply Keeps.entriesBack)
    | (with_reducible apply Keeps.setQueue)
    | (with_reducible apply Keeps.ite)
    | (refine Keeps.readNow ?_ (by assumption))
    | split
    | exact Keeps.plain hk rfl rfl rfl rfl rfl rfl rfl rfl rfl rfl rfl rfl rfl rfl rfl rfl rfl rfl
    | dsimp only

theorem Keeps.heldRelease {s z : State} (hk : Keeps s z) (fn q : Nat) :
    Keeps s (Machine.heldRelease fn q z) := by
  unfold Machine.heldRelease
  repeat' first
    | with_reducible assumption
    | (with_reducible apply Keeps.drainEnd)
    | (with_reducible apply Keeps.releaseWaiting)
    | (with_reducible apply Keeps.journalHold)
    | (with_reducible apply Keeps.resumeQueue)
    | (with_reducible apply Keeps.ite)

theorem Keeps.modTimer {s z : State} (hk : Keeps s z) (t fn q : Nat) :
    Keeps s (Machine.modTimer t fn q z) := by
  unfold Machine.modTimer
  repeat' first
    | with_reducible assumption
    | (with_reducible apply Keeps.setQueue)
    | (with_reducible apply Keeps.signal)
    | (with_reducible apply Keeps.setQueue)
    | (with_reducible apply Keeps.ite)
    | split
    | exact Keeps.plain hk rfl rfl rfl rfl rfl rfl rfl rfl rfl rfl rfl rfl rfl rfl rfl rfl rfl rfl
    | dsimp only

theorem Keeps.txReady {s z : State} (hk : Keeps s z) (fn q : Nat) (ch : Chain) (b : Bytes) :
    Keeps s (Machine.txReady fn q ch b z) := by
  unfold Machine.txReady
  repeat' first
    | with_reducible assumption
    | (with_reducible apply Keeps.updChain)
    | (with_reducible apply Keeps.htxWait)
    | exact Keeps.plain hk rfl rfl rfl rfl rfl rfl rfl rfl rfl rfl rfl rfl rfl rfl rfl rfl rfl rfl

theorem Keeps.txFrame {s z : State} (hk : Keeps s z) (fn q : Nat) (h : HostData) :
    Keeps s (Machine.txFrame fn q h z) := by
  unfold Machine.txFrame
  repeat' first
    | with_reducible assumption
    | (with_reducible apply Keeps.finishChain)
    | (with_reducible apply Keeps.hostOp)
    | (with_reducible apply Keeps.txReady)
    | (with_reducible apply Keeps.ite)
    | (with_reducible apply Keeps.ite_fst)
    | (with_reducible apply Keeps.ite_snd)
    | split
    | (with_reducible intro _; try beta_reduce)
    | dsimp only

theorem Keeps.rxBuf {s z : State} (hk : Keeps s z) (fn q : Nat) :
    Keeps s (Machine.rxBuf fn q z) := by
  unfold Machine.rxBuf
  repeat' first
    | with_reducible assumption
    | (with_reducible apply Keeps.setQueue)
    | (with_reducible apply Keeps.updChain)
    | (with_reducible apply Keeps.setQueue)
    | (with_reducible apply Keeps.ite)
    | split
    | exact Keeps.plain hk rfl rfl rfl rfl rfl rfl rfl rfl rfl rfl rfl rfl rfl rfl rfl rfl rfl rfl
    | dsimp only

theorem Keeps.fillBuffers {s z : State} (hk : Keeps s z) (fn q : Nat) (h : HFrame) (first : Bool)
    (l : List (Nat × Bytes)) (b : Bytes) : Keeps s (Machine.fillBuffers fn q h first l b z) := by
  induction l generalizing z first b with
  | nil => exact hk
  | cons e rest ih =>
    obtain ⟨idx, e⟩ := e
    unfold Machine.fillBuffers
    dsimp only
    have k1 := hk.queueWrite fn q idx (eAddr e) [e] (b.take (min (eLength e) b.length))
    refine Keeps.ite ?_ (ih (Keeps.finishChain ?_ _ _ _ _ _) _ _) <;>
      exact Keeps.ite k1 (k1.queueWrite _ _ _ _ _ _)

theorem Keeps.deliveryFault {s z : State} (hk : Keeps s z) (h : HFrame) (fault : BufFault) :
    Keeps s (Machine.deliveryFault h fault z).2 := by
  unfold Machine.deliveryFault
  repeat' first
    | with_reducible assumption
    | (with_reducible apply Keeps.cellFault)
    | split
    | dsimp only

theorem Keeps.leaveHold {s z : State} (hk : Keeps s z) (fn q : Nat) (h : HFrame) (rest : List HFrame) :
    Keeps s (Machine.leaveHold fn q h rest z) := by
  unfold Machine.leaveHold
  repeat' first
    | with_reducible assumption
    | (with_reducible apply Keeps.setQueue)
    | (with_reducible apply Keeps.setHostFrames)
    | (with_reducible apply Keeps.setQueue)
    | (with_reducible apply Keeps.ite)
    | split
    | dsimp only

theorem Keeps.rxDeliver {s z : State} (hk : Keeps s z) (t fn q : Nat) (fault : BufFault) :
    Keeps s (Machine.rxDeliver t fn q fault z) := by
  unfold Machine.rxDeliver
  repeat' first
    | with_reducible assumption
    | (with_reducible apply Keeps.setQueue)
    | (with_reducible apply Keeps.count)
    | (with_reducible apply Keeps.setHostFrames)
    | (with_reducible apply Keeps.dropPlace)
    | (with_reducible apply Keeps.trackHost)
    | (with_reducible apply Keeps.fillBuffers)
    | (with_reducible apply Keeps.deliveryFault)
    | (with_reducible apply Keeps.leaveHold)
    | (with_reducible apply Keeps.setQueue)
    | (with_reducible apply Keeps.ite)
    | (with_reducible apply Keeps.ite_fst)
    | (with_reducible apply Keeps.ite_snd)
    | split
    | exact Keeps.plain hk rfl rfl rfl rfl rfl rfl rfl rfl rfl rfl rfl rfl rfl rfl rfl rfl rfl rfl
    | dsimp only

end Sys2Proof.Machine
end

