-- ==== Sys2Proof/Laws/KeepsEndpoint.lean ====
section
/-! SUPPORT. What the operations of Machine/Endpoint.lean keep. -/

namespace Sys2Proof.Machine
open Sys2Proof

theorem Keeps.filterQueues {s z : State} (hk : Keeps s z) (p : Nat × Queue → Bool) :
    Keeps s { z with wq := { z.wq with queues := z.wq.queues.filter p } } :=
  hk.upd rfl rfl rfl (fun ⟨a, b, c, d, e, g, i, j, l, m, n, r⟩ =>
    ⟨a, b, c, d, e, g, i, j, l, m, Tab.wf_filter p n, r⟩)

theorem Keeps.aerSet {s z : State} (hk : Keeps s z) (fn bit : Nat) :
    Keeps s (Machine.aerSet fn bit z) := by
  unfold Machine.aerSet
  repeat' first
    | with_reducible assumption
    | (with_reducible apply Keeps.setFunc)
    | (with_reducible apply Keeps.setFunc)

theorem Keeps.aerAdvise {s z : State} (hk : Keeps s z) (fn bit : Nat) :
    Keeps s (Machine.aerAdvise fn bit z) := by
  unfold Machine.aerAdvise
  repeat' first
    | with_reducible assumption
    | (with_reducible apply Keeps.setFunc)
    | (with_reducible apply Keeps.aerSet)
    | (with_reducible apply Keeps.setFunc)

theorem Keeps.tagDone {s z : State} (hk : Keeps s z) (tag : Nat) :
    Keeps s (Machine.tagDone tag z) := by
  unfold Machine.tagDone
  repeat' first
    | with_reducible assumption
    | ((with_reducible refine Keeps.modEp ?_ ?_) <;> [skip; (generalize State.ep _ = b; exact fun h => h)])
    | ((with_reducible refine Keeps.modEp ?_ ?_) <;> [skip; (intro h; unfold EndpointForm at h ⊢; simp_all [Tab.wf_set, Tab.wf_upd, Tab.wf_filter, Tab.wf_ite])])
    | exact Keeps.plain hk rfl rfl rfl rfl rfl rfl rfl rfl rfl rfl rfl rfl rfl rfl rfl rfl rfl rfl

theorem Keeps.endRead {s z : State} (hk : Keeps s z) (tag : Nat) :
    Keeps s (Machine.endRead tag z) := by
  unfold Machine.endRead
  repeat' first
    | with_reducible assumption
    | (with_reducible apply Keeps.tagDone)
    | ((with_reducible refine Keeps.modEp ?_ ?_) <;> [skip; (generalize State.ep _ = b; exact fun h => h)])
    | ((with_reducible refine Keeps.modEp ?_ ?_) <;> [skip; (intro h; unfold EndpointForm at h ⊢; simp_all [Tab.wf_set, Tab.wf_upd, Tab.wf_filter, Tab.wf_ite])])
    | exact Keeps.plain hk rfl rfl rfl rfl rfl rfl rfl rfl rfl rfl rfl rfl rfl rfl rfl rfl rfl rfl

theorem Keeps.keepRead {s z : State} (hk : Keeps s z) (tag : Nat) (data : Bytes) :
    Keeps s (Machine.keepRead tag data z) := by
  unfold Machine.keepRead
  repeat' first
    | with_reducible assumption
    | (with_reducible apply Keeps.tagDone)
    | ((with_reducible refine Keeps.modEp ?_ ?_) <;> [skip; (generalize State.ep _ = b; exact fun h => h)])
    | ((with_reducible refine Keeps.modEp ?_ ?_) <;> [skip; (intro h; unfold EndpointForm at h ⊢; simp_all [Tab.wf_set, Tab.wf_upd, Tab.wf_filter, Tab.wf_ite])])
    | ((with_reducible refine Keeps.modEp ?_ ?_) <;> [skip; (intro h; unfold EndpointForm at h ⊢; split <;> simp_all [Tab.wf_set, Tab.wf_upd, Tab.wf_filter, Tab.wf_ite])])
    | (with_reducible apply Keeps.ite)
    | exact Keeps.plain hk rfl rfl rfl rfl rfl rfl rfl rfl rfl rfl rfl rfl rfl rfl rfl rfl rfl rfl

theorem Keeps.quarantineTag {s z : State} (hk : Keeps s z) (t fn tag : Nat) :
    Keeps s (Machine.quarantineTag t fn tag z) := by
  unfold Machine.quarantineTag
  repeat' first
    | with_reducible assumption
    | (with_reducible apply Keeps.countEv)
    | ((with_reducible refine Keeps.modEp ?_ ?_) <;> [skip; (generalize State.ep _ = b; exact fun h => h)])
    | ((with_reducible refine Keeps.modEp ?_ ?_) <;> [skip; (intro h; unfold EndpointForm at h ⊢; simp_all [Tab.wf_set, Tab.wf_upd, Tab.wf_filter, Tab.wf_ite])])
    | exact Keeps.plain hk rfl rfl rfl rfl rfl rfl rfl rfl rfl rfl rfl rfl rfl rfl rfl rfl rfl rfl

theorem Keeps.squashReads {s z : State} (hk : Keeps s z) (t fn : Nat) :
    Keeps s (Machine.squashReads t fn z) := by
  unfold Machine.squashReads
  repeat' first
    | with_reducible assumption
    | (with_reducible apply Keeps.endRead)
    | (with_reducible apply Keeps.quarantineTag)
    | ((with_reducible refine Keeps.modEp ?_ ?_) <;> [skip; (generalize State.ep _ = b; exact fun h => h)])
    | (with_reducible refine Keeps.forEach _ (fun _ _ _ => ?_) ?_)
    | ((with_reducible refine Keeps.modEp ?_ ?_) <;> [skip; (intro h; unfold EndpointForm at h ⊢; simp_all [Tab.wf_set, Tab.wf_upd, Tab.wf_filter, Tab.wf_ite])])
    | split
    | exact Keeps.plain hk rfl rfl rfl rfl rfl rfl rfl rfl rfl rfl rfl rfl rfl rfl rfl rfl rfl rfl
    | dsimp only

theorem Keeps.readFailed {s z : State} (hk : Keeps s z) (r : Read) (status : Nat) :
    Keeps s (Machine.readFailed r status z) := by
  unfold Machine.readFailed
  repeat' first
    | with_reducible assumption
    | (with_reducible apply Keeps.setQueue)
    | (with_reducible apply Keeps.dropReads)
    | (with_reducible apply Keeps.queueError)
    | (with_reducible apply Keeps.eraseMsg)
    | (with_reducible apply Keeps.setQueue)
    | (with_reducible apply Keeps.ite)
    | (with_reducible apply Keeps.ite_fst)
    | (with_reducible apply Keeps.ite_snd)
    | split
    | dsimp only

theorem Keeps.completionTimeout {s z : State} (hk : Keeps s z) (t tag : Nat) :
    Keeps s (Machine.completionTimeout t tag z) := by
  unfold Machine.completionTimeout
  repeat' first
    | with_reducible assumption
    | (with_reducible apply Keeps.raise)
    | (with_reducible apply Keeps.count)
    | (with_reducible apply Keeps.issueParts)
    | (with_reducible apply Keeps.aerSet)
    | (with_reducible apply Keeps.endRead)
    | (with_reducible apply Keeps.quarantineTag)
    | (with_reducible apply Keeps.readFailed)
    | (with_reducible apply Keeps.ite)
    | split
    | dsimp only

theorem Keeps.tagQuarantineEnd {s z : State} (hk : Keeps s z) (t tag : Nat) :
    Keeps s (Machine.tagQuarantineEnd t tag z) := by
  unfold Machine.tagQuarantineEnd
  repeat' first
    | with_reducible assumption
    | ((with_reducible refine Keeps.modEp ?_ ?_) <;> [skip; (generalize State.ep _ = b; exact fun h => h)])
    | ((with_reducible refine Keeps.modEp ?_ ?_) <;> [skip; (intro h; unfold EndpointForm at h ⊢; simp_all [Tab.wf_set, Tab.wf_upd, Tab.wf_filter, Tab.wf_ite])])
    | exact Keeps.plain hk rfl rfl rfl rfl rfl rfl rfl rfl rfl rfl rfl rfl rfl rfl rfl rfl rfl rfl

theorem Keeps.lateCompletion {s z : State} (hk : Keeps s z) (tag : Nat) :
    Keeps s (Machine.lateCompletion tag z) := by
  unfold Machine.lateCompletion
  repeat' first
    | with_reducible assumption
    | (with_reducible apply Keeps.count)
    | (with_reducible apply Keeps.aerAdvise)
    | ((with_reducible refine Keeps.modEp ?_ ?_) <;> [skip; (generalize State.ep _ = b; exact fun h => h)])
    | ((with_reducible refine Keeps.modEp ?_ ?_) <;> [skip; (intro h; unfold EndpointForm at h ⊢; simp_all [Tab.wf_set, Tab.wf_upd, Tab.wf_filter, Tab.wf_ite])])
    | exact Keeps.plain hk rfl rfl rfl rfl rfl rfl rfl rfl rfl rfl rfl rfl rfl rfl rfl rfl rfl rfl

theorem Keeps.dataBack {s z : State} (hk : Keeps s z) (t fn q first : Nat) (b : Bytes) :
    Keeps s (Machine.dataBack t fn q first b z) := by
  unfold Machine.dataBack
  repeat' first
    | with_reducible assumption
    | (with_reducible apply Keeps.cipherBack)
    | (with_reducible apply Keeps.siphonWriteOp)
    | (with_reducible apply Keeps.siphonWriteImmOp)
    | (with_reducible apply Keeps.siphonReadOp)
    | (with_reducible apply Keeps.jcmdSendOp)
    | (with_reducible apply Keeps.channelModifyOp)
    | (with_reducible apply Keeps.regionRegisterOp)
    | (with_reducible apply Keeps.journalWriteOp)
    | (with_reducible apply Keeps.txFrame)
    | (with_reducible apply Keeps.ite)
    | split
    | dsimp only

theorem Keeps.readsDone {s z : State} (hk : Keeps s z) (t : Nat) (r : Read) :
    Keeps s (Machine.readsDone t r z) := by
  unfold Machine.readsDone
  repeat' first
    | with_reducible assumption
    | (with_reducible apply Keeps.setQueue)
    | (with_reducible apply Keeps.dmaBytesRead)
    | (with_reducible apply Keeps.dropReads)
    | (with_reducible apply Keeps.entriesBack)
    | (with_reducible apply Keeps.dataBack)
    | (with_reducible apply Keeps.setQueue)
    | (with_reducible apply Keeps.ite)
    | split
    | dsimp only

theorem Keeps.completionReceive {s z : State} (hk : Keeps s z) (t tag : Nat) (status : CplStatus) (data : Bytes) :
    Keeps s (Machine.completionReceive t tag status data z) := by
  unfold Machine.completionReceive
  repeat' first
    | with_reducible assumption
    | (with_reducible apply Keeps.count)
    | (with_reducible apply Keeps.issueParts)
    | (with_reducible apply Keeps.malformed)
    | (with_reducible apply Keeps.aerSet)
    | (with_reducible apply Keeps.aerAdvise)
    | (with_reducible apply Keeps.endRead)
    | (with_reducible apply Keeps.keepRead)
    | (with_reducible apply Keeps.readFailed)
    | (with_reducible apply Keeps.lateCompletion)
    | (with_reducible apply Keeps.readsDone)
    | (with_reducible apply Keeps.ite)
    | split
    | dsimp only

theorem Keeps.msixFlush {s z : State} (hk : Keeps s z) (fn : Nat) :
    Keeps s (Machine.msixFlush fn z) := by
  unfold Machine.msixFlush
  repeat' first
    | with_reducible assumption
    | (with_reducible apply Keeps.setMsix)
    | (with_reducible apply Keeps.signal)
    | (with_reducible apply Keeps.setMsix)
    | (with_reducible apply Keeps.ite)
    | (with_reducible apply Keeps.ite_fst)
    | (with_reducible apply Keeps.ite_snd)
    | (with_reducible refine Keeps.foldl _ (fun _ _ _ => ?_) ?_)
    | (with_reducible refine Keeps.foldl_fst _ (fun _ _ _ => ?_) ?_)
    | (with_reducible refine Keeps.foldl_snd _ (fun _ _ _ => ?_) ?_)
    | exact Keeps.plain hk rfl rfl rfl rfl rfl rfl rfl rfl rfl rfl rfl rfl rfl rfl rfl rfl rfl rfl

theorem Keeps.msixUnmask {s z : State} (hk : Keeps s z) (fn v : Nat) :
    Keeps s (Machine.msixUnmask fn v z) := by
  unfold Machine.msixUnmask
  repeat' first
    | with_reducible assumption
    | (with_reducible apply Keeps.setMsix)
    | (with_reducible apply Keeps.barMissed)
    | (with_reducible apply Keeps.msixFlush)
    | (with_reducible apply Keeps.setMsix)
    | (with_reducible apply Keeps.ite)

theorem Keeps.msixEnableSet {s z : State} (hk : Keeps s z) (fn : Nat) (v : Bool) :
    Keeps s (Machine.msixEnableSet fn v z) := by
  unfold Machine.msixEnableSet
  repeat' first
    | with_reducible assumption
    | (with_reducible apply Keeps.setFunc)
    | (with_reducible apply Keeps.intxEval)
    | (with_reducible apply Keeps.msixFlush)
    | (with_reducible apply Keeps.setFunc)

theorem Keeps.intDisableSet {s z : State} (hk : Keeps s z) (v : Bool) :
    Keeps s (Machine.intDisableSet v z) := by
  unfold Machine.intDisableSet
  repeat' first
    | with_reducible assumption
    | (with_reducible apply Keeps.setFunc)
    | (with_reducible apply Keeps.intxEval)
    | (with_reducible apply Keeps.setFunc)

theorem Keeps.discardAllHeld {s z : State} (hk : Keeps s z) (fn : Nat) :
    Keeps s (Machine.discardAllHeld fn z) := by
  unfold Machine.discardAllHeld
  repeat' first
    | with_reducible assumption
    | (with_reducible apply Keeps.discardHeld)
    | (with_reducible refine Keeps.forEach _ (fun _ _ _ => ?_) ?_)

theorem Keeps.busMasterOff {s z : State} (hk : Keeps s z) (fn : Nat) :
    Keeps s (Machine.busMasterOff fn z) := by
  unfold Machine.busMasterOff
  repeat' first
    | with_reducible assumption
    | (with_reducible apply Keeps.setFunc)
    | (with_reducible apply Keeps.dropReads)
    | (with_reducible apply Keeps.queueMasterOff)
    | (with_reducible apply Keeps.cipherDrop)
    | (with_reducible apply Keeps.siphonEnd)
    | (with_reducible apply Keeps.journalEnd)
    | (with_reducible apply Keeps.detachTx)
    | (with_reducible apply Keeps.discardAllHeld)
    | (with_reducible refine Keeps.forEach _ (fun _ _ _ => ?_) ?_)
    | (with_reducible apply Keeps.setFunc)
    | (with_reducible apply Keeps.ite)

theorem Keeps.busMasterOn {s z : State} (hk : Keeps s z) (fn : Nat) :
    Keeps s (Machine.busMasterOn fn z) := by
  unfold Machine.busMasterOn
  repeat' first
    | with_reducible assumption
    | (with_reducible apply Keeps.setFunc)
    | (with_reducible apply Keeps.msixFlush)
    | (with_reducible apply Keeps.setFunc)

theorem Keeps.endWork {s z : State} (hk : Keeps s z) (t fn : Nat) :
    Keeps s (Machine.endWork t fn z) := by
  unfold Machine.endWork
  repeat' first
    | with_reducible assumption
    | (with_reducible apply Keeps.filterQueues)
    | (with_reducible apply Keeps.setPage)
    | (with_reducible apply Keeps.cipherDrop)
    | (with_reducible apply Keeps.siphonEnd)
    | (with_reducible apply Keeps.siphonRegionsEnd)
    | (with_reducible apply Keeps.journalEnd)
    | (with_reducible apply Keeps.detachTx)
    | (with_reducible apply Keeps.squashReads)
    | (with_reducible apply Keeps.discardAllHeld)
    | (with_reducible apply Keeps.setPage)
    | ((with_reducible refine Keeps.modEp ?_ ?_) <;> [skip; (generalize State.ep _ = b; exact fun h => h)])
    | ((with_reducible refine Keeps.modEp ?_ ?_) <;> [skip; (intro h; unfold EndpointForm at h ⊢; simp_all [Tab.wf_set, Tab.wf_upd, Tab.wf_filter, Tab.wf_ite])])
    | exact Keeps.plain hk rfl rfl rfl rfl rfl rfl rfl rfl rfl rfl rfl rfl rfl rfl rfl rfl rfl rfl

theorem Keeps.mailboxReset {s z : State} (hk : Keeps s z) :
    Keeps s (Machine.mailboxReset z) := by
  unfold Machine.mailboxReset
  repeat' first
    | with_reducible assumption
    | ((with_reducible refine Keeps.modMbx ?_ ?_) <;> [skip; exact fun _ => ⟨rfl, rfl⟩])
    | ((with_reducible refine Keeps.modDict ?_ ?_) <;> [skip; (generalize State.dict _ = b; exact fun h => h)])
    | ((with_reducible refine Keeps.modMbx ?_ ?_) <;> [skip; (generalize State.mbx _ = b; exact fun h => h)])
    | ((with_reducible refine Keeps.modDict ?_ ?_) <;> [skip; (intro h; unfold DictForm at h ⊢; simp_all [Tab.wf_set, Tab.wf_upd, Tab.wf_filter, Tab.wf_ite])])
    | ((with_reducible refine Keeps.modMbx ?_ ?_) <;> [skip; (intro h; unfold MailboxForm at h ⊢; simp_all [Tab.wf_set, Tab.wf_upd, Tab.wf_filter, Tab.wf_ite])])
    | ((with_reducible refine Keeps.modDict ?_ ?_) <;> [skip; (intro h; unfold DictForm at h ⊢; split <;> simp_all [Tab.wf_set, Tab.wf_upd, Tab.wf_filter, Tab.wf_ite])])
    | ((with_reducible refine Keeps.modMbx ?_ ?_) <;> [skip; (intro h; unfold MailboxForm at h ⊢; split <;> simp_all [Tab.wf_set, Tab.wf_upd, Tab.wf_filter, Tab.wf_ite])])
    | (with_reducible apply Keeps.ite)
    | exact Keeps.plain hk rfl rfl rfl rfl rfl rfl rfl rfl rfl rfl rfl rfl rfl rfl rfl rfl rfl rfl

theorem Keeps.tblReset {s z : State} (hk : Keeps s z) :
    Keeps s (Machine.tblReset z) := by
  unfold Machine.tblReset
  repeat' first
    | with_reducible assumption
    | ((with_reducible refine Keeps.modTables ?_ ?_) <;> [skip; (generalize State.tables _ = b; exact fun h => h)])
    | ((with_reducible refine Keeps.modTables ?_ ?_) <;> [skip; (intro h; unfold TablesForm at h ⊢; simp_all [Tab.wf_set, Tab.wf_upd, Tab.wf_filter, Tab.wf_ite])])
    | exact Keeps.plain hk rfl rfl rfl rfl rfl rfl rfl rfl rfl rfl rfl rfl rfl rfl rfl rfl rfl rfl

theorem Keeps.pf0RegsReset {s z : State} (hk : Keeps s z) :
    Keeps s (Machine.pf0RegsReset z) := by
  unfold Machine.pf0RegsReset
  repeat' first
    | with_reducible assumption
    | (with_reducible apply Keeps.mailboxReset)
    | (with_reducible apply Keeps.tblReset)
    | (with_reducible apply Keeps.modBoot)
    | ((with_reducible refine Keeps.modEvt ?_ ?_) <;> [skip; (generalize State.evt _ = b; exact fun h => h)])
    | ((with_reducible refine Keeps.modEvt ?_ ?_) <;> [skip; (intro h; unfold EventsForm at h ⊢; simp_all [Tab.wf_set, Tab.wf_upd, Tab.wf_filter, Tab.wf_ite])])
    | exact Keeps.plain hk rfl rfl rfl rfl rfl rfl rfl rfl rfl rfl rfl rfl rfl rfl rfl rfl rfl rfl

theorem Keeps.endVfs {s z : State} (hk : Keeps s z) (t : Nat) :
    Keeps s (Machine.endVfs t z) := by
  unfold Machine.endVfs
  repeat' first
    | with_reducible assumption
    | (with_reducible apply Keeps.squashReads)
    | (with_reducible apply Keeps.endWork)
    | ((with_reducible refine Keeps.modEp ?_ ?_) <;> [skip; (generalize State.ep _ = b; exact fun h => h)])
    | (with_reducible refine Keeps.forEach _ (fun _ _ _ => ?_) ?_)
    | ((with_reducible refine Keeps.modEp ?_ ?_) <;> [skip; (intro h; unfold EndpointForm at h ⊢; simp_all [Tab.wf_set, Tab.wf_upd, Tab.wf_filter, Tab.wf_ite])])
    | exact Keeps.plain hk rfl rfl rfl rfl rfl rfl rfl rfl rfl rfl rfl rfl rfl rfl rfl rfl rfl rfl

theorem Keeps.flrInitiate {s z : State} (hk : Keeps s z) (t fn : Nat) :
    Keeps s (Machine.flrInitiate t fn z) := by
  unfold Machine.flrInitiate
  repeat' first
    | with_reducible assumption
    | (with_reducible apply Keeps.setFunc)
    | (with_reducible apply Keeps.intxEval)
    | (with_reducible apply Keeps.count)
    | (with_reducible apply Keeps.squashReads)
    | (with_reducible apply Keeps.endWork)
    | (with_reducible apply Keeps.pf0RegsReset)
    | (with_reducible apply Keeps.endVfs)
    | ((with_reducible refine Keeps.modEp ?_ ?_) <;> [skip; (generalize State.ep _ = b; exact fun h => h)])
    | (with_reducible apply Keeps.setFunc)
    | ((with_reducible refine Keeps.modEp ?_ ?_) <;> [skip; (intro h; unfold EndpointForm at h ⊢; simp_all [Tab.wf_set, Tab.wf_upd, Tab.wf_filter, Tab.wf_ite])])
    | ((with_reducible refine Keeps.modEp ?_ ?_) <;> [skip; (intro h; unfold EndpointForm at h ⊢; split <;> simp_all [Tab.wf_set, Tab.wf_upd, Tab.wf_filter, Tab.wf_ite])])
    | (with_reducible apply Keeps.ite)
    | exact Keeps.plain hk rfl rfl rfl rfl rfl rfl rfl rfl rfl rfl rfl rfl rfl rfl rfl rfl rfl rfl

theorem Keeps.flrDrainCap {s z : State} (hk : Keeps s z) (t fn : Nat) :
    Keeps s (Machine.flrDrainCap t fn z) := by
  unfold Machine.flrDrainCap
  repeat' first
    | with_reducible assumption
    | (with_reducible apply Keeps.setFunc)
    | (with_reducible apply Keeps.raise)
    | (with_reducible apply Keeps.count)
    | (with_reducible apply Keeps.polderFault)
    | (with_reducible apply Keeps.drawNat)
    | (with_reducible apply Keeps.setFunc)
    | (with_reducible apply Keeps.ite)
    | (with_reducible apply Keeps.ite_fst)
    | (with_reducible apply Keeps.ite_snd)
    | exact Keeps.plain hk rfl rfl rfl rfl rfl rfl rfl rfl rfl rfl rfl rfl rfl rfl rfl rfl rfl rfl

theorem Keeps.flrComplete {s z : State} (hk : Keeps s z) (fn : Nat) :
    Keeps s (Machine.flrComplete fn z) := by
  unfold Machine.flrComplete
  repeat' first
    | with_reducible assumption
    | (with_reducible apply Keeps.setFunc)
    | (with_reducible apply Keeps.setFunc)
    | (with_reducible apply Keeps.ite)
    | exact Keeps.plain hk rfl rfl rfl rfl rfl rfl rfl rfl rfl rfl rfl rfl rfl rfl rfl rfl rfl rfl

theorem Keeps.hostSideEnd {s z : State} (hk : Keeps s z) (t : Nat) :
    Keeps s (Machine.hostSideEnd t z) := by
  unfold Machine.hostSideEnd
  repeat' first
    | with_reducible assumption
    | (with_reducible apply Keeps.squashReads)
    | (with_reducible apply Keeps.endWork)
    | (with_reducible apply Keeps.pf0RegsReset)
    | ((with_reducible refine Keeps.modEp ?_ ?_) <;> [skip; (generalize State.ep _ = b; exact fun h => h)])
    | (with_reducible refine Keeps.forEach _ (fun _ _ _ => ?_) ?_)
    | ((with_reducible refine Keeps.modSched ?_ ?_) <;> [skip; (generalize State.sched _ = b; exact fun h => h)])
    | ((with_reducible refine Keeps.modEp ?_ ?_) <;> [skip; (intro h; unfold EndpointForm at h ⊢; simp_all [Tab.wf_set, Tab.wf_upd, Tab.wf_filter, Tab.wf_ite])])
    | ((with_reducible refine Keeps.modSched ?_ ?_) <;> [skip; (intro h; unfold SchedForm at h ⊢; simp_all [Tab.wf_set, Tab.wf_upd, Tab.wf_filter, Tab.wf_ite])])
    | exact Keeps.plain hk rfl rfl rfl rfl rfl rfl rfl rfl rfl rfl rfl rfl rfl rfl rfl rfl rfl rfl

theorem Keeps.linkLost {s z : State} (hk : Keeps s z) :
    Keeps s (Machine.linkLost z) := by
  unfold Machine.linkLost
  repeat' first
    | with_reducible assumption
    | (with_reducible apply Keeps.raise)
    | ((with_reducible refine Keeps.modEp ?_ ?_) <;> [skip; (generalize State.ep _ = b; exact fun h => h)])
    | ((with_reducible refine Keeps.modEp ?_ ?_) <;> [skip; (intro h; unfold EndpointForm at h ⊢; simp_all [Tab.wf_set, Tab.wf_upd, Tab.wf_filter, Tab.wf_ite])])
    | ((with_reducible refine Keeps.modEp ?_ ?_) <;> [skip; (intro h; unfold EndpointForm at h ⊢; split <;> simp_all [Tab.wf_set, Tab.wf_upd, Tab.wf_filter, Tab.wf_ite])])
    | (with_reducible apply Keeps.ite)
    | exact Keeps.plain hk rfl rfl rfl rfl rfl rfl rfl rfl rfl rfl rfl rfl rfl rfl rfl rfl rfl rfl

theorem Keeps.hotReset {s z : State} (hk : Keeps s z) (t : Nat) :
    Keeps s (Machine.hotReset t z) := by
  unfold Machine.hotReset
  repeat' first
    | with_reducible assumption
    | (with_reducible apply Keeps.count)
    | (with_reducible apply Keeps.hostSideEnd)
    | ((with_reducible refine Keeps.modEp ?_ ?_) <;> [skip; (generalize State.ep _ = b; exact fun h => h)])
    | ((with_reducible refine Keeps.modEp ?_ ?_) <;> [skip; (intro h; unfold EndpointForm at h ⊢; simp_all [Tab.wf_set, Tab.wf_upd, Tab.wf_filter, Tab.wf_ite])])
    | ((with_reducible refine Keeps.modEp ?_ ?_) <;> [skip; (intro h; unfold EndpointForm at h ⊢; split <;> simp_all [Tab.wf_set, Tab.wf_upd, Tab.wf_filter, Tab.wf_ite])])
    | (with_reducible apply Keeps.ite)
    | exact Keeps.plain hk rfl rfl rfl rfl rfl rfl rfl rfl rfl rfl rfl rfl rfl rfl rfl rfl rfl rfl

theorem Keeps.linkDown {s z : State} (hk : Keeps s z) (t : Nat) :
    Keeps s (Machine.linkDown t z) := by
  unfold Machine.linkDown
  repeat' first
    | with_reducible assumption
    | (with_reducible apply Keeps.count)
    | (with_reducible apply Keeps.hostSideEnd)
    | (with_reducible apply Keeps.linkLost)
    | ((with_reducible refine Keeps.modEp ?_ ?_) <;> [skip; (generalize State.ep _ = b; exact fun h => h)])
    | ((with_reducible refine Keeps.modEp ?_ ?_) <;> [skip; (intro h; unfold EndpointForm at h ⊢; simp_all [Tab.wf_set, Tab.wf_upd, Tab.wf_filter, Tab.wf_ite])])
    | ((with_reducible refine Keeps.modEp ?_ ?_) <;> [skip; (intro h; unfold EndpointForm at h ⊢; split <;> simp_all [Tab.wf_set, Tab.wf_upd, Tab.wf_filter, Tab.wf_ite])])
    | (with_reducible apply Keeps.ite)
    | exact Keeps.plain hk rfl rfl rfl rfl rfl rfl rfl rfl rfl rfl rfl rfl rfl rfl rfl rfl rfl rfl

theorem Keeps.linkUp {s z : State} (hk : Keeps s z) (speed width : Nat) (flit : Bool) :
    Keeps s (Machine.linkUp speed width flit z) := by
  unfold Machine.linkUp
  repeat' first
    | with_reducible assumption
    | (with_reducible apply Keeps.intxEval)
    | (with_reducible apply Keeps.raise)
    | ((with_reducible refine Keeps.modEp ?_ ?_) <;> [skip; (generalize State.ep _ = b; exact fun h => h)])
    | ((with_reducible refine Keeps.modEp ?_ ?_) <;> [skip; (intro h; unfold EndpointForm at h ⊢; simp_all [Tab.wf_set, Tab.wf_upd, Tab.wf_filter, Tab.wf_ite])])
    | ((with_reducible refine Keeps.modEp ?_ ?_) <;> [skip; (intro h; unfold EndpointForm at h ⊢; split <;> simp_all [Tab.wf_set, Tab.wf_upd, Tab.wf_filter, Tab.wf_ite])])
    | (with_reducible apply Keeps.ite)
    | exact Keeps.plain hk rfl rfl rfl rfl rfl rfl rfl rfl rfl rfl rfl rfl rfl rfl rfl rfl rfl rfl

theorem Keeps.powerStateSet {s z : State} (hk : Keeps s z) (fn state : Nat) :
    Keeps s (Machine.powerStateSet fn state z) := by
  unfold Machine.powerStateSet
  repeat' first
    | with_reducible assumption
    | (with_reducible apply Keeps.setFunc)
    | (with_reducible apply Keeps.intxEval)
    | (with_reducible apply Keeps.msixFlush)
    | (with_reducible apply Keeps.discardAllHeld)
    | (with_reducible apply Keeps.setFunc)
    | (with_reducible apply Keeps.ite)

theorem Keeps.vfEnableSet {s z : State} (hk : Keeps s z) (t n : Nat) :
    Keeps s (Machine.vfEnableSet t n z) := by
  unfold Machine.vfEnableSet
  repeat' first
    | with_reducible assumption
    | ((with_reducible refine Keeps.modEp ?_ ?_) <;> [skip; (generalize State.ep _ = b; exact fun h => h)])
    | ((with_reducible refine Keeps.modEp ?_ ?_) <;> [skip; (intro h; unfold EndpointForm at h ⊢; simp_all [Tab.wf_set, Tab.wf_upd, Tab.wf_filter, Tab.wf_ite])])
    | ((with_reducible refine Keeps.modEp ?_ ?_) <;> [skip; (intro h; unfold EndpointForm at h ⊢; split <;> simp_all [Tab.wf_set, Tab.wf_upd, Tab.wf_filter, Tab.wf_ite])])
    | (with_reducible apply Keeps.ite)
    | exact Keeps.plain hk rfl rfl rfl rfl rfl rfl rfl rfl rfl rfl rfl rfl rfl rfl rfl rfl rfl rfl

theorem Keeps.priReset {s z : State} (hk : Keeps s z) (fn : Nat) :
    Keeps s (Machine.priReset fn z) := by
  unfold Machine.priReset
  repeat' first
    | with_reducible assumption
    | (with_reducible apply Keeps.setFunc)
    | (with_reducible apply Keeps.setFunc)

theorem Keeps.cfgFieldWrite {s z : State} (hk : Keeps s z) (t fn : Nat) (x : CfgField) (v : Nat) :
    Keeps s (Machine.cfgFieldWrite t fn x v z) := by
  unfold Machine.cfgFieldWrite
  repeat' first
    | with_reducible assumption
    | (with_reducible apply Keeps.setFunc)
    | (with_reducible apply Keeps.completionTimeout)
    | (with_reducible apply Keeps.msixFlush)
    | (with_reducible apply Keeps.msixEnableSet)
    | (with_reducible apply Keeps.busMasterOff)
    | (with_reducible apply Keeps.busMasterOn)
    | (with_reducible apply Keeps.endVfs)
    | (with_reducible apply Keeps.powerStateSet)
    | (with_reducible apply Keeps.vfEnableSet)
    | (with_reducible apply Keeps.priReset)
    | ((with_reducible refine Keeps.modEp ?_ ?_) <;> [skip; (generalize State.ep _ = b; exact fun h => h)])
    | (with_reducible apply Keeps.setFunc)
    | ((with_reducible refine Keeps.modEp ?_ ?_) <;> [skip; (intro h; unfold EndpointForm at h ⊢; simp_all [Tab.wf_set, Tab.wf_upd, Tab.wf_filter, Tab.wf_ite])])
    | ((with_reducible refine Keeps.modEp ?_ ?_) <;> [skip; (intro h; unfold EndpointForm at h ⊢; split <;> simp_all [Tab.wf_set, Tab.wf_upd, Tab.wf_filter, Tab.wf_ite])])
    | (with_reducible apply Keeps.ite)
    | split
    | exact Keeps.plain hk rfl rfl rfl rfl rfl rfl rfl rfl rfl rfl rfl rfl rfl rfl rfl rfl rfl rfl
    | dsimp only

theorem Keeps.vfSettle {s z : State} (hk : Keeps s z) (t fn : Nat) :
    Keeps s (Machine.vfSettle t fn z) := by
  unfold Machine.vfSettle
  repeat' first
    | with_reducible assumption
    | (with_reducible apply Keeps.setFunc)
    | (with_reducible apply Keeps.setFunc)
    | (with_reducible apply Keeps.drawBool)
    | (with_reducible apply Keeps.ite)
    | (with_reducible apply Keeps.ite_fst)
    | (with_reducible apply Keeps.ite_snd)
    | exact Keeps.plain hk rfl rfl rfl rfl rfl rfl rfl rfl rfl rfl rfl rfl rfl rfl rfl rfl rfl rfl

theorem Keeps.configRequest {s z : State} (hk : Keeps s z) (t fn : Nat) (x : CfgField) (w : Option Nat) :
    Keeps s (Machine.configRequest t fn x w z) := by
  unfold Machine.configRequest
  repeat' first
    | with_reducible assumption
    | (with_reducible apply Keeps.cfgFieldWrite)
    | (with_reducible apply Keeps.vfSettle)
    | (with_reducible apply Keeps.emit)
    | (with_reducible apply Keeps.ite)
    | split
    | dsimp only

theorem Keeps.translationFailed {s z : State} (hk : Keeps s z) (fn q : Nat) :
    Keeps s (Machine.translationFailed fn q z) := by
  unfold Machine.translationFailed
  repeat' first
    | with_reducible assumption
    | (with_reducible apply Keeps.queueError)

theorem Keeps.sendPageReq {s z : State} (hk : Keeps s z) (t fn : Nat) :
    Keeps s (Machine.sendPageReq t fn z) := by
  unfold Machine.sendPageReq
  repeat' first
    | with_reducible assumption
    | (with_reducible apply Keeps.count)
    | ((with_reducible refine Keeps.modEp ?_ ?_) <;> [skip; (generalize State.ep _ = b; exact fun h => h)])
    | (with_reducible apply Keeps.emit)
    | ((with_reducible refine Keeps.modEp ?_ ?_) <;> [skip; (intro h; unfold EndpointForm at h ⊢; simp_all [Tab.wf_set, Tab.wf_upd, Tab.wf_filter, Tab.wf_ite])])
    | ((with_reducible refine Keeps.modEp ?_ ?_) <;> [skip; (intro h; unfold EndpointForm at h ⊢; split <;> simp_all [Tab.wf_set, Tab.wf_upd, Tab.wf_filter, Tab.wf_ite])])
    | (with_reducible apply Keeps.ite)
    | split
    | exact Keeps.plain hk rfl rfl rfl rfl rfl rfl rfl rfl rfl rfl rfl rfl rfl rfl rfl rfl rfl rfl
    | dsimp only

theorem Keeps.parkQueue {s z : State} (hk : Keeps s z) (fn q : Nat) :
    Keeps s (Machine.parkQueue fn q z) := by
  unfold Machine.parkQueue
  repeat' first
    | with_reducible assumption
    | (with_reducible apply Keeps.setQueue)
    | (with_reducible apply Keeps.setQueue)
    | (with_reducible apply Keeps.ite)
    | exact Keeps.plain hk rfl rfl rfl rfl rfl rfl rfl rfl rfl rfl rfl rfl rfl rfl rfl rfl rfl rfl

theorem Keeps.unparkQueue {s z : State} (hk : Keeps s z) (fn q : Nat) :
    Keeps s (Machine.unparkQueue fn q z) := by
  unfold Machine.unparkQueue
  repeat' first
    | with_reducible assumption
    | (with_reducible apply Keeps.setQueue)
    | (with_reducible apply Keeps.journalHold)
    | (with_reducible apply Keeps.resumeQueue)
    | (with_reducible apply Keeps.setQueue)
    | (with_reducible apply Keeps.ite)
    | exact Keeps.plain hk rfl rfl rfl rfl rfl rfl rfl rfl rfl rfl rfl rfl rfl rfl rfl rfl rfl rfl

theorem Keeps.cacheTranslation {s z : State} (hk : Keeps s z) (x : Transl) :
    Keeps s (Machine.cacheTranslation x z) := by
  unfold Machine.cacheTranslation
  repeat' first
    | with_reducible assumption
    | ((with_reducible refine Keeps.modEp ?_ ?_) <;> [skip; (generalize State.ep _ = b; exact fun h => h)])
    | (with_reducible apply Keeps.drawNat)
    | ((with_reducible refine Keeps.modEp ?_ ?_) <;> [skip; (intro h; unfold EndpointForm at h ⊢; simp_all [Tab.wf_set, Tab.wf_upd, Tab.wf_filter, Tab.wf_ite])])
    | ((with_reducible refine Keeps.modEp ?_ ?_) <;> [skip; (intro h; unfold EndpointForm at h ⊢; split <;> simp_all [Tab.wf_set, Tab.wf_upd, Tab.wf_filter, Tab.wf_ite])])
    | (with_reducible apply Keeps.ite)
    | (with_reducible apply Keeps.ite_fst)
    | (with_reducible apply Keeps.ite_snd)
    | exact Keeps.plain hk rfl rfl rfl rfl rfl rfl rfl rfl rfl rfl rfl rfl rfl rfl rfl rfl rfl rfl

theorem Keeps.askAgain {s z : State} (hk : Keeps s z) (w : Requester) (page : Nat) :
    Keeps s (Machine.askAgain w page z) := by
  unfold Machine.askAgain
  repeat' first
    | with_reducible assumption
    | (with_reducible apply Keeps.askPage)

theorem Keeps.translationFault {s z : State} (hk : Keeps s z) (t fn q page : Nat) :
    Keeps s (Machine.translationFault t fn q page z) := by
  unfold Machine.translationFault
  repeat' first
    | with_reducible assumption
    | (with_reducible apply Keeps.raise)
    | (with_reducible apply Keeps.count)
    | (with_reducible apply Keeps.translationFailed)
    | (with_reducible apply Keeps.sendPageReq)
    | (with_reducible apply Keeps.parkQueue)
    | ((with_reducible refine Keeps.modEp ?_ ?_) <;> [skip; (generalize State.ep _ = b; exact fun h => h)])
    | ((with_reducible refine Keeps.modEp ?_ ?_) <;> [skip; (intro h; unfold EndpointForm at h ⊢; simp_all [Tab.wf_set, Tab.wf_upd, Tab.wf_filter, Tab.wf_ite])])
    | ((with_reducible refine Keeps.modEp ?_ ?_) <;> [skip; (intro h; unfold EndpointForm at h ⊢; split <;> simp_all [Tab.wf_set, Tab.wf_upd, Tab.wf_filter, Tab.wf_ite])])
    | (with_reducible apply Keeps.ite)
    | exact Keeps.plain hk rfl rfl rfl rfl rfl rfl rfl rfl rfl rfl rfl rfl rfl rfl rfl rfl rfl rfl

theorem Keeps.translationResponse {s z : State} (hk : Keeps s z) (t fn q page : Nat) (frame : Option Nat) :
    Keeps s (Machine.translationResponse t fn q page frame z) := by
  unfold Machine.translationResponse
  repeat' first
    | with_reducible assumption
    | (with_reducible apply Keeps.raise)
    | (with_reducible apply Keeps.count)
    | (with_reducible apply Keeps.cacheTranslation)
    | (with_reducible apply Keeps.askAgain)
    | (with_reducible apply Keeps.translationFault)
    | ((with_reducible refine Keeps.modEp ?_ ?_) <;> [skip; (generalize State.ep _ = b; exact fun h => h)])
    | ((with_reducible refine Keeps.modEp ?_ ?_) <;> [skip; (intro h; unfold EndpointForm at h ⊢; simp_all [Tab.wf_set, Tab.wf_upd, Tab.wf_filter, Tab.wf_ite])])
    | ((with_reducible refine Keeps.modEp ?_ ?_) <;> [skip; (intro h; unfold EndpointForm at h ⊢; split <;> simp_all [Tab.wf_set, Tab.wf_upd, Tab.wf_filter, Tab.wf_ite])])
    | (with_reducible apply Keeps.ite)
    | (with_reducible apply Keeps.ite_fst)
    | (with_reducible apply Keeps.ite_snd)
    | split
    | exact Keeps.plain hk rfl rfl rfl rfl rfl rfl rfl rfl rfl rfl rfl rfl rfl rfl rfl rfl rfl rfl
    | dsimp only

theorem Keeps.dropPageReq {s z : State} (hk : Keeps s z) (r : PageReq) :
    Keeps s (Machine.dropPageReq r z) := by
  unfold Machine.dropPageReq
  repeat' first
    | with_reducible assumption
    | ((with_reducible refine Keeps.modEp ?_ ?_) <;> [skip; (generalize State.ep _ = b; exact fun h => h)])
    | ((with_reducible refine Keeps.modEp ?_ ?_) <;> [skip; (intro h; unfold EndpointForm at h ⊢; simp_all [Tab.wf_set, Tab.wf_upd, Tab.wf_filter, Tab.wf_ite])])
    | exact Keeps.plain hk rfl rfl rfl rfl rfl rfl rfl rfl rfl rfl rfl rfl rfl rfl rfl rfl rfl rfl

theorem Keeps.prgResponse {s z : State} (hk : Keeps s z) (t fn q : Nat) (code : PrgCode) :
    Keeps s (Machine.prgResponse t fn q code z) := by
  unfold Machine.prgResponse
  repeat' first
    | with_reducible assumption
    | (with_reducible apply Keeps.setFunc)
    | (with_reducible apply Keeps.count)
    | (with_reducible apply Keeps.translationFailed)
    | (with_reducible apply Keeps.sendPageReq)
    | (with_reducible apply Keeps.unparkQueue)
    | (with_reducible apply Keeps.askAgain)
    | (with_reducible apply Keeps.dropPageReq)
    | ((with_reducible refine Keeps.modEp ?_ ?_) <;> [skip; (generalize State.ep _ = b; exact fun h => h)])
    | (with_reducible refine Keeps.forEach _ (fun _ _ _ => ?_) ?_)
    | (with_reducible apply Keeps.setFunc)
    | ((with_reducible refine Keeps.modEp ?_ ?_) <;> [skip; (intro h; unfold EndpointForm at h ⊢; simp_all [Tab.wf_set, Tab.wf_upd, Tab.wf_filter, Tab.wf_ite])])
    | ((with_reducible refine Keeps.modEp ?_ ?_) <;> [skip; (intro h; unfold EndpointForm at h ⊢; split <;> simp_all [Tab.wf_set, Tab.wf_upd, Tab.wf_filter, Tab.wf_ite])])
    | (with_reducible apply Keeps.ite)
    | split
    | exact Keeps.plain hk rfl rfl rfl rfl rfl rfl rfl rfl rfl rfl rfl rfl rfl rfl rfl rfl rfl rfl
    | dsimp only

theorem Keeps.pageRequestTimeout {s z : State} (hk : Keeps s z) (t fn q : Nat) :
    Keeps s (Machine.pageRequestTimeout t fn q z) := by
  unfold Machine.pageRequestTimeout
  repeat' first
    | with_reducible assumption
    | (with_reducible apply Keeps.count)
    | (with_reducible apply Keeps.translationFailed)
    | (with_reducible apply Keeps.sendPageReq)
    | (with_reducible apply Keeps.dropPageReq)
    | (with_reducible apply Keeps.ite)
    | split
    | dsimp only

theorem Keeps.invalidateRequest {s z : State} (hk : Keeps s z) (fn tag pasid page : Nat) :
    Keeps s (Machine.invalidateRequest fn tag pasid page z) := by
  unfold Machine.invalidateRequest
  repeat' first
    | with_reducible assumption
    | ((with_reducible refine Keeps.modEp ?_ ?_) <;> [skip; (generalize State.ep _ = b; exact fun h => h)])
    | ((with_reducible refine Keeps.modEp ?_ ?_) <;> [skip; (intro h; unfold EndpointForm at h ⊢; simp_all [Tab.wf_set, Tab.wf_upd, Tab.wf_filter, Tab.wf_ite])])
    | ((with_reducible refine Keeps.modEp ?_ ?_) <;> [skip; (intro h; unfold EndpointForm at h ⊢; split <;> simp_all [Tab.wf_set, Tab.wf_upd, Tab.wf_filter, Tab.wf_ite])])
    | (with_reducible apply Keeps.ite)
    | exact Keeps.plain hk rfl rfl rfl rfl rfl rfl rfl rfl rfl rfl rfl rfl rfl rfl rfl rfl rfl rfl

theorem Keeps.invalidateComplete {s z : State} (hk : Keeps s z) (fn tag : Nat) :
    Keeps s (Machine.invalidateComplete fn tag z) := by
  unfold Machine.invalidateComplete
  repeat' first
    | with_reducible assumption
    | ((with_reducible refine Keeps.modEp ?_ ?_) <;> [skip; (generalize State.ep _ = b; exact fun h => h)])
    | (with_reducible apply Keeps.emit)
    | ((with_reducible refine Keeps.modEp ?_ ?_) <;> [skip; (intro h; unfold EndpointForm at h ⊢; simp_all [Tab.wf_set, Tab.wf_upd, Tab.wf_filter, Tab.wf_ite])])
    | ((with_reducible refine Keeps.modEp ?_ ?_) <;> [skip; (intro h; unfold EndpointForm at h ⊢; split <;> simp_all [Tab.wf_set, Tab.wf_upd, Tab.wf_filter, Tab.wf_ite])])
    | (with_reducible apply Keeps.ite)
    | exact Keeps.plain hk rfl rfl rfl rfl rfl rfl rfl rfl rfl rfl rfl rfl rfl rfl rfl rfl rfl rfl

end Sys2Proof.Machine
end

