-- ==== Sys2Proof/Laws/KeepsPolders.lean ====
section
/-! SUPPORT. What the operations of Machine/Polders.lean keep. -/

namespace Sys2Proof.Machine
open Sys2Proof

/-- No polder, and host group 0 alone. -/
theorem Keeps.noPolders {s z : State} (hk : Keeps s z) :
    Keeps s { z with polders := { tab := [], faultMap := [], groups := [(0, HostGroup.zero)] } } :=
  hk.upd rfl rfl rfl (fun ⟨a, b, c, d, e, g, i, j, l, _, r⟩ =>
    ⟨a, b, c, d, e, g, i, j, l, ⟨rfl, rfl, rfl⟩, r⟩)

theorem Keeps.noOwners {s z : State} (hk : Keeps s z) :
    Keeps s (Machine.modBuf (fun b => { b with owners := [] }) z) := hk.modBuf (fun ⟨a, _⟩ => ⟨a, rfl⟩)

theorem Keeps.putArea {s z : State} (hk : Keeps s z) (n : Nat) (r : PolderRec) (flash : Bool) :
    Keeps s (Machine.putArea n r flash z) := by
  unfold Machine.putArea
  repeat' first
    | with_reducible assumption
    | (with_reducible apply Keeps.modBoot)
    | (with_reducible apply Keeps.ite)
    | (with_reducible apply Keeps.ite_fst)
    | (with_reducible apply Keeps.ite_snd)
    | exact Keeps.plain hk rfl rfl rfl rfl rfl rfl rfl rfl rfl rfl rfl rfl rfl rfl rfl rfl rfl rfl

theorem Keeps.savePolder {s z : State} (hk : Keeps s z) (n st : Nat) (flash : Bool) :
    Keeps s (Machine.savePolder n st flash z) := by
  unfold Machine.savePolder
  repeat' first
    | with_reducible assumption
    | (with_reducible apply Keeps.putArea)
    | exact Keeps.plain hk rfl rfl rfl rfl rfl rfl rfl rfl rfl rfl rfl rfl rfl rfl rfl rfl rfl rfl

theorem Keeps.writeAreaHdr {s z : State} (hk : Keeps s z) (floor : Nat) (ident : Bytes) :
    Keeps s (Machine.writeAreaHdr floor ident z) := by
  unfold Machine.writeAreaHdr
  repeat' first
    | with_reducible assumption
    | (with_reducible apply Keeps.modBoot)
    | exact Keeps.plain hk rfl rfl rfl rfl rfl rfl rfl rfl rfl rfl rfl rfl rfl rfl rfl rfl rfl rfl

theorem Keeps.raiseFloor {s z : State} (hk : Keeps s z) (g : Nat) :
    Keeps s (Machine.raiseFloor g z) := by
  unfold Machine.raiseFloor
  repeat' first
    | with_reducible assumption
    | (with_reducible apply Keeps.writeAreaHdr)
    | (with_reducible apply Keeps.ite)

theorem Keeps.takeShare {s z : State} (hk : Keeps s z) (n : Nat) (c : Counts) :
    Keeps s (Machine.takeShare n c z) := by
  unfold Machine.takeShare
  repeat' first
    | with_reducible assumption
    | (with_reducible apply Keeps.setPolder)
    | (with_reducible apply Keeps.lowCheckAll)
    | ((with_reducible refine Keeps.modBuf ?_ ?_) <;> [skip; (generalize State.buf _ = b; exact fun h => h)])
    | (with_reducible apply Keeps.setPolder)
    | ((with_reducible refine Keeps.modBuf ?_ ?_) <;> [skip; (intro h; unfold BufForm at h ⊢; simp_all [Tab.wf_set, Tab.wf_upd, Tab.wf_filter, Tab.wf_ite])])
    | ((with_reducible refine Keeps.modBuf ?_ ?_) <;> [skip; (intro h; unfold BufForm at h ⊢; split <;> simp_all [Tab.wf_set, Tab.wf_upd, Tab.wf_filter, Tab.wf_ite])])
    | (with_reducible apply Keeps.ite)
    | split
    | exact Keeps.plain hk rfl rfl rfl rfl rfl rfl rfl rfl rfl rfl rfl rfl rfl rfl rfl rfl rfl rfl
    | dsimp only

theorem Keeps.logPolder {s z : State} (hk : Keeps s z) (o : Origin) (n : Nat) (fields : Bool) :
    Keeps s (Machine.logPolder o n fields z) := by
  unfold Machine.logPolder
  repeat' first
    | with_reducible assumption
    | (with_reducible apply Keeps.dikeLog)
    | (with_reducible apply Keeps.dikeLogFields)
    | (with_reducible apply Keeps.ite)

theorem Keeps.installPolder {s z : State} (hk : Keeps s z) (n : Nat) (c : Counts) :
    Keeps s (Machine.installPolder n c z) := by
  unfold Machine.installPolder
  repeat' first
    | with_reducible assumption
    | (with_reducible apply Keeps.setPolder)
    | (with_reducible apply Keeps.takeShare)
    | (with_reducible apply Keeps.setPolder)

theorem Keeps.commitPolder {s z : State} (hk : Keeps s z) (o : Origin) (n : Nat) :
    Keeps s (Machine.commitPolder o n z) := by
  unfold Machine.commitPolder
  repeat' first
    | with_reducible assumption
    | (with_reducible apply Keeps.setPolder)
    | (with_reducible apply Keeps.savePolder)
    | (with_reducible apply Keeps.raiseFloor)
    | (with_reducible apply Keeps.logPolder)
    | (with_reducible apply Keeps.installPolder)
    | (with_reducible apply Keeps.setPolder)

theorem Keeps.commitReq {s z : State} (hk : Keeps s z) (a0 : Req) :
    Keeps s (Machine.commitReq a0 z).1 := by
  unfold Machine.commitReq
  repeat' first
    | with_reducible assumption
    | (with_reducible apply Keeps.action)
    | (with_reducible apply Keeps.commitPolder)
    | (with_reducible intro _; try beta_reduce)

theorem Keeps.adjustPolder {s z : State} (hk : Keeps s z) (o : Origin) (n : Nat) :
    Keeps s (Machine.adjustPolder o n z) := by
  unfold Machine.adjustPolder
  repeat' first
    | with_reducible assumption
    | (with_reducible apply Keeps.filterQueues)
    | (with_reducible apply Keeps.savePolder)
    | (with_reducible apply Keeps.takeShare)
    | (with_reducible apply Keeps.logPolder)
    | exact Keeps.plain hk rfl rfl rfl rfl rfl rfl rfl rfl rfl rfl rfl rfl rfl rfl rfl rfl rfl rfl

theorem Keeps.adjustReq {s z : State} (hk : Keeps s z) (a0 : Req) :
    Keeps s (Machine.adjustReq a0 z).1 := by
  unfold Machine.adjustReq
  repeat' first
    | with_reducible assumption
    | (with_reducible apply Keeps.action)
    | (with_reducible apply Keeps.adjustPolder)
    | (with_reducible intro _; try beta_reduce)

theorem Keeps.dropGroups {s z : State} (hk : Keeps s z) (n : Nat) :
    Keeps s (Machine.dropGroups n z) := by
  unfold Machine.dropGroups
  repeat' first
    | with_reducible assumption
    | (with_reducible apply Keeps.count)
    | ((with_reducible refine Keeps.modPolders ?_ ?_) <;> [skip; (generalize State.polders _ = b; exact fun h => h)])
    | ((with_reducible refine Keeps.modPolders ?_ ?_) <;> [skip; (intro h; unfold PoldersForm at h ⊢; simp_all [Tab.wf_set, Tab.wf_upd, Tab.wf_filter, Tab.wf_ite])])
    | exact Keeps.plain hk rfl rfl rfl rfl rfl rfl rfl rfl rfl rfl rfl rfl rfl rfl rfl rfl rfl rfl

theorem Keeps.removePolder {s z : State} (hk : Keeps s z) (o : Origin) (flash : Bool) (n : Nat) :
    Keeps s (Machine.removePolder o flash n z) := by
  unfold Machine.removePolder
  repeat' first
    | with_reducible assumption
    | (with_reducible apply Keeps.setPolder)
    | (with_reducible apply Keeps.endWork)
    | (with_reducible apply Keeps.savePolder)
    | (with_reducible apply Keeps.logPolder)
    | (with_reducible apply Keeps.dropGroups)
    | (with_reducible apply Keeps.setPolder)

theorem Keeps.polderRemoved {s z : State} (hk : Keeps s z) (n : Nat) :
    Keeps s (Machine.polderRemoved n z) := by
  unfold Machine.polderRemoved
  repeat' first
    | with_reducible assumption
    | (with_reducible apply Keeps.filterQueues)
    | (with_reducible apply Keeps.setPolder)
    | (with_reducible apply Keeps.setChannel)
    | (with_reducible apply Keeps.setRegion)
    | (with_reducible apply Keeps.raise)
    | (with_reducible apply Keeps.clearSlot)
    | (with_reducible apply Keeps.channelReset)
    | (with_reducible apply Keeps.takeShare)
    | (with_reducible apply Keeps.setChannel)
    | (with_reducible apply Keeps.setRegion)
    | (with_reducible apply Keeps.setPolder)
    | ((with_reducible refine Keeps.modJrn ?_ ?_) <;> [skip; (generalize State.jrn _ = b; exact fun h => h)])
    | (with_reducible refine Keeps.forEach _ (fun _ _ _ => ?_) ?_)
    | ((with_reducible refine Keeps.modJrn ?_ ?_) <;> [skip; (intro h; unfold JournalForm at h ⊢; simp_all [Tab.wf_set, Tab.wf_upd, Tab.wf_filter, Tab.wf_ite])])
    | ((with_reducible refine Keeps.modJrn ?_ ?_) <;> [skip; (intro h; unfold JournalForm at h ⊢; split <;> simp_all [Tab.wf_set, Tab.wf_upd, Tab.wf_filter, Tab.wf_ite])])
    | (with_reducible apply Keeps.ite)
    | (with_reducible apply Keeps.ite_fst)
    | (with_reducible apply Keeps.ite_snd)
    | split
    | exact Keeps.plain hk rfl rfl rfl rfl rfl rfl rfl rfl rfl rfl rfl rfl rfl rfl rfl rfl rfl rfl
    | dsimp only

theorem Keeps.loadValues {s z : State} (hk : Keeps s z) (n : Nat) (r : PolderRec) :
    Keeps s (Machine.loadValues n r z) := by
  unfold Machine.loadValues
  repeat' first
    | with_reducible assumption
    | (with_reducible apply Keeps.setVal)

theorem Keeps.loadPolder {s z : State} (hk : Keeps s z) (n : Nat) :
    Keeps s (Machine.loadPolder n z) := by
  unfold Machine.loadPolder
  repeat' first
    | with_reducible assumption
    | (with_reducible apply Keeps.setPolder)
    | (with_reducible apply Keeps.raise)
    | (with_reducible apply Keeps.logPolder)
    | (with_reducible apply Keeps.installPolder)
    | (with_reducible apply Keeps.loadValues)
    | (with_reducible apply Keeps.setPolder)
    | (with_reducible apply Keeps.ite)
    | exact Keeps.plain hk rfl rfl rfl rfl rfl rfl rfl rfl rfl rfl rfl rfl rfl rfl rfl rfl rfl rfl

theorem Keeps.loadPolder0 {s z : State} (hk : Keeps s z) :
    Keeps s (Machine.loadPolder0 z) := by
  unfold Machine.loadPolder0
  repeat' first
    | with_reducible assumption
    | (with_reducible apply Keeps.installPolder)
    | (with_reducible apply Keeps.loadPolder)
    | (with_reducible apply Keeps.ite)

theorem Keeps.loadPolders {s z : State} (hk : Keeps s z) :
    Keeps s (Machine.loadPolders z) := by
  unfold Machine.loadPolders
  repeat' first
    | with_reducible assumption
    | (with_reducible apply Keeps.noOwners)
    | (with_reducible apply Keeps.noPolders)
    | (with_reducible apply Keeps.setPolder)
    | (with_reducible apply Keeps.writeAreaHdr)
    | (with_reducible apply Keeps.loadPolder)
    | (with_reducible apply Keeps.loadPolder0)
    | ((with_reducible refine Keeps.modBuf ?_ ?_) <;> [skip; (generalize State.buf _ = b; exact fun h => h)])
    | (with_reducible apply Keeps.drawBytes)
    | (with_reducible apply Keeps.setPolder)
    | (with_reducible refine Keeps.forEach _ (fun _ _ _ => ?_) ?_)
    | ((with_reducible refine Keeps.modBuf ?_ ?_) <;> [skip; (intro h; unfold BufForm at h ⊢; simp_all [Tab.wf_set, Tab.wf_upd, Tab.wf_filter, Tab.wf_ite])])
    | ((with_reducible refine Keeps.modBuf ?_ ?_) <;> [skip; (intro h; unfold BufForm at h ⊢; split <;> simp_all [Tab.wf_set, Tab.wf_upd, Tab.wf_filter, Tab.wf_ite])])
    | (with_reducible apply Keeps.ite)
    | (with_reducible apply Keeps.ite_fst)
    | (with_reducible apply Keeps.ite_snd)
    | (with_reducible refine Keeps.foldl _ (fun _ _ _ => ?_) ?_)
    | (with_reducible refine Keeps.foldl_fst _ (fun _ _ _ => ?_) ?_)
    | (with_reducible refine Keeps.foldl_snd _ (fun _ _ _ => ?_) ?_)
    | exact Keeps.plain hk rfl rfl rfl rfl rfl rfl rfl rfl rfl rfl rfl rfl rfl rfl rfl rfl rfl rfl

end Sys2Proof.Machine
end

