-- ==== Sys2Proof/Laws/KeepsStartup.lean ====
section
/-! SUPPORT. What the operations of Machine/Startup.lean keep. -/

namespace Sys2Proof.Machine
open Sys2Proof

theorem Keeps.setOverflowMiB {s z : State} (hk : Keeps s z) (n : Nat) :
    Keeps s (Machine.modBuf (fun b => { b with overflowMiB := n }) z) := hk.modBuf (fun h => h)

theorem Keeps.setSlot {s z : State} (hk : Keeps s z) (i : Nat) (x : Slot) :
    Keeps s (Machine.setSlot i x z) := by
  unfold Machine.setSlot
  repeat' first
    | with_reducible assumption
    | (with_reducible apply Keeps.modBoot)
    | exact Keeps.plain hk rfl rfl rfl rfl rfl rfl rfl rfl rfl rfl rfl rfl rfl rfl rfl rfl rfl rfl

theorem Keeps.writeBcb {s z : State} (hk : Keeps s z) (slot : Nat) (flash : Bool) :
    Keeps s (Machine.writeBcb slot flash z) := by
  unfold Machine.writeBcb
  repeat' first
    | with_reducible assumption
    | (with_reducible apply Keeps.modBoot)
    | (with_reducible apply Keeps.ite)
    | (with_reducible apply Keeps.ite_fst)
    | (with_reducible apply Keeps.ite_snd)
    | exact Keeps.plain hk rfl rfl rfl rfl rfl rfl rfl rfl rfl rfl rfl rfl rfl rfl rfl rfl rfl rfl

theorem Keeps.recheckSlot {s z : State} (hk : Keeps s z) (i reason : Nat) :
    Keeps s (Machine.recheckSlot i reason z) := by
  unfold Machine.recheckSlot
  repeat' first
    | with_reducible assumption
    | (with_reducible apply Keeps.setSlot)
    | (with_reducible apply Keeps.ite)

theorem Keeps.appendLog {s z : State} (hk : Keeps s z) (kind seq : Nat) (digest : Bytes) :
    Keeps s (Machine.appendLog kind seq digest z) := by
  unfold Machine.appendLog
  repeat' first
    | with_reducible assumption
    | (with_reducible apply Keeps.modBoot)
    | (with_reducible apply Keeps.ite)
    | exact Keeps.plain hk rfl rfl rfl rfl rfl rfl rfl rfl rfl rfl rfl rfl rfl rfl rfl rfl rfl rfl

theorem Keeps.logImage {s z : State} (hk : Keeps s z) (h : ImgHdr) :
    Keeps s (Machine.logImage h z) := by
  unfold Machine.logImage
  repeat' first
    | with_reducible assumption
    | (with_reducible apply Keeps.appendLog)
    | (with_reducible refine Keeps.forEach _ (fun _ _ _ => ?_) ?_)

theorem Keeps.logSelfTest {s z : State} (hk : Keeps s z) :
    Keeps s (Machine.logSelfTest z) := by
  unfold Machine.logSelfTest
  repeat' first
    | with_reducible assumption
    | (with_reducible apply Keeps.appendLog)

theorem Keeps.testResult {s z : State} (hk : Keeps s z) (die sig : Nat) :
    Keeps s (Machine.testResult die sig z) := by
  unfold Machine.testResult
  repeat' first
    | with_reducible assumption
    | (with_reducible apply Keeps.raise)
    | (with_reducible apply Keeps.modTest)
    | (with_reducible apply Keeps.ite)
    | exact Keeps.plain hk rfl rfl rfl rfl rfl rfl rfl rfl rfl rfl rfl rfl rfl rfl rfl rfl rfl rfl

theorem canonical_deviceReset (z : State) : Canonical (Machine.deviceReset z) := by
  unfold Canonical MailboxForm DictForm TablesForm FlowForm BufForm SchedForm EndpointForm PoldersForm CipherForm
    SiphonForm JournalForm EventsForm
  repeat' apply And.intro
  all_goals rfl

theorem Keeps.deviceReset {s z : State} (hk : Keeps s z) : Keeps s (Machine.deviceReset z) :=
  hk.trans ⟨rfl, le_refl _, ⟨[], (List.append_nil _).symm⟩, fun _ => canonical_deviceReset z⟩

theorem Keeps.loadStore {s z : State} (hk : Keeps s z) :
    Keeps s (Machine.loadStore z) := by
  unfold Machine.loadStore
  repeat' first
    | with_reducible assumption
    | (with_reducible apply Keeps.raise)
    | (with_reducible apply Keeps.appendLog)
    | ((with_reducible refine Keeps.modDict ?_ ?_) <;> [skip; (generalize State.dict _ = b; exact fun h => h)])
    | ((with_reducible refine Keeps.modDict ?_ ?_) <;> [skip; (intro h; unfold DictForm at h ⊢; simp_all [Tab.wf_set, Tab.wf_upd, Tab.wf_filter, Tab.wf_ite])])
    | split
    | exact Keeps.plain hk rfl rfl rfl rfl rfl rfl rfl rfl rfl rfl rfl rfl rfl rfl rfl rfl rfl rfl
    | dsimp only

theorem Keeps.setKeysAside {s z : State} (hk : Keeps s z) :
    Keeps s (Machine.setKeysAside z) := by
  unfold Machine.setKeysAside
  repeat' first
    | with_reducible assumption
    | (with_reducible apply Keeps.modBoot)
    | exact Keeps.plain hk rfl rfl rfl rfl rfl rfl rfl rfl rfl rfl rfl rfl rfl rfl rfl rfl rfl rfl

theorem Keeps.loadEpoch {s z : State} (hk : Keeps s z) (flash : Bool) :
    Keeps s (Machine.loadEpoch flash z) := by
  unfold Machine.loadEpoch
  repeat' first
    | with_reducible assumption
    | (with_reducible apply Keeps.raise)
    | (with_reducible apply Keeps.setKeysAside)
    | ((with_reducible refine Keeps.modDict ?_ ?_) <;> [skip; (generalize State.dict _ = b; exact fun h => h)])
    | (with_reducible apply Keeps.modBoot)
    | ((with_reducible refine Keeps.modDict ?_ ?_) <;> [skip; (intro h; unfold DictForm at h ⊢; simp_all [Tab.wf_set, Tab.wf_upd, Tab.wf_filter, Tab.wf_ite])])
    | ((with_reducible refine Keeps.modDict ?_ ?_) <;> [skip; (intro h; unfold DictForm at h ⊢; split <;> simp_all [Tab.wf_set, Tab.wf_upd, Tab.wf_filter, Tab.wf_ite])])
    | (with_reducible apply Keeps.ite)
    | (with_reducible apply Keeps.ite_fst)
    | (with_reducible apply Keeps.ite_snd)
    | split
    | exact Keeps.plain hk rfl rfl rfl rfl rfl rfl rfl rfl rfl rfl rfl rfl rfl rfl rfl rfl rfl rfl
    | dsimp only

theorem Keeps.loadSessions {s z : State} (hk : Keeps s z) :
    Keeps s (Machine.loadSessions z) := by
  unfold Machine.loadSessions
  repeat' first
    | with_reducible assumption
    | (with_reducible apply Keeps.setSession)
    | (with_reducible apply Keeps.loadSessionKey)
    | (with_reducible apply Keeps.setSession)
    | (with_reducible refine Keeps.forEach _ (fun _ _ _ => ?_) ?_)
    | (with_reducible apply Keeps.ite)

theorem Keeps.startTest {s z : State} (hk : Keeps s z) (sigs : List Nat) :
    Keeps s (Machine.startTest sigs z) := by
  unfold Machine.startTest
  repeat' first
    | with_reducible assumption
    | (with_reducible apply Keeps.logSelfTest)
    | (with_reducible apply Keeps.testResult)
    | (with_reducible apply Keeps.drawNat)
    | (with_reducible apply Keeps.modBoot)
    | (with_reducible refine Keeps.forEach _ (fun _ _ _ => ?_) ?_)
    | (with_reducible apply Keeps.ite)
    | (with_reducible apply Keeps.ite_fst)
    | (with_reducible apply Keeps.ite_snd)
    | split
    | exact Keeps.plain hk rfl rfl rfl rfl rfl rfl rfl rfl rfl rfl rfl rfl rfl rfl rfl rfl rfl rfl
    | dsimp only

theorem Keeps.startFrom {s z : State} (hk : Keeps s z) (t slot : Nat) (flash : Bool) :
    Keeps s (Machine.startFrom t slot flash z) := by
  unfold Machine.startFrom
  repeat' first
    | with_reducible assumption
    | (with_reducible apply Keeps.setOverflowMiB)
    | (with_reducible apply Keeps.loadPolders)
    | (with_reducible apply Keeps.appendLog)
    | (with_reducible apply Keeps.logImage)
    | (with_reducible apply Keeps.loadStore)
    | (with_reducible apply Keeps.loadEpoch)
    | (with_reducible apply Keeps.loadSessions)
    | (with_reducible apply Keeps.startTest)
    | (with_reducible apply Keeps.modBoot)
    | ((with_reducible refine Keeps.modBuf ?_ ?_) <;> [skip; (generalize State.buf _ = b; exact fun h => h)])
    | ((with_reducible refine Keeps.modBuf ?_ ?_) <;> [skip; (intro h; unfold BufForm at h ⊢; simp_all [Tab.wf_set, Tab.wf_upd, Tab.wf_filter, Tab.wf_ite])])
    | exact Keeps.plain hk rfl rfl rfl rfl rfl rfl rfl rfl rfl rfl rfl rfl rfl rfl rfl rfl rfl rfl

theorem Keeps.deviceStart {s z : State} (hk : Keeps s z) (t : Nat) (flash : Bool) :
    Keeps s (Machine.deviceStart t flash z) := by
  unfold Machine.deviceStart
  repeat' first
    | with_reducible assumption
    | (with_reducible apply Keeps.raise)
    | (with_reducible apply Keeps.appendLog)
    | (with_reducible apply Keeps.deviceReset)
    | (with_reducible apply Keeps.startFrom)
    | (with_reducible apply Keeps.modBoot)
    | ((with_reducible refine Keeps.modTables ?_ ?_) <;> [skip; (generalize State.tables _ = b; exact fun h => h)])
    | ((with_reducible refine Keeps.modEp ?_ ?_) <;> [skip; (generalize State.ep _ = b; exact fun h => h)])
    | (with_reducible apply Keeps.modBoard)
    | ((with_reducible refine Keeps.modTables ?_ ?_) <;> [skip; (intro h; unfold TablesForm at h ⊢; simp_all [Tab.wf_set, Tab.wf_upd, Tab.wf_filter, Tab.wf_ite])])
    | ((with_reducible refine Keeps.modEp ?_ ?_) <;> [skip; (intro h; unfold EndpointForm at h ⊢; simp_all [Tab.wf_set, Tab.wf_upd, Tab.wf_filter, Tab.wf_ite])])
    | ((with_reducible refine Keeps.modTables ?_ ?_) <;> [skip; (intro h; unfold TablesForm at h ⊢; split <;> simp_all [Tab.wf_set, Tab.wf_upd, Tab.wf_filter, Tab.wf_ite])])
    | ((with_reducible refine Keeps.modEp ?_ ?_) <;> [skip; (intro h; unfold EndpointForm at h ⊢; split <;> simp_all [Tab.wf_set, Tab.wf_upd, Tab.wf_filter, Tab.wf_ite])])
    | (with_reducible apply Keeps.ite)
    | exact Keeps.plain hk rfl rfl rfl rfl rfl rfl rfl rfl rfl rfl rfl rfl rfl rfl rfl rfl rfl rfl

theorem Keeps.coldStart {s z : State} (hk : Keeps s z) (t : Nat) (sigs : List Nat) (flash : Bool) :
    Keeps s (Machine.coldStart t sigs flash z) := by
  unfold Machine.coldStart
  repeat' first
    | with_reducible assumption
    | (with_reducible apply Keeps.deviceStart)
    | (with_reducible apply Keeps.modBoard)
    | (with_reducible apply Keeps.ite)
    | exact Keeps.plain hk rfl rfl rfl rfl rfl rfl rfl rfl rfl rfl rfl rfl rfl rfl rfl rfl rfl rfl

theorem Keeps.ddr4TrainingDone {s z : State} (hk : Keeps s z) (md : Nat) :
    Keeps s (Machine.ddr4TrainingDone md z) := by
  unfold Machine.ddr4TrainingDone
  repeat' first
    | with_reducible assumption
    | (with_reducible apply Keeps.modBoot)
    | (with_reducible apply Keeps.ite)
    | exact Keeps.plain hk rfl rfl rfl rfl rfl rfl rfl rfl rfl rfl rfl rfl rfl rfl rfl rfl rfl rfl

theorem Keeps.pf0Ready {s z : State} (hk : Keeps s z) :
    Keeps s (Machine.pf0Ready z) := by
  unfold Machine.pf0Ready
  repeat' first
    | with_reducible assumption
    | (with_reducible apply Keeps.setFunc)
    | (with_reducible apply Keeps.setFunc)
    | (with_reducible apply Keeps.ite)

theorem Keeps.logObject {s z : State} (hk : Keeps s z) (o : Origin) :
    Keeps s (Machine.logObject o z) := by
  unfold Machine.logObject
  repeat' first
    | with_reducible assumption
    | (with_reducible apply Keeps.dikeLog)
    | (with_reducible refine Keeps.forEach _ (fun _ _ _ => ?_) ?_)
    | split
    | dsimp only

theorem Keeps.fieldInService {s z : State} (hk : Keeps s z) :
    Keeps s (Machine.fieldInService z) := by
  unfold Machine.fieldInService
  repeat' first
    | with_reducible assumption
    | (with_reducible apply Keeps.lowCheckAll)
    | (with_reducible apply Keeps.gatesAtStart)
    | (with_reducible apply Keeps.portAdminChanged)
    | (with_reducible apply Keeps.logObject)
    | ((with_reducible refine Keeps.modDict ?_ ?_) <;> [skip; (generalize State.dict _ = b; exact fun h => h)])
    | (with_reducible apply Keeps.modBoot)
    | (with_reducible refine Keeps.forEach _ (fun _ _ _ => ?_) ?_)
    | ((with_reducible refine Keeps.modDict ?_ ?_) <;> [skip; (intro h; unfold DictForm at h ⊢; simp_all [Tab.wf_set, Tab.wf_upd, Tab.wf_filter, Tab.wf_ite])])
    | ((with_reducible refine Keeps.modDict ?_ ?_) <;> [skip; (intro h; unfold DictForm at h ⊢; split <;> simp_all [Tab.wf_set, Tab.wf_upd, Tab.wf_filter, Tab.wf_ite])])
    | (with_reducible apply Keeps.ite)
    | (with_reducible apply Keeps.ite_fst)
    | (with_reducible apply Keeps.ite_snd)
    | exact Keeps.plain hk rfl rfl rfl rfl rfl rfl rfl rfl rfl rfl rfl rfl rfl rfl rfl rfl rfl rfl

theorem Keeps.allReady {s z : State} (hk : Keeps s z) :
    Keeps s (Machine.allReady z) := by
  unfold Machine.allReady
  repeat' first
    | with_reducible assumption
    | (with_reducible apply Keeps.journalRelease)
    | ((with_reducible refine Keeps.modJrn ?_ ?_) <;> [skip; (generalize State.jrn _ = b; exact fun h => h)])
    | (with_reducible apply Keeps.modBoot)
    | ((with_reducible refine Keeps.modJrn ?_ ?_) <;> [skip; (intro h; unfold JournalForm at h ⊢; simp_all [Tab.wf_set, Tab.wf_upd, Tab.wf_filter, Tab.wf_ite])])
    | ((with_reducible refine Keeps.modJrn ?_ ?_) <;> [skip; (intro h; unfold JournalForm at h ⊢; split <;> simp_all [Tab.wf_set, Tab.wf_upd, Tab.wf_filter, Tab.wf_ite])])
    | (with_reducible apply Keeps.ite)
    | exact Keeps.plain hk rfl rfl rfl rfl rfl rfl rfl rfl rfl rfl rfl rfl rfl rfl rfl rfl rfl rfl

theorem Keeps.fullResetBegin {s z : State} (hk : Keeps s z) : Keeps s (Machine.fullResetBegin z) := by
  have kd := hk.journalDetach (fun _ => true)
  have k1 : ∀ b, Keeps s (Machine.modBoard (fun x => { x with fullReset := true, drainWait := b }) (Machine.deviceReset z)) :=
    fun b => hk.deviceReset.modBoard
  unfold Machine.fullResetBegin
  dsimp only
  split
  · have k2 := k1 (cacheDirty z)
    exact ⟨k2.pending, k2.clock, k2.out, fun h => by
      obtain ⟨a, b, c, d, e, g, i, j, l, m, n, o, p, _, r⟩ := k2.form h
      obtain ⟨_, _, _, _, _, _, _, _, _, _, _, _, _, q, _⟩ := kd.form h
      exact ⟨a, b, c, d, e, g, i, j, l, m, n, o, p, q, r⟩⟩
  · exact k1 _

theorem Keeps.fullResetAsk {s z : State} (hk : Keeps s z) :
    Keeps s (Machine.fullResetAsk z) := by
  unfold Machine.fullResetAsk
  repeat' first
    | with_reducible assumption
    | (with_reducible apply Keeps.fullResetBegin)
    | (with_reducible apply Keeps.modBoard)
    | (with_reducible apply Keeps.ite)
    | exact Keeps.plain hk rfl rfl rfl rfl rfl rfl rfl rfl rfl rfl rfl rfl rfl rfl rfl rfl rfl rfl

theorem Keeps.perstNAssert {s z : State} (hk : Keeps s z) (t : Nat) :
    Keeps s (Machine.perstNAssert t z) := by
  unfold Machine.perstNAssert
  repeat' first
    | with_reducible assumption
    | (with_reducible apply Keeps.hostSideEnd)
    | (with_reducible apply Keeps.linkLost)
    | (with_reducible apply Keeps.fullResetAsk)
    | ((with_reducible refine Keeps.modEp ?_ ?_) <;> [skip; (generalize State.ep _ = b; exact fun h => h)])
    | (with_reducible apply Keeps.modBoard)
    | ((with_reducible refine Keeps.modEp ?_ ?_) <;> [skip; (intro h; unfold EndpointForm at h ⊢; simp_all [Tab.wf_set, Tab.wf_upd, Tab.wf_filter, Tab.wf_ite])])
    | ((with_reducible refine Keeps.modEp ?_ ?_) <;> [skip; (intro h; unfold EndpointForm at h ⊢; split <;> simp_all [Tab.wf_set, Tab.wf_upd, Tab.wf_filter, Tab.wf_ite])])
    | (with_reducible apply Keeps.ite)
    | exact Keeps.plain hk rfl rfl rfl rfl rfl rfl rfl rfl rfl rfl rfl rfl rfl rfl rfl rfl rfl rfl

theorem Keeps.fullResetMark {s z : State} (hk : Keeps s z) (t : Nat) :
    Keeps s (Machine.fullResetMark t z) := by
  unfold Machine.fullResetMark
  repeat' first
    | with_reducible assumption
    | (with_reducible apply Keeps.fullResetAsk)
    | (with_reducible apply Keeps.ite)

theorem Keeps.perstNRelease {s z : State} (hk : Keeps s z) (t : Nat) (flash : Bool) :
    Keeps s (Machine.perstNRelease t flash z) := by
  unfold Machine.perstNRelease
  repeat' first
    | with_reducible assumption
    | (with_reducible apply Keeps.deviceStart)
    | (with_reducible apply Keeps.fullResetMark)
    | ((with_reducible refine Keeps.modEp ?_ ?_) <;> [skip; (generalize State.ep _ = b; exact fun h => h)])
    | (with_reducible apply Keeps.modBoard)
    | ((with_reducible refine Keeps.modEp ?_ ?_) <;> [skip; (intro h; unfold EndpointForm at h ⊢; simp_all [Tab.wf_set, Tab.wf_upd, Tab.wf_filter, Tab.wf_ite])])
    | ((with_reducible refine Keeps.modEp ?_ ?_) <;> [skip; (intro h; unfold EndpointForm at h ⊢; split <;> simp_all [Tab.wf_set, Tab.wf_upd, Tab.wf_filter, Tab.wf_ite])])
    | (with_reducible apply Keeps.ite)
    | exact Keeps.plain hk rfl rfl rfl rfl rfl rfl rfl rfl rfl rfl rfl rfl rfl rfl rfl rfl rfl rfl

theorem Keeps.writeCacheDrainEnd {s z : State} (hk : Keeps s z) (t : Nat) (sigs : List Nat) (flash : Bool) :
    Keeps s (Machine.writeCacheDrainEnd t sigs flash z) := by
  unfold Machine.writeCacheDrainEnd
  repeat' first
    | with_reducible assumption
    | (with_reducible apply Keeps.flushDone)
    | (with_reducible apply Keeps.drainAll)
    | (with_reducible apply Keeps.deviceReset)
    | (with_reducible apply Keeps.deviceStart)
    | (with_reducible apply Keeps.modBoard)
    | (with_reducible apply Keeps.ite)
    | exact Keeps.plain hk rfl rfl rfl rfl rfl rfl rfl rfl rfl rfl rfl rfl rfl rfl rfl rfl rfl rfl

theorem Keeps.emergencyDrainDone {s z : State} (hk : Keeps s z) (t : Nat) (flash : Bool) :
    Keeps s (Machine.emergencyDrainDone t flash z) := by
  unfold Machine.emergencyDrainDone
  repeat' first
    | with_reducible assumption
    | (with_reducible apply Keeps.emergencyDrained)
    | (with_reducible apply Keeps.deviceStart)
    | (with_reducible apply Keeps.fullResetBegin)
    | (with_reducible apply Keeps.modBoard)
    | (with_reducible apply Keeps.ite)
    | exact Keeps.plain hk rfl rfl rfl rfl rfl rfl rfl rfl rfl rfl rfl rfl rfl rfl rfl rfl rfl rfl

theorem Keeps.powerLost {s z : State} (hk : Keeps s z) :
    Keeps s (Machine.powerLost z) := by
  unfold Machine.powerLost
  repeat' first
    | with_reducible assumption
    | (with_reducible apply Keeps.deviceReset)
    | (with_reducible apply Keeps.thermtrip)
    | (with_reducible apply Keeps.modTest)
    | (with_reducible apply Keeps.modBoard)
    | exact Keeps.plain hk rfl rfl rfl rfl rfl rfl rfl rfl rfl rfl rfl rfl rfl rfl rfl rfl rfl rfl

theorem Keeps.railFault {s z : State} (hk : Keeps s z) (rail : Nat) :
    Keeps s (Machine.railFault rail z) := by
  unfold Machine.railFault
  repeat' first
    | with_reducible assumption
    | (with_reducible apply Keeps.powerLost)
    | (with_reducible apply Keeps.modBoard)
    | (with_reducible apply Keeps.ite)
    | exact Keeps.plain hk rfl rfl rfl rfl rfl rfl rfl rfl rfl rfl rfl rfl rfl rfl rfl rfl rfl rfl

theorem Keeps.refclkLoss {s z : State} (hk : Keeps s z) :
    Keeps s (Machine.refclkLoss z) := by
  unfold Machine.refclkLoss
  repeat' first
    | with_reducible assumption
    | (with_reducible apply Keeps.powerLost)
    | (with_reducible apply Keeps.modBoard)
    | exact Keeps.plain hk rfl rfl rfl rfl rfl rfl rfl rfl rfl rfl rfl rfl rfl rfl rfl rfl rfl rfl

theorem Keeps.coresStop {sent : List OutMsg} {s z : State} (hk : Keeps s z) :
    Keeps s (Machine.coresStop sent z) := by
  unfold Machine.coresStop
  repeat' first
    | with_reducible assumption
    | (with_reducible apply Keeps.ptpStops)
    | (with_reducible apply Keeps.journalHold)
    | ((with_reducible refine Keeps.modDict ?_ ?_) <;> [skip; (generalize State.dict _ = b; exact fun h => h)])
    | (with_reducible apply Keeps.modBoot)
    | ((with_reducible refine Keeps.modMbx ?_ ?_) <;> [skip; (generalize State.mbx _ = b; exact fun h => h)])
    | ((with_reducible refine Keeps.modDict ?_ ?_) <;> [skip; (intro h; unfold DictForm at h ⊢; simp_all [Tab.wf_set, Tab.wf_upd, Tab.wf_filter, Tab.wf_ite])])
    | ((with_reducible refine Keeps.modMbx ?_ ?_) <;> [skip; (intro h; unfold MailboxForm at h ⊢; simp_all [Tab.wf_set, Tab.wf_upd, Tab.wf_filter, Tab.wf_ite])])
    | ((with_reducible refine Keeps.modDict ?_ ?_) <;> [skip; (intro h; unfold DictForm at h ⊢; split <;> simp_all [Tab.wf_set, Tab.wf_upd, Tab.wf_filter, Tab.wf_ite])])
    | ((with_reducible refine Keeps.modMbx ?_ ?_) <;> [skip; (intro h; unfold MailboxForm at h ⊢; split <;> simp_all [Tab.wf_set, Tab.wf_upd, Tab.wf_filter, Tab.wf_ite])])
    | (with_reducible apply Keeps.ite)
    | exact Keeps.plain hk rfl rfl rfl rfl rfl rfl rfl rfl rfl rfl rfl rfl rfl rfl rfl rfl rfl rfl

theorem Keeps.dikeInterrupts {s z : State} (hk : Keeps s z) :
    Keeps s (Machine.dikeInterrupts z) := by
  unfold Machine.dikeInterrupts
  repeat' first
    | with_reducible assumption
    | (with_reducible apply Keeps.interrupted)
    | ((with_reducible refine Keeps.modDict ?_ ?_) <;> [skip; (generalize State.dict _ = b; exact fun h => h)])
    | ((with_reducible refine Keeps.modDict ?_ ?_) <;> [skip; (intro h; unfold DictForm at h ⊢; simp_all [Tab.wf_set, Tab.wf_upd, Tab.wf_filter, Tab.wf_ite])])
    | ((with_reducible refine Keeps.modDict ?_ ?_) <;> [skip; (intro h; unfold DictForm at h ⊢; split <;> simp_all [Tab.wf_set, Tab.wf_upd, Tab.wf_filter, Tab.wf_ite])])
    | (with_reducible apply Keeps.ite)
    | exact Keeps.plain hk rfl rfl rfl rfl rfl rfl rfl rfl rfl rfl rfl rfl rfl rfl rfl rfl rfl rfl

theorem Keeps.coresRun {s z : State} (hk : Keeps s z) (t : Nat) :
    Keeps s (Machine.coresRun t z) := by
  unfold Machine.coresRun
  repeat' first
    | with_reducible assumption
    | (with_reducible apply Keeps.answer)
    | (with_reducible apply Keeps.mbxHeader)
    | ((with_reducible refine Keeps.modDict ?_ ?_) <;> [skip; (generalize State.dict _ = b; exact fun h => h)])
    | (with_reducible apply Keeps.modBoot)
    | ((with_reducible refine Keeps.modMbx ?_ ?_) <;> [skip; (generalize State.mbx _ = b; exact fun h => h)])
    | (with_reducible refine Keeps.forEach _ (fun _ _ _ => ?_) ?_)
    | ((with_reducible refine Keeps.modDict ?_ ?_) <;> [skip; (intro h; unfold DictForm at h ⊢; simp_all [Tab.wf_set, Tab.wf_upd, Tab.wf_filter, Tab.wf_ite])])
    | ((with_reducible refine Keeps.modMbx ?_ ?_) <;> [skip; (intro h; unfold MailboxForm at h ⊢; simp_all [Tab.wf_set, Tab.wf_upd, Tab.wf_filter, Tab.wf_ite])])
    | exact Keeps.plain hk rfl rfl rfl rfl rfl rfl rfl rfl rfl rfl rfl rfl rfl rfl rfl rfl rfl rfl

theorem Keeps.activationFails {s z : State} (hk : Keeps s z) :
    Keeps s (Machine.activationFails z) := by
  unfold Machine.activationFails
  repeat' first
    | with_reducible assumption
    | (with_reducible apply Keeps.raise)
    | (with_reducible apply Keeps.modBoot)
    | exact Keeps.plain hk rfl rfl rfl rfl rfl rfl rfl rfl rfl rfl rfl rfl rfl rfl rfl rfl rfl rfl

theorem Keeps.activationCheck {s z : State} (hk : Keeps s z) (reason : Nat) :
    Keeps s (Machine.activationCheck reason z) := by
  unfold Machine.activationCheck
  repeat' first
    | with_reducible assumption
    | (with_reducible apply Keeps.recheckSlot)
    | (with_reducible apply Keeps.activationFails)
    | (with_reducible apply Keeps.modBoot)
    | (with_reducible apply Keeps.ite)
    | exact Keeps.plain hk rfl rfl rfl rfl rfl rfl rfl rfl rfl rfl rfl rfl rfl rfl rfl rfl rfl rfl

theorem Keeps.activationTimeout {s z : State} (hk : Keeps s z) (t : Nat) :
    Keeps s (Machine.activationTimeout t z) := by
  unfold Machine.activationTimeout
  repeat' first
    | with_reducible assumption
    | (with_reducible apply Keeps.activationFails)
    | (with_reducible apply Keeps.ite)

theorem Keeps.activationComplete {s z : State} (hk : Keeps s z) (t : Nat) (flash : Bool) :
    Keeps s (Machine.activationComplete t flash z) := by
  unfold Machine.activationComplete
  repeat' first
    | with_reducible assumption
    | (with_reducible apply Keeps.raise)
    | (with_reducible apply Keeps.journalRelease)
    | (with_reducible apply Keeps.writeBcb)
    | (with_reducible apply Keeps.appendLog)
    | (with_reducible apply Keeps.logImage)
    | (with_reducible apply Keeps.startFrom)
    | (with_reducible apply Keeps.coresRun)
    | (with_reducible apply Keeps.activationFails)
    | (with_reducible apply Keeps.modBoot)
    | (with_reducible apply Keeps.ite)
    | exact Keeps.plain hk rfl rfl rfl rfl rfl rfl rfl rfl rfl rfl rfl rfl rfl rfl rfl rfl rfl rfl

theorem Keeps.heartbeat {s z : State} (hk : Keeps s z) (t : Nat) :
    Keeps s (Machine.heartbeat t z) := by
  unfold Machine.heartbeat
  repeat' first
    | with_reducible assumption
    | (with_reducible apply Keeps.modBoot)
    | (with_reducible apply Keeps.ite)
    | exact Keeps.plain hk rfl rfl rfl rfl rfl rfl rfl rfl rfl rfl rfl rfl rfl rfl rfl rfl rfl rfl

theorem Keeps.dikeHalt {s z : State} (hk : Keeps s z) :
    Keeps s (Machine.dikeHalt z) := by
  unfold Machine.dikeHalt
  repeat' first
    | with_reducible assumption
    | (with_reducible apply Keeps.raise)
    | (with_reducible apply Keeps.modBoot)
    | exact Keeps.plain hk rfl rfl rfl rfl rfl rfl rfl rfl rfl rfl rfl rfl rfl rfl rfl rfl rfl rfl

theorem Keeps.dikeRestart {s z : State} (hk : Keeps s z) (reason : Nat) :
    Keeps s (Machine.dikeRestart reason z) := by
  unfold Machine.dikeRestart
  repeat' first
    | with_reducible assumption
    | (with_reducible apply Keeps.raise)
    | (with_reducible apply Keeps.count)
    | (with_reducible apply Keeps.recheckSlot)
    | (with_reducible apply Keeps.coresStop)
    | (with_reducible apply Keeps.dikeInterrupts)
    | (with_reducible apply Keeps.dikeHalt)
    | (with_reducible apply Keeps.modBoot)
    | (with_reducible apply Keeps.ite)
    | exact Keeps.plain hk rfl rfl rfl rfl rfl rfl rfl rfl rfl rfl rfl rfl rfl rfl rfl rfl rfl rfl

theorem Keeps.coreRestartComplete {s z : State} (hk : Keeps s z) (t : Nat) :
    Keeps s (Machine.coreRestartComplete t z) := by
  unfold Machine.coreRestartComplete
  repeat' first
    | with_reducible assumption
    | (with_reducible apply Keeps.journalRelease)
    | (with_reducible apply Keeps.appendLog)
    | (with_reducible apply Keeps.logImage)
    | (with_reducible apply Keeps.coresRun)
    | (with_reducible apply Keeps.modBoot)
    | (with_reducible apply Keeps.ite)
    | exact Keeps.plain hk rfl rfl rfl rfl rfl rfl rfl rfl rfl rfl rfl rfl rfl rfl rfl rfl rfl rfl

theorem Keeps.setDmaWindows {s z : State} (hk : Keeps s z) (b : Bytes) (q : Req) :
    Keeps s (Machine.setDmaWindows b q z) := by
  unfold Machine.setDmaWindows
  repeat' first
    | with_reducible assumption
    | (with_reducible apply Keeps.dikeLog)
    | (with_reducible apply Keeps.modBoot)
    | exact Keeps.plain hk rfl rfl rfl rfl rfl rfl rfl rfl rfl rfl rfl rfl rfl rfl rfl rfl rfl rfl

end Sys2Proof.Machine
end

