-- ==== Sys2Proof/Laws/KeepsCounters.lean ====
section
/-! SUPPORT. What the operations of Machine/Counters.lean keep. -/

namespace Sys2Proof.Machine
open Sys2Proof

theorem Keeps.groupSignal {s z : State} (hk : Keeps s z) (g : Nat) :
    Keeps s (Machine.groupSignal g z) := by
  unfold Machine.groupSignal
  repeat' first
    | with_reducible assumption
    | (with_reducible apply Keeps.signal)
    | (with_reducible apply Keeps.ite)

theorem Keeps.evtClear {s z : State} (hk : Keeps s z) (g v keep : Nat) :
    Keeps s (Machine.evtClear g v keep z) := by
  unfold Machine.evtClear
  repeat' first
    | with_reducible assumption
    | (with_reducible apply Keeps.setEvtStat)
    | (with_reducible apply Keeps.intxEval)
    | (with_reducible apply Keeps.groupSignal)
    | (with_reducible apply Keeps.ite)

theorem Keeps.evtMaskSet {s z : State} (hk : Keeps s z) (g v : Nat) :
    Keeps s (Machine.evtMaskSet g v z) := by
  unfold Machine.evtMaskSet
  repeat' first
    | with_reducible assumption
    | (with_reducible apply Keeps.intxEval)
    | (with_reducible apply Keeps.groupSignal)
    | ((with_reducible refine Keeps.modEvt ?_ ?_) <;> [skip; (generalize State.evt _ = b; exact fun h => h)])
    | ((with_reducible refine Keeps.modEvt ?_ ?_) <;> [skip; (intro h; unfold EventsForm at h ⊢; simp_all [Tab.wf_set, Tab.wf_upd, Tab.wf_filter, Tab.wf_ite])])
    | ((with_reducible refine Keeps.modEvt ?_ ?_) <;> [skip; (intro h; unfold EventsForm at h ⊢; split <;> simp_all [Tab.wf_set, Tab.wf_upd, Tab.wf_filter, Tab.wf_ite])])
    | (with_reducible apply Keeps.ite)
    | exact Keeps.plain hk rfl rfl rfl rfl rfl rfl rfl rfl rfl rfl rfl rfl rfl rfl rfl rfl rfl rfl

theorem Keeps.evtVectorSet {s z : State} (hk : Keeps s z) (g v : Nat) :
    Keeps s (Machine.evtVectorSet g v z) := by
  unfold Machine.evtVectorSet
  repeat' first
    | with_reducible assumption
    | ((with_reducible refine Keeps.modEvt ?_ ?_) <;> [skip; (generalize State.evt _ = b; exact fun h => h)])
    | ((with_reducible refine Keeps.modEvt ?_ ?_) <;> [skip; (intro h; unfold EventsForm at h ⊢; simp_all [Tab.wf_set, Tab.wf_upd, Tab.wf_filter, Tab.wf_ite])])
    | ((with_reducible refine Keeps.modEvt ?_ ?_) <;> [skip; (intro h; unfold EventsForm at h ⊢; split <;> simp_all [Tab.wf_set, Tab.wf_upd, Tab.wf_filter, Tab.wf_ite])])
    | (with_reducible apply Keeps.ite)
    | exact Keeps.plain hk rfl rfl rfl rfl rfl rfl rfl rfl rfl rfl rfl rfl rfl rfl rfl rfl rfl rfl

theorem Keeps.evtTest {s z : State} (hk : Keeps s z) (g v : Nat) :
    Keeps s (Machine.evtTest g v z) := by
  unfold Machine.evtTest
  repeat' first
    | with_reducible assumption
    | (with_reducible apply Keeps.raise)
    | (with_reducible refine Keeps.forEach _ (fun _ _ _ => ?_) ?_)

theorem Keeps.setDevCtr {s z : State} (hk : Keeps s z) (n : Nat) (x : DevCtr) :
    Keeps s (Machine.setDevCtr n x z) := by
  unfold Machine.setDevCtr
  repeat' first
    | with_reducible assumption
    | ((with_reducible refine Keeps.modEvt ?_ ?_) <;> [skip; (generalize State.evt _ = b; exact fun h => h)])
    | ((with_reducible refine Keeps.modEvt ?_ ?_) <;> [skip; (intro h; unfold EventsForm at h ⊢; simp_all [Tab.wf_set, Tab.wf_upd, Tab.wf_filter, Tab.wf_ite])])
    | exact Keeps.plain hk rfl rfl rfl rfl rfl rfl rfl rfl rfl rfl rfl rfl rfl rfl rfl rfl rfl rfl

theorem Keeps.ctrSelSet {s z : State} (hk : Keeps s z) (n v : Nat) :
    Keeps s (Machine.ctrSelSet n v z) := by
  unfold Machine.ctrSelSet
  repeat' first
    | with_reducible assumption
    | (with_reducible apply Keeps.setDevCtr)
    | (with_reducible apply Keeps.ite)

theorem Keeps.ctrLatch {s z : State} (hk : Keeps s z) (n : Nat) :
    Keeps s (Machine.ctrLatch n z) := by
  unfold Machine.ctrLatch
  repeat' first
    | with_reducible assumption
    | (with_reducible apply Keeps.setDevCtr)

theorem Keeps.ctrValueSet {s z : State} (hk : Keeps s z) (n : Nat) (hi : Bool) (v : Nat) :
    Keeps s (Machine.ctrValueSet n hi v z) := by
  unfold Machine.ctrValueSet
  repeat' first
    | with_reducible assumption
    | (with_reducible apply Keeps.setDevCtr)
    | (with_reducible apply Keeps.ite)
    | exact Keeps.plain hk rfl rfl rfl rfl rfl rfl rfl rfl rfl rfl rfl rfl rfl rfl rfl rfl rfl rfl

theorem Keeps.ctrOvfClear {s z : State} (hk : Keeps s z) (k v keep : Nat) :
    Keeps s (Machine.ctrOvfClear k v keep z) := by
  unfold Machine.ctrOvfClear
  repeat' first
    | with_reducible assumption
    | ((with_reducible refine Keeps.modEvt ?_ ?_) <;> [skip; (generalize State.evt _ = b; exact fun h => h)])
    | ((with_reducible refine Keeps.modEvt ?_ ?_) <;> [skip; (intro h; unfold EventsForm at h ⊢; simp_all [Tab.wf_set, Tab.wf_upd, Tab.wf_filter, Tab.wf_ite])])
    | exact Keeps.plain hk rfl rfl rfl rfl rfl rfl rfl rfl rfl rfl rfl rfl rfl rfl rfl rfl rfl rfl

theorem Keeps.clearCounters {s z : State} (hk : Keeps s z) :
    Keeps s (Machine.clearCounters z) := by
  unfold Machine.clearCounters
  repeat' first
    | with_reducible assumption
    | ((with_reducible refine Keeps.modEvt ?_ ?_) <;> [skip; (generalize State.evt _ = b; exact fun h => h)])
    | ((with_reducible refine Keeps.modEvt ?_ ?_) <;> [skip; (intro h; unfold EventsForm at h ⊢; simp_all [Tab.wf_set, Tab.wf_upd, Tab.wf_filter, Tab.wf_ite])])
    | (with_reducible refine Keeps.foldl _ (fun _ _ _ => ?_) ?_)
    | (with_reducible refine Keeps.foldl_fst _ (fun _ _ _ => ?_) ?_)
    | (with_reducible refine Keeps.foldl_snd _ (fun _ _ _ => ?_) ?_)
    | exact Keeps.plain hk rfl rfl rfl rfl rfl rfl rfl rfl rfl rfl rfl rfl rfl rfl rfl rfl rfl rfl

theorem Keeps.pageOvfClear {s z : State} (hk : Keeps s z) (fn v keep : Nat) :
    Keeps s (Machine.pageOvfClear fn v keep z) := by
  unfold Machine.pageOvfClear
  repeat' first
    | with_reducible assumption
    | (with_reducible apply Keeps.setPage)
    | (with_reducible apply Keeps.setPage)

end Sys2Proof.Machine
end

