-- ==== Sys2Proof/Laws/KeepsSelfTests.lean ====
section
/-! SUPPORT. What the operations of Machine/SelfTests.lean keep. -/

namespace Sys2Proof.Machine
open Sys2Proof

/-- The Weirs are written again one by one. -/
theorem Keeps.rewriteWeirs {s z : State} (hk : Keeps s z) (f : Nat × Weir → Weir) :
    Keeps s (Machine.modSched (fun b => { b with weirs := b.weirs.foldl (fun m e => Tab.set Weir.reset m e.1 (f e)) [] }) z) :=
  hk.modSched (fun ⟨_, h⟩ => ⟨Tab.wf_foldl _ _ (fun _ _ h => Tab.wf_set _ _ h) rfl, h⟩)

theorem Keeps.setTestDie {s z : State} (hk : Keeps s z) (die st : Nat) :
    Keeps s (Machine.setTestDie die st z) := by
  unfold Machine.setTestDie
  repeat' first
    | with_reducible assumption
    | (with_reducible apply Keeps.modTest)
    | exact Keeps.plain hk rfl rfl rfl rfl rfl rfl rfl rfl rfl rfl rfl rfl rfl rfl rfl rfl rfl rfl

theorem Keeps.rehomeFlow {s z : State} (hk : Keeps s z) :
    Keeps s (Machine.rehomeFlow z) := by
  unfold Machine.rehomeFlow
  repeat' first
    | with_reducible assumption
    | (with_reducible apply Keeps.setFlowDie)
    | ((with_reducible refine Keeps.modFlow ?_ ?_) <;> [skip; (generalize State.flow _ = b; exact fun h => h)])
    | (with_reducible apply Keeps.setFlowDie)
    | (with_reducible refine Keeps.forEach _ (fun _ _ _ => ?_) ?_)
    | ((with_reducible refine Keeps.modFlow ?_ ?_) <;> [skip; (intro h; unfold FlowForm at h ⊢; simp_all [Tab.wf_set, Tab.wf_upd, Tab.wf_filter, Tab.wf_ite])])
    | ((with_reducible refine Keeps.modFlow ?_ ?_) <;> [skip; (intro h; unfold FlowForm at h ⊢; split <;> simp_all [Tab.wf_set, Tab.wf_upd, Tab.wf_filter, Tab.wf_ite])])
    | (with_reducible apply Keeps.ite)
    | (with_reducible apply Keeps.ite_fst)
    | (with_reducible apply Keeps.ite_snd)
    | exact Keeps.plain hk rfl rfl rfl rfl rfl rfl rfl rfl rfl rfl rfl rfl rfl rfl rfl rfl rfl rfl

theorem Keeps.rehomeTables {s z : State} (hk : Keeps s z) :
    Keeps s (Machine.rehomeTables z) := by
  unfold Machine.rehomeTables
  repeat' first
    | with_reducible assumption
    | (with_reducible apply Keeps.countQ)
    | ((with_reducible refine Keeps.modTables ?_ ?_) <;> [skip; (generalize State.tables _ = b; exact fun h => h)])
    | ((with_reducible refine Keeps.modTables ?_ ?_) <;> [skip; (intro h; unfold TablesForm at h ⊢; simp_all [Tab.wf_set, Tab.wf_upd, Tab.wf_filter, Tab.wf_ite])])
    | (with_reducible refine Keeps.foldl _ (fun _ _ _ => ?_) ?_)
    | (with_reducible refine Keeps.foldl_fst _ (fun _ _ _ => ?_) ?_)
    | (with_reducible refine Keeps.foldl_snd _ (fun _ _ _ => ?_) ?_)
    | exact Keeps.plain hk rfl rfl rfl rfl rfl rfl rfl rfl rfl rfl rfl rfl rfl rfl rfl rfl rfl rfl

theorem Keeps.dieFramesLost {s z : State} (hk : Keeps s z) (die : Nat) :
    Keeps s (Machine.dieFramesLost die z) := by
  unfold Machine.dieFramesLost
  repeat' first
    | with_reducible assumption
    | (with_reducible apply Keeps.setPsched)
    | (with_reducible apply Keeps.setFlowDie)
    | (with_reducible apply Keeps.releaseFrames)
    | (with_reducible apply Keeps.flushPort)
    | (with_reducible apply Keeps.loseParcel)
    | (with_reducible apply Keeps.setPsched)
    | (with_reducible apply Keeps.modCls)
    | ((with_reducible refine Keeps.modBuf ?_ ?_) <;> [skip; (generalize State.buf _ = b; exact fun h => h)])
    | (with_reducible apply Keeps.setFlowDie)
    | (with_reducible refine Keeps.forEach _ (fun _ _ _ => ?_) ?_)
    | ((with_reducible refine Keeps.modBuf ?_ ?_) <;> [skip; (intro h; unfold BufForm at h ⊢; simp_all [Tab.wf_set, Tab.wf_upd, Tab.wf_filter, Tab.wf_ite])])
    | ((with_reducible refine Keeps.modBuf ?_ ?_) <;> [skip; (intro h; unfold BufForm at h ⊢; split <;> simp_all [Tab.wf_set, Tab.wf_upd, Tab.wf_filter, Tab.wf_ite])])
    | (with_reducible apply Keeps.ite)
    | (with_reducible apply Keeps.ite_fst)
    | (with_reducible apply Keeps.ite_snd)
    | split
    | exact Keeps.plain hk rfl rfl rfl rfl rfl rfl rfl rfl rfl rfl rfl rfl rfl rfl rfl rfl rfl rfl
    | dsimp only

theorem Keeps.dieSiphonLost {s z : State} (hk : Keeps s z) (die : Nat) :
    Keeps s (Machine.dieSiphonLost die z) := by
  unfold Machine.dieSiphonLost
  repeat' first
    | with_reducible assumption
    | ((with_reducible refine Keeps.modSiphon ?_ ?_) <;> [skip; (generalize State.siphon _ = b; exact fun h => h)])
    | ((with_reducible refine Keeps.modSiphon ?_ ?_) <;> [skip; (intro h; unfold SiphonForm at h ⊢; simp_all [Tab.wf_set, Tab.wf_upd, Tab.wf_filter, Tab.wf_ite])])
    | exact Keeps.plain hk rfl rfl rfl rfl rfl rfl rfl rfl rfl rfl rfl rfl rfl rfl rfl rfl rfl rfl

theorem Keeps.fieldDieOut {s z : State} (hk : Keeps s z) (die : Nat) :
    Keeps s (Machine.fieldDieOut die z) := by
  unfold Machine.fieldDieOut
  repeat' first
    | with_reducible assumption
    | (with_reducible apply Keeps.setBufDie)
    | (with_reducible apply Keeps.setFlowDie)
    | (with_reducible apply Keeps.setLink)
    | (with_reducible apply Keeps.setTestDie)
    | (with_reducible apply Keeps.rehomeFlow)
    | (with_reducible apply Keeps.rehomeTables)
    | (with_reducible apply Keeps.dieFramesLost)
    | (with_reducible apply Keeps.dieSiphonLost)
    | (with_reducible apply Keeps.setBufDie)
    | ((with_reducible refine Keeps.modTables ?_ ?_) <;> [skip; (generalize State.tables _ = b; exact fun h => h)])
    | (with_reducible apply Keeps.setFlowDie)
    | (with_reducible refine Keeps.forEach _ (fun _ _ _ => ?_) ?_)
    | ((with_reducible refine Keeps.modTables ?_ ?_) <;> [skip; (intro h; unfold TablesForm at h ⊢; simp_all [Tab.wf_set, Tab.wf_upd, Tab.wf_filter, Tab.wf_ite])])
    | exact Keeps.plain hk rfl rfl rfl rfl rfl rfl rfl rfl rfl rfl rfl rfl rfl rfl rfl rfl rfl rfl

theorem Keeps.memoryDieOut {s z : State} (hk : Keeps s z) (md : Nat) :
    Keeps s (Machine.memoryDieOut md z) := by
  unfold Machine.memoryDieOut
  repeat' first
    | with_reducible assumption
    | (with_reducible apply Keeps.setTestDie)
    | (with_reducible apply Keeps.modBoot)
    | ((with_reducible refine Keeps.modBuf ?_ ?_) <;> [skip; (generalize State.buf _ = b; exact fun h => h)])
    | ((with_reducible refine Keeps.modBuf ?_ ?_) <;> [skip; (intro h; unfold BufForm at h ⊢; simp_all [Tab.wf_set, Tab.wf_upd, Tab.wf_filter, Tab.wf_ite])])
    | exact Keeps.plain hk rfl rfl rfl rfl rfl rfl rfl rfl rfl rfl rfl rfl rfl rfl rfl rfl rfl rfl

theorem Keeps.selfTestEnd {s z : State} (hk : Keeps s z) (die sig : Nat) :
    Keeps s (Machine.selfTestEnd die sig z) := by
  unfold Machine.selfTestEnd
  repeat' first
    | with_reducible assumption
    | (with_reducible apply Keeps.answerAct)
    | (with_reducible apply Keeps.logSelfTest)
    | (with_reducible apply Keeps.testResult)
    | (with_reducible apply Keeps.setTestDie)
    | (with_reducible apply Keeps.ite)

theorem Keeps.dieCountersReset {s z : State} (hk : Keeps s z) (die : Nat) :
    Keeps s (Machine.dieCountersReset die z) := by
  unfold Machine.dieCountersReset
  repeat' first
    | with_reducible assumption
    | (with_reducible apply Keeps.rewriteWeirs)
    | (with_reducible apply Keeps.modCls)
    | ((with_reducible refine Keeps.modDict ?_ ?_) <;> [skip; (generalize State.dict _ = b; exact fun h => h)])
    | ((with_reducible refine Keeps.modSched ?_ ?_) <;> [skip; (generalize State.sched _ = b; exact fun h => h)])
    | ((with_reducible refine Keeps.modDict ?_ ?_) <;> [skip; (intro h; unfold DictForm at h ⊢; simp_all [Tab.wf_set, Tab.wf_upd, Tab.wf_filter, Tab.wf_ite])])
    | ((with_reducible refine Keeps.modSched ?_ ?_) <;> [skip; (intro h; unfold SchedForm at h ⊢; simp_all [Tab.wf_set, Tab.wf_upd, Tab.wf_filter, Tab.wf_ite])])
    | ((with_reducible refine Keeps.modDict ?_ ?_) <;> [skip; (intro h; unfold DictForm at h ⊢; split <;> simp_all [Tab.wf_set, Tab.wf_upd, Tab.wf_filter, Tab.wf_ite])])
    | ((with_reducible refine Keeps.modSched ?_ ?_) <;> [skip; (intro h; unfold SchedForm at h ⊢; split <;> simp_all [Tab.wf_set, Tab.wf_upd, Tab.wf_filter, Tab.wf_ite])])
    | (with_reducible apply Keeps.ite)
    | (with_reducible apply Keeps.ite_fst)
    | (with_reducible apply Keeps.ite_snd)
    | (with_reducible refine Keeps.foldl _ (fun _ _ _ => ?_) ?_)
    | (with_reducible refine Keeps.foldl_fst _ (fun _ _ _ => ?_) ?_)
    | (with_reducible refine Keeps.foldl_snd _ (fun _ _ _ => ?_) ?_)
    | split
    | exact Keeps.plain hk rfl rfl rfl rfl rfl rfl rfl rfl rfl rfl rfl rfl rfl rfl rfl rfl rfl rfl
    | dsimp only

theorem Keeps.frerRestart {s z : State} (hk : Keeps s z) (die : Nat) : Keeps s (Machine.frerRestart die z) :=
  hk.upd rfl rfl rfl (fun ⟨a, b, c, _, r⟩ =>
    ⟨a, b, c, Tab.wf_foldl _ _ (fun _ _ h => Tab.wf_set _ _ h) rfl, r⟩)

theorem Keeps.restoreLogged {s z : State} (hk : Keeps s z) (die : Nat) :
    Keeps s (Machine.restoreLogged die z) := by
  unfold Machine.restoreLogged
  repeat' first
    | with_reducible assumption
    | (with_reducible apply Keeps.dikeLog)
    | (with_reducible refine Keeps.forEach _ (fun _ _ _ => ?_) ?_)
    | (with_reducible apply Keeps.ite)
    | (with_reducible apply Keeps.ite_fst)
    | (with_reducible apply Keeps.ite_snd)
    | split
    | exact Keeps.plain hk rfl rfl rfl rfl rfl rfl rfl rfl rfl rfl rfl rfl rfl rfl rfl rfl rfl rfl
    | dsimp only

theorem Keeps.fieldDieReturn {s z : State} (hk : Keeps s z) (die : Nat) :
    Keeps s (Machine.fieldDieReturn die z) := by
  unfold Machine.fieldDieReturn
  repeat' first
    | with_reducible assumption
    | (with_reducible apply Keeps.setPsched)
    | (with_reducible apply Keeps.lowCheck)
    | (with_reducible apply Keeps.portAdminChanged)
    | (with_reducible apply Keeps.copyReplica)
    | (with_reducible apply Keeps.setTestDie)
    | (with_reducible apply Keeps.rehomeFlow)
    | (with_reducible apply Keeps.rehomeTables)
    | (with_reducible apply Keeps.dieCountersReset)
    | (with_reducible apply Keeps.frerRestart)
    | (with_reducible apply Keeps.restoreLogged)
    | (with_reducible apply Keeps.setPsched)
    | (with_reducible refine Keeps.forEach _ (fun _ _ _ => ?_) ?_)

theorem Keeps.memoryDieReturn {s z : State} (hk : Keeps s z) (md : Nat) :
    Keeps s (Machine.memoryDieReturn md z) := by
  unfold Machine.memoryDieReturn
  repeat' first
    | with_reducible assumption
    | (with_reducible apply Keeps.setCart)
    | (with_reducible apply Keeps.setTestDie)
    | (with_reducible apply Keeps.modBoot)
    | ((with_reducible refine Keeps.modSiphon ?_ ?_) <;> [skip; (generalize State.siphon _ = b; exact fun h => h)])
    | (with_reducible apply Keeps.setCart)
    | ((with_reducible refine Keeps.modSiphon ?_ ?_) <;> [skip; (intro h; unfold SiphonForm at h ⊢; simp_all [Tab.wf_set, Tab.wf_upd, Tab.wf_filter, Tab.wf_ite])])
    | ((with_reducible refine Keeps.modSiphon ?_ ?_) <;> [skip; (intro h; unfold SiphonForm at h ⊢; split <;> simp_all [Tab.wf_set, Tab.wf_upd, Tab.wf_filter, Tab.wf_ite])])
    | (with_reducible apply Keeps.ite)
    | (with_reducible apply Keeps.ite_fst)
    | (with_reducible apply Keeps.ite_snd)
    | exact Keeps.plain hk rfl rfl rfl rfl rfl rfl rfl rfl rfl rfl rfl rfl rfl rfl rfl rfl rfl rfl

theorem Keeps.dieReturnComplete {s z : State} (hk : Keeps s z) (die : Nat) :
    Keeps s (Machine.dieReturnComplete die z) := by
  unfold Machine.dieReturnComplete
  repeat' first
    | with_reducible assumption
    | (with_reducible apply Keeps.fieldDieReturn)
    | (with_reducible apply Keeps.memoryDieReturn)
    | (with_reducible apply Keeps.ite)

theorem Keeps.tapLoad {s z : State} (hk : Keeps s z) (code : Nat) :
    Keeps s (Machine.tapLoad code z) := by
  unfold Machine.tapLoad
  repeat' first
    | with_reducible assumption
    | (with_reducible apply Keeps.modBoard)
    | exact Keeps.plain hk rfl rfl rfl rfl rfl rfl rfl rfl rfl rfl rfl rfl rfl rfl rfl rfl rfl rfl

theorem Keeps.tapBypass {s z : State} (hk : Keeps s z) (code : Nat) :
    Keeps s (Machine.tapBypass code z) := by
  unfold Machine.tapBypass
  repeat' first
    | with_reducible assumption
    | (with_reducible apply Keeps.tapLoad)
    | (with_reducible apply Keeps.emit)

theorem Keeps.tapBoard {s z : State} (hk : Keeps s z) (code : Nat) :
    Keeps s (Machine.tapBoard code z) := by
  unfold Machine.tapBoard
  repeat' first
    | with_reducible assumption
    | (with_reducible apply Keeps.tapLoad)
    | (with_reducible apply Keeps.tapBypass)
    | (with_reducible apply Keeps.ite)

theorem Keeps.tapSample {s z : State} (hk : Keeps s z) :
    Keeps s (Machine.tapSample z) := by
  unfold Machine.tapSample
  repeat' first
    | with_reducible assumption
    | (with_reducible apply Keeps.emit)
    | (with_reducible apply Keeps.drawBytes)

end Sys2Proof.Machine
end

