-- ==== Sys2Proof/Laws/KeepsBoards.lean ====
section
/-! SUPPORT. What the operations of Machine/Boards.lean keep. -/

namespace Sys2Proof.Machine
open Sys2Proof

theorem Keeps.drainBegin {s z : State} (hk : Keeps s z) :
    Keeps s (Machine.drainBegin z) := by
  unfold Machine.drainBegin
  repeat' first
    | with_reducible assumption
    | (with_reducible apply Keeps.setCart)
    | (with_reducible apply Keeps.setCart)
    | ((with_reducible refine Keeps.modJrn ?_ ?_) <;> [skip; (generalize State.jrn _ = b; exact fun h => h)])
    | ((with_reducible refine Keeps.modJrn ?_ ?_) <;> [skip; (intro h; unfold JournalForm at h ⊢; simp_all [Tab.wf_set, Tab.wf_upd, Tab.wf_filter, Tab.wf_ite])])
    | ((with_reducible refine Keeps.modJrn ?_ ?_) <;> [skip; (intro h; unfold JournalForm at h ⊢; split <;> simp_all [Tab.wf_set, Tab.wf_upd, Tab.wf_filter, Tab.wf_ite])])
    | (with_reducible apply Keeps.ite)
    | exact Keeps.plain hk rfl rfl rfl rfl rfl rfl rfl rfl rfl rfl rfl rfl rfl rfl rfl rfl rfl rfl

theorem Keeps.acFailFall {s z : State} (hk : Keeps s z) :
    Keeps s (Machine.acFailFall z) := by
  unfold Machine.acFailFall
  repeat' first
    | with_reducible assumption
    | (with_reducible apply Keeps.count)
    | (with_reducible apply Keeps.drainBegin)
    | (with_reducible apply Keeps.modBoard)
    | (with_reducible apply Keeps.ite)
    | exact Keeps.plain hk rfl rfl rfl rfl rfl rfl rfl rfl rfl rfl rfl rfl rfl rfl rfl rfl rfl rfl

theorem Keeps.thermtrip {s z : State} (hk : Keeps s z) :
    Keeps s (Machine.thermtrip z) := by
  unfold Machine.thermtrip
  repeat' first
    | with_reducible assumption
    | (with_reducible apply Keeps.drainBegin)
    | (with_reducible apply Keeps.modBoard)
    | (with_reducible apply Keeps.ite)
    | exact Keeps.plain hk rfl rfl rfl rfl rfl rfl rfl rfl rfl rfl rfl rfl rfl rfl rfl rfl rfl rfl

theorem Keeps.thermalSample {s z : State} (hk : Keeps s z) (temps : List Int) (power : Nat) :
    Keeps s (Machine.thermalSample temps power z) := by
  unfold Machine.thermalSample
  repeat' first
    | with_reducible assumption
    | (with_reducible apply Keeps.raise)
    | (with_reducible apply Keeps.count)
    | (with_reducible apply Keeps.replicate)
    | (with_reducible apply Keeps.modBoard)
    | (with_reducible apply Keeps.ite)
    | (with_reducible apply Keeps.ite_fst)
    | (with_reducible apply Keeps.ite_snd)
    | split
    | exact Keeps.plain hk rfl rfl rfl rfl rfl rfl rfl rfl rfl rfl rfl rfl rfl rfl rfl rfl rfl rfl
    | dsimp only

theorem Keeps.smbusRead {s z : State} (hk : Keeps s z) (b : Bytes) :
    Keeps s (Machine.smbusRead b z) := by
  unfold Machine.smbusRead
  repeat' first
    | with_reducible assumption
    | (with_reducible apply Keeps.emit)
    | (with_reducible apply Keeps.ite)

end Sys2Proof.Machine
end

