-- ==== Sys2Proof/Laws/KeepsValues.lean ====
section
/-! SUPPORT. What the operations of Machine/Values.lean keep. -/

namespace Sys2Proof.Machine
open Sys2Proof

end Sys2Proof.Machine
end

