-- ==== Sys2Proof/Laws/KeepsDictionary.lean ====
section
/-! SUPPORT. What the operations of Machine/Dictionary.lean keep. -/

namespace Sys2Proof.Machine
open Sys2Proof

theorem Keeps.sessionEnd {s z : State} (hk : Keeps s z) (n : Nat) :
    Keeps s (Machine.sessionEnd n z) := by
  unfold Machine.sessionEnd
  repeat' first
    | with_reducible assumption
    | (with_reducible apply Keeps.setSession)
    | ((with_reducible refine Keeps.modDict ?_ ?_) <;> [skip; (generalize State.dict _ = b; exact fun h => h)])
    | (with_reducible apply Keeps.setSession)
    | ((with_reducible refine Keeps.modDict ?_ ?_) <;> [skip; (intro h; unfold DictForm at h ⊢; simp_all [Tab.wf_set, Tab.wf_upd, Tab.wf_filter, Tab.wf_ite])])
    | exact Keeps.plain hk rfl rfl rfl rfl rfl rfl rfl rfl rfl rfl rfl rfl rfl rfl rfl rfl rfl rfl

theorem Keeps.requeue {s z : State} (hk : Keeps s z) (s0 : (State)) (p : Nat) :
    Keeps s (Machine.requeue s0 p z) := by
  unfold Machine.requeue
  repeat' first
    | with_reducible assumption
    | (with_reducible apply Keeps.setPsched)
    | (with_reducible refine Keeps.forEach _ (fun _ _ _ => ?_) ?_)
    | (with_reducible apply Keeps.setPsched)
    | exact Keeps.plain hk rfl rfl rfl rfl rfl rfl rfl rfl rfl rfl rfl rfl rfl rfl rfl rfl rfl rfl

theorem Keeps.retrack {s z : State} (hk : Keeps s z) (s0 : (State)) (p : Nat) :
    Keeps s (Machine.retrack s0 p z) := by
  unfold Machine.retrack
  repeat' first
    | with_reducible assumption
    | (with_reducible apply Keeps.setPsched)
    | (with_reducible refine Keeps.forEach _ (fun _ _ _ => ?_) ?_)
    | (with_reducible apply Keeps.setPsched)

theorem Keeps.takeToken {s z : State} (hk : Keeps s z) (who : Nat) (v : Bytes) :
    Keeps s (Machine.takeToken who v z) := by
  unfold Machine.takeToken
  repeat' first
    | with_reducible assumption
    | (with_reducible apply Keeps.setSession)
    | ((with_reducible refine Keeps.modDict ?_ ?_) <;> [skip; (generalize State.dict _ = b; exact fun h => h)])
    | (with_reducible apply Keeps.setSession)
    | ((with_reducible refine Keeps.modDict ?_ ?_) <;> [skip; (intro h; unfold DictForm at h ⊢; simp_all [Tab.wf_set, Tab.wf_upd, Tab.wf_filter, Tab.wf_ite])])
    | ((with_reducible refine Keeps.modDict ?_ ?_) <;> [skip; (intro h; unfold DictForm at h ⊢; split <;> simp_all [Tab.wf_set, Tab.wf_upd, Tab.wf_filter, Tab.wf_ite])])
    | (with_reducible apply Keeps.ite)
    | exact Keeps.plain hk rfl rfl rfl rfl rfl rfl rfl rfl rfl rfl rfl rfl rfl rfl rfl rfl rfl rfl

theorem Keeps.takeKeyBlob {s z : State} (hk : Keeps s z) (n : Nat) (v : Bytes) :
    Keeps s (Machine.takeKeyBlob n v z) := by
  unfold Machine.takeKeyBlob
  repeat' first
    | with_reducible assumption
    | (with_reducible apply Keeps.setVal)
    | (with_reducible apply Keeps.loadSessionKey)
    | (with_reducible apply Keeps.modBoot)
    | exact Keeps.plain hk rfl rfl rfl rfl rfl rfl rfl rfl rfl rfl rfl rfl rfl rfl rfl rfl rfl rfl

theorem Keeps.writeEffect {s z : State} (hk : Keeps s z) (q : Req) (s0 : (State)) :
    Keeps s (Machine.writeEffect q s0 z) := by
  unfold Machine.writeEffect
  repeat' first
    | with_reducible assumption
    | (with_reducible apply Keeps.setPolder)
    | (with_reducible apply Keeps.lowCheckAll)
    | (with_reducible apply Keeps.burstsChanged)
    | (with_reducible apply Keeps.gatesOff)
    | (with_reducible apply Keeps.portAdminChanged)
    | (with_reducible apply Keeps.setRate)
    | (with_reducible apply Keeps.ratesFromPorts)
    | (with_reducible apply Keeps.savePolder)
    | (with_reducible apply Keeps.logPolder)
    | (with_reducible apply Keeps.sessionEnd)
    | (with_reducible apply Keeps.requeue)
    | (with_reducible apply Keeps.retrack)
    | (with_reducible apply Keeps.setPolder)
    | (with_reducible apply Keeps.modTime)
    | (with_reducible apply Keeps.ite)
    | split
    | exact Keeps.plain hk rfl rfl rfl rfl rfl rfl rfl rfl rfl rfl rfl rfl rfl rfl rfl rfl rfl rfl
    | dsimp only

theorem Keeps.writeValue {s z : State} (hk : Keeps s z) (q : Req) (v : Bytes) :
    Keeps s (Machine.writeValue q v z) := by
  unfold Machine.writeValue
  repeat' first
    | with_reducible assumption
    | (with_reducible apply Keeps.setVal)
    | (with_reducible apply Keeps.logObject)
    | (with_reducible apply Keeps.setDmaWindows)
    | (with_reducible apply Keeps.takeToken)
    | (with_reducible apply Keeps.takeKeyBlob)
    | (with_reducible apply Keeps.writeEffect)
    | (with_reducible apply Keeps.modBoot)
    | (with_reducible apply Keeps.ite)
    | exact Keeps.plain hk rfl rfl rfl rfl rfl rfl rfl rfl rfl rfl rfl rfl rfl rfl rfl rfl rfl rfl

theorem Keeps.readValue {s z : State} (hk : Keeps s z) (a0 : Req) :
    Keeps s (Machine.readValue a0 z).1 := by
  unfold Machine.readValue
  repeat' first
    | with_reducible assumption
    | split
    | dsimp only

theorem Keeps.writeNow {s z : State} (hk : Keeps s z) (q : Req) (v : Bytes) :
    Keeps s (Machine.writeNow q v z) := by
  unfold Machine.writeNow
  repeat' first
    | with_reducible assumption
    | (with_reducible apply Keeps.writeValue)
    | (with_reducible apply Keeps.ite)

theorem Keeps.writeOne {s z : State} (hk : Keeps s z) (a0 : Req) :
    Keeps s (Machine.writeOne a0 z).1 := by
  unfold Machine.writeOne
  repeat' first
    | with_reducible assumption
    | (with_reducible apply Keeps.blobRefused)
    | (with_reducible apply Keeps.writeNow)
    | (with_reducible apply Keeps.ite)
    | (with_reducible apply Keeps.ite_fst)
    | (with_reducible apply Keeps.ite_snd)
    | split
    | dsimp only

theorem Keeps.writePost {s z : State} (hk : Keeps s z) (q : Req) :
    Keeps s (Machine.writePost q z) := by
  unfold Machine.writePost
  repeat' first
    | with_reducible assumption
    | (with_reducible apply Keeps.writeValue)
    | (with_reducible apply Keeps.ite)

theorem Keeps.notify {s z : State} (hk : Keeps s z) (t : Nat) (u : Subscr) (v : Bytes) :
    Keeps s (Machine.notify t u v z) := by
  unfold Machine.notify
  repeat' first
    | with_reducible assumption
    | (with_reducible apply Keeps.netSend)
    | ((with_reducible refine Keeps.modDict ?_ ?_) <;> [skip; (generalize State.dict _ = b; exact fun h => h)])
    | ((with_reducible refine Keeps.modDict ?_ ?_) <;> [skip; (intro h; unfold DictForm at h ⊢; simp_all [Tab.wf_set, Tab.wf_upd, Tab.wf_filter, Tab.wf_ite])])
    | ((with_reducible refine Keeps.modDict ?_ ?_) <;> [skip; (intro h; unfold DictForm at h ⊢; split <;> simp_all [Tab.wf_set, Tab.wf_upd, Tab.wf_filter, Tab.wf_ite])])
    | (with_reducible apply Keeps.ite)
    | split
    | exact Keeps.plain hk rfl rfl rfl rfl rfl rfl rfl rfl rfl rfl rfl rfl rfl rfl rfl rfl rfl rfl
    | dsimp only

theorem Keeps.notifyOne {s z : State} (hk : Keeps s z) (t : Nat) (u : Subscr) :
    Keeps s (Machine.notifyOne t u z) := by
  unfold Machine.notifyOne
  repeat' first
    | with_reducible assumption
    | (with_reducible apply Keeps.notify)
    | (with_reducible apply Keeps.ite)

theorem Keeps.notifyChanges {s z : State} (hk : Keeps s z) :
    Keeps s (Machine.notifyChanges z) := by
  unfold Machine.notifyChanges
  repeat' first
    | with_reducible assumption
    | (with_reducible apply Keeps.notifyOne)
    | (with_reducible refine Keeps.forEach _ (fun _ _ _ => ?_) ?_)

theorem Keeps.newNumber {s z : State} (hk : Keeps s z) :
    Keeps s (Machine.newNumber z).2 := by
  unfold Machine.newNumber
  repeat' first
    | with_reducible assumption
    | (with_reducible apply Keeps.drawNat)

theorem Keeps.subscribeOne {s z : State} (hk : Keeps s z) (a0 : Req) :
    Keeps s (Machine.subscribeOne a0 z).1 := by
  unfold Machine.subscribeOne
  repeat' first
    | with_reducible assumption
    | (with_reducible apply Keeps.newNumber)
    | ((with_reducible refine Keeps.modDict ?_ ?_) <;> [skip; (generalize State.dict _ = b; exact fun h => h)])
    | ((with_reducible refine Keeps.modDict ?_ ?_) <;> [skip; (intro h; unfold DictForm at h ⊢; simp_all [Tab.wf_set, Tab.wf_upd, Tab.wf_filter, Tab.wf_ite])])
    | ((with_reducible refine Keeps.modDict ?_ ?_) <;> [skip; (intro h; unfold DictForm at h ⊢; split <;> simp_all [Tab.wf_set, Tab.wf_upd, Tab.wf_filter, Tab.wf_ite])])
    | (with_reducible apply Keeps.ite)
    | (with_reducible apply Keeps.ite_fst)
    | (with_reducible apply Keeps.ite_snd)
    | split
    | exact Keeps.plain hk rfl rfl rfl rfl rfl rfl rfl rfl rfl rfl rfl rfl rfl rfl rfl rfl rfl rfl
    | dsimp only

theorem Keeps.tokenExpiry {s z : State} (hk : Keeps s z) (session : Nat) :
    Keeps s (Machine.tokenExpiry session z) := by
  unfold Machine.tokenExpiry
  repeat' first
    | with_reducible assumption
    | (with_reducible apply Keeps.setSession)
    | ((with_reducible refine Keeps.modDict ?_ ?_) <;> [skip; (generalize State.dict _ = b; exact fun h => h)])
    | (with_reducible apply Keeps.setSession)
    | ((with_reducible refine Keeps.modDict ?_ ?_) <;> [skip; (intro h; unfold DictForm at h ⊢; simp_all [Tab.wf_set, Tab.wf_upd, Tab.wf_filter, Tab.wf_ite])])
    | ((with_reducible refine Keeps.modDict ?_ ?_) <;> [skip; (intro h; unfold DictForm at h ⊢; split <;> simp_all [Tab.wf_set, Tab.wf_upd, Tab.wf_filter, Tab.wf_ite])])
    | (with_reducible apply Keeps.ite)
    | split
    | exact Keeps.plain hk rfl rfl rfl rfl rfl rfl rfl rfl rfl rfl rfl rfl rfl rfl rfl rfl rfl rfl
    | dsimp only

theorem Keeps.dropSnap {s z : State} (hk : Keeps s z) (who idx sub : Nat) :
    Keeps s (Machine.dropSnap who idx sub z) := by
  unfold Machine.dropSnap
  repeat' first
    | with_reducible assumption
    | ((with_reducible refine Keeps.modDict ?_ ?_) <;> [skip; (generalize State.dict _ = b; exact fun h => h)])
    | ((with_reducible refine Keeps.modDict ?_ ?_) <;> [skip; (intro h; unfold DictForm at h ⊢; simp_all [Tab.wf_set, Tab.wf_upd, Tab.wf_filter, Tab.wf_ite])])
    | exact Keeps.plain hk rfl rfl rfl rfl rfl rfl rfl rfl rfl rfl rfl rfl rfl rfl rfl rfl rfl rfl

theorem Keeps.readBlockOne {s z : State} (hk : Keeps s z) (a0 : Req) :
    Keeps s (Machine.readBlockOne a0 z).1 := by
  unfold Machine.readBlockOne
  repeat' first
    | with_reducible assumption
    | (with_reducible apply Keeps.dropSnap)
    | ((with_reducible refine Keeps.modDict ?_ ?_) <;> [skip; (generalize State.dict _ = b; exact fun h => h)])
    | ((with_reducible refine Keeps.modDict ?_ ?_) <;> [skip; (intro h; unfold DictForm at h ⊢; simp_all [Tab.wf_set, Tab.wf_upd, Tab.wf_filter, Tab.wf_ite])])
    | ((with_reducible refine Keeps.modDict ?_ ?_) <;> [skip; (intro h; unfold DictForm at h ⊢; split <;> simp_all [Tab.wf_set, Tab.wf_upd, Tab.wf_filter, Tab.wf_ite])])
    | (with_reducible apply Keeps.ite)
    | (with_reducible apply Keeps.ite_fst)
    | (with_reducible apply Keeps.ite_snd)
    | split
    | exact Keeps.plain hk rfl rfl rfl rfl rfl rfl rfl rfl rfl rfl rfl rfl rfl rfl rfl rfl rfl rfl
    | dsimp only

theorem Keeps.clearStaging {s z : State} (hk : Keeps s z) (who idx sub : Nat) :
    Keeps s (Machine.clearStaging who idx sub z) := by
  unfold Machine.clearStaging
  repeat' first
    | with_reducible assumption
    | ((with_reducible refine Keeps.modDict ?_ ?_) <;> [skip; (generalize State.dict _ = b; exact fun h => h)])
    | ((with_reducible refine Keeps.modDict ?_ ?_) <;> [skip; (intro h; unfold DictForm at h ⊢; simp_all [Tab.wf_set, Tab.wf_upd, Tab.wf_filter, Tab.wf_ite])])
    | exact Keeps.plain hk rfl rfl rfl rfl rfl rfl rfl rfl rfl rfl rfl rfl rfl rfl rfl rfl rfl rfl

theorem Keeps.dropStaging {s z : State} (hk : Keeps s z) (who idx sub : Nat) :
    Keeps s (Machine.dropStaging who idx sub z) := by
  unfold Machine.dropStaging
  repeat' first
    | with_reducible assumption
    | (with_reducible apply Keeps.setSlot)
    | (with_reducible apply Keeps.clearStaging)
    | (with_reducible apply Keeps.ite)

theorem Keeps.putStaging {s z : State} (hk : Keeps s z) (q : Req) (b : Bytes) :
    Keeps s (Machine.putStaging q b z) := by
  unfold Machine.putStaging
  repeat' first
    | with_reducible assumption
    | (with_reducible apply Keeps.setSlot)
    | (with_reducible apply Keeps.clearStaging)
    | ((with_reducible refine Keeps.modDict ?_ ?_) <;> [skip; (generalize State.dict _ = b; exact fun h => h)])
    | ((with_reducible refine Keeps.modDict ?_ ?_) <;> [skip; (intro h; unfold DictForm at h ⊢; simp_all [Tab.wf_set, Tab.wf_upd, Tab.wf_filter, Tab.wf_ite])])
    | ((with_reducible refine Keeps.modDict ?_ ?_) <;> [skip; (intro h; unfold DictForm at h ⊢; split <;> simp_all [Tab.wf_set, Tab.wf_upd, Tab.wf_filter, Tab.wf_ite])])
    | (with_reducible apply Keeps.ite)
    | exact Keeps.plain hk rfl rfl rfl rfl rfl rfl rfl rfl rfl rfl rfl rfl rfl rfl rfl rfl rfl rfl

theorem Keeps.finishBlocks {s z : State} (hk : Keeps s z) (q : Req) (v : Bytes) :
    Keeps s (Machine.finishBlocks q v z).1 := by
  unfold Machine.finishBlocks
  repeat' first
    | with_reducible assumption
    | (with_reducible apply Keeps.blobRefused)
    | (with_reducible apply Keeps.setSlot)
    | (with_reducible apply Keeps.writeValue)
    | (with_reducible apply Keeps.clearStaging)
    | (with_reducible apply Keeps.putStaging)
    | (with_reducible apply Keeps.ite)
    | (with_reducible apply Keeps.ite_fst)
    | (with_reducible apply Keeps.ite_snd)
    | split
    | dsimp only

theorem Keeps.writeBlockOne {s z : State} (hk : Keeps s z) (a0 : Req) :
    Keeps s (Machine.writeBlockOne a0 z).1 := by
  unfold Machine.writeBlockOne
  repeat' first
    | with_reducible assumption
    | (with_reducible apply Keeps.dropStaging)
    | (with_reducible apply Keeps.putStaging)
    | (with_reducible apply Keeps.finishBlocks)
    | (with_reducible apply Keeps.ite)
    | (with_reducible apply Keeps.ite_fst)
    | (with_reducible apply Keeps.ite_snd)
    | split
    | dsimp only

theorem Keeps.blockPost {s z : State} (hk : Keeps s z) (q : Req) :
    Keeps s (Machine.blockPost q z) := by
  unfold Machine.blockPost
  repeat' first
    | with_reducible assumption
    | (with_reducible apply Keeps.writeValue)
    | (with_reducible apply Keeps.clearStaging)
    | (with_reducible apply Keeps.ite)
    | split
    | dsimp only

theorem Keeps.storeBegin {s z : State} (hk : Keeps s z) (vals : Tab Bytes) :
    Keeps s (Machine.storeBegin vals z) := by
  unfold Machine.storeBegin
  repeat' first
    | with_reducible assumption
    | ((with_reducible refine Keeps.modDict ?_ ?_) <;> [skip; (generalize State.dict _ = b; exact fun h => h)])
    | (with_reducible apply Keeps.modBoot)
    | ((with_reducible refine Keeps.modDict ?_ ?_) <;> [skip; (intro h; unfold DictForm at h ⊢; simp_all [Tab.wf_set, Tab.wf_upd, Tab.wf_filter, Tab.wf_ite])])
    | exact Keeps.plain hk rfl rfl rfl rfl rfl rfl rfl rfl rfl rfl rfl rfl rfl rfl rfl rfl rfl rfl

theorem Keeps.storeEnd {s z : State} (hk : Keeps s z) (ok : Bool) :
    Keeps s (Machine.storeEnd ok z) := by
  unfold Machine.storeEnd
  repeat' first
    | with_reducible assumption
    | (with_reducible apply Keeps.raise)
    | (with_reducible apply Keeps.answerAct)
    | ((with_reducible refine Keeps.modDict ?_ ?_) <;> [skip; (generalize State.dict _ = b; exact fun h => h)])
    | (with_reducible apply Keeps.modBoot)
    | ((with_reducible refine Keeps.modDict ?_ ?_) <;> [skip; (intro h; unfold DictForm at h ⊢; simp_all [Tab.wf_set, Tab.wf_upd, Tab.wf_filter, Tab.wf_ite])])
    | ((with_reducible refine Keeps.modDict ?_ ?_) <;> [skip; (intro h; unfold DictForm at h ⊢; split <;> simp_all [Tab.wf_set, Tab.wf_upd, Tab.wf_filter, Tab.wf_ite])])
    | (with_reducible apply Keeps.ite)
    | (with_reducible apply Keeps.ite_fst)
    | (with_reducible apply Keeps.ite_snd)
    | split
    | exact Keeps.plain hk rfl rfl rfl rfl rfl rfl rfl rfl rfl rfl rfl rfl rfl rfl rfl rfl rfl rfl
    | dsimp only

theorem Keeps.polderChangeReq {s z : State} (hk : Keeps s z) (a0 : Req) :
    Keeps s (Machine.polderChangeReq a0 z).1 := by
  unfold Machine.polderChangeReq
  repeat' first
    | with_reducible assumption
    | (with_reducible apply Keeps.commitReq)
    | (with_reducible apply Keeps.adjustReq)
    | (with_reducible apply Keeps.writeOne)
    | (with_reducible apply Keeps.ite)
    | (with_reducible apply Keeps.ite_fst)
    | (with_reducible apply Keeps.ite_snd)

theorem Keeps.interrupted {s z : State} (hk : Keeps s z) (stored : Bool) (a0 : Req) :
    Keeps s (Machine.interrupted stored a0 z).1 := by
  unfold Machine.interrupted
  repeat' first
    | with_reducible assumption
    | (with_reducible apply Keeps.polderChangeReq)
    | (with_reducible apply Keeps.ite)
    | (with_reducible apply Keeps.ite_fst)
    | (with_reducible apply Keeps.ite_snd)
    | exact Keeps.plain hk rfl rfl rfl rfl rfl rfl rfl rfl rfl rfl rfl rfl rfl rfl rfl rfl rfl rfl

theorem Keeps.dikeHeartbeatTimeout {s z : State} (hk : Keeps s z) (t reason : Nat) (during : Option (Rq × Bool)) :
    Keeps s (Machine.dikeHeartbeatTimeout t reason during z) := by
  unfold Machine.dikeHeartbeatTimeout
  repeat' first
    | with_reducible assumption
    | (with_reducible apply Keeps.fdpServe)
    | (with_reducible apply Keeps.dikeRestart)
    | (with_reducible apply Keeps.interrupted)
    | (with_reducible apply Keeps.ite)
    | split
    | (with_reducible intro _; try beta_reduce)
    | dsimp only

theorem Keeps.mbxCtrl {s z : State} (hk : Keeps s z) (v : Nat) :
    Keeps s (Machine.mbxCtrl v z) := by
  unfold Machine.mbxCtrl
  repeat' first
    | with_reducible assumption
    | (with_reducible apply Keeps.mbxHeader)
    | ((with_reducible refine Keeps.modMbx ?_ ?_) <;> [skip; (generalize State.mbx _ = b; exact fun h => h)])
    | ((with_reducible refine Keeps.modMbx ?_ ?_) <;> [skip; (intro h; unfold MailboxForm at h ⊢; simp_all [Tab.wf_set, Tab.wf_upd, Tab.wf_filter, Tab.wf_ite])])
    | ((with_reducible refine Keeps.modMbx ?_ ?_) <;> [skip; (intro h; unfold MailboxForm at h ⊢; split <;> simp_all [Tab.wf_set, Tab.wf_upd, Tab.wf_filter, Tab.wf_ite])])
    | (with_reducible apply Keeps.ite)
    | exact Keeps.plain hk rfl rfl rfl rfl rfl rfl rfl rfl rfl rfl rfl rfl rfl rfl rfl rfl rfl rfl

end Sys2Proof.Machine
end

