-- ==== Sys2Proof/Laws/KeepsFlags.lean ====
section
/-! SUPPORT. What the operations of Machine/Flags.lean keep. -/

namespace Sys2Proof.Machine
open Sys2Proof

theorem Keeps.qctrlWrite {s z : State} (hk : Keeps s z) (fn q v : Nat) :
    Keeps s (Machine.qctrlWrite fn q v z) := by
  unfold Machine.qctrlWrite
  repeat' first
    | with_reducible assumption
    | intro _ _ _
    | (rw [apply_ite (fun g : Queue → State → Nat × State => g _ _)])
    | split
    | (with_reducible apply Keeps.qctrl)
    | (with_reducible apply Keeps.qLoad)
    | (with_reducible apply Keeps.qRead)
    | (with_reducible apply Keeps.qEnable)
    | (with_reducible apply Keeps.qReset)
    | (with_reducible apply Keeps.qDisable)
    | (with_reducible apply Keeps.drawNat)
    | (with_reducible apply Keeps.ite)
    | (with_reducible apply Keeps.ite_fst)
    | (with_reducible apply Keeps.ite_snd)
    | (with_reducible intro _; try beta_reduce)

theorem Keeps.funcWrite {s z : State} (hk : Keeps s z) (fn off v : Nat) :
    Keeps s (Machine.funcWrite fn off v z) := by
  unfold Machine.funcWrite
  repeat' first
    | with_reducible assumption
    | (with_reducible apply Keeps.setFunc)
    | (with_reducible apply Keeps.tailDoorbell)
    | (with_reducible apply Keeps.headDoorbell)
    | (with_reducible apply Keeps.qctrlWrite)
    | (with_reducible apply Keeps.setFunc)
    | (with_reducible apply Keeps.ite)

theorem Keeps.tblWriteReg {s z : State} (hk : Keeps s z) (off v : Nat) :
    Keeps s (Machine.tblWriteReg off v z) := by
  unfold Machine.tblWriteReg
  repeat' first
    | with_reducible assumption
    | intro _ _
    | (with_reducible apply Keeps.tblCommand)
    | (with_reducible apply Keeps.tblRun)
    | ((with_reducible refine Keeps.modTables ?_ ?_) <;> [skip; (generalize State.tables _ = b; exact fun h => h)])
    | ((with_reducible refine Keeps.modTables ?_ ?_) <;> [skip; (intro h; unfold TablesForm at h ⊢; simp_all [Tab.wf_set, Tab.wf_upd, Tab.wf_filter, Tab.wf_ite])])
    | ((with_reducible refine Keeps.modTables ?_ ?_) <;> [skip; (intro h; unfold TablesForm at h ⊢; split <;> simp_all [Tab.wf_set, Tab.wf_upd, Tab.wf_filter, Tab.wf_ite])])
    | (with_reducible apply Keeps.ite)
    | exact Keeps.plain hk rfl rfl rfl rfl rfl rfl rfl rfl rfl rfl rfl rfl rfl rfl rfl rfl rfl rfl
    | (with_reducible intro _; try beta_reduce)

theorem Keeps.mbxWriteReg {s z : State} (hk : Keeps s z) (off v : Nat) :
    Keeps s (Machine.mbxWriteReg off v z) := by
  unfold Machine.mbxWriteReg
  repeat' first
    | with_reducible assumption
    | (with_reducible apply Keeps.mbxCtrl)
    | ((with_reducible refine Keeps.modMbx ?_ ?_) <;> [skip; (generalize State.mbx _ = b; exact fun h => h)])
    | ((with_reducible refine Keeps.modMbx ?_ ?_) <;> [skip; (intro h; unfold MailboxForm at h ⊢; simp_all [Tab.wf_set, Tab.wf_upd, Tab.wf_filter, Tab.wf_ite])])
    | ((with_reducible refine Keeps.modMbx ?_ ?_) <;> [skip; (intro h; unfold MailboxForm at h ⊢; split <;> simp_all [Tab.wf_set, Tab.wf_upd, Tab.wf_filter, Tab.wf_ite])])
    | (with_reducible apply Keeps.ite)
    | exact Keeps.plain hk rfl rfl rfl rfl rfl rfl rfl rfl rfl rfl rfl rfl rfl rfl rfl rfl rfl rfl

theorem Keeps.evtWriteReg {s z : State} (hk : Keeps s z) (off v : Nat) :
    Keeps s (Machine.evtWriteReg off v z) := by
  unfold Machine.evtWriteReg
  repeat' first
    | with_reducible assumption
    | (with_reducible apply Keeps.evtClear)
    | (with_reducible apply Keeps.evtMaskSet)
    | (with_reducible apply Keeps.evtVectorSet)
    | (with_reducible apply Keeps.evtTest)
    | (with_reducible apply Keeps.ite)

theorem Keeps.ctrWriteReg {s z : State} (hk : Keeps s z) (off v : Nat) :
    Keeps s (Machine.ctrWriteReg off v z) := by
  unfold Machine.ctrWriteReg
  repeat' first
    | with_reducible assumption
    | (with_reducible apply Keeps.ctrSelSet)
    | (with_reducible apply Keeps.ctrValueSet)
    | (with_reducible apply Keeps.ctrOvfClear)
    | (with_reducible apply Keeps.clearCounters)
    | ((with_reducible refine Keeps.modEvt ?_ ?_) <;> [skip; (generalize State.evt _ = b; exact fun h => h)])
    | ((with_reducible refine Keeps.modEvt ?_ ?_) <;> [skip; (intro h; unfold EventsForm at h ⊢; simp_all [Tab.wf_set, Tab.wf_upd, Tab.wf_filter, Tab.wf_ite])])
    | ((with_reducible refine Keeps.modEvt ?_ ?_) <;> [skip; (intro h; unfold EventsForm at h ⊢; split <;> simp_all [Tab.wf_set, Tab.wf_upd, Tab.wf_filter, Tab.wf_ite])])
    | (with_reducible apply Keeps.ite)
    | exact Keeps.plain hk rfl rfl rfl rfl rfl rfl rfl rfl rfl rfl rfl rfl rfl rfl rfl rfl rfl rfl

theorem Keeps.bar0Write {s z : State} (hk : Keeps s z) (fn off v : Nat) :
    Keeps s (Machine.bar0Write fn off v z) := by
  unfold Machine.bar0Write
  repeat' first
    | with_reducible assumption
    | (with_reducible apply Keeps.funcWrite)
    | (with_reducible apply Keeps.tblWriteReg)
    | (with_reducible apply Keeps.mbxWriteReg)
    | (with_reducible apply Keeps.evtWriteReg)
    | (with_reducible apply Keeps.ctrWriteReg)
    | (with_reducible apply Keeps.ite)

theorem Keeps.msixWrite {s z : State} (hk : Keeps s z) (fn off v : Nat) :
    Keeps s (Machine.msixWrite fn off v z) := by
  unfold Machine.msixWrite
  repeat' first
    | with_reducible assumption
    | (with_reducible apply Keeps.setMsix)
    | (with_reducible apply Keeps.msixUnmask)
    | (with_reducible apply Keeps.setMsix)
    | (with_reducible apply Keeps.ite)
    | exact Keeps.plain hk rfl rfl rfl rfl rfl rfl rfl rfl rfl rfl rfl rfl rfl rfl rfl rfl rfl rfl

theorem Keeps.wordWrite {s z : State} (hk : Keeps s z) (fn bar off v : Nat) :
    Keeps s (Machine.wordWrite fn bar off v z) := by
  unfold Machine.wordWrite
  repeat' first
    | with_reducible assumption
    | (with_reducible apply Keeps.pageOvfClear)
    | (with_reducible apply Keeps.bar0Write)
    | (with_reducible apply Keeps.msixWrite)
    | (with_reducible apply Keeps.ite)

theorem Keeps.registerWrite {s z : State} (hk : Keeps s z) (fn bar off size value : Nat) :
    Keeps s (Machine.registerWrite fn bar off size value z) := by
  unfold Machine.registerWrite
  repeat' first
    | with_reducible assumption
    | (with_reducible apply Keeps.barMissed)
    | (with_reducible apply Keeps.aerSet)
    | (with_reducible apply Keeps.wordWrite)
    | (with_reducible apply Keeps.ite)

end Sys2Proof.Machine
end

