-- ==== Sys2Proof/Laws/KeepsExec.lean ====
section
/-! SUPPORT. What every command keeps. -/

namespace Sys2Proof.Machine
open Sys2Proof

theorem RxDo.Keeps.take {change : State → State}
    (h : ∀ s y, Machine.Keeps s y → Machine.Keeps s (change y)) : RxDo.Keeps (.take change) := h

theorem RxDo.Keeps.ite {a b : RxDo} {c : Prop} [Decidable c] (ha : a.Keeps)
    (hb : b.Keeps) : (if c then a else b).Keeps := by split <;> assumption

theorem RxDo.Keeps.judgeStaging (g : Nat) (p : SPacket) (c : Channel) :
    (Machine.judgeStaging g p c).Keeps := by
  unfold Machine.judgeStaging
  repeat' first
    | with_reducible assumption
    | exact trivial
    | (with_reducible apply RxDo.Keeps.ite)
    | (refine RxDo.Keeps.take (fun _ _ _ => ?_))
    | (with_reducible apply Keeps.ite)
    | (with_reducible apply Keeps.stageData)
    | (with_reducible apply Keeps.ite)
    | split

theorem RxDo.Keeps.judgeWrite (g : Nat) (p : SPacket) (z : State) (c : Channel) :
    (Machine.judgeWrite g p z c).Keeps := by
  unfold Machine.judgeWrite
  repeat' first
    | with_reducible assumption
    | exact trivial
    | (with_reducible apply RxDo.Keeps.ite)
    | (refine RxDo.Keeps.take (fun _ _ _ => ?_))
    | (with_reducible apply Keeps.ite)
    | (with_reducible apply Keeps.setChannel)
    | (with_reducible apply Keeps.matchNotes)
    | (with_reducible apply Keeps.regionWrite)
    | (with_reducible apply Keeps.asmPut)
    | (with_reducible apply Keeps.asmDrop)
    | (with_reducible apply Keeps.setChannel)
    | (with_reducible apply Keeps.ite)
    | split
    | exact Keeps.plain hk rfl rfl rfl rfl rfl rfl rfl rfl rfl rfl rfl rfl rfl rfl rfl rfl rfl rfl
    | dsimp only

theorem Keeps.execBufOwnerRead {z : State} (r : Rq) {u : State}
    (h : execBufOwnerRead r z = .next u) : Keeps z u := by
  have hk := Keeps.refl z
  unfold Machine.execBufOwnerRead at h
  simp only [Host.Outcome.next.injEq] at h
  subst h
  repeat' first
    | with_reducible assumption
    | (intro _ _ _ _)
    | (intro _ _ _)
    | (intro _ _)
    | (with_reducible apply Keeps.ite_fst)
    | (with_reducible apply Keeps.serveAction)

theorem Keeps.execBufPolderOwner {z : State} (r : Rq) {u : State}
    (h : execBufPolderOwner r z = .next u) : Keeps z u := by
  have hk := Keeps.refl z
  unfold Machine.execBufPolderOwner at h
  simp only [Host.Outcome.next.injEq] at h
  subst h
  repeat' first
    | with_reducible assumption
    | (intro _ _ _ _)
    | (intro _ _ _)
    | (intro _ _)
    | (with_reducible apply Keeps.ite_fst)
    | (with_reducible apply Keeps.serveAction)

theorem Keeps.execBufErrorLatchClear {z : State} (r : Rq) {u : State}
    (h : execBufErrorLatchClear r z = .next u) : Keeps z u := by
  have hk := Keeps.refl z
  unfold Machine.execBufErrorLatchClear at h
  simp only [Host.Outcome.next.injEq] at h
  subst h
  repeat' first
    | with_reducible assumption
    | (intro _ _ _ _)
    | (intro _ _ _)
    | (intro _ _)
    | (with_reducible apply Keeps.ite_fst)
    | (with_reducible apply Keeps.serveAction)
    | (with_reducible apply Keeps.clearLatches)

theorem Keeps.execHostOwnerRelease {z : State} (owner : Nat) {u : State}
    (h : execHostOwnerRelease owner z = .next u) : Keeps z u := by
  have hk := Keeps.refl z
  unfold Machine.execHostOwnerRelease at h
  simp only [Host.Outcome.next.injEq] at h
  subst h
  repeat' first
    | with_reducible assumption
    | (intro _ _ _ _)
    | (intro _ _ _)
    | (intro _ _)
    | (with_reducible apply Keeps.ite_fst)
    | (with_reducible apply Keeps.releaseOwner)

theorem Keeps.execKeySlotInfo {z : State} (r : Rq) {u : State}
    (h : execKeySlotInfo r z = .next u) : Keeps z u := by
  have hk := Keeps.refl z
  unfold Machine.execKeySlotInfo at h
  simp only [Host.Outcome.next.injEq] at h
  subst h
  repeat' first
    | with_reducible assumption
    | (intro _ _ _ _)
    | (intro _ _ _)
    | (intro _ _)
    | (with_reducible apply Keeps.ite_fst)
    | (with_reducible apply Keeps.serveAction)
    | split

theorem Keeps.execCipherDispatch {z : State} (t : Nat) {u : State}
    (h : execCipherDispatch t z = .next u) : Keeps z u := by
  have hk := Keeps.refl z
  unfold Machine.execCipherDispatch at h
  simp only [Host.Outcome.next.injEq] at h
  subst h
  repeat' first
    | with_reducible assumption
    | (intro _ _ _ _)
    | (intro _ _ _)
    | (intro _ _)
    | (with_reducible apply Keeps.ite_fst)
    | (with_reducible apply Keeps.advance)
    | (with_reducible apply Keeps.cipherDispatch)

theorem Keeps.execCipherCoreFault {z : State} (t core : Nat) {u : State}
    (h : execCipherCoreFault t core z = .next u) : Keeps z u := by
  have hk := Keeps.refl z
  unfold Machine.execCipherCoreFault at h
  simp only [Host.Outcome.next.injEq] at h
  subst h
  repeat' first
    | with_reducible assumption
    | (intro _ _ _ _)
    | (intro _ _ _)
    | (intro _ _)
    | (with_reducible apply Keeps.ite_fst)
    | (with_reducible apply Keeps.advance)
    | (with_reducible apply Keeps.coreFault)
    | (with_reducible apply Keeps.ite)

theorem Keeps.execGcmEncrypt {z : State} (t fn q : Nat) (params source : Option Bytes) {u : State}
    (h : execGcmEncrypt t fn q params source z = .next u) : Keeps z u := by
  have hk := Keeps.refl z
  unfold Machine.execGcmEncrypt at h
  simp only [Host.Outcome.next.injEq] at h
  subst h
  repeat' first
    | with_reducible assumption
    | (intro _ _ _ _)
    | (intro _ _ _)
    | (intro _ _)
    | (with_reducible apply Keeps.ite_fst)
    | (with_reducible apply Keeps.advance)
    | (with_reducible apply Keeps.takeMessage)

theorem Keeps.execGcmDecrypt {z : State} (t fn q : Nat) (params source : Option Bytes) {u : State}
    (h : execGcmDecrypt t fn q params source z = .next u) : Keeps z u := by
  have hk := Keeps.refl z
  unfold Machine.execGcmDecrypt at h
  simp only [Host.Outcome.next.injEq] at h
  subst h
  repeat' first
    | with_reducible assumption
    | (intro _ _ _ _)
    | (intro _ _ _)
    | (intro _ _)
    | (with_reducible apply Keeps.ite_fst)
    | (with_reducible apply Keeps.advance)
    | (with_reducible apply Keeps.takeMessage)

theorem Keeps.execGmacGenerate {z : State} (t fn q : Nat) (params source : Option Bytes) {u : State}
    (h : execGmacGenerate t fn q params source z = .next u) : Keeps z u := by
  have hk := Keeps.refl z
  unfold Machine.execGmacGenerate at h
  simp only [Host.Outcome.next.injEq] at h
  subst h
  repeat' first
    | with_reducible assumption
    | (intro _ _ _ _)
    | (intro _ _ _)
    | (intro _ _)
    | (with_reducible apply Keeps.ite_fst)
    | (with_reducible apply Keeps.advance)
    | (with_reducible apply Keeps.takeMessage)

theorem Keeps.execGmacVerify {z : State} (t fn q : Nat) (params source : Option Bytes) {u : State}
    (h : execGmacVerify t fn q params source z = .next u) : Keeps z u := by
  have hk := Keeps.refl z
  unfold Machine.execGmacVerify at h
  simp only [Host.Outcome.next.injEq] at h
  subst h
  repeat' first
    | with_reducible assumption
    | (intro _ _ _ _)
    | (intro _ _ _)
    | (intro _ _)
    | (with_reducible apply Keeps.ite_fst)
    | (with_reducible apply Keeps.advance)
    | (with_reducible apply Keeps.takeMessage)

theorem Keeps.execCtr {z : State} (t fn q : Nat) (params source : Option Bytes) {u : State}
    (h : execCtr t fn q params source z = .next u) : Keeps z u := by
  have hk := Keeps.refl z
  unfold Machine.execCtr at h
  simp only [Host.Outcome.next.injEq] at h
  subst h
  repeat' first
    | with_reducible assumption
    | (intro _ _ _ _)
    | (intro _ _ _)
    | (intro _ _)
    | (with_reducible apply Keeps.ite_fst)
    | (with_reducible apply Keeps.advance)
    | (with_reducible apply Keeps.takeMessage)

theorem Keeps.execXtsEncrypt {z : State} (t fn q : Nat) (params source : Option Bytes) {u : State}
    (h : execXtsEncrypt t fn q params source z = .next u) : Keeps z u := by
  have hk := Keeps.refl z
  unfold Machine.execXtsEncrypt at h
  simp only [Host.Outcome.next.injEq] at h
  subst h
  repeat' first
    | with_reducible assumption
    | (intro _ _ _ _)
    | (intro _ _ _)
    | (intro _ _)
    | (with_reducible apply Keeps.ite_fst)
    | (with_reducible apply Keeps.advance)
    | (with_reducible apply Keeps.takeMessage)

theorem Keeps.execXtsDecrypt {z : State} (t fn q : Nat) (params source : Option Bytes) {u : State}
    (h : execXtsDecrypt t fn q params source z = .next u) : Keeps z u := by
  have hk := Keeps.refl z
  unfold Machine.execXtsDecrypt at h
  simp only [Host.Outcome.next.injEq] at h
  subst h
  repeat' first
    | with_reducible assumption
    | (intro _ _ _ _)
    | (intro _ _ _)
    | (intro _ _)
    | (with_reducible apply Keeps.ite_fst)
    | (with_reducible apply Keeps.advance)
    | (with_reducible apply Keeps.takeMessage)

theorem Keeps.execUnwrap {z : State} (t fn q : Nat) (blob : Option Bytes) {u : State}
    (h : execUnwrap t fn q blob z = .next u) : Keeps z u := by
  have hk := Keeps.refl z
  unfold Machine.execUnwrap at h
  simp only [Host.Outcome.next.injEq] at h
  subst h
  repeat' first
    | with_reducible assumption
    | (intro _ _ _ _)
    | (intro _ _ _)
    | (intro _ _)
    | (with_reducible apply Keeps.ite_fst)
    | (with_reducible apply Keeps.advance)
    | (with_reducible apply Keeps.unwrapOp)

theorem Keeps.execWrap {z : State} (t fn q : Nat) (key : Option Bytes) {u : State}
    (h : execWrap t fn q key z = .next u) : Keeps z u := by
  have hk := Keeps.refl z
  unfold Machine.execWrap at h
  simp only [Host.Outcome.next.injEq] at h
  subst h
  repeat' first
    | with_reducible assumption
    | (intro _ _ _ _)
    | (intro _ _ _)
    | (intro _ _)
    | (with_reducible apply Keeps.ite_fst)
    | (with_reducible apply Keeps.advance)
    | (with_reducible apply Keeps.wrapOp)

theorem Keeps.execSlotClear {z : State} (t fn q : Nat) {u : State}
    (h : execSlotClear t fn q z = .next u) : Keeps z u := by
  have hk := Keeps.refl z
  unfold Machine.execSlotClear at h
  simp only [Host.Outcome.next.injEq] at h
  subst h
  repeat' first
    | with_reducible assumption
    | (intro _ _ _ _)
    | (intro _ _ _)
    | (intro _ _)
    | (with_reducible apply Keeps.ite_fst)
    | (with_reducible apply Keeps.advance)
    | (with_reducible apply Keeps.slotClear)

theorem Keeps.execGateEntryChange {z : State} (t port : Nat) {u : State}
    (h : execGateEntryChange t port z = .next u) : Keeps z u := by
  have hk := Keeps.refl z
  unfold Machine.execGateEntryChange at h
  simp only [Host.Outcome.next.injEq] at h
  subst h
  repeat' first
    | with_reducible assumption
    | (intro _ _ _ _)
    | (intro _ _ _)
    | (intro _ _)
    | (with_reducible apply Keeps.ite_fst)
    | (with_reducible apply Keeps.setPsched)
    | (with_reducible apply Keeps.advance)
    | (with_reducible apply Keeps.setPsched)
    | (with_reducible apply Keeps.ite)

theorem Keeps.execGateConfigApply {z : State} (t port : Nat) {u : State}
    (h : execGateConfigApply t port z = .next u) : Keeps z u := by
  have hk := Keeps.refl z
  unfold Machine.execGateConfigApply at h
  simp only [Host.Outcome.next.injEq] at h
  subst h
  repeat' first
    | with_reducible assumption
    | (intro _ _ _ _)
    | (intro _ _ _)
    | (intro _ _)
    | (with_reducible apply Keeps.ite_fst)
    | (with_reducible apply Keeps.advance)
    | (with_reducible apply Keeps.applyGates)
    | (with_reducible apply Keeps.ite)
    | split

theorem Keeps.execGateConfigChange {z : State} (r : Rq) {u : State}
    (h : execGateConfigChange r z = .next u) : Keeps z u := by
  have hk := Keeps.refl z
  unfold Machine.execGateConfigChange at h
  simp only [Host.Outcome.next.injEq] at h
  subst h
  repeat' first
    | with_reducible assumption
    | (intro _ _ _ _)
    | (intro _ _ _)
    | (intro _ _)
    | (with_reducible apply Keeps.ite_fst)
    | (with_reducible apply Keeps.dikeLog)
    | (with_reducible apply Keeps.serveAction)
    | (with_reducible apply Keeps.gateChange)

theorem Keeps.execQueueLatencyMax {z : State} (r : Rq) {u : State}
    (h : execQueueLatencyMax r z = .next u) : Keeps z u := by
  have hk := Keeps.refl z
  unfold Machine.execQueueLatencyMax at h
  simp only [Host.Outcome.next.injEq] at h
  subst h
  repeat' first
    | with_reducible assumption
    | (intro _ _ _ _)
    | (intro _ _ _)
    | (intro _ _)
    | (with_reducible apply Keeps.ite_fst)
    | (with_reducible apply Keeps.setPsched)
    | (with_reducible apply Keeps.serveAction)

theorem Keeps.execWeirWrite {z : State} (r : Rq) {u : State}
    (h : execWeirWrite r z = .next u) : Keeps z u := by
  have hk := Keeps.refl z
  unfold Machine.execWeirWrite at h
  simp only [Host.Outcome.next.injEq] at h
  subst h
  repeat' first
    | with_reducible assumption
    | (intro _ _ _ _)
    | (intro _ _ _)
    | (intro _ _)
    | (with_reducible apply Keeps.ite_fst)
    | (with_reducible apply Keeps.dikeLog)
    | (with_reducible apply Keeps.serveAction)
    | (with_reducible apply Keeps.weirWrite)
    | (with_reducible refine Keeps.forEach _ (fun _ _ _ => ?_) ?_)

theorem Keeps.execWeirRead {z : State} (r : Rq) {u : State}
    (h : execWeirRead r z = .next u) : Keeps z u := by
  have hk := Keeps.refl z
  unfold Machine.execWeirRead at h
  simp only [Host.Outcome.next.injEq] at h
  subst h
  repeat' first
    | with_reducible assumption
    | (intro _ _ _ _)
    | (intro _ _ _)
    | (intro _ _)
    | (with_reducible apply Keeps.ite_fst)
    | (with_reducible apply Keeps.serveAction)

theorem Keeps.execWeirUnblock {z : State} (r : Rq) {u : State}
    (h : execWeirUnblock r z = .next u) : Keeps z u := by
  have hk := Keeps.refl z
  unfold Machine.execWeirUnblock at h
  simp only [Host.Outcome.next.injEq] at h
  subst h
  repeat' first
    | with_reducible assumption
    | (intro _ _ _ _)
    | (intro _ _ _)
    | (intro _ _)
    | (with_reducible apply Keeps.ite_fst)
    | (with_reducible apply Keeps.setWeir)
    | (with_reducible apply Keeps.dikeLog)
    | (with_reducible apply Keeps.serveAction)
    | (with_reducible refine Keeps.forEach _ (fun _ _ _ => ?_) ?_)

theorem Keeps.execWeirCounterClear {z : State} (r : Rq) {u : State}
    (h : execWeirCounterClear r z = .next u) : Keeps z u := by
  have hk := Keeps.refl z
  unfold Machine.execWeirCounterClear at h
  simp only [Host.Outcome.next.injEq] at h
  subst h
  repeat' first
    | with_reducible assumption
    | (intro _ _ _ _)
    | (intro _ _ _)
    | (intro _ _)
    | (with_reducible apply Keeps.ite_fst)
    | (with_reducible apply Keeps.setWeir)
    | (with_reducible apply Keeps.dikeLog)
    | (with_reducible apply Keeps.serveAction)
    | (with_reducible refine Keeps.forEach _ (fun _ _ _ => ?_) ?_)

theorem Keeps.execStreamFilterWrite {z : State} (r : Rq) {u : State}
    (h : execStreamFilterWrite r z = .next u) : Keeps z u := by
  have hk := Keeps.refl z
  unfold Machine.execStreamFilterWrite at h
  simp only [Host.Outcome.next.injEq] at h
  subst h
  repeat' first
    | with_reducible assumption
    | (intro _ _ _ _)
    | (intro _ _ _)
    | (intro _ _)
    | (with_reducible apply Keeps.ite_fst)
    | (with_reducible apply Keeps.setFilter)
    | (with_reducible apply Keeps.dikeLogFields)
    | (with_reducible apply Keeps.serveAction)

theorem Keeps.execStreamFilterRead {z : State} (r : Rq) {u : State}
    (h : execStreamFilterRead r z = .next u) : Keeps z u := by
  have hk := Keeps.refl z
  unfold Machine.execStreamFilterRead at h
  simp only [Host.Outcome.next.injEq] at h
  subst h
  repeat' first
    | with_reducible assumption
    | (intro _ _ _ _)
    | (intro _ _ _)
    | (intro _ _)
    | (with_reducible apply Keeps.ite_fst)
    | (with_reducible apply Keeps.serveAction)

theorem Keeps.execFrrDebounceExpiry {z : State} (t port : Nat) (triggers : List (Nat × Nat)) {u : State}
    (h : execFrrDebounceExpiry t port triggers z = .next u) : Keeps z u := by
  have hk := Keeps.refl z
  unfold Machine.execFrrDebounceExpiry at h
  simp only [Host.Outcome.next.injEq] at h
  subst h
  repeat' first
    | with_reducible assumption
    | (intro _ _ _ _)
    | (intro _ _ _)
    | (intro _ _)
    | (with_reducible apply Keeps.ite_fst)
    | (with_reducible apply Keeps.advance)
    | (with_reducible apply Keeps.debounceExpiry)
    | (with_reducible apply Keeps.ite)

theorem Keeps.execFrrConditionChange {z : State} (t port trigger : Nat) (w : Condition) {u : State}
    (h : execFrrConditionChange t port trigger w z = .next u) : Keeps z u := by
  have hk := Keeps.refl z
  unfold Machine.execFrrConditionChange at h
  simp only [Host.Outcome.next.injEq] at h
  subst h
  repeat' first
    | with_reducible assumption
    | (intro _ _ _ _)
    | (intro _ _ _)
    | (intro _ _)
    | (with_reducible apply Keeps.ite_fst)
    | (with_reducible apply Keeps.advance)
    | (with_reducible apply Keeps.conditionChange)
    | (with_reducible apply Keeps.fecCodeword)
    | (with_reducible refine Keeps.forEach _ (fun _ _ _ => ?_) ?_)
    | (with_reducible apply Keeps.ite)

theorem Keeps.execFrrRevertHoldExpiry {z : State} (t port : Nat) {u : State}
    (h : execFrrRevertHoldExpiry t port z = .next u) : Keeps z u := by
  have hk := Keeps.refl z
  unfold Machine.execFrrRevertHoldExpiry at h
  simp only [Host.Outcome.next.injEq] at h
  subst h
  repeat' first
    | with_reducible assumption
    | (intro _ _ _ _)
    | (intro _ _ _)
    | (intro _ _)
    | (with_reducible apply Keeps.ite_fst)
    | (with_reducible apply Keeps.advance)
    | (with_reducible apply Keeps.revert)
    | (with_reducible apply Keeps.ite)

theorem Keeps.execFrrRevert {z : State} (r : Rq) {u : State}
    (h : execFrrRevert r z = .next u) : Keeps z u := by
  have hk := Keeps.refl z
  unfold Machine.execFrrRevert at h
  simp only [Host.Outcome.next.injEq] at h
  subst h
  repeat' first
    | with_reducible assumption
    | (intro _ _ _ _)
    | (intro _ _ _)
    | (intro _ _)
    | (with_reducible apply Keeps.ite_fst)
    | (with_reducible apply Keeps.serveAction)
    | (with_reducible apply Keeps.revert)

theorem Keeps.execLinkStateChange {z : State} (t port : Nat) (st : LinkSt) (w : LinkTerms) {u : State}
    (h : execLinkStateChange t port st w z = .next u) : Keeps z u := by
  have hk := Keeps.refl z
  unfold Machine.execLinkStateChange at h
  simp only [Host.Outcome.next.injEq] at h
  subst h
  repeat' first
    | with_reducible assumption
    | (intro _ _ _ _)
    | (intro _ _ _)
    | (intro _ _)
    | (with_reducible apply Keeps.ite_fst)
    | (with_reducible apply Keeps.advance)
    | (with_reducible apply Keeps.setLink)
    | (with_reducible apply Keeps.ite)

theorem Keeps.execPortRetry {z : State} (t port : Nat) {u : State}
    (h : execPortRetry t port z = .next u) : Keeps z u := by
  have hk := Keeps.refl z
  unfold Machine.execPortRetry at h
  simp only [Host.Outcome.next.injEq] at h
  subst h
  repeat' first
    | with_reducible assumption
    | (intro _ _ _ _)
    | (intro _ _ _)
    | (intro _ _)
    | (with_reducible apply Keeps.ite_fst)
    | (with_reducible apply Keeps.setPort)
    | (with_reducible apply Keeps.advance)
    | (with_reducible apply Keeps.setLink)
    | (with_reducible apply Keeps.setPort)
    | (with_reducible apply Keeps.ite)

theorem Keeps.execTimeSet {z : State} (r : Rq) {u : State}
    (h : execTimeSet r z = .next u) : Keeps z u := by
  have hk := Keeps.refl z
  unfold Machine.execTimeSet at h
  simp only [Host.Outcome.next.injEq] at h
  subst h
  repeat' first
    | with_reducible assumption
    | (intro _ _ _ _)
    | (intro _ _ _)
    | (intro _ _)
    | (with_reducible apply Keeps.ite_fst)
    | (with_reducible apply Keeps.serveAction)
    | (with_reducible apply Keeps.stepTime)

theorem Keeps.execTimeAdjust {z : State} (r : Rq) {u : State}
    (h : execTimeAdjust r z = .next u) : Keeps z u := by
  have hk := Keeps.refl z
  unfold Machine.execTimeAdjust at h
  simp only [Host.Outcome.next.injEq] at h
  subst h
  repeat' first
    | with_reducible assumption
    | (intro _ _ _ _)
    | (intro _ _ _)
    | (intro _ _)
    | (with_reducible apply Keeps.ite_fst)
    | (with_reducible apply Keeps.serveAction)
    | (with_reducible apply Keeps.gatesAfterStep)
    | (with_reducible apply Keeps.modTime)

theorem Keeps.execTimeSourceLost {z : State} (t : Nat) {u : State}
    (h : execTimeSourceLost t z = .next u) : Keeps z u := by
  have hk := Keeps.refl z
  unfold Machine.execTimeSourceLost at h
  simp only [Host.Outcome.next.injEq] at h
  subst h
  repeat' first
    | with_reducible assumption
    | (intro _ _ _ _)
    | (intro _ _ _)
    | (intro _ _)
    | (with_reducible apply Keeps.ite_fst)
    | (with_reducible apply Keeps.advance)
    | (with_reducible apply Keeps.loseSource)

theorem Keeps.execPpsInEdge {z : State} (t : Nat) (rising : Bool) {u : State}
    (h : execPpsInEdge t rising z = .next u) : Keeps z u := by
  have hk := Keeps.refl z
  unfold Machine.execPpsInEdge at h
  simp only [Host.Outcome.next.injEq] at h
  subst h
  repeat' first
    | with_reducible assumption
    | (intro _ _ _ _)
    | (intro _ _ _)
    | (intro _ _)
    | (with_reducible apply Keeps.ite_fst)
    | (with_reducible apply Keeps.advance)
    | (with_reducible apply Keeps.ppsIn)
    | (with_reducible apply Keeps.ite)

theorem Keeps.execPpsOutRise {z : State} (t : Nat) {u : State}
    (h : execPpsOutRise t z = .next u) : Keeps z u := by
  have hk := Keeps.refl z
  unfold Machine.execPpsOutRise at h
  simp only [Host.Outcome.next.injEq] at h
  subst h
  repeat' first
    | with_reducible assumption
    | (intro _ _ _ _)
    | (intro _ _ _)
    | (intro _ _)
    | (with_reducible apply Keeps.ite_fst)
    | (with_reducible apply Keeps.advance)
    | (with_reducible apply Keeps.modTime)
    | (with_reducible apply Keeps.ite)

theorem Keeps.execPpsOutFall {z : State} (t : Nat) {u : State}
    (h : execPpsOutFall t z = .next u) : Keeps z u := by
  have hk := Keeps.refl z
  unfold Machine.execPpsOutFall at h
  simp only [Host.Outcome.next.injEq] at h
  subst h
  repeat' first
    | with_reducible assumption
    | (intro _ _ _ _)
    | (intro _ _ _)
    | (intro _ _)
    | (with_reducible apply Keeps.ite_fst)
    | (with_reducible apply Keeps.advance)
    | (with_reducible apply Keeps.modTime)
    | (with_reducible apply Keeps.ite)

theorem Keeps.execFrerResetTimeout {z : State} (w : StreamAt) {u : State}
    (h : execFrerResetTimeout w z = .next u) : Keeps z u := by
  have hk := Keeps.refl z
  unfold Machine.execFrerResetTimeout at h
  simp only [Host.Outcome.next.injEq] at h
  subst h
  repeat' first
    | with_reducible assumption
    | (intro _ _ _ _)
    | (intro _ _ _)
    | (intro _ _)
    | (with_reducible apply Keeps.ite_fst)
    | (with_reducible apply Keeps.setFrer)
    | (with_reducible apply Keeps.advance)
    | (with_reducible apply Keeps.frerCount)
    | (with_reducible apply Keeps.setFrer)
    | (with_reducible apply Keeps.ite)

theorem Keeps.execFrerStreamWrite {z : State} (r : Rq) {u : State}
    (h : execFrerStreamWrite r z = .next u) : Keeps z u := by
  have hk := Keeps.refl z
  unfold Machine.execFrerStreamWrite at h
  simp only [Host.Outcome.next.injEq] at h
  subst h
  repeat' first
    | with_reducible assumption
    | (intro _ _ _ _)
    | (intro _ _ _)
    | (intro _ _)
    | (with_reducible apply Keeps.ite_fst)
    | (with_reducible apply Keeps.setFrer)
    | (with_reducible apply Keeps.dikeLogFields)
    | (with_reducible apply Keeps.serveAction)

theorem Keeps.execFrerStreamRead {z : State} (r : Rq) {u : State}
    (h : execFrerStreamRead r z = .next u) : Keeps z u := by
  have hk := Keeps.refl z
  unfold Machine.execFrerStreamRead at h
  simp only [Host.Outcome.next.injEq] at h
  subst h
  repeat' first
    | with_reducible assumption
    | (intro _ _ _ _)
    | (intro _ _ _)
    | (intro _ _)
    | (with_reducible apply Keeps.ite_fst)
    | (with_reducible apply Keeps.serveAction)

theorem Keeps.execRuleWrite {z : State} (r : Rq) {u : State}
    (h : execRuleWrite r z = .next u) : Keeps z u := by
  have hk := Keeps.refl z
  unfold Machine.execRuleWrite at h
  simp only [Host.Outcome.next.injEq] at h
  subst h
  repeat' first
    | with_reducible assumption
    | (intro _ _ _ _)
    | (intro _ _ _)
    | (intro _ _)
    | (with_reducible apply Keeps.ite_fst)
    | (with_reducible apply Keeps.dikeLogFields)
    | (with_reducible apply Keeps.action)
    | (with_reducible apply Keeps.serveAction)
    | (with_reducible apply Keeps.setBank)

theorem Keeps.execRuleRead {z : State} (r : Rq) {u : State}
    (h : execRuleRead r z = .next u) : Keeps z u := by
  have hk := Keeps.refl z
  unfold Machine.execRuleRead at h
  simp only [Host.Outcome.next.injEq] at h
  subst h
  repeat' first
    | with_reducible assumption
    | (intro _ _ _ _)
    | (intro _ _ _)
    | (intro _ _)
    | (with_reducible apply Keeps.ite_fst)
    | (with_reducible apply Keeps.action)
    | (with_reducible apply Keeps.serveAction)

theorem Keeps.execRuleClearRange {z : State} (r : Rq) {u : State}
    (h : execRuleClearRange r z = .next u) : Keeps z u := by
  have hk := Keeps.refl z
  unfold Machine.execRuleClearRange at h
  simp only [Host.Outcome.next.injEq] at h
  subst h
  repeat' first
    | with_reducible assumption
    | (intro _ _ _ _)
    | (intro _ _ _)
    | (intro _ _)
    | (with_reducible apply Keeps.ite_fst)
    | (with_reducible apply Keeps.dikeLogFields)
    | (with_reducible apply Keeps.serveAction)
    | (with_reducible apply Keeps.setBank)

theorem Keeps.execRuleCounterRead {z : State} (r : Rq) {u : State}
    (h : execRuleCounterRead r z = .next u) : Keeps z u := by
  have hk := Keeps.refl z
  unfold Machine.execRuleCounterRead at h
  simp only [Host.Outcome.next.injEq] at h
  subst h
  repeat' first
    | with_reducible assumption
    | (intro _ _ _ _)
    | (intro _ _ _)
    | (intro _ _)
    | (with_reducible apply Keeps.ite_fst)
    | (with_reducible apply Keeps.serveAction)

theorem Keeps.execRuleCounterClear {z : State} (r : Rq) {u : State}
    (h : execRuleCounterClear r z = .next u) : Keeps z u := by
  have hk := Keeps.refl z
  unfold Machine.execRuleCounterClear at h
  simp only [Host.Outcome.next.injEq] at h
  subst h
  repeat' first
    | with_reducible assumption
    | (intro _ _ _ _)
    | (intro _ _ _)
    | (intro _ _)
    | (with_reducible apply Keeps.ite_fst)
    | (with_reducible apply Keeps.dikeLogFields)
    | (with_reducible apply Keeps.serveAction)
    | (with_reducible apply Keeps.modCls)

theorem Keeps.execParseStateWrite {z : State} (r : Rq) {u : State}
    (h : execParseStateWrite r z = .next u) : Keeps z u := by
  have hk := Keeps.refl z
  unfold Machine.execParseStateWrite at h
  simp only [Host.Outcome.next.injEq] at h
  subst h
  repeat' first
    | with_reducible assumption
    | (intro _ _ _ _)
    | (intro _ _ _)
    | (intro _ _)
    | (with_reducible apply Keeps.ite_fst)
    | (with_reducible apply Keeps.dikeLogFields)
    | (with_reducible apply Keeps.serveAction)
    | (with_reducible apply Keeps.setBank)

theorem Keeps.execTransitionWrite {z : State} (r : Rq) {u : State}
    (h : execTransitionWrite r z = .next u) : Keeps z u := by
  have hk := Keeps.refl z
  unfold Machine.execTransitionWrite at h
  simp only [Host.Outcome.next.injEq] at h
  subst h
  repeat' first
    | with_reducible assumption
    | (intro _ _ _ _)
    | (intro _ _ _)
    | (intro _ _)
    | (with_reducible apply Keeps.ite_fst)
    | (with_reducible apply Keeps.dikeLogFields)
    | (with_reducible apply Keeps.serveAction)
    | (with_reducible apply Keeps.setBank)

theorem Keeps.execKeyProfileWrite {z : State} (r : Rq) {u : State}
    (h : execKeyProfileWrite r z = .next u) : Keeps z u := by
  have hk := Keeps.refl z
  unfold Machine.execKeyProfileWrite at h
  simp only [Host.Outcome.next.injEq] at h
  subst h
  repeat' first
    | with_reducible assumption
    | (intro _ _ _ _)
    | (intro _ _ _)
    | (intro _ _)
    | (with_reducible apply Keeps.ite_fst)
    | (with_reducible apply Keeps.dikeLogFields)
    | (with_reducible apply Keeps.serveAction)
    | (with_reducible apply Keeps.setBank)

theorem Keeps.execClassMapWrite {z : State} (r : Rq) {u : State}
    (h : execClassMapWrite r z = .next u) : Keeps z u := by
  have hk := Keeps.refl z
  unfold Machine.execClassMapWrite at h
  simp only [Host.Outcome.next.injEq] at h
  subst h
  repeat' first
    | with_reducible assumption
    | (intro _ _ _ _)
    | (intro _ _ _)
    | (intro _ _)
    | (with_reducible apply Keeps.ite_fst)
    | (with_reducible apply Keeps.dikeLogFields)
    | (with_reducible apply Keeps.serveAction)
    | (with_reducible apply Keeps.setBank)

theorem Keeps.execProgramRead {z : State} (r : Rq) {u : State}
    (h : execProgramRead r z = .next u) : Keeps z u := by
  have hk := Keeps.refl z
  unfold Machine.execProgramRead at h
  simp only [Host.Outcome.next.injEq] at h
  subst h
  repeat' first
    | with_reducible assumption
    | (intro _ _ _ _)
    | (intro _ _ _)
    | (intro _ _)
    | (with_reducible apply Keeps.ite_fst)
    | (with_reducible apply Keeps.serveAction)

theorem Keeps.execBankSwap {z : State} (r : Rq) {u : State}
    (h : execBankSwap r z = .next u) : Keeps z u := by
  have hk := Keeps.refl z
  unfold Machine.execBankSwap at h
  simp only [Host.Outcome.next.injEq] at h
  subst h
  repeat' first
    | with_reducible assumption
    | (intro _ _ _ _)
    | (intro _ _ _)
    | (intro _ _)
    | (with_reducible apply Keeps.ite_fst)
    | (with_reducible apply Keeps.dikeLogFields)
    | (with_reducible apply Keeps.serveAction)
    | (with_reducible apply Keeps.modCls)

theorem Keeps.execBankRetire {z : State} (t die : Nat) {u : State}
    (h : execBankRetire t die z = .next u) : Keeps z u := by
  have hk := Keeps.refl z
  unfold Machine.execBankRetire at h
  simp only [Host.Outcome.next.injEq] at h
  subst h
  repeat' first
    | with_reducible assumption
    | (intro _ _ _ _)
    | (intro _ _ _)
    | (intro _ _)
    | (with_reducible apply Keeps.ite_fst)
    | (with_reducible apply Keeps.advance)
    | (with_reducible apply Keeps.bankRetire)

theorem Keeps.execReplicaWrite {z : State} (src dst : Nat) {u : State}
    (h : execReplicaWrite src dst z = .next u) : Keeps z u := by
  have hk := Keeps.refl z
  unfold Machine.execReplicaWrite at h
  simp only [Host.Outcome.next.injEq] at h
  subst h
  repeat' first
    | with_reducible assumption
    | (intro _ _ _ _)
    | (intro _ _ _)
    | (intro _ _)
    | (with_reducible apply Keeps.ite_fst)
    | (with_reducible apply Keeps.replicaWrite)

theorem Keeps.execReplicaResyncDone {z : State} (die : Nat) {u : State}
    (h : execReplicaResyncDone die z = .next u) : Keeps z u := by
  have hk := Keeps.refl z
  unfold Machine.execReplicaResyncDone at h
  simp only [Host.Outcome.next.injEq] at h
  subst h
  repeat' first
    | with_reducible assumption
    | (intro _ _ _ _)
    | (intro _ _ _)
    | (intro _ _)
    | (with_reducible apply Keeps.ite_fst)
    | (with_reducible apply Keeps.copyReplica)
    | ((with_reducible refine Keeps.modTables ?_ ?_) <;> [skip; (generalize State.tables _ = b; exact fun h => h)])
    | (with_reducible apply Keeps.ite)

theorem Keeps.execHitNotice {z : State} (die : Nat) {u : State}
    (h : execHitNotice die z = .next u) : Keeps z u := by
  have hk := Keeps.refl z
  unfold Machine.execHitNotice at h
  simp only [Host.Outcome.next.injEq] at h
  subst h
  repeat' first
    | with_reducible assumption
    | (intro _ _ _ _)
    | (intro _ _ _)
    | (intro _ _)
    | (with_reducible apply Keeps.ite_fst)
    | (with_reducible apply Keeps.hitNotice)

theorem Keeps.execLearn {z : State} (t die : Nat) {u : State}
    (h : execLearn t die z = .next u) : Keeps z u := by
  have hk := Keeps.refl z
  unfold Machine.execLearn at h
  simp only [Host.Outcome.next.injEq] at h
  subst h
  repeat' first
    | with_reducible assumption
    | (intro _ _ _ _)
    | (intro _ _ _)
    | (intro _ _)
    | (with_reducible apply Keeps.ite_fst)
    | (with_reducible apply Keeps.advance)
    | (with_reducible apply Keeps.learn)

theorem Keeps.execLearnFilterExpiry {z : State} (t : Nat) (w : FilterEntry) {u : State}
    (h : execLearnFilterExpiry t w z = .next u) : Keeps z u := by
  have hk := Keeps.refl z
  unfold Machine.execLearnFilterExpiry at h
  simp only [Host.Outcome.next.injEq] at h
  subst h
  repeat' first
    | with_reducible assumption
    | (intro _ _ _ _)
    | (intro _ _ _)
    | (intro _ _)
    | (with_reducible apply Keeps.ite_fst)
    | (with_reducible apply Keeps.advance)
    | (with_reducible apply Keeps.learnFilterExpiry)

theorem Keeps.execAgerVisit {z : State} (t index : Nat) {u : State}
    (h : execAgerVisit t index z = .next u) : Keeps z u := by
  have hk := Keeps.refl z
  unfold Machine.execAgerVisit at h
  simp only [Host.Outcome.next.injEq] at h
  subst h
  repeat' first
    | with_reducible assumption
    | (intro _ _ _ _)
    | (intro _ _ _)
    | (intro _ _)
    | (with_reducible apply Keeps.ite_fst)
    | (with_reducible apply Keeps.advance)
    | (with_reducible apply Keeps.agerComes)

theorem Keeps.execFlushSweep {z : State} (w : DieAt) {u : State}
    (h : execFlushSweep w z = .next u) : Keeps z u := by
  have hk := Keeps.refl z
  unfold Machine.execFlushSweep at h
  simp only [Host.Outcome.next.injEq] at h
  subst h
  repeat' first
    | with_reducible assumption
    | (intro _ _ _ _)
    | (intro _ _ _)
    | (intro _ _)
    | (with_reducible apply Keeps.ite_fst)
    | (with_reducible apply Keeps.advance)
    | (with_reducible apply Keeps.flushSweep)

theorem Keeps.execFlushSweepEnd {z : State} (w : DieAt) {u : State}
    (h : execFlushSweepEnd w z = .next u) : Keeps z u := by
  have hk := Keeps.refl z
  unfold Machine.execFlushSweepEnd at h
  simp only [Host.Outcome.next.injEq] at h
  subst h
  repeat' first
    | with_reducible assumption
    | (intro _ _ _ _)
    | (intro _ _ _)
    | (intro _ _)
    | (with_reducible apply Keeps.ite_fst)
    | (with_reducible apply Keeps.advance)
    | (with_reducible apply Keeps.flushSweepEnd)

theorem Keeps.execTblRead {z : State} (t table : Nat) (byIndex : Bool) (index : Nat) {u : State}
    (h : execTblRead t table byIndex index z = .next u) : Keeps z u := by
  have hk := Keeps.refl z
  unfold Machine.execTblRead at h
  simp only [Host.Outcome.next.injEq] at h
  subst h
  repeat' first
    | with_reducible assumption
    | (intro _ _ _ _)
    | (intro _ _ _)
    | (intro _ _)
    | (with_reducible apply Keeps.ite_fst)
    | (with_reducible apply Keeps.advance)
    | (with_reducible apply Keeps.tblCommand)
    | (with_reducible apply Keeps.tblRun)

theorem Keeps.execTblWrite {z : State} (t table : Nat) (byIndex : Bool) (index : Nat) {u : State}
    (h : execTblWrite t table byIndex index z = .next u) : Keeps z u := by
  have hk := Keeps.refl z
  unfold Machine.execTblWrite at h
  simp only [Host.Outcome.next.injEq] at h
  subst h
  repeat' first
    | with_reducible assumption
    | (intro _ _ _ _)
    | (intro _ _ _)
    | (intro _ _)
    | (with_reducible apply Keeps.ite_fst)
    | (with_reducible apply Keeps.advance)
    | (with_reducible apply Keeps.tblCommand)
    | (with_reducible apply Keeps.tblRun)

theorem Keeps.execTblDelete {z : State} (t table : Nat) (byIndex : Bool) (index : Nat) {u : State}
    (h : execTblDelete t table byIndex index z = .next u) : Keeps z u := by
  have hk := Keeps.refl z
  unfold Machine.execTblDelete at h
  simp only [Host.Outcome.next.injEq] at h
  subst h
  repeat' first
    | with_reducible assumption
    | (intro _ _ _ _)
    | (intro _ _ _)
    | (intro _ _)
    | (with_reducible apply Keeps.ite_fst)
    | (with_reducible apply Keeps.advance)
    | (with_reducible apply Keeps.tblCommand)
    | (with_reducible apply Keeps.tblRun)

theorem Keeps.execTblSearch {z : State} (t table : Nat) (byIndex : Bool) (index : Nat) {u : State}
    (h : execTblSearch t table byIndex index z = .next u) : Keeps z u := by
  have hk := Keeps.refl z
  unfold Machine.execTblSearch at h
  simp only [Host.Outcome.next.injEq] at h
  subst h
  repeat' first
    | with_reducible assumption
    | (intro _ _ _ _)
    | (intro _ _ _)
    | (intro _ _)
    | (with_reducible apply Keeps.ite_fst)
    | (with_reducible apply Keeps.advance)
    | (with_reducible apply Keeps.tblCommand)
    | (with_reducible apply Keeps.tblRun)

theorem Keeps.execFlushByDest {z : State} (t table : Nat) (byIndex : Bool) (index : Nat) {u : State}
    (h : execFlushByDest t table byIndex index z = .next u) : Keeps z u := by
  have hk := Keeps.refl z
  unfold Machine.execFlushByDest at h
  simp only [Host.Outcome.next.injEq] at h
  subst h
  repeat' first
    | with_reducible assumption
    | (intro _ _ _ _)
    | (intro _ _ _)
    | (intro _ _)
    | (with_reducible apply Keeps.ite_fst)
    | (with_reducible apply Keeps.advance)
    | (with_reducible apply Keeps.tblCommand)
    | (with_reducible apply Keeps.tblRun)

theorem Keeps.execAgeNow {z : State} (t table : Nat) (byIndex : Bool) (index : Nat) {u : State}
    (h : execAgeNow t table byIndex index z = .next u) : Keeps z u := by
  have hk := Keeps.refl z
  unfold Machine.execAgeNow at h
  simp only [Host.Outcome.next.injEq] at h
  subst h
  repeat' first
    | with_reducible assumption
    | (intro _ _ _ _)
    | (intro _ _ _)
    | (intro _ _)
    | (with_reducible apply Keeps.ite_fst)
    | (with_reducible apply Keeps.advance)
    | (with_reducible apply Keeps.tblCommand)
    | (with_reducible apply Keeps.tblRun)

theorem Keeps.execTblCommandComplete {z : State} (t : Nat) {u : State}
    (h : execTblCommandComplete t z = .next u) : Keeps z u := by
  have hk := Keeps.refl z
  unfold Machine.execTblCommandComplete at h
  simp only [Host.Outcome.next.injEq] at h
  subst h
  repeat' first
    | with_reducible assumption
    | (intro _ _ _ _)
    | (intro _ _ _)
    | (intro _ _)
    | (with_reducible apply Keeps.ite_fst)
    | (with_reducible apply Keeps.advance)
    | (with_reducible apply Keeps.tblComplete)

theorem Keeps.execVlanWrite {z : State} (r : Rq) {u : State}
    (h : execVlanWrite r z = .next u) : Keeps z u := by
  have hk := Keeps.refl z
  unfold Machine.execVlanWrite at h
  simp only [Host.Outcome.next.injEq] at h
  subst h
  repeat' first
    | with_reducible assumption
    | (intro _ _ _ _)
    | (intro _ _ _)
    | (intro _ _)
    | (with_reducible apply Keeps.ite_fst)
    | (with_reducible apply Keeps.dikeLogFields)
    | (with_reducible apply Keeps.serveAction)
    | (with_reducible apply Keeps.learn)
    | ((with_reducible refine Keeps.modTables ?_ ?_) <;> [skip; (generalize State.tables _ = b; exact fun h => h)])
    | ((with_reducible refine Keeps.modTables ?_ ?_) <;> [skip; (intro h; unfold TablesForm at h ⊢; simp_all [Tab.wf_set, Tab.wf_upd, Tab.wf_filter, Tab.wf_ite])])

theorem Keeps.execVlanRead {z : State} (r : Rq) {u : State}
    (h : execVlanRead r z = .next u) : Keeps z u := by
  have hk := Keeps.refl z
  unfold Machine.execVlanRead at h
  simp only [Host.Outcome.next.injEq] at h
  subst h
  repeat' first
    | with_reducible assumption
    | (intro _ _ _ _)
    | (intro _ _ _)
    | (intro _ _)
    | (with_reducible apply Keeps.ite_fst)
    | (with_reducible apply Keeps.serveAction)

theorem Keeps.execGroupWrite {z : State} (r : Rq) {u : State}
    (h : execGroupWrite r z = .next u) : Keeps z u := by
  have hk := Keeps.refl z
  unfold Machine.execGroupWrite at h
  simp only [Host.Outcome.next.injEq] at h
  subst h
  repeat' first
    | with_reducible assumption
    | (intro _ _ _ _)
    | (intro _ _ _)
    | (intro _ _)
    | (with_reducible apply Keeps.ite_fst)
    | (with_reducible apply Keeps.dikeLogFields)
    | (with_reducible apply Keeps.serveAction)
    | ((with_reducible refine Keeps.modTables ?_ ?_) <;> [skip; (generalize State.tables _ = b; exact fun h => h)])

theorem Keeps.execGroupRead {z : State} (r : Rq) {u : State}
    (h : execGroupRead r z = .next u) : Keeps z u := by
  have hk := Keeps.refl z
  unfold Machine.execGroupRead at h
  simp only [Host.Outcome.next.injEq] at h
  subst h
  repeat' first
    | with_reducible assumption
    | (intro _ _ _ _)
    | (intro _ _ _)
    | (intro _ _)
    | (with_reducible apply Keeps.ite_fst)
    | (with_reducible apply Keeps.serveAction)

theorem Keeps.execTableClear {z : State} (r : Rq) {u : State}
    (h : execTableClear r z = .next u) : Keeps z u := by
  have hk := Keeps.refl z
  unfold Machine.execTableClear at h
  simp only [Host.Outcome.next.injEq] at h
  subst h
  repeat' first
    | with_reducible assumption
    | (intro _ _ _ _)
    | (intro _ _ _)
    | (intro _ _)
    | (with_reducible apply Keeps.ite_fst)
    | (with_reducible apply Keeps.dikeLogFields)
    | (with_reducible apply Keeps.serveAction)
    | (with_reducible apply Keeps.clearTable)

theorem Keeps.execFlitReceive {z : State} (c : Nat) (ok : Bool) {u : State}
    (h : execFlitReceive c ok z = .next u) : Keeps z u := by
  have hk := Keeps.refl z
  unfold Machine.execFlitReceive at h
  simp only [Host.Outcome.next.injEq] at h
  subst h
  repeat' first
    | with_reducible assumption
    | (intro _ _ _ _)
    | (intro _ _ _)
    | (intro _ _)
    | (with_reducible apply Keeps.ite_fst)
    | (with_reducible apply Keeps.flitReceive)
    | (with_reducible apply Keeps.ite)

theorem Keeps.execCulvertDown {z : State} (t c : Nat) {u : State}
    (h : execCulvertDown t c z = .next u) : Keeps z u := by
  have hk := Keeps.refl z
  unfold Machine.execCulvertDown at h
  simp only [Host.Outcome.next.injEq] at h
  subst h
  repeat' first
    | with_reducible assumption
    | (intro _ _ _ _)
    | (intro _ _ _)
    | (intro _ _)
    | (with_reducible apply Keeps.ite_fst)
    | (with_reducible apply Keeps.advance)
    | (with_reducible apply Keeps.culvertDown)
    | (with_reducible apply Keeps.ite)

theorem Keeps.execCulvertRetrain {z : State} (t c : Nat) (up : Bool) {u : State}
    (h : execCulvertRetrain t c up z = .next u) : Keeps z u := by
  have hk := Keeps.refl z
  unfold Machine.execCulvertRetrain at h
  simp only [Host.Outcome.next.injEq] at h
  subst h
  repeat' first
    | with_reducible assumption
    | (intro _ _ _ _)
    | (intro _ _ _)
    | (intro _ _)
    | (with_reducible apply Keeps.ite_fst)
    | (with_reducible apply Keeps.advance)
    | (with_reducible apply Keeps.culvertRetrain)
    | (with_reducible apply Keeps.ite)

theorem Keeps.execContextRequest {z : State} (t die : Nat) {u : State}
    (h : execContextRequest t die z = .next u) : Keeps z u := by
  have hk := Keeps.refl z
  unfold Machine.execContextRequest at h
  simp only [Host.Outcome.next.injEq] at h
  subst h
  repeat' first
    | with_reducible assumption
    | (intro _ _ _ _)
    | (intro _ _ _)
    | (intro _ _)
    | (with_reducible apply Keeps.ite_fst)
    | (with_reducible apply Keeps.setFlowDie)
    | (with_reducible apply Keeps.advance)
    | (with_reducible apply Keeps.ctlCross)
    | (with_reducible apply Keeps.serveRequest)
    | (with_reducible apply Keeps.setFlowDie)
    | (with_reducible apply Keeps.ite)
    | split

theorem Keeps.execFetchIssue {z : State} (die : Nat) {u : State}
    (h : execFetchIssue die z = .next u) : Keeps z u := by
  have hk := Keeps.refl z
  unfold Machine.execFetchIssue at h
  simp only [Host.Outcome.next.injEq] at h
  subst h
  repeat' first
    | with_reducible assumption
    | (intro _ _ _ _)
    | (intro _ _ _)
    | (intro _ _)
    | (with_reducible apply Keeps.ite_fst)
    | (with_reducible apply Keeps.fetchIssue)

theorem Keeps.execFetchComplete {z : State} (t die slot : Nat) (eccError : Bool) {u : State}
    (h : execFetchComplete t die slot eccError z = .next u) : Keeps z u := by
  have hk := Keeps.refl z
  unfold Machine.execFetchComplete at h
  simp only [Host.Outcome.next.injEq] at h
  subst h
  repeat' first
    | with_reducible assumption
    | (intro _ _ _ _)
    | (intro _ _ _)
    | (intro _ _)
    | (with_reducible apply Keeps.ite_fst)
    | (with_reducible apply Keeps.advance)
    | (with_reducible apply Keeps.eccError)
    | (with_reducible apply Keeps.fetchComplete)

theorem Keeps.execWriteBackReachesDdr4 {z : State} (die : Nat) {u : State}
    (h : execWriteBackReachesDdr4 die z = .next u) : Keeps z u := by
  have hk := Keeps.refl z
  unfold Machine.execWriteBackReachesDdr4 at h
  simp only [Host.Outcome.next.injEq] at h
  subst h
  repeat' first
    | with_reducible assumption
    | (intro _ _ _ _)
    | (intro _ _ _)
    | (intro _ _)
    | (with_reducible apply Keeps.ite_fst)
    | (with_reducible apply Keeps.setFlowDie)

theorem Keeps.execFlowAgerVisit {z : State} (t ctx : Nat) {u : State}
    (h : execFlowAgerVisit t ctx z = .next u) : Keeps z u := by
  have hk := Keeps.refl z
  unfold Machine.execFlowAgerVisit at h
  simp only [Host.Outcome.next.injEq] at h
  subst h
  repeat' first
    | with_reducible assumption
    | (intro _ _ _ _)
    | (intro _ _ _)
    | (intro _ _)
    | (with_reducible apply Keeps.ite_fst)
    | (with_reducible apply Keeps.advance)
    | (with_reducible apply Keeps.flowAgerVisit)

theorem Keeps.execFlowWrite {z : State} (r : Rq) {u : State}
    (h : execFlowWrite r z = .next u) : Keeps z u := by
  have hk := Keeps.refl z
  unfold Machine.execFlowWrite at h
  simp only [Host.Outcome.next.injEq] at h
  subst h
  repeat' first
    | with_reducible assumption
    | (intro _ _ _ _)
    | (intro _ _ _)
    | (intro _ _)
    | (with_reducible apply Keeps.ite_fst)
    | (with_reducible apply Keeps.dikeLog)
    | (with_reducible apply Keeps.serveAction)
    | (with_reducible apply Keeps.flowWrite)
    | split

theorem Keeps.execFlowRead {z : State} (r : Rq) {u : State}
    (h : execFlowRead r z = .next u) : Keeps z u := by
  have hk := Keeps.refl z
  unfold Machine.execFlowRead at h
  simp only [Host.Outcome.next.injEq] at h
  subst h
  repeat' first
    | with_reducible assumption
    | (intro _ _ _ _)
    | (intro _ _ _)
    | (intro _ _)
    | (with_reducible apply Keeps.ite_fst)
    | (with_reducible apply Keeps.serveAction)

theorem Keeps.execFlowDelete {z : State} (r : Rq) {u : State}
    (h : execFlowDelete r z = .next u) : Keeps z u := by
  have hk := Keeps.refl z
  unfold Machine.execFlowDelete at h
  simp only [Host.Outcome.next.injEq] at h
  subst h
  repeat' first
    | with_reducible assumption
    | (intro _ _ _ _)
    | (intro _ _ _)
    | (intro _ _)
    | (with_reducible apply Keeps.ite_fst)
    | (with_reducible apply Keeps.dikeLog)
    | (with_reducible apply Keeps.serveAction)
    | (with_reducible apply Keeps.deleteCtx)

theorem Keeps.execFlowPin {z : State} (r : Rq) {u : State}
    (h : execFlowPin r z = .next u) : Keeps z u := by
  have hk := Keeps.refl z
  unfold Machine.execFlowPin at h
  simp only [Host.Outcome.next.injEq] at h
  subst h
  repeat' first
    | with_reducible assumption
    | (intro _ _ _ _)
    | (intro _ _ _)
    | (intro _ _)
    | (with_reducible apply Keeps.ite_fst)
    | (with_reducible apply Keeps.dikeLog)
    | (with_reducible apply Keeps.serveAction)
    | (refine Keeps.pinCtx ?_ (by assumption))
    | split

theorem Keeps.execFlowClear {z : State} (r : Rq) {u : State}
    (h : execFlowClear r z = .next u) : Keeps z u := by
  have hk := Keeps.refl z
  unfold Machine.execFlowClear at h
  simp only [Host.Outcome.next.injEq] at h
  subst h
  repeat' first
    | with_reducible assumption
    | (intro _ _ _ _)
    | (intro _ _ _)
    | (intro _ _)
    | (with_reducible apply Keeps.ite_fst)
    | (with_reducible apply Keeps.dikeLogFields)
    | (with_reducible apply Keeps.serveAction)
    | ((with_reducible refine Keeps.modFlow ?_ ?_) <;> [skip; (generalize State.flow _ = b; exact fun h => h)])

theorem Keeps.execFlowClearComplete {z : State} (t : Nat) {u : State}
    (h : execFlowClearComplete t z = .next u) : Keeps z u := by
  have hk := Keeps.refl z
  unfold Machine.execFlowClearComplete at h
  simp only [Host.Outcome.next.injEq] at h
  subst h
  repeat' first
    | with_reducible assumption
    | (intro _ _ _ _)
    | (intro _ _ _)
    | (intro _ _)
    | (with_reducible apply Keeps.ite_fst)
    | (with_reducible apply Keeps.advance)
    | (with_reducible apply Keeps.answerAct)
    | (with_reducible apply Keeps.clearContexts)
    | (with_reducible apply Keeps.ite)

theorem Keeps.execFrameReceive {z : State} (t port : Nat) (bytes : Bytes) (fcsOk : Bool) {u : State}
    (h : execFrameReceive t port bytes fcsOk z = .next u) : Keeps z u := by
  have hk := Keeps.refl z
  unfold Machine.execFrameReceive at h
  simp only [Host.Outcome.next.injEq] at h
  subst h
  repeat' first
    | with_reducible assumption
    | (intro _ _ _ _)
    | (intro _ _ _)
    | (intro _ _)
    | (with_reducible apply Keeps.ite_fst)
    | (with_reducible apply Keeps.advance)
    | (with_reducible apply Keeps.receiveFrame)
    | (with_reducible apply Keeps.ite)

theorem Keeps.execPtpMessage {z : State} (t port : Nat) (bytes : Bytes) {u : State}
    (h : execPtpMessage t port bytes z = .next u) : Keeps z u := by
  have hk := Keeps.refl z
  unfold Machine.execPtpMessage at h
  simp only [Host.Outcome.next.injEq] at h
  subst h
  repeat' first
    | with_reducible assumption
    | (intro _ _ _ _)
    | (intro _ _ _)
    | (intro _ _)
    | (with_reducible apply Keeps.ite_fst)
    | (with_reducible apply Keeps.advance)
    | (with_reducible apply Keeps.ptpMessage)
    | (with_reducible apply Keeps.ite)

theorem Keeps.execRecircPass {z : State} (t pipe : Nat) {u : State}
    (h : execRecircPass t pipe z = .next u) : Keeps z u := by
  have hk := Keeps.refl z
  unfold Machine.execRecircPass at h
  simp only [Host.Outcome.next.injEq] at h
  subst h
  repeat' first
    | with_reducible assumption
    | (intro _ _ _ _)
    | (intro _ _ _)
    | (intro _ _)
    | (with_reducible apply Keeps.ite_fst)
    | (with_reducible apply Keeps.advance)
    | (with_reducible apply Keeps.recircPass)

theorem Keeps.execFrameEnqueue {z : State} (t ticket : Nat) (fault : BufFault) {u : State}
    (h : execFrameEnqueue t ticket fault z = .next u) : Keeps z u := by
  have hk := Keeps.refl z
  unfold Machine.execFrameEnqueue at h
  simp only [Host.Outcome.next.injEq] at h
  subst h
  repeat' first
    | with_reducible assumption
    | (intro _ _ _ _)
    | (intro _ _ _)
    | (intro _ _)
    | (with_reducible apply Keeps.ite_fst)
    | (with_reducible apply Keeps.advance)
    | (with_reducible apply Keeps.frameEnqueue)

theorem Keeps.execInjectionFrame {z : State} (t port : Nat) (bytes : Bytes) {u : State}
    (h : execInjectionFrame t port bytes z = .next u) : Keeps z u := by
  have hk := Keeps.refl z
  unfold Machine.execInjectionFrame at h
  simp only [Host.Outcome.next.injEq] at h
  subst h
  repeat' first
    | with_reducible assumption
    | (intro _ _ _ _)
    | (intro _ _ _)
    | (intro _ _)
    | (with_reducible apply Keeps.ite_fst)
    | (with_reducible apply Keeps.advance)
    | (with_reducible apply Keeps.injectionFrame)
    | (with_reducible apply Keeps.ite)

theorem Keeps.execTxSelect {z : State} (t port : Nat) {u : State}
    (h : execTxSelect t port z = .next u) : Keeps z u := by
  have hk := Keeps.refl z
  unfold Machine.execTxSelect at h
  simp only [Host.Outcome.next.injEq] at h
  subst h
  repeat' first
    | with_reducible assumption
    | (intro _ _ _ _)
    | (intro _ _ _)
    | (intro _ _)
    | (with_reducible apply Keeps.ite_fst)
    | (with_reducible apply Keeps.advance)
    | (with_reducible apply Keeps.txSelect)
    | (with_reducible apply Keeps.ite)

theorem Keeps.execFrameTxComplete {z : State} (t port : Nat) (fault : BufFault) {u : State}
    (h : execFrameTxComplete t port fault z = .next u) : Keeps z u := by
  have hk := Keeps.refl z
  unfold Machine.execFrameTxComplete at h
  simp only [Host.Outcome.next.injEq] at h
  subst h
  repeat' first
    | with_reducible assumption
    | (intro _ _ _ _)
    | (intro _ _ _)
    | (intro _ _)
    | (with_reducible apply Keeps.ite_fst)
    | (with_reducible apply Keeps.advance)
    | (with_reducible apply Keeps.frameTxComplete)
    | (with_reducible apply Keeps.ite)

theorem Keeps.execHostTxSelect {z : State} (t die : Nat) {u : State}
    (h : execHostTxSelect t die z = .next u) : Keeps z u := by
  have hk := Keeps.refl z
  unfold Machine.execHostTxSelect at h
  simp only [Host.Outcome.next.injEq] at h
  subst h
  repeat' first
    | with_reducible assumption
    | (intro _ _ _ _)
    | (intro _ _ _)
    | (intro _ _)
    | (with_reducible apply Keeps.ite_fst)
    | (with_reducible apply Keeps.advance)
    | (with_reducible apply Keeps.hostTxSelect)
    | (with_reducible apply Keeps.ite)

theorem Keeps.execSamplePeriodExpiry {z : State} (t : Nat) (src : SampleSrc) {u : State}
    (h : execSamplePeriodExpiry t src z = .next u) : Keeps z u := by
  have hk := Keeps.refl z
  unfold Machine.execSamplePeriodExpiry at h
  simp only [Host.Outcome.next.injEq] at h
  subst h
  repeat' first
    | with_reducible assumption
    | (intro _ _ _ _)
    | (intro _ _ _)
    | (intro _ _)
    | (with_reducible apply Keeps.ite_fst)
    | (with_reducible apply Keeps.advance)
    | (with_reducible apply Keeps.samplePort)
    | (with_reducible apply Keeps.sampleHost)
    | (with_reducible apply Keeps.ite)
    | split

theorem Keeps.execSiphonAckDelay {z : State} (t chan : Nat) {u : State}
    (h : execSiphonAckDelay t chan z = .next u) : Keeps z u := by
  have hk := Keeps.refl z
  unfold Machine.execSiphonAckDelay at h
  simp only [Host.Outcome.next.injEq] at h
  subst h
  repeat' first
    | with_reducible assumption
    | (intro _ _ _ _)
    | (intro _ _ _)
    | (intro _ _)
    | (with_reducible apply Keeps.ite_fst)
    | (with_reducible apply Keeps.advance)
    | (with_reducible apply Keeps.sendAck)
    | (with_reducible apply Keeps.ite)

theorem Keeps.execSiphonCnpInterval {z : State} (t chan : Nat) {u : State}
    (h : execSiphonCnpInterval t chan z = .next u) : Keeps z u := by
  have hk := Keeps.refl z
  unfold Machine.execSiphonCnpInterval at h
  simp only [Host.Outcome.next.injEq] at h
  subst h
  repeat' first
    | with_reducible assumption
    | (intro _ _ _ _)
    | (intro _ _ _)
    | (intro _ _)
    | (with_reducible apply Keeps.ite_fst)
    | (with_reducible apply Keeps.advance)
    | (with_reducible apply Keeps.sendCnp)
    | (with_reducible apply Keeps.ite)

theorem Keeps.execSiphonPathHold {z : State} (t chan path : Nat) {u : State}
    (h : execSiphonPathHold t chan path z = .next u) : Keeps z u := by
  have hk := Keeps.refl z
  unfold Machine.execSiphonPathHold at h
  simp only [Host.Outcome.next.injEq] at h
  subst h
  repeat' first
    | with_reducible assumption
    | (intro _ _ _ _)
    | (intro _ _ _)
    | (intro _ _)
    | (with_reducible apply Keeps.ite_fst)
    | (with_reducible apply Keeps.advance)
    | (with_reducible apply Keeps.setPath)
    | (with_reducible apply Keeps.ite)
    | split

theorem Keeps.execSiphonStepTimer {z : State} (t chan path : Nat) {u : State}
    (h : execSiphonStepTimer t chan path z = .next u) : Keeps z u := by
  have hk := Keeps.refl z
  unfold Machine.execSiphonStepTimer at h
  simp only [Host.Outcome.next.injEq] at h
  subst h
  repeat' first
    | with_reducible assumption
    | (intro _ _ _ _)
    | (intro _ _ _)
    | (intro _ _)
    | (with_reducible apply Keeps.ite_fst)
    | (with_reducible apply Keeps.advance)
    | (with_reducible apply Keeps.setPath)
    | (with_reducible apply Keeps.ite)
    | split

theorem Keeps.execSiphonPacketSend {z : State} (t chan : Nat) (payload : Option Bytes) {u : State}
    (h : execSiphonPacketSend t chan payload z = .next u) : Keeps z u := by
  have hk := Keeps.refl z
  unfold Machine.execSiphonPacketSend at h
  simp only [Host.Outcome.next.injEq] at h
  subst h
  repeat' first
    | with_reducible assumption
    | (intro _ _ _ _)
    | (intro _ _ _)
    | (intro _ _)
    | (with_reducible apply Keeps.ite_fst)
    | (with_reducible apply Keeps.advance)
    | (with_reducible apply Keeps.siphonSend)

theorem Keeps.execSiphonRtoExpiry {z : State} (t chan : Nat) {u : State}
    (h : execSiphonRtoExpiry t chan z = .next u) : Keeps z u := by
  have hk := Keeps.refl z
  unfold Machine.execSiphonRtoExpiry at h
  simp only [Host.Outcome.next.injEq] at h
  subst h
  repeat' first
    | with_reducible assumption
    | (intro _ _ _ _)
    | (intro _ _ _)
    | (intro _ _)
    | (with_reducible apply Keeps.ite_fst)
    | (with_reducible apply Keeps.advance)
    | (with_reducible apply Keeps.rtoExpiry)

theorem Keeps.execSiphonWrite {z : State} (t fn q : Nat) (descriptor : Option Bytes) {u : State}
    (h : execSiphonWrite t fn q descriptor z = .next u) : Keeps z u := by
  have hk := Keeps.refl z
  unfold Machine.execSiphonWrite at h
  simp only [Host.Outcome.next.injEq] at h
  subst h
  repeat' first
    | with_reducible assumption
    | (intro _ _ _ _)
    | (intro _ _ _)
    | (intro _ _)
    | (with_reducible apply Keeps.ite_fst)
    | (with_reducible apply Keeps.advance)
    | (with_reducible apply Keeps.siphonWriteOp)

theorem Keeps.execSiphonWriteImm {z : State} (t fn q : Nat) (descriptor : Option Bytes) {u : State}
    (h : execSiphonWriteImm t fn q descriptor z = .next u) : Keeps z u := by
  have hk := Keeps.refl z
  unfold Machine.execSiphonWriteImm at h
  simp only [Host.Outcome.next.injEq] at h
  subst h
  repeat' first
    | with_reducible assumption
    | (intro _ _ _ _)
    | (intro _ _ _)
    | (intro _ _)
    | (with_reducible apply Keeps.ite_fst)
    | (with_reducible apply Keeps.advance)
    | (with_reducible apply Keeps.siphonWriteImmOp)

theorem Keeps.execSiphonRead {z : State} (t fn q : Nat) (descriptor : Option Bytes) {u : State}
    (h : execSiphonRead t fn q descriptor z = .next u) : Keeps z u := by
  have hk := Keeps.refl z
  unfold Machine.execSiphonRead at h
  simp only [Host.Outcome.next.injEq] at h
  subst h
  repeat' first
    | with_reducible assumption
    | (intro _ _ _ _)
    | (intro _ _ _)
    | (intro _ _)
    | (with_reducible apply Keeps.ite_fst)
    | (with_reducible apply Keeps.advance)
    | (with_reducible apply Keeps.siphonReadOp)

theorem Keeps.execJcmdSend {z : State} (t fn q : Nat) (capsule : Option Bytes) {u : State}
    (h : execJcmdSend t fn q capsule z = .next u) : Keeps z u := by
  have hk := Keeps.refl z
  unfold Machine.execJcmdSend at h
  simp only [Host.Outcome.next.injEq] at h
  subst h
  repeat' first
    | with_reducible assumption
    | (intro _ _ _ _)
    | (intro _ _ _)
    | (intro _ _)
    | (with_reducible apply Keeps.ite_fst)
    | (with_reducible apply Keeps.advance)
    | (with_reducible apply Keeps.jcmdSendOp)

theorem Keeps.execRecvNotify {z : State} (t fn q : Nat) {u : State}
    (h : execRecvNotify t fn q z = .next u) : Keeps z u := by
  have hk := Keeps.refl z
  unfold Machine.execRecvNotify at h
  simp only [Host.Outcome.next.injEq] at h
  subst h
  repeat' first
    | with_reducible assumption
    | (intro _ _ _ _)
    | (intro _ _ _)
    | (intro _ _)
    | (with_reducible apply Keeps.ite_fst)
    | (with_reducible apply Keeps.advance)
    | (with_reducible apply Keeps.recvNotify)

theorem Keeps.execChannelModify {z : State} (t fn q : Nat) (record : Option Bytes) {u : State}
    (h : execChannelModify t fn q record z = .next u) : Keeps z u := by
  have hk := Keeps.refl z
  unfold Machine.execChannelModify at h
  simp only [Host.Outcome.next.injEq] at h
  subst h
  repeat' first
    | with_reducible assumption
    | (intro _ _ _ _)
    | (intro _ _ _)
    | (intro _ _)
    | (with_reducible apply Keeps.ite_fst)
    | (with_reducible apply Keeps.advance)
    | (with_reducible apply Keeps.channelModifyOp)

theorem Keeps.execChannelQuery {z : State} (t fn q : Nat) {u : State}
    (h : execChannelQuery t fn q z = .next u) : Keeps z u := by
  have hk := Keeps.refl z
  unfold Machine.execChannelQuery at h
  simp only [Host.Outcome.next.injEq] at h
  subst h
  repeat' first
    | with_reducible assumption
    | (intro _ _ _ _)
    | (intro _ _ _)
    | (intro _ _)
    | (with_reducible apply Keeps.ite_fst)
    | (with_reducible apply Keeps.advance)
    | (with_reducible apply Keeps.channelQuery)

theorem Keeps.execChannelInfo {z : State} (r : Rq) {u : State}
    (h : execChannelInfo r z = .next u) : Keeps z u := by
  have hk := Keeps.refl z
  unfold Machine.execChannelInfo at h
  simp only [Host.Outcome.next.injEq] at h
  subst h
  repeat' first
    | with_reducible assumption
    | (intro _ _ _ _)
    | (intro _ _ _)
    | (intro _ _)
    | (with_reducible apply Keeps.ite_fst)
    | (with_reducible apply Keeps.serveAction)
    | split

theorem Keeps.execRegionRegister {z : State} (t fn q : Nat) (record : Option Bytes) {u : State}
    (h : execRegionRegister t fn q record z = .next u) : Keeps z u := by
  have hk := Keeps.refl z
  unfold Machine.execRegionRegister at h
  simp only [Host.Outcome.next.injEq] at h
  subst h
  repeat' first
    | with_reducible assumption
    | (intro _ _ _ _)
    | (intro _ _ _)
    | (intro _ _)
    | (with_reducible apply Keeps.ite_fst)
    | (with_reducible apply Keeps.advance)
    | (with_reducible apply Keeps.regionRegisterOp)

theorem Keeps.execRegionRevoke {z : State} (t fn q : Nat) {u : State}
    (h : execRegionRevoke t fn q z = .next u) : Keeps z u := by
  have hk := Keeps.refl z
  unfold Machine.execRegionRevoke at h
  simp only [Host.Outcome.next.injEq] at h
  subst h
  repeat' first
    | with_reducible assumption
    | (intro _ _ _ _)
    | (intro _ _ _)
    | (intro _ _)
    | (with_reducible apply Keeps.ite_fst)
    | (with_reducible apply Keeps.advance)
    | (with_reducible apply Keeps.regionRevoke)

theorem Keeps.execRevokeFence {z : State} (t fn q region : Nat) {u : State}
    (h : execRevokeFence t fn q region z = .next u) : Keeps z u := by
  have hk := Keeps.refl z
  unfold Machine.execRevokeFence at h
  simp only [Host.Outcome.next.injEq] at h
  subst h
  repeat' first
    | with_reducible assumption
    | (intro _ _ _ _)
    | (intro _ _ _)
    | (intro _ _)
    | (with_reducible apply Keeps.ite_fst)
    | (with_reducible apply Keeps.advance)
    | (with_reducible apply Keeps.revokeFence)

theorem Keeps.execXferGrant {z : State} (t chan msg : Nat) {u : State}
    (h : execXferGrant t chan msg z = .next u) : Keeps z u := by
  have hk := Keeps.refl z
  unfold Machine.execXferGrant at h
  simp only [Host.Outcome.next.injEq] at h
  subst h
  repeat' first
    | with_reducible assumption
    | (intro _ _ _ _)
    | (intro _ _ _)
    | (intro _ _)
    | (with_reducible apply Keeps.ite_fst)
    | (with_reducible apply Keeps.advance)
    | (with_reducible apply Keeps.grantNext)

theorem Keeps.execUnitAccept {z : State} (t unit : Nat) {u : State}
    (h : execUnitAccept t unit z = .next u) : Keeps z u := by
  have hk := Keeps.refl z
  unfold Machine.execUnitAccept at h
  simp only [Host.Outcome.next.injEq] at h
  subst h
  repeat' first
    | with_reducible assumption
    | (intro _ _ _ _)
    | (intro _ _ _)
    | (intro _ _)
    | (with_reducible apply Keeps.ite_fst)
    | (with_reducible apply Keeps.advance)
    | (with_reducible apply Keeps.unitAccept)

theorem Keeps.execJournalWrite {z : State} (t : Nat) (src : JSrc) (data : Option Bytes) {u : State}
    (h : execJournalWrite t src data z = .next u) : Keeps z u := by
  have hk := Keeps.refl z
  unfold Machine.execJournalWrite at h
  simp only [Host.Outcome.next.injEq] at h
  subst h
  repeat' first
    | with_reducible assumption
    | (intro _ _ _ _)
    | (intro _ _ _)
    | (intro _ _)
    | (with_reducible apply Keeps.ite_fst)
    | (with_reducible apply Keeps.advance)
    | (with_reducible apply Keeps.journalWriteOp)

theorem Keeps.execJournalRead {z : State} (t : Nat) (src : JSrc) (badBlocks : List (Nat × Nat)) {u : State}
    (h : execJournalRead t src badBlocks z = .next u) : Keeps z u := by
  have hk := Keeps.refl z
  unfold Machine.execJournalRead at h
  simp only [Host.Outcome.next.injEq] at h
  subst h
  repeat' first
    | with_reducible assumption
    | (intro _ _ _ _)
    | (intro _ _ _)
    | (intro _ _)
    | (with_reducible apply Keeps.ite_fst)
    | (with_reducible apply Keeps.advance)
    | (with_reducible apply Keeps.jRun)
    | (with_reducible apply Keeps.journalRead)

theorem Keeps.execJournalFlush {z : State} (t : Nat) (src : JSrc) {u : State}
    (h : execJournalFlush t src z = .next u) : Keeps z u := by
  have hk := Keeps.refl z
  unfold Machine.execJournalFlush at h
  simp only [Host.Outcome.next.injEq] at h
  subst h
  repeat' first
    | with_reducible assumption
    | (intro _ _ _ _)
    | (intro _ _ _)
    | (intro _ _)
    | (with_reducible apply Keeps.ite_fst)
    | (with_reducible apply Keeps.advance)
    | (with_reducible apply Keeps.jRun)
    | (with_reducible apply Keeps.journalFlush)

theorem Keeps.execDeallocate {z : State} (t : Nat) (src : JSrc) {u : State}
    (h : execDeallocate t src z = .next u) : Keeps z u := by
  have hk := Keeps.refl z
  unfold Machine.execDeallocate at h
  simp only [Host.Outcome.next.injEq] at h
  subst h
  repeat' first
    | with_reducible assumption
    | (intro _ _ _ _)
    | (intro _ _ _)
    | (intro _ _)
    | (with_reducible apply Keeps.ite_fst)
    | (with_reducible apply Keeps.advance)
    | (with_reducible apply Keeps.jRun)
    | (with_reducible apply Keeps.deallocate)

theorem Keeps.execIdentify {z : State} (t : Nat) (src : JSrc) {u : State}
    (h : execIdentify t src z = .next u) : Keeps z u := by
  have hk := Keeps.refl z
  unfold Machine.execIdentify at h
  simp only [Host.Outcome.next.injEq] at h
  subst h
  repeat' first
    | with_reducible assumption
    | (intro _ _ _ _)
    | (intro _ _ _)
    | (intro _ _)
    | (with_reducible apply Keeps.ite_fst)
    | (with_reducible apply Keeps.advance)
    | (with_reducible apply Keeps.jRun)
    | (with_reducible apply Keeps.identify)

theorem Keeps.execLogRead {z : State} (t : Nat) (src : JSrc) {u : State}
    (h : execLogRead t src z = .next u) : Keeps z u := by
  have hk := Keeps.refl z
  unfold Machine.execLogRead at h
  simp only [Host.Outcome.next.injEq] at h
  subst h
  repeat' first
    | with_reducible assumption
    | (intro _ _ _ _)
    | (intro _ _ _)
    | (intro _ _)
    | (with_reducible apply Keeps.ite_fst)
    | (with_reducible apply Keeps.advance)
    | (with_reducible apply Keeps.jRun)
    | (with_reducible apply Keeps.logRead)

theorem Keeps.execJournalSelfTest {z : State} (t : Nat) (src : JSrc) {u : State}
    (h : execJournalSelfTest t src z = .next u) : Keeps z u := by
  have hk := Keeps.refl z
  unfold Machine.execJournalSelfTest at h
  simp only [Host.Outcome.next.injEq] at h
  subst h
  repeat' first
    | with_reducible assumption
    | (intro _ _ _ _)
    | (intro _ _ _)
    | (intro _ _)
    | (with_reducible apply Keeps.ite_fst)
    | (with_reducible apply Keeps.advance)
    | (with_reducible apply Keeps.jRun)
    | (with_reducible apply Keeps.journalSelfTest)

theorem Keeps.execSelfTestStart {z : State} (r : Rq) {u : State}
    (h : execSelfTestStart r z = .next u) : Keeps z u := by
  have hk := Keeps.refl z
  unfold Machine.execSelfTestStart at h
  simp only [Host.Outcome.next.injEq] at h
  subst h
  repeat' first
    | with_reducible assumption
    | (intro _ _ _ _)
    | (intro _ _ _)
    | (intro _ _)
    | (with_reducible apply Keeps.ite_fst)
    | (with_reducible apply Keeps.serveAction)
    | (with_reducible apply Keeps.testStart)

theorem Keeps.execCartSelfTestResume {z : State} (t slot : Nat) {u : State}
    (h : execCartSelfTestResume t slot z = .next u) : Keeps z u := by
  have hk := Keeps.refl z
  unfold Machine.execCartSelfTestResume at h
  simp only [Host.Outcome.next.injEq] at h
  subst h
  repeat' first
    | with_reducible assumption
    | (intro _ _ _ _)
    | (intro _ _ _)
    | (intro _ _)
    | (with_reducible apply Keeps.ite_fst)
    | (with_reducible apply Keeps.setCart)
    | (with_reducible apply Keeps.advance)
    | (with_reducible apply Keeps.setCart)
    | (with_reducible apply Keeps.ite)

theorem Keeps.execUnitDrain {z : State} (t : Nat) (w : Drained) {u : State}
    (h : execUnitDrain t w z = .next u) : Keeps z u := by
  have hk := Keeps.refl z
  unfold Machine.execUnitDrain at h
  simp only [Host.Outcome.next.injEq] at h
  subst h
  repeat' first
    | with_reducible assumption
    | (intro _ _ _ _)
    | (intro _ _ _)
    | (intro _ _)
    | (with_reducible apply Keeps.ite_fst)
    | (with_reducible apply Keeps.advance)
    | (with_reducible apply Keeps.flushDone)
    | (with_reducible apply Keeps.drainOne)
    | (with_reducible apply Keeps.cartWear)
    | (with_reducible apply Keeps.ite)

theorem Keeps.execCartSelfTestDone {z : State} (t slot : Nat) (pass : Bool) (w : TestReport) {u : State}
    (h : execCartSelfTestDone t slot pass w z = .next u) : Keeps z u := by
  have hk := Keeps.refl z
  unfold Machine.execCartSelfTestDone at h
  simp only [Host.Outcome.next.injEq] at h
  subst h
  repeat' first
    | with_reducible assumption
    | (intro _ _ _ _)
    | (intro _ _ _)
    | (intro _ _)
    | (with_reducible apply Keeps.ite_fst)
    | (with_reducible apply Keeps.advance)
    | (with_reducible apply Keeps.testEnd)
    | (with_reducible apply Keeps.cartWear)
    | (with_reducible apply Keeps.ite)

theorem Keeps.execJournalSanitize {z : State} (t : Nat) (src : JSrc) {u : State}
    (h : execJournalSanitize t src z = .next u) : Keeps z u := by
  have hk := Keeps.refl z
  unfold Machine.execJournalSanitize at h
  simp only [Host.Outcome.next.injEq] at h
  subst h
  repeat' first
    | with_reducible assumption
    | (intro _ _ _ _)
    | (intro _ _ _)
    | (intro _ _)
    | (with_reducible apply Keeps.ite_fst)
    | (with_reducible apply Keeps.advance)
    | (with_reducible apply Keeps.jRun)
    | (with_reducible apply Keeps.journalSanitize)

theorem Keeps.execSanitize {z : State} (r : Rq) {u : State}
    (h : execSanitize r z = .next u) : Keeps z u := by
  have hk := Keeps.refl z
  unfold Machine.execSanitize at h
  simp only [Host.Outcome.next.injEq] at h
  subst h
  repeat' first
    | with_reducible assumption
    | (intro _ _ _ _)
    | (intro _ _ _)
    | (intro _ _)
    | (with_reducible apply Keeps.ite_fst)
    | (with_reducible apply Keeps.serveAction)
    | (with_reducible apply Keeps.sanitizeStart)

theorem Keeps.execSanitizeComplete {z : State} (t slot : Nat) {u : State}
    (h : execSanitizeComplete t slot z = .next u) : Keeps z u := by
  have hk := Keeps.refl z
  unfold Machine.execSanitizeComplete at h
  simp only [Host.Outcome.next.injEq] at h
  subst h
  repeat' first
    | with_reducible assumption
    | (intro _ _ _ _)
    | (intro _ _ _)
    | (intro _ _)
    | (with_reducible apply Keeps.ite_fst)
    | (with_reducible apply Keeps.advance)
    | (with_reducible apply Keeps.sanitizeComplete)
    | (with_reducible apply Keeps.ite)

theorem Keeps.execJournalFormat {z : State} (t : Nat) (src : JSrc) {u : State}
    (h : execJournalFormat t src z = .next u) : Keeps z u := by
  have hk := Keeps.refl z
  unfold Machine.execJournalFormat at h
  simp only [Host.Outcome.next.injEq] at h
  subst h
  repeat' first
    | with_reducible assumption
    | (intro _ _ _ _)
    | (intro _ _ _)
    | (intro _ _)
    | (with_reducible apply Keeps.ite_fst)
    | (with_reducible apply Keeps.advance)
    | (with_reducible apply Keeps.jRun)
    | (with_reducible apply Keeps.journalFormat)

theorem Keeps.execFormatComplete {z : State} (t ns : Nat) {u : State}
    (h : execFormatComplete t ns z = .next u) : Keeps z u := by
  have hk := Keeps.refl z
  unfold Machine.execFormatComplete at h
  simp only [Host.Outcome.next.injEq] at h
  subst h
  repeat' first
    | with_reducible assumption
    | (intro _ _ _ _)
    | (intro _ _ _)
    | (intro _ _)
    | (with_reducible apply Keeps.ite_fst)
    | (with_reducible apply Keeps.setSpace)
    | (with_reducible apply Keeps.advance)
    | (with_reducible apply Keeps.jEnd)
    | (with_reducible apply Keeps.clearBlocks)
    | (with_reducible apply Keeps.setSpace)
    | (with_reducible apply Keeps.ite)
    | split

theorem Keeps.execCartPrsntNFall {z : State} (t slot : Nat) {u : State}
    (h : execCartPrsntNFall t slot z = .next u) : Keeps z u := by
  have hk := Keeps.refl z
  unfold Machine.execCartPrsntNFall at h
  simp only [Host.Outcome.next.injEq] at h
  subst h
  repeat' first
    | with_reducible assumption
    | (intro _ _ _ _)
    | (intro _ _ _)
    | (intro _ _)
    | (with_reducible apply Keeps.ite_fst)
    | (with_reducible apply Keeps.setCart)
    | (with_reducible apply Keeps.advance)
    | (with_reducible apply Keeps.setCart)
    | (with_reducible apply Keeps.ite)

theorem Keeps.execCartPresentDebounce {z : State} (t slot : Nat) {u : State}
    (h : execCartPresentDebounce t slot z = .next u) : Keeps z u := by
  have hk := Keeps.refl z
  unfold Machine.execCartPresentDebounce at h
  simp only [Host.Outcome.next.injEq] at h
  subst h
  repeat' first
    | with_reducible assumption
    | (intro _ _ _ _)
    | (intro _ _ _)
    | (intro _ _)
    | (with_reducible apply Keeps.ite_fst)
    | (with_reducible apply Keeps.setCart)
    | (with_reducible apply Keeps.advance)
    | (with_reducible apply Keeps.setCart)
    | (with_reducible apply Keeps.ite)

theorem Keeps.execCartLinkTimeout {z : State} (t slot : Nat) {u : State}
    (h : execCartLinkTimeout t slot z = .next u) : Keeps z u := by
  have hk := Keeps.refl z
  unfold Machine.execCartLinkTimeout at h
  simp only [Host.Outcome.next.injEq] at h
  subst h
  repeat' first
    | with_reducible assumption
    | (intro _ _ _ _)
    | (intro _ _ _)
    | (intro _ _)
    | (with_reducible apply Keeps.ite_fst)
    | (with_reducible apply Keeps.advance)
    | (with_reducible apply Keeps.cartRefuse)
    | (with_reducible apply Keeps.ite)

theorem Keeps.execCartLinkTrained {z : State} (t slot : Nat) (identity challenge : Bytes) {u : State}
    (h : execCartLinkTrained t slot identity challenge z = .next u) : Keeps z u := by
  have hk := Keeps.refl z
  unfold Machine.execCartLinkTrained at h
  simp only [Host.Outcome.next.injEq] at h
  subst h
  repeat' first
    | with_reducible assumption
    | (intro _ _ _ _)
    | (intro _ _ _)
    | (intro _ _)
    | (with_reducible apply Keeps.ite_fst)
    | (with_reducible apply Keeps.setCart)
    | (with_reducible apply Keeps.advance)
    | (with_reducible apply Keeps.cartRefuse)
    | (with_reducible apply Keeps.drawBytes)
    | (with_reducible apply Keeps.setCart)
    | (with_reducible apply Keeps.ite)

theorem Keeps.execCartOnline {z : State} (t slot : Nat) (media : Option CartMedia) {u : State}
    (h : execCartOnline t slot media z = .next u) : Keeps z u := by
  have hk := Keeps.refl z
  unfold Machine.execCartOnline at h
  simp only [Host.Outcome.next.injEq] at h
  subst h
  repeat' first
    | with_reducible assumption
    | (intro _ _ _ _)
    | (intro _ _ _)
    | (intro _ _)
    | (with_reducible apply Keeps.ite_fst)
    | (with_reducible apply Keeps.advance)
    | (with_reducible apply Keeps.cartOnline)
    | (with_reducible apply Keeps.ite)

theorem Keeps.execRebuildDone {z : State} (t slot : Nat) {u : State}
    (h : execRebuildDone t slot z = .next u) : Keeps z u := by
  have hk := Keeps.refl z
  unfold Machine.execRebuildDone at h
  simp only [Host.Outcome.next.injEq] at h
  subst h
  repeat' first
    | with_reducible assumption
    | (intro _ _ _ _)
    | (intro _ _ _)
    | (intro _ _)
    | (with_reducible apply Keeps.ite_fst)
    | (with_reducible apply Keeps.setCart)
    | (with_reducible apply Keeps.advance)
    | (with_reducible apply Keeps.raiseCart)
    | (with_reducible apply Keeps.settleSpaces)
    | (with_reducible apply Keeps.setCart)
    | (with_reducible apply Keeps.ite)

theorem Keeps.execQuiesce {z : State} (r : Rq) {u : State}
    (h : execQuiesce r z = .next u) : Keeps z u := by
  have hk := Keeps.refl z
  unfold Machine.execQuiesce at h
  simp only [Host.Outcome.next.injEq] at h
  subst h
  repeat' first
    | with_reducible assumption
    | (intro _ _ _ _)
    | (intro _ _ _)
    | (intro _ _)
    | (with_reducible apply Keeps.ite_fst)
    | (with_reducible apply Keeps.setCart)
    | (with_reducible apply Keeps.serveAction)
    | (with_reducible apply Keeps.settleSpaces)
    | (with_reducible apply Keeps.leaveMirror)
    | (with_reducible apply Keeps.setCart)
    | (with_reducible apply Keeps.ite)

theorem Keeps.execCartQuiesced {z : State} (t slot : Nat) {u : State}
    (h : execCartQuiesced t slot z = .next u) : Keeps z u := by
  have hk := Keeps.refl z
  unfold Machine.execCartQuiesced at h
  simp only [Host.Outcome.next.injEq] at h
  subst h
  repeat' first
    | with_reducible assumption
    | (intro _ _ _ _)
    | (intro _ _ _)
    | (intro _ _)
    | (with_reducible apply Keeps.ite_fst)
    | (with_reducible apply Keeps.setCart)
    | (with_reducible apply Keeps.advance)
    | (with_reducible apply Keeps.answerAct)
    | (with_reducible apply Keeps.raiseCart)
    | (with_reducible apply Keeps.settleSpaces)
    | (with_reducible apply Keeps.setCart)
    | (with_reducible apply Keeps.ite)

theorem Keeps.execCartRemoval {z : State} (t : Nat) (w : Removal) {u : State}
    (h : execCartRemoval t w z = .next u) : Keeps z u := by
  have hk := Keeps.refl z
  unfold Machine.execCartRemoval at h
  simp only [Host.Outcome.next.injEq] at h
  subst h
  repeat' first
    | with_reducible assumption
    | (intro _ _ _ _)
    | (intro _ _ _)
    | (intro _ _)
    | (with_reducible apply Keeps.ite_fst)
    | (with_reducible apply Keeps.advance)
    | (with_reducible apply Keeps.cartRemoval)
    | (with_reducible apply Keeps.ite)

theorem Keeps.execNamespaceCreate {z : State} (r : Rq) {u : State}
    (h : execNamespaceCreate r z = .next u) : Keeps z u := by
  have hk := Keeps.refl z
  unfold Machine.execNamespaceCreate at h
  simp only [Host.Outcome.next.injEq] at h
  subst h
  repeat' first
    | with_reducible assumption
    | (intro _ _ _ _)
    | (intro _ _ _)
    | (intro _ _)
    | (with_reducible apply Keeps.ite_fst)
    | (with_reducible apply Keeps.setSpace)
    | (with_reducible apply Keeps.blobOr)
    | (with_reducible apply Keeps.serveAction)
    | (with_reducible apply Keeps.blobRefused)
    | (with_reducible apply Keeps.nsTakeKey)
    | (with_reducible apply Keeps.settleSpaces)
    | (with_reducible apply Keeps.setSpace)
    | (with_reducible apply Keeps.ite)
    | (with_reducible apply Keeps.ite_fst)
    | (with_reducible apply Keeps.ite_snd)
    | split

theorem Keeps.execNamespaceDelete {z : State} (r : Rq) {u : State}
    (h : execNamespaceDelete r z = .next u) : Keeps z u := by
  have hk := Keeps.refl z
  unfold Machine.execNamespaceDelete at h
  simp only [Host.Outcome.next.injEq] at h
  subst h
  repeat' first
    | with_reducible assumption
    | (intro _ _ _ _)
    | (intro _ _ _)
    | (intro _ _)
    | (with_reducible apply Keeps.ite_fst)
    | (with_reducible apply Keeps.setSpace)
    | (with_reducible apply Keeps.serveAction)
    | (with_reducible apply Keeps.nsDropKey)
    | (with_reducible apply Keeps.dropJob)
    | (with_reducible apply Keeps.settleSpaces)
    | (with_reducible apply Keeps.clearBlocks)
    | (with_reducible refine Keeps.forEach _ (fun _ _ _ => ?_) ?_)

theorem Keeps.execNamespaceRead {z : State} (r : Rq) {u : State}
    (h : execNamespaceRead r z = .next u) : Keeps z u := by
  have hk := Keeps.refl z
  unfold Machine.execNamespaceRead at h
  simp only [Host.Outcome.next.injEq] at h
  subst h
  repeat' first
    | with_reducible assumption
    | (intro _ _ _ _)
    | (intro _ _ _)
    | (intro _ _)
    | (with_reducible apply Keeps.ite_fst)
    | (with_reducible apply Keeps.serveAction)

theorem Keeps.execNamespaceAttach {z : State} (r : Rq) {u : State}
    (h : execNamespaceAttach r z = .next u) : Keeps z u := by
  have hk := Keeps.refl z
  unfold Machine.execNamespaceAttach at h
  simp only [Host.Outcome.next.injEq] at h
  subst h
  repeat' first
    | with_reducible assumption
    | (intro _ _ _ _)
    | (intro _ _ _)
    | (intro _ _)
    | (with_reducible apply Keeps.ite_fst)
    | (with_reducible apply Keeps.setSpace)
    | (with_reducible apply Keeps.serveAction)

theorem Keeps.execNamespaceDetach {z : State} (r : Rq) {u : State}
    (h : execNamespaceDetach r z = .next u) : Keeps z u := by
  have hk := Keeps.refl z
  unfold Machine.execNamespaceDetach at h
  simp only [Host.Outcome.next.injEq] at h
  subst h
  repeat' first
    | with_reducible assumption
    | (intro _ _ _ _)
    | (intro _ _ _)
    | (intro _ _)
    | (with_reducible apply Keeps.ite_fst)
    | (with_reducible apply Keeps.setSpace)
    | (with_reducible apply Keeps.serveAction)

theorem Keeps.execNamespaceKeyLoad {z : State} (r : Rq) {u : State}
    (h : execNamespaceKeyLoad r z = .next u) : Keeps z u := by
  have hk := Keeps.refl z
  unfold Machine.execNamespaceKeyLoad at h
  simp only [Host.Outcome.next.injEq] at h
  subst h
  repeat' first
    | with_reducible assumption
    | (intro _ _ _ _)
    | (intro _ _ _)
    | (intro _ _)
    | (with_reducible apply Keeps.ite_fst)
    | (with_reducible apply Keeps.setSpace)
    | (with_reducible apply Keeps.blobOr)
    | (with_reducible apply Keeps.serveAction)
    | (with_reducible apply Keeps.blobRefused)
    | (with_reducible apply Keeps.nsDropKey)
    | (with_reducible apply Keeps.nsTakeKey)
    | (with_reducible apply Keeps.settleSpaces)
    | (with_reducible apply Keeps.setSpace)
    | split

theorem Keeps.execNamespaceFormat {z : State} (r : Rq) {u : State}
    (h : execNamespaceFormat r z = .next u) : Keeps z u := by
  have hk := Keeps.refl z
  unfold Machine.execNamespaceFormat at h
  simp only [Host.Outcome.next.injEq] at h
  subst h
  repeat' first
    | with_reducible assumption
    | (intro _ _ _ _)
    | (intro _ _ _)
    | (intro _ _)
    | (with_reducible apply Keeps.ite_fst)
    | (with_reducible apply Keeps.serveAction)
    | (with_reducible apply Keeps.formatStart)

theorem Keeps.execSiphonXferTimeout {z : State} (t chan msg : Nat) {u : State}
    (h : execSiphonXferTimeout t chan msg z = .next u) : Keeps z u := by
  have hk := Keeps.refl z
  unfold Machine.execSiphonXferTimeout at h
  simp only [Host.Outcome.next.injEq] at h
  subst h
  repeat' first
    | with_reducible assumption
    | (intro _ _ _ _)
    | (intro _ _ _)
    | (intro _ _)
    | (with_reducible apply Keeps.ite_fst)
    | (with_reducible apply Keeps.advance)
    | (with_reducible apply Keeps.xferTimeout)

theorem Keeps.execCipherMessageDone {z : State} (t core : Nat) {u : State}
    (h : execCipherMessageDone t core z = .next u) : Keeps z u := by
  have hk := Keeps.refl z
  unfold Machine.execCipherMessageDone at h
  simp only [Host.Outcome.next.injEq] at h
  subst h
  repeat' first
    | with_reducible assumption
    | (intro _ _ _ _)
    | (intro _ _ _)
    | (intro _ _)
    | (with_reducible apply Keeps.ite_fst)
    | (with_reducible apply Keeps.advance)
    | (with_reducible apply Keeps.cipherMessageDone)

theorem Keeps.execSiphonRxWrite {z : State} (w : PacketAt) {u : State}
    (h : execSiphonRxWrite w z = .next u) : Keeps z u := by
  have hk := Keeps.refl z
  unfold Machine.execSiphonRxWrite at h
  simp only [Host.Outcome.next.injEq] at h
  subst h
  repeat' first
    | with_reducible assumption
    | exact trivial
    | (with_reducible apply RxDo.Keeps.ite)
    | (refine RxDo.Keeps.take (fun _ _ _ => ?_))
    | (with_reducible apply RxDo.Keeps.judgeStaging)
    | (with_reducible apply RxDo.Keeps.judgeWrite)
    | (refine fun (_ : Channel) => ?_)
    | (intro _ _ _ _)
    | (intro _ _ _)
    | (intro _ _)
    | (with_reducible apply Keeps.ite_fst)
    | (with_reducible apply Keeps.advance)
    | (with_reducible apply Keeps.rxServe)
    | (with_reducible apply Keeps.rxPsn)

theorem Keeps.execSiphonRxWriteImm {z : State} (w : PacketAt) {u : State}
    (h : execSiphonRxWriteImm w z = .next u) : Keeps z u := by
  have hk := Keeps.refl z
  unfold Machine.execSiphonRxWriteImm at h
  simp only [Host.Outcome.next.injEq] at h
  subst h
  repeat' first
    | with_reducible assumption
    | exact trivial
    | (with_reducible apply RxDo.Keeps.ite)
    | (refine RxDo.Keeps.take (fun _ _ _ => ?_))
    | (with_reducible apply RxDo.Keeps.judgeStaging)
    | (with_reducible apply RxDo.Keeps.judgeWrite)
    | (refine fun (_ : Channel) => ?_)
    | (intro _ _ _ _)
    | (intro _ _ _)
    | (intro _ _)
    | (with_reducible apply Keeps.ite_fst)
    | (with_reducible apply Keeps.advance)
    | (with_reducible apply Keeps.rxServe)
    | (with_reducible apply Keeps.rxPsn)

theorem Keeps.execSiphonRxReadReq {z : State} (w : PacketAt) {u : State}
    (h : execSiphonRxReadReq w z = .next u) : Keeps z u := by
  have hk := Keeps.refl z
  unfold Machine.execSiphonRxReadReq at h
  simp only [Host.Outcome.next.injEq] at h
  subst h
  repeat' first
    | with_reducible assumption
    | exact trivial
    | (with_reducible apply RxDo.Keeps.ite)
    | (refine RxDo.Keeps.take (fun _ _ _ => ?_))
    | (with_reducible apply RxDo.Keeps.judgeStaging)
    | (with_reducible apply RxDo.Keeps.judgeWrite)
    | (refine fun (_ : Channel) => ?_)
    | (intro _ _ _ _)
    | (intro _ _ _)
    | (intro _ _)
    | (with_reducible apply Keeps.ite_fst)
    | (with_reducible apply Keeps.setChannel)
    | (with_reducible apply Keeps.advance)
    | (with_reducible apply Keeps.rxServe)
    | (with_reducible apply Keeps.rxPsn)
    | (with_reducible apply Keeps.serveReads)
    | (with_reducible apply Keeps.setChannel)
    | (with_reducible apply Keeps.ite)
    | split

theorem Keeps.execSiphonRxReadResp {z : State} (pk : PacketAt) {u : State}
    (h : execSiphonRxReadResp pk z = .next u) : Keeps z u := by
  have hk := Keeps.refl z
  unfold Machine.execSiphonRxReadResp at h
  simp only [Host.Outcome.next.injEq] at h
  subst h
  repeat' first
    | with_reducible assumption
    | exact trivial
    | (with_reducible apply RxDo.Keeps.ite)
    | (refine RxDo.Keeps.take (fun _ _ _ => ?_))
    | (with_reducible apply RxDo.Keeps.judgeStaging)
    | (with_reducible apply RxDo.Keeps.judgeWrite)
    | (refine fun (_ : Channel) => ?_)
    | (intro _ _ _ _)
    | (intro _ _ _)
    | (intro _ _)
    | (with_reducible apply Keeps.ite_fst)
    | (with_reducible apply Keeps.advance)
    | (with_reducible apply Keeps.queueWrite)
    | (with_reducible apply Keeps.rxServe)
    | (with_reducible apply Keeps.rxPsn)
    | (with_reducible apply Keeps.asmPut)
    | (with_reducible apply Keeps.asmDrop)
    | (with_reducible apply Keeps.readDone)
    | (with_reducible apply Keeps.ite)
    | (with_reducible apply Keeps.ite_fst)
    | (with_reducible apply Keeps.ite_snd)
    | split

theorem Keeps.execSiphonRxAck {z : State} (w : PacketAt) {u : State}
    (h : execSiphonRxAck w z = .next u) : Keeps z u := by
  have hk := Keeps.refl z
  unfold Machine.execSiphonRxAck at h
  simp only [Host.Outcome.next.injEq] at h
  subst h
  repeat' first
    | with_reducible assumption
    | (intro _ _ _ _)
    | (intro _ _ _)
    | (intro _ _)
    | (with_reducible apply Keeps.ite_fst)
    | (with_reducible apply Keeps.advance)
    | (with_reducible apply Keeps.rxServe)
    | (with_reducible apply Keeps.rxControl)
    | (with_reducible apply Keeps.onAck)

theorem Keeps.execSiphonRxNak {z : State} (w : PacketAt) {u : State}
    (h : execSiphonRxNak w z = .next u) : Keeps z u := by
  have hk := Keeps.refl z
  unfold Machine.execSiphonRxNak at h
  simp only [Host.Outcome.next.injEq] at h
  subst h
  repeat' first
    | with_reducible assumption
    | (intro _ _ _ _)
    | (intro _ _ _)
    | (intro _ _)
    | (with_reducible apply Keeps.ite_fst)
    | (with_reducible apply Keeps.advance)
    | (with_reducible apply Keeps.sipCount)
    | (with_reducible apply Keeps.channelError)
    | (with_reducible apply Keeps.rxServe)
    | (with_reducible apply Keeps.rxControl)

theorem Keeps.execSiphonRxCnp {z : State} (w : PacketAt) {u : State}
    (h : execSiphonRxCnp w z = .next u) : Keeps z u := by
  have hk := Keeps.refl z
  unfold Machine.execSiphonRxCnp at h
  simp only [Host.Outcome.next.injEq] at h
  subst h
  repeat' first
    | with_reducible assumption
    | (intro _ _ _ _)
    | (intro _ _ _)
    | (intro _ _)
    | (with_reducible apply Keeps.ite_fst)
    | (with_reducible apply Keeps.advance)
    | (with_reducible apply Keeps.sipCount)
    | (with_reducible apply Keeps.onCnp)
    | (with_reducible apply Keeps.rxServe)
    | (with_reducible apply Keeps.rxControl)

theorem Keeps.execSiphonRxJcmd {z : State} (w : PacketAt) {u : State}
    (h : execSiphonRxJcmd w z = .next u) : Keeps z u := by
  have hk := Keeps.refl z
  unfold Machine.execSiphonRxJcmd at h
  simp only [Host.Outcome.next.injEq] at h
  subst h
  repeat' first
    | with_reducible assumption
    | exact trivial
    | (with_reducible apply RxDo.Keeps.ite)
    | (refine RxDo.Keeps.take (fun _ _ _ => ?_))
    | (with_reducible apply RxDo.Keeps.judgeStaging)
    | (with_reducible apply RxDo.Keeps.judgeWrite)
    | (refine fun (_ : Channel) => ?_)
    | (intro _ _ _ _)
    | (intro _ _ _)
    | (intro _ _)
    | (with_reducible apply Keeps.ite_fst)
    | (with_reducible apply Keeps.setChannel)
    | (with_reducible apply Keeps.countQ)
    | (with_reducible apply Keeps.advance)
    | (with_reducible apply Keeps.capRespond)
    | (with_reducible apply Keeps.commandComes)
    | (with_reducible apply Keeps.rxServe)
    | (with_reducible apply Keeps.rxPsn)
    | (with_reducible apply Keeps.setChannel)
    | (with_reducible apply Keeps.ite)

theorem Keeps.execSiphonRxXferRdy {z : State} (pk : PacketAt) {u : State}
    (h : execSiphonRxXferRdy pk z = .next u) : Keeps z u := by
  have hk := Keeps.refl z
  unfold Machine.execSiphonRxXferRdy at h
  simp only [Host.Outcome.next.injEq] at h
  subst h
  repeat' first
    | with_reducible assumption
    | exact trivial
    | (with_reducible apply RxDo.Keeps.ite)
    | (refine RxDo.Keeps.take (fun _ _ _ => ?_))
    | (with_reducible apply RxDo.Keeps.judgeStaging)
    | (with_reducible apply RxDo.Keeps.judgeWrite)
    | (refine fun (_ : Channel) => ?_)
    | (intro _ _ _ _)
    | (intro _ _ _)
    | (intro _ _)
    | (with_reducible apply Keeps.ite_fst)
    | (with_reducible apply Keeps.advance)
    | (with_reducible apply Keeps.addReply)
    | (with_reducible apply Keeps.rxServe)
    | (with_reducible apply Keeps.rxPsn)
    | (with_reducible apply Keeps.ite)
    | (with_reducible apply Keeps.ite_fst)
    | (with_reducible apply Keeps.ite_snd)
    | split

theorem Keeps.execSiphonRxJrsp {z : State} (w : PacketAt) {u : State}
    (h : execSiphonRxJrsp w z = .next u) : Keeps z u := by
  have hk := Keeps.refl z
  unfold Machine.execSiphonRxJrsp at h
  simp only [Host.Outcome.next.injEq] at h
  subst h
  repeat' first
    | with_reducible assumption
    | exact trivial
    | (with_reducible apply RxDo.Keeps.ite)
    | (refine RxDo.Keeps.take (fun _ _ _ => ?_))
    | (with_reducible apply RxDo.Keeps.judgeStaging)
    | (with_reducible apply RxDo.Keeps.judgeWrite)
    | (refine fun (_ : Channel) => ?_)
    | (intro _ _ _ _)
    | (intro _ _ _)
    | (intro _ _)
    | (with_reducible apply Keeps.ite_fst)
    | (with_reducible apply Keeps.setChannel)
    | (with_reducible apply Keeps.advance)
    | (with_reducible apply Keeps.queueWrite)
    | (with_reducible apply Keeps.finishChain)
    | (with_reducible apply Keeps.rxServe)
    | (with_reducible apply Keeps.rxPsn)
    | (with_reducible apply Keeps.setChannel)
    | (with_reducible apply Keeps.ite)
    | (with_reducible apply Keeps.ite_fst)
    | (with_reducible apply Keeps.ite_snd)
    | split

theorem Keeps.execQNop {z : State} (fn q : Nat) {u : State}
    (h : execQNop fn q z = .next u) : Keeps z u := by
  have hk := Keeps.refl z
  unfold Machine.execQNop at h
  simp only [Host.Outcome.next.injEq] at h
  subst h
  repeat' first
    | with_reducible assumption
    | (intro _ _ _ _)
    | (intro _ _ _)
    | (intro _ _)
    | (with_reducible apply Keeps.ite_fst)
    | (with_reducible apply Keeps.qctrl)

theorem Keeps.execQLoad {z : State} (fn q word : Nat) {u : State}
    (h : execQLoad fn q word z = .next u) : Keeps z u := by
  have hk := Keeps.refl z
  unfold Machine.execQLoad at h
  simp only [Host.Outcome.next.injEq] at h
  subst h
  repeat' first
    | with_reducible assumption
    | (intro _ _ _ _)
    | (intro _ _ _)
    | (intro _ _)
    | (with_reducible apply Keeps.ite_fst)
    | (with_reducible apply Keeps.qctrl)
    | (with_reducible apply Keeps.qLoad)

theorem Keeps.execQRead {z : State} (fn q word : Nat) {u : State}
    (h : execQRead fn q word z = .next u) : Keeps z u := by
  have hk := Keeps.refl z
  unfold Machine.execQRead at h
  simp only [Host.Outcome.next.injEq] at h
  subst h
  repeat' first
    | with_reducible assumption
    | (intro _ _ _ _)
    | (intro _ _ _)
    | (intro _ _)
    | (with_reducible apply Keeps.ite_fst)
    | (with_reducible apply Keeps.qctrl)
    | (with_reducible apply Keeps.qRead)

theorem Keeps.execQEnable {z : State} (t fn q : Nat) {u : State}
    (h : execQEnable t fn q z = .next u) : Keeps z u := by
  have hk := Keeps.refl z
  unfold Machine.execQEnable at h
  simp only [Host.Outcome.next.injEq] at h
  subst h
  repeat' first
    | with_reducible assumption
    | (intro _ _ _ _)
    | (intro _ _ _)
    | (intro _ _)
    | (with_reducible apply Keeps.ite_fst)
    | (with_reducible apply Keeps.advance)
    | (with_reducible apply Keeps.qctrl)
    | (with_reducible apply Keeps.qEnable)

theorem Keeps.execQReset {z : State} (t fn q : Nat) {u : State}
    (h : execQReset t fn q z = .next u) : Keeps z u := by
  have hk := Keeps.refl z
  unfold Machine.execQReset at h
  simp only [Host.Outcome.next.injEq] at h
  subst h
  repeat' first
    | with_reducible assumption
    | (intro _ _ _ _)
    | (intro _ _ _)
    | (intro _ _)
    | (with_reducible apply Keeps.ite_fst)
    | (with_reducible apply Keeps.advance)
    | (with_reducible apply Keeps.qctrl)
    | (with_reducible apply Keeps.qReset)

theorem Keeps.execQDisable {z : State} (t fn q : Nat) {u : State}
    (h : execQDisable t fn q z = .next u) : Keeps z u := by
  have hk := Keeps.refl z
  unfold Machine.execQDisable at h
  simp only [Host.Outcome.next.injEq] at h
  subst h
  repeat' first
    | with_reducible assumption
    | (intro _ _ _ _)
    | (intro _ _ _)
    | (intro _ _)
    | (with_reducible apply Keeps.ite_fst)
    | (with_reducible apply Keeps.advance)
    | (with_reducible apply Keeps.qctrl)
    | (with_reducible apply Keeps.qDisable)

theorem Keeps.execTailDoorbell {z : State} (t fn q index : Nat) {u : State}
    (h : execTailDoorbell t fn q index z = .next u) : Keeps z u := by
  have hk := Keeps.refl z
  unfold Machine.execTailDoorbell at h
  simp only [Host.Outcome.next.injEq] at h
  subst h
  repeat' first
    | with_reducible assumption
    | (intro _ _ _ _)
    | (intro _ _ _)
    | (intro _ _)
    | (with_reducible apply Keeps.ite_fst)
    | (with_reducible apply Keeps.advance)
    | (with_reducible apply Keeps.tailDoorbell)

theorem Keeps.execHeadDoorbell {z : State} (t fn q index : Nat) {u : State}
    (h : execHeadDoorbell t fn q index z = .next u) : Keeps z u := by
  have hk := Keeps.refl z
  unfold Machine.execHeadDoorbell at h
  simp only [Host.Outcome.next.injEq] at h
  subst h
  repeat' first
    | with_reducible assumption
    | (intro _ _ _ _)
    | (intro _ _ _)
    | (intro _ _)
    | (with_reducible apply Keeps.ite_fst)
    | (with_reducible apply Keeps.advance)
    | (with_reducible apply Keeps.headDoorbell)

theorem Keeps.execEntryFetch {z : State} (t fn q count : Nat) (entries : Option (List Bytes)) {u : State}
    (h : execEntryFetch t fn q count entries z = .next u) : Keeps z u := by
  have hk := Keeps.refl z
  unfold Machine.execEntryFetch at h
  simp only [Host.Outcome.next.injEq] at h
  subst h
  repeat' first
    | with_reducible assumption
    | (intro _ _ _ _)
    | (intro _ _ _)
    | (intro _ _)
    | (with_reducible apply Keeps.ite_fst)
    | (with_reducible apply Keeps.count)
    | (with_reducible apply Keeps.advance)
    | (with_reducible apply Keeps.entryFetch)

theorem Keeps.execChainDone {z : State} (t fn q : Nat) {u : State}
    (h : execChainDone t fn q z = .next u) : Keeps z u := by
  have hk := Keeps.refl z
  unfold Machine.execChainDone at h
  simp only [Host.Outcome.next.injEq] at h
  subst h
  repeat' first
    | with_reducible assumption
    | (intro _ _ _ _)
    | (intro _ _ _)
    | (intro _ _)
    | (with_reducible apply Keeps.ite_fst)
    | (with_reducible apply Keeps.advance)
    | (with_reducible apply Keeps.finishOldest)
    | (with_reducible apply Keeps.ite)

theorem Keeps.execHeldRelease {z : State} (t fn q : Nat) {u : State}
    (h : execHeldRelease t fn q z = .next u) : Keeps z u := by
  have hk := Keeps.refl z
  unfold Machine.execHeldRelease at h
  simp only [Host.Outcome.next.injEq] at h
  subst h
  repeat' first
    | with_reducible assumption
    | (intro _ _ _ _)
    | (intro _ _ _)
    | (intro _ _)
    | (with_reducible apply Keeps.ite_fst)
    | (with_reducible apply Keeps.advance)
    | (with_reducible apply Keeps.heldRelease)

theorem Keeps.execModTimeExpiry {z : State} (t fn q : Nat) {u : State}
    (h : execModTimeExpiry t fn q z = .next u) : Keeps z u := by
  have hk := Keeps.refl z
  unfold Machine.execModTimeExpiry at h
  simp only [Host.Outcome.next.injEq] at h
  subst h
  repeat' first
    | with_reducible assumption
    | (intro _ _ _ _)
    | (intro _ _ _)
    | (intro _ _)
    | (with_reducible apply Keeps.ite_fst)
    | (with_reducible apply Keeps.advance)
    | (with_reducible apply Keeps.modTimer)

theorem Keeps.execTxFrame {z : State} (t fn q : Nat) (frame : Option Bytes) {u : State}
    (h : execTxFrame t fn q frame z = .next u) : Keeps z u := by
  have hk := Keeps.refl z
  unfold Machine.execTxFrame at h
  simp only [Host.Outcome.next.injEq] at h
  subst h
  repeat' first
    | with_reducible assumption
    | (intro _ _ _ _)
    | (intro _ _ _)
    | (intro _ _)
    | (with_reducible apply Keeps.ite_fst)
    | (with_reducible apply Keeps.advance)
    | (with_reducible apply Keeps.txFrame)

theorem Keeps.execRxBuf {z : State} (t fn q : Nat) {u : State}
    (h : execRxBuf t fn q z = .next u) : Keeps z u := by
  have hk := Keeps.refl z
  unfold Machine.execRxBuf at h
  simp only [Host.Outcome.next.injEq] at h
  subst h
  repeat' first
    | with_reducible assumption
    | (intro _ _ _ _)
    | (intro _ _ _)
    | (intro _ _)
    | (with_reducible apply Keeps.ite_fst)
    | (with_reducible apply Keeps.advance)
    | (with_reducible apply Keeps.rxBuf)

theorem Keeps.execRxDeliver {z : State} (t fn : Nat) (w : Delivery) {u : State}
    (h : execRxDeliver t fn w z = .next u) : Keeps z u := by
  have hk := Keeps.refl z
  unfold Machine.execRxDeliver at h
  simp only [Host.Outcome.next.injEq] at h
  subst h
  repeat' first
    | with_reducible assumption
    | (intro _ _ _ _)
    | (intro _ _ _)
    | (intro _ _)
    | (with_reducible apply Keeps.ite_fst)
    | (with_reducible apply Keeps.advance)
    | (with_reducible apply Keeps.rxDeliver)

theorem Keeps.execQueueStatusRead {z : State} (r : Rq) {u : State}
    (h : execQueueStatusRead r z = .next u) : Keeps z u := by
  have hk := Keeps.refl z
  unfold Machine.execQueueStatusRead at h
  simp only [Host.Outcome.next.injEq] at h
  subst h
  repeat' first
    | with_reducible assumption
    | (intro _ _ _ _)
    | (intro _ _ _)
    | (intro _ _)
    | (with_reducible apply Keeps.ite_fst)
    | (with_reducible apply Keeps.serveAction)

theorem Keeps.execCompletionTimeout {z : State} (t tag : Nat) {u : State}
    (h : execCompletionTimeout t tag z = .next u) : Keeps z u := by
  have hk := Keeps.refl z
  unfold Machine.execCompletionTimeout at h
  simp only [Host.Outcome.next.injEq] at h
  subst h
  repeat' first
    | with_reducible assumption
    | (intro _ _ _ _)
    | (intro _ _ _)
    | (intro _ _)
    | (with_reducible apply Keeps.ite_fst)
    | (with_reducible apply Keeps.advance)
    | (with_reducible apply Keeps.completionTimeout)

theorem Keeps.execTagQuarantineEnd {z : State} (t tag : Nat) {u : State}
    (h : execTagQuarantineEnd t tag z = .next u) : Keeps z u := by
  have hk := Keeps.refl z
  unfold Machine.execTagQuarantineEnd at h
  simp only [Host.Outcome.next.injEq] at h
  subst h
  repeat' first
    | with_reducible assumption
    | (intro _ _ _ _)
    | (intro _ _ _)
    | (intro _ _)
    | (with_reducible apply Keeps.ite_fst)
    | (with_reducible apply Keeps.advance)
    | (with_reducible apply Keeps.tagQuarantineEnd)

theorem Keeps.execCompletionReceive {z : State} (t tag : Nat) (status : CplStatus) (data : Bytes) {u : State}
    (h : execCompletionReceive t tag status data z = .next u) : Keeps z u := by
  have hk := Keeps.refl z
  unfold Machine.execCompletionReceive at h
  simp only [Host.Outcome.next.injEq] at h
  subst h
  repeat' first
    | with_reducible assumption
    | (intro _ _ _ _)
    | (intro _ _ _)
    | (intro _ _)
    | (with_reducible apply Keeps.ite_fst)
    | (with_reducible apply Keeps.advance)
    | (with_reducible apply Keeps.completionReceive)

theorem Keeps.execMsixUnmask {z : State} (t fn vector : Nat) {u : State}
    (h : execMsixUnmask t fn vector z = .next u) : Keeps z u := by
  have hk := Keeps.refl z
  unfold Machine.execMsixUnmask at h
  simp only [Host.Outcome.next.injEq] at h
  subst h
  repeat' first
    | with_reducible assumption
    | (intro _ _ _ _)
    | (intro _ _ _)
    | (intro _ _)
    | (with_reducible apply Keeps.ite_fst)
    | (with_reducible apply Keeps.advance)
    | (with_reducible apply Keeps.msixUnmask)

theorem Keeps.execMsixEnableWrite {z : State} (t fn : Nat) (v : Bool) {u : State}
    (h : execMsixEnableWrite t fn v z = .next u) : Keeps z u := by
  have hk := Keeps.refl z
  unfold Machine.execMsixEnableWrite at h
  simp only [Host.Outcome.next.injEq] at h
  subst h
  repeat' first
    | with_reducible assumption
    | (intro _ _ _ _)
    | (intro _ _ _)
    | (intro _ _)
    | (with_reducible apply Keeps.ite_fst)
    | (with_reducible apply Keeps.advance)
    | (with_reducible apply Keeps.msixEnableSet)
    | (with_reducible apply Keeps.ite)

theorem Keeps.execInterruptDisableWrite {z : State} (t : Nat) (v : Bool) {u : State}
    (h : execInterruptDisableWrite t v z = .next u) : Keeps z u := by
  have hk := Keeps.refl z
  unfold Machine.execInterruptDisableWrite at h
  simp only [Host.Outcome.next.injEq] at h
  subst h
  repeat' first
    | with_reducible assumption
    | (intro _ _ _ _)
    | (intro _ _ _)
    | (intro _ _)
    | (with_reducible apply Keeps.ite_fst)
    | (with_reducible apply Keeps.advance)
    | (with_reducible apply Keeps.intDisableSet)
    | (with_reducible apply Keeps.ite)

theorem Keeps.execBusMasterDisable {z : State} (t fn : Nat) {u : State}
    (h : execBusMasterDisable t fn z = .next u) : Keeps z u := by
  have hk := Keeps.refl z
  unfold Machine.execBusMasterDisable at h
  simp only [Host.Outcome.next.injEq] at h
  subst h
  repeat' first
    | with_reducible assumption
    | (intro _ _ _ _)
    | (intro _ _ _)
    | (intro _ _)
    | (with_reducible apply Keeps.ite_fst)
    | (with_reducible apply Keeps.advance)
    | (with_reducible apply Keeps.busMasterOff)
    | (with_reducible apply Keeps.ite)

theorem Keeps.execFlrInitiate {z : State} (t fn : Nat) {u : State}
    (h : execFlrInitiate t fn z = .next u) : Keeps z u := by
  have hk := Keeps.refl z
  unfold Machine.execFlrInitiate at h
  simp only [Host.Outcome.next.injEq] at h
  subst h
  repeat' first
    | with_reducible assumption
    | (intro _ _ _ _)
    | (intro _ _ _)
    | (intro _ _)
    | (with_reducible apply Keeps.ite_fst)
    | (with_reducible apply Keeps.advance)
    | (with_reducible apply Keeps.flrInitiate)

theorem Keeps.execFlrDrainCap {z : State} (t fn : Nat) {u : State}
    (h : execFlrDrainCap t fn z = .next u) : Keeps z u := by
  have hk := Keeps.refl z
  unfold Machine.execFlrDrainCap at h
  simp only [Host.Outcome.next.injEq] at h
  subst h
  repeat' first
    | with_reducible assumption
    | (intro _ _ _ _)
    | (intro _ _ _)
    | (intro _ _)
    | (with_reducible apply Keeps.ite_fst)
    | (with_reducible apply Keeps.advance)
    | (with_reducible apply Keeps.flrDrainCap)

theorem Keeps.execFlrComplete {z : State} (t fn : Nat) {u : State}
    (h : execFlrComplete t fn z = .next u) : Keeps z u := by
  have hk := Keeps.refl z
  unfold Machine.execFlrComplete at h
  simp only [Host.Outcome.next.injEq] at h
  subst h
  repeat' first
    | with_reducible assumption
    | (intro _ _ _ _)
    | (intro _ _ _)
    | (intro _ _)
    | (with_reducible apply Keeps.ite_fst)
    | (with_reducible apply Keeps.advance)
    | (with_reducible apply Keeps.flrComplete)

theorem Keeps.execHotReset {z : State} (t : Nat) {u : State}
    (h : execHotReset t z = .next u) : Keeps z u := by
  have hk := Keeps.refl z
  unfold Machine.execHotReset at h
  simp only [Host.Outcome.next.injEq] at h
  subst h
  repeat' first
    | with_reducible assumption
    | (intro _ _ _ _)
    | (intro _ _ _)
    | (intro _ _)
    | (with_reducible apply Keeps.ite_fst)
    | (with_reducible apply Keeps.advance)
    | (with_reducible apply Keeps.hotReset)

theorem Keeps.execLinkDown {z : State} (t : Nat) {u : State}
    (h : execLinkDown t z = .next u) : Keeps z u := by
  have hk := Keeps.refl z
  unfold Machine.execLinkDown at h
  simp only [Host.Outcome.next.injEq] at h
  subst h
  repeat' first
    | with_reducible assumption
    | (intro _ _ _ _)
    | (intro _ _ _)
    | (intro _ _)
    | (with_reducible apply Keeps.ite_fst)
    | (with_reducible apply Keeps.advance)
    | (with_reducible apply Keeps.linkDown)

theorem Keeps.execLinkUp {z : State} (t speed width : Nat) (flit : Bool) {u : State}
    (h : execLinkUp t speed width flit z = .next u) : Keeps z u := by
  have hk := Keeps.refl z
  unfold Machine.execLinkUp at h
  simp only [Host.Outcome.next.injEq] at h
  subst h
  repeat' first
    | with_reducible assumption
    | (intro _ _ _ _)
    | (intro _ _ _)
    | (intro _ _)
    | (with_reducible apply Keeps.ite_fst)
    | (with_reducible apply Keeps.advance)
    | (with_reducible apply Keeps.linkUp)

theorem Keeps.execPowerStateWrite {z : State} (t fn state : Nat) {u : State}
    (h : execPowerStateWrite t fn state z = .next u) : Keeps z u := by
  have hk := Keeps.refl z
  unfold Machine.execPowerStateWrite at h
  simp only [Host.Outcome.next.injEq] at h
  subst h
  repeat' first
    | with_reducible assumption
    | (intro _ _ _ _)
    | (intro _ _ _)
    | (intro _ _)
    | (with_reducible apply Keeps.ite_fst)
    | (with_reducible apply Keeps.advance)
    | (with_reducible apply Keeps.powerStateSet)
    | (with_reducible apply Keeps.ite)

theorem Keeps.execVfEnable {z : State} (t numVfs : Nat) {u : State}
    (h : execVfEnable t numVfs z = .next u) : Keeps z u := by
  have hk := Keeps.refl z
  unfold Machine.execVfEnable at h
  simp only [Host.Outcome.next.injEq] at h
  subst h
  repeat' first
    | with_reducible assumption
    | (intro _ _ _ _)
    | (intro _ _ _)
    | (intro _ _)
    | (with_reducible apply Keeps.ite_fst)
    | (with_reducible apply Keeps.advance)
    | (with_reducible apply Keeps.vfEnableSet)
    | (with_reducible apply Keeps.ite)

theorem Keeps.execPriReset {z : State} (fn : Nat) {u : State}
    (h : execPriReset fn z = .next u) : Keeps z u := by
  have hk := Keeps.refl z
  unfold Machine.execPriReset at h
  simp only [Host.Outcome.next.injEq] at h
  subst h
  repeat' first
    | with_reducible assumption
    | (intro _ _ _ _)
    | (intro _ _ _)
    | (intro _ _)
    | (with_reducible apply Keeps.ite_fst)
    | (with_reducible apply Keeps.priReset)
    | (with_reducible apply Keeps.ite)

theorem Keeps.execConfigRequest {z : State} (t fn : Nat) (field : CfgField) (write : Option Nat) {u : State}
    (h : execConfigRequest t fn field write z = .next u) : Keeps z u := by
  have hk := Keeps.refl z
  unfold Machine.execConfigRequest at h
  simp only [Host.Outcome.next.injEq] at h
  subst h
  repeat' first
    | with_reducible assumption
    | (intro _ _ _ _)
    | (intro _ _ _)
    | (intro _ _)
    | (with_reducible apply Keeps.ite_fst)
    | (with_reducible apply Keeps.advance)
    | (with_reducible apply Keeps.configRequest)

theorem Keeps.execTranslationResponse {z : State} (t fn q page : Nat) (frame : Option Nat) {u : State}
    (h : execTranslationResponse t fn q page frame z = .next u) : Keeps z u := by
  have hk := Keeps.refl z
  unfold Machine.execTranslationResponse at h
  simp only [Host.Outcome.next.injEq] at h
  subst h
  repeat' first
    | with_reducible assumption
    | (intro _ _ _ _)
    | (intro _ _ _)
    | (intro _ _)
    | (with_reducible apply Keeps.ite_fst)
    | (with_reducible apply Keeps.advance)
    | (with_reducible apply Keeps.translationResponse)

theorem Keeps.execPrgResponse {z : State} (t fn q : Nat) (code : PrgCode) {u : State}
    (h : execPrgResponse t fn q code z = .next u) : Keeps z u := by
  have hk := Keeps.refl z
  unfold Machine.execPrgResponse at h
  simp only [Host.Outcome.next.injEq] at h
  subst h
  repeat' first
    | with_reducible assumption
    | (intro _ _ _ _)
    | (intro _ _ _)
    | (intro _ _)
    | (with_reducible apply Keeps.ite_fst)
    | (with_reducible apply Keeps.advance)
    | (with_reducible apply Keeps.prgResponse)

theorem Keeps.execPageRequestTimeout {z : State} (t fn q : Nat) {u : State}
    (h : execPageRequestTimeout t fn q z = .next u) : Keeps z u := by
  have hk := Keeps.refl z
  unfold Machine.execPageRequestTimeout at h
  simp only [Host.Outcome.next.injEq] at h
  subst h
  repeat' first
    | with_reducible assumption
    | (intro _ _ _ _)
    | (intro _ _ _)
    | (intro _ _)
    | (with_reducible apply Keeps.ite_fst)
    | (with_reducible apply Keeps.advance)
    | (with_reducible apply Keeps.pageRequestTimeout)

theorem Keeps.execInvalidateRequest {z : State} (t fn tag pasid page : Nat) {u : State}
    (h : execInvalidateRequest t fn tag pasid page z = .next u) : Keeps z u := by
  have hk := Keeps.refl z
  unfold Machine.execInvalidateRequest at h
  simp only [Host.Outcome.next.injEq] at h
  subst h
  repeat' first
    | with_reducible assumption
    | (intro _ _ _ _)
    | (intro _ _ _)
    | (intro _ _)
    | (with_reducible apply Keeps.ite_fst)
    | (with_reducible apply Keeps.advance)
    | (with_reducible apply Keeps.invalidateRequest)

theorem Keeps.execInvalidateComplete {z : State} (t fn tag : Nat) {u : State}
    (h : execInvalidateComplete t fn tag z = .next u) : Keeps z u := by
  have hk := Keeps.refl z
  unfold Machine.execInvalidateComplete at h
  simp only [Host.Outcome.next.injEq] at h
  subst h
  repeat' first
    | with_reducible assumption
    | (intro _ _ _ _)
    | (intro _ _ _)
    | (intro _ _)
    | (with_reducible apply Keeps.ite_fst)
    | (with_reducible apply Keeps.advance)
    | (with_reducible apply Keeps.invalidateComplete)

theorem Keeps.execFunctionStatus {z : State} (r : Rq) {u : State}
    (h : execFunctionStatus r z = .next u) : Keeps z u := by
  have hk := Keeps.refl z
  unfold Machine.execFunctionStatus at h
  simp only [Host.Outcome.next.injEq] at h
  subst h
  repeat' first
    | with_reducible assumption
    | (intro _ _ _ _)
    | (intro _ _ _)
    | (intro _ _)
    | (with_reducible apply Keeps.ite_fst)
    | (with_reducible apply Keeps.serveAction)

theorem Keeps.execCommit {z : State} (r : Rq) {u : State}
    (h : execCommit r z = .next u) : Keeps z u := by
  have hk := Keeps.refl z
  unfold Machine.execCommit at h
  simp only [Host.Outcome.next.injEq] at h
  subst h
  repeat' first
    | with_reducible assumption
    | (intro _ _ _ _)
    | (intro _ _ _)
    | (intro _ _)
    | (with_reducible apply Keeps.ite_fst)
    | (with_reducible apply Keeps.fdpServe)
    | (with_reducible apply Keeps.commitReq)

theorem Keeps.execAdjust {z : State} (r : Rq) {u : State}
    (h : execAdjust r z = .next u) : Keeps z u := by
  have hk := Keeps.refl z
  unfold Machine.execAdjust at h
  simp only [Host.Outcome.next.injEq] at h
  subst h
  repeat' first
    | with_reducible assumption
    | (intro _ _ _ _)
    | (intro _ _ _)
    | (intro _ _)
    | (with_reducible apply Keeps.ite_fst)
    | (with_reducible apply Keeps.fdpServe)
    | (with_reducible apply Keeps.adjustReq)

theorem Keeps.execRemove {z : State} (r : Rq) {u : State}
    (h : execRemove r z = .next u) : Keeps z u := by
  have hk := Keeps.refl z
  unfold Machine.execRemove at h
  simp only [Host.Outcome.next.injEq] at h
  subst h
  repeat' first
    | with_reducible assumption
    | (intro _ _ _ _)
    | (intro _ _ _)
    | (intro _ _)
    | (with_reducible apply Keeps.ite_fst)
    | (with_reducible apply Keeps.serveAction)
    | (with_reducible apply Keeps.removePolder)

theorem Keeps.execPolderRemoveComplete {z : State} (t polder : Nat) {u : State}
    (h : execPolderRemoveComplete t polder z = .next u) : Keeps z u := by
  have hk := Keeps.refl z
  unfold Machine.execPolderRemoveComplete at h
  simp only [Host.Outcome.next.injEq] at h
  subst h
  repeat' first
    | with_reducible assumption
    | (intro _ _ _ _)
    | (intro _ _ _)
    | (intro _ _)
    | (with_reducible apply Keeps.ite_fst)
    | (with_reducible apply Keeps.advance)
    | (with_reducible apply Keeps.polderRemoved)

theorem Keeps.execPolderFaultClear {z : State} (r : Rq) {u : State}
    (h : execPolderFaultClear r z = .next u) : Keeps z u := by
  have hk := Keeps.refl z
  unfold Machine.execPolderFaultClear at h
  simp only [Host.Outcome.next.injEq] at h
  subst h
  repeat' first
    | with_reducible assumption
    | (intro _ _ _ _)
    | (intro _ _ _)
    | (intro _ _)
    | (with_reducible apply Keeps.ite_fst)
    | (split <;> [rfl; exact Tab.wf_set _ _ (And.left (And.right (by assumption)))])
    | (with_reducible apply Keeps.serveAction)
    | ((with_reducible refine Keeps.modPolders ?_ ?_) <;> [skip; (generalize State.polders _ = b; exact fun h => h)])
    | ((with_reducible refine Keeps.modPolders ?_ ?_) <;> [skip; (intro h; unfold PoldersForm at h ⊢; simp_all [Tab.wf_set, Tab.wf_upd, Tab.wf_filter, Tab.wf_ite])])

theorem Keeps.execHostGroupWrite {z : State} (r : Rq) {u : State}
    (h : execHostGroupWrite r z = .next u) : Keeps z u := by
  have hk := Keeps.refl z
  unfold Machine.execHostGroupWrite at h
  simp only [Host.Outcome.next.injEq] at h
  subst h
  repeat' first
    | with_reducible assumption
    | (intro _ _ _ _)
    | (intro _ _ _)
    | (intro _ _)
    | (with_reducible apply Keeps.ite_fst)
    | (with_reducible apply Keeps.count)
    | (with_reducible apply Keeps.dikeLog)
    | (with_reducible apply Keeps.dikeLogFields)
    | (with_reducible apply Keeps.serveAction)
    | ((with_reducible refine Keeps.modPolders ?_ ?_) <;> [skip; (generalize State.polders _ = b; exact fun h => h)])
    | ((with_reducible refine Keeps.modPolders ?_ ?_) <;> [skip; (intro h; unfold PoldersForm at h ⊢; simp_all [Tab.wf_set, Tab.wf_upd, Tab.wf_filter, Tab.wf_ite])])

theorem Keeps.execHostGroupRead {z : State} (r : Rq) {u : State}
    (h : execHostGroupRead r z = .next u) : Keeps z u := by
  have hk := Keeps.refl z
  unfold Machine.execHostGroupRead at h
  simp only [Host.Outcome.next.injEq] at h
  subst h
  repeat' first
    | with_reducible assumption
    | (intro _ _ _ _)
    | (intro _ _ _)
    | (intro _ _)
    | (with_reducible apply Keeps.ite_fst)
    | (with_reducible apply Keeps.count)
    | (with_reducible apply Keeps.serveAction)

theorem Keeps.execColdStart {z : State} (t : Nat) (w : PowerOn) {u : State}
    (h : execColdStart t w z = .next u) : Keeps z u := by
  have hk := Keeps.refl z
  unfold Machine.execColdStart at h
  simp only [Host.Outcome.next.injEq] at h
  subst h
  repeat' first
    | with_reducible assumption
    | (intro _ _ _ _)
    | (intro _ _ _)
    | (intro _ _)
    | (with_reducible apply Keeps.ite_fst)
    | (with_reducible apply Keeps.advance)
    | (with_reducible apply Keeps.coldStart)

theorem Keeps.execDdr4TrainingDone {z : State} (t md : Nat) {u : State}
    (h : execDdr4TrainingDone t md z = .next u) : Keeps z u := by
  have hk := Keeps.refl z
  unfold Machine.execDdr4TrainingDone at h
  simp only [Host.Outcome.next.injEq] at h
  subst h
  repeat' first
    | with_reducible assumption
    | (intro _ _ _ _)
    | (intro _ _ _)
    | (intro _ _)
    | (with_reducible apply Keeps.ite_fst)
    | (with_reducible apply Keeps.advance)
    | (with_reducible apply Keeps.ddr4TrainingDone)

theorem Keeps.execPf0Ready {z : State} (t : Nat) {u : State}
    (h : execPf0Ready t z = .next u) : Keeps z u := by
  have hk := Keeps.refl z
  unfold Machine.execPf0Ready at h
  simp only [Host.Outcome.next.injEq] at h
  subst h
  repeat' first
    | with_reducible assumption
    | (intro _ _ _ _)
    | (intro _ _ _)
    | (intro _ _)
    | (with_reducible apply Keeps.ite_fst)
    | (with_reducible apply Keeps.advance)
    | (with_reducible apply Keeps.pf0Ready)

theorem Keeps.execFieldInService {z : State} (t : Nat) {u : State}
    (h : execFieldInService t z = .next u) : Keeps z u := by
  have hk := Keeps.refl z
  unfold Machine.execFieldInService at h
  simp only [Host.Outcome.next.injEq] at h
  subst h
  repeat' first
    | with_reducible assumption
    | (intro _ _ _ _)
    | (intro _ _ _)
    | (intro _ _)
    | (with_reducible apply Keeps.ite_fst)
    | (with_reducible apply Keeps.advance)
    | (with_reducible apply Keeps.fieldInService)

theorem Keeps.execAllReady {z : State} (t : Nat) {u : State}
    (h : execAllReady t z = .next u) : Keeps z u := by
  have hk := Keeps.refl z
  unfold Machine.execAllReady at h
  simp only [Host.Outcome.next.injEq] at h
  subst h
  repeat' first
    | with_reducible assumption
    | (intro _ _ _ _)
    | (intro _ _ _)
    | (intro _ _)
    | (with_reducible apply Keeps.ite_fst)
    | (with_reducible apply Keeps.advance)
    | (with_reducible apply Keeps.allReady)

theorem Keeps.execPerstNAssert {z : State} (t : Nat) {u : State}
    (h : execPerstNAssert t z = .next u) : Keeps z u := by
  have hk := Keeps.refl z
  unfold Machine.execPerstNAssert at h
  simp only [Host.Outcome.next.injEq] at h
  subst h
  repeat' first
    | with_reducible assumption
    | (intro _ _ _ _)
    | (intro _ _ _)
    | (intro _ _)
    | (with_reducible apply Keeps.ite_fst)
    | (with_reducible apply Keeps.advance)
    | (with_reducible apply Keeps.perstNAssert)

theorem Keeps.execFullResetMark {z : State} (t : Nat) {u : State}
    (h : execFullResetMark t z = .next u) : Keeps z u := by
  have hk := Keeps.refl z
  unfold Machine.execFullResetMark at h
  simp only [Host.Outcome.next.injEq] at h
  subst h
  repeat' first
    | with_reducible assumption
    | (intro _ _ _ _)
    | (intro _ _ _)
    | (intro _ _)
    | (with_reducible apply Keeps.ite_fst)
    | (with_reducible apply Keeps.advance)
    | (with_reducible apply Keeps.fullResetMark)

theorem Keeps.execPerstNRelease {z : State} (w : FlashAt) {u : State}
    (h : execPerstNRelease w z = .next u) : Keeps z u := by
  have hk := Keeps.refl z
  unfold Machine.execPerstNRelease at h
  simp only [Host.Outcome.next.injEq] at h
  subst h
  repeat' first
    | with_reducible assumption
    | (intro _ _ _ _)
    | (intro _ _ _)
    | (intro _ _)
    | (with_reducible apply Keeps.ite_fst)
    | (with_reducible apply Keeps.advance)
    | (with_reducible apply Keeps.perstNRelease)

theorem Keeps.execWriteCacheDrainEnd {z : State} (t : Nat) (w : PowerOn) {u : State}
    (h : execWriteCacheDrainEnd t w z = .next u) : Keeps z u := by
  have hk := Keeps.refl z
  unfold Machine.execWriteCacheDrainEnd at h
  simp only [Host.Outcome.next.injEq] at h
  subst h
  repeat' first
    | with_reducible assumption
    | (intro _ _ _ _)
    | (intro _ _ _)
    | (intro _ _)
    | (with_reducible apply Keeps.ite_fst)
    | (with_reducible apply Keeps.advance)
    | (with_reducible apply Keeps.writeCacheDrainEnd)

theorem Keeps.execEmergencyDrainDone {z : State} (w : FlashAt) {u : State}
    (h : execEmergencyDrainDone w z = .next u) : Keeps z u := by
  have hk := Keeps.refl z
  unfold Machine.execEmergencyDrainDone at h
  simp only [Host.Outcome.next.injEq] at h
  subst h
  repeat' first
    | with_reducible assumption
    | (intro _ _ _ _)
    | (intro _ _ _)
    | (intro _ _)
    | (with_reducible apply Keeps.ite_fst)
    | (with_reducible apply Keeps.advance)
    | (with_reducible apply Keeps.emergencyDrainDone)

theorem Keeps.execRailFault {z : State} (t rail : Nat) {u : State}
    (h : execRailFault t rail z = .next u) : Keeps z u := by
  have hk := Keeps.refl z
  unfold Machine.execRailFault at h
  simp only [Host.Outcome.next.injEq] at h
  subst h
  repeat' first
    | with_reducible assumption
    | (intro _ _ _ _)
    | (intro _ _ _)
    | (intro _ _)
    | (with_reducible apply Keeps.ite_fst)
    | (with_reducible apply Keeps.advance)
    | (with_reducible apply Keeps.railFault)

theorem Keeps.execRefclkLoss {z : State} (t : Nat) {u : State}
    (h : execRefclkLoss t z = .next u) : Keeps z u := by
  have hk := Keeps.refl z
  unfold Machine.execRefclkLoss at h
  simp only [Host.Outcome.next.injEq] at h
  subst h
  repeat' first
    | with_reducible assumption
    | (intro _ _ _ _)
    | (intro _ _ _)
    | (intro _ _)
    | (with_reducible apply Keeps.ite_fst)
    | (with_reducible apply Keeps.advance)
    | (with_reducible apply Keeps.refclkLoss)

theorem Keeps.execFirmwareActivate {z : State} (r : Rq) {u : State}
    (h : execFirmwareActivate r z = .next u) : Keeps z u := by
  have hk := Keeps.refl z
  unfold Machine.execFirmwareActivate at h
  simp only [Host.Outcome.next.injEq] at h
  subst h
  repeat' first
    | with_reducible assumption
    | (intro _ _ _ _)
    | (intro _ _ _)
    | (intro _ _)
    | (with_reducible apply Keeps.ite_fst)
    | (with_reducible apply Keeps.advance)
    | (with_reducible apply Keeps.serveAction)
    | (with_reducible apply Keeps.coresStop)
    | (with_reducible apply Keeps.modBoot)
    | (with_reducible apply Keeps.ite)

theorem Keeps.execActivationCheck {z : State} (w : CheckAt) {u : State}
    (h : execActivationCheck w z = .next u) : Keeps z u := by
  have hk := Keeps.refl z
  unfold Machine.execActivationCheck at h
  simp only [Host.Outcome.next.injEq] at h
  subst h
  repeat' first
    | with_reducible assumption
    | (intro _ _ _ _)
    | (intro _ _ _)
    | (intro _ _)
    | (with_reducible apply Keeps.ite_fst)
    | (with_reducible apply Keeps.advance)
    | (with_reducible apply Keeps.activationCheck)

theorem Keeps.execActivationTimeout {z : State} (t : Nat) {u : State}
    (h : execActivationTimeout t z = .next u) : Keeps z u := by
  have hk := Keeps.refl z
  unfold Machine.execActivationTimeout at h
  simp only [Host.Outcome.next.injEq] at h
  subst h
  repeat' first
    | with_reducible assumption
    | (intro _ _ _ _)
    | (intro _ _ _)
    | (intro _ _)
    | (with_reducible apply Keeps.ite_fst)
    | (with_reducible apply Keeps.advance)
    | (with_reducible apply Keeps.activationTimeout)

theorem Keeps.execActivationComplete {z : State} (w : FlashAt) {u : State}
    (h : execActivationComplete w z = .next u) : Keeps z u := by
  have hk := Keeps.refl z
  unfold Machine.execActivationComplete at h
  simp only [Host.Outcome.next.injEq] at h
  subst h
  repeat' first
    | with_reducible assumption
    | (intro _ _ _ _)
    | (intro _ _ _)
    | (intro _ _)
    | (with_reducible apply Keeps.ite_fst)
    | (with_reducible apply Keeps.advance)
    | (with_reducible apply Keeps.activationComplete)

theorem Keeps.execRollbackAdvance {z : State} (r : Rq) {u : State}
    (h : execRollbackAdvance r z = .next u) : Keeps z u := by
  have hk := Keeps.refl z
  unfold Machine.execRollbackAdvance at h
  simp only [Host.Outcome.next.injEq] at h
  subst h
  repeat' first
    | with_reducible assumption
    | (intro _ _ _ _)
    | (intro _ _ _)
    | (intro _ _)
    | (with_reducible apply Keeps.ite_fst)
    | (with_reducible apply Keeps.serveAction)
    | (with_reducible apply Keeps.modBoot)

theorem Keeps.execDikeLogClear {z : State} (r : Rq) {u : State}
    (h : execDikeLogClear r z = .next u) : Keeps z u := by
  have hk := Keeps.refl z
  unfold Machine.execDikeLogClear at h
  simp only [Host.Outcome.next.injEq] at h
  subst h
  repeat' first
    | with_reducible assumption
    | (intro _ _ _ _)
    | (intro _ _ _)
    | (intro _ _)
    | (with_reducible apply Keeps.ite_fst)
    | (with_reducible apply Keeps.dikeLog)
    | (with_reducible apply Keeps.serveAction)
    | (with_reducible apply Keeps.modBoot)

theorem Keeps.execHeartbeat {z : State} (t : Nat) {u : State}
    (h : execHeartbeat t z = .next u) : Keeps z u := by
  have hk := Keeps.refl z
  unfold Machine.execHeartbeat at h
  simp only [Host.Outcome.next.injEq] at h
  subst h
  repeat' first
    | with_reducible assumption
    | (intro _ _ _ _)
    | (intro _ _ _)
    | (intro _ _)
    | (with_reducible apply Keeps.ite_fst)
    | (with_reducible apply Keeps.advance)
    | (with_reducible apply Keeps.heartbeat)

theorem Keeps.execCoreRestartComplete {z : State} (t : Nat) {u : State}
    (h : execCoreRestartComplete t z = .next u) : Keeps z u := by
  have hk := Keeps.refl z
  unfold Machine.execCoreRestartComplete at h
  simp only [Host.Outcome.next.injEq] at h
  subst h
  repeat' first
    | with_reducible assumption
    | (intro _ _ _ _)
    | (intro _ _ _)
    | (intro _ _)
    | (with_reducible apply Keeps.ite_fst)
    | (with_reducible apply Keeps.advance)
    | (with_reducible apply Keeps.coreRestartComplete)

theorem Keeps.execEvtStatWrite {z : State} (t g : Nat) (v coincide : Word32) {u : State}
    (h : execEvtStatWrite t g v coincide z = .next u) : Keeps z u := by
  have hk := Keeps.refl z
  unfold Machine.execEvtStatWrite at h
  simp only [Host.Outcome.next.injEq] at h
  subst h
  repeat' first
    | with_reducible assumption
    | (intro _ _ _ _)
    | (intro _ _ _)
    | (intro _ _)
    | (with_reducible apply Keeps.ite_fst)
    | (with_reducible apply Keeps.advance)
    | (with_reducible apply Keeps.barMissed)
    | (with_reducible apply Keeps.evtClear)
    | (with_reducible apply Keeps.ite)

theorem Keeps.execEvtMaskWrite {z : State} (t g : Nat) (v : Word32) {u : State}
    (h : execEvtMaskWrite t g v z = .next u) : Keeps z u := by
  have hk := Keeps.refl z
  unfold Machine.execEvtMaskWrite at h
  simp only [Host.Outcome.next.injEq] at h
  subst h
  repeat' first
    | with_reducible assumption
    | (intro _ _ _ _)
    | (intro _ _ _)
    | (intro _ _)
    | (with_reducible apply Keeps.ite_fst)
    | (with_reducible apply Keeps.advance)
    | (with_reducible apply Keeps.barMissed)
    | (with_reducible apply Keeps.evtMaskSet)
    | (with_reducible apply Keeps.ite)

theorem Keeps.execEvtVectorWrite {z : State} (t g : Nat) (v : Word32) {u : State}
    (h : execEvtVectorWrite t g v z = .next u) : Keeps z u := by
  have hk := Keeps.refl z
  unfold Machine.execEvtVectorWrite at h
  simp only [Host.Outcome.next.injEq] at h
  subst h
  repeat' first
    | with_reducible assumption
    | (intro _ _ _ _)
    | (intro _ _ _)
    | (intro _ _)
    | (with_reducible apply Keeps.ite_fst)
    | (with_reducible apply Keeps.advance)
    | (with_reducible apply Keeps.barMissed)
    | (with_reducible apply Keeps.evtVectorSet)
    | (with_reducible apply Keeps.ite)

theorem Keeps.execEvtTestWrite {z : State} (t g : Nat) (v : Word32) {u : State}
    (h : execEvtTestWrite t g v z = .next u) : Keeps z u := by
  have hk := Keeps.refl z
  unfold Machine.execEvtTestWrite at h
  simp only [Host.Outcome.next.injEq] at h
  subst h
  repeat' first
    | with_reducible assumption
    | (intro _ _ _ _)
    | (intro _ _ _)
    | (intro _ _)
    | (with_reducible apply Keeps.ite_fst)
    | (with_reducible apply Keeps.advance)
    | (with_reducible apply Keeps.barMissed)
    | (with_reducible apply Keeps.evtTest)
    | (with_reducible apply Keeps.ite)

theorem Keeps.execEventClear {z : State} (r : Rq) {u : State}
    (h : execEventClear r z = .next u) : Keeps z u := by
  have hk := Keeps.refl z
  unfold Machine.execEventClear at h
  simp only [Host.Outcome.next.injEq] at h
  subst h
  repeat' first
    | with_reducible assumption
    | (intro _ _ _ _)
    | (intro _ _ _)
    | (intro _ _)
    | (with_reducible apply Keeps.ite_fst)
    | (with_reducible apply Keeps.serveAction)
    | (with_reducible apply Keeps.evtClear)
    | (with_reducible refine Keeps.forEach _ (fun _ _ _ => ?_) ?_)
    | (with_reducible apply Keeps.ite)

theorem Keeps.execPortEventMapClear {z : State} (r : Rq) {u : State}
    (h : execPortEventMapClear r z = .next u) : Keeps z u := by
  have hk := Keeps.refl z
  unfold Machine.execPortEventMapClear at h
  simp only [Host.Outcome.next.injEq] at h
  subst h
  repeat' first
    | with_reducible assumption
    | (intro _ _ _ _)
    | (intro _ _ _)
    | (intro _ _)
    | (with_reducible apply Keeps.ite_fst)
    | (with_reducible apply Keeps.serveAction)
    | ((with_reducible refine Keeps.modEvt ?_ ?_) <;> [skip; (generalize State.evt _ = b; exact fun h => h)])

theorem Keeps.execCtrSelWrite {z : State} (t n : Nat) (v : Word32) {u : State}
    (h : execCtrSelWrite t n v z = .next u) : Keeps z u := by
  have hk := Keeps.refl z
  unfold Machine.execCtrSelWrite at h
  simp only [Host.Outcome.next.injEq] at h
  subst h
  repeat' first
    | with_reducible assumption
    | (intro _ _ _ _)
    | (intro _ _ _)
    | (intro _ _)
    | (with_reducible apply Keeps.ite_fst)
    | (with_reducible apply Keeps.advance)
    | (with_reducible apply Keeps.barMissed)
    | (with_reducible apply Keeps.ctrSelSet)
    | (with_reducible apply Keeps.ite)

theorem Keeps.execCtrLoRead {z : State} (t n : Nat) {u : State}
    (h : execCtrLoRead t n z = .next u) : Keeps z u := by
  have hk := Keeps.refl z
  unfold Machine.execCtrLoRead at h
  simp only [Host.Outcome.next.injEq] at h
  subst h
  repeat' first
    | with_reducible assumption
    | (intro _ _ _ _)
    | (intro _ _ _)
    | (intro _ _)
    | (with_reducible apply Keeps.ite_fst)
    | (with_reducible apply Keeps.advance)
    | (with_reducible apply Keeps.barMissed)
    | (with_reducible apply Keeps.ctrLatch)
    | (with_reducible apply Keeps.emit)
    | (with_reducible apply Keeps.ite)

theorem Keeps.execCtrValueWrite {z : State} (t n : Nat) (hi : Bool) (v : Word32) {u : State}
    (h : execCtrValueWrite t n hi v z = .next u) : Keeps z u := by
  have hk := Keeps.refl z
  unfold Machine.execCtrValueWrite at h
  simp only [Host.Outcome.next.injEq] at h
  subst h
  repeat' first
    | with_reducible assumption
    | (intro _ _ _ _)
    | (intro _ _ _)
    | (intro _ _)
    | (with_reducible apply Keeps.ite_fst)
    | (with_reducible apply Keeps.advance)
    | (with_reducible apply Keeps.barMissed)
    | (with_reducible apply Keeps.ctrValueSet)
    | (with_reducible apply Keeps.ite)

theorem Keeps.execCtrOvfClear {z : State} (t k : Nat) (v coincide : Word32) {u : State}
    (h : execCtrOvfClear t k v coincide z = .next u) : Keeps z u := by
  have hk := Keeps.refl z
  unfold Machine.execCtrOvfClear at h
  simp only [Host.Outcome.next.injEq] at h
  subst h
  repeat' first
    | with_reducible assumption
    | (intro _ _ _ _)
    | (intro _ _ _)
    | (intro _ _)
    | (with_reducible apply Keeps.ite_fst)
    | (with_reducible apply Keeps.advance)
    | (with_reducible apply Keeps.barMissed)
    | (with_reducible apply Keeps.ctrOvfClear)
    | (with_reducible apply Keeps.ite)

theorem Keeps.execClearAll {z : State} (t : Nat) {u : State}
    (h : execClearAll t z = .next u) : Keeps z u := by
  have hk := Keeps.refl z
  unfold Machine.execClearAll at h
  simp only [Host.Outcome.next.injEq] at h
  subst h
  repeat' first
    | with_reducible assumption
    | (intro _ _ _ _)
    | (intro _ _ _)
    | (intro _ _)
    | (with_reducible apply Keeps.ite_fst)
    | (with_reducible apply Keeps.advance)
    | (with_reducible apply Keeps.barMissed)
    | (with_reducible apply Keeps.clearCounters)
    | (with_reducible apply Keeps.ite)

theorem Keeps.execFreezeAll {z : State} (t : Nat) (v : Bool) {u : State}
    (h : execFreezeAll t v z = .next u) : Keeps z u := by
  have hk := Keeps.refl z
  unfold Machine.execFreezeAll at h
  simp only [Host.Outcome.next.injEq] at h
  subst h
  repeat' first
    | with_reducible assumption
    | (intro _ _ _ _)
    | (intro _ _ _)
    | (intro _ _)
    | (with_reducible apply Keeps.ite_fst)
    | (with_reducible apply Keeps.advance)
    | (with_reducible apply Keeps.barMissed)
    | ((with_reducible refine Keeps.modEvt ?_ ?_) <;> [skip; (generalize State.evt _ = b; exact fun h => h)])
    | (with_reducible apply Keeps.ite)

theorem Keeps.execDeviceCounterRead {z : State} (r : Rq) {u : State}
    (h : execDeviceCounterRead r z = .next u) : Keeps z u := by
  have hk := Keeps.refl z
  unfold Machine.execDeviceCounterRead at h
  simp only [Host.Outcome.next.injEq] at h
  subst h
  repeat' first
    | with_reducible assumption
    | (intro _ _ _ _)
    | (intro _ _ _)
    | (intro _ _)
    | (with_reducible apply Keeps.ite_fst)
    | (with_reducible apply Keeps.serveAction)

theorem Keeps.execPageOvfClear {z : State} (t fn : Nat) (v coincide : Word32) {u : State}
    (h : execPageOvfClear t fn v coincide z = .next u) : Keeps z u := by
  have hk := Keeps.refl z
  unfold Machine.execPageOvfClear at h
  simp only [Host.Outcome.next.injEq] at h
  subst h
  repeat' first
    | with_reducible assumption
    | (intro _ _ _ _)
    | (intro _ _ _)
    | (intro _ _)
    | (with_reducible apply Keeps.ite_fst)
    | (with_reducible apply Keeps.advance)
    | (with_reducible apply Keeps.barMissed)
    | (with_reducible apply Keeps.pageOvfClear)
    | (with_reducible apply Keeps.ite)

theorem Keeps.execPolderCounterSelect {z : State} (r : Rq) {u : State}
    (h : execPolderCounterSelect r z = .next u) : Keeps z u := by
  have hk := Keeps.refl z
  unfold Machine.execPolderCounterSelect at h
  simp only [Host.Outcome.next.injEq] at h
  subst h
  repeat' first
    | with_reducible assumption
    | (intro _ _ _ _)
    | (intro _ _ _)
    | (intro _ _)
    | (with_reducible apply Keeps.ite_fst)
    | (with_reducible apply Keeps.setPage)
    | (with_reducible apply Keeps.serveAction)

theorem Keeps.execPolderCounterRead {z : State} (r : Rq) {u : State}
    (h : execPolderCounterRead r z = .next u) : Keeps z u := by
  have hk := Keeps.refl z
  unfold Machine.execPolderCounterRead at h
  simp only [Host.Outcome.next.injEq] at h
  subst h
  repeat' first
    | with_reducible assumption
    | (intro _ _ _ _)
    | (intro _ _ _)
    | (intro _ _)
    | (with_reducible apply Keeps.ite_fst)
    | (with_reducible apply Keeps.serveAction)

theorem Keeps.execSelfTestRun {z : State} (r : Rq) {u : State}
    (h : execSelfTestRun r z = .next u) : Keeps z u := by
  have hk := Keeps.refl z
  unfold Machine.execSelfTestRun at h
  simp only [Host.Outcome.next.injEq] at h
  subst h
  repeat' first
    | with_reducible assumption
    | (intro _ _ _ _)
    | (intro _ _ _)
    | (intro _ _)
    | (with_reducible apply Keeps.ite_fst)
    | (with_reducible apply Keeps.serveAction)
    | (with_reducible apply Keeps.fieldDieOut)
    | (with_reducible apply Keeps.memoryDieOut)
    | (with_reducible apply Keeps.ite)

theorem Keeps.execSelfTestEnd {z : State} (t die signature : Nat) {u : State}
    (h : execSelfTestEnd t die signature z = .next u) : Keeps z u := by
  have hk := Keeps.refl z
  unfold Machine.execSelfTestEnd at h
  simp only [Host.Outcome.next.injEq] at h
  subst h
  repeat' first
    | with_reducible assumption
    | (intro _ _ _ _)
    | (intro _ _ _)
    | (intro _ _)
    | (with_reducible apply Keeps.ite_fst)
    | (with_reducible apply Keeps.advance)
    | (with_reducible apply Keeps.selfTestEnd)

theorem Keeps.execDieReturn {z : State} (r : Rq) {u : State}
    (h : execDieReturn r z = .next u) : Keeps z u := by
  have hk := Keeps.refl z
  unfold Machine.execDieReturn at h
  simp only [Host.Outcome.next.injEq] at h
  subst h
  repeat' first
    | with_reducible assumption
    | (intro _ _ _ _)
    | (intro _ _ _)
    | (intro _ _)
    | (with_reducible apply Keeps.ite_fst)
    | (with_reducible apply Keeps.serveAction)
    | (with_reducible apply Keeps.setTestDie)

theorem Keeps.execDieReturnComplete {z : State} (t die : Nat) {u : State}
    (h : execDieReturnComplete t die z = .next u) : Keeps z u := by
  have hk := Keeps.refl z
  unfold Machine.execDieReturnComplete at h
  simp only [Host.Outcome.next.injEq] at h
  subst h
  repeat' first
    | with_reducible assumption
    | (intro _ _ _ _)
    | (intro _ _ _)
    | (intro _ _)
    | (with_reducible apply Keeps.ite_fst)
    | (with_reducible apply Keeps.advance)
    | (with_reducible apply Keeps.dieReturnComplete)

theorem Keeps.execExtest {z : State}  {u : State}
    (h : execExtest z = .next u) : Keeps z u := by
  have hk := Keeps.refl z
  unfold Machine.execExtest at h
  simp only [Host.Outcome.next.injEq] at h
  subst h
  repeat' first
    | with_reducible assumption
    | (intro _ _ _ _)
    | (intro _ _ _)
    | (intro _ _)
    | (with_reducible apply Keeps.ite_fst)
    | (with_reducible apply Keeps.tapLoad)
    | (with_reducible apply Keeps.tapBypass)
    | (with_reducible apply Keeps.tapSample)
    | (with_reducible apply Keeps.ite)

theorem Keeps.execSamplePreload {z : State} (cells : Bytes) {u : State}
    (h : execSamplePreload cells z = .next u) : Keeps z u := by
  have hk := Keeps.refl z
  unfold Machine.execSamplePreload at h
  simp only [Host.Outcome.next.injEq] at h
  subst h
  repeat' first
    | with_reducible assumption
    | (intro _ _ _ _)
    | (intro _ _ _)
    | (intro _ _)
    | (with_reducible apply Keeps.ite_fst)
    | (with_reducible apply Keeps.tapLoad)
    | (with_reducible apply Keeps.tapSample)
    | (with_reducible apply Keeps.modBoard)

theorem Keeps.execIdcode {z : State}  {u : State}
    (h : execIdcode z = .next u) : Keeps z u := by
  have hk := Keeps.refl z
  unfold Machine.execIdcode at h
  simp only [Host.Outcome.next.injEq] at h
  subst h
  repeat' first
    | with_reducible assumption
    | (intro _ _ _ _)
    | (intro _ _ _)
    | (intro _ _)
    | (with_reducible apply Keeps.ite_fst)
    | (with_reducible apply Keeps.tapLoad)
    | (with_reducible apply Keeps.emit)

theorem Keeps.execBypass {z : State} (code : BitVec 8) {u : State}
    (h : execBypass code z = .next u) : Keeps z u := by
  have hk := Keeps.refl z
  unfold Machine.execBypass at h
  simp only [Host.Outcome.next.injEq] at h
  subst h
  repeat' first
    | with_reducible assumption
    | (intro _ _ _ _)
    | (intro _ _ _)
    | (intro _ _)
    | (with_reducible apply Keeps.ite_fst)
    | (with_reducible apply Keeps.tapBypass)

theorem Keeps.execClamp {z : State}  {u : State}
    (h : execClamp z = .next u) : Keeps z u := by
  have hk := Keeps.refl z
  unfold Machine.execClamp at h
  simp only [Host.Outcome.next.injEq] at h
  subst h
  repeat' first
    | with_reducible assumption
    | (intro _ _ _ _)
    | (intro _ _ _)
    | (intro _ _)
    | (with_reducible apply Keeps.ite_fst)
    | (with_reducible apply Keeps.tapBoard)

theorem Keeps.execHighz {z : State}  {u : State}
    (h : execHighz z = .next u) : Keeps z u := by
  have hk := Keeps.refl z
  unfold Machine.execHighz at h
  simp only [Host.Outcome.next.injEq] at h
  subst h
  repeat' first
    | with_reducible assumption
    | (intro _ _ _ _)
    | (intro _ _ _)
    | (intro _ _)
    | (with_reducible apply Keeps.ite_fst)
    | (with_reducible apply Keeps.tapBoard)

theorem Keeps.execExtestPulse {z : State}  {u : State}
    (h : execExtestPulse z = .next u) : Keeps z u := by
  have hk := Keeps.refl z
  unfold Machine.execExtestPulse at h
  simp only [Host.Outcome.next.injEq] at h
  subst h
  repeat' first
    | with_reducible assumption
    | (intro _ _ _ _)
    | (intro _ _ _)
    | (intro _ _)
    | (with_reducible apply Keeps.ite_fst)
    | (with_reducible apply Keeps.tapLoad)
    | (with_reducible apply Keeps.tapBypass)
    | (with_reducible apply Keeps.tapSample)
    | (with_reducible apply Keeps.ite)

theorem Keeps.execExtestTrain {z : State}  {u : State}
    (h : execExtestTrain z = .next u) : Keeps z u := by
  have hk := Keeps.refl z
  unfold Machine.execExtestTrain at h
  simp only [Host.Outcome.next.injEq] at h
  subst h
  repeat' first
    | with_reducible assumption
    | (intro _ _ _ _)
    | (intro _ _ _)
    | (intro _ _)
    | (with_reducible apply Keeps.ite_fst)
    | (with_reducible apply Keeps.tapLoad)
    | (with_reducible apply Keeps.tapBypass)
    | (with_reducible apply Keeps.tapSample)
    | (with_reducible apply Keeps.ite)

theorem Keeps.execAcFailFall {z : State} (t : Nat) {u : State}
    (h : execAcFailFall t z = .next u) : Keeps z u := by
  have hk := Keeps.refl z
  unfold Machine.execAcFailFall at h
  simp only [Host.Outcome.next.injEq] at h
  subst h
  repeat' first
    | with_reducible assumption
    | (intro _ _ _ _)
    | (intro _ _ _)
    | (intro _ _)
    | (with_reducible apply Keeps.ite_fst)
    | (with_reducible apply Keeps.advance)
    | (with_reducible apply Keeps.acFailFall)

theorem Keeps.execAcFailNHigh {z : State} (t : Nat) {u : State}
    (h : execAcFailNHigh t z = .next u) : Keeps z u := by
  have hk := Keeps.refl z
  unfold Machine.execAcFailNHigh at h
  simp only [Host.Outcome.next.injEq] at h
  subst h
  repeat' first
    | with_reducible assumption
    | (intro _ _ _ _)
    | (intro _ _ _)
    | (intro _ _)
    | (with_reducible apply Keeps.ite_fst)
    | (with_reducible apply Keeps.advance)
    | (with_reducible apply Keeps.modBoard)
    | (with_reducible apply Keeps.ite)

theorem Keeps.execAcFailRise {z : State} (t : Nat) {u : State}
    (h : execAcFailRise t z = .next u) : Keeps z u := by
  have hk := Keeps.refl z
  unfold Machine.execAcFailRise at h
  simp only [Host.Outcome.next.injEq] at h
  subst h
  repeat' first
    | with_reducible assumption
    | (intro _ _ _ _)
    | (intro _ _ _)
    | (intro _ _)
    | (with_reducible apply Keeps.ite_fst)
    | (with_reducible apply Keeps.advance)
    | (with_reducible apply Keeps.powerResume)
    | (with_reducible apply Keeps.modBoard)
    | (with_reducible apply Keeps.ite)

theorem Keeps.execThermtrip {z : State} (t : Nat) {u : State}
    (h : execThermtrip t z = .next u) : Keeps z u := by
  have hk := Keeps.refl z
  unfold Machine.execThermtrip at h
  simp only [Host.Outcome.next.injEq] at h
  subst h
  repeat' first
    | with_reducible assumption
    | (intro _ _ _ _)
    | (intro _ _ _)
    | (intro _ _)
    | (with_reducible apply Keeps.ite_fst)
    | (with_reducible apply Keeps.advance)
    | (with_reducible apply Keeps.thermtrip)

theorem Keeps.execThermalSample {z : State} (t : Nat) (temps : List Int) (power : Nat) {u : State}
    (h : execThermalSample t temps power z = .next u) : Keeps z u := by
  have hk := Keeps.refl z
  unfold Machine.execThermalSample at h
  simp only [Host.Outcome.next.injEq] at h
  subst h
  repeat' first
    | with_reducible assumption
    | (intro _ _ _ _)
    | (intro _ _ _)
    | (intro _ _)
    | (with_reducible apply Keeps.ite_fst)
    | (with_reducible apply Keeps.advance)
    | (with_reducible apply Keeps.thermalSample)

theorem Keeps.execJunctionTempMaxClear {z : State} (r : Rq) {u : State}
    (h : execJunctionTempMaxClear r z = .next u) : Keeps z u := by
  have hk := Keeps.refl z
  unfold Machine.execJunctionTempMaxClear at h
  simp only [Host.Outcome.next.injEq] at h
  subst h
  repeat' first
    | with_reducible assumption
    | (intro _ _ _ _)
    | (intro _ _ _)
    | (intro _ _)
    | (with_reducible apply Keeps.ite_fst)
    | (with_reducible apply Keeps.serveAction)
    | (with_reducible apply Keeps.modBoard)

theorem Keeps.execSmbusJunctionTemp {z : State} {u : State}
    (h : execSmbusJunctionTemp z = .next u) : Keeps z u := by
  have hk := Keeps.refl z
  unfold Machine.execSmbusJunctionTemp at h
  simp only [Host.Outcome.next.injEq] at h
  subst h
  repeat' first
    | with_reducible assumption
    | (intro _ _ _ _)
    | (intro _ _ _)
    | (intro _ _)
    | (with_reducible apply Keeps.ite_fst)
    | (with_reducible apply Keeps.smbusRead)
    | (with_reducible apply Keeps.drawBool)
    | (with_reducible apply Keeps.ite)

theorem Keeps.execSmbusStatus {z : State} {u : State}
    (h : execSmbusStatus z = .next u) : Keeps z u := by
  have hk := Keeps.refl z
  unfold Machine.execSmbusStatus at h
  simp only [Host.Outcome.next.injEq] at h
  subst h
  repeat' first
    | with_reducible assumption
    | (intro _ _ _ _)
    | (intro _ _ _)
    | (intro _ _)
    | (with_reducible apply Keeps.ite_fst)
    | (with_reducible apply Keeps.smbusRead)

theorem Keeps.execSmbusPowerEstimate {z : State} {u : State}
    (h : execSmbusPowerEstimate z = .next u) : Keeps z u := by
  have hk := Keeps.refl z
  unfold Machine.execSmbusPowerEstimate at h
  simp only [Host.Outcome.next.injEq] at h
  subst h
  repeat' first
    | with_reducible assumption
    | (intro _ _ _ _)
    | (intro _ _ _)
    | (intro _ _)
    | (with_reducible apply Keeps.ite_fst)
    | (with_reducible apply Keeps.smbusRead)

theorem Keeps.execSmbusJunctionTempFine {z : State} {u : State}
    (h : execSmbusJunctionTempFine z = .next u) : Keeps z u := by
  have hk := Keeps.refl z
  unfold Machine.execSmbusJunctionTempFine at h
  simp only [Host.Outcome.next.injEq] at h
  subst h
  repeat' first
    | with_reducible assumption
    | (intro _ _ _ _)
    | (intro _ _ _)
    | (intro _ _)
    | (with_reducible apply Keeps.ite_fst)
    | (with_reducible apply Keeps.smbusRead)

theorem Keeps.execSmbusStepping {z : State} {u : State}
    (h : execSmbusStepping z = .next u) : Keeps z u := by
  have hk := Keeps.refl z
  unfold Machine.execSmbusStepping at h
  simp only [Host.Outcome.next.injEq] at h
  subst h
  repeat' first
    | with_reducible assumption
    | (intro _ _ _ _)
    | (intro _ _ _)
    | (intro _ _)
    | (with_reducible apply Keeps.ite_fst)
    | (with_reducible apply Keeps.smbusRead)

theorem Keeps.execRead {z : State} (r : Rq) {u : State}
    (h : execRead r z = .next u) : Keeps z u := by
  have hk := Keeps.refl z
  unfold Machine.execRead at h
  simp only [Host.Outcome.next.injEq] at h
  subst h
  repeat' first
    | with_reducible assumption
    | (intro _ _ _ _)
    | (intro _ _ _)
    | (intro _ _)
    | (with_reducible apply Keeps.ite_fst)
    | (with_reducible apply Keeps.fdpServe)
    | (with_reducible apply Keeps.readValue)

theorem Keeps.execSubscriptionTimer {z : State} (t number : Nat) {u : State}
    (h : execSubscriptionTimer t number z = .next u) : Keeps z u := by
  have hk := Keeps.refl z
  unfold Machine.execSubscriptionTimer at h
  simp only [Host.Outcome.next.injEq] at h
  subst h
  repeat' first
    | with_reducible assumption
    | (intro _ _ _ _)
    | (intro _ _ _)
    | (intro _ _)
    | (with_reducible apply Keeps.ite_fst)
    | (with_reducible apply Keeps.advance)
    | (with_reducible apply Keeps.notifyOne)
    | split

theorem Keeps.execSubscribe {z : State} (r : Rq) {u : State}
    (h : execSubscribe r z = .next u) : Keeps z u := by
  have hk := Keeps.refl z
  unfold Machine.execSubscribe at h
  simp only [Host.Outcome.next.injEq] at h
  subst h
  repeat' first
    | with_reducible assumption
    | (intro _ _ _ _)
    | (intro _ _ _)
    | (intro _ _)
    | (with_reducible apply Keeps.ite_fst)
    | (with_reducible apply Keeps.fdpServe)
    | (with_reducible apply Keeps.subscribeOne)

theorem Keeps.execUnsubscribe {z : State} (r : Rq) {u : State}
    (h : execUnsubscribe r z = .next u) : Keeps z u := by
  have hk := Keeps.refl z
  unfold Machine.execUnsubscribe at h
  simp only [Host.Outcome.next.injEq] at h
  subst h
  repeat' first
    | with_reducible assumption
    | (intro _ _ _ _)
    | (intro _ _ _)
    | (intro _ _)
    | (with_reducible apply Keeps.ite_fst)
    | (with_reducible apply Keeps.serveAction)
    | ((with_reducible refine Keeps.modDict ?_ ?_) <;> [skip; (generalize State.dict _ = b; exact fun h => h)])

theorem Keeps.execWrite {z : State} (r : Rq) {u : State}
    (h : execWrite r z = .next u) : Keeps z u := by
  have hk := Keeps.refl z
  unfold Machine.execWrite at h
  simp only [Host.Outcome.next.injEq] at h
  subst h
  repeat' first
    | with_reducible assumption
    | (intro _ _ _ _)
    | (intro _ _ _)
    | (intro _ _)
    | (with_reducible apply Keeps.ite_fst)
    | (with_reducible apply Keeps.fdpServe)
    | (with_reducible apply Keeps.writeOne)
    | (with_reducible apply Keeps.writePost)
    | (with_reducible apply Keeps.notifyChanges)

theorem Keeps.execKeyBlob {z : State} (r : Rq) {u : State}
    (h : execKeyBlob r z = .next u) : Keeps z u := by
  have hk := Keeps.refl z
  unfold Machine.execKeyBlob at h
  simp only [Host.Outcome.next.injEq] at h
  subst h
  repeat' first
    | with_reducible assumption
    | (intro _ _ _ _)
    | (intro _ _ _)
    | (intro _ _)
    | (with_reducible apply Keeps.ite_fst)
    | (with_reducible apply Keeps.fdpServe)
    | (with_reducible apply Keeps.writeOne)
    | (with_reducible apply Keeps.writePost)
    | (with_reducible apply Keeps.notifyChanges)

theorem Keeps.execServiceToken {z : State} (r : Rq) {u : State}
    (h : execServiceToken r z = .next u) : Keeps z u := by
  have hk := Keeps.refl z
  unfold Machine.execServiceToken at h
  simp only [Host.Outcome.next.injEq] at h
  subst h
  repeat' first
    | with_reducible assumption
    | (intro _ _ _ _)
    | (intro _ _ _)
    | (intro _ _)
    | (with_reducible apply Keeps.ite_fst)
    | (with_reducible apply Keeps.fdpServe)
    | (with_reducible apply Keeps.writeOne)
    | (with_reducible apply Keeps.writePost)
    | (with_reducible apply Keeps.notifyChanges)

theorem Keeps.execDikeDmaWindows {z : State} (r : Rq) {u : State}
    (h : execDikeDmaWindows r z = .next u) : Keeps z u := by
  have hk := Keeps.refl z
  unfold Machine.execDikeDmaWindows at h
  simp only [Host.Outcome.next.injEq] at h
  subst h
  repeat' first
    | with_reducible assumption
    | (intro _ _ _ _)
    | (intro _ _ _)
    | (intro _ _)
    | (with_reducible apply Keeps.ite_fst)
    | (with_reducible apply Keeps.fdpServe)
    | (with_reducible apply Keeps.writeOne)
    | (with_reducible apply Keeps.writePost)
    | (with_reducible apply Keeps.notifyChanges)

theorem Keeps.execTokenExpiry {z : State} (t session : Nat) {u : State}
    (h : execTokenExpiry t session z = .next u) : Keeps z u := by
  have hk := Keeps.refl z
  unfold Machine.execTokenExpiry at h
  simp only [Host.Outcome.next.injEq] at h
  subst h
  repeat' first
    | with_reducible assumption
    | (intro _ _ _ _)
    | (intro _ _ _)
    | (intro _ _)
    | (with_reducible apply Keeps.ite_fst)
    | (with_reducible apply Keeps.advance)
    | (with_reducible apply Keeps.tokenExpiry)

theorem Keeps.execReadBlock {z : State} (r : Rq) {u : State}
    (h : execReadBlock r z = .next u) : Keeps z u := by
  have hk := Keeps.refl z
  unfold Machine.execReadBlock at h
  simp only [Host.Outcome.next.injEq] at h
  subst h
  repeat' first
    | with_reducible assumption
    | (intro _ _ _ _)
    | (intro _ _ _)
    | (intro _ _)
    | (with_reducible apply Keeps.ite_fst)
    | (with_reducible apply Keeps.fdpServe)
    | (with_reducible apply Keeps.readBlockOne)

theorem Keeps.execSnapshotExpiry {z : State} (t session : Nat) (w : ObjectSub) {u : State}
    (h : execSnapshotExpiry t session w z = .next u) : Keeps z u := by
  have hk := Keeps.refl z
  unfold Machine.execSnapshotExpiry at h
  simp only [Host.Outcome.next.injEq] at h
  subst h
  repeat' first
    | with_reducible assumption
    | (intro _ _ _ _)
    | (intro _ _ _)
    | (intro _ _)
    | (with_reducible apply Keeps.ite_fst)
    | (with_reducible apply Keeps.advance)
    | (with_reducible apply Keeps.dropSnap)
    | (with_reducible apply Keeps.ite)

theorem Keeps.execWriteBlock {z : State} (r : Rq) {u : State}
    (h : execWriteBlock r z = .next u) : Keeps z u := by
  have hk := Keeps.refl z
  unfold Machine.execWriteBlock at h
  simp only [Host.Outcome.next.injEq] at h
  subst h
  repeat' first
    | with_reducible assumption
    | (intro _ _ _ _)
    | (intro _ _ _)
    | (intro _ _)
    | (with_reducible apply Keeps.ite_fst)
    | (with_reducible apply Keeps.fdpServe)
    | (with_reducible apply Keeps.notifyChanges)
    | (with_reducible apply Keeps.writeBlockOne)
    | (with_reducible apply Keeps.blockPost)

theorem Keeps.execStagingExpiry {z : State} (t session : Nat) (w : ObjectSub) {u : State}
    (h : execStagingExpiry t session w z = .next u) : Keeps z u := by
  have hk := Keeps.refl z
  unfold Machine.execStagingExpiry at h
  simp only [Host.Outcome.next.injEq] at h
  subst h
  repeat' first
    | with_reducible assumption
    | (intro _ _ _ _)
    | (intro _ _ _)
    | (intro _ _)
    | (with_reducible apply Keeps.ite_fst)
    | (with_reducible apply Keeps.advance)
    | (with_reducible apply Keeps.dropStaging)
    | (with_reducible apply Keeps.ite)

theorem Keeps.execKeptResponseExpiry {z : State} (t : Nat) (w : KeptId) {u : State}
    (h : execKeptResponseExpiry t w z = .next u) : Keeps z u := by
  have hk := Keeps.refl z
  unfold Machine.execKeptResponseExpiry at h
  simp only [Host.Outcome.next.injEq] at h
  subst h
  repeat' first
    | with_reducible assumption
    | (intro _ _ _ _)
    | (intro _ _ _)
    | (intro _ _)
    | (with_reducible apply Keeps.ite_fst)
    | (with_reducible apply Keeps.setSession)
    | (with_reducible apply Keeps.advance)
    | (with_reducible apply Keeps.setSession)
    | split

theorem Keeps.execStoreAll {z : State} (r : Rq) {u : State}
    (h : execStoreAll r z = .next u) : Keeps z u := by
  have hk := Keeps.refl z
  unfold Machine.execStoreAll at h
  simp only [Host.Outcome.next.injEq] at h
  subst h
  repeat' first
    | with_reducible assumption
    | (intro _ _ _ _)
    | (intro _ _ _)
    | (intro _ _)
    | (with_reducible apply Keeps.ite_fst)
    | (with_reducible apply Keeps.serveAction)
    | (with_reducible apply Keeps.storeBegin)

theorem Keeps.execRestoreDefaults {z : State} (r : Rq) {u : State}
    (h : execRestoreDefaults r z = .next u) : Keeps z u := by
  have hk := Keeps.refl z
  unfold Machine.execRestoreDefaults at h
  simp only [Host.Outcome.next.injEq] at h
  subst h
  repeat' first
    | with_reducible assumption
    | (intro _ _ _ _)
    | (intro _ _ _)
    | (intro _ _)
    | (with_reducible apply Keeps.ite_fst)
    | (with_reducible apply Keeps.serveAction)
    | (with_reducible apply Keeps.storeBegin)

theorem Keeps.execStoreAllComplete {z : State} (t : Nat) (readBackOk : Bool) {u : State}
    (h : execStoreAllComplete t readBackOk z = .next u) : Keeps z u := by
  have hk := Keeps.refl z
  unfold Machine.execStoreAllComplete at h
  simp only [Host.Outcome.next.injEq] at h
  subst h
  repeat' first
    | with_reducible assumption
    | (intro _ _ _ _)
    | (intro _ _ _)
    | (intro _ _)
    | (with_reducible apply Keeps.ite_fst)
    | (with_reducible apply Keeps.advance)
    | (with_reducible apply Keeps.storeEnd)

theorem Keeps.execDikeHeartbeatTimeout {z : State} (w : Missed) {u : State}
    (h : execDikeHeartbeatTimeout w z = .next u) : Keeps z u := by
  have hk := Keeps.refl z
  unfold Machine.execDikeHeartbeatTimeout at h
  simp only [Host.Outcome.next.injEq] at h
  subst h
  repeat' first
    | with_reducible assumption
    | (intro _ _ _ _)
    | (intro _ _ _)
    | (intro _ _)
    | (with_reducible apply Keeps.ite_fst)
    | (with_reducible apply Keeps.advance)
    | (with_reducible apply Keeps.dikeHeartbeatTimeout)

theorem Keeps.execMbxGo {z : State} (t : Nat) (v : Word32) {u : State}
    (h : execMbxGo t v z = .next u) : Keeps z u := by
  have hk := Keeps.refl z
  unfold Machine.execMbxGo at h
  simp only [Host.Outcome.next.injEq] at h
  subst h
  repeat' first
    | with_reducible assumption
    | (intro _ _ _ _)
    | (intro _ _ _)
    | (intro _ _)
    | (with_reducible apply Keeps.ite_fst)
    | (with_reducible apply Keeps.advance)
    | (with_reducible apply Keeps.barMissed)
    | (with_reducible apply Keeps.mbxCtrl)
    | (with_reducible apply Keeps.ite)

theorem Keeps.execRegisterWrite {z : State} (t fn bar off size value : Nat) {u : State}
    (h : execRegisterWrite t fn bar off size value z = .next u) : Keeps z u := by
  have hk := Keeps.refl z
  unfold Machine.execRegisterWrite at h
  simp only [Host.Outcome.next.injEq] at h
  subst h
  repeat' first
    | with_reducible assumption
    | (intro _ _ _ _)
    | (intro _ _ _)
    | (intro _ _)
    | (with_reducible apply Keeps.ite_fst)
    | (with_reducible apply Keeps.advance)
    | (with_reducible apply Keeps.registerWrite)

end Sys2Proof.Machine
end

