-- ==== Sys2Proof/Laws/Operands.lean ====
section
/-! SUPPORT. How a request of the dictionary is answered: what a response changes, and what an action does
that the mailbox asks for. -/

namespace Sys2Proof.Machine
open Sys2Proof

@[simp] theorem length_beBytes (k n : Nat) : (beBytes k n).length = k := by
  induction k generalizing n with
  | zero => rfl
  | succ k ih => simp [beBytes, ih]

@[simp] theorem length_buildMsg (flags kind total session reqId epoch seq index sub ty pa pb : Nat) (data : Bytes) :
    (buildMsg flags kind total session reqId epoch seq index sub ty pa pb data).length = 28 + data.length := by
  simp [buildMsg]; omega

/-- A response of the mailbox changes the mailbox and signals. -/
theorem signals_mbxRespond (flags kind reqId index sub ty pa pb : Nat) (data : Bytes) (s : State) :
    Signals (modMbx (fun m => { m with
      rsp := wordsOf (buildMsg flags kind (28 + data.length) 0 reqId s.dict.epoch 0 index sub ty pa pb data)
      rspLength := 28 + data.length, busy := false, done := true, accepted := none }) s)
      (mbxRespond flags kind reqId index sub ty pa pb data s) := by
  unfold mbxRespond
  simp only [length_buildMsg]
  exact signals_raise 2 _

section Respond
variable (flags kind reqId index sub ty pa pb : Nat) (data : Bytes) (s : State)

@[simp] theorem mbxRespond_pending : (mbxRespond flags kind reqId index sub ty pa pb data s).pending = s.pending :=
  (signals_mbxRespond flags kind reqId index sub ty pa pb data s).pending
@[simp] theorem mbxRespond_clock : (mbxRespond flags kind reqId index sub ty pa pb data s).clock = s.clock :=
  (signals_mbxRespond flags kind reqId index sub ty pa pb data s).clock
@[simp] theorem mbxRespond_freeCtr : (mbxRespond flags kind reqId index sub ty pa pb data s).freeCtr = s.freeCtr :=
  (signals_mbxRespond flags kind reqId index sub ty pa pb data s).freeCtr
@[simp] theorem mbxRespond_nextId : (mbxRespond flags kind reqId index sub ty pa pb data s).nextId = s.nextId :=
  (signals_mbxRespond flags kind reqId index sub ty pa pb data s).nextId
@[simp] theorem mbxRespond_board : (mbxRespond flags kind reqId index sub ty pa pb data s).board = s.board :=
  (signals_mbxRespond flags kind reqId index sub ty pa pb data s).board
@[simp] theorem mbxRespond_boot : (mbxRespond flags kind reqId index sub ty pa pb data s).boot = s.boot :=
  (signals_mbxRespond flags kind reqId index sub ty pa pb data s).boot
@[simp] theorem mbxRespond_dict : (mbxRespond flags kind reqId index sub ty pa pb data s).dict = s.dict :=
  (signals_mbxRespond flags kind reqId index sub ty pa pb data s).dict
@[simp] theorem mbxRespond_ports : (mbxRespond flags kind reqId index sub ty pa pb data s).ports = s.ports :=
  (signals_mbxRespond flags kind reqId index sub ty pa pb data s).ports
@[simp] theorem mbxRespond_time : (mbxRespond flags kind reqId index sub ty pa pb data s).time = s.time :=
  (signals_mbxRespond flags kind reqId index sub ty pa pb data s).time
@[simp] theorem mbxRespond_frer : (mbxRespond flags kind reqId index sub ty pa pb data s).frer = s.frer :=
  (signals_mbxRespond flags kind reqId index sub ty pa pb data s).frer
@[simp] theorem mbxRespond_cls : (mbxRespond flags kind reqId index sub ty pa pb data s).cls = s.cls :=
  (signals_mbxRespond flags kind reqId index sub ty pa pb data s).cls
@[simp] theorem mbxRespond_tables : (mbxRespond flags kind reqId index sub ty pa pb data s).tables = s.tables :=
  (signals_mbxRespond flags kind reqId index sub ty pa pb data s).tables
@[simp] theorem mbxRespond_flow : (mbxRespond flags kind reqId index sub ty pa pb data s).flow = s.flow :=
  (signals_mbxRespond flags kind reqId index sub ty pa pb data s).flow
@[simp] theorem mbxRespond_buf : (mbxRespond flags kind reqId index sub ty pa pb data s).buf = s.buf :=
  (signals_mbxRespond flags kind reqId index sub ty pa pb data s).buf
@[simp] theorem mbxRespond_sched : (mbxRespond flags kind reqId index sub ty pa pb data s).sched = s.sched :=
  (signals_mbxRespond flags kind reqId index sub ty pa pb data s).sched
@[simp] theorem mbxRespond_polders : (mbxRespond flags kind reqId index sub ty pa pb data s).polders = s.polders :=
  (signals_mbxRespond flags kind reqId index sub ty pa pb data s).polders
@[simp] theorem mbxRespond_wq : (mbxRespond flags kind reqId index sub ty pa pb data s).wq = s.wq :=
  (signals_mbxRespond flags kind reqId index sub ty pa pb data s).wq
@[simp] theorem mbxRespond_cipher : (mbxRespond flags kind reqId index sub ty pa pb data s).cipher = s.cipher :=
  (signals_mbxRespond flags kind reqId index sub ty pa pb data s).cipher
@[simp] theorem mbxRespond_siphon : (mbxRespond flags kind reqId index sub ty pa pb data s).siphon = s.siphon :=
  (signals_mbxRespond flags kind reqId index sub ty pa pb data s).siphon
@[simp] theorem mbxRespond_jrn : (mbxRespond flags kind reqId index sub ty pa pb data s).jrn = s.jrn :=
  (signals_mbxRespond flags kind reqId index sub ty pa pb data s).jrn
@[simp] theorem mbxRespond_test : (mbxRespond flags kind reqId index sub ty pa pb data s).test = s.test :=
  (signals_mbxRespond flags kind reqId index sub ty pa pb data s).test
@[simp] theorem mbxRespond_culv : (mbxRespond flags kind reqId index sub ty pa pb data s).culv = s.culv :=
  (signals_mbxRespond flags kind reqId index sub ty pa pb data s).culv
@[simp] theorem mbxRespond_ep_link : (mbxRespond flags kind reqId index sub ty pa pb data s).ep.link = s.ep.link :=
  (signals_mbxRespond flags kind reqId index sub ty pa pb data s).ep_link
@[simp] theorem mbxRespond_ep_funcs : (mbxRespond flags kind reqId index sub ty pa pb data s).ep.funcs = s.ep.funcs :=
  (signals_mbxRespond flags kind reqId index sub ty pa pb data s).ep_funcs
@[simp] theorem mbxRespond_ep_reads : (mbxRespond flags kind reqId index sub ty pa pb data s).ep.reads = s.ep.reads :=
  (signals_mbxRespond flags kind reqId index sub ty pa pb data s).ep_reads
@[simp] theorem mbxRespond_ep_quarantine : (mbxRespond flags kind reqId index sub ty pa pb data s).ep.quarantine = s.ep.quarantine :=
  (signals_mbxRespond flags kind reqId index sub ty pa pb data s).ep_quarantine
@[simp] theorem mbxRespond_ep_cached : (mbxRespond flags kind reqId index sub ty pa pb data s).ep.cached = s.ep.cached :=
  (signals_mbxRespond flags kind reqId index sub ty pa pb data s).ep_cached
@[simp] theorem mbxRespond_ep_invalidations : (mbxRespond flags kind reqId index sub ty pa pb data s).ep.invalidations = s.ep.invalidations :=
  (signals_mbxRespond flags kind reqId index sub ty pa pb data s).ep_invalidations
@[simp] theorem mbxRespond_ep_pageReqs : (mbxRespond flags kind reqId index sub ty pa pb data s).ep.pageReqs = s.ep.pageReqs :=
  (signals_mbxRespond flags kind reqId index sub ty pa pb data s).ep_pageReqs
@[simp] theorem mbxRespond_ep_numVfs : (mbxRespond flags kind reqId index sub ty pa pb data s).ep.numVfs = s.ep.numVfs :=
  (signals_mbxRespond flags kind reqId index sub ty pa pb data s).ep_numVfs
@[simp] theorem mbxRespond_ep_vfEnable : (mbxRespond flags kind reqId index sub ty pa pb data s).ep.vfEnable = s.ep.vfEnable :=
  (signals_mbxRespond flags kind reqId index sub ty pa pb data s).ep_vfEnable

theorem mbxRespond_mbx : (mbxRespond flags kind reqId index sub ty pa pb data s).mbx = { s.mbx with
    rsp := wordsOf (buildMsg flags kind (28 + data.length) 0 reqId s.dict.epoch 0 index sub ty pa pb data)
    rspLength := 28 + data.length, busy := false, done := true, accepted := none } :=
  (signals_mbxRespond flags kind reqId index sub ty pa pb data s).mbx

theorem mbxRespond_only : AnswersOnly s (mbxRespond flags kind reqId index sub ty pa pb data s) := by
  have h := signals_mbxRespond flags kind reqId index sub ty pa pb data s
  refine ⟨⟨?_, h.ep, h.mask, h.vector, h.freeze⟩, ?_⟩
  · refine Eq.trans h.rest ?_
    rw [mbxRespond_mbx]
    rfl
  · rw [mbxRespond_mbx]
    rfl

/-- A response after a change that only signals. -/
theorem mbxRespond_only_of {r : State} (h : Signals r s) :
    AnswersOnly r (mbxRespond flags kind reqId index sub ty pa pb data s) := by
  obtain ⟨⟨a1, a2, a3, a4, a5⟩, b⟩ := mbxRespond_only flags kind reqId index sub ty pa pb data s
  obtain ⟨h1, h2, h3, h4, h5⟩ := h
  have hm : r.mbx = s.mbx := (congrArg State.mbx h1).symm
  refine ⟨⟨?_, ?_, a3.trans h3, a4.trans h4, a5.trans h5⟩, hm ▸ b⟩
  · have h := congrArg (fun x : State => { x with ep := r.ep, evt := r.evt, out := r.out }) a1
    dsimp only at h ⊢
    rw [h]
    have g := congrArg (fun x : State => { x with mbx := (mbxRespond flags kind reqId index sub ty pa pb data s).mbx }) h1
    exact g
  · have h := congrArg (fun x : Endpoint => { x with inta := r.ep.inta, msix := r.ep.msix }) a2
    exact h.trans h2

/-- A response after a record in the Dike's log. -/
theorem mbxRespond_log (o : Origin) (die cls target : Nat) :
    AnswersAndLogs s (mbxRespond flags kind reqId index sub ty pa pb data (dikeLog o die cls target s)) := by
  unfold AnswersAndLogs
  apply mbxRespond_only_of
  simp only [mbxRespond_boot, mbxRespond_dict]
  exact logs_dikeLog o die cls target s

/-- A response after records in the Dike's log. -/
theorem mbxRespond_logs (o : Origin) (cls target : Nat) :
    AnswersAndLogs s (mbxRespond flags kind reqId index sub ty pa pb data (dikeLogFields o cls target s)) := by
  unfold AnswersAndLogs
  apply mbxRespond_only_of
  simp only [mbxRespond_boot, mbxRespond_dict]
  exact logs_dikeLogFields o cls target s

end Respond

theorem firstAbort_nil : firstAbort [] = none := by decide

/-- An action the mailbox asks for, that none of the owner's checks refuses: its effect, then its response. -/
theorem serve_ok {mine : Nat → Nat → Bool} {own : Req → State → List Nat} {go : Handler} {t : Nat} {f : Bool} {s s2 : State}
    {b : Bytes} {idx sub ty : Nat} {data : Bytes} (h : Asks (advance t s) b idx sub) (hm : mine idx sub = true)
    (ho : own (mbxReq (advance t s) f b) (advance t s) = [])
    (hg : go (mbxReq (advance t s) f b) (advance t s) = (s2, .ok 0 0 ty data)) :
    serveAction mine own go { t := t, src := .mailbox, flash := f } s
      = mbxRespond 1 (parseMsg b 0).kind (parseMsg b 0).reqId (parseMsg b 0).index (parseMsg b 0).sub ty 0 0 data s2 := by
  obtain ⟨h1, h2, h3, h4, h5, h6, h7, h8, h9⟩ := h
  replace h9 : actionAborts (mbxReq (advance t s) f b) = [] := h9
  have hq : (mbxReq (advance t s) f b).msg = parseMsg b 0 := rfl
  have hmine : actMine mine (parseMsg b 0) = true := by simp [actMine, h5, h6, h7, hm]
  have hgo : guarded (action own go) (mbxReq (advance t s) f b) (advance t s) = (s2, .ok 0 0 ty data) := by
    have ha : action own go (mbxReq (advance t s) f b) (advance t s) = (s2, .ok 0 0 ty data) := by
      simp only [action, h9, ho, hq, h6, h7, h8]
      simpa [firstAbort_nil] using hg
    unfold guarded
    split
    · rename_i hb
      simp only [Bool.and_eq_true, decide_eq_true_eq, Bool.not_eq_true'] at hb
      rw [hq, h4 hb.1] at hb
      exact absurd hb.2 (by simp)
    · exact ha
  unfold serveAction fdpServe mbxServe
  simp only [h1, h2, h3, hq, hmine, hgo]
  rfl

/-- An action that is answered when it completes is noted. -/
theorem serve_later {mine : Nat → Nat → Bool} {own : Req → State → List Nat} {go : Handler} {t : Nat} {f : Bool} {s s2 : State}
    {b : Bytes} {idx sub : Nat} {a : LongAct} (h : Asks (advance t s) b idx sub) (hm : mine idx sub = true)
    (ho : own (mbxReq (advance t s) f b) (advance t s) = [])
    (hg : go (mbxReq (advance t s) f b) (advance t s) = (s2, .later a)) :
    serveAction mine own go { t := t, src := .mailbox, flash := f } s
      = modDict (fun d => { d with acts := d.acts ++ [{ act := a, req := reqHead (mbxReq (advance t s) f b), repeats := 0 }] })
          (modMbx (fun m => { m with accepted := none }) s2) := by
  obtain ⟨h1, h2, h3, h4, h5, h6, h7, h8, h9⟩ := h
  replace h9 : actionAborts (mbxReq (advance t s) f b) = [] := h9
  have hq : (mbxReq (advance t s) f b).msg = parseMsg b 0 := rfl
  have hmine : actMine mine (parseMsg b 0) = true := by simp [actMine, h5, h6, h7, hm]
  have hgo : guarded (action own go) (mbxReq (advance t s) f b) (advance t s) = (s2, .later a) := by
    have ha : action own go (mbxReq (advance t s) f b) (advance t s) = (s2, .later a) := by
      simp only [action, h9, ho, hq, h6, h7, h8]
      simpa [firstAbort_nil] using hg
    unfold guarded
    split
    · rename_i hb
      simp only [Bool.and_eq_true, decide_eq_true_eq, Bool.not_eq_true'] at hb
      rw [hq, h4 hb.1] at hb
      exact absurd hb.2 (by simp)
    · exact ha
  unfold serveAction fdpServe mbxServe
  simp only [h1, h2, h3, hq, hmine, hgo]
  rfl

/-- An action that a check of its owner refuses: the first abort that applies is the response, and nothing
else happens. -/
theorem serve_abort {mine : Nat → Nat → Bool} {own : Req → State → List Nat} {go : Handler} {t : Nat} {f : Bool} {s : State}
    {b : Bytes} {idx sub c : Nat} (h : Asks (advance t s) b idx sub) (hm : mine idx sub = true)
    (ho : firstAbort (own (mbxReq (advance t s) f b) (advance t s)) = some c) :
    serveAction mine own go { t := t, src := .mailbox, flash := f } s
      = mbxRespond 3 (parseMsg b 0).kind (parseMsg b 0).reqId (parseMsg b 0).index (parseMsg b 0).sub 0 c 0 []
          (advance t s) := by
  obtain ⟨h1, h2, h3, h4, h5, h6, h7, h8, h9⟩ := h
  replace h9 : actionAborts (mbxReq (advance t s) f b) = [] := h9
  have hq : (mbxReq (advance t s) f b).msg = parseMsg b 0 := rfl
  have hmine : actMine mine (parseMsg b 0) = true := by simp [actMine, h5, h6, h7, hm]
  have hgo : guarded (action own go) (mbxReq (advance t s) f b) (advance t s) = (advance t s, .abort c) := by
    have ha : action own go (mbxReq (advance t s) f b) (advance t s) = (advance t s, .abort c) := by
      simp only [action, h9, hq, h6, h7, h8]
      simp [ho]
    unfold guarded
    split
    · rename_i hb
      simp only [Bool.and_eq_true, decide_eq_true_eq, Bool.not_eq_true'] at hb
      rw [hq, h4 hb.1] at hb
      exact absurd hb.2 (by simp)
    · exact ha
  unfold serveAction fdpServe mbxServe
  simp only [h1, h2, h3, hq, hmine, hgo]
  rfl

/-- The response of `serve_ok` answers the request. -/
theorem answered_mbxRespond (b : Bytes) (ty : Nat) (data : Bytes) (s : State) :
    Answered (mbxRespond 1 (parseMsg b 0).kind (parseMsg b 0).reqId (parseMsg b 0).index (parseMsg b 0).sub ty 0 0 data s)
      b ty data := by
  unfold Answered
  simp only [mbxRespond_mbx, mbxRespond_dict, and_self]

/-- An action command completes as `ServesAction` says where, of every request and state, its checks pass
and its effect answers the data. -/
theorem serves_ok {mk : Rq → Instr} {mine : Nat → Nat → Bool} {own : Req → State → List Nat} {go : Handler}
    {idx sub ty : Nat} {ok : Bytes → State → Prop} {data : Bytes → State → Bytes} {done : Bytes → State → State → Prop}
    (hx : ∀ r s, exec (mk r) s = .next (serveAction mine own go r s)) (hm : mine idx sub = true)
    (h : ∀ q x, q.msg.index = idx → q.msg.sub = sub → ok q.msg.data x → own q x = [] ∧ ∃ s2, go q x = (s2, .ok 0 0 ty (data q.msg.data x))
      ∧ ∀ kind reqId i k, done q.msg.data x (mbxRespond 1 kind reqId i k ty 0 0 (data q.msg.data x) s2)) :
    ServesAction mk idx sub ok ty data done := by
  intro t f s b ha ho
  obtain ⟨h1, s2, h2, h3⟩ := h (mbxReq (advance t s) f b) (advance t s) ha.2.2.2.2.2.1 ha.2.2.2.2.2.2.1 ho
  exact ⟨_, (hx _ s).trans (congrArg _ (serve_ok ha hm h1 h2)), answered_mbxRespond b ty _ s2, h3 _ _ _ _⟩

/-- The response of `serve_abort` is the abort. -/
theorem aborted_mbxRespond (b : Bytes) (c : Nat) (s : State) :
    Aborted (mbxRespond 3 (parseMsg b 0).kind (parseMsg b 0).reqId (parseMsg b 0).index (parseMsg b 0).sub 0 c 0 [] s)
      b c := by
  unfold Aborted
  simp only [mbxRespond_mbx, mbxRespond_dict, List.length_nil, Nat.add_zero, and_self]

/-- An action command is refused as `RefusesAction` says where its first failing check has the code. -/
theorem refuses_ok {mk : Rq → Instr} {mine : Nat → Nat → Bool} {own : Req → State → List Nat} {go : Handler}
    {idx sub code : Nat} {bad : Bytes → State → Prop}
    (hx : ∀ r s, exec (mk r) s = .next (serveAction mine own go r s)) (hm : mine idx sub = true)
    (h : ∀ q x, q.msg.index = idx → q.msg.sub = sub → bad q.msg.data x → firstAbort (own q x) = some code) : RefusesAction mk idx sub bad code := by
  intro t f s b ha hb
  exact ⟨_, (hx _ s).trans (congrArg _ (serve_abort ha hm (h _ _ ha.2.2.2.2.2.1 ha.2.2.2.2.2.2.1 hb))), aborted_mbxRespond b code _, mbxRespond_only ..⟩

/-- An action that is answered when it ends is taken up as `TakesAction` says. -/
theorem takes_ok {mk : Rq → Instr} {mine : Nat → Nat → Bool} {own : Req → State → List Nat} {go : Handler}
    {idx sub : Nat} {a : LongAct} {ok : Bytes → State → Prop} {done : Bytes → State → State → Prop}
    (hx : ∀ r s, exec (mk r) s = .next (serveAction mine own go r s)) (hm : mine idx sub = true)
    (h : ∀ q x, q.msg.index = idx → q.msg.sub = sub → ok q.msg.data x → own q x = [] ∧ ∃ s2, go q x = (s2, .later a)
      ∧ s2.mbx = x.mbx ∧ s2.dict.acts = x.dict.acts
      ∧ ∀ p, done q.msg.data x (modDict (fun d => { d with acts := d.acts ++ p })
          (modMbx (fun m => { m with accepted := none }) s2))) :
    TakesAction mk idx sub ok a done := by
  intro t f s b ha ho
  obtain ⟨h1, s2, h2, h3, h4, h5⟩ := h (mbxReq (advance t s) f b) (advance t s) ha.2.2.2.2.2.1 ha.2.2.2.2.2.2.1 ho
  refine ⟨_, (hx _ s).trans (congrArg _ (serve_later ha hm h1 h2)), rfl, ?_, ?_, h5 _⟩
  · show s2.mbx.busy = _
    rw [h3]
  · show s2.dict.acts ++ _ = _
    rw [h4]
    rfl

theorem signalsOnly_of {s u : State} (h : Signals s u) : SignalsOnly s u := ⟨h.rest, h.ep, h.mask, h.vector, h.freeze⟩

theorem countQ_only (idx sub n : Nat) (port tc polder : Option Nat) (s : State) :
    CountsOnly s (countQ idx sub n port tc polder s) := by
  obtain ⟨c, h⟩ := signals_countQ idx sub n port tc polder s
  have hd := congrArg State.dict h.rest
  unfold CountsOnly
  dsimp only at hd
  rw [hd]
  exact signalsOnly_of h

/-- Records of the Dike's log change no request that is being carried out, and nothing of the mailbox. -/
theorem Logs.mbx {x u : State} (h : Logs x u) : u.mbx = x.mbx := by
  have := congrArg State.mbx h.rest
  exact this

theorem Logs.acts {x u : State} (h : Logs x u) : u.dict.acts = x.dict.acts := by
  have := congrArg (fun y : State => y.dict.acts) h.rest
  exact this

/-- A request that is taken up, after records in the Dike's log. -/
theorem taken_logs {x u : State} (h : Logs x u) (p : List PendAct) :
    AnswersAndLogs { x with dict := { x.dict with acts := u.dict.acts ++ p } }
      (modDict (fun d => { d with acts := d.acts ++ p }) (modMbx (fun m => { m with accepted := none }) u)) := by
  have hm := h.mbx
  have ha := h.acts
  obtain ⟨h1, h2, h3, h4, h5⟩ := h
  refine ⟨⟨?_, h2, h3, h4, h5⟩, ?_⟩
  · have g := congrArg (fun y : State => { y with
        mbx := { u.mbx with accepted := none }, dict := { y.dict with acts := u.dict.acts ++ p } }) h1
    exact g
  · show MailboxAnswers x.mbx { u.mbx with accepted := none }
    rw [hm]
    rfl

end Sys2Proof.Machine
end

