-- ==== Sys2Proof/Tests/Slice0.lean ====
section
/-! SUPPORT. The model's own tests: an ill-formed term for each check of WellFormed, single steps against the
worked examples and test vectors of the spec, and, for every statement with hypotheses, states and operands that meet
them, clause by clause (a clause for a state and what `Meets` names is met by a request in the mailbox). -/

set_option Elab.async false

open Sys2Proof Sys2Proof.Machine

namespace Sys2Proof.Tests

/-- An action request whose argument has the type the object asks for. -/
def ask (idx sub : Nat) (data : Bytes) : Bytes :=
  buildMsg 0 5 (28 + data.length) 0 1 0 0 idx sub (((objDesc idx sub).map (·.arg)).getD 0) 0 0 data

/-- A state with a request in the mailbox. -/
def holding (b : Bytes) (s : State) : State := { s with mbx := { s.mbx with busy := true, accepted := some b } }

/-- A state with an action request in the mailbox. -/
def asks (idx sub : Nat) (data : Bytes) (s : State) : State := holding (ask idx sub data) s

/-- Some state has the action in its mailbox, with an argument that meets `ok`. -/
def Meets (idx sub : Nat) (ok : Bytes → State → Prop) : Prop :=
  ∃ t s b, Asks (advance t s) b idx sub ∧ ok (parseMsg b 0).data (advance t s)

/-- Objects with other values than their defaults. -/
def having (l : List (Nat × Nat × Bytes)) (s : State) : State := l.foldl (fun s e => setVal e.1 e.2.1 e.2.2 s) s

/-- The state at reset. -/
def base : State := State.reset

/-- A host link that is up, with PF0 ready, its BARs open, its bus master on and MSI-X off. -/
def host : State := { base.setPolder 0 Polder.zero with
  ep := { base.ep with link := 2, funcs := [(0, { Func.reset with memSpace := true, busMaster := true, rrs := false })] } }

/-- An entry of a ring: opcode, flags, length, address and its last 16 bytes (spec 11 Table 11.3). -/
def entry (op flags len addr : Nat) (tail : Bytes) : Bytes :=
  [byteOf op, byteOf flags] ++ leBytes 2 len ++ zeros 4 ++ leBytes 8 addr ++ tail

/-- A fetched chain of those entries. -/
def chain (e : List Bytes) : Chain :=
  { first := 0, entries := e, started := false, finished := false, status := 0, result := 0 }

/-- An enabled queue of a kind, with completion queue 1 and fetched chains. -/
def queueOf (kind : Nat) (l : List Chain) : Queue :=
  { Queue.reset with st := .enabled, ctx := [(2, BitVec.ofNat 32 kind), (3, 1)], chains := l }

/-- Queue 0 of PF0 is `x`. -/
def withQueue (x : Queue) (s : State) : State := s.setQueue 0 0 x

/-- A received frame of 60 bytes, held in a field die. -/
def hframe : HFrame :=
  { place := .fd 0 0 1, bytes := zeros 60, enq := 0
    info := { inPort := 0, stamp := 0, hash := 0, cls := 0, rxFlags := 0, reason := 0, vid := 1, tc := 0, yellow := false,
              stream := none, seqNo := none, group := 0, src := .field, edit := false, ptpOther := false, frame := 0 } }

/-- A Siphon packet of opcode `op` for channel 0 on path 0 (spec 13 Table 13.1). -/
def packet (flags op psn msg len off key addr : Nat) (payload : Bytes) : Bytes :=
  [byteOf (16 + flags), byteOf op, 0, 0, 0, 0, 0, 0] ++ beBytes 4 psn ++ beBytes 4 msg ++ beBytes 4 len ++ beBytes 4 off
    ++ beBytes 4 key ++ beBytes 8 addr ++ beBytes 2 (payload.length % 65536) ++ zeros 2 ++ payload

/-- That packet as the engine takes it from a field die, its immediate after it. -/
def taken (b : Bytes) : SRx :=
  { sid := 0, port := 0, ip6 := false, srcAddr := zeros 16, dstAddr := zeros 16, udpPort := cfgN base 0x4200 1
    udpLen := 8 + b.length, ce := false, udpOk := true, at_ := 0, bytes := b }

/-- PF0 has a Siphon channel, a region and a namespace handle of its own. -/
def equipped : State := host.setPolder 0 { Polder.zero with
  counts := { Counts.polder0 with channels := 1, regions := 1, domains := 1, namespaces := 1 }
  maps := [List.range 64, List.range 64, List.range 128, [0], [], [0], [0]] }

/-- Channel 0 as given, with a received packet waiting. -/
def received (c : Channel) (b : Bytes) : State :=
  { equipped.setChannel 0 c with siphon := { (equipped.setChannel 0 c).siphon with rx := [taken b] } }

/-- A namespace of slot 0 that is attached to PF0's handle 0 and READY, on a cartridge that is ONLINE. -/
def stored : State :=
  let s := (equipped.setCart 0 { CartSlot.reset with state := 3, present := true }).setSpace 0
    { Space.reset with defined := true, size := 1024, state := 1, attach := some (0, 0) }
  { s with jrn := { s.jrn with state := 1 } }

theorem length_zeros (n : Nat) : (zeros n).length = n := by simp [zeros]

/-- One segment of host memory is read whole. -/
theorem gather_segment (s : State) (a n : Nat) (h : isDdr a = false) : gather s [(a, n)] (zeros n) = some (zeros n) := by
  have e : (zeros n).drop n = [] := by simp [zeros]
  have f : (zeros n).take n = zeros n := by simp [zeros]
  simp [gather, h, e, f, length_zeros]

/-- With neither a PASID nor ACS to check, no request of a queue is refused. -/
theorem never_refused (s : State) (fn q a k : Nat) (h : pasidOff s fn (s.queue fn q) = false)
    (g : (s.func fn).acsEnable = false) : requestRefused s fn q a k = false := by
  simp [requestRefused, acsBlocks, queueReq, h, g]

/-- A request of the mailbox, with session, epoch and sequence number 0. -/
def request (flags kind idx sub ty pa pb : Nat) (data : Bytes) : Bytes :=
  buildMsg flags kind (28 + data.length) 0 1 0 0 idx sub ty pa pb data

/-- A request of session 1, its tag left at zero. -/
def netRequest (flags kind seq idx sub ty pa pb : Nat) (data : Bytes) : Bytes :=
  buildMsg flags kind (44 + data.length) 1 1 0 seq idx sub ty pa pb data ++ zeros 16

/-- A row of the object dictionary. -/
def row (idx sub : Nat) : ObjRow := (objDesc idx sub).getD ⟨0, 0, 0, 0, 0, 0, 0, .ro, 0, 0, 0, 0, []⟩

/-- A network session 1 of a role, open, with its key in slot 0, and the rest of the dictionary's state as given. -/
def session1 (role : Nat) (x : Session) (s : State) : State :=
  let s := having [(0x1150, 1, [1]), (0x1150, 2, [byteOf role]), (0x1102, 0, List.replicate 64 255#8),
    (0x1106, 0, List.replicate 16 1#8 ++ [64, 0, 0, 0])] s
  { (s.setSession 1 { x with keySlot := some 0 }) with dict := { (s.setSession 1 { x with keySlot := some 0 }).dict with fdpOpen := true } }

/-- A block of equal entries of a table. -/
def block {α : Type} (a n : Nat) (v : α) : Tab α := (List.range' a n).map (fun i => (i, v))

theorem get_block {α : Type} (d v : α) (n : Nat) : ∀ a i, a ≤ i → i < a + n → Tab.get d (block a n v) i = v := by
  induction n with
  | zero => intro a i h g; omega
  | succ n ih =>
    intro a i h g
    rw [block, List.range'_succ]
    by_cases e : a = i
    · simp [Tab.get, e]
    · simpa [Tab.get, e, block] using ih (a + 1) i (by omega) (by omega)

theorem get_past {α : Type} (d : α) (i : Nat) (t : Tab α) : ∀ l : Tab α, (∀ e ∈ l, e.1 ≠ i) → Tab.get d (l ++ t) i = Tab.get d t i
  | [], _ => rfl
  | e :: l, h => by
    rw [List.cons_append, Tab.get, if_neg (h e (by simp))]
    exact get_past d i t l (fun x hx => h x (by simp [hx]))

theorem wf_block {α : Type} [DecidableEq α] {d v : α} (h : v ≠ d) (n : Nat) : ∀ a, Tab.wf d (block a n v) = true := by
  induction n with
  | zero => intro a; rfl
  | succ n ih =>
    intro a
    have e : block a (n + 1) v = (a, v) :: block (a + 1) n v := by simp [block, List.range'_succ]
    rw [e, Tab.wf, ih (a + 1)]
    have g : (block (a + 1) n v).all (fun e => decide (a < e.1)) = true :=
      List.all_eq_true.2 (fun x hx => by
        obtain ⟨j, hj, rfl⟩ := List.mem_map.1 hx
        have := List.mem_range'_1.1 hj
        simp; omega)
    simp [h, g]

theorem wf_join {α : Type} [DecidableEq α] {d : α} {t : Tab α} (ht : Tab.wf d t = true) :
    ∀ l : Tab α, Tab.wf d l = true → (∀ e ∈ l, ∀ x ∈ t, e.1 < x.1) → Tab.wf d (l ++ t) = true
  | [], _, _ => ht
  | e :: l, h, g => by
    simp only [Tab.wf, Bool.and_eq_true, List.all_eq_true, decide_eq_true_eq] at h
    have r := wf_join ht l h.2 (fun x hx => g x (by simp [hx]))
    simp only [List.cons_append, Tab.wf, Bool.and_eq_true, List.all_eq_true, decide_eq_true_eq, List.mem_append]
    exact ⟨⟨h.1.1, fun x hx => hx.elim (h.1.2 x) (g e (by simp) x)⟩, r⟩

/-- An address table whose overflow entries, and one bucket, are in use. -/
def fullFdb : State :=
  let e := { FdbEntry.reset with valid := true, fid := 1, mac := 1, dest := 511 }
  { host with tables := { base.tables with
      data := [(1, 0x0FFF0000), (2, 0x10000)], fdb := block 499660 4 e ++ block 1048576 4096 e } }

theorem fullFdb_ways : ∀ w ∈ [0, 1, 2, 3], tblValid fullFdb 0 (4 * bucketOf fullFdb 0 (fdbKey 4095 0) + w) = true := by
  decide +kernel

theorem fullFdb_overflow (i : Nat) (h : i < 4096) : tblValid fullFdb 0 (1048576 + i) = true := by
  have e : homeFdb fullFdb (1048576 + i) = { FdbEntry.reset with valid := true, fid := 1, mac := 1, dest := 511 } := by
    show Tab.get _ (block 499660 4 _ ++ block 1048576 4096 _) _ = _
    rw [get_past _ _ _ _ (fun e he => by
      obtain ⟨j, hj, rfl⟩ := List.mem_map.1 he
      have := List.mem_range'_1.1 hj
      show j ≠ _
      omega)]
    exact get_block _ _ _ _ _ (by omega) (by omega)
  simp [tblValid, e]

theorem fullFdb_full : freeSlot fullFdb 0 (fdbKey 4095 0) = none := by
  have a : [0, 1, 2, 3].find? (fun w => !tblValid fullFdb 0 (4 * bucketOf fullFdb 0 (fdbKey 4095 0) + w)) = none :=
    List.find?_eq_none.2 (fun w hw => by simp [fullFdb_ways w hw])
  have b : (List.range 4096).find? (fun i => !tblValid fullFdb 0 (1048576 + i)) = none :=
    List.find?_eq_none.2 (fun i hi => by simp [fullFdb_overflow i (List.mem_range.1 hi)])
  unfold freeSlot
  simp only [a]
  rw [show tblSize 0 - 4 * tblBuckets 0 = 4096 by decide, show 4 * tblBuckets 0 = 1048576 by decide, b]
  rfl

theorem fullFdb_canonical : Canonical fullFdb := by
  have e : ({ FdbEntry.reset with valid := true, fid := 1, mac := 1, dest := 511 } : FdbEntry) ≠ FdbEntry.reset := by decide
  have w : Tab.wf FdbEntry.reset fullFdb.tables.fdb = true :=
    wf_join (wf_block e _ _) _ (wf_block e _ _) (fun x hx y hy => by
      obtain ⟨i, hi, rfl⟩ := List.mem_map.1 hx
      obtain ⟨j, hj, rfl⟩ := List.mem_map.1 hy
      have := List.mem_range'_1.1 hi
      have := List.mem_range'_1.1 hj
      show i < j
      omega)
  have c : Canonical { fullFdb with tables := { fullFdb.tables with fdb := [] } } := by
    unfold Canonical MailboxForm DictForm TablesForm FlowForm BufForm SchedForm EndpointForm PoldersForm CipherForm
      SiphonForm JournalForm EventsForm
    decide +kernel
  exact ⟨c.1, c.2.1, c.2.2.1, c.2.2.2.1, ⟨w, c.2.2.2.2.1.2⟩, c.2.2.2.2.2⟩

theorem fullFdb_other : findFdb fullFdb (fdbKey 4095 0) = none := by
  have n : fullFdb.tables.fdb.find? (fun e => e.2.valid && decide (e.2.key = fdbKey 4095 0)) = none :=
    List.find?_eq_none.2 (fun x hx => by
      have e : x.2 = { FdbEntry.reset with valid := true, fid := 1, mac := 1, dest := 511 } := by
        rcases List.mem_append.1 hx with h | h <;> (obtain ⟨i, _, rfl⟩ := List.mem_map.1 h; rfl)
      rw [e]; decide)
  rw [findFdb, n]; rfl
/-! ### Well-formed commands -/

/-- An ill-formed term for each check of a command's operands (spec 00 R13 and each chapter's tables). -/
theorem test_wf_refuses_1 : ([
    .coldStart 0 ⟨(List.replicate 7 0), false⟩, .ddr4TrainingDone 0 2,
    .writeCacheDrainEnd 0 ⟨(List.replicate 7 0), false⟩, .linkUp 0 7 0 false, .linkUp 0 0 17 false, .railFault 0 8,
    .thermalSample 0 (List.replicate 31 0) 0, .thermalSample 0 (List.replicate 32 0) 65536, .flitReceive 20 false,
    .culvertDown 0 20, .culvertRetrain 0 20 false, .replicaResyncDone 4, .frameReceive 0 512 [] false,
    .recircPass 0 16, .contextRequest 0 4, .fetchIssue 4, .fetchComplete 0 4 0 false, .fetchComplete 0 0 65536 false,
    .flowAgerVisit 0 1048576, .frameEnqueue 0 0 (.badFree 196608 0), .frameEnqueue 0 0 (.badFree 0 4096),
    .frameEnqueue 0 0 (.link 36), .frameEnqueue 0 0 (.freeWord 16 0), .frameEnqueue 0 0 (.freeWord 0 196608),
    .frameEnqueue 0 0 (.tag 196608), .injectionFrame 0 512 [], .txSelect 0 512, .frameTxComplete 0 512 .clean,
    .frameTxComplete 0 0 (.badFree 196608 0), .frameTxComplete 0 0 (.badFree 0 4096), .frameTxComplete 0 0 (.link 36),
    .frameTxComplete 0 0 (.freeWord 16 0), .frameTxComplete 0 0 (.freeWord 0 196608),
    .frameTxComplete 0 0 (.tag 196608), .gateEntryChange 0 512, .gateConfigApply 0 512, .hostTxSelect 0 4,
    .rxDeliver 0 4096 ⟨0, .clean⟩, .rxDeliver 0 0 ⟨1024, .clean⟩, .rxDeliver 0 0 ⟨0, (.badFree 196608 0)⟩,
    .rxDeliver 0 0 ⟨0, (.badFree 0 4096)⟩, .rxDeliver 0 0 ⟨0, (.link 36)⟩, .rxDeliver 0 0 ⟨0, (.freeWord 16 0)⟩,
    .rxDeliver 0 0 ⟨0, (.freeWord 0 196608)⟩, .rxDeliver 0 0 ⟨0, (.tag 196608)⟩, .samplePeriodExpiry 0 (.port 512 0),
    .samplePeriodExpiry 0 (.port 0 8), .samplePeriodExpiry 0 (.host 4096 0), .samplePeriodExpiry 0 (.host 0 1024),
    .learn 0 4, .replicaWrite 4 0, .replicaWrite 0 4, .hitNotice 4, .learnFilterExpiry 0 ⟨4, 0⟩,
    .learnFilterExpiry 0 ⟨0, 1152921504606846976⟩, .agerVisit 0 1052672, .flushSweep ⟨0, 4⟩, .flushSweepEnd ⟨0, 4⟩,
    .bankRetire 0 4, .linkStateChange 0 512 .up ⟨0, 0⟩] : List Instr).all (fun c => !c.wf) = true := by
  decide +kernel

/-- An ill-formed term for each check of a command's operands (spec 00 R13 and each chapter's tables). -/
theorem test_wf_refuses_2 : ([
    .linkStateChange 0 0 .up ⟨3, 0⟩, .linkStateChange 0 0 .up ⟨0, 65536⟩, .portRetry 0 512,
    .frrConditionChange 0 512 0 ⟨false, []⟩, .frrConditionChange 0 0 4 ⟨false, []⟩,
    .frrConditionChange 0 0 0 ⟨false, [3]⟩, .frrDebounceExpiry 0 512 [], .frrDebounceExpiry 0 0 [(0, 4)],
    .frrDebounceExpiry 0 0 [(512, 0)], .frrRevertHoldExpiry 0 512, .frerResetTimeout ⟨0, 16384⟩, .ptpMessage 0 512 [],
    .registerWrite 0 4096 0 0 0 0, .registerWrite 0 0 6 0 0 0, .registerWrite 0 0 0 67108864 0 0,
    .registerWrite 0 0 0 0 9 0, .registerWrite 0 0 0 0 0 18446744073709551616,
    .read ⟨0, .net (some 512) (zeros 16) [], true⟩, .write ⟨0, .net (some 512) (zeros 16) [], true⟩,
    .readBlock ⟨0, .net (some 512) (zeros 16) [], true⟩, .writeBlock ⟨0, .net (some 512) (zeros 16) [], true⟩,
    .subscribe ⟨0, .net (some 512) (zeros 16) [], true⟩, .subscriptionTimer 0 65536, .snapshotExpiry 0 65 ⟨0, 0⟩,
    .snapshotExpiry 0 0 ⟨65536, 0⟩, .snapshotExpiry 0 0 ⟨0, 256⟩, .stagingExpiry 0 65 ⟨0, 0⟩,
    .stagingExpiry 0 0 ⟨65536, 0⟩, .stagingExpiry 0 0 ⟨0, 256⟩, .keptResponseExpiry 0 ⟨65, 0⟩,
    .keptResponseExpiry 0 ⟨0, 65536⟩, .tokenExpiry 0 65, .serviceToken ⟨0, .net (some 512) (zeros 16) [], true⟩,
    .keyBlob ⟨0, .net (some 512) (zeros 16) [], true⟩, .storeAll ⟨0, .net (some 512) (zeros 16) [], true⟩,
    .restoreDefaults ⟨0, .net (some 512) (zeros 16) [], true⟩, .unsubscribe ⟨0, .net (some 512) (zeros 16) [], true⟩,
    .timeSet ⟨0, .net (some 512) (zeros 16) [], true⟩, .timeAdjust ⟨0, .net (some 512) (zeros 16) [], true⟩,
    .frrRevert ⟨0, .net (some 512) (zeros 16) [], true⟩, .frerStreamWrite ⟨0, .net (some 512) (zeros 16) [], true⟩,
    .frerStreamRead ⟨0, .net (some 512) (zeros 16) [], true⟩, .ruleWrite ⟨0, .net (some 512) (zeros 16) [], true⟩,
    .ruleRead ⟨0, .net (some 512) (zeros 16) [], true⟩, .ruleClearRange ⟨0, .net (some 512) (zeros 16) [], true⟩,
    .ruleCounterRead ⟨0, .net (some 512) (zeros 16) [], true⟩,
    .ruleCounterClear ⟨0, .net (some 512) (zeros 16) [], true⟩,
    .parseStateWrite ⟨0, .net (some 512) (zeros 16) [], true⟩,
    .transitionWrite ⟨0, .net (some 512) (zeros 16) [], true⟩,
    .keyProfileWrite ⟨0, .net (some 512) (zeros 16) [], true⟩,
    .classMapWrite ⟨0, .net (some 512) (zeros 16) [], true⟩, .programRead ⟨0, .net (some 512) (zeros 16) [], true⟩,
    .bankSwap ⟨0, .net (some 512) (zeros 16) [], true⟩, .tblRead 0 16 false 0, .tblRead 0 0 false 16777216,
    .tblWrite 0 16 false 0, .tblWrite 0 0 false 16777216, .tblDelete 0 16 false 0, .tblDelete 0 0 false 16777216,
    .tblSearch 0 16 false 0] : List Instr).all (fun c => !c.wf) = true := by
  decide +kernel

/-- An ill-formed term for each check of a command's operands (spec 00 R13 and each chapter's tables). -/
theorem test_wf_refuses_3 : ([
    .tblSearch 0 0 false 16777216, .flushByDest 0 16 false 0, .flushByDest 0 0 false 16777216, .ageNow 0 16 false 0,
    .ageNow 0 0 false 16777216, .tableClear ⟨0, .net (some 512) (zeros 16) [], true⟩,
    .vlanWrite ⟨0, .net (some 512) (zeros 16) [], true⟩, .vlanRead ⟨0, .net (some 512) (zeros 16) [], true⟩,
    .groupWrite ⟨0, .net (some 512) (zeros 16) [], true⟩, .groupRead ⟨0, .net (some 512) (zeros 16) [], true⟩,
    .flowWrite ⟨0, .net (some 512) (zeros 16) [], true⟩, .flowRead ⟨0, .net (some 512) (zeros 16) [], true⟩,
    .flowDelete ⟨0, .net (some 512) (zeros 16) [], true⟩, .flowPin ⟨0, .net (some 512) (zeros 16) [], true⟩,
    .flowClear ⟨0, .net (some 512) (zeros 16) [], true⟩, .bufOwnerRead ⟨0, .net (some 512) (zeros 16) [], true⟩,
    .bufPolderOwner ⟨0, .net (some 512) (zeros 16) [], true⟩,
    .bufErrorLatchClear ⟨0, .net (some 512) (zeros 16) [], true⟩,
    .gateConfigChange ⟨0, .net (some 512) (zeros 16) [], true⟩,
    .queueLatencyMax ⟨0, .net (some 512) (zeros 16) [], true⟩, .weirWrite ⟨0, .net (some 512) (zeros 16) [], true⟩,
    .weirRead ⟨0, .net (some 512) (zeros 16) [], true⟩, .weirUnblock ⟨0, .net (some 512) (zeros 16) [], true⟩,
    .weirCounterClear ⟨0, .net (some 512) (zeros 16) [], true⟩,
    .streamFilterWrite ⟨0, .net (some 512) (zeros 16) [], true⟩,
    .streamFilterRead ⟨0, .net (some 512) (zeros 16) [], true⟩,
    .functionStatus ⟨0, .net (some 512) (zeros 16) [], true⟩, .commit ⟨0, .net (some 512) (zeros 16) [], true⟩,
    .adjust ⟨0, .net (some 512) (zeros 16) [], true⟩, .remove ⟨0, .net (some 512) (zeros 16) [], true⟩,
    .polderRemoveComplete 0 4096, .hostOwnerRelease 4096, .polderFaultClear ⟨0, .net (some 512) (zeros 16) [], true⟩,
    .hostGroupWrite ⟨0, .net (some 512) (zeros 16) [], true⟩, .hostGroupRead ⟨0, .net (some 512) (zeros 16) [], true⟩,
    .queueStatusRead ⟨0, .net (some 512) (zeros 16) [], true⟩, .keySlotInfo ⟨0, .net (some 512) (zeros 16) [], true⟩,
    .channelInfo ⟨0, .net (some 512) (zeros 16) [], true⟩, .quiesce ⟨0, .net (some 512) (zeros 16) [], true⟩,
    .cartQuiesced 0 2, .selfTestStart ⟨0, .net (some 512) (zeros 16) [], true⟩,
    .sanitize ⟨0, .net (some 512) (zeros 16) [], true⟩, .namespaceCreate ⟨0, .net (some 512) (zeros 16) [], true⟩,
    .namespaceDelete ⟨0, .net (some 512) (zeros 16) [], true⟩,
    .namespaceRead ⟨0, .net (some 512) (zeros 16) [], true⟩,
    .namespaceAttach ⟨0, .net (some 512) (zeros 16) [], true⟩,
    .namespaceDetach ⟨0, .net (some 512) (zeros 16) [], true⟩,
    .namespaceKeyLoad ⟨0, .net (some 512) (zeros 16) [], true⟩,
    .namespaceFormat ⟨0, .net (some 512) (zeros 16) [], true⟩,
    .firmwareActivate ⟨0, .net (some 512) (zeros 16) [], true⟩, .activationCheck ⟨0, 8⟩,
    .rollbackAdvance ⟨0, .net (some 512) (zeros 16) [], true⟩, .dikeLogClear ⟨0, .net (some 512) (zeros 16) [], true⟩,
    .dikeDmaWindows ⟨0, .net (some 512) (zeros 16) [], true⟩, .dikeHeartbeatTimeout ⟨0, 8, none⟩,
    .dikeHeartbeatTimeout ⟨0, 0, (some (⟨0, .net (some 512) (zeros 16) [], true⟩, true))⟩,
    .eventClear ⟨0, .net (some 512) (zeros 16) [], true⟩, .portEventMapClear ⟨0, .net (some 512) (zeros 16) [], true⟩,
    .deviceCounterRead ⟨0, .net (some 512) (zeros 16) [], true⟩,
    .polderCounterSelect ⟨0, .net (some 512) (zeros 16) [], true⟩] : List Instr).all (fun c => !c.wf) = true := by
  decide +kernel

/-- An ill-formed term for each check of a command's operands (spec 00 R13 and each chapter's tables). -/
theorem test_wf_refuses_4 : ([
    .polderCounterRead ⟨0, .net (some 512) (zeros 16) [], true⟩,
    .selfTestRun ⟨0, .net (some 512) (zeros 16) [], true⟩, .selfTestEnd 0 8 0, .selfTestEnd 0 0 18446744073709551616,
    .dieReturn ⟨0, .net (some 512) (zeros 16) [], true⟩, .dieReturnComplete 0 8,
    .junctionTempMaxClear ⟨0, .net (some 512) (zeros 16) [], true⟩, .configRequest 0 4096 .vendorId none,
    .vfEnable 0 65536, .busMasterDisable 0 4096, .msixEnableWrite 0 4096 false, .msixUnmask 0 4096 0,
    .msixUnmask 0 0 2048, .powerStateWrite 0 4096 0, .powerStateWrite 0 0 4, .flrInitiate 0 4096, .flrDrainCap 0 4096,
    .flrComplete 0 4096, .completionReceive 0 15360 .ok [], .completionTimeout 0 15360, .tagQuarantineEnd 0 15360,
    .translationResponse 0 4096 0 0 none, .translationResponse 0 0 1024 0 none,
    .translationResponse 0 0 0 4503599627370496 none, .prgResponse 0 4096 0 .success, .prgResponse 0 0 1024 .success,
    .pageRequestTimeout 0 4096 0, .pageRequestTimeout 0 0 1024, .priReset 4096, .invalidateRequest 0 4096 0 0 0,
    .invalidateRequest 0 0 32 0 0, .invalidateRequest 0 0 0 2097152 0, .invalidateRequest 0 0 0 0 4503599627370496,
    .invalidateComplete 0 4096 0, .invalidateComplete 0 0 32, .qNop 4096 0, .qNop 0 1024, .qLoad 4096 0 0,
    .qLoad 0 1024 0, .qLoad 0 0 16, .qRead 4096 0 0, .qRead 0 1024 0, .qRead 0 0 16, .qEnable 0 4096 0,
    .qEnable 0 0 1024, .qDisable 0 4096 0, .qDisable 0 0 1024, .qReset 0 4096 0, .qReset 0 0 1024,
    .tailDoorbell 0 4096 0 0, .tailDoorbell 0 0 1024 0, .tailDoorbell 0 0 0 65536, .headDoorbell 0 4096 0 0,
    .headDoorbell 0 0 1024 0, .headDoorbell 0 0 0 65536, .entryFetch 0 4096 0 0 none, .entryFetch 0 0 1024 0 none,
    .entryFetch 0 0 0 33 none, .entryFetch 0 0 0 0 (some [zeros 31]), .chainDone 0 4096 0] : List Instr).all (fun c => !c.wf) = true := by
  decide +kernel

/-- An ill-formed term for each check of a command's operands (spec 00 R13 and each chapter's tables). -/
theorem test_wf_refuses_5 : ([
    .chainDone 0 0 1024, .heldRelease 0 4096 0, .heldRelease 0 0 1024, .modTimeExpiry 0 4096 0,
    .modTimeExpiry 0 0 1024, .txFrame 0 4096 0 none, .txFrame 0 0 1024 none, .rxBuf 0 4096 0, .rxBuf 0 0 1024,
    .gcmEncrypt 0 4096 0 none none, .gcmEncrypt 0 0 1024 none none, .gcmDecrypt 0 4096 0 none none,
    .gcmDecrypt 0 0 1024 none none, .gmacGenerate 0 4096 0 none none, .gmacGenerate 0 0 1024 none none,
    .gmacVerify 0 4096 0 none none, .gmacVerify 0 0 1024 none none, .ctr 0 4096 0 none none, .ctr 0 0 1024 none none,
    .xtsEncrypt 0 4096 0 none none, .xtsEncrypt 0 0 1024 none none, .xtsDecrypt 0 4096 0 none none,
    .xtsDecrypt 0 0 1024 none none, .unwrap 0 4096 0 none, .unwrap 0 0 1024 none, .wrap 0 4096 0 none,
    .wrap 0 0 1024 none, .slotClear 0 4096 0, .slotClear 0 0 1024, .cipherMessageDone 0 256, .cipherCoreFault 0 256,
    .siphonWrite 0 4096 0 none, .siphonWrite 0 0 1024 none, .siphonWriteImm 0 4096 0 none,
    .siphonWriteImm 0 0 1024 none, .siphonRead 0 4096 0 none, .siphonRead 0 0 1024 none, .jcmdSend 0 4096 0 none,
    .jcmdSend 0 0 1024 none, .recvNotify 0 4096 0, .recvNotify 0 0 1024, .channelModify 0 4096 0 none,
    .channelModify 0 0 1024 none, .channelQuery 0 4096 0, .channelQuery 0 0 1024, .regionRegister 0 4096 0 none,
    .regionRegister 0 0 1024 none, .regionRevoke 0 4096 0, .regionRevoke 0 0 1024, .revokeFence 0 4096 0 0,
    .revokeFence 0 0 1024 0, .revokeFence 0 0 0 1048576, .siphonPacketSend 0 65536 none,
    .siphonRxWrite ⟨0, (.badFree 196608 0)⟩, .siphonRxWrite ⟨0, (.badFree 0 4096)⟩, .siphonRxWrite ⟨0, (.link 36)⟩,
    .siphonRxWrite ⟨0, (.freeWord 16 0)⟩, .siphonRxWrite ⟨0, (.freeWord 0 196608)⟩, .siphonRxWrite ⟨0, (.tag 196608)⟩,
    .siphonRxWriteImm ⟨0, (.badFree 196608 0)⟩] : List Instr).all (fun c => !c.wf) = true := by
  decide +kernel

/-- An ill-formed term for each check of a command's operands (spec 00 R13 and each chapter's tables). -/
theorem test_wf_refuses_6 : ([
    .siphonRxWriteImm ⟨0, (.badFree 0 4096)⟩, .siphonRxWriteImm ⟨0, (.link 36)⟩,
    .siphonRxWriteImm ⟨0, (.freeWord 16 0)⟩, .siphonRxWriteImm ⟨0, (.freeWord 0 196608)⟩,
    .siphonRxWriteImm ⟨0, (.tag 196608)⟩, .siphonRxReadReq ⟨0, (.badFree 196608 0)⟩,
    .siphonRxReadReq ⟨0, (.badFree 0 4096)⟩, .siphonRxReadReq ⟨0, (.link 36)⟩, .siphonRxReadReq ⟨0, (.freeWord 16 0)⟩,
    .siphonRxReadReq ⟨0, (.freeWord 0 196608)⟩, .siphonRxReadReq ⟨0, (.tag 196608)⟩,
    .siphonRxReadResp ⟨0, (.badFree 196608 0)⟩, .siphonRxReadResp ⟨0, (.badFree 0 4096)⟩,
    .siphonRxReadResp ⟨0, (.link 36)⟩, .siphonRxReadResp ⟨0, (.freeWord 16 0)⟩,
    .siphonRxReadResp ⟨0, (.freeWord 0 196608)⟩, .siphonRxReadResp ⟨0, (.tag 196608)⟩,
    .siphonRxAck ⟨0, (.badFree 196608 0)⟩, .siphonRxAck ⟨0, (.badFree 0 4096)⟩, .siphonRxAck ⟨0, (.link 36)⟩,
    .siphonRxAck ⟨0, (.freeWord 16 0)⟩, .siphonRxAck ⟨0, (.freeWord 0 196608)⟩, .siphonRxAck ⟨0, (.tag 196608)⟩,
    .siphonRxNak ⟨0, (.badFree 196608 0)⟩, .siphonRxNak ⟨0, (.badFree 0 4096)⟩, .siphonRxNak ⟨0, (.link 36)⟩,
    .siphonRxNak ⟨0, (.freeWord 16 0)⟩, .siphonRxNak ⟨0, (.freeWord 0 196608)⟩, .siphonRxNak ⟨0, (.tag 196608)⟩,
    .siphonRxCnp ⟨0, (.badFree 196608 0)⟩, .siphonRxCnp ⟨0, (.badFree 0 4096)⟩, .siphonRxCnp ⟨0, (.link 36)⟩,
    .siphonRxCnp ⟨0, (.freeWord 16 0)⟩, .siphonRxCnp ⟨0, (.freeWord 0 196608)⟩, .siphonRxCnp ⟨0, (.tag 196608)⟩,
    .siphonRxJcmd ⟨0, (.badFree 196608 0)⟩, .siphonRxJcmd ⟨0, (.badFree 0 4096)⟩, .siphonRxJcmd ⟨0, (.link 36)⟩,
    .siphonRxJcmd ⟨0, (.freeWord 16 0)⟩, .siphonRxJcmd ⟨0, (.freeWord 0 196608)⟩, .siphonRxJcmd ⟨0, (.tag 196608)⟩,
    .siphonRxXferRdy ⟨0, (.badFree 196608 0)⟩, .siphonRxXferRdy ⟨0, (.badFree 0 4096)⟩,
    .siphonRxXferRdy ⟨0, (.link 36)⟩, .siphonRxXferRdy ⟨0, (.freeWord 16 0)⟩,
    .siphonRxXferRdy ⟨0, (.freeWord 0 196608)⟩, .siphonRxXferRdy ⟨0, (.tag 196608)⟩,
    .siphonRxJrsp ⟨0, (.badFree 196608 0)⟩, .siphonRxJrsp ⟨0, (.badFree 0 4096)⟩, .siphonRxJrsp ⟨0, (.link 36)⟩,
    .siphonRxJrsp ⟨0, (.freeWord 16 0)⟩, .siphonRxJrsp ⟨0, (.freeWord 0 196608)⟩, .siphonRxJrsp ⟨0, (.tag 196608)⟩,
    .siphonAckDelay 0 65536, .siphonRtoExpiry 0 65536, .siphonPathHold 0 65536 0, .siphonPathHold 0 0 8,
    .siphonCnpInterval 0 65536, .siphonStepTimer 0 65536 0, .siphonStepTimer 0 0 8] : List Instr).all (fun c => !c.wf) = true := by
  decide +kernel

/-- An ill-formed term for each check of a command's operands (spec 00 R13 and each chapter's tables). -/
theorem test_wf_refuses_7 : ([
    .xferGrant 0 65536 0, .xferGrant 0 0 4294967296, .siphonXferTimeout 0 65536 0, .siphonXferTimeout 0 0 4294967296,
    .journalRead 0 (.queue 4096 0) [], .journalRead 0 (.queue 0 1024) [], .journalRead 0 (.capsule 65536 0) [],
    .journalRead 0 (.capsule 0 4294967296) [], .journalWrite 0 (.queue 4096 0) none,
    .journalWrite 0 (.queue 0 1024) none, .journalWrite 0 (.capsule 65536 0) none,
    .journalWrite 0 (.capsule 0 4294967296) none, .journalFlush 0 (.queue 4096 0), .journalFlush 0 (.queue 0 1024),
    .journalFlush 0 (.capsule 65536 0), .journalFlush 0 (.capsule 0 4294967296), .deallocate 0 (.queue 4096 0),
    .deallocate 0 (.queue 0 1024), .deallocate 0 (.capsule 65536 0), .deallocate 0 (.capsule 0 4294967296),
    .identify 0 (.queue 4096 0), .identify 0 (.queue 0 1024), .identify 0 (.capsule 65536 0),
    .identify 0 (.capsule 0 4294967296), .logRead 0 (.queue 4096 0), .logRead 0 (.queue 0 1024),
    .logRead 0 (.capsule 65536 0), .logRead 0 (.capsule 0 4294967296), .journalSelfTest 0 (.queue 4096 0),
    .journalSelfTest 0 (.queue 0 1024), .journalSelfTest 0 (.capsule 65536 0),
    .journalSelfTest 0 (.capsule 0 4294967296), .journalSanitize 0 (.queue 4096 0),
    .journalSanitize 0 (.queue 0 1024), .journalSanitize 0 (.capsule 65536 0),
    .journalSanitize 0 (.capsule 0 4294967296), .journalFormat 0 (.queue 4096 0), .journalFormat 0 (.queue 0 1024),
    .journalFormat 0 (.capsule 65536 0), .journalFormat 0 (.capsule 0 4294967296), .unitDrain 0 ⟨2, 0, 0, false⟩,
    .rebuildDone 0 2, .cartSelfTestResume 0 2, .cartSelfTestDone 0 2 false ⟨0, false⟩,
    .cartSelfTestDone 0 0 false ⟨4294967296, false⟩, .sanitizeComplete 0 2, .formatComplete 0 4096,
    .cartPresentDebounce 0 2, .cartLinkTrained 0 2 [] [], .cartLinkTimeout 0 2, .cartOnline 0 2 none,
    .cartRemoval 0 ⟨2, false⟩, .evtStatWrite 0 16 0 0, .evtMaskWrite 0 16 0, .evtVectorWrite 0 16 0,
    .evtTestWrite 0 16 0, .ctrSelWrite 0 256 0, .ctrLoRead 0 256, .ctrValueWrite 0 256 false 0, .ctrOvfClear 0 8 0 0] : List Instr).all (fun c => !c.wf) = true := by
  decide +kernel

/-- An ill-formed term for each check of a command's operands (spec 00 R13 and each chapter's tables). -/
theorem test_wf_refuses_8 : ([
    .pageOvfClear 0 4096 0 0, .writeBackReachesDdr4 4, .cartPrsntNFall 0 2, .read ⟨0, .net none (zeros 15) [], true⟩] : List Instr).all (fun c => !c.wf) = true := by
  decide +kernel

/-- The same commands with operands that pass. -/
theorem test_wf_takes_1 : ([
    .coldStart 0 ⟨(List.replicate 8 0), false⟩, .ddr4TrainingDone 0 0, .pf0Ready 0, .fieldInService 0, .allReady 0,
    .perstNAssert 0, .perstNRelease ⟨0, false⟩, .fullResetMark 0, .writeCacheDrainEnd 0 ⟨(List.replicate 8 0), false⟩,
    .hotReset 0, .linkDown 0, .linkUp 0 0 0 false, .acFailFall 0, .emergencyDrainDone ⟨0, false⟩, .acFailRise 0,
    .railFault 0 0, .refclkLoss 0, .thermalSample 0 (List.replicate 32 0) 0, .thermtrip 0, .flitReceive 0 false,
    .culvertDown 0 0, .culvertRetrain 0 0 false, .replicaResyncDone 0, .frameReceive 0 0 [] false, .recircPass 0 0,
    .contextRequest 0 0, .fetchIssue 0, .fetchComplete 0 0 0 false, .flowAgerVisit 0 0, .frameEnqueue 0 0 .clean,
    .injectionFrame 0 0 [], .txSelect 0 0, .frameTxComplete 0 0 .clean, .gateEntryChange 0 0, .gateConfigApply 0 0,
    .hostTxSelect 0 0, .rxDeliver 0 0 ⟨0, .clean⟩, .samplePeriodExpiry 0 (.port 0 0), .learn 0 0, .replicaWrite 0 0,
    .hitNotice 0, .learnFilterExpiry 0 ⟨0, 0⟩, .agerVisit 0 0, .flushSweep ⟨0, 0⟩, .flushSweepEnd ⟨0, 0⟩,
    .bankRetire 0 0, .linkStateChange 0 0 .up ⟨0, 0⟩, .portRetry 0 0, .frrConditionChange 0 0 0 ⟨false, []⟩,
    .frrDebounceExpiry 0 0 [], .frrRevertHoldExpiry 0 0, .frerResetTimeout ⟨0, 0⟩, .timeSourceLost 0,
    .ptpMessage 0 0 [], .ppsInEdge 0 false, .ppsOutRise 0, .ppsOutFall 0, .mbxGo 0 0, .registerWrite 0 0 0 0 0 0,
    .read ⟨0, .mailbox, true⟩] : List Instr).all Instr.wf = true := by
  decide +kernel

/-- The same commands with operands that pass. -/
theorem test_wf_takes_2 : ([
    .write ⟨0, .mailbox, true⟩, .readBlock ⟨0, .mailbox, true⟩, .writeBlock ⟨0, .mailbox, true⟩,
    .subscribe ⟨0, .mailbox, true⟩, .subscriptionTimer 0 0, .snapshotExpiry 0 0 ⟨0, 0⟩, .stagingExpiry 0 0 ⟨0, 0⟩,
    .keptResponseExpiry 0 ⟨0, 0⟩, .tokenExpiry 0 0, .serviceToken ⟨0, .mailbox, true⟩, .keyBlob ⟨0, .mailbox, true⟩,
    .storeAll ⟨0, .mailbox, true⟩, .storeAllComplete 0 false, .restoreDefaults ⟨0, .mailbox, true⟩,
    .unsubscribe ⟨0, .mailbox, true⟩, .timeSet ⟨0, .mailbox, true⟩, .timeAdjust ⟨0, .mailbox, true⟩,
    .frrRevert ⟨0, .mailbox, true⟩, .frerStreamWrite ⟨0, .mailbox, true⟩, .frerStreamRead ⟨0, .mailbox, true⟩,
    .ruleWrite ⟨0, .mailbox, true⟩, .ruleRead ⟨0, .mailbox, true⟩, .ruleClearRange ⟨0, .mailbox, true⟩,
    .ruleCounterRead ⟨0, .mailbox, true⟩, .ruleCounterClear ⟨0, .mailbox, true⟩, .parseStateWrite ⟨0, .mailbox, true⟩,
    .transitionWrite ⟨0, .mailbox, true⟩, .keyProfileWrite ⟨0, .mailbox, true⟩, .classMapWrite ⟨0, .mailbox, true⟩,
    .programRead ⟨0, .mailbox, true⟩, .bankSwap ⟨0, .mailbox, true⟩, .tblRead 0 0 false 0, .tblWrite 0 0 false 0,
    .tblDelete 0 0 false 0, .tblSearch 0 0 false 0, .flushByDest 0 0 false 0, .ageNow 0 0 false 0,
    .tableClear ⟨0, .mailbox, true⟩, .vlanWrite ⟨0, .mailbox, true⟩, .vlanRead ⟨0, .mailbox, true⟩,
    .groupWrite ⟨0, .mailbox, true⟩, .groupRead ⟨0, .mailbox, true⟩, .flowWrite ⟨0, .mailbox, true⟩,
    .flowRead ⟨0, .mailbox, true⟩, .flowDelete ⟨0, .mailbox, true⟩, .flowPin ⟨0, .mailbox, true⟩,
    .flowClear ⟨0, .mailbox, true⟩, .flowClearComplete 0, .bufOwnerRead ⟨0, .mailbox, true⟩,
    .bufPolderOwner ⟨0, .mailbox, true⟩, .bufErrorLatchClear ⟨0, .mailbox, true⟩,
    .gateConfigChange ⟨0, .mailbox, true⟩, .queueLatencyMax ⟨0, .mailbox, true⟩, .weirWrite ⟨0, .mailbox, true⟩,
    .weirRead ⟨0, .mailbox, true⟩, .weirUnblock ⟨0, .mailbox, true⟩, .weirCounterClear ⟨0, .mailbox, true⟩,
    .streamFilterWrite ⟨0, .mailbox, true⟩, .streamFilterRead ⟨0, .mailbox, true⟩, .functionStatus ⟨0, .mailbox, true⟩] : List Instr).all Instr.wf = true := by
  decide +kernel

/-- The same commands with operands that pass. -/
theorem test_wf_takes_3 : ([
    .commit ⟨0, .mailbox, true⟩, .adjust ⟨0, .mailbox, true⟩, .remove ⟨0, .mailbox, true⟩, .polderRemoveComplete 0 0,
    .hostOwnerRelease 0, .polderFaultClear ⟨0, .mailbox, true⟩, .hostGroupWrite ⟨0, .mailbox, true⟩,
    .hostGroupRead ⟨0, .mailbox, true⟩, .queueStatusRead ⟨0, .mailbox, true⟩, .keySlotInfo ⟨0, .mailbox, true⟩,
    .channelInfo ⟨0, .mailbox, true⟩, .quiesce ⟨0, .mailbox, true⟩, .cartQuiesced 0 0,
    .selfTestStart ⟨0, .mailbox, true⟩, .sanitize ⟨0, .mailbox, true⟩, .namespaceCreate ⟨0, .mailbox, true⟩,
    .namespaceDelete ⟨0, .mailbox, true⟩, .namespaceRead ⟨0, .mailbox, true⟩, .namespaceAttach ⟨0, .mailbox, true⟩,
    .namespaceDetach ⟨0, .mailbox, true⟩, .namespaceKeyLoad ⟨0, .mailbox, true⟩, .namespaceFormat ⟨0, .mailbox, true⟩,
    .firmwareActivate ⟨0, .mailbox, true⟩, .activationCheck ⟨0, 0⟩, .activationComplete ⟨0, false⟩,
    .activationTimeout 0, .rollbackAdvance ⟨0, .mailbox, true⟩, .dikeLogClear ⟨0, .mailbox, true⟩,
    .dikeDmaWindows ⟨0, .mailbox, true⟩, .heartbeat 0, .dikeHeartbeatTimeout ⟨0, 0, none⟩, .coreRestartComplete 0,
    .eventClear ⟨0, .mailbox, true⟩, .portEventMapClear ⟨0, .mailbox, true⟩, .deviceCounterRead ⟨0, .mailbox, true⟩,
    .polderCounterSelect ⟨0, .mailbox, true⟩, .polderCounterRead ⟨0, .mailbox, true⟩,
    .selfTestRun ⟨0, .mailbox, true⟩, .selfTestEnd 0 0 0, .dieReturn ⟨0, .mailbox, true⟩, .dieReturnComplete 0 0,
    .junctionTempMaxClear ⟨0, .mailbox, true⟩, .configRequest 0 0 .vendorId none, .vfEnable 0 0,
    .busMasterDisable 0 0, .interruptDisableWrite 0 false, .msixEnableWrite 0 0 false, .msixUnmask 0 0 0,
    .powerStateWrite 0 0 0, .flrInitiate 0 0, .flrDrainCap 0 0, .flrComplete 0 0, .completionReceive 0 0 .ok [],
    .completionTimeout 0 0, .tagQuarantineEnd 0 0, .translationResponse 0 0 0 0 none, .prgResponse 0 0 0 .success,
    .pageRequestTimeout 0 0 0, .priReset 0, .invalidateRequest 0 0 0 0 0] : List Instr).all Instr.wf = true := by
  decide +kernel

/-- The same commands with operands that pass. -/
theorem test_wf_takes_4 : ([
    .invalidateComplete 0 0 0, .qNop 0 0, .qLoad 0 0 0, .qRead 0 0 0, .qEnable 0 0 0, .qDisable 0 0 0, .qReset 0 0 0,
    .tailDoorbell 0 0 0 0, .headDoorbell 0 0 0 0, .entryFetch 0 0 0 0 none, .chainDone 0 0 0, .heldRelease 0 0 0,
    .modTimeExpiry 0 0 0, .txFrame 0 0 0 none, .rxBuf 0 0 0, .gcmEncrypt 0 0 0 none none, .gcmDecrypt 0 0 0 none none,
    .gmacGenerate 0 0 0 none none, .gmacVerify 0 0 0 none none, .ctr 0 0 0 none none, .xtsEncrypt 0 0 0 none none,
    .xtsDecrypt 0 0 0 none none, .unwrap 0 0 0 none, .wrap 0 0 0 none, .slotClear 0 0 0, .cipherDispatch 0,
    .cipherMessageDone 0 0, .cipherCoreFault 0 0, .siphonWrite 0 0 0 none, .siphonWriteImm 0 0 0 none,
    .siphonRead 0 0 0 none, .jcmdSend 0 0 0 none, .recvNotify 0 0 0, .channelModify 0 0 0 none, .channelQuery 0 0 0,
    .regionRegister 0 0 0 none, .regionRevoke 0 0 0, .revokeFence 0 0 0 0, .siphonPacketSend 0 0 none,
    .siphonRxWrite ⟨0, .clean⟩, .siphonRxWriteImm ⟨0, .clean⟩, .siphonRxReadReq ⟨0, .clean⟩,
    .siphonRxReadResp ⟨0, .clean⟩, .siphonRxAck ⟨0, .clean⟩, .siphonRxNak ⟨0, .clean⟩, .siphonRxCnp ⟨0, .clean⟩,
    .siphonRxJcmd ⟨0, .clean⟩, .siphonRxXferRdy ⟨0, .clean⟩, .siphonRxJrsp ⟨0, .clean⟩, .siphonAckDelay 0 0,
    .siphonRtoExpiry 0 0, .siphonPathHold 0 0 0, .siphonCnpInterval 0 0, .siphonStepTimer 0 0 0, .xferGrant 0 0 0,
    .siphonXferTimeout 0 0 0, .journalRead 0 (.queue 0 0) [], .journalWrite 0 (.queue 0 0) none,
    .journalFlush 0 (.queue 0 0), .deallocate 0 (.queue 0 0)] : List Instr).all Instr.wf = true := by
  decide +kernel

/-- The same commands with operands that pass. -/
theorem test_wf_takes_5 : ([
    .identify 0 (.queue 0 0), .logRead 0 (.queue 0 0), .journalSelfTest 0 (.queue 0 0),
    .journalSanitize 0 (.queue 0 0), .journalFormat 0 (.queue 0 0), .unitAccept 0 0, .unitDrain 0 ⟨0, 0, 0, false⟩,
    .rebuildDone 0 0, .cartSelfTestResume 0 0, .cartSelfTestDone 0 0 false ⟨0, false⟩, .sanitizeComplete 0 0,
    .formatComplete 0 0, .cartPresentDebounce 0 0, .cartLinkTrained 0 0 [] [], .cartLinkTimeout 0 0,
    .cartOnline 0 0 none, .cartRemoval 0 ⟨0, false⟩, .evtStatWrite 0 0 0 0, .evtMaskWrite 0 0 0,
    .evtVectorWrite 0 0 0, .evtTestWrite 0 0 0, .ctrSelWrite 0 0 0, .ctrLoRead 0 0, .ctrValueWrite 0 0 false 0,
    .ctrOvfClear 0 0 0 0, .clearAll 0, .freezeAll 0 false, .pageOvfClear 0 0 0 0, .smbusJunctionTemp, .smbusStatus,
    .smbusPowerEstimate, .smbusJunctionTempFine, .smbusStepping, .extest, .samplePreload [], .idcode, .bypass 0,
    .clamp, .highz, .extestPulse, .extestTrain, .tblCommandComplete 0, .writeBackReachesDdr4 0, .acFailNHigh 0,
    .cartPrsntNFall 0 0] : List Instr).all Instr.wf = true := by
  decide +kernel

/-! ### One step each, with the values of the spec's worked examples and test vectors -/

/-- The state a command answers. -/
def after (c : Instr) (s : State) : State :=
  match exec c s with
  | .next u => u
  | _ => base

/-- 04 "Test vector": the hash of the camera's addresses and ports under the test key. -/
theorem test_hash : toeplitz ((List.replicate 10 [0, 0, 0, 1]).flatten)
    [0x0A, 3, 0, 5, 0x0A, 3, 0x11, 0x28, 0x0F, 0xA0, 0xC3, 0x50] = 0xBE4B05F0 := by decide +kernel

/-- The test key as TableHashKey. -/
def keyed : State := having [(0x2900, 5, (List.replicate 10 [0, 0, 0, 1]).flatten)] base

/-- 05 R180 for MAC 02:1A:C3:00:4D:21 in FID 100 under the test key: the bit reversal of 0xC364_4F3B, so FD3 and bucket
140,995 (the table of 05 gives 140,860: log entry 106). -/
theorem test_bucket : tblHash keyed (fdbKey 100 0x021AC3004D21) = 0xDCF226C3 ∧ homeOf keyed (fdbKey 100 0x021AC3004D21) = 3
    ∧ bucketOf keyed 0 (fdbKey 100 0x021AC3004D21) = 140995 := by decide +kernel

/-- The learn of 05's worked example: installed in the first way of its bucket with destination 5. -/
theorem test_learn : (homeFdb (after (.learn 0 3) { keyed with tables := { base.tables with
    learnQ := [(3, [{ fid := 100, mac := 0x021AC3004D21, port := 5 }])] } }) 563980).dest = 5 := by decide +kernel

/-- 03 R131's worked example: rcv 65,530, history 32. -/
def follows : State := base.setFrer 7 { Frer.reset with mode := 2, history := 32, rcv := 65530, window := 1, takeAny := false }

theorem test_recovery_ahead : (frerRecover 7 (some 4) follows).1 = true ∧ ((frerRecover 7 (some 4) follows).2.frerAt 7).rcv = 4 := by
  decide +kernel

theorem test_recovery_repeat : (frerRecover 7 (some 4) (frerRecover 7 (some 4) follows).2).1 = false := by decide +kernel

theorem test_recovery_rogue : Tab.get 0 ((frerRecover 7 (some 65500) (frerRecover 7 (some 4) follows).2).2.frerAt 7).ctr 3 = 1 := by
  decide +kernel

/-- 02's worked example: with H = 105, sequence 41 lies outside the window. -/
theorem test_window : windowOk { Session.reset with rxHigh := 105 } 41 = false
    ∧ windowOk { Session.reset with rxHigh := 105 } 42 = true ∧ windowOk { Session.reset with rxHigh := 105 } 106 = true := by
  decide +kernel

/-- 08's worked example of the weighted queues of P300: 1,020 bytes at weights 1 and 3. -/
theorem test_stamp : wfqStamp 0 0 false 1020 1 = (0, 66846720) ∧ wfqStamp 0 22282240 true 1020 3 = (22282240, 44564480) := by
  decide +kernel

/-- Equal finish times: the higher traffic class, which the list gives first. -/
theorem test_select : smallestF [(1, 66846720), (0, 66846720)] = some 1 ∧ smallestF [(1, 44564480), (0, 66846720)] = some 1 := by
  decide +kernel

/-- 16's worked example: in the clock of a clear, the set wins. -/
theorem test_set_wins : evtStat (after (.evtStatWrite 0 3 2 2) { host with evt := { host.evt with stat := [(3, 2)] } }) 3 = 2
    ∧ evtStat (after (.evtStatWrite 0 3 2 0) { host with evt := { host.evt with stat := [(3, 2)] } }) 3 = 0 := by decide +kernel

/-- 16's worked example: CTR_SEL 17 as 0x11A0_5101 counts RxOctets of P416. -/
theorem test_select_counter : (devCtr (after (.ctrSelWrite 0 17 0x11A05101) host) 17).sel = 0x11A05101 := by decide +kernel

/-- 01's worked example: P417 is on FD3. -/
theorem test_die : dieOf 417 = 3 ∧ dieOf 40 = 0 ∧ pipeOf 300 = 9 := by decide

/-- 02 Table 2.5: a GO whose length is below 28 is ignored and counted. -/
theorem test_go_short : (after (.mbxGo 0 0x1B0001) host).mbx.ignCnt = 1 ∧ (after (.mbxGo 0 0x1B0001) host).mbx.busy = false := by
  decide +kernel

/-- 17 R572: IDCODE. -/
theorem test_idcode : (after .idcode base).out = [.tap [0x6B, 0x2E, 0x51, 0x1A]] := by decide +kernel

/-! ### The tag of a network message -/

theorem length_tag (k iv a t : Bytes) : (Config.gcmEncrypt k iv a t).2.length = 16 := by
  simp only [Config.gcmEncrypt, padTo, List.length_append, List.length_take, length_zeros]
  omega

/-- A request of session 1 without its tag. -/
def untagged : Bytes := buildMsg 0 1 44 1 1 0 1 0x2801 1 0 0 0 []

theorem parse_tagged : ∀ t : Bytes, t.length = 16 → parseMsg (untagged ++ t) 16 = parseMsg (untagged ++ zeros 16) 16
  | [_, _, _, _, _, _, _, _, _, _, _, _, _, _, _, _], _ => rfl

/-- Some message meets every check of a READ and carries the right tag. -/
theorem test_NetTag_met : ∃ b s, Canonical s ∧ NetAsks s 0 (some 511) (zeros 16) b 1 ∧ NetFresh s b ∧ NetTag s b := by
  let s := session1 3 Session.reset base
  let t := fdpTag (sessionKey s (s.session 1)) 0 1 1 0 untagged
  have h : t.length = 16 := length_tag _ _ _ _
  have p : parseMsg (untagged ++ t) 16 = parseMsg (untagged ++ zeros 16) 16 := parse_tagged t h
  have n : (untagged ++ t).length = 44 := by rw [List.length_append, h]; decide
  have c : Canonical s := by
    unfold Canonical MailboxForm DictForm TablesForm FlowForm BufForm SchedForm EndpointForm PoldersForm CipherForm
      SiphonForm JournalForm EventsForm
    decide +kernel
  refine ⟨untagged ++ t, s, c, ?_, ?_, ?_⟩
  · unfold NetAsks
    rw [p, n]
    decide +kernel
  · unfold NetFresh
    rw [p]
    decide +kernel
  · unfold NetTag
    rw [p, n, show 44 - 16 = untagged.length by decide, List.take_left, List.drop_left]
    rfl

/-! ### Witnesses of the statements -/

/-- The hypotheses of `Obligations.ClassifierWrites` are met. -/
theorem test_ClassifierWrites_met :
    (Meets 0x2810 0 (fun d s => byteAt d 0 ≤ 1 ∧ bankStatus s (byteAt d 0) ≠ 2 ∧ byteAt d 1 ≤ 1 ∧ beField d 2 2 ≤ 16383 ∧ badActionRecord (slice d 132 32) = false))
    ∧ (Meets 0x2812 0 (fun d s => byteAt d 0 ≤ 1 ∧ bankStatus s (byteAt d 0) ≠ 2 ∧ byteAt d 1 = 0 ∧ 1 ≤ beField d 4 2 ∧ beField d 2 2 + beField d 4 2 ≤ 16384))
    ∧ (Meets 0x2820 0 (fun d s => byteAt d 0 ≤ 1 ∧ bankStatus s (byteAt d 0) = 0 ∧ 16 ≤ byteAt d 1 ∧ byteAt d 1 ≤ 47 ∧ badStateRecord (slice d 2 32) = false))
    ∧ (Meets 0x2821 0 (fun d s => byteAt d 0 ≤ 1 ∧ bankStatus s (byteAt d 0) = 0 ∧ choosesNext (byteAt d 2) = true ∧ 16 ≤ byteAt d 3 ∧ byteAt d 3 ≤ 47 ∧ byteAt d 8 ≤ 1 ∧ byteAt d 9 = 0))
    ∧ (Meets 0x2822 0 (fun d s => byteAt d 0 ≤ 1 ∧ bankStatus s (byteAt d 0) = 0 ∧ byteAt d 1 ≤ 15 ∧ ∀ x ∈ selectors (d.drop 2), x ≤ 511 ∨ x = 0xFFFF)) :=
  ⟨⟨0, (asks 0x2810 0 (zeros 164) (base)), (ask 0x2810 0 (zeros 164)), by unfold Asks; decide +kernel⟩,
   ⟨0, (asks 0x2812 0 [0, 0, 0x3F, 0xFF, 0, 1] (base)), (ask 0x2812 0 [0, 0, 0x3F, 0xFF, 0, 1]), by unfold Asks; decide +kernel⟩,
   ⟨0, (asks 0x2820 0 ([1, 47] ++ zeros 8 ++ [1] ++ zeros 23) (base)), (ask 0x2820 0 ([1, 47] ++ zeros 8 ++ [1] ++ zeros 23)), by unfold Asks; decide +kernel⟩,
   ⟨0, (asks 0x2821 0 ([1, 255, 16, 47, 0, 0, 0, 0, 1, 0]) (base)), (ask 0x2821 0 ([1, 255, 16, 47, 0, 0, 0, 0, 1, 0])), by unfold Asks; decide +kernel⟩,
   ⟨0, (asks 0x2822 0 ([1, 15] ++ List.replicate 126 255#8) (base)), (ask 0x2822 0 ([1, 15] ++ List.replicate 126 255#8)), by unfold Asks; decide +kernel⟩⟩

/-- Further clauses of `Obligations.ClassifierWrites`. -/
theorem test_ClassifierWrites_met_2 :
    (Meets 0x2823 0 (fun d s => byteAt d 0 ≤ 1 ∧ bankStatus s (byteAt d 0) = 0 ∧ byteAt d 1 = 0 ∧ ∀ x ∈ d.drop 2, x.toNat ≤ 15))
    ∧ (Meets 0x2800 4 (fun d s => beNat d ≤ 1 ∧ bankStatus s (beNat d) = 0)) :=
  ⟨⟨0, (asks 0x2823 0 ([1, 0] ++ List.replicate 256 15#8) (base)), (ask 0x2823 0 ([1, 0] ++ List.replicate 256 15#8)), by unfold Asks; decide +kernel⟩,
   ⟨0, (asks 0x2800 4 [1] (base)), (ask 0x2800 4 [1]), by unfold Asks; decide +kernel⟩⟩

/-- The hypotheses of `Obligations.ClassifierReads` are met. -/
theorem test_ClassifierReads_met :
    (Meets 0x2811 0 (fun d _ => byteAt d 0 ≤ 1 ∧ byteAt d 1 = 0 ∧ beField d 2 2 ≤ 16383))
    ∧ (Meets 0x2813 0 (fun d _ => beNat d ≤ 4095))
    ∧ (Meets 0x2824 0 (fun d _ => byteAt d 0 ≤ 1 ∧ byteAt d 1 ≤ 3 ∧ (byteAt d 1 = 0 → 16 ≤ beField d 2 2 ∧ beField d 2 2 ≤ 47) ∧ (byteAt d 1 = 1 → beField d 2 2 ≤ 255) ∧ (byteAt d 1 = 2 → beField d 2 2 ≤ 15)))
    ∧ (Meets 0x2814 0 (fun d _ => beNat d ≤ 4095)) :=
  ⟨⟨0, (asks 0x2811 0 [1, 0, 0x3F, 0xFF] (base)), (ask 0x2811 0 [1, 0, 0x3F, 0xFF]), by unfold Asks; decide +kernel⟩,
   ⟨0, (asks 0x2813 0 [0x0F, 0xFF] (base)), (ask 0x2813 0 [0x0F, 0xFF]), by unfold Asks; decide +kernel⟩,
   ⟨0, (asks 0x2824 0 [1, 0, 0, 47] (base)), (ask 0x2824 0 [1, 0, 0, 47]), by unfold Asks; decide +kernel⟩,
   ⟨0, (asks 0x2814 0 [0x0F, 0xFF] (base)), (ask 0x2814 0 [0x0F, 0xFF]), by unfold Asks; decide +kernel⟩⟩

/-- The hypotheses of `Obligations.TableActions` are met. -/
theorem test_TableActions_met :
    (Meets 0x2910 0 (fun d s => 1 ≤ beField d 0 2 ∧ beField d 0 2 ≤ 4094 ∧ beField d 2 2 ≤ 4095 ∧ byteAt d 4 ≤ 3 ∧ byteAt d 5 = 0 ∧ badMembers s (slice d 6 64) = false))
    ∧ (Meets 0x2911 0 (fun d _ => 1 ≤ beNat d ∧ beNat d ≤ 4094))
    ∧ (Meets 0x2912 0 (fun d s => 512 ≤ beField d 0 2 ∧ beField d 0 2 ≤ 4095 ∧ badMembers s (slice d 2 64) = false))
    ∧ (Meets 0x2913 0 (fun d _ => 512 ≤ beNat d ∧ beNat d ≤ 4095))
    ∧ (Meets 0x2900 6 (fun d _ => beNat d ≤ 1)) :=
  ⟨⟨0, (asks 0x2910 0 ([0x0F, 0xFE, 0x0F, 0xFF, 3, 0] ++ zeros 128) (base)), (ask 0x2910 0 ([0x0F, 0xFE, 0x0F, 0xFF, 3, 0] ++ zeros 128)), by unfold Asks; decide +kernel⟩,
   ⟨0, (asks 0x2911 0 [0x0F, 0xFE] (base)), (ask 0x2911 0 [0x0F, 0xFE]), by unfold Asks; decide +kernel⟩,
   ⟨0, (asks 0x2912 0 ([0x0F, 0xFF] ++ zeros 64) (base)), (ask 0x2912 0 ([0x0F, 0xFF] ++ zeros 64)), by unfold Asks; decide +kernel⟩,
   ⟨0, (asks 0x2913 0 [2, 0] (base)), (ask 0x2913 0 [2, 0]), by unfold Asks; decide +kernel⟩,
   ⟨0, (asks 0x2900 6 [1] (base)), (ask 0x2900 6 [1]), by unfold Asks; decide +kernel⟩⟩

/-- The hypotheses of `Obligations.FrerStreams` are met. -/
theorem test_FrerStreams_met :
    (Meets 0x2780 0 (fun d s => beField d 0 2 ≤ 16383 ∧ byteAt d 2 ≤ 2 ∧ (byteAt d 2 ≠ 0 → beField d 3 2 ≤ 511 ∧ portExists s (beField d 3 2) = true) ∧ 2 ≤ byteAt d 5 ∧ byteAt d 5 ≤ 64 ∧ 1 ≤ beField d 6 2 ∧ beField d 6 2 ≤ 10000 ∧ slice d 9 3 = zeros 3 ∧ byteAt d 8 ≤ 1))
    ∧ (Meets 0x2781 0 (fun d _ => beNat d ≤ 16383))
    ∧ (∃ t : Nat, ∃ i : Nat, ∃ s : State, i < 16384 ∧ (s.frerAt i).mode = 2 ∧ (s.frerAt i).takeAny = false ∧ (s.frerAt i).acceptAt + (s.frerAt i).timeout * 10 ^ 12 ≤ t)
    ∧ (∃ t : Nat, ∃ i : Nat, ∃ s : State, t < (s.frerAt i).acceptAt + (s.frerAt i).timeout * 10 ^ 12) :=
  ⟨⟨0, (asks 0x2780 0 [0x3F, 0xFF, 0, 0, 0, 64, 0x27, 0x10, 1, 0, 0, 0] (base)), (ask 0x2780 0 [0x3F, 0xFF, 0, 0, 0, 64, 0x27, 0x10, 1, 0, 0, 0]), by unfold Asks; decide +kernel⟩,
   ⟨0, (asks 0x2781 0 [0x3F, 0xFF] (base)), (ask 0x2781 0 [0x3F, 0xFF]), by unfold Asks; decide +kernel⟩,
   ⟨(10000000000000000000), (16383), (base.setFrer 16383 { Frer.reset with mode := 2, takeAny := false }), by decide +kernel⟩,
   ⟨(0), (16383), (base.setFrer 16383 { Frer.reset with mode := 2, takeAny := false }), by decide +kernel⟩⟩

/-- The hypotheses of `Obligations.WeirActions` are met. -/
theorem test_WeirActions_met :
    (Meets 0x2600 0 (fun d s => (byteAt d 0 ≤ 3 ∨ byteAt d 0 = 0xFF) ∧ byteAt d 1 ≤ 7 ∧ beField d 2 2 ≤ 16383 ∧ beField d 4 4 ≤ beField d 12 4 ∧ (beField d 4 4 ≠ 0 → beField d 8 4 ≠ 0) ∧ (beField d 12 4 ≠ 0 → beField d 16 4 ≠ 0) ∧ beField d 22 2 = 0 ∧ Canonical s))
    ∧ (Meets 0x2601 0 (fun d _ => byteAt d 0 ≤ 3 ∧ byteAt d 1 = 0 ∧ beField d 2 2 ≤ 16383))
    ∧ (Meets 0x2602 0 (fun d s => (byteAt d 0 ≤ 3 ∨ byteAt d 0 = 0xFF) ∧ byteAt d 1 = 0 ∧ beField d 2 2 ≤ 16383 ∧ Canonical s))
    ∧ (Meets 0x2603 0 (fun d s => (byteAt d 0 ≤ 3 ∨ byteAt d 0 = 0xFF) ∧ byteAt d 1 = 0 ∧ beField d 2 2 ≤ 16383 ∧ Canonical s))
    ∧ (Meets 0x2610 0 (fun d _ => beField d 0 2 ≤ 16383 ∧ byteAt d 2 ≤ 1 ∧ (byteAt d 3 ≤ 7 ∨ byteAt d 3 = 0xFF) ∧ (beField d 4 2 ≤ 16383 ∨ beField d 4 2 = 0xFFFF) ∧ beField d 6 2 = 0)) :=
  ⟨⟨0, (asks 0x2600 0 ([0xFF, 7, 0x3F, 0xFF] ++ zeros 18 ++ [0, 0]) (base)), (ask 0x2600 0 ([0xFF, 7, 0x3F, 0xFF] ++ zeros 18 ++ [0, 0])), by unfold Asks Canonical MailboxForm DictForm TablesForm FlowForm BufForm SchedForm EndpointForm PoldersForm CipherForm SiphonForm JournalForm EventsForm; decide +kernel⟩,
   ⟨0, (asks 0x2601 0 [3, 0, 0x3F, 0xFF] (base)), (ask 0x2601 0 [3, 0, 0x3F, 0xFF]), by unfold Asks; decide +kernel⟩,
   ⟨0, (asks 0x2602 0 [0xFF, 0, 0x3F, 0xFF] (base)), (ask 0x2602 0 [0xFF, 0, 0x3F, 0xFF]), by unfold Asks Canonical MailboxForm DictForm TablesForm FlowForm BufForm SchedForm EndpointForm PoldersForm CipherForm SiphonForm JournalForm EventsForm; decide +kernel⟩,
   ⟨0, (asks 0x2603 0 [3, 0, 0, 0] (base)), (ask 0x2603 0 [3, 0, 0, 0]), by unfold Asks Canonical MailboxForm DictForm TablesForm FlowForm BufForm SchedForm EndpointForm PoldersForm CipherForm SiphonForm JournalForm EventsForm; decide +kernel⟩,
   ⟨0, (asks 0x2610 0 [0x3F, 0xFF, 1, 0xFF, 0xFF, 0xFF, 0, 0] (base)), (ask 0x2610 0 [0x3F, 0xFF, 1, 0xFF, 0xFF, 0xFF, 0, 0]), by unfold Asks; decide +kernel⟩⟩

/-- Further clauses of `Obligations.WeirActions`. -/
theorem test_WeirActions_met_2 :
    (Meets 0x2600 0 (fun d _ => (3 < byteAt d 0 ∧ byteAt d 0 ≠ 0xFF) ∨ 16383 < beField d 2 2 ∨ beField d 12 4 < beField d 4 4 ∨ (beField d 8 4 = 0 ∧ beField d 4 4 ≠ 0) ∨ (beField d 16 4 = 0 ∧ beField d 12 4 ≠ 0)))
    ∧ (Meets 0x2601 0 (fun d _ => 3 < byteAt d 0 ∨ 16383 < beField d 2 2))
    ∧ (Meets 0x2602 0 (fun d _ => (3 < byteAt d 0 ∧ byteAt d 0 ≠ 0xFF) ∨ 16383 < beField d 2 2))
    ∧ (Meets 0x2603 0 (fun d _ => (3 < byteAt d 0 ∧ byteAt d 0 ≠ 0xFF) ∨ 16383 < beField d 2 2))
    ∧ (Meets 0x2610 0 (fun d _ => 16383 < beField d 0 2)) :=
  ⟨⟨0, (asks 0x2600 0 ([4] ++ zeros 23) (base)), (ask 0x2600 0 ([4] ++ zeros 23)), by unfold Asks; decide +kernel⟩,
   ⟨0, (asks 0x2601 0 [4, 0, 0, 0] (base)), (ask 0x2601 0 [4, 0, 0, 0]), by unfold Asks; decide +kernel⟩,
   ⟨0, (asks 0x2602 0 [4, 0, 0, 0] (base)), (ask 0x2602 0 [4, 0, 0, 0]), by unfold Asks; decide +kernel⟩,
   ⟨0, (asks 0x2603 0 [4, 0, 0, 0] (base)), (ask 0x2603 0 [4, 0, 0, 0]), by unfold Asks; decide +kernel⟩,
   ⟨0, (asks 0x2610 0 [0x40, 0, 1, 0xFF, 0xFF, 0xFF, 0, 0] (base)), (ask 0x2610 0 [0x40, 0, 1, 0xFF, 0xFF, 0xFF, 0, 0]), by unfold Asks; decide +kernel⟩⟩

/-- Further clauses of `Obligations.WeirActions`. -/
theorem test_WeirActions_met_3 :
    (Meets 0x2611 0 (fun d _ => 16383 < beNat d))
    ∧ (Meets 0x2611 0 (fun d _ => beNat d ≤ 16383)) :=
  ⟨⟨0, (asks 0x2611 0 [0x40, 0] (base)), (ask 0x2611 0 [0x40, 0]), by unfold Asks; decide +kernel⟩,
   ⟨0, (asks 0x2611 0 [0x3F, 0xFF] (base)), (ask 0x2611 0 [0x3F, 0xFF]), by unfold Asks; decide +kernel⟩⟩

/-- The hypotheses of `Obligations.FlowActions` are met. -/
theorem test_FlowActions_met :
    (Meets 0x2A10 0 (fun d s => Canonical s ∧ flowWriteAborts s d = [] ∧ ctxOfKey s (d.take 52) = none ∧ (byteAt d 52).testBit 0 = false ∧ (freeEntry s (keyHash s (d.take 52))).isSome = true ∧ (takeCtx (flowPart (keyHash s (d.take 52))) s).isSome = true))
    ∧ (Meets 0x2A10 0 (fun d s => Canonical s ∧ flowWriteAborts s d = [] ∧ (ctxOfKey s (d.take 52)).isSome = true ∧ (byteAt d 52).testBit 0 = false))
    ∧ (Meets 0x2A11 0 (fun d s => beNat d ≤ 1048575 ∧ (s.ctx (beNat d)).active = true))
    ∧ (Meets 0x2A12 0 (fun d s => Canonical s ∧ beNat d ≤ 1048575 ∧ (s.ctx (beNat d)).active = true))
    ∧ (Meets 0x2A13 0 (fun d s => Canonical s ∧ beField d 0 4 ≤ 1048575 ∧ (s.ctx (beField d 0 4)).active = true ∧ byteAt d 4 ≤ 1 ∧ slice d 5 3 = zeros 3 ∧ (byteAt d 4 = 1 → (cachedAt s (beField d 0 4)).isSome = true) ∧ (byteAt d 4 = 1 → (s.ctx (beField d 0 4)).pinned = false → pinRoom s (s.ctx (beField d 0 4)).hash = true))) :=
  ⟨⟨0, (asks 0x2A10 0 (([8, 6] ++ zeros 50) ++ [0x10, 0, 0, 0] ++ zeros 64) (base)), (ask 0x2A10 0 (([8, 6] ++ zeros 50) ++ [0x10, 0, 0, 0] ++ zeros 64)), by unfold Asks Canonical MailboxForm DictForm TablesForm FlowForm BufForm SchedForm EndpointForm PoldersForm CipherForm SiphonForm JournalForm EventsForm; decide +kernel⟩,
   ⟨0, (asks 0x2A10 0 (([8, 6] ++ zeros 50) ++ [0x10, 0, 0x0F, 0xFF] ++ zeros 64) ({ base with flow := { base.flow with entries := [(0, { key := ([8, 6] ++ zeros 50), ctx := 0 })], ctxs := [(0, { Ctx.reset with active := true, idle := 1, key := ([8, 6] ++ zeros 50) })], cache := [(0, 1)] } })), (ask 0x2A10 0 (([8, 6] ++ zeros 50) ++ [0x10, 0, 0x0F, 0xFF] ++ zeros 64)), by unfold Asks Canonical MailboxForm DictForm TablesForm FlowForm BufForm SchedForm EndpointForm PoldersForm CipherForm SiphonForm JournalForm EventsForm; decide +kernel⟩,
   ⟨0, (asks 0x2A11 0 [0, 0, 0, 0] ({ base with flow := { base.flow with entries := [(0, { key := ([8, 6] ++ zeros 50), ctx := 0 })], ctxs := [(0, { Ctx.reset with active := true, idle := 1, key := ([8, 6] ++ zeros 50) })], cache := [(0, 1)] } })), (ask 0x2A11 0 [0, 0, 0, 0]), by unfold Asks; decide +kernel⟩,
   ⟨0, (asks 0x2A12 0 [0, 0, 0, 0] ({ base with flow := { base.flow with entries := [(0, { key := ([8, 6] ++ zeros 50), ctx := 0 })], ctxs := [(0, { Ctx.reset with active := true, idle := 1, key := ([8, 6] ++ zeros 50) })], cache := [(0, 1)] } })), (ask 0x2A12 0 [0, 0, 0, 0]), by unfold Asks Canonical MailboxForm DictForm TablesForm FlowForm BufForm SchedForm EndpointForm PoldersForm CipherForm SiphonForm JournalForm EventsForm; decide +kernel⟩,
   ⟨0, (asks 0x2A13 0 [0, 0, 0, 0, 1, 0, 0, 0] ({ base with flow := { base.flow with entries := [(0, { key := ([8, 6] ++ zeros 50), ctx := 0 })], ctxs := [(0, { Ctx.reset with active := true, idle := 1, key := ([8, 6] ++ zeros 50) })], cache := [(0, 1)] } })), (ask 0x2A13 0 [0, 0, 0, 0, 1, 0, 0, 0]), by unfold Asks Canonical MailboxForm DictForm TablesForm FlowForm BufForm SchedForm EndpointForm PoldersForm CipherForm SiphonForm JournalForm EventsForm; decide +kernel⟩⟩

/-- Further clauses of `Obligations.FlowActions`. -/
theorem test_FlowActions_met_2 :
    (Meets 0x2A14 0 (fun _ s => s.flow.clearing = false))
    ∧ (∃ s : State, Canonical s ∧ s.flow.clearing = true) :=
  ⟨⟨0, (asks 0x2A14 0 [] (base)), (ask 0x2A14 0 []), by unfold Asks; decide +kernel⟩,
   ⟨({ base with flow := { base.flow with clearing := true } }), by unfold Canonical MailboxForm DictForm TablesForm FlowForm BufForm SchedForm EndpointForm PoldersForm CipherForm SiphonForm JournalForm EventsForm; decide +kernel⟩⟩

/-- The hypotheses of `Obligations.FlowSteps` are met. -/
theorem test_FlowSteps_met :
    (∃ die : Nat, ∃ s : State, ∃ r : CtxReq, ∃ rest : List CtxReq, ∃ n : Nat, ∃ k : Nat, (s.flowDie die).requests = r :: rest ∧ ctlRoom s (dieOf r.port) die = true ∧ s.flow.clearing = false ∧ r.scheduled = false ∧ (∀ f ∈ (s.flowDie die).fetches, f.key ≠ r.key) ∧ ctxOfKey s r.key = some n ∧ cachedAt s n = some k ∧ r.act.pin = false ∧ Canonical s)
    ∧ (∃ die : Nat, ∃ s : State, ∃ r : CtxReq, ∃ rest : List CtxReq, (s.flowDie die).requests = r :: rest ∧ ctlRoom s (dieOf r.port) die = true ∧ s.flow.clearing = false ∧ r.scheduled = false ∧ (∀ f ∈ (s.flowDie die).fetches, f.key ≠ r.key) ∧ ctxOfKey s r.key = none ∧ parkFull (s.setFlowDie die { s.flowDie die with requests := rest }) die r = false ∧ Canonical s)
    ∧ (∃ die : Nat, ∃ s : State, ∃ r : CtxReq, ∃ rest : List CtxReq, (s.flowDie die).requests = r :: rest ∧ ctlRoom s (dieOf r.port) die = false)
    ∧ (∃ (die : Nat) (s : State) (f : Fetch) (rest : List Fetch) (w : Nat) (s1 : State), (s.flowDie die).fetches = f :: rest ∧ f.way = none ∧ (∀ g ∈ rest, g.key ≠ f.key) ∧ ((s.flowDie die).fetches.filter (fun g => g.way.isSome)).length < 128 ∧ reserveWay die (flowSet f.hash) s = some (w, s1) ∧ (s1.flowDie die).fetches = f :: rest)
    ∧ (∃ die : Nat, ∃ slot : Nat, ∃ s : State, ∃ f : Fetch, ∃ n : Nat, ∃ r : CtxReq, ((s.flowDie die).fetches.find? (fun g => decide (g.way = some (slot % 16)) && decide (flowSet g.hash = slot / 16)) = some f) ∧ culvDown s (mdCulvert die (flowBucket f.hash % 2)) = false ∧ ctxOfKey s f.key = some n ∧ culvDown s (mdCulvert die (n % 2)) = false ∧ s.flow.clearing = false ∧ f.frames = [r] ∧ r.key = f.key ∧ r.act.pin = false ∧ Canonical s) :=
  ⟨⟨(3), (({ base with flow := { base.flow with entries := [(0, { key := ([8, 6] ++ zeros 50), ctx := 0 })], ctxs := [(0, { Ctx.reset with active := true, idle := 1, key := ([8, 6] ++ zeros 50) })], cache := [(0, 1)] } }).setFlowDie 3 { FlowDie.reset with requests := [{ key := ([8, 6] ++ zeros 50), hash := 0, act := { op := 0, pin := false, notify := false, idle := 0, uaOff := 0, uaValue := 0, uaOp := 0 }, group := 0, length := 64, port := 0, stamp := 0, scheduled := false, parkBytes := 64, parcels := [] }] }), ({ key := ([8, 6] ++ zeros 50), hash := 0, act := { op := 0, pin := false, notify := false, idle := 0, uaOff := 0, uaValue := 0, uaOp := 0 }, group := 0, length := 64, port := 0, stamp := 0, scheduled := false, parkBytes := 64, parcels := [] }), ([]), (0), (0), by unfold Canonical MailboxForm DictForm TablesForm FlowForm BufForm SchedForm EndpointForm PoldersForm CipherForm SiphonForm JournalForm EventsForm; decide +kernel⟩,
   ⟨(3), (base.setFlowDie 3 { FlowDie.reset with requests := [{ key := ([8, 6] ++ zeros 50), hash := 0, act := { op := 0, pin := false, notify := false, idle := 0, uaOff := 0, uaValue := 0, uaOp := 0 }, group := 0, length := 64, port := 0, stamp := 0, scheduled := false, parkBytes := 64, parcels := [] }] }), ({ key := ([8, 6] ++ zeros 50), hash := 0, act := { op := 0, pin := false, notify := false, idle := 0, uaOff := 0, uaValue := 0, uaOp := 0 }, group := 0, length := 64, port := 0, stamp := 0, scheduled := false, parkBytes := 64, parcels := [] }), ([]), by unfold Canonical MailboxForm DictForm TablesForm FlowForm BufForm SchedForm EndpointForm PoldersForm CipherForm SiphonForm JournalForm EventsForm; decide +kernel⟩,
   ⟨(3), ((let s : State := (let s : State := base.setFlowDie 3 { FlowDie.reset with requests := [{ key := ([8, 6] ++ zeros 50), hash := 0, act := { op := 0, pin := false, notify := false, idle := 0, uaOff := 0, uaValue := 0, uaOp := 0 }, group := 0, length := 64, port := 0, stamp := 0, scheduled := false, parkBytes := 64, parcels := [] }] }; { s with buf := { s.buf with transit := [{ ticket := 9, src := 0, dst := 3, bulk := false, owner := 0, info := { inPort := 0, stamp := 0, hash := 0, cls := 0, rxFlags := 0, reason := 0, vid := 1, tc := 0, yellow := false, stream := none, seqNo := none, group := 0, src := .field, edit := false, ptpOther := false, frame := 0 }, bytes := zeros 60, ports := [(511, 7, none)], hosts := [] }] } }); { s with culv := { s.culv with ctlFlits := [(3, 1)] } })), ({ key := ([8, 6] ++ zeros 50), hash := 0, act := { op := 0, pin := false, notify := false, idle := 0, uaOff := 0, uaValue := 0, uaOp := 0 }, group := 0, length := 64, port := 0, stamp := 0, scheduled := false, parkBytes := 64, parcels := [] }), ([]), by decide +kernel⟩,
   ⟨0, base.setFlowDie 0 { FlowDie.reset with fetches := [{ key := ([8, 6] ++ zeros 50), hash := 0, way := none, frames := [{ key := ([8, 6] ++ zeros 50), hash := 0, act := { op := 0, pin := false, notify := false, idle := 0, uaOff := 0, uaValue := 0, uaOp := 0 }, group := 0, length := 64, port := 0, stamp := 0, scheduled := false, parkBytes := 64, parcels := [] }] }] }, { key := ([8, 6] ++ zeros 50), hash := 0, way := none, frames := [{ key := ([8, 6] ++ zeros 50), hash := 0, act := { op := 0, pin := false, notify := false, idle := 0, uaOff := 0, uaValue := 0, uaOp := 0 }, group := 0, length := 64, port := 0, stamp := 0, scheduled := false, parkBytes := 64, parcels := [] }] }, [], _, _, by decide, rfl, by decide, by decide, rfl, by decide⟩,
   ⟨(0), (0), (({ base with flow := { base.flow with entries := [(0, { key := ([8, 6] ++ zeros 50), ctx := 0 })], ctxs := [(0, { Ctx.reset with active := true, idle := 1, key := ([8, 6] ++ zeros 50) })], cache := [(0, 1)] } }).setFlowDie 0 { FlowDie.reset with fetches := [{ key := ([8, 6] ++ zeros 50), hash := 0, way := some 0, frames := [{ key := ([8, 6] ++ zeros 50), hash := 0, act := { op := 0, pin := false, notify := false, idle := 0, uaOff := 0, uaValue := 0, uaOp := 0 }, group := 0, length := 64, port := 0, stamp := 0, scheduled := false, parkBytes := 64, parcels := [] }] }] }), ({ key := ([8, 6] ++ zeros 50), hash := 0, way := some 0, frames := [{ key := ([8, 6] ++ zeros 50), hash := 0, act := { op := 0, pin := false, notify := false, idle := 0, uaOff := 0, uaValue := 0, uaOp := 0 }, group := 0, length := 64, port := 0, stamp := 0, scheduled := false, parkBytes := 64, parcels := [] }] }), (0), ({ key := ([8, 6] ++ zeros 50), hash := 0, act := { op := 0, pin := false, notify := false, idle := 0, uaOff := 0, uaValue := 0, uaOp := 0 }, group := 0, length := 64, port := 0, stamp := 0, scheduled := false, parkBytes := 64, parcels := [] }), by unfold Canonical MailboxForm DictForm TablesForm FlowForm BufForm SchedForm EndpointForm PoldersForm CipherForm SiphonForm JournalForm EventsForm; decide +kernel⟩⟩

/-- Further clauses of `Obligations.FlowSteps`. -/
theorem test_FlowSteps_met_2 :
    (∃ s : State, Canonical s)
    ∧ (∃ t : Nat, ∃ n : Nat, ∃ s : State, Canonical s ∧ (s.ctx n).active = true ∧ (s.ctx n).idle ≠ 0 ∧ (s.flow.dies.any (fun e => e.2.writeBacks.contains n || e.2.fetches.any (fun f => f.way.isSome && decide (f.key = (s.ctx n).key))) = false) ∧ cfgN s 0x2A01 (s.ctx n).idle ≤ (learnMs (advance t s) + 2 ^ 32 - (s.ctx n).stamp) % 2 ^ 32 ∧ (cfgN s 0x2A00 2).testBit (s.ctx n).idle = false) :=
  ⟨⟨(base), by unfold Canonical MailboxForm DictForm TablesForm FlowForm BufForm SchedForm EndpointForm PoldersForm CipherForm SiphonForm JournalForm EventsForm; decide +kernel⟩,
   ⟨(6000000000000000000000), (0), ({ base with flow := { base.flow with entries := [(0, { key := ([8, 6] ++ zeros 50), ctx := 0 })], ctxs := [(0, { Ctx.reset with active := true, idle := 1, key := ([8, 6] ++ zeros 50) })], cache := [(0, 1)] } }), by unfold Canonical MailboxForm DictForm TablesForm FlowForm BufForm SchedForm EndpointForm PoldersForm CipherForm SiphonForm JournalForm EventsForm; decide +kernel⟩⟩

/-- The hypotheses of `Obligations.BufferActions` are met. -/
theorem test_BufferActions_met :
    (Meets 0x2B10 0 (fun d _ => beNat d ≤ 4095))
    ∧ (Meets 0x2B11 0 (fun d _ => beNat d ≤ 4095))
    ∧ (Meets 0x2B12 0 (fun _ _ => True))
    ∧ (∃ owner : Nat, ∃ s : State, Canonical s ∧ 0x202 ≤ owner ∧ Tab.get 0 s.buf.owners (owner - 0x202) = 5000 ∧ (∀ die < 4, occupancy s die owner = 0))
    ∧ (∃ owner : Nat, ∃ die : Nat, ∃ s : State, die < 4 ∧ occupancy s die owner ≠ 0) :=
  ⟨⟨0, (asks 0x2B10 0 [0x0F, 0xFF] (base)), (ask 0x2B10 0 [0x0F, 0xFF]), by unfold Asks; decide +kernel⟩,
   ⟨0, (asks 0x2B11 0 [0x0F, 0xFF] (base)), (ask 0x2B11 0 [0x0F, 0xFF]), by unfold Asks; decide +kernel⟩,
   ⟨0, (asks 0x2B12 0 [] (base)), (ask 0x2B12 0 []), by unfold Asks; decide +kernel⟩,
   ⟨(0x203), ({ base with buf := { base.buf with owners := [(0, 1), (1, 5000)] } }), by unfold Canonical MailboxForm DictForm TablesForm FlowForm BufForm SchedForm EndpointForm PoldersForm CipherForm SiphonForm JournalForm EventsForm; decide +kernel⟩,
   ⟨(0x202), (3), (base.setBufDie 3 { BufDie.reset with occ := [(0x202, 1)] }), by decide +kernel⟩⟩

/-- The hypotheses of `Obligations.LinkStates` are met. -/
theorem test_LinkStates_met :
    (∃ p : Nat, ∃ rate : Nat, ∃ st : LinkSt, ∃ s : State, p < 512 ∧ portActive s p = true ∧ st ≠ .disabled ∧ st ≠ .outOfService ∧ st ≠ .up ∧ (portMode s p = 2 → rate = 1000) ∧ (s.port p).link ≠ .up ∧ (s.port p).link ≠ st)
    ∧ (∃ p : Nat, ∃ rate : Nat, ∃ s : State, p < 512 ∧ portActive s p = true ∧ (portMode s p = 2 → rate = 1000) ∧ (s.port p).link ≠ .up ∧ primariesOf s p = [] ∧ ((s.port p).redirect = false ∨ (s.port p).frrState ≠ 2))
    ∧ (∃ p : Nat, ∃ rate : Nat, ∃ st : LinkSt, ∃ s : State, p < 512 ∧ portActive s p = true ∧ st ≠ .disabled ∧ st ≠ .outOfService ∧ st ≠ .up ∧ (portMode s p = 2 → rate = 1000) ∧ (s.port p).link = .up ∧ primariesOf s p = [])
    ∧ (∃ p : Nat, ∃ rate : Nat, ∃ s : State, portMode s p = 2 ∧ rate ≠ 1000 ∧ (s.port p).link = .down)
    ∧ (∃ t : Nat, ∃ p : Nat, ∃ s : State, p < 512 ∧ portActive s p = true ∧ (s.port p).link = .down ∧ (s.port p).retryAt ≤ t ∧ negotiates s p = true) :=
  ⟨⟨(511), (0), (.training), (having [(0x21FF, 1, [1]), (0x21FF, 2, [1])] { base with boot := { base.boot with fieldUp := true } }), by decide +kernel⟩,
   ⟨(511), (0), (having [(0x21FF, 1, [1]), (0x21FF, 2, [1])] { base with boot := { base.boot with fieldUp := true } }), by decide +kernel⟩,
   ⟨(511), (0), (.down), (((having [(0x21FF, 1, [1]), (0x21FF, 2, [1])] { base with boot := { base.boot with fieldUp := true } }).setPort 511 { Port.reset with link := .up })), by decide +kernel⟩,
   ⟨(511), (100), (((having [(0x21FF, 1, [2])] base).setPort 511 { Port.reset with link := .down })), by decide +kernel⟩,
   ⟨(0), (511), (((having [(0x21FF, 1, [1]), (0x21FF, 2, [1])] { base with boot := { base.boot with fieldUp := true } }).setPort 511 { Port.reset with link := .down })), by decide +kernel⟩⟩

/-- Further clauses of `Obligations.LinkStates`. -/
theorem test_LinkStates_met_2 :
    (∃ t : Nat, ∃ p : Nat, ∃ s : State, p < 512 ∧ portActive s p = true ∧ (s.port p).link = .down ∧ (s.port p).retryAt ≤ t ∧ negotiates s p = false)
    ∧ (∃ t : Nat, ∃ p : Nat, ∃ s : State, ((s.port p).link ≠ .down ∨ t < (s.port p).retryAt)) :=
  ⟨⟨(0), (511), (((having [(0x21FF, 1, [1]), (0x21FF, 2, [1]), (0x21FF, 3, [0])] { base with boot := { base.boot with fieldUp := true } }).setPort 511 { Port.reset with link := .down })), by decide +kernel⟩,
   ⟨(0), (0), (base), by decide +kernel⟩⟩

/-- The hypotheses of `Obligations.FastReroute` are met. -/
theorem test_FastReroute_met :
    (∃ p : Nat, ∃ k : Nat, ∃ s : State, p < 512 ∧ k < 4 ∧ k ≠ 2 ∧ (s.port p).conds.testBit k = false ∧ frrDebounce s p ≠ 0)
    ∧ (∃ p : Nat, ∃ k : Nat, ∃ s : State, p < 512 ∧ k < 4 ∧ k ≠ 2 ∧ (s.port p).conds.testBit k = false ∧ frrDebounce s p = 0)
    ∧ (∃ t : Nat, ∃ p : Nat, ∃ k : Nat, ∃ s : State, p < 512 ∧ k < 4 ∧ k ≠ 2 ∧ (s.port p).conds.testBit k = true ∧ (advance t s).clock < Tab.get 0 (s.port p).onset k + frrDebounce s p)
    ∧ (∃ p : Nat, ∃ s : State, p < 512 ∧ (s.port p).fec = 1)
    ∧ (∃ p : Nat, ∃ s : State, p < 512 ∧ (s.port p).fec = 1) :=
  ⟨⟨(511), (3), (having [(0x21FF, 0xA, [0, 1])] base), by decide +kernel⟩,
   ⟨(511), (3), (having [(0x21FF, 0xA, [0, 0])] base), by decide +kernel⟩,
   ⟨(0), (511), (3), (((having [(0x21FF, 1, [1]), (0x21FF, 2, [1])] { base with boot := { base.boot with fieldUp := true } }).setPort 511 { Port.reset with conds := 8 })), by decide +kernel⟩,
   ⟨(511), (((base).setPort 511 { Port.reset with fec := 1 })), by decide +kernel⟩,
   ⟨(511), (((base).setPort 511 { Port.reset with fec := 1 })), by decide +kernel⟩⟩

/-- Further clauses of `Obligations.FastReroute`. -/
theorem test_FastReroute_met_2 :
    (∃ p : Nat, ∃ s : State, p < 512 ∧ (s.port p).fec = 1)
    ∧ (∃ p : Nat, ∃ s : State, p < 512 ∧ (s.port p).fec = 0)
    ∧ (∃ t : Nat, ∃ p : Nat, ∃ k : Nat, ∃ s : State, p < 512 ∧ triggerRuns s p k = true ∧ heldLong (advance t s) p k = true ∧ (s.port p).latch.testBit k = false ∧ backupPort s p = 0xFFFF)
    ∧ (∃ t : Nat, ∃ p : Nat, ∃ k : Nat, ∃ s : State, heldLong (advance t s) p k = false)
    ∧ (∃ t : Nat, ∃ p : Nat, ∃ k : Nat, ∃ s : State, Canonical s ∧ p < 512 ∧ triggerRuns s p k = true ∧ heldLong (advance t s) p k = true ∧ (s.port p).latch.testBit k = false ∧ backupPort s p ≠ 0xFFFF ∧ backupPort s p ≠ p ∧ (s.port p).frrState = 0 ∧ portUp s (backupPort s p) = true ∧ cfgN s (0x2000 + p) 0xD = 0) :=
  ⟨⟨(511), (((base).setPort 511 { Port.reset with fec := 1 })), by decide +kernel⟩,
   ⟨(511), (((base).setPort 511 { Port.reset with conds := 8 })), by decide +kernel⟩,
   ⟨(10000000000000), (511), (3), (((having [(0x21FF, 1, [1]), (0x21FF, 2, [1])] { base with boot := { base.boot with fieldUp := true } }).setPort 511 { Port.reset with conds := 8 })), by decide +kernel⟩,
   ⟨(0), (511), (3), (base), by decide +kernel⟩,
   ⟨(10000000000000), (511), (3), (((((having [(0x21FF, 8, [0, 0]), (0x21FF, 0xD, [0])] (having [(0x21FF, 1, [1]), (0x21FF, 2, [1])] { base with boot := { base.boot with fieldUp := true } })).setPort 511 { Port.reset with conds := 8 })).setPort 0 { Port.reset with link := .up })), by unfold Canonical MailboxForm DictForm TablesForm FlowForm BufForm SchedForm EndpointForm PoldersForm CipherForm SiphonForm JournalForm EventsForm; decide +kernel⟩⟩

/-- Further clauses of `Obligations.FastReroute`. -/
theorem test_FastReroute_met_3 :
    (∃ t : Nat, ∃ p : Nat, ∃ k : Nat, ∃ s : State, Canonical s ∧ p < 512 ∧ triggerRuns s p k = true ∧ heldLong (advance t s) p k = true ∧ (s.port p).latch.testBit k = false ∧ backupPort s p ≠ 0xFFFF ∧ backupPort s p ≠ p ∧ (s.port p).frrState = 0 ∧ portUp s (backupPort s p) = false)
    ∧ (∃ t : Nat, ∃ p : Nat, ∃ s : State, p < 512 ∧ (s.port p).redirect = true ∧ (s.port p).frrState = 1 ∧ portUp s p = true ∧ cfgN s (0x2000 + p) 0xC ≠ 0 ∧ (s.port p).upAt + cfgN s (0x2000 + p) 0xC * 10 ^ 12 ≤ t)
    ∧ (∃ t : Nat, ∃ p : Nat, ∃ s : State, (cfgN s (0x2000 + p) 0xC = 0 ∨ t < (s.port p).upAt + cfgN s (0x2000 + p) 0xC * 10 ^ 12))
    ∧ (∃ p, p < 512 ∧ Meets (0x2000 + p) 0xE (fun _ s => (s.port p).redirect = true ∧ portUp s p = true))
    ∧ (∃ p, p < 512 ∧ Meets (0x2000 + p) 0xE (fun _ s => (s.port p).redirect = false ∨ portUp s p = false)) :=
  ⟨⟨(10000000000000), (511), (3), (((having [(0x21FF, 8, [0, 0])] (having [(0x21FF, 1, [1]), (0x21FF, 2, [1])] { base with boot := { base.boot with fieldUp := true } })).setPort 511 { Port.reset with conds := 8 })), by unfold Canonical MailboxForm DictForm TablesForm FlowForm BufForm SchedForm EndpointForm PoldersForm CipherForm SiphonForm JournalForm EventsForm; decide +kernel⟩,
   ⟨(100000000000000), (511), ((having [(0x21FF, 0xC, [0, 0, 0, 100])] ((having [(0x21FF, 1, [1]), (0x21FF, 2, [1])] { base with boot := { base.boot with fieldUp := true } }).setPort 511 { Port.reset with link := .up, redirect := true, frrState := 1 }))), by decide +kernel⟩,
   ⟨(0), (511), (base), by decide +kernel⟩,
   ⟨511, by decide, 0, (asks (0x2000 + 511) 0xE [] (((base).setPort 511 { Port.reset with link := .up, redirect := true }))), (ask (0x2000 + 511) 0xE []), by unfold Asks; decide +kernel⟩,
   ⟨511, by decide, 0, (asks (0x2000 + 511) 0xE [] (base)), (ask (0x2000 + 511) 0xE []), by unfold Asks; decide +kernel⟩⟩

/-- The hypotheses of `Obligations.TimeBaseSteps` are met. -/
theorem test_TimeBaseSteps_met :
    (Meets 0x1200 3 (fun _ s => timeSource s ≠ 1 ∨ s.time.state ≠ 2))
    ∧ (Meets 0x1200 3 (fun _ s => timeSource s = 1 ∧ s.time.state = 2))
    ∧ (Meets 0x1200 4 (fun d s => (timeSource s ≠ 1 ∨ s.time.state ≠ 2) ∧ 0 ≤ adjusted s d ∧ adjusted s d ≤ 2 ^ 48 * unitsPerSec - 1 ∧ (signedOf 64 (beNat d)).natAbs ≤ 10 ^ 9))
    ∧ (Meets 0x1200 4 (fun d s => (timeSource s ≠ 1 ∨ s.time.state ≠ 2) ∧ (adjusted s d < 0 ∨ 10 ^ 9 < (signedOf 64 (beNat d)).natAbs)))
    ∧ (∃ t : Nat, ∃ s : State, s.time.state = 2 ∧ ((timeSource s = 1 ∧ s.time.lastMsg + announceLimit s.time.annLog ≤ max s.clock t) ∨ (timeSource s = 2 ∧ s.time.lastEdge + 1500000000000000 ≤ max s.clock t))) :=
  ⟨⟨0, (asks 0x1200 3 (zeros 12) (base)), (ask 0x1200 3 (zeros 12)), by unfold Asks; decide +kernel⟩,
   ⟨0, (asks 0x1200 3 (zeros 12) (having [(0x1201, 0, [1])] { base with time := { base.time with state := 2 } })), (ask 0x1200 3 (zeros 12)), by unfold Asks; decide +kernel⟩,
   ⟨0, (asks 0x1200 4 (zeros 8) (base)), (ask 0x1200 4 (zeros 8)), by unfold Asks; decide +kernel⟩,
   ⟨0, (asks 0x1200 4 (List.replicate 8 255#8) (base)), (ask 0x1200 4 (List.replicate 8 255#8)), by unfold Asks; decide +kernel⟩,
   ⟨(10000000000000000000), (having [(0x1201, 0, [1])] { base with time := { base.time with state := 2 } }), by decide +kernel⟩⟩

/-- Further clauses of `Obligations.TimeBaseSteps`. -/
theorem test_TimeBaseSteps_met_2 :
    (∃ t : Nat, ∃ s : State, (s.time.state ≠ 2 ∨ timeSource s = 0 ∨ (timeSource s = 1 ∧ max s.clock t < s.time.lastMsg + announceLimit s.time.annLog) ∨ (timeSource s = 2 ∧ max s.clock t < s.time.lastEdge + 1500000000000000)))
    ∧ (∃ s : State, ∃ rising : Bool, rising = decide (cfgN s 0x1203 4 = 0) ∧ timeSource s ≠ 2)
    ∧ (∃ s : State, ∃ rising : Bool, rising ≠ decide (cfgN s 0x1203 4 = 0))
    ∧ (∃ t : Nat, ∃ s : State, cfgN s 0x1203 1 = 1 ∧ s.time.state ≠ 0 ∧ ppsDue (advance t s) = true)
    ∧ (∃ t : Nat, ∃ s : State, (cfgN s 0x1203 1 ≠ 1 ∨ s.time.state = 0 ∨ ppsDue (advance t s) = false)) :=
  ⟨⟨(0), (base), by decide +kernel⟩,
   ⟨(base), (true), by decide +kernel⟩,
   ⟨(base), (false), by decide +kernel⟩,
   ⟨(0), (having [(0x1203, 1, [1])] { base with time := { base.time with state := 1 } }), by decide +kernel⟩,
   ⟨(0), (base), by decide +kernel⟩⟩

/-- Further clauses of `Obligations.TimeBaseSteps`. -/
theorem test_TimeBaseSteps_met_3 :
    (∃ t : Nat, ∃ s : State, s.time.ppsRise + cfgN s 0x1203 2 * 1000000 ≤ t)
    ∧ (∃ t : Nat, ∃ s : State, t < s.time.ppsRise + cfgN s 0x1203 2 * 1000000) :=
  ⟨⟨(10000000000000000000), (base), by decide +kernel⟩,
   ⟨(0), (having [(0x1201, 0, [1])] { base with time := { base.time with state := 2 } }), by decide +kernel⟩⟩

/-- The hypotheses of `Obligations.GateLists` are met. -/
theorem test_GateLists_met :
    (∃ p, p < 512 ∧ Meets (0x2400 + p) 7 (fun _ s => gateEnabled s p = true ∧ (s.psched p).pend = none ∧ (adminEntries s p).any badGateEntry = false))
    ∧ (∃ p, p < 512 ∧ Meets (0x2400 + p) 7 (fun _ s => gateEnabled s p = false))
    ∧ (∃ cycle : Nat, 0 < cycle)
    ∧ (∃ cycle : Nat, 0 < cycle)
    ∧ (∃ cycle : Nat, 0 < cycle) :=
  ⟨⟨511, by decide, 0, (asks (0x2400 + 511) 7 [] (having [(0x25FF, 1, [1])] base)), (ask (0x2400 + 511) 7 []), by unfold Asks; decide +kernel⟩,
   ⟨511, by decide, 0, (asks (0x2400 + 511) 7 [] (base)), (ask (0x2400 + 511) 7 []), by unfold Asks; decide +kernel⟩,
   ⟨(1), by decide +kernel⟩,
   ⟨(7), by decide +kernel⟩,
   ⟨(4294967295), by decide +kernel⟩⟩

/-- Further clauses of `Obligations.GateLists`. -/
theorem test_GateLists_met_2 :
    (∃ t : Nat, ∃ p : Nat, ∃ s : State, ∃ w : GatePend, Canonical s ∧ p < 512 ∧ (s.psched p).pend = some w ∧ w.change ≤ timeNow (advance t s) ∧ (∀ tc < 8, portQueue (s.psched p) tc = []))
    ∧ (∃ p : Nat, p < 512)
    ∧ (∃ p, p < 512 ∧ Meets (0x2200 + p) 0x22 (fun d _ => beNat d ≤ 7)) :=
  ⟨⟨(0), (511), (base.setPsched 511 { PortSched.reset with pend := some { list := { base := 0, cycle := 1, ext := 0, entries := [(255, 1)] }, change := 0, accepted := 0 } }), ({ list := { base := 0, cycle := 1, ext := 0, entries := [(255, 1)] }, change := 0, accepted := 0 }), by unfold Canonical MailboxForm DictForm TablesForm FlowForm BufForm SchedForm EndpointForm PoldersForm CipherForm SiphonForm JournalForm EventsForm; decide +kernel⟩,
   ⟨(511), by decide +kernel⟩,
   ⟨511, by decide, 0, (asks (0x2200 + 511) 0x22 [7] (base)), (ask (0x2200 + 511) 0x22 [7]), by unfold Asks; decide +kernel⟩⟩

/-- The hypotheses of `Obligations.PowerBalls` are met. -/
theorem test_PowerBalls_met :
    (∃ s : State, auxUp s = true ∧ s.board.acFail ≠ 1 ∧ s.board.released = false)
    ∧ (∃ s : State, auxUp s = true ∧ s.board.acFail ≠ 1 ∧ s.board.released = true ∧ s.jrn.state ≠ 3 ∧ s.jrn.state ≠ 0)
    ∧ (∃ s : State, s.board.acFail = 1)
    ∧ (∃ s : State, s.board.acFail = 1)
    ∧ (∃ t : Nat, ∃ s : State, s.board.acFail = 2 ∧ s.board.acHighAt + 10 ^ 13 ≤ t ∧ s.jrn.state = 4 ∧ s.board.thermtrip = false ∧ s.boot.journalSet = true ∧ s.jrn.held = false) :=
  ⟨⟨({ base with board := { base.board with rails := 255 }, jrn := base.jrn, boot := base.boot }), by decide +kernel⟩,
   ⟨({ base with board := { base.board with rails := 255, released := true }, jrn := { base.jrn with state := 1 }, boot := base.boot }), by decide +kernel⟩,
   ⟨({ base with board := { base.board with acFail := 1 }, jrn := base.jrn, boot := base.boot }), by decide +kernel⟩,
   ⟨({ base with board := { base.board with acFail := 1 }, jrn := base.jrn, boot := base.boot }), by decide +kernel⟩,
   ⟨(10000000000000), ({ base with board := { base.board with acFail := 2 }, jrn := { base.jrn with state := 4 }, boot := { base.boot with journalSet := true } }), by decide +kernel⟩⟩

/-- Further clauses of `Obligations.PowerBalls`. -/
theorem test_PowerBalls_met_2 :
    (∃ t : Nat, ∃ s : State, t < s.board.acHighAt + 10 ^ 13)
    ∧ (∃ s : State, auxUp s = true ∧ s.board.thermtrip = false ∧ s.board.released = false)
    ∧ (∃ s : State, auxUp s = true ∧ s.board.thermtrip = false ∧ s.board.released = true ∧ s.jrn.state = 1) :=
  ⟨⟨(9999999999999), (base), by decide +kernel⟩,
   ⟨({ base with board := { base.board with rails := 255 }, jrn := base.jrn, boot := base.boot }), by decide +kernel⟩,
   ⟨({ base with board := { base.board with rails := 255, released := true }, jrn := { base.jrn with state := 1 }, boot := base.boot }), by decide +kernel⟩⟩

/-- The hypotheses of `Obligations.ThermalAndSmbus` are met. -/
theorem test_ThermalAndSmbus_met :
    (∃ temps : List Int, ∃ s : State, s.board.released = true ∧ temps.length = 32)
    ∧ (∃ s : State, auxUp s = true ∧ tempKnown s = true)
    ∧ (∃ s : State, auxUp s = true ∧ tempKnown s = false)
    ∧ (∃ s : State, auxUp s = true)
    ∧ (∃ s : State, auxUp s = true) :=
  ⟨⟨(List.replicate 32 1270), ({ base with board := { base.board with released := true }, jrn := base.jrn, boot := base.boot }), by decide +kernel⟩,
   ⟨({ base with board := { base.board with rails := 255, sampled := true, released := true }, jrn := base.jrn, boot := base.boot }), by decide +kernel⟩,
   ⟨({ base with board := { base.board with rails := 255 }, jrn := base.jrn, boot := base.boot }), by decide +kernel⟩,
   ⟨({ base with board := { base.board with rails := 255 }, jrn := base.jrn, boot := base.boot }), by decide +kernel⟩,
   ⟨({ base with board := { base.board with rails := 255 }, jrn := base.jrn, boot := base.boot }), by decide +kernel⟩⟩

/-- Further clauses of `Obligations.ThermalAndSmbus`. -/
theorem test_ThermalAndSmbus_met_2 :
    (∃ s : State, auxUp s = true)
    ∧ (∃ s : State, auxUp s = true)
    ∧ (∃ s : State, auxUp s = false)
    ∧ (∃ s : State, auxUp s = false)
    ∧ (∃ s : State, auxUp s = false) :=
  ⟨⟨({ base with board := { base.board with rails := 255 }, jrn := base.jrn, boot := base.boot }), by decide +kernel⟩,
   ⟨({ base with board := { base.board with rails := 255 }, jrn := base.jrn, boot := base.boot }), by decide +kernel⟩,
   ⟨(base), by decide +kernel⟩,
   ⟨(base), by decide +kernel⟩,
   ⟨(base), by decide +kernel⟩⟩

/-- Further clauses of `Obligations.ThermalAndSmbus`. -/
theorem test_ThermalAndSmbus_met_3 :
    (∃ s : State, auxUp s = false)
    ∧ (Meets 0x1300 4 (fun _ _ => True)) :=
  ⟨⟨(base), by decide +kernel⟩,
   ⟨0, (asks 0x1300 4 [] (base)), (ask 0x1300 4 []), by unfold Asks; decide +kernel⟩⟩

/-- The hypotheses of `Obligations.EventRegisters` are met. -/
theorem test_EventRegisters_met :
    (∃ t : Nat, ∃ g : Nat, ∃ v : Word32, ∃ c : Word32, ∃ s : State, Canonical s ∧ barOpen s 0 = true ∧ g < 16 ∧ (bitsMinus (evtStat (advance t s) g) (bitsMinus v.toNat c.toNat) &&& evtMask s g = 0 ∨ (s.func 0).msixEnable = false))
    ∧ (∃ t : Nat, ∃ g : Nat, ∃ v : Word32, ∃ c : Word32, ∃ s : State, Canonical s ∧ barOpen s 0 = true ∧ g < 16 ∧ bitsMinus (evtStat (advance t s) g) (bitsMinus v.toNat c.toNat) &&& evtMask s g ≠ 0 ∧ (s.func 0).msixEnable = true ∧ msixOpen s 0 (Tab.get 0 s.evt.vector g) = true)
    ∧ (∃ g : Nat, ∃ s : State, Canonical s ∧ barOpen s 0 = true ∧ g < 16)
    ∧ (∃ g : Nat, ∃ s : State, barOpen s 0 = true ∧ g < 16)
    ∧ (∃ g : Nat, ∃ s : State, barOpen s 0 = true ∧ g < 16) :=
  ⟨⟨(0), (15), (0xFFFFFFFF), (0xFFFFFFFF), ({ base with ep := { base.ep with link := 2, funcs := [(0, { Func.reset with memSpace := true, busMaster := true, rrs := false })] } }), by unfold Canonical MailboxForm DictForm TablesForm FlowForm BufForm SchedForm EndpointForm PoldersForm CipherForm SiphonForm JournalForm EventsForm; decide +kernel⟩,
   ⟨(0), (15), (0), (0), ({ ({ base with ep := { base.ep with link := 2, funcs := [(0, { Func.reset with memSpace := true, busMaster := true, msixEnable := true, rrs := false })] } }) with evt := { base.evt with stat := [(15, 1)], mask := [(15, 0x80000001)] }, ep := { ({ base with ep := { base.ep with link := 2, funcs := [(0, { Func.reset with memSpace := true, busMaster := true, msixEnable := true, rrs := false })] } }).ep with msix := [(msixKey 0 0, { MsixEntry.reset with masked := false })] } }), by unfold Canonical MailboxForm DictForm TablesForm FlowForm BufForm SchedForm EndpointForm PoldersForm CipherForm SiphonForm JournalForm EventsForm; decide +kernel⟩,
   ⟨(15), ({ base with ep := { base.ep with link := 2, funcs := [(0, { Func.reset with memSpace := true, busMaster := true, msixEnable := true, rrs := false })] } }), by unfold Canonical MailboxForm DictForm TablesForm FlowForm BufForm SchedForm EndpointForm PoldersForm CipherForm SiphonForm JournalForm EventsForm; decide +kernel⟩,
   ⟨(0), ({ base with ep := { base.ep with link := 2, funcs := [(0, { Func.reset with memSpace := true, busMaster := true, msixEnable := true, rrs := false })] } }), by decide +kernel⟩,
   ⟨(15), ({ base with ep := { base.ep with link := 2, funcs := [(0, { Func.reset with memSpace := true, busMaster := true, msixEnable := true, rrs := false })] } }), by decide +kernel⟩⟩

/-- Further clauses of `Obligations.EventRegisters`. -/
theorem test_EventRegisters_met_2 :
    (Meets 0x1602 0 (fun d s => Canonical s ∧ (beNat d ≤ 511 ∨ beNat d = 0xFFFF) ∧ (s.func 0).msixEnable = false))
    ∧ (Meets 0x1604 0 (fun _ _ => True)) :=
  ⟨⟨0, (asks 0x1602 0 [1, 255] ({ base with ep := { base.ep with link := 2, funcs := [(0, { Func.reset with memSpace := true, busMaster := true, rrs := false })] } })), (ask 0x1602 0 [1, 255]), by unfold Asks Canonical MailboxForm DictForm TablesForm FlowForm BufForm SchedForm EndpointForm PoldersForm CipherForm SiphonForm JournalForm EventsForm; decide +kernel⟩,
   ⟨0, (asks 0x1604 0 [] (base)), (ask 0x1604 0 []), by unfold Asks; decide +kernel⟩⟩

/-- The hypotheses of `Obligations.CounterRegisters` are met. -/
theorem test_CounterRegisters_met :
    (∃ n : Nat, ∃ v : Word32, ∃ s : State, barOpen s 0 = true ∧ n < 256 ∧ qualOk (bitsOf (v.toNat &&& 0x3FFF7FFF) 11 0) (bitsOf (v.toNat &&& 0x3FFF7FFF) 29 28) = true)
    ∧ (∃ n : Nat, ∃ v : Word32, ∃ s : State, barOpen s 0 = true ∧ n < 256 ∧ qualOk (bitsOf (v.toNat &&& 0x3FFF7FFF) 11 0) (bitsOf (v.toNat &&& 0x3FFF7FFF) 29 28) = false)
    ∧ (∃ n : Nat, ∃ s : State, barOpen s 0 = true ∧ n < 256)
    ∧ (∃ t : Nat, ∃ n : Nat, ∃ s : State, barOpen s 0 = true ∧ n < 256 ∧ (devCtr (advance t s) n).sel.toNat.testBit 12 = true)
    ∧ (∃ t : Nat, ∃ n : Nat, ∃ s : State, barOpen s 0 = true ∧ n < 256 ∧ (devCtr (advance t s) n).sel.toNat.testBit 12 = false) :=
  ⟨⟨(255), (0), ({ base with ep := { base.ep with link := 2, funcs := [(0, { Func.reset with memSpace := true, busMaster := true, msixEnable := true, rrs := false })] } }), by decide +kernel⟩,
   ⟨(255), (0xFFF), ({ base with ep := { base.ep with link := 2, funcs := [(0, { Func.reset with memSpace := true, busMaster := true, msixEnable := true, rrs := false })] } }), by decide +kernel⟩,
   ⟨(255), ({ base with ep := { base.ep with link := 2, funcs := [(0, { Func.reset with memSpace := true, busMaster := true, msixEnable := true, rrs := false })] } }), by decide +kernel⟩,
   ⟨(0), (255), (setDevCtr 255 { DevCtr.reset with sel := 0x1000 } ({ base with ep := { base.ep with link := 2, funcs := [(0, { Func.reset with memSpace := true, busMaster := true, msixEnable := true, rrs := false })] } })), by decide +kernel⟩,
   ⟨(0), (255), ({ base with ep := { base.ep with link := 2, funcs := [(0, { Func.reset with memSpace := true, busMaster := true, msixEnable := true, rrs := false })] } }), by decide +kernel⟩⟩

/-- Further clauses of `Obligations.CounterRegisters`. -/
theorem test_CounterRegisters_met_2 :
    (∃ t : Nat, ∃ n : Nat, ∃ s : State, barOpen s 0 = true ∧ n < 256 ∧ (devCtr (advance t s) n).sel.toNat.testBit 12 = false)
    ∧ (∃ k : Nat, ∃ s : State, barOpen s 0 = true ∧ k < 8)
    ∧ (∃ s : State, barOpen s 0 = true)
    ∧ (∃ s : State, barOpen s 0 = true)
    ∧ (Meets 0x1700 0 (fun d _ => beNat d ≤ 255)) :=
  ⟨⟨(0), (255), ({ base with ep := { base.ep with link := 2, funcs := [(0, { Func.reset with memSpace := true, busMaster := true, msixEnable := true, rrs := false })] } }), by decide +kernel⟩,
   ⟨(7), ({ base with ep := { base.ep with link := 2, funcs := [(0, { Func.reset with memSpace := true, busMaster := true, msixEnable := true, rrs := false })] } }), by decide +kernel⟩,
   ⟨({ base with ep := { base.ep with link := 2, funcs := [(0, { Func.reset with memSpace := true, busMaster := true, msixEnable := true, rrs := false })] } }), by decide +kernel⟩,
   ⟨({ base with ep := { base.ep with link := 2, funcs := [(0, { Func.reset with memSpace := true, busMaster := true, msixEnable := true, rrs := false })] } }), by decide +kernel⟩,
   ⟨0, (asks 0x1700 0 [0, 255] (base)), (ask 0x1700 0 [0, 255]), by unfold Asks; decide +kernel⟩⟩

/-- Further clauses of `Obligations.CounterRegisters`. -/
theorem test_CounterRegisters_met_3 :
    (∃ fn : Nat, ∃ s : State, barOpen s fn = true ∧ pageOpen s fn = true)
    ∧ (Meets 0x1710 0 (fun d s => beField d 0 2 ≤ 4095 ∧ byteAt d 2 ≤ 7 ∧ byteAt d 3 ≤ 3 ∧ qualOk (beField d 4 2) 3 = true ∧ (beField d 6 2 = 0xFFFF ∨ beField d 6 2 < (s.polder (beField d 0 2)).counts.vectors)))
    ∧ (Meets 0x1711 0 (fun d _ => beNat d ≤ 4095)) :=
  ⟨⟨(0), ({ base with ep := { base.ep with link := 2, funcs := [(0, { Func.reset with memSpace := true, busMaster := true, msixEnable := true, rrs := false })] } }), by decide +kernel⟩,
   ⟨0, (asks 0x1710 0 [0, 0, 7, 3, 3, 0x40, 0, 63] (base)), (ask 0x1710 0 [0, 0, 7, 3, 3, 0x40, 0, 63]), by unfold Asks; decide +kernel⟩,
   ⟨0, (asks 0x1711 0 [0x0F, 0xFF] (base)), (ask 0x1711 0 [0x0F, 0xFF]), by unfold Asks; decide +kernel⟩⟩

/-- The hypotheses of `Obligations.PolderLifecycle` are met. -/
theorem test_PolderLifecycle_met :
    (∃ n, n < 4096 ∧ Meets (0x3000 + n) 0x10 (fun _ s => Canonical s ∧ ((s.polder n).state = 0 ∨ (s.polder n).state = 3) ∧ ((stagedCounts s n).queues ≠ 0 ∨ noMinima (stagedCounts s n) = true) ∧ (s.func n).flr = false ∧ (s.polder n).gen < 0xFFFFFFFF ∧ shareFits s false Counts.zero (stagedCounts s n) = true))
    ∧ (∃ n, n < 4096 ∧ Meets (0x3000 + n) 0x10 (fun _ s => (stagedCounts s n).queues = 0 ∧ noMinima (stagedCounts s n) = false))
    ∧ (∃ n, n < 4096 ∧ Meets (0x3000 + n) 0x10 (fun _ s => ((stagedCounts s n).queues ≠ 0 ∨ noMinima (stagedCounts s n) = true) ∧ (s.polder n).state ≠ 0 ∧ (s.polder n).state ≠ 3))
    ∧ (∃ n, n < 4096 ∧ Meets (0x3000 + n) 0x10 (fun _ s => ((s.polder n).state = 0 ∨ (s.polder n).state = 3) ∧ (s.func n).flr = false ∧ ((stagedCounts s n).queues ≠ 0 ∨ noMinima (stagedCounts s n) = true) ∧ (0xFFFFFFFF ≤ (s.polder n).gen ∨ shareFits s false Counts.zero (stagedCounts s n) = false)))
    ∧ (∃ n, n < 4096 ∧ Meets (0x3000 + n) 0x10 (fun _ s => ((s.polder n).state = 0 ∨ (s.polder n).state = 3) ∧ (s.func n).flr = false ∧ ((stagedCounts s n).queues ≠ 0 ∨ noMinima (stagedCounts s n) = true) ∧ (s.polder n).gen < 0xFFFFFFFF ∧ shareFits s false Counts.zero (stagedCounts s n) = true)) :=
  ⟨⟨4095, by decide, 0, (asks (0x3000 + 4095) 0x10 [] (base)), (ask (0x3000 + 4095) 0x10 []), by unfold Asks Canonical MailboxForm DictForm TablesForm FlowForm BufForm SchedForm EndpointForm PoldersForm CipherForm SiphonForm JournalForm EventsForm; decide +kernel⟩,
   ⟨4095, by decide, 0, (asks (0x3000 + 4095) 0x10 [] (having [(0x3FFF, 2, [0, 0]), (0x3FFF, 9, [0, 0, 0, 1] ++ zeros 12)] base)), (ask (0x3000 + 4095) 0x10 []), by unfold Asks; decide +kernel⟩,
   ⟨4095, by decide, 0, (asks (0x3000 + 4095) 0x10 [] ((base.setPolder 4095 { Polder.reset with state := 1 }))), (ask (0x3000 + 4095) 0x10 []), by unfold Asks; decide +kernel⟩,
   ⟨4095, by decide, 0, (asks (0x3000 + 4095) 0x10 [] ((base.setPolder 4095 { Polder.reset with gen := 0xFFFFFFFF }))), (ask (0x3000 + 4095) 0x10 []), by unfold Asks; decide +kernel⟩,
   ⟨4095, by decide, 0, (asks (0x3000 + 4095) 0x10 [] (base)), (ask (0x3000 + 4095) 0x10 []), by unfold Asks; decide +kernel⟩⟩

/-- Further clauses of `Obligations.PolderLifecycle`. -/
theorem test_PolderLifecycle_met_2 :
    (∃ n, n < 4096 ∧ Meets (0x3000 + n) 0x11 (fun _ s => Canonical s ∧ (s.polder n).state = 1 ∧ (adjustedCounts s n).vectors = (s.polder n).counts.vectors ∧ loweredInUse s n (adjustedCounts s n) = false ∧ ((adjustedCounts s n).queues ≠ 0 ∨ noMinima (adjustedCounts s n) = true) ∧ (s.func n).flr = false ∧ (s.polder n).gen < 0xFFFFFFFF ∧ shareFits s (s.polder n).owner.isSome (s.polder n).counts (adjustedCounts s n) = true))
    ∧ (∃ n, n < 4096 ∧ Meets (0x3000 + n) 0x11 (fun _ s => (s.polder n).state ≠ 1 ∨ (adjustedCounts s n).vectors ≠ (s.polder n).counts.vectors ∨ loweredInUse s n (adjustedCounts s n) = true))
    ∧ (∃ n, 0 < n ∧ n < 4096 ∧ Meets (0x3000 + n) 0x12 (fun _ s => Canonical s ∧ (s.polder n).state = 1 ∧ (s.func n).flr = false))
    ∧ (∃ n, n < 4096 ∧ Meets (0x3000 + n) 0x12 (fun _ s => n = 0 ∨ (s.polder n).state ≠ 1))
    ∧ (∃ n : Nat, ∃ s : State, Canonical s ∧ 0 < n ∧ n < 4096 ∧ (s.polder n).state = 2) :=
  ⟨⟨4095, by decide, 0, (asks (0x3000 + 4095) 0x11 [] ((base.setPolder 4095 { Polder.reset with state := 1 }))), (ask (0x3000 + 4095) 0x11 []), by unfold Asks Canonical MailboxForm DictForm TablesForm FlowForm BufForm SchedForm EndpointForm PoldersForm CipherForm SiphonForm JournalForm EventsForm; decide +kernel⟩,
   ⟨4095, by decide, 0, (asks (0x3000 + 4095) 0x11 [] (base)), (ask (0x3000 + 4095) 0x11 []), by unfold Asks; decide +kernel⟩,
   ⟨4095, by decide, by decide, 0, (asks (0x3000 + 4095) 0x12 [] (base.setPolder 4095 { Polder.reset with state := 1 })), (ask (0x3000 + 4095) 0x12 []), by unfold Asks Canonical MailboxForm DictForm TablesForm FlowForm BufForm SchedForm EndpointForm PoldersForm CipherForm SiphonForm JournalForm EventsForm; decide +kernel⟩,
   ⟨0, by decide, 0, (asks (0x3000 + 0) 0x12 [] (base)), (ask (0x3000 + 0) 0x12 []), by unfold Asks; decide +kernel⟩,
   ⟨(4095), ((base.setPolder 4095 { Polder.reset with state := 2 })), by unfold Canonical MailboxForm DictForm TablesForm FlowForm BufForm SchedForm EndpointForm PoldersForm CipherForm SiphonForm JournalForm EventsForm; decide +kernel⟩⟩

/-- Further clauses of `Obligations.PolderLifecycle`. -/
theorem test_PolderLifecycle_met_3 :
    (∃ n : Nat, ∃ s : State, (s.polder n).state ≠ 2) :=
  ⟨(4095), (base), by decide +kernel⟩

/-- The hypotheses of `Obligations.PolderRecords` are met. -/
theorem test_PolderRecords_met :
    (Meets 0x4082 0 (fun d _ => beNat d ≤ 4095 ∨ beNat d = 0xFFFF))
    ∧ (Meets 0x4083 0 (fun d s => beField d 0 2 ≤ 4095 ∧ beField d 2 2 ≤ 4095 ∧ (s.polder (beField d 2 2)).state = 1 ∧ beField d 6 2 ≤ 1024 ∧ beField d 4 2 + beField d 6 2 ≤ (s.polder (beField d 2 2)).counts.queues))
    ∧ (Meets 0x4083 0 (fun d s => beField d 2 2 ≤ 4095 ∧ (s.polder (beField d 2 2)).state ≠ 1))
    ∧ (Meets 0x4084 0 (fun d _ => beNat d ≤ 4095))
    ∧ (Meets 0x4010 0 (fun d _ => beNat d ≤ 4095)) :=
  ⟨⟨0, (asks 0x4082 0 [0xFF, 0xFF] (base)), (ask 0x4082 0 [0xFF, 0xFF]), by unfold Asks; decide +kernel⟩,
   ⟨0, (asks 0x4083 0 [0x0F, 0xFF, 0, 0, 0, 0, 0, 64] (base)), (ask 0x4083 0 [0x0F, 0xFF, 0, 0, 0, 0, 0, 64]), by unfold Asks; decide +kernel⟩,
   ⟨0, (asks 0x4083 0 [0, 0, 0x0F, 0xFF, 0, 0, 0, 0] (base)), (ask 0x4083 0 [0, 0, 0x0F, 0xFF, 0, 0, 0, 0]), by unfold Asks; decide +kernel⟩,
   ⟨0, (asks 0x4084 0 [0x0F, 0xFF] (base)), (ask 0x4084 0 [0x0F, 0xFF]), by unfold Asks; decide +kernel⟩,
   ⟨0, (asks 0x4010 0 [0x0F, 0xFF] (base)), (ask 0x4010 0 [0x0F, 0xFF]), by unfold Asks; decide +kernel⟩⟩

/-- Further clauses of `Obligations.PolderRecords`. -/
theorem test_PolderRecords_met_2 :
    (Meets 0x4091 0 (fun d s => beField d 0 2 ≤ 4095 ∧ beField d 2 2 < (s.polder (beField d 0 2)).counts.queues))
    ∧ (∃ g : Nat, Meets 0x4110 0 (fun d s => beField d 0 2 ≤ 4095 ∧ beField d 2 2 < (s.polder (beField d 0 2)).counts.keySlots ∧ globalOf s (beField d 0 2) 2 (beField d 2 2) = some g))
    ∧ (∃ g : Nat, Meets 0x4210 0 (fun d s => beField d 0 2 ≤ 4095 ∧ beField d 2 2 < (s.polder (beField d 0 2)).counts.channels ∧ globalOf s (beField d 0 2) 3 (beField d 2 2) = some g)) :=
  ⟨⟨0, (asks 0x4091 0 [0, 0, 0, 63] (base)), (ask 0x4091 0 [0, 0, 0, 63]), by unfold Asks; decide +kernel⟩,
   ⟨127, 0, (asks 0x4110 0 [0, 0, 0, 127] (base)), (ask 0x4110 0 [0, 0, 0, 127]), by unfold Asks; decide +kernel⟩,
   ⟨9, 0, (asks 0x4210 0 [0x0F, 0xFF, 0, 0] (base.setPolder 4095 { Polder.reset with counts := { Counts.none with channels := 1 }, maps := [[], [], [], [9], [], [], []] })), (ask 0x4210 0 [0x0F, 0xFF, 0, 0]), by unfold Asks; decide +kernel⟩⟩

/-- The hypotheses of `Obligations.ConfigurationRequests` are met. -/
theorem test_ConfigurationRequests_met :
    (∃ fn : Nat, ∃ s : State, s.ep.link = 2 ∧ fnExists s fn = true ∧ (s.func fn).rrs = false ∧ (s.func fn).flr = false)
    ∧ (∃ fn : Nat, ∃ s : State, s.ep.link = 2 ∧ fnExists s fn = true ∧ (s.func fn).rrs = false ∧ (s.func fn).flr = true)
    ∧ (∃ fn : Nat, ∃ s : State, s.ep.link = 2 ∧ fnExists s fn = true ∧ (s.func fn).rrs = false ∧ (s.func fn).flr = false)
    ∧ (∃ fn : Nat, ∃ s : State, s.ep.link = 2 ∧ fnExists s fn = true ∧ (s.func fn).rrs = false ∧ (s.func fn).flr = false)
    ∧ (∃ fn : Nat, ∃ s : State, s.ep.link = 2 ∧ fnExists s fn = true ∧ (s.func fn).rrs = false ∧ (s.func fn).flr = false) :=
  ⟨⟨(0), ({ base with ep := { base.ep with link := 2, funcs := [(0, { Func.reset with memSpace := true, busMaster := true, msixEnable := true, rrs := false })] } }), by decide +kernel⟩,
   ⟨(4095), ({ base with ep := { base.ep with link := 2, vfEnable := true, numVfs := 4095, funcs := [(0, { Func.reset with memSpace := true, busMaster := true, msixEnable := true, rrs := false }), (4095, { Func.reset with memSpace := true, busMaster := true, msixEnable := true, flr := true, rrs := false })] } }), by decide +kernel⟩,
   ⟨(0), ({ base with ep := { base.ep with link := 2, funcs := [(0, { Func.reset with memSpace := true, busMaster := true, msixEnable := true, rrs := false })] } }), by decide +kernel⟩,
   ⟨(0), ({ base with ep := { base.ep with link := 2, funcs := [(0, { Func.reset with memSpace := true, busMaster := true, msixEnable := true, rrs := false })] } }), by decide +kernel⟩,
   ⟨(0), ({ base with ep := { base.ep with link := 2, funcs := [(0, { Func.reset with memSpace := true, busMaster := true, msixEnable := true, rrs := false })] } }), by decide +kernel⟩⟩

/-- Further clauses of `Obligations.ConfigurationRequests`. -/
theorem test_ConfigurationRequests_met_2 :
    (∃ fn : Nat, ∃ s : State, s.ep.link = 2 ∧ fnExists s fn = true ∧ (s.func fn).rrs = false ∧ (s.func fn).flr = false)
    ∧ (∃ fn : Nat, ∃ s : State, s.ep.link = 2 ∧ fnExists s fn = true ∧ (s.func fn).rrs = false ∧ (s.func fn).flr = false)
    ∧ (∃ fn : Nat, ∃ v : Nat, ∃ s : State, s.ep.link = 2 ∧ fnExists s fn = true ∧ (s.func fn).rrs = false ∧ (s.func fn).flr = false ∧ v ≤ 2)
    ∧ (∃ fn : Nat, ∃ v : Nat, ∃ s : State, s.ep.link = 2 ∧ fnExists s fn = true ∧ (s.func fn).rrs = false ∧ (s.func fn).flr = false ∧ v ≤ 5)
    ∧ (∃ fn : Nat, ∃ s : State, s.ep.link = 2 ∧ fnExists s fn = true ∧ (s.func fn).rrs = false ∧ (s.func fn).flr = false) :=
  ⟨⟨(0), ({ base with ep := { base.ep with link := 2, funcs := [(0, { Func.reset with memSpace := true, busMaster := true, msixEnable := true, rrs := false })] } }), by decide +kernel⟩,
   ⟨(0), ({ base with ep := { base.ep with link := 2, funcs := [(0, { Func.reset with memSpace := true, busMaster := true, msixEnable := true, rrs := false })] } }), by decide +kernel⟩,
   ⟨(0), (2), (host), by decide +kernel⟩,
   ⟨(0), (5), (host), by decide +kernel⟩,
   ⟨(0), (host), by decide +kernel⟩⟩

/-- Further clauses of `Obligations.ConfigurationRequests`. -/
theorem test_ConfigurationRequests_met_3 :
    (∃ t : Nat, ∃ fn : Nat, ∃ s : State, s.ep.link = 2 ∧ fnExists s fn = true ∧ fn ≠ 0 ∧ (s.func fn).rrs = true ∧ (s.func fn).flr = false ∧ s.ep.vfAt + 10 ^ 14 ≤ t)
    ∧ (∃ n : Nat, ∃ s : State, fnServed s 0 = true ∧ s.ep.vfEnable = false ∧ n ≤ 4095)
    ∧ (∃ fn : Nat, ∃ s : State, Canonical s ∧ fnServed s fn = true ∧ (s.func fn).busMaster = true)
    ∧ (∃ s : State, fnServed s 0 = true)
    ∧ (∃ fn : Nat, ∃ s : State, Canonical s ∧ fnServed s fn = true) :=
  ⟨⟨(100000000000000), (4095), ({ base with ep := { base.ep with link := 2, vfEnable := true, numVfs := 4095, funcs := [(0, { Func.reset with memSpace := true, busMaster := true, msixEnable := true, rrs := false }), (4095, { Func.reset with memSpace := true, busMaster := true, rrs := true })] } }), by decide +kernel⟩,
   ⟨(4095), ({ base with ep := { base.ep with link := 2, funcs := [(0, { Func.reset with memSpace := true, busMaster := true, msixEnable := true, rrs := false })] } }), by decide +kernel⟩,
   ⟨(4095), ({ base with ep := { base.ep with link := 2, vfEnable := true, numVfs := 4095, funcs := [(0, { Func.reset with memSpace := true, busMaster := true, msixEnable := true, rrs := false }), (4095, { Func.reset with memSpace := true, busMaster := true, msixEnable := true, rrs := false })] } }), by unfold Canonical MailboxForm DictForm TablesForm FlowForm BufForm SchedForm EndpointForm PoldersForm CipherForm SiphonForm JournalForm EventsForm; decide +kernel⟩,
   ⟨({ base with ep := { base.ep with link := 2, funcs := [(0, { Func.reset with memSpace := true, busMaster := true, msixEnable := true, rrs := false })] } }), by decide +kernel⟩,
   ⟨(4095), ({ base with ep := { base.ep with link := 2, vfEnable := true, numVfs := 4095, funcs := [(0, { Func.reset with memSpace := true, busMaster := true, msixEnable := true, rrs := false }), (4095, { Func.reset with memSpace := true, busMaster := true, msixEnable := true, rrs := false })] } }), by unfold Canonical MailboxForm DictForm TablesForm FlowForm BufForm SchedForm EndpointForm PoldersForm CipherForm SiphonForm JournalForm EventsForm; decide +kernel⟩⟩

/-- Further clauses of `Obligations.ConfigurationRequests`. -/
theorem test_ConfigurationRequests_met_4 :
    (∃ fn : Nat, ∃ vec : Nat, ∃ s : State, Canonical s ∧ barOpen s fn = true ∧ vec < msixSize s fn ∧ (s.func fn).msixEnable = false)
    ∧ (∃ fn : Nat, ∃ vec : Nat, ∃ s : State, Canonical s ∧ barOpen s fn = true ∧ vec < msixSize s fn ∧ vec < 2048 ∧ (s.func fn).msixEnable = true)
    ∧ (∃ t : Nat, ∃ fn : Nat, ∃ vec : Nat, ∃ x : MsixEntry, ∃ s : State, t ≤ s.clock ∧ barOpen s fn = true ∧ vec < msixSize s fn ∧ vec < 2048 ∧ (s.func fn).msixEnable = true ∧ (s.func fn).busMaster = true ∧ (s.func fn).msixMask = false ∧ (s.func fn).d3hot = false ∧ (s.func fn).flr = false ∧ s.ep.link = 2 ∧ s.ep.msix = [(msixKey fn vec, x)] ∧ x.pending = true)
    ∧ (∃ s : State, Canonical s ∧ fnServed s 0 = true)
    ∧ (∃ s : State, Canonical s ∧ fnServed s 0 = true) :=
  ⟨⟨(0), (63), ({ base with ep := { base.ep with link := 2, funcs := [(0, { Func.reset with memSpace := true, busMaster := true, rrs := false })] } }), by unfold Canonical MailboxForm DictForm TablesForm FlowForm BufForm SchedForm EndpointForm PoldersForm CipherForm SiphonForm JournalForm EventsForm; decide +kernel⟩,
   ⟨(0), (63), ({ base with ep := { base.ep with link := 2, funcs := [(0, { Func.reset with memSpace := true, busMaster := true, msixEnable := true, rrs := false })] } }), by unfold Canonical MailboxForm DictForm TablesForm FlowForm BufForm SchedForm EndpointForm PoldersForm CipherForm SiphonForm JournalForm EventsForm; decide +kernel⟩,
   ⟨(0), (0), (63), ({ MsixEntry.reset with pending := true }), ({ ({ base with ep := { base.ep with link := 2, funcs := [(0, { Func.reset with memSpace := true, busMaster := true, msixEnable := true, rrs := false })] } }) with ep := { ({ base with ep := { base.ep with link := 2, funcs := [(0, { Func.reset with memSpace := true, busMaster := true, msixEnable := true, rrs := false })] } }).ep with msix := [(msixKey 0 63, { MsixEntry.reset with pending := true })] } }), by decide +kernel⟩,
   ⟨({ base with ep := { base.ep with link := 2, funcs := [(0, { Func.reset with memSpace := true, busMaster := true, msixEnable := true, rrs := false })] } }), by unfold Canonical MailboxForm DictForm TablesForm FlowForm BufForm SchedForm EndpointForm PoldersForm CipherForm SiphonForm JournalForm EventsForm; decide +kernel⟩,
   ⟨({ base with ep := { base.ep with link := 2, funcs := [(0, { Func.reset with memSpace := true, busMaster := true, msixEnable := true, rrs := false })] } }), by unfold Canonical MailboxForm DictForm TablesForm FlowForm BufForm SchedForm EndpointForm PoldersForm CipherForm SiphonForm JournalForm EventsForm; decide +kernel⟩⟩

/-- Further clauses of `Obligations.ConfigurationRequests`. -/
theorem test_ConfigurationRequests_met_5 :
    (∃ s : State, Canonical s ∧ fnServed s 0 = true) :=
  ⟨({ base with ep := { base.ep with link := 2, funcs := [(0, { Func.reset with memSpace := true, busMaster := true, msixEnable := true, rrs := false })] } }), by unfold Canonical MailboxForm DictForm TablesForm FlowForm BufForm SchedForm EndpointForm PoldersForm CipherForm SiphonForm JournalForm EventsForm; decide +kernel⟩

/-- The hypotheses of `Obligations.HostResets` are met. -/
theorem test_HostResets_met :
    (∃ fn : Nat, ∃ s : State, Canonical s ∧ fnServed s fn = true ∧ fn ≠ 0)
    ∧ (∃ s : State, Canonical s ∧ fnServed s 0 = true)
    ∧ (∃ t : Nat, ∃ fn : Nat, ∃ s : State, Canonical s ∧ (s.func fn).flr = true ∧ (s.func fn).flrCapped = false ∧ (s.func fn).flrAt + 90 * 10 ^ 12 ≤ t)
    ∧ (∃ fn : Nat, ∃ s : State, fnServed s fn = false)
    ∧ (∃ fn : Nat, ∃ s : State, (s.func fn).flr = false) :=
  ⟨⟨(4095), ({ base with ep := { base.ep with link := 2, vfEnable := true, numVfs := 4095, funcs := [(0, { Func.reset with memSpace := true, busMaster := true, msixEnable := true, rrs := false }), (4095, { Func.reset with memSpace := true, busMaster := true, msixEnable := true, rrs := false })] } }), by unfold Canonical MailboxForm DictForm TablesForm FlowForm BufForm SchedForm EndpointForm PoldersForm CipherForm SiphonForm JournalForm EventsForm; decide +kernel⟩,
   ⟨({ base with ep := { base.ep with link := 2, funcs := [(0, { Func.reset with memSpace := true, busMaster := true, msixEnable := true, rrs := false })] } }), by unfold Canonical MailboxForm DictForm TablesForm FlowForm BufForm SchedForm EndpointForm PoldersForm CipherForm SiphonForm JournalForm EventsForm; decide +kernel⟩,
   ⟨(90000000000000), (1), ({ base with ep := { base.ep with funcs := [(1, { Func.reset with flr := true })] } }), by unfold Canonical MailboxForm DictForm TablesForm FlowForm BufForm SchedForm EndpointForm PoldersForm CipherForm SiphonForm JournalForm EventsForm; decide +kernel⟩,
   ⟨(4095), (base), by decide +kernel⟩,
   ⟨(4095), (base), by decide +kernel⟩⟩

/-- Further clauses of `Obligations.HostResets`. -/
theorem test_HostResets_met_2 :
    (∃ fn : Nat, ∃ s : State, (s.func fn).flr = false)
    ∧ (∃ t : Nat, ∃ fn : Nat, ∃ s : State, (s.func fn).flr = true ∧ t < (s.func fn).flrAt + 90 * 10 ^ 12)
    ∧ (∃ fn : Nat, ∃ s : State, (s.func fn).flr = true)
    ∧ (∃ s : State, s.ep.link = 2)
    ∧ (∃ s : State, (s.ep.link = 2 ∨ s.ep.link = 1)) :=
  ⟨⟨(4095), (base), by decide +kernel⟩,
   ⟨(89999999999999), (1), ({ base with ep := { base.ep with funcs := [(1, { Func.reset with flr := true })] } }), by decide +kernel⟩,
   ⟨(1), ({ base with ep := { base.ep with funcs := [(1, { Func.reset with flr := true })] } }), by decide +kernel⟩,
   ⟨({ base with ep := { base.ep with link := 2, funcs := [(0, { Func.reset with memSpace := true, busMaster := true, msixEnable := true, rrs := false })] } }), by decide +kernel⟩,
   ⟨({ base with ep := { base.ep with link := 1 } }), by decide +kernel⟩⟩

/-- Further clauses of `Obligations.HostResets`. -/
theorem test_HostResets_met_3 :
    (∃ s : State, (s.ep.link = 0 ∨ s.ep.link = 3))
    ∧ (∃ speed : Nat, ∃ width : Nat, ∃ flit : Bool, ∃ s : State, (s.ep.link = 0 ∨ s.ep.link = 1) ∧ s.boot.started = true ∧ 1 ≤ speed ∧ speed ≤ 6 ∧ width ∈ [1, 2, 4, 8, 16] ∧ (speed = 6 → flit = true)) :=
  ⟨⟨({ base with ep := { base.ep with link := 3 } }), by decide +kernel⟩,
   ⟨(6), (16), (true), ({ base with boot := { base.boot with started := true } }), by decide +kernel⟩⟩

/-- The hypotheses of `Obligations.ReadCompletions` are met. -/
theorem test_ReadCompletions_met :
    (∃ tag : Nat, ∃ n : Nat, ∃ q : Nat, ∃ fn : Nat, ∃ data : Bytes, ∃ s : State, ∃ r : Read, Canonical s ∧ s.ep.link = 2 ∧ readAt s tag = some r ∧ r.dropped = false ∧ r.what = .entries n ∧ r.who.fn = fn ∧ r.who.q = some q ∧ data.length = r.len ∧ (s.ep.reads.filter (fun x => x.isFor r.who r.what) = [r]) ∧ (∀ x ∈ s.ep.reads, x.st ≠ .waiting) ∧ 0 < n ∧ (s.queue fn q).fetched < qSize (s.queue fn q))
    ∧ (∃ tag : Nat, ∃ q : Nat, ∃ fn : Nat, ∃ data : Bytes, ∃ b : Bytes, ∃ ch : Chain, ∃ s : State, ∃ r : Read, Canonical s ∧ s.ep.link = 2 ∧ readAt s tag = some r ∧ r.dropped = false ∧ r.what = .data ch.first ∧ r.who.fn = fn ∧ r.who.q = some q ∧ data.length = r.len ∧ (s.ep.reads.filter (fun x => x.isFor r.who r.what) = [r]) ∧ (∀ x ∈ s.ep.reads, x.st ≠ .waiting) ∧ txChain s fn q = some ch ∧ chainAt (s.queue fn q) ch.first = some ch ∧ 60 ≤ (ch.entries.map eLength).sum ∧ (ch.entries.map eLength).sum + 4 ≤ maxFrameSize s (txPort (ch.entries.headD [])) ∧ portMode s (txPort (ch.entries.headD [])) ≠ 0 ∧ (readRefused s fn q (ch.entries.map (fun e => (eAddr e, eLength e))) = false) ∧ (gather s (ch.entries.map (fun e => (eAddr e, eLength e))) data = some b))
    ∧ (∃ tag : Nat, ∃ q : Nat, ∃ fn : Nat, ∃ st : CplStatus, ∃ s : State, ∃ r : Read, Canonical s ∧ s.ep.link = 2 ∧ readAt s tag = some r ∧ r.dropped = false ∧ (∃ n, r.what = .entries n ∨ r.what = .data n) ∧ r.who.fn = fn ∧ r.who.q = some q ∧ (∀ x ∈ s.ep.reads, x.st ≠ .waiting) ∧ (st = .ur ∨ st = .ca ∨ st = .poisoned) ∧ (s.queue fn q).st ≠ .error ∧ (s.queue fn q).st ≠ .disabled)
    ∧ (∃ tag : Nat, ∃ st : CplStatus, ∃ s : State, ∃ r : Read, s.ep.link = 2 ∧ readAt s tag = some r ∧ r.dropped = true ∧ (∀ x ∈ s.ep.reads, x.st ≠ .waiting) ∧ (st = .ok ∨ st = .ur ∨ st = .ca))
    ∧ (∃ tag : Nat, ∃ s : State, ∃ r : Read, Canonical s ∧ s.ep.link = 2 ∧ readAt s tag = some r) :=
  ⟨⟨(5), (1), (0), (0), (zeros 32), ((withQueue (queueOf 1 []) ({ host with ep := { (host).ep with reads := [{ who := { fn := 0, q := some 0, pasid := none }, what := .entries 1, part := 0, addr := 4096, len := 32, translated := false, st := .out 5 0, dropped := false }] } }))), ({ who := { fn := 0, q := some 0, pasid := none }, what := .entries 1, part := 0, addr := 4096, len := 32, translated := false, st := .out 5 0, dropped := false }), by unfold Canonical MailboxForm DictForm TablesForm FlowForm BufForm SchedForm EndpointForm PoldersForm CipherForm SiphonForm JournalForm EventsForm; decide +kernel⟩,
   ⟨(5), (0), (0), (zeros 60), ((gather ((withQueue (queueOf 1 [chain [entry 1 3 60 4096 (zeros 16)]]) (having [(0x2000, 1, [1])] { host with ep := { (host).ep with reads := [{ who := { fn := 0, q := some 0, pasid := none }, what := .data 0, part := 0, addr := 4096, len := 60, translated := false, st := .out 5 0, dropped := false }] } })) : State) ((chain [entry 1 3 60 4096 (zeros 16)]).entries.map (fun e => (eAddr e, eLength e))) (zeros 60)).getD []), (chain [entry 1 3 60 4096 (zeros 16)]), ((withQueue (queueOf 1 [chain [entry 1 3 60 4096 (zeros 16)]]) (having [(0x2000, 1, [1])] { host with ep := { (host).ep with reads := [{ who := { fn := 0, q := some 0, pasid := none }, what := .data 0, part := 0, addr := 4096, len := 60, translated := false, st := .out 5 0, dropped := false }] } }))), ({ who := { fn := 0, q := some 0, pasid := none }, what := .data 0, part := 0, addr := 4096, len := 60, translated := false, st := .out 5 0, dropped := false }), by unfold Canonical MailboxForm DictForm TablesForm FlowForm BufForm SchedForm EndpointForm PoldersForm CipherForm SiphonForm JournalForm EventsForm; decide +kernel⟩,
   ⟨(5), (0), (0), (.ur), ((withQueue (queueOf 1 []) ({ host with ep := { (host).ep with reads := [{ who := { fn := 0, q := some 0, pasid := none }, what := .entries 1, part := 0, addr := 4096, len := 32, translated := false, st := .out 5 0, dropped := false }] } }))), ({ who := { fn := 0, q := some 0, pasid := none }, what := .entries 1, part := 0, addr := 4096, len := 32, translated := false, st := .out 5 0, dropped := false }), by unfold Canonical MailboxForm DictForm TablesForm FlowForm BufForm SchedForm EndpointForm PoldersForm CipherForm SiphonForm JournalForm EventsForm; decide +kernel, by decide +kernel, by decide +kernel, by decide +kernel, ⟨1, .inl rfl⟩, by decide +kernel⟩,
   ⟨(5), (.ca), ((withQueue (queueOf 1 []) ({ host with ep := { (host).ep with reads := [{ who := { fn := 0, q := some 0, pasid := none }, what := .entries 1, part := 0, addr := 4096, len := 32, translated := false, st := .out 5 0, dropped := true }] } }))), ({ who := { fn := 0, q := some 0, pasid := none }, what := .entries 1, part := 0, addr := 4096, len := 32, translated := false, st := .out 5 0, dropped := true }), by decide +kernel⟩,
   ⟨(5), ((withQueue (queueOf 1 []) ({ host with ep := { (host).ep with reads := [{ who := { fn := 0, q := some 0, pasid := none }, what := .entries 1, part := 0, addr := 4096, len := 32, translated := false, st := .out 5 0, dropped := false }] } }))), ({ who := { fn := 0, q := some 0, pasid := none }, what := .entries 1, part := 0, addr := 4096, len := 32, translated := false, st := .out 5 0, dropped := false }), by unfold Canonical MailboxForm DictForm TablesForm FlowForm BufForm SchedForm EndpointForm PoldersForm CipherForm SiphonForm JournalForm EventsForm; decide +kernel⟩⟩

/-- Further clauses of `Obligations.ReadCompletions`. -/
theorem test_ReadCompletions_met_2 :
    (∃ tag : Nat, ∃ data : Bytes, ∃ s : State, ∃ r : Read, Canonical s ∧ s.ep.link = 2 ∧ readAt s tag = some r ∧ r.dropped = false ∧ data.length ≠ r.len)
    ∧ (∃ tag : Nat, ∃ s : State, ∃ r : Read, Canonical s ∧ s.ep.link = 2 ∧ readAt s tag = some r ∧ (s.func r.who.fn).ecrcCheck = true)
    ∧ (∃ tag : Nat, ∃ s : State, ∃ r : Read, Canonical s ∧ s.ep.link = 2 ∧ readAt s tag = some r ∧ (s.func r.who.fn).ecrcCheck = false)
    ∧ (∃ tag : Nat, ∃ s : State, Canonical s ∧ s.ep.link = 2 ∧ readAt s tag = none)
    ∧ (∃ t : Nat, ∃ tag : Nat, ∃ q : Nat, ∃ fn : Nat, ∃ s : State, ∃ r : Read, Canonical s ∧ readAt s tag = some r ∧ r.dropped = false ∧ (∃ n, r.what = .entries n ∨ r.what = .data n) ∧ r.who.fn = fn ∧ r.who.q = some q ∧ r.since + timeoutFs s fn ≤ t ∧ (s.queue fn q).st ≠ .error ∧ (s.queue fn q).st ≠ .disabled) :=
  ⟨⟨(5), ([]), ((withQueue (queueOf 1 []) ({ host with ep := { (host).ep with reads := [{ who := { fn := 0, q := some 0, pasid := none }, what := .entries 1, part := 0, addr := 4096, len := 32, translated := false, st := .out 5 0, dropped := false }] } }))), ({ who := { fn := 0, q := some 0, pasid := none }, what := .entries 1, part := 0, addr := 4096, len := 32, translated := false, st := .out 5 0, dropped := false }), by unfold Canonical MailboxForm DictForm TablesForm FlowForm BufForm SchedForm EndpointForm PoldersForm CipherForm SiphonForm JournalForm EventsForm; decide +kernel⟩,
   ⟨(5), ((withQueue (queueOf 1 []) ({ host with ep := { (host).ep with reads := [{ who := { fn := 0, q := some 0, pasid := none }, what := .entries 1, part := 0, addr := 4096, len := 32, translated := false, st := .out 5 0, dropped := false }], funcs := [(0, { Func.reset with memSpace := true, ecrcCheck := true })] } }))), ({ who := { fn := 0, q := some 0, pasid := none }, what := .entries 1, part := 0, addr := 4096, len := 32, translated := false, st := .out 5 0, dropped := false }), by unfold Canonical MailboxForm DictForm TablesForm FlowForm BufForm SchedForm EndpointForm PoldersForm CipherForm SiphonForm JournalForm EventsForm; decide +kernel⟩,
   ⟨(5), ((withQueue (queueOf 1 []) ({ host with ep := { (host).ep with reads := [{ who := { fn := 0, q := some 0, pasid := none }, what := .entries 1, part := 0, addr := 4096, len := 32, translated := false, st := .out 5 0, dropped := false }] } }))), ({ who := { fn := 0, q := some 0, pasid := none }, what := .entries 1, part := 0, addr := 4096, len := 32, translated := false, st := .out 5 0, dropped := false }), by unfold Canonical MailboxForm DictForm TablesForm FlowForm BufForm SchedForm EndpointForm PoldersForm CipherForm SiphonForm JournalForm EventsForm; decide +kernel⟩,
   ⟨(5), (host), by unfold Canonical MailboxForm DictForm TablesForm FlowForm BufForm SchedForm EndpointForm PoldersForm CipherForm SiphonForm JournalForm EventsForm; decide +kernel⟩,
   ⟨(32000000000000), (5), (0), (0), ((withQueue (queueOf 1 []) ({ host with ep := { (host).ep with reads := [{ who := { fn := 0, q := some 0, pasid := none }, what := .entries 1, part := 0, addr := 4096, len := 32, translated := false, st := .out 5 0, dropped := false }] } }))), ({ who := { fn := 0, q := some 0, pasid := none }, what := .entries 1, part := 0, addr := 4096, len := 32, translated := false, st := .out 5 0, dropped := false }), by unfold Canonical MailboxForm DictForm TablesForm FlowForm BufForm SchedForm EndpointForm PoldersForm CipherForm SiphonForm JournalForm EventsForm; decide +kernel, by decide +kernel, by decide +kernel, ⟨1, .inl rfl⟩, by decide +kernel⟩⟩

/-- Further clauses of `Obligations.ReadCompletions`. -/
theorem test_ReadCompletions_met_3 :
    (∃ t : Nat, ∃ tag : Nat, ∃ s : State, ∃ r : Read, readAt s tag = some r ∧ t < r.since + timeoutFs s r.who.fn) :=
  ⟨(31999999999999), (5), ((withQueue (queueOf 1 []) ({ host with ep := { (host).ep with reads := [{ who := { fn := 0, q := some 0, pasid := none }, what := .entries 1, part := 0, addr := 4096, len := 32, translated := false, st := .out 5 0, dropped := false }] } }))), ({ who := { fn := 0, q := some 0, pasid := none }, what := .entries 1, part := 0, addr := 4096, len := 32, translated := false, st := .out 5 0, dropped := false }), by decide +kernel⟩

/-- The hypotheses of `Obligations.TranslationServices` are met. -/
theorem test_TranslationServices_met :
    (∃ fn : Nat, ∃ q : Nat, ∃ page : Nat, ∃ a : Requester × Nat, ∃ s : State, askedFor s fn q page = some a ∧ ((s.ep.cached.filter (fun y => decide (y.fn ≠ fn ∨ y.pasid ≠ a.1.pasid ∨ y.page ≠ page))).length < 16384))
    ∧ (∃ fn : Nat, ∃ q : Nat, ∃ page : Nat, ∃ s : State, askedFor s fn q page = none)
    ∧ (∃ t : Nat, ∃ fn : Nat, ∃ q : Nat, ∃ page : Nat, ∃ a : Requester × Nat, ∃ s : State, Canonical s ∧ askedFor s fn q page = some a ∧ a.1.q = some q ∧ justInvalidated (advance t s) a.1 page = false ∧ (s.queue fn q).st ≠ .disabled ∧ (s.queue fn q).st ≠ .error ∧ (s.ep.pageReqs.any (fun r => decide (r.fn = fn ∧ r.q = q)) = false) ∧ ((s.func fn).pri = false ∨ (s.func fn).priStopped = true))
    ∧ (∃ t : Nat, ∃ fn : Nat, ∃ q : Nat, ∃ page : Nat, ∃ a : Requester × Nat, ∃ s : State, Canonical s ∧ askedFor s fn q page = some a ∧ a.1.q = some q ∧ justInvalidated (advance t s) a.1 page = false ∧ fnRuns s fn = true ∧ (s.queue fn q).st = .enabled ∧ (∀ r ∈ s.ep.pageReqs, r.fn ≠ fn) ∧ (s.func fn).pri = true ∧ (s.func fn).priStopped = false ∧ 1 ≤ (s.func fn).priAlloc)
    ∧ (∃ t : Nat, ∃ fn : Nat, ∃ q : Nat, ∃ page : Nat, ∃ a : Requester × Nat, ∃ s : State, askedFor s fn q page = some a ∧ s.ep.asked = [a] ∧ justInvalidated (advance t s) a.1 page = true ∧ (s.func fn).ats = true ∧ cachedPage s a.1 (4096 * page) = none) :=
  ⟨⟨(0), (0), (7), ((({ fn := 0, q := some 0, pasid := none } : Requester), 7)), ((withQueue (queueOf 1 []) ({ host with ep := { (host).ep with asked := [(({ fn := 0, q := some 0, pasid := none } : Requester), 7)], funcs := [(0, { Func.reset with memSpace := true, busMaster := true, rrs := false, ats := true })] } }))), by decide +kernel⟩,
   ⟨(0), (0), (7), ((withQueue (queueOf 1 []) ({ host with ep := { (host).ep with funcs := [(0, { Func.reset with memSpace := true, busMaster := true, rrs := false, ats := true, pri := true, priAlloc := 1 })] } }))), by decide +kernel⟩,
   ⟨(0), (0), (0), (7), ((({ fn := 0, q := some 0, pasid := none } : Requester), 7)), ((withQueue (queueOf 1 []) ({ host with ep := { (host).ep with asked := [(({ fn := 0, q := some 0, pasid := none } : Requester), 7)], funcs := [(0, { Func.reset with memSpace := true, busMaster := true, rrs := false, ats := true })] } }))), by unfold Canonical MailboxForm DictForm TablesForm FlowForm BufForm SchedForm EndpointForm PoldersForm CipherForm SiphonForm JournalForm EventsForm; decide +kernel⟩,
   ⟨(0), (0), (0), (7), ((({ fn := 0, q := some 0, pasid := none } : Requester), 7)), ((withQueue (queueOf 1 []) ({ host with ep := { (host).ep with asked := [(({ fn := 0, q := some 0, pasid := none } : Requester), 7)], funcs := [(0, { Func.reset with memSpace := true, busMaster := true, rrs := false, ats := true, pri := true, priAlloc := 1 })] } }))), by unfold Canonical MailboxForm DictForm TablesForm FlowForm BufForm SchedForm EndpointForm PoldersForm CipherForm SiphonForm JournalForm EventsForm; decide +kernel⟩,
   ⟨(0), (0), (0), (7), ((({ fn := 0, q := some 0, pasid := none } : Requester), 7)), ((withQueue (queueOf 1 []) ({ host with ep := { (host).ep with asked := [(({ fn := 0, q := some 0, pasid := none } : Requester), 7)], lastInval := some (0, none, 7, 0), funcs := [(0, { Func.reset with memSpace := true, busMaster := true, rrs := false, ats := true })] } }))), by decide +kernel⟩⟩

/-- Further clauses of `Obligations.TranslationServices`. -/
theorem test_TranslationServices_met_2 :
    (∃ fn : Nat, ∃ q : Nat, ∃ s : State, ∃ r : PageReq, Canonical s ∧ s.ep.link = 2 ∧ s.ep.pageReqs = [r] ∧ r.fn = fn ∧ r.q = q ∧ r.sentAt.isSome = true ∧ (s.queue fn q).st = .parked ∧ (s.queue fn q).waiting = [] ∧ (s.queue fn q).journalHold = false ∧ (s.queue fn q).bell = none)
    ∧ (∃ fn : Nat, ∃ q : Nat, ∃ s : State, ∃ r : PageReq, Canonical s ∧ s.ep.link = 2 ∧ s.ep.pageReqs = [r] ∧ r.fn = fn ∧ r.q = q ∧ r.sentAt.isSome = true ∧ (s.queue fn q).st = .parked)
    ∧ (∃ fn : Nat, ∃ q : Nat, ∃ s : State, ∃ r : PageReq, Canonical s ∧ s.ep.link = 2 ∧ s.ep.pageReqs = [r] ∧ r.fn = fn ∧ r.q = q ∧ r.sentAt.isSome = true ∧ (s.queue fn q).st = .parked)
    ∧ (∃ fn : Nat, ∃ q : Nat, ∃ s : State, s.ep.link = 2 ∧ pageReqOf s fn q = none)
    ∧ (∃ t : Nat, ∃ fn : Nat, ∃ q : Nat, ∃ s : State, ∃ r : PageReq, Canonical s ∧ pageReqOf s fn q = some r ∧ s.ep.pageReqs = [r] ∧ r.sentAt.getD 0 + cfgN s 0x4000 2 * 10 ^ 12 ≤ t ∧ (s.queue fn q).st = .parked) :=
  ⟨⟨(0), (0), ((withQueue ({ queueOf 1 [] with st := .parked }) ({ host with ep := { (host).ep with pageReqs := [{ fn := 0, q := 0, page := 7, sentAt := some 0 }] } }))), ({ fn := 0, q := 0, page := 7, sentAt := some 0 }), by unfold Canonical MailboxForm DictForm TablesForm FlowForm BufForm SchedForm EndpointForm PoldersForm CipherForm SiphonForm JournalForm EventsForm; decide +kernel⟩,
   ⟨(0), (0), ((withQueue ({ queueOf 1 [] with st := .parked }) ({ host with ep := { (host).ep with pageReqs := [{ fn := 0, q := 0, page := 7, sentAt := some 0 }] } }))), ({ fn := 0, q := 0, page := 7, sentAt := some 0 }), by unfold Canonical MailboxForm DictForm TablesForm FlowForm BufForm SchedForm EndpointForm PoldersForm CipherForm SiphonForm JournalForm EventsForm; decide +kernel⟩,
   ⟨(0), (0), ((withQueue ({ queueOf 1 [] with st := .parked }) ({ host with ep := { (host).ep with pageReqs := [{ fn := 0, q := 0, page := 7, sentAt := some 0 }] } }))), ({ fn := 0, q := 0, page := 7, sentAt := some 0 }), by unfold Canonical MailboxForm DictForm TablesForm FlowForm BufForm SchedForm EndpointForm PoldersForm CipherForm SiphonForm JournalForm EventsForm; decide +kernel⟩,
   ⟨(0), (0), (host), by decide +kernel⟩,
   ⟨(3000000000000000000), (0), (0), ((withQueue ({ queueOf 1 [] with st := .parked }) ({ host with ep := { (host).ep with pageReqs := [{ fn := 0, q := 0, page := 7, sentAt := some 0 }] } }))), ({ fn := 0, q := 0, page := 7, sentAt := some 0 }), by unfold Canonical MailboxForm DictForm TablesForm FlowForm BufForm SchedForm EndpointForm PoldersForm CipherForm SiphonForm JournalForm EventsForm; decide +kernel⟩⟩

/-- Further clauses of `Obligations.TranslationServices`. -/
theorem test_TranslationServices_met_3 :
    (∃ t : Nat, ∃ fn : Nat, ∃ q : Nat, ∃ s : State, ∃ r : PageReq, pageReqOf s fn q = some r ∧ t < r.sentAt.getD 0 + cfgN s 0x4000 2 * 10 ^ 12)
    ∧ (∃ fn : Nat, ∃ s : State, fnServed s fn = true)
    ∧ (∃ fn : Nat, ∃ pasid : Nat, ∃ s : State, fnServed s fn = true ∧ s.ep.invalidations.length < 32 ∧ pasid < 2 ^ 20)
    ∧ (∃ fn : Nat, ∃ tag : Nat, ∃ s : State, (fn, tag, []) ∈ s.ep.invalidations)
    ∧ (∃ fn : Nat, ∃ tag : Nat, ∃ s : State, (fn, tag, []) ∉ s.ep.invalidations) :=
  ⟨⟨(0), (0), (0), ((withQueue ({ queueOf 1 [] with st := .parked }) ({ host with ep := { (host).ep with pageReqs := [{ fn := 0, q := 0, page := 7, sentAt := some 0 }] } }))), ({ fn := 0, q := 0, page := 7, sentAt := some 0 }), by decide +kernel⟩,
   ⟨(0), (host), by decide +kernel⟩,
   ⟨(0), (1048575), (host), by decide +kernel⟩,
   ⟨(0), (31), ({ host with ep := { (host).ep with invalidations := [(0, 31, [])] } }), by decide +kernel⟩,
   ⟨(0), (31), (host), by decide +kernel⟩⟩

/-- The hypotheses of `Obligations.QueueControl` are met. -/
theorem test_QueueControl_met :
    (∃ fn : Nat, ∃ q : Nat, ∃ s : State, Canonical s ∧ queueThere s fn q = true ∧ (s.queue fn q).resetting = false)
    ∧ (∃ fn : Nat, ∃ q : Nat, ∃ s : State, queueThere s fn q = true ∧ (s.queue fn q).resetting = true)
    ∧ (∃ fn : Nat, ∃ q : Nat, ∃ w : Nat, ∃ s : State, Canonical s ∧ queueThere s fn q = true ∧ (s.queue fn q).resetting = false ∧ (s.queue fn q).st = .disabled ∧ w < 16)
    ∧ (∃ fn : Nat, ∃ q : Nat, ∃ w : Nat, ∃ s : State, Canonical s ∧ queueThere s fn q = true ∧ (s.queue fn q).resetting = false ∧ (s.queue fn q).st = .disabled ∧ w < 16)
    ∧ (∃ fn : Nat, ∃ q : Nat, ∃ w : Nat, ∃ s : State, Canonical s ∧ queueThere s fn q = true ∧ (s.queue fn q).resetting = false ∧ (s.queue fn q).st ≠ .disabled ∧ w < 16) :=
  ⟨⟨(0), (63), (host), by unfold Canonical MailboxForm DictForm TablesForm FlowForm BufForm SchedForm EndpointForm PoldersForm CipherForm SiphonForm JournalForm EventsForm; decide +kernel⟩,
   ⟨(0), (0), ((withQueue ({ queueOf 1 [] with resetting := true }) (host))), by decide +kernel⟩,
   ⟨(0), (63), (15), (host), by unfold Canonical MailboxForm DictForm TablesForm FlowForm BufForm SchedForm EndpointForm PoldersForm CipherForm SiphonForm JournalForm EventsForm; decide +kernel⟩,
   ⟨(0), (63), (15), (host), by unfold Canonical MailboxForm DictForm TablesForm FlowForm BufForm SchedForm EndpointForm PoldersForm CipherForm SiphonForm JournalForm EventsForm; decide +kernel⟩,
   ⟨(0), (0), (15), ((withQueue (queueOf 1 []) (host))), by unfold Canonical MailboxForm DictForm TablesForm FlowForm BufForm SchedForm EndpointForm PoldersForm CipherForm SiphonForm JournalForm EventsForm; decide +kernel⟩⟩

/-- Further clauses of `Obligations.QueueControl`. -/
theorem test_QueueControl_met_2 :
    (∃ fn : Nat, ∃ q : Nat, ∃ w : Nat, ∃ s : State, Canonical s ∧ queueThere s fn q = true ∧ (s.queue fn q).resetting = false ∧ (s.queue fn q).st ≠ .disabled ∧ w < 16)
    ∧ (∃ fn : Nat, ∃ q : Nat, ∃ w : Nat, ∃ s : State, Canonical s ∧ queueThere s fn q = true ∧ (s.queue fn q).resetting = false ∧ (s.queue fn q).st ≠ .disabled ∧ w < 16)
    ∧ (∃ t : Nat, ∃ fn : Nat, ∃ q : Nat, ∃ x : Queue, ∃ s : State, Canonical s ∧ queueThere s fn q = true ∧ (s.queue fn q).resetting = false ∧ (s.queue fn q).st = .disabled ∧ x = { s.queue fn q with cmd := 3 } ∧ contextBad ((advance t s).setQueue fn q x) fn q x = false ∧ (qSamplePeriod x = 0 ∨ hostSampleOver ((advance t s).setQueue fn q x) (qSamplePeriod x) = false))
    ∧ (∃ t : Nat, ∃ fn : Nat, ∃ q : Nat, ∃ x : Queue, ∃ s : State, Canonical s ∧ queueThere s fn q = true ∧ (s.queue fn q).resetting = false ∧ (s.queue fn q).st = .disabled ∧ x = { s.queue fn q with cmd := 3 } ∧ contextBad ((advance t s).setQueue fn q x) fn q x = true)
    ∧ (∃ t : Nat, ∃ fn : Nat, ∃ q : Nat, ∃ x : Queue, ∃ s : State, Canonical s ∧ queueThere s fn q = true ∧ (s.queue fn q).resetting = false ∧ (s.queue fn q).st = .disabled ∧ x = { s.queue fn q with cmd := 3 } ∧ contextBad ((advance t s).setQueue fn q x) fn q x = false ∧ qSamplePeriod x ≠ 0 ∧ hostSampleOver ((advance t s).setQueue fn q x) (qSamplePeriod x) = true) :=
  ⟨⟨(0), (0), (15), ((withQueue (queueOf 1 []) (host))), by unfold Canonical MailboxForm DictForm TablesForm FlowForm BufForm SchedForm EndpointForm PoldersForm CipherForm SiphonForm JournalForm EventsForm; decide +kernel⟩,
   ⟨(0), (0), (15), ((withQueue (queueOf 1 []) (host))), by unfold Canonical MailboxForm DictForm TablesForm FlowForm BufForm SchedForm EndpointForm PoldersForm CipherForm SiphonForm JournalForm EventsForm; decide +kernel⟩,
   ⟨(0), (0), (0), ({ ({ Queue.reset with ctx := [(2, 1), (3, 1)] }) with ignored := false, cmd := 3 }), ((withQueue ({ Queue.reset with ctx := [(2, 1), (3, 1)] }) ((host).setQueue 0 1 { queueOf 3 [] with ctx := [(2, 3), (3, 0xFFFF)] }))), by unfold Canonical MailboxForm DictForm TablesForm FlowForm BufForm SchedForm EndpointForm PoldersForm CipherForm SiphonForm JournalForm EventsForm; decide +kernel⟩,
   ⟨(0), (0), (63), ({ Queue.reset with ignored := false, cmd := 3 }), (host), by unfold Canonical MailboxForm DictForm TablesForm FlowForm BufForm SchedForm EndpointForm PoldersForm CipherForm SiphonForm JournalForm EventsForm; decide +kernel⟩,
   ⟨(0), (0), (0), ({ ({ host with wq := { host.wq with queues := [(0, { Queue.reset with ctx := [(2, 1), (3, 1), (7, 1)] }), (1, { queueOf 3 [] with ctx := [(2, 3), (3, 0xFFFF)] })] ++ block 2 16 { Queue.reset with st := .enabled, ctx := [(2, 1), (3, 1), (7, 1)] } } } : State).queue (0) (0) with cmd := 3 }), ({ host with wq := { host.wq with queues := [(0, { Queue.reset with ctx := [(2, 1), (3, 1), (7, 1)] }), (1, { queueOf 3 [] with ctx := [(2, 3), (3, 0xFFFF)] })] ++ block 2 16 { Queue.reset with st := .enabled, ctx := [(2, 1), (3, 1), (7, 1)] } } }), by unfold Canonical MailboxForm DictForm TablesForm FlowForm BufForm SchedForm EndpointForm PoldersForm CipherForm SiphonForm JournalForm EventsForm; decide +kernel⟩⟩

/-- Further clauses of `Obligations.QueueControl`. -/
theorem test_QueueControl_met_3 :
    (∃ fn : Nat, ∃ q : Nat, ∃ s : State, Canonical s ∧ queueThere s fn q = true ∧ (s.queue fn q).resetting = false ∧ (qKind (s.queue fn q) ≠ kJOURNAL ∨ (s.queue fn q).chains = [] ∨ (s.queue fn q).st = .disabled))
    ∧ (∃ fn : Nat, ∃ q : Nat, ∃ s : State, Canonical s ∧ queueThere s fn q = true ∧ (s.queue fn q).resetting = false ∧ qKind (s.queue fn q) = kJOURNAL ∧ (s.queue fn q).chains ≠ [] ∧ (s.queue fn q).st ≠ .disabled)
    ∧ (∃ fn : Nat, ∃ q : Nat, ∃ s : State, Canonical s ∧ queueThere s fn q = true ∧ (s.queue fn q).resetting = false ∧ (s.queue fn q).st.live = true ∧ (s.queue fn q).waiting = [] ∧ (qKind (s.queue fn q) ≠ kCOMPLETION ∨ activeQueue s fn (fun _ y => isProducer (qKind y) && decide (qCq y = q)) = false))
    ∧ (∃ fn : Nat, ∃ q : Nat, ∃ s : State, Canonical s ∧ queueThere s fn q = true ∧ (s.queue fn q).resetting = false ∧ ((s.queue fn q).st.live = false ∨ (qKind (s.queue fn q) = kCOMPLETION ∧ activeQueue s fn (fun _ y => isProducer (qKind y) && decide (qCq y = q)) = true))) :=
  ⟨⟨(0), (0), ((withQueue (queueOf 1 []) (host))), by unfold Canonical MailboxForm DictForm TablesForm FlowForm BufForm SchedForm EndpointForm PoldersForm CipherForm SiphonForm JournalForm EventsForm; decide +kernel⟩,
   ⟨(0), (0), ((withQueue (queueOf 7 [chain [entry 0x30 3 0 0 (zeros 16)]]) (host))), by unfold Canonical MailboxForm DictForm TablesForm FlowForm BufForm SchedForm EndpointForm PoldersForm CipherForm SiphonForm JournalForm EventsForm; decide +kernel⟩,
   ⟨(0), (0), ((withQueue (queueOf 1 []) (host))), by unfold Canonical MailboxForm DictForm TablesForm FlowForm BufForm SchedForm EndpointForm PoldersForm CipherForm SiphonForm JournalForm EventsForm; decide +kernel⟩,
   ⟨(0), (63), (host), by unfold Canonical MailboxForm DictForm TablesForm FlowForm BufForm SchedForm EndpointForm PoldersForm CipherForm SiphonForm JournalForm EventsForm; decide +kernel⟩⟩

/-- The hypotheses of `Obligations.Doorbells` are met. -/
theorem test_Doorbells_met :
    (∃ fn : Nat, ∃ q : Nat, ∃ s : State, queueThere s fn q = true ∧ (s.queue fn q).st = .disabled)
    ∧ (∃ fn : Nat, ∃ q : Nat, ∃ s : State, queueThere s fn q = true ∧ (s.queue fn q).st = .disabled)
    ∧ (∃ t : Nat, ∃ fn : Nat, ∃ q : Nat, ∃ s : State, queueThere s fn q = true ∧ (((s.queue fn q).st = .error ∧ clockOf (s.queue fn q).errAt ≠ clockOf (advance t s).clock) ∨ (s.queue fn q).st = .draining))
    ∧ (∃ t : Nat, ∃ fn : Nat, ∃ q : Nat, ∃ s : State, queueThere s fn q = true ∧ (((s.queue fn q).st = .error ∧ clockOf (s.queue fn q).errAt ≠ clockOf (advance t s).clock) ∨ (s.queue fn q).st = .draining))
    ∧ (∃ t : Nat, ∃ fn : Nat, ∃ q : Nat, ∃ v : Nat, ∃ s : State, queueThere s fn q = true ∧ (s.queue fn q).st = .error ∧ clockOf (s.queue fn q).errAt = clockOf (advance t s).clock ∧ v < 65536 ∧ (s.queue fn q).status ≠ stMASTER_DISABLED) :=
  ⟨⟨(0), (63), (host), by decide +kernel⟩,
   ⟨(0), (63), (host), by decide +kernel⟩,
   ⟨(0), (0), (0), ((withQueue ({ queueOf 1 [] with st := .draining }) (host))), by decide +kernel⟩,
   ⟨(0), (0), (0), ((withQueue ({ queueOf 1 [] with st := .draining }) (host))), by decide +kernel⟩,
   ⟨(0), (0), (0), (65535), ((withQueue ({ queueOf 1 [] with st := .error }) (host))), by decide +kernel⟩⟩

/-- Further clauses of `Obligations.Doorbells`. -/
theorem test_Doorbells_met_2 :
    (∃ t : Nat, ∃ fn : Nat, ∃ q : Nat, ∃ v : Nat, ∃ s : State, queueThere s fn q = true ∧ (s.queue fn q).st = .error ∧ clockOf (s.queue fn q).errAt = clockOf (advance t s).clock ∧ v < 65536 ∧ (s.queue fn q).status ≠ stMASTER_DISABLED)
    ∧ (∃ fn : Nat, ∃ q : Nat, ∃ v : Nat, ∃ s : State, queueThere s fn q = true ∧ ((s.queue fn q).st = .held ∨ (s.queue fn q).st = .parked) ∧ v < 65536 ∧ isProducer (qKind (s.queue fn q)) = true)
    ∧ (∃ fn : Nat, ∃ q : Nat, ∃ v : Nat, ∃ s : State, queueThere s fn q = true ∧ ((s.queue fn q).st = .held ∨ (s.queue fn q).st = .parked) ∧ v < 65536 ∧ isProducer (qKind (s.queue fn q)) = false)
    ∧ (∃ fn : Nat, ∃ q : Nat, ∃ v : Nat, ∃ s : State, Canonical s ∧ queueThere s fn q = true ∧ isProducer (qKind (s.queue fn q)) = true ∧ (s.queue fn q).st = .enabled ∧ v < qSize (s.queue fn q) ∧ v < 65536 ∧ (v + qSize (s.queue fn q) - (s.queue fn q).tail) % qSize (s.queue fn q) ≤ qSize (s.queue fn q) - 1 - ((s.queue fn q).tail + qSize (s.queue fn q) - (s.queue fn q).head) % qSize (s.queue fn q))
    ∧ (∃ fn : Nat, ∃ q : Nat, ∃ v : Nat, ∃ s : State, Canonical s ∧ queueThere s fn q = true ∧ isProducer (qKind (s.queue fn q)) = true ∧ (s.queue fn q).st = .enabled ∧ v < 65536 ∧ (qSize (s.queue fn q) ≤ v ∨ qSize (s.queue fn q) - 1 - ((s.queue fn q).tail + qSize (s.queue fn q) - (s.queue fn q).head) % qSize (s.queue fn q) < (v + qSize (s.queue fn q) - (s.queue fn q).tail) % qSize (s.queue fn q))) :=
  ⟨⟨(0), (0), (0), (65535), ((withQueue ({ queueOf 3 [] with st := .error }) (host))), by decide +kernel⟩,
   ⟨(0), (0), (65535), ((withQueue ({ queueOf 1 [] with st := .held }) (host))), by decide +kernel⟩,
   ⟨(0), (0), (65535), ((withQueue ({ queueOf 3 [] with st := .parked }) (host))), by decide +kernel⟩,
   ⟨(0), (0), (63), ((withQueue (queueOf 1 []) (host))), by unfold Canonical MailboxForm DictForm TablesForm FlowForm BufForm SchedForm EndpointForm PoldersForm CipherForm SiphonForm JournalForm EventsForm; decide +kernel⟩,
   ⟨(0), (0), (64), ((withQueue (queueOf 1 []) (host))), by unfold Canonical MailboxForm DictForm TablesForm FlowForm BufForm SchedForm EndpointForm PoldersForm CipherForm SiphonForm JournalForm EventsForm; decide +kernel⟩⟩

/-- Further clauses of `Obligations.Doorbells`. -/
theorem test_Doorbells_met_3 :
    (∃ fn : Nat, ∃ q : Nat, ∃ v : Nat, ∃ s : State, Canonical s ∧ queueThere s fn q = true ∧ isProducer (qKind (s.queue fn q)) = false ∧ (s.queue fn q).st = .enabled ∧ v < 65536 ∧ v < qSize (s.queue fn q) ∧ (v + qSize (s.queue fn q) - (s.queue fn q).head) % qSize (s.queue fn q) ≤ ((s.queue fn q).tail + qSize (s.queue fn q) - (s.queue fn q).head) % qSize (s.queue fn q))
    ∧ (∃ fn : Nat, ∃ q : Nat, ∃ v : Nat, ∃ s : State, Canonical s ∧ queueThere s fn q = true ∧ isProducer (qKind (s.queue fn q)) = false ∧ (s.queue fn q).st = .enabled ∧ v < 65536 ∧ qSize (s.queue fn q) ≤ v)
    ∧ (∃ fn : Nat, ∃ q : Nat, ∃ s : State, queueThere s fn q = true ∧ (s.queue fn q).st.live = true ∧ isProducer (qKind (s.queue fn q)) = true)
    ∧ (∃ fn : Nat, ∃ q : Nat, ∃ s : State, queueThere s fn q = true ∧ (s.queue fn q).st.live = true ∧ isProducer (qKind (s.queue fn q)) = false) :=
  ⟨⟨(0), (0), (0), ((withQueue (queueOf 3 []) (host))), by unfold Canonical MailboxForm DictForm TablesForm FlowForm BufForm SchedForm EndpointForm PoldersForm CipherForm SiphonForm JournalForm EventsForm; decide +kernel⟩,
   ⟨(0), (0), (64), ((withQueue (queueOf 3 []) (host))), by unfold Canonical MailboxForm DictForm TablesForm FlowForm BufForm SchedForm EndpointForm PoldersForm CipherForm SiphonForm JournalForm EventsForm; decide +kernel⟩,
   ⟨(0), (0), ((withQueue (queueOf 1 []) (host))), by decide +kernel⟩,
   ⟨(0), (0), ((withQueue (queueOf 3 []) (host))), by decide +kernel⟩⟩

/-- The hypotheses of `Obligations.QueueEngine` are met. -/
theorem test_QueueEngine_met :
    (∃ t : Nat, ∃ fn : Nat, ∃ q : Nat, ∃ e : Bytes, ∃ s : State, ∃ s1 : State, Canonical s ∧ fetchTurn (advance t s) = some (fn, q) ∧ 1 ≤ fetchable (s.queue fn q) ∧ readRefused (advance t s) fn q [(qBase (s.queue fn q) + 32 * (s.queue fn q).fetched, 32)] = false ∧ readNow (queueReq (advance t s) fn q) [(qBase (s.queue fn q) + 32 * (s.queue fn q).fetched, 32)] (advance t s) = some s1 ∧ e.length = 32 ∧ (s.queue fn q).partialChain = [] ∧ (s.queue fn q).fetched < qSize (s.queue fn q) ∧ qKind (s.queue fn q) = kTX ∧ eFirst e = true ∧ eLast e = true ∧ chainBad (advance t s) fn kTX [e] = none)
    ∧ (∃ t : Nat, ∃ fn : Nat, ∃ q : Nat, ∃ e : Bytes, ∃ s : State, ∃ s1 : State, Canonical s ∧ fetchTurn (advance t s) = some (fn, q) ∧ 1 ≤ fetchable (s.queue fn q) ∧ readRefused (advance t s) fn q [(qBase (s.queue fn q) + 32 * (s.queue fn q).fetched, 32)] = false ∧ readNow (queueReq (advance t s) fn q) [(qBase (s.queue fn q) + 32 * (s.queue fn q).fetched, 32)] (advance t s) = some s1 ∧ e.length = 32 ∧ (s.queue fn q).partialChain = [] ∧ (s.queue fn q).fetched < qSize (s.queue fn q) ∧ qKind (s.queue fn q) ≠ kRX ∧ eFirst e = false)
    ∧ (∃ t : Nat, ∃ fn : Nat, ∃ q : Nat, ∃ count : Nat, ∃ tag : Nat, ∃ addr : Nat, ∃ s : State, Canonical s ∧ fetchTurn (advance t s) = some (fn, q) ∧ 1 ≤ count ∧ count ≤ 32 ∧ count ≤ fetchable (s.queue fn q) ∧ (qKind (s.queue fn q) = kJOURNAL → count ≤ journalRoom (advance t s) (s.queue fn q)) ∧ addr = qBase (s.queue fn q) + 32 * (s.queue fn q).fetched ∧ readCuts s fn [(addr, 32 * count)] = [(addr, 32 * count)] ∧ 32 * count ≤ readLimit s fn ∧ readRefused (advance t s) fn q [(addr, 32 * count)] = false ∧ takeTag s fn = some tag ∧ (∀ r ∈ s.ep.reads, r.st ≠ .waiting) ∧ (∀ r ∈ s.ep.reads, r.isFor (queueReq s fn q) (.entries count) = false))
    ∧ (∃ t : Nat, ∃ fn : Nat, ∃ q : Nat, ∃ s : State, fetchTurn (advance t s) ≠ some (fn, q))
    ∧ (∃ fn : Nat, ∃ q : Nat, ∃ c : Chain, ∃ s : State, Canonical s ∧ fnRuns s fn = true ∧ (s.queue fn q).chains = [c] ∧ c.finished = true ∧ c.entries ≠ [] ∧ c.status = 0 ∧ eCqReq (chainLast c) = false ∧ (s.queue fn q).st = .enabled) :=
  ⟨⟨(0), (0), (0), ((entry 1 3 60 4096 (zeros 16))), ((withQueue ({ queueOf 1 [] with tail := 1 }) (having [(0x2000, 1, [1])] host))), ((readNow (queueReq (advance (0) ((withQueue ({ queueOf 1 [] with tail := 1 }) (having [(0x2000, 1, [1])] host)) : State)) (0) (0)) [(qBase (((withQueue ({ queueOf 1 [] with tail := 1 }) (having [(0x2000, 1, [1])] host)) : State).queue (0) (0)) + 32 * (((withQueue ({ queueOf 1 [] with tail := 1 }) (having [(0x2000, 1, [1])] host)) : State).queue (0) (0)).fetched, 32)] (advance (0) ((withQueue ({ queueOf 1 [] with tail := 1 }) (having [(0x2000, 1, [1])] host)) : State))).getD base), by unfold Canonical MailboxForm DictForm TablesForm FlowForm BufForm SchedForm EndpointForm PoldersForm CipherForm SiphonForm JournalForm EventsForm; decide +kernel⟩,
   ⟨(0), (0), (0), ((entry 1 2 60 4096 (zeros 16))), ((withQueue ({ queueOf 1 [] with tail := 1 }) (having [(0x2000, 1, [1])] host))), ((readNow (queueReq (advance (0) ((withQueue ({ queueOf 1 [] with tail := 1 }) (having [(0x2000, 1, [1])] host)) : State)) (0) (0)) [(qBase (((withQueue ({ queueOf 1 [] with tail := 1 }) (having [(0x2000, 1, [1])] host)) : State).queue (0) (0)) + 32 * (((withQueue ({ queueOf 1 [] with tail := 1 }) (having [(0x2000, 1, [1])] host)) : State).queue (0) (0)).fetched, 32)] (advance (0) ((withQueue ({ queueOf 1 [] with tail := 1 }) (having [(0x2000, 1, [1])] host)) : State))).getD base), by unfold Canonical MailboxForm DictForm TablesForm FlowForm BufForm SchedForm EndpointForm PoldersForm CipherForm SiphonForm JournalForm EventsForm; decide +kernel⟩,
   ⟨(0), (0), (0), (32), (0), (qBase (((withQueue { queueOf 1 [] with tail := 32 } ({ host with ep := { host.ep with funcs := [(0, { Func.reset with memSpace := true, busMaster := true, rrs := false, readRequest := 3 })] } })) : State).queue (0) (0)) + 32 * (((withQueue { queueOf 1 [] with tail := 32 } ({ host with ep := { host.ep with funcs := [(0, { Func.reset with memSpace := true, busMaster := true, rrs := false, readRequest := 3 })] } })) : State).queue (0) (0)).fetched), ((withQueue { queueOf 1 [] with tail := 32 } ({ host with ep := { host.ep with funcs := [(0, { Func.reset with memSpace := true, busMaster := true, rrs := false, readRequest := 3 })] } }))), by unfold Canonical MailboxForm DictForm TablesForm FlowForm BufForm SchedForm EndpointForm PoldersForm CipherForm SiphonForm JournalForm EventsForm; decide +kernel⟩,
   ⟨(65534999999999), (0), (0), ((withQueue ({ queueOf 3 [] with irqAt := some 0, ctx := [(6, 0xFFFF0000)] }) (host))), by decide +kernel⟩,
   ⟨(0), (0), ({ chain [entry 1 3 60 0 (zeros 16)] with started := true, finished := true }), ((withQueue (queueOf 1 [{ chain [entry 1 3 60 0 (zeros 16)] with started := true, finished := true }]) (host))), by unfold Canonical MailboxForm DictForm TablesForm FlowForm BufForm SchedForm EndpointForm PoldersForm CipherForm SiphonForm JournalForm EventsForm; decide +kernel⟩⟩

/-- Further clauses of `Obligations.QueueEngine`. -/
theorem test_QueueEngine_met_2 :
    (∃ fn : Nat, ∃ q : Nat, ∃ c : Chain, ∃ y : Queue, ∃ s : State, Canonical s ∧ fnRuns s fn = true ∧ (s.queue fn q).chains = [c] ∧ c.finished = true ∧ c.entries ≠ [] ∧ eCqReq (chainLast c) = true ∧ (s.queue fn q).st = .enabled ∧ (s.queue fn q).waiting = [] ∧ qMirrorOnly (s.queue fn q) = false ∧ qCq (s.queue fn q) ≠ q ∧ qCq (s.queue fn q) < 1024 ∧ q < 1024 ∧ y = s.queue fn (qCq (s.queue fn q)) ∧ y.st = .enabled ∧ ringFull y = false ∧ qIrqEnable y = false ∧ cqRefused s fn q = false)
    ∧ (∃ fn : Nat, ∃ s : State, fnRuns s fn = false)
    ∧ (∃ fn : Nat, ∃ s : State, fnRuns s fn = false)
    ∧ (∃ fn : Nat, ∃ q : Nat, ∃ s : State, Canonical s ∧ fnRuns s fn = true ∧ lowerWaits s fn q = false ∧ (s.queue fn q).waiting = [] ∧ (s.queue fn q).st = .held ∧ (s.queue fn q).journalHold = false ∧ (s.queue fn q).bell = none)
    ∧ (∃ fn : Nat, ∃ q : Nat, ∃ s : State, ∃ i, Canonical s ∧ fnRuns s fn = true ∧ lowerWaits s fn q = false ∧ (s.queue fn q).waiting = [] ∧ (s.queue fn q).st = .held ∧ (s.queue fn q).journalHold = false ∧ (s.queue fn q).bell = some i ∧ isProducer (qKind (s.queue fn q)) = true ∧ i < qSize (s.queue fn q) ∧ (i + qSize (s.queue fn q) - (s.queue fn q).tail) % qSize (s.queue fn q) ≤ qSize (s.queue fn q) - 1 - ((s.queue fn q).tail + qSize (s.queue fn q) - (s.queue fn q).head) % qSize (s.queue fn q)) :=
  ⟨⟨(0), (0), ({ chain [entry 1 7 60 0 (zeros 16)] with started := true, finished := true }), ({ queueOf 3 [] with ctx := [(2, 3), (3, 0xFFFF)] }), ((withQueue (queueOf 1 [{ chain [entry 1 7 60 0 (zeros 16)] with started := true, finished := true }]) ((host.setQueue 0 1 { queueOf 3 [] with ctx := [(2, 3), (3, 0xFFFF)] })))), by unfold Canonical MailboxForm DictForm TablesForm FlowForm BufForm SchedForm EndpointForm PoldersForm CipherForm SiphonForm JournalForm EventsForm; decide +kernel⟩,
   ⟨(0), ((withQueue (queueOf 1 []) (base))), by decide +kernel⟩,
   ⟨(0), ((withQueue (queueOf 1 []) (base))), by decide +kernel⟩,
   ⟨(0), (0), ((withQueue ({ queueOf 1 [] with st := .held }) (host))), by unfold Canonical MailboxForm DictForm TablesForm FlowForm BufForm SchedForm EndpointForm PoldersForm CipherForm SiphonForm JournalForm EventsForm; decide +kernel⟩,
   ⟨(0), (0), ((withQueue ({ queueOf 1 [] with st := .held, bell := some 63 }) (host))), (63), by unfold Canonical MailboxForm DictForm TablesForm FlowForm BufForm SchedForm EndpointForm PoldersForm CipherForm SiphonForm JournalForm EventsForm; decide +kernel⟩⟩

/-- Further clauses of `Obligations.QueueEngine`. -/
theorem test_QueueEngine_met_3 :
    (∃ fn : Nat, ∃ q : Nat, ∃ c : Cpl, ∃ y : Queue, ∃ s : State, Canonical s ∧ fnRuns s fn = true ∧ lowerWaits s fn q = false ∧ (s.queue fn q).waiting = [c] ∧ (s.queue fn q).st = .error ∧ qCq (s.queue fn q) ≠ q ∧ qCq (s.queue fn q) < 1024 ∧ q < 1024 ∧ y = s.queue fn (qCq (s.queue fn q)) ∧ y.st = .enabled ∧ ringFull y = false ∧ qIrqEnable y = false ∧ cqRefused s fn q = false)
    ∧ (∃ fn : Nat, ∃ q : Nat, ∃ s : State, lowerWaits s fn q = true)
    ∧ (∃ t : Nat, ∃ t0 : Nat, ∃ fn : Nat, ∃ q : Nat, ∃ s : State, Canonical s ∧ (s.queue fn q).irqAt = some t0 ∧ t0 + qModTime (s.queue fn q) * 10 ^ 9 ≤ t)
    ∧ (∃ t : Nat, ∃ fn : Nat, ∃ q : Nat, ∃ s : State, (∀ t0, (s.queue fn q).irqAt = some t0 → t < t0 + qModTime (s.queue fn q) * 10 ^ 9)) :=
  ⟨⟨(0), (0), ({ status := 0, tag := 0, index := 0, result := 0, count := some 1 }), ({ queueOf 3 [] with ctx := [(2, 3), (3, 0xFFFF)] }), ((withQueue ({ queueOf 1 [] with st := .error, waiting := [{ status := 0, tag := 0, index := 0, result := 0, count := some 1 }] }) ((host.setQueue 0 1 { queueOf 3 [] with ctx := [(2, 3), (3, 0xFFFF)] })))), by unfold Canonical MailboxForm DictForm TablesForm FlowForm BufForm SchedForm EndpointForm PoldersForm CipherForm SiphonForm JournalForm EventsForm; decide +kernel⟩,
   ⟨(0), (1), ((host.setQueue 0 0 ({ queueOf 1 [] with st := .held, waiting := [{ status := 0, tag := 0, index := 0, result := 0, count := some 1 }] })).setQueue 0 1 (queueOf 1 [])), by decide +kernel⟩,
   ⟨(0), (0), (0), (0), ((withQueue ({ queueOf 3 [] with irqAt := some 0 }) (host))), by unfold Canonical MailboxForm DictForm TablesForm FlowForm BufForm SchedForm EndpointForm PoldersForm CipherForm SiphonForm JournalForm EventsForm; decide +kernel⟩,
   ⟨(65534999999999), (0), (0), ((withQueue ({ queueOf 3 [] with irqAt := some 0, ctx := [(6, 0xFFFF0000)] }) (host))), by decide +kernel⟩⟩

/-- The hypotheses of `Obligations.HostFrames` are met. -/
theorem test_HostFrames_met :
    (∃ t : Nat, ∃ fn : Nat, ∃ q : Nat, ∃ ch : Chain, ∃ segs : List (Nat × Nat), ∃ s : State, ∃ h : Bytes, ∃ b : Bytes, ∃ s1 : State, Canonical s ∧ txChain s fn q = some ch ∧ (segs = ch.entries.map (fun e => (eAddr e, eLength e))) ∧ 60 ≤ (ch.entries.map eLength).sum ∧ (ch.entries.map eLength).sum + 4 ≤ maxFrameSize s (txPort (ch.entries.headD [])) ∧ portMode s (txPort (ch.entries.headD [])) ≠ 0 ∧ HostBytes (advance t s) fn q segs h b s1)
    ∧ (∃ fn : Nat, ∃ q : Nat, ∃ ch : Chain, ∃ segs : List (Nat × Nat), ∃ s : State, Canonical s ∧ txChain s fn q = some ch ∧ (segs = ch.entries.map (fun e => (eAddr e, eLength e))) ∧ 60 ≤ (ch.entries.map eLength).sum ∧ (ch.entries.map eLength).sum + 4 ≤ maxFrameSize s (txPort (ch.entries.headD [])) ∧ portMode s (txPort (ch.entries.headD [])) ≠ 0 ∧ readRefused s fn q segs = false ∧ hostLen segs ≠ 0 ∧ fnRuns s fn = true)
    ∧ (∃ fn : Nat, ∃ q : Nat, ∃ ch : Chain, ∃ s : State, Canonical s ∧ txChain s fn q = some ch ∧ ((ch.entries.map eLength).sum < 60 ∨ maxFrameSize s (txPort (ch.entries.headD [])) < (ch.entries.map eLength).sum + 4 ∨ portMode s (txPort (ch.entries.headD [])) = 0) ∧ 4 ≤ maxFrameSize s (txPort (ch.entries.headD [])))
    ∧ (∃ fn : Nat, ∃ q : Nat, ∃ ch : Chain, ∃ s : State, Canonical s ∧ qKind (s.queue fn q) = kRX ∧ (s.queue fn q).st.live = true ∧ nextChain (s.queue fn q) 2 = some ch)
    ∧ (∃ fn : Nat, ∃ q : Nat, ∃ s : State, (qKind (s.queue fn q) ≠ kRX ∨ (s.queue fn q).st.live = false ∨ nextChain (s.queue fn q) 2 = none)) :=
  ⟨⟨(0), (0), (0), (chain [entry 1 3 60 4096 (zeros 16)]), ((chain [entry 1 3 60 4096 (zeros 16)]).entries.map (fun e => (eAddr e, eLength e))), ((withQueue (queueOf 1 [chain [entry 1 3 60 4096 (zeros 16)]]) (having [(0x2000, 1, [1])] host))), (zeros 60), ((gather (advance (0) ((withQueue (queueOf 1 [chain [entry 1 3 60 4096 (zeros 16)]]) (having [(0x2000, 1, [1])] host)))) ((chain [entry 1 3 60 4096 (zeros 16)]).entries.map (fun e => (eAddr e, eLength e)) : List (Nat × Nat)) (zeros 60)).getD []), ((readNow (queueReq (advance (0) ((withQueue (queueOf 1 [chain [entry 1 3 60 4096 (zeros 16)]]) (having [(0x2000, 1, [1])] host)))) (0) (0)) ((chain [entry 1 3 60 4096 (zeros 16)]).entries.map (fun e => (eAddr e, eLength e)) : List (Nat × Nat)) (advance (0) ((withQueue (queueOf 1 [chain [entry 1 3 60 4096 (zeros 16)]]) (having [(0x2000, 1, [1])] host))))).getD base), by unfold Canonical MailboxForm DictForm TablesForm FlowForm BufForm SchedForm EndpointForm PoldersForm CipherForm SiphonForm JournalForm EventsForm HostBytes; decide +kernel⟩,
   ⟨(0), (0), (chain [entry 1 3 60 4096 (zeros 16)]), ((chain [entry 1 3 60 4096 (zeros 16)]).entries.map (fun e => (eAddr e, eLength e))), ((withQueue (queueOf 1 [chain [entry 1 3 60 4096 (zeros 16)]]) (having [(0x2000, 1, [1])] host))), by unfold Canonical MailboxForm DictForm TablesForm FlowForm BufForm SchedForm EndpointForm PoldersForm CipherForm SiphonForm JournalForm EventsForm; decide +kernel⟩,
   ⟨(0), (0), (chain [entry 1 3 59 4096 (zeros 16)]), ((withQueue (queueOf 1 [chain [entry 1 3 59 4096 (zeros 16)]]) (having [(0x2000, 1, [1])] host))), by unfold Canonical MailboxForm DictForm TablesForm FlowForm BufForm SchedForm EndpointForm PoldersForm CipherForm SiphonForm JournalForm EventsForm; decide +kernel⟩,
   ⟨(0), (0), (chain [entry 2 3 2048 4096 (zeros 16)]), ((withQueue (queueOf 2 [chain [entry 2 3 2048 4096 (zeros 16)]]) (host))), by unfold Canonical MailboxForm DictForm TablesForm FlowForm BufForm SchedForm EndpointForm PoldersForm CipherForm SiphonForm JournalForm EventsForm; decide +kernel⟩,
   ⟨(0), (0), (host), by decide +kernel⟩⟩

/-- Further clauses of `Obligations.HostFrames`. -/
theorem test_HostFrames_met_2 :
    (∃ t : Nat, ∃ fn : Nat, ∃ q : Nat, ∃ idx : Nat, ∃ fault : BufFault, ∃ e : Bytes, ∃ post : List (Nat × Bytes), ∃ h : HFrame, ∃ rest : List HFrame, ∃ s : State, Canonical s ∧ Tab.wf [] s.buf.hostQ = true ∧ hostFrames s fn q = h :: rest ∧ qKind (s.queue fn q) = kRX ∧ (s.queue fn q).st = .enabled ∧ fnRuns s fn = true ∧ (s.queue fn q).posted = (idx, e) :: post ∧ h.bytes ≠ [] ∧ h.bytes.length ≤ eLength e ∧ deliveryCut s h = false ∧ (deliveryFault h fault (advance t s)).1 = false ∧ requestRefused s fn q (eAddr e) h.bytes.length = false ∧ isDdr (eAddr e) = false ∧ requestRefused s fn q (qBase (s.queue fn q) + 32 * idx) 32 = false ∧ isDdr (qBase (s.queue fn q) + 32 * idx) = false)
    ∧ (∃ t : Nat, ∃ fn : Nat, ∃ q : Nat, ∃ idx : Nat, ∃ fault : BufFault, ∃ e : Bytes, ∃ post : List (Nat × Bytes), ∃ h : HFrame, ∃ rest : List HFrame, ∃ s : State, Canonical s ∧ Tab.wf [] s.buf.hostQ = true ∧ hostFrames s fn q = h :: rest ∧ qKind (s.queue fn q) = kRX ∧ (s.queue fn q).st = .enabled ∧ fnRuns s fn = true ∧ (s.queue fn q).posted = (idx, e) :: post ∧ h.bytes ≠ [] ∧ h.bytes.length ≤ eLength e ∧ (deliveryCut s h = true ∨ (deliveryFault h fault (advance t s)).1 = true))
    ∧ (∃ fn : Nat, ∃ q : Nat, ∃ h : HFrame, ∃ rest : List HFrame, ∃ s : State, Canonical s ∧ Tab.wf [] s.buf.hostQ = true ∧ hostFrames s fn q = h :: rest ∧ qKind (s.queue fn q) = kRX ∧ (s.queue fn q).st = .enabled ∧ fnRuns s fn = true ∧ takeBuffers (s.queue fn q).posted h.bytes.length = none ∧ h.place ≠ .notice)
    ∧ (∃ fn : Nat, ∃ q : Nat, ∃ h : HFrame, ∃ rest : List HFrame, ∃ s : State, Canonical s ∧ Tab.wf [] s.buf.hostQ = true ∧ hostFrames s fn q = h :: rest ∧ qKind (s.queue fn q) = kRX ∧ (s.queue fn q).st = .enabled ∧ fnRuns s fn = true ∧ takeBuffers (s.queue fn q).posted h.bytes.length = none ∧ h.place = .notice)
    ∧ (∃ fn : Nat, ∃ q : Nat, ∃ s : State, hostFrames s fn q = []) :=
  ⟨⟨(0), (0), (0), (0), (.clean), ((entry 2 3 2048 4096 (zeros 16))), ([]), (hframe), ([]), ({ (withQueue { queueOf 2 [] with posted := [(0, entry 2 3 2048 4096 (zeros 16))] } host) with buf := { base.buf with hostQ := [(qKey 0 0, [hframe])] } }), by unfold Canonical MailboxForm DictForm TablesForm FlowForm BufForm SchedForm EndpointForm PoldersForm CipherForm SiphonForm JournalForm EventsForm; decide +kernel⟩,
   ⟨(0), (0), (0), (0), (.clean), ((entry 2 3 2048 4096 (zeros 16))), ([]), (hframe), ([]), ({ (withQueue { queueOf 2 [] with posted := [(0, entry 2 3 2048 4096 (zeros 16))] } host) with buf := { base.buf with hostQ := [(qKey 0 0, [{ hframe with place := .fd 0 0 1 }])] }, culv := { base.culv with down := [(hdCulvert 0, true)] } }), by unfold Canonical MailboxForm DictForm TablesForm FlowForm BufForm SchedForm EndpointForm PoldersForm CipherForm SiphonForm JournalForm EventsForm; decide +kernel⟩,
   ⟨(0), (0), (hframe), ([]), ({ (withQueue { queueOf 2 [] with posted := [] } host) with buf := { base.buf with hostQ := [(qKey 0 0, [{ hframe with place := .fd 0 0 1 }])] } }), by unfold Canonical MailboxForm DictForm TablesForm FlowForm BufForm SchedForm EndpointForm PoldersForm CipherForm SiphonForm JournalForm EventsForm; decide +kernel⟩,
   ⟨(0), (0), ({ hframe with place := .notice }), ([]), ({ (withQueue { queueOf 2 [] with posted := [] } host) with buf := { base.buf with hostQ := [(qKey 0 0, [{ hframe with place := .notice }])] } }), by unfold Canonical MailboxForm DictForm TablesForm FlowForm BufForm SchedForm EndpointForm PoldersForm CipherForm SiphonForm JournalForm EventsForm; decide +kernel⟩,
   ⟨(0), (0), (host), by decide +kernel⟩⟩

/-- The hypotheses of `Obligations.CipherMessages` are met. -/
theorem test_CipherMessages_met :
    ((∃ t fn q : Nat, ∃ params source d : Bytes, ∃ ch : Chain, ∃ s s1 : State, Canonical s ∧ cipherChain s fn q 16 = some ch ∧ HostBytes (advance t s) fn q (messageSegs ch) (params ++ source) d s1) ∧ (∃ fn q : Nat, ∃ params source : Option Bytes, ∃ ch : Chain, ∃ s : State, Canonical s ∧ cipherChain s fn q 16 = some ch ∧ (params = none ∨ source = none) ∧ readRefused s fn q (messageSegs ch) = false ∧ hostLen (messageSegs ch) ≠ 0 ∧ fnRuns s fn = true))
    ∧ ((∃ t fn q : Nat, ∃ params source d : Bytes, ∃ ch : Chain, ∃ s s1 : State, Canonical s ∧ cipherChain s fn q 17 = some ch ∧ HostBytes (advance t s) fn q (messageSegs ch) (params ++ source) d s1) ∧ (∃ fn q : Nat, ∃ params source : Option Bytes, ∃ ch : Chain, ∃ s : State, Canonical s ∧ cipherChain s fn q 17 = some ch ∧ (params = none ∨ source = none) ∧ readRefused s fn q (messageSegs ch) = false ∧ hostLen (messageSegs ch) ≠ 0 ∧ fnRuns s fn = true))
    ∧ ((∃ t fn q : Nat, ∃ params source d : Bytes, ∃ ch : Chain, ∃ s s1 : State, Canonical s ∧ cipherChain s fn q 18 = some ch ∧ HostBytes (advance t s) fn q (messageSegs ch) (params ++ source) d s1) ∧ (∃ fn q : Nat, ∃ params source : Option Bytes, ∃ ch : Chain, ∃ s : State, Canonical s ∧ cipherChain s fn q 18 = some ch ∧ (params = none ∨ source = none) ∧ readRefused s fn q (messageSegs ch) = false ∧ hostLen (messageSegs ch) ≠ 0 ∧ fnRuns s fn = true))
    ∧ ((∃ t fn q : Nat, ∃ params source d : Bytes, ∃ ch : Chain, ∃ s s1 : State, Canonical s ∧ cipherChain s fn q 19 = some ch ∧ HostBytes (advance t s) fn q (messageSegs ch) (params ++ source) d s1) ∧ (∃ fn q : Nat, ∃ params source : Option Bytes, ∃ ch : Chain, ∃ s : State, Canonical s ∧ cipherChain s fn q 19 = some ch ∧ (params = none ∨ source = none) ∧ readRefused s fn q (messageSegs ch) = false ∧ hostLen (messageSegs ch) ≠ 0 ∧ fnRuns s fn = true))
    ∧ ((∃ t fn q : Nat, ∃ params source d : Bytes, ∃ ch : Chain, ∃ s s1 : State, Canonical s ∧ cipherChain s fn q 20 = some ch ∧ HostBytes (advance t s) fn q (messageSegs ch) (params ++ source) d s1) ∧ (∃ fn q : Nat, ∃ params source : Option Bytes, ∃ ch : Chain, ∃ s : State, Canonical s ∧ cipherChain s fn q 20 = some ch ∧ (params = none ∨ source = none) ∧ readRefused s fn q (messageSegs ch) = false ∧ hostLen (messageSegs ch) ≠ 0 ∧ fnRuns s fn = true)) :=
  ⟨⟨⟨0, 0, 0, zeros 32, zeros 16, ((gather (advance 0 ((withQueue (queueOf 5 [chain [entry 16 1 0 4096 (zeros 16), entry 16 2 16 8192 (zeros 16)]]) (host)))) (messageSegs (chain [entry 16 1 0 4096 (zeros 16), entry 16 2 16 8192 (zeros 16)])) (zeros 32 ++ zeros 16)).getD []), chain [entry 16 1 0 4096 (zeros 16), entry 16 2 16 8192 (zeros 16)], (withQueue (queueOf 5 [chain [entry 16 1 0 4096 (zeros 16), entry 16 2 16 8192 (zeros 16)]]) (host)), ((readNow (queueReq (advance 0 ((withQueue (queueOf 5 [chain [entry 16 1 0 4096 (zeros 16), entry 16 2 16 8192 (zeros 16)]]) (host)))) 0 0) (messageSegs (chain [entry 16 1 0 4096 (zeros 16), entry 16 2 16 8192 (zeros 16)])) (advance 0 ((withQueue (queueOf 5 [chain [entry 16 1 0 4096 (zeros 16), entry 16 2 16 8192 (zeros 16)]]) (host))))).getD base), by unfold Canonical MailboxForm DictForm TablesForm FlowForm BufForm SchedForm EndpointForm PoldersForm CipherForm SiphonForm JournalForm EventsForm HostBytes; decide +kernel⟩, 0, 0, some [], none, chain [entry 16 1 0 4096 (zeros 16), entry 16 2 16 8192 (zeros 16)], (withQueue (queueOf 5 [chain [entry 16 1 0 4096 (zeros 16), entry 16 2 16 8192 (zeros 16)]]) (host)), by unfold Canonical MailboxForm DictForm TablesForm FlowForm BufForm SchedForm EndpointForm PoldersForm CipherForm SiphonForm JournalForm EventsForm; decide +kernel⟩,
   ⟨⟨0, 0, 0, zeros 32, zeros 16, ((gather (advance 0 ((withQueue (queueOf 5 [chain [entry 17 1 0 4096 (zeros 16), entry 17 2 16 8192 (zeros 16)]]) (host)))) (messageSegs (chain [entry 17 1 0 4096 (zeros 16), entry 17 2 16 8192 (zeros 16)])) (zeros 32 ++ zeros 16)).getD []), chain [entry 17 1 0 4096 (zeros 16), entry 17 2 16 8192 (zeros 16)], (withQueue (queueOf 5 [chain [entry 17 1 0 4096 (zeros 16), entry 17 2 16 8192 (zeros 16)]]) (host)), ((readNow (queueReq (advance 0 ((withQueue (queueOf 5 [chain [entry 17 1 0 4096 (zeros 16), entry 17 2 16 8192 (zeros 16)]]) (host)))) 0 0) (messageSegs (chain [entry 17 1 0 4096 (zeros 16), entry 17 2 16 8192 (zeros 16)])) (advance 0 ((withQueue (queueOf 5 [chain [entry 17 1 0 4096 (zeros 16), entry 17 2 16 8192 (zeros 16)]]) (host))))).getD base), by unfold Canonical MailboxForm DictForm TablesForm FlowForm BufForm SchedForm EndpointForm PoldersForm CipherForm SiphonForm JournalForm EventsForm HostBytes; decide +kernel⟩, 0, 0, some [], none, chain [entry 17 1 0 4096 (zeros 16), entry 17 2 16 8192 (zeros 16)], (withQueue (queueOf 5 [chain [entry 17 1 0 4096 (zeros 16), entry 17 2 16 8192 (zeros 16)]]) (host)), by unfold Canonical MailboxForm DictForm TablesForm FlowForm BufForm SchedForm EndpointForm PoldersForm CipherForm SiphonForm JournalForm EventsForm; decide +kernel⟩,
   ⟨⟨0, 0, 0, zeros 32, zeros 16, ((gather (advance 0 ((withQueue (queueOf 5 [chain [entry 18 1 0 4096 (zeros 16), entry 18 2 16 8192 (zeros 16)]]) (host)))) (messageSegs (chain [entry 18 1 0 4096 (zeros 16), entry 18 2 16 8192 (zeros 16)])) (zeros 32 ++ zeros 16)).getD []), chain [entry 18 1 0 4096 (zeros 16), entry 18 2 16 8192 (zeros 16)], (withQueue (queueOf 5 [chain [entry 18 1 0 4096 (zeros 16), entry 18 2 16 8192 (zeros 16)]]) (host)), ((readNow (queueReq (advance 0 ((withQueue (queueOf 5 [chain [entry 18 1 0 4096 (zeros 16), entry 18 2 16 8192 (zeros 16)]]) (host)))) 0 0) (messageSegs (chain [entry 18 1 0 4096 (zeros 16), entry 18 2 16 8192 (zeros 16)])) (advance 0 ((withQueue (queueOf 5 [chain [entry 18 1 0 4096 (zeros 16), entry 18 2 16 8192 (zeros 16)]]) (host))))).getD base), by unfold Canonical MailboxForm DictForm TablesForm FlowForm BufForm SchedForm EndpointForm PoldersForm CipherForm SiphonForm JournalForm EventsForm HostBytes; decide +kernel⟩, 0, 0, some [], none, chain [entry 18 1 0 4096 (zeros 16), entry 18 2 16 8192 (zeros 16)], (withQueue (queueOf 5 [chain [entry 18 1 0 4096 (zeros 16), entry 18 2 16 8192 (zeros 16)]]) (host)), by unfold Canonical MailboxForm DictForm TablesForm FlowForm BufForm SchedForm EndpointForm PoldersForm CipherForm SiphonForm JournalForm EventsForm; decide +kernel⟩,
   ⟨⟨0, 0, 0, zeros 32, zeros 16, ((gather (advance 0 ((withQueue (queueOf 5 [chain [entry 19 1 0 4096 (zeros 16), entry 19 2 16 8192 (zeros 16)]]) (host)))) (messageSegs (chain [entry 19 1 0 4096 (zeros 16), entry 19 2 16 8192 (zeros 16)])) (zeros 32 ++ zeros 16)).getD []), chain [entry 19 1 0 4096 (zeros 16), entry 19 2 16 8192 (zeros 16)], (withQueue (queueOf 5 [chain [entry 19 1 0 4096 (zeros 16), entry 19 2 16 8192 (zeros 16)]]) (host)), ((readNow (queueReq (advance 0 ((withQueue (queueOf 5 [chain [entry 19 1 0 4096 (zeros 16), entry 19 2 16 8192 (zeros 16)]]) (host)))) 0 0) (messageSegs (chain [entry 19 1 0 4096 (zeros 16), entry 19 2 16 8192 (zeros 16)])) (advance 0 ((withQueue (queueOf 5 [chain [entry 19 1 0 4096 (zeros 16), entry 19 2 16 8192 (zeros 16)]]) (host))))).getD base), by unfold Canonical MailboxForm DictForm TablesForm FlowForm BufForm SchedForm EndpointForm PoldersForm CipherForm SiphonForm JournalForm EventsForm HostBytes; decide +kernel⟩, 0, 0, some [], none, chain [entry 19 1 0 4096 (zeros 16), entry 19 2 16 8192 (zeros 16)], (withQueue (queueOf 5 [chain [entry 19 1 0 4096 (zeros 16), entry 19 2 16 8192 (zeros 16)]]) (host)), by unfold Canonical MailboxForm DictForm TablesForm FlowForm BufForm SchedForm EndpointForm PoldersForm CipherForm SiphonForm JournalForm EventsForm; decide +kernel⟩,
   ⟨⟨0, 0, 0, zeros 32, zeros 16, ((gather (advance 0 ((withQueue (queueOf 5 [chain [entry 20 1 0 4096 (zeros 16), entry 20 2 16 8192 (zeros 16)]]) (host)))) (messageSegs (chain [entry 20 1 0 4096 (zeros 16), entry 20 2 16 8192 (zeros 16)])) (zeros 32 ++ zeros 16)).getD []), chain [entry 20 1 0 4096 (zeros 16), entry 20 2 16 8192 (zeros 16)], (withQueue (queueOf 5 [chain [entry 20 1 0 4096 (zeros 16), entry 20 2 16 8192 (zeros 16)]]) (host)), ((readNow (queueReq (advance 0 ((withQueue (queueOf 5 [chain [entry 20 1 0 4096 (zeros 16), entry 20 2 16 8192 (zeros 16)]]) (host)))) 0 0) (messageSegs (chain [entry 20 1 0 4096 (zeros 16), entry 20 2 16 8192 (zeros 16)])) (advance 0 ((withQueue (queueOf 5 [chain [entry 20 1 0 4096 (zeros 16), entry 20 2 16 8192 (zeros 16)]]) (host))))).getD base), by unfold Canonical MailboxForm DictForm TablesForm FlowForm BufForm SchedForm EndpointForm PoldersForm CipherForm SiphonForm JournalForm EventsForm HostBytes; decide +kernel⟩, 0, 0, some [], none, chain [entry 20 1 0 4096 (zeros 16), entry 20 2 16 8192 (zeros 16)], (withQueue (queueOf 5 [chain [entry 20 1 0 4096 (zeros 16), entry 20 2 16 8192 (zeros 16)]]) (host)), by unfold Canonical MailboxForm DictForm TablesForm FlowForm BufForm SchedForm EndpointForm PoldersForm CipherForm SiphonForm JournalForm EventsForm; decide +kernel⟩⟩

/-- Further clauses of `Obligations.CipherMessages`. -/
theorem test_CipherMessages_met_2 :
    ((∃ t fn q : Nat, ∃ params source d : Bytes, ∃ ch : Chain, ∃ s s1 : State, Canonical s ∧ cipherChain s fn q 21 = some ch ∧ HostBytes (advance t s) fn q (messageSegs ch) (params ++ source) d s1) ∧ (∃ fn q : Nat, ∃ params source : Option Bytes, ∃ ch : Chain, ∃ s : State, Canonical s ∧ cipherChain s fn q 21 = some ch ∧ (params = none ∨ source = none) ∧ readRefused s fn q (messageSegs ch) = false ∧ hostLen (messageSegs ch) ≠ 0 ∧ fnRuns s fn = true))
    ∧ ((∃ t fn q : Nat, ∃ params source d : Bytes, ∃ ch : Chain, ∃ s s1 : State, Canonical s ∧ cipherChain s fn q 22 = some ch ∧ HostBytes (advance t s) fn q (messageSegs ch) (params ++ source) d s1) ∧ (∃ fn q : Nat, ∃ params source : Option Bytes, ∃ ch : Chain, ∃ s : State, Canonical s ∧ cipherChain s fn q 22 = some ch ∧ (params = none ∨ source = none) ∧ readRefused s fn q (messageSegs ch) = false ∧ hostLen (messageSegs ch) ≠ 0 ∧ fnRuns s fn = true))
    ∧ (∃ k : Nat, ∃ m : CMsg, ∃ byF : Bool, ∃ s : State, freeCore s.cipher = some k ∧ dispatchPick s = some (m, byF) ∧ startStatus s m = none)
    ∧ (∃ k : Nat, ∃ n : Nat, ∃ st : Nat, ∃ m : CMsg, ∃ byF : Bool, ∃ s : State, Canonical s ∧ freeCore s.cipher = some k ∧ dispatchPick s = some (m, byF) ∧ m.user = .polder n ∧ startStatus s m = some st)
    ∧ (∃ s : State, (freeCore s.cipher = none ∨ dispatchPick s = none)) :=
  ⟨⟨⟨0, 0, 0, zeros 32, zeros 16, ((gather (advance 0 ((withQueue (queueOf 5 [chain [entry 21 1 0 4096 (zeros 16), entry 21 2 16 8192 (zeros 16)]]) (host)))) (messageSegs (chain [entry 21 1 0 4096 (zeros 16), entry 21 2 16 8192 (zeros 16)])) (zeros 32 ++ zeros 16)).getD []), chain [entry 21 1 0 4096 (zeros 16), entry 21 2 16 8192 (zeros 16)], (withQueue (queueOf 5 [chain [entry 21 1 0 4096 (zeros 16), entry 21 2 16 8192 (zeros 16)]]) (host)), ((readNow (queueReq (advance 0 ((withQueue (queueOf 5 [chain [entry 21 1 0 4096 (zeros 16), entry 21 2 16 8192 (zeros 16)]]) (host)))) 0 0) (messageSegs (chain [entry 21 1 0 4096 (zeros 16), entry 21 2 16 8192 (zeros 16)])) (advance 0 ((withQueue (queueOf 5 [chain [entry 21 1 0 4096 (zeros 16), entry 21 2 16 8192 (zeros 16)]]) (host))))).getD base), by unfold Canonical MailboxForm DictForm TablesForm FlowForm BufForm SchedForm EndpointForm PoldersForm CipherForm SiphonForm JournalForm EventsForm HostBytes; decide +kernel⟩, 0, 0, some [], none, chain [entry 21 1 0 4096 (zeros 16), entry 21 2 16 8192 (zeros 16)], (withQueue (queueOf 5 [chain [entry 21 1 0 4096 (zeros 16), entry 21 2 16 8192 (zeros 16)]]) (host)), by unfold Canonical MailboxForm DictForm TablesForm FlowForm BufForm SchedForm EndpointForm PoldersForm CipherForm SiphonForm JournalForm EventsForm; decide +kernel⟩,
   ⟨⟨0, 0, 0, zeros 32, zeros 16, ((gather (advance 0 ((withQueue (queueOf 5 [chain [entry 22 1 0 4096 (zeros 16), entry 22 2 16 8192 (zeros 16)]]) (host)))) (messageSegs (chain [entry 22 1 0 4096 (zeros 16), entry 22 2 16 8192 (zeros 16)])) (zeros 32 ++ zeros 16)).getD []), chain [entry 22 1 0 4096 (zeros 16), entry 22 2 16 8192 (zeros 16)], (withQueue (queueOf 5 [chain [entry 22 1 0 4096 (zeros 16), entry 22 2 16 8192 (zeros 16)]]) (host)), ((readNow (queueReq (advance 0 ((withQueue (queueOf 5 [chain [entry 22 1 0 4096 (zeros 16), entry 22 2 16 8192 (zeros 16)]]) (host)))) 0 0) (messageSegs (chain [entry 22 1 0 4096 (zeros 16), entry 22 2 16 8192 (zeros 16)])) (advance 0 ((withQueue (queueOf 5 [chain [entry 22 1 0 4096 (zeros 16), entry 22 2 16 8192 (zeros 16)]]) (host))))).getD base), by unfold Canonical MailboxForm DictForm TablesForm FlowForm BufForm SchedForm EndpointForm PoldersForm CipherForm SiphonForm JournalForm EventsForm HostBytes; decide +kernel⟩, 0, 0, some [], none, chain [entry 22 1 0 4096 (zeros 16), entry 22 2 16 8192 (zeros 16)], (withQueue (queueOf 5 [chain [entry 22 1 0 4096 (zeros 16), entry 22 2 16 8192 (zeros 16)]]) (host)), by unfold Canonical MailboxForm DictForm TablesForm FlowForm BufForm SchedForm EndpointForm PoldersForm CipherForm SiphonForm JournalForm EventsForm; decide +kernel⟩,
   ⟨(0), ({ user := .polder 0, q := 0, ref := 0, op := 16, slot := 0, params := zeros 32, source := zeros 32, aad := 0, restarted := false, key := [] }), (true), ({ host with cipher := { base.cipher with waiting := [{ user := .polder 0, q := 0, ref := 0, op := 16, slot := 0, params := zeros 32, source := zeros 32, aad := 0, restarted := false, key := [] }], heads := [(3, 0, 0)], slots := [(0, { alg := 1, usage := 0x3F, key := zeros 16, users := 0 })] } }), by decide +kernel⟩,
   ⟨(0), (0), (stSTATE), ({ user := .polder 0, q := 0, ref := 0, op := 16, slot := 0, params := zeros 32, source := zeros 32, aad := 0, restarted := false, key := [] }), (true), ({ host with cipher := { base.cipher with waiting := [{ user := .polder 0, q := 0, ref := 0, op := 16, slot := 0, params := zeros 32, source := zeros 32, aad := 0, restarted := false, key := [] }], heads := [(3, 0, 0)] } }), by unfold Canonical MailboxForm DictForm TablesForm FlowForm BufForm SchedForm EndpointForm PoldersForm CipherForm SiphonForm JournalForm EventsForm; decide +kernel⟩,
   ⟨(host), by decide +kernel⟩⟩

/-- Further clauses of `Obligations.CipherMessages`. -/
theorem test_CipherMessages_met_3 :
    (∃ k : Nat, ∃ n : Nat, ∃ m : CMsg, ∃ ch : Chain, ∃ s : State, Canonical s ∧ (coreAt s.cipher k).msg = some m ∧ m.user = .polder n ∧ fnRuns s n = true ∧ m.op = 0x13 ∧ chainAt (s.queue n m.q) m.ref = some ch ∧ ch.entries.length = 1)
    ∧ (∃ k : Nat, ∃ n : Nat, ∃ m : CMsg, ∃ hd : Bytes, ∃ d : Bytes, ∃ r : Bytes × Bytes, ∃ ch : Chain, ∃ s : State, Canonical s ∧ (coreAt s.cipher k).msg = some m ∧ m.user = .polder n ∧ fnRuns s n = true ∧ m.op = 0x10 ∧ m.aad = 0 ∧ chainAt (s.queue n m.q) m.ref = some ch ∧ ch.entries = [hd, d] ∧ eOpcode hd = 0x10 ∧ cAadLen hd = 0 ∧ r = Config.gcmEncrypt m.key (m.params.take 12) [] m.source ∧ requestRefused s n m.q (cDest d) (r.1.take (eLength d)).length = false ∧ isDdr (cDest d) = false ∧ requestRefused s n m.q (eAddr hd + 16) r.2.length = false ∧ isDdr (eAddr hd + 16) = false)
    ∧ (∃ k : Nat, ∃ n : Nat, ∃ m : CMsg, ∃ hd : Bytes, ∃ d : Bytes, ∃ r : Bytes, ∃ ch : Chain, ∃ s : State, Canonical s ∧ (coreAt s.cipher k).msg = some m ∧ m.user = .polder n ∧ fnRuns s n = true ∧ m.aad = 0 ∧ chainAt (s.queue n m.q) m.ref = some ch ∧ ch.entries = [hd, d] ∧ eOpcode hd = m.op ∧ ((m.op = 0x14 ∧ r = Config.aesCtr m.key (m.params.take 16) m.source) ∨ (m.op = 0x15 ∧ r = Config.xtsEncrypt m.key (m.params.take 16) m.source) ∨ (m.op = 0x16 ∧ r = Config.xtsDecrypt m.key (m.params.take 16) m.source)) ∧ requestRefused s n m.q (cDest d) (r.take (eLength d)).length = false ∧ isDdr (cDest d) = false)
    ∧ (∃ k : Nat, ∃ n : Nat, ∃ m : CMsg, ∃ s : State, (coreAt s.cipher k).msg = some m ∧ m.user = .polder n ∧ fnRuns s n = false)
    ∧ (∃ k : Nat, ∃ s : State, (coreAt s.cipher k).msg = none) :=
  ⟨⟨(255), (0), ({ user := .polder 0, q := 0, ref := 0, op := 19, slot := 0, params := zeros 32, source := zeros 32, aad := 0, restarted := false, key := [] }), (chain [entry 0x13 3 0 4096 (zeros 16)]), ((withQueue (queueOf 5 [chain [entry 0x13 3 0 4096 (zeros 16)]]) ({ host with cipher := { base.cipher with cores := [(255, { out := false, msg := some { user := .polder 0, q := 0, ref := 0, op := 19, slot := 0, params := zeros 32, source := zeros 32, aad := 0, restarted := false, key := [] } })] } }))), by unfold Canonical MailboxForm DictForm TablesForm FlowForm BufForm SchedForm EndpointForm PoldersForm CipherForm SiphonForm JournalForm EventsForm; decide +kernel⟩,
   ⟨(255), (0), ({ user := .polder 0, q := 0, ref := 0, op := 16, slot := 0, params := zeros 32, source := zeros 32, aad := 0, restarted := false, key := [] }), ((entry 0x10 1 0 4096 (zeros 16))), ((entry 0x10 2 16 8192 (leBytes 8 12288 ++ zeros 8))), (Config.gcmEncrypt ({ user := .polder 0, q := 0, ref := 0, op := 16, slot := 0, params := zeros 32, source := zeros 32, aad := 0, restarted := false, key := [] } : CMsg).key (({ user := .polder 0, q := 0, ref := 0, op := 16, slot := 0, params := zeros 32, source := zeros 32, aad := 0, restarted := false, key := [] } : CMsg).params.take 12) [] ({ user := .polder 0, q := 0, ref := 0, op := 16, slot := 0, params := zeros 32, source := zeros 32, aad := 0, restarted := false, key := [] } : CMsg).source), (chain [entry 0x10 1 0 4096 (zeros 16), entry 0x10 2 16 8192 (leBytes 8 12288 ++ zeros 8)]), ((withQueue (queueOf 5 [chain [entry 0x10 1 0 4096 (zeros 16), entry 0x10 2 16 8192 (leBytes 8 12288 ++ zeros 8)]]) ({ host with cipher := { base.cipher with cores := [(255, { out := false, msg := some { user := .polder 0, q := 0, ref := 0, op := 0x10, slot := 0, params := zeros 32, source := zeros 32, aad := 0, restarted := false, key := [] } })] } }))), by unfold Canonical MailboxForm DictForm TablesForm FlowForm BufForm SchedForm EndpointForm PoldersForm CipherForm SiphonForm JournalForm EventsForm; decide +kernel, by decide +kernel, by decide +kernel, by decide +kernel, by decide +kernel, by decide +kernel, by decide +kernel, by decide +kernel, by decide +kernel, by decide +kernel, rfl, never_refused _ _ _ _ _ (by decide +kernel) (by decide +kernel), by decide +kernel, never_refused _ _ _ _ _ (by decide +kernel) (by decide +kernel), by decide +kernel⟩,
   ⟨(255), (0), ({ user := .polder 0, q := 0, ref := 0, op := 0x16, slot := 0, params := zeros 32, source := zeros 32, aad := 0, restarted := false, key := [] }), ((entry 0x16 1 0 4096 (zeros 16))), ((entry 0x16 2 16 8192 (leBytes 8 12288 ++ zeros 8))), (Config.xtsDecrypt [] ((zeros 32).take 16) (zeros 32)), (chain [entry 0x16 1 0 4096 (zeros 16), entry 0x16 2 16 8192 (leBytes 8 12288 ++ zeros 8)]), ((withQueue (queueOf 5 [chain [entry 0x16 1 0 4096 (zeros 16), entry 0x16 2 16 8192 (leBytes 8 12288 ++ zeros 8)]]) ({ host with cipher := { base.cipher with cores := [(255, { out := false, msg := some { user := .polder 0, q := 0, ref := 0, op := 0x16, slot := 0, params := zeros 32, source := zeros 32, aad := 0, restarted := false, key := [] } })] } }))), by unfold Canonical MailboxForm DictForm TablesForm FlowForm BufForm SchedForm EndpointForm PoldersForm CipherForm SiphonForm JournalForm EventsForm; decide +kernel, by decide +kernel, by decide +kernel, by decide +kernel, by decide +kernel, by decide +kernel, by decide +kernel, by decide +kernel, .inr (.inr ⟨by decide +kernel, rfl⟩), never_refused _ _ _ _ _ (by decide +kernel) (by decide +kernel), by decide +kernel⟩,
   ⟨(255), (0), ({ user := .polder 0, q := 0, ref := 0, op := 16, slot := 0, params := zeros 32, source := zeros 32, aad := 0, restarted := false, key := [] }), ((withQueue (queueOf 5 [chain [entry 0x10 1 0 4096 (zeros 16), entry 0x10 2 16 8192 (leBytes 8 12288 ++ zeros 8)]]) ({ base with cipher := { base.cipher with cores := [(255, { out := false, msg := some { user := .polder 0, q := 0, ref := 0, op := 0x10, slot := 0, params := zeros 32, source := zeros 32, aad := 0, restarted := false, key := [] } })] } }))), by decide +kernel⟩,
   ⟨(255), (host), by decide +kernel⟩⟩

/-- Further clauses of `Obligations.CipherMessages`. -/
theorem test_CipherMessages_met_4 :
    (∃ k : Nat, ∃ s : State, Canonical s ∧ k < 256 ∧ (coreAt s.cipher k).out = false) :=
  ⟨(255), (host), by unfold Canonical MailboxForm DictForm TablesForm FlowForm BufForm SchedForm EndpointForm PoldersForm CipherForm SiphonForm JournalForm EventsForm; decide +kernel⟩

/-- The hypotheses of `Obligations.KeySlots` are met. -/
theorem test_KeySlots_met :
    (∃ t : Nat, ∃ fn : Nat, ∃ q : Nat, ∃ blob : Bytes, ∃ d : Bytes, ∃ ch : Chain, ∃ s : State, ∃ s1 : State, Canonical s ∧ cipherChain s fn q 0x18 = some ch ∧ HostBytes (advance t s) fn q [(eAddr (ch.entries.headD []), eLength (ch.entries.headD []))] blob d s1)
    ∧ (∃ b : Bytes, byteAt b 0 ≠ 1)
    ∧ (∃ fn : Nat, ∃ b : Bytes, byteAt b 0 = 1 ∧ byteAt b 1 = 2 ∧ b.length = 56 ∧ beField b 2 2 < 32 ∧ beField b 6 2 ≠ fn)
    ∧ (∃ fn : Nat, ∃ b : Bytes, ∃ s : State, byteAt b 0 = 1 ∧ byteAt b 1 = 2 ∧ b.length = 56 ∧ beField b 2 2 < 32 ∧ beField b 6 2 = fn ∧ beField b 8 4 ≠ (s.polder fn).gen)
    ∧ (∃ fn : Nat, ∃ b : Bytes, ∃ s : State, byteAt b 0 = 1 ∧ byteAt b 1 = 2 ∧ b.length = 56 ∧ beField b 2 2 < 32 ∧ beField b 6 2 = fn ∧ beField b 8 4 = (s.polder fn).gen) :=
  ⟨⟨(0), (0), (0), (zeros 56), ((gather (advance (0) ((withQueue (queueOf 5 [chain [entry 0x18 3 56 4096 (zeros 16)]]) (host)))) [(eAddr ((chain [entry 0x18 3 56 4096 (zeros 16)]).entries.headD []), eLength ((chain [entry 0x18 3 56 4096 (zeros 16)]).entries.headD []))] (zeros 56)).getD []), (chain [entry 0x18 3 56 4096 (zeros 16)]), ((withQueue (queueOf 5 [chain [entry 0x18 3 56 4096 (zeros 16)]]) (host))), ((readNow (queueReq (advance (0) ((withQueue (queueOf 5 [chain [entry 0x18 3 56 4096 (zeros 16)]]) (host)))) (0) (0)) [(eAddr ((chain [entry 0x18 3 56 4096 (zeros 16)]).entries.headD []), eLength ((chain [entry 0x18 3 56 4096 (zeros 16)]).entries.headD []))] (advance (0) ((withQueue (queueOf 5 [chain [entry 0x18 3 56 4096 (zeros 16)]]) (host))))).getD base), by unfold Canonical MailboxForm DictForm TablesForm FlowForm BufForm SchedForm EndpointForm PoldersForm CipherForm SiphonForm JournalForm EventsForm HostBytes; decide +kernel⟩,
   ⟨([]), by decide +kernel⟩,
   ⟨(1), ([1, 2] ++ zeros 54), by decide +kernel⟩,
   ⟨(0), ([1, 2] ++ zeros 6 ++ [0, 0, 0, 1] ++ zeros 44), (base), by decide +kernel⟩,
   ⟨(0), ([1, 2] ++ zeros 54), (base), by decide +kernel⟩⟩

/-- Further clauses of `Obligations.KeySlots`. -/
theorem test_KeySlots_met_2 :
    (∃ t : Nat, ∃ fn : Nat, ∃ q : Nat, ∃ key : Bytes, ∃ d : Bytes, ∃ b : Bytes, ∃ ch : Chain, ∃ s : State, ∃ s1 : State, Canonical s ∧ cipherChain s fn q 0x19 = some ch ∧ HostBytes (advance t s) fn q [(eAddr (ch.entries.headD []), eLength (ch.entries.headD []))] key d s1 ∧ b = wrapBlob s fn (leField (ch.entries.headD []) 24 2) (byteAt (ch.entries.headD []) 26) (leField (ch.entries.headD []) 28 2) d ∧ requestRefused s fn q (cDest (ch.entries.headD [])) b.length = false ∧ isDdr (cDest (ch.entries.headD [])) = false)
    ∧ (∃ fn : Nat, ∃ q : Nat, ∃ ch : Chain, ∃ s : State, Canonical s ∧ fnRuns s fn = true ∧ readRefused s fn q [(eAddr (ch.entries.headD []), eLength (ch.entries.headD []))] = false ∧ hostLen [(eAddr (ch.entries.headD []), eLength (ch.entries.headD []))] ≠ 0 ∧ cipherChain s fn q 0x18 = some ch)
    ∧ (∃ fn : Nat, ∃ q : Nat, ∃ ch : Chain, ∃ s : State, Canonical s ∧ fnRuns s fn = true ∧ readRefused s fn q [(eAddr (ch.entries.headD []), eLength (ch.entries.headD []))] = false ∧ hostLen [(eAddr (ch.entries.headD []), eLength (ch.entries.headD []))] ≠ 0 ∧ cipherChain s fn q 0x19 = some ch)
    ∧ (∃ fn : Nat, ∃ slot : Nat, ∃ alg : Nat, ∃ usage : Nat, alg < 256 ∧ usage < 65536 ∧ slot < 65536 ∧ fn < 65536)
    ∧ (∃ fn : Nat, ∃ slot : Nat, ∃ alg : Nat, ∃ usage : Nat, alg < 256 ∧ usage < 65536 ∧ slot < 65536 ∧ fn < 65536) :=
  ⟨⟨(0), (0), (0), (zeros 32), ((gather (advance (0) ((withQueue (queueOf 5 [chain [entry 0x19 3 32 4096 (zeros 16)]]) (host)))) [(eAddr ((chain [entry 0x19 3 32 4096 (zeros 16)]).entries.headD []), eLength ((chain [entry 0x19 3 32 4096 (zeros 16)]).entries.headD []))] (zeros 32)).getD []), (wrapBlob ((withQueue (queueOf 5 [chain [entry 0x19 3 32 4096 (zeros 16)]]) (host))) (0) (leField ((chain [entry 0x19 3 32 4096 (zeros 16)]).entries.headD []) 24 2) (byteAt ((chain [entry 0x19 3 32 4096 (zeros 16)]).entries.headD []) 26) (leField ((chain [entry 0x19 3 32 4096 (zeros 16)]).entries.headD []) 28 2) ((gather (advance (0) ((withQueue (queueOf 5 [chain [entry 0x19 3 32 4096 (zeros 16)]]) (host)))) [(eAddr ((chain [entry 0x19 3 32 4096 (zeros 16)]).entries.headD []), eLength ((chain [entry 0x19 3 32 4096 (zeros 16)]).entries.headD []))] (zeros 32)).getD [] : Bytes)), (chain [entry 0x19 3 32 4096 (zeros 16)]), ((withQueue (queueOf 5 [chain [entry 0x19 3 32 4096 (zeros 16)]]) (host))), ((readNow (queueReq (advance (0) ((withQueue (queueOf 5 [chain [entry 0x19 3 32 4096 (zeros 16)]]) (host)))) (0) (0)) [(eAddr ((chain [entry 0x19 3 32 4096 (zeros 16)]).entries.headD []), eLength ((chain [entry 0x19 3 32 4096 (zeros 16)]).entries.headD []))] (advance (0) ((withQueue (queueOf 5 [chain [entry 0x19 3 32 4096 (zeros 16)]]) (host))))).getD base), by unfold Canonical MailboxForm DictForm TablesForm FlowForm BufForm SchedForm EndpointForm PoldersForm CipherForm SiphonForm JournalForm EventsForm; decide +kernel, by decide +kernel, by unfold HostBytes; decide +kernel, rfl, never_refused _ _ _ _ _ (by decide +kernel) (by decide +kernel), by decide +kernel⟩,
   ⟨(0), (0), (chain [entry 0x18 3 56 4096 (zeros 16)]), ((withQueue (queueOf 5 [chain [entry 0x18 3 56 4096 (zeros 16)]]) (host))), by unfold Canonical MailboxForm DictForm TablesForm FlowForm BufForm SchedForm EndpointForm PoldersForm CipherForm SiphonForm JournalForm EventsForm; decide +kernel⟩,
   ⟨(0), (0), (chain [entry 0x19 3 32 4096 (zeros 16)]), ((withQueue (queueOf 5 [chain [entry 0x19 3 32 4096 (zeros 16)]]) (host))), by unfold Canonical MailboxForm DictForm TablesForm FlowForm BufForm SchedForm EndpointForm PoldersForm CipherForm SiphonForm JournalForm EventsForm; decide +kernel⟩,
   ⟨(65535), (65535), (255), (65535), by decide +kernel⟩,
   ⟨(65535), (65535), (255), (65535), by decide +kernel⟩⟩

/-- Further clauses of `Obligations.KeySlots`. -/
theorem test_KeySlots_met_3 :
    (∃ fn : Nat, ∃ slot : Nat, ∃ alg : Nat, ∃ usage : Nat, alg < 256 ∧ usage < 65536 ∧ slot < 65536 ∧ fn < 65536)
    ∧ (∃ fn : Nat, ∃ slot : Nat, ∃ alg : Nat, ∃ usage : Nat, alg < 256 ∧ usage < 65536 ∧ slot < 65536 ∧ fn < 65536)
    ∧ (∃ fn : Nat, ∃ slot : Nat, ∃ alg : Nat, ∃ usage : Nat, alg < 256 ∧ usage < 65536 ∧ slot < 65536 ∧ fn < 65536)
    ∧ (∃ fn : Nat, ∃ q : Nat, ∃ g : Nat, ∃ ch : Chain, ∃ s : State, Canonical s ∧ cipherChain s fn q 0x1A = some ch ∧ globalOf s fn 2 (cSlot (ch.entries.headD [])) = some g ∧ (s.keySlot g).users = 0)
    ∧ (∃ fn : Nat, ∃ q : Nat, ∃ g : Nat, ∃ ch : Chain, ∃ s : State, Canonical s ∧ cipherChain s fn q 0x1A = some ch ∧ globalOf s fn 2 (cSlot (ch.entries.headD [])) = some g ∧ (s.keySlot g).users ≠ 0) :=
  ⟨⟨(65535), (65535), (255), (65535), by decide +kernel⟩,
   ⟨(65535), (65535), (255), (65535), by decide +kernel⟩,
   ⟨(65535), (65535), (255), (65535), by decide +kernel⟩,
   ⟨(0), (0), (0), (chain [entry 0x1A 3 0 0 (zeros 16)]), ((withQueue (queueOf 5 [chain [entry 0x1A 3 0 0 (zeros 16)]]) (host))), by unfold Canonical MailboxForm DictForm TablesForm FlowForm BufForm SchedForm EndpointForm PoldersForm CipherForm SiphonForm JournalForm EventsForm; decide +kernel⟩,
   ⟨(0), (0), (0), (chain [entry 0x1A 3 0 0 (zeros 16)]), ((withQueue (queueOf 5 [chain [entry 0x1A 3 0 0 (zeros 16)]]) (host.setKeySlot 0 { alg := 1, usage := 1, key := zeros 16, users := 1 }))), by unfold Canonical MailboxForm DictForm TablesForm FlowForm BufForm SchedForm EndpointForm PoldersForm CipherForm SiphonForm JournalForm EventsForm; decide +kernel⟩⟩

/-- The hypotheses of `Obligations.SiphonEntries` are met. -/
theorem test_SiphonEntries_met :
    ((∃ t fn q g : Nat, ∃ host d : Bytes, ∃ ch : Chain, ∃ s s1 : State, Canonical s ∧ siphonChain s fn q 32 = some ch ∧ HostBytes (advance t s) fn q [(eAddr (ch.entries.headD []), 32)] host d s1 ∧ chanOf s fn (sChan (ch.entries.headD [])) = some g ∧ chanUsable (s.channel g) 32 = true ∧ 0 < leField d 0 4 ∧ leField d 0 4 ≤ 67108864 ∧ slice d 28 4 = zeros 4 ∧ (32 ≠ 0x21 → leField d 24 4 = 0) ∧ (isDdr (leField d 16 8) = true → bitsOf (leField d 16 8) 62 41 = 0) ∧ outside s fn (if 32 = 0x22 then 1 else 0) (leField d 16 8) (leField d 0 4) = false) ∧ (∃ t fn q g : Nat, ∃ host d : Bytes, ∃ ch : Chain, ∃ s s1 : State, Canonical s ∧ siphonChain s fn q 32 = some ch ∧ HostBytes (advance t s) fn q [(eAddr (ch.entries.headD []), 32)] host d s1 ∧ chanOf s fn (sChan (ch.entries.headD [])) = some g ∧ chanUsable (s.channel g) 32 = true ∧ (leField d 0 4 = 0 ∨ 67108864 < leField d 0 4 ∨ slice d 28 4 ≠ zeros 4)))
    ∧ ((∃ t fn q g : Nat, ∃ host d : Bytes, ∃ ch : Chain, ∃ s s1 : State, Canonical s ∧ siphonChain s fn q 33 = some ch ∧ HostBytes (advance t s) fn q [(eAddr (ch.entries.headD []), 32)] host d s1 ∧ chanOf s fn (sChan (ch.entries.headD [])) = some g ∧ chanUsable (s.channel g) 33 = true ∧ 0 < leField d 0 4 ∧ leField d 0 4 ≤ 67108864 ∧ slice d 28 4 = zeros 4 ∧ (33 ≠ 0x21 → leField d 24 4 = 0) ∧ (isDdr (leField d 16 8) = true → bitsOf (leField d 16 8) 62 41 = 0) ∧ outside s fn (if 33 = 0x22 then 1 else 0) (leField d 16 8) (leField d 0 4) = false) ∧ (∃ t fn q g : Nat, ∃ host d : Bytes, ∃ ch : Chain, ∃ s s1 : State, Canonical s ∧ siphonChain s fn q 33 = some ch ∧ HostBytes (advance t s) fn q [(eAddr (ch.entries.headD []), 32)] host d s1 ∧ chanOf s fn (sChan (ch.entries.headD [])) = some g ∧ chanUsable (s.channel g) 33 = true ∧ (leField d 0 4 = 0 ∨ 67108864 < leField d 0 4 ∨ slice d 28 4 ≠ zeros 4)))
    ∧ ((∃ t fn q g : Nat, ∃ host d : Bytes, ∃ ch : Chain, ∃ s s1 : State, Canonical s ∧ siphonChain s fn q 34 = some ch ∧ HostBytes (advance t s) fn q [(eAddr (ch.entries.headD []), 32)] host d s1 ∧ chanOf s fn (sChan (ch.entries.headD [])) = some g ∧ chanUsable (s.channel g) 34 = true ∧ 0 < leField d 0 4 ∧ leField d 0 4 ≤ 67108864 ∧ slice d 28 4 = zeros 4 ∧ (34 ≠ 0x21 → leField d 24 4 = 0) ∧ (isDdr (leField d 16 8) = true → bitsOf (leField d 16 8) 62 41 = 0) ∧ outside s fn (if 34 = 0x22 then 1 else 0) (leField d 16 8) (leField d 0 4) = false) ∧ (∃ t fn q g : Nat, ∃ host d : Bytes, ∃ ch : Chain, ∃ s s1 : State, Canonical s ∧ siphonChain s fn q 34 = some ch ∧ HostBytes (advance t s) fn q [(eAddr (ch.entries.headD []), 32)] host d s1 ∧ chanOf s fn (sChan (ch.entries.headD [])) = some g ∧ chanUsable (s.channel g) 34 = true ∧ (leField d 0 4 = 0 ∨ 67108864 < leField d 0 4 ∨ slice d 28 4 ≠ zeros 4)))
    ∧ (∃ t : Nat, ∃ fn : Nat, ∃ q : Nat, ∃ g : Nat, ∃ host : Bytes, ∃ d : Bytes, ∃ ch : Chain, ∃ s : State, ∃ s1 : State, Canonical s ∧ SiphonEntry (advance t s) fn q 0x23 64 host d ch s1 ∧ chanOf s fn (sChan (ch.entries.headD [])) = some g ∧ chRuns (s.channel g).state = true ∧ sDataLen (ch.entries.headD []) = 0)
    ∧ (∃ e : (Nat → Nat → Nat → Option Bytes → Instr) × Nat × Nat, ∃ fn : Nat, ∃ q : Nat, ∃ ch : Chain, ∃ s : State, e ∈ [(.siphonWrite, 0x20, 32), (.siphonWriteImm, 0x21, 32), (.siphonRead, 0x22, 32), (.jcmdSend, 0x23, 64), (.channelModify, 0x28, 128), (.regionRegister, 0x2A, 32)] ∧ siphonChain s fn q e.2.1 = some ch ∧ readRefused s fn q [(eAddr (ch.entries.headD []), e.2.2)] = false ∧ isDdr (eAddr (ch.entries.headD [])) = false ∧ fnRuns s fn = true) :=
  ⟨⟨⟨0, 0, 0, 0, (leBytes 4 67108864 ++ zeros 28), (leBytes 4 67108864 ++ zeros 28), chain [entry 32 3 0 4096 (zeros 16)], (withQueue (queueOf 6 [chain [entry 32 3 0 4096 (zeros 16)]]) ((host.setPolder 0 { Polder.zero with counts := { Counts.polder0 with channels := 1, regions := 1, domains := 1 }, maps := [List.range 64, List.range 64, List.range 128, [0], [], [0], []] }).setChannel 0 { Channel.reset with state := 2, record := zeros 128 })), ((readNow (queueReq (advance 0 (withQueue (queueOf 6 [chain [entry 32 3 0 4096 (zeros 16)]]) ((host.setPolder 0 { Polder.zero with counts := { Counts.polder0 with channels := 1, regions := 1, domains := 1 }, maps := [List.range 64, List.range 64, List.range 128, [0], [], [0], []] }).setChannel 0 { Channel.reset with state := 2, record := zeros 128 }))) 0 0) [(eAddr ((chain [entry 32 3 0 4096 (zeros 16)]).entries.headD []), 32)] (advance 0 (withQueue (queueOf 6 [chain [entry 32 3 0 4096 (zeros 16)]]) ((host.setPolder 0 { Polder.zero with counts := { Counts.polder0 with channels := 1, regions := 1, domains := 1 }, maps := [List.range 64, List.range 64, List.range 128, [0], [], [0], []] }).setChannel 0 { Channel.reset with state := 2, record := zeros 128 })))).getD base), by unfold Canonical MailboxForm DictForm TablesForm FlowForm BufForm SchedForm EndpointForm PoldersForm CipherForm SiphonForm JournalForm EventsForm HostBytes; decide +kernel⟩, 0, 0, 0, 0, (zeros 32), (zeros 32), chain [entry 32 3 0 4096 (zeros 16)], (withQueue (queueOf 6 [chain [entry 32 3 0 4096 (zeros 16)]]) ((host.setPolder 0 { Polder.zero with counts := { Counts.polder0 with channels := 1, regions := 1, domains := 1 }, maps := [List.range 64, List.range 64, List.range 128, [0], [], [0], []] }).setChannel 0 { Channel.reset with state := 2, record := zeros 128 })), ((readNow (queueReq (advance 0 (withQueue (queueOf 6 [chain [entry 32 3 0 4096 (zeros 16)]]) ((host.setPolder 0 { Polder.zero with counts := { Counts.polder0 with channels := 1, regions := 1, domains := 1 }, maps := [List.range 64, List.range 64, List.range 128, [0], [], [0], []] }).setChannel 0 { Channel.reset with state := 2, record := zeros 128 }))) 0 0) [(eAddr ((chain [entry 32 3 0 4096 (zeros 16)]).entries.headD []), 32)] (advance 0 (withQueue (queueOf 6 [chain [entry 32 3 0 4096 (zeros 16)]]) ((host.setPolder 0 { Polder.zero with counts := { Counts.polder0 with channels := 1, regions := 1, domains := 1 }, maps := [List.range 64, List.range 64, List.range 128, [0], [], [0], []] }).setChannel 0 { Channel.reset with state := 2, record := zeros 128 })))).getD base), by unfold Canonical MailboxForm DictForm TablesForm FlowForm BufForm SchedForm EndpointForm PoldersForm CipherForm SiphonForm JournalForm EventsForm HostBytes; decide +kernel⟩,
   ⟨⟨0, 0, 0, 0, (leBytes 4 67108864 ++ zeros 28), (leBytes 4 67108864 ++ zeros 28), chain [entry 33 3 0 4096 (zeros 16)], (withQueue (queueOf 6 [chain [entry 33 3 0 4096 (zeros 16)]]) ((host.setPolder 0 { Polder.zero with counts := { Counts.polder0 with channels := 1, regions := 1, domains := 1 }, maps := [List.range 64, List.range 64, List.range 128, [0], [], [0], []] }).setChannel 0 { Channel.reset with state := 2, record := zeros 128 })), ((readNow (queueReq (advance 0 (withQueue (queueOf 6 [chain [entry 33 3 0 4096 (zeros 16)]]) ((host.setPolder 0 { Polder.zero with counts := { Counts.polder0 with channels := 1, regions := 1, domains := 1 }, maps := [List.range 64, List.range 64, List.range 128, [0], [], [0], []] }).setChannel 0 { Channel.reset with state := 2, record := zeros 128 }))) 0 0) [(eAddr ((chain [entry 33 3 0 4096 (zeros 16)]).entries.headD []), 32)] (advance 0 (withQueue (queueOf 6 [chain [entry 33 3 0 4096 (zeros 16)]]) ((host.setPolder 0 { Polder.zero with counts := { Counts.polder0 with channels := 1, regions := 1, domains := 1 }, maps := [List.range 64, List.range 64, List.range 128, [0], [], [0], []] }).setChannel 0 { Channel.reset with state := 2, record := zeros 128 })))).getD base), by unfold Canonical MailboxForm DictForm TablesForm FlowForm BufForm SchedForm EndpointForm PoldersForm CipherForm SiphonForm JournalForm EventsForm HostBytes; decide +kernel⟩, 0, 0, 0, 0, (zeros 32), (zeros 32), chain [entry 33 3 0 4096 (zeros 16)], (withQueue (queueOf 6 [chain [entry 33 3 0 4096 (zeros 16)]]) ((host.setPolder 0 { Polder.zero with counts := { Counts.polder0 with channels := 1, regions := 1, domains := 1 }, maps := [List.range 64, List.range 64, List.range 128, [0], [], [0], []] }).setChannel 0 { Channel.reset with state := 2, record := zeros 128 })), ((readNow (queueReq (advance 0 (withQueue (queueOf 6 [chain [entry 33 3 0 4096 (zeros 16)]]) ((host.setPolder 0 { Polder.zero with counts := { Counts.polder0 with channels := 1, regions := 1, domains := 1 }, maps := [List.range 64, List.range 64, List.range 128, [0], [], [0], []] }).setChannel 0 { Channel.reset with state := 2, record := zeros 128 }))) 0 0) [(eAddr ((chain [entry 33 3 0 4096 (zeros 16)]).entries.headD []), 32)] (advance 0 (withQueue (queueOf 6 [chain [entry 33 3 0 4096 (zeros 16)]]) ((host.setPolder 0 { Polder.zero with counts := { Counts.polder0 with channels := 1, regions := 1, domains := 1 }, maps := [List.range 64, List.range 64, List.range 128, [0], [], [0], []] }).setChannel 0 { Channel.reset with state := 2, record := zeros 128 })))).getD base), by unfold Canonical MailboxForm DictForm TablesForm FlowForm BufForm SchedForm EndpointForm PoldersForm CipherForm SiphonForm JournalForm EventsForm HostBytes; decide +kernel⟩,
   ⟨⟨0, 0, 0, 0, (leBytes 4 67108864 ++ zeros 28), (leBytes 4 67108864 ++ zeros 28), chain [entry 34 3 0 4096 (zeros 16)], (withQueue (queueOf 6 [chain [entry 34 3 0 4096 (zeros 16)]]) ((host.setPolder 0 { Polder.zero with counts := { Counts.polder0 with channels := 1, regions := 1, domains := 1 }, maps := [List.range 64, List.range 64, List.range 128, [0], [], [0], []] }).setChannel 0 { Channel.reset with state := 2, record := zeros 128 })), ((readNow (queueReq (advance 0 (withQueue (queueOf 6 [chain [entry 34 3 0 4096 (zeros 16)]]) ((host.setPolder 0 { Polder.zero with counts := { Counts.polder0 with channels := 1, regions := 1, domains := 1 }, maps := [List.range 64, List.range 64, List.range 128, [0], [], [0], []] }).setChannel 0 { Channel.reset with state := 2, record := zeros 128 }))) 0 0) [(eAddr ((chain [entry 34 3 0 4096 (zeros 16)]).entries.headD []), 32)] (advance 0 (withQueue (queueOf 6 [chain [entry 34 3 0 4096 (zeros 16)]]) ((host.setPolder 0 { Polder.zero with counts := { Counts.polder0 with channels := 1, regions := 1, domains := 1 }, maps := [List.range 64, List.range 64, List.range 128, [0], [], [0], []] }).setChannel 0 { Channel.reset with state := 2, record := zeros 128 })))).getD base), by unfold Canonical MailboxForm DictForm TablesForm FlowForm BufForm SchedForm EndpointForm PoldersForm CipherForm SiphonForm JournalForm EventsForm HostBytes; decide +kernel⟩, 0, 0, 0, 0, (zeros 32), (zeros 32), chain [entry 34 3 0 4096 (zeros 16)], (withQueue (queueOf 6 [chain [entry 34 3 0 4096 (zeros 16)]]) ((host.setPolder 0 { Polder.zero with counts := { Counts.polder0 with channels := 1, regions := 1, domains := 1 }, maps := [List.range 64, List.range 64, List.range 128, [0], [], [0], []] }).setChannel 0 { Channel.reset with state := 2, record := zeros 128 })), ((readNow (queueReq (advance 0 (withQueue (queueOf 6 [chain [entry 34 3 0 4096 (zeros 16)]]) ((host.setPolder 0 { Polder.zero with counts := { Counts.polder0 with channels := 1, regions := 1, domains := 1 }, maps := [List.range 64, List.range 64, List.range 128, [0], [], [0], []] }).setChannel 0 { Channel.reset with state := 2, record := zeros 128 }))) 0 0) [(eAddr ((chain [entry 34 3 0 4096 (zeros 16)]).entries.headD []), 32)] (advance 0 (withQueue (queueOf 6 [chain [entry 34 3 0 4096 (zeros 16)]]) ((host.setPolder 0 { Polder.zero with counts := { Counts.polder0 with channels := 1, regions := 1, domains := 1 }, maps := [List.range 64, List.range 64, List.range 128, [0], [], [0], []] }).setChannel 0 { Channel.reset with state := 2, record := zeros 128 })))).getD base), by unfold Canonical MailboxForm DictForm TablesForm FlowForm BufForm SchedForm EndpointForm PoldersForm CipherForm SiphonForm JournalForm EventsForm HostBytes; decide +kernel⟩,
   ⟨(0), (0), (0), (0), (zeros 64), ((gather (advance (0) ((withQueue (queueOf 6 [chain [entry 0x23 3 0 4096 (zeros 16)]]) ((host.setPolder 0 { Polder.zero with counts := { Counts.polder0 with channels := 1, regions := 1, domains := 1 }, maps := [List.range 64, List.range 64, List.range 128, [0], [], [0], []] }).setChannel 0 { Channel.reset with state := 2, record := zeros 128 })) : State)) [(eAddr ((chain [entry 0x23 3 0 4096 (zeros 16)]).entries.headD []), 64)] (zeros 64)).getD []), (chain [entry 0x23 3 0 4096 (zeros 16)]), ((withQueue (queueOf 6 [chain [entry 0x23 3 0 4096 (zeros 16)]]) ((host.setPolder 0 { Polder.zero with counts := { Counts.polder0 with channels := 1, regions := 1, domains := 1 }, maps := [List.range 64, List.range 64, List.range 128, [0], [], [0], []] }).setChannel 0 { Channel.reset with state := 2, record := zeros 128 }))), ((readNow (queueReq (advance (0) ((withQueue (queueOf 6 [chain [entry 0x23 3 0 4096 (zeros 16)]]) ((host.setPolder 0 { Polder.zero with counts := { Counts.polder0 with channels := 1, regions := 1, domains := 1 }, maps := [List.range 64, List.range 64, List.range 128, [0], [], [0], []] }).setChannel 0 { Channel.reset with state := 2, record := zeros 128 })) : State)) (0) (0)) [(eAddr ((chain [entry 0x23 3 0 4096 (zeros 16)]).entries.headD []), 64)] (advance (0) ((withQueue (queueOf 6 [chain [entry 0x23 3 0 4096 (zeros 16)]]) ((host.setPolder 0 { Polder.zero with counts := { Counts.polder0 with channels := 1, regions := 1, domains := 1 }, maps := [List.range 64, List.range 64, List.range 128, [0], [], [0], []] }).setChannel 0 { Channel.reset with state := 2, record := zeros 128 })) : State))).getD base), by unfold Canonical MailboxForm DictForm TablesForm FlowForm BufForm SchedForm EndpointForm PoldersForm CipherForm SiphonForm JournalForm EventsForm SiphonEntry HostBytes; decide +kernel⟩,
   ⟨((.regionRegister, 0x2A, 32)), (0), (0), (chain [entry 0x2A 3 0 4096 (zeros 16)]), ((withQueue (queueOf 6 [chain [entry 0x2A 3 0 4096 (zeros 16)]]) ((host.setPolder 0 { Polder.zero with counts := { Counts.polder0 with channels := 1, regions := 1, domains := 1 }, maps := [List.range 64, List.range 64, List.range 128, [0], [], [0], []] }).setChannel 0 { Channel.reset with state := 2, record := zeros 128 }))), by simp, by decide +kernel⟩⟩

/-- Further clauses of `Obligations.SiphonEntries`. -/
theorem test_SiphonEntries_met_2 :
    (∃ fn : Nat, ∃ q : Nat, ∃ g : Nat, ∃ ch : Chain, ∃ s : State, Canonical s ∧ siphonChain s fn q 0x24 = some ch ∧ chanOf s fn (sChan (ch.entries.headD [])) = some g ∧ chRuns (s.channel g).state = true)
    ∧ (∃ t : Nat, ∃ fn : Nat, ∃ q : Nat, ∃ g : Nat, ∃ host : Bytes, ∃ d : Bytes, ∃ ch : Chain, ∃ s : State, ∃ s1 : State, Canonical s ∧ SiphonEntry (advance t s) fn q 0x28 128 host d ch s1 ∧ chanOf s fn (sChan (ch.entries.headD [])) = some g ∧ (s.channel g).msgs = [] ∧ (s.channel g).recvs = [] ∧ chEnc (s.channel g) = false ∧ (byteAt d 1).testBit 1 = false)
    ∧ (∃ fn : Nat, ∃ q : Nat, ∃ g : Nat, ∃ ch : Chain, ∃ s : State, Canonical s ∧ siphonChain s fn q 0x29 = some ch ∧ chanOf s fn (sChan (ch.entries.headD [])) = some g ∧ requestRefused s fn q (eAddr (ch.entries.headD [])) 128 = false ∧ isDdr (eAddr (ch.entries.headD [])) = false)
    ∧ (∃ t : Nat, ∃ fn : Nat, ∃ q : Nat, ∃ g : Nat, ∃ host : Bytes, ∃ d : Bytes, ∃ ch : Chain, ∃ s : State, ∃ s1 : State, Canonical s ∧ SiphonEntry (advance t s) fn q 0x2A 32 host d ch s1 ∧ regionOf s fn (sRegion (ch.entries.headD [])) = some g ∧ leField d 16 2 < (s.polder fn).counts.domains ∧ registerStatus s fn (sRegion (ch.entries.headD [])) d = 0)
    ∧ (∃ t : Nat, ∃ fn : Nat, ∃ q : Nat, ∃ host : Bytes, ∃ d : Bytes, ∃ ch : Chain, ∃ s : State, ∃ s1 : State, Canonical s ∧ SiphonEntry (advance t s) fn q 0x2A 32 host d ch s1 ∧ leField d 16 2 < (s.polder fn).counts.domains ∧ registerStatus s fn (sRegion (ch.entries.headD [])) d ≠ 0) :=
  ⟨⟨(0), (0), (0), (chain [entry 0x24 3 0 0 (zeros 16)]), ((withQueue (queueOf 6 [chain [entry 0x24 3 0 0 (zeros 16)]]) ((host.setPolder 0 { Polder.zero with counts := { Counts.polder0 with channels := 1, regions := 1, domains := 1 }, maps := [List.range 64, List.range 64, List.range 128, [0], [], [0], []] }).setChannel 0 { Channel.reset with state := 2, record := zeros 128 }))), by unfold Canonical MailboxForm DictForm TablesForm FlowForm BufForm SchedForm EndpointForm PoldersForm CipherForm SiphonForm JournalForm EventsForm; decide +kernel⟩,
   ⟨(0), (0), (0), (0), (zeros 128), ((gather (advance (0) ((withQueue (queueOf 6 [chain [entry 0x28 3 0 4096 (zeros 16)]]) ((host.setPolder 0 { Polder.zero with counts := { Counts.polder0 with channels := 1, regions := 1, domains := 1 }, maps := [List.range 64, List.range 64, List.range 128, [0], [], [0], []] }).setChannel 0 { Channel.reset with record := zeros 128 })) : State)) [(eAddr ((chain [entry 0x28 3 0 4096 (zeros 16)]).entries.headD []), 128)] (zeros 128)).getD []), (chain [entry 0x28 3 0 4096 (zeros 16)]), ((withQueue (queueOf 6 [chain [entry 0x28 3 0 4096 (zeros 16)]]) ((host.setPolder 0 { Polder.zero with counts := { Counts.polder0 with channels := 1, regions := 1, domains := 1 }, maps := [List.range 64, List.range 64, List.range 128, [0], [], [0], []] }).setChannel 0 { Channel.reset with record := zeros 128 }))), ((readNow (queueReq (advance (0) ((withQueue (queueOf 6 [chain [entry 0x28 3 0 4096 (zeros 16)]]) ((host.setPolder 0 { Polder.zero with counts := { Counts.polder0 with channels := 1, regions := 1, domains := 1 }, maps := [List.range 64, List.range 64, List.range 128, [0], [], [0], []] }).setChannel 0 { Channel.reset with record := zeros 128 })) : State)) (0) (0)) [(eAddr ((chain [entry 0x28 3 0 4096 (zeros 16)]).entries.headD []), 128)] (advance (0) ((withQueue (queueOf 6 [chain [entry 0x28 3 0 4096 (zeros 16)]]) ((host.setPolder 0 { Polder.zero with counts := { Counts.polder0 with channels := 1, regions := 1, domains := 1 }, maps := [List.range 64, List.range 64, List.range 128, [0], [], [0], []] }).setChannel 0 { Channel.reset with record := zeros 128 })) : State))).getD base), by unfold Canonical MailboxForm DictForm TablesForm FlowForm BufForm SchedForm EndpointForm PoldersForm CipherForm SiphonForm JournalForm EventsForm SiphonEntry HostBytes; decide +kernel⟩,
   ⟨(0), (0), (0), (chain [entry 0x29 3 0 4096 (zeros 16)]), ((withQueue (queueOf 6 [chain [entry 0x29 3 0 4096 (zeros 16)]]) ((host.setPolder 0 { Polder.zero with counts := { Counts.polder0 with channels := 1, regions := 1, domains := 1 }, maps := [List.range 64, List.range 64, List.range 128, [0], [], [0], []] }).setChannel 0 { Channel.reset with state := 2, record := zeros 128 }))), by unfold Canonical MailboxForm DictForm TablesForm FlowForm BufForm SchedForm EndpointForm PoldersForm CipherForm SiphonForm JournalForm EventsForm; decide +kernel⟩,
   ⟨(0), (0), (0), (0), ((zeros 8 ++ leBytes 8 4096 ++ zeros 16)), ((gather (advance (0) ((withQueue (queueOf 6 [chain [entry 0x2A 3 0 4096 (zeros 16)]]) ((host.setPolder 0 { Polder.zero with counts := { Counts.polder0 with channels := 1, regions := 1, domains := 1 }, maps := [List.range 64, List.range 64, List.range 128, [0], [], [0], []] }).setChannel 0 { Channel.reset with state := 2, record := zeros 128 })) : State)) [(eAddr ((chain [entry 0x2A 3 0 4096 (zeros 16)]).entries.headD []), 32)] ((zeros 8 ++ leBytes 8 4096 ++ zeros 16))).getD []), (chain [entry 0x2A 3 0 4096 (zeros 16)]), ((withQueue (queueOf 6 [chain [entry 0x2A 3 0 4096 (zeros 16)]]) ((host.setPolder 0 { Polder.zero with counts := { Counts.polder0 with channels := 1, regions := 1, domains := 1 }, maps := [List.range 64, List.range 64, List.range 128, [0], [], [0], []] }).setChannel 0 { Channel.reset with state := 2, record := zeros 128 }))), ((readNow (queueReq (advance (0) ((withQueue (queueOf 6 [chain [entry 0x2A 3 0 4096 (zeros 16)]]) ((host.setPolder 0 { Polder.zero with counts := { Counts.polder0 with channels := 1, regions := 1, domains := 1 }, maps := [List.range 64, List.range 64, List.range 128, [0], [], [0], []] }).setChannel 0 { Channel.reset with state := 2, record := zeros 128 })) : State)) (0) (0)) [(eAddr ((chain [entry 0x2A 3 0 4096 (zeros 16)]).entries.headD []), 32)] (advance (0) ((withQueue (queueOf 6 [chain [entry 0x2A 3 0 4096 (zeros 16)]]) ((host.setPolder 0 { Polder.zero with counts := { Counts.polder0 with channels := 1, regions := 1, domains := 1 }, maps := [List.range 64, List.range 64, List.range 128, [0], [], [0], []] }).setChannel 0 { Channel.reset with state := 2, record := zeros 128 })) : State))).getD base), by unfold Canonical MailboxForm DictForm TablesForm FlowForm BufForm SchedForm EndpointForm PoldersForm CipherForm SiphonForm JournalForm EventsForm SiphonEntry HostBytes; decide +kernel⟩,
   ⟨(0), (0), (0), ((zeros 32)), ((gather (advance (0) ((withQueue (queueOf 6 [chain [entry 0x2A 3 0 4096 (zeros 16)]]) ((host.setPolder 0 { Polder.zero with counts := { Counts.polder0 with channels := 1, regions := 1, domains := 1 }, maps := [List.range 64, List.range 64, List.range 128, [0], [], [0], []] }).setChannel 0 { Channel.reset with state := 2, record := zeros 128 })) : State)) [(eAddr ((chain [entry 0x2A 3 0 4096 (zeros 16)]).entries.headD []), 32)] ((zeros 32))).getD []), (chain [entry 0x2A 3 0 4096 (zeros 16)]), ((withQueue (queueOf 6 [chain [entry 0x2A 3 0 4096 (zeros 16)]]) ((host.setPolder 0 { Polder.zero with counts := { Counts.polder0 with channels := 1, regions := 1, domains := 1 }, maps := [List.range 64, List.range 64, List.range 128, [0], [], [0], []] }).setChannel 0 { Channel.reset with state := 2, record := zeros 128 }))), ((readNow (queueReq (advance (0) ((withQueue (queueOf 6 [chain [entry 0x2A 3 0 4096 (zeros 16)]]) ((host.setPolder 0 { Polder.zero with counts := { Counts.polder0 with channels := 1, regions := 1, domains := 1 }, maps := [List.range 64, List.range 64, List.range 128, [0], [], [0], []] }).setChannel 0 { Channel.reset with state := 2, record := zeros 128 })) : State)) (0) (0)) [(eAddr ((chain [entry 0x2A 3 0 4096 (zeros 16)]).entries.headD []), 32)] (advance (0) ((withQueue (queueOf 6 [chain [entry 0x2A 3 0 4096 (zeros 16)]]) ((host.setPolder 0 { Polder.zero with counts := { Counts.polder0 with channels := 1, regions := 1, domains := 1 }, maps := [List.range 64, List.range 64, List.range 128, [0], [], [0], []] }).setChannel 0 { Channel.reset with state := 2, record := zeros 128 })) : State))).getD base), by unfold Canonical MailboxForm DictForm TablesForm FlowForm BufForm SchedForm EndpointForm PoldersForm CipherForm SiphonForm JournalForm EventsForm SiphonEntry HostBytes; decide +kernel⟩⟩

/-- Further clauses of `Obligations.SiphonEntries`. -/
theorem test_SiphonEntries_met_3 :
    (∃ t : Nat, ∃ fn : Nat, ∃ q : Nat, ∃ host : Bytes, ∃ d : Bytes, ∃ ch : Chain, ∃ s : State, ∃ s1 : State, Canonical s ∧ SiphonEntry (advance t s) fn q 0x2A 32 host d ch s1 ∧ (s.polder fn).counts.domains ≤ leField d 16 2 ∧ (s.queue fn q).st = .enabled)
    ∧ (∃ fn : Nat, ∃ q : Nat, ∃ g : Nat, ∃ ch : Chain, ∃ s : State, Canonical s ∧ siphonChain s fn q 0x2B = some ch ∧ regionOf s fn (sRegion (ch.entries.headD [])) = some g)
    ∧ (∃ fn : Nat, ∃ q : Nat, ∃ r : Nat, ∃ g : Nat, ∃ ch : Chain, ∃ s : State, Canonical s ∧ regionOf s fn r = some g ∧ ((s.queue fn q).chains.find? (fun c => c.started && !c.finished && decide (eOpcode (c.entries.headD []) = 0x2B) && decide (sRegion (c.entries.headD []) = r)) = some ch)) :=
  ⟨⟨(0), (0), (0), ((zeros 8 ++ leBytes 8 4096 ++ [1, 0] ++ zeros 14)), ((gather (advance (0) ((withQueue (queueOf 6 [chain [entry 0x2A 3 0 4096 (zeros 16)]]) ((host.setPolder 0 { Polder.zero with counts := { Counts.polder0 with channels := 1, regions := 1, domains := 1 }, maps := [List.range 64, List.range 64, List.range 128, [0], [], [0], []] }).setChannel 0 { Channel.reset with state := 2, record := zeros 128 })) : State)) [(eAddr ((chain [entry 0x2A 3 0 4096 (zeros 16)]).entries.headD []), 32)] ((zeros 8 ++ leBytes 8 4096 ++ [1, 0] ++ zeros 14))).getD []), (chain [entry 0x2A 3 0 4096 (zeros 16)]), ((withQueue (queueOf 6 [chain [entry 0x2A 3 0 4096 (zeros 16)]]) ((host.setPolder 0 { Polder.zero with counts := { Counts.polder0 with channels := 1, regions := 1, domains := 1 }, maps := [List.range 64, List.range 64, List.range 128, [0], [], [0], []] }).setChannel 0 { Channel.reset with state := 2, record := zeros 128 }))), ((readNow (queueReq (advance (0) ((withQueue (queueOf 6 [chain [entry 0x2A 3 0 4096 (zeros 16)]]) ((host.setPolder 0 { Polder.zero with counts := { Counts.polder0 with channels := 1, regions := 1, domains := 1 }, maps := [List.range 64, List.range 64, List.range 128, [0], [], [0], []] }).setChannel 0 { Channel.reset with state := 2, record := zeros 128 })) : State)) (0) (0)) [(eAddr ((chain [entry 0x2A 3 0 4096 (zeros 16)]).entries.headD []), 32)] (advance (0) ((withQueue (queueOf 6 [chain [entry 0x2A 3 0 4096 (zeros 16)]]) ((host.setPolder 0 { Polder.zero with counts := { Counts.polder0 with channels := 1, regions := 1, domains := 1 }, maps := [List.range 64, List.range 64, List.range 128, [0], [], [0], []] }).setChannel 0 { Channel.reset with state := 2, record := zeros 128 })) : State))).getD base), by unfold Canonical MailboxForm DictForm TablesForm FlowForm BufForm SchedForm EndpointForm PoldersForm CipherForm SiphonForm JournalForm EventsForm SiphonEntry HostBytes; decide +kernel⟩,
   ⟨(0), (0), (0), (chain [entry 0x2B 3 0 0 (zeros 16)]), ((withQueue (queueOf 6 [chain [entry 0x2B 3 0 0 (zeros 16)]]) ((host.setPolder 0 { Polder.zero with counts := { Counts.polder0 with channels := 1, regions := 1, domains := 1 }, maps := [List.range 64, List.range 64, List.range 128, [0], [], [0], []] }).setChannel 0 { Channel.reset with state := 2, record := zeros 128 }))), by unfold Canonical MailboxForm DictForm TablesForm FlowForm BufForm SchedForm EndpointForm PoldersForm CipherForm SiphonForm JournalForm EventsForm; decide +kernel⟩,
   ⟨(0), (0), (0), (0), ({ chain [entry 0x2B 3 0 0 (zeros 16)] with started := true }), ((withQueue (queueOf 6 [{ chain [entry 0x2B 3 0 0 (zeros 16)] with started := true }]) ((host.setPolder 0 { Polder.zero with counts := { Counts.polder0 with channels := 1, regions := 1, domains := 1 }, maps := [List.range 64, List.range 64, List.range 128, [0], [], [0], []] }).setChannel 0 { Channel.reset with state := 2, record := zeros 128 }))), by unfold Canonical MailboxForm DictForm TablesForm FlowForm BufForm SchedForm EndpointForm PoldersForm CipherForm SiphonForm JournalForm EventsForm; decide +kernel⟩⟩

/-- The hypotheses of `Obligations.SiphonPackets` are met. -/
theorem test_SiphonPackets_met :
    (∃ t : Nat, ∃ g : Nat, ∃ i : Nat, ∃ host : Bytes, ∃ b : Bytes, ∃ d : Bytes, ∃ p : SPath, ∃ m : SMsg, ∃ s : State, ∃ s1 : State, Canonical s ∧ chRuns (s.channel g).state = true ∧ (chEnc (s.channel g) = true → farmFree s = true) ∧ (s.channel g).sent = [] ∧ (s.channel g).msgs = [m] ∧ sendable (s.channel g) m = true ∧ pickPath s (s.channel g) none t = some (i, p) ∧ msgRefused s (s.channel g) m = false ∧ packetBytes g (s.channel g) m (some host) (advance t s) = (some b, s1) ∧ nextPayload s (s.channel g) m b = some d)
    ∧ (∃ t : Nat, ∃ g : Nat, ∃ i : Nat, ∃ p : SPath, ∃ m : SMsg, ∃ s : State, Canonical s ∧ chRuns (s.channel g).state = true ∧ (chEnc (s.channel g) = true → farmFree s = true) ∧ (s.channel g).sent = [] ∧ (s.channel g).msgs = [m] ∧ sendable (s.channel g) m = true ∧ pickPath s (s.channel g) none t = some (i, p) ∧ msgRefused s (s.channel g) m = false ∧ needsHost (s.channel g) m = true ∧ readsBack s (msgReq s (s.channel g) m) (.packet g m.op m.id (m.base + m.sent)) = none)
    ∧ (∃ t : Nat, ∃ g : Nat, ∃ j : Nat, ∃ i : Nat, ∃ k : SPkt, ∃ p0 : SPath, ∃ p : SPath, ∃ s : State, Canonical s ∧ chRuns (s.channel g).state = true ∧ (chEnc (s.channel g) = true → farmFree s = true) ∧ (s.channel g).sent.find? (·.resend) = some k ∧ k.path = some j ∧ (s.channel g).paths[j]? = some p0 ∧ p0.probing = false ∧ p0.losses + 1 < cfgN s 0x4200 9 ∧ pickPath s (s.channel g) (some j) t = some (i, p))
    ∧ (∃ g : Nat, ∃ s : State, (chRuns (s.channel g).state = false ∨ (chEnc (s.channel g) = true ∧ farmFree s = false)))
    ∧ (∃ g : Nat, ∃ e : Nat × SPath, ∃ s : State, Canonical s ∧ chRuns (s.channel g).state = true ∧ (s.channel g).toAck ≠ 0 ∧ lowestUp (s.channel g) = some e ∧ e.2.port < 512 ∧ (s.channel g).ctlTx < 0xFFFFFFFE ∧ (chEnc (s.channel g) = true → farmFree s = true)) :=
  ⟨⟨(0), (0), (0), (zeros 100), (zeros 100), (zeros 100), ({ port := 0, mac := zeros 6, up := true, probing := false, downAt := 0, losses := 0, tokens := 0, tokTime := 0, rc := 100000000, rh := 100000000, m := 0, k := 0, cnpSeen := false, lastCut := none, stepAt := 0 }), ({ SMsg.blank with op := 1, len := 100, total := 100, laddr := 4096 }), (((((host.setPolder 0 { Polder.zero with counts := { Counts.polder0 with channels := 1, regions := 1, domains := 1 }, maps := [List.range 64, List.range 64, List.range 128, [0], [], [0], []] })).setPort 0 { Port.reset with link := .up }).setChannel 0 { Channel.reset with state := 2, record := zeros 128, msgs := [{ SMsg.blank with op := 1, len := 100, total := 100, laddr := 4096 }], paths := [{ port := 0, mac := zeros 6, up := true, probing := false, downAt := 0, losses := 0, tokens := 0, tokTime := 0, rc := 100000000, rh := 100000000, m := 0, k := 0, cnpSeen := false, lastCut := none, stepAt := 0 }] })), ((packetBytes 0 ((((((host.setPolder 0 { Polder.zero with counts := { Counts.polder0 with channels := 1, regions := 1, domains := 1 }, maps := [List.range 64, List.range 64, List.range 128, [0], [], [0], []] })).setPort 0 { Port.reset with link := .up }).setChannel 0 { Channel.reset with state := 2, record := zeros 128, msgs := [{ SMsg.blank with op := 1, len := 100, total := 100, laddr := 4096 }], paths := [{ port := 0, mac := zeros 6, up := true, probing := false, downAt := 0, losses := 0, tokens := 0, tokTime := 0, rc := 100000000, rh := 100000000, m := 0, k := 0, cnpSeen := false, lastCut := none, stepAt := 0 }] })).channel 0) ({ SMsg.blank with op := 1, len := 100, total := 100, laddr := 4096 }) (some (zeros 100)) (advance 0 (((((host.setPolder 0 { Polder.zero with counts := { Counts.polder0 with channels := 1, regions := 1, domains := 1 }, maps := [List.range 64, List.range 64, List.range 128, [0], [], [0], []] })).setPort 0 { Port.reset with link := .up }).setChannel 0 { Channel.reset with state := 2, record := zeros 128, msgs := [{ SMsg.blank with op := 1, len := 100, total := 100, laddr := 4096 }], paths := [{ port := 0, mac := zeros 6, up := true, probing := false, downAt := 0, losses := 0, tokens := 0, tokTime := 0, rc := 100000000, rh := 100000000, m := 0, k := 0, cnpSeen := false, lastCut := none, stepAt := 0 }] })))).2), by unfold Canonical MailboxForm DictForm TablesForm FlowForm BufForm SchedForm EndpointForm PoldersForm CipherForm SiphonForm JournalForm EventsForm; decide +kernel⟩,
   ⟨(0), (0), (0), ({ port := 0, mac := zeros 6, up := true, probing := false, downAt := 0, losses := 0, tokens := 0, tokTime := 0, rc := 100000000, rh := 100000000, m := 0, k := 0, cnpSeen := false, lastCut := none, stepAt := 0 }), ({ SMsg.blank with op := 1, len := 100, total := 100, laddr := 4096 }), (((((host.setPolder 0 { Polder.zero with counts := { Counts.polder0 with channels := 1, regions := 1, domains := 1 }, maps := [List.range 64, List.range 64, List.range 128, [0], [], [0], []] })).setPort 0 { Port.reset with link := .up }).setChannel 0 { Channel.reset with state := 2, record := zeros 128, msgs := [{ SMsg.blank with op := 1, len := 100, total := 100, laddr := 4096 }], paths := [{ port := 0, mac := zeros 6, up := true, probing := false, downAt := 0, losses := 0, tokens := 0, tokTime := 0, rc := 100000000, rh := 100000000, m := 0, k := 0, cnpSeen := false, lastCut := none, stepAt := 0 }] })), by unfold Canonical MailboxForm DictForm TablesForm FlowForm BufForm SchedForm EndpointForm PoldersForm CipherForm SiphonForm JournalForm EventsForm; decide +kernel⟩,
   ⟨(0), (0), (0), (0), ({ psn := 0, op := 1, msg := 0, msgLen := 100, off := 0, key := 0, addr := 0, imm := none, ackReq := true, payload := zeros 100, path := some 0, resend := true }), ({ port := 0, mac := zeros 6, up := true, probing := false, downAt := 0, losses := 0, tokens := 0, tokTime := 0, rc := 100000000, rh := 100000000, m := 0, k := 0, cnpSeen := false, lastCut := none, stepAt := 0 }), ({ port := 0, mac := zeros 6, up := true, probing := false, downAt := 0, losses := 0, tokens := 0, tokTime := 0, rc := 100000000, rh := 100000000, m := 0, k := 0, cnpSeen := false, lastCut := none, stepAt := 0 }), (((((host.setPolder 0 { Polder.zero with counts := { Counts.polder0 with channels := 1, regions := 1, domains := 1 }, maps := [List.range 64, List.range 64, List.range 128, [0], [], [0], []] })).setPort 0 { Port.reset with link := .up }).setChannel 0 { Channel.reset with state := 2, record := zeros 128, sent := [{ psn := 0, op := 1, msg := 0, msgLen := 100, off := 0, key := 0, addr := 0, imm := none, ackReq := true, payload := zeros 100, path := some 0, resend := true }], paths := [{ port := 0, mac := zeros 6, up := true, probing := false, downAt := 0, losses := 0, tokens := 0, tokTime := 0, rc := 100000000, rh := 100000000, m := 0, k := 0, cnpSeen := false, lastCut := none, stepAt := 0 }] })), by unfold Canonical MailboxForm DictForm TablesForm FlowForm BufForm SchedForm EndpointForm PoldersForm CipherForm SiphonForm JournalForm EventsForm; decide +kernel⟩,
   ⟨(0), (base), by decide +kernel⟩,
   ⟨(0), ((0, { port := 0, mac := zeros 6, up := true, probing := false, downAt := 0, losses := 0, tokens := 0, tokTime := 0, rc := 100000000, rh := 100000000, m := 0, k := 0, cnpSeen := false, lastCut := none, stepAt := 0 })), (((((host.setPolder 0 { Polder.zero with counts := { Counts.polder0 with channels := 1, regions := 1, domains := 1 }, maps := [List.range 64, List.range 64, List.range 128, [0], [], [0], []] })).setPort 0 { Port.reset with link := .up }).setChannel 0 { Channel.reset with state := 2, record := zeros 128, toAck := 1, paths := [{ port := 0, mac := zeros 6, up := true, probing := false, downAt := 0, losses := 0, tokens := 0, tokTime := 0, rc := 100000000, rh := 100000000, m := 0, k := 0, cnpSeen := false, lastCut := none, stepAt := 0 }] })), by unfold Canonical MailboxForm DictForm TablesForm FlowForm BufForm SchedForm EndpointForm PoldersForm CipherForm SiphonForm JournalForm EventsForm; decide +kernel⟩⟩

/-- Further clauses of `Obligations.SiphonPackets`. -/
theorem test_SiphonPackets_met_2 :
    (∃ g : Nat, ∃ now : Nat, ∃ k : SPkt, ∃ rest : List SPkt, ∃ s : State, Canonical s ∧ chRuns (s.channel g).state = true ∧ (s.channel g).sent = k :: rest ∧ now = max (s.channel g).rto (cfgN s 0x4200 6))
    ∧ (∃ t : Nat, ∃ g : Nat, ∃ i : Nat, ∃ p : SPath, ∃ s : State, Canonical s ∧ (s.channel g).paths[i]? = some p ∧ p.up = false ∧ p.probing = false ∧ p.downAt + cfgN s 0x4200 0xA * 10 ^ 12 ≤ t)
    ∧ (∃ t : Nat, ∃ g : Nat, ∃ i : Nat, ∃ t0 : Nat, ∃ e : Nat × SPath, ∃ x : RxPath, ∃ s : State, Canonical s ∧ chRuns (s.channel g).state = true ∧ cnpDue s (s.channel g) t = true ∧ (s.channel g).rxPaths = [(i, x)] ∧ x.since = some t0 ∧ lowestUp (s.channel g) = some e ∧ (s.channel g).ctlTx < 0xFFFFFFFE ∧ (chEnc (s.channel g) = true → farmFree s = true))
    ∧ (∃ t : Nat, ∃ g : Nat, ∃ i : Nat, ∃ p : SPath, ∃ s : State, Canonical s ∧ chRuns (s.channel g).state = true ∧ cfgN s 0x4201 1 = 1 ∧ (s.channel g).paths[i]? = some p ∧ p.stepAt + cfgN s 0x4201 5 * 10 ^ 9 ≤ t)
    ∧ (∃ g : Nat, ∃ msg : Nat, ∃ n : Nat, ∃ x : Capsule, ∃ s : State, Canonical s ∧ capAt (s.channel g) msg = some x ∧ x.started = true ∧ x.responded = false ∧ n = min 262144 (beField x.cmd 20 4 - x.granted)) :=
  ⟨⟨(0), (1000000000000000000), ({ psn := 0, op := 1, msg := 0, msgLen := 100, off := 0, key := 0, addr := 0, imm := none, ackReq := true, payload := zeros 100, path := some 0, resend := true }), ([]), (((host.setPolder 0 { Polder.zero with counts := { Counts.polder0 with channels := 1, regions := 1, domains := 1 }, maps := [List.range 64, List.range 64, List.range 128, [0], [], [0], []] }).setChannel 0 { Channel.reset with state := 2, record := zeros 128, rto := 1000000000000000000, sent := [{ psn := 0, op := 1, msg := 0, msgLen := 100, off := 0, key := 0, addr := 0, imm := none, ackReq := true, payload := zeros 100, path := some 0, resend := true }] })), by unfold Canonical MailboxForm DictForm TablesForm FlowForm BufForm SchedForm EndpointForm PoldersForm CipherForm SiphonForm JournalForm EventsForm; decide +kernel⟩,
   ⟨(10000000000000000), (0), (0), ({ port := 0, mac := zeros 6, up := false, probing := false, downAt := 0, losses := 0, tokens := 0, tokTime := 0, rc := 100000000, rh := 100000000, m := 0, k := 0, cnpSeen := false, lastCut := none, stepAt := 0 }), (((host.setPolder 0 { Polder.zero with counts := { Counts.polder0 with channels := 1, regions := 1, domains := 1 }, maps := [List.range 64, List.range 64, List.range 128, [0], [], [0], []] }).setChannel 0 { Channel.reset with state := 2, record := zeros 128, paths := [{ port := 0, mac := zeros 6, up := false, probing := false, downAt := 0, losses := 0, tokens := 0, tokTime := 0, rc := 100000000, rh := 100000000, m := 0, k := 0, cnpSeen := false, lastCut := none, stepAt := 0 }] })), by unfold Canonical MailboxForm DictForm TablesForm FlowForm BufForm SchedForm EndpointForm PoldersForm CipherForm SiphonForm JournalForm EventsForm; decide +kernel⟩,
   ⟨(0), (0), (0), (0), ((0, { port := 0, mac := zeros 6, up := true, probing := false, downAt := 0, losses := 0, tokens := 0, tokTime := 0, rc := 100000000, rh := 100000000, m := 0, k := 0, cnpSeen := false, lastCut := none, stepAt := 0 })), ({ count := 1, marked := 1, since := some 0 }), (((host.setPolder 0 { Polder.zero with counts := { Counts.polder0 with channels := 1, regions := 1, domains := 1 }, maps := [List.range 64, List.range 64, List.range 128, [0], [], [0], []] }).setChannel 0 { Channel.reset with state := 2, record := zeros 128, paths := [{ port := 0, mac := zeros 6, up := true, probing := false, downAt := 0, losses := 0, tokens := 0, tokTime := 0, rc := 100000000, rh := 100000000, m := 0, k := 0, cnpSeen := false, lastCut := none, stepAt := 0 }], rxPaths := [(0, { count := 1, marked := 1, since := some 0 })] })), by unfold Canonical MailboxForm DictForm TablesForm FlowForm BufForm SchedForm EndpointForm PoldersForm CipherForm SiphonForm JournalForm EventsForm; decide +kernel⟩,
   ⟨(1000000000000000), (0), (0), ({ port := 0, mac := zeros 6, up := true, probing := false, downAt := 0, losses := 0, tokens := 0, tokTime := 0, rc := 100000000, rh := 100000000, m := 0, k := 0, cnpSeen := false, lastCut := none, stepAt := 0 }), (((host.setPolder 0 { Polder.zero with counts := { Counts.polder0 with channels := 1, regions := 1, domains := 1 }, maps := [List.range 64, List.range 64, List.range 128, [0], [], [0], []] }).setChannel 0 { Channel.reset with state := 2, record := zeros 128, paths := [{ port := 0, mac := zeros 6, up := true, probing := false, downAt := 0, losses := 0, tokens := 0, tokTime := 0, rc := 100000000, rh := 100000000, m := 0, k := 0, cnpSeen := false, lastCut := none, stepAt := 0 }] })), by unfold Canonical MailboxForm DictForm TablesForm FlowForm BufForm SchedForm EndpointForm PoldersForm CipherForm SiphonForm JournalForm EventsForm; decide +kernel⟩,
   ⟨(0), (0), (4096), ({ msg := 0, cmd := zeros 20 ++ [0, 0, 0x10, 0] ++ zeros 40, grants := [], granted := 0, hd := [], staging := [], arrived := [], units := 0, md := 0, started := true, responded := false }), (((host.setPolder 0 { Polder.zero with counts := { Counts.polder0 with channels := 1, regions := 1, domains := 1 }, maps := [List.range 64, List.range 64, List.range 128, [0], [], [0], []] }).setChannel 0 { Channel.reset with state := 2, record := zeros 128, capsules := [{ msg := 0, cmd := zeros 20 ++ [0, 0, 0x10, 0] ++ zeros 40, grants := [], granted := 0, hd := [], staging := [], arrived := [], units := 0, md := 0, started := true, responded := false }] })), by unfold Canonical MailboxForm DictForm TablesForm FlowForm BufForm SchedForm EndpointForm PoldersForm CipherForm SiphonForm JournalForm EventsForm; decide +kernel⟩⟩

/-- Further clauses of `Obligations.SiphonPackets`. -/
theorem test_SiphonPackets_met_3 :
    (∃ t : Nat, ∃ g : Nat, ∃ msg : Nat, ∃ x : Capsule, ∃ s : State, Canonical s ∧ capAt (s.channel g) msg = some x ∧ x.responded = false ∧ (x.grants.any (fun w => decide (w.time + cfgN s 0x4200 0xB * 10 ^ 12 ≤ t)) = true) ∧ s.jrn.units = []) :=
  ⟨(1000000000000000000), (0), (0), ({ msg := 0, cmd := zeros 20 ++ [0, 0, 0x10, 0] ++ zeros 40, grants := [{ off := 0, len := 4096, got := 0, time := 0 }], granted := 0, hd := [], staging := [], arrived := [], units := 0, md := 0, started := true, responded := false }), (((host.setPolder 0 { Polder.zero with counts := { Counts.polder0 with channels := 1, regions := 1, domains := 1 }, maps := [List.range 64, List.range 64, List.range 128, [0], [], [0], []] }).setChannel 0 { Channel.reset with state := 2, record := zeros 128, capsules := [{ msg := 0, cmd := zeros 20 ++ [0, 0, 0x10, 0] ++ zeros 40, grants := [{ off := 0, len := 4096, got := 0, time := 0 }], granted := 0, hd := [], staging := [], arrived := [], units := 0, md := 0, started := true, responded := false }] })), by unfold Canonical MailboxForm DictForm TablesForm FlowForm BufForm SchedForm EndpointForm PoldersForm CipherForm SiphonForm JournalForm EventsForm; decide +kernel⟩

/-- The hypotheses of `Obligations.SiphonReceive` are met. -/
theorem test_SiphonReceive_met :
    (∃ p : SPacket, ∃ r : Region, ∃ s : State, Canonical s ∧ Receives s 1 p ∧ InOrder s p ∧ p.key ≠ 0 ∧ p.off = 0 ∧ 0 < p.len ∧ p.len ≤ chPayload (s.channel p.chan) ∧ p.payload.length = p.len ∧ (s.channel p.chan).asm = [] ∧ (s.channel p.chan).state ≠ 5 ∧ keyRegion s (s.channel p.chan) p.key 3 p.addr p.len = some r ∧ acsBlocks s { fn := (s.channel p.chan).fn, q := none, pasid := r.pasid } p.addr p.len = false)
    ∧ (∃ p : SPacket, ∃ s : State, Canonical s ∧ Receives s 1 p ∧ InOrder s p ∧ p.key ≠ 0 ∧ p.off = 0 ∧ 0 < p.len ∧ p.len ≤ chPayload (s.channel p.chan) ∧ p.payload.length = p.len ∧ (s.channel p.chan).asm = [] ∧ keyRegion s (s.channel p.chan) p.key 3 p.addr p.len = none)
    ∧ (∃ t : Nat, ∃ p : SPacket, ∃ r : Region, ∃ s : State, Canonical s ∧ Receives s 2 p ∧ InOrder s p ∧ p.off = 0 ∧ 0 < p.len ∧ p.len ≤ chPayload (s.channel p.chan) ∧ p.payload.length = p.len ∧ (s.channel p.chan).asm = [] ∧ (s.channel p.chan).notes.length < 32 ∧ (stateSeen (advance t s) (s.channel p.chan) = 1 ∨ stateSeen (advance t s) (s.channel p.chan) = 2) ∧ keyRegion s (s.channel p.chan) p.key 3 p.addr p.len = some r ∧ acsBlocks s { fn := (s.channel p.chan).fn, q := none, pasid := r.pasid } p.addr p.len = false)
    ∧ (∃ t : Nat, ∃ p : SPacket, ∃ s : State, Canonical s ∧ Receives s 2 p ∧ InOrder s p ∧ (s.channel p.chan).asm = [] ∧ (stateSeen (advance t s) (s.channel p.chan) = 3 ∨ 32 ≤ (s.channel p.chan).notes.length))
    ∧ (∃ p : SPacket, ∃ r : Region, ∃ s : State, Canonical s ∧ Receives s 3 p ∧ InOrder s p ∧ (s.channel p.chan).reads = [] ∧ readsServed (s.channel p.chan) = 0 ∧ keyRegion s (s.channel p.chan) p.key 2 p.addr p.len = some r) :=
  ⟨⟨(parsePacket (packet 0 1 0 0 1024 0 1048576 4096 (zeros 1024))), ({ Region.reset with valid := true, len := 1099511627776, rights := 15, count := 1 }), (((received { Channel.reset with state := 2, record := zeros 128 } (packet 0 1 0 0 1024 0 1048576 4096 (zeros 1024))).setRegion 0 { Region.reset with valid := true, len := 1099511627776, rights := 15, count := 1 })), by unfold Canonical MailboxForm DictForm TablesForm FlowForm BufForm SchedForm EndpointForm PoldersForm CipherForm SiphonForm JournalForm EventsForm; decide +kernel, ⟨taken (packet 0 1 0 0 1024 0 1048576 4096 (zeros 1024)), [], by decide +kernel⟩, by unfold InOrder; decide +kernel, by decide +kernel⟩,
   ⟨(parsePacket (packet 0 1 0 0 1024 0 1048576 4096 (zeros 1024))), (received { Channel.reset with state := 2, record := zeros 128 } (packet 0 1 0 0 1024 0 1048576 4096 (zeros 1024))), by unfold Canonical MailboxForm DictForm TablesForm FlowForm BufForm SchedForm EndpointForm PoldersForm CipherForm SiphonForm JournalForm EventsForm; decide +kernel, ⟨taken (packet 0 1 0 0 1024 0 1048576 4096 (zeros 1024)), [], by decide +kernel⟩, by unfold InOrder; decide +kernel, by decide +kernel⟩,
   ⟨(0), (parsePacket (packet 1 2 0 0 1024 0 1048576 4096 (zeros 1024) ++ zeros 4)), ({ Region.reset with valid := true, len := 1099511627776, rights := 15, count := 1 }), (((received { Channel.reset with state := 2, record := zeros 128 } (packet 1 2 0 0 1024 0 1048576 4096 (zeros 1024) ++ zeros 4)).setRegion 0 { Region.reset with valid := true, len := 1099511627776, rights := 15, count := 1 })), by unfold Canonical MailboxForm DictForm TablesForm FlowForm BufForm SchedForm EndpointForm PoldersForm CipherForm SiphonForm JournalForm EventsForm; decide +kernel, ⟨taken (packet 1 2 0 0 1024 0 1048576 4096 (zeros 1024) ++ zeros 4), [], by decide +kernel⟩, by unfold InOrder; decide +kernel, by decide +kernel⟩,
   ⟨(0), (parsePacket (packet 1 2 0 0 1024 0 1048576 4096 (zeros 1024) ++ zeros 4)), (received { Channel.reset with state := 2, record := zeros 128, notes := List.range 32 } (packet 1 2 0 0 1024 0 1048576 4096 (zeros 1024) ++ zeros 4)), by unfold Canonical MailboxForm DictForm TablesForm FlowForm BufForm SchedForm EndpointForm PoldersForm CipherForm SiphonForm JournalForm EventsForm; decide +kernel, ⟨taken (packet 1 2 0 0 1024 0 1048576 4096 (zeros 1024) ++ zeros 4), [], by decide +kernel⟩, by unfold InOrder; decide +kernel, by decide +kernel⟩,
   ⟨(parsePacket (packet 0 3 0 0 4096 0 1048576 4096 ([]))), ({ Region.reset with valid := true, len := 1099511627776, rights := 15, count := 1 }), (((received { Channel.reset with state := 2, record := zeros 128 } (packet 0 3 0 0 4096 0 1048576 4096 ([]))).setRegion 0 { Region.reset with valid := true, len := 1099511627776, rights := 15, count := 1 })), by unfold Canonical MailboxForm DictForm TablesForm FlowForm BufForm SchedForm EndpointForm PoldersForm CipherForm SiphonForm JournalForm EventsForm; decide +kernel, ⟨taken (packet 0 3 0 0 4096 0 1048576 4096 ([])), [], by decide +kernel⟩, by unfold InOrder; decide +kernel, by decide +kernel⟩⟩

/-- Further clauses of `Obligations.SiphonReceive`. -/
theorem test_SiphonReceive_met_2 :
    (∃ p : SPacket, ∃ m : SMsg, ∃ o : Nat × Nat × Nat, ∃ s : State, Canonical s ∧ Receives s 4 p ∧ InOrder s p ∧ askedBy (s.channel p.chan) p.msg = some m ∧ m.op = 3 ∧ m.owner = some o ∧ p.off = 0 ∧ p.len = m.len ∧ 0 < p.len ∧ p.len ≤ chPayload (s.channel p.chan) ∧ p.payload.length = p.len ∧ (s.channel p.chan).asm = [] ∧ requestRefused s o.1 o.2.1 m.laddr p.len = false ∧ isDdr m.laddr = false)
    ∧ (∃ p : SPacket, ∃ k : SPkt, ∃ m : SMsg, ∃ o : Nat × Nat × Nat, ∃ s : State, Canonical s ∧ Receives s 5 p ∧ (s.channel p.chan).ctlRx = none ∧ (s.channel p.chan).sent = [k] ∧ acked p.psn p.addr k.psn = true ∧ (s.channel p.chan).msgs = [m] ∧ m.cut = true ∧ ownMsg m = true ∧ (m.op = 1 ∨ m.op = 2) ∧ m.owner = some o ∧ (s.channel p.chan).reads = [])
    ∧ (∃ p : SPacket, ∃ m : SMsg, ∃ o : Nat × Nat × Nat, ∃ s : State, Canonical s ∧ Receives s 6 p ∧ (s.channel p.chan).ctlRx = none ∧ (s.channel p.chan).msgs = [m] ∧ ownMsg m = true ∧ m.owner = some o ∧ (s.channel p.chan).recvs = [])
    ∧ (∃ e : (PacketAt → Instr) × Nat, ∃ n : Nat, ∃ p : SPacket, ∃ s : State, e ∈ siphonRxCommands ∧ (e.2 = 5 ∨ e.2 = 6 ∨ e.2 = 7) ∧ Canonical s ∧ Receives s e.2 p ∧ (s.channel p.chan).ctlRx = some n ∧ p.msg ≤ n)
    ∧ (∃ p : SPacket, ∃ p0 : SPath, ∃ s : State, Canonical s ∧ Receives s 7 p ∧ cfgN s 0x4201 1 = 1 ∧ (s.channel p.chan).ctlRx = none ∧ (s.channel p.chan).paths[p.path]? = some p0 ∧ 0 < p.len) :=
  ⟨⟨(parsePacket (packet 0 4 0 9 1024 0 0 0 (zeros 1024))), ({ SMsg.blank with id := 9, op := 3, len := 1024, laddr := 4096, owner := some (0, 0, 0) }), ((0, 0, 0)), (received { Channel.reset with state := 2, record := zeros 128, msgs := [{ SMsg.blank with id := 9, op := 3, len := 1024, laddr := 4096, owner := some (0, 0, 0) }] } (packet 0 4 0 9 1024 0 0 0 (zeros 1024))), by unfold Canonical MailboxForm DictForm TablesForm FlowForm BufForm SchedForm EndpointForm PoldersForm CipherForm SiphonForm JournalForm EventsForm; decide +kernel, ⟨taken (packet 0 4 0 9 1024 0 0 0 (zeros 1024)), [], by decide +kernel⟩, by unfold InOrder; decide +kernel, by decide +kernel⟩,
   ⟨(parsePacket (packet 0 5 1 7 0 0 0 0 ([]))), ({ psn := 0, op := 1, msg := 9, msgLen := 1024, off := 0, key := 0, addr := 0, imm := none, ackReq := true, payload := [], path := some 0, resend := false }), ({ SMsg.blank with id := 9, op := 1, len := 1024, cut := true, owner := some (0, 0, 0) }), ((0, 0, 0)), (received { Channel.reset with state := 2, record := zeros 128, sent := [{ psn := 0, op := 1, msg := 9, msgLen := 1024, off := 0, key := 0, addr := 0, imm := none, ackReq := true, payload := [], path := some 0, resend := false }], msgs := [{ SMsg.blank with id := 9, op := 1, len := 1024, cut := true, owner := some (0, 0, 0) }] } (packet 0 5 1 7 0 0 0 0 ([]))), by unfold Canonical MailboxForm DictForm TablesForm FlowForm BufForm SchedForm EndpointForm PoldersForm CipherForm SiphonForm JournalForm EventsForm; decide +kernel, ⟨taken (packet 0 5 1 7 0 0 0 0 ([])), [], by decide +kernel⟩, by decide +kernel⟩,
   ⟨(parsePacket (packet 0 6 0 7 0 0 0 0 ([]))), ({ SMsg.blank with id := 9, op := 1, len := 1024, cut := true, owner := some (0, 0, 0) }), ((0, 0, 0)), (received { Channel.reset with state := 2, record := zeros 128, msgs := [{ SMsg.blank with id := 9, op := 1, len := 1024, cut := true, owner := some (0, 0, 0) }] } (packet 0 6 0 7 0 0 0 0 ([]))), by unfold Canonical MailboxForm DictForm TablesForm FlowForm BufForm SchedForm EndpointForm PoldersForm CipherForm SiphonForm JournalForm EventsForm; decide +kernel, ⟨taken (packet 0 6 0 7 0 0 0 0 ([])), [], by decide +kernel⟩, by decide +kernel⟩,
   ⟨((.siphonRxAck, 5)), (7), (parsePacket (packet 0 5 1 7 0 0 0 0 ([]))), (received { Channel.reset with state := 2, record := zeros 128, ctlRx := some 7 } (packet 0 5 1 7 0 0 0 0 ([]))), by simp [siphonRxCommands], by decide +kernel, by unfold Canonical MailboxForm DictForm TablesForm FlowForm BufForm SchedForm EndpointForm PoldersForm CipherForm SiphonForm JournalForm EventsForm; decide +kernel, ⟨taken (packet 0 5 1 7 0 0 0 0 ([])), [], by decide +kernel⟩, by decide +kernel⟩,
   ⟨(parsePacket (packet 0 7 0 7 1 0 0 0 ([]))), ({ port := 0, mac := zeros 6, up := true, probing := false, downAt := 0, losses := 0, tokens := 0, tokTime := 0, rc := 100000000, rh := 100000000, m := 0, k := 0, cnpSeen := false, lastCut := none, stepAt := 0 }), (received { Channel.reset with state := 2, record := zeros 128, paths := [{ port := 0, mac := zeros 6, up := true, probing := false, downAt := 0, losses := 0, tokens := 0, tokTime := 0, rc := 100000000, rh := 100000000, m := 0, k := 0, cnpSeen := false, lastCut := none, stepAt := 0 }] } (packet 0 7 0 7 1 0 0 0 ([]))), by unfold Canonical MailboxForm DictForm TablesForm FlowForm BufForm SchedForm EndpointForm PoldersForm CipherForm SiphonForm JournalForm EventsForm; decide +kernel, ⟨taken (packet 0 7 0 7 1 0 0 0 ([])), [], by decide +kernel⟩, by decide +kernel⟩⟩

/-- Further clauses of `Obligations.SiphonReceive`. -/
theorem test_SiphonReceive_met_3 :
    (∃ p : SPacket, ∃ s : State, Canonical s ∧ Receives s 8 p ∧ InOrder s p ∧ p.payload.length = 64 ∧ p.len = 64 ∧ (s.channel p.chan).capsules = [])
    ∧ (∃ p : SPacket, ∃ m : SMsg, ∃ s : State, Canonical s ∧ Receives s 9 p ∧ InOrder s p ∧ ((s.channel p.chan).msgs.find? (fun m => ownMsg m && decide (m.id = p.msg ∧ m.op = 8)) = some m) ∧ 0 < p.len ∧ p.off + p.len ≤ (readTarget s m).2)
    ∧ (∃ p : SPacket, ∃ m : SMsg, ∃ o : Nat × Nat × Nat, ∃ ch : Chain, ∃ s : State, Canonical s ∧ Receives s 0xA p ∧ InOrder s p ∧ (s.channel p.chan).msgs = [m] ∧ ownMsg m = true ∧ m.id = p.msg ∧ m.op = 8 ∧ m.owner = some o ∧ p.payload.length = 16 ∧ chainAt (s.queue o.1 o.2.1) o.2.2 = some ch ∧ requestRefused s o.1 o.2.1 (eAddr (ch.entries.headD []) + 64) 16 = false ∧ isDdr (eAddr (ch.entries.headD []) + 64) = false)
    ∧ (∃ e : (PacketAt → Instr) × Nat, ∃ r : SRx, ∃ rest : List SRx, ∃ s : State, e ∈ siphonRxCommands ∧ Canonical s ∧ s.siphon.rx = r :: rest ∧ packetBad r = true)
    ∧ (∃ e : (PacketAt → Instr) × Nat, ∃ fault : BufFault, ∃ r : SRx, ∃ rest : List SRx, ∃ s : State, e ∈ siphonRxCommands ∧ Canonical s ∧ s.siphon.rx = r :: rest ∧ packetBad r = false ∧ (parsePacket r.bytes).op = e.2 ∧ (chEnc (s.channel (parsePacket r.bytes).chan) = true → farmFree s = true) ∧ (culvDown s (hdCulvert (dieOf r.port)) = true ∨ fault = .data ∨ (∃ place, fault = .link place))) :=
  ⟨⟨(parsePacket (packet 0 8 0 0 64 0 0 0 (zeros 64))), (received { Channel.reset with state := 2, record := zeros 128 } (packet 0 8 0 0 64 0 0 0 (zeros 64))), by unfold Canonical MailboxForm DictForm TablesForm FlowForm BufForm SchedForm EndpointForm PoldersForm CipherForm SiphonForm JournalForm EventsForm; decide +kernel, ⟨taken (packet 0 8 0 0 64 0 0 0 (zeros 64)), [], by decide +kernel⟩, by unfold InOrder; decide +kernel, by decide +kernel⟩,
   ⟨(parsePacket (packet 0 9 0 9 4096 0 0 0 ([]))), ({ SMsg.blank with id := 9, op := 8, len := 64, owner := some (0, 0, 0) }), ((withQueue (queueOf 6 [chain [entry 0x23 3 0 4096 (zeros 4 ++ leBytes 4 4096 ++ zeros 8)]]) (received { Channel.reset with state := 2, record := zeros 128, msgs := [{ SMsg.blank with id := 9, op := 8, len := 64, owner := some (0, 0, 0) }] } (packet 0 9 0 9 4096 0 0 0 ([]))))), by unfold Canonical MailboxForm DictForm TablesForm FlowForm BufForm SchedForm EndpointForm PoldersForm CipherForm SiphonForm JournalForm EventsForm; decide +kernel, ⟨taken (packet 0 9 0 9 4096 0 0 0 ([])), [], by decide +kernel⟩, by unfold InOrder; decide +kernel, by decide +kernel⟩,
   ⟨(parsePacket (packet 0 10 0 9 16 0 0 0 (zeros 16))), ({ SMsg.blank with id := 9, op := 8, len := 64, owner := some (0, 0, 0) }), ((0, 0, 0)), (chain [entry 0x23 3 0 4096 (zeros 4 ++ leBytes 4 4096 ++ zeros 8)]), ((withQueue (queueOf 6 [chain [entry 0x23 3 0 4096 (zeros 4 ++ leBytes 4 4096 ++ zeros 8)]]) (received { Channel.reset with state := 2, record := zeros 128, msgs := [{ SMsg.blank with id := 9, op := 8, len := 64, owner := some (0, 0, 0) }] } (packet 0 10 0 9 16 0 0 0 (zeros 16))))), by unfold Canonical MailboxForm DictForm TablesForm FlowForm BufForm SchedForm EndpointForm PoldersForm CipherForm SiphonForm JournalForm EventsForm; decide +kernel, ⟨taken (packet 0 10 0 9 16 0 0 0 (zeros 16)), [], by decide +kernel⟩, by unfold InOrder; decide +kernel, by decide +kernel⟩,
   ⟨((.siphonRxAck, 5)), (taken ((packet 0 5 1 7 0 0 0 0 []).take 20)), ([]), ((let s : State := equipped; { s with siphon := { s.siphon with rx := [taken ((packet 0 5 1 7 0 0 0 0 []).take 20)] } })), by simp [siphonRxCommands], by unfold Canonical MailboxForm DictForm TablesForm FlowForm BufForm SchedForm EndpointForm PoldersForm CipherForm SiphonForm JournalForm EventsForm; decide +kernel, by decide +kernel⟩,
   ⟨((.siphonRxAck, 5)), (.data), (taken (packet 0 5 1 7 0 0 0 0 [])), ([]), (received { Channel.reset with state := 2, record := zeros 128 } (packet 0 5 1 7 0 0 0 0 [])), by simp [siphonRxCommands], by unfold Canonical MailboxForm DictForm TablesForm FlowForm BufForm SchedForm EndpointForm PoldersForm CipherForm SiphonForm JournalForm EventsForm; decide +kernel, by decide +kernel, by decide +kernel, by decide +kernel, by decide +kernel, .inr (.inl rfl)⟩⟩

/-- Further clauses of `Obligations.SiphonReceive`. -/
theorem test_SiphonReceive_met_4 :
    (∃ e : (PacketAt → Instr) × Nat, ∃ r : SRx, ∃ rest : List SRx, ∃ s : State, e ∈ siphonRxCommands ∧ Canonical s ∧ s.siphon.rx = r :: rest ∧ packetBad r = false ∧ (parsePacket r.bytes).op ≠ e.2) :=
  ⟨((.siphonRxNak, 6)), (taken (packet 0 5 1 7 0 0 0 0 ([]))), ([]), (received { Channel.reset with state := 2, record := zeros 128 } (packet 0 5 1 7 0 0 0 0 ([]))), by simp [siphonRxCommands], by unfold Canonical MailboxForm DictForm TablesForm FlowForm BufForm SchedForm EndpointForm PoldersForm CipherForm SiphonForm JournalForm EventsForm; decide +kernel, by decide +kernel⟩

/-- The hypotheses of `Obligations.JournalCommands` are met. -/
theorem test_JournalCommands_met :
    ((∃ (src : JSrc) (c : JCmd) (st : Nat) (s : State), Canonical s ∧ jFind s src 48 = some c ∧ jJudge s src c = .refuse st) ∧ (∃ (src : JSrc) (c : JCmd) (s : State), Canonical s ∧ jFind s src 48 = some c ∧ jJudge s src c = .wait))
    ∧ ((∃ (src : JSrc) (c : JCmd) (st : Nat) (s : State), Canonical s ∧ jFind s src 49 = some c ∧ jJudge s src c = .refuse st) ∧ (∃ (src : JSrc) (c : JCmd) (s : State), Canonical s ∧ jFind s src 49 = some c ∧ jJudge s src c = .wait))
    ∧ ((∃ (src : JSrc) (c : JCmd) (st : Nat) (s : State), Canonical s ∧ jFind s src 50 = some c ∧ jJudge s src c = .refuse st) ∧ (∃ (src : JSrc) (c : JCmd) (s : State), Canonical s ∧ jFind s src 50 = some c ∧ jJudge s src c = .wait))
    ∧ ((∃ (src : JSrc) (c : JCmd) (st : Nat) (s : State), Canonical s ∧ jFind s src 51 = some c ∧ jJudge s src c = .refuse st) ∧ (∃ (src : JSrc) (c : JCmd) (s : State), Canonical s ∧ jFind s src 51 = some c ∧ jJudge s src c = .wait))
    ∧ ((∃ (src : JSrc) (c : JCmd) (st : Nat) (s : State), Canonical s ∧ jFind s src 52 = some c ∧ jJudge s src c = .refuse st) ∧ (∃ (src : JSrc) (c : JCmd) (s : State), Canonical s ∧ jFind s src 52 = some c ∧ jJudge s src c = .wait)) :=
  ⟨⟨⟨.queue 0 0, { fn := 0, op := 48, handle := 0, param := 0, count := 1, lba := 1024, ref := 0 }, stRANGE, (withQueue (queueOf 7 [chain [entry 48 3 4096 4096 ([0, 0, 0, 0] ++ leBytes 4 1 ++ leBytes 8 1024)]]) (stored)), by unfold Canonical MailboxForm DictForm TablesForm FlowForm BufForm SchedForm EndpointForm PoldersForm CipherForm SiphonForm JournalForm EventsForm; decide +kernel⟩, .queue 0 0, { fn := 0, op := 48, handle := 0, param := 0, count := 1, lba := 0, ref := 0 }, (withQueue (queueOf 7 [chain [entry 48 3 4096 4096 ([0, 0, 0, 0] ++ leBytes 4 1 ++ leBytes 8 0)]]) (({ stored with jrn := { stored.jrn with state := 0 } }))), by unfold Canonical MailboxForm DictForm TablesForm FlowForm BufForm SchedForm EndpointForm PoldersForm CipherForm SiphonForm JournalForm EventsForm; decide +kernel⟩,
   ⟨⟨.queue 0 0, { fn := 0, op := 49, handle := 0, param := 0, count := 1, lba := 1024, ref := 0 }, stRANGE, (withQueue (queueOf 7 [chain [entry 49 3 4096 4096 ([0, 0, 0, 0] ++ leBytes 4 1 ++ leBytes 8 1024)]]) (stored)), by unfold Canonical MailboxForm DictForm TablesForm FlowForm BufForm SchedForm EndpointForm PoldersForm CipherForm SiphonForm JournalForm EventsForm; decide +kernel⟩, .queue 0 0, { fn := 0, op := 49, handle := 0, param := 0, count := 1, lba := 0, ref := 0 }, (withQueue (queueOf 7 [chain [entry 49 3 4096 4096 ([0, 0, 0, 0] ++ leBytes 4 1 ++ leBytes 8 0)]]) (({ stored with jrn := { stored.jrn with state := 0 } }))), by unfold Canonical MailboxForm DictForm TablesForm FlowForm BufForm SchedForm EndpointForm PoldersForm CipherForm SiphonForm JournalForm EventsForm; decide +kernel⟩,
   ⟨⟨.queue 0 0, { fn := 0, op := 50, handle := 0, param := 0, count := 1, lba := 1024, ref := 0 }, stRANGE, (withQueue (queueOf 7 [chain [entry 50 3 4096 4096 ([0, 0, 0, 0] ++ leBytes 4 1 ++ leBytes 8 1024)]]) (stored)), by unfold Canonical MailboxForm DictForm TablesForm FlowForm BufForm SchedForm EndpointForm PoldersForm CipherForm SiphonForm JournalForm EventsForm; decide +kernel⟩, .queue 0 0, { fn := 0, op := 50, handle := 0, param := 0, count := 1, lba := 0, ref := 0 }, (withQueue (queueOf 7 [chain [entry 50 3 4096 4096 ([0, 0, 0, 0] ++ leBytes 4 1 ++ leBytes 8 0)]]) (({ stored with jrn := { stored.jrn with state := 0 } }))), by unfold Canonical MailboxForm DictForm TablesForm FlowForm BufForm SchedForm EndpointForm PoldersForm CipherForm SiphonForm JournalForm EventsForm; decide +kernel⟩,
   ⟨⟨.queue 0 0, { fn := 0, op := 51, handle := 0, param := 0, count := 1, lba := 1024, ref := 0 }, stRANGE, (withQueue (queueOf 7 [chain [entry 51 3 4096 4096 ([0, 0, 0, 0] ++ leBytes 4 1 ++ leBytes 8 1024)]]) (stored)), by unfold Canonical MailboxForm DictForm TablesForm FlowForm BufForm SchedForm EndpointForm PoldersForm CipherForm SiphonForm JournalForm EventsForm; decide +kernel⟩, .queue 0 0, { fn := 0, op := 51, handle := 0, param := 0, count := 1, lba := 0, ref := 0 }, (withQueue (queueOf 7 [chain [entry 51 3 4096 4096 ([0, 0, 0, 0] ++ leBytes 4 1 ++ leBytes 8 0)]]) (({ stored with jrn := { stored.jrn with state := 0 } }))), by unfold Canonical MailboxForm DictForm TablesForm FlowForm BufForm SchedForm EndpointForm PoldersForm CipherForm SiphonForm JournalForm EventsForm; decide +kernel⟩,
   ⟨⟨.queue 0 0, { fn := 0, op := 52, handle := 0, param := 0, count := 1, lba := 1024, ref := 0 }, stRANGE, (withQueue (queueOf 7 [chain [entry 52 3 4096 4096 ([0, 0, 0, 0] ++ leBytes 4 1 ++ leBytes 8 1024)]]) (stored)), by unfold Canonical MailboxForm DictForm TablesForm FlowForm BufForm SchedForm EndpointForm PoldersForm CipherForm SiphonForm JournalForm EventsForm; decide +kernel⟩, .queue 0 0, { fn := 0, op := 52, handle := 0, param := 0, count := 1, lba := 0, ref := 0 }, (withQueue (queueOf 7 [chain [entry 52 3 4096 4096 ([0, 0, 0, 0] ++ leBytes 4 1 ++ leBytes 8 0)]]) (({ stored with jrn := { stored.jrn with state := 0 } }))), by unfold Canonical MailboxForm DictForm TablesForm FlowForm BufForm SchedForm EndpointForm PoldersForm CipherForm SiphonForm JournalForm EventsForm; decide +kernel⟩⟩

/-- Further clauses of `Obligations.JournalCommands`. -/
theorem test_JournalCommands_met_2 :
    ((∃ (src : JSrc) (c : JCmd) (st : Nat) (s : State), Canonical s ∧ jFind s src 53 = some c ∧ jJudge s src c = .refuse st) ∧ (∃ (src : JSrc) (c : JCmd) (s : State), Canonical s ∧ jFind s src 53 = some c ∧ jJudge s src c = .wait))
    ∧ ((∃ (src : JSrc) (c : JCmd) (st : Nat) (s : State), Canonical s ∧ jFind s src 54 = some c ∧ jJudge s src c = .refuse st) ∧ (∃ (src : JSrc) (c : JCmd) (s : State), Canonical s ∧ jFind s src 54 = some c ∧ jJudge s src c = .wait))
    ∧ ((∃ (src : JSrc) (c : JCmd) (st : Nat) (s : State), Canonical s ∧ jFind s src 55 = some c ∧ jJudge s src c = .refuse st) ∧ (∃ (src : JSrc) (c : JCmd) (s : State), Canonical s ∧ jFind s src 55 = some c ∧ jJudge s src c = .wait))
    ∧ ((∃ (src : JSrc) (c : JCmd) (st : Nat) (s : State), Canonical s ∧ jFind s src 56 = some c ∧ jJudge s src c = .refuse st) ∧ (∃ (src : JSrc) (c : JCmd) (s : State), Canonical s ∧ jFind s src 56 = some c ∧ jJudge s src c = .wait))
    ∧ (∃ (fn q n : Nat) (c : JCmd) (host d : Bytes) (s : State), Canonical s ∧ JGoes s (.queue fn q) 0x31 c n ∧ readRefused s fn q (jSegs s fn q c.ref) = false ∧ gather s (jSegs s fn q c.ref) host = some d ∧ 1 ≤ c.count ∧ c.count ≤ 16 ∧ d.length = 4096 * c.count) :=
  ⟨⟨⟨.queue 0 0, { fn := 0, op := 53, handle := 0, param := 0, count := 1, lba := 1024, ref := 0 }, stRANGE, (withQueue (queueOf 7 [chain [entry 53 3 4096 4096 ([0, 0, 0, 0] ++ leBytes 4 1 ++ leBytes 8 1024)]]) (stored)), by unfold Canonical MailboxForm DictForm TablesForm FlowForm BufForm SchedForm EndpointForm PoldersForm CipherForm SiphonForm JournalForm EventsForm; decide +kernel⟩, .queue 0 0, { fn := 0, op := 53, handle := 0, param := 0, count := 1, lba := 0, ref := 0 }, (withQueue (queueOf 7 [chain [entry 53 3 4096 4096 ([0, 0, 0, 0] ++ leBytes 4 1 ++ leBytes 8 0)]]) (({ stored with jrn := { stored.jrn with state := 0 } }))), by unfold Canonical MailboxForm DictForm TablesForm FlowForm BufForm SchedForm EndpointForm PoldersForm CipherForm SiphonForm JournalForm EventsForm; decide +kernel⟩,
   ⟨⟨.queue 0 0, { fn := 0, op := 54, handle := 0, param := 0, count := 1, lba := 1024, ref := 0 }, stRANGE, (withQueue (queueOf 7 [chain [entry 54 3 4096 4096 ([0, 0, 0, 0] ++ leBytes 4 1 ++ leBytes 8 1024)]]) (stored)), by unfold Canonical MailboxForm DictForm TablesForm FlowForm BufForm SchedForm EndpointForm PoldersForm CipherForm SiphonForm JournalForm EventsForm; decide +kernel⟩, .queue 0 0, { fn := 0, op := 54, handle := 0, param := 0, count := 1, lba := 0, ref := 0 }, (withQueue (queueOf 7 [chain [entry 54 3 4096 4096 ([0, 0, 0, 0] ++ leBytes 4 1 ++ leBytes 8 0)]]) (({ stored with jrn := { stored.jrn with state := 0 } }))), by unfold Canonical MailboxForm DictForm TablesForm FlowForm BufForm SchedForm EndpointForm PoldersForm CipherForm SiphonForm JournalForm EventsForm; decide +kernel⟩,
   ⟨⟨.queue 0 0, { fn := 0, op := 55, handle := 0, param := 0, count := 1, lba := 1024, ref := 0 }, stRANGE, (withQueue (queueOf 7 [chain [entry 55 3 4096 4096 ([0, 0, 0, 0] ++ leBytes 4 1 ++ leBytes 8 1024)]]) (stored)), by unfold Canonical MailboxForm DictForm TablesForm FlowForm BufForm SchedForm EndpointForm PoldersForm CipherForm SiphonForm JournalForm EventsForm; decide +kernel⟩, .queue 0 0, { fn := 0, op := 55, handle := 0, param := 0, count := 1, lba := 0, ref := 0 }, (withQueue (queueOf 7 [chain [entry 55 3 4096 4096 ([0, 0, 0, 0] ++ leBytes 4 1 ++ leBytes 8 0)]]) (({ stored with jrn := { stored.jrn with state := 0 } }))), by unfold Canonical MailboxForm DictForm TablesForm FlowForm BufForm SchedForm EndpointForm PoldersForm CipherForm SiphonForm JournalForm EventsForm; decide +kernel⟩,
   ⟨⟨.queue 0 0, { fn := 0, op := 56, handle := 0, param := 0, count := 1, lba := 1024, ref := 0 }, stRANGE, (withQueue (queueOf 7 [chain [entry 56 3 4096 4096 ([0, 0, 0, 0] ++ leBytes 4 1 ++ leBytes 8 1024)]]) (stored)), by unfold Canonical MailboxForm DictForm TablesForm FlowForm BufForm SchedForm EndpointForm PoldersForm CipherForm SiphonForm JournalForm EventsForm; decide +kernel⟩, .queue 0 0, { fn := 0, op := 56, handle := 0, param := 0, count := 1, lba := 0, ref := 0 }, (withQueue (queueOf 7 [chain [entry 56 3 4096 4096 ([0, 0, 0, 0] ++ leBytes 4 1 ++ leBytes 8 0)]]) (({ stored with jrn := { stored.jrn with state := 0 } }))), by unfold Canonical MailboxForm DictForm TablesForm FlowForm BufForm SchedForm EndpointForm PoldersForm CipherForm SiphonForm JournalForm EventsForm; decide +kernel⟩,
   ⟨0, 0, 0, { fn := 0, op := 49, handle := 0, param := 0, count := 1, lba := 1023, ref := 0 }, zeros 4096, zeros 4096, (withQueue (queueOf 7 [chain [entry 49 3 4096 4096 ([0, 0, 0, 0] ++ leBytes 4 1 ++ leBytes 8 1023)]]) (stored)), by unfold Canonical MailboxForm DictForm TablesForm FlowForm BufForm SchedForm EndpointForm PoldersForm CipherForm SiphonForm JournalForm EventsForm; decide +kernel, by unfold JGoes; decide +kernel, by decide +kernel, by rw [show jSegs _ 0 0 _ = [(4096, 4096)] by decide +kernel]; exact gather_segment _ _ _ (by decide), by decide, by decide, length_zeros _⟩⟩

/-- Further clauses of `Obligations.JournalCommands`. -/
theorem test_JournalCommands_met_3 :
    (∃ (fn q n : Nat) (c : JCmd) (host d : Bytes) (s : State), Canonical s ∧ JGoes s (.queue fn q) 0x31 c n ∧ readRefused s fn q (jSegs s fn q c.ref) = false ∧ gather s (jSegs s fn q c.ref) host = some d ∧ 1 ≤ c.count ∧ c.count ≤ 16 ∧ d.length = 4096 * c.count)
    ∧ (∃ g : Nat, ∃ msg : Nat, ∃ n : Nat, ∃ c : JCmd, ∃ s : State, Canonical s ∧ JGoes s (.capsule g msg) 0x31 c n)
    ∧ (∃ fn : Nat, ∃ q : Nat, ∃ n : Nat, ∃ a : Nat, ∃ c : JCmd, ∃ s : State, Canonical s ∧ JGoes s (.queue fn q) 0x30 c n ∧ JServes s (.queue fn q) ∧ 1 ≤ c.count ∧ jSegs s fn q c.ref = [(a, 4096 * c.count)] ∧ requestRefused s fn q a (4096 * c.count) = false ∧ isDdr a = false ∧ (∀ i, i < c.count → Tab.get Ver.zero s.jrn.map (mapKey n (c.lba + i)) = .zero))
    ∧ (∃ fn : Nat, ∃ q : Nat, ∃ n : Nat, ∃ a : Nat, ∃ c : JCmd, ∃ x : Bytes, ∃ d : Bytes, ∃ s : State, Canonical s ∧ JGoes s (.queue fn q) 0x30 c n ∧ JServes s (.queue fn q) ∧ c.count = 1 ∧ jSegs s fn q c.ref = [(a, 4096)] ∧ (∀ k, requestRefused s fn q a k = false) ∧ isDdr a = false ∧ Tab.get Ver.zero s.jrn.map (mapKey n c.lba) = .text x ∧ d = Config.xtsDecrypt (nsKey s n) (blockTweak n c.lba) x)
    ∧ (∃ n : Nat, ∃ src : JSrc, ∃ c : JCmd, ∃ s : State, Canonical s ∧ JGoes s src 0x30 c n ∧ JServes s src ∧ c.count = 1 ∧ judgeSlot s (s.space n) < 2 ∧ Tab.get Ver.zero s.jrn.map (mapKey n c.lba) = .lost) :=
  ⟨⟨0, 0, 0, { fn := 0, op := 49, handle := 0, param := 0, count := 1, lba := 1023, ref := 0 }, zeros 4096, zeros 4096, (withQueue (queueOf 7 [chain [entry 49 3 4096 4096 ([0, 0, 0, 0] ++ leBytes 4 1 ++ leBytes 8 1023)]]) (stored)), by unfold Canonical MailboxForm DictForm TablesForm FlowForm BufForm SchedForm EndpointForm PoldersForm CipherForm SiphonForm JournalForm EventsForm; decide +kernel, by unfold JGoes; decide +kernel, by decide +kernel, by rw [show jSegs _ 0 0 _ = [(4096, 4096)] by decide +kernel]; exact gather_segment _ _ _ (by decide), by decide, by decide, length_zeros _⟩,
   ⟨(0), (5), (0), ({ fn := 0, op := 49, handle := 0, param := 0, count := 1, lba := 0, ref := 0 }), ((stored.setChannel 0 { Channel.reset with state := 2, record := zeros 128, capsules := [{ msg := 5, cmd := [byteOf 49] ++ zeros 15 ++ beBytes 4 1 ++ zeros 44, grants := [], granted := 0, hd := [], staging := [], arrived := [], units := 0, md := 0, started := false, responded := false }] })), by unfold Canonical MailboxForm DictForm TablesForm FlowForm BufForm SchedForm EndpointForm PoldersForm CipherForm SiphonForm JournalForm EventsForm JGoes; decide +kernel⟩,
   ⟨(0), (0), (0), (4096), ({ fn := 0, op := 48, handle := 0, param := 0, count := 15, lba := 1009, ref := 0 }), ((withQueue (queueOf 7 [chain [entry 48 3 61440 4096 ([0, 0, 0, 0] ++ leBytes 4 15 ++ leBytes 8 1009)]]) (stored))), by unfold Canonical MailboxForm DictForm TablesForm FlowForm BufForm SchedForm EndpointForm PoldersForm CipherForm SiphonForm JournalForm EventsForm; decide +kernel, by unfold JGoes; decide +kernel, ⟨by decide +kernel, fun _ _ h => by cases h; decide +kernel⟩, by decide +kernel⟩,
   ⟨(0), (0), (0), (4096), ({ fn := 0, op := 48, handle := 0, param := 0, count := 1, lba := 0, ref := 0 }), ([0xAB]), (Config.xtsDecrypt (nsKey ((withQueue (queueOf 7 [chain [entry 48 3 4096 4096 ([0, 0, 0, 0] ++ leBytes 4 1 ++ leBytes 8 0)]]) (({ stored with jrn := { stored.jrn with map := [(0, .text [0xAB])] } }))) : State) (0)) (blockTweak (0) ({ fn := 0, op := 48, handle := 0, param := 0, count := 1, lba := 0, ref := 0 } : JCmd).lba) ([0xAB])), ((withQueue (queueOf 7 [chain [entry 48 3 4096 4096 ([0, 0, 0, 0] ++ leBytes 4 1 ++ leBytes 8 0)]]) (({ stored with jrn := { stored.jrn with map := [(0, .text [0xAB])] } })))), by unfold Canonical MailboxForm DictForm TablesForm FlowForm BufForm SchedForm EndpointForm PoldersForm CipherForm SiphonForm JournalForm EventsForm; decide +kernel, by unfold JGoes; decide +kernel, ⟨by decide +kernel, fun _ _ h => by cases h; decide +kernel⟩, by decide +kernel, by decide +kernel, fun _ => never_refused _ _ _ _ _ (by decide +kernel) (by decide +kernel), by decide +kernel, by decide +kernel, rfl⟩,
   ⟨(0), (.queue 0 0), ({ fn := 0, op := 48, handle := 0, param := 0, count := 1, lba := 0, ref := 0 }), ((withQueue (queueOf 7 [chain [entry 48 3 4096 4096 ([0, 0, 0, 0] ++ leBytes 4 1 ++ leBytes 8 0)]]) (({ stored with jrn := { stored.jrn with map := [(0, .lost)] } })))), by unfold Canonical MailboxForm DictForm TablesForm FlowForm BufForm SchedForm EndpointForm PoldersForm CipherForm SiphonForm JournalForm EventsForm; decide +kernel, by unfold JGoes; decide +kernel, ⟨by decide +kernel, fun _ _ h => by cases h; decide +kernel⟩, by decide +kernel⟩⟩

/-- Further clauses of `Obligations.JournalCommands`. -/
theorem test_JournalCommands_met_4 :
    (∃ n : Nat, ∃ src : JSrc, ∃ c : JCmd, ∃ s : State, JGoes s src 0x30 c n ∧ farmFree s = false)
    ∧ (∃ g : Nat, ∃ msg : Nat, ∃ n : Nat, ∃ c : JCmd, ∃ s : State, Canonical s ∧ JGoes s (.capsule g msg) 0x30 c n ∧ farmFree s = true ∧ 1 ≤ c.count ∧ (∀ i, i < c.count → Tab.get Ver.zero s.jrn.map (mapKey n (c.lba + i)) = .zero))
    ∧ (∃ n : Nat, ∃ src : JSrc, ∃ c : JCmd, ∃ s : State, Canonical s ∧ JGoes s src 0x32 c n)
    ∧ (∃ n : Nat, ∃ src : JSrc, ∃ c : JCmd, ∃ s : State, Canonical s ∧ JGoes s src 0x33 c n ∧ s.jrn.state = 1)
    ∧ (∃ fn : Nat, ∃ q : Nat, ∃ n : Nat, ∃ a : Nat, ∃ c : JCmd, ∃ s : State, Canonical s ∧ JGoes s (.queue fn q) 0x34 c n ∧ Tab.wf CartSlot.reset s.jrn.slots = true ∧ jSegs s fn q c.ref = [(a, 64)] ∧ requestRefused s fn q a 64 = false ∧ isDdr a = false) :=
  ⟨⟨(0), (.capsule 0 5), ({ fn := 0, op := 48, handle := 0, param := 0, count := 1, lba := 0, ref := 0 }), ((let s : State := (stored.setChannel 0 { Channel.reset with state := 2, record := zeros 128, capsules := [{ msg := 5, cmd := [byteOf 48] ++ zeros 15 ++ beBytes 4 1 ++ zeros 44, grants := [], granted := 0, hd := [], staging := [], arrived := [], units := 0, md := 0, started := false, responded := false }] }); { s with cipher := { s.cipher with cores := block 0 256 { out := true, msg := none } } })), by unfold JGoes; decide +kernel⟩,
   ⟨(0), (5), (0), ({ fn := 0, op := 48, handle := 0, param := 0, count := 1, lba := 0, ref := 0 }), ((stored.setChannel 0 { Channel.reset with state := 2, record := zeros 128, capsules := [{ msg := 5, cmd := [byteOf 48] ++ zeros 15 ++ beBytes 4 1 ++ zeros 44, grants := [], granted := 0, hd := [], staging := [], arrived := [], units := 0, md := 0, started := false, responded := false }] })), by unfold Canonical MailboxForm DictForm TablesForm FlowForm BufForm SchedForm EndpointForm PoldersForm CipherForm SiphonForm JournalForm EventsForm JGoes; decide +kernel⟩,
   ⟨(0), (.queue 0 0), ({ fn := 0, op := 50, handle := 0, param := 0, count := 1, lba := 0, ref := 0 }), ((withQueue (queueOf 7 [chain [entry 50 3 4096 4096 ([0, 0, 0, 0] ++ leBytes 4 1 ++ leBytes 8 0)]]) (stored))), by unfold Canonical MailboxForm DictForm TablesForm FlowForm BufForm SchedForm EndpointForm PoldersForm CipherForm SiphonForm JournalForm EventsForm JGoes; decide +kernel⟩,
   ⟨(0), (.queue 0 0), ({ fn := 0, op := 51, handle := 0, param := 0, count := 1, lba := 1023, ref := 0 }), ((withQueue (queueOf 7 [chain [entry 51 3 4096 4096 ([0, 0, 0, 0] ++ leBytes 4 1 ++ leBytes 8 1023)]]) (stored))), by unfold Canonical MailboxForm DictForm TablesForm FlowForm BufForm SchedForm EndpointForm PoldersForm CipherForm SiphonForm JournalForm EventsForm JGoes; decide +kernel⟩,
   ⟨(0), (0), (0), (4096), ({ fn := 0, op := 52, handle := 0, param := 0, count := 1, lba := 0, ref := 0 }), ((withQueue (queueOf 7 [chain [entry 52 3 64 4096 ([0, 0, 0, 0] ++ leBytes 4 1 ++ leBytes 8 0)]]) (stored))), by unfold Canonical MailboxForm DictForm TablesForm FlowForm BufForm SchedForm EndpointForm PoldersForm CipherForm SiphonForm JournalForm EventsForm JGoes; decide +kernel⟩⟩

/-- Further clauses of `Obligations.JournalCommands`. -/
theorem test_JournalCommands_met_5 :
    (∃ fn : Nat, ∃ q : Nat, ∃ n : Nat, ∃ a : Nat, ∃ c : JCmd, ∃ s : State, Canonical s ∧ JGoes s (.queue fn q) 0x35 c n ∧ (c.param = 1 ∨ c.param = 2 ∨ c.param = 3) ∧ jSegs s fn q c.ref = [(a, logPageLen c.param)] ∧ requestRefused s fn q a (logPageLen c.param) = false ∧ isDdr a = false)
    ∧ (∃ n : Nat, ∃ i : Nat, ∃ src : JSrc, ∃ c : JCmd, ∃ s : State, Canonical s ∧ JGoes s src 0x36 c n ∧ i = judgeSlot s (s.space n) ∧ i < 2)
    ∧ (∃ n : Nat, ∃ i : Nat, ∃ src : JSrc, ∃ c : JCmd, ∃ s : State, Canonical s ∧ JGoes s src 0x37 c n ∧ i = judgeSlot s (s.space n) ∧ i < 2)
    ∧ (∃ n : Nat, ∃ src : JSrc, ∃ c : JCmd, ∃ s : State, Canonical s ∧ JGoes s src 0x38 c n) :=
  ⟨⟨(0), (0), (0), (4096), ({ fn := 0, op := 53, handle := 0, param := 3, count := 1, lba := 0, ref := 0 }), ((withQueue (queueOf 7 [chain [entry 53 3 256 4096 ([0, 0, 3, 0] ++ leBytes 4 1 ++ leBytes 8 0)]]) (stored))), by unfold Canonical MailboxForm DictForm TablesForm FlowForm BufForm SchedForm EndpointForm PoldersForm CipherForm SiphonForm JournalForm EventsForm JGoes; decide +kernel⟩,
   ⟨(0), (0), (.queue 0 0), ({ fn := 0, op := 54, handle := 0, param := 0, count := 1, lba := 0, ref := 0 }), ((withQueue (queueOf 7 [chain [entry 54 3 4096 4096 ([0, 0, 0, 0] ++ leBytes 4 1 ++ leBytes 8 0)]]) (stored))), by unfold Canonical MailboxForm DictForm TablesForm FlowForm BufForm SchedForm EndpointForm PoldersForm CipherForm SiphonForm JournalForm EventsForm JGoes; decide +kernel⟩,
   ⟨(0), (0), (.queue 0 0), ({ fn := 0, op := 55, handle := 0, param := 0, count := 1, lba := 0, ref := 0 }), ((withQueue (queueOf 7 [chain [entry 55 3 4096 4096 ([0, 0, 0, 0] ++ leBytes 4 1 ++ leBytes 8 0)]]) (stored))), by unfold Canonical MailboxForm DictForm TablesForm FlowForm BufForm SchedForm EndpointForm PoldersForm CipherForm SiphonForm JournalForm EventsForm JGoes; decide +kernel⟩,
   ⟨(0), (.queue 0 0), ({ fn := 0, op := 56, handle := 0, param := 0, count := 1, lba := 0, ref := 0 }), ((withQueue (queueOf 7 [chain [entry 56 3 4096 4096 ([0, 0, 0, 0] ++ leBytes 4 1 ++ leBytes 8 0)]]) (stored))), by unfold Canonical MailboxForm DictForm TablesForm FlowForm BufForm SchedForm EndpointForm PoldersForm CipherForm SiphonForm JournalForm EventsForm JGoes; decide +kernel⟩⟩

/-- The hypotheses of `Obligations.JournalSteps` are met. -/
theorem test_JournalSteps_met :
    (∃ id : Nat, ∃ i : Nat, ∃ v : JUnit, ∃ s : State, Canonical s ∧ (s.jrn.units.find? (fun u => decide (u.id = id)) = some v) ∧ (∀ x, x ∈ s.jrn.units → x.job = v.job → v.id ≤ x.id) ∧ s.jrn.state = 1 ∧ v.failed = false ∧ v.ready = true ∧ nsSlots (s.space v.ns) = [i] ∧ (s.cart i).state = 3 ∧ (v.blocks.map (·.1)).Nodup ∧ dirtyBytes (s.cart i) + 4096 * v.blocks.length ≤ dirtyLimit s)
    ∧ (∃ id : Nat, ∃ v : JUnit, ∃ s : State, Canonical s ∧ (s.jrn.units.find? (fun u => decide (u.id = id)) = some v) ∧ (∀ x, x ∈ s.jrn.units → x.job = v.job → v.id ≤ x.id) ∧ s.jrn.state = 1 ∧ v.failed = true)
    ∧ (∃ id : Nat, ∃ s : State, (s.jrn.units.find? (fun u => decide (u.id = id)) = none))
    ∧ (∃ id : Nat, ∃ v : JUnit, ∃ x : JUnit, ∃ s : State, (s.jrn.units.find? (fun u => decide (u.id = id)) = some v) ∧ x ∈ s.jrn.units ∧ x.job = v.job ∧ x.id < v.id)
    ∧ (∃ i : Nat, ∃ v : JUnit, ∃ rest : List JUnit, ∃ s : State, Canonical s ∧ i < 2 ∧ (s.cart i).dirty = v :: rest) :=
  ⟨⟨(4), (0), ({ id := 4, job := 4, src := none, ref := 0, ns := 0, before := 0, blocks := [(1023, some [0xAB])], slots := [0], ready := true, failed := false, ends := some 0 }), ({ stored with jrn := { (stored).jrn with units := [{ id := 4, job := 4, src := none, ref := 0, ns := 0, before := 0, blocks := [(1023, some [0xAB])], slots := [0], ready := true, failed := false, ends := some 0 }] } }), by unfold Canonical MailboxForm DictForm TablesForm FlowForm BufForm SchedForm EndpointForm PoldersForm CipherForm SiphonForm JournalForm EventsForm; decide +kernel⟩,
   ⟨(4), ({ id := 4, job := 4, src := none, ref := 0, ns := 0, before := 0, blocks := [(1023, some [0xAB])], slots := [0], ready := true, failed := true, ends := some 0 }), ({ stored with jrn := { (stored).jrn with units := [{ id := 4, job := 4, src := none, ref := 0, ns := 0, before := 0, blocks := [(1023, some [0xAB])], slots := [0], ready := true, failed := true, ends := some 0 }] } }), by unfold Canonical MailboxForm DictForm TablesForm FlowForm BufForm SchedForm EndpointForm PoldersForm CipherForm SiphonForm JournalForm EventsForm; decide +kernel⟩,
   ⟨(4), (base), by decide +kernel⟩,
   ⟨(4), ({ id := 4, job := 4, src := none, ref := 0, ns := 0, before := 0, blocks := [], slots := [0], ready := true, failed := false, ends := some 0 }), ({ id := 3, job := 4, src := none, ref := 0, ns := 0, before := 0, blocks := [], slots := [0], ready := true, failed := false, ends := some 0 }), ({ stored with jrn := { (stored).jrn with units := [{ id := 3, job := 4, src := none, ref := 0, ns := 0, before := 0, blocks := [], slots := [0], ready := true, failed := false, ends := some 0 }, { id := 4, job := 4, src := none, ref := 0, ns := 0, before := 0, blocks := [], slots := [0], ready := true, failed := false, ends := some 0 }] } }), by decide +kernel⟩,
   ⟨(1), ({ id := 4, job := 4, src := none, ref := 0, ns := 0, before := 0, blocks := [(1023, some [0xAB])], slots := [0], ready := true, failed := false, ends := some 0 }), ([]), ((stored.setCart 1 { CartSlot.reset with dirty := [{ id := 4, job := 4, src := none, ref := 0, ns := 0, before := 0, blocks := [(1023, some [0xAB])], slots := [0], ready := true, failed := false, ends := some 0 }] })), by unfold Canonical MailboxForm DictForm TablesForm FlowForm BufForm SchedForm EndpointForm PoldersForm CipherForm SiphonForm JournalForm EventsForm; decide +kernel⟩⟩

/-- Further clauses of `Obligations.JournalSteps`. -/
theorem test_JournalSteps_met_2 :
    (∃ i : Nat, ∃ s : State, (s.cart i).dirty = [])
    ∧ (∃ t : Nat, ∃ i : Nat, ∃ s : State, Canonical s ∧ i < 2 ∧ (s.cart i).rebuild ≠ 100 ∧ cartServes (s.cart i).state = true ∧ (s.cart i).rebuildAt + rebuildTime s ≤ t)
    ∧ (∃ t : Nat, ∃ i : Nat, ∃ s : State, Canonical s ∧ i < 2 ∧ (s.cart i).rebuild ≠ 100 ∧ cartServes (s.cart i).state = true ∧ t < (s.cart i).rebuildAt + rebuildTime s)
    ∧ (∃ i : Nat, ∃ s : State, i < 2 ∧ (s.cart i).testState = 2 ∧ s.jrn.state = 1 ∧ slotPending s i = false)
    ∧ (∃ i : Nat, ∃ s : State, i < 2 ∧ (s.cart i).testState = 1 ∧ s.jrn.state = 1) :=
  ⟨⟨(1), ((stored.setCart 1 { CartSlot.reset with testState := 1 })), by decide +kernel⟩,
   ⟨(0), (1), ((stored.setCart 1 { CartSlot.reset with state := 4, rebuild := 99 })), by unfold Canonical MailboxForm DictForm TablesForm FlowForm BufForm SchedForm EndpointForm PoldersForm CipherForm SiphonForm JournalForm EventsForm; decide +kernel⟩,
   ⟨(0), (1), (((({ stored with jrn := { stored.jrn with map := [(0, .lost)] } }).setSpace 0 { Space.reset with defined := true, size := 1024, state := 1, placement := 2 }).setCart 1 { CartSlot.reset with state := 4, rebuild := 99 })), by unfold Canonical MailboxForm DictForm TablesForm FlowForm BufForm SchedForm EndpointForm PoldersForm CipherForm SiphonForm JournalForm EventsForm; decide +kernel⟩,
   ⟨(1), ((stored.setCart 1 { CartSlot.reset with testState := 2 })), by decide +kernel⟩,
   ⟨(1), ((stored.setCart 1 { CartSlot.reset with testState := 1 })), by decide +kernel⟩⟩

/-- Further clauses of `Obligations.JournalSteps`. -/
theorem test_JournalSteps_met_3 :
    (∃ i : Nat, ∃ s : State, i < 2 ∧ (s.cart i).testState = 1 ∧ s.jrn.state = 1)
    ∧ (∃ i : Nat, ∃ s : State, i < 2 ∧ ((s.cart i).testState ≠ 1 ∨ s.jrn.state ≠ 1))
    ∧ (∃ i : Nat, ∃ s : State, Canonical s ∧ i < 2 ∧ (s.cart i).state = 8 ∧ s.jrn.state = 1 ∧ mirroredMode s = true ∧ (s.cart (1 - i)).state = 8 ∧ (s.cart (1 - i)).sanitizeProgress ≠ 100)
    ∧ (∃ i : Nat, ∃ s : State, Canonical s ∧ i < 2 ∧ (s.cart i).state = 8 ∧ s.jrn.state = 1 ∧ (mirroredMode s = false ∨ (s.cart (1 - i)).state ≠ 8) ∧ s.jrn.flushes = [] ∧ (s.cart i).media.spareOut = false ∧ 0 < cartLife (s.cart i) ∧ (∀ v ∈ (s.cart i).dirty, (nsSlots (s.space v.ns)).contains i = true))
    ∧ (∃ n : Nat, ∃ s : State, ((s.space n).state ≠ 5 ∨ s.jrn.state ≠ 1)) :=
  ⟨⟨(1), ((stored.setCart 1 { CartSlot.reset with testState := 1 })), by decide +kernel⟩,
   ⟨(1), ((stored.setCart 1 { CartSlot.reset with state := 8, identity := zeros 32 ++ beBytes 8 1000 })), by decide +kernel⟩,
   ⟨(1), (((having [(0x4300, 1, [1])] stored).setCart 0 { CartSlot.reset with state := 8, sanitizeProgress := 0, identity := zeros 32 ++ beBytes 8 1000 }).setCart 1 { CartSlot.reset with state := 8, identity := zeros 32 ++ beBytes 8 1000 }), by unfold Canonical MailboxForm DictForm TablesForm FlowForm BufForm SchedForm EndpointForm PoldersForm CipherForm SiphonForm JournalForm EventsForm; decide +kernel⟩,
   ⟨(1), ((stored.setCart 1 { CartSlot.reset with state := 8, identity := zeros 32 ++ beBytes 8 1000 })), by unfold Canonical MailboxForm DictForm TablesForm FlowForm BufForm SchedForm EndpointForm PoldersForm CipherForm SiphonForm JournalForm EventsForm; decide +kernel⟩,
   ⟨(0), (base), by decide +kernel⟩⟩

/-- Further clauses of `Obligations.JournalSteps`. -/
theorem test_JournalSteps_met_4 :
    (∃ n : Nat, ∃ s : State, n < 4096 ∧ (s.space n).state = 5 ∧ s.jrn.state = 1 ∧ s.jrn.flushes = []) :=
  ⟨(4095), ((stored.setSpace 4095 { Space.reset with state := 5 })), by decide +kernel⟩

/-- The hypotheses of `Obligations.Cartridges` are met. -/
theorem test_Cartridges_met :
    (∃ i : Nat, ∃ s : State, i < 2 ∧ (s.cart i).present = false)
    ∧ (∃ i : Nat, ∃ s : State, i < 2 ∧ (s.cart i).present = true)
    ∧ (∃ i : Nat, ∃ s : State, i < 2 ∧ (s.cart i).present = true ∧ (s.cart i).state = 0 ∧ s.boot.started = true ∧ s.boot.bootStatus ≠ 2 ∧ dieServes s (4 + i) = true)
    ∧ (∃ i : Nat, ∃ s : State, i < 2 ∧ (s.cart i).state = 1 ∧ (s.cart i).verified = false)
    ∧ (∃ i : Nat, ∃ s : State, ((s.cart i).state ≠ 1 ∨ (s.cart i).verified = true)) :=
  ⟨⟨(1), (base), by decide +kernel⟩,
   ⟨(1), ((stored.setCart 1 { CartSlot.reset with present := true })), by decide +kernel⟩,
   ⟨(1), ((({ stored with boot := { base.boot with started := true, ddrTrained := [true, true] } }).setCart 1 { CartSlot.reset with present := true })), by decide +kernel⟩,
   ⟨(1), ((stored.setCart 1 { CartSlot.reset with state := 1 })), by decide +kernel⟩,
   ⟨(1), (base), by decide +kernel⟩⟩

/-- Further clauses of `Obligations.Cartridges`. -/
theorem test_Cartridges_met_2 :
    (∃ t : Nat, ∃ i : Nat, ∃ s : State, i < 2 ∧ (s.cart i).state = 1 ∧ (s.cart i).verified = false ∧ cartRefclk s i = true ∧ cartPerstLow (advance t s) i = false ∧ t ≤ (s.cart i).since + 10 ^ 15)
    ∧ (∃ t : Nat, ∃ i : Nat, ∃ s : State, i < 2 ∧ (s.cart i).state = 1 ∧ (s.cart i).verified = false ∧ cartRefclk s i = true ∧ cartPerstLow (advance t s) i = false ∧ (s.cart i).since + 10 ^ 15 < t)
    ∧ (∃ t : Nat, ∃ i : Nat, ∃ s : State, (cartRefclk s i = false ∨ cartPerstLow (advance t s) i = true))
    ∧ (∃ i : Nat, ∃ media : Option CartMedia, ∃ m : CartMedia, ∃ s : State, i < 2 ∧ (s.cart i).state = 1 ∧ (s.cart i).verified = true ∧ s.boot.ddrTrained.getD i false = true ∧ m = media.getD (s.cart i).media)
    ∧ (∃ i : Nat, ∃ s : State, ((s.cart i).state ≠ 1 ∨ (s.cart i).verified = false ∨ s.boot.ddrTrained.getD i false = false)) :=
  ⟨⟨(20000000000000), (1), ((let s : State := (({ stored with boot := { base.boot with started := true, ddrTrained := [true, true] } }).setCart 1 { CartSlot.reset with state := 1, pwren := true, perst := false, since := 0 }); { s with board := { s.board with refclk := true } })), by decide +kernel⟩,
   ⟨(1000000000000001), (1), ((let s : State := (({ stored with boot := { base.boot with started := true, ddrTrained := [true, true] } }).setCart 1 { CartSlot.reset with state := 1, pwren := true, perst := false, since := 0 }); { s with board := { s.board with refclk := true } })), by decide +kernel⟩,
   ⟨(0), (1), ((stored.setCart 1 { CartSlot.reset with state := 5 })), by decide +kernel⟩,
   ⟨(1), (none), ((none).getD (((({ stored with boot := { base.boot with started := true, ddrTrained := [true, true] } }).setCart 1 { CartSlot.reset with state := 1, verified := true }) : State).cart (1)).media), ((({ stored with boot := { base.boot with started := true, ddrTrained := [true, true] } }).setCart 1 { CartSlot.reset with state := 1, verified := true })), by decide +kernel⟩,
   ⟨(1), ((stored.setCart 1 { CartSlot.reset with state := 5 })), by decide +kernel⟩⟩

/-- Further clauses of `Obligations.Cartridges`. -/
theorem test_Cartridges_met_3 :
    (∃ i, i < 2 ∧ Meets (0x4301 + i) 9 (fun _ s => cartServes (s.cart i).state = true))
    ∧ (∃ i, i < 2 ∧ Meets (0x4301 + i) 9 (fun _ s => cartServes (s.cart i).state = false))
    ∧ (∃ i : Nat, ∃ s : State, i < 2 ∧ (s.cart i).state = 5 ∧ (s.cart i).dirty = [] ∧ quiesceWaits s i = false)
    ∧ (∃ i : Nat, ∃ s : State, i < 2 ∧ (s.cart i).state = 5 ∧ (s.cart i).dirty = [] ∧ quiesceWaits s i = true)
    ∧ (∃ i : Nat, ∃ s : State, ((s.cart i).state ≠ 5 ∨ (s.cart i).dirty ≠ [])) :=
  ⟨⟨1, by decide, 0, (asks (0x4301 + 1) 9 [] ((stored.setCart 1 { CartSlot.reset with state := 4 }))), (ask (0x4301 + 1) 9 []), by unfold Asks; decide +kernel⟩,
   ⟨1, by decide, 0, (asks (0x4301 + 1) 9 [] ((stored.setCart 1 { CartSlot.reset with state := 0 }))), (ask (0x4301 + 1) 9 []), by unfold Asks; decide +kernel⟩,
   ⟨(1), ((stored.setCart 1 { CartSlot.reset with state := 5 })), by decide +kernel⟩,
   ⟨(1), ((let s : State := ((having [(0x4300, 1, [1])] stored).setCart 1 { CartSlot.reset with state := 5 }).setCart 0 { CartSlot.reset with state := 3 }; { s with jrn := { s.jrn with units := [{ id := 4, job := 4, src := none, ref := 0, ns := 0, before := 0, blocks := [(1023, some [0xAB])], slots := [1], ready := true, failed := false, ends := some 0 }] } })), by decide +kernel⟩,
   ⟨(1), ((stored.setCart 1 { CartSlot.reset with present := true, state := 8 })), by decide +kernel⟩⟩

/-- Further clauses of `Obligations.Cartridges`. -/
theorem test_Cartridges_met_4 :
    (∃ i : Nat, ∃ s : State, Canonical s ∧ i < 2 ∧ (s.cart i).present = true ∧ ((s.cart i).state = 1 ∨ (s.cart i).state = 3 ∨ (s.cart i).state = 4 ∨ (s.cart i).state = 5 ∨ (s.cart i).state = 8))
    ∧ (∃ i : Nat, ∃ s : State, i < 2 ∧ Tab.wf CartSlot.reset s.jrn.slots = true ∧ (s.cart i).present = true ∧ ((s.cart i).state = 0 ∨ (s.cart i).state = 2 ∨ (s.cart i).state = 6 ∨ (s.cart i).state = 7))
    ∧ (∃ i : Nat, ∃ s : State, i < 2 ∧ Tab.wf CartSlot.reset s.jrn.slots = true ∧ (s.cart i).present = true ∧ ((s.cart i).state = 0 ∨ (s.cart i).state = 2 ∨ (s.cart i).state = 6 ∨ (s.cart i).state = 7))
    ∧ (∃ i : Nat, ∃ s : State, (s.cart i).present = false)
    ∧ (∃ i, i < 2 ∧ Meets (0x4301 + i) 0xA (fun d s => (byteAt d 0 = 1 ∨ byteAt d 0 = 2) ∧ (s.cart i).testState = 0 ∧ cartServes (s.cart i).state = true)) :=
  ⟨⟨(1), ((stored.setCart 1 { CartSlot.reset with present := true, state := 8 })), by unfold Canonical MailboxForm DictForm TablesForm FlowForm BufForm SchedForm EndpointForm PoldersForm CipherForm SiphonForm JournalForm EventsForm; decide +kernel⟩,
   ⟨(1), ((stored.setCart 1 { CartSlot.reset with present := true, state := 7 })), by decide +kernel⟩,
   ⟨(1), ((stored.setCart 1 { CartSlot.reset with present := true })), by decide +kernel⟩,
   ⟨(1), (base), by decide +kernel⟩,
   ⟨1, by decide, 0, (asks (0x4301 + 1) 0xA [2] ((stored.setCart 1 { CartSlot.reset with state := 4 }))), (ask (0x4301 + 1) 0xA [2]), by unfold Asks; decide +kernel⟩⟩

/-- Further clauses of `Obligations.Cartridges`. -/
theorem test_Cartridges_met_5 :
    (∃ i, i < 2 ∧ Meets (0x4301 + i) 0xA (fun d s => byteAt d 0 = 0xF ∧ (s.cart i).testState ≠ 0))
    ∧ (∃ i, i < 2 ∧ Meets (0x4301 + i) 0xA (fun d s => ((byteAt d 0 = 1 ∨ byteAt d 0 = 2) ∧ ((s.cart i).testState ≠ 0 ∨ cartServes (s.cart i).state = false)) ∨ (byteAt d 0 = 0xF ∧ (s.cart i).testState = 0)))
    ∧ (∃ i, i < 2 ∧ Meets (0x4301 + i) 0xC (fun _ s => cartServes (s.cart i).state = true))
    ∧ (∃ i, i < 2 ∧ Meets (0x4301 + i) 0xC (fun _ s => cartServes (s.cart i).state = false)) :=
  ⟨⟨1, by decide, 0, (asks (0x4301 + 1) 0xA [15] ((stored.setCart 1 { CartSlot.reset with testState := 1 }))), (ask (0x4301 + 1) 0xA [15]), by unfold Asks; decide +kernel⟩,
   ⟨1, by decide, 0, (asks (0x4301 + 1) 0xA [1] ((stored.setCart 1 { CartSlot.reset with state := 0 }))), (ask (0x4301 + 1) 0xA [1]), by unfold Asks; decide +kernel⟩,
   ⟨1, by decide, 0, (asks (0x4301 + 1) 0xC [] ((stored.setCart 1 { CartSlot.reset with state := 3 }))), (ask (0x4301 + 1) 0xC []), by unfold Asks; decide +kernel⟩,
   ⟨1, by decide, 0, (asks (0x4301 + 1) 0xC [] (base)), (ask (0x4301 + 1) 0xC []), by unfold Asks; decide +kernel⟩⟩

/-- The hypotheses of `Obligations.Namespaces` are met. -/
theorem test_Namespaces_met :
    (∃ t : Nat, ∃ n : Nat, ∃ s : State, ∃ b : Bytes, ∃ d : Bytes, Asks (advance t s) b 0x4310 0 ∧ Canonical s ∧ d = (parseMsg b 0).data ∧ n = beField d 0 2 ∧ n < 4096 ∧ byteAt d 2 < 2 ∧ byteAt d 3 = 0 ∧ beField d 4 8 ≠ 0 ∧ mirroredMode s = false ∧ (s.space n).defined = false ∧ (s.cart (byteAt d 2)).state = 3 ∧ beField d 4 8 + ((slotSpaces s (byteAt d 2)).map (·.2.size)).sum ≤ cartUsable (s.cart (byteAt d 2)))
    ∧ (∃ t : Nat, ∃ n : Nat, ∃ s : State, ∃ b : Bytes, ∃ d : Bytes, Asks (advance t s) b 0x4315 0 ∧ Canonical s ∧ d = (parseMsg b 0).data ∧ n = beField d 0 2 ∧ n < 4096 ∧ (s.space n).defined = true ∧ (s.space n).keySlot = none ∧ (s.space n).state ≠ 6)
    ∧ (Meets 0x4312 0 (fun d _ => beNat d < 4096))
    ∧ (Meets 0x4311 0 (fun d s => beNat d < 4096 ∧ (s.space (beNat d)).defined = true ∧ (s.space (beNat d)).attach = none ∧ (s.space (beNat d)).state ≠ 6 ∧ Tab.wf Space.reset s.jrn.spaces = true ∧ Tab.wf CartSlot.reset s.jrn.slots = true))
    ∧ (Meets 0x4311 0 (fun d s => beNat d < 4096 ∧ (s.space (beNat d)).defined = true ∧ (s.space (beNat d)).attach ≠ none)) :=
  ⟨⟨(0), (4095), (asks 0x4310 0 ([0x0F, 0xFF, 1, 0, 0, 0, 0, 0, 0, 0, 0, 15] ++ zeros 88) (stored.setCart 1 { CartSlot.reset with state := 3, identity := zeros 24 ++ beBytes 8 16 })), (ask 0x4310 0 ([0x0F, 0xFF, 1, 0, 0, 0, 0, 0, 0, 0, 0, 15] ++ zeros 88)), (([0x0F, 0xFF, 1, 0, 0, 0, 0, 0, 0, 0, 0, 15] ++ zeros 88)), by unfold Canonical MailboxForm DictForm TablesForm FlowForm BufForm SchedForm EndpointForm PoldersForm CipherForm SiphonForm JournalForm EventsForm Asks; decide +kernel⟩,
   ⟨(0), (4095), (asks 0x4315 0 ([0x0F, 0xFF] ++ zeros 88) (stored.setSpace 4095 { Space.reset with defined := true, placement := 1, state := 1 })), (ask 0x4315 0 ([0x0F, 0xFF] ++ zeros 88)), (([0x0F, 0xFF] ++ zeros 88)), by unfold Canonical MailboxForm DictForm TablesForm FlowForm BufForm SchedForm EndpointForm PoldersForm CipherForm SiphonForm JournalForm EventsForm Asks; decide +kernel⟩,
   ⟨0, (asks 0x4312 0 [0x0F, 0xFF] (base)), (ask 0x4312 0 [0x0F, 0xFF]), by unfold Asks; decide +kernel⟩,
   ⟨0, (asks 0x4311 0 [0x0F, 0xFF] ((stored.setSpace 4095 { Space.reset with defined := true, placement := 1, state := 1 }))), (ask 0x4311 0 [0x0F, 0xFF]), by unfold Asks; decide +kernel⟩,
   ⟨0, (asks 0x4311 0 [0, 0] (stored)), (ask 0x4311 0 [0, 0]), by unfold Asks; decide +kernel⟩⟩

/-- Further clauses of `Obligations.Namespaces`. -/
theorem test_Namespaces_met_2 :
    (Meets 0x4313 0 (fun d s => beField d 0 2 < 4096 ∧ (s.space (beField d 0 2)).defined = true ∧ (s.space (beField d 0 2)).attach = none ∧ beField d 2 2 < 4096 ∧ polderLive s (beField d 2 2) = true ∧ beField d 4 2 < (s.polder (beField d 2 2)).counts.namespaces ∧ boundNs s (beField d 2 2) (beField d 4 2) = none))
    ∧ (Meets 0x4313 0 (fun d s => beField d 0 2 < 4096 ∧ (s.space (beField d 0 2)).defined = true ∧ beField d 2 2 < 4096 ∧ polderLive s (beField d 2 2) = true ∧ beField d 4 2 < (s.polder (beField d 2 2)).counts.namespaces ∧ ((s.space (beField d 0 2)).attach ≠ none ∨ boundNs s (beField d 2 2) (beField d 4 2) ≠ none)))
    ∧ (Meets 0x4314 0 (fun d s => beNat d < 4096 ∧ (s.space (beNat d)).defined = true))
    ∧ (Meets 0x4316 0 (fun d s => beNat d < 4096 ∧ (s.space (beNat d)).defined = true ∧ ((s.space (beNat d)).state = 1 ∨ (s.space (beNat d)).state = 2) ∧ (nsSlots (s.space (beNat d))).any (fun i => decide ((s.cart i).state = 4)) = false)) :=
  ⟨⟨0, (asks 0x4313 0 [0x0F, 0xFF, 0, 0, 0, 0] ((equipped.setSpace 4095 { Space.reset with defined := true, placement := 1, state := 1 }))), (ask 0x4313 0 [0x0F, 0xFF, 0, 0, 0, 0]), by unfold Asks; decide +kernel⟩,
   ⟨0, (asks 0x4313 0 [0, 0, 0, 0, 0, 0] (stored)), (ask 0x4313 0 [0, 0, 0, 0, 0, 0]), by unfold Asks; decide +kernel⟩,
   ⟨0, (asks 0x4314 0 [0, 0] (stored)), (ask 0x4314 0 [0, 0]), by unfold Asks; decide +kernel⟩,
   ⟨0, (asks 0x4316 0 [0, 0] (stored)), (ask 0x4316 0 [0, 0]), by unfold Asks; decide +kernel⟩⟩

/-- The hypotheses of `Obligations.TableEngine` are met. -/
theorem test_TableEngine_met :
    (∃ src : Nat, ∃ dst : Nat, ∃ w : RepWrite, ∃ s : State, Canonical s ∧ meshOpen s src dst = true ∧ ctlRoom s src dst = true ∧ (s.tables.repQ.find? (fun w => decide (w.src = src ∧ w.dst = dst)) = some w))
    ∧ (∃ src : Nat, ∃ dst : Nat, ∃ s : State, (meshOpen s src dst = false ∨ ctlRoom s src dst = false))
    ∧ (∃ die : Nat, ∃ s : State, Canonical s ∧ s.tables.resync.contains die = true)
    ∧ (∃ t : Nat, ∃ die : Nat, ∃ key : Nat, ∃ now : Nat, ∃ q : LearnReq, ∃ rest : List LearnReq, ∃ s : State, ∃ s1 : State, Canonical s ∧ Tab.get [] s.tables.learnQ die = q :: rest ∧ ctlRoom s (dieOf q.port) die = true ∧ s1 = sweepRun die (advance t s) ∧ key = fdbKey q.fid q.mac ∧ now = learnClock (advance t s))
    ∧ (∃ die : Nat, ∃ q : LearnReq, ∃ rest : List LearnReq, ∃ s : State, Tab.get [] s.tables.learnQ die = q :: rest ∧ ctlRoom s (dieOf q.port) die = false) :=
  ⟨⟨(0), (3), ({ src := 0, dst := 3, table := 0, index := 7, fdb := { FdbEntry.reset with valid := true, fid := 4095, mac := 1, dest := 511 }, stream := StreamEntry.reset, flagOnly := false, key := 0 }), ({ base with tables := { base.tables with repQ := [{ src := 0, dst := 3, table := 0, index := 7, fdb := { FdbEntry.reset with valid := true, fid := 4095, mac := 1, dest := 511 }, stream := StreamEntry.reset, flagOnly := false, key := 0 }] } }), by unfold Canonical MailboxForm DictForm TablesForm FlowForm BufForm SchedForm EndpointForm PoldersForm CipherForm SiphonForm JournalForm EventsForm; decide +kernel⟩,
   ⟨(0), (3), ({ base with culv := { base.culv with down := [(meshCulvert 0 3, true)] } }), by decide +kernel⟩,
   ⟨(3), ({ base with tables := { base.tables with resync := [3] } }), by unfold Canonical MailboxForm DictForm TablesForm FlowForm BufForm SchedForm EndpointForm PoldersForm CipherForm SiphonForm JournalForm EventsForm; decide +kernel⟩,
   ⟨(0), (3), (fdbKey ({ fid := 4095, mac := 1, port := 511 } : LearnReq).fid ({ fid := 4095, mac := 1, port := 511 } : LearnReq).mac), (learnClock (advance (0) ({ base with tables := { base.tables with learnQ := [(3, [{ fid := 4095, mac := 1, port := 511 }])] } } : State))), ({ fid := 4095, mac := 1, port := 511 }), ([]), ({ base with tables := { base.tables with learnQ := [(3, [{ fid := 4095, mac := 1, port := 511 }])] } }), (sweepRun (3) (advance (0) ({ base with tables := { base.tables with learnQ := [(3, [{ fid := 4095, mac := 1, port := 511 }])] } } : State))), by unfold Canonical MailboxForm DictForm TablesForm FlowForm BufForm SchedForm EndpointForm PoldersForm CipherForm SiphonForm JournalForm EventsForm; decide +kernel⟩,
   ⟨(3), ({ fid := 4095, mac := 1, port := 0 }), ([]), ((let s : State := (let s : State := { base with tables := { base.tables with learnQ := [(3, [{ fid := 4095, mac := 1, port := 0 }])] } }; { s with buf := { s.buf with transit := [{ ticket := 9, src := 0, dst := 3, bulk := false, owner := 0, info := { inPort := 0, stamp := 0, hash := 0, cls := 0, rxFlags := 0, reason := 0, vid := 1, tc := 0, yellow := false, stream := none, seqNo := none, group := 0, src := .field, edit := false, ptpOther := false, frame := 0 }, bytes := zeros 60, ports := [(511, 7, none)], hosts := [] }] } }); { s with culv := { s.culv with ctlFlits := [(3, 1)] } })), by decide +kernel⟩⟩

/-- Further clauses of `Obligations.TableEngine`. -/
theorem test_TableEngine_met_2 :
    (∃ die : Nat, ∃ h : Nat × Nat × Nat × Nat, ∃ s : State, Canonical s ∧ (s.tables.hits.find? (fun h => decide (h.1 = die) && ctlRoom s h.2.2.2 die) = some h))
    ∧ (∃ s : State, Tab.wf [] s.tables.filter = true)
    ∧ (∃ t : Nat, ∃ i : Nat, ∃ s : State, t < Tab.get 0 s.tables.agerDue i)
    ∧ (∃ t : Nat, ∃ i : Nat, ∃ e : FdbEntry, ∃ s : State, ∃ s1 : State, Canonical s ∧ Tab.get 0 s.tables.agerDue i ≤ t ∧ s1 = sweepAll (advance t s) ∧ e = homeFdb s1 i)
    ∧ (∃ die : Nat, ∃ s : State, Canonical s ∧ Tab.get [] s.tables.sweep die = [] ∧ Tab.get [] s.tables.flush die ≠ [] ∧ Tab.wf [] s.tables.flush = true) :=
  ⟨⟨(3), ((3, 0, 7)), ({ base with tables := { base.tables with hits := [(3, 0, 7)] } }), by unfold Canonical MailboxForm DictForm TablesForm FlowForm BufForm SchedForm EndpointForm PoldersForm CipherForm SiphonForm JournalForm EventsForm; decide +kernel⟩,
   ⟨(base), by decide +kernel⟩,
   ⟨(0), (0), ({ base with tables := { base.tables with agerDue := [(0, 1)] } }), by decide +kernel⟩,
   ⟨(0), (7), (homeFdb (sweepAll (advance (0) ({ base with tables := { base.tables with fdb := [(7, { FdbEntry.reset with valid := true, fid := 4095, mac := 1, dest := 511 })] } } : State)) : State) (7)), ({ base with tables := { base.tables with fdb := [(7, { FdbEntry.reset with valid := true, fid := 4095, mac := 1, dest := 511 })] } }), (sweepAll (advance (0) ({ base with tables := { base.tables with fdb := [(7, { FdbEntry.reset with valid := true, fid := 4095, mac := 1, dest := 511 })] } } : State))), by unfold Canonical MailboxForm DictForm TablesForm FlowForm BufForm SchedForm EndpointForm PoldersForm CipherForm SiphonForm JournalForm EventsForm; decide +kernel⟩,
   ⟨(3), ({ base with tables := { base.tables with flush := [(3, [511])] } }), by unfold Canonical MailboxForm DictForm TablesForm FlowForm BufForm SchedForm EndpointForm PoldersForm CipherForm SiphonForm JournalForm EventsForm; decide +kernel⟩⟩

/-- Further clauses of `Obligations.TableEngine`. -/
theorem test_TableEngine_met_3 :
    (∃ t : Nat, ∃ die : Nat, ∃ upTo : Nat, ∃ w : Nat × Nat, ∃ s : State, Canonical s ∧ Tab.get [] s.tables.sweep die ≠ [] ∧ w = Tab.get (0, 0) s.tables.sweepAt die ∧ upTo = min (tblPlaces 0) (placesIn w.1 (advance t s).clock))
    ∧ (∃ t : Nat, ∃ die : Nat, ∃ s : State, ∃ s1 : State, Canonical s ∧ Tab.wf [] s.tables.sweep = true ∧ s1 = sweepRun die (advance t s)) :=
  ⟨⟨(0), (3), (min (tblPlaces 0) (placesIn (Tab.get (0, 0) ({ base with tables := { base.tables with sweep := [(3, [511])] } } : State).tables.sweepAt (3) : Nat × Nat).1 (advance (0) ({ base with tables := { base.tables with sweep := [(3, [511])] } } : State)).clock)), (Tab.get (0, 0) ({ base with tables := { base.tables with sweep := [(3, [511])] } } : State).tables.sweepAt (3)), ({ base with tables := { base.tables with sweep := [(3, [511])] } }), by unfold Canonical MailboxForm DictForm TablesForm FlowForm BufForm SchedForm EndpointForm PoldersForm CipherForm SiphonForm JournalForm EventsForm; decide +kernel⟩,
   ⟨(0), (3), ({ base with tables := { base.tables with sweep := [(3, [511])] } }), (sweepRun (3) (advance (0) ({ base with tables := { base.tables with sweep := [(3, [511])] } } : State))), by unfold Canonical MailboxForm DictForm TablesForm FlowForm BufForm SchedForm EndpointForm PoldersForm CipherForm SiphonForm JournalForm EventsForm; decide +kernel⟩⟩

/-- The hypotheses of `Obligations.TableCommands` are met. -/
theorem test_TableCommands_met :
    (∃ s : State, barOpen s 0 = true ∧ s.tables.busy.isSome = true)
    ∧ (∃ s : State, barOpen s 0 = true ∧ s.tables.busy.isSome = true)
    ∧ (∃ s : State, barOpen s 0 = true ∧ s.tables.busy.isSome = true)
    ∧ (∃ s : State, barOpen s 0 = true ∧ s.tables.busy.isSome = true)
    ∧ (∃ s : State, barOpen s 0 = true ∧ s.tables.busy.isSome = true) :=
  ⟨⟨{ host with tables := { base.tables with busy := some { op := 1, result := 1, index := none, entry := none, scan := none } } }, by decide +kernel⟩,
   ⟨{ host with tables := { base.tables with busy := some { op := 1, result := 1, index := none, entry := none, scan := none } } }, by decide +kernel⟩,
   ⟨{ host with tables := { base.tables with busy := some { op := 1, result := 1, index := none, entry := none, scan := none } } }, by decide +kernel⟩,
   ⟨{ host with tables := { base.tables with busy := some { op := 1, result := 1, index := none, entry := none, scan := none } } }, by decide +kernel⟩,
   ⟨{ host with tables := { base.tables with busy := some { op := 1, result := 1, index := none, entry := none, scan := none } } }, by decide +kernel⟩⟩

/-- Further clauses of `Obligations.TableCommands`. -/
theorem test_TableCommands_met_2 :
    (∃ s : State, barOpen s 0 = true ∧ s.tables.busy.isSome = true)
    ∧ (∃ t : Nat, ∃ i : Nat, ∃ tb : Nat, ∃ s : State, ∃ s1 : State, barOpen s 0 = true ∧ s.tables.busy = none ∧ s1 = sweepAll (advance t s) ∧ tb < 2 ∧ i < tblSize tb)
    ∧ (∃ t : Nat, ∃ tb : Nat, ∃ k : Nat, ∃ s : State, ∃ s1 : State, barOpen s 0 = true ∧ s.tables.busy = none ∧ s1 = sweepAll (advance t s) ∧ tb < 2 ∧ operandKey tb (tblData s 0) = some k)
    ∧ (∃ t : Nat, ∃ j : Nat, ∃ k : Nat, ∃ d : Nat, ∃ s : State, ∃ s1 : State, Canonical s ∧ barOpen s 0 = true ∧ s.tables.busy = none ∧ s1 = sweepAll (advance t s) ∧ d = tblData s 0 ∧ d.testBit 80 = true ∧ operandKey 0 d = some k ∧ (findFdb s1 k = some j ∨ (findFdb s1 k = none ∧ freeSlot s1 0 k = some j)))
    ∧ (∃ j : Nat, ∃ k : Nat, ∃ d : Nat, ∃ s : State, Canonical s ∧ barOpen s 0 = true ∧ s.tables.busy = none ∧ d = tblData s 0 ∧ d.testBit 80 = true ∧ operandKey 1 d = some k ∧ (findStream s k = some j ∨ (findStream s k = none ∧ freeSlot s 1 k = some j))) :=
  ⟨⟨{ host with tables := { base.tables with busy := some { op := 1, result := 1, index := none, entry := none, scan := none } } }, by decide +kernel⟩,
   ⟨(0), (1052671), (0), (host), (sweepAll (advance (0) (host))), by decide +kernel⟩,
   ⟨(0), (1), (streamKey 0 4094 0), ({ host with tables := { base.tables with data := [(1, 0x0FFE0000), (2, 0x10000)] } }), (sweepAll (advance (0) ({ host with tables := { base.tables with data := [(1, 0x0FFE0000), (2, 0x10000)] } } : State))), by decide +kernel⟩,
   ⟨(0), (499660), (fdbKey 4095 0), (1208926972254658804842496), ({ host with tables := { base.tables with data := [(1, 0x0FFF0000), (2, 0x10000)] } }), (sweepAll (advance (0) ({ host with tables := { base.tables with data := [(1, 0x0FFF0000), (2, 0x10000)] } } : State))), by unfold Canonical MailboxForm DictForm TablesForm FlowForm BufForm SchedForm EndpointForm PoldersForm CipherForm SiphonForm JournalForm EventsForm; decide +kernel⟩,
   ⟨(13748), (streamKey 0 4094 0), (1208926971973183828131840), ({ host with tables := { base.tables with data := [(1, 0x0FFE0000), (2, 0x10000)] } }), by unfold Canonical MailboxForm DictForm TablesForm FlowForm BufForm SchedForm EndpointForm PoldersForm CipherForm SiphonForm JournalForm EventsForm; decide +kernel⟩⟩

/-- Further clauses of `Obligations.TableCommands`. -/
theorem test_TableCommands_met_3 :
    (∃ t : Nat, ∃ k : Nat, ∃ d : Nat, ∃ s : State, ∃ s1 : State, Canonical s ∧ barOpen s 0 = true ∧ s.tables.busy = none ∧ s1 = sweepAll (advance t s) ∧ d = tblData s 0 ∧ d.testBit 80 = true ∧ operandKey 0 d = some k)
    ∧ (∃ t : Nat, ∃ k : Nat, ∃ d : Nat, ∃ s : State, ∃ s1 : State, Canonical s ∧ barOpen s 0 = true ∧ s.tables.busy = none ∧ s1 = sweepAll (advance t s) ∧ d = tblData s 0 ∧ d.testBit 80 = true ∧ operandKey 0 d = some k ∧ findFdb s1 k = none ∧ freeSlot s1 0 k = none)
    ∧ (∃ t : Nat, ∃ i : Nat, ∃ s : State, ∃ s1 : State, Canonical s ∧ barOpen s 0 = true ∧ s.tables.busy = none ∧ s1 = sweepAll (advance t s) ∧ i < fdbSize)
    ∧ (∃ i : Nat, ∃ s : State, Canonical s ∧ barOpen s 0 = true ∧ s.tables.busy = none ∧ i < streamSize)
    ∧ (∃ t : Nat, ∃ i : Nat, ∃ tb : Nat, ∃ s : State, ∃ s1 : State, barOpen s 0 = true ∧ s.tables.busy = none ∧ s1 = sweepAll (advance t s) ∧ tb < 2 ∧ i < tblSize tb) :=
  ⟨⟨(0), (fdbKey 4095 0), (1208926972254658804842496), ({ host with tables := { base.tables with data := [(1, 0x0FFF0000), (2, 0x10000)] } }), (sweepAll (advance (0) ({ host with tables := { base.tables with data := [(1, 0x0FFF0000), (2, 0x10000)] } } : State))), by unfold Canonical MailboxForm DictForm TablesForm FlowForm BufForm SchedForm EndpointForm PoldersForm CipherForm SiphonForm JournalForm EventsForm; decide +kernel⟩,
   ⟨(0), (fdbKey 4095 0), (1208926972254658804842496), (fullFdb), (sweepAll (advance (0) (fullFdb))), fullFdb_canonical, by decide +kernel, by decide +kernel, rfl, by decide +kernel, by decide +kernel, by decide +kernel, fullFdb_other, fullFdb_full⟩,
   ⟨(0), (1052671), (host), (sweepAll (advance (0) (host))), by unfold Canonical MailboxForm DictForm TablesForm FlowForm BufForm SchedForm EndpointForm PoldersForm CipherForm SiphonForm JournalForm EventsForm; decide +kernel⟩,
   ⟨(17407), (host), by unfold Canonical MailboxForm DictForm TablesForm FlowForm BufForm SchedForm EndpointForm PoldersForm CipherForm SiphonForm JournalForm EventsForm; decide +kernel⟩,
   ⟨(0), (1052671), (0), (host), (sweepAll (advance (0) (host))), by decide +kernel⟩⟩

/-- Further clauses of `Obligations.TableCommands`. -/
theorem test_TableCommands_met_4 :
    (∃ t : Nat, ∃ s : State, ∃ s1 : State, barOpen s 0 = true ∧ s.tables.busy = none ∧ s1 = sweepAll (advance t s))
    ∧ (∃ t : Nat, ∃ s : State, ∃ s1 : State, barOpen s 0 = true ∧ s.tables.busy = none ∧ s1 = sweepAll (advance t s))
    ∧ (∃ t : Nat, ∃ s : State, ∃ s1 : State, Canonical s ∧ barOpen s 0 = true ∧ s.tables.busy = none ∧ s1 = sweepAll (advance t s))
    ∧ (∃ b : TblBusy, ∃ s : State, s.tables.busy = some b ∧ b.scan = none ∧ tblSettled s b = true ∧ Tab.wf 0#32 s.tables.data = true)
    ∧ (∃ b : TblBusy, ∃ s : State, s.tables.busy = some b ∧ b.scan = none ∧ tblSettled s b = false) :=
  ⟨⟨(0), (host), (sweepAll (advance (0) (host))), by decide +kernel⟩,
   ⟨(0), (host), (sweepAll (advance (0) (host))), by decide +kernel⟩,
   ⟨(0), (host), (sweepAll (advance (0) (host))), by unfold Canonical MailboxForm DictForm TablesForm FlowForm BufForm SchedForm EndpointForm PoldersForm CipherForm SiphonForm JournalForm EventsForm; decide +kernel⟩,
   ⟨({ op := 1, result := 1, index := none, entry := none, scan := none }), ({ base with tables := { base.tables with busy := some { op := 1, result := 1, index := none, entry := none, scan := none } } }), by decide +kernel⟩,
   ⟨({ op := 6, result := 0, index := none, entry := none, scan := none }), ({ base with tables := { base.tables with repQ := [{ src := 0, dst := 3, table := 0, index := 7, fdb := { FdbEntry.reset with valid := true, fid := 4095, mac := 1, dest := 511 }, stream := StreamEntry.reset, flagOnly := false, key := 0 }], busy := some { op := 6, result := 0, index := none, entry := none, scan := none } } }), by decide +kernel⟩⟩

/-- Further clauses of `Obligations.TableCommands`. -/
theorem test_TableCommands_met_5 :
    (∃ t : Nat, ∃ upTo : Nat, ∃ b : TblBusy, ∃ c : TblScan, ∃ s : State, s.tables.busy = some b ∧ b.op = 4 ∧ b.scan = some c ∧ upTo = min (tblPlaces c.table) (placeOf c.table c.from_ + placesIn c.since (advance t s).clock) ∧ Tab.wf 0#32 s.tables.data = true) :=
  ⟨(1000000), (min (tblPlaces ({ table := 0, from_ := 0, mask := 0, want := 0, since := 0, place := 0 } : TblScan).table) (placeOf ({ table := 0, from_ := 0, mask := 0, want := 0, since := 0, place := 0 } : TblScan).table ({ table := 0, from_ := 0, mask := 0, want := 0, since := 0, place := 0 } : TblScan).from_ + placesIn ({ table := 0, from_ := 0, mask := 0, want := 0, since := 0, place := 0 } : TblScan).since (advance (1000000) ({ base with tables := { base.tables with busy := some { op := 4, result := 0, index := none, entry := none, scan := some { table := 0, from_ := 0, mask := 0, want := 0, since := 0, place := 0 } } } } : State)).clock)), ({ op := 4, result := 0, index := none, entry := none, scan := some { table := 0, from_ := 0, mask := 0, want := 0, since := 0, place := 0 } }), ({ table := 0, from_ := 0, mask := 0, want := 0, since := 0, place := 0 }), ({ base with tables := { base.tables with busy := some { op := 4, result := 0, index := none, entry := none, scan := some { table := 0, from_ := 0, mask := 0, want := 0, since := 0, place := 0 } } } }), by decide +kernel⟩

/-- The hypotheses of `Obligations.CulvertLinks` are met. -/
theorem test_CulvertLinks_met :
    (∃ c : Nat, ∃ s : State, c < 20 ∧ culvDown s c = false)
    ∧ (∃ c : Nat, ∃ s : State, c < 20 ∧ culvDown s c = false)
    ∧ (∃ c : Nat, ∃ s : State, culvDown s c = true)
    ∧ (∃ c : Nat, ∃ s : State, c < 20 ∧ culvDown s c = false ∧ 16 ≤ Tab.get 0 s.culv.fails c ∧ (∀ p, p ∈ s.buf.transit → p.info.src = .field))
    ∧ (∃ c : Nat, ∃ s : State, c < 20 ∧ Tab.get 0 s.culv.fails c < 16) :=
  ⟨⟨(19), (base), by decide +kernel⟩,
   ⟨(19), (base), by decide +kernel⟩,
   ⟨(19), ({ base with culv := { base.culv with down := [(19, true)] } }), by decide +kernel⟩,
   ⟨(19), ({ base with culv := { base.culv with fails := [(19, 16)] } }), by decide +kernel⟩,
   ⟨(19), ({ base with culv := { base.culv with fails := [(19, 15)] } }), by decide +kernel⟩⟩

/-- Further clauses of `Obligations.CulvertLinks`. -/
theorem test_CulvertLinks_met_2 :
    (∃ c : Nat, ∃ s : State, c < 20 ∧ Tab.wf false s.culv.down = true ∧ culvDown s c = true)
    ∧ (∃ c : Nat, ∃ s : State, c < 20 ∧ Tab.wf false s.culv.down = true ∧ culvDown s c = true) :=
  ⟨⟨(19), ({ base with culv := { base.culv with down := [(19, true)] } }), by decide +kernel⟩,
   ⟨(19), ({ base with culv := { base.culv with down := [(19, true)] } }), by decide +kernel⟩⟩

/-- The hypotheses of `Obligations.FrameReceipt` are met. -/
theorem test_FrameReceipt_met :
    (∃ port : Nat, ∃ k : Nat, ∃ b : Bytes, ∃ ok : Bool, ∃ s : State, port < 512 ∧ portReceives s port = true ∧ rxVerdict s port b ok = some k)
    ∧ (∃ b : Bytes, b.length + 4 < 64)
    ∧ (∃ s : State, ∃ port : Nat, ∃ b : Bytes, 64 ≤ b.length + 4 ∧ maxFrameSize s port < b.length + 4)
    ∧ (∃ s : State, ∃ port : Nat, ∃ b : Bytes, 64 ≤ b.length + 4 ∧ b.length + 4 ≤ maxFrameSize s port ∧ beField b 12 2 = 0x8808)
    ∧ (∃ s : State, ∃ port : Nat, ∃ b : Bytes, 64 ≤ b.length + 4 ∧ b.length + 4 ≤ maxFrameSize s port ∧ beField b 12 2 ≠ 0x8808 ∧ portUp s port = true) :=
  ⟨⟨(511), (0x24), (zeros 60), (false), (((having [(0x21FF, 1, [1]), (0x21FF, 2, [1])] { base with boot := { base.boot with fieldUp := true } }).setPort 511 { Port.reset with link := .up })), by decide +kernel⟩,
   ⟨(zeros 59), by decide +kernel⟩,
   ⟨(base), (0), (zeros 10000), by decide +kernel⟩,
   ⟨(base), (0), ((zeros 12 ++ [0x88, 8] ++ zeros 46)), by decide +kernel⟩,
   ⟨(((having [(0x21FF, 1, [1]), (0x21FF, 2, [1])] { base with boot := { base.boot with fieldUp := true } }).setPort 511 { Port.reset with link := .up })), (511), (zeros 60), by decide +kernel⟩⟩

/-- Further clauses of `Obligations.FrameReceipt`. -/
theorem test_FrameReceipt_met_2 :
    (∃ port : Nat, ∃ b : Bytes, ∃ s : State, port < 512 ∧ portReceives s port = true ∧ rxVerdict s port b true = none)
    ∧ (∃ port : Nat, ∃ s : State, port < 512 ∧ portReceives s port = false)
    ∧ (∃ port : Nat, ∃ b : Bytes, ∃ s : State, port < 512 ∧ (ptpAt (parseFrame s s.cls.active port 0 0 0 b)).isSome = true)
    ∧ (∃ par : Nat, ∃ f : RFrame, ∃ x : Parsed, ∃ s : State, x = parseFrame s f.bank f.port f.pass f.tag f.stamp f.bytes ∧ x.fin = none ∧ fdpTaken s f.port x f.bytes = false ∧ (ptpAt x).isSome = true ∧ ptpMine s f.port x = true ∧ ptpThrough s f.port x = false ∧ s.boot.coresUp = true ∧ (timeSource s ≠ 1 ∨ s.time.state = tsLOCKED ∨ s.time.state = tsHOLDOVER) ∧ (par = (if ptpType x = 11 ∧ (s.time.parent = 0xFFFF ∨ Config.ptpPicks s.freeCtr = true) then f.port else s.time.parent)))
    ∧ (∃ par : Nat, ∃ f : RFrame, ∃ x : Parsed, ∃ s : State, x = parseFrame s f.bank f.port f.pass f.tag f.stamp f.bytes ∧ x.fin = none ∧ fdpTaken s f.port x f.bytes = false ∧ (ptpAt x).isSome = true ∧ ptpMine s f.port x = true ∧ ptpThrough s f.port x = false ∧ s.boot.coresUp = true ∧ (timeSource s ≠ 1 ∨ s.time.state = tsLOCKED ∨ s.time.state = tsHOLDOVER) ∧ (par = (if ptpType x = 11 ∧ (s.time.parent = 0xFFFF ∨ Config.ptpPicks s.freeCtr = true) then f.port else s.time.parent))) :=
  ⟨⟨(511), (zeros 60), (((having [(0x21FF, 1, [1]), (0x21FF, 2, [1])] { base with boot := { base.boot with fieldUp := true } }).setPort 511 { Port.reset with link := .up })), by decide +kernel⟩,
   ⟨(511), (base), by decide +kernel⟩,
   ⟨(511), ((zeros 12 ++ [0x88, 0xF7, 0, 2, 0, 44] ++ zeros 46)), (base), by decide +kernel⟩,
   ⟨((if ptpType (parseFrame ((having [(0x1202, 1, [1]), (0x1202, 4, [0]), (0x1202, 5, List.replicate 64 255#8)] { base with time := { base.time with parent := 511 }, boot := { base.boot with coresUp := true } }) : State) ({ port := 511, stamp := 0, bytes := (zeros 12 ++ [0x88, 0xF7, 0, 2, 0, 44] ++ zeros 46), bank := 0, pass := 0, tag := 0, held := { forward := none, host := none, tc := none, flow := none }, counted := false, metered := none, orig := (zeros 12 ++ [0x88, 0xF7, 0, 2, 0, 44] ++ zeros 46), frame := 0 } : RFrame).bank ({ port := 511, stamp := 0, bytes := (zeros 12 ++ [0x88, 0xF7, 0, 2, 0, 44] ++ zeros 46), bank := 0, pass := 0, tag := 0, held := { forward := none, host := none, tc := none, flow := none }, counted := false, metered := none, orig := (zeros 12 ++ [0x88, 0xF7, 0, 2, 0, 44] ++ zeros 46), frame := 0 } : RFrame).port ({ port := 511, stamp := 0, bytes := (zeros 12 ++ [0x88, 0xF7, 0, 2, 0, 44] ++ zeros 46), bank := 0, pass := 0, tag := 0, held := { forward := none, host := none, tc := none, flow := none }, counted := false, metered := none, orig := (zeros 12 ++ [0x88, 0xF7, 0, 2, 0, 44] ++ zeros 46), frame := 0 } : RFrame).pass ({ port := 511, stamp := 0, bytes := (zeros 12 ++ [0x88, 0xF7, 0, 2, 0, 44] ++ zeros 46), bank := 0, pass := 0, tag := 0, held := { forward := none, host := none, tc := none, flow := none }, counted := false, metered := none, orig := (zeros 12 ++ [0x88, 0xF7, 0, 2, 0, 44] ++ zeros 46), frame := 0 } : RFrame).tag ({ port := 511, stamp := 0, bytes := (zeros 12 ++ [0x88, 0xF7, 0, 2, 0, 44] ++ zeros 46), bank := 0, pass := 0, tag := 0, held := { forward := none, host := none, tc := none, flow := none }, counted := false, metered := none, orig := (zeros 12 ++ [0x88, 0xF7, 0, 2, 0, 44] ++ zeros 46), frame := 0 } : RFrame).stamp ({ port := 511, stamp := 0, bytes := (zeros 12 ++ [0x88, 0xF7, 0, 2, 0, 44] ++ zeros 46), bank := 0, pass := 0, tag := 0, held := { forward := none, host := none, tc := none, flow := none }, counted := false, metered := none, orig := (zeros 12 ++ [0x88, 0xF7, 0, 2, 0, 44] ++ zeros 46), frame := 0 } : RFrame).bytes : Parsed) = 11 ∧ (((having [(0x1202, 1, [1]), (0x1202, 4, [0]), (0x1202, 5, List.replicate 64 255#8)] { base with time := { base.time with parent := 511 }, boot := { base.boot with coresUp := true } }) : State).time.parent = 0xFFFF ∨ Config.ptpPicks ((having [(0x1202, 1, [1]), (0x1202, 4, [0]), (0x1202, 5, List.replicate 64 255#8)] { base with time := { base.time with parent := 511 }, boot := { base.boot with coresUp := true } }) : State).freeCtr = true) then ({ port := 511, stamp := 0, bytes := (zeros 12 ++ [0x88, 0xF7, 0, 2, 0, 44] ++ zeros 46), bank := 0, pass := 0, tag := 0, held := { forward := none, host := none, tc := none, flow := none }, counted := false, metered := none, orig := (zeros 12 ++ [0x88, 0xF7, 0, 2, 0, 44] ++ zeros 46), frame := 0 } : RFrame).port else ((having [(0x1202, 1, [1]), (0x1202, 4, [0]), (0x1202, 5, List.replicate 64 255#8)] { base with time := { base.time with parent := 511 }, boot := { base.boot with coresUp := true } }) : State).time.parent)), ({ port := 511, stamp := 0, bytes := (zeros 12 ++ [0x88, 0xF7, 0, 2, 0, 44] ++ zeros 46), bank := 0, pass := 0, tag := 0, held := { forward := none, host := none, tc := none, flow := none }, counted := false, metered := none, orig := (zeros 12 ++ [0x88, 0xF7, 0, 2, 0, 44] ++ zeros 46), frame := 0 }), (parseFrame ((having [(0x1202, 1, [1]), (0x1202, 4, [0]), (0x1202, 5, List.replicate 64 255#8)] { base with time := { base.time with parent := 511 }, boot := { base.boot with coresUp := true } }) : State) ({ port := 511, stamp := 0, bytes := (zeros 12 ++ [0x88, 0xF7, 0, 2, 0, 44] ++ zeros 46), bank := 0, pass := 0, tag := 0, held := { forward := none, host := none, tc := none, flow := none }, counted := false, metered := none, orig := (zeros 12 ++ [0x88, 0xF7, 0, 2, 0, 44] ++ zeros 46), frame := 0 } : RFrame).bank ({ port := 511, stamp := 0, bytes := (zeros 12 ++ [0x88, 0xF7, 0, 2, 0, 44] ++ zeros 46), bank := 0, pass := 0, tag := 0, held := { forward := none, host := none, tc := none, flow := none }, counted := false, metered := none, orig := (zeros 12 ++ [0x88, 0xF7, 0, 2, 0, 44] ++ zeros 46), frame := 0 } : RFrame).port ({ port := 511, stamp := 0, bytes := (zeros 12 ++ [0x88, 0xF7, 0, 2, 0, 44] ++ zeros 46), bank := 0, pass := 0, tag := 0, held := { forward := none, host := none, tc := none, flow := none }, counted := false, metered := none, orig := (zeros 12 ++ [0x88, 0xF7, 0, 2, 0, 44] ++ zeros 46), frame := 0 } : RFrame).pass ({ port := 511, stamp := 0, bytes := (zeros 12 ++ [0x88, 0xF7, 0, 2, 0, 44] ++ zeros 46), bank := 0, pass := 0, tag := 0, held := { forward := none, host := none, tc := none, flow := none }, counted := false, metered := none, orig := (zeros 12 ++ [0x88, 0xF7, 0, 2, 0, 44] ++ zeros 46), frame := 0 } : RFrame).tag ({ port := 511, stamp := 0, bytes := (zeros 12 ++ [0x88, 0xF7, 0, 2, 0, 44] ++ zeros 46), bank := 0, pass := 0, tag := 0, held := { forward := none, host := none, tc := none, flow := none }, counted := false, metered := none, orig := (zeros 12 ++ [0x88, 0xF7, 0, 2, 0, 44] ++ zeros 46), frame := 0 } : RFrame).stamp ({ port := 511, stamp := 0, bytes := (zeros 12 ++ [0x88, 0xF7, 0, 2, 0, 44] ++ zeros 46), bank := 0, pass := 0, tag := 0, held := { forward := none, host := none, tc := none, flow := none }, counted := false, metered := none, orig := (zeros 12 ++ [0x88, 0xF7, 0, 2, 0, 44] ++ zeros 46), frame := 0 } : RFrame).bytes), ((having [(0x1202, 1, [1]), (0x1202, 4, [0]), (0x1202, 5, List.replicate 64 255#8)] { base with time := { base.time with parent := 511 }, boot := { base.boot with coresUp := true } })), by decide +kernel⟩,
   ⟨((if ptpType (parseFrame ((having [(0x1202, 1, [1]), (0x1202, 4, [0]), (0x1202, 5, List.replicate 64 255#8)] { base with time := { base.time with parent := 511 }, boot := { base.boot with coresUp := true } }) : State) ({ port := 511, stamp := 0, bytes := (zeros 12 ++ [0x88, 0xF7, 0, 2, 0, 44] ++ zeros 46), bank := 0, pass := 0, tag := 0, held := { forward := none, host := none, tc := none, flow := none }, counted := false, metered := none, orig := (zeros 12 ++ [0x88, 0xF7, 0, 2, 0, 44] ++ zeros 46), frame := 0 } : RFrame).bank ({ port := 511, stamp := 0, bytes := (zeros 12 ++ [0x88, 0xF7, 0, 2, 0, 44] ++ zeros 46), bank := 0, pass := 0, tag := 0, held := { forward := none, host := none, tc := none, flow := none }, counted := false, metered := none, orig := (zeros 12 ++ [0x88, 0xF7, 0, 2, 0, 44] ++ zeros 46), frame := 0 } : RFrame).port ({ port := 511, stamp := 0, bytes := (zeros 12 ++ [0x88, 0xF7, 0, 2, 0, 44] ++ zeros 46), bank := 0, pass := 0, tag := 0, held := { forward := none, host := none, tc := none, flow := none }, counted := false, metered := none, orig := (zeros 12 ++ [0x88, 0xF7, 0, 2, 0, 44] ++ zeros 46), frame := 0 } : RFrame).pass ({ port := 511, stamp := 0, bytes := (zeros 12 ++ [0x88, 0xF7, 0, 2, 0, 44] ++ zeros 46), bank := 0, pass := 0, tag := 0, held := { forward := none, host := none, tc := none, flow := none }, counted := false, metered := none, orig := (zeros 12 ++ [0x88, 0xF7, 0, 2, 0, 44] ++ zeros 46), frame := 0 } : RFrame).tag ({ port := 511, stamp := 0, bytes := (zeros 12 ++ [0x88, 0xF7, 0, 2, 0, 44] ++ zeros 46), bank := 0, pass := 0, tag := 0, held := { forward := none, host := none, tc := none, flow := none }, counted := false, metered := none, orig := (zeros 12 ++ [0x88, 0xF7, 0, 2, 0, 44] ++ zeros 46), frame := 0 } : RFrame).stamp ({ port := 511, stamp := 0, bytes := (zeros 12 ++ [0x88, 0xF7, 0, 2, 0, 44] ++ zeros 46), bank := 0, pass := 0, tag := 0, held := { forward := none, host := none, tc := none, flow := none }, counted := false, metered := none, orig := (zeros 12 ++ [0x88, 0xF7, 0, 2, 0, 44] ++ zeros 46), frame := 0 } : RFrame).bytes : Parsed) = 11 ∧ (((having [(0x1202, 1, [1]), (0x1202, 4, [0]), (0x1202, 5, List.replicate 64 255#8)] { base with time := { base.time with parent := 511 }, boot := { base.boot with coresUp := true } }) : State).time.parent = 0xFFFF ∨ Config.ptpPicks ((having [(0x1202, 1, [1]), (0x1202, 4, [0]), (0x1202, 5, List.replicate 64 255#8)] { base with time := { base.time with parent := 511 }, boot := { base.boot with coresUp := true } }) : State).freeCtr = true) then ({ port := 511, stamp := 0, bytes := (zeros 12 ++ [0x88, 0xF7, 0, 2, 0, 44] ++ zeros 46), bank := 0, pass := 0, tag := 0, held := { forward := none, host := none, tc := none, flow := none }, counted := false, metered := none, orig := (zeros 12 ++ [0x88, 0xF7, 0, 2, 0, 44] ++ zeros 46), frame := 0 } : RFrame).port else ((having [(0x1202, 1, [1]), (0x1202, 4, [0]), (0x1202, 5, List.replicate 64 255#8)] { base with time := { base.time with parent := 511 }, boot := { base.boot with coresUp := true } }) : State).time.parent)), ({ port := 511, stamp := 0, bytes := (zeros 12 ++ [0x88, 0xF7, 0, 2, 0, 44] ++ zeros 46), bank := 0, pass := 0, tag := 0, held := { forward := none, host := none, tc := none, flow := none }, counted := false, metered := none, orig := (zeros 12 ++ [0x88, 0xF7, 0, 2, 0, 44] ++ zeros 46), frame := 0 }), (parseFrame ((having [(0x1202, 1, [1]), (0x1202, 4, [0]), (0x1202, 5, List.replicate 64 255#8)] { base with time := { base.time with parent := 511 }, boot := { base.boot with coresUp := true } }) : State) ({ port := 511, stamp := 0, bytes := (zeros 12 ++ [0x88, 0xF7, 0, 2, 0, 44] ++ zeros 46), bank := 0, pass := 0, tag := 0, held := { forward := none, host := none, tc := none, flow := none }, counted := false, metered := none, orig := (zeros 12 ++ [0x88, 0xF7, 0, 2, 0, 44] ++ zeros 46), frame := 0 } : RFrame).bank ({ port := 511, stamp := 0, bytes := (zeros 12 ++ [0x88, 0xF7, 0, 2, 0, 44] ++ zeros 46), bank := 0, pass := 0, tag := 0, held := { forward := none, host := none, tc := none, flow := none }, counted := false, metered := none, orig := (zeros 12 ++ [0x88, 0xF7, 0, 2, 0, 44] ++ zeros 46), frame := 0 } : RFrame).port ({ port := 511, stamp := 0, bytes := (zeros 12 ++ [0x88, 0xF7, 0, 2, 0, 44] ++ zeros 46), bank := 0, pass := 0, tag := 0, held := { forward := none, host := none, tc := none, flow := none }, counted := false, metered := none, orig := (zeros 12 ++ [0x88, 0xF7, 0, 2, 0, 44] ++ zeros 46), frame := 0 } : RFrame).pass ({ port := 511, stamp := 0, bytes := (zeros 12 ++ [0x88, 0xF7, 0, 2, 0, 44] ++ zeros 46), bank := 0, pass := 0, tag := 0, held := { forward := none, host := none, tc := none, flow := none }, counted := false, metered := none, orig := (zeros 12 ++ [0x88, 0xF7, 0, 2, 0, 44] ++ zeros 46), frame := 0 } : RFrame).tag ({ port := 511, stamp := 0, bytes := (zeros 12 ++ [0x88, 0xF7, 0, 2, 0, 44] ++ zeros 46), bank := 0, pass := 0, tag := 0, held := { forward := none, host := none, tc := none, flow := none }, counted := false, metered := none, orig := (zeros 12 ++ [0x88, 0xF7, 0, 2, 0, 44] ++ zeros 46), frame := 0 } : RFrame).stamp ({ port := 511, stamp := 0, bytes := (zeros 12 ++ [0x88, 0xF7, 0, 2, 0, 44] ++ zeros 46), bank := 0, pass := 0, tag := 0, held := { forward := none, host := none, tc := none, flow := none }, counted := false, metered := none, orig := (zeros 12 ++ [0x88, 0xF7, 0, 2, 0, 44] ++ zeros 46), frame := 0 } : RFrame).bytes), ((having [(0x1202, 1, [1]), (0x1202, 4, [0]), (0x1202, 5, List.replicate 64 255#8)] { base with time := { base.time with parent := 511 }, boot := { base.boot with coresUp := true } })), by decide +kernel⟩⟩

/-- Further clauses of `Obligations.FrameReceipt`. -/
theorem test_FrameReceipt_met_3 :
    (∃ par : Nat, ∃ f : RFrame, ∃ x : Parsed, ∃ s : State, x = parseFrame s f.bank f.port f.pass f.tag f.stamp f.bytes ∧ x.fin = none ∧ fdpTaken s f.port x f.bytes = false ∧ (ptpAt x).isSome = true ∧ ptpMine s f.port x = true ∧ ptpThrough s f.port x = false ∧ s.boot.coresUp = true ∧ (timeSource s ≠ 1 ∨ s.time.state = tsLOCKED ∨ s.time.state = tsHOLDOVER) ∧ (par = (if ptpType x = 11 ∧ (s.time.parent = 0xFFFF ∨ Config.ptpPicks s.freeCtr = true) then f.port else s.time.parent)))
    ∧ (∃ par : Nat, ∃ f : RFrame, ∃ x : Parsed, ∃ s : State, x = parseFrame s f.bank f.port f.pass f.tag f.stamp f.bytes ∧ x.fin = none ∧ fdpTaken s f.port x f.bytes = false ∧ (ptpAt x).isSome = true ∧ ptpMine s f.port x = true ∧ ptpThrough s f.port x = false ∧ s.boot.coresUp = true ∧ (timeSource s ≠ 1 ∨ s.time.state = tsLOCKED ∨ s.time.state = tsHOLDOVER) ∧ (par = (if ptpType x = 11 ∧ (s.time.parent = 0xFFFF ∨ Config.ptpPicks s.freeCtr = true) then f.port else s.time.parent)))
    ∧ (∃ par : Nat, ∃ f : RFrame, ∃ x : Parsed, ∃ s : State, x = parseFrame s f.bank f.port f.pass f.tag f.stamp f.bytes ∧ x.fin = none ∧ fdpTaken s f.port x f.bytes = false ∧ (ptpAt x).isSome = true ∧ ptpMine s f.port x = true ∧ ptpThrough s f.port x = false ∧ s.boot.coresUp = true ∧ (timeSource s ≠ 1 ∨ s.time.state = tsLOCKED ∨ s.time.state = tsHOLDOVER) ∧ (par = (if ptpType x = 11 ∧ (s.time.parent = 0xFFFF ∨ Config.ptpPicks s.freeCtr = true) then f.port else s.time.parent)) ∧ par ≠ f.port)
    ∧ (∃ par : Nat, ∃ f : RFrame, ∃ x : Parsed, ∃ s : State, x = parseFrame s f.bank f.port f.pass f.tag f.stamp f.bytes ∧ x.fin = none ∧ fdpTaken s f.port x f.bytes = false ∧ (ptpAt x).isSome = true ∧ ptpMine s f.port x = true ∧ ptpThrough s f.port x = false ∧ s.boot.coresUp = true ∧ (timeSource s ≠ 1 ∨ s.time.state = tsLOCKED ∨ s.time.state = tsHOLDOVER) ∧ (par = (if ptpType x = 11 ∧ (s.time.parent = 0xFFFF ∨ Config.ptpPicks s.freeCtr = true) then f.port else s.time.parent)) ∧ par = f.port)
    ∧ (∃ par : Nat, ∃ f : RFrame, ∃ x : Parsed, ∃ s : State, x = parseFrame s f.bank f.port f.pass f.tag f.stamp f.bytes ∧ x.fin = none ∧ fdpTaken s f.port x f.bytes = false ∧ (ptpAt x).isSome = true ∧ ptpMine s f.port x = true ∧ ptpThrough s f.port x = false ∧ s.boot.coresUp = true ∧ (timeSource s ≠ 1 ∨ s.time.state = tsLOCKED ∨ s.time.state = tsHOLDOVER) ∧ (par = (if ptpType x = 11 ∧ (s.time.parent = 0xFFFF ∨ Config.ptpPicks s.freeCtr = true) then f.port else s.time.parent)) ∧ par = f.port) :=
  ⟨⟨((if ptpType (parseFrame ((having [(0x1202, 1, [1]), (0x1202, 4, [0]), (0x1202, 5, List.replicate 64 255#8)] { base with time := { base.time with parent := 511 }, boot := { base.boot with coresUp := true } }) : State) ({ port := 511, stamp := 0, bytes := (zeros 12 ++ [0x88, 0xF7, 0, 2, 0, 44] ++ zeros 46), bank := 0, pass := 0, tag := 0, held := { forward := none, host := none, tc := none, flow := none }, counted := false, metered := none, orig := (zeros 12 ++ [0x88, 0xF7, 0, 2, 0, 44] ++ zeros 46), frame := 0 } : RFrame).bank ({ port := 511, stamp := 0, bytes := (zeros 12 ++ [0x88, 0xF7, 0, 2, 0, 44] ++ zeros 46), bank := 0, pass := 0, tag := 0, held := { forward := none, host := none, tc := none, flow := none }, counted := false, metered := none, orig := (zeros 12 ++ [0x88, 0xF7, 0, 2, 0, 44] ++ zeros 46), frame := 0 } : RFrame).port ({ port := 511, stamp := 0, bytes := (zeros 12 ++ [0x88, 0xF7, 0, 2, 0, 44] ++ zeros 46), bank := 0, pass := 0, tag := 0, held := { forward := none, host := none, tc := none, flow := none }, counted := false, metered := none, orig := (zeros 12 ++ [0x88, 0xF7, 0, 2, 0, 44] ++ zeros 46), frame := 0 } : RFrame).pass ({ port := 511, stamp := 0, bytes := (zeros 12 ++ [0x88, 0xF7, 0, 2, 0, 44] ++ zeros 46), bank := 0, pass := 0, tag := 0, held := { forward := none, host := none, tc := none, flow := none }, counted := false, metered := none, orig := (zeros 12 ++ [0x88, 0xF7, 0, 2, 0, 44] ++ zeros 46), frame := 0 } : RFrame).tag ({ port := 511, stamp := 0, bytes := (zeros 12 ++ [0x88, 0xF7, 0, 2, 0, 44] ++ zeros 46), bank := 0, pass := 0, tag := 0, held := { forward := none, host := none, tc := none, flow := none }, counted := false, metered := none, orig := (zeros 12 ++ [0x88, 0xF7, 0, 2, 0, 44] ++ zeros 46), frame := 0 } : RFrame).stamp ({ port := 511, stamp := 0, bytes := (zeros 12 ++ [0x88, 0xF7, 0, 2, 0, 44] ++ zeros 46), bank := 0, pass := 0, tag := 0, held := { forward := none, host := none, tc := none, flow := none }, counted := false, metered := none, orig := (zeros 12 ++ [0x88, 0xF7, 0, 2, 0, 44] ++ zeros 46), frame := 0 } : RFrame).bytes : Parsed) = 11 ∧ (((having [(0x1202, 1, [1]), (0x1202, 4, [0]), (0x1202, 5, List.replicate 64 255#8)] { base with time := { base.time with parent := 511 }, boot := { base.boot with coresUp := true } }) : State).time.parent = 0xFFFF ∨ Config.ptpPicks ((having [(0x1202, 1, [1]), (0x1202, 4, [0]), (0x1202, 5, List.replicate 64 255#8)] { base with time := { base.time with parent := 511 }, boot := { base.boot with coresUp := true } }) : State).freeCtr = true) then ({ port := 511, stamp := 0, bytes := (zeros 12 ++ [0x88, 0xF7, 0, 2, 0, 44] ++ zeros 46), bank := 0, pass := 0, tag := 0, held := { forward := none, host := none, tc := none, flow := none }, counted := false, metered := none, orig := (zeros 12 ++ [0x88, 0xF7, 0, 2, 0, 44] ++ zeros 46), frame := 0 } : RFrame).port else ((having [(0x1202, 1, [1]), (0x1202, 4, [0]), (0x1202, 5, List.replicate 64 255#8)] { base with time := { base.time with parent := 511 }, boot := { base.boot with coresUp := true } }) : State).time.parent)), ({ port := 511, stamp := 0, bytes := (zeros 12 ++ [0x88, 0xF7, 0, 2, 0, 44] ++ zeros 46), bank := 0, pass := 0, tag := 0, held := { forward := none, host := none, tc := none, flow := none }, counted := false, metered := none, orig := (zeros 12 ++ [0x88, 0xF7, 0, 2, 0, 44] ++ zeros 46), frame := 0 }), (parseFrame ((having [(0x1202, 1, [1]), (0x1202, 4, [0]), (0x1202, 5, List.replicate 64 255#8)] { base with time := { base.time with parent := 511 }, boot := { base.boot with coresUp := true } }) : State) ({ port := 511, stamp := 0, bytes := (zeros 12 ++ [0x88, 0xF7, 0, 2, 0, 44] ++ zeros 46), bank := 0, pass := 0, tag := 0, held := { forward := none, host := none, tc := none, flow := none }, counted := false, metered := none, orig := (zeros 12 ++ [0x88, 0xF7, 0, 2, 0, 44] ++ zeros 46), frame := 0 } : RFrame).bank ({ port := 511, stamp := 0, bytes := (zeros 12 ++ [0x88, 0xF7, 0, 2, 0, 44] ++ zeros 46), bank := 0, pass := 0, tag := 0, held := { forward := none, host := none, tc := none, flow := none }, counted := false, metered := none, orig := (zeros 12 ++ [0x88, 0xF7, 0, 2, 0, 44] ++ zeros 46), frame := 0 } : RFrame).port ({ port := 511, stamp := 0, bytes := (zeros 12 ++ [0x88, 0xF7, 0, 2, 0, 44] ++ zeros 46), bank := 0, pass := 0, tag := 0, held := { forward := none, host := none, tc := none, flow := none }, counted := false, metered := none, orig := (zeros 12 ++ [0x88, 0xF7, 0, 2, 0, 44] ++ zeros 46), frame := 0 } : RFrame).pass ({ port := 511, stamp := 0, bytes := (zeros 12 ++ [0x88, 0xF7, 0, 2, 0, 44] ++ zeros 46), bank := 0, pass := 0, tag := 0, held := { forward := none, host := none, tc := none, flow := none }, counted := false, metered := none, orig := (zeros 12 ++ [0x88, 0xF7, 0, 2, 0, 44] ++ zeros 46), frame := 0 } : RFrame).tag ({ port := 511, stamp := 0, bytes := (zeros 12 ++ [0x88, 0xF7, 0, 2, 0, 44] ++ zeros 46), bank := 0, pass := 0, tag := 0, held := { forward := none, host := none, tc := none, flow := none }, counted := false, metered := none, orig := (zeros 12 ++ [0x88, 0xF7, 0, 2, 0, 44] ++ zeros 46), frame := 0 } : RFrame).stamp ({ port := 511, stamp := 0, bytes := (zeros 12 ++ [0x88, 0xF7, 0, 2, 0, 44] ++ zeros 46), bank := 0, pass := 0, tag := 0, held := { forward := none, host := none, tc := none, flow := none }, counted := false, metered := none, orig := (zeros 12 ++ [0x88, 0xF7, 0, 2, 0, 44] ++ zeros 46), frame := 0 } : RFrame).bytes), ((having [(0x1202, 1, [1]), (0x1202, 4, [0]), (0x1202, 5, List.replicate 64 255#8)] { base with time := { base.time with parent := 511 }, boot := { base.boot with coresUp := true } })), by decide +kernel⟩,
   ⟨((if ptpType (parseFrame ((having [(0x1202, 1, [1]), (0x1202, 4, [0]), (0x1202, 5, List.replicate 64 255#8)] { base with time := { base.time with parent := 511 }, boot := { base.boot with coresUp := true } }) : State) ({ port := 511, stamp := 0, bytes := (zeros 12 ++ [0x88, 0xF7, 0, 2, 0, 44] ++ zeros 46), bank := 0, pass := 0, tag := 0, held := { forward := none, host := none, tc := none, flow := none }, counted := false, metered := none, orig := (zeros 12 ++ [0x88, 0xF7, 0, 2, 0, 44] ++ zeros 46), frame := 0 } : RFrame).bank ({ port := 511, stamp := 0, bytes := (zeros 12 ++ [0x88, 0xF7, 0, 2, 0, 44] ++ zeros 46), bank := 0, pass := 0, tag := 0, held := { forward := none, host := none, tc := none, flow := none }, counted := false, metered := none, orig := (zeros 12 ++ [0x88, 0xF7, 0, 2, 0, 44] ++ zeros 46), frame := 0 } : RFrame).port ({ port := 511, stamp := 0, bytes := (zeros 12 ++ [0x88, 0xF7, 0, 2, 0, 44] ++ zeros 46), bank := 0, pass := 0, tag := 0, held := { forward := none, host := none, tc := none, flow := none }, counted := false, metered := none, orig := (zeros 12 ++ [0x88, 0xF7, 0, 2, 0, 44] ++ zeros 46), frame := 0 } : RFrame).pass ({ port := 511, stamp := 0, bytes := (zeros 12 ++ [0x88, 0xF7, 0, 2, 0, 44] ++ zeros 46), bank := 0, pass := 0, tag := 0, held := { forward := none, host := none, tc := none, flow := none }, counted := false, metered := none, orig := (zeros 12 ++ [0x88, 0xF7, 0, 2, 0, 44] ++ zeros 46), frame := 0 } : RFrame).tag ({ port := 511, stamp := 0, bytes := (zeros 12 ++ [0x88, 0xF7, 0, 2, 0, 44] ++ zeros 46), bank := 0, pass := 0, tag := 0, held := { forward := none, host := none, tc := none, flow := none }, counted := false, metered := none, orig := (zeros 12 ++ [0x88, 0xF7, 0, 2, 0, 44] ++ zeros 46), frame := 0 } : RFrame).stamp ({ port := 511, stamp := 0, bytes := (zeros 12 ++ [0x88, 0xF7, 0, 2, 0, 44] ++ zeros 46), bank := 0, pass := 0, tag := 0, held := { forward := none, host := none, tc := none, flow := none }, counted := false, metered := none, orig := (zeros 12 ++ [0x88, 0xF7, 0, 2, 0, 44] ++ zeros 46), frame := 0 } : RFrame).bytes : Parsed) = 11 ∧ (((having [(0x1202, 1, [1]), (0x1202, 4, [0]), (0x1202, 5, List.replicate 64 255#8)] { base with time := { base.time with parent := 511 }, boot := { base.boot with coresUp := true } }) : State).time.parent = 0xFFFF ∨ Config.ptpPicks ((having [(0x1202, 1, [1]), (0x1202, 4, [0]), (0x1202, 5, List.replicate 64 255#8)] { base with time := { base.time with parent := 511 }, boot := { base.boot with coresUp := true } }) : State).freeCtr = true) then ({ port := 511, stamp := 0, bytes := (zeros 12 ++ [0x88, 0xF7, 0, 2, 0, 44] ++ zeros 46), bank := 0, pass := 0, tag := 0, held := { forward := none, host := none, tc := none, flow := none }, counted := false, metered := none, orig := (zeros 12 ++ [0x88, 0xF7, 0, 2, 0, 44] ++ zeros 46), frame := 0 } : RFrame).port else ((having [(0x1202, 1, [1]), (0x1202, 4, [0]), (0x1202, 5, List.replicate 64 255#8)] { base with time := { base.time with parent := 511 }, boot := { base.boot with coresUp := true } }) : State).time.parent)), ({ port := 511, stamp := 0, bytes := (zeros 12 ++ [0x88, 0xF7, 0, 2, 0, 44] ++ zeros 46), bank := 0, pass := 0, tag := 0, held := { forward := none, host := none, tc := none, flow := none }, counted := false, metered := none, orig := (zeros 12 ++ [0x88, 0xF7, 0, 2, 0, 44] ++ zeros 46), frame := 0 }), (parseFrame ((having [(0x1202, 1, [1]), (0x1202, 4, [0]), (0x1202, 5, List.replicate 64 255#8)] { base with time := { base.time with parent := 511 }, boot := { base.boot with coresUp := true } }) : State) ({ port := 511, stamp := 0, bytes := (zeros 12 ++ [0x88, 0xF7, 0, 2, 0, 44] ++ zeros 46), bank := 0, pass := 0, tag := 0, held := { forward := none, host := none, tc := none, flow := none }, counted := false, metered := none, orig := (zeros 12 ++ [0x88, 0xF7, 0, 2, 0, 44] ++ zeros 46), frame := 0 } : RFrame).bank ({ port := 511, stamp := 0, bytes := (zeros 12 ++ [0x88, 0xF7, 0, 2, 0, 44] ++ zeros 46), bank := 0, pass := 0, tag := 0, held := { forward := none, host := none, tc := none, flow := none }, counted := false, metered := none, orig := (zeros 12 ++ [0x88, 0xF7, 0, 2, 0, 44] ++ zeros 46), frame := 0 } : RFrame).port ({ port := 511, stamp := 0, bytes := (zeros 12 ++ [0x88, 0xF7, 0, 2, 0, 44] ++ zeros 46), bank := 0, pass := 0, tag := 0, held := { forward := none, host := none, tc := none, flow := none }, counted := false, metered := none, orig := (zeros 12 ++ [0x88, 0xF7, 0, 2, 0, 44] ++ zeros 46), frame := 0 } : RFrame).pass ({ port := 511, stamp := 0, bytes := (zeros 12 ++ [0x88, 0xF7, 0, 2, 0, 44] ++ zeros 46), bank := 0, pass := 0, tag := 0, held := { forward := none, host := none, tc := none, flow := none }, counted := false, metered := none, orig := (zeros 12 ++ [0x88, 0xF7, 0, 2, 0, 44] ++ zeros 46), frame := 0 } : RFrame).tag ({ port := 511, stamp := 0, bytes := (zeros 12 ++ [0x88, 0xF7, 0, 2, 0, 44] ++ zeros 46), bank := 0, pass := 0, tag := 0, held := { forward := none, host := none, tc := none, flow := none }, counted := false, metered := none, orig := (zeros 12 ++ [0x88, 0xF7, 0, 2, 0, 44] ++ zeros 46), frame := 0 } : RFrame).stamp ({ port := 511, stamp := 0, bytes := (zeros 12 ++ [0x88, 0xF7, 0, 2, 0, 44] ++ zeros 46), bank := 0, pass := 0, tag := 0, held := { forward := none, host := none, tc := none, flow := none }, counted := false, metered := none, orig := (zeros 12 ++ [0x88, 0xF7, 0, 2, 0, 44] ++ zeros 46), frame := 0 } : RFrame).bytes), ((having [(0x1202, 1, [1]), (0x1202, 4, [0]), (0x1202, 5, List.replicate 64 255#8)] { base with time := { base.time with parent := 511 }, boot := { base.boot with coresUp := true } })), by decide +kernel⟩,
   ⟨((if ptpType (parseFrame ((having [(0x1202, 1, [1]), (0x1202, 4, [0]), (0x1202, 5, List.replicate 64 255#8)] { base with time := { base.time with parent := 5 }, boot := { base.boot with coresUp := true } }) : State) ({ port := 511, stamp := 0, bytes := (zeros 12 ++ [0x88, 0xF7, 0, 2, 0, 44] ++ zeros 46), bank := 0, pass := 0, tag := 0, held := { forward := none, host := none, tc := none, flow := none }, counted := false, metered := none, orig := (zeros 12 ++ [0x88, 0xF7, 0, 2, 0, 44] ++ zeros 46), frame := 0 } : RFrame).bank ({ port := 511, stamp := 0, bytes := (zeros 12 ++ [0x88, 0xF7, 0, 2, 0, 44] ++ zeros 46), bank := 0, pass := 0, tag := 0, held := { forward := none, host := none, tc := none, flow := none }, counted := false, metered := none, orig := (zeros 12 ++ [0x88, 0xF7, 0, 2, 0, 44] ++ zeros 46), frame := 0 } : RFrame).port ({ port := 511, stamp := 0, bytes := (zeros 12 ++ [0x88, 0xF7, 0, 2, 0, 44] ++ zeros 46), bank := 0, pass := 0, tag := 0, held := { forward := none, host := none, tc := none, flow := none }, counted := false, metered := none, orig := (zeros 12 ++ [0x88, 0xF7, 0, 2, 0, 44] ++ zeros 46), frame := 0 } : RFrame).pass ({ port := 511, stamp := 0, bytes := (zeros 12 ++ [0x88, 0xF7, 0, 2, 0, 44] ++ zeros 46), bank := 0, pass := 0, tag := 0, held := { forward := none, host := none, tc := none, flow := none }, counted := false, metered := none, orig := (zeros 12 ++ [0x88, 0xF7, 0, 2, 0, 44] ++ zeros 46), frame := 0 } : RFrame).tag ({ port := 511, stamp := 0, bytes := (zeros 12 ++ [0x88, 0xF7, 0, 2, 0, 44] ++ zeros 46), bank := 0, pass := 0, tag := 0, held := { forward := none, host := none, tc := none, flow := none }, counted := false, metered := none, orig := (zeros 12 ++ [0x88, 0xF7, 0, 2, 0, 44] ++ zeros 46), frame := 0 } : RFrame).stamp ({ port := 511, stamp := 0, bytes := (zeros 12 ++ [0x88, 0xF7, 0, 2, 0, 44] ++ zeros 46), bank := 0, pass := 0, tag := 0, held := { forward := none, host := none, tc := none, flow := none }, counted := false, metered := none, orig := (zeros 12 ++ [0x88, 0xF7, 0, 2, 0, 44] ++ zeros 46), frame := 0 } : RFrame).bytes : Parsed) = 11 ∧ (((having [(0x1202, 1, [1]), (0x1202, 4, [0]), (0x1202, 5, List.replicate 64 255#8)] { base with time := { base.time with parent := 5 }, boot := { base.boot with coresUp := true } }) : State).time.parent = 0xFFFF ∨ Config.ptpPicks ((having [(0x1202, 1, [1]), (0x1202, 4, [0]), (0x1202, 5, List.replicate 64 255#8)] { base with time := { base.time with parent := 5 }, boot := { base.boot with coresUp := true } }) : State).freeCtr = true) then ({ port := 511, stamp := 0, bytes := (zeros 12 ++ [0x88, 0xF7, 0, 2, 0, 44] ++ zeros 46), bank := 0, pass := 0, tag := 0, held := { forward := none, host := none, tc := none, flow := none }, counted := false, metered := none, orig := (zeros 12 ++ [0x88, 0xF7, 0, 2, 0, 44] ++ zeros 46), frame := 0 } : RFrame).port else ((having [(0x1202, 1, [1]), (0x1202, 4, [0]), (0x1202, 5, List.replicate 64 255#8)] { base with time := { base.time with parent := 5 }, boot := { base.boot with coresUp := true } }) : State).time.parent)), ({ port := 511, stamp := 0, bytes := (zeros 12 ++ [0x88, 0xF7, 0, 2, 0, 44] ++ zeros 46), bank := 0, pass := 0, tag := 0, held := { forward := none, host := none, tc := none, flow := none }, counted := false, metered := none, orig := (zeros 12 ++ [0x88, 0xF7, 0, 2, 0, 44] ++ zeros 46), frame := 0 }), (parseFrame ((having [(0x1202, 1, [1]), (0x1202, 4, [0]), (0x1202, 5, List.replicate 64 255#8)] { base with time := { base.time with parent := 5 }, boot := { base.boot with coresUp := true } }) : State) ({ port := 511, stamp := 0, bytes := (zeros 12 ++ [0x88, 0xF7, 0, 2, 0, 44] ++ zeros 46), bank := 0, pass := 0, tag := 0, held := { forward := none, host := none, tc := none, flow := none }, counted := false, metered := none, orig := (zeros 12 ++ [0x88, 0xF7, 0, 2, 0, 44] ++ zeros 46), frame := 0 } : RFrame).bank ({ port := 511, stamp := 0, bytes := (zeros 12 ++ [0x88, 0xF7, 0, 2, 0, 44] ++ zeros 46), bank := 0, pass := 0, tag := 0, held := { forward := none, host := none, tc := none, flow := none }, counted := false, metered := none, orig := (zeros 12 ++ [0x88, 0xF7, 0, 2, 0, 44] ++ zeros 46), frame := 0 } : RFrame).port ({ port := 511, stamp := 0, bytes := (zeros 12 ++ [0x88, 0xF7, 0, 2, 0, 44] ++ zeros 46), bank := 0, pass := 0, tag := 0, held := { forward := none, host := none, tc := none, flow := none }, counted := false, metered := none, orig := (zeros 12 ++ [0x88, 0xF7, 0, 2, 0, 44] ++ zeros 46), frame := 0 } : RFrame).pass ({ port := 511, stamp := 0, bytes := (zeros 12 ++ [0x88, 0xF7, 0, 2, 0, 44] ++ zeros 46), bank := 0, pass := 0, tag := 0, held := { forward := none, host := none, tc := none, flow := none }, counted := false, metered := none, orig := (zeros 12 ++ [0x88, 0xF7, 0, 2, 0, 44] ++ zeros 46), frame := 0 } : RFrame).tag ({ port := 511, stamp := 0, bytes := (zeros 12 ++ [0x88, 0xF7, 0, 2, 0, 44] ++ zeros 46), bank := 0, pass := 0, tag := 0, held := { forward := none, host := none, tc := none, flow := none }, counted := false, metered := none, orig := (zeros 12 ++ [0x88, 0xF7, 0, 2, 0, 44] ++ zeros 46), frame := 0 } : RFrame).stamp ({ port := 511, stamp := 0, bytes := (zeros 12 ++ [0x88, 0xF7, 0, 2, 0, 44] ++ zeros 46), bank := 0, pass := 0, tag := 0, held := { forward := none, host := none, tc := none, flow := none }, counted := false, metered := none, orig := (zeros 12 ++ [0x88, 0xF7, 0, 2, 0, 44] ++ zeros 46), frame := 0 } : RFrame).bytes), ((having [(0x1202, 1, [1]), (0x1202, 4, [0]), (0x1202, 5, List.replicate 64 255#8)] { base with time := { base.time with parent := 5 }, boot := { base.boot with coresUp := true } })), by decide +kernel⟩,
   ⟨((if ptpType (parseFrame ((having [(0x1202, 1, [1]), (0x1202, 4, [0]), (0x1202, 5, List.replicate 64 255#8)] { base with time := { base.time with parent := 511 }, boot := { base.boot with coresUp := true } }) : State) ({ port := 511, stamp := 0, bytes := (zeros 12 ++ [0x88, 0xF7, 0, 2, 0, 44] ++ zeros 46), bank := 0, pass := 0, tag := 0, held := { forward := none, host := none, tc := none, flow := none }, counted := false, metered := none, orig := (zeros 12 ++ [0x88, 0xF7, 0, 2, 0, 44] ++ zeros 46), frame := 0 } : RFrame).bank ({ port := 511, stamp := 0, bytes := (zeros 12 ++ [0x88, 0xF7, 0, 2, 0, 44] ++ zeros 46), bank := 0, pass := 0, tag := 0, held := { forward := none, host := none, tc := none, flow := none }, counted := false, metered := none, orig := (zeros 12 ++ [0x88, 0xF7, 0, 2, 0, 44] ++ zeros 46), frame := 0 } : RFrame).port ({ port := 511, stamp := 0, bytes := (zeros 12 ++ [0x88, 0xF7, 0, 2, 0, 44] ++ zeros 46), bank := 0, pass := 0, tag := 0, held := { forward := none, host := none, tc := none, flow := none }, counted := false, metered := none, orig := (zeros 12 ++ [0x88, 0xF7, 0, 2, 0, 44] ++ zeros 46), frame := 0 } : RFrame).pass ({ port := 511, stamp := 0, bytes := (zeros 12 ++ [0x88, 0xF7, 0, 2, 0, 44] ++ zeros 46), bank := 0, pass := 0, tag := 0, held := { forward := none, host := none, tc := none, flow := none }, counted := false, metered := none, orig := (zeros 12 ++ [0x88, 0xF7, 0, 2, 0, 44] ++ zeros 46), frame := 0 } : RFrame).tag ({ port := 511, stamp := 0, bytes := (zeros 12 ++ [0x88, 0xF7, 0, 2, 0, 44] ++ zeros 46), bank := 0, pass := 0, tag := 0, held := { forward := none, host := none, tc := none, flow := none }, counted := false, metered := none, orig := (zeros 12 ++ [0x88, 0xF7, 0, 2, 0, 44] ++ zeros 46), frame := 0 } : RFrame).stamp ({ port := 511, stamp := 0, bytes := (zeros 12 ++ [0x88, 0xF7, 0, 2, 0, 44] ++ zeros 46), bank := 0, pass := 0, tag := 0, held := { forward := none, host := none, tc := none, flow := none }, counted := false, metered := none, orig := (zeros 12 ++ [0x88, 0xF7, 0, 2, 0, 44] ++ zeros 46), frame := 0 } : RFrame).bytes : Parsed) = 11 ∧ (((having [(0x1202, 1, [1]), (0x1202, 4, [0]), (0x1202, 5, List.replicate 64 255#8)] { base with time := { base.time with parent := 511 }, boot := { base.boot with coresUp := true } }) : State).time.parent = 0xFFFF ∨ Config.ptpPicks ((having [(0x1202, 1, [1]), (0x1202, 4, [0]), (0x1202, 5, List.replicate 64 255#8)] { base with time := { base.time with parent := 511 }, boot := { base.boot with coresUp := true } }) : State).freeCtr = true) then ({ port := 511, stamp := 0, bytes := (zeros 12 ++ [0x88, 0xF7, 0, 2, 0, 44] ++ zeros 46), bank := 0, pass := 0, tag := 0, held := { forward := none, host := none, tc := none, flow := none }, counted := false, metered := none, orig := (zeros 12 ++ [0x88, 0xF7, 0, 2, 0, 44] ++ zeros 46), frame := 0 } : RFrame).port else ((having [(0x1202, 1, [1]), (0x1202, 4, [0]), (0x1202, 5, List.replicate 64 255#8)] { base with time := { base.time with parent := 511 }, boot := { base.boot with coresUp := true } }) : State).time.parent)), ({ port := 511, stamp := 0, bytes := (zeros 12 ++ [0x88, 0xF7, 0, 2, 0, 44] ++ zeros 46), bank := 0, pass := 0, tag := 0, held := { forward := none, host := none, tc := none, flow := none }, counted := false, metered := none, orig := (zeros 12 ++ [0x88, 0xF7, 0, 2, 0, 44] ++ zeros 46), frame := 0 }), (parseFrame ((having [(0x1202, 1, [1]), (0x1202, 4, [0]), (0x1202, 5, List.replicate 64 255#8)] { base with time := { base.time with parent := 511 }, boot := { base.boot with coresUp := true } }) : State) ({ port := 511, stamp := 0, bytes := (zeros 12 ++ [0x88, 0xF7, 0, 2, 0, 44] ++ zeros 46), bank := 0, pass := 0, tag := 0, held := { forward := none, host := none, tc := none, flow := none }, counted := false, metered := none, orig := (zeros 12 ++ [0x88, 0xF7, 0, 2, 0, 44] ++ zeros 46), frame := 0 } : RFrame).bank ({ port := 511, stamp := 0, bytes := (zeros 12 ++ [0x88, 0xF7, 0, 2, 0, 44] ++ zeros 46), bank := 0, pass := 0, tag := 0, held := { forward := none, host := none, tc := none, flow := none }, counted := false, metered := none, orig := (zeros 12 ++ [0x88, 0xF7, 0, 2, 0, 44] ++ zeros 46), frame := 0 } : RFrame).port ({ port := 511, stamp := 0, bytes := (zeros 12 ++ [0x88, 0xF7, 0, 2, 0, 44] ++ zeros 46), bank := 0, pass := 0, tag := 0, held := { forward := none, host := none, tc := none, flow := none }, counted := false, metered := none, orig := (zeros 12 ++ [0x88, 0xF7, 0, 2, 0, 44] ++ zeros 46), frame := 0 } : RFrame).pass ({ port := 511, stamp := 0, bytes := (zeros 12 ++ [0x88, 0xF7, 0, 2, 0, 44] ++ zeros 46), bank := 0, pass := 0, tag := 0, held := { forward := none, host := none, tc := none, flow := none }, counted := false, metered := none, orig := (zeros 12 ++ [0x88, 0xF7, 0, 2, 0, 44] ++ zeros 46), frame := 0 } : RFrame).tag ({ port := 511, stamp := 0, bytes := (zeros 12 ++ [0x88, 0xF7, 0, 2, 0, 44] ++ zeros 46), bank := 0, pass := 0, tag := 0, held := { forward := none, host := none, tc := none, flow := none }, counted := false, metered := none, orig := (zeros 12 ++ [0x88, 0xF7, 0, 2, 0, 44] ++ zeros 46), frame := 0 } : RFrame).stamp ({ port := 511, stamp := 0, bytes := (zeros 12 ++ [0x88, 0xF7, 0, 2, 0, 44] ++ zeros 46), bank := 0, pass := 0, tag := 0, held := { forward := none, host := none, tc := none, flow := none }, counted := false, metered := none, orig := (zeros 12 ++ [0x88, 0xF7, 0, 2, 0, 44] ++ zeros 46), frame := 0 } : RFrame).bytes), ((having [(0x1202, 1, [1]), (0x1202, 4, [0]), (0x1202, 5, List.replicate 64 255#8)] { base with time := { base.time with parent := 511 }, boot := { base.boot with coresUp := true } })), by decide +kernel⟩,
   ⟨((if ptpType (parseFrame ((having [(0x1202, 1, [1]), (0x1202, 4, [0]), (0x1202, 5, List.replicate 64 255#8)] { base with time := { base.time with parent := 511 }, boot := { base.boot with coresUp := true } }) : State) ({ port := 511, stamp := 0, bytes := (zeros 12 ++ [0x88, 0xF7, 0, 2, 0, 44] ++ zeros 46), bank := 0, pass := 0, tag := 0, held := { forward := none, host := none, tc := none, flow := none }, counted := false, metered := none, orig := (zeros 12 ++ [0x88, 0xF7, 0, 2, 0, 44] ++ zeros 46), frame := 0 } : RFrame).bank ({ port := 511, stamp := 0, bytes := (zeros 12 ++ [0x88, 0xF7, 0, 2, 0, 44] ++ zeros 46), bank := 0, pass := 0, tag := 0, held := { forward := none, host := none, tc := none, flow := none }, counted := false, metered := none, orig := (zeros 12 ++ [0x88, 0xF7, 0, 2, 0, 44] ++ zeros 46), frame := 0 } : RFrame).port ({ port := 511, stamp := 0, bytes := (zeros 12 ++ [0x88, 0xF7, 0, 2, 0, 44] ++ zeros 46), bank := 0, pass := 0, tag := 0, held := { forward := none, host := none, tc := none, flow := none }, counted := false, metered := none, orig := (zeros 12 ++ [0x88, 0xF7, 0, 2, 0, 44] ++ zeros 46), frame := 0 } : RFrame).pass ({ port := 511, stamp := 0, bytes := (zeros 12 ++ [0x88, 0xF7, 0, 2, 0, 44] ++ zeros 46), bank := 0, pass := 0, tag := 0, held := { forward := none, host := none, tc := none, flow := none }, counted := false, metered := none, orig := (zeros 12 ++ [0x88, 0xF7, 0, 2, 0, 44] ++ zeros 46), frame := 0 } : RFrame).tag ({ port := 511, stamp := 0, bytes := (zeros 12 ++ [0x88, 0xF7, 0, 2, 0, 44] ++ zeros 46), bank := 0, pass := 0, tag := 0, held := { forward := none, host := none, tc := none, flow := none }, counted := false, metered := none, orig := (zeros 12 ++ [0x88, 0xF7, 0, 2, 0, 44] ++ zeros 46), frame := 0 } : RFrame).stamp ({ port := 511, stamp := 0, bytes := (zeros 12 ++ [0x88, 0xF7, 0, 2, 0, 44] ++ zeros 46), bank := 0, pass := 0, tag := 0, held := { forward := none, host := none, tc := none, flow := none }, counted := false, metered := none, orig := (zeros 12 ++ [0x88, 0xF7, 0, 2, 0, 44] ++ zeros 46), frame := 0 } : RFrame).bytes : Parsed) = 11 ∧ (((having [(0x1202, 1, [1]), (0x1202, 4, [0]), (0x1202, 5, List.replicate 64 255#8)] { base with time := { base.time with parent := 511 }, boot := { base.boot with coresUp := true } }) : State).time.parent = 0xFFFF ∨ Config.ptpPicks ((having [(0x1202, 1, [1]), (0x1202, 4, [0]), (0x1202, 5, List.replicate 64 255#8)] { base with time := { base.time with parent := 511 }, boot := { base.boot with coresUp := true } }) : State).freeCtr = true) then ({ port := 511, stamp := 0, bytes := (zeros 12 ++ [0x88, 0xF7, 0, 2, 0, 44] ++ zeros 46), bank := 0, pass := 0, tag := 0, held := { forward := none, host := none, tc := none, flow := none }, counted := false, metered := none, orig := (zeros 12 ++ [0x88, 0xF7, 0, 2, 0, 44] ++ zeros 46), frame := 0 } : RFrame).port else ((having [(0x1202, 1, [1]), (0x1202, 4, [0]), (0x1202, 5, List.replicate 64 255#8)] { base with time := { base.time with parent := 511 }, boot := { base.boot with coresUp := true } }) : State).time.parent)), ({ port := 511, stamp := 0, bytes := (zeros 12 ++ [0x88, 0xF7, 0, 2, 0, 44] ++ zeros 46), bank := 0, pass := 0, tag := 0, held := { forward := none, host := none, tc := none, flow := none }, counted := false, metered := none, orig := (zeros 12 ++ [0x88, 0xF7, 0, 2, 0, 44] ++ zeros 46), frame := 0 }), (parseFrame ((having [(0x1202, 1, [1]), (0x1202, 4, [0]), (0x1202, 5, List.replicate 64 255#8)] { base with time := { base.time with parent := 511 }, boot := { base.boot with coresUp := true } }) : State) ({ port := 511, stamp := 0, bytes := (zeros 12 ++ [0x88, 0xF7, 0, 2, 0, 44] ++ zeros 46), bank := 0, pass := 0, tag := 0, held := { forward := none, host := none, tc := none, flow := none }, counted := false, metered := none, orig := (zeros 12 ++ [0x88, 0xF7, 0, 2, 0, 44] ++ zeros 46), frame := 0 } : RFrame).bank ({ port := 511, stamp := 0, bytes := (zeros 12 ++ [0x88, 0xF7, 0, 2, 0, 44] ++ zeros 46), bank := 0, pass := 0, tag := 0, held := { forward := none, host := none, tc := none, flow := none }, counted := false, metered := none, orig := (zeros 12 ++ [0x88, 0xF7, 0, 2, 0, 44] ++ zeros 46), frame := 0 } : RFrame).port ({ port := 511, stamp := 0, bytes := (zeros 12 ++ [0x88, 0xF7, 0, 2, 0, 44] ++ zeros 46), bank := 0, pass := 0, tag := 0, held := { forward := none, host := none, tc := none, flow := none }, counted := false, metered := none, orig := (zeros 12 ++ [0x88, 0xF7, 0, 2, 0, 44] ++ zeros 46), frame := 0 } : RFrame).pass ({ port := 511, stamp := 0, bytes := (zeros 12 ++ [0x88, 0xF7, 0, 2, 0, 44] ++ zeros 46), bank := 0, pass := 0, tag := 0, held := { forward := none, host := none, tc := none, flow := none }, counted := false, metered := none, orig := (zeros 12 ++ [0x88, 0xF7, 0, 2, 0, 44] ++ zeros 46), frame := 0 } : RFrame).tag ({ port := 511, stamp := 0, bytes := (zeros 12 ++ [0x88, 0xF7, 0, 2, 0, 44] ++ zeros 46), bank := 0, pass := 0, tag := 0, held := { forward := none, host := none, tc := none, flow := none }, counted := false, metered := none, orig := (zeros 12 ++ [0x88, 0xF7, 0, 2, 0, 44] ++ zeros 46), frame := 0 } : RFrame).stamp ({ port := 511, stamp := 0, bytes := (zeros 12 ++ [0x88, 0xF7, 0, 2, 0, 44] ++ zeros 46), bank := 0, pass := 0, tag := 0, held := { forward := none, host := none, tc := none, flow := none }, counted := false, metered := none, orig := (zeros 12 ++ [0x88, 0xF7, 0, 2, 0, 44] ++ zeros 46), frame := 0 } : RFrame).bytes), ((having [(0x1202, 1, [1]), (0x1202, 4, [0]), (0x1202, 5, List.replicate 64 255#8)] { base with time := { base.time with parent := 511 }, boot := { base.boot with coresUp := true } })), by decide +kernel⟩⟩

/-- Further clauses of `Obligations.FrameReceipt`. -/
theorem test_FrameReceipt_met_4 :
    (∃ par : Nat, ∃ f : RFrame, ∃ x : Parsed, ∃ s : State, x = parseFrame s f.bank f.port f.pass f.tag f.stamp f.bytes ∧ x.fin = none ∧ fdpTaken s f.port x f.bytes = false ∧ (ptpAt x).isSome = true ∧ ptpMine s f.port x = true ∧ ptpThrough s f.port x = false ∧ s.boot.coresUp = true ∧ (timeSource s ≠ 1 ∨ s.time.state = tsLOCKED ∨ s.time.state = tsHOLDOVER) ∧ (par = (if ptpType x = 11 ∧ (s.time.parent = 0xFFFF ∨ Config.ptpPicks s.freeCtr = true) then f.port else s.time.parent)) ∧ par = f.port ∧ (ptpType x = 0 ∨ ptpType x = 11))
    ∧ (∃ par : Nat, ∃ f : RFrame, ∃ x : Parsed, ∃ s : State, x = parseFrame s f.bank f.port f.pass f.tag f.stamp f.bytes ∧ x.fin = none ∧ fdpTaken s f.port x f.bytes = false ∧ (ptpAt x).isSome = true ∧ ptpMine s f.port x = true ∧ ptpThrough s f.port x = false ∧ s.boot.coresUp = true ∧ (timeSource s ≠ 1 ∨ s.time.state = tsLOCKED ∨ s.time.state = tsHOLDOVER) ∧ (par = (if ptpType x = 11 ∧ (s.time.parent = 0xFFFF ∨ Config.ptpPicks s.freeCtr = true) then f.port else s.time.parent)) ∧ par = f.port ∧ (ptpType x = 0 ∨ ptpType x = 11) ∧ timeSource s = 1)
    ∧ (∃ f : RFrame, ∃ x : Parsed, ∃ s : State, x = parseFrame s f.bank f.port f.pass f.tag f.stamp f.bytes ∧ x.fin = none ∧ fdpTaken s f.port x f.bytes = false ∧ x.flags.testBit fDepth = false ∧ (ptpAt x).isSome = true ∧ ptpThrough s f.port x = true)
    ∧ (∃ t : Nat, ∃ pipe : Nat, ∃ s : State, ∃ f, ∃ rest, ∃ z, recircOf s pipe = f :: rest ∧ (pipeUse (advance t s) pipe).recirc + pipeClocks f.bytes ≤ 64 ∧ (z = onePass t f (modCls (fun c => { c with recirc := Tab.set [] c.recirc pipe rest }) (setPipeUse pipe { pipeUse (advance t s) pipe with recirc := (pipeUse (advance t s) pipe).recirc + pipeClocks f.bytes } (advance t s)))))
    ∧ (∃ t : Nat, ∃ pipe : Nat, ∃ s : State, (recircOf s pipe = [] ∨ (∃ f rest, recircOf s pipe = f :: rest ∧ 64 < (pipeUse (advance t s) pipe).recirc + pipeClocks f.bytes))) :=
  ⟨⟨((if ptpType (parseFrame ((having [(0x1202, 1, [1]), (0x1202, 4, [0]), (0x1202, 5, List.replicate 64 255#8)] { base with time := { base.time with parent := 511 }, boot := { base.boot with coresUp := true } }) : State) ({ port := 511, stamp := 0, bytes := (zeros 12 ++ [0x88, 0xF7, 0, 2, 0, 44] ++ zeros 46), bank := 0, pass := 0, tag := 0, held := { forward := none, host := none, tc := none, flow := none }, counted := false, metered := none, orig := (zeros 12 ++ [0x88, 0xF7, 0, 2, 0, 44] ++ zeros 46), frame := 0 } : RFrame).bank ({ port := 511, stamp := 0, bytes := (zeros 12 ++ [0x88, 0xF7, 0, 2, 0, 44] ++ zeros 46), bank := 0, pass := 0, tag := 0, held := { forward := none, host := none, tc := none, flow := none }, counted := false, metered := none, orig := (zeros 12 ++ [0x88, 0xF7, 0, 2, 0, 44] ++ zeros 46), frame := 0 } : RFrame).port ({ port := 511, stamp := 0, bytes := (zeros 12 ++ [0x88, 0xF7, 0, 2, 0, 44] ++ zeros 46), bank := 0, pass := 0, tag := 0, held := { forward := none, host := none, tc := none, flow := none }, counted := false, metered := none, orig := (zeros 12 ++ [0x88, 0xF7, 0, 2, 0, 44] ++ zeros 46), frame := 0 } : RFrame).pass ({ port := 511, stamp := 0, bytes := (zeros 12 ++ [0x88, 0xF7, 0, 2, 0, 44] ++ zeros 46), bank := 0, pass := 0, tag := 0, held := { forward := none, host := none, tc := none, flow := none }, counted := false, metered := none, orig := (zeros 12 ++ [0x88, 0xF7, 0, 2, 0, 44] ++ zeros 46), frame := 0 } : RFrame).tag ({ port := 511, stamp := 0, bytes := (zeros 12 ++ [0x88, 0xF7, 0, 2, 0, 44] ++ zeros 46), bank := 0, pass := 0, tag := 0, held := { forward := none, host := none, tc := none, flow := none }, counted := false, metered := none, orig := (zeros 12 ++ [0x88, 0xF7, 0, 2, 0, 44] ++ zeros 46), frame := 0 } : RFrame).stamp ({ port := 511, stamp := 0, bytes := (zeros 12 ++ [0x88, 0xF7, 0, 2, 0, 44] ++ zeros 46), bank := 0, pass := 0, tag := 0, held := { forward := none, host := none, tc := none, flow := none }, counted := false, metered := none, orig := (zeros 12 ++ [0x88, 0xF7, 0, 2, 0, 44] ++ zeros 46), frame := 0 } : RFrame).bytes : Parsed) = 11 ∧ (((having [(0x1202, 1, [1]), (0x1202, 4, [0]), (0x1202, 5, List.replicate 64 255#8)] { base with time := { base.time with parent := 511 }, boot := { base.boot with coresUp := true } }) : State).time.parent = 0xFFFF ∨ Config.ptpPicks ((having [(0x1202, 1, [1]), (0x1202, 4, [0]), (0x1202, 5, List.replicate 64 255#8)] { base with time := { base.time with parent := 511 }, boot := { base.boot with coresUp := true } }) : State).freeCtr = true) then ({ port := 511, stamp := 0, bytes := (zeros 12 ++ [0x88, 0xF7, 0, 2, 0, 44] ++ zeros 46), bank := 0, pass := 0, tag := 0, held := { forward := none, host := none, tc := none, flow := none }, counted := false, metered := none, orig := (zeros 12 ++ [0x88, 0xF7, 0, 2, 0, 44] ++ zeros 46), frame := 0 } : RFrame).port else ((having [(0x1202, 1, [1]), (0x1202, 4, [0]), (0x1202, 5, List.replicate 64 255#8)] { base with time := { base.time with parent := 511 }, boot := { base.boot with coresUp := true } }) : State).time.parent)), ({ port := 511, stamp := 0, bytes := (zeros 12 ++ [0x88, 0xF7, 0, 2, 0, 44] ++ zeros 46), bank := 0, pass := 0, tag := 0, held := { forward := none, host := none, tc := none, flow := none }, counted := false, metered := none, orig := (zeros 12 ++ [0x88, 0xF7, 0, 2, 0, 44] ++ zeros 46), frame := 0 }), (parseFrame ((having [(0x1202, 1, [1]), (0x1202, 4, [0]), (0x1202, 5, List.replicate 64 255#8)] { base with time := { base.time with parent := 511 }, boot := { base.boot with coresUp := true } }) : State) ({ port := 511, stamp := 0, bytes := (zeros 12 ++ [0x88, 0xF7, 0, 2, 0, 44] ++ zeros 46), bank := 0, pass := 0, tag := 0, held := { forward := none, host := none, tc := none, flow := none }, counted := false, metered := none, orig := (zeros 12 ++ [0x88, 0xF7, 0, 2, 0, 44] ++ zeros 46), frame := 0 } : RFrame).bank ({ port := 511, stamp := 0, bytes := (zeros 12 ++ [0x88, 0xF7, 0, 2, 0, 44] ++ zeros 46), bank := 0, pass := 0, tag := 0, held := { forward := none, host := none, tc := none, flow := none }, counted := false, metered := none, orig := (zeros 12 ++ [0x88, 0xF7, 0, 2, 0, 44] ++ zeros 46), frame := 0 } : RFrame).port ({ port := 511, stamp := 0, bytes := (zeros 12 ++ [0x88, 0xF7, 0, 2, 0, 44] ++ zeros 46), bank := 0, pass := 0, tag := 0, held := { forward := none, host := none, tc := none, flow := none }, counted := false, metered := none, orig := (zeros 12 ++ [0x88, 0xF7, 0, 2, 0, 44] ++ zeros 46), frame := 0 } : RFrame).pass ({ port := 511, stamp := 0, bytes := (zeros 12 ++ [0x88, 0xF7, 0, 2, 0, 44] ++ zeros 46), bank := 0, pass := 0, tag := 0, held := { forward := none, host := none, tc := none, flow := none }, counted := false, metered := none, orig := (zeros 12 ++ [0x88, 0xF7, 0, 2, 0, 44] ++ zeros 46), frame := 0 } : RFrame).tag ({ port := 511, stamp := 0, bytes := (zeros 12 ++ [0x88, 0xF7, 0, 2, 0, 44] ++ zeros 46), bank := 0, pass := 0, tag := 0, held := { forward := none, host := none, tc := none, flow := none }, counted := false, metered := none, orig := (zeros 12 ++ [0x88, 0xF7, 0, 2, 0, 44] ++ zeros 46), frame := 0 } : RFrame).stamp ({ port := 511, stamp := 0, bytes := (zeros 12 ++ [0x88, 0xF7, 0, 2, 0, 44] ++ zeros 46), bank := 0, pass := 0, tag := 0, held := { forward := none, host := none, tc := none, flow := none }, counted := false, metered := none, orig := (zeros 12 ++ [0x88, 0xF7, 0, 2, 0, 44] ++ zeros 46), frame := 0 } : RFrame).bytes), ((having [(0x1202, 1, [1]), (0x1202, 4, [0]), (0x1202, 5, List.replicate 64 255#8)] { base with time := { base.time with parent := 511 }, boot := { base.boot with coresUp := true } })), by decide +kernel⟩,
   ⟨((if ptpType (parseFrame ((having [(0x1202, 1, [1]), (0x1202, 4, [0]), (0x1202, 5, List.replicate 64 255#8), (0x1201, 0, [1])] { base with time := { base.time with parent := 511, state := 2 }, boot := { base.boot with coresUp := true } }) : State) ({ port := 511, stamp := 0, bytes := (zeros 12 ++ [0x88, 0xF7, 0, 2, 0, 44] ++ zeros 46), bank := 0, pass := 0, tag := 0, held := { forward := none, host := none, tc := none, flow := none }, counted := false, metered := none, orig := (zeros 12 ++ [0x88, 0xF7, 0, 2, 0, 44] ++ zeros 46), frame := 0 } : RFrame).bank ({ port := 511, stamp := 0, bytes := (zeros 12 ++ [0x88, 0xF7, 0, 2, 0, 44] ++ zeros 46), bank := 0, pass := 0, tag := 0, held := { forward := none, host := none, tc := none, flow := none }, counted := false, metered := none, orig := (zeros 12 ++ [0x88, 0xF7, 0, 2, 0, 44] ++ zeros 46), frame := 0 } : RFrame).port ({ port := 511, stamp := 0, bytes := (zeros 12 ++ [0x88, 0xF7, 0, 2, 0, 44] ++ zeros 46), bank := 0, pass := 0, tag := 0, held := { forward := none, host := none, tc := none, flow := none }, counted := false, metered := none, orig := (zeros 12 ++ [0x88, 0xF7, 0, 2, 0, 44] ++ zeros 46), frame := 0 } : RFrame).pass ({ port := 511, stamp := 0, bytes := (zeros 12 ++ [0x88, 0xF7, 0, 2, 0, 44] ++ zeros 46), bank := 0, pass := 0, tag := 0, held := { forward := none, host := none, tc := none, flow := none }, counted := false, metered := none, orig := (zeros 12 ++ [0x88, 0xF7, 0, 2, 0, 44] ++ zeros 46), frame := 0 } : RFrame).tag ({ port := 511, stamp := 0, bytes := (zeros 12 ++ [0x88, 0xF7, 0, 2, 0, 44] ++ zeros 46), bank := 0, pass := 0, tag := 0, held := { forward := none, host := none, tc := none, flow := none }, counted := false, metered := none, orig := (zeros 12 ++ [0x88, 0xF7, 0, 2, 0, 44] ++ zeros 46), frame := 0 } : RFrame).stamp ({ port := 511, stamp := 0, bytes := (zeros 12 ++ [0x88, 0xF7, 0, 2, 0, 44] ++ zeros 46), bank := 0, pass := 0, tag := 0, held := { forward := none, host := none, tc := none, flow := none }, counted := false, metered := none, orig := (zeros 12 ++ [0x88, 0xF7, 0, 2, 0, 44] ++ zeros 46), frame := 0 } : RFrame).bytes : Parsed) = 11 ∧ (((having [(0x1202, 1, [1]), (0x1202, 4, [0]), (0x1202, 5, List.replicate 64 255#8), (0x1201, 0, [1])] { base with time := { base.time with parent := 511, state := 2 }, boot := { base.boot with coresUp := true } }) : State).time.parent = 0xFFFF ∨ Config.ptpPicks ((having [(0x1202, 1, [1]), (0x1202, 4, [0]), (0x1202, 5, List.replicate 64 255#8), (0x1201, 0, [1])] { base with time := { base.time with parent := 511, state := 2 }, boot := { base.boot with coresUp := true } }) : State).freeCtr = true) then ({ port := 511, stamp := 0, bytes := (zeros 12 ++ [0x88, 0xF7, 0, 2, 0, 44] ++ zeros 46), bank := 0, pass := 0, tag := 0, held := { forward := none, host := none, tc := none, flow := none }, counted := false, metered := none, orig := (zeros 12 ++ [0x88, 0xF7, 0, 2, 0, 44] ++ zeros 46), frame := 0 } : RFrame).port else ((having [(0x1202, 1, [1]), (0x1202, 4, [0]), (0x1202, 5, List.replicate 64 255#8), (0x1201, 0, [1])] { base with time := { base.time with parent := 511, state := 2 }, boot := { base.boot with coresUp := true } }) : State).time.parent)), ({ port := 511, stamp := 0, bytes := (zeros 12 ++ [0x88, 0xF7, 0, 2, 0, 44] ++ zeros 46), bank := 0, pass := 0, tag := 0, held := { forward := none, host := none, tc := none, flow := none }, counted := false, metered := none, orig := (zeros 12 ++ [0x88, 0xF7, 0, 2, 0, 44] ++ zeros 46), frame := 0 }), (parseFrame ((having [(0x1202, 1, [1]), (0x1202, 4, [0]), (0x1202, 5, List.replicate 64 255#8), (0x1201, 0, [1])] { base with time := { base.time with parent := 511, state := 2 }, boot := { base.boot with coresUp := true } }) : State) ({ port := 511, stamp := 0, bytes := (zeros 12 ++ [0x88, 0xF7, 0, 2, 0, 44] ++ zeros 46), bank := 0, pass := 0, tag := 0, held := { forward := none, host := none, tc := none, flow := none }, counted := false, metered := none, orig := (zeros 12 ++ [0x88, 0xF7, 0, 2, 0, 44] ++ zeros 46), frame := 0 } : RFrame).bank ({ port := 511, stamp := 0, bytes := (zeros 12 ++ [0x88, 0xF7, 0, 2, 0, 44] ++ zeros 46), bank := 0, pass := 0, tag := 0, held := { forward := none, host := none, tc := none, flow := none }, counted := false, metered := none, orig := (zeros 12 ++ [0x88, 0xF7, 0, 2, 0, 44] ++ zeros 46), frame := 0 } : RFrame).port ({ port := 511, stamp := 0, bytes := (zeros 12 ++ [0x88, 0xF7, 0, 2, 0, 44] ++ zeros 46), bank := 0, pass := 0, tag := 0, held := { forward := none, host := none, tc := none, flow := none }, counted := false, metered := none, orig := (zeros 12 ++ [0x88, 0xF7, 0, 2, 0, 44] ++ zeros 46), frame := 0 } : RFrame).pass ({ port := 511, stamp := 0, bytes := (zeros 12 ++ [0x88, 0xF7, 0, 2, 0, 44] ++ zeros 46), bank := 0, pass := 0, tag := 0, held := { forward := none, host := none, tc := none, flow := none }, counted := false, metered := none, orig := (zeros 12 ++ [0x88, 0xF7, 0, 2, 0, 44] ++ zeros 46), frame := 0 } : RFrame).tag ({ port := 511, stamp := 0, bytes := (zeros 12 ++ [0x88, 0xF7, 0, 2, 0, 44] ++ zeros 46), bank := 0, pass := 0, tag := 0, held := { forward := none, host := none, tc := none, flow := none }, counted := false, metered := none, orig := (zeros 12 ++ [0x88, 0xF7, 0, 2, 0, 44] ++ zeros 46), frame := 0 } : RFrame).stamp ({ port := 511, stamp := 0, bytes := (zeros 12 ++ [0x88, 0xF7, 0, 2, 0, 44] ++ zeros 46), bank := 0, pass := 0, tag := 0, held := { forward := none, host := none, tc := none, flow := none }, counted := false, metered := none, orig := (zeros 12 ++ [0x88, 0xF7, 0, 2, 0, 44] ++ zeros 46), frame := 0 } : RFrame).bytes), ((having [(0x1202, 1, [1]), (0x1202, 4, [0]), (0x1202, 5, List.replicate 64 255#8), (0x1201, 0, [1])] { base with time := { base.time with parent := 511, state := 2 }, boot := { base.boot with coresUp := true } })), by decide +kernel⟩,
   ⟨({ port := 511, stamp := 0, bytes := (zeros 12 ++ [0x88, 0xF7, 0, 2, 0, 44] ++ zeros 46), bank := 0, pass := 0, tag := 0, held := { forward := none, host := none, tc := none, flow := none }, counted := false, metered := none, orig := (zeros 12 ++ [0x88, 0xF7, 0, 2, 0, 44] ++ zeros 46), frame := 0 }), (parseFrame ((having [(0x1202, 1, [2]), (0x1202, 4, [0]), (0x1202, 5, List.replicate 64 255#8), (0x1202, 2, [3])] { base with time := { base.time with parent := 511 }, boot := { base.boot with coresUp := true } }) : State) ({ port := 511, stamp := 0, bytes := (zeros 12 ++ [0x88, 0xF7, 0, 2, 0, 44] ++ zeros 46), bank := 0, pass := 0, tag := 0, held := { forward := none, host := none, tc := none, flow := none }, counted := false, metered := none, orig := (zeros 12 ++ [0x88, 0xF7, 0, 2, 0, 44] ++ zeros 46), frame := 0 } : RFrame).bank ({ port := 511, stamp := 0, bytes := (zeros 12 ++ [0x88, 0xF7, 0, 2, 0, 44] ++ zeros 46), bank := 0, pass := 0, tag := 0, held := { forward := none, host := none, tc := none, flow := none }, counted := false, metered := none, orig := (zeros 12 ++ [0x88, 0xF7, 0, 2, 0, 44] ++ zeros 46), frame := 0 } : RFrame).port ({ port := 511, stamp := 0, bytes := (zeros 12 ++ [0x88, 0xF7, 0, 2, 0, 44] ++ zeros 46), bank := 0, pass := 0, tag := 0, held := { forward := none, host := none, tc := none, flow := none }, counted := false, metered := none, orig := (zeros 12 ++ [0x88, 0xF7, 0, 2, 0, 44] ++ zeros 46), frame := 0 } : RFrame).pass ({ port := 511, stamp := 0, bytes := (zeros 12 ++ [0x88, 0xF7, 0, 2, 0, 44] ++ zeros 46), bank := 0, pass := 0, tag := 0, held := { forward := none, host := none, tc := none, flow := none }, counted := false, metered := none, orig := (zeros 12 ++ [0x88, 0xF7, 0, 2, 0, 44] ++ zeros 46), frame := 0 } : RFrame).tag ({ port := 511, stamp := 0, bytes := (zeros 12 ++ [0x88, 0xF7, 0, 2, 0, 44] ++ zeros 46), bank := 0, pass := 0, tag := 0, held := { forward := none, host := none, tc := none, flow := none }, counted := false, metered := none, orig := (zeros 12 ++ [0x88, 0xF7, 0, 2, 0, 44] ++ zeros 46), frame := 0 } : RFrame).stamp ({ port := 511, stamp := 0, bytes := (zeros 12 ++ [0x88, 0xF7, 0, 2, 0, 44] ++ zeros 46), bank := 0, pass := 0, tag := 0, held := { forward := none, host := none, tc := none, flow := none }, counted := false, metered := none, orig := (zeros 12 ++ [0x88, 0xF7, 0, 2, 0, 44] ++ zeros 46), frame := 0 } : RFrame).bytes), ((having [(0x1202, 1, [2]), (0x1202, 4, [0]), (0x1202, 5, List.replicate 64 255#8), (0x1202, 2, [3])] { base with time := { base.time with parent := 511 }, boot := { base.boot with coresUp := true } })), by decide +kernel⟩,
   ⟨(0), (127), ({ base with cls := { base.cls with recirc := [(127, [{ port := 511, stamp := 0, bytes := (zeros 60), bank := 0, pass := 0, tag := 0, held := { forward := none, host := none, tc := none, flow := none }, counted := false, metered := none, orig := (zeros 60), frame := 0 }])] } }), (({ port := 511, stamp := 0, bytes := (zeros 60), bank := 0, pass := 0, tag := 0, held := { forward := none, host := none, tc := none, flow := none }, counted := false, metered := none, orig := (zeros 60), frame := 0 } : RFrame)), (([] : List RFrame)), (onePass (0) (({ port := 511, stamp := 0, bytes := (zeros 60), bank := 0, pass := 0, tag := 0, held := { forward := none, host := none, tc := none, flow := none }, counted := false, metered := none, orig := (zeros 60), frame := 0 } : RFrame)) (modCls (fun c => { c with recirc := Tab.set [] c.recirc (127) (([] : List RFrame)) }) (setPipeUse (127) { pipeUse (advance (0) ({ base with cls := { base.cls with recirc := [(127, [{ port := 511, stamp := 0, bytes := (zeros 60), bank := 0, pass := 0, tag := 0, held := { forward := none, host := none, tc := none, flow := none }, counted := false, metered := none, orig := (zeros 60), frame := 0 }])] } } : State)) (127) with recirc := (pipeUse (advance (0) ({ base with cls := { base.cls with recirc := [(127, [{ port := 511, stamp := 0, bytes := (zeros 60), bank := 0, pass := 0, tag := 0, held := { forward := none, host := none, tc := none, flow := none }, counted := false, metered := none, orig := (zeros 60), frame := 0 }])] } } : State)) (127)).recirc + pipeClocks (({ port := 511, stamp := 0, bytes := (zeros 60), bank := 0, pass := 0, tag := 0, held := { forward := none, host := none, tc := none, flow := none }, counted := false, metered := none, orig := (zeros 60), frame := 0 } : RFrame)).bytes } (advance (0) ({ base with cls := { base.cls with recirc := [(127, [{ port := 511, stamp := 0, bytes := (zeros 60), bank := 0, pass := 0, tag := 0, held := { forward := none, host := none, tc := none, flow := none }, counted := false, metered := none, orig := (zeros 60), frame := 0 }])] } } : State))))), by decide +kernel, by decide +kernel, rfl⟩,
   ⟨(0), (127), (base), .inl (by decide +kernel)⟩⟩

/-- Further clauses of `Obligations.FrameReceipt`. -/
theorem test_FrameReceipt_met_5 :
    (∃ c : Nat, ∃ f : RFrame, ∃ x : Parsed, ∃ s : State, x = parseFrame s f.bank f.port f.pass f.tag f.stamp f.bytes ∧ x.fin = some (.malformed c) ∧ cfgN s 0x2801 5 ≠ 1)
    ∧ (∃ c : Nat, ∃ f : RFrame, ∃ x : Parsed, ∃ s : State, x = parseFrame s f.bank f.port f.pass f.tag f.stamp f.bytes ∧ x.fin = some (.malformed c) ∧ cfgN s 0x2801 5 ≠ 1)
    ∧ (∃ c : Nat, ∃ f : RFrame, ∃ x : Parsed, ∃ s : State, x = parseFrame s f.bank f.port f.pass f.tag f.stamp f.bytes ∧ x.fin = some (.malformed c) ∧ cfgN s 0x2801 5 ≠ 1)
    ∧ (∃ c : Nat, ∃ f : RFrame, ∃ x : Parsed, ∃ s : State, x = parseFrame s f.bank f.port f.pass f.tag f.stamp f.bytes ∧ x.fin = some (.malformed c) ∧ cfgN s 0x2801 5 ≠ 1)
    ∧ (∃ f : RFrame, ∃ x : Parsed, ∃ s : State, x = parseFrame s f.bank f.port f.pass f.tag f.stamp f.bytes ∧ x.fin = none ∧ fdpTaken s f.port x f.bytes = false ∧ ptpAt x = none ∧ x.flags.testBit fDepth = false) :=
  ⟨⟨(2), ({ port := 511, stamp := 0, bytes := (zeros 12 ++ [8, 0] ++ zeros 50), bank := 0, pass := 0, tag := 0, held := { forward := none, host := none, tc := none, flow := none }, counted := false, metered := none, orig := (zeros 12 ++ [8, 0] ++ zeros 50), frame := 0 }), (parseFrame (base) 0 511 0 0 0 (zeros 12 ++ [8, 0] ++ zeros 50)), (base), by decide +kernel⟩,
   ⟨(2), ({ port := 511, stamp := 0, bytes := (zeros 12 ++ [8, 0] ++ zeros 50), bank := 0, pass := 0, tag := 0, held := { forward := none, host := none, tc := none, flow := none }, counted := false, metered := none, orig := (zeros 12 ++ [8, 0] ++ zeros 50), frame := 0 }), (parseFrame (base) 0 511 0 0 0 (zeros 12 ++ [8, 0] ++ zeros 50)), (base), by decide +kernel⟩,
   ⟨(2), ({ port := 511, stamp := 0, bytes := (zeros 12 ++ [8, 0] ++ zeros 50), bank := 0, pass := 0, tag := 0, held := { forward := none, host := none, tc := none, flow := none }, counted := false, metered := none, orig := (zeros 12 ++ [8, 0] ++ zeros 50), frame := 0 }), (parseFrame (base) 0 511 0 0 0 (zeros 12 ++ [8, 0] ++ zeros 50)), (base), by decide +kernel⟩,
   ⟨(2), ({ port := 511, stamp := 0, bytes := (zeros 12 ++ [8, 0] ++ zeros 50), bank := 0, pass := 0, tag := 0, held := { forward := none, host := none, tc := none, flow := none }, counted := false, metered := none, orig := (zeros 12 ++ [8, 0] ++ zeros 50), frame := 0 }), (parseFrame (base) 0 511 0 0 0 (zeros 12 ++ [8, 0] ++ zeros 50)), (base), by decide +kernel⟩,
   ⟨({ port := 511, stamp := 0, bytes := (zeros 12 ++ [0x12, 0x34] ++ zeros 50), bank := 0, pass := 0, tag := 0, held := { forward := none, host := none, tc := none, flow := none }, counted := false, metered := none, orig := (zeros 12 ++ [0x12, 0x34] ++ zeros 50), frame := 0 }), (parseFrame (base) 0 511 0 0 0 (zeros 12 ++ [0x12, 0x34] ++ zeros 50)), (base), by decide +kernel⟩⟩

/-- Further clauses of `Obligations.FrameReceipt`. -/
theorem test_FrameReceipt_met_6 :
    (∃ die : Nat, ∃ s : State, s.cls.retiring = [die] ∧ (s.cls.recirc.any (fun e => decide (e.1 / 4 = die) && e.2.any (fun f => decide (f.bank ≠ s.cls.active))) = false)) :=
  ⟨(3), ({ base with cls := { base.cls with retiring := [3] } }), by decide +kernel⟩

/-- The hypotheses of `Obligations.PassActions` are met. -/
theorem test_PassActions_met :
    (∃ a : Bytes, actHas a 0 = true ∧ actHas a 3 = false ∧ actHas a 4 = false)
    ∧ (∃ a : Bytes, actHas a 0 = true ∧ actHas a 3 = false ∧ actHas a 4 = false)
    ∧ (∃ a : Bytes, actHas a 0 = true ∧ actHas a 3 = false ∧ actHas a 4 = false)
    ∧ (∃ a : Bytes, actHas a 0 = true ∧ actHas a 3 = false ∧ actHas a 4 = false)
    ∧ (∃ a : Bytes, actHas a 0 = true ∧ actHas a 3 = false ∧ actHas a 4 = false ∧ actHas a 11 = false) :=
  ⟨⟨(([0, 1] ++ zeros 30)), by decide +kernel⟩,
   ⟨(([0, 1] ++ zeros 30)), by decide +kernel⟩,
   ⟨(([0, 1] ++ zeros 30)), by decide +kernel⟩,
   ⟨(([0, 1] ++ zeros 30)), by decide +kernel⟩,
   ⟨(([0, 1] ++ zeros 30)), by decide +kernel⟩⟩

/-- Further clauses of `Obligations.PassActions`. -/
theorem test_PassActions_met_2 :
    (∃ a : Bytes, ∃ s : State, actHas a 11 = true ∧ Tab.wf 0 s.cls.ruleFrames = true ∧ Tab.wf 0 s.cls.ruleBytes = true)
    ∧ (∃ a : Bytes, ∃ s : State, actHas a 11 = true ∧ Tab.wf 0 s.cls.ruleFrames = true ∧ Tab.wf 0 s.cls.ruleBytes = true)
    ∧ (∃ f : RFrame, ∃ a : Bytes, ∃ s : State, actHas a 13 = true ∧ actHas a 0 = false ∧ actHas a 3 = false ∧ actHas a 4 = false ∧ f.pass < 2 ∧ (recircOf s (pipeOf f.port)).length < 16)
    ∧ (∃ f : RFrame, ∃ a : Bytes, ∃ s : State, actHas a 13 = true ∧ actHas a 0 = false ∧ actHas a 3 = false ∧ actHas a 4 = false ∧ f.pass < 2 ∧ (recircOf s (pipeOf f.port)).length < 16)
    ∧ (∃ f : RFrame, ∃ a : Bytes, ∃ s : State, actHas a 13 = true ∧ actHas a 0 = false ∧ actHas a 3 = false ∧ actHas a 4 = false ∧ f.pass < 2 ∧ (recircOf s (pipeOf f.port)).length < 16) :=
  ⟨⟨(([8, 0] ++ zeros 30)), (base), by decide +kernel⟩,
   ⟨(([8, 0] ++ zeros 30)), (base), by decide +kernel⟩,
   ⟨({ port := 0, stamp := 0, bytes := (zeros 12 ++ [0x12, 0x34] ++ zeros 50), bank := 0, pass := 1, tag := 0, held := { forward := none, host := none, tc := none, flow := none }, counted := false, metered := none, orig := (zeros 12 ++ [0x12, 0x34] ++ zeros 50), frame := 0 }), (([32, 0] ++ zeros 30)), ({ base with cls := { base.cls with recirc := [(0, List.replicate 15 ({ port := 0, stamp := 0, bytes := (zeros 12 ++ [0x12, 0x34] ++ zeros 50), bank := 0, pass := 0, tag := 0, held := { forward := none, host := none, tc := none, flow := none }, counted := false, metered := none, orig := (zeros 12 ++ [0x12, 0x34] ++ zeros 50), frame := 0 }))] } }), by decide +kernel⟩,
   ⟨({ port := 0, stamp := 0, bytes := (zeros 12 ++ [0x12, 0x34] ++ zeros 50), bank := 0, pass := 1, tag := 0, held := { forward := none, host := none, tc := none, flow := none }, counted := false, metered := none, orig := (zeros 12 ++ [0x12, 0x34] ++ zeros 50), frame := 0 }), (([32, 0] ++ zeros 30)), ({ base with cls := { base.cls with recirc := [(0, List.replicate 15 ({ port := 0, stamp := 0, bytes := (zeros 12 ++ [0x12, 0x34] ++ zeros 50), bank := 0, pass := 0, tag := 0, held := { forward := none, host := none, tc := none, flow := none }, counted := false, metered := none, orig := (zeros 12 ++ [0x12, 0x34] ++ zeros 50), frame := 0 }))] } }), by decide +kernel⟩,
   ⟨({ port := 0, stamp := 0, bytes := (zeros 12 ++ [0x12, 0x34] ++ zeros 50), bank := 0, pass := 1, tag := 0, held := { forward := none, host := none, tc := none, flow := none }, counted := false, metered := none, orig := (zeros 12 ++ [0x12, 0x34] ++ zeros 50), frame := 0 }), (([32, 0] ++ zeros 30)), ({ base with cls := { base.cls with recirc := [(0, List.replicate 15 ({ port := 0, stamp := 0, bytes := (zeros 12 ++ [0x12, 0x34] ++ zeros 50), bank := 0, pass := 0, tag := 0, held := { forward := none, host := none, tc := none, flow := none }, counted := false, metered := none, orig := (zeros 12 ++ [0x12, 0x34] ++ zeros 50), frame := 0 }))] } }), by decide +kernel⟩⟩

/-- Further clauses of `Obligations.PassActions`. -/
theorem test_PassActions_met_3 :
    (∃ f : RFrame, ∃ x : Parsed, ∃ b : Bytes, ∃ s : State, x.cls ≠ 9 ∧ ((vlanAt s (vidOf s f.port b)).valid = false ∨ mapBit (vlanAt s (vidOf s f.port b)).members f.port = false))
    ∧ (∃ f : RFrame, ∃ x : Parsed, ∃ b : Bytes, ∃ s : State, x.cls ≠ 9 ∧ ((vlanAt s (vidOf s f.port b)).valid = false ∨ mapBit (vlanAt s (vidOf s f.port b)).members f.port = false))
    ∧ (∃ f : RFrame, ∃ x : Parsed, ∃ b : Bytes, ∃ s : State, x.cls ≠ 9 ∧ ((vlanAt s (vidOf s f.port b)).valid = false ∨ mapBit (vlanAt s (vidOf s f.port b)).members f.port = false))
    ∧ (∃ dest : Nat, ∃ f : RFrame, ∃ x : Parsed, ∃ b : Bytes, ∃ s : State, x.cls ≠ 9 ∧ (vlanAt s (vidOf s f.port b)).valid = true ∧ mapBit (vlanAt s (vidOf s f.port b)).members f.port = true ∧ cfgN s 0x2900 3 ≠ 1 ∧ streamOf s (dieOf f.port) (vidOf s f.port b) (beField f.bytes 0 6) (beField f.bytes 6 6) = none ∧ f.held.forward = some dest ∧ f.held.host = none ∧ f.held.flow = none ∧ dest < 512 ∧ dieOf dest = dieOf f.port ∧ (s.port dest).redirect = false)
    ∧ (∃ f : RFrame, ∃ b : Bytes, ∃ c : Option Colour, ∃ s : State, (c = some .discard ∨ (c = some .red ∧ streamOf s (dieOf f.port) (vidOf s f.port b) (beField f.bytes 0 6) (beField f.bytes 6 6) = none)) ∧ (vlanAt s (vidOf s f.port b)).valid = true ∧ mapBit (vlanAt s (vidOf s f.port b)).members f.port = true) :=
  ⟨⟨({ port := 0, stamp := 0, bytes := (zeros 12 ++ [0x12, 0x34] ++ zeros 50), bank := 0, pass := 0, tag := 0, held := { forward := none, host := none, tc := none, flow := none }, counted := false, metered := none, orig := (zeros 12 ++ [0x12, 0x34] ++ zeros 50), frame := 0 }), (parseFrame (base) 0 0 0 0 0 (zeros 12 ++ [0x12, 0x34] ++ zeros 50)), ((zeros 12 ++ [0x81, 0, 0, 2] ++ zeros 46)), (base), by decide +kernel⟩,
   ⟨({ port := 0, stamp := 0, bytes := (zeros 12 ++ [0x12, 0x34] ++ zeros 50), bank := 0, pass := 0, tag := 0, held := { forward := none, host := none, tc := none, flow := none }, counted := false, metered := none, orig := (zeros 12 ++ [0x12, 0x34] ++ zeros 50), frame := 0 }), (parseFrame (base) 0 0 0 0 0 (zeros 12 ++ [0x12, 0x34] ++ zeros 50)), ((zeros 12 ++ [0x81, 0, 0, 2] ++ zeros 46)), (base), by decide +kernel⟩,
   ⟨({ port := 0, stamp := 0, bytes := (zeros 12 ++ [0x12, 0x34] ++ zeros 50), bank := 0, pass := 0, tag := 0, held := { forward := none, host := none, tc := none, flow := none }, counted := false, metered := none, orig := (zeros 12 ++ [0x12, 0x34] ++ zeros 50), frame := 0 }), (parseFrame (base) 0 0 0 0 0 (zeros 12 ++ [0x12, 0x34] ++ zeros 50)), ((zeros 12 ++ [0x81, 0, 0, 2] ++ zeros 46)), (base), by decide +kernel⟩,
   ⟨(511), ({ port := 510, stamp := 0, bytes := (zeros 12 ++ [0x12, 0x34] ++ zeros 50), bank := 0, pass := 0, tag := 0, held := { forward := some 511, host := none, tc := none, flow := none }, counted := false, metered := none, orig := (zeros 12 ++ [0x12, 0x34] ++ zeros 50), frame := 0 }), (parseFrame (base) 0 0 0 0 0 (zeros 12 ++ [0x12, 0x34] ++ zeros 50)), ((zeros 12 ++ [0x12, 0x34] ++ zeros 50)), (having [(0x2900, 3, [0])] { base with tables := { base.tables with vlans := [(1, { Vlan.reset with valid := true, fid := 0, members := List.replicate 64 255#8 })] } }), by decide +kernel⟩,
   ⟨({ port := 0, stamp := 0, bytes := (zeros 12 ++ [0x12, 0x34] ++ zeros 50), bank := 0, pass := 0, tag := 0, held := { forward := none, host := none, tc := none, flow := none }, counted := false, metered := none, orig := (zeros 12 ++ [0x12, 0x34] ++ zeros 50), frame := 0 }), ((zeros 12 ++ [0x12, 0x34] ++ zeros 50)), (some .discard), ({ base with tables := { base.tables with vlans := [(1, { Vlan.reset with valid := true, fid := 0, members := List.replicate 64 255#8 })] } }), by decide +kernel⟩⟩

/-- Further clauses of `Obligations.PassActions`. -/
theorem test_PassActions_met_4 :
    (∃ f : RFrame, ∃ b : Bytes, ∃ c : Option Colour, ∃ s : State, (c = some .discard ∨ (c = some .red ∧ streamOf s (dieOf f.port) (vidOf s f.port b) (beField f.bytes 0 6) (beField f.bytes 6 6) = none)) ∧ (vlanAt s (vidOf s f.port b)).valid = true ∧ mapBit (vlanAt s (vidOf s f.port b)).members f.port = true)
    ∧ (∃ f : RFrame, ∃ b : Bytes, ∃ c : Option Colour, ∃ s : State, (c = some .discard ∨ (c = some .red ∧ streamOf s (dieOf f.port) (vidOf s f.port b) (beField f.bytes 0 6) (beField f.bytes 6 6) = none)) ∧ (vlanAt s (vidOf s f.port b)).valid = true ∧ mapBit (vlanAt s (vidOf s f.port b)).members f.port = true)
    ∧ (∃ die : Nat, ∃ port : Nat, ∃ i : Nat, ∃ dmac : Nat, ∃ v : Vlan, ∃ e : FdbEntry, ∃ s : State, repFind s die (fdbKey v.fid dmac) = some (i, e) ∧ e.dest = port)
    ∧ (∃ die : Nat, ∃ port : Nat, ∃ i : Nat, ∃ dmac : Nat, ∃ v : Vlan, ∃ e : FdbEntry, ∃ s : State, repFind s die (fdbKey v.fid dmac) = some (i, e) ∧ e.dest = port)
    ∧ (∃ die : Nat, ∃ port : Nat, ∃ i : Nat, ∃ dmac : Nat, ∃ v : Vlan, ∃ e : FdbEntry, ∃ s : State, repFind s die (fdbKey v.fid dmac) = some (i, e) ∧ e.dest ≠ port ∧ e.dest < 512) :=
  ⟨⟨({ port := 0, stamp := 0, bytes := (zeros 12 ++ [0x12, 0x34] ++ zeros 50), bank := 0, pass := 0, tag := 0, held := { forward := none, host := none, tc := none, flow := none }, counted := false, metered := none, orig := (zeros 12 ++ [0x12, 0x34] ++ zeros 50), frame := 0 }), ((zeros 12 ++ [0x12, 0x34] ++ zeros 50)), (some .discard), ({ base with tables := { base.tables with vlans := [(1, { Vlan.reset with valid := true, fid := 0, members := List.replicate 64 255#8 })] } }), by decide +kernel⟩,
   ⟨({ port := 0, stamp := 0, bytes := (zeros 12 ++ [0x12, 0x34] ++ zeros 50), bank := 0, pass := 0, tag := 0, held := { forward := none, host := none, tc := none, flow := none }, counted := false, metered := none, orig := (zeros 12 ++ [0x12, 0x34] ++ zeros 50), frame := 0 }), ((zeros 12 ++ [0x12, 0x34] ++ zeros 50)), (some .discard), ({ base with tables := { base.tables with vlans := [(1, { Vlan.reset with valid := true, fid := 0, members := List.replicate 64 255#8 })] } }), by decide +kernel⟩,
   ⟨(3), (511), (7), (1), ({ Vlan.reset with valid := true, fid := 0, members := List.replicate 64 255#8 }), ({ FdbEntry.reset with valid := true, fid := 0, mac := 1, dest := 511 }), ({ base with tables := { base.tables with repFdb := [(3 * fdbSize + 7, { FdbEntry.reset with valid := true, fid := 0, mac := 1, dest := 511 })] } }), by decide +kernel⟩,
   ⟨(3), (511), (7), (1), ({ Vlan.reset with valid := true, fid := 0, members := List.replicate 64 255#8 }), ({ FdbEntry.reset with valid := true, fid := 0, mac := 1, dest := 511 }), ({ base with tables := { base.tables with repFdb := [(3 * fdbSize + 7, { FdbEntry.reset with valid := true, fid := 0, mac := 1, dest := 511 })] } }), by decide +kernel⟩,
   ⟨(3), (511), (7), (1), ({ Vlan.reset with valid := true, fid := 0, members := List.replicate 64 255#8 }), ({ FdbEntry.reset with valid := true, fid := 0, mac := 1, dest := 510 }), ({ base with tables := { base.tables with repFdb := [(3 * fdbSize + 7, { FdbEntry.reset with valid := true, fid := 0, mac := 1, dest := 510 })] } }), by decide +kernel⟩⟩

/-- The hypotheses of `Obligations.FrameDeparture` are met. -/
theorem test_FrameDeparture_met :
    (∃ k : Nat, ∃ port : Nat, ∃ tc : Nat, ∃ len : Nat, ∃ p : Parcel, ∃ s : State, (s.buf.transit.find? (fun p => decide (p.ticket = k) && isNext s p) = some p) ∧ p.ports = [(port, tc, none)] ∧ p.hosts = [] ∧ p.info.src = .field ∧ (s.port port).redirect = false ∧ portUp s port = true ∧ len = (editCopy s port tc p.info p.bytes).length + 4 - tagGone s port p.info (editCopy s port tc p.info p.bytes) ∧ len ≤ maxFrameSize s port ∧ overWindow s port tc len = false ∧ ecnThreshold s port tc = 0 ∧ (admits s p.dst p.owner (cellsOf (p.bytes.length + 4))).1 = true)
    ∧ (∃ k : Nat, ∃ port : Nat, ∃ tc : Nat, ∃ p : Parcel, ∃ s : State, (s.buf.transit.find? (fun p => decide (p.ticket = k) && isNext s p) = some p) ∧ p.ports = [(port, tc, none)] ∧ p.hosts = [] ∧ p.info.src = .field ∧ (s.port port).redirect = false ∧ portUp s port = false)
    ∧ (∃ k : Nat, ∃ s : State, (s.buf.transit.find? (fun p => decide (p.ticket = k) && isNext s p) = none))
    ∧ (∃ port : Nat, ∃ b : Bytes, ∃ s : State, port < 512 ∧ (s.boot.coresUp = true ∨ (∃ m, s.dict.outbox.find? (fun m => decide (m.port = port)) = some m ∧ b.drop (b.length - m.msg.length) = m.msg)) ∧ s.boot.fieldUp = true ∧ portExists s port = true ∧ (s.psched port).inject.length < 64 ∧ portUp s port = true ∧ b.length + 4 ≤ maxFrameSize s port ∧ (admits s (dieOf port) ownerFirmware (cellsOf (b.length + 4))).1 = true)
    ∧ (∃ port : Nat, ∃ s : State, port < 512 ∧ s.boot.coresUp = true ∧ s.boot.fieldUp = true ∧ portExists s port = true ∧ 64 ≤ (s.psched port).inject.length) :=
  ⟨⟨(9), (511), (7), ((editCopy ((let s : State := having [(0x23FF, 8, zeros 32)] (((having [(0x21FF, 1, [1]), (0x21FF, 2, [1])] { base with boot := { base.boot with fieldUp := true } }).setPort 511 { Port.reset with link := .up })); { s with buf := { s.buf with transit := [{ ticket := 9, src := 0, dst := 3, bulk := false, owner := 0, info := { inPort := 0, stamp := 0, hash := 0, cls := 0, rxFlags := 0, reason := 0, vid := 1, tc := 0, yellow := false, stream := none, seqNo := none, group := 0, src := .field, edit := false, ptpOther := false, frame := 0 }, bytes := zeros 60, ports := [(511, 7, none)], hosts := [] }] } }) : State) (511) (7) ({ ticket := 9, src := 0, dst := 3, bulk := false, owner := 0, info := { inPort := 0, stamp := 0, hash := 0, cls := 0, rxFlags := 0, reason := 0, vid := 1, tc := 0, yellow := false, stream := none, seqNo := none, group := 0, src := .field, edit := false, ptpOther := false, frame := 0 }, bytes := zeros 60, ports := [(511, 7, none)], hosts := [] } : Parcel).info ({ ticket := 9, src := 0, dst := 3, bulk := false, owner := 0, info := { inPort := 0, stamp := 0, hash := 0, cls := 0, rxFlags := 0, reason := 0, vid := 1, tc := 0, yellow := false, stream := none, seqNo := none, group := 0, src := .field, edit := false, ptpOther := false, frame := 0 }, bytes := zeros 60, ports := [(511, 7, none)], hosts := [] } : Parcel).bytes).length + 4 - tagGone ((let s : State := having [(0x23FF, 8, zeros 32)] (((having [(0x21FF, 1, [1]), (0x21FF, 2, [1])] { base with boot := { base.boot with fieldUp := true } }).setPort 511 { Port.reset with link := .up })); { s with buf := { s.buf with transit := [{ ticket := 9, src := 0, dst := 3, bulk := false, owner := 0, info := { inPort := 0, stamp := 0, hash := 0, cls := 0, rxFlags := 0, reason := 0, vid := 1, tc := 0, yellow := false, stream := none, seqNo := none, group := 0, src := .field, edit := false, ptpOther := false, frame := 0 }, bytes := zeros 60, ports := [(511, 7, none)], hosts := [] }] } }) : State) (511) ({ ticket := 9, src := 0, dst := 3, bulk := false, owner := 0, info := { inPort := 0, stamp := 0, hash := 0, cls := 0, rxFlags := 0, reason := 0, vid := 1, tc := 0, yellow := false, stream := none, seqNo := none, group := 0, src := .field, edit := false, ptpOther := false, frame := 0 }, bytes := zeros 60, ports := [(511, 7, none)], hosts := [] } : Parcel).info (editCopy ((let s : State := having [(0x23FF, 8, zeros 32)] (((having [(0x21FF, 1, [1]), (0x21FF, 2, [1])] { base with boot := { base.boot with fieldUp := true } }).setPort 511 { Port.reset with link := .up })); { s with buf := { s.buf with transit := [{ ticket := 9, src := 0, dst := 3, bulk := false, owner := 0, info := { inPort := 0, stamp := 0, hash := 0, cls := 0, rxFlags := 0, reason := 0, vid := 1, tc := 0, yellow := false, stream := none, seqNo := none, group := 0, src := .field, edit := false, ptpOther := false, frame := 0 }, bytes := zeros 60, ports := [(511, 7, none)], hosts := [] }] } }) : State) (511) (7) ({ ticket := 9, src := 0, dst := 3, bulk := false, owner := 0, info := { inPort := 0, stamp := 0, hash := 0, cls := 0, rxFlags := 0, reason := 0, vid := 1, tc := 0, yellow := false, stream := none, seqNo := none, group := 0, src := .field, edit := false, ptpOther := false, frame := 0 }, bytes := zeros 60, ports := [(511, 7, none)], hosts := [] } : Parcel).info ({ ticket := 9, src := 0, dst := 3, bulk := false, owner := 0, info := { inPort := 0, stamp := 0, hash := 0, cls := 0, rxFlags := 0, reason := 0, vid := 1, tc := 0, yellow := false, stream := none, seqNo := none, group := 0, src := .field, edit := false, ptpOther := false, frame := 0 }, bytes := zeros 60, ports := [(511, 7, none)], hosts := [] } : Parcel).bytes)), ({ ticket := 9, src := 0, dst := 3, bulk := false, owner := 0, info := { inPort := 0, stamp := 0, hash := 0, cls := 0, rxFlags := 0, reason := 0, vid := 1, tc := 0, yellow := false, stream := none, seqNo := none, group := 0, src := .field, edit := false, ptpOther := false, frame := 0 }, bytes := zeros 60, ports := [(511, 7, none)], hosts := [] }), ((let s : State := having [(0x23FF, 8, zeros 32)] (((having [(0x21FF, 1, [1]), (0x21FF, 2, [1])] { base with boot := { base.boot with fieldUp := true } }).setPort 511 { Port.reset with link := .up })); { s with buf := { s.buf with transit := [{ ticket := 9, src := 0, dst := 3, bulk := false, owner := 0, info := { inPort := 0, stamp := 0, hash := 0, cls := 0, rxFlags := 0, reason := 0, vid := 1, tc := 0, yellow := false, stream := none, seqNo := none, group := 0, src := .field, edit := false, ptpOther := false, frame := 0 }, bytes := zeros 60, ports := [(511, 7, none)], hosts := [] }] } })), by decide +kernel⟩,
   ⟨(9), (511), (7), ({ ticket := 9, src := 0, dst := 3, bulk := false, owner := 0, info := { inPort := 0, stamp := 0, hash := 0, cls := 0, rxFlags := 0, reason := 0, vid := 1, tc := 0, yellow := false, stream := none, seqNo := none, group := 0, src := .field, edit := false, ptpOther := false, frame := 0 }, bytes := zeros 60, ports := [(511, 7, none)], hosts := [] }), ((let s : State := base; { s with buf := { s.buf with transit := [{ ticket := 9, src := 0, dst := 3, bulk := false, owner := 0, info := { inPort := 0, stamp := 0, hash := 0, cls := 0, rxFlags := 0, reason := 0, vid := 1, tc := 0, yellow := false, stream := none, seqNo := none, group := 0, src := .field, edit := false, ptpOther := false, frame := 0 }, bytes := zeros 60, ports := [(511, 7, none)], hosts := [] }] } })), by decide +kernel⟩,
   ⟨(9), (base), by decide +kernel⟩,
   ⟨(511), (zeros 60), (((having [(0x21FF, 1, [1]), (0x21FF, 2, [1])] { base with boot := { base.boot with coresUp := true, fieldUp := true } }).setPort 511 { Port.reset with link := .up })), by decide +kernel, .inl (by decide +kernel), by decide +kernel⟩,
   ⟨(511), (((((having [(0x21FF, 1, [1]), (0x21FF, 2, [1])] { base with boot := { base.boot with coresUp := true, fieldUp := true } }).setPort 511 { Port.reset with link := .up })).setPsched 511 { PortSched.reset with inject := List.replicate 64 ({ sid := 0, info := { inPort := 0, stamp := 0, hash := 0, cls := 0, rxFlags := 0, reason := 0, vid := 1, tc := 0, yellow := false, stream := none, seqNo := none, group := 0, src := .field, edit := false, ptpOther := false, frame := 0 }, bytes := zeros 60, len := 64, cells := 1, enq := 0, stamped := true, fs := 0, ff := 64 }) })), by decide +kernel⟩⟩

/-- Further clauses of `Obligations.FrameDeparture`. -/
theorem test_FrameDeparture_met_2 :
    (∃ port : Nat, ∃ b : Bytes, ∃ s : State, s.boot.coresUp = false ∧ (∀ m, s.dict.outbox.find? (fun m => decide (m.port = port)) = some m → b.drop (b.length - m.msg.length) ≠ m.msg))
    ∧ (∃ t : Nat, ∃ port : Nat, ∃ pick : Option Nat × QFrame, ∃ s : State, port < 512 ∧ (s.psched port).wireEnd ≤ t + selectLead ∧ portPick (advance t s) port (t + selectLead) = some pick ∧ portUp s port = true ∧ pick.2.info.stream = none ∧ Tab.wf PortSched.reset s.sched.ports = true)
    ∧ (∃ t : Nat, ∃ port : Nat, ∃ s : State, port < 512 ∧ (t + selectLead < (s.psched port).wireEnd ∨ portPick (advance t s) port (t + selectLead) = none))
    ∧ (∃ port : Nat, ∃ x : TxFrame, ∃ rest : List TxFrame, ∃ s : State, port < 512 ∧ Tab.wf PortSched.reset s.sched.ports = true ∧ (s.psched port).sending = x :: rest)
    ∧ (∃ port : Nat, ∃ x : TxFrame, ∃ rest : List TxFrame, ∃ s : State, port < 512 ∧ Tab.wf PortSched.reset s.sched.ports = true ∧ (s.psched port).sending = x :: rest) :=
  ⟨⟨(511), ([]), (base), by decide +kernel, fun _ h => nomatch h⟩,
   ⟨(0), (511), ((some 7, { sid := 0, info := { inPort := 0, stamp := 0, hash := 0, cls := 0, rxFlags := 0, reason := 0, vid := 1, tc := 0, yellow := false, stream := none, seqNo := none, group := 0, src := .field, edit := false, ptpOther := false, frame := 0 }, bytes := zeros 60, len := 64, cells := 1, enq := 0, stamped := true, fs := 0, ff := 64 })), (((((having [(0x21FF, 1, [1]), (0x21FF, 2, [1])] { base with boot := { base.boot with coresUp := true, fieldUp := true } }).setPort 511 { Port.reset with link := .up })).setPsched 511 { PortSched.reset with queues := [(7, [{ sid := 0, info := { inPort := 0, stamp := 0, hash := 0, cls := 0, rxFlags := 0, reason := 0, vid := 1, tc := 0, yellow := false, stream := none, seqNo := none, group := 0, src := .field, edit := false, ptpOther := false, frame := 0 }, bytes := zeros 60, len := 64, cells := 1, enq := 0, stamped := true, fs := 0, ff := 64 }])] })), by decide +kernel⟩,
   ⟨(0), (511), (base), by decide +kernel⟩,
   ⟨(511), ({ frame := { sid := 0, info := { inPort := 0, stamp := 0, hash := 0, cls := 0, rxFlags := 0, reason := 0, vid := 1, tc := 0, yellow := false, stream := none, seqNo := none, group := 0, src := .field, edit := false, ptpOther := false, frame := 0 }, bytes := zeros 60, len := 64, cells := 1, enq := 0, stamped := true, fs := 0, ff := 64 }, tc := some 7, start := 0, egress := 0, drop := false, cut := false }), ([]), (((base).setPsched 511 { PortSched.reset with sending := [{ frame := { sid := 0, info := { inPort := 0, stamp := 0, hash := 0, cls := 0, rxFlags := 0, reason := 0, vid := 1, tc := 0, yellow := false, stream := none, seqNo := none, group := 0, src := .field, edit := false, ptpOther := false, frame := 0 }, bytes := zeros 60, len := 64, cells := 1, enq := 0, stamped := true, fs := 0, ff := 64 }, tc := some 7, start := 0, egress := 0, drop := false, cut := false }] })), by decide +kernel⟩,
   ⟨(511), ({ frame := { sid := 0, info := { inPort := 0, stamp := 0, hash := 0, cls := 0, rxFlags := 0, reason := 0, vid := 1, tc := 0, yellow := false, stream := none, seqNo := none, group := 0, src := .field, edit := false, ptpOther := false, frame := 0 }, bytes := zeros 60, len := 64, cells := 1, enq := 0, stamped := true, fs := 0, ff := 64 }, tc := some 7, start := 0, egress := 0, drop := false, cut := false }), ([]), (((base).setPsched 511 { PortSched.reset with sending := [{ frame := { sid := 0, info := { inPort := 0, stamp := 0, hash := 0, cls := 0, rxFlags := 0, reason := 0, vid := 1, tc := 0, yellow := false, stream := none, seqNo := none, group := 0, src := .field, edit := false, ptpOther := false, frame := 0 }, bytes := zeros 60, len := 64, cells := 1, enq := 0, stamped := true, fs := 0, ff := 64 }, tc := some 7, start := 0, egress := 0, drop := false, cut := false }] })), by decide +kernel⟩⟩

/-- Further clauses of `Obligations.FrameDeparture`. -/
theorem test_FrameDeparture_met_3 :
    (∃ port : Nat, ∃ x : TxFrame, ∃ rest : List TxFrame, ∃ s : State, port < 512 ∧ Tab.wf PortSched.reset s.sched.ports = true ∧ (s.psched port).sending = x :: rest ∧ x.frame.info.src = .field)
    ∧ (∃ port : Nat, ∃ s : State, port < 512 ∧ (s.psched port).sending = [])
    ∧ (∃ die : Nat, ∃ fn : Nat, ∃ f : HtxFrame, ∃ s : State, die < 4 ∧ htxPick s (s.htx die) = some fn ∧ htxNext (s.htx die) fn = some f ∧ culvDown s (hdCulvert die) = false)
    ∧ (∃ die : Nat, ∃ s : State, htxPick s (s.htx die) = none) :=
  ⟨⟨(511), ({ frame := { sid := 0, info := { inPort := 0, stamp := 0, hash := 0, cls := 0, rxFlags := 0, reason := 0, vid := 1, tc := 0, yellow := false, stream := none, seqNo := none, group := 0, src := .field, edit := false, ptpOther := false, frame := 0 }, bytes := zeros 60, len := 64, cells := 1, enq := 0, stamped := true, fs := 0, ff := 64 }, tc := some 7, start := 0, egress := 0, drop := false, cut := false }), ([]), (((base).setPsched 511 { PortSched.reset with sending := [{ frame := { sid := 0, info := { inPort := 0, stamp := 0, hash := 0, cls := 0, rxFlags := 0, reason := 0, vid := 1, tc := 0, yellow := false, stream := none, seqNo := none, group := 0, src := .field, edit := false, ptpOther := false, frame := 0 }, bytes := zeros 60, len := 64, cells := 1, enq := 0, stamped := true, fs := 0, ff := 64 }, tc := some 7, start := 0, egress := 0, drop := false, cut := false }] })), by decide +kernel⟩,
   ⟨(511), (base), by decide +kernel⟩,
   ⟨(3), (4095), ({ fn := 4095, q := 1023, idx := 0, die := 3, port := 511, tc := 7, tsreq := true, bytes := zeros 60 }), ((base.setHtx 3 { HtxSched.reset with frames := [{ fn := 4095, q := 1023, idx := 0, die := 3, port := 511, tc := 7, tsreq := true, bytes := zeros 60 }], heads := [(4095, 0, 64)], next := [(4095, { fn := 4095, q := 1023, idx := 0, die := 3, port := 511, tc := 7, tsreq := true, bytes := zeros 60 })] })), by decide +kernel⟩,
   ⟨(3), (base), by decide +kernel⟩⟩

/-- The hypotheses of `Obligations.LatencySamples` are met. -/
theorem test_LatencySamples_met :
    (∃ port : Nat, ∃ tc : Nat, ∃ q : Nat, ∃ s : State, Canonical s ∧ port < 512 ∧ tc < 8 ∧ samplePeriod s port tc ≠ 0 ∧ sampleRing s 0 = some q ∧ ringFull (s.queue 0 q) = false ∧ requestRefused s 0 q (qBase (s.queue 0 q) + 64 * (s.queue 0 q).tail) 64 = false)
    ∧ (∃ port : Nat, ∃ tc : Nat, ∃ s : State, port < 512 ∧ tc < 8 ∧ samplePeriod s port tc ≠ 0 ∧ sampleRing s 0 = none)
    ∧ (∃ fn : Nat, ∃ q : Nat, ∃ r : Nat, ∃ s : State, Canonical s ∧ fn < 4096 ∧ q < 1024 ∧ qSamplePeriod (s.queue fn q) ≠ 0 ∧ (s.queue fn q).st ≠ .disabled ∧ sampleRing s fn = some r ∧ ringFull (s.queue fn r) = false ∧ requestRefused s fn r (qBase (s.queue fn r) + 64 * (s.queue fn r).tail) 64 = false) :=
  ⟨⟨(511), (7), (0), (having [(0x23FF, 0xA, List.replicate 32 1#8)] (withQueue (queueOf 4 []) (equipped))), by unfold Canonical MailboxForm DictForm TablesForm FlowForm BufForm SchedForm EndpointForm PoldersForm CipherForm SiphonForm JournalForm EventsForm; decide +kernel⟩,
   ⟨(511), (7), (having [(0x23FF, 0xA, List.replicate 32 1#8)] base), by decide +kernel⟩,
   ⟨(0), (1), (0), (((equipped.setPolder 0 { equipped.polder 0 with counts := { Counts.polder0 with queues := 2 } }).setQueue 0 0 (queueOf 4 [])).setQueue 0 1 { Queue.reset with st := .enabled, ctx := [(2, 1), (7, 1000)] }), by unfold Canonical MailboxForm DictForm TablesForm FlowForm BufForm SchedForm EndpointForm PoldersForm CipherForm SiphonForm JournalForm EventsForm; decide +kernel⟩⟩

/-- The hypotheses of `Obligations.ValueRequests` are met. -/
theorem test_ValueRequests_met :
    (∃ t : Nat, ∃ b : Bytes, ∃ s : State, ∃ m : Msg, ∃ r : ObjRow, m = parseMsg b 0 ∧ MbxHolds s b 1 ∧ objDesc m.index m.sub = some r ∧ r.acc ≠ .wo ∧ r.acc ≠ .act ∧ (m.ty = 0 ∨ m.ty = r.ty) ∧ r.rd ≤ mbxRole (advance t s) ∧ (objValue (advance t s) 0 m.index m.sub r).length ≤ 4068)
    ∧ (∃ t : Nat, ∃ b : Bytes, ∃ s : State, ∃ m : Msg, ∃ r : ObjRow, m = parseMsg b 0 ∧ MbxHolds s b 1 ∧ objDesc m.index m.sub = some r ∧ r.acc ≠ .wo ∧ r.acc ≠ .act ∧ (m.ty = 0 ∨ m.ty = r.ty) ∧ r.rd ≤ mbxRole (advance t s) ∧ 4068 < (objValue (advance t s) 0 m.index m.sub r).length)
    ∧ (∃ b : Bytes, ∃ s : State, ∃ m : Msg, m = parseMsg b 0 ∧ MbxHolds s b 1 ∧ objKnown m.index = false)
    ∧ (∃ b : Bytes, ∃ s : State, ∃ m : Msg, m = parseMsg b 0 ∧ MbxHolds s b 1 ∧ objKnown m.index = true ∧ objDesc m.index m.sub = none)
    ∧ (∃ t : Nat, ∃ b : Bytes, ∃ s : State, ∃ m : Msg, ∃ r, m = parseMsg b 0 ∧ MbxHolds s b 1 ∧ objDesc m.index m.sub = some r ∧ (r.acc = .wo ∨ r.acc = .act) ∧ r.rd ≤ mbxRole (advance t s)) :=
  ⟨⟨(0), ((request 0 1 0x2801 1 0 0 0 ([]))), (holding (request 0 1 0x2801 1 0 0 0 ([])) (base)), (parseMsg (request 0 1 0x2801 1 0 0 0 ([])) 0), ((row 0x2801 1)), by unfold MbxHolds; decide +kernel⟩,
   ⟨(0), ((request 0 1 0x1431 0 0 0 0 ([]))), (holding (request 0 1 0x1431 0 0 0 0 ([])) (base)), (parseMsg (request 0 1 0x1431 0 0 0 0 ([])) 0), ((row 0x1431 0)), by unfold MbxHolds; decide +kernel⟩,
   ⟨((request 0 1 0x5FFF 0 0 0 0 ([]))), (holding (request 0 1 0x5FFF 0 0 0 0 ([])) (base)), (parseMsg (request 0 1 0x5FFF 0 0 0 0 ([])) 0), by unfold MbxHolds; decide +kernel⟩,
   ⟨((request 0 1 0x2801 255 0 0 0 ([]))), (holding (request 0 1 0x2801 255 0 0 0 ([])) (base)), (parseMsg (request 0 1 0x2801 255 0 0 0 ([])) 0), by unfold MbxHolds; decide +kernel⟩,
   ⟨(0), ((request 0 1 0x1140 1 0 0 0 ([]))), (holding (request 0 1 0x1140 1 0 0 0 ([])) (base)), (parseMsg (request 0 1 0x1140 1 0 0 0 ([])) 0), ((row 0x1140 1)), by unfold MbxHolds; decide +kernel⟩⟩

/-- Further clauses of `Obligations.ValueRequests`. -/
theorem test_ValueRequests_met_2 :
    (∃ t : Nat, ∃ b : Bytes, ∃ s : State, ∃ m : Msg, ∃ r : ObjRow, m = parseMsg b 0 ∧ MbxHolds s b 2 ∧ (s.dict.vals.map (·.1)).Nodup ∧ NoOnChange s ∧ ownWrite m = false ∧ m.index ≠ 0x1421 ∧ objDesc m.index m.sub = some r ∧ (r.acc = .rw ∨ r.acc = .rwp) ∧ r.wr ≤ mbxRole (advance t s) ∧ m.ty = r.ty ∧ stateAborts (advance t s) m.index m.sub = false ∧ encodes r.ty r.len m.data = true ∧ inRange m.index m.sub r m.data = true ∧ ownerAborts (advance t s) 0 m.index m.sub m.data = [])
    ∧ (∃ b : Bytes, ∃ s : State, ∃ m : Msg, m = parseMsg b 0 ∧ MbxHolds s b 2 ∧ NoOnChange s ∧ m.index = 0x1421 ∧ m.sub = 0 ∧ m.ty = 9 ∧ m.data.length = 32)
    ∧ (∃ b : Bytes, ∃ s : State, ∃ m : Msg, ∃ r : ObjRow, m = parseMsg b 0 ∧ MbxHolds s b 2 ∧ NoOnChange s ∧ ownWrite m = false ∧ objDesc m.index m.sub = some r ∧ r.acc = .ro)
    ∧ (∃ t : Nat, ∃ b : Bytes, ∃ s : State, ∃ m : Msg, ∃ r : ObjRow, m = parseMsg b 0 ∧ MbxHolds s b 2 ∧ NoOnChange s ∧ ownWrite m = false ∧ objDesc m.index m.sub = some r ∧ r.acc = .act ∧ r.wr ≤ mbxRole (advance t s))
    ∧ (∃ t : Nat, ∃ b : Bytes, ∃ s : State, ∃ m : Msg, ∃ r : ObjRow, m = parseMsg b 0 ∧ MbxHolds s b 2 ∧ NoOnChange s ∧ ownWrite m = false ∧ objDesc m.index m.sub = some r ∧ (r.acc = .rw ∨ r.acc = .rwp) ∧ stateAborts (advance t s) m.index m.sub = true) :=
  ⟨⟨(0), ((request 0 2 0x2801 1 2 0 0 ([16]))), (holding (request 0 2 0x2801 1 2 0 0 ([16])) (base)), (parseMsg (request 0 2 0x2801 1 2 0 0 ([16])) 0), ((row 0x2801 1)), by unfold MbxHolds NoOnChange; decide +kernel⟩,
   ⟨((request 0 2 0x1421 0 9 0 0 (zeros 32))), (holding (request 0 2 0x1421 0 9 0 0 (zeros 32)) (base)), (parseMsg (request 0 2 0x1421 0 9 0 0 (zeros 32)) 0), by unfold MbxHolds NoOnChange; decide +kernel⟩,
   ⟨((request 0 2 0x1000 2 10 0 0 ([65]))), (holding (request 0 2 0x1000 2 10 0 0 ([65])) (base)), (parseMsg (request 0 2 0x1000 2 10 0 0 ([65])) 0), ((row 0x1000 2)), by unfold MbxHolds NoOnChange; decide +kernel⟩,
   ⟨(0), ((request 0 2 0x1120 1 0 0 0 ([]))), (holding (request 0 2 0x1120 1 0 0 0 ([])) (base)), (parseMsg (request 0 2 0x1120 1 0 0 0 ([])) 0), ((row 0x1120 1)), by unfold MbxHolds NoOnChange; decide +kernel⟩,
   ⟨(0), ((request 0 2 0x2003 1 2 0 0 ([1]))), (holding (request 0 2 0x2003 1 2 0 0 ([1])) (having [(0x2003, 2, [1])] base)), (parseMsg (request 0 2 0x2003 1 2 0 0 ([1])) 0), ((row 0x2003 1)), by unfold MbxHolds NoOnChange; decide +kernel⟩⟩

/-- Further clauses of `Obligations.ValueRequests`. -/
theorem test_ValueRequests_met_3 :
    (∃ t : Nat, ∃ b : Bytes, ∃ s : State, ∃ m : Msg, ∃ r : ObjRow, m = parseMsg b 0 ∧ MbxHolds s b 2 ∧ NoOnChange s ∧ ownWrite m = false ∧ objDesc m.index m.sub = some r ∧ (r.acc = .rw ∨ r.acc = .rwp) ∧ stateAborts (advance t s) m.index m.sub = false ∧ ownerAborts (advance t s) 0 m.index m.sub m.data = [] ∧ r.wr ≤ mbxRole (advance t s) ∧ (m.ty ≠ r.ty ∨ encodes r.ty r.len m.data = false))
    ∧ (∃ t : Nat, ∃ b : Bytes, ∃ s : State, ∃ m : Msg, ∃ r : ObjRow, m = parseMsg b 0 ∧ MbxHolds s b 2 ∧ NoOnChange s ∧ ownWrite m = false ∧ objDesc m.index m.sub = some r ∧ (r.acc = .rw ∨ r.acc = .rwp) ∧ stateAborts (advance t s) m.index m.sub = false ∧ ownerAborts (advance t s) 0 m.index m.sub m.data = [] ∧ r.wr ≤ mbxRole (advance t s) ∧ m.ty = r.ty ∧ encodes r.ty r.len m.data = true ∧ inRange m.index m.sub r m.data = false) :=
  ⟨⟨(0), ((request 0 2 0x2801 1 2 0 0 ([1, 0]))), (holding (request 0 2 0x2801 1 2 0 0 ([1, 0])) (base)), (parseMsg (request 0 2 0x2801 1 2 0 0 ([1, 0])) 0), ((row 0x2801 1)), by unfold MbxHolds NoOnChange; decide +kernel⟩,
   ⟨(0), ((request 0 2 0x2801 1 2 0 0 ([17]))), (holding (request 0 2 0x2801 1 2 0 0 ([17])) (base)), (parseMsg (request 0 2 0x2801 1 2 0 0 ([17])) 0), ((row 0x2801 1)), by unfold MbxHolds NoOnChange; decide +kernel⟩⟩

/-- The hypotheses of `Obligations.BlockTransfers` are met. -/
theorem test_BlockTransfers_met :
    (∃ t : Nat, ∃ b : Bytes, ∃ s : State, ∃ m : Msg, ∃ r, ∃ v, m = parseMsg b 0 ∧ MbxHolds s b 3 ∧ objDesc m.index m.sub = some r ∧ r.acc ≠ .wo ∧ r.acc ≠ .act ∧ (m.ty = 0 ∨ m.ty = r.ty) ∧ r.rd ≤ mbxRole (advance t s) ∧ ((m.pa = 0 ∧ v = objValue (advance t s) 0 m.index m.sub r) ∨ (m.pa ≠ 0 ∧ snapOf (advance t s) 0 m.index m.sub = some v ∧ m.pa ≤ v.length)))
    ∧ (∃ t : Nat, ∃ b : Bytes, ∃ s : State, ∃ m : Msg, ∃ r, ∃ v, m = parseMsg b 0 ∧ MbxHolds s b 3 ∧ objDesc m.index m.sub = some r ∧ r.acc ≠ .wo ∧ r.acc ≠ .act ∧ (m.ty = 0 ∨ m.ty = r.ty) ∧ r.rd ≤ mbxRole (advance t s) ∧ m.pa ≠ 0 ∧ snapOf (advance t s) 0 m.index m.sub = some v ∧ v.length < m.pa)
    ∧ (∃ t : Nat, ∃ b : Bytes, ∃ s : State, ∃ m : Msg, m = parseMsg b 0 ∧ MbxHolds s b 3 ∧ m.pa ≠ 0 ∧ snapOf (advance t s) 0 m.index m.sub = none)
    ∧ (∃ b : Bytes, ∃ s : State, ∃ m : Msg, m = parseMsg b 0 ∧ MbxHolds s b 3 ∧ m.pa = 0 ∧ objDesc m.index m.sub = none)
    ∧ (∃ t : Nat, ∃ w : Nat, ∃ i : Nat, ∃ k : Nat, ∃ s : State, (∀ x ∈ s.dict.snaps, x.session = w → x.index = i → x.sub = k → x.at_ + 10 ^ 16 ≤ (advance t s).clock)) :=
  ⟨⟨(0), ((request 0 3 0x2801 1 0 0 4068 ([]))), (holding (request 0 3 0x2801 1 0 0 4068 ([])) (base)), (parseMsg (request 0 3 0x2801 1 0 0 4068 ([])) 0), ((row 0x2801 1)), (objValue base 0 0x2801 1 (row 0x2801 1)), by unfold MbxHolds; decide +kernel⟩,
   ⟨(0), ((request 0 3 0x2801 1 0 6 9 ([]))), (holding (request 0 3 0x2801 1 0 6 9 ([])) ({ base with dict := { base.dict with snaps := [{ session := 0, index := 0x2801, sub := 1, bytes := zeros 5, at_ := 0 }] } })), (parseMsg (request 0 3 0x2801 1 0 6 9 ([])) 0), ((row 0x2801 1)), (zeros 5), by unfold MbxHolds; decide +kernel⟩,
   ⟨(0), ((request 0 3 0x2801 1 0 1 9 ([]))), (holding (request 0 3 0x2801 1 0 1 9 ([])) (base)), (parseMsg (request 0 3 0x2801 1 0 1 9 ([])) 0), by unfold MbxHolds; decide +kernel⟩,
   ⟨((request 0 3 0x5FFF 0 0 0 0 ([]))), (holding (request 0 3 0x5FFF 0 0 0 0 ([])) (base)), (parseMsg (request 0 3 0x5FFF 0 0 0 0 ([])) 0), by unfold MbxHolds; decide +kernel⟩,
   ⟨(0), (0), (0), (0), (base), by decide +kernel⟩⟩

/-- Further clauses of `Obligations.BlockTransfers`. -/
theorem test_BlockTransfers_met_2 :
    (∃ t : Nat, ∃ w : Nat, ∃ i : Nat, ∃ k : Nat, ∃ s : State, (∃ x ∈ s.dict.snaps, x.session = w ∧ x.index = i ∧ x.sub = k ∧ (advance t s).clock < x.at_ + 10 ^ 16))
    ∧ (∃ t : Nat, ∃ b : Bytes, ∃ v : Bytes, ∃ s : State, ∃ m : Msg, ∃ r : ObjRow, m = parseMsg b 0 ∧ MbxHolds s b 4 ∧ NoOnChange s ∧ (s.dict.vals.map (·.1)).Nodup ∧ objDesc m.index m.sub = some r ∧ (r.acc = .rw ∨ r.acc = .rwp ∨ r.acc = .wo) ∧ r.wr ≤ mbxRole (advance t s) ∧ m.ty = r.ty ∧ ((m.pa = 0 ∧ v = m.data) ∨ (m.pa ≠ 0 ∧ ∃ w, stagedOf (advance t s) 0 m.index m.sub = some w ∧ w.length = m.pa ∧ v = w ++ m.data)) ∧ m.index ≠ 0x1410 ∧ (¬(m.index = 0x1140 ∧ m.sub = 1)) ∧ m.flags.testBit 2 = true ∧ v.length ≤ m.pb)
    ∧ (∃ t : Nat, ∃ b : Bytes, ∃ v : Bytes, ∃ s : State, ∃ m : Msg, ∃ r : ObjRow, m = parseMsg b 0 ∧ MbxHolds s b 4 ∧ NoOnChange s ∧ (s.dict.vals.map (·.1)).Nodup ∧ objDesc m.index m.sub = some r ∧ (r.acc = .rw ∨ r.acc = .rwp ∨ r.acc = .wo) ∧ r.wr ≤ mbxRole (advance t s) ∧ m.ty = r.ty ∧ ((m.pa = 0 ∧ v = m.data) ∨ (m.pa ≠ 0 ∧ ∃ w, stagedOf (advance t s) 0 m.index m.sub = some w ∧ w.length = m.pa ∧ v = w ++ m.data)) ∧ m.index ≠ 0x1410 ∧ (¬(m.index = 0x1140 ∧ m.sub = 1)) ∧ m.flags.testBit 2 = true ∧ m.pb < v.length)
    ∧ (∃ t : Nat, ∃ b : Bytes, ∃ v : Bytes, ∃ s : State, ∃ m : Msg, ∃ r : ObjRow, m = parseMsg b 0 ∧ MbxHolds s b 4 ∧ NoOnChange s ∧ (s.dict.vals.map (·.1)).Nodup ∧ objDesc m.index m.sub = some r ∧ (r.acc = .rw ∨ r.acc = .rwp ∨ r.acc = .wo) ∧ r.wr ≤ mbxRole (advance t s) ∧ m.ty = r.ty ∧ ((m.pa = 0 ∧ v = m.data) ∨ (m.pa ≠ 0 ∧ ∃ w, stagedOf (advance t s) 0 m.index m.sub = some w ∧ w.length = m.pa ∧ v = w ++ m.data)) ∧ m.index ≠ 0x1410 ∧ (¬(m.index = 0x1140 ∧ m.sub = 1)) ∧ m.flags.testBit 2 = false ∧ ownWrite m = false ∧ m.index ≠ 0x1421 ∧ stateAborts (advance t s) m.index m.sub = false ∧ encodes r.ty r.len v = true ∧ ownerAborts (advance t s) 0 m.index m.sub v = [] ∧ m.pb = v.length ∧ inRange m.index m.sub r v = true)
    ∧ (∃ t : Nat, ∃ b : Bytes, ∃ v : Bytes, ∃ s : State, ∃ m : Msg, ∃ r : ObjRow, m = parseMsg b 0 ∧ MbxHolds s b 4 ∧ NoOnChange s ∧ (s.dict.vals.map (·.1)).Nodup ∧ objDesc m.index m.sub = some r ∧ (r.acc = .rw ∨ r.acc = .rwp ∨ r.acc = .wo) ∧ r.wr ≤ mbxRole (advance t s) ∧ m.ty = r.ty ∧ ((m.pa = 0 ∧ v = m.data) ∨ (m.pa ≠ 0 ∧ ∃ w, stagedOf (advance t s) 0 m.index m.sub = some w ∧ w.length = m.pa ∧ v = w ++ m.data)) ∧ m.index ≠ 0x1410 ∧ (¬(m.index = 0x1140 ∧ m.sub = 1)) ∧ m.flags.testBit 2 = false ∧ ownWrite m = false ∧ m.index ≠ 0x1421 ∧ stateAborts (advance t s) m.index m.sub = false ∧ encodes r.ty r.len v = true ∧ ownerAborts (advance t s) 0 m.index m.sub v = [] ∧ (m.pb ≠ v.length ∨ inRange m.index m.sub r v = false)) :=
  ⟨⟨(0), (0), (0x2801), (1), ({ base with dict := { base.dict with snaps := [{ session := 0, index := 0x2801, sub := 1, bytes := zeros 5, at_ := 0 }] } }), by decide +kernel⟩,
   ⟨(0), ((request 4 4 0x2801 1 2 0 1 ([16]))), ([16]), (holding (request 4 4 0x2801 1 2 0 1 ([16])) (base)), (parseMsg (request 4 4 0x2801 1 2 0 1 ([16])) 0), ((row 0x2801 1)), by decide +kernel, by unfold MbxHolds; decide +kernel, by unfold NoOnChange; decide +kernel, by decide +kernel, by decide +kernel, by decide +kernel, by decide +kernel, by decide +kernel, Or.inl ⟨by decide +kernel, by decide +kernel⟩, by decide +kernel⟩,
   ⟨(0), ((request 4 4 0x2801 1 2 0 0 ([16]))), ([16]), (holding (request 4 4 0x2801 1 2 0 0 ([16])) (base)), (parseMsg (request 4 4 0x2801 1 2 0 0 ([16])) 0), ((row 0x2801 1)), by decide +kernel, by unfold MbxHolds; decide +kernel, by unfold NoOnChange; decide +kernel, by decide +kernel, by decide +kernel, by decide +kernel, by decide +kernel, by decide +kernel, Or.inl ⟨by decide +kernel, by decide +kernel⟩, by decide +kernel⟩,
   ⟨(0), ((request 0 4 0x2801 1 2 0 1 ([16]))), ([16]), (holding (request 0 4 0x2801 1 2 0 1 ([16])) (base)), (parseMsg (request 0 4 0x2801 1 2 0 1 ([16])) 0), ((row 0x2801 1)), by decide +kernel, by unfold MbxHolds; decide +kernel, by unfold NoOnChange; decide +kernel, by decide +kernel, by decide +kernel, by decide +kernel, by decide +kernel, by decide +kernel, Or.inl ⟨by decide +kernel, by decide +kernel⟩, by decide +kernel⟩,
   ⟨(0), ((request 0 4 0x2801 1 2 0 2 ([16]))), ([16]), (holding (request 0 4 0x2801 1 2 0 2 ([16])) (base)), (parseMsg (request 0 4 0x2801 1 2 0 2 ([16])) 0), ((row 0x2801 1)), by decide +kernel, by unfold MbxHolds; decide +kernel, by unfold NoOnChange; decide +kernel, by decide +kernel, by decide +kernel, by decide +kernel, by decide +kernel, by decide +kernel, Or.inl ⟨by decide +kernel, by decide +kernel⟩, by decide +kernel⟩⟩

/-- Further clauses of `Obligations.BlockTransfers`. -/
theorem test_BlockTransfers_met_3 :
    (∃ t : Nat, ∃ b : Bytes, ∃ s : State, ∃ m : Msg, m = parseMsg b 0 ∧ MbxHolds s b 4 ∧ NoOnChange s ∧ m.pa ≠ 0 ∧ (stagedOf (advance t s) 0 m.index m.sub).map (·.length) ≠ some m.pa)
    ∧ (∃ b : Bytes, ∃ s : State, ∃ m : Msg, m = parseMsg b 0 ∧ MbxHolds s b 4 ∧ NoOnChange s ∧ m.pa = 0 ∧ objDesc m.index m.sub = none)
    ∧ (∃ t : Nat, ∃ w : Nat, ∃ i : Nat, ∃ k : Nat, ∃ s : State, (∀ x ∈ s.dict.stagings, x.session = w → x.index = i → x.sub = k → x.at_ + 10 ^ 16 ≤ (advance t s).clock))
    ∧ (∃ t : Nat, ∃ w : Nat, ∃ i : Nat, ∃ k : Nat, ∃ s : State, (∃ x ∈ s.dict.stagings, x.session = w ∧ x.index = i ∧ x.sub = k ∧ (advance t s).clock < x.at_ + 10 ^ 16)) :=
  ⟨⟨(0), ((request 0 4 0x2801 1 2 1 2 ([16]))), (holding (request 0 4 0x2801 1 2 1 2 ([16])) (base)), (parseMsg (request 0 4 0x2801 1 2 1 2 ([16])) 0), by unfold MbxHolds NoOnChange; decide +kernel⟩,
   ⟨((request 0 4 0x5FFF 0 0 0 0 ([]))), (holding (request 0 4 0x5FFF 0 0 0 0 ([])) (base)), (parseMsg (request 0 4 0x5FFF 0 0 0 0 ([])) 0), by unfold MbxHolds NoOnChange; decide +kernel⟩,
   ⟨(0), (0), (0), (0), (base), by decide +kernel⟩,
   ⟨(0), (0), (0x2801), (1), ({ base with dict := { base.dict with stagings := [{ session := 0, index := 0x2801, sub := 1, total := 1, bytes := [16], at_ := 0 }] } }), by decide +kernel⟩⟩

/-- The hypotheses of `Obligations.NetworkRequests` are met. -/
theorem test_NetworkRequests_met :
    (∃ t : Nat, ∃ port : Option Nat, ∃ addr : Bytes, ∃ b : Bytes, ∃ s : State, ∃ m : Msg, ∃ r : ObjRow, Canonical s ∧ m = parseMsg b 16 ∧ NetAsks s t port addr b 1 ∧ NetFresh s b ∧ objDesc m.index m.sub = some r ∧ r.acc = .rwp ∧ 12 < m.index ∧ m.index ≠ 0x1421 ∧ m.index ≠ 0x1440 ∧ m.sub ≠ 0 ∧ r.rd ≤ netRole (advance t s) m.session ∧ (m.ty = 0 ∨ m.ty = r.ty) ∧ (cfg s m.index m.sub).length ≤ 1356)
    ∧ (∃ t : Nat, ∃ port : Option Nat, ∃ addr : Bytes, ∃ b : Bytes, ∃ s : State, ∃ m : Msg, ∃ k : Kept, Canonical s ∧ m = parseMsg b 16 ∧ NetAsks s t port addr b 1 ∧ m.epoch = s.dict.epoch ∧ windowOk (s.session m.session) m.seq = true ∧ ((s.session m.session).kept.find? (fun x => sameReq m x && keptLive (advance t s) x) = some k))
    ∧ (∃ t : Nat, ∃ port : Option Nat, ∃ addr : Bytes, ∃ b : Bytes, ∃ s : State, ∃ m : Msg, Canonical s ∧ m = parseMsg b 16 ∧ NetAsks s t port addr b 1 ∧ m.epoch ≠ s.dict.epoch ∧ (s.session m.session).epochAnswer = none)
    ∧ (∃ t : Nat, ∃ port : Option Nat, ∃ addr : Bytes, ∃ b : Bytes, ∃ s : State, ∃ m : Msg, ∃ e, Canonical s ∧ m = parseMsg b 16 ∧ NetAsks s t port addr b 1 ∧ m.epoch ≠ s.dict.epoch ∧ (s.session m.session).epochAnswer = some e ∧ t < e + 10 ^ 14)
    ∧ (∃ t : Nat, ∃ port : Option Nat, ∃ addr : Bytes, ∃ b : Bytes, ∃ s : State, ∃ m : Msg, Canonical s ∧ m = parseMsg b 16 ∧ NetAsks s t port addr b 1 ∧ m.epoch = s.dict.epoch ∧ windowOk (s.session m.session) m.seq = false) :=
  ⟨⟨(0), (some 511), (zeros 16), ((netRequest 0 1 1 0x2801 1 0 0 0 ([]))), ((session1 3 (Session.reset) (base))), (parseMsg (netRequest 0 1 1 0x2801 1 0 0 0 ([])) 16), (row 0x2801 1), by unfold Canonical MailboxForm DictForm TablesForm FlowForm BufForm SchedForm EndpointForm PoldersForm CipherForm SiphonForm JournalForm EventsForm NetAsks NetFresh; decide +kernel⟩,
   ⟨(0), (some 511), (zeros 16), ((netRequest 0 1 1 0x2801 1 0 0 0 ([]))), ((session1 3 ({ Session.reset with kept := [{ reqId := 1, kind := 1, index := 0x2801, sub := 1, data := [], flags := 1, paramA := 0, paramB := 1, ty := 2, body := [8], at_ := 0 }] }) (base))), (parseMsg (netRequest 0 1 1 0x2801 1 0 0 0 ([])) 16), ({ reqId := 1, kind := 1, index := 0x2801, sub := 1, data := [], flags := 1, paramA := 0, paramB := 1, ty := 2, body := [8], at_ := 0 }), by unfold Canonical MailboxForm DictForm TablesForm FlowForm BufForm SchedForm EndpointForm PoldersForm CipherForm SiphonForm JournalForm EventsForm NetAsks; decide +kernel⟩,
   ⟨(0), (some 511), (zeros 16), ((netRequest 0 1 1 0x2801 1 0 0 0 ([]))), ((session1 3 (Session.reset) ({ base with dict := { base.dict with epoch := 5 } }))), (parseMsg (netRequest 0 1 1 0x2801 1 0 0 0 ([])) 16), by unfold Canonical MailboxForm DictForm TablesForm FlowForm BufForm SchedForm EndpointForm PoldersForm CipherForm SiphonForm JournalForm EventsForm NetAsks; decide +kernel⟩,
   ⟨(0), (some 511), (zeros 16), ((netRequest 0 1 1 0x2801 1 0 0 0 ([]))), ((session1 3 ({ Session.reset with epochAnswer := some 0 }) ({ base with dict := { base.dict with epoch := 5 } }))), (parseMsg (netRequest 0 1 1 0x2801 1 0 0 0 ([])) 16), (0), by unfold Canonical MailboxForm DictForm TablesForm FlowForm BufForm SchedForm EndpointForm PoldersForm CipherForm SiphonForm JournalForm EventsForm NetAsks; decide +kernel⟩,
   ⟨(0), (some 511), (zeros 16), ((netRequest 0 1 1 0x2801 1 0 0 0 ([]))), ((session1 3 ({ Session.reset with rxHigh := 65 }) (base))), (parseMsg (netRequest 0 1 1 0x2801 1 0 0 0 ([])) 16), by unfold Canonical MailboxForm DictForm TablesForm FlowForm BufForm SchedForm EndpointForm PoldersForm CipherForm SiphonForm JournalForm EventsForm NetAsks; decide +kernel⟩⟩

/-- Further clauses of `Obligations.NetworkRequests`. -/
theorem test_NetworkRequests_met_2 :
    (∃ t : Nat, ∃ port : Option Nat, ∃ addr : Bytes, ∃ b : Bytes, ∃ s : State, ∃ m : Msg, ∃ r : ObjRow, Canonical s ∧ NoOnChange s ∧ m = parseMsg b 16 ∧ NetFresh s b ∧ objDesc m.index m.sub = some r ∧ NetAsks s t port addr b 1 ∧ r.acc ≠ .wo ∧ r.acc ≠ .act ∧ netRole (advance t s) m.session < r.rd)
    ∧ (∃ t : Nat, ∃ port : Option Nat, ∃ addr : Bytes, ∃ b : Bytes, ∃ s : State, ∃ m : Msg, ∃ r : ObjRow, Canonical s ∧ NoOnChange s ∧ m = parseMsg b 16 ∧ NetFresh s b ∧ objDesc m.index m.sub = some r ∧ NetAsks s t port addr b 2 ∧ ownWrite m = false ∧ (r.acc = .rw ∨ r.acc = .rwp) ∧ stateAborts (advance t s) m.index m.sub = false ∧ ownerAborts (advance t s) m.session m.index m.sub m.data = [] ∧ netRole (advance t s) m.session < r.wr)
    ∧ (∃ port : Option Nat, ∃ addr : Bytes, ∃ b : Bytes, ∃ s : State, ∃ m : Msg, Canonical s ∧ m = parseMsg b 16 ∧ m.kind = 1 ∧ (fdpPlace s port addr = false ∨ s.dict.fdpOpen = false))
    ∧ (∃ t : Nat, ∃ port : Option Nat, ∃ addr : Bytes, ∃ b : Bytes, ∃ s : State, ∃ m : Msg, Canonical s ∧ m = parseMsg b 16 ∧ m.kind = 1 ∧ fdpPlace s port addr = true ∧ s.dict.fdpOpen = true ∧ (s.mbx.restart = true ∨ rateRoom t s = false))
    ∧ (∃ t : Nat, ∃ port : Option Nat, ∃ addr : Bytes, ∃ b : Bytes, ∃ s : State, ∃ m : Msg, Canonical s ∧ m = parseMsg b 16 ∧ m.kind = 1 ∧ fdpPlace s port addr = true ∧ s.dict.fdpOpen = true ∧ s.mbx.restart = false ∧ rateRoom t s = true ∧ (headerOk m b.length 44 = false ∨ 1400 < b.length)) :=
  ⟨⟨(0), (some 511), (zeros 16), ((netRequest 0 1 1 0x1150 2 0 0 0 ([]))), ((session1 1 (Session.reset) (base))), (parseMsg (netRequest 0 1 1 0x1150 2 0 0 0 ([])) 16), (row 0x1150 2), by unfold Canonical MailboxForm DictForm TablesForm FlowForm BufForm SchedForm EndpointForm PoldersForm CipherForm SiphonForm JournalForm EventsForm NetAsks NetFresh NoOnChange; decide +kernel⟩,
   ⟨(0), (some 511), (zeros 16), ((netRequest 0 2 1 0x2801 1 2 0 0 ([16]))), ((session1 2 (Session.reset) (base))), (parseMsg (netRequest 0 2 1 0x2801 1 2 0 0 ([16])) 16), (row 0x2801 1), by unfold Canonical MailboxForm DictForm TablesForm FlowForm BufForm SchedForm EndpointForm PoldersForm CipherForm SiphonForm JournalForm EventsForm NetAsks NetFresh NoOnChange; decide +kernel⟩,
   ⟨(some 511), (zeros 16), ((netRequest 0 1 1 0x2801 1 0 0 0 ([]))), (base), (parseMsg (netRequest 0 1 1 0x2801 1 0 0 0 ([])) 16), by unfold Canonical MailboxForm DictForm TablesForm FlowForm BufForm SchedForm EndpointForm PoldersForm CipherForm SiphonForm JournalForm EventsForm; decide +kernel⟩,
   ⟨(0), (some 511), (zeros 16), ((netRequest 0 1 1 0x2801 1 0 0 0 ([]))), ((session1 3 Session.reset ({ base with dict := { base.dict with inSecond := 100000000 } }))), (parseMsg (netRequest 0 1 1 0x2801 1 0 0 0 ([])) 16), by unfold Canonical MailboxForm DictForm TablesForm FlowForm BufForm SchedForm EndpointForm PoldersForm CipherForm SiphonForm JournalForm EventsForm; decide +kernel⟩,
   ⟨(0), (some 511), (zeros 16), (((netRequest 0 1 1 0x2801 1 0 0 0 ([])).take 40)), ((session1 3 (Session.reset) (base))), (parseMsg ((netRequest 0 1 1 0x2801 1 0 0 0 ([])).take 40) 16), by unfold Canonical MailboxForm DictForm TablesForm FlowForm BufForm SchedForm EndpointForm PoldersForm CipherForm SiphonForm JournalForm EventsForm; decide +kernel⟩⟩

/-- Further clauses of `Obligations.NetworkRequests`. -/
theorem test_NetworkRequests_met_3 :
    (∃ t : Nat, ∃ port : Option Nat, ∃ addr : Bytes, ∃ b : Bytes, ∃ s : State, ∃ m : Msg, Canonical s ∧ m = parseMsg b 16 ∧ m.kind = 1 ∧ fdpPlace s port addr = true ∧ s.dict.fdpOpen = true ∧ s.mbx.restart = false ∧ rateRoom t s = true ∧ headerOk m b.length 44 = true ∧ b.length ≤ 1400 ∧ sessionOpen s m.session = true ∧ farmFree s = false)
    ∧ (∃ t : Nat, ∃ port : Option Nat, ∃ addr : Bytes, ∃ b : Bytes, ∃ s : State, ∃ m : Msg, Canonical s ∧ m = parseMsg b 16 ∧ m.kind = 1 ∧ fdpPlace s port addr = true ∧ s.dict.fdpOpen = true ∧ s.mbx.restart = false ∧ rateRoom t s = true ∧ headerOk m b.length 44 = true ∧ b.length ≤ 1400 ∧ (sessionOpen s m.session = false ∨ (farmFree s = true ∧ cfg s (0x114F + m.session) 4 ≠ zeros 16 ∧ cfg s (0x114F + m.session) 4 ≠ addr)))
    ∧ (∃ t : Nat, ∃ port : Option Nat, ∃ addr : Bytes, ∃ b : Bytes, ∃ s : State, ∃ m : Msg, ∃ r : ObjRow, Canonical s ∧ m = parseMsg b 16 ∧ NetAsks s t port addr b 6 ∧ NetFresh s b ∧ objDesc m.index m.sub = some r ∧ r.acc = .rwp ∧ 12 < m.index ∧ m.index ≠ 0x1421 ∧ m.index ≠ 0x1440 ∧ m.sub ≠ 0 ∧ r.rd ≤ netRole (advance t s) m.session ∧ (m.ty = 0 ∨ m.ty = r.ty) ∧ (cfg s m.index m.sub).length ≤ 1356 ∧ s.dict.subs.length < 256 ∧ ((s.dict.subs.filter (fun x => decide (x.session = m.session))).length < 32) ∧ m.pa = 0 ∧ (m.pb = 0 ∨ 1000 ≤ m.pb) ∧ (∀ x ∈ s.dict.subs, ¬(x.session = m.session ∧ x.index = m.index ∧ x.sub = m.sub)))
    ∧ (∃ b : Bytes, ∃ s : State, MbxHolds s b 6)
    ∧ (Meets 0x1120 4 (fun d s => ∃ x ∈ s.dict.subs, x.number = beNat d)) :=
  ⟨⟨(0), (some 511), (zeros 16), ((netRequest 0 1 1 0x2801 1 0 0 0 ([]))), ((let s : State := (session1 3 (Session.reset) (base)); { s with cipher := { s.cipher with cores := block 0 256 { out := true, msg := none } } })), (parseMsg (netRequest 0 1 1 0x2801 1 0 0 0 ([])) 16), by unfold Canonical MailboxForm DictForm TablesForm FlowForm BufForm SchedForm EndpointForm PoldersForm CipherForm SiphonForm JournalForm EventsForm; decide +kernel⟩,
   ⟨(0), (some 511), (zeros 16), ((netRequest 0 1 1 0x2801 1 0 0 0 ([]))), ((having [(0x1150, 1, [0])] (session1 3 (Session.reset) (base)))), (parseMsg (netRequest 0 1 1 0x2801 1 0 0 0 ([])) 16), by unfold Canonical MailboxForm DictForm TablesForm FlowForm BufForm SchedForm EndpointForm PoldersForm CipherForm SiphonForm JournalForm EventsForm; decide +kernel⟩,
   ⟨(0), (some 511), (zeros 16), ((netRequest 0 6 1 0x2801 1 0 0 0 ([]))), ((session1 3 (Session.reset) (base))), (parseMsg (netRequest 0 6 1 0x2801 1 0 0 0 ([])) 16), (row 0x2801 1), by unfold Canonical MailboxForm DictForm TablesForm FlowForm BufForm SchedForm EndpointForm PoldersForm CipherForm SiphonForm JournalForm EventsForm; decide +kernel, by decide +kernel, by unfold NetAsks; decide +kernel, by unfold NetFresh; decide +kernel, by decide +kernel⟩,
   ⟨(request 0 6 0x2801 1 0 0 0 []), (holding (request 0 6 0x2801 1 0 0 0 []) base), by unfold MbxHolds; decide +kernel⟩,
   ⟨0, (asks 0x1120 4 [0, 7] ({ base with dict := { base.dict with subs := [{ number := 7, session := 1, port := some 511, index := 0x2801, sub := 1, period := 1000, interval := 0, last := [8], sentAt := 0 }] } })), (ask 0x1120 4 [0, 7]), by unfold Asks; decide +kernel⟩⟩

/-- Further clauses of `Obligations.NetworkRequests`. -/
theorem test_NetworkRequests_met_4 :
    (Meets 0x1120 4 (fun d s => ∀ x ∈ s.dict.subs, x.number ≠ beNat d))
    ∧ (∃ t : Nat, ∃ n : Nat, ∃ s : State, ∃ x : Subscr, Canonical s ∧ (s.dict.subs.find? (fun y => decide (y.number = n)) = some x) ∧ x.period ≠ 0 ∧ t < x.sentAt + x.period * 10 ^ 9)
    ∧ (∃ t : Nat, ∃ n : Nat, ∃ s : State, ∃ x : Subscr, ∃ r : ObjRow, Canonical s ∧ (s.dict.subs.find? (fun y => decide (y.number = n)) = some x) ∧ x.period ≠ 0 ∧ x.sentAt + x.period * 10 ^ 9 ≤ t ∧ objDesc x.index x.sub = some r ∧ sessionOpen s x.session = true)
    ∧ (∃ t : Nat, ∃ n : Nat, ∃ s : State, ∃ x : Subscr, Canonical s ∧ (s.dict.subs.find? (fun y => decide (y.number = n)) = some x) ∧ x.period = 0 ∧ (subValue (advance t s) x = x.last ∨ t < x.sentAt + x.interval * 10 ^ 9))
    ∧ (∃ t : Nat, ∃ n : Nat, ∃ s : State, ∃ x : Subscr, ∃ r : ObjRow, Canonical s ∧ (s.dict.subs.find? (fun y => decide (y.number = n)) = some x) ∧ x.period = 0 ∧ subValue (advance t s) x ≠ x.last ∧ x.sentAt + x.interval * 10 ^ 9 ≤ t ∧ objDesc x.index x.sub = some r ∧ sessionOpen s x.session = true) :=
  ⟨⟨0, (asks 0x1120 4 [0, 7] (base)), (ask 0x1120 4 [0, 7]), by unfold Asks; decide +kernel⟩,
   ⟨(999999999999), (7), ({ base with dict := { base.dict with subs := [{ number := 7, session := 1, port := some 511, index := 0x2801, sub := 1, period := 1000, interval := 0, last := [8], sentAt := 0 }] } }), ({ number := 7, session := 1, port := some 511, index := 0x2801, sub := 1, period := 1000, interval := 0, last := [8], sentAt := 0 }), by unfold Canonical MailboxForm DictForm TablesForm FlowForm BufForm SchedForm EndpointForm PoldersForm CipherForm SiphonForm JournalForm EventsForm; decide +kernel⟩,
   ⟨(1000000000000), (7), ((session1 3 (Session.reset) ({ base with dict := { base.dict with subs := [{ number := 7, session := 1, port := some 511, index := 0x2801, sub := 1, period := 1000, interval := 0, last := [8], sentAt := 0 }] } }))), ({ number := 7, session := 1, port := some 511, index := 0x2801, sub := 1, period := 1000, interval := 0, last := [8], sentAt := 0 }), (row 0x2801 1), by unfold Canonical MailboxForm DictForm TablesForm FlowForm BufForm SchedForm EndpointForm PoldersForm CipherForm SiphonForm JournalForm EventsForm; decide +kernel⟩,
   ⟨(0), (7), ({ base with dict := { base.dict with subs := [{ number := 7, session := 1, port := some 511, index := 0x2801, sub := 1, period := 0, interval := 1, last := [8], sentAt := 0 }] } }), ({ number := 7, session := 1, port := some 511, index := 0x2801, sub := 1, period := 0, interval := 1, last := [8], sentAt := 0 }), by unfold Canonical MailboxForm DictForm TablesForm FlowForm BufForm SchedForm EndpointForm PoldersForm CipherForm SiphonForm JournalForm EventsForm; decide +kernel⟩,
   ⟨(0), (7), ((session1 3 (Session.reset) ({ base with dict := { base.dict with subs := [{ number := 7, session := 1, port := some 511, index := 0x2801, sub := 1, period := 0, interval := 0, last := [9], sentAt := 0 }] } }))), ({ number := 7, session := 1, port := some 511, index := 0x2801, sub := 1, period := 0, interval := 0, last := [9], sentAt := 0 }), (row 0x2801 1), by unfold Canonical MailboxForm DictForm TablesForm FlowForm BufForm SchedForm EndpointForm PoldersForm CipherForm SiphonForm JournalForm EventsForm; decide +kernel⟩⟩

/-- Further clauses of `Obligations.NetworkRequests`. -/
theorem test_NetworkRequests_met_5 :
    (∃ t : Nat, ∃ n : Nat, ∃ q : Nat, ∃ s : State, ∃ k : Kept, Canonical s ∧ ((s.session n).kept.find? (fun y => decide (y.reqId = q) && decide (y.at_ + 10 ^ 15 ≤ (advance t s).clock)) = some k))
    ∧ (∃ t : Nat, ∃ n : Nat, ∃ q : Nat, ∃ s : State, (∀ y ∈ (s.session n).kept, y.reqId = q → (advance t s).clock < y.at_ + 10 ^ 15)) :=
  ⟨⟨(1000000000000000), (1), (1), (base.setSession 1 { Session.reset with kept := [{ reqId := 1, kind := 1, index := 0x2801, sub := 1, data := [], flags := 1, paramA := 0, paramB := 1, ty := 2, body := [8], at_ := 0 }] }), ({ reqId := 1, kind := 1, index := 0x2801, sub := 1, data := [], flags := 1, paramA := 0, paramB := 1, ty := 2, body := [8], at_ := 0 }), by unfold Canonical MailboxForm DictForm TablesForm FlowForm BufForm SchedForm EndpointForm PoldersForm CipherForm SiphonForm JournalForm EventsForm; decide +kernel⟩,
   ⟨(0), (1), (2), (base.setSession 1 { Session.reset with kept := [{ reqId := 1, kind := 1, index := 0x2801, sub := 1, data := [], flags := 1, paramA := 0, paramB := 1, ty := 2, body := [8], at_ := 0 }] }), by decide +kernel⟩⟩

/-- The hypotheses of `Obligations.StoreAndTokens` are met. -/
theorem test_StoreAndTokens_met :
    (Meets 0x1120 1 (fun _ s => s.dict.storing = none))
    ∧ (Meets 0x1120 2 (fun _ s => s.dict.storing = none))
    ∧ (∃ vals : Tab Bytes, ∃ s : State, s.dict.storing = some vals ∧ (storePayload vals).length ≤ 1048576)
    ∧ (∃ ok : Bool, ∃ vals : Tab Bytes, ∃ s : State, s.dict.storing = some vals ∧ (ok = false ∨ 1048576 < (storePayload vals).length))
    ∧ (∃ t : Nat, ∃ n : Nat, ∃ s : State, ∃ e, Canonical s ∧ tokenOf s n = some e ∧ e ≤ timeNow (advance t s)) :=
  ⟨⟨0, (asks 0x1120 1 [] (base)), (ask 0x1120 1 []), by unfold Asks; decide +kernel⟩,
   ⟨0, (asks 0x1120 2 [] (base)), (ask 0x1120 2 []), by unfold Asks; decide +kernel⟩,
   ⟨([]), ({ base with dict := { base.dict with storing := some [] } }), by decide +kernel⟩,
   ⟨(false), ([]), ({ base with dict := { base.dict with storing := some [] } }), by decide +kernel⟩,
   ⟨(1), (64), (base.setSession 64 { Session.reset with vendorUntil := some 0 }), (0), by unfold Canonical MailboxForm DictForm TablesForm FlowForm BufForm SchedForm EndpointForm PoldersForm CipherForm SiphonForm JournalForm EventsForm; decide +kernel⟩⟩

/-- Further clauses of `Obligations.StoreAndTokens`. -/
theorem test_StoreAndTokens_met_2 :
    (∃ t : Nat, ∃ n : Nat, ∃ s : State, ∃ e, Canonical s ∧ tokenOf s n = some e ∧ timeNow (advance t s) < e)
    ∧ (∃ n : Nat, ∃ s : State, Canonical s ∧ tokenOf s n = none)
    ∧ (∃ b : Bytes, ∃ s : State, ∃ m : Msg, m = parseMsg b 0 ∧ MbxHolds s b 2 ∧ NoOnChange s ∧ m.index = 0x1140 ∧ m.sub = 1 ∧ m.ty = 9 ∧ m.data.length = 1344 ∧ s.time.state ≠ tsUNSET)
    ∧ (∃ b : Bytes, ∃ s : State, ∃ m : Msg, m = parseMsg b 0 ∧ MbxHolds s b 2 ∧ NoOnChange s ∧ m.index = 0x1140 ∧ m.sub = 1 ∧ s.time.state = tsUNSET)
    ∧ (∃ n : Nat, ∃ b : Bytes, ∃ s : State, ∃ m : Msg, Canonical s ∧ m = parseMsg b 0 ∧ MbxHolds s b 2 ∧ NoOnChange s ∧ 1 ≤ n ∧ n ≤ 64 ∧ m.index = 0x114F + n ∧ m.sub = 3 ∧ m.ty = 9 ∧ m.data.length = 56) :=
  ⟨⟨(0), (0), ({ base with dict := { base.dict with mbxVendor := some (2 ^ 80) } }), (2 ^ 80), by unfold Canonical MailboxForm DictForm TablesForm FlowForm BufForm SchedForm EndpointForm PoldersForm CipherForm SiphonForm JournalForm EventsForm; decide +kernel⟩,
   ⟨(64), (base), by unfold Canonical MailboxForm DictForm TablesForm FlowForm BufForm SchedForm EndpointForm PoldersForm CipherForm SiphonForm JournalForm EventsForm; decide +kernel⟩,
   ⟨((request 0 2 0x1140 1 9 0 0 (zeros 1344))), (holding (request 0 2 0x1140 1 9 0 0 (zeros 1344)) ({ base with time := { base.time with state := 2 } })), (parseMsg (request 0 2 0x1140 1 9 0 0 (zeros 1344)) 0), by unfold MbxHolds NoOnChange; decide +kernel⟩,
   ⟨((request 0 2 0x1140 1 9 0 0 (zeros 1344))), (holding (request 0 2 0x1140 1 9 0 0 (zeros 1344)) (base)), (parseMsg (request 0 2 0x1140 1 9 0 0 (zeros 1344)) 0), by unfold MbxHolds NoOnChange; decide +kernel⟩,
   ⟨(64), ((request 0 2 0x118F 3 9 0 0 (zeros 56))), (holding (request 0 2 0x118F 3 9 0 0 (zeros 56)) (base)), (parseMsg (request 0 2 0x118F 3 9 0 0 (zeros 56)) 0), by unfold Canonical MailboxForm DictForm TablesForm FlowForm BufForm SchedForm EndpointForm PoldersForm CipherForm SiphonForm JournalForm EventsForm MbxHolds NoOnChange; decide +kernel⟩⟩

/-- Further clauses of `Obligations.StoreAndTokens`. -/
theorem test_StoreAndTokens_met_3 :
    (∃ t : Nat, ∃ port : Option Nat, ∃ addr : Bytes, ∃ b : Bytes, ∃ s : State, ∃ m : Msg, Canonical s ∧ NoOnChange s ∧ m = parseMsg b 16 ∧ NetAsks s t port addr b 2 ∧ NetFresh s b ∧ m.index = 0x114F + m.session ∧ m.sub = 3 ∧ m.ty = 9 ∧ m.data.length = 56 ∧ 3 ≤ netRole (advance t s) m.session)
    ∧ (∃ t : Nat, ∃ port : Option Nat, ∃ addr : Bytes, ∃ b : Bytes, ∃ s : State, ∃ m : Msg, Canonical s ∧ NoOnChange s ∧ m = parseMsg b 16 ∧ NetAsks s t port addr b 2 ∧ NetFresh s b ∧ m.index = 0x114F + m.session ∧ m.sub = 1 ∧ m.ty = 1 ∧ m.data = [0] ∧ 3 ≤ netRole (advance t s) m.session ∧ (s.dict.vals.map (·.1)).Nodup)
    ∧ (∃ b : Bytes, ∃ s : State, ∃ m : Msg, m = parseMsg b 0 ∧ MbxHolds s b 2 ∧ NoOnChange s ∧ m.index = 0x1440 ∧ m.sub = 0 ∧ m.ty = 9 ∧ m.data.length = 256)
    ∧ (∃ t : Nat, ∃ port : Option Nat, ∃ addr : Bytes, ∃ b : Bytes, ∃ s : State, ∃ m : Msg, Canonical s ∧ NoOnChange s ∧ m = parseMsg b 16 ∧ NetAsks s t port addr b 2 ∧ NetFresh s b ∧ m.index = 0x1440 ∧ m.sub = 0) :=
  ⟨⟨(0), (some 511), (zeros 16), ((netRequest 0 2 1 0x1150 3 9 0 0 (zeros 56))), ((session1 3 (Session.reset) (base))), (parseMsg (netRequest 0 2 1 0x1150 3 9 0 0 (zeros 56)) 16), by unfold Canonical MailboxForm DictForm TablesForm FlowForm BufForm SchedForm EndpointForm PoldersForm CipherForm SiphonForm JournalForm EventsForm NetAsks NetFresh NoOnChange; decide +kernel⟩,
   ⟨(0), (some 511), (zeros 16), ((netRequest 0 2 1 0x1150 1 1 0 0 ([0]))), ((session1 3 (Session.reset) (base))), (parseMsg (netRequest 0 2 1 0x1150 1 1 0 0 ([0])) 16), by unfold Canonical MailboxForm DictForm TablesForm FlowForm BufForm SchedForm EndpointForm PoldersForm CipherForm SiphonForm JournalForm EventsForm NetAsks NetFresh NoOnChange; decide +kernel⟩,
   ⟨((request 0 2 0x1440 0 9 0 0 (zeros 256))), (holding (request 0 2 0x1440 0 9 0 0 (zeros 256)) (base)), (parseMsg (request 0 2 0x1440 0 9 0 0 (zeros 256)) 0), by unfold MbxHolds NoOnChange; decide +kernel⟩,
   ⟨(0), (some 511), (zeros 16), ((netRequest 0 2 1 0x1440 0 9 0 0 (zeros 256))), ((session1 3 (Session.reset) (base))), (parseMsg (netRequest 0 2 1 0x1440 0 9 0 0 (zeros 256)) 16), by unfold Canonical MailboxForm DictForm TablesForm FlowForm BufForm SchedForm EndpointForm PoldersForm CipherForm SiphonForm JournalForm EventsForm NetAsks NetFresh NoOnChange; decide +kernel⟩⟩

/-- The hypotheses of `Obligations.RegisterAccess` are met. -/
theorem test_RegisterAccess_met :
    (∃ v : Word32, ∃ s : State, ∃ n : Nat, n = bitsOf v.toNat 28 16 ∧ barOpen s 0 = true ∧ v.toNat.testBit 0 = false)
    ∧ (∃ v : Word32, ∃ s : State, ∃ n : Nat, n = bitsOf v.toNat 28 16 ∧ barOpen s 0 = true ∧ v.toNat.testBit 0 = true ∧ (s.mbx.busy = true ∨ n < 28 ∨ 4096 < n))
    ∧ (∃ v : Word32, ∃ s : State, ∃ n : Nat, n = bitsOf v.toNat 28 16 ∧ barOpen s 0 = true ∧ v.toNat.testBit 0 = true ∧ s.mbx.busy = false ∧ 28 ≤ n ∧ n ≤ 4096 ∧ s.mbx.orphans = [] ∧ (badHeader (mbxBytes s n) = false ∨ s.mbx.restart = true))
    ∧ (∃ v : Word32, ∃ s : State, ∃ n : Nat, n = bitsOf v.toNat 28 16 ∧ barOpen s 0 = true ∧ v.toNat.testBit 0 = true ∧ s.mbx.busy = false ∧ 28 ≤ n ∧ n ≤ 4096 ∧ s.mbx.orphans = [] ∧ badHeader (mbxBytes s n) = true ∧ s.mbx.restart = false)
    ∧ (∃ s : State, barOpen s 0 = false ∧ s.ep.link = 2) :=
  ⟨⟨(0), (host), (0), by decide +kernel⟩,
   ⟨(1), (host), (0), by decide +kernel⟩,
   ⟨((BitVec.ofNat 32 1835009)), ({ host with mbx := { host.mbx with restart := true } }), (28), by decide +kernel⟩,
   ⟨((BitVec.ofNat 32 268435457)), (host), (4096), by decide +kernel⟩,
   ⟨({ host with ep := { host.ep with funcs := [] } }), by decide +kernel⟩⟩

/-- Further clauses of `Obligations.RegisterAccess`. -/
theorem test_RegisterAccess_met_2 :
    (∃ v : Nat, ∃ s : State, ∃ k, v < 2 ^ 32 ∧ barOpen s 0 = true ∧ k < 1024)
    ∧ (∃ v : Nat, ∃ s : State, v < 2 ^ 32 ∧ barOpen s 0 = true)
    ∧ (∃ v : Nat, ∃ s : State, v < 2 ^ 32 ∧ barOpen s 0 = true)
    ∧ (∃ v : Nat, ∃ s : State, ∃ g, v < 2 ^ 32 ∧ barOpen s 0 = true ∧ g < 16)
    ∧ (∃ v : Nat, ∃ s : State, ∃ g, v < 2 ^ 32 ∧ barOpen s 0 = true ∧ g < 16) :=
  ⟨⟨(0xFFFFFFFF), (host), (1023), by decide +kernel⟩,
   ⟨(0xFFFFFFFF), (host), by decide +kernel⟩,
   ⟨(0xFFFFFFFF), (host), by decide +kernel⟩,
   ⟨(0xFFFFFFFF), (host), (15), by decide +kernel⟩,
   ⟨(0xFFFFFFFF), (host), (15), by decide +kernel⟩⟩

/-- Further clauses of `Obligations.RegisterAccess`. -/
theorem test_RegisterAccess_met_3 :
    (∃ v : Nat, ∃ s : State, ∃ g, v < 2 ^ 32 ∧ barOpen s 0 = true ∧ g < 16)
    ∧ (∃ v : Nat, ∃ s : State, ∃ g, v < 2 ^ 32 ∧ barOpen s 0 = true ∧ g < 16)
    ∧ (∃ v : Nat, ∃ s : State, ∃ n, v < 2 ^ 32 ∧ barOpen s 0 = true ∧ n < 256)
    ∧ (∃ v : Nat, ∃ s : State, ∃ n, v < 2 ^ 32 ∧ barOpen s 0 = true ∧ n < 256)
    ∧ (∃ (v : Nat) (s : State) (table i : Nat) (op : Nat) (mk : Nat → Nat → Bool → Nat → Instr), v < 2 ^ 32 ∧ barOpen s 0 = true ∧ table < 4 ∧ i < 2 ^ 24 ∧ (op, mk) ∈ [(1, .tblRead), (2, .tblWrite), (3, .tblDelete), (4, .tblSearch), (5, .flushByDest), (6, .ageNow)]) :=
  ⟨⟨(0xFFFFFFFF), (host), (15), by decide +kernel⟩,
   ⟨(0xFFFFFFFF), (host), (15), by decide +kernel⟩,
   ⟨(0xFFFFFFFF), (host), (255), by decide +kernel⟩,
   ⟨(0xFFFFFFFF), (host), (255), by decide +kernel⟩,
   ⟨0, host, 3, 2 ^ 24 - 1, 1, .tblRead, by decide, by decide +kernel, by decide, by decide, by simp⟩⟩

/-- Further clauses of `Obligations.RegisterAccess`. -/
theorem test_RegisterAccess_met_4 :
    (∃ v : Nat, ∃ s : State, ∃ k, v < 2 ^ 32 ∧ barOpen s 0 = true ∧ k < 8 ∧ s.tables.busy = none)
    ∧ (∃ fn : Nat, ∃ q : Nat, ∃ v : Nat, ∃ s : State, v < 2 ^ 32 ∧ barOpen s fn = true ∧ q < 1024 ∧ isProducer (qKind (s.queue fn q)) = true)
    ∧ (∃ fn : Nat, ∃ q : Nat, ∃ v : Nat, ∃ s : State, v < 2 ^ 32 ∧ barOpen s fn = true ∧ q < 1024 ∧ isProducer (qKind (s.queue fn q)) = false)
    ∧ (∃ fn : Nat, ∃ q : Nat, ∃ v : Nat, ∃ s : State, v < 2 ^ 32 ∧ barOpen s fn = true ∧ q < 1024)
    ∧ (∃ fn : Nat, ∃ q : Nat, ∃ v : Nat, ∃ s : State, v < 2 ^ 32 ∧ barOpen s fn = true ∧ q < 1024) :=
  ⟨⟨(0xFFFFFFFF), (host), (7), by decide +kernel⟩,
   ⟨(0), (1023), (0xFFFFFFFF), ((host.setQueue 0 1023 (queueOf 1 []))), by decide +kernel⟩,
   ⟨(0), (1023), (0xFFFFFFFF), ((host.setQueue 0 1023 (queueOf 3 []))), by decide +kernel⟩,
   ⟨(0), (1023), (0xFFFFFFFF), (host), by decide +kernel⟩,
   ⟨(0), (1023), (0xFFFFFFFF), (host), by decide +kernel⟩⟩

/-- Further clauses of `Obligations.RegisterAccess`. -/
theorem test_RegisterAccess_met_5 :
    (∃ fn : Nat, ∃ q : Nat, ∃ v : Nat, ∃ s : State, v < 2 ^ 32 ∧ barOpen s fn = true ∧ q < 1024)
    ∧ (∃ fn : Nat, ∃ q : Nat, ∃ v : Nat, ∃ s : State, v < 2 ^ 32 ∧ barOpen s fn = true ∧ q < 1024)
    ∧ (∃ fn : Nat, ∃ k : Nat, ∃ v : Nat, ∃ s : State, v < 2 ^ 32 ∧ barOpen s fn = true ∧ k < msixSize s fn ∧ k < 2048)
    ∧ (∃ fn : Nat, ∃ off : Nat, ∃ size : Nat, ∃ s : State, barOpen s fn = true ∧ off + size ≤ 2 ^ 16 ∧ (size ≠ 4 ∨ off % 4 ≠ 0))
    ∧ (∃ fn : Nat, ∃ off : Nat, ∃ size : Nat, ∃ s : State, barOpen s fn = true ∧ 2 ^ 26 < off + size) :=
  ⟨⟨(0), (1023), (0xFFFFFFFF), (host), by decide +kernel⟩,
   ⟨(0), (1023), (0xFFFFFFFF), (host), by decide +kernel⟩,
   ⟨(0), (63), (0xFFFFFFFF), (host), by decide +kernel⟩,
   ⟨(0), (0), (2), (host), by decide +kernel⟩,
   ⟨(0), (2 ^ 26 - 3), (4), (host), by decide +kernel⟩⟩

/-- Further clauses of `Obligations.RegisterAccess`. -/
theorem test_RegisterAccess_met_6 :
    (∃ fn : Nat, ∃ s : State, barOpen s fn = false ∧ s.ep.link = 2 ∧ fnExists s fn = true) :=
  ⟨(0), ({ host with ep := { host.ep with funcs := [] } }), by decide +kernel⟩

/-- The hypotheses of `Obligations.StoreIsBusy` are met. -/
theorem test_StoreIsBusy_met :
    (Meets 0x1120 1 (fun _ s => s.dict.storing.isSome = true))
    ∧ (Meets 0x1120 2 (fun _ s => s.dict.storing.isSome = true))
    ∧ (∃ (k : Nat) (mk : Rq → Instr) (t : Nat) (port : Option Nat) (addr b : Bytes) (s : State) (m : Msg), (k, mk) ∈ [(1, Instr.storeAll), (2, .restoreDefaults)] ∧ Canonical s ∧ m = parseMsg b 16 ∧ NetAsks s t port addr b 5 ∧ m.epoch = s.dict.epoch ∧ windowOk (s.session m.session) m.seq = true ∧ (s.session m.session).kept.find? (sameReq m) = none ∧ s.dict.acts.any (sameAct m.session m) = false ∧ m.index = 0x1120 ∧ m.sub = k ∧ m.ty = 0 ∧ m.data = [] ∧ 3 ≤ netRole (advance t s) m.session ∧ s.dict.storing.isSome = true) :=
  ⟨⟨0, (asks 0x1120 1 [] ({ base with dict := { base.dict with storing := some [] } })), (ask 0x1120 1 []), by unfold Asks; decide +kernel⟩,
   ⟨0, (asks 0x1120 2 [] ({ base with dict := { base.dict with storing := some [] } })), (ask 0x1120 2 []), by unfold Asks; decide +kernel⟩,
   ⟨2, .restoreDefaults, 0, some 511, zeros 16, (netRequest 0 5 1 0x1120 2 0 0 0 ([])), (session1 3 (Session.reset) ({ base with dict := { base.dict with storing := some [] } })), parseMsg (netRequest 0 5 1 0x1120 2 0 0 0 ([])) 16, by simp, by unfold Canonical MailboxForm DictForm TablesForm FlowForm BufForm SchedForm EndpointForm PoldersForm CipherForm SiphonForm JournalForm EventsForm NetAsks; decide +kernel⟩⟩

/-- The hypotheses of `Obligations.EnabledPortRefuses` are met. -/
theorem test_EnabledPortRefuses_met :
    (∃ p : Nat, ∃ k : Nat, ∃ b : Bytes, ∃ s : State, ∃ m : Msg, p < 512 ∧ (k = 1 ∨ k = 3 ∨ k = 4) ∧ adminEnable s p = true ∧ m = parseMsg b 0 ∧ m.index = 0x2000 + p ∧ m.sub = k ∧ MbxHolds s b 2)
    ∧ (∃ p : Nat, ∃ k : Nat, ∃ b : Bytes, ∃ s : State, ∃ m : Msg, p < 512 ∧ (k = 1 ∨ k = 3 ∨ k = 4) ∧ adminEnable s p = true ∧ m = parseMsg b 0 ∧ m.index = 0x2000 + p ∧ m.sub = k ∧ MbxHolds s b 4 ∧ m.flags.testBit 2 = false)
    ∧ (∃ (p k t kind : Nat) (mk : Rq → Instr) (port : Option Nat) (addr b : Bytes) (s : State) (m : Msg), (kind, mk) ∈ [(2, Instr.write), (4, .writeBlock)] ∧ Canonical s ∧ p < 512 ∧ (k = 1 ∨ k = 3 ∨ k = 4) ∧ adminEnable s p = true ∧ m = parseMsg b 16 ∧ m.index = 0x2000 + p ∧ m.sub = k ∧ m.flags.testBit 2 = false ∧ NetAsks s t port addr b kind ∧ NetFresh s b) :=
  ⟨⟨(511), (4), ((request 0 2 0x21FF 4 2 0 0 [0])), (holding (request 0 2 0x21FF 4 2 0 0 [0]) (having [(0x21FF, 2, [1])] base)), (parseMsg (request 0 2 0x21FF 4 2 0 0 [0]) 0), by unfold MbxHolds; decide +kernel⟩,
   ⟨(511), (3), ((request 0 4 0x21FF 3 2 0 1 [0])), (holding (request 0 4 0x21FF 3 2 0 1 [0]) (having [(0x21FF, 2, [1])] base)), (parseMsg (request 0 4 0x21FF 3 2 0 1 [0]) 0), by unfold MbxHolds; decide +kernel⟩,
   ⟨511, 1, 0, 4, .writeBlock, some 511, zeros 16, (netRequest 0 4 1 0x21FF 1 2 0 1 ([1])), (session1 3 (Session.reset) (having [(0x21FF, 2, [1])] base)), parseMsg (netRequest 0 4 1 0x21FF 1 2 0 1 ([1])) 16, by simp, by unfold Canonical MailboxForm DictForm TablesForm FlowForm BufForm SchedForm EndpointForm PoldersForm CipherForm SiphonForm JournalForm EventsForm NetAsks NetFresh; decide +kernel⟩⟩

/-- The hypotheses of `Obligations.StartSequence` are met. -/
theorem test_StartSequence_met :
    (∃ s : State, s.board.released = false ∧ s.board.perstLow = true)
    ∧ (∃ s : State, s.board.released = true)
    ∧ (∃ s : State, s.board.released = false ∧ s.board.perstLow = false ∧ s.boot.started = false ∧ slotValid s (bcbSlot s.boot.bcb) = true)
    ∧ (∃ s : State, s.board.released = false ∧ s.board.perstLow = false ∧ s.boot.started = false ∧ slotValid s (bcbSlot s.boot.bcb) = false ∧ slotValid s (1 - bcbSlot s.boot.bcb) = true)
    ∧ (∃ s : State, s.board.released = false ∧ s.board.perstLow = false ∧ s.boot.started = false ∧ slotValid s (bcbSlot s.boot.bcb) = false ∧ slotValid s (1 - bcbSlot s.boot.bcb) = false) :=
  ⟨⟨({ base with boot := { base.boot with started := base.boot.started }, board := { base.board with perstLow := true } }), by decide +kernel⟩,
   ⟨({ base with boot := { base.boot with started := base.boot.started }, board := { base.board with released := true } }), by decide +kernel⟩,
   ⟨({ base with boot := { base.boot with slots := [{ state := 2, other := 0, hdr := { ImgHdr.none with secVersion := 1, heartbeat := 50 } }, Slot.erased] }, board := { base.board with perstLow := false } }), by decide +kernel⟩,
   ⟨({ base with boot := { base.boot with slots := [Slot.erased, { state := 2, other := 0, hdr := { ImgHdr.none with secVersion := 1, heartbeat := 50 } }] }, board := { base.board with perstLow := false } }), by decide +kernel⟩,
   ⟨({ base with boot := { base.boot with slots := [Slot.erased, Slot.erased] }, board := { base.board with perstLow := false } }), by decide +kernel⟩⟩

/-- Further clauses of `Obligations.StartSequence`. -/
theorem test_StartSequence_met_2 :
    (∃ t : Nat, ∃ s : State, s.board.perstLow = true ∧ s.board.resetDue = false ∧ s.boot.started = true ∧ (s.board.retention = false ∨ t < s.board.perstAt + 10 ^ 15))
    ∧ (∃ t : Nat, ∃ s : State, s.board.perstLow = true ∧ s.board.resetDue = false ∧ s.boot.started = true ∧ s.board.retention = true ∧ s.board.perstAt + 10 ^ 15 ≤ t ∧ s.jrn.state ≠ 3 ∧ cacheDirty s = false ∧ s.board.released = true ∧ slotValid s (bcbSlot s.boot.bcb) = true)
    ∧ (∃ t : Nat, ∃ s : State, s.board.perstLow = true ∧ s.board.resetDue = false ∧ s.boot.started = true ∧ s.board.retention = true ∧ s.board.perstAt + 10 ^ 15 ≤ t ∧ s.jrn.state ≠ 3 ∧ cacheDirty s = true)
    ∧ (∃ t : Nat, ∃ s : State, s.board.perstLow = true ∧ s.board.resetDue = false ∧ s.boot.started = true ∧ s.board.retention = true ∧ s.board.perstAt + 10 ^ 15 ≤ t ∧ s.jrn.state = 3)
    ∧ (∃ s : State, s.board.perstLow = true ∧ s.board.resetDue = false ∧ s.boot.started = false ∧ (s.board.released = false ∨ s.board.drainWait = true)) :=
  ⟨⟨(0), ({ base with boot := { base.boot with started := true }, board := { base.board with perstLow := true } }), by decide +kernel⟩,
   ⟨(1000000000000000), ({ base with boot := { base.boot with slots := [{ state := 2, other := 0, hdr := { ImgHdr.none with secVersion := 1, heartbeat := 50 } }, Slot.erased], started := true }, board := { base.board with perstLow := true, retention := true, released := true } }), by decide +kernel⟩,
   ⟨(1000000000000000), ({ base with boot := { base.boot with started := true }, board := { base.board with perstLow := true, retention := true }, jrn := (base.setCart 1 { CartSlot.reset with dirty := [{ id := 1, job := 1, src := none, ref := 0, ns := 0, before := 0, blocks := [], slots := [], ready := true, failed := false, ends := some 0 }] }).jrn }), by decide +kernel⟩,
   ⟨(1000000000000000), ({ base with boot := { base.boot with started := true }, board := { base.board with perstLow := true, retention := true }, jrn := { base.jrn with state := 3 } }), by decide +kernel⟩,
   ⟨({ base with boot := { base.boot with started := base.boot.started }, board := { base.board with perstLow := true } }), by decide +kernel⟩⟩

/-- Further clauses of `Obligations.StartSequence`. -/
theorem test_StartSequence_met_3 :
    (∃ s : State, s.board.perstLow = true ∧ s.board.resetDue = false ∧ s.boot.started = false ∧ s.board.released = true ∧ s.board.drainWait = false ∧ slotValid s (bcbSlot s.boot.bcb) = true)
    ∧ (∃ s : State, s.board.perstLow = true ∧ s.board.resetDue = true ∧ s.jrn.state = 3)
    ∧ (∃ s : State, s.board.perstLow = false)
    ∧ (∃ md : Nat, ∃ s : State, s.boot.started = true ∧ s.boot.bootStatus ≠ 2 ∧ md < 2)
    ∧ (∃ s : State, (s.boot.started = false ∨ s.boot.bootStatus = 2)) :=
  ⟨⟨({ base with boot := { base.boot with slots := [{ state := 2, other := 0, hdr := { ImgHdr.none with secVersion := 1, heartbeat := 50 } }, Slot.erased] }, board := { base.board with perstLow := true, released := true } }), by decide +kernel⟩,
   ⟨({ base with boot := { base.boot with started := true }, board := { base.board with perstLow := true, resetDue := true }, jrn := { base.jrn with state := 3 } }), by decide +kernel⟩,
   ⟨({ base with boot := { base.boot with started := base.boot.started }, board := { base.board with perstLow := false } }), by decide +kernel⟩,
   ⟨(1), ({ base with boot := { base.boot with started := true }, board := { base.board with released := base.board.released } }), by decide +kernel⟩,
   ⟨(base), by decide +kernel⟩⟩

/-- Further clauses of `Obligations.StartSequence`. -/
theorem test_StartSequence_met_4 :
    (∃ s : State, s.boot.started = true ∧ s.ep.link ≠ 3)
    ∧ (∃ s : State, s.boot.started = true ∧ s.boot.bootStatus ≠ 2 ∧ s.boot.fieldUp = false ∧ s.boot.ddrTrained = [true, true])
    ∧ (∃ s : State, (s.boot.started = false ∨ s.boot.bootStatus = 2 ∨ s.boot.fieldUp = true ∨ s.boot.ddrTrained ≠ [true, true]))
    ∧ (∃ s : State, s.boot.fieldUp = true ∧ s.boot.journalSet = false ∧ (∀ i < 2, (s.cart i).present = true → dieServes s (4 + i) = true → (s.cart i).state ≠ 0 ∧ (s.cart i).state ≠ 1) ∧ s.jrn.state = 0)
    ∧ (∃ s : State, s.boot.fieldUp = true ∧ s.boot.journalSet = false ∧ (∀ i < 2, (s.cart i).present = true → dieServes s (4 + i) = true → (s.cart i).state ≠ 0 ∧ (s.cart i).state ≠ 1) ∧ s.jrn.state ≠ 0) :=
  ⟨⟨({ base with boot := { base.boot with started := true }, board := { base.board with released := base.board.released } }), by decide +kernel⟩,
   ⟨({ base with boot := { base.boot with started := true, ddrTrained := [true, true] }, board := { base.board with released := base.board.released } }), by decide +kernel⟩,
   ⟨(base), by decide +kernel⟩,
   ⟨({ base with boot := { base.boot with fieldUp := true }, board := { base.board with released := base.board.released } }), by decide +kernel⟩,
   ⟨({ base with boot := { base.boot with fieldUp := true }, board := { base.board with released := base.board.released }, jrn := { base.jrn with state := 1 } }), by decide +kernel⟩⟩

/-- Further clauses of `Obligations.StartSequence`. -/
theorem test_StartSequence_met_5 :
    (∃ s : State, (s.boot.fieldUp = false ∨ s.boot.journalSet = true ∨ (∃ i < 2, (s.cart i).present = true ∧ dieServes s (4 + i) = true ∧ ((s.cart i).state = 0 ∨ (s.cart i).state = 1)))) :=
  ⟨(base), .inl (by decide +kernel)⟩

/-- The hypotheses of `Obligations.ResetsAndFaults` are met. -/
theorem test_ResetsAndFaults_met :
    (∃ s : State, ∃ i, (slotNo s i).state ≠ 1)
    ∧ (∃ s : State, ∃ i, (slotNo s i).state = 1)
    ∧ (∃ i, i < 2)
    ∧ (∃ i, i < 2)
    ∧ (∃ s : State, s.board.perstLow = true) :=
  ⟨⟨(base), (5), by decide +kernel⟩,
   ⟨({ base with boot := { base.boot with slots := [Slot.erased, { state := 1, other := 0, hdr := ImgHdr.none }] }, board := { base.board with released := base.board.released } }), (1), by decide +kernel⟩,
   ⟨(1), by decide +kernel⟩,
   ⟨(1), by decide +kernel⟩,
   ⟨({ base with boot := { base.boot with started := base.boot.started }, board := { base.board with perstLow := true } }), by decide +kernel⟩⟩

/-- Further clauses of `Obligations.ResetsAndFaults`. -/
theorem test_ResetsAndFaults_met_2 :
    (∃ keep : Bool, ∃ s : State, s.board.perstLow = false ∧ keep = decide (cfgN s 0x4000 1 = 1) ∧ s.boot.started = false)
    ∧ (∃ keep : Bool, ∃ s : State, s.board.perstLow = false ∧ keep = decide (cfgN s 0x4000 1 = 1) ∧ s.boot.started = true ∧ keep = true ∧ s.boot.fieldUp = true)
    ∧ (∃ keep : Bool, ∃ s : State, s.board.perstLow = false ∧ keep = decide (cfgN s 0x4000 1 = 1) ∧ s.boot.started = true ∧ (keep = false ∨ s.boot.fieldUp = false) ∧ s.jrn.state = 3)
    ∧ (∃ keep : Bool, ∃ s : State, s.board.perstLow = false ∧ keep = decide (cfgN s 0x4000 1 = 1) ∧ s.boot.started = true ∧ (keep = false ∨ s.boot.fieldUp = false) ∧ s.jrn.state ≠ 3 ∧ cacheDirty s = false)
    ∧ (∃ keep : Bool, ∃ s : State, s.board.perstLow = false ∧ keep = decide (cfgN s 0x4000 1 = 1) ∧ s.boot.started = true ∧ (keep = false ∨ s.boot.fieldUp = false) ∧ s.jrn.state ≠ 3 ∧ cacheDirty s = true ∧ Tab.wf CartSlot.reset s.jrn.slots = true) :=
  ⟨⟨(true), (having [(0x4000, 1, [1])] { base with boot := { base.boot with started := base.boot.started }, board := { base.board with perstLow := false } }), by decide +kernel⟩,
   ⟨(true), (having [(0x4000, 1, [1])] { base with boot := { base.boot with started := true, fieldUp := true }, board := { base.board with perstLow := false } }), by decide +kernel⟩,
   ⟨(false), (having [(0x4000, 1, [0])] { base with boot := { base.boot with started := true }, board := { base.board with perstLow := false }, jrn := { base.jrn with state := 3 } }), by decide +kernel⟩,
   ⟨(false), (having [(0x4000, 1, [0])] { base with boot := { base.boot with started := true }, board := { base.board with perstLow := false } }), by decide +kernel⟩,
   ⟨(false), (having [(0x4000, 1, [0])] { base with boot := { base.boot with started := true }, board := { base.board with perstLow := false }, jrn := (base.setCart 1 { CartSlot.reset with dirty := [{ id := 1, job := 1, src := none, ref := 0, ns := 0, before := 0, blocks := [], slots := [], ready := true, failed := false, ends := some 0 }] }).jrn }), by decide +kernel⟩⟩

/-- Further clauses of `Obligations.ResetsAndFaults`. -/
theorem test_ResetsAndFaults_met_3 :
    (∃ t : Nat, ∃ s : State, s.board.perstLow = true ∧ s.board.retention = true ∧ s.boot.started = true ∧ s.board.perstAt + 10 ^ 15 ≤ t ∧ s.jrn.state ≠ 3 ∧ cacheDirty s = false)
    ∧ (∃ t : Nat, ∃ s : State, s.board.perstLow = true ∧ s.board.retention = true ∧ s.boot.started = true ∧ s.board.perstAt + 10 ^ 15 ≤ t ∧ s.jrn.state ≠ 3 ∧ cacheDirty s = true ∧ Tab.wf CartSlot.reset s.jrn.slots = true)
    ∧ (∃ t : Nat, ∃ s : State, s.board.perstLow = true ∧ s.board.retention = true ∧ s.boot.started = true ∧ s.board.perstAt + 10 ^ 15 ≤ t ∧ s.jrn.state = 3)
    ∧ (∃ t : Nat, ∃ s : State, (s.board.perstLow = false ∨ s.board.retention = false ∨ s.boot.started = false ∨ t < s.board.perstAt + 10 ^ 15))
    ∧ (∃ s : State, s.board.drainWait = false) :=
  ⟨⟨(1000000000000000), ({ base with boot := { base.boot with started := true }, board := { base.board with perstLow := true, retention := true } }), by decide +kernel⟩,
   ⟨(1000000000000000), ({ base with boot := { base.boot with started := true }, board := { base.board with perstLow := true, retention := true }, jrn := (base.setCart 1 { CartSlot.reset with dirty := [{ id := 1, job := 1, src := none, ref := 0, ns := 0, before := 0, blocks := [], slots := [], ready := true, failed := false, ends := some 0 }] }).jrn }), by decide +kernel⟩,
   ⟨(1000000000000000), ({ base with boot := { base.boot with started := true }, board := { base.board with perstLow := true, retention := true }, jrn := { base.jrn with state := 3 } }), by decide +kernel⟩,
   ⟨(0), ({ base with boot := { base.boot with slots := [{ state := 2, other := 0, hdr := { ImgHdr.none with secVersion := 1, heartbeat := 50 } }, Slot.erased] }, board := { base.board with drainWait := true, released := true, perstLow := false } }), by decide +kernel⟩,
   ⟨(base), by decide +kernel⟩⟩

/-- Further clauses of `Obligations.ResetsAndFaults`. -/
theorem test_ResetsAndFaults_met_4 :
    (∃ s : State, s.board.drainWait = true ∧ s.board.perstLow = true)
    ∧ (∃ s : State, s.board.drainWait = true ∧ s.board.perstLow = false ∧ s.board.released = true ∧ slotValid s (bcbSlot s.boot.bcb) = true)
    ∧ (∃ s : State, s.jrn.state = 3 ∧ s.board.resetDue = false)
    ∧ (∃ s : State, s.jrn.state = 3 ∧ s.board.resetDue = true ∧ s.board.perstLow = true)
    ∧ (∃ s : State, s.jrn.state = 3 ∧ s.board.resetDue = true ∧ s.board.perstLow = false ∧ s.board.released = true ∧ slotValid s (bcbSlot s.boot.bcb) = true) :=
  ⟨⟨({ base with boot := { base.boot with started := base.boot.started }, board := { base.board with drainWait := true, perstLow := true } }), by decide +kernel⟩,
   ⟨({ base with boot := { base.boot with slots := [{ state := 2, other := 0, hdr := { ImgHdr.none with secVersion := 1, heartbeat := 50 } }, Slot.erased] }, board := { base.board with drainWait := true, released := true, perstLow := false } }), by decide +kernel⟩,
   ⟨({ base with boot := { base.boot with started := base.boot.started }, board := { base.board with perstLow := false }, jrn := { base.jrn with state := 3 } }), by decide +kernel⟩,
   ⟨({ base with boot := { base.boot with started := base.boot.started }, board := { base.board with resetDue := true, perstLow := true }, jrn := { base.jrn with state := 3 } }), by decide +kernel⟩,
   ⟨({ base with boot := { base.boot with slots := [{ state := 2, other := 0, hdr := { ImgHdr.none with secVersion := 1, heartbeat := 50 } }, Slot.erased] }, board := { base.board with resetDue := true, perstLow := false, released := true }, jrn := { base.jrn with state := 3 } }), by decide +kernel⟩⟩

/-- Further clauses of `Obligations.ResetsAndFaults`. -/
theorem test_ResetsAndFaults_met_5 :
    (∃ s : State, s.jrn.state ≠ 3)
    ∧ (∃ rail : Nat, rail < 8)
    ∧ (∃ rail : Nat, 8 ≤ rail) :=
  ⟨⟨(base), by decide +kernel⟩,
   ⟨(7), by decide +kernel⟩,
   ⟨(8), by decide +kernel⟩⟩

/-- The hypotheses of `Obligations.FullResetAtOneSecond` are met. -/
theorem test_FullResetAtOneSecond_met :
    (∃ s : State, s.board.perstLow = false ∧ cfgN s 0x4000 1 = 1 ∧ s.boot.started = true ∧ s.boot.fieldUp = true) :=
  ⟨(having [(0x4000, 1, [1])] { base with boot := { base.boot with started := true, fieldUp := true }, board := { base.board with perstLow := false } }), by decide +kernel⟩

/-- The hypotheses of `Obligations.FirmwareActivation` are met. -/
theorem test_FirmwareActivation_met :
    (Meets 0x1411 0 (fun _ s => slotValid s (1 - s.boot.slot) = true ∧ s.boot.actStage = .idle ∧ s.dict.acts = [] ∧ (∀ e ∈ s.polders.tab, e.2.state ≠ 2)))
    ∧ (Meets 0x1411 0 (fun _ s => slotValid s (1 - s.boot.slot) = false ∧ ∀ p ∈ s.dict.acts, p.act = .storeAll ∨ p.act = .restoreDefaults))
    ∧ (Meets 0x1411 0 (fun _ s => slotValid s (1 - s.boot.slot) = true ∧ (∀ p ∈ s.dict.acts, p.act = .storeAll ∨ p.act = .restoreDefaults) ∧ (s.dict.acts ≠ [] ∨ (∃ e ∈ s.polders.tab, e.2.state = 2) ∨ s.boot.actStage ≠ .idle)))
    ∧ (∃ s : State, (∃ p ∈ s.dict.acts, p.act ≠ .storeAll ∧ p.act ≠ .restoreDefaults))
    ∧ (∃ reason : Nat, ∃ s : State, s.boot.actStage = .reading ∧ reason = 0 ∧ slotValid s (1 - s.boot.slot) = true) :=
  ⟨⟨0, (asks 0x1411 0 [] ({ base with boot := { base.boot with slots := [Slot.erased, { state := 2, other := 0, hdr := { ImgHdr.none with secVersion := 1, heartbeat := 50 } }] }, board := { base.board with released := base.board.released } })), (ask 0x1411 0 []), by unfold Asks; decide +kernel⟩,
   ⟨0, (asks 0x1411 0 [] (base)), (ask 0x1411 0 []), by unfold Asks; decide +kernel⟩,
   ⟨0, (asks 0x1411 0 [] ({ base with boot := { base.boot with slots := [Slot.erased, { state := 2, other := 0, hdr := { ImgHdr.none with secVersion := 1, heartbeat := 50 } }], actStage := .checked }, board := { base.board with released := base.board.released } })), (ask 0x1411 0 []), by unfold Asks; decide +kernel⟩,
   ⟨({ base with dict := { base.dict with acts := [{ act := .flowClear, req := reqHead (mbxReq base true (ask 0x2A02 0 [])), repeats := 0 }] } }), by decide +kernel⟩,
   ⟨(0), ({ base with boot := { base.boot with actStage := .reading, slots := [Slot.erased, { state := 2, other := 0, hdr := { ImgHdr.none with secVersion := 1, heartbeat := 50 } }] }, board := { base.board with released := base.board.released } }), by decide +kernel⟩⟩

/-- Further clauses of `Obligations.FirmwareActivation`. -/
theorem test_FirmwareActivation_met_2 :
    (∃ reason : Nat, ∃ s : State, s.boot.actStage = .reading ∧ reason = 0 ∧ slotValid s (1 - s.boot.slot) = false)
    ∧ (∃ reason : Nat, ∃ s : State, s.boot.actStage = .reading ∧ reason ≠ 0 ∧ s.boot.slots.length = 2 ∧ s.boot.slot ≤ 1)
    ∧ (∃ s : State, s.boot.actStage ≠ .reading)
    ∧ (∃ t : Nat, ∃ s : State, (s.boot.actStage = .reading ∨ s.boot.actStage = .checked) ∧ s.boot.actAt + 180 * 10 ^ 12 ≤ t)
    ∧ (∃ t : Nat, ∃ s : State, (s.boot.actStage = .reading ∨ s.boot.actStage = .checked) ∧ t < s.boot.actAt + 180 * 10 ^ 12) :=
  ⟨⟨(0), ({ base with boot := { base.boot with actStage := .reading }, board := { base.board with released := base.board.released } }), by decide +kernel⟩,
   ⟨(1), ({ base with boot := { base.boot with actStage := .reading }, board := { base.board with released := base.board.released } }), by decide +kernel⟩,
   ⟨(base), by decide +kernel⟩,
   ⟨(180000000000000), ({ base with boot := { base.boot with actStage := .checked }, board := { base.board with released := base.board.released } }), by decide +kernel⟩,
   ⟨(179999999999999), ({ base with boot := { base.boot with actStage := .reading }, board := { base.board with released := base.board.released } }), by decide +kernel⟩⟩

/-- Further clauses of `Obligations.FirmwareActivation`. -/
theorem test_FirmwareActivation_met_3 :
    (∃ s : State, (s.boot.actStage = .idle ∨ s.boot.actStage = .failed))
    ∧ (∃ t : Nat, ∃ s : State, ∃ n : Nat, n = 1 - s.boot.slot ∧ s.boot.actStage = .checked ∧ t ≤ s.boot.actAt + 180 * 10 ^ 12 ∧ s.boot.bootStatus ≠ 2)
    ∧ (∃ t : Nat, ∃ s : State, ∃ n : Nat, n = 1 - s.boot.slot ∧ s.boot.actStage = .checked ∧ t ≤ s.boot.actAt + 180 * 10 ^ 12 ∧ s.boot.bootStatus = 2)
    ∧ (∃ t : Nat, ∃ s : State, s.boot.actStage = .checked ∧ s.boot.actAt + 180 * 10 ^ 12 < t)
    ∧ (∃ s : State, s.boot.actStage ≠ .checked) :=
  ⟨⟨(base), by decide +kernel⟩,
   ⟨(0), ({ base with boot := { base.boot with actStage := .checked }, board := { base.board with released := base.board.released } }), (1), by decide +kernel⟩,
   ⟨(0), ({ base with boot := { base.boot with actStage := .checked, bootStatus := 2 }, board := { base.board with released := base.board.released } }), (1), by decide +kernel⟩,
   ⟨(180000000000001), ({ base with boot := { base.boot with actStage := .checked }, board := { base.board with released := base.board.released } }), by decide +kernel⟩,
   ⟨(base), by decide +kernel⟩⟩

/-- Further clauses of `Obligations.FirmwareActivation`. -/
theorem test_FirmwareActivation_met_4 :
    (Meets 0x1412 0 (fun _ s => s.boot.rollback ≠ s.boot.running.secVersion ∧ s.boot.bootStatus ≠ 2))
    ∧ (Meets 0x1412 0 (fun _ s => s.boot.rollback = s.boot.running.secVersion))
    ∧ (Meets 0x1432 0 (fun _ _ => True)) :=
  ⟨⟨0, (asks 0x1412 0 [] ({ base with boot := { base.boot with rollback := 5, running := { ImgHdr.none with secVersion := 6 } }, board := { base.board with released := base.board.released } })), (ask 0x1412 0 []), by unfold Asks; decide +kernel⟩,
   ⟨0, (asks 0x1412 0 [] ({ base with boot := { base.boot with rollback := 6, running := { ImgHdr.none with secVersion := 6 } }, board := { base.board with released := base.board.released } })), (ask 0x1412 0 []), by unfold Asks; decide +kernel⟩,
   ⟨0, (asks 0x1432 0 [] (base)), (ask 0x1432 0 []), by unfold Asks; decide +kernel⟩⟩

/-- The hypotheses of `Obligations.DikeRestarts` are met. -/
theorem test_DikeRestarts_met :
    (∃ t : Nat, ∃ s : State, s.boot.coresUp = true ∧ s.boot.dikeState = 0 ∧ t ≤ s.boot.hbAt + min 50 s.boot.running.heartbeat * 10 ^ 12)
    ∧ (∃ t : Nat, ∃ s : State, s.boot.coresUp = true ∧ s.boot.dikeState = 0 ∧ s.boot.hbAt + min 50 s.boot.running.heartbeat * 10 ^ 12 < t)
    ∧ (∃ s : State, (s.boot.coresUp = false ∨ s.boot.dikeState ≠ 0))
    ∧ (∃ t : Nat, ∃ s : State, s.boot.started = true ∧ s.boot.coresUp = true ∧ s.boot.dikeState = 0 ∧ s.boot.actStage = .idle ∧ t < s.boot.hbAt + min 50 s.boot.running.heartbeat * 10 ^ 12)
    ∧ (∃ t : Nat, ∃ s : State, s.boot.started = true ∧ s.boot.coresUp = true ∧ s.boot.dikeState = 0 ∧ s.boot.actStage = .idle ∧ s.boot.hbAt + min 50 s.boot.running.heartbeat * 10 ^ 12 ≤ t ∧ s.boot.slots.length = 2 ∧ s.boot.slot ≤ 1) :=
  ⟨⟨(50000000000000), ({ base with boot := { base.boot with started := true, coresUp := true, running := { ImgHdr.none with secVersion := 1, heartbeat := 50 } }, board := { base.board with released := base.board.released } }), by decide +kernel⟩,
   ⟨(50000000000001), ({ base with boot := { base.boot with started := true, coresUp := true, running := { ImgHdr.none with secVersion := 1, heartbeat := 50 } }, board := { base.board with released := base.board.released } }), by decide +kernel⟩,
   ⟨(base), by decide +kernel⟩,
   ⟨(0), ({ base with boot := { base.boot with started := true, coresUp := true, running := { ImgHdr.none with secVersion := 1, heartbeat := 50 } }, board := { base.board with released := base.board.released } }), by decide +kernel⟩,
   ⟨(50000000000000), ({ base with boot := { base.boot with started := true, coresUp := true, running := { ImgHdr.none with secVersion := 1, heartbeat := 50 } }, board := { base.board with released := base.board.released } }), by decide +kernel⟩⟩

/-- Further clauses of `Obligations.DikeRestarts`. -/
theorem test_DikeRestarts_met_2 :
    (∃ t : Nat, ∃ n : Nat, ∃ b : Bytes, ∃ s : State, Canonical s ∧ n < 4096 ∧ s.boot.started = true ∧ s.boot.coresUp = true ∧ s.boot.dikeState = 0 ∧ s.boot.actStage = .idle ∧ s.boot.hbAt + min 50 s.boot.running.heartbeat * 10 ^ 12 ≤ t ∧ Asks (advance t s) b (0x3000 + n) 0x10 ∧ commitAborts (advance t s) true n = [])
    ∧ (∃ s : State, (s.boot.started = false ∨ s.boot.coresUp = false ∨ s.boot.dikeState ≠ 0 ∨ s.boot.actStage ≠ .idle))
    ∧ (∃ s : State, s.boot.actStage = .failed)
    ∧ (∃ s : State, s.boot.actStage ≠ .failed ∧ s.boot.dikeState = 1)
    ∧ (∃ s : State, s.boot.actStage ≠ .failed ∧ s.boot.dikeState ≠ 1) :=
  ⟨⟨(50000000000000), (1), ((ask 0x3001 0x10 [])), (asks 0x3001 0x10 [] ({ base with boot := { base.boot with started := true, coresUp := true, running := { ImgHdr.none with secVersion := 1, heartbeat := 50 } }, board := { base.board with released := base.board.released } })), by unfold Canonical MailboxForm DictForm TablesForm FlowForm BufForm SchedForm EndpointForm PoldersForm CipherForm SiphonForm JournalForm EventsForm Asks; decide +kernel⟩,
   ⟨(base), by decide +kernel⟩,
   ⟨({ base with boot := { base.boot with actStage := .failed }, board := { base.board with released := base.board.released } }), by decide +kernel⟩,
   ⟨({ base with boot := { base.boot with dikeState := 1 }, board := { base.board with released := base.board.released } }), by decide +kernel⟩,
   ⟨(base), by decide +kernel⟩⟩

/-- The hypotheses of `Obligations.SelfTests` are met. -/
theorem test_SelfTests_met :
    (∃ d, d < 4 ∧ Meets 0x1500 2 (fun x s => beNat x = d ∧ ∀ e ∈ s.test.die, e.2 = 0))
    ∧ (∃ md, md < 2 ∧ Meets 0x1500 2 (fun x s => beNat x = 4 + md ∧ (∀ e ∈ s.test.die, e.2 = 0) ∧ flowUsed s = false ∧ (s.cart md).state ∈ [0, 2, 6, 7] ∧ regionOn s md = false))
    ∧ (Meets 0x1500 2 (fun x s => 7 < beNat x ∧ ∀ e ∈ s.test.die, e.2 = 0))
    ∧ (Meets 0x1500 2 (fun x s => beNat x = 6 ∨ beNat x = 7 ∨ ∃ e ∈ s.test.die, e.2 ≠ 0))
    ∧ (Meets 0x1500 2 (fun x s => (beNat x = 4 ∨ beNat x = 5) ∧ (flowUsed s = true ∨ (s.cart (beNat x - 4)).state ∉ [0, 2, 6, 7] ∨ regionOn s (beNat x - 4) = true))) :=
  ⟨⟨3, by decide, 0, (asks 0x1500 2 [3] (base)), (ask 0x1500 2 [3]), by unfold Asks; decide +kernel⟩,
   ⟨1, by decide, 0, (asks 0x1500 2 [5] (base)), (ask 0x1500 2 [5]), by unfold Asks; decide +kernel⟩,
   ⟨0, (asks 0x1500 2 [8] (base)), (ask 0x1500 2 [8]), by unfold Asks; decide +kernel⟩,
   ⟨0, (asks 0x1500 2 [6] (base)), (ask 0x1500 2 [6]), by unfold Asks; decide +kernel⟩,
   ⟨0, (asks 0x1500 2 [5] ({ base with flow := { base.flow with entries := [(0, { key := ([8, 6] ++ zeros 50), ctx := 0 })], ctxs := [(0, { Ctx.reset with active := true, idle := 1, key := ([8, 6] ++ zeros 50) })], cache := [(0, 1)] } })), (ask 0x1500 2 [5]), by unfold Asks; decide +kernel⟩⟩

/-- Further clauses of `Obligations.SelfTests`. -/
theorem test_SelfTests_met_2 :
    (∃ die : Nat, ∃ sig : Nat, ∃ s : State, ∃ good : Bool, testDie s die = 1 ∧ good = decide (sig % 2 ^ 64 = s.boot.running.misr.getD die 0) ∧ Tab.wf 0 s.test.sig = true)
    ∧ (∃ die : Nat, ∃ s : State, testDie s die ≠ 1)
    ∧ (Meets 0x1500 3 (fun x s => beNat x ≤ 7 ∧ testDie s (beNat x) = 3))
    ∧ (Meets 0x1500 3 (fun x s => testDie s (beNat x) ≠ 3))
    ∧ (∃ die : Nat, ∃ s : State, Canonical s ∧ Tab.wf 0 s.test.die = true ∧ testDie s die = 2 ∧ die < 4) :=
  ⟨⟨(7), (0xFFFFFFFFFFFFFFFF), ({ base with test := { base.test with die := [(7, 1)] } }), (false), by decide +kernel⟩,
   ⟨(0), (base), by decide +kernel⟩,
   ⟨0, (asks 0x1500 3 [7] ({ base with test := { base.test with die := [(7, 3)] } })), (ask 0x1500 3 [7]), by unfold Asks; decide +kernel⟩,
   ⟨0, (asks 0x1500 3 [7] (base)), (ask 0x1500 3 [7]), by unfold Asks; decide +kernel⟩,
   ⟨(3), ({ base with test := { base.test with die := [(3, 2)] } }), by unfold Canonical MailboxForm DictForm TablesForm FlowForm BufForm SchedForm EndpointForm PoldersForm CipherForm SiphonForm JournalForm EventsForm; decide +kernel⟩⟩

/-- Further clauses of `Obligations.SelfTests`. -/
theorem test_SelfTests_met_3 :
    (∃ md : Nat, ∃ s : State, Tab.wf 0 s.test.die = true ∧ testDie s (4 + md) = 2 ∧ md < 2)
    ∧ (∃ die : Nat, ∃ s : State, testDie s die ≠ 2)
    ∧ (∃ (k : Nat) (c : Instr) (s : State), (k, c) ∈ [(0, Instr.extest), (8, .extestPulse), (9, .extestTrain)] ∧ s.board.perstLow = true)
    ∧ (∃ (k : Nat) (c : Instr) (s : State), (k, c) ∈ [(0, Instr.extest), (8, .extestPulse), (9, .extestTrain)] ∧ s.board.perstLow = false)
    ∧ (∃ (k : Nat) (c : Instr) (s : State), (k, c) ∈ [(5, Instr.clamp), (6, .highz)] ∧ s.board.perstLow = true) :=
  ⟨⟨(1), ({ base with test := { base.test with die := [(5, 2)] } }), by decide +kernel⟩,
   ⟨(0), (base), by decide +kernel⟩,
   ⟨9, .extestTrain, { base with boot := { base.boot with started := base.boot.started }, board := { base.board with perstLow := true } }, by simp, by decide +kernel⟩,
   ⟨9, .extestTrain, { base with boot := { base.boot with started := base.boot.started }, board := { base.board with perstLow := false } }, by simp, by decide +kernel⟩,
   ⟨6, .highz, { base with boot := { base.boot with started := base.boot.started }, board := { base.board with perstLow := true } }, by simp, by decide +kernel⟩⟩

/-- Further clauses of `Obligations.SelfTests`. -/
theorem test_SelfTests_met_4 :
    (∃ (k : Nat) (c : Instr) (s : State), (k, c) ∈ [(5, Instr.clamp), (6, .highz)] ∧ s.board.perstLow = false) :=
  ⟨6, .highz, { base with boot := { base.boot with started := base.boot.started }, board := { base.board with perstLow := false } }, by simp, by decide +kernel⟩

/-- The hypotheses of `Obligations.StepTakesFront` are met. -/
theorem test_StepTakesFront_met :
    (∃ c : Instr, ∃ rest : List Instr, ∃ s : State, s.pending = c :: rest)
    ∧ (∃ s : State, s.pending = []) :=
  ⟨⟨(.idcode), ([]), ({ base with pending := [.idcode] }), by decide +kernel⟩,
   ⟨(base), by decide +kernel⟩⟩

/-- The hypotheses of `Obligations.StepKeepsCanonical` are met. -/
theorem test_StepKeepsCanonical_met :
    (∃ s : State, ∃ u : State, Canonical s ∧ step s = .next u) :=
  ⟨(base), (base), by unfold Canonical MailboxForm DictForm TablesForm FlowForm BufForm SchedForm EndpointForm PoldersForm CipherForm SiphonForm JournalForm EventsForm; exact ⟨by decide +kernel, rfl⟩⟩

/-- The hypotheses of `Obligations.FramesByBlock` are met. -/
theorem test_FramesByBlock_met :
    (∃ c : Instr, ∃ s : State, ∃ u : State, exec c s = .next u) :=
  ⟨(.highz), (base), (_), by rfl⟩

/-- The hypotheses of `Obligations.StepGoesForward` are met. -/
theorem test_StepGoesForward_met :
    (∃ s : State, ∃ u : State, step s = .next u)
    ∧ (∃ s : State, ∃ u : State, step s = .next u)
    ∧ (∃ s : State, ∃ u : State, step s = .next u) :=
  ⟨⟨(base), (base), by rfl⟩,
   ⟨(base), (base), by rfl⟩,
   ⟨(base), (base), by rfl⟩⟩

end Sys2Proof.Tests
end

section
/-! What an assertion of PERST_N with FieldRetention 1 leaves standing, and the full reset at its 1 s mark
(spec 01 R39 to R41, 18 R600): the host side ends without touching the board, the start-up state or the state of
the journal, so the mark finds what the assertion recorded. -/

namespace Sys2Proof
open Machine

/-! ### What frames say of single blocks -/

theorem Sub.of_all {a l : List Blk} (h : a.all (fun b => l.contains b) = true) : Sub a l :=
  Sub.of (fun _ hb => hb) h

section Blocks
variable {l : List Blk} {s u : State}

theorem Frame.board_eq (h : Frame l s u) (hl : Blk.board ∉ l) : u.board = s.board := h.2 .board hl
theorem Frame.boot_eq (h : Frame l s u) (hl : Blk.boot ∉ l) : u.boot = s.boot := h.2 .boot hl
theorem Frame.jrn_eq (h : Frame l s u) (hl : Blk.jrn ∉ l) : u.jrn = s.jrn := h.2 .jrn hl

end Blocks
end Sys2Proof

namespace Sys2Proof.Machine
open Sys2Proof

/-- What no step of a fold changes, the fold does not change. -/
theorem foldl_keeps {α β : Type} (π : State → β) {f : State → α → State} (hf : ∀ y a, π (f y a) = π y)
    (l : List α) (s : State) : π (l.foldl f s) = π s :=
  (List.foldl_hom π (g₂ := fun b _ => b) fun y a => (hf y a).symm).symm.trans (List.foldl_fixed l)

theorem forEach_keeps {α β : Type} (π : State → β) {f : α → State → State} (hf : ∀ a y, π (f a y) = π y)
    (l : List α) (s : State) : π (forEach l f s) = π s :=
  foldl_keeps π (fun y a => hf a y) l s

/-! ### Work that ends leaves the state of the journal (14 R495) -/

section JournalState
variable (s : State)

theorem journalCut_jrn_state (p : JSrc → Bool) : (journalCut p s).jrn.state = s.jrn.state := by
  unfold journalCut
  rw [(Frame.cipherDrop (.of_all rfl) (Frame.refl [.cipher] _) _).jrn_eq (by decide)]
  rfl

theorem journalDetach_jrn_state (p : JSrc → Bool) : (journalDetach p s).jrn.state = s.jrn.state :=
  rfl

theorem journalDrop_jrn_state (p : JSrc → Bool) : (journalDrop p s).jrn.state = s.jrn.state :=
  (journalDetach_jrn_state _ p).trans (journalCut_jrn_state s p)

theorem journalEnd_jrn_state (fn : Nat) : (journalEnd fn s).jrn.state = s.jrn.state :=
  journalDrop_jrn_state s _

theorem channelError_quiet_jrn_state (g status : Nat) (named : Option (Nat × Nat)) :
    (channelError g status named true s).jrn.state = s.jrn.state := by
  simp only [channelError, ↓reduceIte]
  split
  · rfl
  · rw [(signals_raise _ _).jrn, (Frame.sipCount (.of_all rfl) (Frame.refl [.counters] _) _ _).jrn_eq (by decide),
      journalDrop_jrn_state]
    rfl

theorem siphonEnd_jrn_state (fn : Nat) : (siphonEnd fn s).jrn.state = s.jrn.state := by
  refine foldl_keeps (fun x => x.jrn.state) (fun y e => ?_) _ s
  split
  · exact channelError_quiet_jrn_state y _ _ _
  · rfl

/-- The end of a function's work (09 R317) ends its commands, and leaves the state of the journal. -/
theorem endWork_jrn_state (t fn : Nat) : (endWork t fn s).jrn.state = s.jrn.state := by
  have hbefore : Frame [.ep, .buf, .sched, .counters, .cipher] s (cipherDrop (fun m => decide (m.user = .polder fn))
      (discardAllHeld fn (detachTx fn (fun _ => true) (squashReads t fn s)))) :=
    Frame.cipherDrop (.of_all rfl) (Frame.discardAllHeld (.of_all rfl) (Frame.detachTx (.of_all rfl)
      (Frame.squashReads (.of_all rfl) (Frame.refl _ s) t fn) fn _) fn) _
  calc (endWork t fn s).jrn.state
      = (journalEnd fn (siphonRegionsEnd fn (siphonEnd fn (cipherDrop (fun m => decide (m.user = .polder fn))
          (discardAllHeld fn (detachTx fn (fun _ => true) (squashReads t fn s))))))).jrn.state := rfl
    _ = s.jrn.state := by
      rw [journalEnd_jrn_state, (Frame.siphonRegionsEnd (.of_all rfl) (Frame.refl [.siphon] _) fn).jrn_eq (by decide),
        siphonEnd_jrn_state, hbefore.jrn_eq (by decide)]

end JournalState

/-! ### The end of the host side (09 R316) -/

/-- What the end of the host side leaves for the resets of the whole part: the board, whether the part has
started, and the state of the journal. -/
structure KeepsReset (s u : State) : Prop where
  board : u.board = s.board
  started : u.boot.started = s.boot.started
  journal : u.jrn.state = s.jrn.state

theorem KeepsReset.trans {s u v : State} (h : KeepsReset s u) (g : KeepsReset u v) : KeepsReset s v :=
  ⟨g.board.trans h.board, g.started.trans h.started, g.journal.trans h.journal⟩

theorem KeepsReset.forEach {α : Type} {f : α → State → State} (hf : ∀ a y, KeepsReset y (f a y)) (l : List α)
    (s : State) : KeepsReset s (forEach l f s) :=
  ⟨forEach_keeps _ (fun a y => (hf a y).board) l s,
    forEach_keeps (fun x => x.boot.started) (fun a y => (hf a y).started) l s,
    forEach_keeps (fun x => x.jrn.state) (fun a y => (hf a y).journal) l s⟩

theorem KeepsReset.of_frame {l : List Blk} {s u : State} (h : Frame l s u) (hb : Blk.board ∉ l) (ht : Blk.boot ∉ l)
    (hj : Blk.jrn ∉ l) : KeepsReset s u :=
  ⟨h.board_eq hb, congrArg Boot.started (h.boot_eq ht), congrArg Journal.state (h.jrn_eq hj)⟩

theorem keepsReset_squashReads (t fn : Nat) (s : State) : KeepsReset s (squashReads t fn s) :=
  .of_frame (Frame.squashReads (.of_all rfl) (Frame.refl [.ep] s) t fn) (by decide) (by decide) (by decide)

theorem keepsReset_endWork (t fn : Nat) (s : State) : KeepsReset s (endWork t fn s) :=
  have h := Frame.endWork (.of_all rfl) (Frame.refl [.counters, .buf, .sched, .ep, .wq, .cipher, .siphon, .jrn] s) t fn
  ⟨h.board_eq (by decide), congrArg Boot.started (h.boot_eq (by decide)), endWork_jrn_state s t fn⟩

theorem keepsReset_hostSideEnd (t : Nat) (s : State) : KeepsReset s (hostSideEnd t s) := by
  have hreads : KeepsReset s (forEach (workFns s) (squashReads t) s) := .forEach (keepsReset_squashReads t) _ s
  have hregs : ∀ x : State, ∀ f, KeepsReset x (modEp f (pf0RegsReset x)) := fun _ _ => ⟨rfl, rfl, rfl⟩
  have hwork : ∀ l x, KeepsReset x (modSched (fun b => { b with htx := [] }) (forEach l (endWork t) x)) := fun l x =>
    (KeepsReset.forEach (keepsReset_endWork t) l x).trans ⟨rfl, rfl, rfl⟩
  exact (hreads.trans (hregs _ _)).trans (hwork _ _)

theorem keepsReset_linkLost (s : State) : KeepsReset s (linkLost s) :=
  .of_frame (Frame.linkLost (.of_all rfl) (Frame.refl [.ep] s)) (by decide) (by decide) (by decide)

/-! ### The assertion of PERST_N and the mark -/

theorem cfgN_advance (t : Nat) (s : State) (idx sub : Nat) : cfgN (advance t s) idx sub = cfgN s idx sub := by
  simp only [cfgN, cfg, advance_dict]

/-- 01 R42: with FieldRetention 1 and the field in service, an assertion ends the host side, and records its
time and the retention. -/
theorem perstNAssert_retained {s : State} (t : Nat) (hlow : s.board.perstLow = false) (hcfg : cfgN s 0x4000 1 = 1)
    (hstarted : s.boot.started = true) (hfield : s.boot.fieldUp = true) :
    KeepsReset (modBoard (fun b => { b with perstLow := true, perstAt := t, retention := true }) s)
      (perstNAssert t s) := by
  have hep : ∀ (x : State) f, KeepsReset x (modEp f x) := fun _ _ => ⟨rfl, rfl, rfl⟩
  simp only [perstNAssert, hlow, hcfg, hstarted, hfield, decide_true, Bool.not_true, Bool.or_self, Bool.false_eq_true,
    ↓reduceIte]
  exact (((hep _ _).trans (keepsReset_hostSideEnd t _)).trans (hep _ _)).trans (keepsReset_linkLost _)

/-- Before its mark, an assertion causes no full reset. -/
theorem fullResetMark_early {t : Nat} {s : State} (h : t < s.board.perstAt + 10 ^ 15) : fullResetMark t s = s :=
  if_neg fun ⟨_, _, _, hdue⟩ => absurd h (Nat.not_lt.2 hdue)

/-- At the mark of an assertion with FieldRetention 1, a full reset is asked for. -/
theorem fullResetMark_due {t : Nat} {s : State} (hlow : s.board.perstLow = true) (hkeep : s.board.retention = true)
    (hstarted : s.boot.started = true) (hdue : s.board.perstAt + 10 ^ 15 ≤ t) :
    fullResetMark t s = fullResetAsk s :=
  if_pos ⟨hlow, hkeep, hstarted, hdue⟩

/-- What a full reset leaves at once, whether or not the write cache has to drain (01 R39, R40): PERST_N stays
as it is, and the part is held with its blocks at their start-up values. -/
structure HeldInReset (s u : State) : Prop where
  fullReset : u.board.fullReset = true
  perstLow : u.board.perstLow = s.board.perstLow
  started : u.boot.started = false
  ports : u.ports = State.reset.ports
  dict : u.dict = State.reset.dict
  ep : u.ep = State.reset.ep
  tables : u.tables = State.reset.tables
  buf : u.buf = State.reset.buf

theorem heldInReset_fullResetBegin (s : State) : HeldInReset s (fullResetBegin s) := by
  unfold fullResetBegin
  dsimp only
  split <;> exact ⟨rfl, rfl, rfl, rfl, rfl, rfl, rfl, rfl⟩

/-- Settles O52: the assertion records the time and the retention and leaves the part started, so the mark does
nothing before its instant and asks for the full reset from then on; the journal's state, which the assertion
leaves, tells whether it begins at once. -/
theorem fullResetAtOneSecond : Obligations.FullResetAtOneSecond := by
  intro t₀ t s hlow hcfg hstarted hfield
  obtain ⟨hboard, hup, hjrn⟩ := perstNAssert_retained (s := advance t₀ s) t₀ (by rwa [advance_board])
    (by rwa [cfgN_advance]) (by rwa [advance_boot]) (by rwa [advance_boot])
  simp only [modBoard_board, modBoard_boot, modBoard_jrn, advance_boot, advance_jrn, hstarted] at hboard hup hjrn
  refine ⟨perstNAssert t₀ (advance t₀ s), rfl, ?_⟩
  generalize perstNAssert t₀ (advance t₀ s) = v at hboard hup hjrn
  have hdue (h : t₀ + 10 ^ 15 ≤ t) : fullResetMark t (advance t v) = fullResetAsk (advance t v) :=
    fullResetMark_due (by rw [advance_board, hboard]) (by rw [advance_board, hboard]) (by rwa [advance_boot])
      (by rwa [advance_board, hboard])
  refine ⟨hup, fun hearly => ?_, fun hlate hjournal => ?_, fun hlate hdrain => ?_⟩
  · exact ⟨_, rfl, fullResetMark_early (by rwa [advance_board, hboard])⟩
  · refine ⟨_, rfl, ?_⟩
    have hask : fullResetAsk (advance t v) = fullResetBegin (advance t v) :=
      if_neg (by rwa [advance_jrn, hjrn])
    obtain ⟨hfull, hlow', hheld, hports, hdict, hep, htables, hbuf⟩ := heldInReset_fullResetBegin (advance t v)
    rw [hdue hlate, hask]
    exact ⟨hfull, by rw [hlow', advance_board, hboard], hheld, hports, hdict, hep, htables, hbuf⟩
  · exact ⟨_, rfl, (hdue hlate).trans (if_pos (by rwa [advance_jrn, hjrn]))⟩

end Sys2Proof.Machine
end

section
/-! A request of the dictionary that comes over the network (spec 02 R69 to R81): which checks it meets, what a
refusal leaves as it was, and what its abort looks like; then the two actions of the store (02 R61). -/

namespace Sys2Proof.Machine
open Sys2Proof

/-! ### What metering and answering a network request keep -/

/-- From `s` to `u` nothing changed that the checks of a network request read, nor the store; the sessions and the
messages on their way to the injection queues are apart. -/
structure KeepsNet (s u : State) : Prop where
  boot : u.boot = s.boot
  cipher : u.cipher = s.cipher
  clock : u.clock = s.clock
  time : u.time = s.time
  vals : u.dict.vals = s.dict.vals
  storing : u.dict.storing = s.dict.storing
  epoch : u.dict.epoch = s.dict.epoch
  acts : u.dict.acts = s.dict.acts

theorem KeepsNet.trans {s u v : State} (h : KeepsNet s u) (g : KeepsNet u v) : KeepsNet s v :=
  ⟨g.boot.trans h.boot, g.cipher.trans h.cipher, g.clock.trans h.clock, g.time.trans h.time, g.vals.trans h.vals,
    g.storing.trans h.storing, g.epoch.trans h.epoch, g.acts.trans h.acts⟩

section Metering
variable (s : State)

theorem keepsNet_countQ (idx sub n : Nat) (port tc polder : Option Nat) :
    KeepsNet s (countQ idx sub n port tc polder s) := by
  constructor <;> simp

theorem keepsNet_count (idx sub : Nat) : KeepsNet s (count idx sub s) :=
  keepsNet_countQ s idx sub 1 none none none

theorem keepsNet_gmacWork (n : Nat) : KeepsNet s (gmacWork n s) :=
  (keepsNet_count s _ _).trans (keepsNet_countQ _ _ _ n _ _ _)

theorem keepsNet_rateTake (t : Nat) : KeepsNet s (rateTake t s) := ⟨rfl, rfl, rfl, rfl, rfl, rfl, rfl, rfl⟩

theorem keepsNet_setSession (n : Nat) (x : Session) : KeepsNet s (s.setSession n x) :=
  ⟨rfl, rfl, rfl, rfl, rfl, rfl, rfl, rfl⟩

theorem keepsNet_emit (o : Out) : KeepsNet s (emit o s) := ⟨rfl, rfl, rfl, rfl, rfl, rfl, rfl, rfl⟩

theorem keepsNet_outbox (l : List OutMsg) : KeepsNet s (modDict (fun d => { d with outbox := d.outbox ++ l }) s) :=
  ⟨rfl, rfl, rfl, rfl, rfl, rfl, rfl, rfl⟩

theorem keepsNet_authFail (sub : Nat) : KeepsNet s (authFail sub s) := by
  constructor <;> simp [authFail]

@[simp] theorem gmacWork_dict_sessions (n : Nat) : (gmacWork n s).dict.sessions = s.dict.sessions := by
  simp [gmacWork]

@[simp] theorem gmacWork_dict_outbox (n : Nat) : (gmacWork n s).dict.outbox = s.dict.outbox := by
  simp [gmacWork]

end Metering

/-! ### The checks read only the dictionary, the sessions and the keys -/

section Congr
variable {s u : State}

theorem KeepsNet.cfg (h : KeepsNet s u) (idx sub : Nat) : Machine.cfg u idx sub = Machine.cfg s idx sub := by
  simp only [Machine.cfg, h.vals]

theorem KeepsNet.cfgN (h : KeepsNet s u) (idx sub : Nat) : Machine.cfgN u idx sub = Machine.cfgN s idx sub :=
  congrArg beNat (h.cfg idx sub)

theorem KeepsNet.sessionKey (h : KeepsNet s u) (x : Session) : Machine.sessionKey u x = Machine.sessionKey s x := by
  simp only [Machine.sessionKey, State.keySlot, h.cipher]

theorem KeepsNet.keptLive (h : KeepsNet s u) (k : Kept) : Machine.keptLive u k = Machine.keptLive s k := by
  simp only [Machine.keptLive, h.clock]

/-- The role of a session rests on its level and on its token. -/
theorem KeepsNet.netRole (h : KeepsNet s u) {n : Nat}
    (hv : (u.session n).vendorUntil = (s.session n).vendorUntil) : Sys2Proof.netRole u n = Sys2Proof.netRole s n := by
  unfold Sys2Proof.netRole roleNow timeNow
  rw [hv, h.cfgN, h.time]

theorem KeepsNet.sessionOpen (h : KeepsNet s u) {n : Nat} (hx : u.session n = s.session n) :
    Machine.sessionOpen u n = Machine.sessionOpen s n := by
  simp only [Machine.sessionOpen, hx, h.cfgN]

/-- A message on a session is the same of two states that agree on the epoch, the session's key and what waits for
the injection queues. -/
theorem KeepsNet.sends (h : KeepsNet s u) {v : State} {n : Nat} (hk : (u.session n).keySlot = (s.session n).keySlot)
    (ho : u.dict.outbox = s.dict.outbox) {port : Option Nat} {flags kind reqId seq index sub ty pa pb : Nat}
    {data : Bytes} (hs : Sends u v n port flags kind reqId seq index sub ty pa pb data) :
    Sends s v n port flags kind reqId seq index sub ty pa pb data := by
  have hkey : Machine.sessionKey u (u.session n) = Machine.sessionKey s (s.session n) := by
    rw [h.sessionKey]
    simp only [Machine.sessionKey, hk]
  simpa only [Sends, hkey, h.epoch, ho] using hs

end Congr

theorem session_congr {s u : State} (h : u.dict.sessions = s.dict.sessions) (n : Nat) : u.session n = s.session n :=
  congrArg (Tab.get Session.reset · n) h

theorem cfg_advance (t : Nat) (s : State) (idx sub : Nat) : cfg (advance t s) idx sub = cfg s idx sub := by
  simp only [cfg, advance_dict]

@[simp] theorem session_advance (t n : Nat) (s : State) : (advance t s).session n = s.session n :=
  session_congr (by rw [advance_dict]) n

/-- A session reads back as it was set, where the sessions are canonical. -/
theorem session_setSession {s : State} (h : Tab.wf Session.reset s.dict.sessions = true) (n : Nat) (x : Session) :
    (s.setSession n x).session n = x :=
  Tab.get_set_same n x h

theorem sessionOpen_range {s : State} {n : Nat} (h : sessionOpen s n = true) : 1 ≤ n ∧ n ≤ 64 := by
  simp only [sessionOpen, Bool.and_eq_true, decide_eq_true_eq] at h
  obtain ⟨⟨⟨⟨hn, -⟩, -⟩, -⟩, -⟩ := h
  exact hn

section Window
variable (x : Session) (q : Nat)

@[simp] theorem windowPut_keySlot : (windowPut x q).keySlot = x.keySlot := by unfold windowPut; split <;> rfl
@[simp] theorem windowPut_tx : (windowPut x q).tx = x.tx := by unfold windowPut; split <;> rfl
@[simp] theorem windowPut_kept : (windowPut x q).kept = x.kept := by unfold windowPut; split <;> rfl
@[simp] theorem windowPut_vendorUntil : (windowPut x q).vendorUntil = x.vendorUntil := by unfold windowPut; split <;> rfl

end Window

/-! ### A message that meets every check before its tag's -/

/-- The message counts against the rate, and a core has computed its tag (spec 02 R70, R76). -/
def netMetered (t : Nat) (b : Bytes) (s : State) : State :=
  gmacWork (b.take (b.length - 16)).length (rateTake t s)

/-- The message is also in the receive window now, and counted as accepted (spec 02 R77). -/
def netAdmitted (t : Nat) (b : Bytes) (s : State) : State :=
  count 0x1110 1 ((netMetered t b s).setSession (parseMsg b 16).session
    (windowPut (s.session (parseMsg b 16).session) (parseMsg b 16).seq))

/-- A network request as the dictionary sees it. -/
def netReq (s : State) (n : Nat) (port : Option Nat) (flash : Bool) (m : Msg) : Req :=
  { session := n, port := port, role := netRole s n, limit := 1356, flash := flash, msg := m }

section Admitted
variable (t : Nat) (b : Bytes) (s : State)

theorem keepsNet_netMetered : KeepsNet s (netMetered t b s) :=
  (keepsNet_rateTake s t).trans (keepsNet_gmacWork _ _)

theorem keepsNet_netAdmitted : KeepsNet s (netAdmitted t b s) :=
  ((keepsNet_netMetered t b s).trans (keepsNet_setSession _ _ _)).trans (keepsNet_count _ _ _)

theorem netMetered_dict_sessions : (netMetered t b s).dict.sessions = s.dict.sessions :=
  gmacWork_dict_sessions _ _

theorem netAdmitted_dict_outbox : (netAdmitted t b s).dict.outbox = s.dict.outbox :=
  (count_dict_outbox _ _ _).trans (gmacWork_dict_outbox _ _)

theorem netAdmitted_session (h : Tab.wf Session.reset s.dict.sessions = true) :
    (netAdmitted t b s).session (parseMsg b 16).session
      = windowPut (s.session (parseMsg b 16).session) (parseMsg b 16).seq :=
  (session_congr (count_dict_sessions _ _ _) _).trans
    (session_setSession (by rwa [netMetered_dict_sessions]) _ _)

end Admitted

section Serve
variable {s : State} {t kind : Nat} {port : Option Nat} {addr b : Bytes} (mine : Msg → Bool) (h : Handler)
  (post : Req → State → State) (f : Bool)

/-- Past the checks before the tag, the tag, the epoch and the window decide (spec 02 R77, R78). -/
theorem netServe_asked (ha : NetAsks s t port addr b kind) (hm : mine (parseMsg b 16) = true) :
    netServe mine h post f t port addr b s =
      let m := parseMsg b 16
      let x := netMetered t b s
      if fdpTag (sessionKey s (s.session m.session)) m.epoch m.seq m.session 0 (b.take (b.length - 16))
          ≠ b.drop (b.length - 16) then authFail 2 (count 0x4101 4 x)
      else if m.epoch ≠ s.dict.epoch then epochAnswer t m.session port m x
      else if !windowOk (s.session m.session) m.seq then authFail 3 x
      else netCarry h post f m.session port m (netAdmitted t b s) := by
  obtain ⟨hhead, hlen, -, hplace, hfdp, hup, hfarm, hrate, hopen, hpeer⟩ := ha
  have hr := keepsNet_rateTake s t
  have hsess : (rateTake t s).session = s.session := rfl
  have hpeer' : ¬(cfg s (0x114F + (parseMsg b 16).session) 4 ≠ zeros 16
      ∧ cfg s (0x114F + (parseMsg b 16).session) 4 ≠ addr) := fun ⟨hset, hother⟩ => hpeer.elim hset hother
  have hx := keepsNet_netMetered t b s
  unfold netServe
  simp only [hhead, hlen, hm, hplace, hfdp, hup, hfarm, hrate, hopen, hr.sessionOpen (congrFun hsess _), hr.cfg,
    hsess, hpeer', decide_true, Bool.and_self, Bool.not_true, Bool.and_false, Bool.or_self,
    Bool.false_eq_true, ↓reduceIte]
  simp only [← hx.epoch, ← hx.sessionKey]
  rfl

/-- A message whose tag is wrong is discarded and counted. -/
theorem netServe_badTag (ha : NetAsks s t port addr b kind) (hm : mine (parseMsg b 16) = true) (ht : ¬ NetTag s b) :
    netServe mine h post f t port addr b s = authFail 2 (count 0x4101 4 (netMetered t b s)) :=
  (netServe_asked mine h post f ha hm).trans (if_pos ht)

/-- An authenticated, fresh message is carried out. -/
theorem netServe_fresh (ha : NetAsks s t port addr b kind) (hm : mine (parseMsg b 16) = true) (ht : NetTag s b)
    (he : (parseMsg b 16).epoch = s.dict.epoch)
    (hw : windowOk (s.session (parseMsg b 16).session) (parseMsg b 16).seq = true) :
    netServe mine h post f t port addr b s
      = netCarry h post f (parseMsg b 16).session port (parseMsg b 16) (netAdmitted t b s) := by
  rw [netServe_asked mine h post f ha hm]
  simp only [he, hw, not_true_eq_false, Bool.not_true, Bool.false_eq_true, ↓reduceIte, ne_eq]
  exact if_neg (not_not_intro (he ▸ ht))

end Serve

/-- What the checks of a network message read, the passage of time leaves. -/
theorem netAsks_advance {s : State} {t kind : Nat} {port : Option Nat} {addr b : Bytes}
    (h : NetAsks s t port addr b kind) : NetAsks (advance t s) t port addr b kind := by
  have hplace : fdpPlace (advance t s) port addr = fdpPlace s port addr := by
    cases port <;> simp only [fdpPlace, cfg_advance, cfgN_advance]
  simpa only [NetAsks, hplace, farmFree, rateRoom, sessionOpen, cfg_advance, cfgN_advance, session_advance,
    advance_dict, advance_mbx, advance_cipher] using h

theorem netTag_advance {s : State} {t : Nat} {b : Bytes} : NetTag (advance t s) b ↔ NetTag s b := by
  simp only [NetTag, sessionKey, State.keySlot, session_advance, advance_cipher]

theorem sends_advance {s u : State} {t n : Nat} {port : Option Nat} {flags kind reqId seq index sub ty pa pb : Nat}
    {data : Bytes} : Sends (advance t s) u n port flags kind reqId seq index sub ty pa pb data
      ↔ Sends s u n port flags kind reqId seq index sub ty pa pb data := by
  simp only [Sends, sessionKey, State.keySlot, session_advance, advance_dict, advance_cipher]

/-! ### A request that is refused -/

/-- A request that its handler refuses, and that repeats none, is answered with the abort. -/
theorem netCarry_abort {h : Handler} {post : Req → State → State} {f : Bool} {n c : Nat} {port : Option Nat}
    {m : Msg} {s : State} (hk : (s.session n).kept.find? (fun k => sameReq m k && keptLive s k) = none)
    (ha : s.dict.acts.any (sameAct n m) = false) (hh : h (netReq s n port f m) s = (s, .abort c)) :
    netCarry h post f n port m s = answer (reqHead (netReq s n port f m)) flagAbort c 0 0 [] s := by
  simp only [netReq, netRole] at hh
  simp only [netCarry, hk, ha, hh, Bool.false_eq_true, ↓reduceIte]
  rfl

/-- An action that meets the general checks, and that a check of its owner refuses, changes nothing. -/
theorem action_abort {own : Req → State → List Nat} {go : Handler} {q : Req} {s : State} {c : Nat}
    (hi : isAction q.msg.index q.msg.sub = true) (hg : actionAborts q = []) (ho : firstAbort (own q s) = some c) :
    action own go q s = (s, .abort c) := by
  simp [action, hi, hg, ho]

/-- The general checks of an ACTION: it is there, the role suffices, and the argument is of its type. -/
theorem actionAborts_nil {q : Req} {r : ObjRow} (hd : objDesc q.msg.index q.msg.sub = some r) (hc : r.acc = .act)
    (hw : r.wr ≤ q.role) (ht : q.msg.ty = r.arg) (he : encodes r.arg r.len q.msg.data = true) : actionAborts q = [] := by
  simp [actionAborts, hd, hc, ht, he, abortIf, hw]

theorem isAction_of_objDesc {idx sub : Nat} {r : ObjRow} (hd : objDesc idx sub = some r) (hc : r.acc = .act) :
    isAction idx sub = true := by
  simp [isAction, hd, hc]

/-! ### The answer on a session -/

section Answer
variable (s : State) (n : Nat) (port : Option Nat)

theorem keepsNet_netSend (key : Bytes) (flags kind reqId index sub ty pa pb : Nat) (data : Bytes) :
    KeepsNet s (netSend n port key flags kind reqId index sub ty pa pb data s) := by
  have hg : ∀ k, KeepsNet s (gmacWork k (nextTx n s).2) := fun k =>
    (keepsNet_setSession s n _).trans (keepsNet_gmacWork _ k)
  cases port with
  | none => exact (hg _).trans (keepsNet_emit _ _)
  | some p => exact (hg _).trans (keepsNet_outbox _ _)

/-- What is sent under the session's key is the session's next message. -/
theorem sends_netSend (flags kind reqId index sub ty pa pb : Nat) (data : Bytes) :
    Sends s (netSend n port (sessionKey s (s.session n)) flags kind reqId index sub ty pa pb data s) n port flags kind
      reqId ((s.session n).tx + 1) index sub ty pa pb data := by
  cases port with
  | none => exact List.mem_append_right _ (List.mem_singleton_self _)
  | some p => exact ⟨[], congrArg (· ++ _) (gmacWork_dict_outbox _ _)⟩

variable {s} {h : ReqHead} (hn : 1 ≤ h.session ∧ h.session ≤ 64) (flags pa pb ty : Nat) (data : Bytes)
include hn

/-- On a session the answer is sent, and kept for a repeat (spec 02 R81). -/
theorem answer_session : ∃ k, answer h flags pa pb ty data s = keepResponse h.session k
    (netSend h.session h.port (sessionKey s (s.session h.session)) flags h.kind h.reqId h.index h.sub ty pa pb data s) :=
  ⟨_, (if_neg (by omega)).trans (if_neg (by omega))⟩

theorem keepsNet_answer : KeepsNet s (answer h flags pa pb ty data s) := by
  obtain ⟨k, hk⟩ := answer_session (s := s) hn flags pa pb ty data
  rw [hk]
  exact (keepsNet_netSend s _ _ _ _ _ _ _ _ _ _ _ _).trans (keepsNet_setSession _ _ _)

theorem sends_answer : Sends s (answer h flags pa pb ty data s) h.session h.port flags h.kind h.reqId
    ((s.session h.session).tx + 1) h.index h.sub ty pa pb data := by
  obtain ⟨k, hk⟩ := answer_session (s := s) hn flags pa pb ty data
  rw [hk]
  exact sends_netSend s h.session h.port flags h.kind h.reqId h.index h.sub ty pa pb data

end Answer

/-! ### An action on a session that its owner refuses -/

/-- The message is fresh, and repeats no request that is answered or under way (spec 02 R72, R77, R78, R81). -/
structure FreshRequest (s : State) (m : Msg) : Prop where
  epoch : m.epoch = s.dict.epoch
  window : windowOk (s.session m.session) m.seq = true
  kept : (s.session m.session).kept.find? (fun k => sameReq m k && keptLive s k) = none
  acts : s.dict.acts.any (sameAct m.session m) = false

section NetAction
variable {mine : Nat → Nat → Bool} {own : Req → State → List Nat} {go : Handler} {s : State} {t c : Nat} {f : Bool}
  {port : Option Nat} {addr b : Bytes} {m : Msg} (hp : m = parseMsg b 16)
  (hwf : Tab.wf Session.reset s.dict.sessions = true) (ha : NetAsks s t port addr b 5) (hfresh : FreshRequest s m)
  (hm : actMine mine m = true) (hi : isAction m.index m.sub = true)
  (hg : actionAborts (netReq s m.session port f m) = []) (ho : ∀ q u, KeepsNet s u → firstAbort (own q u) = some c)
include hp hwf ha hfresh hm hi hg ho

/-- A fresh request with the right tag for an action that meets the general checks, and that a check of its owner
refuses, is answered with the abort in the state in which it was admitted. -/
theorem netServe_action_abort (ht : NetTag s b) :
    netServe (actMine mine) (action own go) (fun _ st => st) f t port addr b s
      = answer (reqHead (netReq s m.session port f m)) flagAbort c 0 0 [] (netAdmitted t b s) := by
  subst hp
  have hx := keepsNet_netAdmitted t b s
  have hsess := netAdmitted_session t b s hwf
  have hreq : netReq (netAdmitted t b s) (parseMsg b 16).session port f (parseMsg b 16)
      = netReq s (parseMsg b 16).session port f (parseMsg b 16) := by
    simp only [netReq, hx.netRole ((congrArg Session.vendorUntil hsess).trans (windowPut_vendorUntil _ _))]
  rw [netServe_fresh _ _ _ f ha hm ht hfresh.epoch hfresh.window, netCarry_abort (c := c), hreq]
  · simpa only [hsess, windowPut_kept, hx.keptLive] using hfresh.kept
  · rw [hx.acts]
    exact hfresh.acts
  · rw [hreq]
    exact action_abort hi hg (ho _ _ hx)

/-- Whatever its tag, the request leaves the store as it was; with the right tag the abort is the session's next
message. -/
theorem netServe_action_refused :
    KeepsNet s (netServe (actMine mine) (action own go) (fun _ st => st) f t port addr b s)
    ∧ (NetTag s b → Sends s (netServe (actMine mine) (action own go) (fun _ st => st) f t port addr b s)
        m.session port flagAbort 5 m.reqId ((s.session m.session).tx + 1) m.index m.sub 0 c 0 []) := by
  by_cases ht : NetTag s b
  · rw [netServe_action_abort hp hwf ha hfresh hm hi hg ho ht]
    subst hp
    obtain ⟨-, -, hkind, -, -, -, -, -, hopen, -⟩ := ha
    have hn := sessionOpen_range hopen
    have hx := keepsNet_netAdmitted t b s
    have hsess := netAdmitted_session t b s hwf
    refine ⟨hx.trans (keepsNet_answer hn _ _ _ _ _), fun _ => hx.sends (by rw [hsess, windowPut_keySlot])
      (netAdmitted_dict_outbox t b s) ?_⟩
    rw [← hkind, ← windowPut_tx (s.session (parseMsg b 16).session) (parseMsg b 16).seq, ← hsess]
    exact sends_answer hn flagAbort c 0 0 []
  · rw [netServe_badTag _ _ _ f ha (hp ▸ hm) ht]
    exact ⟨((keepsNet_netMetered t b s).trans (keepsNet_count _ _ _)).trans (keepsNet_authFail _ _),
      fun h => absurd h ht⟩

end NetAction

/-! ### StoreAll and RestoreDefaults (spec 02 R61) -/

theorem firstAbort_storeBusy {s : State} (h : s.dict.storing.isSome = true) (q : Req) :
    firstAbort (storeBusy q s) = some aBUSY := by
  simp only [storeBusy, h, abortIf, ↓reduceIte]
  decide

section Store
variable {k : Nat} (hk : k = 1 ∨ k = 2)
include hk

theorem objDesc_store : objDesc 0x1120 k = some ⟨0x1120, 0x1120, k, k, 12, 0, 0, .act, 0, 3, 0, 0, []⟩ := by
  obtain rfl | rfl := hk <;> rfl

theorem isAction_store : isAction 0x1120 k = true :=
  isAction_of_objDesc (objDesc_store hk) rfl

/-- A Manager's request without argument meets the general checks. -/
theorem actionAborts_store {q : Req} (hidx : q.msg.index = 0x1120) (hsub : q.msg.sub = k) (hty : q.msg.ty = 0)
    (hdata : q.msg.data = []) (hrole : 3 ≤ q.role) : actionAborts q = [] := by
  refine actionAborts_nil (by rw [hidx, hsub]; exact objDesc_store hk) rfl hrole hty ?_
  rw [hdata]
  rfl

end Store

/-- Settles O48: while a store runs the owner's check answers BUSY, so the mailbox's request is refused with it; over
the network it is refused with it where it is admitted, and discarded where its tag is wrong, and neither the store
nor the flash changes. -/
theorem storeIsBusy : Obligations.StoreIsBusy := by
  refine ⟨refuses_ok (fun _ _ => rfl) (by decide) fun q _ _ _ h => firstAbort_storeBusy h q,
    refuses_ok (fun _ _ => rfl) (by decide) fun q _ _ _ h => firstAbort_storeBusy h q, ?_⟩
  intro k mk hmk t f port addr b s m hcanon hp ha hepoch hwindow hkept hacts hidx hsub hty hdata hrole hbusy
  obtain ⟨hk, go, hexec⟩ : (k = 1 ∨ k = 2) ∧ ∃ go : Handler,
      ∀ r x, exec (mk r) x = .next (serveAction (at0 0x1120 k) storeBusy go r x) := by
    simp only [List.mem_cons, Prod.mk.injEq, List.not_mem_nil, or_false] at hmk
    obtain ⟨rfl, rfl⟩ | ⟨rfl, rfl⟩ := hmk
    · exact ⟨.inl rfl, _, fun _ _ => rfl⟩
    · exact ⟨.inr rfl, _, fun _ _ => rfl⟩
  have hmine : actMine (at0 0x1120 k) m = true := by
    obtain ⟨-, -, hkind, -⟩ := ha
    simp [actMine, at0, hp ▸ hkind, hidx, hsub]
  have hfresh : FreshRequest (advance t s) m :=
    ⟨by rwa [advance_dict], by rwa [session_advance], by rwa [session_advance], by rwa [advance_dict]⟩
  have hown : ∀ q u, KeepsNet (advance t s) u → firstAbort (storeBusy q u) = some aBUSY := fun q u hu =>
    firstAbort_storeBusy (by rwa [hu.storing, advance_dict]) q
  obtain ⟨-, ⟨-, hsessions⟩, -⟩ := hcanon
  obtain ⟨hkeeps, hsends⟩ := netServe_action_refused (go := go) (f := f) hp (by rwa [advance_dict])
    (netAsks_advance ha) hfresh hmine (by rw [hidx, hsub]; exact isAction_store hk)
    (actionAborts_store hk hidx hsub hty hdata hrole) hown
  refine ⟨_, hexec _ s, hkeeps.storing.trans (congrArg Dict.storing (advance_dict s t)),
    hkeeps.boot.trans (advance_boot s t), fun htag => ?_⟩
  have h := sends_advance.1 (hsends (netTag_advance.2 htag))
  rwa [session_advance, hidx, hsub] at h

end Sys2Proof.Machine
end

section
/-! A write that its owner's state refuses (spec 02 R53, R74, R83), by WRITE or by the last block of a WRITE_BLOCK:
which code it is refused with, what the refusal leaves as it was, and what the abort looks like through the mailbox
and over the network; then the mode, auto-negotiation and FEC of an enabled port (03 R96). -/

namespace Sys2Proof.Machine
open Sys2Proof

/-! ### NOTIFYs after an answer (spec 02 R84) -/

/-- From `s` to `u` NOTIFYs were sent: the values and what a network request reads are kept, and the messages
waiting for the injection queues are still the first there. -/
structure Notified (s u : State) : Prop where
  keeps : KeepsNet s u
  outbox : ∃ l, u.dict.outbox = s.dict.outbox ++ l

theorem Notified.refl (s : State) : Notified s s :=
  ⟨⟨rfl, rfl, rfl, rfl, rfl, rfl, rfl, rfl⟩, [], (List.append_nil _).symm⟩

theorem Notified.trans {s u v : State} (h : Notified s u) (g : Notified u v) : Notified s v := by
  obtain ⟨hk, l, hl⟩ := h
  obtain ⟨gk, l', hl'⟩ := g
  exact ⟨hk.trans gk, l ++ l', by rw [hl', hl, List.append_assoc]⟩

theorem Notified.forEach {α : Type} {f : α → State → State} (hf : ∀ a y, Notified y (f a y)) (l : List α)
    (s : State) : Notified s (forEach l f s) :=
  List.foldlRecOn l (fun y a => f a y) (motive := Notified s) (.refl s) fun y hy a _ => hy.trans (hf a y)

theorem notified_netSend (n : Nat) (port : Option Nat) (key : Bytes) (flags kind reqId index sub ty pa pb : Nat)
    (data : Bytes) (s : State) : Notified s (netSend n port key flags kind reqId index sub ty pa pb data s) := by
  refine ⟨keepsNet_netSend s n port key flags kind reqId index sub ty pa pb data, ?_⟩
  have hg (k : Nat) : (gmacWork k (nextTx n s).2).dict.outbox = s.dict.outbox := gmacWork_dict_outbox _ k
  cases port with
  | none => exact ⟨[], (hg _).trans (List.append_nil _).symm⟩
  | some p => exact ⟨_, congrArg (· ++ _) (hg _)⟩

theorem notified_notify (t : Nat) (u : Subscr) (v : Bytes) (s : State) : Notified s (notify t u v s) := by
  have hsubs (f : Dict → List Subscr) : Notified s (modDict (fun d => { d with subs := f d }) s) :=
    ⟨⟨rfl, rfl, rfl, rfl, rfl, rfl, rfl, rfl⟩, [], (List.append_nil _).symm⟩
  unfold notify
  split
  · exact .refl s
  · dsimp only
    split
    · exact (hsubs _).trans (notified_netSend _ _ _ _ _ _ _ _ _ _ _ _ _)
    · exact hsubs _

theorem notified_notifyOne (t : Nat) (u : Subscr) (s : State) : Notified s (notifyOne t u s) := by
  have hdue (c : Prop) [Decidable c] : Notified s (if c then notify t u (subValue s u) s else s) := by
    split
    · exact notified_notify t u (subValue s u) s
    · exact .refl s
  unfold notifyOne
  dsimp only
  split
  · exact hdue _
  · exact hdue _

theorem notified_notifyChanges (s : State) : Notified s (notifyChanges s) :=
  .forEach (fun u y => notified_notifyOne y.clock u y) _ s

theorem notifyChanges_mbx (s : State) : (notifyChanges s).mbx = s.mbx :=
  (Frame.notifyChanges (l := [.counters, .dict]) (.of_all rfl) (Frame.refl _ s)).2 .mbx (by decide)

theorem notifyChanges_ports (s : State) : (notifyChanges s).ports = s.ports :=
  (Frame.notifyChanges (l := [.counters, .dict]) (.of_all rfl) (Frame.refl _ s)).2 .ports (by decide)

/-- An abort in the mailbox stays there. -/
theorem aborted_notifyChanges {u : State} {b : Bytes} {c : Nat} (h : Aborted u b c) :
    Aborted (notifyChanges u) b c := by
  simpa only [Aborted, notifyChanges_mbx, (notified_notifyChanges u).keeps.epoch] using h

/-- A message that is sent stays sent. -/
theorem sends_notifyChanges {s u : State} {n : Nat} {port : Option Nat} {flags kind reqId seq index sub ty pa pb : Nat}
    {data : Bytes} (h : Sends s u n port flags kind reqId seq index sub ty pa pb data) :
    Sends s (notifyChanges u) n port flags kind reqId seq index sub ty pa pb data := by
  obtain ⟨out, hout⟩ := ((Keeps.refl u).notifyChanges).out
  obtain ⟨box, hbox⟩ := (notified_notifyChanges u).outbox
  cases port with
  | none => exact (congrArg (_ ∈ ·) hout).mpr (List.mem_append_left _ h)
  | some p =>
    obtain ⟨l, hl⟩ := h
    exact ⟨l ++ box, by rw [hbox, hl, List.append_assoc, List.cons_append]⟩

/-! ### The code of a write that the state refuses (spec 02 R53, R74) -/

/-- STATE is the first code of Table 2.8, so it is returned wherever it applies. -/
theorem firstAbort_state {l : List Nat} (h : aSTATE ∈ l) : firstAbort l = some aSTATE :=
  List.find?_cons_of_pos (by simpa using h)

theorem state_mem_valueAborts {q : Req} {s : State} {r : ObjRow} (v : Bytes) (hro : r.acc ≠ .ro) (hact : r.acc ≠ .act)
    (hs : stateAborts s q.msg.index q.msg.sub = true) : aSTATE ∈ valueAborts q s r v := by
  simp [valueAborts, hro, hact, hs, abortIf]

/-- The handler refuses the request, and changes no more than the stagings of block transfers. -/
def Refuses (h : Handler) (q : Req) (s : State) (c : Nat) : Prop :=
  ∃ l, h q s = (modDict (fun d => { d with stagings := l }) s, .abort c)

/-- Only a staging of FirmwareStage is more than bytes that wait (15 R527). -/
theorem dropStaging_eq {idx : Nat} (hidx : idx ≠ 0x1410) (who sub : Nat) (s : State) :
    ∃ l, dropStaging who idx sub s = modDict (fun d => { d with stagings := l }) s := by
  simp only [dropStaging, hidx, ↓reduceIte]
  split
  · exact ⟨s.dict.stagings, rfl⟩
  · exact ⟨_, rfl⟩

theorem keepsNet_stagings (l : List Staging) (s : State) : KeepsNet s (modDict (fun d => { d with stagings := l }) s) :=
  ⟨rfl, rfl, rfl, rfl, rfl, rfl, rfl, rfl⟩

section Refused
variable {q : Req} {s : State} {r : ObjRow} (hd : objDesc q.msg.index q.msg.sub = some r) (hro : r.acc ≠ .ro)
  (hact : r.acc ≠ .act) (hs : stateAborts s q.msg.index q.msg.sub = true)
include hd hro hact hs

theorem writeOne_refuses_state : Refuses writeOne q s aSTATE := by
  refine ⟨s.dict.stagings, ?_⟩
  simp only [writeOne, hd, firstAbort_state (List.mem_append_right _ (state_mem_valueAborts q.msg.data hro hact hs))]
  rfl

/-- The last block of a value is refused with STATE, whether it is out of order or the state refuses the value. -/
theorem writeBlockOne_refuses_state (hidx : q.msg.index ≠ 0x1410) (hlast : q.msg.flags.testBit 2 = false) :
    Refuses writeBlockOne q s aSTATE := by
  obtain ⟨l, hl⟩ := dropStaging_eq hidx q.session q.msg.sub s
  have habort : ∃ drop : Bool,
      writeBlockOne q s = (if drop then dropStaging q.session q.msg.index q.msg.sub s else s, .abort aSTATE) := by
    simp only [writeBlockOne, hd, hlast, Bool.false_or]
    generalize (decide (q.msg.pa ≠ 0) && _) = broken
    rw [firstAbort_state]
    · exact ⟨_, rfl⟩
    · cases broken
      · exact List.mem_append_right _ (state_mem_valueAborts _ hro hact hs)
      · simp [abortIf]
  obtain ⟨drop, h⟩ := habort
  cases drop
  · exact ⟨s.dict.stagings, h⟩
  · exact ⟨l, by rw [h, ← hl]; rfl⟩

end Refused

/-! ### A refused write is answered with the abort -/

section Serve
variable {h : Handler} {s : State} {b : Bytes} {kind c : Nat} (mine : Msg → Bool) (post : Req → State → State)
  (f : Bool)

/-- Through the mailbox: the abort is the response, and neither a value nor a port changes (spec 02 R66, R68). -/
theorem mbxServe_refused (hm : MbxHolds s b kind) (hmine : mine (parseMsg b 0) = true)
    (hr : Refuses h (mbxReq s f b) s c) :
    Aborted (mbxServe mine h f s) b c ∧ (mbxServe mine h f s).dict.vals = s.dict.vals
      ∧ (mbxServe mine h f s).ports = s.ports := by
  obtain ⟨hup, horphans, haccepted, hboot, -⟩ := hm
  obtain ⟨l, hl⟩ := hr
  have hserve : mbxServe mine h f s = mbxRespond 3 (parseMsg b 0).kind (parseMsg b 0).reqId (parseMsg b 0).index
      (parseMsg b 0).sub 0 c 0 [] (modDict (fun d => { d with stagings := l }) s) := by
    have hq : mine (mbxReq s f b).msg = true := hmine
    simp only [mbxServe, hup, horphans, haccepted, guarded, hboot, hq, hl, decide_false, Bool.false_and, Bool.not_true,
      Bool.false_eq_true, ↓reduceIte]
    rfl
  rw [hserve]
  exact ⟨aborted_mbxRespond b c _, by rw [mbxRespond_dict]; rfl, by rw [mbxRespond_ports]; rfl⟩

/-- A request that its handler refuses, and that repeats none, is answered with the abort after what the refusal
does to the stagings. -/
theorem netCarry_refused {n : Nat} {port : Option Nat} {m : Msg} {l : List Staging}
    (hk : (s.session n).kept.find? (fun k => sameReq m k && keptLive s k) = none)
    (ha : s.dict.acts.any (sameAct n m) = false)
    (hh : h (netReq s n port f m) s = (modDict (fun d => { d with stagings := l }) s, .abort c)) :
    netCarry h post f n port m s = answer (reqHead (netReq s n port f m)) flagAbort c 0 0 []
      (modDict (fun d => { d with stagings := l }) s) := by
  simp only [netReq, netRole] at hh
  simp only [netCarry, hk, ha, hh, Bool.false_eq_true, ↓reduceIte]
  rfl

/-- What is answered changes no port. -/
theorem answer_ports (hd : ReqHead) (flags pa pb ty : Nat) (data : Bytes) (x : State) :
    (answer hd flags pa pb ty data x).ports = x.ports :=
  (Frame.answer (l := [.counters, .dict, .mbx]) (.of_all rfl) (Frame.refl _ x) hd flags pa pb ty data).2 .ports
    (by decide)

theorem netMetered_ports (t : Nat) : (netMetered t b s).ports = s.ports := by
  simp [netMetered, gmacWork, rateTake]

theorem netAdmitted_ports (t : Nat) : (netAdmitted t b s).ports = s.ports := by
  simp [netAdmitted, netMetered_ports]

/-- On a session, the abort of a refusal after which `x` differs from `s` in no way that an answer reads: it is the
session's next message, and leaves the values and the ports. -/
theorem answer_after_refusal {x : State} {hd : ReqHead} (l : List Staging) (hx : KeepsNet s x)
    (hn : 1 ≤ hd.session ∧ hd.session ≤ 64) (hkey : (x.session hd.session).keySlot = (s.session hd.session).keySlot)
    (htx : (x.session hd.session).tx = (s.session hd.session).tx) (hout : x.dict.outbox = s.dict.outbox) :
    let u := answer hd flagAbort c 0 0 [] (modDict (fun d => { d with stagings := l }) x)
    u.dict.vals = s.dict.vals ∧ u.ports = x.ports
      ∧ Sends s u hd.session hd.port flagAbort hd.kind hd.reqId ((s.session hd.session).tx + 1) hd.index hd.sub 0 c 0
        [] := by
  have hy := hx.trans (keepsNet_stagings l x)
  have hs : (modDict (fun d => { d with stagings := l }) x).session hd.session = x.session hd.session := rfl
  refine ⟨(hy.trans (keepsNet_answer hn _ _ _ _ _)).vals, answer_ports .., hy.sends (by rw [hs, hkey]) hout ?_⟩
  rw [← htx, ← hs]
  exact sends_answer hn flagAbort c 0 0 []

/-- Over the network: whatever its tag, a fresh request leaves the values and the ports; with the right tag the
abort is the session's next message (spec 02 R76 to R79). -/
theorem netServe_refused {t : Nat} {port : Option Nat} {addr : Bytes}
    (hwf : Tab.wf Session.reset s.dict.sessions = true) (ha : NetAsks s t port addr b kind)
    (hfresh : FreshRequest s (parseMsg b 16)) (hmine : mine (parseMsg b 16) = true)
    (hr : ∀ q u, q.msg = parseMsg b 16 → u.dict.vals = s.dict.vals → Refuses h q u c) :
    (netServe mine h post f t port addr b s).dict.vals = s.dict.vals
    ∧ (netServe mine h post f t port addr b s).ports = s.ports
    ∧ (NetTag s b → Sends s (netServe mine h post f t port addr b s) (parseMsg b 16).session port flagAbort kind
        (parseMsg b 16).reqId ((s.session (parseMsg b 16).session).tx + 1) (parseMsg b 16).index (parseMsg b 16).sub
        0 c 0 []) := by
  have hx := keepsNet_netAdmitted t b s
  have hsess := netAdmitted_session t b s hwf
  by_cases ht : NetTag s b
  · obtain ⟨l, hl⟩ := hr (netReq (netAdmitted t b s) (parseMsg b 16).session port f (parseMsg b 16)) _ rfl hx.vals
    rw [netServe_fresh _ _ _ f ha hmine ht hfresh.epoch hfresh.window, netCarry_refused post f _ _ hl]
    · obtain ⟨-, -, rfl, -, -, -, -, -, hopen, -⟩ := ha
      obtain ⟨hvals, hports, hsends⟩ := answer_after_refusal (c := c) (hd := reqHead (netReq (netAdmitted t b s)
        (parseMsg b 16).session port f (parseMsg b 16))) l hx (sessionOpen_range hopen)
        (by rw [reqHead, netReq, hsess, windowPut_keySlot]) (by rw [reqHead, netReq, hsess, windowPut_tx])
        (netAdmitted_dict_outbox t b s)
      exact ⟨hvals, hports.trans (netAdmitted_ports t), fun _ => hsends⟩
    · simpa only [hsess, windowPut_kept, hx.keptLive] using hfresh.kept
    · rw [hx.acts]
      exact hfresh.acts
  · rw [netServe_badTag _ _ _ f ha hmine ht]
    refine ⟨?_, ?_, fun h => absurd h ht⟩
    · exact (((keepsNet_netMetered t b s).trans (keepsNet_count _ _ _)).trans (keepsNet_authFail _ _)).vals
    · simp [authFail, netMetered_ports]

end Serve

/-! ### A write command that is refused, whoever asks -/

/-- The command serves a request `m`, and refuses it with `c` wherever the values are those of `s`. -/
def RefusesWrite (mk : Rq → Instr) (m : Msg) (s : State) (c : Nat) : Prop :=
  ∃ (mine : Msg → Bool) (h : Handler) (post : Req → State → State),
    (∀ r x, exec (mk r) x = .next (notifyChanges (fdpServe mine h post r x))) ∧ mine m = true
    ∧ ∀ q u, q.msg = m → u.dict.vals = s.dict.vals → Refuses h q u c

/-- What the passage of time leaves of a fresh message. -/
theorem freshRequest_advance {s : State} {b : Bytes} (t : Nat) (h : NetFresh s b) :
    FreshRequest (advance t s) (parseMsg b 16) := by
  obtain ⟨hepoch, hwindow, hkept, hacts⟩ := h
  refine ⟨by rwa [advance_dict], by rwa [session_advance], ?_, by rw [advance_dict, hacts]; rfl⟩
  rw [session_advance, List.find?_eq_none] at *
  intro k hk hsame
  refine hkept k hk ?_
  simp only [Bool.and_eq_true, keptLive, advance_clock, decide_eq_true_eq] at hsame ⊢
  exact ⟨hsame.1, lt_of_le_of_lt (le_max_left _ _) hsame.2⟩

section Command
variable {mk : Rq → Instr} {s : State} {b : Bytes} {kind c : Nat} (t : Nat) (f : Bool)

theorem runs_mailbox_refused (hr : RefusesWrite mk (parseMsg b 0) s c) (hm : MbxHolds s b kind) :
    Runs (mk ⟨t, .mailbox, f⟩) s (fun u => Aborted u b c ∧ u.dict.vals = s.dict.vals ∧ u.ports = s.ports) := by
  obtain ⟨mine, h, post, hexec, hmine, hrefuses⟩ := hr
  have hm' : MbxHolds (advance t s) b kind := by simpa only [MbxHolds, advance_mbx, advance_boot] using hm
  obtain ⟨habort, hvals, hports⟩ := mbxServe_refused mine f hm' hmine (hrefuses _ _ rfl (by rw [advance_dict]))
  rw [advance_dict] at hvals
  rw [advance_ports] at hports
  exact ⟨_, hexec _ _, aborted_notifyChanges habort, (notified_notifyChanges _).keeps.vals.trans hvals,
    (notifyChanges_ports _).trans hports⟩

theorem runs_net_refused {port : Option Nat} {addr : Bytes} (hr : RefusesWrite mk (parseMsg b 16) s c)
    (hcanon : Canonical s) (ha : NetAsks s t port addr b kind) (hfresh : NetFresh s b) :
    Runs (mk ⟨t, .net port addr b, f⟩) s (fun u => u.dict.vals = s.dict.vals ∧ u.ports = s.ports ∧ (NetTag s b →
      Sends s u (parseMsg b 16).session port 3 kind (parseMsg b 16).reqId
        ((s.session (parseMsg b 16).session).tx + 1) (parseMsg b 16).index (parseMsg b 16).sub 0 c 0 [])) := by
  obtain ⟨mine, h, post, hexec, hmine, hrefuses⟩ := hr
  obtain ⟨-, ⟨-, hsessions⟩, -⟩ := hcanon
  obtain ⟨hvals, hports, hsends⟩ := netServe_refused mine post f (by rwa [advance_dict]) (netAsks_advance ha)
    (freshRequest_advance t hfresh) hmine fun q u hq hu => hrefuses q u hq (hu.trans (by rw [advance_dict]))
  rw [advance_dict] at hvals
  rw [advance_ports] at hports
  refine ⟨_, hexec _ _, (notified_notifyChanges _).keeps.vals.trans hvals, (notifyChanges_ports _).trans hports,
    fun htag => sends_notifyChanges ?_⟩
  have h := sends_advance.1 (hsends (netTag_advance.2 htag))
  rwa [session_advance] at h

end Command

/-! ### PortMode, AutoNeg and FecMode of an enabled port (spec 03 R96) -/

/-- The rows of the dictionary's table hold for all field ports or for none. -/
theorem objRowsAt_port {p : Nat} (hp : p < 512) : objRowsAt (0x2000 + p) = objRowsAt 0x2000 := by
  have hall : ∀ r ∈ objRows, r.last < 0x2000 ∨ 0x2200 ≤ r.first ∨ (r.first ≤ 0x2000 ∧ 0x21FF ≤ r.last) := by
    decide +kernel
  refine List.filter_congr fun r hr => decide_eq_decide.2 ?_
  have hrow := hall r hr
  omega

theorem objDesc_port {p k : Nat} (hp : p < 512) (hk : k ≠ 0) : objDesc (0x2000 + p) k = objDesc 0x2000 k := by
  simp [objDesc, objRowsAt_port hp, hk, show ¬ 0x2000 + p ≤ 12 by omega, show 0x2000 + p ≠ 0x3000 by omega]

section Port
variable {p k : Nat} {s : State} {m : Msg} (hp : p < 512) (hk : k = 1 ∨ k = 3 ∨ k = 4)
  (hen : adminEnable s p = true) (hidx : m.index = 0x2000 + p) (hsub : m.sub = k)

include hk in
/-- Each of the three values can be written. -/
theorem objDesc_portMode : ∃ r, objDesc 0x2000 k = some r ∧ r.acc = .rwp := by
  obtain rfl | rfl | rfl := hk <;> exact ⟨_, rfl, rfl⟩

include hp hidx in
/-- A port's value has no write command of its own. -/
theorem ownWrite_port : ownWrite m = false := by
  simp only [ownWrite, isKeyBlob, hidx, Bool.or_eq_false_iff, decide_eq_false_iff_not]
  omega

include hp hk hen in
theorem stateAborts_enabled : stateAborts s (0x2000 + p) k = true := by
  have hlt : 0x2000 + p < 0x2200 := by omega
  simp [stateAborts, hk, hen, hlt]

include hp hk hen hidx hsub

/-- What the two write commands need to refuse the value with STATE. -/
theorem port_refusal {q : Req} {u : State} (hq : q.msg = m) (hu : u.dict.vals = s.dict.vals) :
    (∃ r, objDesc q.msg.index q.msg.sub = some r ∧ r.acc = .rwp)
      ∧ stateAborts u q.msg.index q.msg.sub = true := by
  rw [hq, hidx, hsub, objDesc_port hp (by omega)]
  exact ⟨objDesc_portMode hk, stateAborts_enabled hp hk (by simpa only [adminEnable, cfgN, cfg, hu] using hen)⟩

theorem refusesWrite_port (hkind : m.kind = 2) : RefusesWrite .write m s aSTATE := by
  refine ⟨_, writeOne, _, fun _ _ => rfl, ?_, fun q u hq hu => ?_⟩
  · simp [kindIs, hkind, ownWrite_port hp hidx]
  · obtain ⟨⟨r, hd, hacc⟩, hs⟩ := port_refusal hp hk hen hidx hsub hq hu
    exact writeOne_refuses_state hd (by simp [hacc]) (by simp [hacc]) hs

theorem refusesWriteBlock_port (hkind : m.kind = 4) (hlast : m.flags.testBit 2 = false) :
    RefusesWrite .writeBlock m s aSTATE := by
  refine ⟨_, writeBlockOne, _, fun _ _ => rfl, by simp [kindIs, hkind], fun q u hq hu => ?_⟩
  obtain ⟨⟨r, hd, hacc⟩, hs⟩ := port_refusal hp hk hen hidx hsub hq hu
  exact writeBlockOne_refuses_state hd (by simp [hacc]) (by simp [hacc]) hs (by rw [hq, hidx]; omega) (hq ▸ hlast)

end Port

/-- Settles O49: the state of an enabled port refuses the three values, STATE is the first code to be returned, and
the refusal of either write command changes no value and no port, nor do the NOTIFYs after it. -/
theorem enabledPortRefuses : Obligations.EnabledPortRefuses := by
  refine ⟨fun p k t f b s m hp hk hen hm hidx hsub => ?_,
    fun p k t kind f mk port addr b s m hcanon hmk hp hk hen hm hidx hsub hlast ha hfresh => ?_⟩
  · subst hm
    refine ⟨fun hb => ?_, fun hb hlast => ?_⟩
    · have ⟨_, _, _, _, hkind⟩ := hb
      exact runs_mailbox_refused t f (refusesWrite_port hp hk hen hidx hsub hkind) hb
    · have ⟨_, _, _, _, hkind⟩ := hb
      exact runs_mailbox_refused t f (refusesWriteBlock_port hp hk hen hidx hsub hkind hlast) hb
  · subst hm
    have ⟨_, _, hkind, _⟩ := ha
    have hr : RefusesWrite mk (parseMsg b 16) s aSTATE := by
      simp only [List.mem_cons, Prod.mk.injEq, List.not_mem_nil, or_false] at hmk
      obtain ⟨rfl, rfl⟩ | ⟨rfl, rfl⟩ := hmk
      · exact refusesWrite_port hp hk hen hidx hsub hkind
      · exact refusesWriteBlock_port hp hk hen hidx hsub hkind hlast
    have hruns := runs_net_refused t f hr hcanon ha hfresh
    rwa [hidx, hsub] at hruns

end Sys2Proof.Machine
end

section
/-! What holds of every command (spec 00): it has a next state, changes only its blocks, and keeps what `Keeps`
names; then what a step keeps, and the state after reset. -/

namespace Sys2Proof

theorem Sub.refl (l : List Blk) : Sub l l := fun _ h => h

end Sys2Proof

namespace Sys2Proof.Machine
open Sys2Proof

/-! ### Every command -/

/-- A command changes no block outside its own, and keeps the queue, the clock's direction, the output and the
canonical form. -/
theorem exec_frame_keeps {s u : State} : ∀ {c : Instr}, exec c s = .next u → Frame (touches c) s u ∧ Keeps s u
  | .coldStart .., h => ⟨.execColdStart _ _ (.refl _) h, .execColdStart _ _ h⟩
  | .ddr4TrainingDone .., h => ⟨.execDdr4TrainingDone _ _ (.refl _) h, .execDdr4TrainingDone _ _ h⟩
  | .pf0Ready .., h => ⟨.execPf0Ready _ (.refl _) h, .execPf0Ready _ h⟩
  | .fieldInService .., h => ⟨.execFieldInService _ (.refl _) h, .execFieldInService _ h⟩
  | .allReady .., h => ⟨.execAllReady _ (.refl _) h, .execAllReady _ h⟩
  | .perstNAssert .., h => ⟨.execPerstNAssert _ (.refl _) h, .execPerstNAssert _ h⟩
  | .perstNRelease .., h => ⟨.execPerstNRelease _ (.refl _) h, .execPerstNRelease _ h⟩
  | .fullResetMark .., h => ⟨.execFullResetMark _ (.refl _) h, .execFullResetMark _ h⟩
  | .writeCacheDrainEnd .., h => ⟨.execWriteCacheDrainEnd _ _ (.refl _) h, .execWriteCacheDrainEnd _ _ h⟩
  | .hotReset .., h => ⟨.execHotReset _ (.refl _) h, .execHotReset _ h⟩
  | .linkDown .., h => ⟨.execLinkDown _ (.refl _) h, .execLinkDown _ h⟩
  | .linkUp .., h => ⟨.execLinkUp _ _ _ _ (.refl _) h, .execLinkUp _ _ _ _ h⟩
  | .acFailFall .., h => ⟨.execAcFailFall _ (.refl _) h, .execAcFailFall _ h⟩
  | .emergencyDrainDone .., h => ⟨.execEmergencyDrainDone _ (.refl _) h, .execEmergencyDrainDone _ h⟩
  | .acFailRise .., h => ⟨.execAcFailRise _ (.refl _) h, .execAcFailRise _ h⟩
  | .railFault .., h => ⟨.execRailFault _ _ (.refl _) h, .execRailFault _ _ h⟩
  | .refclkLoss .., h => ⟨.execRefclkLoss _ (.refl _) h, .execRefclkLoss _ h⟩
  | .thermalSample .., h => ⟨.execThermalSample _ _ _ (.refl _) h, .execThermalSample _ _ _ h⟩
  | .thermtrip .., h => ⟨.execThermtrip _ (.refl _) h, .execThermtrip _ h⟩
  | .flitReceive .., h => ⟨.execFlitReceive _ _ (.refl _) h, .execFlitReceive _ _ h⟩
  | .culvertDown .., h => ⟨.execCulvertDown _ _ (.refl _) h, .execCulvertDown _ _ h⟩
  | .culvertRetrain .., h => ⟨.execCulvertRetrain _ _ _ (.refl _) h, .execCulvertRetrain _ _ _ h⟩
  | .replicaResyncDone .., h => ⟨.execReplicaResyncDone _ (.refl _) h, .execReplicaResyncDone _ h⟩
  | .frameReceive .., h => ⟨.execFrameReceive _ _ _ _ (.refl _) h, .execFrameReceive _ _ _ _ h⟩
  | .recircPass .., h => ⟨.execRecircPass _ _ (.refl _) h, .execRecircPass _ _ h⟩
  | .contextRequest .., h => ⟨.execContextRequest _ _ (.refl _) h, .execContextRequest _ _ h⟩
  | .fetchIssue .., h => ⟨.execFetchIssue _ (.refl _) h, .execFetchIssue _ h⟩
  | .fetchComplete .., h => ⟨.execFetchComplete _ _ _ _ (.refl _) h, .execFetchComplete _ _ _ _ h⟩
  | .flowAgerVisit .., h => ⟨.execFlowAgerVisit _ _ (.refl _) h, .execFlowAgerVisit _ _ h⟩
  | .frameEnqueue .., h => ⟨.execFrameEnqueue _ _ _ (.refl _) h, .execFrameEnqueue _ _ _ h⟩
  | .injectionFrame .., h => ⟨.execInjectionFrame _ _ _ (.refl _) h, .execInjectionFrame _ _ _ h⟩
  | .txSelect .., h => ⟨.execTxSelect _ _ (.refl _) h, .execTxSelect _ _ h⟩
  | .frameTxComplete .., h => ⟨.execFrameTxComplete _ _ _ (.refl _) h, .execFrameTxComplete _ _ _ h⟩
  | .gateEntryChange .., h => ⟨.execGateEntryChange _ _ (.refl _) h, .execGateEntryChange _ _ h⟩
  | .gateConfigApply .., h => ⟨.execGateConfigApply _ _ (.refl _) h, .execGateConfigApply _ _ h⟩
  | .hostTxSelect .., h => ⟨.execHostTxSelect _ _ (.refl _) h, .execHostTxSelect _ _ h⟩
  | .rxDeliver .., h => ⟨.execRxDeliver _ _ _ (.refl _) h, .execRxDeliver _ _ _ h⟩
  | .samplePeriodExpiry .., h => ⟨.execSamplePeriodExpiry _ _ (.refl _) h, .execSamplePeriodExpiry _ _ h⟩
  | .learn .., h => ⟨.execLearn _ _ (.refl _) h, .execLearn _ _ h⟩
  | .replicaWrite .., h => ⟨.execReplicaWrite _ _ (.refl _) h, .execReplicaWrite _ _ h⟩
  | .hitNotice .., h => ⟨.execHitNotice _ (.refl _) h, .execHitNotice _ h⟩
  | .learnFilterExpiry .., h => ⟨.execLearnFilterExpiry _ _ (.refl _) h, .execLearnFilterExpiry _ _ h⟩
  | .agerVisit .., h => ⟨.execAgerVisit _ _ (.refl _) h, .execAgerVisit _ _ h⟩
  | .flushSweep .., h => ⟨.execFlushSweep _ (.refl _) h, .execFlushSweep _ h⟩
  | .flushSweepEnd .., h => ⟨.execFlushSweepEnd _ (.refl _) h, .execFlushSweepEnd _ h⟩
  | .bankRetire .., h => ⟨.execBankRetire _ _ (.refl _) h, .execBankRetire _ _ h⟩
  | .linkStateChange .., h => ⟨.execLinkStateChange _ _ _ _ (.refl _) h, .execLinkStateChange _ _ _ _ h⟩
  | .portRetry .., h => ⟨.execPortRetry _ _ (.refl _) h, .execPortRetry _ _ h⟩
  | .frrConditionChange .., h => ⟨.execFrrConditionChange _ _ _ _ (.refl _) h, .execFrrConditionChange _ _ _ _ h⟩
  | .frrDebounceExpiry .., h => ⟨.execFrrDebounceExpiry _ _ _ (.refl _) h, .execFrrDebounceExpiry _ _ _ h⟩
  | .frrRevertHoldExpiry .., h => ⟨.execFrrRevertHoldExpiry _ _ (.refl _) h, .execFrrRevertHoldExpiry _ _ h⟩
  | .frerResetTimeout .., h => ⟨.execFrerResetTimeout _ (.refl _) h, .execFrerResetTimeout _ h⟩
  | .timeSourceLost .., h => ⟨.execTimeSourceLost _ (.refl _) h, .execTimeSourceLost _ h⟩
  | .ptpMessage .., h => ⟨.execPtpMessage _ _ _ (.refl _) h, .execPtpMessage _ _ _ h⟩
  | .ppsInEdge .., h => ⟨.execPpsInEdge _ _ (.refl _) h, .execPpsInEdge _ _ h⟩
  | .ppsOutRise .., h => ⟨.execPpsOutRise _ (.refl _) h, .execPpsOutRise _ h⟩
  | .ppsOutFall .., h => ⟨.execPpsOutFall _ (.refl _) h, .execPpsOutFall _ h⟩
  | .mbxGo .., h => ⟨.execMbxGo _ _ (.refl _) h, .execMbxGo _ _ h⟩
  | .registerWrite .., h => ⟨.execRegisterWrite _ _ _ _ _ _ (.refl _) h, .execRegisterWrite _ _ _ _ _ _ h⟩
  | .read .., h => ⟨.execRead _ (.refl _) h, .execRead _ h⟩
  | .write .., h => ⟨.execWrite _ (.refl _) h, .execWrite _ h⟩
  | .readBlock .., h => ⟨.execReadBlock _ (.refl _) h, .execReadBlock _ h⟩
  | .writeBlock .., h => ⟨.execWriteBlock _ (.refl _) h, .execWriteBlock _ h⟩
  | .subscribe .., h => ⟨.execSubscribe _ (.refl _) h, .execSubscribe _ h⟩
  | .subscriptionTimer .., h => ⟨.execSubscriptionTimer _ _ (.refl _) h, .execSubscriptionTimer _ _ h⟩
  | .snapshotExpiry .., h => ⟨.execSnapshotExpiry _ _ _ (.refl _) h, .execSnapshotExpiry _ _ _ h⟩
  | .stagingExpiry .., h => ⟨.execStagingExpiry _ _ _ (.refl _) h, .execStagingExpiry _ _ _ h⟩
  | .keptResponseExpiry .., h => ⟨.execKeptResponseExpiry _ _ (.refl _) h, .execKeptResponseExpiry _ _ h⟩
  | .tokenExpiry .., h => ⟨.execTokenExpiry _ _ (.refl _) h, .execTokenExpiry _ _ h⟩
  | .serviceToken .., h => ⟨.execServiceToken _ (.refl _) h, .execServiceToken _ h⟩
  | .keyBlob .., h => ⟨.execKeyBlob _ (.refl _) h, .execKeyBlob _ h⟩
  | .storeAll .., h => ⟨.execStoreAll _ (.refl _) h, .execStoreAll _ h⟩
  | .storeAllComplete .., h => ⟨.execStoreAllComplete _ _ (.refl _) h, .execStoreAllComplete _ _ h⟩
  | .restoreDefaults .., h => ⟨.execRestoreDefaults _ (.refl _) h, .execRestoreDefaults _ h⟩
  | .unsubscribe .., h => ⟨.execUnsubscribe _ (.refl _) h, .execUnsubscribe _ h⟩
  | .timeSet .., h => ⟨.execTimeSet _ (.refl _) h, .execTimeSet _ h⟩
  | .timeAdjust .., h => ⟨.execTimeAdjust _ (.refl _) h, .execTimeAdjust _ h⟩
  | .frrRevert .., h => ⟨.execFrrRevert _ (.refl _) h, .execFrrRevert _ h⟩
  | .frerStreamWrite .., h => ⟨.execFrerStreamWrite _ (.refl _) h, .execFrerStreamWrite _ h⟩
  | .frerStreamRead .., h => ⟨.execFrerStreamRead _ (.refl _) h, .execFrerStreamRead _ h⟩
  | .ruleWrite .., h => ⟨.execRuleWrite _ (.refl _) h, .execRuleWrite _ h⟩
  | .ruleRead .., h => ⟨.execRuleRead _ (.refl _) h, .execRuleRead _ h⟩
  | .ruleClearRange .., h => ⟨.execRuleClearRange _ (.refl _) h, .execRuleClearRange _ h⟩
  | .ruleCounterRead .., h => ⟨.execRuleCounterRead _ (.refl _) h, .execRuleCounterRead _ h⟩
  | .ruleCounterClear .., h => ⟨.execRuleCounterClear _ (.refl _) h, .execRuleCounterClear _ h⟩
  | .parseStateWrite .., h => ⟨.execParseStateWrite _ (.refl _) h, .execParseStateWrite _ h⟩
  | .transitionWrite .., h => ⟨.execTransitionWrite _ (.refl _) h, .execTransitionWrite _ h⟩
  | .keyProfileWrite .., h => ⟨.execKeyProfileWrite _ (.refl _) h, .execKeyProfileWrite _ h⟩
  | .classMapWrite .., h => ⟨.execClassMapWrite _ (.refl _) h, .execClassMapWrite _ h⟩
  | .programRead .., h => ⟨.execProgramRead _ (.refl _) h, .execProgramRead _ h⟩
  | .bankSwap .., h => ⟨.execBankSwap _ (.refl _) h, .execBankSwap _ h⟩
  | .tblRead .., h => ⟨.execTblRead _ _ _ _ (.refl _) h, .execTblRead _ _ _ _ h⟩
  | .tblWrite .., h => ⟨.execTblWrite _ _ _ _ (.refl _) h, .execTblWrite _ _ _ _ h⟩
  | .tblDelete .., h => ⟨.execTblDelete _ _ _ _ (.refl _) h, .execTblDelete _ _ _ _ h⟩
  | .tblSearch .., h => ⟨.execTblSearch _ _ _ _ (.refl _) h, .execTblSearch _ _ _ _ h⟩
  | .flushByDest .., h => ⟨.execFlushByDest _ _ _ _ (.refl _) h, .execFlushByDest _ _ _ _ h⟩
  | .ageNow .., h => ⟨.execAgeNow _ _ _ _ (.refl _) h, .execAgeNow _ _ _ _ h⟩
  | .tableClear .., h => ⟨.execTableClear _ (.refl _) h, .execTableClear _ h⟩
  | .vlanWrite .., h => ⟨.execVlanWrite _ (.refl _) h, .execVlanWrite _ h⟩
  | .vlanRead .., h => ⟨.execVlanRead _ (.refl _) h, .execVlanRead _ h⟩
  | .groupWrite .., h => ⟨.execGroupWrite _ (.refl _) h, .execGroupWrite _ h⟩
  | .groupRead .., h => ⟨.execGroupRead _ (.refl _) h, .execGroupRead _ h⟩
  | .flowWrite .., h => ⟨.execFlowWrite _ (.refl _) h, .execFlowWrite _ h⟩
  | .flowRead .., h => ⟨.execFlowRead _ (.refl _) h, .execFlowRead _ h⟩
  | .flowDelete .., h => ⟨.execFlowDelete _ (.refl _) h, .execFlowDelete _ h⟩
  | .flowPin .., h => ⟨.execFlowPin _ (.refl _) h, .execFlowPin _ h⟩
  | .flowClear .., h => ⟨.execFlowClear _ (.refl _) h, .execFlowClear _ h⟩
  | .flowClearComplete .., h => ⟨.execFlowClearComplete _ (.refl _) h, .execFlowClearComplete _ h⟩
  | .bufOwnerRead .., h => ⟨.execBufOwnerRead _ (.refl _) h, .execBufOwnerRead _ h⟩
  | .bufPolderOwner .., h => ⟨.execBufPolderOwner _ (.refl _) h, .execBufPolderOwner _ h⟩
  | .bufErrorLatchClear .., h => ⟨.execBufErrorLatchClear _ (.refl _) h, .execBufErrorLatchClear _ h⟩
  | .gateConfigChange .., h => ⟨.execGateConfigChange _ (.refl _) h, .execGateConfigChange _ h⟩
  | .queueLatencyMax .., h => ⟨.execQueueLatencyMax _ (.refl _) h, .execQueueLatencyMax _ h⟩
  | .weirWrite .., h => ⟨.execWeirWrite _ (.refl _) h, .execWeirWrite _ h⟩
  | .weirRead .., h => ⟨.execWeirRead _ (.refl _) h, .execWeirRead _ h⟩
  | .weirUnblock .., h => ⟨.execWeirUnblock _ (.refl _) h, .execWeirUnblock _ h⟩
  | .weirCounterClear .., h => ⟨.execWeirCounterClear _ (.refl _) h, .execWeirCounterClear _ h⟩
  | .streamFilterWrite .., h => ⟨.execStreamFilterWrite _ (.refl _) h, .execStreamFilterWrite _ h⟩
  | .streamFilterRead .., h => ⟨.execStreamFilterRead _ (.refl _) h, .execStreamFilterRead _ h⟩
  | .functionStatus .., h => ⟨.execFunctionStatus _ (.refl _) h, .execFunctionStatus _ h⟩
  | .commit .., h => ⟨.execCommit _ (.refl _) h, .execCommit _ h⟩
  | .adjust .., h => ⟨.execAdjust _ (.refl _) h, .execAdjust _ h⟩
  | .remove .., h => ⟨.execRemove _ (.refl _) h, .execRemove _ h⟩
  | .polderRemoveComplete .., h => ⟨.execPolderRemoveComplete _ _ (.refl _) h, .execPolderRemoveComplete _ _ h⟩
  | .hostOwnerRelease .., h => ⟨.execHostOwnerRelease _ (.refl _) h, .execHostOwnerRelease _ h⟩
  | .polderFaultClear .., h => ⟨.execPolderFaultClear _ (.refl _) h, .execPolderFaultClear _ h⟩
  | .hostGroupWrite .., h => ⟨.execHostGroupWrite _ (.refl _) h, .execHostGroupWrite _ h⟩
  | .hostGroupRead .., h => ⟨.execHostGroupRead _ (.refl _) h, .execHostGroupRead _ h⟩
  | .queueStatusRead .., h => ⟨.execQueueStatusRead _ (.refl _) h, .execQueueStatusRead _ h⟩
  | .keySlotInfo .., h => ⟨.execKeySlotInfo _ (.refl _) h, .execKeySlotInfo _ h⟩
  | .channelInfo .., h => ⟨.execChannelInfo _ (.refl _) h, .execChannelInfo _ h⟩
  | .quiesce .., h => ⟨.execQuiesce _ (.refl _) h, .execQuiesce _ h⟩
  | .cartQuiesced .., h => ⟨.execCartQuiesced _ _ (.refl _) h, .execCartQuiesced _ _ h⟩
  | .selfTestStart .., h => ⟨.execSelfTestStart _ (.refl _) h, .execSelfTestStart _ h⟩
  | .sanitize .., h => ⟨.execSanitize _ (.refl _) h, .execSanitize _ h⟩
  | .namespaceCreate .., h => ⟨.execNamespaceCreate _ (.refl _) h, .execNamespaceCreate _ h⟩
  | .namespaceDelete .., h => ⟨.execNamespaceDelete _ (.refl _) h, .execNamespaceDelete _ h⟩
  | .namespaceRead .., h => ⟨.execNamespaceRead _ (.refl _) h, .execNamespaceRead _ h⟩
  | .namespaceAttach .., h => ⟨.execNamespaceAttach _ (.refl _) h, .execNamespaceAttach _ h⟩
  | .namespaceDetach .., h => ⟨.execNamespaceDetach _ (.refl _) h, .execNamespaceDetach _ h⟩
  | .namespaceKeyLoad .., h => ⟨.execNamespaceKeyLoad _ (.refl _) h, .execNamespaceKeyLoad _ h⟩
  | .namespaceFormat .., h => ⟨.execNamespaceFormat _ (.refl _) h, .execNamespaceFormat _ h⟩
  | .firmwareActivate .., h => ⟨.execFirmwareActivate _ (.refl _) h, .execFirmwareActivate _ h⟩
  | .activationCheck .., h => ⟨.execActivationCheck _ (.refl _) h, .execActivationCheck _ h⟩
  | .activationComplete .., h => ⟨.execActivationComplete _ (.refl _) h, .execActivationComplete _ h⟩
  | .activationTimeout .., h => ⟨.execActivationTimeout _ (.refl _) h, .execActivationTimeout _ h⟩
  | .rollbackAdvance .., h => ⟨.execRollbackAdvance _ (.refl _) h, .execRollbackAdvance _ h⟩
  | .dikeLogClear .., h => ⟨.execDikeLogClear _ (.refl _) h, .execDikeLogClear _ h⟩
  | .dikeDmaWindows .., h => ⟨.execDikeDmaWindows _ (.refl _) h, .execDikeDmaWindows _ h⟩
  | .heartbeat .., h => ⟨.execHeartbeat _ (.refl _) h, .execHeartbeat _ h⟩
  | .dikeHeartbeatTimeout .., h => ⟨.execDikeHeartbeatTimeout _ (.refl _) h, .execDikeHeartbeatTimeout _ h⟩
  | .coreRestartComplete .., h => ⟨.execCoreRestartComplete _ (.refl _) h, .execCoreRestartComplete _ h⟩
  | .eventClear .., h => ⟨.execEventClear _ (.refl _) h, .execEventClear _ h⟩
  | .portEventMapClear .., h => ⟨.execPortEventMapClear _ (.refl _) h, .execPortEventMapClear _ h⟩
  | .deviceCounterRead .., h => ⟨.execDeviceCounterRead _ (.refl _) h, .execDeviceCounterRead _ h⟩
  | .polderCounterSelect .., h => ⟨.execPolderCounterSelect _ (.refl _) h, .execPolderCounterSelect _ h⟩
  | .polderCounterRead .., h => ⟨.execPolderCounterRead _ (.refl _) h, .execPolderCounterRead _ h⟩
  | .selfTestRun .., h => ⟨.execSelfTestRun _ (.refl _) h, .execSelfTestRun _ h⟩
  | .selfTestEnd .., h => ⟨.execSelfTestEnd _ _ _ (.refl _) h, .execSelfTestEnd _ _ _ h⟩
  | .dieReturn .., h => ⟨.execDieReturn _ (.refl _) h, .execDieReturn _ h⟩
  | .dieReturnComplete .., h => ⟨.execDieReturnComplete _ _ (.refl _) h, .execDieReturnComplete _ _ h⟩
  | .junctionTempMaxClear .., h => ⟨.execJunctionTempMaxClear _ (.refl _) h, .execJunctionTempMaxClear _ h⟩
  | .configRequest .., h => ⟨.execConfigRequest _ _ _ _ (.refl _) h, .execConfigRequest _ _ _ _ h⟩
  | .vfEnable .., h => ⟨.execVfEnable _ _ (.refl _) h, .execVfEnable _ _ h⟩
  | .busMasterDisable .., h => ⟨.execBusMasterDisable _ _ (.refl _) h, .execBusMasterDisable _ _ h⟩
  | .interruptDisableWrite .., h => ⟨.execInterruptDisableWrite _ _ (.refl _) h, .execInterruptDisableWrite _ _ h⟩
  | .msixEnableWrite .., h => ⟨.execMsixEnableWrite _ _ _ (.refl _) h, .execMsixEnableWrite _ _ _ h⟩
  | .msixUnmask .., h => ⟨.execMsixUnmask _ _ _ (.refl _) h, .execMsixUnmask _ _ _ h⟩
  | .powerStateWrite .., h => ⟨.execPowerStateWrite _ _ _ (.refl _) h, .execPowerStateWrite _ _ _ h⟩
  | .flrInitiate .., h => ⟨.execFlrInitiate _ _ (.refl _) h, .execFlrInitiate _ _ h⟩
  | .flrDrainCap .., h => ⟨.execFlrDrainCap _ _ (.refl _) h, .execFlrDrainCap _ _ h⟩
  | .flrComplete .., h => ⟨.execFlrComplete _ _ (.refl _) h, .execFlrComplete _ _ h⟩
  | .completionReceive .., h => ⟨.execCompletionReceive _ _ _ _ (.refl _) h, .execCompletionReceive _ _ _ _ h⟩
  | .completionTimeout .., h => ⟨.execCompletionTimeout _ _ (.refl _) h, .execCompletionTimeout _ _ h⟩
  | .tagQuarantineEnd .., h => ⟨.execTagQuarantineEnd _ _ (.refl _) h, .execTagQuarantineEnd _ _ h⟩
  | .translationResponse .., h => ⟨.execTranslationResponse _ _ _ _ _ (.refl _) h, .execTranslationResponse _ _ _ _ _ h⟩
  | .prgResponse .., h => ⟨.execPrgResponse _ _ _ _ (.refl _) h, .execPrgResponse _ _ _ _ h⟩
  | .pageRequestTimeout .., h => ⟨.execPageRequestTimeout _ _ _ (.refl _) h, .execPageRequestTimeout _ _ _ h⟩
  | .priReset .., h => ⟨.execPriReset _ (.refl _) h, .execPriReset _ h⟩
  | .invalidateRequest .., h => ⟨.execInvalidateRequest _ _ _ _ _ (.refl _) h, .execInvalidateRequest _ _ _ _ _ h⟩
  | .invalidateComplete .., h => ⟨.execInvalidateComplete _ _ _ (.refl _) h, .execInvalidateComplete _ _ _ h⟩
  | .qNop .., h => ⟨.execQNop _ _ (.refl _) h, .execQNop _ _ h⟩
  | .qLoad .., h => ⟨.execQLoad _ _ _ (.refl _) h, .execQLoad _ _ _ h⟩
  | .qRead .., h => ⟨.execQRead _ _ _ (.refl _) h, .execQRead _ _ _ h⟩
  | .qEnable .., h => ⟨.execQEnable _ _ _ (.refl _) h, .execQEnable _ _ _ h⟩
  | .qDisable .., h => ⟨.execQDisable _ _ _ (.refl _) h, .execQDisable _ _ _ h⟩
  | .qReset .., h => ⟨.execQReset _ _ _ (.refl _) h, .execQReset _ _ _ h⟩
  | .tailDoorbell .., h => ⟨.execTailDoorbell _ _ _ _ (.refl _) h, .execTailDoorbell _ _ _ _ h⟩
  | .headDoorbell .., h => ⟨.execHeadDoorbell _ _ _ _ (.refl _) h, .execHeadDoorbell _ _ _ _ h⟩
  | .entryFetch .., h => ⟨.execEntryFetch _ _ _ _ _ (.refl _) h, .execEntryFetch _ _ _ _ _ h⟩
  | .chainDone .., h => ⟨.execChainDone _ _ _ (.refl _) h, .execChainDone _ _ _ h⟩
  | .heldRelease .., h => ⟨.execHeldRelease _ _ _ (.refl _) h, .execHeldRelease _ _ _ h⟩
  | .modTimeExpiry .., h => ⟨.execModTimeExpiry _ _ _ (.refl _) h, .execModTimeExpiry _ _ _ h⟩
  | .txFrame .., h => ⟨.execTxFrame _ _ _ _ (.refl _) h, .execTxFrame _ _ _ _ h⟩
  | .rxBuf .., h => ⟨.execRxBuf _ _ _ (.refl _) h, .execRxBuf _ _ _ h⟩
  | .gcmEncrypt .., h => ⟨.execGcmEncrypt _ _ _ _ _ (.refl _) h, .execGcmEncrypt _ _ _ _ _ h⟩
  | .gcmDecrypt .., h => ⟨.execGcmDecrypt _ _ _ _ _ (.refl _) h, .execGcmDecrypt _ _ _ _ _ h⟩
  | .gmacGenerate .., h => ⟨.execGmacGenerate _ _ _ _ _ (.refl _) h, .execGmacGenerate _ _ _ _ _ h⟩
  | .gmacVerify .., h => ⟨.execGmacVerify _ _ _ _ _ (.refl _) h, .execGmacVerify _ _ _ _ _ h⟩
  | .ctr .., h => ⟨.execCtr _ _ _ _ _ (.refl _) h, .execCtr _ _ _ _ _ h⟩
  | .xtsEncrypt .., h => ⟨.execXtsEncrypt _ _ _ _ _ (.refl _) h, .execXtsEncrypt _ _ _ _ _ h⟩
  | .xtsDecrypt .., h => ⟨.execXtsDecrypt _ _ _ _ _ (.refl _) h, .execXtsDecrypt _ _ _ _ _ h⟩
  | .unwrap .., h => ⟨.execUnwrap _ _ _ _ (.refl _) h, .execUnwrap _ _ _ _ h⟩
  | .wrap .., h => ⟨.execWrap _ _ _ _ (.refl _) h, .execWrap _ _ _ _ h⟩
  | .slotClear .., h => ⟨.execSlotClear _ _ _ (.refl _) h, .execSlotClear _ _ _ h⟩
  | .cipherDispatch .., h => ⟨.execCipherDispatch _ (.refl _) h, .execCipherDispatch _ h⟩
  | .cipherMessageDone .., h => ⟨.execCipherMessageDone _ _ (.refl _) h, .execCipherMessageDone _ _ h⟩
  | .cipherCoreFault .., h => ⟨.execCipherCoreFault _ _ (.refl _) h, .execCipherCoreFault _ _ h⟩
  | .siphonWrite .., h => ⟨.execSiphonWrite _ _ _ _ (.refl _) h, .execSiphonWrite _ _ _ _ h⟩
  | .siphonWriteImm .., h => ⟨.execSiphonWriteImm _ _ _ _ (.refl _) h, .execSiphonWriteImm _ _ _ _ h⟩
  | .siphonRead .., h => ⟨.execSiphonRead _ _ _ _ (.refl _) h, .execSiphonRead _ _ _ _ h⟩
  | .jcmdSend .., h => ⟨.execJcmdSend _ _ _ _ (.refl _) h, .execJcmdSend _ _ _ _ h⟩
  | .recvNotify .., h => ⟨.execRecvNotify _ _ _ (.refl _) h, .execRecvNotify _ _ _ h⟩
  | .channelModify .., h => ⟨.execChannelModify _ _ _ _ (.refl _) h, .execChannelModify _ _ _ _ h⟩
  | .channelQuery .., h => ⟨.execChannelQuery _ _ _ (.refl _) h, .execChannelQuery _ _ _ h⟩
  | .regionRegister .., h => ⟨.execRegionRegister _ _ _ _ (.refl _) h, .execRegionRegister _ _ _ _ h⟩
  | .regionRevoke .., h => ⟨.execRegionRevoke _ _ _ (.refl _) h, .execRegionRevoke _ _ _ h⟩
  | .revokeFence .., h => ⟨.execRevokeFence _ _ _ _ (.refl _) h, .execRevokeFence _ _ _ _ h⟩
  | .siphonPacketSend .., h => ⟨.execSiphonPacketSend _ _ _ (.refl _) h, .execSiphonPacketSend _ _ _ h⟩
  | .siphonRxWrite .., h => ⟨.execSiphonRxWrite _ (.refl _) h, .execSiphonRxWrite _ h⟩
  | .siphonRxWriteImm .., h => ⟨.execSiphonRxWriteImm _ (.refl _) h, .execSiphonRxWriteImm _ h⟩
  | .siphonRxReadReq .., h => ⟨.execSiphonRxReadReq _ (.refl _) h, .execSiphonRxReadReq _ h⟩
  | .siphonRxReadResp .., h => ⟨.execSiphonRxReadResp _ (.refl _) h, .execSiphonRxReadResp _ h⟩
  | .siphonRxAck .., h => ⟨.execSiphonRxAck _ (.refl _) h, .execSiphonRxAck _ h⟩
  | .siphonRxNak .., h => ⟨.execSiphonRxNak _ (.refl _) h, .execSiphonRxNak _ h⟩
  | .siphonRxCnp .., h => ⟨.execSiphonRxCnp _ (.refl _) h, .execSiphonRxCnp _ h⟩
  | .siphonRxJcmd .., h => ⟨.execSiphonRxJcmd _ (.refl _) h, .execSiphonRxJcmd _ h⟩
  | .siphonRxXferRdy .., h => ⟨.execSiphonRxXferRdy _ (.refl _) h, .execSiphonRxXferRdy _ h⟩
  | .siphonRxJrsp .., h => ⟨.execSiphonRxJrsp _ (.refl _) h, .execSiphonRxJrsp _ h⟩
  | .siphonAckDelay .., h => ⟨.execSiphonAckDelay _ _ (.refl _) h, .execSiphonAckDelay _ _ h⟩
  | .siphonRtoExpiry .., h => ⟨.execSiphonRtoExpiry _ _ (.refl _) h, .execSiphonRtoExpiry _ _ h⟩
  | .siphonPathHold .., h => ⟨.execSiphonPathHold _ _ _ (.refl _) h, .execSiphonPathHold _ _ _ h⟩
  | .siphonCnpInterval .., h => ⟨.execSiphonCnpInterval _ _ (.refl _) h, .execSiphonCnpInterval _ _ h⟩
  | .siphonStepTimer .., h => ⟨.execSiphonStepTimer _ _ _ (.refl _) h, .execSiphonStepTimer _ _ _ h⟩
  | .xferGrant .., h => ⟨.execXferGrant _ _ _ (.refl _) h, .execXferGrant _ _ _ h⟩
  | .siphonXferTimeout .., h => ⟨.execSiphonXferTimeout _ _ _ (.refl _) h, .execSiphonXferTimeout _ _ _ h⟩
  | .journalRead .., h => ⟨.execJournalRead _ _ _ (.refl _) h, .execJournalRead _ _ _ h⟩
  | .journalWrite .., h => ⟨.execJournalWrite _ _ _ (.refl _) h, .execJournalWrite _ _ _ h⟩
  | .journalFlush .., h => ⟨.execJournalFlush _ _ (.refl _) h, .execJournalFlush _ _ h⟩
  | .deallocate .., h => ⟨.execDeallocate _ _ (.refl _) h, .execDeallocate _ _ h⟩
  | .identify .., h => ⟨.execIdentify _ _ (.refl _) h, .execIdentify _ _ h⟩
  | .logRead .., h => ⟨.execLogRead _ _ (.refl _) h, .execLogRead _ _ h⟩
  | .journalSelfTest .., h => ⟨.execJournalSelfTest _ _ (.refl _) h, .execJournalSelfTest _ _ h⟩
  | .journalSanitize .., h => ⟨.execJournalSanitize _ _ (.refl _) h, .execJournalSanitize _ _ h⟩
  | .journalFormat .., h => ⟨.execJournalFormat _ _ (.refl _) h, .execJournalFormat _ _ h⟩
  | .unitAccept .., h => ⟨.execUnitAccept _ _ (.refl _) h, .execUnitAccept _ _ h⟩
  | .unitDrain .., h => ⟨.execUnitDrain _ _ (.refl _) h, .execUnitDrain _ _ h⟩
  | .rebuildDone .., h => ⟨.execRebuildDone _ _ (.refl _) h, .execRebuildDone _ _ h⟩
  | .cartSelfTestResume .., h => ⟨.execCartSelfTestResume _ _ (.refl _) h, .execCartSelfTestResume _ _ h⟩
  | .cartSelfTestDone .., h => ⟨.execCartSelfTestDone _ _ _ _ (.refl _) h, .execCartSelfTestDone _ _ _ _ h⟩
  | .sanitizeComplete .., h => ⟨.execSanitizeComplete _ _ (.refl _) h, .execSanitizeComplete _ _ h⟩
  | .formatComplete .., h => ⟨.execFormatComplete _ _ (.refl _) h, .execFormatComplete _ _ h⟩
  | .cartPresentDebounce .., h => ⟨.execCartPresentDebounce _ _ (.refl _) h, .execCartPresentDebounce _ _ h⟩
  | .cartLinkTrained .., h => ⟨.execCartLinkTrained _ _ _ _ (.refl _) h, .execCartLinkTrained _ _ _ _ h⟩
  | .cartLinkTimeout .., h => ⟨.execCartLinkTimeout _ _ (.refl _) h, .execCartLinkTimeout _ _ h⟩
  | .cartOnline .., h => ⟨.execCartOnline _ _ _ (.refl _) h, .execCartOnline _ _ _ h⟩
  | .cartRemoval .., h => ⟨.execCartRemoval _ _ (.refl _) h, .execCartRemoval _ _ h⟩
  | .evtStatWrite .., h => ⟨.execEvtStatWrite _ _ _ _ (.refl _) h, .execEvtStatWrite _ _ _ _ h⟩
  | .evtMaskWrite .., h => ⟨.execEvtMaskWrite _ _ _ (.refl _) h, .execEvtMaskWrite _ _ _ h⟩
  | .evtVectorWrite .., h => ⟨.execEvtVectorWrite _ _ _ (.refl _) h, .execEvtVectorWrite _ _ _ h⟩
  | .evtTestWrite .., h => ⟨.execEvtTestWrite _ _ _ (.refl _) h, .execEvtTestWrite _ _ _ h⟩
  | .ctrSelWrite .., h => ⟨.execCtrSelWrite _ _ _ (.refl _) h, .execCtrSelWrite _ _ _ h⟩
  | .ctrLoRead .., h => ⟨.execCtrLoRead _ _ (.refl _) h, .execCtrLoRead _ _ h⟩
  | .ctrValueWrite .., h => ⟨.execCtrValueWrite _ _ _ _ (.refl _) h, .execCtrValueWrite _ _ _ _ h⟩
  | .ctrOvfClear .., h => ⟨.execCtrOvfClear _ _ _ _ (.refl _) h, .execCtrOvfClear _ _ _ _ h⟩
  | .clearAll .., h => ⟨.execClearAll _ (.refl _) h, .execClearAll _ h⟩
  | .freezeAll .., h => ⟨.execFreezeAll _ _ (.refl _) h, .execFreezeAll _ _ h⟩
  | .pageOvfClear .., h => ⟨.execPageOvfClear _ _ _ _ (.refl _) h, .execPageOvfClear _ _ _ _ h⟩
  | .smbusJunctionTemp, h => ⟨.execSmbusJunctionTemp (.refl _) h, .execSmbusJunctionTemp h⟩
  | .smbusStatus, h => ⟨.execSmbusStatus (.refl _) h, .execSmbusStatus h⟩
  | .smbusPowerEstimate, h => ⟨.execSmbusPowerEstimate (.refl _) h, .execSmbusPowerEstimate h⟩
  | .smbusJunctionTempFine, h => ⟨.execSmbusJunctionTempFine (.refl _) h, .execSmbusJunctionTempFine h⟩
  | .smbusStepping, h => ⟨.execSmbusStepping (.refl _) h, .execSmbusStepping h⟩
  | .extest, h => ⟨.execExtest (.refl _) h, .execExtest h⟩
  | .samplePreload .., h => ⟨.execSamplePreload _ (.refl _) h, .execSamplePreload _ h⟩
  | .idcode, h => ⟨.execIdcode (.refl _) h, .execIdcode h⟩
  | .bypass .., h => ⟨.execBypass _ (.refl _) h, .execBypass _ h⟩
  | .clamp, h => ⟨.execClamp (.refl _) h, .execClamp h⟩
  | .highz, h => ⟨.execHighz (.refl _) h, .execHighz h⟩
  | .extestPulse, h => ⟨.execExtestPulse (.refl _) h, .execExtestPulse h⟩
  | .extestTrain, h => ⟨.execExtestTrain (.refl _) h, .execExtestTrain h⟩
  | .tblCommandComplete .., h => ⟨.execTblCommandComplete _ (.refl _) h, .execTblCommandComplete _ h⟩
  | .writeBackReachesDdr4 .., h => ⟨.execWriteBackReachesDdr4 _ (.refl _) h, .execWriteBackReachesDdr4 _ h⟩
  | .acFailNHigh .., h => ⟨.execAcFailNHigh _ (.refl _) h, .execAcFailNHigh _ h⟩
  | .cartPrsntNFall .., h => ⟨.execCartPrsntNFall _ _ (.refl _) h, .execCartPrsntNFall _ _ h⟩

theorem exec_next (c : Instr) (s : State) : ∃ u, exec c s = .next u := by
  cases c <;> exact ⟨_, rfl⟩

/-! ### A step -/

theorem step_nil {s : State} (h : s.pending = []) : step s = .next s := by
  simp only [step, h]

theorem step_cons {s : State} {c : Instr} {rest : List Instr} (h : s.pending = c :: rest) :
    step s = exec c { s with pending := rest } := by
  simp only [step, h]

/-- A step idles on an empty queue, and otherwise is the command in front. -/
theorem step_cases {s u : State} (h : step s = .next u) :
    (s.pending = [] ∧ u = s)
      ∨ ∃ c rest, s.pending = c :: rest ∧ exec c { s with pending := rest } = .next u := by
  cases hp : s.pending with
  | nil => exact .inl ⟨rfl, by simpa [step_nil hp] using h.symm⟩
  | cons c rest => exact .inr ⟨c, rest, rfl, step_cons hp ▸ h⟩

/-- Settles O56: the two equations of `step`, and each command's arm answers a next state. -/
theorem stepTakesFront : Obligations.StepTakesFront :=
  ⟨fun _ _ _ h => step_cons h, fun _ h => step_nil h, exec_next⟩

/-- Settles O57: the command in front keeps the canonical form, whatever waits behind it. -/
theorem stepKeepsCanonical : Obligations.StepKeepsCanonical := by
  intro s u hs h
  obtain ⟨-, rfl⟩ | ⟨c, rest, -, hc⟩ := step_cases h
  · exact hs
  · exact (exec_frame_keeps hc).2.form hs

/-- Settles O59: each command's frame. -/
theorem framesByBlock : Obligations.FramesByBlock :=
  fun _ _ _ h => (exec_frame_keeps h).1

/-- Settles O60: the command in front leaves the queue's rest, the clock and the output as `Keeps` has it. -/
theorem stepGoesForward : Obligations.StepGoesForward := by
  intro s u h
  obtain ⟨hp, rfl⟩ | ⟨c, rest, hp, hc⟩ := step_cases h
  · exact ⟨by rw [hp, List.tail_nil], le_refl _, [], (List.append_nil _).symm⟩
  · obtain ⟨hpending, hclock, hout, -⟩ := (exec_frame_keeps hc).2
    exact ⟨by rw [hpending, hp, List.tail_cons], hclock, hout⟩

/-! ### The state after reset -/

theorem canonical_reset : Canonical State.reset := by
  refine ⟨⟨?_, ?_⟩, ⟨?_, ?_⟩, ?_, ?_, ⟨?_, ?_, ?_, ?_, ?_, ?_⟩, ⟨?_, ?_⟩, ⟨?_, ?_⟩, ⟨?_, ?_⟩, ⟨?_, ?_⟩, ⟨?_, ?_, ?_⟩, ?_,
    ⟨?_, ?_⟩, ⟨?_, ?_, ?_⟩, ?_, ⟨?_, ?_, ?_, ?_, ?_⟩⟩ <;> rfl

theorem mbxWord_reset {s : State} (h : s.mbx = Mailbox.reset) (off : Nat) : mbxWord s off = 0 := by
  unfold mbxWord
  rw [h]
  repeat' split
  all_goals rfl

/-- Settles O58: every table of the reset state is empty, so each read of one gives its default. -/
theorem resetState : Obligations.ResetState := by
  refine ⟨canonical_reset, rfl, rfl, rfl, fun _ => ⟨rfl, rfl⟩, rfl, fun _ => ⟨rfl, rfl, rfl, rfl⟩, rfl, fun _ _ => rfl,
    rfl, fun k => mbxWord_reset rfl (4 * k), fun _ => ⟨rfl, rfl⟩, fun _ _ => ⟨rfl, rfl⟩, fun _ => rfl, rfl, rfl⟩

end Sys2Proof.Machine
end

section
/-! Actions of the dictionary that read a record, or that change a block and write the Dike's log: a rule for each
shape, then the classifier (spec 04), the VLAN and group tables (spec 05) and the FRER streams (spec 03). -/

namespace Sys2Proof.Machine
open Sys2Proof

/-! ### The owners' checks -/

@[simp] theorem abortIf_eq_nil {c : Bool} {a : Nat} : abortIf c a = [] ↔ c = false := by
  cases c <;> simp [abortIf]

theorem ruleAborts_eq_nil {s : State} {b : Nat} (hb : b ≤ 1) (hs : bankStatus s b ≠ 2) : ruleAborts s b = [] := by
  simp [ruleAborts, Nat.not_lt.2 hb, hs]

theorem programAborts_eq_nil {s : State} {b : Nat} (hb : b ≤ 1) (hs : bankStatus s b = 0) : programAborts s b = [] := by
  simp [programAborts, Nat.not_lt.2 hb, hs]

/-! ### Rules for the shapes of actions -/

section Shapes
variable {mk : Rq → Instr} {mine : Nat → Nat → Bool} {own : Req → State → List Nat} {go : Handler} {idx sub ty : Nat}
  {ok : Bytes → State → Prop} {data : Bytes → State → Bytes} {done : Bytes → State → State → Prop}
  (hx : ∀ r s, exec (mk r) s = .next (serveAction mine own go r s)) (hm : mine idx sub = true)
include hx hm

/-- An action that only answers. -/
theorem serves_read (h : ∀ q x, q.msg.index = idx → q.msg.sub = sub → ok q.msg.data x →
      own q x = [] ∧ go q x = (x, .ok 0 0 ty (data q.msg.data x))) :
    ServesAction mk idx sub ok ty data (fun _ s u => AnswersOnly s u) :=
  serves_ok hx hm fun q x hi hs hok =>
    ⟨(h q x hi hs hok).1, x, (h q x hi hs hok).2, fun _ _ _ _ => mbxRespond_only ..⟩

/-- An action that takes the state to `y` and is then answered. -/
theorem serves_change (h : ∀ q x, q.msg.index = idx → q.msg.sub = sub → ok q.msg.data x →
      own q x = [] ∧ ∃ y, go q x = (y, .ok 0 0 ty (data q.msg.data x))
        ∧ ∀ u, AnswersOnly y u → done q.msg.data x u) :
    ServesAction mk idx sub ok ty data done :=
  serves_ok hx hm fun q x hi hs hok =>
    have ⟨ho, y, hy, hdone⟩ := h q x hi hs hok
    ⟨ho, y, hy, fun _ _ _ _ => hdone _ (mbxRespond_only ..)⟩

/-- An action that takes the state to `y`, up to records in the Dike's log. -/
theorem serves_logged_change (h : ∀ q x, q.msg.index = idx → q.msg.sub = sub → ok q.msg.data x →
      own q x = [] ∧ ∃ y z, Logs y z ∧ go q x = (z, .ok 0 0 ty (data q.msg.data x))
        ∧ ∀ u, AnswersAndLogs y u → done q.msg.data x u) :
    ServesAction mk idx sub ok ty data done :=
  serves_ok hx hm fun q x hi hs hok => by
    obtain ⟨ho, y, z, hlog, hz, hdone⟩ := h q x hi hs hok
    refine ⟨ho, z, hz, fun _ _ _ _ => hdone _ ?_⟩
    unfold AnswersAndLogs
    apply mbxRespond_only_of
    simp only [mbxRespond_boot, mbxRespond_dict]
    exact hlog

end Shapes

end Sys2Proof.Machine

namespace Sys2Proof
open Machine

/-! ### What an answer leaves -/

section Answers
variable {s u : State}

theorem SignalsOnly.signals (h : SignalsOnly s u) : Signals s u := by
  obtain ⟨h1, h2, h3, h4, h5⟩ := h
  exact ⟨h1, h2, h3, h4, h5⟩

theorem AnswersOnly.signals (h : AnswersOnly s u) : Signals { s with mbx := u.mbx } u :=
  SignalsOnly.signals (And.left h)

theorem AnswersAndLogs.signals (h : AnswersAndLogs s u) : Signals { s with
    boot := { s.boot with
      dikeLog := u.boot.dikeLog, dikeSeq := u.boot.dikeSeq, dikeOverflowed := u.boot.dikeOverflowed }
    dict := { s.dict with counters := u.dict.counters }
    mbx := u.mbx } u := AnswersOnly.signals h

theorem AnswersAndLogs.frer (h : AnswersAndLogs s u) : u.frer = s.frer := (AnswersAndLogs.signals h).frer
theorem AnswersAndLogs.cls (h : AnswersAndLogs s u) : u.cls = s.cls := (AnswersAndLogs.signals h).cls
theorem AnswersAndLogs.tables (h : AnswersAndLogs s u) : u.tables = s.tables := (AnswersAndLogs.signals h).tables
theorem AnswersAndLogs.flow (h : AnswersAndLogs s u) : u.flow = s.flow := (AnswersAndLogs.signals h).flow
theorem AnswersAndLogs.sched (h : AnswersAndLogs s u) : u.sched = s.sched := (AnswersAndLogs.signals h).sched
theorem AnswersAndLogs.polders (h : AnswersAndLogs s u) : u.polders = s.polders := (AnswersAndLogs.signals h).polders

/-! After a change of one block alone, that block is as changed, and the rest as an answer leaves it. -/

theorem AnswersAndLogs.of_cls {c : Classifier} (h : AnswersAndLogs { s with cls := c } u) :
    u.cls = c ∧ AnswersAndLogs { s with cls := u.cls } u := by
  have hc : u.cls = c := AnswersAndLogs.cls h
  exact ⟨hc, by rw [hc]; exact h⟩

theorem AnswersAndLogs.of_tables {c : Tables} (h : AnswersAndLogs { s with tables := c } u) :
    u.tables = c ∧ AnswersAndLogs { s with tables := u.tables } u := by
  have hc : u.tables = c := AnswersAndLogs.tables h
  exact ⟨hc, by rw [hc]; exact h⟩

theorem AnswersAndLogs.of_frer {c : Tab Frer} (h : AnswersAndLogs { s with frer := c } u) :
    u.frer = c ∧ AnswersAndLogs { s with frer := u.frer } u := by
  have hc : u.frer = c := AnswersAndLogs.frer h
  exact ⟨hc, by rw [hc]; exact h⟩

theorem AnswersAndLogs.of_sched {c : Sched} (h : AnswersAndLogs { s with sched := c } u) :
    u.sched = c ∧ AnswersAndLogs { s with sched := u.sched } u := by
  have hc : u.sched = c := AnswersAndLogs.sched h
  exact ⟨hc, by rw [hc]; exact h⟩

end Answers

end Sys2Proof

namespace Sys2Proof.Machine
open Sys2Proof

/-! ### The classifier (spec 04) -/

/-- An action that changes the classifier, and is logged on the four field dies. -/
theorem serves_classifier {mk : Rq → Instr} {mine : Nat → Nat → Bool} {own : Req → State → List Nat} {go : Handler}
    {idx sub : Nat} {ok : Bytes → State → Prop} {f : Bytes → State → Classifier}
    (hx : ∀ r s, exec (mk r) s = .next (serveAction mine own go r s)) (hm : mine idx sub = true)
    (ho : ∀ q x, ok q.msg.data x → own q x = [])
    (hg : ∀ q x, ∃ o c n, go q x = (dikeLogFields o c n { x with cls := f q.msg.data x }, .done)) :
    ServesAction mk idx sub ok 0 (fun _ _ => [])
      (fun d s u => u.cls = f d s ∧ AnswersAndLogs { s with cls := u.cls } u) :=
  serves_logged_change hx hm fun q x _ _ hok =>
    have ⟨_, _, _, h⟩ := hg q x
    ⟨ho q x hok, _, _, logs_dikeLogFields _ _ _ _, h, fun _ hu => AnswersAndLogs.of_cls hu⟩

/-- Settles O1: each write passes its checks, changes its bank and is logged. -/
theorem classifierWrites : Obligations.ClassifierWrites := by
  refine ⟨serves_classifier (fun _ _ => rfl) rfl ?_ fun _ _ => ⟨_, _, _, rfl⟩,
    serves_classifier (fun _ _ => rfl) rfl ?_ fun _ _ => ⟨_, _, _, rfl⟩,
    serves_classifier (fun _ _ => rfl) rfl ?_ fun _ _ => ⟨_, _, _, rfl⟩,
    serves_classifier (fun _ _ => rfl) rfl ?_ fun _ _ => ⟨_, _, _, rfl⟩,
    serves_classifier (fun _ _ => rfl) rfl ?_ fun _ _ => ⟨_, _, _, rfl⟩,
    serves_classifier (fun _ _ => rfl) rfl ?_ fun _ _ => ⟨_, _, _, rfl⟩,
    serves_classifier (fun _ _ => rfl) rfl ?_ fun _ _ => ⟨_, _, _, rfl⟩⟩
  · rintro q x ⟨hbank, hstatus, hvalid, hslot, haction⟩
    simp [ruleAborts_eq_nil hbank hstatus, hvalid, hslot, haction]
  · rintro q x ⟨hbank, hstatus, hzero, hcount, hend⟩
    simp [ruleAborts_eq_nil hbank hstatus, hzero]
    omega
  · rintro q x ⟨hbank, hstatus, hlow, hhigh, hrecord⟩
    simp [programAborts_eq_nil hbank hstatus, hlow, hhigh, hrecord]
  · rintro q x ⟨hbank, hstatus, hsrc, hlow, hhigh, hvalid, hzero⟩
    simp [programAborts_eq_nil hbank hstatus, hsrc, hlow, hhigh, hvalid, hzero]
  · rintro q x ⟨hbank, hstatus, hprofile, hsel⟩
    simp [programAborts_eq_nil hbank hstatus, hprofile]
    exact fun a ha hlt => (hsel a ha).resolve_left (Nat.not_le.2 hlt)
  · rintro q x ⟨hbank, hstatus, hzero, hclasses⟩
    simp [programAborts_eq_nil hbank hstatus, hzero]
    exact hclasses
  · rintro q x ⟨hbank, hstatus⟩
    exact programAborts_eq_nil hbank hstatus

/-- A cleared counter reads 0 on every die. -/
theorem get_ruleCounter_cleared (t : Tab Nat) (die : Nat) {c : Nat} (hc : c < 4096) :
    Tab.get 0 (t.filter fun e => decide (e.1 % 4096 ≠ c)) (ruleCounterKey die c) = 0 :=
  Tab.get_filter_none t _ _ fun _ => by
    simp [ruleCounterKey, Nat.add_mod, Nat.mod_eq_of_lt hc]

/-- Settles O2: the reads answer what the bank holds, and the clear drops the counter's entries of every die. -/
theorem classifierReads : Obligations.ClassifierReads := by
  refine ⟨serves_read (fun _ _ => rfl) rfl ?_, serves_read (fun _ _ => rfl) rfl ?_, serves_read (fun _ _ => rfl) rfl ?_,
    serves_logged_change (fun _ _ => rfl) rfl ?_⟩
  · rintro q x - - ⟨hbank, hzero, hslot⟩
    exact ⟨by simp [hbank, hzero, hslot], rfl⟩
  · intro q x _ _ hcounter
    exact ⟨by simp [hcounter], rfl⟩
  · rintro q x - - ⟨hbank, hkind, hstate, htrans, hprofile⟩
    refine ⟨?_, rfl⟩
    simp only [abortIf_eq_nil, Bool.or_eq_false_iff, Bool.and_eq_false_iff, decide_eq_false_iff_not]
    omega
  · intro q x _ _ hcounter
    refine ⟨by simp [hcounter], _, _, logs_dikeLogFields _ _ _ _, rfl, fun u hu => ?_⟩
    obtain ⟨hcls, hrest⟩ := AnswersAndLogs.of_cls hu
    have hlt : beNat q.msg.data < 4096 := by omega
    rw [hcls]
    exact ⟨fun die _ => ⟨get_ruleCounter_cleared _ die hlt, get_ruleCounter_cleared _ die hlt⟩, hu⟩

/-! ### The VLAN and group tables, and TableClear (spec 05) -/

/-- A scan that goes on changes what the table command under way has found, and nothing else. -/
theorem scanRun_eq (s : State) : ∃ b, scanRun s = { s with tables := { s.tables with busy := b } } := by
  unfold scanRun
  split
  · exact ⟨s.tables.busy, rfl⟩
  · split
    · exact ⟨s.tables.busy, rfl⟩
    · exact ⟨_, rfl⟩

theorem clearTable_fdb (s : State) : ∃ b, clearTable 0 s = { s with tables := { s.tables with
    busy := b, fdb := [], repFdb := [], localHit := []
    repQ := s.tables.repQ.filter (fun w => decide (w.table ≠ 0)) } } := by
  obtain ⟨b, hb⟩ := scanRun_eq s
  exact ⟨b, by rw [clearTable, hb]; rfl⟩

theorem clearTable_stream (s : State) : ∃ b, clearTable 1 s = { s with tables := { s.tables with
    busy := b, stream := [], repStream := []
    repQ := s.tables.repQ.filter (fun w => decide (w.table = 0)) } } := by
  obtain ⟨b, hb⟩ := scanRun_eq s
  exact ⟨b, by rw [clearTable, hb]; rfl⟩

/-- Settles O3: each write lists its record, each read answers one, and TableClear empties its table on all dies
whatever a scan of it has come to. -/
theorem tableActions : Obligations.TableActions := by
  refine ⟨serves_logged_change (fun _ _ => rfl) rfl ?_, serves_read (fun _ _ => rfl) rfl ?_,
    serves_logged_change (fun _ _ => rfl) rfl ?_, serves_read (fun _ _ => rfl) rfl ?_,
    serves_logged_change (fun _ _ => rfl) rfl ?_⟩
  · rintro q x - - ⟨hlow, hhigh, hfid, hflags, hzero, hmembers⟩
    refine ⟨?_, _, _, logs_dikeLogFields _ _ _ _, rfl, fun _ hu => AnswersAndLogs.of_tables hu⟩
    simp [hhigh, hfid, hflags, hzero, hmembers]
    omega
  · rintro q x - - ⟨hlow, hhigh⟩
    refine ⟨?_, rfl⟩
    simp [hhigh]
    omega
  · rintro q x - - ⟨hlow, hhigh, hmembers⟩
    refine ⟨?_, _, _, logs_dikeLogFields _ _ _ _, rfl, fun _ hu => AnswersAndLogs.of_tables hu⟩
    simp [badGroup, hlow, hhigh, hmembers]
  · rintro q x - - ⟨hlow, hhigh⟩
    exact ⟨by simp [badGroup, hlow, hhigh], rfl⟩
  · intro q x _ _ htable
    refine ⟨by simp [htable], _, _, logs_dikeLogFields _ _ _ _, rfl, fun u hu => ?_⟩
    obtain h | h : beNat q.msg.data = 0 ∨ beNat q.msg.data = 1 := by omega
    · obtain ⟨b, hb⟩ := clearTable_fdb x
      rw [h, hb] at hu
      rw [(AnswersAndLogs.of_tables hu).1, h]
      exact ⟨fun _ => ⟨rfl, rfl, rfl, rfl, rfl, rfl⟩, fun h1 => absurd h1 (by decide), rfl, rfl, hu⟩
    · obtain ⟨b, hb⟩ := clearTable_stream x
      rw [h, hb] at hu
      rw [(AnswersAndLogs.of_tables hu).1, h]
      exact ⟨fun h0 => absurd h0 (by decide), fun _ => ⟨rfl, rfl, rfl, rfl, rfl, rfl⟩, rfl, rfl, hu⟩

/-! ### FRER streams (spec 03 R128 to R134) -/

theorem satAdd64_one_ne_zero (n : Nat) : satAdd64 n 1 ≠ 0 := by
  unfold satAdd64
  omega

theorem frerAt_setFrer_ne {s : State} {i j : Nat} (x : Frer) (h : j ≠ i) : (s.setFrer i x).frerAt j = s.frerAt j :=
  Tab.get_set_other s.frer x (Ne.symm h)

/-- A stream in use reads back as it was set. -/
theorem frerAt_setFrer {s : State} {i : Nat} {x : Frer} (h : x.mode ≠ 0) : (s.setFrer i x).frerAt i = x :=
  Tab.get_set_of_ne s.frer i fun hx => h (congrArg Frer.mode hx)

theorem frerAt_advance (t : Nat) (s : State) (i : Nat) : (advance t s).frerAt i = s.frerAt i := by
  simp only [State.frerAt, advance_frer]

/-- Settles O4: a write sets the record of R132 with its recovery at its start, and the timer acts from its instant
on. -/
theorem frerStreams : Obligations.FrerStreams := by
  refine ⟨serves_logged_change (fun _ _ => rfl) rfl ?_, serves_read (fun _ _ => rfl) rfl ?_,
    fun t i s hi hmode htake hdue => ?_, fun t i s hearly => ?_⟩
  · rintro q x - - ⟨hstream, hmode, hport, hlow, hhigh, htlow, hthigh, hzero, hstrip⟩
    refine ⟨?_, _, _, logs_dikeLogFields _ _ _ _, rfl, fun _ hu => AnswersAndLogs.of_frer hu⟩
    simp [hstream, hmode, hzero, hstrip]
    exact ⟨⟨⟨⟨hport, hlow⟩, hhigh⟩, by omega⟩, hthigh⟩
  · intro q x _ _ hstream
    exact ⟨by simp [hstream], rfl⟩
  · refine ⟨_, rfl, ?_⟩
    simp only [frerAt_advance]
    rw [if_pos ⟨hi, hmode, by rw [htake]; rfl, hdue⟩]
    set x : Frer := { s.frerAt i with takeAny := true } with hx
    have hget : ((advance t s).setFrer i x).frerAt i = x := frerAt_setFrer (by simp [hx, hmode])
    have hlast : (frerCount i 6 1 ((advance t s).setFrer i x)).frerAt i
        = { x with ctr := Tab.upd 0 x.ctr 6 fun c => satAdd64 c 1 } := by
      rw [frerCount, hget]
      exact frerAt_setFrer (by simp [hx, hmode])
    refine ⟨?_, ?_, fun j hj => ?_, rfl, rfl, rfl, rfl, rfl⟩
    · rw [hlast]
    · rw [hlast]
      exact Tab.get_set_of_ne _ _ (satAdd64_one_ne_zero _)
    · rw [frerCount, frerAt_setFrer_ne _ hj, frerAt_setFrer_ne _ hj, frerAt_advance]
  · refine ⟨_, rfl, ?_⟩
    simp only [frerAt_advance]
    exact if_neg fun ⟨_, _, _, hdue⟩ => absurd hearly (Nat.not_lt.2 hdue)

end Sys2Proof.Machine
end

section
/-! The actions of the Weirs and of the stream filters (spec 08 R280 to R284). -/

namespace Sys2Proof.Machine
open Sys2Proof

/-! ### A change of one Weir on several dies, logged on each -/

/-- The Weirs `w` of the dies `ds` changed by `F`. -/
def weirsSet (F : Weir → Weir) (w : Nat) (ds : List Nat) (t : Tab Weir) : Tab Weir :=
  ds.foldl (fun t d => Tab.upd Weir.reset t (weirKey d w) F) t

theorem weirKey_inj {d e v w : Nat} (hv : v < 16384) (hw : w < 16384) (h : weirKey d v = weirKey e w) :
    d = e ∧ v = w := by
  unfold weirKey at h
  omega

theorem get_weirsSet_of_ne (F : Weir → Weir) {w k : Nat} {ds : List Nat} (t : Tab Weir)
    (h : ∀ d ∈ ds, weirKey d w ≠ k) : Tab.get Weir.reset (weirsSet F w ds t) k = Tab.get Weir.reset t k := by
  refine List.foldlRecOn ds _ (motive := fun u => Tab.get Weir.reset u k = Tab.get Weir.reset t k) rfl
    fun u hu d hd => ?_
  rw [Tab.upd, Tab.get_set_other _ _ (h d hd), hu]

theorem wf_weirsSet (F : Weir → Weir) (w : Nat) (ds : List Nat) {t : Tab Weir} (h : Tab.wf Weir.reset t = true) :
    Tab.wf Weir.reset (weirsSet F w ds t) = true :=
  Tab.wf_foldl ds _ (fun _ _ hm => Tab.wf_upd _ _ hm) h

theorem get_weirsSet_of_mem (F : Weir → Weir) {w d : Nat} {ds : List Nat} {t : Tab Weir}
    (hw : w < 16384) (h : Tab.wf Weir.reset t = true) (hnodup : ds.Nodup) (hd : d ∈ ds) :
    Tab.get Weir.reset (weirsSet F w ds t) (weirKey d w) = F (Tab.get Weir.reset t (weirKey d w)) := by
  induction ds generalizing t with
  | nil => cases hd
  | cons e ds ih =>
    obtain ⟨he, hnodup⟩ := List.nodup_cons.1 hnodup
    have hstep : weirsSet F w (e :: ds) t = weirsSet F w ds (Tab.upd Weir.reset t (weirKey e w) F) := rfl
    have hne : ∀ a ∈ ds, weirKey a w ≠ weirKey e w := fun a ha hk => he ((weirKey_inj hw hw hk).1 ▸ ha)
    rw [hstep]
    obtain rfl | hd := List.mem_cons.1 hd
    · rw [get_weirsSet_of_ne F _ hne, Tab.upd, Tab.get_set_same _ _ h]
    · rw [ih (Tab.wf_upd _ _ h) hnodup hd, Tab.upd, Tab.get_set_other _ _ (Ne.symm (hne d hd))]

theorem Signals.modSched {s u : State} (f : Sched → Sched) (h : Signals s u) :
    Signals (modSched f s) (modSched f u) :=
  ⟨congrArg (Machine.modSched f) h.rest, h.ep, h.mask, h.vector, h.freeze⟩

theorem Logs.modSched {s u : State} (f : Sched → Sched) (h : Logs s u) : Logs (modSched f s) (modSched f u) :=
  Signals.modSched f h

theorem Logs.sched {s u : State} (h : Logs s u) : u.sched = s.sched :=
  (congrArg State.sched h.rest :)
theorem Logs.clock {s u : State} (h : Logs s u) : u.clock = s.clock :=
  (congrArg State.clock h.rest :)

theorem logs_weirsSet (F : Nat → Weir → Weir) (o : Origin) (cls target w : Nat) (ds : List Nat) {y z : State}
    (h : Logs y z) :
    Logs (modSched (fun b => { b with weirs := weirsSet (F y.clock) w ds b.weirs }) y)
      (forEach ds (fun d st => dikeLog o d cls target (st.setWeir d w (F st.clock (st.weir d w)))) z) := by
  induction ds generalizing y z with
  | nil => exact h
  | cons d ds ih =>
    have hstep : Logs (y.setWeir d w (F y.clock (y.weir d w)))
        (dikeLog o d cls target (z.setWeir d w (F z.clock (z.weir d w)))) := by
      rw [h.clock, show z.weir d w = y.weir d w by rw [State.weir, h.sched, State.weir]]
      exact (h.modSched _).trans (logs_dikeLog ..)
    exact ih hstep

/-- An action that changes one Weir on the dies its argument names (spec 08 R283, R284). -/
theorem serves_weir {mk : Rq → Instr} {mine : Nat → Nat → Bool} {own : Req → State → List Nat} {go : Handler}
    {idx sub : Nat} {ok : Bytes → State → Prop} {F : Bytes → Nat → Weir → Weir}
    {done : Bytes → State → State → Prop}
    (hx : ∀ r s, exec (mk r) s = .next (serveAction mine own go r s)) (hm : mine idx sub = true)
    (ho : ∀ q x, ok q.msg.data x → own q x = [])
    (hg : ∀ q x, ∃ o, go q x = (forEach (diesOf (byteAt q.msg.data 0)) (fun d st =>
      dikeLog o d 4 (beField q.msg.data 2 2) (st.setWeir d (beField q.msg.data 2 2)
        (F q.msg.data st.clock (st.weir d (beField q.msg.data 2 2))))) x, .done))
    (hok : ∀ d s, ok d s → beField d 2 2 ≤ 16383 ∧ Canonical s)
    (hd : ∀ d s u, (∀ die ∈ diesOf (byteAt d 0), u.weir die (beField d 2 2)
          = F d s.clock (s.weir die (beField d 2 2)))
      ∧ (∀ die < 4, ∀ w < 16384, (die ∈ diesOf (byteAt d 0) → w ≠ beField d 2 2) → u.weir die w = s.weir die w)
      ∧ AnswersAndLogs { s with sched := { s.sched with weirs := u.sched.weirs } } u → done d s u) :
    ServesAction mk idx sub ok 0 (fun _ _ => []) done := by
  refine serves_logged_change hx hm fun q x _ _ h => ?_
  obtain ⟨o, hgo⟩ := hg q x
  obtain ⟨hw, hcanon⟩ := hok _ _ h
  obtain ⟨-, -, -, -, -, -, -, ⟨hwf, -⟩, -⟩ := hcanon
  have hlt : beField q.msg.data 2 2 < 16384 := by omega
  have hnodup : (diesOf (byteAt q.msg.data 0)).Nodup := by
    unfold diesOf
    split
    · decide
    · exact List.nodup_singleton _
  refine ⟨ho q x h, _, _, logs_weirsSet _ _ _ _ _ _ (Signals.refl x), hgo, fun u hu => hd _ _ _ ?_⟩
  have hsched := AnswersAndLogs.sched hu
  refine ⟨fun die hdie => ?_, fun die _ w hwlt hne => ?_, ?_⟩
  · rw [State.weir, hsched]
    exact get_weirsSet_of_mem _ hlt hwf hnodup hdie
  · rw [State.weir, hsched]
    refine get_weirsSet_of_ne _ _ fun e he hk => ?_
    obtain ⟨rfl, hwe⟩ := weirKey_inj hlt hwlt hk
    exact hne he hwe.symm
  · rw [hsched]
    exact hu

/-! ### The checks -/

theorem badDie_all {d : Nat} (h : d ≤ 3 ∨ d = 0xFF) : badDie d true = false := by
  simp only [badDie, Bool.true_and, Bool.and_eq_false_iff, decide_eq_false_iff_not, Bool.not_eq_false',
    decide_eq_true_eq]
  omega

theorem firstAbort_range {c : Bool} (hc : c = true) : firstAbort (abortIf c aRANGE) = some 7 := by
  rw [hc]
  decide

/-- Settles O5: each action passes or fails the checks of R283 and R284; one that passes changes the Weirs that are
named, or lists the filter's record. -/
theorem weirActions : Obligations.WeirActions := by
  refine ⟨serves_weir (F := fun d t x => { x with
        valid := (byteAt d 1).testBit 0, aware := (byteAt d 1).testBit 1, block := (byteAt d 1).testBit 2,
        cir := beField d 4 4, cbs := beField d 8 4, pir := beField d 12 4, pbs := beField d 16 4,
        maxSdu := beField d 20 2, tc := beField d 8 4 * 65536, tp := beField d 16 4 * 65536,
        last := t / 781250, blocked := false })
      (fun _ _ => rfl) rfl ?_ (fun _ _ => ⟨_, rfl⟩) ?_ fun _ _ _ h => h,
    serves_read (fun _ _ => rfl) rfl ?_,
    serves_weir (F := fun _ _ x => { x with blocked := false })
      (fun _ _ => rfl) rfl ?_ (fun _ _ => ⟨_, rfl⟩) ?_ fun _ _ _ h => h,
    serves_weir (F := fun _ _ x => { x with ctr := [] })
      (fun _ _ => rfl) rfl ?_ (fun _ _ => ⟨_, rfl⟩) ?_ fun _ _ _ h => h,
    serves_logged_change (fun _ _ => rfl) rfl ?_,
    refuses_ok (fun _ _ => rfl) rfl ?_, refuses_ok (fun _ _ => rfl) rfl ?_, refuses_ok (fun _ _ => rfl) rfl ?_,
    refuses_ok (fun _ _ => rfl) rfl ?_, refuses_ok (fun _ _ => rfl) rfl ?_, refuses_ok (fun _ _ => rfl) rfl ?_,
    serves_read (fun _ _ => rfl) rfl ?_⟩
  · rintro q x ⟨hdie, hflags, hw, hrates, hcbs, hpbs, hzero, -⟩
    simp [weirWriteAborts, badDie_all hdie, hflags, hw, hrates, hzero]
    omega
  · rintro d s ⟨-, -, hw, -, -, -, -, hcanon⟩
    exact ⟨hw, hcanon⟩
  · rintro q x - - ⟨hdie, hzero, hw⟩
    refine ⟨by simp [weirNameAborts, badDie, hdie, hzero, hw], ?_⟩
    simp only [List.flatMap_cons, List.flatMap_nil, List.append_nil, List.append_assoc]
  · rintro q x ⟨hdie, hzero, hw, -⟩
    simp [weirNameAborts, badDie_all hdie, hzero, hw]
  · rintro d s ⟨-, -, hw, hcanon⟩
    exact ⟨hw, hcanon⟩
  · rintro q x ⟨hdie, hzero, hw, -⟩
    simp [weirNameAborts, badDie_all hdie, hzero, hw]
  · rintro d s ⟨-, -, hw, hcanon⟩
    exact ⟨hw, hcanon⟩
  · rintro q x - - ⟨hfilter, hvalid, hprio, hweir, hzero⟩
    refine ⟨?_, _, _, logs_dikeLogFields _ _ _ _, rfl, fun _ hu => AnswersAndLogs.of_sched hu⟩
    simp [hfilter, hvalid, hzero]
    omega
  · intro q x _ _ h
    refine firstAbort_range ?_
    simp [badDie]
    omega
  · intro q x _ _ h
    refine firstAbort_range ?_
    simp [badDie]
    omega
  · intro q x _ _ h
    refine firstAbort_range ?_
    simp [badDie]
    omega
  · intro q x _ _ h
    refine firstAbort_range ?_
    simp [badDie]
    omega
  · intro q x _ _ h
    refine firstAbort_range ?_
    simp [h]
  · intro q x _ _ h
    refine firstAbort_range ?_
    simp [h]
  · intro q x _ _ hfilter
    exact ⟨by simp [hfilter], rfl⟩

end Sys2Proof.Machine
end

section
/-! Records by number: which tables a canonical state holds in canonical form, and what a record reads as after one
was written. -/

namespace Sys2Proof
open Machine

section Canonical
variable {s : State} (h : Canonical s)
include h

theorem Canonical.mbx : MailboxForm s.mbx := by
  obtain ⟨h, -⟩ := h
  exact h

theorem Canonical.counters : Tab.wf 0 s.dict.counters = true := by
  obtain ⟨-, ⟨h, -⟩, -⟩ := h
  exact h

theorem Canonical.sessions : Tab.wf Session.reset s.dict.sessions = true := by
  obtain ⟨-, ⟨-, h⟩, -⟩ := h
  exact h

theorem Canonical.ports : Tab.wf Port.reset s.ports = true := by
  obtain ⟨-, -, h, -⟩ := h
  exact h

theorem Canonical.frer : Tab.wf Frer.reset s.frer = true := by
  obtain ⟨-, -, -, h, -⟩ := h
  exact h

theorem Canonical.tables : TablesForm s.tables := by
  obtain ⟨-, -, -, -, h, -⟩ := h
  exact h

theorem Canonical.ctxs : Tab.wf Ctx.reset s.flow.ctxs = true := by
  obtain ⟨-, -, -, -, -, ⟨h, -⟩, -⟩ := h
  exact h

theorem Canonical.flowDies : Tab.wf FlowDie.reset s.flow.dies = true := by
  obtain ⟨-, -, -, -, -, ⟨-, h⟩, -⟩ := h
  exact h

theorem Canonical.bufDies : Tab.wf BufDie.reset s.buf.dies = true := by
  obtain ⟨-, -, -, -, -, -, ⟨h, -⟩, -⟩ := h
  exact h

theorem Canonical.owners : Tab.wf 0 s.buf.owners = true := by
  obtain ⟨-, -, -, -, -, -, ⟨-, h⟩, -⟩ := h
  exact h

theorem Canonical.funcs : Tab.wf Func.reset s.ep.funcs = true := by
  obtain ⟨-, -, -, -, -, -, -, -, ⟨h, -⟩, -⟩ := h
  exact h

theorem Canonical.msix : Tab.wf MsixEntry.reset s.ep.msix = true := by
  obtain ⟨-, -, -, -, -, -, -, -, ⟨-, h⟩, -⟩ := h
  exact h

theorem Canonical.polders : PoldersForm s.polders := by
  obtain ⟨-, -, -, -, -, -, -, -, -, h, -⟩ := h
  exact h

theorem Canonical.queues : Tab.wf Queue.reset s.wq.queues = true := by
  obtain ⟨-, -, -, -, -, -, -, -, -, -, h, -⟩ := h
  exact h

theorem Canonical.cipher : CipherForm s.cipher := by
  obtain ⟨-, -, -, -, -, -, -, -, -, -, -, h, -⟩ := h
  exact h

theorem Canonical.siphon : SiphonForm s.siphon := by
  obtain ⟨-, -, -, -, -, -, -, -, -, -, -, -, h, -⟩ := h
  exact h

theorem Canonical.jrn : JournalForm s.jrn := by
  obtain ⟨-, -, -, -, -, -, -, -, -, -, -, -, -, h, -⟩ := h
  exact h

theorem Canonical.evt : EventsForm s.evt := by
  obtain ⟨-, -, -, -, -, -, -, -, -, -, -, -, -, -, h⟩ := h
  exact h

end Canonical
end Sys2Proof

namespace Sys2Proof.Machine
open Sys2Proof

theorem canonical_advance {s : State} (t : Nat) (h : Canonical s) : Canonical (advance t s) :=
  ((Keeps.refl s).advance t).form h

/-! ### A record reads back as it was written, and every other one as before -/

section Records
variable {s : State}

theorem port_setPort_same (h : Tab.wf Port.reset s.ports = true) (p : Nat) (x : Port) :
    (s.setPort p x).port p = x := Tab.get_set_same p x h
theorem queue_setQueue_same (h : Tab.wf Queue.reset s.wq.queues = true) (fn q : Nat) (x : Queue) :
    (s.setQueue fn q x).queue fn q = x := Tab.get_set_same _ x h
theorem func_setFunc_same (h : Tab.wf Func.reset s.ep.funcs = true) (n : Nat) (x : Func) :
    (s.setFunc n x).func n = x := Tab.get_set_same n x h
theorem polder_setPolder_same (h : Tab.wf Polder.reset s.polders.tab = true) (n : Nat) (x : Polder) :
    (s.setPolder n x).polder n = x := Tab.get_set_same n x h
theorem flowDie_setFlowDie_same (h : Tab.wf FlowDie.reset s.flow.dies = true) (d : Nat) (x : FlowDie) :
    (s.setFlowDie d x).flowDie d = x := Tab.get_set_same d x h
theorem ctx_setCtx_same (h : Tab.wf Ctx.reset s.flow.ctxs = true) (n : Nat) (x : Ctx) :
    (s.setCtx n x).ctx n = x := Tab.get_set_same n x h
theorem bufDie_setBufDie_same (h : Tab.wf BufDie.reset s.buf.dies = true) (d : Nat) (x : BufDie) :
    (s.setBufDie d x).bufDie d = x := Tab.get_set_same d x h
theorem channel_setChannel_same (h : Tab.wf Channel.reset s.siphon.channels = true) (g : Nat) (x : Channel) :
    (s.setChannel g x).channel g = x := Tab.get_set_same g x h
theorem region_setRegion_same (h : Tab.wf Region.reset s.siphon.regions = true) (g : Nat) (x : Region) :
    (s.setRegion g x).region g = x := Tab.get_set_same g x h
theorem keySlot_setKeySlot_same (h : Tab.wf KeySlot.reset s.cipher.slots = true) (g : Nat) (x : KeySlot) :
    (s.setKeySlot g x).keySlot g = x := Tab.get_set_same g x h

variable (s)

theorem polder_setPolder_other {m n : Nat} (x : Polder) (h : m ≠ n) : (s.setPolder n x).polder m = s.polder m :=
  Tab.get_set_other _ _ h.symm
theorem flowDie_setFlowDie_other {d e : Nat} (x : FlowDie) (h : e ≠ d) :
    (s.setFlowDie d x).flowDie e = s.flowDie e := Tab.get_set_other _ _ h.symm
theorem ctx_setCtx_other {m n : Nat} (x : Ctx) (h : m ≠ n) : (s.setCtx n x).ctx m = s.ctx m :=
  Tab.get_set_other _ _ h.symm
theorem bufDie_setBufDie_other {d e : Nat} (x : BufDie) (h : e ≠ d) :
    (s.setBufDie d x).bufDie e = s.bufDie e := Tab.get_set_other _ _ h.symm
theorem channel_setChannel_other {g j : Nat} (x : Channel) (h : j ≠ g) :
    (s.setChannel g x).channel j = s.channel j := Tab.get_set_other _ _ h.symm
theorem region_setRegion_other {g j : Nat} (x : Region) (h : j ≠ g) :
    (s.setRegion g x).region j = s.region j := Tab.get_set_other _ _ h.symm
theorem keySlot_setKeySlot_other {g j : Nat} (x : KeySlot) (h : j ≠ g) :
    (s.setKeySlot g x).keySlot j = s.keySlot j := Tab.get_set_other _ _ h.symm
theorem cart_setCart_other {i j : Nat} (x : CartSlot) (h : j ≠ i) : (s.setCart i x).cart j = s.cart j :=
  Tab.get_set_other _ _ h.symm

/-! ### The passage of time leaves the records -/

@[simp] theorem port_advance (t p : Nat) : (advance t s).port p = s.port p := by simp only [State.port, advance_ports]
@[simp] theorem queue_advance (t fn q : Nat) : (advance t s).queue fn q = s.queue fn q := by
  simp only [State.queue, advance_wq]
@[simp] theorem func_advance (t n : Nat) : (advance t s).func n = s.func n := by simp only [State.func, advance_ep_funcs]
@[simp] theorem polder_advance (t n : Nat) : (advance t s).polder n = s.polder n := by
  simp only [State.polder, advance_polders]
@[simp] theorem flowDie_advance (t d : Nat) : (advance t s).flowDie d = s.flowDie d := by
  simp only [State.flowDie, advance_flow]
@[simp] theorem ctx_advance (t n : Nat) : (advance t s).ctx n = s.ctx n := by simp only [State.ctx, advance_flow]
@[simp] theorem bufDie_advance (t d : Nat) : (advance t s).bufDie d = s.bufDie d := by
  simp only [State.bufDie, advance_buf]
@[simp] theorem channel_advance (t g : Nat) : (advance t s).channel g = s.channel g := by
  simp only [State.channel, advance_siphon]
@[simp] theorem region_advance (t g : Nat) : (advance t s).region g = s.region g := by
  simp only [State.region, advance_siphon]
@[simp] theorem keySlot_advance (t g : Nat) : (advance t s).keySlot g = s.keySlot g := by
  simp only [State.keySlot, advance_cipher]
@[simp] theorem cart_advance (t i : Nat) : (advance t s).cart i = s.cart i := by simp only [State.cart, advance_jrn]
@[simp] theorem space_advance (t n : Nat) : (advance t s).space n = s.space n := by
  simp only [State.space, advance_jrn]
@[simp] theorem psched_advance (t p : Nat) : (advance t s).psched p = s.psched p := by
  simp only [State.psched, advance_sched]

end Records

/-! ### What an occurrence or a count leaves, when more is changed after it -/

section Occurrence
variable {s u v : State}

/-- A change that reads and writes neither the events nor the endpoint nor the output keeps what an occurrence did. -/
theorem Signals.map {f : State → State} (h : Signals s u)
    (hf : ∀ x e v o, f { x with ep := e, evt := v, out := o } = { f x with ep := e, evt := v, out := o }) :
    Signals (f s) (f u) := by
  have hs := hf s s.ep s.evt s.out
  have hu := hf u u.ep u.evt u.out
  have hsep : (f s).ep = s.ep := (congrArg State.ep hs :)
  have hsevt : (f s).evt = s.evt := (congrArg State.evt hs :)
  have hsout : (f s).out = s.out := (congrArg State.out hs :)
  have huep : (f u).ep = u.ep := (congrArg State.ep hu :)
  have huevt : (f u).evt = u.evt := (congrArg State.evt hu :)
  refine ⟨?_, ?_, ?_, ?_, ?_⟩
  · rw [hsep, hsevt, hsout, ← hf u, h.rest]
  · rw [hsep, huep, h.ep]
  · rw [hsevt, huevt, h.mask]
  · rw [hsevt, huevt, h.vector]
  · rw [hsevt, huevt, h.freeze]

end Occurrence

end Sys2Proof.Machine

namespace Sys2Proof
open Machine

section Counts
variable {s u v : State}

theorem CountsOnly.signals (h : CountsOnly s u) :
    Signals { s with dict := { s.dict with counters := u.dict.counters } } u := SignalsOnly.signals h

theorem Machine.Signals.countsOnly (h : Signals s u) : CountsOnly s u := by
  unfold CountsOnly
  rw [h.dict]
  exact signalsOnly_of h

theorem CountsOnly.refl (s : State) : CountsOnly s s := (Signals.refl s).countsOnly

theorem CountsOnly.trans (h : CountsOnly s u) (h' : CountsOnly u v) : CountsOnly s v :=
  signalsOnly_of ((h.signals.map (f := fun x => { x with dict := { x.dict with counters := v.dict.counters } })
    (fun _ _ _ _ => rfl)).trans h'.signals)

theorem CountsOnly.map {f : State → State} (h : CountsOnly s u)
    (hf : ∀ x e v o, f { x with ep := e, evt := v, out := o } = { f x with ep := e, evt := v, out := o })
    (hd : ∀ x c, f { x with dict := { x.dict with counters := c } }
      = { f x with dict := { (f x).dict with counters := c } })
    (hc : (f u).dict.counters = u.dict.counters) : CountsOnly (f s) (f u) := by
  have hm := h.signals.map hf
  rw [hd] at hm
  refine signalsOnly_of ?_
  rw [hc]
  exact hm

theorem CountsOnly.pending (h : CountsOnly s u) : u.pending = s.pending := h.signals.pending
theorem CountsOnly.clock (h : CountsOnly s u) : u.clock = s.clock := h.signals.clock
theorem CountsOnly.freeCtr (h : CountsOnly s u) : u.freeCtr = s.freeCtr := h.signals.freeCtr
theorem CountsOnly.nextId (h : CountsOnly s u) : u.nextId = s.nextId := h.signals.nextId
theorem CountsOnly.board (h : CountsOnly s u) : u.board = s.board := h.signals.board
theorem CountsOnly.boot (h : CountsOnly s u) : u.boot = s.boot := h.signals.boot
theorem CountsOnly.mbx (h : CountsOnly s u) : u.mbx = s.mbx := h.signals.mbx
theorem CountsOnly.ports (h : CountsOnly s u) : u.ports = s.ports := h.signals.ports
theorem CountsOnly.time (h : CountsOnly s u) : u.time = s.time := h.signals.time
theorem CountsOnly.frer (h : CountsOnly s u) : u.frer = s.frer := h.signals.frer
theorem CountsOnly.cls (h : CountsOnly s u) : u.cls = s.cls := h.signals.cls
theorem CountsOnly.tables (h : CountsOnly s u) : u.tables = s.tables := h.signals.tables
theorem CountsOnly.flow (h : CountsOnly s u) : u.flow = s.flow := h.signals.flow
theorem CountsOnly.buf (h : CountsOnly s u) : u.buf = s.buf := h.signals.buf
theorem CountsOnly.sched (h : CountsOnly s u) : u.sched = s.sched := h.signals.sched
theorem CountsOnly.polders (h : CountsOnly s u) : u.polders = s.polders := h.signals.polders
theorem CountsOnly.wq (h : CountsOnly s u) : u.wq = s.wq := h.signals.wq
theorem CountsOnly.cipher (h : CountsOnly s u) : u.cipher = s.cipher := h.signals.cipher
theorem CountsOnly.siphon (h : CountsOnly s u) : u.siphon = s.siphon := h.signals.siphon
theorem CountsOnly.jrn (h : CountsOnly s u) : u.jrn = s.jrn := h.signals.jrn
theorem CountsOnly.test (h : CountsOnly s u) : u.test = s.test := h.signals.test
theorem CountsOnly.culv (h : CountsOnly s u) : u.culv = s.culv := h.signals.culv

theorem CountsOnly.ep_funcs (h : CountsOnly s u) : u.ep.funcs = s.ep.funcs := h.signals.ep_funcs

theorem count_only (idx sub : Nat) (s : State) : CountsOnly s (count idx sub s) := countQ_only ..

end Counts

end Sys2Proof
end

section
/-! The flow contexts (spec 06): what their operations leave, the actions of R233 to R235, and the engine's steps. -/

namespace Sys2Proof

/-- A key that does not read as the default is listed. -/
theorem Tab.mem_of_get_ne {α : Type} {d : α} {t : Tab α} {i : Nat} (h : Tab.get d t i ≠ d) :
    (i, Tab.get d t i) ∈ t := by
  induction t with
  | nil => exact absurd rfl h
  | cons e t ih =>
    obtain ⟨k, v⟩ := e
    simp only [Tab.get] at h ⊢
    split
    · next hk => simp [hk]
    · next hk => exact List.mem_cons_of_mem _ (ih (by simpa [hk] using h))

end Sys2Proof

namespace Sys2Proof.Machine
open Sys2Proof

/-! ### The deletion of a context (R224, R233) -/

section Delete
variable (n : Nat) (s : State)

theorem deleteCtx_eq : deleteCtx n s = { s with flow := (deleteCtx n s).flow } := rfl

theorem deleteCtx_entries :
    (deleteCtx n s).flow.entries = s.flow.entries.filter (fun e => decide (e.2.ctx ≠ n)) := rfl

theorem deleteCtx_overflow :
    (deleteCtx n s).flow.overflow = s.flow.overflow.filter (fun e => decide (e.2.ctx ≠ n)) := rfl

theorem deleteCtx_cache :
    (deleteCtx n s).flow.cache = s.flow.cache.filter (fun e => decide (e.2 ≠ n + 1)) := rfl

theorem ctx_deleteCtx_other {m : Nat} (h : m ≠ n) : (deleteCtx n s).ctx m = s.ctx m := Tab.get_set_other _ _ h.symm

variable {s}

theorem wf_ctxs_deleteCtx (h : Tab.wf Ctx.reset s.flow.ctxs = true) :
    Tab.wf Ctx.reset (deleteCtx n s).flow.ctxs = true := Tab.wf_set _ _ h

theorem ctx_deleteCtx_same (h : Tab.wf Ctx.reset s.flow.ctxs = true) :
    (deleteCtx n s).ctx n = { Ctx.reset with gen := (s.ctx n).gen } := Tab.get_set_same n _ h

theorem flowDie_deleteCtx (h : Tab.wf FlowDie.reset s.flow.dies = true) :
    (deleteCtx n s).flowDie (n / 262144)
      = { s.flowDie (n / 262144) with returned := (s.flowDie (n / 262144)).returned ++ [n] } := Tab.get_set_same _ _ h

end Delete

theorem wf_ctxs_setCtx {s : State} (h : Tab.wf Ctx.reset s.flow.ctxs = true) (n : Nat) (c : Ctx) :
    Tab.wf Ctx.reset (s.setCtx n c).flow.ctxs = true := Tab.wf_set n c h

/-- No entry of the flow table and none of the overflow store names the context. -/
def Unlisted (n : Nat) (s : State) : Prop :=
  (∀ e ∈ s.flow.entries, e.2.ctx ≠ n) ∧ ∀ e ∈ s.flow.overflow, e.2.ctx ≠ n

theorem unlisted_deleteCtx (n : Nat) (s : State) : Unlisted n (deleteCtx n s) := by
  simp [Unlisted, deleteCtx_entries, deleteCtx_overflow]

theorem Unlisted.deleteCtx {m : Nat} {s : State} (h : Unlisted m s) (n : Nat) :
    Unlisted m (Machine.deleteCtx n s) :=
  ⟨fun e he => h.1 e (List.mem_of_mem_filter he), fun e he => h.2 e (List.mem_of_mem_filter he)⟩

/-- Every context of a list that is deleted one by one ends as a deletion leaves it. -/
theorem forEach_deleteCtx {m : Nat} {l : List Nat} {s : State} (h : Tab.wf Ctx.reset s.flow.ctxs = true)
    (hm : m ∈ l ∨ (s.ctx m = { Ctx.reset with gen := (s.ctx m).gen } ∧ Unlisted m s)) :
    (forEach l deleteCtx s).ctx m = { Ctx.reset with gen := (s.ctx m).gen } ∧ Unlisted m (forEach l deleteCtx s) := by
  induction l generalizing s with
  | nil => exact hm.resolve_left List.not_mem_nil
  | cons n l ih =>
    have hstep : forEach (n :: l) deleteCtx s = forEach l deleteCtx (deleteCtx n s) := rfl
    have hgen : ((deleteCtx n s).ctx m).gen = (s.ctx m).gen := by
      by_cases hn : m = n
      · rw [hn, ctx_deleteCtx_same n h]
      · rw [ctx_deleteCtx_other n s hn]
    rw [hstep, ← hgen]
    refine ih (wf_ctxs_deleteCtx n h) ?_
    by_cases hn : m = n
    · subst hn
      exact .inr ⟨by rw [ctx_deleteCtx_same m h], unlisted_deleteCtx m s⟩
    · obtain hl | ⟨hctx, hun⟩ := hm
      · exact .inl ((List.mem_cons.1 hl).resolve_left hn)
      · rw [ctx_deleteCtx_other n s hn]
        exact .inr ⟨hctx, hun.deleteCtx n⟩

theorem clearContexts_active {n : Nat} {s : State} (h : Tab.wf Ctx.reset s.flow.ctxs = true)
    (hn : (s.ctx n).active = true) :
    (clearContexts s).ctx n = { Ctx.reset with gen := (s.ctx n).gen } ∧ Unlisted n (clearContexts s) := by
  have hne : s.ctx n ≠ Ctx.reset := fun hr => by simp [hr, Ctx.reset] at hn
  have hmem : n ∈ (s.flow.ctxs.filter (fun e => e.2.active)).map (·.1) :=
    List.mem_map.2 ⟨_, List.mem_filter.2 ⟨Tab.mem_of_get_ne hne, hn⟩, rfl⟩
  exact forEach_deleteCtx h (.inl hmem)

/-! ### New contexts (R210, R217) -/

/-- A number taken from a pool changes that pool alone. -/
theorem takeCtx_eq {part n : Nat} {s s1 : State} (h : takeCtx part s = some (n, s1)) :
    s1 = { s with flow := { s.flow with dies := s1.flow.dies } } := by
  unfold takeCtx at h
  dsimp only at h
  split at h
  · cases h; rfl
  · split at h
    · cases h
    · cases h; rfl

/-- From `s` to `y` context `n` became `c`, and nothing else changed but the pools and the flow table. -/
structure CtxBecomes (n : Nat) (c : Ctx) (s y : State) : Prop where
  ctx : y.ctx n = c
  others : ∀ m, m ≠ n → y.ctx m = s.ctx m
  wf : Tab.wf Ctx.reset y.flow.ctxs = true
  cache : y.flow.cache = s.flow.cache
  rest : y = { s with flow := y.flow }

theorem CtxBecomes.setCtx {n : Nat} {c : Ctx} {s y : State} (h : CtxBecomes n c s y) (c' : Ctx) :
    CtxBecomes n c' s (y.setCtx n c') where
  ctx := ctx_setCtx_same h.wf n c'
  others m hm := (ctx_setCtx_other y c' hm).trans (h.others m hm)
  wf := Tab.wf_set n c' h.wf
  cache := h.cache
  rest := congrArg (fun x : State => { x with flow := (y.setCtx n c').flow }) h.rest

theorem ctxBecomes_setCtx {s : State} (h : Tab.wf Ctx.reset s.flow.ctxs = true) (n : Nat) (c : Ctx) :
    CtxBecomes n c s (s.setCtx n c) :=
  CtxBecomes.setCtx ⟨rfl, fun _ _ => rfl, h, rfl, rfl⟩ c

theorem CtxBecomes.putEntry {n : Nat} {c : Ctx} {s y : State} (h : CtxBecomes n c s y) (place : Bool × Nat)
    (e : FlowEntry) : CtxBecomes n c s (Machine.putEntry place e y) := by
  obtain ⟨full, i⟩ := place
  have hrest := congrArg (fun x : State => { x with flow := (Machine.putEntry (full, i) e y).flow }) h.rest
  cases full
  · exact ⟨h.ctx, h.others, h.wf, h.cache, hrest⟩
  · exact ⟨h.ctx, h.others, h.wf, h.cache, hrest⟩

/-- A number taken from a pool leaves the contexts. -/
theorem ctxBecomes_takeCtx {part k n : Nat} {s s1 : State} (hwf : Tab.wf Ctx.reset s.flow.ctxs = true)
    (h : takeCtx part s = some (k, s1)) : CtxBecomes n (s1.ctx n) s s1 := by
  rw [takeCtx_eq h]
  exact ⟨rfl, fun _ _ => rfl, hwf, rfl, rfl⟩

/-- A context that is created: its number is the pool's next, and its entry stands in the first free place. -/
theorem createCtx_eq {key : Bytes} {hash n i : Nat} {full : Bool} {c : Ctx} {s s1 : State}
    (hwf : Tab.wf Ctx.reset s.flow.ctxs = true) (hfree : freeEntry s hash = some (full, i))
    (htake : takeCtx (flowPart hash) s = some (n, s1)) :
    ∃ y, createCtx key hash c s = some (n, y)
      ∧ CtxBecomes n { c with active := true, gen := ((s1.ctx n).gen + 1) % 2 ^ 32, key := key, hash := hash } s y
      ∧ y.flow.entries = (if full then s.flow.entries else Tab.ins s.flow.entries i { key := key, ctx := n })
      ∧ y.flow.overflow = (if full then Tab.ins s.flow.overflow i { key := key, ctx := n } else s.flow.overflow) := by
  have hset := ((ctxBecomes_takeCtx (n := n) hwf htake).setCtx
    { c with active := true, gen := ((s1.ctx n).gen + 1) % 2 ^ 32, key := key, hash := hash }).putEntry (full, i)
      { key := key, ctx := n }
  refine ⟨_, ?_, hset, ?_⟩
  · simp only [createCtx, hfree, htake]
  · have hs1 := takeCtx_eq htake
    have hentries : s1.flow.entries = s.flow.entries := by rw [hs1]
    have hoverflow : s1.flow.overflow = s.flow.overflow := by rw [hs1]
    rw [← hentries, ← hoverflow]
    cases full
    · exact ⟨rfl, rfl⟩
    · exact ⟨rfl, rfl⟩

/-! ### What an answer leaves of the contexts -/

theorem AnswersAndLogs.of_flow {s u : State} {c : Flow} (h : AnswersAndLogs { s with flow := c } u) :
    u.flow = c ∧ AnswersAndLogs { s with flow := u.flow } u := by
  have hc : u.flow = c := AnswersAndLogs.flow h
  exact ⟨hc, by rw [hc]; exact h⟩

theorem ctx_congr {s u : State} (h : u.flow = s.flow) (n : Nat) : u.ctx n = s.ctx n :=
  congrArg (fun f : Flow => Tab.get Ctx.reset f.ctxs n) h

theorem flowDie_congr {s u : State} (h : u.flow = s.flow) (d : Nat) : u.flowDie d = s.flowDie d :=
  congrArg (fun f : Flow => Tab.get FlowDie.reset f.dies d) h

/-- An answer to a long action changes no block but the dictionary's and the mailbox. -/
theorem answerAct_same (a : LongAct) (abort : Option Nat) (s : State) (b : Blk)
    (h : [Blk.counters, .dict, .mbx].contains b = false) : Same s (answerAct a abort s) b :=
  (Frame.answerAct (Sub.refl _) (Frame.refl _ s) a abort).2 b (by simpa using h)

/-! ### The actions (R233 to R235) -/

theorem ctxAborts_eq_nil {s : State} {n : Nat} (hn : n ≤ 1048575) (ha : (s.ctx n).active = true) :
    ctxAborts s n = [] := by
  simp [ctxAborts, Nat.not_lt.2 hn, ha]

/-- The record FlowWrite gives a new context (R235). -/
def writtenCtx (d : Bytes) (s : State) : Ctx :=
  { Ctx.reset with
    byWrite := true
    setUsed := (byteAt d 1).testBit 3
    idle := byteAt d 52 / 16
    polder := (Tab.get HostGroup.none s.polders.groups (beField d 54 2)).polder
    first := timeNow s
    group := beField d 54 2
    stamp := learnMs s
    user := slice d 56 64 }

/-- What FlowWrite without PIN makes of the state in which it made or found context `n`. -/
def unpinned (n : Nat) (s : State) : State × Reply :=
  (s.setCtx n { s.ctx n with pinned := false }, .ok 0 0 9 (beBytes 4 n ++ beBytes 4 (s.ctx n).gen))

/-- The context of a known key as FlowWrite leaves it, before its pin. -/
def rewritten (d : Bytes) (n : Nat) (s : State) : State :=
  s.setCtx n { s.ctx n with idle := byteAt d 52 / 16, group := beField d 54 2, user := slice d 56 64 }

theorem flowWrite_known {d : Bytes} {s : State} {n : Nat} (hwf : Tab.wf Ctx.reset s.flow.ctxs = true)
    (hpin : (byteAt d 52).testBit 0 = false) (hkey : ctxOfKey s (d.take 52) = some n) :
    flowWrite d s = unpinned n (rewritten d n s) := by
  simp only [flowWrite, rewritten, hkey, pinCtx, hpin, Bool.not_false, ↓reduceIte, unpinned,
    ctx_setCtx_same (wf_ctxs_setCtx hwf _ _), ctx_setCtx_same hwf]

theorem flowWrite_new {d : Bytes} {s s1 : State} {n : Nat} (hwf : Tab.wf Ctx.reset s1.flow.ctxs = true)
    (hpin : (byteAt d 52).testBit 0 = false) (hkey : ctxOfKey s (d.take 52) = none)
    (hmade : createCtx (d.take 52) (keyHash s (d.take 52)) (writtenCtx d s) s = some (n, s1)) :
    flowWrite d s = unpinned n s1 := by
  simp only [writtenCtx] at hmade
  simp only [flowWrite, hkey, hmade, pinCtx, hpin, Bool.not_false, ↓reduceIte, unpinned, ctx_setCtx_same hwf]

/-- Of a context that is cached, and may be pinned where it is to be, only the pin changes. -/
theorem pinCtx_cached {s : State} {n : Nat} {pin : Bool} (hwf : Tab.wf Ctx.reset s.flow.ctxs = true)
    (hcached : pin = true → (cachedAt s n).isSome = true)
    (hroom : pin = true → (s.ctx n).pinned = false → pinRoom s (s.ctx n).hash = true) :
    ∃ y, pinCtx n pin s = some y ∧ y.ctx n = { s.ctx n with pinned := pin } ∧ (∀ m, m ≠ n → y.ctx m = s.ctx m)
      ∧ y = { s with flow := { s.flow with ctxs := y.flow.ctxs } } := by
  cases pin with
  | false => exact ⟨_, rfl, ctx_setCtx_same hwf n _, fun m hm => ctx_setCtx_other s _ hm, rfl⟩
  | true =>
    have hres : makeResident n (s.ctx n).hash s = some s := by simp [makeResident, hcached rfl]
    cases hp : (s.ctx n).pinned with
    | true =>
      refine ⟨s, by simp [pinCtx, hp, hres], ?_, fun _ _ => rfl, rfl⟩
      rw [← hp]
    | false =>
      exact ⟨_, by simp [pinCtx, hp, hres, hroom rfl hp], ctx_setCtx_same hwf n _,
        fun m hm => ctx_setCtx_other s _ hm, rfl⟩

/-- Settles O6: each action leaves the contexts as the law of its operation says, and is answered and logged. -/
theorem flowActions : Obligations.FlowActions := by
  refine ⟨serves_logged_change (fun _ _ => rfl) rfl ?_, serves_logged_change (fun _ _ => rfl) rfl ?_,
    serves_read (fun _ _ => rfl) rfl ?_, serves_logged_change (fun _ _ => rfl) rfl ?_,
    serves_logged_change (fun _ _ => rfl) rfl ?_, takes_ok (fun _ _ => rfl) rfl ?_, ?_⟩
  · rintro q x - - ⟨hcanon, hchecks, hkey, hpin, hfree, htake⟩
    obtain ⟨⟨over1, i⟩, hfree⟩ := Option.isSome_iff_exists.1 hfree
    obtain ⟨⟨n, s1⟩, htake⟩ := Option.isSome_iff_exists.1 htake
    obtain ⟨y, hmade, hy, hentries, hoverflow⟩ :=
      createCtx_eq (key := q.msg.data.take 52) (c := writtenCtx q.msg.data x) hcanon.ctxs hfree htake
    have hu' := hy.setCtx { y.ctx n with pinned := false }
    refine ⟨hchecks, y.setCtx n { y.ctx n with pinned := false }, _,
      logs_dikeLog q.origin (flowHome x (keyHash x (q.msg.data.take 52))) 3 0 _, ?_, fun u hu n' s1' over1' i' htake' hfree' => ?_⟩
    · simp only [flowWrite_new hy.wf hpin hkey hmade, unpinned, hy.ctx, htake]
    · rw [htake] at htake'
      rw [hfree] at hfree'
      cases htake'
      cases hfree'
      have hflow := AnswersAndLogs.flow hu
      rw [hu'.rest] at hu
      refine ⟨?_, fun m hm => ?_, ?_, ?_, ?_, ?_⟩
      · rw [ctx_congr hflow, hu'.ctx, hy.ctx]
        rfl
      · rw [ctx_congr hflow, hu'.others m hm]
      · rw [hflow]
        exact hentries
      · rw [hflow]
        exact hoverflow
      · rw [hflow]
        exact hu'.cache
      · exact (AnswersAndLogs.of_flow hu).2
  · rintro q x - - ⟨hcanon, hchecks, hkey, hpin⟩
    obtain ⟨n, hkey⟩ := Option.isSome_iff_exists.1 hkey
    have hy : CtxBecomes n _ x (rewritten q.msg.data n x) := ctxBecomes_setCtx hcanon.ctxs n _
    have hu' := hy.setCtx { (rewritten q.msg.data n x).ctx n with pinned := false }
    refine ⟨hchecks, (rewritten q.msg.data n x).setCtx n { (rewritten q.msg.data n x).ctx n with pinned := false }, _,
      logs_dikeLog q.origin (flowHome x (keyHash x (q.msg.data.take 52))) 3 0 _, ?_, fun u hu n' hkey' => ?_⟩
    · simp only [flowWrite_known hcanon.ctxs hpin hkey, unpinned, hkey, hy.ctx]
    · rw [hkey] at hkey'
      cases hkey'
      have hflow := AnswersAndLogs.flow hu
      refine ⟨by rw [ctx_congr hflow, hu'.ctx, hy.ctx], fun m hm => by rw [ctx_congr hflow, hu'.others m hm], ?_⟩
      rw [hflow]
      exact hu
  · rintro q x - - ⟨hn, hactive⟩
    exact ⟨ctxAborts_eq_nil hn hactive, rfl⟩
  · rintro q x - - ⟨hcanon, hn, hactive⟩
    refine ⟨ctxAborts_eq_nil hn hactive, _, _, logs_dikeLog _ _ _ _ _, rfl, fun u hu => ?_⟩
    have hflow := AnswersAndLogs.flow hu
    refine ⟨?_, fun m hm => ?_, ?_, ?_, ?_, ?_, (AnswersAndLogs.of_flow hu).2⟩
    · rw [ctx_congr hflow, ctx_deleteCtx_same _ hcanon.ctxs]
    · rw [ctx_congr hflow, ctx_deleteCtx_other _ _ hm]
    · rw [hflow]
      exact (unlisted_deleteCtx _ x).1
    · rw [hflow]
      exact (unlisted_deleteCtx _ x).2
    · rw [flowDie_congr hflow, flowDie_deleteCtx _ hcanon.flowDies]
    · rw [hflow, deleteCtx_cache]
      simp
  · rintro q x - - ⟨hcanon, hn, hactive, hpin, hzero, hcached, hroom⟩
    refine ⟨by simp [ctxAborts_eq_nil hn hactive, hpin, hzero], ?_⟩
    obtain ⟨y, hpinned, hsame, hothers, hy⟩ := pinCtx_cached (pin := decide (byteAt q.msg.data 4 = 1)) hcanon.ctxs
      (fun h => hcached (of_decide_eq_true h)) (fun h => hroom (of_decide_eq_true h))
    refine ⟨y, _, logs_dikeLog _ _ _ _ _, by simp only [hpinned]; rfl, fun u hu => ?_⟩
    have hflow := AnswersAndLogs.flow hu
    refine ⟨by rw [ctx_congr hflow, hsame], fun m hm => by rw [ctx_congr hflow, hothers m hm], ?_⟩
    rw [hflow, ← hy]
    exact hu
  · intro q x _ _ hclear
    refine ⟨by simp [hclear], _, rfl, by simp, (logs_dikeLogFields _ _ _ _).acts, fun p => ?_⟩
    have hlog := taken_logs (logs_dikeLogFields q.origin 3 0 (modFlow (fun f => { f with clearing := true }) x)) p
    exact ⟨AnswersAndLogs.flow hlog, (AnswersAndLogs.of_flow (s := { x with dict := { x.dict with acts := _ } }) hlog).2⟩
  · intro t s hcanon hclear
    have hflow : ∀ y, (answerAct .flowClear none y).flow = y.flow := fun y => answerAct_same .flowClear none y .flow rfl
    refine ⟨_, rfl, ?_⟩
    simp only [advance_flow, hclear, ↓reduceIte]
    refine ⟨by rw [hflow]; rfl, by rw [hflow]; rfl, fun n hn => ?_⟩
    obtain ⟨hctx, hentries, hoverflow⟩ := clearContexts_active (n := n) (s := advance t s)
      (by simpa using hcanon.ctxs) (by simpa using hn)
    rw [ctx_advance] at hctx
    rw [hflow]
    exact ⟨(ctx_congr (hflow _) n).trans hctx, hentries, hoverflow⟩

end Sys2Proof.Machine
end

section
/-! The steps of the flow engine (spec 06 R214 to R220, R224). -/

namespace Sys2Proof.Machine
open Sys2Proof

/-! ### What the flow engine reads -/

theorem ctxOfKey_congr {s u : State} (h : u.flow = s.flow) (k : Bytes) : ctxOfKey u k = ctxOfKey s k := by
  simp only [ctxOfKey, h]

theorem cachedAt_congr {s u : State} (h : u.flow.cache = s.flow.cache) (n : Nat) : cachedAt u n = cachedAt s n := by
  simp only [cachedAt, h]

theorem parkFull_congr {s u : State} (h : u.flow = s.flow) (die : Nat) (r : CtxReq) :
    parkFull u die r = parkFull s die r := by
  unfold parkFull parkedBytes
  rw [flowDie_congr h, h]

theorem learnMs_congr {s u : State} (hc : u.clock = s.clock) (ht : u.tables = s.tables) : learnMs u = learnMs s := by
  simp only [learnMs, hc, ht]

@[simp] theorem ctlRoom_advance (t a b : Nat) (s : State) : ctlRoom (advance t s) a b = ctlRoom s a b := by
  simp only [ctlRoom, dataWaits, advance_buf, advance_culv]

@[simp] theorem culvDown_advance (t c : Nat) (s : State) : culvDown (advance t s) c = culvDown s c := by
  simp only [culvDown, advance_culv]

/-- A control flit that crosses changes the Culverts alone. -/
theorem ctlCross_eq (a b : Nat) (s : State) : ctlCross a b s = { s with culv := (ctlCross a b s).culv } := by
  unfold ctlCross
  split
  · rfl
  · rfl

theorem ctlCross_culv_congr {s u : State} (hb : u.buf = s.buf) (hc : u.culv = s.culv) (a b : Nat) :
    (ctlCross a b u).culv = (ctlCross a b s).culv := by
  unfold ctlCross dataWaits
  rw [hb]
  split
  · exact hc
  · exact congrArg (fun x : Culverts => { x with ctlFlits := Tab.upd 0 x.ctlFlits (4 * a + b) (· + 1) }) hc

/-! ### A request that is served (R214) -/

/-- The state in which a request without PIN is served, before its frame goes on. -/
def servedState (n : Nat) (r : CtxReq) (s : State) : State :=
  match cachedAt s n with
  | some k => (useWay k s).setCtx n (servedCtx (s.ctx n) r (learnMs s))
  | none => s.setCtx n (servedCtx (s.ctx n) r (learnMs s))

theorem applyCtx_eq {n : Nat} {r : CtxReq} (s : State) (hpin : r.act.pin = false) :
    applyCtx n r s = launchAll r.parcels (servedState n r s) := by
  unfold applyCtx servedState servedCtx
  simp only [hpin, Bool.false_and, Bool.or_false, Bool.false_eq_true, ↓reduceIte, releaseReq]
  cases cachedAt s n
  · rfl
  · rfl

/-- The state as it is once request `r` left the front of its die's queue and crossed. -/
def taken (die : Nat) (r : CtxReq) (rest : List CtxReq) (s : State) : State :=
  ctlCross (dieOf r.port) die (s.setFlowDie die { s.flowDie die with requests := rest })

theorem contextRequest_taken {t die : Nat} {s : State} {r : CtxReq} {rest : List CtxReq}
    (hreq : (s.flowDie die).requests = r :: rest) (hroom : ctlRoom s (dieOf r.port) die = true) :
    exec (.contextRequest t die) s = .next (serveRequest die r (taken die r rest (advance t s))) := by
  show execContextRequest t die s = _
  simp only [execContextRequest, flowDie_advance, hreq, ctlRoom_advance, hroom, ↓reduceIte, taken]

section Taken
variable (t : Nat) {die : Nat} (r : CtxReq) (rest : List CtxReq) (s : State)

theorem taken_eq : taken die r rest s =
    { s with flow := (taken die r rest s).flow, culv := (taken die r rest s).culv } := by
  unfold taken
  rw [ctlCross_eq]
  rfl

theorem taken_flow : (taken die r rest s).flow = (s.setFlowDie die { s.flowDie die with requests := rest }).flow := by
  unfold taken
  rw [ctlCross_eq]

theorem taken_culv : (taken die r rest s).culv = (ctlCross (dieOf r.port) die s).culv := by
  unfold taken
  exact ctlCross_culv_congr (u := s.setFlowDie die _) (s := s) rfl rfl _ _

theorem taken_cache : (taken die r rest s).flow.cache = s.flow.cache := by
  rw [taken_flow]
  rfl
theorem taken_recent : (taken die r rest s).flow.recent = s.flow.recent := by
  rw [taken_flow]
  rfl

theorem taken_clearing : (taken die r rest s).flow.clearing = s.flow.clearing := by
  rw [taken_flow]
  rfl

theorem ctxOfKey_taken (k : Bytes) : ctxOfKey (taken die r rest s) k = ctxOfKey s k :=
  ctxOfKey_congr (s := s.setFlowDie die _) (taken_flow r rest s) k

theorem flowDie_taken_other {d : Nat} (h : d ≠ die) : (taken die r rest s).flowDie d = s.flowDie d :=
  (flowDie_congr (taken_flow r rest s) d).trans (flowDie_setFlowDie_other s _ h)

theorem ctx_taken (n : Nat) : (taken die r rest s).ctx n = s.ctx n := ctx_congr (taken_flow r rest s) n

variable {s}

theorem flowDie_taken_same (h : Tab.wf FlowDie.reset s.flow.dies = true) :
    (taken die r rest s).flowDie die = { s.flowDie die with requests := rest } :=
  (flowDie_congr (taken_flow r rest s) die).trans (flowDie_setFlowDie_same h _ _)

theorem taken_advance_culv (s : State) :
    (taken die r rest (advance t s)).culv = (ctlCross (dieOf r.port) die s).culv :=
  (taken_culv ..).trans (ctlCross_culv_congr (advance_buf s t) (advance_culv s t) _ _)

theorem taken_advance_flow (s : State) :
    (taken die r rest (advance t s)).flow = (s.setFlowDie die { s.flowDie die with requests := rest }).flow := by
  rw [taken_flow, flowDie_advance]
  simp only [State.setFlowDie, modFlow, advance_flow]

theorem taken_advance_eq (s : State) : taken die r rest (advance t s) = { advance t s with
    flow := { s.flow with dies := (taken die r rest (advance t s)).flow.dies }
    culv := (taken die r rest (advance t s)).culv } := by
  have hflow : (taken die r rest (advance t s)).flow
      = { s.flow with dies := (taken die r rest (advance t s)).flow.dies } := by
    rw [taken_advance_flow]
    rfl
  rw [← hflow]
  exact taken_eq r rest (advance t s)

end Taken

/-! ### What serving a request changes -/

theorem servedState_eq (n : Nat) (r : CtxReq) (s : State) :
    servedState n r s = { s with flow := { s.flow with
      ctxs := (servedState n r s).flow.ctxs, recent := (servedState n r s).flow.recent } } := by
  unfold servedState
  cases cachedAt s n
  · rfl
  · rfl

theorem servedState_cache (n : Nat) (r : CtxReq) (s : State) :
    (servedState n r s).flow.cache = s.flow.cache := by rw [servedState_eq]

theorem servedState_dies (n : Nat) (r : CtxReq) (s : State) : (servedState n r s).flow.dies = s.flow.dies := by
  rw [servedState_eq]

theorem ctx_servedState_same {n : Nat} {r : CtxReq} {s : State} (h : Tab.wf Ctx.reset s.flow.ctxs = true) :
    (servedState n r s).ctx n = servedCtx (s.ctx n) r (learnMs s) := by
  unfold servedState
  cases cachedAt s n
  · exact Tab.get_set_same n _ h
  · exact Tab.get_set_same n _ h

theorem ctx_servedState_other {n m : Nat} {r : CtxReq} {s : State} (h : m ≠ n) :
    (servedState n r s).ctx m = s.ctx m := by
  unfold servedState
  cases cachedAt s n
  · exact ctx_setCtx_other _ _ h
  · exact ctx_setCtx_other _ _ h

theorem recent_servedState {n k : Nat} {r : CtxReq} {s : State} (h : cachedAt s n = some k) :
    (servedState n r s).flow.recent = Tab.set 0 s.flow.recent (k / 16) (k % 16 + 1) := by
  unfold servedState
  rw [h]
  rfl

/-- From a state that differs from `x` in requests and Culverts, a request that is counted and served changes those,
and the contexts and what they were used last. -/
theorem countsOnly_servedState {n : Nat} {r : CtxReq} {x y z : State} {g : Flow}
    (hy : y = { x with flow := { g with dies := y.flow.dies }, culv := y.culv }) (hz : CountsOnly y z) :
    CountsOnly { x with
      flow := { g with
        ctxs := (servedState n r z).flow.ctxs
        dies := (servedState n r z).flow.dies
        recent := (servedState n r z).flow.recent }
      culv := (servedState n r z).culv } (servedState n r z) := by
  have hflow : y.flow = { g with dies := y.flow.dies } := congrArg State.flow hy
  have hctxs : y.flow.ctxs = g.ctxs := (congrArg Flow.ctxs hflow :)
  have hrecent : y.flow.recent = g.recent := (congrArg Flow.recent hflow :)
  unfold servedState
  cases cachedAt z n with
  | none =>
    have hset := hz.map (f := fun w => w.setCtx n (servedCtx (z.ctx n) r (learnMs z)))
      (fun _ _ _ _ => rfl) (fun _ _ => rfl) rfl
    refine cast (congrArg (fun w => CountsOnly w _) ?_) hset
    exact (congrArg (fun w : State => w.setCtx n _) hy).trans
      (by simp only [State.setCtx, modFlow, hz.flow, hz.culv, hctxs, hrecent])
  | some k =>
    have hset := hz.map (f := fun w => (useWay k w).setCtx n (servedCtx (z.ctx n) r (learnMs z)))
      (fun _ _ _ _ => rfl) (fun _ _ => rfl) rfl
    refine cast (congrArg (fun w => CountsOnly w _) ?_) hset
    exact (congrArg (fun w : State => (useWay k w).setCtx n _) hy).trans
      (by simp only [State.setCtx, useWay, modFlow, hz.flow, hz.culv, hctxs, hrecent])

section Serve
variable {die n : Nat} {r : CtxReq} {s : State} (hclear : s.flow.clearing = false) (hsched : r.scheduled = false)
  (hfetch : ∀ f ∈ (s.flowDie die).fetches, f.key ≠ r.key)
include hclear hsched hfetch

theorem serveRequest_hit (hkey : ctxOfKey s r.key = some n) (hcached : (cachedAt s n).isSome = true) :
    serveRequest die r s = applyCtx n r (count 0x2A03 1 s) := by
  have hany : (s.flowDie die).fetches.any (fun f => decide (f.key = r.key)) = false := by simpa using hfetch
  simp only [serveRequest, hclear, hsched, hany, hkey, hcached, Bool.false_eq_true, ↓reduceIte]

theorem serveRequest_miss (hkey : ctxOfKey s r.key = none) (hroom : parkFull s die r = false) :
    serveRequest die r s = (count 0x2A03 2 s).setFlowDie die { s.flowDie die with
      fetches := (s.flowDie die).fetches ++ [{ key := r.key, hash := r.hash, way := none, frames := [r] }] } := by
  have hany : (s.flowDie die).fetches.any (fun f => decide (f.key = r.key)) = false := by simpa using hfetch
  have hdie : (count 0x2A03 2 s).flowDie die = s.flowDie die := flowDie_congr (count_only ..).flow die
  simp only [serveRequest, hclear, hsched, hany, hkey, hroom, hdie, Bool.false_eq_true, ↓reduceIte]

end Serve

/-! ### Fetches (R216, R217) -/

/-- The fetch in front is issued where a way can be reserved for it. -/
theorem fetchIssue_front {die w : Nat} {s s1 : State} {f : Fetch} {rest : List Fetch}
    (hfetches : (s.flowDie die).fetches = f :: rest) (hway : f.way = none)
    (hfew : ((s.flowDie die).fetches.filter (fun g => g.way.isSome)).length < 128)
    (hreserve : reserveWay die (flowSet f.hash) s = some (w, s1)) :
    fetchIssue die s = s1.setFlowDie die { s1.flowDie die with
      fetches := (s1.flowDie die).fetches.map (fun g => if g.key = f.key then { g with way := some w } else g) } := by
  unfold fetchIssue
  dsimp only
  rw [if_neg (Nat.not_le.2 hfew), hfetches]
  simp only [issueFrom, hway, hreserve]

/-- A record with fetches is none that reads as the default. -/
theorem fetches_setFlowDie {s : State} {die : Nat} {x : FlowDie} (h : x.fetches ≠ []) :
    ((s.setFlowDie die x).flowDie die).fetches = x.fetches :=
  congrArg FlowDie.fetches (Tab.get_set_of_ne _ _ fun hx => h (hx ▸ rfl))

/-- The state in which fetch `f` of context `n` brought it to its way. -/
def fetched (die slot n : Nat) (f : Fetch) (s : State) : State :=
  installCtx die (slot / 16) (slot % 16) n (s.setFlowDie die { s.flowDie die with
    fetches := (s.flowDie die).fetches.filter (fun g => decide (g.key ≠ f.key)) })

section Fetched
variable (die slot n : Nat) (f : Fetch) (s : State)

theorem fetched_eq : fetched die slot n f s = { s with flow := { s.flow with
    cache := Tab.ins s.flow.cache (cacheKey die (slot / 16) (slot % 16)) (n + 1)
    dies := (fetched die slot n f s).flow.dies
    recent := (fetched die slot n f s).flow.recent } } := rfl

theorem ctx_fetched (m : Nat) : (fetched die slot n f s).ctx m = s.ctx m := rfl
theorem learnMs_fetched : learnMs (fetched die slot n f s) = learnMs s := rfl
theorem ctxOfKey_fetched (k : Bytes) : ctxOfKey (fetched die slot n f s) k = ctxOfKey s k := rfl
theorem fetched_clearing : (fetched die slot n f s).flow.clearing = s.flow.clearing := rfl
theorem fetched_cache : (fetched die slot n f s).flow.cache
    = Tab.ins s.flow.cache (cacheKey die (slot / 16) (slot % 16)) (n + 1) := rfl

variable {s}

theorem wf_ctxs_fetched (h : Tab.wf Ctx.reset s.flow.ctxs = true) :
    Tab.wf Ctx.reset (fetched die slot n f s).flow.ctxs = true := h

theorem fetches_fetched (h : Tab.wf FlowDie.reset s.flow.dies = true) : ((fetched die slot n f s).flowDie die).fetches
    = (s.flowDie die).fetches.filter (fun g => decide (g.key ≠ f.key)) :=
  congrArg FlowDie.fetches (flowDie_setFlowDie_same h _ _)

end Fetched

/-- The fetch of a key that has a context, over Culverts that are up, ends with that context in its way, and the one
frame parked for it is served. -/
theorem fetchComplete_hit {t die slot n : Nat} {s : State} {f : Fetch} {r : CtxReq}
    (hfind : (s.flowDie die).fetches.find?
      (fun g => decide (g.way = some (slot % 16)) && decide (flowSet g.hash = slot / 16)) = some f)
    (hopen : culvDown s (mdCulvert die (flowBucket f.hash % 2)) = false) (hkey : ctxOfKey s f.key = some n)
    (hopen' : culvDown s (mdCulvert die (n % 2)) = false) (hclear : s.flow.clearing = false)
    (hframes : f.frames = [r]) (hr : r.key = f.key) :
    fetchComplete t die slot false s = applyCtx n r (fetched die slot n f s) := by
  have hkey' : ∀ fs, ctxOfKey (s.setFlowDie die { s.flowDie die with fetches := fs }) f.key = some n := fun _ => hkey
  have hserve : serveParked t die (slot / 16) (slot % 16) [r] (fetched die slot n f s)
      = applyCtx n r (fetched die slot n f s) := by
    simp only [serveParked, fetched_clearing, hclear, ctxOfKey_fetched, hr, hkey, Bool.false_eq_true, ↓reduceIte]
  rw [← hserve, fetched]
  simp only [fetchComplete, hfind, hopen, hkey, hopen', hkey', hframes, Bool.false_and, Bool.false_or,
    Bool.false_eq_true, ↓reduceIte]

/-- A context that is idle for its time, and of which no fetch or write-back is under way, is deleted. -/
theorem flowAgerVisit_expired {t n : Nat} {s : State} (hactive : (s.ctx n).active = true) (hidle : (s.ctx n).idle ≠ 0)
    (hbusy : s.flow.dies.any (fun e =>
      e.2.writeBacks.contains n || e.2.fetches.any (fun f => f.way.isSome && decide (f.key = (s.ctx n).key))) = false)
    (hold : cfgN s 0x2A01 (s.ctx n).idle ≤ (learnMs s + 2 ^ 32 - (s.ctx n).stamp) % 2 ^ 32)
    (hquiet : (cfgN s 0x2A00 2).testBit (s.ctx n).idle = false) :
    flowAgerVisit t n s = count 0x2A03 9 (deleteCtx n s) := by
  unfold flowAgerVisit
  dsimp only
  rw [hbusy, if_neg (by simp [hactive, hidle]), if_neg (Nat.not_lt.2 hold), if_neg (by simp [hquiet])]

theorem flowDie_servedState (n : Nat) (r : CtxReq) (s : State) (d : Nat) :
    (servedState n r s).flowDie d = s.flowDie d := by
  rw [servedState_eq]
  rfl

/-- Settles O7: the premises of each clause select one case of the step, whose effect is a law above. -/
theorem flowSteps : Obligations.FlowSteps := by
  refine ⟨?_, ?_, ?_, ?_, ?_, ?_, ?_⟩
  · intro t die s r rest n k hreq hroom hclear hsched hfetch hkey hcached hpin hcanon
    have hcanon' := canonical_advance t hcanon
    have hcount := count_only 0x2A03 1 (taken die r rest (advance t s))
    have hflow := hcount.flow
    have hwf : Tab.wf Ctx.reset (count 0x2A03 1 (taken die r rest (advance t s))).flow.ctxs = true := by
      rw [hflow, taken_flow]
      exact hcanon'.ctxs
    have hcached' : cachedAt (count 0x2A03 1 (taken die r rest (advance t s))) n = some k := by
      rw [cachedAt_congr (s := s) _ n, hcached]
      rw [hflow, taken_cache, advance_flow]
    refine ⟨_, contextRequest_taken hreq hroom, servedState n r (count 0x2A03 1 (taken die r rest (advance t s))),
      ?_, ?_, ?_, ?_, ?_, ?_, ?_⟩
    · rw [serveRequest_hit, applyCtx_eq _ hpin]
      · rwa [taken_clearing, advance_flow]
      · exact hsched
      · rw [flowDie_taken_same _ _ hcanon'.flowDies, flowDie_advance]
        exact hfetch
      · rw [ctxOfKey_taken, ctxOfKey_congr (advance_flow s t), hkey]
      · rw [cachedAt_congr (taken_cache ..), cachedAt_congr (congrArg Flow.cache (advance_flow s t)), hcached]
        rfl
    · rw [flowDie_servedState, flowDie_congr hflow, flowDie_taken_same _ _ hcanon'.flowDies]
    · rw [ctx_servedState_same hwf, ctx_congr hflow, ctx_taken, ctx_advance,
        learnMs_congr (s := advance t s) (hcount.clock.trans _) (hcount.tables.trans _)]
      · rw [taken_eq]
      · rw [taken_eq]
    · intro m hm
      rw [ctx_servedState_other hm, ctx_congr hflow, ctx_taken, ctx_advance]
    · rw [recent_servedState hcached', hflow, taken_recent, advance_flow]
    · rw [servedState_eq]
      exact hcount.culv.trans (taken_advance_culv ..)
    · exact countsOnly_servedState (taken_advance_eq t r rest s) hcount
  · intro t die s r rest hreq hroom hclear hsched hfetch hkey hpark hcanon
    have hcanon' := canonical_advance t hcanon
    have hcount := count_only 0x2A03 2 (taken die r rest (advance t s))
    have hflow := hcount.flow
    have hdies : Tab.wf FlowDie.reset (count 0x2A03 2 (taken die r rest (advance t s))).flow.dies = true := by
      rw [hflow, taken_flow]
      exact Tab.wf_set _ _ hcanon'.flowDies
    have hserve := serveRequest_miss (die := die) (r := r) (s := taken die r rest (advance t s)) ?_ hsched ?_ ?_ ?_
    · rw [flowDie_taken_same _ _ hcanon'.flowDies, flowDie_advance] at hserve
      refine ⟨_, contextRequest_taken hreq hroom, ?_⟩
      rw [hserve]
      refine ⟨flowDie_setFlowDie_same hdies _ _, fun d hd => ?_, ?_, ?_⟩
      · rw [flowDie_setFlowDie_other _ _ hd, flowDie_congr hflow, flowDie_taken_other _ _ _ hd, flowDie_advance]
      · exact hcount.culv.trans (taken_advance_culv ..)
      · have hset := hcount.map (f := fun x => x.setFlowDie die { s.flowDie die with
          requests := rest
          fetches := (s.flowDie die).fetches ++ [{ key := r.key, hash := r.hash, way := none, frames := [r] }] }) (fun _ _ _ _ => rfl) (fun _ _ => rfl) rfl
        refine cast (congrArg (fun x => CountsOnly x _) ?_) hset
        have hdies' := congrArg Flow.dies hflow
        exact (congrArg (fun x : State => x.setFlowDie die _) (taken_advance_eq t r rest s)).trans
          (by simp only [State.setFlowDie, modFlow, hdies', hcount.culv])
    · rwa [taken_clearing, advance_flow]
    · rw [flowDie_taken_same _ _ hcanon'.flowDies, flowDie_advance]
      exact hfetch
    · rw [ctxOfKey_taken, ctxOfKey_congr (advance_flow s t), hkey]
    · rw [parkFull_congr (taken_advance_flow ..), hpark]
  · intro t die s r rest hreq hroom
    refine ⟨_, rfl, ?_⟩
    simp only [flowDie_advance, hreq, ctlRoom_advance, hroom, Bool.false_eq_true, ↓reduceIte]
  · intro die s f rest w s1 hfetches hway hkeys hfew hreserve hsame
    refine ⟨_, congrArg Host.Outcome.next (fetchIssue_front hfetches hway hfew hreserve), ?_, rfl, rfl⟩
    have hrest : rest.map (fun g => if g.key = f.key then { g with way := some w } else g) = rest :=
      (List.map_congr_left fun g hg => if_neg (hkeys g hg)).trans (List.map_id' rest)
    refine (fetches_setFlowDie (by simp [hsame])).trans ?_
    simp only [hsame, List.map_cons, ↓reduceIte, hrest]
  · intro t die slot s f n r hfind hopen hkey hopen' hclear hframes hr hpin hcanon
    have hcanon' := canonical_advance t hcanon
    have hrun := fetchComplete_hit (t := t) (die := die) (slot := slot) (s := advance t s) (by rwa [flowDie_advance])
      (by rwa [culvDown_advance]) (by rwa [ctxOfKey_congr (advance_flow s t)]) (by rwa [culvDown_advance])
      (by rwa [advance_flow]) hframes hr
    have hcache := congrArg Flow.cache (advance_flow s t)
    refine ⟨_, congrArg Host.Outcome.next hrun, _, applyCtx_eq _ hpin, ?_, ?_, ?_, fun m hm => ?_, ?_⟩
    · rw [flowDie_servedState, fetches_fetched _ _ _ _ hcanon'.flowDies, flowDie_advance]
    · rw [servedState_cache, fetched_cache, advance_flow]
    · rw [ctx_servedState_same (wf_ctxs_fetched _ _ _ _ hcanon'.ctxs), ctx_fetched, learnMs_fetched, ctx_advance]
    · rw [ctx_servedState_other hm, ctx_fetched, ctx_advance]
    · have hflow : s.flow = (advance t s).flow := (advance_flow s t).symm
      rw [servedState_cache, fetched_cache, hflow]
      refine (servedState_eq _ _ _).trans ?_
      rw [servedState_dies]
      exact congrArg (fun x : State => { x with flow := { x.flow with
        ctxs := (servedState n r (fetched die slot n f (advance t s))).flow.ctxs
        recent := (servedState n r (fetched die slot n f (advance t s))).flow.recent } })
        (fetched_eq die slot n f (advance t s))
  · intro die s hcanon
    exact ⟨_, rfl, flowDie_setFlowDie_same hcanon.flowDies _ _, fun d hd => flowDie_setFlowDie_other s _ hd, rfl⟩
  · intro t n s hcanon hactive hidle hbusy hold hquiet
    have hflow : ∀ y : State, (count 0x2A03 9 y).flow = y.flow := fun y => (count_only 0x2A03 9 y).flow
    have hrun : exec (.flowAgerVisit t n) s = .next (count 0x2A03 9 (deleteCtx n (advance t s))) := by
      show execFlowAgerVisit t n s = _
      refine congrArg _ (flowAgerVisit_expired (by rwa [ctx_advance]) (by rwa [ctx_advance]) ?_ ?_ ?_)
      · rw [advance_flow, ctx_advance]
        exact hbusy
      · rw [ctx_advance, cfgN_advance]
        exact hold
      · rw [ctx_advance, cfgN_advance]
        exact hquiet
    refine ⟨_, hrun, ?_, ?_, ?_, ?_, ?_, ?_⟩
    · rw [ctx_congr (hflow _), ctx_deleteCtx_same _ (canonical_advance t hcanon).ctxs, ctx_advance]
    · intro m hm
      rw [ctx_congr (hflow _), ctx_deleteCtx_other _ _ hm, ctx_advance]
    · rw [hflow]
      exact (unlisted_deleteCtx n _).1
    · rw [hflow]
      exact (unlisted_deleteCtx n _).2
    · rw [flowDie_congr (hflow _), flowDie_deleteCtx _ (canonical_advance t hcanon).flowDies, flowDie_advance]
    · rw [hflow, ← deleteCtx_eq]
      exact count_only 0x2A03 9 (deleteCtx n (advance t s))

end Sys2Proof.Machine
end

section
/-! What occurrences and counts leave behind, and with it the buffer pool's actions (spec 07) and the link states of the
field ports (spec 03). -/

namespace Sys2Proof

/-! ### A key that is written twice -/

theorem Tab.ins_ins {α : Type} (t : Tab α) (i : Nat) (a b : α) : Tab.ins (Tab.ins t i a) i b = Tab.ins t i b := by
  induction t with
  | nil => simp [Tab.ins]
  | cons e t ih =>
    obtain ⟨k, w⟩ := e
    by_cases hlt : i < k
    · simp [Tab.ins, hlt]
    · by_cases heq : i = k
      · simp [Tab.ins, heq]
      · simp [Tab.ins, hlt, heq, ih]

theorem Tab.set_set_of_ne {α : Type} [DecidableEq α] {d a b : α} (t : Tab α) (i : Nat) (ha : a ≠ d) (hb : b ≠ d) :
    Tab.set d (Tab.set d t i a) i b = Tab.set d t i b := by
  simp only [Tab.set, if_neg ha, if_neg hb, Tab.ins_ins]

end Sys2Proof

namespace Sys2Proof.Machine
open Sys2Proof

/-! ### Events of a die and of a port (spec 16 R542, R543) -/

theorem sourceInUse_raiseDie {die k : Nat} (hd : die < 4) (hk : k ≤ 14) : sourceInUse (96 + 32 * die + k) = true := by
  have hrange : 96 + 32 * die + k < 224 ∧ (96 + 32 * die + k) % 32 ≤ 14 := by omega
  simp only [sourceInUse, Bool.or_eq_true, decide_eq_true_eq]
  omega

theorem raiseDie_sets {die k : Nat} (hd : die < 4) (hk : k ≤ 14) (s : State) :
    (evtStat (raiseDie die k s) (3 + die)).testBit k = true := by
  have h := raise_sets (sourceInUse_raiseDie hd hk) s
  have hg : (96 + 32 * die + k) / 32 = 3 + die := by omega
  have hb : (96 + 32 * die + k) % 32 = k := by omega
  rwa [hg, hb] at h

theorem dieOf_lt {p : Nat} (hp : p < 512) : dieOf p < 4 := Nat.div_lt_of_lt_mul hp

theorem raisePort_sets {p k : Nat} (hp : p < 512) (hk : k ≤ 14) (s : State) :
    (evtStat (raisePort p k s) (3 + dieOf p)).testBit k = true := raiseDie_sets (dieOf_lt hp) hk _

theorem raisePort_marks (p k : Nat) (s : State) : Tab.get false (raisePort p k s).evt.portMap p = true := by
  have h := (statGrows_raise (96 + 32 * dieOf p + k)
    (modEvt (fun x => { x with portMap := Tab.set false x.portMap p true }) s)).map
  exact (congrArg (fun m => Tab.get false m p) h).trans (Tab.get_set_of_ne (d := false) (v := true) _ _ (by decide))

/-! ### Counts -/

theorem counter_congr {s u : State} (h : u.dict.counters = s.dict.counters) (idx sub : Nat) :
    counter u idx sub = counter s idx sub := by
  simp only [counter, h]

theorem countQ_counters {idx sub n : Nat} (hn : n ≠ 0) (port tc polder : Option Nat) (s : State) :
    (countQ idx sub n port tc polder s).dict.counters
      = Tab.upd 0 s.dict.counters (objKey idx sub) (fun c => satAdd64 c n) := by
  unfold countQ
  rw [if_neg hn, countEv_dict]
  rfl

theorem counter_countQ (idx sub : Nat) (port tc polder : Option Nat) (s : State) :
    counter (countQ idx sub 1 port tc polder s) idx sub = satAdd64 (counter s idx sub) 1 := by
  unfold counter
  rw [countQ_counters (by decide)]
  exact Tab.get_set_of_ne _ _ (satAdd64_one_ne_zero _)

/-! ### The buffer pool (spec 07) -/

/-- Settles O8: two actions read, one clears both latches, and an owner is released where its cells are gone. -/
theorem bufferActions : Obligations.BufferActions := by
  refine ⟨serves_read (fun _ _ => rfl) rfl ?_, serves_read (fun _ _ => rfl) rfl ?_,
    serves_change (fun _ _ => rfl) rfl ?_, ?_, ?_⟩
  · intro q x _ _ hn
    simp [Nat.not_lt.2 hn]
  · intro q x _ _ hn
    simp [Nat.not_lt.2 hn]
  · intro q x _ _ _
    refine ⟨rfl, clearLatches x, rfl, fun u hu => ?_⟩
    have hbuf : u.buf = (clearLatches x).buf := hu.signals.buf
    rw [hbuf]
    exact ⟨rfl, hu⟩
  · intro owner s hcanon howner hdrains hempty
    have hrun : releaseOwner owner s
        = modBuf (fun x => { x with owners := Tab.set 0 x.owners (owner - 0x202) 0 }) s := by
      simp [releaseOwner, hdrains, howner, hempty]
    refine ⟨_, congrArg Host.Outcome.next hrun, Tab.get_set_same (owner - 0x202) 0 hcanon.owners, fun i hi => ?_, rfl⟩
    exact Tab.get_set_other s.buf.owners 0 hi.symm
  · intro owner die s hdie hcells
    have hrun : releaseOwner owner s = s := by
      refine if_neg fun h => ?_
      simp only [Bool.and_eq_true, List.all_eq_true, decide_eq_true_eq] at h
      obtain ⟨-, hall⟩ := h
      exact hcells (hall die (by simp; omega))
    exact ⟨_, congrArg Host.Outcome.next hrun, rfl⟩

/-! ### Link states (spec 03 R97 to R100) -/

theorem cfgN_congr {s u : State} (h : u.dict.vals = s.dict.vals) (idx sub : Nat) : cfgN u idx sub = cfgN s idx sub := by
  unfold cfgN cfg
  rw [h]

section Ports
variable (t p : Nat) (s : State)

@[simp] theorem portMode_advance : portMode (advance t s) p = portMode s p := cfgN_advance ..
@[simp] theorem adminEnable_advance : adminEnable (advance t s) p = adminEnable s p := by
  simp only [adminEnable, cfgN_advance]
@[simp] theorem portExists_advance : portExists (advance t s) p = portExists s p := by
  simp only [portExists, portMode_advance]
@[simp] theorem portActive_advance : portActive (advance t s) p = portActive s p := by
  simp only [portActive, portExists_advance, adminEnable_advance, advance_boot, port_advance]
@[simp] theorem negotiates_advance : negotiates (advance t s) p = negotiates s p := by
  simp only [negotiates, portMode_advance, cfgN_advance]
@[simp] theorem fecResolved_advance (r : Nat) : fecResolved (advance t s) p r = fecResolved s p r := by
  simp only [fecResolved, negotiates_advance, portMode_advance, cfgN_advance]
@[simp] theorem backupPort_advance : backupPort (advance t s) p = backupPort s p := cfgN_advance ..

theorem primariesOf_congr {u : State} (h : u.dict.vals = s.dict.vals) : primariesOf u p = primariesOf s p := by
  have hb : ∀ x, backupPort u x = backupPort s x := fun x => cfgN_congr h _ _
  simp only [primariesOf, hb]

theorem port_setPort_of_ne {x : Port} (h : x ≠ Port.reset) : (s.setPort p x).port p = x := Tab.get_set_of_ne _ _ h

theorem ports_setPort (x : Port) : (s.setPort p x).ports = Tab.set Port.reset s.ports p x := rfl

theorem setPort_setPort {x y : Port} (hx : x ≠ Port.reset) (hy : y ≠ Port.reset) :
    (s.setPort p x).setPort p y = s.setPort p y :=
  congrArg (fun m => { s with ports := m }) (Tab.set_set_of_ne _ _ hx hy)

end Ports

/-- The line of a port that bring-up works on brings a state. -/
theorem linkStateChange_active {t p fec rate : Nat} {st : LinkSt} {s : State} (hp : p < 512)
    (hactive : portActive s p = true) (hdisabled : st ≠ .disabled) (hout : st ≠ .outOfService)
    (hrate : portMode s p = 2 → rate = 1000) :
    exec (.linkStateChange t p st ⟨fec, rate⟩) s = .next (setLink p st (fecResolved s p fec) (advance t s)) := by
  have hsame : ¬(portMode s p = 2 ∧ rate ≠ 1000) := fun h => h.2 (hrate h.1)
  show execLinkStateChange t p st ⟨fec, rate⟩ s = _
  simp [execLinkStateChange, hp, hactive, hdisabled, hout, hsame]

/-- The port's record once its link state is `st`. -/
def linked (st : LinkSt) (fec now : Nat) (x : Port) : Port :=
  { x with
    link := st
    fec := if st = .up then fec else 0
    fecWin := []
    upAt := if st = .up then now else x.upAt
    retryAt := if st = .down then (if x.link = .disabled ∨ x.link = .outOfService then now else now + retryPeriod)
      else x.retryAt }

/-- What a change brings that comes UP (`is`) or leaves UP, once the record is written. -/
def linkChanged (p : Nat) (is : Bool) (s : State) : State :=
  if is then
    let u := forEach (primariesOf s p) backupCameUp s
    if (u.port p).redirect && decide ((u.port p).frrState = 2) then revert p u else u
  else forEach (primariesOf s p) backupWentDown s

theorem setLink_of_ne {p fec : Nat} {st : LinkSt} {s : State} (hne : (s.port p).link ≠ st) :
    setLink p st fec s =
      if decide ((s.port p).link = .up) = decide (st = .up) then s.setPort p (linked st fec s.clock (s.port p))
      else linkChanged p (decide (st = .up)) (raisePort p 0
        (if decide ((s.port p).link = .up) then countPort p 0x2A 1 (s.setPort p (linked st fec s.clock (s.port p)))
          else s.setPort p (linked st fec s.clock (s.port p)))) := by
  unfold setLink linked linkChanged
  rw [if_neg hne]
  simp only [decide_eq_true_eq]

theorem linkChanged_up {p : Nat} {s : State} (hprim : primariesOf s p = [])
    (hidle : (s.port p).redirect = false ∨ (s.port p).frrState ≠ 2) : linkChanged p true s = s := by
  have hcond : ((s.port p).redirect && decide ((s.port p).frrState = 2)) = false := by
    simpa [imp_iff_not_or] using hidle
  simp only [linkChanged, hprim, forEach, List.foldl_nil, hcond, Bool.false_eq_true, ↓reduceIte]

theorem linkChanged_down {p : Nat} {s : State} (hprim : primariesOf s p = []) : linkChanged p false s = s := by
  simp only [linkChanged, hprim, forEach, List.foldl_nil, Bool.false_eq_true, ↓reduceIte]

/-- A link state that changes without UP before or after it changes the port's record alone. -/
theorem setLink_quiet {p fec : Nat} {st : LinkSt} {s : State} (hne : (s.port p).link ≠ st) (hwas : (s.port p).link ≠ .up)
    (his : st ≠ .up) : setLink p st fec s = s.setPort p (linked st fec s.clock (s.port p)) := by
  rw [setLink_of_ne hne, if_pos (by simp [hwas, his])]

/-- Coming UP raises link-change; no primary waits for the port, nor it for itself. -/
theorem setLink_up {p fec : Nat} {s : State} (hwas : (s.port p).link ≠ .up) (hprim : primariesOf s p = [])
    (hidle : (s.port p).redirect = false ∨ (s.port p).frrState ≠ 2) :
    setLink p .up fec s = raisePort p 0 (s.setPort p (linked .up fec s.clock (s.port p))) := by
  have hport : (raisePort p 0 (s.setPort p (linked .up fec s.clock (s.port p)))).port p
      = linked .up fec s.clock (s.port p) := by
    simp only [State.port, raisePort_ports]
    exact port_setPort_of_ne p s (by simp [linked, Port.reset])
  rw [setLink_of_ne hwas, if_neg (by simp [hwas]), if_neg (by simp [hwas])]
  refine linkChanged_up ?_ ?_
  · rw [primariesOf_congr p s (by simp), hprim]
  · rw [hport]
    exact hidle

/-- Leaving UP is counted and raises link-change; no primary uses the port. -/
theorem setLink_leavesUp {p fec : Nat} {st : LinkSt} {s : State} (hwas : (s.port p).link = .up) (his : st ≠ .up)
    (hprim : primariesOf s p = []) :
    setLink p st fec s = raisePort p 0 (countPort p 0x2A 1 (s.setPort p (linked st fec s.clock (s.port p)))) := by
  rw [setLink_of_ne (hwas ▸ his.symm), if_neg (by simp [hwas, his]), if_pos (by simp [hwas]), decide_eq_false his]
  exact linkChanged_down (by rw [primariesOf_congr p s (by simp), hprim])

/-- A port in DOWN whose time has come is tried again. -/
theorem portRetry_due {t p : Nat} {s : State} (hp : p < 512) (hactive : portActive s p = true)
    (hdown : (s.port p).link = .down) (hdue : (s.port p).retryAt ≤ t) :
    exec (.portRetry t p) s = .next (if negotiates s p then
      setLink p .training 0 ((advance t s).setPort p { s.port p with retryAt := t + retryPeriod })
      else (advance t s).setPort p { s.port p with retryAt := t + retryPeriod }) := by
  have hneg : ∀ x, negotiates ((advance t s).setPort p x) p = negotiates s p := fun x => negotiates_advance t p s
  show execPortRetry t p s = _
  simp [execPortRetry, hp, hactive, hdown, hdue, hneg]

theorem linked_quiet {st : LinkSt} {fec now : Nat} {x : Port} (his : st ≠ .up) (hout : x.link ≠ .outOfService) :
    linked st fec now x = { x with
      link := st, fec := 0, fecWin := []
      retryAt := if st = .down then (if x.link = .disabled then now else now + retryPeriod) else x.retryAt } := by
  simp only [linked, if_neg his, hout, or_false]

/-- Settles O9: the premises say whether the change comes UP, leaves UP or does neither, or that a retry is due. -/
theorem linkStates : Obligations.LinkStates := by
  have hservice : ∀ {p s}, portActive s p = true → (s.port p).link ≠ .outOfService := by
    intro p s h hout
    simp [portActive, hout] at h
  refine ⟨?_, ?_, ?_, ?_, ?_, ?_, ?_⟩
  · intro t p fec rate st s hp hactive hdisabled hout hup hrate hwas hne
    refine ⟨_, (linkStateChange_active hp hactive hdisabled hout hrate).trans
      (congrArg _ (setLink_quiet (by simpa using hne) (by simpa using hwas) hup)), ?_⟩
    rw [port_advance, linked_quiet hup (hservice hactive)]
  · intro t p fec rate s hp hactive hrate hwas hprim hidle
    refine ⟨_, (linkStateChange_active hp hactive (by decide) (by decide) hrate).trans
      (congrArg _ (setLink_up (by simpa using hwas) ?_ (by simpa using hidle))), ?_, ?_, ?_, ?_⟩
    · rw [primariesOf_congr p s (by simp), hprim]
    · simp [linked, ports_setPort]
    · exact raisePort_sets hp (by decide) _
    · exact raisePort_marks p 0 _
    · rw [raisePort_ports]
      exact signalsOnly_of (signals_raisePort ..)
  · intro t p fec rate st s hp hactive hdisabled hout hup hrate hwas hprim
    refine ⟨_, (linkStateChange_active hp hactive hdisabled hout hrate).trans
      (congrArg _ (setLink_leavesUp (by simpa using hwas) hup ?_)), ?_, ?_, ?_, ?_, ?_⟩
    · rw [primariesOf_congr p s (by simp), hprim]
    · simp [linked, ports_setPort, hup, hwas]
    · exact raisePort_sets hp (by decide) _
    · exact raisePort_marks p 0 _
    · rw [counter_congr (congrArg Dict.counters (raisePort_dict ..)), countPort, counter_countQ]
      rw [counter_congr (congrArg Dict.counters (setPort_dict ..)), counter_congr (congrArg Dict.counters (advance_dict ..))]
    · simp only [raisePort_ports, countPort, countQ_ports]
      exact (countQ_only ..).trans (signals_raisePort ..).countsOnly
  · intro t p fec rate st s hmode hrate hdown
    have hheld : ∀ fec', setLink p .down fec' (advance t s) = advance t s := fun fec' =>
      if_pos ((congrArg Port.link (port_advance s t p)).trans hdown)
    refine ⟨_, rfl, ?_⟩
    simp only [portMode_advance, hmode, hrate, ne_eq, not_false_eq_true, and_self, ↓reduceIte, hheld, ite_self]
  · intro t p s hp hactive hdown hdue hneg
    refine ⟨_, (portRetry_due hp hactive hdown hdue).trans (congrArg _ (if_pos hneg)), ?_⟩
    have hne : { s.port p with retryAt := t + retryPeriod } ≠ Port.reset := by
      simp [Port.reset, retryPeriod]
    have hport := port_setPort_of_ne p (advance t s) hne
    rw [setLink_quiet (by rw [hport]; simp [hdown]) (by rw [hport]; simp [hdown]) (by decide), hport,
      setPort_setPort _ _ hne (by simp [linked, Port.reset])]
    rfl
  · intro t p s hp hactive hdown hdue hneg
    exact ⟨_, (portRetry_due hp hactive hdown hdue).trans (congrArg _ (if_neg (by simp [hneg]))), rfl⟩
  · intro t p s hnot
    refine ⟨_, rfl, if_neg ?_⟩
    simp only [port_advance, Bool.and_eq_true, decide_eq_true_eq, not_and, not_le]
    exact fun ⟨_, hdown⟩ => hnot.resolve_left (not_not.2 hdown)

end Sys2Proof.Machine
end

section
/-! Frames that leave their queues unsent, and gate lists that are applied, clear no event status bit and leave the time
base: the same for every operation their cells and entries meet. -/

namespace Sys2Proof.Machine
open Sys2Proof

/-- No status bit is cleared from `s` to `t`, the map of ports stays, and so does the time base. -/
structure Steady (s t : State) : Prop where
  stat : StatGrows s t
  time : t.time = s.time

theorem Steady.refl (s : State) : Steady s s := ⟨.refl s, rfl⟩

theorem Steady.trans {s t u : State} (a : Steady s t) (b : Steady t u) : Steady s u :=
  ⟨a.stat.trans b.stat, b.time.trans a.time⟩

theorem Steady.of_eq {s t : State} (h : t.evt.stat = s.evt.stat) (m : t.evt.portMap = s.evt.portMap)
    (ht : t.time = s.time) : Steady s t := ⟨.of_eq h m, ht⟩

theorem steady_raise (n : Nat) (s : State) : Steady s (raise n s) := ⟨statGrows_raise n s, raise_time s n⟩
theorem steady_countEv (ev n : Nat) (port tc polder : Option Nat) (s : State) :
    Steady s (countEv ev n port tc polder s) := ⟨statGrows_countEv .., countEv_time ..⟩
theorem steady_signal (fn vec : Nat) (s : State) : Steady s (signal fn vec s) := ⟨statGrows_signal .., signal_time ..⟩
theorem steady_countQ (idx sub n : Nat) (port tc polder : Option Nat) (s : State) :
    Steady s (countQ idx sub n port tc polder s) := ⟨statGrows_countQ .., countQ_time ..⟩

theorem steady_forEach {α : Type} (l : List α) {f : α → State → State} (h : ∀ a s, Steady s (f a s)) (s : State) :
    Steady s (forEach l f s) := by
  induction l generalizing s with
  | nil => exact .refl s
  | cons a l ih => exact (h a s).trans (ih _)

theorem steady_count (idx sub : Nat) (s : State) : Steady s (count idx sub s) := steady_countQ ..
theorem steady_countPort (p sub n : Nat) (s : State) : Steady s (countPort p sub n s) := steady_countQ ..
theorem steady_countPolder (p sub : Nat) (s : State) : Steady s (countPolder p sub s) := steady_countQ ..
theorem steady_raiseDie (die k : Nat) (s : State) : Steady s (raiseDie die k s) := steady_raise ..

/-! ### Cells -/

theorem steady_freeCell (die : Nat) (pipe : Option Nat) (owner c : Nat) (s : State) :
    Steady s (freeCell die pipe owner c s) := by
  unfold freeCell
  dsimp only
  split
  · exact .refl s
  · split
    · exact ((steady_count 0x2B05 3 s).trans (steady_raiseDie die 8 _)).trans (.of_eq rfl rfl rfl)
    · split
      · exact ((steady_count 0x2B05 4 s).trans (steady_raiseDie die 9 _)).trans (.of_eq rfl rfl rfl)
      · exact .of_eq rfl rfl rfl

theorem steady_lowCheck (die : Nat) (s : State) : Steady s (lowCheck die s) := by
  unfold lowCheck
  dsimp only
  split
  · exact Steady.trans (t := s.setBufDie die _) (.of_eq rfl rfl rfl) (steady_raiseDie die 11 _)
  · split
    · exact .of_eq rfl rfl rfl
    · exact .refl s

theorem steady_freeCellList (die : Nat) (pipe : Option Nat) (owner : Nat) (cells : List Nat) (s : State) :
    Steady s (freeCellList die pipe owner cells s) :=
  (steady_forEach cells (steady_freeCell die pipe owner) s).trans (steady_lowCheck die _)

theorem steady_releaseCopy (sid : Nat) (pipe : Option Nat) (s : State) : Steady s (releaseCopy sid pipe s) := by
  unfold releaseCopy
  split
  · exact .refl s
  · split
    · exact .of_eq rfl rfl rfl
    · exact Steady.trans (t := dropStored sid s) (.of_eq rfl rfl rfl) (steady_freeCellList ..)

/-! ### Queues that stop -/

theorem steady_dropPlace (h : HFrame) (s : State) : Steady s (dropPlace h s) := by
  unfold dropPlace
  split
  · exact steady_releaseCopy ..
  · exact .refl s
  · exact .refl s

theorem steady_discardHeld (fn q : Nat) (s : State) : Steady s (discardHeld fn q s) := by
  unfold discardHeld
  refine Steady.trans (steady_forEach _ (fun h z => ?_) s) (.of_eq rfl rfl rfl)
  split
  · exact .refl z
  · exact (steady_dropPlace h z).trans (steady_countPolder ..)

theorem steady_errorVectors (fn q : Nat) (s : State) : Steady s (errorVectors fn q s) := by
  unfold errorVectors
  dsimp only
  split
  · exact (steady_signal ..).trans (steady_signal ..)
  · exact steady_signal ..

theorem steady_polderFault (fn status kind q : Nat) (s : State) : Steady s (polderFault fn status kind q s) := by
  have hmark : ∀ (z : State) (p : Polder) (f : Polders → Polders), Steady z (modPolders f (z.setPolder fn p)) :=
    fun z p f => .of_eq rfl rfl rfl
  unfold polderFault
  dsimp only
  split
  · exact (steady_countPolder fn 0x24 s).trans (hmark _ _ _)
  · exact ((steady_countPolder fn 0x24 s).trans (hmark _ _ _)).trans (steady_raise 261 _)

theorem steady_queueError (fn q status reason errIdx kind : Nat) (marks : List Bytes) (s : State) :
    Steady s (queueError fn q status reason errIdx kind marks s) := by
  have hset : ∀ x, Steady s (s.setQueue fn q x) := fun x => .of_eq rfl rfl rfl
  unfold queueError
  dsimp only
  split
  · exact .refl s
  · refine Steady.trans ?_ (steady_errorVectors fn q _)
    refine Steady.trans ?_ (steady_polderFault fn status kind q _)
    exact (hset _).trans (steady_discardHeld fn q _)

theorem steady_acsReport (fn : Nat) (s : State) : Steady s (acsReport fn s) :=
  Steady.trans (t := s.setFunc fn _) (.of_eq rfl rfl rfl) (steady_count ..)

theorem steady_refuseRequest (fn q idx : Nat) (marks : List Bytes) (s : State) :
    Steady s (refuseRequest fn q idx marks s) := by
  unfold refuseRequest
  split
  · exact steady_queueError ..
  · exact (steady_acsReport fn s).trans (steady_queueError ..)

/-! ### Writes to memory -/

theorem steady_askPage (w : Requester) (addr : Nat) (s : State) : Steady s (askPage w addr s) := by
  unfold askPage
  dsimp only
  split
  · exact .refl s
  · exact .of_eq rfl rfl rfl

theorem steady_dmaWrite (w : Requester) (addr : Nat) (data : Bytes) (s : State) :
    Steady s (dmaWrite w addr data s) := by
  unfold dmaWrite
  split
  · exact .refl s
  · refine Steady.trans (steady_forEach _ (fun p z => ?_) s) (steady_countEv ..)
    exact (steady_askPage w p.1 z).trans (.of_eq rfl rfl rfl)

theorem steady_memWrite (w : Requester) (addr : Nat) (data : Bytes) (s : State) :
    Steady s (memWrite w addr data s) := by
  unfold memWrite
  split
  · exact .of_eq rfl rfl rfl
  · exact steady_dmaWrite ..

theorem steady_queueWrite (fn q idx addr : Nat) (marks : List Bytes) (data : Bytes) (s : State) :
    Steady s (queueWrite fn q idx addr marks data s) := by
  unfold queueWrite
  split
  · exact .refl s
  · split
    · exact steady_refuseRequest ..
    · exact steady_memWrite ..

/-! ### Frames that leave unsent -/

theorem steady_txDone (fn q idx : Nat) (stamp : Option Nat) (s : State) : Steady s (txDone fn q idx stamp s) := by
  unfold txDone
  dsimp only
  split
  · exact .refl s
  · split
    · exact .refl s
    · split
      · exact (steady_queueWrite ..).trans (.of_eq rfl rfl rfl)
      · exact .of_eq rfl rfl rfl

theorem steady_txLost (src : FrameSrc) (s : State) : Steady s (txLost src s) := by
  cases src with
  | hostTx fn q idx => exact steady_txDone fn q idx none s
  | field => exact .refl s
  | siphon _ _ => exact .refl s
  | firmware => exact .refl s
  | detached => exact .refl s

theorem steady_releaseFrames (port : Nat) (l : List QFrame) (s : State) : Steady s (releaseFrames port l s) :=
  steady_forEach l (fun f z => (steady_releaseCopy f.sid _ z).trans (steady_txLost ..)) s

theorem steady_flushPort (port : Nat) (s : State) : Steady s (flushPort port s).2 :=
  Steady.trans (t := s.setPsched port _) (.of_eq rfl rfl rfl) (steady_releaseFrames ..)

/-! ### Gate lists that become operational (spec 08 R275) -/

theorem steady_queueCount (port tc k n : Nat) (s : State) : Steady s (queueCount port tc k n s) :=
  Steady.trans (t := s.setPsched port _) (.of_eq rfl rfl rfl) (steady_countEv ..)

theorem steady_settleHead (port tc : Nat) (s : State) : Steady s (settleHead port tc s) := by
  have hset : ∀ x, Steady s (s.setPsched port x) := fun _ => .of_eq rfl rfl rfl
  exact ((hset _).trans (steady_queueCount ..)).trans (steady_releaseFrames ..)

theorem steady_settleHeads (port : Nat) (s : State) : Steady s (settleHeads port s) :=
  steady_forEach _ (steady_settleHead port) s

theorem steady_applyGates (port : Nat) (extended : Bool) (s : State) : Steady s (applyGates port extended s) := by
  have hbump : ∀ (idx sub : Nat) (z : State), Steady z (bumpObj idx sub 1 z) := fun _ _ _ => .of_eq rfl rfl rfl
  have hset : ∀ x, Steady s (s.setPsched port x) := fun _ => .of_eq rfl rfl rfl
  unfold applyGates
  dsimp only
  split
  · exact .refl s
  · refine Steady.trans (Steady.trans ?_ (steady_settleHeads port _)) (steady_raiseDie _ 12 _)
    cases extended
    · exact (hset _).trans (hbump ..)
    · exact ((hset _).trans (hbump ..)).trans (hbump ..)

theorem steady_gatesAfterStep (s : State) : Steady s (gatesAfterStep s) := by
  refine steady_forEach _ (fun port z => ?_) s
  dsimp only
  split
  · split
    · exact steady_applyGates ..
    · exact .of_eq rfl rfl rfl
  · exact .of_eq rfl rfl rfl

end Sys2Proof.Machine
end

section
/-! Fast reroute of the field ports (spec 03 R117 to R127). -/

namespace Sys2Proof.Machine
open Sys2Proof

section Reads
variable (t p k : Nat) (s : State)

@[simp] theorem frrDebounce_advance : frrDebounce (advance t s) p = frrDebounce s p := by
  simp only [frrDebounce, cfgN_advance]
@[simp] theorem triggerRuns_advance : triggerRuns (advance t s) p k = triggerRuns s p k := by
  simp only [triggerRuns, portExists_advance, adminEnable_advance, frrTriggers, cfgN_advance, portMode_advance]
@[simp] theorem portUp_advance : portUp (advance t s) p = portUp s p := by
  simp only [portUp, port_advance]

variable {s}

theorem portUp_setPort_other {q : Nat} (x : Port) (h : q ≠ p) : portUp (s.setPort p x) q = portUp s q := by
  unfold portUp
  rw [port_setPort_other s p q x h.symm]

end Reads

/-! ### Triggers -/

theorem conditionChange_begins {p k : Nat} {s : State} (hk : k < 4) (hnew : (s.port p).conds.testBit k = false) :
    conditionChange p k true s =
      if frrDebounce s p = 0 then debounceExpiry [(p, k)] (s.setPort p { s.port p with
        conds := bitSet (s.port p).conds k, onset := Tab.ins (s.port p).onset k s.clock })
      else s.setPort p { s.port p with
        conds := bitSet (s.port p).conds k, onset := Tab.ins (s.port p).onset k s.clock } := by
  simp only [conditionChange, hnew, Nat.not_le.2 hk, Bool.true_eq_false, or_false, ↓reduceIte]

/-- The port's record once a condition that had not held for FrrDebounce clears. -/
def conditionCleared (k : Nat) (x : Port) : Port :=
  { x with
    conds := bitClear x.conds k, latch := bitClear x.latch k, onset := Tab.del x.onset k,
    frrState := if x.frrState = 2 ∧ x.redirect = false ∧ bitClear x.latch k = 0 then 0 else x.frrState }

theorem conditionChange_clears {p k : Nat} {s : State} (hk : k < 4) (hold : (s.port p).conds.testBit k = true)
    (hshort : heldLong s p k = false) :
    conditionChange p k false s =
      if !(s.port p).latch.testBit k && triggerRuns s p k then
        countPort p 0x2E 1 (s.setPort p (conditionCleared k (s.port p)))
      else s.setPort p (conditionCleared k (s.port p)) := by
  have hcond : ∀ x : Port, (x.frrState = 2 && !x.redirect && decide (bitClear x.latch k = 0)) = true
      ↔ x.frrState = 2 ∧ x.redirect = false ∧ bitClear x.latch k = 0 := by simp [and_assoc]
  unfold conditionChange conditionCleared
  rw [if_neg (by simp [hold, Nat.not_le.2 hk])]
  simp only [hshort, Bool.false_eq_true, ↓reduceIte, hcond]

/-- The state in which the trigger of a port is latched. -/
def latched (p k : Nat) (s : State) : State := s.setPort p { s.port p with latch := bitSet (s.port p).latch k }

/-- One trigger of one port: it latches where it runs, has held for FrrDebounce and was not latched, and the port acts. -/
theorem debounceExpiry_latches {p k : Nat} {s : State} (hruns : triggerRuns s p k = true)
    (hheld : heldLong s p k = true) (hnew : (s.port p).latch.testBit k = false) :
    debounceExpiry [(p, k)] s
      = primaryActs [p] p (latched p k s) := by
  simp only [latched, debounceExpiry, hruns, hheld, hnew, List.filter_cons, List.filter_nil, Bool.not_false, Bool.and_self,
    ↓reduceIte, List.map_cons, List.map_nil]
  rfl

theorem debounceExpiry_short {p k : Nat} {s : State} (hshort : heldLong s p k = false) :
    debounceExpiry [(p, k)] s = s := by
  simp only [debounceExpiry, hshort, List.filter_cons, List.filter_nil, Bool.and_false, Bool.false_and,
    Bool.false_eq_true, ↓reduceIte, List.map_nil]
  rfl

theorem frrDebounceExpiry_one {t p k : Nat} {s : State} (hp : p < 512) :
    exec (.frrDebounceExpiry t p [(p, k)]) s = .next (debounceExpiry [(p, k)] (advance t s)) := by
  show execFrrDebounceExpiry t p [(p, k)] s = _
  simp [execFrrDebounceExpiry, hp]

theorem port_latched_other {p q : Nat} (k : Nat) (s : State) (h : q ≠ p) : (latched p k s).port q = s.port q :=
  port_setPort_other s p q _ h.symm

theorem backupPort_latched (t p k : Nat) (s : State) : backupPort (latched p k (advance t s)) p = backupPort s p :=
  backupPort_advance t p s

theorem cfgN_latched (t p k : Nat) (s : State) (idx sub : Nat) :
    cfgN (latched p k (advance t s)) idx sub = cfgN s idx sub := cfgN_advance t s idx sub

theorem portUp_latched {t p q k : Nat} (s : State) (h : q ≠ p) : portUp (latched p k (advance t s)) q = portUp s q :=
  (portUp_setPort_other _ _ h).trans (portUp_advance t q s)

theorem port_latched {s : State} (p k : Nat) (h : Tab.wf Port.reset s.ports = true) :
    (latched p k s).port p = { s.port p with latch := bitSet (s.port p).latch k } := port_setPort_same h _ _

/-! ### What a latched primary does -/

section Acts
variable {p : Nat} {s : State}

theorem primaryActs_none (l : List Nat) (h : backupPort s p = 0xFFFF) : primaryActs l p s = s := by
  simp only [primaryActs, h, true_or, ↓reduceIte]

theorem primaryActs_idle {l : List Nat} (hback : backupPort s p ≠ 0xFFFF) (hidle : (s.port p).frrState = 0) :
    primaryActs l p s
      = if portUp s (backupPort s p) && !l.contains (backupPort s p) then switchover p s else backupUnavailable p s := by
  simp only [primaryActs, hback, hidle, ne_eq, not_true_eq_false, or_self, ↓reduceIte]

end Acts

/-! ### The switchover (R120) -/

/-- The state of a switchover before the port's frames are discarded. -/
def switched (p : Nat) (s : State) : State :=
  raisePort p 1 ((countPort p 0x2C 1 s).setPort p { (countPort p 0x2C 1 s).port p with
    frrState := 1, redirect := true, suspended := true, upAt := (countPort p 0x2C 1 s).clock })

theorem switched_ports (p : Nat) (s : State) : (switched p s).ports = Tab.set Port.reset s.ports p { s.port p with
    frrState := 1, redirect := true, suspended := true, upAt := s.clock } := by
  simp only [switched, raisePort_ports, ports_setPort, countPort, countQ_ports, State.port, countQ_clock]

/-- The blocks that the discard of a port's frames may change. -/
def flushed : List Blk := [.counters, .buf, .sched, .ep, .funcs, .polders, .wq, .siphon]

section Switchover
variable {p : Nat} {s : State} (hflush : cfgN s (0x2000 + p) 0xD = 0)
include hflush

theorem switchover_eq :
    switchover p s = countPort p 0x2D (flushPort p (switched p s)).1 (flushPort p (switched p s)).2 := by
  simp only [switchover, switched, hflush, Nat.zero_ne_one, ↓reduceIte]

/-- A switchover without FrrFlush leaves every other block as it was when the port was redirected. -/
theorem same_switchover {b : Blk} (h : flushed.contains b = false) : Same (switched p s) (switchover p s) b := by
  have hframe : Frame flushed (switched p s) (switchover p s) := by
    rw [switchover_eq hflush]
    exact Frame.countPort ((Sub.refl flushed).of rfl)
      (Frame.flushPort (Sub.refl _) (Frame.refl _ _) p) p 0x2D _
  exact hframe.2 b (by simpa using h)

theorem statGrows_switchover : StatGrows (switched p s) (switchover p s) := by
  rw [switchover_eq hflush]
  exact (steady_flushPort p _).stat.trans (steady_countPort p 0x2D _ _).stat

theorem ports_switchover : (switchover p s).ports = Tab.set Port.reset s.ports p { s.port p with
    frrState := 1, redirect := true, suspended := true, upAt := s.clock } :=
  Eq.trans (same_switchover hflush (b := .ports) rfl) (switched_ports p s)

theorem port_switchover_same (h : Tab.wf Port.reset s.ports = true) : (switchover p s).port p = { s.port p with
    frrState := 1, redirect := true, suspended := true, upAt := s.clock } := by
  unfold State.port
  rw [ports_switchover hflush]
  exact Tab.get_set_same p _ h

theorem port_switchover_other {q : Nat} (h : q ≠ p) : (switchover p s).port q = s.port q := by
  unfold State.port
  rw [ports_switchover hflush]
  exact Tab.get_set_other _ _ h.symm

theorem switchover_sets (hp : p < 512) : (evtStat (switchover p s) (3 + dieOf p)).testBit 1 = true :=
  (statGrows_switchover hflush).bits _ _ (raisePort_sets hp (by decide) _)

theorem switchover_marks : Tab.get false (switchover p s).evt.portMap p = true := by
  rw [(statGrows_switchover hflush).map]
  exact raisePort_marks p 1 _

theorem switchover_cls : (switchover p s).cls = s.cls :=
  Eq.trans (same_switchover hflush (b := .cls) rfl) (by simp [switched, countPort])
theorem switchover_tables : (switchover p s).tables = s.tables :=
  Eq.trans (same_switchover hflush (b := .tables) rfl) (by simp [switched, countPort])
theorem switchover_flow : (switchover p s).flow = s.flow :=
  Eq.trans (same_switchover hflush (b := .flow) rfl) (by simp [switched, countPort])

end Switchover

theorem frrConditionChange_line {t p k : Nat} {present : Bool} {c : List Nat} {s : State} (hp : p < 512) (hk : k ≠ 2) :
    exec (.frrConditionChange t p k ⟨present, c⟩) s = .next (conditionChange p k present (advance t s)) := by
  show execFrrConditionChange t p k ⟨present, c⟩ s = _
  simp only [execFrrConditionChange, Nat.not_le.2 hp, hk, ↓reduceIte]

theorem frrConditionChange_codewords {t p : Nat} {present : Bool} {c : List Nat} {s : State} (hp : p < 512)
    (hfec : (s.port p).fec ≠ 0) :
    exec (.frrConditionChange t p 2 ⟨present, c⟩) s = .next (forEach c (fecCodeword p) (advance t s)) := by
  show execFrrConditionChange t p 2 ⟨present, c⟩ s = _
  simp only [execFrrConditionChange, Nat.not_le.2 hp, port_advance, hfec, ↓reduceIte]

section Codewords
variable {p : Nat} {s : State} (hfec : (s.port p).fec ≠ 2)
include hfec

theorem fecCodeword_corrected : fecCodeword p 1 s = countPort p 0x28 1 s := by
  have hport : (countPort p 0x28 1 s).port p = s.port p := by simp only [countPort, State.port, countQ_ports]
  simp only [fecCodeword, ↓reduceIte, hport, ne_eq, hfec, not_false_eq_true]

theorem fecCodeword_uncorrectable : fecCodeword p 2 s = countPort p 0x29 1 s := by
  have hport : (countPort p 0x29 1 s).port p = s.port p := by simp only [countPort, State.port, countQ_ports]
  simp only [fecCodeword, OfNat.ofNat_ne_one, ↓reduceIte, hport, ne_eq, hfec, not_false_eq_true]

theorem fecCodeword_clean : fecCodeword p 0 s = s := by
  simp only [fecCodeword, OfNat.zero_ne_ofNat, Nat.zero_ne_one, ↓reduceIte, ne_eq, hfec, not_false_eq_true]

end Codewords

theorem forEach_codeword (p c : Nat) (s : State) : forEach [c] (fecCodeword p) s = fecCodeword p c s := rfl

/-- Settles O10: what a condition, a codeword, a latched trigger, the hold and the request do, each by its law. -/
theorem fastReroute : Obligations.FastReroute := by
  refine ⟨?_, ?_, ?_, ?_, ?_, ?_, ?_, ?_, ?_, ?_, ?_, ?_, ?_⟩
  · intro t p k c s hp hk hk2 hnew hdeb
    have hrun := conditionChange_begins (s := advance t s) hk (by rwa [port_advance])
    rw [if_neg (by rwa [frrDebounce_advance]), port_advance] at hrun
    exact ⟨_, (frrConditionChange_line hp hk2).trans (congrArg _ hrun), rfl⟩
  · intro t p k c s hp hk hk2 hnew hdeb
    have hrun := conditionChange_begins (s := advance t s) hk (by rwa [port_advance])
    rw [if_pos (by rwa [frrDebounce_advance]), port_advance] at hrun
    exact ⟨_, (frrConditionChange_line hp hk2).trans (congrArg _ hrun), rfl⟩
  · intro t p k c s hp hk hk2 hold hearly
    have hshort : heldLong (advance t s) p k = false := by
      simp only [heldLong, port_advance, frrDebounce_advance, decide_eq_false (Nat.not_le.2 hearly), Bool.and_false]
    have hrun := conditionChange_clears hk (by rwa [port_advance]) hshort
    rw [port_advance, triggerRuns_advance] at hrun
    by_cases hsuppressed : (s.port p).latch.testBit k = false ∧ triggerRuns s p k = true
    · rw [if_pos (by simpa using hsuppressed)] at hrun
      refine ⟨_, (frrConditionChange_line hp hk2).trans (congrArg _ hrun), ?_, ?_, ?_⟩
      · simp only [countPort, countQ_ports, ports_setPort, advance_ports, conditionCleared]
      · rw [if_pos hsuppressed, countPort, counter_countQ]
        exact congrArg (satAdd64 · 1) (counter_congr (congrArg Dict.counters (advance_dict s t)) _ _)
      · simp only [countPort, countQ_ports]
        exact countQ_only ..
    · rw [if_neg (by simpa using hsuppressed)] at hrun
      refine ⟨_, (frrConditionChange_line hp hk2).trans (congrArg _ hrun), ?_, ?_, CountsOnly.refl _⟩
      · simp only [ports_setPort, advance_ports, conditionCleared]
      · rw [if_neg hsuppressed]
        exact counter_congr (congrArg Dict.counters (advance_dict ..)) _ _
  · intro t p b s hp hfec
    refine ⟨⟨_, frrConditionChange_codewords hp (by simp [hfec]), ?_⟩,
      ⟨_, frrConditionChange_codewords hp (by simp [hfec]), ?_⟩,
      ⟨_, frrConditionChange_codewords hp (by simp [hfec]), ?_⟩⟩
    · rw [forEach_codeword, fecCodeword_corrected (by simp [hfec])]
      exact ⟨(counter_countQ ..).trans (congrArg (satAdd64 · 1) (counter_congr (congrArg Dict.counters (advance_dict s t)) _ _)),
        countQ_only ..⟩
    · rw [forEach_codeword, fecCodeword_uncorrectable (by simp [hfec])]
      exact ⟨(counter_countQ ..).trans (congrArg (satAdd64 · 1) (counter_congr (congrArg Dict.counters (advance_dict s t)) _ _)),
        countQ_only ..⟩
    · rw [forEach_codeword, fecCodeword_clean (by simp [hfec])]
  · intro t p b c s hp hfec
    refine ⟨_, rfl, ?_⟩
    simp only [port_advance, hfec, Nat.not_le.2 hp, ↓reduceIte]
  · intro t p k s hp hruns hheld hnew hback
    have hrun := debounceExpiry_latches (s := advance t s) (by rwa [triggerRuns_advance]) hheld (by rwa [port_advance])
    rw [primaryActs_none _ ((backupPort_latched ..).trans hback), latched, port_advance] at hrun
    exact ⟨_, (frrDebounceExpiry_one hp).trans (congrArg _ hrun), rfl⟩
  · intro t p k s hshort
    refine ⟨_, rfl, ?_⟩
    by_cases hp : p < 512
    · simp [hp, debounceExpiry_short hshort]
    · simp [hp, debounceExpiry, forEach]
  · intro t p k s hcanon hp hruns hheld hnew hback hother hidle hup hflush
    have hrun := debounceExpiry_latches (s := advance t s) (by rwa [triggerRuns_advance]) hheld (by rwa [port_advance])
    have hport := port_latched p k (canonical_advance t hcanon).ports
    rw [port_advance] at hport
    rw [primaryActs_idle (by rwa [backupPort_latched]) (by rwa [hport]), backupPort_latched,
      portUp_latched _ hother, hup, if_pos (by simp [hother])] at hrun
    have hflush' : cfgN (latched p k (advance t s)) (0x2000 + p) 0xD = 0 := by rwa [cfgN_latched]
    refine ⟨_, (frrDebounceExpiry_one hp).trans (congrArg _ hrun), ?_, fun q hq => ?_, switchover_sets hflush' hp,
      switchover_marks hflush', ?_, ?_, ?_⟩
    · rw [port_switchover_same hflush' (Tab.wf_set _ _ (canonical_advance t hcanon).ports), hport]
      rfl
    · rw [port_switchover_other hflush' hq, port_latched_other _ _ hq, port_advance]
    · exact (switchover_cls hflush').trans (advance_cls s t)
    · exact (switchover_tables hflush').trans (advance_tables s t)
    · exact (switchover_flow hflush').trans (advance_flow s t)
  · intro t p k s hcanon hp hruns hheld hnew hback hother hidle hdown
    have hrun := debounceExpiry_latches (s := advance t s) (by rwa [triggerRuns_advance]) hheld (by rwa [port_advance])
    have hport := port_latched p k (canonical_advance t hcanon).ports
    rw [port_advance] at hport
    rw [primaryActs_idle (by rwa [backupPort_latched]) (by rwa [hport]), backupPort_latched,
      portUp_latched _ hother, hdown, if_neg (by simp), backupUnavailable, hport] at hrun
    refine ⟨_, (frrDebounceExpiry_one hp).trans (congrArg _ hrun), ?_, fun q hq => ?_, ?_, ?_, ?_⟩
    · simp only [State.port, raisePort_ports]
      exact port_setPort_same (Tab.wf_set _ _ (canonical_advance t hcanon).ports) p _
    · simp only [State.port, raisePort_ports]
      exact (port_setPort_other _ p q _ hq.symm).trans ((port_latched_other _ _ hq).trans (port_advance s t q))
    · exact raisePort_sets hp (by decide) _
    · exact raisePort_marks p 2 _
    · rw [raisePort_ports]
      exact signalsOnly_of (signals_raisePort ..)
  · intro t p s hp hredirect hstate hup hhold hdue
    refine ⟨_, rfl, ?_⟩
    simp only [port_advance, portUp_advance, cfgN_advance, hp, hredirect, hstate, hup, hhold, hdue, decide_true,
      Bool.and_self, ne_eq, not_false_eq_true, ↓reduceIte, revert]
  · intro t p s hnot
    refine ⟨_, rfl, if_neg ?_⟩
    simp only [port_advance, portUp_advance, cfgN_advance, Bool.and_eq_true, decide_eq_true_eq, not_and, not_le]
    exact fun ⟨_, hhold⟩ => hnot.resolve_left hhold
  · intro p hp
    refine serves_change (fun _ _ => rfl) (decide_eq_true (by omega)) ?_
    rintro q x hidx - ⟨hredirect, hup⟩
    have hport : q.msg.index - 0x2000 = p := by omega
    refine ⟨by simp [hport, hredirect, hup], revert p x, by rw [hport]; rfl, fun u hu => ?_⟩
    have hports : u.ports = (revert p x).ports := hu.signals.ports
    rw [hports]
    exact ⟨rfl, hu⟩
  · intro p hp
    refine refuses_ok (fun _ _ => rfl) (decide_eq_true (by omega)) ?_
    intro q x hidx _ hbad
    have hport : q.msg.index - 0x2000 = p := by omega
    have hnot : ((x.port p).redirect && portUp x p) = false := Bool.and_eq_false_iff.2 hbad
    rw [hport, hnot]
    rfl

end Sys2Proof.Machine
end

section
/-! The time base (spec 03 R106 to R108, R113, R114). -/

namespace Sys2Proof.Machine
open Sys2Proof

/-! ### What a step of the time base leaves -/

theorem gatesAfterStep_nil {s : State} (h : s.sched.ports = []) : gatesAfterStep s = s := by
  simp only [gatesAfterStep, h, List.map_nil]
  rfl

theorem gatesAfterStep_time (s : State) : (gatesAfterStep s).time = s.time := (steady_gatesAfterStep s).time

/-- The answer after the time base became `b` and the gate lists were looked at. -/
theorem answers_time {s u : State} {b : TimeBase} (h : AnswersOnly (gatesAfterStep { s with time := b }) u) :
    u.time = b ∧ (s.sched.ports = [] → AnswersOnly { s with time := u.time } u) := by
  have htime : u.time = b := h.signals.time.trans (gatesAfterStep_time _)
  refine ⟨htime, fun hnone => ?_⟩
  rw [gatesAfterStep_nil (s := { s with time := b }) hnone] at h
  rwa [htime]

theorem timeHeld_eq_nil {s : State} (h : timeSource s ≠ 1 ∨ s.time.state ≠ 2) : timeHeld s = [] := by
  rcases h with h | h
  · simp [timeHeld, h]
  · simp [timeHeld, tsLOCKED, h]

@[simp] theorem timeSource_advance (t : Nat) (s : State) : timeSource (advance t s) = timeSource s := cfgN_advance ..

theorem sourceGone_advance (t : Nat) (s : State) : sourceGone (advance t s) = true ↔
    (timeSource s = 1 ∧ s.time.lastMsg + announceLimit s.time.annLog ≤ max s.clock t)
      ∨ (timeSource s = 2 ∧ s.time.lastEdge + 1500000000000000 ≤ max s.clock t) := by
  unfold sourceGone
  rw [timeSource_advance]
  split
  · next h => simp [h]
  · next h => simp [h]
  · next h1 h2 => exact ⟨fun h => absurd h (by decide), fun h => h.elim (fun h => (h1 h.1).elim) fun h => (h2 h.1).elim⟩

theorem cfgI_advance (t : Nat) (s : State) (idx sub : Nat) : cfgI (advance t s) idx sub = cfgI s idx sub := by
  simp only [cfgI, cfgN_advance]

/-- A PPS_IN edge that drives no servo: the capture, and when it came. -/
theorem ppsIn_captured {s : State} (h : timeSource s ≠ 2) : ppsIn s = { s with
    freeCtr := s.freeCtr + 1
    time := { s.time with
      ppsInLast := ((((timeNow s : Int) + max (-262144) (min 262144 (Config.stampError s.freeCtr))).toNat : Int)
        - cfgI s 0x1203 5 * 65536).toNat
      lastEdge := s.clock } } := if_pos h

/-- Settles O11: the actions by their steps of the time base, the events by the instants their premises name. -/
theorem timeBaseSteps : Obligations.TimeBaseSteps := by
  refine ⟨serves_change (fun _ _ => rfl) rfl ?_, refuses_ok (fun _ _ => rfl) rfl ?_,
    serves_change (fun _ _ => rfl) rfl ?_, refuses_ok (fun _ _ => rfl) rfl ?_, ?_, ?_, ?_, ?_, ?_, ?_, ?_, ?_⟩
  · intro q x _ _ hfree
    exact ⟨timeHeld_eq_nil hfree, _, rfl, fun u hu => answers_time hu⟩
  · intro q x _ _ ⟨hsource, hstate⟩
    simp [timeHeld, hsource, hstate, tsLOCKED, abortIf]
    rfl
  · intro q x _ _ ⟨hfree, hlow, hhigh, hstep⟩
    have hmax : ((time96Max : Nat) : Int) = 2 ^ 48 * unitsPerSec - 1 := by decide
    refine ⟨?_, _, rfl, fun u hu => answers_time hu⟩
    simp [timeHeld_eq_nil hfree, hmax]
    omega
  · intro q x _ _ ⟨hfree, hbad⟩
    have hrange : (decide (adjusted x q.msg.data < 0) || decide ((time96Max : Int) < adjusted x q.msg.data)
        || decide (10 ^ 9 < (signedOf 64 (beNat q.msg.data)).natAbs)) = true := by
      rcases hbad with h | h
      · rw [decide_eq_true h, Bool.true_or, Bool.true_or]
      · rw [decide_eq_true h, Bool.or_true]
    rw [timeHeld_eq_nil hfree, hrange]
    rfl
  · intro t s hstate hlost
    have hlocked : (advance t s).time.state = tsLOCKED := (advance_time_state s t).trans hstate
    refine ⟨_, congrArg Host.Outcome.next (if_pos ⟨(sourceGone_advance t s).2 hlost, hlocked⟩), ?_, ?_, ?_⟩
    · rw [raise_time]
      rfl
    · exact raise_sets (n := 4) (by decide) _
    · rw [raise_time]
      exact signalsOnly_of (signals_raise ..)
  · intro t s hnot
    refine ⟨_, congrArg Host.Outcome.next (if_neg fun ⟨hgone, hlocked⟩ => ?_), rfl⟩
    rw [advance_time_state] at hlocked
    rw [sourceGone_advance] at hgone
    have hlocked : s.time.state = 2 := hlocked
    omega
  · intro t s rising hrising hsource
    refine ⟨_, rfl, max (-262144) (min 262144 (Config.stampError s.freeCtr)), by omega, by omega, ?_⟩
    rw [cfgN_advance, if_pos hrising, ppsIn_captured (by rwa [timeSource_advance]), cfgI_advance, advance_freeCtr]
  · intro t s rising hrising
    exact ⟨_, rfl, if_neg (by rwa [cfgN_advance])⟩
  · intro t s hon hstate hdue
    exact ⟨_, rfl, if_pos ⟨by rwa [cfgN_advance], by rwa [advance_time_state], hdue⟩⟩
  · intro t s hnot
    refine ⟨_, rfl, if_neg ?_⟩
    rw [cfgN_advance, advance_time_state]
    rintro ⟨hon, hset, hdue⟩
    rcases hnot with h | h | h
    · exact h hon
    · exact hset h
    · rw [h] at hdue
      cases hdue
  · intro t s hdue
    exact ⟨_, rfl, if_pos (by rwa [cfgN_advance, advance_time_ppsRise])⟩
  · intro t s hnot
    exact ⟨_, rfl, if_neg (by rwa [cfgN_advance, advance_time_ppsRise, Nat.not_le])⟩

end Sys2Proof.Machine
end

section
/-! Gate lists and the maxima of a queue's latency (spec 08 R270 to R276, R288). -/

namespace Sys2Proof.Machine
open Sys2Proof

/-! ### The time of a change (R275) -/

theorem le_ceilDiv_mul (a : Nat) {b : Nat} (hb : 0 < b) : a ≤ ceilDiv a b * b := by
  have hdiv := Nat.div_add_mod' (a + b - 1) b
  have hmod := Nat.mod_lt (a + b - 1) hb
  unfold ceilDiv
  omega

theorem changeTimeOf_spec (base now : Nat) {cycle : Nat} (hc : 0 < cycle) :
    now + 10000 * 65536 ≤ changeTimeOf base cycle now ∧ base ≤ changeTimeOf base cycle now
      ∧ (changeTimeOf base cycle now - base) % cycle = 0 := by
  unfold changeTimeOf
  dsimp only
  split
  · next h => exact ⟨h, le_rfl, by simp⟩
  · next h =>
    have hle := le_ceilDiv_mul (now + 10000 * 65536 - base) hc
    refine ⟨by omega, Nat.le_add_right .., ?_⟩
    rw [Nat.add_sub_cancel_left, Nat.mul_mod_left]

/-! ### A list that becomes operational while no frame is queued -/

/-- The gates of port `p` follow the list `l` at state `g`, and its queues are empty. -/
structure Ruled (p : Nat) (l : GateList) (g : Nat) (x : PortSched) : Prop where
  oper : x.oper = some l
  pend : x.pend = none
  gates : x.gates = g
  empty : ∀ tc < 8, portQueue x tc = []

theorem Ruled.ne_reset {p g : Nat} {l : GateList} {x : PortSched} (h : Ruled p l g x) : x ≠ PortSched.reset := fun hx => by
  have := h.oper
  rw [hx] at this
  cases this

/-- From `s` to `u` the classifier, the tables, the flow contexts, the buffers and the ports stay. -/
structure OnlySched (s u : State) : Prop where
  cls : u.cls = s.cls
  tables : u.tables = s.tables
  flow : u.flow = s.flow
  buf : u.buf = s.buf
  ports : u.ports = s.ports

theorem OnlySched.refl (s : State) : OnlySched s s := ⟨rfl, rfl, rfl, rfl, rfl⟩

theorem OnlySched.trans {s t u : State} (a : OnlySched s t) (b : OnlySched t u) : OnlySched s u :=
  ⟨b.cls.trans a.cls, b.tables.trans a.tables, b.flow.trans a.flow, b.buf.trans a.buf,
    b.ports.trans a.ports⟩

theorem psched_congr {s u : State} (h : u.sched = s.sched) (p : Nat) : u.psched p = s.psched p :=
  congrArg (fun x : Sched => Tab.get PortSched.reset x.ports p) h

theorem psched_setPsched_of_ne {s : State} {p : Nat} {x : PortSched} (h : x ≠ PortSched.reset) :
    (s.setPsched p x).psched p = x := Tab.get_set_of_ne _ _ h

theorem settleHead_empty {p tc : Nat} {s : State} (h : portQueue (s.psched p) tc = []) :
    settleHead p tc s = queueCount p tc 2 0 (s.setPsched p (s.psched p)) := by
  simp only [settleHead, h, List.takeWhile_nil, ↓reduceIte, stampQueue, List.length_nil]
  rfl

section Settle
variable {p g : Nat} {l : GateList} {s : State} (h : Ruled p l g (s.psched p))
include h

theorem settleHead_ruled {tc : Nat} (htc : tc < 8) :
    Ruled p l g ((settleHead p tc s).psched p) ∧ OnlySched s (settleHead p tc s)
      ∧ (settleHead p tc s).dict = s.dict := by
  have hkept : ∀ c, Ruled p l g { s.psched p with counters := c } := fun c => ⟨h.oper, h.pend, h.gates, h.empty⟩
  rw [settleHead_empty (h.empty tc htc)]
  unfold queueCount
  rw [psched_setPsched_of_ne h.ne_reset]
  refine ⟨?_, ?_, countEv_dict ..⟩
  · rw [psched_congr (countEv_sched ..), psched_setPsched_of_ne (hkept _).ne_reset]
    exact hkept _
  · exact ⟨countEv_cls .., countEv_tables .., countEv_flow .., countEv_buf .., countEv_ports ..⟩

theorem settleHeads_ruled : Ruled p l g ((settleHeads p s).psched p) ∧ OnlySched s (settleHeads p s)
    ∧ (settleHeads p s).dict = s.dict := by
  have hall : ∀ (tcs : List Nat) (z : State), (∀ tc ∈ tcs, tc < 8) → Ruled p l g (z.psched p) →
      Ruled p l g ((forEach tcs (settleHead p) z).psched p) ∧ OnlySched z (forEach tcs (settleHead p) z)
        ∧ (forEach tcs (settleHead p) z).dict = z.dict := by
    intro tcs
    induction tcs with
    | nil => exact fun z _ hz => ⟨hz, .refl z, rfl⟩
    | cons tc tcs ih =>
      intro z hlt hz
      obtain ⟨hruled, honly, hdict⟩ := settleHead_ruled hz (hlt tc List.mem_cons_self)
      obtain ⟨hruled', honly', hdict'⟩ := ih _ (fun c hc => hlt c (List.mem_cons_of_mem _ hc)) hruled
      exact ⟨hruled', honly.trans honly', hdict'.trans hdict⟩
  exact hall (List.range 8) s (fun tc htc => List.mem_range.1 htc) h

end Settle

/-- The state in which the pending list of port `p` became operational, before the heads of its queues are settled. -/
def gatesSwapped (p : Nat) (ext : Bool) (w : GatePend) (s : State) : State :=
  let u := bumpObj (0x2400 + p) 0x18 1 (s.setPsched p { s.psched p with
    oper := some w.list, pend := none
    gates := gatesAt { s.psched p with oper := some w.list, pend := none } (timeNow s) })
  if ext then bumpObj (0x2400 + p) 0x19 1 u else u

theorem applyGates_eq {p : Nat} {s : State} {w : GatePend} (ext : Bool) (hpend : (s.psched p).pend = some w) :
    applyGates p ext s = raiseDie (dieOf p) 12 (settleHeads p (gatesSwapped p ext w s)) := by
  simp only [applyGates, hpend, gatesSwapped]

theorem counter_bumpObj_same (idx sub : Nat) (s : State) :
    counter (bumpObj idx sub 1 s) idx sub = satAdd64 (counter s idx sub) 1 :=
  Tab.get_set_of_ne _ _ (satAdd64_one_ne_zero _)

theorem counter_bumpObj_other {idx sub idx' sub' n : Nat} (s : State) (h : objKey idx sub ≠ objKey idx' sub') :
    counter (bumpObj idx sub n s) idx' sub' = counter s idx' sub' := Tab.get_set_other _ _ h

/-- A list that becomes operational while the port's queues are empty. -/
theorem applyGates_empty {p : Nat} {s : State} {w : GatePend} (ext : Bool) (hp : p < 512)
    (hpend : (s.psched p).pend = some w) (hempty : ∀ tc < 8, portQueue (s.psched p) tc = []) :
    Ruled p w.list (gatesAt { s.psched p with oper := some w.list, pend := none } (timeNow s))
        ((applyGates p ext s).psched p)
      ∧ OnlySched s (applyGates p ext s)
      ∧ counter (applyGates p ext s) (0x2400 + p) 0x18 = satAdd64 (counter s (0x2400 + p) 0x18) 1
      ∧ (evtStat (applyGates p ext s) (3 + dieOf p)).testBit 12 = true := by
  have hrecord : Ruled p w.list (gatesAt { s.psched p with oper := some w.list, pend := none } (timeNow s))
      { s.psched p with
        oper := some w.list, pend := none
        gates := gatesAt { s.psched p with oper := some w.list, pend := none } (timeNow s) } := ⟨rfl, rfl, rfl, hempty⟩
  have hback := psched_setPsched_of_ne (s := s) (p := p) hrecord.ne_reset
  have hswapped : Ruled p w.list (gatesAt { s.psched p with oper := some w.list, pend := none } (timeNow s))
      ((gatesSwapped p ext w s).psched p) := by
    rw [← hback] at hrecord
    cases ext <;> exact hrecord
  have hcount : counter (gatesSwapped p ext w s) (0x2400 + p) 0x18 = satAdd64 (counter s (0x2400 + p) 0x18) 1 := by
    cases ext
    · exact counter_bumpObj_same ..
    · exact (counter_bumpObj_other _ (by simp [objKey])).trans (counter_bumpObj_same ..)
  have hkept : OnlySched s (gatesSwapped p ext w s) := by cases ext <;> exact ⟨rfl, rfl, rfl, rfl, rfl⟩
  obtain ⟨hruled, honly, hdict⟩ := settleHeads_ruled hswapped
  rw [applyGates_eq ext hpend]
  refine ⟨?_, hkept.trans (honly.trans ?_), ?_, raiseDie_sets (dieOf_lt hp) (by decide) _⟩
  · rwa [psched_congr (raiseDie_sched ..)]
  · exact ⟨raiseDie_cls .., raiseDie_tables .., raiseDie_flow .., raiseDie_buf .., raiseDie_ports ..⟩
  · rw [counter_congr (congrArg Dict.counters (raiseDie_dict ..)), counter_congr (congrArg Dict.counters hdict), hcount]

/-- Settles O12: a change is accepted with its time, and its list takes effect at it. -/
theorem gateLists : Obligations.GateLists := by
  refine ⟨?_, ?_, fun base cycle now hc => changeTimeOf_spec base now hc, ?_, ?_, ?_⟩
  · intro p hp
    refine serves_logged_change (fun _ _ => rfl) (decide_eq_true (by omega)) ?_
    rintro q x hidx - ⟨henabled, hpend, hentries⟩
    have hport : q.msg.index - 0x2400 = p := by omega
    refine ⟨by simp [hport, gateChangeAborts, henabled, hpend, hentries], _, _,
      logs_dikeLog q.origin (dieOf p) 5 p (gateChange p x), by rw [hport]; rfl, fun u hu => ?_⟩
    obtain ⟨hsched, hrest⟩ := AnswersAndLogs.of_sched (s := x) hu
    exact ⟨_, hsched, rfl, rfl, rfl, rfl, hrest⟩
  · intro p hp
    refine refuses_ok (fun _ _ => rfl) (decide_eq_true (by omega)) ?_
    intro q x hidx _ hbad
    have hport : q.msg.index - 0x2400 = p := by omega
    rw [hport, gateChangeAborts, hbad]
    exact firstAbort_state (by simp [abortIf])
  · intro t p s w hcanon hp hpend hdue hempty
    have hrun : exec (.gateConfigApply t p) s = .next (applyGates p (pendExtends (s.psched p)) (advance t s)) := by
      show execGateConfigApply t p s = _
      simp only [execGateConfigApply, psched_advance, hpend, hp, hdue, and_self, ↓reduceIte]
    obtain ⟨hruled, honly, hcount, hevent⟩ := applyGates_empty (s := advance t s) (pendExtends (s.psched p)) hp
      (by rwa [psched_advance]) (by rwa [psched_advance])
    rw [psched_advance] at hruled
    refine ⟨_, hrun, hruled.oper, hruled.pend, hruled.gates, ?_, hevent, ?_, ?_, ?_, ?_, ?_⟩
    · rw [hcount, counter_congr (congrArg Dict.counters (advance_dict s t))]
    · rw [honly.cls, advance_cls]
    · rw [honly.tables, advance_tables]
    · rw [honly.flow, advance_flow]
    · rw [honly.buf, advance_buf]
    · rw [honly.ports, advance_ports]
  · intro t p s hp
    refine ⟨_, rfl, ?_⟩
    simp only [hp, ↓reduceIte, psched_advance]
  · intro p hp
    refine serves_change (fun _ _ => rfl) (decide_eq_true (by omega)) ?_
    rintro q x hidx - hn
    have hport : q.msg.index - 0x2200 = p := by omega
    refine ⟨by simp [Nat.not_lt.2 hn], _, by rw [hport], fun u hu => ?_⟩
    have hsched := hu.signals.sched
    dsimp only at hsched
    rw [hsched]
    exact ⟨rfl, hu⟩

end Sys2Proof.Machine
end

section
/-! The board's power balls, the thermal samples and the SMBus target (spec 18). -/

namespace Sys2Proof.Machine
open Sys2Proof

/-! ### The emergency drain begins (14 R492) -/

/-- A self-test that runs on cartridge `i` is stopped. -/
def stopTest (i : Nat) (s : State) : State :=
  if (s.cart i).testState = 1 then s.setCart i { s.cart i with testState := 2 } else s

theorem stopTest_eq (i : Nat) (s : State) :
    stopTest i s = { s with jrn := { s.jrn with slots := (stopTest i s).jrn.slots } } := by
  unfold stopTest
  split
  · rfl
  · rfl

theorem testState_stopTest_same (i : Nat) (s : State) :
    ((stopTest i s).cart i).testState = if (s.cart i).testState = 1 then 2 else (s.cart i).testState := by
  unfold stopTest
  split
  · next h =>
    have hne : { s.cart i with testState := 2 } ≠ CartSlot.reset := by simp [CartSlot.reset]
    exact congrArg CartSlot.testState (Tab.get_set_of_ne s.jrn.slots i hne)
  · rfl

theorem cart_stopTest_other {i j : Nat} (s : State) (h : j ≠ i) : (stopTest i s).cart j = s.cart j := by
  unfold stopTest
  split
  · exact cart_setCart_other s _ h
  · rfl

theorem cart_congr {s u : State} (h : u.jrn = s.jrn) (i : Nat) : u.cart i = s.cart i :=
  congrArg (fun x : Journal => Tab.get CartSlot.reset x.slots i) h

section Drain
variable {s : State} (hrun : s.jrn.state ≠ 3) (hset : s.jrn.state ≠ 0)
include hrun hset

theorem drainBegin_eq : drainBegin s = modJrn (fun j => { j with state := 3 }) (stopTest 1 (stopTest 0 s)) := by
  have hcond : ¬(s.jrn.state = 3 ∨ (s.jrn.state = 0 ∧ s.boot.ddrTrained = [false, false])) := by simp [hrun, hset]
  exact if_neg hcond

theorem drainBegin_only :
    drainBegin s = { s with jrn := { s.jrn with state := 3, slots := (drainBegin s).jrn.slots } } := by
  rw [drainBegin_eq hrun hset, stopTest_eq, stopTest_eq]
  rfl

theorem testState_drainBegin {i : Nat} (hi : i < 2) :
    ((drainBegin s).cart i).testState = if (s.cart i).testState = 1 then 2 else (s.cart i).testState := by
  rw [drainBegin_eq hrun hset]
  show ((stopTest 1 (stopTest 0 s)).cart i).testState = _
  obtain rfl | rfl : i = 0 ∨ i = 1 := by omega
  · rw [cart_stopTest_other _ (by decide), testState_stopTest_same]
  · rw [testState_stopTest_same, cart_stopTest_other _ (by decide)]

theorem drainBegin_dict : (drainBegin s).dict = s.dict := by rw [drainBegin_only hrun hset]
theorem drainBegin_board : (drainBegin s).board = s.board := by rw [drainBegin_only hrun hset]

theorem drainBegin_jrn : (drainBegin s).jrn = { s.jrn with state := 3, slots := (drainBegin s).jrn.slots } :=
  (congrArg State.jrn (drainBegin_only hrun hset) :)

/-- The drain after a count. -/
theorem CountsOnly.drainBegin {x : State} (h : CountsOnly x s) : CountsOnly
    { x with jrn := { x.jrn with state := 3, slots := (Machine.drainBegin s).jrn.slots } } (Machine.drainBegin s) := by
  have hmap := h.map (f := fun y => { y with jrn := (Machine.drainBegin s).jrn }) (fun _ _ _ _ => rfl) (fun _ _ => rfl) rfl
  have hjrn := drainBegin_jrn hrun hset
  have hself : { s with jrn := (Machine.drainBegin s).jrn } = Machine.drainBegin s := by
    rw [hjrn]
    exact (drainBegin_only hrun hset).symm
  rw [hself, hjrn, h.jrn] at hmap
  exact hmap

end Drain

/-! ### AC_FAIL_N and THERMTRIP_N -/

@[simp] theorem auxUp_advance (t : Nat) (s : State) : auxUp (advance t s) = auxUp s := by
  simp only [auxUp, advance_board]

theorem acFailFall_low {s : State} (haux : auxUp s = true) (hhigh : s.board.acFail ≠ 1) :
    acFailFall s = if s.board.released then drainBegin (count 0x1303 2 (modBoard (fun b => { b with acFail := 1 }) s))
      else modBoard (fun b => { b with acFail := 1 }) s := by
  simp only [acFailFall, haux, hhigh, Bool.not_true, Bool.false_eq_true, or_self, ↓reduceIte]

theorem thermtrip_low {s : State} (haux : auxUp s = true) (hhigh : s.board.thermtrip = false) :
    thermtrip s = if s.board.released then drainBegin (modBoard (fun b => { b with thermtrip := true }) s)
      else modBoard (fun b => { b with thermtrip := true }) s := by
  simp only [thermtrip, haux, hhigh, Bool.not_true, Bool.false_eq_true, or_self, ↓reduceIte]

/-- Settles O13: each fall by whether the part runs, the rise by its 10 ms. -/
theorem powerBalls : Obligations.PowerBalls := by
  refine ⟨?_, ?_, ?_, ?_, ?_, ?_, ?_, ?_⟩
  · intro t s haux hhigh hreleased
    have hrun := acFailFall_low (s := advance t s) (by rwa [auxUp_advance]) (by rwa [advance_board])
    rw [advance_board, hreleased, if_neg Bool.false_ne_true] at hrun
    exact ⟨_, congrArg Host.Outcome.next hrun, rfl⟩
  · intro t s haux hhigh hreleased hdrain hset
    have hrun := acFailFall_low (s := advance t s) (by rwa [auxUp_advance]) (by rwa [advance_board])
    rw [advance_board, hreleased, if_pos rfl] at hrun
    have hcount := count_only 0x1303 2 (modBoard (fun b => { b with acFail := 1 }) (advance t s))
    have hjrn := hcount.jrn.trans (advance_jrn s t)
    have h1 := hjrn.symm ▸ hdrain
    have h0 := hjrn.symm ▸ hset
    refine ⟨_, congrArg Host.Outcome.next hrun, ?_, ?_, fun i hi => ?_, ?_, ?_⟩
    · rw [drainBegin_board h1 h0]
      exact hcount.board.trans (congrArg (fun b : Board => { b with acFail := 1 }) (advance_board s t))
    · rw [drainBegin_jrn h1 h0]
    · rw [testState_drainBegin h1 h0 hi, cart_congr hcount.jrn]
      exact congrArg (fun c : CartSlot => if c.testState = 1 then 2 else c.testState) (cart_advance s t i)
    · rw [counter_congr (congrArg Dict.counters (drainBegin_dict h1 h0))]
      exact (counter_countQ ..).trans (congrArg (satAdd64 · 1) (counter_congr (congrArg Dict.counters (advance_dict s t)) _ _))
    · have honly := CountsOnly.drainBegin h1 h0 hcount
      rw [drainBegin_board h1 h0, ← advance_jrn s t]
      rw [hcount.board]
      exact honly
  · intro t s hlow
    exact ⟨_, rfl, if_pos (.inr ((congrArg Board.acFail (advance_board s t)).trans hlow))⟩
  · intro t s hlow
    exact ⟨_, rfl, if_pos ((congrArg Board.acFail (advance_board s t)).trans hlow)⟩
  · intro t s hhigh hlong hstate htrip hset hheld
    have hdue : (advance t s).board.acFail = 2 ∧ (advance t s).board.acHighAt + 10 ^ 13 ≤ t := by
      rw [advance_board]
      exact ⟨hhigh, hlong⟩
    have hresume : (modBoard (fun b => { b with acFail := 0 }) (advance t s)).jrn.state = 4
        ∧ (modBoard (fun b => { b with acFail := 0 }) (advance t s)).board.acFail = 0
        ∧ !(modBoard (fun b => { b with acFail := 0 }) (advance t s)).board.thermtrip := by
      simp [modBoard, hstate, htrip]
    refine ⟨_, congrArg Host.Outcome.next ((if_pos hdue).trans (if_pos hresume)), ?_⟩
    simp [modBoard, modJrn, hset, hheld]
  · intro t s hearly
    refine ⟨_, rfl, if_neg ?_⟩
    rw [advance_board]
    omega
  · intro t s haux hhigh hreleased
    have hrun := thermtrip_low (s := advance t s) (by rwa [auxUp_advance]) (by rwa [advance_board])
    rw [advance_board, hreleased, if_neg Bool.false_ne_true] at hrun
    exact ⟨_, congrArg Host.Outcome.next hrun, rfl⟩
  · intro t s haux hhigh hreleased hstate
    have hrun := thermtrip_low (s := advance t s) (by rwa [auxUp_advance]) (by rwa [advance_board])
    rw [advance_board, hreleased, if_pos rfl] at hrun
    have hjrn : (modBoard (fun b => { b with thermtrip := true }) (advance t s)).jrn = s.jrn := advance_jrn s t
    have h1 : (modBoard (fun b => { b with thermtrip := true }) (advance t s)).jrn.state ≠ 3 := by
      rw [hjrn, hstate]
      decide
    have h0 : (modBoard (fun b => { b with thermtrip := true }) (advance t s)).jrn.state ≠ 0 := by
      rw [hjrn, hstate]
      decide
    refine ⟨_, congrArg Host.Outcome.next hrun, ?_, ?_, ?_⟩
    · rw [drainBegin_board h1 h0]
      exact congrArg (fun b : Board => { b with thermtrip := true }) (advance_board s t)
    · rw [drainBegin_jrn h1 h0]
    · rw [drainBegin_board h1 h0, ← hjrn]
      exact drainBegin_only h1 h0

/-! ### Thermal samples (R590, R591) -/

theorem foldl_max_spec (l : List Int) (x : Int) :
    l.foldl max x ∈ x :: l ∧ ∀ y ∈ x :: l, y ≤ l.foldl max x := by
  induction l generalizing x with
  | nil => simp
  | cons a l ih =>
    obtain ⟨hmem, hle⟩ := ih (max x a)
    refine ⟨?_, fun y hy => ?_⟩
    · rw [List.foldl_cons]
      rcases List.mem_cons.1 hmem with h | h
      · rw [h]
        rcases max_choice x a with hx | ha
        · rw [hx]
          exact List.mem_cons_self
        · rw [ha]
          exact List.mem_cons_of_mem _ List.mem_cons_self
      · exact List.mem_cons_of_mem _ (List.mem_cons_of_mem _ h)
    · have hmax := hle (max x a) List.mem_cons_self
      rcases List.mem_cons.1 hy with rfl | hy
      · exact le_trans (le_max_left ..) hmax
      · rcases List.mem_cons.1 hy with rfl | hy
        · exact le_trans (le_max_right ..) hmax
        · exact hle y (List.mem_cons_of_mem _ hy)

theorem highest_spec {l : List Int} (h : l ≠ []) : highest l ∈ l ∧ ∀ y ∈ l, y ≤ highest l := by
  cases l with
  | nil => exact absurd rfl h
  | cons x l => exact foldl_max_spec l x

theorem take_temps {l : List Int} (h : l.length = 32) : (l ++ List.replicate 32 0).take 32 = l := by
  rw [List.take_append_of_le_length (by omega), List.take_of_length_le (by omega)]

/-- A threshold event that a sample raises or not. -/
def raiseIf (b : Bool) (n : Nat) (s : State) : State := if b then raise n s else s

theorem signals_raiseIf (b : Bool) (n : Nat) (s : State) : Signals s (raiseIf b n s) := by
  cases b
  · exact .refl s
  · exact signals_raise n s

theorem statGrows_raiseIf (b : Bool) (n : Nat) (s : State) : StatGrows s (raiseIf b n s) := by
  cases b
  · exact .refl s
  · exact statGrows_raise n s

theorem raiseIf_sets {b : Bool} {n : Nat} (hb : b = true) (hn : sourceInUse n = true) (s : State) :
    (evtStat (raiseIf b n s) (n / 32)).testBit (n % 32) = true := by
  subst hb
  exact raise_sets hn s

/-- The board after a sample. -/
def sampledBoard (temps : List Int) (power : Nat) (s : State) : Board :=
  { s.board with
    temps := temps, jtemp := highest temps, sampled := true, power := power
    jtempMax := some (match s.board.jtempMax with
      | none => highest temps
      | some m => max m (highest temps))
    warnArmed := (crossing s.board.warnArmed (highest temps) (warnAt s)).2
    throttleArmed := (crossing s.board.throttleArmed (highest temps) (throttleAt s)).2
    criticalArmed := (crossing s.board.criticalArmed (highest temps) limitAt).2
    throttled := decide (throttleAt s ≤ highest temps)
      || (s.board.throttled && decide (throttleAt s - 50 < highest temps)) }

/-- The sample written and counted, before its events. -/
def sampledState (temps : List Int) (power : Nat) (s : State) : State :=
  if 1050 < highest temps then count 0x1300 5 { s with board := sampledBoard temps power s }
  else { s with board := sampledBoard temps power s }

theorem thermalSample_eq {temps : List Int} {power : Nat} {s : State} (hreleased : s.board.released = true)
    (hlen : temps.length = 32) : thermalSample temps power s =
      raiseIf (crossing s.board.throttleArmed (highest temps) (throttleAt s)).1 356
        (raiseIf (crossing s.board.criticalArmed (highest temps) limitAt).1 355
          (raiseIf (crossing s.board.warnArmed (highest temps) (warnAt s)).1 354 (sampledState temps power s))) := by
  unfold thermalSample
  rw [hreleased, take_temps hlen]
  rfl

theorem sampledState_only (temps : List Int) (power : Nat) (s : State) :
    CountsOnly { s with board := sampledBoard temps power s } (sampledState temps power s) := by
  unfold sampledState
  split
  · exact count_only ..
  · exact .refl _

theorem counter_sampledState (temps : List Int) (power : Nat) (s : State) :
    counter (sampledState temps power s) 0x1300 5
      = if 1050 < highest temps then satAdd64 (counter s 0x1300 5) 1 else counter s 0x1300 5 := by
  unfold sampledState
  split
  · exact counter_countQ ..
  · rfl

theorem crossing_raises {armed : Bool} {temp limit : Int} (ha : armed = true) (h : limit ≤ temp) :
    (crossing armed temp limit).1 = true := by
  simp [crossing, ha, h]

/-! ### The SMBus target (R596) -/

theorem smbusRead_on {b : Bytes} {s : State} (h : auxUp s = true) :
    smbusRead b s = emit (.smbus (cfgN s 0x1305 0) b) s := if_pos h

theorem smbusRead_off {b : Bytes} {s : State} (h : auxUp s = false) : smbusRead b s = s := if_neg (by simp [h])

theorem wholeDegrees_spec (j : Int) (up : Bool) : 10 * wholeDegrees j up ≤ j + 9 ∧ j ≤ 10 * wholeDegrees j up + 9 := by
  cases up
  · simp only [wholeDegrees, Bool.false_eq_true, ↓reduceIte]
    omega
  · simp only [wholeDegrees, ↓reduceIte]
    omega

@[simp] theorem warnAt_advance (t : Nat) (s : State) : warnAt (advance t s) = warnAt s := by
  simp only [warnAt, cfgN_advance]
@[simp] theorem throttleAt_advance (t : Nat) (s : State) : throttleAt (advance t s) = throttleAt s := by
  simp only [throttleAt, cfgN_advance]

/-- Settles O14: the sample by the maximum's law and the events it raises, the SMBus by what each command sends. -/
theorem thermalAndSmbus : Obligations.ThermalAndSmbus := by
  refine ⟨?_, ?_, ?_, ?_, ?_, ?_, ?_, ?_, ?_⟩
  · intro t power temps s hreleased hlen
    obtain ⟨hmem, hle⟩ := highest_spec (l := temps) (by rintro rfl; cases hlen)
    have hrun := thermalSample_eq (power := power) (s := advance t s) (by rwa [advance_board]) hlen
    have hsigs := ((signals_raiseIf (crossing (advance t s).board.warnArmed (highest temps) (warnAt (advance t s))).1 354
      (sampledState temps power (advance t s))).trans (signals_raiseIf
        (crossing (advance t s).board.criticalArmed (highest temps) limitAt).1 355 _)).trans (signals_raiseIf
        (crossing (advance t s).board.throttleArmed (highest temps) (throttleAt (advance t s))).1 356 _)
    rw [← hrun] at hsigs
    have hcounts := sampledState_only temps power (advance t s)
    have hboard : (thermalSample temps power (advance t s)).board = sampledBoard temps power (advance t s) :=
      hsigs.board.trans hcounts.board
    refine ⟨_, rfl, ?_⟩
    beta_reduce
    rw [hboard]
    refine ⟨hle, hmem, rfl, rfl, rfl, ?_, ?_, ?_, ?_, ?_, ?_, ?_⟩
    · simp only [sampledBoard, advance_board] <;> cases s.board.jtempMax <;> rfl
    · simp only [sampledBoard, advance_board, throttleAt_advance]
    · rw [counter_congr (congrArg Dict.counters hsigs.dict), counter_sampledState,
        counter_congr (congrArg Dict.counters (advance_dict s t))]
      rfl
    · intro harmed hwarn
      rw [hrun]
      refine (statGrows_raiseIf _ 356 _).bits _ _ ((statGrows_raiseIf _ 355 _).bits _ _ (raiseIf_sets (n := 354) ?_ rfl _))
      exact crossing_raises (by rwa [advance_board]) (by rwa [warnAt_advance])
    · intro harmed hcritical
      rw [hrun]
      refine (statGrows_raiseIf _ 356 _).bits _ _ (raiseIf_sets (n := 355) ?_ rfl _)
      exact crossing_raises (by rwa [advance_board]) hcritical
    · intro harmed hthrottle
      rw [hrun]
      refine raiseIf_sets (n := 356) ?_ rfl _
      exact crossing_raises (by rwa [advance_board]) (by rwa [throttleAt_advance])
    · exact hcounts.trans hsigs.countsOnly
  · intro s haux hknown
    obtain ⟨hlow, hhigh⟩ := wholeDegrees_spec s.board.jtemp (drawBool s).1
    exact ⟨_, congrArg Host.Outcome.next ((if_pos hknown).trans (smbusRead_on (s := (drawBool s).2) haux)), _,
      ⟨hlow, hhigh⟩, rfl⟩
  · intro s haux hknown
    exact ⟨_, congrArg Host.Outcome.next ((if_neg (by simp [hknown])).trans (smbusRead_on haux)), rfl⟩
  · exact fun s haux => ⟨_, congrArg Host.Outcome.next (smbusRead_on haux), rfl⟩
  · exact fun s haux => ⟨_, congrArg Host.Outcome.next (smbusRead_on haux), rfl⟩
  · exact fun s haux => ⟨_, congrArg Host.Outcome.next (smbusRead_on haux), rfl⟩
  · exact fun s haux => ⟨_, congrArg Host.Outcome.next (smbusRead_on haux), rfl⟩
  · exact fun s haux => ⟨⟨_, congrArg Host.Outcome.next (smbusRead_off haux), rfl⟩,
      ⟨_, congrArg Host.Outcome.next (smbusRead_off haux), rfl⟩,
      ⟨_, congrArg Host.Outcome.next (smbusRead_off haux), rfl⟩,
      ⟨_, congrArg Host.Outcome.next (smbusRead_off haux), rfl⟩⟩
  · refine serves_change (fun _ _ => rfl) rfl fun q x _ _ _ => ⟨rfl, _, rfl, fun u hu => ?_⟩
    have hboard := hu.signals.board
    dsimp only at hboard
    rw [hboard]
    exact ⟨rfl, hu⟩

end Sys2Proof.Machine
end

section
/-! The event registers, the device counters and the counter pages (spec 16). -/

namespace Sys2Proof.Machine
open Sys2Proof

/-! ### Bits of numbers -/

theorem testBit_bitsMinus (a b i : Nat) : (bitsMinus a b).testBit i = (a.testBit i && !b.testBit i) := by
  rw [bitsMinus, Nat.testBit_xor, Nat.testBit_and]
  cases a.testBit i <;> cases b.testBit i <;> rfl

theorem bitsMinus_le (a b : Nat) : bitsMinus a b ≤ a := by
  refine Nat.le_of_testBit fun i h => ?_
  rw [testBit_bitsMinus] at h
  exact (Bool.and_eq_true_iff.1 h).1

theorem bitsMinus_zero (a : Nat) : bitsMinus a 0 = a := by simp [bitsMinus]

/-- What covers a 32-bit number leaves nothing of it. -/
theorem bitsMinus_ones {a : Nat} (h : a < 2 ^ 32) : bitsMinus a (2 ^ 32 - 1) = 0 := by
  rw [bitsMinus, Nat.and_two_pow_sub_one_of_lt_two_pow h, Nat.xor_self]

theorem testBit_bitClear_same (n i : Nat) : (bitClear n i).testBit i = false := by
  unfold bitClear
  split
  · next h =>
    obtain ⟨m, rfl⟩ : ∃ m, n = 2 ^ i + m := ⟨n - 2 ^ i, (Nat.add_sub_cancel' (Nat.ge_two_pow_of_testBit h)).symm⟩
    rw [Nat.testBit_two_pow_add_eq] at h
    simpa using h
  · next h => simpa using h

theorem bitClear_le (n i : Nat) : bitClear n i ≤ n := by
  unfold bitClear
  split
  · exact Nat.sub_le ..
  · exact le_refl n

/-! ### Status bits -/

theorem intxEval_evt (s : State) : (intxEval s).evt = s.evt := by
  unfold intxEval
  dsimp only
  split
  · rfl
  · split <;> rfl

theorem evtStat_intxEval (s : State) (g : Nat) : evtStat (intxEval s) g = evtStat s g := by
  unfold evtStat
  rw [intxEval_evt]

theorem func_intxEval (s : State) (fn : Nat) : (intxEval s).func fn = s.func fn :=
  congrArg (fun f => Tab.get Func.reset f fn) (signals_intxEval s).ep_funcs

theorem evtMask_advance (t : Nat) (s : State) (g : Nat) : evtMask (advance t s) g = evtMask s g := by
  unfold evtMask
  rw [advance_evt_mask]

theorem signals_setEvtStat (g v : Nat) (s : State) : Signals s (setEvtStat g v s) := ⟨rfl, rfl, rfl, rfl, rfl⟩

theorem evtStat_setEvtStat_same {s : State} (h : Canonical s) (g : Nat) {v : Nat} (hv : v < 2 ^ 32) :
    evtStat (setEvtStat g v s) g = v := by
  obtain ⟨hstat, -⟩ := h.evt
  show (Tab.get 0#32 (Tab.set 0#32 s.evt.stat g (BitVec.ofNat 32 v)) g).toNat = v
  rw [Tab.get_set_same g _ hstat, BitVec.toNat_ofNat, Nat.mod_eq_of_lt hv]

theorem evtStat_setEvtStat_other (s : State) {g h : Nat} (v : Nat) (hne : h ≠ g) :
    evtStat (setEvtStat g v s) h = evtStat s h :=
  congrArg BitVec.toNat (Tab.get_set_other (d := 0#32) s.evt.stat (BitVec.ofNat 32 v) (Ne.symm hne))

/-! ### Messages of vectors -/

/-- The message of an open vector is the first thing its signal sends (spec 09 R312). -/
theorem signal_out {fn vec : Nat} {s : State} (he : (s.func fn).msixEnable = true) (ho : msixOpen s fn vec = true) :
    ∃ l, (signal fn vec s).out = s.out ++ [.msix fn vec] ++ l := by
  have e : signal fn vec s = occur 31 [.count 0x342 1 none none (some fn)] (emit (.msix fn vec) s) := by
    show occur 31 ([] ++ (occurStep (.msg fn vec) s).2) (occurStep (.msg fn vec) s).1 = _
    unfold occurStep
    simp only [he, ho, if_true]
    rfl
  obtain ⟨l, hl⟩ := (Keeps.occur (Keeps.refl (emit (.msix fn vec) s)) 31 [.count 0x342 1 none none (some fn)]).out
  exact ⟨l, by rw [e, hl]; rfl⟩

theorem msixOpen_congr {s u : State} {fn vec : Nat} (hf : u.func fn = s.func fn) (hl : u.ep.link = s.ep.link)
    (hm : MasksKept s u) : msixOpen u fn vec = msixOpen s fn vec := by
  simp only [msixOpen, hf, hl, hm fn vec]

theorem masks_advance (t : Nat) (s : State) : MasksKept s (advance t s) := by
  unfold advance
  split
  · refine MasksKept.trans ?_ (masks_countEv _ _ _ _ _ _)
    refine MasksKept.trans ?_ (masks_countEv _ _ _ _ _ _)
    exact .of_eq rfl
  · exact .refl s

theorem masks_intxEval (s : State) : MasksKept s (intxEval s) := by
  refine MasksKept.of_eq ?_
  unfold intxEval
  dsimp only
  split
  · rfl
  · split <;> rfl

theorem signals_groupSignal (g : Nat) (s : State) : Signals s (groupSignal g s) := by
  unfold groupSignal
  split
  · exact signals_signal ..
  · exact .refl s

theorem statGrows_groupSignal (g : Nat) (s : State) : StatGrows s (groupSignal g s) := by
  unfold groupSignal
  split
  · exact statGrows_signal ..
  · exact .refl s

theorem groupSignal_off {g : Nat} {s : State} (h : (s.func 0).msixEnable = false) : groupSignal g s = s := by
  simp [groupSignal, h]

/-! ### A W1C write of a group's status (R545) -/

/-- The status of a group as a W1C write leaves it, the INTx rule evaluated. -/
def clearedGroup (g v keep : Nat) (s : State) : State :=
  intxEval (setEvtStat g (bitsMinus (evtStat s g) (bitsMinus v keep)) s)

theorem evtClear_eq (g v keep : Nat) (s : State) : evtClear g v keep s =
    if bitsMinus (evtStat s g) (bitsMinus v keep) &&& evtMask s g ≠ 0 then groupSignal g (clearedGroup g v keep s)
    else clearedGroup g v keep s := rfl

section Clear
variable {g v keep : Nat} {s : State}

theorem signals_clearedGroup : Signals s (clearedGroup g v keep s) :=
  (signals_setEvtStat ..).trans (signals_intxEval _)

theorem func_clearedGroup (fn : Nat) : (clearedGroup g v keep s).func fn = s.func fn := func_intxEval _ fn

theorem masks_clearedGroup : MasksKept s (clearedGroup g v keep s) := by
  have h : MasksKept s (setEvtStat g (bitsMinus (evtStat s g) (bitsMinus v keep)) s) := .of_eq rfl
  exact h.trans (masks_intxEval _)

theorem evtStat_clearedGroup_same (h : Canonical s) :
    evtStat (clearedGroup g v keep s) g = bitsMinus (evtStat s g) (bitsMinus v keep) := by
  rw [clearedGroup, evtStat_intxEval,
    evtStat_setEvtStat_same h g (Nat.lt_of_le_of_lt (bitsMinus_le ..) (evtStat_lt s g))]

theorem evtStat_clearedGroup_other {h : Nat} (hne : h ≠ g) : evtStat (clearedGroup g v keep s) h = evtStat s h := by
  rw [clearedGroup, evtStat_intxEval, evtStat_setEvtStat_other s _ hne]

theorem signals_evtClear : Signals s (evtClear g v keep s) := by
  rw [evtClear_eq]
  split
  · exact signals_clearedGroup.trans (signals_groupSignal ..)
  · exact signals_clearedGroup

/-- A clear that leaves nothing unmasked pending, or without MSI-X, signals nothing. -/
theorem evtClear_quiet (h : bitsMinus (evtStat s g) (bitsMinus v keep) &&& evtMask s g = 0
    ∨ (s.func 0).msixEnable = false) : evtClear g v keep s = clearedGroup g v keep s := by
  rw [evtClear_eq]
  split
  · next hleft => exact groupSignal_off (by rw [func_clearedGroup]; exact h.resolve_left hleft)
  · rfl

/-- A clear that leaves something unmasked pending sends the group's message again (R546). -/
theorem evtClear_sends (hleft : bitsMinus (evtStat s g) (bitsMinus v keep) &&& evtMask s g ≠ 0)
    (he : (s.func 0).msixEnable = true) (ho : msixOpen s 0 (Tab.get 0 s.evt.vector g) = true) :
    ∃ l1 l2, (evtClear g v keep s).out = s.out ++ l1 ++ [.msix 0 (Tab.get 0 s.evt.vector g)] ++ l2 := by
  have hvec : (clearedGroup g v keep s).evt.vector = s.evt.vector := signals_clearedGroup.vector
  have hopen : msixOpen (clearedGroup g v keep s) 0 (Tab.get 0 s.evt.vector g) = true := by
    rw [msixOpen_congr (func_clearedGroup 0) signals_clearedGroup.ep_link
      masks_clearedGroup, ho]
  have hen : ((clearedGroup g v keep s).func 0).msixEnable = true := by rw [func_clearedGroup, he]
  obtain ⟨l1, h1⟩ := (Keeps.intxEval (Keeps.refl (setEvtStat g (bitsMinus (evtStat s g) (bitsMinus v keep)) s))).out
  replace h1 : (clearedGroup g v keep s).out = s.out ++ l1 := h1
  obtain ⟨l2, h2⟩ := signal_out hen hopen
  refine ⟨l1, l2, ?_⟩
  rw [evtClear_eq, if_pos hleft, groupSignal, if_pos hen, hvec, h2, h1]

end Clear

/-- W1C writes of every bit of the groups of `l` clear them. -/
theorem evtStat_clearGroups {l : List Nat} {s : State} (hc : Canonical s) (he : (s.func 0).msixEnable = false) {g : Nat}
    (hg : g ∈ l ∨ evtStat s g = 0) : evtStat (forEach l (fun g st => evtClear g (2 ^ 32 - 1) 0 st) s) g = 0 := by
  induction l generalizing s with
  | nil => exact hg.resolve_left (by simp)
  | cons a l ih =>
    have hq : evtClear a (2 ^ 32 - 1) 0 s = clearedGroup a (2 ^ 32 - 1) 0 s := evtClear_quiet (.inr he)
    refine ih (s := evtClear a (2 ^ 32 - 1) 0 s) ((Keeps.evtClear (Keeps.refl s) a (2 ^ 32 - 1) 0).form hc) ?_ ?_
    · rw [hq, func_clearedGroup, he]
    · by_cases hga : g = a
      · subst hga
        right
        rw [hq, evtStat_clearedGroup_same hc, bitsMinus_zero, bitsMinus_ones (evtStat_lt s g)]
      · rw [hq, evtStat_clearedGroup_other hga]
        exact hg.imp_left fun h => (List.mem_cons.1 h).resolve_left hga

theorem signals_clearGroups (l : List Nat) (s : State) :
    Signals s (forEach l (fun g st => evtClear g (2 ^ 32 - 1) 0 st) s) := by
  induction l generalizing s with
  | nil => exact .refl s
  | cons a l ih => exact signals_evtClear.trans (ih (evtClear a (2 ^ 32 - 1) 0 s))

/-! ### The event of a response -/

/-- Without MSI-X, source 2 sets its own bit alone. -/
theorem testBit_raise_two {s : State} (he : (s.func 0).msixEnable = false) {g i : Nat} (h : g = 0 → i ≠ 2) :
    (evtStat (raise 2 s) g).testBit i = (evtStat s g).testBit i := by
  have e : raise 2 s = (occurStep (.event 2) s).1 := by
    show occur 31 (occurStep (.event 2) s).2 (occurStep (.event 2) s).1 = _
    have hl : (occurStep (.event 2) s).2 = [] := by
      simp [occurStep, he, show sourceInUse 2 = true from rfl]
    rw [hl]
    rfl
  have e2 : (occurStep (.event 2) s).1.evt.stat
      = (setEvtStat 0 (bitSet (evtStat s 0) 2) s).evt.stat := by
    simp only [occurStep, show sourceInUse 2 = true from rfl, if_true, intxEval_evt]
    rfl
  have e3 : evtStat (raise 2 s) g = evtStat (setEvtStat 0 (bitSet (evtStat s 0) 2) s) g := by
    unfold evtStat at e2 ⊢
    rw [e, e2]
  rw [e3]
  by_cases hg : g = 0
  · subst hg
    have hlt : bitSet (evtStat s 0) 2 < 2 ^ 32 := by
      rw [bitSet]
      exact Nat.or_lt_two_pow (evtStat_lt s 0) (by decide)
    have hne : BitVec.ofNat 32 (bitSet (evtStat s 0) 2) ≠ 0#32 := fun hz => by
      have h1 := congrArg BitVec.toNat hz
      rw [BitVec.toNat_ofNat, Nat.mod_eq_of_lt hlt] at h1
      have h2 := testBit_bitSet (evtStat s 0) 2 2
      rw [h1] at h2
      simp at h2
    have hs : evtStat (setEvtStat 0 (bitSet (evtStat s 0) 2) s) 0 = bitSet (evtStat s 0) 2 := by
      show (Tab.get 0#32 (Tab.set 0#32 s.evt.stat 0 _) 0).toNat = _
      rw [Tab.get_set_of_ne _ _ hne, BitVec.toNat_ofNat, Nat.mod_eq_of_lt hlt]
    rw [hs, testBit_bitSet, decide_eq_false (Ne.symm (h rfl)), Bool.or_false]
  · rw [evtStat_setEvtStat_other s _ hg]

/-- Without MSI-X, a response of the mailbox leaves every status bit but its own. -/
theorem testBit_mbxRespond {flags kind reqId index sub ty pa pb : Nat} {data : Bytes} {s : State}
    (he : (s.func 0).msixEnable = false) {g i : Nat} (h : g = 0 → i ≠ 2) :
    (evtStat (mbxRespond flags kind reqId index sub ty pa pb data s) g).testBit i = (evtStat s g).testBit i :=
  testBit_raise_two (s := modMbx (fun m => { m with
    rsp := wordsOf (buildMsg flags kind (28 + data.length) 0 reqId s.dict.epoch 0 index sub ty pa pb data)
    rspLength := (buildMsg flags kind (28 + data.length) 0 reqId s.dict.epoch 0 index sub ty pa pb data).length
    busy := false, done := true, accepted := none }) s) he h

/-! ### The event registers -/

section Registers
variable {s : State} (hopen : barOpen s 0 = true) {g : Nat} (hg : g < 16)
include hopen hg

theorem evtStatWrite_runs (t : Nat) (v c : Word32) :
    exec (.evtStatWrite t g v c) s = .next (evtClear g v.toNat c.toNat (advance t s)) := by
  show execEvtStatWrite t g v c s = _
  simp [execEvtStatWrite, hopen, hg]

theorem evtMaskWrite_runs (t : Nat) (v : Word32) :
    exec (.evtMaskWrite t g v) s = .next (evtMaskSet g v.toNat (advance t s)) := by
  show execEvtMaskWrite t g v s = _
  simp [execEvtMaskWrite, hopen, hg]

theorem evtVectorWrite_runs (t : Nat) (v : Word32) :
    exec (.evtVectorWrite t g v) s = .next (evtVectorSet g v.toNat (advance t s)) := by
  show execEvtVectorWrite t g v s = _
  simp [execEvtVectorWrite, hopen, hg]

theorem evtTestWrite_runs (t : Nat) (v : Word32) :
    exec (.evtTestWrite t g v) s = .next (evtTest g v.toNat (advance t s)) := by
  show execEvtTestWrite t g v s = _
  simp [execEvtTestWrite, hopen, hg]

end Registers

/-- A group's mask as written, the INTx rule evaluated (R546). -/
def maskedGroup (g v : Nat) (s : State) : State :=
  intxEval (modEvt (fun x => { x with mask := Tab.set 0#32 x.mask g (BitVec.ofNat 32 (v &&& groupBits g)) }) s)

theorem evtMaskSet_eq (g v : Nat) (s : State) : evtMaskSet g v s =
    if bitsMinus (v &&& groupBits g) (evtMask s g) &&& evtStat s g ≠ 0 then groupSignal g (maskedGroup g v s)
    else maskedGroup g v s := rfl

/-- After the mask of a group is written, it may signal; masks and status are as the write leaves them. -/
theorem evtMaskSet_signals (g v : Nat) (s : State) :
    Signals (maskedGroup g v s) (evtMaskSet g v s) ∧ StatGrows (maskedGroup g v s) (evtMaskSet g v s) := by
  rw [evtMaskSet_eq]
  split
  · exact ⟨signals_groupSignal .., statGrows_groupSignal ..⟩
  · exact ⟨.refl _, .refl _⟩

theorem evtMask_maskedGroup_same {s : State} (h : Canonical s) (g : Nat) {v : Nat} (hv : v < 2 ^ 32) :
    evtMask (maskedGroup g v s) g = v &&& groupBits g := by
  obtain ⟨-, hmask, -⟩ := h.evt
  unfold evtMask maskedGroup
  rw [intxEval_evt]
  show (Tab.get 0#32 (Tab.set 0#32 s.evt.mask g _) g).toNat = _
  rw [Tab.get_set_same g _ hmask, BitVec.toNat_ofNat, Nat.mod_eq_of_lt (Nat.lt_of_le_of_lt Nat.and_le_left hv)]

theorem evtMask_maskedGroup_other (s : State) {g h : Nat} (v : Nat) (hne : h ≠ g) :
    evtMask (maskedGroup g v s) h = evtMask s h := by
  unfold evtMask maskedGroup
  rw [intxEval_evt]
  exact congrArg BitVec.toNat (Tab.get_set_other (d := 0#32) s.evt.mask _ (Ne.symm hne))

theorem evtStat_maskedGroup (g v : Nat) (s : State) (h : Nat) : evtStat (maskedGroup g v s) h = evtStat s h := by
  rw [maskedGroup, evtStat_intxEval]
  rfl

/-- A raise of each source of a list sets each bit in use. -/
theorem forEach_raise_sets {g : Nat} {l : List Nat} {i : Nat} (hi : i < 32) (huse : sourceInUse (32 * g + i) = true)
    {s : State} (h : i ∈ l ∨ (evtStat s g).testBit i = true) :
    (evtStat (forEach l (fun i st => raise (32 * g + i) st) s) g).testBit i = true := by
  induction l generalizing s with
  | nil => exact h.resolve_left (by simp)
  | cons a l ih =>
    refine ih (s := raise (32 * g + a) s) ?_
    rcases h with h | h
    · rcases List.mem_cons.1 h with rfl | h
      · have hset := raise_sets huse s
        rw [show (32 * g + i) / 32 = g by omega, show (32 * g + i) % 32 = i by omega] at hset
        exact .inr hset
      · exact .inl h
    · exact .inr ((statGrows_raise _ s).bits g i h)

theorem signals_forEach_raise (f : Nat → Nat) (l : List Nat) (s : State) :
    Signals s (forEach l (fun i st => raise (f i) st) s) := by
  induction l generalizing s with
  | nil => exact .refl s
  | cons a l ih => exact (signals_raise (f a) s).trans (ih (raise (f a) s))

theorem msixSize_advance (t : Nat) (s : State) (fn : Nat) : msixSize (advance t s) fn = msixSize s fn := by
  unfold msixSize polderLive State.polder
  simp only [advance_polders]

end Sys2Proof.Machine

namespace Sys2Proof
open Machine

/-- A W1C write through EventClear leaves its bits clear, however it is answered. -/
theorem eventClear_clears {n : Nat} {s : State} (hc : Canonical s) (he : (s.func 0).msixEnable = false) :
    (evtStat (evtClear (n / 32) (2 ^ (n % 32)) 0 s) (n / 32)).testBit (n % 32) = false := by
  rw [evtClear_quiet (.inr he), evtStat_clearedGroup_same hc, bitsMinus_zero, testBit_bitsMinus, Nat.testBit_two_pow_self]
  simp

/-- Settles O15: each write is a change of one event register, the INTx rule and at most one message; a clear's bits
are those of `bitsMinus`. -/
theorem eventRegisters : Obligations.EventRegisters := by
  unfold Obligations.EventRegisters
  refine ⟨?_, ?_, ?_, ?_, ?_, ?_, ?_⟩
  · intro t g v c s hc ho hg hquiet
    have hq : evtClear g v.toNat c.toNat (advance t s) = clearedGroup g v.toNat c.toNat (advance t s) :=
      evtClear_quiet (by rw [evtMask_advance, func_advance]; exact hquiet)
    refine ⟨_, evtStatWrite_runs ho hg t v c, ?_⟩
    rw [hq]
    exact ⟨evtStat_clearedGroup_same (canonical_advance t hc), fun h hne => evtStat_clearedGroup_other hne,
      signalsOnly_of signals_clearedGroup⟩
  · intro t g v c s hc ho hg hleft he hopen
    refine ⟨_, evtStatWrite_runs ho hg t v c, signalsOnly_of signals_evtClear, ?_⟩
    have hsend := evtClear_sends (g := g) (v := v.toNat) (keep := c.toNat) (s := advance t s)
      (by rw [evtMask_advance]; exact hleft) (by rw [func_advance]; exact he)
      (by rw [advance_evt_vector, msixOpen_congr (func_advance ..) (advance_ep_link ..) (masks_advance t s)]; exact hopen)
    rw [advance_evt_vector] at hsend
    exact hsend
  · intro t g v s hc ho hg
    have ⟨hsig, hgrow⟩ := evtMaskSet_signals g v.toNat (advance t s)
    have hmask : ∀ h, evtMask (evtMaskSet g v.toNat (advance t s)) h = evtMask (maskedGroup g v.toNat (advance t s)) h :=
      fun h => congrArg (fun m => (Tab.get 0#32 m h).toNat) hsig.mask
    refine ⟨_, evtMaskWrite_runs ho hg t v, ?_, ?_, ?_, ?_⟩
    · rw [hmask, evtMask_maskedGroup_same (canonical_advance t hc) g v.isLt]
    · intro h hne
      rw [hmask, evtMask_maskedGroup_other _ _ hne, evtMask_advance]
    · exact fun h i hb => hgrow.bits h i (by rw [evtStat_maskedGroup]; exact hb)
    · have hm : (evtMaskSet g v.toNat (advance t s)).evt.mask = Tab.set 0#32 (advance t s).evt.mask g
          (BitVec.ofNat 32 (v.toNat &&& groupBits g)) := by
        rw [hsig.mask, maskedGroup, intxEval_evt]
        rfl
      rw [hm]
      exact signalsOnly_of ((signals_intxEval _).trans hsig)
  · intro t g v s ho hg
    refine ⟨_, evtVectorWrite_runs ho hg t v, ?_⟩
    simp only [evtVectorSet, msixSize_advance]
  · intro t g v s ho hg
    refine ⟨_, evtTestWrite_runs ho hg t v, fun i hi hb huse => ?_, signalsOnly_of (signals_forEach_raise ..)⟩
    exact forEach_raise_sets hi huse (.inl (List.mem_filter.2 ⟨List.mem_range.2 hi, hb⟩))
  · refine serves_ok (fun _ _ => rfl) rfl ?_
    rintro q x - - ⟨hc, hn, he⟩
    have hown : abortIf (decide (511 < beNat q.msg.data) && decide (beNat q.msg.data ≠ 0xFFFF)) aRANGE = [] := by
      simp only [abortIf_eq_nil, Bool.and_eq_false_iff, decide_eq_false_iff_not]
      omega
    refine ⟨hown, _, rfl, fun kind reqId i k => ?_⟩
    split
    · next hall =>
      have hsig := signals_clearGroups (List.range 16) x
      have he' : ((forEach (List.range 16) (fun g st => evtClear g (2 ^ 32 - 1) 0 st) x).func 0).msixEnable = false := by
        rw [State.func, hsig.ep_funcs]
        exact he
      refine ⟨fun h => absurd h (by omega), fun _ g hg i hi => ?_, ?_⟩
      · rw [testBit_mbxRespond he' hi, evtStat_clearGroups hc he (.inl (List.mem_range.2 hg)), Nat.zero_testBit]
      · exact mbxRespond_only_of _ _ _ _ _ _ _ _ _ _ hsig
    · next hall =>
      have hsig : Signals x (evtClear (beNat q.msg.data / 32) (2 ^ (beNat q.msg.data % 32)) 0 x) := signals_evtClear
      have he' : ((evtClear (beNat q.msg.data / 32) (2 ^ (beNat q.msg.data % 32)) 0 x).func 0).msixEnable = false := by
        rw [State.func, hsig.ep_funcs]
        exact he
      refine ⟨fun h h2 => ?_, fun h => absurd h hall, ?_⟩
      · rw [testBit_mbxRespond he' (by omega), eventClear_clears hc he]
      · exact mbxRespond_only_of _ _ _ _ _ _ _ _ _ _ hsig
  · refine serves_ok (fun _ _ => rfl) rfl fun q x _ _ _ => ⟨rfl, _, rfl, fun kind reqId i k => ⟨?_, ?_⟩⟩
    · exact (statGrows_raise 2 _).map
    · exact mbxRespond_only_of _ _ _ _ _ _ _ _ _ _ (Signals.evt (s := x) _ rfl rfl rfl)

/-! ### The counter registers (R548 to R555) -/

theorem value_foldl_clear {l : List (Nat × DevCtr)} {m : Tab DevCtr} (hwf : Tab.wf DevCtr.reset m = true)
    (hz : ∀ n, (Tab.get DevCtr.reset m n).value = 0) (n : Nat) :
    (Tab.get DevCtr.reset (l.foldl (fun m e => Tab.set DevCtr.reset m e.1 { e.2 with value := 0 }) m) n).value = 0 := by
  induction l generalizing m with
  | nil => exact hz n
  | cons e l ih =>
    refine ih (Tab.wf_set _ _ hwf) fun k => ?_
    by_cases hk : e.1 = k
    · subst hk
      rw [Tab.get_set_same _ _ hwf]
    · rw [Tab.get_set_other _ _ hk]
      exact hz k

/-- Every counter reads 0 after CLEAR_ALL, whatever its selection. -/
theorem devCtr_clearCounters (s : State) (n : Nat) : (devCtr (clearCounters s) n).value = 0 :=
  value_foldl_clear (l := s.evt.ctrs) rfl (fun _ => rfl) n

theorem ctrSel_reserved (v : Word32) : BitVec.ofNat 32 (v.toNat &&& 0x3FFF7FFF) = v &&& 0x3FFF7FFF#32 := by
  apply BitVec.eq_of_toNat_eq
  rw [BitVec.toNat_ofNat, BitVec.toNat_and]
  exact Nat.mod_eq_of_lt (Nat.lt_of_le_of_lt Nat.and_le_left v.isLt)

section Registers
variable {s : State} (hopen : barOpen s 0 = true) {n : Nat}
include hopen

theorem ctrSelWrite_runs (hn : n < 256) (t : Nat) (v : Word32) :
    exec (.ctrSelWrite t n v) s = .next (ctrSelSet n v.toNat (advance t s)) := by
  show execCtrSelWrite t n v s = _
  simp [execCtrSelWrite, hopen, hn]

theorem ctrLoRead_runs (hn : n < 256) (t : Nat) : exec (.ctrLoRead t n) s
    = .next (emit (.regRead ((devCtr (advance t s) n).value % 2 ^ 32)) (ctrLatch n (advance t s))) := by
  show execCtrLoRead t n s = _
  simp [execCtrLoRead, hopen, hn]

theorem ctrValueWrite_runs (hn : n < 256) (t : Nat) (hi : Bool) (v : Word32) :
    exec (.ctrValueWrite t n hi v) s = .next (ctrValueSet n hi v.toNat (advance t s)) := by
  show execCtrValueWrite t n hi v s = _
  simp [execCtrValueWrite, hopen, hn]

theorem ctrOvfClear_runs (hn : n < 8) (t : Nat) (v c : Word32) :
    exec (.ctrOvfClear t n v c) s = .next (ctrOvfClear n v.toNat c.toNat (advance t s)) := by
  show execCtrOvfClear t n v c s = _
  simp [execCtrOvfClear, hopen, hn]

end Registers

/-- Settles O16: a selection with an invalid qualifier loses its enable bit, an enabled counter ignores writes, and
every other write is the change of one record. -/
theorem counterRegisters : Obligations.CounterRegisters := by
  unfold Obligations.CounterRegisters
  refine ⟨?_, ?_, ?_, ?_, ?_, ?_, ?_, ?_, ?_, ?_, ?_, ?_⟩
  · intro t n v s ho hn hq
    refine ⟨_, ctrSelWrite_runs ho hn t v, ?_⟩
    rw [ctrSelSet, if_pos hq, ctrSel_reserved]
  · intro t n v s ho hn hq
    refine ⟨_, ctrSelWrite_runs ho hn t v, BitVec.ofNat 32 (bitClear (v.toNat &&& 0x3FFF7FFF) 12), ?_, ?_⟩
    · rw [BitVec.toNat_ofNat, Nat.mod_eq_of_lt, testBit_bitClear_same]
      exact Nat.lt_of_le_of_lt ((bitClear_le ..).trans Nat.and_le_left) v.isLt
    · rw [ctrSelSet, if_neg (by simp [hq])]
  · exact fun t n s ho hn => ⟨_, ctrLoRead_runs ho hn t, rfl⟩
  · intro t n hi v s ho hn hen
    refine ⟨_, ctrValueWrite_runs ho hn t hi v, ?_⟩
    exact if_pos hen
  · intro t n v s ho hn hen
    refine ⟨⟨_, ctrValueWrite_runs ho hn t false v, ?_⟩, _, ctrValueWrite_runs ho hn t true v, ?_⟩
    · simp [ctrValueSet, hen, Nat.mod_eq_of_lt v.isLt]
    · simp [ctrValueSet, hen]
  · intro t k v c s ho hk
    refine ⟨_, ctrOvfClear_runs ho hk t v c, rfl⟩
  · intro t s ho
    refine ⟨clearCounters (advance t s), ?_, devCtr_clearCounters _, rfl⟩
    show execClearAll t s = _
    simp [execClearAll, ho]
  · intro t v s ho
    refine ⟨_, ?_, rfl⟩
    show execFreezeAll t v s = _
    simp [execFreezeAll, ho]
  · exact serves_read (fun _ _ => rfl) rfl fun q x _ _ hok => ⟨abortIf_eq_nil.2 (decide_eq_false (Nat.not_lt.2 hok)), rfl⟩
  · intro t fn v c s ho hp
    refine ⟨pageOvfClear fn v.toNat c.toNat (advance t s), ?_, rfl⟩
    show execPageOvfClear t fn v c s = _
    simp [execPageOvfClear, ho, hp]
  · refine serves_change (fun _ _ => rfl) rfl ?_
    rintro q x - - ⟨hn, hk, hf, hq, hvec⟩
    refine ⟨?_, _, rfl, fun u hu => hu⟩
    simp only [abortIf_eq_nil, Bool.or_eq_false_iff, decide_eq_false_iff_not, hq, Bool.and_eq_false_iff]
    refine ⟨⟨⟨⟨by omega, by omega⟩, by omega⟩, rfl⟩, ?_⟩
    omega
  · exact serves_read (fun _ _ => rfl) rfl fun q x _ _ hok => ⟨abortIf_eq_nil.2 (decide_eq_false (Nat.not_lt.2 hok)), rfl⟩

end Sys2Proof
end

section
/-! The fault map, the host groups and the records of a polder's resources that are read by request (spec 10). -/

namespace Sys2Proof
open Machine

theorem AnswersOnly.polders {s u : State} (h : AnswersOnly s u) : u.polders = s.polders := (AnswersOnly.signals h).polders

theorem AnswersAndLogs.of_polders {s u : State} {c : Polders} (h : AnswersAndLogs { s with polders := c } u) :
    u.polders = c ∧ AnswersAndLogs { s with polders := u.polders } u := by
  have hc : u.polders = c := AnswersAndLogs.polders h
  exact ⟨hc, by rw [hc]; exact h⟩

/-- A resource of a polder, named by polder and local number, is in range. -/
theorem local_in_range {n c k : Nat} (hn : n ≤ 4095) (hk : k < c) :
    abortIf (4095 < n || decide (c ≤ k)) aRANGE = [] := by
  simp only [abortIf_eq_nil, Bool.or_eq_false_iff, decide_eq_false_iff_not]
  omega

/-- Settles O18: the fault map and the group table are changed at one key; every other action reads. -/
theorem polderRecords : Obligations.PolderRecords := by
  unfold Obligations.PolderRecords
  refine ⟨?_, ?_, ?_, ?_, ?_, ?_, fun g => ?_, fun g => ?_⟩
  · refine serves_change (fun _ _ => rfl) rfl fun q x _ _ hn => ⟨?_, _, rfl, fun u hu => ?_⟩
    · simp only [abortIf_eq_nil, Bool.and_eq_false_iff, decide_eq_false_iff_not]
      omega
    · have hmap : u.polders.faultMap = if beNat q.msg.data = 0xFFFF then [] else
          Tab.set false x.polders.faultMap (beNat q.msg.data) false := congrArg Polders.faultMap (AnswersOnly.polders hu)
      refine ⟨fun hall n => ?_, fun hle => ⟨fun hc => ?_, fun n hne => ?_⟩, ?_⟩
      · rw [hmap, if_pos hall]
        rfl
      · obtain ⟨-, hwf, -⟩ := hc.polders
        rw [hmap, if_neg (by omega), Tab.get_set_same _ _ hwf]
      · rw [hmap, if_neg (by omega), Tab.get_set_other _ _ (Ne.symm hne)]
      · rw [hmap]
        exact hu
  · refine serves_logged_change (fun _ _ => rfl) rfl ?_
    rintro q x - - ⟨hg, hn, hst, hcnt, hroom⟩
    refine ⟨?_, _, _, (logs_dikeLogFields ..).trans (logs_dikeLog ..), rfl, fun u hu => AnswersAndLogs.of_polders hu⟩
    simp only [groupAborts, List.append_eq_nil_iff, abortIf_eq_nil, Bool.and_eq_false_iff, Bool.or_eq_false_iff,
      decide_eq_false_iff_not]
    omega
  · refine refuses_ok (fun _ _ => rfl) rfl ?_
    rintro q x - - ⟨hn, hst⟩
    refine firstAbort_state (List.mem_append_left _ ?_)
    simp [abortIf, hn, hst]
  · exact serves_read (fun _ _ => rfl) rfl fun q x _ _ hn => ⟨abortIf_eq_nil.2 (decide_eq_false (Nat.not_lt.2 hn)), rfl⟩
  · exact serves_read (fun _ _ => rfl) rfl fun q x _ _ hn => ⟨abortIf_eq_nil.2 (decide_eq_false (Nat.not_lt.2 hn)), rfl⟩
  · exact serves_read (fun _ _ => rfl) rfl fun q x _ _ ⟨hn, hk⟩ => ⟨local_in_range hn hk, rfl⟩
  · refine serves_read (fun _ _ => rfl) rfl fun q x _ _ ⟨hn, hk, hg⟩ => ⟨local_in_range hn hk, ?_⟩
    rw [hg]
    rfl
  · refine serves_read (fun _ _ => rfl) rfl fun q x _ _ ⟨hn, hk, hg⟩ => ⟨local_in_range hn hk, ?_⟩
    rw [chanOf, hg]

end Sys2Proof
end

section
/-! Flits, a Culvert that goes down and one that is trained again (spec 01 R26). -/

namespace Sys2Proof.Machine
open Sys2Proof

theorem culvDown_congr {s u : State} (h : u.culv = s.culv) (c : Nat) : culvDown u c = culvDown s c :=
  congrArg (fun x : Culverts => Tab.get false x.down c) h

/-! ### What is lost with a Culvert -/

/-- A frame from the field leaves no entry to end. -/
theorem loseParcel_field {p : Parcel} (h : p.info.src = .field) (s : State) : loseParcel p s = s := by
  unfold loseParcel
  rw [h]
  split
  · rfl
  · rfl

theorem signals_crossDiscard (a b : Nat) (s : State) : Signals s (crossDiscard a b s) :=
  (signals_countEv ..).trans (signals_raiseDie ..)

/-- Frames of the field that are lost change nothing but their counters and events. -/
theorem signals_loseParcels {l : List Parcel} (hl : ∀ p ∈ l, p.info.src = .field) (mesh : Prop) [Decidable mesh] (s : State) :
    Signals s (forEach l (fun p st => loseParcel p (if mesh then crossDiscard p.src p.dst st else st)) s) := by
  induction l generalizing s with
  | nil => exact .refl s
  | cons p l ih =>
    have hp : Signals s (loseParcel p (if mesh then crossDiscard p.src p.dst s else s)) := by
      rw [loseParcel_field (hl p (by simp))]
      split
      · exact signals_crossDiscard ..
      · exact .refl s
    exact hp.trans (ih (fun q hq => hl q (List.mem_cons_of_mem _ hq)) _)

section Lost
variable {s : State} (hsrc : ∀ p ∈ s.buf.transit, p.info.src = .field) {c : Nat}
include hsrc

theorem signals_loseTransit_mesh (hc : c < 6) : Signals (modBuf (fun b => { b with transit := s.buf.transit.filter (fun p =>
    !(decide (p.src ≠ p.dst) && decide (p.src < 4) && decide (meshCulvert p.src p.dst = c))) }) s) (loseTransit c s) := by
  unfold loseTransit
  simp only [hc, if_true]
  have h := signals_loseParcels (l := s.buf.transit.filter (fun p =>
    decide (p.src ≠ p.dst) && decide (p.src < 4) && decide (meshCulvert p.src p.dst = c)))
    (fun p hp => hsrc p (List.mem_filter.1 hp).1) True
  simp only [if_true] at h
  exact h _

theorem signals_loseTransit_half (hc : 6 ≤ c) : Signals (modBuf (fun b => { b with transit := s.buf.transit.filter (fun p =>
    !(decide (p.src = 4) && decide (hdCulvert p.dst = c))) }) s) (loseTransit c s) := by
  unfold loseTransit
  simp only [Nat.not_lt.2 hc, if_false]
  have h := signals_loseParcels (l := s.buf.transit.filter (fun p => decide (p.src = 4) && decide (hdCulvert p.dst = c)))
    (fun p hp => hsrc p (List.mem_filter.1 hp).1) False
  simp only [if_false] at h
  exact h _

theorem loseTransit_culv : (loseTransit c s).culv = s.culv := by
  by_cases hc : c < 6
  · exact (signals_loseTransit_mesh hsrc hc).culv
  · exact (signals_loseTransit_half hsrc (Nat.not_lt.1 hc)).culv

end Lost

/-! ### A Culvert goes down and comes back -/

theorem sourceInUse_down {c : Nat} (h : c < 20) : sourceInUse (32 + c) = true := by
  have : 32 + c ≤ 51 := by omega
  simp [sourceInUse, this]

theorem sourceInUse_trained {c : Nat} (h : c < 20) : sourceInUse (64 + c) = true := by
  have : 64 + c ≤ 83 := by omega
  simp [sourceInUse, this]

/-- The state with a Culvert marked down, before what is on it is lost. -/
def markDown (c : Nat) (s : State) : State :=
  modCulv (fun x => { x with down := Tab.set false x.down c true, fails := Tab.set 0 x.fails c 0 }) s

theorem culvertDown_eq {c : Nat} {s : State} (hup : culvDown s c = false) (hf : 16 ≤ Tab.get 0 s.culv.fails c) :
    culvertDown c s = raise (32 + c) (loseTransit c (markDown c s)) := by
  have hcond : ¬(culvDown s c = true ∨ Tab.get 0 s.culv.fails c < 16) := by simp [hup, Nat.not_lt.2 hf]
  exact if_neg hcond

theorem culvDown_markDown_same (c : Nat) (s : State) : culvDown (markDown c s) c = true :=
  Tab.get_set_of_ne (d := false) (v := true) s.culv.down c (by decide)

theorem culvDown_markDown_other {c d : Nat} (h : d ≠ c) (s : State) : culvDown (markDown c s) d = culvDown s d :=
  Tab.get_set_other (d := false) s.culv.down true (Ne.symm h)

/-- The state with a Culvert trained again, before its replicas are looked at. -/
def trained (c : Nat) (s : State) : State :=
  raise (64 + c) (modCulv (fun x => { x with down := Tab.set false x.down c false }) s)

theorem culvertRetrain_half {c : Nat} {s : State} (hd : culvDown s c = true) (hc : 6 ≤ c) :
    culvertRetrain c true s = trained c s := by
  simp only [culvertRetrain, hd, hc, if_true]
  rfl

theorem culvertRetrain_mesh {c : Nat} {s : State} (hd : culvDown s c = true) (hc : c < 6) :
    culvertRetrain c true s = modTables (fun x => { x with resync := (x.resync ++ ((trained c s).tables.stale.filter (fun p =>
      decide (p = (meshEnds c).1 * 4 + (meshEnds c).2) || decide (p = (meshEnds c).2 * 4 + (meshEnds c).1))).map (· % 4)).dedup })
      (trained c s) := by
  simp only [culvertRetrain, hd, Nat.not_le.2 hc, if_false]
  rfl

theorem culv_culvertRetrain {c : Nat} {s : State} (hd : culvDown s c = true) :
    (culvertRetrain c true s).culv = (trained c s).culv ∧ (culvertRetrain c true s).evt = (trained c s).evt := by
  by_cases hc : 6 ≤ c
  · rw [culvertRetrain_half hd hc]
    exact ⟨rfl, rfl⟩
  · rw [culvertRetrain_mesh hd (Nat.not_le.1 hc)]
    exact ⟨rfl, rfl⟩

end Sys2Proof.Machine

namespace Sys2Proof
open Machine

/-- Settles O38: the failures of a Culvert count to sixteen, its mark and its transit list change at once, and a trained
mesh Culvert asks for the replicas of both its ends. -/
theorem culvertLinks : Obligations.CulvertLinks := by
  unfold Obligations.CulvertLinks
  refine ⟨fun c s hc hup => ⟨⟨_, rfl, fun hf => ?_, ?_⟩, ⟨_, rfl, ?_⟩⟩, fun c ok s hd => ⟨_, rfl, ?_⟩,
    fun t c s hc hup hf hsrc => ?_, fun t c s hc hf => ⟨_, rfl, ?_⟩, fun t c s hc hwf hd => ⟨?_, ⟨_, rfl, ?_⟩⟩⟩
  · rw [if_pos hc, flitReceive, if_neg (by simp [hup]), if_neg (by simp), if_pos hf, countEv_culv]
    exact ⟨Tab.get_set_of_ne (d := 0) s.culv.fails c (Nat.succ_ne_zero _),
      Tab.get_set_of_ne (d := 0) s.culv.replays c (Nat.succ_ne_zero _)⟩
  · rw [if_pos hc, flitReceive, if_neg (by simp [hup]), if_neg (by simp)]
    split
    · rw [culvDown_congr (countEv_culv ..)]
      exact hup
    · exact hup
  · rw [if_pos hc, flitReceive, if_neg (by simp [hup]), if_pos rfl]
    exact ⟨fun hwf => Tab.get_set_same (d := 0) c 0 hwf, rfl, rfl⟩
  · simp [flitReceive, hd]
  · have hsrc' : ∀ p ∈ (markDown c (advance t s)).buf.transit, p.info.src = .field := by
      intro p hp
      exact hsrc p (by rw [← advance_buf s t]; exact hp)
    have hdown : culvertDown c (advance t s) = raise (32 + c) (loseTransit c (markDown c (advance t s))) :=
      culvertDown_eq (by rw [culvDown_advance]; exact hup) (by rw [advance_culv]; exact hf)
    have hculv : (culvertDown c (advance t s)).culv = (markDown c (advance t s)).culv := by
      rw [hdown, raise_culv, loseTransit_culv hsrc']
    have hbuf : (culvertDown c (advance t s)).buf = (loseTransit c (markDown c (advance t s))).buf := by
      rw [hdown, raise_buf]
    have hold : (markDown c (advance t s)).buf = s.buf := advance_buf s t
    refine ⟨_, congrArg Host.Outcome.next (if_pos hc), ?_, ?_, fun d hne => ?_, fun hm => ?_, fun hm => ?_⟩
    · rw [culvDown_congr hculv, culvDown_markDown_same]
    · have hset := raise_sets (sourceInUse_down hc) (loseTransit c (markDown c (advance t s)))
      rw [show (32 + c) / 32 = 1 by omega, show (32 + c) % 32 = c by omega] at hset
      rw [hdown]
      exact hset
    · rw [culvDown_congr hculv, culvDown_markDown_other hne, culvDown_advance]
    · rw [hbuf, (signals_loseTransit_mesh hsrc' hm).buf, ← hold]
      rfl
    · rw [hbuf, (signals_loseTransit_half hsrc' hm).buf, ← hold]
      rfl
  · rw [if_pos hc]
    exact if_pos (Or.inr (by rw [advance_culv]; exact hf))
  · have hd' : culvDown (advance t s) c = true := by rw [culvDown_advance]; exact hd
    obtain ⟨hculv, hevt⟩ := culv_culvertRetrain hd'
    have hmark : (trained c (advance t s)).culv.down = Tab.set false s.culv.down c false := by
      rw [trained, raise_culv]
      show Tab.set false (advance t s).culv.down c false = _
      rw [advance_culv]
    refine ⟨_, congrArg Host.Outcome.next (if_pos hc), ?_, ?_, fun d hne => ?_, fun hm p hp hends => ?_⟩
    · unfold culvDown
      rw [hculv, hmark, Tab.get_set_same _ _ hwf]
    · have hset := raise_sets (sourceInUse_trained hc) (modCulv (fun x => { x with
        down := Tab.set false x.down c false }) (advance t s))
      rw [show (64 + c) / 32 = 2 by omega, show (64 + c) % 32 = c by omega] at hset
      unfold evtStat
      rw [hevt]
      exact hset
    · unfold culvDown
      rw [hculv, hmark, Tab.get_set_other _ _ (Ne.symm hne)]
    · have hstale : (trained c (advance t s)).tables = s.tables := by
        rw [trained, raise_tables]
        exact advance_tables s t
      rw [culvertRetrain_mesh hd' hm, hstale]
      refine List.mem_dedup.2 (List.mem_append_right _ (List.mem_map_of_mem (List.mem_filter.2 ⟨hp, ?_⟩)))
      simpa using hends
  · simp [hc, culvertRetrain]

end Sys2Proof
end

section
/-! Writes to host memory: what goes out and what is left (spec 09 R306), and the moderation of interrupts (11 R378). -/

namespace Sys2Proof.Machine
open Sys2Proof

/-! ### Requests that go out -/

/-- From `s` to `t` requests went out: translations are asked for, messages are sent, signals are raised. -/
structure Transmits (s t : State) : Prop where
  rest : { t with ep := s.ep, evt := s.evt, out := s.out } = s
  ep : { t.ep with asked := s.ep.asked, inta := s.ep.inta, msix := s.ep.msix } = s.ep
  mask : t.evt.mask = s.evt.mask
  vector : t.evt.vector = s.evt.vector
  freeze : t.evt.freezeAll = s.evt.freezeAll

theorem Transmits.refl (s : State) : Transmits s s := ⟨rfl, rfl, rfl, rfl, rfl⟩

theorem Transmits.trans {s t u : State} (a : Transmits s t) (b : Transmits t u) : Transmits s u := by
  obtain ⟨a1, a2, a3, a4, a5⟩ := a
  obtain ⟨b1, b2, b3, b4, b5⟩ := b
  refine ⟨?_, ?_, b3.trans a3, b4.trans a4, b5.trans a5⟩
  · have h := congrArg (fun x : State => { x with ep := s.ep, evt := s.evt, out := s.out }) b1
    exact h.trans a1
  · have h := congrArg (fun x : Endpoint => { x with asked := s.ep.asked, inta := s.ep.inta, msix := s.ep.msix }) b2
    exact h.trans a2

theorem Signals.transmits {s t : State} (h : Signals s t) : Transmits s t := by
  obtain ⟨h1, h2, h3, h4, h5⟩ := h
  exact ⟨h1, congrArg (fun x : Endpoint => { x with asked := s.ep.asked }) h2, h3, h4, h5⟩

section Fields
variable {s t : State} (h : Transmits s t)
include h

theorem Transmits.ep_funcs : t.ep.funcs = s.ep.funcs := (congrArg Endpoint.funcs h.ep :)
theorem Transmits.ep_cached : t.ep.cached = s.ep.cached := (congrArg Endpoint.cached h.ep :)
theorem Transmits.ep_reads : t.ep.reads = s.ep.reads := (congrArg Endpoint.reads h.ep :)
theorem Transmits.ep_link : t.ep.link = s.ep.link := (congrArg Endpoint.link h.ep :)
theorem Transmits.ep_quarantine : t.ep.quarantine = s.ep.quarantine := (congrArg Endpoint.quarantine h.ep :)
theorem Transmits.clock : t.clock = s.clock := (congrArg State.clock h.rest :)
theorem Transmits.boot : t.boot = s.boot := (congrArg State.boot h.rest :)
theorem Transmits.dict : t.dict = s.dict := (congrArg State.dict h.rest :)
theorem Transmits.buf : t.buf = s.buf := (congrArg State.buf h.rest :)
theorem Transmits.sched : t.sched = s.sched := (congrArg State.sched h.rest :)
theorem Transmits.polders : t.polders = s.polders := (congrArg State.polders h.rest :)
theorem Transmits.wq : t.wq = s.wq := (congrArg State.wq h.rest :)
theorem Transmits.cipher : t.cipher = s.cipher := (congrArg State.cipher h.rest :)
theorem Transmits.siphon : t.siphon = s.siphon := (congrArg State.siphon h.rest :)
theorem Transmits.jrn : t.jrn = s.jrn := (congrArg State.jrn h.rest :)
theorem Transmits.queue (fn q : Nat) : t.queue fn q = s.queue fn q :=
  congrArg (fun x : Wq => Tab.get Queue.reset x.queues (qKey fn q)) h.wq
theorem Transmits.func (fn : Nat) : t.func fn = s.func fn :=
  congrArg (fun x => Tab.get Func.reset x fn) h.ep_funcs

end Fields

theorem transmits_emit (o : Out) (s : State) : Transmits s (emit o s) := (signals_emit o s).transmits

theorem transmits_askPage (w : Requester) (addr : Nat) (s : State) : Transmits s (askPage w addr s) := by
  unfold askPage
  dsimp only
  split
  · exact .refl s
  · exact Transmits.trans (t := modEp (fun e => { e with asked := e.asked ++ [(w, addr / 4096)] }) s)
      ⟨rfl, rfl, rfl, rfl, rfl⟩ (transmits_emit _ _)

theorem transmits_forEach {α : Type} (l : List α) {f : α → State → State} (h : ∀ a s, Transmits s (f a s)) (s : State) :
    Transmits s (forEach l f s) := by
  induction l generalizing s with
  | nil => exact .refl s
  | cons a l ih => exact (h a s).trans (ih _)

/-- One request of a DMA write. -/
def writePart (w : Requester) (addr : Nat) (data : Bytes) (p : Nat × Nat) (st : State) : State :=
  emit (.dma w.fn (translate (askPage w p.1 st) w p.1).1 (pasidSent (askPage w p.1 st) w)
    (translate (askPage w p.1 st) w p.1).2 (slice data (p.1 - addr) p.2)) (askPage w p.1 st)

theorem dmaWrite_eq (w : Requester) (addr : Nat) (data : Bytes) (s : State) : dmaWrite w addr data s =
    if !fnRuns s w.fn then s
    else countEv 0x340 data.length none none (some w.fn)
      (forEach (cutAt (writeLimit s w.fn) addr data.length) (writePart w addr data) s) := rfl

theorem transmits_writePart (w : Requester) (addr : Nat) (data : Bytes) (p : Nat × Nat) (s : State) :
    Transmits s (writePart w addr data p s) := (transmits_askPage ..).trans (transmits_emit ..)

theorem transmits_dmaWrite (w : Requester) (addr : Nat) (data : Bytes) (s : State) :
    Transmits s (dmaWrite w addr data s) := by
  rw [dmaWrite_eq]
  split
  · exact .refl s
  · exact (transmits_forEach _ (transmits_writePart w addr data) s).trans (signals_countEv ..).transmits

/-! ### What a request carries -/

section Congr
variable {s u : State} (hf : u.ep.funcs = s.ep.funcs)
include hf

theorem pasidSent_congr (w : Requester) : pasidSent u w = pasidSent s w :=
  congrArg (fun f => if (Tab.get Func.reset f w.fn).pasid then w.pasid else none) hf

theorem translate_congr (hc : u.ep.cached = s.ep.cached) (w : Requester) (addr : Nat) :
    translate u w addr = translate s w addr := by
  have hfunc : u.func w.fn = s.func w.fn := congrArg (fun f => Tab.get Func.reset f w.fn) hf
  have hpage : cachedPage u w addr = cachedPage s w addr := by simp only [cachedPage, hc]
  unfold translate
  rw [hfunc, hpage]

theorem writeLimit_congr (fn : Nat) : writeLimit u fn = writeLimit s fn := by
  simp only [writeLimit, State.func, hf]

end Congr

theorem Keeps.mem_out {s t : State} (k : Keeps s t) {o : Out} (h : o ∈ s.out) : o ∈ t.out := by
  obtain ⟨l, hl⟩ := k.out
  rw [hl]
  exact List.mem_append_left _ h

theorem mem_out_writePart {w : Requester} {addr : Nat} {data : Bytes} {s : State} (p : Nat × Nat) {o : Out}
    (h : o ∈ s.out) : o ∈ (writePart w addr data p s).out :=
  ((Keeps.emit ((Keeps.refl s).askPage w p.1) _).mem_out h :)

theorem mem_out_writeParts {w : Requester} {addr : Nat} {data : Bytes} (l : List (Nat × Nat)) {s : State} {o : Out}
    (h : o ∈ s.out) : o ∈ (forEach l (writePart w addr data) s).out := by
  induction l generalizing s with
  | nil => exact h
  | cons a l ih => exact ih (mem_out_writePart a h)

/-- Every part of a write goes out as it would have first. -/
theorem writeParts_out {w : Requester} {addr : Nat} {data : Bytes} {l : List (Nat × Nat)} {s : State} {p : Nat × Nat}
    (hp : p ∈ l) : .dma w.fn (translate s w p.1).1 (pasidSent s w) (translate s w p.1).2 (slice data (p.1 - addr) p.2)
      ∈ (forEach l (writePart w addr data) s).out := by
  induction l generalizing s with
  | nil => simp at hp
  | cons a l ih =>
    rcases List.mem_cons.1 hp with rfl | hp
    · have hask := transmits_askPage w p.1 s
      have hout : .dma w.fn (translate s w p.1).1 (pasidSent s w) (translate s w p.1).2 (slice data (p.1 - addr) p.2)
          ∈ (writePart w addr data p s).out := by
        rw [← translate_congr hask.ep_funcs hask.ep_cached, ← pasidSent_congr hask.ep_funcs]
        simp [writePart]
      exact mem_out_writeParts l hout
    · have hpart := transmits_writePart w addr data a s
      rw [← translate_congr hpart.ep_funcs hpart.ep_cached, ← pasidSent_congr hpart.ep_funcs]
      exact ih hp

/-- A DMA write of a function that may make requests sends all its parts (spec 09 R306). -/
theorem dmaWrite_out {w : Requester} {s : State} (hr : fnRuns s w.fn = true) {addr : Nat} {data : Bytes} {p : Nat × Nat}
    (hp : p ∈ cutAt (writeLimit s w.fn) addr data.length) :
    .dma w.fn (translate s w p.1).1 (pasidSent s w) (translate s w p.1).2 (slice data (p.1 - addr) p.2)
      ∈ (dmaWrite w addr data s).out := by
  rw [dmaWrite_eq, if_neg (by simp [hr])]
  exact (Keeps.countEv (Keeps.refl _) 0x340 data.length none none (some w.fn)).mem_out (writeParts_out hp)

/-! ### Moderation (11 R378) -/

/-- Moderation counts in its queue, and signals. -/
theorem moderate_signals (fn q : Nat) (s : State) : ∃ y : Queue,
    y = { s.queue fn q with irqCount := y.irqCount, irqAt := y.irqAt } ∧ (moderate fn q s = s ∧ y = s.queue fn q
      ∨ Signals (s.setQueue fn q y) (moderate fn q s)) := by
  unfold moderate
  dsimp only
  split
  · exact ⟨s.queue fn q, rfl, .inl ⟨rfl, rfl⟩⟩
  · split
    · exact ⟨_, rfl, .inr (signals_signal ..)⟩
    · exact ⟨_, rfl, .inr (.refl _)⟩

theorem moderate_queue_same {s : State} (h : Tab.wf Queue.reset s.wq.queues = true) (fn q : Nat) :
    ∃ n a, (moderate fn q s).queue fn q = { s.queue fn q with irqCount := n, irqAt := a } := by
  obtain ⟨y, hy, ⟨he, -⟩ | hs⟩ := moderate_signals fn q s
  · exact ⟨_, _, by rw [he]⟩
  · refine ⟨y.irqCount, y.irqAt, ?_⟩
    have hq : (moderate fn q s).queue fn q = (s.setQueue fn q y).queue fn q :=
      congrArg (fun x : Wq => Tab.get Queue.reset x.queues (qKey fn q)) hs.wq
    rw [hq, queue_setQueue_same h, ← hy]

theorem moderate_queue_other {s : State} {fn q f p : Nat} (h : qKey f p ≠ qKey fn q) :
    (moderate fn q s).queue f p = s.queue f p := by
  obtain ⟨y, hy, ⟨he, -⟩ | hs⟩ := moderate_signals fn q s
  · rw [he]
  · have hq : (moderate fn q s).queue f p = (s.setQueue fn q y).queue f p :=
      congrArg (fun x : Wq => Tab.get Queue.reset x.queues (qKey f p)) hs.wq
    rw [hq]
    exact Tab.get_set_other _ _ (Ne.symm h)

/-- Moderation leaves everything but the record of its queue and what a signal changes. -/
theorem moderate_frame (fn q : Nat) (s : State) : Signals { s with wq := (moderate fn q s).wq } (moderate fn q s) := by
  obtain ⟨y, hy, ⟨he, -⟩ | hs⟩ := moderate_signals fn q s
  · rw [he]
    exact .refl s
  · rw [hs.wq]
    exact hs

end Sys2Proof.Machine
end

section
/-! Fields of byte strings, and the records of latency samples (spec 08 R287, R288). -/

namespace Sys2Proof.Machine
open Sys2Proof

/-! ### Fields of byte strings -/

theorem beNat_append_singleton (b : Bytes) (x : Byte) : beNat (b ++ [x]) = beNat b * 256 + x.toNat := by
  simp [beNat, List.foldl_append]

/-- A number that fits reads back from its bytes. -/
theorem beNat_beBytes {k n : Nat} (h : n < 256 ^ k) : beNat (beBytes k n) = n := by
  induction k generalizing n with
  | zero =>
    have hn : n = 0 := by simpa using h
    subst hn
    rfl
  | succ k ih =>
    have hdiv : n / 256 < 256 ^ k := Nat.div_lt_of_lt_mul (by rw [Nat.mul_comm, ← Nat.pow_succ]; exact h)
    rw [beBytes, beNat_append_singleton, ih hdiv, byteOf, BitVec.toNat_ofNat]
    omega

theorem leNat_leBytes {k n : Nat} (h : n < 256 ^ k) : leNat (leBytes k n) = n := by
  rw [leNat, leBytes, List.reverse_reverse, beNat_beBytes h]

@[simp] theorem length_leBytes (k n : Nat) : (leBytes k n).length = k := by rw [leBytes, List.length_reverse, length_beBytes]

@[simp] theorem length_time96Host (n : Nat) : (time96Host n).length = 12 := by simp [time96Host, time96]

/-- The field of a string that stands between `a` and `c`. -/
theorem slice_between {a b c : Bytes} {off len : Nat} (ha : a.length = off) (hb : b.length = len) :
    slice (a ++ b ++ c) off len = b := by
  subst ha hb
  simp [slice]

theorem leField_between {a c : Bytes} {off len n : Nat} (ha : a.length = off) (h : n < 256 ^ len) :
    leField (a ++ leBytes len n ++ c) off len = n := by
  rw [leField, slice_between ha (length_leBytes len n), leNat_leBytes h]

theorem byteAt_zero_cons (x : Byte) (b : Bytes) : byteAt (x :: b) 0 = x.toNat := rfl

/-! ### A sample's bytes (08 Table 8.7) -/

section Bytes
variable (s : State) (x : Sample) (phase seq : Nat)

theorem length_sampleBytes : (sampleBytes s x phase seq).length = 64 := by
  simp [sampleBytes, zeros]

theorem kind_sampleBytes (h : x.kind + 128 * phase < 256) :
    byteAt (sampleBytes s x phase seq) 0 = x.kind + 128 * phase := by
  have hb : byteAt (sampleBytes s x phase seq) 0 = (byteOf (x.kind + 128 * phase)).toNat := rfl
  rw [hb, byteOf, BitVec.toNat_ofNat, Nat.mod_eq_of_lt h]

theorem who_sampleBytes (h : x.who < 65536) : leField (sampleBytes s x phase seq) 2 2 = x.who := by
  unfold sampleBytes
  simp only [List.append_assoc]
  rw [← List.append_assoc]
  exact leField_between rfl h

theorem what_sampleBytes (h : x.what < 65536) : leField (sampleBytes s x phase seq) 4 2 = x.what := by
  unfold sampleBytes
  simp only [List.append_assoc]
  rw [← List.append_assoc, ← List.append_assoc]
  refine leField_between ?_ h
  simp

end Bytes

theorem phaseBit_le (x : Queue) : phaseBit x ≤ 1 := by
  unfold phaseBit
  split <;> omega

/-! ### What a record's write depends on -/

theorem inBarOf_advance (t : Nat) (s : State) (g addr len : Nat) : inBarOf (advance t s) g addr len = inBarOf s g addr len := by
  unfold inBarOf vfBarSize
  simp only [func_advance, advance_ep_numVfs, advance_ep_vfEnable, advance_ep_vfBars, advance_ep_pageSize]

theorem fnExists_advance (t : Nat) (s : State) (fn : Nat) : fnExists (advance t s) fn = fnExists s fn := by
  simp only [fnExists, advance_ep_vfEnable, advance_ep_numVfs]

@[simp] theorem fnRuns_advance (t : Nat) (s : State) (fn : Nat) : fnRuns (advance t s) fn = fnRuns s fn := by
  simp only [fnRuns, func_advance, advance_ep_link, fnExists_advance, polder_advance]

@[simp] theorem translate_advance (t : Nat) (s : State) (w : Requester) (addr : Nat) :
    translate (advance t s) w addr = translate s w addr := translate_congr (advance_ep_funcs s t) (advance_ep_cached s t) w addr

@[simp] theorem pasidSent_advance (t : Nat) (s : State) (w : Requester) : pasidSent (advance t s) w = pasidSent s w :=
  pasidSent_congr (advance_ep_funcs s t) w

@[simp] theorem writeLimit_advance (t : Nat) (s : State) (fn : Nat) : writeLimit (advance t s) fn = writeLimit s fn :=
  writeLimit_congr (advance_ep_funcs s t) fn

@[simp] theorem queueReq_advance (t : Nat) (s : State) (fn q : Nat) : queueReq (advance t s) fn q = queueReq s fn q := by
  simp only [queueReq, queue_advance]

@[simp] theorem acsBlocks_advance (t : Nat) (s : State) (w : Requester) (addr len : Nat) :
    acsBlocks (advance t s) w addr len = acsBlocks s w addr len := by
  simp only [acsBlocks, func_advance, inBarOf_advance, translate_advance]

@[simp] theorem requestRefused_advance (t : Nat) (s : State) (fn q addr len : Nat) :
    requestRefused (advance t s) fn q addr len = requestRefused s fn q addr len := by
  simp only [requestRefused, pasidOff, func_advance, queue_advance, queueReq_advance, acsBlocks_advance]

theorem writes_advance (t : Nat) (s : State) (fn q addr : Nat) (data : Bytes) (u : State) :
    Writes (advance t s) fn q addr data u ↔ Writes s fn q addr data u := by
  simp only [Writes, fnRuns_advance, writeLimit_advance, translate_advance, queueReq_advance, pasidSent_advance]

@[simp] theorem sampleRing_advance (t : Nat) (s : State) (fn : Nat) : sampleRing (advance t s) fn = sampleRing s fn := by
  simp only [sampleRing, polder_advance, queue_advance]

theorem samplePeriod_advance (t : Nat) (s : State) (port tc : Nat) :
    samplePeriod (advance t s) port tc = samplePeriod s port tc := by
  simp only [samplePeriod, cfgAt, cfg_advance]

/-! ### A record goes to its ring -/

section Ring
variable {s : State} {fn q : Nat} (hc : Canonical s) (hring : sampleRing s fn = some q)
  (hroom : ringFull (s.queue fn q) = false)
  (hok : requestRefused s fn q (qBase (s.queue fn q) + 64 * (s.queue fn q).tail) 64 = false)
include hc hring hroom hok

/-- A record for a ring with room is written there, and the ring's tail and sequence number move on. -/
theorem writeSample_written (x : Sample) :
    (writeSample fn x s).1 = true
    ∧ (∃ n a, (writeSample fn x s).2.queue fn q = { advanceTail (s.queue fn q) with
        sampleSeq := ((s.queue fn q).sampleSeq + 1) % 2 ^ 32, irqCount := n, irqAt := a })
    ∧ Writes s fn q (qBase (s.queue fn q) + 64 * (s.queue fn q).tail)
        (sampleBytes s x (phaseBit (s.queue fn q)) (s.queue fn q).sampleSeq) (writeSample fn x s).2 := by
  set y : Queue := { advanceTail (s.queue fn q) with sampleSeq := ((s.queue fn q).sampleSeq + 1) % 2 ^ 32 } with hy
  set addr := qBase (s.queue fn q) + 64 * (s.queue fn q).tail with haddr
  set b := sampleBytes s x (phaseBit (s.queue fn q)) (s.queue fn q).sampleSeq with hb
  have hw : writeSample fn x s = (true, moderate fn q (dmaWrite (queueReq s fn q) addr b (s.setQueue fn q y))) := by
    simp only [writeSample, hring, hroom, hok, ← haddr]
    rfl
  have hdma := transmits_dmaWrite (queueReq s fn q) addr b (s.setQueue fn q y)
  have hwf : Tab.wf Queue.reset (dmaWrite (queueReq s fn q) addr b (s.setQueue fn q y)).wq.queues = true := by
    rw [hdma.wq]
    exact Tab.wf_set _ _ hc.queues
  rw [hw]
  refine ⟨rfl, ?_, fun hr p hp => ?_⟩
  · obtain ⟨n, a, hm⟩ := moderate_queue_same hwf fn q
    refine ⟨n, a, ?_⟩
    rw [hm, hdma.queue, queue_setQueue_same hc.queues]
  · refine (Keeps.moderate (Keeps.refl _) fn q).mem_out ?_
    exact dmaWrite_out (w := queueReq s fn q) (s := s.setQueue fn q y) hr hp

end Ring

theorem writeSample_lost {s : State} {fn : Nat} (h : sampleRing s fn = none) (x : Sample) :
    writeSample fn x s = (false, s) := by
  simp only [writeSample, h]

/-- A track that lost a record is not the reset one. -/
theorem trackNext_lost_ne_reset (x : Track) : trackNext false x ≠ Track.reset := fun h => by
  have hl : satAdd16 x.lost 1 = 0 := congrArg Track.lost h
  unfold satAdd16 at hl
  omega

/-- What a sample shows of a port queue. -/
def portSample (t port tc : Nat) (s : State) : Sample where
  kind := 1
  flags := boolNat (queueScheduled s port tc) + 2 * boolNat ((gatesAt (s.psched port) (timeNow s)).testBit tc)
    + 4 * boolNat (shaperHolds s port tc t) + 8 * boolNat (!portUp s port)
  who := port
  what := tc
  cells := depthCells (portQueue (s.psched port) tc)
  frames := (portQueue (s.psched port) tc).length
  head := ((portQueue (s.psched port) tc).head?.map (fun f => sojournNs t f.enq)).getD 0
  track := Tab.get Track.reset (s.psched port).track tc

/-- What a sample shows of a host queue. -/
def hostSample (t fn q : Nat) (s : State) : Sample where
  kind := 2
  flags := 0
  who := fn
  what := q
  cells := (hostHeld s fn q).1
  frames := (hostHeld s fn q).2.length
  head := ((hostHeld s fn q).2.min?.map (sojournNs t)).getD 0
  track := (s.queue fn q).track

/-- A port's track after its sample. -/
def retrackPort (port tc : Nat) (r : Bool × State) : State :=
  r.2.setPsched port { r.2.psched port with track := Tab.upd Track.reset (r.2.psched port).track tc (trackNext r.1) }

/-- A host queue's track after its sample. -/
def retrackHost (fn q : Nat) (r : Bool × State) : State :=
  r.2.setQueue fn q { r.2.queue fn q with track := trackNext r.1 (r.2.queue fn q).track }

/-- A track is no part of what rings count. -/
theorem sampleSeq_retrackHost {r : Bool × State} (h : Tab.wf Queue.reset r.2.wq.queues = true) (fn q p : Nat) :
    ((retrackHost fn q r).queue fn p).sampleSeq = (r.2.queue fn p).sampleSeq := by
  by_cases hk : qKey fn q = qKey fn p
  · have hqp : q = p := Nat.add_left_cancel hk
    subst hqp
    exact (congrArg Queue.sampleSeq (queue_setQueue_same h fn q { r.2.queue fn q with
      track := trackNext r.1 (r.2.queue fn q).track }) :)
  · exact congrArg Queue.sampleSeq (Tab.get_set_other r.2.wq.queues _ hk)

/-- What is due at the end of a period to a port queue, or to a host queue, that is sampled. -/
theorem samplePeriodExpiry_port {t port tc : Nat} {s : State} (hp : port < 512) (htc : tc < 8)
    (hper : samplePeriod s port tc ≠ 0) : exec (.samplePeriodExpiry t (.port port tc)) s
      = .next (retrackPort port tc (writeSample 0 (portSample t port tc (advance t s)) (advance t s))) :=
  congrArg Host.Outcome.next (if_pos ⟨hp, htc, by rw [samplePeriod_advance]; exact hper⟩)

theorem samplePeriodExpiry_host {t fn q : Nat} {s : State} (hfn : fn < 4096) (hq : q < 1024)
    (hper : qSamplePeriod (s.queue fn q) ≠ 0) (hst : (s.queue fn q).st ≠ .disabled) :
    exec (.samplePeriodExpiry t (.host fn q)) s
      = .next (retrackHost fn q (writeSample fn (hostSample t fn q (advance t s)) (advance t s))) :=
  congrArg Host.Outcome.next (if_pos ⟨hfn, hq, by simpa using hper, by simpa using hst⟩)

end Sys2Proof.Machine

namespace Sys2Proof
open Machine

theorem upd_ne_nil {α : Type} [DecidableEq α] {d : α} {t : Tab α} {i : Nat} {f : α → α} (h : f (Tab.get d t i) ≠ d) :
    Tab.upd d t i f ≠ [] := fun hnil => by
  have hget : Tab.get d (Tab.upd d t i f) i = f (Tab.get d t i) := Tab.get_set_of_ne _ _ h
  rw [hnil] at hget
  exact h hget.symm

/-- Settles O42: the record is one DMA write of 64 bytes to the ring's tail; without a ring the track counts it lost. -/
theorem latencySamples : Obligations.LatencySamples := by
  unfold Obligations.LatencySamples
  refine ⟨?_, ?_, ?_⟩
  · intro t port tc q s hc hp htc hper hring hroom hok
    refine ⟨_, samplePeriodExpiry_port hp htc hper, ?_⟩
    obtain ⟨-, ⟨n, a, hq⟩, hw⟩ := writeSample_written (s := advance t s) (canonical_advance t hc) (by simpa using hring)
      (by simpa using hroom) (by simpa using hok) (portSample t port tc (advance t s))
    rw [writes_advance] at hw
    simp only [queue_advance] at hq hw
    have hph := phaseBit_le (s.queue 0 q)
    refine ⟨⟨_, hw, length_sampleBytes .., kind_sampleBytes _ _ _ _ ?_, who_sampleBytes _ _ _ _ ?_,
      what_sampleBytes _ _ _ _ ?_⟩, congrArg Queue.sampleSeq hq, (congrArg Queue.tail hq).trans ?_⟩
    · show 1 + _ < 256
      omega
    · exact hp.trans (by decide)
    · exact htc.trans (by decide)
    · unfold advanceTail
      split <;> rfl
  · intro t port tc s hp htc hper hring
    have hlost := writeSample_lost (s := advance t s) (fn := 0) (by simpa using hring) (portSample t port tc (advance t s))
    refine ⟨_, samplePeriodExpiry_port hp htc hper, ?_, ?_⟩
    · rw [hlost, retrackPort, psched_setPsched_of_ne fun h => upd_ne_nil (trackNext_lost_ne_reset _) (congrArg PortSched.track h),
        psched_advance]
      exact Tab.get_set_of_ne _ _ (trackNext_lost_ne_reset _)
    · rw [hlost]
      exact advance_wq s t
  · intro t fn q r s hc hfn hqn hper hst hring hroom hok
    refine ⟨_, samplePeriodExpiry_host hfn hqn hper hst, ?_⟩
    obtain ⟨-, ⟨n, a, hq⟩, hw⟩ := writeSample_written (s := advance t s) (canonical_advance t hc) (by simpa using hring)
      (by simpa using hroom) (by simpa using hok) (hostSample t fn q (advance t s))
    rw [writes_advance] at hw
    simp only [queue_advance] at hq hw
    have hwf := (((Keeps.refl (advance t s)).writeSample fn (hostSample t fn q (advance t s))).form
      (canonical_advance t hc)).queues
    have hph := phaseBit_le (s.queue fn r)
    refine ⟨⟨_, hw, length_sampleBytes .., kind_sampleBytes _ _ _ _ ?_, who_sampleBytes _ _ _ _ ?_,
      what_sampleBytes _ _ _ _ ?_⟩, ?_⟩
    · show 2 + _ < 256
      omega
    · exact hfn.trans (by decide)
    · exact hqn.trans (by decide)
    · rw [sampleSeq_retrackHost hwf, hq]

end Sys2Proof
end

section
/-! Writes of BAR registers: each is the command of its register (spec 09 R303 to R305), and MBX_CTRL (spec 02 R65). -/

namespace Sys2Proof.Machine
open Sys2Proof

@[simp] theorem barOpen_advance (t : Nat) (s : State) (fn : Nat) : barOpen (advance t s) fn = barOpen s fn := by
  simp only [barOpen, advance_ep_link, fnExists_advance, func_advance]

theorem barBytes_zero (s : State) (fn : Nat) : barBytes s fn 0 = if fn = 0 then 2 ^ 26 else 65536 := by
  by_cases h : fn = 0 <;> simp [barBytes, barSize, vfBarSize, h]

theorem barBytes_four (s : State) (fn : Nat) : barBytes s fn 4 = 65536 := by
  by_cases h : fn = 0 <;> simp [barBytes, barSize, vfBarSize, h]

theorem toNat_ofNat_word {v : Nat} (h : v < 2 ^ 32) : (BitVec.ofNat 32 v).toNat = v := by
  rw [BitVec.toNat_ofNat, Nat.mod_eq_of_lt h]

/-! ### The write of one word -/

section Word
variable {t fn bar off v : Nat} {s : State} (hopen : barOpen s fn = true)
include hopen

/-- An aligned word inside the BAR is written. -/
theorem registerWrite_word (hv : v < 2 ^ 32) (hin : off + 4 ≤ barBytes (advance t s) fn bar) (hal : off % 4 = 0) :
    exec (.registerWrite t fn bar off 4 v) s = .next (wordWrite fn bar off v (advance t s)) := by
  show execRegisterWrite t fn bar off 4 v s = _
  have hacc : accessOk bar off 4 = true := by simp [accessOk, hal]
  have hm : v % 2 ^ 32 = v := Nat.mod_eq_of_lt hv
  simp only [execRegisterWrite, registerWrite, barOpen_advance, hopen, Nat.not_lt.2 hin, hacc, hm]
  rfl

/-- A word of BAR0, within the function's block or within PF0's. -/
theorem registerWrite_bar0 (hv : v < 2 ^ 32) (hin : off + 4 ≤ 65536 ∨ fn = 0 ∧ off + 4 ≤ 2 ^ 26) (hal : off % 4 = 0) :
    exec (.registerWrite t fn 0 off 4 v) s = .next (bar0Write fn off v (advance t s)) := by
  refine registerWrite_word hopen hv ?_ hal
  rw [barBytes_zero]
  split
  · omega
  · omega

/-- An access of another size or alignment changes nothing (R305). -/
theorem registerWrite_ignored {size : Nat} (hin : off + size ≤ 2 ^ 16) (hbad : size ≠ 4 ∨ off % 4 ≠ 0) :
    exec (.registerWrite t fn 0 off size v) s = .next (advance t s) := by
  show execRegisterWrite t fn 0 off size v s = _
  have hacc : accessOk 0 off size = false := by
    rcases hbad with h | h <;> simp [accessOk, h]
  have hsize : ¬barBytes (advance t s) fn 0 < off + size := by
    rw [barBytes_zero]
    split <;> omega
  simp [execRegisterWrite, registerWrite, hopen, hsize, hacc]

/-- An access outside the BAR is an Unsupported Request (R305, R327). -/
theorem registerWrite_outside {size : Nat} (hout : 2 ^ 26 < off + size) :
    exec (.registerWrite t fn 0 off size v) s
      = .next ((advance t s).setFunc fn { s.func fn with aer := bitSet (s.func fn).aer 20 }) := by
  show execRegisterWrite t fn 0 off size v s = _
  have hsize : barBytes (advance t s) fn 0 < off + size := by
    rw [barBytes_zero]
    split <;> omega
  simp only [execRegisterWrite, registerWrite, barOpen_advance, hopen, hsize, aerSet, func_advance]
  rfl

end Word

/-- An access the function does not take is an Unsupported Request. -/
theorem barMissed_closed {fn : Nat} {s : State} (hopen : barOpen s fn = false) (hlink : s.ep.link = 2)
    (hfn : fnExists s fn = true) (t : Nat) : barMissed fn (advance t s)
      = (advance t s).setFunc fn { s.func fn with aer := bitSet (s.func fn).aer 20 } := by
  simp only [barMissed, barOpen_advance, hopen, advance_ep_link, hlink, fnExists_advance, hfn, if_true, func_advance]
  rfl

/-! ### Each block's registers -/

theorem bar0Write_table (v : Nat) (s : State) : bar0Write 0 0x10000 v s
    = tblCommand (bitsOf v 3 0) (bitsOf v 5 4) (v.testBit 6) (bitsOf v 31 8)
        (tblRun (bitsOf v 3 0) (bitsOf v 5 4) (v.testBit 6) (bitsOf v 31 8)) s := rfl

theorem bar0Write_tableData {k : Nat} (hk : k < 8) (v : Nat) {s : State} (hb : s.tables.busy = none) :
    bar0Write 0 (0x10010 + 4 * k) v s
      = modTables (fun x => { x with data := Tab.set 0#32 x.data k (BitVec.ofNat 32 v) }) s := by
  have h1 : ¬0x10010 + 4 * k < 0x10000 := by omega
  have h2 : 0x10010 + 4 * k < 0x20000 := by omega
  have h3 : 0x10010 + 4 * k - 0x10000 ≠ 0 := by omega
  have h4 : 0x10 ≤ 0x10010 + 4 * k - 0x10000 ∧ 0x10010 + 4 * k - 0x10000 < 0x30 := by omega
  have h5 : (0x10010 + 4 * k - 0x10000) / 4 - 4 = k := by omega
  rw [bar0Write, if_neg h1, if_neg (by simp), if_pos h2, tblWriteReg, if_neg h3, if_pos h4, h5, hb]
  rfl

theorem bar0Write_mailbox {off : Nat} (h : off < 0x10000) (v : Nat) (s : State) :
    bar0Write 0 (0x20000 + off) v s = mbxWriteReg off v s := by
  rw [bar0Write, if_neg (by omega), if_neg (by simp), if_neg (by omega), if_pos (by omega), Nat.add_sub_cancel_left]

theorem mbxWriteReg_request {k : Nat} (hk : k < 1024) (v : Nat) (s : State) : mbxWriteReg (0x1000 + 4 * k) v s
    = modMbx (fun m => { m with req := Tab.set 0#32 m.req k (BitVec.ofNat 32 v) }) s := by
  have h : (0x1000 + 4 * k - 0x1000) / 4 = k := by omega
  rw [mbxWriteReg, if_neg (by omega), if_neg (by omega), if_pos (by omega), h]

theorem bar0Write_events {off : Nat} (h : off < 0x10000) (v : Nat) (s : State) :
    bar0Write 0 (0x30000 + off) v s = evtWriteReg off v s := by
  rw [bar0Write, if_neg (by omega), if_neg (by simp), if_neg (by omega), if_neg (by omega), if_pos (by omega),
    Nat.add_sub_cancel_left]

section Events
variable {g : Nat} (hg : g < 16) (v : Nat) (s : State)
include hg

theorem evtWriteReg_stat : evtWriteReg (4 * g) v s = evtClear g v 0 s := by
  rw [evtWriteReg, if_pos (by omega), Nat.mul_div_cancel_left g (by decide)]

theorem evtWriteReg_mask : evtWriteReg (0x40 + 4 * g) v s = evtMaskSet g v s := by
  have h : (0x40 + 4 * g) / 4 - 16 = g := by omega
  rw [evtWriteReg, if_neg (by omega), if_pos (by omega), h]

theorem evtWriteReg_vector : evtWriteReg (0x100 + 4 * g) v s = evtVectorSet g v s := by
  have h : (0x100 + 4 * g) / 4 - 64 = g := by omega
  rw [evtWriteReg, if_neg (by omega), if_neg (by omega), if_pos (by omega), h]

theorem evtWriteReg_test : evtWriteReg (0x180 + 4 * g) v s = evtTest g v s := by
  have h : (0x180 + 4 * g) / 4 - 96 = g := by omega
  rw [evtWriteReg, if_neg (by omega), if_neg (by omega), if_neg (by omega), if_pos (by omega), h]

end Events

theorem bar0Write_counters {off : Nat} (h : off < 0x10000) (v : Nat) (s : State) :
    bar0Write 0 (0x40000 + off) v s = ctrWriteReg off v s := by
  rw [bar0Write, if_neg (by omega), if_neg (by simp), if_neg (by omega), if_neg (by omega), if_neg (by omega),
    if_pos (by omega), Nat.add_sub_cancel_left]

section Counters
variable {n : Nat} (hn : n < 256) (v : Nat) (s : State)
include hn

theorem ctrWriteReg_sel : ctrWriteReg (16 * n) v s = ctrSelSet n v s := by
  simp only [ctrWriteReg, show 16 * n < 0x1000 by omega, if_true, Nat.mul_mod_right,
    Nat.mul_div_cancel_left n (show 0 < 16 by decide)]

theorem ctrWriteReg_value (hi : Bool) : ctrWriteReg (8 + 16 * n + (if hi then 4 else 0)) v s = ctrValueSet n hi v s := by
  cases hi
  · have h1 : (8 + 16 * n) % 16 = 8 := by omega
    have h2 : (8 + 16 * n) / 16 = n := by omega
    simp [ctrWriteReg, show 8 + 16 * n < 0x1000 by omega, h1, h2]
  · have h1 : (8 + 16 * n + 4) % 16 = 12 := by omega
    have h2 : (8 + 16 * n + 4) / 16 = n := by omega
    simp [ctrWriteReg, show 8 + 16 * n + 4 < 0x1000 by omega, h1, h2]

end Counters

section Queues
variable {fn q : Nat} (hq : q < 1024) (v : Nat) (s : State)
include hq

theorem bar0Write_doorbell : bar0Write fn (32 * q) v s
    = if isProducer (qKind (s.queue fn q)) then tailDoorbell fn q v s else headDoorbell fn q v s := by
  rw [bar0Write, if_pos (by omega), funcWrite, if_pos (by omega)]
  simp only [Nat.mul_mod_right, if_true, Nat.mul_div_cancel_left q (show 0 < 32 by decide)]

theorem bar0Write_control : bar0Write fn (32 * q + 4) v s = qctrlWrite fn q v s := by
  have h1 : (32 * q + 4) % 32 = 4 := by omega
  have h2 : (32 * q + 4) / 32 = q := by omega
  rw [bar0Write, if_pos (by omega), funcWrite, if_pos (by omega)]
  simp only [h1, h2]
  rfl

/-- Q_STAT ignores writes. -/
theorem bar0Write_status : bar0Write fn (32 * q + 8) v s = s := by
  have h1 : (32 * q + 8) % 32 = 8 := by omega
  rw [bar0Write, if_pos (by omega), funcWrite, if_pos (by omega)]
  simp only [h1]
  rfl

end Queues

/-! ### Fields of TBL_CMD -/

theorem boolNat_le (b : Bool) : boolNat b ≤ 1 := by cases b <;> simp [boolNat]

section TblCmd
variable {op table i : Nat} (hop : op < 16) (htable : table < 4) (b : Bool)
include hop htable

theorem tblCmd_lt (hi : i < 2 ^ 24) : op + 16 * table + 64 * boolNat b + 256 * i < 2 ^ 32 := by
  have := boolNat_le b
  omega

omit htable in
theorem tblCmd_op : bitsOf (op + 16 * table + 64 * boolNat b + 256 * i) 3 0 = op := by
  rw [bitsOf, Nat.shiftRight_eq_div_pow]
  omega

theorem tblCmd_table : bitsOf (op + 16 * table + 64 * boolNat b + 256 * i) 5 4 = table := by
  rw [bitsOf, Nat.shiftRight_eq_div_pow]
  omega

theorem tblCmd_byIndex : (op + 16 * table + 64 * boolNat b + 256 * i).testBit 6 = b := by
  rw [Nat.testBit_eq_decide_div_mod_eq]
  cases b <;> simp [boolNat] <;> omega

theorem tblCmd_index (hi : i < 2 ^ 24) : bitsOf (op + 16 * table + 64 * boolNat b + 256 * i) 31 8 = i := by
  have := boolNat_le b
  rw [bitsOf, Nat.shiftRight_eq_div_pow]
  omega

/-- A write of TBL_CMD is the table command its fields spell. -/
theorem bar0Write_tblCmd (hi : i < 2 ^ 24) (s : State) : bar0Write 0 0x10000 (op + 16 * table + 64 * boolNat b + 256 * i) s
    = tblCommand op table b i (tblRun op table b i) s := by
  rw [bar0Write_table, tblCmd_op hop, tblCmd_table hop htable, tblCmd_byIndex hop htable, tblCmd_index hop htable b hi]

end TblCmd

/-! ### MBX_CTRL -/

theorem mbxBytes_advance (t : Nat) (s : State) (n : Nat) : mbxBytes (advance t s) n = mbxBytes s n := by
  simp only [mbxBytes, advance_mbx]

section Go
variable {t : Nat} {v : Word32} {s : State} (hopen : barOpen s 0 = true)
include hopen

theorem mbxGo_runs : exec (.mbxGo t v) s = .next (mbxCtrl v.toNat (advance t s)) := by
  show execMbxGo t v s = _
  simp [execMbxGo, hopen]

end Go

/-- A request that is taken: MBX_CTRL keeps its length, the mailbox is busy, and the request's bytes are kept. -/
def takeRequest (n : Nat) (s : State) : State :=
  modMbx (fun m => { m with length := n, busy := true, accepted := some (mbxBytes s n) }) s

theorem mbxCtrl_idle {v : Nat} (h : v.testBit 0 = false) (s : State) :
    mbxCtrl v s = modMbx (fun m => { m with length := bitsOf v 28 16 }) s := by
  simp [mbxCtrl, h]

theorem mbxCtrl_ignored {v : Nat} (h : v.testBit 0 = true) {s : State}
    (hbad : s.mbx.busy = true ∨ bitsOf v 28 16 < 28 ∨ 4096 < bitsOf v 28 16) : mbxCtrl v s
      = modMbx (fun m => { m with length := bitsOf v 28 16, ignored := true, ignCnt := satAdd32 m.ignCnt 1 }) s := by
  simp only [mbxCtrl, h, modMbx_mbx, hbad, if_true]
  rfl

theorem mbxCtrl_taken {v : Nat} (h : v.testBit 0 = true) {s : State} (hfree : s.mbx.busy = false)
    (hlo : 28 ≤ bitsOf v 28 16) (hhi : bitsOf v 28 16 ≤ 4096) :
    mbxCtrl v s = mbxHeader (takeRequest (bitsOf v 28 16) s) := by
  have hgood : ¬(s.mbx.busy = true ∨ bitsOf v 28 16 < 28 ∨ 4096 < bitsOf v 28 16) := by
    rw [hfree]
    simp
    omega
  simp only [mbxCtrl, h, modMbx_mbx, hgood, if_false]
  rfl

theorem dropBadOrphans_none {s : State} (h : s.mbx.orphans = []) :
    modMbx (fun m => { m with orphans := m.orphans.filter (fun b => !badHeader b) }) s = s := by
  have he : { s.mbx with orphans := s.mbx.orphans.filter (fun b => !badHeader b) } = s.mbx := by
    rw [h, List.filter_nil, ← h]
  exact congrArg (fun m : Mailbox => { s with mbx := m }) he

/-- Without an abandoned request, the header of the request in the mailbox is looked at alone (R68). -/
theorem mbxHeader_alone {s : State} (ho : s.mbx.orphans = []) (hr : s.mbx.restart = false) {b : Bytes}
    (ha : s.mbx.accepted = some b) : mbxHeader s = if badHeader b then
      mbxRespond 3 (parseMsg b 0).kind (parseMsg b 0).reqId (parseMsg b 0).index (parseMsg b 0).sub 0 6 0 []
        (count 0x1110 4 s)
      else s := by
  unfold mbxHeader
  rw [if_neg (by simp [hr]), dropBadOrphans_none ho, ho]
  simp only [List.filter_nil, forEach, List.foldl_nil, ha]
  rfl

/-- A good header, or cores that restart, leave the request to be served. -/
theorem mbxHeader_good {n : Nat} {s : State} (horph : s.mbx.orphans = [])
    (h : badHeader (mbxBytes s n) = false ∨ s.mbx.restart = true) : mbxHeader (takeRequest n s) = takeRequest n s := by
  by_cases hr : s.mbx.restart = true
  · exact if_pos hr
  · have hh : badHeader (mbxBytes s n) = false := h.resolve_right hr
    rw [mbxHeader_alone (b := mbxBytes s n) (s := takeRequest n s) horph (eq_false_of_ne_true hr) rfl, hh, if_neg (by simp)]

/-- A bad header is refused at once and counted (R68). -/
theorem mbxHeader_bad {n : Nat} {s : State} (horph : s.mbx.orphans = []) (hr : s.mbx.restart = false)
    (h : badHeader (mbxBytes s n) = true) : mbxHeader (takeRequest n s)
      = mbxRespond 3 (parseMsg (mbxBytes s n) 0).kind (parseMsg (mbxBytes s n) 0).reqId (parseMsg (mbxBytes s n) 0).index
          (parseMsg (mbxBytes s n) 0).sub 0 6 0 [] (count 0x1110 4 (takeRequest n s)) := by
  rw [mbxHeader_alone (b := mbxBytes s n) (s := takeRequest n s) horph hr rfl, if_pos h]

end Sys2Proof.Machine

namespace Sys2Proof
open Machine

/-- Settles O47: an aligned word inside a BAR is the write of its register, and MBX_CTRL takes, ignores or refuses. -/
theorem registerAccess : Obligations.RegisterAccess := by
  unfold Obligations.RegisterAccess
  refine ⟨?_, ?_, ?_, ?_, ?_, ?_, ?_, ?_⟩
  · rintro t v s n rfl hopen
    refine ⟨fun hgo => ⟨_, mbxGo_runs hopen, mbxCtrl_idle hgo _⟩, fun hgo hbad => ⟨_, mbxGo_runs hopen, ?_⟩,
      fun hgo hfree hlo hhi horph => ⟨fun hgood => ⟨_, mbxGo_runs hopen, ?_⟩, fun hbad hr => ⟨_, mbxGo_runs hopen, ?_⟩⟩⟩
    · exact mbxCtrl_ignored hgo (by simpa using hbad)
    · rw [mbxCtrl_taken hgo (by simpa using hfree) hlo hhi, mbxHeader_good (by simpa using horph)
        (by simpa [mbxBytes_advance] using hgood), takeRequest, mbxBytes_advance]
    · rw [mbxCtrl_taken hgo (by simpa using hfree) hlo hhi, mbxHeader_bad (by simpa using horph) (by simpa using hr)
        (by simpa [mbxBytes_advance] using hbad), mbxBytes_advance]
      refine ⟨aborted_mbxRespond _ _ _, ?_⟩
      have hdict : (takeRequest (bitsOf v.toNat 28 16) (advance t s)).dict = s.dict := advance_dict s t
      have hc := counter_countQ 0x1110 4 none none none (takeRequest (bitsOf v.toNat 28 16) (advance t s))
      unfold counter at hc ⊢
      rw [mbxRespond_dict, ← hdict]
      exact hc
  · intro t v s hopen hlink
    refine ⟨_, ?_, rfl⟩
    show execMbxGo t v s = _
    rw [← barMissed_closed hopen hlink (by simp [fnExists]) t]
    simp [execMbxGo, hopen]
  · intro t v s hv hopen
    refine ⟨fun k hk => ?_, ?_, ?_, fun g hg => ⟨?_, ?_, ?_, ?_⟩, fun n hn => ⟨?_, fun hi => ?_⟩, ?_, fun k hk hb => ?_⟩
    · refine ⟨_, registerWrite_bar0 hopen hv (by omega) (by omega), ?_⟩
      rw [show 0x21000 + 4 * k = 0x20000 + (0x1000 + 4 * k) by omega, bar0Write_mailbox (by omega), mbxWriteReg_request hk]
    · exact ⟨_, registerWrite_bar0 hopen hv (by omega) (by omega), rfl⟩
    · rw [registerWrite_bar0 hopen hv (by omega) (by omega), mbxGo_runs hopen, toNat_ofNat_word hv]
      rfl
    · rw [registerWrite_bar0 hopen hv (by omega) (by omega), bar0Write_events (by omega), evtWriteReg_stat hg,
        evtStatWrite_runs hopen hg, toNat_ofNat_word hv]
      rfl
    · rw [registerWrite_bar0 hopen hv (by omega) (by omega), show 0x30040 + 4 * g = 0x30000 + (0x40 + 4 * g) by omega,
        bar0Write_events (by omega), evtWriteReg_mask hg, evtMaskWrite_runs hopen hg, toNat_ofNat_word hv]
    · rw [registerWrite_bar0 hopen hv (by omega) (by omega), show 0x30100 + 4 * g = 0x30000 + (0x100 + 4 * g) by omega,
        bar0Write_events (by omega), evtWriteReg_vector hg, evtVectorWrite_runs hopen hg, toNat_ofNat_word hv]
    · rw [registerWrite_bar0 hopen hv (by omega) (by omega), show 0x30180 + 4 * g = 0x30000 + (0x180 + 4 * g) by omega,
        bar0Write_events (by omega), evtWriteReg_test hg, evtTestWrite_runs hopen hg, toNat_ofNat_word hv]
    · rw [registerWrite_bar0 hopen hv (by omega) (by omega), bar0Write_counters (by omega), ctrWriteReg_sel hn,
        ctrSelWrite_runs hopen hn, toNat_ofNat_word hv]
    · have h4 : (if hi = true then 4 else 0) % 4 = 0 ∧ (if hi = true then 4 else 0) ≤ 4 := by cases hi <;> decide
      obtain ⟨h4, h4le⟩ := h4
      rw [registerWrite_bar0 hopen hv (by omega) (by omega),
        show 0x40008 + 16 * n + (if hi = true then 4 else 0) = 0x40000 + (8 + 16 * n + (if hi = true then 4 else 0)) by omega,
        bar0Write_counters (by omega), ctrWriteReg_value hn, ctrValueWrite_runs hopen hn, toNat_ofNat_word hv]
    · intro table i b htable hi op mk hmk
      have hop : op < 16 := by
        simp only [List.mem_cons, Prod.mk.injEq, List.not_mem_nil, or_false] at hmk
        omega
      rw [registerWrite_bar0 hopen (tblCmd_lt hop htable b hi) (by omega) (by omega), bar0Write_tblCmd hop htable b hi]
      simp only [List.mem_cons, Prod.mk.injEq, List.not_mem_nil, or_false] at hmk
      rcases hmk with ⟨rfl, rfl⟩ | ⟨rfl, rfl⟩ | ⟨rfl, rfl⟩ | ⟨rfl, rfl⟩ | ⟨rfl, rfl⟩ | ⟨rfl, rfl⟩ <;> rfl
    · exact ⟨_, registerWrite_bar0 hopen hv (by omega) (by omega), bar0Write_tableData hk v (by simpa using hb)⟩
  · intro t fn q v s hv hopen hq
    refine ⟨fun hp => ?_, fun hp => ?_, ?_, ?_, ?_, ?_⟩
    · rw [registerWrite_bar0 hopen hv (by omega) (by omega), bar0Write_doorbell hq, queue_advance, if_pos hp]
      rfl
    · rw [registerWrite_bar0 hopen hv (by omega) (by omega), bar0Write_doorbell hq, queue_advance, if_neg (by simp [hp])]
      rfl
    · rw [registerWrite_bar0 hopen (by decide) (by omega) (by omega), bar0Write_control hq]
      rfl
    · rw [registerWrite_bar0 hopen (by decide) (by omega) (by omega), bar0Write_control hq]
      rfl
    · rw [registerWrite_bar0 hopen (by decide) (by omega) (by omega), bar0Write_control hq]
      rfl
    · exact ⟨_, registerWrite_bar0 hopen hv (by omega) (by omega), bar0Write_status hq v _⟩
  · intro t fn k v s hv hopen hk hlt
    refine ⟨_, registerWrite_word hopen hv (by rw [barBytes_four]; omega) (by omega), ?_⟩
    have h1 : (16 * k + 8) / 16 = k := by omega
    have h2 : (16 * k + 8) % 16 = 8 := by omega
    have h3 : ¬(0x8000 ≤ 16 * k + 8 ∨ msixSize (advance t s) fn ≤ k) := by
      rw [msixSize_advance]
      omega
    show msixWrite fn (16 * k + 8) v (advance t s) = _
    simp only [msixWrite, h1, h2, h3, if_false]
    rfl
  · exact fun t fn off size v s hopen hin hbad => ⟨_, registerWrite_ignored hopen hin hbad, rfl⟩
  · exact fun t fn off size v s hopen hout => ⟨_, registerWrite_outside hopen hout, rfl⟩
  · intro t fn bar off size v s hopen hlink hfn
    refine ⟨_, ?_, rfl⟩
    show execRegisterWrite t fn bar off size v s = _
    rw [← barMissed_closed hopen hlink hfn t]
    simp [execRegisterWrite, registerWrite, hopen]

end Sys2Proof
end

section
/-! The exact-match tables: what a change of an entry, a sweep and a scan leave, and what they do to the home copy
(spec 05 R182, R190, R199, R203). -/

namespace Sys2Proof.Machine
open Sys2Proof

/-! ### Replicas -/

/-- The replicas, their filters and the writes on their way to them are brought to those of other tables. -/
def Tables.withReplicas (x y : Tables) : Tables :=
  { x with repFdb := y.repFdb, repStream := y.repStream, localHit := y.localHit, filter := y.filter, repQ := y.repQ
           stale := y.stale }

/-- From `s` to `u` a change spread to the replicas, with what an occurrence changes. -/
structure Spreads (s u : State) : Prop where
  work : Signals { s with tables := u.tables } u
  tables : u.tables.withReplicas s.tables = s.tables

theorem Spreads.refl (s : State) : Spreads s s := ⟨.refl s, rfl⟩

theorem Spreads.trans {s u v : State} (a : Spreads s u) (b : Spreads u v) : Spreads s v :=
  ⟨(a.work.map (f := fun x => { x with tables := v.tables }) (fun _ _ _ _ => rfl)).trans b.work,
    (congrArg (fun x : Tables => x.withReplicas s.tables) b.tables).trans a.tables⟩

/-- A change of the replicas alone. -/
theorem Spreads.of_tables {s : State} (f : Tables → Tables) (h : (f s.tables).withReplicas s.tables = s.tables) :
    Spreads s (modTables f s) := ⟨.refl _, h⟩

theorem Signals.spreads {s u : State} (h : Signals s u) : Spreads s u :=
  ⟨by rw [h.tables]; exact h, by rw [h.tables]; rfl⟩

theorem spreads_forEach {α : Type} (l : List α) {f : α → State → State} (h : ∀ a s, Spreads s (f a s)) (s : State) :
    Spreads s (forEach l f s) := by
  induction l generalizing s with
  | nil => exact .refl s
  | cons a l ih => exact (h a s).trans (ih _)

theorem spreads_applyRep (w : RepWrite) (s : State) : Spreads s (applyRep w s) := by
  unfold applyRep
  split
  · dsimp only
    split
    · exact .of_tables _ rfl
    · exact Spreads.trans (.of_tables _ rfl) (.of_tables _ rfl)
  · exact .of_tables _ rfl

theorem spreads_replicate (w : RepWrite) (s : State) : Spreads s (replicate w s) := by
  refine spreads_forEach _ (fun d st => ?_) s
  dsimp only
  split
  · exact spreads_applyRep ..
  · split
    · exact .refl st
    · split
      · exact Spreads.trans (.of_tables _ rfl) (signals_raiseDie ..).spreads
      · exact .of_tables _ rfl

/-! ### The home copy -/

theorem scanRun_busy (s : State) : scanRun s = modTables (fun x => { x with busy := (scanRun s).tables.busy }) s := by
  obtain ⟨b, h⟩ := scanRun_eq s
  rw [h]
  rfl

/-- Without a scan nothing runs. -/
theorem scanRun_idle {s : State} (h : ∀ b, s.tables.busy = some b → b.scan = none) : scanRun s = s := by
  unfold scanRun
  split
  · rfl
  · next b hb => rw [h b hb]

/-- The fields of the tables that a change of an entry, or a sweep, may touch are brought to those of other tables. -/
def Tables.withEntries (x y : Tables) : Tables :=
  { x.withReplicas y with fdb := y.fdb, stream := y.stream, busy := y.busy, sweepAt := y.sweepAt }

/-- From `s` to `u` entries changed, with their replicas, a scan that runs and how far the sweeps have come. -/
structure Enters (s u : State) : Prop where
  work : Signals { s with tables := u.tables } u
  tables : u.tables.withEntries s.tables = s.tables
  idle : s.tables.busy = none → u.tables.busy = none

theorem Enters.refl (s : State) : Enters s s := ⟨.refl s, rfl, id⟩

theorem Enters.trans {s u v : State} (a : Enters s u) (b : Enters u v) : Enters s v :=
  ⟨(a.work.map (f := fun x => { x with tables := v.tables }) (fun _ _ _ _ => rfl)).trans b.work,
    (congrArg (fun x : Tables => x.withEntries s.tables) b.tables).trans a.tables, fun h => b.idle (a.idle h)⟩

theorem Enters.of_tables {s : State} (f : Tables → Tables) (h : (f s.tables).withEntries s.tables = s.tables)
    (hb : (f s.tables).busy = s.tables.busy) : Enters s (modTables f s) := ⟨.refl _, h, fun hn => hb.trans hn⟩

theorem Spreads.enters {s u : State} (h : Spreads s u) : Enters s u := by
  refine ⟨h.work, ?_, fun hb => ?_⟩
  · have ht := congrArg (fun x : Tables => x.withEntries s.tables) h.tables
    exact ht
  · have ht := congrArg Tables.busy h.tables
    exact ht.trans hb

theorem enters_forEach {α : Type} (l : List α) {f : α → State → State} (h : ∀ a s, Enters s (f a s)) (s : State) :
    Enters s (forEach l f s) := by
  induction l generalizing s with
  | nil => exact .refl s
  | cons a l ih => exact (h a s).trans (ih _)

theorem enters_scanRun (s : State) : Enters s (scanRun s) := by
  have h := scanRun_busy s
  refine ⟨?_, ?_, fun hb => ?_⟩
  · rw [h]
    exact .refl _
  · rw [h]
    rfl
  · rw [scanRun_idle (by simp [hb])]
    exact hb

theorem enters_putHome (i : Nat) (e : FdbEntry) (s : State) : Enters s (putHome i e s) :=
  (enters_scanRun s).trans (.of_tables _ rfl rfl)

theorem enters_putFdb (home i key : Nat) (e : FdbEntry) (s : State) : Enters s (putFdb home i key e s) :=
  (enters_putHome i e s).trans (spreads_replicate ..).enters

theorem enters_putStream (home i key : Nat) (e : StreamEntry) (s : State) : Enters s (putStream home i key e s) :=
  ((enters_scanRun s).trans (.of_tables _ rfl rfl)).trans (spreads_replicate ..).enters

theorem enters_dropFdb (i : Nat) (s : State) : Enters s (dropFdb i s) := enters_putFdb ..

theorem enters_sweepRun (die : Nat) (s : State) : Enters s (sweepRun die s) := by
  unfold sweepRun
  dsimp only
  split
  · exact .refl s
  · exact Enters.trans (.of_tables _ rfl rfl) (enters_forEach _ enters_dropFdb _)

theorem enters_sweepAll (s : State) : Enters s (sweepAll s) := enters_forEach _ enters_sweepRun s

section Fields
variable {s u : State}

theorem Spreads.fdb (h : Spreads s u) : u.tables.fdb = s.tables.fdb := (congrArg Tables.fdb h.tables :)
theorem Spreads.stream (h : Spreads s u) : u.tables.stream = s.tables.stream := (congrArg Tables.stream h.tables :)
theorem Spreads.sweepAt (h : Spreads s u) : u.tables.sweepAt = s.tables.sweepAt := (congrArg Tables.sweepAt h.tables :)
theorem Enters.data (h : Enters s u) : u.tables.data = s.tables.data := (congrArg Tables.data h.tables :)
theorem Enters.learnZero (h : Enters s u) : u.tables.learnZero = s.tables.learnZero :=
  (congrArg Tables.learnZero h.tables :)
theorem Enters.learnQ (h : Enters s u) : u.tables.learnQ = s.tables.learnQ := (congrArg Tables.learnQ h.tables :)
theorem Enters.hits (h : Enters s u) : u.tables.hits = s.tables.hits := (congrArg Tables.hits h.tables :)
theorem Enters.flush (h : Enters s u) : u.tables.flush = s.tables.flush := (congrArg Tables.flush h.tables :)
theorem Enters.sweep (h : Enters s u) : u.tables.sweep = s.tables.sweep := (congrArg Tables.sweep h.tables :)
theorem Enters.agerDue (h : Enters s u) : u.tables.agerDue = s.tables.agerDue := (congrArg Tables.agerDue h.tables :)
theorem Enters.stat (h : Enters s u) : u.tables.stat = s.tables.stat := (congrArg Tables.stat h.tables :)
theorem Enters.clock (h : Enters s u) : u.clock = s.clock := h.work.clock
theorem Enters.dict (h : Enters s u) : u.dict = s.dict := h.work.dict
theorem Enters.test (h : Enters s u) : u.test = s.test := h.work.test

end Fields

/-! ### What the home copy holds -/

theorem fdb_putHome (i : Nat) (e : FdbEntry) (s : State) :
    (putHome i e s).tables.fdb = Tab.set FdbEntry.reset s.tables.fdb i e := by
  unfold putHome
  rw [scanRun_busy]
  rfl

theorem fdb_putFdb (home i key : Nat) (e : FdbEntry) (s : State) :
    (putFdb home i key e s).tables.fdb = Tab.set FdbEntry.reset s.tables.fdb i e :=
  (spreads_replicate ..).fdb.trans (fdb_putHome i e s)

theorem fdb_dropFdb (i : Nat) (s : State) :
    (dropFdb i s).tables.fdb = Tab.set FdbEntry.reset s.tables.fdb i FdbEntry.reset := fdb_putFdb ..

theorem stream_putStream (home i key : Nat) (e : StreamEntry) (s : State) :
    (putStream home i key e s).tables.stream = Tab.set StreamEntry.reset s.tables.stream i e := by
  unfold putStream
  rw [(spreads_replicate ..).stream, scanRun_busy]
  rfl

theorem stream_putFdb (home i key : Nat) (e : FdbEntry) (s : State) :
    (putFdb home i key e s).tables.stream = s.tables.stream := by
  unfold putFdb putHome
  rw [(spreads_replicate ..).stream, scanRun_busy]
  rfl

theorem sweepAt_putFdb (home i key : Nat) (e : FdbEntry) (s : State) :
    (putFdb home i key e s).tables.sweepAt = s.tables.sweepAt := by
  unfold putFdb putHome
  rw [(spreads_replicate ..).sweepAt, scanRun_busy]
  rfl

section Home
variable {s : State} (h : Tab.wf FdbEntry.reset s.tables.fdb = true)
include h

theorem homeFdb_putHome_same (i : Nat) (e : FdbEntry) : homeFdb (putHome i e s) i = e := by
  unfold homeFdb
  rw [fdb_putHome, Tab.get_set_same _ _ h]

theorem homeFdb_putFdb_same (home i key : Nat) (e : FdbEntry) : homeFdb (putFdb home i key e s) i = e := by
  unfold homeFdb
  rw [fdb_putFdb, Tab.get_set_same _ _ h]

theorem homeFdb_dropFdb_same (i : Nat) : homeFdb (dropFdb i s) i = FdbEntry.reset := homeFdb_putFdb_same h ..

end Home

theorem homeFdb_putHome_other {i j : Nat} (h : j ≠ i) (e : FdbEntry) (s : State) :
    homeFdb (putHome i e s) j = homeFdb s j := by
  unfold homeFdb
  rw [fdb_putHome, Tab.get_set_other _ _ (Ne.symm h)]

theorem homeFdb_putFdb_other {i j : Nat} (h : j ≠ i) (home key : Nat) (e : FdbEntry) (s : State) :
    homeFdb (putFdb home i key e s) j = homeFdb s j := by
  unfold homeFdb
  rw [fdb_putFdb, Tab.get_set_other _ _ (Ne.symm h)]

theorem homeFdb_dropFdb_other {i j : Nat} (h : j ≠ i) (s : State) : homeFdb (dropFdb i s) j = homeFdb s j :=
  homeFdb_putFdb_other h ..

theorem homeFdb_congr {s u : State} (h : u.tables.fdb = s.tables.fdb) (i : Nat) : homeFdb u i = homeFdb s i :=
  congrArg (fun x => Tab.get FdbEntry.reset x i) h

theorem homeStream_congr {s u : State} (h : u.tables.stream = s.tables.stream) (i : Nat) :
    homeStream u i = homeStream s i := congrArg (fun x => Tab.get StreamEntry.reset x i) h

theorem findFdb_congr {s u : State} (h : u.tables.fdb = s.tables.fdb) (k : Nat) : findFdb u k = findFdb s k := by
  simp only [findFdb, h]

theorem findStream_congr {s u : State} (h : u.tables.stream = s.tables.stream) (k : Nat) :
    findStream u k = findStream s k := by
  simp only [findStream, h]

theorem bucketOf_congr {s u : State} (h : u.dict.vals = s.dict.vals) (table key : Nat) :
    bucketOf u table key = bucketOf s table key := by
  have hc : cfg u 0x2900 5 = cfg s 0x2900 5 := by simp only [cfg, h]
  simp only [bucketOf, tblHash, hc]

theorem tblValid_fdb {s u : State} (h : u.tables.fdb = s.tables.fdb) (i : Nat) : tblValid u 0 i = tblValid s 0 i :=
  congrArg FdbEntry.valid (homeFdb_congr h i)

theorem tblValid_stream {s u : State} (h : u.tables.stream = s.tables.stream) (i : Nat) :
    tblValid u 1 i = tblValid s 1 i := congrArg StreamEntry.valid (homeStream_congr h i)

theorem freeSlot_congr {s u : State} {table : Nat} (hv : ∀ i, tblValid u table i = tblValid s table i)
    (hd : u.dict.vals = s.dict.vals) (key : Nat) : freeSlot u table key = freeSlot s table key := by
  have hb := bucketOf_congr hd table key
  simp only [freeSlot, hv, hb]

end Sys2Proof.Machine
end

section
/-! Table commands through the TBL_ registers (spec 05 R200 to R203). -/

namespace Sys2Proof.Machine
open Sys2Proof

/-! ### What a command is answered -/

/-- The state after a command that was accepted in `s`: the registers of its answer, after its effect. -/
def tblAnswered (op table : Nat) (byIndex : Bool) (index : Nat) (s : State) (r : TblAnswer × State) : State :=
  modTables (fun x => { x with
    cmd := op % 16 + table % 4 * 16 + boolNat byIndex * 64 + index % 2 ^ 24 * 256
    busy := some { op := op, result := r.1.1, index := r.1.2.1, entry := r.1.2.2
                   scan := tblScanOf op table index s } }) r.2

section Answered
variable (op table : Nat) (byIndex : Bool) (index : Nat) (s : State) (a : TblAnswer) (y : State)

theorem tblAnswered_busy : (tblAnswered op table byIndex index s (a, y)).tables.busy
    = some { op := op, result := a.1, index := a.2.1, entry := a.2.2, scan := tblScanOf op table index s } := rfl
theorem tblAnswered_fdb : (tblAnswered op table byIndex index s (a, y)).tables.fdb = y.tables.fdb := rfl
theorem tblAnswered_stream : (tblAnswered op table byIndex index s (a, y)).tables.stream = y.tables.stream := rfl
theorem tblAnswered_flush : (tblAnswered op table byIndex index s (a, y)).tables.flush = y.tables.flush := rfl
theorem tblAnswered_homeFdb (j : Nat) : homeFdb (tblAnswered op table byIndex index s (a, y)) j = homeFdb y j := rfl
theorem tblAnswered_homeStream (j : Nat) : homeStream (tblAnswered op table byIndex index s (a, y)) j = homeStream y j := rfl
theorem tblAnswered_evtStat (g : Nat) : evtStat (tblAnswered op table byIndex index s (a, y)) g = evtStat y g := rfl

end Answered

section Accept
variable {op table index : Nat} {byIndex : Bool} {run : State → TblAnswer × State} {s : State}
  (hopen : barOpen s 0 = true)
include hopen

theorem tblCommand_ignored (hb : s.tables.busy.isSome = true) : tblCommand op table byIndex index run s
    = modTables (fun x => { x with ignCnt := satAdd32 x.ignCnt 1 }) s := by
  simp [tblCommand, hopen, hb]

theorem tblCommand_listed (hb : s.tables.busy = none) (hl : ¬(op = 0 ∨ 6 < op ∨ 1 < table ∨ (table = 1 ∧ (op = 5 ∨ op = 6)))) :
    tblCommand op table byIndex index run s = tblAnswered op table byIndex index s (run (sweepAll s)) := by
  have hl' : ¬(op = 0 ∨ 6 < op ∨ 1 < table ∨ (table = 1 ∧ decide (op = 5 ∨ op = 6) = true)) := by
    simpa only [decide_eq_true_eq] using hl
  simp only [tblCommand, hopen, hb, hl', if_false]
  rfl

theorem tblCommand_unlisted (hb : s.tables.busy = none) (hl : table = 1 ∧ (op = 5 ∨ op = 6)) :
    tblCommand op table byIndex index run s = tblAnswered op table byIndex index s (tblInvalid s) := by
  have hl' : op = 0 ∨ 6 < op ∨ 1 < table ∨ (table = 1 ∧ decide (op = 5 ∨ op = 6) = true) := by
    simp only [decide_eq_true_eq]
    omega
  simp only [tblCommand, hopen, hb, hl', if_true]
  rfl

end Accept

theorem tblScanOf_none {op : Nat} (h : op ≠ 4) (table index : Nat) (s : State) : tblScanOf op table index s = none :=
  if_neg fun hs => h hs.1

/-! ### The operand is as it was written -/

theorem tblData_congr {s u : State} (h : u.tables.data = s.tables.data) (k : Nat) : tblData u k = tblData s k := by
  simp only [tblData, h]


theorem stream_sweepRun (die : Nat) (s : State) : (sweepRun die s).tables.stream = s.tables.stream := by
  unfold sweepRun
  dsimp only
  split
  · rfl
  · exact forEach_keeps (fun x : State => x.tables.stream) (fun i y => stream_putFdb ..) _ _

theorem stream_sweepAll (s : State) : (sweepAll s).tables.stream = s.tables.stream :=
  forEach_keeps (fun x : State => x.tables.stream) stream_sweepRun _ s

theorem learnClock_congr {s u : State} (hc : u.clock = s.clock) (hz : u.tables.learnZero = s.tables.learnZero) :
    learnClock u = learnClock s := by
  simp only [learnClock, hc, hz]

theorem tblData_advance (t : Nat) (s : State) (k : Nat) : tblData (advance t s) k = tblData s k :=
  tblData_congr (congrArg Tables.data (advance_tables s t)) k

section Sweeps
variable (t : Nat) (s : State)

theorem tblData_swept (k : Nat) : tblData (sweepAll (advance t s)) k = tblData s k :=
  tblData_congr ((enters_sweepAll _).data.trans (congrArg Tables.data (advance_tables s t))) k

theorem stream_swept : (sweepAll (advance t s)).tables.stream = s.tables.stream :=
  (stream_sweepAll _).trans (by rw [advance_tables])

theorem vals_swept : (sweepAll (advance t s)).dict.vals = s.dict.vals := by
  rw [(enters_sweepAll _).dict, advance_dict]

theorem learnClock_swept : learnClock (sweepAll (advance t s)) = learnClock (advance t s) :=
  learnClock_congr (enters_sweepAll _).clock (enters_sweepAll _).learnZero

theorem canonical_swept {t : Nat} {s : State} (h : Canonical s) : Canonical (sweepAll (advance t s)) :=
  ((Keeps.refl (advance t s)).sweepAll).form (canonical_advance t h)

theorem fdb_swept_wf {t : Nat} {s : State} (h : Canonical s) :
    Tab.wf FdbEntry.reset (sweepAll (advance t s)).tables.fdb = true := by
  obtain ⟨hf, -⟩ := (canonical_swept h).tables
  exact hf

end Sweeps

/-! ### Where a command finds its entry -/

section Address
variable {table index : Nat} {s : State}

theorem tblAddress_index (h : index < tblSize table) : tblAddress s table true index = .ok index := by
  simp [tblAddress, Nat.not_le.2 h]

theorem tblAddress_found {k j : Nat} (hk : operandKey table (tblData s 0) = some k) (hj : tblFind s table k = some j) :
    tblAddress s table false index = .ok j := by
  simp [tblAddress, hk, hj]

theorem tblAddress_missing {k : Nat} (hk : operandKey table (tblData s 0) = some k) (hj : tblFind s table k = none) :
    tblAddress s table false index = .error rNOT_FOUND := by
  simp [tblAddress, hk, hj]

end Address

/-! ### Writes -/

/-- The entry of the FDB that an operand spells (05 Table 5.4). -/
def operandFdb (d stamp : Nat) : FdbEntry where
  mac := bitsOf d 47 0
  fid := bitsOf d 59 48
  dest := bitsOf d 75 64
  valid := true
  static := d.testBit 81
  hit := false
  age := 0
  moveHold := false
  recent := false
  stamp := stamp

/-- The entry of the stream table that an operand spells. -/
def operandStream (d : Nat) : StreamEntry where
  mac := bitsOf d 47 0
  vid := bitsOf d 59 48
  kind := bitsOf d 60 60
  handle := bitsOf d 77 64
  valid := true

theorem tblPut_fdb (i key d : Nat) (s : State) :
    tblPut 0 i key d s = putFdb (homeOf s key) i key (operandFdb d (learnClock s)) s := rfl

theorem tblPut_stream (i key d : Nat) (s : State) :
    tblPut 1 i key d s = putStream (homeOf s key) i key (operandStream d) s := rfl

/-- The key of an operand is that of the entry it spells. -/
theorem key_operandFdb {d k : Nat} (h : operandKey 0 d = some k) (stamp : Nat) : (operandFdb d stamp).key = k := by
  exact Option.some.inj h

section Write
variable {table index k : Nat} {s : State} (hv : (tblData s 0).testBit 80 = true)
  (hk : operandKey table (tblData s 0) = some k)
include hv hk

/-- A write by key goes where its key stands, or where a new key goes. -/
theorem tblWriteCmd_key {j : Nat} (hj : tblFind s table k = some j ∨ (tblFind s table k = none ∧ freeSlot s table k = some j)) :
    tblWriteCmd table false index s = ((rOK, some j, none), tblPut table j k (tblData s 0) s) := by
  rcases hj with hj | ⟨hn, hj⟩
  · simp [tblWriteCmd, hv, hk, hj]
  · simp [tblWriteCmd, hv, hk, hn, hj]

theorem tblWriteCmd_full (hn : tblFind s table k = none) (hj : freeSlot s table k = none) :
    tblWriteCmd table false index s = ((rFULL, none, none),
      if table = 0 then raise 225 (count 0x2904 6 s) else raise 226 (count 0x2904 7 s)) := by
  simp [tblWriteCmd, hv, hk, hn, hj]

/-- An index that no entry of the key may take (05 R200). -/
theorem tblWriteCmd_bad (h : tblSize table ≤ index ∨ (∃ j, tblFind s table k = some j ∧ j ≠ index)
      ∨ (index < 4 * tblBuckets table ∧ index / 4 ≠ bucketOf s table k)
      ∨ (4 * tblBuckets table ≤ index ∧ bucketFull s table (bucketOf s table k) = false)) :
    tblWriteCmd table true index s = tblInvalid s := by
  have hbad : (decide (tblSize table ≤ index) || decide ((tblFind s table k).isSome ∧ tblFind s table k ≠ some index)
      || (decide (index < 4 * tblBuckets table) && decide (index / 4 ≠ bucketOf s table k))
      || (decide (4 * tblBuckets table ≤ index) && !bucketFull s table (bucketOf s table k))) = true := by
    simp only [Bool.or_eq_true, Bool.and_eq_true, decide_eq_true_eq, Bool.not_eq_true', or_assoc]
    refine h.imp_right (Or.imp_left ?_)
    rintro ⟨j, hj, hne⟩
    rw [hj]
    exact ⟨rfl, fun he => hne (Option.some.inj he)⟩
  simp only [tblWriteCmd, hv, hk, hbad, if_true]
  rfl

theorem tblWriteCmd_index (h1 : index < tblSize table) (h2 : tblFind s table k = none ∨ tblFind s table k = some index)
    (h3 : index < 4 * tblBuckets table → index / 4 = bucketOf s table k)
    (h4 : 4 * tblBuckets table ≤ index → bucketFull s table (bucketOf s table k) = true) :
    tblWriteCmd table true index s = ((rOK, some index, none), tblPut table index k (tblData s 0) s) := by
  have hgood : (decide (tblSize table ≤ index) || decide ((tblFind s table k).isSome ∧ tblFind s table k ≠ some index)
      || (decide (index < 4 * tblBuckets table) && decide (index / 4 ≠ bucketOf s table k))
      || (decide (4 * tblBuckets table ≤ index) && !bucketFull s table (bucketOf s table k))) = false := by
    simp only [Bool.or_eq_false_iff, Bool.and_eq_false_iff, decide_eq_false_iff_not, Bool.not_eq_false']
    refine ⟨⟨⟨Nat.not_le.2 h1, ?_⟩, ?_⟩, ?_⟩
    · rintro ⟨hs, hne⟩
      rcases h2 with h2 | h2
      · simp [h2] at hs
      · exact hne h2
    · by_cases hlt : index < 4 * tblBuckets table
      · exact .inr fun hne => hne (h3 hlt)
      · exact .inl hlt
    · by_cases hle : 4 * tblBuckets table ≤ index
      · exact .inr (h4 hle)
      · exact .inl hle
  simp only [tblWriteCmd, hv, hk, hgood, if_true]
  rfl

end Write

/-! ### Deletes -/

theorem homeStream_putStream_same {s : State} (h : Tab.wf StreamEntry.reset s.tables.stream = true) (home i key : Nat)
    (e : StreamEntry) : homeStream (putStream home i key e s) i = e := by
  unfold homeStream
  rw [stream_putStream, Tab.get_set_same _ _ h]

theorem homeStream_putStream_other {i j : Nat} (h : j ≠ i) (home key : Nat) (e : StreamEntry) (s : State) :
    homeStream (putStream home i key e s) j = homeStream s j := by
  unfold homeStream
  rw [stream_putStream, Tab.get_set_other _ _ (Ne.symm h)]

/-- A deleted entry is not valid, and every other one is as before. -/
theorem homeFdb_tblDrop {s : State} (h : Tab.wf FdbEntry.reset s.tables.fdb = true) (i : Nat) :
    (homeFdb (tblDrop 0 i s) i).valid = false ∧ ∀ m, m ≠ i → homeFdb (tblDrop 0 i s) m = homeFdb s m := by
  unfold tblDrop
  split
  · next hv => exact ⟨by simpa [tblValid] using hv, fun _ _ => rfl⟩
  · exact ⟨by rw [if_pos rfl, homeFdb_dropFdb_same h]; rfl, fun m hm => by rw [if_pos rfl, homeFdb_dropFdb_other hm]⟩

theorem homeStream_tblDrop {s : State} (h : Tab.wf StreamEntry.reset s.tables.stream = true) (i : Nat) :
    (homeStream (tblDrop 1 i s) i).valid = false ∧ ∀ m, m ≠ i → homeStream (tblDrop 1 i s) m = homeStream s m := by
  unfold tblDrop
  split
  · next hv => exact ⟨by simpa [tblValid] using hv, fun _ _ => rfl⟩
  · rw [if_neg (by decide)]
    exact ⟨congrArg StreamEntry.valid (homeStream_putStream_same h ..), fun m hm => homeStream_putStream_other hm ..⟩

/-! ### FLUSH_BY_DEST: the flags of a port -/

/-- A port is flagged at a die. -/
def flagPort (port : Nat) (m : Tab (List Nat)) (d : Nat) : Tab (List Nat) :=
  if (Tab.get [] m d).contains port then m else Tab.set [] m d (Tab.get [] m d ++ [port])

theorem flagPort_same (port : Nat) (m : Tab (List Nat)) (d : Nat) : port ∈ Tab.get [] (flagPort port m d) d := by
  unfold flagPort
  split
  · next h => simpa using h
  · rw [Tab.get_set_of_ne _ _ (by simp)]
    simp

theorem flagPort_other (port : Nat) (m : Tab (List Nat)) {d a : Nat} (h : d ≠ a) :
    Tab.get [] (flagPort port m a) d = Tab.get [] m d := by
  unfold flagPort
  split
  · rfl
  · exact Tab.get_set_other _ _ (Ne.symm h)

/-- Each die of a list is flagged, and none loses its flag. -/
theorem flagged_foldl (port d : Nat) (l : List Nat) (m : Tab (List Nat)) (h : d ∈ l ∨ port ∈ Tab.get [] m d) :
    port ∈ Tab.get [] (l.foldl (flagPort port) m) d := by
  induction l generalizing m with
  | nil => exact h.resolve_left (by simp)
  | cons a l ih =>
    refine ih _ ?_
    by_cases hd : d = a
    · subst hd
      exact .inr (flagPort_same port m d)
    · rw [flagPort_other port m hd]
      exact h.imp_left fun hm => (List.mem_cons.1 hm).resolve_left hd

theorem fdb_flagFlush (port : Nat) (s : State) : (flagFlush port s).tables.fdb = s.tables.fdb := rfl

theorem flagFlush_flags (port : Nat) {d : Nat} (hd : d < 4) (s : State) :
    (Tab.get [] (flagFlush port s).tables.flush d).contains port = true := by
  have hm : d ∈ [0, 1, 2, 3] := by
    simp only [List.mem_cons, List.not_mem_nil, or_false]
    omega
  rw [List.contains_iff_mem]
  exact flagged_foldl port d [0, 1, 2, 3] s.tables.flush (.inl hm)

/-! ### AGE_NOW -/

/-- What a visit of the ager makes of an entry. -/
def Aged (e e1 : FdbEntry) : Prop :=
  (e.static = true → e1.age = e.age ∧ e1.valid = true)
  ∧ (e.static = false ∧ e.age < 6 → e1.age = e.age + 1 ∧ e1.hit = false ∧ e1.valid = true)
  ∧ (e.static = false ∧ 6 ≤ e.age → e1 = FdbEntry.reset)

/-- The flags of a local hit go out before a visited entry changes. -/
def visitFlags (i : Nat) (s : State) : State :=
  replicate { src := homeOf s (homeFdb s i).key, dst := 0, table := 0, index := i, fdb := FdbEntry.reset
              stream := StreamEntry.reset, flagOnly := true, key := (homeFdb s i).key } s

theorem spreads_visitFlags (i : Nat) (s : State) : Spreads s (visitFlags i s) := spreads_replicate ..

/-- An entry as a visit leaves it where it stays. -/
def visitedEntry (s : State) (e : FdbEntry) : FdbEntry :=
  { e with
    hit := false
    recent := e.recent && decide (sinceStamp s e < cfgN s 0x2900 2)
    age := if e.static then e.age else e.age + 1 }

theorem agerVisit_eq (i : Nat) (s : State) : agerVisit i s =
    if !(homeFdb s i).valid then s
    else if !(homeFdb s i).static && decide (7 ≤ (visitedEntry s (homeFdb s i)).age) then
      count 0x2904 9 (dropFdb i (visitFlags i s))
    else putHome i (visitedEntry s (homeFdb s i)) (visitFlags i s) := rfl

theorem homeFdb_count (idx sub : Nat) (s : State) (j : Nat) : homeFdb (count idx sub s) j = homeFdb s j :=
  homeFdb_congr (congrArg Tables.fdb (count_only idx sub s).tables) j

section Visit
variable {i : Nat} {s : State}

theorem agerVisit_unused (hv : (homeFdb s i).valid = false) : agerVisit i s = s := by
  rw [agerVisit_eq, if_pos (by simp [hv])]

theorem agerVisit_old (hv : (homeFdb s i).valid = true) (hs : (homeFdb s i).static = false) (ha : 6 ≤ (homeFdb s i).age) :
    agerVisit i s = count 0x2904 9 (dropFdb i (visitFlags i s)) := by
  have h7 : 7 ≤ (visitedEntry s (homeFdb s i)).age := by
    simp only [visitedEntry, hs]
    exact Nat.succ_le_succ ha
  rw [agerVisit_eq, if_neg (by simp [hv]), if_pos (by simp [hs, h7])]

theorem agerVisit_young (hv : (homeFdb s i).valid = true) (h : (homeFdb s i).static = true ∨ (homeFdb s i).age < 6) :
    agerVisit i s = putHome i (visitedEntry s (homeFdb s i)) (visitFlags i s) := by
  have h7 : ((homeFdb s i).static = true) ∨ ¬7 ≤ (visitedEntry s (homeFdb s i)).age := by
    by_cases hs : (homeFdb s i).static = true
    · exact .inl hs
    · refine .inr ?_
      simp only [visitedEntry, hs]
      have := h.resolve_left hs
      simp only [Bool.false_eq_true, if_false]
      omega
  rw [agerVisit_eq, if_neg (by simp [hv]), if_neg]
  rcases h7 with h7 | h7 <;> simp [h7]

/-- A visit changes the home copy at its index alone. -/
theorem homeFdb_agerVisit_other {j : Nat} (h : j ≠ i) : homeFdb (agerVisit i s) j = homeFdb s j := by
  have hf : homeFdb (visitFlags i s) j = homeFdb s j := homeFdb_congr (spreads_visitFlags i s).fdb j
  rw [agerVisit_eq]
  split
  · rfl
  · split
    · rw [homeFdb_count, homeFdb_dropFdb_other h, hf]
    · rw [homeFdb_putHome_other h, hf]

variable (hwf : Tab.wf FdbEntry.reset s.tables.fdb = true)
include hwf

theorem homeFdb_agerVisit_old (hv : (homeFdb s i).valid = true) (hs : (homeFdb s i).static = false)
    (ha : 6 ≤ (homeFdb s i).age) : homeFdb (agerVisit i s) i = FdbEntry.reset := by
  rw [agerVisit_old hv hs ha, homeFdb_count, homeFdb_dropFdb_same (by rw [(spreads_visitFlags i s).fdb]; exact hwf)]

theorem homeFdb_agerVisit_young (hv : (homeFdb s i).valid = true)
    (h : (homeFdb s i).static = true ∨ (homeFdb s i).age < 6) :
    homeFdb (agerVisit i s) i = visitedEntry s (homeFdb s i) := by
  rw [agerVisit_young hv h, homeFdb_putHome_same (by rw [(spreads_visitFlags i s).fdb]; exact hwf)]

theorem aged_agerVisit (hv : (homeFdb s i).valid = true) : Aged (homeFdb s i) (homeFdb (agerVisit i s) i) := by
  refine ⟨fun hs => ?_, fun ⟨hs, ha⟩ => ?_, fun ⟨hs, ha⟩ => homeFdb_agerVisit_old hwf hv hs ha⟩
  · rw [homeFdb_agerVisit_young hwf hv (.inl hs)]
    exact ⟨if_pos hs, hv⟩
  · rw [homeFdb_agerVisit_young hwf hv (.inr ha)]
    exact ⟨if_neg (by simp [hs]), rfl, hv⟩

theorem fdb_agerVisit_wf : Tab.wf FdbEntry.reset (agerVisit i s).tables.fdb = true := by
  have hf : Tab.wf FdbEntry.reset (visitFlags i s).tables.fdb = true := by
    rw [(spreads_visitFlags i s).fdb]
    exact hwf
  rw [agerVisit_eq]
  split
  · exact hwf
  · split
    · rw [(count_only ..).tables, fdb_dropFdb]
      exact Tab.wf_set _ _ hf
    · rw [fdb_putHome]
      exact Tab.wf_set _ _ hf

end Visit

/-- Visits of different entries age each of them once, and leave the others. -/
theorem aged_visits {l : List Nat} (hl : l.Nodup) {s : State} (hwf : Tab.wf FdbEntry.reset s.tables.fdb = true) (j : Nat) :
    (j ∉ l → homeFdb (forEach l agerVisit s) j = homeFdb s j)
    ∧ (j ∈ l → (homeFdb s j).valid = true → Aged (homeFdb s j) (homeFdb (forEach l agerVisit s) j)) := by
  induction l generalizing s with
  | nil => exact ⟨fun _ => rfl, fun h => absurd h (by simp)⟩
  | cons a l ih =>
    obtain ⟨ha, hl⟩ := List.nodup_cons.1 hl
    obtain ⟨ih1, ih2⟩ := ih hl (fdb_agerVisit_wf (i := a) hwf)
    by_cases hj : j = a
    · subst hj
      refine ⟨fun h => absurd (List.mem_cons_self ..) h, fun _ hv => ?_⟩
      have hrest : homeFdb (forEach (j :: l) agerVisit s) j = homeFdb (agerVisit j s) j := ih1 ha
      rw [hrest]
      exact aged_agerVisit hwf hv
    · have hsame : homeFdb (agerVisit a s) j = homeFdb s j := homeFdb_agerVisit_other hj
      refine ⟨fun h => (ih1 fun hm => h (List.mem_cons_of_mem _ hm)).trans hsame, fun h hv => ?_⟩
      have hm := (List.mem_cons.1 h).resolve_left hj
      have haged := ih2 hm (by rw [hsame]; exact hv)
      rw [hsame] at haged
      exact haged

/-- The keys of a canonical map differ. -/
theorem nodup_keys {α : Type} [DecidableEq α] {d : α} {t : Tab α} (h : Tab.wf d t = true) : (t.map (·.1)).Nodup := by
  induction t with
  | nil => exact List.nodup_nil
  | cons e t ih =>
    obtain ⟨-, hlt, ht⟩ := Tab.wf_cons.1 h
    refine List.nodup_cons.2 ⟨fun hm => ?_, ih ht⟩
    obtain ⟨x, hx, hk⟩ := List.mem_map.1 hm
    replace hk : x.1 = e.1 := hk
    have hlt' := of_decide_eq_true (List.all_eq_true.1 hlt x hx)
    omega

/-- A valid entry is listed. -/
theorem mem_of_valid {s : State} {j : Nat} (h : (homeFdb s j).valid = true) : j ∈ s.tables.fdb.map (·.1) := by
  have hne : Tab.get FdbEntry.reset s.tables.fdb j ≠ FdbEntry.reset := fun he => by
    have hv : (homeFdb s j).valid = FdbEntry.reset.valid := congrArg FdbEntry.valid he
    rw [h] at hv
    exact Bool.noConfusion hv
  exact List.mem_map.2 ⟨_, Tab.mem_of_get_ne hne, rfl⟩

/-! ### The end of a command -/

/-- The registers as a command that has ended leaves them. -/
def tblEnded (b : TblBusy) (s : State) : State :=
  modTables (fun x => { x with
    busy := none
    stat := b.result * 16 + (b.index.getD (x.stat / 256)) * 256
    data := match b.entry with
      | none => x.data
      | some e => (List.range 4).foldl (fun m i => Tab.set 0#32 m i (BitVec.ofNat 32 (e / 2 ^ (32 * i)))) x.data }) s

theorem tblComplete_eq {s : State} {b : TblBusy} (h : (scanRun s).tables.busy = some b) :
    tblComplete s = if !tblSettled (scanRun s) b then scanRun s else tblEnded b (scanRun s) := by
  unfold tblComplete
  simp only [h] <;> rfl

/-- The words of an entry stand in TBL_DATA0 to 3. -/
theorem words_foldl (f : Nat → Word32) {m : Tab Word32} (h : Tab.wf 0#32 m = true) {i n : Nat} (hi : i < n) :
    Tab.get 0#32 ((List.range n).foldl (fun m i => Tab.set 0#32 m i (f i)) m) i = f i
      ∧ Tab.wf 0#32 ((List.range n).foldl (fun m i => Tab.set 0#32 m i (f i)) m) = true := by
  have hwf : ∀ k, Tab.wf 0#32 ((List.range k).foldl (fun m i => Tab.set 0#32 m i (f i)) m) = true := by
    intro k
    induction k with
    | zero => exact h
    | succ k ih =>
      rw [List.range_succ, List.foldl_append]
      exact Tab.wf_set _ _ ih
  refine ⟨?_, hwf n⟩
  induction n with
  | zero => exact absurd hi (Nat.not_lt_zero i)
  | succ n ih =>
    rw [List.range_succ, List.foldl_append]
    by_cases hn : i = n
    · subst hn
      exact Tab.get_set_same _ _ (hwf i)
    · exact (Tab.get_set_other _ _ (Ne.symm hn)).trans (ih (by omega))

theorem data_tblEnded {s : State} (h : Tab.wf 0#32 s.tables.data = true) (b : TblBusy) :
    (∀ e i, b.entry = some e → i < 4 → Tab.get 0#32 (tblEnded b s).tables.data i = BitVec.ofNat 32 (e / 2 ^ (32 * i)))
    ∧ (b.entry = none → (tblEnded b s).tables.data = s.tables.data) := by
  refine ⟨fun e i he hi => ?_, fun he => ?_⟩
  · have hd : (tblEnded b s).tables.data = (List.range 4).foldl (fun m i =>
        Tab.set 0#32 m i (BitVec.ofNat 32 (e / 2 ^ (32 * i)))) s.tables.data := by
      simp only [tblEnded, he, modTables_tables]
    rw [hd]
    exact (words_foldl (fun i => BitVec.ofNat 32 (e / 2 ^ (32 * i))) h hi).1
  · simp only [tblEnded, he, modTables_tables]

/-- How far the scan of a command has come at a clock. -/
def scanReach (c : TblScan) (clock : Nat) : Nat :=
  min (tblPlaces c.table) (placeOf c.table c.from_ + placesIn c.since clock)

/-- The command as its scan leaves it. -/
def scanned (s : State) (b : TblBusy) (c : TblScan) : TblBusy :=
  match scanHit s c (scanReach c s.clock) with
  | some e => { b with result := 0, index := some e.1, entry := some e.2, scan := none }
  | none => if scanReach c s.clock = tblPlaces c.table then { b with result := 1, scan := none }
    else { b with scan := some { c with place := max c.place (scanReach c s.clock) } }

theorem scanRun_scanning {s : State} {b : TblBusy} {c : TblScan} (hb : s.tables.busy = some b) (hs : b.scan = some c) :
    scanRun s = modTables (fun x => { x with busy := some (scanned s b c) }) s := by
  unfold scanRun
  simp only [hb, hs] <;> rfl

theorem scanHit_congr {s u : State} (h : u.tables = s.tables) (c : TblScan) (upTo : Nat) :
    scanHit u c upTo = scanHit s c upTo := by
  simp only [scanHit, tblEntries, h]

theorem tblSettled_congr {s u : State} (h : u.tables = s.tables) (b : TblBusy) : tblSettled u b = tblSettled s b := by
  simp only [tblSettled, h]

end Sys2Proof.Machine

namespace Sys2Proof
open Machine

section Commands
variable {t op table i : Nat} {b : Bool} {s : State} (hopen : barOpen s 0 = true)
include hopen

/-- A command that is listed and accepted: its effect is that of its run after the sweeps went on. -/
theorem tblCommand_listed_advance (hb : s.tables.busy = none)
    (hl : ¬(op = 0 ∨ 6 < op ∨ 1 < table ∨ (table = 1 ∧ (op = 5 ∨ op = 6)))) (run : State → TblAnswer × State) :
    tblCommand op table b i run (advance t s) = tblAnswered op table b i (advance t s) (run (sweepAll (advance t s))) :=
  tblCommand_listed (by rwa [barOpen_advance]) (by rwa [advance_tables]) hl

theorem tblIgnored_runs {mk : Nat → Nat → Bool → Nat → Instr} (run : State → TblAnswer × State)
    (hx : exec (mk t table b i) s = .next (tblCommand op table b i run (advance t s))) (hb : s.tables.busy.isSome = true) :
    Runs (mk t table b i) s (fun u =>
      u = { advance t s with tables := { s.tables with ignCnt := satAdd32 s.tables.ignCnt 1 } }) := by
  refine ⟨_, hx, ?_⟩
  rw [tblCommand_ignored (by rwa [barOpen_advance]) (by rwa [advance_tables])]
  unfold modTables
  rw [advance_tables]

end Commands

theorem tblSettled_scanEnded {s : State} {b : TblBusy} (hop : b.op = 4) (hs : b.scan = none) : tblSettled s b = true := by
  simp only [tblSettled, hs, hop]
  split
  · next h => exact absurd h (by simp)
  · split <;> rfl

/-! ### Each command's run, in the state the sweeps have come to -/

section Runs
variable {t i tb k : Nat} {s : State}

theorem tblRun_read (b : Bool) (x : State) : tblRun 1 tb b i x = tblReadCmd tb b i x := congrFun (if_pos rfl) x

theorem tblRun_write (b : Bool) (x : State) : tblRun 2 tb b i x = tblWriteCmd tb b i x :=
  congrFun ((if_neg (by decide)).trans (if_pos rfl)) x

theorem tblRun_delete (b : Bool) (x : State) : tblRun 3 tb b i x = tblDeleteCmd tb b i x :=
  congrFun ((if_neg (by decide)).trans ((if_neg (by decide)).trans (if_pos rfl))) x

theorem tblRun_search (b : Bool) (x : State) : tblRun 4 tb b i x = tblSearchCmd tb i x :=
  congrFun ((if_neg (by decide)).trans ((if_neg (by decide)).trans ((if_neg (by decide)).trans (if_pos rfl)))) x

theorem tblRun_ageNow (b : Bool) (x : State) : tblRun 6 tb b i x
    = ((rOK, none, none), forEach (x.tables.fdb.map (·.1)) agerVisit x) := by
  have h : tblRun 6 tb b i = ageNowCmd := (if_neg (by decide)).trans ((if_neg (by decide)).trans ((if_neg (by decide)).trans
    ((if_neg (by decide)).trans ((if_neg (by decide)).trans (if_pos rfl)))))
  rw [h, ageNowCmd]

theorem tblRun_readIndex (hi : i < tblSize tb) (x : State) :
    tblRun 1 tb true i x = ((rOK, some i, some (tblBits x tb i)), x) := by
  rw [tblRun_read, tblReadCmd, tblAddress_index hi]

theorem tblRun_readKey (hk : operandKey tb (tblData s 0) = some k) {x : State} (hd : tblData x 0 = tblData s 0) :
    (∀ j, tblFind x tb k = some j → tblRun 1 tb false i x = ((rOK, some j, some (tblBits x tb j)), x))
    ∧ (tblFind x tb k = none → tblRun 1 tb false i x = ((rNOT_FOUND, none, none), x)) := by
  rw [← hd] at hk
  refine ⟨fun j hj => ?_, fun hn => ?_⟩
  · rw [tblRun_read, tblReadCmd, tblAddress_found hk hj]
  · rw [tblRun_read, tblReadCmd, tblAddress_missing hk hn]

theorem tblFind_fdb (x : State) (k : Nat) : tblFind x 0 k = findFdb x k := if_pos rfl
theorem tblFind_stream (x : State) (k : Nat) : tblFind x 1 k = findStream x k := if_neg (by decide)

theorem tblRun_deleteIndex (hi : i < tblSize tb) (x : State) :
    tblRun 3 tb true i x = ((rOK, some i, none), tblDrop tb i x) := by
  rw [tblRun_delete, tblDeleteCmd, tblAddress_index hi]

theorem tblRun_flush (tb : Nat) (b : Bool) (x : State) : tblRun 5 tb b i x
    = if 511 < i then ((rINVALID, none, none), x) else ((rOK, none, none), flagFlush i x) := by
  have h : tblRun 5 tb b i = flushCmd i := (if_neg (by decide)).trans ((if_neg (by decide)).trans ((if_neg (by decide)).trans
    ((if_neg (by decide)).trans (if_pos rfl))))
  rw [h, flushCmd, tblInvalid]

end Runs

theorem scan_of_search {tb i : Nat} (htb : tb < 2) (hi : i < tblSize tb) (t : Nat) (s : State) :
    tblScanOf 4 tb i (advance t s) = some {
      table := tb, from_ := i, mask := tblData s 4, want := tblData s 0 &&& tblData s 4
      since := (advance t s).clock, place := placeOf tb i } := by
  rw [tblScanOf, if_pos ⟨rfl, by omega, hi⟩, tblData_advance, tblData_advance]

/-! ### The obligation, command by command -/

section Clauses
variable {t i tb : Nat} {s : State} (ho : barOpen s 0 = true) (hb : s.tables.busy = none)
include ho hb

theorem read_by_index (htb : tb < 2) (hi : i < tblSize tb) : Runs (.tblRead t tb true i) s (fun u =>
    u.tables.busy = some { op := 1, result := 0, index := some i, entry := some (tblBits (sweepAll (advance t s)) tb i)
                           scan := none }
    ∧ u.tables.fdb = (sweepAll (advance t s)).tables.fdb ∧ u.tables.stream = s.tables.stream) := by
  refine ⟨_, congrArg Host.Outcome.next (tblCommand_listed_advance ho hb (by omega) _), ?_⟩
  beta_reduce
  rw [tblRun_readIndex hi, tblAnswered_busy, tblAnswered_fdb, tblAnswered_stream, tblScanOf_none (by decide)]
  exact ⟨rfl, rfl, stream_swept t s⟩

theorem read_by_key {k : Nat} (htb : tb < 2) (hk : operandKey tb (tblData s 0) = some k) :
    Runs (.tblRead t tb false i) s (fun u => u.tables.fdb = (sweepAll (advance t s)).tables.fdb
      ∧ u.tables.stream = s.tables.stream
      ∧ (∀ j, tblFind (sweepAll (advance t s)) tb k = some j → u.tables.busy = some {
          op := 1, result := 0, index := some j, entry := some (tblBits (sweepAll (advance t s)) tb j), scan := none })
      ∧ (tblFind (sweepAll (advance t s)) tb k = none →
          u.tables.busy = some { op := 1, result := 1, index := none, entry := none, scan := none })) := by
  refine ⟨_, congrArg Host.Outcome.next (tblCommand_listed_advance ho hb (by omega) _), ?_⟩
  beta_reduce
  obtain ⟨hfound, hmissing⟩ := tblRun_readKey (i := i) hk (tblData_swept t s 0)
  cases hf : tblFind (sweepAll (advance t s)) tb k with
  | none =>
    rw [hmissing hf, tblAnswered_busy, tblAnswered_fdb, tblAnswered_stream, tblScanOf_none (by decide)]
    refine ⟨rfl, stream_swept t s, fun j hj => ?_, fun _ => rfl⟩
    exact absurd hj (by simp)
  | some j =>
    rw [hfound j hf, tblAnswered_busy, tblAnswered_fdb, tblAnswered_stream, tblScanOf_none (by decide)]
    refine ⟨rfl, stream_swept t s, fun m hm => ?_, fun hm => ?_⟩
    · obtain rfl := Option.some.inj hm
      rfl
    · exact absurd hm (by simp)

section Write
variable {j k : Nat} (hc : Canonical s) (hv : (tblData s 0).testBit 80 = true)
include hc hv

theorem write_by_key (hk : operandKey 0 (tblData s 0) = some k)
    (hj : findFdb (sweepAll (advance t s)) k = some j
      ∨ (findFdb (sweepAll (advance t s)) k = none ∧ freeSlot (sweepAll (advance t s)) 0 k = some j)) :
    Runs (.tblWrite t 0 false i) s (fun u =>
      u.tables.busy = some { op := 2, result := 0, index := some j, entry := none, scan := none }
      ∧ homeFdb u j = operandFdb (tblData s 0) (learnClock (advance t s))
      ∧ ∀ m, m ≠ j → homeFdb u m = homeFdb (sweepAll (advance t s)) m) := by
  refine ⟨_, congrArg Host.Outcome.next (tblCommand_listed_advance ho hb (by omega) _), ?_⟩
  beta_reduce
  have hrun : tblRun 2 0 false i (sweepAll (advance t s)) = ((rOK, some j, none),
      tblPut 0 j k (tblData s 0) (sweepAll (advance t s))) := by
    rw [← tblFind_fdb] at hj
    rw [tblRun_write, tblWriteCmd_key (by rwa [tblData_swept]) (by rwa [tblData_swept]) hj, tblData_swept]
  rw [hrun, tblPut_fdb, learnClock_swept, tblAnswered_busy, tblAnswered_homeFdb, tblScanOf_none (by decide)]
  refine ⟨rfl, homeFdb_putFdb_same (fdb_swept_wf hc) .., fun m hm => ?_⟩
  rw [tblAnswered_homeFdb]
  exact homeFdb_putFdb_other hm ..

theorem write_stream_by_key (hk : operandKey 1 (tblData s 0) = some k)
    (hj : findStream s k = some j ∨ (findStream s k = none ∧ freeSlot s 1 k = some j)) :
    Runs (.tblWrite t 1 false i) s (fun u =>
      u.tables.busy = some { op := 2, result := 0, index := some j, entry := none, scan := none }
      ∧ homeStream u j = operandStream (tblData s 0) ∧ ∀ m, m ≠ j → homeStream u m = homeStream s m) := by
  refine ⟨_, congrArg Host.Outcome.next (tblCommand_listed_advance ho hb (by omega) _), ?_⟩
  beta_reduce
  have hstream := stream_swept t s
  have hfree : freeSlot (sweepAll (advance t s)) 1 k = freeSlot s 1 k :=
    freeSlot_congr (tblValid_stream hstream) (vals_swept t s) k
  have hrun : tblRun 2 1 false i (sweepAll (advance t s)) = ((rOK, some j, none),
      tblPut 1 j k (tblData s 0) (sweepAll (advance t s))) := by
    rw [← hfree, ← findStream_congr hstream, ← tblFind_stream] at hj
    rw [tblRun_write, tblWriteCmd_key (by rwa [tblData_swept]) (by rwa [tblData_swept]) hj, tblData_swept]
  obtain ⟨-, hwf, -⟩ := (canonical_swept hc (t := t)).tables
  rw [hrun, tblPut_stream, tblAnswered_busy, tblAnswered_homeStream, tblScanOf_none (by decide)]
  refine ⟨rfl, homeStream_putStream_same hwf .., fun m hm => ?_⟩
  rw [tblAnswered_homeStream, homeStream_putStream_other hm, homeStream_congr hstream m]

theorem write_by_index (hk : operandKey 0 (tblData s 0) = some k) : Runs (.tblWrite t 0 true i) s (fun u =>
    (fdbSize ≤ i ∨ (∃ j, findFdb (sweepAll (advance t s)) k = some j ∧ j ≠ i)
        ∨ (i < 1048576 ∧ i / 4 ≠ bucketOf s 0 k)
        ∨ (1048576 ≤ i ∧ bucketFull (sweepAll (advance t s)) 0 (bucketOf s 0 k) = false) →
      u.tables.busy = some { op := 2, result := 3, index := none, entry := none, scan := none }
      ∧ u.tables.fdb = (sweepAll (advance t s)).tables.fdb)
    ∧ (i < fdbSize → (findFdb (sweepAll (advance t s)) k = none ∨ findFdb (sweepAll (advance t s)) k = some i) →
        (i < 1048576 → i / 4 = bucketOf s 0 k) →
        (1048576 ≤ i → bucketFull (sweepAll (advance t s)) 0 (bucketOf s 0 k) = true) →
      u.tables.busy = some { op := 2, result := 0, index := some i, entry := none, scan := none }
      ∧ (homeFdb u i).key = k ∧ (homeFdb u i).dest = bitsOf (tblData s 0) 75 64 ∧ (homeFdb u i).valid = true
      ∧ ∀ m, m ≠ i → homeFdb u m = homeFdb (sweepAll (advance t s)) m)) := by
  refine ⟨_, congrArg Host.Outcome.next (tblCommand_listed_advance ho hb (by omega) _), ?_⟩
  beta_reduce
  have hv' : (tblData (sweepAll (advance t s)) 0).testBit 80 = true := by rwa [tblData_swept]
  have hk' : operandKey 0 (tblData (sweepAll (advance t s)) 0) = some k := by rwa [tblData_swept]
  rw [tblRun_write, ← bucketOf_congr (vals_swept t s) 0 k, ← tblFind_fdb]
  refine ⟨fun hbad => ?_, fun h1 h2 h3 h4 => ?_⟩
  · rw [tblWriteCmd_bad hv' hk' hbad, tblInvalid, tblAnswered_busy, tblAnswered_fdb, tblScanOf_none (by decide)]
    exact ⟨rfl, rfl⟩
  · have hsame := homeFdb_putFdb_same (fdb_swept_wf hc (t := t)) (homeOf (sweepAll (advance t s)) k) i k
      (operandFdb (tblData s 0) (learnClock (sweepAll (advance t s))))
    rw [tblWriteCmd_index hv' hk' h1 h2 h3 h4, tblPut_fdb, tblData_swept, tblAnswered_busy, tblAnswered_homeFdb, hsame,
      tblScanOf_none (by decide)]
    refine ⟨rfl, key_operandFdb hk _, rfl, rfl, fun m hm => ?_⟩
    rw [tblAnswered_homeFdb]
    exact homeFdb_putFdb_other hm ..

omit hc in
theorem write_full (hk : operandKey 0 (tblData s 0) = some k) (hf : findFdb (sweepAll (advance t s)) k = none)
    (hfree : freeSlot (sweepAll (advance t s)) 0 k = none) : Runs (.tblWrite t 0 false i) s (fun u =>
      u.tables.fdb = (sweepAll (advance t s)).tables.fdb
      ∧ u.tables.busy = some { op := 2, result := 2, index := none, entry := none, scan := none }
      ∧ (evtStat u 7).testBit 1 = true) := by
  refine ⟨_, congrArg Host.Outcome.next (tblCommand_listed_advance ho hb (by omega) _), ?_⟩
  beta_reduce
  have hrun : tblRun 2 0 false i (sweepAll (advance t s)) = ((rFULL, none, none),
      raise 225 (count 0x2904 6 (sweepAll (advance t s)))) := by
    rw [← tblFind_fdb] at hf
    rw [tblRun_write, tblWriteCmd_full (by rwa [tblData_swept]) (by rwa [tblData_swept]) hf hfree, if_pos rfl]
  rw [hrun, tblAnswered_busy, tblAnswered_fdb, tblAnswered_evtStat, tblScanOf_none (by decide), raise_tables,
    (count_only ..).tables]
  exact ⟨rfl, rfl, raise_sets (n := 225) rfl _⟩

end Write

theorem delete_by_index (hc : Canonical s) (hi : i < fdbSize) : Runs (.tblDelete t 0 true i) s (fun u =>
    (homeFdb u i).valid = false
    ∧ u.tables.busy = some { op := 3, result := 0, index := some i, entry := none, scan := none }
    ∧ ∀ m, m ≠ i → homeFdb u m = homeFdb (sweepAll (advance t s)) m) := by
  refine ⟨_, congrArg Host.Outcome.next (tblCommand_listed_advance ho hb (by omega) _), ?_⟩
  beta_reduce
  obtain ⟨h1, h2⟩ := homeFdb_tblDrop (fdb_swept_wf hc (t := t)) i
  rw [tblRun_deleteIndex (tb := 0) hi, tblAnswered_busy, tblAnswered_homeFdb, tblScanOf_none (by decide)]
  refine ⟨h1, rfl, fun m hm => ?_⟩
  rw [tblAnswered_homeFdb, h2 m hm]

theorem delete_stream_by_index (hc : Canonical s) (hi : i < streamSize) : Runs (.tblDelete t 1 true i) s (fun u =>
    (homeStream u i).valid = false
    ∧ u.tables.busy = some { op := 3, result := 0, index := some i, entry := none, scan := none }
    ∧ ∀ m, m ≠ i → homeStream u m = homeStream s m) := by
  refine ⟨_, congrArg Host.Outcome.next (tblCommand_listed_advance ho hb (by omega) _), ?_⟩
  beta_reduce
  obtain ⟨-, hwf, -⟩ := (canonical_swept hc (t := t)).tables
  obtain ⟨h1, h2⟩ := homeStream_tblDrop hwf i
  rw [tblRun_deleteIndex (tb := 1) hi, tblAnswered_busy, tblAnswered_homeStream, tblScanOf_none (by decide)]
  refine ⟨h1, rfl, fun m hm => ?_⟩
  rw [tblAnswered_homeStream, h2 m hm, homeStream_congr (stream_swept t s) m]

theorem search_starts (htb : tb < 2) (hi : i < tblSize tb) : Runs (.tblSearch t tb true i) s (fun u =>
    u.tables.fdb = (sweepAll (advance t s)).tables.fdb ∧ u.tables.stream = s.tables.stream
    ∧ u.tables.busy = some { op := 4, result := 0, index := none, entry := none, scan := some {
        table := tb, from_ := i, mask := tblData s 4, want := tblData s 0 &&& tblData s 4
        since := (advance t s).clock, place := placeOf tb i } }) := by
  refine ⟨_, congrArg Host.Outcome.next (tblCommand_listed_advance ho hb (by omega) _), ?_⟩
  beta_reduce
  rw [tblRun_search, tblSearchCmd, if_neg (Nat.not_le.2 hi), tblAnswered_busy, tblAnswered_fdb,
    tblAnswered_stream, scan_of_search htb hi]
  exact ⟨rfl, stream_swept t s, rfl⟩

theorem flush_by_dest (b : Bool) : Runs (.flushByDest t 0 b i) s (fun u =>
    u.tables.fdb = (sweepAll (advance t s)).tables.fdb
    ∧ (i < 512 → u.tables.busy = some { op := 5, result := 0, index := none, entry := none, scan := none }
        ∧ ∀ d, d < 4 → (Tab.get [] u.tables.flush d).contains i = true)
    ∧ (512 ≤ i → u.tables.busy = some { op := 5, result := 3, index := none, entry := none, scan := none })) := by
  refine ⟨_, congrArg Host.Outcome.next (tblCommand_listed_advance ho hb (by omega) _), ?_⟩
  beta_reduce
  rw [tblRun_flush]
  by_cases hi : 511 < i
  · rw [if_pos hi, tblAnswered_fdb, tblAnswered_busy, tblScanOf_none (by decide)]
    exact ⟨rfl, fun h => absurd h (by omega), fun _ => rfl⟩
  · rw [if_neg hi, tblAnswered_fdb, tblAnswered_busy, tblAnswered_flush, tblScanOf_none (by decide)]
    exact ⟨fdb_flagFlush .., fun _ => ⟨rfl, fun d hd => flagFlush_flags i hd _⟩, fun h => absurd h (by omega)⟩

theorem flush_by_dest_stream (b : Bool) : Runs (.flushByDest t 1 b i) s (fun u =>
    u.tables.fdb = s.tables.fdb ∧ u.tables.flush = s.tables.flush
    ∧ u.tables.busy = some { op := 5, result := 3, index := none, entry := none, scan := none }) := by
  refine ⟨_, congrArg Host.Outcome.next (tblCommand_unlisted (by rwa [barOpen_advance]) (by rwa [advance_tables])
    ⟨rfl, .inl rfl⟩), ?_⟩
  beta_reduce
  rw [tblInvalid, tblAnswered_fdb, tblAnswered_flush, tblAnswered_busy, tblScanOf_none (by decide), advance_tables]
  exact ⟨rfl, rfl, rfl⟩

theorem age_now (b : Bool) (hc : Canonical s) : Runs (.ageNow t 0 b i) s (fun u =>
    u.tables.busy = some { op := 6, result := 0, index := none, entry := none, scan := none }
    ∧ ∀ j, (homeFdb (sweepAll (advance t s)) j).valid = true → Aged (homeFdb (sweepAll (advance t s)) j) (homeFdb u j)) := by
  refine ⟨_, congrArg Host.Outcome.next (tblCommand_listed_advance ho hb (by omega) _), ?_⟩
  beta_reduce
  rw [tblRun_ageNow, tblAnswered_busy, tblScanOf_none (by decide)]
  refine ⟨rfl, fun j hv => ?_⟩
  rw [tblAnswered_homeFdb]
  have hwf := fdb_swept_wf hc (t := t)
  exact (aged_visits (nodup_keys hwf) hwf j).2 (mem_of_valid hv) hv

end Clauses

section Complete
variable {t : Nat} {b : TblBusy} {s : State} (hb : s.tables.busy = some b)
include hb

theorem complete_idle (hs : b.scan = none) : tblComplete (advance t s)
    = if !tblSettled s b then advance t s else tblEnded b (advance t s) := by
  have hidle : scanRun (advance t s) = advance t s := scanRun_idle fun c hc => by
    rw [advance_tables, hb] at hc
    rw [← Option.some.inj hc, hs]
  rw [tblComplete_eq (b := b) (by rw [hidle, advance_tables, hb]), hidle, tblSettled_congr (advance_tables s t)]

theorem complete_settled (hs : b.scan = none) (hset : tblSettled s b = true) (hwf : Tab.wf 0#32 s.tables.data = true) :
    Runs (.tblCommandComplete t) s (fun u => u.tables.busy = none
      ∧ u.tables.stat = b.result * 16 + (b.index.getD (s.tables.stat / 256)) * 256
      ∧ (∀ e i, b.entry = some e → i < 4 → Tab.get 0#32 u.tables.data i = BitVec.ofNat 32 (e / 2 ^ (32 * i)))
      ∧ (b.entry = none → u.tables.data = s.tables.data)) := by
  refine ⟨_, congrArg Host.Outcome.next (complete_idle hb hs), ?_⟩
  rw [hset, if_neg (by simp)]
  have hdata := data_tblEnded (s := advance t s) (by rwa [advance_tables]) b
  rw [advance_tables] at hdata
  refine ⟨rfl, ?_, hdata⟩
  show b.result * 16 + (b.index.getD ((advance t s).tables.stat / 256)) * 256 = _
  rw [advance_tables]

theorem complete_waits (hs : b.scan = none) (hset : tblSettled s b = false) :
    Runs (.tblCommandComplete t) s (fun u => u = advance t s) := by
  refine ⟨_, congrArg Host.Outcome.next (complete_idle hb hs), ?_⟩
  rw [hset]
  rfl

section Scan
variable {c : TblScan} (hs : b.scan = some c)
include hs

/-- A command whose scan runs goes on as its scan has come to the clock. -/
theorem complete_scanning {b1 : TblBusy} (hscan : scanned (advance t s) b c = b1) :
    tblComplete (advance t s)
      = if !tblSettled (modTables (fun x => { x with busy := some b1 }) (advance t s)) b1 then
          modTables (fun x => { x with busy := some b1 }) (advance t s)
        else tblEnded b1 (modTables (fun x => { x with busy := some b1 }) (advance t s)) := by
  have hrun := scanRun_scanning (s := advance t s) (by rw [advance_tables]; exact hb) hs
  rw [hscan] at hrun
  rw [tblComplete_eq (b := b1) (by rw [hrun]; rfl), hrun]

theorem complete_scan_ended (hop : b.op = 4) {b1 : TblBusy} (hscan : scanned (advance t s) b c = b1)
    (hop1 : b1.op = b.op) (hs1 : b1.scan = none) : exec (.tblCommandComplete t) s
      = .next (tblEnded b1 (modTables (fun x => { x with busy := some b1 }) (advance t s))) := by
  refine congrArg Host.Outcome.next ((complete_scanning hb hs hscan).trans ?_)
  rw [tblSettled_scanEnded (hop1.trans hop) hs1]
  rfl

theorem complete_scan_goes_on {b1 : TblBusy} (hscan : scanned (advance t s) b c = b1) (hs1 : b1.scan.isSome = true) :
    exec (.tblCommandComplete t) s = .next (modTables (fun x => { x with busy := some b1 }) (advance t s)) := by
  refine congrArg Host.Outcome.next ((complete_scanning hb hs hscan).trans (if_pos ?_))
  simp [tblSettled, hs1]

theorem complete_scan (hop : b.op = 4) (hwf : Tab.wf 0#32 s.tables.data = true) :
    Runs (.tblCommandComplete t) s (fun u => u.tables.fdb = s.tables.fdb ∧ u.tables.stream = s.tables.stream
      ∧ (∀ e, scanHit s c (scanReach c (advance t s).clock) = some e → u.tables.busy = none ∧ u.tables.stat = e.1 * 256
        ∧ ∀ i, i < 4 → Tab.get 0#32 u.tables.data i = BitVec.ofNat 32 (e.2 / 2 ^ (32 * i)))
      ∧ (scanHit s c (scanReach c (advance t s).clock) = none → scanReach c (advance t s).clock = tblPlaces c.table →
        b.index = none → b.entry = none →
        u.tables.busy = none ∧ u.tables.stat = 16 + s.tables.stat / 256 * 256 ∧ u.tables.data = s.tables.data)
      ∧ (scanHit s c (scanReach c (advance t s).clock) = none → scanReach c (advance t s).clock ≠ tblPlaces c.table →
        u.tables.stat = s.tables.stat ∧ u.tables.busy = some { b with
          scan := some { c with place := max c.place (scanReach c (advance t s).clock) } })) := by
  have hfdb : (advance t s).tables.fdb = s.tables.fdb := congrArg Tables.fdb (advance_tables s t)
  have hstream : (advance t s).tables.stream = s.tables.stream := congrArg Tables.stream (advance_tables s t)
  have hstat : (advance t s).tables.stat = s.tables.stat := congrArg Tables.stat (advance_tables s t)
  have hwf' : Tab.wf 0#32 (advance t s).tables.data = true := by rwa [advance_tables]
  have hhit' := scanHit_congr (advance_tables s t) c (scanReach c (advance t s).clock)
  rcases hhit : scanHit s c (scanReach c (advance t s).clock) with _ | e
  · by_cases hend : scanReach c (advance t s).clock = tblPlaces c.table
    · have hscan : scanned (advance t s) b c = { b with result := 1, scan := none } := by
        simp only [scanned, hhit'.trans hhit, if_pos hend]
      refine ⟨_, complete_scan_ended hb hs hop hscan rfl rfl, hfdb, hstream, fun e he => absurd he (by simp),
        fun _ _ hi he => ⟨rfl, ?_, ?_⟩, fun _ hne => absurd hend hne⟩
      · show 1 * 16 + (b.index.getD ((advance t s).tables.stat / 256)) * 256 = _
        rw [hi, hstat]
        rfl
      · rw [(data_tblEnded (by exact hwf') { b with result := 1, scan := none }).2 he]
        exact (congrArg Tables.data (advance_tables s t) :)
    · have hscan : scanned (advance t s) b c = { b with
          scan := some { c with place := max c.place (scanReach c (advance t s).clock) } } := by
        simp only [scanned, hhit'.trans hhit, if_neg hend]
      exact ⟨_, complete_scan_goes_on hb hs hscan rfl, hfdb, hstream, fun e he => absurd he (by simp),
        fun _ h => absurd h hend, fun _ _ => ⟨hstat, rfl⟩⟩
  · have hscan : scanned (advance t s) b c
        = { b with result := 0, index := some e.1, entry := some e.2, scan := none } := by
      simp only [scanned, hhit'.trans hhit]
    refine ⟨_, complete_scan_ended hb hs hop hscan rfl rfl, hfdb, hstream, fun e1 he => ?_, fun h => absurd h (by simp),
      fun h => absurd h (by simp)⟩
    obtain rfl := Option.some.inj he
    refine ⟨rfl, ?_, fun i hi => (data_tblEnded (by exact hwf') _).1 e.2 i rfl hi⟩
    show 0 * 16 + e.1 * 256 = _
    rw [Nat.zero_mul, Nat.zero_add]

end Scan
end Complete

/-- Settles O37: a command's answer is that of its run after the sweeps; writes and deletes change one index of the home
copy, AGE_NOW visits each listed entry once, and a scan stops at its first hit or at the last place. -/
theorem tableCommands : Obligations.TableCommands := by
  unfold Obligations.TableCommands
  refine ⟨?_, ?_, ?_, ?_, ?_, ?_, ?_, ?_, ?_, ?_, ?_, ?_, ?_, ?_, ?_, ?_, ?_, ?_, ?_, ?_⟩
  · exact fun t table i b s ho hb => tblIgnored_runs ho _ rfl hb
  · exact fun t table i b s ho hb => tblIgnored_runs ho _ rfl hb
  · exact fun t table i b s ho hb => tblIgnored_runs ho _ rfl hb
  · exact fun t table i b s ho hb => tblIgnored_runs ho _ rfl hb
  · exact fun t table i b s ho hb => tblIgnored_runs ho _ rfl hb
  · exact fun t table i b s ho hb => tblIgnored_runs ho _ rfl hb
  · rintro t i tb s s1 ho hb rfl htb hi
    exact read_by_index ho hb htb hi
  · rintro t i tb k s s1 ho hb rfl htb hk
    exact read_by_key ho hb htb hk
  · rintro t i j k d s s1 hc ho hb rfl rfl hv hk hj
    exact write_by_key ho hb hc hv hk hj
  · rintro t i j k d s hc ho hb rfl hv hk hj
    exact write_stream_by_key ho hb hc hv hk hj
  · rintro t i k d s s1 hc ho hb rfl rfl hv hk
    exact write_by_index ho hb hc hv hk
  · rintro t i k d s s1 hc ho hb rfl rfl hv hk hf hfree
    exact write_full ho hb hv hk hf hfree
  · rintro t i s s1 hc ho hb rfl hi
    exact delete_by_index ho hb hc hi
  · rintro t i s hc ho hb hi
    exact delete_stream_by_index ho hb hc hi
  · rintro t i tb s s1 ho hb rfl htb hi
    exact search_starts ho hb htb hi
  · rintro t i b s s1 ho hb rfl
    exact ⟨flush_by_dest ho hb b, flush_by_dest_stream ho hb b⟩
  · rintro t i b s s1 hc ho hb rfl
    exact age_now ho hb b hc
  · exact fun t b s hb hs hset hwf => complete_settled hb hs hset hwf
  · exact fun t b s hb hs hset => complete_waits hb hs hset
  · rintro t upTo b c s hb hop hs rfl hwf
    exact complete_scan hb hs hop hwf

end Sys2Proof
end

section
/-! The engines of the exact-match tables (spec 05 R186 to R205): the sweeps, learning, aging and the replicas. -/

namespace Sys2Proof.Machine
open Sys2Proof

/-! ### Lists of a canonical table -/

/-- A canonical table lists a key with a value, other than the default, where it reads as that value. -/
theorem mem_iff_get {α : Type} [DecidableEq α] {d : α} {t : Tab α} (h : Tab.wf d t = true) {i : Nat} {v : α}
    (hv : v ≠ d) : (i, v) ∈ t ↔ Tab.get d t i = v := by
  induction t with
  | nil => simpa [Tab.get] using Ne.symm hv
  | cons e t ih =>
    obtain ⟨k, w⟩ := e
    obtain ⟨-, hbelow, hwf⟩ := Tab.wf_cons.mp h
    by_cases hk : k = i
    · subst hk
      have hnot : (k, v) ∉ t := fun hm => by
        have := List.all_eq_true.mp hbelow _ hm
        simp at this
      simp [Tab.get, hnot, eq_comm]
    · simp [Tab.get, hk, Ne.symm hk, ih hwf]

/-- Keys of a list are reset one after another. -/
theorem get_drops {α : Type} [DecidableEq α] {d : α} (l : List Nat) {t : Tab α} (h : Tab.wf d t = true) (i : Nat) :
    Tab.get d (l.foldl (fun m j => Tab.set d m j d) t) i = if i ∈ l then d else Tab.get d t i := by
  induction l generalizing t with
  | nil => rfl
  | cons j l ih =>
    rw [List.foldl_cons, ih (Tab.wf_set _ _ h)]
    by_cases hij : j = i
    · subst hij
      simp [Tab.get_set_same _ _ h]
    · simp [Tab.get_set_other _ _ hij, Ne.symm hij]

/-- A canonical table is copied, entry by entry, to another one that lists nothing at its places. -/
theorem get_copies {α β : Type} [DecidableEq α] [DecidableEq β] {d : α} {c : β} (g : α → β) (hg : g d = c) (base : Nat)
    {t : Tab α} (ht : Tab.wf d t = true) {m : Tab β} (hm : Tab.wf c m = true) {i : Nat}
    (hi : Tab.get c m (base + i) = c) :
    Tab.get c (t.foldl (fun m e => Tab.set c m (base + e.1) (g e.2)) m) (base + i) = g (Tab.get d t i) := by
  have kept : ∀ (l : Tab α) (m : Tab β), (∀ e ∈ l, e.1 ≠ i) →
      Tab.get c (l.foldl (fun m e => Tab.set c m (base + e.1) (g e.2)) m) (base + i) = Tab.get c m (base + i) := by
    intro l
    induction l with
    | nil => exact fun _ _ => rfl
    | cons e l ih =>
      intro m hl
      have he : e.1 ≠ i := hl e (by simp)
      rw [List.foldl_cons, ih _ fun x hx => hl x (List.mem_cons_of_mem _ hx), Tab.get_set_other _ _ (by omega)]
  induction t generalizing m with
  | nil => simpa [Tab.get, hg] using hi
  | cons e t ih =>
    obtain ⟨k, v⟩ := e
    obtain ⟨-, hbelow, hwf⟩ := Tab.wf_cons.mp ht
    rw [List.foldl_cons]
    by_cases hk : k = i
    · subst hk
      have hl : ∀ e ∈ t, e.1 ≠ k := fun e he => by
        have := List.all_eq_true.mp hbelow e he
        simp at this
        omega
      rw [kept t _ hl, Tab.get_set_same _ _ hm]
      simp [Tab.get]
    · rw [ih hwf (Tab.wf_set _ _ hm) (by rw [Tab.get_set_other _ _ (by omega)]; exact hi)]
      simp [Tab.get, hk]

/-! ### The sweep of a die -/

/-- The entries a sweep deletes on its way to the present clock. -/
def sweepGoes (die : Nat) (s : State) : List Nat :=
  (s.tables.fdb.filter (fun e => e.2.valid && !e.2.static && (Tab.get [] s.tables.sweep die).contains e.2.dest
    && decide ((Tab.get (0, 0) s.tables.sweepAt die).2 ≤ placeOf 0 e.1
      ∧ placeOf 0 e.1 < min (tblPlaces 0) (placesIn (Tab.get (0, 0) s.tables.sweepAt die).1 s.clock))
    && decide (homeOf s e.2.key = die))).map (·.1)

/-- How far the sweeps have come once that of a die has gone on. -/
def sweepMoved (die : Nat) (s : State) : Tab (Nat × Nat) :=
  Tab.set (0, 0) s.tables.sweepAt die ((Tab.get (0, 0) s.tables.sweepAt die).1,
    max (Tab.get (0, 0) s.tables.sweepAt die).2
      (min (tblPlaces 0) (placesIn (Tab.get (0, 0) s.tables.sweepAt die).1 s.clock)))

section Sweep
variable {die : Nat} {s : State}

theorem sweepRun_none (h : Tab.get [] s.tables.sweep die = []) : sweepRun die s = s := by
  unfold sweepRun
  exact if_pos h

theorem sweepRun_goes (h : Tab.get [] s.tables.sweep die ≠ []) : sweepRun die s =
    forEach (sweepGoes die s) dropFdb (modTables (fun x => { x with sweepAt := sweepMoved die s }) s) := by
  unfold sweepRun
  exact if_neg h

theorem fdb_drops (l : List Nat) (s : State) : (forEach l dropFdb s).tables.fdb
    = l.foldl (fun m j => Tab.set FdbEntry.reset m j FdbEntry.reset) s.tables.fdb := by
  induction l generalizing s with
  | nil => rfl
  | cons i l ih =>
    refine (ih (dropFdb i s)).trans ?_
    rw [fdb_dropFdb]
    rfl

theorem fdb_sweepRun (h : Tab.get [] s.tables.sweep die ≠ []) : (sweepRun die s).tables.fdb
    = (sweepGoes die s).foldl (fun m j => Tab.set FdbEntry.reset m j FdbEntry.reset) s.tables.fdb := by
  rw [sweepRun_goes h, fdb_drops]
  rfl

theorem sweepAt_sweepRun (h : Tab.get [] s.tables.sweep die ≠ []) :
    (sweepRun die s).tables.sweepAt = sweepMoved die s := by
  rw [sweepRun_goes h]
  exact forEach_keeps (fun x => x.tables.sweepAt) (fun i y => sweepAt_putFdb _ i _ _ y) _ _

theorem mem_sweepGoes (hwf : Tab.wf FdbEntry.reset s.tables.fdb = true) (i : Nat) : i ∈ sweepGoes die s ↔
    (homeFdb s i).valid = true ∧ (homeFdb s i).static = false
      ∧ (Tab.get [] s.tables.sweep die).contains (homeFdb s i).dest = true ∧ homeOf s (homeFdb s i).key = die
      ∧ (Tab.get (0, 0) s.tables.sweepAt die).2 ≤ placeOf 0 i
      ∧ placeOf 0 i < min (tblPlaces 0) (placesIn (Tab.get (0, 0) s.tables.sweepAt die).1 s.clock) := by
  have hne : ∀ v : FdbEntry, v.valid = true → v ≠ FdbEntry.reset := fun v hv hr => by
    rw [hr] at hv
    exact absurd hv (by decide)
  unfold sweepGoes
  rw [List.mem_map]
  constructor
  · rintro ⟨⟨j, v⟩, hm, rfl⟩
    simp only [List.mem_filter, Bool.and_eq_true, Bool.not_eq_true', decide_eq_true_eq] at hm
    obtain ⟨hmem, ⟨⟨⟨hv, hst⟩, hset⟩, hplace⟩, hhome⟩ := hm
    have hget : homeFdb s j = v := (mem_iff_get hwf (hne v hv)).mp hmem
    rw [hget]
    exact ⟨hv, hst, hset, hhome, hplace⟩
  · rintro ⟨hv, hst, hset, hhome, hplace⟩
    have hmem : (i, homeFdb s i) ∈ s.tables.fdb := (mem_iff_get hwf (hne _ hv)).mpr rfl
    refine ⟨(i, homeFdb s i), ?_, rfl⟩
    simp only [List.mem_filter, Bool.and_eq_true, Bool.not_eq_true', decide_eq_true_eq]
    exact ⟨hmem, ⟨⟨⟨hv, hst⟩, hset⟩, hplace⟩, hhome⟩

/-- What a sweep that runs leaves of an entry. -/
theorem homeFdb_sweepRun (hwf : Tab.wf FdbEntry.reset s.tables.fdb = true) (h : Tab.get [] s.tables.sweep die ≠ [])
    (i : Nat) : homeFdb (sweepRun die s) i = if i ∈ sweepGoes die s then FdbEntry.reset else homeFdb s i := by
  unfold homeFdb
  rw [fdb_sweepRun h, get_drops _ hwf]

end Sweep

theorem homeOf_congr {s u : State} (hv : u.dict.vals = s.dict.vals) (ht : u.test = s.test) (key : Nat) :
    homeOf u key = homeOf s key := by
  have hc : cfg u 0x2900 5 = cfg s 0x2900 5 := by simp only [cfg, hv]
  have hd : dieServes u = dieServes s := by
    funext d
    simp only [dieServes, ht]
  simp only [homeOf, servingDie, tblHash, hc, hd]

/-- Two states have the same entries, sweeps, clock, configuration and dies in service. -/
structure SweepAlike (s u : State) : Prop where
  fdb : u.tables.fdb = s.tables.fdb
  sweep : u.tables.sweep = s.tables.sweep
  sweepAt : u.tables.sweepAt = s.tables.sweepAt
  clock : u.clock = s.clock
  vals : u.dict.vals = s.dict.vals
  test : u.test = s.test

section Alike
variable {s u : State}

theorem SweepAlike.homeOf (h : SweepAlike s u) (key : Nat) : homeOf u key = homeOf s key :=
  homeOf_congr h.vals h.test key

theorem SweepAlike.goes (h : SweepAlike s u) (die : Nat) : sweepGoes die u = sweepGoes die s := by
  simp only [sweepGoes, h.fdb, h.sweep, h.sweepAt, h.clock, h.homeOf]

theorem SweepAlike.sweepRun (h : SweepAlike s u) (die : Nat) : SweepAlike (sweepRun die s) (sweepRun die u) := by
  have es := enters_sweepRun die s
  have eu := enters_sweepRun die u
  by_cases hs : Tab.get [] s.tables.sweep die = []
  · rw [sweepRun_none hs, sweepRun_none (by rw [h.sweep]; exact hs)]
    exact h
  · have hu : Tab.get [] u.tables.sweep die ≠ [] := by rwa [h.sweep]
    refine ⟨?_, ?_, ?_, ?_, ?_, ?_⟩
    · rw [fdb_sweepRun hs, fdb_sweepRun hu, h.goes, h.fdb]
    · rw [es.sweep, eu.sweep, h.sweep]
    · rw [sweepAt_sweepRun hs, sweepAt_sweepRun hu, sweepMoved, sweepMoved, h.sweepAt, h.clock]
    · rw [es.clock, eu.clock, h.clock]
    · rw [es.dict, eu.dict, h.vals]
    · rw [es.test, eu.test, h.test]

theorem SweepAlike.sweepAll (h : SweepAlike s u) : SweepAlike (sweepAll s) (sweepAll u) :=
  (((h.sweepRun 0).sweepRun 1).sweepRun 2).sweepRun 3

end Alike

/-! ### Writes of replicas -/

section Replica
variable {src dst : Nat} {w : RepWrite} {s : State}

/-- The write has left its queue and has crossed. -/
def repCrossed (src dst : Nat) (w : RepWrite) (s : State) : State :=
  ctlCross src dst (modTables (fun x => { x with repQ := x.repQ.erase w }) s)

theorem tables_repCrossed : (repCrossed src dst w s).tables = { s.tables with repQ := s.tables.repQ.erase w } := by
  unfold repCrossed
  rw [ctlCross_eq]
  rfl

theorem replicaWrite_lands (hm : meshOpen s src dst = true) (hr : ctlRoom s src dst = true)
    (hw : s.tables.repQ.find? (fun w => decide (w.src = src ∧ w.dst = dst)) = some w) :
    replicaWrite src dst s = applyRep w (repCrossed src dst w s) := by
  unfold replicaWrite
  rw [if_neg (by simp [hm, hr])]
  simp only [hw] <;> rfl

theorem replicaWrite_held (h : meshOpen s src dst = false ∨ ctlRoom s src dst = false) : replicaWrite src dst s = s := by
  unfold replicaWrite
  exact if_pos (by rcases h with h | h <;> simp [h])

/-- Where a replica write lands, what it takes and what leaves the learn filter. -/
theorem tables_applyRep (w : RepWrite) (s : State) :
    (applyRep w s).tables.repQ = s.tables.repQ ∧ (applyRep w s).tables.fdb = s.tables.fdb
    ∧ (applyRep w s).tables.stream = s.tables.stream
    ∧ (w.table = 0 → w.flagOnly = false →
        (applyRep w s).tables.repFdb = Tab.set FdbEntry.reset s.tables.repFdb (w.dst * fdbSize + w.index) w.fdb
        ∧ (applyRep w s).tables.filter = Tab.set [] s.tables.filter w.dst
            ((Tab.get [] s.tables.filter w.dst).filter (fun e => decide (e.1 ≠ w.key))))
    ∧ (w.table = 0 → w.flagOnly = true →
        (applyRep w s).tables.localHit = Tab.set false s.tables.localHit (w.dst * fdbSize + w.index) false
        ∧ (applyRep w s).tables.repFdb = s.tables.repFdb)
    ∧ (w.table ≠ 0 → (applyRep w s).tables.repStream
        = Tab.set StreamEntry.reset s.tables.repStream (w.dst * streamSize + w.index) w.stream) := by
  unfold applyRep
  by_cases ht : w.table = 0
  · by_cases hf : w.flagOnly = true
    · simp [ht, hf, modTables]
    · simp [ht, hf, modTables, filterDrop]
  · simp [ht, modTables]

theorem runs_replicaWrite (hc : Canonical s) (hm : meshOpen s src dst = true) (hr : ctlRoom s src dst = true)
    (hw : s.tables.repQ.find? (fun w => decide (w.src = src ∧ w.dst = dst)) = some w) :
    Runs (.replicaWrite src dst) s (fun u => u.tables.repQ = s.tables.repQ.erase w
      ∧ u.tables.fdb = s.tables.fdb ∧ u.tables.stream = s.tables.stream
      ∧ (w.table = 0 ∧ w.flagOnly = false →
          Tab.get FdbEntry.reset u.tables.repFdb (dst * fdbSize + w.index) = w.fdb
          ∧ (Tab.wf [] s.tables.filter = true → ∀ e, e ∈ Tab.get [] u.tables.filter dst → e.1 ≠ w.key))
      ∧ (w.table = 0 ∧ w.flagOnly = true → Tab.get false u.tables.localHit (dst * fdbSize + w.index) = false
          ∧ u.tables.repFdb = s.tables.repFdb)
      ∧ (w.table ≠ 0 → Tab.get StreamEntry.reset u.tables.repStream (dst * streamSize + w.index) = w.stream)) := by
  have hdst : w.dst = dst := by
    have := List.find?_some hw
    simp only [decide_eq_true_eq] at this
    exact this.2
  obtain ⟨-, -, hrep, hrepStream, hlocal, -⟩ := hc.tables
  refine ⟨_, congrArg Host.Outcome.next (replicaWrite_lands hm hr hw), ?_⟩
  beta_reduce
  obtain ⟨h1, h2, h3, hdata, hflag, hstream⟩ := tables_applyRep w (repCrossed src dst w s)
  rw [tables_repCrossed] at h1 h2 h3 hdata hflag hstream
  rw [hdst] at hdata hflag hstream
  refine ⟨h1, h2, h3, fun ⟨ht, hf⟩ => ?_, fun ⟨ht, hf⟩ => ?_, fun ht => ?_⟩
  · obtain ⟨hfdb, hfilter⟩ := hdata ht hf
    rw [hfdb, hfilter, Tab.get_set_same _ _ hrep]
    refine ⟨rfl, fun hwf e he => ?_⟩
    rw [Tab.get_set_same _ _ hwf, List.mem_filter] at he
    exact of_decide_eq_true he.2
  · obtain ⟨hhit, hfdb⟩ := hflag ht hf
    rw [hhit, hfdb, Tab.get_set_same _ _ hlocal]
    exact ⟨rfl, rfl⟩
  · rw [hstream ht, Tab.get_set_same _ _ hrepStream]

theorem runs_resyncDone {die : Nat} (hc : Canonical s) (hr : s.tables.resync.contains die = true) :
    Runs (.replicaResyncDone die) s (fun u => u.tables.resync.contains die = false
      ∧ u.tables.fdb = s.tables.fdb
      ∧ (∀ i, i < fdbSize → Tab.get FdbEntry.reset u.tables.repFdb (die * fdbSize + i) = (homeFdb s i).replica)
      ∧ (∀ w, w ∈ u.tables.repQ → w.dst ≠ die) ∧ (∀ p, p ∈ u.tables.stale → p % 4 ≠ die)) := by
  obtain ⟨hfdb, -, hrep, -⟩ := hc.tables
  refine ⟨_, congrArg Host.Outcome.next (if_pos hr), ?_⟩
  refine ⟨?_, rfl, fun i hi => ?_, fun w hw => ?_, fun p hp => ?_⟩
  · simp [copyReplica, modTables]
  · have hplace : (die * fdbSize + i) / fdbSize = die := by
      rw [Nat.mul_comm, Nat.mul_add_div (Nat.lt_of_le_of_lt (Nat.zero_le i) hi), Nat.div_eq_of_lt hi, Nat.add_zero]
    refine get_copies FdbEntry.replica rfl (die * fdbSize) hfdb (Tab.wf_filter _ hrep) (Tab.get_filter_none _ _ _ ?_)
    intro v
    simp [hplace]
  · exact of_decide_eq_true (List.mem_filter.mp hw).2
  · exact of_decide_eq_true (List.mem_filter.mp hp).2

end Replica

end Sys2Proof.Machine
end

section
/-! The engines of the exact-match tables: learning, hit notices, the ager and the flush sweeps
(spec 05 R186 to R199). -/

namespace Sys2Proof.Machine
open Sys2Proof

/-! ### Learning -/

/-- The oldest learn request has left its queue and has crossed. -/
def learnTaken (die : Nat) (q : LearnReq) (rest : List LearnReq) (s : State) : State :=
  ctlCross (dieOf q.port) die (modTables (fun x => { x with learnQ := Tab.set [] x.learnQ die rest }) s)

section Learn
variable {die : Nat} {q : LearnReq} {rest : List LearnReq} {s : State}

theorem tables_learnTaken : (learnTaken die q rest s).tables
    = { s.tables with learnQ := Tab.set [] s.tables.learnQ die rest } := by
  unfold learnTaken
  rw [ctlCross_eq]
  rfl

theorem dict_learnTaken : (learnTaken die q rest s).dict = s.dict := by
  unfold learnTaken
  rw [ctlCross_eq]
  rfl

theorem clock_learnTaken : (learnTaken die q rest s).clock = s.clock := by
  unfold learnTaken
  rw [ctlCross_eq]
  rfl

theorem alike_learnTaken : SweepAlike s (learnTaken die q rest s) := by
  unfold learnTaken
  rw [ctlCross_eq]
  exact ⟨rfl, rfl, rfl, rfl, rfl, rfl⟩

theorem learn_takes (hq : Tab.get [] s.tables.learnQ die = q :: rest) (hr : ctlRoom s (dieOf q.port) die = true) :
    learn die s = learnOne die q (sweepRun die (learnTaken die q rest s)) := by
  unfold learn
  simp only [hq, hr, Bool.not_true, Bool.false_eq_true, ↓reduceIte, learnTaken]

theorem learn_held (hq : Tab.get [] s.tables.learnQ die = q :: rest) (hr : ctlRoom s (dieOf q.port) die = false) :
    learn die s = s := by
  unfold learn
  simp only [hq, hr, Bool.not_false, ↓reduceIte]

end Learn

section LearnOne
variable (die : Nat) (q : LearnReq) {s : State}

theorem learnOne_new {i : Nat} (hn : findFdb s (fdbKey q.fid q.mac) = none)
    (hf : freeSlot s 0 (fdbKey q.fid q.mac) = some i) : learnOne die q s =
    count 0x2904 1 (putFdb die i (fdbKey q.fid q.mac)
      { mac := q.mac, fid := q.fid, dest := q.port, valid := true, static := false, hit := true, age := 0
        moveHold := false, recent := true, stamp := learnClock s } s) := by
  unfold learnOne
  simp only [hn, hf]

theorem learnOne_full (hn : findFdb s (fdbKey q.fid q.mac) = none) (hf : freeSlot s 0 (fdbKey q.fid q.mac) = none) :
    learnOne die q s = raise 225 (count 0x2904 6 s) := by
  unfold learnOne
  simp only [hn, hf]

variable {i : Nat} (hk : findFdb s (fdbKey q.fid q.mac) = some i)
include hk

theorem learnOne_static (hst : (homeFdb s i).static = true) : learnOne die q s = s := by
  unfold learnOne
  simp only [hk, hst, ↓reduceIte]

theorem learnOne_known (hst : (homeFdb s i).static = false) : learnOne die q s =
    if (homeFdb s i).dest = q.port then putHome i { homeFdb s i with hit := true, age := 0 } s
    else if (homeFdb s i).recent && decide (sinceStamp s (homeFdb s i) < cfgN s 0x2900 2) then
      count 0x2904 3 (putHome i { homeFdb s i with moveHold := true } s)
    else
      count 0x2904 2 (putFdb die i (fdbKey q.fid q.mac) { homeFdb s i with
        dest := q.port, stamp := learnClock s, recent := true, moveHold := false, hit := true, age := 0 } s) := by
  unfold learnOne
  simp only [hk, hst, Bool.false_eq_true, ↓reduceIte]

end LearnOne

/-- A counter after an engine has changed entries and then counted. -/
theorem counter_count_of_dict {s u : State} (h : u.dict = s.dict) (idx sub : Nat) :
    counter (count idx sub u) idx sub = satAdd64 (counter s idx sub) 1 := by
  rw [count, counter_countQ, counter_congr (congrArg Dict.counters h)]

theorem learnQ_count (idx sub : Nat) (s : State) : (count idx sub s).tables.learnQ = s.tables.learnQ :=
  (congrArg Tables.learnQ (count_only idx sub s).tables :)

/-- Learning leaves the queue of learn requests. -/
theorem learnQ_learnOne (die : Nat) (q : LearnReq) (s : State) :
    (learnOne die q s).tables.learnQ = s.tables.learnQ := by
  cases hk : findFdb s (fdbKey q.fid q.mac) with
  | none =>
    cases hf : freeSlot s 0 (fdbKey q.fid q.mac) with
    | none => rw [learnOne_full die q hk hf, raise_tables, learnQ_count]
    | some i => rw [learnOne_new die q hk hf, learnQ_count, (enters_putFdb ..).learnQ]
  | some i =>
    cases hst : (homeFdb s i).static with
    | true => rw [learnOne_static die q hk hst]
    | false =>
      rw [learnOne_known die q hk hst]
      split
      · exact (enters_putHome ..).learnQ
      · split
        · rw [learnQ_count, (enters_putHome ..).learnQ]
        · rw [learnQ_count, (enters_putFdb ..).learnQ]

section LearnOne
variable (die : Nat) (q : LearnReq) {x : State} (hwf : Tab.wf FdbEntry.reset x.tables.fdb = true) {i : Nat}
include hwf

theorem learnOne_makes (hn : findFdb x (fdbKey q.fid q.mac) = none) (hf : freeSlot x 0 (fdbKey q.fid q.mac) = some i) :
    homeFdb (learnOne die q x) i
      = { mac := q.mac, fid := q.fid, dest := q.port, valid := true, static := false, hit := true, age := 0
          moveHold := false, recent := true, stamp := learnClock x }
    ∧ (∀ j, j ≠ i → homeFdb (learnOne die q x) j = homeFdb x j)
    ∧ counter (learnOne die q x) 0x2904 1 = satAdd64 (counter x 0x2904 1) 1 := by
  rw [learnOne_new die q hn hf]
  refine ⟨?_, fun j hj => ?_, counter_count_of_dict (enters_putFdb ..).dict _ _⟩
  · rw [homeFdb_count, homeFdb_putFdb_same hwf]
  · rw [homeFdb_count, homeFdb_putFdb_other hj]

omit hwf in
theorem learnOne_finds_no_room (hn : findFdb x (fdbKey q.fid q.mac) = none)
    (hf : freeSlot x 0 (fdbKey q.fid q.mac) = none) : (learnOne die q x).tables.fdb = x.tables.fdb
    ∧ counter (learnOne die q x) 0x2904 6 = satAdd64 (counter x 0x2904 6) 1
    ∧ (evtStat (learnOne die q x) 7).testBit 1 = true := by
  rw [learnOne_full die q hn hf]
  refine ⟨?_, ?_, raise_sets (n := 225) rfl _⟩
  · rw [raise_tables, (count_only ..).tables]
  · rw [counter_congr (congrArg Dict.counters (raise_dict ..)), counter_count_of_dict rfl]

variable (hk : findFdb x (fdbKey q.fid q.mac) = some i)
include hk

omit hwf in
theorem learnOne_others {j : Nat} (hj : j ≠ i) : homeFdb (learnOne die q x) j = homeFdb x j := by
  cases hst : (homeFdb x i).static with
  | true => rw [learnOne_static die q hk hst]
  | false =>
    rw [learnOne_known die q hk hst]
    split
    · exact homeFdb_putHome_other hj ..
    · split
      · rw [homeFdb_count, homeFdb_putHome_other hj]
      · rw [homeFdb_count, homeFdb_putFdb_other hj]

theorem learnOne_refreshes (hst : (homeFdb x i).static = false) (hd : (homeFdb x i).dest = q.port) :
    homeFdb (learnOne die q x) i = { homeFdb x i with hit := true, age := 0 } := by
  rw [learnOne_known die q hk hst, if_pos hd, homeFdb_putHome_same hwf]

theorem learnOne_holds_back (hst : (homeFdb x i).static = false) (hd : (homeFdb x i).dest ≠ q.port)
    (hr : (homeFdb x i).recent = true) (ht : sinceStamp x (homeFdb x i) < cfgN x 0x2900 2) :
    homeFdb (learnOne die q x) i = { homeFdb x i with moveHold := true }
    ∧ counter (learnOne die q x) 0x2904 3 = satAdd64 (counter x 0x2904 3) 1 := by
  rw [learnOne_known die q hk hst, if_neg hd, if_pos (by simp [hr, ht]), homeFdb_count, homeFdb_putHome_same hwf]
  exact ⟨rfl, counter_count_of_dict (enters_putHome ..).dict _ _⟩

theorem learnOne_moves (hst : (homeFdb x i).static = false) (hd : (homeFdb x i).dest ≠ q.port)
    (hr : (homeFdb x i).recent = false ∨ cfgN x 0x2900 2 ≤ sinceStamp x (homeFdb x i)) :
    homeFdb (learnOne die q x) i = { homeFdb x i with
      dest := q.port, stamp := learnClock x, recent := true, moveHold := false, hit := true, age := 0 }
    ∧ counter (learnOne die q x) 0x2904 2 = satAdd64 (counter x 0x2904 2) 1 := by
  have hno : ¬((homeFdb x i).recent && decide (sinceStamp x (homeFdb x i) < cfgN x 0x2900 2)) = true := by
    rcases hr with hr | hr
    · simp [hr]
    · simp [Nat.not_lt.mpr hr]
  rw [learnOne_known die q hk hst, if_neg hd, if_neg hno, homeFdb_count, homeFdb_putFdb_same hwf]
  exact ⟨rfl, counter_count_of_dict (enters_putFdb ..).dict _ _⟩

end LearnOne

section RunsLearn
variable {t die : Nat} {q : LearnReq} {rest : List LearnReq} {s s1 : State}

/-- The state a learn request finds: it is taken and the die's sweep has come as far as the clock. -/
def learnMeets (t die : Nat) (q : LearnReq) (rest : List LearnReq) (s : State) : State :=
  sweepRun die (learnTaken die q rest (advance t s))

theorem alike_learnMeets : SweepAlike (sweepRun die (advance t s)) (learnMeets t die q rest s) :=
  alike_learnTaken.sweepRun die

theorem dict_learnMeets : (learnMeets t die q rest s).dict = s.dict :=
  (enters_sweepRun ..).dict.trans (dict_learnTaken.trans (advance_dict ..))

theorem learnQ_learnMeets : (learnMeets t die q rest s).tables.learnQ = Tab.set [] s.tables.learnQ die rest := by
  rw [learnMeets, (enters_sweepRun ..).learnQ, tables_learnTaken]
  simp only [advance_tables]

theorem learnClock_learnMeets : learnClock (learnMeets t die q rest s) = learnClock (advance t s) := by
  refine learnClock_congr ((enters_sweepRun ..).clock.trans clock_learnTaken) ((enters_sweepRun ..).learnZero.trans ?_)
  rw [tables_learnTaken]

theorem cfgN_learnMeets (idx sub : Nat) : cfgN (learnMeets t die q rest s) idx sub = cfgN s idx sub := by
  simp only [cfgN, cfg, dict_learnMeets]

theorem wf_learnMeets (hc : Canonical s) : Tab.wf FdbEntry.reset (learnMeets t die q rest s).tables.fdb = true := by
  obtain ⟨hwf, -⟩ := (canonical_advance t hc).tables
  have halike := alike_learnMeets (t := t) (die := die) (q := q) (rest := rest) (s := s)
  rw [halike.fdb]
  by_cases hs : Tab.get [] (advance t s).tables.sweep die = []
  · rw [sweepRun_none hs]
    exact hwf
  · rw [fdb_sweepRun hs]
    exact Tab.wf_foldl _ _ (fun _ _ hm => Tab.wf_set _ _ hm) hwf

theorem learn_advance_takes (hq : Tab.get [] s.tables.learnQ die = q :: rest) (hr : ctlRoom s (dieOf q.port) die = true) :
    learn die (advance t s) = learnOne die q (learnMeets t die q rest s) :=
  learn_takes (by rwa [advance_tables]) (by rwa [ctlRoom_advance])

theorem runs_learn {key now : Nat} (hc : Canonical s) (hq : Tab.get [] s.tables.learnQ die = q :: rest)
    (hr : ctlRoom s (dieOf q.port) die = true) (hs1 : s1 = sweepRun die (advance t s)) (hkey : key = fdbKey q.fid q.mac)
    (hnow : now = learnClock (advance t s)) :
    Runs (.learn t die) s (fun u =>
      (Tab.wf [] s.tables.learnQ = true → Tab.get [] u.tables.learnQ die = rest)
      ∧ (∀ i, findFdb s1 key = none → freeSlot s1 0 key = some i →
        homeFdb u i = { mac := q.mac, fid := q.fid, dest := q.port, valid := true, static := false, hit := true, age := 0
                        moveHold := false, recent := true, stamp := now }
        ∧ (∀ j, j ≠ i → homeFdb u j = homeFdb s1 j) ∧ counter u 0x2904 1 = satAdd64 (counter s 0x2904 1) 1)
      ∧ (findFdb s1 key = none → freeSlot s1 0 key = none → u.tables.fdb = s1.tables.fdb
        ∧ counter u 0x2904 6 = satAdd64 (counter s 0x2904 6) 1 ∧ (evtStat u 7).testBit 1 = true)
      ∧ (∀ i e, findFdb s1 key = some i → e = homeFdb s1 i → e.valid = true → (∀ j, j ≠ i → homeFdb u j = homeFdb s1 j)
        ∧ (e.static = true → u.tables.fdb = s1.tables.fdb)
        ∧ (e.static = false → e.dest = q.port → homeFdb u i = { e with hit := true, age := 0 })
        ∧ (e.static = false → e.dest ≠ q.port → e.recent = true →
            (now + 2 ^ 40 - e.stamp) % 2 ^ 40 < cfgN s 0x2900 2 →
            homeFdb u i = { e with moveHold := true } ∧ counter u 0x2904 3 = satAdd64 (counter s 0x2904 3) 1)
        ∧ (e.static = false → e.dest ≠ q.port →
            (e.recent = false ∨ cfgN s 0x2900 2 ≤ (now + 2 ^ 40 - e.stamp) % 2 ^ 40) →
            homeFdb u i = { e with
              dest := q.port, stamp := now, recent := true, moveHold := false, hit := true, age := 0 }
            ∧ counter u 0x2904 2 = satAdd64 (counter s 0x2904 2) 1))) := by
  subst hs1 hkey hnow
  have halike := alike_learnMeets (t := t) (die := die) (q := q) (rest := rest) (s := s)
  have hwf := wf_learnMeets (t := t) (die := die) (q := q) (rest := rest) hc
  have hhome : ∀ j, homeFdb (sweepRun die (advance t s)) j = homeFdb (learnMeets t die q rest s) j :=
    fun j => (homeFdb_congr halike.fdb j).symm
  have hfind : findFdb (sweepRun die (advance t s)) (fdbKey q.fid q.mac)
      = findFdb (learnMeets t die q rest s) (fdbKey q.fid q.mac) := (findFdb_congr halike.fdb _).symm
  have hfree : freeSlot (sweepRun die (advance t s)) 0 (fdbKey q.fid q.mac)
      = freeSlot (learnMeets t die q rest s) 0 (fdbKey q.fid q.mac) :=
    (freeSlot_congr (tblValid_fdb halike.fdb) halike.vals _).symm
  have hcount : ∀ sub, counter s 0x2904 sub = counter (learnMeets t die q rest s) 0x2904 sub :=
    fun sub => (counter_congr (congrArg Dict.counters dict_learnMeets) _ _).symm
  have hsince : ∀ e : FdbEntry, (learnClock (advance t s) + 2 ^ 40 - e.stamp) % 2 ^ 40
      = sinceStamp (learnMeets t die q rest s) e := fun e => by rw [sinceStamp, learnClock_learnMeets]
  have hq1 := learnQ_learnMeets (t := t) (die := die) (q := q) (rest := rest) (s := s)
  rw [hfind, hfree, ← halike.fdb, ← learnClock_learnMeets (q := q) (die := die) (rest := rest)]
  rw [← cfgN_learnMeets (t := t) (die := die) (q := q) (rest := rest)]
  simp only [hhome, hcount]
  refine ⟨_, congrArg Host.Outcome.next (learn_advance_takes hq hr), ?_⟩
  beta_reduce
  refine ⟨fun hlq => ?_, fun i => learnOne_makes die q hwf, learnOne_finds_no_room die q, fun i e hk he _ => ?_⟩
  · rw [learnQ_learnOne, hq1, Tab.get_set_same _ _ hlq]
  · subst he
    refine ⟨fun j hj => learnOne_others die q hk hj, fun hst => ?_, learnOne_refreshes die q hwf hk,
      learnOne_holds_back die q hwf hk, learnOne_moves die q hwf hk⟩
    rw [learnOne_static die q hk hst]

theorem runs_learn_held (hq : Tab.get [] s.tables.learnQ die = q :: rest) (hr : ctlRoom s (dieOf q.port) die = false) :
    Runs (.learn t die) s (fun u => u = advance t s) :=
  ⟨_, congrArg Host.Outcome.next (learn_held (by rwa [advance_tables]) (by rwa [ctlRoom_advance])), rfl⟩

end RunsLearn

end Sys2Proof.Machine
end

section
/-! The engines of the exact-match tables: hit notices, learn filters, the ager and the flush sweeps
(spec 05 R187, R191 to R199), and the statement about all of them. -/

namespace Sys2Proof.Machine
open Sys2Proof

/-! ### Hit notices and learn filters -/

section Hit
variable {die : Nat} {h : Nat × Nat × Nat × Nat} {s : State}

/-- A hit notice has left its queue and has crossed. -/
def hitTaken (die : Nat) (h : Nat × Nat × Nat × Nat) (s : State) : State :=
  ctlCross h.2.2.2 die (modTables (fun x => { x with hits := x.hits.erase h }) s)

theorem tables_hitTaken : (hitTaken die h s).tables = { s.tables with hits := s.tables.hits.erase h } := by
  unfold hitTaken
  rw [ctlCross_eq]
  rfl

theorem homeFdb_hitTaken (j : Nat) : homeFdb (hitTaken die h s) j = homeFdb s j := by
  unfold homeFdb
  rw [tables_hitTaken]

theorem hitNotice_takes (hh : s.tables.hits.find? (fun h => decide (h.1 = die) && ctlRoom s h.2.2.2 die) = some h) :
    hitNotice die s = if (homeFdb s h.2.1).valid = true ∧ (homeFdb s h.2.1).key = h.2.2.1
      then putHome h.2.1 { homeFdb s h.2.1 with hit := true, age := 0 } (hitTaken die h s) else hitTaken die h s := by
  have hhome : homeFdb (ctlCross h.2.2.2 die (modTables (fun x => { x with hits := x.hits.erase h }) s)) h.2.1
      = homeFdb s h.2.1 := homeFdb_hitTaken _
  unfold hitNotice
  simp only [hh, hhome, hitTaken]

theorem runs_hitNotice (hc : Canonical s)
    (hh : s.tables.hits.find? (fun h => decide (h.1 = die) && ctlRoom s h.2.2.2 die) = some h) :
    Runs (.hitNotice die) s (fun u => u.tables.hits = s.tables.hits.erase h
      ∧ homeFdb u h.2.1 = (if (homeFdb s h.2.1).valid = true ∧ (homeFdb s h.2.1).key = h.2.2.1 then
          { homeFdb s h.2.1 with hit := true, age := 0 } else homeFdb s h.2.1)
      ∧ ∀ j, j ≠ h.2.1 → homeFdb u j = homeFdb s j) := by
  obtain ⟨hwf, -⟩ := hc.tables
  have hwf' : Tab.wf FdbEntry.reset (hitTaken die h s).tables.fdb = true := by
    rw [tables_hitTaken]
    exact hwf
  refine ⟨_, congrArg Host.Outcome.next (hitNotice_takes hh), ?_⟩
  beta_reduce
  split
  · refine ⟨?_, homeFdb_putHome_same hwf' _ _, fun j hj => ?_⟩
    · rw [(enters_putHome ..).hits, tables_hitTaken]
    · rw [homeFdb_putHome_other hj, homeFdb_hitTaken]
  · refine ⟨?_, homeFdb_hitTaken _, fun j _ => homeFdb_hitTaken j⟩
    rw [tables_hitTaken]

end Hit

theorem runs_learnFilterExpiry {t die key : Nat} {s : State} (hwf : Tab.wf [] s.tables.filter = true) :
    Runs (.learnFilterExpiry t ⟨die, key⟩) s (fun u =>
      u = { advance t s with tables := { s.tables with filter := u.tables.filter } }
      ∧ ((filterKeys (advance t s) die).any (fun e => decide (e.1 = key)) = true → u = advance t s)
      ∧ ((filterKeys (advance t s) die).any (fun e => decide (e.1 = key)) = false →
        Tab.get [] u.tables.filter die = (Tab.get [] s.tables.filter die).filter (fun e => decide (e.1 ≠ key)))
      ∧ ∀ d, d ≠ die → Tab.get [] u.tables.filter d = Tab.get [] s.tables.filter d) := by
  have ht : (advance t s).tables = s.tables := advance_tables ..
  cases hf : (filterKeys (advance t s) die).any (fun e => decide (e.1 = key)) with
  | true =>
    refine ⟨_, congrArg Host.Outcome.next (if_pos hf), ?_, fun _ => rfl, fun h => absurd h (by simp), fun d _ => by rw [ht]⟩
    rw [← ht]
  | false =>
    have hno : ¬(filterKeys (advance t s) die).any (fun e => decide (e.1 = key)) = true := by simp [hf]
    refine ⟨_, congrArg Host.Outcome.next (if_neg hno), ?_, fun h => absurd h (by simp), fun _ => ?_, fun d hd => ?_⟩
    · rw [← ht]
      rfl
    · unfold filterDrop modTables
      dsimp only
      rw [ht, Tab.get_set_same _ _ hwf]
    · unfold filterDrop modTables
      dsimp only
      rw [ht, Tab.get_set_other _ _ (Ne.symm hd)]

/-! ### The ager -/

section Ager
variable {t i : Nat} {s : State}

/-- The next visit of an entry is set. -/
def agerSet (i due : Nat) (s : State) : State := modTables (fun x => { x with agerDue := Tab.set 0 x.agerDue i due }) s

theorem alike_agerSet (i due : Nat) (s : State) : SweepAlike s (agerSet i due s) := ⟨rfl, rfl, rfl, rfl, rfl, rfl⟩

theorem dict_agerSet (i due : Nat) (s : State) : (agerSet i due s).dict = s.dict := rfl

theorem learnClock_agerSet (i due : Nat) (s : State) : learnClock (agerSet i due s) = learnClock s := rfl

theorem agerDue_agerSet (i due : Nat) (s : State) :
    (agerSet i due s).tables.agerDue = Tab.set 0 s.tables.agerDue i due := rfl

/-- The next visit of an entry is set and every sweep has come as far as the clock. -/
def agerAt (t i : Nat) (s : State) : State :=
  sweepAll (agerSet i (t + cfgN s 0x2900 1 * 10 ^ 15 / 7) (advance t s))

theorem agerComes_early (h : t < Tab.get 0 s.tables.agerDue i) : agerComes t i (advance t s) = advance t s := by
  unfold agerComes
  exact if_pos (by rwa [advance_tables])

theorem agerComes_due (h : Tab.get 0 s.tables.agerDue i ≤ t) :
    agerComes t i (advance t s) = agerVisit i (agerAt t i s) := by
  unfold agerComes agerAt agerSet
  rw [cfgN_advance]
  exact if_neg (by rw [advance_tables]; omega)

theorem alike_agerAt : SweepAlike (sweepAll (advance t s)) (agerAt t i s) :=
  (alike_agerSet ..).sweepAll

theorem dict_agerAt : (agerAt t i s).dict = s.dict := by
  unfold agerAt
  rw [(enters_sweepAll _).dict, dict_agerSet, advance_dict]

theorem agerDue_agerAt : (agerAt t i s).tables.agerDue
    = Tab.set 0 s.tables.agerDue i (t + cfgN s 0x2900 1 * 10 ^ 15 / 7) := by
  unfold agerAt
  rw [(enters_sweepAll _).agerDue, agerDue_agerSet, advance_tables]

theorem learnClock_agerAt : learnClock (agerAt t i s) = learnClock (advance t s) := by
  unfold agerAt
  rw [learnClock_congr (enters_sweepAll _).clock (enters_sweepAll _).learnZero, learnClock_agerSet]

theorem cfgN_agerAt (idx sub : Nat) : cfgN (agerAt t i s) idx sub = cfgN s idx sub := by
  simp only [cfgN, cfg, dict_agerAt]

theorem agerDue_agerVisit (x : State) : (agerVisit i x).tables.agerDue = x.tables.agerDue := by
  have hflags := (spreads_visitFlags i x).enters.agerDue
  rw [agerVisit_eq]
  split
  · rfl
  · split
    · rw [(count_only ..).tables, (enters_dropFdb ..).agerDue, hflags]
    · rw [(enters_putHome ..).agerDue, hflags]

theorem dict_visitFlags (x : State) : (visitFlags i x).dict = x.dict := (spreads_visitFlags i x).enters.dict

theorem runs_agerVisit {e : FdbEntry} {s1 : State} (hc : Canonical s) (hdue : Tab.get 0 s.tables.agerDue i ≤ t)
    (hs1 : s1 = sweepAll (advance t s)) (he : e = homeFdb s1 i) :
    Runs (.agerVisit t i) s (fun u => (∀ j, j ≠ i → homeFdb u j = homeFdb s1 j)
      ∧ (Tab.wf 0 s.tables.agerDue = true →
          Tab.get 0 u.tables.agerDue i = t + cfgN s 0x2900 1 * 10 ^ 15 / 7)
      ∧ (e.valid = false → homeFdb u i = e)
      ∧ (e.valid = true ∧ e.static = false ∧ 6 ≤ e.age → homeFdb u i = FdbEntry.reset
          ∧ counter u 0x2904 9 = satAdd64 (counter s 0x2904 9) 1)
      ∧ (e.valid = true ∧ (e.static = true ∨ e.age < 6) → homeFdb u i = { e with
          hit := false, age := if e.static then e.age else e.age + 1
          recent := e.recent && decide ((learnClock (advance t s) + 2 ^ 40 - e.stamp) % 2 ^ 40 < cfgN s 0x2900 2) })) := by
  have halike := alike_agerAt (t := t) (i := i) (s := s)
  have hwf : Tab.wf FdbEntry.reset (agerAt t i s).tables.fdb = true := by
    rw [halike.fdb]
    exact fdb_swept_wf hc
  have hhome : ∀ j, homeFdb s1 j = homeFdb (agerAt t i s) j := fun j => by rw [hs1, homeFdb_congr halike.fdb j]
  rw [hhome] at he
  subst he
  refine ⟨_, congrArg Host.Outcome.next (agerComes_due hdue), ?_⟩
  beta_reduce
  refine ⟨fun j hj => ?_, fun hdwf => ?_, fun hv => ?_, fun ⟨hv, hst, hage⟩ => ⟨?_, ?_⟩, fun ⟨hv, hyoung⟩ => ?_⟩
  · rw [homeFdb_agerVisit_other hj, hhome]
  · rw [agerDue_agerVisit, agerDue_agerAt, Tab.get_set_same _ _ hdwf]
  · rw [agerVisit_unused hv]
  · exact homeFdb_agerVisit_old hwf hv hst hage
  · rw [agerVisit_old hv hst hage]
    exact counter_count_of_dict ((enters_dropFdb ..).dict.trans ((dict_visitFlags _).trans dict_agerAt)) _ _
  · rw [homeFdb_agerVisit_young hwf hv hyoung, visitedEntry, sinceStamp, learnClock_agerAt, cfgN_agerAt]

end Ager

/-! ### Flush sweeps -/

section Flush
variable {t die : Nat} {s : State}

theorem runs_flushSweep_starts (hs : Tab.get [] s.tables.sweep die = []) (hf : Tab.get [] s.tables.flush die ≠ [])
    (hwf : Tab.wf [] s.tables.flush = true) :
    Runs (.flushSweep ⟨t, die⟩) s (fun u => Tab.get [] u.tables.sweep die = Tab.get [] s.tables.flush die
      ∧ Tab.get [] u.tables.flush die = [] ∧ u.tables.fdb = s.tables.fdb
      ∧ (0 < t → Tab.get (0, 0) u.tables.sweepAt die = ((advance t s).clock, 0))) := by
  have ht : (advance t s).tables = s.tables := advance_tables ..
  have hno : ¬(Tab.get [] (advance t s).tables.sweep die ≠ [] ∨ Tab.get [] (advance t s).tables.flush die = []) := by
    rw [ht]
    exact fun h => h.elim (absurd hs) hf
  refine ⟨_, congrArg Host.Outcome.next (if_neg hno), ?_⟩
  unfold modTables
  dsimp only
  rw [ht]
  refine ⟨Tab.get_set_of_ne _ _ hf, Tab.get_set_same _ _ hwf, rfl, fun hpos => Tab.get_set_of_ne _ _ fun h => ?_⟩
  have hclock : (advance t s).clock = 0 := congrArg Prod.fst h
  have hle : t ≤ (advance t s).clock := by
    rw [advance_clock]
    exact Nat.le_max_right ..
  omega

theorem runs_flushSweep_goes {upTo : Nat} {w : Nat × Nat} (hc : Canonical s) (hs : Tab.get [] s.tables.sweep die ≠ [])
    (hw : w = Tab.get (0, 0) s.tables.sweepAt die) (hup : upTo = min (tblPlaces 0) (placesIn w.1 (advance t s).clock)) :
    Runs (.flushSweep ⟨t, die⟩) s (fun u => u.tables.sweep = s.tables.sweep ∧ u.tables.flush = s.tables.flush
      ∧ ∀ i, homeFdb u i = (if (homeFdb s i).valid = true ∧ (homeFdb s i).static = false
          ∧ (Tab.get [] s.tables.sweep die).contains (homeFdb s i).dest = true ∧ homeOf s (homeFdb s i).key = die
          ∧ w.2 ≤ placeOf 0 i ∧ placeOf 0 i < upTo then FdbEntry.reset else homeFdb s i)) := by
  have ht : (advance t s).tables = s.tables := advance_tables ..
  have hs' : Tab.get [] (advance t s).tables.sweep die ≠ [] := by rwa [ht]
  obtain ⟨hwf, -⟩ := (canonical_advance t hc).tables
  have hhome : ∀ i, homeFdb (advance t s) i = homeFdb s i := homeFdb_congr (congrArg Tables.fdb ht)
  have hdie : ∀ k, homeOf (advance t s) k = homeOf s k :=
    homeOf_congr (by rw [advance_dict]) (advance_test ..)
  refine ⟨_, congrArg Host.Outcome.next (if_pos (Or.inl hs')), ?_⟩
  beta_reduce
  refine ⟨by rw [(enters_sweepRun ..).sweep, ht], by rw [(enters_sweepRun ..).flush, ht], fun i => ?_⟩
  have hmem := mem_sweepGoes (die := die) hwf i
  rw [ht, hhome, hdie, ← hw, ← hup] at hmem
  rw [homeFdb_sweepRun hwf hs', hhome]
  simp only [hmem]

/-- A sweep that has had a clock for each place has visited all of them. -/
theorem places_swept (hs : Tab.get [] s.tables.sweep die ≠ [])
    (hlong : (Tab.get (0, 0) s.tables.sweepAt die).1 + tblPlaces 0 * 781250 ≤ s.clock) :
    tblPlaces 0 ≤ (Tab.get (0, 0) (sweepRun die s).tables.sweepAt die).2 := by
  have hplaces : tblPlaces 0 ≤ placesIn (Tab.get (0, 0) s.tables.sweepAt die).1 s.clock := by
    unfold placesIn ceilDiv
    generalize tblPlaces 0 = n at hlong ⊢
    rw [Nat.le_div_iff_mul_le (by omega)]
    omega
  have hge : tblPlaces 0 ≤ max (Tab.get (0, 0) s.tables.sweepAt die).2
      (min (tblPlaces 0) (placesIn (Tab.get (0, 0) s.tables.sweepAt die).1 s.clock)) := by
    rw [Nat.min_eq_left hplaces]
    exact Nat.le_max_right ..
  rw [sweepAt_sweepRun hs, sweepMoved, Tab.get_set_of_ne]
  · exact hge
  · intro h
    have hzero := congrArg Prod.snd h
    dsimp only at hzero
    rw [hzero] at hge
    exact absurd hge (by decide)

theorem runs_flushSweepEnd {s1 : State} (hwf : Tab.wf [] s.tables.sweep = true) (hs1 : s1 = sweepRun die (advance t s)) :
    Runs (.flushSweepEnd ⟨t, die⟩) s (fun u =>
      ((Tab.get (0, 0) s1.tables.sweepAt die).2 < tblPlaces 0 → u = s1)
      ∧ (tblPlaces 0 ≤ (Tab.get (0, 0) s1.tables.sweepAt die).2 → Tab.get [] u.tables.sweep die = []
        ∧ u = { s1 with tables := { s1.tables with sweep := u.tables.sweep, sweepAt := u.tables.sweepAt } })
      ∧ ((Tab.get (0, 0) s.tables.sweepAt die).1 + tblPlaces 0 * 781250 ≤ (advance t s).clock →
        Tab.get [] u.tables.sweep die = [])) := by
  subst hs1
  have ht : (advance t s).tables = s.tables := advance_tables ..
  have hsweep : (sweepRun die (advance t s)).tables.sweep = s.tables.sweep := by rw [(enters_sweepRun ..).sweep, ht]
  have hlong : (Tab.get (0, 0) s.tables.sweepAt die).1 + tblPlaces 0 * 781250 ≤ (advance t s).clock →
      Tab.get [] s.tables.sweep die = []
        ∨ tblPlaces 0 ≤ (Tab.get (0, 0) (sweepRun die (advance t s)).tables.sweepAt die).2 := fun h => by
    rw [← ht] at h ⊢
    by_cases hs : Tab.get [] (advance t s).tables.sweep die = []
    · exact .inl hs
    · exact .inr (places_swept hs h)
  by_cases hend : tblPlaces 0 ≤ (Tab.get (0, 0) (sweepRun die (advance t s)).tables.sweepAt die).2
  · have hempty : Tab.get [] (Tab.set [] (sweepRun die (advance t s)).tables.sweep die []) die = [] :=
      Tab.get_set_same _ _ (by rwa [hsweep])
    exact ⟨_, congrArg Host.Outcome.next (if_pos hend), fun h => absurd hend (Nat.not_le.mpr h),
      fun _ => ⟨hempty, rfl⟩, fun _ => hempty⟩
  · refine ⟨_, congrArg Host.Outcome.next (if_neg hend), fun _ => rfl, fun h => absurd h hend, fun h => ?_⟩
    rw [hsweep]
    exact (hlong h).resolve_right hend

end Flush

end Sys2Proof.Machine

namespace Sys2Proof
open Machine

/-- Settles O36: an engine takes what its queue or its due time gives it, lets the sweeps come as far as the clock and
changes the entry at one index; the sweeps see the same entries whatever the engine has taken. -/
theorem tableEngine : Obligations.TableEngine :=
  ⟨fun _ _ _ _ hc hm hr hw => runs_replicaWrite hc hm hr hw,
    fun _ _ _ h => ⟨_, congrArg Host.Outcome.next (replicaWrite_held h), rfl⟩,
    fun _ _ hc hr => runs_resyncDone hc hr,
    fun _ _ _ _ _ _ _ _ hc hq hr hs1 hkey hnow => runs_learn hc hq hr hs1 hkey hnow,
    fun _ _ _ _ _ hq hr => runs_learn_held hq hr,
    fun _ _ _ hc hh => runs_hitNotice hc hh,
    fun _ _ _ _ hwf => runs_learnFilterExpiry hwf,
    fun _ _ _ h => ⟨_, congrArg Host.Outcome.next (agerComes_early h), rfl⟩,
    fun _ _ _ _ _ hc hdue hs1 he => runs_agerVisit hc hdue hs1 he,
    fun _ _ _ _ hs hf hwf => runs_flushSweep_starts hs hf hwf,
    fun _ _ _ _ _ hc hs hw hup => runs_flushSweep_goes hc hs hw hup,
    fun _ _ _ _ _ hwf hs1 => runs_flushSweepEnd hwf hs1⟩

end Sys2Proof
end

section
/-! Work queues: the commands of Q_CTRL (spec 11 R363, R364, R379, R380). -/

namespace Sys2Proof
open Machine

/-! ### What a frame by blocks leaves -/

section Blocks
variable {l : List Blk} {s u : State}

theorem Frame.wq (h : Frame l s u) (hb : Blk.wq ∉ l) : u.wq = s.wq := h.2 _ hb
theorem Frame.polders (h : Frame l s u) (hb : Blk.polders ∉ l) : u.polders = s.polders := h.2 _ hb
theorem Frame.counters (h : Frame l s u) (hb : Blk.counters ∉ l) : u.dict.counters = s.dict.counters := h.2 _ hb
theorem Frame.buf (h : Frame l s u) (hb : Blk.buf ∉ l) : u.buf = s.buf := h.2 _ hb
theorem Frame.sched (h : Frame l s u) (hb : Blk.sched ∉ l) : u.sched = s.sched := h.2 _ hb
theorem Frame.cipher (h : Frame l s u) (hb : Blk.cipher ∉ l) : u.cipher = s.cipher := h.2 _ hb
theorem Frame.siphon (h : Frame l s u) (hb : Blk.siphon ∉ l) : u.siphon = s.siphon := h.2 _ hb
theorem Frame.jrn (h : Frame l s u) (hb : Blk.jrn ∉ l) : u.jrn = s.jrn := h.2 _ hb
theorem Frame.funcs (h : Frame l s u) (hb : Blk.funcs ∉ l) : u.ep.funcs = s.ep.funcs := h.2 _ hb

theorem Frame.mbx (h : Frame l s u) (hb : Blk.mbx ∉ l) : u.mbx = s.mbx := h.2 _ hb
theorem Frame.test (h : Frame l s u) (hb : Blk.test ∉ l) : u.test = s.test := h.2 _ hb
theorem Frame.boot (h : Frame l s u) (hb : Blk.boot ∉ l) : u.boot = s.boot := h.2 _ hb
theorem Frame.board (h : Frame l s u) (hb : Blk.board ∉ l) : u.board = s.board := h.2 _ hb
theorem Frame.ports (h : Frame l s u) (hb : Blk.ports ∉ l) : u.ports = s.ports := h.2 _ hb
theorem Frame.tables (h : Frame l s u) (hb : Blk.tables ∉ l) : u.tables = s.tables := h.2 _ hb
theorem Frame.flow (h : Frame l s u) (hb : Blk.flow ∉ l) : u.flow = s.flow := h.2 _ hb
theorem Frame.culv (h : Frame l s u) (hb : Blk.culv ∉ l) : u.culv = s.culv := h.2 _ hb

/-- What the dictionary holds beside its counters. -/
theorem Frame.dict (h : Frame l s u) (hb : Blk.dict ∉ l) : { u.dict with counters := s.dict.counters } = s.dict := h.2 _ hb
theorem Frame.acts (h : Frame l s u) (hb : Blk.dict ∉ l) : u.dict.acts = s.dict.acts := (congrArg Dict.acts (h.dict hb) :)
theorem Frame.vals (h : Frame l s u) (hb : Blk.dict ∉ l) : u.dict.vals = s.dict.vals := (congrArg Dict.vals (h.dict hb) :)

end Blocks

end Sys2Proof

namespace Sys2Proof.Machine
open Sys2Proof

theorem queue_congr {s u : State} (h : u.wq = s.wq) (fn q : Nat) : u.queue fn q = s.queue fn q :=
  congrArg (fun w : Wq => Tab.get Queue.reset w.queues (qKey fn q)) h

/-! ### Writes of one queue -/

section Set
variable {fn q : Nat} {s : State}

theorem queueSet_setQueue (h : Tab.wf Queue.reset s.wq.queues = true) (x : Queue) :
    QueueSet fn q x s (s.setQueue fn q x) :=
  ⟨rfl, queue_setQueue_same h fn q x, fun g p hk => queue_setQueue_other s fn q g p x (Ne.symm hk)⟩

theorem queueSet_trans {x y : Queue} {u v : State} (a : QueueSet fn q x s u) (b : QueueSet fn q y u v) :
    QueueSet fn q y s v := by
  obtain ⟨ha, -, hother⟩ := a
  obtain ⟨hb, hsame, hother'⟩ := b
  refine ⟨?_, hsame, fun g p hk => (hother' g p hk).trans (hother g p hk)⟩
  rw [hb, ha]

theorem wf_setQueue (h : Tab.wf Queue.reset s.wq.queues = true) (x : Queue) :
    Tab.wf Queue.reset (s.setQueue fn q x).wq.queues = true := Tab.wf_set _ _ h

end Set

/-! ### Q_CTRL -/

@[simp] theorem queueThere_advance (t : Nat) (s : State) (fn q : Nat) :
    queueThere (advance t s) fn q = queueThere s fn q := by
  simp only [queueThere, barOpen_advance, polderLive, polder_advance]

section Ctrl
variable {fn q cmd word : Nat} {go : Queue → State → Nat × State} {s : State}
variable (ht : queueThere s fn q = true) (hr : (s.queue fn q).resetting = false)

/-- The queue as a command that is accepted finds it. -/
def commanded (cmd word : Nat) (x : Queue) : Queue := { x with cmd := cmd + 16 * (word % 16) }

/-- The queue once a command has given its result. -/
def answered (r : Nat) (was x : Queue) : Queue := { x with cmdResult := r, ignored := decide (r ≠ crOK) && was.ignored }

include ht in
theorem qctrl_resetting (h : (s.queue fn q).resetting = true) :
    qctrl fn q cmd word go s = s.setQueue fn q { s.queue fn q with ignored := true } := by
  unfold qctrl
  simp only [ht, h, Bool.not_true, Bool.false_eq_true, ↓reduceIte]

include ht hr

theorem qctrl_taken {r : Nat} {y : State}
    (h : go (commanded cmd word (s.queue fn q)) (s.setQueue fn q (commanded cmd word (s.queue fn q))) = (r, y)) :
    qctrl fn q cmd word go s = y.setQueue fn q (answered r (s.queue fn q) (y.queue fn q)) := by
  simp only [commanded] at h
  unfold qctrl
  rw [if_neg (by simp [ht])]
  dsimp only
  rw [if_neg (by simp [hr]), h, answered]

variable (hwf : Tab.wf Queue.reset s.wq.queues = true)
include hwf

/-- A command that leaves the queue as it finds it. -/
theorem qctrl_keeps {r : Nat}
    (h : go (commanded cmd word (s.queue fn q)) (s.setQueue fn q (commanded cmd word (s.queue fn q)))
      = (r, s.setQueue fn q (commanded cmd word (s.queue fn q)))) :
    QueueSet fn q (answered r (s.queue fn q) (commanded cmd word (s.queue fn q))) s (qctrl fn q cmd word go s) := by
  rw [qctrl_taken ht hr h, queue_setQueue_same hwf]
  exact queueSet_trans (queueSet_setQueue hwf _) (queueSet_setQueue (wf_setQueue hwf _) _)

/-- A command that changes nothing but the queue. -/
theorem qctrl_sets {r : Nat} {x : Queue}
    (h : go (commanded cmd word (s.queue fn q)) (s.setQueue fn q (commanded cmd word (s.queue fn q)))
      = (r, (s.setQueue fn q (commanded cmd word (s.queue fn q))).setQueue fn q x)) :
    QueueSet fn q (answered r (s.queue fn q) x) s (qctrl fn q cmd word go s) := by
  have hwf1 := wf_setQueue (fn := fn) (q := q) hwf (commanded cmd word (s.queue fn q))
  rw [qctrl_taken ht hr h, queue_setQueue_same hwf1]
  exact queueSet_trans (queueSet_trans (queueSet_setQueue hwf _) (queueSet_setQueue hwf1 _))
    (queueSet_setQueue (wf_setQueue hwf1 _) _)

end Ctrl

section Commands
variable {t fn q : Nat} {s : State} (hc : Canonical s) (ht : queueThere s fn q = true)
variable (hr : (s.queue fn q).resetting = false)

theorem qLoad_disabled {w : Nat} {x : Queue} (h : x.st = .disabled) (y : State) :
    qLoad fn q w x y = (crOK, y.setQueue fn q { x with ctx := Tab.set 0#32 x.ctx (w % 16) x.data }) := if_pos h

theorem qLoad_other {w : Nat} {x : Queue} (h : x.st ≠ .disabled) (y : State) : qLoad fn q w x y = (crSTATE, y) := if_neg h

theorem qRead_disabled {w : Nat} {x : Queue} (h : x.st = .disabled) (y : State) :
    qRead fn q w x y = (crOK, y.setQueue fn q { x with data := Tab.get 0#32 x.ctx (w % 16) }) := if_pos h

theorem qRead_other {w : Nat} {x : Queue} (h : x.st ≠ .disabled) (y : State) : qRead fn q w x y = (crSTATE, y) := if_neg h

theorem qEnable_other {x : Queue} (h : x.st ≠ .disabled) (y : State) : qEnable fn q x y = (crSTATE, y) := if_pos h

theorem qEnable_bad {x : Queue} (h : x.st = .disabled) {y : State} (hb : contextBad y fn q x = true) :
    qEnable fn q x y = (crCONTEXT, y) := by
  unfold qEnable
  rw [if_neg (not_not.mpr h), if_pos hb]

theorem qEnable_over {x : Queue} (h : x.st = .disabled) {y : State} (hb : contextBad y fn q x = false)
    (ho : qSamplePeriod x ≠ 0 ∧ hostSampleOver y (qSamplePeriod x) = true) : qEnable fn q x y = (crRESOURCE, y) := by
  unfold qEnable
  rw [if_neg (not_not.mpr h), if_neg (by simp [hb]), if_pos ho]

theorem qEnable_good {x : Queue} (h : x.st = .disabled) {y : State} (hb : contextBad y fn q x = false)
    (ho : qSamplePeriod x = 0 ∨ hostSampleOver y (qSamplePeriod x) = false) :
    qEnable fn q x y = (crOK, y.setQueue fn q (queueEnabled x)) := by
  unfold qEnable
  rw [if_neg (not_not.mpr h), if_neg (by simp [hb]), if_neg]
  rintro ⟨h0, hover⟩
  rcases ho with ho | ho
  · exact h0 ho
  · exact absurd hover (by simp [ho])

include hc ht hr

theorem runs_qNop :
    Runs (.qNop fn q) s (QueueSet fn q { s.queue fn q with ignored := false, cmd := 0, cmdResult := 0 } s) :=
  ⟨_, rfl, qctrl_keeps (cmd := 0) (word := 0) (go := fun _ st => (crOK, st)) (r := crOK) ht hr hc.queues rfl⟩

theorem runs_qLoad {w : Nat} (hst : (s.queue fn q).st = .disabled) (hw : w < 16) :
    Runs (.qLoad fn q w) s (QueueSet fn q { s.queue fn q with
      ignored := false, cmd := 1 + 16 * w, cmdResult := 0
      ctx := Tab.set 0#32 (s.queue fn q).ctx w (s.queue fn q).data } s)
    ∧ Runs (.qRead fn q w) s (QueueSet fn q { s.queue fn q with
      ignored := false, cmd := 2 + 16 * w, cmdResult := 0, data := Tab.get 0#32 (s.queue fn q).ctx w } s) := by
  have hmod : w % 16 = w := Nat.mod_eq_of_lt hw
  have hload := qctrl_sets (cmd := 1) (word := w) ht hr hc.queues (go := qLoad fn q w)
    (qLoad_disabled (x := commanded 1 w (s.queue fn q)) hst _)
  have hread := qctrl_sets (cmd := 2) (word := w) ht hr hc.queues (go := qRead fn q w)
    (qRead_disabled (x := commanded 2 w (s.queue fn q)) hst _)
  simp only [commanded, hmod] at hload hread
  exact ⟨⟨_, rfl, hload⟩, ⟨_, rfl, hread⟩⟩

theorem runs_qctrl_state {w : Nat} (hst : (s.queue fn q).st ≠ .disabled) (hw : w < 16) :
    Runs (.qLoad fn q w) s (QueueSet fn q { s.queue fn q with cmd := 1 + 16 * w, cmdResult := 1 } s)
    ∧ Runs (.qRead fn q w) s (QueueSet fn q { s.queue fn q with cmd := 2 + 16 * w, cmdResult := 1 } s)
    ∧ Runs (.qEnable t fn q) s (QueueSet fn q { s.queue fn q with cmd := 3, cmdResult := 1 } (advance t s)) := by
  have hmod : w % 16 = w := Nat.mod_eq_of_lt hw
  have hload := qctrl_keeps (cmd := 1) (word := w) ht hr hc.queues (go := qLoad fn q w)
    (qLoad_other (x := commanded 1 w (s.queue fn q)) hst _)
  have hread := qctrl_keeps (cmd := 2) (word := w) ht hr hc.queues (go := qRead fn q w)
    (qRead_other (x := commanded 2 w (s.queue fn q)) hst _)
  have henable := qctrl_keeps (s := advance t s) (cmd := 3) (word := 0) (go := qEnable fn q) (by rwa [queueThere_advance])
    (by rwa [queue_advance]) (canonical_advance t hc).queues
    (qEnable_other (x := commanded 3 0 ((advance t s).queue fn q)) (by rw [queue_advance]; exact hst) _)
  rw [queue_advance] at henable
  simp only [commanded, hmod] at hload hread
  exact ⟨⟨_, rfl, hload⟩, ⟨_, rfl, hread⟩, ⟨_, rfl, henable⟩⟩

variable {x : Queue} (hst : (s.queue fn q).st = .disabled) (hx : x = { s.queue fn q with cmd := 3 })
include hst hx

theorem runs_qEnable (hb : contextBad ((advance t s).setQueue fn q x) fn q x = false)
    (ho : qSamplePeriod x = 0 ∨ hostSampleOver ((advance t s).setQueue fn q x) (qSamplePeriod x) = false) :
    Runs (.qEnable t fn q) s (QueueSet fn q { Queue.reset with
      ctx := (s.queue fn q).ctx, data := (s.queue fn q).data, cmd := 3, sampleSeq := (s.queue fn q).sampleSeq
      st := .enabled, cmdResult := 0 } (advance t s)) := by
  have hx' : commanded 3 0 ((advance t s).queue fn q) = x := by rw [hx, queue_advance]; rfl
  have h := qctrl_sets (s := advance t s) (cmd := 3) (word := 0) (go := qEnable fn q) (by rwa [queueThere_advance])
    (by rwa [queue_advance]) (canonical_advance t hc).queues (by rw [hx']; exact qEnable_good (by rw [hx]; exact hst) hb ho)
  subst hx
  exact ⟨_, rfl, h⟩

theorem runs_qEnable_refused :
    (contextBad ((advance t s).setQueue fn q x) fn q x = true →
      Runs (.qEnable t fn q) s (QueueSet fn q { x with cmdResult := 2 } (advance t s)))
    ∧ (contextBad ((advance t s).setQueue fn q x) fn q x = false → qSamplePeriod x ≠ 0 →
      hostSampleOver ((advance t s).setQueue fn q x) (qSamplePeriod x) = true →
      Runs (.qEnable t fn q) s (QueueSet fn q { x with cmdResult := 3 } (advance t s))) := by
  have hx' : commanded 3 0 ((advance t s).queue fn q) = x := by rw [hx, queue_advance]; rfl
  have hst' : x.st = .disabled := by rw [hx]; exact hst
  have keeps : ∀ r, r ≠ crOK → qEnable fn q x ((advance t s).setQueue fn q x) = (r, (advance t s).setQueue fn q x) →
      QueueSet fn q { x with cmdResult := r } (advance t s) (qctrl fn q 3 0 (qEnable fn q) (advance t s)) := by
    intro r hne h
    have hset := qctrl_keeps (s := advance t s) (cmd := 3) (word := 0) (go := qEnable fn q) (by rwa [queueThere_advance])
      (by rwa [queue_advance]) (canonical_advance t hc).queues (by rw [hx']; exact h)
    have hans : answered r ((advance t s).queue fn q) x = { x with cmdResult := r } := by
      rw [answered, decide_eq_true hne, queue_advance, hx]
      rfl
    rw [hx', hans] at hset
    exact hset
  exact ⟨fun hb => ⟨_, rfl, keeps 2 (by decide) (qEnable_bad hst' hb)⟩,
    fun hb h0 ho => ⟨_, rfl, keeps 3 (by decide) (qEnable_over hst' hb ⟨h0, ho⟩)⟩⟩

end Commands

end Sys2Proof.Machine
end

section
/-! Work queues: RESET and DISABLE, and the statement about Q_CTRL (spec 11 R380). -/

namespace Sys2Proof.Machine
open Sys2Proof

/-! ### Chains that end -/

/-- From `s` to `u` the queues keep everything but their chains. -/
structure ChainsMove (s u : State) : Prop where
  moves : Tab.wf Queue.reset s.wq.queues = true → Tab.wf Queue.reset u.wq.queues = true
    ∧ ∀ g p, ∃ cs, u.queue g p = { s.queue g p with chains := cs }

theorem ChainsMove.of_wq {s u : State} (h : u.wq = s.wq) : ChainsMove s u :=
  ⟨fun hwf => ⟨by rw [h]; exact hwf, fun g p => ⟨(s.queue g p).chains, queue_congr h g p⟩⟩⟩

theorem ChainsMove.trans {s u v : State} (a : ChainsMove s u) (b : ChainsMove u v) : ChainsMove s v := by
  refine ⟨fun hwf => ?_⟩
  obtain ⟨hu, ha⟩ := a.moves hwf
  obtain ⟨hv, hb⟩ := b.moves hu
  refine ⟨hv, fun g p => ?_⟩
  obtain ⟨cs, hcs⟩ := ha g p
  obtain ⟨ds, hds⟩ := hb g p
  exact ⟨ds, by rw [hds, hcs]⟩

theorem chainsMove_forEach {α : Type} (l : List α) {f : α → State → State} (h : ∀ a s, ChainsMove s (f a s)) (s : State) :
    ChainsMove s (forEach l f s) := by
  induction l generalizing s with
  | nil => exact .of_wq rfl
  | cons a l ih => exact (h a s).trans (ih _)

theorem chainsMove_updChain (fn q first : Nat) (f : Chain → Chain) (s : State) : ChainsMove s (updChain fn q first f s) := by
  refine ⟨fun hwf => ⟨wf_setQueue hwf _, fun g p => ?_⟩⟩
  unfold updChain
  by_cases hk : qKey g p = qKey fn q
  · have hq : ∀ y : State, y.queue g p = y.queue fn q := fun y => by simp only [State.queue, hk]
    rw [hq, hq, queue_setQueue_same hwf]
    exact ⟨_, rfl⟩
  · exact ⟨(s.queue g p).chains, queue_setQueue_other s fn q g p _ (Ne.symm hk)⟩

theorem chainsMove_finishChain (fn q first status result : Nat) (s : State) :
    ChainsMove s (finishChain fn q first status result s) := chainsMove_updChain ..

theorem chainsMove_jEnd (src : Option JSrc) (ref status result : Nat) (s : State) :
    ChainsMove s (jEnd src ref status result s) := by
  have hcarts : ∀ n : Option Nat, (match n with
      | none => s
      | some n => forEach (nsSlots (s.space n)) (fun i st => st.setCart i { st.cart i with lastCmd := s.clock }) s).wq = s.wq := by
    rintro (_ | n)
    · rfl
    · exact forEach_keeps State.wq (f := fun i st => st.setCart i { st.cart i with lastCmd := s.clock }) (fun _ _ => rfl) _ s
  unfold jEnd
  cases src with
  | none => exact .of_wq rfl
  | some x =>
    cases x with
    | queue fn q => exact (ChainsMove.of_wq (hcarts _)).trans (chainsMove_finishChain ..)
    | capsule g msg =>
      have hcap : ∀ y : State, (capRespond g msg status result y).wq = y.wq := fun y =>
        (Frame.capRespond (l := [.siphon]) (.of_all (by decide)) (.refl _ y) g msg status result).wq (by decide)
      exact .of_wq ((hcap _).trans (hcarts _))

theorem chainsMove_resetWrites (src : JSrc) (s : State) : ChainsMove s (resetWrites src s) := by
  have hcut : (journalCut (fun x => decide (x = src)) s).wq = s.wq :=
    (Frame.journalCut (l := [.cipher, .jrn]) (.of_all (by decide)) (.refl _ s) _).wq (by decide)
  refine (ChainsMove.of_wq hcut).trans (chainsMove_forEach _ (fun u st => ?_) _)
  split
  · exact .of_wq rfl
  · exact chainsMove_jEnd ..

theorem chainsMove_journalQueueReset (fn q : Nat) (s : State) : ChainsMove s (journalQueueReset fn q s) :=
  (chainsMove_resetWrites ..).trans (chainsMove_forEach _ (fun _ _ => chainsMove_finishChain ..) _)

/-! ### The end of a queue -/

theorem frame_endQueueWork (fn q : Nat) (s : State) :
    Frame [.counters, .buf, .sched, .ep, .cipher, .siphon] s (endQueueWork fn q s) :=
  Frame.endQueueWork (fun _ h => h) (.refl _ s) fn q

theorem wq_endQueueWork (fn q : Nat) (s : State) : (endQueueWork fn q s).wq = s.wq :=
  (frame_endQueueWork fn q s).wq (by decide)

/-- A queue after the check for the end of its draining. -/
def drained (x : Queue) : Queue :=
  if x.st = .draining ∧ x.chains = [] ∧ (x.waiting = [] ∨ x.resetting) then
    (if x.resetting then queueCleared x else { x with st := .disabled })
  else x

theorem drained_resetting {x : Queue} (hst : x.st = .draining) (hr : x.resetting = true) :
    (((drained x).st = .draining ∧ (drained x).resetting = true) ∨ (drained x).st = .disabled)
    ∧ (drained x).ctx = x.ctx := by
  unfold drained
  by_cases h : x.st = .draining ∧ x.chains = [] ∧ (x.waiting = [] ∨ x.resetting)
  · rw [if_pos h, if_pos hr]
    exact ⟨.inr rfl, rfl⟩
  · rw [if_neg h]
    exact ⟨.inl ⟨hst, hr⟩, rfl⟩

theorem drained_disabling {x : Queue} (hst : x.st = .draining) (hw : x.waiting = []) (hr : x.resetting = false) :
    drained x = { x with st := if x.chains = [] then .disabled else .draining } := by
  unfold drained
  by_cases h : x.chains = []
  · rw [if_pos ⟨hst, h, .inl hw⟩, if_neg (by simp [hr]), if_pos h]
  · rw [if_neg fun hh => h hh.2.1, if_neg h, ← hst]

theorem drainEnd_queue {fn q : Nat} {s : State} (hwf : Tab.wf Queue.reset s.wq.queues = true) :
    (drainEnd fn q s).queue fn q = drained (s.queue fn q) := by
  unfold drainEnd drained
  dsimp only
  split
  · rw [queue_setQueue_same hwf]
  · rfl

theorem drainEnd_other {fn q g p : Nat} {s : State} (h : qKey g p ≠ qKey fn q) :
    (drainEnd fn q s).queue g p = s.queue g p := by
  unfold drainEnd
  dsimp only
  split
  · exact queue_setQueue_other s fn q g p _ (Ne.symm h)
  · rfl

theorem wf_drainEnd {fn q : Nat} {s : State} (hwf : Tab.wf Queue.reset s.wq.queues = true) :
    Tab.wf Queue.reset (drainEnd fn q s).wq.queues = true := by
  unfold drainEnd
  dsimp only
  split
  · exact wf_setQueue hwf _
  · exact hwf

theorem answered_result (r : Nat) (was x : Queue) : (answered r was x).cmdResult = r := rfl
theorem answered_st (r : Nat) (was x : Queue) : (answered r was x).st = x.st := rfl
theorem answered_resetting (r : Nat) (was x : Queue) : (answered r was x).resetting = x.resetting := rfl
theorem answered_ctx (r : Nat) (was x : Queue) : (answered r was x).ctx = x.ctx := rfl

theorem polders_setQueue (fn q : Nat) (x : Queue) (s : State) : (s.setQueue fn q x).polders = s.polders := rfl

section End
variable {t fn q : Nat} {s : State} (hc : Canonical s) (ht : queueThere s fn q = true)
variable (hr : (s.queue fn q).resetting = false)

/-- The state a command of Q_CTRL starts from. -/
def startedCtrl (t fn q cmd : Nat) (s : State) : State :=
  (advance t s).setQueue fn q (commanded cmd 0 (s.queue fn q))

theorem ctrl_taken {cmd : Nat} {go : Queue → State → Nat × State} {r : Nat} {y : State} (ht : queueThere s fn q = true)
    (hr : (s.queue fn q).resetting = false) (h : go (commanded cmd 0 (s.queue fn q)) (startedCtrl t fn q cmd s) = (r, y)) :
    qctrl fn q cmd 0 go (advance t s) = y.setQueue fn q (answered r (s.queue fn q) (y.queue fn q)) := by
  have h' := qctrl_taken (fn := fn) (q := q) (cmd := cmd) (word := 0) (go := go) (s := advance t s) (r := r) (y := y)
    (by rwa [queueThere_advance]) (by rwa [queue_advance]) (by rw [queue_advance]; exact h)
  rwa [queue_advance] at h'

include hc in
theorem wf_startedCtrl (cmd : Nat) : Tab.wf Queue.reset (startedCtrl t fn q cmd s).wq.queues = true :=
  wf_setQueue (canonical_advance t hc).queues _

include hc in
theorem queue_startedCtrl (cmd : Nat) : (startedCtrl t fn q cmd s).queue fn q = commanded cmd 0 (s.queue fn q) :=
  queue_setQueue_same (canonical_advance t hc).queues _ _ _

theorem queue_startedCtrl_other (cmd : Nat) {g p : Nat} (h : qKey g p ≠ qKey fn q) :
    (startedCtrl t fn q cmd s).queue g p = s.queue g p :=
  (queue_setQueue_other (advance t s) fn q g p _ (Ne.symm h)).trans (queue_advance ..)

include hc ht hr

theorem runs_qReset (hk : qKind (s.queue fn q) ≠ kJOURNAL ∨ (s.queue fn q).chains = [] ∨ (s.queue fn q).st = .disabled) :
    Runs (.qReset t fn q) s (fun u => (u.queue fn q).st = .disabled ∧ (u.queue fn q).head = 0
      ∧ (u.queue fn q).tail = 0 ∧ (u.queue fn q).status = 0 ∧ (u.queue fn q).reason = 0 ∧ (u.queue fn q).errIdx = 0
      ∧ (u.queue fn q).chains = [] ∧ (u.queue fn q).waiting = [] ∧ (u.queue fn q).cmdResult = 0
      ∧ (u.queue fn q).ctx = (s.queue fn q).ctx ∧ (∀ g p, qKey g p ≠ qKey fn q → u.queue g p = s.queue g p)
      ∧ u.polders = s.polders) := by
  have hwq := wq_endQueueWork fn q (startedCtrl t fn q 5 s)
  have hwf1 : Tab.wf Queue.reset (endQueueWork fn q (startedCtrl t fn q 5 s)).wq.queues = true := by
    rw [hwq]
    exact wf_startedCtrl hc 5
  have hreset : qReset fn q (commanded 5 0 (s.queue fn q)) (startedCtrl t fn q 5 s) =
      (crOK, (endQueueWork fn q (startedCtrl t fn q 5 s)).setQueue fn q (queueCleared (commanded 5 0 (s.queue fn q)))) := by
    unfold qReset
    dsimp only
    rw [queue_congr hwq, queue_startedCtrl hc]
    refine if_neg ?_
    rintro ⟨h1, h2, h3⟩
    rcases hk with hk | hk | hk
    · exact hk h1
    · exact h2 hk
    · exact h3 hk
  refine ⟨_, congrArg Host.Outcome.next (ctrl_taken ht hr hreset), ?_⟩
  beta_reduce
  rw [queue_setQueue_same (wf_setQueue hwf1 _), queue_setQueue_same hwf1]
  refine ⟨rfl, rfl, rfl, rfl, rfl, rfl, rfl, rfl, rfl, rfl, fun g p hkey => ?_, ?_⟩
  · rw [queue_setQueue_other _ fn q g p _ (Ne.symm hkey), queue_setQueue_other _ fn q g p _ (Ne.symm hkey), queue_congr hwq,
      queue_startedCtrl_other 5 hkey]
  · rw [polders_setQueue, polders_setQueue, (frame_endQueueWork ..).polders (by decide), startedCtrl, polders_setQueue,
      advance_polders]

omit hc ht hr in
/-- What a RESET that waits for started commands leaves of its queue. -/
theorem resetJournal_queue {y : State} (hwf : Tab.wf Queue.reset y.wq.queues = true) :
    Tab.wf Queue.reset (resetJournal fn q y).wq.queues = true
    ∧ ((resetJournal fn q y).queue fn q).st = .draining ∧ ((resetJournal fn q y).queue fn q).resetting = true
    ∧ ((resetJournal fn q y).queue fn q).ctx = (y.queue fn q).ctx := by
  obtain ⟨hwf1, hmoves⟩ := (chainsMove_journalQueueReset fn q y).moves hwf
  obtain ⟨cs, hcs⟩ := hmoves fn q
  unfold resetJournal
  dsimp only
  rw [queue_setQueue_same hwf1, hcs]
  exact ⟨wf_setQueue hwf1 _, rfl, rfl, rfl⟩

theorem runs_qReset_waits (hk : qKind (s.queue fn q) = kJOURNAL) (hch : (s.queue fn q).chains ≠ [])
    (hst : (s.queue fn q).st ≠ .disabled) :
    Runs (.qReset t fn q) s (fun u => (u.queue fn q).cmdResult = 0
      ∧ (((u.queue fn q).st = .draining ∧ (u.queue fn q).resetting = true) ∨ (u.queue fn q).st = .disabled)
      ∧ (u.queue fn q).ctx = (s.queue fn q).ctx) := by
  have hwq := wq_endQueueWork fn q (startedCtrl t fn q 5 s)
  have hwf1 : Tab.wf Queue.reset (endQueueWork fn q (startedCtrl t fn q 5 s)).wq.queues = true := by
    rw [hwq]
    exact wf_startedCtrl hc 5
  have hreset : qReset fn q (commanded 5 0 (s.queue fn q)) (startedCtrl t fn q 5 s) =
      (crOK, drainEnd fn q (resetJournal fn q (endQueueWork fn q (startedCtrl t fn q 5 s)))) := by
    unfold qReset
    exact if_pos ⟨hk, hch, hst⟩
  obtain ⟨hwf2, hdrain, hresetting, hctx⟩ := resetJournal_queue (fn := fn) (q := q) hwf1
  rw [queue_congr hwq, queue_startedCtrl hc] at hctx
  refine ⟨_, congrArg Host.Outcome.next (ctrl_taken ht hr hreset), ?_⟩
  beta_reduce
  rw [queue_setQueue_same (wf_drainEnd hwf2), drainEnd_queue hwf2]
  obtain ⟨hend, hkeep⟩ := drained_resetting hdrain hresetting
  rw [answered_result, answered_st, answered_resetting, answered_ctx]
  exact ⟨rfl, hend, hkeep.trans hctx⟩

omit ht hr in
/-- Whether a queue serves producers is not changed by the command word. -/
theorem active_startedCtrl (cmd : Nat) (p : Queue → Bool) (hp : ∀ x n, p (commanded n 0 x) = p x) :
    activeQueue (startedCtrl t fn q cmd s) fn (fun _ y => p y) = activeQueue s fn (fun _ y => p y) := by
  have hq : ∀ i, ((startedCtrl t fn q cmd s).queue fn i).st = (s.queue fn i).st
      ∧ p ((startedCtrl t fn q cmd s).queue fn i) = p (s.queue fn i) := fun i => by
    by_cases hk : qKey fn i = qKey fn q
    · have hi : ∀ y : State, y.queue fn i = y.queue fn q := fun y => by simp only [State.queue, hk]
      rw [hi, hi, queue_startedCtrl hc]
      exact ⟨rfl, hp ..⟩
    · rw [queue_startedCtrl_other cmd hk]
      exact ⟨rfl, rfl⟩
  have hpol : (startedCtrl t fn q cmd s).polder fn = s.polder fn := polder_advance ..
  have hst : ∀ i, decide (((startedCtrl t fn q cmd s).queue fn i).st ≠ .disabled)
      = decide ((s.queue fn i).st ≠ .disabled) := fun i => by rw [(hq i).1]
  unfold activeQueue
  rw [hpol]
  simp only [hst, fun i => (hq i).2]

/-- The reads of entries that DISABLE gives up. -/
def entryReads (fn q : Nat) (r : Read) : Bool :=
  decide (r.who.fn = fn ∧ r.who.q = some q) && (match r.what with
    | .entries _ => true
    | .data _ => false
    | .packet _ _ _ _ => false)

omit hc ht hr in
theorem qDisable_goes {x : Queue} {y : State} (hlive : x.st.live = true)
    (hp : (decide (qKind x = kCOMPLETION) && activeQueue y fn (fun _ y => isProducer (qKind y) && decide (qCq y = q))) = false) :
    qDisable fn q x y = (crOK, drainEnd fn q ((discardHeld fn q (dropReads (entryReads fn q) y)).setQueue fn q { x with
      st := .draining, reading := false, partialChain := [], posted := []
      chains := if qKind x = kRX then x.chains.filter (·.finished) else x.chains })) := by
  unfold qDisable
  dsimp only
  rw [hp, hlive]
  rfl

theorem runs_qDisable (hlive : (s.queue fn q).st.live = true) (hw : (s.queue fn q).waiting = [])
    (hp : qKind (s.queue fn q) ≠ kCOMPLETION
      ∨ activeQueue s fn (fun _ y => isProducer (qKind y) && decide (qCq y = q)) = false) :
    Runs (.qDisable t fn q) s (fun u => (u.queue fn q).cmdResult = 0
      ∧ (u.queue fn q).st = (if (u.queue fn q).chains = [] then .disabled else .draining)
      ∧ (u.queue fn q).chains = (if qKind (s.queue fn q) = kRX then (s.queue fn q).chains.filter (·.finished)
          else (s.queue fn q).chains)
      ∧ (u.queue fn q).ctx = (s.queue fn q).ctx ∧ (u.queue fn q).posted = []
      ∧ ∀ g p, qKey g p ≠ qKey fn q → u.queue g p = s.queue g p) := by
  have hactive := active_startedCtrl (t := t) (fn := fn) (q := q) hc 4
    (fun y => isProducer (qKind y) && decide (qCq y = q)) (fun _ _ => rfl)
  have hwq : (discardHeld fn q (dropReads (entryReads fn q) (startedCtrl t fn q 4 s))).wq = (startedCtrl t fn q 4 s).wq :=
    (Frame.discardHeld (l := [.counters, .buf, .ep]) (.of_all (by decide))
      (Frame.dropReads (.of_all (by decide)) (.refl _ _) _) fn q).wq (by decide)
  have hwf : Tab.wf Queue.reset (discardHeld fn q (dropReads (entryReads fn q) (startedCtrl t fn q 4 s))).wq.queues = true := by
    rw [hwq]
    exact wf_startedCtrl hc 4
  have hdis := qDisable_goes (fn := fn) (q := q) (x := commanded 4 0 (s.queue fn q)) (y := startedCtrl t fn q 4 s) hlive (by
    rw [hactive]
    rcases hp with hp | hp
    · have hp' : qKind (commanded 4 0 (s.queue fn q)) ≠ kCOMPLETION := hp
      rw [decide_eq_false hp', Bool.false_and]
    · rw [hp, Bool.and_false])
  refine ⟨_, congrArg Host.Outcome.next (ctrl_taken ht hr hdis), ?_⟩
  beta_reduce
  rw [queue_setQueue_same (wf_drainEnd (wf_setQueue hwf _)), drainEnd_queue (wf_setQueue hwf _), queue_setQueue_same hwf,
    drained_disabling (by rfl) (by exact hw) (by exact hr)]
  have hother : ∀ g p, qKey g p ≠ qKey fn q → ∀ a b : Queue, ((drainEnd fn q ((discardHeld fn q (dropReads (entryReads fn q)
      (startedCtrl t fn q 4 s))).setQueue fn q a)).setQueue fn q b).queue g p = s.queue g p := fun g p hkey a b => by
    rw [queue_setQueue_other _ fn q g p _ (Ne.symm hkey), drainEnd_other hkey,
      queue_setQueue_other _ fn q g p _ (Ne.symm hkey), queue_congr hwq, queue_startedCtrl_other 4 hkey]
  exact ⟨rfl, rfl, rfl, rfl, rfl, fun g p hkey => hother g p hkey _ _⟩

theorem runs_qDisable_refused (h : (s.queue fn q).st.live = false ∨ (qKind (s.queue fn q) = kCOMPLETION
      ∧ activeQueue s fn (fun _ y => isProducer (qKind y) && decide (qCq y = q)) = true)) :
    Runs (.qDisable t fn q) s (QueueSet fn q { s.queue fn q with cmd := 4, cmdResult := 1 } (advance t s)) := by
  have hactive := active_startedCtrl (t := t) (fn := fn) (q := q) hc 4
    (fun y => isProducer (qKind y) && decide (qCq y = q)) (fun _ _ => rfl)
  have hdis : qDisable fn q (commanded 4 0 (s.queue fn q)) (startedCtrl t fn q 4 s)
      = (crSTATE, startedCtrl t fn q 4 s) := by
    unfold qDisable
    refine if_pos ?_
    rw [hactive]
    rcases h with h | ⟨h1, h2⟩
    · have : (commanded 4 0 (s.queue fn q)).st.live = false := h
      simp [this]
    · have : qKind (commanded 4 0 (s.queue fn q)) = kCOMPLETION := h1
      simp [this, h2]
  have hset := qctrl_keeps (s := advance t s) (cmd := 4) (word := 0) (go := qDisable fn q) (by rwa [queueThere_advance])
    (by rwa [queue_advance]) (canonical_advance t hc).queues (by rw [queue_advance]; exact hdis)
  rw [queue_advance] at hset
  exact ⟨_, rfl, hset⟩

end End

end Sys2Proof.Machine

namespace Sys2Proof
open Machine

/-- Settles O23: Q_CTRL records its command, runs it on the queue and records its result; every command but RESET asks
for a state of the queue, and the end of a queue's work touches no queue. -/
theorem queueControl : Obligations.QueueControl :=
  ⟨fun _ _ _ hc ht hr => runs_qNop hc ht hr,
    fun _ _ _ ht hr => ⟨_, rfl, qctrl_resetting ht hr⟩,
    fun _ _ _ _ hc ht hr hst hw => runs_qLoad hc ht hr hst hw,
    fun _ _ _ _ _ hc ht hr hst hw => runs_qctrl_state hc ht hr hst hw,
    fun _ _ _ _ _ hc ht hr hst hx hb ho => runs_qEnable hc ht hr hst hx hb ho,
    fun _ _ _ _ _ hc ht hr hst hx => runs_qEnable_refused hc ht hr hst hx,
    fun _ _ _ _ hc ht hr hk => runs_qReset hc ht hr hk,
    fun _ _ _ _ hc ht hr hk hch hst => runs_qReset_waits hc ht hr hk hch hst,
    fun _ _ _ _ hc ht hr hlive hw hp => runs_qDisable hc ht hr hlive hw hp,
    fun _ _ _ _ hc ht hr h => runs_qDisable_refused hc ht hr h⟩

end Sys2Proof
end

section
/-! Queues that stop: what the stop of a queue counts and marks (spec 11 R374, 10 R350). -/

namespace Sys2Proof.Machine
open Sys2Proof

/-! ### Counters of other objects -/

theorem objKey_ne_of_sub {idx sub idx' sub' : Nat} (h1 : sub < 256) (h2 : sub' < 256) (h : sub ≠ sub') :
    objKey idx sub ≠ objKey idx' sub' := by
  unfold objKey
  omega

theorem objKey_ne_of_idx {idx sub idx' sub' : Nat} (h1 : sub < 256) (h2 : sub' < 256) (h : idx ≠ idx') :
    objKey idx sub ≠ objKey idx' sub' := by
  unfold objKey
  omega

theorem counter_countQ_other {idx sub idx' sub' : Nat} (h : objKey idx sub ≠ objKey idx' sub') (n : Nat)
    (port tc polder : Option Nat) (s : State) :
    counter (countQ idx' sub' n port tc polder s) idx sub = counter s idx sub := by
  by_cases hn : n = 0
  · rw [countQ, if_pos hn]
  · unfold counter
    rw [countQ_counters hn, Tab.upd, Tab.get_set_other _ _ (Ne.symm h)]

theorem Signals.counter {s u : State} (h : Signals s u) (idx sub : Nat) : counter u idx sub = counter s idx sub :=
  counter_congr (congrArg Dict.counters h.dict) idx sub

section Counter
variable {idx sub : Nat} (hs : sub < 256)
include hs

theorem counter_countPolder_other (h : sub ≠ k) (hk : k < 256) (p : Nat) (s : State) :
    counter (countPolder p k s) idx sub = counter s idx sub :=
  counter_countQ_other (objKey_ne_of_sub hs hk h) ..

section Buffer
variable (hi : idx ≠ 0x2B05)
include hi

theorem counter_freeCell (die : Nat) (pipe : Option Nat) (owner c : Nat) (s : State) :
    counter (freeCell die pipe owner c s) idx sub = counter s idx sub := by
  have hcount : ∀ k, k < 256 → counter (count 0x2B05 k s) idx sub = counter s idx sub := fun k hk =>
    counter_countQ_other (objKey_ne_of_idx hs hk hi) ..
  unfold freeCell
  dsimp only
  split
  · rfl
  · split
    · exact ((signals_raiseDie die 8 _).counter idx sub).trans (hcount 3 (by decide))
    · split
      · exact ((signals_raiseDie die 9 _).counter idx sub).trans (hcount 4 (by decide))
      · rfl

omit hs hi in
theorem counter_lowCheck (die : Nat) (s : State) : counter (lowCheck die s) idx sub = counter s idx sub := by
  unfold lowCheck
  dsimp only
  split
  · exact (signals_raiseDie die 11 _).counter idx sub
  · split
    · rfl
    · rfl

theorem counter_releaseCopy (sid : Nat) (pipe : Option Nat) (s : State) :
    counter (releaseCopy sid pipe s) idx sub = counter s idx sub := by
  unfold releaseCopy
  split
  · rfl
  · split
    · rfl
    · unfold freeCellList
      rw [counter_lowCheck]
      exact forEach_keeps (fun y => counter y idx sub) (counter_freeCell hs hi _ _ _) _ _

theorem counter_dropPlace (h : HFrame) (s : State) : counter (dropPlace h s) idx sub = counter s idx sub := by
  unfold dropPlace
  split
  · exact counter_releaseCopy hs hi ..
  · rfl
  · rfl

/-- Frames that a queue gives up are counted for its polder, and their cells at their die. -/
theorem counter_discardHeld (h : sub ≠ 0x23) (fn q : Nat) (s : State) :
    counter (discardHeld fn q s) idx sub = counter s idx sub := by
  unfold discardHeld
  refine forEach_keeps (fun y => counter y idx sub) (fun a y => ?_) _ s
  split
  · rfl
  · exact (counter_countPolder_other hs h (by decide) fn _).trans (counter_dropPlace hs hi ..)

end Buffer

theorem counter_polderFault (h : sub ≠ 0x24) (fn status kind q : Nat) (s : State) :
    counter (polderFault fn status kind q s) idx sub = counter s idx sub := by
  have hcount : counter (countPolder fn 0x24 s) idx sub = counter s idx sub :=
    counter_countPolder_other hs h (by decide) fn s
  have hmark : ∀ (z : State) (p : Polder) (f : Polders → Polders),
      counter (modPolders f (z.setPolder fn p)) idx sub = counter z idx sub := fun _ _ _ => rfl
  unfold polderFault
  dsimp only
  split
  · rw [hmark, hcount]
  · rw [(signals_raise 261 _).counter, hmark, hcount]

omit hs in
theorem counter_errorVectors (fn q : Nat) (s : State) : counter (errorVectors fn q s) idx sub = counter s idx sub := by
  unfold errorVectors
  dsimp only
  split
  · rw [(signals_signal ..).counter, (signals_signal ..).counter]
  · rw [(signals_signal ..).counter]

end Counter

/-! ### The stop -/

/-- The work of a queue that stops: its held frames, its polder's fault and its vectors. -/
def stopWork (fn q status kind : Nat) (s : State) : State :=
  errorVectors fn q (polderFault fn status kind q (discardHeld fn q s))

section Stop
variable (fn q status kind : Nat) (s : State)

theorem frame_stopWork : Frame [.counters, .buf, .polders] s (stopWork fn q status kind s) :=
  Frame.errorVectors (.of_all (by decide)) (Frame.polderFault (.of_all (by decide))
    (Frame.discardHeld (.of_all (by decide)) (.refl _ s) _ _) _ _ _ _) _ _

theorem wq_stopWork : (stopWork fn q status kind s).wq = s.wq := (frame_stopWork ..).wq (by decide)

theorem queue_stopWork (g p : Nat) : (stopWork fn q status kind s).queue g p = s.queue g p :=
  queue_congr (wq_stopWork ..) g p

theorem counter_stopWork {idx sub : Nat} (hs : sub < 256) (hi : idx ≠ 0x2B05) (h3 : sub ≠ 0x23) (h4 : sub ≠ 0x24) :
    counter (stopWork fn q status kind s) idx sub = counter s idx sub := by
  unfold stopWork
  rw [counter_errorVectors, counter_polderFault hs h4, counter_discardHeld hs hi h3]

theorem polders_errorVectors : (errorVectors fn q s).polders = s.polders :=
  (Frame.errorVectors (l := []) (.of_all (by decide)) (.refl _ s) fn q).polders (by decide)

theorem faultMap_polderFault : Tab.get false (polderFault fn status kind q s).polders.faultMap fn = true := by
  have hmark : ∀ z : State,
      Tab.get false (modPolders (fun x => { x with faultMap := Tab.set false x.faultMap fn true }) z).polders.faultMap fn
        = true := fun _ => Tab.get_set_of_ne (d := false) (v := true) _ _ (by decide)
  unfold polderFault
  dsimp only
  split
  · rw [hmark]
  · rw [raise_polders, hmark]

theorem faultMap_stopWork : Tab.get false (stopWork fn q status kind s).polders.faultMap fn = true := by
  unfold stopWork
  rw [polders_errorVectors]
  exact faultMap_polderFault ..

end Stop

end Sys2Proof.Machine
end

section
/-! Work queues: doorbells (spec 11 R377, R381, R383, R387). -/

namespace Sys2Proof.Machine
open Sys2Proof

/-! ### A queue that overruns -/

/-- The marker that gives a stopped producer its error completion. -/
def stopMark (x : Queue) (idx status : Nat) : List Chain :=
  if isProducer (qKind x) then
    [{ first := idx, entries := [], started := true, finished := true, status := status, result := 0 }]
  else []

/-- A queue that has stopped at an overrun. -/
def overrunQueue (idx now : Nat) (x : Queue) : Queue :=
  { x with
    st := .error, status := stMALFORMED, reason := 10, errIdx := idx, errAt := now, reading := false, partialChain := []
    posted := if qKind x = kRX then [] else x.posted
    chains := (if qKind x = kRX then x.chains.filter (·.finished) else x.chains) ++ stopMark x idx stMALFORMED }

section Overrun
variable {fn q idx : Nat} {s : State}

theorem queueOverrun_eq (fn q idx : Nat) (s : State) : queueOverrun fn q idx s =
    stopWork fn q stMALFORMED 1 (countFor 0x4090 3 1 fn (s.setQueue fn q (overrunQueue idx s.clock (s.queue fn q)))) := rfl

theorem wq_countFor (idx sub n polder : Nat) (s : State) : (countFor idx sub n polder s).wq = s.wq :=
  (Frame.countFor (l := [.counters]) (.of_all (by decide)) (.refl _ s) idx sub n polder).wq (by decide)

theorem wq_queueOverrun : (queueOverrun fn q idx s).wq = (s.setQueue fn q (overrunQueue idx s.clock (s.queue fn q))).wq := by
  rw [queueOverrun_eq, wq_stopWork, wq_countFor]

theorem queue_queueOverrun (hwf : Tab.wf Queue.reset s.wq.queues = true) :
    (queueOverrun fn q idx s).queue fn q = overrunQueue idx s.clock (s.queue fn q) :=
  (queue_congr wq_queueOverrun fn q).trans (queue_setQueue_same hwf _ _ _)

theorem queue_queueOverrun_other {g p : Nat} (h : qKey g p ≠ qKey fn q) :
    (queueOverrun fn q idx s).queue g p = s.queue g p :=
  (queue_congr wq_queueOverrun g p).trans (queue_setQueue_other s fn q g p _ (Ne.symm h))

theorem counter_queueOverrun : counter (queueOverrun fn q idx s) 0x4090 3 = satAdd64 (counter s 0x4090 3) 1 := by
  rw [queueOverrun_eq, counter_stopWork _ _ _ _ _ (by decide) (by decide) (by decide) (by decide), countFor, counter_countQ]
  rfl

theorem faultMap_queueOverrun : Tab.get false (queueOverrun fn q idx s).polders.faultMap fn = true := by
  rw [queueOverrun_eq]
  exact faultMap_stopWork ..

end Overrun

/-! ### Doorbells -/

section Bell
variable {tail : Bool} {apply : Nat → State → State} {fn q v : Nat} {s : State} (ht : queueThere s fn q = true)
include ht

theorem doorbell_disabled (h : (s.queue fn q).st = .disabled) : doorbell tail apply fn q v s =
    s.setQueue fn q { s.queue fn q with data := BitVec.ofNat 32 v } := by
  unfold doorbell
  rw [if_neg (by simp [ht])]
  dsimp only
  rw [h]

theorem doorbell_ignored (h : ((s.queue fn q).st = .error ∧ clockOf (s.queue fn q).errAt ≠ clockOf s.clock)
    ∨ (s.queue fn q).st = .draining) : doorbell tail apply fn q v s =
    s.setQueue fn q { s.queue fn q with ignored := true } := by
  unfold doorbell
  rw [if_neg (by simp [ht])]
  dsimp only
  rcases h with ⟨h, hclock⟩ | h
  · rw [h]
    exact if_neg hclock
  · rw [h]

theorem doorbell_recorded (h : (s.queue fn q).st = .error) (hclock : clockOf (s.queue fn q).errAt = clockOf s.clock)
    (hv : v < 65536) (hm : (s.queue fn q).status ≠ stMASTER_DISABLED) : doorbell tail apply fn q v s =
    s.setQueue fn q { s.queue fn q with index := v } := by
  unfold doorbell
  rw [if_neg (by simp [ht])]
  dsimp only
  rw [h]
  dsimp only
  rw [if_pos hclock, Nat.mod_eq_of_lt hv, decide_eq_false hm, Bool.and_false, if_neg (by decide), ← h]

theorem doorbell_live (h : (s.queue fn q).st.live = true) : doorbell tail apply fn q v s =
    if isProducer (qKind (s.queue fn q)) = tail then takeBell apply fn q (v % 65536) s else s := by
  unfold doorbell
  rw [if_neg (by simp [ht])]
  dsimp only
  cases hst : (s.queue fn q).st with
  | enabled | parked | held => rfl
  | disabled | draining | error =>
    rw [hst] at h
    exact absurd h (by decide)

theorem doorbell_kept (h : (s.queue fn q).st = .held ∨ (s.queue fn q).st = .parked) (hv : v < 65536)
    (hk : isProducer (qKind (s.queue fn q)) = tail) : doorbell tail apply fn q v s =
    s.setQueue fn q { s.queue fn q with index := v, bell := some v } := by
  have hlive : (s.queue fn q).st.live = true := by rcases h with h | h <;> rw [h] <;> rfl
  rw [doorbell_live ht hlive, if_pos hk, Nat.mod_eq_of_lt hv, takeBell]
  exact if_pos h.symm

theorem doorbell_acts (h : (s.queue fn q).st = .enabled) (hv : v < 65536) (hk : isProducer (qKind (s.queue fn q)) = tail) :
    doorbell tail apply fn q v s = apply v (s.setQueue fn q { s.queue fn q with index := v }) := by
  rw [doorbell_live ht (by rw [h]; rfl), if_pos hk, Nat.mod_eq_of_lt hv, takeBell]
  exact if_neg (by simp [h])

end Bell

section Apply
variable {fn q v : Nat} {x : Queue} {s : State} (hwf : Tab.wf Queue.reset s.wq.queues = true)
include hwf

theorem applyTail_moves (hv : v < qSize x) (hroom : (v + qSize x - x.tail) % qSize x
      ≤ qSize x - 1 - (x.tail + qSize x - x.head) % qSize x) :
    applyTail fn q v (s.setQueue fn q x) = (s.setQueue fn q x).setQueue fn q { x with tail := v } := by
  unfold applyTail
  dsimp only
  rw [queue_setQueue_same hwf]
  exact if_neg (by omega)

theorem applyTail_overruns (h : qSize x ≤ v ∨ qSize x - 1 - (x.tail + qSize x - x.head) % qSize x
      < (v + qSize x - x.tail) % qSize x) :
    applyTail fn q v (s.setQueue fn q x) = queueOverrun fn q v (s.setQueue fn q x) := by
  unfold applyTail
  dsimp only
  rw [queue_setQueue_same hwf]
  exact if_pos h

theorem applyHead_moves (hv : v < qSize x) (hroom : (v + qSize x - x.head) % qSize x
      ≤ (x.tail + qSize x - x.head) % qSize x) :
    applyHead fn q v (s.setQueue fn q x) = (s.setQueue fn q x).setQueue fn q { x with head := v } := by
  unfold applyHead
  dsimp only
  rw [queue_setQueue_same hwf]
  exact if_neg (by omega)

theorem applyHead_overruns (h : qSize x ≤ v) :
    applyHead fn q v (s.setQueue fn q x) = queueOverrun fn q v (s.setQueue fn q x) := by
  unfold applyHead
  dsimp only
  rw [queue_setQueue_same hwf]
  exact if_pos (.inl h)

end Apply

/-! ### The commands -/

section Runs
variable {t fn q v : Nat} {s : State} (ht : queueThere s fn q = true)

/-- A queue with the index of a doorbell recorded. -/
def belled (v : Nat) (x : Queue) : Queue := { x with index := v }


theorem runs_tailDoorbell {u : State} (h : doorbell true (applyTail fn q) fn q v (advance t s) = u) {P : State → Prop}
    (hp : P u) : Runs (.tailDoorbell t fn q v) s P := ⟨_, congrArg Host.Outcome.next h, hp⟩

theorem runs_headDoorbell {u : State} (h : doorbell false (applyHead fn q) fn q v (advance t s) = u) {P : State → Prop}
    (hp : P u) : Runs (.headDoorbell t fn q v) s P := ⟨_, congrArg Host.Outcome.next h, hp⟩

include ht

theorem tail_acts (hk : isProducer (qKind (s.queue fn q)) = true) (hst : (s.queue fn q).st = .enabled) (hv : v < 65536) :
    doorbell true (applyTail fn q) fn q v (advance t s)
      = applyTail fn q v ((advance t s).setQueue fn q (belled v (s.queue fn q))) := by
  rw [doorbell_acts (by rwa [queueThere_advance]) (by rwa [queue_advance]) hv (by rwa [queue_advance]), queue_advance]
  rfl

theorem head_acts (hk : isProducer (qKind (s.queue fn q)) = false) (hst : (s.queue fn q).st = .enabled) (hv : v < 65536) :
    doorbell false (applyHead fn q) fn q v (advance t s)
      = applyHead fn q v ((advance t s).setQueue fn q (belled v (s.queue fn q))) := by
  rw [doorbell_acts (by rwa [queueThere_advance]) (by rwa [queue_advance]) hv (by rwa [queue_advance]), queue_advance]
  rfl

variable (hc : Canonical s)
include hc

omit ht in
theorem overrun_belled (t fn q v : Nat) :
    ((queueOverrun fn q v ((advance t s).setQueue fn q (belled v (s.queue fn q)))).queue fn q)
      = overrunQueue v ((advance t s).setQueue fn q (belled v (s.queue fn q))).clock (belled v (s.queue fn q)) := by
  have hwf := (canonical_advance t hc).queues
  rw [queue_queueOverrun (wf_setQueue hwf _), queue_setQueue_same hwf]

omit ht hc in
theorem counter_overrun_belled (t fn q v : Nat) :
    counter (queueOverrun fn q v ((advance t s).setQueue fn q (belled v (s.queue fn q)))) 0x4090 3
      = satAdd64 (counter s 0x4090 3) 1 := by
  have h : counter ((advance t s).setQueue fn q (belled v (s.queue fn q))) 0x4090 3 = counter s 0x4090 3 :=
    counter_congr (congrArg Dict.counters (advance_dict s t)) _ _
  rw [counter_queueOverrun, h]

theorem runs_tail_moves (hk : isProducer (qKind (s.queue fn q)) = true) (hst : (s.queue fn q).st = .enabled)
    (hsize : v < qSize (s.queue fn q)) (hv : v < 65536)
    (hroom : (v + qSize (s.queue fn q) - (s.queue fn q).tail) % qSize (s.queue fn q)
      ≤ qSize (s.queue fn q) - 1
        - ((s.queue fn q).tail + qSize (s.queue fn q) - (s.queue fn q).head) % qSize (s.queue fn q)) :
    Runs (.tailDoorbell t fn q v) s (QueueSet fn q { s.queue fn q with index := v, tail := v } (advance t s)) := by
  have hwf := (canonical_advance t hc).queues
  refine runs_tailDoorbell ((tail_acts ht hk hst hv).trans
    (applyTail_moves (x := belled v (s.queue fn q)) hwf hsize hroom)) ?_
  exact queueSet_trans (queueSet_setQueue hwf _) (queueSet_setQueue (wf_setQueue hwf _) _)

theorem runs_tail_overruns (hk : isProducer (qKind (s.queue fn q)) = true) (hst : (s.queue fn q).st = .enabled)
    (hv : v < 65536) (h : qSize (s.queue fn q) ≤ v ∨ qSize (s.queue fn q) - 1
        - ((s.queue fn q).tail + qSize (s.queue fn q) - (s.queue fn q).head) % qSize (s.queue fn q)
      < (v + qSize (s.queue fn q) - (s.queue fn q).tail) % qSize (s.queue fn q)) :
    Runs (.tailDoorbell t fn q v) s (fun u => (u.queue fn q).st = .error ∧ (u.queue fn q).status = 1
      ∧ (u.queue fn q).reason = 10 ∧ (u.queue fn q).errIdx = v ∧ (u.queue fn q).tail = (s.queue fn q).tail
      ∧ counter u 0x4090 3 = satAdd64 (counter s 0x4090 3) 1 ∧ Tab.get false u.polders.faultMap fn = true
      ∧ ∀ g p, qKey g p ≠ qKey fn q → u.queue g p = s.queue g p) := by
  have hwf := (canonical_advance t hc).queues
  refine runs_tailDoorbell ((tail_acts ht hk hst hv).trans
    (applyTail_overruns (x := belled v (s.queue fn q)) hwf h)) ?_
  rw [overrun_belled hc, counter_overrun_belled]
  refine ⟨rfl, rfl, rfl, rfl, rfl, rfl, faultMap_queueOverrun, fun g p hkey => ?_⟩
  rw [queue_queueOverrun_other hkey, queue_setQueue_other _ fn q g p _ (Ne.symm hkey), queue_advance]

theorem runs_head (hk : isProducer (qKind (s.queue fn q)) = false) (hst : (s.queue fn q).st = .enabled)
    (hv : v < 65536) :
    (v < qSize (s.queue fn q) → (v + qSize (s.queue fn q) - (s.queue fn q).head) % qSize (s.queue fn q)
        ≤ ((s.queue fn q).tail + qSize (s.queue fn q) - (s.queue fn q).head) % qSize (s.queue fn q) →
      Runs (.headDoorbell t fn q v) s (QueueSet fn q { s.queue fn q with index := v, head := v } (advance t s)))
    ∧ (qSize (s.queue fn q) ≤ v →
      Runs (.headDoorbell t fn q v) s (fun u => (u.queue fn q).st = .error ∧ (u.queue fn q).status = 1
        ∧ (u.queue fn q).reason = 10 ∧ (u.queue fn q).head = (s.queue fn q).head
        ∧ counter u 0x4090 3 = satAdd64 (counter s 0x4090 3) 1)) := by
  have hwf := (canonical_advance t hc).queues
  refine ⟨fun hsize hroom => ?_, fun h => ?_⟩
  · refine runs_headDoorbell ((head_acts ht hk hst hv).trans
      (applyHead_moves (x := belled v (s.queue fn q)) hwf hsize hroom)) ?_
    exact queueSet_trans (queueSet_setQueue hwf _) (queueSet_setQueue (wf_setQueue hwf _) _)
  · refine runs_headDoorbell ((head_acts ht hk hst hv).trans
      (applyHead_overruns (x := belled v (s.queue fn q)) hwf h)) ?_
    rw [overrun_belled hc, counter_overrun_belled]
    exact ⟨rfl, rfl, rfl, rfl, rfl⟩

end Runs

end Sys2Proof.Machine

namespace Sys2Proof
open Machine

/-- Settles O24: what a doorbell does depends on the state of its queue alone; one that acts moves an index or stops the
queue. -/
theorem doorbells : Obligations.Doorbells := by
  refine ⟨fun t fn q v s ht h => ⟨?_, ?_⟩, fun t fn q v s ht h => ⟨?_, ?_⟩, fun t fn q v s ht h hclock hv hm => ⟨?_, ?_⟩,
    fun t fn q v s ht h hv => ⟨fun hk => ?_, fun hk => ?_⟩,
    fun _ _ _ _ _ hc ht hk hst hsize hv hroom => runs_tail_moves ht hc hk hst hsize hv hroom,
    fun _ _ _ _ _ hc ht hk hst hv h => runs_tail_overruns ht hc hk hst hv h,
    fun _ _ _ _ _ hc ht hk hst hv => runs_head ht hc hk hst hv,
    fun t fn q v s ht h => ⟨fun hk => ?_, fun hk => ?_⟩⟩
  all_goals
    have ht' : queueThere (advance t s) fn q = true := by rwa [queueThere_advance]
    rw [← queue_advance (s := s) t fn q] at h
  · exact runs_tailDoorbell (doorbell_disabled ht' h) (by rw [queue_advance])
  · exact runs_headDoorbell (doorbell_disabled ht' h) (by rw [queue_advance])
  · exact runs_tailDoorbell (doorbell_ignored ht' h) (by rw [queue_advance])
  · exact runs_headDoorbell (doorbell_ignored ht' h) (by rw [queue_advance])
  · exact runs_tailDoorbell (doorbell_recorded ht' h (by rwa [queue_advance]) hv (by rwa [queue_advance]))
      (by rw [queue_advance])
  · exact runs_headDoorbell (doorbell_recorded ht' h (by rwa [queue_advance]) hv (by rwa [queue_advance]))
      (by rw [queue_advance])
  · exact runs_tailDoorbell (doorbell_kept ht' h hv (by rwa [queue_advance])) (by rw [queue_advance])
  · exact runs_headDoorbell (doorbell_kept ht' h hv (by rwa [queue_advance])) (by rw [queue_advance])
  · exact runs_headDoorbell ((doorbell_live ht' h).trans (if_neg (by rw [queue_advance, hk]; decide))) rfl
  · exact runs_tailDoorbell ((doorbell_live ht' h).trans (if_neg (by rw [queue_advance, hk]; decide))) rfl

end Sys2Proof
end

section
/-! Answers of actions that ended: they touch the dictionary's sessions and the mailbox, raise no bit down and keep the
actions that run (spec 02 R57, R69). -/

namespace Sys2Proof.Machine
open Sys2Proof

/-- From `s` to `u` requests were answered: no event status bit is cleared, and of the dictionary sessions, messages
and counters alone changed, of the mailbox the response. -/
structure Replies (s u : State) : Prop where
  frame : Frame [.counters, .dict, .mbx] s u
  stat : StatGrows s u
  dict : { u.dict with sessions := s.dict.sessions, outbox := s.dict.outbox, counters := s.dict.counters } = s.dict
  mbx : MailboxAnswers s.mbx u.mbx

section Fields
variable {s u : State} (h : Replies s u)
include h

theorem Replies.acts : u.dict.acts = s.dict.acts := (congrArg Dict.acts h.dict :)
theorem Replies.vals : u.dict.vals = s.dict.vals := (congrArg Dict.vals h.dict :)
theorem Replies.busyAfter : u.dict.busyAfter = s.dict.busyAfter := (congrArg Dict.busyAfter h.dict :)
theorem Replies.storing : u.dict.storing = s.dict.storing := (congrArg Dict.storing h.dict :)
theorem Replies.storeStatus : u.dict.storeStatus = s.dict.storeStatus := (congrArg Dict.storeStatus h.dict :)
theorem Replies.restart : u.mbx.restart = s.mbx.restart := (congrArg Mailbox.restart h.mbx :)

end Fields

theorem Replies.refl (s : State) : Replies s s := ⟨.refl _ s, .refl s, rfl, rfl⟩

theorem Replies.trans {s u v : State} (a : Replies s u) (b : Replies u v) : Replies s v := by
  refine ⟨a.frame.trans b.frame, a.stat.trans b.stat, ?_, ?_⟩
  · exact (congrArg (fun x : Dict => { x with
      sessions := s.dict.sessions, outbox := s.dict.outbox, counters := s.dict.counters }) b.dict).trans a.dict
  · have ha := a.mbx
    have hb := b.mbx
    unfold MailboxAnswers at ha hb ⊢
    exact (congrArg (fun x : Mailbox => { x with
      rsp := s.mbx.rsp, rspLength := s.mbx.rspLength, busy := s.mbx.busy, done := s.mbx.done
      accepted := s.mbx.accepted }) hb).trans ha

/-- Counters alone are part of an answer. -/
theorem Replies.of_counters {s u : State} (h : Frame [.counters] s u) (hs : StatGrows s u) : Replies s u := by
  have hmbx : u.mbx = s.mbx := h.mbx (by decide)
  refine ⟨h.mono (.of_all (by decide)), hs, ?_, ?_⟩
  · exact congrArg (fun x : Dict => { x with sessions := s.dict.sessions, outbox := s.dict.outbox }) (h.dict (by decide))
  · rw [hmbx]
    rfl

theorem replies_countQ (idx sub n : Nat) (port tc polder : Option Nat) (s : State) :
    Replies s (countQ idx sub n port tc polder s) :=
  .of_counters (Frame.countQ (.of_all (by decide)) (.refl _ s) idx sub n port tc polder) (statGrows_countQ ..)

theorem replies_mbxRespond (flags kind reqId index sub ty pa pb : Nat) (data : Bytes) (s : State) :
    Replies s (mbxRespond flags kind reqId index sub ty pa pb data s) := by
  refine ⟨Frame.mbxRespond (.of_all (by decide)) (.refl _ s) flags kind reqId index sub ty pa pb data, ?_, ?_, ?_⟩
  · unfold mbxRespond
    exact StatGrows.trans (t := modMbx _ s) (.of_eq rfl rfl) (statGrows_raise 2 _)
  · rw [mbxRespond_dict]
  · rw [mbxRespond_mbx]
    rfl

/-- A change of sessions and messages to send, which no event tells of. -/
theorem Replies.of_dict {s : State} (f : Dict → Dict) (h : { f s.dict with
      sessions := s.dict.sessions, outbox := s.dict.outbox, counters := s.dict.counters } = s.dict)
    (hc : (f s.dict).counters = s.dict.counters) : Replies s (modDict f s) := by
  refine ⟨⟨rfl, fun b hb => ?_⟩, .of_eq rfl rfl, h, rfl⟩
  cases b
  case counters => exact hc
  case dict => exact absurd (by decide) hb
  all_goals rfl

theorem replies_setSession (n : Nat) (x : Session) (s : State) : Replies s (s.setSession n x) :=
  .of_dict (fun d => { d with sessions := Tab.set Session.reset d.sessions n x }) rfl rfl

theorem replies_emit (o : Out) (s : State) : Replies s (emit o s) :=
  .of_counters (Frame.emit (.of_all (by decide)) (.refl _ s) o) (.of_eq rfl rfl)

theorem replies_netSend (n : Nat) (port : Option Nat) (key : Bytes) (flags kind reqId index sub ty pa pb : Nat)
    (data : Bytes) (s : State) : Replies s (netSend n port key flags kind reqId index sub ty pa pb data s) := by
  have hwork : ∀ k z, Replies z (gmacWork k z) := fun k z =>
    (replies_countQ 0x4101 2 1 none none none z).trans (replies_countQ 0x4101 3 k none none none _)
  have hnext : Replies s (nextTx n s).2 := replies_setSession ..
  unfold netSend
  generalize nextTx n s = r at hnext
  dsimp only
  generalize buildMsg flags kind (44 + data.length) n reqId s.dict.epoch r.1 index sub ty pa pb data = b
  have hsent := hnext.trans (hwork b.length r.2)
  cases port with
  | none => exact hsent.trans (replies_emit ..)
  | some p => exact hsent.trans (.of_dict _ rfl rfl)

theorem replies_answer (h : ReqHead) (flags pa pb ty : Nat) (data : Bytes) (s : State) :
    Replies s (answer h flags pa pb ty data s) := by
  unfold answer
  split
  · exact replies_mbxRespond ..
  · split
    · exact .refl s
    · exact (replies_netSend ..).trans (replies_setSession ..)

theorem replies_answerCopy (h : ReqHead) (flags pa : Nat) (s : State) : Replies s (answerCopy h flags pa s) := by
  unfold answerCopy
  split
  · exact .refl s
  · exact replies_netSend ..

theorem replies_foldl {α : Type} (l : List α) {f : State → α → State} (h : ∀ s a, Replies s (f s a)) (s : State) :
    Replies s (l.foldl f s) := by
  induction l generalizing s with
  | nil => exact .refl s
  | cons a l ih => exact (h s a).trans (ih _)

/-- The actions that run are left without one of them. -/
def withoutAct (a : LongAct) (s : State) : State :=
  modDict (fun d => { d with acts := d.acts.filter (fun x => decide (x.act ≠ a)) }) s

/-- An action that ended is answered once for each of its requests, and runs no more. -/
theorem replies_answerAct (a : LongAct) (abort : Option Nat) (s : State) :
    Replies (withoutAct a s) (answerAct a abort s) ∨ (answerAct a abort s = s ∧ ∀ p ∈ s.dict.acts, p.act ≠ a) := by
  cases hf : s.dict.acts.find? (fun p => decide (p.act = a)) with
  | none =>
    refine .inr ⟨?_, fun p hp => ?_⟩
    · unfold answerAct
      rw [hf]
    · have := List.find?_eq_none.mp hf p hp
      simpa using this
  | some p =>
    refine .inl ?_
    unfold answerAct
    rw [hf]
    exact (replies_answer ..).trans (replies_foldl _ (fun _ _ => replies_answerCopy ..) _)

theorem acts_answerAct (a : LongAct) (abort : Option Nat) (s : State) (p : PendAct) :
    p ∈ (answerAct a abort s).dict.acts ↔ p ∈ s.dict.acts ∧ p.act ≠ a := by
  rcases replies_answerAct a abort s with h | ⟨h, hnone⟩
  · rw [h.acts]
    simp [withoutAct, modDict]
  · rw [h]
    exact ⟨fun hp => ⟨hp, hnone p hp⟩, And.left⟩

theorem statGrows_answerAct (a : LongAct) (abort : Option Nat) (s : State) : StatGrows s (answerAct a abort s) := by
  rcases replies_answerAct a abort s with h | ⟨h, -⟩
  · exact StatGrows.trans (t := withoutAct a s) (.of_eq rfl rfl) h.stat
  · rw [h]
    exact .refl s

end Sys2Proof.Machine
end

section
/-! Self-tests: a die that leaves service and one that returns (spec 17 R559, R564 to R567). -/

namespace Sys2Proof.Machine
open Sys2Proof

theorem ports_setTestDie (die n : Nat) (s : State) : (setTestDie die n s).ports = s.ports := rfl
theorem test_setTestDie (die n : Nat) (s : State) :
    (setTestDie die n s).test = { s.test with die := Tab.set 0 s.test.die die n } := rfl

/-! ### Links of ports that leave service -/

theorem ports_raisePort (p k : Nat) (s : State) : (raisePort p k s).ports = s.ports :=
  (signals_raiseDie ..).ports

theorem port_congr {s u : State} (h : u.ports = s.ports) (p : Nat) : u.port p = s.port p :=
  congrArg (fun x => Tab.get Port.reset x p) h

/-- A port that is out of service stays so from `s` to `u`. -/
def OutStays (p : Nat) (s u : State) : Prop := (s.port p).link = .outOfService → (u.port p).link = .outOfService

theorem port_setPort_out {p : Nat} {x : Port} {s : State} (h : x.link = .outOfService) : (s.setPort p x).port p = x :=
  port_setPort s p x fun hr => absurd (h.symm.trans (congrArg Port.link hr)) (by decide)

theorem outStays_setPort {p q : Nat} {x : Port} {s : State} (h : x.link = (s.port q).link) : OutStays p s (s.setPort q x) := by
  intro hp
  by_cases hq : q = p
  · subst hq
    rw [port_setPort_out (h.trans hp)]
    exact h.trans hp
  · rw [port_setPort_other _ _ _ _ hq]
    exact hp

theorem OutStays.of_ports {p : Nat} {s u : State} (h : u.ports = s.ports) : OutStays p s u := fun hp => by
  rw [port_congr h]
  exact hp

theorem outStays_forEach {α : Type} {p : Nat} (l : List α) {f : α → State → State} (h : ∀ a s, OutStays p s (f a s))
    (s : State) : OutStays p s (forEach l f s) := by
  induction l generalizing s with
  | nil => exact id
  | cons a l ih => exact fun hp => ih _ (h a s hp)

theorem outStays_revert (p q : Nat) (s : State) : OutStays p s (revert q s) := outStays_setPort rfl

theorem outStays_backupWentDown (p q : Nat) (s : State) : OutStays p s (backupWentDown q s) := by
  have hun : OutStays p s (backupUnavailable q s) := fun hp =>
    OutStays.of_ports (ports_raisePort q 2 _) (outStays_setPort (p := p) (q := q) rfl hp)
  unfold backupWentDown
  dsimp only
  split
  · split
    · exact fun hp => outStays_revert p q _ (hun hp)
    · exact hun
  · exact id

/-- What a link change other than to UP does with a port. -/
def withLink (p : Nat) (st : LinkSt) (s : State) : State :=
  s.setPort p { s.port p with
    link := st
    fec := 0
    fecWin := []
    retryAt := if st = .down then (if decide ((s.port p).link = .disabled ∨ (s.port p).link = .outOfService)
      then s.clock else s.clock + retryPeriod) else (s.port p).retryAt }

/-- What a port that was UP tells of the change. -/
def lossTold (p : Nat) (s : State) : State := raisePort p 0 (countPort p 0x2A 1 s)

theorem ports_lossTold (p : Nat) (s : State) : (lossTold p s).ports = s.ports :=
  (ports_raisePort p 0 _).trans
    ((Frame.countPort (l := [.counters]) (.of_all (by decide)) (.refl _ s) p 0x2A 1).ports (by decide))

theorem setLink_down {p fec : Nat} {st : LinkSt} {s : State} (hup : st ≠ .up) : setLink p st fec s =
    if (s.port p).link = st then s
    else if (s.port p).link = .up then
      forEach (primariesOf (lossTold p (withLink p st s)) p) backupWentDown (lossTold p (withLink p st s))
    else withLink p st s := by
  unfold setLink
  dsimp only
  by_cases h : (s.port p).link = st
  · rw [if_pos h, if_pos h]
  · rw [if_neg h, if_neg h]
    by_cases hwas : (s.port p).link = .up
    · simp only [hwas, hup, decide_false, decide_true, Bool.false_eq_true, ↓reduceIte, Bool.true_eq_false,
        lossTold, withLink]
    · simp only [hwas, hup, decide_false, Bool.false_eq_true, ↓reduceIte, withLink]

theorem link_setLink_out (p fec : Nat) (s : State) : ((setLink p .outOfService fec s).port p).link = .outOfService := by
  have hset : ((withLink p .outOfService s).port p).link = .outOfService := by
    unfold withLink
    rw [port_setPort_out rfl]
  rw [setLink_down (by decide)]
  split
  · assumption
  · split
    · refine outStays_forEach _ (outStays_backupWentDown p) _ ?_
      exact OutStays.of_ports (ports_lossTold p _) hset
    · exact hset

theorem outStays_setLink (p q fec : Nat) (s : State) : OutStays p s (setLink q .outOfService fec s) := by
  intro hp
  by_cases hq : q = p
  · subst hq
    exact link_setLink_out ..
  · have hset : ((withLink q .outOfService s).port p).link = .outOfService := by
      unfold withLink
      rw [port_setPort_other _ _ _ _ hq]
      exact hp
    rw [setLink_down (by decide)]
    split
    · exact hp
    · split
      · refine outStays_forEach _ (outStays_backupWentDown p) _ ?_
        exact OutStays.of_ports (ports_lossTold q _) hset
      · exact hset

theorem links_out {p : Nat} (l : List Nat) (hp : p ∈ l) (s : State) :
    ((forEach l (fun p st => setLink p .outOfService 0 st) s).port p).link = .outOfService := by
  induction l generalizing s with
  | nil => exact absurd hp (by simp)
  | cons q l ih =>
    by_cases hq : q = p
    · subst hq
      exact outStays_forEach l (fun a y => outStays_setLink q a 0 y) _ (link_setLink_out ..)
    · exact ih (List.mem_of_ne_of_mem (Ne.symm hq) hp) _

/-! ### A field die that leaves service -/

/-- The ports of a die leave service. -/
def diePortsOut (die : Nat) (s : State) : State :=
  forEach (((List.range 128).map (fun i => die * 128 + i)).filter (portExists s)) (fun p st => setLink p .outOfService 0 st) s

/-- The die's tables, contexts and cells are as after a reset. -/
def dieEmptied (die : Nat) (s : State) : State :=
  let s3 := modTables (fun x => { x with
    filter := Tab.set [] x.filter die [], repQ := x.repQ.filter (fun w => decide (w.dst ≠ die)) }) s
  let x := s3.flowDie die
  (s3.setFlowDie die { x with writeBacks := [] }).setBufDie die (rebuiltDie (s3.bufDie die).lost (s3.bufDie die).stuck)

theorem ports_dieEmptied (die : Nat) (s : State) : (dieEmptied die s).ports = s.ports := rfl
theorem test_dieEmptied (die : Nat) (s : State) : (dieEmptied die s).test = s.test := rfl

/-- What a die that leaves service takes with it, its ports aside. -/
def dieWorkOut (die : Nat) (s : State) : State :=
  rehomeTables (rehomeFlow (dieEmptied die (setTestDie die 1 (dieSiphonLost die (dieFramesLost die s)))))

theorem fieldDieOut_eq (die : Nat) (s : State) : fieldDieOut die s = dieWorkOut die (diePortsOut die s) := rfl

theorem frame_dieFramesLost (die : Nat) (s : State) :
    Frame [.counters, .cls, .flow, .buf, .sched, .ep, .funcs, .polders, .wq, .siphon] s (dieSiphonLost die (dieFramesLost die s)) :=
  Frame.dieSiphonLost (.of_all (by decide)) (Frame.dieFramesLost (fun _ h => h) (.refl _ s) die) die

theorem frame_rehome (s : State) : Frame [.counters, .tables, .flow] s (rehomeTables (rehomeFlow s)) :=
  Frame.rehomeTables (.of_all (by decide)) (Frame.rehomeFlow (.of_all (by decide)) (.refl _ s))

theorem ports_dieWorkOut (die : Nat) (s : State) : (dieWorkOut die s).ports = s.ports :=
  by rw [dieWorkOut, (frame_rehome _).ports (by decide), ports_dieEmptied, ports_setTestDie,
    (frame_dieFramesLost die s).ports (by decide)]

theorem test_dieWorkOut (die : Nat) (s : State) :
    (dieWorkOut die s).test = { s.test with die := Tab.set 0 s.test.die die 1 } := by
  rw [dieWorkOut, (frame_rehome _).test (by decide), test_dieEmptied, test_setTestDie,
    (frame_dieFramesLost die s).test (by decide)]

theorem test_diePortsOut (die : Nat) (s : State) : (diePortsOut die s).test = s.test := by
  refine forEach_keeps State.test (fun p y => ?_) _ s
  exact (Frame.setLink (l := [.counters, .ports, .tables, .buf, .sched, .ep, .funcs, .polders, .wq, .siphon]) (fun _ h => h)
    (.refl _ y) p .outOfService 0).test (by decide)

theorem test_fieldDieOut (die : Nat) (s : State) :
    (fieldDieOut die s).test = { s.test with die := Tab.set 0 s.test.die die 1 } := by
  rw [fieldDieOut_eq, test_dieWorkOut, test_diePortsOut]

theorem link_fieldDieOut {die i : Nat} {s : State} (hi : i < 128) (he : portExists s (die * 128 + i) = true) :
    ((fieldDieOut die s).port (die * 128 + i)).link = .outOfService := by
  rw [fieldDieOut_eq, port_congr (ports_dieWorkOut die _)]
  exact links_out _ (List.mem_filter.mpr ⟨List.mem_map.mpr ⟨i, List.mem_range.mpr hi, rfl⟩, he⟩) s

theorem frame_fieldDieOut (die : Nat) (s : State) :
    Frame [.counters, .ports, .cls, .tables, .flow, .buf, .sched, .ep, .funcs, .polders, .wq, .siphon, .test] s
      (fieldDieOut die s) := Frame.fieldDieOut (fun _ h => h) (.refl _ s) die

/-! ### The state of a die under test -/

section TestDie
variable {die : Nat} {s u : State}

theorem testDie_congr (h : u.test.die = s.test.die) (j : Nat) : testDie u j = testDie s j :=
  congrArg (fun x => Tab.get 0 x j) h

theorem testDie_setTestDie_same {n : Nat} (h : n ≠ 0) : testDie (setTestDie die n s) die = n := Tab.get_set_of_ne _ _ h

theorem testDie_setTestDie_other {n j : Nat} (h : j ≠ die) : testDie (setTestDie die n s) j = testDie s j :=
  Tab.get_set_other _ _ (Ne.symm h)

theorem testDie_setTestDie_zero (h : Tab.wf 0 s.test.die = true) : testDie (setTestDie die 0 s) die = 0 := by
  unfold testDie
  rw [test_setTestDie, Tab.get_set_same _ _ h]

/-- An action that is taken up leaves its request, and is listed among those that run. -/
def listed (p : List PendAct) (s : State) : State :=
  modDict (fun d => { d with acts := d.acts ++ p }) (modMbx (fun m => { m with accepted := none }) s)

theorem testDie_listed (p : List PendAct) (y : State) (j : Nat) : testDie (listed p y) j = testDie y j := rfl
theorem port_listed (p : List PendAct) (y : State) (j : Nat) : (listed p y).port j = y.port j := rfl

end TestDie

/-! ### SELF_TEST_RUN -/

theorem selfTestAborts_field {q : Req} {s : State} (hd : beNat q.msg.data < 4) (hn : ∀ e ∈ s.test.die, e.2 = 0) :
    selfTestAborts q s = [] := by
  have hnone : s.test.die.any (fun e => decide (e.2 ≠ 0)) = false := by
    rw [List.any_eq_false]
    intro e he
    simpa using hn e he
  unfold selfTestAborts
  dsimp only
  rw [hnone, decide_eq_false (by omega), decide_eq_false (p := beNat q.msg.data = 6 ∨ _) (by omega),
    decide_eq_false (p := beNat q.msg.data = 4 ∨ _) (by omega)]
  rfl

theorem selfTestAborts_memory {q : Req} {s : State} {md : Nat} (hmd : md < 2) (hd : beNat q.msg.data = 4 + md)
    (hn : ∀ e ∈ s.test.die, e.2 = 0) (hf : flowUsed s = false) (hcart : (s.cart md).state ∈ [0, 2, 6, 7])
    (hreg : regionOn s md = false) : selfTestAborts q s = [] := by
  have hnone : s.test.die.any (fun e => decide (e.2 ≠ 0)) = false := by
    rw [List.any_eq_false]
    intro e he
    simpa using hn e he
  have hmd' : beNat q.msg.data - 4 = md := by omega
  have hstate : ¬((s.cart md).state ≠ 0 ∧ (s.cart md).state ≠ 2 ∧ (s.cart md).state ≠ 6 ∧ (s.cart md).state ≠ 7) := by
    simp only [List.mem_cons, List.not_mem_nil, or_false] at hcart
    omega
  unfold selfTestAborts
  dsimp only
  rw [hmd', hnone, hf, hreg, decide_eq_false hstate, decide_eq_false (by omega),
    decide_eq_false (p := beNat q.msg.data = 6 ∨ _) (by omega), Bool.or_self, Bool.or_self, Bool.and_false]
  rfl

theorem runs_selfTest_field {d : Nat} (hd : d < 4) :
    TakesAction .selfTestRun 0x1500 2 (fun x s => beNat x = d ∧ ∀ e ∈ s.test.die, e.2 = 0) (.selfTest d)
      (fun _ s u => testDie u d = 1 ∧ (∀ j, j ≠ d → testDie u j = testDie s j)
        ∧ (∀ i < 128, portExists s (d * 128 + i) = true → (u.port (d * 128 + i)).link = .outOfService)) := by
  refine takes_ok (fun _ _ => rfl) rfl fun q x _ _ ⟨hx, hn⟩ => ⟨selfTestAborts_field (by omega) hn, fieldDieOut d x, ?_, ?_, ?_, ?_⟩
  · dsimp only
    rw [hx, if_pos hd]
  · exact (frame_fieldDieOut d x).mbx (by decide)
  · exact (frame_fieldDieOut d x).acts (by decide)
  · intro p
    have hdie : (fieldDieOut d x).test.die = Tab.set 0 x.test.die d 1 := congrArg SelfTest.die (test_fieldDieOut d x)
    have htest : ∀ j, testDie (listed p (fieldDieOut d x)) j = testDie (setTestDie d 1 x) j := fun j => by
      rw [testDie_listed]
      exact testDie_congr hdie j
    refine ⟨(htest d).trans (testDie_setTestDie_same (by decide)), fun j hj => ?_, fun i hi he => ?_⟩
    · exact (htest j).trans (testDie_setTestDie_other hj)
    · exact (congrArg Port.link (port_listed p _ _)).trans (link_fieldDieOut hi he)

theorem runs_selfTest_memory {md : Nat} (hmd : md < 2) :
    TakesAction .selfTestRun 0x1500 2 (fun x s => beNat x = 4 + md ∧ (∀ e ∈ s.test.die, e.2 = 0)
      ∧ flowUsed s = false ∧ (s.cart md).state ∈ [0, 2, 6, 7] ∧ regionOn s md = false) (.selfTest (4 + md))
      (fun _ s u => testDie u (4 + md) = 1 ∧ (∀ j, j ≠ 4 + md → testDie u j = testDie s j)
        ∧ u.boot = { s.boot with ddrTrained := s.boot.ddrTrained.set md false }) := by
  refine takes_ok (fun _ _ => rfl) rfl fun q x _ _ ⟨hx, hn, hf, hcart, hreg⟩ =>
    ⟨selfTestAborts_memory hmd hx hn hf hcart hreg, memoryDieOut md x, ?_, rfl, rfl, fun p => ⟨?_, fun j hj => ?_, rfl⟩⟩
  · have hmd' : 4 + md - 4 = md := by omega
    dsimp only
    rw [hx, if_neg (by omega), hmd']
  · exact testDie_setTestDie_same (die := 4 + md) (s := x) (n := 1) (by decide)
  · exact testDie_setTestDie_other (s := x) (n := 1) hj

theorem refuses_selfTest_range :
    RefusesAction .selfTestRun 0x1500 2 (fun x s => 7 < beNat x ∧ ∀ e ∈ s.test.die, e.2 = 0) 7 := by
  refine refuses_ok (fun _ _ => rfl) rfl fun q x _ _ ⟨hd, hn⟩ => ?_
  have hnone : x.test.die.any (fun e => decide (e.2 ≠ 0)) = false := by
    rw [List.any_eq_false]
    intro e he
    simpa using hn e he
  unfold selfTestAborts
  dsimp only
  rw [hnone, decide_eq_true hd, decide_eq_false (p := beNat q.msg.data = 6 ∨ _) (by omega),
    decide_eq_false (p := beNat q.msg.data = 4 ∨ _) (by omega), Bool.false_and]
  decide

theorem refuses_selfTest_busy : RefusesAction .selfTestRun 0x1500 2
    (fun x s => beNat x = 6 ∨ beNat x = 7 ∨ ∃ e ∈ s.test.die, e.2 ≠ 0) 8 := by
  refine refuses_ok (fun _ _ => rfl) rfl fun q x _ _ h => firstAbort_state ?_
  have hcond : (decide (beNat q.msg.data = 6 ∨ beNat q.msg.data = 7) || x.test.die.any (fun e => decide (e.2 ≠ 0))) = true := by
    rcases h with h | h | ⟨e, he, hne⟩
    · simp [h]
    · simp [h]
    · rw [List.any_eq_true.mpr ⟨e, he, decide_eq_true hne⟩, Bool.or_true]
  unfold selfTestAborts
  dsimp only
  rw [hcond]
  simp [abortIf]

theorem refuses_selfTest_memory : RefusesAction .selfTestRun 0x1500 2 (fun x s => (beNat x = 4 ∨ beNat x = 5)
    ∧ (flowUsed s = true ∨ (s.cart (beNat x - 4)).state ∉ [0, 2, 6, 7] ∨ regionOn s (beNat x - 4) = true)) 8 := by
  refine refuses_ok (fun _ _ => rfl) rfl fun q x _ _ ⟨hd, h⟩ => firstAbort_state ?_
  have hcond : (decide (beNat q.msg.data = 4 ∨ beNat q.msg.data = 5) && (flowUsed x
      || decide ((x.cart (beNat q.msg.data - 4)).state ≠ 0 ∧ (x.cart (beNat q.msg.data - 4)).state ≠ 2
        ∧ (x.cart (beNat q.msg.data - 4)).state ≠ 6 ∧ (x.cart (beNat q.msg.data - 4)).state ≠ 7)
      || regionOn x (beNat q.msg.data - 4))) = true := by
    rw [decide_eq_true hd, Bool.true_and]
    rcases h with h | h | h
    · simp [h]
    · have hstate : (x.cart (beNat q.msg.data - 4)).state ≠ 0 ∧ (x.cart (beNat q.msg.data - 4)).state ≠ 2
          ∧ (x.cart (beNat q.msg.data - 4)).state ≠ 6 ∧ (x.cart (beNat q.msg.data - 4)).state ≠ 7 := by
        simpa using h
      rw [decide_eq_true hstate, Bool.or_true, Bool.true_or]
    · rw [h, Bool.or_true]
  unfold selfTestAborts
  dsimp only
  rw [hcond]
  simp [abortIf]

end Sys2Proof.Machine
end

section
/-! Self-tests: the end of a test, the return of a die, and the test access port (spec 17 R559, R565 to R567, R572). -/

namespace Sys2Proof.Machine
open Sys2Proof

/-! ### SELF_TEST_END -/

section End
variable {die sig : Nat} {s : State}

/-- A die's test has ended: its result stands, and is logged. -/
def testEnded (die sig : Nat) (s : State) : State :=
  setTestDie die (if sig % 2 ^ 64 = s.boot.running.misr.getD die 0 then 2 else 3) (logSelfTest (testResult die sig s))

theorem selfTestEnd_eq (h : testDie s die = 1) : selfTestEnd die sig s = answerAct (.selfTest die) none (testEnded die sig s) := by
  unfold selfTestEnd
  exact if_neg (not_not.mpr h)

/-- What a result records, before anything is raised. -/
def resultKept (die sig : Nat) (ok : Bool) (s : State) : State :=
  modTest (fun x => { x with
    sig := Tab.set 0 x.sig die (sig % 2 ^ 64)
    result := Tab.set 0 x.result die (if ok then 1 else 2)
    runs := satAdd64 x.runs 1 }) s

theorem testResult_eq (good : Bool) (hg : good = decide (sig % 2 ^ 64 = s.boot.running.misr.getD die 0)) :
    testResult die sig s
      = if good then raise 352 (resultKept die sig good s) else raise 353 (raise 352 (resultKept die sig good s)) := by
  subst hg
  rfl

theorem signals_testResult (good : Bool) (hg : good = decide (sig % 2 ^ 64 = s.boot.running.misr.getD die 0)) :
    Signals (resultKept die sig good s) (testResult die sig s) := by
  rw [testResult_eq good hg]
  split
  · exact signals_raise ..
  · exact (signals_raise ..).trans (signals_raise ..)

theorem evtStat_logSelfTest (s : State) (g : Nat) : evtStat (logSelfTest s) g = evtStat s g := by
  unfold logSelfTest appendLog modBoot
  rfl

theorem test_logSelfTest (s : State) : (logSelfTest s).test = s.test :=
  (Frame.logSelfTest (l := [.boot]) (fun _ h => h) (.refl _ s)).test (by decide)

theorem dict_logSelfTest (s : State) : (logSelfTest s).dict = s.dict := rfl

theorem test_answerAct (a : LongAct) (abort : Option Nat) (s : State) : (answerAct a abort s).test = s.test :=
  (Frame.answerAct (l := [.counters, .dict, .mbx]) (fun _ h => h) (.refl _ s) a abort).test (by decide)

theorem runs_selfTestEnd {t : Nat} (good : Bool) (h : testDie s die = 1)
    (hg : good = decide (sig % 2 ^ 64 = s.boot.running.misr.getD die 0)) (hwf : Tab.wf 0 s.test.sig = true) :
    Runs (.selfTestEnd t die sig) s (fun u => testDie u die = (if good then 2 else 3)
      ∧ (∀ j, j ≠ die → testDie u j = testDie s j) ∧ Tab.get 0 u.test.sig die = sig % 2 ^ 64
      ∧ Tab.get 0 u.test.result die = (if good then 1 else 2) ∧ u.test.runs = satAdd64 s.test.runs 1
      ∧ (evtStat u 11).testBit 0 = true ∧ (good = false → (evtStat u 11).testBit 1 = true)
      ∧ (∀ p, p ∈ u.dict.acts ↔ p ∈ s.dict.acts ∧ p.act ≠ .selfTest die)) := by
  have htest : (advance t s).test = s.test := advance_test ..
  have hg' : good = decide (sig % 2 ^ 64 = (advance t s).boot.running.misr.getD die 0) := by rw [hg, advance_boot]
  have hsig := signals_testResult (die := die) (sig := sig) good hg'
  have hkept : (logSelfTest (testResult die sig (advance t s))).test
      = (resultKept die sig good (advance t s)).test := (test_logSelfTest _).trans hsig.test
  have hend : (testEnded die sig (advance t s)).test
      = { (resultKept die sig good (advance t s)).test with
          die := Tab.set 0 s.test.die die (if good then 2 else 3) } := by
    unfold testEnded
    rw [test_setTestDie, hkept, resultKept, modTest, htest, hg']
    simp only [decide_eq_true_eq]
  have hstat : ∀ i, (evtStat (testResult die sig (advance t s)) 11).testBit i = true →
      (evtStat (answerAct (.selfTest die) none (testEnded die sig (advance t s))) 11).testBit i = true := fun i hi =>
    (statGrows_answerAct ..).bits 11 i (by
      have hlog := evtStat_logSelfTest (testResult die sig (advance t s)) 11
      rw [← hlog] at hi
      exact hi)
  refine ⟨_, congrArg Host.Outcome.next (selfTestEnd_eq (by rw [testDie, htest]; exact h)), ?_⟩
  beta_reduce
  have hu := test_answerAct (.selfTest die) none (testEnded die sig (advance t s))
  rw [hend] at hu
  refine ⟨?_, fun j hj => ?_, ?_, ?_, ?_, hstat 0 ?_, fun hbad => hstat 1 ?_, fun p => ?_⟩
  · rw [testDie, hu]
    exact Tab.get_set_of_ne _ _ (by split <;> decide)
  · rw [testDie, hu]
    exact Tab.get_set_other _ _ (Ne.symm hj)
  · rw [hu, resultKept, modTest, htest]
    exact Tab.get_set_same _ _ hwf
  · rw [hu]
    exact Tab.get_set_of_ne _ _ (by split <;> decide)
  · rw [hu, resultKept, modTest, htest]
  · rw [testResult_eq good hg']
    split
    · exact raise_sets (n := 352) rfl _
    · exact (statGrows_raise 353 _).bits 11 0 (raise_sets (n := 352) rfl _)
  · rw [testResult_eq good hg', hbad, if_neg (by decide)]
    exact raise_sets (n := 353) rfl _
  · rw [acts_answerAct]
    have hacts : (testEnded die sig (advance t s)).dict.acts = s.dict.acts := by
      have hd : (testEnded die sig (advance t s)).dict = (testResult die sig (advance t s)).dict := rfl
      rw [hd, hsig.dict, resultKept]
      exact congrArg Dict.acts (advance_dict ..)
    rw [hacts]

end End

/-! ### DIE_RETURN -/

theorem runs_dieReturn : ServesAction .dieReturn 0x1500 3 (fun x s => beNat x ≤ 7 ∧ testDie s (beNat x) = 3) 0
    (fun _ _ => []) (fun x s u => testDie u (beNat x) = 2 ∧ ∀ j, j ≠ beNat x → testDie u j = testDie s j) := by
  refine serves_change (fun _ _ => rfl) rfl fun q x _ _ ⟨hd, ht⟩ => ⟨?_, _, rfl, fun u hu => ?_⟩
  · simp [Nat.not_lt.mpr hd, ht]
  · have htest : u.test = (setTestDie (beNat q.msg.data) 2 x).test := (AnswersOnly.signals hu).test
    refine ⟨?_, fun j hj => ?_⟩
    · exact (testDie_congr (congrArg SelfTest.die htest) _).trans (testDie_setTestDie_same (by decide))
    · exact (testDie_congr (congrArg SelfTest.die htest) _).trans (testDie_setTestDie_other hj)

theorem refuses_dieReturn : RefusesAction .dieReturn 0x1500 3 (fun x s => testDie s (beNat x) ≠ 3) 8 := by
  refine refuses_ok (fun _ _ => rfl) rfl fun q x _ _ h => firstAbort_state ?_
  simp [abortIf, h]

/-! ### The return of a memory die -/

theorem runs_memoryDieReturn {t md : Nat} {s : State} (hwf : Tab.wf 0 s.test.die = true) (h : testDie s (4 + md) = 2)
    (hmd : md < 2) :
    Runs (.dieReturnComplete t (4 + md)) s (fun u => testDie u (4 + md) = 0
      ∧ (∀ j, j ≠ 4 + md → testDie u j = testDie s j) ∧ u.boot.ddrTrained = s.boot.ddrTrained.set md true
      ∧ (∀ e, e ∈ u.siphon.ddr ↔ e ∈ s.siphon.ddr ∧ e.1 / 2 ^ 40 ≠ md)) := by
  have htest : (advance t s).test = s.test := advance_test ..
  have hsiphon : (advance t s).siphon = s.siphon := advance_siphon ..
  have hboot : (advance t s).boot = s.boot := advance_boot ..
  have hrun : dieReturnComplete (4 + md) (advance t s) = memoryDieReturn md (advance t s) := by
    have hmd' : 4 + md - 4 = md := by omega
    unfold dieReturnComplete
    rw [if_neg (not_not.mpr (by rw [testDie, htest]; exact h)), if_neg (by omega), hmd']
  have hblocks : (memoryDieReturn md (advance t s)).test.die = Tab.set 0 s.test.die (4 + md) 0
      ∧ (memoryDieReturn md (advance t s)).boot.ddrTrained = s.boot.ddrTrained.set md true
      ∧ (memoryDieReturn md (advance t s)).siphon.ddr = s.siphon.ddr.filter (fun e => decide (e.1 / 2 ^ 40 ≠ md)) := by
    rw [← htest, ← hsiphon, ← hboot]
    unfold memoryDieReturn
    dsimp only
    split
    · exact ⟨rfl, rfl, rfl⟩
    · exact ⟨rfl, rfl, rfl⟩
  obtain ⟨hdie, hddr, hmem⟩ := hblocks
  refine ⟨_, congrArg Host.Outcome.next hrun, ?_⟩
  beta_reduce
  refine ⟨?_, fun j hj => ?_, hddr, fun e => ?_⟩
  · rw [testDie, hdie, Tab.get_set_same _ _ hwf]
  · rw [testDie, hdie, Tab.get_set_other _ _ (Ne.symm hj)]
    rfl
  · rw [hmem, List.mem_filter, decide_eq_true_eq]

/-! ### The return of a field die -/

section FieldReturn
variable {s : State}

theorem link_setPort {p q : Nat} {x : Port} (hwf : Tab.wf Port.reset s.ports = true) (h : x.link = (s.port q).link) :
    ((s.setPort q x).port p).link = (s.port p).link := by
  by_cases hq : q = p
  · subst hq
    rw [port_setPort_same hwf, h]
  · rw [port_setPort_other _ _ _ _ hq]

/-- From a state with canonical ports every port keeps its link state. -/
structure LinksStay (s u : State) : Prop where
  stays : Tab.wf Port.reset s.ports = true → Tab.wf Port.reset u.ports = true
    ∧ ∀ p, (u.port p).link = (s.port p).link

theorem LinksStay.trans {s u v : State} (a : LinksStay s u) (b : LinksStay u v) : LinksStay s v := by
  refine ⟨fun hwf => ?_⟩
  obtain ⟨hu, ha⟩ := a.stays hwf
  obtain ⟨hv, hb⟩ := b.stays hu
  exact ⟨hv, fun p => (hb p).trans (ha p)⟩

theorem LinksStay.of_ports {s u : State} (h : u.ports = s.ports) : LinksStay s u :=
  ⟨fun hwf => ⟨by rw [h]; exact hwf, fun p => by rw [port_congr h]⟩⟩

theorem linksStay_setPort {q : Nat} {x : Port} {s : State} (h : x.link = (s.port q).link) : LinksStay s (s.setPort q x) :=
  ⟨fun hwf => ⟨Tab.wf_set _ _ hwf, fun _ => link_setPort hwf h⟩⟩

theorem linksStay_revert (q : Nat) (s : State) : LinksStay s (revert q s) := linksStay_setPort rfl

theorem linksStay_backupWentDown (q : Nat) (s : State) : LinksStay s (backupWentDown q s) := by
  have hun : LinksStay s (backupUnavailable q s) :=
    (linksStay_setPort (q := q) (x := { s.port q with frrState := 2 }) rfl).trans (.of_ports (ports_raisePort q 2 _))
  unfold backupWentDown
  dsimp only
  split
  · split
    · exact hun.trans (linksStay_revert ..)
    · exact hun
  · exact .of_ports rfl

theorem linksStay_forEach {α : Type} (l : List α) {f : α → State → State} (h : ∀ a s, LinksStay s (f a s)) (s : State) :
    LinksStay s (forEach l f s) := by
  induction l generalizing s with
  | nil => exact .of_ports rfl
  | cons a l ih => exact (h a s).trans (ih _)

/-- A link change other than to UP changes one port's link state. -/
theorem link_setLink {p fec : Nat} {st : LinkSt} (hup : st ≠ .up) (hwf : Tab.wf Port.reset s.ports = true) :
    Tab.wf Port.reset (setLink p st fec s).ports = true ∧ ((setLink p st fec s).port p).link = st
    ∧ ∀ q, q ≠ p → ((setLink p st fec s).port q).link = (s.port q).link := by
  have hset : Tab.wf Port.reset (withLink p st s).ports = true ∧ ((withLink p st s).port p).link = st
      ∧ ∀ q, q ≠ p → ((withLink p st s).port q).link = (s.port q).link := by
    unfold withLink
    refine ⟨Tab.wf_set _ _ hwf, by rw [port_setPort_same hwf], fun q hq => ?_⟩
    rw [port_setPort_other _ _ _ _ (Ne.symm hq)]
  obtain ⟨hw, hsame, hother⟩ := hset
  rw [setLink_down hup]
  split
  · next h => exact ⟨hwf, h, fun _ _ => rfl⟩
  · split
    · have hstay : LinksStay (withLink p st s)
          (forEach (primariesOf (lossTold p (withLink p st s)) p) backupWentDown (lossTold p (withLink p st s))) :=
        (LinksStay.of_ports (ports_lossTold p _)).trans (linksStay_forEach _ linksStay_backupWentDown _)
      obtain ⟨hw', hlink⟩ := hstay.stays hw
      exact ⟨hw', (hlink p).trans hsame, fun q hq => (hlink q).trans (hother q hq)⟩
    · exact ⟨hw, hsame, hother⟩

/-- A port of a die in service is not out of service after its administrative state was looked at. -/
theorem link_portAdminChanged {p : Nat} (hwf : Tab.wf Port.reset s.ports = true) (hserves : dieServes s (dieOf p) = true) :
    Tab.wf Port.reset (portAdminChanged p s).ports = true ∧ ((portAdminChanged p s).port p).link ≠ .outOfService
    ∧ ∀ q, q ≠ p → ((portAdminChanged p s).port q).link = (s.port q).link := by
  have key : ∀ y : State, (Tab.wf Port.reset y.ports = true ∧ (y.port p).link ≠ .outOfService
      ∧ ∀ q, q ≠ p → (y.port q).link = (s.port q).link) → ∀ c : Bool,
      Tab.wf Port.reset (if c then revert p y else y).ports = true
      ∧ ((if c then revert p y else y).port p).link ≠ .outOfService
      ∧ ∀ q, q ≠ p → ((if c then revert p y else y).port q).link = (s.port q).link := by
    intro y hy c
    cases c with
    | false => exact hy
    | true =>
      obtain ⟨h1, h2, h3⟩ := hy
      obtain ⟨hw, hlink⟩ := (linksStay_revert p y).stays h1
      exact ⟨hw, fun h => h2 ((hlink p).symm.trans h), fun q hq => (hlink q).trans (h3 q hq)⟩
  have hdown := link_setLink (s := s) (p := p) (fec := 0) (st := .down) (by decide) hwf
  have hdis := link_setLink (s := s) (p := p) (fec := 0) (st := .disabled) (by decide) hwf
  unfold portAdminChanged
  dsimp only
  refine key _ ?_ _
  rw [hserves, Bool.not_true, Bool.false_and, if_neg (by decide)]
  split
  · split
    · obtain ⟨h1, h2, h3⟩ := hdown
      exact ⟨h1, by rw [h2]; decide, h3⟩
    · next h => exact ⟨hwf, fun hout => h (.inr hout), fun _ _ => rfl⟩
  · obtain ⟨h1, h2, h3⟩ := hdis
    exact ⟨h1, by rw [h2]; decide, h3⟩

theorem test_portAdminChanged (p : Nat) (s : State) : (portAdminChanged p s).test = s.test :=
  (Frame.portAdminChanged (l := [.counters, .ports, .tables, .buf, .sched, .ep, .funcs, .polders, .wq, .siphon])
    (fun _ h => h) (.refl _ s) p).test (by decide)

/-- Ports of a die in service are looked at one after another: none of them is out of service afterwards. -/
theorem links_looked_at (l : List Nat) {s : State} (hwf : Tab.wf Port.reset s.ports = true)
    (hserves : ∀ p ∈ l, dieServes s (dieOf p) = true) (p : Nat) (h : p ∈ l ∨ (s.port p).link ≠ .outOfService) :
    ((forEach l portAdminChanged s).port p).link ≠ .outOfService := by
  induction l generalizing s with
  | nil => exact h.resolve_left (by simp)
  | cons q l ih =>
    obtain ⟨hw, hsame, hother⟩ := link_portAdminChanged hwf (hserves q (by simp))
    refine ih hw (fun r hr => ?_) ?_
    · have hr' := hserves r (List.mem_cons_of_mem _ hr)
      rwa [dieServes, test_portAdminChanged]
    · by_cases hpq : p = q
      · subst hpq
        exact .inr hsame
      · rcases h with h | h
        · exact .inl (List.mem_of_ne_of_mem hpq h)
        · exact .inr (by rw [hother p hpq]; exact h)

/-! A field die returns: its state is emptied first, then its ports are looked at. -/

/-- The die's state as it returns, its ports aside. -/
def fieldEmptied (die : Nat) (s : State) : State :=
  forEach ((List.range 128).map (fun i => die * 128 + i)) (fun p st => st.setPsched p (portSchedReturn (st.psched p)))
    (frerRestart die (dieCountersReset die (copyReplica die (restoreLogged die s))))

/-- The die serves again. -/
def fieldServes (die : Nat) (s : State) : State := rehomeTables (rehomeFlow (setTestDie die 0 (fieldEmptied die s)))

theorem fieldDieReturn_eq (die : Nat) (s : State) : fieldDieReturn die s =
    lowCheck die (forEach (((List.range 128).map (fun i => die * 128 + i)).filter
      (fun p => decide (((fieldServes die s).port p).link = .outOfService))) portAdminChanged (fieldServes die s)) := rfl

theorem frame_fieldEmptied (die : Nat) (s : State) :
    Frame [.boot, .counters, .frer, .cls, .tables, .sched] s (fieldEmptied die s) := by
  refine Frame.forEach _ (fun p y hy => Frame.setPsched (.of_all (by decide)) hy p _) ?_
  exact Frame.frerRestart (.of_all (by decide)) (Frame.dieCountersReset (.of_all (by decide))
    (Frame.copyReplica (.of_all (by decide)) (Frame.restoreLogged (.of_all (by decide)) (.refl _ s) die) die) die) die

theorem ports_fieldServes (die : Nat) (s : State) : (fieldServes die s).ports = s.ports := by
  rw [fieldServes, (frame_rehome _).ports (by decide), ports_setTestDie, (frame_fieldEmptied die s).ports (by decide)]

theorem test_fieldServes (die : Nat) (s : State) :
    (fieldServes die s).test = { s.test with die := Tab.set 0 s.test.die die 0 } := by
  rw [fieldServes, (frame_rehome _).test (by decide), test_setTestDie, (frame_fieldEmptied die s).test (by decide)]

theorem ports_lowCheck (die : Nat) (s : State) : (lowCheck die s).ports = s.ports :=
  (Frame.lowCheck (l := [.buf]) (fun _ h => h) (.refl _ s) die).ports (by decide)

theorem test_lowCheck (die : Nat) (s : State) : (lowCheck die s).test = s.test :=
  (Frame.lowCheck (l := [.buf]) (fun _ h => h) (.refl _ s) die).test (by decide)

theorem test_fieldDieReturn (die : Nat) (s : State) :
    (fieldDieReturn die s).test = { s.test with die := Tab.set 0 s.test.die die 0 } := by
  rw [fieldDieReturn_eq, test_lowCheck]
  exact (forEach_keeps State.test (fun p y => test_portAdminChanged p y) _ _).trans (test_fieldServes die s)

theorem link_fieldDieReturn {die i : Nat} (hp : Tab.wf Port.reset s.ports = true) (hwf : Tab.wf 0 s.test.die = true)
    (hi : i < 128) : ((fieldDieReturn die s).port (die * 128 + i)).link ≠ .outOfService := by
  have hports := ports_fieldServes die s
  rw [fieldDieReturn_eq, port_congr (ports_lowCheck ..)]
  refine links_looked_at _ (by rw [hports]; exact hp) (fun p hmem => ?_) _ ?_
  · obtain ⟨hmem, -⟩ := List.mem_filter.mp hmem
    obtain ⟨k, hk, rfl⟩ := List.mem_map.mp hmem
    have hdie : dieOf (die * 128 + k) = die := by
      have := List.mem_range.mp hk
      unfold dieOf
      omega
    rw [dieServes, hdie, test_fieldServes]
    exact decide_eq_true (testDie_setTestDie_zero hwf)
  · by_cases hout : ((fieldServes die s).port (die * 128 + i)).link = .outOfService
    · exact .inl (List.mem_filter.mpr ⟨List.mem_map.mpr ⟨i, List.mem_range.mpr hi, rfl⟩, decide_eq_true hout⟩)
    · exact .inr hout

theorem runs_fieldDieReturn {t die : Nat} (hc : Canonical s) (hwf : Tab.wf 0 s.test.die = true) (h : testDie s die = 2)
    (hd : die < 4) :
    Runs (.dieReturnComplete t die) s (fun u => testDie u die = 0 ∧ (∀ j, j ≠ die → testDie u j = testDie s j)
      ∧ (∀ i < 128, (u.port (die * 128 + i)).link ≠ .outOfService) ∧ u.dict.vals = s.dict.vals) := by
  have htest : (advance t s).test = s.test := advance_test ..
  have hrun : dieReturnComplete die (advance t s) = fieldDieReturn die (advance t s) := by
    unfold dieReturnComplete
    rw [if_neg (not_not.mpr (by rw [testDie, htest]; exact h)), if_pos hd]
  have hu : (fieldDieReturn die (advance t s)).test.die = (setTestDie die 0 s).test.die := by
    rw [test_fieldDieReturn, htest, test_setTestDie]
  have hvals : (fieldDieReturn die (advance t s)).dict.vals = s.dict.vals :=
    ((Frame.fieldDieReturn (fun _ h => h) (.refl _ (advance t s)) die).vals (by decide)).trans (by rw [advance_dict])
  refine ⟨_, congrArg Host.Outcome.next hrun, ?_⟩
  beta_reduce
  refine ⟨?_, fun j hj => ?_, fun i hi => ?_, hvals⟩
  · exact (testDie_congr hu die).trans (testDie_setTestDie_zero hwf)
  · exact (testDie_congr hu j).trans (testDie_setTestDie_other hj)
  · exact link_fieldDieReturn (canonical_advance t hc).ports (by rw [htest]; exact hwf) hi

end FieldReturn

/-! ### Steps that find nothing to do -/

theorem runs_selfTestEnd_idle {t die sig : Nat} {s : State} (h : testDie s die ≠ 1) :
    Runs (.selfTestEnd t die sig) s (fun u => u = advance t s) :=
  ⟨_, congrArg Host.Outcome.next (if_pos (by rw [testDie, advance_test]; exact h)), rfl⟩

theorem runs_dieReturnComplete_idle {t die : Nat} {s : State} (h : testDie s die ≠ 2) :
    Runs (.dieReturnComplete t die) s (fun u => u = advance t s) :=
  ⟨_, congrArg Host.Outcome.next (if_pos (by rw [testDie, advance_test]; exact h)), rfl⟩

end Sys2Proof.Machine

namespace Sys2Proof
open Machine

/-- Settles O55: a test and a return change the state of one die; its ports leave service one after another, and on
return are looked at again; the test access port acts on its own register alone. -/
theorem selfTests : Obligations.SelfTests := by
  refine ⟨fun _ hd => runs_selfTest_field hd, fun _ hmd => runs_selfTest_memory hmd, refuses_selfTest_range,
    refuses_selfTest_busy, refuses_selfTest_memory, fun _ _ _ _ good h hg hwf => runs_selfTestEnd good h hg hwf,
    fun _ _ _ _ h => runs_selfTestEnd_idle h, runs_dieReturn, refuses_dieReturn,
    fun _ _ _ hc hwf h hd => runs_fieldDieReturn hc hwf h hd, fun _ _ _ hwf h hmd => runs_memoryDieReturn hwf h hmd,
    fun _ _ _ h => runs_dieReturnComplete_idle h, fun _ => ⟨_, rfl, rfl⟩, fun _ _ => ⟨_, rfl, rfl⟩,
    fun _ _ => ⟨_, rfl, _, rfl⟩, fun k c s hkc => ?_, fun k c s hkc => ?_⟩
  · simp only [List.mem_cons, Prod.mk.injEq, List.not_mem_nil, or_false] at hkc
    rcases hkc with ⟨rfl, rfl⟩ | ⟨rfl, rfl⟩ | ⟨rfl, rfl⟩
    all_goals exact ⟨fun h => ⟨_, congrArg Host.Outcome.next (if_pos h), _, rfl⟩,
      fun h => ⟨_, congrArg Host.Outcome.next (if_neg (by simp [h])), rfl⟩⟩
  · simp only [List.mem_cons, Prod.mk.injEq, List.not_mem_nil, or_false] at hkc
    rcases hkc with ⟨rfl, rfl⟩ | ⟨rfl, rfl⟩
    all_goals exact ⟨fun h => ⟨_, congrArg Host.Outcome.next (if_pos h), rfl⟩,
      fun h => ⟨_, congrArg Host.Outcome.next (if_neg (by simp [h])), rfl⟩⟩

end Sys2Proof
end

section
/-! The values of stored polders at a start (spec 10 R343): the polder area is loaded after the object store, and the
weight, access and class of a committed record take the place of what the store holds. A start therefore does not leave
the values of the store alone, as the statements of the start sequence, of the resets and of an activation out of
recovery say. -/

namespace Sys2Proof.Machine
open Sys2Proof

/-! ### What a start does with the dictionary's values -/

theorem vals_loadSessionKey (n : Nat) (b : Bytes) (s : State) : (loadSessionKey n b s).dict.vals = s.dict.vals := by
  have hclear : ∀ y : State, (clearSessionKey n y).dict.vals = y.dict.vals := fun y => by
    unfold clearSessionKey
    split
    · exact (Frame.clearSlot (l := [.cipher]) (.of_all (by decide)) (.refl _ y) _).vals (by decide)
    · rfl
  unfold loadSessionKey
  split
  · rfl
  · split
    · rfl
    · split
      · rfl
      · exact (hclear _).trans rfl

/-- One session starts in the state its stored objects give. -/
def loadSession (i : Nat) (s : State) : State :=
  if cfg s (0x1150 + i) 3 = zeros 56 then s
  else if s.boot.asideKeys.contains (i + 1, cfg s (0x1150 + i) 3) then
    s.setSession (i + 1) { s.session (i + 1) with setAside := true }
  else loadSessionKey (i + 1) (cfg s (0x1150 + i) 3) s

theorem loadSessions_eq (s : State) : loadSessions s = forEach (List.range 64) loadSession s := rfl

theorem vals_loadSessions (s : State) : (loadSessions s).dict.vals = s.dict.vals := by
  have hone : ∀ (i : Nat) (y : State), (loadSession i y).dict.vals = y.dict.vals := fun i y => by
    unfold loadSession
    split
    · rfl
    · split
      · rfl
      · rw [vals_loadSessionKey]
  rw [loadSessions_eq]
  exact forEach_keeps (fun y => y.dict.vals) hone _ s

/-- The state whose polder area a start from an image loads. -/
def beforePolders (t slot : Nat) (flash : Bool) (s : State) : State :=
  loadEpoch flash (loadStore (logImage (slotNo s slot).hdr (modBoot (fun b => { b with
    slot := slot, running := (slotNo s slot).hdr, datapath := (slotNo s slot).hdr, coresUp := true, hbAt := t }) s)))

theorem vals_startFrom (t slot : Nat) (flash : Bool) (s : State) :
    (startFrom t slot flash s).dict.vals = (loadPolders (beforePolders t slot flash s)).dict.vals := by
  have htest : ∀ (l : List Nat) (y : State), (startTest l y).dict.vals = y.dict.vals := fun l y =>
    (Frame.startTest (fun _ h => h) (.refl _ y) l).vals (by decide)
  have hlog : ∀ (k i : Nat) (d : Bytes) (y : State), (appendLog k i d y).dict = y.dict := fun _ _ _ _ => rfl
  have hbuf : ∀ (f : Buffers → Buffers) (y : State), (modBuf f y).dict = y.dict := fun _ _ => rfl
  unfold startFrom
  dsimp only
  rw [htest, hbuf, vals_loadSessions, hlog]
  unfold beforePolders
  rfl

/-- What the boot flash holds of the polders. -/
def polderArea (s : State) : Tab PolderRec × List AreaHdr := (s.boot.area, s.boot.areaHdr)

theorem polderArea_congr {s u : State} (h : u.boot = s.boot) : polderArea u = polderArea s := by
  unfold polderArea
  rw [h]

theorem polderArea_appendLog (k i : Nat) (d : Bytes) (s : State) : polderArea (appendLog k i d s) = polderArea s := by
  unfold polderArea appendLog modBoot
  dsimp only
  split <;> rfl

theorem polderArea_logImage (h : ImgHdr) (s : State) : polderArea (logImage h s) = polderArea s := by
  unfold logImage
  exact (forEach_keeps polderArea (fun (e : (Nat × Bytes) × Nat) z => polderArea_appendLog 4 e.2 e.1.2 z) _ _).trans (polderArea_appendLog ..)

theorem polderArea_loadStore (s : State) : polderArea (loadStore s) = polderArea s := by
  unfold loadStore
  split
  · rw [polderArea_appendLog]
    rfl
  · rw [polderArea_appendLog, polderArea_congr (raise_boot ..)]

theorem polderArea_setKeysAside (s : State) : polderArea (setKeysAside s) = polderArea s := by
  unfold setKeysAside
  dsimp only
  generalize List.filter _ (List.map _ (List.range 64)) = l
  rfl

theorem polderArea_loadEpoch (flash : Bool) (s : State) : polderArea (loadEpoch flash s) = polderArea s := by
  unfold loadEpoch
  dsimp only
  generalize nextEpoch s.boot.epochRec = next
  have hif : ∀ (c : Bool) (y : State), polderArea (if c then y else raise 1 y) = polderArea y := fun c y => by
    cases c with
    | true => rfl
    | false => exact polderArea_congr (raise_boot ..)
  split
  · rw [polderArea_setKeysAside, hif]
    rfl
  · rw [hif]
    rfl

theorem polderArea_beforePolders (t slot : Nat) (flash : Bool) (s : State) :
    polderArea (beforePolders t slot flash s) = polderArea s := by
  unfold beforePolders
  rw [polderArea_loadEpoch, polderArea_loadStore, polderArea_logImage]
  rfl

/-! ### A polder area with one committed record -/

/-- A committed record of polder 0 with another weight than the default. -/
def heavyRec : PolderRec :=
  PolderRec.seal 1 { PolderRec.erased with state := 1, gen := 0, counts := Counts.zero, weight := 5 }

theorem payload_seal (c : Nat) (r : PolderRec) : (PolderRec.seal c r).payload = r.payload := rfl

/-- A record that is sealed is valid. -/
theorem valid_seal (c : Nat) (r : PolderRec) : (PolderRec.seal c r).valid = true := by
  have hmagic : (PolderRec.seal c r).magic = 0x504F4C44 := rfl
  have hcrc : (PolderRec.seal c r).crc = crc32c r.payload := rfl
  unfold PolderRec.valid
  rw [payload_seal, decide_eq_true hmagic, decide_eq_true hcrc]
  rfl

theorem heavyRec_valid : heavyRec.valid = true := valid_seal ..

theorem areaRec_heavy {b : Boot} (h : b.area = [(0, heavyRec)]) : b.areaRec 0 = heavyRec := by
  have herased : PolderRec.erased.valid = false := by
    unfold PolderRec.valid
    rw [decide_eq_false (p := PolderRec.erased.magic = 0x504F4C44) (by decide), Bool.false_and]
  have hcopies : b.areaCopies 0 = [heavyRec, PolderRec.erased] := by
    unfold Boot.areaCopies
    rw [h]
    rfl
  unfold Boot.areaRec bestCopy
  rw [hcopies, List.filter_cons_of_pos heavyRec_valid, List.filter_cons_of_neg (by simp [herased])]
  rfl

theorem ins_ne_nil {α : Type} (t : Tab α) (i : Nat) (v : α) : Tab.ins t i v ≠ [] := by
  cases t with
  | nil => exact List.cons_ne_nil _ _
  | cons e t =>
    unfold Tab.ins
    split
    · exact List.cons_ne_nil _ _
    · split
      · exact List.cons_ne_nil _ _
      · exact List.cons_ne_nil _ _

theorem vals_loadValues_heavy (s : State) : (loadValues 0 heavyRec s).dict.vals ≠ [] := by
  have hweight : ∀ y : State, (setVal 0x3000 0xA (beBytes 2 5) y).dict.vals
      = Tab.ins y.dict.vals (objKey 0x3000 0xA) (beBytes 2 5) := fun y => by
    unfold setVal modDict
    dsimp only
    rw [if_neg (by decide : ¬beBytes 2 5 = objDefault 0x3000 0xA)]
  have h : (loadValues 0 heavyRec s).dict.vals
      = (setVal 0x3000 0xA (beBytes 2 5) (setVal 0x3000 0xB (beBytes 1 1) (setVal 0x3000 0xC (beBytes 1 0) s))).dict.vals := rfl
  rw [h, hweight]
  exact ins_ne_nil _ _ _

/-- The record's share always fits: it asks for nothing. -/
theorem shareFits_zero {s : State} (h : s.polders.tab = []) : shareFits s false Counts.zero Counts.zero = true := by
  have hlist : ∀ k, Counts.zero.list.getD k 0 = 0 := fun k => by
    by_cases hk : k < 7
    · interval_cases k <;> rfl
    · exact List.getD_eq_default _ _ (by exact Nat.not_lt.mp hk)
  have hused : ∀ k, poolUsed s k = 0 := fun k => by
    unfold poolUsed
    rw [h]
    rfl
  unfold shareFits
  rw [Bool.and_eq_true, Bool.and_eq_true, List.all_eq_true, List.all_eq_true]
  refine ⟨⟨fun k _ => ?_, rfl⟩, fun d _ => decide_eq_true (.inr (Nat.le_refl _))⟩
  rw [hused, hlist]
  simp

theorem loadPolder_heavy {s : State} (ha : s.boot.area = [(0, heavyRec)]) (hp : s.polders.tab = []) :
    (loadPolder 0 s).dict.vals ≠ [] := by
  have hset : (s.setPolder 0 { s.polder 0 with gen := heavyRec.gen }).polders.tab = [] := by
    have hpolder : s.polder 0 = Polder.reset := by
      unfold State.polder
      rw [hp]
      rfl
    have hsame : ({ s.polder 0 with gen := heavyRec.gen } : Polder) = Polder.reset := by
      rw [hpolder]
      rfl
    rw [hsame]
    have htab : (s.setPolder 0 Polder.reset).polders.tab = Tab.set Polder.reset s.polders.tab 0 Polder.reset := rfl
    rw [htab, hp]
    rfl
  have hfits := shareFits_zero hset
  have hvals : ∀ (o : Origin) (f : Bool) (c : Counts) (y : State),
      (logPolder o 0 f (installPolder 0 c y)).dict.vals = y.dict.vals := fun o f c y =>
    (Frame.logPolder (l := [.boot, .counters, .buf, .polders]) (.of_all (by decide))
      (Frame.installPolder (.of_all (by decide)) (.refl _ y) 0 c) o 0 f).vals (by decide)
  unfold loadPolder
  rw [areaRec_heavy ha]
  dsimp only
  rw [if_neg (by simp [heavyRec_valid]), if_neg (by decide), if_pos]
  · rw [hvals]
    exact vals_loadValues_heavy _
  · rw [Bool.and_eq_true]
    exact ⟨hfits, by decide⟩

theorem vals_loadPolders_heavy {s : State} (ha : polderArea s = ([(0, heavyRec)], List.replicate 2 AreaHdr.erased)) :
    (loadPolders s).dict.vals ≠ [] := by
  have harea : s.boot.area = [(0, heavyRec)] := congrArg Prod.fst ha
  have hhdr : s.boot.areaHdr = List.replicate 2 AreaHdr.erased := congrArg Prod.snd ha
  have hinvalid : s.boot.areaValid = false := by
    unfold Boot.areaValid Boot.areaHead
    rw [hhdr]
    decide
  have hzero : ∀ y : State, y.boot.area = [(0, heavyRec)] → y.polders.tab = [] →
      (forEach (((y.boot.area.map (fun e => e.1 / 2)).dedup).filter (fun n => decide (n ≠ 0))) loadPolder
        (loadPolder0 y)).dict.vals ≠ [] := by
    intro y hy hp
    have hinstall : ∀ z : State, (installPolder 0 Counts.polder0 z).dict.vals = z.dict.vals := fun z =>
      (Frame.installPolder (l := [.buf, .polders]) (.of_all (by decide)) (.refl _ z) 0 _).vals (by decide)
    have hload := loadPolder_heavy hy hp
    have hnone : ((y.boot.area.map (fun e => e.1 / 2)).dedup).filter (fun n => decide (n ≠ 0)) = [] := by
      rw [hy]
      decide
    rw [hnone]
    unfold loadPolder0
    dsimp only [forEach, List.foldl]
    split
    · exact hload
    · rw [hinstall]
      exact hload
  unfold loadPolders
  dsimp only
  rw [if_neg]
  · exact hzero _ harea rfl
  · exact fun h => absurd (hinvalid.symm.trans h) (by decide)

/-- A start over this polder area leaves values in the dictionary, whatever the store holds. -/
theorem vals_startFrom_heavy {s : State} (ha : polderArea s = ([(0, heavyRec)], List.replicate 2 AreaHdr.erased))
    (t slot : Nat) (flash : Bool) : (startFrom t slot flash s).dict.vals ≠ [] := by
  rw [vals_startFrom]
  exact vals_loadPolders_heavy (by rw [polderArea_beforePolders, ha])

/-! ### Starts over it -/

theorem polderArea_deviceReset (s : State) : polderArea (deviceReset s) = polderArea s := rfl

/-- The state in which a start selects its image. -/
def atSelection (t : Nat) (s : State) : State :=
  appendLog 2 0 (Config.fuseDigest s.boot.rollback) (appendLog 1 0 Config.romDigest
    (modEp (fun e => { e with link := 1 }) (modTables (fun x => { x with learnZero := t })
      (modBoot (fun b => { b with started := true })
        (modBoard (fun b => { b with fullReset := false, startAt := some t }) (deviceReset s))))))

theorem polderArea_atSelection (t : Nat) (s : State) : polderArea (atSelection t s) = polderArea s := by
  unfold atSelection
  rw [polderArea_appendLog, polderArea_appendLog]
  rfl

theorem deviceStart_boots {t : Nat} {flash : Bool} {s : State}
    (h : ¬(s.board.perstLow = true ∨ (!s.board.released) = true ∨ s.board.drainWait = true ∨ s.boot.started = true))
    (hv : slotValid (atSelection t s) (bcbSlot (atSelection t s).boot.bcb) = true) :
    deviceStart t flash s = startFrom t (bcbSlot (atSelection t s).boot.bcb) flash (atSelection t s) := by
  unfold deviceStart
  rw [if_neg h]
  exact if_pos hv

/-- A part as it is shipped, but with a committed record in its polder area, held by nothing but its power. -/
def heavyPart : State :=
  { State.reset with
    boot := { Boot.reset with area := [(0, heavyRec)] }
    board := { Board.reset with perstLow := false } }

/-- The part once its power is good. -/
def heavyPowered : State :=
  modBoard (fun b => { b with
    rails := 0xFF, refclk := true, released := true, sigs := [], fullReset := false, drainWait := false
    jtempMax := none, sampled := false, warnArmed := true, throttleArmed := true, criticalArmed := true, throttled := false })
    heavyPart

theorem coldStart_heavyPart (flash : Bool) : coldStart 0 [] flash (advance 0 heavyPart)
    = startFrom 0 (bcbSlot (atSelection 0 heavyPowered).boot.bcb) flash (atSelection 0 heavyPowered) := by
  have hclock : advance 0 heavyPart = heavyPart := if_neg (by decide)
  rw [hclock]
  unfold coldStart
  rw [if_neg (by decide)]
  exact deviceStart_boots (s := heavyPowered) (by decide) (by decide)

theorem area_heavyPowered : polderArea heavyPowered = ([(0, heavyRec)], List.replicate 2 AreaHdr.erased) := rfl

theorem slotValid_heavyPart : slotValid heavyPart (bcbSlot heavyPart.boot.bcb) = true := by decide

theorem loadedStore_heavyPart : loadedStore heavyPart.boot.store = none := by decide

/-- What the start sequence states where no copy of the store is valid. -/
theorem started_without_store {s u : State} {t a status : Nat} {flash : Bool} (h : Started s u t a status flash)
    (hnone : loadedStore s.boot.store = none) : u.boot.started = true ∧ u.dict.vals = [] := by
  obtain ⟨hstarted, -, -, -, -, -, -, -, -, -, -, -, -, -, hvals, -⟩ := h
  exact ⟨hstarted, (hvals hnone).1⟩

theorem vals_coldStart_heavyPart {u : State} {flash : Bool} (h : exec (.coldStart 0 ⟨[], flash⟩) heavyPart = .next u) :
    u.dict.vals ≠ [] := by
  have hexec : exec (.coldStart 0 ⟨[], flash⟩) heavyPart = .next (coldStart 0 [] flash (advance 0 heavyPart)) := rfl
  rw [hexec, coldStart_heavyPart] at h
  rw [← Host.Outcome.next.inj h]
  exact vals_startFrom_heavy (by rw [polderArea_atSelection, area_heavyPowered]) _ _ _

/-- The part while the write cache drains in a full reset. -/
def heavyDraining : State :=
  { heavyPart with board := { heavyPart.board with released := true, drainWait := true } }

/-- The part at the end of that drain. -/
def heavyDrained : State :=
  modBoard (fun b => { b with drainWait := false, sigs := [] })
    (deviceReset (flushDone (drainAll 1 (drainAll 0 heavyDraining))))

theorem area_heavyDrained : polderArea heavyDrained = ([(0, heavyRec)], List.replicate 2 AreaHdr.erased) := by
  have hframe : Frame [.wq, .siphon, .jrn] heavyDraining (flushDone (drainAll 1 (drainAll 0 heavyDraining))) :=
    Frame.flushDone (.of_all (by decide)) (Frame.drainAll (.of_all (by decide))
      (Frame.drainAll (.of_all (by decide)) (.refl _ _) 0) 1)
  have hboot : polderArea heavyDrained = polderArea (flushDone (drainAll 1 (drainAll 0 heavyDraining))) := rfl
  rw [hboot, polderArea_congr (hframe.boot (by decide))]
  rfl

theorem vals_drainEnd_heavy {u : State} {flash : Bool} (h : exec (.writeCacheDrainEnd 0 ⟨[], flash⟩) heavyDraining = .next u) :
    u.dict.vals ≠ [] := by
  have hclock : advance 0 heavyDraining = heavyDraining := if_neg (by decide)
  have hexec : exec (.writeCacheDrainEnd 0 ⟨[], flash⟩) heavyDraining
      = .next (writeCacheDrainEnd 0 [] flash (advance 0 heavyDraining)) := rfl
  have hrun : writeCacheDrainEnd 0 [] flash heavyDraining = deviceStart 0 flash heavyDrained := by
    unfold writeCacheDrainEnd
    exact if_neg (by decide)
  rw [hexec, hclock, hrun, deviceStart_boots (by decide) (by decide)] at h
  rw [← Host.Outcome.next.inj h]
  exact vals_startFrom_heavy (by rw [polderArea_atSelection, area_heavyDrained]) _ _ _

/-- A copy of the object store that holds no value. -/
def emptyStore : StoreCopy :=
  { StoreCopy.erased with magic := 0x46445053, crc := crc32c (storePayload []), vals := [] }

/-- The part in recovery, with a checked image to activate. -/
def heavyRecovering : State :=
  { heavyPart with
    boot := { heavyPart.boot with bootStatus := 2, actStage := .checked, store := [emptyStore, StoreCopy.erased] } }

theorem emptyStore_valid : emptyStore.valid = true := by
  have hmagic : emptyStore.magic = 0x46445053 := rfl
  have hcrc : emptyStore.crc = crc32c (storePayload emptyStore.vals) := rfl
  unfold StoreCopy.valid
  rw [decide_eq_true hmagic, decide_eq_true hcrc]
  rfl

theorem loadedStore_heavyRecovering : loadedStore heavyRecovering.boot.store = some emptyStore := by
  have herased : StoreCopy.erased.valid = false := by
    unfold StoreCopy.valid
    rw [decide_eq_false (p := StoreCopy.erased.magic = 0x46445053) (by decide), Bool.false_and]
  have hstore : heavyRecovering.boot.store = [emptyStore, StoreCopy.erased] := rfl
  unfold loadedStore bestCopy
  rw [hstore, List.filter_cons_of_pos emptyStore_valid, List.filter_cons_of_neg (by simp [herased])]
  rfl

theorem vals_coresRun (t : Nat) (s : State) : (coresRun t s).dict.vals = s.dict.vals := by
  have hheader : ∀ y : State, (mbxHeader y).dict.vals = y.dict.vals := fun y =>
    (Frame.mbxHeader (l := [.counters, .mbx]) (.of_all (by decide)) (.refl _ y)).vals (by decide)
  unfold coresRun
  dsimp only
  rw [hheader, forEach_keeps (fun y => y.dict.vals) (fun h y => (replies_answer h flagAbort aBUSY 0 0 [] y).vals)]
  rfl

theorem vals_journalRelease (fail : Option Nat) (s : State) : (journalRelease fail s).dict.vals = s.dict.vals :=
  (Frame.journalRelease (l := [.wq, .siphon, .jrn]) (.of_all (by decide)) (.refl _ s) fail).vals (by decide)

/-- The boot flash has taken the slot that is activated, and the activation is logged. -/
def activated (flash recovers : Bool) (s : State) : State :=
  appendLog 8 0 (slotNo s (inactiveSlot s)).hdr.digest (writeBcb (inactiveSlot s) flash (modBoot (fun b => { b with
    actStage := .idle, actState := 0, activations := satAdd32 b.activations 1, dikeRun := 0
    bootStatus := if recovers then 0 else b.bootStatus }) s))

theorem polderArea_activated (flash recovers : Bool) (s : State) : polderArea (activated flash recovers s) = polderArea s := by
  unfold activated
  rw [polderArea_appendLog]
  rfl

theorem activationComplete_recovers {t : Nat} {flash : Bool} {s : State} (hst : s.boot.actStage = .checked)
    (ht : ¬s.boot.actAt + 180 * 10 ^ 12 < t) (hr : s.boot.bootStatus = 2) : activationComplete t flash s =
    raise 6 (journalRelease none (coresRun t (startFrom t (inactiveSlot s) flash (activated flash true s)))) := by
  unfold activationComplete activated
  rw [if_neg (not_not.mpr hst), if_neg ht]
  dsimp only
  rw [decide_eq_true hr, if_pos rfl]

theorem vals_activation_heavy {u : State} {flash : Bool} (h : exec (.activationComplete ⟨0, flash⟩) heavyRecovering = .next u) :
    u.dict.vals ≠ [] := by
  have hclock : advance 0 heavyRecovering = heavyRecovering := if_neg (by decide)
  have hexec : exec (.activationComplete ⟨0, flash⟩) heavyRecovering
      = .next (activationComplete 0 flash (advance 0 heavyRecovering)) := rfl
  have harea : polderArea heavyRecovering = ([(0, heavyRec)], List.replicate 2 AreaHdr.erased) := rfl
  rw [hexec, hclock, activationComplete_recovers rfl (Nat.not_lt_zero _) rfl] at h
  rw [← Host.Outcome.next.inj h, raise_dict, vals_journalRelease, vals_coresRun]
  exact vals_startFrom_heavy (by rw [polderArea_activated, harea]) _ _ _

end Sys2Proof.Machine

namespace Sys2Proof
open Machine

/-- Refutes O50: a cold start loads the polder area after the object store; a committed record whose weight is not the
default leaves a value in the dictionary although no copy of the store is valid. -/
theorem not_startSequence : ¬ Obligations.StartSequence := by
  rintro ⟨-, -, hstart, -⟩
  obtain ⟨hboots, -, -⟩ := hstart 0 [] true heavyPart rfl rfl rfl
  obtain ⟨u, hu, hstarted, -⟩ := hboots slotValid_heavyPart
  obtain ⟨-, hempty⟩ := started_without_store hstarted loadedStore_heavyPart
  exact vals_coldStart_heavyPart hu hempty

/-- Refutes O51: the end of a write-cache drain starts the part, and the start loads the polder area after the object
store, as for O50. -/
theorem not_resetsAndFaults : ¬ Obligations.ResetsAndFaults := by
  rintro ⟨-, -, -, -, -, hdrain, -⟩
  obtain ⟨-, -, hstart⟩ := hdrain 0 [] true heavyDraining
  obtain ⟨u, hu, hstarted, -⟩ := hstart rfl rfl rfl slotValid_heavyPart
  obtain ⟨-, hempty⟩ := started_without_store hstarted loadedStore_heavyPart
  exact vals_drainEnd_heavy hu hempty

/-- Refutes O53: an activation out of recovery goes on with the start sequence, which loads the polder area after the
object store; the committed record's weight then stands beside the values of the store's copy. -/
theorem not_firmwareActivation : ¬ Obligations.FirmwareActivation := by
  rintro ⟨-, -, -, -, -, -, -, -, -, hrecovers, -⟩
  obtain ⟨u, hu, -, -, -, -, -, -, hvals, -⟩ := hrecovers 0 true heavyRecovering 1 rfl rfl (by decide) rfl
  exact vals_activation_heavy hu (hvals _ loadedStore_heavyRecovering)

end Sys2Proof
end

section
/-! The end of a function's work: what it takes away and what it leaves (spec 09 R317, 10 Table 10.2). -/

namespace Sys2Proof
open Machine

/-- What the endpoint holds beside its functions, its vectors and the INTx line. -/
theorem Frame.ep {l : List Blk} {s u : State} (h : Frame l s u) (hb : Blk.ep ∉ l) :
    { u.ep with funcs := s.ep.funcs, msix := s.ep.msix, inta := s.ep.inta } = s.ep := h.2 _ hb

end Sys2Proof

namespace Sys2Proof.Machine
open Sys2Proof

/-! ### Masks and vectors of events -/

/-- How software set up the event registers. -/
def eventSetup (s : State) : Tab Word32 × Tab Nat := (s.evt.mask, s.evt.vector)

section Setup
variable (s : State)

theorem Signals.eventSetup {s u : State} (h : Signals s u) : eventSetup u = eventSetup s :=
  Prod.ext h.mask h.vector

theorem eventSetup_countQ (idx sub n : Nat) (port tc polder : Option Nat) :
    eventSetup (countQ idx sub n port tc polder s) = eventSetup s :=
  (signals_countQ idx sub n port tc polder s).elim fun _ h => h.eventSetup

theorem eventSetup_freeCell (die : Nat) (pipe : Option Nat) (owner c : Nat) :
    eventSetup (freeCell die pipe owner c s) = eventSetup s := by
  unfold freeCell
  dsimp only
  split
  · rfl
  · split
    · exact (signals_raiseDie die 8 _).eventSetup.trans (eventSetup_countQ ..)
    · split
      · exact (signals_raiseDie die 9 _).eventSetup.trans (eventSetup_countQ ..)
      · rfl

theorem eventSetup_lowCheck (die : Nat) : eventSetup (lowCheck die s) = eventSetup s := by
  unfold lowCheck
  dsimp only
  split
  · exact (signals_raiseDie die 11 _).eventSetup
  · split
    · rfl
    · rfl

theorem eventSetup_releaseCopy (sid : Nat) (pipe : Option Nat) : eventSetup (releaseCopy sid pipe s) = eventSetup s := by
  unfold releaseCopy
  split
  · rfl
  · split
    · rfl
    · unfold freeCellList
      rw [eventSetup_lowCheck]
      exact forEach_keeps eventSetup (fun _ _ => eventSetup_freeCell ..) _ _

theorem eventSetup_discardHeld (fn q : Nat) : eventSetup (discardHeld fn q s) = eventSetup s := by
  have hdrop : ∀ (h : HFrame) (y : State), eventSetup (dropPlace h y) = eventSetup y := fun h y => by
    unfold dropPlace
    split
    · exact eventSetup_releaseCopy ..
    · rfl
    · rfl
  unfold discardHeld
  refine forEach_keeps eventSetup (fun a y => ?_) _ s
  split
  · rfl
  · exact (eventSetup_countQ ..).trans (hdrop ..)

theorem eventSetup_discardAllHeld (fn : Nat) : eventSetup (discardAllHeld fn s) = eventSetup s :=
  forEach_keeps eventSetup (fun q y => eventSetup_discardHeld y fn q) _ s

theorem eventSetup_cipherDrop (p : CMsg → Bool) : eventSetup (cipherDrop p s) = eventSetup s := by
  have hmod : ∀ (f : Cipher → Cipher) (y : State), eventSetup (modCipher f y) = eventSetup y := fun _ _ => rfl
  unfold cipherDrop
  dsimp only
  rw [hmod]
  refine foldl_keeps eventSetup (fun y e => ?_) _ s
  split
  · split <;> rfl
  · rfl

theorem eventSetup_journalDrop (p : JSrc → Bool) : eventSetup (journalDrop p s) = eventSetup s := by
  have hjrn : ∀ (f : Journal → Journal) (y : State), eventSetup (modJrn f y) = eventSetup y := fun _ _ => rfl
  have hcut : eventSetup (journalCut p s) = eventSetup s := by
    unfold journalCut
    rw [eventSetup_cipherDrop, hjrn]
  have hcart : ∀ (i : Nat) (x : CartSlot) (y : State), eventSetup (y.setCart i x) = eventSetup y := fun _ _ _ => rfl
  have hdetach : ∀ y : State, eventSetup (journalDetach p y) = eventSetup y := fun y => by
    unfold journalDetach
    exact (forEach_keeps eventSetup (fun i z => hcart i _ z) [0, 1] _).trans (hjrn _ y)
  unfold journalDrop
  rw [hdetach, hcut]

theorem eventSetup_channelQuiet (g status : Nat) (named : Option (Nat × Nat)) :
    eventSetup (channelError g status named true s) = eventSetup s := by
  have hcount : ∀ (k f : Nat) (y : State), eventSetup (sipCount k f y) = eventSetup y := fun k f y =>
    eventSetup_countQ y 0x4203 k 1 none none (some f)
  unfold channelError
  dsimp only
  split
  · rfl
  · rw [if_pos rfl, (signals_raise 292 _).eventSetup, hcount, eventSetup_journalDrop]
    rfl

theorem eventSetup_siphonEnd (fn : Nat) : eventSetup (siphonEnd fn s) = eventSetup s := by
  refine foldl_keeps eventSetup (fun y e => ?_) _ s
  split
  · exact eventSetup_channelQuiet ..
  · rfl

theorem eventSetup_siphonRegionsEnd (fn : Nat) : eventSetup (siphonRegionsEnd fn s) = eventSetup s := by
  refine foldl_keeps eventSetup (fun y e => ?_) _ s
  split <;> rfl

end Setup

/-! ### Reads that are squashed -/

/-- From `s` to `u` tags were freed or quarantined. -/
structure TagsMove (s u : State) : Prop where
  rest : { u with ep := s.ep, evt := s.evt, out := s.out } = s
  ep : { u.ep with reads := s.ep.reads, quarantine := s.ep.quarantine, invalidations := s.ep.invalidations,
                   inta := s.ep.inta, msix := s.ep.msix } = s.ep
  setup : eventSetup u = eventSetup s
  waits : s.ep.invalidations = [] → u.ep.invalidations = []
  reads : ∀ r ∈ u.ep.reads, r ∈ s.ep.reads

theorem TagsMove.refl (s : State) : TagsMove s s := ⟨rfl, rfl, rfl, id, fun _ h => h⟩

theorem TagsMove.trans {s u v : State} (a : TagsMove s u) (b : TagsMove u v) : TagsMove s v := by
  obtain ⟨a1, a2, a3, a4, a5⟩ := a
  obtain ⟨b1, b2, b3, b4, b5⟩ := b
  refine ⟨?_, ?_, b3.trans a3, b4 ∘ a4, fun r h => a5 r (b5 r h)⟩
  · exact (congrArg (fun x : State => { x with ep := s.ep, evt := s.evt, out := s.out }) b1).trans a1
  · exact (congrArg (fun x : Endpoint => { x with
      reads := s.ep.reads, quarantine := s.ep.quarantine, invalidations := s.ep.invalidations, inta := s.ep.inta
      msix := s.ep.msix }) b2).trans a2

theorem Signals.tagsMove {s u : State} (h : Signals s u) : TagsMove s u := by
  refine ⟨h.1, ?_, h.eventSetup, fun hi => h.ep_invalidations.trans hi, fun r hr => by rwa [h.ep_reads] at hr⟩
  exact congrArg (fun x : Endpoint => { x with
    reads := s.ep.reads, quarantine := s.ep.quarantine, invalidations := s.ep.invalidations }) h.2

theorem tagsMove_forEach {α : Type} (l : List α) {f : α → State → State} (h : ∀ a s, TagsMove s (f a s)) (s : State) :
    TagsMove s (forEach l f s) := by
  induction l generalizing s with
  | nil => exact .refl s
  | cons a l ih => exact (h a s).trans (ih _)

section Fields
variable {s u : State} (h : TagsMove s u)
include h

theorem TagsMove.funcs : u.ep.funcs = s.ep.funcs := (congrArg Endpoint.funcs h.ep :)
theorem TagsMove.link : u.ep.link = s.ep.link := (congrArg Endpoint.link h.ep :)
theorem TagsMove.wasUp : u.ep.wasUp = s.ep.wasUp := (congrArg Endpoint.wasUp h.ep :)
theorem TagsMove.vfEnable : u.ep.vfEnable = s.ep.vfEnable := (congrArg Endpoint.vfEnable h.ep :)
theorem TagsMove.numVfs : u.ep.numVfs = s.ep.numVfs := (congrArg Endpoint.numVfs h.ep :)
theorem TagsMove.cached : u.ep.cached = s.ep.cached := (congrArg Endpoint.cached h.ep :)
theorem TagsMove.asked : u.ep.asked = s.ep.asked := (congrArg Endpoint.asked h.ep :)
theorem TagsMove.pageReqs : u.ep.pageReqs = s.ep.pageReqs := (congrArg Endpoint.pageReqs h.ep :)
theorem TagsMove.wq : u.wq = s.wq := (congrArg State.wq h.rest :)
theorem TagsMove.mbx : u.mbx = s.mbx := (congrArg State.mbx h.rest :)
theorem TagsMove.boot : u.boot = s.boot := (congrArg State.boot h.rest :)
theorem TagsMove.polders : u.polders = s.polders := (congrArg State.polders h.rest :)

end Fields

theorem tagsMove_quarantineTag (t fn tag : Nat) (s : State) : TagsMove s (quarantineTag t fn tag s) :=
  have hmod : TagsMove s (modEp (fun e => { e with
      quarantine := e.quarantine ++ [(tag, fn, t + 2 * timeoutFs s fn)] }) s) := ⟨rfl, rfl, rfl, id, fun _ h => h⟩
  hmod.trans (signals_countEv ..).tagsMove

theorem tagsMove_endRead (tag : Nat) (s : State) : TagsMove s (endRead tag s) :=
  ⟨rfl, rfl, rfl, fun h => by simp [endRead, tagDone, modEp, h], fun _ h => (List.mem_filter.mp h).1⟩

theorem tagsMove_squashReads (t fn : Nat) (s : State) : TagsMove s (squashReads t fn s) := by
  refine TagsMove.trans (tagsMove_forEach _ (fun r y => ?_) s)
    ⟨rfl, rfl, rfl, id, fun _ h => (List.mem_filter.mp h).1⟩
  split
  · exact (tagsMove_endRead ..).trans (tagsMove_quarantineTag ..)
  · exact .refl y

theorem reads_squashReads (t fn : Nat) (s : State) : ∀ r ∈ (squashReads t fn s).ep.reads, r.who.fn ≠ fn := by
  intro r hr
  exact of_decide_eq_true (List.mem_filter.mp hr).2

/-! ### Work that ends -/

/-- The work of a function ends but for its reads, queues and requests. -/
def endEngines (fn : Nat) (s : State) : State :=
  journalEnd fn (siphonRegionsEnd fn (siphonEnd fn
    (cipherDrop (fun m => decide (m.user = .polder fn)) (discardAllHeld fn (detachTx fn (fun _ => true) s)))))

section Engines
variable (fn : Nat) (s : State)

theorem eventSetup_endEngines : eventSetup (endEngines fn s) = eventSetup s := by
  unfold endEngines journalEnd
  rw [eventSetup_journalDrop, eventSetup_siphonRegionsEnd, eventSetup_siphonEnd, eventSetup_cipherDrop,
    eventSetup_discardAllHeld]
  rfl

theorem frame_endEngines : Frame [.counters, .buf, .sched, .wq, .cipher, .siphon, .jrn] s (endEngines fn s) :=
  Frame.journalEnd (.of_all (by decide)) (Frame.siphonRegionsEnd (.of_all (by decide)) (Frame.siphonEnd (.of_all (by decide))
    (Frame.cipherDrop (.of_all (by decide)) (Frame.discardAllHeld (.of_all (by decide))
      (Frame.detachTx (.of_all (by decide)) (.refl _ s) _ _) _) _) _) _) _

theorem wq_channelQuiet (g status : Nat) (named : Option (Nat × Nat)) :
    (channelError g status named true s).wq = s.wq := by
  have hdrop : ∀ (p : JSrc → Bool) (y : State), (journalDrop p y).wq = y.wq := fun p y =>
    (Frame.journalDrop (l := [.cipher, .jrn]) (.of_all (by decide)) (.refl _ y) p).wq (by decide)
  have hcount : ∀ (k f : Nat) (y : State), (sipCount k f y).wq = y.wq := fun k f y =>
    (signals_countQ 0x4203 k 1 none none (some f) y).elim fun _ h => h.wq
  unfold channelError
  dsimp only
  split
  · rfl
  · rw [if_pos rfl, raise_wq, hcount, hdrop]
    rfl

theorem wq_siphonEnd : (siphonEnd fn s).wq = s.wq := by
  refine foldl_keeps State.wq (fun y e => ?_) _ s
  split
  · exact wq_channelQuiet ..
  · rfl

theorem wq_endEngines : (endEngines fn s).wq = s.wq := by
  have hjrn : ∀ y : State, (journalEnd fn y).wq = y.wq := fun y =>
    (Frame.journalEnd (l := [.cipher, .jrn]) (.of_all (by decide)) (.refl _ y) fn).wq (by decide)
  have hreg : ∀ y : State, (siphonRegionsEnd fn y).wq = y.wq := fun y =>
    (Frame.siphonRegionsEnd (l := [.siphon]) (.of_all (by decide)) (.refl _ y) fn).wq (by decide)
  have hrest : Frame [.counters, .buf, .sched, .cipher] s
      (cipherDrop (fun m => decide (m.user = .polder fn)) (discardAllHeld fn (detachTx fn (fun _ => true) s))) :=
    Frame.cipherDrop (.of_all (by decide)) (Frame.discardAllHeld (.of_all (by decide))
      (Frame.detachTx (.of_all (by decide)) (.refl _ s) _ _) _) _
  unfold endEngines
  rw [hjrn, hreg, wq_siphonEnd, hrest.wq (by decide)]

end Engines

/-- What an endpoint holds no more once a function's work ended. -/
def endpointEnded (fn : Nat) (e : Endpoint) : Endpoint :=
  { e with
    cached := e.cached.filter (fun x => decide (x.fn ≠ fn))
    asked := e.asked.filter (fun x => decide (x.1.fn ≠ fn))
    pageReqs := e.pageReqs.filter (fun x => decide (x.fn ≠ fn))
    msix := e.msix.filter (fun x => decide (x.1 / 2048 ≠ fn)) }

/-- The queues of a function are reset, its page is cleared, and its requests are gone. -/
def queuesEnded (fn : Nat) (y : State) : State :=
  let z := { y with wq := { y.wq with queues := y.wq.queues.filter (fun e => decide (e.1 / 1024 ≠ fn)) } }
  modEp (endpointEnded fn) (z.setPage fn { z.page fn with values := [], ovf := 0 })

section Work
variable (t fn : Nat) (s : State)

theorem endWork_eq : ∃ y, y = endEngines fn (squashReads t fn s) ∧ endWork t fn s = queuesEnded fn y := by
  refine ⟨_, rfl, ?_⟩
  unfold endWork endEngines
  dsimp only
  generalize journalEnd fn _ = y
  rfl

theorem eventSetup_endWork : eventSetup (endWork t fn s) = eventSetup s := by
  have hend : ∀ y : State, eventSetup (queuesEnded fn y) = eventSetup y := fun _ => rfl
  obtain ⟨y, hy, h⟩ := endWork_eq t fn s
  rw [h, hend, hy, eventSetup_endEngines, (tagsMove_squashReads t fn s).setup]

theorem wq_endWork : (endWork t fn s).wq.queues = s.wq.queues.filter (fun e => decide (e.1 / 1024 ≠ fn)) := by
  obtain ⟨y, hy, h⟩ := endWork_eq t fn s
  rw [h]
  rw [show (queuesEnded fn y).wq.queues = y.wq.queues.filter (fun e => decide (e.1 / 1024 ≠ fn)) from rfl, hy, wq_endEngines, (tagsMove_squashReads t fn s).wq]

/-- The endpoint after a function's work ended, but for its vectors and the INTx line. -/
theorem ep_endWork : { (endWork t fn s).ep with funcs := [], msix := [], inta := false }
    = { endpointEnded fn (squashReads t fn s).ep with funcs := [], msix := [], inta := false } := by
  obtain ⟨y, hy, h⟩ := endWork_eq t fn s
  have hep := hy ▸ (frame_endEngines fn (squashReads t fn s)).ep (by decide)
  rw [h]
  rw [show (queuesEnded fn y).ep = endpointEnded fn y.ep from rfl]
  exact congrArg (fun e : Endpoint => { endpointEnded fn e with funcs := [], msix := [], inta := false }) hep

theorem frame_endWork : Frame [.counters, .buf, .sched, .ep, .wq, .cipher, .siphon, .jrn] s (endWork t fn s) :=
  Frame.endWork (.of_all (by decide)) (.refl _ s) t fn

/-- Every queue of the function is in its reset state. -/
theorem queue_endWork_same {q : Nat} (hq : q < 1024) : (endWork t fn s).queue fn q = Queue.reset := by
  unfold State.queue
  rw [wq_endWork]
  have hkey : qKey fn q / 1024 = fn := by
    unfold qKey
    omega
  exact Tab.get_filter_none _ _ _ fun _ => by simp [hkey]

theorem queue_endWork_other {g q : Nat} (hq : q < 1024) (h : g ≠ fn) : (endWork t fn s).queue g q = s.queue g q := by
  unfold State.queue
  rw [wq_endWork]
  have hkey : qKey g q / 1024 = g := by
    unfold qKey
    omega
  exact Tab.get_filter _ _ _ fun _ => by simp [hkey, h]

/-- Queues that are in their reset state stay so while work of functions ends. -/
theorem queue_endWork_reset {g q : Nat} (hq : q < 1024) (h : s.queue g q = Queue.reset) :
    (endWork t fn s).queue g q = Queue.reset := by
  by_cases hg : g = fn
  · rw [hg]
    exact queue_endWork_same t fn s hq
  · rw [queue_endWork_other t fn s hq hg, h]

end Work

theorem queue_endWorks (t : Nat) {l : List Nat} {s : State} {g q : Nat} (hq : q < 1024)
    (h : g ∈ l ∨ s.queue g q = Queue.reset) : (forEach l (endWork t) s).queue g q = Queue.reset := by
  induction l generalizing s with
  | nil => exact h.resolve_left (List.not_mem_nil)
  | cons a l ih =>
    refine ih (s := endWork t a s) ?_
    rcases h with h | h
    · rcases List.mem_cons.mp h with rfl | h
      · exact .inr (queue_endWork_same _ _ _ hq)
      · exact .inl h
    · exact .inr (queue_endWork_reset _ _ _ hq h)

end Sys2Proof.Machine
end

section
/-! Function level resets and resets of the host side (spec 09 R317 to R322, R328, 10 R350). -/

namespace Sys2Proof.Machine
open Sys2Proof

/-! ### What the end of work leaves -/

/-- What the end of a function's work leaves: functions, boot, mailbox, set-up of events and polders. -/
def hostKept (s : State) : Tab Func × Boot × Mailbox × (Tab Word32 × Tab Nat) × Polders :=
  (s.ep.funcs, s.boot, s.mbx, eventSetup s, s.polders)

/-- The link and VF Enable. -/
def linkKept (s : State) : Nat × Bool × Bool × Nat := (s.ep.link, s.ep.wasUp, s.ep.vfEnable, s.ep.numVfs)

theorem hostKept_ext {s u : State} (hf : u.ep.funcs = s.ep.funcs) (hb : u.boot = s.boot) (hm : u.mbx = s.mbx)
    (he : eventSetup u = eventSetup s) (hp : u.polders = s.polders) : hostKept u = hostKept s := by
  unfold hostKept
  rw [hf, hb, hm, he, hp]

section Kept
variable {s u : State} (h : hostKept u = hostKept s)
include h

theorem funcs_of_kept : u.ep.funcs = s.ep.funcs := congrArg Prod.fst h
theorem boot_of_kept : u.boot = s.boot := congrArg (fun x => x.2.1) h
theorem mbx_of_kept : u.mbx = s.mbx := congrArg (fun x => x.2.2.1) h
theorem mask_of_kept : u.evt.mask = s.evt.mask := congrArg (fun x => x.2.2.2.1.1) h
theorem vector_of_kept : u.evt.vector = s.evt.vector := congrArg (fun x => x.2.2.2.1.2) h
theorem polders_of_kept : u.polders = s.polders := congrArg (fun x => x.2.2.2.2) h
theorem func_of_kept (n : Nat) : u.func n = s.func n := congrArg (fun x => Tab.get Func.reset x n) (funcs_of_kept h)

end Kept

theorem Signals.hostKept {s u : State} (h : Signals s u) : hostKept u = hostKept s :=
  hostKept_ext h.ep_funcs h.boot h.mbx h.eventSetup h.polders

/-- What two endpoints share that differ in their functions, vectors and INTx line alone. -/
theorem endpoint_parts {a b : Endpoint} (h : { a with funcs := [], msix := [], inta := false }
    = { b with funcs := [], msix := [], inta := false }) :
    (a.link, a.wasUp, a.vfEnable, a.numVfs) = (b.link, b.wasUp, b.vfEnable, b.numVfs) ∧ a.cached = b.cached
      ∧ a.asked = b.asked ∧ a.pageReqs = b.pageReqs ∧ a.reads = b.reads ∧ a.invalidations = b.invalidations :=
  ⟨(congrArg (fun e : Endpoint => (e.link, e.wasUp, e.vfEnable, e.numVfs)) h :), (congrArg Endpoint.cached h :),
    (congrArg Endpoint.asked h :), (congrArg Endpoint.pageReqs h :), (congrArg Endpoint.reads h :),
    (congrArg Endpoint.invalidations h :)⟩

section Work
variable (t fn : Nat) (s : State)

theorem hostKept_count (idx sub : Nat) : hostKept (count idx sub s) = hostKept s := by
  obtain ⟨c, h⟩ := signals_countQ idx sub 1 none none none s
  exact h.hostKept

theorem hostKept_squashReads : hostKept (squashReads t fn s) = hostKept s := by
  have h := tagsMove_squashReads t fn s
  exact hostKept_ext h.funcs h.boot h.mbx h.setup h.polders

theorem linkKept_squashReads : linkKept (squashReads t fn s) = linkKept s := by
  have h := tagsMove_squashReads t fn s
  unfold linkKept
  rw [h.link, h.wasUp, h.vfEnable, h.numVfs]

theorem hostKept_endWork : hostKept (endWork t fn s) = hostKept s := by
  have h := frame_endWork t fn s
  exact hostKept_ext (h.funcs (by decide)) (h.boot (by decide)) (h.mbx (by decide)) (eventSetup_endWork ..)
    (h.polders (by decide))

theorem linkKept_endWork : linkKept (endWork t fn s) = linkKept s := by
  obtain ⟨hlink, -⟩ := endpoint_parts (ep_endWork t fn s)
  exact hlink.trans (linkKept_squashReads t fn s)

theorem cached_endWork : (endWork t fn s).ep.cached = s.ep.cached.filter (fun x => decide (x.fn ≠ fn)) := by
  rw [← (tagsMove_squashReads t fn s).cached]
  obtain ⟨-, hcached, -⟩ := endpoint_parts (ep_endWork t fn s)
  exact hcached

theorem asked_endWork : (endWork t fn s).ep.asked = s.ep.asked.filter (fun x => decide (x.1.fn ≠ fn)) := by
  rw [← (tagsMove_squashReads t fn s).asked]
  obtain ⟨-, -, hasked, -⟩ := endpoint_parts (ep_endWork t fn s)
  exact hasked

theorem pageReqs_endWork : (endWork t fn s).ep.pageReqs = s.ep.pageReqs.filter (fun x => decide (x.fn ≠ fn)) := by
  rw [← (tagsMove_squashReads t fn s).pageReqs]
  obtain ⟨-, -, -, hreqs, -⟩ := endpoint_parts (ep_endWork t fn s)
  exact hreqs

theorem reads_endWork : (endWork t fn s).ep.reads = (squashReads t fn s).ep.reads := by
  obtain ⟨-, -, -, -, hreads, -⟩ := endpoint_parts (ep_endWork t fn s)
  exact hreads

theorem invalidations_endWork (h : s.ep.invalidations = []) : (endWork t fn s).ep.invalidations = [] := by
  obtain ⟨-, -, -, -, -, hinv⟩ := endpoint_parts (ep_endWork t fn s)
  exact hinv.trans ((tagsMove_squashReads t fn s).waits h)

end Work

/-- Nothing is cached, asked for or waited for at the endpoint. -/
structure NothingAsked (s : State) : Prop where
  cached : s.ep.cached = []
  asked : s.ep.asked = []
  pageReqs : s.ep.pageReqs = []
  invalidations : s.ep.invalidations = []

theorem nothingAsked_endWork {s : State} (t fn : Nat) (h : NothingAsked s) : NothingAsked (endWork t fn s) := by
  refine ⟨?_, ?_, ?_, invalidations_endWork t fn s h.invalidations⟩
  · rw [cached_endWork, h.cached, List.filter_nil]
  · rw [asked_endWork, h.asked, List.filter_nil]
  · rw [pageReqs_endWork, h.pageReqs, List.filter_nil]

theorem nothingAsked_endWorks (t : Nat) (l : List Nat) {s : State} (h : NothingAsked s) :
    NothingAsked (forEach l (endWork t) s) := by
  induction l generalizing s with
  | nil => exact h
  | cons a l ih => exact ih (s := endWork t a s) (nothingAsked_endWork t a h)

theorem hostKept_endWorks (t : Nat) (l : List Nat) (s : State) : hostKept (forEach l (endWork t) s) = hostKept s :=
  forEach_keeps hostKept (fun _ _ => hostKept_endWork ..) l s

theorem linkKept_endWorks (t : Nat) (l : List Nat) (s : State) : linkKept (forEach l (endWork t) s) = linkKept s :=
  forEach_keeps linkKept (fun _ _ => linkKept_endWork ..) l s

theorem hostKept_squashes (t : Nat) (l : List Nat) (s : State) : hostKept (forEach l (squashReads t) s) = hostKept s :=
  forEach_keeps hostKept (fun _ _ => hostKept_squashReads ..) l s

theorem linkKept_squashes (t : Nat) (l : List Nat) (s : State) : linkKept (forEach l (squashReads t) s) = linkKept s :=
  forEach_keeps linkKept (fun _ _ => linkKept_squashReads ..) l s

/-! ### Function level resets -/

@[simp] theorem fnServed_advance (t : Nat) (s : State) (fn : Nat) : fnServed (advance t s) fn = fnServed s fn := by
  simp only [fnServed, advance_ep_link, fnExists_advance, func_advance]

/-- A function as an FLR leaves it. -/
def flrFunc (t : Nat) (f : Func) : Func := { Func.reset with rrs := false, flr := true, flrAt := t, resetSeen := f.resetSeen }

section Flr
variable {t fn : Nat} {s : State}

theorem flrInitiate_vf (h : fnServed s fn = true) (hfn : fn ≠ 0) : flrInitiate t fn s =
    endWork t fn ((squashReads t fn (count 0x4002 9 s)).setFunc fn (flrFunc t (s.func fn))) := by
  unfold flrInitiate
  rw [if_neg (by simp [h])]
  dsimp only
  rw [if_neg hfn, if_neg hfn]
  rfl

/-- The registers of PF0 after its FLR. -/
def pf0Flr (t : Nat) (s : State) : State :=
  endWork t 0 ((intxEval (pf0RegsReset (squashReads t 0 (count 0x4002 9 s)))).setFunc 0 (flrFunc t (s.func 0)))

/-- The values of PF0's capabilities that its FLR resets. -/
def capsReset (e : Endpoint) : Endpoint :=
  { e with numVfs := 0, vfBars := [0, 0, 0], pageSize := 1, tag10 := false, tag14 := false }

theorem flrInitiate_pf (h : fnServed s 0 = true) : flrInitiate t 0 s = modEp capsReset (endVfs t (pf0Flr t s)) := by
  unfold flrInitiate
  rw [if_neg (by simp [h])]
  dsimp only
  rw [if_pos rfl, if_pos rfl]
  rfl

theorem hostKept_setFunc (s : State) (n : Nat) (f : Func) :
    hostKept (s.setFunc n f) = (Tab.set Func.reset (hostKept s).1 n f, (hostKept s).2) := rfl

theorem hostKept_flr (hfn : fn ≠ 0) (h : fnServed s fn = true) :
    hostKept (flrInitiate t fn s) = hostKept (s.setFunc fn (flrFunc t (s.func fn))) := by
  have hcut := (hostKept_squashReads t fn (count 0x4002 9 s)).trans (hostKept_count s 0x4002 9)
  rw [flrInitiate_vf h hfn, hostKept_endWork, hostKept_setFunc, hostKept_setFunc, hcut]

theorem pf0RegsReset_kept (s : State) : hostKept (pf0RegsReset s) = (s.ep.funcs, { s.boot with dmaWindows := zeros 256 },
    { Mailbox.reset with restart := s.mbx.restart, orphans := s.mbx.orphans ++ s.mbx.accepted.toList }, ([], []), s.polders) := rfl

theorem pf0RegsReset_ep (s : State) : (pf0RegsReset s).ep = s.ep := rfl

theorem pf0Flr_kept (t : Nat) (s : State) : hostKept (pf0Flr t s) =
    (Tab.set Func.reset s.ep.funcs 0 (flrFunc t (s.func 0)), { s.boot with dmaWindows := zeros 256 },
      { Mailbox.reset with restart := s.mbx.restart, orphans := s.mbx.orphans ++ s.mbx.accepted.toList }, ([], []),
      s.polders) := by
  have hcut := (hostKept_squashReads t 0 (count 0x4002 9 s)).trans (hostKept_count s 0x4002 9)
  have hregs := (signals_intxEval (pf0RegsReset (squashReads t 0 (count 0x4002 9 s)))).hostKept
  rw [pf0RegsReset_kept, funcs_of_kept hcut, boot_of_kept hcut, mbx_of_kept hcut, polders_of_kept hcut] at hregs
  unfold pf0Flr
  rw [hostKept_endWork, hostKept_setFunc, hregs]

theorem endVfs_kept (t : Nat) (s : State) :
    hostKept (endVfs t s) = ((hostKept s).1.filter (fun x => decide (x.1 = 0)), (hostKept s).2) := by
  have hwork := (hostKept_endWorks t ((workFns s).filter (fun n => decide (n ≠ 0)))
    (forEach ((workFns s).filter (fun n => decide (n ≠ 0))) (squashReads t) s)).trans (hostKept_squashes ..)
  have hmod : ∀ y : State, hostKept (modEp (fun e => { e with
      vfEnable := false
      funcs := e.funcs.filter (fun x => decide (x.1 = 0))
      msix := e.msix.filter (fun x => decide (x.1 / 2048 = 0)) }) y)
      = ((hostKept y).1.filter (fun x => decide (x.1 = 0)), (hostKept y).2) := fun _ => rfl
  unfold endVfs
  rw [hmod, hwork]

theorem endVfs_vfEnable (t : Nat) (s : State) : (endVfs t s).ep.vfEnable = false := by
  have hmod : ∀ (y : State) (f : Tab Func) (m : Tab MsixEntry),
      (modEp (fun e => { e with vfEnable := false, funcs := f, msix := m }) y).ep.vfEnable = false := fun _ _ _ => rfl
  exact hmod _ _ _

theorem hostKept_capsReset (s : State) : hostKept (modEp capsReset s) = hostKept s := rfl

theorem runs_flr_vf (hc : Canonical s) (h : fnServed s fn = true) (hfn : fn ≠ 0) :
    Runs (.flrInitiate t fn) s (fun u =>
      u.func fn = { Func.reset with rrs := false, flr := true, flrAt := t, resetSeen := (s.func fn).resetSeen }
      ∧ (∀ g, g ≠ fn → u.func g = s.func g)
      ∧ (∀ q < 1024, u.queue fn q = Queue.reset) ∧ (∀ r ∈ u.ep.reads, r.who.fn ≠ fn)
      ∧ (∀ x ∈ u.ep.pageReqs, x.fn ≠ fn) ∧ (∀ x ∈ u.ep.cached, x.fn ≠ fn) ∧ (∀ x ∈ u.ep.asked, x.1.fn ≠ fn)
      ∧ u.polders = s.polders ∧ u.mbx = s.mbx) := by
  have hserved : fnServed (advance t s) fn = true := by rwa [fnServed_advance]
  have hk := hostKept_flr (t := t) hfn hserved
  have hvf := flrInitiate_vf (t := t) hserved hfn
  refine ⟨flrInitiate t fn (advance t s), rfl, ?_, fun g hg => ?_, fun q hq => ?_, ?_, ?_, ?_, ?_, ?_, ?_⟩
  · rw [func_of_kept hk, func_setFunc_same (canonical_advance t hc).funcs, func_advance]
    rfl
  · rw [func_of_kept hk, func_setFunc_other _ _ _ _ (Ne.symm hg), func_advance]
  · rw [hvf]
    exact queue_endWork_same _ _ _ hq
  · rw [hvf, reads_endWork]
    exact reads_squashReads t fn _
  · rw [hvf, pageReqs_endWork]
    exact fun x hx => of_decide_eq_true (List.mem_filter.mp hx).2
  · rw [hvf, cached_endWork]
    exact fun x hx => of_decide_eq_true (List.mem_filter.mp hx).2
  · rw [hvf, asked_endWork]
    exact fun x hx => of_decide_eq_true (List.mem_filter.mp hx).2
  · exact (polders_of_kept hk).trans (advance_polders ..)
  · exact (mbx_of_kept hk).trans (advance_mbx ..)

theorem runs_flr_pf (hc : Canonical s) (h : fnServed s 0 = true) :
    Runs (.flrInitiate t 0) s (fun u =>
      u.func 0 = { Func.reset with rrs := false, flr := true, flrAt := t, resetSeen := (s.func 0).resetSeen }
      ∧ (∀ g, g ≠ 0 → u.func g = Func.reset) ∧ u.ep.vfEnable = false ∧ u.ep.numVfs = 0 ∧ u.ep.vfBars = [0, 0, 0]
      ∧ u.ep.pageSize = 1 ∧ u.ep.tag10 = false ∧ u.ep.tag14 = false ∧ u.boot.dmaWindows = zeros 256
      ∧ u.mbx = { Mailbox.reset with restart := s.mbx.restart, orphans := s.mbx.orphans ++ s.mbx.accepted.toList }
      ∧ u.evt.mask = [] ∧ u.evt.vector = [] ∧ u.polders = s.polders) := by
  have hserved : fnServed (advance t s) 0 = true := by rwa [fnServed_advance]
  have hk := (congrArg hostKept (flrInitiate_pf (t := t) hserved)).trans ((hostKept_capsReset _).trans (endVfs_kept ..))
  rw [pf0Flr_kept] at hk
  simp only [hostKept, eventSetup, Prod.mk.injEq, advance_ep_funcs, func_advance, advance_boot, advance_mbx,
    advance_polders] at hk
  obtain ⟨hfuncs, hboot, hmbx, ⟨hmask, hvector⟩, hpolders⟩ := hk
  have hvf := endVfs_vfEnable t (pf0Flr t (advance t s))
  refine ⟨flrInitiate t 0 (advance t s), rfl, ?_, fun g hg => ?_, ?_⟩
  · rw [State.func, hfuncs, Tab.get_filter _ _ _ (fun _ => by simp), Tab.get_set_same _ _ hc.funcs]
    rfl
  · rw [State.func, hfuncs, Tab.get_filter_none _ _ _ (fun _ => by simp [hg])]
  · rw [hboot, hmbx, hmask, hvector, hpolders, flrInitiate_pf hserved]
    generalize endVfs t (pf0Flr t (advance t s)) = z at hvf
    exact ⟨hvf, rfl, rfl, rfl, rfl, rfl, rfl, rfl, rfl, rfl, rfl⟩

/-! ### The drain of an FLR -/

theorem statGrows_polderFault (n status kind q : Nat) (s : State) : StatGrows s (polderFault n status kind q s) := by
  have hcount : StatGrows s (countPolder n 0x24 s) := statGrows_countQ ..
  have hmark : ∀ (y : State) (p : Polder) (f : Polders → Polders), StatGrows y (modPolders f (y.setPolder n p)) :=
    fun _ _ _ => .of_eq rfl rfl
  unfold polderFault
  dsimp only
  split
  · exact hcount.trans (hmark ..)
  · exact (hcount.trans (hmark ..)).trans (statGrows_raise ..)

theorem polder_polderFault_other {n m : Nat} (status kind q : Nat) (s : State) (h : m ≠ n) :
    (polderFault n status kind q s).polder m = s.polder m := by
  have hcount : (countPolder n 0x24 s).polder m = s.polder m := by
    obtain ⟨c, hs⟩ := signals_countQ (0x3000 + n) 0x24 1 none none (some n) s
    exact congrArg (fun x : Polders => Tab.get Polder.reset x.tab m) hs.polders
  have hmark : ∀ (y : State) (p : Polder), (modPolders (fun x => { x with
      faultMap := Tab.set false x.faultMap n true }) (y.setPolder n p)).polder m = y.polder m :=
    fun y p => polder_setPolder_other (s := y) p h
  unfold polderFault
  dsimp only
  split
  · rw [hmark, hcount]
  · rw [show ∀ y : State, (raise 261 y).polder m = y.polder m from fun y =>
      congrArg (fun x : Polders => Tab.get Polder.reset x.tab m) (raise_polders ..), hmark, hcount]

theorem runs_flrDrainCap (hc : Canonical s) (h1 : (s.func fn).flr = true) (h2 : (s.func fn).flrCapped = false)
    (h3 : (s.func fn).flrAt + 90 * 10 ^ 12 ≤ t) :
    Runs (.flrDrainCap t fn) s (fun u => u.func fn = { s.func fn with flrCapped := true }
      ∧ counter u 0x4002 0xC = satAdd64 (counter s 0x4002 0xC) 1 ∧ (evtStat u 8).testBit 4 = true
      ∧ Tab.get false u.polders.faultMap fn = true ∧ (∀ m, m ≠ fn → u.polder m = s.polder m) ∧ u.wq = s.wq) := by
  have hrun : ∃ k y, flrDrainCap t fn (advance t s) = polderFault fn k 2 0xFFFF (raise 260 (count 0x4002 0xC y))
      ∧ y.func fn = { s.func fn with flrCapped := true } ∧ y.dict = s.dict ∧ y.polders = s.polders ∧ y.wq = s.wq := by
    unfold flrDrainCap
    simp only [func_advance, h1, h2, Bool.not_false, Bool.true_and, decide_eq_true h3, if_true]
    refine ⟨_, _, rfl, ?_, ?_, ?_, ?_⟩
    · exact func_setFunc_same (canonical_advance t hc).funcs _ _
    · exact advance_dict ..
    · exact advance_polders ..
    · exact advance_wq ..
  obtain ⟨k, y, hrun, hfunc, hdict, hpolders, hwq⟩ := hrun
  have hframe : Frame [.counters, .polders] y (flrDrainCap t fn (advance t s)) := by
    rw [hrun]
    exact Frame.polderFault (.of_all (by decide)) (Frame.raise (.of_all (by decide))
      (Frame.count (.of_all (by decide)) (.refl _ y) _ _) _) _ _ _ _
  refine ⟨_, rfl, ?_, ?_, ?_, ?_, fun m hm => ?_, (hframe.wq (by decide)).trans hwq⟩
  · rw [← hfunc]
    exact congrArg (fun x => Tab.get Func.reset x fn) (hframe.funcs (by decide))
  · rw [hrun, counter_polderFault (by decide) (by decide), (signals_raise 260 _).counter, counter_count_of_dict hdict]
  · rw [hrun]
    exact (statGrows_polderFault ..).bits 8 4 (raise_sets (n := 260) (by decide) _)
  · rw [hrun]
    exact faultMap_polderFault ..
  · rw [hrun, polder_polderFault_other _ _ _ _ hm]
    obtain ⟨c, hs⟩ := signals_countQ 0x4002 0xC 1 none none none y
    have hcount : (count 0x4002 0xC y).polders = s.polders := hs.polders.trans hpolders
    exact congrArg (fun x : Polders => Tab.get Polder.reset x.tab m) ((raise_polders ..).trans hcount)

theorem flrDrainCap_early (h : (s.func fn).flr = true → t < (s.func fn).flrAt + 90 * 10 ^ 12) :
    Runs (.flrDrainCap t fn) s (fun u => u = advance t s) := by
  refine ⟨_, rfl, if_neg ?_⟩
  simp only [func_advance, Bool.and_eq_true, decide_eq_true_eq]
  rintro ⟨⟨hflr, -⟩, hle⟩
  exact absurd hle (Nat.not_le.mpr (h hflr))

end Flr

/-! ### Resets of the host side -/

/-- What the reset values of configuration space put in place. -/
def spaceReset (e : Endpoint) : Endpoint :=
  { e with
    inta := false, vfEnable := false, numVfs := 0, vfBars := [0, 0, 0], pageSize := 1, tag10 := false, tag14 := false
    funcs := [], msix := [], cached := [], asked := [], invalidations := [], lastInval := none, pageReqs := [] }

/-- The host side with its reads squashed and its registers reset, before its functions' work ends. -/
def hostCut (t : Nat) (s : State) : State := modEp spaceReset (pf0RegsReset (forEach (workFns s) (squashReads t) s))

section HostSide
variable (t : Nat) (s : State)

theorem hostSideEnd_eq : hostSideEnd t s = modSched (fun b => { b with htx := [] }) (forEach (workFns s) (endWork t) (hostCut t s)) :=
  rfl

theorem hostKept_hostCut : hostKept (hostCut t s) = ([], { s.boot with dmaWindows := zeros 256 },
    { Mailbox.reset with restart := s.mbx.restart, orphans := s.mbx.orphans ++ s.mbx.accepted.toList }, ([], []), s.polders) := by
  have hcut := hostKept_squashes t (workFns s) s
  have hspace : ∀ y : State, hostKept (modEp spaceReset y) = ([], (hostKept y).2) := fun _ => rfl
  unfold hostCut
  rw [hspace, pf0RegsReset_kept, boot_of_kept hcut, mbx_of_kept hcut, polders_of_kept hcut]

theorem linkKept_hostCut : linkKept (hostCut t s) = (s.ep.link, s.ep.wasUp, false, 0) := by
  have hcut := linkKept_squashes t (workFns s) s
  have hspace : ∀ y : State, linkKept (modEp spaceReset y) = ((linkKept y).1, (linkKept y).2.1, false, 0) :=
    fun _ => rfl
  have hregs : ∀ y : State, linkKept (pf0RegsReset y) = linkKept y := fun _ => rfl
  unfold hostCut
  rw [hspace, hregs, hcut]
  rfl

theorem nothingAsked_hostCut : NothingAsked (hostCut t s) := ⟨rfl, rfl, rfl, rfl⟩

/-- What every reset of the host side leaves. -/
structure HostSideReset (s u : State) : Prop where
  idle : NothingAsked u
  funcs : u.ep.funcs = []
  link : u.ep.link = s.ep.link
  wasUp : u.ep.wasUp = s.ep.wasUp
  vfEnable : u.ep.vfEnable = false
  numVfs : u.ep.numVfs = 0
  htx : u.sched.htx = []
  mask : u.evt.mask = []
  vector : u.evt.vector = []
  polders : u.polders = s.polders
  queues : ∀ e ∈ s.polders.tab, ∀ q < 1024, u.queue e.1 q = Queue.reset

theorem hostSideReset : HostSideReset s (hostSideEnd t s) := by
  have hk := (hostKept_endWorks t (workFns s) (hostCut t s)).trans (hostKept_hostCut t s)
  have hl := (linkKept_endWorks t (workFns s) (hostCut t s)).trans (linkKept_hostCut t s)
  have hn := nothingAsked_endWorks t (workFns s) (nothingAsked_hostCut t s)
  have hq : ∀ e ∈ s.polders.tab, ∀ q < 1024, (forEach (workFns s) (endWork t) (hostCut t s)).queue e.1 q = Queue.reset :=
    fun e he q hq => queue_endWorks t hq (.inl (List.mem_map_of_mem he))
  rw [hostSideEnd_eq]
  generalize forEach (workFns s) (endWork t) (hostCut t s) = z at hk hl hn hq
  simp only [hostKept, eventSetup, linkKept, Prod.mk.injEq] at hk hl
  obtain ⟨hfuncs, -, -, ⟨hmask, hvector⟩, hpolders⟩ := hk
  obtain ⟨hlink, hwas, hvf, hnum⟩ := hl
  obtain ⟨h1, h2, h3, h4⟩ := hn
  exact ⟨⟨h1, h2, h3, h4⟩, hfuncs, hlink, hwas, hvf, hnum, rfl, hmask, hvector, hpolders, hq⟩

end HostSide

section Link
variable {t : Nat} {s : State}

/-- The part as the link leaves UP, counted. -/
def linkCounted (t sub link : Nat) (s : State) : State :=
  count 0x4002 sub (modEp (fun e => { e with link := link, inta := false }) (advance t s))

theorem linkCounted_kept (t sub link : Nat) (s : State) : (linkCounted t sub link s).polders = s.polders
    ∧ (linkCounted t sub link s).ep.link = link ∧ (linkCounted t sub link s).ep.wasUp = s.ep.wasUp := by
  have h := count_only 0x4002 sub (modEp (fun e => { e with link := link, inta := false }) (advance t s))
  exact ⟨h.polders.trans (advance_polders ..), h.signals.ep_link, h.signals.ep_wasUp.trans (advance_ep_wasUp ..)⟩

theorem runs_hotReset (h : s.ep.link = 2) :
    Runs (.hotReset t) s (fun u => u.ep.link = 1 ∧ u.ep.funcs = [] ∧ u.ep.vfEnable = false ∧ u.ep.numVfs = 0
      ∧ u.ep.cached = [] ∧ u.ep.asked = [] ∧ u.ep.pageReqs = [] ∧ u.ep.invalidations = [] ∧ u.sched.htx = []
      ∧ u.evt.mask = [] ∧ u.evt.vector = []
      ∧ u.polders = s.polders ∧ ∀ e ∈ s.polders.tab, ∀ q < 1024, u.queue e.1 q = Queue.reset) := by
  obtain ⟨hpol, hlink, -⟩ := linkCounted_kept t 0xB 1 s
  have hend := hostSideReset t (linkCounted t 0xB 1 s)
  have hrun : hotReset t (advance t s) = hostSideEnd t (linkCounted t 0xB 1 s) := by
    unfold hotReset linkCounted
    rw [if_neg (by simp [h])]
  obtain ⟨⟨h1, h2, h3, h4⟩, hf, hl, -, hv, hn, hh, hm, hvec, hp, hq⟩ := hend
  exact ⟨_, congrArg Host.Outcome.next hrun, hl.trans hlink, hf, hv, hn, h1, h2, h3, h4, hh, hm, hvec, hp.trans hpol,
    by rwa [hpol] at hq⟩

theorem runs_linkDown (h : s.ep.link = 2 ∨ s.ep.link = 1) :
    Runs (.linkDown t) s (fun u => u.ep.link = 0 ∧ u.ep.funcs = [] ∧ u.ep.vfEnable = false ∧ u.ep.wasUp = false
      ∧ (s.ep.wasUp = true → (evtStat u 8).testBit 0 = true)
      ∧ u.polders = s.polders ∧ ∀ e ∈ s.polders.tab, ∀ q < 1024, u.queue e.1 q = Queue.reset) := by
  obtain ⟨hpol, hlink, hwas⟩ := linkCounted_kept t 0xA 0 s
  have hend := hostSideReset t (linkCounted t 0xA 0 s)
  have hrun : linkDown t (advance t s) = linkLost (hostSideEnd t (linkCounted t 0xA 0 s)) := by
    unfold linkDown linkCounted
    rw [if_neg (by rcases h with h | h <;> simp [h])]
  refine ⟨_, congrArg Host.Outcome.next hrun, ?_⟩
  generalize hostSideEnd t (linkCounted t 0xA 0 s) = z at hend
  obtain ⟨-, hf, hl, hw, hv, -, -, -, -, hp, hq⟩ := hend
  rw [hwas] at hw
  rw [hpol] at hp hq
  unfold linkLost
  split
  · have hs := signals_raise 256 (modEp (fun e => { e with wasUp := false }) z)
    exact ⟨hs.ep_link.trans (hl.trans hlink), hs.ep_funcs.trans hf, hs.ep_vfEnable.trans hv, hs.ep_wasUp,
      fun _ => raise_sets (n := 256) (by decide) _, hs.polders.trans hp,
      fun e he q hq' => (queue_congr hs.wq _ _).trans (hq e he q hq')⟩
  next hup => exact ⟨hl.trans hlink, hf, hv, Bool.eq_false_iff.mpr hup, fun hs => absurd (hw.trans hs) hup, hp, hq⟩

/-- The endpoint of a link that came up. -/
def linkTrained (speed width : Nat) (flit : Bool) (e : Endpoint) : Endpoint :=
  { e with link := 2, speed := speed, width := width, flit := flit, wasUp := true }

theorem runs_linkUp {speed width : Nat} {flit : Bool} (h : s.ep.link = 0 ∨ s.ep.link = 1) (hstart : s.boot.started = true)
    (h1 : 1 ≤ speed) (h6 : speed ≤ 6) (hw : width ∈ [1, 2, 4, 8, 16]) (hf : speed = 6 → flit = true) :
    Runs (.linkUp t speed width flit) s (fun u => u.ep.link = 2 ∧ u.ep.speed = speed ∧ u.ep.width = width
      ∧ u.ep.flit = flit ∧ u.ep.wasUp = true ∧ (s.ep.wasUp = false → (evtStat u 8).testBit 1 = true)
      ∧ SignalsOnly { advance t s with ep := { u.ep with inta := (advance t s).ep.inta, msix := (advance t s).ep.msix } } u) := by
  have hrun : linkUp speed width flit (advance t s) =
      if s.ep.wasUp then intxEval (modEp (linkTrained speed width flit) (advance t s))
      else raise 257 (modEp (linkTrained speed width flit) (advance t s)) := by
    unfold linkUp
    rw [if_neg, advance_ep_wasUp]
    · rfl
    · simp only [advance_ep_link, advance_boot, hstart, h1, h6, List.contains_iff_mem.mpr hw]
      rcases h with h | h <;> simp [h] <;> exact hf
  have hsig : Signals (modEp (linkTrained speed width flit) (advance t s)) (linkUp speed width flit (advance t s)) := by
    rw [hrun]
    split
    · exact signals_intxEval _
    · exact signals_raise ..
  refine ⟨_, rfl, hsig.ep_link, hsig.ep_speed, hsig.ep_width, hsig.ep_flit, hsig.ep_wasUp, fun hwas => ?_, ?_⟩
  · rw [hrun, if_neg (by simp [hwas])]
    exact raise_sets (n := 257) (by decide) _
  · have hep : { (linkUp speed width flit (advance t s)).ep with inta := (advance t s).ep.inta, msix := (advance t s).ep.msix }
        = linkTrained speed width flit (advance t s).ep := hsig.ep
    rw [hep]
    exact signalsOnly_of hsig

end Link

end Sys2Proof.Machine

namespace Sys2Proof
open Machine

/-- Settles O20: the end of a function's work touches no polder record, no mailbox and no register that events are set up
by, and drops every queue, request and read of its function. -/
theorem hostResets : Obligations.HostResets := by
  refine ⟨fun t fn s hc h hfn => runs_flr_vf hc h hfn, fun t s hc h => runs_flr_pf hc h,
    fun t fn s hc h1 h2 h3 => runs_flrDrainCap hc h1 h2 h3, fun t fn s h => ⟨_, rfl, ?_⟩, fun t fn s h => ⟨?_, _, rfl, ?_⟩,
    fun t fn s h hlt => flrDrainCap_early fun _ => hlt, fun t fn s h => ⟨_, rfl, ?_⟩, fun t s h => runs_hotReset h,
    fun t s h => runs_linkDown h, fun t s h => ⟨_, rfl, ?_⟩,
    fun t speed width flit s h hstart h1 h6 hw hf => runs_linkUp h hstart h1 h6 hw hf⟩
  · exact if_pos (by simp [h])
  · exact flrDrainCap_early fun hf => absurd hf (by simp [h])
  · exact if_neg (by simp [h])
  · unfold flrComplete
    rw [func_advance]
    exact if_pos h
  · exact if_pos (by rw [advance_ep_link]; exact h.symm)

end Sys2Proof
end

section
/-! The polder area and shares of polders (spec 10 R339 to R343): what a copy that is written holds, and what a polder
that takes a share becomes. -/

namespace Sys2Proof.Machine
open Sys2Proof

/-! ### Actions that may find the flash failing -/

section Flash
variable {mk : Rq → Instr} {mine : Nat → Nat → Bool} {own : Req → State → List Nat} {go : Handler} {idx sub ty : Nat} {fl : Bool}
  {ok : Bytes → State → Prop} {data : Bytes → State → Bytes} {done : Bytes → State → State → Prop}
  (hx : ∀ r s, exec (mk r) s = .next (serveAction mine own go { r with flash := fl } s)) (hm : mine idx sub = true)
include hx hm

/-- An action with a flash that writes, or one that fails, which takes the state to `y` and is then answered. -/
theorem serves_flash (h : ∀ q x, q.flash = fl → q.msg.index = idx → q.msg.sub = sub → ok q.msg.data x →
      own q x = [] ∧ ∃ y, go q x = (y, .ok 0 0 ty (data q.msg.data x)) ∧ ∀ u, AnswersOnly y u → done q.msg.data x u) :
    ServesAction mk idx sub ok ty data done := by
  intro t f s b ha ho
  obtain ⟨-, -, -, -, -, hidx, hsub, -, -⟩ := id ha
  obtain ⟨hown, y, hgo, hdone⟩ := h (mbxReq (advance t s) fl b) (advance t s) rfl hidx hsub ho
  exact ⟨_, (hx _ s).trans (congrArg _ (serve_ok ha hm hown hgo)), answered_mbxRespond b ty _ y, hdone _ (mbxRespond_only ..)⟩

theorem refuses_flash {bad : Bytes → State → Prop} {code : Nat} (h : ∀ q x, q.flash = fl → q.msg.index = idx →
      q.msg.sub = sub → bad q.msg.data x → firstAbort (own q x) = some code) : RefusesAction mk idx sub bad code := by
  intro t f s b ha hb
  obtain ⟨-, -, -, -, -, hidx, hsub, -, -⟩ := id ha
  exact ⟨_, (hx _ s).trans (congrArg _ (serve_abort ha hm (h (mbxReq (advance t s) fl b) _ rfl hidx hsub hb))),
    aborted_mbxRespond b code _, mbxRespond_only ..⟩

end Flash

/-! ### Copies of the polder area -/

/-- A polder's committed record, without the header of its copy. -/
def recordOf (s : State) (n st : Nat) : PolderRec :=
  { PolderRec.erased with
    state := st, gen := (s.polder n).gen, counts := (s.polder n).counts, weight := cfgN s (0x3000 + n) 0xA
    access := cfgN s (0x3000 + n) 0xB, cls := cfgN s (0x3000 + n) 0xC }

/-- The area with a record in the copy that does not hold the higher counter. -/
def areaWith (b : Boot) (n : Nat) (r : PolderRec) : Tab PolderRec :=
  let k := otherCopy (b.areaCopies n) (·.valid) (·.counter)
  Tab.set PolderRec.erased b.area (2 * n + k.1) (r.seal k.2)

theorem savePolder_eq (n st : Nat) (s : State) :
    savePolder n st true s = modBoot (fun b => { b with area := areaWith b n (recordOf s n st) }) s := rfl

theorem get_areaWith_same {b : Boot} (n : Nat) (r : PolderRec) {k : Nat × Nat}
    (hk : k = otherCopy (b.areaCopies n) (·.valid) (·.counter)) :
    Tab.get PolderRec.erased (areaWith b n r) (2 * n + k.1) = r.seal k.2 := by
  subst hk
  have hmagic : (0x504F4C44 : Nat) ≠ PolderRec.erased.magic := by decide
  refine Tab.get_set_of_ne (d := PolderRec.erased) (v := PolderRec.seal _ r) _ _ fun h => ?_
  exact hmagic (congrArg PolderRec.magic h)

theorem get_areaWith_other {b : Boot} (n : Nat) (r : PolderRec) {k : Nat × Nat} {j : Nat}
    (hk : k = otherCopy (b.areaCopies n) (·.valid) (·.counter)) (hj : j ≠ 2 * n + k.1) :
    Tab.get PolderRec.erased (areaWith b n r) j = Tab.get PolderRec.erased b.area j := by
  subst hk
  exact Tab.get_set_other _ _ (Ne.symm hj)

theorem areaHdr_make_valid (counter floor : Nat) (ident : Bytes) : (AreaHdr.make counter floor ident).valid = true := by
  simp [AreaHdr.valid, AreaHdr.make]

/-- A header that is written is the one in force. -/
theorem areaHead_write {x y : AreaHdr} (hx : x.counter < 0xFFFFFFFF) (hy : y.counter < 0xFFFFFFFF) (floor : Nat) (ident : Bytes)
    {k : Nat × Nat} (hk : k = otherCopy [x, y] (·.valid) (·.counter)) :
    bestCopy ([x, y].set k.1 (AreaHdr.make k.2 floor ident)) (·.valid) (·.counter) = some (AreaHdr.make k.2 floor ident) := by
  have hmake : ∀ c, (AreaHdr.make c floor ident).valid = true := fun c => areaHdr_make_valid c floor ident
  have hcounter : ∀ c, (AreaHdr.make c floor ident).counter = c := fun _ => rfl
  subst hk
  unfold otherCopy
  by_cases hvx : x.valid = true
  · by_cases hfirst : (!y.valid || decide (y.counter ≤ x.counter)) = true
    · have hlt : ¬ (x.counter + 1) % 4294967296 ≤ x.counter := by omega
      simp [hvx, hfirst, bestCopy, hmake, hcounter, hlt]
    · simp only [Bool.or_eq_true, Bool.not_eq_true', decide_eq_true_eq, not_or] at hfirst
      obtain ⟨hvy, hle⟩ := hfirst
      have hvy' : y.valid = true := by simpa using hvy
      have hlt : ¬ (y.counter + 1) % 4294967296 < y.counter := by omega
      simp [hvx, hvy', hle, bestCopy, hmake, hcounter, hlt]
  · have hvx' : x.valid = false := by simpa using hvx
    by_cases hvy : y.valid = true
    · have hlt : ¬ (y.counter + 1) % 4294967296 < y.counter := by omega
      simp [hvx', hvy, bestCopy, hmake, hcounter, hlt]
    · have hvy' : y.valid = false := by simpa using hvy
      simp [hvx', hvy', bestCopy, hmake]

theorem raiseFloor_area (g : Nat) (s : State) : (raiseFloor g s).boot.area = s.boot.area := by
  unfold raiseFloor
  split <;> rfl

/-- The floor rises to a Generation that is higher, and the identity stays. -/
theorem raiseFloor_head (g : Nat) {s : State} {x y : AreaHdr} (h : s.boot.areaHdr = [x, y]) (hx : x.counter < 0xFFFFFFFF)
    (hy : y.counter < 0xFFFFFFFF) : (raiseFloor g s).boot.areaFloor = max s.boot.areaFloor g
      ∧ (raiseFloor g s).boot.areaId = s.boot.areaId := by
  unfold raiseFloor
  split
  next hlt =>
    have hhead : (writeAreaHdr g s.boot.areaId s).boot.areaHead
        = some (AreaHdr.make (otherCopy [x, y] (·.valid) (·.counter)).2 g s.boot.areaId) := by
      unfold writeAreaHdr Boot.areaHead
      rw [h]
      dsimp only
      rw [modBoot_boot]
      dsimp only
      rw [h]
      exact areaHead_write hx hy g s.boot.areaId rfl
    unfold Boot.areaFloor Boot.areaId at *
    rw [hhead]
    exact ⟨(max_eq_right (Nat.le_of_lt hlt)).symm, rfl⟩
  next hlt => exact ⟨(max_eq_left (Nat.le_of_not_lt hlt)).symm, rfl⟩

/-! ### Shares -/

/-- The host owner of a polder with a share. -/
def ownerWith (s : State) (n : Nat) (c : Counts) : Option Nat :=
  if c.queues = 0 then none else match (s.polder n).owner with
    | some o => some o
    | none => (freeOwner s).map ownerHost

/-- The global numbers of a polder with a share. -/
def mapsWith (s : State) (n : Nat) (c : Counts) : List (List Nat) :=
  (List.range 7).map (fun k => fitMap s k (c.list.getD k 0) ((s.polder n).maps.getD k []))

/-- A polder that took a share. -/
def polderWith (s : State) (n : Nat) (c : Counts) : Polder :=
  { s.polder n with counts := c, maps := mapsWith s n c, owner := ownerWith s n c, staged := 0 }

theorem polders_takeShare (n : Nat) (c : Counts) (s : State) :
    (takeShare n c s).polders = { s.polders with tab := Tab.set Polder.reset s.polders.tab n (polderWith s n c) } := by
  have hlow : ∀ y : State, (lowCheckAll y).polders = y.polders := fun y =>
    (Frame.lowCheckAll (l := [.buf]) (.of_all (by decide)) (.refl _ y)).polders (by decide)
  unfold takeShare
  dsimp only
  rw [hlow]
  split <;> rfl

section Taken
variable {n : Nat} {c : Counts} {s : State}

theorem wf_takeShare (h : Tab.wf Polder.reset s.polders.tab = true) : Tab.wf Polder.reset (takeShare n c s).polders.tab = true := by
  rw [polders_takeShare]
  exact Tab.wf_set _ _ h

theorem polder_takeShare_same (h : Tab.wf Polder.reset s.polders.tab = true) : (takeShare n c s).polder n = polderWith s n c := by
  unfold State.polder
  rw [polders_takeShare]
  exact Tab.get_set_same _ _ h

theorem polder_takeShare_other {m : Nat} (h : m ≠ n) : (takeShare n c s).polder m = s.polder m := by
  unfold State.polder
  rw [polders_takeShare]
  exact Tab.get_set_other _ _ (Ne.symm h)

theorem frame_takeShare (n : Nat) (c : Counts) (s : State) : Frame [.buf, .polders] s (takeShare n c s) :=
  Frame.takeShare (.of_all (by decide)) (.refl _ s) n c

end Taken

/-! ### What the Dike's log leaves -/

section Logged
variable {s u : State} (h : Logs s u)
include h

theorem Logs.polders : u.polders = s.polders := (congrArg State.polders h.rest :)
theorem Logs.wq : u.wq = s.wq := (congrArg State.wq h.rest :)
theorem Logs.area : u.boot.area = s.boot.area := (congrArg (fun x : State => x.boot.area) h.rest :)
theorem Logs.areaHdr : u.boot.areaHdr = s.boot.areaHdr := (congrArg (fun x : State => x.boot.areaHdr) h.rest :)

end Logged

theorem logs_logPolder (o : Origin) (n : Nat) (fields : Bool) (s : State) : Logs s (logPolder o n fields s) := by
  unfold logPolder
  dsimp only
  split
  · exact (logs_dikeLog ..).trans (logs_dikeLogFields ..)
  · exact logs_dikeLog ..

theorem areaHead_congr {b c : Boot} (h : b.areaHdr = c.areaHdr) : b.areaFloor = c.areaFloor ∧ b.areaId = c.areaId := by
  unfold Boot.areaFloor Boot.areaId Boot.areaHead
  rw [h]
  exact ⟨rfl, rfl⟩

end Sys2Proof.Machine
end

section
/-! The life of a polder: Commit, Adjust, Remove and the end of a removal (spec 10 R339, R340, R344, R347, R351). -/

namespace Sys2Proof.Machine
open Sys2Proof

/-! ### Refusals -/

theorem firstOf_nil_cons (l : List (List Nat)) : firstOf ([] :: l) = firstOf l := rfl
theorem firstOf_single (a : Nat) (l : List (List Nat)) : firstOf ([a] :: l) = [a] := rfl

/-- What the refusals of Commit find right, up to the place of a polder. -/
structure Committable (s : State) (n : Nat) : Prop where
  counted : (stagedCounts s n).queues ≠ 0 ∨ noMinima (stagedCounts s n) = true
  state : (s.polder n).state = 0 ∨ (s.polder n).state = 3
  idle : (s.func n).flr = false

section Commits
variable {s : State} {n : Nat} {fl : Bool}

theorem commitAborts_range (h : (stagedCounts s n).queues = 0 ∧ noMinima (stagedCounts s n) = false) :
    commitAborts s fl n = [7] := by
  simp [commitAborts, h, abortIf, firstOf_single, aRANGE]

theorem commitAborts_state (h : (stagedCounts s n).queues ≠ 0 ∨ noMinima (stagedCounts s n) = true)
    (h0 : (s.polder n).state ≠ 0) (h3 : (s.polder n).state ≠ 3) : commitAborts s fl n = [8] := by
  have hr : (decide ((stagedCounts s n).queues = 0) && !noMinima (stagedCounts s n)) = false := by
    rcases h with h | h <;> simp [h]
  simp [commitAborts, hr, h0, h3, abortIf, firstOf_nil_cons, firstOf_single, aSTATE]

variable (h : Committable s n)
include h

theorem commitAborts_committable : commitAborts s fl n =
    firstOf [abortIf (decide (0xFFFFFFFF ≤ (s.polder n).gen) || !shareFits s false Counts.zero (stagedCounts s n)) aRESOURCE,
      abortIf (!fl) aPERSIST_FAIL] := by
  obtain ⟨hr, hs, hf⟩ := h
  have hrange : abortIf (decide ((stagedCounts s n).queues = 0) && !noMinima (stagedCounts s n)) aRANGE = [] := by
    rcases hr with hr | hr <;> simp [hr]
  have hstate : abortIf (!decide ((s.polder n).state = 0 ∨ (s.polder n).state = 3)) aSTATE = [] := by simp [hs]
  have hflr : flrBusy s n = [] := by simp [flrBusy, hf]
  unfold commitAborts
  dsimp only
  rw [hrange, hstate, hflr]
  rfl

theorem commitAborts_resource (hr : 0xFFFFFFFF ≤ (s.polder n).gen
    ∨ shareFits s false Counts.zero (stagedCounts s n) = false) : commitAborts s fl n = [0xC] := by
  have hc : (decide (0xFFFFFFFF ≤ (s.polder n).gen) || !shareFits s false Counts.zero (stagedCounts s n)) = true := by
    rcases hr with hr | hr <;> simp [hr]
  rw [commitAborts_committable h, hc]
  rfl

theorem commitAborts_flash (hg : (s.polder n).gen < 0xFFFFFFFF)
    (hfit : shareFits s false Counts.zero (stagedCounts s n) = true) :
    commitAborts s fl n = if fl then [] else [0xB] := by
  have hc : (decide (0xFFFFFFFF ≤ (s.polder n).gen) || !shareFits s false Counts.zero (stagedCounts s n)) = false := by
    rw [hfit, decide_eq_false (Nat.not_le.mpr hg)]
    rfl
  rw [commitAborts_committable h, hc]
  cases fl <;> rfl

end Commits

/-- The refusals of Adjust for a share that it takes. -/
theorem adjustAborts_nil {s : State} {n : Nat} (hst : (s.polder n).state = 1)
    (hv : (adjustedCounts s n).vectors = (s.polder n).counts.vectors) (hl : loweredInUse s n (adjustedCounts s n) = false)
    (hm : (adjustedCounts s n).queues ≠ 0 ∨ noMinima (adjustedCounts s n) = true) (hf : (s.func n).flr = false)
    (hg : (s.polder n).gen < 0xFFFFFFFF)
    (hfit : shareFits s (s.polder n).owner.isSome (s.polder n).counts (adjustedCounts s n) = true) :
    adjustAborts s true n = [] := by
  have hr : (decide ((adjustedCounts s n).queues = 0) && !noMinima (adjustedCounts s n)) = false := by
    rcases hm with h | h <;> simp [h]
  have hgen : decide (0xFFFFFFFF ≤ (s.polder n).gen) = false := decide_eq_false (Nat.not_le.mpr hg)
  have hflr : flrBusy s n = [] := by simp [flrBusy, hf]
  unfold adjustAborts
  dsimp only
  rw [hst, hv, hl, hr, hgen, hfit, hflr]
  simp [abortIf, firstOf]

theorem adjustAborts_state {s : State} {n : Nat} {fl : Bool} (h : (s.polder n).state ≠ 1
    ∨ (adjustedCounts s n).vectors ≠ (s.polder n).counts.vectors ∨ loweredInUse s n (adjustedCounts s n) = true) :
    adjustAborts s fl n = [8] := by
  have hc : (decide ((s.polder n).state ≠ 1) || decide ((adjustedCounts s n).vectors ≠ (s.polder n).counts.vectors)
      || loweredInUse s n (adjustedCounts s n)
      || (decide ((adjustedCounts s n).queues = 0) && !noMinima (adjustedCounts s n))) = true := by
    rcases h with h | h | h <;> simp [h]
  unfold adjustAborts
  dsimp only
  rw [hc]
  rfl

/-! ### Commit -/

theorem polder_congr {s u : State} (h : u.polders = s.polders) (n : Nat) : u.polder n = s.polder n :=
  congrArg (fun x : Polders => Tab.get Polder.reset x.tab n) h

/-- A polder with a share is committed, and its Generation rises. -/
def commitMarks (n : Nat) (y : State) : State :=
  let s1 := y.setPolder n { y.polder n with state := 1 }
  s1.setPolder n { s1.polder n with gen := (s1.polder n).gen + 1 }

/-- A polder once its share is committed and its Generation raised, before its record is stored. -/
def committed (n : Nat) (s : State) : State := commitMarks n (takeShare n (stagedCounts s n) s)

theorem polderWith_gen (s : State) (n : Nat) (c : Counts) : (polderWith s n c).gen = (s.polder n).gen := rfl

theorem wf_setPolder {y : State} (h : Tab.wf Polder.reset y.polders.tab = true) (n : Nat) (x : Polder) :
    Tab.wf Polder.reset (y.setPolder n x).polders.tab = true := Tab.wf_set _ _ h

theorem polder_commitMarks_same {n : Nat} {y : State} (h : Tab.wf Polder.reset y.polders.tab = true) :
    (commitMarks n y).polder n = { y.polder n with state := 1, gen := (y.polder n).gen + 1 } := by
  unfold commitMarks
  dsimp only
  rw [polder_setPolder_same (wf_setPolder h ..), polder_setPolder_same h]

theorem polder_commitMarks_other {n m : Nat} (y : State) (h : m ≠ n) : (commitMarks n y).polder m = y.polder m := by
  unfold commitMarks
  dsimp only
  rw [polder_setPolder_other _ _ h, polder_setPolder_other _ _ h]

/-- The same, its record stored. -/
def commitStored (n : Nat) (s : State) : State := raiseFloor ((s.polder n).gen + 1) (savePolder n 1 true (committed n s))

section Commit
variable {n : Nat} {s : State}

theorem frame_commitMarks (n : Nat) (y : State) : Frame [.polders] y (commitMarks n y) :=
  Frame.setPolder (.of_all (by decide)) (Frame.setPolder (.of_all (by decide)) (.refl _ y) _ _) _ _

theorem frame_committed (n : Nat) (s : State) : Frame [.buf, .polders] s (committed n s) :=
  (frame_takeShare n (stagedCounts s n) s).trans ((frame_commitMarks n _).mono (.of_all (by decide)))

theorem polder_committed_other {m : Nat} (h : m ≠ n) : (committed n s).polder m = s.polder m := by
  unfold committed
  rw [polder_commitMarks_other _ h, polder_takeShare_other h]

theorem polder_committed_same (hc : Canonical s) : (committed n s).polder n
    = { polderWith s n (stagedCounts s n) with state := 1, gen := (s.polder n).gen + 1 } := by
  obtain ⟨hwf, -⟩ := hc.polders
  unfold committed
  rw [polder_commitMarks_same (wf_takeShare hwf), polder_takeShare_same hwf, polderWith_gen]

theorem recordOf_committed (hc : Canonical s) : recordOf (committed n s) n 1 = { PolderRec.erased with
    state := 1, gen := (s.polder n).gen + 1, counts := stagedCounts s n, weight := cfgN s (0x3000 + n) 0xA
    access := cfgN s (0x3000 + n) 0xB, cls := cfgN s (0x3000 + n) 0xC } := by
  have hv := (frame_committed n s).vals (by decide)
  unfold recordOf
  rw [polder_committed_same hc, cfgN_congr hv, cfgN_congr hv, cfgN_congr hv]
  rfl

theorem commitPolder_logs (o : Origin) (hc : Canonical s) : Logs (commitStored n s) (commitPolder o n s) := by
  obtain ⟨hwf, -⟩ := hc.polders
  have hgen : ((installPolder n (stagedCounts s n) s).polder n).gen = (s.polder n).gen := by
    unfold installPolder
    dsimp only
    rw [polder_setPolder_same (wf_takeShare hwf), polder_takeShare_same hwf]
    rfl
  have hcommit : committed n s = (installPolder n (stagedCounts s n) s).setPolder n
      { (installPolder n (stagedCounts s n) s).polder n with
        gen := ((installPolder n (stagedCounts s n) s).polder n).gen + 1 } := rfl
  unfold commitPolder commitStored
  dsimp only
  rw [hcommit, hgen]
  exact logs_logPolder ..

theorem commitStored_polders (n : Nat) (s : State) : (commitStored n s).polders = (committed n s).polders :=
  (Frame.raiseFloor (l := [.boot]) (.of_all (by decide)) (Frame.savePolder (.of_all (by decide)) (.refl _ _) _ _ _) _).polders
    (by decide)

theorem commitStored_area (n : Nat) (hc : Canonical s) : (commitStored n s).boot.area = areaWith s.boot n { PolderRec.erased with
    state := 1, gen := (s.polder n).gen + 1, counts := stagedCounts s n, weight := cfgN s (0x3000 + n) 0xA
    access := cfgN s (0x3000 + n) 0xB, cls := cfgN s (0x3000 + n) 0xC } := by
  unfold commitStored
  rw [raiseFloor_area, savePolder_eq, modBoot_boot, (frame_committed n s).boot (by decide), recordOf_committed hc]

theorem commitStored_head {x y : AreaHdr} (h : s.boot.areaHdr = [x, y]) (hx : x.counter < 0xFFFFFFFF)
    (hy : y.counter < 0xFFFFFFFF) : (commitStored n s).boot.areaFloor = max s.boot.areaFloor ((s.polder n).gen + 1)
      ∧ (commitStored n s).boot.areaId = s.boot.areaId := by
  have hboot : (savePolder n 1 true (committed n s)).boot.areaHdr = s.boot.areaHdr := by
    rw [savePolder_eq, modBoot_boot, (frame_committed n s).boot (by decide)]
  obtain ⟨hfloor, hid⟩ := areaHead_congr hboot
  rw [← hfloor, ← hid]
  exact raiseFloor_head _ (hboot.trans h) hx hy

end Commit

/-! ### Adjust -/

/-- The queues that a lowering removes are listed no more. -/
def queuesLowered (n : Nat) (s : State) : State :=
  { s with wq := { s.wq with queues := s.wq.queues.filter (fun e =>
    !(decide (e.1 / 1024 = n)
      && (lowered (s.polder n).counts.queues (adjustedCounts s n).queues).contains (e.1 % 1024))) } }

/-- A polder with its share adjusted and its record stored. -/
def adjustStored (n : Nat) (s : State) : State :=
  savePolder n 1 true (takeShare n (adjustedCounts s n) (queuesLowered n s))

section Adjust
variable {n : Nat} {s : State}

theorem adjustPolder_logs (o : Origin) (n : Nat) (s : State) : Logs (adjustStored n s) (adjustPolder o n s) := by
  unfold adjustPolder adjustStored queuesLowered
  exact logs_logPolder ..

theorem polderWith_congr {s u : State} (hp : u.polders = s.polders) (hb : u.buf = s.buf) (n : Nat) (c : Counts) :
    polderWith u n c = polderWith s n c := by
  unfold polderWith mapsWith ownerWith fitMap globalsUsed freeOwner State.polder
  rw [hp, hb]

theorem polder_lowered_same (hc : Canonical s) :
    (takeShare n (adjustedCounts s n) (queuesLowered n s)).polder n = polderWith s n (adjustedCounts s n) := by
  obtain ⟨hwf, -⟩ := hc.polders
  have hwf' : Tab.wf Polder.reset (queuesLowered n s).polders.tab = true := hwf
  have hp : (queuesLowered n s).polders = s.polders := rfl
  have hb : (queuesLowered n s).buf = s.buf := rfl
  rw [polder_takeShare_same hwf', polderWith_congr hp hb]

theorem adjustStored_polders (n : Nat) (s : State) :
    (adjustStored n s).polders = (takeShare n (adjustedCounts s n) (queuesLowered n s)).polders := by
  unfold adjustStored
  rw [savePolder_eq, modBoot_polders]

theorem adjustStored_polder_same (hc : Canonical s) : (adjustStored n s).polder n = polderWith s n (adjustedCounts s n) := by
  rw [← polder_lowered_same hc, polder_congr (adjustStored_polders n s)]

theorem adjustStored_polder_other {m : Nat} (h : m ≠ n) : (adjustStored n s).polder m = s.polder m := by
  have hp : (queuesLowered n s).polders = s.polders := rfl
  rw [polder_congr (adjustStored_polders n s), polder_takeShare_other h, polder_congr hp]

theorem adjustStored_area (n : Nat) (hc : Canonical s) : (adjustStored n s).boot.area = areaWith s.boot n { PolderRec.erased with
    state := 1, gen := (s.polder n).gen, counts := adjustedCounts s n, weight := cfgN s (0x3000 + n) 0xA
    access := cfgN s (0x3000 + n) 0xB, cls := cfgN s (0x3000 + n) 0xC } := by
  obtain ⟨hwf, -⟩ := hc.polders
  have hf := frame_takeShare n (adjustedCounts s n) (queuesLowered n s)
  have hv : (takeShare n (adjustedCounts s n) (queuesLowered n s)).dict.vals = s.dict.vals := hf.vals (by decide)
  have hb : (takeShare n (adjustedCounts s n) (queuesLowered n s)).boot = s.boot := hf.boot (by decide)
  have hp := polder_lowered_same (n := n) hc
  unfold adjustStored
  rw [savePolder_eq, modBoot_boot, hb]
  unfold recordOf
  rw [hp, cfgN_congr hv, cfgN_congr hv, cfgN_congr hv]
  rfl

theorem adjustStored_queue {m q : Nat} (hq : q < 1024)
    (h : m ≠ n ∨ q < (adjustedCounts s n).queues ∨ (s.polder n).counts.queues ≤ q) :
    (adjustStored n s).queue m q = s.queue m q := by
  have hwq : (adjustStored n s).wq = (queuesLowered n s).wq := by
    unfold adjustStored
    rw [savePolder_eq, modBoot_wq]
    exact (frame_takeShare ..).wq (by decide)
  have hdiv : qKey m q / 1024 = m := by
    unfold qKey
    omega
  have hmod : qKey m q % 1024 = q := by
    unfold qKey
    omega
  rw [queue_congr hwq]
  refine Tab.get_filter _ _ _ fun v => ?_
  dsimp only
  rw [hdiv, hmod]
  rcases h with h | h
  · simp [h]
  · have hout : q ∉ lowered (s.polder n).counts.queues (adjustedCounts s n).queues := by
      intro hmem
      obtain ⟨i, hi, rfl⟩ := List.mem_map.mp hmem
      have hlt := List.mem_range.mp hi
      omega
    exact by simp [hout]

end Adjust

/-! ### Remove -/

/-- A polder as it is removed, its record stored. -/
def removalStored (o : Origin) (n : Nat) (s : State) : State :=
  logPolder o n true (savePolder n 0 true (s.setPolder n { s.polder n with state := 2 }))

section Remove
variable {o : Origin} {n : Nat} {s : State}

theorem removePolder_eq (o : Origin) (n : Nat) (s : State) :
    removePolder o true n s = dropGroups n (endWork (removalStored o n s).clock n (removalStored o n s)) := rfl

theorem removalStored_polders (o : Origin) (n : Nat) (s : State) :
    (removalStored o n s).polders = (s.setPolder n { s.polder n with state := 2 }).polders := (logs_logPolder ..).polders

theorem removePolder_polder (m : Nat) : (removePolder o true n s).polder m
    = (s.setPolder n { s.polder n with state := 2 }).polder m := by
  rw [removePolder_eq]
  have hdrop : ∀ y : State, (dropGroups n y).polder m = y.polder m := fun _ => rfl
  rw [hdrop, polder_congr ((frame_endWork ..).polders (by decide)), polder_congr (removalStored_polders o n s)]

theorem removePolder_area (hc : Canonical s) : (removePolder o true n s).boot.area = areaWith s.boot n { PolderRec.erased with
    state := 0, gen := (s.polder n).gen, counts := (s.polder n).counts, weight := cfgN s (0x3000 + n) 0xA
    access := cfgN s (0x3000 + n) 0xB, cls := cfgN s (0x3000 + n) 0xC } := by
  obtain ⟨hwf, -⟩ := hc.polders
  have hdrop : ∀ y : State, (dropGroups n y).boot = y.boot := fun _ => rfl
  have hlog : (removalStored o n s).boot.area = areaWith s.boot n (recordOf (s.setPolder n { s.polder n with state := 2 }) n 0) :=
    (logs_logPolder o n true _).area
  rw [removePolder_eq, hdrop, (frame_endWork ..).boot (by decide), hlog]
  unfold recordOf
  rw [polder_setPolder_same hwf]
  rfl

theorem groups_dropGroups {n : Nat} {y : State} {e : Nat × HostGroup} (he : e ∈ (dropGroups n y).polders.groups)
    (hn : e.2.polder = n) : e.2.count = 0 := by
  rcases of_decide_eq_true (List.mem_filter.mp he).2 with h | h
  · exact absurd hn h
  · exact h

theorem removePolder_groups : ∀ e ∈ (removePolder o true n s).polders.groups, e.2.polder = n → e.2.count = 0 := by
  rw [removePolder_eq]
  exact fun e he hn => groups_dropGroups he hn

theorem removePolder_queue {q : Nat} (hq : q < 1024) : (removePolder o true n s).queue n q = Queue.reset := by
  have hdrop : ∀ y : State, (dropGroups n y).queue n q = y.queue n q := fun _ => rfl
  rw [removePolder_eq, hdrop, queue_endWork_same _ _ _ hq]

theorem removePolder_ep (o : Origin) (n : Nat) (s : State) : (∀ r ∈ (removePolder o true n s).ep.reads, r.who.fn ≠ n)
    ∧ (∀ x ∈ (removePolder o true n s).ep.cached, x.fn ≠ n) ∧ (∀ x ∈ (removePolder o true n s).ep.pageReqs, x.fn ≠ n) := by
  have hdrop : ∀ y : State, (dropGroups n y).ep = y.ep := fun _ => rfl
  rw [removePolder_eq, hdrop, reads_endWork, cached_endWork, pageReqs_endWork]
  exact ⟨reads_squashReads _ n _, fun x hx => of_decide_eq_true (List.mem_filter.mp hx).2,
    fun x hx => of_decide_eq_true (List.mem_filter.mp hx).2⟩

end Remove

/-! ### The end of a removal -/

/-- The channels of a removed polder are free. -/
def channelsReturned (l : List Nat) (s : State) : State :=
  forEach l (fun g st => (channelReset g none st).setChannel g Channel.reset) s

/-- The regions of a removed polder are free. -/
def regionsReturned (l : List Nat) (s : State) : State :=
  forEach l (fun g st => st.setRegion g { Region.reset with epoch := (st.region g).epoch }) s

/-- The namespaces of a removed polder are detached. -/
def spacesDetached (n : Nat) (j : Journal) : Journal :=
  { j with spaces := j.spaces.map (fun e => match e.2.attach with
      | some a => if a.1 = n then (e.1, { e.2 with attach := none }) else e
      | none => e) }

/-- The queues of a removed polder are in their reset state. -/
def queuesReturned (n : Nat) (s : State) : State :=
  { s with wq := { s.wq with queues := s.wq.queues.filter (fun e => decide (e.1 / 1024 ≠ n)) } }

/-- The part of a removed polder's return that its record follows. -/
def workReturned (n : Nat) (s : State) : State :=
  modJrn (spacesDetached n) (queuesReturned n (forEach ((s.polder n).maps.getD 2 []) clearSlot
    (regionsReturned ((s.polder n).maps.getD 5 []) (channelsReturned ((s.polder n).maps.getD 3 []) s))))

/-- A removed polder's record. -/
def recordReturned (n : Nat) (y : State) : State :=
  (takeShare n Counts.zero y).setPolder n { (takeShare n Counts.zero y).polder n with state := 0, counts := Counts.none }

section Return
variable {n : Nat} {s : State}

theorem polderRemoved_eq (h : (s.polder n).state = 2) :
    polderRemoved n s = raise 262 (recordReturned n (workReturned n s)) := by
  unfold polderRemoved
  dsimp only
  rw [if_neg (not_not.mpr h)]
  rfl

section Channels
variable (g : Nat) (y : State)

theorem frame_channelReturned : Frame [.cipher, .siphon, .jrn] y ((channelReset g none y).setChannel g Channel.reset) := by
  have hfree : Frame [.cipher, .siphon, .jrn] y
      (chFreeSlot (y.channel g) (y.setChannel g { Channel.reset with fn := (y.channel g).fn, num := (y.channel g).num })) :=
    Frame.chFreeSlot (.of_all (by decide)) (Frame.setChannel (.of_all (by decide)) (.refl _ y) _ _) _
  exact Frame.setChannel (.of_all (by decide)) (Frame.journalDrop (.of_all (by decide)) hfree _) _ _

theorem siphon_channelReturned : ((channelReset g none y).setChannel g Channel.reset).siphon
    = ((y.setChannel g { Channel.reset with fn := (y.channel g).fn, num := (y.channel g).num }).setChannel g Channel.reset).siphon := by
  have hfree : ∀ (c : Channel) (z : State), (chFreeSlot c z).siphon = z.siphon := fun c z =>
    (Frame.chFreeSlot (l := [.cipher]) (.of_all (by decide)) (.refl _ z) c).siphon (by decide)
  have hdrop : ∀ z : State, (journalDrop (ofChannel g) z).siphon = z.siphon := fun z =>
    (Frame.journalDrop (l := [.cipher, .jrn]) (.of_all (by decide)) (.refl _ z) _).siphon (by decide)
  have hset : ∀ {z w : State}, z.siphon = w.siphon →
      (z.setChannel g Channel.reset).siphon = (w.setChannel g Channel.reset).siphon := fun h =>
    congrArg (fun b : Siphon => { b with channels := Tab.set Channel.reset b.channels g Channel.reset }) h
  refine hset ?_
  unfold channelReset
  dsimp only
  rw [hdrop, hfree]

end Channels

theorem frame_channelsReturned (l : List Nat) (s : State) : Frame [.cipher, .siphon, .jrn] s (channelsReturned l s) :=
  Frame.forEach l (fun g _ hk => hk.trans (frame_channelReturned g _)) (.refl _ s)

theorem frame_workReturned (n : Nat) (s : State) : Frame [.wq, .cipher, .siphon, .jrn] s (workReturned n s) := by
  have hchan := (frame_channelsReturned ((s.polder n).maps.getD 3 []) s).mono
    (m := [.wq, .cipher, .siphon, .jrn]) (.of_all (by decide))
  have hreg : Frame [.wq, .cipher, .siphon, .jrn] s (regionsReturned ((s.polder n).maps.getD 5 [])
      (channelsReturned ((s.polder n).maps.getD 3 []) s)) :=
    Frame.forEach _ (fun g _ hk => Frame.setRegion (.of_all (by decide)) hk _ _) hchan
  have hslots : Frame [.wq, .cipher, .siphon, .jrn] s (forEach ((s.polder n).maps.getD 2 []) clearSlot
      (regionsReturned ((s.polder n).maps.getD 5 []) (channelsReturned ((s.polder n).maps.getD 3 []) s))) :=
    Frame.forEach _ (fun g _ hk => Frame.clearSlot (.of_all (by decide)) hk g) hreg
  exact Frame.modJrn (.of_all (by decide)) (Frame.filterQueues (.of_all (by decide)) hslots _)

theorem wf_setChannel {y : State} (h : Tab.wf Channel.reset y.siphon.channels = true) (g : Nat) (c : Channel) :
    Tab.wf Channel.reset (y.setChannel g c).siphon.channels = true := Tab.wf_set _ _ h

theorem wf_clearSlot {y : State} (h : Tab.wf KeySlot.reset y.cipher.slots = true) (g : Nat) :
    Tab.wf KeySlot.reset (clearSlot g y).cipher.slots = true := by
  unfold clearSlot
  exact Tab.wf_set (d := KeySlot.reset) g KeySlot.reset h

theorem wf_channelsReturned (l : List Nat) {y : State} (hc : Canonical y) : Canonical (channelsReturned l y) :=
  (Keeps.forEach l (fun g _ hk => Keeps.setChannel (Keeps.channelReset hk g none) g Channel.reset) (Keeps.refl y)).form hc

theorem wf_regionsReturned (l : List Nat) {y : State} (hc : Canonical y) : Canonical (regionsReturned l y) :=
  (Keeps.forEach l (fun g _ hk => Keeps.setRegion hk g _) (Keeps.refl y)).form hc

/-- A channel that is returned is reset, and channels that are reset stay so. -/
theorem channel_channelsReturned {g : Nat} {l : List Nat} {y : State} (hwf : Tab.wf Channel.reset y.siphon.channels = true)
    (h : g ∈ l ∨ y.channel g = Channel.reset) : (channelsReturned l y).channel g = Channel.reset := by
  induction l generalizing y with
  | nil => exact h.resolve_left List.not_mem_nil
  | cons a l ih =>
    have hs := siphon_channelReturned a y
    have hwf1 := wf_setChannel hwf a { Channel.reset with fn := (y.channel a).fn, num := (y.channel a).num }
    have hchan : ∀ {z w : State}, z.siphon = w.siphon → z.channel g = w.channel g := fun h =>
      congrArg (fun b : Siphon => Tab.get Channel.reset b.channels g) h
    refine ih (y := (channelReset a none y).setChannel a Channel.reset) ?_ ?_
    · rw [hs]
      exact wf_setChannel hwf1 ..
    · by_cases ha : g = a
      · subst ha
        exact .inr ((hchan hs).trans (channel_setChannel_same hwf1 g _))
      · refine (List.mem_cons.mp · |>.resolve_left ha) |> fun hmem => h.imp hmem fun h => ?_
        rw [hchan hs, channel_setChannel_other _ _ ha, channel_setChannel_other _ _ ha, h]

/-- A region that is returned is reset but for its epoch. -/
theorem region_regionsReturned {g : Nat} {l : List Nat} {y : State} (hwf : Tab.wf Region.reset y.siphon.regions = true) :
    ((regionsReturned l y).region g).epoch = (y.region g).epoch
      ∧ ((g ∈ l ∨ (y.region g).valid = false) → ((regionsReturned l y).region g).valid = false) := by
  induction l generalizing y with
  | nil => exact ⟨rfl, fun h => h.resolve_left List.not_mem_nil⟩
  | cons a l ih =>
    obtain ⟨hepoch, hvalid⟩ := ih (y := y.setRegion a { Region.reset with epoch := (y.region a).epoch }) (Tab.wf_set _ _ hwf)
    by_cases ha : g = a
    · subst ha
      rw [region_setRegion_same hwf] at hepoch hvalid
      exact ⟨hepoch, fun _ => hvalid (.inr rfl)⟩
    · rw [region_setRegion_other _ _ ha] at hepoch hvalid
      exact ⟨hepoch, fun h => hvalid (h.imp_left fun hm => (List.mem_cons.mp hm).resolve_left ha)⟩

theorem keySlot_clearSlots {g : Nat} {l : List Nat} {y : State} (hwf : Tab.wf KeySlot.reset y.cipher.slots = true)
    (h : g ∈ l ∨ y.keySlot g = KeySlot.reset) : (forEach l clearSlot y).keySlot g = KeySlot.reset := by
  induction l generalizing y with
  | nil => exact h.resolve_left List.not_mem_nil
  | cons a l ih =>
    refine ih (y := clearSlot a y) (wf_clearSlot hwf a) ?_
    by_cases ha : g = a
    · subst ha
      exact .inr (keySlot_setKeySlot_same hwf g _)
    · exact h.imp (fun hm => (List.mem_cons.mp hm).resolve_left ha) fun h => (keySlot_setKeySlot_other y _ ha).trans h

theorem regionsReturned_channels (l : List Nat) (y : State) (g : Nat) : (regionsReturned l y).channel g = y.channel g :=
  forEach_keeps (fun x => x.channel g)
    (f := fun k st => st.setRegion k { Region.reset with epoch := (st.region k).epoch }) (fun _ _ => rfl) l y

theorem channelsReturned_regions (l : List Nat) (y : State) : (channelsReturned l y).siphon.regions = y.siphon.regions :=
  forEach_keeps (fun x => x.siphon.regions) (f := fun k st => (channelReset k none st).setChannel k Channel.reset)
    (fun a z => (congrArg Siphon.regions (siphon_channelReturned a z)).trans rfl) l y

theorem clearSlots_siphon (l : List Nat) (y : State) : (forEach l clearSlot y).siphon = y.siphon :=
  forEach_keeps State.siphon (f := clearSlot) (fun _ _ => rfl) l y

/-- What the return of a removed polder's work leaves. -/
structure WorkReturned (n : Nat) (s y : State) : Prop where
  polders : y.polders = s.polders
  spaces : ∀ e ∈ y.jrn.spaces, ∀ i, e.2.attach ≠ some (n, i)
  slots : ∀ g ∈ (s.polder n).maps.getD 2 [], y.keySlot g = KeySlot.reset
  channels : ∀ g ∈ (s.polder n).maps.getD 3 [], y.channel g = Channel.reset
  regions : ∀ g ∈ (s.polder n).maps.getD 5 [], (y.region g).valid = false ∧ (y.region g).epoch = (s.region g).epoch
  queues : ∀ q < 1024, y.queue n q = Queue.reset

theorem spacesDetached_attach (n : Nat) (j : Journal) {e : Nat × Space} (he : e ∈ (spacesDetached n j).spaces) (i : Nat) :
    e.2.attach ≠ some (n, i) := by
  obtain ⟨x, -, hx⟩ := List.mem_map.mp he
  intro hatt
  cases hxa : x.2.attach with
  | none =>
    simp only [hxa] at hx
    rw [← hx, hxa] at hatt
    exact absurd hatt (by simp)
  | some a =>
    simp only [hxa] at hx
    by_cases ha : a.1 = n
    · rw [if_pos ha] at hx
      rw [← hx] at hatt
      exact absurd hatt (by simp)
    · rw [if_neg ha] at hx
      rw [← hx, hxa] at hatt
      exact ha (congrArg Prod.fst (Option.some.inj hatt))

theorem workReturned_spec (hc : Canonical s) : WorkReturned n s (workReturned n s) := by
  have hframe := frame_workReturned n s
  have hc1 := wf_channelsReturned ((s.polder n).maps.getD 3 []) hc
  have hc2 := wf_regionsReturned ((s.polder n).maps.getD 5 []) hc1
  obtain ⟨hchannels, -, -⟩ := hc.siphon
  obtain ⟨-, hregions, -⟩ := hc1.siphon
  obtain ⟨hslots, -⟩ := hc2.cipher
  have hsiphon : (workReturned n s).siphon = (regionsReturned ((s.polder n).maps.getD 5 [])
      (channelsReturned ((s.polder n).maps.getD 3 []) s)).siphon := clearSlots_siphon _ _
  have hchan : ∀ g, (workReturned n s).channel g = (channelsReturned ((s.polder n).maps.getD 3 []) s).channel g := fun g =>
    (congrArg (fun b : Siphon => Tab.get Channel.reset b.channels g) hsiphon).trans (regionsReturned_channels ..)
  have hreg : ∀ g, (workReturned n s).region g = (regionsReturned ((s.polder n).maps.getD 5 [])
      (channelsReturned ((s.polder n).maps.getD 3 []) s)).region g := fun g =>
    congrArg (fun b : Siphon => Tab.get Region.reset b.regions g) hsiphon
  refine ⟨hframe.polders (by decide), fun e he i => spacesDetached_attach n _ he i, fun g hg => ?_, fun g hg => ?_,
    fun g hg => ?_, fun q hq => ?_⟩
  · exact keySlot_clearSlots hslots (.inl hg)
  · rw [hchan]
    exact channel_channelsReturned hchannels (.inl hg)
  · obtain ⟨hepoch, hvalid⟩ := region_regionsReturned (g := g) (l := (s.polder n).maps.getD 5 []) hregions
    rw [hreg]
    exact ⟨hvalid (.inl hg), by rw [hepoch, State.region, channelsReturned_regions, State.region]⟩
  · have hkey : qKey n q / 1024 = n := by
      unfold qKey
      omega
    exact Tab.get_filter_none _ _ _ fun _ => by simp [hkey]

theorem runs_polderRemoveComplete {t : Nat} (hc : Canonical s) (hst : (s.polder n).state = 2) :
    Runs (.polderRemoveComplete t n) s (fun u => (u.polder n).state = 0 ∧ (u.polder n).counts = Counts.none
      ∧ (u.polder n).gen = (s.polder n).gen ∧ (u.polder n).owner = none ∧ (∀ m ∈ (u.polder n).maps, m = [])
      ∧ (∀ m, m ≠ n → u.polder m = s.polder m) ∧ (∀ e ∈ u.jrn.spaces, ∀ i, e.2.attach ≠ some (n, i))
      ∧ (∀ g ∈ (s.polder n).maps.getD 2 [], u.keySlot g = KeySlot.reset)
      ∧ (∀ g ∈ (s.polder n).maps.getD 3 [], u.channel g = Channel.reset)
      ∧ (∀ g ∈ (s.polder n).maps.getD 5 [], (u.region g).valid = false ∧ (u.region g).epoch = (s.region g).epoch)
      ∧ (∀ q < 1024, u.queue n q = Queue.reset)
      ∧ (evtStat u 8).testBit 6 = true) := by
  have hst' : ((advance t s).polder n).state = 2 := by rwa [polder_advance]
  obtain ⟨hpol, hspaces, hslots, hchannels, hregions, hqueues⟩ := workReturned_spec (n := n) (canonical_advance t hc)
  rw [polder_advance] at hslots hchannels hregions
  obtain ⟨hwf, -⟩ := hc.polders
  refine ⟨_, congrArg Host.Outcome.next (polderRemoved_eq hst'), ?_⟩
  generalize workReturned n (advance t s) = y at hpol hspaces hslots hchannels hregions hqueues
  have hpol' : y.polders = s.polders := hpol.trans (advance_polders ..)
  have hwfy : Tab.wf Polder.reset y.polders.tab = true := by rwa [hpol']
  have hsig := signals_raise 262 (recordReturned n y)
  have hframe : Frame [.buf, .polders] y (recordReturned n y) :=
    Frame.setPolder (.of_all (by decide)) (frame_takeShare n Counts.zero y) _ _
  have hjrn := hsig.jrn.trans (hframe.jrn (by decide))
  have hcipher := hsig.cipher.trans (hframe.cipher (by decide))
  have hsiphon := hsig.siphon.trans (hframe.siphon (by decide))
  have hwq := hsig.wq.trans (hframe.wq (by decide))
  have hsame : (raise 262 (recordReturned n y)).polder n = { polderWith y n Counts.zero with state := 0, counts := Counts.none } := by
    rw [polder_congr hsig.polders]
    unfold recordReturned
    rw [polder_setPolder_same (wf_takeShare hwfy), polder_takeShare_same hwfy]
  have hmaps : ∀ m ∈ mapsWith y n Counts.zero, m = [] := by
    intro m hm
    obtain ⟨k, -, rfl⟩ := List.mem_map.mp hm
    have hzero : Counts.zero.list.getD k 0 = 0 := by
      rcases k with _ | _ | _ | _ | _ | _ | _ | k <;> rfl
    rw [hzero]
    unfold fitMap
    simp [lowestFree]
  refine ⟨?_, ?_, ?_, ?_, ?_, fun m hm => ?_, ?_, fun g hg => ?_, fun g hg => ?_, fun g hg => ?_, fun q hq => ?_, ?_⟩
  · rw [hsame]
  · rw [hsame]
  · rw [hsame]
    exact (polderWith_gen y n Counts.zero).trans (congrArg Polder.gen (polder_congr hpol' n))
  · rw [hsame]
    rfl
  · rw [hsame]
    exact hmaps
  · rw [polder_congr hsig.polders]
    unfold recordReturned
    rw [polder_setPolder_other _ _ hm, polder_takeShare_other hm, polder_congr hpol']
  · rwa [hjrn]
  · exact (congrArg (fun c : Cipher => Tab.get KeySlot.reset c.slots g) hcipher).trans (hslots g hg)
  · exact (congrArg (fun c : Siphon => Tab.get Channel.reset c.channels g) hsiphon).trans (hchannels g hg)
  · have hreg : (raise 262 (recordReturned n y)).region g = y.region g :=
      congrArg (fun c : Siphon => Tab.get Region.reset c.regions g) hsiphon
    rw [hreg]
    have h := hregions g hg
    rwa [region_advance] at h
  · rw [queue_congr hwq]
    exact hqueues q hq
  · exact raise_sets (n := 262) (by decide) _

end Return

/-! ### What an answered request leaves -/

section Answered
variable {s u : State}

theorem AnswersOnly.wq (h : AnswersOnly s u) : u.wq = s.wq := (AnswersOnly.signals h).wq
theorem AnswersOnly.boot (h : AnswersOnly s u) : u.boot = s.boot := (AnswersOnly.signals h).boot

end Answered

end Sys2Proof.Machine

namespace Sys2Proof
open Machine

/-- Settles O17: a share is taken before its record is stored, from the values staged; the copy that is written is the one
without the higher counter; the end of a removed polder's work touches no other record. -/
theorem polderLifecycle : Obligations.PolderLifecycle := by
  have hidx : ∀ {n : Nat}, (0x3000 + n) - 0x3000 = n := by omega
  have hmine : ∀ {n k : Nat}, n < 4096 → polderIdx k (0x3000 + n) k = true := fun {n k} hn =>
    decide_eq_true ⟨by omega, by omega, rfl⟩
  refine ⟨fun n hn => ?_, fun n hn => ?_, fun n hn => ?_, fun n hn => ?_, fun n hn => ?_, fun n hn => ?_, fun n hn => ?_,
    fun n h0 hn => ?_, fun n hn => ?_, fun t n s hc h0 hn hst => runs_polderRemoveComplete hc hst, fun t n s hst => ?_⟩
  · refine serves_flash (fun _ _ => rfl) (hmine hn) fun q x hfl hi hs ⟨hc, hst, hr, hflr, hgen, hfit⟩ => ?_
    rw [hi, hidx]
    refine ⟨by rw [hfl, commitAborts_flash ⟨hr, hst, hflr⟩ hgen hfit]; rfl, _, rfl, fun u hu => ?_⟩
    have hlog := commitPolder_logs (n := n) q.origin hc
    have hpol : u.polders = (committed n x).polders :=
      (AnswersOnly.polders hu).trans (hlog.polders.trans (commitStored_polders n x))
    have hboot := AnswersOnly.boot hu
    refine ⟨?_, fun m hm => ?_, fun k hk => ?_, fun a b hab ha hb => ?_⟩
    · rw [polder_congr hpol, polder_committed_same hc]
      rfl
    · rw [polder_congr hpol, polder_committed_other hm]
    · rw [hboot, hlog.area, commitStored_area n hc]
      exact ⟨get_areaWith_same n _ hk, fun j hj => get_areaWith_other n _ hk hj⟩
    · obtain ⟨hfloor, hid⟩ := areaHead_congr hlog.areaHdr
      obtain ⟨hfloor', hid'⟩ := commitStored_head (n := n) hab ha hb
      rw [hboot, hfloor, hid]
      exact ⟨hfloor', fun _ => hid'⟩
  · refine refuses_ok (fun _ _ => rfl) (hmine hn) fun q x hi hs hbad => ?_
    rw [hi, hidx, commitAborts_range hbad]
    rfl
  · refine refuses_ok (fun _ _ => rfl) (hmine hn) fun q x hi hs ⟨hr, h0, h3⟩ => ?_
    rw [hi, hidx, commitAborts_state hr h0 h3]
    rfl
  · refine refuses_ok (fun _ _ => rfl) (hmine hn) fun q x hi hs ⟨hst, hflr, hr, hbad⟩ => ?_
    rw [hi, hidx, commitAborts_resource ⟨hr, hst, hflr⟩ hbad]
    rfl
  · refine refuses_flash (fun _ _ => rfl) (hmine hn) fun q x hfl hi hs ⟨hst, hflr, hr, hgen, hfit⟩ => ?_
    rw [hi, hidx, hfl, commitAborts_flash ⟨hr, hst, hflr⟩ hgen hfit]
    rfl
  · refine serves_flash (fun _ _ => rfl) (hmine hn)
      fun q x hfl hi hs ⟨hc, hst, hv, hl, hm, hflr, hgen, hfit⟩ => ?_
    rw [hi, hidx]
    refine ⟨by rw [hfl, adjustAborts_nil hst hv hl hm hflr hgen hfit], _, rfl, fun u hu => ?_⟩
    have hlog := adjustPolder_logs q.origin n x
    have hpol : u.polders = (adjustStored n x).polders := (AnswersOnly.polders hu).trans hlog.polders
    have hwq : u.wq = (adjustStored n x).wq := (AnswersOnly.wq hu).trans hlog.wq
    have hsame : u.polder n = polderWith x n (adjustedCounts x n) := by
      rw [polder_congr hpol, adjustStored_polder_same hc]
    rw [hsame]
    refine ⟨rfl, hst, rfl, rfl, rfl, fun m hm => ?_, fun m p hp h => ?_, fun k hk => ?_⟩
    · rw [polder_congr hpol, adjustStored_polder_other hm]
    · rw [queue_congr hwq, adjustStored_queue hp h]
    · rw [AnswersOnly.boot hu, hlog.area, adjustStored_area n hc]
      exact get_areaWith_same n _ hk
  · refine refuses_ok (fun _ _ => rfl) (hmine hn) fun q x hi hs hbad => ?_
    rw [hi, hidx, adjustAborts_state hbad]
    rfl
  · refine serves_flash (fun _ _ => rfl) (hmine hn) fun q x hfl hi hs ⟨hc, hst, hflr⟩ => ?_
    rw [hi, hidx, hfl]
    refine ⟨by simp [removeAborts, flrBusy, abortIf, hst, hflr, Nat.ne_of_gt h0], _, rfl, fun u hu => ?_⟩
    have hpol := AnswersOnly.polders hu
    obtain ⟨hwf, -⟩ := hc.polders
    obtain ⟨hreads, hcached, hreqs⟩ := removePolder_ep q.origin n x
    have hsig := AnswersOnly.signals hu
    refine ⟨?_, fun m hm => ?_, ?_, fun p hp => ?_, ?_, ?_, ?_, fun k hk => ?_⟩
    · rw [polder_congr hpol, removePolder_polder, polder_setPolder_same hwf]
    · rw [polder_congr hpol, removePolder_polder, polder_setPolder_other _ _ hm]
    · rw [hpol]
      exact removePolder_groups
    · rw [queue_congr (AnswersOnly.wq hu), removePolder_queue hp]
    · rw [hsig.ep_reads]
      exact hreads
    · rw [hsig.ep_cached]
      exact hcached
    · rw [hsig.ep_pageReqs]
      exact hreqs
    · rw [AnswersOnly.boot hu, removePolder_area hc]
      exact get_areaWith_same n _ hk
  · refine refuses_ok (fun _ _ => rfl) (hmine hn) fun q x hi hs hbad => ?_
    have hc : (decide (n = 0) || decide ((x.polder n).state ≠ 1)) = true := by
      rcases hbad with h | h <;> simp [h]
    rw [hi, hidx]
    unfold removeAborts
    rw [hc]
    unfold flrBusy
    cases (x.func n).flr <;> rfl
  · refine ⟨_, rfl, if_pos ?_⟩
    rw [polder_advance]
    exact hst

end Sys2Proof
end

section
/-! Restarts of the management cores by the Dike (spec 15 R529, R530, R533, R535, 02 R63, R67, R90, 10 R359). -/

namespace Sys2Proof.Machine
open Sys2Proof

/-! ### Heartbeats -/

theorem heartbeatMs_advance (t : Nat) (s : State) : heartbeatMs (advance t s) = min 50 s.boot.running.heartbeat := by
  unfold heartbeatMs
  rw [advance_boot]

theorem heartbeat_advance (t : Nat) (s : State) : heartbeat t (advance t s) =
    if s.boot.coresUp ∧ s.boot.dikeState = 0 ∧ t ≤ s.boot.hbAt + min 50 s.boot.running.heartbeat * 10 ^ 12 then
      modBoot (fun b => { b with hbAt := t, dikeRun := 0 }) (advance t s)
    else advance t s := by
  unfold heartbeat
  rw [heartbeatMs_advance, advance_boot]

theorem dikeDue_advance (t : Nat) (s : State) : dikeDue t (advance t s) = (s.boot.started && s.boot.coresUp
    && decide (s.boot.dikeState = 0) && !decide (s.boot.actStage ≠ .idle)
    && decide (s.boot.hbAt + min 50 s.boot.running.heartbeat * 10 ^ 12 ≤ t)) := by
  unfold dikeDue activating
  rw [heartbeatMs_advance, advance_boot]

/-! ### Cores that stop -/

/-- An image that is being staged is invalid (15 R527). -/
def unstaged (x : Slot) : Slot := if x.state = 1 then { x with state := 2, other := 1 } else x

/-- Requests of the network get no response any more. -/
def unanswered (p : PendAct) : PendAct := if p.req.session = 0 then p else { p with req := { p.req with session := 65 } }

/-- The dictionary as the cores stop: block transfers and subscriptions end (02 R67, R90). -/
def dictMarked (d : Dict) : Dict :=
  { d with snaps := [], stagings := [], subs := [], outbox := [], acts := d.acts.map unanswered }

/-- The dictionary as the Dike abandons what the cores did. -/
def dictAbandoned (d : Dict) : Dict :=
  { d with
    busyAfter := d.busyAfter ++ (d.acts.filter (fun p => decide (p.req.session = 0))).map (·.req)
    storeStatus := if d.storing.isSome then 2 else d.storeStatus
    storing := none
    acts := (d.acts.filter (fun p => !decide (p.act = .storeAll ∨ p.act = .restoreDefaults ∨ p.act = .interrupted))).map
      (fun p => { p with req := { p.req with session := 65 } }) }

/-- The dictionary as the cores stop for the Dike. -/
def dictStopped (d : Dict) : Dict := dictAbandoned (dictMarked d)

/-- The boot record as the cores stop for the Dike. -/
def bootStopped (b : Boot) : Boot :=
  { b with coresUp := false, dikeRun := b.dikeRun + 1, slots := b.slots.map unstaged }

/-- The part with its cores stopped by the Dike, before it is decided whether they run again. -/
def stopped (s : State) : State :=
  dikeInterrupts (coresStop [] (modBoot (fun b => { b with coresUp := false, dikeRun := b.dikeRun + 1 }) s))

/-- What a stop of the cores by the Dike leaves. -/
structure Stopped (s u : State) : Prop where
  boot : u.boot = bootStopped s.boot
  dict : { u.dict with counters := s.dict.counters } = dictStopped s.dict
  restart : u.mbx.restart = true
  held : u.jrn.held = true
  polders : u.polders = s.polders
  missed : counter u 0x1430 2 = counter s 0x1430 2

section Stop
variable (s : State)

/-- The marks of a stop, before the time base and the journal know of it. -/
def stopMarks (s : State) : State :=
  modMbx (fun m => { m with restart := true }) (modBoot bootStopped (modDict dictMarked s))

theorem stopped_eq : stopped s = dikeInterrupts (journalHold (ptpStops (stopMarks s))) := rfl

theorem counter_journalHold : counter (journalHold s) 0x1430 2 = counter s 0x1430 2 := by
  have hfold : (s.wq.queues.foldl (fun st e =>
      let x := st.queue (e.1 / 1024) (e.1 % 1024)
      if holdable x then st.setQueue (e.1 / 1024) (e.1 % 1024) { x with
        journalHold := true, st := if x.st = .enabled then .held else x.st } else st) s).dict = s.dict := by
    refine foldl_keeps State.dict (fun y e => ?_) _ s
    dsimp only
    split <;> rfl
  have hmod : ∀ (f : Journal → Journal) (y : State), (modJrn f y).dict = y.dict := fun _ _ => rfl
  unfold journalHold
  dsimp only
  rw [count, counter_countQ_other (objKey_ne_of_idx (by decide) (by decide) (by decide))]
  exact counter_congr (congrArg Dict.counters ((hmod _ _).trans hfold)) ..

theorem stopped_spec : Stopped s (stopped s) := by
  have hptp : Frame [.time] (stopMarks s) (ptpStops (stopMarks s)) := Frame.ptpStops (.of_all (by decide)) (.refl _ _)
  have hhold : Frame [.counters, .wq, .jrn, .time] (stopMarks s) (journalHold (ptpStops (stopMarks s))) :=
    Frame.journalHold (.of_all (by decide)) (hptp.mono (.of_all (by decide)))
  have hheld : (journalHold (ptpStops (stopMarks s))).jrn.held = true := congrArg Journal.held (count_only 0x4300 0x16 _).jrn
  have hmissed := counter_journalHold (ptpStops (stopMarks s))
  have hptpc : counter (ptpStops (stopMarks s)) 0x1430 2 = counter s 0x1430 2 :=
    counter_congr (hptp.counters (by decide)) ..
  have hd := hhold.dict (by decide)
  have hb := hhold.boot (by decide)
  have hm := hhold.mbx (by decide)
  have hp := hhold.polders (by decide)
  rw [stopped_eq]
  generalize journalHold (ptpStops (stopMarks s)) = y at hd hb hm hp hheld hmissed
  refine ⟨hb, ?_, congrArg Mailbox.restart hm, hheld, hp, hmissed.trans hptpc⟩
  exact congrArg dictAbandoned hd

end Stop

/-! ### A restart, or a halt -/

/-- From `s` to `u` the Dike noted what it does with the cores. -/
structure DikeNotes (s u : State) : Prop where
  boot : { u.boot with dikeState := s.boot.dikeState, slots := s.boot.slots } = s.boot
  dict : { u.dict with counters := s.dict.counters } = s.dict
  mbx : u.mbx = s.mbx
  jrn : u.jrn = s.jrn
  polders : u.polders = s.polders

theorem DikeNotes.trans {s u v : State} (a : DikeNotes s u) (b : DikeNotes u v) : DikeNotes s v := by
  obtain ⟨a1, a2, a3, a4, a5⟩ := a
  obtain ⟨b1, b2, b3, b4, b5⟩ := b
  refine ⟨?_, ?_, b3.trans a3, b4.trans a4, b5.trans a5⟩
  · exact (congrArg (fun x : Boot => { x with dikeState := s.boot.dikeState, slots := s.boot.slots }) b1).trans a1
  · exact (congrArg (fun x : Dict => { x with counters := s.dict.counters }) b2).trans a2

theorem CountsOnly.dikeNotes {s u : State} (h : CountsOnly s u) : DikeNotes s u := by
  refine ⟨?_, ?_, h.mbx, h.jrn, h.polders⟩
  · rw [h.boot]
  · rw [h.signals.dict]

theorem dikeNotes_modBoot (d : Nat) (l : List Slot) (s : State) :
    DikeNotes s (modBoot (fun b => { b with dikeState := d, slots := l }) s) := ⟨rfl, rfl, rfl, rfl, rfl⟩

theorem dikeNotes_halt (s : State) : DikeNotes s (dikeHalt s) :=
  (dikeNotes_modBoot 2 s.boot.slots s).trans (CountsOnly.dikeNotes (signals_raise 9 _).countsOnly)

theorem dikeNotes_recheck (i reason : Nat) (s : State) : DikeNotes s (recheckSlot i reason s) := by
  unfold recheckSlot
  split
  · exact ⟨rfl, rfl, rfl, rfl, rfl⟩
  · exact dikeNotes_modBoot s.boot.dikeState _ s

/-- The cores stopped for a restart, the running slot read again. -/
def restarting (reason : Nat) (s : State) : State :=
  recheckSlot s.boot.slot reason (raise 8 (count 0x1430 2 (modBoot (fun b => { b with dikeState := 1 }) (stopped s))))

theorem dikeRestart_eq (reason : Nat) (s : State) : dikeRestart reason s =
    if 4 ≤ s.boot.dikeRun then dikeHalt (stopped s)
    else if slotValid (restarting reason s) (restarting reason s).boot.slot then restarting reason s
    else dikeHalt (restarting reason s) := rfl

section Restart
variable {reason : Nat} {s : State}

theorem dikeNotes_restarting (reason : Nat) (s : State) : DikeNotes (stopped s) (restarting reason s) :=
  ((dikeNotes_modBoot 1 (stopped s).boot.slots (stopped s)).trans (CountsOnly.dikeNotes (count_only ..))).trans
    ((CountsOnly.dikeNotes (signals_raise 8 _).countsOnly).trans (dikeNotes_recheck ..))

theorem dikeNotes_restart (reason : Nat) (s : State) : DikeNotes (stopped s) (dikeRestart reason s) := by
  rw [dikeRestart_eq]
  split
  · exact dikeNotes_halt _
  · split
    · exact dikeNotes_restarting ..
    · exact (dikeNotes_restarting ..).trans (dikeNotes_halt _)

/-- What a missed heartbeat leaves, whatever becomes of the cores. -/
structure CoresStopped (s u : State) : Prop where
  coresUp : u.boot.coresUp = false
  dikeRun : u.boot.dikeRun = s.boot.dikeRun + 1
  area : u.boot.area = s.boot.area
  restart : u.mbx.restart = true
  held : u.jrn.held = true
  polders : u.polders = s.polders
  dict : { u.dict with counters := s.dict.counters } = dictStopped s.dict

theorem coresStopped_restart (reason : Nat) (s : State) : CoresStopped s (dikeRestart reason s) := by
  obtain ⟨hb, hd, hr, hh, hp, -⟩ := stopped_spec s
  obtain ⟨nb, nd, nm, nj, np⟩ := dikeNotes_restart reason s
  have hboot := nb.trans hb
  refine ⟨(congrArg Boot.coresUp hboot :), (congrArg Boot.dikeRun hboot :), (congrArg Boot.area hboot :), by rw [nm, hr],
    by rw [nj, hh], np.trans hp, ?_⟩
  exact (congrArg (fun x : Dict => { x with counters := s.dict.counters }) nd).trans hd

theorem mem_busyAfter {d : Dict} {p : PendAct} (hp : p ∈ d.acts) (h0 : p.req.session = 0) :
    p.req ∈ (dictStopped d).busyAfter := by
  have hun : unanswered p = p := if_pos h0
  refine List.mem_append_right _ (List.mem_map_of_mem (List.mem_filter.mpr ⟨?_, decide_eq_true h0⟩))
  exact hun ▸ List.mem_map_of_mem (f := unanswered) hp

theorem counter_restarting (reason : Nat) (s : State) :
    counter (restarting reason s) 0x1430 2 = satAdd64 (counter s 0x1430 2) 1 := by
  have hre : ∀ (i : Nat) (y : State), counter (recheckSlot i reason y) 0x1430 2 = counter y 0x1430 2 := fun i y =>
    counter_congr ((Frame.recheckSlot (l := [.boot]) (.of_all (by decide)) (.refl _ y) i reason).counters (by decide)) ..
  have hmod : ∀ (f : Boot → Boot) (y : State), counter (modBoot f y) 0x1430 2 = counter y 0x1430 2 := fun _ _ => rfl
  unfold restarting
  rw [hre, (signals_raise 8 _).counter, count, counter_countQ, hmod, (stopped_spec s).missed]

theorem evtStat_recheck (i reason g : Nat) (s : State) : evtStat (recheckSlot i reason s) g = evtStat s g := by
  unfold recheckSlot
  split <;> rfl

theorem restarting_raises (reason : Nat) (s : State) : (evtStat (restarting reason s) 0).testBit 8 = true := by
  unfold restarting
  rw [evtStat_recheck]
  exact raise_sets (n := 8) (by decide) _

theorem halt_raises (s : State) : (evtStat (dikeHalt s) 0).testBit 9 = true := raise_sets (n := 9) (by decide) _

theorem halt_state (s : State) : (dikeHalt s).boot.dikeState = 2 :=
  congrArg Boot.dikeState (raise_boot (s := modBoot (fun b => { b with dikeState := 2 }) s) 9)

theorem counter_halt (s : State) : counter (dikeHalt s) 0x1430 2 = counter s 0x1430 2 := (signals_raise 9 _).counter ..

theorem statGrows_halt (s : State) : StatGrows s (dikeHalt s) :=
  StatGrows.trans (t := modBoot (fun b => { b with dikeState := 2 }) s) (.of_eq rfl rfl) (statGrows_raise ..)

theorem dikeRestart_counts (h : s.boot.dikeRun < 4) :
    counter (dikeRestart reason s) 0x1430 2 = satAdd64 (counter s 0x1430 2) 1
      ∧ (evtStat (dikeRestart reason s) 0).testBit 8 = true := by
  rw [dikeRestart_eq, if_neg (by omega)]
  split
  · exact ⟨counter_restarting .., restarting_raises ..⟩
  · exact ⟨(counter_halt _).trans (counter_restarting ..), (statGrows_halt _).bits 0 8 (restarting_raises ..)⟩

theorem slotState_unstaged (r : Nat) (x : Slot) : slotState r (unstaged x) = 2 ↔ slotState r x = 2 := by
  unfold unstaged
  by_cases h : x.state = 1
  · have hreason : slotReason r { x with state := 2, other := 1 } = 1 := rfl
    rw [if_pos h]
    simp [slotState, h, hreason]
  · rw [if_neg h]

theorem boot_restarting (reason : Nat) (s : State) :
    (restarting reason s).boot.slot = s.boot.slot ∧ (restarting reason s).boot.rollback = s.boot.rollback := by
  have hboot := (dikeNotes_restarting reason s).boot.trans (stopped_spec s).boot
  exact ⟨(congrArg Boot.slot hboot :), (congrArg Boot.rollback hboot :)⟩

/-- The boot record just before the running slot is read again. -/
theorem slots_raised (s : State) : (raise 8 (count 0x1430 2 (modBoot (fun b => { b with dikeState := 1 }) (stopped s)))).boot
    = { (stopped s).boot with dikeState := 1 } := by
  rw [raise_boot]
  exact (count_only ..).boot

/-- The slot that ran is valid after the restart as before it, where its image still reads as it did. -/
theorem slotValid_restarting (s : State) : slotValid (restarting 0 s) (restarting 0 s).boot.slot = slotValid s s.boot.slot := by
  obtain ⟨hslot, hroll⟩ := boot_restarting 0 s
  have hslots : (restarting 0 s).boot.slots = s.boot.slots.map unstaged := by
    unfold restarting recheckSlot
    rw [if_pos rfl, slots_raised]
    exact congrArg Boot.slots (stopped_spec s).boot
  have herased : unstaged Slot.erased = Slot.erased := rfl
  unfold slotValid slotNo
  rw [hslot, hroll, hslots, ← herased, List.getD_map, herased]
  exact decide_eq_decide.mpr (slotState_unstaged ..)

/-- A slot whose image fails its check is not valid. -/
theorem slotValid_failing (hr : reason ≠ 0) (hlen : s.boot.slots.length = 2) (hslot : s.boot.slot ≤ 1) :
    slotValid (restarting reason s) (restarting reason s).boot.slot = false := by
  obtain ⟨hsame, -⟩ := boot_restarting reason s
  have hslots : ∃ x : Slot, x.state = 2 ∧ x.other = reason
      ∧ (restarting reason s).boot.slots = (s.boot.slots.map unstaged).set s.boot.slot x := by
    unfold restarting recheckSlot
    rw [if_neg hr]
    have hb : ∀ (x : Slot) (y : State), (setSlot s.boot.slot x y).boot.slots = y.boot.slots.set s.boot.slot x := fun _ _ => rfl
    refine ⟨{ slotNo (raise 8 (count 0x1430 2 (modBoot (fun b => { b with dikeState := 1 }) (stopped s)))) s.boot.slot with
      state := 2, other := reason }, rfl, rfl, ?_⟩
    rw [hb, slots_raised]
    exact congrArg (fun b : Boot => b.slots.set s.boot.slot _) (stopped_spec s).boot
  obtain ⟨x, hst, hoth, hslots⟩ := hslots
  have hget : slotNo (restarting reason s) s.boot.slot = x := by
    unfold slotNo
    rw [hslots, List.getD_eq_getElem?_getD, List.getElem?_set_self (by rw [List.length_map, hlen]; omega)]
    rfl
  have hreason : ∀ r, slotReason r x ≠ 0 := fun r => by
    unfold slotReason
    rw [hoth]
    split
    · exact hr
    · split
      · decide
      · exact hr
  unfold slotValid
  rw [hsame, hget]
  simp [slotState, hst, hreason]

theorem dikeRestart_runs (h : s.boot.dikeRun < 4) (hv : slotValid s s.boot.slot = true) :
    (dikeRestart 0 s).boot.dikeState = 1 := by
  rw [dikeRestart_eq, if_neg (by omega), slotValid_restarting, hv, if_pos rfl]
  unfold restarting recheckSlot
  rw [if_pos rfl, slots_raised]

theorem dikeRestart_halts (hlen : s.boot.slots.length = 2) (hslot : s.boot.slot ≤ 1)
    (h : 4 ≤ s.boot.dikeRun ∨ slotValid s s.boot.slot = false ∨ reason ≠ 0) :
    (dikeRestart reason s).boot.dikeState = 2 ∧ (evtStat (dikeRestart reason s) 0).testBit 9 = true := by
  by_cases h4 : 4 ≤ s.boot.dikeRun
  · rw [dikeRestart_eq, if_pos h4]
    exact ⟨halt_state _, halt_raises _⟩
  · have hv : slotValid (restarting reason s) (restarting reason s).boot.slot = false := by
      by_cases hr : reason = 0
      · subst hr
        rw [slotValid_restarting]
        exact (h.resolve_left h4).resolve_right (not_not.mpr rfl)
      · exact slotValid_failing hr hlen hslot
    rw [dikeRestart_eq, if_neg h4, hv, if_neg (by decide)]
    exact ⟨halt_state _, halt_raises _⟩

end Restart

/-! ### A polder change that the restart interrupts (10 R359) -/

theorem advance_again (t : Nat) (s : State) : advance t (advance t s) = advance t s := by
  have h : ¬ (advance t s).clock < t := by
    rw [advance_clock]
    omega
  rw [advance, if_neg h]

/-- The dictionary and the mailbox with an interrupted request noted. -/
def noteInterrupted (h : ReqHead) (s : State) : State :=
  modDict (fun d => { d with acts := d.acts ++ [{ act := .interrupted, req := h, repeats := 0 }] })
    (modMbx (fun m => { m with accepted := none }) s)

/-- An action that nothing refuses is carried out. -/
theorem action_go {own : Req → State → List Nat} {go : Handler} {q : Req} {s : State} (hg : actionAborts q = [])
    (ho : own q s = []) (ha : isAction q.msg.index q.msg.sub = true) : action own go q s = go q s := by
  simp [action, hg, ho, ha, firstAbort_nil]

section During
variable {t n : Nat} {f stored : Bool} {b : Bytes} {s : State}

theorem commitReq_go {q : Req} (hidx : q.msg.index = 0x3000 + n) (hsub : q.msg.sub = 0x10)
    (ha : isAction (0x3000 + n) 0x10 = true) (hg : actionAborts q = []) (hfl : q.flash = true)
    (ho : commitAborts s true n = []) : commitReq q s = (commitPolder q.origin n s, .done) := by
  have hn : q.msg.index - 0x3000 = n := by omega
  unfold commitReq
  rw [action_go hg (by rw [hfl, hn]; exact ho) (by rw [hidx, hsub]; exact ha), hn]

/-- A Commit that the mailbox asks for, as the restart finds it. -/
theorem fdpServe_interrupted (hn : n < 4096) (ha : Asks (advance t s) b (0x3000 + n) 0x10)
    (ho : commitAborts (advance t s) true n = []) :
    fdpServe polderChange (interrupted stored) (fun _ st => st) ⟨t, .mailbox, f⟩ (advance t s)
      = noteInterrupted (reqHead (mbxReq (advance t s) f b))
          (if stored then commitPolder (mbxReq (advance t s) true b).origin n (advance t s) else advance t s) := by
  obtain ⟨hr, horph, hacc, hboot, hkind, hidx, hsub, hact, hg⟩ := ha
  have hq : ∀ fl, (mbxReq (advance t s) fl b).msg = parseMsg b 0 := fun _ => rfl
  have hmine : polderChange (mbxReq (advance t s) f b).msg = true := by
    have hpol : polderIdx 0x10 (0x3000 + n) 0x10 = true := decide_eq_true ⟨by omega, by omega, rfl⟩
    simp [polderChange, hq, hkind, hidx, hsub, hpol]
  have hguard : guarded (interrupted stored) (mbxReq (advance t s) f b) (advance t s)
      = interrupted stored (mbxReq (advance t s) f b) (advance t s) := by
    unfold guarded
    rw [if_neg]
    intro h
    simp only [Bool.and_eq_true, decide_eq_true_eq, Bool.not_eq_true', hq] at h
    exact absurd (hboot h.1) (by simp [h.2])
  have hchange : (polderChangeReq { mbxReq (advance t s) f b with flash := true } (advance t s)).1
      = commitPolder (mbxReq (advance t s) true b).origin n (advance t s) := by
    have hreq : ({ mbxReq (advance t s) f b with flash := true } : Req) = mbxReq (advance t s) true b := rfl
    unfold polderChangeReq
    rw [hreq, if_neg (by rw [hq, hkind]; decide), if_pos (by rw [hq, hsub]),
      commitReq_go (hq true ▸ hidx) (hq true ▸ hsub) hact hg rfl ho]
  unfold fdpServe
  dsimp only
  rw [advance_again]
  unfold mbxServe
  rw [if_neg (by rw [hr]; decide), horph, hacc]
  dsimp only
  rw [if_neg (by simp [hmine]), hguard]
  unfold interrupted
  dsimp only
  rw [hchange]
  rfl

theorem stagedCounts_advance (t n : Nat) (s : State) : stagedCounts (advance t s) n = stagedCounts s n := by
  have hat : ∀ idx sub len i, cfgAt (advance t s) idx sub len i = cfgAt s idx sub len i := fun _ _ _ _ => by
    simp only [cfgAt, cfg_advance]
  unfold stagedCounts
  simp only [cfgN_advance]
  exact congrArg (fun l => Counts.mk _ _ _ _ _ _ _ l) (List.map_congr_left fun i _ => hat ..)

theorem runs_interrupted {reason : Nat} (hc : Canonical s) (hn : n < 4096) (hdue : dikeDue t (advance t s) = true)
    (ha : Asks (advance t s) b (0x3000 + n) 0x10) (ho : commitAborts (advance t s) true n = []) :
    Runs (.dikeHeartbeatTimeout ⟨t, reason, some (⟨t, .mailbox, f⟩, stored)⟩) s (fun u =>
      u.boot.coresUp = false ∧ u.mbx.restart = true ∧ reqHead (mbxReq (advance t s) f b) ∈ u.dict.busyAfter
      ∧ (stored = false → u.polders = s.polders ∧ u.boot.area = s.boot.area)
      ∧ (stored = true → (u.polder n).state = 1 ∧ (u.polder n).gen = (s.polder n).gen + 1
          ∧ (u.polder n).counts = stagedCounts s n)) := by
  have hserve := fdpServe_interrupted (f := f) (stored := stored) hn ha ho
  have hrun : dikeHeartbeatTimeout t reason (some (⟨t, .mailbox, f⟩, stored)) (advance t s)
      = dikeRestart reason (noteInterrupted (reqHead (mbxReq (advance t s) f b))
          (if stored then commitPolder (mbxReq (advance t s) true b).origin n (advance t s) else advance t s)) := by
    unfold dikeHeartbeatTimeout
    rw [if_neg (by simp [hdue])]
    exact congrArg (dikeRestart reason) hserve
  have hstop := coresStopped_restart reason (noteInterrupted (reqHead (mbxReq (advance t s) f b))
    (if stored then commitPolder (mbxReq (advance t s) true b).origin n (advance t s) else advance t s))
  have hmem := mem_busyAfter (d := (noteInterrupted (reqHead (mbxReq (advance t s) f b))
    (if stored then commitPolder (mbxReq (advance t s) true b).origin n (advance t s) else advance t s)).dict)
    (p := { act := .interrupted, req := reqHead (mbxReq (advance t s) f b), repeats := 0 })
    (List.mem_append_right _ (List.mem_singleton.mpr rfl)) rfl
  have hnote : ∀ (h : ReqHead) (y : State), (noteInterrupted h y).polders = y.polders
      ∧ (noteInterrupted h y).boot = y.boot := fun _ _ => ⟨rfl, rfl⟩
  refine ⟨_, congrArg Host.Outcome.next hrun, hstop.coresUp, hstop.restart, ?_, fun hs => ?_, fun hs => ?_⟩
  · have hb := congrArg Dict.busyAfter hstop.dict
    exact hb ▸ hmem
  · obtain ⟨hp, hb⟩ := hnote (reqHead (mbxReq (advance t s) f b)) (advance t s)
    subst hs
    rw [hstop.polders, hstop.area]
    exact ⟨hp.trans (advance_polders ..), congrArg Boot.area (hb.trans (advance_boot ..))⟩
  · subst hs
    have hlog := commitPolder_logs (n := n) (mbxReq (advance t s) true b).origin (canonical_advance t hc)
    obtain ⟨hp, -⟩ := hnote (reqHead (mbxReq (advance t s) f b))
      (commitPolder (mbxReq (advance t s) true b).origin n (advance t s))
    have hpol : (dikeRestart reason (noteInterrupted (reqHead (mbxReq (advance t s) f b))
        (commitPolder (mbxReq (advance t s) true b).origin n (advance t s)))).polders = (committed n (advance t s)).polders :=
      hstop.polders.trans (hp.trans (hlog.polders.trans (commitStored_polders ..)))
    simp only [if_true]
    rw [polder_congr hpol, polder_committed_same (canonical_advance t hc), stagedCounts_advance, polder_advance]
    exact ⟨rfl, rfl, rfl⟩

end During

end Sys2Proof.Machine
end

section
/-! The cores run again, and the statement about restarts by the Dike (spec 15 R529, R533, 02 R63, R67, R90). -/

namespace Sys2Proof.Machine
open Sys2Proof

/-! ### The measurement log -/

/-- The boot record without its measurement log. -/
def beyondLog (s : State) : Boot := { s.boot with log := [], logOverflow := false }

theorem beyondLog_appendLog (kind seq : Nat) (digest : Bytes) (s : State) :
    beyondLog (appendLog kind seq digest s) = beyondLog s := by
  unfold beyondLog appendLog modBoot
  dsimp only
  split <;> rfl

theorem beyondLog_logImage (h : ImgHdr) (s : State) : beyondLog (logImage h s) = beyondLog s := by
  unfold logImage
  exact (forEach_keeps beyondLog (fun (e : (Nat × Bytes) × Nat) y => beyondLog_appendLog 4 e.2 e.1.2 y) _ _).trans
    (beyondLog_appendLog ..)

theorem appendLog_log (kind seq : Nat) (digest : Bytes) (s : State) : (appendLog kind seq digest s).boot.log =
    if s.boot.log.length < 48 then s.boot.log ++ [{ kind := kind, seq := seq, digest := digest }] else s.boot.log := by
  unfold appendLog modBoot
  dsimp only
  split <;> rfl

/-- An entry of the log stays where it is. -/
theorem appendLog_keeps {i : Nat} {x : Measure} {s : State} (h : s.boot.log[i]? = some x) (kind seq : Nat) (digest : Bytes) :
    (appendLog kind seq digest s).boot.log[i]? = some x := by
  rw [appendLog_log]
  split
  · rw [List.getElem?_append_left ((List.getElem?_eq_some_iff.mp h).elim fun hi _ => hi), h]
  · exact h

theorem logImage_keeps {i : Nat} {x : Measure} {s : State} (h : s.boot.log[i]? = some x) (hdr : ImgHdr) :
    (logImage hdr s).boot.log[i]? = some x := by
  have hfold : ∀ (l : List ((Nat × Bytes) × Nat)) (y : State), y.boot.log[i]? = some x →
      (forEach l (fun e st => appendLog 4 e.2 e.1.2 st) y).boot.log[i]? = some x := by
    intro l
    induction l with
    | nil => exact fun _ hy => hy
    | cons e l ih => exact fun y hy => ih (appendLog 4 e.2 e.1.2 y) (appendLog_keeps hy ..)
  exact hfold _ _ (appendLog_keeps h ..)

/-! ### The cores run again -/

theorem restart_mbxHeader {s : State} (h : s.mbx.restart = false) : (mbxHeader s).mbx.restart = false := by
  have hcount : ∀ (l : List Bytes) (y : State), (forEach l (fun _ st => count 0x1110 4 st) y).mbx = y.mbx :=
    forEach_keeps State.mbx (fun _ y => (count_only 0x1110 4 y).mbx)
  have hres : ∀ (y : State) (m : Msg), (mbxRespond flagAbort m.kind m.reqId m.index m.sub 0 aTYPE 0 [] y).mbx.restart
      = y.mbx.restart := fun y m => by rw [mbxRespond_mbx]
  unfold mbxHeader
  rw [if_neg (by simp [h])]
  dsimp only
  split
  · exact (congrArg Mailbox.restart (hcount ..)).trans h
  · split
    · rw [hres, (count_only ..).mbx]
      exact (congrArg Mailbox.restart (hcount ..)).trans h
    · exact (congrArg Mailbox.restart (hcount ..)).trans h

/-- Without a request, the mailbox keeps its response. -/
theorem mbxHeader_idle {s : State} (h : s.mbx.restart = false) (ha : s.mbx.accepted = none) :
    (mbxHeader s).mbx = { s.mbx with orphans := s.mbx.orphans.filter (fun b => !badHeader b) } := by
  have hcount : ∀ (l : List Bytes) (y : State), (forEach l (fun _ st => count 0x1110 4 st) y).mbx = y.mbx :=
    forEach_keeps State.mbx (fun _ y => (count_only 0x1110 4 y).mbx)
  unfold mbxHeader
  rw [if_neg (by simp [h])]
  dsimp only
  split
  · exact hcount ..
  next b hb =>
    rw [hcount] at hb
    exact absurd (ha.symm.trans hb) (by simp)

/-- The cores run, before the requests that waited are answered. -/
def coresStarted (t : Nat) (s : State) : State :=
  modDict (fun d => { d with busyAfter := [] }) (modMbx (fun m => { m with restart := false })
    (modBoot (fun b => { b with coresUp := decide (b.bootStatus ≠ 2), hbAt := t }) s))

theorem coresRun_eq (t : Nat) (s : State) : coresRun t s =
    mbxHeader (forEach s.dict.busyAfter (fun h st => answer h flagAbort aBUSY 0 0 [] st) (coresStarted t s)) := rfl

/-- What the cores leave as they run again. -/
structure CoresRun (t : Nat) (s u : State) : Prop where
  boot : u.boot = { s.boot with coresUp := decide (s.boot.bootStatus ≠ 2), hbAt := t }
  restart : u.mbx.restart = false
  busyAfter : u.dict.busyAfter = []
  jrn : u.jrn = s.jrn

theorem coresRun_spec (t : Nat) (s : State) : CoresRun t s (coresRun t s) := by
  have hrep : Replies (coresStarted t s)
      (forEach s.dict.busyAfter (fun h st => answer h flagAbort aBUSY 0 0 [] st) (coresStarted t s)) :=
    replies_foldl _ (fun y h => replies_answer h flagAbort aBUSY 0 0 [] y) _
  rw [coresRun_eq]
  generalize forEach s.dict.busyAfter (fun h st => answer h flagAbort aBUSY 0 0 [] st) (coresStarted t s) = y at hrep
  have hhead : Frame [.counters, .mbx] y (mbxHeader y) := Frame.mbxHeader (.of_all (by decide)) (.refl _ y)
  have hbusy : (mbxHeader y).dict.busyAfter = y.dict.busyAfter := (congrArg Dict.busyAfter (hhead.dict (by decide)) :)
  exact ⟨(hhead.boot (by decide)).trans (hrep.frame.boot (by decide)), restart_mbxHeader hrep.restart,
    hbusy.trans hrep.busyAfter, (hhead.jrn (by decide)).trans (hrep.frame.jrn (by decide))⟩

/-- One mailbox request that waited is answered BUSY. -/
theorem coresRun_answers {t : Nat} {s : State} {h : ReqHead} (hs : s.dict.busyAfter = [h]) (h0 : h.session = 0) :
    (coresRun t s).mbx.busy = false ∧ (coresRun t s).mbx.done = true
      ∧ (coresRun t s).mbx.rsp = wordsOf (buildMsg 3 h.kind 28 0 h.reqId (coresRun t s).dict.epoch 0 h.index h.sub 0 9 0 []) := by
  have hone : forEach [h] (fun h st => answer h flagAbort aBUSY 0 0 [] st) (coresStarted t s)
      = mbxRespond 3 h.kind h.reqId h.index h.sub 0 9 0 [] (coresStarted t s) := by
    show answer h flagAbort aBUSY 0 0 [] (coresStarted t s) = _
    unfold answer
    exact if_pos h0
  have hmbx := mbxRespond_mbx 3 h.kind h.reqId h.index h.sub 0 9 0 [] (coresStarted t s)
  have hdict := mbxRespond_dict 3 h.kind h.reqId h.index h.sub 0 9 0 [] (coresStarted t s)
  rw [coresRun_eq, hs, hone]
  generalize mbxRespond 3 h.kind h.reqId h.index h.sub 0 9 0 [] (coresStarted t s) = y at hmbx hdict
  have hhead : Frame [.counters, .mbx] y (mbxHeader y) := Frame.mbxHeader (.of_all (by decide)) (.refl _ y)
  have hkeep : (mbxHeader y).dict.epoch = y.dict.epoch := (congrArg Dict.epoch (hhead.dict (by decide)) :)
  have hepoch : (mbxHeader y).dict.epoch = (coresStarted t s).dict.epoch := by rw [hkeep, hdict]
  have hres : y.mbx.restart = false := congrArg Mailbox.restart hmbx
  have hacc : y.mbx.accepted = none := congrArg Mailbox.accepted hmbx
  have hbusy : y.mbx.busy = false := congrArg Mailbox.busy hmbx
  have hdone : y.mbx.done = true := congrArg Mailbox.done hmbx
  have hrsp := congrArg Mailbox.rsp hmbx
  dsimp only at hrsp
  rw [List.length_nil, Nat.add_zero] at hrsp
  rw [hepoch, mbxHeader_idle hres hacc]
  exact ⟨hbusy, hdone, hrsp⟩

theorem journalRelease_jrn (fail : Option Nat) (s : State) : (journalRelease fail s).jrn =
    { s.jrn with held := false, state := if s.jrn.state = 2 then 1 else s.jrn.state } := by
  have hfinish : ∀ (fn q first st res : Nat) (y : State), (finishChain fn q first st res y).jrn = y.jrn :=
    fun fn q first st res y =>
      (Frame.finishChain (l := [.wq]) (.of_all (by decide)) (.refl _ y) fn q first st res).jrn (by decide)
  have hcap : ∀ (g m st : Nat) (y : State), (capRespond g m st 0 y).jrn = y.jrn := fun g m st y =>
    (Frame.capRespond (l := [.siphon]) (.of_all (by decide)) (.refl _ y) g m st 0).jrn (by decide)
  have hset : ∀ (fn q : Nat) (x : Queue) (y : State), (y.setQueue fn q x).jrn = y.jrn := fun _ _ _ _ => rfl
  cases fail with
  | none =>
    refine (foldl_keeps State.jrn (fun y e => ?_) _ _).trans rfl
    dsimp only
    split
    · rfl
    · rfl
  | some code =>
    refine (foldl_keeps State.jrn (fun y e => forEach_keeps State.jrn (fun x z => hcap ..) _ y) _ _).trans
      ((foldl_keeps State.jrn (fun y e => ?_) _ _).trans rfl)
    dsimp only
    split
    · rw [forEach_keeps State.jrn (fun c z => hfinish ..), hset]
    · rfl

/-- The cores run again and the journal goes on. -/
def resumed (t : Nat) (fail : Option Nat) (s : State) : State := journalRelease fail (coresRun t s)

/-- What a restart leaves once it is complete. -/
structure Resumed (t : Nat) (s u : State) : Prop where
  boot : u.boot = { s.boot with coresUp := decide (s.boot.bootStatus ≠ 2), hbAt := t }
  restart : u.mbx.restart = false
  held : u.jrn.held = false
  busyAfter : u.dict.busyAfter = []

theorem frame_released (t : Nat) (fail : Option Nat) (s : State) : Frame [.wq, .siphon, .jrn] (coresRun t s) (resumed t fail s) :=
  Frame.journalRelease (.of_all (by decide)) (.refl _ _) fail

theorem resumed_spec (t : Nat) (fail : Option Nat) (s : State) : Resumed t s (resumed t fail s) := by
  obtain ⟨hb, hr, hbusy, -⟩ := coresRun_spec t s
  have hf := frame_released t fail s
  have hdict : (resumed t fail s).dict.busyAfter = (coresRun t s).dict.busyAfter := by
    have h := congrArg Dict.busyAfter (hf.dict (by decide))
    exact h
  exact ⟨(hf.boot (by decide)).trans hb, (congrArg Mailbox.restart (hf.mbx (by decide))).trans hr,
    congrArg Journal.held (journalRelease_jrn ..), hdict.trans hbusy⟩

section Complete
variable {t : Nat} {s : State}

theorem coreRestart_failed (h : s.boot.actStage = .failed) : ∃ z, coreRestartComplete t (advance t s)
    = resumed t (some stABORTED_ACTIVATION) z
    ∧ beyondLog z = { beyondLog s with actStage := .idle, dikeRun := 0 } := by
  have hstage : (advance t s).boot.actStage = .failed := by rwa [advance_boot]
  have hidle : beyondLog (modBoot (fun b => { b with actStage := .idle, dikeRun := 0 }) (advance t s))
      = { beyondLog s with actStage := .idle, dikeRun := 0 } := by
    unfold beyondLog
    rw [modBoot_boot, advance_boot]
  refine ⟨_, if_pos hstage, ?_⟩
  split
  · exact hidle
  · exact (beyondLog_logImage ..).trans hidle

theorem coreRestart_dike (h : s.boot.actStage ≠ .failed) (hd : s.boot.dikeState = 1) :
    ∃ z, coreRestartComplete t (advance t s) = resumed t none z ∧ beyondLog z = { beyondLog s with dikeState := 0 }
      ∧ z.dict = s.dict ∧ (s.boot.log.length < 48 → z.boot.log[s.boot.log.length]?
        = some { kind := 9, seq := 0, digest := s.boot.running.digest }) := by
  have hstage : ¬ (advance t s).boot.actStage = .failed := by rwa [advance_boot]
  have hdike : (advance t s).boot.dikeState = 1 := by rwa [advance_boot]
  refine ⟨_, (if_neg hstage).trans (if_pos hdike), ?_, ?_, fun hlen => ?_⟩
  · rw [beyondLog_logImage, beyondLog_appendLog]
    unfold beyondLog
    rw [modBoot_boot, advance_boot]
  · have hf : Frame [.boot] (advance t s) (logImage (advance t s).boot.running (appendLog 9 0 (advance t s).boot.running.digest
        (modBoot (fun b => { b with dikeState := 0 }) (advance t s)))) :=
      Frame.logImage (.of_all (by decide)) (Frame.appendLog (.of_all (by decide)) (Frame.modBoot (.of_all (by decide))
        (.refl _ _)) _ _ _) _
    have hc := hf.counters (by decide)
    have hd := hf.dict (by decide)
    rw [← hc] at hd
    exact hd.trans (advance_dict ..)
  · refine logImage_keeps ?_ _
    rw [appendLog_log, modBoot_boot, advance_boot, if_pos hlen, List.getElem?_append_right (le_refl _), Nat.sub_self]
    rfl

end Complete

end Sys2Proof.Machine

namespace Sys2Proof
open Machine

/-- Settles O54: a stop of the cores is marked in boot record, dictionary and mailbox alone; the running slot is read again
and decides between restart and halt; a change whose record was stored is a Commit. -/
theorem dikeRestarts : Obligations.DikeRestarts := by
  refine ⟨fun t s hup hd => ⟨fun hle => ⟨_, rfl, ?_⟩, fun hlt => ⟨_, rfl, ?_⟩⟩, fun t s h => ⟨_, rfl, ?_⟩,
    fun t reason s hst hup hd hidle => ⟨fun d hlt => ⟨_, rfl, ?_⟩, fun hle hlen hslot => ?_⟩,
    fun t reason n f stored b s hc hn hst hup hd hidle hle ha ho => runs_interrupted hc hn ?_ ha ho,
    fun t reason d s h => ⟨_, rfl, ?_⟩, fun t s h => ?_, fun t s h hd => ?_, fun t s h hd => ⟨_, rfl, ?_⟩⟩
  · rw [heartbeat_advance, if_pos ⟨hup, hd, hle⟩]
  · rw [heartbeat_advance, if_neg]
    rintro ⟨-, -, hle⟩
    omega
  · rw [heartbeat_advance, if_neg]
    rintro ⟨hup, hd, -⟩
    rcases h with h | h
    · simp [h] at hup
    · exact h hd
  · refine if_pos ?_
    rw [dikeDue_advance, decide_eq_false (Nat.not_le.mpr hlt)]
    simp
  · have hdue : dikeDue t (advance t s) = true := by
      rw [dikeDue_advance, hst, hup, hd, hidle, decide_eq_true hle]
      rfl
    have hrun : dikeHeartbeatTimeout t reason none (advance t s) = dikeRestart reason (advance t s) := by
      unfold dikeHeartbeatTimeout
      rw [if_neg (by simp [hdue])]
    have hstop := coresStopped_restart reason (advance t s)
    have hslots : (advance t s).boot = s.boot := advance_boot ..
    have hdict := hstop.dict
    have hv : slotValid (advance t s) (advance t s).boot.slot = slotValid s s.boot.slot := by
      unfold slotValid slotNo
      rw [hslots]
    have hcount : counter (advance t s) 0x1430 2 = counter s 0x1430 2 := counter_congr (congrArg Dict.counters (advance_dict ..)) ..
    rw [advance_dict] at hdict
    refine ⟨_, congrArg Host.Outcome.next hrun, hstop.coresUp, ?_, hstop.restart, hstop.held, ?_, ?_, ?_, ?_, ?_, ?_, ?_, ?_, ?_,
      ?_, ?_⟩
    · rw [hstop.dikeRun, hslots]
    · exact (congrArg Dict.subs hdict :)
    · exact (congrArg Dict.snaps hdict :)
    · exact (congrArg Dict.stagings hdict :)
    · exact (congrArg Dict.outbox hdict :)
    · rw [hstop.polders, advance_polders]
    · exact (congrArg Dict.storing hdict :)
    · intro hs
      exact (congrArg Dict.storeStatus hdict :).trans (if_pos hs)
    · intro p hp h0
      exact (congrArg Dict.busyAfter hdict :) ▸ mem_busyAfter hp h0
    · intro hlt
      rw [← hslots] at hlt
      rw [← hcount]
      exact dikeRestart_counts hlt
    · intro hlt hvalid hr
      rw [← hslots] at hlt
      subst hr
      exact dikeRestart_runs hlt (hv.trans hvalid)
    · intro h
      rw [← hslots] at hlen hslot
      rw [← hv, ← hslots] at h
      exact dikeRestart_halts hlen hslot h
  · rw [dikeDue_advance, hst, hup, hd, hidle, decide_eq_true hle]
    rfl
  · refine if_pos ?_
    rw [dikeDue_advance]
    rcases h with h | h | h | h <;> simp [h]
  · obtain ⟨z, hrun, hz⟩ := coreRestart_failed (t := t) h
    obtain ⟨hb, hr, hh, -⟩ := resumed_spec t (some stABORTED_ACTIVATION) z
    refine ⟨_, congrArg Host.Outcome.next hrun, ?_, ?_, ?_, ?_, ?_, ?_, hr, hh⟩
    · exact (congrArg Boot.actStage hb :).trans (congrArg Boot.actStage hz :)
    · exact (congrArg Boot.dikeRun hb :).trans (congrArg Boot.dikeRun hz :)
    · exact (congrArg Boot.hbAt hb :)
    · exact (congrArg Boot.coresUp hb :).trans (congrArg (fun x : Boot => decide (x.bootStatus ≠ 2)) hz :)
    · exact (congrArg Boot.slot hb :).trans (congrArg Boot.slot hz :)
    · exact (congrArg Boot.running hb :).trans (congrArg Boot.running hz :)
  · obtain ⟨z, hrun, hz, hdict, hlog⟩ := coreRestart_dike (t := t) h hd
    obtain ⟨hb, hr, hh, hbusy⟩ := resumed_spec t none z
    have hf := frame_released t none z
    refine ⟨_, congrArg Host.Outcome.next hrun, ?_, ?_, ?_, ?_, ?_, hr, hh, hbusy, fun hlen => ?_, fun hd hbusy h0 => ?_⟩
    · exact (congrArg Boot.dikeState hb :).trans (congrArg Boot.dikeState hz :)
    · exact (congrArg Boot.dikeRun hb :).trans (congrArg Boot.dikeRun hz :)
    · exact (congrArg Boot.hbAt hb :)
    · exact (congrArg Boot.coresUp hb :).trans (congrArg (fun x : Boot => decide (x.bootStatus ≠ 2)) hz :)
    · exact (congrArg Boot.running hb :).trans (congrArg Boot.running hz :)
    · have hkeep : (resumed t none z).boot.log = z.boot.log := (congrArg Boot.log hb :)
      rw [hkeep]
      exact hlog hlen
    · have hepoch : (resumed t none z).dict.epoch = (coresRun t z).dict.epoch := by
        have h := congrArg Dict.epoch (hf.dict (by decide))
        exact h
      rw [hf.mbx (by decide), hepoch]
      exact coresRun_answers (by rw [hdict]; exact hbusy) h0
  · have hstage : ¬ (advance t s).boot.actStage = .failed := by rwa [advance_boot]
    have hdike : ¬ (advance t s).boot.dikeState = 1 := by rwa [advance_boot]
    exact (if_neg hstage).trans (if_neg hdike)

end Sys2Proof
end

section
/-! A vector that is unmasked with a message pending sends it at once, but not every state then has that vector free of
a pending message: the message is counted, a device counter that overflows by it raises an event, and the event's own
message may be one that waits. The statement of the configuration requests says otherwise: its clause on the unmasking
of a pending vector asks nothing of the counters, the events and the other functions. -/

namespace Sys2Proof.Machine
open Sys2Proof

/-- Function 1 is a VF in service with a message pending on its vector 0; function 0 has MSI-X enabled, but may not
send. A device counter of the messages is full and interrupts when it overflows; the group of its event goes to vector
2048 of function 0, which is the entry of vector 0 of function 1. -/
def fullCounterEp : Endpoint :=
  { Endpoint.reset with
    link := 2, vfEnable := true, numVfs := 1
    funcs := [(0, { Func.reset with msixEnable := true }),
      (1, { Func.reset with memSpace := true, busMaster := true, msixEnable := true, rrs := false })]
    msix := [(2048, { MsixEntry.reset with pending := true })] }

def fullCounterEvt : Events :=
  { Events.reset with
    mask := [(0, 0x800#32)], vector := [(0, 2048)]
    ctrs := [(0, { sel := 0x5342#32, value := 2 ^ 48 - 1, latch := 0 })] }

def fullCounter : State := { State.reset with ep := fullCounterEp, evt := fullCounterEvt }

theorem fullCounter_pending : ((msixUnmask 1 0 (advance 0 fullCounter)).msix 1 0).pending = true := by
  rfl

end Sys2Proof.Machine

namespace Sys2Proof
open Machine

/-- Refutes O19: the message of the unmasked vector is counted, and a device counter that overflows by it leaves a
message pending on the same entry of the vector table. -/
theorem not_configurationRequests : ¬ Obligations.ConfigurationRequests := by
  unfold Obligations.ConfigurationRequests
  rintro ⟨-, -, -, -, -, -, -, -, -, -, -, hunmask, -⟩
  obtain ⟨u, hu, -, hfree, -⟩ := hunmask 0 1 0 _ fullCounter (Nat.le_refl 0) rfl (by decide) (by decide) rfl rfl rfl rfl
    rfl rfl rfl rfl
  have hexec : exec (.msixUnmask 0 1 0) fullCounter = .next (msixUnmask 1 0 (advance 0 fullCounter)) := rfl
  rw [hexec] at hu
  rw [← Host.Outcome.next.inj hu, fullCounter_pending] at hfree
  exact Bool.noConfusion hfree

end Sys2Proof
end

section
/-! Three statements of which one clause fails. Each is contradicted by a concrete state: a queue number above 1023 that
no queue of the function has; two chains of one first index, of which one has ended before it was started; a table of
nonces with one key listed twice. -/

namespace Sys2Proof.Machine
open Sys2Proof

/-- Queue number 1024 of function 0, which is queue 0 of function 1, is parked for a page. -/
def strayPark : State :=
  { State.reset with
    ep := { State.reset.ep with link := 2, pageReqs := [{ fn := 0, q := 1024, page := 0, sentAt := some 0 }] }
    wq := { State.reset.wq with queues := [(1024, { Queue.reset with st := .parked })] } }

theorem canonical_strayPark : Canonical strayPark := by
  obtain ⟨hm, hd, hp, hf, ht, hfl, hb, hs, hep, hpo, -, hrest⟩ := canonical_reset
  exact ⟨hm, hd, hp, hf, ht, hfl, hb, hs, hep, hpo, by decide, hrest⟩

theorem strayPark_after :
    ((prgResponse 0 0 1024 .responseFailure (advance 0 strayPark)).queue 0 1024).st = .parked := by
  rfl

/-- A RECV_NOTIFY entry for channel 0. -/
def notifyEntry : Bytes := [0x24] ++ zeros 31

def endedChain : Chain :=
  { first := 0, entries := [], started := false, finished := true, status := 0, result := 0 }

def openChain : Chain :=
  { first := 0, entries := [notifyEntry], started := false, finished := false, status := 0, result := 0 }

/-- A SIPHON queue with two chains of first index 0, and a channel that holds a notification. -/
def twinChains : State :=
  { State.reset with
    wq := { State.reset.wq with
      queues := [(0, { Queue.reset with st := .enabled, ctx := [(2, 6)], chains := [endedChain, openChain] })] }
    polders := { State.reset.polders with
      tab := [(0, { Polder.zero with maps := [[], [], [], [0], [], [], []] })] }
    siphon := { State.reset.siphon with channels := [(0, { Channel.reset with state := 1, notes := [7] })] } }

theorem canonical_twinChains : Canonical twinChains := by
  obtain ⟨hm, hd, hp, hf, ht, hfl, hb, hs, hep, hpo, -, hci, hsi, hrest⟩ := canonical_reset
  exact ⟨hm, hd, hp, hf, ht, hfl, hb, hs, hep, ⟨by decide, by decide, by decide⟩, by decide, hci,
    ⟨by decide, by decide, by decide⟩, hrest⟩

theorem twinChains_after :
    ((recvNotify 0 0 (advance 0 twinChains)).queue 0 0).chains.map (·.started) = [true, true] := by
  rfl

theorem twinChains_ended :
    (endChain (twinChains.queue 0 0) 0 0 7).map (·.started) = [false, true] := by
  rfl

/-- WRITE of 32 zero bytes to the attestation nonce. -/
def nonceWrite : Bytes :=
  buildMsg 0 2 60 0 1 0 0 0x1421 0 9 0 0 (zeros 32)

/-- Session 0 has two nonces listed, and the mailbox holds the write of a third. -/
def twinNonces : State :=
  { State.reset with
    mbx := { State.reset.mbx with busy := true, accepted := some nonceWrite }
    boot := { State.reset.boot with nonces := [(0, [1]), (0, [1])] } }

def writeDone (s : State) : State :=
  notifyChanges (fdpServe (fun m => kindIs 2 m && !ownWrite m) writeOne writePost ⟨0, .mailbox, false⟩ s)

theorem twinNonces_after : Tab.get (zeros 32) (writeDone twinNonces).boot.nonces 0 = [1] := by
  rfl

end Sys2Proof.Machine

namespace Sys2Proof
open Machine

/-- Refutes O22: a failure of the page requests stops the queues of the function alone, and number 1024 is none of
them. -/
theorem not_translationServices : ¬ Obligations.TranslationServices := by
  unfold Obligations.TranslationServices
  rintro ⟨-, -, -, -, -, -, hfail, -⟩
  obtain ⟨u, hu, hst, -⟩ := (hfail 0 0 1024 strayPark _ canonical_strayPark rfl rfl rfl rfl rfl rfl).2
  have hexec : exec (.prgResponse 0 0 1024 .responseFailure) strayPark
      = .next (prgResponse 0 0 1024 .responseFailure (advance 0 strayPark)) := rfl
  rw [hexec] at hu
  rw [← Host.Outcome.next.inj hu, strayPark_after] at hst
  exact QSt.noConfusion hst

/-- Refutes O29: a RECV_NOTIFY that meets its notification marks every chain of its first index as started, also one
that has ended. -/
theorem not_siphonEntries : ¬ Obligations.SiphonEntries := by
  unfold Obligations.SiphonEntries
  rintro ⟨-, -, -, -, -, hnotify, -⟩
  obtain ⟨u, hu, -, -, -, hend⟩ := hnotify 0 0 0 0 openChain twinChains canonical_twinChains rfl rfl rfl
  have hexec : exec (.recvNotify 0 0 0) twinChains = .next (recvNotify 0 0 (advance 0 twinChains)) := rfl
  rw [hexec] at hu
  have hqueue := congrArg (fun x => x.chains.map (·.started)) (hend 7 [] rfl rfl).2
  rw [← Host.Outcome.next.inj hu] at hqueue
  exact absurd (twinChains_after.symm.trans (hqueue.trans twinChains_ended)) (by decide)

/-- Refutes O43: with a nonce listed twice, a write of the default drops the first and leaves the second. -/
theorem not_valueRequests : ¬ Obligations.ValueRequests := by
  unfold Obligations.ValueRequests
  rintro ⟨-, -, -, hnonce, -⟩
  obtain ⟨u, hu, -, hget⟩ := hnonce 0 false nonceWrite twinNonces _ rfl ⟨rfl, rfl, rfl, by decide, rfl⟩
    (fun x hx => absurd hx List.not_mem_nil) rfl rfl rfl rfl
  have hexec : exec (.write ⟨0, .mailbox, false⟩) twinNonces
      = .next (writeDone twinNonces) := rfl
  rw [hexec] at hu
  rw [← Host.Outcome.next.inj hu, twinNonces_after] at hget
  exact absurd hget (by decide)

end Sys2Proof
end

section
/-! Two statements about the journal of which one clause fails: a command that starts and ends in one step marks every
chain of its first index as started, also one that has ended; and the end of a format names no canonical form, so that
a queue listed twice shows its second entry when the first is the default. -/

namespace Sys2Proof.Machine
open Sys2Proof

/-- A JOURNAL_FLUSH entry of handle 0. -/
def flushEntry : Bytes := [0x32] ++ zeros 31

def flushChain : Chain :=
  { first := 0, entries := [flushEntry], started := false, finished := false, status := 0, result := 0 }

/-- The journal serves namespace 0 on slot 0, attached to handle 0 of PF0; nothing is dirty. -/
def quietJournal : Journal :=
  { Journal.reset with
    state := 1
    slots := [(0, { CartSlot.reset with state := 3 })]
    spaces := [(0, { Space.reset with defined := true, size := 16, state := 1, attach := some (0, 0) })] }

/-- A JOURNAL queue of PF0 with two chains of first index 0, one of them ended. -/
def twinFlushes : State :=
  { State.reset with
    wq := { State.reset.wq with
      queues := [(0, { Queue.reset with st := .enabled, ctx := [(2, 7)], chains := [endedChain, flushChain] })] }
    polders := { State.reset.polders with
      tab := [(0, { Polder.zero with counts := { Counts.polder0 with namespaces := 1 } })] }
    jrn := quietJournal }

theorem canonical_twinFlushes : Canonical twinFlushes := by
  obtain ⟨hm, hd, hp, hf, ht, hfl, hb, hs, hep, hpo, -, hci, hsi, -, hev⟩ := canonical_reset
  exact ⟨hm, hd, hp, hf, ht, hfl, hb, hs, hep, ⟨by decide, by decide, by decide⟩, by decide, hci, hsi,
    (by decide : Tab.wf Ver.zero _ = true), hev⟩

def flushRun (s : State) : State := jRun 0 (.queue 0 0) 0x32 (journalFlush (.queue 0 0)) (advance 0 s)

theorem twinFlushes_after : ((flushRun twinFlushes).queue 0 0).chains.map (·.started) = [true, true] := by
  rfl

theorem twinFlushes_ended : (endChain (twinFlushes.queue 0 0) 0 0 0).map (·.started) = [false, true] := by
  rfl

/-- Namespace 0 is formatted by a command of a queue of PF0 that is listed twice, first with its default. -/
def twinQueues : State :=
  { State.reset with
    wq := { State.reset.wq with queues := [(0, Queue.reset), (0, { Queue.reset with st := .enabled })] }
    jrn := { Journal.reset with
      state := 1
      spaces := [(0, { Space.reset with defined := true, state := 5, formatBy := some (some (.queue 0 0), 0) })] } }

def formatted (s : State) : State :=
  jEnd (some (.queue 0 0)) 0 stOK 0
    (clearBlocks (fun n => decide (n = 0)) ((advance 0 s).setSpace 0 { (advance 0 s).space 0 with
      state := liveState (advance 0 s) ((advance 0 s).space 0), formatBy := none, progress := 100 }))

theorem twinQueues_after : ((formatted twinQueues).queue 0 0).st = .enabled := by
  rfl

theorem twinQueues_before : (twinQueues.queue 0 0).st = .disabled := by
  rfl

end Sys2Proof.Machine

namespace Sys2Proof
open Machine

/-- Refutes O32: a FLUSH that ends at once marks every chain of its first index as started, also one that has ended. -/
theorem not_journalCommands : ¬ Obligations.JournalCommands := by
  unfold Obligations.JournalCommands
  rintro ⟨-, -, -, -, -, -, -, -, -, -, -, -, -, -, -, -, hflush, -⟩
  obtain ⟨u, hu, -, -, -, hend, -⟩ := hflush 0 0 (.queue 0 0) (entryCmd 0 0 flushEntry) twinFlushes
    canonical_twinFlushes ⟨rfl, rfl⟩
  have hexec : exec (.journalFlush 0 (.queue 0 0)) twinFlushes = .next (flushRun twinFlushes) := rfl
  rw [hexec] at hu
  have hclean : ∀ i v, i < 2 → v ∈ (twinFlushes.cart i).dirty → v.ns ≠ 0 := by
    intro i v hi hv
    interval_cases i <;> exact absurd hv List.not_mem_nil
  have hqueue := congrArg (fun x => x.chains.map (·.started)) (hend hclean).1
  rw [← Host.Outcome.next.inj hu] at hqueue
  exact absurd (twinFlushes_after.symm.trans (hqueue.trans twinFlushes_ended)) (by decide)

/-- Refutes O33: the end of a format writes the default to a queue that is listed twice, and its second entry shows. -/
theorem not_journalSteps : ¬ Obligations.JournalSteps := by
  unfold Obligations.JournalSteps
  rintro ⟨-, -, -, -, -, -, -, -, -, -, -, -, -, hformat⟩
  obtain ⟨u, hu, -, -, hend, -⟩ := hformat 0 0 twinQueues (by decide) rfl rfl rfl
  have hexec : exec (.formatComplete 0 0) twinQueues = .next (formatted twinQueues) := rfl
  rw [hexec] at hu
  have hqueue := congrArg (·.st) (hend (.queue 0 0) 0 rfl)
  rw [← Host.Outcome.next.inj hu] at hqueue
  exact absurd (twinQueues_after.symm.trans (hqueue.trans twinQueues_before)) (by decide)

end Sys2Proof
end

section
/-! What the actions of a pass do with a frame (spec 04 R157 to R160, 05 R177, R182, R185, 08 R282). -/

namespace Sys2Proof.Machine
open Sys2Proof

section Pass
variable {t : Nat} {f : RFrame} {x : Parsed} {a b : Bytes} {s : State}

/-- The colour a frame brings from its last pass. -/
def carried (f : RFrame) : Option Colour := f.metered.map (fun y => if y then .yellow else .green)

theorem badColour_carried (f : RFrame) : badColour (carried f) = false := by
  cases h : f.metered with
  | none => simp only [carried, h]; rfl
  | some y => cases y <;> simp only [carried, h] <;> rfl

theorem yellow_carried (f : RFrame) : (carried f).map (fun c => decide (c = .yellow)) = f.metered := by
  cases h : f.metered with
  | none => simp only [carried, h]; rfl
  | some y => cases y <;> simp only [carried, h] <;> rfl

theorem launchAll_nil (s : State) : launchAll [] s = s := rfl

/-! ### Actions without a Weir and without a MIRROR -/

theorem passActions_discard (h0 : actHas a 0 = true) (h3 : actHas a 3 = false) (h4 : actHas a 4 = false) :
    passActions t f x a s = ruleCount (dieOf f.port) f.bytes.length a s := by
  simp only [passActions, h0, h3, h4, Bool.false_and, Bool.false_eq_true, ↓reduceIte, launchAll_nil]

theorem passActions_again (h13 : actHas a 13 = true) (h0 : actHas a 0 = false) (h3 : actHas a 3 = false)
    (h4 : actHas a 4 = false) (hpass : f.pass < 2) :
    passActions t f x a s = recirculate t { f with held := heldBy a f.held } x a (rewrite s f.port a f.bytes) []
      (carried f) (ruleCount (dieOf f.port) f.bytes.length a s) := by
  simp only [passActions, h0, h3, h4, h13, hpass, Bool.false_and, Bool.false_eq_true, Bool.not_false, Bool.and_true,
    decide_true, ↓reduceIte]
  rfl

/-- A rule counter counts in the classifier and in nothing else. -/
theorem ruleCount_eq (die len : Nat) (a : Bytes) (s : State) :
    ruleCount die len a s = { s with cls := { s.cls with
      ruleFrames := (ruleCount die len a s).cls.ruleFrames, ruleBytes := (ruleCount die len a s).cls.ruleBytes } } := by
  unfold ruleCount
  split
  · rfl
  · rfl

theorem ruleCount_off {die len : Nat} (h : actHas a 11 = false) : ruleCount die len a s = s := by
  simp only [ruleCount, h, Bool.false_eq_true, ↓reduceIte]

theorem ruleCount_on {die len : Nat} (h : actHas a 11 = true) : (ruleCount die len a s).cls = { s.cls with
    ruleFrames := Tab.upd 0 s.cls.ruleFrames (ruleCounterKey die (actCounter a)) (fun n => (n + 1) % 2 ^ 64)
    ruleBytes := Tab.upd 0 s.cls.ruleBytes (ruleCounterKey die (actCounter a)) (fun n => (n + len) % 2 ^ 64) } := by
  simp only [ruleCount, h, ↓reduceIte]
  rfl

theorem recircOf_ruleCount (die len pipe : Nat) : recircOf (ruleCount die len a s) pipe = recircOf s pipe := by
  rw [ruleCount_eq]
  rfl

/-- A frame that its colour does not stop goes to the queue of its pipe while there is room. -/
theorem recirculate_room {m : Option Colour} (hm : badColour m = false) (hroom : (recircOf s (pipeOf f.port)).length < 16) :
    recirculate t f x a b [] m s = modCls (fun y => { y with
      recirc := Tab.set [] y.recirc (pipeOf f.port) (recircOf s (pipeOf f.port) ++
        [{ f with bytes := b, pass := f.pass + 1, tag := actTag a, metered := m.map (fun c => decide (c = .yellow)) }]) }) s := by
  simp only [recirculate, hm, hroom, Bool.false_eq_true, ↓reduceIte]
  rfl

/-! ### The final pass -/

/-- A frame that is not of the Siphon engine and whose port is no member of its VLAN. -/
theorem finalPass_outside {c : Option Colour} (hcls : x.cls ≠ 9)
    (h : (vlanAt s (vidOf s f.port b)).valid = false ∨ mapBit (vlanAt s (vidOf s f.port b)).members f.port = false) :
    finalPass t f x b [] c s = count 0x2904 0xB s := by
  have hout : (!(vlanAt s (vidOf s f.port b)).valid || !mapBit (vlanAt s (vidOf s f.port b)).members f.port) = true := by
    rcases h with h | h <;> simp [h]
  simp only [finalPass, if_neg (fun k : x.cls = 9 ∧ _ => hcls k.1), hout, ↓reduceIte, launchAll_nil]

/-- The stream handle of a frame of VLAN `vid`. -/
def handleOf (s : State) (f : RFrame) (vid : Nat) : Option Nat :=
  if vid = 0 ∨ 4094 < vid then none
  else streamOf s (dieOf f.port) vid (beField f.bytes 0 6) (beField f.bytes 6 6)

theorem handleOf_none {vid : Nat}
    (h : streamOf s (dieOf f.port) vid (beField f.bytes 0 6) (beField f.bytes 6 6) = none) : handleOf s f vid = none := by
  unfold handleOf
  split
  · rfl
  · exact h

/-- The filter of a stream passes a frame that its Weir has discarded on as it is, and only counts it. -/
theorem streamMeter_discard (t die h pcp : Nat) (b : Bytes) (len : Nat) (s : State) :
    ∃ y, streamMeter t die h pcp (some .discard) b len s = (some .discard, y)
      ∧ y.buf = s.buf ∧ y.tables = s.tables ∧ y.siphon = s.siphon := by
  unfold streamMeter
  dsimp only
  split
  · exact ⟨_, rfl, rfl, rfl, rfl⟩
  · split
    · exact ⟨_, rfl, rfl, rfl, rfl⟩
    · rw [if_pos (.inr rfl)]
      exact ⟨_, rfl, rfl, rfl, rfl⟩

/-- A frame whose colour stops it leaves nothing at the end of the stage. -/
theorem finalPass_bad {c : Option Colour} (hc : c = some .discard ∨ (c = some .red
      ∧ streamOf s (dieOf f.port) (vidOf s f.port b) (beField f.bytes 0 6) (beField f.bytes 6 6) = none))
    (hv : (vlanAt s (vidOf s f.port b)).valid = true) (hm : mapBit (vlanAt s (vidOf s f.port b)).members f.port = true) :
    (finalPass t f x b [] c s).buf = s.buf ∧ (finalPass t f x b [] c s).tables = s.tables
      ∧ (finalPass t f x b [] c s).siphon = s.siphon := by
  have hbad : badColour c = true := by
    rcases hc with hc | ⟨hc, -⟩ <;> rw [hc] <;> rfl
  unfold finalPass
  dsimp only
  split
  · exact ⟨rfl, rfl, rfl⟩
  · rw [hv, hm, if_neg (by decide)]
    cases hh : handleOf s f (vidOf s f.port b) with
    | none =>
      simp only [handleOf] at hh
      simp only [hh, hbad, ↓reduceIte]
      exact ⟨rfl, rfl, rfl⟩
    | some h =>
      have hdis : c = some .discard := by
        rcases hc with hc | ⟨-, hn⟩
        · exact hc
        · exact absurd ((handleOf_none hn).symm.trans hh) (by simp)
      obtain ⟨y, hy, hbuf, htab, hsip⟩ := streamMeter_discard t (dieOf f.port) h ((pcpOf s f.port b).getD 0) b
        f.bytes.length s
      simp only [handleOf] at hh
      rw [hdis]
      simp only [hh, hy]
      exact ⟨hbuf, htab, hsip⟩

/-- A member of its VLAN without a stream handle and with a good colour sends its copies on. -/
theorem finalPass_copies (hcls : x.cls ≠ 9)
    (hv : (vlanAt s (vidOf s f.port b)).valid = true) (hm : mapBit (vlanAt s (vidOf s f.port b)).members f.port = true)
    (hlearn : cfgN s 0x2900 3 ≠ 1)
    (hn : streamOf s (dieOf f.port) (vidOf s f.port b) (beField f.bytes 0 6) (beField f.bytes 6 6) = none) :
    finalPass t f x b [] none s = sendCopies f x (vlanAt s (vidOf s f.port b)) b [] none none none s := by
  have hh := handleOf_none hn
  simp only [handleOf] at hh
  simp only [finalPass, if_neg (fun k : x.cls = 9 ∧ _ => hcls k.1), hv, hm, hh, Bool.not_true, Bool.or_self,
    Bool.false_eq_true, ↓reduceIte, learnFrom, hlearn, false_and]
  rfl

/-! ### Copies -/

/-- What the one copy of a forwarded frame carries. -/
def forwarded (f : RFrame) (x : Parsed) (b : Bytes) (dest : Nat) (s : State) : Parcel :=
  { ticket := 0, src := dieOf f.port, dst := dieOf f.port, owner := f.port, info := infoOf s f x b, bytes := b, hosts := []
    bulk := !queueScheduled s dest (infoOf s f x b).tc, ports := [(dest, (infoOf s f x b).tc, none)] }

theorem portParcels_one {src owner dest : Nat} (info : Meta) (hd : dieOf dest < 4) (s : State) :
    portParcels s src owner info b [(dest, none)] =
      [{ ticket := 0, src := src, dst := dieOf dest, owner := owner, info := info, bytes := b, hosts := []
         bulk := !queueScheduled s dest info.tc, ports := [(dest, info.tc, none)] }] := by
  generalize hk : dieOf dest = d at hd
  interval_cases d <;> simp [portParcels, hk]

theorem sendCopies_forward {v : Vlan} {dest : Nat} (hf : f.held.forward = some dest) (hh : f.held.host = none)
    (hfl : f.held.flow = none) (hd : dest < 512) (hdie : dieOf dest = dieOf f.port)
    (hr : (s.port dest).redirect = false) :
    sendCopies f x v b [] none none none s = launch (forwarded f x b dest s) s := by
  have h4 : dieOf dest < 4 := by unfold dieOf; omega
  have hports : destPorts s dest f.port = [dest] := by simp only [destPorts, hd, ↓reduceIte]
  have hredirect : redirectPorts s [dest] [dest] [] s = ([(dest, none)], s) := by
    simp [redirectPorts, hr]
  simp only [sendCopies, hf, hh, hfl, hports, hredirect, portParcels_one _ h4, hdie]
  rfl

theorem launch_same_die {p : Parcel} (h : p.src = p.dst) : launch p s =
    modBuf (fun b => { b with transit := b.transit ++ [{ p with ticket := s.nextId }] }) { s with nextId := s.nextId + 1 } := by
  simp only [launch, h, ↓reduceIte]
  rfl

end Pass

end Sys2Proof.Machine

namespace Sys2Proof
open Machine

/-- Settles O40: each action is one branch of the pass, and the final pass of a frame without a Weir, a stream and a
host is the launch of its one copy. -/
theorem passActions : Obligations.PassActions := by
  refine ⟨?_, ?_, ?_, ?_, ?_, ?_, ?_⟩
  · intro t f x a s h0 h3 h4
    rw [passActions_discard h0 h3 h4]
    refine ⟨?_, ?_, ?_, ?_, ruleCount_off⟩ <;> rw [ruleCount_eq]
  · intro die len a s h11 hframes hbytes
    rw [ruleCount_on h11]
    exact ⟨Tab.get_set_same _ _ hframes, Tab.get_set_same _ _ hbytes⟩
  · intro t f x a s h13 h0 h3 h4 hpass hroom
    have hroom1 : (recircOf (ruleCount (dieOf f.port) f.bytes.length a s) (pipeOf f.port)).length < 16 := by
      rwa [recircOf_ruleCount]
    rw [passActions_again h13 h0 h3 h4 hpass, recirculate_room (f := { f with held := heldBy a f.held })
      (badColour_carried f) hroom1, recircOf_ruleCount]
    refine ⟨?_, ?_, _, Tab.get_set_of_ne _ _ (by simp), rfl, rfl, rfl, rfl, rfl, rfl, yellow_carried f⟩
    · rw [ruleCount_eq]; rfl
    · rw [ruleCount_eq]; rfl
  · intro t f x b c s hcls h
    rw [finalPass_outside hcls h]
    exact ⟨counter_countQ .., (count_only ..).buf, (count_only ..).tables⟩
  · intro t dest f x b s hcls hv hm hlearn hn hf hh hfl hd hdie hr
    rw [finalPass_copies hcls hv hm hlearn hn, sendCopies_forward hf hh hfl hd hdie hr, launch_same_die rfl]
    exact ⟨_, rfl, rfl, rfl, rfl, rfl, rfl, rfl, rfl, rfl, rfl, rfl⟩
  · intro t f x b c s hc hv hm
    exact finalPass_bad hc hv hm
  · intro die port i dmac v e s hrep
    refine ⟨fun hd => ?_, fun hd h512 => ?_⟩
    · have hback : bridged die port v dmac s = (none, count 0x2904 0xA s) := by
        simp only [bridged, hrep, hd, ↓reduceIte]
      rw [hback]
      exact ⟨rfl, counter_countQ ..⟩
    · simp only [bridged, hrep, hd, h512, ↓reduceIte]

end Sys2Proof
end

section
/-! The way in of a frame: its receipt, its passes and the PTP messages (spec 03 R101 to R109, 04 R148 to R163). -/

namespace Sys2Proof.Machine
open Sys2Proof

/-! ### What time leaves as it is -/

section Advance
variable (t : Nat) (s : State)

theorem portReceives_advance (p : Nat) : portReceives (advance t s) p = portReceives s p := by
  simp only [portReceives, port_advance, advance_boot]

theorem rxVerdict_advance (p : Nat) (b : Bytes) (ok : Bool) : rxVerdict (advance t s) p b ok = rxVerdict s p b ok := by
  simp only [rxVerdict, maxFrameSize, cfgN_advance, portUp_advance] <;> rfl

theorem recircOf_advance (pipe : Nat) : recircOf (advance t s) pipe = recircOf s pipe := by
  simp only [recircOf, advance_cls]

theorem waitingOf_advance (pipe : Nat) : waitingOf (advance t s) pipe = waitingOf s pipe := by
  simp only [waitingOf, advance_cls]

theorem parseFrame_advance (bank p pass tag stamp : Nat) (b : Bytes) :
    parseFrame (advance t s) bank p pass tag stamp b = parseFrame s bank p pass tag stamp b := by
  simp only [parseFrame, parseIn, bankAt, cfg_advance, cfgN_advance, advance_cls] <;> rfl

end Advance

/-! ### The MAC -/

section Mac
variable {t port : Nat} {b : Bytes} {s : State}

theorem counter_countQ_amount (idx sub : Nat) {n : Nat} (hn : 0 < n) (port tc polder : Option Nat) (s : State) :
    counter (countQ idx sub n port tc polder s) idx sub = satAdd64 (counter s idx sub) n := by
  unfold counter
  rw [countQ_counters (Nat.ne_of_gt hn)]
  refine Tab.get_set_of_ne _ _ (Nat.ne_of_gt ?_)
  exact Nat.lt_min.2 ⟨Nat.add_pos_right _ hn, by decide⟩

/-- A frame that passes the receive checks, as it goes on to its pipe, and the state that has counted it. -/
def received (port : Nat) (b : Bytes) (s : State) : RFrame × State :=
  let r := ingressStamp port (b.length + 4) (countPort port 0x21 (b.length + 4) (countPort port 0x20 1 s))
  let k := ticket r.2
  ({ port := port, stamp := r.1, bytes := b, bank := s.cls.active, pass := 0, tag := 0
     held := { forward := none, host := none, tc := none, flow := none }, counted := false
     metered := none, orig := b, frame := k.1 + 1 }, k.2)

theorem receiveFrame_off {ok : Bool} (h : portReceives s port = false) : receiveFrame t port b ok s = s := by
  simp only [receiveFrame, h, Bool.not_false, ↓reduceIte]

theorem receiveFrame_fails {ok : Bool} {k : Nat} (h : portReceives s port = true) (hv : rxVerdict s port b ok = some k) :
    receiveFrame t port b ok s = countPort port k 1 s := by
  simp only [receiveFrame, h, hv, Bool.not_true, Bool.false_eq_true, ↓reduceIte]

theorem receiveFrame_passes (h : portReceives s port = true) (hv : rxVerdict s port b true = none) :
    receiveFrame t port b true s = intoPipe t (received port b s).1 (received port b s).2 := by
  simp only [receiveFrame, h, hv, Bool.not_true, Bool.false_eq_true, ↓reduceIte]
  rfl

/-- The state a received frame has been counted in, by its fields. -/
theorem received_state (port : Nat) (b : Bytes) (s : State) : (received port b s).2 =
    { countPort port 0x21 (b.length + 4) (countPort port 0x20 1 s) with
      freeCtr := (received port b s).2.freeCtr, nextId := (received port b s).2.nextId } := rfl

theorem received_counts (port : Nat) (b : Bytes) (s : State) :
    CountsOnly { s with freeCtr := (received port b s).2.freeCtr, nextId := (received port b s).2.nextId }
      (received port b s).2 := by
  have h : CountsOnly s (countPort port 0x21 (b.length + 4) (countPort port 0x20 1 s)) :=
    (countQ_only ..).trans (countQ_only ..)
  exact h.map (f := fun y => { y with
    freeCtr := (received port b s).2.freeCtr, nextId := (received port b s).2.nextId }) (fun _ _ _ _ => rfl) (fun _ _ => rfl) rfl

theorem received_frames (port : Nat) (b : Bytes) (s : State) :
    counter (received port b s).2 (0x2000 + port) 0x20 = satAdd64 (counter s (0x2000 + port) 0x20) 1 := by
  have h : counter (countPort port 0x21 (b.length + 4) (countPort port 0x20 1 s)) (0x2000 + port) 0x20
      = satAdd64 (counter s (0x2000 + port) 0x20) 1 := by
    rw [countPort, counter_countQ_other (objKey_ne_of_sub (by decide) (by decide) (by decide)), countPort, counter_countQ]
  exact h

theorem received_bytes (port : Nat) (b : Bytes) (s : State) :
    counter (received port b s).2 (0x2000 + port) 0x21 = satAdd64 (counter s (0x2000 + port) 0x21) (b.length + 4) := by
  have h : counter (countPort port 0x21 (b.length + 4) (countPort port 0x20 1 s)) (0x2000 + port) 0x21
      = satAdd64 (counter s (0x2000 + port) 0x21) (b.length + 4) := by
    rw [countPort, counter_countQ_amount _ _ (by omega), countPort,
      counter_countQ_other (objKey_ne_of_sub (by decide) (by decide) (by decide))]
  exact h

theorem received_other {idx sub : Nat} (hs : sub < 256) (hi : idx ≠ 0x2000 + port) (b : Bytes) (s : State) :
    counter (received port b s).2 idx sub = counter s idx sub := by
  have h : counter (countPort port 0x21 (b.length + 4) (countPort port 0x20 1 s)) idx sub = counter s idx sub := by
    rw [countPort, counter_countQ_other (objKey_ne_of_idx hs (by decide) hi), countPort,
      counter_countQ_other (objKey_ne_of_idx hs (by decide) hi)]
  exact h

theorem received_cls (port : Nat) (b : Bytes) (s : State) : (received port b s).2.cls = s.cls :=
  (received_counts port b s).cls

theorem received_clock (port : Nat) (b : Bytes) (s : State) : (received port b s).2.clock = s.clock :=
  (received_counts port b s).clock

end Mac

/-! ### The clocks of a pipe -/

section Pipe
variable {t pipe : Nat} {f : RFrame} {s : State}

theorem pipeUse_congr {y : State} (hc : y.cls = s.cls) (hk : y.clock = s.clock) (pipe : Nat) :
    pipeUse y pipe = pipeUse s pipe := by
  simp only [pipeUse, hc, hk]

theorem pipeFits_congr {y : State} (hc : y.cls = s.cls) (hk : y.clock = s.clock) (pipe : Nat) (b : Bytes) :
    pipeFits y pipe b = pipeFits s pipe b := by
  simp only [pipeFits, pipeUse_congr hc hk]

/-- Nothing that waits fits: the pipe makes no first pass. -/
theorem runWaiting_blocked {l : List RFrame} (h : l = [] ∨ ∃ g rest, l = g :: rest ∧ pipeFits s pipe g.bytes = false) :
    runWaiting t pipe l s = s := by
  rcases h with rfl | ⟨g, rest, rfl, hfit⟩
  · rfl
  · simp only [runWaiting, hfit, Bool.false_eq_true, ↓reduceIte]

theorem intoPipe_first (hw : waitingOf s (pipeOf f.port) = []) (hfit : pipeFits s (pipeOf f.port) f.bytes = true) :
    intoPipe t f s = firstPass t f s := by
  simp only [intoPipe, hw, runWaiting, hfit, decide_true, Bool.and_self, ↓reduceIte]

/-- The pipe has no clocks for the frame whose turn it is. -/
def PipeBusy (s : State) (pipe : Nat) (b : Bytes) : Prop :=
  (waitingOf s pipe = [] ∧ pipeFits s pipe b = false)
  ∨ ∃ g rest, waitingOf s pipe = g :: rest ∧ pipeFits s pipe g.bytes = false

theorem PipeBusy.blocked {b : Bytes} (h : PipeBusy s pipe b) : runWaiting t pipe (waitingOf s pipe) s = s :=
  runWaiting_blocked (h.imp And.left id)

theorem PipeBusy.not_first {b : Bytes} (h : PipeBusy s pipe b) :
    (decide (waitingOf s pipe = []) && pipeFits s pipe b) = false := by
  rcases h with ⟨-, hfit⟩ | ⟨g, rest, hw, -⟩
  · rw [hfit, Bool.and_false]
  · simp only [hw, reduceCtorEq, decide_false, Bool.false_and]

/-- Bytes of a port that wait for their pipe. -/
def waitingBytes (s : State) (pipe port : Nat) : Nat :=
  (((waitingOf s pipe).filter (fun g => decide (g.port = port))).map (fun g => g.bytes.length + 4)).sum

theorem intoPipe_waits (h : PipeBusy s (pipeOf f.port) f.bytes)
    (hroom : waitingBytes s (pipeOf f.port) f.port + f.bytes.length + 4 ≤ Config.rxBuffer) :
    intoPipe t f s = setWaiting (pipeOf f.port) (waitingOf s (pipeOf f.port) ++ [f]) s := by
  have hn : ¬ Config.rxBuffer < waitingBytes s (pipeOf f.port) f.port + f.bytes.length + 4 := Nat.not_lt.2 hroom
  unfold waitingBytes at hn
  simp only [intoPipe, h.blocked, h.not_first, if_neg hn, Bool.false_eq_true, ↓reduceIte]

theorem intoPipe_full (h : PipeBusy s (pipeOf f.port) f.bytes)
    (hfull : Config.rxBuffer < waitingBytes s (pipeOf f.port) f.port + f.bytes.length + 4) :
    intoPipe t f s = count 0x2806 (pipeOf f.port + 1) s := by
  unfold waitingBytes at hfull
  simp only [intoPipe, h.blocked, h.not_first, if_pos hfull, Bool.false_eq_true, ↓reduceIte]

end Pipe

/-! ### One pass -/

section OnePass
variable {t : Nat} {f : RFrame} {x : Parsed} {s : State}

/-- The state in which a pass has counted a frame that is too deep, once. -/
def deepCounted (f : RFrame) (x : Parsed) (s : State) : State :=
  if x.flags.testBit fDepth && !f.counted then count 0x2802 1 s else s

theorem deepCounted_only (f : RFrame) (x : Parsed) (s : State) : CountsOnly s (deepCounted f x s) := by
  unfold deepCounted
  split
  · exact count_only ..
  · exact .refl s

theorem deepCounted_not (h : x.flags.testBit fDepth = false) : deepCounted f x s = s := by
  simp only [deepCounted, h, Bool.false_and, Bool.false_eq_true, ↓reduceIte]

variable (hx : x = parseFrame s f.bank f.port f.pass f.tag f.stamp f.bytes)
include hx

theorem onePass_malformed {c : Nat} (hfin : x.fin = some (.malformed c)) :
    onePass t f s = malformedFrame { f with counted := f.counted || x.flags.testBit fDepth } x c (deepCounted f x s) := by
  subst hx
  simp only [onePass, hfin]
  rfl

theorem onePass_ptpEnds (hfin : x.fin = none) (hf : fdpTaken s f.port x f.bytes = false) (ha : (ptpAt x).isSome = true)
    (hm : ptpMine s f.port x = true) (ht : ptpThrough s f.port x = false) :
    onePass t f s = ptpTake f.port x f.bytes (deepCounted f x s) := by
  subst hx
  simp only [onePass, hfin, hf, ha, hm, ht, Bool.and_self, Bool.not_false, Bool.false_eq_true, ↓reduceIte]
  rfl

theorem onePass_ptpThrough (hfin : x.fin = none) (hf : fdpTaken s f.port x f.bytes = false)
    (hdeep : x.flags.testBit fDepth = false) (ha : (ptpAt x).isSome = true) (ht : ptpThrough s f.port x = true) :
    onePass t f s = passActions t f x ((matchRule (bankAt s f.bank) x).getD (zeros 32)) (ptpTake f.port x f.bytes s) := by
  have hm : ptpMine s f.port x = true := by
    simp only [ptpThrough, Bool.and_eq_true] at ht
    exact ht.1.1
  subst hx
  simp only [onePass, hfin, hf, ha, hm, ht, hdeep, Bool.or_false, Bool.and_self, Bool.not_true, Bool.and_false,
    Bool.false_and, Bool.false_eq_true, ↓reduceIte]

theorem onePass_plain (hfin : x.fin = none) (hf : fdpTaken s f.port x f.bytes = false) (ha : ptpAt x = none)
    (hdeep : x.flags.testBit fDepth = false) :
    onePass t f s = passActions t f x ((matchRule (bankAt s f.bank) x).getD (zeros 32)) s := by
  subst hx
  simp only [onePass, hfin, hf, ha, hdeep, Bool.or_false, Option.isSome_none, Bool.false_and, Bool.false_eq_true,
    ↓reduceIte]

end OnePass

/-! ### A malformed frame -/

section Malformed
variable {f : RFrame} {x : Parsed} {c : Nat} {s : State}

/-- A malformed frame is counted, noted and signalled. -/
def malformedNoted (f : RFrame) (c : Nat) (s : State) : State :=
  modCls (fun y => { y with malformedLast := beBytes 2 f.port ++ [byteOf c, byteOf (dieOf f.port)] })
    (countQ 0x2803 c 1 (some f.port) none none s)

theorem malformedFrame_noted (h : cfgN s 0x2801 5 ≠ 1) :
    malformedFrame f x c s = raiseDie (dieOf f.port) 3 (malformedNoted f c s) := by
  unfold malformedFrame
  exact if_neg h

end Malformed

/-! ### PTP messages -/

section Ptp
variable {port ty : Nat} {log : Int} {s : State}

/-- The port the clock instance takes for its parent after a message (log entry 113). -/
def parentAfter (port ty : Nat) (s : State) : Nat :=
  if ty = 11 ∧ (s.time.parent = 0xFFFF ∨ Config.ptpPicks s.freeCtr = true) then port else s.time.parent

/-- The state after a message has chosen the parent. -/
def parentChosen (port ty : Nat) (s : State) : State :=
  { s with freeCtr := s.freeCtr + 1, time := { s.time with parent := parentAfter port ty s } }

theorem ptpParent_eq (port ty : Nat) (s : State) :
    ptpParent port ty s.freeCtr { s with freeCtr := s.freeCtr + 1 } = parentChosen port ty s := by
  unfold ptpParent parentChosen parentAfter
  split
  · rfl
  · rfl

theorem ptpServo_other (hup : s.boot.coresUp = true) (h : parentAfter port ty s ≠ port) :
    ptpServo port ty log s = parentChosen port ty s := by
  have h1 : (parentChosen port ty s).time.parent ≠ port := h
  simp only [ptpServo, ptpParent_eq, hup, h1, Bool.not_true, Bool.false_eq_true, ↓reduceIte, ne_eq, not_false_eq_true]

/-- What a message of the parent gives the time base before the servo acts. -/
def measured (ty : Nat) (log : Int) (s b : State) : State :=
  modTime (fun y => { y with
    offset := Config.ptpOffset s.freeCtr % 2 ^ 64, delay := Config.ptpDelay s.freeCtr % 2 ^ 64
    lastMsg := if decide (ty = 0 ∨ ty = 11) then s.clock else y.lastMsg
    annLog := if ty = 11 then log else y.annLog }) b

theorem ptpServo_parent (hup : s.boot.coresUp = true) (h : parentAfter port ty s = port)
    (hst : timeSource s ≠ 1 ∨ s.time.state = tsLOCKED ∨ s.time.state = tsHOLDOVER) :
    ∃ z, (ptpServo port ty log s) = z ∧ z.freeCtr = s.freeCtr + 1 ∧ z.buf = s.buf ∧ z.tables = s.tables
      ∧ z.time.parent = port ∧ z.time.offset = Config.ptpOffset s.freeCtr % 2 ^ 64
      ∧ z.time.delay = Config.ptpDelay s.freeCtr % 2 ^ 64
      ∧ (ty = 0 ∨ ty = 11 → z.time.lastMsg = s.clock ∧ (timeSource s = 1 → z.time.state = tsLOCKED)) := by
  have h1 : ¬ (parentChosen port ty s).time.parent ≠ port := fun hn => hn h
  have hsrc : timeSource (measured ty log s (parentChosen port ty s)) = timeSource s := rfl
  have hservo : ptpServo port ty log s = (if timeSource s ≠ 1 then measured ty log s (parentChosen port ty s) else
      if s.time.state = tsHOLDOVER then
        (if decide (ty = 0 ∨ ty = 11) then modTime (fun b => { b with state := tsLOCKED })
          (setRate (clampRate (Config.ptpRate s.freeCtr)) (measured ty log s (parentChosen port ty s)))
        else setRate (clampRate (Config.ptpRate s.freeCtr)) (measured ty log s (parentChosen port ty s)))
      else if Config.ptpLocks s.freeCtr && decide (s.time.state ≠ tsLOCKED) then
        modTime (fun b => { b with state := tsLOCKED })
          (stepTime ((drawNat (setRate (clampRate (Config.ptpRate s.freeCtr))
              (measured ty log s (parentChosen port ty s)))).1 % (time96Max + 1))
            (drawNat (setRate (clampRate (Config.ptpRate s.freeCtr)) (measured ty log s (parentChosen port ty s)))).2)
      else setRate (clampRate (Config.ptpRate s.freeCtr)) (measured ty log s (parentChosen port ty s))) := by
    simp only [ptpServo, ptpParent_eq, hup, h1, Bool.not_true, Bool.false_eq_true, ↓reduceIte]
    rfl
  have hlive : ∀ y : Nat, ty = 0 ∨ ty = 11 → (if decide (ty = 0 ∨ ty = 11) then s.clock else y) = s.clock :=
    fun y hl => if_pos (decide_eq_true hl)
  rw [hservo]
  refine ⟨_, rfl, ?_⟩
  by_cases hsrc1 : timeSource s = 1
  · rw [if_neg (fun hn => hn hsrc1)]
    by_cases hhold : s.time.state = tsHOLDOVER
    · rw [if_pos hhold]
      by_cases hl : ty = 0 ∨ ty = 11
      · rw [if_pos (decide_eq_true hl)]
        exact ⟨rfl, rfl, rfl, h, rfl, rfl, fun _ => ⟨hlive _ hl, fun _ => rfl⟩⟩
      · rw [if_neg (by simpa using hl)]
        exact ⟨rfl, rfl, rfl, h, rfl, rfl, fun hl' => absurd hl' hl⟩
    · have hlocked : s.time.state = tsLOCKED := by
        rcases hst with hn | hl | hh
        · exact absurd hsrc1 hn
        · exact hl
        · exact absurd hh hhold
      rw [if_neg hhold, if_neg (by simp [hlocked])]
      exact ⟨rfl, rfl, rfl, h, rfl, rfl, fun hl => ⟨hlive _ hl, fun _ => hlocked⟩⟩
  · rw [if_pos hsrc1]
    exact ⟨rfl, rfl, rfl, h, rfl, rfl, fun hl => ⟨hlive _ hl, fun hs => absurd hs hsrc1⟩⟩

theorem ptpTake_servo {x : Parsed} {b : Bytes} (h : (ptpAt x).isSome = true) (port : Nat) (s : State) :
    ∃ log, ptpTake port x b s = ptpServo port (ptpType x) log s := by
  obtain ⟨o, ho⟩ := Option.isSome_iff_exists.1 h
  exact ⟨_, by simp only [ptpTake, ho]; rfl⟩

end Ptp

end Sys2Proof.Machine

namespace Sys2Proof
open Machine

/-- Settles O39: the MAC counts and hands on, the pipe takes what it has clocks for, and a pass is one of the branches
of its parse. -/
theorem frameReceipt : Obligations.FrameReceipt := by
  refine ⟨?_, ?_, ?_, ?_, ?_, ?_, ?_, ?_, ?_, ?_, ?_⟩
  · intro t port k b ok s hp hr hv
    have hrun : exec (.frameReceive t port b ok) s = .next (countPort port k 1 (advance t s)) := by
      refine congrArg Host.Outcome.next ?_
      rw [if_pos hp, receiveFrame_fails (by rwa [portReceives_advance]) (by rwa [rxVerdict_advance])]
    refine ⟨_, hrun, countQ_only .., ?_⟩
    rw [countPort, counter_countQ, counter_congr (congrArg Dict.counters (advance_dict (s := s) t))]
  · intro s port b
    refine ⟨by simp [rxVerdict], fun h => by simp [rxVerdict, h], fun h1 h2 => ?_, fun h1 h2 h3 => ?_,
      fun h1 h2 h3 h4 => ?_⟩
    · simp only [rxVerdict, if_neg (Nat.not_lt.2 h1), if_pos h2]; rfl
    · simp only [rxVerdict, if_neg (Nat.not_lt.2 h1), if_neg (Nat.not_lt.2 h2), if_pos h3]; rfl
    · simp only [rxVerdict, if_neg (Nat.not_lt.2 h1), if_neg (Nat.not_lt.2 h2), if_neg h3, h4]; rfl
  · intro t port b s hp hr hv
    have hrun : exec (.frameReceive t port b true) s
        = .next (intoPipe t (received port b (advance t s)).1 (received port b (advance t s)).2) := by
      refine congrArg Host.Outcome.next ?_
      rw [if_pos hp, receiveFrame_passes (by rwa [portReceives_advance]) (by rwa [rxVerdict_advance])]
    have hcls := received_cls port b (advance t s)
    have hclock := received_clock port b (advance t s)
    have hcount : ∀ idx sub, counter (advance t s) idx sub = counter s idx sub := fun idx sub =>
      counter_congr (congrArg Dict.counters (advance_dict s t)) idx sub
    have hwait : waitingOf (received port b (advance t s)).2 (pipeOf port) = waitingOf s (pipeOf port) := by
      simp only [waitingOf, hcls, advance_cls]
    have hbusy : ((waitingOf s (pipeOf port) = [] ∧ pipeFits (advance t s) (pipeOf port) b = false)
          ∨ ∃ g rest, waitingOf s (pipeOf port) = g :: rest ∧ pipeFits (advance t s) (pipeOf port) g.bytes = false) →
        PipeBusy (received port b (advance t s)).2 (pipeOf port) b := by
      simp only [PipeBusy, hwait, pipeFits_congr hcls hclock]
      exact id
    refine ⟨_, hrun, (received port b (advance t s)).2, (received port b (advance t s)).1, rfl, rfl, rfl, rfl, rfl, rfl,
      rfl, received_counts .., ?_, ?_, fun hw hfit => ?_,
      fun hb hroom => ?_, fun hb hfull => ?_⟩
    · rw [received_frames, hcount]
    · rw [received_bytes, hcount]
    · rw [intoPipe_first (f := (received port b (advance t s)).1) (hwait.trans hw)
        ((pipeFits_congr hcls hclock _ _).trans hfit), firstPass, hcls, advance_cls]
      rfl
    · refine (intoPipe_waits (f := (received port b (advance t s)).1) (hbusy hb) ?_).trans ?_
      · unfold waitingBytes
        exact (congrArg (fun l => ((List.filter (fun g : RFrame => decide (g.port = port)) l).map
          (fun g => g.bytes.length + 4)).sum + b.length + 4) hwait).trans_le hroom
      · exact congrArg (fun l => setWaiting (pipeOf port) (l ++ [(received port b (advance t s)).1])
          (received port b (advance t s)).2) hwait
    · rw [intoPipe_full (f := (received port b (advance t s)).1) (hbusy hb)]
      · refine ⟨count_only .., (counter_countQ ..).trans ?_⟩
        have hport : pipeOf port + 1 < 256 := by unfold pipeOf; omega
        exact congrArg (satAdd64 · 1) ((received_other hport (by omega) b _).trans (hcount _ _))
      · unfold waitingBytes
        exact hfull.trans_eq (congrArg (fun l => ((List.filter (fun g : RFrame => decide (g.port = port)) l).map
          (fun g => g.bytes.length + 4)).sum + b.length + 4) hwait).symm
  · intro t port b ok s hp hr
    refine ⟨_, rfl, ?_⟩
    rw [if_pos hp, receiveFrame_off (by rwa [portReceives_advance])]
  · intro t port b s hp hptp
    refine ⟨_, rfl, ?_⟩
    refine congrArg Host.Outcome.next ?_
    rw [if_pos hp, if_pos hp, ptpMessage, advance_cls, parseFrame_advance, if_pos hptp]
  · intro t par f x s hx hfin hf ha hm ht hup hst hpar
    obtain ⟨log, hlog⟩ := ptpTake_servo (b := f.bytes) ha f.port (deepCounted f x s)
    have hd := deepCounted_only f x s
    have hpar1 : parentAfter f.port (ptpType x) (deepCounted f x s) = par := by
      rw [hpar, parentAfter, hd.time, hd.freeCtr]
    have hup1 : (deepCounted f x s).boot.coresUp = true := by rw [hd.boot, hup]
    have hsrc : timeSource (deepCounted f x s) = timeSource s := by
      unfold deepCounted
      split
      · exact cfgN_congr ((Frame.countQ (l := [.counters]) (.of_all (by decide)) (.refl _ s) ..).vals (by decide)) ..
      · rfl
    rw [onePass_ptpEnds hx hfin hf ha hm ht, hlog]
    by_cases hport : par = f.port
    · obtain ⟨z, hz, hfree, hbuf, htab, hparent, hoff, hdelay, hlive⟩ := ptpServo_parent (log := log) hup1
        (hpar1.trans hport) (by rw [hsrc, hd.time]; exact hst)
      rw [hz]
      rw [hd.freeCtr] at hfree hoff hdelay
      rw [hsrc, hd.clock] at hlive
      exact ⟨hparent.trans hport.symm, by omega, hbuf.trans hd.buf, htab.trans hd.tables, fun hn => absurd hport hn,
        fun _ => ⟨hoff, hdelay, hlive⟩⟩
    · rw [ptpServo_other hup1 (by rw [hpar1]; exact hport)]
      refine ⟨hpar1, ?_, hd.buf, hd.tables, fun _ => ?_, fun h => absurd h hport⟩
      · have hfree : (parentChosen f.port (ptpType x) (deepCounted f x s)).freeCtr = s.freeCtr + 1 :=
          congrArg (· + 1) hd.freeCtr
        omega
      · unfold parentChosen
        rw [hpar1, hd.time]
  · intro t f x s hx hfin hf hdeep ha ht
    exact onePass_ptpThrough hx hfin hf hdeep ha ht
  · intro t pipe s
    refine ⟨fun f rest z hrec hfits hz => ⟨_, rfl, ?_⟩, fun hidle => ⟨_, rfl, ?_⟩⟩
    · simp only [recircPass, recircOf_advance, hrec, if_pos hfits, ← hz]
    · have hstay : recircPass t pipe (advance t s) = runWaiting t pipe (waitingOf s pipe) (advance t s) := by
        rcases hidle with hnil | ⟨f, rest, hrec, hfull⟩
        · simp only [recircPass, recircOf_advance, hnil, waitingOf_advance]
        · simp only [recircPass, recircOf_advance, hrec, if_neg (Nat.not_le.2 hfull), waitingOf_advance]
      rw [hstay]
      refine ⟨fun hw => runWaiting_blocked (.inl hw), fun g rest hw hfit => runWaiting_blocked (.inr ⟨g, rest, hw, hfit⟩),
        fun g hw hfit => ?_⟩
      simp only [hw, runWaiting, hfit, ↓reduceIte]
  · intro t c f x s hx hfin hcfg
    have hd := deepCounted_only f x s
    have hvals : (deepCounted f x s).dict.vals = s.dict.vals := by
      unfold deepCounted
      split
      · exact (Frame.countQ (l := [.counters]) (.of_all (by decide)) (.refl _ s) ..).vals (by decide)
      · rfl
    rw [onePass_malformed hx hfin, malformedFrame_noted (by rwa [cfgN_congr hvals])]
    have hsig := signals_raiseDie (dieOf f.port) 3
      (malformedNoted { f with counted := f.counted || x.flags.testBit fDepth } c (deepCounted f x s))
    have hnote := (countQ_only 0x2803 c 1 (some f.port) none none (deepCounted f x s))
    refine ⟨?_, ?_, ?_, ?_⟩
    · refine (hsig.counter _ _).trans ((counter_countQ ..).trans ?_)
      refine congrArg (satAdd64 · 1) ?_
      unfold deepCounted
      split
      · exact counter_countQ_other (by unfold objKey; omega) ..
      · rfl
    · exact hsig.buf.trans (hnote.buf.trans hd.buf)
    · exact hsig.tables.trans (hnote.tables.trans hd.tables)
    · exact (congrArg Classifier.malformedLast hsig.cls :)
  · intro t f x s hx hfin hf ha hdeep
    exact onePass_plain hx hfin hf ha hdeep
  · intro t die s hret hbusy
    have hrun : bankRetire die (advance t s) = raise 224 (modCls (fun c => { c with retiring := [] }) (advance t s)) := by
      simp only [bankRetire, advance_cls, hret, hbusy, List.contains_cons, BEq.rfl, Bool.true_or, Bool.not_false,
        Bool.and_self, ↓reduceIte, List.filter_cons, ne_eq, not_true_eq_false, decide_false, Bool.false_eq_true,
        List.filter_nil]
    refine ⟨_, congrArg Host.Outcome.next hrun, ?_, raise_sets (n := 224) (by decide) _⟩
    rw [(signals_raise ..).cls]
    rfl

end Sys2Proof
end

section
/-! Block transfers of the dictionary: snapshots of READ_BLOCK, stagings of WRITE_BLOCK, and their expiries (spec 02 R82,
R83). -/

namespace Sys2Proof.Machine
open Sys2Proof

/-! ### A request through the mailbox and its answer -/

section Serve
variable {h : Handler} {s x : State} {b : Bytes} {kind : Nat} {mine : Msg → Bool} {f : Bool}

theorem mbxHolds_advance (t : Nat) (hm : MbxHolds s b kind) : MbxHolds (advance t s) b kind := by
  simpa only [MbxHolds, advance_mbx, advance_boot] using hm

/-- The request that the mailbox holds gets what its handler says. -/
theorem mbxServe_replied {r : Reply} (hm : MbxHolds s b kind) (hmine : mine (parseMsg b 0) = true)
    (hh : h (mbxReq s f b) s = (x, r)) : mbxServe mine h f s = reply (reqHead (mbxReq s f b)) r x := by
  obtain ⟨hup, horphans, haccepted, hboot, -⟩ := hm
  have hq : mine (mbxReq s f b).msg = true := hmine
  simp only [mbxServe, hup, horphans, haccepted, guarded, hboot, hq, hh, decide_false, Bool.false_and, Bool.not_true,
    Bool.false_eq_true, ↓reduceIte]

theorem mbxServe_ok {pa pb ty : Nat} {data : Bytes} (hm : MbxHolds s b kind) (hmine : mine (parseMsg b 0) = true)
    (hh : h (mbxReq s f b) s = (x, .ok pa pb ty data)) :
    mbxServe mine h f s = mbxRespond 1 (parseMsg b 0).kind (parseMsg b 0).reqId (parseMsg b 0).index (parseMsg b 0).sub
      ty pa pb data x :=
  mbxServe_replied hm hmine hh

theorem mbxServe_abort {c : Nat} (hm : MbxHolds s b kind) (hmine : mine (parseMsg b 0) = true)
    (hh : h (mbxReq s f b) s = (x, .abort c)) :
    mbxServe mine h f s = mbxRespond 3 (parseMsg b 0).kind (parseMsg b 0).reqId (parseMsg b 0).index (parseMsg b 0).sub
      0 c 0 [] x :=
  mbxServe_replied hm hmine hh

end Serve

theorem responds_mbxRespond (b : Bytes) (pa pb ty : Nat) (data : Bytes) (s : State) :
    Responds (mbxRespond 1 (parseMsg b 0).kind (parseMsg b 0).reqId (parseMsg b 0).index (parseMsg b 0).sub ty pa pb data s)
      b pa pb ty data := by
  unfold Responds
  simp only [mbxRespond_mbx, mbxRespond_dict, and_self]

/-- Nobody is told of a change where every subscription is periodic (spec 02 R84). -/
theorem notifyChanges_quiet {s : State} (h : NoOnChange s) : notifyChanges s = s := by
  have hnone : s.dict.subs.filter (fun u => decide (u.period = 0)) = [] :=
    List.filter_eq_nil_iff.2 fun x hx => by simpa using h x hx
  rw [notifyChanges, hnone]
  rfl

/-! ### A list with one key -/

section Keyed
variable {α : Type} {K Q : α → Bool} (l : List α)

theorem find?_filter_other (h : ∀ x, Q x = true → K x = false) : (l.filter (fun x => !K x)).find? Q = l.find? Q := by
  rw [List.find?_filter]
  congr 1
  funext x
  cases hq : Q x
  · simp
  · simp [h x hq]

theorem find?_filter_same (h : ∀ x, Q x = true → K x = true) : (l.filter (fun x => !K x)).find? Q = none := by
  rw [List.find?_filter, List.find?_eq_none]
  intro x _ hx
  obtain ⟨hk, hq⟩ : K x = false ∧ Q x = true := by simpa using hx
  exact Bool.noConfusion ((h x hq).symm.trans hk)

/-- The element that replaces those of its key is found. -/
theorem find?_replaced_same {y : α} (h : ∀ x, Q x = true → K x = true) (hy : Q y = true) :
    (l.filter (fun x => !K x) ++ [y]).find? Q = some y := by
  rw [List.find?_append, find?_filter_same l h, Option.none_or, List.find?_cons_of_pos hy]

theorem find?_replaced_other {y : α} (h : ∀ x, Q x = true → K x = false) (hy : K y = true) :
    (l.filter (fun x => !K x) ++ [y]).find? Q = l.find? Q := by
  have hq : ¬ Q y = true := fun hq => Bool.noConfusion ((h y hq).symm.trans hy)
  rw [List.find?_append, find?_filter_other l h, List.find?_cons_of_neg hq, List.find?_nil, Option.or_none]

theorem mem_filter_not {x : α} : x ∈ l.filter (fun y => !K y) ↔ x ∈ l ∧ ¬ K x = true := by
  simp [List.mem_filter]

end Keyed

theorem keys_eq {a b c w i k w' i' k' : Nat} (h : a = w ∧ b = i ∧ c = k) (h' : a = w' ∧ b = i' ∧ c = k') :
    (w, i, k) = (w', i', k') := by
  obtain ⟨rfl, rfl, rfl⟩ := h
  obtain ⟨rfl, rfl, rfl⟩ := h'
  rfl

/-! ### Snapshots -/

section Snapshots
variable {s : State} {w i k : Nat}

def snapNow (w i k : Nat) (v : Bytes) (s : State) : Snapshot :=
  { session := w, index := i, sub := k, bytes := v, at_ := s.clock }

/-- The snapshot of a value that was taken now, in place of the one before. -/
def snapTaken (w i k : Nat) (v : Bytes) (s : State) : State :=
  modDict (fun d => { d with snaps := d.snaps ++ [snapNow w i k v s] }) (dropSnap w i k s)

def snapIs (w i k : Nat) (x : Snapshot) : Bool := decide (x.session = w ∧ x.index = i ∧ x.sub = k)

/-- The snapshots that can still be read, as `snapOf` finds them. -/
def snapLive (s : State) (w i k : Nat) (x : Snapshot) : Bool := snapIs w i k x && decide (s.clock < x.at_ + blockIdle)

theorem snapOf_eq : snapOf s w i k = (s.dict.snaps.find? (snapLive s w i k)).map (·.bytes) := rfl

theorem snapIs_of_live {x : Snapshot} (h : snapLive s w i k x = true) : snapIs w i k x = true :=
  (Bool.and_eq_true_iff.1 h).1

theorem snapOf_snapTaken_same (v : Bytes) : snapOf (snapTaken w i k v s) w i k = some v := by
  have hlive : snapLive s w i k (snapNow w i k v s) = true := by simp [snapLive, snapIs, snapNow, blockIdle]
  exact congrArg (Option.map (·.bytes)) (find?_replaced_same (K := snapIs w i k) (Q := snapLive s w i k) s.dict.snaps
    (fun _ => snapIs_of_live) hlive)

theorem snapOf_snapTaken_other (v : Bytes) {w' i' k' : Nat} (h : (w', i', k') ≠ (w, i, k)) :
    snapOf (snapTaken w i k v s) w' i' k' = snapOf s w' i' k' := by
  refine congrArg (Option.map (·.bytes)) (find?_replaced_other (K := snapIs w i k) (Q := snapLive s w' i' k')
    (y := snapNow w i k v s) s.dict.snaps (fun x hx => ?_) (decide_eq_true ⟨rfl, rfl, rfl⟩))
  exact decide_eq_false fun hk => h (keys_eq (of_decide_eq_true (snapIs_of_live hx)) hk)

theorem snapOf_none (h : ∀ x ∈ s.dict.snaps, x.session = w → x.index = i → x.sub = k → x.at_ + 10 ^ 16 ≤ s.clock) :
    snapOf s w i k = none := by
  simp only [snapOf, Option.map_eq_none_iff, List.find?_eq_none, Bool.and_eq_true, decide_eq_true_eq, blockIdle, not_and]
  rintro x hx ⟨hw, hi, hk⟩
  exact fun ht => Nat.not_lt.2 (h x hx hw hi hk) (of_decide_eq_true ht)

theorem snapOf_isSome (h : ∃ x ∈ s.dict.snaps, x.session = w ∧ x.index = i ∧ x.sub = k ∧ s.clock < x.at_ + 10 ^ 16) :
    (snapOf s w i k).isNone = false := by
  obtain ⟨x, hx, hw, hi, hk, ht⟩ := h
  simp only [snapOf, Option.isNone_map, Option.isNone_eq_false_iff, List.find?_isSome, Bool.and_eq_true, decide_eq_true_eq]
  exact ⟨x, hx, ⟨hw, hi, hk⟩, ht⟩

end Snapshots

/-! ### READ_BLOCK -/

section Read
variable {q : Req} {s : State} {r : ObjRow}

/-- The value of a READ_BLOCK: at its first block the value itself, later the snapshot. -/
def BlockValue (q : Req) (s : State) (r : ObjRow) (v : Bytes) : Prop :=
  (q.msg.pa = 0 ∧ v = objValue s q.session q.msg.index q.msg.sub r)
    ∨ (q.msg.pa ≠ 0 ∧ snapOf s q.session q.msg.index q.msg.sub = some v ∧ q.msg.pa ≤ v.length)

theorem readAccess_nil (hwo : r.acc ≠ .wo) (hact : r.acc ≠ .act) (hty : q.msg.ty = 0 ∨ q.msg.ty = r.ty)
    (hrole : r.rd ≤ q.role) : readAccess q r = [] := by
  have hty' : ¬(q.msg.ty ≠ 0 ∧ q.msg.ty ≠ r.ty) := by tauto
  simp [readAccess, abortIf, hwo, hact, hty', Nat.not_lt.2 hrole]

theorem readBlockOne_serves (hd : objDesc q.msg.index q.msg.sub = some r) (ha : readAccess q r = []) {v : Bytes}
    (hv : BlockValue q s r v) :
    readBlockOne q s = (snapTaken q.session q.msg.index q.msg.sub v s,
      .ok q.msg.pa v.length (if slice v q.msg.pa (min q.msg.pb q.limit) = [] then 0 else r.ty)
        (slice v q.msg.pa (min q.msg.pb q.limit))) := by
  obtain ⟨hpa, rfl⟩ | ⟨hpa, hsnap, hlen⟩ := hv
  · simp only [readBlockOne, hd, ha, hpa]
    cases snapOf s q.session q.msg.index q.msg.sub <;> rfl
  · simp only [readBlockOne, hd, ha, hsnap, hpa, Nat.not_lt.2 hlen, ne_eq, not_false_eq_true, Option.isNone_some,
      decide_true, decide_false, Bool.and_false]
    rfl

theorem readBlockOne_beyond (hd : objDesc q.msg.index q.msg.sub = some r) (ha : readAccess q r = []) {v : Bytes}
    (hpa : q.msg.pa ≠ 0) (hsnap : snapOf s q.session q.msg.index q.msg.sub = some v) (hlen : v.length < q.msg.pa) :
    readBlockOne q s = (s, .abort 7) := by
  simp only [readBlockOne, hd, ha, hsnap, hpa, hlen, ne_eq, not_false_eq_true, Option.isNone_some, decide_true,
    Bool.and_false, Bool.and_self]
  rfl

theorem readBlockOne_broken (hpa : q.msg.pa ≠ 0) (hsnap : snapOf s q.session q.msg.index q.msg.sub = none) :
    readBlockOne q s = (s, .abort aSTATE) := by
  simp only [readBlockOne, hsnap, hpa, ne_eq, not_false_eq_true, Option.isNone_none, decide_true, Bool.and_self]
  have hstate : ∀ l m : List Nat, firstAbort (l ++ abortIf true aSTATE ++ m) = some aSTATE := fun l m =>
    firstAbort_state (by simp [abortIf])
  cases objDesc q.msg.index q.msg.sub with
  | none => simpa using congrArg (fun o => (s, Reply.abort (o.getD aNO_OBJECT))) (hstate (missing q.msg.index q.msg.sub) [])
  | some r => simp only [hstate]

theorem firstAbort_missing {i k : Nat} (hd : objDesc i k = none) :
    (firstAbort (missing i k)).getD aNO_OBJECT = if objKnown i then 2 else 1 := by
  simp only [missing, hd]
  cases objKnown i <;> rfl

theorem readBlockOne_missing (hpa : q.msg.pa = 0) (hd : objDesc q.msg.index q.msg.sub = none) :
    readBlockOne q s = (s, .abort (if objKnown q.msg.index then 2 else 1)) := by
  simp only [readBlockOne, hd, hpa, ne_eq, not_true_eq_false, decide_false, Bool.false_and, abortIf, Bool.false_eq_true,
    ↓reduceIte, List.append_nil, firstAbort_missing hd]

end Read

/-! ### READ_BLOCK through the mailbox -/

section ReadRuns
variable {t : Nat} {f : Bool} {b : Bytes} {s : State}

theorem kindIs_of_holds {k : Nat} (hm : MbxHolds s b k) : kindIs k (parseMsg b 0) = true := by
  obtain ⟨-, -, -, -, hkind⟩ := hm
  exact decide_eq_true hkind

theorem runs_readBlock_abort {c : Nat} (hm : MbxHolds s b 3)
    (hh : readBlockOne (mbxReq (advance t s) f b) (advance t s) = (advance t s, .abort c)) :
    Runs (.readBlock ⟨t, .mailbox, f⟩) s (fun u => Aborted u b c ∧ AnswersOnly (advance t s) u) := by
  refine ⟨mbxServe (kindIs 3) readBlockOne f (advance t s), rfl, ?_⟩
  rw [mbxServe_abort (mbxHolds_advance t hm) (kindIs_of_holds hm) hh]
  exact ⟨aborted_mbxRespond .., mbxRespond_only ..⟩

theorem runs_readBlock {m : Msg} {v : Bytes} {r : ObjRow} (hmsg : m = parseMsg b 0) (hm : MbxHolds s b 3)
    (hd : objDesc m.index m.sub = some r) (ha : readAccess (mbxReq (advance t s) f b) r = [])
    (hv : BlockValue (mbxReq (advance t s) f b) (advance t s) r v) :
    Runs (.readBlock ⟨t, .mailbox, f⟩) s (fun u =>
      Responds u b m.pa v.length (if slice v m.pa (min m.pb 4068) = [] then 0 else r.ty) (slice v m.pa (min m.pb 4068))
      ∧ snapOf u 0 m.index m.sub = some v
      ∧ (∀ w i k, (w, i, k) ≠ (0, m.index, m.sub) → snapOf u w i k = snapOf (advance t s) w i k)
      ∧ AnswersOnly { advance t s with dict := { s.dict with snaps := u.dict.snaps } } u) := by
  subst hmsg
  refine ⟨mbxServe (kindIs 3) readBlockOne f (advance t s), rfl, ?_⟩
  rw [mbxServe_ok (mbxHolds_advance t hm) (kindIs_of_holds hm) (readBlockOne_serves hd ha hv)]
  have hsnap : ∀ (x : State) flags kind reqId index sub ty pa pb data w i k,
      snapOf (mbxRespond flags kind reqId index sub ty pa pb data x) w i k = snapOf x w i k := by
    intros
    simp only [snapOf, mbxRespond_dict, mbxRespond_clock]
  refine ⟨responds_mbxRespond .., ?_, fun w i k hne => ?_, ?_⟩
  · rw [hsnap]
    exact snapOf_snapTaken_same v
  · rw [hsnap]
    exact snapOf_snapTaken_other v hne
  · rw [mbxRespond_dict]
    have hx : { advance t s with dict := { s.dict with
        snaps := (snapTaken 0 (parseMsg b 0).index (parseMsg b 0).sub v (advance t s)).dict.snaps } }
        = snapTaken 0 (parseMsg b 0).index (parseMsg b 0).sub v (advance t s) := by
      rw [← advance_dict s t]
      rfl
    exact hx ▸ mbxRespond_only ..

end ReadRuns

/-! ### Expiry of a snapshot -/

theorem runs_snapshotExpiry_due {t w i k : Nat} {s : State}
    (h : ∀ x ∈ s.dict.snaps, x.session = w → x.index = i → x.sub = k → x.at_ + 10 ^ 16 ≤ (advance t s).clock) :
    Runs (.snapshotExpiry t w ⟨i, k⟩) s (fun u =>
      u = modDict (fun d => { d with snaps := u.dict.snaps }) (advance t s)
      ∧ ∀ x, x ∈ u.dict.snaps ↔ x ∈ s.dict.snaps ∧ ¬(x.session = w ∧ x.index = i ∧ x.sub = k)) := by
  have hnone : (snapOf (advance t s) w i k).isNone = true := by
    rw [snapOf_none (by rwa [advance_dict])]
    rfl
  refine ⟨dropSnap w i k (advance t s), congrArg Host.Outcome.next (if_pos hnone), rfl, fun x => ?_⟩
  rw [dropSnap, modDict_dict, advance_dict, mem_filter_not, decide_eq_true_eq]

theorem runs_snapshotExpiry_early {t w i k : Nat} {s : State}
    (h : ∃ x ∈ s.dict.snaps, x.session = w ∧ x.index = i ∧ x.sub = k ∧ (advance t s).clock < x.at_ + 10 ^ 16) :
    Runs (.snapshotExpiry t w ⟨i, k⟩) s (fun u => u = advance t s) := by
  have hsome : (snapOf (advance t s) w i k).isNone = false := snapOf_isSome (by rwa [advance_dict])
  exact ⟨_, congrArg Host.Outcome.next (if_neg (by simp [hsome])), rfl⟩

end Sys2Proof.Machine
end

section
/-! Values that are written: what a write changes beside its value, and the stagings of WRITE_BLOCK (spec 02 R54,
R83). -/

namespace Sys2Proof.Machine
open Sys2Proof

/-! ### The values of the dictionary -/

section Has
variable {α : Type}

theorem has_ins (t : Tab α) (i j : Nat) (v : α) : Tab.has (Tab.ins t i v) j = (i == j || Tab.has t j) := by
  induction t with
  | nil => rfl
  | cons e t ih =>
    obtain ⟨k, w⟩ := e
    simp only [Tab.ins]
    split
    · rfl
    · split
      · next h => subst h; simp [Tab.has]
      · simp only [Tab.has, List.any_cons] at ih ⊢
        rw [ih, Bool.or_left_comm]

theorem has_del_other (t : Tab α) {i j : Nat} (h : i ≠ j) : Tab.has (Tab.del t i) j = Tab.has t j := by
  induction t with
  | nil => rfl
  | cons e t ih =>
    obtain ⟨k, w⟩ := e
    simp only [Tab.del]
    split
    · next hk => simp [Tab.has, hk, h]
    · simpa [Tab.has] using congrArg (k == j || ·) ih

theorem has_del_same {t : Tab α} (i : Nat) (h : (t.map (·.1)).Nodup) : Tab.has (Tab.del t i) i = false := by
  induction t with
  | nil => rfl
  | cons e t ih =>
    obtain ⟨k, w⟩ := e
    obtain ⟨hk, ht⟩ := List.nodup_cons.1 (List.map_cons ▸ h)
    simp only [Tab.del]
    split
    · next h' =>
      subst h'
      exact List.any_eq_false.2 fun e he hek => hk (List.mem_map.2 ⟨e, he, eq_of_beq hek⟩)
    · next h' =>
      simp only [Tab.has, List.any_cons] at ih ⊢
      rw [ih ht]
      simpa using h'

theorem del_sublist (t : Tab α) (i : Nat) : (Tab.del t i).Sublist t := by
  induction t with
  | nil => exact .slnil
  | cons e t ih =>
    simp only [Tab.del]
    split
    · exact .cons _ (.refl _)
    · exact ih.cons_cons _

end Has

section Values
variable {i k : Nat} {v : Bytes} {s : State}

theorem cfg_setVal_same (h : v = objDefault i k → (s.dict.vals.map (·.1)).Nodup) : cfg (setVal i k v s) i k = v := by
  by_cases hv : v = objDefault i k
  · simp only [cfg, setVal, modDict, if_pos hv, has_del_same _ (h hv), Bool.false_eq_true, ↓reduceIte]
    exact hv.symm
  · simp [cfg, setVal, modDict, hv, has_ins, Tab.get_ins_same]

theorem cfg_setVal_other {i' k' : Nat} (h : objKey i k ≠ objKey i' k') : cfg (setVal i k v s) i' k' = cfg s i' k' := by
  have hne : (objKey i k == objKey i' k') = false := by simpa using h
  simp only [cfg, setVal, modDict]
  split
  · rw [has_del_other _ h, Tab.get_del_other _ h]
  · rw [has_ins, hne, Bool.false_or, Tab.get_ins_other _ _ h]

theorem nodup_setVal_default (hv : v = objDefault i k) (h : (s.dict.vals.map (·.1)).Nodup) :
    ((setVal i k v s).dict.vals.map (·.1)).Nodup := by
  simp only [setVal, modDict, if_pos hv]
  exact h.sublist ((del_sublist _ _).map _)

theorem objKey_ne {i k i' k' : Nat} (h1 : k < 256) (h2 : k' < 256) (h : (i', k') ≠ (i, k)) :
    objKey i k ≠ objKey i' k' := by
  intro he
  simp only [objKey] at he
  exact h (by rw [show i' = i by omega, show k' = k by omega])

theorem cfg_congr {u : State} (h : u.dict.vals = s.dict.vals) (i k : Nat) : cfg u i k = cfg s i k := by
  simp only [cfg, h]

end Values

/-! ### What a value's owner does with it (spec 02 R54) -/

/-- From `s` to `u` nothing was staged or subscribed, and the values are the same where `c` holds. -/
structure OwnerActs (c : Prop) (s u : State) : Prop where
  stagings : u.dict.stagings = s.dict.stagings
  subs : ∀ x ∈ u.dict.subs, x ∈ s.dict.subs
  vals : c → u.dict.vals = s.dict.vals

section Owner
variable {c : Prop} {s u v : State}

theorem OwnerActs.refl (s : State) : OwnerActs c s s := ⟨rfl, fun _ h => h, fun _ => rfl⟩

theorem OwnerActs.trans (h : OwnerActs c s u) (g : OwnerActs c u v) : OwnerActs c s v :=
  ⟨g.stagings.trans h.stagings, fun x hx => h.subs x (g.subs x hx), fun hc => (g.vals hc).trans (h.vals hc)⟩

theorem OwnerActs.ite {p : Prop} [Decidable p] (h : p → OwnerActs c s u) (g : ¬p → OwnerActs c s v) :
    OwnerActs c s (if p then u else v) := by
  split
  · exact h ‹_›
  · exact g ‹_›

theorem OwnerActs.of_frame {l : List Blk} (h : Frame l s u) (hd : Blk.dict ∉ l) : OwnerActs c s u := by
  have hd := h.dict hd
  refine ⟨(congrArg Dict.stagings hd :), fun x hx => ?_, fun _ => (congrArg Dict.vals hd :)⟩
  have hsubs : u.dict.subs = s.dict.subs := (congrArg Dict.subs hd :)
  rwa [← hsubs]

theorem ownerActs_sessionEnd (n : Nat) (s : State) : OwnerActs c s (sessionEnd n s) :=
  ⟨rfl, fun _ hx => (List.mem_filter.1 hx).1, fun _ => rfl⟩

theorem ownerActs_setRate (x : Int) (s : State) (hc : ¬c) : OwnerActs c s (setRate x s) :=
  ⟨rfl, fun _ hx => hx, fun h => absurd h hc⟩

theorem ownerActs_logPolder (o : Origin) (n st : Nat) (flash : Bool) (s : State) :
    OwnerActs c s (logPolder o n false (savePolder n st flash s)) :=
  .of_frame (l := [.boot, .counters]) (Frame.logPolder (.of_all rfl) (Frame.savePolder (.of_all rfl) (.refl _ s) n st flash)
    o n false) (by decide)

theorem ownerActs_portValue (s0 : State) (p sub : Nat) (s : State) :
    OwnerActs c s (match sub with
      | 1 => requeue s0 p s
      | 5 => burstsChanged s0 p s
      | 7 => burstsChanged s0 p s
      | 0xA => retrack s0 p s
      | _ => s) := by
  have hl : Blk.dict ∉ [Blk.sched] := by decide
  split
  · exact .of_frame (Frame.requeue (.of_all rfl) (.refl _ s) s0 p) hl
  · exact .of_frame (Frame.burstsChanged (.of_all rfl) (.refl _ s) s0 p) hl
  · exact .of_frame (Frame.burstsChanged (.of_all rfl) (.refl _ s) s0 p) hl
  · exact .of_frame (Frame.retrack (.of_all rfl) (.refl _ s) s0 p) hl
  · exact .refl s

/-- The rate of the time base alone is a value that its owner writes again. -/
theorem ownerActs_writeEffect (q : Req) (s0 s : State) : OwnerActs (q.msg.index ≠ 0x1200) s (writeEffect q s0 s) := by
  refine .ite (fun _ => .ite (fun _ => ?_) fun _ => .refl s) fun _ => .ite (fun _ => ownerActs_portValue ..) fun _ => ?_
  · exact .of_frame (Frame.portAdminChanged (.of_all rfl) (.refl
      [.counters, .ports, .tables, .buf, .sched, .ep, .funcs, .polders, .wq, .siphon] s) _) (by decide)
  refine .ite (fun _ => .ite (fun _ => .refl s) fun _ => ?_) fun _ => .ite (fun h => ownerActs_setRate _ s (· h)) fun _ => ?_
  · exact .of_frame (Frame.gatesOff (.of_all rfl) (.refl [.sched] s) _) (by decide)
  refine .ite (fun _ => .ite (fun _ => ⟨rfl, fun _ h => h, fun _ => rfl⟩) fun _ => .refl s) fun _ => .ite (fun _ => ?_) fun _ => ?_
  · exact .of_frame (Frame.lowCheckAll (.of_all rfl) (.refl [.buf] s)) (by decide)
  refine .ite (fun _ => .ite (fun _ => ?_) fun _ => .refl s) fun _ => .ite (fun _ => .ite (fun _ => ?_) fun _ => ?_) fun _ => ?_
  · exact .of_frame (Frame.ratesFromPorts (.of_all rfl) (.refl [.siphon] s)) (by decide)
  · exact ⟨rfl, fun _ h => h, fun _ => rfl⟩
  · exact .ite (fun _ => ownerActs_logPolder ..) fun _ => .refl s
  · exact .ite (fun _ => .ite (fun _ => ownerActs_sessionEnd ..) fun _ => .refl s) fun _ => .refl s

end Owner

/-! ### The rate of the time base, which its owner writes again -/

theorem beBytes_beNat (v : Bytes) : beBytes v.length (beNat v) = v := by
  induction v using List.reverseRecOn with
  | nil => rfl
  | append_singleton v x ih =>
    have hx : x.toNat < 256 := x.isLt
    rw [List.length_append, List.length_singleton, beBytes, beNat_append_singleton,
      show (beNat v * 256 + x.toNat) / 256 = beNat v by omega, ih, byteOf]
    congr 2
    exact BitVec.eq_of_toNat_eq (by rw [BitVec.toNat_ofNat]; omega)

theorem beNat_lt (v : Bytes) : beNat v < 256 ^ v.length := by
  induction v using List.reverseRecOn with
  | nil => exact Nat.one_pos
  | append_singleton v x ih =>
    have hx : x.toNat < 256 := x.isLt
    rw [List.length_append, List.length_singleton, beNat_append_singleton, Nat.pow_succ]
    omega

theorem unsignedOf_signedOf {n : Nat} (h : n < 2 ^ 32) : unsignedOf 32 (signedOf 32 n) = n := by
  simp only [unsignedOf, signedOf]
  split <;> omega

/-- The row of a value that can be written is one of the object's rows. -/
theorem objDesc_row {i k : Nat} {r : ObjRow} (hi : 12 < i) (h3 : i ≠ 0x3000) (hd : objDesc i k = some r)
    (hro : r.acc ≠ .ro) : r ∈ objRowsAt i ∧ r.subFirst ≤ k ∧ k ≤ r.subLast := by
  simp only [objDesc, show ¬(1 ≤ i ∧ i ≤ 12) by omega, h3, ↓reduceIte] at hd
  split at hd
  · next r' hfind =>
    cases hd
    exact ⟨List.mem_of_find?_eq_some hfind, by simpa using List.find?_some hfind⟩
  · split at hd
    · cases hd
      exact absurd rfl hro
    · cases hd

theorem objDesc_rate {k : Nat} {r : ObjRow} (hd : objDesc 0x1200 k = some r) (hacc : r.acc = .rw ∨ r.acc = .rwp ∨ r.acc = .wo) :
    k = 5 ∧ r.ty = 6 ∧ r.len = 4 := by
  have hall : ∀ r ∈ objRowsAt 0x1200, r.acc = .rw ∨ r.acc = .rwp ∨ r.acc = .wo →
      r.subFirst = 5 ∧ r.subLast = 5 ∧ r.ty = 6 ∧ r.len = 4 := by decide +kernel
  obtain ⟨hmem, hfirst, hlast⟩ := objDesc_row (by decide) (by decide) hd
    (by rintro h; rw [h] at hacc; exact absurd hacc (by decide))
  obtain ⟨h1, h2, hty, hlen⟩ := hall r hmem hacc
  exact ⟨by omega, hty, hlen⟩

theorem objDesc_token {k : Nat} {r : ObjRow} (hd : objDesc 0x1140 k = some r) (hacc : r.acc = .rw ∨ r.acc = .rwp ∨ r.acc = .wo) :
    k = 1 := by
  have hall : ∀ r ∈ objRowsAt 0x1140, r.acc = .rw ∨ r.acc = .rwp ∨ r.acc = .wo → r.subFirst = 1 ∧ r.subLast = 1 := by
    decide +kernel
  obtain ⟨hmem, hfirst, hlast⟩ := objDesc_row (by decide) (by decide) hd
    (by rintro h; rw [h] at hacc; exact absurd hacc (by decide))
  obtain ⟨h1, h2⟩ := hall r hmem hacc
  omega

/-! ### A value that is written (spec 02 R54) -/

section Written
variable {q : Req} {v : Bytes} {s : State}

/-- From `s` to `u` the value of the request is `v`, and every other value is as it was. -/
structure ValueSet (q : Req) (v : Bytes) (s u : State) : Prop where
  same : cfg u q.msg.index q.msg.sub = v
  others : ∀ i k, k < 256 → (i, k) ≠ (q.msg.index, q.msg.sub) → cfg u i k = cfg s i k

theorem writeValue_eq (hplain : ownWrite q.msg = false) (htoken : q.msg.index ≠ 0x1140) (hnonce : q.msg.index ≠ 0x1421) :
    writeValue q v s = writeEffect q s (logObject q.origin (setVal q.msg.index q.msg.sub v s)) := by
  simp only [ownWrite, Bool.or_eq_false_iff, decide_eq_false_iff_not] at hplain
  obtain ⟨⟨hkey, -⟩, hdma⟩ := hplain
  simp only [writeValue, htoken, hnonce, hdma, hkey, Bool.false_eq_true, ↓reduceIte]

theorem logObject_dict (o : Origin) (s : State) :
    { (logObject o s).dict with counters := s.dict.counters } = s.dict :=
  (Frame.logObject (l := [.boot, .counters]) (.of_all rfl) (.refl _ s) o).dict (by decide)

theorem writeEffect_rate {s0 : State} (h : q.msg.index = 0x1200) : writeEffect q s0 s = setRate (cfgI s 0x1200 5) s := by
  unfold writeEffect
  dsimp only
  rw [h]
  rfl

/-- The value that is set, for a value whose owner writes it as it is. -/
theorem valueSet_setVal (hsub : q.msg.sub < 256) (hnodup : (s.dict.vals.map (·.1)).Nodup) {u : State}
    (h : u.dict.vals = (setVal q.msg.index q.msg.sub v s).dict.vals) : ValueSet q v s u := by
  refine ⟨?_, fun i k hk hne => ?_⟩
  · rw [cfg_congr h]
    exact cfg_setVal_same fun _ => hnodup
  · rw [cfg_congr h]
    exact cfg_setVal_other (objKey_ne hsub hk hne)

theorem valueSet_setRate (hidx : q.msg.index = 0x1200) (hfive : q.msg.sub = 5) (hlen : v.length = 4)
    (hnodup : (s.dict.vals.map (·.1)).Nodup) {y : State}
    (h : y.dict.vals = (setVal q.msg.index q.msg.sub v s).dict.vals) : ValueSet q v s (setRate (cfgI y 0x1200 5) y) := by
  rw [hidx, hfive] at h
  have hv : cfg y 0x1200 5 = v := (cfg_congr h _ _).trans (cfg_setVal_same fun _ => hnodup)
  have hlt : beNat v < 2 ^ 32 := by simpa [hlen] using beNat_lt v
  have hback : beBytes 4 (unsignedOf 32 (cfgI y 0x1200 5)) = v := by
    rw [cfgI, cfgN, hv, unsignedOf_signedOf hlt, ← hlen, beBytes_beNat]
  have hvals : (setRate (cfgI y 0x1200 5) y).dict.vals = (setVal 0x1200 5 v y).dict.vals := by
    rw [setRate, hback]
    rfl
  refine ⟨?_, fun i k hk hne => ?_⟩
  · rw [hidx, hfive, cfg_congr hvals]
    refine cfg_setVal_same fun hd => ?_
    rw [h]
    exact nodup_setVal_default hd hnodup
  · rw [hidx, hfive] at hne
    have hkey := objKey_ne (i := 0x1200) (by decide : 5 < 256) hk hne
    rw [cfg_congr hvals, cfg_setVal_other hkey, cfg_congr h, cfg_setVal_other hkey]

/-- A write that its owner takes sets its value and no other; nothing is staged or subscribed by it. -/
theorem writeValue_sets {r : ObjRow} (hd : objDesc q.msg.index q.msg.sub = some r)
    (hacc : r.acc = .rw ∨ r.acc = .rwp ∨ r.acc = .wo) (hsub : q.msg.sub < 256) (hplain : ownWrite q.msg = false)
    (hnonce : q.msg.index ≠ 0x1421) (henc : encodes r.ty r.len v = true) (hnodup : (s.dict.vals.map (·.1)).Nodup) :
    ValueSet q v s (writeValue q v s) ∧ OwnerActs False s (writeValue q v s) := by
  have htoken : q.msg.index ≠ 0x1140 := by
    intro h
    rw [h] at hd
    simp [ownWrite, h, objDesc_token hd hacc] at hplain
  rw [writeValue_eq hplain htoken hnonce]
  have hlog := logObject_dict q.origin (setVal q.msg.index q.msg.sub v s)
  generalize logObject q.origin (setVal q.msg.index q.msg.sub v s) = y at hlog
  have hvals : y.dict.vals = (setVal q.msg.index q.msg.sub v s).dict.vals := (congrArg Dict.vals hlog :)
  have hsubs : y.dict.subs = s.dict.subs := (congrArg Dict.subs hlog :)
  have hset : OwnerActs False s y := ⟨(congrArg Dict.stagings hlog :), fun x hx => hsubs ▸ hx, False.elim⟩
  have hact := ownerActs_writeEffect q s y
  refine ⟨?_, hset.trans ⟨hact.stagings, hact.subs, False.elim⟩⟩
  by_cases hidx : q.msg.index = 0x1200
  · rw [writeEffect_rate hidx]
    rw [hidx] at hd
    obtain ⟨hfive, hty, hlen⟩ := objDesc_rate hd hacc
    rw [hty, hlen] at henc
    exact valueSet_setRate hidx hfive (by simpa [encodes] using henc) hnodup hvals
  · exact valueSet_setVal hsub hnodup ((hact.vals hidx).trans hvals)

end Written

end Sys2Proof.Machine
end

section
/-! WRITE_BLOCK: what is staged, what ends a transfer, and the value its last block writes (spec 02 R83). -/

namespace Sys2Proof.Machine
open Sys2Proof

/-! ### Stagings -/

section Stagings
variable {s u : State} {w i k : Nat}

def stagingIs (w i k : Nat) (x : Staging) : Bool := decide (x.session = w ∧ x.index = i ∧ x.sub = k)

/-- The stagings that can still grow, as `stagedOf` finds them. -/
def stagingLive (s : State) (w i k : Nat) (x : Staging) : Bool :=
  stagingIs w i k x && decide (s.clock < x.at_ + blockIdle)

theorem stagingIs_of_live {x : Staging} (h : stagingLive s w i k x = true) : stagingIs w i k x = true :=
  (Bool.and_eq_true_iff.1 h).1

def stagingNow (q : Req) (v : Bytes) (s : State) : Staging :=
  { session := q.session, index := q.msg.index, sub := q.msg.sub, total := q.msg.pb, bytes := v, at_ := s.clock }

theorem putStaging_eq {q : Req} (hidx : q.msg.index ≠ 0x1410) (v : Bytes) (s : State) :
    putStaging q v s = modDict (fun d => { d with stagings := d.stagings ++ [stagingNow q v s] })
      (clearStaging q.session q.msg.index q.msg.sub s) := by
  simp only [putStaging, hidx, ↓reduceIte]
  rfl

theorem stagedOf_putStaging_same {q : Req} (hidx : q.msg.index ≠ 0x1410) (v : Bytes) :
    stagedOf (putStaging q v s) q.session q.msg.index q.msg.sub = some v := by
  have hlive : stagingLive s q.session q.msg.index q.msg.sub (stagingNow q v s) = true := by
    simp [stagingLive, stagingIs, stagingNow, blockIdle]
  rw [putStaging_eq hidx]
  exact congrArg (Option.map (·.bytes)) (find?_replaced_same (K := stagingIs q.session q.msg.index q.msg.sub)
    (Q := stagingLive s q.session q.msg.index q.msg.sub) s.dict.stagings (fun _ => stagingIs_of_live) hlive)

theorem stagedOf_putStaging_other {q : Req} (hidx : q.msg.index ≠ 0x1410) (v : Bytes)
    (h : (w, i, k) ≠ (q.session, q.msg.index, q.msg.sub)) : stagedOf (putStaging q v s) w i k = stagedOf s w i k := by
  rw [putStaging_eq hidx]
  refine congrArg (Option.map (·.bytes)) (find?_replaced_other (K := stagingIs q.session q.msg.index q.msg.sub)
    (Q := stagingLive s w i k) (y := stagingNow q v s) s.dict.stagings (fun x hx => ?_) (decide_eq_true ⟨rfl, rfl, rfl⟩))
  exact decide_eq_false fun hk => h (keys_eq (of_decide_eq_true (stagingIs_of_live hx)) hk)

theorem stagedOf_cleared (h : u.dict.stagings = s.dict.stagings.filter (fun x => !stagingIs w i k x)) :
    stagedOf u w i k = none := by
  have hnone := find?_filter_same (K := stagingIs w i k) (Q := stagingLive u w i k) s.dict.stagings
    (fun _ => stagingIs_of_live)
  rw [← h] at hnone
  exact congrArg (Option.map (·.bytes)) hnone

/-- What the end of a staging leaves: of the dictionary the stagings of other values, and nothing of this one. -/
theorem dropStaging_stagings :
    (dropStaging w i k s).dict = { s.dict with stagings := s.dict.stagings.filter (fun x => !stagingIs w i k x) } := by
  unfold dropStaging
  split
  · next h =>
    have hkeep : s.dict.stagings.filter (fun x => !stagingIs w i k x) = s.dict.stagings := by
      refine List.filter_eq_self.2 fun x hx => ?_
      simp only [Bool.not_eq_true', List.any_eq_false] at h
      rw [Bool.not_eq_true']
      exact eq_false_of_ne_true (h x hx)
    rw [hkeep]
  · dsimp only
    split <;> rfl

theorem stagedOf_dropStaging : stagedOf (dropStaging w i k s) w i k = none :=
  stagedOf_cleared (congrArg Dict.stagings dropStaging_stagings :)

theorem stagedOf_none
    (h : ∀ x ∈ s.dict.stagings, x.session = w → x.index = i → x.sub = k → x.at_ + 10 ^ 16 ≤ s.clock) :
    stagedOf s w i k = none := by
  simp only [stagedOf, Option.map_eq_none_iff, List.find?_eq_none, Bool.and_eq_true, decide_eq_true_eq, blockIdle, not_and]
  rintro x hx ⟨hw, hi, hk⟩
  exact fun ht => Nat.not_lt.2 (h x hx hw hi hk) (of_decide_eq_true ht)

theorem stagedOf_isSome
    (h : ∃ x ∈ s.dict.stagings, x.session = w ∧ x.index = i ∧ x.sub = k ∧ s.clock < x.at_ + 10 ^ 16) :
    (stagedOf s w i k).isNone = false := by
  obtain ⟨x, hx, hw, hi, hk, ht⟩ := h
  simp only [stagedOf, Option.isNone_map, Option.isNone_eq_false_iff, List.find?_isSome, Bool.and_eq_true,
    decide_eq_true_eq]
  exact ⟨x, hx, ⟨hw, hi, hk⟩, ht⟩

end Stagings

/-! ### Expiry of a staging -/

section Expiry
variable {t w i k : Nat} {s : State}

theorem runs_stagingExpiry_early
    (h : ∃ x ∈ s.dict.stagings, x.session = w ∧ x.index = i ∧ x.sub = k ∧ (advance t s).clock < x.at_ + 10 ^ 16) :
    Runs (.stagingExpiry t w ⟨i, k⟩) s (fun u => u = advance t s) := by
  have hsome : (stagedOf (advance t s) w i k).isNone = false := stagedOf_isSome (by rwa [advance_dict])
  exact ⟨_, congrArg Host.Outcome.next (if_neg (by simp [hsome])), rfl⟩

theorem dropStaging_modDict (hidx : i ≠ 0x1410) :
    dropStaging w i k s = modDict (fun d => { d with stagings := (dropStaging w i k s).dict.stagings }) s := by
  obtain ⟨l, hl⟩ := dropStaging_eq hidx w k s
  rw [hl]
  rfl

/-- A staging of FirmwareStage leaves the slot it filled checked, with the first check failed (15 R527). -/
theorem dropStaging_slots (hlen : s.boot.slots.length = 2) (hslot : s.boot.slot ≤ 1)
    (h : ∃ x ∈ s.dict.stagings, x.session = w ∧ x.index = 0x1410 ∧ x.sub = k) :
    slotNo (dropStaging w 0x1410 k s) (1 - s.boot.slot) = { state := 2, other := 1, hdr := ImgHdr.none }
      ∧ slotNo (dropStaging w 0x1410 k s) s.boot.slot = slotNo s s.boot.slot := by
  have hany : s.dict.stagings.any (fun x => decide (x.session = w ∧ x.index = 0x1410 ∧ x.sub = k)) = true := by
    simpa only [List.any_eq_true, decide_eq_true_eq] using h
  have hdrop : (dropStaging w 0x1410 k s).boot.slots
      = s.boot.slots.set (1 - s.boot.slot) { state := 2, other := 1, hdr := ImgHdr.none } := by
    simp only [dropStaging, hany, Bool.not_true, Bool.false_eq_true, ↓reduceIte]
    rfl
  simp only [slotNo, hdrop, List.getD_eq_getElem?_getD, List.getElem?_set]
  refine ⟨?_, ?_⟩
  · rw [if_pos trivial, if_pos (by omega)]
    rfl
  · rw [if_neg (by omega)]

theorem runs_stagingExpiry_due
    (h : ∀ x ∈ s.dict.stagings, x.session = w → x.index = i → x.sub = k → x.at_ + 10 ^ 16 ≤ (advance t s).clock) :
    Runs (.stagingExpiry t w ⟨i, k⟩) s (fun u =>
      (∀ x, x ∈ u.dict.stagings ↔ x ∈ s.dict.stagings ∧ ¬(x.session = w ∧ x.index = i ∧ x.sub = k))
      ∧ (i ≠ 0x1410 → u = modDict (fun d => { d with stagings := u.dict.stagings }) (advance t s))
      ∧ (i = 0x1410 → s.boot.slots.length = 2 → s.boot.slot ≤ 1 →
        (∃ x ∈ s.dict.stagings, x.session = w ∧ x.index = i ∧ x.sub = k) →
        slotNo u (1 - s.boot.slot) = { state := 2, other := 1, hdr := ImgHdr.none }
        ∧ slotNo u s.boot.slot = slotNo s s.boot.slot)) := by
  have hnone : (stagedOf (advance t s) w i k).isNone = true := by
    rw [stagedOf_none (by rwa [advance_dict])]
    rfl
  refine ⟨dropStaging w i k (advance t s), congrArg Host.Outcome.next (if_pos hnone), fun x => ?_, dropStaging_modDict, ?_⟩
  · rw [dropStaging_stagings, mem_filter_not, advance_dict]
    simp only [stagingIs, decide_eq_true_eq]
  · rintro rfl hlen hslot hx
    have hslots := dropStaging_slots (s := advance t s) (by rwa [advance_boot]) (by rwa [advance_boot])
      (by rwa [advance_dict])
    simpa only [advance_boot, slotNo] using hslots

end Expiry

/-! ### WRITE_BLOCK -/

section Write
variable {q : Req} {s : State} {r : ObjRow} {v : Bytes}

/-- A block that continues what is staged of the value, and the bytes with it. -/
def BlockFollows (q : Req) (s : State) (v : Bytes) : Prop :=
  (q.msg.pa = 0 ∧ v = q.msg.data)
    ∨ (q.msg.pa ≠ 0 ∧ ∃ w, stagedOf s q.session q.msg.index q.msg.sub = some w ∧ w.length = q.msg.pa ∧ v = w ++ q.msg.data)

/-- The block's bytes with those staged, and whether it does not follow them. -/
theorem BlockFollows.value (h : BlockFollows q s v) :
    (if q.msg.pa = 0 then q.msg.data
      else (stagedOf s q.session q.msg.index q.msg.sub).getD [] ++ q.msg.data) = v
    ∧ (decide (q.msg.pa ≠ 0) && decide ((stagedOf s q.session q.msg.index q.msg.sub).map (·.length) ≠ some q.msg.pa))
      = false := by
  obtain ⟨hpa, rfl⟩ | ⟨hpa, w, hw, hlen, rfl⟩ := h
  · simp [hpa]
  · simp [hpa, hw, hlen]

theorem writeAccess_nil (hro : r.acc ≠ .ro) (hact : r.acc ≠ .act) (hrole : r.wr ≤ q.role)
    (hmailbox : q.session = 0) : writeAccess q r = [] := by
  simp [writeAccess, abortIf, hro, hact, hmailbox, Nat.not_lt.2 hrole]

theorem stageBusy_other (hidx : q.msg.index ≠ 0x1410) : stageBusy q s = false := by
  simp [stageBusy, hidx]

/-- What is left to refuse of a block that may be written and follows: its length, and what the value's owner says. -/
theorem writeBlockOne_follows (hd : objDesc q.msg.index q.msg.sub = some r) (ha : writeAccess q r = [])
    (hty : q.msg.ty = r.ty) (hidx : q.msg.index ≠ 0x1410) (htoken : ¬(q.msg.index = 0x1140 ∧ q.msg.sub = 1))
    (hv : BlockFollows q s v) {more : Bool} (hmore : q.msg.flags.testBit 2 = more) :
    writeBlockOne q s =
      match firstAbort (abortIf (decide (q.msg.pb < v.length) || (!more && decide (q.msg.pb ≠ v.length))) aRANGE
        ++ (if more then [] else valueAborts q s r v)) with
      | some a => (if !more then dropStaging q.session q.msg.index q.msg.sub s else s, .abort a)
      | none => if more then (putStaging q v s, .ok q.msg.pa v.length 0 []) else finishBlocks q v s := by
  obtain ⟨hvalue, hfollows⟩ := hv.value
  simp only [writeBlockOne, hd, ha, hmore, hvalue, hfollows, hty, hidx, htoken, stageBusy_other hidx]
  cases more <;> simp [abortIf] <;> rfl

theorem firstAbort_ranges {c d : Bool} (h : (c || d) = true) : firstAbort (abortIf c aRANGE ++ abortIf d aRANGE) = some 7 := by
  revert c d
  decide

theorem writeBlockOne_more (hd : objDesc q.msg.index q.msg.sub = some r) (ha : writeAccess q r = [])
    (hty : q.msg.ty = r.ty) (hidx : q.msg.index ≠ 0x1410) (htoken : ¬(q.msg.index = 0x1140 ∧ q.msg.sub = 1))
    (hv : BlockFollows q s v) (hmore : q.msg.flags.testBit 2 = true) :
    writeBlockOne q s = if q.msg.pb < v.length then (s, .abort 7)
      else (putStaging q v s, .ok q.msg.pa v.length 0 []) := by
  rw [writeBlockOne_follows hd ha hty hidx htoken hv hmore]
  by_cases hlen : q.msg.pb < v.length
  · simp only [hlen, decide_true]
    rfl
  · simp only [hlen, decide_false]
    rfl

theorem valueAborts_eq (hro : r.acc ≠ .ro) (hact : r.acc ≠ .act)
    (hstate : stateAborts s q.msg.index q.msg.sub = false) (henc : encodes r.ty r.len v = true)
    (howner : ownerAborts s q.session q.msg.index q.msg.sub v = []) :
    valueAborts q s r v = abortIf (!inRange q.msg.index q.msg.sub r v) aRANGE := by
  simp [valueAborts, hro, hact, hstate, henc, howner, abortIf]

theorem writeBlockOne_last (hd : objDesc q.msg.index q.msg.sub = some r) (ha : writeAccess q r = [])
    (hty : q.msg.ty = r.ty) (hidx : q.msg.index ≠ 0x1410) (htoken : ¬(q.msg.index = 0x1140 ∧ q.msg.sub = 1))
    (hv : BlockFollows q s v) (hlast : q.msg.flags.testBit 2 = false)
    (hvalue : valueAborts q s r v = abortIf (!inRange q.msg.index q.msg.sub r v) aRANGE) :
    (q.msg.pb = v.length → inRange q.msg.index q.msg.sub r v = true → writeBlockOne q s = finishBlocks q v s)
    ∧ (q.msg.pb ≠ v.length ∨ inRange q.msg.index q.msg.sub r v = false →
      writeBlockOne q s = (dropStaging q.session q.msg.index q.msg.sub s, .abort 7)) := by
  rw [writeBlockOne_follows hd ha hty hidx htoken hv hlast]
  refine ⟨fun hlen hin => ?_, fun hbad => ?_⟩
  · simp only [hvalue, hlen, hin, lt_irrefl, decide_false, ne_eq, not_true_eq_false]
    rfl
  · simp only [hvalue]
    rw [if_neg (by decide : ¬ false = true), firstAbort_ranges]
    · rfl
    · obtain hlen | hin := hbad
      · simp [hlen]
      · simp [hin]

theorem finishBlocks_eq (hidx : q.msg.index ≠ 0x1410) (hplain : ownWrite q.msg = false) (hmailbox : q.session = 0) :
    finishBlocks q v s = (writeValue q v (clearStaging q.session q.msg.index q.msg.sub s), .ok q.msg.pa v.length 0 []) := by
  have hkey : isKeyBlob q.msg.index q.msg.sub = false := by
    simp only [ownWrite, Bool.or_eq_false_iff] at hplain
    exact hplain.1.1
  simp [finishBlocks, hidx, hkey, afterResponse, hmailbox]

/-- A block that does not follow what is staged is refused with STATE, and the transfer of a value there is ends. -/
theorem writeBlockOne_broken (hpa : q.msg.pa ≠ 0)
    (hstaged : (stagedOf s q.session q.msg.index q.msg.sub).map (·.length) ≠ some q.msg.pa) :
    writeBlockOne q s = (if (objDesc q.msg.index q.msg.sub).isSome then dropStaging q.session q.msg.index q.msg.sub s else s,
      .abort aSTATE) := by
  simp only [writeBlockOne, hpa, hstaged, ne_eq, not_false_eq_true, decide_true, Bool.and_self, Bool.true_or,
    ↓reduceIte]
  cases objDesc q.msg.index q.msg.sub with
  | none =>
    dsimp only
    rw [firstAbort_state (List.mem_append_right _ (by simp [abortIf]))]
    rfl
  | some r =>
    dsimp only
    rw [firstAbort_state (by simp [abortIf])]
    rfl

theorem writeBlockOne_missing (hpa : q.msg.pa = 0) (hd : objDesc q.msg.index q.msg.sub = none) :
    writeBlockOne q s = (s, .abort (if objKnown q.msg.index then 2 else 1)) := by
  simp only [writeBlockOne, hd, hpa, ne_eq, not_true_eq_false, decide_false, Bool.false_and, abortIf, Bool.false_eq_true,
    ↓reduceIte, List.append_nil, firstAbort_missing hd]

end Write

/-! ### WRITE_BLOCK through the mailbox -/

section WriteRuns
variable {t : Nat} {f : Bool} {b : Bytes} {s x : State}

theorem runs_writeBlock_abort {c : Nat} (hm : MbxHolds s b 4) (hq : NoOnChange x)
    (hh : writeBlockOne (mbxReq (advance t s) f b) (advance t s) = (x, .abort c)) :
    Runs (.writeBlock ⟨t, .mailbox, f⟩) s (fun u => Aborted u b c ∧ AnswersOnly x u) := by
  refine ⟨notifyChanges (mbxServe (kindIs 4) writeBlockOne f (advance t s)), rfl, ?_⟩
  rw [mbxServe_abort (mbxHolds_advance t hm) (kindIs_of_holds hm) hh,
    notifyChanges_quiet (by rwa [NoOnChange, mbxRespond_dict])]
  exact ⟨aborted_mbxRespond .., mbxRespond_only ..⟩

theorem runs_writeBlock_ok {pa pb : Nat} (hm : MbxHolds s b 4) (hq : NoOnChange x)
    (hh : writeBlockOne (mbxReq (advance t s) f b) (advance t s) = (x, .ok pa pb 0 [])) :
    Runs (.writeBlock ⟨t, .mailbox, f⟩) s (fun u => Responds u b pa pb 0 [] ∧ AnswersOnly x u) := by
  refine ⟨notifyChanges (mbxServe (kindIs 4) writeBlockOne f (advance t s)), rfl, ?_⟩
  rw [mbxServe_ok (mbxHolds_advance t hm) (kindIs_of_holds hm) hh,
    notifyChanges_quiet (by rwa [NoOnChange, mbxRespond_dict])]
  exact ⟨responds_mbxRespond .., mbxRespond_only ..⟩

theorem runs_mono {c : Instr} {P Q : State → Prop} (h : ∀ u, P u → Q u) (hr : Runs c s P) : Runs c s Q := by
  obtain ⟨u, hu, hp⟩ := hr
  exact ⟨u, hu, h u hp⟩

end WriteRuns

section Answer
variable {t : Nat} {f : Bool} {b v : Bytes} {s u x : State} {m : Msg} {r : ObjRow}

theorem answersOnly_dict (h : AnswersOnly x u) : u.dict = x.dict := (AnswersOnly.signals h).dict
theorem answersOnly_clock (h : AnswersOnly x u) : u.clock = x.clock := (AnswersOnly.signals h).clock

theorem stagedOf_answersOnly (h : AnswersOnly x u) (w i k : Nat) : stagedOf u w i k = stagedOf x w i k := by
  simp only [stagedOf, answersOnly_dict h, answersOnly_clock h]

theorem noOnChange_of_subs (h : ∀ y ∈ x.dict.subs, y ∈ s.dict.subs) (hq : NoOnChange s) : NoOnChange x :=
  fun y hy => hq y (h y hy)

theorem noOnChange_advance (hq : NoOnChange s) : NoOnChange (advance t s) := by
  rwa [NoOnChange, advance_dict]

theorem noOnChange_dropStaging {w i k : Nat} (hq : NoOnChange s) : NoOnChange (dropStaging w i k s) := by
  rwa [NoOnChange, dropStaging_stagings]

/-- While MORE is set, the block is staged, unless the bytes exceed the length that was named. -/
theorem runs_writeBlock_more (hmsg : m = parseMsg b 0) (hm : MbxHolds s b 4) (hq : NoOnChange s)
    (hidx : m.index ≠ 0x1410)
    (hh : writeBlockOne (mbxReq (advance t s) f b) (advance t s) = if m.pb < v.length then (advance t s, .abort 7)
      else (putStaging (mbxReq (advance t s) f b) v (advance t s), .ok m.pa v.length 0 [])) :
    (v.length ≤ m.pb → Runs (.writeBlock ⟨t, .mailbox, f⟩) s (fun u =>
      Responds u b m.pa v.length 0 [] ∧ stagedOf u 0 m.index m.sub = some v
      ∧ (∀ w i k, (w, i, k) ≠ (0, m.index, m.sub) → stagedOf u w i k = stagedOf (advance t s) w i k)
      ∧ AnswersOnly { advance t s with dict := { s.dict with stagings := u.dict.stagings } } u))
    ∧ (m.pb < v.length →
      Runs (.writeBlock ⟨t, .mailbox, f⟩) s (fun u => Aborted u b 7 ∧ AnswersOnly (advance t s) u)) := by
  subst hmsg
  refine ⟨fun hlen => ?_, fun hlen => ?_⟩
  · rw [if_neg (Nat.not_lt.2 hlen)] at hh
    have hput := putStaging_eq (q := mbxReq (advance t s) f b) hidx v (advance t s)
    have hquiet : NoOnChange (putStaging (mbxReq (advance t s) f b) v (advance t s)) := by
      rw [hput]
      exact noOnChange_of_subs (s := advance t s) (fun _ hy => hy) (noOnChange_advance hq)
    refine runs_mono (fun u ⟨hr, hu⟩ => ⟨hr, ?_, fun w i k hne => ?_, ?_⟩) (runs_writeBlock_ok hm hquiet hh)
    · rw [stagedOf_answersOnly hu]
      exact stagedOf_putStaging_same (q := mbxReq (advance t s) f b) hidx v
    · rw [stagedOf_answersOnly hu]
      exact stagedOf_putStaging_other (q := mbxReq (advance t s) f b) hidx v hne
    · have hx : { advance t s with dict := { s.dict with stagings := u.dict.stagings } }
          = putStaging (mbxReq (advance t s) f b) v (advance t s) := by
        rw [answersOnly_dict hu, hput, ← advance_dict s t]
        rfl
      rwa [hx]
  · rw [if_pos hlen] at hh
    exact runs_writeBlock_abort hm (noOnChange_advance hq) hh

theorem runs_writeBlock_last (hmsg : m = parseMsg b 0) (hm : MbxHolds s b 4) (hq : NoOnChange s)
    (hset : ValueSet (mbxReq (advance t s) f b) v (clearStaging 0 m.index m.sub (advance t s)) x)
    (hact : OwnerActs False (clearStaging 0 m.index m.sub (advance t s)) x)
    (hh : writeBlockOne (mbxReq (advance t s) f b) (advance t s) = (x, .ok m.pa v.length 0 [])) :
    Runs (.writeBlock ⟨t, .mailbox, f⟩) s (fun u =>
      Responds u b m.pa v.length 0 [] ∧ cfg u m.index m.sub = v
      ∧ (∀ i k, k < 256 → (i, k) ≠ (m.index, m.sub) → cfg u i k = cfg s i k)
      ∧ stagedOf u 0 m.index m.sub = none) := by
  subst hmsg
  have hquiet : NoOnChange x := noOnChange_of_subs hact.subs (noOnChange_of_subs (s := advance t s) (fun _ hy => hy)
    (noOnChange_advance hq))
  refine runs_mono (fun u ⟨hr, hu⟩ => ⟨hr, ?_, fun i k hk hne => ?_, ?_⟩) (runs_writeBlock_ok hm hquiet hh)
  · rw [cfg_congr (congrArg Dict.vals (answersOnly_dict hu))]
    exact hset.same
  · rw [cfg_congr (congrArg Dict.vals (answersOnly_dict hu)), hset.others i k hk hne, ← cfg_advance t s i k]
    rfl
  · exact stagedOf_cleared ((congrArg Dict.stagings (answersOnly_dict hu)).trans hact.stagings)

/-- What an abort leaves that ends a transfer. -/
theorem runs_writeBlock_dropped {c : Nat} (hm : MbxHolds s b 4) (hq : NoOnChange s)
    (hh : writeBlockOne (mbxReq (advance t s) f b) (advance t s)
      = (dropStaging 0 (parseMsg b 0).index (parseMsg b 0).sub (advance t s), .abort c)) :
    Runs (.writeBlock ⟨t, .mailbox, f⟩) s (fun u => Aborted u b c ∧ u.dict.vals = s.dict.vals
      ∧ stagedOf u 0 (parseMsg b 0).index (parseMsg b 0).sub = none) := by
  refine runs_mono (fun u ⟨hr, hu⟩ => ⟨hr, ?_, ?_⟩)
    (runs_writeBlock_abort hm (noOnChange_dropStaging (noOnChange_advance hq)) hh)
  · rw [answersOnly_dict hu, dropStaging_stagings, advance_dict]
  · rw [stagedOf_answersOnly hu]
    exact stagedOf_dropStaging

/-- A block that does not follow. -/
theorem runs_writeBlock_broken (hmsg : m = parseMsg b 0) (hm : MbxHolds s b 4) (hq : NoOnChange s) (hpa : m.pa ≠ 0)
    (hstaged : (stagedOf (advance t s) 0 m.index m.sub).map (·.length) ≠ some m.pa) :
    Runs (.writeBlock ⟨t, .mailbox, f⟩) s (fun u => Aborted u b 8 ∧ u.dict.vals = s.dict.vals
      ∧ ((objDesc m.index m.sub).isSome = true → stagedOf u 0 m.index m.sub = none)) := by
  subst hmsg
  have hh := writeBlockOne_broken (q := mbxReq (advance t s) f b) (s := advance t s) hpa hstaged
  by_cases hd : (objDesc (parseMsg b 0).index (parseMsg b 0).sub).isSome = true
  · exact runs_mono (fun u ⟨hr, hvals, hnone⟩ => ⟨hr, hvals, fun _ => hnone⟩)
      (runs_writeBlock_dropped hm hq (hh.trans (congrArg (·, _) (if_pos hd))))
  · refine runs_mono (fun u ⟨hr, hu⟩ => ⟨hr, ?_, fun h => absurd h hd⟩)
      (runs_writeBlock_abort hm (noOnChange_advance hq) (hh.trans (congrArg (·, _) (if_neg hd))))
    rw [answersOnly_dict hu, advance_dict]

theorem acc_of_writable (hacc : r.acc = .rw ∨ r.acc = .rwp ∨ r.acc = .wo) : r.acc ≠ .ro ∧ r.acc ≠ .act := by
  refine ⟨fun h => ?_, fun h => ?_⟩ <;> rw [h] at hacc <;> exact absurd hacc (by decide)

theorem msg_sub_lt (b : Bytes) (tag : Nat) : (parseMsg b tag).sub < 256 := BitVec.isLt _

end Answer

end Sys2Proof.Machine

namespace Sys2Proof
open Machine

/-- Settles O44: each handler comes down to what the request's place among the blocks leaves to check, and the answer
through the mailbox changes nothing of what it did; a value that is written is set alone, whatever its owner does. -/
theorem blockTransfers : Obligations.BlockTransfers := by
  refine ⟨fun t f b s m hmsg hm => ⟨fun r hd hwo hact hty hrole => ⟨fun v hv => ?_, fun v hpa hsnap hlen => ?_⟩,
    fun hpa hsnap => ?_, fun hpa hd => ?_⟩,
    fun t w i k s => ⟨runs_snapshotExpiry_due, runs_snapshotExpiry_early⟩,
    fun t f b v s m r hmsg hm hq hnodup hd hacc hrole hty hv hidx htoken => ?_,
    fun t f b s m hmsg hm hq => ⟨runs_writeBlock_broken hmsg hm hq, fun hpa hd => ?_⟩,
    fun t w i k s => ⟨runs_stagingExpiry_due, runs_stagingExpiry_early⟩⟩
  · subst hmsg
    exact runs_readBlock rfl hm hd (readAccess_nil hwo hact hty hrole) hv
  · subst hmsg
    exact runs_readBlock_abort hm (readBlockOne_beyond hd (readAccess_nil hwo hact hty hrole) hpa hsnap hlen)
  · subst hmsg
    exact runs_readBlock_abort hm (readBlockOne_broken hpa hsnap)
  · subst hmsg
    exact runs_readBlock_abort hm (readBlockOne_missing hpa hd)
  · subst hmsg
    obtain ⟨hro, hact⟩ := acc_of_writable hacc
    have ha : writeAccess (mbxReq (advance t s) f b) r = [] := writeAccess_nil hro hact hrole rfl
    have hmore := fun hmore => runs_writeBlock_more (t := t) (f := f) (v := v) rfl hm hq hidx
      (writeBlockOne_more hd ha hty hidx htoken hv hmore)
    refine ⟨fun h => (hmore h).1, fun h => (hmore h).2, fun hlast hplain hnonce hstate henc howner => ?_⟩
    obtain ⟨hgood, hbad⟩ := writeBlockOne_last hd ha hty hidx htoken hv hlast (valueAborts_eq hro hact hstate henc howner)
    refine ⟨fun hlen hin => ?_, fun h => runs_writeBlock_dropped hm hq (hbad h)⟩
    obtain ⟨hset, hacts⟩ := writeValue_sets (q := mbxReq (advance t s) f b) (v := v)
      (s := clearStaging 0 (parseMsg b 0).index (parseMsg b 0).sub (advance t s)) hd hacc (msg_sub_lt b 0) hplain hnonce
      henc (by rwa [clearStaging, modDict_dict, advance_dict])
    exact runs_writeBlock_last rfl hm hq hset hacts ((hgood hlen hin).trans (finishBlocks_eq hidx hplain rfl))
  · subst hmsg
    exact runs_writeBlock_abort hm (noOnChange_advance hq) (writeBlockOne_missing hpa hd)

end Sys2Proof
end

section
/-! The cartridge slots: what leaves them as they are, and what changes of them no more than the time of their last
command (spec 14 R464 to R472, R499, R500). -/

namespace Sys2Proof.Machine
open Sys2Proof

/-! ### Reads and writes of a slot -/

section Slots
variable {s u : State} {i : Nat}

theorem cart_setCart_same {x : CartSlot} (h : x ≠ CartSlot.reset) : (s.setCart i x).cart i = x :=
  Tab.get_set_of_ne s.jrn.slots i h

theorem cart_setCart_state {x : CartSlot} (h : x.state ≠ 0) : (s.setCart i x).cart i = x :=
  cart_setCart_same fun hx => h (by rw [hx]; rfl)

theorem cart_setCart_wf (h : Tab.wf CartSlot.reset s.jrn.slots = true) (x : CartSlot) : (s.setCart i x).cart i = x :=
  Tab.get_set_same i x h

theorem cart_of_slots (h : u.jrn.slots = s.jrn.slots) (k : Nat) : u.cart k = s.cart k :=
  congrArg (Tab.get CartSlot.reset · k) h

theorem mirroredMode_congr (h : u.dict.vals = s.dict.vals) : mirroredMode u = mirroredMode s := by
  rw [mirroredMode, cfgN_congr h]
  rfl

theorem other_slot_ne (h : i < 2) : 1 - i ≠ i := by omega

end Slots

/-! ### Steps that leave the slots as they are -/

/-- From `s` to `u` no slot and no value changed, and no event status was cleared. -/
structure SlotsStand (s u : State) : Prop where
  slots : u.jrn.slots = s.jrn.slots
  vals : u.dict.vals = s.dict.vals
  stat : StatGrows s u

section Stand
variable {s u v : State}

theorem SlotsStand.refl (s : State) : SlotsStand s s := ⟨rfl, rfl, .refl s⟩

theorem SlotsStand.trans (h : SlotsStand s u) (g : SlotsStand u v) : SlotsStand s v :=
  ⟨g.slots.trans h.slots, g.vals.trans h.vals, h.stat.trans g.stat⟩

theorem SlotsStand.forEach {α : Type} {f : α → State → State} (hf : ∀ a y, SlotsStand y (f a y)) (l : List α)
    (s : State) : SlotsStand s (forEach l f s) :=
  List.foldlRecOn l (fun y a => f a y) (motive := SlotsStand s) (.refl s) fun y hy a _ => hy.trans (hf a y)

theorem SlotsStand.ite {c : Prop} [Decidable c] (h : SlotsStand s u) (g : SlotsStand s v) :
    SlotsStand s (if c then u else v) := by
  split
  · exact h
  · exact g

theorem SlotsStand.cart (h : SlotsStand s u) (k : Nat) : u.cart k = s.cart k := cart_of_slots h.slots k
theorem SlotsStand.mirrored (h : SlotsStand s u) : mirroredMode u = mirroredMode s := mirroredMode_congr h.vals

theorem slotsStand_raise (n : Nat) (s : State) : SlotsStand s (raise n s) :=
  ⟨congrArg Journal.slots (signals_raise n s).jrn, congrArg Dict.vals (signals_raise n s).dict, statGrows_raise n s⟩

theorem slotsStand_raiseCart (i k : Nat) (s : State) : SlotsStand s (raiseCart i k s) := slotsStand_raise _ s

theorem slotsStand_modJrn (f : Journal → Journal) (h : (f s.jrn).slots = s.jrn.slots) : SlotsStand s (modJrn f s) :=
  ⟨h, rfl, .of_eq rfl rfl⟩

theorem slotsStand_settleSpaces (s : State) : SlotsStand s (settleSpaces s) := ⟨rfl, rfl, .of_eq rfl rfl⟩

theorem slotsStand_setSpace (n : Nat) (x : Space) (s : State) : SlotsStand s (s.setSpace n x) := ⟨rfl, rfl, .of_eq rfl rfl⟩

theorem slotsStand_setKeySlot (g : Nat) (x : KeySlot) (s : State) : SlotsStand s (s.setKeySlot g x) :=
  ⟨rfl, rfl, .of_eq rfl rfl⟩

theorem slotsStand_leaveMirror (i : Nat) (s : State) : SlotsStand s (leaveMirror i s) :=
  .ite ((slotsStand_settleSpaces s).trans (slotsStand_raiseCart ..)) (slotsStand_settleSpaces s)

theorem slotsStand_nsDropKey (n : Nat) (s : State) : SlotsStand s (nsDropKey n s) := by
  unfold nsDropKey
  split
  · exact .refl s
  · exact (slotsStand_setSpace ..).trans (slotsStand_setKeySlot ..)

theorem slotsStand_nsTakeKey (n g : Nat) (x : Blob) (s : State) : SlotsStand s (nsTakeKey n g x s) :=
  ((slotsStand_setSpace ..).trans (slotsStand_setKeySlot ..)).trans (slotsStand_setKeySlot ..)

theorem slotsStand_nsUnwrap (n : Nat) (s : State) : SlotsStand s (nsUnwrap n s) := by
  unfold nsUnwrap
  split
  · exact .refl s
  · exact .ite (slotsStand_nsTakeKey ..) (.refl s)

theorem slotsStand_loadSpace (slot : Nat) (m : MediaNs) (s : State) : SlotsStand s (loadSpace slot m s) :=
  .ite (slotsStand_setSpace ..) (.ite (.refl s)
    (((slotsStand_nsDropKey ..).trans (slotsStand_setSpace ..)).trans (slotsStand_nsUnwrap ..)))

theorem slotsStand_loadBlocks (l : List MediaBlock) (p : Nat → Bool) (s : State) : SlotsStand s (loadBlocks l p s) :=
  ⟨rfl, rfl, .of_eq rfl rfl⟩

/-- An event of a slot stays told of. -/
theorem slotEvent_grows {i k : Nat} (h : StatGrows s u) (hs : SlotEvent s i k) : SlotEvent u i k := h.1 10 (16 * i + k) hs

theorem slotEvent_raiseCart {i k : Nat} (hi : i < 2) (hk : k ≤ 10) (s : State) : SlotEvent (raiseCart i k s) i k := by
  have hset := raise_sets (n := 320 + 16 * i + k) (by simp [sourceInUse]; omega) s
  rwa [show (320 + 16 * i + k) / 32 = 10 by omega, show (320 + 16 * i + k) % 32 = 16 * i + k by omega] at hset

end Stand

/-! ### Ends of commands -/

/-- From `s` to `u` a cartridge that is there changed in no more than the time of its last command, and the block map
is as it was. -/
structure CartsStand (s u : State) : Prop where
  cart : ∀ k, (s.cart k).state ≠ 0 → { u.cart k with lastCmd := (s.cart k).lastCmd } = s.cart k
  map : u.jrn.map = s.jrn.map
  vals : u.dict.vals = s.dict.vals
  stat : StatGrows s u

section Ends
variable {s u v : State}

theorem SlotsStand.carts (h : SlotsStand s u) (hm : u.jrn.map = s.jrn.map) : CartsStand s u :=
  ⟨fun k _ => by rw [h.cart], hm, h.vals, h.stat⟩

theorem CartsStand.refl (s : State) : CartsStand s s := (SlotsStand.refl s).carts rfl

theorem CartsStand.state (h : CartsStand s u) {k : Nat} (hk : (s.cart k).state ≠ 0) : (u.cart k).state = (s.cart k).state :=
  (congrArg CartSlot.state (h.cart k hk) :)

theorem CartsStand.trans (h : CartsStand s u) (g : CartsStand u v) : CartsStand s v := by
  refine ⟨fun k hk => ?_, g.map.trans h.map, g.vals.trans h.vals, h.stat.trans g.stat⟩
  have hu := h.cart k hk
  have hv := g.cart k (by rwa [h.state hk])
  exact (congrArg (fun c : CartSlot => { c with lastCmd := (s.cart k).lastCmd }) hv).trans hu

theorem CartsStand.forEach {α : Type} {f : α → State → State} (hf : ∀ a y, CartsStand y (f a y)) (l : List α)
    (s : State) : CartsStand s (forEach l f s) :=
  List.foldlRecOn l (fun y a => f a y) (motive := CartsStand s) (.refl s) fun y hy a _ => hy.trans (hf a y)

theorem cartsStand_lastCmd (i t : Nat) (s : State) : CartsStand s (s.setCart i { s.cart i with lastCmd := t }) := by
  refine ⟨fun k hk => ?_, rfl, rfl, .of_eq rfl rfl⟩
  by_cases h : k = i
  · subst h
    have hset : (s.setCart k { s.cart k with lastCmd := t }).cart k = { s.cart k with lastCmd := t } := cart_setCart_state hk
    exact (congrArg (fun c : CartSlot => { c with lastCmd := (s.cart k).lastCmd }) hset :)
  · rw [cart_setCart_other s _ h]

/-- One step of the end of commands: the time of a cartridge's last command, or a change outside the journal's
namespaces, slots and map, the dictionary and the events. -/
inductive EndStep (s : State) : State → Prop
  | lastCmd (i t : Nat) : EndStep s (s.setCart i { s.cart i with lastCmd := t })
  | quiet {u : State} (jrn : u.jrn = { s.jrn with units := u.jrn.units, flushes := u.jrn.flushes })
      (dict : u.dict = s.dict) (evt : u.evt = s.evt) : EndStep s u

/-- Commands end from `s` to `u`. -/
def Ends : State → State → Prop := Relation.ReflTransGen EndStep

theorem Ends.refl (s : State) : Ends s s := Relation.ReflTransGen.refl

theorem Ends.trans (h : Ends s u) (g : Ends u v) : Ends s v := Relation.ReflTransGen.trans h g

theorem Ends.quiet (jrn : u.jrn = { s.jrn with units := u.jrn.units, flushes := u.jrn.flushes }) (dict : u.dict = s.dict)
    (evt : u.evt = s.evt) : Ends s u := Relation.ReflTransGen.single (.quiet jrn dict evt)

theorem Ends.forEach {α : Type} {f : α → State → State} (hf : ∀ a y, Ends y (f a y)) (l : List α)
    (s : State) : Ends s (forEach l f s) :=
  List.foldlRecOn l (fun y a => f a y) (motive := Ends s) (.refl s) fun y hy a _ => hy.trans (hf a y)

theorem Ends.carts (h : Ends s u) : CartsStand s u := by
  induction h with
  | refl => exact .refl s
  | tail _ hstep ih =>
    refine ih.trans ?_
    cases hstep with
    | lastCmd i t => exact cartsStand_lastCmd i t _
    | quiet hj hd he =>
      exact SlotsStand.carts ⟨(congrArg Journal.slots hj :), by rw [hd], .of_eq (by rw [he]) (by rw [he])⟩
        (congrArg Journal.map hj :)

theorem ends_capRespond (g msg status result : Nat) (s : State) : Ends s (capRespond g msg status result s) := by
  unfold capRespond
  split
  · exact .refl s
  · split
    · exact .refl s
    · exact .quiet rfl rfl rfl

theorem ends_jEnd (src : Option JSrc) (ref status result : Nat) (s : State) : Ends s (jEnd src ref status result s) := by
  cases src with
  | none => exact .refl s
  | some x =>
    have htime : ∀ o : Option Nat, Ends s (match o with
        | none => s
        | some n => forEach (nsSlots (s.space n)) (fun i st => st.setCart i { st.cart i with lastCmd := s.clock }) s) := by
      intro o
      cases o with
      | none => exact .refl s
      | some n => exact .forEach (fun i y => Relation.ReflTransGen.single (.lastCmd i s.clock)) _ s
    cases x with
    | queue fn q => exact (htime _).trans (.quiet rfl rfl rfl)
    | capsule g msg => exact (htime _).trans (ends_capRespond ..)

theorem ends_cipherDrop (p : CMsg → Bool) (s : State) : Ends s (cipherDrop p s) := by
  have hcore : ∀ {β : Type} (π : State → β), (∀ y f, π (modCipher f y) = π y) → π (cipherDrop p s) = π s := by
    intro β π hπ
    unfold cipherDrop
    rw [hπ]
    refine foldl_keeps π (fun y e => ?_) _ s
    split
    · split
      · exact (hπ _ _).trans (hπ _ _)
      · rfl
    · rfl
  exact .quiet (by rw [hcore State.jrn fun _ _ => rfl]) (hcore State.dict fun _ _ => rfl) (hcore State.evt fun _ _ => rfl)

theorem ends_dropJob (job : Nat) (s : State) : Ends s (dropJob job s) :=
  (Ends.quiet (u := modJrn (fun j => { j with units := j.units.filter (fun u => decide (u.job ≠ job)) }) s) rfl rfl rfl).trans
    (ends_cipherDrop ..)

theorem ends_endJob (x : JUnit) (status : Nat) (s : State) : Ends s (endJob x status s) :=
  (ends_dropJob ..).trans (ends_jEnd ..)

/-- FLUSHes that end with a status. -/
def endFlushes (fs : List JFlush) (status : Nat) (s : State) : State :=
  forEach fs (fun f st => jEnd f.src f.ref status 0 st)
    (modJrn (fun j => { j with flushes := j.flushes.filter (fun f => !fs.contains f) }) s)

theorem ends_endFlushes (fs : List JFlush) (status : Nat) (s : State) : Ends s (endFlushes fs status s) :=
  (Ends.quiet (u := modJrn (fun j => { j with flushes := j.flushes.filter (fun f => !fs.contains f) }) s) rfl rfl rfl).trans
    (.forEach (fun _ _ => ends_jEnd ..) _ _)

theorem ends_flushDone (s : State) : Ends s (flushDone s) := ends_endFlushes _ stOK s

theorem ends_endStarted (hit : Nat → Bool) (status : Nat) (s : State) : Ends s (endStarted hit status s) := by
  have hunits : ∀ l, Ends s (forEach l (fun x st => endJob x status st) s) := fun l =>
    .forEach (fun _ _ => ends_endJob ..) l s
  unfold endStarted
  dsimp only
  generalize hu : forEach _ (fun u st => endJob u status st) s = u
  have h1 : Ends s u := hu ▸ hunits _
  have h2 := ends_endFlushes (u.jrn.flushes.filter (fun f => hit f.ns)) status u
  unfold endFlushes at h2
  generalize forEach (u.jrn.flushes.filter (fun f => hit f.ns)) _ _ = v at h2 ⊢
  refine (h1.trans h2).trans (List.foldlRecOn _ _ (motive := Ends v) (.refl v) fun y hy e _ => hy.trans ?_)
  exact .forEach (fun _ _ => ends_jEnd ..) _ y

theorem cartsStand_jEnd (src : Option JSrc) (ref status result : Nat) (s : State) :
    CartsStand s (jEnd src ref status result s) := (ends_jEnd ..).carts

theorem cartsStand_endFormats (hit : Nat → Bool) (status : Nat) (s : State) : CartsStand s (endFormats hit status s) := by
  refine .forEach (fun e y => ?_) _ s
  split
  · exact ((slotsStand_setSpace ..).carts rfl).trans (cartsStand_jEnd ..)
  · exact .refl y

theorem jrn_answerAct (a : LongAct) (abort : Option Nat) (s : State) : (answerAct a abort s).jrn = s.jrn := by
  rcases replies_answerAct a abort s with h | ⟨h, -⟩
  · exact h.frame.jrn (by decide)
  · rw [h]

theorem slotsStand_answerAct (a : LongAct) (abort : Option Nat) (s : State) : SlotsStand s (answerAct a abort s) := by
  refine ⟨congrArg Journal.slots (jrn_answerAct a abort s), ?_, statGrows_answerAct a abort s⟩
  rcases replies_answerAct a abort s with h | ⟨h, -⟩
  · exact h.vals
  · rw [h]

theorem cartsStand_answerAct (a : LongAct) (abort : Option Nat) (s : State) : CartsStand s (answerAct a abort s) :=
  (slotsStand_answerAct a abort s).carts (congrArg Journal.map (jrn_answerAct a abort s))

theorem cartsStand_raiseCart (i k : Nat) (s : State) : CartsStand s (raiseCart i k s) :=
  (slotsStand_raiseCart i k s).carts (congrArg Journal.map (signals_raise _ s).jrn)

theorem cartsStand_settleSpaces (s : State) : CartsStand s (settleSpaces s) := (slotsStand_settleSpaces s).carts rfl

end Ends

end Sys2Proof.Machine
end

section
/-! A cartridge's life: presence, link and identity, online, quiesce, removal, self-test and sanitize (spec 14 R464 to R470,
R499, R500). -/

namespace Sys2Proof.Machine
open Sys2Proof

section Steps
variable {s : State} {i : Nat}

/-! ### Presence, link and identity -/

theorem runs_prsntFall (t : Nat) (s : State) (hi : i < 2) :
    ((s.cart i).present = false → Runs (.cartPrsntNFall t i) s (fun u =>
      u = (advance t s).setCart i { CartSlot.reset with
        present := true, since := t, failedSerial := (s.cart i).failedSerial }))
    ∧ ((s.cart i).present = true → Runs (.cartPrsntNFall t i) s (fun u => u = advance t s)) := by
  refine ⟨fun hp => ?_, fun hp => ?_⟩
  · refine ⟨_, congrArg Host.Outcome.next (if_pos ⟨hi, by rw [cart_advance, hp]; rfl⟩), ?_⟩
    rw [cart_advance]
  · exact ⟨_, congrArg Host.Outcome.next (if_neg fun h => by simp [hp] at h), rfl⟩

theorem runs_presentDebounce (t : Nat) (s : State) (hi : i < 2) (hp : (s.cart i).present = true)
    (h0 : (s.cart i).state = 0) (hstarted : s.boot.started = true) (hboot : s.boot.bootStatus ≠ 2)
    (hdie : dieServes s (4 + i) = true) :
    Runs (.cartPresentDebounce t i) s (fun u =>
      ((s.cart i).since + 10 ^ 14 ≤ t →
        u = (advance t s).setCart i { s.cart i with state := 1, pwren := true, perst := false, since := t }
        ∧ cartRefclk u i = s.board.refclk)
      ∧ (t < (s.cart i).since + 10 ^ 14 → u = advance t s)) := by
  have hdie' : dieServes (advance t s) (4 + i) = true := by simpa only [dieServes, advance_board, advance_boot, advance_test] using hdie
  refine ⟨_, rfl, ?_⟩
  by_cases hdue : (s.cart i).since + 10 ^ 14 ≤ t
  · rw [if_pos (by rw [cart_advance, advance_boot]; exact ⟨hi, hp, h0, hdue, hstarted, hboot, hdie'⟩), cart_advance]
    refine ⟨fun _ => ⟨rfl, ?_⟩, fun h => absurd hdue (Nat.not_le.2 h)⟩
    rw [cartRefclk, cart_setCart_state (by simp), setCart_board, advance_board, Bool.true_and]
  · rw [if_neg (by rw [cart_advance]; exact fun h => hdue h.2.2.2.1)]
    exact ⟨fun h => absurd h hdue, fun _ => rfl⟩

/-- A cartridge that is refused. -/
def refusedSlot (c : CartSlot) (reason : Nat) : CartSlot :=
  { c with state := 2, reason := reason, verified := false, pwren := false, perst := true }

theorem slotsStand_cartRefuse (i reason : Nat) (s : State) :
    SlotsStand (s.setCart i (refusedSlot (s.cart i) reason)) (cartRefuse i reason s) := slotsStand_raiseCart ..

theorem cart_cartRefuse_same (reason : Nat) : (cartRefuse i reason s).cart i = refusedSlot (s.cart i) reason := by
  rw [(slotsStand_cartRefuse i reason s).cart, cart_setCart_state (by simp [refusedSlot])]

theorem cart_cartRefuse_other {k : Nat} (reason : Nat) (h : k ≠ i) : (cartRefuse i reason s).cart k = s.cart k := by
  rw [(slotsStand_cartRefuse i reason s).cart, cart_setCart_other s _ h]

theorem slotEvent_cartRefuse (reason : Nat) (hi : i < 2) (s : State) : SlotEvent (cartRefuse i reason s) i 1 :=
  slotEvent_raiseCart hi (by decide) _

theorem runs_linkTimeout (t : Nat) (s : State) (hi : i < 2) (h1 : (s.cart i).state = 1)
    (hv : (s.cart i).verified = false) :
    Runs (.cartLinkTimeout t i) s (fun u =>
      ((s.cart i).since + 10 ^ 15 ≤ t →
        u.cart i = { s.cart i with state := 2, reason := 1, verified := false, pwren := false, perst := true }
        ∧ u.cart (1 - i) = s.cart (1 - i) ∧ SlotEvent u i 1)
      ∧ (t < (s.cart i).since + 10 ^ 15 → u = advance t s)) := by
  refine ⟨_, rfl, ?_⟩
  by_cases hdue : (s.cart i).since + 10 ^ 15 ≤ t
  · rw [if_pos (by rw [cart_advance, hv]; exact ⟨hi, h1, rfl, hdue⟩)]
    refine ⟨fun _ => ⟨?_, ?_, slotEvent_cartRefuse 1 hi _⟩, fun h => absurd hdue (Nat.not_le.2 h)⟩
    · rw [cart_cartRefuse_same, cart_advance]
      rfl
    · rw [cart_cartRefuse_other _ (other_slot_ne hi), cart_advance]
  · rw [if_neg (by rw [cart_advance]; exact fun h => hdue h.2.2.2)]
    exact ⟨fun h => absurd h hdue, fun _ => rfl⟩

theorem runs_linkTimeout_idle (t i : Nat) (s : State) (h : (s.cart i).state ≠ 1 ∨ (s.cart i).verified = true) :
    Runs (.cartLinkTimeout t i) s (fun u => u = advance t s) := by
  refine ⟨_, congrArg Host.Outcome.next (if_neg ?_), rfl⟩
  rw [cart_advance]
  rintro ⟨-, h1, hv, -⟩
  obtain h | h := h
  · exact h h1
  · simp [h] at hv

/-- A cartridge whose identity has come. -/
def namedSlot (i : Nat) (id : Bytes) (s : State) : State :=
  (drawBytes 32 s).2.setCart i { s.cart i with identity := id }

/-- What the identity and the challenge decide: the cartridge is verified, or refused for the check that fails. -/
def judged (i why : Nat) (s : State) : State :=
  if why ≠ 0 then cartRefuse i why s else s.setCart i { s.cart i with verified := true }

theorem identityReason_malformed {slot : Nat} {nonce id ch : Bytes}
    (h : beField id 0 4 ≠ 0x4A434944 ∨ beField id 4 2 ≠ 1 ∨ id.length ≠ 6280) : identityReason s slot nonce id ch = 2 := by
  refine if_pos ?_
  obtain h | h | h := h
  · exact .inl h
  · exact .inr (.inl h)
  · exact .inr (.inr (.inr (.inr (.inr h))))

theorem cart_namedSlot_same (id : Bytes) (h1 : (s.cart i).state = 1) :
    (namedSlot i id s).cart i = { s.cart i with identity := id } := cart_setCart_state (by simp [h1])

theorem cart_judged_same (why : Nat) (h1 : (s.cart i).state = 1) :
    (judged i why s).cart i = if why ≠ 0 then refusedSlot (s.cart i) why else { s.cart i with verified := true } := by
  unfold judged
  split
  · exact cart_cartRefuse_same why
  · exact cart_setCart_state (by simp [h1])

theorem cart_judged_other {k : Nat} (why : Nat) (h : k ≠ i) : (judged i why s).cart k = s.cart k := by
  unfold judged
  split
  · exact cart_cartRefuse_other why h
  · exact cart_setCart_other s _ h

theorem slotEvent_judged {why : Nat} (hi : i < 2) (h : why ≠ 0) (s : State) : SlotEvent (judged i why s) i 1 := by
  rw [judged, if_pos h]
  exact slotEvent_cartRefuse why hi s

theorem runs_linkTrained (t : Nat) (id ch : Bytes) (s : State) (hi : i < 2) (h1 : (s.cart i).state = 1)
    (hv : (s.cart i).verified = false) (hclk : cartRefclk s i = true) (hrst : cartPerstLow (advance t s) i = false) :
    (t ≤ (s.cart i).since + 10 ^ 15 → Runs (.cartLinkTrained t i id ch) s (fun u => (u.cart i).identity = id
      ∧ (((u.cart i).state = 1 ∧ (u.cart i).verified = true)
        ∨ ((u.cart i).state = 2 ∧ (u.cart i).reason ≠ 0 ∧ (u.cart i).pwren = false ∧ SlotEvent u i 1))
      ∧ (beField id 0 4 ≠ 0x4A434944 ∨ beField id 4 2 ≠ 1 ∨ id.length ≠ 6280 →
          (u.cart i).state = 2 ∧ (u.cart i).reason = 2)
      ∧ u.cart (1 - i) = s.cart (1 - i)))
    ∧ ((s.cart i).since + 10 ^ 15 < t → Runs (.cartLinkTrained t i id ch) s (fun u => (u.cart i).state = 2
      ∧ (u.cart i).reason = 1 ∧ (u.cart i).pwren = false ∧ SlotEvent u i 1)) := by
  have hcond : i < 2 ∧ ((advance t s).cart i).state = 1 ∧ !((advance t s).cart i).verified
      ∧ cartRefclk (advance t s) i ∧ !cartPerstLow (advance t s) i := by
    rw [cart_advance, hv, hrst, cartRefclk, cart_advance, advance_board]
    exact ⟨hi, h1, rfl, hclk, rfl⟩
  have h1' : ((advance t s).cart i).state = 1 := by rwa [cart_advance]
  refine ⟨fun hin => ?_, fun hlate => ?_⟩
  · have hrun : exec (.cartLinkTrained t i id ch) s = .next (judged i (identityReason (namedSlot i id (advance t s)) i
        (drawBytes 32 (advance t s)).1 id ch) (namedSlot i id (advance t s))) :=
      congrArg Host.Outcome.next ((if_pos hcond).trans (if_neg (by rw [cart_advance]; exact Nat.not_lt.2 hin)))
    refine ⟨_, hrun, ?_⟩
    have hbad : beField id 0 4 ≠ 0x4A434944 ∨ beField id 4 2 ≠ 1 ∨ id.length ≠ 6280 →
        identityReason (namedSlot i id (advance t s)) i (drawBytes 32 (advance t s)).1 id ch = 2 := identityReason_malformed
    have hnamed := cart_namedSlot_same id h1'
    have hother : (namedSlot i id (advance t s)).cart (1 - i) = s.cart (1 - i) :=
      (cart_setCart_other _ _ (other_slot_ne hi)).trans (cart_advance s t _)
    generalize identityReason (namedSlot i id (advance t s)) i _ id ch = why at hbad ⊢
    generalize namedSlot i id (advance t s) = y at hnamed hother ⊢
    have h1'' : (y.cart i).state = 1 := by rw [hnamed]; exact h1'
    have hsame := cart_judged_same why h1''
    refine ⟨?_, ?_, fun h => ?_, (cart_judged_other why (other_slot_ne hi)).trans hother⟩
    · rw [hsame, hnamed]
      split <;> rfl
    · by_cases hwhy : why = 0
      · rw [hsame, if_neg (not_not.2 hwhy)]
        exact .inl ⟨h1'', rfl⟩
      · rw [hsame, if_pos hwhy]
        exact .inr ⟨rfl, hwhy, rfl, slotEvent_judged hi hwhy y⟩
    · rw [hsame, hbad h]
      exact ⟨rfl, rfl⟩
  · have hrun : exec (.cartLinkTrained t i id ch) s = .next (cartRefuse i 1 (advance t s)) :=
      congrArg Host.Outcome.next ((if_pos hcond).trans (if_pos (by rw [cart_advance]; exact hlate)))
    refine ⟨_, hrun, ?_⟩
    dsimp only
    rw [cart_cartRefuse_same]
    exact ⟨rfl, rfl, rfl, slotEvent_cartRefuse 1 hi _⟩

theorem runs_linkTrained_idle (t i : Nat) (id ch : Bytes) (s : State)
    (h : cartRefclk s i = false ∨ cartPerstLow (advance t s) i = true) :
    Runs (.cartLinkTrained t i id ch) s (fun u => u = advance t s) := by
  refine ⟨_, congrArg Host.Outcome.next (if_neg ?_), rfl⟩
  rintro ⟨-, -, -, hclk, hrst⟩
  rw [cartRefclk, cart_advance, advance_board] at hclk
  obtain h | h := h
  · exact Bool.noConfusion (h.symm.trans hclk)
  · simp [h] at hrst

/-! ### A cartridge that comes online -/

theorem lifeCheck_grows (i : Nat) (s : State) : StatGrows s (lifeCheck i s) := by
  have hset : ∀ (y : State) (c : CartSlot), StatGrows y (y.setCart i c) := fun _ _ => .of_eq rfl rfl
  unfold lifeCheck
  dsimp only
  have hwarn : StatGrows s (if cartLife (s.cart i) ≤ 10 ∧ !(s.cart i).lifeWarned then
      raiseCart i 2 (s.setCart i { s.cart i with lifeWarned := true }) else s) := by
    split
    · exact (hset _ _).trans (slotsStand_raiseCart ..).stat
    · exact .refl s
  generalize (if cartLife (s.cart i) ≤ 10 ∧ !(s.cart i).lifeWarned then
    raiseCart i 2 (s.setCart i { s.cart i with lifeWarned := true }) else s) = y at hwarn
  split
  · exact ((hwarn.trans (hset _ _)).trans (slotsStand_raiseCart ..).stat).trans (slotsStand_leaveMirror ..).stat
  · exact hwarn

/-- The slot with the warning of its life noted, where it is due. -/
def warnedSlot (c : CartSlot) : CartSlot :=
  if cartLife c ≤ 10 ∧ !c.lifeWarned then { c with lifeWarned := true } else c

/-- The slot after the last step of its life. -/
def livedSlot (c : CartSlot) : CartSlot :=
  if (cartLife c = 0 ∨ c.media.spareOut) ∧ c.state = 3 then { warnedSlot c with state := 4 } else warnedSlot c

theorem warnedSlot_eq (c : CartSlot) : warnedSlot c = { c with lifeWarned := (warnedSlot c).lifeWarned } := by
  unfold warnedSlot
  split <;> rfl

theorem cart_lifeCheck (h : (s.cart i).state ≠ 0) (k : Nat) :
    (lifeCheck i s).cart k = if k = i then livedSlot (s.cart i) else s.cart k := by
  unfold lifeCheck
  dsimp only
  have hwarn : ∀ k, (if cartLife (s.cart i) ≤ 10 ∧ !(s.cart i).lifeWarned then
      raiseCart i 2 (s.setCart i { s.cart i with lifeWarned := true }) else s).cart k
        = if k = i then warnedSlot (s.cart i) else s.cart k := by
    intro k
    unfold warnedSlot
    by_cases hc : cartLife (s.cart i) ≤ 10 ∧ !(s.cart i).lifeWarned
    · rw [if_pos hc, if_pos hc, (slotsStand_raiseCart i 2 _).cart]
      split
      · next hk =>
        subst hk
        exact cart_setCart_state h
      · next hk => exact cart_setCart_other s _ hk
    · rw [if_neg hc, if_neg hc]
      split
      · next hk => rw [hk]
      · rfl
  generalize (if cartLife (s.cart i) ≤ 10 ∧ !(s.cart i).lifeWarned then
    raiseCart i 2 (s.setCart i { s.cart i with lifeWarned := true }) else s) = y at hwarn
  have hy := hwarn i
  rw [if_pos rfl, warnedSlot_eq] at hy
  have hcond : ((cartLife (y.cart i) = 0 ∨ (y.cart i).media.spareOut) ∧ (y.cart i).state = 3)
      = ((cartLife (s.cart i) = 0 ∨ (s.cart i).media.spareOut) ∧ (s.cart i).state = 3) := by
    rw [hy]
    rfl
  simp only [hcond]
  unfold livedSlot
  split
  · rw [(slotsStand_leaveMirror ..).cart, (slotsStand_raiseCart ..).cart]
    split
    · next hk =>
      rw [hk, cart_setCart_state (by simp), hy, ← warnedSlot_eq]
    · next hk => rw [cart_setCart_other y _ hk, hwarn, if_neg hk]
  · exact hwarn k

/-- The slot with the cartridge's content loaded, before the last step of its life. -/
def onlineSlot (c : CartSlot) (m : CartMedia) (partner : Bool) (now : Nat) : CartSlot :=
  { c with
    media := { m with blocks := replayed m, records := [], sanitizing := none }
    drainSeq := ((replayRecords m.records).getLast?.map (·.seq)).getD 0
    verified := false
    rebuild := if partner then 0 else 100, rebuildAt := now
    state := if m.sanitizing.isSome then 8 else 3
    sanitizeProgress := m.sanitizing.getD 100, sanitizeBy := if m.sanitizing.isSome then some (none, 0) else none }

theorem onlineSlot_state (c : CartSlot) (m : CartMedia) (partner : Bool) (now : Nat) :
    (onlineSlot c m partner now).state ≠ 0 := by
  simp only [onlineSlot]
  split <;> decide

/-- Coming online loads the slot, then the namespaces, the keys and the block map, and tells of it. -/
theorem cartOnline_stages {slot : Nat} (hslot : slot < 2) (m : CartMedia) (s : State) :
    ∃ y z, cartOnline slot m s = lifeCheck slot y ∧ SlotEvent y slot 0 ∧ SlotsStand s z
      ∧ SlotsStand (z.setCart slot
          (onlineSlot (z.cart slot) m (mirroredMode s && cartServes (s.cart (1 - slot)).state) s.clock)) y := by
  unfold cartOnline
  dsimp only
  generalize hz : forEach _ (fun (e : Nat × Space) st => (nsDropKey e.1 st).setSpace e.1 Space.reset) s = z
  have h1 : SlotsStand s z := by
    rw [← hz]
    exact .forEach (fun _ _ => (slotsStand_nsDropKey ..).trans (slotsStand_setSpace ..)) _ s
  generalize hc : z.setCart slot _ = c
  have hcs : c = z.setCart slot
    (onlineSlot (z.cart slot) m (mirroredMode s && cartServes (s.cart (1 - slot)).state) s.clock) := hc.symm
  generalize hv : forEach m.spaces (loadSpace slot) c = v
  have h2 : SlotsStand c v := hv ▸ .forEach (fun _ _ => slotsStand_loadSpace ..) _ c
  generalize hw : loadBlocks _ _ (modJrn _ v) = w
  have h3 : SlotsStand v w := by
    rw [← hw]
    exact ⟨rfl, rfl, .of_eq rfl rfl⟩
  generalize hx : raiseCart slot 0 (settleSpaces (modJrn _ w)) = x
  have h4 : SlotsStand w x := by
    rw [← hx]
    exact ((slotsStand_modJrn _ rfl).trans (slotsStand_settleSpaces _)).trans (slotsStand_raiseCart ..)
  have hevent : SlotEvent x slot 0 := hx ▸ slotEvent_raiseCart hslot (by decide) _
  have h := ((hcs ▸ h2).trans h3).trans h4
  refine ⟨_, z, rfl, ?_, h1, ?_⟩
  · split
    · exact slotEvent_grows (slotsStand_raiseCart ..).stat hevent
    · exact hevent
  · split
    · exact h.trans (slotsStand_raiseCart ..)
    · exact h

theorem livedSlot_eq (c : CartSlot) : livedSlot c = { c with
    lifeWarned := (livedSlot c).lifeWarned
    state := if (cartLife c = 0 ∨ c.media.spareOut) ∧ c.state = 3 then 4 else c.state } := by
  unfold livedSlot
  split <;> rw [warnedSlot_eq]

theorem runs_cartOnline (t : Nat) (media : Option CartMedia) (m : CartMedia) (s : State) (hi : i < 2)
    (h1 : (s.cart i).state = 1) (hv : (s.cart i).verified = true) (hddr : s.boot.ddrTrained.getD i false = true)
    (hm : m = media.getD (s.cart i).media) :
    Runs (.cartOnline t i media) s (fun u =>
      (u.cart i).media = { m with blocks := replayed m, records := [], sanitizing := none }
      ∧ (u.cart i).rebuild = (if mirroredMode s && cartServes (s.cart (1 - i)).state then 0 else 100)
      ∧ (u.cart i).state = (if m.sanitizing.isSome then 8
          else if cartLife { s.cart i with media := m } = 0 ∨ m.spareOut = true then 4 else 3)
      ∧ u.cart (1 - i) = s.cart (1 - i) ∧ SlotEvent u i 0) := by
  have hrun : exec (.cartOnline t i media) s = .next (cartOnline i m (advance t s)) := by
    subst hm
    refine congrArg Host.Outcome.next ((if_pos ?_).trans ?_)
    · rw [cart_advance, advance_boot]
      exact ⟨hi, h1, hv, hddr⟩
    · rw [cart_advance]
  refine ⟨_, hrun, ?_⟩
  obtain ⟨y, z, hy, hevent, hz, hyz⟩ := cartOnline_stages hi m (advance t s)
  have hpartner : (mirroredMode (advance t s) && cartServes ((advance t s).cart (1 - i)).state)
      = (mirroredMode s && cartServes (s.cart (1 - i)).state) := by
    have hmirror : mirroredMode (advance t s) = mirroredMode s := mirroredMode_congr (by rw [advance_dict])
    rw [cart_advance, hmirror]
  rw [hy]
  rw [hpartner, hz.cart, cart_advance] at hyz
  have hsame : y.cart i = onlineSlot (s.cart i) m (mirroredMode s && cartServes (s.cart (1 - i)).state) (advance t s).clock := by
    rw [hyz.cart, cart_setCart_state (onlineSlot_state _ _ _ _)]
  have hother : y.cart (1 - i) = s.cart (1 - i) := by
    rw [hyz.cart, cart_setCart_other _ _ (other_slot_ne hi), hz.cart, cart_advance]
  have hne : (y.cart i).state ≠ 0 := hsame ▸ onlineSlot_state _ _ _ _
  have hlife := cart_lifeCheck hne i
  rw [if_pos rfl, hsame, livedSlot_eq] at hlife
  refine ⟨?_, ?_, ?_, ?_, slotEvent_grows (lifeCheck_grows i y) hevent⟩
  · rw [hlife]
    rfl
  · rw [hlife]
    rfl
  · rw [hlife]
    have hcart : cartLife (onlineSlot (s.cart i) m (mirroredMode s && cartServes (s.cart (1 - i)).state) (advance t s).clock)
        = cartLife { s.cart i with media := m } := rfl
    simp only [hcart]
    simp only [onlineSlot]
    by_cases h : m.sanitizing.isSome = true <;> simp [h]
  · rw [cart_lifeCheck hne, if_neg (other_slot_ne hi), hother]

theorem runs_cartOnline_idle (t i : Nat) (media : Option CartMedia) (s : State)
    (h : (s.cart i).state ≠ 1 ∨ (s.cart i).verified = false ∨ s.boot.ddrTrained.getD i false = false) :
    Runs (.cartOnline t i media) s (fun u => u = advance t s) := by
  refine ⟨_, congrArg Host.Outcome.next (if_neg ?_), rfl⟩
  rw [cart_advance, advance_boot]
  rintro ⟨-, h1, hv, hd⟩
  obtain h | h | h := h
  · exact h h1
  · exact Bool.noConfusion (h.symm.trans hv)
  · exact Bool.noConfusion (h.symm.trans hd)

end Steps

end Sys2Proof.Machine
end

section
/-! A cartridge's life, from its quiesce on: removal, self-test and sanitize (spec 14 R469, R470, R499, R500). -/

namespace Sys2Proof.Machine
open Sys2Proof

section Actions
variable {i k : Nat}

theorem slotAct_slot (hi : i < 2) : slotAct k (0x4301 + i) k = true := by
  obtain rfl | rfl : i = 0 ∨ i = 1 := by omega
  · exact decide_eq_true ⟨.inl rfl, rfl⟩
  · exact decide_eq_true ⟨.inr rfl, rfl⟩

theorem slotOf_slot : slotOf (0x4301 + i) = i := Nat.add_sub_cancel_left _ _

/-! ### Quiesce (R469) -/

/-- The slot's cartridge quiesces, and its namespaces follow. -/
def quiesceStarted (i : Nat) (s : State) : State :=
  if (s.cart i).state = 3 then leaveMirror i (s.setCart i { s.cart i with state := 5 })
  else settleSpaces (s.setCart i { s.cart i with state := 5 })

theorem slotsStand_quiesceStarted (i : Nat) (s : State) :
    SlotsStand (s.setCart i { s.cart i with state := 5 }) (quiesceStarted i s) :=
  .ite (slotsStand_leaveMirror ..) (slotsStand_settleSpaces _)

theorem frame_quiesceStarted (i : Nat) (s : State) : Frame [.jrn] s (quiesceStarted i s) :=
  .ite (Frame.leaveMirror (.of_all rfl) (Frame.setCart (.of_all rfl) (.refl _ s) i _) i)
    (Frame.settleSpaces (.of_all rfl) (Frame.setCart (.of_all rfl) (.refl _ s) i _))

theorem takesQuiesce (hi : i < 2) : TakesAction .quiesce (0x4301 + i) 9 (fun _ s => cartServes (s.cart i).state = true)
    (.quiesce i) (fun _ s u => u.cart i = { s.cart i with state := 5 } ∧ u.cart (1 - i) = s.cart (1 - i)) := by
  refine takes_ok (fun _ _ => rfl) (slotAct_slot hi) fun q x hidx hsub hok => ?_
  have hslot : slotOf q.msg.index = i := by rw [hidx, slotOf_slot]
  refine ⟨?_, quiesceStarted i x, ?_, (frame_quiesceStarted i x).mbx (by decide), (frame_quiesceStarted i x).acts (by decide),
    fun p => ⟨?_, ?_⟩⟩
  · rw [hslot, hok]
    rfl
  · dsimp only
    rw [hslot]
    rfl
  · exact ((slotsStand_quiesceStarted i x).cart i).trans (cart_setCart_state (by simp))
  · exact ((slotsStand_quiesceStarted i x).cart _).trans (cart_setCart_other x _ (other_slot_ne hi))

theorem refusesQuiesce (hi : i < 2) :
    RefusesAction .quiesce (0x4301 + i) 9 (fun _ s => cartServes (s.cart i).state = false) 8 := by
  refine refuses_ok (fun _ _ => rfl) (slotAct_slot hi) fun q x hidx hsub hbad => ?_
  rw [hidx, slotOf_slot, hbad]
  rfl

theorem quiesceWaits_advance (t i : Nat) (s : State) : quiesceWaits (advance t s) i = quiesceWaits s i := by
  simp only [quiesceWaits, mirroredMode, cfgN_advance, cart_advance, slotStarted, slotBusy, jPending, boundNs, State.space,
    advance_jrn, advance_wq, advance_siphon] <;> rfl

/-- The cartridge is quiesced: its power goes, its namespaces follow, and the event tells of it. -/
def quiesced (i : Nat) (s : State) : State :=
  raiseCart i 4 (settleSpaces (s.setCart i { s.cart i with state := 6, pwren := false, perst := true }))

theorem slotsStand_quiesced (i : Nat) (s : State) :
    SlotsStand (s.setCart i { s.cart i with state := 6, pwren := false, perst := true }) (quiesced i s) :=
  (slotsStand_settleSpaces _).trans (slotsStand_raiseCart ..)

theorem runs_cartQuiesced (t : Nat) (s : State) (hi : i < 2) (h5 : (s.cart i).state = 5) (hd : (s.cart i).dirty = []) :
    (quiesceWaits s i = false →
      Runs (.cartQuiesced t i) s (fun u => u.cart i = { s.cart i with state := 6, pwren := false, perst := true }
        ∧ u.cart (1 - i) = s.cart (1 - i) ∧ SlotEvent u i 4 ∧ (∀ a, a ∈ u.dict.acts → a.act ≠ .quiesce i)))
    ∧ (quiesceWaits s i = true → Runs (.cartQuiesced t i) s (fun u => u = advance t s)) := by
  refine ⟨fun hw => ?_, fun hw => ?_⟩
  · have hcond : i < 2 ∧ ((advance t s).cart i).state = 5 ∧ ((advance t s).cart i).dirty = []
        ∧ !quiesceWaits (advance t s) i := by
      rw [cart_advance, quiesceWaits_advance, hw]
      exact ⟨hi, h5, hd, rfl⟩
    have hrun : exec (.cartQuiesced t i) s = .next (answerAct (.quiesce i) none (quiesced i (advance t s))) :=
      congrArg Host.Outcome.next (if_pos hcond)
    refine ⟨_, hrun, ?_⟩
    have hstand := slotsStand_answerAct (.quiesce i) none (quiesced i (advance t s))
    refine ⟨?_, ?_, slotEvent_grows hstand.stat (slotEvent_raiseCart hi (by decide) _), fun a ha =>
      ((acts_answerAct _ _ _ a).1 ha).2⟩
    · rw [hstand.cart, (slotsStand_quiesced ..).cart, cart_setCart_state (by simp), cart_advance]
    · rw [hstand.cart, (slotsStand_quiesced ..).cart, cart_setCart_other _ _ (other_slot_ne hi), cart_advance]
  · refine ⟨_, congrArg Host.Outcome.next (if_neg ?_), rfl⟩
    rw [quiesceWaits_advance, hw]
    simp

theorem runs_cartQuiesced_idle (t i : Nat) (s : State) (h : (s.cart i).state ≠ 5 ∨ (s.cart i).dirty ≠ []) :
    Runs (.cartQuiesced t i) s (fun u => u = advance t s) := by
  refine ⟨_, congrArg Host.Outcome.next (if_neg ?_), rfl⟩
  rw [cart_advance]
  rintro ⟨-, h5, hd, -⟩
  exact h.elim (fun h => h h5) (fun h => h hd)

end Actions

/-! ### Removal (R470) -/

section Removal
variable {i : Nat} {s : State}

/-- The slot of a cartridge that is gone without a quiesce. -/
def removedSlot (c : CartSlot) (rises : Bool) : CartSlot :=
  { c with
    state := 7, present := !rises, pwren := false, perst := true, dirty := [], verified := false, testState := 0
    failedSerial := slice c.identity 8 16, sanitizeBy := none }

/-- The blocks that were dirty. -/
def dirtyBlocks (c : CartSlot) : List (Nat × Nat) := c.dirty.flatMap (fun u => u.blocks.map (fun b => (u.ns, b.1)))

/-- A dirty block is lost, unless the other member holds it. -/
def loseBlock (s : State) (i : Nat) (m : Tab Ver) (b : Nat × Nat) : Tab Ver :=
  if (s.space b.1).placement = 2 ∧ cartServes (s.cart (1 - i)).state then m
  else Tab.set Ver.zero m (mapKey b.1 b.2) .lost

theorem loseBlock_keeps {m : Tab Ver} {key : Nat} (b : Nat × Nat) (h : Tab.get Ver.zero m key = .lost) :
    Tab.get Ver.zero (loseBlock s i m b) key = .lost := by
  unfold loseBlock
  split
  · exact h
  · by_cases hk : mapKey b.1 b.2 = key
    · rw [← hk]
      exact Tab.get_set_of_ne m _ (by decide)
    · rw [Tab.get_set_other _ _ hk, h]

theorem loseBlock_loses (m : Tab Ver) {b : Nat × Nat} (h : (s.space b.1).placement ≠ 2) :
    Tab.get Ver.zero (loseBlock s i m b) (mapKey b.1 b.2) = .lost := by
  rw [loseBlock, if_neg fun hp => h hp.1]
  exact Tab.get_set_of_ne m _ (by decide)

theorem loseBlocks_loses {l : List (Nat × Nat)} {b : Nat × Nat} (hb : b ∈ l) (h : (s.space b.1).placement ≠ 2) (m : Tab Ver) :
    Tab.get Ver.zero (l.foldl (loseBlock s i) m) (mapKey b.1 b.2) = .lost := by
  induction l generalizing m with
  | nil => cases hb
  | cons x l ih =>
    obtain rfl | hb := List.mem_cons.1 hb
    · exact List.foldlRecOn l _ (motive := fun m => Tab.get Ver.zero m _ = .lost) (loseBlock_loses m h)
        fun m hm x _ => loseBlock_keeps x hm
    · exact ih hb _

/-- The slot and the map after the removal, before the commands end. -/
def blocksLost (i : Nat) (rises : Bool) (s : State) : State :=
  modJrn (fun j => { j with map := (dirtyBlocks (s.cart i)).foldl (loseBlock s i) j.map })
    (cartCount i 4 (dirtyBlocks (s.cart i)).length (s.setCart i (removedSlot (s.cart i) rises)))

theorem slotsStand_countEv (ev n : Nat) (port tc polder : Option Nat) (s : State) :
    SlotsStand s (countEv ev n port tc polder s) :=
  have h := signals_countEv ev n port tc polder s
  ⟨congrArg Journal.slots h.jrn, congrArg Dict.vals h.dict, statGrows_countEv ..⟩

theorem cartCount_lost (i n : Nat) (s : State) : cartCount i 4 n s = countEv (0x510 + 8 * i + 4) n none none none
    (s.setCart i { s.cart i with media := { (s.cart i).media with lost := satAdd64 (s.cart i).media.lost n } }) := rfl

theorem cart_blocksLost (rises : Bool) : (blocksLost i rises s).cart i = { removedSlot (s.cart i) rises with
    media := { (s.cart i).media with lost := satAdd64 (s.cart i).media.lost (dirtyBlocks (s.cart i)).length } } := by
  have hset : (s.setCart i (removedSlot (s.cart i) rises)).cart i = removedSlot (s.cart i) rises :=
    cart_setCart_state (by simp [removedSlot])
  have hcount : (blocksLost i rises s).cart i
      = (cartCount i 4 (dirtyBlocks (s.cart i)).length (s.setCart i (removedSlot (s.cart i) rises))).cart i := rfl
  rw [hcount, cartCount_lost, (slotsStand_countEv ..).cart, hset, cart_setCart_state (by simp [removedSlot])]
  rfl

theorem map_blocksLost (rises : Bool) :
    (blocksLost i rises s).jrn.map = (dirtyBlocks (s.cart i)).foldl (loseBlock s i) s.jrn.map := by
  have hcount : (cartCount i 4 (dirtyBlocks (s.cart i)).length (s.setCart i (removedSlot (s.cart i) rises))).jrn.map
      = s.jrn.map := by
    rw [cartCount_lost, (signals_countEv ..).jrn]
    rfl
  rw [← hcount]
  rfl

/-- The end of a removal: the namespaces follow, the events tell of it, and a quiesce that waited fails. -/
def removalTold (i : Nat) (alone : Bool) (z : State) : State :=
  let s6 := raiseCart i 5 (settleSpaces z)
  let s7 := if actRunning s6 (.quiesce i) then answerAct (.quiesce i) (some aSTATE) s6 else s6
  if alone then s7 else raiseCart i 6 s7

theorem removalTold_stands (hi : i < 2) (alone : Bool) {x z : State} (h : CartsStand x z) :
    CartsStand x (removalTold i alone z) ∧ SlotEvent (removalTold i alone z) i 5 := by
  have h6 := (h.trans (cartsStand_settleSpaces z)).trans (cartsStand_raiseCart i 5 _)
  have hevent := slotEvent_raiseCart hi (by decide : 5 ≤ 10) (settleSpaces z)
  unfold removalTold
  dsimp only
  generalize raiseCart i 5 (settleSpaces z) = s6 at h6 hevent
  have h7 : CartsStand x (if actRunning s6 (.quiesce i) then answerAct (.quiesce i) (some aSTATE) s6 else s6)
      ∧ SlotEvent (if actRunning s6 (.quiesce i) then answerAct (.quiesce i) (some aSTATE) s6 else s6) i 5 := by
    split
    · exact ⟨h6.trans (cartsStand_answerAct ..), slotEvent_grows (statGrows_answerAct ..) hevent⟩
    · exact ⟨h6, hevent⟩
  obtain ⟨h7, hevent⟩ := h7
  split
  · exact ⟨h7, hevent⟩
  · exact ⟨h7.trans (cartsStand_raiseCart ..), slotEvent_grows (cartsStand_raiseCart ..).stat hevent⟩

/-- What the removal does after that ends commands and tells of it. -/
theorem cartRemoval_stages (hi : i < 2) (rises : Bool) (hp : (s.cart i).present = true)
    (hst : ¬((s.cart i).state = 0 ∨ (s.cart i).state = 2 ∨ (s.cart i).state = 6 ∨ (s.cart i).state = 7)) :
    CartsStand (blocksLost i rises s) (cartRemoval i rises s) ∧ SlotEvent (cartRemoval i rises s) i 5 := by
  unfold cartRemoval
  dsimp only
  rw [hp, if_neg (by decide : ¬(!true) = true), if_neg hst]
  generalize hx : modJrn _ (cartCount i 4 _ _) = x
  have hxs : blocksLost i rises s = x := hx
  rw [hxs]
  generalize (!(mirroredMode s && cartServes (s.cart (1 - i)).state)) = alone
  generalize hy : (if alone = true then endFormats _ stMEDIA_ERROR _ else flushDone x) = y
  have h1 : CartsStand x y := by
    rw [← hy]
    split
    · exact (ends_endStarted ..).carts.trans (cartsStand_endFormats ..)
    · exact (ends_flushDone x).carts
  cases (s.cart i).sanitizeBy with
  | none => exact removalTold_stands hi alone h1
  | some p => exact removalTold_stands hi alone (h1.trans (cartsStand_jEnd ..))

theorem runs_removal (t : Nat) (rises : Bool) (s : State) (hi : i < 2) (hp : (s.cart i).present = true)
    (hst : (s.cart i).state = 1 ∨ (s.cart i).state = 3 ∨ (s.cart i).state = 4 ∨ (s.cart i).state = 5
      ∨ (s.cart i).state = 8) :
    Runs (.cartRemoval t ⟨i, rises⟩) s (fun u => (u.cart i).state = 7 ∧ (u.cart i).present = !rises ∧ (u.cart i).dirty = []
      ∧ (u.cart i).pwren = false ∧ (u.cart i).perst = true ∧ (u.cart i).testState = 0
      ∧ (u.cart i).failedSerial = slice (s.cart i).identity 8 16 ∧ SlotEvent u i 5
      ∧ (u.cart i).media.lost = satAdd64 (s.cart i).media.lost
          ((s.cart i).dirty.flatMap (fun v => v.blocks.map (fun b => (v.ns, b.1)))).length
      ∧ (∀ v l, v ∈ (s.cart i).dirty → l ∈ v.blocks.map (·.1) → (s.space v.ns).placement ≠ 2 →
          Tab.get Ver.zero u.jrn.map (mapKey v.ns l) = .lost)) := by
  refine ⟨_, congrArg Host.Outcome.next (if_pos hi), ?_⟩
  obtain ⟨hstand, hevent⟩ := cartRemoval_stages (s := advance t s) hi rises (by rwa [cart_advance])
    (by rw [cart_advance]; omega)
  have hlost := cart_blocksLost (s := advance t s) (i := i) rises
  have hmap := hstand.map.trans (map_blocksLost rises)
  have hcart := hstand.cart i (by rw [hlost]; simp [removedSlot])
  rw [hlost] at hcart
  rw [cart_advance] at hlost hcart hmap
  show ((cartRemoval i rises (advance t s)).cart i).state = 7 ∧ _
  generalize cartRemoval i rises (advance t s) = u at hcart hmap hevent ⊢
  refine ⟨(congrArg CartSlot.state hcart :), (congrArg CartSlot.present hcart :), (congrArg CartSlot.dirty hcart :),
    (congrArg CartSlot.pwren hcart :), (congrArg CartSlot.perst hcart :), (congrArg CartSlot.testState hcart :),
    (congrArg CartSlot.failedSerial hcart :), hevent, (congrArg (fun c : CartSlot => c.media.lost) hcart :),
    fun v l hv hl hplace => ?_⟩
  rw [hmap]
  obtain ⟨b, hb, rfl⟩ := List.mem_map.1 hl
  exact loseBlocks_loses (b := (v.ns, b.1)) (List.mem_flatMap.2 ⟨v, hv, List.mem_map.2 ⟨b, hb, rfl⟩⟩)
    (by rwa [space_advance]) _

/-- A cartridge that may be pulled leaves its slot empty; until it is pulled, nothing happens. -/
theorem runs_removal_idle (t : Nat) (s : State) (hi : i < 2) (hwf : Tab.wf CartSlot.reset s.jrn.slots = true)
    (hp : (s.cart i).present = true)
    (hst : (s.cart i).state = 0 ∨ (s.cart i).state = 2 ∨ (s.cart i).state = 6 ∨ (s.cart i).state = 7) :
    Runs (.cartRemoval t ⟨i, true⟩) s (fun u =>
      u.cart i = { CartSlot.reset with failedSerial := (s.cart i).failedSerial } ∧ u.cart (1 - i) = s.cart (1 - i))
    ∧ Runs (.cartRemoval t ⟨i, false⟩) s (fun u => u = advance t s) := by
  have hrun : ∀ rises, exec (.cartRemoval t ⟨i, rises⟩) s = .next (if rises then
      settleSpaces ((advance t s).setCart i { CartSlot.reset with failedSerial := (s.cart i).failedSerial })
      else advance t s) := by
    intro rises
    refine congrArg Host.Outcome.next ((if_pos hi).trans ?_)
    rw [← cart_advance s t i] at hp hst ⊢
    unfold cartRemoval
    dsimp only
    rw [hp, if_neg (by decide : ¬(!true) = true), if_pos hst]
  refine ⟨⟨_, hrun true, ?_, ?_⟩, ⟨_, hrun false, rfl⟩⟩
  · rw [if_pos rfl, (slotsStand_settleSpaces _).cart]
    exact cart_setCart_wf (by rwa [advance_jrn]) _
  · rw [if_pos rfl, (slotsStand_settleSpaces _).cart, cart_setCart_other _ _ (other_slot_ne hi), cart_advance]

theorem runs_removal_empty (t i : Nat) (rises : Bool) (s : State) (hp : (s.cart i).present = false) :
    Runs (.cartRemoval t ⟨i, rises⟩) s (fun u => u = advance t s) := by
  refine ⟨_, rfl, ?_⟩
  dsimp only
  split
  · unfold cartRemoval
    dsimp only
    rw [cart_advance, hp]
    rfl
  · rfl

end Removal

/-! ### Self-test (R499) -/

section SelfTest
variable {i : Nat}

theorem slotsStand_mbxRespond (flags kind reqId index sub ty pa pb : Nat) (data : Bytes) (s : State) :
    SlotsStand s (mbxRespond flags kind reqId index sub ty pa pb data s) :=
  ⟨by rw [mbxRespond_jrn], by rw [mbxRespond_dict], (replies_mbxRespond ..).stat⟩

theorem testStart_code {code : Nat} {s : State} (hcode : code = 1 ∨ code = 2) : testStart i code s =
    if (s.cart i).testState ≠ 0 ∨ !cartServes (s.cart i).state then (false, s)
    else (true, s.setCart i { s.cart i with
      testState := 1, testCode := code, testProgress := 0, testResult := 0, testSegment := 0 }) :=
  if_neg (by omega)

theorem testStart_abort (s : State) : testStart i 0xF s =
    if (s.cart i).testState = 0 then (false, s) else (true, testEnd i 3 0 s) := rfl

theorem servesSelfTest (hi : i < 2) : ServesAction .selfTestStart (0x4301 + i) 0xA
    (fun d s => (byteAt d 0 = 1 ∨ byteAt d 0 = 2) ∧ (s.cart i).testState = 0 ∧ cartServes (s.cart i).state = true) 0
    (fun _ _ => [])
    (fun d s u => u.cart i = { s.cart i with
        testState := 1, testCode := byteAt d 0, testProgress := 0, testResult := 0, testSegment := 0 }
      ∧ u.cart (1 - i) = s.cart (1 - i)) := by
  refine serves_ok (fun _ _ => rfl) (slotAct_slot hi) fun q x hidx hsub ⟨hcode, htest, hserves⟩ => ?_
  have hstart := (testStart_code (i := i) (s := x) hcode).trans (if_neg (by rw [htest, hserves]; decide))
  refine ⟨?_, x.setCart i { x.cart i with
      testState := 1, testCode := byteAt q.msg.data 0, testProgress := 0, testResult := 0, testSegment := 0 }, ?_,
    fun _ _ _ _ => ⟨?_, ?_⟩⟩
  · dsimp only
    rw [hidx, slotOf_slot, hstart]
    obtain h | h := hcode <;> rw [h] <;> rfl
  · dsimp only
    rw [hidx, slotOf_slot, hstart]
    rfl
  · rw [(slotsStand_mbxRespond ..).cart]
    exact cart_setCart_same fun h => Nat.one_ne_zero (congrArg CartSlot.testState h)
  · rw [(slotsStand_mbxRespond ..).cart]
    exact cart_setCart_other x _ (other_slot_ne hi)

/-- The slot of a self-test that was aborted. -/
def testOver (i result segment : Nat) (s : State) : CartSlot :=
  { s.cart i with
    testState := 0, testResult := result, testSegment := segment, testTime := timeNow s / unitsPerSec
    testProgress := if result = 3 then testShown s i else 100 }

theorem slotsStand_testEnd (i result segment : Nat) (s : State) :
    SlotsStand (s.setCart i (testOver i result segment s)) (testEnd i result segment s) := slotsStand_raiseCart ..

theorem cart_testEnd (i : Nat) (s : State) : (testEnd i 3 0 s).cart i = testOver i 3 0 s := by
  rw [(slotsStand_testEnd i 3 0 s).cart]
  exact cart_setCart_same fun h => Nat.succ_ne_zero 2 (congrArg CartSlot.testResult h)

theorem cart_testEnd_other {k : Nat} (s : State) (h : k ≠ i) : (testEnd i 3 0 s).cart k = s.cart k := by
  rw [(slotsStand_testEnd i 3 0 s).cart, cart_setCart_other s _ h]

theorem servesSelfTestAbort (hi : i < 2) : ServesAction .selfTestStart (0x4301 + i) 0xA
    (fun d s => byteAt d 0 = 0xF ∧ (s.cart i).testState ≠ 0) 0 (fun _ _ => [])
    (fun _ _ u => (u.cart i).testState = 0 ∧ (u.cart i).testResult = 3 ∧ SlotEvent u i 9) := by
  refine serves_ok (fun _ _ => rfl) (slotAct_slot hi) fun q x hidx hsub ⟨hcode, htest⟩ => ?_
  have hstart := (testStart_abort (i := i) x).trans (if_neg htest)
  refine ⟨?_, testEnd i 3 0 x, ?_, fun _ _ _ _ => ?_⟩
  · dsimp only
    rw [hidx, slotOf_slot, hcode, hstart]
    rfl
  · rw [hidx, slotOf_slot, hcode, hstart]
    rfl
  · rw [(slotsStand_mbxRespond ..).cart, cart_testEnd]
    exact ⟨rfl, rfl, slotEvent_grows (slotsStand_mbxRespond ..).stat (slotEvent_raiseCart hi (by decide) _)⟩

theorem refusesSelfTest (hi : i < 2) : RefusesAction .selfTestStart (0x4301 + i) 0xA
    (fun d s => ((byteAt d 0 = 1 ∨ byteAt d 0 = 2)
      ∧ ((s.cart i).testState ≠ 0 ∨ cartServes (s.cart i).state = false))
      ∨ (byteAt d 0 = 0xF ∧ (s.cart i).testState = 0)) 8 := by
  refine refuses_ok (fun _ _ => rfl) (slotAct_slot hi) fun q x hidx hsub hbad => ?_
  dsimp only
  rw [hidx, slotOf_slot]
  obtain ⟨hcode, hbusy⟩ | ⟨hcode, htest⟩ := hbad
  · rw [testStart_code hcode, if_pos (by simpa using hbusy)]
    obtain h | h := hcode <;> rw [h] <;> rfl
  · rw [hcode, testStart_abort, if_pos htest]
    rfl

end SelfTest

/-! ### Sanitize (R500) -/

section Sanitize
variable {i : Nat}

/-- A cartridge's sanitize starts: its self-test and the commands on it end. -/
def slotSanitized (i : Nat) (by' : Option JSrc × Nat) (k : Nat) (s : State) : State :=
  if cartServes (s.cart k).state then
    let s0 := if (s.cart k).testState ≠ 0 then testEnd k 3 0 s else s
    let s1 := endStarted (onSlot s0 k) stSANITIZING s0
    s1.setCart k { s1.cart k with
      state := 8, sanitizeBy := some (if k = i then by' else (none, 0)), sanitizeProgress := 0 }
  else s

theorem sanitizeStart_eq (i : Nat) (by' : Option JSrc × Nat) (s : State) :
    sanitizeStart i by' s = forEach (sanitizeSlots s i) (slotSanitized i by') s := rfl

/-- What one start leaves: its own cartridge sanitizes, the other keeps its state and what it sanitizes for. -/
theorem slotSanitized_same (by' : Option JSrc × Nat) {k : Nat} {s : State} (h : cartServes (s.cart k).state = true) :
    ((slotSanitized i by' k s).cart k).state = 8
      ∧ ((slotSanitized i by' k s).cart k).sanitizeBy = some (if k = i then by' else (none, 0))
      ∧ ((slotSanitized i by' k s).cart k).sanitizeProgress = 0 := by
  rw [slotSanitized, if_pos h]
  dsimp only
  rw [cart_setCart_state (by simp)]
  exact ⟨rfl, rfl, rfl⟩

theorem slotSanitized_other (by' : Option JSrc × Nat) {k j : Nat} {s : State} (hj : j ≠ k) (h : (s.cart j).state ≠ 0) :
    { (slotSanitized i by' k s).cart j with lastCmd := (s.cart j).lastCmd } = s.cart j := by
  unfold slotSanitized
  split
  · dsimp only
    rw [cart_setCart_other _ _ hj]
    have htest : (if (s.cart k).testState ≠ 0 then testEnd k 3 0 s else s).cart j = s.cart j := by
      split
      · exact cart_testEnd_other s hj
      · rfl
    generalize (if (s.cart k).testState ≠ 0 then testEnd k 3 0 s else s) = y at htest
    have hend := (ends_endStarted (onSlot y k) stSANITIZING y).carts.cart j (by rwa [htest])
    rwa [htest] at hend
  · rfl

theorem state_ne_of_serves {n : Nat} (h : cartServes n = true) : n ≠ 0 := by
  rintro rfl
  exact absurd h (by decide)

/-- The slot sanitizes; `by'` is the command to be answered. -/
def Sanitizes (u : State) (k : Nat) (by' : Option JSrc × Nat) : Prop :=
  (u.cart k).state = 8 ∧ (u.cart k).sanitizeBy = some by' ∧ (u.cart k).sanitizeProgress = 0

section Pair
variable {k j : Nat} {s : State} (hne : k ≠ j)
include hne

theorem sanitizes_first (h : cartServes (s.cart k).state = true) :
    Sanitizes (slotSanitized i (none, 0) j (slotSanitized i (none, 0) k s)) k (none, 0) := by
  obtain ⟨h8, hby, hp⟩ := slotSanitized_same (i := i) (none, 0) h
  rw [ite_self] at hby
  have hkeep := slotSanitized_other (i := i) (none, 0) hne (by rw [h8]; decide)
  exact ⟨(congrArg CartSlot.state hkeep :).trans h8, (congrArg CartSlot.sanitizeBy hkeep :).trans hby,
    (congrArg CartSlot.sanitizeProgress hkeep :).trans hp⟩

theorem sanitizes_second (h : cartServes (s.cart j).state = true) :
    Sanitizes (slotSanitized i (none, 0) j (slotSanitized i (none, 0) k s)) j (none, 0) := by
  have hkeep := slotSanitized_other (i := i) (none, 0) hne.symm (state_ne_of_serves h)
  have hserves : cartServes ((slotSanitized i (none, 0) k s).cart j).state = true := by
    rwa [(congrArg CartSlot.state hkeep :)]
  have hsame := slotSanitized_same (i := i) (none, 0) hserves
  rwa [ite_self] at hsame

end Pair

theorem sanitizeStart_sanitizes {s : State} (hi : i < 2) (h : cartServes (s.cart i).state = true) :
    ((sanitizeStart i (none, 0) s).cart i).state = 8 ∧ ((sanitizeStart i (none, 0) s).cart i).sanitizeBy = some (none, 0)
      ∧ ((sanitizeStart i (none, 0) s).cart i).sanitizeProgress = 0
      ∧ (mirroredMode s = true → cartServes (s.cart (1 - i)).state = true →
          ((sanitizeStart i (none, 0) s).cart (1 - i)).state = 8) := by
  by_cases hm : mirroredMode s = true
  · have hpair : sanitizeStart i (none, 0) s = slotSanitized i (none, 0) 1 (slotSanitized i (none, 0) 0 s) := by
      rw [sanitizeStart_eq, sanitizeSlots, if_pos hm]
      rfl
    rw [hpair]
    obtain rfl | rfl : i = 0 ∨ i = 1 := by omega
    · obtain ⟨h8, hby, hp⟩ := sanitizes_first (i := 0) (k := 0) (j := 1) (by decide) h
      exact ⟨h8, hby, hp, fun _ hother => (sanitizes_second (by decide) hother).1⟩
    · obtain ⟨h8, hby, hp⟩ := sanitizes_second (i := 1) (k := 0) (j := 1) (by decide) h
      exact ⟨h8, hby, hp, fun _ hother => (sanitizes_first (by decide) hother).1⟩
  · have hone : sanitizeStart i (none, 0) s = slotSanitized i (none, 0) i s := by
      rw [sanitizeStart_eq, sanitizeSlots, if_neg hm]
      rfl
    rw [hone]
    obtain ⟨h8, hby, hp⟩ := slotSanitized_same (i := i) (none, 0) h
    rw [ite_self] at hby
    exact ⟨h8, hby, hp, fun h => absurd h hm⟩

theorem servesSanitize (hi : i < 2) : ServesAction .sanitize (0x4301 + i) 0xC (fun _ s => cartServes (s.cart i).state = true) 0
    (fun _ _ => [])
    (fun _ s u => (u.cart i).state = 8 ∧ (u.cart i).sanitizeBy = some (none, 0) ∧ (u.cart i).sanitizeProgress = 0
      ∧ (mirroredMode s = true → cartServes (s.cart (1 - i)).state = true → (u.cart (1 - i)).state = 8)) := by
  refine serves_ok (fun _ _ => rfl) (slotAct_slot hi) fun q x hidx hsub hok => ?_
  refine ⟨?_, sanitizeStart i (none, 0) x, ?_, fun _ _ _ _ => ?_⟩
  · rw [hidx, slotOf_slot, hok]
    rfl
  · rw [hidx, slotOf_slot]
    rfl
  · rw [(slotsStand_mbxRespond ..).cart, (slotsStand_mbxRespond ..).cart]
    exact sanitizeStart_sanitizes hi hok

theorem refusesSanitize (hi : i < 2) :
    RefusesAction .sanitize (0x4301 + i) 0xC (fun _ s => cartServes (s.cart i).state = false) 8 := by
  refine refuses_ok (fun _ _ => rfl) (slotAct_slot hi) fun q x hidx hsub hbad => ?_
  rw [hidx, slotOf_slot, hbad]
  rfl

end Sanitize

end Sys2Proof.Machine

namespace Sys2Proof
open Machine

/-- Settles O34: each command by its guards; what a step does to the namespaces, the keys and the commands leaves the
slots but for the time of their last command, and the events it tells of stand. -/
theorem cartridges : Obligations.Cartridges :=
  ⟨fun t _ s hi => runs_prsntFall t s hi,
    fun t _ s hi hp h0 hs hb hd => runs_presentDebounce t s hi hp h0 hs hb hd,
    fun t _ s hi h1 hv => runs_linkTimeout t s hi h1 hv,
    runs_linkTimeout_idle,
    fun t _ id ch s hi h1 hv hc hr => runs_linkTrained t id ch s hi h1 hv hc hr,
    runs_linkTrained_idle,
    fun t _ media m s hi h1 hv hd hm => runs_cartOnline t media m s hi h1 hv hd hm,
    runs_cartOnline_idle,
    fun _ hi => takesQuiesce hi,
    fun _ hi => refusesQuiesce hi,
    fun t _ s hi h5 hd => runs_cartQuiesced t s hi h5 hd,
    runs_cartQuiesced_idle,
    fun t _ rises s _ hi hp hst => runs_removal t rises s hi hp hst,
    fun t _ s hi hwf hp hst => runs_removal_idle t s hi hwf hp hst,
    runs_removal_empty,
    fun _ hi => servesSelfTest hi,
    fun _ hi => servesSelfTestAbort hi,
    fun _ hi => refusesSelfTest hi,
    fun _ hi => servesSanitize hi,
    fun _ hi => refusesSanitize hi⟩

end Sys2Proof
end

section
/-! The life of a namespace (spec 14 R473 to R475, R501, R503). -/

namespace Sys2Proof.Machine
open Sys2Proof

/-! ### Reads and writes of a namespace -/

section Spaces
variable {s u : State} {n : Nat}

theorem space_setSpace_wf (h : Tab.wf Space.reset s.jrn.spaces = true) (x : Space) : (s.setSpace n x).space n = x :=
  Tab.get_set_same n x h

theorem space_setSpace_defined {x : Space} (h : x.defined = true) : (s.setSpace n x).space n = x :=
  Tab.get_set_of_ne s.jrn.spaces n fun hx => Bool.noConfusion (h.symm.trans (congrArg Space.defined hx))

theorem space_setSpace_other {m : Nat} (x : Space) (h : m ≠ n) : (s.setSpace n x).space m = s.space m :=
  Tab.get_set_other _ _ h.symm

theorem space_of_spaces (h : u.jrn.spaces = s.jrn.spaces) (m : Nat) : u.space m = s.space m :=
  congrArg (Tab.get Space.reset · m) h

/-- A namespace whose state follows its cartridges and its key. -/
def settled (s : State) (p : Space) : Space :=
  if p.defined ∧ p.state ≠ 6 then
    { p with state := if p.formatBy.isSome ∧ p.keySlot.isSome then 5 else liveState s p }
  else p

theorem get_mapped {α : Type} {d : α} (f : α → α) (hd : f d = d) (t : Tab α) (k : Nat) :
    Tab.get d (t.map (fun e => (e.1, f e.2))) k = f (Tab.get d t k) := by
  induction t with
  | nil => exact hd.symm
  | cons e t ih =>
    simp only [List.map_cons, Tab.get]
    split
    · rfl
    · exact ih

theorem space_settleSpaces (s : State) (m : Nat) : (settleSpaces s).space m = settled s (s.space m) := by
  have hmap : (settleSpaces s).jrn.spaces = s.jrn.spaces.map (fun e => (e.1, settled s e.2)) := by
    refine List.map_congr_left fun e _ => ?_
    unfold settled
    split <;> rfl
  rw [State.space, hmap]
  exact get_mapped (settled s) rfl _ m

end Spaces

/-! ### Commands that end leave the namespaces, the map and what is dirty -/

/-- From `s` to `u` the namespaces, the map and the dirty blocks stand. -/
structure SpacesStand (s u : State) : Prop where
  spaces : u.jrn.spaces = s.jrn.spaces
  map : u.jrn.map = s.jrn.map
  dirty : Tab.wf CartSlot.reset s.jrn.slots = true →
    Tab.wf CartSlot.reset u.jrn.slots = true ∧ ∀ k, (u.cart k).dirty = (s.cart k).dirty

theorem SpacesStand.refl (s : State) : SpacesStand s s := ⟨rfl, rfl, fun h => ⟨h, fun _ => rfl⟩⟩

theorem SpacesStand.trans {s u v : State} (h : SpacesStand s u) (g : SpacesStand u v) : SpacesStand s v := by
  refine ⟨g.spaces.trans h.spaces, g.map.trans h.map, fun hwf => ?_⟩
  obtain ⟨hu, hdu⟩ := h.dirty hwf
  obtain ⟨hv, hdv⟩ := g.dirty hu
  exact ⟨hv, fun k => (hdv k).trans (hdu k)⟩

theorem Ends.spaces {s u : State} (h : Ends s u) : SpacesStand s u := by
  induction h with
  | refl => exact .refl s
  | @tail y z _ hstep ih =>
    refine ih.trans ?_
    cases hstep with
    | lastCmd i t =>
      refine ⟨rfl, rfl, fun hwf => ⟨Tab.wf_set _ _ hwf, fun k => ?_⟩⟩
      by_cases hk : k = i
      · subst hk
        rw [cart_setCart_wf hwf]
      · rw [cart_setCart_other y _ hk]
    | quiet hj hd he =>
      have hslots : z.jrn.slots = y.jrn.slots := (congrArg Journal.slots hj :)
      exact ⟨(congrArg Journal.spaces hj :), (congrArg Journal.map hj :),
        fun hwf => ⟨hslots ▸ hwf, fun k => by rw [cart_of_slots hslots]⟩⟩

/-! ### An action that fails in the act -/

theorem serve_fails {mine : Nat → Nat → Bool} {own : Req → State → List Nat} {go : Handler} {t : Nat} {f : Bool}
    {s s2 : State} {b : Bytes} {idx sub c : Nat} (h : Asks (advance t s) b idx sub) (hm : mine idx sub = true)
    (ho : own (mbxReq (advance t s) f b) (advance t s) = [])
    (hg : go (mbxReq (advance t s) f b) (advance t s) = (s2, .abort c)) :
    serveAction mine own go { t := t, src := .mailbox, flash := f } s
      = mbxRespond 3 (parseMsg b 0).kind (parseMsg b 0).reqId (parseMsg b 0).index (parseMsg b 0).sub 0 c 0 [] s2 := by
  obtain ⟨hup, horphans, haccepted, hboot, hkind, hidx, hsub, hact, haborts⟩ := h
  replace haborts : actionAborts (mbxReq (advance t s) f b) = [] := haborts
  have hq : (mbxReq (advance t s) f b).msg = parseMsg b 0 := rfl
  have hmine : actMine mine (parseMsg b 0) = true := by simp [actMine, hkind, hidx, hsub, hm]
  have ha : action own go (mbxReq (advance t s) f b) (advance t s) = (s2, .abort c) := by
    simp only [action, haborts, ho, hq, hidx, hsub, hact]
    simpa [firstAbort_nil] using hg
  have hgo : guarded (action own go) (mbxReq (advance t s) f b) (advance t s) = (s2, .abort c) := by
    refine (if_neg fun hb => ?_).trans ha
    simp only [Bool.and_eq_true, decide_eq_true_eq, Bool.not_eq_true'] at hb
    exact Bool.noConfusion (hb.2.symm.trans (hboot hb.1))
  unfold serveAction fdpServe mbxServe
  simp only [hup, horphans, haccepted, hq, hmine, hgo]
  rfl

section Actions

/-! ### Read, attach, detach and format -/

theorem nsAborts_nil {s : State} {n : Nat} (hn : n < 4096) (hd : (s.space n).defined = true) : nsAborts s n = [] := by
  simp [nsAborts, abortIf, hd, show ¬ 4095 < n by omega]

theorem jrn_mbxRespond_space (flags kind reqId index sub ty pa pb : Nat) (data : Bytes) (s : State) (m : Nat) :
    (mbxRespond flags kind reqId index sub ty pa pb data s).space m = s.space m :=
  space_of_spaces (by rw [mbxRespond_jrn]) m

theorem servesNamespaceRead : ServesAction .namespaceRead 0x4312 0 (fun d _ => beNat d < 4096) 9
    (fun d s => nsRecord false s (beNat d)) (fun _ s u => u.jrn = s.jrn) := by
  refine serves_ok (fun _ _ => rfl) rfl fun q x hidx hsub hok => ⟨?_, x, rfl, fun _ _ _ _ => by rw [mbxRespond_jrn]⟩
  simp [abortIf, show ¬ 4095 < beNat q.msg.data by omega]

theorem servesAttach : ServesAction .namespaceAttach 0x4313 0
    (fun d s => beField d 0 2 < 4096 ∧ (s.space (beField d 0 2)).defined = true
      ∧ (s.space (beField d 0 2)).attach = none ∧ beField d 2 2 < 4096 ∧ polderLive s (beField d 2 2) = true
      ∧ beField d 4 2 < (s.polder (beField d 2 2)).counts.namespaces
      ∧ boundNs s (beField d 2 2) (beField d 4 2) = none) 0 (fun _ _ => [])
    (fun d s u => u.space (beField d 0 2) = { s.space (beField d 0 2) with
        attach := some (beField d 2 2, beField d 4 2) }
      ∧ ∀ m, m ≠ beField d 0 2 → u.space m = s.space m) := by
  refine serves_ok (fun _ _ => rfl) rfl fun q x hidx hsub ⟨hn, hd, ha, hfn, hlive, hh, hbound⟩ =>
    ⟨?_, _, rfl, fun _ _ _ _ => ⟨?_, fun m hm => ?_⟩⟩
  · dsimp only
    rw [nsAborts_nil hn hd]
    simp [abortIf, ha, hlive, hbound, Nat.not_le.2 hh, show ¬ 4095 < beField q.msg.data 2 2 by omega]
  · rw [jrn_mbxRespond_space]
    exact space_setSpace_defined hd
  · rw [jrn_mbxRespond_space]
    exact space_setSpace_other _ hm

theorem refusesAttach : RefusesAction .namespaceAttach 0x4313 0
    (fun d s => beField d 0 2 < 4096 ∧ (s.space (beField d 0 2)).defined = true
      ∧ beField d 2 2 < 4096 ∧ polderLive s (beField d 2 2) = true
      ∧ beField d 4 2 < (s.polder (beField d 2 2)).counts.namespaces
      ∧ ((s.space (beField d 0 2)).attach ≠ none ∨ boundNs s (beField d 2 2) (beField d 4 2) ≠ none)) 8 := by
  refine refuses_ok (fun _ _ => rfl) rfl fun q x hidx hsub ⟨hn, hd, hfn, hlive, hh, hused⟩ => ?_
  have hstate : ((x.space (beField q.msg.data 0 2)).attach.isSome
      || (boundNs x (beField q.msg.data 2 2) (beField q.msg.data 4 2)).isSome) = true := by
    simpa only [Bool.or_eq_true, Option.isSome_iff_ne_none] using hused
  dsimp only
  exact firstAbort_state (List.mem_append_right _ (by simp [hstate, abortIf]))

theorem servesDetach : ServesAction .namespaceDetach 0x4314 0
    (fun d s => beNat d < 4096 ∧ (s.space (beNat d)).defined = true) 0 (fun _ _ => [])
    (fun d s u => u.space (beNat d) = { s.space (beNat d) with attach := none }
      ∧ ∀ m, m ≠ beNat d → u.space m = s.space m) := by
  refine serves_ok (fun _ _ => rfl) rfl fun q x hidx hsub ⟨hn, hd⟩ =>
    ⟨nsAborts_nil hn hd, _, rfl, fun _ _ _ _ => ⟨?_, fun m hm => ?_⟩⟩
  · rw [jrn_mbxRespond_space]
    exact space_setSpace_defined hd
  · rw [jrn_mbxRespond_space]
    exact space_setSpace_other _ hm

theorem servesFormat : ServesAction .namespaceFormat 0x4316 0
    (fun d s => beNat d < 4096 ∧ (s.space (beNat d)).defined = true
      ∧ ((s.space (beNat d)).state = 1 ∨ (s.space (beNat d)).state = 2)
      ∧ (nsSlots (s.space (beNat d))).any (fun i => decide ((s.cart i).state = 4)) = false) 0 (fun _ _ => [])
    (fun d s u => u.space (beNat d) = { s.space (beNat d) with
        state := 5, formatBy := some (none, 0), progress := 0 }
      ∧ ∀ m, m ≠ beNat d → u.space m = s.space m) := by
  refine serves_ok (fun _ _ => rfl) rfl fun q x hidx hsub ⟨hn, hd, hst, hro⟩ =>
    ⟨?_, _, rfl, fun _ _ _ _ => ?_⟩
  · dsimp only
    rw [nsAborts_nil hn hd, hro]
    obtain h | h := hst <;> rw [h] <;> rfl
  · have hends := (ends_endStarted (fun k => decide (k = beNat q.msg.data)) stSANITIZING x).spaces
    have hspace := space_of_spaces hends.spaces
    refine ⟨?_, fun m hm => ?_⟩
    · rw [jrn_mbxRespond_space, formatStart]
      dsimp only
      rw [hspace]
      exact space_setSpace_defined hd
    · rw [jrn_mbxRespond_space]
      exact (space_setSpace_other _ hm).trans (hspace m)

end Actions

end Sys2Proof.Machine
end

section
/-! A namespace that is created, given its key, or deleted (spec 14 R473, R474, R503). -/

namespace Sys2Proof.Machine
open Sys2Proof

/-! ### Deletion (R503) -/

section Delete
variable {s : State} {n : Nat}

theorem mapKey_div {l : Nat} (h : l < 2 ^ 64) : mapKey n l / 2 ^ 64 = n := by
  rw [mapKey]
  omega

/-- One cache and cartridge without the blocks of some namespaces. -/
def cutBlocks (p : Nat → Bool) (i : Nat) (s : State) : State :=
  s.setCart i { s.cart i with
    dirty := (s.cart i).dirty.filter (fun u => !p u.ns)
    media := { (s.cart i).media with blocks := (s.cart i).media.blocks.filter (fun b => !p b.ns) } }

theorem clearBlocks_eq (p : Nat → Bool) (s : State) : clearBlocks p s =
    flushDone (cutBlocks p 1 (cutBlocks p 0 (modJrn (fun j => { j with map := j.map.filter (fun e => !p (e.1 / 2 ^ 64)) }) s))) :=
  rfl

theorem dirty_cutBlocks {p : Nat → Bool} {i : Nat} (hwf : Tab.wf CartSlot.reset s.jrn.slots = true) (k : Nat) :
    ((cutBlocks p i s).cart k).dirty
      = if k = i then (s.cart i).dirty.filter (fun u => !p u.ns) else (s.cart k).dirty := by
  split
  · next hk =>
    subst hk
    rw [cutBlocks, cart_setCart_wf hwf]
  · next hk => rw [cutBlocks, cart_setCart_other s _ hk]

theorem wf_cutBlocks {p : Nat → Bool} {i : Nat} (hwf : Tab.wf CartSlot.reset s.jrn.slots = true) :
    Tab.wf CartSlot.reset (cutBlocks p i s).jrn.slots = true := Tab.wf_set _ _ hwf

/-- After the blocks of some namespaces are cleared, the map has none of them and no cache holds one. -/
theorem clearBlocks_clears (p : Nat → Bool) (hwf : Tab.wf CartSlot.reset s.jrn.slots = true) :
    (clearBlocks p s).jrn.spaces = s.jrn.spaces
      ∧ (clearBlocks p s).jrn.map = s.jrn.map.filter (fun e => !p (e.1 / 2 ^ 64))
      ∧ ∀ i v, i < 2 → v ∈ ((clearBlocks p s).cart i).dirty → p v.ns = false := by
  rw [clearBlocks_eq]
  have hends := fun x => (ends_flushDone x).spaces
  generalize hx : modJrn (fun j => { j with map := j.map.filter (fun e => !p (e.1 / 2 ^ 64)) }) s = x
  have hxwf : Tab.wf CartSlot.reset x.jrn.slots = true := hx ▸ hwf
  have hdirty := ((hends (cutBlocks p 1 (cutBlocks p 0 x))).dirty (wf_cutBlocks (wf_cutBlocks hxwf))).2
  refine ⟨?_, ?_, fun i v hi hv => ?_⟩
  · rw [(hends _).spaces, ← hx]
    rfl
  · rw [(hends _).map, ← hx]
    rfl
  · simp only [hdirty, dirty_cutBlocks (wf_cutBlocks hxwf), dirty_cutBlocks hxwf] at hv
    have hmem : ∀ l : List JUnit, v ∈ l.filter (fun u => !p u.ns) → p v.ns = false := fun l h => by
      simpa using (List.mem_filter.1 h).2
    split at hv
    · split at hv <;> exact hmem _ hv
    · rw [if_pos (by omega)] at hv
      exact hmem _ hv

theorem map_setSpace (n : Nat) (x : Space) (s : State) : (s.setSpace n x).jrn.map = s.jrn.map := rfl

theorem cart_setSpace (n : Nat) (x : Space) (s : State) (i : Nat) : (s.setSpace n x).cart i = s.cart i := rfl

theorem wf_nsDropKey (h : Tab.wf Space.reset s.jrn.spaces = true) :
    Tab.wf Space.reset (nsDropKey n s).jrn.spaces = true := by
  unfold nsDropKey
  split
  · exact h
  · exact Tab.wf_set _ _ h

/-- A namespace that is deleted: its units, its key and its blocks go, then its record. -/
def deleted (n : Nat) (s : State) : State :=
  (clearBlocks (fun k => decide (k = n)) (nsDropKey n
    (forEach (s.jrn.units.filter (fun u => decide (u.ns = n))) (fun u st => dropJob u.job st) s))).setSpace n Space.reset

theorem deleted_gone (hspaces : Tab.wf Space.reset s.jrn.spaces = true) (hslots : Tab.wf CartSlot.reset s.jrn.slots = true) :
    (deleted n s).space n = Space.reset
      ∧ (∀ l, l < 2 ^ 64 → Tab.get Ver.zero (deleted n s).jrn.map (mapKey n l) = .zero)
      ∧ (∀ i v, i < 2 → v ∈ ((deleted n s).cart i).dirty → v.ns ≠ n) := by
  have hunits : Ends s (forEach (s.jrn.units.filter (fun u => decide (u.ns = n))) (fun u st => dropJob u.job st) s) :=
    .forEach (fun _ _ => ends_dropJob ..) _ s
  unfold deleted
  generalize forEach (s.jrn.units.filter (fun u => decide (u.ns = n))) (fun u st => dropJob u.job st) s = y at hunits
  have hwf : Tab.wf CartSlot.reset (nsDropKey n y).jrn.slots = true := by
    rw [(slotsStand_nsDropKey n y).slots]
    exact (hunits.spaces.dirty hslots).1
  obtain ⟨hs, hm, hd⟩ := clearBlocks_clears (fun k => decide (k = n)) hwf
  refine ⟨space_setSpace_wf ?_ _, fun l hl => ?_, fun i v hi hv => ?_⟩
  · rw [hs]
    exact wf_nsDropKey (by rw [hunits.spaces.spaces]; exact hspaces)
  · rw [map_setSpace, hm]
    exact Tab.get_filter_none _ _ _ fun _ => by simpa using mapKey_div hl
  · rw [cart_setSpace] at hv
    exact of_decide_eq_false (hd i v hi hv)

theorem servesDelete : ServesAction .namespaceDelete 0x4311 0
    (fun d s => beNat d < 4096 ∧ (s.space (beNat d)).defined = true ∧ (s.space (beNat d)).attach = none
      ∧ (s.space (beNat d)).state ≠ 6 ∧ Tab.wf Space.reset s.jrn.spaces = true
      ∧ Tab.wf CartSlot.reset s.jrn.slots = true) 0 (fun _ _ => [])
    (fun d _ u => u.space (beNat d) = Space.reset
      ∧ (∀ l, l < 2 ^ 64 → Tab.get Ver.zero u.jrn.map (mapKey (beNat d) l) = .zero)
      ∧ (∀ i v, i < 2 → v ∈ (u.cart i).dirty → v.ns ≠ beNat d)) := by
  refine serves_ok (fun _ _ => rfl) rfl fun q x hidx hsub ⟨hn, hd, ha, hst, hspaces, hslots⟩ =>
    ⟨?_, deleted (beNat q.msg.data) x, ?_, fun _ _ _ _ => ?_⟩
  · dsimp only
    rw [nsAborts_nil hn hd, ha]
    rfl
  · dsimp only
    rw [if_neg hst]
    rfl
  · obtain ⟨hspace, hmap, hdirty⟩ := deleted_gone (n := beNat q.msg.data) hspaces hslots
    refine ⟨by rw [jrn_mbxRespond_space, hspace], by rwa [mbxRespond_jrn], fun i v hi hv => ?_⟩
    rw [(slotsStand_mbxRespond ..).cart] at hv
    exact hdirty i v hi hv

theorem refusesDelete : RefusesAction .namespaceDelete 0x4311 0
    (fun d s => beNat d < 4096 ∧ (s.space (beNat d)).defined = true ∧ (s.space (beNat d)).attach ≠ none) 8 := by
  refine refuses_ok (fun _ _ => rfl) rfl fun q x hidx hsub ⟨hn, hd, ha⟩ => ?_
  dsimp only
  rw [nsAborts_nil hn hd, Option.isSome_iff_ne_none.2 ha]
  rfl

end Delete

/-! ### The key of a namespace (R474) -/

section Keys
variable {s u : State} {n g : Nat} {x : Blob}

theorem journalBlob_advance (t : Nat) (s : State) (b : Bytes) : journalBlob (advance t s) b = journalBlob s b := by
  simp only [journalBlob, openBlob, kekOf, freeLocalSlot, globalOf, slotEmpty, polder_advance, keySlot_advance,
    advance_boot]

theorem journalBlobBad_none {b : Bytes} (h : journalBlobBad s b = none) : ∃ x g, journalBlob s b = .ok (x, g) := by
  unfold journalBlobBad at h
  split at h
  · cases h
  · next p hp => exact ⟨p.1, p.2, hp⟩

theorem journalBlobBad_some {a : Nat} {b : Bytes} (h : journalBlobBad s b = some a) : journalBlob s b = .error a := by
  unfold journalBlobBad at h
  split at h
  · next a' ha =>
    cases h
    exact ha
  · cases h

theorem jrn_blobRefused_advance (t : Nat) (s : State) (b : Bytes) : (blobRefused (advance t s) b).jrn = s.jrn :=
  ((Frame.blobRefused (.of_all rfl) (Frame.refl [.counters] (advance t s)) b).jrn (by decide)).trans (advance_jrn s t)

/-- What a blob that is refused comes to, whatever is said of one that is good. -/
theorem refused_journalBlob {t a : Nat} {b m : Bytes} {Q : Blob → Nat → State → Prop} {z : State} (hz : z.jrn = s.jrn)
    (hbad : journalBlobBad (advance t s) b = some a) (u : State) (hu : Aborted u m a) (hj : u.jrn = z.jrn) :
    (∀ x g, journalBlob s b = .ok (x, g) → Q x g u)
      ∧ (∀ a', journalBlob s b = .error a' → Aborted u m a' ∧ u.jrn = s.jrn) := by
  have herr := journalBlobBad_some hbad
  rw [journalBlob_advance] at herr
  refine ⟨fun x g hx => ?_, fun a' ha => ?_⟩
  · cases herr.symm.trans hx
  · cases herr.symm.trans ha
    exact ⟨hu, hj.trans hz⟩

theorem journalBlob_alg {b : Bytes} (h : journalBlob s b = .ok (x, g)) : x.alg = 8 := by
  unfold journalBlob at h
  split at h
  · cases h
  · split at h
    · next hx =>
      split at h
      · cases h
      · split at h
        · cases h
          exact hx.1
        · cases h
    · cases h

theorem keySlot_nsTakeKey (halg : x.alg ≠ 0) : (nsTakeKey n g x s).keySlot g
    = { alg := x.alg, usage := x.usage, key := x.key, users := (s.keySlot g).users + 1 } := by
  have hload : (loadSlot g x (s.setSpace n { s.space n with keySlot := some g })).keySlot g
      = { alg := x.alg, usage := x.usage, key := x.key, users := (s.keySlot g).users } :=
    Tab.get_set_of_ne s.cipher.slots g fun h => halg (congrArg KeySlot.alg h)
  refine (Tab.get_set_of_ne (loadSlot g x (s.setSpace n { s.space n with keySlot := some g })).cipher.slots g fun h => ?_).trans ?_
  · exact Nat.succ_ne_zero _ (congrArg KeySlot.users h)
  · rw [hload]

theorem space_nsTakeKey (hd : (s.space n).defined = true) :
    (nsTakeKey n g x s).space n = { s.space n with keySlot := some g } := space_setSpace_defined hd

theorem settled_eq (s : State) (p : Space) : settled s p = { p with state := (settled s p).state } := by
  unfold settled
  split <;> rfl

/-- The record of a namespace that is created. -/
def newSpace (d : Bytes) (x : Blob) : Space :=
  { Space.reset with
    defined := true, placement := byteAt d 2, size := beField d 4 8, blob := slice d 12 88, keyCheck := keyCheckOf x.key }

/-- A namespace that is created, with its key in slot `g`. -/
def created (d : Bytes) (x : Blob) (g : Nat) (s : State) : State :=
  settleSpaces (nsTakeKey (beField d 0 2) g x (s.setSpace (beField d 0 2) (newSpace d x)))

theorem keySlot_settleSpaces (s : State) (g : Nat) : (settleSpaces s).keySlot g = s.keySlot g := rfl

theorem space_created (d : Bytes) : (created d x g s).space (beField d 0 2)
    = settled (nsTakeKey (beField d 0 2) g x (s.setSpace (beField d 0 2) (newSpace d x)))
        { newSpace d x with keySlot := some g } := by
  have hnew : (s.setSpace (beField d 0 2) (newSpace d x)).space (beField d 0 2) = newSpace d x := space_setSpace_defined rfl
  rw [created, space_settleSpaces, space_nsTakeKey (by rw [hnew]; rfl), hnew]

/-- A namespace on one cartridge that is online is there. -/
theorem liveState_online {p : Space} (hkey : p.keySlot.isNone = false) (hone : p.placement < 2)
    (hcart : (s.cart p.placement).state = 3) : liveState s p = 1 := by
  have hslots : nsSlots p = [p.placement] := if_neg (by omega)
  have hne : ¬ p.placement = 2 := by omega
  simp [liveState, hslots, hkey, hcart, cartServes, hne]

/-- An action with a blob: where the blob is good it completes, and otherwise the blob is counted and refused. -/
theorem runs_serve_blob {c : Instr} {mine : Nat → Nat → Bool} {own : Req → State → List Nat} {go : Handler}
    {blob : Req → Bytes} {bad : State → Bytes → Option Nat} {count : State → Bytes → State} {t idx sub ty : Nat} {f : Bool}
    {b data : Bytes} {P : State → Prop}
    (hx : exec c s = .next (serveAction mine own (blobOr blob bad count go) ⟨t, .mailbox, f⟩ s))
    (ha : Asks (advance t s) b idx sub) (hm : mine idx sub = true)
    (ho : own (mbxReq (advance t s) f b) (advance t s) = [])
    (hbad : ∀ a, bad (advance t s) (blob (mbxReq (advance t s) f b)) = some a →
      ∀ u, Aborted u b a → u.jrn = (count (advance t s) (blob (mbxReq (advance t s) f b))).jrn → P u)
    (hgood : bad (advance t s) (blob (mbxReq (advance t s) f b)) = none →
      ∃ y, go (mbxReq (advance t s) f b) (advance t s) = (y, .ok 0 0 ty data)
        ∧ ∀ u, Answered u b ty data → AnswersOnly y u → P u) : Runs c s P := by
  cases hb : bad (advance t s) (blob (mbxReq (advance t s) f b)) with
  | none =>
    obtain ⟨y, hy, hp⟩ := hgood hb
    refine ⟨_, hx.trans (congrArg _ (serve_ok ha hm ho (by rw [blobOr, hb]; exact hy))), ?_⟩
    exact hp _ (answered_mbxRespond b ty data y) (mbxRespond_only ..)
  | some a =>
    refine ⟨_, hx.trans (congrArg _ (serve_fails ha hm ho (by rw [blobOr, hb]))), ?_⟩
    exact hbad a hb _ (aborted_mbxRespond b a _) (mbxRespond_jrn ..)

theorem state_settled_new {d : Bytes} (hplace : byteAt d 2 < 2) (hcart : (s.cart (byteAt d 2)).state = 3) :
    (settled s { newSpace d x with keySlot := some g }).state = 1 := by
  have hnew : (newSpace d x).defined = true ∧ (newSpace d x).state ≠ 6 := ⟨rfl, (by decide : Space.reset.state ≠ 6)⟩
  have hlive := liveState_online (s := s) (p := { newSpace d x with keySlot := some g }) rfl hplace hcart
  have hplain : ¬((newSpace d x).formatBy.isSome = true ∧ (some g).isSome = true) := fun h => Bool.noConfusion h.1
  rw [settled, if_pos hnew]
  dsimp only
  rw [if_neg hplain, hlive]

section Create
variable {t : Nat} {f : Bool} {b d : Bytes} (hask : Asks (advance t s) b 0x4310 0) (hd : d = (parseMsg b 0).data)
  (hn : n = beField d 0 2) (hlt : n < 4096) (hplace : byteAt d 2 < 2) (hzero : byteAt d 3 = 0) (hsize : beField d 4 8 ≠ 0)
  (hmirror : mirroredMode s = false) (hfree : (s.space n).defined = false) (hcart : (s.cart (byteAt d 2)).state = 3)
  (hroom : beField d 4 8 + ((slotSpaces s (byteAt d 2)).map (·.2.size)).sum ≤ cartUsable (s.cart (byteAt d 2)))
include hask hd hn hlt hplace hzero hsize hmirror hfree hcart hroom

theorem runs_namespaceCreate : Runs (.namespaceCreate { t := t, src := .mailbox, flash := f }) s (fun u =>
      (∀ x g, journalBlob s (slice d 12 88) = .ok (x, g) → Answered u b 0 []
        ∧ (u.space n).defined = true ∧ (u.space n).placement = byteAt d 2 ∧ (u.space n).size = beField d 4 8
        ∧ (u.space n).state = 1 ∧ (u.space n).keySlot = some g ∧ (u.space n).attach = none
        ∧ (u.keySlot g).key = x.key ∧ (u.keySlot g).users = (s.keySlot g).users + 1)
      ∧ (∀ a, journalBlob s (slice d 12 88) = .error a → Aborted u b a ∧ u.jrn = s.jrn)) := by
  subst hd hn
  have hmir : mirroredMode (advance t s) = false := (mirroredMode_congr (by rw [advance_dict])).trans hmirror
  have hspaces : slotSpaces (advance t s) = slotSpaces s := by
    funext i
    rw [slotSpaces, advance_jrn]
    rfl
  refine runs_serve_blob (ty := 0) (data := []) rfl hask rfl ?_ (fun a hbad => ?_) (fun hgood => ?_)
  · have hsmall : ¬ 4095 < beField (parseMsg b 0).data 0 2 := by omega
    have hone : ¬ byteAt (parseMsg b 0).data 2 = 2 := by omega
    have hle : ¬ 2 < byteAt (parseMsg b 0).data 2 := by omega
    simp only [mbxReq, hmir, cart_advance, space_advance, hspaces, hfree]
    simp [abortIf, hsmall, hone, hle, hzero, hsize, hcart, Nat.not_lt.2 hroom]
  · exact refused_journalBlob (jrn_blobRefused_advance t s _) hbad
  · obtain ⟨x, g, hx⟩ := journalBlobBad_none hgood
    refine ⟨created (parseMsg b 0).data x g (advance t s), ?_, fun u hu honly => ⟨fun x' g' hx' => ?_, fun a ha => ?_⟩⟩
    · dsimp only
      rw [show journalBlob (advance t s) (slice (mbxReq (advance t s) f b).msg.data 12 88) = .ok (x, g) from hx]
      rfl
    · rw [journalBlob_advance] at hx
      obtain ⟨rfl, rfl⟩ : x = x' ∧ g = g' := by simpa using hx.symm.trans hx'
      have hstate : (settled (nsTakeKey (beField (parseMsg b 0).data 0 2) g x ((advance t s).setSpace
          (beField (parseMsg b 0).data 0 2) (newSpace (parseMsg b 0).data x)))
            { newSpace (parseMsg b 0).data x with keySlot := some g }).state = 1 := by
        refine state_settled_new hplace ?_
        rw [(slotsStand_nsTakeKey ..).cart]
        exact (congrArg CartSlot.state (cart_advance s t _)).trans hcart
      have hspace := (space_of_spaces (congrArg Journal.spaces (AnswersOnly.signals honly).jrn) _).trans
        (space_created (s := advance t s) (g := g) (x := x) (parseMsg b 0).data)
      have hkey : u.keySlot g = { alg := x.alg, usage := x.usage, key := x.key, users := (s.keySlot g).users + 1 } := by
        have hslots : u.keySlot g = (created (parseMsg b 0).data x g (advance t s)).keySlot g :=
          congrArg (fun c : Cipher => Tab.get KeySlot.reset c.slots g) (AnswersOnly.signals honly).cipher
        rw [hslots, created, keySlot_settleSpaces, keySlot_nsTakeKey (by rw [journalBlob_alg hx]; decide)]
        exact congrArg (fun k : KeySlot => { alg := x.alg, usage := x.usage, key := x.key, users := k.users + 1 : KeySlot })
          (keySlot_advance s t g)
      rw [settled_eq, hstate] at hspace
      rw [hspace, hkey]
      exact ⟨hu, rfl, rfl, rfl, rfl, rfl, rfl, rfl, rfl⟩
    · rw [journalBlob_advance] at hx
      cases hx.symm.trans ha

end Create

/-- A namespace whose key is given again, in slot `g`. -/
def keyed (n g : Nat) (x : Blob) (blob : Bytes) (s : State) : State :=
  settleSpaces (nsTakeKey n g x (s.setSpace n { s.space n with blob := blob }))

theorem keyed_loads {blob : Bytes} (hdef : (s.space n).defined = true) (halg : x.alg ≠ 0) :
    ((keyed n g x blob s).space n).keySlot = some g ∧ ((keyed n g x blob s).space n).blob = blob
      ∧ ((keyed n g x blob s).keySlot g).key = x.key := by
  have hset : (s.setSpace n { s.space n with blob := blob }).space n = { s.space n with blob := blob } :=
    space_setSpace_defined hdef
  have hspace : (keyed n g x blob s).space n = settled (nsTakeKey n g x (s.setSpace n { s.space n with blob := blob }))
      { s.space n with blob := blob, keySlot := some g } := by
    rw [keyed, space_settleSpaces, space_nsTakeKey (by rw [hset]; exact hdef), hset]
  rw [settled_eq] at hspace
  refine ⟨(congrArg Space.keySlot hspace :), (congrArg Space.blob hspace :), ?_⟩
  rw [keyed, keySlot_settleSpaces, keySlot_nsTakeKey halg]

section KeyLoad
variable {t : Nat} {f : Bool} {b d : Bytes} (hask : Asks (advance t s) b 0x4315 0) (hd : d = (parseMsg b 0).data)
  (hn : n = beField d 0 2) (hlt : n < 4096) (hdef : (s.space n).defined = true) (hkey : (s.space n).keySlot = none)
include hask hd hn hlt hdef hkey

theorem runs_namespaceKeyLoad : Runs (.namespaceKeyLoad { t := t, src := .mailbox, flash := f }) s (fun u =>
      (∀ x g, journalBlob s (slice d 2 88) = .ok (x, g) → keyCheckOf x.key = (s.space n).keyCheck → Answered u b 0 []
        ∧ (u.space n).keySlot = some g ∧ (u.space n).blob = slice d 2 88 ∧ (u.keySlot g).key = x.key)
      ∧ (∀ x g, journalBlob s (slice d 2 88) = .ok (x, g) → keyCheckOf x.key ≠ (s.space n).keyCheck →
          Aborted u b aRANGE ∧ u.jrn = s.jrn)
      ∧ (∀ a, journalBlob s (slice d 2 88) = .error a → Aborted u b a ∧ u.jrn = s.jrn)) := by
  subst hd hn
  have hdef' : ((advance t s).space (beField (parseMsg b 0).data 0 2)).defined = true := by rwa [space_advance]
  cases hj : journalBlob s (slice (parseMsg b 0).data 2 88) with
  | error e =>
    have hj' : journalBlob (advance t s) (slice (mbxReq (advance t s) f b).msg.data 2 88) = .error e :=
      (journalBlob_advance t s _).trans hj
    refine ⟨_, congrArg Host.Outcome.next (serve_fails (c := e)
      (s2 := blobRefused (advance t s) (slice (parseMsg b 0).data 2 88)) hask rfl ?_ ?_), fun _ _ h => ?_, fun _ _ h => ?_, fun a ha => ?_⟩
    · dsimp only
      rw [hj']
      exact (List.append_nil _).trans (nsAborts_nil hlt hdef')
    · rw [blobOr, journalBlobBad, hj']
      rfl
    · cases h
    · cases h
    · cases ha
      exact ⟨aborted_mbxRespond .., (mbxRespond_jrn ..).trans (jrn_blobRefused_advance t s _)⟩
  | ok p =>
    obtain ⟨x, g⟩ := p
    have hj' : journalBlob (advance t s) (slice (mbxReq (advance t s) f b).msg.data 2 88) = .ok (x, g) :=
      (journalBlob_advance t s _).trans hj
    by_cases hcheck : keyCheckOf x.key = (s.space (beField (parseMsg b 0).data 0 2)).keyCheck
    · have hcheck' : keyCheckOf x.key = ((advance t s).space (beField (parseMsg b 0).data 0 2)).keyCheck := by
        rwa [space_advance]
      have hdrop : nsDropKey (beField (parseMsg b 0).data 0 2) (advance t s) = advance t s := by
        rw [nsDropKey, space_advance, hkey]
      refine ⟨_, congrArg Host.Outcome.next (serve_ok (ty := 0) (data := [])
        (s2 := keyed (beField (parseMsg b 0).data 0 2) g x (slice (parseMsg b 0).data 2 88) (advance t s)) hask rfl ?_ ?_),
        fun x' g' h _ => ?_, fun _ _ h hne => ?_, fun _ h => ?_⟩
      · dsimp only
        rw [hj']
        have hsame : abortIf (decide (keyCheckOf x.key ≠ ((advance t s).space (beField (parseMsg b 0).data 0 2)).keyCheck))
            aRANGE = [] := by
          rw [abortIf_eq_nil, decide_eq_false_iff_not, not_not]
          exact hcheck'
        exact (congrArg (_ ++ ·) hsame).trans ((List.append_nil _).trans (nsAborts_nil hlt hdef'))
      · rw [blobOr, journalBlobBad, hj']
        dsimp only
        rw [hj']
        dsimp only
        rw [show nsDropKey (beField (mbxReq (advance t s) f b).msg.data 0 2) (advance t s) = advance t s from hdrop]
        rfl
      · obtain ⟨rfl, rfl⟩ : x = x' ∧ g = g' := by simpa using h
        obtain ⟨hslot, hblob, hkey'⟩ := keyed_loads (s := advance t s) (g := g) (x := x)
          (blob := slice (parseMsg b 0).data 2 88) hdef' (by rw [journalBlob_alg hj]; decide)
        refine ⟨answered_mbxRespond .., ?_, ?_, ?_⟩
        · rw [jrn_mbxRespond_space, hslot]
        · rw [jrn_mbxRespond_space, hblob]
        · rw [State.keySlot, mbxRespond_cipher]
          exact hkey'
      · cases h
        exact absurd hcheck hne
      · cases h
    · refine ⟨_, congrArg Host.Outcome.next (serve_abort (c := aRANGE) hask rfl ?_), fun _ _ h he => ?_, fun _ _ _ _ => ?_, fun _ h => ?_⟩
      · dsimp only
        rw [hj']
        have hdiff : decide (keyCheckOf x.key ≠ ((advance t s).space (beField (parseMsg b 0).data 0 2)).keyCheck) = true := by
          rw [space_advance]
          exact decide_eq_true hcheck
        exact (congrArg firstAbort (congrArg (· ++ _) (nsAborts_nil hlt hdef'))).trans (firstAbort_range hdiff)
      · cases h
        exact absurd he hcheck
      · exact ⟨aborted_mbxRespond .., (mbxRespond_jrn ..).trans (advance_jrn s t)⟩
      · cases h

end KeyLoad

end Keys

end Sys2Proof.Machine

namespace Sys2Proof
open Machine

/-- Settles O35: a key taken into a slot and a state that follows the cartridges leave the rest of a record; the ends of
commands leave the records, the map and what is dirty, so a deletion leaves nothing of its namespace. -/
theorem namespaces : Obligations.Namespaces :=
  ⟨fun _ _ _ _ _ _ hask _ hd hn hlt hplace hzero hsize hmirror hfree hcart hroom =>
      runs_namespaceCreate hask hd hn hlt hplace hzero hsize hmirror hfree hcart hroom,
    fun _ _ _ _ _ _ hask _ hd hn hlt hdef hkey _ => runs_namespaceKeyLoad hask hd hn hlt hdef hkey,
    servesNamespaceRead, servesDelete, refusesDelete, servesAttach, refusesAttach, servesDetach, servesFormat⟩

end Sys2Proof
end

section
/-! StoreAll, RestoreDefaults and the expiry of a token (spec 02 R57 to R62, R87). -/

namespace Sys2Proof.Machine
open Sys2Proof

/-! ### The store -/

section Store
variable {s : State}

theorem takesStore {mk : Rq → Instr} {k : Nat} {a : LongAct} {vals : State → Tab Bytes} (hm : at0 0x1120 k 0x1120 k = true)
    (hx : ∀ r s, exec (mk r) s = .next (serveAction (at0 0x1120 k) storeBusy
      (fun _ s => (storeBegin (vals s) s, .later a)) r s)) :
    TakesAction mk 0x1120 k (fun _ s => s.dict.storing = none) a (fun _ s u =>
      u.dict.storing = some (vals s) ∧ u.dict.storeStatus = 1 ∧ u.dict.vals = s.dict.vals
      ∧ u.boot.store = s.boot.store.set (otherCopy s.boot.store (·.valid) (·.counter)).1 StoreCopy.erased) := by
  refine takes_ok hx hm fun q x _ _ hok => ⟨?_, _, rfl, rfl, rfl, fun _ => ⟨rfl, rfl, rfl, rfl⟩⟩
  rw [storeBusy, hok]
  rfl

/-- The store as it ends, before its request is answered. -/
def storeEnded (good : Bool) (vals : Tab Bytes) (s : State) : State :=
  let s1 := modDict (fun d => { d with storing := none, storeStatus := if good then 0 else 2 }) s
  let r := otherCopy s.boot.store (·.valid) (·.counter)
  if good then modBoot (fun b => { b with store := b.store.set r.1 (StoreCopy.make r.2 vals) }) s1 else raise 1 s1

theorem storeEnd_eq {ok : Bool} {vals : Tab Bytes} (h : s.dict.storing = some vals) {good : Bool}
    (hgood : (ok && decide ((storePayload vals).length ≤ 1048576)) = good) :
    storeEnd ok s = answerAct .restoreDefaults (if good then none else some aPERSIST_FAIL)
      (answerAct .storeAll (if good then none else some aPERSIST_FAIL) (storeEnded good vals s)) := by
  simp only [storeEnd, h, hgood]
  rfl

theorem boot_answerAct (a : LongAct) (abort : Option Nat) (s : State) : (answerAct a abort s).boot = s.boot := by
  rcases replies_answerAct a abort s with h | ⟨h, -⟩
  · exact h.frame.boot (by decide)
  · rw [h]

theorem storing_answerAct (a : LongAct) (abort : Option Nat) (s : State) :
    (answerAct a abort s).dict.storing = s.dict.storing ∧ (answerAct a abort s).dict.storeStatus = s.dict.storeStatus
      ∧ (answerAct a abort s).dict.vals = s.dict.vals := by
  rcases replies_answerAct a abort s with h | ⟨h, -⟩
  · exact ⟨h.storing, h.storeStatus, h.vals⟩
  · rw [h]
    exact ⟨rfl, rfl, rfl⟩

theorem answerAct_none {a : LongAct} {abort : Option Nat} (h : ∀ p ∈ s.dict.acts, p.act ≠ a) : answerAct a abort s = s := by
  have hnone : s.dict.acts.find? (fun p => decide (p.act = a)) = none := by simpa using h
  simp only [answerAct, hnone]

/-- What the mailbox holds after the only action that runs ends. -/
theorem mbx_answerAct {p : PendAct} (hacts : s.dict.acts = [p]) (hsession : p.req.session = 0) (abort : Option Nat) :
    (answerAct p.act abort s).mbx.busy = false ∧ (answerAct p.act abort s).mbx.done = true
      ∧ (answerAct p.act abort s).mbx.rsp = wordsOf (buildMsg (if abort.isSome then 3 else 1) p.req.kind 28 0 p.req.reqId
          (answerAct p.act abort s).dict.epoch 0 p.req.index p.req.sub 0 (abort.getD 0) 0 [])
      ∧ (answerAct p.act abort s).dict.acts = [] := by
  have hcopies : ∀ flags pa (l : List Nat) (y : State), l.foldl (fun st _ => answerCopy p.req flags pa st) y = y :=
    fun flags pa l y => foldl_keeps (fun x => x) (fun x _ => by rw [answerCopy, if_pos (.inl hsession)]) l y
  have hfind : s.dict.acts.find? (fun x => decide (x.act = p.act)) = some p := by simp [hacts]
  have hall : modDict (fun d => { d with acts := d.acts.filter (fun x => decide (x.act ≠ p.act)) }) s
      = modDict (fun d => { d with acts := [] }) s := by simp [modDict, hacts]
  have hone : answerAct p.act abort s = mbxRespond (if abort.isSome then 3 else 1) p.req.kind p.req.reqId p.req.index
      p.req.sub 0 (abort.getD 0) 0 [] (modDict (fun d => { d with acts := [] }) s) := by
    simp only [answerAct, hfind, hcopies, answer, hsession, hall, ↓reduceIte, flagAbort, flagResponse]
  rw [hone, mbxRespond_mbx, mbxRespond_dict, List.length_nil, Nat.add_zero]
  refine ⟨rfl, rfl, ?_, rfl⟩
  dsimp only

section Complete
variable {vals : Tab Bytes}

/-- The actions that waited for the store, when it has ended. -/
theorem acts_storeEnd (abort : Option Nat) (p : PendAct) :
    p ∈ (answerAct .restoreDefaults abort (answerAct .storeAll abort s)).dict.acts
      ↔ p ∈ s.dict.acts ∧ p.act ≠ .storeAll ∧ p.act ≠ .restoreDefaults := by
  rw [acts_answerAct, acts_answerAct, and_assoc]

theorem boot_storeEnd (abort : Option Nat) :
    (answerAct .restoreDefaults abort (answerAct .storeAll abort s)).boot = s.boot := by
  rw [boot_answerAct, boot_answerAct]

theorem storing_storeEnd (abort : Option Nat) :
    (answerAct .restoreDefaults abort (answerAct .storeAll abort s)).dict.storing = s.dict.storing
      ∧ (answerAct .restoreDefaults abort (answerAct .storeAll abort s)).dict.storeStatus = s.dict.storeStatus
      ∧ (answerAct .restoreDefaults abort (answerAct .storeAll abort s)).dict.vals = s.dict.vals := by
  obtain ⟨h1, h2, h3⟩ := storing_answerAct .restoreDefaults abort (answerAct .storeAll abort s)
  obtain ⟨g1, g2, g3⟩ := storing_answerAct .storeAll abort s
  exact ⟨h1.trans g1, h2.trans g2, h3.trans g3⟩

theorem mbx_storeEnd {p : PendAct} (hacts : s.dict.acts = [p]) (hact : p.act = .storeAll ∨ p.act = .restoreDefaults)
    (hsession : p.req.session = 0) (abort : Option Nat) :
    let u := answerAct .restoreDefaults abort (answerAct .storeAll abort s)
    u.mbx.busy = false ∧ u.mbx.done = true
      ∧ u.mbx.rsp = wordsOf (buildMsg (if abort.isSome then 3 else 1) p.req.kind 28 0 p.req.reqId u.dict.epoch 0
          p.req.index p.req.sub 0 (abort.getD 0) 0 []) := by
  obtain ⟨hbusy, hdone, hrsp, hnone⟩ := mbx_answerAct hacts hsession abort
  obtain h | h := hact
  · rw [h] at hbusy hdone hrsp hnone
    rw [answerAct_none (a := .restoreDefaults) (by rw [hnone]; simp)]
    exact ⟨hbusy, hdone, hrsp⟩
  · rw [answerAct_none (a := .storeAll) (by rw [hacts]; simp [h])]
    rw [h] at hbusy hdone hrsp
    exact ⟨hbusy, hdone, hrsp⟩

theorem storeEnded_acts (good : Bool) : (storeEnded good vals s).dict.acts = s.dict.acts := by
  cases good
  · exact (congrArg Dict.acts (signals_raise 1 _).dict :)
  · rfl

theorem runs_storeAllComplete (t : Nat) (hstoring : s.dict.storing = some vals)
    (hfits : (storePayload vals).length ≤ 1048576) :
    Runs (.storeAllComplete t true) s (fun u => u.dict.storing = none ∧ u.dict.storeStatus = 0
      ∧ u.boot.store = s.boot.store.set (otherCopy s.boot.store (·.valid) (·.counter)).1
          (StoreCopy.make (otherCopy s.boot.store (·.valid) (·.counter)).2 vals)
      ∧ u.dict.vals = s.dict.vals
      ∧ (∀ p, p ∈ u.dict.acts ↔ p ∈ s.dict.acts ∧ p.act ≠ .storeAll ∧ p.act ≠ .restoreDefaults)
      ∧ (∀ p, s.dict.acts = [p] → p.act = .storeAll → p.req.session = 0 → u.mbx.busy = false ∧ u.mbx.done = true
          ∧ u.mbx.rsp = wordsOf (buildMsg 1 p.req.kind 28 0 p.req.reqId u.dict.epoch 0 p.req.index p.req.sub 0 0 0 []))) := by
  refine ⟨_, congrArg Host.Outcome.next (storeEnd_eq (good := true) (vals := vals) (by rwa [advance_dict]) (by simpa using hfits)), ?_⟩
  obtain ⟨hs, hst, hv⟩ := storing_storeEnd (s := storeEnded true vals (advance t s)) none
  have hboot := boot_storeEnd (s := storeEnded true vals (advance t s)) none
  have hacts : (storeEnded true vals (advance t s)).dict.acts = s.dict.acts := (storeEnded_acts true).trans (by rw [advance_dict])
  refine ⟨hs, hst, ?_, hv.trans (congrArg Dict.vals (advance_dict s t) : (advance t s).dict.vals = s.dict.vals), fun p => ?_, fun p hp hact hsession =>
    mbx_storeEnd (hacts.trans hp) (.inl hact) hsession none⟩
  · have hstore := (congrArg Boot.store hboot :)
    rw [← advance_boot s t]
    exact hstore
  · rw [← hacts]
    exact acts_storeEnd none p

theorem runs_storeAllComplete_fails (t : Nat) {ok : Bool} (hstoring : s.dict.storing = some vals)
    (hfails : ok = false ∨ 1048576 < (storePayload vals).length) :
    Runs (.storeAllComplete t ok) s (fun u => u.dict.storing = none ∧ u.dict.storeStatus = 2 ∧ u.boot = s.boot
      ∧ (evtStat u 0).testBit 1 = true
      ∧ (∀ p, s.dict.acts = [p] → p.act = .restoreDefaults → p.req.session = 0 → u.mbx.busy = false ∧ u.mbx.done = true
          ∧ u.mbx.rsp = wordsOf (buildMsg 3 p.req.kind 28 0 p.req.reqId u.dict.epoch 0 p.req.index p.req.sub 0 0xB 0 []))) := by
  have hgood : (ok && decide ((storePayload vals).length ≤ 1048576)) = false := by
    obtain rfl | h := hfails
    · rfl
    · simp [Nat.not_le.2 h]
  refine ⟨_, congrArg Host.Outcome.next (storeEnd_eq (vals := vals) (by rwa [advance_dict]) hgood), ?_⟩
  obtain ⟨hs, hst, -⟩ := storing_storeEnd (s := storeEnded false vals (advance t s)) (some aPERSIST_FAIL)
  have hboot := boot_storeEnd (s := storeEnded false vals (advance t s)) (some aPERSIST_FAIL)
  have hacts : (storeEnded false vals (advance t s)).dict.acts = s.dict.acts :=
    (storeEnded_acts false).trans (by rw [advance_dict])
  have hraise : storeEnded false vals (advance t s)
      = raise 1 (modDict (fun d => { d with storing := none, storeStatus := 2 }) (advance t s)) := rfl
  refine ⟨hs.trans ?_, hst.trans ?_, hboot.trans ?_, ?_, fun p hp hact hsession =>
    mbx_storeEnd (hacts.trans hp) (.inr hact) hsession (some aPERSIST_FAIL)⟩
  · rw [hraise, (signals_raise ..).dict]
    rfl
  · rw [hraise, (signals_raise ..).dict]
    rfl
  · rw [hraise, (signals_raise ..).boot]
    exact advance_boot s t
  · exact (statGrows_answerAct ..).1 0 1 ((statGrows_answerAct ..).1 0 1 (raise_sets (n := 1) (by decide) _))

end Complete

end Store

/-! ### Tokens -/

section Token
variable {s : State} {n : Nat}

theorem tokenOf_advance (t n : Nat) (s : State) : tokenOf (advance t s) n = tokenOf s n := by
  simp only [tokenOf, advance_dict, session_advance]

/-- The token of a requester is gone. -/
def tokenDropped (n : Nat) (s : State) : State :=
  if n = 0 then modDict (fun d => { d with mbxVendor := none }) s
  else s.setSession n { s.session n with vendorUntil := none }

theorem tokenOf_dropped (hwf : Tab.wf Session.reset s.dict.sessions = true) :
    tokenOf (tokenDropped n s) n = none ∧ ∀ j, j ≠ n → tokenOf (tokenDropped n s) j = tokenOf s j := by
  unfold tokenDropped
  by_cases h0 : n = 0
  · rw [if_pos h0, tokenOf, if_pos h0]
    refine ⟨rfl, fun j hj => ?_⟩
    rw [tokenOf, tokenOf, if_neg (h0 ▸ hj), if_neg (h0 ▸ hj)]
    rfl
  · rw [if_neg h0, tokenOf, if_neg h0, session_setSession hwf]
    refine ⟨rfl, fun j hj => ?_⟩
    have hother : (s.setSession n { s.session n with vendorUntil := none }).session j = s.session j :=
      Tab.get_set_other _ _ hj.symm
    simp only [tokenOf, hother]
    rfl

theorem tokenExpiry_eq {e : Nat} (h : tokenOf s n = some e) :
    tokenExpiry n s = if timeNow s < e then s else tokenDropped n s := by
  simp only [tokenExpiry, h]
  rfl

theorem runs_tokenExpiry (t : Nat) (hwf : Tab.wf Session.reset s.dict.sessions = true) :
    (∀ e, tokenOf s n = some e → e ≤ timeNow (advance t s) → Runs (.tokenExpiry t n) s (fun u => tokenOf u n = none
      ∧ (∀ j, j ≠ n → tokenOf u j = tokenOf s j)))
    ∧ (∀ e, tokenOf s n = some e → timeNow (advance t s) < e → Runs (.tokenExpiry t n) s (fun u => u = advance t s))
    ∧ (tokenOf s n = none → Runs (.tokenExpiry t n) s (fun u => u = advance t s)) := by
  refine ⟨fun e he hdue => ?_, fun e he hearly => ?_, fun hnone => ?_⟩
  · have hrun := (tokenExpiry_eq ((tokenOf_advance t n s).trans he)).trans (if_neg (Nat.not_lt.2 hdue))
    obtain ⟨hgone, hothers⟩ := tokenOf_dropped (s := advance t s) (n := n) (by rwa [advance_dict])
    exact ⟨_, congrArg Host.Outcome.next hrun, hgone, fun j hj => (hothers j hj).trans (tokenOf_advance t j s)⟩
  · exact ⟨_, congrArg Host.Outcome.next ((tokenExpiry_eq ((tokenOf_advance t n s).trans he)).trans (if_pos hearly)), rfl⟩
  · refine ⟨_, rfl, ?_⟩
    rw [tokenExpiry, tokenOf_advance, hnone]

end Token

end Sys2Proof.Machine
end

section
/-! Values with a write command of their own: service tokens, session keys and the Dike's windows (spec 02 R87, R88, R94,
12 R415, 15 R531). -/

namespace Sys2Proof.Machine
open Sys2Proof

/-! ### WRITE by its checks -/

section WriteOne
variable {q : Req} {s : State} {r : ObjRow} (hd : objDesc q.msg.index q.msg.sub = some r)
include hd

theorem writeOne_ok (ha : writeAccess q r = []) (hty : q.msg.ty = r.ty) (hv : valueAborts q s r q.msg.data = [])
    (hkey : (if isKeyBlob q.msg.index q.msg.sub then keyBlobBad s q.msg.data else none) = none) :
    writeOne q s = (writeNow q q.msg.data s, .ok 0 0 0 []) := by
  simp only [writeOne, hd, ha, hty, hv, hkey, ne_eq, not_true_eq_false, decide_false]
  rfl

theorem writeOne_badKey (ha : writeAccess q r = []) (hty : q.msg.ty = r.ty) (hv : valueAborts q s r q.msg.data = []) {a : Nat}
    (hkey : (if isKeyBlob q.msg.index q.msg.sub then keyBlobBad s q.msg.data else none) = some a) :
    writeOne q s = (blobRefused s q.msg.data, .abort a) := by
  simp only [writeOne, hd, ha, hty, hv, hkey, ne_eq, not_true_eq_false, decide_false]
  rfl

theorem writeOne_abort {a : Nat}
    (h : firstAbort (writeAccess q r ++ abortIf (q.msg.ty ≠ r.ty) aTYPE ++ valueAborts q s r q.msg.data) = some a) :
    writeOne q s = (s, .abort a) := by
  simp only [writeOne, hd, h]

end WriteOne

/-! ### WRITE through the mailbox -/

section Mailbox
variable {mk : Rq → Instr} {mine : Msg → Bool} {t : Nat} {f : Bool} {b : Bytes} {s x : State}
  (hx : ∀ r x, exec (mk r) x = .next (notifyChanges (fdpServe mine writeOne writePost r x)))
  (hm : MbxHolds s b 2) (hmine : mine (parseMsg b 0) = true) (hq : NoOnChange x)
include hx hm hmine hq

theorem runs_write_ok (hh : writeOne (mbxReq (advance t s) f b) (advance t s) = (x, .ok 0 0 0 [])) :
    Runs (mk ⟨t, .mailbox, f⟩) s (fun u => Answered u b 0 [] ∧ AnswersOnly x u) := by
  refine ⟨notifyChanges (mbxServe mine writeOne f (advance t s)), hx _ _, ?_⟩
  rw [mbxServe_ok (mbxHolds_advance t hm) hmine hh, notifyChanges_quiet (by rwa [NoOnChange, mbxRespond_dict])]
  exact ⟨answered_mbxRespond .., mbxRespond_only ..⟩

theorem runs_write_abort {c : Nat} (hh : writeOne (mbxReq (advance t s) f b) (advance t s) = (x, .abort c)) :
    Runs (mk ⟨t, .mailbox, f⟩) s (fun u => Aborted u b c ∧ AnswersOnly x u) := by
  refine ⟨notifyChanges (mbxServe mine writeOne f (advance t s)), hx _ _, ?_⟩
  rw [mbxServe_abort (mbxHolds_advance t hm) hmine hh, notifyChanges_quiet (by rwa [NoOnChange, mbxRespond_dict])]
  exact ⟨aborted_mbxRespond .., mbxRespond_only ..⟩

end Mailbox

theorem mbxRole_ge (s : State) (f : Bool) (b : Bytes) : 3 ≤ (mbxReq s f b).role := by
  show 3 ≤ roleNow s 3 s.dict.mbxVendor
  unfold roleNow
  split
  · split <;> decide
  · decide

/-! ### A service token (R87) -/

section Token
variable {t : Nat} {f : Bool} {b : Bytes} {s : State} {m : Msg}

/-- The row of the token. -/
def tokenRow : ObjRow := ⟨0x1140, 0x1140, 0x01, 0x01, 9, 1344, 0, .wo, 0, 3, 0, 0, []⟩

theorem objDesc_tokenRow (hidx : m.index = 0x1140) (hsub : m.sub = 1) : objDesc m.index m.sub = some tokenRow := by
  rw [hidx, hsub]
  rfl

variable (hmsg : m = parseMsg b 0) (hm : MbxHolds s b 2) (hq : NoOnChange s) (hidx : m.index = 0x1140) (hsub : m.sub = 1)
include hmsg hidx hsub

include hm in
theorem serviceToken_mine : (kindIs 2 (parseMsg b 0) && decide ((parseMsg b 0).index = 0x1140 ∧ (parseMsg b 0).sub = 1)) = true := by
  subst hmsg
  rw [kindIs_of_holds hm, hidx, hsub]
  rfl

theorem tokenAborts (hdata : m.data.length = 1344) (hset : s.time.state ≠ tsUNSET) :
    valueAborts (mbxReq (advance t s) f b) (advance t s) tokenRow m.data = abortIf (tokenBad (advance t s) 0 m.data) aAUTH := by
  subst hmsg
  have hstate : stateAborts (advance t s) 0x1140 1 = false := decide_eq_false (by rwa [advance_time_state])
  have hrange : inRange 0x1140 1 tokenRow (parseMsg b 0).data = true := by
    rw [inRange, tokenRow]
    exact Bool.and_true _
  have henc : encodes tokenRow.ty tokenRow.len (parseMsg b 0).data = true := by
    simp [encodes, tokenRow, hdata]
  simp only [valueAborts, mbxReq, hidx, hsub, hstate, hrange, henc]
  exact List.nil_append _

include hm hq

theorem runs_serviceToken (hty : m.ty = 9) (hdata : m.data.length = 1344) (hset : s.time.state ≠ tsUNSET) :
    Runs (.serviceToken ⟨t, .mailbox, f⟩) s (fun u =>
      (tokenBad (advance t s) 0 m.data = false → Answered u b 0 []
        ∧ u.dict.mbxVendor = some (ofTime96 (slice m.data 32 12))
        ∧ u.dict.nonces = s.dict.nonces ++ [slice m.data 44 20])
      ∧ (tokenBad (advance t s) 0 m.data = true → Aborted u b 0xA ∧ AnswersOnly (advance t s) u)) := by
  have hd := objDesc_tokenRow hidx hsub
  have hmine := serviceToken_mine hmsg hm hidx hsub
  have hvals := tokenAborts (t := t) (f := f) hmsg hidx hsub hdata hset
  subst hmsg
  have ha : writeAccess (mbxReq (advance t s) f b) tokenRow = [] :=
    writeAccess_nil (by decide) (by decide) (mbxRole_ge ..) rfl
  cases hbad : tokenBad (advance t s) 0 (parseMsg b 0).data with
  | false =>
    have htake : writeOne (mbxReq (advance t s) f b) (advance t s) = (takeToken 0 (parseMsg b 0).data (advance t s), .ok 0 0 0 []) := by
      rw [writeOne_ok hd ha hty (hvals.trans (by rw [hbad]; rfl)) (by simp [mbxReq, hidx, isKeyBlob])]
      simp [writeNow, afterResponse, mbxReq, writeValue, hidx]
    refine runs_mono (fun u ⟨hu, honly⟩ => ⟨fun _ => ⟨hu, ?_, ?_⟩, fun h => Bool.noConfusion h⟩)
      (runs_write_ok (x := takeToken 0 (parseMsg b 0).data (advance t s)) (fun _ _ => rfl) hm hmine
        (noOnChange_of_subs (s := advance t s) (fun _ h => h) (noOnChange_advance hq)) htake)
    · rw [answersOnly_dict honly]
      rfl
    · rw [answersOnly_dict honly, ← advance_dict s t]
      rfl
  | true =>
    have hrefuse : writeOne (mbxReq (advance t s) f b) (advance t s) = (advance t s, .abort 0xA) := by
      refine writeOne_abort hd ?_
      have hty' : abortIf (decide ((parseMsg b 0).ty ≠ tokenRow.ty)) aTYPE = [] := by rw [hty]; rfl
      have hvals' : valueAborts (mbxReq (advance t s) f b) (advance t s) tokenRow (mbxReq (advance t s) f b).msg.data
          = abortIf true aAUTH := by rw [← hbad]; exact hvals
      rw [ha, hvals']
      exact (congrArg (fun l => firstAbort ([] ++ l ++ abortIf true aAUTH)) hty').trans (by decide)
    exact runs_mono (fun u hu => ⟨fun h => Bool.noConfusion h, fun _ => hu⟩)
      (runs_write_abort (fun _ _ => rfl) hm hmine (noOnChange_advance hq) hrefuse)

theorem runs_serviceToken_unset (hset : s.time.state = tsUNSET) :
    Runs (.serviceToken ⟨t, .mailbox, f⟩) s (fun u => Aborted u b 8 ∧ AnswersOnly (advance t s) u) := by
  have hd := objDesc_tokenRow hidx hsub
  have hmine := serviceToken_mine hmsg hm hidx hsub
  subst hmsg
  have hstate : stateAborts (advance t s) 0x1140 1 = true := by simp [stateAborts, hset]
  refine runs_write_abort (fun _ _ => rfl) hm hmine (noOnChange_advance hq) (writeOne_abort hd (firstAbort_state ?_))
  refine List.mem_append_right _ (state_mem_valueAborts _ (by decide) (by decide) ?_)
  simp only [mbxReq, hidx, hsub, hstate]

end Token

/-! ### The Dike's windows (15 R531) -/

section Windows
variable {t : Nat} {f : Bool} {b : Bytes} {s : State} {m : Msg}

/-- The row of the windows. -/
def windowsRow : ObjRow := ⟨0x1440, 0x1440, 0x00, 0x00, 9, 256, 0, .rw, 3, 3, 0, 0, zeros 256⟩

theorem objDesc_windowsRow (hidx : m.index = 0x1440) (hsub : m.sub = 0) : objDesc m.index m.sub = some windowsRow := by
  rw [hidx, hsub]
  rfl

theorem runs_dmaWindows (hmsg : m = parseMsg b 0) (hm : MbxHolds s b 2) (hq : NoOnChange s) (hidx : m.index = 0x1440)
    (hsub : m.sub = 0) (hty : m.ty = 9) (hdata : m.data.length = 256) :
    Runs (.dikeDmaWindows ⟨t, .mailbox, f⟩) s (fun u => Answered u b 0 [] ∧ u.boot.dmaWindows = m.data) := by
  have hd := objDesc_windowsRow hidx hsub
  subst hmsg
  have hmine : (kindIs 2 (parseMsg b 0) && decide ((parseMsg b 0).index = 0x1440)) = true := by
    rw [kindIs_of_holds hm, hidx]
    rfl
  have ha : writeAccess (mbxReq (advance t s) f b) windowsRow = [] :=
    writeAccess_nil (by decide) (by decide) (mbxRole_ge ..) rfl
  have hvals : valueAborts (mbxReq (advance t s) f b) (advance t s) windowsRow (parseMsg b 0).data = [] := by
    have hrange : inRange 0x1440 0 windowsRow (parseMsg b 0).data = true := by
      rw [inRange, windowsRow]
      exact Bool.and_true _
    have henc : encodes windowsRow.ty windowsRow.len (parseMsg b 0).data = true := by
      simp [encodes, windowsRow, hdata]
    simp only [valueAborts, mbxReq, hidx, hsub, hrange, henc]
    rfl
  have htake : writeOne (mbxReq (advance t s) f b) (advance t s)
      = (setDmaWindows (parseMsg b 0).data (mbxReq (advance t s) f b) (advance t s), .ok 0 0 0 []) := by
    rw [writeOne_ok hd ha hty hvals (by simp [mbxReq, hidx, isKeyBlob])]
    simp [writeNow, afterResponse, mbxReq, writeValue, hidx]
  have hlog := logs_dikeLog (mbxReq (advance t s) f b).origin 7 9 0
    (modBoot (fun x => { x with dmaWindows := (parseMsg b 0).data }) (advance t s))
  have hquiet : NoOnChange (setDmaWindows (parseMsg b 0).data (mbxReq (advance t s) f b) (advance t s)) :=
    noOnChange_of_subs (s := advance t s)
      (fun _ h => (congrArg (fun x : State => x.dict.subs) hlog.rest :).subst (motive := fun l => _ ∈ l) h)
      (noOnChange_advance hq)
  refine runs_mono (fun u ⟨hu, honly⟩ => ⟨hu, ?_⟩) (runs_write_ok (fun _ _ => rfl) hm hmine hquiet htake)
  rw [congrArg State.boot (AnswersOnly.signals honly).rest]
  exact (congrArg (fun x : State => x.boot.dmaWindows) hlog.rest :)

end Windows

end Sys2Proof.Machine
end

section
/-! A session's key: the slot it takes, what it leaves, and KeyBlob through the mailbox (spec 02 R88, 12 R415). -/

namespace Sys2Proof.Machine
open Sys2Proof

/-! ### The slot of a session -/

section Reads
variable (t : Nat) (s : State)

theorem sessionBlob_advance (v : Bytes) : sessionBlob (advance t s) v = sessionBlob s v := by
  simp only [sessionBlob, openBlob, kekOf, polder_advance, advance_boot]

theorem freeLocalSlot_advance (fn : Nat) : freeLocalSlot (advance t s) fn = freeLocalSlot s fn := by
  simp only [freeLocalSlot, globalOf, slotEmpty, polder_advance, keySlot_advance]

theorem globalOf_advance (fn k l : Nat) : globalOf (advance t s) fn k l = globalOf s fn k l := by
  simp only [globalOf, polder_advance]

end Reads

section Congr
variable {s u : State}

/-- What a key blob is judged by: the device's areas, the polders and the slots. -/
theorem sessionBlob_congr (hboot : u.boot.areaId = s.boot.areaId) (hp : u.polders = s.polders) (v : Bytes) :
    sessionBlob u v = sessionBlob s v := by
  simp only [sessionBlob, openBlob, kekOf, State.polder, hboot, hp]

theorem freeLocalSlot_congr (hc : u.cipher = s.cipher) (hp : u.polders = s.polders) (fn : Nat) :
    freeLocalSlot u fn = freeLocalSlot s fn := by
  have hslot : slotEmpty u = slotEmpty s := by
    funext g
    exact decide_eq_decide.2 (by simp only [State.keySlot, hc])
  simp only [freeLocalSlot, globalOf, State.polder, hslot, hp]

theorem globalOf_congr (hp : u.polders = s.polders) (fn k l : Nat) : globalOf u fn k l = globalOf s fn k l := by
  simp only [globalOf, State.polder, hp]

end Congr

section Loaded
variable {n g l : Nat} {x : Blob} {v : Bytes} {s u : State}

/-- Session `n` has the key of `x` in slot `g`, and starts its numbers again. -/
structure Rekeyed (n g : Nat) (x : Blob) (s u : State) : Prop where
  session : u.session n = { s.session n with
    keySlot := some g, setAside := false, rxHigh := 0, rxMap := 0, tx := 0, exhausted := false }
  others : ∀ j, j ≠ n → u.session j = s.session j
  slot : u.keySlot g = { alg := x.alg, usage := x.usage, key := x.key, users := (s.keySlot g).users + 1 }
  left : ∀ h, (s.session n).keySlot = some h → u.keySlot h = KeySlot.reset
  subs : u.dict.subs = s.dict.subs.filter (fun y => decide (y.session ≠ n))
  out : u.out = s.out
  outbox : u.dict.outbox = s.dict.outbox

theorem addUser_loadSlot_same (hwf : Tab.wf KeySlot.reset s.cipher.slots = true) :
    (addUser g (loadSlot g x s)).keySlot g
      = { alg := x.alg, usage := x.usage, key := x.key, users := (s.keySlot g).users + 1 } := by
  have hload : (loadSlot g x s).keySlot g
      = { alg := x.alg, usage := x.usage, key := x.key, users := (s.keySlot g).users } :=
    keySlot_setKeySlot_same hwf g _
  have hwf' : Tab.wf KeySlot.reset (loadSlot g x s).cipher.slots = true := Tab.wf_set (d := KeySlot.reset) g _ hwf
  exact (keySlot_setKeySlot_same hwf' g _).trans (by rw [hload])

theorem rekeyed_of_clear {y : State} (hwf : Tab.wf KeySlot.reset y.cipher.slots = true)
    (hsess : Tab.wf Session.reset y.dict.sessions = true) (hne : (y.session n).keySlot ≠ some g) :
    Rekeyed n g x y (sessionRekeyed n g (clearSessionKey n (addUser g (loadSlot g x y)))) := by
  have hslot := addUser_loadSlot_same (g := g) (x := x) hwf
  have hwf' : Tab.wf KeySlot.reset (addUser g (loadSlot g x y)).cipher.slots = true :=
    Tab.wf_set (d := KeySlot.reset) g _ (Tab.wf_set (d := KeySlot.reset) g _ hwf)
  generalize hz : addUser g (loadSlot g x y) = z at hslot hwf'
  have hzd : z.dict = y.dict := by rw [← hz]; rfl
  have hcd : (clearSessionKey n z).dict = y.dict := by
    unfold clearSessionKey
    split <;> exact hzd
  have hsessions (j : Nat) : (clearSessionKey n z).session j = y.session j := session_congr (congrArg _ hcd) j
  have hco : (clearSessionKey n z).out = y.out := by
    rw [← hz]
    unfold clearSessionKey
    split <;> rfl
  refine ⟨?_, fun j hj => ?_, ?_, fun h hh => ?_, ?_, hco, (congrArg Dict.outbox hcd :)⟩
  · have hset := session_setSession (s := clearSessionKey n z) (by rwa [hcd]) n { (clearSessionKey n z).session n with
      keySlot := some g, setAside := false, rxHigh := 0, rxMap := 0, tx := 0, exhausted := false }
    rw [← hsessions n]
    exact hset
  · have hset := Tab.get_set_other (d := Session.reset) (clearSessionKey n z).dict.sessions
      { (clearSessionKey n z).session n with
        keySlot := some g, setAside := false, rxHigh := 0, rxMap := 0, tx := 0, exhausted := false } hj.symm
    exact Eq.trans hset (hsessions j)
  · show (clearSessionKey n z).keySlot g = _
    unfold clearSessionKey
    split
    · next h hh =>
      rw [session_congr (congrArg _ hzd)] at hh
      exact (keySlot_setKeySlot_other _ _ fun hgh => hne (hh.trans (congrArg some hgh.symm))).trans hslot
    · exact hslot
  · show (clearSessionKey n z).keySlot h = _
    rw [← session_congr (congrArg Dict.sessions hzd)] at hh
    rw [clearSessionKey, hh]
    exact keySlot_setKeySlot_same hwf' h _
  · exact congrArg (fun d : Dict => d.subs.filter (fun y => decide (y.session ≠ n))) hcd

theorem rekeyed_takeKeyBlob (hwf : Tab.wf KeySlot.reset s.cipher.slots = true)
    (hsess : Tab.wf Session.reset s.dict.sessions = true) (hblob : sessionBlob s v = .ok x)
    (hfree : freeLocalSlot s 0 = some l) (hglob : globalOf s 0 2 l = some g) (hne : (s.session n).keySlot ≠ some g) :
    Rekeyed n g x s (takeKeyBlob n v s) := by
  unfold takeKeyBlob
  generalize hy : setVal (0x114F + n) 3 v
    (modBoot (fun b => { b with asideKeys := b.asideKeys.filter (fun e => decide (e ≠ (n, v))) }) s) = y
  have hcipher : y.cipher = s.cipher := by rw [← hy]; rfl
  have hp : y.polders = s.polders := by rw [← hy]; rfl
  have hboot : y.boot.areaId = s.boot.areaId := by rw [← hy]; rfl
  have hsessions : y.dict.sessions = s.dict.sessions := by rw [← hy]; rfl
  have hsubs : y.dict.subs = s.dict.subs := by rw [← hy]; rfl
  have hout : y.out = s.out := by rw [← hy]; rfl
  have hbox : y.dict.outbox = s.dict.outbox := by rw [← hy]; rfl
  have hload : loadSessionKey n v y = sessionRekeyed n g (clearSessionKey n (addUser g (loadSlot g x y))) := by
    simp only [loadSessionKey, sessionBlob_congr hboot hp, hblob, freeLocalSlot_congr hcipher hp, hfree,
      globalOf_congr hp, hglob]
  have hs (j : Nat) : y.session j = s.session j := session_congr hsessions j
  have hk (j : Nat) : y.keySlot j = s.keySlot j := congrArg (fun c : Cipher => Tab.get KeySlot.reset c.slots j) hcipher
  obtain ⟨h1, h2, h3, h4, h5, h6, h7⟩ := rekeyed_of_clear (n := n) (g := g) (x := x) (y := y) (by rwa [hcipher])
    (by rwa [hsessions]) (by rwa [hs])
  rw [hload]
  refine ⟨by rw [h1, hs], fun j hj => (h2 j hj).trans (hs j), by rw [h3, hk], fun h hh => h4 h (by rwa [hs]),
    by rw [h5, hsubs], h6.trans hout, h7.trans hbox⟩

end Loaded

/-! ### KeyBlob through the mailbox -/

section Mailbox
variable {t n : Nat} {f : Bool} {b : Bytes} {s : State} {m : Msg} (h1 : 1 ≤ n) (h64 : n ≤ 64)

/-- The row of KeyBlob. -/
def keyBlobRow : ObjRow := ⟨0x1150, 0x118F, 0x03, 0x03, 9, 56, 0, .rwp, 3, 3, 0, 0, zeros 56⟩

include h1 h64

theorem objRowsAt_session : objRowsAt (0x114F + n) = objRowsAt 0x1150 := by
  have hall : ∀ r ∈ objRows, r.last < 0x1150 ∨ 0x1190 ≤ r.first ∨ (r.first ≤ 0x1150 ∧ 0x118F ≤ r.last) := by
    decide +kernel
  refine List.filter_congr fun r hr => decide_eq_decide.2 ?_
  have := hall r hr
  omega

theorem objDesc_session {k : Nat} (hk : k ≠ 0) : objDesc (0x114F + n) k = objDesc 0x1150 k := by
  simp [objDesc, objRowsAt_session h1 h64, hk, show ¬ 0x114F + n ≤ 12 by omega, show 0x114F + n ≠ 0x3000 by omega]

theorem objDesc_keyBlob : objDesc (0x114F + n) 3 = some keyBlobRow :=
  (objDesc_session h1 h64 (by decide)).trans rfl

theorem isKeyBlob_session : isKeyBlob (0x114F + n) 3 = true := by
  have : 0x1150 ≤ 0x114F + n ∧ 0x114F + n ≤ 0x118F ∧ 3 = 3 := by omega
  exact decide_eq_true this

theorem rangeOf_session {k : Nat} (v : Bytes) : rangeOf (0x114F + n) k v = true := by
  unfold rangeOf
  dsimp only
  iterate 10 rw [if_neg (by omega)]

theorem ownerAborts_session (x : State) (who k : Nat) (v : Bytes) : ownerAborts x who (0x114F + n) k v = [] := by
  unfold ownerAborts
  dsimp only
  iterate 9 rw [if_neg (by omega)]

theorem stateAborts_session (x : State) (k : Nat) : stateAborts x (0x114F + n) k = false := by
  unfold stateAborts
  iterate 8 rw [if_neg (by omega)]

theorem keyBlobAborts {q : Req} (x : State) (hidx : q.msg.index = 0x114F + n) (hsub : q.msg.sub = 3)
    (hdata : q.msg.data.length = 56) : valueAborts q x keyBlobRow q.msg.data = [] := by
  have hrange : inRange (0x114F + n) 3 keyBlobRow q.msg.data = true := by
    rw [inRange, keyBlobRow, rangeOf_session h1 h64]
    rfl
  have henc : encodes keyBlobRow.ty keyBlobRow.len q.msg.data = true := by
    simp [encodes, keyBlobRow, hdata]
  simp only [valueAborts, hidx, hsub, hrange, henc, stateAborts_session h1 h64, ownerAborts_session h1 h64]
  rfl

section Serve
variable (hmsg : m = parseMsg b 0) (hm : MbxHolds s b 2) (hq : NoOnChange s) (hidx : m.index = 0x114F + n)
  (hsub : m.sub = 3) (hty : m.ty = 9) (hdata : m.data.length = 56)
include hmsg hidx hsub

include hm in
theorem keyBlob_mine : (kindIs 2 (parseMsg b 0) && isKeyBlob (parseMsg b 0).index (parseMsg b 0).sub) = true := by
  subst hmsg
  rw [kindIs_of_holds hm, hidx, hsub, isKeyBlob_session h1 h64]
  rfl

include hty hdata

theorem keyBlob_ok (hgood : keyBlobBad (advance t s) m.data = none) :
    writeOne (mbxReq (advance t s) f b) (advance t s) = (takeKeyBlob n m.data (advance t s), .ok 0 0 0 []) := by
  subst hmsg
  have hd : objDesc (parseMsg b 0).index (parseMsg b 0).sub = some keyBlobRow := by
    rw [hidx, hsub, objDesc_keyBlob h1 h64]
  have ha : writeAccess (mbxReq (advance t s) f b) keyBlobRow = [] :=
    writeAccess_nil (by decide) (by decide) (mbxRole_ge ..) rfl
  have hblob : isKeyBlob (0x114F + n) 3 = true := isKeyBlob_session h1 h64
  rw [writeOne_ok hd ha hty (keyBlobAborts h1 h64 _ hidx hsub hdata)
    (by simp only [mbxReq, hidx, hsub, hblob, hgood, ↓reduceIte])]
  have hn : 0x114F + n - 0x114F = n := Nat.add_sub_cancel_left ..
  have h0 : 0x114F + n ≠ 0x1140 := by omega
  have h21 : 0x114F + n ≠ 0x1421 := by omega
  have h40 : 0x114F + n ≠ 0x1440 := by omega
  simp only [writeNow, afterResponse, mbxReq, writeValue, hidx, hsub, hblob, h0, h21, h40, hn, ↓reduceIte, ne_eq,
    not_true_eq_false, false_and, decide_false, Bool.false_eq_true]

theorem keyBlob_bad {a : Nat} (hbad : keyBlobBad (advance t s) m.data = some a) :
    writeOne (mbxReq (advance t s) f b) (advance t s) = (blobRefused (advance t s) m.data, .abort a) := by
  subst hmsg
  have hd : objDesc (parseMsg b 0).index (parseMsg b 0).sub = some keyBlobRow := by
    rw [hidx, hsub, objDesc_keyBlob h1 h64]
  have ha : writeAccess (mbxReq (advance t s) f b) keyBlobRow = [] :=
    writeAccess_nil (by decide) (by decide) (mbxRole_ge ..) rfl
  exact writeOne_badKey hd ha hty (keyBlobAborts h1 h64 _ hidx hsub hdata)
    (by simp only [mbxReq, hidx, hsub, isKeyBlob_session h1 h64, hbad, ↓reduceIte])

include hm hq

theorem runs_keyBlob_ok {x : Blob} {l g : Nat} (hwf : Tab.wf KeySlot.reset s.cipher.slots = true)
    (hsess : Tab.wf Session.reset s.dict.sessions = true) (hblob : sessionBlob s m.data = .ok x)
    (hfree : freeLocalSlot s 0 = some l) (hglob : globalOf s 0 2 l = some g) (hne : (s.session n).keySlot ≠ some g) :
    Runs (.keyBlob ⟨t, .mailbox, f⟩) s (fun u => Answered u b 0 [] ∧ ∃ z, Rekeyed n g x (advance t s) z
      ∧ u.dict = z.dict ∧ u.cipher = z.cipher) := by
  have hgood : keyBlobBad (advance t s) m.data = none := by
    simp only [keyBlobBad, sessionBlob_advance, hblob, freeLocalSlot_advance, hfree]
    rfl
  have hre := rekeyed_takeKeyBlob (n := n) (v := m.data) (s := advance t s) (by rwa [advance_cipher])
    (by rwa [advance_dict]) ((sessionBlob_advance t s _).trans hblob) ((freeLocalSlot_advance t s 0).trans hfree)
    ((globalOf_advance t s 0 2 l).trans hglob) (by rwa [session_advance])
  have hsubs := hre.subs
  have hquiet : NoOnChange (takeKeyBlob n m.data (advance t s)) :=
    noOnChange_of_subs (s := advance t s) (fun _ h => List.mem_of_mem_filter (hsubs ▸ h)) (noOnChange_advance hq)
  exact runs_mono (fun u ⟨hu, honly⟩ => ⟨hu, _, hre, answersOnly_dict honly, (AnswersOnly.signals honly).cipher⟩)
    (runs_write_ok (fun _ _ => rfl) hm (keyBlob_mine h1 h64 hmsg hm hidx hsub) hquiet
      (keyBlob_ok h1 h64 (f := f) hmsg hidx hsub hty hdata hgood))

theorem runs_keyBlob_bad {a : Nat} (hbad : keyBlobBad s m.data = some a) :
    Runs (.keyBlob ⟨t, .mailbox, f⟩) s (fun u => Aborted u b a ∧ u.cipher = s.cipher ∧ u.session n = s.session n) := by
  have hbad' : keyBlobBad (advance t s) m.data = some a := by
    rwa [keyBlobBad, sessionBlob_advance, freeLocalSlot_advance]
  have hframe := Frame.blobRefused (.of_all rfl) (Frame.refl [.counters] (advance t s)) m.data
  have hdict := hframe.dict (by decide)
  have hsessions : (blobRefused (advance t s) m.data).dict.sessions = (advance t s).dict.sessions :=
    (congrArg Dict.sessions hdict :)
  have hquiet : NoOnChange (blobRefused (advance t s) m.data) :=
    noOnChange_of_subs (s := advance t s) (fun _ h => (congrArg Dict.subs hdict).subst (motive := fun l => _ ∈ l) h)
      (noOnChange_advance hq)
  refine runs_mono (fun u ⟨hu, honly⟩ => ⟨hu, ?_, ?_⟩) (runs_write_abort (fun _ _ => rfl) hm
    (keyBlob_mine h1 h64 hmsg hm hidx hsub) hquiet (keyBlob_bad h1 h64 (f := f) hmsg hidx hsub hty hdata hbad'))
  · exact (AnswersOnly.signals honly).cipher.trans ((hframe.cipher (by decide)).trans (advance_cipher ..))
  · exact (session_congr ((congrArg Dict.sessions (answersOnly_dict honly)).trans hsessions) n).trans
      (session_advance t n s)

end Serve

end Mailbox

end Sys2Proof.Machine
end

section
/-! Requests of the dictionary over the network that are served, and what is done after the response: a session's own
key and its own end (spec 02 R76 to R81, R88). -/

namespace Sys2Proof.Machine
open Sys2Proof

/-! ### A request that is served -/

section Carry
variable {h : Handler} {post : Req → State → State} {f : Bool} {n : Nat} {port : Option Nat} {m : Msg} {s y : State}
  (hk : (s.session n).kept.find? (fun k => sameReq m k && keptLive s k) = none)
  (ha : s.dict.acts.any (sameAct n m) = false)
include hk ha

theorem netCarry_ok {pa pb ty : Nat} {data : Bytes} (hh : h (netReq s n port f m) s = (y, .ok pa pb ty data)) :
    netCarry h post f n port m s
      = post (netReq s n port f m) (answer (reqHead (netReq s n port f m)) flagResponse pa pb ty data y) := by
  simp only [netReq, netRole] at hh
  simp only [netCarry, hk, ha, hh, Bool.false_eq_true, ↓reduceIte]
  rfl

theorem netCarry_aborted {c : Nat} (hh : h (netReq s n port f m) s = (y, .abort c)) :
    netCarry h post f n port m s = answer (reqHead (netReq s n port f m)) flagAbort c 0 0 [] y := by
  simp only [netReq, netRole] at hh
  simp only [netCarry, hk, ha, hh, Bool.false_eq_true, ↓reduceIte]
  rfl

end Carry

section Served
variable {mine : Msg → Bool} {h : Handler} {post : Req → State → State} {s y : State} {t kind : Nat} {f : Bool}
  {port : Option Nat} {addr b : Bytes} (hwf : Tab.wf Session.reset s.dict.sessions = true)
include hwf

theorem netReq_netAdmitted (t : Nat) (b : Bytes) : netReq (netAdmitted t b s) (parseMsg b 16).session port f (parseMsg b 16)
    = netReq s (parseMsg b 16).session port f (parseMsg b 16) := by
  have hsess := netAdmitted_session t b s hwf
  simp only [netReq, (keepsNet_netAdmitted t b s).netRole
    ((congrArg Session.vendorUntil hsess).trans (windowPut_vendorUntil _ _))]

variable (ha : NetAsks s t port addr b kind) (hfresh : FreshRequest s (parseMsg b 16)) (ht : NetTag s b)
include ha hfresh ht

theorem netServe_carried (hm : mine (parseMsg b 16) = true) :
    netServe mine h post f t port addr b s = netCarry h post f (parseMsg b 16).session port (parseMsg b 16) (netAdmitted t b s)
    ∧ ((netAdmitted t b s).session (parseMsg b 16).session).kept.find?
        (fun k => sameReq (parseMsg b 16) k && keptLive (netAdmitted t b s) k) = none
    ∧ (netAdmitted t b s).dict.acts.any (sameAct (parseMsg b 16).session (parseMsg b 16)) = false := by
  have hx := keepsNet_netAdmitted t b s
  refine ⟨netServe_fresh _ _ _ f ha hm ht hfresh.epoch hfresh.window, ?_, ?_⟩
  · simpa only [netAdmitted_session t b s hwf, windowPut_kept, hx.keptLive] using hfresh.kept
  · rw [hx.acts]
    exact hfresh.acts

theorem netServe_ok {pa pb ty : Nat} {data : Bytes} (hm : mine (parseMsg b 16) = true)
    (hh : h (netReq s (parseMsg b 16).session port f (parseMsg b 16)) (netAdmitted t b s) = (y, .ok pa pb ty data)) :
    netServe mine h post f t port addr b s = post (netReq s (parseMsg b 16).session port f (parseMsg b 16))
      (answer (reqHead (netReq s (parseMsg b 16).session port f (parseMsg b 16))) flagResponse pa pb ty data y) := by
  obtain ⟨hserve, hkept, hacts⟩ := netServe_carried (h := h) (post := post) (f := f) hwf ha hfresh ht hm
  have hreq := netReq_netAdmitted (port := port) (f := f) hwf t b
  rw [← hreq] at hh
  rw [hserve, netCarry_ok hkept hacts hh, hreq]

theorem netServe_abort {c : Nat} (hm : mine (parseMsg b 16) = true)
    (hh : h (netReq s (parseMsg b 16).session port f (parseMsg b 16)) (netAdmitted t b s) = (y, .abort c)) :
    netServe mine h post f t port addr b s
      = answer (reqHead (netReq s (parseMsg b 16).session port f (parseMsg b 16))) flagAbort c 0 0 [] y := by
  obtain ⟨hserve, hkept, hacts⟩ := netServe_carried (h := h) (post := post) (f := f) hwf ha hfresh ht hm
  have hreq := netReq_netAdmitted (port := port) (f := f) hwf t b
  rw [← hreq] at hh
  rw [hserve, netCarry_aborted hkept hacts hh, hreq]

omit hfresh ht in
/-- The answer to a request that was admitted is the session's next message. -/
theorem sends_admitted (flags pa pb ty : Nat) (data : Bytes) :
    Sends s (answer (reqHead (netReq s (parseMsg b 16).session port f (parseMsg b 16))) flags pa pb ty data (netAdmitted t b s))
      (parseMsg b 16).session port flags kind (parseMsg b 16).reqId ((s.session (parseMsg b 16).session).tx + 1)
      (parseMsg b 16).index (parseMsg b 16).sub ty pa pb data := by
  obtain ⟨-, -, rfl, -, -, -, -, -, hopen, -⟩ := ha
  have hx := keepsNet_netAdmitted t b s
  have hsess := netAdmitted_session t b s hwf
  refine hx.sends (by rw [hsess, windowPut_keySlot]) (netAdmitted_dict_outbox t b s) ?_
  rw [← windowPut_tx (s.session (parseMsg b 16).session) (parseMsg b 16).seq, ← hsess]
  exact sends_answer (h := reqHead (netReq s (parseMsg b 16).session port f (parseMsg b 16))) (sessionOpen_range hopen) flags pa pb ty data

end Served

/-- What left the part, and what waits to leave it, is there still. -/
theorem sends_mono {s u v : State} {n : Nat} {port : Option Nat} {flags kind reqId seq index sub ty pa pb : Nat} {data : Bytes}
    (hout : v.out = u.out) (hbox : v.dict.outbox = u.dict.outbox)
    (h : Sends s u n port flags kind reqId seq index sub ty pa pb data) :
    Sends s v n port flags kind reqId seq index sub ty pa pb data := by
  simpa only [Sends, hout, hbox] using h

/-! ### What an answer leaves on a session -/

/-- Session `n` has its key still, and no polder and no subscription changed. -/
structure KeepsKey (n : Nat) (s u : State) : Prop where
  polders : u.polders = s.polders
  subs : u.dict.subs = s.dict.subs
  wf : Tab.wf Session.reset s.dict.sessions = true → Tab.wf Session.reset u.dict.sessions = true
  key : Tab.wf Session.reset s.dict.sessions = true → (u.session n).keySlot = (s.session n).keySlot

theorem KeepsKey.trans {n : Nat} {s u v : State} (h : KeepsKey n s u) (g : KeepsKey n u v) : KeepsKey n s v :=
  ⟨g.polders.trans h.polders, g.subs.trans h.subs, fun w => g.wf (h.wf w), fun w => (g.key (h.wf w)).trans (h.key w)⟩

section Keys
variable (n : Nat) (s : State)

theorem keepsKey_of_sessions {u : State} (hp : u.polders = s.polders) (hsubs : u.dict.subs = s.dict.subs)
    (h : u.dict.sessions = s.dict.sessions) : KeepsKey n s u :=
  ⟨hp, hsubs, fun w => by rwa [h], fun _ => by rw [session_congr h]⟩

theorem keepsKey_setSession {x : Session} (h : x.keySlot = (s.session n).keySlot) : KeepsKey n s (s.setSession n x) :=
  ⟨rfl, rfl, fun w => Tab.wf_set (d := Session.reset) n x w, fun w => by rw [session_setSession w, h]⟩

theorem keepsKey_gmacWork (k : Nat) : KeepsKey n s (gmacWork k s) :=
  keepsKey_of_sessions n s (by simp [gmacWork]) (by simp [gmacWork]) (by simp [gmacWork])

theorem keepsKey_count (i k : Nat) : KeepsKey n s (count i k s) :=
  keepsKey_of_sessions n s (by simp) (by simp) (by simp)

theorem keepsKey_netAdmitted {t : Nat} {b : Bytes} : KeepsKey (parseMsg b 16).session s (netAdmitted t b s) := by
  have hrate : KeepsKey (parseMsg b 16).session s (rateTake t s) := keepsKey_of_sessions _ s rfl rfl rfl
  have hmeter : KeepsKey (parseMsg b 16).session s (netMetered t b s) := hrate.trans (keepsKey_gmacWork ..)
  unfold netAdmitted
  refine (hmeter.trans (keepsKey_setSession _ _ ?_)).trans (keepsKey_count ..)
  rw [windowPut_keySlot, session_congr (netMetered_dict_sessions ..)]

theorem keepsKey_emit (o : Out) : KeepsKey n s (emit o s) := keepsKey_of_sessions n s rfl rfl rfl

theorem keepsKey_outbox (l : List OutMsg) : KeepsKey n s (modDict (fun d => { d with outbox := d.outbox ++ l }) s) :=
  keepsKey_of_sessions n s rfl rfl rfl

theorem keepsKey_netSend (port : Option Nat) (key : Bytes) (flags kind reqId index sub ty pa pb : Nat) (data : Bytes) :
    KeepsKey n s (netSend n port key flags kind reqId index sub ty pa pb data s) := by
  have hg : ∀ k, KeepsKey n s (gmacWork k (nextTx n s).2) := fun k =>
    KeepsKey.trans (v := gmacWork k (nextTx n s).2) (u := (nextTx n s).2) (keepsKey_setSession n s rfl)
      (keepsKey_gmacWork n _ k)
  cases port with
  | none => exact (hg _).trans (keepsKey_emit n _ _)
  | some p => exact (hg _).trans (keepsKey_outbox n _ _)

theorem keepsKey_answer {h : ReqHead} (hn : 1 ≤ h.session ∧ h.session ≤ 64) (flags pa pb ty : Nat) (data : Bytes) :
    KeepsKey h.session s (answer h flags pa pb ty data s) := by
  obtain ⟨k, hk⟩ := answer_session (s := s) hn flags pa pb ty data
  rw [hk]
  exact (keepsKey_netSend ..).trans (keepsKey_setSession _ _ rfl)

end Keys

/-! ### The command over the network -/

section Runs
variable {mk : Rq → Instr} {mine : Msg → Bool} {h : Handler} {post : Req → State → State} {s : State} {t kind : Nat} {f : Bool}
  {port : Option Nat} {addr b : Bytes}
  (hx : ∀ r x, exec (mk r) x = .next (notifyChanges (fdpServe mine h post r x)))
  (hwf : Tab.wf Session.reset s.dict.sessions = true) (ha : NetAsks s t port addr b kind) (hfresh : NetFresh s b)
  (hm : mine (parseMsg b 16) = true)
include hx hwf ha hfresh hm

/-- A request whose handler changes nothing is answered, and what is done after the response follows the answer. -/
theorem runs_net_ok {pa pb ty : Nat} {data : Bytes}
    (hh : h (netReq (advance t s) (parseMsg b 16).session port f (parseMsg b 16)) (netAdmitted t b (advance t s))
      = (netAdmitted t b (advance t s), .ok pa pb ty data)) :
    Runs (mk ⟨t, .net port addr b, f⟩) s (fun u => NetTag s b → ∃ z,
      Sends s z (parseMsg b 16).session port flagResponse kind (parseMsg b 16).reqId
        ((s.session (parseMsg b 16).session).tx + 1) (parseMsg b 16).index (parseMsg b 16).sub ty pa pb data
      ∧ KeepsNet (advance t s) z ∧ KeepsKey (parseMsg b 16).session (advance t s) z
      ∧ u = notifyChanges (post (netReq (advance t s) (parseMsg b 16).session port f (parseMsg b 16)) z)) := by
  refine ⟨_, hx _ _, fun ht => ?_⟩
  have hwf' : Tab.wf Session.reset (advance t s).dict.sessions = true := by rwa [advance_dict]
  have ha' := netAsks_advance (t := t) ha
  have hsend := sends_advance.1 (sends_admitted (f := f) hwf' ha' flagResponse pa pb ty data)
  rw [session_advance] at hsend
  obtain ⟨-, -, -, -, -, -, -, -, hopen, -⟩ := ha'
  have hkey := keepsKey_answer (netAdmitted t b (advance t s)) (h := reqHead (netReq (advance t s) (parseMsg b 16).session port f
    (parseMsg b 16))) (sessionOpen_range hopen) flagResponse pa pb ty data
  exact ⟨_, hsend, (keepsNet_netAdmitted t b _).trans (keepsNet_answer (sessionOpen_range hopen) ..),
    (keepsKey_netAdmitted _).trans hkey,
    congrArg notifyChanges (netServe_ok hwf' (netAsks_advance ha) (freshRequest_advance t hfresh) (netTag_advance.2 ht) hm hh)⟩

omit hx hfresh in
theorem netServe_abort_spec {c : Nat} (hfresh : FreshRequest s (parseMsg b 16))
    (hh : h (netReq s (parseMsg b 16).session port f (parseMsg b 16)) (netAdmitted t b s) = (netAdmitted t b s, .abort c)) :
    KeepsNet s (netServe mine h post f t port addr b s) ∧ (NetTag s b →
      Sends s (netServe mine h post f t port addr b s) (parseMsg b 16).session port flagAbort kind (parseMsg b 16).reqId
        ((s.session (parseMsg b 16).session).tx + 1) (parseMsg b 16).index (parseMsg b 16).sub 0 c 0 []) := by
  by_cases ht : NetTag s b
  · rw [netServe_abort hwf ha hfresh ht hm hh]
    have hsend := sends_admitted (f := f) hwf ha flagAbort c 0 0 []
    obtain ⟨-, -, -, -, -, -, -, -, hopen, -⟩ := ha
    exact ⟨(keepsNet_netAdmitted t b _).trans (keepsNet_answer (sessionOpen_range hopen) ..), fun _ => hsend⟩
  · rw [netServe_badTag _ _ _ f ha hm ht]
    exact ⟨((keepsNet_netMetered t b _).trans (keepsNet_count _ _ _)).trans (keepsNet_authFail _ _), fun h => absurd h ht⟩

/-- A request that its handler refuses is answered with the abort, and leaves what the network leaves. -/
theorem runs_net_abort {c : Nat}
    (hh : h (netReq (advance t s) (parseMsg b 16).session port f (parseMsg b 16)) (netAdmitted t b (advance t s))
      = (netAdmitted t b (advance t s), .abort c)) :
    Runs (mk ⟨t, .net port addr b, f⟩) s (fun u => KeepsNet (advance t s) u ∧ (NetTag s b →
      Sends s u (parseMsg b 16).session port flagAbort kind (parseMsg b 16).reqId
        ((s.session (parseMsg b 16).session).tx + 1) (parseMsg b 16).index (parseMsg b 16).sub 0 c 0 [])) := by
  have hwf' : Tab.wf Session.reset (advance t s).dict.sessions = true := by rwa [advance_dict]
  obtain ⟨hkeeps, hsend⟩ := netServe_abort_spec (post := post) hwf' (netAsks_advance ha) hm (freshRequest_advance t hfresh) hh
  refine ⟨_, hx _ _, hkeeps.trans (notified_notifyChanges _).keeps, fun ht => sends_notifyChanges ?_⟩
  have h := sends_advance.1 (hsend (netTag_advance.2 ht))
  rwa [session_advance] at h

end Runs

end Sys2Proof.Machine
end

section
/-! Session keys, the end of a session by its own request, and the Dike's windows over the network; then the settled
obligation (spec 02 R57 to R62, R86 to R88, R94, 15 R531). -/

namespace Sys2Proof.Machine
open Sys2Proof

theorem writeAccess_nil_of_index {q : Req} {r : ObjRow} (hro : r.acc ≠ .ro) (hact : r.acc ≠ .act) (hrole : r.wr ≤ q.role)
    (hidx : q.msg.index ≠ 0x1440) : writeAccess q r = [] := by
  simp [writeAccess, abortIf, hro, hact, hidx, Nat.not_lt.2 hrole]

/-- A session is no one's to be logged. -/
theorem logObject_session {o : Origin} {n : Nat} (h1 : 1 ≤ n) (h64 : n ≤ 64) (ho : o.index = 0x114F + n) (s : State) :
    logObject o s = s := by
  have hnone : dikeOfObject (0x114F + n) o.sub = none := by
    unfold dikeOfObject
    dsimp only
    iterate 10 rw [if_neg (by omega)]
  rw [logObject, ho, hnone]

theorem sessionBlob_error {s : State} {v : Bytes} {a : Nat} (h : sessionBlob s v = .error a) : a = 7 := by
  unfold sessionBlob at h
  split at h
  · cases h
    rfl
  · split at h
    · cases h
    · cases h
      rfl

/-! ### KeyBlob through the mailbox: which of its ends comes -/

theorem runs_keyBlob {t n : Nat} {f : Bool} {b : Bytes} {s : State} {m : Msg} (hcanon : Canonical s) (hmsg : m = parseMsg b 0)
    (hm : MbxHolds s b 2) (hq : NoOnChange s) (h1 : 1 ≤ n) (h64 : n ≤ 64) (hidx : m.index = 0x114F + n) (hsub : m.sub = 3)
    (hty : m.ty = 9) (hdata : m.data.length = 56) :
    Runs (.keyBlob ⟨t, .mailbox, f⟩) s (fun u =>
      (∀ x l g, sessionBlob s m.data = .ok x → freeLocalSlot s 0 = some l → globalOf s 0 2 l = some g →
        (s.session n).keySlot ≠ some g →
        Answered u b 0 [] ∧ (u.session n).keySlot = some g ∧ (u.session n).rxHigh = 0 ∧ (u.session n).rxMap = 0
        ∧ (u.session n).tx = 0 ∧ (u.session n).exhausted = false ∧ (∀ j, j ≠ n → u.session j = s.session j)
        ∧ u.keySlot g = { alg := x.alg, usage := x.usage, key := x.key, users := (s.keySlot g).users + 1 }
        ∧ (∀ h, (s.session n).keySlot = some h → u.keySlot h = KeySlot.reset)
        ∧ (∀ y ∈ u.dict.subs, y.session ≠ n))
      ∧ (∀ a, sessionBlob s m.data = .error a → Aborted u b 7 ∧ u.cipher = s.cipher ∧ u.session n = s.session n)
      ∧ (∀ x, sessionBlob s m.data = .ok x → freeLocalSlot s 0 = none → Aborted u b 0xC ∧ u.cipher = s.cipher)) := by
  obtain ⟨-, ⟨-, hsessions⟩, -, -, -, -, -, -, -, -, -, ⟨hslots, -⟩, -⟩ := hcanon
  cases hblob : sessionBlob s m.data with
  | error a =>
    have ha : a = 7 := sessionBlob_error hblob
    have hbad : keyBlobBad s m.data = some 7 := by simp only [keyBlobBad, hblob, ha]
    exact runs_mono (fun u h => ⟨fun x _ _ hx => (by cases hx), fun _ _ => h, fun x hx => (by cases hx)⟩)
      (runs_keyBlob_bad h1 h64 hmsg hm hq hidx hsub hty hdata hbad)
  | ok x =>
    cases hfree : freeLocalSlot s 0 with
    | none =>
      have hbad : keyBlobBad s m.data = some 0xC := by
        simp only [keyBlobBad, hblob, hfree]
        rfl
      exact runs_mono (fun u h => ⟨fun _ _ _ _ hl => (by cases hl), fun _ ha => (by cases ha), fun _ _ _ => ⟨h.1, h.2.1⟩⟩)
        (runs_keyBlob_bad h1 h64 hmsg hm hq hidx hsub hty hdata hbad)
    | some l =>
      by_cases hcan : ∃ g, globalOf s 0 2 l = some g ∧ (s.session n).keySlot ≠ some g
      · obtain ⟨g, hg, hne⟩ := hcan
        refine runs_mono (fun u h => ⟨fun x' l' g' hx hl hg' _ => ?_, fun _ ha => (by cases ha), fun _ _ hl => (by cases hl)⟩)
          (runs_keyBlob_ok h1 h64 hmsg hm hq hidx hsub hty hdata hslots hsessions hblob hfree hg hne)
        cases hx
        cases hl
        cases hg.symm.trans hg'
        obtain ⟨hans, z, hz, hdict, hcipher⟩ := h
        have hs (j : Nat) : u.session j = z.session j := session_congr (congrArg _ hdict) j
        have hk (j : Nat) : u.keySlot j = z.keySlot j := congrArg (fun c : Cipher => Tab.get KeySlot.reset c.slots j) hcipher
        refine ⟨hans, ?_, ?_, ?_, ?_, ?_, fun j hj => ?_, ?_, fun h hh => ?_, fun y hy => ?_⟩
        iterate 5 rw [hs, hz.session]
        · rw [hs, hz.others j hj, session_advance]
        · rw [hk, hz.slot, keySlot_advance]
        · rw [hk, hz.left h (by rwa [session_advance])]
        · rw [hdict, hz.subs] at hy
          exact of_decide_eq_true (List.mem_filter.1 hy).2
      · exact ⟨_, rfl, fun x' l' g' hx hl hg hne => absurd ⟨g', Option.some.inj hl ▸ hg, hne⟩ hcan, fun _ ha => (by cases ha),
          fun _ _ hl => (by cases hl)⟩

section Net
variable {t : Nat} {f : Bool} {port : Option Nat} {addr b : Bytes} {s : State} {m : Msg}

/-! ### A session that writes its own key, or ends itself (R88) -/

section Own
variable (hq : NoOnChange s) (hmsg : m = parseMsg b 16) (ha : NetAsks s t port addr b 2) (hfresh : NetFresh s b)
  (hsess : Tab.wf Session.reset s.dict.sessions = true) (hidx : m.index = 0x114F + m.session)
  (hrole : 3 ≤ netRole (advance t s) m.session)
include hmsg ha

theorem session_range : 1 ≤ m.session ∧ m.session ≤ 64 := by
  subst hmsg
  obtain ⟨-, -, -, -, -, -, -, -, hopen, -⟩ := ha
  exact sessionOpen_range hopen

include hidx

theorem afterResponse_own (hsub : m.sub = 1 ∨ m.sub = 3) : afterResponse (netReq (advance t s) m.session port f m) = true :=
  have ⟨h1, _⟩ := session_range hmsg ha
  decide_eq_true ⟨by show m.session ≠ 0; omega, hidx, hsub⟩

include hfresh hsess hrole hq

theorem runs_keyBlob_net (hsub : m.sub = 3) (hty : m.ty = 9) (hdata : m.data.length = 56)
    (hwf : Tab.wf KeySlot.reset s.cipher.slots = true) {x : Blob} {l g : Nat} (hblob : sessionBlob s m.data = .ok x)
    (hfree : freeLocalSlot s 0 = some l) (hglob : globalOf s 0 2 l = some g) (hne : (s.session m.session).keySlot ≠ some g) :
    Runs (.keyBlob ⟨t, .net port addr b, f⟩) s (fun u => NetTag s b →
      Sends s u m.session port 1 2 m.reqId ((s.session m.session).tx + 1) m.index 3 0 0 0 []
      ∧ (u.session m.session).keySlot = some g ∧ (u.session m.session).tx = 0 ∧ (u.session m.session).rxHigh = 0) := by
  obtain ⟨h1, h64⟩ := session_range hmsg ha
  have hafter := afterResponse_own (f := f) hmsg ha hidx (.inr hsub)
  have hblobrow : isKeyBlob m.index m.sub = true := by rw [hidx, hsub, isKeyBlob_session h1 h64]
  have hmine : (kindIs 2 m && isKeyBlob m.index m.sub) = true := by
    obtain ⟨-, -, hkind, -⟩ := ha
    rw [hblobrow, kindIs, hmsg, hkind]
    rfl
  have hadm := keepsNet_netAdmitted t b (advance t s)
  have hadmk : KeepsKey m.session (advance t s) (netAdmitted t b (advance t s)) := hmsg ▸ keepsKey_netAdmitted _
  have hgood : keyBlobBad (netAdmitted t b (advance t s)) m.data = none := by
    have hblob' := (sessionBlob_congr (congrArg Boot.areaId hadm.boot) hadmk.polders m.data).trans
      ((sessionBlob_advance t s m.data).trans hblob)
    have hfree' := (freeLocalSlot_congr hadm.cipher hadmk.polders 0).trans ((freeLocalSlot_advance t s 0).trans hfree)
    simp only [keyBlobBad, hblob', hfree']
    rfl
  have hd : objDesc m.index m.sub = some keyBlobRow := by
    rw [hidx, hsub, objDesc_keyBlob h1 h64]
  have haccess : writeAccess (netReq (advance t s) m.session port f m) keyBlobRow = [] :=
    writeAccess_nil_of_index (by decide) (by decide) hrole (by show m.index ≠ 0x1440; omega)
  have hserve : writeOne (netReq (advance t s) m.session port f m) (netAdmitted t b (advance t s))
      = (netAdmitted t b (advance t s), .ok 0 0 0 []) := by
    have hw := writeOne_ok (q := netReq (advance t s) m.session port f m) (s := netAdmitted t b (advance t s)) hd haccess hty
      (keyBlobAborts h1 h64 _ hidx hsub hdata) ((if_pos hblobrow).trans hgood)
    rwa [writeNow, if_pos hafter] at hw
  subst hmsg
  refine runs_mono (fun u h ht => ?_) (runs_net_ok (mine := fun m => kindIs 2 m && isKeyBlob m.index m.sub)
    (post := writePost) (fun _ _ => rfl) hsess ha hfresh hmine hserve)
  obtain ⟨z, hsend, hnet, hkey, rfl⟩ := h ht
  have hz := rekeyed_takeKeyBlob (n := (parseMsg b 16).session) (s := z) (by rw [hnet.cipher, advance_cipher]; exact hwf)
    (hkey.wf (by rwa [advance_dict])) 
    ((sessionBlob_congr (congrArg Boot.areaId hnet.boot) hkey.polders _).trans ((sessionBlob_advance t s _).trans hblob))
    ((freeLocalSlot_congr hnet.cipher hkey.polders 0).trans ((freeLocalSlot_advance t s 0).trans hfree))
    ((globalOf_congr hkey.polders 0 2 l).trans ((globalOf_advance t s 0 2 l).trans hglob))
    (by rw [hkey.key (by rwa [advance_dict]), session_advance]; exact hne)
  have hpost : writePost (netReq (advance t s) (parseMsg b 16).session port f (parseMsg b 16)) z
      = takeKeyBlob (parseMsg b 16).session (parseMsg b 16).data z := by
    rw [writePost, if_pos hafter]
    have h0 : (parseMsg b 16).index ≠ 0x1140 := by omega
    have h21 : (parseMsg b 16).index ≠ 0x1421 := by omega
    have h40 : (parseMsg b 16).index ≠ 0x1440 := by omega
    simp only [writeValue, netReq, h0, h21, h40, hblobrow, ↓reduceIte]
    rw [hidx, Nat.add_sub_cancel_left]
  have hquiet : NoOnChange (takeKeyBlob (parseMsg b 16).session (parseMsg b 16).data z) := by
    refine noOnChange_of_subs (s := advance t s) (fun y hy => ?_) (noOnChange_advance hq)
    rw [hz.subs] at hy
    exact hkey.subs ▸ List.mem_of_mem_filter hy
  rw [hpost, notifyChanges_quiet hquiet, hz.session]
  refine ⟨?_, rfl, rfl, rfl⟩
  rw [hsub] at hsend
  exact sends_mono hz.out hz.outbox hsend

/-- The row of a session's Enable. -/
def enableRow : ObjRow := ⟨0x1150, 0x118F, 0x01, 0x01, 1, 1, 0, .rwp, 3, 3, 0, 1, zeros 1⟩

theorem runs_endSelf (hsub : m.sub = 1) (hty : m.ty = 1) (hdata : m.data = [0]) (hnodup : (s.dict.vals.map (·.1)).Nodup) :
    Runs (.write ⟨t, .net port addr b, f⟩) s (fun u => NetTag s b →
      Sends s u m.session port 1 2 m.reqId ((s.session m.session).tx + 1) m.index 1 0 0 0 []
      ∧ cfg u m.index 1 = [0] ∧ (∀ x ∈ u.dict.subs, x.session ≠ m.session)) := by
  obtain ⟨h1, h64⟩ := session_range hmsg ha
  have hafter := afterResponse_own (f := f) hmsg ha hidx (.inl hsub)
  have hblobrow : isKeyBlob m.index m.sub = false := by
    rw [hsub]
    exact decide_eq_false fun h => absurd h.2.2 (by decide)
  have hown : ownWrite m = false := by
    simp only [ownWrite, hblobrow, Bool.or_eq_false_iff, decide_eq_false_iff_not, true_and]
    omega
  have hmine : (kindIs 2 m && !ownWrite m) = true := by
    obtain ⟨-, -, hkind, -⟩ := ha
    rw [hown, kindIs, hmsg, hkind]
    rfl
  have hd : objDesc m.index m.sub = some enableRow := by
    rw [hidx, hsub, objDesc_session h1 h64 (by decide)]
    rfl
  have haccess : writeAccess (netReq (advance t s) m.session port f m) enableRow = [] :=
    writeAccess_nil_of_index (by decide) (by decide) hrole (by show m.index ≠ 0x1440; omega)
  have hvals : valueAborts (netReq (advance t s) m.session port f m) (netAdmitted t b (advance t s)) enableRow m.data = [] := by
    have hrange : inRange (0x114F + m.session) 1 enableRow [0] = true := by
      rw [inRange, rangeOf_session h1 h64]
      decide
    have henc : encodes enableRow.ty enableRow.len [0] = true := by decide
    simp only [valueAborts, netReq, hidx, hsub, hdata, hrange, henc, stateAborts_session h1 h64, ownerAborts_session h1 h64]
    rfl
  have hserve : writeOne (netReq (advance t s) m.session port f m) (netAdmitted t b (advance t s))
      = (netAdmitted t b (advance t s), .ok 0 0 0 []) := by
    have hw := writeOne_ok (q := netReq (advance t s) m.session port f m) (s := netAdmitted t b (advance t s)) hd haccess hty
      hvals (by simp only [netReq, hblobrow]; rfl)
    rwa [writeNow, if_pos hafter] at hw
  subst hmsg
  refine runs_mono (fun u h ht => ?_) (runs_net_ok (mine := fun m => kindIs 2 m && !ownWrite m)
    (post := writePost) (fun _ _ => rfl) hsess ha hfresh hmine hserve)
  obtain ⟨z, hsend, hnet, hkey, rfl⟩ := h ht
  have hnodup' : (z.dict.vals.map (·.1)).Nodup := by rwa [hnet.vals, advance_dict]
  have hset : cfg (setVal (parseMsg b 16).index 1 [0] z) (parseMsg b 16).index 1 = [0] := cfg_setVal_same fun _ => hnodup'
  have hpost : writePost (netReq (advance t s) (parseMsg b 16).session port f (parseMsg b 16)) z
      = sessionEnd (parseMsg b 16).session (setVal (parseMsg b 16).index 1 [0] z) := by
    have hlog := logObject_session h1 h64 (o := (netReq (advance t s) (parseMsg b 16).session port f (parseMsg b 16)).origin) hidx
    have hzero : cfgN (setVal (parseMsg b 16).index 1 [0] z) (parseMsg b 16).index 1 = 0 := congrArg beNat hset
    rw [writePost, if_pos hafter, writeValue_eq hown (by show (parseMsg b 16).index ≠ _; omega) (by show (parseMsg b 16).index ≠ _; omega), hlog]
    show writeEffect _ z (setVal (parseMsg b 16).index (parseMsg b 16).sub (parseMsg b 16).data z) = _
    rw [hsub, hdata]
    unfold writeEffect
    dsimp only [netReq]
    iterate 8 rw [if_neg (by omega)]
    rw [if_pos (by omega), if_pos hzero, hidx, Nat.add_sub_cancel_left]
  have hquiet : NoOnChange (sessionEnd (parseMsg b 16).session (setVal (parseMsg b 16).index 1 [0] z)) := by
    refine noOnChange_of_subs (s := advance t s) (fun y hy => ?_) (noOnChange_advance hq)
    exact hkey.subs ▸ List.mem_of_mem_filter hy
  rw [hpost, notifyChanges_quiet hquiet]
  rw [hsub] at hsend
  exact ⟨sends_mono rfl rfl hsend, hset, fun x hx => of_decide_eq_true (List.mem_filter.1 hx).2⟩

end Own

/-- Over the network no one writes the windows (15 R531). -/
theorem runs_dmaWindows_net (hmsg : m = parseMsg b 16) (ha : NetAsks s t port addr b 2) (hfresh : NetFresh s b)
    (hsess : Tab.wf Session.reset s.dict.sessions = true) (hidx : m.index = 0x1440) (hsub : m.sub = 0) :
    Runs (.dikeDmaWindows ⟨t, .net port addr b, f⟩) s (fun u => u.boot = s.boot ∧ (NetTag s b →
      Sends s u m.session port 3 2 m.reqId ((s.session m.session).tx + 1) m.index m.sub 0 5 0 [])) := by
  obtain ⟨h1, -⟩ := session_range hmsg ha
  have hmine : (kindIs 2 m && decide (m.index = 0x1440)) = true := by
    obtain ⟨-, -, hkind, -⟩ := ha
    rw [hidx, kindIs, hmsg, hkind]
    rfl
  have hserve : writeOne (netReq (advance t s) m.session port f m) (netAdmitted t b (advance t s))
      = (netAdmitted t b (advance t s), .abort 5) := by
    refine writeOne_abort (objDesc_windowsRow hidx hsub) ?_
    have hrole : writeAccess (netReq (advance t s) m.session port f m) windowsRow = [aROLE] := by
      have hne : m.session ≠ 0 := by omega
      simp [writeAccess, windowsRow, netReq, hidx, hne, abortIf]
    have hvals : valueAborts (netReq (advance t s) m.session port f m) (netAdmitted t b (advance t s)) windowsRow m.data
        = if encodes 9 256 m.data then abortIf (!inRange 0x1440 0 windowsRow m.data) aRANGE ++ [] else [aTYPE] := by
      simp only [valueAborts, netReq, hidx, hsub]
      rfl
    rw [hrole]
    refine (congrArg (fun l => firstAbort ([aROLE] ++ _ ++ l)) hvals).trans ?_
    generalize decide ((netReq (advance t s) m.session port f m).msg.ty ≠ windowsRow.ty) = c
    generalize inRange 0x1440 0 windowsRow m.data = d
    generalize encodes 9 256 m.data = e
    revert c d e
    decide
  subst hmsg
  exact runs_mono (fun u h => ⟨h.1.boot.trans (advance_boot ..), h.2⟩)
    (runs_net_abort (mine := fun m => kindIs 2 m && decide (m.index = 0x1440)) (post := writePost) (fun _ _ => rfl)
      hsess ha hfresh hmine hserve)

end Net

end Sys2Proof.Machine

namespace Sys2Proof
open Machine

/-- Settles O46: each request by its checks, its one effect and its answer; what a session writes to itself is done
after the answer has left. -/
theorem storeAndTokens : Obligations.StoreAndTokens := by
  refine ⟨?_, ?_, ?_, ?_, ?_, ?_, ?_, ?_, ?_, ?_, ?_, ?_⟩
  · exact takesStore (by decide) (fun _ _ => rfl)
  · exact takesStore (by decide) (fun _ _ => rfl)
  · intro t vals s hstoring hlen
    exact runs_storeAllComplete t hstoring hlen
  · intro t ok vals s hstoring hfail
    exact runs_storeAllComplete_fails t hstoring hfail
  · intro t n s hcanon
    obtain ⟨-, ⟨-, hsessions⟩, -⟩ := hcanon
    exact runs_tokenExpiry t hsessions
  · intro t f b s m hmsg hm hq hidx hsub hty hdata hset
    exact runs_serviceToken hmsg hm hq hidx hsub hty hdata hset
  · intro t f b s m hmsg hm hq hidx hsub hset
    exact runs_serviceToken_unset hmsg hm hq hidx hsub hset
  · intro t n f b s m hcanon hmsg hm hq h1 h64 hidx hsub hty hdata
    exact runs_keyBlob hcanon hmsg hm hq h1 h64 hidx hsub hty hdata
  · intro t f port addr b s m hcanon hq hmsg ha hfresh hidx hsub hty hdata hrole
    obtain ⟨-, ⟨-, hsessions⟩, -, -, -, -, -, -, -, -, -, ⟨hslots, -⟩, -⟩ := hcanon
    by_cases hcan : ∃ x l g, sessionBlob s m.data = .ok x ∧ freeLocalSlot s 0 = some l ∧ globalOf s 0 2 l = some g
        ∧ (s.session m.session).keySlot ≠ some g
    · obtain ⟨x, l, g, hx, hl, hg, hne⟩ := hcan
      refine runs_mono (fun u h ht x' l' g' hx' hl' hg' hne' => ?_)
        (runs_keyBlob_net hq hmsg ha hfresh hsessions hidx hrole hsub hty hdata hslots hx hl hg hne)
      cases hl.symm.trans hl'
      cases hg.symm.trans hg'
      exact h ht
    · exact ⟨_, rfl, fun _ x l g hx hl hg hne => absurd ⟨x, l, g, hx, hl, hg, hne⟩ hcan⟩
  · intro t f port addr b s m hcanon hq hmsg ha hfresh hidx hsub hty hdata hrole hnodup
    obtain ⟨-, ⟨-, hsessions⟩, -⟩ := hcanon
    exact runs_endSelf hq hmsg ha hfresh hsessions hidx hrole hsub hty hdata hnodup
  · intro t f b s m hmsg hm hq hidx hsub hty hdata
    exact runs_dmaWindows hmsg hm hq hidx hsub hty hdata
  · intro t f port addr b s m hcanon hq hmsg ha hfresh hidx hsub
    obtain ⟨-, ⟨-, hsessions⟩, -⟩ := hcanon
    exact runs_dmaWindows_net hmsg ha hfresh hsessions hidx hsub

end Sys2Proof
end

section
/-! Host bytes that a command reads, the end of a chain, and the entries of CIPHER queues for key slots
(spec 09 R307, 11 R367, 12 R398 to R403). -/

namespace Sys2Proof.Machine
open Sys2Proof

/-! ### Bytes of host memory -/

section Reads
variable {w : Requester} {s s1 : State}

theorem transmits_emitRead (tag : Nat) (w : Requester) (addr len : Nat) (s : State) :
    Transmits s (emitRead tag w addr len s) := (transmits_askPage ..).trans (transmits_emit ..)

theorem transmits_dmaBytesRead (fn n : Nat) (s : State) : Transmits s (dmaBytesRead fn n s) :=
  (signals_countEv 0x341 n none none (some fn) s).transmits

theorem transmits_readNow {segs : List (Nat × Nat)} (h : readNow w segs s = some s1) : Transmits s s1 := by
  unfold readNow at h
  split at h
  · cases h
    exact .refl s
  · split at h
    · cases h
    · split at h
      · cases h
      · next tag _ =>
        obtain rfl := Option.some.inj h
        exact (transmits_forEach (readCuts s w.fn segs) (fun p x => transmits_emitRead tag w p.1 p.2 x) s).trans
          (transmits_dmaBytesRead ..)

end Reads

section Op
variable {fn q first : Nat} {marks : List Bytes} {segs : List (Nat × Nat)} {go : Bytes → State → State} {s s1 : State} {b d : Bytes}

theorem hostOp_now (h : HostBytes s fn q segs b d s1) : hostOp fn q first marks segs (.now b) go s = go d s1 := by
  obtain ⟨hok, hgather, hread⟩ := h
  simp only [hostOp, hok, hgather, hread, Bool.false_eq_true, ↓reduceIte]

theorem hostOp_tags (hok : readRefused s fn q segs = false) (hruns : fnRuns s fn = true) (hlen : hostLen segs ≠ 0) :
    hostOp fn q first marks segs .tags go s = startReads (queueReq s fn q) (.data first) segs s := by
  simp only [hostOp, hok, hlen, hruns, Bool.false_eq_true, ↓reduceIte]

end Op

@[simp] theorem readRefused_advance (t : Nat) (s : State) (fn q : Nat) (segs : List (Nat × Nat)) :
    readRefused (advance t s) fn q segs = readRefused s fn q segs := by
  simp only [readRefused, requestRefused_advance]

/-- The host's side and the queues are the same, but for translations that are asked for and interrupts. -/
structure SameHost (s u : State) : Prop where
  ep : { u.ep with asked := s.ep.asked, inta := s.ep.inta, msix := s.ep.msix } = s.ep
  wq : u.wq = s.wq
  polders : u.polders = s.polders

section SameHost
variable {s u v : State}

theorem Transmits.sameHost (h : Transmits s u) : SameHost s u := ⟨h.ep, h.wq, h.polders⟩

theorem SameHost.trans (a : SameHost s u) (b : SameHost u v) : SameHost s v :=
  ⟨(congrArg (fun x : Endpoint => { x with asked := s.ep.asked, inta := s.ep.inta, msix := s.ep.msix }) b.ep).trans a.ep,
    b.wq.trans a.wq, b.polders.trans a.polders⟩

variable (h : SameHost s u)
include h

theorem SameHost.ep_funcs : u.ep.funcs = s.ep.funcs := (congrArg Endpoint.funcs h.ep :)
theorem SameHost.ep_cached : u.ep.cached = s.ep.cached := (congrArg Endpoint.cached h.ep :)
theorem SameHost.ep_link : u.ep.link = s.ep.link := (congrArg Endpoint.link h.ep :)
theorem SameHost.queue (fn q : Nat) : u.queue fn q = s.queue fn q :=
  congrArg (fun x : Wq => Tab.get Queue.reset x.queues (qKey fn q)) h.wq
theorem SameHost.func (fn : Nat) : u.func fn = s.func fn := congrArg (fun x => Tab.get Func.reset x fn) h.ep_funcs

end SameHost

theorem requestRefused_of_host {s u : State} (h : SameHost s u) (fn q addr len : Nat) :
    requestRefused u fn q addr len = requestRefused s fn q addr len := by
  have hreq : queueReq u fn q = queueReq s fn q := by simp only [queueReq, h.queue]
  have hbar (g a n : Nat) : inBarOf u g a n = inBarOf s g a n := by
    have hvf : u.ep.vfBars = s.ep.vfBars := (congrArg Endpoint.vfBars h.ep :)
    have hen : u.ep.vfEnable = s.ep.vfEnable := (congrArg Endpoint.vfEnable h.ep :)
    have hnum : u.ep.numVfs = s.ep.numVfs := (congrArg Endpoint.numVfs h.ep :)
    have hpage : u.ep.pageSize = s.ep.pageSize := (congrArg Endpoint.pageSize h.ep :)
    unfold inBarOf vfBarSize
    rw [h.func, hvf, hen, hnum, hpage]
  simp only [requestRefused, pasidOff, acsBlocks, h.queue, h.func, hreq, hbar, translate_congr h.ep_funcs h.ep_cached]

theorem fnRuns_of_host {s u : State} (h : SameHost s u) (fn : Nat) : fnRuns u fn = fnRuns s fn := by
  have hen : u.ep.vfEnable = s.ep.vfEnable := (congrArg Endpoint.vfEnable h.ep :)
  have hnum : u.ep.numVfs = s.ep.numVfs := (congrArg Endpoint.numVfs h.ep :)
  unfold fnRuns fnExists State.polder
  dsimp only
  rw [h.func, h.ep_link, h.polders, hen, hnum]

/-- A write to host memory that may be made goes out as it would have before. -/
theorem writes_queueWrite {fn q idx addr : Nat} {marks : List Bytes} {data : Bytes} {s u : State} (h : SameHost s u)
    (hok : requestRefused s fn q addr data.length = false) (hddr : isDdr addr = false) :
    Writes s fn q addr data (queueWrite fn q idx addr marks data u) := by
  intro hruns p hp
  have hne : data ≠ [] := by
    rintro rfl
    cases hp
  have hok' := (requestRefused_of_host h fn q addr data.length).trans hok
  have hreq : queueReq u fn q = queueReq s fn q := by simp only [queueReq, h.queue]
  have hwrite : queueWrite fn q idx addr marks data u = dmaWrite (queueReq s fn q) addr data u := by
    simp only [queueWrite, hne, hok', memWrite, hddr, hreq, Bool.false_eq_true, ↓reduceIte]
  rw [hwrite, ← translate_congr h.ep_funcs h.ep_cached, ← pasidSent_congr h.ep_funcs]
  exact dmaWrite_out ((fnRuns_of_host h fn).trans hruns) (by rwa [writeLimit_congr h.ep_funcs])

theorem transmits_queueWrite {fn q idx addr : Nat} {marks : List Bytes} {data : Bytes} {u : State}
    (hok : requestRefused u fn q addr data.length = false) (hddr : isDdr addr = false) :
    Transmits u (queueWrite fn q idx addr marks data u) := by
  simp only [queueWrite, hok, memWrite, hddr, Bool.false_eq_true, ↓reduceIte]
  split
  · exact .refl u
  · exact transmits_dmaWrite ..

/-! ### The end of a chain -/

/-- A chain that ends changes the record of its queue alone. -/
theorem queueSet_finishChain {fn q first status result : Nat} {s : State} (h : Tab.wf Queue.reset s.wq.queues = true) :
    QueueSet fn q { s.queue fn q with chains := endChain (s.queue fn q) first status result } s
      (finishChain fn q first status result s) := queueSet_setQueue h _

theorem cipherChain_advance (t : Nat) (s : State) (fn q op : Nat) : cipherChain (advance t s) fn q op = cipherChain s fn q op := by
  simp only [cipherChain, queue_advance]

end Sys2Proof.Machine
end

section
/-! UNWRAP, WRAP and SLOT_CLEAR (spec 12 R398, R401 to R403). -/

namespace Sys2Proof.Machine
open Sys2Proof

/-! ### What a queue's record leaves -/

section Set
variable {fn q : Nat} {x : Queue} {s u : State} (h : QueueSet fn q x s u)
include h

theorem queueSet_cipher : u.cipher = s.cipher := (congrArg State.cipher h.1 :)
theorem queueSet_evt : u.evt = s.evt := (congrArg State.evt h.1 :)
theorem queueSet_out : u.out = s.out := (congrArg State.out h.1 :)
theorem queueSet_dict : u.dict = s.dict := (congrArg State.dict h.1 :)

theorem queueSet_keySlot (g : Nat) : u.keySlot g = s.keySlot g :=
  congrArg (fun c : Cipher => Tab.get KeySlot.reset c.slots g) (queueSet_cipher h)

theorem queueSet_counter (idx sub : Nat) : counter u idx sub = counter s idx sub :=
  counter_congr (congrArg Dict.counters (queueSet_dict h)) idx sub

end Set

/-! ### UNWRAP -/

section Congr
variable {s u : State} (hboot : u.boot.areaId = s.boot.areaId) (hp : u.polders = s.polders)

include hboot hp in
theorem openBlob_congr (fn : Nat) (b : Bytes) : openBlob u fn b = openBlob s fn b := by
  unfold openBlob kekOf State.polder
  rw [hboot, hp]

include hp in
theorem blobSlot_congr (hc : u.cipher = s.cipher) (fn : Nat) (x : Blob) : blobSlot u fn x = blobSlot s fn x := by
  have hslot : slotEmpty u = slotEmpty s := by
    funext g
    exact decide_eq_decide.2 (by simp only [State.keySlot, hc])
  unfold blobSlot State.polder
  rw [freeLocalSlot_congr hc hp, globalOf_congr hp, hp, hslot]

end Congr

/-- How an UNWRAP ends its chain. -/
def unwrapDone (fn q first : Nat) (r : Except Nat Nat) (s : State) : State :=
  match r with
  | .ok l => finishChain fn q first stOK l s
  | .error c => finishChain fn q first c 0 s

theorem singleOp_now {op fn q : Nat} {go : Chain → Bytes → State → State} {s s1 : State} {ch : Chain} {b d : Bytes}
    (hc : cipherChain s fn q op = some ch)
    (h : HostBytes s fn q [(eAddr (ch.entries.headD []), eLength (ch.entries.headD []))] b d s1) :
    singleOp op fn q (.now b) go s = go ch d s1 := by
  simp only [singleOp, hc]
  exact hostOp_now h

theorem singleOp_tags {op fn q : Nat} {go : Chain → Bytes → State → State} {s : State} {ch : Chain}
    (hc : cipherChain s fn q op = some ch)
    (hok : readRefused s fn q [(eAddr (ch.entries.headD []), eLength (ch.entries.headD []))] = false)
    (hruns : fnRuns s fn = true) (hlen : hostLen [(eAddr (ch.entries.headD []), eLength (ch.entries.headD []))] ≠ 0) :
    singleOp op fn q .tags go s
      = startReads (queueReq s fn q) (.data ch.first) [(eAddr (ch.entries.headD []), eLength (ch.entries.headD []))] s := by
  simp only [singleOp, hc]
  exact hostOp_tags hok hruns hlen

theorem unwrapOp_now {fn q : Nat} {s s1 : State} {ch : Chain} {b d : Bytes} (hc : cipherChain s fn q 0x18 = some ch)
    (h : HostBytes s fn q [(eAddr (ch.entries.headD []), eLength (ch.entries.headD []))] b d s1) :
    unwrapOp fn q (.now b) s = unwrapDone fn q ch.first (unwrapBlob fn d s1).1 (unwrapBlob fn d s1).2 := by
  refine (singleOp_now hc h).trans ?_
  generalize unwrapBlob fn d s1 = r
  obtain ⟨r | r, y⟩ := r <;> rfl

/-- A refusal is counted, and one at the check of the key raises its event. -/
theorem unwrapRefused_spec (fn st : Nat) (s : State) :
    (unwrapRefused fn st s).wq = s.wq ∧ (unwrapRefused fn st s).cipher = s.cipher
      ∧ counter (unwrapRefused fn st s) 0x4101 5 = satAdd64 (counter s 0x4101 5) 1
      ∧ (st = 3 → (evtStat (unwrapRefused fn st s) 9).testBit 0 = true) := by
  have hcount := counter_countQ 0x4101 5 none none (some fn) s
  unfold unwrapRefused
  dsimp only
  split
  · refine ⟨(signals_raise 288 _).wq.trans (by simp [countFor]), (signals_raise 288 _).cipher.trans (by simp [countFor]), ?_,
      fun _ => raise_sets (n := 288) (by decide) _⟩
    exact ((signals_raise 288 _).counter 0x4101 5).trans hcount
  · next hne => exact ⟨by simp [countFor], by simp [countFor], hcount, fun h => absurd h hne⟩

theorem unwrapDone_error {fn q first st : Nat} {s : State} (h : Tab.wf Queue.reset s.wq.queues = true) :
    (unwrapDone fn q first (.error st) (unwrapRefused fn st s)).cipher = s.cipher
      ∧ counter (unwrapDone fn q first (.error st) (unwrapRefused fn st s)) 0x4101 5 = satAdd64 (counter s 0x4101 5) 1
      ∧ (st = 3 → (evtStat (unwrapDone fn q first (.error st) (unwrapRefused fn st s)) 9).testBit 0 = true)
      ∧ (unwrapDone fn q first (.error st) (unwrapRefused fn st s)).queue fn q
        = { s.queue fn q with chains := endChain (s.queue fn q) first st 0 } := by
  obtain ⟨hwq, hcipher, hcount, hevt⟩ := unwrapRefused_spec fn st s
  have hset := queueSet_finishChain (fn := fn) (q := q) (first := first) (status := st) (result := 0)
    (s := unwrapRefused fn st s) (by rwa [hwq])
  refine ⟨(queueSet_cipher hset).trans hcipher, (queueSet_counter hset _ _).trans hcount, fun h => ?_, ?_⟩
  · rw [evtStat, show (unwrapDone fn q first (.error st) (unwrapRefused fn st s)).evt = _ from queueSet_evt hset]
    exact hevt h
  · rw [← queue_congr hwq]
    exact hset.2.1

section Unwrap
variable {t fn q : Nat} {blob d : Bytes} {ch : Chain} {s s1 : State}

theorem runs_unwrap (hcanon : Canonical s) (hc : cipherChain s fn q 0x18 = some ch)
    (hbytes : HostBytes (advance t s) fn q [(eAddr (ch.entries.headD []), eLength (ch.entries.headD []))] blob d s1) :
    Runs (.unwrap t fn q (some blob)) s (fun u =>
      (∀ (x : Blob) (l g : Nat), openBlob s fn d = .ok x → blobSlot s fn x = .ok l → globalOf s fn 2 l = some g →
        u.keySlot g = { alg := x.alg, usage := x.usage, key := x.key, users := (s.keySlot g).users }
        ∧ (∀ j, j ≠ g → u.keySlot j = s.keySlot j)
        ∧ u.queue fn q = { s.queue fn q with chains := endChain (s.queue fn q) ch.first 0 l })
      ∧ (∀ st : Nat, openBlob s fn d = .error st →
        u.cipher = s.cipher ∧ counter u 0x4101 5 = satAdd64 (counter s 0x4101 5) 1
        ∧ (st = 3 → (evtStat u 9).testBit 0 = true)
        ∧ u.queue fn q = { s.queue fn q with chains := endChain (s.queue fn q) ch.first st 0 })
      ∧ (∀ (x : Blob) (st : Nat), openBlob s fn d = .ok x → blobSlot s fn x = .error st →
        u.cipher = s.cipher ∧ counter u 0x4101 5 = satAdd64 (counter s 0x4101 5) 1
        ∧ u.queue fn q = { s.queue fn q with chains := endChain (s.queue fn q) ch.first st 0 })) := by
  obtain ⟨-, -, -, -, -, -, -, -, -, -, hqueues, ⟨hslots, -⟩, -⟩ := hcanon
  have htr := transmits_readNow hbytes.2.2
  have hwq : s1.wq = s.wq := htr.wq.trans (advance_wq ..)
  have hcipher : s1.cipher = s.cipher := htr.cipher.trans (advance_cipher ..)
  have hp : s1.polders = s.polders := htr.polders.trans (advance_polders ..)
  have hboot : s1.boot.areaId = s.boot.areaId := congrArg Boot.areaId (htr.boot.trans (advance_boot ..))
  have hdict : s1.dict = s.dict := htr.dict.trans (advance_dict ..)
  have hcount : counter s1 0x4101 5 = counter s 0x4101 5 := counter_congr (congrArg Dict.counters hdict) _ _
  have hq1 : s1.queue fn q = s.queue fn q := queue_congr hwq fn q
  have hk1 (j : Nat) : s1.keySlot j = s.keySlot j := congrArg (fun c : Cipher => Tab.get KeySlot.reset c.slots j) hcipher
  have hwf : Tab.wf Queue.reset s1.wq.queues = true := by rwa [hwq]
  have hopen := openBlob_congr hboot hp fn d
  refine ⟨_, congrArg Host.Outcome.next (unwrapOp_now ((cipherChain_advance t s fn q _).trans hc) hbytes), ?_⟩
  cases hblob : openBlob s fn d with
  | error st =>
    rw [hblob] at hopen
    have hun : unwrapBlob fn d s1 = (.error st, unwrapRefused fn st s1) := by simp only [unwrapBlob, hopen]
    rw [hun]
    obtain ⟨h1, h2, h3, h4⟩ := unwrapDone_error (fn := fn) (q := q) (first := ch.first) (st := st) hwf
    refine ⟨fun _ _ _ h => (by cases h), fun st' h => ?_, fun _ _ h => (by cases h)⟩
    cases h
    exact ⟨h1.trans hcipher, by rw [h2, hcount], h3, by rw [h4, hq1]⟩
  | ok x =>
    rw [hblob] at hopen
    have hslot := blobSlot_congr hp hcipher fn x
    cases hplace : blobSlot s fn x with
    | error st =>
      rw [hplace] at hslot
      have hun : unwrapBlob fn d s1 = (.error st, unwrapRefused fn st s1) := by simp only [unwrapBlob, hopen, hslot]
      rw [hun]
      obtain ⟨h1, h2, -, h4⟩ := unwrapDone_error (fn := fn) (q := q) (first := ch.first) (st := st) hwf
      refine ⟨fun x' _ _ h hl => ?_, fun _ h => (by cases h), fun x' st' h hst => ?_⟩
      · cases h
        cases hplace.symm.trans hl
      · cases h
        cases hplace.symm.trans hst
        exact ⟨h1.trans hcipher, by rw [h2, hcount], by rw [h4, hq1]⟩
    | ok l =>
      rw [hplace] at hslot
      refine ⟨fun x' l' g h hl hg => ?_, fun _ h => (by cases h), fun x' st' h hst => ?_⟩
      · cases h
        cases hplace.symm.trans hl
        have hun : unwrapBlob fn d s1 = (.ok l, loadSlot g x s1) := by
          simp only [unwrapBlob, hopen, hslot, globalOf_congr hp, hg]
        rw [hun]
        have hset := queueSet_finishChain (fn := fn) (q := q) (first := ch.first) (status := 0) (result := l)
          (s := loadSlot g x s1) hwf
        refine ⟨(queueSet_keySlot hset g).trans ?_, fun j hj => (queueSet_keySlot hset j).trans ?_, ?_⟩
        · rw [← hk1 g]
          exact keySlot_setKeySlot_same (by rwa [hcipher]) g _
        · rw [← hk1 j]
          exact keySlot_setKeySlot_other _ _ hj
        · rw [← hq1]
          exact hset.2.1
      · cases h
        cases hplace.symm.trans hst

end Unwrap

/-! ### WRAP -/

theorem wrapBlob_congr {s u : State} (hboot : u.boot.areaId = s.boot.areaId) (hp : u.polders = s.polders)
    (fn slot alg usage : Nat) (key : Bytes) : wrapBlob u fn slot alg usage key = wrapBlob s fn slot alg usage key := by
  unfold wrapBlob kekOf State.polder
  rw [hboot, hp]

theorem runs_wrap {t fn q : Nat} {key d b : Bytes} {ch : Chain} {s s1 : State} (hcanon : Canonical s)
    (hc : cipherChain s fn q 0x19 = some ch)
    (hbytes : HostBytes (advance t s) fn q [(eAddr (ch.entries.headD []), eLength (ch.entries.headD []))] key d s1)
    (hb : b = wrapBlob s fn (leField (ch.entries.headD []) 24 2) (byteAt (ch.entries.headD []) 26)
      (leField (ch.entries.headD []) 28 2) d)
    (hok : requestRefused s fn q (cDest (ch.entries.headD [])) b.length = false) (hddr : isDdr (cDest (ch.entries.headD [])) = false) :
    Runs (.wrap t fn q (some key)) s (fun u => u.cipher = s.cipher
      ∧ Writes s fn q (cDest (ch.entries.headD [])) b u
      ∧ u.queue fn q = { s.queue fn q with chains := endChain (s.queue fn q) ch.first 0 b.length }) := by
  obtain ⟨-, -, -, -, -, -, -, -, -, -, hqueues, -⟩ := hcanon
  have htr := transmits_readNow hbytes.2.2
  have hmade : wrapBlob s1 fn (leField (ch.entries.headD []) 24 2) (byteAt (ch.entries.headD []) 26)
      (leField (ch.entries.headD []) 28 2) d = b :=
    (wrapBlob_congr (congrArg Boot.areaId (htr.boot.trans (advance_boot ..))) (htr.polders.trans (advance_polders ..)) ..).trans hb.symm
  have hrun : wrapOp fn q (.now key) (advance t s) = finishChain fn q ch.first stOK b.length
      (queueWrite fn q ch.first (cDest (ch.entries.headD [])) [ch.entries.headD []] b s1) := by
    refine (singleOp_now ((cipherChain_advance t s fn q _).trans hc) hbytes).trans ?_
    dsimp only
    rw [hmade]
  have hok' : requestRefused (advance t s) fn q (cDest (ch.entries.headD [])) b.length = false := by
    rwa [requestRefused_advance]
  have hwrite := transmits_queueWrite (idx := ch.first) (marks := [ch.entries.headD []]) (u := s1)
    ((requestRefused_of_host htr.sameHost ..).trans hok') hddr
  have hall := htr.trans hwrite
  have hset := queueSet_finishChain (fn := fn) (q := q) (first := ch.first) (status := stOK) (result := b.length)
    (s := queueWrite fn q ch.first (cDest (ch.entries.headD [])) [ch.entries.headD []] b s1)
    (by rw [hall.wq, advance_wq]; exact hqueues)
  refine ⟨_, congrArg Host.Outcome.next hrun, ?_, ?_, ?_⟩
  · exact (queueSet_cipher hset).trans (hall.cipher.trans (advance_cipher ..))
  · have hout := (writes_advance ..).1 (writes_queueWrite (idx := ch.first) (marks := [ch.entries.headD []]) htr.sameHost hok' hddr)
    simpa only [Writes, queueSet_out hset] using hout
  · rw [hset.2.1, hall.queue, queue_advance]
    rfl

/-! ### Bytes that are still to be read -/

section Tags
variable {t fn q : Nat} {ch : Chain} {s : State} (hruns : fnRuns s fn = true)
  (hok : readRefused s fn q [(eAddr (ch.entries.headD []), eLength (ch.entries.headD []))] = false)
  (hlen : hostLen [(eAddr (ch.entries.headD []), eLength (ch.entries.headD []))] ≠ 0)
include hruns hok hlen

theorem singleOp_waits {op : Nat} {go : Chain → Bytes → State → State} (hc : cipherChain s fn q op = some ch) :
    let u := singleOp op fn q .tags go (advance t s)
    u = startReads (queueReq s fn q) (.data ch.first) [(eAddr (ch.entries.headD []), eLength (ch.entries.headD []))] (advance t s)
      ∧ u.cipher = s.cipher ∧ u.wq = s.wq := by
  have hu := singleOp_tags (go := go) ((cipherChain_advance t s fn q op).trans hc) ((readRefused_advance t s fn q _).trans hok)
    ((fnRuns_advance t s fn).trans hruns) hlen
  have hframe := Frame.startReads (.of_all rfl) (Frame.refl [.ep] (advance t s)) (queueReq (advance t s) fn q) (.data ch.first)
    [(eAddr (ch.entries.headD []), eLength (ch.entries.headD []))]
  dsimp only
  rw [hu]
  exact ⟨by rw [queueReq_advance], (hframe.cipher (by decide)).trans (advance_cipher ..),
    (hframe.wq (by decide)).trans (advance_wq ..)⟩

end Tags

/-! ### The form of a blob -/

section Form
variable {fn : Nat} {b : Bytes} {s : State}

theorem openBlob_version (h : byteAt b 0 ≠ 1) : openBlob s fn b = .error 0xC := if_pos (.inl h)

/-- A blob of a 32-byte key passes the checks of its form. -/
theorem openBlob_formed (hver : byteAt b 0 = 1) (halg : byteAt b 1 = 2) (hlen : b.length = 56) (husage : beField b 2 2 < 32) :
    ¬(byteAt b 0 ≠ 1 ∨ algKeyLen (byteAt b 1) = 0 ∨ 32 ≤ beField b 2 2 ∨ b.length ≠ algBlobLen (byteAt b 1)) := by
  rw [halg, hlen, hver]
  have hkey : algKeyLen 2 = 32 := rfl
  have hblob : algBlobLen 2 = 56 := rfl
  omega

theorem openBlob_owner (hver : byteAt b 0 = 1) (halg : byteAt b 1 = 2) (hlen : b.length = 56) (husage : beField b 2 2 < 32)
    (hfn : beField b 6 2 ≠ fn) : openBlob s fn b = .error 2 :=
  (if_neg (openBlob_formed hver halg hlen husage)).trans (if_pos hfn)

theorem openBlob_generation (hver : byteAt b 0 = 1) (halg : byteAt b 1 = 2) (hlen : b.length = 56) (husage : beField b 2 2 < 32)
    (hfn : beField b 6 2 = fn) (hgen : beField b 8 4 ≠ (s.polder fn).gen) : openBlob s fn b = .error 0xD :=
  (if_neg (openBlob_formed hver halg hlen husage)).trans ((if_neg (not_not_intro hfn)).trans (if_pos hgen))

theorem openBlob_unwraps (hver : byteAt b 0 = 1) (halg : byteAt b 1 = 2) (hlen : b.length = 56) (husage : beField b 2 2 < 32)
    (hfn : beField b 6 2 = fn) (hgen : beField b 8 4 = (s.polder fn).gen) :
    openBlob s fn b = .error 3 ∨ (Config.kwpUnwrap (kekOf s fn (s.polder fn).gen) (b.drop 16)).isSome = true := by
  cases hun : Config.kwpUnwrap (kekOf s fn (s.polder fn).gen) (b.drop 16) with
  | some key => exact .inr rfl
  | none =>
    refine .inl ?_
    simp only [openBlob, if_neg (openBlob_formed hver halg hlen husage), hfn, hgen, hun, ne_eq, not_true_eq_false, ↓reduceIte]
    rfl

end Form

/-- The header of a blob names version, algorithm, usage, slot and function (spec 12 R401, R402). -/
theorem wrapBlob_header {fn slot alg usage : Nat} {key : Bytes} {s : State} (halg : alg < 256) (husage : usage < 65536)
    (hslot : slot < 65536) (hfn : fn < 65536) :
    byteAt (wrapBlob s fn slot alg usage key) 0 = 1 ∧ byteAt (wrapBlob s fn slot alg usage key) 1 = alg
      ∧ beField (wrapBlob s fn slot alg usage key) 2 2 = usage ∧ beField (wrapBlob s fn slot alg usage key) 4 2 = slot
      ∧ beField (wrapBlob s fn slot alg usage key) 6 2 = fn := by
  have hbyte (n : Nat) : (byteOf n).toNat = n % 256 := BitVec.toNat_ofNat ..
  have hword {n : Nat} (hn : n < 65536) : n / 256 % 256 * 256 + n % 256 = n := by omega
  simp only [wrapBlob, beBytes, List.nil_append, List.cons_append, byteAt, beField, slice, List.getD_cons_zero,
    List.getD_cons_succ, List.drop_succ_cons, List.drop_zero, List.take_succ_cons, List.take_zero, beNat, List.foldl_cons,
    List.foldl_nil, hbyte, Nat.zero_mul, Nat.zero_add, hword husage, hword hslot, hword hfn, Nat.mod_eq_of_lt halg, and_true]
  rfl

/-! ### SLOT_CLEAR -/

section Clear
variable {t fn q g : Nat} {ch : Chain} {s : State} (hcanon : Canonical s) (hc : cipherChain s fn q 0x1A = some ch)
  (hg : globalOf s fn 2 (cSlot (ch.entries.headD [])) = some g)
include hcanon hc hg

theorem runs_slotClear (husers : (s.keySlot g).users = 0) :
    Runs (.slotClear t fn q) s (fun u => u.keySlot g = KeySlot.reset ∧ (∀ j, j ≠ g → u.keySlot j = s.keySlot j)
      ∧ u.queue fn q = { s.queue fn q with chains := endChain (s.queue fn q) ch.first 0 0 }
      ∧ u = { advance t s with cipher := u.cipher, wq := u.wq }) := by
  obtain ⟨-, -, -, -, -, -, -, -, -, -, hqueues, ⟨hslots, -⟩, -⟩ := hcanon
  have hrun : slotClear fn q (advance t s) = finishChain fn q ch.first stOK 0 (clearSlot g (advance t s)) := by
    simp only [slotClear, cipherChain_advance, hc, globalOf_advance, hg, keySlot_advance, husers, ne_eq, not_true_eq_false,
      ↓reduceIte]
  have hset := queueSet_finishChain (fn := fn) (q := q) (first := ch.first) (status := stOK) (result := 0)
    (s := clearSlot g (advance t s)) (by rw [show (clearSlot g (advance t s)).wq = _ from advance_wq s t]; exact hqueues)
  refine ⟨_, congrArg Host.Outcome.next hrun, (queueSet_keySlot hset g).trans ?_, fun j hj => (queueSet_keySlot hset j).trans ?_,
    ?_, rfl⟩
  · exact keySlot_setKeySlot_same (by rwa [advance_cipher]) g _
  · exact (keySlot_setKeySlot_other _ _ hj).trans (keySlot_advance ..)
  · rw [hset.2.1, show (clearSlot g (advance t s)).queue fn q = (advance t s).queue fn q from rfl, queue_advance]
    rfl

theorem runs_slotClear_used (husers : (s.keySlot g).users ≠ 0) :
    Runs (.slotClear t fn q) s (QueueSet fn q { s.queue fn q with
      chains := endChain (s.queue fn q) ch.first stSTATE 0 } (advance t s)) := by
  obtain ⟨-, -, -, -, -, -, -, -, -, -, hqueues, -⟩ := hcanon
  have hrun : slotClear fn q (advance t s) = finishChain fn q ch.first stSTATE 0 (advance t s) := by
    simp only [slotClear, cipherChain_advance, hc, globalOf_advance, hg, keySlot_advance, husers, ne_eq, not_false_eq_true,
      ↓reduceIte]
  rw [← queue_advance s t]
  exact ⟨_, congrArg Host.Outcome.next hrun, queueSet_finishChain (by rwa [advance_wq])⟩

end Clear

end Sys2Proof.Machine

namespace Sys2Proof
open Machine

/-- Settles O28: each entry takes its bytes, then its checks in their order; only UNWRAP and SLOT_CLEAR write a slot. -/
theorem keySlots : Obligations.KeySlots := by
  refine ⟨?_, ?_, ?_, ?_, ?_, ?_, ?_⟩
  · intro t fn q blob d ch s s1 hcanon hc hbytes
    exact runs_unwrap hcanon hc hbytes
  · intro fn b s
    exact ⟨openBlob_version, openBlob_owner, openBlob_generation, openBlob_unwraps⟩
  · intro t fn q key d b ch s s1 hcanon hc hbytes hb hok hddr
    exact runs_wrap hcanon hc hbytes hb hok hddr
  · intro t fn q ch s hcanon hruns hok hlen
    exact ⟨fun hc => ⟨_, rfl, singleOp_waits hruns hok hlen hc⟩, fun hc => ⟨_, rfl, singleOp_waits hruns hok hlen hc⟩⟩
  · intro fn slot alg usage key s halg husage hslot hfn
    exact wrapBlob_header halg husage hslot hfn
  · intro t fn q g ch s hcanon hc hg husers
    exact runs_slotClear hcanon hc hg husers
  · intro t fn q g ch s hcanon hc hg husers
    exact runs_slotClear_used hcanon hc hg husers

end Sys2Proof
end

section
/-! A network message by the checks it meets (spec 02 R69 to R81): what its answer leaves in its session, what a repeat,
another epoch, an old number or a wrong tag comes to. -/

namespace Sys2Proof.Machine
open Sys2Proof

/-! ### Sessions after a message -/

section Sessions
variable {s : State} (hwf : Tab.wf Session.reset s.dict.sessions = true) (n : Nat)

theorem session_setSession_other {j : Nat} (s : State) (n : Nat) (x : Session) (h : j ≠ n) :
    (s.setSession n x).session j = s.session j := Tab.get_set_other (d := Session.reset) _ _ h.symm

theorem session_gmacWork (k j : Nat) (s : State) : (gmacWork k s).session j = s.session j :=
  session_congr (gmacWork_dict_sessions s k) j

/-- Session `n` after it sent one more message. -/
def sentOnce (x : Session) : Session :=
  { x with tx := x.tx + 1, exhausted := x.exhausted || decide (0xFFFFFFFF ≤ x.tx + 1) }

theorem sessions_outbox (l : List OutMsg) (s : State) :
    (modDict (fun d => { d with outbox := d.outbox ++ l }) s).dict.sessions = s.dict.sessions := rfl

theorem counter_outbox (l : List OutMsg) (s : State) (idx sub : Nat) :
    counter (modDict (fun d => { d with outbox := d.outbox ++ l }) s) idx sub = counter s idx sub := rfl

theorem netSend_sessions (port : Option Nat) (key : Bytes) (flags kind reqId index sub ty pa pb : Nat) (data : Bytes) (s : State) :
    (netSend n port key flags kind reqId index sub ty pa pb data s).dict.sessions
      = (s.setSession n (sentOnce (s.session n))).dict.sessions := by
  have hg (k : Nat) : (gmacWork k (nextTx n s).2).dict.sessions = (s.setSession n (sentOnce (s.session n))).dict.sessions :=
    gmacWork_dict_sessions (nextTx n s).2 k
  cases port with
  | none => exact hg _
  | some p => exact (sessions_outbox _ _).trans (hg _)

theorem netSend_counter {idx sub : Nat} (port : Option Nat) (key : Bytes) (flags kind reqId index k ty pa pb : Nat) (data : Bytes)
    (s : State) (h : ∀ m y, counter (gmacWork m y) idx sub = counter y idx sub) :
    counter (netSend n port key flags kind reqId index k ty pa pb data s) idx sub = counter s idx sub := by
  have hg (m : Nat) : counter (gmacWork m (nextTx n s).2) idx sub = counter s idx sub := h m (nextTx n s).2
  cases port with
  | none => exact hg _
  | some p => exact (counter_outbox _ _ _ _).trans (hg _)

include hwf in
theorem session_netSend_same (port : Option Nat) (key : Bytes) (flags kind reqId index sub ty pa pb : Nat) (data : Bytes) :
    (netSend n port key flags kind reqId index sub ty pa pb data s).session n = sentOnce (s.session n) :=
  (session_congr (netSend_sessions ..) n).trans (session_setSession hwf n _)

theorem session_netSend_other {j : Nat} (h : j ≠ n) (port : Option Nat) (key : Bytes)
    (flags kind reqId index sub ty pa pb : Nat) (data : Bytes) (s : State) :
    (netSend n port key flags kind reqId index sub ty pa pb data s).session j = s.session j :=
  (session_congr (netSend_sessions ..) j).trans (session_setSession_other s n _ h)

theorem wf_netSend (hwf : Tab.wf Session.reset s.dict.sessions = true) (port : Option Nat) (key : Bytes)
    (flags kind reqId index sub ty pa pb : Nat) (data : Bytes) :
    Tab.wf Session.reset (netSend n port key flags kind reqId index sub ty pa pb data s).dict.sessions = true := by
  rw [netSend_sessions]
  exact Tab.wf_set (d := Session.reset) n _ hwf

end Sessions

/-- The GMAC of a message is counted under its own two counters. -/
theorem counter_gmacWork {idx sub : Nat} (h2 : objKey idx sub ≠ objKey 0x4101 2) (h3 : objKey idx sub ≠ objKey 0x4101 3)
    (k : Nat) (s : State) : counter (gmacWork k s) idx sub = counter s idx sub :=
  (counter_countQ_other h3 ..).trans (counter_countQ_other h2 ..)

/-! ### What an answer leaves -/

section Answer
variable {h : ReqHead} {s : State} (hn : 1 ≤ h.session ∧ h.session ≤ 64)

/-- What is kept of an answer. -/
def keptAnswer (h : ReqHead) (flags pa pb ty : Nat) (data : Bytes) (s : State) : Kept :=
  { reqId := h.reqId, kind := h.kind, index := h.index, sub := h.sub, data := h.data, flags := flags, paramA := pa,
    paramB := pb, ty := ty, body := data, at_ := s.clock }

include hn

theorem answer_keeps (flags pa pb ty : Nat) (data : Bytes) :
    answer h flags pa pb ty data s = keepResponse h.session (keptAnswer h flags pa pb ty data s)
      (netSend h.session h.port (sessionKey s (s.session h.session)) flags h.kind h.reqId h.index h.sub ty pa pb data s) :=
  (if_neg (by omega)).trans (if_neg (by omega))

theorem session_answer_same (hwf : Tab.wf Session.reset s.dict.sessions = true) (flags pa pb ty : Nat) (data : Bytes) :
    (answer h flags pa pb ty data s).session h.session = { sentOnce (s.session h.session) with
      kept := ((s.session h.session).kept ++ [keptAnswer h flags pa pb ty data s]).drop
        ((s.session h.session).kept.length + 1 - 8) } := by
  rw [answer_keeps hn]
  refine (session_setSession (wf_netSend h.session hwf ..) _ _).trans ?_
  rw [session_netSend_same hwf]
  rfl

theorem session_answer_other {j : Nat} (hj : j ≠ h.session) (flags pa pb ty : Nat) (data : Bytes) :
    (answer h flags pa pb ty data s).session j = s.session j := by
  rw [answer_keeps hn]
  exact (session_setSession_other _ _ _ hj).trans (session_netSend_other _ hj ..)

theorem counter_answer {idx sub : Nat} (hc : ∀ m y, counter (gmacWork m y) idx sub = counter y idx sub) (flags pa pb ty : Nat)
    (data : Bytes) : counter (answer h flags pa pb ty data s) idx sub = counter s idx sub := by
  rw [answer_keeps hn]
  exact netSend_counter _ _ _ _ _ _ _ _ _ _ _ _ _ hc

end Answer

/-! ### What its admission leaves -/

section Admitted
variable (t : Nat) (b : Bytes) (s : State)

theorem session_netAdmitted_other {j : Nat} (h : j ≠ (parseMsg b 16).session) : (netAdmitted t b s).session j = s.session j :=
  (session_congr (count_dict_sessions _ _ _) j).trans
    ((session_setSession_other _ _ _ h).trans (session_congr (netMetered_dict_sessions ..) j))

theorem counter_netMetered {idx sub : Nat} (hc : ∀ m y, counter (gmacWork m y) idx sub = counter y idx sub) :
    counter (netMetered t b s) idx sub = counter s idx sub := hc _ _

theorem counter_netAdmitted : counter (netAdmitted t b s) 0x1110 1 = satAdd64 (counter s 0x1110 1) 1 := by
  refine (counter_countQ ..).trans (congrArg (satAdd64 · 1) ?_)
  exact counter_netMetered t b s (counter_gmacWork (by decide) (by decide))

end Admitted

theorem windowOk_windowPut (x : Session) (q : Nat) : windowOk (windowPut x q) q = false := by
  unfold windowPut
  split
  · next hlt =>
    have hodd : (x.rxMap * 2 ^ min (q - x.rxHigh) 64 + 1) % 2 = 1 := by
      have hmin : min (q - x.rxHigh) 64 = (min (q - x.rxHigh) 64 - 1) + 1 := by omega
      rw [hmin, Nat.pow_succ, ← Nat.mul_assoc]
      omega
    simp [windowOk, hodd]
  · next hle =>
    simp [windowOk, hle, bitSet]

theorem windowPut_rxHigh (x : Session) (q : Nat) : (windowPut x q).rxHigh = max x.rxHigh q := by
  unfold windowPut
  split
  · next h => exact (max_eq_right (Nat.le_of_lt h)).symm
  · next h => exact (max_eq_left (Nat.not_lt.1 h)).symm

end Sys2Proof.Machine
end

section
/-! READ over the network, and what the tag, the epoch, the window and a repeat make of it (spec 02 R71 to R81). -/

namespace Sys2Proof.Machine
open Sys2Proof

/-! ### An answer to a request that was admitted -/

/-- Where the state differs from `s` in no way that an answer reads, the answer is the session's next message. -/
theorem sends_answer_of {s y : State} {hd : ReqHead} (hx : KeepsNet s y) (hn : 1 ≤ hd.session ∧ hd.session ≤ 64)
    (hkey : (y.session hd.session).keySlot = (s.session hd.session).keySlot)
    (htx : (y.session hd.session).tx = (s.session hd.session).tx) (hout : y.dict.outbox = s.dict.outbox)
    (flags pa pb ty : Nat) (data : Bytes) :
    Sends s (answer hd flags pa pb ty data y) hd.session hd.port flags hd.kind hd.reqId ((s.session hd.session).tx + 1)
      hd.index hd.sub ty pa pb data := by
  refine hx.sends hkey hout ?_
  rw [← htx]
  exact sends_answer hn flags pa pb ty data

theorem mem_keptAnswer {l : List Kept} {k : Kept} : k ∈ (l ++ [k]).drop (l.length + 1 - 8) := by
  rw [List.drop_append_of_le_length (by omega)]
  exact List.mem_append_right _ (List.mem_singleton_self _)

section Read
variable {t : Nat} {f : Bool} {port : Option Nat} {addr b : Bytes} {s : State}
  (hwf : Tab.wf Session.reset s.dict.sessions = true)

include hwf in
/-- What an answer to a request that was admitted leaves. -/
theorem answered_net (hopen : 1 ≤ (parseMsg b 16).session ∧ (parseMsg b 16).session ≤ 64) (pa pb ty : Nat) (data : Bytes) :
    let u := answer (reqHead (netReq s (parseMsg b 16).session port f (parseMsg b 16))) flagResponse pa pb ty data (netAdmitted t b s)
    (u.session (parseMsg b 16).session).tx = (s.session (parseMsg b 16).session).tx + 1
    ∧ (u.session (parseMsg b 16).session).rxHigh = max (s.session (parseMsg b 16).session).rxHigh (parseMsg b 16).seq
    ∧ windowOk (u.session (parseMsg b 16).session) (parseMsg b 16).seq = false
    ∧ (∃ k ∈ (u.session (parseMsg b 16).session).kept, k.reqId = (parseMsg b 16).reqId ∧ k.body = data)
    ∧ counter u 0x1110 1 = satAdd64 (counter s 0x1110 1) 1
    ∧ (∀ n, n ≠ (parseMsg b 16).session → u.session n = s.session n) := by
  intro u
  have hsess := netAdmitted_session t b s hwf
  have hsame : u.session (parseMsg b 16).session = _ :=
    session_answer_same (h := reqHead (netReq s (parseMsg b 16).session port f (parseMsg b 16)))
      (s := netAdmitted t b s) hopen ((keepsKey_netAdmitted s).wf hwf) flagResponse pa pb ty data
  refine ⟨?_, ?_, ?_, ⟨keptAnswer (reqHead (netReq s (parseMsg b 16).session port f (parseMsg b 16))) flagResponse pa
    pb ty data (netAdmitted t b s), ?_, rfl, rfl⟩, ?_, fun n hn => ?_⟩
  · rw [hsame]
    show ((netAdmitted t b s).session (parseMsg b 16).session).tx + 1 = _
    rw [hsess, windowPut_tx]
  · rw [hsame]
    show ((netAdmitted t b s).session (parseMsg b 16).session).rxHigh = _
    rw [hsess, windowPut_rxHigh]
  · rw [hsame]
    show windowOk { sentOnce ((netAdmitted t b s).session (parseMsg b 16).session) with kept := _ } _ = false
    rw [hsess]
    exact windowOk_windowPut (s.session (parseMsg b 16).session) (parseMsg b 16).seq
  · rw [hsame]
    exact mem_keptAnswer
  · exact (counter_answer hopen (counter_gmacWork (by decide) (by decide)) flagResponse pa pb ty data).trans (counter_netAdmitted t b s)
  · exact (session_answer_other hopen hn flagResponse pa pb ty data).trans (session_netAdmitted_other t b s hn)

/-- What a wrong tag leaves (spec 02 R76). -/
theorem badTag_spec {x : State} (hx : x = authFail 2 (count 0x4101 4 (netMetered t b s))) :
    counter x 0x1110 2 = satAdd64 (counter s 0x1110 2) 1 ∧ counter x 0x4101 4 = satAdd64 (counter s 0x4101 4) 1
      ∧ (evtStat x 0).testBit 3 = true ∧ ∀ n, x.session n = s.session n := by
  subst hx
  have hmeter (i k : Nat) (h2 : objKey i k ≠ objKey 0x4101 2) (h3 : objKey i k ≠ objKey 0x4101 3) :
      counter (netMetered t b s) i k = counter s i k := counter_netMetered t b s (counter_gmacWork h2 h3)
  refine ⟨?_, ?_, raise_sets (n := 3) (by decide) _, fun n => ?_⟩
  · refine ((signals_raise 3 _).counter 0x1110 2).trans ((counter_countQ ..).trans (congrArg (satAdd64 · 1) ?_))
    exact (counter_countQ_other (by decide) ..).trans (hmeter _ _ (by decide) (by decide))
  · refine ((signals_raise 3 _).counter 0x4101 4).trans ((counter_countQ_other (by decide) ..).trans ((counter_countQ ..).trans ?_))
    exact congrArg (satAdd64 · 1) (hmeter _ _ (by decide) (by decide))
  · refine session_congr ?_ n
    simp [authFail, netMetered_dict_sessions]

/-- A READ that its row and its role allow, of a value that is kept (spec 02 R71). -/
theorem readValue_cfg {q : Req} {x : State} {r : ObjRow} (hd : objDesc q.msg.index q.msg.sub = some r) (hacc : r.acc = .rwp)
    (h12 : 12 < q.msg.index) (hnonce : q.msg.index ≠ 0x1421) (hdma : q.msg.index ≠ 0x1440) (hsub : q.msg.sub ≠ 0)
    (hrole : r.rd ≤ q.role) (hty : q.msg.ty = 0 ∨ q.msg.ty = r.ty) {v : Bytes} (hv : cfg x q.msg.index q.msg.sub = v)
    (hlen : v.length ≤ q.limit) : readValue q x = (x, .ok 0 v.length r.ty v) := by
  have hvalue : objValue x q.session q.msg.index q.msg.sub r = v := by
    have hlow : ¬(1 ≤ q.msg.index ∧ q.msg.index ≤ 12) := by omega
    simp only [hv, objValue, hlow, hsub, false_and, hacc, hnonce, hdma, reduceCtorEq, ↓reduceIte]
  have haccess : readAccess q r = [] := readAccess_nil (by simp [hacc]) (by simp [hacc]) hty hrole
  simp only [readValue, hd, hvalue, haccess, abortIf, Nat.not_lt.2 hlen, decide_false, Bool.false_eq_true, ↓reduceIte, List.append_nil]
  rfl

include hwf

theorem runs_read_net {r : ObjRow} (ha : NetAsks s t port addr b 1) (hfresh : NetFresh s b)
    (hd : objDesc (parseMsg b 16).index (parseMsg b 16).sub = some r) (hacc : r.acc = .rwp) (h12 : 12 < (parseMsg b 16).index)
    (hnonce : (parseMsg b 16).index ≠ 0x1421) (hdma : (parseMsg b 16).index ≠ 0x1440) (hsub : (parseMsg b 16).sub ≠ 0)
    (hrole : r.rd ≤ netRole (advance t s) (parseMsg b 16).session) (hty : (parseMsg b 16).ty = 0 ∨ (parseMsg b 16).ty = r.ty)
    (hlen : (cfg s (parseMsg b 16).index (parseMsg b 16).sub).length ≤ 1356) :
    Runs (.read ⟨t, .net port addr b, f⟩) s (fun u =>
      (NetTag s b → Sends s u (parseMsg b 16).session port 1 1 (parseMsg b 16).reqId
            ((s.session (parseMsg b 16).session).tx + 1) (parseMsg b 16).index (parseMsg b 16).sub r.ty 0
            (cfg s (parseMsg b 16).index (parseMsg b 16).sub).length (cfg s (parseMsg b 16).index (parseMsg b 16).sub)
        ∧ (u.session (parseMsg b 16).session).tx = (s.session (parseMsg b 16).session).tx + 1
        ∧ (u.session (parseMsg b 16).session).rxHigh = max (s.session (parseMsg b 16).session).rxHigh (parseMsg b 16).seq
        ∧ windowOk (u.session (parseMsg b 16).session) (parseMsg b 16).seq = false
        ∧ (∃ k ∈ (u.session (parseMsg b 16).session).kept, k.reqId = (parseMsg b 16).reqId
            ∧ k.body = cfg s (parseMsg b 16).index (parseMsg b 16).sub)
        ∧ counter u 0x1110 1 = satAdd64 (counter s 0x1110 1) 1
        ∧ (∀ n, n ≠ (parseMsg b 16).session → u.session n = s.session n))
      ∧ (¬ NetTag s b → counter u 0x1110 2 = satAdd64 (counter s 0x1110 2) 1
        ∧ counter u 0x4101 4 = satAdd64 (counter s 0x4101 4) 1 ∧ (evtStat u 0).testBit 3 = true
        ∧ ∀ n, u.session n = s.session n)) := by
  have hwf' : Tab.wf Session.reset (advance t s).dict.sessions = true := by rwa [advance_dict]
  have ha' := netAsks_advance (t := t) ha
  have hmine : kindIs 1 (parseMsg b 16) = true := by
    obtain ⟨-, -, hkind, -⟩ := ha
    rw [kindIs, hkind]
    rfl
  have hcount (i k : Nat) : counter (advance t s) i k = counter s i k := counter_congr (congrArg Dict.counters (advance_dict s t)) i k
  refine ⟨netServe (kindIs 1) readValue (fun _ st => st) f t port addr b (advance t s), rfl, fun ht => ?_, fun ht => ?_⟩
  · have hx := keepsNet_netAdmitted t b (advance t s)
    have hcfg : cfg (netAdmitted t b (advance t s)) (parseMsg b 16).index (parseMsg b 16).sub
        = cfg s (parseMsg b 16).index (parseMsg b 16).sub := (hx.cfg _ _).trans (cfg_advance ..)
    have hread := readValue_cfg (q := netReq (advance t s) (parseMsg b 16).session port f (parseMsg b 16))
      (x := netAdmitted t b (advance t s)) hd hacc h12 hnonce hdma hsub hrole hty hcfg hlen
    rw [netServe_ok hwf' ha' (freshRequest_advance t hfresh) (netTag_advance.2 ht) hmine hread]
    have hopen : 1 ≤ (parseMsg b 16).session ∧ (parseMsg b 16).session ≤ 64 := by
      obtain ⟨-, -, -, -, -, -, -, -, hopen, -⟩ := ha'
      exact sessionOpen_range hopen
    obtain ⟨htx, hhigh, hwindow, hkept, hone, hothers⟩ := answered_net (t := t) (port := port) (f := f) hwf' hopen 0
      (cfg s (parseMsg b 16).index (parseMsg b 16).sub).length r.ty (cfg s (parseMsg b 16).index (parseMsg b 16).sub)
    have hsend := sends_advance.1 (sends_admitted (f := f) hwf' ha' flagResponse 0
      (cfg s (parseMsg b 16).index (parseMsg b 16).sub).length r.ty (cfg s (parseMsg b 16).index (parseMsg b 16).sub))
    rw [session_advance] at htx hhigh hsend
    rw [hcount] at hone
    exact ⟨hsend, htx, hhigh, hwindow, hkept, hone, fun n hn => (hothers n hn).trans (session_advance t n s)⟩
  · rw [netServe_badTag _ _ _ f ha' hmine fun h => ht (netTag_advance.1 h)]
    obtain ⟨h1, h2, h3, h4⟩ := badTag_spec (t := t) (b := b) (s := advance t s) rfl
    exact ⟨by rw [h1, hcount], by rw [h2, hcount], h3, fun n => (h4 n).trans (session_advance t n s)⟩

end Read

end Sys2Proof.Machine
end

section
/-! Network messages that are repeats, of another epoch, of an old number, or discarded before their tag is looked at
(spec 02 R70 to R81). -/

namespace Sys2Proof.Machine
open Sys2Proof

/-! ### Past the tag -/

section Tagged
variable {t : Nat} {f : Bool} {port : Option Nat} {addr b : Bytes} {s : State}
  (hwf : Tab.wf Session.reset s.dict.sessions = true) (ha : NetAsks s t port addr b 1)
include ha

theorem read_mine : kindIs 1 (parseMsg b 16) = true := by
  obtain ⟨-, -, hkind, -⟩ := ha
  rw [kindIs, hkind]
  rfl

theorem read_range : 1 ≤ (parseMsg b 16).session ∧ (parseMsg b 16).session ≤ 64 := by
  obtain ⟨-, -, -, -, -, -, -, -, hopen, -⟩ := ha
  exact sessionOpen_range hopen

include hwf

theorem netServe_read_repeat {k : Kept} (ht : NetTag s b) (hepoch : (parseMsg b 16).epoch = s.dict.epoch)
    (hwindow : windowOk (s.session (parseMsg b 16).session) (parseMsg b 16).seq = true)
    (hkept : (s.session (parseMsg b 16).session).kept.find? (fun x => sameReq (parseMsg b 16) x && keptLive s x) = some k) :
    Sends s (netServe (kindIs 1) readValue (fun _ st => st) f t port addr b s) (parseMsg b 16).session port k.flags k.kind
        k.reqId ((s.session (parseMsg b 16).session).tx + 1) k.index k.sub k.ty k.paramA k.paramB k.body
      ∧ ((netServe (kindIs 1) readValue (fun _ st => st) f t port addr b s).session (parseMsg b 16).session).kept
        = (s.session (parseMsg b 16).session).kept := by
  have hx := keepsNet_netAdmitted t b s
  have hsess := netAdmitted_session t b s hwf
  have hfind : ((netAdmitted t b s).session (parseMsg b 16).session).kept.find?
      (fun x => sameReq (parseMsg b 16) x && keptLive (netAdmitted t b s) x) = some k := by
    simpa only [hsess, windowPut_kept, hx.keptLive] using hkept
  have hserve : netServe (kindIs 1) readValue (fun _ st => st) f t port addr b s
      = netSend (parseMsg b 16).session port (sessionKey (netAdmitted t b s) ((netAdmitted t b s).session (parseMsg b 16).session))
          k.flags k.kind k.reqId k.index k.sub k.ty k.paramA k.paramB k.body (netAdmitted t b s) := by
    rw [netServe_fresh _ _ _ f ha (read_mine ha) ht hepoch hwindow]
    simp only [netCarry, hfind]
  rw [hserve]
  refine ⟨hx.sends (by rw [hsess, windowPut_keySlot]) (netAdmitted_dict_outbox t b s) ?_, ?_⟩
  · rw [← windowPut_tx (s.session (parseMsg b 16).session) (parseMsg b 16).seq, ← hsess]
    exact sends_netSend ..
  · rw [session_netSend_same ((keepsKey_netAdmitted s).wf hwf), hsess]
    exact windowPut_kept ..

omit hwf in
theorem netServe_read_epoch (ht : NetTag s b) (hepoch : (parseMsg b 16).epoch ≠ s.dict.epoch) :
    netServe (kindIs 1) readValue (fun _ st => st) f t port addr b s
      = epochAnswer t (parseMsg b 16).session port (parseMsg b 16) (netMetered t b s) := by
  rw [netServe_asked _ _ _ _ ha (read_mine ha)]
  exact (if_neg (not_not_intro ht)).trans (if_pos hepoch)

omit hwf in
theorem netServe_read_old (ht : NetTag s b) (hepoch : (parseMsg b 16).epoch = s.dict.epoch)
    (hold : windowOk (s.session (parseMsg b 16).session) (parseMsg b 16).seq = false) :
    netServe (kindIs 1) readValue (fun _ st => st) f t port addr b s = authFail 3 (netMetered t b s) := by
  rw [netServe_asked _ _ _ _ ha (read_mine ha)]
  refine (if_neg (not_not_intro ht)).trans ((if_neg (not_not_intro hepoch)).trans (if_pos ?_))
  rw [hold]
  rfl

end Tagged

/-! ### The answer to another epoch -/

section Epoch
variable {t n : Nat} {port : Option Nat} {m : Msg} {s : State}

theorem epochAnswer_counter (h : ∀ k y, counter (gmacWork k y) 0x1110 5 = counter y 0x1110 5) :
    counter (epochAnswer t n port m s) 0x1110 5 = satAdd64 (counter s 0x1110 5) 1 := by
  have hone := counter_countQ 0x1110 5 none none none s
  unfold epochAnswer
  dsimp only
  exact iteInduction (motive := fun y => counter y 0x1110 5 = _)
    (fun _ => (netSend_counter _ _ _ _ _ _ _ _ _ _ _ _ _ h).trans hone) fun _ => hone

theorem epochAnswer_due (hwf : Tab.wf Session.reset s.dict.sessions = true) (hnone : (s.session n).epochAnswer = none) :
    Sends s (epochAnswer t n port m s) n port flagAbort m.kind m.reqId ((s.session n).tx + 1) m.index m.sub 0 8 0 []
      ∧ ((epochAnswer t n port m s).session n).epochAnswer = some t := by
  have hs : (count 0x1110 5 s).session n = s.session n := session_congr (count_dict_sessions ..) n
  have hwf' : Tab.wf Session.reset (count 0x1110 5 s).dict.sessions = true := by rwa [count_dict_sessions]
  have hset := session_setSession hwf' n { s.session n with epochAnswer := some t }
  have hrun : epochAnswer t n port m s = netSend n port (sessionKey (count 0x1110 5 s) (s.session n)) flagAbort m.kind m.reqId
      m.index m.sub 0 aSTATE 0 [] ((count 0x1110 5 s).setSession n { s.session n with epochAnswer := some t }) := by
    simp only [epochAnswer, hs, hnone, ↓reduceIte]
  have hkey : sessionKey (count 0x1110 5 s) (s.session n)
      = sessionKey ((count 0x1110 5 s).setSession n { s.session n with epochAnswer := some t })
          (((count 0x1110 5 s).setSession n { s.session n with epochAnswer := some t }).session n) := by
    rw [hset]
    rfl
  have hx : KeepsNet s ((count 0x1110 5 s).setSession n { s.session n with epochAnswer := some t }) :=
    (keepsNet_count ..).trans (keepsNet_setSession ..)
  rw [hrun]
  refine ⟨?_, ?_⟩
  · rw [hkey]
    refine hx.sends (by rw [hset]) ((count_dict_outbox ..) :) ?_
    have htx : (((count 0x1110 5 s).setSession n { s.session n with epochAnswer := some t }).session n).tx = (s.session n).tx := by
      rw [hset]
    rw [← htx]
    exact sends_netSend ..
  · rw [session_netSend_same (Tab.wf_set (d := Session.reset) n _ hwf'), hset]
    rfl

theorem epochAnswer_early {e : Nat} (hsome : (s.session n).epochAnswer = some e) (hearly : t < e + 10 ^ 14) :
    epochAnswer t n port m s = count 0x1110 5 s := by
  have hs : (count 0x1110 5 s).session n = s.session n := session_congr (count_dict_sessions ..) n
  simp only [epochAnswer, hs, hsome, Nat.not_le.2 hearly, decide_false, Bool.false_eq_true, ↓reduceIte]

end Epoch

/-! ### Discards before the tag -/

section Discards
variable {t : Nat} {f : Bool} {port : Option Nat} {addr b : Bytes} {s : State} (hkind : (parseMsg b 16).kind = 1)
include hkind

theorem kindIs_one : kindIs 1 (parseMsg b 16) = true := decide_eq_true hkind

theorem netServe_read_closed (h : fdpPlace s port addr = false ∨ s.dict.fdpOpen = false) :
    netServe (kindIs 1) readValue (fun _ st => st) f t port addr b s = s := by
  unfold netServe
  dsimp only
  rw [kindIs_one hkind, if_neg (by simp), if_pos (by obtain h | h := h <;> simp [h])]

variable (hplace : fdpPlace s port addr = true) (hopen : s.dict.fdpOpen = true)
include hplace hopen

theorem netServe_read_busy (h : s.mbx.restart = true ∨ rateRoom t s = false) :
    netServe (kindIs 1) readValue (fun _ st => st) f t port addr b s = count 0x1110 6 s := by
  unfold netServe
  dsimp only
  rw [kindIs_one hkind, if_neg (by simp), if_neg (by simp [hplace, hopen])]
  obtain h | h := h
  · rw [if_pos h]
  · rw [h, Bool.not_false, if_pos rfl, ite_self]

variable (hup : s.mbx.restart = false) (hrate : rateRoom t s = true)
include hup hrate

omit hkind in
theorem netServe_read_malformed (h : headerOk (parseMsg b 16) b.length 44 = false ∨ 1400 < b.length) :
    netServe (kindIs 1) readValue (fun _ st => st) f t port addr b s = count 0x1110 4 (rateTake t s) := by
  have hbad : (headerOk (parseMsg b 16) b.length 44 && decide (b.length ≤ 1400)) = false := by
    obtain h | h := h
    · rw [h]
      rfl
    · rw [decide_eq_false (Nat.not_le.2 h), Bool.and_false]
  unfold netServe
  dsimp only
  rw [hbad]
  simp only [hplace, hopen, hup, hrate, Bool.false_and, Bool.not_true, Bool.not_false, Bool.or_self, Bool.false_eq_true, ↓reduceIte]

variable (hhead : headerOk (parseMsg b 16) b.length 44 = true) (hlen : b.length ≤ 1400)
include hhead hlen

theorem netServe_read_farm (hsession : sessionOpen s (parseMsg b 16).session = true) (hfarm : farmFree s = false) :
    netServe (kindIs 1) readValue (fun _ st => st) f t port addr b s = s := by
  unfold netServe
  simp only [kindIs_one hkind, hplace, hopen, hup, hrate, hhead, hlen, hsession, hfarm, decide_true, Bool.and_self, Bool.not_true,
    Bool.not_false, Bool.and_false, Bool.or_self, Bool.false_eq_true, ↓reduceIte]

theorem netServe_read_stranger (h : sessionOpen s (parseMsg b 16).session = false
      ∨ (farmFree s = true ∧ cfg s (0x114F + (parseMsg b 16).session) 4 ≠ zeros 16
        ∧ cfg s (0x114F + (parseMsg b 16).session) 4 ≠ addr)) :
    netServe (kindIs 1) readValue (fun _ st => st) f t port addr b s = authFail 2 (rateTake t s) := by
  have hfree : ¬(true && sessionOpen s (parseMsg b 16).session && !farmFree s) = true := by
    obtain h | ⟨h, -⟩ := h <;> simp [h]
  have hopen' : sessionOpen (rateTake t s) (parseMsg b 16).session = sessionOpen s (parseMsg b 16).session := rfl
  have hcfg : cfg (rateTake t s) (0x114F + (parseMsg b 16).session) 4 = cfg s (0x114F + (parseMsg b 16).session) 4 := rfl
  unfold netServe
  simp only [kindIs_one hkind, hplace, hopen, hup, hrate, hhead, hlen, hfree, hopen', hcfg, decide_true, Bool.and_self,
    Bool.not_true, Bool.and_false, Bool.or_self, Bool.false_eq_true, ↓reduceIte]
  obtain h | ⟨-, h⟩ := h
  · rw [h]
    rfl
  · rw [if_pos h, ite_self]

end Discards

end Sys2Proof.Machine
end

section
/-! Requests over the network that the role refuses, subscriptions, their notices, and kept responses
(spec 02 R73, R74, R81, R84, R85); then the settled obligation. -/

namespace Sys2Proof.Machine
open Sys2Proof

/-! ### What an admission leaves -/

/-- From `s` a message was metered and admitted: its session's window, the meters and what an occurrence sets changed. -/
structure Admits (s u : State) : Prop where
  rest : { u with
    ep := s.ep, evt := s.evt, out := s.out
    dict := { u.dict with
      sessions := s.dict.sessions, second := s.dict.second, inSecond := s.dict.inSecond, counters := s.dict.counters } } = s

theorem Admits.trans {s u v : State} (h : Admits s u) (g : Admits u v) : Admits s v := by
  have k := congrArg (fun x : State => { x with
    ep := s.ep, evt := s.evt, out := s.out
    dict := { x.dict with
      sessions := s.dict.sessions, second := s.dict.second, inSecond := s.dict.inSecond, counters := s.dict.counters } }) g.rest
  exact ⟨k.trans h.rest⟩

theorem Signals.admits {s u : State} (h : Signals s u) : Admits s u :=
  ⟨congrArg (fun x : State => { x with
    dict := { x.dict with
      sessions := s.dict.sessions, second := s.dict.second, inSecond := s.dict.inSecond, counters := s.dict.counters } }) h.rest⟩

theorem admits_countQ (idx sub n : Nat) (port tc polder : Option Nat) (s : State) : Admits s (countQ idx sub n port tc polder s) := by
  unfold countQ
  split
  · exact ⟨rfl⟩
  · exact Admits.trans (u := bumpObj idx sub n s) ⟨rfl⟩ (signals_countEv ..).admits

theorem admits_netAdmitted (t : Nat) (b : Bytes) (s : State) : Admits s (netAdmitted t b s) := by
  have hrate : Admits s (rateTake t s) := ⟨rfl⟩
  have hmeter : Admits s (netMetered t b s) := (hrate.trans (admits_countQ ..)).trans (admits_countQ ..)
  have hset (x : Session) (y : State) (n : Nat) : Admits y (y.setSession n x) := ⟨rfl⟩
  unfold netAdmitted
  exact (hmeter.trans (hset _ _ _)).trans (admits_countQ ..)

section Congr
variable {s u : State} (h : Admits s u)
include h

theorem Admits.eq : u = { s with
    ep := u.ep, evt := u.evt, out := u.out
    dict := { s.dict with
      sessions := u.dict.sessions, second := u.dict.second, inSecond := u.dict.inSecond, counters := u.dict.counters } } :=
  congrArg (fun x : State => { x with
    ep := u.ep, evt := u.evt, out := u.out
    dict := { x.dict with
      sessions := u.dict.sessions, second := u.dict.second, inSecond := u.dict.inSecond, counters := u.dict.counters } }) h.rest

theorem Admits.stateAborts (idx sub : Nat) : stateAborts u idx sub = stateAborts s idx sub := by
  rw [h.eq]
  rfl

theorem Admits.ownerAborts (who idx sub : Nat) (v : Bytes) : ownerAborts u who idx sub v = ownerAborts s who idx sub v := by
  rw [h.eq]
  rfl

end Congr

/-! ### Refused for the role (R73) -/

theorem firstAbort_role {l : List Nat} (h : aROLE ∈ l) (hl : ∀ a ∈ l, a = aROLE ∨ a = aTYPE ∨ a = aRANGE) : firstAbort l = some 5 := by
  have hno (c : Nat) (hc : c ≠ aROLE ∧ c ≠ aTYPE ∧ c ≠ aRANGE) : l.contains c = false := by
    rw [List.contains_eq_mem, decide_eq_false_iff_not]
    intro hm
    obtain h | h | h := hl c hm
    · exact hc.1 h
    · exact hc.2.1 h
    · exact hc.2.2 h
  have hstate := hno aSTATE (by decide)
  have hobject := hno aNO_OBJECT (by decide)
  have hsub := hno aNO_SUBINDEX (by decide)
  have hrole : l.contains aROLE = true := by rwa [List.contains_eq_mem, decide_eq_true_eq]
  simp only [firstAbort, abortOrder, List.find?_cons, hstate, hobject, hsub, hrole]
  rfl

theorem mem_abortIf {c : Bool} {a x : Nat} (h : x ∈ abortIf c a) : x = a := by
  cases c with
  | false => cases h
  | true => exact List.mem_singleton.1 h

theorem mem_abortIf_true {c : Bool} {a : Nat} (h : c = true) : a ∈ abortIf c a := by
  subst h
  exact List.mem_singleton_self a

section Refused
variable {t : Nat} {f : Bool} {port : Option Nat} {addr b : Bytes} {s : State} {r : ObjRow}
  (hwf : Tab.wf Session.reset s.dict.sessions = true) (hfresh : NetFresh s b)
  (hd : objDesc (parseMsg b 16).index (parseMsg b 16).sub = some r)
include hwf hfresh hd

theorem runs_read_role (ha : NetAsks s t port addr b 1) (hwo : r.acc ≠ .wo) (hact : r.acc ≠ .act)
    (hrole : netRole (advance t s) (parseMsg b 16).session < r.rd) :
    Runs (.read ⟨t, .net port addr b, f⟩) s (fun u => u.dict.vals = s.dict.vals ∧ (NetTag s b →
      Sends s u (parseMsg b 16).session port 3 1 (parseMsg b 16).reqId ((s.session (parseMsg b 16).session).tx + 1)
        (parseMsg b 16).index (parseMsg b 16).sub 0 5 0 [])) := by
  have hserve : readValue (netReq (advance t s) (parseMsg b 16).session port f (parseMsg b 16)) (netAdmitted t b (advance t s))
      = (netAdmitted t b (advance t s), .abort 5) := by
    have hlist (d : Bool) : firstAbort (readAccess (netReq (advance t s) (parseMsg b 16).session port f (parseMsg b 16)) r
        ++ abortIf d aTYPE) = some 5 := by
      have hlow : decide (netRole (advance t s) (parseMsg b 16).session < r.rd) = true := decide_eq_true hrole
      refine firstAbort_role (List.mem_append_left _ ?_) fun a ha => ?_
      · exact List.mem_append_left _ (List.mem_append_right _ (mem_abortIf_true hlow))
      · simp only [readAccess, hwo, hact, or_self, decide_false, List.mem_append] at ha
        obtain ((ha | ha) | ha) | ha := ha
        · cases ha
        · exact .inl (mem_abortIf ha)
        · exact .inr (.inl (mem_abortIf ha))
        · exact .inr (.inl (mem_abortIf ha))
    simp only [readValue]
    rw [show objDesc (netReq (advance t s) (parseMsg b 16).session port f (parseMsg b 16)).msg.index
      (netReq (advance t s) (parseMsg b 16).session port f (parseMsg b 16)).msg.sub = some r from hd]
    dsimp only
    rw [hlist]
  have h := netServe_abort_spec (f := f) (by rwa [advance_dict]) (netAsks_advance ha) (mine := kindIs 1)
    (post := fun _ st => st) (read_mine ha) (freshRequest_advance t hfresh) hserve
  refine ⟨_, rfl, h.1.vals.trans (by rw [advance_dict]), fun ht => ?_⟩
  have hsend := sends_advance.1 (h.2 (netTag_advance.2 ht))
  rwa [session_advance] at hsend

theorem runs_write_role (ha : NetAsks s t port addr b 2) (hown : ownWrite (parseMsg b 16) = false) (hacc : r.acc = .rw ∨ r.acc = .rwp)
    (hstate : stateAborts (advance t s) (parseMsg b 16).index (parseMsg b 16).sub = false)
    (howner : ownerAborts (advance t s) (parseMsg b 16).session (parseMsg b 16).index (parseMsg b 16).sub (parseMsg b 16).data = [])
    (hrole : netRole (advance t s) (parseMsg b 16).session < r.wr) :
    Runs (.write ⟨t, .net port addr b, f⟩) s (fun u => u.dict.vals = s.dict.vals ∧ (NetTag s b →
      Sends s u (parseMsg b 16).session port 3 2 (parseMsg b 16).reqId ((s.session (parseMsg b 16).session).tx + 1)
        (parseMsg b 16).index (parseMsg b 16).sub 0 5 0 [])) := by
  have hadm := admits_netAdmitted t b (advance t s)
  have hserve : writeOne (netReq (advance t s) (parseMsg b 16).session port f (parseMsg b 16)) (netAdmitted t b (advance t s))
      = (netAdmitted t b (advance t s), .abort 5) := by
    refine writeOne_abort hd (firstAbort_role (List.mem_append_left _ (List.mem_append_left _ ?_)) fun a ha => ?_)
    · have hlow : decide (netRole (advance t s) (parseMsg b 16).session < r.wr) = true := decide_eq_true hrole
      have hro : r.acc ≠ .ro := by obtain h | h := hacc <;> simp [h]
      simp only [writeAccess, hro, ↓reduceIte]
      exact List.mem_append_left _ (mem_abortIf_true (Bool.or_eq_true_iff.2 (.inl hlow)))
    · have hro : r.acc ≠ .ro := by obtain h | h := hacc <;> simp [h]
      have hnot : ¬(r.acc = .ro ∨ r.acc = .act) := by obtain h | h := hacc <;> simp [h]
      have hst := (hadm.stateAborts (parseMsg b 16).index (parseMsg b 16).sub).trans hstate
      have how := (hadm.ownerAborts (parseMsg b 16).session (parseMsg b 16).index (parseMsg b 16).sub (parseMsg b 16).data).trans howner
      simp only [writeAccess, valueAborts, netReq, if_neg hro, if_neg hnot, hst, how, List.mem_append, List.append_nil] at ha
      obtain ((ha | ha) | ha) | ha | ha := ha
      · exact .inl (mem_abortIf ha)
      · exact .inr (.inl (mem_abortIf ha))
      · exact .inr (.inl (mem_abortIf ha))
      · cases ha
      · split at ha
        · exact .inr (.inr (mem_abortIf ha))
        · exact .inr (.inl (List.mem_singleton.1 ha))
  have hmine : (kindIs 2 (parseMsg b 16) && !ownWrite (parseMsg b 16)) = true := by
    obtain ⟨-, -, hkind, -⟩ := ha
    rw [hown, kindIs, hkind]
    rfl
  exact runs_mono (fun u h => ⟨h.1.vals.trans (by rw [advance_dict]), h.2⟩)
    (runs_net_abort (mine := fun m => kindIs 2 m && !ownWrite m) (post := writePost) (fun _ _ => rfl) hwf ha hfresh hmine hserve)

end Refused

end Sys2Proof.Machine
end

section
/-! Subscriptions, their notices, and kept responses (spec 02 R81, R84, R85); then the settled obligation. -/

namespace Sys2Proof.Machine
open Sys2Proof

/-! ### READ past its tag, and READ that is discarded -/

section Read
variable {t : Nat} {f : Bool} {port : Option Nat} {addr b : Bytes} {s : State}

theorem counter_advance (t : Nat) (s : State) (i k : Nat) : counter (advance t s) i k = counter s i k :=
  counter_congr (congrArg Dict.counters (advance_dict s t)) i k

theorem runs_read_elsewhere (hwf : Tab.wf Session.reset s.dict.sessions = true) (ha : NetAsks s t port addr b 1) :
    ((parseMsg b 16).epoch ≠ s.dict.epoch → (s.session (parseMsg b 16).session).epochAnswer = none →
      Runs (.read ⟨t, .net port addr b, f⟩) s (fun u => NetTag s b →
        Sends s u (parseMsg b 16).session port 3 1 (parseMsg b 16).reqId ((s.session (parseMsg b 16).session).tx + 1)
          (parseMsg b 16).index (parseMsg b 16).sub 0 8 0 []
        ∧ counter u 0x1110 5 = satAdd64 (counter s 0x1110 5) 1 ∧ (u.session (parseMsg b 16).session).epochAnswer = some t))
    ∧ (∀ e, (parseMsg b 16).epoch ≠ s.dict.epoch → (s.session (parseMsg b 16).session).epochAnswer = some e → t < e + 10 ^ 14 →
      Runs (.read ⟨t, .net port addr b, f⟩) s (fun u => NetTag s b →
        counter u 0x1110 5 = satAdd64 (counter s 0x1110 5) 1 ∧ u.dict.sessions = s.dict.sessions
        ∧ u.dict.outbox = s.dict.outbox))
    ∧ ((parseMsg b 16).epoch = s.dict.epoch → windowOk (s.session (parseMsg b 16).session) (parseMsg b 16).seq = false →
      Runs (.read ⟨t, .net port addr b, f⟩) s (fun u => NetTag s b →
        counter u 0x1110 3 = satAdd64 (counter s 0x1110 3) 1 ∧ (evtStat u 0).testBit 3 = true
        ∧ ∀ n, u.session n = s.session n)) := by
  have ha' := netAsks_advance (t := t) ha
  have hx := keepsNet_netMetered t b (advance t s)
  have hmeter (i k : Nat) (h2 : objKey i k ≠ objKey 0x4101 2) (h3 : objKey i k ≠ objKey 0x4101 3) :
      counter (netMetered t b (advance t s)) i k = counter s i k :=
    (counter_netMetered t b _ (counter_gmacWork h2 h3)).trans (counter_advance t s i k)
  have hsessions : (netMetered t b (advance t s)).dict.sessions = s.dict.sessions := by
    rw [netMetered_dict_sessions, advance_dict]
  have hs (n : Nat) : (netMetered t b (advance t s)).session n = s.session n := session_congr hsessions n
  have hbox : (netMetered t b (advance t s)).dict.outbox = s.dict.outbox :=
    (gmacWork_dict_outbox _ _).trans (congrArg Dict.outbox (advance_dict s t) :)
  have hepochs : (advance t s).dict.epoch = s.dict.epoch := by rw [advance_dict]
  refine ⟨fun hepoch hnone => ⟨_, rfl, fun ht => ?_⟩, fun e hepoch hsome hearly => ⟨_, rfl, fun ht => ?_⟩,
    fun hepoch hold => ⟨_, rfl, fun ht => ?_⟩⟩
  · rw [show (fdpServe (kindIs 1) readValue (fun _ st => st) ⟨t, .net port addr b, f⟩ s)
      = _ from netServe_read_epoch ha' (netTag_advance.2 ht) (by rwa [hepochs])]
    obtain ⟨hsend, hanswer⟩ := epochAnswer_due (t := t) (port := port) (m := parseMsg b 16) (n := (parseMsg b 16).session)
      (s := netMetered t b (advance t s)) (by rwa [hsessions]) (by rwa [hs])
    obtain ⟨-, -, hkind, -⟩ := ha
    rw [hs, hkind] at hsend
    refine ⟨sends_advance.1 (hx.sends (by rw [hs, session_advance]) (hbox.trans (by rw [advance_dict])) hsend), ?_, hanswer⟩
    rw [epochAnswer_counter (counter_gmacWork (by decide) (by decide)), hmeter _ _ (by decide) (by decide)]
  · rw [show (fdpServe (kindIs 1) readValue (fun _ st => st) ⟨t, .net port addr b, f⟩ s)
      = _ from netServe_read_epoch ha' (netTag_advance.2 ht) (by rwa [hepochs]),
      epochAnswer_early ((congrArg Session.epochAnswer (hs _)).trans hsome) hearly]
    refine ⟨(counter_countQ ..).trans (congrArg (satAdd64 · 1) (hmeter _ _ (by decide) (by decide))),
      (count_dict_sessions ..).trans hsessions, (count_dict_outbox ..).trans hbox⟩
  · rw [show (fdpServe (kindIs 1) readValue (fun _ st => st) ⟨t, .net port addr b, f⟩ s)
      = _ from netServe_read_old ha' (netTag_advance.2 ht) (by rwa [hepochs]) (by rwa [session_advance])]
    refine ⟨?_, raise_sets (n := 3) (by decide) _, fun n => ?_⟩
    · refine ((signals_raise 3 _).counter 0x1110 3).trans ((counter_countQ ..).trans ?_)
      exact congrArg (satAdd64 · 1) (hmeter _ _ (by decide) (by decide))
    · exact (session_congr (by simp [authFail, hsessions]) n)

theorem runs_read_discarded (hkind : (parseMsg b 16).kind = 1) :
    (fdpPlace s port addr = false ∨ s.dict.fdpOpen = false →
      Runs (.read ⟨t, .net port addr b, f⟩) s (fun u => u = advance t s))
    ∧ (fdpPlace s port addr = true → s.dict.fdpOpen = true →
      (s.mbx.restart = true ∨ rateRoom t s = false → Runs (.read ⟨t, .net port addr b, f⟩) s (fun u => CountsOnly (advance t s) u
        ∧ counter u 0x1110 6 = satAdd64 (counter s 0x1110 6) 1))
      ∧ (s.mbx.restart = false → rateRoom t s = true → headerOk (parseMsg b 16) b.length 44 = false ∨ 1400 < b.length →
        Runs (.read ⟨t, .net port addr b, f⟩) s (fun u => counter u 0x1110 4 = satAdd64 (counter s 0x1110 4) 1
          ∧ u.dict.sessions = s.dict.sessions))
      ∧ (s.mbx.restart = false → rateRoom t s = true → headerOk (parseMsg b 16) b.length 44 = true → b.length ≤ 1400 →
        sessionOpen s (parseMsg b 16).session = true → farmFree s = false →
        Runs (.read ⟨t, .net port addr b, f⟩) s (fun u => u = advance t s))
      ∧ (s.mbx.restart = false → rateRoom t s = true → headerOk (parseMsg b 16) b.length 44 = true → b.length ≤ 1400 →
        sessionOpen s (parseMsg b 16).session = false
          ∨ (farmFree s = true ∧ cfg s (0x114F + (parseMsg b 16).session) 4 ≠ zeros 16
            ∧ cfg s (0x114F + (parseMsg b 16).session) 4 ≠ addr) →
        Runs (.read ⟨t, .net port addr b, f⟩) s (fun u => counter u 0x1110 2 = satAdd64 (counter s 0x1110 2) 1
          ∧ (evtStat u 0).testBit 3 = true ∧ u.dict.sessions = s.dict.sessions))) := by
  have hplaces : fdpPlace (advance t s) port addr = fdpPlace s port addr := by
    cases port <;> simp only [fdpPlace, cfg_advance, cfgN_advance]
  have hfdp : (advance t s).dict.fdpOpen = s.dict.fdpOpen := by rw [advance_dict]
  have hups : (advance t s).mbx.restart = s.mbx.restart := by rw [advance_mbx]
  have hrates : rateRoom t (advance t s) = rateRoom t s := by simp only [rateRoom, cfgN_advance, advance_dict]
  have hopens (n : Nat) : sessionOpen (advance t s) n = sessionOpen s n := by
    simp only [sessionOpen, cfgN_advance, session_advance]
  have hfarms : farmFree (advance t s) = farmFree s := by simp only [farmFree, advance_cipher]
  refine ⟨fun h => ⟨_, rfl, netServe_read_closed hkind (by rwa [hplaces, hfdp])⟩, fun hplace hopen => ⟨fun h => ⟨_, rfl, ?_⟩,
    fun hup hrate h => ⟨_, rfl, ?_⟩, fun hup hrate hhead hlen hsession hfarm => ⟨_, rfl, ?_⟩,
    fun hup hrate hhead hlen h => ⟨_, rfl, ?_⟩⟩⟩
  all_goals rw [← hplaces] at hplace
  all_goals rw [← hfdp] at hopen
  · rw [show (fdpServe (kindIs 1) readValue (fun _ st => st) ⟨t, .net port addr b, f⟩ s)
      = _ from netServe_read_busy hkind hplace hopen (by rwa [hups, hrates])]
    exact ⟨count_only .., (counter_countQ ..).trans (congrArg (satAdd64 · 1) (counter_advance ..))⟩
  · rw [show (fdpServe (kindIs 1) readValue (fun _ st => st) ⟨t, .net port addr b, f⟩ s)
      = _ from netServe_read_malformed hplace hopen (by rwa [hups]) (by rwa [hrates]) h]
    exact ⟨(counter_countQ ..).trans (congrArg (satAdd64 · 1) (counter_advance ..)),
      (count_dict_sessions ..).trans (congrArg Dict.sessions (advance_dict s t) :)⟩
  · exact netServe_read_farm hkind hplace hopen (by rwa [hups]) (by rwa [hrates]) hhead hlen (by rwa [hopens]) (by rwa [hfarms])
  · rw [show (fdpServe (kindIs 1) readValue (fun _ st => st) ⟨t, .net port addr b, f⟩ s)
      = _ from netServe_read_stranger hkind hplace hopen (by rwa [hups]) (by rwa [hrates]) hhead hlen
        (by rwa [hopens, hfarms, cfg_advance])]
    refine ⟨?_, raise_sets (n := 3) (by decide) _, ?_⟩
    · refine ((signals_raise 3 _).counter 0x1110 2).trans ((counter_countQ ..).trans (congrArg (satAdd64 · 1) ?_))
      exact counter_advance ..
    · refine Eq.trans ?_ (congrArg Dict.sessions (advance_dict s t))
      simp [authFail, rateTake]

end Read

/-! ### A number for a subscription -/

/-- Fewer subscriptions than candidates: the number is new. -/
theorem newNumber_fresh {s : State} (h : s.dict.subs.length < 256) : ∀ x ∈ s.dict.subs, x.number ≠ (newNumber s).1 := by
  unfold newNumber
  dsimp only
  set c := (List.range 257).map (fun i => ((drawNat s).1 + i) % 65536) with hc
  cases hfind : c.find? (fun n => !s.dict.subs.any (fun u => decide (u.number = n))) with
  | some n =>
    have hfree := List.find?_some hfind
    rw [Bool.not_eq_true', List.any_eq_false] at hfree
    exact fun x hx hn => hfree x hx (decide_eq_true hn)
  | none =>
    have hall : c ⊆ s.dict.subs.map (·.number) := by
      intro n hn
      have htaken := List.find?_eq_none.1 hfind n hn
      simp only [Bool.not_eq_true', Bool.not_eq_false, List.any_eq_true, decide_eq_true_eq] at htaken
      obtain ⟨x, hx, rfl⟩ := htaken
      exact List.mem_map_of_mem hx
    have hnodup : c.Nodup := by
      refine List.Nodup.map_on (fun i hi j hj hij => ?_) List.nodup_range
      rw [List.mem_range] at hi hj
      omega
    have hlen := (hnodup.subperm hall).length_le
    rw [hc, List.length_map, List.length_map, List.length_range] at hlen
    omega

/-! ### SUBSCRIBE -/

section Subscribe
variable {t : Nat} {f : Bool} {port : Option Nat} {addr b : Bytes} {s : State} {r : ObjRow}

/-- A subscription on change to a value that is kept. -/
def changeSubscr (q : Req) (n : Nat) (v : Bytes) (at' : Nat) : Subscr :=
  { number := n, session := q.session, port := q.port, index := q.msg.index, sub := q.msg.sub, period := 0
    interval := if q.msg.pb = 0 then 1000 else q.msg.pb, last := v, sentAt := at' }

/-- A number is drawn, and the subscriptions are `l`. -/
def subscribed (l : List Subscr) (x : State) : State := modDict (fun d => { d with subs := l }) (newNumber x).2

section Subscribed
variable (l : List Subscr) (x : State)

theorem keepsNet_subscribed : KeepsNet x (subscribed l x) := ⟨rfl, rfl, rfl, rfl, rfl, rfl, rfl, rfl⟩
theorem sessions_subscribed : (subscribed l x).dict.sessions = x.dict.sessions := rfl
theorem outbox_subscribed : (subscribed l x).dict.outbox = x.dict.outbox := rfl
theorem subs_subscribed : (subscribed l x).dict.subs = l := rfl

end Subscribed

theorem subscribeOne_new {q : Req} {x : State} {v : Bytes} (hd : objDesc q.msg.index q.msg.sub = some r) (hacc : r.acc = .rwp)
    (h12 : 12 < q.msg.index) (hnonce : q.msg.index ≠ 0x1421) (hdma : q.msg.index ≠ 0x1440) (hsub : q.msg.sub ≠ 0)
    (hrole : r.rd ≤ q.role) (hty : q.msg.ty = 0 ∨ q.msg.ty = r.ty) (hv : cfg x q.msg.index q.msg.sub = v)
    (hlen : v.length ≤ q.limit) (hsession : q.session ≠ 0) (hpa : q.msg.pa = 0) (hpb : q.msg.pb = 0 ∨ 1000 ≤ q.msg.pb)
    (hroom : x.dict.subs.length < 256) (hmine : (x.dict.subs.filter (fun u => decide (u.session = q.session))).length < 32)
    (hnew : ∀ u ∈ x.dict.subs, ¬(u.session = q.session ∧ u.index = q.msg.index ∧ u.sub = q.msg.sub)) :
    subscribeOne q x = (subscribed (x.dict.subs ++ [changeSubscr q (newNumber x).1 v x.clock]) x, .ok (newNumber x).1 0 0 []) := by
  have hvalue : objValue x q.session q.msg.index q.msg.sub r = v := by
    have hlow : ¬(1 ≤ q.msg.index ∧ q.msg.index ≤ 12) := by omega
    simp only [hv, objValue, hlow, hsub, false_and, hacc, hnonce, hdma, reduceCtorEq, ↓reduceIte]
  have haccess : readAccess q r = [] := readAccess_nil (by simp [hacc]) (by simp [hacc]) hty hrole
  have hold : (x.dict.subs.filter (fun u => decide (u.session = q.session))).find?
      (fun u => decide (u.index = q.msg.index ∧ u.sub = q.msg.sub)) = none := by
    refine List.find?_eq_none.2 fun u hu => ?_
    obtain ⟨hu, hs⟩ := List.mem_filter.1 hu
    rw [decide_eq_true_eq]
    exact fun h => hnew u hu ⟨of_decide_eq_true hs, h⟩
  have hfresh := newNumber_fresh hroom
  have hkeep : x.dict.subs.filter (fun u => decide (u.number ≠ (newNumber x).1)) = x.dict.subs :=
    List.filter_eq_self.2 fun u hu => decide_eq_true (hfresh u hu)
  have hrange : (decide (1 ≤ q.msg.pa ∧ q.msg.pa ≤ 999) || decide (1 ≤ q.msg.pb ∧ q.msg.pb ≤ 999)) = false := by
    simp only [Bool.or_eq_false_iff, decide_eq_false_iff_not]
    omega
  have hbusy : (decide (256 ≤ x.dict.subs.length)
      || decide (32 ≤ (x.dict.subs.filter (fun u => decide (u.session = q.session))).length)) = false := by
    simp only [Bool.or_eq_false_iff, decide_eq_false_iff_not]
    omega
  have hbad : firstAbort (abortIf (decide (q.session = 0)) aSTATE ++ readAccess q r ++ abortIf (decide (q.limit < v.length)) aTYPE
      ++ abortIf (decide (1 ≤ q.msg.pa ∧ q.msg.pa ≤ 999) || decide (1 ≤ q.msg.pb ∧ q.msg.pb ≤ 999)) aRANGE
      ++ abortIf ((none : Option Subscr).isNone && (decide (256 ≤ x.dict.subs.length)
        || decide (32 ≤ (x.dict.subs.filter (fun u => decide (u.session = q.session))).length))) aBUSY) = none := by
    rw [haccess, hrange, hbusy, decide_eq_false hsession, decide_eq_false (Nat.not_lt.2 hlen)]
    rfl
  unfold subscribeOne
  dsimp only
  rw [hd]
  dsimp only
  rw [hvalue, if_pos hpa, hold, hbad]
  dsimp only
  rw [hpa]
  exact congrArg (fun l => (subscribed (l ++ [changeSubscr q (newNumber x).1 v x.clock]) x, Reply.ok (newNumber x).1 0 0 [])) hkeep

variable (hwf : Tab.wf Session.reset s.dict.sessions = true)
include hwf

theorem runs_subscribe (ha : NetAsks s t port addr b 6) (hfresh : NetFresh s b)
    (hd : objDesc (parseMsg b 16).index (parseMsg b 16).sub = some r) (hacc : r.acc = .rwp) (h12 : 12 < (parseMsg b 16).index)
    (hnonce : (parseMsg b 16).index ≠ 0x1421) (hdma : (parseMsg b 16).index ≠ 0x1440) (hsub : (parseMsg b 16).sub ≠ 0)
    (hrole : r.rd ≤ netRole (advance t s) (parseMsg b 16).session) (hty : (parseMsg b 16).ty = 0 ∨ (parseMsg b 16).ty = r.ty)
    (hlen : (cfg s (parseMsg b 16).index (parseMsg b 16).sub).length ≤ 1356) (hroom : s.dict.subs.length < 256)
    (hmine : (s.dict.subs.filter (fun x => decide (x.session = (parseMsg b 16).session))).length < 32)
    (hpa : (parseMsg b 16).pa = 0) (hpb : (parseMsg b 16).pb = 0 ∨ 1000 ≤ (parseMsg b 16).pb)
    (hnew : ∀ x ∈ s.dict.subs, ¬(x.session = (parseMsg b 16).session ∧ x.index = (parseMsg b 16).index
      ∧ x.sub = (parseMsg b 16).sub)) :
    Runs (.subscribe ⟨t, .net port addr b, f⟩) s (fun u => NetTag s b → ∃ n, (∀ x ∈ s.dict.subs, x.number ≠ n)
      ∧ u.dict.subs = s.dict.subs ++ [{ number := n, session := (parseMsg b 16).session, port := port
                                        index := (parseMsg b 16).index, sub := (parseMsg b 16).sub, period := 0
                                        interval := if (parseMsg b 16).pb = 0 then 1000 else (parseMsg b 16).pb
                                        last := cfg s (parseMsg b 16).index (parseMsg b 16).sub, sentAt := u.clock }]
      ∧ Sends s u (parseMsg b 16).session port 1 6 (parseMsg b 16).reqId ((s.session (parseMsg b 16).session).tx + 1)
          (parseMsg b 16).index (parseMsg b 16).sub 0 n 0 []) := by
  have hwf' : Tab.wf Session.reset (advance t s).dict.sessions = true := by rwa [advance_dict]
  have ha' := netAsks_advance (t := t) ha
  have hx := keepsNet_netAdmitted t b (advance t s)
  have hk := keepsKey_netAdmitted (t := t) (b := b) (advance t s)
  obtain ⟨-, -, hkind, -, -, -, -, -, hopen, -⟩ := ha'
  have hrange := sessionOpen_range hopen
  have hkindIs : kindIs 6 (parseMsg b 16) = true := decide_eq_true hkind
  have hsubs : (netAdmitted t b (advance t s)).dict.subs = s.dict.subs := hk.subs.trans (by rw [advance_dict])
  have hcfg : cfg (netAdmitted t b (advance t s)) (parseMsg b 16).index (parseMsg b 16).sub
      = cfg s (parseMsg b 16).index (parseMsg b 16).sub := (hx.cfg _ _).trans (cfg_advance ..)
  have hserve := subscribeOne_new (q := netReq (advance t s) (parseMsg b 16).session port f (parseMsg b 16))
    (x := netAdmitted t b (advance t s)) hd hacc h12 hnonce hdma hsub hrole hty hcfg hlen
    (by show (parseMsg b 16).session ≠ 0; omega) hpa hpb (by rwa [hsubs]) (by rw [hsubs]; exact hmine) (by rw [hsubs]; exact hnew)
  have hfree := newNumber_fresh (s := netAdmitted t b (advance t s)) (by rwa [hsubs])
  refine ⟨netServe (kindIs 6) subscribeOne (fun _ st => st) f t port addr b (advance t s), rfl, fun ht => ?_⟩
  rw [netServe_ok hwf' (netAsks_advance ha) (freshRequest_advance t hfresh) (netTag_advance.2 ht) hkindIs hserve]
  generalize hn : (newNumber (netAdmitted t b (advance t s))).1 = n at hfree
  rw [hsubs]
  generalize hy : subscribed (s.dict.subs ++ [changeSubscr (netReq (advance t s) (parseMsg b 16).session port f (parseMsg b 16)) n
      (cfg s (parseMsg b 16).index (parseMsg b 16).sub) (netAdmitted t b (advance t s)).clock]) (netAdmitted t b (advance t s)) = y
  have hyx : KeepsNet (netAdmitted t b (advance t s)) y := hy ▸ keepsNet_subscribed ..
  have hysess : y.dict.sessions = (netAdmitted t b (advance t s)).dict.sessions := hy ▸ sessions_subscribed ..
  have hybox : y.dict.outbox = (netAdmitted t b (advance t s)).dict.outbox := hy ▸ outbox_subscribed ..
  have hysubs : y.dict.subs = s.dict.subs ++ [changeSubscr (netReq (advance t s) (parseMsg b 16).session port f (parseMsg b 16)) n
      (cfg s (parseMsg b 16).index (parseMsg b 16).sub) (netAdmitted t b (advance t s)).clock] := hy ▸ subs_subscribed ..
  have hsess := netAdmitted_session t b (advance t s) hwf'
  rw [session_advance] at hsess
  have hkey := keepsKey_answer y (h := reqHead (netReq (advance t s) (parseMsg b 16).session port f (parseMsg b 16))) hrange
    flagResponse n 0 0 []
  have hans := keepsNet_answer (s := y) (h := reqHead (netReq (advance t s) (parseMsg b 16).session port f (parseMsg b 16))) hrange
    flagResponse n 0 0 []
  refine ⟨n, by rwa [hsubs] at hfree, ?_, ?_⟩
  · rw [hkey.subs, hysubs, hans.clock, hyx.clock]
    rfl
  · have hsend := sends_answer_of (hd := reqHead (netReq (advance t s) (parseMsg b 16).session port f (parseMsg b 16)))
      (hx.trans hyx) hrange (by
        show (y.session (parseMsg b 16).session).keySlot = ((advance t s).session (parseMsg b 16).session).keySlot
        rw [session_congr hysess, hsess, windowPut_keySlot, session_advance]) (by
        show (y.session (parseMsg b 16).session).tx = ((advance t s).session (parseMsg b 16).session).tx
        rw [session_congr hysess, hsess, windowPut_tx, session_advance]) (hybox.trans (netAdmitted_dict_outbox t b _))
      flagResponse n 0 0 []
    have h := sends_advance.1 hsend
    rw [session_advance] at h
    rw [← hkind]
    exact h

end Subscribe

/-- Through the mailbox no one subscribes (R84). -/
theorem runs_subscribe_mailbox {t : Nat} {f : Bool} {b : Bytes} {s : State} (hm : MbxHolds s b 6) :
    Runs (.subscribe ⟨t, .mailbox, f⟩) s (fun u => Aborted u b 8 ∧ AnswersOnly (advance t s) u) := by
  have hserve : subscribeOne (mbxReq (advance t s) f b) (advance t s) = (advance t s, .abort 8) := by
    have hstate : abortIf (decide ((mbxReq (advance t s) f b).session = 0)) aSTATE = [aSTATE] := rfl
    unfold subscribeOne
    dsimp only
    split
    · rw [hstate, firstAbort_state (List.mem_append_right _ (List.mem_singleton_self _))]
      rfl
    · rw [hstate, firstAbort_state (by simp)]
      rfl
  refine ⟨_, congrArg Host.Outcome.next (mbxServe_abort (mbxHolds_advance t hm) (kindIs_of_holds hm) hserve), aborted_mbxRespond ..,
    mbxRespond_only ..⟩

/-! ### UNSUBSCRIBE -/

section Unsubscribe

theorem servesUnsubscribe : ServesAction .unsubscribe 0x1120 4 (fun d s => ∃ x ∈ s.dict.subs, x.number = beNat d) 0
    (fun _ _ => []) (fun d s u => ∀ x, x ∈ u.dict.subs ↔ x ∈ s.dict.subs ∧ x.number ≠ beNat d) := by
  intro t f s b ha ⟨x, hx, hn⟩
  have hown : abortIf (!(advance t s).dict.subs.any (fun u => decide (u.number = beNat (parseMsg b 0).data)
      && (decide (0 = 0) || decide (u.session = 0)))) aRANGE = [] := by
    rw [List.any_eq_true.2 ⟨x, hx, by simp [hn]⟩]
    rfl
  refine ⟨_, congrArg Host.Outcome.next (serve_ok ha rfl hown rfl), answered_mbxRespond .., fun y => ?_⟩
  rw [mbxRespond_dict]
  exact List.mem_filter.trans (and_congr_right fun _ => decide_eq_true_iff)

theorem refusesUnsubscribe : RefusesAction .unsubscribe 0x1120 4 (fun d s => ∀ x ∈ s.dict.subs, x.number ≠ beNat d) 7 := by
  refine refuses_ok (fun _ _ => rfl) rfl fun q x _ _ hbad => ?_
  have hnone : x.dict.subs.any (fun u => decide (u.number = beNat q.msg.data)
      && (decide (q.session = 0) || decide (u.session = q.session))) = false :=
    List.any_eq_false.2 fun u hu => by simp [hbad u hu]
  rw [hnone]
  decide

end Unsubscribe

/-! ### Notices -/

section Notify
variable {t n : Nat} {s : State} {x : Subscr} {r : ObjRow}

theorem notify_sends {v : Bytes} (hd : objDesc x.index x.sub = some r) (hopen : sessionOpen s x.session = true) :
    Sends s (notify t x v s) x.session x.port 0 7 0 ((s.session x.session).tx + 1) x.index x.sub r.ty x.number v.length v
      ∧ ∀ y ∈ (notify t x v s).dict.subs, y.number = x.number → y.sentAt = t ∧ y.last = v := by
  have hrun : notify t x v s = netSend x.session x.port (sessionKey s (s.session x.session)) 0 7 0 x.index x.sub r.ty x.number
      v.length v (modDict (fun d => { d with subs := d.subs.map (fun y =>
        if y.number = x.number then { y with last := v, sentAt := t } else y) }) s) := by
    unfold notify
    rw [hd]
    dsimp only
    rw [if_pos hopen]
  rw [hrun]
  refine ⟨?_, fun y hy hn => ?_⟩
  · exact sends_netSend (modDict (fun d => { d with subs := d.subs.map (fun y =>
        if y.number = x.number then { y with last := v, sentAt := t } else y) }) s) x.session x.port 0 7 0 x.index x.sub r.ty
        x.number v.length v
  · rw [(keepsKey_netSend ..).subs] at hy
    obtain ⟨z, hz, rfl⟩ := List.mem_map.1 hy
    by_cases h : z.number = x.number
    · rw [if_pos h]
      exact ⟨rfl, rfl⟩
    · rw [if_neg h] at hn
      exact absurd hn h

variable (hfind : s.dict.subs.find? (fun y => decide (y.number = n)) = some x)
include hfind

theorem runs_timer_idle (h : notifyOne t x (advance t s) = advance t s) :
    Runs (.subscriptionTimer t n) s (fun u => u = advance t s) := by
  have hfind' : (advance t s).dict.subs.find? (fun y => decide (y.number = n)) = some x := by rwa [advance_dict]
  refine ⟨advance t s, ?_, rfl⟩
  simp only [exec, execSubscriptionTimer, hfind', h]

theorem runs_timer_sends (h : notifyOne t x (advance t s) = notify t x (subValue (advance t s) x) (advance t s))
    (hd : objDesc x.index x.sub = some r) (hopen : sessionOpen s x.session = true) :
    Runs (.subscriptionTimer t n) s (fun u =>
      Sends s u x.session x.port 0 7 0 ((s.session x.session).tx + 1) x.index x.sub r.ty n
        (subValue (advance t s) x).length (subValue (advance t s) x)
      ∧ (∀ y ∈ u.dict.subs, y.number = n → y.sentAt = t ∧ y.last = subValue (advance t s) x)) := by
  have hfind' : (advance t s).dict.subs.find? (fun y => decide (y.number = n)) = some x := by rwa [advance_dict]
  have hn : x.number = n := of_decide_eq_true (List.find?_some (p := fun y : Subscr => decide (y.number = n)) hfind)
  subst hn
  have hopen' : sessionOpen (advance t s) x.session = true := by
    simpa only [sessionOpen, cfgN_advance, session_advance] using hopen
  obtain ⟨hsend, hsubs⟩ := notify_sends (t := t) (v := subValue (advance t s) x) hd hopen'
  refine ⟨notify t x (subValue (advance t s) x) (advance t s), ?_, ?_, hsubs⟩
  · simp only [exec, execSubscriptionTimer, hfind', h]
  · have hs := sends_advance.1 hsend
    rwa [session_advance] at hs

end Notify

/-! ### Kept responses -/

section Kept
variable {t n q : Nat} {s : State}

theorem notLive_eq (y : Kept) : (!keptLive s y) = decide (y.at_ + 10 ^ 15 ≤ s.clock) := by
  exact (decide_not (p := s.clock < y.at_ + 10 ^ 15)).symm.trans (decide_eq_decide.2 Nat.not_lt)

theorem runs_keptExpiry {k : Kept} (hwf : Tab.wf Session.reset s.dict.sessions = true)
    (hfind : (s.session n).kept.find? (fun y => decide (y.reqId = q) && decide (y.at_ + 10 ^ 15 ≤ (advance t s).clock)) = some k) :
    Runs (.keptResponseExpiry t ⟨n, q⟩) s (fun u => (u.session n).kept = (s.session n).kept.erase k
      ∧ (∀ j, j ≠ n → u.session j = s.session j)) := by
  have hfind' : ((advance t s).session n).kept.find? (fun y => decide (y.reqId = q) && !keptLive (advance t s) y) = some k := by
    rw [session_advance]
    simpa only [notLive_eq] using hfind
  refine ⟨(advance t s).setSession n { (advance t s).session n with kept := ((advance t s).session n).kept.erase k }, ?_, ?_,
    fun j hj => ?_⟩
  · simp only [exec, execKeptResponseExpiry, hfind']
  · rw [session_setSession (by rwa [advance_dict]), session_advance]
  · rw [session_setSession_other _ _ _ hj, session_advance]

theorem runs_keptExpiry_early (h : ∀ y ∈ (s.session n).kept, y.reqId = q → (advance t s).clock < y.at_ + 10 ^ 15) :
    Runs (.keptResponseExpiry t ⟨n, q⟩) s (fun u => u = advance t s) := by
  have hfind : ((advance t s).session n).kept.find? (fun y => decide (y.reqId = q) && !keptLive (advance t s) y) = none := by
    rw [session_advance]
    refine List.find?_eq_none.2 fun y hy hbad => ?_
    rw [notLive_eq, Bool.and_eq_true, decide_eq_true_eq, decide_eq_true_eq] at hbad
    exact absurd hbad.2 (Nat.not_le.2 (h y hy hbad.1))
  refine ⟨advance t s, ?_, rfl⟩
  simp only [exec, execKeptResponseExpiry, hfind]

end Kept

end Sys2Proof.Machine

namespace Sys2Proof
open Machine

/-- Settles O45: a message by the checks it meets in their order, then the one change and the one answer that the last
of them leaves. -/
theorem networkRequests : Obligations.NetworkRequests := by
  refine ⟨?_, ?_, ?_, ?_, ?_, ?_, ?_, servesUnsubscribe, refusesUnsubscribe, ?_, ?_, ?_, ?_⟩
  · rintro t f port addr b s m r ⟨-, ⟨-, hwf⟩, -⟩ rfl ha hfresh hd hacc h12 hnonce hdma hsub hrole hty hlen
    exact runs_read_net hwf ha hfresh hd hacc h12 hnonce hdma hsub hrole hty hlen
  · rintro t f port addr b s m k ⟨-, ⟨-, hwf⟩, -⟩ rfl ha hepoch hwindow hkept
    refine ⟨_, rfl, fun ht => ?_⟩
    obtain ⟨hsend, hsame⟩ := netServe_read_repeat (f := f) (by rwa [advance_dict]) (netAsks_advance (t := t) ha)
      (netTag_advance.2 ht) (by rwa [advance_dict]) (by rwa [session_advance]) (by rwa [session_advance])
    rw [session_advance] at hsend hsame
    exact ⟨sends_advance.1 hsend, hsame⟩
  · rintro t f port addr b s m ⟨-, ⟨-, hwf⟩, -⟩ rfl ha
    exact runs_read_elsewhere hwf ha
  · rintro t f port addr b s m r ⟨-, ⟨-, hwf⟩, -⟩ - rfl hfresh hd
    exact ⟨runs_read_role hwf hfresh hd, runs_write_role hwf hfresh hd⟩
  · rintro t f port addr b s m - rfl hkind
    exact runs_read_discarded hkind
  · rintro t f port addr b s m r ⟨-, ⟨-, hwf⟩, -⟩ rfl ha hfresh hd hacc h12 hnonce hdma hsub hrole hty hlen hroom hmine hpa hpb hnew
    exact runs_subscribe hwf ha hfresh hd hacc h12 hnonce hdma hsub hrole hty hlen hroom hmine hpa hpb hnew
  · intro t f b s hm
    exact runs_subscribe_mailbox hm
  · intro t n s x r _ hfind hperiod
    refine ⟨fun hearly => runs_timer_idle hfind ?_, fun hdue hd hopen => runs_timer_sends hfind ?_ hd hopen⟩
    · exact (if_pos hperiod).trans (if_neg (Nat.not_le.2 hearly))
    · exact (if_pos hperiod).trans (if_pos hdue)
  · intro t n s x r _ hfind hperiod
    refine ⟨fun hidle => runs_timer_idle hfind ?_, fun hnew hdue hd hopen => runs_timer_sends hfind ?_ hd hopen⟩
    · refine (if_neg (not_not_intro hperiod)).trans (if_neg fun ⟨hnew, hdue⟩ => ?_)
      exact hidle.elim hnew fun hearly => absurd hdue (Nat.not_le.2 hearly)
    · exact (if_neg (not_not_intro hperiod)).trans (if_pos ⟨hnew, hdue⟩)
  · rintro t n q s k ⟨-, ⟨-, hwf⟩, -⟩ hfind
    exact runs_keptExpiry hwf hfind
  · intro t n q s h
    exact runs_keptExpiry_early h

end Sys2Proof
end

section
/-! The cipher farm: a message that waits, its dispatch to a core, and a core that fails (spec 12 R395, R405 to R411). -/

namespace Sys2Proof.Machine
open Sys2Proof

/-! ### What stamps leave -/

section Stamps
variable (s : State) (c : Cipher) (u : CUser)

theorem stampUser_eq : ∃ w, stampUser s c u = setCipherWfq w c := by
  unfold stampUser
  cases userHead c (fun _ => true) (userKey u) with
  | none => exact ⟨cipherWfq c, rfl⟩
  | some m => exact ⟨_, rfl⟩

theorem stampUser_waiting : (stampUser s c u).waiting = c.waiting := by
  obtain ⟨w, hw⟩ := stampUser_eq s c u
  rw [hw, setCipherWfq]
theorem stampUser_slots : (stampUser s c u).slots = c.slots := by
  obtain ⟨w, hw⟩ := stampUser_eq s c u
  rw [hw, setCipherWfq]
theorem stampUser_cores : (stampUser s c u).cores = c.cores := by
  obtain ⟨w, hw⟩ := stampUser_eq s c u
  rw [hw, setCipherWfq]
theorem stampUser_holdUsed : (stampUser s c u).holdUsed = c.holdUsed := by
  obtain ⟨w, hw⟩ := stampUser_eq s c u
  rw [hw, setCipherWfq]

end Stamps

section Wait
variable (m : CMsg) (s : State)

/-- A message that becomes waiting is the last, and no core and no slot changes. -/
theorem cipherWait_spec : (cipherWait m s).cipher.waiting = s.cipher.waiting ++ [m]
    ∧ (cipherWait m s).cipher.slots = s.cipher.slots ∧ (cipherWait m s).cipher.cores = s.cipher.cores
    ∧ cipherWait m s = { s with cipher := (cipherWait m s).cipher } := by
  unfold cipherWait
  dsimp only
  split
  · exact ⟨stampUser_waiting .., stampUser_slots .., stampUser_cores .., rfl⟩
  · exact ⟨rfl, rfl, rfl, rfl⟩

end Wait

/-! ### Cores -/

section Cores
variable {k : Nat} (s : State) (x : Core)

theorem coreAt_setCore_same (hx : x ≠ Core.reset) : coreAt (setCore k x s).cipher k = x := Tab.get_set_of_ne _ _ hx

theorem coreAt_setCore_wf (h : Tab.wf Core.reset s.cipher.cores = true) : coreAt (setCore k x s).cipher k = x :=
  Tab.get_set_same k x h

theorem coreAt_setCore_other {j : Nat} (hj : j ≠ k) : coreAt (setCore k x s).cipher j = coreAt s.cipher j :=
  Tab.get_set_other (d := Core.reset) s.cipher.cores x hj.symm

theorem waiting_setCore : (setCore k x s).cipher.waiting = s.cipher.waiting := rfl
theorem waiting_freeCoreOf (m : CMsg) : (freeCoreOf k m s).cipher.waiting = s.cipher.waiting := rfl
theorem freeCoreOf_rest (m : CMsg) : freeCoreOf k m s = { s with cipher := (freeCoreOf k m s).cipher } := rfl

end Cores

/-! ### An entry becomes a message (R406, R411) -/

section Take
variable {mk : Nat → Nat → Nat → Option Bytes → Option Bytes → Instr} {op : Nat}

/-- The message of a chain whose bytes are `d`. -/
def chainMessage (op fn q : Nat) (ch : Chain) (d : Bytes) : CMsg :=
  { user := .polder fn, q := q, ref := ch.first, op := op, slot := cSlot (ch.entries.headD []), params := d.take 32
    source := d.drop 32, aad := if cIsGcm op then cAadLen (ch.entries.headD []) else 0, restarted := false, key := [] }

theorem takeMessage_now {fn q : Nat} {ch : Chain} {s s1 : State} {b d : Bytes} (hc : cipherChain s fn q op = some ch)
    (h : HostBytes s fn q (messageSegs ch) b d s1) :
    takeMessage op fn q (.now b) s
      = cipherWait (chainMessage op fn q ch d) (updChain fn q ch.first (fun c => { c with started := true }) s1) := by
  simp only [takeMessage, hc]
  exact hostOp_now h

theorem takeMessage_tags {fn q : Nat} {ch : Chain} {s : State} (hc : cipherChain s fn q op = some ch)
    (hok : readRefused s fn q (messageSegs ch) = false) (hruns : fnRuns s fn = true) (hlen : hostLen (messageSegs ch) ≠ 0) :
    takeMessage op fn q .tags s = startReads (queueReq s fn q) (.data ch.first) (messageSegs ch) s := by
  simp only [takeMessage, hc]
  exact hostOp_tags hok hruns hlen

theorem both_tags {params source : Option Bytes} (h : params = none ∨ source = none) : HostData.both params source = .tags := by
  obtain rfl | rfl := h
  · rfl
  · cases params <;> rfl

theorem takesMessage (hx : ∀ t fn q params source s, exec (mk t fn q params source) s
      = .next (takeMessage op fn q (.both params source) (advance t s))) : TakesMessage mk op := by
  intro t fn q ch s hcanon hc
  obtain ⟨-, -, -, -, -, -, -, -, -, -, hqueues, -⟩ := hcanon
  have hc' := (cipherChain_advance t s fn q op).trans hc
  refine ⟨fun params source d s1 hbytes => ?_, fun params source hnone hok hlen hruns => ?_⟩
  · have htr := transmits_readNow hbytes.2.2
    have hwq : s1.wq = s.wq := htr.wq.trans (advance_wq ..)
    have hcipher : s1.cipher = s.cipher := htr.cipher.trans (advance_cipher ..)
    have hmsg : chainMessage op fn q ch d = { user := .polder fn, q := q, ref := ch.first, op := op
                                              slot := cSlot (ch.entries.headD []), params := d.take 32, source := d.drop 32
                                              aad := if op = 0x10 ∨ op = 0x11 then cAadLen (ch.entries.headD []) else 0
                                              restarted := false, key := [] } := by
      simp only [chainMessage, cIsGcm, decide_eq_true_eq]
    obtain ⟨hset, hsame, hother⟩ := queueSet_setQueue (fn := fn) (q := q) (s := s1) (by rwa [hwq])
      { s1.queue fn q with chains := startChain (s1.queue fn q) ch.first }
    obtain ⟨hwaiting, hslots, hcores, hrest⟩ := cipherWait_spec (chainMessage op fn q ch d)
      (updChain fn q ch.first (fun c => { c with started := true }) s1)
    refine ⟨_, (hx ..).trans (congrArg Host.Outcome.next (takeMessage_now hc' hbytes)), ?_, ?_, ?_, ?_, fun g p hk => ?_, ?_⟩
    · rw [hwaiting, hmsg, ← hcipher]
      rfl
    · exact hslots.trans (congrArg Cipher.slots hcipher)
    · exact hcores.trans (congrArg Cipher.cores hcipher)
    · rw [hrest, ← queue_congr hwq fn q]
      exact hsame
    · rw [hrest, ← queue_congr hwq g p]
      exact hother g p hk
    · rw [hrest]
      exact ⟨rfl, rfl, rfl, rfl, rfl⟩
  · have hrun := takeMessage_tags hc' ((readRefused_advance t s fn q _).trans hok) ((fnRuns_advance t s fn).trans hruns) hlen
    have hframe := Frame.startReads (.of_all rfl) (Frame.refl [.ep] (advance t s)) (queueReq (advance t s) fn q) (.data ch.first)
      (messageSegs ch)
    refine ⟨_, (hx ..).trans (congrArg Host.Outcome.next ((congrArg (takeMessage op fn q · (advance t s)) (both_tags hnone)).trans hrun)),
      by rw [queueReq_advance], (hframe.cipher (by decide)).trans (advance_cipher ..), (hframe.wq (by decide)).trans (advance_wq ..)⟩

end Take

/-! ### Dispatch (R411) -/

section Dispatch
variable {t k n st : Nat} {m : CMsg} {byF : Bool} {s : State}

theorem mayDispatch_advance (t : Nat) (s : State) : mayDispatch (advance t s) = mayDispatch s := by
  funext m
  simp only [mayDispatch, advance_cipher, queue_advance]

theorem dispatchPick_advance (t : Nat) (s : State) : dispatchPick (advance t s) = dispatchPick s := by
  simp only [dispatchPick, mayDispatch_advance, advance_cipher, cfgN_advance]

theorem startStatus_advance (t : Nat) (s : State) (m : CMsg) : startStatus (advance t s) m = startStatus s m := by
  have hslot : slotEmpty (advance t s) = slotEmpty s := by
    funext g
    exact decide_eq_decide.2 (by rw [keySlot_advance])
  simp only [startStatus, globalOf_advance, keySlot_advance, hslot]

theorem startKey_advance (t : Nat) (s : State) (m : CMsg) : startKey (advance t s) m = startKey s m := by
  simp only [startKey, globalOf_advance, keySlot_advance]

/-- The message leaves those that wait, and its user's next is stamped. -/
def dispatched (m : CMsg) (byF : Bool) (s : State) : State :=
  let u := userKey m.user
  let c := dropWaiting m s.cipher
  let c1 := setCipherWfq ((cipherWfq c).select u byF (userWaits c)) { c with turn := Tab.set 1024 c.turn u m.q }
  modCipher (fun _ => stampUser s c1 m.user) s

theorem dispatched_spec (m : CMsg) (byF : Bool) (s : State) : (dispatched m byF s).cipher.waiting = s.cipher.waiting.erase m
    ∧ (dispatched m byF s).cipher.slots = s.cipher.slots ∧ (dispatched m byF s).cipher.cores = s.cipher.cores
    ∧ (dispatched m byF s).cipher.holdUsed = s.cipher.holdUsed
    ∧ dispatched m byF s = { s with cipher := (dispatched m byF s).cipher } :=
  ⟨stampUser_waiting .., stampUser_slots .., stampUser_cores .., stampUser_holdUsed .., rfl⟩

theorem cipherDispatch_starts (hfree : freeCore s.cipher = some k) (hpick : dispatchPick s = some (m, byF))
    (hstart : startStatus s m = none) :
    cipherDispatch s = setCore k { out := false, msg := some { m with key := startKey s m } }
      (modCipher (fun x => { x with holdUsed := x.holdUsed + (if isHeld m then msgP m else 0) }) (dispatched m byF s)) := by
  simp only [cipherDispatch, hfree, hpick, hstart]
  rfl

theorem cipherDispatch_ends (hfree : freeCore s.cipher = some k) (hpick : dispatchPick s = some (m, byF))
    (hstart : startStatus s m = some st) : cipherDispatch s = endMsg m st (dispatched m byF s) := by
  simp only [cipherDispatch, hfree, hpick, hstart]
  rfl

theorem cipherDispatch_idle (h : freeCore s.cipher = none ∨ dispatchPick s = none) : cipherDispatch s = s := by
  unfold cipherDispatch
  obtain h | h := h
  · rw [h]
  · rw [h]
    cases freeCore s.cipher <;> rfl

theorem runs_dispatch (hfree : freeCore s.cipher = some k) (hpick : dispatchPick s = some (m, byF))
    (hstart : startStatus s m = none) :
    Runs (.cipherDispatch t) s (fun u => coreAt u.cipher k = { out := false, msg := some { m with key := startKey s m } }
      ∧ (∀ j, j ≠ k → coreAt u.cipher j = coreAt s.cipher j)
      ∧ u.cipher.waiting = s.cipher.waiting.erase m
      ∧ u.cipher.holdUsed = s.cipher.holdUsed + (if isHeld m then msgP m else 0)
      ∧ u.cipher.slots = s.cipher.slots ∧ u = { advance t s with cipher := u.cipher }) := by
  have hrun := cipherDispatch_starts (s := advance t s) (by rwa [advance_cipher]) ((dispatchPick_advance t s).trans hpick)
    ((startStatus_advance t s m).trans hstart)
  obtain ⟨hwaiting, hslots, hcores, hheld, hrest⟩ := dispatched_spec m byF (advance t s)
  rw [advance_cipher] at hwaiting hslots hcores hheld
  refine ⟨_, congrArg Host.Outcome.next hrun, ?_, fun j hj => ?_, hwaiting, ?_, hslots, rfl⟩
  · rw [← startKey_advance t s m]
    exact coreAt_setCore_same _ _ fun h => Option.some_ne_none _ (congrArg Core.msg h)
  · refine (coreAt_setCore_other _ _ hj).trans ?_
    exact congrArg (fun c => Tab.get Core.reset c j) hcores
  · exact congrArg (· + (if isHeld m then msgP m else 0)) hheld

theorem runs_dispatch_ends (hcanon : Canonical s) (hfree : freeCore s.cipher = some k) (hpick : dispatchPick s = some (m, byF))
    (huser : m.user = .polder n) (hstart : startStatus s m = some st) :
    Runs (.cipherDispatch t) s (fun u => u.cipher.cores = s.cipher.cores
      ∧ u.cipher.waiting = s.cipher.waiting.erase m
      ∧ u.queue n m.q = { s.queue n m.q with chains := endChain (s.queue n m.q) m.ref st 0 }
      ∧ u = { advance t s with cipher := u.cipher, wq := u.wq }) := by
  obtain ⟨-, -, -, -, -, -, -, -, -, -, hqueues, -⟩ := hcanon
  obtain ⟨hwaiting, hslots, hcores, hheld, hrest⟩ := dispatched_spec m byF (advance t s)
  rw [advance_cipher] at hwaiting hcores
  have hrun : cipherDispatch (advance t s) = finishChain n m.q m.ref st 0 (dispatched m byF (advance t s)) := by
    rw [cipherDispatch_ends (s := advance t s) (by rwa [advance_cipher]) ((dispatchPick_advance t s).trans hpick)
      ((startStatus_advance t s m).trans hstart), endMsg, huser]
  have hset := queueSet_finishChain (fn := n) (q := m.q) (first := m.ref) (status := st) (result := 0)
    (s := dispatched m byF (advance t s)) (by rw [hrest]; rwa [advance_wq])
  have hqueue : (dispatched m byF (advance t s)).queue n m.q = s.queue n m.q := by
    rw [hrest]
    exact queue_advance s t n m.q
  rw [hqueue] at hset
  exact ⟨_, congrArg Host.Outcome.next hrun, (congrArg Cipher.cores (queueSet_cipher hset)).trans hcores,
    (congrArg Cipher.waiting (queueSet_cipher hset)).trans hwaiting, hset.2.1, rfl⟩

theorem runs_dispatch_idle (h : freeCore s.cipher = none ∨ dispatchPick s = none) :
    Runs (.cipherDispatch t) s (fun u => u = advance t s) :=
  ⟨_, congrArg Host.Outcome.next (cipherDispatch_idle (s := advance t s) (by rwa [advance_cipher, dispatchPick_advance])), rfl⟩

end Dispatch

/-! ### A core that fails (R395) -/

section Fault
variable {t k : Nat} {s : State}

/-- The core leaves service, and what it held is empty. -/
def coreOut (k : Nat) (m : CMsg) (s : State) : State := setCore k { out := true, msg := none } (freeCoreOf k m s)

section Cases
variable {m : CMsg} (hin : (coreAt s.cipher k).out = false)
include hin

theorem coreFault_idle (h : (coreAt s.cipher k).msg = none) :
    coreFault k s = setCore k { out := true, msg := none } (raise 289 (count 0x4101 6 s)) := by
  simp only [coreFault, hin, h, Bool.false_eq_true, ↓reduceIte]

theorem coreFault_again (h : (coreAt s.cipher k).msg = some m) (hre : m.restarted = true) :
    coreFault k s = endMsg m stNO_RESOURCE (coreOut k m (raise 289 (count 0x4101 6 s))) := by
  simp only [coreFault, hin, h, hre, Bool.false_eq_true, ↓reduceIte]
  rfl

theorem coreFault_back (h : (coreAt s.cipher k).msg = some m) (hre : m.restarted = false) :
    coreFault k s = cipherWait { m with restarted := true } (coreOut k m (raise 289 (count 0x4101 6 s))) := by
  simp only [coreFault, hin, h, hre, Bool.false_eq_true, ↓reduceIte]
  rfl

end Cases

/-- The end of a message changes the record of its queue or its journal unit. -/
theorem endMsg_rest (m : CMsg) (st : Nat) (s : State) :
    endMsg m st s = { s with wq := (endMsg m st s).wq, jrn := (endMsg m st s).jrn } := by
  unfold endMsg
  cases m.user <;> rfl

/-- The fault is counted and raised. -/
theorem faultRaised_spec (s : State) : (raise 289 (count 0x4101 6 s)).cipher = s.cipher ∧ (raise 289 (count 0x4101 6 s)).wq = s.wq
    ∧ counter (raise 289 (count 0x4101 6 s)) 0x4101 6 = satAdd64 (counter s 0x4101 6) 1
    ∧ (evtStat (raise 289 (count 0x4101 6 s)) 9).testBit 1 = true := by
  have hsig := signals_raise 289 (count 0x4101 6 s)
  exact ⟨hsig.cipher.trans (by simp), hsig.wq.trans (by simp), (hsig.counter 0x4101 6).trans (counter_countQ ..),
    raise_sets (n := 289) (by decide) _⟩

theorem evtStat_eq {s u : State} (h : u.evt = s.evt) (g : Nat) : evtStat u g = evtStat s g :=
  congrArg (fun e : Events => (Tab.get 0#32 e.stat g).toNat) h

section Fields
variable (m : CMsg) (st : Nat) (s : State)

theorem endMsg_cipher : (endMsg m st s).cipher = s.cipher := (congrArg State.cipher (endMsg_rest m st s) :)
theorem endMsg_dict : (endMsg m st s).dict = s.dict := (congrArg State.dict (endMsg_rest m st s) :)
theorem endMsg_evt : (endMsg m st s).evt = s.evt := (congrArg State.evt (endMsg_rest m st s) :)
theorem cipherWait_dict : (cipherWait m s).dict = s.dict := (congrArg State.dict (cipherWait_spec m s).2.2.2 :)
theorem cipherWait_evt : (cipherWait m s).evt = s.evt := (congrArg State.evt (cipherWait_spec m s).2.2.2 :)
theorem coreOut_dict (k : Nat) : (coreOut k m s).dict = s.dict := rfl
theorem coreOut_evt (k : Nat) : (coreOut k m s).evt = s.evt := rfl
theorem coreOut_wq (k : Nat) : (coreOut k m s).wq = s.wq := rfl
theorem coreOut_waiting (k : Nat) : (coreOut k m s).cipher.waiting = s.cipher.waiting := rfl
theorem coreAt_coreOut (k : Nat) : coreAt (coreOut k m s).cipher k = { out := true, msg := none } :=
  coreAt_setCore_same _ _ (by decide)

end Fields

/-- A message whose core failed once before ends. -/
theorem endMsg_coreOut {n : Nat} {m : CMsg} {z : State} (hqueues : Tab.wf Queue.reset z.wq.queues = true) (k : Nat)
    (huser : m.user = .polder n) (st : Nat) : (endMsg m st (coreOut k m z)).queue n m.q
      = { z.queue n m.q with chains := endChain (z.queue n m.q) m.ref st 0 } := by
  have hset := queueSet_finishChain (fn := n) (q := m.q) (first := m.ref) (status := st) (result := 0)
    (s := coreOut k m z) (by rwa [coreOut_wq])
  have hfin : endMsg m st (coreOut k m z) = finishChain n m.q m.ref st 0 (coreOut k m z) := by
    rw [endMsg, huser]
  rw [hfin, hset.2.1, queue_congr (coreOut_wq m z k) n m.q]

theorem runs_coreFault (hcanon : Canonical s) (hk : k < 256) (hin : (coreAt s.cipher k).out = false) :
    Runs (.cipherCoreFault t k) s (fun u => coreAt u.cipher k = { out := true, msg := none }
      ∧ counter u 0x4101 6 = satAdd64 (counter s 0x4101 6) 1 ∧ (evtStat u 9).testBit 1 = true
      ∧ (∀ m, (coreAt s.cipher k).msg = some m → m.restarted = false →
          u.cipher.waiting = s.cipher.waiting ++ [{ m with restarted := true }])
      ∧ (∀ m n, (coreAt s.cipher k).msg = some m → m.restarted = true → m.user = .polder n →
          u.queue n m.q = { s.queue n m.q with chains := endChain (s.queue n m.q) m.ref stNO_RESOURCE 0 })) := by
  obtain ⟨-, -, -, -, -, -, -, -, -, -, hqueues, -⟩ := hcanon
  have hrun : exec (.cipherCoreFault t k) s = .next (coreFault k (advance t s)) := congrArg Host.Outcome.next (if_pos hk)
  have hin' : (coreAt (advance t s).cipher k).out = false := by rwa [advance_cipher]
  have hmsg' : (coreAt (advance t s).cipher k).msg = (coreAt s.cipher k).msg := by rw [advance_cipher]
  obtain ⟨hcipher, hwq, hcount, hevt⟩ := faultRaised_spec (advance t s)
  rw [advance_cipher] at hcipher
  rw [advance_wq] at hwq
  rw [counter_advance] at hcount
  cases hmsg : (coreAt s.cipher k).msg with
  | none =>
    refine ⟨_, hrun.trans (congrArg _ (coreFault_idle hin' (hmsg'.trans hmsg))), ?_⟩
    exact ⟨coreAt_setCore_same _ _ (by decide), hcount, hevt, fun m h => (by cases h), fun m n h => (by cases h)⟩
  | some m =>
    have hagain := coreFault_again (m := m) hin' (hmsg'.trans hmsg)
    have hback := coreFault_back (m := m) hin' (hmsg'.trans hmsg)
    generalize raise 289 (count 0x4101 6 (advance t s)) = z at hcipher hwq hcount hevt hagain hback
    cases hre : m.restarted with
    | true =>
      refine ⟨_, hrun.trans (congrArg _ (hagain hre)), ?_, ?_, ?_, fun m' h hre' => ?_, fun m' n h _ huser => ?_⟩
      · rw [endMsg_cipher]
        exact coreAt_coreOut m z k
      · rw [counter_congr (congrArg Dict.counters ((endMsg_dict m _ _).trans (coreOut_dict m z k)))]
        exact hcount
      · rw [evtStat_eq ((endMsg_evt m _ _).trans (coreOut_evt m z k))]
        exact hevt
      · cases h
        exact Bool.noConfusion (hre.symm.trans hre')
      · cases h
        rw [endMsg_coreOut (by rwa [hwq]) k huser, queue_congr hwq n m.q]
    | false =>
      obtain ⟨hwait, -, hcores, -⟩ := cipherWait_spec { m with restarted := true } (coreOut k m z)
      refine ⟨_, hrun.trans (congrArg _ (hback hre)), ?_, ?_, ?_, fun m' h _ => ?_, fun m' n h hre' => ?_⟩
      · exact (congrArg (fun c => Tab.get Core.reset c k) hcores).trans (coreAt_coreOut m z k)
      · rw [counter_congr (congrArg Dict.counters ((cipherWait_dict _ _).trans (coreOut_dict m z k)))]
        exact hcount
      · rw [evtStat_eq ((cipherWait_evt _ _).trans (coreOut_evt m z k))]
        exact hevt
      · cases h
        rw [hwait, coreOut_waiting, hcipher]
      · cases h
        exact Bool.noConfusion (hre.symm.trans hre')

end Fault

end Sys2Proof.Machine
end

section
/-! The end of a cipher message: its core, its counters, its output and its chain (spec 12 R405 to R410). -/

namespace Sys2Proof.Machine
open Sys2Proof

/-! ### Writes that stay -/

theorem mem_out_queueWrite {fn q idx addr : Nat} {marks : List Bytes} {data : Bytes} {s : State} {o : Out} (h : o ∈ s.out) :
    o ∈ (queueWrite fn q idx addr marks data s).out :=
  ((Keeps.refl s).queueWrite fn q idx addr marks data).mem_out h

theorem writes_mono {s u v : State} {fn q addr : Nat} {data : Bytes} (h : ∀ o ∈ u.out, o ∈ v.out)
    (hw : Writes s fn q addr data u) : Writes s fn q addr data v := fun hruns p hp => h _ (hw hruns p hp)

/-! ### The message leaves its core -/

section Leaves
variable {k n : Nat} {m : CMsg} {s : State}

/-- The core is free, and the message is counted. -/
def leftCore (k : Nat) (m : CMsg) (s : State) : State := cipherCount m (freeCoreOf k m s)

theorem countQ_sameHost (idx sub a : Nat) (port tc polder : Option Nat) (s : State) :
    SameHost s (countQ idx sub a port tc polder s) := by
  obtain ⟨h1, h2, -⟩ := countQ_only idx sub a port tc polder s
  exact ⟨(congrArg (fun x : Endpoint => { x with asked := s.ep.asked }) h2 :), (congrArg State.wq h1 :), (congrArg State.polders h1 :)⟩

theorem leftCore_sameHost : SameHost s (leftCore k m s) :=
  SameHost.trans (u := freeCoreOf k m s) ⟨rfl, rfl, rfl⟩ ((countQ_sameHost ..).trans (countQ_sameHost ..))

theorem leftCore_core (hwf : Tab.wf Core.reset s.cipher.cores = true) :
    coreAt (leftCore k m s).cipher k = { coreAt s.cipher k with msg := none } := by
  have hcipher : (leftCore k m s).cipher = (freeCoreOf k m s).cipher := by simp [leftCore, cipherCount]
  rw [hcipher]
  exact coreAt_setCore_wf s { coreAt s.cipher k with msg := none } hwf

theorem leftCore_messages : counter (leftCore k m s) 0x4101 2 = satAdd64 (counter s 0x4101 2) 1 :=
  (counter_countQ_other (by decide) ..).trans (counter_countQ ..)

theorem leftCore_bytes : counter (leftCore k m s) 0x4101 3
    = if m.source = [] then counter s 0x4101 3 else satAdd64 (counter s 0x4101 3) m.source.length := by
  have hbefore : ∀ pol, counter (countQ 0x4101 2 1 none none pol (freeCoreOf k m s)) 0x4101 3 = counter s 0x4101 3 :=
    fun pol => counter_countQ_other (by decide) ..
  obtain ⟨pol, hpol⟩ : ∃ pol, leftCore k m s = countQ 0x4101 3 m.source.length none none pol
      (countQ 0x4101 2 1 none none pol (freeCoreOf k m s)) := ⟨_, rfl⟩
  rw [hpol]
  split
  · next h => rw [h, List.length_nil, countQ, if_pos rfl, hbefore]
  · next h => rw [counter_countQ_amount _ _ (List.length_pos_iff.2 h), hbefore]

theorem leftCore_failed : counter (leftCore k m s) 0x4101 4 = counter s 0x4101 4 :=
  (counter_countQ_other (by decide) ..).trans (counter_countQ_other (by decide) ..)

/-- A tag that does not match is counted apart. -/
theorem countFor_failed (n : Nat) (z : State) : (countFor 0x4101 4 1 n z).wq = z.wq ∧ (countFor 0x4101 4 1 n z).cipher = z.cipher
    ∧ counter (countFor 0x4101 4 1 n z) 0x4101 2 = counter z 0x4101 2
    ∧ counter (countFor 0x4101 4 1 n z) 0x4101 3 = counter z 0x4101 3
    ∧ counter (countFor 0x4101 4 1 n z) 0x4101 4 = satAdd64 (counter z 0x4101 4) 1 :=
  ⟨by simp [countFor], by simp [countFor], counter_countQ_other (by decide) .., counter_countQ_other (by decide) ..,
    counter_countQ ..⟩

/-- The chain of a verification ends as its tag says. -/
def verified (n q ref : Nat) (ok : Bool) (z : State) : State :=
  if ok then finishChain n q ref stOK 0 z else finishChain n q ref stAUTH_FAIL 0 (countFor 0x4101 4 1 n z)

theorem verified_spec {n q ref : Nat} {z : State} (hwf : Tab.wf Queue.reset z.wq.queues = true) (ok : Bool) :
    (verified n q ref ok z).cipher = z.cipher ∧ counter (verified n q ref ok z) 0x4101 2 = counter z 0x4101 2
    ∧ counter (verified n q ref ok z) 0x4101 3 = counter z 0x4101 3
    ∧ (ok = true → (verified n q ref ok z).queue n q = { z.queue n q with chains := endChain (z.queue n q) ref 0 0 }
        ∧ counter (verified n q ref ok z) 0x4101 4 = counter z 0x4101 4)
    ∧ (ok = false → (verified n q ref ok z).queue n q = { z.queue n q with chains := endChain (z.queue n q) ref 3 0 }
        ∧ counter (verified n q ref ok z) 0x4101 4 = satAdd64 (counter z 0x4101 4) 1) := by
  cases ok with
  | true =>
    have hset := queueSet_finishChain (fn := n) (q := q) (first := ref) (status := stOK) (result := 0) hwf
    exact ⟨queueSet_cipher hset, queueSet_counter hset _ _, queueSet_counter hset _ _, fun _ => ⟨hset.2.1, queueSet_counter hset _ _⟩,
      fun h => Bool.noConfusion h⟩
  | false =>
    have hfail : verified n q ref false z = finishChain n q ref stAUTH_FAIL 0 (countFor 0x4101 4 1 n z) := rfl
    obtain ⟨hwq, hcipher, h2, h3, h4⟩ := countFor_failed n z
    rw [hfail]
    generalize countFor 0x4101 4 1 n z = y at *
    have hset := queueSet_finishChain (fn := n) (q := q) (first := ref) (status := stAUTH_FAIL) (result := 0)
      (s := y) (by rwa [hwq])
    refine ⟨(queueSet_cipher hset).trans hcipher, (queueSet_counter hset _ _).trans h2, (queueSet_counter hset _ _).trans h3,
      fun h => Bool.noConfusion h, fun _ => ⟨hset.2.1.trans ?_, (queueSet_counter hset _ _).trans h4⟩⟩
    rw [queue_congr hwq]
    rfl

theorem messageDone_polder (hmsg : (coreAt s.cipher k).msg = some m) (huser : m.user = .polder n) (hruns : fnRuns s n = true) :
    cipherMessageDone k s = finishCipher n m (leftCore k m s) := by
  simp only [cipherMessageDone, hmsg, huser, hruns, ↓reduceIte]
  rfl

theorem messageDone_waits (hmsg : (coreAt s.cipher k).msg = some m) (huser : m.user = .polder n) (hruns : fnRuns s n = false) :
    cipherMessageDone k s = s := by
  simp only [cipherMessageDone, hmsg, huser, hruns, Bool.false_eq_true, ↓reduceIte]

theorem messageDone_idle (hmsg : (coreAt s.cipher k).msg = none) : cipherMessageDone k s = s := by
  simp only [cipherMessageDone, hmsg]

end Leaves

/-! ### What a message leaves in its queue -/

section Finish
variable {n : Nat} {m : CMsg} {ch : Chain} {s : State} (hch : chainAt (s.queue n m.q) m.ref = some ch)
include hch

/-- A tag that is only compared. -/
theorem finishCipher_verify {tag : Bytes} (hlen : ch.entries.length = 1) {ok : Bool} (hr : cipherResult m = (tag, none, ok)) :
    finishCipher n m s = verified n m.q m.ref ok s := by
  have hsegs : outputSegs ch.entries = [] := by
    obtain ⟨e, he⟩ := List.length_eq_one_iff.1 hlen
    rw [he]
    rfl
  simp only [finishCipher, hch, hsegs, hr, writeSegs, verified]

variable {hd d : Bytes} (hentries : ch.entries = [hd, d])
include hentries

omit hch in
/-- One data entry that is not authenticated only takes the whole output. -/
theorem outputSegs_one (hauth : authOnly hd [d] 0 = false) : outputSegs ch.entries = [(cDest d, eLength d)] := by
  rw [hentries]
  simp [outputSegs, hauth]

theorem finishCipher_text {text : Bytes} (hauth : authOnly hd [d] 0 = false) (hr : cipherResult m = (text, none, true)) :
    finishCipher n m s = finishChain n m.q m.ref stOK 0 (queueWrite n m.q m.ref (cDest d) [hd] (text.take (eLength d)) s) := by
  have hhead : ch.entries.headD [] = hd := by rw [hentries]; rfl
  simp only [finishCipher, hch, outputSegs_one hentries hauth, hr, hhead, writeSegs, ↓reduceIte]

theorem finishCipher_tagged {text tag : Bytes} (hauth : authOnly hd [d] 0 = false) (hr : cipherResult m = (text, some tag, true)) :
    finishCipher n m s = finishChain n m.q m.ref stOK 0 (queueWrite n m.q m.ref (eAddr hd + 16) [hd] tag
      (queueWrite n m.q m.ref (cDest d) [hd] (text.take (eLength d)) s)) := by
  have hhead : ch.entries.headD [] = hd := by rw [hentries]; rfl
  simp only [finishCipher, hch, outputSegs_one hentries hauth, hr, hhead, writeSegs, ↓reduceIte]

end Finish

/-! ### Results by operation -/

section Result
variable {m : CMsg}

theorem cipherResult_verify (h : m.op = 0x13) : cipherResult m
    = ([], none, decide ((Config.gcmEncrypt m.key (m.params.take 12) m.source []).2 = slice m.params 16 16)) := by
  simp [cipherResult, h]

theorem cipherResult_encrypt (h : m.op = 0x10) (haad : m.aad = 0) : cipherResult m
    = ((Config.gcmEncrypt m.key (m.params.take 12) [] m.source).1, some (Config.gcmEncrypt m.key (m.params.take 12) [] m.source).2, true) := by
  simp [cipherResult, h, haad]

theorem cipherResult_plain {r : Bytes} (h : (m.op = 0x14 ∧ r = Config.aesCtr m.key (m.params.take 16) m.source)
      ∨ (m.op = 0x15 ∧ r = Config.xtsEncrypt m.key (m.params.take 16) m.source)
      ∨ (m.op = 0x16 ∧ r = Config.xtsDecrypt m.key (m.params.take 16) m.source)) : cipherResult m = (r, none, true) := by
  obtain ⟨h, rfl⟩ | ⟨h, rfl⟩ | ⟨h, rfl⟩ := h <;> simp [cipherResult, h]

end Result

/-! ### CIPHER_MESSAGE_DONE -/

section Done
variable {t k n : Nat} {m : CMsg} {ch : Chain} {s : State} (hcanon : Canonical s) (hmsg : (coreAt s.cipher k).msg = some m)
  (huser : m.user = .polder n) (hruns : fnRuns s n = true) (hch : chainAt (s.queue n m.q) m.ref = some ch)
include hcanon hmsg huser hruns hch

theorem messageDone_start : Tab.wf Queue.reset s.wq.queues = true ∧ Tab.wf Core.reset s.cipher.cores = true
    ∧ exec (.cipherMessageDone t k) s = .next (finishCipher n m (leftCore k m (advance t s)))
    ∧ chainAt ((leftCore k m (advance t s)).queue n m.q) m.ref = some ch
    ∧ SameHost (advance t s) (leftCore k m (advance t s)) := by
  obtain ⟨-, -, -, -, -, -, -, -, -, -, hqueues, ⟨-, hcores⟩, -⟩ := hcanon
  have hsame := leftCore_sameHost (k := k) (m := m) (s := advance t s)
  refine ⟨hqueues, hcores, congrArg Host.Outcome.next (messageDone_polder (by rwa [advance_cipher]) huser (by rwa [fnRuns_advance])),
    ?_, hsame⟩
  rwa [hsame.queue, queue_advance]

theorem runs_messageVerify (hop : m.op = 0x13) (hlen : ch.entries.length = 1) :
    Runs (.cipherMessageDone t k) s (fun u => (coreAt u.cipher k).msg = none
      ∧ (coreAt u.cipher k).out = (coreAt s.cipher k).out
      ∧ counter u 0x4101 2 = satAdd64 (counter s 0x4101 2) 1
      ∧ counter u 0x4101 3 = (if m.source = [] then counter s 0x4101 3 else
          satAdd64 (counter s 0x4101 3) m.source.length)
      ∧ ((Config.gcmEncrypt m.key (m.params.take 12) m.source []).2 = slice m.params 16 16 →
          u.queue n m.q = { s.queue n m.q with chains := endChain (s.queue n m.q) m.ref 0 0 }
          ∧ counter u 0x4101 4 = counter s 0x4101 4)
      ∧ ((Config.gcmEncrypt m.key (m.params.take 12) m.source []).2 ≠ slice m.params 16 16 →
          u.queue n m.q = { s.queue n m.q with chains := endChain (s.queue n m.q) m.ref 3 0 }
          ∧ counter u 0x4101 4 = satAdd64 (counter s 0x4101 4) 1)) := by
  obtain ⟨hqueues, hcores, hrun, hch', hsame⟩ := messageDone_start (t := t) hcanon hmsg huser hruns hch
  have hresult := cipherResult_verify hop
  generalize (Config.gcmEncrypt m.key (m.params.take 12) m.source []).2 = tag at hresult ⊢
  have hcore := leftCore_core (k := k) (m := m) (s := advance t s) (by rwa [advance_cipher])
  rw [advance_cipher] at hcore
  have hwq : (leftCore k m (advance t s)).wq = s.wq := hsame.wq.trans (advance_wq ..)
  obtain ⟨hcipher, hmessages, hbytes, hgood, hbad⟩ := verified_spec (n := n) (q := m.q) (ref := m.ref)
    (z := leftCore k m (advance t s)) (by rwa [hwq]) (decide (tag = slice m.params 16 16))
  rw [leftCore_messages, counter_advance] at hmessages
  rw [leftCore_bytes, counter_advance] at hbytes
  rw [leftCore_failed, counter_advance, queue_congr hwq] at hgood hbad
  refine ⟨_, hrun.trans (congrArg _ (finishCipher_verify hch' hlen hresult)), ?_, ?_, hmessages, hbytes,
    fun h => hgood (decide_eq_true h), fun h => hbad (decide_eq_false h)⟩
  · rw [hcipher, hcore]
  · rw [hcipher, hcore]

variable {hd d : Bytes} (hentries : ch.entries = [hd, d])
include hentries

theorem runs_messageText {r : Bytes} (hauth : authOnly hd [d] 0 = false) (hr : cipherResult m = (r, none, true))
    (hok : requestRefused s n m.q (cDest d) (r.take (eLength d)).length = false) (hddr : isDdr (cDest d) = false) :
    Runs (.cipherMessageDone t k) s (fun u => (coreAt u.cipher k).msg = none
      ∧ Writes s n m.q (cDest d) (r.take (eLength d)) u
      ∧ u.queue n m.q = { s.queue n m.q with chains := endChain (s.queue n m.q) m.ref 0 0 }) := by
  obtain ⟨hqueues, hcores, hrun, hch', hsame⟩ := messageDone_start (t := t) hcanon hmsg huser hruns hch
  have hfin := finishCipher_text hch' hentries hauth hr
  have hcore := leftCore_core (k := k) (m := m) (s := advance t s) (by rwa [advance_cipher])
  rw [advance_cipher] at hcore
  generalize leftCore k m (advance t s) = z at hfin hcore hsame hrun
  have hok' : requestRefused (advance t s) n m.q (cDest d) (r.take (eLength d)).length = false := by rwa [requestRefused_advance]
  have htr := transmits_queueWrite (idx := m.ref) (marks := [hd]) (u := z) ((requestRefused_of_host hsame ..).trans hok') hddr
  have hwq := htr.wq.trans (hsame.wq.trans (advance_wq ..))
  have hset := queueSet_finishChain (fn := n) (q := m.q) (first := m.ref) (status := stOK) (result := 0)
    (s := queueWrite n m.q m.ref (cDest d) [hd] (r.take (eLength d)) z) (by rwa [hwq])
  refine ⟨_, hrun.trans (congrArg _ hfin), ?_, ?_, ?_⟩
  · rw [queueSet_cipher hset, htr.cipher, hcore]
  · refine (writes_advance ..).1 (writes_mono (fun o ho => ?_) (writes_queueWrite (idx := m.ref) (marks := [hd]) hsame hok' hddr))
    rwa [queueSet_out hset]
  · rw [hset.2.1, queue_congr hwq]
    rfl

theorem runs_messageTagged {text tag : Bytes} (hauth : authOnly hd [d] 0 = false) (hr : cipherResult m = (text, some tag, true))
    (hok : requestRefused s n m.q (cDest d) (text.take (eLength d)).length = false) (hddr : isDdr (cDest d) = false)
    (hoktag : requestRefused s n m.q (eAddr hd + 16) tag.length = false) (hddrtag : isDdr (eAddr hd + 16) = false) :
    Runs (.cipherMessageDone t k) s (fun u => (coreAt u.cipher k).msg = none
      ∧ Writes s n m.q (cDest d) (text.take (eLength d)) u ∧ Writes s n m.q (eAddr hd + 16) tag u
      ∧ u.queue n m.q = { s.queue n m.q with chains := endChain (s.queue n m.q) m.ref 0 0 }) := by
  obtain ⟨hqueues, hcores, hrun, hch', hsame⟩ := messageDone_start (t := t) hcanon hmsg huser hruns hch
  have hfin := finishCipher_tagged hch' hentries hauth hr
  have hcore := leftCore_core (k := k) (m := m) (s := advance t s) (by rwa [advance_cipher])
  rw [advance_cipher] at hcore
  generalize leftCore k m (advance t s) = z at hfin hcore hsame hrun
  have hok' : requestRefused (advance t s) n m.q (cDest d) (text.take (eLength d)).length = false := by rwa [requestRefused_advance]
  have hoktag' : requestRefused (advance t s) n m.q (eAddr hd + 16) tag.length = false := by rwa [requestRefused_advance]
  have htr := transmits_queueWrite (idx := m.ref) (marks := [hd]) (u := z) ((requestRefused_of_host hsame ..).trans hok') hddr
  have hwrite := writes_queueWrite (idx := m.ref) (marks := [hd]) hsame hok' hddr
  generalize queueWrite n m.q m.ref (cDest d) [hd] (text.take (eLength d)) z = y at hfin htr hwrite
  have hsame' := hsame.trans htr.sameHost
  have hoktag'' := (requestRefused_of_host hsame' ..).trans hoktag'
  have htr' := transmits_queueWrite (idx := m.ref) (marks := [hd]) (u := y) hoktag'' hddrtag
  have hwq := htr'.wq.trans (hsame'.wq.trans (advance_wq ..))
  have hset := queueSet_finishChain (fn := n) (q := m.q) (first := m.ref) (status := stOK) (result := 0)
    (s := queueWrite n m.q m.ref (eAddr hd + 16) [hd] tag y) (by rwa [hwq])
  refine ⟨_, hrun.trans (congrArg _ hfin), ?_, ?_, ?_, ?_⟩
  · rw [queueSet_cipher hset, htr'.cipher, htr.cipher, hcore]
  · refine (writes_advance ..).1 (writes_mono (fun o ho => ?_) hwrite)
    rw [queueSet_out hset]
    exact mem_out_queueWrite ho
  · refine (writes_advance ..).1 (writes_mono (fun o ho => ?_) (writes_queueWrite (idx := m.ref) (marks := [hd]) hsame' hoktag' hddrtag))
    rwa [queueSet_out hset]
  · rw [hset.2.1, queue_congr hwq]
    rfl

end Done

end Sys2Proof.Machine

namespace Sys2Proof
open Machine

/-- Settles O27: a message is taken up with its bytes, dispatched as its start says, and its end frees its core, writes
what its operation gives, and ends its chain. -/
theorem cipherMessages : Obligations.CipherMessages := by
  refine ⟨takesMessage fun _ _ _ _ _ _ => rfl, takesMessage fun _ _ _ _ _ _ => rfl, takesMessage fun _ _ _ _ _ _ => rfl,
    takesMessage fun _ _ _ _ _ _ => rfl, takesMessage fun _ _ _ _ _ _ => rfl, takesMessage fun _ _ _ _ _ _ => rfl,
    takesMessage fun _ _ _ _ _ _ => rfl, ?_, ?_, ?_, ?_, ?_, ?_, ?_, ?_, ?_⟩
  · intro t k m byF s hfree hpick hstart
    exact runs_dispatch hfree hpick hstart
  · intro t k n st m byF s hcanon hfree hpick huser hstart
    exact runs_dispatch_ends hcanon hfree hpick huser hstart
  · intro t s h
    exact runs_dispatch_idle h
  · intro t k n m ch s hcanon hmsg huser hruns hop hch hlen
    exact runs_messageVerify hcanon hmsg huser hruns hch hop hlen
  · rintro t k n m hd d r ch s hcanon hmsg huser hruns hop haad hch hentries hhead hlow rfl hok hddr hoktag hddrtag
    have hauth : authOnly hd [d] 0 = false := by simp [authOnly, hhead, hlow, cIsGmac]
    exact runs_messageTagged hcanon hmsg huser hruns hch hentries hauth (cipherResult_encrypt hop haad) hok hddr hoktag hddrtag
  · intro t k n m hd d r ch s hcanon hmsg huser hruns _ hch hentries hhead hr hok hddr
    have hauth : authOnly hd [d] 0 = false := by
      obtain ⟨h, -⟩ | ⟨h, -⟩ | ⟨h, -⟩ := hr <;> simp [authOnly, hhead, h, cIsGmac, cIsGcm]
    exact runs_messageText hcanon hmsg huser hruns hch hentries hauth (cipherResult_plain hr) hok hddr
  · intro t k n m s hmsg huser hruns
    exact ⟨_, congrArg Host.Outcome.next (messageDone_waits (s := advance t s) (by rwa [advance_cipher]) huser (by rwa [fnRuns_advance])), rfl⟩
  · intro t k s hmsg
    exact ⟨_, congrArg Host.Outcome.next (messageDone_idle (s := advance t s) (by rwa [advance_cipher])), rfl⟩
  · intro t k s hcanon hk hin
    exact runs_coreFault hcanon hk hin

end Sys2Proof
end

section
/-! Packets of Siphon channels on their way out (spec 13 R440): what a channel is after changes of it alone, and what
sending leaves. -/

namespace Sys2Proof.Machine
open Sys2Proof

/-! ### One channel changes -/

/-- From `s` to `u` channel `g` became `c`, and no other channel and no region changed. -/
structure ChannelSet (g : Nat) (c : Channel) (s u : State) : Prop where
  wf : Tab.wf Channel.reset u.siphon.channels = true
  same : u.channel g = c
  other : ∀ j, j ≠ g → u.channel j = s.channel j
  regions : u.siphon.regions = s.siphon.regions

section Set
variable {g : Nat} {c : Channel} {s u v : State}

theorem channel_congr (h : u.siphon = s.siphon) (j : Nat) : u.channel j = s.channel j :=
  congrArg (fun x : Siphon => Tab.get Channel.reset x.channels j) h

theorem ChannelSet.refl (hwf : Tab.wf Channel.reset s.siphon.channels = true) (g : Nat) : ChannelSet g (s.channel g) s s :=
  ⟨hwf, rfl, fun _ _ => rfl, rfl⟩

/-- What leaves the Siphon alone may come after. -/
theorem ChannelSet.then (h : ChannelSet g c s u) (hv : v.siphon = u.siphon) : ChannelSet g c s v := by
  obtain ⟨hwf, hsame, hother, hregions⟩ := h
  exact ⟨by rwa [hv], (channel_congr hv g).trans hsame, fun j hj => (channel_congr hv j).trans (hother j hj),
    (congrArg Siphon.regions hv).trans hregions⟩

/-- What leaves the Siphon alone may come before. -/
theorem ChannelSet.after (h : ChannelSet g c s u) (hs : s.siphon = v.siphon) : ChannelSet g c v u := by
  obtain ⟨hwf, hsame, hother, hregions⟩ := h
  exact ⟨hwf, hsame, fun j hj => (hother j hj).trans (channel_congr hs j), hregions.trans (congrArg Siphon.regions hs)⟩

theorem ChannelSet.set (h : ChannelSet g c s u) (x : Channel) : ChannelSet g x s (u.setChannel g x) := by
  obtain ⟨hwf, hsame, hother, hregions⟩ := h
  exact ⟨wf_setChannel hwf g x, channel_setChannel_same hwf g x,
    fun j hj => (channel_setChannel_other u x hj).trans (hother j hj), hregions⟩

theorem ChannelSet.of_set (hwf : Tab.wf Channel.reset s.siphon.channels = true) (g : Nat) (x : Channel) :
    ChannelSet g x s (s.setChannel g x) := (ChannelSet.refl hwf g).set x

end Set

/-! ### Paths -/

/-- Path `i` of the list under `f`. -/
def pathsWith (i : Nat) (f : SPath → SPath) (l : List SPath) : List SPath :=
  l.zipIdx.map (fun e => if e.2 = i then f e.1 else e.1)

section Paths
variable {i : Nat} {f : SPath → SPath} {l : List SPath}

theorem getElem?_pathsWith (j : Nat) : (pathsWith i f l)[j]? = l[j]?.map (fun p => if j = i then f p else p) := by
  rw [pathsWith, List.getElem?_map, List.getElem?_zipIdx]
  cases l[j]? <;> simp

theorem getElem?_pathsWith_same {p : SPath} (h : l[i]? = some p) : (pathsWith i f l)[i]? = some (f p) := by
  rw [getElem?_pathsWith, h]
  simp

theorem getElem?_pathsWith_other {j : Nat} (h : j ≠ i) : (pathsWith i f l)[j]? = l[j]? := by
  rw [getElem?_pathsWith]
  simp [h]

theorem length_pathsWith : (pathsWith i f l).length = l.length := by simp [pathsWith]

theorem ChannelSet.setPath {g : Nat} {c : Channel} {s u : State} (h : ChannelSet g c s u) (i : Nat) (f : SPath → SPath) :
    ChannelSet g { c with paths := pathsWith i f c.paths } s (setPath g i f u) := by
  have hset := h.set { c with paths := pathsWith i f c.paths }
  rwa [← h.same] at hset ⊢

theorem frame_setPath (g i : Nat) (f : SPath → SPath) (s : State) : Frame [.siphon] s (setPath g i f s) :=
  Frame.setPath (.of_all (by decide)) (Frame.refl _ s) g i f

end Paths

/-! ### A packet is launched -/

section Launch
variable {s : State}

/-- A parcel in transit takes the next ticket. -/
def inTransit (p : Parcel) (s : State) : State :=
  modBuf (fun b => { b with transit := b.transit ++ [{ p with ticket := (ticket s).1 }] }) (ticket s).2

/-- A packet that meets a half Culvert that is down is gone, without a trace. -/
theorem launch_siphon {p : Parcel} {g psn : Nat} (hsrc : p.src = 4) (hinfo : p.info.src = .siphon g psn) :
    launch p s = if p.dst ≠ 4 ∧ culvDown s (hdCulvert p.dst) = true then s else inTransit p s := by
  have hlost : loseParcel p s = s := by
    simp only [loseParcel, hinfo, txLost, ite_self]
  unfold launch
  dsimp only
  by_cases h : p.dst = 4
  · rw [if_pos (hsrc.trans h.symm), if_neg (fun x => x.1 h)]
    rfl
  · rw [if_neg (fun x => h (x.symm.trans hsrc)), if_pos hsrc, hlost]
    cases hd : culvDown s (hdCulvert p.dst)
    · rw [if_neg (by simp), if_neg (by simp)]
      rfl
    · rw [if_pos rfl, if_pos ⟨h, rfl⟩]

/-- What counts a packet that goes out: the farm's work for it, and the packet. -/
def packetCounted (g : Nat) (pkt : Bytes) (s : State) : State :=
  sipCount 1 (s.channel g).fn (if chEnc (s.channel g) then sFarm (s.channel g).fn (pkt.length - 16) (drawNat s).2 else (drawNat s).2)

theorem sLaunch_eq (g i : Nat) (p : SPath) (pkt : Bytes) (ect : Bool) (psn : Nat) (s : State) :
    ∃ x : Parcel, x.src = 4 ∧ x.info.src = .siphon g psn ∧ x.dst = dieOf p.port
      ∧ sLaunch g i p pkt ect psn s = launch x (packetCounted g pkt s) := ⟨_, rfl, rfl, rfl, rfl⟩

theorem frame_packetCounted (g : Nat) (pkt : Bytes) : Frame [.free, .counters] s (packetCounted g pkt s) := by
  have hdraw : Frame [.free, .counters] s (drawNat s).2 := ⟨rfl, fun b n => by cases b <;> first | rfl | exact absurd (by decide) n⟩
  unfold packetCounted
  refine Frame.sipCount (.of_all (by decide)) (Frame.ite ?_ hdraw) _ _
  exact Frame.sFarm (.of_all (by decide)) hdraw _ _

theorem frame_inTransit (p : Parcel) : Frame [.id, .buf] s (inTransit p s) :=
  ⟨rfl, fun b n => by cases b <;> first | rfl | exact absurd (by decide) n⟩

theorem frame_sLaunch (g i : Nat) (p : SPath) (pkt : Bytes) (ect : Bool) (psn : Nat) :
    Frame [.free, .id, .counters, .buf] s (sLaunch g i p pkt ect psn s) := by
  obtain ⟨x, hsrc, hinfo, -, heq⟩ := sLaunch_eq g i p pkt ect psn s
  rw [heq, launch_siphon hsrc hinfo]
  have hcount : Frame [.free, .id, .counters, .buf] s (packetCounted g pkt s) := (frame_packetCounted g pkt).mono (.of_all (by decide))
  split
  · exact hcount
  · exact hcount.trans ((frame_inTransit x).mono (.of_all (by decide)))

theorem counter_packetCounted_other {g k : Nat} {pkt : Bytes} (hk : k < 256) (h : k ≠ 1) :
    counter (packetCounted g pkt s) 0x4203 k = counter s 0x4203 k := by
  have hfarm (sub n : Nat) (hs : sub < 256) (o : Option Nat) (y : State) : counter (countQ 0x4101 sub n none none o y) 0x4203 k
      = counter y 0x4203 k := counter_countQ_other (objKey_ne_of_idx hk hs (by decide)) ..
  unfold packetCounted sipCount countFor
  rw [counter_countQ_other (objKey_ne_of_sub hk (by decide) h)]
  split
  · unfold sFarm
    rw [hfarm _ _ (by decide), hfarm _ _ (by decide)]
    rfl
  · rfl

theorem counter_packetCounted_same {g : Nat} {pkt : Bytes} :
    counter (packetCounted g pkt s) 0x4203 1 = satAdd64 (counter s 0x4203 1) 1 := by
  have hfarm (sub n : Nat) (hs : sub < 256) (o : Option Nat) (y : State) : counter (countQ 0x4101 sub n none none o y) 0x4203 1
      = counter y 0x4203 1 := counter_countQ_other (objKey_ne_of_idx (by decide) hs (by decide)) ..
  unfold packetCounted sipCount countFor
  rw [counter_countQ]
  split
  · unfold sFarm
    rw [hfarm _ _ (by decide), hfarm _ _ (by decide)]
    rfl
  · rfl

theorem counter_launch_siphon {p : Parcel} {g psn : Nat} (hsrc : p.src = 4) (hinfo : p.info.src = .siphon g psn) (idx sub : Nat) :
    counter (launch p s) idx sub = counter s idx sub := by
  rw [launch_siphon hsrc hinfo]
  split <;> rfl

section Counts
variable (g i : Nat) (p : SPath) (pkt : Bytes) (ect : Bool) (psn : Nat)

theorem counter_sLaunch_same : counter (sLaunch g i p pkt ect psn s) 0x4203 1 = satAdd64 (counter s 0x4203 1) 1 := by
  obtain ⟨x, hsrc, hinfo, -, heq⟩ := sLaunch_eq g i p pkt ect psn s
  rw [heq, counter_launch_siphon hsrc hinfo, counter_packetCounted_same]

theorem counter_sLaunch_other {k : Nat} (hk : k < 256) (h : k ≠ 1) :
    counter (sLaunch g i p pkt ect psn s) 0x4203 k = counter s 0x4203 k := by
  obtain ⟨x, hsrc, hinfo, -, heq⟩ := sLaunch_eq g i p pkt ect psn s
  rw [heq, counter_launch_siphon hsrc hinfo, counter_packetCounted_other hk h]

/-- The packet is in transit, or lost where the half Culvert of its die is down. -/
theorem transit_sLaunch (hp : p.port < 512) : (sLaunch g i p pkt ect psn s).buf.transit.length
    = s.buf.transit.length + (if culvDown s (hdCulvert (dieOf p.port)) then 0 else 1) := by
  obtain ⟨x, hsrc, hinfo, hdst, heq⟩ := sLaunch_eq g i p pkt ect psn s
  have hframe := frame_packetCounted (s := s) g pkt
  have hculv : culvDown (packetCounted g pkt s) (hdCulvert x.dst) = culvDown s (hdCulvert (dieOf p.port)) := by
    rw [culvDown, hframe.culv (by decide), hdst]
    rfl
  have hdie : x.dst ≠ 4 := by
    rw [hdst, dieOf]
    omega
  have hbuf := hframe.buf (by decide)
  rw [heq, launch_siphon hsrc hinfo, hculv]
  generalize packetCounted g pkt s = y at hbuf
  cases culvDown s (hdCulvert (dieOf p.port))
  · rw [if_neg (by simp)]
    simp [inTransit, modBuf, ticket, hbuf]
  · rw [if_pos ⟨hdie, rfl⟩, hbuf]
    rfl

end Counts

end Launch

/-! ### A packet is carried -/

/-- The channel once packet `k` went out on path `i`, but for the path's bucket. -/
def carriedOn (t i : Nat) (k : SPkt) (fresh : Bool) (c : Channel) : Channel :=
  { c with
    sent := if fresh then c.sent ++ [{ k with path := some i, resend := false }]
      else c.sent.map (fun x => if x.psn = k.psn then { k with path := some i, resend := false } else x)
    rtoAt := if c.sent = [] then t else c.rtoAt
    lastPath := if fresh then i else c.lastPath
    nextPsn := if fresh then (c.nextPsn + 1) % 2 ^ 32 else c.nextPsn }

section Send
variable {t g i : Nat} {p : SPath} {k : SPkt} {fresh : Bool} {s u : State}

theorem sendPkt_eq (t g i : Nat) (p : SPath) (k : SPkt) (fresh : Bool) (u : State) : ∃ f pkt ect,
    sendPkt t g i p k fresh u
      = sLaunch g i p pkt ect k.psn (setPath g i f (u.setChannel g (carriedOn t i k fresh (u.channel g)))) := ⟨_, _, _, rfl⟩

theorem ChannelSet.sendPkt {c : Channel} (h : ChannelSet g c s u) : ∃ ps,
    ChannelSet g { carriedOn t i k fresh c with paths := ps } s (sendPkt t g i p k fresh u) := by
  obtain ⟨f, pkt, ect, heq⟩ := sendPkt_eq t g i p k fresh u
  rw [heq, h.same]
  exact ⟨_, ((h.set _).setPath i f).then ((frame_sLaunch ..).siphon (by decide))⟩

theorem wq_sendPkt : (sendPkt t g i p k fresh u).wq = u.wq := by
  obtain ⟨f, pkt, ect, heq⟩ := sendPkt_eq t g i p k fresh u
  rw [heq]
  exact (frame_sLaunch ..).wq (by decide)

theorem counter_sendPkt_same : counter (sendPkt t g i p k fresh u) 0x4203 1 = satAdd64 (counter u 0x4203 1) 1 := by
  obtain ⟨f, pkt, ect, heq⟩ := sendPkt_eq t g i p k fresh u
  rw [heq]
  exact counter_sLaunch_same ..

theorem counter_sendPkt_other {k' : Nat} (hk : k' < 256) (h : k' ≠ 1) :
    counter (sendPkt t g i p k fresh u) 0x4203 k' = counter u 0x4203 k' := by
  obtain ⟨f, pkt, ect, heq⟩ := sendPkt_eq t g i p k fresh u
  rw [heq]
  exact counter_sLaunch_other _ _ _ _ _ _ hk h

end Send

end Sys2Proof.Machine
end

section
/-! SIPHON_PACKET_SEND (spec 13 R440): a packet that goes again, and the next new packet with its bytes. -/

namespace Sys2Proof.Machine
open Sys2Proof

/-! ### The passage of time -/

section Advance
variable {t g : Nat} {s : State}

theorem farmFree_advance (t : Nat) (s : State) : farmFree (advance t s) = farmFree s := by rw [farmFree, advance_cipher, farmFree]

theorem portRate_advance (t : Nat) (s : State) (p : Nat) : portRate (advance t s) p = portRate s p := by
  unfold portRate portMode
  rw [cfgN_advance]

theorem pathTokens_congr {u : State} (hcfg : cfgN u 0x4201 1 = cfgN s 0x4201 1) (hrate : ∀ p, portRate u p = portRate s p)
    (c : Channel) (p : SPath) (t : Nat) : pathTokens u c p t = pathTokens s c p t := by
  simp only [pathTokens, pathRate, hcfg, hrate]

theorem pickPath_advance (a : Nat) (c : Channel) (o : Option Nat) (t : Nat) : pickPath (advance a s) c o t = pickPath s c o t := by
  simp only [pickPath, pathTokens_congr (cfgN_advance a s ..) (portRate_advance a s), portUp_advance]

theorem msgReq_advance (c : Channel) (m : SMsg) : msgReq (advance t s) c m = msgReq s c m := by
  unfold msgReq
  cases m.owner with
  | none => simp only [region_advance]
  | some o => exact queueReq_advance t s o.1 o.2.1

theorem msgRefused_advance (c : Channel) (m : SMsg) : msgRefused (advance t s) c m = msgRefused s c m := by
  unfold msgRefused
  cases m.owner with
  | none => simp only [msgReq_advance, acsBlocks_advance]
  | some o => simp only [requestRefused_advance]

theorem nextPayload_advance (c : Channel) (m : SMsg) (host : Bytes) : nextPayload (advance t s) c m host = nextPayload s c m host := by
  simp only [nextPayload, ddrRead, advance_siphon]

theorem readsBack_advance (w : Requester) (what : ReadFor) : readsBack (advance t s) w what = readsBack s w what := by
  simp only [readsBack, advance_ep_reads]

end Advance

/-! ### What is sent -/

section Send
variable {t g : Nat} {host : Option Bytes} {s : State}

/-- A channel that does not run, or waits for a core. -/
theorem siphonSend_waits (h : chRuns (s.channel g).state = false ∨ (chEnc (s.channel g) = true ∧ farmFree s = false)) :
    siphonSend t g host s = s := by
  unfold siphonSend
  rw [if_pos (by obtain h | ⟨h1, h2⟩ := h <;> simp [*])]

variable (hruns : chRuns (s.channel g).state = true) (hfree : chEnc (s.channel g) = true → farmFree s = true)
include hruns hfree

theorem siphonSend_new (h : (s.channel g).sent = []) : siphonSend t g host s = sendNew t g host s := by
  unfold siphonSend
  simp only [h, List.find?_nil]
  rw [if_neg (by cases he : chEnc (s.channel g) <;> simp [hruns, hfree, he])]

theorem siphonSend_again {k : SPkt} {i j : Nat} {p : SPath} {s1 : State} (hk : (s.channel g).sent.find? (·.resend) = some k)
    (hpath : k.path = some j) (hlost : pathLost t g j s = s1) (hpick : pickPath s1 (s1.channel g) (some j) t = some (i, p)) :
    siphonSend t g host s = sipCount 3 (s.channel g).fn (sendPkt t g i p k false s1) := by
  unfold siphonSend
  simp only [hk, hpath, hlost, hpick]
  rw [if_neg (by cases he : chEnc (s.channel g) <;> simp [hruns, hfree, he])]

end Send

/-- The packet of a message's next bytes. -/
def newPkt (c : Channel) (m : SMsg) (d : Bytes) : SPkt where
  psn := c.nextPsn
  op := m.op
  msg := m.id
  msgLen := m.len
  off := m.base + m.sent
  key := if m.op = 4 then 0 else m.key
  addr := m.addr
  imm := m.imm
  ackReq := decide (m.base + m.sent + d.length = m.len) || decide (d = [])
  payload := d
  path := none
  resend := false

theorem sendPart_only {t g i : Nat} {p : SPath} {m : SMsg} {d : Bytes} {s : State} (h : (s.channel g).msgs = [m]) :
    sendPart t g i p m d s = sendPkt t g i p (newPkt (s.channel g) m d) true
      (s.setChannel g { s.channel g with msgs := [cutMsg (s.channel g) m d.length] }) := by
  simp only [sendPart, h, List.map_cons, List.map_nil, ↓reduceIte]
  rfl

section New
variable {t g i : Nat} {host : Option Bytes} {p : SPath} {m : SMsg} {s : State} (hsent : (s.channel g).sent = [])
  (hmsgs : (s.channel g).msgs = [m]) (hsend : sendable (s.channel g) m = true)
  (hpick : pickPath s (s.channel g) none t = some (i, p)) (hok : msgRefused s (s.channel g) m = false)
include hsent hmsgs hsend hpick hok

theorem sendNew_packet {b d : Bytes} {s1 : State} (hbytes : packetBytes g (s.channel g) m host s = (some b, s1))
    (hpay : nextPayload s (s.channel g) m b = some d) : sendNew t g host s = sendPart t g i p m d s1 := by
  have hfind : (s.channel g).msgs.find? (sendable (s.channel g)) = some m := by simp [hmsgs, hsend]
  simp only [sendNew, lowestSent, hsent, List.head?_nil, hfind, hpick, hok, hbytes, Option.bind_some, hpay, Bool.false_eq_true,
    ↓reduceIte]

theorem sendNew_asks (hbytes : (packetBytes g (s.channel g) m none s).1 = none) :
    sendNew t g none s = (packetBytes g (s.channel g) m none s).2 := by
  have hfind : (s.channel g).msgs.find? (sendable (s.channel g)) = some m := by simp [hmsgs, hsend]
  simp only [sendNew, lowestSent, hsent, List.head?_nil, hfind, hpick, hok, hbytes, Option.bind_none, Option.isSome_none,
    Bool.false_eq_true, ↓reduceIte]

end New

/-! ### Its bytes -/

section Bytes
variable {g : Nat} {c : Channel} {m : SMsg} {s s1 : State}

theorem transmits_packetBytes {host b : Bytes} (h : packetBytes g c m (some host) s = (some b, s1)) : Transmits s s1 := by
  unfold packetBytes at h
  dsimp only at h
  split at h
  · cases h
    exact .refl s
  · split at h
    · next hread =>
      cases h
      exact transmits_readNow hread
    · cases h

theorem packetBytes_asks (hneeds : needsHost c m = true)
    (hback : readsBack s (msgReq s c m) (.packet g m.op m.id (m.base + m.sent)) = none) :
    (packetBytes g c m none s).1 = none := by
  simp only [packetBytes, hneeds, hback, Bool.not_true, Bool.false_eq_true, ↓reduceIte]

end Bytes

/-! ### A packet counts as lost before it goes again -/

/-- One more loss on a path. -/
def onceLost (p : SPath) : SPath := { p with losses := p.losses + 1 }

@[simp] theorem onceLost_up (p : SPath) : (onceLost p).up = p.up := rfl
@[simp] theorem onceLost_port (p : SPath) : (onceLost p).port = p.port := rfl

section Lost
variable {t g j : Nat} {s : State}

theorem pathLost_up {p : SPath} (hp : (s.channel g).paths[j]? = some p) (hprobe : p.probing = false)
    (hlow : p.losses + 1 < cfgN s 0x4200 9) : pathLost t g j s = setPath g j onceLost s := by
  simp only [pathLost, hp, hprobe, Bool.false_eq_true, ↓reduceIte]
  rw [if_neg (by omega)]
  rfl

/-- A loss does not change which path is picked. -/
theorem pickPath_onceLost {u : State} (hcfg : cfgN u 0x4201 1 = cfgN s 0x4201 1) (hrate : ∀ p, portRate u p = portRate s p)
    (hup : ∀ p, portUp u p = portUp s p) (c : Channel) (o : Option Nat) {i : Nat} {p : SPath}
    (h : pickPath s c o t = some (i, p)) :
    ∃ w, pickPath u { c with paths := pathsWith j onceLost c.paths } o t = some (i, w) := by
  have hmap : pickPath u { c with paths := pathsWith j onceLost c.paths } o t
      = (pickPath s c o t).map (fun e => (e.1, if e.1 = j then onceLost e.2 else e.2)) := by
    simp only [pickPath, List.map_findSome?, length_pathsWith]
    congr 1
    funext n
    simp only [getElem?_pathsWith, Function.comp_apply]
    cases c.paths[n]? with
    | none => rfl
    | some x =>
      have htok (y : SPath) (hy : y = x ∨ y = onceLost x) :
          pathTokens u { c with paths := pathsWith j onceLost c.paths } y t = pathTokens s c x t := by
        rw [pathTokens_congr hcfg hrate]
        obtain rfl | rfl := hy <;> rfl
      by_cases hn : n = j
      · simp only [hn, ↓reduceIte, Option.map_some, htok (onceLost x) (.inr rfl), hup, onceLost_up, onceLost_port]
        split <;> simp
      · simp only [hn, ↓reduceIte, Option.map_some, htok x (.inl rfl), hup]
        split <;> simp [hn]
  rw [hmap, h]
  exact ⟨_, rfl⟩

end Lost

/-! ### SIPHON_PACKET_SEND -/

section Runs
variable {t g i : Nat} {p : SPath} {s : State} (hcanon : Canonical s) (hruns : chRuns (s.channel g).state = true)
  (hfree : chEnc (s.channel g) = true → farmFree s = true)
include hcanon hruns hfree

theorem runs_sendNew {host b d : Bytes} {m : SMsg} {s1 : State} (hsent : (s.channel g).sent = [])
    (hmsgs : (s.channel g).msgs = [m]) (hsend : sendable (s.channel g) m = true)
    (hpick : pickPath s (s.channel g) none t = some (i, p)) (hok : msgRefused s (s.channel g) m = false)
    (hbytes : packetBytes g (s.channel g) m (some host) (advance t s) = (some b, s1))
    (hpay : nextPayload s (s.channel g) m b = some d) :
    Runs (.siphonPacketSend t g (some host)) s (fun u =>
      (∃ k, (u.channel g).sent = [k] ∧ k.psn = (s.channel g).nextPsn ∧ k.op = m.op ∧ k.msg = m.id ∧ k.msgLen = m.len
        ∧ k.off = m.base + m.sent ∧ k.payload = d ∧ k.path = some i ∧ k.resend = false)
      ∧ (u.channel g).msgs = [cutMsg (s.channel g) m d.length]
      ∧ (u.channel g).nextPsn = ((s.channel g).nextPsn + 1) % 2 ^ 32 ∧ (u.channel g).lastPath = i
      ∧ (u.channel g).rtoAt = t ∧ counter u 0x4203 1 = satAdd64 (counter s 0x4203 1) 1
      ∧ (∀ j, j ≠ g → u.channel j = s.channel j) ∧ u.wq = s.wq ∧ u.siphon.regions = s.siphon.regions) := by
  have hrun : siphonSend t g (some host) (advance t s) = sendPart t g i p m d s1 := by
    rw [siphonSend_new (by rwa [channel_advance]) (by rwa [channel_advance, farmFree_advance]) (by rwa [channel_advance])]
    refine sendNew_packet (b := b) ?_ ?_ ?_ ?_ ?_ ?_ ?_
    all_goals rw [channel_advance]
    · exact hsent
    · exact hmsgs
    · exact hsend
    · rwa [pickPath_advance]
    · rwa [msgRefused_advance]
    · exact hbytes
    · rwa [nextPayload_advance]
  have htr := transmits_packetBytes hbytes
  have hsip : s1.siphon = s.siphon := htr.siphon.trans (advance_siphon ..)
  have hchan : s1.channel g = s.channel g := channel_congr hsip g
  obtain ⟨-, -, -, -, -, -, -, -, -, -, -, -, ⟨hwf, -⟩, -⟩ := hcanon
  have hset := (ChannelSet.refl hwf g).then hsip
  have heq := sendPart_only (t := t) (i := i) (p := p) (d := d) (by rwa [hchan] : (s1.channel g).msgs = [m])
  rw [hchan] at heq
  obtain ⟨ps, hnew⟩ := (hset.set { s.channel g with msgs := [cutMsg (s.channel g) m d.length] }).sendPkt (t := t) (i := i) (p := p)
    (k := newPkt (s.channel g) m d) (fresh := true)
  have hcount := counter_sendPkt_same (t := t) (g := g) (i := i) (p := p) (k := newPkt (s.channel g) m d) (fresh := true)
    (u := s1.setChannel g { s.channel g with msgs := [cutMsg (s.channel g) m d.length] })
  have hwq := wq_sendPkt (t := t) (g := g) (i := i) (p := p) (k := newPkt (s.channel g) m d) (fresh := true)
    (u := s1.setChannel g { s.channel g with msgs := [cutMsg (s.channel g) m d.length] })
  rw [← heq] at hnew hcount hwq
  obtain ⟨-, hsame, hother, hregions⟩ := hnew
  refine ⟨_, congrArg Host.Outcome.next hrun,
    ⟨{ newPkt (s.channel g) m d with path := some i, resend := false }, ?_, rfl, rfl, rfl, rfl, rfl, rfl, rfl, rfl⟩, ?_, ?_, ?_, ?_, ?_, hother, hwq.trans (htr.wq.trans (advance_wq ..)), hregions⟩
  · rw [hsame]
    simp [carriedOn, hsent]
  · rw [hsame]
    rfl
  · rw [hsame]
    rfl
  · rw [hsame]
    rfl
  · rw [hsame]
    simp [carriedOn, hsent]
  · exact hcount.trans (congrArg (satAdd64 · 1) ((counter_congr (congrArg Dict.counters htr.dict) ..).trans (counter_advance t s _ _)))

omit hcanon in
theorem runs_sendAsks {m : SMsg} (hsent : (s.channel g).sent = [])
    (hmsgs : (s.channel g).msgs = [m]) (hsend : sendable (s.channel g) m = true)
    (hpick : pickPath s (s.channel g) none t = some (i, p)) (hok : msgRefused s (s.channel g) m = false)
    (hneeds : needsHost (s.channel g) m = true)
    (hback : readsBack s (msgReq s (s.channel g) m) (.packet g m.op m.id (m.base + m.sent)) = none) :
    Runs (.siphonPacketSend t g none) s (fun u =>
      u = (packetBytes g (s.channel g) m none (advance t s)).2 ∧ u.siphon = s.siphon ∧ u.wq = s.wq) := by
  have hrun : siphonSend t g none (advance t s) = (packetBytes g (s.channel g) m none (advance t s)).2 := by
    rw [siphonSend_new (by rwa [channel_advance]) (by rwa [channel_advance, farmFree_advance]) (by rwa [channel_advance])]
    rw [← channel_advance s t g]
    refine sendNew_asks (m := m) (i := i) (p := p) ?_ ?_ ?_ ?_ ?_ ?_
    all_goals rw [channel_advance]
    · exact hsent
    · exact hmsgs
    · exact hsend
    · rwa [pickPath_advance]
    · rwa [msgRefused_advance]
    · exact packetBytes_asks hneeds (by rwa [msgReq_advance, readsBack_advance])
  have hframe : Frame [.ep] (advance t s) (packetBytes g (s.channel g) m none (advance t s)).2 :=
    Frame.packetBytes (.of_all (by decide)) (Frame.refl _ _) ..
  exact ⟨_, congrArg Host.Outcome.next hrun, rfl, (hframe.siphon (by decide)).trans (advance_siphon ..),
    (hframe.wq (by decide)).trans (advance_wq ..)⟩

theorem runs_sendAgain {host : Option Bytes} {k : SPkt} {j : Nat} {p0 : SPath} (hk : (s.channel g).sent.find? (·.resend) = some k)
    (hpath : k.path = some j) (hp0 : (s.channel g).paths[j]? = some p0) (hprobe : p0.probing = false)
    (hlow : p0.losses + 1 < cfgN s 0x4200 9) (hpick : pickPath s (s.channel g) (some j) t = some (i, p)) :
    Runs (.siphonPacketSend t g host) s (fun u =>
      (u.channel g).sent = (s.channel g).sent.map (fun x =>
        if x.psn = k.psn then { k with path := some i, resend := false } else x)
      ∧ (u.channel g).msgs = (s.channel g).msgs ∧ (u.channel g).nextPsn = (s.channel g).nextPsn
      ∧ (u.channel g).lastPath = (s.channel g).lastPath
      ∧ counter u 0x4203 3 = satAdd64 (counter s 0x4203 3) 1 ∧ counter u 0x4203 1 = satAdd64 (counter s 0x4203 1) 1) := by
  obtain ⟨-, -, -, -, -, -, -, -, -, -, -, -, ⟨hwf, -⟩, -⟩ := hcanon
  have hset := ((ChannelSet.refl hwf g).then (advance_siphon s t)).setPath j onceLost
  have hframe := frame_setPath g j onceLost (advance t s)
  have hlost : pathLost t g j (advance t s) = setPath g j onceLost (advance t s) :=
    pathLost_up (by rwa [channel_advance]) hprobe (by rwa [cfgN_advance])
  obtain ⟨w, hw⟩ : ∃ w, pickPath (setPath g j onceLost (advance t s)) ((setPath g j onceLost (advance t s)).channel g) (some j) t
      = some (i, w) := by
    rw [hset.same]
    exact pickPath_onceLost (cfgN_advance t s ..) (portRate_advance t s) (fun _ => portUp_advance ..) _ _ hpick
  have hrun := siphonSend_again (t := t) (host := host) (by rwa [channel_advance]) (by rwa [channel_advance, farmFree_advance])
    (by rwa [channel_advance]) hpath hlost hw
  rw [channel_advance] at hrun
  have hdict : ∀ idx sub, counter (setPath g j onceLost (advance t s)) idx sub = counter s idx sub := fun idx sub =>
    (counter_congr (hframe.counters (by decide)) idx sub).trans (counter_advance t s idx sub)
  generalize setPath g j onceLost (advance t s) = y at hset hrun hdict
  obtain ⟨ps, hnew⟩ := hset.sendPkt (t := t) (i := i) (p := w) (k := k) (fresh := false)
  have hone := counter_sendPkt_same (t := t) (g := g) (i := i) (p := w) (k := k) (fresh := false) (u := y)
  have hthree := counter_sendPkt_other (t := t) (g := g) (i := i) (p := w) (k := k) (fresh := false) (u := y) (k' := 3)
    (by decide) (by decide)
  rw [hdict] at hone hthree
  generalize sendPkt t g i w k false y = z at hrun hnew hone hthree
  have hlast : ChannelSet g _ s (sipCount 3 (s.channel g).fn z) := hnew.then (by simp [sipCount, countFor])
  refine ⟨_, congrArg Host.Outcome.next hrun, ?_, ?_, ?_, ?_, ?_, ?_⟩
  · rw [hlast.same]
    rfl
  · rw [hlast.same]
    rfl
  · rw [hlast.same]
    rfl
  · rw [hlast.same]
    rfl
  · rw [sipCount, countFor, counter_countQ, hthree]
  · rw [sipCount, countFor, counter_countQ_other (objKey_ne_of_sub (by decide) (by decide) (by decide)), hone]

end Runs

end Sys2Proof.Machine
end

section
/-! The timers of Siphon channels and the answers their expiry sends (spec 13 R446 to R450, R453, 14 R483). -/

namespace Sys2Proof.Machine
open Sys2Proof

/-! ### Control packets -/

section Control
variable {g op psn len off addr : Nat} {path : Option Nat} {e : Nat × SPath} {s u : State}

/-- The channel once one more control packet left. -/
def ctlSent (c : Channel) : Channel := { c with ctlTx := c.ctlTx + 1 }

theorem sendControl_eq (hup : lowestUp (u.channel g) = some e) (hlow : (u.channel g).ctlTx < 0xFFFFFFFE) : ∃ pkt,
    sendControl g op psn len off addr path u = sLaunch g e.1 e.2 pkt false 0 (u.setChannel g (ctlSent (u.channel g))) := by
  simp only [sendControl, hup]
  rw [if_neg (by omega), if_neg (by omega)]
  exact ⟨_, rfl⟩

theorem ChannelSet.sendControl {c : Channel} (h : ChannelSet g c s u) (hup : lowestUp c = some e) (hlow : c.ctlTx < 0xFFFFFFFE) :
    ChannelSet g (ctlSent c) s (sendControl g op psn len off addr path u) := by
  obtain ⟨pkt, heq⟩ := sendControl_eq (op := op) (psn := psn) (len := len) (off := off) (addr := addr) (path := path)
    (by rwa [h.same] : lowestUp (u.channel g) = some e) (by rwa [h.same])
  rw [heq, h.same]
  exact (h.set _).then ((frame_sLaunch ..).siphon (by decide))

theorem transit_sendControl {c : Channel} (h : u.channel g = c) (hup : lowestUp c = some e) (hlow : c.ctlTx < 0xFFFFFFFE)
    (hport : e.2.port < 512) : (sendControl g op psn len off addr path u).buf.transit.length
      = u.buf.transit.length + (if culvDown u (hdCulvert (dieOf e.2.port)) then 0 else 1) := by
  obtain ⟨pkt, heq⟩ := sendControl_eq (op := op) (psn := psn) (len := len) (off := off) (addr := addr) (path := path)
    (by rwa [h] : lowestUp (u.channel g) = some e) (by rwa [h])
  rw [heq, transit_sLaunch _ _ _ _ _ _ hport]
  rfl

theorem counter_sendControl {c : Channel} (h : u.channel g = c) (hup : lowestUp c = some e) (hlow : c.ctlTx < 0xFFFFFFFE)
    {k : Nat} (hk : k < 256) (hne : k ≠ 1) :
    counter (sendControl g op psn len off addr path u) 0x4203 k = counter u 0x4203 k := by
  obtain ⟨pkt, heq⟩ := sendControl_eq (op := op) (psn := psn) (len := len) (off := off) (addr := addr) (path := path)
    (by rwa [h] : lowestUp (u.channel g) = some e) (by rwa [h])
  rw [heq, counter_sLaunch_other _ _ _ _ _ _ hk hne]
  rfl

end Control

/-! ### SIPHON_ACK_DELAY and SIPHON_CNP_INTERVAL -/

section Timers
variable {t g : Nat} {e : Nat × SPath} {s : State} (hcanon : Canonical s) (hruns : chRuns (s.channel g).state = true)
  (hup : lowestUp (s.channel g) = some e) (hlow : (s.channel g).ctlTx < 0xFFFFFFFE)
  (hfree : chEnc (s.channel g) = true → farmFree s = true)
include hcanon hruns hup hlow hfree

theorem runs_ackDelay (hack : (s.channel g).toAck ≠ 0) (hport : e.2.port < 512) :
    Runs (.siphonAckDelay t g) s (fun u =>
      ((s.channel g).ackSince + cfgN s 0x4200 4 * 10 ^ 9 ≤ t →
        u.channel g = { s.channel g with toAck := 0, ctlTx := (s.channel g).ctlTx + 1 }
        ∧ u.buf.transit.length = s.buf.transit.length + (if culvDown s (hdCulvert (dieOf e.2.port)) then 0 else 1))
      ∧ (t < (s.channel g).ackSince + cfgN s 0x4200 4 * 10 ^ 9 → u = advance t s)) := by
  obtain ⟨-, -, -, -, -, -, -, -, -, -, -, -, ⟨hwf, -⟩, -⟩ := hcanon
  have hfarm : (!chEnc (s.channel g) || farmFree s) = true := by
    cases h : chEnc (s.channel g)
    · rfl
    · simpa using hfree h
  refine ⟨_, rfl, ?_⟩
  simp only [channel_advance, farmFree_advance, cfgN_advance, hruns, hfarm, hack, ne_eq, not_false_eq_true, decide_true, Bool.and_self,
    Bool.true_and, decide_eq_true_eq]
  refine ⟨fun h => ?_, fun h => if_neg (by omega)⟩
  rw [if_pos h]
  have hset := ((ChannelSet.refl hwf g).then (advance_siphon s t)).set { s.channel g with toAck := 0 }
  have heq : sendAck g (advance t s) = sendControl g 5 (s.channel g).expect 0 0 (sackMap (s.channel g)) none
      ((advance t s).setChannel g { s.channel g with toAck := 0 }) := by
    rw [sendAck, channel_advance]
  rw [heq]
  refine ⟨(hset.sendControl hup hlow).same, ?_⟩
  rw [transit_sendControl hset.same hup hlow hport]
  have hculv (k : Nat) : culvDown ((advance t s).setChannel g { s.channel g with toAck := 0 }) k = culvDown s k := by
    simp only [culvDown, setChannel_culv, advance_culv]
  rw [hculv, setChannel_buf, advance_buf]

theorem runs_cnpInterval {i t0 : Nat} {x : RxPath} (hdue : cnpDue s (s.channel g) t = true) (hrx : (s.channel g).rxPaths = [(i, x)])
    (hsince : x.since = some t0) :
    Runs (.siphonCnpInterval t g) s (fun u =>
      u.channel g = { s.channel g with rxPaths := [], lastCnp := some t, ctlTx := (s.channel g).ctlTx + 1 }
      ∧ counter u 0x4203 0xA = satAdd64 (counter s 0x4203 0xA) 1 ∧ ∀ j, j ≠ g → u.channel j = s.channel j) := by
  obtain ⟨-, -, -, -, -, -, -, -, -, -, -, -, ⟨hwf, -⟩, -⟩ := hcanon
  have hfarm : (!chEnc (s.channel g) || farmFree s) = true := by
    cases h : chEnc (s.channel g)
    · rfl
    · simpa using hfree h
  have hdue' : cnpDue (advance t s) (s.channel g) t = true := by
    unfold cnpDue at hdue ⊢
    rwa [cfgN_advance]
  have hrun : exec (.siphonCnpInterval t g) s = .next (sendCnp t g (advance t s)) := by
    refine congrArg Host.Outcome.next (if_pos ?_)
    rw [channel_advance, hruns, hdue', farmFree_advance, hfarm]
    rfl
  have hclear : Tab.set RxPath.reset [(i, x)] i RxPath.reset = [] := by simp [Tab.set, Tab.del]
  have heq : sendCnp t g (advance t s) = sipCount 0xA (s.channel g).fn (sendControl g 7 0 x.count x.marked 0 (some i)
      ((advance t s).setChannel g { s.channel g with rxPaths := [], lastCnp := some t })) := by
    simp only [sendCnp, channel_advance, hrx, List.filterMap_cons, hsince, Option.map_some, List.filterMap_nil, List.foldl_nil, hclear]
  have hset := ((ChannelSet.refl hwf g).then (advance_siphon s t)).set { s.channel g with rxPaths := [], lastCnp := some t }
  have hsent := hset.sendControl (op := 7) (psn := 0) (len := x.count) (off := x.marked) (addr := 0) (path := some i) hup hlow
  have hcount := counter_sendControl (op := 7) (psn := 0) (len := x.count) (off := x.marked) (addr := 0) (path := some i)
    hset.same hup hlow (k := 0xA) (by decide) (by decide)
  refine ⟨_, hrun.trans (congrArg Host.Outcome.next heq), ?_⟩
  generalize sendControl g 7 0 x.count x.marked 0 (some i) ((advance t s).setChannel g { s.channel g with
    rxPaths := [], lastCnp := some t }) = y at hsent hcount
  have hlast : ChannelSet g _ s (sipCount 0xA (s.channel g).fn y) := hsent.then (by simp [sipCount, countFor])
  refine ⟨hlast.same, ?_, hlast.other⟩
  rw [sipCount, countFor, counter_countQ, hcount]
  exact congrArg (satAdd64 · 1) (counter_advance t s ..)

end Timers

/-! ### A channel ends with TIMEOUT -/

section Error
variable {g status : Nat} {s : State}

theorem evt_finishChain (fn q first st res : Nat) (s : State) : (finishChain fn q first st res s).evt = s.evt := rfl

theorem evt_endMsgs (l : List SMsg) (named : Option (Nat × Nat)) (s : State) : (endMsgs l status named s).evt = s.evt :=
  forEach_keeps State.evt (fun m y => by cases m.owner <;> rfl) l s

theorem evt_endRecvs (l : List (Nat × Nat × Nat)) (s : State) : (endRecvs l s).evt = s.evt :=
  forEach_keeps State.evt (fun _ _ => evt_finishChain ..) l s

/-- The channel in ERROR, counted and signalled, before its entries end. -/
def channelFailed (g : Nat) (s : State) : State :=
  raise 292 (sipCount 0xD (s.channel g).fn (journalDrop (ofChannel g) (s.setChannel g (chStop (s.channel g) 4))))

theorem channelError_eq (h : (s.channel g).state ≠ 4) : channelError g status none false s
    = endRecvs (s.channel g).recvs (endMsgs ((s.channel g).msgs.filter ownMsg) status none (channelFailed g s)) := by
  unfold channelError
  rw [if_neg h]
  rfl

theorem frame_channelFailed : Frame [.counters, .cipher, .siphon, .jrn] s (channelFailed g s) := by
  unfold channelFailed
  refine Frame.raise (.of_all (by decide)) (Frame.sipCount (.of_all (by decide)) ?_ _ _) _
  exact Frame.journalDrop (.of_all (by decide)) (Frame.setChannel (.of_all (by decide)) (Frame.refl _ s) g _) _

theorem channelSet_channelFailed (hwf : Tab.wf Channel.reset s.siphon.channels = true) :
    ChannelSet g (chStop (s.channel g) 4) s (channelFailed g s) := by
  refine (ChannelSet.of_set hwf g (chStop (s.channel g) 4)).then ?_
  have hdrop : Frame [.cipher, .jrn] (s.setChannel g (chStop (s.channel g) 4))
      (journalDrop (ofChannel g) (s.setChannel g (chStop (s.channel g) 4))) :=
    Frame.journalDrop (.of_all (by decide)) (Frame.refl _ _) _
  rw [channelFailed]
  simp only [raise_siphon, sipCount, countFor, countQ_siphon]
  exact hdrop.siphon (by decide)

theorem counter_channelFailed : counter (channelFailed g s) 0x4203 0xD = satAdd64 (counter s 0x4203 0xD) 1 := by
  have hdrop : Frame [.cipher, .jrn] (s.setChannel g (chStop (s.channel g) 4))
      (journalDrop (ofChannel g) (s.setChannel g (chStop (s.channel g) 4))) :=
    Frame.journalDrop (.of_all (by decide)) (Frame.refl _ _) _
  rw [channelFailed, (signals_raise 292 _).counter, sipCount, countFor, counter_countQ]
  exact congrArg (satAdd64 · 1) (counter_congr (hdrop.counters (by decide)) ..)

theorem frame_channelEnds (l : List (Nat × Nat × Nat)) (k : List SMsg) (y : State) :
    Frame [.wq] y (endRecvs l (endMsgs k status none y)) :=
  Frame.endRecvs (.of_all (by decide)) (Frame.endMsgs (.of_all (by decide)) (Frame.refl _ y) ..) _

/-- A channel that leaves service: its record, its count and its event. -/
theorem channelError_spec (hwf : Tab.wf Channel.reset s.siphon.channels = true) (h : (s.channel g).state ≠ 4) :
    ChannelSet g (chStop (s.channel g) 4) s (channelError g status none false s)
    ∧ counter (channelError g status none false s) 0x4203 0xD = satAdd64 (counter s 0x4203 0xD) 1
    ∧ (evtStat (channelError g status none false s) 9).testBit 4 = true := by
  rw [channelError_eq h]
  have hset := channelSet_channelFailed (g := g) hwf
  have hcount := counter_channelFailed (g := g) (s := s)
  have hbit : (evtStat (channelFailed g s) 9).testBit 4 = true := raise_sets (n := 292) (by decide) _
  generalize channelFailed g s = y at hset hcount hbit
  have hends := frame_channelEnds (status := status) (s.channel g).recvs ((s.channel g).msgs.filter ownMsg) y
  refine ⟨hset.then (hends.siphon (by decide)), (counter_congr (hends.counters (by decide)) ..).trans hcount, ?_⟩
  rwa [evtStat_eq ((evt_endRecvs ..).trans (evt_endMsgs ..))]

/-- The entry of its one message ends with the status. -/
theorem channelError_endsChain (hq : Tab.wf Queue.reset s.wq.queues = true) (h : (s.channel g).state ≠ 4) {m : SMsg}
    {o : Nat × Nat × Nat} (hmsgs : (s.channel g).msgs = [m]) (hown : ownMsg m = true) (howner : m.owner = some o)
    (hrecvs : (s.channel g).recvs = []) : EndsChain o.1 o.2.1 o.2.2 status 0 s (channelError g status none false s) := by
  have hwq := (frame_channelFailed (g := g) (s := s)).wq (by decide)
  have hone : channelError g status none false s = finishChain o.1 o.2.1 o.2.2 status 0 (channelFailed g s) := by
    rw [channelError_eq h, hrecvs, hmsgs, List.filter_cons_of_pos hown]
    simp only [List.filter_nil, endRecvs, endMsgs, forEach, List.foldl_cons, List.foldl_nil, howner]
  rw [EndsChain, hone]
  generalize channelFailed g s = y at hwq
  rw [(queueSet_finishChain (s := y) (by rwa [hwq])).2.1, queue_congr hwq]

end Error

/-! ### SIPHON_RTO_EXPIRY -/

section Rto
variable {t g now : Nat} {k : SPkt} {rest : List SPkt} {s : State} (hsent : (s.channel g).sent = k :: rest)
  (hnow : now = max (s.channel g).rto (cfgN s 0x4200 6))
include hsent hnow

theorem rtoExpiry_early (h : t < (s.channel g).rtoAt + now * 10 ^ 9) : rtoExpiry t g s = s := by
  subst hnow
  simp only [rtoExpiry, hsent]
  rw [if_pos (by rw [decide_eq_true h, Bool.or_true])]

variable (hruns : chRuns (s.channel g).state = true) (hdue : (s.channel g).rtoAt + now * 10 ^ 9 ≤ t)
include hruns hdue

theorem rtoExpiry_resends (h : (s.channel g).retries + 1 < cfgN s 0x4200 8) : rtoExpiry t g s = s.setChannel g { s.channel g with
    sent := { k with resend := true } :: rest, retries := (s.channel g).retries + 1, rtoAt := t
    rto := min (2 * now) (cfgN s 0x4200 7) } := by
  subst hnow
  simp only [rtoExpiry, hsent]
  rw [if_neg (by rw [hruns, decide_eq_false (by omega)]; decide), if_neg (by omega)]

theorem rtoExpiry_ends (h : cfgN s 0x4200 8 ≤ (s.channel g).retries + 1) : rtoExpiry t g s
    = channelError g stTIMEOUT none false s := by
  subst hnow
  simp only [rtoExpiry, hsent]
  rw [if_neg (by rw [hruns, decide_eq_false (by omega)]; decide), if_pos h]

end Rto

theorem runs_rtoExpiry {t g now : Nat} {k : SPkt} {rest : List SPkt} {s : State} (hcanon : Canonical s)
    (hruns : chRuns (s.channel g).state = true) (hsent : (s.channel g).sent = k :: rest)
    (hnow : now = max (s.channel g).rto (cfgN s 0x4200 6)) :
    Runs (.siphonRtoExpiry t g) s (fun u =>
      (t < (s.channel g).rtoAt + now * 10 ^ 9 → u = advance t s)
      ∧ ((s.channel g).rtoAt + now * 10 ^ 9 ≤ t ∧ (s.channel g).retries + 1 < cfgN s 0x4200 8 →
        u.channel g = { s.channel g with
          sent := { k with resend := true } :: rest, retries := (s.channel g).retries + 1, rtoAt := t
          rto := min (2 * now) (cfgN s 0x4200 7) }
        ∧ u = { advance t s with siphon := u.siphon })
      ∧ ((s.channel g).rtoAt + now * 10 ^ 9 ≤ t ∧ cfgN s 0x4200 8 ≤ (s.channel g).retries + 1 →
        u.channel g = chStop (s.channel g) 4 ∧ counter u 0x4203 0xD = satAdd64 (counter s 0x4203 0xD) 1
        ∧ (evtStat u 9).testBit 4 = true
        ∧ ∀ m o, (s.channel g).msgs = [m] → ownMsg m = true → m.owner = some o → (s.channel g).recvs = [] →
          EndsChain o.1 o.2.1 o.2.2 stTIMEOUT 0 s u)) := by
  obtain ⟨-, -, -, -, -, -, -, -, -, -, hqueues, -, ⟨hwf, -⟩, -⟩ := hcanon
  have hstate : (s.channel g).state ≠ 4 := by
    intro h
    rw [h] at hruns
    exact absurd hruns (by decide)
  have hsent' : ((advance t s).channel g).sent = k :: rest := by rwa [channel_advance]
  have hnow' : now = max ((advance t s).channel g).rto (cfgN (advance t s) 0x4200 6) := by rwa [channel_advance, cfgN_advance]
  refine ⟨rtoExpiry t g (advance t s), rfl, fun h => rtoExpiry_early hsent' hnow' (by rwa [channel_advance]), fun h => ?_, fun h => ?_⟩
  · rw [rtoExpiry_resends hsent' hnow' (by rwa [channel_advance]) (by rw [channel_advance]; exact h.1)
      (by rw [channel_advance, cfgN_advance]; exact h.2), channel_advance, cfgN_advance]
    exact ⟨channel_setChannel_same (by rwa [advance_siphon]) g _, rfl⟩
  · rw [rtoExpiry_ends hsent' hnow' (by rwa [channel_advance]) (by rw [channel_advance]; exact h.1)
      (by rw [channel_advance, cfgN_advance]; exact h.2)]
    have hstate' : ((advance t s).channel g).state ≠ 4 := by rwa [channel_advance]
    obtain ⟨hset, hcount, hbit⟩ := channelError_spec (status := stTIMEOUT) (s := advance t s) (by rwa [advance_siphon]) hstate'
    refine ⟨hset.same.trans (by rw [channel_advance]), hcount.trans (by rw [counter_advance]), hbit, fun m o hm hown ho hr => ?_⟩
    have hends := channelError_endsChain (status := stTIMEOUT) (s := advance t s) (by rwa [advance_wq]) hstate'
      (by rwa [channel_advance]) hown ho (by rwa [channel_advance])
    unfold EndsChain at hends ⊢
    rwa [queue_advance] at hends

/-! ### SIPHON_PATH_HOLD and SIPHON_STEP_TIMER -/

section PathTimers
variable {t g i : Nat} {p : SPath} {s : State} (hcanon : Canonical s) (hp : (s.channel g).paths[i]? = some p)
include hcanon hp

theorem runs_pathHold (hup : p.up = false) (hprobe : p.probing = false) (hdue : p.downAt + cfgN s 0x4200 0xA * 10 ^ 12 ≤ t) :
    Runs (.siphonPathHold t g i) s (fun u =>
      u.channel g = { s.channel g with paths := (u.channel g).paths }
      ∧ (u.channel g).paths[i]? = some { p with up := true, probing := true }
      ∧ ∀ j, j ≠ i → (u.channel g).paths[j]? = (s.channel g).paths[j]?) := by
  obtain ⟨-, -, -, -, -, -, -, -, -, -, -, -, ⟨hwf, -⟩, -⟩ := hcanon
  have hrun : exec (.siphonPathHold t g i) s
      = .next (setPath g i (fun p => { p with up := true, probing := true }) (advance t s)) := by
    refine congrArg Host.Outcome.next ?_
    simp only [channel_advance, hp, hup, hprobe, cfgN_advance, hdue, Bool.not_false, decide_true, Bool.and_self, ↓reduceIte]
  have hset := ((ChannelSet.refl hwf g).then (advance_siphon s t)).setPath i (fun p => { p with up := true, probing := true })
  refine ⟨_, hrun, ?_, ?_, fun j hj => ?_⟩
  · rw [hset.same]
  · rw [hset.same]
    exact getElem?_pathsWith_same (f := fun p => { p with up := true, probing := true }) hp
  · rw [hset.same]
    exact getElem?_pathsWith_other (f := fun p => { p with up := true, probing := true }) hj

theorem runs_stepTimer (hruns : chRuns (s.channel g).state = true) (hcc : cfgN s 0x4201 1 = 1)
    (hdue : p.stepAt + cfgN s 0x4201 5 * 10 ^ 9 ≤ t) :
    Runs (.siphonStepTimer t g i) s (fun u => (u.channel g).paths[i]? = some (stepPath s t p)) := by
  obtain ⟨-, -, -, -, -, -, -, -, -, -, -, -, ⟨hwf, -⟩, -⟩ := hcanon
  have hrun : exec (.siphonStepTimer t g i) s = .next (setPath g i (stepPath (advance t s) t) (advance t s)) := by
    refine congrArg Host.Outcome.next ?_
    simp only [channel_advance, hp, hruns, hcc, cfgN_advance, hdue, decide_true, Bool.and_self, ↓reduceIte]
  have hset := ((ChannelSet.refl hwf g).then (advance_siphon s t)).setPath i (stepPath (advance t s) t)
  have hstep : stepPath (advance t s) t p = stepPath s t p := by
    simp only [stepPath, cfgN_advance, portRate_advance]
  refine ⟨_, hrun, ?_⟩
  dsimp only
  rw [hset.same]
  exact (getElem?_pathsWith_same hp).trans (congrArg some hstep)

end PathTimers

/-! ### Grants of a writing capsule -/

section Grants
variable {g msg : Nat} {x : Capsule} {c : Channel} {s u : State}

/-- The capsules of a message under `f`. -/
def capsWith (msg : Nat) (f : Capsule → Capsule) (l : List Capsule) : List Capsule :=
  l.map (fun y => if y.msg = msg then f y else y)

theorem ChannelSet.updCap (h : ChannelSet g c s u) (msg : Nat) (f : Capsule → Capsule) :
    ChannelSet g { c with capsules := capsWith msg f c.capsules } s (updCap g msg f u) := by
  have hset := h.set { c with capsules := capsWith msg f c.capsules }
  rwa [← h.same] at hset ⊢

theorem ChannelSet.addReply (h : ChannelSet g c s u) (m : SMsg) :
    ChannelSet g { c with msgs := c.msgs ++ [m] } s (addReply g m u) := by
  have hset := h.set { c with msgs := c.msgs ++ [m] }
  rwa [← h.same] at hset ⊢

theorem capAt_capsWith {f : Capsule → Capsule} (hf : ∀ y, (f y).msg = y.msg) (c : Channel) :
    capAt { c with capsules := capsWith msg f c.capsules } msg = (capAt c msg).map f := by
  simp only [capAt, capsWith]
  generalize c.capsules = l
  induction l with
  | nil => rfl
  | cons y l ih =>
    by_cases h : y.msg = msg
    · simp [h, hf]
    · simp [h, ih]

theorem stagingUsed_advance (t : Nat) (s : State) (md : Nat) : stagingUsed (advance t s) md = stagingUsed s md := by
  simp only [stagingUsed, advance_siphon]

theorem runs_xferGrant {t n : Nat} (hcanon : Canonical s) (hcap : capAt (s.channel g) msg = some x) (hstarted : x.started = true)
    (hopen : x.responded = false) (hn : n = min 262144 (beField x.cmd 20 4 - x.granted)) :
    Runs (.xferGrant t g msg) s (fun u =>
      (0 < n ∧ x.grants.length < 4 ∧ stagingUsed s x.md + n ≤ 268435456 →
        u.channel g = { s.channel g with
          msgs := (s.channel g).msgs ++ [{ SMsg.blank with id := msg, op := 9, len := n, base := x.granted }]
          capsules := (s.channel g).capsules.map (fun y => if y.msg = msg then { y with
            granted := y.granted + n, grants := y.grants ++ [{ off := y.granted, len := n, got := 0, time := t }] }
            else y) })
      ∧ (n = 0 ∨ 4 ≤ x.grants.length ∨ 268435456 < stagingUsed s x.md + n → u = advance t s)) := by
  obtain ⟨-, -, -, -, -, -, -, -, -, -, -, -, ⟨hwf, -⟩, -⟩ := hcanon
  have hcap' : capAt ((advance t s).channel g) msg = some x := by rwa [channel_advance]
  refine ⟨grantNext t g msg (advance t s), rfl, fun ⟨h0, h4, hroom⟩ => ?_, fun h => ?_⟩
  · simp only [grantNext, hcap', hstarted, hopen, ← hn, stagingUsed_advance]
    rw [if_neg (by simp; omega)]
    exact ((((ChannelSet.refl hwf g).then (advance_siphon s t)).updCap msg _).addReply _).same
  · simp only [grantNext, hcap', hstarted, hopen, ← hn, stagingUsed_advance]
    rw [if_pos (by simp; omega)]

theorem runs_xferTimeout {t : Nat} (hcanon : Canonical s) (hcap : capAt (s.channel g) msg = some x) (hopen : x.responded = false)
    (hlate : x.grants.any (fun w => decide (w.time + cfgN s 0x4200 0xB * 10 ^ 12 ≤ t)) = true) (hunits : s.jrn.units = []) :
    Runs (.siphonXferTimeout t g msg) s (fun u => counter u 0x4300 0x14 = satAdd64 (counter s 0x4300 0x14) 1
      ∧ (u.channel g).msgs = (s.channel g).msgs ++ [{ SMsg.blank with
          id := msg, op := 0xA, len := 16, total := 16
          body := jrspBytes stTIMEOUT (beField x.cmd 4 4) (min (16 * x.units) (beField x.cmd 16 4)) }]
      ∧ ∃ y, capAt (u.channel g) msg = some y ∧ y.responded = true ∧ y.grants = []) := by
  obtain ⟨-, -, -, -, -, -, -, -, -, -, -, -, ⟨hwf, -⟩, -⟩ := hcanon
  have hcount : counter (count 0x4300 0x14 (advance t s)) 0x4300 0x14 = satAdd64 (counter s 0x4300 0x14) 1 :=
    (counter_countQ ..).trans (congrArg (satAdd64 · 1) (counter_advance t s ..))
  have hset : ChannelSet g (s.channel g) s (count 0x4300 0x14 (advance t s)) :=
    (ChannelSet.refl hwf g).then ((count_siphon ..).trans (advance_siphon ..))
  have hcap' : capAt ((advance t s).channel g) msg = some x := by rwa [channel_advance]
  have hrun : xferTimeout t g msg (advance t s)
      = capRespond g msg stTIMEOUT (min (16 * x.units) (beField x.cmd 16 4)) (count 0x4300 0x14 (advance t s)) := by
    simp only [xferTimeout, hcap', hopen, cfgN_advance, hlate, count_jrn, advance_jrn, hunits, List.find?_nil, Bool.not_true,
      Bool.or_self, Bool.false_eq_true, ↓reduceIte]
  generalize count 0x4300 0x14 (advance t s) = y at hcount hset hrun
  have hresp : capRespond g msg stTIMEOUT (min (16 * x.units) (beField x.cmd 16 4)) y = addReply g { SMsg.blank with
      id := msg, op := 0xA, len := 16, total := 16
      body := jrspBytes stTIMEOUT (beField x.cmd 4 4) (min (16 * x.units) (beField x.cmd 16 4)) }
      (updCap g msg (fun y => { y with responded := true, grants := [] }) y) := by
    simp only [capRespond, hset.same, hcap, hopen, Bool.false_eq_true, ↓reduceIte]
  have hlast := (hset.updCap msg (fun y => { y with responded := true, grants := [] })).addReply { SMsg.blank with
      id := msg, op := 0xA, len := 16, total := 16
      body := jrspBytes stTIMEOUT (beField x.cmd 4 4) (min (16 * x.units) (beField x.cmd 16 4)) }
  refine ⟨_, congrArg Host.Outcome.next (hrun.trans hresp), hcount, ?_, { x with responded := true, grants := [] }, ?_, rfl, rfl⟩
  · rw [hlast.same]
  · rw [hlast.same]
    refine (capAt_capsWith (msg := msg) (f := fun y => { y with responded := true, grants := [] }) (fun _ => rfl) (s.channel g)).trans ?_
    rw [hcap]
    rfl

end Grants

end Sys2Proof.Machine

namespace Sys2Proof
open Machine

/-- Settles O30: what each timer and each send leaves of its channel, through the one channel that changes. -/
theorem siphonPackets : Obligations.SiphonPackets := by
  refine ⟨?_, ?_, ?_, ?_, ?_, ?_, ?_, ?_, ?_, ?_, ?_⟩
  · intro t g i host b d p m s s1 hcanon hruns hfree hsent hmsgs hsend hpick hok hbytes hpay
    exact runs_sendNew hcanon hruns hfree hsent hmsgs hsend hpick hok hbytes hpay
  · intro t g i p m s _ hruns hfree hsent hmsgs hsend hpick hok hneeds hback
    exact runs_sendAsks hruns hfree hsent hmsgs hsend hpick hok hneeds hback
  · intro t g j i host k p0 p s hcanon hruns hfree hk hpath hp0 hprobe hlow hpick
    exact runs_sendAgain hcanon hruns hfree hk hpath hp0 hprobe hlow hpick
  · intro t g host s h
    exact ⟨_, congrArg Host.Outcome.next (siphonSend_waits (by rwa [channel_advance, farmFree_advance])), rfl⟩
  · intro t g e s hcanon hruns hack hup hport hlow hfree
    exact runs_ackDelay hcanon hruns hup hlow hfree hack hport
  · intro t g now k rest s hcanon hruns hsent hnow
    exact runs_rtoExpiry hcanon hruns hsent hnow
  · intro t g i p s hcanon hp hup hprobe hdue
    exact runs_pathHold hcanon hp hup hprobe hdue
  · intro t g i t0 e x s hcanon hruns hdue hrx hsince hup hlow hfree
    exact runs_cnpInterval hcanon hruns hup hlow hfree hdue hrx hsince
  · intro t g i p s hcanon hruns hcc hp hdue
    obtain ⟨u, hrun, hw⟩ := runs_stepTimer hcanon hp hruns hcc hdue
    refine ⟨u, hrun, _, hw, rfl, rfl, rfl, rfl, rfl, fun h => ?_, fun h => ?_, rfl, fun h => ?_, fun h => ?_⟩
    · exact if_neg (by omega)
    · exact if_pos h
    · simp [stepPath, h]
    · simp [stepPath, h]
  · intro t g msg n x s hcanon hcap hstarted hopen hn
    exact runs_xferGrant hcanon hcap hstarted hopen hn
  · intro t g msg x s hcanon hcap hopen hlate hunits
    exact runs_xferTimeout hcanon hcap hopen hlate hunits

end Sys2Proof
end

section
/-! A queue that stops in ERROR (spec 11 R374): its record, its marks, and the status bits it leaves set. -/

namespace Sys2Proof.Machine
open Sys2Proof

/-! ### No status bit is cleared -/

section Grows
variable (s : State)

theorem statGrows_forEach {α : Type} {f : α → State → State} (h : ∀ a y, StatGrows y (f a y)) (l : List α) (s : State) :
    StatGrows s (forEach l f s) := by
  induction l generalizing s with
  | nil => exact .refl s
  | cons a l ih => exact (h a s).trans (ih _)

theorem statGrows_freeCell (die : Nat) (pipe : Option Nat) (owner c : Nat) : StatGrows s (freeCell die pipe owner c s) := by
  have hbad (k j : Nat) (f : Buffers → Buffers) : StatGrows s (modBuf f (raiseDie die j (count 0x2B05 k s))) :=
    ((statGrows_countQ ..).trans (statGrows_raise _ (count 0x2B05 k s))).trans (.of_eq rfl rfl)
  unfold freeCell
  dsimp only
  split
  · exact .refl s
  · split
    · exact hbad ..
    · split
      · exact hbad ..
      · exact .of_eq rfl rfl

theorem statGrows_lowCheck (die : Nat) : StatGrows s (lowCheck die s) := by
  unfold lowCheck
  dsimp only
  split
  · exact StatGrows.trans (t := s.setBufDie die _) (.of_eq rfl rfl) (statGrows_raise ..)
  · split
    · exact .of_eq rfl rfl
    · exact .refl s

theorem statGrows_releaseCopy (sid : Nat) (pipe : Option Nat) : StatGrows s (releaseCopy sid pipe s) := by
  unfold releaseCopy
  split
  · exact .refl s
  · split
    · exact .of_eq rfl rfl
    · unfold freeCellList
      refine StatGrows.trans (t := dropStored sid s) (.of_eq rfl rfl) (StatGrows.trans ?_ (statGrows_lowCheck ..))
      exact statGrows_forEach (fun c y => statGrows_freeCell y _ _ _ c) _ _

theorem statGrows_dropPlace (h : HFrame) : StatGrows s (dropPlace h s) := by
  unfold dropPlace
  split
  · exact statGrows_releaseCopy ..
  · exact .refl s
  · exact .refl s

theorem statGrows_discardHeld (fn q : Nat) : StatGrows s (discardHeld fn q s) := by
  unfold discardHeld
  refine (statGrows_forEach (fun h y => ?_) _ s).trans (.of_eq rfl rfl)
  split
  · exact .refl y
  · exact (statGrows_dropPlace y h).trans (statGrows_countQ ..)

theorem statGrows_errorVectors (fn q : Nat) : StatGrows s (errorVectors fn q s) := by
  unfold errorVectors
  dsimp only
  split
  · exact (statGrows_signal ..).trans (statGrows_signal ..)
  · exact statGrows_signal ..

theorem statGrows_stopWork (fn q status kind : Nat) : StatGrows s (stopWork fn q status kind s) :=
  ((statGrows_discardHeld ..).trans (statGrows_polderFault ..)).trans (statGrows_errorVectors ..)

theorem statGrows_queueError (fn q status reason errIdx kind : Nat) (marks : List Bytes) :
    StatGrows s (queueError fn q status reason errIdx kind marks s) := by
  unfold queueError
  dsimp only
  split
  · exact .refl s
  · exact StatGrows.trans (t := s.setQueue fn q _) (.of_eq rfl rfl) (statGrows_stopWork _ fn q status kind)

end Grows

/-! ### The queue in ERROR -/

section Stop
variable {fn q status reason errIdx kind : Nat} {marks : List Bytes} {s : State}

/-- The queue that stopped at an entry (spec 11 R374). -/
def inError (status reason errIdx : Nat) (marks : List Bytes) (now : Nat) (x : Queue) : Queue :=
  { x with
    st := .error
    status := status
    reason := reason
    errIdx := errIdx
    reading := false
    partialChain := []
    errAt := now
    posted := if qKind x = kRX then [] else x.posted
    chains := x.chains.filter (fun c => beforeIdx x c.first errIdx && (decide (qKind x ≠ kRX) || c.finished))
      ++ (if isProducer (qKind x) then
        [{ first := errIdx, entries := marks, started := true, finished := true, status := status, result := 0 }] else []) }

theorem queueError_stops (h : (s.queue fn q).st ≠ .error) (h' : (s.queue fn q).st ≠ .disabled) :
    queueError fn q status reason errIdx kind marks s
      = stopWork fn q status kind (s.setQueue fn q (inError status reason errIdx marks s.clock (s.queue fn q))) := by
  unfold queueError
  dsimp only
  rw [if_neg (fun x => x.elim h h')]
  rfl

theorem queueError_over (h : (s.queue fn q).st = .error ∨ (s.queue fn q).st = .disabled) :
    queueError fn q status reason errIdx kind marks s = s := by
  unfold queueError
  exact if_pos h

theorem frame_queueError : Frame [.counters, .buf, .polders, .wq] s (queueError fn q status reason errIdx kind marks s) :=
  Frame.queueError (.of_all (by decide)) (.refl _ s) fn q status reason errIdx kind marks

theorem counter_queueError {idx sub : Nat} (hs : sub < 256) (hi : idx ≠ 0x2B05) (h3 : sub ≠ 0x23) (h4 : sub ≠ 0x24) :
    counter (queueError fn q status reason errIdx kind marks s) idx sub = counter s idx sub := by
  by_cases h : (s.queue fn q).st = .error ∨ (s.queue fn q).st = .disabled
  · rw [queueError_over h]
  · rw [queueError_stops (fun x => h (.inl x)) (fun x => h (.inr x)), counter_stopWork _ _ _ _ _ hs hi h3 h4]
    rfl

theorem wq_queueError (h : (s.queue fn q).st ≠ .error) (h' : (s.queue fn q).st ≠ .disabled) :
    (queueError fn q status reason errIdx kind marks s).wq
      = (s.setQueue fn q (inError status reason errIdx marks s.clock (s.queue fn q))).wq := by
  rw [queueError_stops h h', wq_stopWork]

theorem queue_queueError (hwf : Tab.wf Queue.reset s.wq.queues = true) (h : (s.queue fn q).st ≠ .error)
    (h' : (s.queue fn q).st ≠ .disabled) :
    (queueError fn q status reason errIdx kind marks s).queue fn q = inError status reason errIdx marks s.clock (s.queue fn q) :=
  (queue_congr (wq_queueError h h') fn q).trans (queue_setQueue_same hwf ..)

theorem faultMap_queueError (h : (s.queue fn q).st ≠ .error) (h' : (s.queue fn q).st ≠ .disabled) :
    Tab.get false (queueError fn q status reason errIdx kind marks s).polders.faultMap fn = true := by
  rw [queueError_stops h h']
  exact faultMap_stopWork ..

end Stop

end Sys2Proof.Machine
end

section
/-! Frames between polders and the field (spec 11 R366, R370, R371, 08 R285, 01 R26): transmit chains, receive buffers,
deliveries. -/

namespace Sys2Proof.Machine
open Sys2Proof

/-! ### Access to host memory -/

section Access
variable {fn q : Nat} {s u v : State}

/-- Requests of queue `q` of function `fn` are made in `u` as in `s`. -/
structure SameAccess (fn q : Nat) (s u : State) : Prop where
  host : SameHost { s with wq := u.wq } u
  ctx : (u.queue fn q).ctx = (s.queue fn q).ctx

theorem SameHost.access (h : SameHost s u) (fn q : Nat) : SameAccess fn q s u :=
  ⟨⟨h.ep, rfl, h.polders⟩, congrArg Queue.ctx (h.queue fn q)⟩

theorem SameAccess.trans (a : SameAccess fn q s u) (b : SameAccess fn q u v) : SameAccess fn q s v :=
  ⟨⟨(congrArg (fun x : Endpoint => { x with asked := s.ep.asked, inta := s.ep.inta, msix := s.ep.msix }) b.host.ep).trans a.host.ep,
    rfl, b.host.polders.trans a.host.polders⟩, b.ctx.trans a.ctx⟩

/-- What leaves the endpoint and the polders alone, and the queue's context. -/
theorem access_of_frame {l : List Blk} (h : Frame l s u) (he : Blk.ep ∉ l) (hf : Blk.funcs ∉ l) (hp : Blk.polders ∉ l)
    (hctx : (u.queue fn q).ctx = (s.queue fn q).ctx) : SameAccess fn q s u := by
  have hep := h.ep he
  have hfuncs := h.funcs hf
  refine ⟨⟨?_, rfl, h.polders hp⟩, hctx⟩
  refine Eq.trans ?_ (congrArg (fun x : Endpoint => { x with asked := s.ep.asked }) hep)
  dsimp only
  rw [← hfuncs]

theorem qPasidValid_congr {x y : Queue} (h : x.ctx = y.ctx) : qPasidValid x = qPasidValid y := by
  unfold qPasidValid qWord
  rw [h]

theorem pasidOf_congr {x y : Queue} (h : x.ctx = y.ctx) : pasidOf x = pasidOf y := by
  unfold pasidOf qPasidValid qPasid qWord
  rw [h]

theorem queueReq_of_access (h : SameAccess fn q s u) : queueReq u fn q = queueReq s fn q := by
  simp only [queueReq, pasidOf_congr h.ctx]

theorem requestRefused_of_access (h : SameAccess fn q s u) (addr len : Nat) :
    requestRefused u fn q addr len = requestRefused s fn q addr len := by
  have hctx : (({ s with wq := u.wq } : State).queue fn q).ctx = (s.queue fn q).ctx := h.ctx
  have hreq : queueReq { s with wq := u.wq } fn q = queueReq s fn q := by simp only [queueReq, pasidOf_congr hctx]
  rw [requestRefused_of_host h.host]
  simp only [requestRefused, pasidOff, qPasidValid_congr hctx, hreq]
  rfl

theorem fnRuns_of_access (h : SameAccess fn q s u) (g : Nat) : fnRuns u g = fnRuns s g := (fnRuns_of_host h.host g).trans rfl

theorem writes_of_access {addr : Nat} {data : Bytes} (h : SameAccess fn q s u) (hw : Writes u fn q addr data v) :
    Writes s fn q addr data v := by
  intro hruns p hp
  have hfuncs : u.ep.funcs = s.ep.funcs := h.host.ep_funcs
  have hout := hw ((fnRuns_of_access h fn).trans hruns) p (by rwa [writeLimit_congr hfuncs])
  rwa [queueReq_of_access h, translate_congr hfuncs h.host.ep_cached, pasidSent_congr hfuncs] at hout

end Access

/-! ### Chains of a queue -/

section Chains
variable {fn q first : Nat} {s : State}

theorem queueSet_updChain (h : Tab.wf Queue.reset s.wq.queues = true) (f : Chain → Chain) :
    QueueSet fn q { s.queue fn q with chains := (s.queue fn q).chains.map (fun c => if c.first = first then f c else c) } s
      (updChain fn q first f s) := queueSet_setQueue h _

end Chains

/-! ### A transmit frame waits for its scheduler -/

section Htx
variable {s : State}

theorem frames_setHtxWfq (w : Wfq) (x : HtxSched) : (setHtxWfq w x).frames = x.frames := rfl

theorem frames_htxStamp (fn : Nat) (x : HtxSched) : (htxStamp s fn x).frames = x.frames := by
  unfold htxStamp
  split
  · rfl
  · rw [frames_setHtxWfq]

theorem frames_htxWait (f : HtxFrame) : ((htxWait f s).htx f.die).frames = (s.htx f.die).frames ++ [f] := by
  obtain ⟨x, hx, heq⟩ : ∃ x : HtxSched, x.frames = (s.htx f.die).frames ++ [f] ∧ htxWait f s = s.setHtx f.die x := by
    unfold htxWait
    dsimp only
    split
    · exact ⟨_, frames_htxStamp .., rfl⟩
    · exact ⟨_, rfl, rfl⟩
  have hne : x ≠ HtxSched.reset := by
    rintro rfl
    exact absurd hx.symm (by simp [HtxSched.reset])
  have hget : (s.setHtx f.die x).htx f.die = x := Tab.get_set_of_ne (d := HtxSched.reset) _ _ hne
  rw [heq, hget, hx]

/-- The frame of a transmit chain. -/
def txFrameOf (fn q : Nat) (ch : Chain) (b : Bytes) : HtxFrame where
  fn := fn
  q := q
  idx := ch.first
  die := dieOf (txPort (ch.entries.headD []))
  port := txPort (ch.entries.headD [])
  tc := txTc (ch.entries.headD [])
  tsreq := txTsreq (ch.entries.headD [])
  bytes := b

variable {fn q : Nat} {ch : Chain} {b : Bytes}

theorem txReady_eq : txReady fn q ch b s
    = htxWait (txFrameOf fn q ch b) (updChain fn q ch.first (fun c => { c with started := true }) s) := rfl

theorem frame_txReady : Frame [.sched, .wq] s (txReady fn q ch b s) :=
  Frame.txReady (.of_all (by decide)) (.refl _ s) fn q ch b

theorem frames_txReady : ((txReady fn q ch b s).htx (dieOf (txPort (ch.entries.headD [])))).frames
    = (s.htx (dieOf (txPort (ch.entries.headD [])))).frames ++ [txFrameOf fn q ch b] :=
  frames_htxWait (txFrameOf fn q ch b)

theorem wq_txReady : (txReady fn q ch b s).wq = (updChain fn q ch.first (fun c => { c with started := true }) s).wq :=
  (Frame.htxWait (l := [.sched]) (.of_all (by decide)) (.refl _ _) (txFrameOf fn q ch b)).wq (by decide)

theorem queue_txReady (hwf : Tab.wf Queue.reset s.wq.queues = true) :
    (txReady fn q ch b s).queue fn q = { s.queue fn q with chains := startChain (s.queue fn q) ch.first }
    ∧ ∀ g p, qKey g p ≠ qKey fn q → (txReady fn q ch b s).queue g p = s.queue g p := by
  obtain ⟨-, hsame, hother⟩ := queueSet_updChain (fn := fn) (q := q) (first := ch.first) hwf (fun c => { c with started := true })
  exact ⟨(queue_congr wq_txReady fn q).trans hsame, fun g p h => (queue_congr wq_txReady g p).trans (hother g p h)⟩

end Htx

/-! ### TX_FRAME -/

section Tx
variable {fn q : Nat} {h : HostData} {ch : Chain} {segs : List (Nat × Nat)} {s : State} (hch : txChain s fn q = some ch)
include hch

theorem txFrame_range (hbad : (ch.entries.map eLength).sum < 60
      ∨ maxFrameSize s (txPort (ch.entries.headD [])) - 4 < (ch.entries.map eLength).sum
      ∨ portMode s (txPort (ch.entries.headD [])) = 0) : txFrame fn q h s = finishChain fn q ch.first stRANGE 0 s := by
  have hsum : ((ch.entries.map (fun x => (eAddr x, eLength x))).map (·.2)).sum = (ch.entries.map eLength).sum := by
    rw [List.map_map]
    rfl
  simp only [txFrame, hch, hsum]
  rw [if_pos hbad]

theorem txFrame_good (hsegs : segs = ch.entries.map (fun e => (eAddr e, eLength e))) (h60 : 60 ≤ (ch.entries.map eLength).sum)
    (hmax : (ch.entries.map eLength).sum + 4 ≤ maxFrameSize s (txPort (ch.entries.headD [])))
    (hmode : portMode s (txPort (ch.entries.headD [])) ≠ 0) :
    txFrame fn q h s = hostOp fn q ch.first [ch.entries.headD []] segs h (txReady fn q ch) s := by
  have hsum : ((ch.entries.map (fun x => (eAddr x, eLength x))).map (·.2)).sum = (ch.entries.map eLength).sum := by
    rw [List.map_map]
    rfl
  subst hsegs
  simp only [txFrame, hch, hsum]
  rw [if_neg (by omega)]

end Tx

theorem txChain_advance (t : Nat) (s : State) (fn q : Nat) : txChain (advance t s) fn q = txChain s fn q := by
  simp only [txChain, queue_advance, fnRuns_advance]

theorem maxFrameSize_advance (t : Nat) (s : State) (p : Nat) : maxFrameSize (advance t s) p = maxFrameSize s p := cfgN_advance ..

section RunsTx
variable {t fn q : Nat} {ch : Chain} {s : State} (hcanon : Canonical s) (hch : txChain s fn q = some ch)
include hcanon hch

theorem runs_txRange {f : Option Bytes} (hbad : (ch.entries.map eLength).sum < 60
      ∨ maxFrameSize s (txPort (ch.entries.headD [])) < (ch.entries.map eLength).sum + 4
      ∨ portMode s (txPort (ch.entries.headD [])) = 0) (h4 : 4 ≤ maxFrameSize s (txPort (ch.entries.headD []))) :
    Runs (.txFrame t fn q f) s (QueueSet fn q { s.queue fn q with
      chains := endChain (s.queue fn q) ch.first stRANGE 0 } (advance t s)) := by
  obtain ⟨-, -, -, -, -, -, -, -, -, -, hqueues, -⟩ := hcanon
  have hset := queueSet_finishChain (fn := fn) (q := q) (first := ch.first) (status := stRANGE) (result := 0) (s := advance t s)
    (by rwa [advance_wq])
  rw [queue_advance] at hset
  refine ⟨_, congrArg Host.Outcome.next (txFrame_range (by rwa [txChain_advance]) ?_), hset⟩
  rw [maxFrameSize_advance, portMode_advance]
  omega

variable {segs : List (Nat × Nat)} (hsegs : segs = ch.entries.map (fun e => (eAddr e, eLength e)))
  (h60 : 60 ≤ (ch.entries.map eLength).sum)
  (hmax : (ch.entries.map eLength).sum + 4 ≤ maxFrameSize s (txPort (ch.entries.headD [])))
  (hmode : portMode s (txPort (ch.entries.headD [])) ≠ 0)
include hsegs h60 hmax hmode

theorem runs_txNow {h b : Bytes} {s1 : State} (hbytes : HostBytes (advance t s) fn q segs h b s1) :
    Runs (.txFrame t fn q (some h)) s (fun u =>
      (u.htx (dieOf (txPort (ch.entries.headD [])))).frames = (s.htx (dieOf (txPort (ch.entries.headD [])))).frames
        ++ [txFrameOf fn q ch b]
      ∧ u.queue fn q = { s.queue fn q with chains := startChain (s.queue fn q) ch.first }
      ∧ (∀ g p, qKey g p ≠ qKey fn q → u.queue g p = s.queue g p) ∧ u.buf = s.buf ∧ u.ports = s.ports) := by
  obtain ⟨-, -, -, -, -, -, -, -, -, -, hqueues, -⟩ := hcanon
  have hrun : txFrame fn q (.of (some h)) (advance t s) = txReady fn q ch b s1 :=
    (txFrame_good (by rwa [txChain_advance]) hsegs h60 (by rwa [maxFrameSize_advance]) (by rwa [portMode_advance])).trans
      (hostOp_now hbytes)
  have htr := transmits_readNow hbytes.2.2
  have hwq : s1.wq = s.wq := htr.wq.trans (advance_wq ..)
  have hsched : s1.sched = s.sched := htr.sched.trans (advance_sched ..)
  obtain ⟨hsame, hother⟩ := queue_txReady (fn := fn) (q := q) (ch := ch) (b := b) (s := s1) (by rwa [hwq])
  have hframe := frame_txReady (fn := fn) (q := q) (ch := ch) (b := b) (s := s1)
  refine ⟨_, congrArg Host.Outcome.next hrun, ?_, ?_, fun g p hk => (hother g p hk).trans (queue_congr hwq g p), ?_, ?_⟩
  · rw [frames_txReady, State.htx, hsched]
    rfl
  · rw [hsame, queue_congr hwq]
  · exact (hframe.buf (by decide)).trans (htr.buf.trans (advance_buf ..))
  · exact (hframe.ports (by decide)).trans ((congrArg State.ports htr.rest :).trans (advance_ports ..))

omit hcanon in
theorem runs_txTags (hok : readRefused s fn q segs = false) (hlen : hostLen segs ≠ 0) (hruns : fnRuns s fn = true) :
    Runs (.txFrame t fn q none) s (fun u =>
      u = startReads (queueReq s fn q) (.data ch.first) segs (advance t s) ∧ u.wq = s.wq ∧ u.sched = s.sched) := by
  have hrun : txFrame fn q (.of none) (advance t s) = startReads (queueReq s fn q) (.data ch.first) segs (advance t s) := by
    refine (txFrame_good (by rwa [txChain_advance]) hsegs h60 (by rwa [maxFrameSize_advance]) (by rwa [portMode_advance])).trans ?_
    refine (hostOp_tags (by rwa [readRefused_advance]) (by rwa [fnRuns_advance]) hlen).trans ?_
    rw [queueReq_advance]
  have hframe : Frame [.ep] (advance t s) (startReads (queueReq s fn q) (.data ch.first) segs (advance t s)) :=
    Frame.startReads (.of_all (by decide)) (.refl _ _) ..
  exact ⟨_, congrArg Host.Outcome.next hrun, rfl, (hframe.wq (by decide)).trans (advance_wq ..),
    (hframe.sched (by decide)).trans (advance_sched ..)⟩

end RunsTx

/-! ### RX_BUF -/

section RxBuf
variable {t fn q : Nat} {s : State}

theorem rxBuf_posts {ch : Chain} (hcanon : Canonical s) (hkind : qKind (s.queue fn q) = kRX)
    (hlive : (s.queue fn q).st.live = true) (hch : nextChain (s.queue fn q) 2 = some ch) :
    Runs (.rxBuf t fn q) s (QueueSet fn q { s.queue fn q with
      chains := startChain (s.queue fn q) ch.first
      posted := (s.queue fn q).posted ++ [(ch.first, ch.entries.headD [])] } (advance t s)) := by
  obtain ⟨-, -, -, -, -, -, -, -, -, -, hqueues, -⟩ := hcanon
  have hwf : Tab.wf Queue.reset (advance t s).wq.queues = true := by rwa [advance_wq]
  have hstart := queueSet_updChain (fn := fn) (q := q) (first := ch.first) hwf (fun c => { c with started := true })
  have hrun : rxBuf fn q (advance t s) = (updChain fn q ch.first (fun c => { c with started := true }) (advance t s)).setQueue fn q
      { s.queue fn q with
        chains := startChain (s.queue fn q) ch.first
        posted := (s.queue fn q).posted ++ [(ch.first, ch.entries.headD [])] } := by
    simp only [rxBuf, queue_advance, hkind, hlive, hch, hstart.2.1, ne_eq, not_true_eq_false, Bool.not_true, Bool.false_eq_true,
      or_self, ↓reduceIte]
    rfl
  exact ⟨_, congrArg Host.Outcome.next hrun, queueSet_trans hstart (queueSet_setQueue (Tab.wf_set _ _ hwf) _)⟩

theorem rxBuf_idle (h : qKind (s.queue fn q) ≠ kRX ∨ (s.queue fn q).st.live = false ∨ nextChain (s.queue fn q) 2 = none) :
    rxBuf fn q s = s := by
  unfold rxBuf
  obtain h | h | h := h
  · exact if_pos (.inl h)
  · exact if_pos (.inr (by rw [h]; rfl))
  · simp only [h, ite_self]

end RxBuf

/-! ### The frame leaves what holds it -/

section Hold
variable {fn q : Nat} {h : HFrame} {rest : List HFrame} {s : State}

theorem hostQ_bufDie (die : Nat) (b : BufDie) (s : State) : (s.setBufDie die b).buf.hostQ = s.buf.hostQ := rfl

theorem hostQ_raiseDie (die k : Nat) (s : State) : (raiseDie die k s).buf.hostQ = s.buf.hostQ :=
  congrArg Buffers.hostQ (signals_raiseDie die k s).buf

theorem hostQ_count (idx sub : Nat) (s : State) : (count idx sub s).buf.hostQ = s.buf.hostQ := by
  rw [count_buf]

theorem hostQ_lowCheck (die : Nat) (s : State) : (lowCheck die s).buf.hostQ = s.buf.hostQ := by
  unfold lowCheck
  dsimp only
  split
  · rw [hostQ_raiseDie, hostQ_bufDie]
  · split
    · rfl
    · rfl

theorem hostQ_freeCell (die : Nat) (pipe : Option Nat) (owner c : Nat) (s : State) :
    (freeCell die pipe owner c s).buf.hostQ = s.buf.hostQ := by
  have hbad (k j : Nat) : (raiseDie die j (count 0x2B05 k s)).buf.hostQ = s.buf.hostQ := by
    rw [hostQ_raiseDie, hostQ_count]
  unfold freeCell
  dsimp only
  split
  · rfl
  · split
    · exact hbad 3 8
    · split
      · exact hbad 4 9
      · rfl

theorem hostQ_freeCellList (die : Nat) (pipe : Option Nat) (owner : Nat) (l : List Nat) (s : State) :
    (freeCellList die pipe owner l s).buf.hostQ = s.buf.hostQ := by
  unfold freeCellList
  rw [hostQ_lowCheck]
  exact forEach_keeps (fun y => y.buf.hostQ) (fun c y => hostQ_freeCell _ _ _ c y) l s

theorem hostQ_releaseCopy (sid : Nat) (pipe : Option Nat) (s : State) : (releaseCopy sid pipe s).buf.hostQ = s.buf.hostQ := by
  unfold releaseCopy
  split
  · rfl
  · split
    · rfl
    · rw [hostQ_freeCellList]
      rfl

theorem hostQ_dropPlace (h : HFrame) (s : State) : (dropPlace h s).buf.hostQ = s.buf.hostQ := by
  unfold dropPlace
  split
  · exact hostQ_releaseCopy ..
  · rfl
  · rfl

theorem hostQ_eccError (die : Nat) (s : State) : (eccError die s).buf.hostQ = s.buf.hostQ := by
  rw [eccError, hostQ_raiseDie, hostQ_count]

theorem hostQ_linkError (sid place : Nat) (pipe : Option Nat) (s : State) : (linkError sid place pipe s).buf.hostQ = s.buf.hostQ := by
  unfold linkError
  split
  · rfl
  · dsimp only
    rw [hostQ_eccError, hostQ_lowCheck, hostQ_bufDie, hostQ_freeCellList]
    rfl

theorem hostQ_bufFaultAt (die : Nat) (f : BufFault) (s : State) : (bufFaultAt die f s).buf.hostQ = s.buf.hostQ := by
  cases f with
  | corrected => exact hostQ_count ..
  | badFree cell owner =>
    dsimp only [bufFaultAt]
    split
    · rfl
    · exact hostQ_freeCell ..
  | freeWord ditch depth =>
    dsimp only [bufFaultAt]
    split
    · rw [hostQ_eccError, hostQ_lowCheck, hostQ_bufDie]
    · rfl
  | tag cell =>
    dsimp only [bufFaultAt]
    split
    · rfl
    · rw [hostQ_eccError, hostQ_lowCheck, hostQ_bufDie]
  | _ => rfl

theorem hostQ_cellFault (die sid : Nat) (f : BufFault) (s : State) : (cellFault die sid f s).2.buf.hostQ = s.buf.hostQ := by
  cases f with
  | data => exact (hostQ_releaseCopy ..).trans (hostQ_eccError ..)
  | link place => exact hostQ_linkError ..
  | clean => rfl
  | underrun => rfl
  | _ => exact hostQ_bufFaultAt ..

theorem hostQ_deliveryFault (f : BufFault) (s : State) : (deliveryFault h f s).2.buf.hostQ = s.buf.hostQ := by
  unfold deliveryFault
  split
  · exact hostQ_cellFault ..
  · rfl
  · rfl

theorem frame_deliveryFault (f : BufFault) (s : State) : Frame [.counters, .buf] s (deliveryFault h f s).2 := by
  unfold deliveryFault
  split
  · exact Frame.cellFault (.of_all (by decide)) (.refl _ s) _ _ f
  · exact .refl _ s
  · exact .refl _ s

theorem frame_dropPlace (s : State) : Frame [.counters, .buf] s (dropPlace h s) :=
  Frame.dropPlace (.of_all (by decide)) (.refl _ s) h

/-- The queue once the frame left what held it: the end of its overflow may be noted. -/
theorem leaveHold_spec (hwf : Tab.wf [] s.buf.hostQ = true) (hq : Tab.wf Queue.reset s.wq.queues = true) :
    hostFrames (leaveHold fn q h rest s) fn q = rest
    ∧ Tab.wf Queue.reset (leaveHold fn q h rest s).wq.queues = true
    ∧ ∃ n, (leaveHold fn q h rest s).queue fn q = { s.queue fn q with ovfEnd := n } := by
  have hrest : hostFrames (setHostFrames fn q rest s) fn q = rest := Tab.get_set_same (d := []) _ rest hwf
  have hkeeps : hostFrames (setHostFrames fn q rest s) fn q = rest ∧ Tab.wf Queue.reset (setHostFrames fn q rest s).wq.queues = true
      ∧ ∃ n, (setHostFrames fn q rest s).queue fn q = { s.queue fn q with ovfEnd := n } := ⟨hrest, hq, _, rfl⟩
  unfold leaveHold
  dsimp only
  split
  · split
    · exact hkeeps
    · exact ⟨hrest, Tab.wf_set _ _ hq, _, queue_setQueue_same hq ..⟩
  · exact hkeeps
  · exact hkeeps

theorem frame_leaveHold : Frame [.buf, .wq] s (leaveHold fn q h rest s) :=
  Frame.leaveHold (.of_all (by decide)) (.refl _ s) fn q h rest

theorem trackHost_spec (f : Track → Track) (hq : Tab.wf Queue.reset s.wq.queues = true) :
    (trackHost fn q f s).buf = s.buf ∧ (trackHost fn q f s).polders = s.polders ∧ (trackHost fn q f s).out = s.out
    ∧ ∃ k, (trackHost fn q f s).queue fn q = { s.queue fn q with track := k } := by
  unfold trackHost
  dsimp only
  split
  · exact ⟨rfl, rfl, rfl, _, rfl⟩
  · exact ⟨rfl, rfl, rfl, _, queue_setQueue_same hq ..⟩

end Hold

end Sys2Proof.Machine
end

section
/-! RX_DELIVER (spec 11 R371): the oldest frame fills the oldest buffer, or is lost. -/

namespace Sys2Proof.Machine
open Sys2Proof

/-! ### One buffer -/

theorem takeBuffers_one {idx n : Nat} {e : Bytes} {post : List (Nat × Bytes)} (h0 : 0 < n) (h : n ≤ eLength e) :
    takeBuffers ((idx, e) :: post) n = some [(idx, e)] := by
  obtain ⟨k, rfl⟩ := Nat.exists_eq_succ_of_ne_zero (by omega : n ≠ 0)
  have hrest : takeBuffers post (k + 1 - eLength e) = some [] := by
    rw [show k + 1 - eLength e = 0 from by omega]
    cases post <;> rfl
  simp only [takeBuffers, hrest, Option.map_some]

theorem length_rxResult (h : HFrame) (first last : Bool) (placed tag : Nat) : (rxResult h first last placed tag).length = 32 := by
  unfold rxResult
  dsimp only
  by_cases hp : h.place = .notice
  · rw [if_pos hp]
    simp only [zeros, List.length_append, length_leBytes, List.length_replicate, List.length_cons, List.length_nil]
  · rw [if_neg hp]
    simp only [List.length_append, length_leBytes, length_time96Host, List.length_cons, List.length_nil]

section Fill
variable {fn q idx : Nat} {e : Bytes} {h : HFrame} {s : State}

/-- A frame in one buffer: its bytes, its receive result, and the end of the buffer's chain. -/
theorem fillBuffers_one (hwf : Tab.wf Queue.reset s.wq.queues = true) (hst : (s.queue fn q).st = .enabled)
    (hlen : h.bytes.length ≤ eLength e)
    (hok : requestRefused s fn q (eAddr e) h.bytes.length = false) (hddr : isDdr (eAddr e) = false)
    (hres : requestRefused s fn q (qBase (s.queue fn q) + 32 * idx) 32 = false)
    (hddr' : isDdr (qBase (s.queue fn q) + 32 * idx) = false) : ∃ y, Transmits s y
      ∧ QueueSet fn q { s.queue fn q with chains := endChain (s.queue fn q) idx stOK 0 } y (fillBuffers fn q h true [(idx, e)] h.bytes s)
      ∧ Tab.wf Queue.reset (fillBuffers fn q h true [(idx, e)] h.bytes s).wq.queues = true
      ∧ Writes s fn q (eAddr e) h.bytes y
      ∧ Writes s fn q (qBase (s.queue fn q) + 32 * idx) (rxResult h true true h.bytes.length (eTag e)) y := by
  have hfirst := transmits_queueWrite (idx := idx) (marks := [e]) hok hddr
  have hwrite := writes_queueWrite (idx := idx) (marks := [e]) (Transmits.refl s).sameHost hok hddr
  have heq : fillBuffers fn q h true [(idx, e)] h.bytes s
      = (let s1 := queueWrite fn q idx (eAddr e) [e] h.bytes s
        let s2 := if (s1.queue fn q).st = .error then s1
          else queueWrite fn q idx (qBase (s.queue fn q) + 32 * idx) [e] (rxResult h true true h.bytes.length (eTag e)) s1
        if (s2.queue fn q).st = .error then s2 else finishChain fn q idx stOK 0 s2) := by
    simp only [fillBuffers, Nat.min_eq_right hlen, List.take_length, List.isEmpty_nil]
  rw [heq]
  dsimp only
  generalize queueWrite fn q idx (eAddr e) [e] h.bytes s = z at hfirst hwrite
  have hlen32 := length_rxResult h true true h.bytes.length (eTag e)
  generalize rxResult h true true h.bytes.length (eTag e) = res at hlen32
  have hres' : requestRefused s fn q (qBase (s.queue fn q) + 32 * idx) res.length = false := by rwa [hlen32]
  have hsecond := transmits_queueWrite (idx := idx) (marks := [e]) ((requestRefused_of_host hfirst.sameHost ..).trans hres') hddr'
  have hwrite' := writes_queueWrite (idx := idx) (marks := [e]) hfirst.sameHost hres' hddr'
  have hkeep : ∀ o ∈ z.out, o ∈ (queueWrite fn q idx (qBase (s.queue fn q) + 32 * idx) [e] res z).out :=
    fun o ho => mem_out_queueWrite ho
  rw [if_neg (c := (z.queue fn q).st = .error) (by rw [hfirst.queue, hst]; decide)]
  generalize queueWrite fn q idx (qBase (s.queue fn q) + 32 * idx) [e] res z = y at hsecond hwrite' hkeep
  have hall := hfirst.trans hsecond
  rw [if_neg (c := (y.queue fn q).st = .error) (by rw [hall.queue, hst]; decide)]
  have hywf : Tab.wf Queue.reset y.wq.queues = true := by
    rw [hall.wq]
    exact hwf
  have hset := queueSet_finishChain (fn := fn) (q := q) (first := idx) (status := stOK) (result := 0) hywf
  rw [hall.queue] at hset
  exact ⟨y, hall, hset, Tab.wf_set _ _ hywf, writes_mono hkeep hwrite, hwrite'⟩

end Fill

/-! ### What RX_DELIVER does -/

section Deliver
variable {t fn q : Nat} {fault : BufFault} {h : HFrame} {rest : List HFrame} {s : State}

/-- The state once the frame left what held it and its buffers are taken. -/
def deliverStart (fn q : Nat) (fault : BufFault) (h : HFrame) (rest : List HFrame) (n : Nat) (s : State) : State :=
  let s1 := leaveHold fn q h rest (dropPlace h (deliveryFault h fault s).2)
  s1.setQueue fn q { s1.queue fn q with posted := (s.queue fn q).posted.drop n }

theorem rxDeliver_none (hh : hostFrames s fn q = []) : rxDeliver t fn q fault s = s := by
  simp only [rxDeliver, hh]

variable (hh : hostFrames s fn q = h :: rest) (hkind : qKind (s.queue fn q) = kRX) (hst : (s.queue fn q).st = .enabled)
  (hruns : fnRuns s fn = true)
include hh hkind hst hruns

theorem rxDeliver_fills {bs : List (Nat × Bytes)} (hbs : takeBuffers (s.queue fn q).posted h.bytes.length = some bs)
    (hcut : deliveryCut s h = false) (hfault : (deliveryFault h fault s).1 = false) : ∃ f, rxDeliver t fn q fault s
      = trackHost fn q f (fillBuffers fn q h true bs h.bytes (deliverStart fn q fault h rest bs.length s)) := by
  refine ⟨fun k => { k with dequeued := satAdd32 k.dequeued 1, sojourn := max k.sojourn (sojournNs t h.enq) }, ?_⟩
  simp only [rxDeliver, hh, hkind, hst, hruns, hbs, hcut, hfault, ne_eq, not_true_eq_false, Bool.not_true, Bool.false_eq_true, or_self,
    ↓reduceIte]
  rfl

theorem rxDeliver_loses {bs : List (Nat × Bytes)} (hbs : takeBuffers (s.queue fn q).posted h.bytes.length = some bs)
    (hlost : deliveryCut s h = true ∨ (deliveryFault h fault s).1 = true) : ∃ f y, rxDeliver t fn q fault s
      = trackHost fn q f (leaveHold fn q h rest y) ∧ (y = dropPlace h s ∨ y = (deliveryFault h fault s).2) := by
  cases hcut : deliveryCut s h with
  | true =>
    refine ⟨fun k => { k with discarded := satAdd32 k.discarded 1 }, _, ?_, .inl rfl⟩
    simp only [rxDeliver, hh, hkind, hst, hruns, hbs, hcut, ne_eq, not_true_eq_false, Bool.not_true, Bool.false_eq_true, or_self,
      ↓reduceIte]
  | false =>
    have hfault := hlost.resolve_left (by rw [hcut]; decide)
    refine ⟨fun k => { k with discarded := satAdd32 k.discarded 1 }, _, ?_, .inr rfl⟩
    simp only [rxDeliver, hh, hkind, hst, hruns, hbs, hcut, hfault, ne_eq, not_true_eq_false, Bool.not_true, Bool.false_eq_true,
      or_self, ↓reduceIte]

theorem rxDeliver_waits (hbs : takeBuffers (s.queue fn q).posted h.bytes.length = none) : rxDeliver t fn q fault s
    = if h.place = .notice then count 0x2A03 0xA (setHostFrames fn q rest
        (s.setQueue fn q { s.queue fn q with dropped := satAdd16 (s.queue fn q).dropped 1 })) else s := by
  simp only [rxDeliver, hh, hkind, hst, hruns, hbs, ne_eq, not_true_eq_false, Bool.not_true, Bool.false_eq_true, or_self, ↓reduceIte]

end Deliver

theorem hostFrames_congr {s u : State} (h : u.buf.hostQ = s.buf.hostQ) (fn q : Nat) : hostFrames u fn q = hostFrames s fn q := by
  rw [hostFrames, h, hostFrames]

theorem hostFrames_advance (t : Nat) (s : State) (fn q : Nat) : hostFrames (advance t s) fn q = hostFrames s fn q :=
  hostFrames_congr (by rw [advance_buf]) fn q

theorem deliveryCut_advance (t : Nat) (s : State) (h : HFrame) : deliveryCut (advance t s) h = deliveryCut s h := by
  unfold deliveryCut
  cases h.place <;> simp only [culvDown, advance_culv]

/-! ### A frame that fills a buffer, and one that is lost -/

section Start
variable {fn q n : Nat} {fault : BufFault} {h : HFrame} {rest : List HFrame} {s : State}
  (hwf : Tab.wf [] s.buf.hostQ = true) (hq : Tab.wf Queue.reset s.wq.queues = true)
include hwf hq

/-- What leaves the held frames and the queues alone may come before the frame leaves. -/
theorem leaveHold_after {y : State} (hy : Frame [.counters, .buf] s y) (hb : y.buf.hostQ = s.buf.hostQ) :
    hostFrames (leaveHold fn q h rest y) fn q = rest ∧ Tab.wf Queue.reset (leaveHold fn q h rest y).wq.queues = true
    ∧ (∃ k, (leaveHold fn q h rest y).queue fn q = { s.queue fn q with ovfEnd := k })
    ∧ Frame [.counters, .buf, .wq] s (leaveHold fn q h rest y) := by
  have hwq := hy.wq (by decide)
  obtain ⟨hframes, hqueues, k, hk⟩ := leaveHold_spec (fn := fn) (q := q) (h := h) (rest := rest) (s := y) (by rwa [hb]) (by rwa [hwq])
  exact ⟨hframes, hqueues, ⟨k, by rw [hk, queue_congr hwq]⟩, (hy.mono (.of_all (by decide))).trans (frame_leaveHold.mono (.of_all (by decide)))⟩

theorem deliverStart_spec : hostFrames (deliverStart fn q fault h rest n s) fn q = rest
    ∧ Tab.wf Queue.reset (deliverStart fn q fault h rest n s).wq.queues = true
    ∧ (∃ k, (deliverStart fn q fault h rest n s).queue fn q
        = { s.queue fn q with ovfEnd := k, posted := (s.queue fn q).posted.drop n })
    ∧ Frame [.counters, .buf, .wq] s (deliverStart fn q fault h rest n s) := by
  have hy : Frame [.counters, .buf] s (dropPlace h (deliveryFault h fault s).2) :=
    (frame_deliveryFault fault s).trans (frame_dropPlace _)
  obtain ⟨hframes, hqueues, ⟨k, hk⟩, hframe⟩ := leaveHold_after (fn := fn) (q := q) (h := h) (rest := rest) hwf hq hy
    ((hostQ_dropPlace ..).trans (hostQ_deliveryFault ..))
  unfold deliverStart
  dsimp only
  generalize leaveHold fn q h rest (dropPlace h (deliveryFault h fault s).2) = z at hframes hqueues hk hframe
  refine ⟨hframes, Tab.wf_set _ _ hqueues, ⟨k, ?_⟩, Frame.setQueue (.of_all (by decide)) hframe ..⟩
  rw [queue_setQueue_same hqueues, hk]

end Start

section Runs
variable {t fn q : Nat} {fault : BufFault} {h : HFrame} {rest : List HFrame} {s : State} (hcanon : Canonical s)
  (hwf : Tab.wf [] s.buf.hostQ = true) (hh : hostFrames s fn q = h :: rest) (hkind : qKind (s.queue fn q) = kRX)
  (hst : (s.queue fn q).st = .enabled) (hruns : fnRuns s fn = true)
include hcanon hwf hh hkind hst hruns

section One
variable {idx : Nat} {e : Bytes} {post : List (Nat × Bytes)} (hpost : (s.queue fn q).posted = (idx, e) :: post)
  (hne : h.bytes ≠ []) (hlen : h.bytes.length ≤ eLength e)
include hpost hne hlen

theorem runs_delivers (hcut : deliveryCut s h = false) (hfault : (deliveryFault h fault (advance t s)).1 = false)
    (hok : requestRefused s fn q (eAddr e) h.bytes.length = false) (hddr : isDdr (eAddr e) = false)
    (hres : requestRefused s fn q (qBase (s.queue fn q) + 32 * idx) 32 = false)
    (hddr' : isDdr (qBase (s.queue fn q) + 32 * idx) = false) :
    Runs (.rxDeliver t fn ⟨q, fault⟩) s (fun u => hostFrames u fn q = rest ∧ (u.queue fn q).posted = post
        ∧ Writes s fn q (eAddr e) h.bytes u
        ∧ Writes s fn q (qBase (s.queue fn q) + 32 * idx) (rxResult h true true h.bytes.length (eTag e)) u
        ∧ (u.queue fn q).chains = endChain (s.queue fn q) idx 0 0
        ∧ (u.queue fn q).st = .enabled ∧ u.polders = s.polders) := by
  obtain ⟨-, -, -, -, -, -, -, -, -, -, hqueues, -⟩ := hcanon
  have hbs : takeBuffers ((advance t s).queue fn q).posted h.bytes.length = some [(idx, e)] := by
    rw [queue_advance, hpost]
    exact takeBuffers_one (List.length_pos_iff.2 hne) hlen
  obtain ⟨f, hrun⟩ := rxDeliver_fills (t := t) (fault := fault) (by rwa [hostFrames_advance]) (by rwa [queue_advance])
    (by rwa [queue_advance]) (by rwa [fnRuns_advance]) hbs (by rwa [deliveryCut_advance]) hfault
  obtain ⟨hframes, hqwf, ⟨k, hk⟩, hframe⟩ := deliverStart_spec (fn := fn) (q := q) (n := 1) (fault := fault) (h := h) (rest := rest)
    (s := advance t s) (by rwa [advance_buf]) (by rwa [advance_wq])
  rw [queue_advance, hpost, List.drop_one, List.tail_cons] at hk
  have hctx : ((deliverStart fn q fault h rest 1 (advance t s)).queue fn q).ctx = ((advance t s).queue fn q).ctx := by
    rw [hk, queue_advance]
  have haccess := access_of_frame hframe (by decide) (by decide) (by decide) hctx
  have hpolders := (hframe.polders (by decide)).trans (advance_polders s t)
  rw [List.length_singleton] at hrun
  generalize deliverStart fn q fault h rest 1 (advance t s) = y at hrun hframes hqwf hk hframe haccess hpolders
  have hbase : qBase (y.queue fn q) = qBase (s.queue fn q) := by
    rw [hk]
    rfl
  obtain ⟨z, htr, hset, hwqueues, hw1, hw2⟩ := fillBuffers_one (fn := fn) (q := q) (idx := idx) (e := e) (h := h) (s := y) hqwf
    (by rw [hk]; exact hst) hlen (by rwa [requestRefused_of_access haccess, requestRefused_advance]) hddr
    (by rwa [requestRefused_of_access haccess, requestRefused_advance, hbase]) (by rwa [hbase])
  generalize fillBuffers fn q h true [(idx, e)] h.bytes y = w at hrun hset hwqueues
  obtain ⟨hbuf, hpol, hout, j, hj⟩ := trackHost_spec (fn := fn) (q := q) f hwqueues
  have hsame := hset.2.1
  have hout' : ∀ o ∈ z.out, o ∈ (trackHost fn q f w).out := fun o ho => by
    rw [hout, queueSet_out hset]
    exact ho
  refine ⟨_, congrArg Host.Outcome.next hrun, ?_, ?_, ?_, ?_, ?_, ?_, ?_⟩
  · rw [hostFrames, hbuf, (congrArg State.buf hset.1 :), htr.buf]
    exact hframes
  · rw [hj, hsame, hk]
  · exact (writes_advance ..).1 (writes_of_access haccess (writes_mono hout' hw1))
  · rw [hbase] at hw2
    exact (writes_advance ..).1 (writes_of_access haccess (writes_mono hout' hw2))
  · rw [hj, hsame, hk]
    rfl
  · rw [hj, hsame, hk]
    exact hst
  · rw [hpol, (congrArg State.polders hset.1 :), htr.polders, hpolders]

theorem runs_loses (hlost : deliveryCut s h = true ∨ (deliveryFault h fault (advance t s)).1 = true) :
    Runs (.rxDeliver t fn ⟨q, fault⟩) s (fun u => hostFrames u fn q = rest
      ∧ (u.queue fn q).posted = (s.queue fn q).posted ∧ (u.queue fn q).chains = (s.queue fn q).chains) := by
  obtain ⟨-, -, -, -, -, -, -, -, -, -, hqueues, -⟩ := hcanon
  have hbs : takeBuffers ((advance t s).queue fn q).posted h.bytes.length = some [(idx, e)] := by
    rw [queue_advance, hpost]
    exact takeBuffers_one (List.length_pos_iff.2 hne) hlen
  obtain ⟨f, y, hrun, hy⟩ := rxDeliver_loses (t := t) (fault := fault) (by rwa [hostFrames_advance]) (by rwa [queue_advance])
    (by rwa [queue_advance]) (by rwa [fnRuns_advance]) hbs (by rwa [deliveryCut_advance])
  have hstart : Frame [.counters, .buf] (advance t s) y ∧ y.buf.hostQ = (advance t s).buf.hostQ := by
    obtain rfl | rfl := hy
    · exact ⟨frame_dropPlace _, hostQ_dropPlace ..⟩
    · exact ⟨frame_deliveryFault .., hostQ_deliveryFault ..⟩
  obtain ⟨hframes, hqwf, ⟨k, hk⟩, -⟩ := leaveHold_after (fn := fn) (q := q) (h := h) (rest := rest) (by rwa [advance_buf])
    (by rwa [advance_wq]) hstart.1 hstart.2
  generalize leaveHold fn q h rest y = w at hrun hframes hqwf hk
  obtain ⟨hbuf, -, -, j, hj⟩ := trackHost_spec (fn := fn) (q := q) f hqwf
  rw [queue_advance] at hk
  refine ⟨_, congrArg Host.Outcome.next hrun, ?_, ?_, ?_⟩
  · rw [hostFrames, hbuf]
    exact hframes
  · rw [hj, hk]
  · rw [hj, hk]

end One

theorem runs_noBuffers (hbs : takeBuffers (s.queue fn q).posted h.bytes.length = none) :
    (h.place ≠ .notice → Runs (.rxDeliver t fn ⟨q, fault⟩) s (fun u => u = advance t s))
    ∧ (h.place = .notice → Runs (.rxDeliver t fn ⟨q, fault⟩) s (fun u => hostFrames u fn q = rest
      ∧ (u.queue fn q).dropped = satAdd16 (s.queue fn q).dropped 1
      ∧ counter u 0x2A03 0xA = satAdd64 (counter s 0x2A03 0xA) 1)) := by
  obtain ⟨-, -, -, -, -, -, -, -, -, -, hqueues, -⟩ := hcanon
  have hrun := rxDeliver_waits (t := t) (fault := fault) (s := advance t s) (by rwa [hostFrames_advance]) (by rwa [queue_advance])
    (by rwa [queue_advance]) (by rwa [fnRuns_advance]) (by rwa [queue_advance])
  refine ⟨fun hp => ⟨_, congrArg Host.Outcome.next (hrun.trans (if_neg hp)), rfl⟩,
    fun hp => ⟨_, congrArg Host.Outcome.next (hrun.trans (if_pos hp)), ?_, ?_, ?_⟩⟩
  · rw [hostFrames, count_buf]
    exact Tab.get_set_same (d := []) _ rest (by rw [setQueue_buf, advance_buf]; exact hwf)
  · rw [queue_congr (count_wq ..), queue_advance]
    exact congrArg Queue.dropped (queue_setQueue_same (s := advance t s) (by rwa [advance_wq]) fn q _)
  · exact (counter_countQ ..).trans (congrArg (satAdd64 · 1) (counter_advance t s ..))

end Runs

end Sys2Proof.Machine

namespace Sys2Proof
open Machine

/-- Settles O26: a gathered chain waits at its die or ends with RANGE; a frame fills the oldest buffer through two writes,
is lost, or waits. -/
theorem hostFrames : Obligations.HostFrames := by
  refine ⟨?_, ?_, ?_, ?_, ?_, ?_, ?_⟩
  · intro t fn q ch segs s hcanon hch hsegs h60 hmax hmode
    exact ⟨fun _ _ _ hbytes => runs_txNow hcanon hch hsegs h60 hmax hmode hbytes,
      fun hok hlen hruns => runs_txTags hch hsegs h60 hmax hmode hok hlen hruns⟩
  · intro t fn q ch f s hcanon hch hbad h4
    exact runs_txRange hcanon hch hbad h4
  · intro t fn q ch s hcanon hkind hlive hch
    exact rxBuf_posts hcanon hkind hlive hch
  · intro t fn q s h
    exact ⟨_, congrArg Host.Outcome.next (rxBuf_idle (by rwa [queue_advance])), rfl⟩
  · intro t fn q idx fault e post h rest s hcanon hwf hh hkind hst hruns hpost hne hlen
    exact ⟨fun hcut hfault hok hddr hres hddr' => runs_delivers hcanon hwf hh hkind hst hruns hpost hne hlen hcut hfault hok hddr hres hddr',
      fun hlost => runs_loses hcanon hwf hh hkind hst hruns hpost hne hlen hlost⟩
  · intro t fn q fault h rest s hcanon hwf hh hkind hst hruns hbs
    exact runs_noBuffers hcanon hwf hh hkind hst hruns hbs
  · intro t fn q fault s hh
    exact ⟨_, congrArg Host.Outcome.next (rxDeliver_none (by rwa [hostFrames_advance])), rfl⟩

end Sys2Proof
end

section
/-! Fetched entries (spec 11 R366 to R369, R384) and the reads that bring them (09 R307). -/

namespace Sys2Proof.Machine
open Sys2Proof

/-! ### Waiting reads -/

section Issue
variable {s : State}

theorem issueParts_none (h : ∀ r ∈ s.ep.reads, r.st ≠ .waiting) : issueParts s = s := by
  have hnone : s.ep.reads.filter (fun r => decide (r.st = .waiting)) = [] :=
    List.filter_eq_nil_iff.2 fun r hr => by simpa using h r hr
  rw [issueParts, hnone]
  rfl

theorem issueParts_last {l : List Read} {r : Read} (hreads : s.ep.reads = l ++ [r]) (h : ∀ x ∈ l, x.st ≠ .waiting)
    (hr : r.st = .waiting) : issueParts s = issuePart r s := by
  have hone : s.ep.reads.filter (fun r => decide (r.st = .waiting)) = [r] := by
    rw [hreads, List.filter_append, List.filter_eq_nil_iff.2 fun x hx => by simpa using h x hx]
    simp [hr]
  rw [issueParts, hone]
  rfl

end Issue

/-! ### The queue whose turn it is -/

section Turn
variable {s : State} {fn q : Nat}

theorem turnAfter_mem {last n : Nat} {l : List Nat} (h : turnAfter last l = some n) : n ∈ l := by
  unfold turnAfter at h
  split at h
  · next m hm =>
    cases h
    exact (List.mem_filter.1 (List.min?_mem hm)).1
  · exact List.min?_mem h

theorem fetchTurn_ready (h : fetchTurn s = some (fn, q)) : fetchReady s fn q = true ∧ q < 1024 := by
  unfold fetchTurn at h
  dsimp only at h
  split at h
  · cases h
  · obtain ⟨p, hp, heq⟩ := Option.map_eq_some_iff.1 h
    cases heq
    obtain ⟨e, he, rfl⟩ := List.mem_map.1 (turnAfter_mem hp)
    obtain ⟨hmem, hfn⟩ := List.mem_filter.1 he
    obtain ⟨x, hx, rfl⟩ := List.mem_map.1 hmem
    obtain rfl := of_decide_eq_true hfn
    exact ⟨(List.mem_filter.1 hx).2, Nat.mod_lt _ (by decide)⟩

/-- What a queue is whose turn it is. -/
theorem fetchReady_spec (h : fetchReady s fn q = true) : fnRuns s fn = true ∧ (s.queue fn q).st = .enabled
    ∧ (s.queue fn q).reading = false ∧ (qKind (s.queue fn q) = kJOURNAL → 0 < journalRoom s (s.queue fn q)) := by
  unfold fetchReady at h
  simp only [Bool.and_eq_true, decide_eq_true_eq, Bool.not_eq_true', Bool.or_eq_true] at h
  obtain ⟨⟨⟨⟨⟨⟨hruns, hst⟩, -⟩, hreading⟩, -⟩, hroom⟩, -⟩ := h
  exact ⟨hruns, hst, hreading, fun hk => hroom.resolve_left (not_not_intro hk)⟩

theorem readLimit_pos : 32 ≤ readLimit s fn := by
  have h : 128 ≤ sizeBytes (s.func fn).readRequest := by
    unfold sizeBytes
    have := Nat.one_le_two_pow (n := (s.func fn).readRequest)
    omega
  unfold readLimit
  omega

end Turn

/-! ### One entry -/

/-- The least of some reasons with 3 among them. -/
theorem leastReason_le (l : List Nat) : (leastReason (3 :: l)).getD 3 ≤ 3 := by
  cases h : leastReason (3 :: l) with
  | none => exact Nat.le_refl 3
  | some r =>
    obtain ⟨-, -, hmin⟩ := List.find?_range_eq_some.1 h
    by_contra hr
    exact absurd (hmin 3 (by simpa using hr)) (by simp)

section Entry
variable {fn q idx : Nat} {e : Bytes} {s : State} (hst : (s.queue fn q).st = .enabled) (hpart : (s.queue fn q).partialChain = [])
include hst hpart

/-- A chain of one TX entry. -/
theorem takeEntry_alone (hkind : qKind (s.queue fn q) = kTX) (hf : eFirst e = true) (hl : eLast e = true)
    (hgood : chainBad s fn kTX [e] = none) (hidx : idx < qSize (s.queue fn q)) :
    takeEntry fn q idx e s = s.setQueue fn q { s.queue fn q with
      partialChain := []
      chains := (s.queue fn q).chains ++ [{ first := idx, entries := [e], started := false, finished := false, status := 0
                                            result := 0 }] } := by
  have hfirst : (idx + qSize (s.queue fn q) - 0) % qSize (s.queue fn q) = idx := by
    rw [Nat.sub_zero, Nat.add_mod_right, Nat.mod_eq_of_lt hidx]
  have hne : ¬((QSt.enabled = QSt.error) ∨ (QSt.enabled = QSt.disabled) ∨ (QSt.enabled = QSt.draining)) := by decide
  simp only [takeEntry, hst, hpart, hf, hl, hkind, chainChecked, hgood, List.nil_append, List.length_nil, List.length_singleton, hfirst]
  rw [if_neg hne, if_neg (by decide), if_neg (by decide), if_pos (by decide), if_neg (by decide)]

/-- An entry that continues no chain is out of order. -/
theorem takeEntry_disorder (hkind : qKind (s.queue fn q) ≠ kRX) (hf : eFirst e = false) :
    takeEntry fn q idx e s
      = malformed fn q idx ((leastReason (3 :: entryReasons s fn (qKind (s.queue fn q)) [e] 0)).getD 3) e s := by
  have hne : ¬((QSt.enabled = QSt.error) ∨ (QSt.enabled = QSt.disabled) ∨ (QSt.enabled = QSt.draining)) := by decide
  simp only [takeEntry, hst, hpart, hf, chainChecked, chainBad, List.length_nil, List.range_zero, List.findSome?_nil, List.nil_append]
  rw [if_neg hne, if_pos (by simp [hkind])]

end Entry

/-! ### Entries in ring order -/

/-- Queue `q` of function `fn` has the context `c`, fetches next at `f`, and no read of its entries is out. -/
structure FetchesAt (fn q : Nat) (c : Tab Word32) (f : Nat) (s : State) : Prop where
  wf : Tab.wf Queue.reset s.wq.queues = true
  ctx : (s.queue fn q).ctx = c
  fetched : (s.queue fn q).fetched = f
  reading : (s.queue fn q).reading = false

section Fetches
variable {fn q f : Nat} {c : Tab Word32} {s : State}

theorem FetchesAt.congr {u : State} (h : FetchesAt fn q c f s) (hu : u.wq = s.wq) : FetchesAt fn q c f u := by
  obtain ⟨hwf, hctx, hfetched, hreading⟩ := h
  exact ⟨by rwa [hu], by rwa [queue_congr hu], by rwa [queue_congr hu], by rwa [queue_congr hu]⟩

theorem FetchesAt.set (h : FetchesAt fn q c f s) {x : Queue} {f' : Nat} (hctx : x.ctx = c) (hf : x.fetched = f')
    (hr : x.reading = false) : FetchesAt fn q c f' (s.setQueue fn q x) := by
  have hsame := queue_setQueue_same h.wf fn q x
  exact ⟨Tab.wf_set _ _ h.wf, by rw [hsame, hctx], by rw [hsame, hf], by rw [hsame, hr]⟩

theorem FetchesAt.queueError (h : FetchesAt fn q c f s) (status reason errIdx kind : Nat) (marks : List Bytes) :
    FetchesAt fn q c f (queueError fn q status reason errIdx kind marks s) := by
  by_cases hst : (s.queue fn q).st = .error ∨ (s.queue fn q).st = .disabled
  · rwa [queueError_over hst]
  · refine FetchesAt.congr ?_ (wq_queueError (fun x => hst (.inl x)) (fun x => hst (.inr x)))
    exact h.set h.ctx h.fetched rfl

theorem FetchesAt.malformed (h : FetchesAt fn q c f s) (idx reason : Nat) (e : Bytes) :
    FetchesAt fn q c f (malformed fn q idx reason e s) :=
  (h.congr (wq_countFor ..)).queueError ..

theorem FetchesAt.chainChecked (h : FetchesAt fn q c f s) (first : Nat) (chain : List Bytes) {next : State → State}
    (hnext : FetchesAt fn q c f (next s)) : FetchesAt fn q c f (chainChecked fn q first chain next s) := by
  unfold Machine.chainChecked
  dsimp only
  split
  · exact h.malformed ..
  · exact hnext

theorem FetchesAt.ite {a b : State} {p : Prop} [Decidable p] (ha : FetchesAt fn q c f a) (hb : FetchesAt fn q c f b) :
    FetchesAt fn q c f (if p then a else b) := by
  split
  · exact ha
  · exact hb

theorem FetchesAt.takeEntry (h : FetchesAt fn q c f s) (idx : Nat) (e : Bytes) : FetchesAt fn q c f (takeEntry fn q idx e s) := by
  have hset (p : List Bytes) (l : List Chain) :
      FetchesAt fn q c f (s.setQueue fn q { s.queue fn q with partialChain := p, chains := l }) := h.set h.ctx h.fetched h.reading
  unfold Machine.takeEntry
  dsimp only
  refine .ite h (.ite (h.chainChecked _ _ (h.malformed ..)) (.ite (h.chainChecked _ _ (h.malformed ..))
    (.ite (h.chainChecked _ _ (.ite ?_ (hset ..))) (hset _ (s.queue fn q).chains))))
  exact (hset ..).congr ((Frame.commandComes (l := [.jrn]) (.of_all (by decide)) (.refl _ _) _ _).wq (by decide))

theorem qSize_congr {x y : Queue} (h : x.ctx = y.ctx) : qSize x = qSize y := by
  unfold qSize qSizeLog qWord
  rw [h]

theorem qSize_pos (x : Queue) : 0 < qSize x := by
  have := Nat.one_le_two_pow (n := qSizeLog x)
  unfold qSize
  omega

theorem FetchesAt.takeEntries {x : Queue} (hx : x.ctx = c) (l : List Bytes) (h : FetchesAt fn q c f s) (hf : f < qSize x) :
    FetchesAt fn q c ((f + l.length) % qSize x) (takeEntries fn q l s) := by
  induction l generalizing f s with
  | nil => rwa [List.length_nil, Nat.add_zero, Nat.mod_eq_of_lt hf]
  | cons e l ih =>
    have hsize : qSize (s.queue fn q) = qSize x := qSize_congr (h.ctx.trans hx.symm)
    have hnext : FetchesAt fn q c ((f + 1) % qSize x) (s.setQueue fn q { s.queue fn q with
        fetched := ((s.queue fn q).fetched + 1) % qSize (s.queue fn q) }) := by
      refine h.set h.ctx ?_ h.reading
      rw [h.fetched, hsize]
    have hall := ih (hnext.takeEntry (s.queue fn q).fetched e) (Nat.mod_lt _ (qSize_pos x))
    rwa [Nat.mod_add_mod, Nat.add_assoc, Nat.add_comm 1] at hall

theorem FetchesAt.journalWaits (h : FetchesAt fn q c f s) : FetchesAt fn q c f (journalWaits fn q s) := by
  unfold Machine.journalWaits
  dsimp only
  split
  · exact h.set h.ctx h.fetched h.reading
  · exact h

theorem FetchesAt.entriesBack {x : Queue} (hx : x.ctx = c) (h : FetchesAt fn q c f s) (hf : f < qSize x) (n : Nat) (b : Bytes) :
    FetchesAt fn q c ((f + n) % qSize x) (entriesBack fn q n b s) := by
  have hall := h.takeEntries hx ((List.range n).map (fun i => slice b (32 * i) 32)) hf
  rw [List.length_map, List.length_range] at hall
  exact hall.journalWaits

end Fetches

/-! ### One entry that comes back -/

section Back
variable {fn q : Nat} {e : Bytes} {s : State}

/-- The queue fetches one entry further. -/
def fetchedOne (x : Queue) : Queue := { x with fetched := (x.fetched + 1) % qSize x }

theorem entriesBack_one (h : e.length = 32) : entriesBack fn q 1 e s
    = journalWaits fn q (takeEntry fn q (s.queue fn q).fetched e (s.setQueue fn q (fetchedOne (s.queue fn q)))) := by
  have hslice : slice e (32 * 0) 32 = e := by
    rw [slice, Nat.mul_zero, List.drop_zero, ← h, List.take_length]
  have hlist : (List.range 1).map (fun i => slice e (32 * i) 32) = [e] := by
    rw [List.range_one, List.map_singleton, hslice]
  rw [entriesBack, hlist]
  rfl

theorem journalWaits_other (h : qKind (s.queue fn q) ≠ kJOURNAL ∨ (s.queue fn q).st ≠ .enabled) : journalWaits fn q s = s := by
  unfold journalWaits
  dsimp only
  rw [if_neg (fun x => h.elim (fun a => a x.1) (fun a => a x.2.1))]

theorem chainBad_congr {u : State} (hu : u.siphon = s.siphon) (l : List Bytes) : chainBad u fn kTX l = chainBad s fn kTX l := by
  have hout (r a n : Nat) : outside u fn r a n = outside s fn r a n := by
    simp only [outside, ddrGrants, hu]
  have hreasons (i : Nat) : entryReasons u fn kTX l i = entryReasons s fn kTX l i := by
    simp only [entryReasons, txReasons, hout, ↓reduceIte]
  simp only [chainBad, hreasons]

section Alone
variable (hwf : Tab.wf Queue.reset s.wq.queues = true) (hst : (s.queue fn q).st = .enabled)
  (hpart : (s.queue fn q).partialChain = []) (hlen : e.length = 32) (hkind : qKind (s.queue fn q) = kTX)
  (hf : eFirst e = true) (hl : eLast e = true) (hgood : chainBad s fn kTX [e] = none)
  (hidx : (s.queue fn q).fetched < qSize (s.queue fn q))

/-- The queue with a chain of one more entry. -/
def fetchedChain (e : Bytes) (x : Queue) : Queue :=
  { fetchedOne x with
    partialChain := []
    chains := x.chains ++ [{ first := x.fetched, entries := [e], started := false, finished := false, status := 0, result := 0 }] }

include hwf hst hpart hlen hkind hf hl hgood hidx

theorem entriesBack_alone : entriesBack fn q 1 e s
    = (s.setQueue fn q (fetchedOne (s.queue fn q))).setQueue fn q (fetchedChain e (s.queue fn q)) := by
  have hsame := queue_setQueue_same hwf fn q (fetchedOne (s.queue fn q))
  have hwf' : Tab.wf Queue.reset (s.setQueue fn q (fetchedOne (s.queue fn q))).wq.queues = true := Tab.wf_set _ _ hwf
  have htake := takeEntry_alone (fn := fn) (q := q) (idx := (s.queue fn q).fetched) (e := e)
    (s := s.setQueue fn q (fetchedOne (s.queue fn q))) (by rw [hsame]; exact hst) (by rw [hsame]; exact hpart)
    (by rw [hsame]; exact hkind) hf hl ((chainBad_congr (setQueue_siphon ..) _).trans hgood) (by rw [hsame]; exact hidx)
  rw [entriesBack_one hlen, htake, hsame]
  refine journalWaits_other (.inl fun h => ?_)
  rw [queue_setQueue_same hwf'] at h
  exact absurd (hkind.symm.trans h) (by decide)

/-- A chain of one TX entry that comes back is added to the queue. -/
theorem queueSet_entriesBack : QueueSet fn q (fetchedChain e (s.queue fn q)) s (entriesBack fn q 1 e s) := by
  rw [entriesBack_alone hwf hst hpart hlen hkind hf hl hgood hidx]
  exact queueSet_trans (queueSet_setQueue hwf _) (queueSet_setQueue (Tab.wf_set _ _ hwf) _)

end Alone

end Back

end Sys2Proof.Machine
end

section
/-! ENTRY_FETCH (spec 11 R384, R368, R369): entries at once, entries on a tag, and an entry out of order. -/

namespace Sys2Proof.Machine
open Sys2Proof

/-! ### At once -/

section Now
variable {fn q : Nat} {e : Bytes} {s s1 : State} (hturn : fetchTurn s = some (fn, q)) (hroom : 1 ≤ fetchable (s.queue fn q))
  (hok : readRefused s fn q [(qBase (s.queue fn q) + 32 * (s.queue fn q).fetched, 32)] = false)
  (hread : readNow (queueReq s fn q) [(qBase (s.queue fn q) + 32 * (s.queue fn q).fetched, 32)] s = some s1) (hlen : e.length = 32)
include hturn hroom hok hread hlen

theorem entryFetch_now : entryFetch fn q 1 (some [e]) s = entriesBack fn q 1 e (takeTurn fn q s1) := by
  obtain ⟨-, -, -, hjournal⟩ := fetchReady_spec (fetchTurn_ready hturn).1
  have hlimit := readLimit_pos (s := s) (fn := fn)
  have hgo : ¬(fetchTurn s ≠ some (fn, q) ∨ (1 : Nat) = 0 ∨ (32 : Nat) < 1 ∨ fetchable (s.queue fn q) < 1
      ∨ readLimit s fn < 32 * 1 ∨ (qKind (s.queue fn q) = kJOURNAL ∧ journalRoom s (s.queue fn q) < 1)) := by
    rintro (h | h | h | h | h | ⟨hk, h⟩)
    · exact h hturn
    · omega
    · omega
    · omega
    · omega
    · have := hjournal hk
      omega
  unfold entryFetch
  dsimp only
  rw [if_neg hgo, if_neg (by rw [hok]; decide), if_neg (by simp [hlen]), hread]
  simp only [List.flatten_cons, List.flatten_nil, List.append_nil]

end Now

theorem signalsOnly_of_queueSet {fn q : Nat} {x : Queue} {s u v : State} (h : QueueSet fn q x s u)
    (hv : ({ s with wq := u.wq } : State) = { v with wq := u.wq }) : SignalsOnly { v with wq := u.wq } u := by
  have hu : ({ v with wq := u.wq } : State) = u := hv.symm.trans h.1.symm
  rw [hu]
  exact ⟨rfl, rfl, rfl, rfl, rfl⟩

section RunsNow
variable {t fn q : Nat} {e : Bytes} {s s1 : State} (hcanon : Canonical s) (hturn : fetchTurn (advance t s) = some (fn, q))
  (hroom : 1 ≤ fetchable (s.queue fn q))
  (hok : readRefused (advance t s) fn q [(qBase (s.queue fn q) + 32 * (s.queue fn q).fetched, 32)] = false)
  (hread : readNow (queueReq (advance t s) fn q) [(qBase (s.queue fn q) + 32 * (s.queue fn q).fetched, 32)] (advance t s) = some s1)
  (hlen : e.length = 32) (hpart : (s.queue fn q).partialChain = [])
include hcanon hturn hroom hok hread hlen hpart

omit hpart in
theorem fetch_start : exec (.entryFetch t fn q 1 (some [e])) s = .next (entriesBack fn q 1 e (takeTurn fn q s1))
    ∧ Transmits (advance t s) s1 ∧ Tab.wf Queue.reset (takeTurn fn q s1).wq.queues = true
    ∧ (∀ g p, (takeTurn fn q s1).queue g p = s.queue g p) ∧ (s.queue fn q).st = .enabled := by
  obtain ⟨-, -, -, -, -, -, -, -, -, -, hqueues, -⟩ := hcanon
  have htr := transmits_readNow hread
  have hwq : s1.wq = s.wq := htr.wq.trans (advance_wq ..)
  refine ⟨congrArg Host.Outcome.next (entryFetch_now hturn (by rwa [queue_advance]) (by rwa [queue_advance]) (by rwa [queue_advance])
    hlen), htr, ?_, fun g p => queue_congr hwq g p, ?_⟩
  · show Tab.wf Queue.reset s1.wq.queues = true
    rw [hwq]
    exact hqueues
  · have hst := (fetchReady_spec (fetchTurn_ready hturn).1).2.1
    rwa [queue_advance] at hst

theorem runs_fetchAlone (hidx : (s.queue fn q).fetched < qSize (s.queue fn q)) (hkind : qKind (s.queue fn q) = kTX)
    (hf : eFirst e = true) (hl : eLast e = true) (hgood : chainBad (advance t s) fn kTX [e] = none) :
    Runs (.entryFetch t fn q 1 (some [e])) s (fun u => u.queue fn q = fetchedChain e (s.queue fn q)
        ∧ (∀ g p, qKey g p ≠ qKey fn q → u.queue g p = s.queue g p)
        ∧ u.wq.lastFn = fn ∧ Tab.get 1024 u.wq.turns fn = q
        ∧ SignalsOnly { s1 with wq := u.wq } u) := by
  obtain ⟨hrun, htr, hwf, hqueue, hst⟩ := fetch_start hcanon hturn hroom hok hread hlen
  have hq := (fetchTurn_ready hturn).2
  have hgood' : chainBad (takeTurn fn q s1) fn kTX [e] = none := (chainBad_congr htr.siphon [e]).trans hgood
  have hset := queueSet_entriesBack hwf (by rw [hqueue]; exact hst) (by rw [hqueue]; exact hpart) hlen (by rw [hqueue]; exact hkind)
    hf hl hgood' (by rw [hqueue]; exact hidx)
  have heq := entriesBack_alone hwf (by rw [hqueue]; exact hst) (by rw [hqueue]; exact hpart) hlen (by rw [hqueue]; exact hkind)
    hf hl hgood' (by rw [hqueue]; exact hidx)
  refine ⟨_, hrun, ?_, fun g p h => (hset.2.2 g p h).trans (hqueue g p), ?_, ?_, signalsOnly_of_queueSet hset rfl⟩
  · rw [hset.2.1, hqueue]
  · rw [heq]
    rfl
  · rw [heq]
    exact Tab.get_set_of_ne (d := 1024) s1.wq.turns fn (by omega)

theorem runs_fetchDisorder (hkind : qKind (s.queue fn q) ≠ kRX) (hf : eFirst e = false) :
    Runs (.entryFetch t fn q 1 (some [e])) s (fun u => (u.queue fn q).st = .error ∧ (u.queue fn q).status = 1
        ∧ (u.queue fn q).reason ≤ 3 ∧ (u.queue fn q).errIdx = (s.queue fn q).fetched
        ∧ counter u 0x4090 1 = satAdd64 (counter s 0x4090 1) 1) := by
  obtain ⟨hrun, htr, hwf, hqueue, hst⟩ := fetch_start hcanon hturn hroom hok hread hlen
  have hcount : counter (takeTurn fn q s1) 0x4090 1 = counter s 0x4090 1 :=
    (counter_congr (congrArg Dict.counters htr.dict) ..).trans (counter_advance t s ..)
  have hback := entriesBack_one (fn := fn) (q := q) (s := takeTurn fn q s1) hlen
  generalize takeTurn fn q s1 = y at hrun hwf hqueue hcount hback
  have hsame := queue_setQueue_same hwf fn q (fetchedOne (y.queue fn q))
  have htake := takeEntry_disorder (fn := fn) (q := q) (idx := (y.queue fn q).fetched) (e := e)
    (s := y.setQueue fn q (fetchedOne (y.queue fn q))) (by rw [hsame, hqueue]; exact hst) (by rw [hsame, hqueue]; exact hpart)
    (by rw [hsame, hqueue]; exact hkind) hf
  have hreason := leastReason_le (entryReasons (y.setQueue fn q (fetchedOne (y.queue fn q))) fn
    (qKind ((y.setQueue fn q (fetchedOne (y.queue fn q))).queue fn q)) [e] 0)
  rw [htake] at hback
  generalize (leastReason (3 :: entryReasons (y.setQueue fn q (fetchedOne (y.queue fn q))) fn
    (qKind ((y.setQueue fn q (fetchedOne (y.queue fn q))).queue fn q)) [e] 0)).getD 3 = r at hback hreason
  have hzcount : counter (countFor 0x4090 1 1 fn (y.setQueue fn q (fetchedOne (y.queue fn q)))) 0x4090 1
      = satAdd64 (counter s 0x4090 1) 1 := (counter_countQ ..).trans (congrArg (satAdd64 · 1) hcount)
  have hzq : (countFor 0x4090 1 1 fn (y.setQueue fn q (fetchedOne (y.queue fn q)))).queue fn q = fetchedOne (y.queue fn q) :=
    (queue_congr (wq_countFor ..) fn q).trans hsame
  have hzwf : Tab.wf Queue.reset (countFor 0x4090 1 1 fn (y.setQueue fn q (fetchedOne (y.queue fn q)))).wq.queues = true := by
    rw [wq_countFor]
    exact Tab.wf_set _ _ hwf
  rw [malformed] at hback
  generalize countFor 0x4090 1 1 fn (y.setQueue fn q (fetchedOne (y.queue fn q))) = z at hback hzcount hzq hzwf
  have hzst : (z.queue fn q).st = .enabled := by
    rw [hzq, hqueue]
    exact hst
  have herr := queue_queueError (status := stMALFORMED) (reason := r) (errIdx := (y.queue fn q).fetched) (kind := 1) (marks := [e])
    hzwf (by rw [hzst]; decide) (by rw [hzst]; decide)
  have hecount := counter_queueError (fn := fn) (q := q) (status := stMALFORMED) (reason := r) (errIdx := (y.queue fn q).fetched)
    (kind := 1) (marks := [e]) (s := z) (idx := 0x4090) (sub := 1) (by decide) (by decide) (by decide) (by decide)
  rw [journalWaits_other (.inr (by rw [herr]; exact QSt.noConfusion))] at hback
  refine ⟨_, hrun, ?_⟩
  dsimp only
  rw [hback, herr, hecount, hzcount]
  exact ⟨rfl, rfl, hreason, congrArg Queue.fetched (hqueue fn q), rfl⟩

end RunsNow

/-! ### On a tag -/

section Tags
variable {s : State} {r : Read}

/-- Reads that wait hold no tag. -/
theorem takeTag_waiting (hr : r.st = .waiting) (fn : Nat) :
    takeTag (modEp (fun e => { e with reads := e.reads ++ [r] }) s) fn = takeTag s fn := by
  have htag : r.tag? = none := by simp only [Read.tag?, hr]
  have hheld (p : Nat → Bool) : tagsHeld (modEp (fun e => { e with reads := e.reads ++ [r] }) s) p = tagsHeld s p := by
    simp [tagsHeld, readsOut, modEp, htag]
  have hfree : tagFree (modEp (fun e => { e with reads := e.reads ++ [r] }) s) = tagFree s := by
    funext tag
    simp [tagFree, modEp, htag]
  unfold takeTag
  rw [hheld, hheld, hfree]
  rfl

/-- A read that takes its tag goes out. -/
theorem issuePart_takes {tag : Nat} (hruns : fnRuns s r.who.fn = true) (htag : takeTag s r.who.fn = some tag) :
    issuePart r s = modEp (fun e => { e with reads := e.reads.map (fun x =>
      if x = r then { x with st := .out tag s.clock, translated := (translate s r.who r.addr).2 } else x) })
      (emitRead tag r.who r.addr r.len s) := by
  have hask := transmits_askPage r.who r.addr s
  simp only [issuePart, hruns, htag, translate_congr hask.ep_funcs hask.ep_cached, Bool.not_true, Bool.false_eq_true, ↓reduceIte]

theorem mem_out_emitRead (tag : Nat) (w : Requester) (addr len : Nat) (s : State) :
    .dmaRead w.fn tag (translate s w addr).1 len (pasidSent s w) (translate s w addr).2 (s.func w.fn).relaxed
      ∈ (emitRead tag w addr len s).out := by
  have hask := transmits_askPage w addr s
  rw [← translate_congr hask.ep_funcs hask.ep_cached, ← pasidSent_congr hask.ep_funcs, ← hask.func]
  simp [emitRead, emit]

end Tags

section RunsTags
variable {t fn q count tag addr : Nat} {s : State} (hcanon : Canonical s) (hturn : fetchTurn (advance t s) = some (fn, q))
  (h1 : 1 ≤ count) (h32 : count ≤ 32) (hroom : count ≤ fetchable (s.queue fn q))
  (hjournal : qKind (s.queue fn q) = kJOURNAL → count ≤ journalRoom (advance t s) (s.queue fn q))
  (haddr : addr = qBase (s.queue fn q) + 32 * (s.queue fn q).fetched) (hcuts : readCuts s fn [(addr, 32 * count)] = [(addr, 32 * count)])
  (hlimit : 32 * count ≤ readLimit s fn) (hok : readRefused (advance t s) fn q [(addr, 32 * count)] = false)
  (htag : takeTag s fn = some tag) (hwait : ∀ r ∈ s.ep.reads, r.st ≠ .waiting)
  (hnone : ∀ r ∈ s.ep.reads, r.isFor (queueReq s fn q) (.entries count) = false)

/-- The read of a queue's entries before it has its tag. -/
def entriesRead (w : Requester) (count addr : Nat) : Read where
  who := w
  what := .entries count
  part := 0
  addr := addr
  len := 32 * count
  translated := false
  st := .waiting
  dropped := false

theorem readLimit_advance (t : Nat) (s : State) (fn : Nat) : readLimit (advance t s) fn = readLimit s fn := by
  simp only [readLimit, func_advance]

theorem takeTag_advance (t : Nat) (s : State) (fn : Nat) : takeTag (advance t s) fn = takeTag s fn := by
  have hfree : tagFree (advance t s) = tagFree s := by
    funext tag
    simp only [tagFree, advance_ep_reads, advance_ep_quarantine]
  have hpool : tagPool (advance t s) = tagPool s := by simp only [tagPool, advance_ep_tag14, advance_ep_tag10]
  have hheld (p : Nat → Bool) : tagsHeld (advance t s) p = tagsHeld s p := by simp only [tagsHeld, readsOut, advance_ep_reads]
  unfold takeTag
  rw [hpool, hheld, hheld, hfree, advance_ep_quarantine]

include hturn h1 h32 hroom hjournal haddr hlimit hok in
theorem entryFetch_tags : entryFetch fn q count none (advance t s) = startReads (queueReq s fn q) (.entries count)
    [(addr, 32 * count)] (takeTurn fn q ((advance t s).setQueue fn q { s.queue fn q with reading := true })) := by
  have hgo : ¬(fetchTurn (advance t s) ≠ some (fn, q) ∨ count = 0 ∨ 32 < count ∨ fetchable (s.queue fn q) < count
      ∨ readLimit s fn < 32 * count ∨ (qKind (s.queue fn q) = kJOURNAL ∧ journalRoom (advance t s) (s.queue fn q) < count)) := by
    rintro (h | h | h | h | h | ⟨hk, h⟩)
    · exact h hturn
    · omega
    · omega
    · omega
    · omega
    · have := hjournal hk
      omega
  unfold entryFetch
  dsimp only
  rw [queue_advance, readLimit_advance, queueReq_advance, ← haddr, if_neg hgo, if_neg (by rw [hok]; decide)]

include hcanon hturn h1 h32 hroom hjournal haddr hcuts hlimit hok htag hwait hnone

theorem runs_fetchTags :
    Runs (.entryFetch t fn q count none) s (fun u => u.queue fn q = { s.queue fn q with reading := true }
      ∧ u.ep.reads = s.ep.reads ++ [{
          who := queueReq s fn q, what := .entries count, part := 0, addr := addr, len := 32 * count
          translated := (translate s (queueReq s fn q) addr).2, st := .out tag (advance t s).clock, dropped := false }]
      ∧ .dmaRead fn tag (translate s (queueReq s fn q) addr).1 (32 * count) (pasidSent s (queueReq s fn q))
          (translate s (queueReq s fn q) addr).2 (s.func fn).relaxed ∈ u.out) := by
  obtain ⟨-, -, -, -, -, -, -, -, -, -, hqueues, -⟩ := hcanon
  have hruns : fnRuns s fn = true := by
    have h := (fetchReady_spec (fetchTurn_ready hturn).1).1
    rwa [fnRuns_advance] at h
  have hrun := entryFetch_tags hturn h1 h32 hroom hjournal haddr hlimit hok
  have hsame : (takeTurn fn q ((advance t s).setQueue fn q { s.queue fn q with reading := true })).queue fn q
      = { s.queue fn q with reading := true } := queue_setQueue_same (s := advance t s) (by rwa [advance_wq]) fn q _
  have hep : (takeTurn fn q ((advance t s).setQueue fn q { s.queue fn q with reading := true })).ep = (advance t s).ep := rfl
  have hpol : (takeTurn fn q ((advance t s).setQueue fn q { s.queue fn q with reading := true })).polders = (advance t s).polders := rfl
  have hclock : (takeTurn fn q ((advance t s).setQueue fn q { s.queue fn q with reading := true })).clock = (advance t s).clock := rfl
  have htag' : takeTag (takeTurn fn q ((advance t s).setQueue fn q { s.queue fn q with reading := true })) fn = some tag :=
    (show _ = takeTag (advance t s) fn from rfl).trans ((takeTag_advance ..).trans htag)
  have hruns' : fnRuns (takeTurn fn q ((advance t s).setQueue fn q { s.queue fn q with reading := true })) fn = true :=
    (show _ = fnRuns (advance t s) fn from rfl).trans ((fnRuns_advance ..).trans hruns)
  have hcuts' : readCuts (takeTurn fn q ((advance t s).setQueue fn q { s.queue fn q with reading := true })) fn [(addr, 32 * count)]
      = [(addr, 32 * count)] := by
    refine Eq.trans ?_ hcuts
    have hlim : readLimit (takeTurn fn q ((advance t s).setQueue fn q { s.queue fn q with reading := true })) fn = readLimit s fn :=
      (show _ = readLimit (advance t s) fn from rfl).trans (readLimit_advance ..)
    simp only [readCuts, hlim]
  generalize takeTurn fn q ((advance t s).setQueue fn q { s.queue fn q with reading := true }) = y
    at hrun hsame hep hpol hclock htag' hruns' hcuts'
  have hreads : y.ep.reads = s.ep.reads := (congrArg Endpoint.reads hep).trans (advance_ep_reads ..)
  have hstart : startReads (queueReq s fn q) (.entries count) [(addr, 32 * count)] y
      = issuePart (entriesRead (queueReq s fn q) count addr)
        (modEp (fun e => { e with reads := e.reads ++ [entriesRead (queueReq s fn q) count addr] }) y) := by
    have hany : y.ep.reads.any (fun r => r.isFor (queueReq s fn q) (.entries count)) = false := by
      rw [hreads]
      exact List.any_eq_false.2 fun r hr => by rw [hnone r hr]; decide
    have hw : (queueReq s fn q).fn = fn := rfl
    unfold startReads
    rw [if_neg (by rw [hany]; decide), hw, hcuts']
    exact issueParts_last (l := s.ep.reads) (r := entriesRead (queueReq s fn q) count addr)
      (congrArg (· ++ [entriesRead (queueReq s fn q) count addr]) hreads) hwait rfl
  have htag'' := (takeTag_waiting (s := y) (r := entriesRead (queueReq s fn q) count addr) rfl fn).trans htag'
  have hruns'' : fnRuns (modEp (fun e => { e with reads := e.reads ++ [entriesRead (queueReq s fn q) count addr] }) y) fn = true :=
    (show _ = fnRuns y fn from rfl).trans hruns'
  have hissue := issuePart_takes (s := modEp (fun e => { e with reads := e.reads ++ [entriesRead (queueReq s fn q) count addr] }) y)
    (r := entriesRead (queueReq s fn q) count addr) hruns'' htag''
  have hfuncs : y.ep.funcs = s.ep.funcs := (congrArg Endpoint.funcs hep).trans (advance_ep_funcs ..)
  have hcached : y.ep.cached = s.ep.cached := (congrArg Endpoint.cached hep).trans (advance_ep_cached ..)
  have htrans (w : Requester) (a : Nat) : translate (modEp (fun e => { e with
      reads := e.reads ++ [entriesRead (queueReq s fn q) count addr] }) y) w a = translate s w a := translate_congr hfuncs hcached w a
  have hpasid (w : Requester) : pasidSent (modEp (fun e => { e with
      reads := e.reads ++ [entriesRead (queueReq s fn q) count addr] }) y) w = pasidSent s w := pasidSent_congr hfuncs w
  have hout := mem_out_emitRead tag (queueReq s fn q) addr (32 * count)
    (modEp (fun e => { e with reads := e.reads ++ [entriesRead (queueReq s fn q) count addr] }) y)
  rw [htrans, hpasid, show (modEp (fun e => { e with reads := e.reads ++ [entriesRead (queueReq s fn q) count addr] }) y).func
    (queueReq s fn q).fn = s.func fn from congrArg (fun x => Tab.get Func.reset x fn) hfuncs] at hout
  have htr := transmits_emitRead tag (queueReq s fn q) addr (32 * count)
    (modEp (fun e => { e with reads := e.reads ++ [entriesRead (queueReq s fn q) count addr] }) y)
  rw [htrans] at hissue
  refine ⟨_, congrArg Host.Outcome.next (hrun.trans (hstart.trans hissue)), ?_, ?_, hout⟩
  · exact (htr.queue fn q).trans hsame
  · refine (congrArg (List.map _) (htr.ep_reads.trans (congrArg (· ++ [entriesRead (queueReq s fn q) count addr]) hreads))).trans ?_
    rw [List.map_append, List.map_singleton, if_pos rfl]
    refine congrArg₂ (· ++ ·) ((List.map_congr_left fun r hr => if_neg fun h => hwait r hr ?_).trans (List.map_id' _)) ?_
    · rw [h]
      rfl
    · simp only [entriesRead]
      rw [show (modEp _ y).clock = y.clock from rfl, hclock]

end RunsTags

end Sys2Proof.Machine
end

section
/-! Chains that are done, completions that were held, and moderated interrupts (spec 11 R374, R376, R378, R382, R389). -/

namespace Sys2Proof.Machine
open Sys2Proof

/-! ### One completion is written -/

theorem moderate_off {fn q : Nat} {s : State} (h : qIrqEnable (s.queue fn q) = false) : moderate fn q s = s := by
  unfold moderate
  dsimp only
  rw [if_pos (by rw [h]; rfl)]

theorem qKey_ne {fn k q : Nat} (hk : k ≠ q) (_ : k < 1024) (_ : q < 1024) : qKey fn k ≠ qKey fn q := by
  unfold qKey
  omega

theorem ctx_advanceTail (y : Queue) : (advanceTail y).ctx = y.ctx := by
  unfold advanceTail
  split <;> rfl

theorem qIrqEnable_congr {x y : Queue} (h : x.ctx = y.ctx) : qIrqEnable x = qIrqEnable y := by
  unfold qIrqEnable qWord
  rw [h]

section Completion
variable {fn q k n : Nat} {c : Cpl} {y : Queue} {s : State} (hcq : qCq (s.queue fn q) = k) (hy : s.queue fn k = y)
include hcq hy

theorem cqSlot_eq : cqSlot s fn q = qBase y + 16 * y.tail := by
  unfold cqSlot
  dsimp only
  rw [hcq, hy]

theorem cqRoom_eq (hst : y.st = .enabled) (hfull : ringFull y = false) : cqRoom s fn q = true := by
  unfold cqRoom
  dsimp only
  rw [hcq, hy, hst, hfull]
  rfl

variable (hk : k ≠ q) (hk' : k < 1024) (hq : q < 1024) (hwf : Tab.wf Queue.reset s.wq.queues = true) (hirq : qIrqEnable y = false)

include hk hk' hq hwf hirq

/-- A completion moves its queue's coverage and the completion queue's tail, and goes out. -/
theorem writeCompletion_spec : ((writeCompletion fn q c n s).queue fn q = { s.queue fn q with
      covered := ((s.queue fn q).covered + n) % qSize (s.queue fn q) })
    ∧ (writeCompletion fn q c n s).queue fn k = advanceTail y
    ∧ Writes s fn k (qBase y + 16 * y.tail) (completionBytes (phaseBit y) c.status q c.tag c.index n c.result)
      (writeCompletion fn q c n s) := by
  have hkey := qKey_ne (fn := fn) hk hk' hq
  have hone := queueSet_setQueue (fn := fn) (q := q) hwf { s.queue fn q with
      covered := ((s.queue fn q).covered + n) % qSize (s.queue fn q) }
  have htwo := queueSet_setQueue (fn := fn) (q := k) (s := s.setQueue fn q { s.queue fn q with
      covered := ((s.queue fn q).covered + n) % qSize (s.queue fn q) }) (Tab.wf_set _ _ hwf) (advanceTail y)
  have heq : writeCompletion fn q c n s = moderate fn k (dmaWrite (queueReq s fn k) (qBase y + 16 * y.tail)
      (completionBytes (phaseBit y) c.status q c.tag c.index n c.result)
      ((s.setQueue fn q { s.queue fn q with covered := ((s.queue fn q).covered + n) % qSize (s.queue fn q) }).setQueue fn k
        (advanceTail y))) := by
    unfold writeCompletion
    dsimp only
    rw [cqSlot_eq hcq hy, hcq, hy]
  have hzk := htwo.2.1
  have hzq := (htwo.2.2 fn q hkey.symm).trans hone.2.1
  have hep : ((s.setQueue fn q { s.queue fn q with covered := ((s.queue fn q).covered + n) % qSize (s.queue fn q) }).setQueue fn k
      (advanceTail y)).ep = s.ep := rfl
  have hruns : fnRuns ((s.setQueue fn q { s.queue fn q with
      covered := ((s.queue fn q).covered + n) % qSize (s.queue fn q) }).setQueue fn k (advanceTail y)) fn = fnRuns s fn := rfl
  generalize (s.setQueue fn q { s.queue fn q with covered := ((s.queue fn q).covered + n) % qSize (s.queue fn q) }).setQueue fn k
    (advanceTail y) = z at heq hzk hzq hep hruns
  have hfuncs : z.ep.funcs = s.ep.funcs := congrArg Endpoint.funcs hep
  have hcached : z.ep.cached = s.ep.cached := congrArg Endpoint.cached hep
  generalize completionBytes (phaseBit y) c.status q c.tag c.index n c.result = data at heq ⊢
  have hout : Writes s fn k (qBase y + 16 * y.tail) data (dmaWrite (queueReq s fn k) (qBase y + 16 * y.tail) data z) := by
    intro hr p hp
    rw [← translate_congr hfuncs hcached, ← pasidSent_congr hfuncs]
    exact dmaWrite_out (w := queueReq s fn k) (hruns.trans hr) (by rwa [writeLimit_congr hfuncs])
  have htr := transmits_dmaWrite (queueReq s fn k) (qBase y + 16 * y.tail) data z
  have hoff : qIrqEnable ((dmaWrite (queueReq s fn k) (qBase y + 16 * y.tail) data z).queue fn k) = false := by
    rw [htr.queue, hzk, qIrqEnable_congr (ctx_advanceTail y)]
    exact hirq
  rw [heq, moderate_off hoff]
  exact ⟨(htr.queue fn q).trans hzq, (htr.queue fn k).trans hzk, hout⟩

end Completion

/-! ### CHAIN_DONE -/

section Done
variable {t fn q : Nat} {c : Chain} {s : State}

/-- The queue once its only chain is done: the head stands behind it. -/
def headMoved (c : Chain) (x : Queue) : Queue :=
  { x with chains := [], head := (chainLastIdx x c + 1) % qSize x, doneTag := eTag (chainLast c) }

/-- The completion of a chain that is done. -/
def chainCpl (x : Queue) (c : Chain) : Cpl where
  status := c.status
  tag := eTag (chainLast c)
  index := chainLastIdx x c
  result := c.result
  count := none

theorem drainEnd_undrained (h : (s.queue fn q).st ≠ .draining) : drainEnd fn q s = s := by
  unfold drainEnd
  dsimp only
  rw [if_neg (fun x => h x.1)]

variable (hwf : Tab.wf Queue.reset s.wq.queues = true) (hchains : (s.queue fn q).chains = [c]) (hfin : c.finished = true)
  (hne : c.entries ≠ []) (hst : (s.queue fn q).st = .enabled)
include hwf hchains hfin hne hst

theorem finishOldest_quiet (hok : c.status = 0) (hreq : eCqReq (chainLast c) = false) :
    finishOldest fn q s = s.setQueue fn q (headMoved c (s.queue fn q)) := by
  have hst' : ((s.setQueue fn q (headMoved c (s.queue fn q))).queue fn q).st ≠ .draining := by
    rw [queue_setQueue_same hwf]
    show (s.queue fn q).st ≠ .draining
    rw [hst]
    decide
  unfold finishOldest
  dsimp only
  rw [hchains]
  dsimp only
  rw [if_neg (by rw [hfin]; decide), if_neg hne, if_neg (fun h => absurd (hst.symm.trans h.1) (by decide)),
    if_neg (fun h => h.1 hok), if_neg (fun h => h.elim (fun a => a hok) (fun a => absurd (hreq.symm.trans a) (by decide)))]
  exact drainEnd_undrained hst'

omit hwf in
theorem finishOldest_due (hreq : eCqReq (chainLast c) = true) (hmirror : qMirrorOnly (s.queue fn q) = false) :
    finishOldest fn q s = drainEnd fn q (deliver fn q (chainCpl (s.queue fn q) c) (s.setQueue fn q (headMoved c (s.queue fn q)))) := by
  unfold finishOldest
  dsimp only
  rw [hchains]
  dsimp only
  rw [if_neg (by rw [hfin]; decide), if_neg hne, if_neg (fun h => absurd (hst.symm.trans h.1) (by decide)),
    if_neg (fun h => absurd (hmirror.symm.trans h.2) (by decide)), if_pos (.inr hreq)]
  rfl

end Done

theorem deliver_writes {fn q : Nat} {c : Cpl} {s : State} (hmirror : qMirrorOnly (s.queue fn q) = false)
    (hwait : (s.queue fn q).waiting = []) (hroom : cqRoom s fn q = true) (hok : cqRefused s fn q = false) :
    deliver fn q c s = writeCompletion fn q c (cplCount (s.queue fn q) c) s := by
  unfold deliver
  dsimp only
  rw [if_neg (by rw [hmirror]; decide), if_pos ⟨hwait, hroom⟩, if_neg (by rw [hok]; decide)]

section RunsDone
variable {t fn q : Nat} {c : Chain} {s : State} (hcanon : Canonical s) (hruns : fnRuns s fn = true)
  (hchains : (s.queue fn q).chains = [c]) (hfin : c.finished = true) (hne : c.entries ≠ []) (hst : (s.queue fn q).st = .enabled)

theorem chainDone_runs (hruns : fnRuns s fn = true) : exec (.chainDone t fn q) s = .next (finishOldest fn q (advance t s)) := by
  refine congrArg Host.Outcome.next (if_pos ?_)
  rwa [fnRuns_advance]

include hcanon hruns hchains hfin hne hst

theorem runs_chainQuiet (hok : c.status = 0) (hreq : eCqReq (chainLast c) = false) :
    Runs (.chainDone t fn q) s (fun u => u = (advance t s).setQueue fn q (headMoved c (s.queue fn q))) := by
  obtain ⟨-, -, -, -, -, -, -, -, -, -, hqueues, -⟩ := hcanon
  have h := finishOldest_quiet (fn := fn) (q := q) (c := c) (s := advance t s) (by rwa [advance_wq]) (by rwa [queue_advance]) hfin hne
    (by rwa [queue_advance]) hok hreq
  rw [queue_advance] at h
  exact ⟨_, chainDone_runs hruns, h⟩

theorem runs_chainDue {y : Queue} (hreq : eCqReq (chainLast c) = true) (hwait : (s.queue fn q).waiting = [])
    (hmirror : qMirrorOnly (s.queue fn q) = false) (hk : qCq (s.queue fn q) ≠ q) (hk' : qCq (s.queue fn q) < 1024) (hq : q < 1024)
    (hy : y = s.queue fn (qCq (s.queue fn q))) (hyst : y.st = .enabled) (hfull : ringFull y = false) (hirq : qIrqEnable y = false)
    (hok : cqRefused s fn q = false) :
    Runs (.chainDone t fn q) s (fun u => (u.queue fn q).chains = []
      ∧ (u.queue fn q).head = (chainLastIdx (s.queue fn q) c + 1) % qSize (s.queue fn q)
      ∧ u.queue fn (qCq (s.queue fn q)) = advanceTail y
      ∧ Writes s fn (qCq (s.queue fn q)) (qBase y + 16 * y.tail)
          (completionBytes (phaseBit y) c.status q (eTag (chainLast c)) (chainLastIdx (s.queue fn q) c)
            (coveredCount (s.queue fn q) (chainLastIdx (s.queue fn q) c)) c.result) u) := by
  obtain ⟨-, -, -, -, -, -, -, -, -, -, hqueues, -⟩ := hcanon
  have hwf : Tab.wf Queue.reset (advance t s).wq.queues = true := by rwa [advance_wq]
  have hdue := finishOldest_due (fn := fn) (q := q) (c := c) (s := advance t s) (by rwa [queue_advance]) hfin hne
    (by rwa [queue_advance]) hreq (by rwa [queue_advance])
  rw [queue_advance] at hdue
  have hset := queueSet_setQueue (fn := fn) (q := q) hwf (headMoved c (s.queue fn q))
  have hzwf : Tab.wf Queue.reset ((advance t s).setQueue fn q (headMoved c (s.queue fn q))).wq.queues = true := Tab.wf_set _ _ hwf
  have haccess : SameAccess fn (qCq (s.queue fn q)) (advance t s) ((advance t s).setQueue fn q (headMoved c (s.queue fn q))) :=
    ⟨⟨rfl, rfl, rfl⟩, congrArg Queue.ctx (hset.2.2 _ _ (qKey_ne hk hk' hq))⟩
  obtain ⟨-, hsame, hother⟩ := hset
  have hzy : ((advance t s).setQueue fn q (headMoved c (s.queue fn q))).queue fn (qCq (s.queue fn q)) = y :=
    (hother _ _ (qKey_ne hk hk' hq)).trans ((queue_advance ..).trans hy.symm)
  generalize (advance t s).setQueue fn q (headMoved c (s.queue fn q)) = z at hdue hsame hzwf haccess hzy
  have hzcq : qCq (z.queue fn q) = qCq (s.queue fn q) := by
    rw [hsame]
    rfl
  have hrefused : cqRefused z fn q = false := by
    rw [cqRefused, hzcq, requestRefused_of_access haccess, requestRefused_advance, cqSlot_eq hzcq hzy]
    rw [cqRefused, cqSlot_eq rfl hy.symm] at hok
    exact hok
  have hdel := deliver_writes (c := chainCpl (s.queue fn q) c) (by rw [hsame]; exact hmirror) (by rw [hsame]; exact hwait)
    (cqRoom_eq hzcq hzy hyst hfull) hrefused
  have hcount : cplCount (z.queue fn q) (chainCpl (s.queue fn q) c)
      = coveredCount (s.queue fn q) (chainLastIdx (s.queue fn q) c) := by
    rw [hsame]
    rfl
  obtain ⟨hwq, hwk, hw⟩ := writeCompletion_spec (c := chainCpl (s.queue fn q) c)
    (n := coveredCount (s.queue fn q) (chainLastIdx (s.queue fn q) c)) hzcq hzy hk hk' hq hzwf hirq
  rw [hcount] at hdel
  rw [hdel] at hdue
  generalize writeCompletion fn q (chainCpl (s.queue fn q) c) (coveredCount (s.queue fn q) (chainLastIdx (s.queue fn q) c)) z = w
    at hdue hwq hwk hw
  rw [drainEnd_undrained (by rw [hwq, hsame]; show (s.queue fn q).st ≠ .draining; rw [hst]; decide)] at hdue
  refine ⟨w, (chainDone_runs hruns).trans (congrArg _ hdue), ?_, ?_, hwk, ?_⟩
  · rw [hwq, hsame]
    rfl
  · rw [hwq, hsame]
    rfl
  · exact (writes_advance ..).1 (writes_of_access haccess hw)

end RunsDone

/-! ### HELD_RELEASE -/

section Held
variable {t fn q : Nat} {s : State}

theorem lowerWaits_advance (t : Nat) (s : State) (fn q : Nat) : lowerWaits (advance t s) fn q = lowerWaits s fn q := by
  simp only [lowerWaits, queue_advance]

theorem heldRelease_stays (h : fnRuns s fn = false ∨ lowerWaits s fn q = true) : heldRelease fn q s = s := by
  unfold heldRelease
  refine if_pos ?_
  obtain h | h := h
  · rw [h]
    rfl
  · rw [h, Bool.or_true]

variable (hcanon : Canonical s) (hruns : fnRuns s fn = true) (hlower : lowerWaits s fn q = false)
include hruns hlower

theorem heldRelease_resumes (hwait : (s.queue fn q).waiting = []) (hst : (s.queue fn q).st = .held)
    (hhold : (s.queue fn q).journalHold = false) : heldRelease fn q s = resumeQueue fn q s := by
  unfold heldRelease
  dsimp only
  rw [if_neg (by rw [hruns, hlower]; decide), hwait]
  simp only [List.length_nil, releaseWaiting]
  rw [if_pos ⟨hwait, hst, by rw [hhold]; rfl⟩]

theorem heldRelease_one {c : Cpl} (hwait : (s.queue fn q).waiting = [c])
    (hroom : cqRoom s fn q = true) (hok : cqRefused s fn q = false)
    (hdone : ((writeCompletion fn q c (cplCount (s.queue fn q) c)
      (s.setQueue fn q { s.queue fn q with waiting := [] })).queue fn q).st = .error) :
    heldRelease fn q s = writeCompletion fn q c (cplCount (s.queue fn q) c) (s.setQueue fn q { s.queue fn q with waiting := [] }) := by
  have hone : releaseWaiting fn q 1 s
      = writeCompletion fn q c (cplCount (s.queue fn q) c) (s.setQueue fn q { s.queue fn q with waiting := [] }) := by
    simp only [releaseWaiting, hwait, hroom, hok, Bool.not_true, Bool.false_eq_true, ↓reduceIte]
  unfold heldRelease
  dsimp only
  rw [if_neg (by rw [hruns, hlower]; decide), hwait, List.length_singleton, hone]
  rw [if_neg (fun h => absurd (hdone.symm.trans h.2.1) (by decide))]
  exact drainEnd_undrained (by rw [hdone]; decide)

include hcanon

theorem runs_heldResumes (hwait : (s.queue fn q).waiting = []) (hst : (s.queue fn q).st = .held)
    (hhold : (s.queue fn q).journalHold = false) :
    ((s.queue fn q).bell = none →
      Runs (.heldRelease t fn q) s (QueueSet fn q { s.queue fn q with st := .enabled } (advance t s)))
    ∧ (∀ i, (s.queue fn q).bell = some i → isProducer (qKind (s.queue fn q)) = true → i < qSize (s.queue fn q) →
      (i + qSize (s.queue fn q) - (s.queue fn q).tail) % qSize (s.queue fn q) ≤ qSize (s.queue fn q) - 1
        - ((s.queue fn q).tail + qSize (s.queue fn q) - (s.queue fn q).head) % qSize (s.queue fn q) →
      Runs (.heldRelease t fn q) s (QueueSet fn q { s.queue fn q with st := .enabled, bell := none, tail := i }
        (advance t s))) := by
  obtain ⟨-, -, -, -, -, -, -, -, -, -, hqueues, -⟩ := hcanon
  have hwf : Tab.wf Queue.reset (advance t s).wq.queues = true := by rwa [advance_wq]
  have hrun := heldRelease_resumes (s := advance t s) (by rwa [fnRuns_advance]) (by rwa [lowerWaits_advance])
    (by rwa [queue_advance]) (by rwa [queue_advance]) (by rwa [queue_advance])
  have hset := queueSet_setQueue (fn := fn) (q := q) hwf { s.queue fn q with st := .enabled, bell := none }
  refine ⟨fun hbell => ?_, fun i hbell hprod hi hroom => ?_⟩
  · have heq : resumeQueue fn q (advance t s) = (advance t s).setQueue fn q { s.queue fn q with st := .enabled, bell := none } := by
      simp only [resumeQueue, queue_advance, hbell]
    refine ⟨_, congrArg Host.Outcome.next (hrun.trans heq), ?_⟩
    have hrec : ({ s.queue fn q with st := .enabled, bell := none } : Queue) = { s.queue fn q with st := .enabled } := by rw [← hbell]
    rwa [hrec] at hset ⊢
  · have heq : resumeQueue fn q (advance t s)
        = ((advance t s).setQueue fn q { s.queue fn q with st := .enabled, bell := none }).setQueue fn q
          { s.queue fn q with st := .enabled, bell := none, tail := i } := by
      simp only [resumeQueue, queue_advance, hbell, hprod, ↓reduceIte]
      exact applyTail_moves hwf hi hroom
    exact ⟨_, congrArg Host.Outcome.next (hrun.trans heq), queueSet_trans hset (queueSet_setQueue (Tab.wf_set _ _ hwf) _)⟩

theorem runs_heldWrites {c : Cpl} {y : Queue} (hwait : (s.queue fn q).waiting = [c]) (hst : (s.queue fn q).st = .error)
    (hk : qCq (s.queue fn q) ≠ q) (hk' : qCq (s.queue fn q) < 1024) (hq : q < 1024) (hy : y = s.queue fn (qCq (s.queue fn q)))
    (hyst : y.st = .enabled) (hfull : ringFull y = false) (hirq : qIrqEnable y = false) (hok : cqRefused s fn q = false) :
    Runs (.heldRelease t fn q) s (fun u => (u.queue fn q).waiting = [] ∧ (u.queue fn q).st = .error
      ∧ u.queue fn (qCq (s.queue fn q)) = advanceTail y
      ∧ Writes s fn (qCq (s.queue fn q)) (qBase y + 16 * y.tail)
          (completionBytes (phaseBit y) c.status q c.tag c.index (cplCount (s.queue fn q) c) c.result) u) := by
  obtain ⟨-, -, -, -, -, -, -, -, -, -, hqueues, -⟩ := hcanon
  have hwf : Tab.wf Queue.reset (advance t s).wq.queues = true := by rwa [advance_wq]
  have hcq : qCq ((advance t s).queue fn q) = qCq (s.queue fn q) := by rw [queue_advance]
  have hys : (advance t s).queue fn (qCq (s.queue fn q)) = y := (queue_advance ..).trans hy.symm
  have hset := queueSet_setQueue (fn := fn) (q := q) hwf { s.queue fn q with waiting := [] }
  have haccess : SameAccess fn (qCq (s.queue fn q)) (advance t s) ((advance t s).setQueue fn q { s.queue fn q with waiting := [] }) :=
    ⟨⟨rfl, rfl, rfl⟩, congrArg Queue.ctx (hset.2.2 _ _ (qKey_ne hk hk' hq))⟩
  have hrefused : cqRefused (advance t s) fn q = false := by
    rw [cqRefused, hcq, requestRefused_advance, cqSlot_eq hcq hys]
    rwa [cqRefused, cqSlot_eq rfl hy.symm] at hok
  have hrun := heldRelease_one (c := c) (s := advance t s) (by rwa [fnRuns_advance]) (by rwa [lowerWaits_advance])
    (by rwa [queue_advance]) (cqRoom_eq hcq hys hyst hfull) hrefused
  rw [queue_advance] at hrun
  have hzwf : Tab.wf Queue.reset ((advance t s).setQueue fn q { s.queue fn q with waiting := [] }).wq.queues = true :=
    Tab.wf_set _ _ hwf
  obtain ⟨-, hsame, hother⟩ := hset
  have hzy : ((advance t s).setQueue fn q { s.queue fn q with waiting := [] }).queue fn (qCq (s.queue fn q)) = y :=
    (hother _ _ (qKey_ne hk hk' hq)).trans hys
  generalize (advance t s).setQueue fn q { s.queue fn q with waiting := [] } = z at hrun hsame hzwf haccess hzy
  have hzcq : qCq (z.queue fn q) = qCq (s.queue fn q) := by
    rw [hsame]
    rfl
  obtain ⟨hwq, hwk, hw⟩ := writeCompletion_spec (c := c) (n := cplCount (s.queue fn q) c) hzcq hzy hk hk' hq hzwf hirq
  have hdone : ((writeCompletion fn q c (cplCount (s.queue fn q) c) z).queue fn q).st = .error := by
    rw [hwq, hsame]
    exact hst
  refine ⟨_, congrArg Host.Outcome.next (hrun hdone), ?_, hdone, hwk, (writes_advance ..).1 (writes_of_access haccess hw)⟩
  rw [hwq, hsame]

end Held

/-! ### MOD_TIME_EXPIRY -/

section Timer
variable {t fn q : Nat} {s : State}

theorem runs_modTimer {t0 : Nat} (hcanon : Canonical s) (hat : (s.queue fn q).irqAt = some t0)
    (hdue : t0 + qModTime (s.queue fn q) * 10 ^ 9 ≤ t) :
    Runs (.modTimeExpiry t fn q) s (fun u => u.queue fn q = { s.queue fn q with irqCount := 0, irqAt := none }
      ∧ (∀ g p, qKey g p ≠ qKey fn q → u.queue g p = s.queue g p)
      ∧ ((s.func fn).msixEnable = true → msixOpen (advance t s) fn (qVector (s.queue fn q)) = true →
          .msix fn (qVector (s.queue fn q)) ∈ u.out)
      ∧ SignalsOnly { advance t s with wq := u.wq } u) := by
  obtain ⟨-, -, -, -, -, -, -, -, -, -, hqueues, -⟩ := hcanon
  have hset := queueSet_setQueue (fn := fn) (q := q) (s := advance t s) (by rwa [advance_wq])
    { s.queue fn q with irqCount := 0, irqAt := none }
  have hrun : modTimer t fn q (advance t s) = signal fn (qVector (s.queue fn q))
      ((advance t s).setQueue fn q { s.queue fn q with irqCount := 0, irqAt := none }) := by
    simp only [modTimer, queue_advance, hat]
    exact if_pos hdue
  have hsig := signals_signal fn (qVector (s.queue fn q)) ((advance t s).setQueue fn q { s.queue fn q with irqCount := 0, irqAt := none })
  refine ⟨_, congrArg Host.Outcome.next hrun, (queue_congr hsig.wq fn q).trans hset.2.1,
    fun g p h => (queue_congr hsig.wq g p).trans ((hset.2.2 g p h).trans (queue_advance ..)), fun hen hopen => ?_, ?_⟩
  · obtain ⟨l, hl⟩ := signal_out (fn := fn) (vec := qVector (s.queue fn q))
      (s := (advance t s).setQueue fn q { s.queue fn q with irqCount := 0, irqAt := none })
      ((congrArg Func.msixEnable (func_advance s t fn)).trans hen) hopen
    rw [hl]
    simp
  · rw [hsig.wq]
    exact ⟨hsig.rest, hsig.ep, hsig.mask, hsig.vector, hsig.freeze⟩

theorem modTimer_early (h : ∀ t0, (s.queue fn q).irqAt = some t0 → t < t0 + qModTime (s.queue fn q) * 10 ^ 9) :
    modTimer t fn q s = s := by
  unfold modTimer
  dsimp only
  cases hat : (s.queue fn q).irqAt with
  | none => rfl
  | some t0 => exact if_neg (Nat.not_le_of_lt (h t0 hat))

end Timer

end Sys2Proof.Machine

namespace Sys2Proof
open Machine

/-- Settles O25: the turn's read, at once or on its tag; the head and the completion of a chain that is done; held
completions, the kept doorbell, and moderated interrupts. -/
theorem queueEngine : Obligations.QueueEngine := by
  refine ⟨?_, ?_, ?_, ?_, ?_, ?_, ?_, ?_, ?_, ?_, ?_⟩
  · intro t fn q e s s1 hcanon hturn hroom hok hread hlen hpart hidx
    exact ⟨fun hkind hf hl hgood => runs_fetchAlone hcanon hturn hroom hok hread hlen hpart hidx hkind hf hl hgood,
      fun hkind hf => runs_fetchDisorder hcanon hturn hroom hok hread hlen hpart hkind hf⟩
  · intro t fn q count tag addr s hcanon hturn h1 h32 hroom hjournal haddr hcuts hlimit hok htag hwait hnone
    exact runs_fetchTags hcanon hturn h1 h32 hroom hjournal haddr hcuts hlimit hok htag hwait hnone
  · intro t fn q count l s h
    exact ⟨_, congrArg Host.Outcome.next (if_pos (.inl h)), rfl⟩
  · intro t fn q c s hcanon hruns hchains hfin hne hok hreq hst
    exact runs_chainQuiet hcanon hruns hchains hfin hne hst hok hreq
  · intro t fn q c y s hcanon hruns hchains hfin hne hreq hst hwait hmirror hk hk' hq hy hyst hfull hirq hok
    exact runs_chainDue hcanon hruns hchains hfin hne hst hreq hwait hmirror hk hk' hq hy hyst hfull hirq hok
  · intro t fn q s hruns
    have hruns' : fnRuns (advance t s) fn = false := by rwa [fnRuns_advance]
    exact ⟨⟨_, congrArg Host.Outcome.next (if_neg (by rw [hruns']; decide)), rfl⟩,
      ⟨_, congrArg Host.Outcome.next (heldRelease_stays (.inl hruns')), rfl⟩⟩
  · intro t fn q s hcanon hruns hlower hwait hst hhold
    exact runs_heldResumes hcanon hruns hlower hwait hst hhold
  · intro t fn q c y s hcanon hruns hlower hwait hst hk hk' hq hy hyst hfull hirq hok
    exact runs_heldWrites hcanon hruns hlower hwait hst hk hk' hq hy hyst hfull hirq hok
  · intro t fn q s h
    exact ⟨_, congrArg Host.Outcome.next (heldRelease_stays (.inr (by rwa [lowerWaits_advance]))), rfl⟩
  · intro t t0 fn q s hcanon hat hdue
    exact runs_modTimer hcanon hat hdue
  · intro t fn q s h
    exact ⟨_, congrArg Host.Outcome.next (modTimer_early (by rwa [queue_advance])), rfl⟩

end Sys2Proof
end

section
/-! Completions, timeouts and quarantine of DMA reads (spec 09 R307 to R311, R327): what each leaves of the reads. -/

namespace Sys2Proof.Machine
open Sys2Proof

/-! ### Reads that change alone -/

section Only
variable (rs : List Read) (iv : List (Nat × Nat × List Nat)) (s : State)

/-- The state with other reads, and other invalidations that wait for them. -/
def withReads (rs : List Read) (iv : List (Nat × Nat × List Nat)) (s : State) : State :=
  modEp (fun e => { e with reads := rs, invalidations := iv }) s

theorem fnRuns_withReads (fn : Nat) : fnRuns (withReads rs iv s) fn = fnRuns s fn := rfl
theorem requestRefused_withReads (fn q a n : Nat) : requestRefused (withReads rs iv s) fn q a n = requestRefused s fn q a n := rfl
theorem frame_withReads : Frame [.ep] s (withReads rs iv s) := Frame.modEp (.refl _ s) (fun _ _ => rfl) (fun h => absurd (by decide) h)

theorem readRefused_withReads (fn q : Nat) (segs : List (Nat × Nat)) :
    readRefused (withReads rs iv s) fn q segs = readRefused s fn q segs := by
  simp only [readRefused, requestRefused_withReads]

theorem gather_congr {u : State} (h : u.siphon = s.siphon) (segs : List (Nat × Nat)) (b : Bytes) : gather u segs b = gather s segs b := by
  induction segs generalizing b with
  | nil => rfl
  | cons p l ih => simp only [gather, ih, ddrRead, h]

end Only

section Reads
variable {tag : Nat} {s : State}

theorem readAt_none : readAt s tag = none ↔ ∀ r ∈ s.ep.reads, r.tag? ≠ some tag := by
  rw [readAt, List.find?_eq_none]
  exact forall₂_congr fun r _ => by simp

theorem readAt_some {r : Read} (h : readAt s tag = some r) : r ∈ s.ep.reads ∧ r.tag? = some tag :=
  ⟨List.mem_of_find?_eq_some h, by simpa using List.find?_some h⟩

theorem readAt_advance (t : Nat) (s : State) (tag : Nat) : readAt (advance t s) tag = readAt s tag := by
  rw [readAt, advance_ep_reads, readAt]

/-- A read as its data came back. -/
def backRead (tag : Nat) (data : Bytes) (r : Read) : Read := if r.tag? = some tag then { r with st := .back data } else r

/-- A read that delivers nothing any more, if `p` picks it. -/
def droppedRead (p : Read → Bool) (r : Read) : Read := if p r then { r with dropped := true } else r

theorem endRead_eq : ∃ iv, endRead tag s = withReads (s.ep.reads.filter (fun r => decide (r.tag? ≠ some tag))) iv s := ⟨_, rfl⟩

theorem keepRead_eq (data : Bytes) : ∃ iv, keepRead tag data s = withReads (s.ep.reads.map (backRead tag data)) iv s := ⟨_, rfl⟩

theorem dropReads_eq (p : Read → Bool) :
    dropReads p s = withReads ((s.ep.reads.filter (fun r => !p r || r.tag?.isSome)).map (droppedRead p)) s.ep.invalidations s := rfl

theorem tag_backRead (data : Bytes) (r : Read) : (backRead tag data r).tag? ≠ some tag := by
  unfold backRead
  split
  · exact fun h => absurd (show none = some tag from h) (by simp)
  · assumption

theorem isFor_backRead (data : Bytes) (r : Read) (w : Requester) (what : ReadFor) :
    (backRead tag data r).isFor w what = r.isFor w what := by
  unfold backRead
  split <;> rfl

theorem st_backRead {data : Bytes} {r : Read} (h : r.st ≠ .waiting) : (backRead tag data r).st ≠ .waiting := by
  unfold backRead
  split
  · exact ReadSt.noConfusion
  · exact h

theorem st_droppedRead (p : Read → Bool) (r : Read) : (droppedRead p r).st = r.st := by
  unfold droppedRead
  split <;> rfl

theorem tag_droppedRead (p : Read → Bool) (r : Read) : (droppedRead p r).tag? = r.tag? := by
  rw [Read.tag?, st_droppedRead, Read.tag?]

variable {p : Read → Bool}

theorem mem_dropReads {r : Read} (h : r ∈ (dropReads p s).ep.reads) : ∃ x ∈ s.ep.reads, r = droppedRead p x := by
  rw [dropReads_eq] at h
  obtain ⟨x, hx, rfl⟩ := List.mem_map.1 h
  exact ⟨x, List.mem_of_mem_filter hx, rfl⟩

/-- Dropped reads keep their tags and their places. -/
theorem dropReads_keeps {P : ReadSt → Prop} (h : ∀ r ∈ s.ep.reads, P r.st) : ∀ r ∈ (dropReads p s).ep.reads, P r.st := by
  intro r hr
  obtain ⟨x, hx, rfl⟩ := mem_dropReads hr
  rw [st_droppedRead]
  exact h x hx

theorem dropReads_tag (h : ∀ r ∈ s.ep.reads, r.tag? ≠ some tag) : ∀ r ∈ (dropReads p s).ep.reads, r.tag? ≠ some tag := by
  intro r hr
  obtain ⟨x, hx, rfl⟩ := mem_dropReads hr
  rw [tag_droppedRead]
  exact h x hx

/-- Nothing is read any more for what was dropped. -/
theorem dropReads_isFor (w : Requester) (what : ReadFor) :
    ∀ r ∈ (dropReads (fun x => x.isFor w what) s).ep.reads, r.isFor w what = false := by
  intro r hr
  obtain ⟨x, -, rfl⟩ := mem_dropReads hr
  unfold droppedRead
  split
  · simp [Read.isFor]
  · next h => exact Bool.eq_false_iff.2 h

/-- The one part that was outstanding is back. -/
theorem readsBack_keepRead {r : Read} {data : Bytes} (hr : r.tag? = some tag)
    (hone : s.ep.reads.filter (fun x => x.isFor r.who r.what) = [r]) : readsBack (keepRead tag data s) r.who r.what = some data := by
  have hfilter : (keepRead tag data s).ep.reads.filter (fun x => x.isFor r.who r.what) = [{ r with st := .back data }] := by
    obtain ⟨iv, heq⟩ := keepRead_eq (tag := tag) (s := s) data
    rw [heq]
    show (s.ep.reads.map (backRead tag data)).filter (fun x => x.isFor r.who r.what) = _
    rw [List.filter_map, show (fun x : Read => x.isFor r.who r.what) ∘ backRead tag data = fun x => x.isFor r.who r.what from
      funext fun x => isFor_backRead data x r.who r.what, hone, List.map_singleton, backRead, if_pos hr]
  rw [readsBack, hfilter]
  rfl

end Reads

/-! ### Reads that are issued -/

section Issued
variable {tag : Nat} {s : State}

theorem evt_emitRead (k : Nat) (w : Requester) (addr len : Nat) (s : State) : (emitRead k w addr len s).evt = s.evt := by
  unfold emitRead askPage
  dsimp only
  split <;> rfl

/-- Tag `tag` is in quarantine and held by no read; quarantine and events are as in `s`. -/
structure Quarantined (tag : Nat) (s u : State) : Prop where
  quarantine : u.ep.quarantine = s.ep.quarantine
  evt : u.evt = s.evt
  free : ∀ r ∈ u.ep.reads, r.tag? ≠ some tag

/-- A tag in quarantine is not taken. -/
theorem issuePart_quarantined (hq : ∃ x ∈ s.ep.quarantine, x.1 = tag) {u : State} (h : Quarantined tag s u) (r : Read) :
    Quarantined tag s (issuePart r u) := by
  obtain ⟨hquar, hevt, hfree⟩ := h
  cases hruns : fnRuns u r.who.fn with
  | false =>
    rw [issuePart, if_pos (by rw [hruns]; rfl)]
    exact ⟨hquar, hevt, hfree⟩
  | true =>
    cases htake : takeTag u r.who.fn with
    | none =>
      rw [issuePart, if_neg (by rw [hruns]; decide), htake]
      exact ⟨hquar, hevt, hfree⟩
    | some k =>
      have hne : k ≠ tag := by
        rintro rfl
        have hk : tagFree u k = true := by
          unfold takeTag at htake
          dsimp only at htake
          split at htake
          · cases htake
          · split at htake
            · cases htake
            · exact List.find?_some htake
        obtain ⟨x, hx, rfl⟩ := hq
        rw [← hquar] at hx
        unfold tagFree at hk
        rw [Bool.and_eq_true, Bool.not_eq_true', Bool.not_eq_true'] at hk
        exact absurd (List.any_eq_false.1 hk.2 x hx) (by simp)
      have htr := transmits_emitRead k r.who r.addr r.len u
      rw [issuePart_takes hruns htake]
      refine ⟨htr.ep_quarantine.trans hquar, (evt_emitRead k r.who r.addr r.len u).trans hevt, fun y hy => ?_⟩
      obtain ⟨x, hx, rfl⟩ := List.mem_map.1 hy
      rw [htr.ep_reads] at hx
      split
      · exact fun h => hne (Option.some.inj h)
      · exact hfree x hx

theorem issueParts_quarantined (hq : ∃ x ∈ s.ep.quarantine, x.1 = tag) (hfree : ∀ r ∈ s.ep.reads, r.tag? ≠ some tag) :
    Quarantined tag s (issueParts s) := by
  have hall (l : List Read) : ∀ u, Quarantined tag s u → Quarantined tag s (forEach l issuePart u) := by
    induction l with
    | nil => exact fun u h => h
    | cons r l ih => exact fun u h => ih _ (issuePart_quarantined hq h r)
  exact hall _ s ⟨rfl, rfl, hfree⟩

theorem frame_issueParts : Frame [.ep] s (issueParts s) := Frame.issueParts (.of_all (by decide)) (.refl _ s)

end Issued

/-! ### The endpoint's error status -/

section Aer
variable {fn bit : Nat} {s : State} (hwf : Tab.wf Func.reset s.ep.funcs = true)

theorem frame_aerSet (fn bit : Nat) (s : State) : Frame [.funcs] s (aerSet fn bit s) :=
  Frame.setFunc (.of_all (by decide)) (.refl _ s) ..

include hwf

theorem aerSet_sets : ((aerSet fn bit s).func fn).aer.testBit bit = true := by
  unfold aerSet
  rw [func_setFunc_same hwf, testBit_bitSet]
  simp

theorem aerAdvise_sets : ((aerAdvise fn bit s).func fn).aer.testBit bit = true
    ∧ ((aerAdvise fn bit s).func fn).aerCor.testBit 13 = true := by
  have hset := aerSet_sets (fn := fn) (bit := bit) hwf
  have hwf' : Tab.wf Func.reset (aerSet fn bit s).ep.funcs = true := Tab.wf_set _ _ hwf
  unfold aerAdvise
  dsimp only
  rw [func_setFunc_same hwf']
  refine ⟨hset, ?_⟩
  rw [testBit_bitSet]
  simp

end Aer

section AerFrame
variable (fn bit : Nat) (s : State)

theorem frame_aerAdvise : Frame [.funcs] s (aerAdvise fn bit s) :=
  Frame.setFunc (.of_all (by decide)) (frame_aerSet fn bit s) ..

theorem wq_aerAdvise : (aerAdvise fn bit s).wq = s.wq := rfl
theorem reads_aerAdvise : (aerAdvise fn bit s).ep.reads = s.ep.reads := rfl
theorem quarantine_aerAdvise : (aerAdvise fn bit s).ep.quarantine = s.ep.quarantine := rfl
theorem counter_aerAdvise (idx sub : Nat) : counter (aerAdvise fn bit s) idx sub = counter s idx sub := rfl

end AerFrame

theorem Frame.ep_reads {l : List Blk} {s u : State} (h : Frame l s u) (hb : Blk.ep ∉ l) : u.ep.reads = s.ep.reads :=
  (congrArg Endpoint.reads (Sys2Proof.Frame.ep h hb) :)
theorem Frame.ep_quarantine {l : List Blk} {s u : State} (h : Frame l s u) (hb : Blk.ep ∉ l) :
    u.ep.quarantine = s.ep.quarantine := (congrArg Endpoint.quarantine (Sys2Proof.Frame.ep h hb) :)

/-! ### A read that failed -/

/-- The work of `r` failed with a status: its queue is in ERROR, its other reads deliver nothing more. -/
structure WorkFailed (fn q status : Nat) (r : Read) (s u : State) : Prop where
  st : (u.queue fn q).st = .error
  status : (u.queue fn q).status = status
  fault : Tab.get false u.polders.faultMap fn = true
  reads : u.ep.reads = (dropReads (fun x => x.isFor r.who r.what) s).ep.reads
  funcs : u.ep.funcs = s.ep.funcs
  quarantine : u.ep.quarantine = s.ep.quarantine
  counter : ∀ k, k < 3 ∨ k = 4 → counter u 0x4002 k = counter s 0x4002 k
  stat : StatGrows s u

section Failed
variable {fn q status : Nat} {r : Read} {s : State}

theorem workFailed_queueError {y : State} {idx : Nat} {marks : List Bytes} (hwf : Tab.wf Queue.reset y.wq.queues = true)
    (h : (y.queue fn q).st ≠ .error) (h' : (y.queue fn q).st ≠ .disabled)
    (hep : y.ep = (dropReads (fun x => x.isFor r.who r.what) s).ep) (hdict : y.dict = s.dict) (hevt : y.evt = s.evt) :
    WorkFailed fn q status r s (queueError fn q status 0 idx 1 marks y) := by
  have hq := queue_queueError (status := status) (reason := 0) (errIdx := idx) (kind := 1) (marks := marks) hwf h h'
  have hframe := frame_queueError (fn := fn) (q := q) (status := status) (reason := 0) (errIdx := idx) (kind := 1) (marks := marks)
    (s := y)
  refine ⟨by rw [hq]; rfl, by rw [hq]; rfl, faultMap_queueError h h', (Frame.ep_reads hframe (by decide)).trans (by rw [hep]),
    (hframe.funcs (by decide)).trans (by rw [hep]; rfl), (Frame.ep_quarantine hframe (by decide)).trans (by rw [hep]; rfl),
    fun k hk => ?_, ?_⟩
  · have hk' : k < 256 := by omega
    rw [counter_queueError hk' (by decide) (by omega) (by omega), counter_congr (congrArg Dict.counters hdict)]
  · exact StatGrows.trans (t := y) (.of_eq (by rw [hevt]) (by rw [hevt])) (statGrows_queueError ..)

theorem readFailed_spec (hwf : Tab.wf Queue.reset s.wq.queues = true) (hdrop : r.dropped = false)
    (hwhat : ∃ n, r.what = .entries n ∨ r.what = .data n) (hfn : r.who.fn = fn) (hq : r.who.q = some q)
    (h : (s.queue fn q).st ≠ .error) (h' : (s.queue fn q).st ≠ .disabled) :
    WorkFailed fn q status r s (readFailed r status s) := by
  subst hfn
  obtain ⟨n, hn | hn⟩ := hwhat
  · have hset := queue_setQueue_same (s := dropReads (fun x => x.isFor r.who r.what) s) hwf r.who.fn q
      { (dropReads (fun x => x.isFor r.who r.what) s).queue r.who.fn q with reading := false }
    have heq : readFailed r status s = queueError r.who.fn q status 0
        (((dropReads (fun x => x.isFor r.who r.what) s).setQueue r.who.fn q
          { (dropReads (fun x => x.isFor r.who r.what) s).queue r.who.fn q with reading := false }).queue r.who.fn q).fetched 1 []
        ((dropReads (fun x => x.isFor r.who r.what) s).setQueue r.who.fn q
          { (dropReads (fun x => x.isFor r.who r.what) s).queue r.who.fn q with reading := false }) := by
      simp only [readFailed, hdrop, hn, hq, Bool.false_eq_true, ↓reduceIte]
    rw [heq]
    exact workFailed_queueError (Tab.wf_set _ _ hwf) (by rw [hset]; exact h) (by rw [hset]; exact h') rfl rfl rfl
  · have heq : ∃ marks, readFailed r status s
        = queueError r.who.fn q status 0 n 1 marks (dropReads (fun x => x.isFor r.who r.what) s) := by
      refine ⟨(((chainAt ((dropReads (fun x => x.isFor r.who r.what) s).queue r.who.fn q) n).map
        (fun c => c.entries.take 1)).getD []), ?_⟩
      simp only [readFailed, hdrop, hn, hq, Bool.false_eq_true, ↓reduceIte]
    obtain ⟨marks, heq⟩ := heq
    rw [heq]
    exact workFailed_queueError hwf h h' rfl rfl rfl

theorem readFailed_dropped (h : r.dropped = true) : readFailed r status s = s := by
  unfold readFailed
  rw [if_pos h]

end Failed

end Sys2Proof.Machine
end

section
/-! COMPLETION_RECEIVE, COMPLETION_TIMEOUT and TAG_QUARANTINE_END (spec 09 R307 to R311, R327). -/

namespace Sys2Proof.Machine
open Sys2Proof

/-! ### A completion by its status -/

section Receive
variable {t tag : Nat} {data : Bytes} {s : State} {r : Read} (hlink : s.ep.link = 2) (hr : readAt s tag = some r)

theorem completionReceive_none (hlink : s.ep.link = 2) (hr : readAt s tag = none) (st : CplStatus) :
    completionReceive t tag st data s = lateCompletion tag s := by
  unfold completionReceive
  rw [if_neg (not_not_intro hlink), hr]

include hlink hr

theorem completionReceive_ok (hdrop : r.dropped = false) (hlen : data.length = r.len) :
    completionReceive t tag .ok data s = issueParts (readsDone t r (keepRead tag data s)) := by
  unfold completionReceive
  rw [if_neg (not_not_intro hlink), hr]
  dsimp only
  rw [if_neg (by rw [hdrop]; decide), if_neg (not_not_intro hlen)]

theorem completionReceive_length (hdrop : r.dropped = false) (hlen : data.length ≠ r.len) :
    completionReceive t tag .ok data s = aerSet r.who.fn 18 s := by
  unfold completionReceive
  rw [if_neg (not_not_intro hlink), hr]
  dsimp only
  rw [if_neg (by rw [hdrop]; decide), if_pos hlen]

theorem completionReceive_dropped (hdrop : r.dropped = true) {st : CplStatus} (hst : st = .ok ∨ st = .ur ∨ st = .ca) :
    completionReceive t tag st data s = issueParts (endRead tag s) := by
  unfold completionReceive
  rw [if_neg (not_not_intro hlink), hr]
  obtain rfl | rfl | rfl := hst
  · exact if_pos hdrop
  · exact congrArg issueParts (readFailed_dropped hdrop)
  · exact congrArg issueParts (readFailed_dropped hdrop)

theorem completionReceive_fails {st : CplStatus} (hst : st = .ur ∨ st = .ca) :
    completionReceive t tag st data s = issueParts (readFailed r stACCESS (endRead tag s)) := by
  unfold completionReceive
  rw [if_neg (not_not_intro hlink), hr]
  obtain rfl | rfl := hst <;> rfl

theorem completionReceive_poisoned : completionReceive t tag .poisoned data s
    = issueParts (readFailed r stACCESS (count 0x4002 4 (aerAdvise r.who.fn 12 (endRead tag s)))) := by
  unfold completionReceive
  rw [if_neg (not_not_intro hlink), hr]

theorem completionReceive_malformed : completionReceive t tag .malformed data s = aerSet r.who.fn 18 s := by
  unfold completionReceive
  rw [if_neg (not_not_intro hlink), hr]

theorem completionReceive_ecrc : completionReceive t tag .ecrc data s
    = if (s.func r.who.fn).ecrcCheck then aerSet r.who.fn 19 s else s := by
  unfold completionReceive
  rw [if_neg (not_not_intro hlink), hr]

end Receive

/-! ### Reads that end -/

section Ends
variable {tag : Nat} {s : State}

theorem endRead_free : ∀ r ∈ (endRead tag s).ep.reads, r.tag? ≠ some tag := fun _ hr =>
  of_decide_eq_true (List.mem_filter.1 hr).2

theorem endRead_waiting (h : ∀ x ∈ s.ep.reads, x.st ≠ .waiting) : ∀ x ∈ (endRead tag s).ep.reads, x.st ≠ .waiting :=
  fun x hx => h x (List.mem_filter.1 hx).1

theorem wq_endRead : (endRead tag s).wq = s.wq := rfl

/-- No read holds the tag, and none waits, once the data came back and is delivered. -/
theorem keepRead_reads {p : Read → Bool} {data : Bytes} (h : ∀ x ∈ s.ep.reads, x.st ≠ .waiting) :
    (∀ r ∈ (dropReads p (keepRead tag data s)).ep.reads, r.tag? ≠ some tag)
    ∧ ∀ r ∈ (dropReads p (keepRead tag data s)).ep.reads, r.st ≠ .waiting := by
  obtain ⟨iv, heq⟩ := keepRead_eq (tag := tag) (s := s) data
  rw [heq]
  refine ⟨dropReads_tag fun r hr => ?_, dropReads_keeps (P := fun st => st ≠ .waiting) fun r hr => ?_⟩
  · obtain ⟨x, -, rfl⟩ := List.mem_map.1 (show r ∈ s.ep.reads.map (backRead tag data) from hr)
    exact tag_backRead data x
  · obtain ⟨x, hx, rfl⟩ := List.mem_map.1 (show r ∈ s.ep.reads.map (backRead tag data) from hr)
    exact st_backRead (h x hx)

end Ends

/-! ### Entries and data that come back -/

section Back
variable {t tag fn q : Nat} {data : Bytes} {r : Read} {s : State} (hr : readAt s tag = some r)
  (hone : s.ep.reads.filter (fun x => x.isFor r.who r.what) = [r]) (hfn : r.who.fn = fn) (hq : r.who.q = some q)

/-- The state as the data of `r` is delivered: its parts are taken away. -/
def delivered (tag : Nat) (data : Bytes) (r : Read) (s : State) : State :=
  dropReads (fun x => x.isFor r.who r.what) (keepRead tag data s)

theorem delivered_eq : ∃ rs iv, delivered tag data r s = withReads rs iv s := ⟨_, _, rfl⟩

include hr hone hfn hq

theorem readsDone_entries {n : Nat} (hwhat : r.what = .entries n) : readsDone t r (keepRead tag data s)
    = entriesBack fn q n data (dmaBytesRead fn (32 * n) ((delivered tag data r s).setQueue fn q
      { s.queue fn q with reading := false })) := by
  subst hfn
  have hback := readsBack_keepRead (data := data) (readAt_some hr).2 hone
  unfold readsDone
  rw [hback, hq]
  simp only [hwhat, delivered]
  rfl

theorem readsDone_data {first : Nat} (hwhat : r.what = .data first) : readsDone t r (keepRead tag data s)
    = dataBack t fn q first data (delivered tag data r s) := by
  subst hfn
  have hback := readsBack_keepRead (data := data) (readAt_some hr).2 hone
  unfold readsDone
  rw [hback, hq]
  simp only [hwhat, delivered]

end Back

section RunsEntries
variable {t tag n q fn : Nat} {data : Bytes} {s : State} {r : Read} (hcanon : Canonical s) (hlink : s.ep.link = 2)
  (hr : readAt s tag = some r) (hdrop : r.dropped = false) (hwhat : r.what = .entries n) (hfn : r.who.fn = fn)
  (hq : r.who.q = some q) (hlen : data.length = r.len) (hone : s.ep.reads.filter (fun x => x.isFor r.who r.what) = [r])
  (hwait : ∀ x ∈ s.ep.reads, x.st ≠ .waiting) (hidx : (s.queue fn q).fetched < qSize (s.queue fn q))
include hcanon hlink hr hdrop hwhat hfn hq hlen hone hwait hidx

theorem runs_entriesBack : Runs (.completionReceive t tag .ok data) s (fun u => readAt u tag = none
      ∧ (u.queue fn q).reading = false
      ∧ (u.queue fn q).fetched = ((s.queue fn q).fetched + n) % qSize (s.queue fn q)
      ∧ (n = 1 → data.length = 32 → (s.queue fn q).st = .enabled → qKind (s.queue fn q) = kTX →
          (s.queue fn q).partialChain = [] → eFirst data = true → eLast data = true →
          chainBad (advance t s) fn kTX [data] = none →
          (u.queue fn q).chains = (s.queue fn q).chains ++ [{
            first := (s.queue fn q).fetched, entries := [data], started := false, finished := false, status := 0
            result := 0 }])
      ∧ u.ep.funcs = s.ep.funcs ∧ u.ep.quarantine = s.ep.quarantine) := by
  obtain ⟨-, -, -, -, -, -, -, -, -, -, hqueues, -⟩ := hcanon
  have hr' : readAt (advance t s) tag = some r := by rwa [readAt_advance]
  have hone' : (advance t s).ep.reads.filter (fun x => x.isFor r.who r.what) = [r] := by rwa [advance_ep_reads]
  have hrun := (completionReceive_ok (t := t) (data := data) (s := advance t s) (by rwa [advance_ep_link]) hr' hdrop hlen).trans
    (congrArg issueParts (readsDone_entries (t := t) hr' hone' hfn hq hwhat))
  obtain ⟨hfree, hnowait⟩ := keepRead_reads (tag := tag) (p := fun x => x.isFor r.who r.what) (data := data) (s := advance t s)
    (by rwa [advance_ep_reads])
  rw [queue_advance] at hrun
  obtain ⟨rs, iv, heq⟩ := delivered_eq (tag := tag) (data := data) (r := r) (s := advance t s)
  rw [show dropReads (fun x => x.isFor r.who r.what) (keepRead tag data (advance t s)) = delivered tag data r (advance t s) from rfl,
    heq] at hfree hnowait
  rw [heq] at hrun
  have hset : FetchesAt fn q (s.queue fn q).ctx (s.queue fn q).fetched
      ((withReads rs iv (advance t s)).setQueue fn q { s.queue fn q with reading := false }) := by
    have hwf : Tab.wf Queue.reset (withReads rs iv (advance t s)).wq.queues = true := by
      show Tab.wf Queue.reset (advance t s).wq.queues = true
      rwa [advance_wq]
    have hsame := queue_setQueue_same hwf fn q { s.queue fn q with reading := false }
    exact ⟨Tab.wf_set _ _ hwf, by rw [hsame], by rw [hsame], by rw [hsame]⟩
  have hqueue : ((withReads rs iv (advance t s)).setQueue fn q { s.queue fn q with reading := false }).queue fn q
      = { s.queue fn q with reading := false } :=
    queue_setQueue_same (s := withReads rs iv (advance t s)) (by
      show Tab.wf Queue.reset (advance t s).wq.queues = true
      rwa [advance_wq]) fn q _
  have hep : ((withReads rs iv (advance t s)).setQueue fn q { s.queue fn q with reading := false }).ep.funcs = s.ep.funcs
      ∧ ((withReads rs iv (advance t s)).setQueue fn q { s.queue fn q with reading := false }).ep.quarantine = s.ep.quarantine :=
    ⟨advance_ep_funcs s t, advance_ep_quarantine s t⟩
  have hreads : ((withReads rs iv (advance t s)).setQueue fn q { s.queue fn q with reading := false }).ep.reads
      = (withReads rs iv (advance t s)).ep.reads := rfl
  have hsip : ((withReads rs iv (advance t s)).setQueue fn q { s.queue fn q with reading := false }).siphon
      = (advance t s).siphon := rfl
  generalize (withReads rs iv (advance t s)).setQueue fn q { s.queue fn q with reading := false } = y
    at hrun hset hqueue hep hreads hsip
  have htr := transmits_dmaBytesRead fn (32 * n) y
  generalize dmaBytesRead fn (32 * n) y = z at hrun htr
  have hzq : z.queue fn q = { s.queue fn q with reading := false } := (htr.queue fn q).trans hqueue
  have hfetch : FetchesAt fn q (s.queue fn q).ctx (((s.queue fn q).fetched + n) % qSize (s.queue fn q)) (entriesBack fn q n data z) :=
    (hset.congr htr.wq).entriesBack rfl hidx n data
  have hframe : Frame [.counters, .buf, .polders, .wq, .jrn] z (entriesBack fn q n data z) :=
    Frame.entriesBack (.of_all (by decide)) (.refl _ z) fn q n data
  have hback : n = 1 → data.length = 32 → (s.queue fn q).st = .enabled → qKind (s.queue fn q) = kTX →
      (s.queue fn q).partialChain = [] → eFirst data = true → eLast data = true → chainBad (advance t s) fn kTX [data] = none →
      ((entriesBack fn q n data z).queue fn q).chains = (s.queue fn q).chains ++ [{
        first := (s.queue fn q).fetched, entries := [data], started := false, finished := false, status := 0, result := 0 }] := by
    rintro rfl hlen hst hkind hpart hf hl hgood
    have hlast := (queueSet_entriesBack (hset.congr htr.wq).wf (by rw [hzq]; exact hst) (by rw [hzq]; exact hpart) hlen
      (by rw [hzq]; exact hkind) hf hl ((chainBad_congr (htr.siphon.trans hsip) _).trans hgood) (by rw [hzq]; exact hidx)).2.1
    rw [hlast, hzq]
    rfl
  generalize entriesBack fn q n data z = w at hrun hfetch hframe hback
  have hwreads : w.ep.reads = (withReads rs iv (advance t s)).ep.reads :=
    (Frame.ep_reads hframe (by decide)).trans (htr.ep_reads.trans hreads)
  rw [issueParts_none (by rwa [hwreads])] at hrun
  refine ⟨w, congrArg Host.Outcome.next hrun, readAt_none.2 (by rwa [hwreads]), hfetch.reading, hfetch.fetched, hback, ?_, ?_⟩
  · exact (hframe.funcs (by decide)).trans (htr.ep_funcs.trans hep.1)
  · exact (Frame.ep_quarantine hframe (by decide)).trans (htr.ep_quarantine.trans hep.2)

end RunsEntries

section RunsData
variable {t tag q fn : Nat} {data b : Bytes} {ch : Chain} {s : State} {r : Read} (hcanon : Canonical s) (hlink : s.ep.link = 2)
  (hr : readAt s tag = some r) (hdrop : r.dropped = false) (hwhat : r.what = .data ch.first) (hfn : r.who.fn = fn)
  (hq : r.who.q = some q) (hlen : data.length = r.len) (hone : s.ep.reads.filter (fun x => x.isFor r.who r.what) = [r])
  (hwait : ∀ x ∈ s.ep.reads, x.st ≠ .waiting) (hch : txChain s fn q = some ch)
  (hat : chainAt (s.queue fn q) ch.first = some ch) (h60 : 60 ≤ (ch.entries.map eLength).sum)
  (hmax : (ch.entries.map eLength).sum + 4 ≤ maxFrameSize s (txPort (ch.entries.headD [])))
  (hmode : portMode s (txPort (ch.entries.headD [])) ≠ 0)
  (hok : readRefused s fn q (ch.entries.map (fun e => (eAddr e, eLength e))) = false)
  (hgather : gather s (ch.entries.map (fun e => (eAddr e, eLength e))) data = some b)

theorem hostOp_back {first : Nat} {marks : List Bytes} {segs : List (Nat × Nat)} {go : Bytes → State → State} {d : Bytes}
    {s : State} (hok : readRefused s fn q segs = false) (hgather : gather s segs data = some d) :
    hostOp fn q first marks segs (.back data) go s = go d (dmaBytesRead fn (hostLen segs) s) := by
  simp only [hostOp, hok, hgather, Bool.false_eq_true, ↓reduceIte]

/-- A chain that is served runs on a live TX queue, and has not started. -/
theorem txChain_spec (hch : txChain s fn q = some ch) :
    qKind (s.queue fn q) = kTX ∧ ¬(ch.started = true ∨ ch.finished = true) := by
  unfold txChain at hch
  dsimp only at hch
  split at hch
  · next h =>
    refine ⟨h.1, ?_⟩
    unfold nextChain at hch
    split at hch
    · cases hch
    · next c hfind =>
      split at hch
      · cases hch
        have hopen := List.find?_some hfind
        simp only [Bool.and_eq_true, Bool.not_eq_true'] at hopen
        rw [hopen.1, hopen.2]
        decide
      · cases hch
  · cases hch

include hch hat h60 hmax hmode hok hgather in
/-- The bytes of a transmit chain are back. -/
theorem dataBack_tx (rs : List Read) (iv : List (Nat × Nat × List Nat)) :
    dataBack t fn q ch.first data (withReads rs iv (advance t s)) = txReady fn q ch b
      (dmaBytesRead fn (hostLen (ch.entries.map (fun e => (eAddr e, eLength e)))) (withReads rs iv (advance t s))) := by
  obtain ⟨hkind, hopen⟩ := txChain_spec hch
  have hqueue : (withReads rs iv (advance t s)).queue fn q = s.queue fn q := queue_advance ..
  have hch' : txChain (withReads rs iv (advance t s)) fn q = some ch :=
    (show _ = txChain (advance t s) fn q from rfl).trans ((txChain_advance ..).trans hch)
  have htx : dataBack t fn q ch.first data (withReads rs iv (advance t s))
      = txFrame fn q (.back data) (withReads rs iv (advance t s)) := by
    unfold dataBack
    dsimp only
    rw [hqueue, hat]
    dsimp only
    rw [if_neg hopen, if_pos hkind]
  rw [htx, txFrame_good hch' rfl h60 (hmax.trans_eq (maxFrameSize_advance t s _).symm)
    (fun h => hmode ((portMode_advance t _ s).symm.trans h))]
  refine hostOp_back ?_ ?_
  · rw [readRefused_withReads, readRefused_advance]
    exact hok
  · exact (gather_congr s (u := withReads rs iv (advance t s)) (advance_siphon s t) _ _).trans hgather

include hcanon hlink hr hdrop hwhat hfn hq hlen hone hwait hch hat h60 hmax hmode hok hgather

theorem runs_dataBack : Runs (.completionReceive t tag .ok data) s (fun u => readAt u tag = none
      ∧ (u.queue fn q).chains = startChain (s.queue fn q) ch.first
      ∧ (u.htx (dieOf (txPort (ch.entries.headD [])))).frames = (s.htx (dieOf (txPort (ch.entries.headD [])))).frames
        ++ [txFrameOf fn q ch b]) := by
  obtain ⟨-, -, -, -, -, -, -, -, -, -, hqueues, -⟩ := hcanon
  have hr' : readAt (advance t s) tag = some r := by rwa [readAt_advance]
  have hone' : (advance t s).ep.reads.filter (fun x => x.isFor r.who r.what) = [r] := by rwa [advance_ep_reads]
  have hrun := (completionReceive_ok (t := t) (data := data) (s := advance t s) (by rwa [advance_ep_link]) hr' hdrop hlen).trans
    (congrArg issueParts (readsDone_data (t := t) hr' hone' hfn hq hwhat))
  obtain ⟨hfree, hnowait⟩ := keepRead_reads (tag := tag) (p := fun x => x.isFor r.who r.what) (data := data) (s := advance t s)
    (by rwa [advance_ep_reads])
  obtain ⟨rs, iv, heq⟩ := delivered_eq (tag := tag) (data := data) (r := r) (s := advance t s)
  rw [show dropReads (fun x => x.isFor r.who r.what) (keepRead tag data (advance t s)) = delivered tag data r (advance t s) from rfl,
    heq] at hfree hnowait
  rw [heq, dataBack_tx hch hat h60 hmax hmode hok hgather] at hrun
  have hwq : (withReads rs iv (advance t s)).wq = s.wq := advance_wq ..
  have hsched : (withReads rs iv (advance t s)).sched = s.sched := advance_sched ..
  generalize withReads rs iv (advance t s) = y at hrun hfree hnowait hwq hsched
  have htr := transmits_dmaBytesRead fn (hostLen (ch.entries.map (fun e => (eAddr e, eLength e)))) y
  generalize dmaBytesRead fn (hostLen (ch.entries.map (fun e => (eAddr e, eLength e)))) y = z at hrun htr
  have hzwq := htr.wq.trans hwq
  have hzsched := htr.sched.trans hsched
  have hqueue := (queue_txReady (fn := fn) (q := q) (ch := ch) (b := b) (s := z) (by rwa [hzwq])).1
  have hframes := frames_txReady (fn := fn) (q := q) (ch := ch) (b := b) (s := z)
  have hframe := frame_txReady (fn := fn) (q := q) (ch := ch) (b := b) (s := z)
  generalize txReady fn q ch b z = w at hrun hqueue hframes hframe
  have hwreads : w.ep.reads = y.ep.reads := (Frame.ep_reads hframe (by decide)).trans htr.ep_reads
  rw [issueParts_none (by rwa [hwreads])] at hrun
  refine ⟨w, congrArg Host.Outcome.next hrun, readAt_none.2 (by rwa [hwreads]), ?_, ?_⟩
  · rw [hqueue, queue_congr hzwq]
  · rw [hframes, State.htx, hzsched]
    rfl

end RunsData

/-! ### Completions that fail -/

section RunsFails
variable {t tag q fn : Nat} {data : Bytes} {s : State} {r : Read} (hcanon : Canonical s) (hlink : s.ep.link = 2)
  (hr : readAt s tag = some r) (hdrop : r.dropped = false) (hwhat : ∃ n, r.what = .entries n ∨ r.what = .data n)
  (hfn : r.who.fn = fn) (hq : r.who.q = some q) (hwait : ∀ x ∈ s.ep.reads, x.st ≠ .waiting)
  (hst : (s.queue fn q).st ≠ .error) (hst' : (s.queue fn q).st ≠ .disabled)

/-- What a failed read leaves where no read waits. -/
theorem workFailed_issued {status : Nat} {y w : State} (h : WorkFailed fn q status r y w)
    (hfree : ∀ x ∈ y.ep.reads, x.tag? ≠ some tag) (hwait : ∀ x ∈ y.ep.reads, x.st ≠ .waiting) :
    issueParts w = w ∧ readAt w tag = none ∧ ∀ x ∈ w.ep.reads, x.isFor r.who r.what = false := by
  refine ⟨issueParts_none ?_, readAt_none.2 ?_, ?_⟩
  all_goals rw [h.reads]
  · exact dropReads_keeps (P := fun st => st ≠ .waiting) hwait
  · exact dropReads_tag hfree
  · exact dropReads_isFor r.who r.what

include hcanon hlink hr hdrop hwhat hfn hq hwait hst hst'

theorem runs_fails {st : CplStatus} (hbad : st = .ur ∨ st = .ca ∨ st = .poisoned) :
    Runs (.completionReceive t tag st data) s (fun u => readAt u tag = none
      ∧ (u.queue fn q).st = .error ∧ (u.queue fn q).status = 2
      ∧ (∀ x ∈ u.ep.reads, x.isFor r.who r.what = false)
      ∧ Tab.get false u.polders.faultMap fn = true
      ∧ (st = .poisoned → (u.func fn).aer.testBit 12 = true ∧ (u.func fn).aerCor.testBit 13 = true
          ∧ counter u 0x4002 4 = satAdd64 (counter s 0x4002 4) 1)
      ∧ (st ≠ .poisoned → u.ep.funcs = s.ep.funcs)) := by
  obtain ⟨-, -, -, -, -, -, -, -, ⟨hfuncs, -⟩, -, hqueues, -⟩ := hcanon
  have hr' : readAt (advance t s) tag = some r := by rwa [readAt_advance]
  have hlink' : (advance t s).ep.link = 2 := by rwa [advance_ep_link]
  have hfree := endRead_free (tag := tag) (s := advance t s)
  have hnowait := endRead_waiting (tag := tag) (s := advance t s) (by rwa [advance_ep_reads])
  have hwq : (endRead tag (advance t s)).wq = s.wq := advance_wq ..
  have hfun : (endRead tag (advance t s)).ep.funcs = s.ep.funcs := advance_ep_funcs ..
  have hcount : counter (endRead tag (advance t s)) 0x4002 4 = counter s 0x4002 4 := counter_advance ..
  by_cases hpois : st = .poisoned
  · subst hpois
    have hrun := completionReceive_poisoned (t := t) (data := data) hlink' hr'
    generalize endRead tag (advance t s) = y at hrun hfree hnowait hwq hfun hcount
    obtain ⟨hbit, hcor⟩ := aerAdvise_sets (fn := r.who.fn) (bit := 12) (s := y) (by rwa [hfun])
    have hadv : (aerAdvise r.who.fn 12 y).wq = y.wq ∧ (aerAdvise r.who.fn 12 y).ep.reads = y.ep.reads
      ∧ counter (aerAdvise r.who.fn 12 y) 0x4002 4 = counter y 0x4002 4 := ⟨rfl, rfl, rfl⟩
    generalize aerAdvise r.who.fn 12 y = v at hrun hbit hcor hadv
    obtain ⟨hvwq, hvreads, hvcount⟩ := hadv
    have hcwq : (count 0x4002 4 v).wq = s.wq := (count_wq ..).trans (hvwq.trans hwq)
    have hfail := readFailed_spec (status := stACCESS) (r := r) (s := count 0x4002 4 v) (by rwa [hcwq]) hdrop hwhat hfn hq
      (by rwa [queue_congr hcwq]) (by rwa [queue_congr hcwq])
    have hcreads : (count 0x4002 4 v).ep.reads = y.ep.reads := (count_ep_reads ..).trans hvreads
    obtain ⟨hissue, hnone, hfor⟩ := workFailed_issued (tag := tag) hfail (by rwa [hcreads]) (by rwa [hcreads])
    rw [hissue] at hrun
    have hfunc : (readFailed r stACCESS (count 0x4002 4 v)).func fn = v.func fn :=
      congrArg (fun x => Tab.get Func.reset x fn) (hfail.funcs.trans (count_ep_funcs ..))
    rw [hfn] at hbit hcor
    refine ⟨_, congrArg Host.Outcome.next hrun, hnone, hfail.st, hfail.status, hfor, hfail.fault, fun _ => ⟨?_, ?_, ?_⟩,
      fun h => absurd rfl h⟩
    · rw [hfunc]
      exact hbit
    · rw [hfunc]
      exact hcor
    · rw [hfail.counter 4 (.inr rfl), count, counter_countQ, hvcount, hcount]
  · have hrun := completionReceive_fails (t := t) (data := data) hlink' hr'
      (hbad.elim .inl fun h => h.elim .inr fun h => absurd h hpois)
    generalize endRead tag (advance t s) = y at hrun hfree hnowait hwq hfun
    have hfail := readFailed_spec (status := stACCESS) (r := r) (s := y) (by rwa [hwq]) hdrop hwhat hfn hq
      (by rwa [queue_congr hwq]) (by rwa [queue_congr hwq])
    obtain ⟨hissue, hnone, hfor⟩ := workFailed_issued (tag := tag) hfail hfree hnowait
    rw [hissue] at hrun
    exact ⟨_, congrArg Host.Outcome.next hrun, hnone, hfail.st, hfail.status, hfor, hfail.fault, fun h => absurd h hpois,
      fun _ => hfail.funcs.trans hfun⟩

end RunsFails

/-! ### Late completions and timeouts -/

/-- The state in which a completion nobody waits for has been reported, before it is counted. -/
def lateState (n tag : Nat) (s : State) : State :=
  aerAdvise n 16 (modEp (fun e => { e with quarantine := e.quarantine.filter (fun x => decide (x.1 ≠ tag)) }) s)

/-- The function a late completion is reported for. -/
def lateFn (tag : Nat) (s : State) : Nat :=
  ((s.ep.quarantine.find? (fun x => decide (x.1 = tag))).map (·.2.1)).getD 0

theorem lateCompletion_eq (tag : Nat) (s : State) : lateCompletion tag s = count 0x4002 2 (lateState (lateFn tag s) tag s) := rfl

theorem lateState_keeps (n tag : Nat) (s : State) : (lateState n tag s).wq = s.wq ∧ (lateState n tag s).polders = s.polders
    ∧ (lateState n tag s).ep.reads = s.ep.reads ∧ counter (lateState n tag s) 0x4002 2 = counter s 0x4002 2 :=
  ⟨rfl, rfl, rfl, rfl⟩

theorem lateState_quarantine (n tag : Nat) (s : State) : ∀ x ∈ (lateState n tag s).ep.quarantine, x.1 ≠ tag := fun _ hx =>
  of_decide_eq_true (List.mem_filter.1 hx).2

theorem lateState_sets {n tag : Nat} {s : State} (hwf : Tab.wf Func.reset s.ep.funcs = true) :
    ((lateState n tag s).func n).aer.testBit 16 = true ∧ ((lateState n tag s).func n).aerCor.testBit 13 = true :=
  aerAdvise_sets (s := modEp (fun e => { e with quarantine := e.quarantine.filter (fun x => decide (x.1 ≠ tag)) }) s) hwf

theorem runs_late {t tag : Nat} {data : Bytes} {st : CplStatus} {s : State} (hcanon : Canonical s) (hlink : s.ep.link = 2)
    (hr : readAt s tag = none) : Runs (.completionReceive t tag st data) s (fun u => u.ep.reads = s.ep.reads
      ∧ (∀ x ∈ u.ep.quarantine, x.1 ≠ tag) ∧ counter u 0x4002 2 = satAdd64 (counter s 0x4002 2) 1
      ∧ (∀ x, s.ep.quarantine.find? (fun x => decide (x.1 = tag)) = some x →
          (u.func x.2.1).aer.testBit 16 = true ∧ (u.func x.2.1).aerCor.testBit 13 = true)
      ∧ u.wq = s.wq ∧ u.polders = s.polders) := by
  obtain ⟨-, -, -, -, -, -, -, -, ⟨hfuncs, -⟩, -⟩ := hcanon
  have hrun := (completionReceive_none (t := t) (data := data) (s := advance t s) (by rwa [advance_ep_link])
    ((readAt_advance t s tag).trans hr) st).trans (lateCompletion_eq ..)
  obtain ⟨hwq, hpol, hreads, hcount⟩ := lateState_keeps (lateFn tag (advance t s)) tag (advance t s)
  have hquar := lateState_quarantine (lateFn tag (advance t s)) tag (advance t s)
  obtain ⟨hbit, hcor⟩ := lateState_sets (n := lateFn tag (advance t s)) (tag := tag) (s := advance t s) (by rwa [advance_ep_funcs])
  rw [counter_advance] at hcount
  generalize lateState (lateFn tag (advance t s)) tag (advance t s) = v at hrun hwq hpol hreads hcount hquar hbit hcor
  refine ⟨_, congrArg Host.Outcome.next hrun, (count_ep_reads ..).trans (hreads.trans (advance_ep_reads ..)), ?_, ?_, fun x hx => ?_,
    (count_wq ..).trans (hwq.trans (advance_wq ..)), (count_polders ..).trans (hpol.trans (advance_polders ..))⟩
  · rw [count_ep_quarantine]
    exact hquar
  · rw [count, counter_countQ, hcount]
  · have hfunc : (count 0x4002 2 v).func x.2.1 = v.func x.2.1 := congrArg (fun y => Tab.get Func.reset y x.2.1) (count_ep_funcs ..)
    rw [lateFn, advance_ep_quarantine, hx] at hbit hcor
    rw [hfunc]
    exact ⟨hbit, hcor⟩

theorem timeoutFs_advance (t : Nat) (s : State) (fn : Nat) : timeoutFs (advance t s) fn = timeoutFs s fn := by
  simp only [timeoutFs, func_advance]

section Timeout
variable {t tag : Nat} {s : State} {r : Read} (hr : readAt s tag = some r)
include hr

theorem completionTimeout_early (h : t < r.since + timeoutFs s r.who.fn) : completionTimeout t tag s = s := by
  unfold completionTimeout
  rw [hr]
  exact if_pos h

theorem completionTimeout_due (h : r.since + timeoutFs s r.who.fn ≤ t) : completionTimeout t tag s
    = issueParts (readFailed r stTIMEOUT
      (raise 258 (count 0x4002 1 (aerSet r.who.fn 14 (quarantineTag t r.who.fn tag (endRead tag s)))))) := by
  unfold completionTimeout
  rw [hr]
  exact if_neg (Nat.not_lt_of_le h)

end Timeout

section RunsTimeout
variable {t tag q fn : Nat} {s : State} {r : Read} (hcanon : Canonical s)
  (hr : readAt s tag = some r) (hdrop : r.dropped = false) (hwhat : ∃ n, r.what = .entries n ∨ r.what = .data n)
  (hfn : r.who.fn = fn) (hq : r.who.q = some q) (hdue : r.since + timeoutFs s fn ≤ t)
  (hst : (s.queue fn q).st ≠ .error) (hst' : (s.queue fn q).st ≠ .disabled)
include hcanon hr hdrop hwhat hfn hq hdue hst hst'

theorem runs_timeout : Runs (.completionTimeout t tag) s (fun u => readAt u tag = none
      ∧ (tag, fn, t + 2 * timeoutFs s fn) ∈ u.ep.quarantine ∧ (u.func fn).aer.testBit 14 = true
      ∧ counter u 0x4002 1 = satAdd64 (counter s 0x4002 1) 1 ∧ (evtStat u 8).testBit 2 = true
      ∧ (u.queue fn q).st = .error ∧ (u.queue fn q).status = 6) := by
  obtain ⟨-, -, -, -, -, -, -, -, ⟨hfuncs, -⟩, -, hqueues, -⟩ := hcanon
  subst hfn
  have hrun := completionTimeout_due (t := t) (s := advance t s) ((readAt_advance t s tag).trans hr) (by rwa [timeoutFs_advance])
  have hfree := endRead_free (tag := tag) (s := advance t s)
  have hy : (endRead tag (advance t s)).wq = s.wq ∧ (endRead tag (advance t s)).ep.funcs = s.ep.funcs
      ∧ counter (endRead tag (advance t s)) 0x4002 1 = counter s 0x4002 1
      ∧ timeoutFs (endRead tag (advance t s)) r.who.fn = timeoutFs s r.who.fn :=
    ⟨advance_wq .., advance_ep_funcs .., counter_advance .., timeoutFs_advance ..⟩
  generalize endRead tag (advance t s) = y at hrun hfree hy
  obtain ⟨hywq, hyfuncs, hycount, hylimit⟩ := hy
  have hquar : (tag, r.who.fn, t + 2 * timeoutFs s r.who.fn) ∈ (quarantineTag t r.who.fn tag y).ep.quarantine := by
    rw [quarantineTag, countEv_ep_quarantine, ← hylimit]
    exact List.mem_append_right _ (List.mem_singleton.2 rfl)
  have hzsig := signals_countEv 0x302 1 none none none
    (modEp (fun e => { e with quarantine := e.quarantine ++ [(tag, r.who.fn, t + 2 * timeoutFs y r.who.fn)] }) y)
  have hz : (quarantineTag t r.who.fn tag y).wq = s.wq ∧ (quarantineTag t r.who.fn tag y).ep.funcs = s.ep.funcs
      ∧ (quarantineTag t r.who.fn tag y).ep.reads = y.ep.reads
      ∧ counter (quarantineTag t r.who.fn tag y) 0x4002 1 = counter s 0x4002 1 :=
    ⟨hzsig.wq.trans hywq, hzsig.ep_funcs.trans hyfuncs, hzsig.ep_reads, (hzsig.counter ..).trans hycount⟩
  generalize quarantineTag t r.who.fn tag y = z at hrun hquar hz
  obtain ⟨hzwq, hzfuncs, hzreads, hzcount⟩ := hz
  have hbit := aerSet_sets (fn := r.who.fn) (bit := 14) (s := z) (by rwa [hzfuncs])
  have hv : (aerSet r.who.fn 14 z).wq = s.wq ∧ (aerSet r.who.fn 14 z).ep.reads = y.ep.reads
      ∧ (aerSet r.who.fn 14 z).ep.quarantine = z.ep.quarantine
      ∧ counter (aerSet r.who.fn 14 z) 0x4002 1 = counter s 0x4002 1 := ⟨hzwq, hzreads, rfl, hzcount⟩
  generalize aerSet r.who.fn 14 z = v at hrun hbit hv
  obtain ⟨hvwq, hvreads, hvquar, hvcount⟩ := hv
  have hw : (raise 258 (count 0x4002 1 v)).wq = s.wq ∧ (raise 258 (count 0x4002 1 v)).ep.reads = y.ep.reads
      ∧ (raise 258 (count 0x4002 1 v)).ep.quarantine = z.ep.quarantine
      ∧ (raise 258 (count 0x4002 1 v)).ep.funcs = v.ep.funcs
      ∧ counter (raise 258 (count 0x4002 1 v)) 0x4002 1 = satAdd64 (counter s 0x4002 1) 1 := by
    refine ⟨?_, ?_, ?_, ?_, ?_⟩
    · rw [raise_wq, count_wq, hvwq]
    · rw [raise_ep_reads, count_ep_reads, hvreads]
    · rw [raise_ep_quarantine, count_ep_quarantine, hvquar]
    · rw [raise_ep_funcs, count_ep_funcs]
    · rw [(signals_raise 258 _).counter, count, counter_countQ, hvcount]
  have hevt : (evtStat (raise 258 (count 0x4002 1 v)) 8).testBit 2 = true := raise_sets (n := 258) (by decide) _
  generalize raise 258 (count 0x4002 1 v) = w at hrun hw hevt
  obtain ⟨hwwq, hwreads, hwquar, hwfuncs, hwcount⟩ := hw
  have hfail := readFailed_spec (status := stTIMEOUT) (r := r) (s := w) (by rwa [hwwq]) hdrop hwhat rfl hq
    (by rwa [queue_congr hwwq]) (by rwa [queue_congr hwwq])
  generalize readFailed r stTIMEOUT w = x at hrun hfail
  have hxquar : (tag, r.who.fn, t + 2 * timeoutFs s r.who.fn) ∈ x.ep.quarantine := by
    rw [hfail.quarantine, hwquar]
    exact hquar
  have hxfree : ∀ r ∈ x.ep.reads, r.tag? ≠ some tag := by
    rw [hfail.reads]
    exact dropReads_tag (by rwa [hwreads])
  have hissued := issueParts_quarantined ⟨_, hxquar, rfl⟩ hxfree
  have hframe := frame_issueParts (s := x)
  generalize issueParts x = u at hrun hissued hframe
  have huq : u.queue r.who.fn q = x.queue r.who.fn q := queue_congr (hframe.wq (by decide)) ..
  refine ⟨u, congrArg Host.Outcome.next hrun, readAt_none.2 hissued.free, by rw [hissued.quarantine]; exact hxquar, ?_, ?_, ?_, ?_, ?_⟩
  · have hfunc : u.func r.who.fn = v.func r.who.fn :=
      congrArg (fun a => Tab.get Func.reset a r.who.fn) ((hframe.funcs (by decide)).trans (hfail.funcs.trans hwfuncs))
    rw [hfunc]
    exact hbit
  · rw [counter_congr (hframe.counters (by decide)), hfail.counter 1 (.inl (by decide)), hwcount]
  · rw [evtStat_eq hissued.evt]
    exact hfail.stat.bits 8 2 hevt
  · rw [huq]
    exact hfail.st
  · rw [huq]
    exact hfail.status

end RunsTimeout

end Sys2Proof.Machine

namespace Sys2Proof
open Machine

/-- Settles O21: each completion status by what it leaves of the reads and of their queue; a timeout quarantines its tag,
which no read that is issued then takes. -/
theorem readCompletions : Obligations.ReadCompletions := by
  refine ⟨?_, ?_, ?_, ?_, ?_, ?_, ?_, ?_, ?_⟩
  · intro t tag n q fn data s r hcanon hlink hr hdrop hwhat hfn hq hlen hone hwait _ hidx
    exact runs_entriesBack hcanon hlink hr hdrop hwhat hfn hq hlen hone hwait hidx
  · intro t tag q fn data b ch s r hcanon hlink hr hdrop hwhat hfn hq hlen hone hwait hch hat h60 hmax hmode hok hgather
    exact runs_dataBack hcanon hlink hr hdrop hwhat hfn hq hlen hone hwait hch hat h60 hmax hmode hok hgather
  · intro t tag q fn data st s r hcanon hlink hr hdrop hwhat hfn hq hwait hbad hst hst'
    exact runs_fails hcanon hlink hr hdrop hwhat hfn hq hwait hst hst' hbad
  · intro t tag data st s r hlink hr hdrop hwait hst
    have hrun := completionReceive_dropped (t := t) (data := data) (s := advance t s) (by rwa [advance_ep_link])
      ((readAt_advance t s tag).trans hr) hdrop hst
    rw [issueParts_none (endRead_waiting (by rwa [advance_ep_reads]))] at hrun
    exact ⟨_, congrArg Host.Outcome.next hrun, readAt_none.2 endRead_free, advance_wq .., advance_polders ..⟩
  · intro t tag data s r hcanon hlink hr
    obtain ⟨-, -, -, -, -, -, -, -, ⟨hfuncs, -⟩, -⟩ := hcanon
    have hlink' : (advance t s).ep.link = 2 := by rwa [advance_ep_link]
    have hr' := (readAt_advance t s tag).trans hr
    have haer (bit : Nat) : ((aerSet r.who.fn bit (advance t s)).func r.who.fn).aer.testBit bit = true
        ∧ (aerSet r.who.fn bit (advance t s)).ep.reads = s.ep.reads ∧ (aerSet r.who.fn bit (advance t s)).wq = s.wq :=
      ⟨aerSet_sets (by rwa [advance_ep_funcs]), advance_ep_reads .., advance_wq ..⟩
    have hecrc := completionReceive_ecrc (t := t) (data := data) hlink' hr'
    rw [func_advance] at hecrc
    exact ⟨⟨_, congrArg Host.Outcome.next (completionReceive_malformed hlink' hr'), haer 18⟩,
      fun hdrop hlen => ⟨_, congrArg Host.Outcome.next (completionReceive_length hlink' hr' hdrop hlen), haer 18⟩,
      fun h => ⟨_, congrArg Host.Outcome.next (hecrc.trans (if_pos h)), haer 19⟩,
      fun h => ⟨_, congrArg Host.Outcome.next (hecrc.trans (if_neg (by rw [h]; decide))), rfl⟩⟩
  · intro t tag data st s hcanon hlink hr
    exact runs_late hcanon hlink hr
  · intro t tag q fn s r hcanon hr hdrop hwhat hfn hq hdue hst hst'
    exact runs_timeout hcanon hr hdrop hwhat hfn hq hdue hst hst'
  · intro t tag s r hr h
    exact ⟨_, congrArg Host.Outcome.next (completionTimeout_early ((readAt_advance t s tag).trans hr) (by rwa [timeoutFs_advance])), rfl⟩
  · intro t tag s
    refine ⟨_, rfl, fun x => ?_, rfl⟩
    show x ∈ (advance t s).ep.quarantine.filter (fun x => !(decide (x.1 = tag ∧ x.2.2 ≤ t))) ↔ _
    rw [advance_ep_quarantine, List.mem_filter, Bool.not_eq_true', decide_eq_false_iff_not]

end Sys2Proof
end

section
/-! A parcel that arrives: its copies are stored and join the queue of its port (spec 07 R244, R245, 08 R264). -/

namespace Sys2Proof.Machine
open Sys2Proof

/-! ### What admission looks at (spec 07 R245) -/

section Admission
variable {s u : State}

/-- From `s` to `u` the values, the cells, the owners and the polders stay. -/
structure SameCells (s u : State) : Prop where
  vals : u.dict.vals = s.dict.vals
  dies : u.buf.dies = s.buf.dies
  owners : u.buf.owners = s.buf.owners
  polders : u.polders = s.polders

theorem cfgAt_congr (h : u.dict.vals = s.dict.vals) (idx sub len i : Nat) : cfgAt u idx sub len i = cfgAt s idx sub len i := by
  unfold cfgAt
  rw [cfg_congr h]

theorem minimumOf_congr (h : SameCells s u) (die owner : Nat) : minimumOf u die owner = minimumOf s die owner := by
  have hpolder : ownerPolder u owner = ownerPolder s owner := by unfold ownerPolder; rw [h.owners]
  have hm : ∀ n, u.polder n = s.polder n := fun n => by simp only [State.polder, h.polders]
  simp only [minimumOf, cfgAt_congr h.vals, cfgN_congr h.vals, hpolder, hm]

theorem sharedFree_congr (h : SameCells s u) (die : Nat) : sharedFree u die = sharedFree s die := by
  have hdie : u.bufDie die = s.bufDie die := by simp only [State.bufDie, h.dies]
  simp only [sharedFree, minimaSum, hostMinimaSum, sharedUsed, hdie, h.owners, cfg_congr h.vals, cfgN_congr h.vals,
    minimumOf_congr h]

theorem admits_congr (h : SameCells s u) (die owner n : Nat) : admits u die owner n = admits s die owner n := by
  have hdie : u.bufDie die = s.bufDie die := by simp only [State.bufDie, h.dies]
  unfold admits occupancy
  dsimp only
  rw [hdie, minimumOf_congr h, sharedFree_congr h]

theorem sameCells_advance (t : Nat) (s : State) : SameCells s (advance t s) :=
  ⟨congrArg Dict.vals (advance_dict s t), congrArg Buffers.dies (advance_buf s t), congrArg Buffers.owners (advance_buf s t),
    advance_polders s t⟩

end Admission

/-! ### Admission and storage (spec 07 R244) -/

section Store
variable {die q owner len refs frame : Nat} {b : Bytes} {s : State}

theorem transit_lowCheck (die : Nat) (s : State) : (lowCheck die s).buf.transit = s.buf.transit := by
  unfold lowCheck
  dsimp only
  split
  · rw [raiseDie_buf]
    rfl
  · split
    · rfl
    · rfl

theorem admitFrame_admits (h : (admits s die owner (cellsOf len)).1 = true) :
    ∃ u, admitFrame die q owner len refs s = (some s.nextId, u) ∧ Frame [.id, .counters, .buf] s u
      ∧ u.buf.transit = s.buf.transit := by
  have hframe := Frame.admitFrame (.of_all (by decide)) (.refl [.id, .counters, .buf] s) die q owner len refs
  cases hadm : admits s die owner (cellsOf len) with
  | mk ok short =>
    rw [hadm] at h
    obtain rfl : ok = true := h
    unfold admitFrame at hframe ⊢
    dsimp only at hframe ⊢
    rw [hadm] at hframe ⊢
    exact ⟨_, rfl, hframe, transit_lowCheck ..⟩

/-- A frame that is admitted is stored under a new number, or with the copies of equal contents. -/
theorem storeCopies_admits (h : (admits s die owner (cellsOf (b.length + 4))).1 = true) :
    ∃ sid u, storeCopies die q owner frame b refs s = (some sid, u) ∧ Frame [.id, .counters, .buf] s u
      ∧ u.buf.transit = s.buf.transit ∧ (sharedFrame s die frame b = none → sid = s.nextId)
      ∧ ∀ k, sharedFrame s die frame b = some k → sid = k ∧ u.buf.dies = s.buf.dies := by
  have hframe := Frame.storeCopies (.of_all (by decide)) (.refl [.id, .counters, .buf] s) die q owner frame b refs
  unfold storeCopies at hframe ⊢
  cases hshare : sharedFrame s die frame b with
  | some sid =>
    rw [hshare] at hframe
    exact ⟨sid, _, rfl, hframe, rfl, fun h => (nomatch h), fun k hk => ⟨Option.some.inj hk, rfl⟩⟩
  | none =>
    rw [hshare] at hframe
    obtain ⟨u, hadm, -, htransit⟩ := admitFrame_admits (q := q) (refs := refs) h
    dsimp only at hframe ⊢
    rw [hadm] at hframe ⊢
    exact ⟨s.nextId, _, rfl, hframe, htransit, fun _ => rfl, fun k hk => nomatch hk⟩

end Store

/-! ### A frame joins a port queue (spec 08 R264) -/

section Joins
variable {t port tc sid cells : Nat} {info : Meta} {bytes : Bytes} {f g : QFrame} {p : PortSched} {s : State}

/-- The frame `g` is `f` but for the stamp of its queue. -/
def SameFrame (f g : QFrame) : Prop := { g with stamped := f.stamped, fs := f.fs, ff := f.ff } = f

theorem portQueue_setPortQueue {l : List QFrame} (hl : l ≠ []) : portQueue (setPortQueue tc l p) tc = l :=
  Tab.get_set_of_ne _ _ hl

theorem ne_reset_of_portQueue (h : portQueue p tc ≠ []) : p ≠ PortSched.reset := fun hp => h (by rw [hp]; rfl)

theorem portQueue_congr {x y : PortSched} (h : x.queues = y.queues) (tc : Nat) : portQueue x tc = portQueue y tc :=
  congrArg (fun m => Tab.get [] m tc) h

theorem sameFrame_stamped (f : QFrame) (a b : Nat) : SameFrame f { f with stamped := true, fs := a, ff := b } := rfl

/-- The stamp of a queue's only frame. -/
theorem portQueue_stampQueue (h : portQueue p tc = [f]) : ∃ g, portQueue (stampQueue s port tc p) tc = [g] ∧ SameFrame f g := by
  unfold stampQueue
  rw [h]
  generalize wfqStamp = w
  dsimp only
  split
  · exact ⟨f, h, rfl⟩
  · generalize w p.v (Tab.get 0 p.fprev tc) (p.fvalid.testBit tc) (f.len + 20) (queueWeight s port tc) = st
    refine ⟨{ f with stamped := true, fs := st.1, ff := st.2 },
      (portQueue_congr (y := setPortQueue tc [{ f with stamped := true, fs := st.1, ff := st.2 }] p) ?_ tc).trans
        (portQueue_setPortQueue (List.cons_ne_nil _ _)), sameFrame_stamped f st.1 st.2⟩
    rfl

theorem portQueue_trackPort (k : Track → Track) (h : portQueue (s.psched port) tc ≠ []) :
    portQueue ((trackPort port tc k s).psched port) tc = portQueue (s.psched port) tc := by
  unfold trackPort
  split
  · rfl
  · dsimp only
    rw [psched_setPsched_of_ne (ne_reset_of_portQueue (p := { s.psched port with track := Tab.upd Track.reset (s.psched port).track tc k })
      (tc := tc) h)]
    rfl

theorem buf_trackPort (k : Track → Track) : (trackPort port tc k s).buf = s.buf :=
  (Frame.trackPort (l := [.sched]) (.of_all (by decide)) (.refl _ s) port tc k).buf (by decide)

/-- A field frame that passes the checks of its length and is not marked joins its queue. -/
theorem enqueueCopy_joins (hsrc : info.src = .field) (hlen : bytes.length + 4 - tagGone s port info bytes ≤ maxFrameSize s port)
    (hwin : overWindow s port tc (bytes.length + 4 - tagGone s port info bytes) = false) (hthr : ecnThreshold s port tc = 0) :
    (∃ g, portQueue ((enqueueCopy t port tc sid cells info bytes s).psched port) tc = portQueue (s.psched port) tc ++ [g]
      ∧ SameFrame { sid := sid, info := info, bytes := bytes, len := bytes.length + 4 - tagGone s port info bytes
                    cells := cells, enq := t, stamped := false, fs := 0, ff := 0 } g)
    ∧ (enqueueCopy t port tc sid cells info bytes s).buf = s.buf := by
  unfold enqueueCopy
  dsimp only
  rw [if_neg (Nat.not_lt_of_le hlen), if_neg (by rw [hwin]; decide), hthr, if_neg (fun h => absurd h.1 (Nat.lt_irrefl 0)), hsrc]
  dsimp only [trackTxDepth, Option.getD_none]
  rw [buf_trackPort]
  refine ⟨?_, rfl⟩
  set f : QFrame := { sid := sid, info := info, bytes := bytes, len := bytes.length + 4 - tagGone s port info bytes
                      cells := cells, enq := t, stamped := false, fs := 0, ff := 0 } with hf
  set l := portQueue (s.psched port) tc with hl
  have hjoined : ∀ m, portQueue { setPortQueue tc (l ++ [f]) (s.psched port) with maxDepth := m } tc = l ++ [f] := fun _ =>
    portQueue_setPortQueue (List.append_ne_nil_of_right_ne_nil _ (List.cons_ne_nil _ _))
  have hkept : ∀ x, portQueue x tc ≠ [] → ∀ k, portQueue ((trackPort port tc k (s.setPsched port x)).psched port) tc = portQueue x tc :=
    fun x hx k => by
      have hback := psched_setPsched_of_ne (s := s) (p := port) (ne_reset_of_portQueue hx)
      rw [portQueue_trackPort _ (by rwa [hback]), hback]
  by_cases hempty : l = []
  · rw [if_pos hempty]
    obtain ⟨g, hg, hsame⟩ := portQueue_stampQueue (s := s) (port := port) (f := f)
      ((hjoined _).trans (by rw [hempty, List.nil_append]))
    exact ⟨g, by rw [hkept _ (by rw [hg]; exact List.cons_ne_nil _ _), hg, hempty, List.nil_append], hsame⟩
  · rw [if_neg hempty]
    exact ⟨f, by rw [hkept _ (by rw [hjoined]; exact List.append_ne_nil_of_right_ne_nil _ (List.cons_ne_nil _ _)), hjoined], rfl⟩

end Joins

end Sys2Proof.Machine
end

section
/-! FRAME_ENQUEUE and INJECTION_FRAME (spec 03 R101, 07 R244, R245, 08 R264, R265, 15 R530, 02 R70). -/

namespace Sys2Proof.Machine
open Sys2Proof

/-! ### What the way out looks at -/

section Egress
variable {s u v : State}

/-- From `s` to `u` the values, the schedulers, the streams and the tables stay. -/
structure SameEgress (s u : State) : Prop where
  vals : u.dict.vals = s.dict.vals
  sched : u.sched = s.sched
  frer : u.frer = s.frer
  tables : u.tables = s.tables

theorem SameEgress.trans (a : SameEgress s u) (b : SameEgress u v) : SameEgress s v :=
  ⟨b.vals.trans a.vals, b.sched.trans a.sched, b.frer.trans a.frer, b.tables.trans a.tables⟩

theorem sameEgress_advance (t : Nat) (s : State) : SameEgress s (advance t s) :=
  ⟨congrArg Dict.vals (advance_dict s t), advance_sched s t, advance_frer s t, advance_tables s t⟩

theorem sameEgress_of_stored (h : Frame [.id, .counters, .buf] s u) : SameEgress s u :=
  ⟨h.vals (by decide), h.sched (by decide), h.2 .frer (by decide), h.tables (by decide)⟩

theorem portRate_congr (h : u.dict.vals = s.dict.vals) (port : Nat) : portRate u port = portRate s port := by
  unfold portRate portMode
  rw [cfgN_congr h]

theorem overWindow_congr (h : SameEgress s u) (port tc len : Nat) : overWindow u port tc len = overWindow s port tc len := by
  unfold overWindow psPerByte
  rw [psched_congr h.sched, portRate_congr h.vals]

theorem tagGone_congr (h : SameEgress s u) (port : Nat) (info : Meta) (b : Bytes) : tagGone u port info b = tagGone s port info b := by
  have hstream : ∀ i, u.frerAt i = s.frerAt i := fun i => by simp only [State.frerAt, h.frer]
  unfold tagGone
  cases info.stream with
  | none => rfl
  | some i =>
    dsimp only
    rw [hstream]

theorem editCopy_congr (h : SameEgress s u) (port tc : Nat) (info : Meta) (b : Bytes) :
    editCopy u port tc info b = editCopy s port tc info b := by
  have htype : tagType u port = tagType s port := by
    unfold tagType
    rw [cfg_congr h.vals]
  have hvlan : vlanAt u info.vid = vlanAt s info.vid := by simp only [vlanAt, h.tables]
  unfold editCopy
  dsimp only
  rw [htype, hvlan]

end Egress

/-! ### A parcel with one port copy -/

section Arrives
variable {t port tc : Nat} {p : Parcel} {s : State}

theorem arrivePorts_kept {sid : Nat} {u : State} (hports : p.ports = [(port, tc, none)]) (hsrc : p.info.src = .field)
    (hred : (s.port port).redirect = false) (hup : portUp s port = true)
    (hstore : storeCopies p.dst (pipeOf port % 4) p.owner p.info.frame p.bytes 1 s = (some sid, u)) :
    arrivePorts t p s
      = enqueueCopy t port tc sid (cellsOf (p.bytes.length + 4)) p.info (editCopy s port tc p.info p.bytes) u := by
  have harrive : arriveAll p.dst p.ports s = ([.keep port tc none], s) := by
    simp only [hports, arriveAll, arriveCopy, hred, hup, Bool.false_eq_true, ↓reduceIte, Bool.not_true]
  unfold arrivePorts
  rw [harrive, hsrc]
  dsimp only [List.filterMap_cons, List.filterMap_nil, List.headD_cons, List.length_cons, List.length_nil, forEach, List.foldl]
  refine (if_neg (List.cons_ne_nil (port, tc, none) [])).trans ?_
  rw [Nat.zero_add, hstore]

theorem arrivePorts_down (hports : p.ports = [(port, tc, none)]) (hsrc : p.info.src = .field)
    (hred : (s.port port).redirect = false) (hup : portUp s port = false) : arrivePorts t p s = countPort port 0x2B 1 s := by
  have harrive : arriveAll p.dst p.ports s = ([.drop], countPort port 0x2B 1 s) := by
    simp only [hports, arriveAll, arriveCopy, hred, hup, Bool.false_eq_true, ↓reduceIte, Bool.not_false]
  unfold arrivePorts
  rw [harrive, hsrc]
  dsimp only [List.filterMap_cons, List.filterMap_nil, forEach, List.foldl]
  exact if_pos rfl

/-- The parcel has left the way. -/
def offTransit (k : Nat) (s : State) : State :=
  modBuf (fun b => { b with transit := b.transit.filter (fun q => decide (q.ticket ≠ k)) }) s

theorem sameEgress_offTransit (k : Nat) (s : State) : SameEgress s (offTransit k s) := ⟨rfl, rfl, rfl, rfl⟩

theorem frameEnqueue_arrives {k : Nat} (hnext : s.buf.transit.find? (fun p => decide (p.ticket = k) && isNext s p) = some p)
    (hports : p.ports = [(port, tc, none)]) (hhosts : p.hosts = []) :
    frameEnqueue t k .clean s = arrivePorts t p (offTransit k s) := by
  unfold frameEnqueue
  rw [hnext]
  dsimp only
  rw [hhosts, if_neg (by rw [hports]; exact List.cons_ne_nil _ _)]
  rfl

theorem frameEnqueue_waits {k : Nat} (fault : BufFault)
    (h : s.buf.transit.find? (fun p => decide (p.ticket = k) && isNext s p) = none) : frameEnqueue t k fault s = s := by
  unfold frameEnqueue
  rw [h]

theorem isNext_advance (t k : Nat) (s : State) :
    (advance t s).buf.transit.find? (fun p => decide (p.ticket = k) && isNext (advance t s) p)
      = s.buf.transit.find? (fun p => decide (p.ticket = k) && isNext s p) := by
  simp only [isNext, advance_buf]

end Arrives

section RunsArrival
variable {t k port tc len : Nat} {p : Parcel} {s : State}
  (hnext : s.buf.transit.find? (fun p => decide (p.ticket = k) && isNext s p) = some p)
  (hports : p.ports = [(port, tc, none)]) (hhosts : p.hosts = []) (hsrc : p.info.src = .field)
  (hred : (s.port port).redirect = false)
include hnext hports hhosts hsrc hred

theorem runs_enqueue (hup : portUp s port = true)
    (hlen : len = (editCopy s port tc p.info p.bytes).length + 4 - tagGone s port p.info (editCopy s port tc p.info p.bytes))
    (hmax : len ≤ maxFrameSize s port) (hwin : overWindow s port tc len = false) (hthr : ecnThreshold s port tc = 0)
    (hadm : (admits s p.dst p.owner (cellsOf (p.bytes.length + 4))).1 = true) :
    Runs (.frameEnqueue t k .clean) s (fun u =>
      u.buf.transit = s.buf.transit.filter (fun q => decide (q.ticket ≠ k))
      ∧ ∃ f, portQueue (u.psched port) tc = portQueue (s.psched port) tc ++ [f]
        ∧ f.bytes = editCopy s port tc p.info p.bytes ∧ f.enq = t ∧ f.info = p.info
        ∧ f.cells = cellsOf (p.bytes.length + 4) ∧ f.len = len
        ∧ (sharedFrame s p.dst p.info.frame p.bytes = none → f.sid = s.nextId)
        ∧ (∀ sid, sharedFrame s p.dst p.info.frame p.bytes = some sid → f.sid = sid ∧ u.buf.dies = s.buf.dies)) := by
  have hsame : SameEgress s (offTransit k (advance t s)) := (sameEgress_advance t s).trans (sameEgress_offTransit ..)
  have hcells : SameCells s (offTransit k (advance t s)) :=
    have h := sameCells_advance t s
    ⟨h.vals, h.dies, h.owners, h.polders⟩
  have hz : (offTransit k (advance t s)).buf.transit = s.buf.transit.filter (fun q => decide (q.ticket ≠ k))
      ∧ (offTransit k (advance t s)).nextId = s.nextId
      ∧ sharedFrame (offTransit k (advance t s)) p.dst p.info.frame p.bytes = sharedFrame s p.dst p.info.frame p.bytes
      ∧ (offTransit k (advance t s)).port port = s.port port := by
    refine ⟨?_, advance_nextId .., ?_, port_advance ..⟩
    · show (advance t s).buf.transit.filter _ = _
      rw [advance_buf]
    · show sharedFrame (advance t s) _ _ _ = _
      simp only [sharedFrame, advance_buf]
  have hzup : portUp (offTransit k (advance t s)) port = true := (portUp_advance t port s).trans hup
  have hrun := frameEnqueue_arrives (t := t) ((isNext_advance t k s).trans hnext) hports hhosts
  generalize offTransit k (advance t s) = z at hrun hsame hcells hz hzup
  obtain ⟨htransit, hid, hshare, hport⟩ := hz
  obtain ⟨sid, u, hstore, hframe, hkept, hnew, hold⟩ := storeCopies_admits (q := pipeOf port % 4) (frame := p.info.frame) (refs := 1)
    (s := z) (by rwa [admits_congr hcells])
  rw [arrivePorts_kept hports hsrc (by rwa [hport]) hzup hstore, editCopy_congr hsame] at hrun
  have hegress := hsame.trans (sameEgress_of_stored hframe)
  have hgone : tagGone u port p.info (editCopy s port tc p.info p.bytes) = tagGone s port p.info (editCopy s port tc p.info p.bytes) :=
    tagGone_congr hegress ..
  obtain ⟨⟨f, hqueue, hf⟩, hbuf⟩ := enqueueCopy_joins (t := t) (sid := sid) (cells := cellsOf (p.bytes.length + 4)) (s := u) hsrc
    (by rw [hgone, ← hlen]; exact hmax.trans_eq (cfgN_congr hegress.vals ..).symm)
    (by rw [hgone, ← hlen, overWindow_congr hegress]; exact hwin) ((cfgAt_congr hegress.vals ..).trans hthr)
  rw [hgone, ← hlen] at hf
  rw [psched_congr hegress.sched] at hqueue
  refine ⟨_, congrArg Host.Outcome.next hrun, ?_, f, hqueue, (congrArg QFrame.bytes hf :), (congrArg QFrame.enq hf :),
    (congrArg QFrame.info hf :), (congrArg QFrame.cells hf :), (congrArg QFrame.len hf :), fun h => ?_, fun n h => ?_⟩
  · rw [hbuf, hkept, htransit]
  · exact ((congrArg QFrame.sid hf :) : f.sid = sid).trans ((hnew (hshare.trans h)).trans hid)
  · obtain ⟨hsid, hdies⟩ := hold n (hshare.trans h)
    exact ⟨((congrArg QFrame.sid hf :) : f.sid = sid).trans hsid, by rw [hbuf, hdies, hcells.dies]⟩

theorem runs_portDown (hup : portUp s port = false) : Runs (.frameEnqueue t k .clean) s (fun u => u.sched = s.sched
      ∧ u.buf = { s.buf with transit := s.buf.transit.filter (fun q => decide (q.ticket ≠ k)) }
      ∧ counter u (0x2000 + port) 0x2B = satAdd64 (counter s (0x2000 + port) 0x2B) 1) := by
  have hrun := (frameEnqueue_arrives (t := t) ((isNext_advance t k s).trans hnext) hports hhosts).trans
    (arrivePorts_down (s := offTransit k (advance t s)) hports hsrc ((congrArg Port.redirect (port_advance ..)).trans hred)
      ((portUp_advance t port s).trans hup))
  refine ⟨_, congrArg Host.Outcome.next hrun, ?_, ?_, ?_⟩
  · exact (countQ_sched ..).trans (advance_sched ..)
  · exact (countQ_buf ..).trans
      (congrArg (fun b : Buffers => { b with transit := b.transit.filter (fun q => decide (q.ticket ≠ k)) }) (advance_buf s t))
  · refine (counter_countQ ..).trans ?_
    rw [show counter (offTransit k (advance t s)) (0x2000 + port) 0x2B = counter s (0x2000 + port) 0x2B from counter_advance ..]

end RunsArrival

/-! ### Injected frames -/

section Injection
variable {t port : Nat} {b : Bytes} {m : OutMsg} {s : State}

/-- The messages that wait after the frame `b` took the one it carries. -/
def outboxAfter (port : Nat) (b : Bytes) (s : State) : List OutMsg :=
  match s.dict.outbox.find? (fun m => decide (m.port = port)) with
  | none => s.dict.outbox
  | some m => if b.drop (b.length - m.msg.length) = m.msg then s.dict.outbox.erase m else s.dict.outbox

theorem outboxAfter_none (h : s.dict.outbox.find? (fun m => decide (m.port = port)) = none) : outboxAfter port b s = s.dict.outbox := by
  unfold outboxAfter
  rw [h]

theorem outboxAfter_some (h : s.dict.outbox.find? (fun m => decide (m.port = port)) = some m) : outboxAfter port b s
    = if b.drop (b.length - m.msg.length) = m.msg then s.dict.outbox.erase m else s.dict.outbox := by
  unfold outboxAfter
  rw [h]

theorem outboxAfter_advance (t port : Nat) (b : Bytes) (s : State) : outboxAfter port b (advance t s) = outboxAfter port b s := by
  simp only [outboxAfter, advance_dict]

theorem takeOutbox_eq (port : Nat) (b : Bytes) (s : State) :
    takeOutbox port b s = modDict (fun d => { d with outbox := outboxAfter port b s }) s := by
  unfold takeOutbox
  cases h : s.dict.outbox.find? (fun m => decide (m.port = port)) with
  | none => rw [outboxAfter_none h]; rfl
  | some m =>
    rw [outboxAfter_some h]
    dsimp only
    split
    · rfl
    · rfl

theorem outboxAfter_shorter (h : s.dict.outbox.find? (fun m => decide (m.port = port)) = some m)
    (hm : b.drop (b.length - m.msg.length) = m.msg) : (outboxAfter port b s).length < s.dict.outbox.length := by
  have hmem := List.mem_of_find?_eq_some h
  rw [outboxAfter_some h, if_pos hm, List.length_erase_of_mem hmem]
  have := List.length_pos_of_mem hmem
  omega

/-- The frame of an injection. -/
def injected (t sid : Nat) (b : Bytes) : QFrame where
  sid := sid
  info := Meta.blank
  bytes := b
  len := b.length + 4
  cells := cellsOf (b.length + 4)
  enq := t
  stamped := false
  fs := 0
  ff := 0

/-- The firmware may send: it runs, or the frame carries a message that waited. -/
def MaySend (port : Nat) (b : Bytes) (s : State) : Prop :=
  s.boot.coresUp = true ∨ (outboxAfter port b s).length < s.dict.outbox.length

theorem injectionFrame_quiet (hoff : s.boot.coresUp = false) (h : outboxAfter port b s = s.dict.outbox) :
    injectionFrame t port b s = s := by
  have htake : takeOutbox port b s = s := by rw [takeOutbox_eq, h]; rfl
  unfold injectionFrame
  rw [htake]
  simp [hoff]

section Served
variable (hsends : MaySend port b s) (hfield : s.boot.fieldUp = true) (hexists : portExists s port = true)
include hsends hfield hexists

theorem injection_serves : ¬((!(takeOutbox port b s).boot.coresUp
      && !decide ((takeOutbox port b s).dict.outbox.length < s.dict.outbox.length)
    || !(takeOutbox port b s).boot.fieldUp || !portExists (takeOutbox port b s) port) = true) := by
  have hport : portExists (takeOutbox port b s) port = true := by
    rw [takeOutbox_eq]
    exact hexists
  rw [hport, takeOutbox_eq]
  show ¬((!s.boot.coresUp && !decide ((outboxAfter port b s).length < s.dict.outbox.length) || !s.boot.fieldUp || !true) = true)
  rw [hfield]
  obtain h | h := hsends
  · rw [h]
    simp
  · rw [decide_eq_true h]
    simp

theorem injectionFrame_full (hfull : 64 ≤ (s.psched port).inject.length) :
    injectionFrame t port b s = count 0x1430 3 (takeOutbox port b s) := by
  unfold injectionFrame
  dsimp only
  rw [if_neg (injection_serves hsends hfield hexists), if_pos]
  rw [takeOutbox_eq]
  exact hfull

theorem injectionFrame_joins (hroom : (s.psched port).inject.length < 64) (hup : portUp s port = true)
    (hlen : b.length + 4 ≤ maxFrameSize s port)
    (hadm : (admits s (dieOf port) ownerFirmware (cellsOf (b.length + 4))).1 = true) :
    ((injectionFrame t port b s).psched port).inject = (s.psched port).inject ++ [injected t s.nextId b]
      ∧ (injectionFrame t port b s).dict.outbox = outboxAfter port b s := by
  have hserves := injection_serves hsends hfield hexists
  have hz : (takeOutbox port b s).sched = s.sched ∧ portUp (takeOutbox port b s) port = true
      ∧ maxFrameSize (takeOutbox port b s) port = maxFrameSize s port ∧ SameCells s (takeOutbox port b s)
      ∧ (takeOutbox port b s).nextId = s.nextId ∧ (takeOutbox port b s).dict.outbox = outboxAfter port b s := by
    rw [takeOutbox_eq]
    exact ⟨rfl, hup, rfl, ⟨rfl, rfl, rfl, rfl⟩, rfl, rfl⟩
  unfold injectionFrame
  dsimp only
  rw [if_neg hserves]
  generalize takeOutbox port b s = z at hz
  obtain ⟨hsched, hzup, hmax, hcells, hid, houtbox⟩ := hz
  obtain ⟨u, hadmit, hframe, -⟩ := admitFrame_admits (q := pipeOf port % 4) (refs := 1) (s := z)
    ((congrArg Prod.fst (admits_congr hcells _ _ _)).trans hadm)
  rw [psched_congr hsched, if_neg (Nat.not_le_of_lt hroom), if_neg (by rw [hzup]; decide), hmax, if_neg (Nat.not_lt_of_le hlen), hadmit]
  have hkept : u.psched port = s.psched port := psched_congr ((hframe.sched (by decide)).trans hsched) port
  have hne : { s.psched port with inject := (s.psched port).inject ++ [injected t z.nextId b] } ≠ PortSched.reset := fun h =>
    List.append_ne_nil_of_right_ne_nil _ (List.cons_ne_nil _ _) (congrArg PortSched.inject h)
  dsimp only
  rw [hkept]
  refine ⟨?_, ?_⟩
  · exact (congrArg PortSched.inject (psched_setPsched_of_ne (s := u) hne)).trans (by rw [hid])
  · exact ((congrArg Dict.outbox (hframe.dict (by decide)) :) : u.dict.outbox = z.dict.outbox).trans houtbox

end Served

end Injection

section RunsInjection
variable {t port : Nat} {b : Bytes} {s : State}

theorem execInjection (h : port < 512) : exec (.injectionFrame t port b) s = .next (injectionFrame t port b (advance t s)) :=
  congrArg Host.Outcome.next (if_pos h)

theorem maySend_advance (t : Nat) : MaySend port b (advance t s) ↔ MaySend port b s := by
  unfold MaySend
  rw [outboxAfter_advance, advance_boot, advance_dict]

theorem runs_injected (hport : port < 512) (hsends : s.boot.coresUp = true
      ∨ (∃ m, s.dict.outbox.find? (fun m => decide (m.port = port)) = some m ∧ b.drop (b.length - m.msg.length) = m.msg))
    (hfield : s.boot.fieldUp = true) (hexists : portExists s port = true) (hroom : (s.psched port).inject.length < 64)
    (hup : portUp s port = true) (hlen : b.length + 4 ≤ maxFrameSize s port)
    (hadm : (admits s (dieOf port) ownerFirmware (cellsOf (b.length + 4))).1 = true) :
    Runs (.injectionFrame t port b) s (fun u => ∃ f, (u.psched port).inject = (s.psched port).inject ++ [f]
      ∧ f.bytes = b ∧ f.enq = t ∧ f.len = b.length + 4
      ∧ (∀ m, s.dict.outbox.find? (fun m => decide (m.port = port)) = some m →
          u.dict.outbox = (if b.drop (b.length - m.msg.length) = m.msg then s.dict.outbox.erase m else s.dict.outbox))
      ∧ (s.dict.outbox.find? (fun m => decide (m.port = port)) = none → u.dict.outbox = s.dict.outbox)) := by
  have hsends' : MaySend port b s := hsends.imp_right fun ⟨m, hm, hb⟩ => outboxAfter_shorter hm hb
  obtain ⟨hjoins, houtbox⟩ := injectionFrame_joins (t := t) (s := advance t s) ((maySend_advance t).2 hsends') (by rwa [advance_boot])
    (by rwa [portExists_advance]) (by rwa [psched_advance]) ((portUp_advance t port s).trans hup)
    (by rwa [maxFrameSize_advance]) (by rwa [admits_congr (sameCells_advance t s)])
  rw [psched_advance] at hjoins
  rw [outboxAfter_advance] at houtbox
  exact ⟨_, execInjection hport, _, hjoins, rfl, rfl, rfl, fun m hm => houtbox.trans (outboxAfter_some hm),
    fun hm => houtbox.trans (outboxAfter_none hm)⟩

theorem runs_injectionFull (hport : port < 512) (hcores : s.boot.coresUp = true) (hfield : s.boot.fieldUp = true)
    (hexists : portExists s port = true) (hfull : 64 ≤ (s.psched port).inject.length) :
    Runs (.injectionFrame t port b) s (fun u => CountsOnly (takeOutbox port b (advance t s)) u
      ∧ counter u 0x1430 3 = satAdd64 (counter s 0x1430 3) 1) := by
  have hrun := injectionFrame_full (t := t) (b := b) (s := advance t s) (.inl (by rwa [advance_boot])) (by rwa [advance_boot])
    (by rwa [portExists_advance]) (by rwa [psched_advance])
  refine ⟨_, execInjection hport, ?_⟩
  rw [hrun]
  refine ⟨count_only .., (counter_countQ ..).trans ?_⟩
  rw [takeOutbox_eq, ← counter_advance t s]
  rfl

theorem runs_injectionQuiet (hoff : s.boot.coresUp = false)
    (h : ∀ m, s.dict.outbox.find? (fun m => decide (m.port = port)) = some m → b.drop (b.length - m.msg.length) ≠ m.msg) :
    Runs (.injectionFrame t port b) s (fun u => u = advance t s) := by
  have hkept : outboxAfter port b s = s.dict.outbox := by
    cases hm : s.dict.outbox.find? (fun m => decide (m.port = port)) with
    | none => exact outboxAfter_none hm
    | some m => rw [outboxAfter_some hm, if_neg (h m hm)]
  have hrun := injectionFrame_quiet (t := t) (port := port) (b := b) (s := advance t s) (by rwa [advance_boot])
    (by rw [outboxAfter_advance, hkept, advance_dict])
  by_cases hport : port < 512
  · exact ⟨_, execInjection hport, hrun⟩
  · exact ⟨_, congrArg Host.Outcome.next (if_neg hport), rfl⟩

end RunsInjection

end Sys2Proof.Machine
end

section
/-! TX_SELECT, FRAME_TX_COMPLETE and HOST_TX_SELECT (spec 07 R244, R252, 08 R262 to R265, R273, R274, R285). -/

namespace Sys2Proof.Machine
open Sys2Proof

/-! ### Counters of a port -/

section PortCounter
variable {port k : Nat} (hport : port < 512) (hk : k < 256)
include hport hk

theorem counter_countQ_away {idx : Nat} (hidx : idx < 0x2000 ∨ 0x2200 ≤ idx) {sub : Nat} (hsub : sub < 256) (n : Nat)
    (a b c : Option Nat) (s : State) : counter (countQ idx sub n a b c s) (0x2000 + port) k = counter s (0x2000 + port) k :=
  counter_countQ_other (objKey_ne_of_idx hk hsub (by omega)) ..

theorem counter_countPolder_away {sub : Nat} (hsub : sub < 256) (fn : Nat) (s : State) :
    counter (countPolder fn sub s) (0x2000 + port) k = counter s (0x2000 + port) k :=
  counter_countQ_away hport hk (.inr (by omega)) hsub ..

theorem counter_stopWork_away (fn q status kind : Nat) (s : State) :
    counter (stopWork fn q status kind s) (0x2000 + port) k = counter s (0x2000 + port) k := by
  have hfault : ∀ z, counter (polderFault fn status kind q z) (0x2000 + port) k = counter z (0x2000 + port) k := fun z => by
    have hcount := counter_countPolder_away hport hk (sub := 0x24) (by decide) fn z
    have hmark : ∀ (y : State) (p : Polder) (f : Polders → Polders),
        counter (modPolders f (y.setPolder fn p)) (0x2000 + port) k = counter y (0x2000 + port) k := fun _ _ _ => rfl
    unfold polderFault
    dsimp only
    split
    · rw [hmark, hcount]
    · rw [(signals_raise 261 _).counter, hmark, hcount]
  have hheld : counter (discardHeld fn q s) (0x2000 + port) k = counter s (0x2000 + port) k := by
    unfold discardHeld
    refine forEach_keeps (fun y => counter y (0x2000 + port) k) (fun a y => ?_) _ s
    split
    · rfl
    · exact (counter_countPolder_away hport hk (by decide) fn _).trans (counter_dropPlace hk (by omega) ..)
  unfold stopWork
  rw [counter_errorVectors, hfault, hheld]

theorem counter_queueError_away (fn q status reason errIdx kind : Nat) (marks : List Bytes) (s : State) :
    counter (queueError fn q status reason errIdx kind marks s) (0x2000 + port) k = counter s (0x2000 + port) k := by
  by_cases h : (s.queue fn q).st = .error ∨ (s.queue fn q).st = .disabled
  · rw [queueError_over h]
  · rw [queueError_stops (fun x => h (.inl x)) (fun x => h (.inr x)), counter_stopWork_away hport hk]
    rfl

theorem counter_queueWrite_away (fn q idx addr : Nat) (marks : List Bytes) (data : Bytes) (s : State) :
    counter (queueWrite fn q idx addr marks data s) (0x2000 + port) k = counter s (0x2000 + port) k := by
  unfold queueWrite
  split
  · rfl
  · split
    · unfold refuseRequest
      split
      · exact counter_queueError_away hport hk ..
      · exact (counter_queueError_away hport hk ..).trans (counter_countQ_away hport hk (.inr (by decide)) (by decide) ..)
    · unfold memWrite
      split
      · rfl
      · exact counter_congr (congrArg Dict.counters (transmits_dmaWrite ..).dict) _ _

end PortCounter

/-! ### What leaves the frames on a port's wire, and its counters -/

section Leaves
variable {port : Nat} {s u v : State}

/-- From `s` to `u` the frames on the wire of `port` stay, its transmit counters, and what left the part. -/
structure Leaves (port : Nat) (s u : State) : Prop where
  wf : Tab.wf PortSched.reset s.sched.ports = true → Tab.wf PortSched.reset u.sched.ports = true
  sending : Tab.wf PortSched.reset s.sched.ports = true → (u.psched port).sending = (s.psched port).sending
  counts : ∀ k < 0x2B, counter u (0x2000 + port) k = counter s (0x2000 + port) k
  out : ∀ o ∈ s.out, o ∈ u.out

theorem Leaves.refl (s : State) : Leaves port s s := ⟨id, fun _ => rfl, fun _ _ => rfl, fun _ h => h⟩

theorem Leaves.trans (a : Leaves port s u) (b : Leaves port u v) : Leaves port s v :=
  ⟨fun h => b.wf (a.wf h), fun h => (b.sending (a.wf h)).trans (a.sending h),
    fun k hk => (b.counts k hk).trans (a.counts k hk), fun o h => b.out o (a.out o h)⟩

/-- A change of other blocks. -/
theorem leaves_of_sched (h : u.sched = s.sched) (hc : ∀ k < 0x2B, counter u (0x2000 + port) k = counter s (0x2000 + port) k)
    (ho : ∀ o ∈ s.out, o ∈ u.out) : Leaves port s u :=
  ⟨fun hwf => by rwa [h], fun _ => congrArg PortSched.sending (psched_congr h port), hc, ho⟩

theorem leaves_signals (h : Signals s u) (ho : ∀ o ∈ s.out, o ∈ u.out) : Leaves port s u :=
  leaves_of_sched h.sched (fun _ _ => h.counter ..) ho

theorem psched_setPsched_same (hwf : Tab.wf PortSched.reset s.sched.ports = true) (x : PortSched) :
    (s.setPsched port x).psched port = x := Tab.get_set_same _ _ hwf

theorem leaves_setPsched {x : PortSched} (h : x.sending = (s.psched port).sending) : Leaves port s (s.setPsched port x) :=
  ⟨fun hwf => Tab.wf_set _ _ hwf, fun hwf => (congrArg PortSched.sending (psched_setPsched_same hwf x)).trans h,
    fun _ _ => rfl, fun _ h => h⟩

theorem leaves_countEv (ev n : Nat) (a b c : Option Nat) (s : State) : Leaves port s (countEv ev n a b c s) :=
  leaves_signals (signals_countEv ..) (fun _ h => ((Keeps.refl s).countEv ev n a b c).mem_out h)

theorem leaves_raiseDie (die k : Nat) (s : State) : Leaves port s (raiseDie die k s) :=
  leaves_signals (signals_raiseDie ..) (fun _ h => ((Keeps.refl s).raiseDie die k).mem_out h)

theorem leaves_forEach {α : Type} {f : α → State → State} (hf : ∀ a y, Leaves port y (f a y)) (l : List α) (s : State) :
    Leaves port s (forEach l f s) := by
  induction l generalizing s with
  | nil => exact .refl s
  | cons a l ih => exact (hf a s).trans (ih _)

theorem leaves_queueCount (tc k n : Nat) (s : State) : Leaves port s (queueCount port tc k n s) := by
  refine Leaves.trans (leaves_setPsched ?_) (leaves_countEv ..)
  rfl

theorem leaves_underrunCount (s : State) : Leaves port s (underrunCount port s) := by
  refine Leaves.trans (leaves_setPsched ?_) (leaves_countEv ..)
  rfl

theorem leaves_trackPort (tc : Nat) (f : Track → Track) (s : State) : Leaves port s (trackPort port tc f s) := by
  unfold trackPort
  split
  · exact .refl s
  · exact leaves_setPsched rfl

theorem leaves_trackTx (src : FrameSrc) (f : Track → Track) (s : State) : Leaves port s (trackTx src f s) := by
  have hframe := Frame.trackTx (l := [.wq]) (.of_all (by decide)) (.refl _ s) src f
  exact leaves_of_sched (hframe.sched (by decide)) (fun k _ => counter_congr (hframe.counters (by decide)) ..)
    (fun _ h => ((Keeps.refl s).trackTx src f).mem_out h)

section Away
variable (hport : port < 512)
include hport

theorem leaves_countQ {idx sub : Nat} (hidx : idx < 0x2000 ∨ 0x2200 ≤ idx) (hsub : sub < 256) (n : Nat) (a b c : Option Nat)
    (s : State) : Leaves port s (countQ idx sub n a b c s) :=
  leaves_of_sched (countQ_sched ..) (fun k hk => counter_countQ_away hport (by omega) hidx hsub ..)
    (fun _ h => ((Keeps.refl s).countQ idx sub n a b c).mem_out h)

theorem leaves_releaseCopy (sid : Nat) (pipe : Option Nat) (s : State) : Leaves port s (releaseCopy sid pipe s) :=
  leaves_of_sched ((Frame.releaseCopy (l := [.counters, .buf]) (.of_all (by decide)) (.refl _ s) sid pipe).sched (by decide))
    (fun k hk => counter_releaseCopy (by omega) (by omega) ..) (fun _ h => ((Keeps.refl s).releaseCopy sid pipe).mem_out h)

theorem leaves_txDone (fn q idx : Nat) (stamp : Option Nat) (s : State) : Leaves port s (txDone fn q idx stamp s) := by
  refine leaves_of_sched ((Frame.txDone (l := [.counters, .buf, .ep, .funcs, .polders, .wq, .siphon]) (.of_all (by decide))
    (.refl _ s) fn q idx stamp).sched (by decide)) (fun k hk => ?_) (fun _ h => ((Keeps.refl s).txDone fn q idx stamp).mem_out h)
  unfold txDone
  dsimp only
  split
  · rfl
  · split
    · rfl
    · split
      · exact (show _ = counter (queueWrite ..) _ _ from rfl).trans (counter_queueWrite_away hport (by omega) ..)
      · rfl

theorem leaves_txLost (src : FrameSrc) (s : State) : Leaves port s (txLost src s) := by
  cases src with
  | hostTx fn q idx => exact leaves_txDone hport fn q idx none s
  | field => exact .refl s
  | siphon _ _ => exact .refl s
  | firmware => exact .refl s
  | detached => exact .refl s

theorem leaves_releaseFrames (l : List QFrame) (s : State) : Leaves port s (releaseFrames port l s) :=
  leaves_forEach (fun _ y => (leaves_releaseCopy hport _ _ y).trans (leaves_txLost hport ..)) l s

/-! ### The settled head of a queue -/

omit hport in
theorem sending_withdrawStamp (tc : Nat) (p : PortSched) : (withdrawStamp tc p).sending = p.sending := by
  unfold withdrawStamp
  split
  · rfl
  · split
    · rfl
    · rfl

omit hport in
theorem sending_stampQueue (s : State) (tc : Nat) (p : PortSched) : (stampQueue s port tc p).sending = p.sending := by
  unfold stampQueue
  generalize wfqStamp = w
  split
  · rfl
  · split
    · rfl
    · rfl

theorem leaves_settleHead (tc : Nat) (s : State) : Leaves port s (settleHead port tc s) := by
  have hset : Leaves port s (s.setPsched port (stampQueue s port tc (if (portQueue (s.psched port) tc).takeWhile
      (fun f => overWindow s port tc f.len) = [] then s.psched port else setPortQueue tc ((portQueue (s.psched port) tc).dropWhile
      (fun f => overWindow s port tc f.len)) (withdrawStamp tc (s.psched port))))) := by
    refine leaves_setPsched ((sending_stampQueue ..).trans ?_)
    split
    · rfl
    · exact sending_withdrawStamp ..
  exact (hset.trans (leaves_queueCount tc 2 _ _)).trans (leaves_releaseFrames hport ..)

theorem leaves_dequeuePick (t start : Nat) (pick : Option Nat × QFrame) (s : State) :
    Leaves port s (dequeuePick port t start pick s) := by
  obtain ⟨tc, f⟩ := pick
  cases tc with
  | none => exact leaves_setPsched rfl
  | some tc =>
    refine Leaves.trans (Leaves.trans (Leaves.trans (leaves_setPsched ?_) (leaves_trackPort ..)) (leaves_trackTx ..))
      (leaves_settleHead hport tc _)
    show (if queueScheduled s port tc then setPortQueue tc ((portQueue (s.psched port) tc).drop 1) (s.psched port)
      else wfqSelected s port f (setPortQueue tc ((portQueue (s.psched port) tc).drop 1) (s.psched port))).sending = _
    split
    · rfl
    · rfl

/-! ### Injection -/

omit hport in
theorem leaves_takeOutbox (p : Nat) (b : Bytes) (s : State) : Leaves port s (takeOutbox p b s) := by
  rw [takeOutbox_eq]
  exact leaves_of_sched rfl (fun _ _ => rfl) (fun _ h => h)

theorem leaves_admitFrame (die q owner len refs : Nat) (s : State) : Leaves port s (admitFrame die q owner len refs s).2 := by
  refine leaves_of_sched ((Frame.admitFrame (l := [.id, .counters, .buf]) (.of_all (by decide)) (.refl _ s) die q owner len refs).sched
    (by decide)) (fun k hk => ?_) (fun _ h => ((Keeps.refl s).admitFrame die q owner len refs).mem_out h)
  have haway : ∀ sub < 256, ∀ z, counter (count 0x2B05 sub z) (0x2000 + port) k = counter z (0x2000 + port) k := fun _ hs _ =>
    counter_countQ_away hport (by omega) (.inr (by decide)) hs ..
  unfold admitFrame
  dsimp only
  split
  · rw [counter_lowCheck]
    rfl
  · unfold bufRefuse
    dsimp only
    rw [haway 1 (by decide)]
    split
    · exact haway 2 (by decide) s
    · rfl

theorem leaves_injectionFrame (t : Nat) (b : Bytes) (s : State) : Leaves port s (injectionFrame t port b s) := by
  unfold injectionFrame
  have htake := leaves_takeOutbox (port := port) port b s
  generalize takeOutbox port b s = z at htake
  dsimp only
  split
  · exact htake
  · split
    · exact htake.trans (leaves_countQ hport (.inl (by decide)) (by decide) ..)
    · split
      · refine htake.trans (leaves_of_sched (countQ_sched ..) (fun k hk => ?_)
          (fun _ h => ((Keeps.refl z).countQ (0x2000 + port) 0x2B 1 (some port) none none).mem_out h))
        exact counter_countQ_other (objKey_ne_of_sub (by omega) (by decide) (by omega)) ..
      · split
        · exact htake
        · have hadm := leaves_admitFrame hport (dieOf port) (pipeOf port % 4) ownerFirmware (b.length + 4) 1 z
          split
          · next heq =>
            rw [heq] at hadm
            exact htake.trans hadm
          · next heq =>
            rw [heq] at hadm
            exact (htake.trans hadm).trans (leaves_setPsched rfl)

end Away

end Leaves

/-! ### A frame that leaves -/

section Complete
variable {port : Nat} {x : TxFrame} {rest : List TxFrame} {s : State}

/-- The frame stands in the output, counted. -/
def wireSent (port : Nat) (x : TxFrame) (bad : Bool) (s : State) : State :=
  countPort port 0x23 (x.frame.bytes.length + 4) (countPort port 0x22 1 (emit (.frame port x.frame.bytes bad) s))

theorem wireSent_spec (bad : Bool) : (wireSent port x bad s).sched = s.sched
    ∧ .frame port x.frame.bytes bad ∈ (wireSent port x bad s).out
    ∧ counter (wireSent port x bad s) (0x2000 + port) 0x22 = satAdd64 (counter s (0x2000 + port) 0x22) 1
    ∧ counter (wireSent port x bad s) (0x2000 + port) 0x23
      = satAdd64 (counter s (0x2000 + port) 0x23) (x.frame.bytes.length + 4) := by
  refine ⟨?_, ?_, ?_, ?_⟩
  · rw [wireSent, countPort, countQ_sched, countPort, countQ_sched]
    rfl
  · exact (((Keeps.refl _).countPort port 0x22 1).countPort port 0x23 (x.frame.bytes.length + 4)).mem_out
      (List.mem_append_right s.out (List.mem_singleton.2 rfl))
  · exact (counter_countQ_other (objKey_ne_of_sub (by decide) (by decide) (by decide)) ..).trans (counter_countQ ..)
  · exact (counter_countQ_amount _ _ (by omega) ..).trans (congrArg (fun n => satAdd64 n _)
      (counter_countQ_other (objKey_ne_of_sub (by decide) (by decide) (by decide)) ..))

/-- The counters of the frame's queue. -/
def queueSent (port : Nat) (x : TxFrame) (s : State) : State :=
  match x.tc with
  | none => s
  | some tc => queueCount port tc 1 (x.frame.bytes.length + 4) (queueCount port tc 0 1 s)

/-- What the frame's source does once it has left. -/
def sourceSent (port : Nat) (x : TxFrame) (s : State) : State :=
  match x.frame.info.src with
  | .hostTx fn q idx => txDone fn q idx (some x.egress) s
  | .field => s
  | .siphon _ _ => s
  | .detached => s
  | .firmware =>
    match followUp s x.frame.info x.egress x.frame.bytes with
    | some b => injectionFrame s.clock port b s
    | none => s

theorem frameSent_eq (port : Nat) (x : TxFrame) (bad : Bool) (s : State) :
    frameSent port x bad s = sourceSent port x (queueSent port x (wireSent port x bad s)) := rfl

theorem leaves_queueSent (x : TxFrame) (s : State) : Leaves port s (queueSent port x s) := by
  unfold queueSent
  split
  · exact .refl s
  · exact (leaves_queueCount ..).trans (leaves_queueCount ..)

theorem leaves_sourceSent (hport : port < 512) (x : TxFrame) (s : State) : Leaves port s (sourceSent port x s) := by
  unfold sourceSent
  split
  · exact leaves_txDone hport ..
  · exact .refl s
  · exact .refl s
  · exact .refl s
  · split
    · exact leaves_injectionFrame hport ..
    · exact .refl s

theorem leaves_frameSent (hport : port < 512) (bad : Bool) : Leaves port (wireSent port x bad s) (frameSent port x bad s) := by
  rw [frameSent_eq]
  exact (leaves_queueSent ..).trans (leaves_sourceSent hport ..)

/-- A copy that is released counts no error of the memory. -/
theorem counter_releaseCopy_ecc (sid : Nat) (pipe : Option Nat) (s : State) :
    counter (releaseCopy sid pipe s) 0x2B05 8 = counter s 0x2B05 8 := by
  have hcount : ∀ k, k ≠ 8 → k < 256 → ∀ y, counter (count 0x2B05 k y) 0x2B05 8 = counter y 0x2B05 8 := fun k h hk y =>
    counter_countQ_other (objKey_ne_of_sub (by decide) hk h.symm) ..
  have hcell : ∀ die o c y, counter (freeCell die pipe o c y) 0x2B05 8 = counter y 0x2B05 8 := fun die o c y => by
    unfold freeCell
    dsimp only
    split
    · rfl
    · split
      · exact ((signals_raiseDie die 8 _).counter ..).trans (hcount 3 (by decide) (by decide) y)
      · split
        · exact ((signals_raiseDie die 9 _).counter ..).trans (hcount 4 (by decide) (by decide) y)
        · rfl
  unfold releaseCopy
  split
  · rfl
  · split
    · rfl
    · unfold freeCellList
      rw [counter_lowCheck]
      exact forEach_keeps (fun y => counter y 0x2B05 8) (hcell _ _) _ _

theorem wf_setPsched (hwf : Tab.wf PortSched.reset s.sched.ports = true) (y : PortSched) :
    Tab.wf PortSched.reset (s.setPsched port y).sched.ports = true := Tab.wf_set _ _ hwf

section Wire
variable (hport : port < 512) (hwf : Tab.wf PortSched.reset s.sched.ports = true)
include hport hwf

/-- A frame that leaves, and what is done after it. -/
theorem frameSent_spec {bad : Bool} {u v : State} (hu : Leaves port (s.setPsched port { s.psched port with sending := rest }) u)
    (hv : Leaves port (frameSent port x bad u) v) : .frame port x.frame.bytes bad ∈ v.out ∧ (v.psched port).sending = rest
      ∧ counter v (0x2000 + port) 0x22 = satAdd64 (counter s (0x2000 + port) 0x22) 1
      ∧ counter v (0x2000 + port) 0x23 = satAdd64 (counter s (0x2000 + port) 0x23) (x.frame.bytes.length + 4) := by
  have hset := wf_setPsched (port := port) hwf { s.psched port with sending := rest }
  obtain ⟨hsched, hout, h22, h23⟩ := wireSent_spec (port := port) (x := x) (s := u) bad
  have hleaves := (leaves_frameSent hport bad).trans hv
  have huwf : Tab.wf PortSched.reset (wireSent port x bad u).sched.ports = true := by
    rw [hsched]
    exact hu.wf hset
  refine ⟨hleaves.out _ hout, ?_, ?_, ?_⟩
  · rw [hleaves.sending huwf, psched_congr hsched, hu.sending hset, psched_setPsched_same hwf]
  · rw [hleaves.counts _ (by decide), h22, hu.counts _ (by decide)]
    rfl
  · rw [hleaves.counts _ (by decide), h23, hu.counts _ (by decide)]
    rfl

variable (hx : (s.psched port).sending = x :: rest)
include hx

theorem frameTxComplete_clean : .frame port x.frame.bytes false ∈ (frameTxComplete port .clean s).out
      ∧ ((frameTxComplete port .clean s).psched port).sending = rest
      ∧ counter (frameTxComplete port .clean s) (0x2000 + port) 0x22 = satAdd64 (counter s (0x2000 + port) 0x22) 1
      ∧ counter (frameTxComplete port .clean s) (0x2000 + port) 0x23
        = satAdd64 (counter s (0x2000 + port) 0x23) (x.frame.bytes.length + 4) := by
  unfold frameTxComplete
  dsimp only
  rw [hx]
  exact frameSent_spec hport hwf (.refl _) (leaves_releaseCopy hport ..)

theorem frameTxComplete_underrun : .frame port x.frame.bytes x.cut ∈ (frameTxComplete port .underrun s).out
      ∧ ((frameTxComplete port .underrun s).psched port).sending = rest := by
  unfold frameTxComplete
  dsimp only
  rw [hx]
  have hcut : ∀ z, Leaves port z (if x.cut then underrunCount port z else z) := fun z => by
    split
    · exact leaves_underrunCount z
    · exact .refl z
  obtain ⟨hout, hsending, -⟩ := frameSent_spec hport hwf (hcut _) (leaves_releaseCopy hport x.frame.sid (some (pipeOf port % 4)) _)
  exact ⟨hout, hsending⟩

theorem frameTxComplete_data (hsrc : x.frame.info.src = .field) : ((frameTxComplete port .data s).psched port).sending = rest
      ∧ counter (frameTxComplete port .data s) (0x2000 + port) 0x22 = counter s (0x2000 + port) 0x22
      ∧ counter (frameTxComplete port .data s) 0x2B05 8 = satAdd64 (counter s 0x2B05 8) 1 := by
  unfold frameTxComplete
  dsimp only
  rw [hx]
  dsimp only
  rw [hsrc]
  dsimp only [txLost]
  have hset := wf_setPsched (port := port) hwf { s.psched port with sending := rest }
  have hback := psched_setPsched_same (port := port) hwf { s.psched port with sending := rest }
  have hcounter : ∀ idx sub, counter (s.setPsched port { s.psched port with sending := rest }) idx sub = counter s idx sub :=
    fun _ _ => rfl
  generalize s.setPsched port { s.psched port with sending := rest } = z at hset hback hcounter
  have hecc : Leaves port z (eccError (dieOf port) z) :=
    (leaves_countQ hport (.inr (by decide)) (by decide) ..).trans (leaves_raiseDie ..)
  have hleaves := hecc.trans (leaves_releaseCopy hport x.frame.sid (some (pipeOf port % 4)) _)
  refine ⟨?_, ?_, ?_⟩
  · exact (hleaves.sending hset).trans (congrArg PortSched.sending hback)
  · exact (hleaves.counts _ (by decide)).trans (hcounter ..)
  · exact (counter_releaseCopy_ecc ..).trans (((signals_raiseDie ..).counter ..).trans ((counter_countQ ..).trans (by rw [hcounter])))

end Wire

end Complete

/-! ### TX_SELECT -/

section Select
variable {t port : Nat} {pick : Option Nat × QFrame} {s : State}

theorem txSelect_idle (h : t + selectLead < (s.psched port).wireEnd ∨ portPick s port (t + selectLead) = none) :
    txSelect t port s = s := by
  unfold txSelect
  dsimp only
  obtain h | h := h
  · exact if_pos h
  · rw [h]
    exact ite_self s

/-- The picked frame goes on the wire at `start` with its bytes and its egress timestamp. -/
def startFrame (port start rate : Nat) (pick : Option Nat × QFrame) (cut : Bool) (egress : Nat) (b : Bytes) (y : State) : State :=
  let z := y.setPsched port { y.psched port with wireEnd := start + (b.length + 24) * rate * 1000 }
  z.setPsched port { z.psched port with sending := (z.psched port).sending ++
    [{ frame := { pick.2 with bytes := b }, tc := pick.1, start := start, egress := egress, drop := false, cut := cut }] }

theorem startFrame_spec {start rate egress : Nat} {cut : Bool} {b : Bytes} {y : State}
    (hwf : Tab.wf PortSched.reset y.sched.ports = true) :
    (startFrame port start rate pick cut egress b y).psched port = { y.psched port with
      wireEnd := start + (b.length + 24) * rate * 1000
      sending := (y.psched port).sending ++
        [{ frame := { pick.2 with bytes := b }, tc := pick.1, start := start, egress := egress, drop := false, cut := cut }] } := by
  unfold startFrame
  dsimp only
  rw [psched_setPsched_same (wf_setPsched hwf _), psched_setPsched_same hwf]

theorem sched_egressStamp (port start : Nat) (y : State) : (egressStamp port start y).2.sched = y.sched := rfl

theorem txSelect_starts (hfree : (s.psched port).wireEnd ≤ t + selectLead)
    (hpick : portPick s port (t + selectLead) = some pick) (hup : portUp s port = true) (hstream : pick.2.info.stream = none) :
    ∃ egress b z, txSelect t port s = startFrame port (t + selectLead) (psPerByte s port) pick (startsCut s port pick) egress b z
      ∧ z.sched = (dequeuePick port t (t + selectLead) pick s).sched := by
  have hpass : ∀ y, frerEgress port pick.2.info pick.2.bytes y = (true, pick.2.bytes, y) := fun y => by
    unfold frerEgress
    rw [hstream]
  unfold txSelect
  dsimp only
  rw [if_neg (Nat.not_lt_of_le hfree), hpick]
  dsimp only
  rw [hup, if_neg (by decide), hpass]
  generalize dequeuePick port t (t + selectLead) pick s = y
  exact ⟨_, _, _, if_neg (by simp), sched_egressStamp ..⟩

end Select

/-! ### HOST_TX_SELECT -/

section HostSelect
variable {die fn : Nat} {f : HtxFrame} {s : State}

theorem hostTxSelect_idle (h : htxPick s (s.htx die) = none) : hostTxSelect die s = s := by
  unfold hostTxSelect
  dsimp only
  rw [h]

theorem htxPick_advance (t : Nat) (s : State) (x : HtxSched) : htxPick (advance t s) x = htxPick s x := by
  have hclass : hostClass (advance t s) = hostClass s := funext fun _ => cfgN_advance ..
  unfold htxPick
  rw [hclass]

theorem turn_setHtxWfq (w : Wfq) (x : HtxSched) : (setHtxWfq w x).turn = x.turn := rfl

theorem turn_htxStamp (fn : Nat) (x : HtxSched) : (htxStamp s fn x).turn = x.turn := by
  unfold htxStamp
  split
  · rfl
  · rw [turn_setHtxWfq]

theorem htx_setHtx_of_ne {x : HtxSched} (h : x ≠ HtxSched.reset) : (s.setHtx die x).htx die = x := Tab.get_set_of_ne _ _ h

/-- A parcel from the HD joins the way. -/
theorem launch_fromHost {p : Parcel} (hsrc : p.src = 4) (hdst : p.dst ≠ 4) (hup : culvDown s (hdCulvert p.dst) = false) :
    launch p s = inTransit p s := by
  unfold launch
  dsimp only
  rw [if_neg (fun h => hdst (h.symm.trans hsrc)), if_pos hsrc, hup, if_neg (by decide)]
  rfl

/-- The scheduler of a die once the frame `f` of polder `fn` has gone. -/
def htxGone (s : State) (die fn : Nat) (f : HtxFrame) : HtxSched :=
  let x := s.htx die
  let x1 : HtxSched := { x with frames := x.frames.erase f, turn := Tab.ins x.turn fn f.q, next := Tab.del x.next fn }
  let busy : Nat → Bool := fun n => x1.frames.any (fun g => decide (g.fn = n))
  let x2 : HtxSched := setHtxWfq ((htxWfq x1).select fn true busy) x1
  if busy fn then htxStamp s fn x2 else x2

/-- The parcel of a transmit frame. -/
def htxParcel (s : State) (die fn : Nat) (f : HtxFrame) : Parcel where
  ticket := 0
  src := 4
  dst := die
  bulk := !queueScheduled s f.port f.tc
  owner := (s.polder fn).owner.getD 0xFFF
  info := { Meta.blank with tc := f.tc, src := .hostTx fn f.q f.idx }
  bytes := f.bytes
  ports := [(f.port, f.tc, none)]
  hosts := []

theorem hostTxSelect_sends (hpick : htxPick s (s.htx die) = some fn) (hnext : htxNext (s.htx die) fn = some f) :
    hostTxSelect die s = launch (htxParcel s die fn f) (s.setHtx die (htxGone s die fn f)) := by
  unfold hostTxSelect
  dsimp only
  rw [hpick]
  dsimp only
  rw [hnext]
  rfl

theorem htxGone_spec : (htxGone s die fn f).frames = (s.htx die).frames.erase f ∧ htxGone s die fn f ≠ HtxSched.reset := by
  have hturn : (htxGone s die fn f).turn = Tab.ins (s.htx die).turn fn f.q := by
    unfold htxGone
    dsimp only
    split
    · rw [turn_htxStamp, turn_setHtxWfq]
    · rw [turn_setHtxWfq]
  refine ⟨?_, fun h => ins_ne_nil (s.htx die).turn fn f.q (hturn.symm.trans (congrArg HtxSched.turn h))⟩
  unfold htxGone
  dsimp only
  split
  · rw [frames_htxStamp, frames_setHtxWfq]
  · rw [frames_setHtxWfq]

end HostSelect

section RunsSelect
variable {t port : Nat} {pick : Option Nat × QFrame} {s : State}

theorem runs_select (hport : port < 512) (hfree : (s.psched port).wireEnd ≤ t + selectLead)
    (hpick : portPick (advance t s) port (t + selectLead) = some pick) (hup : portUp s port = true)
    (hstream : pick.2.info.stream = none) (hwf : Tab.wf PortSched.reset s.sched.ports = true) :
    Runs (.txSelect t port) s (fun u => ∃ x, (u.psched port).sending = (s.psched port).sending ++ [x]
      ∧ x.tc = pick.1 ∧ x.start = t + selectLead ∧ x.frame.sid = pick.2.sid ∧ x.frame.info = pick.2.info
      ∧ x.cut = startsCut (advance t s) port pick
      ∧ (u.psched port).wireEnd = t + selectLead + (x.frame.bytes.length + 24) * psPerByte s port * 1000) := by
  obtain ⟨egress, b, z, hrun, hsched⟩ := txSelect_starts (s := advance t s) (by rwa [psched_advance]) hpick
    ((portUp_advance t port s).trans hup) hstream
  have hleaves := leaves_dequeuePick hport t (t + selectLead) pick (advance t s)
  have hadv : Tab.wf PortSched.reset (advance t s).sched.ports = true := by rwa [advance_sched]
  have hrate : psPerByte (advance t s) port = psPerByte s port := by rw [psPerByte, portRate_advance, psPerByte]
  have hsending : (z.psched port).sending = (s.psched port).sending := by
    rw [psched_congr hsched, hleaves.sending hadv, psched_advance]
  have hspec := startFrame_spec (port := port) (pick := pick) (start := t + selectLead) (rate := psPerByte s port)
    (cut := startsCut (advance t s) port pick) (egress := egress) (b := b) (y := z) (by rw [hsched]; exact hleaves.wf hadv)
  rw [hrate] at hrun
  rw [← hrun, hsending] at hspec
  exact ⟨_, congrArg Host.Outcome.next (if_pos hport), _, (congrArg PortSched.sending hspec :), rfl, rfl, rfl, rfl, rfl,
    (congrArg PortSched.wireEnd hspec :)⟩

end RunsSelect

end Sys2Proof.Machine

namespace Sys2Proof
open Machine

/-- Settles O41: a parcel that arrives, an injected frame, a selection, a completion and a frame of a polder, each by what it
leaves of the queues, the wire and the way. -/
theorem frameDeparture : Obligations.FrameDeparture := by
  refine ⟨?_, ?_, ?_, ?_, ?_, ?_, ?_, ?_, ?_, ?_, ?_, ?_⟩
  · intro t k port tc len p s hnext hports hhosts hsrc hred hup hlen hmax hwin hthr hadm
    exact runs_enqueue hnext hports hhosts hsrc hred hup hlen hmax hwin hthr hadm
  · intro t k port tc p s hnext hports hhosts hsrc hred hup
    exact runs_portDown hnext hports hhosts hsrc hred hup
  · intro t k fault s h
    exact ⟨_, rfl, frameEnqueue_waits fault ((isNext_advance t k s).trans h)⟩
  · intro t port b s hport hsends hfield hexists hroom hup hlen hadm
    exact runs_injected hport hsends hfield hexists hroom hup hlen hadm
  · intro t port b s hport hcores hfield hexists hfull
    exact runs_injectionFull hport hcores hfield hexists hfull
  · intro t port b s hoff h
    exact runs_injectionQuiet hoff h
  · intro t port pick s hport hfree hpick hup hstream hwf
    exact runs_select hport hfree hpick hup hstream hwf
  · intro t port s hport h
    exact ⟨_, congrArg Host.Outcome.next (if_pos hport), txSelect_idle (h.imp_left (by rw [psched_advance]; exact id))⟩
  · intro t port x rest s hport hwf hx
    have hwf' : Tab.wf PortSched.reset (advance t s).sched.ports = true := by rwa [advance_sched]
    have hx' : ((advance t s).psched port).sending = x :: rest := by rwa [psched_advance]
    obtain ⟨hout, hsending, h22, h23⟩ := frameTxComplete_clean hport hwf' hx'
    rw [counter_advance] at h22 h23
    refine ⟨⟨_, congrArg Host.Outcome.next (if_pos hport), hout, hsending, h22, h23⟩,
      ⟨_, congrArg Host.Outcome.next (if_pos hport), frameTxComplete_underrun hport hwf' hx'⟩, fun hsrc => ?_⟩
    obtain ⟨hsending, h22, h8⟩ := frameTxComplete_data hport hwf' hx' hsrc
    rw [counter_advance] at h22 h8
    exact ⟨_, congrArg Host.Outcome.next (if_pos hport), hsending, h22, h8⟩
  · intro t port fault s hport h
    refine ⟨_, congrArg Host.Outcome.next (if_pos hport), ?_⟩
    unfold frameTxComplete
    dsimp only
    rw [psched_advance, h]
  · intro t die fn f s hdie hpick hnext hup
    have hhtx : (advance t s).htx die = s.htx die := by simp only [State.htx, advance_sched]
    have hrun := hostTxSelect_sends (die := die) (s := advance t s) (by rw [hhtx, htxPick_advance]; exact hpick)
      (by rw [hhtx]; exact hnext)
    obtain ⟨hframes, hne⟩ := htxGone_spec (s := advance t s) (die := die) (fn := fn) (f := f)
    have hlaunch := launch_fromHost (p := htxParcel (advance t s) die fn f)
      (s := (advance t s).setHtx die (htxGone (advance t s) die fn f)) rfl (Nat.ne_of_lt hdie) ((culvDown_advance t (hdCulvert die) s).trans hup)
    rw [hlaunch] at hrun
    refine ⟨_, congrArg Host.Outcome.next ((if_pos hdie).trans hrun), ?_,
      { htxParcel (advance t s) die fn f with ticket := (advance t s).nextId }, ?_, rfl, rfl, rfl, rfl, rfl, rfl, ?_⟩
    · exact (congrArg HtxSched.frames (htx_setHtx_of_ne (s := advance t s) hne)).trans (by rw [hframes, hhtx])
    · exact congrArg (fun b : Buffers => b.transit ++ [_]) (advance_buf s t)
    · show ((advance t s).polder fn).owner.getD 0xFFF = _
      rw [polder_advance]
  · intro t die s h
    have hidle : hostTxSelect die (advance t s) = advance t s := hostTxSelect_idle (by
      rw [htxPick_advance]
      simp only [State.htx, advance_sched]
      exact h)
    exact ⟨_, rfl, (congrArg (fun u => if die < 4 then u else advance t s) hidle).trans (ite_self _)⟩

end Sys2Proof
end

section
/-! Packets that come in on a Siphon channel: what the answer to one leaves, and how its PSN is taken (spec 13 R430, R441,
R446). -/

namespace Sys2Proof.Machine
open Sys2Proof

/-! ### What an answer leaves -/

/-- From `z` to `u` a packet was answered: of the Siphon engine channels alone changed, of its counters those in `l`. -/
structure SipReply (l : List Nat) (z u : State) : Prop where
  frame : Frame [.free, .id, .counters, .buf, .siphon] z u
  only : { u.siphon with channels := z.siphon.channels } = z.siphon
  out : ∀ o ∈ z.out, o ∈ u.out
  far : ∀ idx k, k < 256 → idx ≠ 0x4203 → idx ≠ 0x4101 → counter u idx k = counter z idx k
  sip : ∀ k, k < 256 → k ∉ l → counter u 0x4203 k = counter z 0x4203 k

section SipReply
variable {l m : List Nat} {z u v : State}

theorem SipReply.refl (l : List Nat) (z : State) : SipReply l z z :=
  ⟨.refl _ z, rfl, fun _ h => h, fun _ _ _ _ _ => rfl, fun _ _ _ => rfl⟩

theorem SipReply.trans (a : SipReply l z u) (b : SipReply l u v) : SipReply l z v :=
  ⟨a.frame.trans b.frame, (congrArg (fun x : Siphon => { x with channels := z.siphon.channels }) b.only).trans a.only,
    fun o h => b.out o (a.out o h), fun i k hk h h' => (b.far i k hk h h').trans (a.far i k hk h h'),
    fun k hk h => (b.sip k hk h).trans (a.sip k hk h)⟩

theorem SipReply.mono (h : SipReply l z u) (hlm : ∀ k ∈ l, k ∈ m) : SipReply m z u :=
  ⟨h.frame, h.only, h.out, h.far, fun k hk hm => h.sip k hk fun hl => hm (hlm k hl)⟩

theorem SipReply.rx (h : SipReply l z u) : u.siphon.rx = z.siphon.rx := (congrArg Siphon.rx h.only :)
theorem SipReply.ddr (h : SipReply l z u) : u.siphon.ddr = z.siphon.ddr := (congrArg Siphon.ddr h.only :)
theorem SipReply.wq (h : SipReply l z u) : u.wq = z.wq := h.frame.wq (by decide)
theorem SipReply.jrn (h : SipReply l z u) : u.jrn = z.jrn := h.frame.jrn (by decide)
theorem SipReply.vals (h : SipReply l z u) : u.dict.vals = z.dict.vals := h.frame.vals (by decide)

theorem frame_setChannel (g : Nat) (x : Channel) : Frame [.siphon] z (z.setChannel g x) :=
  Frame.setChannel (.of_all (by decide)) (.refl _ z) g x

theorem sipReply_setChannel (l : List Nat) (g : Nat) (x : Channel) : SipReply l z (z.setChannel g x) :=
  ⟨(frame_setChannel g x).mono (.of_all (by decide)), rfl, fun _ h => h, fun _ _ _ _ _ => rfl, fun _ _ _ => rfl⟩

theorem siphon_sipCount (k fn : Nat) (z : State) : (sipCount k fn z).siphon = z.siphon := by simp [sipCount, countFor]

theorem counter_sipCount_other {i j k : Nat} (h : objKey i j ≠ objKey 0x4203 k) (fn : Nat) (z : State) :
    counter (sipCount k fn z) i j = counter z i j := by
  unfold sipCount countFor
  exact counter_countQ_other h ..

theorem sipReply_sipCount {k : Nat} (hk : k < 256) (fn : Nat) (z : State) : SipReply [k] z (sipCount k fn z) where
  frame := Frame.sipCount (.of_all (by decide)) (.refl _ z) k fn
  only := congrArg (fun x : Siphon => { x with channels := z.siphon.channels }) (siphon_sipCount k fn z)
  out _ h := ((Keeps.refl z).sipCount k fn).mem_out h
  far _ _ hj hi _ := counter_sipCount_other (objKey_ne_of_idx hj hk hi) ..
  sip _ hj hne := counter_sipCount_other (objKey_ne_of_sub hj hk (fun x => hne (List.mem_singleton.2 x))) ..

theorem counter_sipCount {k : Nat} (fn : Nat) (z : State) :
    counter (sipCount k fn z) 0x4203 k = satAdd64 (counter z 0x4203 k) 1 := by
  unfold sipCount countFor
  exact counter_countQ ..

theorem counter_sLaunch_far (g i : Nat) (p : SPath) (pkt : Bytes) (ect : Bool) (psn : Nat) {idx k : Nat} (hk : k < 256)
    (h : idx ≠ 0x4203) (h' : idx ≠ 0x4101) : counter (sLaunch g i p pkt ect psn z) idx k = counter z idx k := by
  obtain ⟨x, hsrc, hinfo, -, heq⟩ := sLaunch_eq g i p pkt ect psn z
  rw [heq, counter_launch_siphon hsrc hinfo]
  unfold packetCounted
  rw [sipCount, countFor, counter_countQ_other (objKey_ne_of_idx hk (by decide) h)]
  split
  · unfold sFarm
    rw [counter_countQ_other (objKey_ne_of_idx hk (by decide) h'), counter_countQ_other (objKey_ne_of_idx hk (by decide) h')]
    rfl
  · rfl

theorem sipReply_sLaunch (g i : Nat) (p : SPath) (pkt : Bytes) (ect : Bool) (psn : Nat) :
    SipReply [1] z (sLaunch g i p pkt ect psn z) where
  frame := (frame_sLaunch ..).mono (.of_all (by decide))
  only := congrArg (fun x : Siphon => { x with channels := z.siphon.channels }) ((frame_sLaunch ..).siphon (by decide))
  out _ h := ((Keeps.refl z).sLaunch g i p pkt ect psn).mem_out h
  far _ _ hk h h' := counter_sLaunch_far _ _ _ _ _ _ hk h h'
  sip _ hk hne := counter_sLaunch_other _ _ _ _ _ _ hk (fun x => hne (List.mem_singleton.2 x))

end SipReply

/-! ### Acknowledgements and refusals -/

section Answer
variable {t g : Nat} {c : Channel} {s z : State}

/-- A control packet leaves where a path is up. -/
theorem sendControl_sipReply (hset : ChannelSet g c s z) (hlow : c.ctlTx < 0xFFFFFFFE) (op psn len off addr : Nat)
    (path : Option Nat) : (∃ n, ChannelSet g { c with ctlTx := n } s (sendControl g op psn len off addr path z))
      ∧ SipReply [1] z (sendControl g op psn len off addr path z) := by
  have hsame := hset.same
  cases hup : lowestUp c with
  | none =>
    have heq : sendControl g op psn len off addr path z = z := by
      unfold sendControl
      dsimp only
      rw [hsame, hup]
    rw [heq]
    exact ⟨⟨_, hset⟩, .refl _ z⟩
  | some e =>
    obtain ⟨pkt, heq⟩ := sendControl_eq (op := op) (psn := psn) (len := len) (off := off) (addr := addr) (path := path)
      (u := z) (g := g) (by rwa [hsame]) (by rwa [hsame])
    refine ⟨⟨_, hset.sendControl hup hlow⟩, ?_⟩
    rw [heq]
    exact (sipReply_setChannel [1] g _).trans (sipReply_sLaunch ..)

/-- The channel after an acknowledgement may have been sent. -/
def ackMarked (a b n : Nat) (c : Channel) : Channel := { c with toAck := a, ackSince := b, ctlTx := n }

theorem scheduleAck_sipReply (hset : ChannelSet g c s z) (hlow : c.ctlTx < 0xFFFFFFFE) (now : Bool) :
    (∃ a b n, ChannelSet g (ackMarked a b n c) s (scheduleAck t g now z)) ∧ SipReply [1] z (scheduleAck t g now z) := by
  have hmark := hset.set { c with toAck := c.toAck + 1, ackSince := if c.toAck = 0 then t else c.ackSince }
  have hreply : SipReply [1] z (z.setChannel g { c with toAck := c.toAck + 1, ackSince := if c.toAck = 0 then t else c.ackSince }) :=
    sipReply_setChannel ..
  unfold scheduleAck sendAck
  dsimp only
  rw [hset.same]
  generalize z.setChannel g { c with toAck := c.toAck + 1, ackSince := if c.toAck = 0 then t else c.ackSince } = y at hmark hreply ⊢
  split
  · rw [hmark.same]
    have hclear := hmark.set { c with toAck := 0, ackSince := if c.toAck = 0 then t else c.ackSince }
    obtain ⟨⟨n, hsent⟩, hsends⟩ := sendControl_sipReply hclear hlow 5 c.expect 0 0 (sackMap c) none
    exact ⟨⟨0, _, n, hsent⟩, hreply.trans ((sipReply_setChannel ..).trans hsends)⟩
  · exact ⟨⟨_, _, _, hmark⟩, hreply⟩

/-- The number under which a refused message is kept. -/
def refusedId (op msg : Nat) : Nat := if op = 4 ∨ 8 < op then msg + 2 ^ 32 else msg

theorem sendNak_sipReply (hset : ChannelSet g c s z) (hlow : c.ctlTx < 0xFFFFFFFE) (hnone : c.refused = []) (op psn msg status : Nat) :
    (∃ n, ChannelSet g { c with refused := [refusedId op msg], ctlTx := n } s (sendNak g op psn msg status z))
      ∧ SipReply [1, 8] z (sendNak g op psn msg status z)
      ∧ counter (sendNak g op psn msg status z) 0x4203 8 = satAdd64 (counter z 0x4203 8) 1 := by
  have hmark := hset.set { c with refused := [refusedId op msg] }
  obtain ⟨⟨n, hsent⟩, hsends⟩ := sendControl_sipReply hmark hlow 6 psn status msg 0 none
  have hreply : SipReply [1, 8] z (z.setChannel g { c with refused := [refusedId op msg] }) := sipReply_setChannel ..
  have heq : sendNak g op psn msg status z = sipCount 8 c.fn (sendControl g 6 psn status msg 0 none
      (z.setChannel g { c with refused := [refusedId op msg] })) := by
    unfold sendNak
    dsimp only
    rw [hset.same, hnone]
    rfl
  have hcount : counter (z.setChannel g { c with refused := [refusedId op msg] }) 0x4203 8 = counter z 0x4203 8 := rfl
  rw [heq]
  generalize z.setChannel g { c with refused := [refusedId op msg] } = y at hsent hsends hreply hcount ⊢
  generalize sendControl g 6 psn status msg 0 none y = w at hsent hsends ⊢
  have hlast := sipReply_sipCount (k := 8) (by decide) c.fn w
  refine ⟨⟨n, hsent.then (siphon_sipCount ..)⟩, ?_, ?_⟩
  · exact (hreply.trans (hsends.mono (by decide))).trans (hlast.mono (by decide))
  · rw [counter_sipCount, hsends.sip 8 (by decide) (by decide), hcount]

end Answer

/-! ### The PSN of a packet in order (R441) -/

section Psn
variable {t g : Nat} {p : SPacket} {judge : Channel → RxDo} {c : Channel} {s y : State}

/-- The packet is the next one the channel expects, with nothing after it and nothing refused. -/
structure NextUp (p : SPacket) (c : Channel) : Prop where
  psn : p.psn = c.expect
  lt : p.psn < 2 ^ 32
  rcvd : c.rcvd = []
  refused : c.refused = []
  low : c.ctlTx < 0xFFFFFFFE

theorem psnDist_self {n : Nat} (h : n < 2 ^ 32) : psnDist n n = 0 := by
  unfold psnDist
  omega

theorem rxPsn_judged (hy : y.channel g = c) (hnext : NextUp p c) : rxPsn t g p judge y = match judge c with
    | .drop counted => if counted then sipCount 6 c.fn y else y
    | .refuse st => sendNak g p.op p.psn p.msg st (if st = stACCESS then sipCount 7 c.fn y else y)
    | .take change => scheduleAck t g (pAckReq p) (sipCount 2 c.fn ((change y).setChannel g
        (slideE { (change y).channel g with rcvd := p.psn :: ((change y).channel g).rcvd } 1025))) := by
  unfold rxPsn
  dsimp only
  rw [hy, hnext.refused, hnext.rcvd, ← hnext.psn, psnDist_self hnext.lt]
  refine (if_neg (by simp)).trans ((if_neg (by simp)).trans ((if_neg (by simp)).trans ?_))
  cases judge c <;> rfl

theorem slideE_settled {c : Channel} (h : c.rcvd = []) : ∀ n, slideE c n = c
  | 0 => rfl
  | n + 1 => by
    unfold slideE
    rw [h]
    rfl

theorem slideE_next {c : Channel} {n : Nat} (h : c.rcvd = [c.expect]) :
    slideE c (n + 1) = { c with rcvd := [], expect := (c.expect + 1) % 2 ^ 32 } := by
  unfold slideE
  rw [if_pos (by rw [h]; simp), h, List.erase_cons_head]
  exact slideE_settled rfl n

/-- A packet that is accepted: the change it makes, then the next PSN is expected and it is counted. -/
theorem rxPsn_takes {c' : Channel} {change : State → State} (hy : y.channel g = c) (hnext : NextUp p c) (hjudge : judge c = .take change)
    (hset : ChannelSet g c' s (change y)) (hrcvd : c'.rcvd = []) (hexp : c'.expect = p.psn) (hlow : c'.ctlTx < 0xFFFFFFFE) :
    (∃ a b n, ChannelSet g (ackMarked a b n { c' with rcvd := [], expect := (p.psn + 1) % 2 ^ 32 }) s (rxPsn t g p judge y))
      ∧ SipReply [1, 2] (change y) (rxPsn t g p judge y)
      ∧ counter (rxPsn t g p judge y) 0x4203 2 = satAdd64 (counter (change y) 0x4203 2) 1 := by
  have heq := rxPsn_judged (t := t) (judge := judge) hy hnext
  rw [hjudge] at heq
  dsimp only at heq
  generalize change y = z at heq hset
  have hslid : slideE { c' with rcvd := [p.psn] } 1025 = { c' with rcvd := [], expect := (p.psn + 1) % 2 ^ 32 } :=
    (slideE_next (c := { c' with rcvd := [p.psn] }) (n := 1024) (congrArg (fun n => [n]) hexp.symm)).trans (by
      rw [show ({ c' with rcvd := [p.psn] } : Channel).expect = p.psn from hexp])
  rw [hset.same, hrcvd, hslid] at heq
  have hmoved := hset.set { c' with rcvd := [], expect := (p.psn + 1) % 2 ^ 32 }
  have hreply : SipReply [1, 2] z (z.setChannel g { c' with rcvd := [], expect := (p.psn + 1) % 2 ^ 32 }) := sipReply_setChannel ..
  have hcount : counter (z.setChannel g { c' with rcvd := [], expect := (p.psn + 1) % 2 ^ 32 }) 0x4203 2 = counter z 0x4203 2 := rfl
  generalize z.setChannel g { c' with rcvd := [], expect := (p.psn + 1) % 2 ^ 32 } = w at heq hmoved hreply hcount
  have hcounted : ChannelSet g { c' with rcvd := [], expect := (p.psn + 1) % 2 ^ 32 } s (sipCount 2 c.fn w) :=
    hmoved.then (siphon_sipCount ..)
  obtain ⟨hacked, hacks⟩ := scheduleAck_sipReply (t := t) hcounted hlow (pAckReq p)
  rw [heq]
  refine ⟨hacked, ?_, ?_⟩
  · exact (hreply.trans ((sipReply_sipCount (k := 2) (by decide) c.fn w).mono (by decide))).trans (hacks.mono (by decide))
  · rw [hacks.sip 2 (by decide) (by decide), counter_sipCount, hcount]

/-- A packet that is refused: its message is kept as refused, and a NAK leaves. -/
theorem rxPsn_refuses {st : Nat} (hset : ChannelSet g c s y) (hnext : NextUp p c) (hjudge : judge c = .refuse st) :
    (∃ n, ChannelSet g { c with refused := [refusedId p.op p.msg], ctlTx := n } s (rxPsn t g p judge y))
      ∧ SipReply [1, 7, 8] y (rxPsn t g p judge y)
      ∧ counter (rxPsn t g p judge y) 0x4203 8 = satAdd64 (counter y 0x4203 8) 1
      ∧ (st = stACCESS → counter (rxPsn t g p judge y) 0x4203 7 = satAdd64 (counter y 0x4203 7) 1) := by
  have heq := rxPsn_judged (t := t) (judge := judge) hset.same hnext
  rw [hjudge] at heq
  dsimp only at heq
  have hcounted : ChannelSet g c s (if st = stACCESS then sipCount 7 c.fn y else y)
      ∧ SipReply [7] y (if st = stACCESS then sipCount 7 c.fn y else y)
      ∧ (st = stACCESS → counter (if st = stACCESS then sipCount 7 c.fn y else y) 0x4203 7 = satAdd64 (counter y 0x4203 7) 1) := by
    split
    · exact ⟨hset.then (siphon_sipCount ..), sipReply_sipCount (by decide) c.fn y, fun _ => counter_sipCount ..⟩
    · next h => exact ⟨hset, .refl _ y, fun x => absurd x h⟩
  generalize (if st = stACCESS then sipCount 7 c.fn y else y) = w at heq hcounted
  obtain ⟨hwset, hreply, hseven⟩ := hcounted
  obtain ⟨hnaked, hnaks, height⟩ := sendNak_sipReply hwset hnext.low hnext.refused p.op p.psn p.msg st
  rw [heq]
  refine ⟨hnaked, (hreply.mono (by decide)).trans (hnaks.mono (by decide)), ?_, fun h => ?_⟩
  · rw [height, hreply.sip 8 (by decide) (by decide)]
  · rw [hnaks.sip 7 (by decide) (by decide), hseven h]

end Psn

end Sys2Proof.Machine
end

section
/-! A packet that its channel takes: what its arrival leaves (spec 13 R421, R422, R430), and the place of its data (R433, R436). -/

namespace Sys2Proof.Machine
open Sys2Proof

/-! ### Access that time and other blocks leave -/

section Host
variable {s u : State}

theorem sameHost_advance (t : Nat) (s : State) : SameHost s (advance t s) := by
  unfold advance
  split
  · exact SameHost.trans (u := { s with
      clock := t
      time := { s.time with num := s.time.num + (t - s.clock) * (65536 * ((10 ^ 12 : Int) + s.time.rate).toNat) } })
      ⟨rfl, rfl, rfl⟩ ((signals_countEv ..).transmits.sameHost.trans (signals_countEv ..).transmits.sameHost)
  · exact ⟨rfl, rfl, rfl⟩

theorem sameHost_of_frame {l : List Blk} (h : Frame l s u) (he : Blk.ep ∉ l) (hf : Blk.funcs ∉ l) (hp : Blk.polders ∉ l)
    (hw : Blk.wq ∉ l) : SameHost s u := by
  have hep := h.ep he
  have hfuncs := h.funcs hf
  refine ⟨?_, h.wq hw, h.polders hp⟩
  refine Eq.trans ?_ (congrArg (fun x : Endpoint => { x with asked := s.ep.asked }) hep)
  dsimp only
  rw [← hfuncs]

theorem acsBlocks_of_host (h : SameHost s u) (w : Requester) (addr len : Nat) : acsBlocks u w addr len = acsBlocks s w addr len := by
  have hbar (g a n : Nat) : inBarOf u g a n = inBarOf s g a n := by
    have hvf : u.ep.vfBars = s.ep.vfBars := (congrArg Endpoint.vfBars h.ep :)
    have hen : u.ep.vfEnable = s.ep.vfEnable := (congrArg Endpoint.vfEnable h.ep :)
    have hnum : u.ep.numVfs = s.ep.numVfs := (congrArg Endpoint.numVfs h.ep :)
    have hpage : u.ep.pageSize = s.ep.pageSize := (congrArg Endpoint.pageSize h.ep :)
    unfold inBarOf vfBarSize
    rw [h.func, hvf, hen, hnum, hpage]
  simp only [acsBlocks, h.func, hbar, translate_congr h.ep_funcs h.ep_cached]

end Host

/-! ### A packet that arrives -/

/-- From `s` to `y` packet `p` was taken from the engine's list at `t`, and noted for its path. -/
structure Arrived (t : Nat) (p : SPacket) (s y : State) : Prop where
  chan : ∃ paths, ChannelSet p.chan { s.channel p.chan with rxPaths := paths } s y
  host : SameHost s y
  rx : y.siphon.rx = s.siphon.rx.drop 1
  ddr : y.siphon.ddr = s.siphon.ddr
  jrn : y.jrn = s.jrn
  vals : y.dict.vals = s.dict.vals
  clock : y.clock = (advance t s).clock
  counts : ∀ idx k, k < 256 → idx ≠ 0x2B05 → counter y idx k = counter s idx k

section Arrives
variable {t op : Nat} {p : SPacket} {s : State}

theorem packetFits_congr {u : State} (h : u.dict.vals = s.dict.vals) (c : Channel) (r : SRx) :
    packetFits u c r = packetFits s c r := by
  unfold packetFits
  rw [cfgN_congr h]

theorem receives_advance (t : Nat) (h : Receives s op p) : Receives (advance t s) op p := by
  obtain ⟨r, rest, hrx, hgood, hparse, hop, hce, hculv, henc, hplain, hst, hst', hfits⟩ := h
  refine ⟨r, rest, by rwa [advance_siphon], hgood, hparse, hop, hce, (culvDown_advance ..).trans hculv, henc, ?_⟩
  rw [channel_advance]
  exact ⟨hplain, hst, hst', (packetFits_congr (congrArg Dict.vals (advance_dict s t)) ..).trans hfits⟩

theorem frame_rxPop (sid : Nat) (s : State) : Frame [.counters, .buf, .siphon] s (rxPop sid s) :=
  Frame.rxPop (.of_all (by decide)) (.refl _ s) sid

theorem siphon_releaseCopy (sid : Nat) (pipe : Option Nat) (s : State) : (releaseCopy sid pipe s).siphon = s.siphon :=
  (Frame.releaseCopy (l := [.counters, .buf]) (.of_all (by decide)) (.refl _ s) sid pipe).siphon (by decide)

theorem siphon_rxPop (sid : Nat) (s : State) : (rxPop sid s).siphon = { s.siphon with rx := s.siphon.rx.drop 1 } :=
  siphon_releaseCopy ..

theorem channel_rxPop (sid g : Nat) (s : State) : (rxPop sid s).channel g = s.channel g :=
  (congrArg (fun x : Siphon => Tab.get Channel.reset x.channels g) (siphon_rxPop sid s) :)

theorem clock_freeCell (die : Nat) (pipe : Option Nat) (owner c : Nat) (s : State) : (freeCell die pipe owner c s).clock = s.clock := by
  unfold freeCell
  dsimp only
  split
  · rfl
  · split
    · exact (raiseDie_clock ..).trans (count_clock ..)
    · split
      · exact (raiseDie_clock ..).trans (count_clock ..)
      · rfl

theorem clock_lowCheck (die : Nat) (s : State) : (lowCheck die s).clock = s.clock := by
  unfold lowCheck
  dsimp only
  split
  · exact raiseDie_clock ..
  · split
    · rfl
    · rfl

theorem clock_releaseCopy (sid : Nat) (pipe : Option Nat) (s : State) : (releaseCopy sid pipe s).clock = s.clock := by
  unfold releaseCopy
  split
  · rfl
  · split
    · rfl
    · exact (clock_lowCheck ..).trans (forEach_keeps State.clock (clock_freeCell _ _ _) _ _)

theorem clock_rxPop (sid : Nat) (s : State) : (rxPop sid s).clock = s.clock := clock_releaseCopy ..

theorem counter_rxPop (sid : Nat) (s : State) {idx k : Nat} (hk : k < 256) (hi : idx ≠ 0x2B05) :
    counter (rxPop sid s) idx k = counter s idx k := (counter_releaseCopy hk hi ..).trans rfl

/-- One more unmarked packet of a path. -/
def oneMore (x : RxPath) : RxPath := { x with count := x.count + 1 }

/-- The packet's note for its path. -/
def rxNoted (p : SPacket) (c : Channel) : Channel :=
  { c with rxPaths := Tab.set RxPath.reset c.rxPaths p.path (oneMore (Tab.get RxPath.reset c.rxPaths p.path)) }

theorem rxMark_clean (t g : Nat) (p : SPacket) (s : State) :
    rxMark t g p false s = s.setChannel g (rxNoted p (s.channel g)) := by
  unfold rxMark
  dsimp only
  rw [Bool.false_and, if_neg (by decide), if_neg (fun h => Bool.noConfusion h.1)]
  rfl

theorem rxServe_receives (h : Receives s op p) : ∃ sid, ∀ go,
    rxServe t op .clean go s = go p.chan p ((rxPop sid s).setChannel p.chan (rxNoted p (s.channel p.chan))) := by
  obtain ⟨r, rest, hrx, hgood, rfl, hop, hce, hculv, henc, hplain, hst, hst', hfits⟩ := h
  refine ⟨r.sid, fun go => ?_⟩
  have hchan := channel_rxPop r.sid (parsePacket r.bytes).chan s
  have hopen : rxOpen (rxPop r.sid s) (s.channel (parsePacket r.bytes).chan) (parsePacket r.bytes) = some (parsePacket r.bytes).payload := by
    unfold rxOpen
    rw [hplain, henc]
    rfl
  unfold rxServe
  rw [hrx]
  dsimp only [cellFault]
  rw [if_neg (by rw [hgood]; decide), if_neg (by rw [hplain, hop]; simp), if_neg (by rw [hculv]; decide)]
  refine (if_neg (c := false = true) (by decide)).trans ?_
  rw [hchan, if_neg hst, packetFits_congr ((frame_rxPop r.sid s).vals (by decide)), if_neg (by rw [hfits]; decide), hplain, Bool.false_and, hopen]
  dsimp only
  rw [if_neg hst', if_neg (by decide), hce, rxMark_clean, hchan]

theorem arrives (hcanon : Canonical s) (h : Receives s op p) : ∃ y, (∀ go, rxServe t op .clean go (advance t s) = go p.chan p y)
    ∧ Arrived t p s y := by
  obtain ⟨-, -, -, -, -, -, -, -, -, -, -, -, ⟨hwf, -⟩, -⟩ := hcanon
  obtain ⟨sid, hserve⟩ := rxServe_receives (t := t) (receives_advance t h)
  refine ⟨_, hserve, ?_⟩
  have hpop := frame_rxPop sid (advance t s)
  have hsip := siphon_rxPop sid (advance t s)
  have hcount : ∀ idx k, k < 256 → idx ≠ 0x2B05 → counter (rxPop sid (advance t s)) idx k = counter s idx k := fun idx k hk hi =>
    (counter_rxPop sid (advance t s) hk hi).trans (counter_advance ..)
  have hclock := clock_rxPop sid (advance t s)
  generalize rxPop sid (advance t s) = z at hpop hsip hcount hclock
  rw [channel_advance]
  rw [advance_siphon] at hsip
  have hzwf : Tab.wf Channel.reset z.siphon.channels = true := by rwa [hsip]
  have hset : ChannelSet p.chan (s.channel p.chan) s z :=
    ⟨hzwf, (congrArg (fun x : Siphon => Tab.get Channel.reset x.channels p.chan) hsip :),
      fun j _ => (congrArg (fun x : Siphon => Tab.get Channel.reset x.channels j) hsip :), (congrArg Siphon.regions hsip :)⟩
  have hframe : Frame [.counters, .buf, .siphon] (advance t s) (z.setChannel p.chan (rxNoted p (s.channel p.chan))) :=
    hpop.trans ((frame_setChannel ..).mono (.of_all (by decide)))
  exact ⟨⟨_, hset.set _⟩, (sameHost_advance t s).trans (sameHost_of_frame hframe (by decide) (by decide) (by decide) (by decide)),
    (congrArg Siphon.rx hsip :), (congrArg Siphon.ddr hsip :), (hframe.jrn (by decide)).trans (advance_jrn ..),
    (hframe.vals (by decide)).trans (congrArg Dict.vals (advance_dict s t)), hclock, hcount⟩

end Arrives

/-! ### Bytes of device DDR4 -/

section Ddr
variable {addr : Nat} {d : Bytes} {m : Tab (BitVec 8)} {s : State}

/-- The bytes `d` written from offset `k` of an address on. -/
def ddrFilled (addr k : Nat) (d : Bytes) (m : Tab (BitVec 8)) : Tab (BitVec 8) :=
  (d.zipIdx k).foldl (fun m e => Tab.set 0#8 m ((addr + e.2) % 2 ^ 41) e.1) m

theorem ddrFilled_cons (k : Nat) (b : BitVec 8) :
    ddrFilled addr k (b :: d) m = ddrFilled addr (k + 1) d (Tab.set 0#8 m ((addr + k) % 2 ^ 41) b) := rfl

theorem get_ddrFilled_before {i k : Nat} (hi : i < k) (hlen : k + d.length ≤ i + 2 ^ 41) :
    Tab.get 0#8 (ddrFilled addr k d m) ((addr + i) % 2 ^ 41) = Tab.get 0#8 m ((addr + i) % 2 ^ 41) := by
  induction d generalizing k m with
  | nil => rfl
  | cons b d ih =>
    rw [List.length_cons] at hlen
    rw [ddrFilled_cons, ih (by omega) (by omega), Tab.get_set_other]
    omega

theorem get_ddrFilled {j k : Nat} (hwf : Tab.wf 0#8 m = true) (hlen : d.length ≤ 2 ^ 41) (hj : j < d.length) :
    Tab.get 0#8 (ddrFilled addr k d m) ((addr + (k + j)) % 2 ^ 41) = d[j] := by
  induction d generalizing j k m with
  | nil => exact absurd hj (Nat.not_lt_zero _)
  | cons b d ih =>
    rw [List.length_cons] at hlen hj
    rw [ddrFilled_cons]
    cases j with
    | zero =>
      rw [get_ddrFilled_before (by omega) (by omega)]
      exact Tab.get_set_same _ _ hwf
    | succ j =>
      have h := ih (j := j) (k := k + 1) (Tab.wf_set ((addr + k) % 2 ^ 41) b hwf) (by omega) (by omega)
      rw [List.getElem_cons_succ, ← h, Nat.add_right_comm k 1 j, Nat.add_assoc k j 1]

theorem ddrRead_ddrWrite (hwf : Tab.wf 0#8 s.siphon.ddr = true) (hlen : d.length ≤ 2 ^ 41) :
    ddrRead (ddrWrite addr d s) addr d.length = d := by
  refine List.ext_getElem (by simp [ddrRead]) fun i h _ => ?_
  have hi : i < d.length := by simpa [ddrRead] using h
  have hget := get_ddrFilled (addr := addr) (k := 0) hwf hlen hi
  rw [Nat.zero_add] at hget
  rw [← hget]
  simp only [ddrRead, List.getElem_map, List.getElem_range]
  rfl

end Ddr

/-! ### The data of a packet at its place -/

section Place
variable {w : Requester} {addr : Nat} {data : Bytes} {s y z : State}

/-- From `y` to `z` bytes went to their place: nothing but device DDR4 and the endpoint changed. -/
structure Placed (y z : State) : Prop where
  host : SameHost y z
  siphon : { z.siphon with ddr := y.siphon.ddr } = y.siphon
  jrn : z.jrn = y.jrn
  dict : z.dict = y.dict

theorem Placed.counter (h : Placed y z) (i k : Nat) : counter z i k = counter y i k := counter_congr (congrArg Dict.counters h.dict) ..

theorem Placed.chan {g : Nat} {c : Channel} (h : Placed y z) (hset : ChannelSet g c s y) : ChannelSet g c s z := by
  have hchannels : z.siphon.channels = y.siphon.channels := (congrArg Siphon.channels h.siphon :)
  have hsame (j : Nat) : z.channel j = y.channel j := congrArg (fun m => Tab.get Channel.reset m j) hchannels
  exact ⟨by rw [hchannels]; exact hset.wf, (hsame g).trans hset.same, fun j hj => (hsame j).trans (hset.other j hj),
    ((congrArg Siphon.regions h.siphon :) : z.siphon.regions = y.siphon.regions).trans hset.regions⟩

theorem placed_of_transmits (h : Transmits y z) : Placed y z :=
  ⟨h.sameHost, congrArg (fun x : Siphon => { x with ddr := y.siphon.ddr }) h.siphon, h.jrn, h.dict⟩

theorem engineWrites_dmaWrite (h : SameHost s y) : EngineWrites s w addr data (dmaWrite w addr data y) := fun hruns p hp => by
  rw [← translate_congr h.ep_funcs h.ep_cached, ← pasidSent_congr h.ep_funcs]
  exact dmaWrite_out ((fnRuns_of_host h _).trans hruns) (by rwa [writeLimit_congr h.ep_funcs])

/-- A write of the engine that is not blocked: the bytes are there, and stay. -/
theorem regionWrite_places (h : SameHost s y) (hddr : y.siphon.ddr = s.siphon.ddr) (hwf : Tab.wf 0#8 s.siphon.ddr = true)
    (hacs : acsBlocks s w addr data.length = false) (hne : data ≠ []) (hlen : data.length ≤ 2 ^ 41) :
    Placed y (regionWrite w addr data y)
      ∧ ∀ u : State, u.siphon.ddr = (regionWrite w addr data y).siphon.ddr → (∀ o ∈ (regionWrite w addr data y).out, o ∈ u.out) →
        Places s w addr data u := by
  unfold regionWrite
  rw [if_neg hne, acsBlocks_of_host h, hacs, if_neg (by decide)]
  unfold memWrite
  cases hd : isDdr addr with
  | false =>
    refine ⟨placed_of_transmits (transmits_dmaWrite ..), fun u _ hout => ⟨fun _ hruns p hp => ?_, fun hx => ?_⟩⟩
    · exact hout _ (engineWrites_dmaWrite h hruns p hp)
    · rw [hd] at hx
      cases hx
  | true =>
    refine ⟨⟨⟨rfl, rfl, rfl⟩, rfl, rfl, rfl⟩, fun u hu _ => ⟨fun hx => ?_, fun _ => ?_⟩⟩
    · rw [hd] at hx
      cases hx
    · have hread := ddrRead_ddrWrite (addr := addr) (d := data) (s := y) (by rwa [hddr]) hlen
      have hsame : ddrRead u addr data.length = ddrRead (ddrWrite addr data y) addr data.length := by
        have hu' : u.siphon.ddr = (ddrWrite addr data y).siphon.ddr := hu
        simp only [ddrRead, hu']
      exact hsame.trans hread

end Place

end Sys2Proof.Machine
end

section
/-! SIPHON_RX_WRITE and SIPHON_RX_WRITE_IMM (spec 13 R436, R441 to R444). -/

namespace Sys2Proof.Machine
open Sys2Proof

/-! ### A packet that is accepted, and one that is refused -/

section Outcome
variable {t : Nat} {p : SPacket} {judge : Channel → RxDo} {c c' : Channel} {s y : State}

theorem inOrder_next {paths : Tab RxPath} (h : InOrder s p) : NextUp p { s.channel p.chan with rxPaths := paths } :=
  have ⟨hpsn, hlt, hrcvd, hrefused, hlow⟩ := h
  ⟨hpsn, hlt, hrcvd, hrefused, hlow⟩

theorem takesPacket {u : State} (ha : Arrived t p s y) (hset : ChannelSet p.chan c s u) (hrx : u.siphon.rx = y.siphon.rx) :
    TakesPacket p.chan s u := ⟨hrx.trans ha.rx, hset.regions, hset.other⟩

theorem packetAccepted {change : State → State} (ha : Arrived t p s y) (hy : y.channel p.chan = c) (hnext : NextUp p c)
    (hjudge : judge c = .take change) (hset : ChannelSet p.chan c' s (change y)) (hrcvd : c'.rcvd = []) (hexp : c'.expect = p.psn)
    (hlow : c'.ctlTx < 0xFFFFFFFE) (hrx : (change y).siphon.rx = y.siphon.rx)
    (hcount : counter (change y) 0x4203 2 = counter y 0x4203 2) :
    (∃ a b n, ChannelSet p.chan (ackMarked a b n { c' with rcvd := [], expect := (p.psn + 1) % 2 ^ 32 }) s
        (rxPsn t p.chan p judge y))
      ∧ TakesPacket p.chan s (rxPsn t p.chan p judge y) ∧ SipReply [1, 2] (change y) (rxPsn t p.chan p judge y)
      ∧ counter (rxPsn t p.chan p judge y) 0x4203 2 = satAdd64 (counter s 0x4203 2) 1 := by
  obtain ⟨⟨a, b, n, hacked⟩, hreply, htwo⟩ := rxPsn_takes (t := t) hy hnext hjudge hset hrcvd hexp hlow
  exact ⟨⟨a, b, n, hacked⟩, takesPacket ha hacked (hreply.rx.trans hrx), hreply, by
    rw [htwo, hcount, ha.counts _ _ (by decide) (by decide)]⟩

theorem packetRefused {st : Nat} (ha : Arrived t p s y) (hset : ChannelSet p.chan c s y) (hnext : NextUp p c)
    (hjudge : judge c = .refuse st) :
    (∃ n, (rxPsn t p.chan p judge y).channel p.chan = { c with refused := [refusedId p.op p.msg], ctlTx := n })
      ∧ TakesPacket p.chan s (rxPsn t p.chan p judge y) ∧ SipReply [1, 7, 8] y (rxPsn t p.chan p judge y)
      ∧ counter (rxPsn t p.chan p judge y) 0x4203 8 = satAdd64 (counter s 0x4203 8) 1
      ∧ (st = stACCESS → counter (rxPsn t p.chan p judge y) 0x4203 7 = satAdd64 (counter s 0x4203 7) 1) := by
  obtain ⟨⟨n, hnaked⟩, hreply, height, hseven⟩ := rxPsn_refuses (t := t) hset hnext hjudge
  refine ⟨⟨n, hnaked.same⟩, takesPacket ha hnaked hreply.rx, hreply, ?_, fun h => ?_⟩
  · rw [height, ha.counts _ _ (by decide) (by decide)]
  · rw [hseven h, ha.counts _ _ (by decide) (by decide)]

end Outcome

/-! ### A message of one packet -/

section Whole
variable {g : Nat} {p : SPacket} {c : Channel} {s y z : State}

/-- The assembly entry of a message that starts. -/
def newAsm (p : SPacket) (st : Nat) : SAsm where
  msg := p.msg
  op := p.op
  len := p.len
  key := p.key
  addr := p.addr
  imm := beNat p.imm
  state := st
  got := []

theorem asmFor_new (h : c.asm = []) : asmFor c p = some (newAsm p c.state) := by
  unfold asmFor asmAt
  rw [h]
  rfl

/-- The message is one packet. -/
structure OnePacket (c : Channel) (p : SPacket) : Prop where
  off : p.off = 0
  pos : 0 < p.len
  fits : p.len ≤ chPayload c
  payload : p.payload.length = p.len
  asm : c.asm = []

theorem msgPackets_one (h : OnePacket c p) : msgPackets c p.len = 1 := by
  have := h.pos
  have := h.fits
  unfold msgPackets ceilDiv
  exact Nat.div_eq_of_lt_le (by omega) (by omega)

theorem packetSized_one (h : OnePacket c p) : packetSized c p p.len = true := by
  unfold packetSized
  rw [h.off, h.payload, Nat.zero_mod, Nat.sub_zero, Nat.min_eq_right h.fits, decide_eq_true rfl, decide_eq_true h.pos, decide_eq_true rfl]
  rfl

/-- The message is noted, and is whole with it. -/
theorem asmPut_whole (hset : ChannelSet g c s z) (h : OnePacket c p) (st : Nat) :
    asmFull ((asmPut g (newAsm p st) 0 z).channel g) p.op p.msg p.len = true
      ∧ ChannelSet g c s (asmDrop g p.op p.msg (asmPut g (newAsm p st) 0 z))
      ∧ asmDrop g p.op p.msg (asmPut g (newAsm p st) 0 z)
        = { z with siphon := (asmDrop g p.op p.msg (asmPut g (newAsm p st) 0 z)).siphon }
      ∧ SipReply [] z (asmDrop g p.op p.msg (asmPut g (newAsm p st) 0 z)) := by
  have hput : asmPut g (newAsm p st) 0 z = z.setChannel g { c with asm := [{ newAsm p st with got := [0] }] } := by
    unfold asmPut
    dsimp only
    rw [hset.same, h.asm]
    rfl
  have hmark := hset.set { c with asm := [{ newAsm p st with got := [0] }] }
  have hdrop : asmDrop g p.op p.msg (asmPut g (newAsm p st) 0 z)
      = (z.setChannel g { c with asm := [{ newAsm p st with got := [0] }] }).setChannel g c := by
    unfold asmDrop
    dsimp only
    rw [hput, hmark.same]
    have hgone : [{ newAsm p st with got := [0] }].filter (fun x : SAsm => decide (x.op ≠ p.op ∨ x.msg ≠ p.msg)) = [] := by
      simp [newAsm]
    rw [hgone]
    congr 1
    rw [← h.asm]
  rw [hdrop]
  refine ⟨?_, hmark.set c, rfl, (sipReply_setChannel [] g _).trans (sipReply_setChannel [] g _)⟩
  rw [hput, hmark.same]
  unfold asmFull asmAt
  rw [List.find?_cons_of_pos (by simp [newAsm])]
  exact decide_eq_true (by
    show 1 = msgPackets c p.len
    rw [msgPackets_one h])

end Whole

/-! ### A WRITE at its region -/

section Write
variable {t g : Nat} {p : SPacket} {r : Region} {c : Channel} {s y : State}

/-- The engine for a region of the channel's polder. -/
def regionReq (c : Channel) (r : Region) : Requester where
  fn := c.fn
  q := none
  pasid := r.pasid

/-- The state a message's first packet is checked in. -/
def startState (y : State) (c : Channel) (p : SPacket) : Nat := if p.op = 2 then stateSeen y c else c.state

/-- The data are placed, and the message has ended. -/
def wholeAt (g : Nat) (p : SPacket) (c : Channel) (r : Region) (st : Nat) (y : State) : State :=
  asmDrop g p.op p.msg (asmPut g (newAsm p st) 0 (regionWrite (regionReq c r) p.addr p.payload y))

/-- A notification with immediate `v` is held, and meets the oldest posted entry. -/
def noteAdded (g v : Nat) (y : State) : State :=
  matchNotes g 1 (y.setChannel g { y.channel g with notes := (y.channel g).notes ++ [v] })

theorem asmFor_start (h : c.asm = []) :
    asmFor (if p.op = 2 then { c with state := stateSeen y c } else c) p = some (newAsm p (startState y c p)) := by
  unfold startState
  split
  · exact asmFor_new (c := { c with state := stateSeen y c }) h
  · exact asmFor_new h

theorem judgeWrite_refuses (h : c.asm = []) (hop : p.op = 2) (hbad : stateSeen y c = 3 ∨ 32 ≤ c.notes.length) :
    ∃ st, st ≠ stACCESS ∧ judgeWrite g p y c = .refuse st := by
  unfold judgeWrite
  rw [asmFor_start h]
  by_cases h3 : stateSeen y c = 3
  · exact ⟨stSTATE, by decide, if_pos ⟨rfl, hop, h3⟩⟩
  · refine ⟨stNO_RESOURCE, by decide, ?_⟩
    dsimp only
    rw [if_neg (fun x => h3 x.2.2), if_pos ⟨rfl, hop, hbad.resolve_left h3⟩]

section Started
variable (h : OnePacket c p) (hseen : p.op = 2 → stateSeen y c ≠ 3) (hnotes : p.op = 2 → c.notes.length < 32)
include h hseen hnotes

theorem judgeWrite_noRegion (hkey : keyRegion y c p.key 3 p.addr p.len = none) : judgeWrite g p y c = .refuse stACCESS := by
  unfold judgeWrite
  rw [asmFor_start h.asm]
  dsimp only
  rw [if_neg (fun x => hseen x.2.1 x.2.2), if_neg (fun x => absurd (hnotes x.2.1) (Nat.not_lt_of_le x.2.2)),
    if_neg (by rw [packetSized_one h]; simp [newAsm]), h.off, Nat.add_zero, h.payload, hkey]

theorem judgeWrite_takes (hkey : keyRegion y c p.key 3 p.addr p.len = some r) (hst : startState y c p ≠ 5) :
    ∃ change, judgeWrite g p y c = .take change ∧ ∀ z, ChannelSet g c s (regionWrite (regionReq c r) p.addr p.payload z) →
      change z = if p.op = 2 then noteAdded g (beNat p.imm) (wholeAt g p c r (startState y c p) z)
        else wholeAt g p c r (startState y c p) z := by
  unfold judgeWrite
  rw [asmFor_start h.asm]
  dsimp only
  rw [if_neg (fun x => hseen x.2.1 x.2.2), if_neg (fun x => absurd (hnotes x.2.1) (Nat.not_lt_of_le x.2.2)),
    if_neg (by rw [packetSized_one h]; simp [newAsm]), h.off, Nat.add_zero, h.payload, hkey]
  refine ⟨_, rfl, fun z hz => ?_⟩
  obtain ⟨hfull, -⟩ := asmPut_whole hz h (startState y c p)
  have hplace : (newAsm p (startState y c p)).state ≠ 5 := hst
  rw [if_neg hplace, Nat.zero_div]
  exact if_pos hfull

end Started

end Write

/-! ### What a WRITE leaves -/

section Wrote
variable {t g st : Nat} {p : SPacket} {r : Region} {c : Channel} {s y : State}

/-- From `y` to `z` the data of a packet were placed for the region's engine, and channels changed. -/
structure Wrote (c : Channel) (r : Region) (p : SPacket) (s y z : State) : Prop where
  wq : z.wq = s.wq
  jrn : z.jrn = s.jrn
  rx : z.siphon.rx = y.siphon.rx
  counts : ∀ i k, counter z i k = counter y i k
  places : ∀ u : State, u.siphon.ddr = z.siphon.ddr → (∀ o ∈ z.out, o ∈ u.out) → Places s (regionReq c r) p.addr p.payload u

theorem payload_le {b : Bytes} (h : OnePacket c (parsePacket b)) : (parsePacket b).payload.length ≤ 2 ^ 41 := by
  have hslice : (slice b 16 4).length ≤ 4 := by
    unfold slice
    rw [List.length_take]
    exact Nat.min_le_left ..
  have hlen : beField b 16 4 < 256 ^ 4 := (beNat_lt (slice b 16 4)).trans_le (Nat.pow_le_pow_right (by decide) hslice)
  rw [h.payload]
  show beField b 16 4 ≤ _
  omega

theorem wholeAt_wrote (ha : Arrived t p s y) (hset : ChannelSet p.chan c s y) (h : OnePacket c p) (hlen : p.payload.length ≤ 2 ^ 41)
    (hwf : Tab.wf 0#8 s.siphon.ddr = true) (hacs : acsBlocks s (regionReq c r) p.addr p.len = false) (st : Nat) :
    ChannelSet p.chan c s (regionWrite (regionReq c r) p.addr p.payload y)
      ∧ ChannelSet p.chan c s (wholeAt p.chan p c r st y) ∧ Wrote c r p s y (wholeAt p.chan p c r st y) := by
  have hne : p.payload ≠ [] := fun x => by
    have := h.pos
    rw [← h.payload, x] at this
    cases this
  obtain ⟨hplaced, hplaces⟩ := regionWrite_places (w := regionReq c r) (addr := p.addr) (data := p.payload) ha.host ha.ddr hwf
    (by rwa [h.payload]) hne hlen
  have hz := hplaced.chan hset
  unfold wholeAt
  generalize regionWrite (regionReq c r) p.addr p.payload y = z at hplaced hplaces hz
  obtain ⟨-, hdrop, heq, hreply⟩ := asmPut_whole hz h st
  have hcount : ∀ i k, counter (asmDrop p.chan p.op p.msg (asmPut p.chan (newAsm p st) 0 z)) i k = counter z i k := fun i k => by
    rw [heq]
    rfl
  refine ⟨hz, hdrop, ?_, ?_, ?_, fun i k => (hcount i k).trans (hplaced.counter i k), fun u hu hout => ?_⟩
  · rw [hreply.wq, hplaced.host.wq, ha.host.wq]
  · rw [hreply.jrn, hplaced.jrn, ha.jrn]
  · rw [hreply.rx]
    exact (congrArg Siphon.rx hplaced.siphon :)
  · exact hplaces u (hu.trans hreply.ddr) fun o ho => hout o (hreply.out o ho)

/-- A chain that ends leaves the channels, the journal, the output and the counters. -/
theorem finishChain_leaves (fn q first status result : Nat) (z : State) :
    (finishChain fn q first status result z).siphon = z.siphon ∧ (finishChain fn q first status result z).jrn = z.jrn
      ∧ (finishChain fn q first status result z).out = z.out
      ∧ (finishChain fn q first status result z).dict = z.dict := ⟨rfl, rfl, rfl, rfl⟩

/-- A chain that ends where the queues were as before. -/
theorem endsChain_finishChain {fn q first status result : Nat} {u w : State} (hq : Tab.wf Queue.reset s.wq.queues = true)
    (hw : w.wq = s.wq) (hu : u.wq = (finishChain fn q first status result w).wq) :
    EndsChain fn q first status result s u ∧ OtherQueues fn q s u := by
  obtain ⟨-, hsame, hother⟩ := queueSet_finishChain (fn := fn) (q := q) (first := first) (status := status) (result := result)
    (s := w) (by rwa [hw])
  refine ⟨?_, fun f p hk => ?_⟩
  · rw [EndsChain, queue_congr hu, hsame, queue_congr hw]
  · rw [queue_congr hu, hother f p hk, queue_congr hw]

/-- A notification that joins those held: it stays, or the oldest ends the oldest posted entry. -/
theorem noteAdded_spec {z : State} (hz : ChannelSet g c s z) (v : Nat) :
    (c.recvs = [] → ChannelSet g { c with notes := c.notes ++ [v] } s (noteAdded g v z)
      ∧ noteAdded g v z = z.setChannel g { c with notes := c.notes ++ [v] })
    ∧ ∀ o os, c.recvs = o :: os → ∃ v' vs, c.notes ++ [v] = v' :: vs
      ∧ ChannelSet g { c with notes := vs, recvs := os } s (noteAdded g v z)
      ∧ ∃ w, SipReply [] z w ∧ noteAdded g v z = finishChain o.1 o.2.1 o.2.2 stOK v' w := by
  have hmark := hz.set { c with notes := c.notes ++ [v] }
  unfold noteAdded
  rw [hz.same]
  refine ⟨fun hr => ?_, fun o os hr => ?_⟩
  · have heq : matchNotes g 1 (z.setChannel g { c with notes := c.notes ++ [v] }) = z.setChannel g { c with notes := c.notes ++ [v] } := by
      unfold matchNotes
      dsimp only
      rw [hmark.same, hr]
      cases c.notes <;> rfl
    rw [heq]
    exact ⟨hmark, rfl⟩
  · obtain ⟨v', vs, hv⟩ := List.exists_cons_of_ne_nil (show c.notes ++ [v] ≠ [] by simp)
    have heq : matchNotes g 1 (z.setChannel g { c with notes := c.notes ++ [v] }) = finishChain o.1 o.2.1 o.2.2 stOK v'
        ((z.setChannel g { c with notes := c.notes ++ [v] }).setChannel g { c with notes := vs, recvs := os }) := by
      unfold matchNotes
      dsimp only
      rw [hmark.same, hr]
      dsimp only
      rw [hv]
      rfl
    rw [heq]
    exact ⟨v', vs, hv, (hmark.set { c with notes := vs, recvs := os }).then (finishChain_leaves ..).1, _,
      (sipReply_setChannel [] g _).trans (sipReply_setChannel [] g _), rfl⟩

end Wrote

/-! ### The runs -/

section RunsWrite
variable {t : Nat} {p : SPacket} {r : Region} {s : State}

/-- The channel of a packet that arrives: as it was, but for the note of its path. -/
theorem arrives_noted (hcanon : Canonical s) (h : Receives s op p) : ∃ y paths,
    (∀ go, rxServe t op .clean go (advance t s) = go p.chan p y) ∧ Arrived t p s y
      ∧ ChannelSet p.chan { s.channel p.chan with rxPaths := paths } s y := by
  obtain ⟨y, hserve, ha⟩ := arrives (t := t) hcanon h
  obtain ⟨paths, hset⟩ := ha.chan
  exact ⟨y, paths, hserve, ha, hset⟩

theorem keyRegion_congr {y : State} {paths : Tab RxPath} (h : y.siphon.regions = s.siphon.regions) (c : Channel)
    (key right addr len : Nat) : keyRegion y { c with rxPaths := paths } key right addr len = keyRegion s c key right addr len := by
  have hregion : ∀ g, y.region g = s.region g := fun g => congrArg (fun m => Tab.get Region.reset m g) h
  unfold keyRegion
  dsimp only
  rw [hregion]
  rfl

theorem payload_le_of_receives (h : Receives s op p) (hone : OnePacket c p) : p.payload.length ≤ 2 ^ 41 := by
  obtain ⟨x, -, -, -, rfl, -⟩ := h
  exact payload_le hone

theorem receives_op (h : Receives s op p) : p.op = op := by
  obtain ⟨x, -, -, -, -, hop, -⟩ := h
  exact hop

theorem stateSeen_congr {y : State} {paths : Tab RxPath} (h : y.clock = (advance t s).clock) (c : Channel) :
    stateSeen y { c with rxPaths := paths } = stateSeen (advance t s) c := by
  unfold stateSeen
  rw [h]

variable (hcanon : Canonical s) (hord : InOrder s p)
include hcanon hord

theorem runs_write (h : Receives s 1 p) (hkey0 : p.key ≠ 0) (hone : OnePacket (s.channel p.chan) p) (hst : (s.channel p.chan).state ≠ 5)
    (hkey : keyRegion s (s.channel p.chan) p.key 3 p.addr p.len = some r)
    (hacs : acsBlocks s { fn := (s.channel p.chan).fn, q := none, pasid := r.pasid } p.addr p.len = false) :
    Runs (.siphonRxWrite ⟨t, .clean⟩) s (fun u => TakesPacket p.chan s u ∧ u.wq = s.wq ∧ u.jrn = s.jrn
      ∧ Places s { fn := (s.channel p.chan).fn, q := none, pasid := r.pasid } p.addr p.payload u
      ∧ (u.channel p.chan).expect = (p.psn + 1) % 2 ^ 32 ∧ (u.channel p.chan).rcvd = []
      ∧ (u.channel p.chan).asm = [] ∧ (u.channel p.chan).msgs = (s.channel p.chan).msgs
      ∧ counter u 0x4203 2 = satAdd64 (counter s 0x4203 2) 1) := by
  obtain ⟨y, paths, hserve, ha, hset⟩ := arrives_noted (t := t) hcanon h
  obtain ⟨-, -, -, -, -, -, -, -, -, -, -, -, ⟨-, -, hddr⟩, -⟩ := hcanon
  have hop := receives_op h
  have hone' : OnePacket { s.channel p.chan with rxPaths := paths } p := ⟨hone.off, hone.pos, hone.fits, hone.payload, hone.asm⟩
  have hnot2 : p.op ≠ 2 := by rw [hop]; decide
  obtain ⟨change, hjudge, hchange⟩ := judgeWrite_takes (g := p.chan) (s := s) hone' (fun x => absurd x hnot2) (fun x => absurd x hnot2)
    ((keyRegion_congr hset.regions ..).trans hkey) (by unfold startState; rw [if_neg hnot2]; exact hst)
  obtain ⟨hz, hwhole, hwrote⟩ := wholeAt_wrote (r := r) ha hset hone' (payload_le_of_receives h hone) hddr hacs
    (startState y { s.channel p.chan with rxPaths := paths } p)
  have heq := hchange y hz
  rw [if_neg hnot2] at heq
  rw [← heq] at hwhole hwrote
  have hnext := inOrder_next (paths := paths) hord
  obtain ⟨⟨a, b, n, hchan⟩, htakes, hreply, hcount⟩ := packetAccepted (t := t)
    (judge := fun c => if p.key = 0 then judgeStaging p.chan p c else judgeWrite p.chan p y c) ha hset.same hnext
    ((if_neg hkey0).trans hjudge) hwhole hnext.rcvd hnext.psn.symm hnext.low hwrote.rx (hwrote.counts ..)
  refine ⟨_, congrArg Host.Outcome.next (hserve _), htakes, hreply.wq.trans hwrote.wq, hreply.jrn.trans hwrote.jrn,
    hwrote.places _ hreply.ddr hreply.out, ?_, ?_, ?_, ?_, hcount⟩
  · rw [hchan.same]
    rfl
  · rw [hchan.same]
    rfl
  · rw [hchan.same]
    exact hone.asm
  · rw [hchan.same]
    rfl

theorem runs_writeNoRegion (h : Receives s 1 p) (hkey0 : p.key ≠ 0) (hone : OnePacket (s.channel p.chan) p)
    (hkey : keyRegion s (s.channel p.chan) p.key 3 p.addr p.len = none) :
    Runs (.siphonRxWrite ⟨t, .clean⟩) s (fun u => TakesPacket p.chan s u ∧ (u.channel p.chan).expect = p.psn
      ∧ (u.channel p.chan).refused = [p.msg] ∧ u.siphon.ddr = s.siphon.ddr
      ∧ counter u 0x4203 7 = satAdd64 (counter s 0x4203 7) 1
      ∧ counter u 0x4203 8 = satAdd64 (counter s 0x4203 8) 1) := by
  obtain ⟨y, paths, hserve, ha, hset⟩ := arrives_noted (t := t) hcanon h
  have hop := receives_op h
  have hnot2 : p.op ≠ 2 := by rw [hop]; decide
  have hnext := inOrder_next (paths := paths) hord
  have hjudge : judgeWrite p.chan p y { s.channel p.chan with rxPaths := paths } = .refuse stACCESS :=
    judgeWrite_noRegion (c := { s.channel p.chan with rxPaths := paths }) ⟨hone.off, hone.pos, hone.fits, hone.payload, hone.asm⟩
      (fun x => absurd x hnot2) (fun x => absurd x hnot2) ((keyRegion_congr hset.regions ..).trans hkey)
  obtain ⟨⟨n, hchan⟩, htakes, hreply, height, hseven⟩ := packetRefused (t := t)
    (judge := fun c => if p.key = 0 then judgeStaging p.chan p c else judgeWrite p.chan p y c) ha hset hnext
    ((if_neg hkey0).trans hjudge)
  refine ⟨_, congrArg Host.Outcome.next (hserve _), htakes, ?_, ?_, hreply.ddr.trans ha.ddr, hseven rfl, height⟩
  · rw [hchan]
    exact hord.1.symm
  · rw [hchan]
    show [refusedId p.op p.msg] = _
    rw [hop]
    rfl

theorem runs_writeImm (h : Receives s 2 p) (hone : OnePacket (s.channel p.chan) p) (hnotes : (s.channel p.chan).notes.length < 32)
    (hseen : stateSeen (advance t s) (s.channel p.chan) = 1 ∨ stateSeen (advance t s) (s.channel p.chan) = 2)
    (hkey : keyRegion s (s.channel p.chan) p.key 3 p.addr p.len = some r)
    (hacs : acsBlocks s { fn := (s.channel p.chan).fn, q := none, pasid := r.pasid } p.addr p.len = false) :
    Runs (.siphonRxWriteImm ⟨t, .clean⟩) s (fun u => TakesPacket p.chan s u ∧ u.jrn = s.jrn
      ∧ Places s { fn := (s.channel p.chan).fn, q := none, pasid := r.pasid } p.addr p.payload u
      ∧ (u.channel p.chan).expect = (p.psn + 1) % 2 ^ 32 ∧ counter u 0x4203 2 = satAdd64 (counter s 0x4203 2) 1
      ∧ ((s.channel p.chan).recvs = [] → (u.channel p.chan).notes = (s.channel p.chan).notes ++ [beNat p.imm]
          ∧ u.wq = s.wq)
      ∧ (∀ o os, (s.channel p.chan).recvs = o :: os → (s.channel p.chan).notes = [] →
          (u.channel p.chan).notes = [] ∧ (u.channel p.chan).recvs = os
          ∧ EndsChain o.1 o.2.1 o.2.2 0 (beNat p.imm) s u ∧ OtherQueues o.1 o.2.1 s u)) := by
  obtain ⟨y, paths, hserve, ha, hset⟩ := arrives_noted (t := t) hcanon h
  obtain ⟨-, -, -, -, -, -, -, -, -, -, hqueues, -, ⟨-, -, hddr⟩, -⟩ := hcanon
  have hop := receives_op h
  have hone' : OnePacket { s.channel p.chan with rxPaths := paths } p := ⟨hone.off, hone.pos, hone.fits, hone.payload, hone.asm⟩
  have hseen' : stateSeen y { s.channel p.chan with rxPaths := paths } = 1 ∨ stateSeen y { s.channel p.chan with rxPaths := paths } = 2 := by
    rw [stateSeen_congr ha.clock]
    exact hseen
  have hstart : startState y { s.channel p.chan with rxPaths := paths } p ≠ 5 := by
    unfold startState
    rw [if_pos hop]
    omega
  obtain ⟨change, hjudge, hchange⟩ := judgeWrite_takes (g := p.chan) (s := s) hone' (fun _ => by omega) (fun _ => hnotes)
    ((keyRegion_congr hset.regions ..).trans hkey) hstart
  obtain ⟨hz, hwhole, hwrote⟩ := wholeAt_wrote (r := r) ha hset hone' (payload_le_of_receives h hone) hddr hacs
    (startState y { s.channel p.chan with rxPaths := paths } p)
  have heq := hchange y hz
  rw [if_pos hop] at heq
  generalize wholeAt p.chan p { s.channel p.chan with rxPaths := paths } r (startState y { s.channel p.chan with rxPaths := paths } p) y = z
    at heq hwhole hwrote
  have hzq : Tab.wf Queue.reset z.wq.queues = true := by rwa [hwrote.wq]
  obtain ⟨hheld, hmet⟩ := noteAdded_spec hwhole (beNat p.imm)
  have hnext := inOrder_next (paths := paths) hord
  cases hr : (s.channel p.chan).recvs with
  | nil =>
    obtain ⟨hchan, hnoted⟩ := hheld hr
    rw [← heq] at hchan hnoted
    obtain ⟨⟨a, b, n, hlast⟩, htakes, hreply, hcount⟩ := packetAccepted (t := t) (judge := judgeWrite p.chan p y) ha hset.same hnext
      hjudge hchan hnext.rcvd hnext.psn.symm hnext.low (by rw [hnoted]; exact hwrote.rx) (by rw [hnoted]; exact hwrote.counts ..)
    rw [hnoted] at hreply
    refine ⟨_, congrArg Host.Outcome.next (hserve _), htakes, hreply.jrn.trans hwrote.jrn, hwrote.places _ hreply.ddr hreply.out, ?_,
      hcount, fun _ => ⟨?_, hreply.wq.trans hwrote.wq⟩, fun o os ho => nomatch ho⟩
    · rw [hlast.same]
      rfl
    · rw [hlast.same]
      rfl
  | cons o os =>
    obtain ⟨v, vs, hv, hchan, w, hw, hnoted⟩ := hmet o os hr
    rw [← heq] at hchan hnoted
    have hkept : (change y).siphon.rx = z.siphon.rx ∧ (change y).jrn = z.jrn ∧ (change y).siphon.ddr = z.siphon.ddr
        ∧ (∀ x ∈ z.out, x ∈ (change y).out) ∧ counter (change y) 0x4203 2 = counter z 0x4203 2 := by
      rw [hnoted]
      obtain ⟨hsip, hjrn, hout, hdict⟩ := finishChain_leaves o.1 o.2.1 o.2.2 stOK v w
      exact ⟨(congrArg Siphon.rx hsip).trans hw.rx, hjrn.trans hw.jrn, (congrArg Siphon.ddr hsip).trans hw.ddr,
        fun x hx => by rw [hout]; exact hw.out x hx,
        (counter_congr (congrArg Dict.counters hdict) ..).trans (hw.sip 2 (by decide) (by decide))⟩
    obtain ⟨hkrx, hkjrn, hkddr, hkout, hkcount⟩ := hkept
    obtain ⟨⟨a, b, n, hlast⟩, htakes, hreply, hcount⟩ := packetAccepted (t := t) (judge := judgeWrite p.chan p y) ha hset.same hnext
      hjudge hchan hnext.rcvd hnext.psn.symm hnext.low (hkrx.trans hwrote.rx) (hkcount.trans (hwrote.counts ..))
    refine ⟨_, congrArg Host.Outcome.next (hserve _), htakes, hreply.jrn.trans (hkjrn.trans hwrote.jrn),
      hwrote.places _ (hreply.ddr.trans hkddr) (fun x hx => hreply.out x (hkout x hx)), ?_, hcount,
      (fun ho => nomatch ho), fun o' os' ho hempty => ?_⟩
    · rw [hlast.same]
      rfl
    · obtain ⟨rfl, rfl⟩ := List.cons.inj ho
      rw [hempty, List.nil_append] at hv
      obtain ⟨rfl, rfl⟩ := List.cons.inj hv
      have hends := endsChain_finishChain (fn := o.1) (q := o.2.1) (first := o.2.2) (status := stOK) (result := beNat p.imm) hqueues
        (hw.wq.trans hwrote.wq) (hreply.wq.trans (congrArg State.wq hnoted))
      refine ⟨?_, ?_, hends⟩
      · rw [hlast.same]
        rfl
      · rw [hlast.same]
        rfl

theorem runs_writeImmRefused (h : Receives s 2 p) (hasm : (s.channel p.chan).asm = [])
    (hbad : stateSeen (advance t s) (s.channel p.chan) = 3 ∨ 32 ≤ (s.channel p.chan).notes.length) :
    Runs (.siphonRxWriteImm ⟨t, .clean⟩) s (fun u => TakesPacket p.chan s u ∧ u.wq = s.wq
      ∧ (u.channel p.chan).expect = p.psn ∧ (u.channel p.chan).refused = [p.msg]
      ∧ (u.channel p.chan).notes = (s.channel p.chan).notes
      ∧ counter u 0x4203 8 = satAdd64 (counter s 0x4203 8) 1) := by
  obtain ⟨y, paths, hserve, ha, hset⟩ := arrives_noted (t := t) hcanon h
  have hop := receives_op h
  have hnext := inOrder_next (paths := paths) hord
  obtain ⟨st, -, hjudge⟩ := judgeWrite_refuses (g := p.chan) (c := { s.channel p.chan with rxPaths := paths }) (y := y) hasm hop
    (by rw [stateSeen_congr ha.clock]; exact hbad)
  obtain ⟨⟨n, hchan⟩, htakes, hreply, height, -⟩ := packetRefused (t := t) (judge := judgeWrite p.chan p y) ha hset hnext hjudge
  refine ⟨_, congrArg Host.Outcome.next (hserve _), htakes, hreply.wq.trans ha.host.wq, ?_, ?_, ?_, height⟩
  · rw [hchan]
    exact hord.1.symm
  · rw [hchan]
    show [refusedId p.op p.msg] = _
    rw [hop]
    rfl
  · rw [hchan]

end RunsWrite

end Sys2Proof.Machine
end

section
/-! SIPHON_RX_READ_REQ, _READ_RESP, _XFER_RDY and _JRSP (spec 13 R443, R445, R452). -/

namespace Sys2Proof.Machine
open Sys2Proof

/-! ### READ_REQ -/

section ReadReq
variable {t g : Nat} {p : SPacket} {r : Region} {x : SReq} {c : Channel} {s z : State}

theorem serveReads_none (k : Nat) (h : (z.channel g).reads = []) : serveReads g k z = z := by
  cases k with
  | zero => rfl
  | succ k =>
    unfold serveReads
    dsimp only
    rw [h]
    exact ite_self z

/-- The answer to a READ_REQ. -/
def readReply (x : SReq) : SMsg :=
  { SMsg.blank with id := x.msg, op := 4, len := x.len, key := x.key, laddr := x.addr, total := x.len }

theorem addReply_set (hset : ChannelSet g c s z) (m : SMsg) :
    ChannelSet g { c with msgs := c.msgs ++ [m] } s (addReply g m z) ∧ SipReply [] z (addReply g m z) := by
  unfold addReply
  dsimp only
  rw [hset.same]
  exact ⟨hset.set _, sipReply_setChannel ..⟩

theorem serveReads_one (hset : ChannelSet g c s z) (hreads : c.reads = [x]) (hready : 2 ^ 31 ≤ psnDist x.psn c.expect)
    (hserved : readsServed c = 0) (k : Nat) : ChannelSet g { c with reads := [], msgs := c.msgs ++ [readReply x] } s (serveReads g (k + 1) z)
      ∧ SipReply [] z (serveReads g (k + 1) z) := by
  have hmark := hset.set { c with reads := [] }
  obtain ⟨hadd, hreply⟩ := addReply_set hmark (readReply x)
  have heq : serveReads g (k + 1) z = serveReads g k (addReply g (readReply x) (z.setChannel g { c with reads := [] })) := by
    have hone : [x].filter (fun x => decide (2 ^ 31 ≤ psnDist x.psn c.expect)) = [x] :=
      List.filter_cons_of_pos (decide_eq_true hready)
    conv_lhs => unfold serveReads
    dsimp only
    rw [hset.same, hserved, hreads, if_neg (by decide), hone]
    dsimp only [List.foldl_nil]
    rw [List.erase_cons_head]
    rfl
  rw [heq, serveReads_none k (by rw [hadd.same])]
  exact ⟨hadd, (sipReply_setChannel [] g _).trans hreply⟩

theorem psnDist_next {n : Nat} (h : n < 2 ^ 32) : 2 ^ 31 ≤ psnDist n ((n + 1) % 2 ^ 32) := by
  unfold psnDist
  omega

/-- A READ_REQ of packet `p` waits. -/
def readWaits (p : SPacket) : SReq where
  psn := p.psn
  msg := p.msg
  key := p.key
  addr := p.addr
  len := p.len

/-- What becomes of a READ_REQ. -/
def judgeRead (g : Nat) (p : SPacket) (y : State) (c : Channel) : RxDo :=
  match keyRegion y c p.key 2 p.addr p.len with
  | none => .refuse stACCESS
  | some _ =>
    if 80 ≤ readsServed c + c.reads.length then .refuse stNO_RESOURCE
    else .take (fun x => x.setChannel g { x.channel g with reads := (x.channel g).reads ++ [readWaits p] })

theorem runs_readReq (hcanon : Canonical s) (h : Receives s 3 p) (hord : InOrder s p) (hreads : (s.channel p.chan).reads = [])
    (hserved : readsServed (s.channel p.chan) = 0) (hkey : keyRegion s (s.channel p.chan) p.key 2 p.addr p.len = some r) :
    Runs (.siphonRxReadReq ⟨t, .clean⟩) s (fun u => TakesPacket p.chan s u ∧ u.wq = s.wq ∧ u.jrn = s.jrn
      ∧ (u.channel p.chan).reads = []
      ∧ (u.channel p.chan).msgs = (s.channel p.chan).msgs ++ [{ SMsg.blank with
          id := p.msg, op := 4, len := p.len, key := p.key, laddr := p.addr, total := p.len }]
      ∧ (u.channel p.chan).expect = (p.psn + 1) % 2 ^ 32) := by
  obtain ⟨y, paths, hserve, ha, hset⟩ := arrives_noted (t := t) hcanon h
  have hnext := inOrder_next (paths := paths) hord
  have hmark := hset.set { s.channel p.chan with rxPaths := paths, reads := [readWaits p] }
  have hjudge : judgeRead p.chan p y { s.channel p.chan with rxPaths := paths }
      = .take (fun x => x.setChannel p.chan { x.channel p.chan with reads := (x.channel p.chan).reads ++ [readWaits p] }) := by
    have hfew : ¬80 ≤ readsServed (s.channel p.chan) + (s.channel p.chan).reads.length := by
      rw [hserved, hreads]
      decide
    unfold judgeRead
    rw [(keyRegion_congr hset.regions ..).trans hkey]
    exact if_neg hfew
  have hchange : y.setChannel p.chan { y.channel p.chan with reads := (y.channel p.chan).reads ++ [readWaits p] }
      = y.setChannel p.chan { s.channel p.chan with rxPaths := paths, reads := [readWaits p] } := by
    rw [hset.same, hreads]
    rfl
  obtain ⟨⟨a, b, n, hlast⟩, htakes, hreply, -⟩ := packetAccepted (t := t)
    (c' := { s.channel p.chan with rxPaths := paths, reads := [readWaits p] }) ha hset.same hnext hjudge (by rw [hchange]; exact hmark)
    hnext.rcvd hnext.psn.symm hnext.low (by rw [hchange]; rfl) (by rw [hchange]; rfl)
  have hwaits : SipReply [1, 2] y (rxPsn t p.chan p (judgeRead p.chan p y) y) := by
    refine SipReply.trans ?_ hreply
    exact sipReply_setChannel ..
  obtain ⟨hserved, hserves⟩ := serveReads_one (x := readWaits p) hlast rfl (psnDist_next hnext.lt) hserved 15
  refine ⟨serveReads p.chan 16 (rxPsn t p.chan p (judgeRead p.chan p y) y), congrArg Host.Outcome.next (hserve _), ?_, ?_, ?_, ?_, ?_, ?_⟩
  · exact takesPacket ha hserved (hserves.rx.trans hwaits.rx)
  · rw [hserves.wq, hwaits.wq, ha.host.wq]
  · rw [hserves.jrn, hwaits.jrn, ha.jrn]
  · rw [hserved.same]
  · rw [hserved.same]
    rfl
  · rw [hserved.same]
    rfl

end ReadReq

/-! ### READ_RESP -/

section ReadResp
variable {t g : Nat} {p : SPacket} {m : SMsg} {o : Nat × Nat × Nat} {c : Channel} {s y z : State}

theorem readTarget_congr (h : y.wq = s.wq) (m : SMsg) : readTarget y m = readTarget s m := by
  unfold readTarget
  simp only [queue_congr h]

theorem readTarget_read (h : m.op = 3) : readTarget y m = (m.laddr, m.len) := by
  unfold readTarget
  rw [h]
  cases m.owner <;> rfl

/-- What the last data of a message do: they are written where `w` says, and a READ ends. -/
def respTaken (g : Nat) (p : SPacket) (c : Channel) (m : SMsg) (w : Nat × Nat) (a : SAsm) (x : State) : State :=
  let s1 := match m.owner with
    | some o => queueWrite o.1 o.2.1 o.2.2 (w.1 + p.off) [] p.payload x
    | none => x
  let s2 := asmPut g a (p.off / chPayload c) s1
  if asmFull (s2.channel g) 4 p.msg p.len then readDone g m (asmDrop g 4 p.msg s2) else s2

/-- What becomes of a READ_RESP. -/
def judgeResp (g : Nat) (p : SPacket) (y : State) (c : Channel) : RxDo :=
  match askedBy c p.msg with
  | none => .drop true
  | some m =>
    match asmFor c p with
    | none => .drop true
    | some a =>
      if a.len ≠ p.len ∨ p.len ≠ (readTarget y m).2 ∨ !packetSized c p p.len then .refuse stRANGE
      else .take (respTaken g p c m (readTarget y m) a)

theorem judgeResp_takes (hask : askedBy c p.msg = some m) (hop : m.op = 3) (hlen : p.len = m.len) (h : OnePacket c p) :
    judgeResp g p y c = .take (respTaken g p c m (m.laddr, m.len) (newAsm p c.state)) := by
  unfold judgeResp
  rw [hask]
  dsimp only
  rw [asmFor_new h.asm, readTarget_read hop]
  exact if_neg (by rw [packetSized_one h]; simp [newAsm, hlen])

theorem readDone_read (hop : m.op = 3) (howner : m.owner = some o) (hz : ChannelSet g c s z) : readDone g m z
    = finishChain o.1 o.2.1 o.2.2 stOK 0 (z.setChannel g { c with msgs := c.msgs.filter (fun x => decide (x ≠ m)) }) := by
  unfold readDone
  dsimp only
  rw [if_pos hop, howner, hz.same]

/-- The message that READ_RESP ended: its data are written, and its entry is done. -/
theorem respTaken_spec (hset : ChannelSet g c s y) (hhost : SameHost s y) (h : OnePacket c p) (hpop : p.op = 4) (hop : m.op = 3)
    (howner : m.owner = some o) (hok : requestRefused s o.1 o.2.1 m.laddr p.len = false) (hddr : isDdr m.laddr = false) :
    ∃ w, respTaken g p c m (m.laddr, m.len) (newAsm p c.state) y = finishChain o.1 o.2.1 o.2.2 stOK 0 w
      ∧ ChannelSet g { c with msgs := c.msgs.filter (fun x => decide (x ≠ m)) } s w ∧ w.wq = y.wq ∧ w.jrn = y.jrn
      ∧ w.siphon.rx = y.siphon.rx ∧ counter w 0x4203 2 = counter y 0x4203 2 ∧ Writes s o.1 o.2.1 m.laddr p.payload w := by
  have hok' : requestRefused s o.1 o.2.1 m.laddr p.payload.length = false := by rwa [h.payload]
  have hwrites := writes_queueWrite (idx := o.2.2) (marks := []) (data := p.payload) hhost hok' hddr
  have hplaced := placed_of_transmits (transmits_queueWrite (idx := o.2.2) (marks := []) (data := p.payload)
    ((requestRefused_of_host hhost ..).trans hok') hddr)
  unfold respTaken
  rw [howner]
  dsimp only
  rw [h.off, Nat.add_zero, Nat.zero_div]
  generalize queueWrite o.1 o.2.1 o.2.2 m.laddr [] p.payload y = x at hwrites hplaced
  have hx := hplaced.chan hset
  obtain ⟨hfull, hdrop, -, hreply⟩ := asmPut_whole hx h c.state
  rw [hpop] at hfull hdrop hreply
  rw [if_pos hfull]
  have hmark := hdrop.set { c with msgs := c.msgs.filter (fun x => decide (x ≠ m)) }
  have hlast := hreply.trans (sipReply_setChannel (z := asmDrop g 4 p.msg (asmPut g (newAsm p c.state) 0 x)) [] g
    { c with msgs := c.msgs.filter (fun x => decide (x ≠ m)) })
  refine ⟨_, readDone_read hop howner hdrop, hmark, hlast.wq.trans hplaced.host.wq, hlast.jrn.trans hplaced.jrn,
    hlast.rx.trans (congrArg Siphon.rx hplaced.siphon :), (hlast.sip 2 (by decide) (by decide)).trans (hplaced.counter ..),
    writes_mono hlast.out hwrites⟩

theorem runs_readResp (hcanon : Canonical s) (h : Receives s 4 p) (hord : InOrder s p)
    (hask : askedBy (s.channel p.chan) p.msg = some m) (hop : m.op = 3) (howner : m.owner = some o) (hlen : p.len = m.len)
    (hone : OnePacket (s.channel p.chan) p) (hok : requestRefused s o.1 o.2.1 m.laddr p.len = false) (hddr : isDdr m.laddr = false) :
    Runs (.siphonRxReadResp ⟨t, .clean⟩) s (fun u => TakesPacket p.chan s u ∧ Writes s o.1 o.2.1 m.laddr p.payload u
      ∧ EndsChain o.1 o.2.1 o.2.2 0 0 s u ∧ OtherQueues o.1 o.2.1 s u ∧ u.jrn = s.jrn
      ∧ (u.channel p.chan).msgs = (s.channel p.chan).msgs.filter (fun x => decide (x ≠ m))
      ∧ (u.channel p.chan).expect = (p.psn + 1) % 2 ^ 32) := by
  obtain ⟨y, paths, hserve, ha, hset⟩ := arrives_noted (t := t) hcanon h
  obtain ⟨-, -, -, -, -, -, -, -, -, -, hqueues, -⟩ := hcanon
  have hnext := inOrder_next (paths := paths) hord
  have hone' : OnePacket { s.channel p.chan with rxPaths := paths } p := ⟨hone.off, hone.pos, hone.fits, hone.payload, hone.asm⟩
  have hjudge := judgeResp_takes (g := p.chan) (y := y) (c := { s.channel p.chan with rxPaths := paths }) hask hop hlen hone'
  obtain ⟨w, hw, hchan, hwq, hjrn, hrx, hcount, hwrites⟩ := respTaken_spec hset ha.host hone' (receives_op h) hop howner hok hddr
  obtain ⟨hsip, hfjrn, hfout, hfdict⟩ := finishChain_leaves o.1 o.2.1 o.2.2 stOK 0 w
  obtain ⟨⟨a, b, n, hlast⟩, htakes, hreply, -⟩ := packetAccepted (t := t)
    (c' := { s.channel p.chan with rxPaths := paths, msgs := (s.channel p.chan).msgs.filter (fun x => decide (x ≠ m)) })
    ha hset.same hnext hjudge (by rw [hw]; exact hchan.then hsip) hnext.rcvd hnext.psn.symm hnext.low (by rw [hw, hsip]; exact hrx)
    (by rw [hw, counter_congr (congrArg Dict.counters hfdict)]; exact hcount)
  rw [hw] at hreply
  obtain ⟨hends, hothers⟩ := endsChain_finishChain (fn := o.1) (q := o.2.1) (first := o.2.2) (status := stOK) (result := 0) hqueues
    (hwq.trans ha.host.wq) hreply.wq
  refine ⟨rxPsn t p.chan p (judgeResp p.chan p y) y, congrArg Host.Outcome.next (hserve _), htakes, ?_, hends, hothers, ?_, ?_, ?_⟩
  · exact writes_mono (fun x hx => hreply.out x (by rw [hfout]; exact hx)) hwrites
  · rw [hreply.jrn, hfjrn, hjrn, ha.jrn]
  · rw [hlast.same]
    rfl
  · rw [hlast.same]
    rfl

end ReadResp

/-! ### XFER_RDY -/

section Grant
variable {t g : Nat} {p : SPacket} {m : SMsg} {o : Nat × Nat × Nat} {ch : Chain} {c : Channel} {s y z : State}

/-- The own JCMD_SEND that a packet of the target serves. -/
def served (p : SPacket) (m : SMsg) : Bool := ownMsg m && decide (m.id = p.msg ∧ m.op = 8)

/-- The data that a grant asks for. -/
def grantReply (p : SPacket) (m : SMsg) (w : Nat × Nat) : SMsg :=
  { SMsg.blank with
    id := p.msg, op := 1, len := w.2, laddr := w.1 + p.off, base := p.off, total := p.len, owner := m.owner, part := true }

/-- What becomes of an XFER_RDY. -/
def judgeGrant (g : Nat) (p : SPacket) (y : State) (c : Channel) : RxDo :=
  match c.msgs.find? (served p) with
  | none => .drop true
  | some m =>
    if (readTarget y m).2 < p.off + p.len ∨ p.len = 0 then .refuse stRANGE
    else .take (addReply g (grantReply p m (readTarget y m)))

theorem runs_xferRdy (hcanon : Canonical s) (h : Receives s 9 p) (hord : InOrder s p)
    (hfind : (s.channel p.chan).msgs.find? (fun m => ownMsg m && decide (m.id = p.msg ∧ m.op = 8)) = some m) (hpos : 0 < p.len)
    (hfits : p.off + p.len ≤ (readTarget s m).2) :
    Runs (.siphonRxXferRdy ⟨t, .clean⟩) s (fun u => TakesPacket p.chan s u ∧ u.wq = s.wq ∧ u.jrn = s.jrn
      ∧ (u.channel p.chan).expect = (p.psn + 1) % 2 ^ 32
      ∧ (u.channel p.chan).msgs = (s.channel p.chan).msgs ++ [{ SMsg.blank with
          id := p.msg, op := 1, len := (readTarget s m).2, laddr := (readTarget s m).1 + p.off, base := p.off
          total := p.len, owner := m.owner, part := true }]) := by
  obtain ⟨y, paths, hserve, ha, hset⟩ := arrives_noted (t := t) hcanon h
  have hnext := inOrder_next (paths := paths) hord
  have hjudge : judgeGrant p.chan p y { s.channel p.chan with rxPaths := paths }
      = .take (addReply p.chan (grantReply p m (readTarget s m))) := by
    have hfind' : ({ s.channel p.chan with rxPaths := paths } : Channel).msgs.find? (served p) = some m := hfind
    unfold judgeGrant
    rw [hfind']
    dsimp only
    rw [readTarget_congr ha.host.wq]
    exact if_neg (by omega)
  obtain ⟨hadd, hadds⟩ := addReply_set hset (grantReply p m (readTarget s m))
  obtain ⟨⟨a, b, n, hlast⟩, htakes, hreply, -⟩ := packetAccepted (t := t)
    (c' := { s.channel p.chan with rxPaths := paths, msgs := (s.channel p.chan).msgs ++ [grantReply p m (readTarget s m)] })
    ha hset.same hnext hjudge hadd hnext.rcvd hnext.psn.symm
    hnext.low hadds.rx (hadds.sip 2 (by decide) (by decide))
  refine ⟨rxPsn t p.chan p (judgeGrant p.chan p y) y, congrArg Host.Outcome.next (hserve _), htakes, ?_, ?_, ?_, ?_⟩
  · rw [hreply.wq, hadds.wq, ha.host.wq]
  · rw [hreply.jrn, hadds.jrn, ha.jrn]
  · rw [hlast.same]
    rfl
  · rw [hlast.same]
    rfl

/-! ### JRSP -/

/-- A response takes the messages of its JCMD_SEND away, and completes its entry. -/
def jrspTaken (g : Nat) (p : SPacket) (m : SMsg) (x : State) : State :=
  let c1 := x.channel g
  let s1 := x.setChannel g { c1 with msgs := c1.msgs.filter (fun y => !(decide (y.id = p.msg) && (y.part || decide (y.op = 8)))) }
  match m.owner with
  | none => s1
  | some o => match chainAt (s1.queue o.1 o.2.1) o.2.2 with
    | none => s1
    | some ch =>
      finishChain o.1 o.2.1 o.2.2 stOK 0
        (queueWrite o.1 o.2.1 o.2.2 (eAddr (ch.entries.headD []) + 64) [ch.entries.headD []] p.payload s1)

/-- What becomes of a JRSP. -/
def judgeJrsp (g : Nat) (p : SPacket) (c : Channel) : RxDo :=
  match c.msgs.find? (served p) with
  | none => .drop true
  | some m => if p.payload.length ≠ 16 then .refuse stRANGE else .take (jrspTaken g p m)

theorem jrspTaken_eq (hset : ChannelSet g c s y) (hmsgs : c.msgs = [m]) (hid : m.id = p.msg) (hop : m.op = 8)
    (howner : m.owner = some o) (hch : chainAt (y.queue o.1 o.2.1) o.2.2 = some ch) : jrspTaken g p m y
      = finishChain o.1 o.2.1 o.2.2 stOK 0 (queueWrite o.1 o.2.1 o.2.2 (eAddr (ch.entries.headD []) + 64) [ch.entries.headD []]
        p.payload (y.setChannel g { c with msgs := [] })) := by
  have hgone : [m].filter (fun y => !(decide (y.id = p.msg) && (y.part || decide (y.op = 8)))) = [] := by
    simp [hid, hop]
  have hch' : chainAt ((y.setChannel g { c with msgs := [] }).queue o.1 o.2.1) o.2.2 = some ch := hch
  unfold jrspTaken
  dsimp only
  rw [hset.same, hmsgs, hgone, howner]
  dsimp only
  rw [hch']

theorem runs_jrsp (hcanon : Canonical s) (h : Receives s 0xA p) (hord : InOrder s p) (hmsgs : (s.channel p.chan).msgs = [m])
    (hown : ownMsg m = true) (hid : m.id = p.msg) (hop : m.op = 8) (howner : m.owner = some o) (hlen : p.payload.length = 16)
    (hch : chainAt (s.queue o.1 o.2.1) o.2.2 = some ch)
    (hok : requestRefused s o.1 o.2.1 (eAddr (ch.entries.headD []) + 64) 16 = false)
    (hddr : isDdr (eAddr (ch.entries.headD []) + 64) = false) :
    Runs (.siphonRxJrsp ⟨t, .clean⟩) s (fun u => TakesPacket p.chan s u ∧ (u.channel p.chan).msgs = []
      ∧ Writes s o.1 o.2.1 (eAddr (ch.entries.headD []) + 64) p.payload u ∧ EndsChain o.1 o.2.1 o.2.2 0 0 s u
      ∧ OtherQueues o.1 o.2.1 s u ∧ u.jrn = s.jrn ∧ (u.channel p.chan).expect = (p.psn + 1) % 2 ^ 32) := by
  obtain ⟨y, paths, hserve, ha, hset⟩ := arrives_noted (t := t) hcanon h
  obtain ⟨-, -, -, -, -, -, -, -, -, -, hqueues, -⟩ := hcanon
  have hnext := inOrder_next (paths := paths) hord
  have hjudge : judgeJrsp p.chan p { s.channel p.chan with rxPaths := paths } = .take (jrspTaken p.chan p m) := by
    have hfind : ({ s.channel p.chan with rxPaths := paths } : Channel).msgs.find? (served p) = some m := by
      show (s.channel p.chan).msgs.find? (served p) = some m
      rw [hmsgs, List.find?_cons_of_pos (by unfold served; rw [hown, hid, hop]; simp)]
    unfold judgeJrsp
    rw [hfind]
    exact if_neg (not_not_intro hlen)
  have heq := jrspTaken_eq (p := p) (ch := ch) hset hmsgs hid hop howner (by rw [ha.host.queue]; exact hch)
  have hmark := hset.set { s.channel p.chan with rxPaths := paths, msgs := [] }
  have hmarks := sipReply_setChannel (z := y) [] p.chan { s.channel p.chan with rxPaths := paths, msgs := [] }
  have hhost : SameHost s (y.setChannel p.chan { s.channel p.chan with rxPaths := paths, msgs := [] }) :=
    ha.host.trans ⟨rfl, rfl, rfl⟩
  have hok' : requestRefused s o.1 o.2.1 (eAddr (ch.entries.headD []) + 64) p.payload.length = false := by rwa [hlen]
  have hwrites := writes_queueWrite (idx := o.2.2) (marks := [ch.entries.headD []]) (data := p.payload) hhost hok' hddr
  have hplaced := placed_of_transmits (transmits_queueWrite (idx := o.2.2) (marks := [ch.entries.headD []]) (data := p.payload)
    ((requestRefused_of_host hhost ..).trans hok') hddr)
  generalize y.setChannel p.chan { s.channel p.chan with rxPaths := paths, msgs := [] } = z at heq hmark hmarks hhost hwrites hplaced
  generalize queueWrite o.1 o.2.1 o.2.2 (eAddr (ch.entries.headD []) + 64) [ch.entries.headD []] p.payload z = w at heq hwrites hplaced
  obtain ⟨hsip, hfjrn, hfout, hfdict⟩ := finishChain_leaves o.1 o.2.1 o.2.2 stOK 0 w
  obtain ⟨⟨a, b, n, hlast⟩, htakes, hreply, -⟩ := packetAccepted (t := t)
    (c' := { s.channel p.chan with rxPaths := paths, msgs := [] }) ha hset.same hnext hjudge
    (by rw [heq]; exact (hplaced.chan hmark).then hsip) hnext.rcvd hnext.psn.symm hnext.low
    (by rw [heq, hsip]; exact ((congrArg Siphon.rx hplaced.siphon :) : w.siphon.rx = z.siphon.rx).trans hmarks.rx)
    (by rw [heq, counter_congr (congrArg Dict.counters hfdict), hplaced.counter]; exact hmarks.sip 2 (by decide) (by decide))
  rw [heq] at hreply
  obtain ⟨hends, hothers⟩ := endsChain_finishChain (fn := o.1) (q := o.2.1) (first := o.2.2) (status := stOK) (result := 0) hqueues
    (hplaced.host.wq.trans hhost.wq) hreply.wq
  refine ⟨rxPsn t p.chan p (judgeJrsp p.chan p) y, congrArg Host.Outcome.next (hserve _), htakes, ?_, ?_, hends, hothers, ?_, ?_⟩
  · rw [hlast.same]
    rfl
  · exact writes_mono (fun x hx => hreply.out x (by rw [hfout]; exact hx)) hwrites
  · rw [hreply.jrn, hfjrn, hplaced.jrn, hmarks.jrn, ha.jrn]
  · rw [hlast.same]
    rfl

end Grant

end Sys2Proof.Machine
end

section
/-! SIPHON_RX_ACK, _NAK and _CNP (spec 13 R446 to R450). -/

namespace Sys2Proof.Machine
open Sys2Proof

/-! ### A control packet and its sequence (R449) -/

section Control
variable {t op : Nat} {p : SPacket} {s w : State}

/-- From `s` to `w` control packet `p` was taken at `t`: its channel notes its path and its sequence, and it is counted. -/
structure ControlTaken (p : SPacket) (s w : State) : Prop where
  chan : ∃ paths, ChannelSet p.chan { s.channel p.chan with rxPaths := paths, ctlRx := some p.msg } s w
  wq : w.wq = s.wq
  jrn : w.jrn = s.jrn
  vals : w.dict.vals = s.dict.vals
  rx : w.siphon.rx = s.siphon.rx.drop 1
  two : counter w 0x4203 2 = satAdd64 (counter s 0x4203 2) 1
  counts : ∀ k, k < 256 → k ≠ 2 → counter w 0x4203 k = counter s 0x4203 k

theorem rxControl_fresh {g : Nat} {c : Channel} (hset : ChannelSet g c s w) (h : c.ctlRx = none) (go : State → State) :
    rxControl g p go w = go (sipCount 2 c.fn (w.setChannel g { c with ctlRx := some p.msg })) := by
  unfold rxControl
  dsimp only
  rw [hset.same, h]
  exact if_pos rfl

theorem rxControl_stale {g n : Nat} {c : Channel} (hset : ChannelSet g c s w) (h : c.ctlRx = some n) (hn : p.msg ≤ n)
    (go : State → State) : rxControl g p go w = w := by
  unfold rxControl
  dsimp only
  rw [hset.same, h]
  dsimp only
  exact if_neg (by rw [decide_eq_true_iff]; omega)

theorem controlTaken (hcanon : Canonical s) (h : Receives s op p) (hctl : (s.channel p.chan).ctlRx = none) : ∃ w,
    (∀ go : Nat → SPacket → State → State,
      rxServe t op .clean (fun g q st => rxControl g q (go g q) st) (advance t s) = go p.chan p w) ∧ ControlTaken p s w := by
  obtain ⟨y, paths, hserve, ha, hset⟩ := arrives_noted (t := t) hcanon h
  have hmark := hset.set { s.channel p.chan with rxPaths := paths, ctlRx := some p.msg }
  have hreply : SipReply [] y (y.setChannel p.chan { s.channel p.chan with rxPaths := paths, ctlRx := some p.msg }) :=
    sipReply_setChannel ..
  have hrun (go : Nat → SPacket → State → State) := (hserve (fun g q st => rxControl g q (go g q) st)).trans
    (rxControl_fresh hset hctl (go p.chan p))
  dsimp only at hrun
  generalize y.setChannel p.chan { s.channel p.chan with rxPaths := paths, ctlRx := some p.msg } = z at hmark hreply hrun
  have hcount := hreply.mono (m := [2]) (by decide) |>.trans (sipReply_sipCount (k := 2) (by decide) (s.channel p.chan).fn z)
  refine ⟨_, hrun, ⟨paths, hmark.then (siphon_sipCount ..)⟩, ?_, ?_, ?_, ?_, ?_, fun k hk hne => ?_⟩
  · exact hcount.wq.trans ha.host.wq
  · exact hcount.jrn.trans ha.jrn
  · exact hcount.vals.trans ha.vals
  · exact hcount.rx.trans ha.rx
  · rw [counter_sipCount, hreply.sip 2 (by decide) (by decide), ha.counts _ _ (by decide) (by decide)]
  · rw [hcount.sip k hk (by simpa using hne), ha.counts _ _ hk (by decide)]

theorem ControlTaken.takes {c : Channel} {u : State} (hw : ControlTaken p s w) (hset : ChannelSet p.chan c s u)
    (hrx : u.siphon.rx = w.siphon.rx) : TakesPacket p.chan s u := ⟨hrx.trans hw.rx, hset.regions, hset.other⟩

/-- A control packet whose sequence is not above the highest accepted only leaves its note for the path. -/
theorem staleControl {n : Nat} (hcanon : Canonical s) (h : Receives s op p) (hctl : (s.channel p.chan).ctlRx = some n)
    (hn : p.msg ≤ n) : ∃ u, (∀ go : Nat → SPacket → State → State,
      rxServe t op .clean (fun g q st => rxControl g q (go g q) st) (advance t s) = u) ∧ TakesPacket p.chan s u
      ∧ u.wq = s.wq ∧ u.jrn = s.jrn ∧ u.channel p.chan = { s.channel p.chan with rxPaths := (u.channel p.chan).rxPaths }
      ∧ counter u 0x4203 2 = counter s 0x4203 2 := by
  obtain ⟨y, paths, hserve, ha, hset⟩ := arrives_noted (t := t) hcanon h
  refine ⟨y, fun go => (hserve _).trans (rxControl_stale hset hctl hn _), takesPacket ha hset rfl, ha.host.wq, ha.jrn, ?_,
    ha.counts _ _ (by decide) (by decide)⟩
  rw [hset.same]

theorem runs_stale {e : (PacketAt → Instr) × Nat} (he : e ∈ siphonRxCommands) (hop : e.2 = 5 ∨ e.2 = 6 ∨ e.2 = 7) {n : Nat}
    (hcanon : Canonical s) (h : Receives s e.2 p) (hctl : (s.channel p.chan).ctlRx = some n) (hn : p.msg ≤ n) :
    Runs (e.1 ⟨t, .clean⟩) s (fun u => TakesPacket p.chan s u ∧ u.wq = s.wq ∧ u.jrn = s.jrn
      ∧ u.channel p.chan = { s.channel p.chan with rxPaths := (u.channel p.chan).rxPaths }
      ∧ counter u 0x4203 2 = counter s 0x4203 2) := by
  obtain ⟨u, hrun, hpost⟩ := staleControl (t := t) hcanon h hctl hn
  have hcases : e = (.siphonRxAck, 5) ∨ e = (.siphonRxNak, 6) ∨ e = (.siphonRxCnp, 7) := by
    simp only [siphonRxCommands, List.mem_cons, List.not_mem_nil, or_false] at he
    obtain rfl | rfl | rfl | rfl | rfl | rfl | rfl | rfl | rfl | rfl := he <;> revert hop <;> simp
  obtain rfl | rfl | rfl := hcases
  · exact ⟨u, congrArg Host.Outcome.next (hrun (onAck t)), hpost⟩
  · exact ⟨u, congrArg Host.Outcome.next (hrun fun g p x => channelError g stREMOTE_ERROR (some (p.off, p.len % 256)) false
      (sipCount 9 (x.channel g).fn x)), hpost⟩
  · exact ⟨u, congrArg Host.Outcome.next (hrun fun g p x => onCnp t g p.path p.len p.off (sipCount 0xB (x.channel g).fn x)), hpost⟩

end Control

/-! ### ACK -/

section Ack
variable {t g : Nat} {p : SPacket} {k : SPkt} {m : SMsg} {o : Nat × Nat × Nat} {c : Channel} {s w : State}

/-- The channel whose one packet was acknowledged. -/
def allAcked (t : Nat) (c : Channel) : Channel := { c with sent := [], retries := 0, rto := 0, rtoAt := t }

/-- The path of an acknowledged packet is well. -/
def pathWell (g : Nat) (k : SPkt) (z : State) : State :=
  match k.path with
  | some i => pathAcked g i z
  | none => z

theorem pathWell_set (hset : ChannelSet g c s w) (k : SPkt) :
    (∃ ps, ChannelSet g { c with paths := ps } s (pathWell g k w)) ∧ SipReply [] w (pathWell g k w) := by
  unfold pathWell
  split
  · exact ⟨⟨_, hset.setPath _ _⟩, sipReply_setChannel ..⟩
  · exact ⟨⟨c.paths, hset⟩, .refl _ w⟩

/-- A message all of whose packets are acknowledged has ended, and its entry with it. -/
theorem settleMsgs_one (hset : ChannelSet g c s w) (hsent : c.sent = []) (hmsgs : c.msgs = [m]) (hcut : m.cut = true)
    (hown : ownMsg m = true) (hop : m.op = 1 ∨ m.op = 2) (howner : m.owner = some o) : ∃ caps,
    settleMsgs g w = finishChain o.1 o.2.1 o.2.2 stOK 0 (w.setChannel g { c with msgs := [], capsules := caps }) := by
  have hdone : (m.part || decide (m.op ≠ 3 ∧ m.op ≠ 8)) = true := by
    rw [Bool.or_eq_true, decide_eq_true_iff]
    omega
  have hended : (c.msgs.filter fun m => m.cut && !([].any fun k : SPkt => decide (k.op = m.op ∧ k.msg = m.id)
      && (!m.part || decide (m.base ≤ k.off ∧ k.off < m.base + m.total))) && (m.part || decide (m.op ≠ 3 ∧ m.op ≠ 8))) = [m] := by
    rw [hmsgs]
    exact List.filter_cons_of_pos (by rw [hcut, hdone]; rfl)
  have hgone : (c.msgs.filter fun x => !([m] : List SMsg).contains x) = [] := by
    rw [hmsgs, List.filter_cons_of_neg (by simp)]
    rfl
  refine ⟨c.capsules.filter (fun x => !([m].any (fun m => decide (m.op = 0xA ∧ m.id = x.msg)))), ?_⟩
  unfold settleMsgs
  dsimp only
  rw [hset.same, hsent, hended, hgone]
  simp only [forEach, List.foldl_cons, List.foldl_nil, howner, hown, if_true]

theorem onAck_one (hset : ChannelSet g c s w) (hsent : c.sent = [k]) (hacked : acked p.psn p.addr k.psn = true) :
    onAck t g p w = serveReads g 16 (settleMsgs g (pathWell g k (w.setChannel g (allAcked t c)))) := by
  have hgone : [k].filter (fun k => acked p.psn p.addr k.psn) = [k] := List.filter_cons_of_pos hacked
  have hleft : [k].filter (fun k => !acked p.psn p.addr k.psn) = [] := List.filter_cons_of_neg (by simp [hacked])
  unfold onAck
  dsimp only
  rw [hset.same, hsent, hgone, hleft]
  rfl

theorem runs_ack (hcanon : Canonical s) (h : Receives s 5 p) (hctl : (s.channel p.chan).ctlRx = none)
    (hsent : (s.channel p.chan).sent = [k]) (hacked : acked p.psn p.addr k.psn = true) (hmsgs : (s.channel p.chan).msgs = [m])
    (hcut : m.cut = true) (hown : ownMsg m = true) (hop : m.op = 1 ∨ m.op = 2) (howner : m.owner = some o)
    (hreads : (s.channel p.chan).reads = []) :
    Runs (.siphonRxAck ⟨t, .clean⟩) s (fun u => TakesPacket p.chan s u ∧ (u.channel p.chan).sent = []
      ∧ (u.channel p.chan).msgs = [] ∧ (u.channel p.chan).retries = 0 ∧ (u.channel p.chan).rto = 0
      ∧ (u.channel p.chan).ctlRx = some p.msg ∧ (u.channel p.chan).expect = (s.channel p.chan).expect
      ∧ counter u 0x4203 2 = satAdd64 (counter s 0x4203 2) 1 ∧ EndsChain o.1 o.2.1 o.2.2 0 0 s u
      ∧ OtherQueues o.1 o.2.1 s u ∧ u.jrn = s.jrn) := by
  obtain ⟨w, hserve, hw⟩ := controlTaken (t := t) hcanon h hctl
  obtain ⟨-, -, -, -, -, -, -, -, -, -, hqueues, -⟩ := hcanon
  obtain ⟨paths, hset⟩ := hw.chan
  have heq := onAck_one (t := t) hset hsent hacked
  have hmark := hset.set (allAcked t { s.channel p.chan with rxPaths := paths, ctlRx := some p.msg })
  have hmarks : SipReply [] w (w.setChannel p.chan (allAcked t { s.channel p.chan with rxPaths := paths, ctlRx := some p.msg })) :=
    sipReply_setChannel ..
  generalize w.setChannel p.chan (allAcked t { s.channel p.chan with rxPaths := paths, ctlRx := some p.msg }) = z at heq hmark hmarks
  obtain ⟨⟨ps, hpath⟩, hpaths⟩ := pathWell_set hmark k
  have hreply := hmarks.trans hpaths
  generalize pathWell p.chan k z = y at heq hpath hreply
  obtain ⟨caps, hsettled⟩ := settleMsgs_one hpath rfl hmsgs hcut hown hop howner
  have hlast := hpath.set { allAcked t { s.channel p.chan with rxPaths := paths, ctlRx := some p.msg } with
    paths := ps, msgs := [], capsules := caps }
  have hall : SipReply [] w (y.setChannel p.chan { allAcked t { s.channel p.chan with rxPaths := paths, ctlRx := some p.msg } with
    paths := ps, msgs := [], capsules := caps }) := hreply.trans (sipReply_setChannel ..)
  rw [hsettled] at heq
  generalize y.setChannel p.chan { allAcked t { s.channel p.chan with rxPaths := paths, ctlRx := some p.msg } with
    paths := ps, msgs := [], capsules := caps } = v at heq hlast hall
  obtain ⟨hsip, hfjrn, -, hfdict⟩ := finishChain_leaves o.1 o.2.1 o.2.2 stOK 0 v
  have hend := hlast.then hsip
  rw [serveReads_none 16 ((congrArg Channel.reads hend.same).trans hreads)] at heq
  obtain ⟨hends, hothers⟩ := endsChain_finishChain (fn := o.1) (q := o.2.1) (first := o.2.2) (status := stOK) (result := 0) hqueues
    (hall.wq.trans hw.wq) rfl
  have hcount : counter (finishChain o.1 o.2.1 o.2.2 stOK 0 v) 0x4203 2 = counter v 0x4203 2 :=
    counter_congr (congrArg Dict.counters hfdict) ..
  refine ⟨_, congrArg Host.Outcome.next ((hserve (onAck t)).trans heq), hw.takes hend ((congrArg Siphon.rx hsip).trans hall.rx),
    ?_, ?_, ?_, ?_, ?_, ?_, ?_, hends, hothers, hfjrn.trans (hall.jrn.trans hw.jrn)⟩
  · rw [hend.same]
    rfl
  · rw [hend.same]
  · rw [hend.same]
    rfl
  · rw [hend.same]
    rfl
  · rw [hend.same]
    rfl
  · rw [hend.same]
    rfl
  · rw [hcount, hall.sip 2 (by decide) (by decide), hw.two]

end Ack

/-! ### NAK -/

section Nak
variable {t g st : Nat} {p : SPacket} {m : SMsg} {o : Nat × Nat × Nat} {named : Option (Nat × Nat)} {c : Channel} {s w : State}

theorem siphon_channelFailed : (channelFailed g s).siphon = (s.setChannel g (chStop (s.channel g) 4)).siphon := by
  have hdrop : Frame [.cipher, .jrn] (s.setChannel g (chStop (s.channel g) 4))
      (journalDrop (ofChannel g) (s.setChannel g (chStop (s.channel g) 4))) :=
    Frame.journalDrop (.of_all (by decide)) (Frame.refl _ _) _
  unfold channelFailed
  simp only [raise_siphon, sipCount, countFor, countQ_siphon]
  exact hdrop.siphon (by decide)

theorem counter_channelFailed_other {k : Nat} (hk : k < 256) (hne : k ≠ 0xD) :
    counter (channelFailed g s) 0x4203 k = counter s 0x4203 k := by
  have hdrop : Frame [.cipher, .jrn] (s.setChannel g (chStop (s.channel g) 4))
      (journalDrop (ofChannel g) (s.setChannel g (chStop (s.channel g) 4))) :=
    Frame.journalDrop (.of_all (by decide)) (Frame.refl _ _) _
  rw [channelFailed, (signals_raise 292 _).counter, counter_sipCount_other (objKey_ne_of_sub hk (by decide) hne)]
  exact counter_congr (hdrop.counters (by decide)) ..

/-- The result that an own message which ends with its channel gives. -/
def namedResult (m : SMsg) (named : Option (Nat × Nat)) : Nat :=
  match named with
  | some (id, r) => if m.id = id then r else 0
  | none => 0

theorem channelError_one (hc : (s.channel g).state ≠ 4) (hmsgs : (s.channel g).msgs = [m]) (hown : ownMsg m = true)
    (howner : m.owner = some o) (hrecvs : (s.channel g).recvs = []) :
    channelError g st named false s = finishChain o.1 o.2.1 o.2.2 st (namedResult m named) (channelFailed g s) := by
  unfold channelError
  dsimp only
  rw [if_neg hc, if_neg (by decide), hrecvs, hmsgs, List.filter_cons_of_pos hown]
  simp only [List.filter_nil, endRecvs, endMsgs, forEach, List.foldl_cons, List.foldl_nil, howner]
  rfl

theorem receives_state {op : Nat} (h : Receives s op p) : (s.channel p.chan).state ≠ 4 :=
  have ⟨_, _, _, _, _, _, _, _, _, _, _, hst, _⟩ := h
  hst

theorem runs_nak (hcanon : Canonical s) (h : Receives s 6 p) (hctl : (s.channel p.chan).ctlRx = none)
    (hmsgs : (s.channel p.chan).msgs = [m]) (hown : ownMsg m = true) (howner : m.owner = some o)
    (hrecvs : (s.channel p.chan).recvs = []) :
    Runs (.siphonRxNak ⟨t, .clean⟩) s (fun u => TakesPacket p.chan s u ∧ (u.channel p.chan).state = 4
      ∧ (u.channel p.chan).msgs = [] ∧ (u.channel p.chan).sent = []
      ∧ counter u 0x4203 9 = satAdd64 (counter s 0x4203 9) 1
      ∧ counter u 0x4203 0xD = satAdd64 (counter s 0x4203 0xD) 1 ∧ (evtStat u 9).testBit 4 = true
      ∧ EndsChain o.1 o.2.1 o.2.2 stREMOTE_ERROR (if m.id = p.off then p.len % 256 else 0) s u
      ∧ OtherQueues o.1 o.2.1 s u) := by
  obtain ⟨w, hserve, hw⟩ := controlTaken (t := t) hcanon h hctl
  obtain ⟨-, -, -, -, -, -, -, -, -, -, hqueues, -⟩ := hcanon
  obtain ⟨paths, hset⟩ := hw.chan
  have hcounts := sipReply_sipCount (k := 9) (by decide) (w.channel p.chan).fn w
  have hnine := counter_sipCount (k := 9) (w.channel p.chan).fn w
  have hcounted := hset.then (siphon_sipCount 9 (w.channel p.chan).fn w)
  have hrun := hserve fun g p x => channelError g stREMOTE_ERROR (some (p.off, p.len % 256)) false (sipCount 9 (x.channel g).fn x)
  generalize sipCount 9 (w.channel p.chan).fn w = y at hcounts hnine hcounted hrun
  have hsame := hcounted.same
  rw [channelError_one (m := m) (o := o) (by rw [hsame]; exact receives_state h) (by rw [hsame]; exact hmsgs) hown howner
    (by rw [hsame]; exact hrecvs)] at hrun
  have hsipFailed : (channelFailed p.chan y).siphon = (y.setChannel p.chan (chStop (y.channel p.chan) 4)).siphon := siphon_channelFailed
  have hfailed := (hcounted.set (chStop (y.channel p.chan) 4)).then hsipFailed
  have hwq := (frame_channelFailed (g := p.chan) (s := y)).wq (by decide)
  have hthirteen := counter_channelFailed (g := p.chan) (s := y)
  have hnine' := counter_channelFailed_other (g := p.chan) (s := y) (k := 9) (by decide) (by decide)
  have hbit : (evtStat (channelFailed p.chan y) 9).testBit 4 = true := raise_sets (n := 292) (by decide) _
  have hrx : (channelFailed p.chan y).siphon.rx = w.siphon.rx := (congrArg Siphon.rx hsipFailed).trans hcounts.rx
  generalize channelFailed p.chan y = z at hrun hsipFailed hfailed hwq hthirteen hnine' hbit hrx
  obtain ⟨hsip, -, -, hfdict⟩ := finishChain_leaves o.1 o.2.1 o.2.2 stREMOTE_ERROR (namedResult m (some (p.off, p.len % 256))) z
  have hevt := evt_finishChain o.1 o.2.1 o.2.2 stREMOTE_ERROR (namedResult m (some (p.off, p.len % 256))) z
  obtain ⟨hends, hothers⟩ := endsChain_finishChain (fn := o.1) (q := o.2.1) (first := o.2.2) (status := stREMOTE_ERROR)
    (result := namedResult m (some (p.off, p.len % 256))) hqueues (hwq.trans (hcounts.wq.trans hw.wq)) rfl
  have hend := hfailed.then hsip
  refine ⟨_, congrArg Host.Outcome.next hrun, hw.takes hend ((congrArg Siphon.rx hsip).trans hrx), ?_, ?_, ?_, ?_, ?_, ?_, hends, hothers⟩
  · rw [hend.same]
    rfl
  · rw [hend.same]
    rfl
  · rw [hend.same]
    rfl
  · rw [counter_congr (congrArg Dict.counters hfdict), hnine', hnine, hw.counts 9 (by decide) (by decide)]
  · rw [counter_congr (congrArg Dict.counters hfdict), hthirteen, hcounts.sip 0xD (by decide) (by decide),
      hw.counts 0xD (by decide) (by decide)]
  · rwa [evtStat_eq hevt]

end Nak

/-! ### CNP -/

section Cnp
variable {t g i : Nat} {p : SPacket} {p0 : SPath} {s w : State}

/-- The mark of a path after a CNP. -/
def cnpMark (received marked : Nat) (s : State) (p : SPath) : Int :=
  p.m + Int.tdiv ((((marked * 65536 / received : Nat) : Int) - p.m) * (cfgN s 0x4201 3 : Int)) 65536

/-- May a CNP cut the rate of a path again? -/
def cutDue (t : Nat) (s : State) (p : SPath) : Bool :=
  match p.lastCut with
  | none => true
  | some t0 => decide (t0 + cfgN s 0x4201 4 * 10 ^ 9 ≤ t)

/-- A path with the mark of a CNP. -/
def cnpMarked (t received marked : Nat) (s : State) (p : SPath) : SPath :=
  { p with m := cnpMark received marked s p, cnpSeen := true, stepAt := t }

/-- A path after a CNP. -/
def cnpPath (t received marked : Nat) (s : State) (p : SPath) : SPath :=
  if cutDue t s p then
    { cnpMarked t received marked s p with
      rh := p.rc, k := 0, lastCut := some t
      rc := max (cfgN s 0x4201 9) (((p.rc : Int) - Int.tdiv ((p.rc : Int) * cnpMark received marked s p) 131072).toNat) }
  else cnpMarked t received marked s p

theorem onCnp_eq {received marked : Nat} (h : cfgN s 0x4201 1 = 1) :
    onCnp t g i received marked s = setPath g i (cnpPath t received marked s) s := by
  unfold onCnp
  dsimp only
  exact if_neg (not_not_intro h)

theorem cnpPath_congr {received marked : Nat} {u : State} (h : u.dict.vals = s.dict.vals) :
    cnpPath t received marked u = cnpPath t received marked s := by
  have hdue (p : SPath) : cutDue t u p = cutDue t s p := by
    unfold cutDue
    simp only [cfgN_congr h]
  have hmark (p : SPath) : cnpMark received marked u p = cnpMark received marked s p := by
    unfold cnpMark
    rw [cfgN_congr h]
  funext p
  unfold cnpPath cnpMarked
  rw [hdue, hmark, cfgN_congr h]

theorem cnpPath_marks (received marked : Nat) : (cnpPath t received marked s p0).cnpSeen = true
    ∧ (cnpPath t received marked s p0).stepAt = t ∧ (cnpPath t received marked s p0).m = cnpMark received marked s p0 := by
  unfold cnpPath
  split <;> exact ⟨rfl, rfl, rfl⟩

theorem cnpPath_cut (received marked : Nat) (h : p0.lastCut = none) : cnpPath t received marked s p0 =
    { cnpMarked t received marked s p0 with
      rh := p0.rc, k := 0, lastCut := some t
      rc := max (cfgN s 0x4201 9) (((p0.rc : Int) - Int.tdiv ((p0.rc : Int) * cnpMark received marked s p0) 131072).toNat) } := by
  unfold cnpPath cutDue
  rw [h]
  exact if_pos rfl

theorem cnpPath_held (received marked : Nat) {t0 : Nat} (h : p0.lastCut = some t0) (ht : t < t0 + cfgN s 0x4201 4 * 10 ^ 9) :
    cnpPath t received marked s p0 = cnpMarked t received marked s p0 := by
  have hnot : cutDue t s p0 = false := by
    unfold cutDue
    rw [h]
    exact decide_eq_false (Nat.not_le_of_lt ht)
  unfold cnpPath
  rw [hnot]
  exact if_neg Bool.false_ne_true

theorem runs_cnp (hcanon : Canonical s) (h : Receives s 7 p) (hcc : cfgN s 0x4201 1 = 1) (hctl : (s.channel p.chan).ctlRx = none)
    (hpath : (s.channel p.chan).paths[p.path]? = some p0) :
    Runs (.siphonRxCnp ⟨t, .clean⟩) s (fun u => TakesPacket p.chan s u ∧ u.wq = s.wq ∧ u.jrn = s.jrn
      ∧ counter u 0x4203 0xB = satAdd64 (counter s 0x4203 0xB) 1
      ∧ (∀ i, i ≠ p.path → (u.channel p.chan).paths[i]? = (s.channel p.chan).paths[i]?)
      ∧ ∃ w, (u.channel p.chan).paths[p.path]? = some w ∧ w.cnpSeen = true ∧ w.stepAt = t
        ∧ w.m = p0.m + Int.tdiv ((((p.off * 65536 / p.len : Nat) : Int) - p0.m) * (cfgN s 0x4201 3 : Int)) 65536
        ∧ (p0.lastCut = none → w.rh = p0.rc ∧ w.k = 0 ∧ w.lastCut = some t
            ∧ w.rc = max (cfgN s 0x4201 9) (((p0.rc : Int) - Int.tdiv ((p0.rc : Int) * w.m) 131072).toNat))
        ∧ (∀ t0, p0.lastCut = some t0 → t < t0 + cfgN s 0x4201 4 * 10 ^ 9 →
            w.rc = p0.rc ∧ w.rh = p0.rh ∧ w.k = p0.k)) := by
  obtain ⟨w, hserve, hw⟩ := controlTaken (t := t) hcanon h hctl
  obtain ⟨paths, hset⟩ := hw.chan
  have hcounts := sipReply_sipCount (k := 0xB) (by decide) (w.channel p.chan).fn w
  have heleven := counter_sipCount (k := 0xB) (w.channel p.chan).fn w
  have hcounted := hset.then (siphon_sipCount 0xB (w.channel p.chan).fn w)
  have hrun := hserve fun g p x => onCnp t g p.path p.len p.off (sipCount 0xB (x.channel g).fn x)
  generalize sipCount 0xB (w.channel p.chan).fn w = y at hcounts heleven hcounted hrun
  have hvals := hcounts.vals.trans hw.vals
  rw [onCnp_eq (by rw [cfgN_congr hvals]; exact hcc), cnpPath_congr hvals] at hrun
  have hlast := hcounted.setPath p.path (cnpPath t p.len p.off s)
  have hreply : SipReply [] y (setPath p.chan p.path (cnpPath t p.len p.off s) y) := sipReply_setChannel ..
  generalize setPath p.chan p.path (cnpPath t p.len p.off s) y = z at hrun hlast hreply
  have hall := hcounts.trans (hreply.mono (m := [0xB]) (by decide))
  obtain ⟨hseen, hstep, hmark⟩ := cnpPath_marks (t := t) (s := s) (p0 := p0) p.len p.off
  refine ⟨z, congrArg Host.Outcome.next hrun, hw.takes hlast hall.rx, hall.wq.trans hw.wq, hall.jrn.trans hw.jrn, ?_, fun i hi => ?_,
    cnpPath t p.len p.off s p0, ?_, hseen, hstep, hmark, fun hnone => ?_, fun t0 hcut ht => ?_⟩
  · rw [hreply.sip 0xB (by decide) (by decide), heleven, hw.counts 0xB (by decide) (by decide)]
  · rw [hlast.same]
    exact getElem?_pathsWith_other hi
  · rw [hlast.same]
    exact getElem?_pathsWith_same hpath
  · rw [cnpPath_cut p.len p.off hnone]
    exact ⟨rfl, rfl, rfl, rfl⟩
  · rw [cnpPath_held p.len p.off hcut ht]
    exact ⟨rfl, rfl, rfl⟩

end Cnp

end Sys2Proof.Machine
end

section
/-! SIPHON_RX_JCMD (spec 13 R452), and the packets that are discarded or lost (R421, R422, 01 R26). -/

namespace Sys2Proof.Machine
open Sys2Proof

/-! ### JCMD -/

section Jcmd
variable {t g : Nat} {p : SPacket} {c : Channel} {s y z : State}

/-- The capsule of a JCMD. -/
def jcmdCap (p : SPacket) (refused : Bool) : Capsule where
  msg := p.msg
  cmd := p.payload
  grants := []
  granted := 0
  hd := []
  staging := []
  arrived := []
  units := 0
  md := 0
  started := false
  responded := refused

/-- The response to a capsule that is malformed. -/
def malformedReply (p : SPacket) : SMsg :=
  { SMsg.blank with id := p.msg, op := 0xA, len := 16, total := 16, body := jrspBytes stMALFORMED (beField p.payload 4 4) 0 }

/-- The capsule joins those of its channel, and is counted. -/
def capJoins (g : Nat) (p : SPacket) (fn : Nat) (x : State) : State :=
  countQ 0x4300 0x13 1 none none (some fn) (x.setChannel g { x.channel g with
    capsules := (x.channel g).capsules ++ [jcmdCap p false] })

/-- The capsule waits for the journal, or is answered at once. -/
def jcmdTaken (g : Nat) (p : SPacket) (c : Channel) (x : State) : State :=
  if capsuleMalformed (capJoins g p c.fn x) c.fn p.payload then capRespond g p.msg stMALFORMED 0 (capJoins g p c.fn x)
  else commandComes c.fn (capsuleCmd c.fn p.payload) (capJoins g p c.fn x)

/-- What becomes of a JCMD. -/
def judgeJcmd (g : Nat) (p : SPacket) (c : Channel) : RxDo :=
  if p.payload.length ≠ 64 ∨ p.len ≠ 64 then .refuse stRANGE
  else if 256 ≤ (c.capsules.filter (fun x => !x.responded)).length then .refuse stNO_RESOURCE
  else .take (jcmdTaken g p c)

theorem judgeJcmd_takes (hpay : p.payload.length = 64) (hlen : p.len = 64) (hcaps : c.capsules = []) :
    judgeJcmd g p c = .take (jcmdTaken g p c) := by
  unfold judgeJcmd
  rw [hpay, hlen, hcaps, if_neg (by decide)]
  exact if_neg (by decide)

theorem capsuleMalformed_congr (h : y.jrn = s.jrn) (fn : Nat) (b : Bytes) : capsuleMalformed y fn b = capsuleMalformed s fn b := by
  have hspace (n : Nat) : y.space n = s.space n := congrArg (fun x : Journal => Tab.get Space.reset x.spaces n) h
  simp only [capsuleMalformed, jFieldsBad, boundNs, h, hspace]

theorem capJoins_leaves (hset : ChannelSet g c s y) (hcaps : c.capsules = []) (fn : Nat) :
    ChannelSet g { c with capsules := [jcmdCap p false] } s (capJoins g p fn y)
      ∧ (capJoins g p fn y).wq = y.wq ∧ (capJoins g p fn y).jrn = y.jrn ∧ (capJoins g p fn y).siphon.rx = y.siphon.rx
      ∧ counter (capJoins g p fn y) 0x4203 2 = counter y 0x4203 2
      ∧ counter (capJoins g p fn y) 0x4300 0x13 = satAdd64 (counter y 0x4300 0x13) 1 := by
  have hmark := hset.set { c with capsules := [jcmdCap p false] }
  unfold capJoins
  rw [hset.same, hcaps, List.nil_append]
  refine ⟨hmark.then (countQ_siphon ..), countQ_wq .., countQ_jrn .., (congrArg Siphon.rx (countQ_siphon ..)).trans rfl, ?_, ?_⟩
  · exact counter_countQ_other (objKey_ne_of_idx (by decide) (by decide) (by decide)) ..
  · exact counter_countQ ..

/-- A capsule that is malformed is answered at once. -/
theorem capRespond_joined (hset : ChannelSet g { c with capsules := [jcmdCap p false] } s z) :
    ChannelSet g { c with capsules := [jcmdCap p true], msgs := c.msgs ++ [malformedReply p] } s (capRespond g p.msg stMALFORMED 0 z)
      ∧ SipReply [] z (capRespond g p.msg stMALFORMED 0 z) := by
  have hcap : capAt (z.channel g) p.msg = some (jcmdCap p false) := by
    rw [hset.same]
    exact List.find?_cons_of_pos (decide_eq_true rfl)
  have heq : capRespond g p.msg stMALFORMED 0 z
      = addReply g (malformedReply p) (updCap g p.msg (fun y => { y with responded := true, grants := [] }) z) := by
    unfold capRespond
    rw [hcap]
    rfl
  have hcaps : capsWith p.msg (fun y => { y with responded := true, grants := [] }) [jcmdCap p false] = [jcmdCap p true] :=
    congrArg (fun x => [x]) (if_pos rfl)
  have hupd := hset.updCap p.msg (fun y => { y with responded := true, grants := [] })
  dsimp only at hupd
  rw [hcaps] at hupd
  rw [heq]
  exact ⟨hupd.addReply _, (sipReply_setChannel [] g _).trans (sipReply_setChannel [] g _)⟩

/-- The messages that follow a capsule: a response, where it is malformed. -/
def capReplies (p : SPacket) (malformed : Bool) : List SMsg := if malformed then [malformedReply p] else []

theorem jcmdTaken_spec (hset : ChannelSet g c s y) (hcaps : c.capsules = []) (hjrn : y.jrn = s.jrn) :
    ChannelSet g { c with
        capsules := [jcmdCap p (capsuleMalformed s c.fn p.payload)]
        msgs := c.msgs ++ capReplies p (capsuleMalformed s c.fn p.payload) } s (jcmdTaken g p c y)
      ∧ (jcmdTaken g p c y).wq = y.wq ∧ (jcmdTaken g p c y).siphon.rx = y.siphon.rx
      ∧ counter (jcmdTaken g p c y) 0x4203 2 = counter y 0x4203 2
      ∧ counter (jcmdTaken g p c y) 0x4300 0x13 = satAdd64 (counter y 0x4300 0x13) 1 := by
  obtain ⟨hjoin, hwq, hj, hrx, htwo, hcount⟩ := capJoins_leaves (p := p) hset hcaps c.fn
  unfold jcmdTaken
  generalize capJoins g p c.fn y = z at hjoin hwq hj hrx htwo hcount ⊢
  rw [capsuleMalformed_congr (hj.trans hjrn)]
  cases capsuleMalformed s c.fn p.payload with
  | true =>
    obtain ⟨hresp, hreply⟩ := capRespond_joined hjoin
    rw [if_pos rfl]
    exact ⟨hresp, hreply.wq.trans hwq, hreply.rx.trans hrx, (hreply.sip 2 (by decide) (by decide)).trans htwo,
      (hreply.far _ _ (by decide) (by decide) (by decide)).trans hcount⟩
  | false =>
    have hframe : Frame [.jrn] z (commandComes c.fn (capsuleCmd c.fn p.payload) z) :=
      Frame.commandComes (.of_all (by decide)) (.refl _ z) ..
    have hsip := hframe.siphon (by decide)
    have hcounters := hframe.counters (by decide)
    rw [if_neg Bool.false_ne_true, capReplies, if_neg Bool.false_ne_true, List.append_nil]
    exact ⟨hjoin.then hsip, (hframe.wq (by decide)).trans hwq, (congrArg Siphon.rx hsip).trans hrx,
      (counter_congr hcounters ..).trans htwo, (counter_congr hcounters ..).trans hcount⟩

theorem runs_jcmd (hcanon : Canonical s) (h : Receives s 8 p) (hord : InOrder s p) (hpay : p.payload.length = 64)
    (hlen : p.len = 64) (hcaps : (s.channel p.chan).capsules = []) :
    Runs (.siphonRxJcmd ⟨t, .clean⟩) s (fun u => TakesPacket p.chan s u ∧ u.wq = s.wq
      ∧ (u.channel p.chan).expect = (p.psn + 1) % 2 ^ 32
      ∧ counter u 0x4300 0x13 = satAdd64 (counter s 0x4300 0x13) 1
      ∧ (u.channel p.chan).capsules = [{
          msg := p.msg, cmd := p.payload, grants := [], granted := 0, hd := [], staging := [], arrived := [], units := 0
          md := 0, started := false, responded := capsuleMalformed s (s.channel p.chan).fn p.payload }]
      ∧ (u.channel p.chan).msgs = (s.channel p.chan).msgs
        ++ (if capsuleMalformed s (s.channel p.chan).fn p.payload then [{ SMsg.blank with
              id := p.msg, op := 0xA, len := 16, total := 16
              body := jrspBytes stMALFORMED (beField p.payload 4 4) 0 }] else [])) := by
  obtain ⟨y, paths, hserve, ha, hset⟩ := arrives_noted (t := t) hcanon h
  have hnext := inOrder_next (paths := paths) hord
  have hjudge := judgeJcmd_takes (g := p.chan) (c := { s.channel p.chan with rxPaths := paths }) hpay hlen hcaps
  obtain ⟨htaken, hwq, hrx, htwo, hcount⟩ := jcmdTaken_spec (p := p) hset hcaps ha.jrn
  obtain ⟨⟨a, b, n, hlast⟩, htakes, hreply, -⟩ := packetAccepted (t := t)
    (c' := { s.channel p.chan with
      rxPaths := paths
      capsules := [jcmdCap p (capsuleMalformed s (s.channel p.chan).fn p.payload)]
      msgs := (s.channel p.chan).msgs ++ capReplies p (capsuleMalformed s (s.channel p.chan).fn p.payload) })
    ha hset.same hnext hjudge htaken hnext.rcvd hnext.psn.symm hnext.low hrx htwo
  refine ⟨rxPsn t p.chan p (judgeJcmd p.chan p) y, congrArg Host.Outcome.next (hserve _), htakes, ?_, ?_, ?_, ?_, ?_⟩
  · rw [hreply.wq, hwq, ha.host.wq]
  · rw [hlast.same]
    rfl
  · rw [hreply.far _ _ (by decide) (by decide) (by decide), hcount, ha.counts _ _ (by decide) (by decide)]
  · rw [hlast.same]
    rfl
  · rw [hlast.same]
    rfl

end Jcmd

/-! ### Packets that no channel takes -/

section Lost
variable {t op : Nat} {fault : BufFault} {r : SRx} {rest : List SRx} {go : Nat → SPacket → State → State} {s z : State}

theorem siphonRx_serves {e : (PacketAt → Instr) × Nat} (he : e ∈ siphonRxCommands) (t : Nat) (fault : BufFault) :
    ∃ go, ∀ s, exec (e.1 ⟨t, fault⟩) s = .next (rxServe t e.2 fault go (advance t s)) := by
  simp only [siphonRxCommands, List.mem_cons, List.not_mem_nil, or_false] at he
  obtain rfl | rfl | rfl | rfl | rfl | rfl | rfl | rfl | rfl | rfl := he <;> exact ⟨_, fun _ => rfl⟩

theorem rxServe_bad (hrx : z.siphon.rx = r :: rest) (h : packetBad r = true) :
    rxServe t op fault go z = sipCount 6 0 (rxPop r.sid z) := by
  unfold rxServe
  rw [hrx]
  exact if_pos h

theorem rxServe_waits (hrx : z.siphon.rx = r :: rest) (h : packetBad r = false) (hop : (parsePacket r.bytes).op ≠ op) :
    rxServe t op fault go z = z := by
  unfold rxServe
  rw [hrx]
  dsimp only
  rw [if_neg (by rw [h]; decide), if_pos (Or.inl hop)]

/-- From `z` to `u` the front packet went, and with it its cells. -/
structure PacketGone (z u : State) : Prop where
  siphon : u.siphon = { z.siphon with rx := z.siphon.rx.drop 1 }
  frame : Frame [.counters, .buf, .siphon] z u

theorem packetGone_rxPop (sid : Nat) (z : State) : PacketGone z (rxPop sid z) := ⟨siphon_rxPop sid z, frame_rxPop sid z⟩

theorem packetGone_fault (die sid : Nat) (fault : BufFault) (z : State) : PacketGone z (rxGone (cellFault die sid fault z).2) := by
  have hframe : Frame [.counters, .buf] z (cellFault die sid fault z).2 :=
    Frame.cellFault (.of_all (by decide)) (.refl _ z) ..
  have hsip := hframe.siphon (by decide)
  generalize (cellFault die sid fault z).2 = y at hframe hsip
  exact ⟨congrArg (fun x : Siphon => { x with rx := x.rx.drop 1 }) hsip,
    Frame.modSiphon (l := [.counters, .buf, .siphon]) (.of_all (by decide)) (hframe.mono (.of_all (by decide)))⟩

/-- A packet is lost at its half Culvert or in its cells. -/
theorem rxServe_lost (hrx : z.siphon.rx = r :: rest) (h : packetBad r = false) (hop : (parsePacket r.bytes).op = op)
    (hfarm : chEnc (z.channel (parsePacket r.bytes).chan) = true → farmFree z = true)
    (hlost : culvDown z (hdCulvert (dieOf r.port)) = true ∨ fault = .data ∨ ∃ place, fault = .link place) :
    PacketGone z (rxServe t op fault go z) := by
  have hcore : ¬ ((parsePacket r.bytes).op ≠ op
      ∨ (chEnc (z.channel (parsePacket r.bytes).chan) && pEnc (parsePacket r.bytes) && !farmFree z) = true) := by
    rintro (hx | hx)
    · exact hx hop
    · simp only [Bool.and_eq_true, Bool.not_eq_true'] at hx
      obtain ⟨⟨henc, -⟩, hfree⟩ := hx
      rw [hfarm henc] at hfree
      cases hfree
  unfold rxServe
  rw [hrx]
  dsimp only
  rw [if_neg (by rw [h]; decide), if_neg hcore]
  cases hdown : culvDown z (hdCulvert (dieOf r.port)) with
  | true =>
    rw [if_pos rfl]
    exact packetGone_rxPop ..
  | false =>
    rw [if_neg Bool.false_ne_true]
    have hcell : (cellFault (dieOf r.port) r.sid fault z).1 = true := by
      obtain hx | rfl | ⟨place, rfl⟩ := hlost
      · rw [hdown] at hx
        cases hx
      · rfl
      · rfl
    rw [if_pos hcell]
    exact packetGone_fault ..

theorem PacketGone.leaves {u : State} (h : PacketGone (advance t s) u) (hrx : s.siphon.rx = r :: rest) :
    u.siphon = { s.siphon with rx := rest } ∧ u.wq = s.wq ∧ u.jrn = s.jrn := by
  refine ⟨?_, (h.frame.wq (by decide)).trans (advance_wq ..), (h.frame.jrn (by decide)).trans (advance_jrn ..)⟩
  rw [h.siphon, advance_siphon, hrx]
  rfl

theorem runs_bad {e : (PacketAt → Instr) × Nat} (he : e ∈ siphonRxCommands) (hrx : s.siphon.rx = r :: rest)
    (h : packetBad r = true) :
    Runs (e.1 ⟨t, fault⟩) s (fun u => u.siphon = { s.siphon with rx := rest } ∧ u.wq = s.wq ∧ u.jrn = s.jrn
      ∧ counter u 0x4203 6 = satAdd64 (counter s 0x4203 6) 1) := by
  obtain ⟨go, hexec⟩ := siphonRx_serves he t fault
  have hserve := rxServe_bad (t := t) (op := e.2) (fault := fault) (go := go) (z := advance t s) (by rwa [advance_siphon]) h
  have hgone := packetGone_rxPop r.sid (advance t s)
  have hcount : counter (rxPop r.sid (advance t s)) 0x4203 6 = counter s 0x4203 6 :=
    (counter_rxPop r.sid _ (by decide) (by decide)).trans (counter_advance ..)
  generalize rxPop r.sid (advance t s) = y at hserve hgone hcount
  have hcounted := sipReply_sipCount (k := 6) (by decide) 0 y
  obtain ⟨hsip, hwq, hjrn⟩ := hgone.leaves hrx
  refine ⟨_, (hexec s).trans (congrArg Host.Outcome.next hserve), (siphon_sipCount ..).trans hsip, hcounted.wq.trans hwq,
    hcounted.jrn.trans hjrn, ?_⟩
  rw [counter_sipCount, hcount]

theorem runs_lost {e : (PacketAt → Instr) × Nat} (he : e ∈ siphonRxCommands) (hrx : s.siphon.rx = r :: rest)
    (h : packetBad r = false) (hop : (parsePacket r.bytes).op = e.2)
    (hfarm : chEnc (s.channel (parsePacket r.bytes).chan) = true → farmFree s = true)
    (hlost : culvDown s (hdCulvert (dieOf r.port)) = true ∨ fault = .data ∨ ∃ place, fault = .link place) :
    Runs (e.1 ⟨t, fault⟩) s (fun u => u.siphon = { s.siphon with rx := rest } ∧ u.wq = s.wq ∧ u.jrn = s.jrn) := by
  obtain ⟨go, hexec⟩ := siphonRx_serves he t fault
  have hgone := rxServe_lost (t := t) (go := go) (z := advance t s) (by rwa [advance_siphon]) h hop
    (by rwa [channel_advance, farmFree_advance]) (by rwa [culvDown_advance])
  exact ⟨_, hexec s, hgone.leaves hrx⟩

theorem runs_waits {e : (PacketAt → Instr) × Nat} (he : e ∈ siphonRxCommands) (hrx : s.siphon.rx = r :: rest)
    (h : packetBad r = false) (hop : (parsePacket r.bytes).op ≠ e.2) :
    Runs (e.1 ⟨t, fault⟩) s (fun u => u = advance t s) := by
  obtain ⟨go, hexec⟩ := siphonRx_serves he t fault
  have hserve := rxServe_waits (t := t) (op := e.2) (fault := fault) (go := go) (z := advance t s) (by rwa [advance_siphon]) h hop
  exact ⟨_, (hexec s).trans (congrArg Host.Outcome.next hserve), rfl⟩

end Lost

end Sys2Proof.Machine

namespace Sys2Proof
open Machine

/-- Settles O31: a packet that its channel takes is noted and judged by its opcode (13 R441 to R453); what is accepted moves the
channel alone, what is refused keeps its message as refused, and a packet that no channel takes leaves the engine's list alone. -/
theorem siphonReceive : Obligations.SiphonReceive := by
  unfold Obligations.SiphonReceive
  refine ⟨?_, ?_, ?_, ?_, ?_, ?_, ?_, ?_, ?_, ?_, ?_, ?_, ?_, ?_⟩
  · intro t p r s hcanon h hord hkey hoff hpos hfits hpay hasm hst hregion hacs
    exact runs_write hcanon hord h hkey ⟨hoff, hpos, hfits, hpay, hasm⟩ hst hregion hacs
  · intro t p s hcanon h hord hkey hoff hpos hfits hpay hasm hregion
    exact runs_writeNoRegion hcanon hord h hkey ⟨hoff, hpos, hfits, hpay, hasm⟩ hregion
  · intro t p r s hcanon h hord hoff hpos hfits hpay hasm hnotes hseen hregion hacs
    exact runs_writeImm hcanon hord h ⟨hoff, hpos, hfits, hpay, hasm⟩ hnotes hseen hregion hacs
  · intro t p s hcanon h hord hasm hbad
    exact runs_writeImmRefused hcanon hord h hasm hbad
  · intro t p r s hcanon h hord hreads hserved hregion
    exact runs_readReq hcanon h hord hreads hserved hregion
  · intro t p m o s hcanon h hord hask hop howner hoff hlen hpos hfits hpay hasm hok hddr
    exact runs_readResp hcanon h hord hask hop howner hlen ⟨hoff, hpos, hfits, hpay, hasm⟩ hok hddr
  · intro t p k m o s hcanon h hctl hsent hacked hmsgs hcut hown hop howner hreads
    exact runs_ack hcanon h hctl hsent hacked hmsgs hcut hown hop howner hreads
  · intro t p m o s hcanon h hctl hmsgs hown howner hrecvs
    exact runs_nak hcanon h hctl hmsgs hown howner hrecvs
  · intro e he hop t n p s hcanon h hctl hn
    exact runs_stale he hop hcanon h hctl hn
  · intro t p p0 s hcanon h hcc hctl hpath _
    exact runs_cnp hcanon h hcc hctl hpath
  · intro t p s hcanon h hord hpay hlen hcaps
    exact runs_jcmd hcanon h hord hpay hlen hcaps
  · intro t p m s hcanon h hord hfind hpos hfits
    exact runs_xferRdy hcanon h hord hfind hpos hfits
  · intro t p m o ch s hcanon h hord hmsgs hown hid hop howner hlen hch hok hddr
    exact runs_jrsp hcanon h hord hmsgs hown hid hop howner hlen hch hok hddr
  · intro e he t fault r rest s _ hrx
    exact ⟨fun h => runs_bad he hrx h, fun h hop hfarm hlost => runs_lost he hrx h hop hfarm hlost,
      fun h hop => runs_waits he hrx h hop⟩

end Sys2Proof
end
